-- ==== Sys2Proof/Word.lean ====
section
/-! DEFINITION. Word and byte types of the KZ16, and little-endian byte order (R3, R4). -/

namespace Sys2Proof

/-- One byte of a register, a message or a memory (R4). -/
abbrev Byte := BitVec 8
abbrev W16 := BitVec 16
abbrev W32 := BitVec 32
abbrev W64 := BitVec 64
/-- A 128-bit micro-operation (R105, R248). -/
abbrev W128 := BitVec 128

/-- Microseconds in arbiter cycles of 2.5 ns (R308). -/
def us (n : Nat) : Nat := n * 400

/-- The little-endian value of a byte list (R4). -/
def leNat : List Byte → Nat
  | [] => 0
  | b :: bs => b.toNat + 256 * leNat bs

/-- The `n` little-endian bytes of a value (R4). -/
def natLe : Nat → Nat → List Byte
  | 0, _ => []
  | n + 1, v => BitVec.ofNat 8 (v % 256) :: natLe n (v / 256)

/-- `a` is earlier than `b` in 32-bit serial-number arithmetic (R13, RFC 1982). -/
def precedes (a b : W32) : Bool :=
  a != b && (b - a).toNat < 2 ^ 31

/-- `x` clamped to the largest unsigned value of width `w` (R13). -/
def satNat (x w : Nat) : Nat := min x (2 ^ w - 1)

end Sys2Proof
end

