-- ==== Sys2Proof/Syntax.lean ====
section
/-! DEFINITION. The commands of the KZ16: one constructor of `Instr` per row of spec/opcode_table.json. -/

namespace Sys2Proof

/-- The units that can be struck: those with a unit state register (R359, R371). -/
inductive UnitId where
  | press (p : Fin 16)
  | core (k : Fin 4)
  | umem
  | stack (n : Fin 2)
  | sector (n : Fin 16)
  | port (n : Fin 20)
deriving DecidableEq, Repr

/-- Control units whose failure is a device-level fault (R367). -/
inductive CtlUnit where
  | stageManager | comparator | imposer | security | timeBase | governor | hostPort | ufsHost
deriving DecidableEq, Repr

/-- Everything that rehearses (R363, R366, R367, R471). -/
inductive RehUnit where
  | unit (u : UnitId)
  | cluster (k : Fin 4)
  | decoder
  | ctl (c : CtlUnit)
deriving DecidableEq, Repr

/-- A unit that runs a proof program (R337). -/
inductive ProofUnit where
  | press (p : Fin 16)
  | core (k : Fin 4)
deriving DecidableEq, Repr

/-- Reserved windows of the cue sheet (R41): the safety windows and the rehearsal reserve. -/
inductive Window where
  | perception | understudy | reserve
deriving DecidableEq, Repr

/-- Which safety windows end in one arbiter cycle (R472). -/
inductive WindowEnds where
  | perception | understudy | both
deriving DecidableEq, Repr

/-- What the curtain logic sees of its two pairs at a boundary (R332, R335 causes 0x03 and 0x14). -/
structure BoundaryObs where
  verdictBusy : Bool
  completeBusy : Bool
deriving DecidableEq, Repr

/-- The key of a scene instance (R294); `rep` marks a classification repeat (R340), `fine` a scene of the fine lowering (R269). -/
structure InstKey where
  play : Nat
  scene : Nat
  run : Nat
  rep : Bool
  fine : Bool
deriving DecidableEq, Repr

/-- A buffer the imposer names for one tensor of a run, or for a part of it from byte `off` on: its play address, its device
address and its length (R296, R277). For a leaf pool, `play` is where the play addresses of its home frames begin and `dev`
where those of its galley frames begin (R250). -/
structure BufReq where
  tensor : Nat
  off : Nat
  play : Nat
  dev : Nat
  len : Nat
deriving DecidableEq, Repr

/-- What the stage manager is asked to admit (R44); `faulty` is an understudy scene whose cores fault: what their fault does to bytes of the
results, by device address (R318). -/
inductive AdmitReq where
  | scene (k : InstKey) (bufs : List BufReq)
  | faulty (k : InstKey) (bufs : List BufReq) (flips : List (Nat × Byte))
  | slice (u : RehUnit)
deriving DecidableEq, Repr

/-- A fault of the platen at one row of a PRESS: an amount added to a column's tree output, or a parity error on the row's
activation bus (R112, R113). -/
inductive PlatenFault where
  | column (row : Nat) (col : Fin 64) (delta : Int)
  | activationParity (row : Nat)
deriving DecidableEq, Repr

/-- A fault that the curtain logic sees in a cue: the verdict pair reads (1,1), an operand of the evaluation failed to arrive, or the
cue-complete pair reads (1,1) (R331, R332, R335). -/
inductive VerdictFault where
  | pair | input | complete
deriving DecidableEq, Repr

/-- What a SEC-DED check finds on a read (R255). -/
inductive EccObs where
  | clean | single | double
deriving DecidableEq, Repr

/-- An error that a read of a case, the galley or the understudy memory met: the device address of its word, and whether it is a
double error (R255) (DESIGN CHOICE, assumption 34). -/
structure MemErr where
  addr : Nat
  double : Bool
deriving DecidableEq, Repr

/-- An entry whose parity fails when a press looks it up (R255): a cached translation, a block of the case cache, a line of a partition's galley
cache, the directory entry of an outstanding request (DESIGN CHOICE, assumption 34). -/
inductive TagErr where
  | page (play page : Nat)
  | block (dev : Nat)
  | line (part line : Nat)
  | request (play addr : Nat)
deriving DecidableEq, Repr

/-- What a platen repeat meets: the tile rows whose weight bus parity fails in its reload, and the faults of its fed rows (R113, R114). -/
structure RepeatObs where
  parity : List (Fin 64)
  faults : List PlatenFault
deriving DecidableEq, Repr

/-- The severity of a stack access (R254). -/
inductive StackObs where
  | clean | corrected | parity | uncorrectable
deriving DecidableEq, Repr

/-- What a camera port sees of a packet header or of the D-PHY (R60). -/
inductive HeaderObs where
  | clean | corrected | uncorrectable
deriving DecidableEq, Repr

/-- Where a vector micro-operation finds an operand: `n` elements of a format in the case, or rows of a drain queue (R117), or elements at a
play address that its stagehand reads through the case cache (R233, R241, R245). -/
inductive VecSrc where
  | case (line : Nat) (fmt : Nat) (n : Nat)
  | mem (addr : Nat) (fmt : Nat) (n : Nat)
  | drain (q : Fin 16) (n : Nat)
  | lit (vs : List W32)
deriving DecidableEq, Repr

/-- The operators of the catalogue that run on the vector unit (R165 to R169, R177, R186 to R194), with the attributes and
sizes each takes; sizes are the operand's dims, outermost first. PAGED_ATTENTION runs for one row of a step over one pool, its query heads
given. -/
inductive VecOp where
  | arith (mode : Nat)
  | maxMin (mode : Nat)
  | fma
  | unary (mode : Nat) (lo hi : W32)
  | special (mode : Nat)
  | sigmoid | silu | geluS | tanh
  | compare (mode : Nat)
  | select
  | reduce (mode len : Nat)
  | softmax (len : Nat)
  | layerNorm (len : Nat) (eps : W32)
  | rmsNorm (len : Nat) (eps : W32)
  | transpose (dims perm : List Nat)
  | slice (dims axes bounds : List Nat)
  | concat (outer : Nat)
  | gather (outer axis inner : Nat)
  | scatter (mode outer axis inner : Nat)
  | convert
  | rotary (d : Nat)
  | topk (len k : Nat) (descending : Bool)
  | sort (len : Nat) (descending : Bool)
  | nms (k : Nat) (threshold : W32) (classes : Bool)
  | expertRoute (e k : Nat)
  | expertDispatch (d e k : Nat)
  | expertCombine (d k : Nat)
  | sample (v k : Nat) (temperature : W32)
  | pool (mode h w wh ww sh sw pt pb pl pr : Nat)
  | resize (mode h w oh ow : Nat)
  | cropResize (images c h w oh ow : Nat)
  | pointScatter (mode c gy gx : Nat) (scalars : List W32)
  | gridProject (mode hw cells : Nat)
  | halftonePack (rate : Nat)
  | halftoneUnpack (rate : Nat)
  | depthwise (h w kh kw sh sw dh dw pt pb pl pr : Nat) (bias : Bool)
  | rawAdd
  | rawRound (fmt : Nat)
  | attention (pool row heads : Nat) (sigma : W32)
deriving DecidableEq, Repr

/-- A vector micro-operation (R117): operator, operands, their shapes where an elementwise operator broadcasts them (R162), destination
line in the case and output format. -/
structure VecMicro where
  op : VecOp
  srcs : List VecSrc
  shapes : List (List Nat)
  dst : Nat
  fmt : Nat
  stagehand : Fin 8
deriving DecidableEq, Repr

/-- What a compositor does with the case (R103, R127, R130, R131, R174, R226): it lays out skewed activation rows from a tensor whose
element (m, k) stands at m × `sm` + k × `sk`, weight tiles from element (k, n) at k × `sk` + n × `sn`, im2col rows, plain 64 B blocks, or
stores 64 B blocks back to play addresses. -/
inductive CompOp where
  | skewRows (src scales fmt sm sk k0 kdim rows slices aLine row0 : Nat)
  | weightTile (src scales fmt cls sk sn k0 kdim n0 rows cols wLine : Nat)
  | im2col (src fmt c h w cb kh kw sh sw dh dw : Nat) (pt pl : Int) (group cg ow m0 rows s0 aLine row0 : Nat)
  | lines (src n line : Nat)
  | store (dst n line : Nat)
deriving DecidableEq, Repr

/-- A place of a stagehand's program (R120, R266): a micro-operation of the platen, the vector unit or a compositor, with its bleed row, a scene
barrier, or work of the stagehand's own that no command issues. -/
inductive Micro where
  | press (w : W128)
  | vector (m : VecMicro)
  | compositor (comp : Fin 2) (bleed : Option (Nat × Bool × Nat)) (op : CompOp)
  | xfer (w : W128)
  | barrier
  | own
deriving DecidableEq, Repr

/-- What the operands of a vector micro-operation meet: an error of a store's word, or of a lookup's entry (R255). -/
inductive ReadErr where
  | word (e : MemErr)
  | entry (e : TagErr)
deriving DecidableEq, Repr

def ReadErr.mem : ReadErr → Option MemErr
  | .word e => some e
  | .entry _ => none

def ReadErr.tag : ReadErr → Option TagErr
  | .word _ => none
  | .entry e => some e

/-- Re-rig checks by the detail of event 0x0805 (R376). -/
inductive RigCheck where
  | proof | rehearsal | third
deriving DecidableEq, Repr

/-- Where the play addresses of a pool's home frames and of its galley frames begin (R250). -/
structure PoolPlace where
  play : Nat
  tensor : Nat
  home : Nat
  frames : Nat
deriving DecidableEq, Repr

/-- What a unit's proof program left (R337, R338): the result image, and the galley sectors on which a press's item 8 failed. -/
structure ProofObs where
  sectors : List (Fin 16)
  result : List Byte
deriving DecidableEq, Repr

/-- What LOADING ends with that the spec leaves to the device: the full-rehearsal times R_u (R47, R471), the expected proof CRC of the die's JPEG
frame (R89), the expected digests of the proof program that the firmware section holds, sixteen of a press and sixteen of a core (R337),
whether a weight page has no place (R407 check 10), the translation tables that place the constants (R227, R277), with the
weight section and the page in it that each constant page of a play holds (R259), where the batch ring lies in the galley (R84) and each
ingress copy in the understudy memory (R320), each partition's galley cache pages (R235), where the leaf pools lie (R250), and where the copy
container of each play lies in the galley (R393) (DESIGN CHOICE, assumption 103). -/
structure LoadReport where
  rehPress : Nat
  rehCore : Nat
  rehUmem : Nat
  rehSector : Nat
  rehStack : Nat
  rehIdle : List (RehUnit × Nat)
  proofCrc : List W32
  weightsFit : Bool
  l1 : List ((Nat × Nat) × W64)
  l2 : List ((Nat × Nat) × W128)
  consts : List ((Nat × Nat) × (Nat × Nat))
  ring : List Nat
  under : List (Nat × Nat)
  cache : List (Nat × Nat)
  pools : List PoolPlace
  copies : List (Nat × Nat)
  proofs : List W64 := []
deriving DecidableEq, Repr

/-- The commands: one constructor per row of spec/opcode_table.json, in the table's order. The first operand `t` of each is
the arbiter cycle of the happening (R308). -/
inductive Instr where
  | powerOn (t : Nat)
  | powerLoss (t : Nat)
  | resetNAssert (t : Nat)
  | resetNDeassert (t : Nat)
  | resetComplete (t : Nat)
  | ufsCommandComplete (t : Nat)
  | ufsCommandTimeout (t : Nat)
  | loadingComplete (t : Nat) (rep : LoadReport)
  | fuseBurnComplete (t : Nat)
  | cueInEdge (t low high : Nat) (obs : BoundaryObs)
  | cueInMissing (t : Nat) (obs : BoundaryObs)
  | internalCueBoundary (t : Nat) (obs : BoundaryObs)
  | stackRetrainDone (t : Nat) (n : Fin 2)
  | proofPassEnd (t : Nat) (u : ProofUnit) (failed : Option (Fin 11)) (obs : ProofObs)
  | proofReservationExpiry (t : Nat) (u : ProofUnit)
  | ingestCutoff (t : Nat)
  | windowStart (t : Nat) (w : Window)
  | windowEnd (t : Nat) (w : WindowEnds)
  | comparisonStart (t : Nat)
  | comparatorVerdict (t : Nat) (fault : Option VerdictFault)
  | publishDeadline (t : Nat)
  | lminMark (t : Nat)
  | rehearsalSuspendRequest (t : Nat) (u : RehUnit)
  | rehearsalSliceEnd (t : Nat) (u : RehUnit) (ok complete : Bool) (slice : Nat)
  | sceneAdmission (t : Nat) (r : AdmitReq)
  | stepFormation (t : Nat) (play : Nat)
  | partCommitRequest (t : Nat) (k : InstKey) (part : Nat) (errs : List MemErr)
  | sceneCommit (t : Nat) (k : InstKey)
  | sceneWatchdogExpiry (t : Nat) (k : InstKey)
  | sequencerTimeout (t : Nat) (p : Fin 16) (stagehand : Fin 8)
  | relowerComplete (t : Nat) (k : InstKey)
  | press (t : Nat) (p : Fin 16) (w : W128) (idx : Nat) (faults : List PlatenFault) (errs : List MemErr)
  | platenRepeatVerdict (t : Nat) (p : Fin 16) (obs : RepeatObs)
  | shadowLoadComplete (t : Nat) (p : Fin 16) (wLine : Nat) (parity : List (Fin 64))
  | groupDrain (t : Nat) (p : Fin 16) (bias : List W32)
  | accumulatorError (t : Nat) (p : Fin 16) (entry : Fin 512)
  | sequencerLockstepMismatch (t : Nat) (p : Fin 16) (stagehand : Fin 8)
  | vectorMicroOperation (t : Nat) (p : Fin 16) (idx : Nat) (m : VecMicro) (errs : List ReadErr)
  | compositorWrite (t : Nat) (p : Fin 16) (idx : Nat) (comp : Fin 2) (stagehand : Fin 8) (bleed : Option (Nat × Bool × Nat)) (op : CompOp) (tags : List TagErr) (errs : List MemErr)
  | xfer (t : Nat) (p : Fin 16) (idx : Nat) (w : W128) (tags : List TagErr) (errs : List MemErr)
  | xferComplete (t : Nat) (p : Fin 16) (comp : Fin 2)
  | compositorTimeout (t : Nat) (p : Fin 16) (comp : Fin 2)
  | translationWalkDone (t : Nat) (p : Fin 16) (stagehand : Fin 8) (play addr : Nat) (write : Bool) (idx : Nat) (tags : List TagErr)
  | trackerResponse (t : Nat) (id : Nat) (ecc : EccObs)
  | trackerTimeout (t : Nat) (id : Nat)
  | trackerTimeoutRepeat (t : Nat) (id : Nat)
  | prefetchIssue (t : Nat) (p : Fin 16) (stream : Fin 32) (tags : List TagErr)
  | fabricBlockReceive (t : Nat) (recv send : Byte) (data : List Byte) (addr : Nat) (crc : W16) (p : Option (Fin 16))
  | stackAccessComplete (t : Nat) (n : Fin 2) (addr : Nat) (obs : StackObs) (p : Option (Fin 16))
  | eccWriteBack (t : Nat) (addr : Nat)
  | constantRestoreDone (t : Nat)
  | mappingDropAck (t : Nat) (p : Fin 16) (play page : Nat)
  | rowReadyUpdate (t : Nat) (p : Fin 16) (tensor : Nat) (bottom : Bool) (row : Nat)
  | regulatorTick (t : Nat)
  | leafSweepDone (t : Nat) (play leaf : Nat)
  | classificationRepeatVerdict (t : Nat) (fault : Option VerdictFault)
  | stageManagerLockstepMismatch (t : Nat)
  | stageManagerWatchdogExpiry (t : Nat)
  | curtainWatchdogExpiry (t : Nat)
  | oscillatorMonitorCount (t : Nat) (count : Nat)
  | unitGroupReset (t : Nat) (u : UnitId)
  | reRigAttempt (t : Nat) (u : UnitId)
  | reRigCheckResult (t : Nat) (u : UnitId) (check : RigCheck) (ok : Bool)
  | portRerigSampleTimeout (t : Nat) (n : Fin 20)
  | reRigWaitExpiry (t : Nat) (u : UnitId)
  | csi2FrameStart (t : Nat) (n : Fin 16) (vc vcx frame : Nat) (hdr : HeaderObs)
  | csi2LongPacket (t : Nat) (n : Fin 16) (vc vcx dt : Nat) (hdr : HeaderObs) (crcOk : Bool) (payload : List Byte)
  | csi2FrameEnd (t : Nat) (n : Fin 16) (vc vcx frame : Nat) (hdr : HeaderObs)
  | ethernetFrame (t : Nat) (n : Fin 4) (frame : List Byte) (fcsOk : Bool) (offset : Int)
  | ptpSyncTimeout (t : Nat)
  | ppsEdge (t : Nat)
  | ppsTimeout (t : Nat)
  | jpegDecodeStart (t : Nat) (engine : Fin 4)
  | decodeDone (t : Nat) (slot : Fin 32) (engine : Fin 4)
  | decodeBudgetExpiry (t : Nat) (slot : Fin 32)
  | sampleComplete (t : Nat) (slot : Fin 32) (proofCrc : W32)
  | streamLossTimeout (t : Nat) (slot : Fin 32)
  | govPowerSample (t : Nat) (mw : Nat)
  | coreCurrentLimit (t : Nat)
  | avsCurrentRead (t : Nat) (ok : Bool) (tenthAmp : W16)
  | thermalSample (t : Nat) (readings : List Int)
  | pllLockLost (t : Nat) (pll : Fin 7)
  | supplyOutOfRange (t : Nat) (rail : Fin 12)
  | cmd0 (t : Nat)
  | cmd3 (t : Nat)
  | cmd5 (t : Nat) (ocr : BitVec 24)
  | cmd7 (t : Nat) (rca : W16)
  | cmd11 (t : Nat)
  | cmd15 (t : Nat) (rca : W16)
  | cmd19 (t : Nat)
  | cmd52 (t : Nat) (fn : Fin 8) (addr : BitVec 17) (write : Option Byte)
  | cccrResWrite (t : Nat)
  | sdPadSupplyLoss (t : Nat)
  | cmd53F1 (t : Nat) (addr : BitVec 17) (count : Nat) (write : Option (List Byte))
  | f1SnapshotRead (t : Nat) (addr : BitVec 17)
  | f1RegisterWrite (t : Nat) (addr : BitVec 17) (b : Byte)
  | acctSelectWrite (t : Nat) (bytes : List (Fin 2 × Byte))
  | curtainTestWrite (t : Nat) (bytes : List (Fin 4 × Byte))
  | rxResync (t : Nat) (bytes : List (Fin 4 × Byte))
  | hfIrqClear (t : Nat) (bytes : List (Fin 4 × Byte))
  | cueStatusClear (t : Nat) (bytes : List (Fin 4 × Byte))
  | f2BlockWrite (t : Nat) (crcOk : Bool) (block : List Byte)
  | hostMessageTimeout (t : Nat)
  | f3BlockRead (t : Nat) (n : Nat)
  | hello (t : Nat)
  | sessionOpen (t : Nat)
  | sessionInput (t : Nat)
  | sessionClose (t : Nat)
  | abort (t : Nat)
  | keepCreate (t : Nat)
  | keepRelease (t : Nat)
  | start (t : Nat)
  | maintenanceEnter (t : Nat)
  | maintenanceEnd (t : Nat)
  | updateDirectory (t : Nat)
  | updateKeepVerified (t : Nat) (pos : Fin 256)
  | updateData (t : Nat)
  | updateIdleTimeout (t : Nat)
  | fuseCommand (t : Nat)
  | attest (t : Nat)
  | tensorRead (t : Nat)
  | traceRead (t : Nat)
  | countersRead (t : Nat)
  | unsupportedMessage (t : Nat)
  | jtagBypass (t : Nat)
  | jtagIdcode (t : Nat)
  | jtagSamplePreload (t : Nat) (cells : List Byte)
  | jtagExtest (t : Nat)
  | jtagDebugInstruction (t : Nat) (code : Nat)
  | cmd53F0 (t : Nat) (fn : Fin 4) (write blockMode : Bool) (addr count : Nat) (data : List Byte)
  | functionReadyInIorx (t : Nat) (fn : Fin 4)
  | csi2LineOrGenericShortPacket (t : Nat) (n : Fin 16) (vc vcx dt : Nat) (hdr : HeaderObs)
  | dphyDeskewCalibration (t : Nat) (n : Fin 16)
  | peerDelayRequest (t : Nat) (n : Fin 4)
  | trstNAssert (t : Nat)
deriving DecidableEq, Repr

end Sys2Proof
end

