-- ==== Sys2Proof/Config.lean ====
section
/-! DEFINITION. What an implementation fixes and the free values: every constant here has no body, so nothing can be
proved of its value. -/

namespace Sys2Proof

/-- A micro-operation of a part as the budget model sees it (R270, R271): a PRESS with its rows, whether it swaps and whether its group
closes; a vector micro-operation, of latency 8 where it is special (R117); an access of the case; bytes moved at the galley or the stacks,
perhaps a page's first touch; a wait for a neighbour's band. -/
inductive CostOp where
  | press (m : Nat) (swap closes : Bool)
  | vec (special : Bool)
  | case
  | galley (bytes : Nat) (first : Bool)
  | stack (bytes : Nat) (first : Bool)
  | bleed
deriving DecidableEq, Repr

/-- A micro-operation with the places of those before it that it depends on. -/
structure CostMicro where
  op : CostOp
  after : List Nat
deriving DecidableEq, Repr

/-- What a part of an understudy scene does besides its matrix products (R321): a vector operation over elements, and bytes it moves. -/
inductive CoreOp where
  | vec (elements : Nat) (special : Bool)
  | umem (bytes : Nat)
  | galley (bytes : Nat)
deriving DecidableEq, Repr

/-- One axis of a phase convolution: the outputs `rest`, `rest` + s, … take these taps of the kernel, in ascending order of the input places that
they read, at this dilation and padding before (R176). -/
structure PhaseAxis where
  rest : Nat
  taps : List Nat
  dil : Nat
  pad : Int
deriving DecidableEq, Repr

/-- What the choice of micro-operations is made for: F_ARITH, the copy container, the device configuration, a stretch of nodes (rows `lo` to
`hi − 1` of a divided one), the presses counted, the parts, the part, the taps that may be left out, and the phase convolutions of the stretch's
CONV_TRANSPOSED nodes (R175, R176, R266). -/
structure Work where
  mhz : Nat
  copy : List Byte
  cfg : List Byte
  first : Nat
  last : Nat
  lo : Nat
  hi : Nat
  presses : Nat
  parts : Nat
  part : Nat
  dead : List (Nat × Nat × Nat)
  phases : List (Nat × PhaseAxis × PhaseAxis)
deriving DecidableEq, Repr

end Sys2Proof

namespace Sys2Proof.Config

/-- The micro-operations of a part, in order: R266 makes them a function of the forme and F_ARITH and the spec does not give it (DESIGN
CHOICE, assumption 32). -/
opaque microOps : Work → List CostMicro

/-- The micro-operations of one stagehand of a part, in program order, addresses and lines as they are issued (R120, R266; DESIGN CHOICE,
assumption 32). -/
opaque program : Work → Fin 8 → List Micro

/-- The vector operations and traffic of an understudy scene (DESIGN CHOICE, assumption 32). -/
opaque coreOps : Work → List CoreOp

/-- Into how many stripes the imposer cuts a stretch, and the first row of a part's stripe of a tensor (R178; DESIGN CHOICE, assumption 32). -/
opaque stripes : Work → Nat
opaque stripeRow : Work → Nat → Nat

/-- The item of the proof program whose part of a result image is wrong, by the image's digest, which does not name it (R338; DESIGN CHOICE,
assumption 158). -/
opaque proofItem : BitVec 64 → Fin 10

/-- The split of the case that the imposer sets for a part, in steps of 512 lines (R232; DESIGN CHOICE, assumption 32). -/
opaque caseSplit : Work → Fin 16

/-- The rate adjustment, in units of 0.1 ppm with an offset of 5,000, that the servo of R451 picks at its n-th adjustment;
the spec bounds it to 500 ppm and gives no law (DESIGN CHOICE, assumption 10). -/
opaque servoRate : Nat → BitVec 14

/-- The value the TAP's IDCODE register shows; R412 names the instruction and gives no code (PRESUMED, assumption 4). -/
opaque idcode : Nat → BitVec 32

/-- Boundary-scan cells captured from the pins at SAMPLE (R412; the spec gives no register; PRESUMED, assumption 4). -/
opaque scanCell : Nat → BitVec 8

/-- The tuning block of CMD19 as the SD specification gives it (R421; DESIGN CHOICE, assumption 12). -/
opaque tuningByte : Nat → BitVec 8

/-- A CCCR, FBR or CIS byte of function 0 that R422 does not give (SDIO gives it; DESIGN CHOICE, assumption 12). -/
opaque cccrByte : Nat → BitVec 8

/-- The die's fixed JPEG proof frame and its like are not in the spec: the bits a free value stands for (DESIGN CHOICE, assumption 9). -/
opaque freeByte : Nat → BitVec 8

/-- The host data of a decoded token in the further kind-1 tensors: the session's seed, the token's position and the place in the rows; the spec
gives a drawn token no host data (DESIGN CHOICE, assumption 9). -/
opaque tokenData : BitVec 64 → Nat → Nat → BitVec 8

/-- The relative card address published at the n-th CMD3 (SD lets the card choose; PRESUMED, assumption 8). -/
opaque rca : Nat → BitVec 16

/-- The fused VDD_CORE setpoint in mV for a part's fuse word and a junction temperature (R461 gives no law; DESIGN CHOICE, assumption 18).
-/
opaque setpoint : Nat → BitVec 16 → BitVec 16

/-- The magnitude of a two-frequency ToF pixel from those of its frequencies (R63 does not say; DESIGN CHOICE, assumption 26). -/
opaque tofMagnitude : Nat → Nat → Nat

/-- A sample of the fixed-point 8 × 8 IDCT of ISO/IEC 23002-2, from the dequantized coefficients row by row (R70 names the standard;
DESIGN CHOICE within assumption 33). -/
opaque idct : List Int → Nat → Int

/-- A component of a crop pixel outside a decoded JPEG image: the n-th free value, the component and the place (DESIGN CHOICE, assumption 27). -/
opaque outsidePixel : Nat → Nat → Nat → BitVec 8

/-- A sine or cosine that a lidar stream's tables do not hold, by its place (DESIGN CHOICE, assumption 28). -/
opaque trigOutside : Nat → BitVec 32

end Sys2Proof.Config
end

