-- ==== Sys2Proof/Machine/State.lean ====
section
/-! DEFINITION. The state of the KZ16 as plain data, the faults and refusals of a step, and the state after reset. -/

namespace Sys2Proof.Machine

/-- Reasons a step stops with a fault. -/
inductive Fault where
  /-- Nobody raises it: the spec gives every happening a state afterwards (R353). Safe. -/
  | none
deriving DecidableEq, Repr

/-- Reasons a step has no meaning. -/
inductive Refusal where
  /-- Raised by `exec` for a command whose meaning is not written. Safe. -/
  | notModelled (mnemonic : String)
  /-- Raised by JTAG_DEBUG_INSTRUCTION when the debug instruction acts (R412): the spec gives no effect. Safe. -/
  | debugEffectUnspecified
deriving DecidableEq, Repr

/-! ### Part, fuses and pins -/

inductive Grade where | s | l
deriving DecidableEq, Repr

inductive TempRange where | e | x
deriving DecidableEq, Repr

/-- What is fixed per part (R15, R27, R401, R461). -/
structure Ident where
  minor : BitVec 4
  grade : Grade
  temp : TempRange
  seed : List Byte
  serial : List Byte
  cert : List Byte
  rootDigest : List Byte
  vfused : Nat
deriving DecidableEq, Repr

/-- A customer key slot (R401). -/
structure KeySlot where
  digest : List Byte
  enrolled : Bool
  revoked : Bool
deriving DecidableEq, Repr

/-- A burn under way (R404, R405). -/
inductive Burn where
  | enroll (slot : Fin 4) (digest : List Byte)
  | revoke (slot : Fin 4)
  | advance (value : Nat)
  | lock
deriving DecidableEq, Repr

/-- The fuses other than the identity (R401) and the burns under way. -/
structure Fuses where
  slots : Vector KeySlot 4
  rollback : Nat
  debugLock : Bool
  burns : List Burn
deriving DecidableEq, Repr

/-- TAP instruction register (R412). -/
inductive TapInsn where | bypass | idcode | sample | extest
deriving DecidableEq, Repr

/-- Pins, rails, PLLs and the test port (R412, R445, R446, R455, R458, R466). -/
structure Chip where
  powered : Bool
  resetN : Bool
  railsOut : List (Fin 12)
  pllLost : List (Fin 7)
  ufsRst : Bool
  ufsRefclk : Bool
  tap : TapInsn
  tdo : List Byte
  scan : List Byte
deriving DecidableEq, Repr

/-! ### Device states, start-up and update -/

/-- The device states of R22. -/
inductive DevState where
  | reset | blank | loading | standby | running | degraded | safeHold | maintenance
deriving DecidableEq, Repr

/-- Where LOADING stands (R407). -/
inductive LoadPhase where
  | idle | directory | firmware | sections | judge
deriving DecidableEq, Repr

/-- A section entry of the directory (R393). -/
structure Section where
  kind : Nat
  index : Nat
  offset : Nat
  length : Nat
  digest : List Byte
deriving DecidableEq, Repr

/-- LOADING in progress: the directory read, the next section of the loading order to stream, the place in it and the first
failure of check 6. -/
structure Load where
  phase : LoadPhase
  sections : List Section
  next : Nat
  pos : Nat
  bad6 : Option Nat
deriving DecidableEq, Repr

/-- A host request whose reply is due later (R433): type, sequence, session and house sequence number. -/
structure Due where
  typ : Nat
  seq : W16
  session : W32
  number : W32
deriving DecidableEq, Repr

/-- DEVICE_STATE, DEVICE_CAUSE, LOAD_PROGRESS, FORME_DIGEST, FAULT_CAUSE, PROTO_VERSIONS.ACTIVE (R22, R29, R30, R372, R410). -/
structure Dev where
  st : DevState
  prev : DevState
  startPlaced : Bool
  cause : Byte
  detail : Byte
  sect : Byte
  progress : W64
  digest : List Byte
  faultN : Bool
  faultCause : BitVec 4
  faultUnit : Byte
  bare : Bool
  proto : Byte
  maint : List Due
  load : Load
  ufsRetry : Nat
  ufsAt : Nat
deriving DecidableEq, Repr

/-- What becomes of a section of a pending update (R415, R416). -/
inductive SecState where
  | candidate | needed | kept | written
deriving DecidableEq, Repr

/-- UPDATE_STATUS and the pending update (R414 to R418). -/
structure Upd where
  active : Bool
  dir : List Byte
  colophon : List Byte
  sections : List Section
  states : List SecState
  received : List Nat
  last : Nat
deriving DecidableEq, Repr

/-! ### The running forme -/

/-- A partition entry (R263). -/
structure Partition where
  kind : Nat
  width : Nat
  mask : W16
  min : Nat
  share : Nat
  cap : Nat
  galley : Nat
  cache : Nat
  leaf : Nat
  moves : Nat
  stack : Nat
  rateNom : Nat
  rateHigh : Nat
  depth : Nat
  trackers : Nat
  threshold : Nat
  zeros : Bool
deriving DecidableEq, Repr

/-- The cue sheet section in µs (R396). -/
structure Sheet where
  cutoff : Nat
  perStart : Nat
  perLen : Nat
  undStart : Nat
  undLen : Nat
  compLen : Nat
  publish : Nat
deriving DecidableEq, Repr

/-- A link between plays (R281). -/
structure Link where
  producer : Nat
  consumer : Nat
  ptensor : Nat
  ctensor : Nat
deriving DecidableEq, Repr

/-- Session limits of a play (R203). -/
structure Limits where
  pmax : Nat
  c : Nat
  tmax : Nat
  bmax : Nat
deriving DecidableEq, Repr

/-- A tensor entry (R151). -/
structure Tensor where
  format : Nat
  kind : Nat
  rank : Nat
  layout : Nat
  safety : Bool
  dims : List Nat
  source : Nat
  offset : Nat
  length : Nat
  name : Nat
  zeros : Bool
deriving DecidableEq, Repr

/-- One attribute of a node: key, type and values as raw 64-bit numbers (R158). -/
structure Attr where
  key : Nat
  typ : Nat
  vals : List Nat
deriving DecidableEq, Repr

/-- A node entry (R156). -/
structure Node where
  op : Nat
  ins : List Nat
  outs : List Nat
  attrs : List Attr
  hint : Nat
  name : Nat
  ok : Bool
deriving DecidableEq, Repr

/-- A scene hint (R160). -/
structure Hint where
  first : Nat
  last : Nat
  cap : Nat
  noSplit : Bool
  ok : Bool
deriving DecidableEq, Repr

/-- A stretch of a play's nodes that one scene runs; `hi` above 0 names rows `lo` to `hi − 1` of a divided node's outermost output dimension
(R267). -/
structure Span where
  first : Nat
  last : Nat
  lo : Nat
  hi : Nat
deriving DecidableEq, Repr

/-- A band of a striped scene: the tensor, the part that computes it, whether it is the bottom band, and its rows (R180). -/
structure Band where
  tensor : Nat
  part : Nat
  bottom : Bool
  rows : Nat
deriving DecidableEq, Repr

/-- What the lowering gives a scene: its budget in µs (R270), and part by part its isolated estimate in cycles (R283), the split of the case
(R232) and the programs of its eight stagehands (R266); a scene without programs, a leaf move, is held to none. -/
structure Cost where
  budget : Nat
  iso : List Nat
  splits : List Nat
  progs : List (List (List Micro)) := []
deriving DecidableEq, Repr

/-- A fine scene of a lowering: its stretch, its cost and its bands (R269). -/
structure FineRep where
  span : Span
  cost : Cost
  bands : List Band
deriving DecidableEq, Repr

/-- One scene of a lowering: its stretch, its cost, how many parts it has, its producer scenes, whether it writes the token output, its bands,
and its fine scenes (R267 to R270). -/
structure SceneRep where
  span : Span
  cost : Cost
  width : Nat
  producers : List Nat
  tokens : Bool
  bands : List Band
  fine : List FineRep
deriving DecidableEq, Repr

/-- A safety or understudy plan for one unit count (R272, R321): the ranks each scene runs on, its start, its cost and its bands, the makespan,
and the pages of the galley it needs (R473). -/
structure PlanRep where
  count : Nat
  ranks : List (List Nat)
  starts : List Nat
  costs : List Cost
  bands : List (List Band)
  makespan : Nat
  galleyNeed : Nat
deriving DecidableEq, Repr

/-- A play lowered (R266 to R273): its scenes, its plans, the pages of its leaf pools and of one step's buffers. -/
structure PlayRep where
  scenes : List SceneRep
  plans : List PlanRep
  leafNeed : Nat
  stepNeed : Nat
  lowerable : Bool
deriving DecidableEq, Repr

/-- A play: its container's contents (R149 to R160) and the lowering the imposer computed (R266 to R272). -/
structure Play where
  index : Nat
  kind : Nat
  part : Nat
  perSession : Bool
  tensors : List Tensor
  nodes : List Node
  hints : List Hint
  low : PlayRep
deriving DecidableEq, Repr

/-- Stream parameters (R56, R397); FP32 values as bits. -/
structure Stream where
  kind : Nat
  port : Nat
  vc : Nat
  dt : Nat
  ip : Nat
  udp : Nat
  required : Bool
  flags : Nat
  period : Nat
  width : Nat
  height : Nat
  cropX : Nat
  cropY : Nat
  cropW : Nat
  cropH : Nat
  bayer : Nat
  dpcm : Nat
  predictor : Nat
  colour : Nat
  matrix : List Int
  inOff : List Int
  outOff : List Int
  means : List W32
  scales : List W32
  boxX : Nat
  boxY : Nat
  outFmt : Nat
  cblock : Nat
  s2d : Nat
  budget : Nat
  reasm : Nat
  maxA : Nat
  maxB : Nat
  u1 : Nat
  u2 : Nat
  ampl : Nat
  tol : Nat
  maxRange : Nat
  testLine : Nat
  testOff : Nat
  testLen : Nat
  testCrc : Nat
  lidar : List Byte
  trig : List W32
  elev : List W32
deriving DecidableEq, Repr

/-- A camera port of the map (R397): lanes, clock lane, rate in Mb/s. -/
structure CamPort where
  lanes : Nat
  clock : Nat
  rate : Nat
deriving DecidableEq, Repr

/-- An Ethernet port of the map (R397): enabled, its MAC address and its IPv4 address. -/
structure EthPort where
  on : Bool
  mac : List Byte
  ip : Nat
deriving DecidableEq, Repr

/-- An operand of the safety rules (R327). -/
structure RuleOperand where
  chan : Nat
  play : Nat
  tensor : Nat
deriving DecidableEq, Repr

/-- A safety rule (R329). -/
structure Rule where
  op : Nat
  zone : Nat
  main : Nat
  under : Nat
  f : Nat
  n : Nat
  a : W16
  b : W16
deriving DecidableEq, Repr

/-- The safety rules section (R326 to R329). -/
structure Rules where
  test : Bool
  gy : Nat
  gx : Nat
  operands : List RuleOperand
  rules : List Rule
  zones : List (List Byte)
deriving DecidableEq, Repr

/-- An understudy ingress entry (R399). -/
structure Ingress where
  read : Bool
  channels : Nat
  pairs : List (W32 × W32)
deriving DecidableEq, Repr

/-- The running forme (R392 to R400) with what LOADING computed of it (R47, R89, R259, R272). -/
structure Forme where
  loaded : Bool
  period : Nat
  source : Nat
  startMode : Nat
  tracing : Bool
  epoch : Nat
  rollback : Nat
  advance : Bool
  parts : List Partition
  links : List Link
  limits : List Limits
  sheet : Sheet
  cams : List CamPort
  eths : List EthPort
  streams : List (Option Stream)
  rules : Rules
  ingress : List Ingress
  plays : List Play
  sections : List Section
  pageRecs : List (Nat × List (List Byte))
  proofCrc : List W32
  rehPress : Nat
  rehCore : Nat
  rehIdle : List (RehUnit × Nat)
  consts : List ((Nat × Nat) × (Nat × Nat))
  ring : List Nat
  under : List (Nat × Nat)
  pools : List PoolPlace
  copies : List (Nat × Nat)
  copyRecs : List (Nat × List (List Byte))
  /-- Expected digests of the proof program: sixteen of a press, then sixteen of a core (R337). -/
  proofs : List W64
deriving DecidableEq, Repr

/-! ### Time, cue and log -/

/-- Sources of R450. -/
inductive TimeSrc where | ptp | pps | free
deriving DecidableEq, Repr

/-- The time base (R449 to R451); `part` is the fraction of a nanosecond beyond `base`, in units of 10⁻⁷ ns. -/
structure TimeBase where
  base : Nat
  part : Nat
  anchor : Nat
  rate : Int
  stepped : Bool
  offset : W32
  profile : Bool
  port : BitVec 2
  master : Option (Nat × List Byte)
  ptpGood : Nat
  ptpBad : Nat
  lastSync : Nat
  ptpLocked : Bool
  ppsGood : Nat
  lastPps : Nat
  ppsLocked : Bool
  pdelays : Nat
  dreqs : Nat
  ptpLost : Bool
  ppsLost : Bool
deriving DecidableEq, Repr

/-- The cue registers and the running cue (R34 to R40, R51, R472); `seenNew` holds which of FAULT_SEEN and LATE_SEEN were set in the arbiter
cycle `seenAt` (R8). -/
structure Cue where
  count : W64
  source : BitVec 2
  extLost : Bool
  ptpAligned : Bool
  mark : BitVec 4
  faultSeen : Bool
  lateSeen : Bool
  seenNew : BitVec 2
  seenAt : Nat
  faultOvf : Bool
  lateOvf : Bool
  running : Bool
  lateCount : W32
  faultCount : W32
  b : Nat
  stamp : Nat
  stampPrev : Nat
  faultRun : Nat
  ignore : Bool
  standbyAt : Nat
  standbyNs : Nat
  late : Bool
  invalid : Bool
  pubCause : Byte
  perEnded : Bool
  undEnded : Bool
  compStarted : Bool
  compDone : Bool
  published : Bool
  stateAtB : DevState
  slotMask : W32
deriving DecidableEq, Repr

/-- One event record (R373). -/
structure LogRec where
  number : W32
  cue : W32
  offset : Nat
  unit : Byte
  code : W16
  detail : Byte
deriving DecidableEq, Repr

/-- What the house arbiter has placed in the present cycle (R309): numbered items and commits, whether the request under way has a number yet, and
how many cycles it has waited. -/
structure Arbiter where
  items : Nat
  commits : Nat
  begun : Bool
  slip : Nat
deriving DecidableEq, Repr

/-- The event log (R311, R373), newest record first, and the limited events logged in this cue. -/
structure Log where
  head : W32
  recs : List LogRec
  once : List (Nat × Nat)
deriving DecidableEq, Repr

/-! ### Units -/

/-- STATE of a unit state register (R371). -/
inductive UnitMode where
  | inService | struck | reRigging | retired | lost | absent
deriving DecidableEq, Repr

/-- A unit's state register (R371) with the bookkeeping of R50, R323, R338, R354, R359, R362 and R363; `rehearsed` once a full rehearsal has
ended in the cue that runs, or in LOADING (R407). -/
structure UnitRec where
  mode : UnitMode
  cause : Byte
  strikes : Byte
  attempts : BitVec 3
  age : BitVec 12
  rehearsed : Bool
  transients : W16
  recent : List Nat
  errors : List Nat
  overdue : Bool
  placed : Bool
  waitFrom : Nat
  checks : List RigCheck
  proof : Option Bool
  proofPrev : Option Bool
  proofFail : List (Fin 16)
  suspect : Bool
  suspectSrc : BitVec 2
  struckAt : Nat
  wasReset : Bool
deriving DecidableEq, Repr

/-! ### Curtain, comparator and classification -/

/-- A two-rail pair (R323, R332). -/
inductive Pair where | idle | good | bad | fault
deriving DecidableEq, Repr

/-- The curtain registers and the curtain logic (R332 to R336, R349 to R351, R474). -/
structure Curtain where
  running : Bool
  latch : Bool
  railFault : Bool
  testPending : Bool
  dropOvf : Bool
  runCues : W16
  cause : Byte
  unit : Byte
  cls : BitVec 4
  rule : Byte
  cueLow : W32
  drops : W32
  verdict : Pair
  complete : Pair
  test : Bool
  oscOut : Bool
  lastPulse : Nat
  startedAt : Nat
  faultCues : List Nat
deriving DecidableEq, Repr

/-- A mismatch classification (R340 to R343). -/
structure Classif where
  cue : Nat
  rule : Nat
  skipped : Bool
  proofStep : Bool
  armed : Bool
  rule2 : Nat
  units : List UnitId
  pending : List UnitId
  anyFail : Bool
  perPlan : Option (List (Fin 16))
  undPlan : Option (List (Fin 4))
deriving DecidableEq, Repr

/-! ### Scenes -/

/-- States of a scene instance (R294). -/
inductive InstState where
  | waiting | ready | running | killed | committed | abandoned
deriving DecidableEq, Repr

/-- Quantities that R287 and R288 charge. -/
structure Tally where
  slices : Nat
  vecOps : Nat
  comp : Nat
  galley : Nat
  stack : Nat
  fabric : Nat
deriving DecidableEq, Repr

/-- A scene instance and its current run (R294 to R305, R356, R358, R385): `spent` holds the buffers of its killed runs (R296), `xfers` the
XFERs of its run (R250), `coreBlocks` the galley blocks that an understudy run reads (R287), `place` the units that a displaced safety scene
was given (R276), `batch` the cue of the batch that its run reads (R295), and `wrote` the positions of its step's rows that its run has written
in each pool, as pool tensor, row and position (R384). -/
structure Inst where
  key : InstKey
  kind : Nat
  part : Nat
  st : InstState
  ord : Nat
  budget : Nat
  iso : List Nat
  splits : List Nat
  progs : List (List (List Micro)) := []
  units : List UnitId
  partsDone : List Nat
  at_ : Nat
  cue : Nat
  wd : Nat
  wasKilled : Bool
  faultIdx : Option (Nat × Nat)
  relower : Bool
  bufs : List BufReq
  dScene : W64
  dPlay : W64
  serial : W32
  refused : Bool
  avoid : List (Fin 16)
  reads : List (Nat × Nat × Nat)
  frames : List (Nat × Nat)
  spent : List BufReq
  xfers : List (Nat × Nat × Nat)
  coreBlocks : Nat
  place : List UnitId
  batch : Nat := 0
  wrote : List (Nat × Nat × Nat) := []
deriving DecidableEq, Repr

/-- A committed tensor image; `whole` once every scene of the run that writes the tensor has committed (R155, R282, R299, R305). -/
structure Value where
  play : Nat
  tensor : Nat
  run : Nat
  serial : W32
  cue : Nat
  valid : Bool
  rep : Bool
  whole : Bool
  bufs : List BufReq
  bytes : List Byte
deriving DecidableEq, Repr

/-- Rehearsal of one unit (R48, R49): a slice running, suspension asked. -/
structure Slice where
  unit : RehUnit
  suspending : Bool
  at_ : Nat
deriving DecidableEq, Repr

/-- Buffers of a killed run of a play that stay out of use until its last tracker has freed (R302). -/
structure Dying where
  play : Nat
  bufs : List BufReq
  ids : List Nat
deriving DecidableEq, Repr

/-- A scene record of the digest ring (R390). -/
structure DigRec where
  serial : W32
  run : W32
  dScene : W64
  dPlay : W64
  play : Nat
  flags : Nat
  scene : Nat
  unit : Byte
deriving DecidableEq, Repr

/-- DIG_PLAY[n] (R389). -/
structure DigPlay where
  digest : W64
  run : W32
  complete : Bool
  invalid : Bool
deriving DecidableEq, Repr

/-- The stage manager's scenes, commits, committed values, digests and rehearsals. -/
structure Sched where
  insts : List Inst
  serial : W32
  ord : Nat
  blocked : List Nat
  unmapped : List Nat
  values : List Value
  dying : List Dying
  slices : List Slice
  ctlAge : Vector (BitVec 12) 13
  ctlOverdue : List (Fin 13)
  ctlRehearsed : List (Fin 13)
  ctlProgress : List (RehUnit × Nat)
  planPresses : List (Fin 16)
  planCores : List (Fin 4)
  digHead : W32
  digRing : List DigRec
  digPlay : Vector DigPlay 32
deriving DecidableEq, Repr

/-! ### Sessions, keeps, leaves and steps -/

/-- An input of a session (R439): tokens, the rows of each further per-token tensor, DRAW. -/
structure Input where
  tokens : List W32
  extra : List (List Byte)
  draw : Bool
deriving DecidableEq, Repr

/-- Session states (R204). -/
inductive SessState where | idle | queued | running | closed
deriving DecidableEq, Repr

/-- A session slot that has been opened (R202 to R208, R439). -/
structure Session where
  slot : Nat
  gen : BitVec 22
  st : SessState
  play : Nat
  seed : W64
  committed : Nat
  leaves : List Nat
  prompt : Option Input
  held : List Input
  release : Bool
  maxNew : Nat
  stops : List W32
  drawn : Nat
  decoding : Option W32
  lastDraw : Option Nat
  ord : Nat
  full : Bool
deriving DecidableEq, Repr

/-- A keep slot (R207). -/
structure Keep where
  slot : Nat
  gen : W16
  live : Bool
  play : Nat
  leaves : List Nat
  len : Nat
deriving DecidableEq, Repr

/-- Leaf states of R198; an unlisted leaf is FREE. -/
inductive LeafState where | reserved | live | pinned
deriving DecidableEq, Repr

structure Leaf where
  play : Nat
  num : Nat
  st : LeafState
  count : W16
  sweep : Bool
  poisoned : Bool
deriving DecidableEq, Repr

/-- A row of a step (R209, R211). -/
structure Row where
  handle : W32
  slot : Nat
  start : Nat
  count : Nat
  tokens : List W32
  extra : List (List Byte)
  map : List Nat
  copySrc : Option Nat
  reserved : List Nat
  draws : Bool
  dropped : Bool
deriving DecidableEq, Repr

/-- An admitted step (R209 to R217). -/
structure Step where
  play : Nat
  no : Nat
  rows : List Row
  tokensDone : Bool
  abandoned : Bool
deriving DecidableEq, Repr

/-- Sessions, keeps, leaves, directory, heat and steps; the leaf directories' entries other than zero stand by play and leaf, a leaf move has its
number, its play, its leaf and the galley frame it moves into, and `dirty` holds the leaves that a step has written since they entered the
galley (R250). -/
structure Cog where
  sess : List Session
  keeps : List Keep
  leaves : List Leaf
  dir : List (Nat × Nat × W32)
  heat : List (Nat × Nat × Nat)
  moves : List (Nat × Nat × Nat × Option Nat)
  dirty : List (Nat × Nat)
  steps : List Step
  stepNo : List (Nat × Nat)
  ord : Nat
deriving DecidableEq, Repr

/-! ### Partitions and accounts -/

/-- A request to a stack that waits at its partition's regulator (R280): its press, its tracker, its device address, and whether it fills a
galley cache line. -/
structure Owed where
  press : Fin 16
  id : Nat
  dev : Nat
  fill : Bool
deriving DecidableEq, Repr

/-- Partition statistics and run-time state of one partition (R265, R268, R280, R283 to R286, PART_ registers). -/
structure PartRt where
  last : Nat
  hist : List Nat
  overThr : Bool
  overRun : Nat
  pref : List (Fin 16)
  cycles : W64
  commits : W32
  kills : W32
  refused : W32
  regWait : W32
  spills : W32
  leafMoves : W32
  ovf : BitVec 7
  peak : Nat
  pages : Nat
  curCycles : Nat
  measured : Nat
  estimate : Nat
  bucket : Int
  owed : List Owed
  waitedCue : Bool
  capUsed : List (Fin 16 × Nat)
  pressSlow : List (Fin 16 × Nat × Nat)
  kills4 : Nat
  highNow : Bool
deriving DecidableEq, Repr

/-- Accounts of one client (R287 to R290). -/
structure Acct where
  client : Nat
  cyc : W64
  bytes : W64
  pj : Nat
  ovfC : Bool
  ovfB : Bool
  ovfE : Bool
deriving DecidableEq, Repr

/-- The account window (R292). -/
structure AcctWin where
  sel : W16
  cyc : W64
  bytes : W64
  energy : W64
  info : W32
deriving DecidableEq, Repr

/-! ### Memory -/

/-- An outstanding request (R241 to R243): the press that asks, the stack where the record is the stack controller's own, its block and its
partition, and whether it still waits at the regulator, or behind it for a tracker of the controller (R280), its run was killed, it was
re-issued, or its block will be dropped. -/
structure Tracker where
  id : Nat
  press : Option (Fin 16)
  stack : Option (Fin 2)
  pool : Nat
  part : Nat
  play : Nat
  addr : Nat
  dev : Nat
  write : Bool
  waits : Bool
  noCtl : Bool := false
  killed : Bool
  reissued : Bool
  drop : Bool
  at_ : Nat
deriving DecidableEq, Repr

/-- A cached translation (R230). -/
structure TEntry where
  play : Nat
  page : Nat
  pte : W128
  locked : Bool
deriving DecidableEq, Repr

/-- A stream prefetcher (R245). -/
structure Prefetcher where
  idx : Fin 32
  hand : Fin 8
  play : Nat
  next : Nat
  stride : Int
  ahead : Nat
  misses : Nat
  stopped : Bool
deriving DecidableEq, Repr

/-- A page under restoration (R259): section, page within it, and its play-address page. -/
structure Restore where
  play : Nat
  sect : Nat
  page : Nat
  vpage : Nat
deriving DecidableEq, Repr

/-- A hop: the blocks being re-sent on it, each with the press that needs it and its re-sends (R252), and the cues of its exhaustions
(R359 cause 8). -/
structure Hop where
  recv : Byte
  send : Byte
  resends : List (Nat × Option (Fin 16) × Nat)
  exhausted : List Nat
deriving DecidableEq, Repr

/-- A mapping being dropped (R231): the play's page, its old device page and the presses that have not acknowledged. -/
structure Drop where
  play : Nat
  page : Nat
  dev : Nat
  presses : List (Fin 16)
deriving DecidableEq, Repr

/-- The memory system (R224 to R261): `gpages` holds each partition's galley cache pages (R235), `glines` the lines that the galley cache holds,
the most recently used first (R236). -/
structure Mem where
  cells : List Host.Cell
  poison : List Nat
  l1 : List ((Nat × Nat) × W64)
  l2 : List ((Nat × Nat) × W128)
  drops : List Drop
  tcache : List (Fin 16 × TEntry)
  split : Vector Nat 16
  blocks : List (Fin 16 × Nat)
  gpages : List (Nat × Nat)
  glines : List (Nat × Nat)
  trackers : List Tracker
  nextId : Nat
  prefetch : List (Fin 16 × Prefetcher)
  corrected : Vector W32 33
  doubles : Vector W32 33
  resent : Vector W32 256
  exhausted : Vector W32 256
  sevs : Vector W32 4
  pf : Vector W32 48
  timeouts : Vector W32 18
  restored : W32
  ovf : List Nat
  ring : List (W32 × Nat)
  doublesCue : Nat
  restore : List Restore
  hops : List Hop
  retrain : List (Fin 2)
  wbacks : List (Nat × Nat)
  high : Bool
deriving DecidableEq, Repr

/-! ### Press data path -/

/-- A weight tile: its first line, how many rows the loader read from the case (the rest are zero), and 64 rows of 64 slices of 16
bytes with their side bytes (R97, R99, R100). -/
structure Tile where
  line : Nat
  valid : Nat
  rows : List (List (List Byte × Byte))
deriving DecidableEq, Repr

/-- One column of an accumulator entry: the integer A with its NaN and OVF bits (R110, R134). -/
structure Acc where
  val : Int
  nan : Bool
  ovf : Bool
deriving DecidableEq, Repr

/-- An accumulation group (R110, R133). -/
structure Group where
  base : Nat
  m : Nat
  cls : Nat
  aFmt : Nat
  wFmt : Nat
  win : Int
  out : Nat
  cols : Nat
  q : Fin 16
  opened : Bool
  done : Bool
  count : Nat
  next : Nat
deriving DecidableEq, Repr

/-- A micro-operation waiting in the platen queue for its tile (R101, R120). -/
structure Waiting where
  w : W128
  idx : Nat
  faults : List PlatenFault
deriving DecidableEq, Repr

/-- A press trace record (R107). -/
structure TraceRec where
  w : W128
  entry : W32
  fed : W16
  bubbles : W16
  outcome : Byte
  row : Byte
deriving DecidableEq, Repr

/-- The micro-operation that the feeder is feeding (R102, R107, R109): its next row, the arithmetic cycle its first row entered at and
that cycle's count since the cue boundary. -/
structure Feeding where
  x : Waiting
  next : Nat
  first : Nat
  count : Nat
deriving DecidableEq, Repr

/-- A platen repeat (R114): the micro-operation being fed, the failing row, the source of the failure, the cycle the row entered at and the
rows fed so far (DESIGN CHOICE, assumption 61). -/
structure Repeat where
  c : Feeding
  row : Nat
  src : Nat
  at_ : Nat
  fed : Nat
  tracing : Bool
deriving DecidableEq, Repr

/-- Wait reasons of R120; the target of a full queue is 0 for the platen, 1 for the vector unit, 2 and 3 for the compositors. -/
inductive WaitReason where
  | none | cacheMiss | trackers | rowReady (tensor want : Nat) (bottom : Bool) | queueFull (target : Nat) | drainEmpty | barrier | walk
deriving DecidableEq, Repr

/-- A stagehand (R120), with the play and address of its most recent case-cache miss (R245), the blocks that its waiting micro-operation has
received (R241) and the arithmetic cycle since which it has not waited (R357). -/
structure Stagehand where
  counter : Nat
  regs : Vector W32 16
  wait : WaitReason
  miss : Option (Nat × Nat)
  got : List (Nat × Nat)
  since : Nat
deriving DecidableEq, Repr

/-- A press (R95 to R121); `ready` holds the case lines that the run has written, bank by bank, and the feeder's next row enters at
`nextRow` at the earliest, at `nextSwap` if it swaps (R102, R109); `last` is the cycle in which another micro-operation last retired (R298),
`issuedAt` that of the last issue and `served` its stagehand (R120, R357), `compAt` the arbiter cycle in which each compositor last began or
completed a block (R244), and `left` the blocks of the vector unit (0) and the compositors (1, 2) that have yet to take a tracker, each with
whether it is a write (R241). -/
structure Press where
  live : Option Tile
  shadow : Option Tile
  queue : List Waiting
  groups : List Group
  entries : List (Nat × List Acc)
  drainQ : List (Fin 16 × List (Nat × Nat))
  rep : Option Repeat
  trace : List TraceRec
  traced : Nat
  ran : Bool
  cur : Option Feeding
  ready : List (Nat × W64)
  nextRow : Nat
  nextSwap : Nat
  last : Nat
  hands : Vector Stagehand 8
  comps : Vector (Option W128) 2
  compAt : Vector Nat 2
  issuedAt : Nat
  served : Option (Fin 8)
  left : Vector (List (Nat × Bool)) 3
  bands : List (Nat × Bool × W16)
  tally : Tally
deriving DecidableEq, Repr

/-! ### Ingest -/

/-- A frame in progress on a camera or ToF stream (R60): the sample it belongs to, its start stamp and number, its image lines and
embedded lines so far, newest first, and whether a check has rejected it. -/
structure Frame where
  id : Nat
  stamp : Nat
  num : Nat
  lines : List (List Byte)
  embedded : List (List Byte)
  bad : Bool
deriving DecidableEq, Repr

/-- A set of ToF phase frames in progress (R61): its sample (0: it missed phase 0), the stamp and frame number of phase 0, the
phases so far, the phase that must come next, and whether a check has rejected it. -/
structure PhaseSet where
  id : Nat
  stamp : Nat
  num : Nat
  images : List (List (List Byte))
  next : Nat
  bad : Bool
deriving DecidableEq, Repr

/-- A lidar rotation in progress (R65, R66): its sample, stamp and count, the cycle of its first packet, its points and its status. -/
structure Rotation where
  id : Nat
  stamp : Nat
  num : Nat
  begun : Nat
  points : Nat
  recs : List Byte
  status : Nat
deriving DecidableEq, Repr

/-- An RTP JPEG frame in reassembly (R69, R86): its sample (0: it missed fragment offset 0), timestamp, start stamp, the next
fragment offset, what its first packet claims (type, width, height, restart interval and quantization tables), the reassembly buffer and its
status. -/
structure Reasm where
  id : Nat
  time : Nat
  stamp : Nat
  next : Nat
  typ : Nat
  w : Nat
  h : Nat
  rst : Nat
  tables : List Nat × List Nat
  bytes : List Byte
  status : Nat
deriving DecidableEq, Repr

/-- A reassembled JPEG frame: its slot, sample, stamp, timestamp, the cycle its engine started on it, and what is decoded (R68, R85). -/
structure JpegJob where
  slot : Fin 32
  id : Nat
  stamp : Nat
  num : Nat
  begun : Nat
  typ : Nat
  w : Nat
  h : Nat
  rst : Nat
  tables : List Nat × List Nat
  bytes : List Byte
deriving DecidableEq, Repr

/-- A sample of a stream: its number in the stream, start and completion stamps, status (R80), point count, frame number and output
bytes; whether its test row matched (R91). -/
structure Sample where
  id : Nat
  stamp : Nat
  done : Option Nat
  status : Nat
  points : Nat
  num : Nat
  bytes : List Byte
  test : Bool
deriving DecidableEq, Repr

/-- Run-time state of a stream (R60 to R93); `ready` holds the samples that await their proof check, `outcomes` those of proof checks that
an earlier sample still holds up (R90), and `rigFrom` the cycle of its last sample under re-rig (R363). -/
structure StreamRt where
  frame : Option Frame
  set : Option PhaseSet
  rotation : Option Rotation
  rotNum : W32
  lastAz : Option Nat
  lastSeq : Option Nat
  rtp : Option Reasm
  ready : List Sample
  samples : List Sample
  lastId : Nat
  proofRun : Nat
  rigProofs : Nat
  lossFrom : Nat
  lost : Bool
  returning : Bool
  returnedAt : Nat
  byRig : Bool
  rigFrom : Nat
  outcomes : List (Nat × Bool)
deriving DecidableEq, Repr

/-- A slot record of a batch (R82) with its bytes. -/
structure SlotRec where
  status : Nat
  stamp : Nat
  points : Nat
  num : Nat
  bytes : List Byte
deriving DecidableEq, Repr

/-- A batch (R82, R84), and the slots that the understudy reads as its ingress stage wrote them (R320) (DESIGN CHOICE, assumption 82). -/
structure Batch where
  cue : Nat
  stamp : Nat
  mask : W32
  slots : List SlotRec
  under : List (Nat × List Byte)
deriving DecidableEq, Repr

/-- Sensor ingest. -/
structure Ingest where
  streams : Vector StreamRt 32
  batches : List Batch
  engines : Vector (Option JpegJob) 4
  jpegQ : List JpegJob
  deskewed : List (Fin 16)
deriving DecidableEq, Repr

/-! ### Host port -/

/-- A Zelrin message (R431), its payload and how many F2 blocks it took. -/
structure Msg where
  version : Byte
  typ : Nat
  seq : W16
  session : W32
  payload : List Byte
  blocks : Nat
deriving DecidableEq, Repr

/-- SD card states: the SDIO initialisation and selection (R421, R424). -/
inductive CardState where | idle | ready | standby | selected | inactive
deriving DecidableEq, Repr

/-- The SD card (R421 to R424). -/
structure Card where
  st : CardState
  rca : W16
  v18 : Bool
  wide : Bool
  tuned : Bool
  ioe : BitVec 8
  ior : BitVec 8
  ien : BitVec 8
  busIf : Byte
  speed : Byte
  driver : Byte
  fbr : Vector Nat 4
  lost : Bool
  outOfRange : Bool
  resp : List Byte
deriving DecidableEq, Repr

/-- Host flow registers and message path (R425 to R442); `irqNew` holds the HF_IRQ bits that were set in the arbiter cycle `irqNewAt`
(R8). -/
structure Port where
  card : Card
  irqPin : Bool
  rxDiscard : Bool
  skipOvf : Bool
  irq : BitVec 7
  irqNew : BitVec 7
  irqNewAt : Nat
  irqEn : BitVec 7
  credit : W32
  rxCount : W32
  txAvail : W32
  txRead : W32
  skipped : W32
  w : W32
  cur : List Byte
  curAt : Nat
  ready : List Msg
  lastSeq : W16
  devSeq : W16
  tx : List (List Byte)
  txDone : Nat
  snap : Option (Nat × List Byte)
  hold : Option (Nat × List (Nat × Byte))
deriving DecidableEq, Repr

/-! ### Governor -/

/-- The governor (R461 to R467); `stepAt` is the cycle of the setpoint's last step, and `hotCue` says that a
sample of this cue was not below Tj_max − 10 °C. -/
structure Gov where
  high : Bool
  k : BitVec 5
  kReg : BitVec 5
  tj : W16
  sensor : BitVec 5
  power : W16
  sum : Nat
  num : Nat
  vcore : W16
  icore : W16
  retries : Nat
  stepAt : Nat
  stopped : Bool
  hot : Nat
  zones : BitVec 3
  cool : Nat
  hotCue : Bool
  withdrawn : Bool
  fullCues : Nat
  usedCycles : List (Nat × Nat)
deriving DecidableEq, Repr

/-! ### The whole state -/

/-- The state of the KZ16 (INVENTORY.md, State). -/
structure State where
  pending : List Instr
  now : Nat
  arb : Arbiter
  free : Nat
  ident : Ident
  fuses : Fuses
  chip : Chip
  dev : Dev
  upd : Upd
  ufs : List Host.Cell
  ufsCap : Nat
  forme : Forme
  tb : TimeBase
  cue : Cue
  log : Log
  units : Vector UnitRec 59
  cur : Curtain
  cls : List Classif
  sched : Sched
  cog : Cog
  part : Vector PartRt 8
  accts : List Acct
  acctWin : AcctWin
  mem : Mem
  press : Vector Press 16
  ing : Ingest
  port : Port
  gov : Gov
  overruns : List (Fin 100)
deriving DecidableEq, Repr

/-! ### Reset -/

def Load.idle : Load := { phase := .idle, sections := [], next := 0, pos := 0, bad6 := none }

def Dev.atReset : Dev :=
  { st := .reset, prev := .reset, startPlaced := false, cause := 0, detail := 0, sect := 0xFF#8, progress := 0
    digest := List.replicate 64 0, faultN := false, faultCause := 0, faultUnit := 0xFF#8, bare := false, proto := 0
    maint := [], load := Load.idle, ufsRetry := 0, ufsAt := 0 }

def Upd.none : Upd :=
  { active := false, dir := [], colophon := [], sections := [], states := [], received := [], last := 0 }

def Sheet.zero : Sheet :=
  { cutoff := 0, perStart := 0, perLen := 0, undStart := 0, undLen := 0, compLen := 0, publish := 0 }

def Rules.none : Rules := { test := false, gy := 0, gx := 0, operands := [], rules := [], zones := [] }

def Forme.none : Forme :=
  { loaded := false, period := 0, source := 0, startMode := 0, tracing := false, epoch := 0, rollback := 0
    advance := false, parts := [], links := [], limits := [], sheet := Sheet.zero, cams := [], eths := [], streams := []
    rules := Rules.none, ingress := [], plays := [], sections := [], pageRecs := [], proofCrc := [], rehPress := 0
    rehCore := 0, rehIdle := [], consts := [], ring := [], under := [], pools := [], copies := [], copyRecs := [], proofs := [] }

def TimeBase.atReset : TimeBase :=
  { base := 0, part := 0, anchor := 0, rate := 0, stepped := false, offset := 0, profile := false, port := 0, master := none
    ptpGood := 0, ptpBad := 0, lastSync := 0, ptpLocked := false, ppsGood := 0, lastPps := 0, ppsLocked := false
    pdelays := 0, dreqs := 0, ptpLost := false, ppsLost := false }

def Cue.atReset : Cue :=
  { count := 0, source := 0, extLost := false, ptpAligned := false, mark := 0, faultSeen := false, lateSeen := false
    seenNew := 0, seenAt := 0
    faultOvf := false, lateOvf := false, running := false, lateCount := 0, faultCount := 0, b := 0, stamp := 0
    stampPrev := 0, faultRun := 0, ignore := false, standbyAt := 0, standbyNs := 0, late := false, invalid := false, pubCause := 0
    perEnded := false, undEnded := false, compStarted := false, compDone := false, published := false, stateAtB := .reset, slotMask := 0 }

def UnitRec.fresh : UnitRec :=
  { mode := .inService, cause := 0, strikes := 0, attempts := 0, age := 0, rehearsed := false, transients := 0, recent := [], errors := []
    overdue := false, placed := false, waitFrom := 0, checks := [], proof := none, proofPrev := none, proofFail := []
    suspect := false, suspectSrc := 0, struckAt := 0, wasReset := false }

def Curtain.atReset : Curtain :=
  { running := false, latch := false, railFault := false, testPending := false, dropOvf := false, runCues := 0
    cause := 0x01#8, unit := 0xFF#8, cls := 0, rule := 0xFF#8, cueLow := 0, drops := 0, verdict := .idle
    complete := .idle, test := false, oscOut := false, lastPulse := 0, startedAt := 0, faultCues := [] }

def Sched.empty : Sched :=
  { insts := [], serial := 0, ord := 0, blocked := [], unmapped := [], values := [], dying := [], slices := []
    ctlAge := Vector.replicate 13 0, ctlOverdue := [], ctlRehearsed := [], ctlProgress := [], planPresses := [], planCores := [], digHead := 0, digRing := []
    digPlay := Vector.replicate 32 { digest := 0, run := 0, complete := false, invalid := false } }

def Cog.empty : Cog :=
  { sess := [], keeps := [], leaves := [], dir := [], heat := [], moves := [], dirty := [], steps := [], stepNo := [], ord := 0 }

def PartRt.zero : PartRt :=
  { last := 0, hist := [], overThr := false, overRun := 0, pref := List.finRange 16, cycles := 0, commits := 0, kills := 0
    refused := 0, regWait := 0, spills := 0, leafMoves := 0, ovf := 0, peak := 0, pages := 0, curCycles := 0
    measured := 0, estimate := 0, bucket := 0, owed := [], waitedCue := false, capUsed := [], pressSlow := [], kills4 := 0
    highNow := false }

def AcctWin.zero : AcctWin := { sel := 0, cyc := 0, bytes := 0, energy := 0, info := 0 }

def Mem.cleared : Mem :=
  { cells := [], poison := [], l1 := [], l2 := [], drops := [], tcache := [], split := Vector.replicate 16 8192
    blocks := [], gpages := [], glines := [], trackers := [], nextId := 0, prefetch := [], corrected := Vector.replicate 33 0
    doubles := Vector.replicate 33 0, resent := Vector.replicate 256 0, exhausted := Vector.replicate 256 0
    sevs := Vector.replicate 4 0, pf := Vector.replicate 48 0, timeouts := Vector.replicate 18 0, restored := 0
    ovf := [], ring := [], doublesCue := 0, restore := [], hops := [], retrain := [], wbacks := [], high := false }

def Tally.zero : Tally := { slices := 0, vecOps := 0, comp := 0, galley := 0, stack := 0, fabric := 0 }

def Stagehand.zero : Stagehand := { counter := 0, regs := Vector.replicate 16 0, wait := .none, miss := none, got := [], since := 0 }

def Press.atReset : Press :=
  { live := none, shadow := none, queue := [], groups := [], entries := [], drainQ := [], rep := none, trace := [], traced := 0
    ran := false, cur := none, ready := [], nextRow := 0, nextSwap := 0, last := 0, hands := Vector.replicate 8 Stagehand.zero
    comps := Vector.replicate 2 none, compAt := Vector.replicate 2 0, issuedAt := 0, served := none
    left := Vector.replicate 3 [], bands := [], tally := Tally.zero }

def StreamRt.fresh : StreamRt :=
  { frame := none, set := none, rotation := none, rotNum := 0, lastAz := none, lastSeq := none, rtp := none, ready := []
    samples := [], lastId := 0, proofRun := 0, rigProofs := 0, lossFrom := 0, lost := false, returning := false
    returnedAt := 0, byRig := false, rigFrom := 0, outcomes := [] }

def Ingest.empty : Ingest :=
  { streams := Vector.replicate 32 StreamRt.fresh, batches := [], engines := Vector.replicate 4 none, jpegQ := []
    deskewed := [] }

def Card.uninit : Card :=
  { st := .idle, rca := 0, v18 := false, wide := false, tuned := false, ioe := 0, ior := 0, ien := 0, busIf := 0
    speed := 0, driver := 0, fbr := Vector.replicate 4 0, lost := false, outOfRange := false, resp := [] }

def Port.atReset : Port :=
  { card := Card.uninit, irqPin := false, rxDiscard := false, skipOvf := false, irq := 0, irqNew := 0, irqNewAt := 0, irqEn := 0
    credit := 0x400#32, rxCount := 0, txAvail := 0, txRead := 0, skipped := 0, w := 0, cur := [], curAt := 0
    ready := [], lastSeq := 0, devSeq := 0, tx := [], txDone := 0, snap := none, hold := none }

def Gov.atReset : Gov :=
  { high := false, k := 16, kReg := 16, tj := 0, sensor := 0, power := 0, sum := 0, num := 0, vcore := 620#16, icore := 0
    retries := 0, stepAt := 0, stopped := false, hot := 0, zones := 0, cool := 0, hotCue := false, withdrawn := false, fullCues := 0, usedCycles := [] }

def Chip.atReset : Chip :=
  { powered := true, resetN := false, railsOut := [], pllLost := [], ufsRst := false, ufsRefclk := false
    tap := .idcode, tdo := [], scan := [] }

/-- A part of stepping A1, grade S, range E with no key enrolled (DESIGN CHOICE, assumption 2). -/
def Ident.default : Ident :=
  { minor := 1, grade := .s, temp := .e, seed := List.replicate 32 0, serial := List.replicate 8 0
    cert := List.replicate 64 0, rootDigest := List.replicate 64 0, vfused := 620 }

def Fuses.blank : Fuses :=
  { slots := Vector.replicate 4 { digest := List.replicate 64 0, enrolled := false, revoked := false }, rollback := 0
    debugLock := false, burns := [] }

/-- The machine right after reset: powered, RESET_N deasserted, in RESET with no happening placed (R22, R311, R406) (DESIGN CHOICE,
assumption 3; DESIGN CHOICE, assumption 5; DESIGN CHOICE, assumption 31). -/
def State.reset : State :=
  { pending := [], now := 0, arb := { items := 0, commits := 0, begun := false, slip := 0 }, free := 0, ident := Ident.default, fuses := Fuses.blank, chip := Chip.atReset
    dev := Dev.atReset, upd := Upd.none, ufs := [], ufsCap := 0x2000000000, forme := Forme.none
    tb := TimeBase.atReset, cue := Cue.atReset, log := { head := 0, recs := [], once := [] }
    units := Vector.replicate 59 UnitRec.fresh, cur := Curtain.atReset, cls := [], sched := Sched.empty
    cog := Cog.empty, part := Vector.replicate 8 PartRt.zero, accts := [], acctWin := AcctWin.zero
    mem := Mem.cleared, press := Vector.replicate 16 Press.atReset, ing := Ingest.empty, port := Port.atReset
    gov := Gov.atReset, overruns := [] }

end Sys2Proof.Machine
end

