-- ==== Sys2Proof/Machine/Ops.lean ====
section
/-! DEFINITION. The named operations every meaning is built from: time, the event log, bytes of memory, unit records,
interrupt causes, the curtain's stop latch, device states and device-level faults. -/

namespace Sys2Proof.Machine

/-! ### Vectors, lists and saturating counters -/

/-- Replace entry `i` of a fixed-size array. -/
def vmod {α : Type} {n : Nat} (v : Vector α n) (i : Fin n) (f : α → α) : Vector α n := v.set i.1 (f (v.get i)) i.2

/-- Replace the entries that satisfy `p`. -/
def lmod {α : Type} (p : α → Bool) (f : α → α) (l : List α) : List α := l.map fun x => if p x then f x else x

/-- A 32-bit counter that counts `k` and saturates (R291): the value, and whether a count was lost. -/
def sat32 (c : W32) (k : Nat) : W32 × Bool :=
  if c.toNat + k < 2 ^ 32 then (c + BitVec.ofNat 32 k, false) else (BitVec.allOnes 32, true)

/-- A 64-bit counter that counts `k` and saturates (R291). -/
def sat64 (c : W64) (k : Nat) : W64 × Bool :=
  if c.toNat + k < 2 ^ 64 then (c + BitVec.ofNat 64 k, false) else (BitVec.allOnes 64, true)

/-- An 8-bit count that saturates at 0xFF (R371). -/
def sat8 (c : Byte) : Byte := if c = 0xFF#8 then c else c + 1
/-- A 16-bit count that saturates at 0xFFFF (R371). -/
def sat16 (c : W16) : W16 := if c = 0xFFFF#16 then c else c + 1
/-- A 12-bit count that saturates at 0xFFF (R371). -/
def sat12 (c : BitVec 12) : BitVec 12 := if c = 0xFFF#12 then c else c + 1

/-! ### Bytes of a memory in canonical form -/

/-- The byte at an address; an unlisted address reads 0 (DESIGN CHOICE, assumption 6). -/
def cellRead : List Host.Cell → Nat → Byte
  | [], _ => 0
  | (k, v) :: r, a => if k = a then v else cellRead r a

/-- Write one byte and keep the canonical form: addresses strictly rising, no listed zero. -/
def cellWrite : List Host.Cell → Nat → Byte → List Host.Cell
  | [], a, b => if b = 0 then [] else [(a, b)]
  | (k, v) :: r, a, b =>
    if a < k then (if b = 0 then (k, v) :: r else (a, b) :: (k, v) :: r)
    else if a = k then (if b = 0 then r else (a, b) :: r)
    else (k, v) :: cellWrite r a b

/-- `n` bytes from an address upwards. -/
def cellsRead (m : List Host.Cell) (a : Nat) : Nat → List Byte
  | 0 => []
  | n + 1 => cellRead m a :: cellsRead m (a + 1) n

/-- Bytes written from an address upwards. -/
def cellsWrite (m : List Host.Cell) (a : Nat) : List Byte → List Host.Cell
  | [] => m
  | b :: bs => cellsWrite (cellWrite m a b) (a + 1) bs

/-- The canonical form of a memory: addresses strictly rising and no listed byte that an unlisted address would read. -/
def Memory.wf : List Host.Cell → Bool
  | [] => true
  | [(_, v)] => v != 0
  | (k, v) :: (k', v') :: r => v != 0 && decide (k < k') && Memory.wf ((k', v') :: r)

/-! ### Device addresses (R225, R226) -/

def stackBase (n : Nat) : Nat := n * 0x001000000000
def galleyBase : Nat := 0x004000000000
def sectorSize : Nat := 0x1800000
def caseBase (p : Nat) : Nat := 0x004100000000 + p * 0x1000000
def caseSide : Nat := 0x800000
def umemBase : Nat := 0x004200000000

/-- What a device address lies in (R225). -/
inductive Region where
  | stack (n : Fin 2) | galley (sector : Fin 16) | case (p : Fin 16) | umem | unmapped
deriving DecidableEq, Repr

/-- The region of a 48-bit device address; bits [63:48] set make it unmapped (R224, R225). -/
def region (a : Nat) : Region :=
  if a < 0x000C00000000 then .stack 0
  else if 0x001000000000 ≤ a ∧ a < 0x001C00000000 then .stack 1
  else if galleyBase ≤ a ∧ a < galleyBase + 16 * sectorSize then .galley (Fin.ofNat 16 ((a - galleyBase) / sectorSize))
  else if caseBase 0 ≤ a ∧ a < caseBase 16 ∧ (a - caseBase 0) % 0x1000000 < 0x880000 then
    .case (Fin.ofNat 16 ((a - caseBase 0) / 0x1000000))
  else if umemBase ≤ a ∧ a < umemBase + 0x2000000 then .umem
  else .unmapped

/-- A device page that a translation may name: galley or stack (R229). -/
def fabricPage (a : Nat) : Bool :=
  match region a with
  | .stack _ => true
  | .galley _ => true
  | _ => false

/-! ### Time (R308, R449) -/

/-- Time goes on to a happening's arbiter cycle; it never runs back, and what is placed in one cycle is counted (R309; DESIGN CHOICE, assumption 1;
DESIGN CHOICE, assumption 35). -/
def State.at (s : State) (t : Nat) : State :=
  let now := s.now + s.arb.slip
  { s with
    now := max now t
    arb := if now < t then { items := 0, commits := 0, begun := false, slip := 0 } else { s.arb with begun := false, slip := 0 } }

/-- A request gives a number: it is not begun while the cycle holds 8 numbered items, and is placed whole once begun (R309). -/
def Arbiter.number (a : Arbiter) : Arbiter :=
  if a.begun = false ∧ 8 ≤ a.items then { items := 1, commits := 0, begun := true, slip := a.slip + 1 }
  else { a with items := a.items + 1, begun := true }

/-- A commit: at most 4 are placed in a cycle (R309). -/
def Arbiter.commit (a : Arbiter) : Arbiter :=
  if 4 ≤ a.commits then { items := 0, commits := 1, begun := a.begun, slip := a.slip + 1 } else { a with commits := a.commits + 1 }

/-- Device time in ns at arbiter cycle `c`: 2.5 ns per cycle at the servo's rate, a cycle of 10 ns at a time (R449). -/
def TimeBase.ns (tb : TimeBase) (c : Nat) : Nat :=
  let ticks := (c - tb.anchor) / 4
  tb.base + (tb.part + ticks * 10 * (10000000 + tb.rate).toNat) / 10000000

/-- The first cycle at which the device time reaches `g` ns at the servo's present rate. -/
def TimeBase.reaches (tb : TimeBase) (g : Nat) : Nat :=
  let r := max 1 (10 * (10000000 + tb.rate).toNat)
  tb.anchor + 4 * (((g - tb.base) * 10000000 - tb.part + r - 1) / r)

/-- A device time in ns as the 64-bit value of R449: seconds over 30 bits of nanoseconds. -/
def stampOf (ns : Nat) : Nat := (ns / 1000000000) * 2 ^ 30 + ns % 1000000000

/-- The device time of now. -/
def State.ns (s : State) : Nat := s.tb.ns s.now

/-! ### The event log (R311, R312, R373) -/

/-- The fixed class of an event code (R377). -/
def eventClass (code : Nat) : Nat :=
  if code ∈ [0x0201, 0x0401, 0x0430] then 1
  else if code ∈ [0x0101, 0x0102, 0x0103, 0x0301, 0x0303, 0x0310, 0x0402, 0x0403, 0x0410, 0x0420, 0x0421, 0x0431, 0x0440,
    0x0441, 0x0460, 0x0603, 0x0706, 0x0810, 0x0813, 0x0903, 0x0B01, 0x0B08] then 2
  else if code ∈ [0x0202, 0x0203, 0x0204, 0x0220, 0x0221, 0x0222, 0x0223, 0x0224, 0x0225, 0x0226, 0x0230, 0x0231, 0x0240,
    0x0404, 0x0405, 0x0604, 0x0708, 0x0709, 0x0710, 0x0814, 0x0904, 0x0909, 0x0A04, 0x0B06, 0x0C08] then 3
  else if code ∈ [0x0122, 0x0232, 0x0302, 0x0311, 0x0705, 0x0707, 0x0802, 0x0804, 0x0805, 0x0806, 0x0807, 0x0811] then 4
  else if code ∈ [0x0110, 0x0111, 0x0112, 0x0250, 0x0701, 0x0703, 0x0704, 0x070A, 0x070F] then 5
  else if code ∈ [0x0501, 0x0502, 0x070E, 0x0902, 0x0A02, 0x0A03, 0x0A06, 0x0C04, 0x0C05, 0x0C07] then 6
  else if code ∈ [0x070D, 0x0801, 0x0812, 0x0B03, 0x0B07] then 7
  else 0

/-- The severity of a class (R374). -/
def severity (cls : Nat) : Nat :=
  if cls ≤ 1 then 0 else if cls = 2 then 1 else if cls = 3 ∨ cls = 4 ∨ cls = 6 then 2 else if cls = 5 then 3 else 4

/-- The 16 bytes of a record (R373). -/
def LogRec.bytes (r : LogRec) : List Byte :=
  natLe 4 r.number.toNat ++ natLe 4 r.cue.toNat ++ natLe 3 r.offset ++ [r.unit] ++ natLe 2 r.code.toNat ++
    [BitVec.ofNat 8 (eventClass r.code.toNat + 16 * severity (eventClass r.code.toNat)), r.detail]

/-- The offset field: 100 ns units from the last boundary, 0 before cue 1, saturated (R373). -/
def State.logOffset (s : State) : Nat := if s.cue.count = 0 then 0 else min ((s.now + s.arb.slip - s.cue.b) / 40) 0xFFFFFF

/-- Log one event: it takes the next house sequence number and one record of the ring of 4,096 (R311, R312). -/
def logEvent (code : Nat) (unit : Byte) (detail : Nat) (s : State) : State :=
  let s := { s with arb := s.arb.number }
  { s with log := { s.log with
      head := s.log.head + 1
      recs := ({ number := s.log.head + 1, cue := BitVec.ofNat 32 s.cue.count.toNat, offset := s.logOffset
                 unit := unit, code := BitVec.ofNat 16 code, detail := BitVec.ofNat 8 detail } :: s.log.recs).take 4096 } }

/-- Log an event that the manual limits to once per key in a cue; a limited event not logged takes no number (R311). -/
def logOnce (key code : Nat) (unit : Byte) (detail : Nat) (s : State) : State :=
  if (code, key) ∈ s.log.once then s
  else logEvent code unit detail { s with log := { s.log with once := (code, key) :: s.log.once } }

/-! ### Unit identifiers and records (R371, R375) -/

def idPort : Byte := 0x51#8
def idStage : Byte := 0x60#8
def idCurtain : Byte := 0x61#8
def idImposer : Byte := 0x62#8
def idSecurity : Byte := 0x63#8
def idGovernor : Byte := 0x64#8
def idTime : Byte := 0x70#8
def idUfs : Byte := 0x50#8
def idDecoder : Byte := 0x48#8
def pressId (p : Fin 16) : Byte := BitVec.ofNat 8 p.1

/-- The unit identifier of a unit (R375); the understudy memory is named 0x10. -/
def unitId : UnitId → Byte
  | .press p => BitVec.ofNat 8 p.1
  | .core k => BitVec.ofNat 8 (0x10 + k.1)
  | .umem => 0x10#8
  | .stack n => BitVec.ofNat 8 (0x18 + n.1)
  | .sector n => BitVec.ofNat 8 (0x20 + n.1)
  | .port n => BitVec.ofNat 8 (0x30 + n.1)

def ctlId : CtlUnit → Byte
  | .stageManager => 0x60#8
  | .comparator => 0x61#8
  | .imposer => 0x62#8
  | .security => 0x63#8
  | .timeBase => 0x70#8
  | .governor => 0x64#8
  | .hostPort => 0x51#8
  | .ufsHost => 0x50#8

def rehId : RehUnit → Byte
  | .unit u => unitId u
  | .cluster k => BitVec.ofNat 8 (0x44 + k.1)
  | .decoder => 0x48#8
  | .ctl c => ctlId c

/-- Place of a unit's record in the array of 59. -/
def unitIdx : UnitId → Fin 59
  | .press p => ⟨p.1, by omega⟩
  | .core k => ⟨16 + k.1, by omega⟩
  | .umem => 20
  | .stack n => ⟨21 + n.1, by omega⟩
  | .sector n => ⟨23 + n.1, by omega⟩
  | .port n => ⟨39 + n.1, by omega⟩

def State.unit (s : State) (u : UnitId) : UnitRec := s.units.get (unitIdx u)

def State.modUnit (u : UnitId) (f : UnitRec → UnitRec) (s : State) : State := { s with units := vmod s.units (unitIdx u) f }

/-- In service: IN_SERVICE, LOST or ABSENT (R361). -/
def UnitRec.inServ (r : UnitRec) : Bool :=
  match r.mode with
  | .inService => true
  | .lost => true
  | .absent => true
  | _ => false

def State.inServ (s : State) (u : UnitId) : Bool := (s.unit u).inServ

def allPresses : List (Fin 16) := List.finRange 16
def allCores : List (Fin 4) := List.finRange 4
def allUnits : List UnitId :=
  (List.finRange 16).map .press ++ (List.finRange 4).map .core ++ [.umem] ++ (List.finRange 2).map .stack ++
    (List.finRange 16).map .sector ++ (List.finRange 20).map .port

/-! ### Partitions of the running forme -/

/-- The defined entry of a partition: one of kind 0xFF is undefined (R263). -/
def State.partCfg (s : State) (i : Nat) : Option Partition := (s.forme.parts[i]?).filter fun c => c.kind ≠ 0xFF

/-- The safety partition's entry (R264: exactly one of kind 0). -/
def Forme.safety (f : Forme) : Option Partition := f.parts.find? fun p => p.kind = 0

def maskHas (m : W16) (p : Fin 16) : Bool := m.getLsbD p.1

/-- Safety presses in service, ascending (R272). -/
def State.safetyPresses (s : State) : List (Fin 16) :=
  match s.forme.safety with
  | some c => allPresses.filter fun p => maskHas c.mask p && s.inServ (.press p)
  | none => []

def State.cores (s : State) : List (Fin 4) := allCores.filter fun k => s.inServ (.core k)

def State.play? (s : State) (i : Nat) : Option Play := s.forme.plays.find? fun p => p.index = i

/-! ### Interrupt causes (R429) -/

/-- The arbiter cycle in which the request under way is placed: the happening's own, or the one that R309 defers it to. -/
def State.cycle (s : State) : Nat := s.now + s.arb.slip

/-- The HF_IRQ bits that were set in this arbiter cycle (R8). -/
def State.irqFresh (s : State) : BitVec 7 := if s.port.irqNewAt = s.cycle then s.port.irqNew else 0

/-- Set HF_IRQ bit `k`. -/
def irq (k : Nat) (s : State) : State :=
  { s with port := { s.port with
      irq := s.port.irq ||| (1#7 <<< k), irqNew := s.irqFresh ||| (1#7 <<< k), irqNewAt := s.cycle } }

/-- Which of FAULT_SEEN and LATE_SEEN were set in this arbiter cycle (R8). -/
def State.seenFresh (s : State) : BitVec 2 := if s.cue.seenAt = s.cycle then s.cue.seenNew else 0

/-- FAULT_SEEN (0) or LATE_SEEN (1) is set. -/
def noteSeen (k : Nat) (s : State) : State :=
  { s with cue := { s.cue with seenNew := s.seenFresh ||| (1#2 <<< k), seenAt := s.cycle } }

/-! ### Curtain (R333 to R335, R349) -/

/-- A stop line: the latch sets; a running curtain stops, CURTAIN_CAUSE takes the cause, and event 0x0701 is logged. -/
def curtainStop (cause : Nat) (unit : Byte) (s : State) : State :=
  if s.cur.running then
    irq 4 (logEvent 0x0701 idCurtain cause
      { s with cur := { s.cur with
          running := false, latch := true, runCues := 0
          cause := BitVec.ofNat 8 cause, unit := unit
          cls := if cause = 2 then 1 else 0
          rule := 0xFF#8
          cueLow := BitVec.ofNat 32 s.cue.count.toNat
          drops := (sat32 s.cur.drops 1).1
          dropOvf := s.cur.dropOvf || (sat32 s.cur.drops 1).2 } })
  else { s with cur := { s.cur with latch := true } }

/-- A tensor is a safety output of a perception or understudy play (R151). -/
def State.safetyOut (s : State) (play tensor : Nat) : Bool :=
  match s.play? play with
  | none => false
  | some p => decide (p.kind ≤ 1) &&
      (match p.tensors[tensor]? with
       | some x => decide (x.kind = 2) && x.safety
       | none => false)

/-- The cue's output is invalid from the first failing condition on, which gives its stop cause; its safety outputs are marked
invalid; a published cue stays as it was delivered (R282, R324, R325). -/
def invalidate (cause : Nat) (s : State) : State :=
  if s.cue.published ∨ s.cue.invalid then s
  else { s with
    cue := { s.cue with invalid := true, pubCause := BitVec.ofNat 8 cause }
    sched := { s.sched with values := s.sched.values.map fun v =>
      if (decide (v.run = s.cue.count.toNat) && !v.rep && s.safetyOut v.play v.tensor) = true then { v with valid := false } else v } }

/-- A detection source of R335: the cue becomes invalid and the curtain stops. -/
def detect (cause : Nat) (unit : Byte) (s : State) : State := curtainStop cause unit (invalidate cause s)

/-! ### Device state (R22 to R26) -/

/-- Enter a device state; PREV keeps the state before, and HF_IRQ.STATE sets when the code changes. -/
def setState (st : DevState) (s : State) : State :=
  if s.dev.st = st then s else irq 3 { s with dev := { s.dev with st := st, prev := s.dev.st } }

/-- Enter BLANK with DEVICE_CAUSE (R410). -/
def enterBlank (cause detail sect : Nat) (s : State) : State :=
  setState .blank { s with dev := { s.dev with
    cause := BitVec.ofNat 8 cause, detail := BitVec.ofNat 8 detail, sect := BitVec.ofNat 8 sect, load := Load.idle } }

/-- States in which cues may run (R22). -/
def DevState.cues : DevState → Bool
  | .standby => true
  | .running => true
  | .degraded => true
  | .safeHold => true
  | _ => false

/-- Cognition states of R437: RUNNING, DEGRADED, and SAFE_HOLD while FAULT_N is deasserted. -/
def State.cogState (s : State) : Bool :=
  match s.dev.st with
  | .running => true
  | .degraded => true
  | .safeHold => !s.dev.faultN
  | _ => false

/-- The SAFE_HOLD of R26: LOADING stops where it stands, an active update is interrupted with detail 5 (R418), and
SAFE_HOLD is entered without a running forme, the curtain low with cause 0x13 (DEDUCED, assumption 121). -/
def enterBare (s : State) : State :=
  let s :=
    if s.upd.active then
      logEvent 0x0909 idSecurity 5
        { s with upd := { s.upd with active := false }
                 dev := { s.dev with cause := 0x0D#8, detail := 5, sect := 0xFF#8 } }
    else s
  let s := { s with cur := { s.cur with
    cause := 0x13#8, unit := s.dev.faultUnit, cls := 0, rule := 0xFF#8, cueLow := BitVec.ofNat 32 s.cue.count.toNat } }
  setState .safeHold (logEvent 0x070A idStage 5
    { s with dev := { s.dev with bare := true, load := Load.idle }, sched := { s.sched with slices := [] } })

/-- A device-level fault (R368): FAULT_N is asserted, event 0x0801 is logged and the curtain stops with cause 0x13; from
BLANK, LOADING or MAINTENANCE it acts at once (R26), elsewhere SAFE_HOLD is entered at the next boundary (R344). In RESET
nothing happens (R23). The first fault keeps FAULT_CAUSE (DEDUCED, assumption 14). -/
def deviceFault (cause : Nat) (unit : Byte) (s : State) : State :=
  if s.dev.st = .reset then s
  else
    let old := s.dev.faultN
    let s := logEvent 0x0801 unit cause s
    let s := if old then s
      else irq 5 { s with dev := { s.dev with
        faultN := true, faultCause := BitVec.ofNat 4 cause, faultUnit := unit } }
    let s := detect 0x13 unit s
    match s.dev.st with
    | .blank => enterBare s
    | .loading => enterBare s
    | .maintenance => enterBare s
    | _ => s

/-! ### Partition statistics (R291) -/

def State.modPart (i : Nat) (f : PartRt → PartRt) (s : State) : State :=
  if h : i < 8 then { s with part := vmod s.part ⟨i, h⟩ f } else s

/-- Count into one of a partition's 32-bit statistics; `bit` is its PART_OVF bit. -/
def bump (get : PartRt → W32) (put : PartRt → W32 → PartRt) (bit : Nat) (r : PartRt) : PartRt :=
  let (v, o) := sat32 (get r) 1
  let r := put r v
  if o then { r with ovf := r.ovf ||| (1#7 <<< bit) } else r

end Sys2Proof.Machine
end

