-- ==== Sys2Proof/Machine/Flags.lean ====
section
/-! DEFINITION. The F1 registers: where each lies, the value each field gives, the read snapshot of R9 and the holding buffer
of R10 (R5 to R10, R425, R426). -/

namespace Sys2Proof.Machine

/-! ### Places -/

/-- Offsets and byte lengths of the single registers (DESIGN CHOICE, assumption 97). -/
def scalarRegs : List (Nat × Nat) :=
  [(0x0000, 4), (0x0004, 2), (0x0006, 2), (0x0008, 4), (0x000C, 4), (0x0040, 64),
   (0x0100, 4), (0x0104, 4), (0x0108, 8), (0x0110, 4), (0x0114, 4),
   (0x0200, 4), (0x0208, 8), (0x0210, 4), (0x0214, 4), (0x0218, 4),
   (0x0300, 4), (0x0308, 8), (0x0310, 4), (0x0314, 4), (0x0700, 4), (0x0708, 4)] ++
  [(0x1000, 4), (0x1004, 4), (0x1008, 4), (0x100C, 4), (0x1010, 4), (0x1014, 4), (0x1018, 4), (0x101C, 4), (0x1020, 4),
   (0x2000, 8), (0x2008, 4), (0x200C, 4), (0x2100, 4), (0x2104, 4), (0x2108, 4),
   (0x4000, 2), (0x4008, 8), (0x4010, 8), (0x4018, 8), (0x4020, 4), (0x8000, 4)]

/-- Offsets within a partition's 64 bytes (R291). -/
def partRegs : List (Nat × Nat) :=
  [(0x00, 4), (0x04, 4), (0x08, 4), (0x10, 8), (0x18, 4), (0x1C, 4), (0x20, 4), (0x24, 4), (0x28, 4), (0x2C, 4), (0x30, 4)]

/-- The unit whose state register holds an offset of 0x0_0400 to 0x0_07FF (R371). -/
def unitAt (a : Nat) : Option UnitId :=
  let n := a / 8 * 8
  if 0x400 ≤ n ∧ n < 0x480 then some (.press (Fin.ofNat 16 ((n - 0x400) / 8)))
  else if 0x480 ≤ n ∧ n < 0x4A0 then some (.core (Fin.ofNat 4 ((n - 0x480) / 8)))
  else if n = 0x4A0 then some .umem
  else if 0x4C0 ≤ n ∧ n < 0x4D0 then some (.stack (Fin.ofNat 2 ((n - 0x4C0) / 8)))
  else if 0x500 ≤ n ∧ n < 0x580 then some (.sector (Fin.ofNat 16 ((n - 0x500) / 8)))
  else if 0x580 ≤ n ∧ n < 0x620 then some (.port (Fin.ofNat 20 ((n - 0x580) / 8)))
  else none

/-- A scalar register that holds offset `a`. -/
def findReg (a : Nat) (l : List (Nat × Nat)) : Option (Nat × Nat) := l.find? fun r => decide (r.1 ≤ a ∧ a < r.1 + r.2)

/-- Base offset and byte length of the register that holds offset `a`; none where no register lies. -/
def regOf (a : Nat) : Option (Nat × Nat) :=
  if 0x10000 ≤ a ∧ a < 0x20000 then some (a / 16 * 16, 16)
  else if 0xC000 ≤ a ∧ a < 0x10000 then some (a / 32 * 32, 32)
  else if 0x8100 ≤ a ∧ a < 0x8300 then some (a / 16 * 16, 16)
  else if 0x800 ≤ a ∧ a < 0xA00 then (findReg (a % 64) partRegs).map fun r => (a / 64 * 64 + r.1, r.2)
  else if (unitAt a).isSome then some (a / 8 * 8, 8)
  else findReg a scalarRegs

/-! ### Values -/

def bit (b : Bool) (k : Nat) : Nat := if b then 2 ^ k else 0

/-- A value in a field of `w` bits at bit `lo`. -/
def fld (v lo w : Nat) : Nat := v % 2 ^ w * 2 ^ lo

def DevState.code : DevState → Nat
  | .reset => 0
  | .blank => 1
  | .loading => 2
  | .standby => 3
  | .running => 4
  | .degraded => 5
  | .safeHold => 6
  | .maintenance => 7

def UnitMode.code : UnitMode → Nat
  | .inService => 0
  | .struck => 1
  | .reRigging => 2
  | .retired => 3
  | .lost => 4
  | .absent => 5

def imgPart : Nat := 0xA5010016

def imgStepping (s : State) : Nat := s.ident.minor.toNat + 0x10

def imgGrade (s : State) : Nat :=
  (match s.ident.grade with
   | .s => 0x1 + fld 0xC8 8 8
   | .l => 0x2 + fld 0xAA 8 8) +
  (match s.ident.temp with
   | .e => fld 1 4 4
   | .x => fld 2 4 4)

/-- DET_CLASS.CLASS: no class on A0, class 1 on A1 (R28). -/
def detClass (s : State) : Nat := if s.ident.minor = 0 then 0 else 1

def imgProto (s : State) : Nat := 0x0101 + fld s.dev.proto.toNat 16 8

/-- START_WAIT: STANDBY, start mode 1 and no start message placed (R409). -/
def State.startWait (s : State) : Bool :=
  decide (s.dev.st = .standby) && decide (s.forme.startMode = 1) && !s.dev.startPlaced

def imgDeviceState (s : State) : Nat := s.dev.st.code + fld s.dev.prev.code 4 3 + bit s.startWait 8

def imgDeviceCause (s : State) : Nat := s.dev.cause.toNat + fld s.dev.detail.toNat 8 8 + fld s.dev.sect.toNat 16 8

/-- A customer slot is damaged when its enrolled bit is 0 and a digest bit is 1 (R401). -/
def KeySlot.damaged (k : KeySlot) : Bool := !k.enrolled && k.digest.any (· != 0)
def KeySlot.valid (k : KeySlot) : Bool := k.enrolled && !k.revoked

def slotBits (s : State) (f : KeySlot → Bool) (lo : Nat) : Nat :=
  ((List.finRange 4).map fun k => bit (f (s.fuses.slots.get k)) (lo + k.1)).sum

def imgFuse (s : State) : Nat :=
  slotBits s KeySlot.enrolled 0 + slotBits s KeySlot.revoked 4 + slotBits s KeySlot.damaged 8 + bit s.fuses.debugLock 12 +
    fld s.fuses.rollback 16 7

def Upd.count (u : Upd) (p : SecState → Bool) : Nat := (u.states.filter p).length
def Upd.needed (u : Upd) : Nat := u.count fun x => x = .needed
def Upd.kept (u : Upd) : Nat := u.count fun x => x = .kept
def Upd.written (u : Upd) : Nat := u.count fun x => x = .written

def imgUpdate (s : State) : Nat :=
  bit s.upd.active 0 + fld s.upd.needed 8 8 + fld s.upd.kept 16 8 + fld s.upd.written 24 8

/-- CUE_PERIOD reads 0 until LOADING has ended (R32). -/
def imgCuePeriod (s : State) : Nat := if s.forme.loaded then fld s.forme.period 0 17 + fld s.forme.source 17 2 else 0

/-- REHEARSAL_BEHIND: some unit in service, or some unit without a state register, has 2,500 cues or more since its last
complete rehearsal (R50). -/
def State.behind (s : State) : Bool :=
  s.dev.st.cues && (allUnits.any (fun u => s.inServ u && decide (2500 ≤ (s.unit u).age.toNat)) ||
    (List.finRange 13).any fun i => decide (2500 ≤ (s.sched.ctlAge.get i).toNat))

def imgCueStatus (s : State) : Nat :=
  s.cue.source.toNat + bit s.cue.extLost 2 + bit s.cue.ptpAligned 3 + fld s.cue.mark.toNat 4 4 + bit s.cue.faultSeen 8 +
    bit s.cue.lateSeen 9 + bit s.cue.faultOvf 10 + bit s.cue.lateOvf 11 + bit s.behind 12 + bit s.cue.running 13

def imgCurtainState (s : State) : Nat :=
  bit s.cur.running 0 + bit s.cur.latch 1 + bit (decide (s.dev.st = .safeHold)) 2 + bit s.cur.railFault 3 +
    bit s.cur.testPending 4 + bit s.cur.dropOvf 5 + fld s.cur.runCues.toNat 8 16

def imgCurtainCause (s : State) : Nat :=
  s.cur.cause.toNat + fld s.cur.unit.toNat 8 8 + fld s.cur.cls.toNat 16 4 + fld s.cur.rule.toNat 20 8 +
    fld s.cur.cueLow.toNat 32 32

def UnitRec.image (r : UnitRec) : Nat :=
  r.mode.code + fld r.cause.toNat 8 8 + fld r.strikes.toNat 16 8 + fld r.attempts.toNat 24 3 + fld r.age.toNat 32 12 +
    fld r.transients.toNat 48 16

def imgFaultCause (s : State) : Nat :=
  bit s.dev.faultN 0 + fld s.dev.faultCause.toNat 4 4 + fld s.dev.faultUnit.toNat 8 8

/-- F2 or F3 blocks a message takes (R430). -/
def msgBlocks (m : List Byte) : Nat := (m.length + 511) / 512

/-- Blocks of the whole send queue. -/
def State.txBlocks (s : State) : Nat := (s.port.tx.map msgBlocks).sum

/-- Blocks of a payload of a length (R430). -/
def blocksFor (len : Nat) : Nat := (16 + len + 511) / 512

/-- Free blocks of the send queue of 8,192 (R442). -/
def State.txRoom (s : State) : Nat := 8192 - (s.txBlocks - s.port.txDone)

/-- Payload of the largest reply of a request's type (R434, R437). -/
def largestReply (typ : Nat) : Nat :=
  if typ = 0x0001 then 9 else if typ = 0x0010 then 12 else if typ = 0x0014 then 12 else if typ = 0x0023 then 10
  else if typ = 0x0024 then 16 else if typ = 0x0025 then 9 else if typ = 0x0026 then 368 else if typ = 0x0030 then 262120
  else if typ = 0x0031 then 8208 else if typ = 0x0032 then 3456 else 8

/-- The oldest received message has room for its largest reply (R433). -/
def State.roomFor (s : State) (typ : Nat) : Bool := decide (blocksFor (largestReply typ) ≤ s.txRoom)

/-- HF_STATUS.TX_HOLD: the oldest received message waits for send room (R433). -/
def State.txHold (s : State) : Bool :=
  match s.port.ready with
  | [] => false
  | m :: _ => !s.roomFor m.typ

def imgHfStatus (s : State) : Nat := bit s.port.rxDiscard 0 + bit s.txHold 1 + bit s.port.skipOvf 2

/-- The first locked source of R450. -/
def TimeBase.source (tb : TimeBase) : TimeSrc := if tb.ptpLocked then .ptp else if tb.ppsLocked then .pps else .free

def TimeSrc.code : TimeSrc → Nat
  | .ptp => 1
  | .pps => 2
  | .free => 3

def imgTimeStatus (s : State) : Nat :=
  s.tb.source.code + bit (decide (s.tb.source ≠ .free)) 2 + bit s.tb.profile 3 + fld s.tb.port.toNat 4 2

/-- Whole degrees toward minus infinity, saturated to a signed byte. -/
def tjWhole (tj : W16) : Byte := BitVec.ofInt 8 (max (-128) (min (tj.toInt / 8) 127))

def imgGov (s : State) : Nat :=
  bit s.gov.high 0 + fld s.gov.kReg.toNat 1 5 + fld (tjWhole s.gov.tj).toNat 8 8 + fld s.gov.power.toNat 16 16

/-! Partition statistics (R291). -/

def imgPartStatus (s : State) (c : Partition) (r : PartRt) : Nat :=
  1 + fld c.kind 1 2 + fld ((allPresses.filter fun p => maskHas c.mask p && s.inServ (.press p)).length) 3 5 +
    fld (if c.kind = 0 then c.min else 0) 8 5 + bit r.highNow 13 + bit r.overThr 14

def partImage (s : State) (n : Fin 8) (off : Nat) : Nat :=
  let r := s.part.get n
  match s.partCfg n.1 with
  | none =>
    if off = 0x10 then r.cycles.toNat else if off = 0x18 then r.commits.toNat else if off = 0x1C then r.kills.toNat
    else if off = 0x20 then r.refused.toNat else if off = 0x24 then r.regWait.toNat else if off = 0x28 then r.spills.toNat
    else if off = 0x2C then r.leafMoves.toNat else if off = 0x30 then r.ovf.toNat else 0
  | some c =>
    if off = 0x00 then imgPartStatus s c r
    else if off = 0x04 then fld r.last 0 16 + fld (r.hist.sum / 256) 16 16
    else if off = 0x08 then fld r.peak 0 8 + fld c.galley 8 8 + fld c.cache 16 8 + fld c.leaf 24 8
    else if off = 0x10 then r.cycles.toNat
    else if off = 0x18 then r.commits.toNat
    else if off = 0x1C then r.kills.toNat
    else if off = 0x20 then r.refused.toNat
    else if off = 0x24 then r.regWait.toNat
    else if off = 0x28 then r.spills.toNat
    else if off = 0x2C then r.leafMoves.toNat
    else r.ovf.toNat

/-! Rings (R373, R389, R390). -/

/-- The record in a slot of the event-log ring: the newest record with that slot number. -/
def logSlot (s : State) (k : Nat) : Nat :=
  match s.log.recs.find? fun r => decide (r.number.toNat % 4096 = k) with
  | some r => leNat r.bytes
  | none => 0

/-- The 32 bytes of a scene record (R390). -/
def DigRec.bytes (d : DigRec) : List Byte :=
  natLe 4 d.serial.toNat ++ natLe 4 d.run.toNat ++ natLe 8 d.dScene.toNat ++ natLe 8 d.dPlay.toNat ++ natLe 1 d.play ++
    natLe 1 d.flags ++ natLe 2 d.scene ++ [d.unit, 0, 0, 0]

def digSlot (s : State) (k : Nat) : Nat :=
  match s.sched.digRing.find? fun r => decide (r.serial.toNat % 512 = k) with
  | some r => leNat r.bytes
  | none => 0

def digPlayImage (d : DigPlay) : Nat :=
  d.digest.toNat + fld d.run.toNat 64 32 + bit d.complete 96 + bit d.invalid 97

/-- The value of the register at a base offset. Write-only registers read 0 (R5). -/
def regValue (s : State) (b : Nat) : Nat :=
  if 0x10000 ≤ b then logSlot s ((b - 0x10000) / 16 % 4096)
  else if 0xC000 ≤ b then digSlot s ((b - 0xC000) / 32 % 512)
  else if 0x8100 ≤ b then digPlayImage (s.sched.digPlay.get (Fin.ofNat 32 ((b - 0x8100) / 16)))
  else if b = 0x8000 then s.sched.digHead.toNat
  else if b = 0x4000 then s.acctWin.sel.toNat
  else if b = 0x4008 then s.acctWin.cyc.toNat
  else if b = 0x4010 then s.acctWin.bytes.toNat
  else if b = 0x4018 then s.acctWin.energy.toNat
  else if b = 0x4020 then s.acctWin.info.toNat
  else if b = 0x2000 then stampOf s.ns % 2 ^ 64
  else if b = 0x2008 then imgTimeStatus s
  else if b = 0x200C then s.tb.offset.toNat
  else if b = 0x2100 then imgGov s
  else if b = 0x2104 then fld s.gov.vcore.toNat 0 16 + fld s.gov.icore.toNat 16 16
  else if b = 0x2108 then fld s.gov.tj.toNat 0 16 + fld s.gov.sensor.toNat 16 5
  else if b = 0x1000 then bit s.port.irqPin 0
  else if b = 0x1004 then imgHfStatus s
  else if b = 0x1008 then s.port.irq.toNat
  else if b = 0x100C then s.port.irqEn.toNat
  else if b = 0x1010 then s.port.credit.toNat
  else if b = 0x1014 then s.port.rxCount.toNat
  else if b = 0x1018 then s.port.txAvail.toNat
  else if b = 0x101C then s.port.txRead.toNat
  else if b = 0x1020 then s.port.skipped.toNat
  else if 0x800 ≤ b then partImage s (Fin.ofNat 8 ((b - 0x800) / 64)) (b % 64)
  else if b = 0x700 then imgFaultCause s
  else if b = 0x708 then s.log.head.toNat
  else if 0x400 ≤ b then
    (match unitAt b with
     | some u => (s.unit u).image
     | none => 0)
  else if b = 0x300 then imgCurtainState s
  else if b = 0x308 then imgCurtainCause s
  else if b = 0x310 then s.cur.drops.toNat
  else if b = 0x200 then imgCuePeriod s
  else if b = 0x208 then s.cue.count.toNat
  else if b = 0x210 then imgCueStatus s
  else if b = 0x214 then s.cue.lateCount.toNat
  else if b = 0x218 then s.cue.faultCount.toNat
  else if b = 0x100 then imgDeviceState s
  else if b = 0x104 then imgDeviceCause s
  else if b = 0x108 then s.dev.progress.toNat
  else if b = 0x110 then imgFuse s
  else if b = 0x114 then imgUpdate s
  else if b = 0x40 then leNat s.dev.digest
  else if b = 0x00 then imgPart
  else if b = 0x04 then imgStepping s
  else if b = 0x06 then imgGrade s
  else if b = 0x08 then detClass s
  else if b = 0x0C then imgProto s
  else 0

/-- The bytes of a register as they stand. -/
def regBytes (s : State) (b n : Nat) : List Byte := natLe n (regValue s b)

/-! ### Reading (R9) -/

def setSnap (x : Option (Nat × List Byte)) (s : State) : State := { s with port := { s.port with snap := x } }

/-- Read one byte of the window: the byte and the state with the snapshot as R9 leaves it. -/
def f1ReadByte (a : Nat) (s : State) : Byte × State :=
  match regOf a with
  | none => (0, s)
  | some (b, n) =>
    if a = b then
      let img := regBytes s b n
      (img.getD 0 0, setSnap (if n = 1 then none else some (b, img)) s)
    else
      match s.port.snap with
      | some (b', img) => if b' = b then (img.getD (a - b) 0, s) else ((regBytes s b n).getD (a - b) 0, setSnap none s)
      | none => ((regBytes s b n).getD (a - b) 0, s)

/-- Read consecutive bytes in address order (R426). -/
def f1Read (a : Nat) : Nat → State → List Byte × State
  | 0, s => ([], s)
  | n + 1, s =>
    let (b, s) := f1ReadByte a s
    let (bs, s) := f1Read (a + 1) n s
    (b :: bs, s)

/-! ### Interrupt lines (R429) -/

/-- Some enabled cause is pending. -/
def State.irqPending (s : State) : Bool := s.port.irq &&& s.port.irqEn != 0
/-- HOST_IRQ_N asserted. -/
def State.hostIrqN (s : State) : Bool := s.irqPending && s.port.irqPin
/-- Function 1's interrupt raised in-band on DAT1: IENM and IEN1 set in the CCCR. -/
def State.irqDat1 (s : State) : Bool :=
  s.irqPending && !s.port.irqPin && s.port.card.ien.getLsbD 0 && s.port.card.ien.getLsbD 1

/-! ### Pins computed from the state -/

/-- CURTAIN_A and CURTAIN_B in cycle `c` of the running waveform, cycles of the comparator oscillator (R333). -/
def curtainWave (c : Nat) : Bool × Bool := (decide (1 ≤ c % 50 ∧ c % 50 ≤ 24), decide (26 ≤ c % 50))

/-- The curtain pins now: the waveform begins at cycle 0 when the curtain starts, a cycle of 10 ns being four arbiter cycles; both
pins are low while it is stopped (R333). -/
def State.curtainPins (s : State) : Bool × Bool :=
  if s.cur.running && !s.chip.resetN && s.chip.powered then curtainWave ((s.now - s.cur.startedAt) / 4) else (false, false)

/-- FAULT_N pulled low (R368, R455). -/
def State.faultPin (s : State) : Bool := s.dev.faultN && !s.chip.resetN && s.chip.powered

end Sys2Proof.Machine
end

