-- ==== Sys2Proof/Machine/Window.lean ====
section
/-! DEFINITION. Writes of the F1 window: the holding buffer and what each written register does (R5 to R10, R292, R350, R429,
R432), with the rows of the table that write or read it. -/

namespace Sys2Proof.Machine

/-- The card answers data commands: powered, out of RESET and selected (R421, R455). -/
def State.selected (s : State) : Bool :=
  s.chip.powered && !s.chip.resetN && decide (s.dev.st ≠ .reset) && decide (s.port.card.st = .selected)

/-! ### Effects of a completed register write -/

/-- The byte written at an offset of a register, if it was written. -/
def heldByte (w : List (Nat × Byte)) (i : Nat) : Option Byte := (w.find? fun e => e.1 = i).map Prod.snd

/-- HF_CONTROL: IRQ_PIN and RX_RESYNC lie in byte 0 (R425, R432). -/
def writeHfControl (w : List (Nat × Byte)) (s : State) : State :=
  match heldByte w 0 with
  | none => s
  | some b => { s with port := { s.port with
      irqPin := b.getLsbD 0, rxDiscard := s.port.rxDiscard && !b.getLsbD 1 } }

/-- HF_IRQ: a written 1 clears the cause (R5, R429), but for one set in this very cycle (R8). -/
def writeHfIrq (w : List (Nat × Byte)) (s : State) : State :=
  match heldByte w 0 with
  | none => s
  | some b => { s with port := { s.port with irq := s.port.irq &&& (~~~(b.setWidth 7) ||| s.irqFresh) } }

def writeHfIrqEnable (w : List (Nat × Byte)) (s : State) : State :=
  match heldByte w 0 with
  | none => s
  | some b => { s with port := { s.port with irqEn := b.setWidth 7 } }

/-- CUE_STATUS: a 1 clears FAULT_SEEN (bit 8) or LATE_SEEN (bit 9), but for one set in this very cycle (R8). -/
def writeCueStatus (w : List (Nat × Byte)) (s : State) : State :=
  match heldByte w 1 with
  | none => s
  | some b => { s with cue := { s.cue with
      faultSeen := s.cue.faultSeen && (!b.getLsbD 0 || s.seenFresh.getLsbD 0)
      lateSeen := s.cue.lateSeen && (!b.getLsbD 1 || s.seenFresh.getLsbD 1) } }

/-- A curtain test is accepted in RUNNING or DEGRADED, with the rules' test flag set and none pending; otherwise event 0x070C
with detail 1 (R350). -/
def requestCurtainTest (s : State) : State :=
  if decide (s.dev.st = .running ∨ s.dev.st = .degraded) && s.forme.rules.test && !s.cur.testPending then
    { s with cur := { s.cur with testPending := true } }
  else logEvent 0x070C idCurtain 1 s

def writeCurtainTest (w : List (Nat × Byte)) (s : State) : State :=
  match heldByte w 0 with
  | none => s
  | some b => if b = 0xC5#8 then requestCurtainTest s else s

/-- The accounts of one client, or zero where it has none. -/
def State.acctOf (s : State) (client : Nat) : Acct :=
  (s.accts.find? fun a => a.client = client).getD
    { client := client, cyc := 0, bytes := 0, pj := 0, ovfC := false, ovfB := false, ovfE := false }

/-- ACCT_INFO of a client (R292). -/
def acctInfo (s : State) (client : Nat) : Nat :=
  let a := s.acctOf client
  let o := bit a.ovfC 5 + bit a.ovfB 6 + bit a.ovfE 7
  if client < 1024 then
    match s.cog.sess.find? fun x => x.slot = client with
    | none => o
    | some x => 1 + fld ((s.play? x.play).map Play.part |>.getD 0) 2 3 + o + fld x.gen.toNat 8 22
  else
    match s.play? (client - 1024) with
    | none => o
    | some p => 2 + fld p.part 2 3 + o

/-- Capture a client's accounts and ACCT_INFO (R292). -/
def captureAccount (client : Nat) (s : State) : State :=
  let a := s.acctOf client
  { s with acctWin :=
      { sel := BitVec.ofNat 16 client, cyc := a.cyc, bytes := a.bytes, energy := BitVec.ofNat 64 (a.pj / 1000)
        info := BitVec.ofNat 32 (acctInfo s client) } }

/-- ACCT_SELECT: an unlisted client leaves everything as it was (R7). -/
def writeAcctSelect (w : List (Nat × Byte)) (s : State) : State :=
  let old := s.acctWin.sel.toNat
  let lo := ((heldByte w 0).map BitVec.toNat).getD (old % 256)
  let hi := ((heldByte w 1).map BitVec.toNat).getD (old / 256)
  let client := (hi % 8) * 256 + lo
  if client < 1056 then captureAccount client s else s

/-- A completed write of the register at a base offset; every other register ignores it (R5). -/
def regWrite (b : Nat) (w : List (Nat × Byte)) (s : State) : State :=
  if b = 0x1000 then writeHfControl w s
  else if b = 0x1008 then writeHfIrq w s
  else if b = 0x100C then writeHfIrqEnable w s
  else if b = 0x0210 then writeCueStatus w s
  else if b = 0x0314 then writeCurtainTest w s
  else if b = 0x4000 then writeAcctSelect w s
  else s

/-! ### The holding buffer (R10) -/

def setHold (x : Option (Nat × List (Nat × Byte))) (s : State) : State := { s with port := { s.port with hold := x } }

/-- What the holding buffer has for one register: nothing where it holds another register's bytes. -/
def State.heldFor (s : State) (b : Nat) : List (Nat × Byte) :=
  match s.port.hold with
  | some (b', w) => if b' = b then w else []
  | none => []

/-- Write one byte of the window. -/
def f1WriteByte (a : Nat) (v : Byte) (s : State) : State :=
  match regOf a with
  | none => s
  | some (b, n) =>
    let w := (a - b, v) :: (s.heldFor b).filter fun e => e.1 != a - b
    if a - b + 1 = n then regWrite b w (setHold none s) else setHold (some (b, w)) s

/-- Write consecutive bytes in address order (R426). -/
def f1Write (a : Nat) : List Byte → State → State
  | [], s => s
  | v :: vs, s => f1Write (a + 1) vs (f1WriteByte a v s)

/-- Write listed bytes of the register at a base, in their order. -/
def f1WriteAt {n : Nat} (b : Nat) (bs : List (Fin n × Byte)) (s : State) : State :=
  bs.foldl (fun s e => f1WriteByte (b + e.1.1) e.2 s) s

/-! ### The rows -/

/-- The last response or data the card put on the bus. -/
def respond (bs : List Byte) (oor : Bool) (s : State) : State :=
  { s with port := { s.port with card := { s.port.card with resp := bs, outOfRange := oor } } }

/-- F1_SNAPSHOT_READ: one byte is read (R9); at a lowest byte the snapshot is captured. -/
def execF1SnapshotRead (t : Nat) (addr : BitVec 17) (s : State) : Host.Outcome State Fault Refusal :=
  let s := s.at t
  if s.selected then
    let (b, s) := f1ReadByte addr.toNat s
    .next (respond [b] false s)
  else .next s

/-- F1_REGISTER_WRITE: one byte is written (R10). -/
def execF1RegisterWrite (t : Nat) (addr : BitVec 17) (b : Byte) (s : State) : Host.Outcome State Fault Refusal :=
  let s := s.at t
  .next (if s.selected then f1WriteByte addr.toNat b s else s)

/-- ACCT_SELECT_WRITE (R292). -/
def execAcctSelectWrite (t : Nat) (bytes : List (Fin 2 × Byte)) (s : State) : Host.Outcome State Fault Refusal :=
  let s := s.at t
  .next (if s.selected then f1WriteAt 0x4000 bytes s else s)

/-- CURTAIN_TEST_WRITE (R350). -/
def execCurtainTestWrite (t : Nat) (bytes : List (Fin 4 × Byte)) (s : State) : Host.Outcome State Fault Refusal :=
  let s := s.at t
  .next (if s.selected then f1WriteAt 0x0314 bytes s else s)

/-- RX_RESYNC: a write of HF_CONTROL (R432). -/
def execRxResync (t : Nat) (bytes : List (Fin 4 × Byte)) (s : State) : Host.Outcome State Fault Refusal :=
  let s := s.at t
  .next (if s.selected then f1WriteAt 0x1000 bytes s else s)

/-- HF_IRQ_CLEAR (R429). -/
def execHfIrqClear (t : Nat) (bytes : List (Fin 4 × Byte)) (s : State) : Host.Outcome State Fault Refusal :=
  let s := s.at t
  .next (if s.selected then f1WriteAt 0x1008 bytes s else s)

/-- CUE_STATUS_CLEAR (R5). -/
def execCueStatusClear (t : Nat) (bytes : List (Fin 4 × Byte)) (s : State) : Host.Outcome State Fault Refusal :=
  let s := s.at t
  .next (if s.selected then f1WriteAt 0x0210 bytes s else s)

/-- CMD53_F1: bytes of the window are read or written in address order; a span beyond the window is answered OUT_OF_RANGE and
moves nothing (R423, R426). -/
def execCmd53F1 (t : Nat) (addr : BitVec 17) (count : Nat) (write : Option (List Byte)) (s : State) :
    Host.Outcome State Fault Refusal :=
  let s := s.at t
  if !s.selected then .next s
  else if addr.toNat + count > 0x20000 then .next (respond [] true s)
  else
    match write with
    | some bs => .next (respond [] false (f1Write addr.toNat (bs.take count) s))
    | none =>
      let (bs, s) := f1Read addr.toNat count s
      .next (respond bs false s)

end Sys2Proof.Machine
end

