-- ==== Sys2Proof/Machine/Card.lean ====
section
/-! DEFINITION. The SDIO card: commands of the SD bus, the CCCR and FBR of function 0 and the loss of initialisation (R421 to
R424). States of the SD command sequence follow the SDIO specification the rules name (assumption 16). -/

namespace Sys2Proof.Machine

/-- The card hears commands: powered and out of RESET, with its pads supplied (R455, R458). -/
def State.cardAlive (s : State) : Bool :=
  s.chip.powered && !s.chip.resetN && decide (s.dev.st ≠ .reset) && decide (s.port.card.st ≠ .inactive)

def modCard (f : Card → Card) (s : State) : State := { s with port := { s.port with card := f s.port.card } }

/-- The card loses its initialisation (R424). -/
def cardLoss (s : State) : State :=
  { s with
    dev := { s.dev with proto := 0 }
    port := { s.port with
      card := { Card.uninit with lost := true }
      rxDiscard := false, credit := 0x400#32, rxCount := 0, w := 0, cur := [], ready := [], txDone := 0, txRead := 0
      txAvail := BitVec.ofNat 32 s.txBlocks } }

/-- Voltage windows of the OCR within 3.0 V to 3.6 V (R458, VDD_SD). -/
def ocrWindow : BitVec 24 := 0xFC0000#24

/-- The R4 response of CMD5: ready bit, three functions, no memory, 1.8 V accepted, the OCR. -/
def r4 (ready : Bool) : List Byte :=
  [(if ready then 0xB1#8 else 0x31#8), 0xFC#8, 0, 0]

/-- CMD0: the card returns to the idle state at its present voltage; initialisation has to be completed again. -/
def execCmd0 (t : Nat) (s : State) : Host.Outcome State Fault Refusal :=
  let s := s.at t
  .next (if s.cardAlive then
    respond [] false (modCard (fun c => { c with st := .idle, rca := 0, wide := false, tuned := false }) s) else s)

/-- CMD5: an inquiry, or initialisation when the voltage window meets the card's; after a loss its completion logs 0x0A05 (R424). -/
def execCmd5 (t : Nat) (ocr : BitVec 24) (s : State) : Host.Outcome State Fault Refusal :=
  let s := s.at t
  if !s.cardAlive then .next s
  else if s.port.card.st = .idle then
    if ocr &&& ocrWindow = 0 then .next (respond (r4 false) false s)
    else
      let lost := s.port.card.lost
      let s := respond (r4 true) false (modCard (fun c => { c with st := .ready, lost := false }) s)
      .next (if lost then logEvent 0x0A05 idPort 0 s else s)
  else .next (respond (r4 true) false s)

/-- CMD3: in the ready or stand-by state the card publishes a relative address of its choosing (PRESUMED, assumption 8). -/
def execCmd3 (t : Nat) (s : State) : Host.Outcome State Fault Refusal :=
  let s := s.at t
  if s.cardAlive && decide (s.port.card.st = .ready ∨ s.port.card.st = .standby) then
    let rca := Config.rca s.free
    let s := modCard (fun c => { c with st := .standby, rca := rca }) { s with free := s.free + 1 }
    .next (respond ((natLe 2 rca.toNat).reverse ++ [0, 0]) false s)
  else .next s

/-- CMD7: the addressed card is selected; any other address deselects it. -/
def execCmd7 (t : Nat) (rca : W16) (s : State) : Host.Outcome State Fault Refusal :=
  let s := s.at t
  if !s.cardAlive then .next s
  else
    match s.port.card.st with
    | .standby => .next (if rca = s.port.card.rca then respond [0, 0, 0, 0] false (modCard (fun c => { c with st := .selected }) s) else s)
    | .selected => .next (if rca = s.port.card.rca then s else modCard (fun c => { c with st := .standby }) s)
    | _ => .next s

/-- CMD11: after CMD5, signalling switches to 1.8 V. -/
def execCmd11 (t : Nat) (s : State) : Host.Outcome State Fault Refusal :=
  let s := s.at t
  .next (if s.cardAlive && decide (s.port.card.st = .ready) then
    respond [0, 0, 0, 0] false (modCard (fun c => { c with v18 := true }) s) else s)

/-- CMD15: the addressed card goes inactive until its pads lose their supply or the part resets. -/
def execCmd15 (t : Nat) (rca : W16) (s : State) : Host.Outcome State Fault Refusal :=
  let s := s.at t
  .next (if s.cardAlive && decide (s.port.card.st = .standby ∨ s.port.card.st = .selected) && decide (rca = s.port.card.rca) then
    modCard (fun c => { c with st := .inactive }) s else s)

/-- CMD19: at 1.8 V the selected card sends the 64 bytes of the tuning block (DESIGN CHOICE, assumption 12). -/
def execCmd19 (t : Nat) (s : State) : Host.Outcome State Fault Refusal :=
  let s := s.at t
  .next (if s.cardAlive && decide (s.port.card.st = .selected) && s.port.card.v18 then
    respond ((List.range 64).map Config.tuningByte) false (modCard (fun c => { c with tuned := true }) s) else s)

/-! ### Function 0 -/

/-- Where the CIS of function 0 and those of functions 1 to 3 lie (PRESUMED, assumption 12). -/
def cisAt (fn : Nat) : Nat := 0x1000 + 0x40 * fn

/-- The common CIS: CISTPL_MANFID, and CISTPL_FUNCE with the largest block size (R422). -/
def commonCis : List Byte :=
  [0x20#8, 4, 0xA5#8, 0x05#8, 0x16#8, 0, 0x22#8, 4, 0, 0x00#8, 0x02#8, Config.cccrByte 0x100B, 0xFF#8]

/-- A function's CIS: the standard interface code (R422). -/
def functionCis (fn : Nat) : List Byte := [0x91#8, 2, 0, Config.cccrByte (cisAt fn + 3), 0xFF#8]

/-- A byte of the three that point to a CIS. -/
def cisPtr (fn k : Nat) : Byte := BitVec.ofNat 8 (cisAt fn / 256 ^ k)

/-- One byte of the CCCR, an FBR or the CIS; bytes R422 and R423 do not fix are SDIO's (DESIGN CHOICE, assumption 12). -/
def f0Read (s : State) (a : Nat) : Byte :=
  let c := s.port.card
  if a = 0x00 then 0x43#8
  else if a = 0x02 then c.ioe
  else if a = 0x03 then c.ior
  else if a = 0x04 then c.ien
  else if a = 0x05 then (if s.irqPending && !s.port.irqPin then 0x02#8 else 0)
  else if a = 0x06 then 0
  else if a = 0x07 then c.busIf
  else if a = 0x08 then 0x02#8
  else if 0x09 ≤ a ∧ a ≤ 0x0B then cisPtr 0 (a - 0x09)
  else if a / 0x100 ∈ [1, 2, 3] ∧ 0x09 ≤ a % 0x100 ∧ a % 0x100 ≤ 0x0B then cisPtr (a / 0x100) (a % 0x100 - 0x09)
  else if cisAt 0 ≤ a ∧ a < cisAt 0 + 13 then commonCis.getD (a - cisAt 0) 0
  else if cisAt 1 ≤ a ∧ a < cisAt 4 ∧ a % 0x40 < 5 then (functionCis ((a - cisAt 0) / 0x40)).getD (a % 0x40) 0
  else if a = 0x10 then BitVec.ofNat 8 (c.fbr.get 0)
  else if a = 0x11 then BitVec.ofNat 8 (c.fbr.get 0 / 256)
  else if a = 0x13 then (c.speed &&& 0x0E#8) ||| 0x01#8
  else if a = 0x14 then 0x03#8
  else if a = 0x15 then c.driver
  else if a = 0x100 ∨ a = 0x200 ∨ a = 0x300 then 0
  else if a = 0x110 then BitVec.ofNat 8 (c.fbr.get 1)
  else if a = 0x111 then BitVec.ofNat 8 (c.fbr.get 1 / 256)
  else if a = 0x210 then BitVec.ofNat 8 (c.fbr.get 2)
  else if a = 0x211 then BitVec.ofNat 8 (c.fbr.get 2 / 256)
  else if a = 0x310 then BitVec.ofNat 8 (c.fbr.get 3)
  else if a = 0x311 then BitVec.ofNat 8 (c.fbr.get 3 / 256)
  else Config.cccrByte a

/-- One half of a block size. -/
def setBlk (n : Fin 4) (hi : Bool) (v : Byte) (c : Card) : Card :=
  { c with fbr := vmod c.fbr n fun x => if hi then v.toNat * 256 + x % 256 else x / 256 * 256 + v.toNat }

/-- A byte written over an old one where the option that it selects is one of R421's; another selection leaves the old one (PRESUMED, assumption
157). -/
def select (ok : Bool) (new old : Byte) : Byte := if ok then new else old

/-- Write one byte of function 0; RES in the CCCR loses the initialisation (R424), a cleared enable bit clears its ready bit. The bus is 1 or 4 bits
wide, the timing none beyond SDR104 and the driver of type B (R421). -/
def f0Write (a : Nat) (v : Byte) (s : State) : State :=
  if a = 0x02 then modCard (fun c => { c with ioe := v &&& 0x0E#8, ior := c.ior &&& v }) s
  else if a = 0x04 then modCard (fun c => { c with ien := v &&& 0x0F#8 }) s
  else if a = 0x06 then (if v.getLsbD 3 then cardLoss s else s)
  else if a = 0x07 then modCard (fun c =>
    let bw := select (!v.getLsbD 0) (v &&& 0x03#8) (c.busIf &&& 0x03#8)
    { c with busIf := (v &&& 0xA0#8) ||| bw, wide := decide (bw = 0x02#8) }) s
  else if a = 0x10 then modCard (setBlk 0 false v) s
  else if a = 0x11 then modCard (setBlk 0 true v) s
  else if a = 0x13 then modCard (fun c => { c with speed := select (!v.getLsbD 3) (v &&& 0x0E#8) c.speed }) s
  else if a = 0x15 then modCard (fun c => { c with driver := select (decide (v &&& 0x70#8 = 0)) 0 c.driver }) s
  else if a = 0x110 then modCard (setBlk 1 false v) s
  else if a = 0x111 then modCard (setBlk 1 true v) s
  else if a = 0x210 then modCard (setBlk 2 false v) s
  else if a = 0x211 then modCard (setBlk 2 true v) s
  else if a = 0x310 then modCard (setBlk 3 false v) s
  else if a = 0x311 then modCard (setBlk 3 true v) s
  else s

def f0Reads (s : State) (a n : Nat) : List Byte := (List.range n).map fun i => f0Read s (a + i)

def f0Writes (a : Nat) : List Byte → State → State
  | [], s => s
  | v :: vs, s => f0Writes (a + 1) vs (f0Write a v s)

/-- The R5 response: current state, OUT_OF_RANGE and the data byte. -/
def r5 (oor : Bool) (data : Byte) : List Byte := [(if oor then 0x11#8 else 0x10#8), data]

/-- CMD52: a byte of function 0 or 1; every other function or address is answered OUT_OF_RANGE and moves nothing (R423). -/
def execCmd52 (t : Nat) (fn : Fin 8) (addr : BitVec 17) (write : Option Byte) (s : State) : Host.Outcome State Fault Refusal :=
  let s := s.at t
  if !s.selected then .next s
  else if fn = 0 then
    match write with
    | some v => .next (f0Write addr.toNat v (respond (r5 false v) false s))
    | none => .next (respond (r5 false (f0Read s addr.toNat)) false s)
  else if fn = 1 then
    match write with
    | some v => .next (respond (r5 false v) false (f1WriteByte addr.toNat v s))
    | none =>
      let (b, s) := f1ReadByte addr.toNat s
      .next (respond (r5 false b) false s)
  else .next (respond (r5 true 0) true s)

/-- CCCR_RES_WRITE (R424). -/
def execCccrResWrite (t : Nat) (s : State) : Host.Outcome State Fault Refusal :=
  let s := s.at t
  .next (if s.selected then cardLoss s else s)

/-- SD_PAD_SUPPLY_LOSS (R424); an inactive card is freed by it too. -/
def execSdPadSupplyLoss (t : Nat) (s : State) : Host.Outcome State Fault Refusal :=
  let s := s.at t
  .next (if s.chip.powered && !s.chip.resetN && decide (s.dev.st ≠ .reset) then cardLoss s else s)

/-- A CMD53 that the card answers OUT_OF_RANGE (R423): a read of F2, a write of F3, another address, byte mode to F2 or F3, block
mode to F0 or F1, or an FBR block size other than 512. -/
def cmd53Oor (s : State) (fn : Fin 4) (write blockMode : Bool) (addr : Nat) : Bool :=
  if fn = 0 then blockMode
  else if fn = 1 then blockMode
  else
    decide (addr ≠ 0) || !blockMode || decide (s.port.card.fbr.get fn ≠ 512) ||
      (if fn = 2 then !write else write)

/-- CMD53_F0: byte mode to function 0, or a CMD53 answered OUT_OF_RANGE; any other CMD53 is another row. -/
def execCmd53F0 (t : Nat) (fn : Fin 4) (write blockMode : Bool) (addr count : Nat) (data : List Byte) (s : State) :
    Host.Outcome State Fault Refusal :=
  let s := s.at t
  if !s.selected then .next s
  else if cmd53Oor s fn write blockMode addr || decide (addr + count > 0x20000) then .next (respond (r5 true 0) true s)
  else if fn = 0 then
    .next (if write then f0Writes addr (data.take count) (respond (r5 false 0) false s)
           else respond (f0Reads s addr count) false s)
  else .next s

/-- FUNCTION_READY_IN_IORX: an enabled function reports ready (R423). -/
def execFunctionReadyInIorx (t : Nat) (fn : Fin 4) (s : State) : Host.Outcome State Fault Refusal :=
  let s := s.at t
  .next (if decide (s.dev.st ≠ .reset) && decide (fn ≠ 0) && s.port.card.ioe.getLsbD fn.1 then
    modCard (fun c => { c with ior := c.ior ||| (1#8 <<< fn.1) }) s else s)

end Sys2Proof.Machine
end

