-- ==== Sys2Proof/Machine/Operands.lean ====
section
/-! DEFINITION. Number formats: codes, layouts, special values, exact values, rounding and the FP32 operations
(R123 to R147). -/

namespace Sys2Proof.Machine

/-! ### Format codes (R123) -/

def fInt4 : Nat := 0
def fInt8 : Nat := 1
def fInt16 : Nat := 2
def fInt32 : Nat := 3
def fE4M3 : Nat := 4
def fE5M2 : Nat := 5
def fFp16 : Nat := 6
def fBf16 : Nat := 7
def fFp32 : Nat := 8
def fMx4 : Nat := 9
def fMx6 : Nat := 10
def fT64 : Nat := 11
def fRaw : Nat := 15

/-- Lane classes of R97: 4-bit, 8-bit and 16-bit operands. -/
inductive LaneClass where | c4 | c8 | c16
deriving DecidableEq, Repr

def LaneClass.lanes : LaneClass → Nat
  | .c4 => 32
  | .c8 => 16
  | .c16 => 4

/-- Operand width of a class in bits. -/
def LaneClass.width : LaneClass → Nat
  | .c4 => 4
  | .c8 => 8
  | .c16 => 16

/-- The lane class of a platen operand format; none for the others (R123). T64 is a weight of every class. -/
def laneClass (f : Nat) : Option LaneClass :=
  if f = fInt4 ∨ f = fMx4 then some .c4
  else if f = fInt8 ∨ f = fE4M3 ∨ f = fE5M2 ∨ f = fMx6 then some .c8
  else if f = fInt16 ∨ f = fFp16 ∨ f = fBf16 then some .c16
  else none

/-- Element width in bits for the rule of R129. -/
def elemWidth (f : Nat) : Nat :=
  if f = fInt4 ∨ f = fMx4 then 4 else if f = fT64 then 2 else if f = fMx6 then 6
  else if f = fInt8 ∨ f = fE4M3 ∨ f = fE5M2 then 8 else if f = fInt16 ∨ f = fFp16 ∨ f = fBf16 then 16 else 32

/-- The weight format lies in the lane class of the activation format (R129). -/
def pairOk (a w : Nat) : Bool :=
  match laneClass a with
  | none => false
  | some c => decide (w = fT64) || ((laneClass w).isSome && decide (elemWidth w ≤ c.width))

/-- gmin of R123: the least exponent a platen operand of the format can carry (R112). -/
def gmin (f : Nat) : Int :=
  if f = fE4M3 then -9 else if f = fE5M2 then -16 else if f = fFp16 then -24 else if f = fBf16 then -140
  else if f = fFp32 then -149 else if f = fMx4 then -128 else if f = fMx6 then -130 else if f = fT64 then -127 else 0

/-- Twice the Amax of R123, so that 7.5 is an integer. -/
def amax2 (f : Nat) : Nat :=
  if f = fInt4 then 16 else if f = fInt8 then 256 else if f = fInt16 then 65536 else if f = fE4M3 then 896
  else if f = fE5M2 then 114688 else if f = fFp16 then 131008 else if f = fBf16 then 65280 else if f = fMx4 then 12
  else if f = fMx6 then 15 else if f = fT64 then 2 else 0

def isInt (f : Nat) : Bool := f = fInt4 || f = fInt8 || f = fInt16 || f = fInt32
def isMx (f : Nat) : Bool := f = fMx4 || f = fMx6
/-- Formats whose platen operands carry a scale exponent (R136). -/
def isScaled (f : Nat) : Bool := isMx f || f = fT64 || f = fBf16
/-- Formats of the vector unit (R161). -/
def isVector (f : Nat) : Bool :=
  f = fInt8 || f = fInt16 || f = fInt32 || f = fE4M3 || f = fE5M2 || f = fFp16 || f = fBf16 || f = fFp32

/-- Kind of an accumulation group (R133). -/
inductive GroupKind where | integer | exact | windowed
deriving DecidableEq, Repr

def groupKind (a w : Nat) : GroupKind :=
  if isInt a && isInt w then .integer else if isScaled a || isScaled w then .windowed else .exact

/-- The output formats a group kind allows (R133). -/
def outAllowed (k : GroupKind) (o : Nat) : Bool :=
  match k with
  | .integer => o = fInt32 || o = fRaw
  | _ => o = fFp32 || o = fFp16 || o = fBf16 || o = fRaw

/-- Unit length of a windowed pair: the shortest block among its scaled operands (R136). -/
def unitLen (a w : Nat) : Nat :=
  let l := fun f => if isMx f then 32 else if f = fBf16 then 16 else if f = fT64 then 64 else 1024
  min (l a) (l w)

/-- M_pair: the least integer with U × Amax(A) × Amax(W) < 2^M_pair (R136). -/
def mPair (a w : Nat) : Nat := Nat.log2 (unitLen a w * amax2 a * amax2 w / 4) + 1

/-! ### Exact values -/

/-- An exact value: NaN, infinity, or (−1)^neg × mag × 2^e. -/
inductive Val where
  | nan
  | inf (neg : Bool)
  | num (neg : Bool) (mag : Nat) (e : Int)
deriving DecidableEq, Repr

/-- The field layout of a floating-point format (R124). -/
structure FloatFmt where
  ebits : Nat
  mbits : Nat
  bias : Nat
deriving DecidableEq, Repr

def ffE4M3 : FloatFmt := ⟨4, 3, 7⟩
def ffE5M2 : FloatFmt := ⟨5, 2, 15⟩
def ffFp16 : FloatFmt := ⟨5, 10, 15⟩
def ffBf16 : FloatFmt := ⟨8, 7, 127⟩
def ffFp32 : FloatFmt := ⟨8, 23, 127⟩
def ffE2M1 : FloatFmt := ⟨2, 1, 1⟩
def ffE2M3 : FloatFmt := ⟨2, 3, 1⟩

/-- The finite reading of a bit pattern (R124). -/
def FloatFmt.finite (f : FloatFmt) (bits : Nat) : Val :=
  let frac := bits % 2 ^ f.mbits
  let ex := bits / 2 ^ f.mbits % 2 ^ f.ebits
  let neg := decide (bits / 2 ^ (f.mbits + f.ebits) % 2 = 1)
  if ex = 0 then .num neg frac (1 - (f.bias : Int) - f.mbits)
  else .num neg (2 ^ f.mbits + frac) ((ex : Int) - f.bias - f.mbits)

/-- An IEEE-like format: exponent all ones holds infinity and NaN (R125). -/
def FloatFmt.ieee (f : FloatFmt) (bits : Nat) : Val :=
  let frac := bits % 2 ^ f.mbits
  let ex := bits / 2 ^ f.mbits % 2 ^ f.ebits
  if ex = 2 ^ f.ebits - 1 then
    if frac = 0 then .inf (decide (bits / 2 ^ (f.mbits + f.ebits) % 2 = 1)) else .nan
  else f.finite bits

/-- Two's complement reading of a `w`-bit pattern. -/
def signedOf (w bits : Nat) : Int := if bits % 2 ^ w < 2 ^ (w - 1) then (bits % 2 ^ w : Nat) else (bits % 2 ^ w : Nat) - (2 ^ w : Nat)

def intVal (i : Int) : Val := .num (decide (i < 0)) i.natAbs 0

/-- The value of one element of a format, before any block scale (R123 to R125). -/
def elemVal (f bits : Nat) : Val :=
  if f = fInt4 then intVal (signedOf 4 bits)
  else if f = fInt8 then intVal (signedOf 8 bits)
  else if f = fInt16 then intVal (signedOf 16 bits)
  else if f = fInt32 then intVal (signedOf 32 bits)
  else if f = fE4M3 then (if bits % 128 = 127 then .nan else ffE4M3.finite bits)
  else if f = fE5M2 then ffE5M2.ieee bits
  else if f = fFp16 then ffFp16.ieee bits
  else if f = fBf16 then ffBf16.ieee bits
  else if f = fFp32 then ffFp32.ieee bits
  else if f = fMx4 then ffE2M1.finite bits
  else if f = fMx6 then ffE2M3.finite bits
  else .nan

/-- Multiply an exact value by 2^k. -/
def Val.scale (v : Val) (k : Int) : Val :=
  match v with
  | .num n m e => .num n m (e + k)
  | v => v

/-! ### Rounding -/

/-- `x / 2^n` rounded to nearest, ties to even. -/
def rneShift (x n : Nat) : Nat :=
  if n = 0 then x
  else
    let q := x / 2 ^ n
    let r := x % 2 ^ n
    if r > 2 ^ (n - 1) ∨ (r = 2 ^ (n - 1) ∧ q % 2 = 1) then q + 1 else q

/-- Bit length of a natural number. -/
def bitLen (x : Nat) : Nat := if x = 0 then 0 else Nat.log2 x + 1

/-- mag × 2^e in a format, to nearest even, subnormals kept, as the bits without the sign; the result may lie beyond the
largest finite pattern. -/
def FloatFmt.roundMag (f : FloatFmt) (mag : Nat) (e : Int) : Nat :=
  if mag = 0 then 0
  else
    let emin : Int := 1 - (f.bias : Int)
    let top : Int := e + bitLen mag - 1
    let q : Int := max top emin - f.mbits
    let sig := if q ≤ e then mag * 2 ^ (e - q).toNat else rneShift mag (q - e).toNat
    if sig < 2 ^ f.mbits then sig else ((q + f.mbits + f.bias).toNat) * 2 ^ f.mbits + (sig - 2 ^ f.mbits)

def FloatFmt.signBit (f : FloatFmt) (neg : Bool) : Nat := if neg then 2 ^ (f.ebits + f.mbits) else 0

/-- Canonical NaNs (R125). -/
def canonNan (f : Nat) : Nat :=
  if f = fE4M3 then 0x7F else if f = fE5M2 then 0x7E else if f = fFp16 then 0x7E00 else if f = fBf16 then 0x7FC0
  else 0x7FC00000

/-- A value rounded to an IEEE-like format: overflow gives infinity (R142). -/
def FloatFmt.encode (f : FloatFmt) (nan : Nat) (v : Val) : Nat :=
  let inf := (2 ^ f.ebits - 1) * 2 ^ f.mbits
  match v with
  | .nan => nan
  | .inf n => f.signBit n + inf
  | .num n m e => f.signBit n + min (f.roundMag m e) inf

/-- A value rounded to a format without infinity, saturated to its largest finite pattern (R142). -/
def FloatFmt.encodeSat (f : FloatFmt) (largest nan : Nat) (v : Val) : Nat :=
  match v with
  | .nan => nan
  | .inf n => f.signBit n + largest
  | .num n m e => f.signBit n + min (f.roundMag m e) largest

/-- A value rounded to an integer, ties to even. -/
def rneInt (neg : Bool) (mag : Nat) (e : Int) : Int :=
  let q : Nat := if 0 ≤ e then mag * 2 ^ e.toNat else rneShift mag (-e).toNat
  if neg then -(q : Int) else q

def clampInt (w : Nat) (x : Int) : Int := max (-(2 ^ (w - 1) : Int)) (min x (2 ^ (w - 1) - 1))

/-- The `w`-bit two's complement pattern of an integer. -/
def bitsOf (w : Nat) (x : Int) : Nat := (x % (2 ^ w : Nat)).toNat

/-- Conversion of an exact value to a vector-unit format (R142). -/
def encodeVal (f : Nat) (v : Val) : Nat :=
  if f = fE4M3 then ffE4M3.encodeSat 0x7E 0x7F v
  else if f = fE5M2 then ffE5M2.encode 0x7E v
  else if f = fFp16 then ffFp16.encode 0x7E00 v
  else if f = fBf16 then ffBf16.encode 0x7FC0 v
  else if f = fFp32 then ffFp32.encode 0x7FC00000 v
  else
    let w := if f = fInt4 then 4 else if f = fInt8 then 8 else if f = fInt16 then 16 else 32
    match v with
    | .nan => 0
    | .inf n => bitsOf w (if n then -(2 ^ (w - 1) : Int) else 2 ^ (w - 1) - 1)
    | .num n m e => bitsOf w (clampInt w (rneInt n m e))

/-- Bytes of one element of a vector-unit format. -/
def elemBytes (f : Nat) : Nat := if elemWidth f ≤ 8 then 1 else if elemWidth f = 16 then 2 else 4

/-! ### FP32 arithmetic (R143) -/

def f32nan : W32 := 0x7FC00000#32
def f32val (x : W32) : Val := ffFp32.ieee x.toNat
def f32of (v : Val) : W32 := BitVec.ofNat 32 (ffFp32.encode 0x7FC00000 v)
def f32int (i : Int) : W32 := f32of (intVal i)

/-- The exact signed sum of two values; a zero sum of unlike signs is +0. -/
def Val.add : Val → Val → Val
  | .nan, _ => .nan
  | _, .nan => .nan
  | .inf a, .inf b => if a = b then .inf a else .nan
  | .inf a, _ => .inf a
  | _, .inf b => .inf b
  | .num n m e, .num n' m' e' =>
    let q := min e e'
    let x : Int := (if n then -1 else 1) * (m * 2 ^ (e - q).toNat : Nat) + (if n' then -1 else 1) * (m' * 2 ^ (e' - q).toNat : Nat)
    if x = 0 then .num (n && n' ) 0 q else .num (decide (x < 0)) x.natAbs q

/-- The exact product. -/
def Val.mul : Val → Val → Val
  | .nan, _ => .nan
  | _, .nan => .nan
  | .inf a, .inf b => .inf (a != b)
  | .inf a, .num n m _ => if m = 0 then .nan else .inf (a != n)
  | .num n m _, .inf b => if m = 0 then .nan else .inf (n != b)
  | .num n m e, .num n' m' e' => .num (n != n') (m * m') (e + e')

def f32add (a b : W32) : W32 := f32of ((f32val a).add (f32val b))
def f32neg (a : W32) : W32 := a ^^^ 0x80000000#32
def f32sub (a b : W32) : W32 := if f32val b = .nan then f32nan else f32add a (f32neg b)
def f32mul (a b : W32) : W32 := f32of ((f32val a).mul (f32val b))
def f32fma (a b c : W32) : W32 := f32of (((f32val a).mul (f32val b)).add (f32val c))

/-- Sign and order of two exact values: none when either is NaN. -/
def Val.cmp : Val → Val → Option Ordering
  | .nan, _ => none
  | _, .nan => none
  | .inf a, .inf b => some (if a = b then .eq else if a then .lt else .gt)
  | .inf a, _ => some (if a then .lt else .gt)
  | _, .inf b => some (if b then .gt else .lt)
  | .num n m e, .num n' m' e' =>
    let q := min e e'
    let x : Int := (if n then -1 else 1) * (m * 2 ^ (e - q).toNat : Nat)
    let y : Int := (if n' then -1 else 1) * (m' * 2 ^ (e' - q).toNat : Nat)
    some (compare x y)

def f32lt (a b : W32) : Bool := (f32val a).cmp (f32val b) = some .lt
def f32le (a b : W32) : Bool := (f32val a).cmp (f32val b) = some .lt || (f32val a).cmp (f32val b) = some .eq
def f32eq (a b : W32) : Bool := (f32val a).cmp (f32val b) = some .eq
def f32isNan (a : W32) : Bool := f32val a = .nan

/-- Floor of an exact finite value. -/
def Val.floor : Val → Int
  | .num n m e =>
    let x : Int := (if n then -1 else 1) * m
    if 0 ≤ e then x * 2 ^ e.toNat else x / 2 ^ (-e).toNat
  | _ => 0

/-! ### Transcendental functions (R144 to R147) -/

/-- pack of R144. -/
def pack (s : Bool) (y : Nat) (k : Int) : W32 :=
  let b := bitLen y
  let sgn := if s then 2 ^ 31 else 0
  let sh : Int := (b : Int) - 24
  let q0 := if b > 24 then rneShift y (b - 24) else y * 2 ^ (24 - b)
  let q := if q0 = 2 ^ 24 then 2 ^ 23 else q0
  let sh := if q0 = 2 ^ 24 then sh + 1 else sh
  let ex := k + sh + 23
  if ex > 127 then BitVec.ofNat 32 (sgn + 0x7F800000)
  else if ex < -126 then BitVec.ofNat 32 sgn
  else BitVec.ofNat 32 (sgn + (ex + 127).toNat * 2 ^ 23 + (q - 2 ^ 23))

/-- Integer square root by the bits of the result from bit `n − 1` down. -/
def isqrtFrom (x : Nat) : Nat → Nat → Nat
  | 0, r => r
  | n + 1, r => if (r + 2 ^ n) * (r + 2 ^ n) ≤ x then isqrtFrom x n (r + 2 ^ n) else isqrtFrom x n r

/-- Floor of the square root. -/
def isqrt (x : Nat) : Nat := isqrtFrom x (bitLen x / 2 + 1) 0

/-- RT[i] of R145. -/
def tabRT (i : Nat) : Nat := (2 ^ 40 + (257 + 2 * i)) / (2 * (257 + 2 * i))
/-- QT[j]: nearest 2^31 / sqrt(c) (R145). -/
def tabQT (j : Nat) : Nat := (isqrt (2 ^ 64 * 128 / ((129 + 2 * (j % 64)) * 2 ^ (j / 64))) + 1) / 2
/-- ET[j]: nearest 2^31 × 2^(j/64), a 64th root (R145). -/
def tabET (j : Nat) : Nat := (isqrt (isqrt (isqrt (isqrt (isqrt (isqrt (2 ^ (32 * 64 + j))))))) + 1) / 2
/-- LR[i] of R145. -/
def tabLR (i : Nat) : Nat := if i = 63 ∨ i = 64 then 2 ^ 24 else (2 ^ 34 / (385 + 2 * i) + 1) / 2

/-- Terms z^(2k+1)/(2k+1) of the inverse hyperbolic tangent, in units of 2^-160. -/
def atanhSum (z2 : Int) : Nat → Nat → Int → Int
  | 0, _, _ => 0
  | n + 1, k, p => p / (2 * k + 1) + atanhSum z2 n (k + 1) (p * z2 / 2 ^ 160)

/-- ln(a/b) in units of 2^-160, for a/b between 1/2 and 2. -/
def lnFix (a b : Nat) : Int :=
  let z : Int := ((a : Int) - b) * 2 ^ 160 / (a + b)
  2 * atanhSum (z * z / 2 ^ 160) 60 0 z

/-- A fixed-point number of 160 fraction bits, to the nearest integer after division by 2^(160 − k). -/
def nearest160 (x : Int) (k : Nat) : Int := (x / 2 ^ (159 - k) + 1) / 2

/-- LT[i]: nearest 2^48 × ln(2^24 / LR[i]) (R145). -/
def tabLT (i : Nat) : Int := if i = 63 ∨ i = 64 then 0 else nearest160 (lnFix (2 ^ 24) (tabLR i)) 48
def ln2Fix : Int := lnFix 2 1
/-- LN2: nearest 2^48 × ln 2. -/
def cLN2 : Int := nearest160 ln2Fix 48
/-- L2E: nearest 2^32 × log2(e). -/
def cL2E : Int := (2 ^ 193 / ln2Fix + 1) / 2
/-- C1, C2, C3: nearest 2^31 × (ln 2)^k / k!. -/
def cC1 : Int := nearest160 ln2Fix 31
def cC2 : Int := nearest160 (ln2Fix * ln2Fix / 2 ^ 160 / 2) 31
def cC3 : Int := nearest160 (ln2Fix * ln2Fix / 2 ^ 160 * ln2Fix / 2 ^ 160 / 6) 31
def cK1 : Int := 2 ^ 48
def cK2 : Int := -2 ^ 47
def cK3 : Int := (2 ^ 48 - 1) / 3
def cK4 : Int := -2 ^ 46

/-- Sign, exponent field and fraction of an FP32 word. -/
def f32s (x : W32) : Bool := x.getLsbD 31
def f32e (x : W32) : Nat := (x.extractLsb' 23 8).toNat
def f32f (x : W32) : Nat := (x.extractLsb' 0 23).toNat

/-- Zero for the transcendental functions: subnormal inputs count as zero of the same sign (R144). -/
def f32zeroish (x : W32) : Bool := f32e x = 0
def f32isInf (x : W32) : Bool := f32e x = 255 && f32f x = 0

def newton (step : Int → Int) : Nat → Int → Int
  | 0, y => y
  | n + 1, y => newton step n (step y)

/-- recip of R146. -/
def f32recip (x : W32) : W32 :=
  let s := f32s x
  let sgn : W32 := if s then 0x80000000#32 else 0
  if f32isNan x then f32nan
  else if f32zeroish x then sgn ||| 0x7F800000#32
  else if f32isInf x then sgn
  else
    let f := f32f x
    let e : Int := (f32e x : Int) - 127
    if f = 0 then pack s 1 (-e)
    else
      let m : Int := 2 ^ 23 + f
      let y := newton (fun y => (y * (2 ^ 32 - m * y / 2 ^ 23)) / 2 ^ 31) 2 (tabRT (f / 2 ^ 16))
      pack s y.toNat (-31 - e)

/-- rsqrt of R146. -/
def f32rsqrt (x : W32) : W32 :=
  let s := f32s x
  if f32isNan x then f32nan
  else if f32zeroish x then (if s then 0xFF800000#32 else 0x7F800000#32)
  else if s then f32nan
  else if f32isInf x then 0
  else
    let f := f32f x
    let e : Int := (f32e x : Int) - 127
    let a := e % 2
    let h := (e - a) / 2
    if a = 0 ∧ f = 0 then pack false 1 (-h)
    else
      let mp : Int := (2 ^ 23 + f) * 2 ^ a.toNat
      let y := newton (fun y => (y * (3 * 2 ^ 31 - mp * (y * y / 2 ^ 31) / 2 ^ 23)) / 2 ^ 32) 2 (tabQT (64 * a.toNat + f / 2 ^ 17))
      pack false y.toNat (-31 - h)

/-- exp of R147. -/
def f32exp (x : W32) : W32 :=
  if f32isNan x then f32nan
  else if !f32s x && decide (f32e x ≥ 134) then 0x7F800000#32
  else if f32s x && decide (f32e x ≥ 134) then 0
  else if f32zeroish x then 0x3F800000#32
  else
    let xx := ((f32val x).scale 40).floor
    let t := xx * cL2E / 2 ^ 32
    let n := t / 2 ^ 40
    let r := (t % 2 ^ 40).toNat
    let j := r / 2 ^ 34
    let d : Int := (r % 2 ^ 34 / 2 ^ 9 : Nat)
    let p := cC2 + cC3 * d / 2 ^ 31
    let p := cC1 + p * d / 2 ^ 31
    let p := 2 ^ 31 + p * d / 2 ^ 31
    pack false ((tabET j : Int) * p / 2 ^ 31).toNat (n - 31)

/-- log of R147. -/
def f32log (x : W32) : W32 :=
  if f32isNan x then f32nan
  else if f32zeroish x then 0xFF800000#32
  else if f32s x then f32nan
  else if f32isInf x then 0x7F800000#32
  else
    let f := f32f x
    let big := decide (f ≥ 2 ^ 22)
    let m := 2 ^ 23 + f
    let mq := if big then m else 2 * m
    let e : Int := (f32e x : Int) - 127 + (if big then 1 else 0)
    let i := (mq - 3 * 2 ^ 22) / 2 ^ 16
    let r : Int := (mq * tabLR i : Nat) - 2 ^ 48
    let p := cK3 + cK4 * r / 2 ^ 48
    let p := cK2 + p * r / 2 ^ 48
    let p := cK1 + p * r / 2 ^ 48
    let s := e * cLN2 + tabLT i + p * r / 2 ^ 48
    if s = 0 then 0 else pack (decide (s < 0)) s.natAbs (-48)

/-! ### Block form of BF16 (R131) and T64 (R127) -/

/-- Significand and exponent field of a BF16 word as R131 uses them; NaN and infinity give none (DEDUCED, assumption 58). -/
def bf16Parts (b : Nat) : Option (Bool × Nat × Nat) :=
  let ex := b / 128 % 256
  let frac := b % 128
  if ex = 255 then none
  else if ex = 0 then some (decide (b / 32768 % 2 = 1), frac, 1)
  else some (decide (b / 32768 % 2 = 1), 128 + frac, ex)

/-- The shared exponent E of a block (R131). -/
def bf16E (bs : List Nat) : Nat := (bs.filterMap fun b => (bf16Parts b).map fun p => p.2.2).foldl max 1

/-- The block-form mantissa of one element under E, and whether the element raises the NaN flag (R131, R132). -/
def bf16M (e b : Nat) : Int × Bool :=
  match bf16Parts b with
  | none => (0, true)
  | some (n, sig, ex) =>
    let m := rneShift (sig * 128) (e - ex)
    (if n then -(m : Int) else m, false)

/-- The in-case code of a T64 digit (R127). -/
def t64Code (t : Nat) : Nat := if t = 0 then 0 else if t = 1 then 1 else 3

/-- The 64 digits of the 13 code bytes of a T64 block, or none for an invalid byte (R127, R128). -/
def t64Digits (bs : List Byte) : Option (List Nat) :=
  let ds := fun (n b : Nat) => (List.range n).map fun i => b / 3 ^ i % 3
  if (bs.take 12).all (fun b => decide (b.toNat ≤ 242)) && decide ((bs.getD 12 0).toNat ≤ 80) then
    some ((bs.take 12).flatMap (fun b => ds 5 b.toNat) ++ ds 4 (bs.getD 12 0).toNat)
  else none

/-- A T64 byte of a weight section is valid (R128); `i` is its place in the 14-byte block. -/
def t64ByteOk (i : Nat) (b : Byte) : Bool :=
  if i < 12 then decide (b.toNat ≤ 242) else if i = 12 then decide (b.toNat ≤ 80) else true

end Sys2Proof.Machine
end

