-- ==== Sys2Proof/Machine/Elems.lean ====
section
/-! DEFINITION. Elements of a tensor in memory and exact sums with their one rounding, shared by the platen, the compositors, the vector
unit and the understudy's cores (R126, R127, R138 to R141, R152). -/

namespace Sys2Proof.Machine

/-- A sign and a magnitude as an integer. -/
def signed (n : Bool) (m : Nat) : Int := if n then -(m : Int) else m

/-- Parts of a list, each of `n` elements. -/
def partsOf {α : Type} (n : Nat) (l : List α) : List (List α) :=
  (List.range ((l.length + n - 1) / n)).map fun i => (l.drop (i * n)).take n

/-- Byte addresses that hold element `i` of a tensor. -/
def elemAddrs (fmt base i : Nat) : List Nat :=
  if fmt = fInt4 ∨ fmt = fMx4 then [base + i / 2]
  else if fmt = fMx6 then (List.range 3).map fun k => base + i / 4 * 3 + k
  else if fmt = fT64 then (List.range 14).map fun k => base + i / 64 * 14 + k
  else (List.range (elemBytes fmt)).map fun k => base + i * elemBytes fmt + k

/-- The in-case code of an element from the bytes that hold it; an invalid T64 block gives zeros (R128) (DEDUCED, assumption 39). -/
def elemCode (fmt i : Nat) (bs : List Byte) : Nat :=
  if fmt = fInt4 ∨ fmt = fMx4 then leNat bs / 16 ^ (i % 2) % 16
  else if fmt = fMx6 then leNat bs / 64 ^ (i % 4) % 64
  else if fmt = fT64 then ((t64Digits (bs.take 13)).map fun ds => t64Code (ds.getD (i % 64) 0)).getD 0
  else leNat bs

/-- A term of a windowed entry: at 2^87 and beyond it enters as 0 and sets OVF (R138). -/
def windowTerm (t : Int) : Int × Bool := if 2 ^ 87 ≤ t.natAbs then (0, true) else (t, false)

/-- What an entry holds of an integer: its low 104 bits, or for an integer group its low 48 bits (R110, R133). -/
def Acc.fit (k : GroupKind) (x : Acc) : Acc :=
  let w := if k = .integer then 48 else 104
  { x with val := signedOf w (bitsOf w x.val) }

/-- The exact sum of two entries, with their flags. -/
def Acc.add (x y : Acc) : Acc := { val := x.val + y.val, nan := x.nan || y.nan, ovf := x.ovf || y.ovf }

/-- The exact value of an accumulator integer. -/
def accVal (a lsb : Int) : Val := .num (decide (a < 0)) a.natAbs lsb

/-- A bias term of an entry (R141): the integer itself, or floor(b × 2^−L) with its NaN and OVF marks. -/
def biasAcc (k : GroupKind) (lsb : Int) (b : W32) : Acc :=
  match k with
  | .integer => { val := b.toInt, nan := false, ovf := false }
  | _ =>
    match (f32val b).scale (-lsb) with
    | .num n m e =>
      let x := windowTerm (Val.floor (.num n m e))
      { val := x.1, nan := false, ovf := x.2 }
    | _ => { val := 0, nan := true, ovf := false }

/-- One column at the drain: rounded once to a format (R139), or as a RAW word (R140). -/
def drainCol (out : Nat) (lsb : Int) (x : Acc) : Nat :=
  if out = fRaw then
    bitsOf 104 x.val + bit x.nan 104 + bit x.ovf 105 + bitsOf 10 lsb * 2 ^ 112
  else if x.nan || x.ovf then canonNan out
  else encodeVal out (accVal x.val lsb)

/-- Bytes padded with zeros to a length. -/
def padBytes (n : Nat) (bs : List Byte) : List Byte := bs ++ List.replicate (n - bs.length) 0

/-- Insert by a key, ascending. -/
def insertBy {α : Type} (key : α → Nat) (x : α) : List α → List α
  | [] => [x]
  | y :: ys => if key x ≤ key y then x :: y :: ys else y :: insertBy key x ys

def sortBy {α : Type} (key : α → Nat) (l : List α) : List α := l.foldr (insertBy key) []

end Sys2Proof.Machine
end

