-- ==== Sys2Proof/Machine/Crypto.lean ====
section
/-! DEFINITION. Checksums and cryptography of the named standards: CRC-32 (R89), CRC-16 (R251), SHA-512 (FIPS 180-4),
Ed25519 (RFC 8032) and the digest mix (R383, R384). -/

namespace Sys2Proof.Machine

/-! ### CRCs -/

/-- Eight steps of a reflected CRC-32 register (R89). -/
def crc32Bits : Nat → W32 → W32
  | 0, c => c
  | n + 1, c => crc32Bits n (if c.getLsbD 0 then (c >>> 1) ^^^ 0xEDB88320#32 else c >>> 1)

def crc32Byte (c : W32) (b : Byte) : W32 := crc32Bits 8 (c ^^^ b.setWidth 32)

/-- The CRC-32 of R89: polynomial 0x04C1_1DB7 reflected, initial value and final XOR all ones. -/
def crc32 (bs : List Byte) : W32 := bs.foldl crc32Byte 0xFFFFFFFF#32 ^^^ 0xFFFFFFFF#32

def crc16Bits : Nat → W16 → W16
  | 0, c => c
  | n + 1, c => crc16Bits n (if c.getLsbD 15 then (c <<< 1) ^^^ 0x1021#16 else c <<< 1)

/-- One byte into the CRC-16 register of R251. -/
def crc16Byte (c : W16) (b : Byte) : W16 := crc16Bits 8 (c ^^^ BitVec.ofNat 16 (b.toNat * 256))

/-- The CRC-16 of R251: polynomial 0x1021, initial value 0xFFFF, no reflection, no final XOR. -/
def crc16 (bs : List Byte) : W16 := bs.foldl crc16Byte 0xFFFF#16

/-! ### SHA-512 -/

def shaK0 : List W64 := [
  0x428A2F98D728AE22#64, 0x7137449123EF65CD#64, 0xB5C0FBCFEC4D3B2F#64, 0xE9B5DBA58189DBBC#64,
  0x3956C25BF348B538#64, 0x59F111F1B605D019#64, 0x923F82A4AF194F9B#64, 0xAB1C5ED5DA6D8118#64,
  0xD807AA98A3030242#64, 0x12835B0145706FBE#64, 0x243185BE4EE4B28C#64, 0x550C7DC3D5FFB4E2#64,
  0x72BE5D74F27B896F#64, 0x80DEB1FE3B1696B1#64, 0x9BDC06A725C71235#64, 0xC19BF174CF692694#64]
def shaK1 : List W64 := [
  0xE49B69C19EF14AD2#64, 0xEFBE4786384F25E3#64, 0x0FC19DC68B8CD5B5#64, 0x240CA1CC77AC9C65#64,
  0x2DE92C6F592B0275#64, 0x4A7484AA6EA6E483#64, 0x5CB0A9DCBD41FBD4#64, 0x76F988DA831153B5#64,
  0x983E5152EE66DFAB#64, 0xA831C66D2DB43210#64, 0xB00327C898FB213F#64, 0xBF597FC7BEEF0EE4#64,
  0xC6E00BF33DA88FC2#64, 0xD5A79147930AA725#64, 0x06CA6351E003826F#64, 0x142929670A0E6E70#64]
def shaK2 : List W64 := [
  0x27B70A8546D22FFC#64, 0x2E1B21385C26C926#64, 0x4D2C6DFC5AC42AED#64, 0x53380D139D95B3DF#64,
  0x650A73548BAF63DE#64, 0x766A0ABB3C77B2A8#64, 0x81C2C92E47EDAEE6#64, 0x92722C851482353B#64,
  0xA2BFE8A14CF10364#64, 0xA81A664BBC423001#64, 0xC24B8B70D0F89791#64, 0xC76C51A30654BE30#64,
  0xD192E819D6EF5218#64, 0xD69906245565A910#64, 0xF40E35855771202A#64, 0x106AA07032BBD1B8#64]
def shaK3 : List W64 := [
  0x19A4C116B8D2D0C8#64, 0x1E376C085141AB53#64, 0x2748774CDF8EEB99#64, 0x34B0BCB5E19B48A8#64,
  0x391C0CB3C5C95A63#64, 0x4ED8AA4AE3418ACB#64, 0x5B9CCA4F7763E373#64, 0x682E6FF3D6B2B8A3#64,
  0x748F82EE5DEFB2FC#64, 0x78A5636F43172F60#64, 0x84C87814A1F0AB72#64, 0x8CC702081A6439EC#64,
  0x90BEFFFA23631E28#64, 0xA4506CEBDE82BDE9#64, 0xBEF9A3F7B2C67915#64, 0xC67178F2E372532B#64]
def shaK4 : List W64 := [
  0xCA273ECEEA26619C#64, 0xD186B8C721C0C207#64, 0xEADA7DD6CDE0EB1E#64, 0xF57D4F7FEE6ED178#64,
  0x06F067AA72176FBA#64, 0x0A637DC5A2C898A6#64, 0x113F9804BEF90DAE#64, 0x1B710B35131C471B#64,
  0x28DB77F523047D84#64, 0x32CAAB7B40C72493#64, 0x3C9EBE0A15C9BEBC#64, 0x431D67C49C100D4C#64,
  0x4CC5D4BECB3E42B6#64, 0x597F299CFC657E2A#64, 0x5FCB6FAB3AD6FAEC#64, 0x6C44198C4A475817#64]
/-- The 80 round constants. -/
def shaK : List W64 := shaK0 ++ shaK1 ++ shaK2 ++ shaK3 ++ shaK4

/-- The eight hash words. -/
structure ShaState where
  a : W64
  b : W64
  c : W64
  d : W64
  e : W64
  f : W64
  g : W64
  h : W64
deriving DecidableEq, Repr

def shaInit : ShaState :=
  { a := 0x6A09E667F3BCC908#64
    b := 0xBB67AE8584CAA73B#64
    c := 0x3C6EF372FE94F82B#64
    d := 0xA54FF53A5F1D36F1#64
    e := 0x510E527FADE682D1#64
    f := 0x9B05688C2B3E6C1F#64
    g := 0x1F83D9ABFB41BD6B#64
    h := 0x5BE0CD19137E2179#64 }

def shaRound (s : ShaState) (kw : W64) : ShaState :=
  let s1 := s.e.rotateRight 14 ^^^ s.e.rotateRight 18 ^^^ s.e.rotateRight 41
  let ch := (s.e &&& s.f) ^^^ (~~~s.e &&& s.g)
  let t1 := s.h + s1 + ch + kw
  let s0 := s.a.rotateRight 28 ^^^ s.a.rotateRight 34 ^^^ s.a.rotateRight 39
  let maj := (s.a &&& s.b) ^^^ (s.a &&& s.c) ^^^ (s.b &&& s.c)
  { a := t1 + s0 + maj, b := s.a, c := s.b, d := s.c, e := s.d + t1, f := s.e, g := s.f, h := s.g }

/-- The rounds over a sliding window of 16 message words. -/
def shaRounds : List W64 → List W64 → ShaState → ShaState
  | k :: ks, w :: ws, s =>
    let w1 := ws.getD 0 0
    let w14 := ws.getD 13 0
    let nw := (w14.rotateRight 19 ^^^ w14.rotateRight 61 ^^^ (w14 >>> 6)) + ws.getD 8 0 +
      (w1.rotateRight 1 ^^^ w1.rotateRight 8 ^^^ (w1 >>> 7)) + w
    shaRounds ks (ws ++ [nw]) (shaRound s (k + w))
  | _, _, s => s

/-- A big-endian value. -/
def beNat (bs : List Byte) : Nat := bs.foldl (fun n b => 256 * n + b.toNat) 0

/-- The `n` big-endian bytes of a value. -/
def natBe (n v : Nat) : List Byte := (natLe n v).reverse

def shaBlock (s : ShaState) (blk : List Byte) : ShaState :=
  let ws := (List.range 16).map fun i => BitVec.ofNat 64 (beNat ((blk.drop (8 * i)).take 8))
  let r := shaRounds shaK ws s
  { a := s.a + r.a, b := s.b + r.b, c := s.c + r.c, d := s.d + r.d
    e := s.e + r.e, f := s.f + r.f, g := s.g + r.g, h := s.h + r.h }

def shaBlocks : Nat → List Byte → ShaState → ShaState
  | 0, _, s => s
  | n + 1, bs, s => shaBlocks n (bs.drop 128) (shaBlock s (bs.take 128))

/-- SHA-512 of a byte string, as its 64 output bytes (FIPS 180-4). -/
def sha512 (bs : List Byte) : List Byte :=
  let n := bs.length
  let z := (240 - (n + 1) % 128) % 128
  let m := bs ++ [0x80#8] ++ List.replicate z 0 ++ natBe 16 (8 * n)
  let s := shaBlocks (m.length / 128) m shaInit
  [s.a, s.b, s.c, s.d, s.e, s.f, s.g, s.h].flatMap fun w => natBe 8 w.toNat

/-! ### Ed25519 -/

def edP : Nat := 2 ^ 255 - 19
def edL : Nat := 2 ^ 252 + 27742317777372353535851937790883648493

/-- Modular power, over the bits of the exponent from bit `n − 1` down. -/
def powModFrom (m b e : Nat) : Nat → Nat → Nat
  | 0, r => r
  | n + 1, r =>
    let r2 := r * r % m
    powModFrom m b e n (if e.testBit n then r2 * b % m else r2)

def powMod (m b e : Nat) : Nat := powModFrom m (b % m) e 256 1
def edInv (x : Nat) : Nat := powMod edP x (edP - 2)
def edSub (a b : Nat) : Nat := (a + edP - b) % edP
def edD : Nat := (edP - 121665) * edInv 121666 % edP
def edI : Nat := powMod edP 2 ((edP - 1) / 4)

/-- A point in extended coordinates X : Y : Z : T. -/
structure EdPoint where
  x : Nat
  y : Nat
  z : Nat
  t : Nat
deriving DecidableEq, Repr

def EdPoint.zero : EdPoint := ⟨0, 1, 1, 0⟩

def EdPoint.add (p q : EdPoint) : EdPoint :=
  let a := edSub p.y p.x * edSub q.y q.x % edP
  let b := (p.y + p.x) * (q.y + q.x) % edP
  let c := 2 * p.t * q.t * edD % edP
  let d := 2 * p.z * q.z % edP
  let e := edSub b a
  let f := edSub d c
  let g := (d + c) % edP
  let h := (b + a) % edP
  ⟨e * f % edP, g * h % edP, f * g % edP, e * h % edP⟩

def edMulFrom (k : Nat) (p : EdPoint) : Nat → EdPoint → EdPoint
  | 0, r => r
  | n + 1, r =>
    let r2 := r.add r
    edMulFrom k p n (if k.testBit n then r2.add p else r2)

def edMul (k : Nat) (p : EdPoint) : EdPoint := edMulFrom k p 256 EdPoint.zero

/-- The x coordinate for y and a sign bit (RFC 8032, 5.1.3). -/
def edX (y : Nat) (sign : Bool) : Option Nat :=
  if y ≥ edP then none
  else
    let x2 := edSub (y * y) 1 * edInv (edD * y * y + 1) % edP
    if x2 = 0 then (if sign then none else some 0)
    else
      let x := powMod edP x2 ((edP + 3) / 8)
      let x := if x * x % edP = x2 then x else x * edI % edP
      if x * x % edP ≠ x2 then none
      else some (if decide (x % 2 = 1) = sign then x else edP - x)

def edDecode (bs : List Byte) : Option EdPoint :=
  let v := leNat bs
  let y := v % 2 ^ 255
  (edX y (decide (2 ^ 255 ≤ v))).map fun x => ⟨x, y, 1, x * y % edP⟩

def edEncode (p : EdPoint) : List Byte :=
  let zi := edInv p.z
  let x := p.x * zi % edP
  let y := p.y * zi % edP
  natLe 32 (y + (x % 2) * 2 ^ 255)

def edBaseY : Nat := 4 * edInv 5 % edP
def edBase : EdPoint :=
  let x := (edX edBaseY false).getD 0
  ⟨x, edBaseY, 1, x * edBaseY % edP⟩

/-- The clamped scalar of a private key (RFC 8032, 5.1.5). -/
def edScalar (seed : List Byte) : Nat :=
  let v := leNat ((sha512 seed).take 32)
  v % 2 ^ 254 / 8 * 8 + 2 ^ 254

/-- The public key of a private key. -/
def edPublic (seed : List Byte) : List Byte := edEncode (edMul (edScalar seed) edBase)

/-- An Ed25519 signature (RFC 8032, 5.1.6, no context). -/
def edSign (seed msg : List Byte) : List Byte :=
  let s := edScalar seed
  let pub := edPublic seed
  let r := leNat (sha512 ((sha512 seed).drop 32 ++ msg)) % edL
  let rb := edEncode (edMul r edBase)
  let k := leNat (sha512 (rb ++ pub ++ msg)) % edL
  rb ++ natLe 32 ((r + k * s) % edL)

/-- Ed25519 verification (RFC 8032, 5.1.7). -/
def edVerify (pub msg sig : List Byte) : Bool :=
  let rb := sig.take 32
  let s := leNat ((sig.drop 32).take 32)
  match edDecode pub, edDecode rb with
  | some a, some r =>
    if s ≥ edL then false
    else
      let k := leNat (sha512 (rb ++ pub ++ msg)) % edL
      edEncode (edMul (8 * s) edBase) = edEncode ((edMul 8 r).add (edMul (8 * k) a))
  | _, _ => false

/-! ### The digest of an image (R383, R384) -/

/-- mix(t, j, w) of R383. -/
def mix (t j : Nat) (w : W64) : W64 :=
  let x := w + BitVec.ofNat 64 ((j + 1) * 0x9E3779B97F4A7C15) + BitVec.ofNat 64 (t * 0xD1B54A32D192ED03)
  let x := (x ^^^ (x >>> 30)) * 0xBF58476D1CE4E5B9#64
  let x := (x ^^^ (x >>> 27)) * 0x94D049BB133111EB#64
  x ^^^ (x >>> 31)

/-- Words of an image, zero-padded to 8 bytes. -/
def words64 : Nat → List Byte → List W64
  | 0, _ => []
  | n + 1, bs => BitVec.ofNat 64 (leNat (bs.take 8)) :: words64 n (bs.drop 8)

/-- The sum of the mixes of an image's words from word index `j` (R384). -/
def digestFrom (t : Nat) : Nat → List W64 → W64
  | _, [] => 0
  | j, w :: ws => mix t j w + digestFrom t (j + 1) ws

/-- The digest of an image with key `t`. -/
def imageDigest (t : Nat) (bs : List Byte) : W64 := digestFrom t 0 (words64 ((bs.length + 7) / 8) bs)

end Sys2Proof.Machine
end

