-- ==== Sys2Proof/Machine/Forme.lean ====
section
/-! DEFINITION. The forme image: directory, colophon, device configuration, cue sheet, port map, safety rules, ingress table
and copy containers, read from bytes and checked (R148 to R160, R263, R264, R281, R326 to R330, R391 to R400). -/

namespace Sys2Proof.Machine

/-! ### Fields -/

def u8 (bs : List Byte) (i : Nat) : Nat := (bs.getD i 0).toNat
def uN (n : Nat) (bs : List Byte) (i : Nat) : Nat := leNat ((bs.drop i).take n)
def u16 (bs : List Byte) (i : Nat) : Nat := uN 2 bs i
def u32 (bs : List Byte) (i : Nat) : Nat := uN 4 bs i
def u64 (bs : List Byte) (i : Nat) : Nat := uN 8 bs i
def s16 (bs : List Byte) (i : Nat) : Int := signedOf 16 (u16 bs i)
def sub (bs : List Byte) (i n : Nat) : List Byte := (bs.drop i).take n
/-- Bytes `i` to `j − 1` are zero. -/
def zeros (bs : List Byte) (i j : Nat) : Bool := (sub bs i (j - i)).all (· == 0)
/-- Entry `i` of a table of `n`-byte entries. -/
def entry (bs : List Byte) (n i : Nat) : List Byte := sub bs (n * i) n
def noDup {α : Type} [DecidableEq α] (l : List α) : Bool := decide l.Nodup
/-- Round up to a multiple. -/
def padTo (n x : Nat) : Nat := (x + n - 1) / n * n
def bytesOf (l : List Nat) : List Byte := l.map fun n => BitVec.ofNat 8 n

/-! ### Directory and colophon (R392, R393, R400) -/

def maxImage : Nat := 0x2000000000
def chunkSize : Nat := 0x200000

/-- The header's fields. -/
structure Header where
  count : Nat
  advance : Bool
  imageLen : Nat
  rollback : Nat
deriving DecidableEq, Repr

def hdrMagic : List Byte := bytesOf [0x4B, 0x5A, 0x46, 0x4F, 0x52, 0x4D, 0x45, 0x00]
def colMagic : List Byte := bytesOf [0x4B, 0x5A, 0x43, 0x4F, 0x4C, 0x4F, 0x50, 0x48]

/-- Magic, version and header size are valid (R406). -/
def headerValid (h : List Byte) : Bool :=
  decide (h.take 8 = hdrMagic) && decide (u16 h 8 = 1) && decide (u16 h 10 = 4096)

def readHeader (h : List Byte) : Header :=
  { count := u16 h 12, advance := decide (u16 h 14 % 2 = 1), imageLen := u64 h 16, rollback := u32 h 24 }

/-- Header fields within R392. -/
def headerOk (h : List Byte) : Bool :=
  headerValid h && decide (1 ≤ u16 h 12) && decide (u16 h 12 ≤ 255) && decide (u16 h 14 ≤ 1) &&
    decide (u64 h 16 % 4096 = 0) && decide (u64 h 16 ≤ maxImage) && decide (u32 h 24 ≤ 64) && zeros h 28 32 && zeros h 48 4096

def readSection (e : List Byte) : Section :=
  { kind := u8 e 0, index := u16 e 4, offset := u64 e 8, length := u64 e 16, digest := sub e 64 64 }

def sectionOk (imageLen : Nat) (e : List Byte) : Bool :=
  let s := readSection e
  zeros e 1 4 && zeros e 6 8 && zeros e 24 64 && decide (s.offset % chunkSize = 0) && decide (chunkSize ≤ s.offset) &&
    decide (1 ≤ s.length) && decide (s.offset + s.length ≤ imageLen - 4096)

/-- The directory's length: header and section table. -/
def dirLength (h : List Byte) : Nat := 4096 + 128 * u16 h 12

def readSections (dir : List Byte) : List Section :=
  (List.range (u16 dir 12)).map fun i => readSection (entry (dir.drop 4096) 128 i)

/-- No two sections overlap. -/
def disjoint : List Section → Bool
  | [] => true
  | s :: r => (r.all fun t => decide (s.offset + s.length ≤ t.offset ∨ t.offset + t.length ≤ s.offset)) && disjoint r

/-- Section kinds and counts (R393). -/
def kindsOk (l : List Section) : Bool :=
  let n := fun k => (l.filter fun s => s.kind = k).length
  let idx := fun k => (l.filter fun s => s.kind = k).map Section.index
  [1, 2, 3, 4, 7, 8].all (fun k => decide (idx k = [0])) && decide (1 ≤ n 5) && decide (n 5 ≤ 32) && noDup (idx 5) &&
    (idx 5).all (fun i => decide (i ≤ 31)) && decide (n 6 ≤ 250) && noDup (idx 6) && (idx 6).all (fun i => decide (i ≤ 254)) &&
    l.all fun s => decide (1 ≤ s.kind ∧ s.kind ≤ 8)

/-- Check 1 of R407: directory fields within R392 and R393, section kinds and counts. -/
def check1 (dir : List Byte) : Bool :=
  headerOk dir && decide (dir.length = dirLength dir) &&
    (List.range (u16 dir 12)).all (fun i => sectionOk (u64 dir 16) (entry (dir.drop 4096) 128 i)) &&
    disjoint (readSections dir) && kindsOk (readSections dir)

/-- A key is accepted for a slot (R402): the root key while no customer slot is enrolled or damaged, or a valid customer slot;
the digest of the public key equals the slot's. -/
def keyAccepted (f : Fuses) (root : List Byte) (slot : Nat) (pub : List Byte) : Bool :=
  let empty := fun (k : KeySlot) => !k.enrolled && k.digest.all (· == 0)
  if slot = 0 then decide (sha512 pub = root) && f.slots.toList.all empty
  else if h : 1 ≤ slot ∧ slot ≤ 4 then
    let k := f.slots.get ⟨slot - 1, by omega⟩
    k.enrolled && !k.revoked && decide (sha512 pub = k.digest)
  else false

/-- Check 3 of R407: the colophon's digest and signature. -/
def check3 (dir col : List Byte) : Bool :=
  decide (sub col 16 64 = sha512 dir) && edVerify (sub col 80 32) (sub col 16 64) (sub col 112 64)

/-- The first failing check among 1 to 4 of R407, as cause and detail. -/
def checks1to4 (f : Fuses) (root dir col : List Byte) : Option (Nat × Nat) :=
  if !check1 dir || decide (col.take 8 ≠ colMagic) || !zeros col 9 16 || !zeros col 176 4096 then some (0x04, 0)
  else if !keyAccepted f root (u8 col 8) (sub col 80 32) then some (0x05, u8 col 8)
  else if !check3 dir col then some (0x06, 0)
  else if (readHeader dir).rollback < f.rollback then some (0x07, f.rollback)
  else none

/-! ### Section digests (R394) -/

/-- SHA-512 digests of a section's chunks, from the forme unit. -/
def chunkDigests (ufs : List Host.Cell) : Nat → Nat → Nat → List (List Byte)
  | 0, _, _ => []
  | n + 1, off, len => sha512 (cellsRead ufs off (min chunkSize len)) :: chunkDigests ufs n (off + chunkSize) (len - chunkSize)

def Section.chunks (s : Section) (ufs : List Host.Cell) : List (List Byte) :=
  chunkDigests ufs ((s.length + chunkSize - 1) / chunkSize) s.offset s.length

/-- The digest of a section as it lies in the forme unit. -/
def Section.hash (s : Section) (ufs : List Host.Cell) : List Byte := sha512 (s.chunks ufs).flatten

def Section.bytes (s : Section) (ufs : List Host.Cell) : List Byte := cellsRead ufs s.offset s.length

def findSection (l : List Section) (kind index : Nat) : Option Section :=
  l.find? fun s => decide (s.kind = kind ∧ s.index = index)

def sectionBytes (ufs : List Host.Cell) (l : List Section) (kind index : Nat) : List Byte :=
  ((findSection l kind index).map fun s => s.bytes ufs).getD []

/-- Loading order: small sections, then weight sections, each in table order (R407). -/
def loadOrder (l : List Section) : List Section := l.filter (fun s => s.kind ≠ 6) ++ l.filter fun s => s.kind = 6

/-- Check 5: the firmware trailer (R398). -/
def check5 (root fw : List Byte) : Bool :=
  let n := fw.length - 128
  let tr := fw.drop n
  decide (128 ≤ fw.length) && zeros tr 4 32 && decide (sha512 (sub tr 32 32) = root) &&
    edVerify (sub tr 32 32) (sha512 (fw.take n) ++ tr.take 64) (sub tr 64 64)

/-! ### Device configuration (R263, R281, R395) -/

def readPartition (e : List Byte) : Partition :=
  { kind := u8 e 0, width := u8 e 1, mask := BitVec.ofNat 16 (u16 e 2), min := u8 e 4, share := u8 e 5, cap := u16 e 6
    galley := u8 e 8, cache := u8 e 9, leaf := u8 e 10, moves := u8 e 11, stack := u32 e 12, rateNom := u16 e 16
    rateHigh := u16 e 18, depth := u32 e 20, trackers := u16 e 24, threshold := u16 e 26, zeros := zeros e 28 64 }

def readLink (e : List Byte) : Link := { producer := u8 e 0, consumer := u8 e 1, ptensor := u32 e 4, ctensor := u32 e 8 }
def readLimits (e : List Byte) : Limits := { pmax := u32 e 0, c := u32 e 4, tmax := u32 e 8, bmax := u16 e 12 }
def Limits.zero (l : Limits) : Bool := decide (l.pmax = 0 ∧ l.c = 0 ∧ l.tmax = 0 ∧ l.bmax = 0)

/-- Session limits within R203. -/
def Limits.ok (l : Limits) (perSession : Bool) : Bool :=
  decide (16 ≤ l.pmax ∧ l.pmax ≤ 1048576 ∧ l.pmax % 16 = 0) && decide (16 ≤ l.c ∧ l.c ≤ 8192 ∧ l.c % 16 = 0) &&
    decide (l.c ≤ l.tmax ∧ l.tmax ≤ 65536) && decide (1 ≤ l.bmax ∧ l.bmax ≤ 1024) && (!perSession || decide (l.bmax = 1))

/-- Lmin of R32. -/
def lmin (period source : Nat) : Nat :=
  if source = 1 then 98 * period / 100 else if source = 3 then 9995 * period / 10000 else period

def maskCount (m : W16) : Nat := ((List.finRange 16).filter fun p => maskHas m p).length

/-- The arithmetic-mode block of R381 on a part of determinism class `cls`. -/
def mathOk (b : List Byte) (cls : Nat) : Bool :=
  decide (u8 b 0 = 1) && decide (u8 b 1 = 1) && decide (u8 b 2 = 1) && decide (u8 b 3 ≤ 1) &&
    decide (u8 b 3 = 0 ∨ u8 b 3 = cls) && zeros b 4 8

/-- Fields of the device configuration apart from the partition and link tables, which the imposer checks (R264, R281). -/
def configOk (c : List Byte) (cls : Nat) : Bool :=
  decide (c.length = 4096) && decide (5000 ≤ u32 c 0 ∧ u32 c 0 ≤ 100000) && decide (1 ≤ u8 c 4 ∧ u8 c 4 ≤ 3) &&
    decide (u8 c 5 ≤ 1) && decide (u8 c 6 ≤ 1) && decide (u8 c 7 = 0) && mathOk (sub c 16 8) cls && zeros c 2072 4096

def readLinks (c : List Byte) : List Link :=
  ((List.range 64).map fun i => entry (c.drop 536) 16 i).filterMap fun e => if u8 e 0 = 0xFF then none else some (readLink e)

/-- Links whose zero fields are not zero break R281. -/
def linkZeros (c : List Byte) : Bool :=
  (List.range 64).all fun i =>
    let e := entry (c.drop 536) 16 i
    decide (u8 e 0 = 0xFF) || (zeros e 2 4 && zeros e 12 16)

/-! ### The partition table (R264) -/

/-- Limits every defined entry keeps (R263). -/
def partFields (p : Partition) : Bool :=
  decide (p.kind ≤ 3) && p.zeros && decide (p.galley ≤ 188) && decide (p.cache ≤ p.galley) &&
    decide (p.leaf ≤ p.galley - p.cache) && decide (p.moves ≤ 64) && decide (p.stack ≤ 49152) && decide (p.rateNom ≤ 25600) &&
    decide (p.rateHigh ≤ 32000) && decide (p.depth ≤ 1048576) && decide (p.trackers ≤ 4096) &&
    decide (p.threshold = 0 ∨ 1001 ≤ p.threshold) &&
    (if 2 ≤ p.kind then decide (p.width ∈ [1, 2, 4, 8, 16]) else decide (p.width = 0)) &&
    (if p.kind = 0 then decide (1 ≤ p.min ∧ p.min ≤ 16) else decide (p.min = 0))

/-- The conditions of R264 on one entry by its kind. -/
def partKind (p : Partition) : Bool :=
  if p.kind = 0 then
    decide (p.min ≤ maskCount p.mask) && decide (p.share ≠ 0) && decide (p.cap = 0 ∧ p.cache = 0 ∧ p.leaf = 0 ∧ p.moves = 0) &&
      decide (p.stack = 0 ∧ p.rateNom = 0 ∧ p.rateHigh = 0 ∧ p.depth = 0 ∧ p.trackers = 0)
  else if p.kind = 1 then
    decide (p.mask = 0 ∧ p.galley = 0 ∧ p.stack = 0 ∧ p.rateNom = 0 ∧ p.rateHigh = 0 ∧ p.depth = 0 ∧ p.trackers = 0)
  else
    decide (p.mask ≠ 0) && decide (p.width ≤ maskCount p.mask) &&
      (decide (p.rateNom = 0 ∧ p.rateHigh = 0) || decide (max p.rateNom p.rateHigh ≤ p.depth))

/-- Cause 1 of R273 over the table. `constPages` are the stack pages of the weight sections. -/
def partTableOk (l : List Partition) (constPages : Nat) : Bool :=
  let d := l.filter fun p => p.kind ≠ 0xFF
  let sum := fun (f : Partition → Nat) => (d.map f).sum
  decide ((d.filter fun p => p.kind = 0).length = 1) && decide ((d.filter fun p => p.kind = 1).length = 1) &&
    d.all partFields && d.all partKind && decide (sum Partition.galley ≤ 188) && decide (sum Partition.share ≤ 256) &&
    decide (sum Partition.rateNom ≤ 25600) && decide (sum Partition.rateHigh ≤ 32000) && decide (sum Partition.trackers ≤ 4096) &&
    decide (sum Partition.stack + constPages ≤ 49152)

/-- A play names a defined partition of its own kind (R264). -/
def playPart (l : List Partition) (p : Play) : Bool :=
  match l[p.part]? with
  | some e => decide (e.kind = p.kind)
  | none => false

/-! ### Cue sheet (R396) -/

def readSheet (b : List Byte) : Sheet :=
  { cutoff := u32 b 0, perStart := u32 b 4, perLen := u32 b 8, undStart := u32 b 12, undLen := u32 b 16, compLen := u32 b 20
    publish := u32 b 24 }

def sheetOk (b : List Byte) : Bool :=
  decide (b.length = 64) && zeros b 28 64 && decide (10 ≤ u32 b 20 ∧ u32 b 20 ≤ 200)

def Sheet.perEnd (s : Sheet) : Nat := s.perStart + s.perLen
def Sheet.undEnd (s : Sheet) : Nat := s.undStart + s.undLen
/-- The comparison starts at the later end of the two safety windows (R41). -/
def Sheet.compStart (s : Sheet) : Nat := max s.perEnd s.undEnd

/-- The order condition of R43 (DEDUCED, assumption 93). -/
def Sheet.order (s : Sheet) : Bool :=
  decide (s.cutoff ≤ s.perStart) && decide (s.perStart ≤ s.undStart) &&
    decide (40 ≤ s.perStart) && decide (60 ≤ s.undStart) && decide (s.compStart + s.compLen ≤ s.publish)

/-! ### Port and sensor map (R56, R58, R397) -/

def readCam (e : List Byte) : CamPort := { lanes := u8 e 0, clock := u8 e 1, rate := u16 e 2 }

def camOk (e : List Byte) : Bool :=
  let c := readCam e
  zeros e 4 8 && decide (c.lanes ∈ [0, 1, 2, 4]) && decide (c.clock ≤ 1) &&
    (decide (c.lanes = 0) || decide (80 ≤ c.rate ∧ c.rate ≤ 4500))

def readEth (e : List Byte) : EthPort := { on := decide (u8 e 0 = 1), mac := sub e 1 6, ip := u32 e 7 }

def ethOk (e : List Byte) : Bool := decide (u8 e 0 ≤ 1) && zeros e 11 16

def f32list (b : List Byte) (i n : Nat) : List W32 := (List.range n).map fun k => BitVec.ofNat 32 (u32 b (i + 4 * k))

def readStream (m e : List Byte) : Stream :=
  { kind := u8 e 0, port := u8 e 1, vc := u8 e 2, dt := u8 e 3, ip := u32 e 4, udp := u16 e 8, required := decide (u8 e 10 = 1)
    flags := u8 e 11, period := u32 e 12, width := u16 e 16, height := u16 e 18, cropX := u16 e 20, cropY := u16 e 22
    cropW := u16 e 24, cropH := u16 e 26, bayer := u8 e 28, dpcm := u8 e 29, predictor := u8 e 30, colour := u8 e 31
    matrix := (List.range 9).map fun k => s16 e (33 + 2 * k)
    inOff := (List.range 3).map fun k => s16 e (51 + 2 * k)
    outOff := (List.range 3).map fun k => s16 e (57 + 2 * k)
    means := f32list e 64 4, scales := f32list e 80 4, boxX := u8 e 96, boxY := u8 e 97, outFmt := u8 e 98, cblock := u8 e 99
    s2d := u8 e 100, budget := u32 e 104, reasm := u32 e 108
    maxA := if u8 e 0 = 2 then u32 e 112 else u16 e 112, maxB := u16 e 114
    u1 := u32 e 116, u2 := u32 e 120, ampl := u16 e 124, tol := u16 e 126, maxRange := u32 e 128
    testLine := u8 e 132, testOff := u16 e 134, testLen := u16 e 136, testCrc := u32 e 138
    lidar := e.drop 144
    trig := f32list m (u32 e 157) (2 * u32 e 161)
    elev := f32list m (u32 e 165) (2 * u16 e 169) }

/-- Data types of R59 that start a camera stream. -/
def isRawDt (dt : Nat) : Bool := decide (0x2A ≤ dt ∧ dt ≤ 0x2E) || decide (0x30 ≤ dt ∧ dt ≤ 0x37)
def camDt (dt : Nat) : Bool := isRawDt dt || decide (dt ∈ [0x1E, 0x22, 0x24])

/-- Demosaic applies: a Bayer RAW camera with a pattern of the table (R71; PRESUMED, assumption 17). -/
def Stream.demosaics (s : Stream) : Bool := decide (s.kind = 0) && isRawDt s.dt && decide (s.bayer ≤ 3)

/-- Channels before the output stage. -/
def Stream.channels (s : Stream) : Nat :=
  if s.kind = 1 then 2
  else if s.kind = 0 ∧ isRawDt s.dt = true ∧ s.demosaics = false then 1 else 3

def Stream.outW (s : Stream) : Nat := s.cropW / max s.boxX 1 / max s.s2d 1
def Stream.outH (s : Stream) : Nat := s.cropH / max s.boxY 1 / max s.s2d 1
def Stream.outC (s : Stream) : Nat := if s.s2d = 0 then s.channels else s.channels * s.s2d * s.s2d
/-- Bytes of a slot: a channel-blocked image (R75), or the point records of a lidar slot (R67). -/
def Stream.slotBytes (s : Stream) : Nat :=
  if s.kind = 2 then 16 * s.maxA else padTo (max s.cblock 1) s.outC * s.outH * s.outW * (if s.outFmt = fInt8 then 1 else 2)

def inFrame (s : Stream) (w h : Nat) : Bool :=
  decide (1 ≤ s.cropW ∧ 1 ≤ s.cropH) && decide (s.cropX + s.cropW ≤ w) && decide (s.cropY + s.cropH ≤ h)

def evenCrop (s : Stream) : Bool := decide (s.cropX % 2 = 0 ∧ s.cropY % 2 = 0 ∧ s.cropW % 2 = 0 ∧ s.cropH % 2 = 0)

/-- Rescale, output and space-to-depth of an image stream (R74 to R76); colour mode 0 is off for every kind (DESIGN CHOICE, assumption
113). -/
def stagesOk (s : Stream) : Bool :=
  decide (s.boxX ∈ [1, 2, 4]) && decide (s.boxY ∈ [1, 2, 4]) && decide (s.cropW % s.boxX = 0) && decide (s.cropH % s.boxY = 0) &&
    decide (s.outFmt = fFp16 ∨ s.outFmt = fInt8) && decide (s.cblock = 16 ∨ s.cblock = 32) && decide (s.s2d ∈ [0, 2, 4]) &&
    decide (s.colour ≤ 4) &&
    (if s.s2d = 2 then decide (s.channels = 3 ∧ s.cblock = 16) else if s.s2d = 4 then decide (s.channels = 1 ∧ s.cblock = 16) else true) &&
    (decide (s.s2d = 0) || decide (s.cropH / s.boxY % s.s2d = 0 ∧ s.cropW / s.boxX % s.s2d = 0))

/-- The lidar field table (R65); a zero field that R397 gives no length is one byte, as every other field without one. -/
def lidarOk (s : Stream) : Bool :=
  let l := s.lidar
  decide (u16 l 0 ≤ 1024) && decide (1 ≤ u16 l 2 ∧ u16 l 2 ≤ 512) && decide (1 ≤ u8 l 4 ∧ u8 l 4 ≤ 64) && decide (u8 l 5 ≤ 2) &&
    decide (u32 l 17 ≤ 65536) && decide (u16 l 25 ≤ 128) && zeros l 12 13 && zeros l 27 29 && zeros l 157 368 &&
    (List.range 8).all fun k =>
      let d := entry (l.drop 29) 16 k
      zeros d 6 8 && zeros d 12 16 && decide (u8 d 0 = 0) || decide (u8 d 3 ∈ [8, 16, 32])

/-- DPCM scheme and predictor of a stream of a user-defined data type (R56, R59). -/
def dpcmOk (s : Stream) : Bool := decide (s.dt < 0x30) || decide (s.dpcm ≤ 5 ∧ 1 ≤ s.predictor ∧ s.predictor ≤ 2)

/-- Stream parameters within their ranges (R56, R58). -/
def streamOk (s : Stream) : Bool :=
  decide (1000 ≤ s.period ∧ s.period ≤ 1000000) && decide (s.flags < 8) &&
    (if s.kind = 0 then
       decide (s.port < 16 ∧ s.vc < 4) && camDt s.dt && decide (16 ≤ s.width ∧ s.width ≤ 4096) &&
         decide (8 ≤ s.height ∧ s.height ≤ 3072) && inFrame s s.width s.height &&
         (evenCrop s || !(s.demosaics || decide (s.dt = 0x1E))) && stagesOk s &&
         dpcmOk s && (decide (s.flags / 2 % 2 = 0) || decide (s.testLine ≤ 3 ∧ 1 ≤ s.testLen ∧ s.testLen ≤ 256))
     else if s.kind = 1 then
       decide (s.port < 16 ∧ s.vc < 4) && decide (16 ≤ s.width ∧ s.width ≤ 4096) &&
         decide (8 ≤ s.height ∧ s.height ≤ 3072) && inFrame s s.width s.height && stagesOk s && isRawDt s.dt && dpcmOk s
     else if s.kind = 2 then
       decide (s.port < 4) && decide (1 ≤ s.maxA ∧ s.maxA ≤ 262144) && decide (10 ≤ s.budget ∧ s.budget ≤ 20000) && lidarOk s
     else if s.kind = 3 then
       decide (s.port < 4) && decide (s.maxA % 8 = 0 ∧ 8 ≤ s.maxA ∧ s.maxA ≤ 2040 ∧ s.maxB % 8 = 0 ∧ 8 ≤ s.maxB ∧ s.maxB ≤ 2040) &&
         decide (10 ≤ s.budget ∧ s.budget ≤ 20000) && decide (65536 ≤ s.reasm ∧ s.reasm ≤ 4194304) &&
         inFrame s s.maxA s.maxB && stagesOk s
     else false)

def streamZeros (e : List Byte) : Bool :=
  decide (u8 e 10 ≤ 1) && zeros e 32 33 && zeros e 63 64 && zeros e 101 104 && zeros e 133 134 && zeros e 142 144

/-- The key of a stream (R55). -/
def Stream.keyOf (s : Stream) : List Nat :=
  if s.kind = 0 then [0, s.port, s.vc, s.dt] else if s.kind = 1 then [0, s.port, s.vc, 256] else [2, s.port, s.ip, s.udp]

def readStreams (m : List Byte) : List (Option Stream) :=
  (List.range 32).map fun i =>
    let e := entry (m.drop 192) 512 i
    if u8 e 0 = 0xFF ∨ e = [] then none else some (readStream m e)

/-- A ToF stream's phase frames per sample. -/
def Stream.phases (s : Stream) : Nat := if s.flags % 2 = 1 then 8 else 4

/-- Ports a stream comes in on, numbered as PORT_STATE numbers them. -/
def Stream.portIdx (s : Stream) : Nat := if s.kind ≤ 1 then s.port else 16 + s.port
def Stream.unit (c : Stream) : UnitId := .port (Fin.ofNat 20 c.portIdx)
/-- The ingest cluster of a stream. -/
def Stream.cluster (s : Stream) : Nat := if s.kind ≤ 1 then s.port / 4 else s.port

/-- The streams of a cluster sum to at most 5.76 Gpixel/s (R57): each rate is area × 10^6 / period, and all are brought to the product of
the periods. -/
def clusterOk (l : List Stream) (k : Nat) : Bool :=
  let mine := l.filter fun s => s.cluster = k ∧ s.kind ≠ 2
  let all := (mine.map Stream.period).prod
  let rate := fun (s : Stream) => s.cropW * s.cropH * (if s.kind = 1 then s.phases else 1) * 1000000 * (all / max s.period 1)
  decide ((mine.map rate).sum ≤ 5760000000 * all)

/-- The JPEG engines' budgets per Lmin (R57); a stream's samples per Lmin are rounded up (DESIGN CHOICE, assumption 108). -/
def jpegLoadOk (l : List Stream) (lm : Nat) : Bool :=
  decide (((l.filter fun s => s.kind = 3).map fun s => s.budget * ((lm + s.period - 1) / s.period)).sum ≤ 4 * lm)

/-- The whole port and sensor map; a stream on a port that is switched off refuses it (DESIGN CHOICE, assumption 107). -/
def mapOk (m : List Byte) (lm : Nat) : Bool :=
  let ss := (readStreams m).filterMap id
  decide (16576 ≤ m.length) && (List.range 16).all (fun i => camOk (entry m 8 i)) &&
    (List.range 4).all (fun i => ethOk (entry (m.drop 128) 16 i)) &&
    (List.range 32).all (fun i => decide (u8 m (192 + 512 * i) = 0xFF) || streamZeros (entry (m.drop 192) 512 i)) &&
    ss.all streamOk && noDup (ss.map Stream.keyOf) && (List.range 4).all (clusterOk ss) && jpegLoadOk ss lm &&
    ss.all fun s => if s.kind ≤ 1 then decide (u8 m (8 * s.port) ≠ 0) else decide (u8 m (128 + 16 * s.port) = 1)

/-! ### Understudy ingress (R399) -/

def readIngress (e : List Byte) : Ingress :=
  { read := decide (u8 e 0 = 1), channels := u8 e 1
    pairs := (List.range 16).map fun c => (BitVec.ofNat 32 (u32 e (8 + 8 * c)), BitVec.ofNat 32 (u32 e (12 + 8 * c))) }

def ingressOk (b : List Byte) (streams : List (Option Stream)) : Bool :=
  decide (b.length = 4352) &&
    (List.range 32).all fun i =>
      let e := entry b 136 i
      let g := readIngress e
      decide (u8 e 0 ≤ 1) && zeros e 2 8 && zeros e (8 + 8 * g.channels) 136 &&
        match g.read, streams.getD i none with
        | false, _ => decide (g.channels = 0)
        | true, none => false
        | true, some s => decide (g.channels = if s.kind = 2 then 8 else s.outC) && decide (g.channels ≤ 16)

/-! ### Safety rules (R326 to R331) -/

def readRule (e : List Byte) : Rule :=
  { op := u8 e 0, zone := u8 e 1, main := u8 e 2, under := u8 e 3, f := u8 e 4, n := u16 e 6
    a := BitVec.ofNat 16 (u16 e 8), b := BitVec.ofNat 16 (u16 e 10) }

def readOperand (e : List Byte) : RuleOperand := { chan := u8 e 0, play := u8 e 1, tensor := u32 e 4 }

def readRules (b : List Byte) : Rules :=
  let no := u8 b 2
  let nr := u8 b 3
  let gy := u16 b 6
  let gx := u16 b 8
  let zlen := padTo 8 ((gy * gx + 7) / 8)
  { test := decide (u8 b 5 % 2 = 1), gy := gy, gx := gx
    operands := (List.range no).map fun i => readOperand (entry (b.drop 16) 8 i)
    rules := (List.range nr).map fun i => readRule (entry (b.drop (16 + 8 * no)) 16 i)
    zones := (List.range (u8 b 4)).map fun i => entry (b.drop (16 + 8 * no + 16 * nr)) zlen i }

def rulesHeaderOk (b : List Byte) : Bool :=
  decide (u16 b 0 = 1) && decide (1 ≤ u8 b 2 ∧ u8 b 2 ≤ 32) && decide (1 ≤ u8 b 3 ∧ u8 b 3 ≤ 64) && decide (u8 b 4 ≤ 8) &&
    decide (u8 b 5 ≤ 1) && decide (1 ≤ u16 b 6 ∧ u16 b 6 ≤ 1024 ∧ 1 ≤ u16 b 8 ∧ u16 b 8 ≤ 1024) && zeros b 10 16 &&
    decide (16 + 8 * u8 b 2 + 16 * u8 b 3 + u8 b 4 * padTo 8 ((u16 b 6 * u16 b 8 + 7) / 8) ≤ b.length)

/-! ### Copy containers (R149 to R160) -/

def readTensor (e : List Byte) : Tensor :=
  let rank := u8 e 2
  { format := u8 e 0, kind := u8 e 1, rank := rank, layout := u8 e 3 % 4, safety := decide (u8 e 3 / 4 % 2 = 1)
    dims := (List.range (min rank 6)).map fun i => u32 e (8 + 4 * i), source := u16 e 32, offset := u64 e 40, length := u64 e 48
    name := u32 e 4
    zeros := decide (u8 e 3 < 8) && zeros e 34 40 && zeros e 56 64 &&
      zeros e (8 + 4 * min rank 6) 32 }

def prod (l : List Nat) : Nat := l.foldl (· * ·) 1

/-- Bytes of a tensor's stored image (R75, R126, R127, R152). -/
def Tensor.size (t : Tensor) : Nat :=
  let n := prod t.dims
  if t.format = fT64 then n / 64 * 14
  else if isMx t.format then padTo 64 (n * elemWidth t.format / 8) + n / 32
  else if t.layout = 0 then (n * elemWidth t.format + 7) / 8
  else
    match t.dims with
    | [c, h, w] => (padTo (if t.layout = 1 then 16 else 32) c * h * w * elemWidth t.format + 7) / 8
    | _ => 0

/-- A tensor entry within R151 to R153; `wlen` gives a weight section's length. -/
def tensorOk (wlen : Nat → Option Nat) (t : Tensor) : Bool :=
  t.zeros && decide (t.format ≤ 11) && decide (t.kind ≤ 6) && decide (t.rank ≤ 6) && decide (t.layout ≤ 2) &&
    t.dims.all (fun d => decide (1 ≤ d ∧ d ≤ 2 ^ 24)) && (decide (t.layout = 0) || decide (t.rank = 3)) &&
    (!isMx t.format || decide (t.dims.getLastD 0 % 32 = 0 ∧ t.rank ≠ 0)) &&
    (!decide (t.format = fT64) || decide (t.dims.getLastD 0 % 64 = 0 ∧ t.rank ≠ 0)) &&
    (if t.kind = 3 then
       match wlen t.source with
       | none => false
       | some n => decide (t.offset % 64 = 0 ∧ t.length = t.size ∧ t.offset + t.length ≤ n)
     else decide (t.offset = 0 ∧ t.length = 0) && (decide (t.kind = 4 ∨ t.kind = 6) || decide (t.source = 0)))

/-- A batch tensor's view; one of the understudy play views the ingress output of a slot, in FP16 (R154, R320). -/
def batchOk (kind : Nat) (streams : List (Option Stream)) (t : Tensor) : Bool :=
  if t.kind ≠ 4 then true
  else if t.source = 0xFFFF then decide (kind ≠ 1 ∧ t.format = fInt8 ∧ t.dims = [1088])
  else
    match streams.getD t.source none with
    | none => false
    | some s =>
      if s.kind = 2 then decide (t.format = fFp16 ∧ t.dims = [s.maxA, 8])
      else decide ((t.format = if kind = 1 then fFp16 else s.outFmt) ∧ t.dims = [s.outC, s.outH, s.outW] ∧
        t.layout = if s.cblock = 16 then 1 else 2)

/-- An attribute's allowed type and range by key (R158). -/
def attrOk (a : Attr) : Bool :=
  let one := fun (p : Nat → Bool) => a.vals.length = 1 && a.vals.all p
  let all := fun (p : Nat → Bool) => a.vals.all p
  let rng := fun (lo hi : Nat) => fun x => decide (lo ≤ x ∧ x ≤ hi)
  match a.key with
  | 0x0001 => a.typ = 1 && one fun x => decide (x ≤ 11 ∨ x = 15)
  | 0x0002 => a.typ = 1 && one fun _ => true
  | 0x0003 => a.typ = 1 && one fun _ => true
  | 0x0004 => a.typ = 1 && one (rng 0 1)
  | 0x0010 => a.typ = 1 && one (rng 0 5)
  | 0x0011 => a.typ = 1 && all (rng 0 5)
  | 0x0020 => a.typ = 1 && all (rng 1 16)
  | 0x0021 => a.typ = 1 && all (rng 1 65535)
  | 0x0022 => a.typ = 1 && all (rng 0 65535)
  | 0x0023 => a.typ = 1 && one fun x => decide (1 ≤ x)
  | 0x0024 => a.typ = 1 && all fun x => decide (1 ≤ x)
  | 0x0025 => a.typ = 1 && all (rng 1 15)
  | 0x0026 => a.typ = 1 && all (rng 0 (2 ^ 24))
  | 0x0030 => a.typ = 2 && one fun _ => true
  | 0x0031 => a.typ = 1 && one fun _ => true
  | 0x0032 => a.typ = 2 && one fun x => decide (x ≤ 0x7F800000 ∨ x = 0x80000000)
  | 0x0033 => a.typ = 2 && one fun x => decide (x ≤ 0x3F800000 ∨ x = 0x80000000)
  | 0x0034 => a.typ = 1 && one (rng 0 1)
  | 0x0035 => a.typ = 1 && one (rng 0 3)
  | 0x0036 => a.typ = 2 && all fun _ => true
  | 0x0040 => a.typ = 1 && one (rng 1 4)
  | _ => false

/-- Attribute records laid back to back; none when they break R158. -/
def readAttrs : Nat → List Byte → Option (List Attr)
  | 0, bs => if bs = [] then some [] else none
  | fuel + 1, bs =>
    if bs = [] then some []
    else
      let n := u32 bs 4
      let len := 8 + 8 * n
      if bs.length < len ∨ u8 bs 3 ≠ 0 ∨ n = 0 ∨ 4096 < n then none
      else
        let a : Attr := { key := u16 bs 0, typ := u8 bs 2, vals := (List.range n).map fun i => u64 bs (8 + 8 * i) }
        let hiZero := a.typ ≠ 2 || a.vals.all fun v => decide (v < 2 ^ 32)
        if hiZero then (readAttrs fuel (bs.drop len)).map fun l => a :: l else none

/-- The catalogue of R165: code, least and greatest input count, output counts, U, keys taken beside OUT_FMT and keys required. -/
structure OpRow where
  code : Nat
  minIn : Nat
  maxIn : Nat
  outs : List Nat
  u : Bool
  keys : List Nat
  req : List Nat
deriving DecidableEq, Repr

def catalogueA : List OpRow :=
  [⟨0x0101, 2, 3, [1], true, [2, 3, 4], []⟩, ⟨0x0102, 2, 3, [1], true, [2, 3, 4], []⟩,
   ⟨0x0110, 2, 3, [1], true, [2, 3, 4, 0x20, 0x21, 0x22, 0x23], []⟩, ⟨0x0111, 2, 3, [1], true, [2, 3, 0x20, 0x21, 0x22], []⟩,
   ⟨0x0112, 2, 3, [1], false, [2, 3, 4, 0x20, 0x21, 0x22, 0x23, 0x24], [0x24]⟩,
   ⟨0x0120, 1, 1, [1], true, [0x35, 0x25, 0x20, 0x22], [0x25]⟩, ⟨0x0121, 1, 1, [1], true, [0x35, 0x24], [0x24]⟩,
   ⟨0x0122, 3, 3, [1], false, [0x24], [0x24]⟩, ⟨0x0123, 2, 3, [1], true, [0x35, 0x36, 0x24], [0x36, 0x24]⟩,
   ⟨0x0124, 2, 2, [1], true, [0x35], []⟩, ⟨0x0125, 1, 1, [1], false, [0x40], [0x40]⟩,
   ⟨0x0126, 1, 1, [1], false, [0x40], [0x40]⟩]
def catalogueB : List OpRow :=
  [⟨0x0301, 2, 2, [1], true, [0x35], []⟩, ⟨0x0302, 2, 2, [1], true, [0x35], []⟩, ⟨0x0303, 3, 3, [1], true, [], []⟩,
   ⟨0x0304, 1, 1, [1], true, [0x35, 0x36], []⟩, ⟨0x0305, 1, 1, [1], true, [0x35], []⟩, ⟨0x0306, 1, 1, [1], true, [], []⟩,
   ⟨0x0307, 1, 1, [1], true, [], []⟩, ⟨0x0308, 1, 1, [1], true, [], []⟩, ⟨0x0309, 1, 1, [1], true, [], []⟩,
   ⟨0x030A, 2, 2, [1], true, [0x35], []⟩, ⟨0x030B, 3, 3, [1], true, [], []⟩,
   ⟨0x0401, 1, 1, [1], true, [0x35, 0x11], [0x11]⟩, ⟨0x0402, 1, 1, [1], true, [0x11], [0x11]⟩,
   ⟨0x0403, 3, 3, [1], true, [0x11, 0x30], [0x11, 0x30]⟩, ⟨0x0404, 2, 2, [1], true, [0x11, 0x30], [0x11, 0x30]⟩]
def catalogueC : List OpRow :=
  [⟨0x0501, 1, 1, [1], true, [], []⟩, ⟨0x0502, 1, 1, [1], true, [0x11], [0x11]⟩,
   ⟨0x0503, 1, 16, [1], true, [0x35, 0x10, 0x11, 0x26], []⟩, ⟨0x0504, 2, 2, [1], true, [0x10], []⟩,
   ⟨0x0505, 3, 3, [1], false, [0x10, 0x35], []⟩, ⟨0x0506, 2, 2, [1], false, [], []⟩, ⟨0x0801, 1, 1, [1], true, [], []⟩,
   ⟨0x0601, 6, 6, [1], false, [0x36, 0x35], [0x36]⟩, ⟨0x0602, 3, 3, [1], false, [], []⟩, ⟨0x0701, 1, 1, [2], false, [0x31, 0x34], [0x31]⟩,
   ⟨0x0702, 1, 1, [2], false, [0x34], []⟩, ⟨0x0703, 2, 3, [2], false, [0x31, 0x33], [0x31, 0x33]⟩,
   ⟨0x0704, 1, 1, [2], false, [0x31], [0x31]⟩, ⟨0x0705, 2, 2, [3], false, [], []⟩, ⟨0x0706, 3, 3, [1], false, [], []⟩,
   ⟨0x0707, 3, 3, [2], false, [0x32, 0x31], [0x32]⟩]
def catalogue : List OpRow := catalogueA ++ catalogueB ++ catalogueC

/-- A node within R156 to R159 and R165, given the tensors, those that some node writes and those written before it. Only an input that
the operator can do without is absent, and never one of a CONCAT. -/
def nodeOk (kind : Nat) (ts : List Tensor) (all written : List Nat) (n : Node) : Bool :=
  match catalogue.find? fun r => r.code = n.op with
  | none => false
  | some r =>
    let ins := n.ins.filter fun i => i ≠ 0xFFFFFFFF
    n.ok && decide (r.minIn ≤ n.ins.length ∧ n.ins.length ≤ r.maxIn) && decide (n.outs.length ∈ r.outs) &&
      (r.u || decide (kind ≠ 1)) && noDup (n.attrs.map Attr.key) &&
      n.attrs.all (fun a => attrOk a && decide (a.key = 1 ∨ a.key ∈ r.keys)) &&
      r.req.all (fun k => n.attrs.any fun a => a.key = k) &&
      ins.all (fun i => match ts[i]? with
        | none => false
        | some t => decide (i ∈ written ∨ (t.kind ≠ 0 ∧ (t.kind ≠ 2 ∨ i ∉ all))) && (decide (kind ≥ 2) || decide (t.kind ≠ 1 ∧ t.kind ≠ 6))) &&
      (List.range n.ins.length).all (fun k => decide (n.ins[k]? ≠ some 0xFFFFFFFF ∨ (r.minIn ≤ k ∧ n.op ≠ 0x0503))) &&
      n.outs.all (fun i => match ts[i]? with
        | none => false
        | some t => decide (t.kind = 0 ∨ t.kind = 2 ∨ t.kind = 5) && decide (i ∉ ins) && decide (i ∉ written)) &&
      noDup n.outs &&
      (decide (n.op / 256 ≠ 1 ∨ n.op > 0x0112) ||
        (match n.ins[1]?.bind fun i => ts[i]? with
         | some t => decide (t.kind ≠ 3) || n.attrs.all fun a => decide (a.key ≠ 3)
         | none => false))

/-- Nodes in order, each written tensor joining the ones after it. -/
def nodesOk (kind : Nat) (ts : List Tensor) (all : List Nat) : List Node → List Nat → Bool
  | [], _ => true
  | n :: ns, w => nodeOk kind ts all w n && nodesOk kind ts all ns (n.outs ++ w)

def readNode (pool e : List Byte) : Node :=
  let ni := u8 e 2
  let no := u8 e 3
  let lst := u32 e 4
  let ats := sub pool (u32 e 8) (u32 e 12)
  let at_ := readAttrs 64 ats
  { op := u16 e 0
    ins := (List.range ni).map fun i => u32 pool (lst + 4 * i)
    outs := (List.range no).map fun i => u32 pool (lst + 4 * (ni + i))
    attrs := at_.getD [], hint := u16 e 16, name := u16 e 18
    ok := at_.isSome && zeros e 20 32 && decide (lst + 4 * (ni + no) ≤ pool.length) &&
      decide (u32 e 8 + u32 e 12 ≤ pool.length) }

def readHint (e : List Byte) : Hint :=
  { first := u32 e 0, last := u32 e 4, cap := u32 e 8, noSplit := decide (u8 e 12 = 1)
    ok := decide (u8 e 12 ≤ 1) && zeros e 13 16 }

/-- Hints and the nodes' hint groups agree (R160). -/
def hintsOk (hs : List Hint) (ns : List Node) : Bool :=
  (List.range hs.length).all (fun k => match hs[k]? with
    | some h => h.ok && decide (h.first ≤ h.last ∧ h.last < ns.length ∧ 1 ≤ h.cap ∧ h.cap ≤ 2000) &&
        (List.range ns.length).all fun i =>
          decide ((h.first ≤ i ∧ i ≤ h.last) ↔ (ns[i]?.map Node.hint) = some k)
    | none => false) && ns.all fun n => decide (n.hint = 0xFFFF ∨ n.hint < hs.length)

/-- Two byte ranges do not overlap. -/
def apart (a b : Nat × Nat) : Bool := decide (a.2 = 0 ∨ b.2 = 0 ∨ a.1 + a.2 ≤ b.1 ∨ b.1 + b.2 ≤ a.1)

/-- The tables of a container by the header: tensors, nodes, pool, strings, hints. -/
def copyTables (c : List Byte) : List (Nat × Nat) :=
  [(u32 c 20, 64 * u32 c 12), (u32 c 24, 32 * u32 c 16), (u32 c 28, u32 c 32), (u32 c 36, u32 c 40), (u32 c 44, 16 * u16 c 48)]

def pairwise (p : (Nat × Nat) → (Nat × Nat) → Bool) : List (Nat × Nat) → Bool
  | [] => true
  | x :: r => r.all (p x) && pairwise p r

/-- The container's header, table places and CRC (R149, R150). -/
def copyHeaderOk (c : List Byte) : Bool :=
  decide (c.take 4 = bytesOf [0x43, 0x4F, 0x50, 0x59]) && decide (u16 c 4 = 1 ∧ u16 c 6 = 64) && decide (u8 c 8 ≤ 3) &&
    decide (u8 c 9 ≤ 7) && decide (u16 c 10 ≤ 1) && (decide (u16 c 10 = 0) || decide (u8 c 8 = 2)) &&
    decide (1 ≤ u32 c 12 ∧ u32 c 12 ≤ 65536 ∧ 1 ≤ u32 c 16 ∧ u32 c 16 ≤ 65536) && decide (u32 c 32 ≤ 2 ^ 24) &&
    decide (u32 c 40 ≤ 2 ^ 20) && decide (u16 c 48 ≤ 4096) && (decide (u16 c 48 ≠ 0) || decide (u32 c 44 = 0)) && zeros c 50 56 &&
    decide (u32 c 56 = c.length) && decide (u32 c 60 = (crc32 (c.take 60 ++ [0, 0, 0, 0] ++ c.drop 64)).toNat) &&
    (copyTables c).all (fun t => decide (t.1 % 8 = 0 ∧ (t.2 = 0 ∨ (64 ≤ t.1 ∧ t.1 + t.2 ≤ c.length)))) &&
    pairwise apart (copyTables c)

/-- A container read as play `idx`, before the imposer's figures. -/
def readPlay (idx : Nat) (c : List Byte) : Play :=
  let pool := sub c (u32 c 28) (u32 c 32)
  { index := idx, kind := u8 c 8, part := u8 c 9, perSession := decide (u16 c 10 % 2 = 1)
    tensors := (List.range (u32 c 12)).map fun i => readTensor (entry (c.drop (u32 c 20)) 64 i)
    nodes := (List.range (u32 c 16)).map fun i => readNode pool (entry (c.drop (u32 c 24)) 32 i)
    hints := (List.range (u16 c 48)).map fun i => readHint (entry (c.drop (u32 c 44)) 16 i)
    low := { scenes := [], plans := [], leafNeed := 0, stepNeed := 0, lowerable := false } }

/-- UTF-8 from a byte on; the state is how many bytes of a character are still to come and the range of the next of them. -/
def utf8From : Nat × Nat × Nat → List Byte → Bool
  | (n, _, _), [] => decide (n = 0)
  | (n + 1, lo, hi), b :: bs => decide (lo ≤ b.toNat ∧ b.toNat ≤ hi) && utf8From (n, 0x80, 0xBF) bs
  | (0, _, _), b :: bs =>
    let x := b.toNat
    if x < 0x80 then utf8From (0, 0, 0) bs
    else if 0xC2 ≤ x ∧ x < 0xE0 then utf8From (1, 0x80, 0xBF) bs
    else if 0xE0 ≤ x ∧ x < 0xF0 then utf8From (2, if x = 0xE0 then 0xA0 else 0x80, if x = 0xED then 0x9F else 0xBF) bs
    else if 0xF0 ≤ x ∧ x < 0xF5 then utf8From (3, if x = 0xF0 then 0x90 else 0x80, if x = 0xF4 then 0x8F else 0xBF) bs
    else false

/-- The string table. -/
def stringTable (c : List Byte) : List Byte := sub c (u32 c 36) (u32 c 40)

/-- The string table holds UTF-8 strings, each ended by a zero byte (R150). -/
def stringsOk (c : List Byte) : Bool := utf8From (0, 0, 0) (stringTable c) && decide ((stringTable c).getLastD 0 = 0)

/-- String references of R150: inside the string table; a node's names the first byte of a string at a multiple of 8 below 524,280, by its
field. -/
def namesOk (c : List Byte) (p : Play) : Bool :=
  p.tensors.all (fun t => decide (t.name < u32 c 40)) &&
    p.nodes.all fun n => decide (n.name = 0xFFFF) ||
      (decide (8 * n.name < u32 c 40) && decide (n.name = 0 ∨ (stringTable c).getD (8 * n.name - 1) 0 = 0))

/-- A tensor is a node's index or count input, which is INT32 (R163, R165, R189). -/
def indexInput (n : Node) (i : Nat) : Bool :=
  (decide (n.op = 0x0504 ∨ n.op = 0x0124) && decide (n.ins[1]? = some i)) || (decide (n.op = 0x0123) && decide (n.ins[2]? = some i))

/-- Tensors of a play that a node writes. -/
def Play.written (p : Play) : List Nat := p.nodes.flatMap Node.outs

/-- Who writes a tensor by its kind: one node writes each intermediate and each state tensor, and the host writes inputs of cognition plays
alone (R151) (DEDUCED, assumption 118). -/
def writersOk (p : Play) : Bool :=
  (List.range p.tensors.length).all fun i => match p.tensors[i]? with
    | some t => decide ((t.kind ≠ 0 ∧ t.kind ≠ 5) ∨ i ∈ p.written) && decide (t.kind ≠ 1 ∨ p.kind = 2)
    | none => true

/-- A tensor's format is one that the understudy play may use: FP16 or FP32, INT32 for an index or count, INT8 for the result of a COMPARE,
and INT8 or INT16 for a safety output, whose shapes R327 gives (R163, R165, R189) (DEDUCED, assumption 119). -/
def underFormat (p : Play) (i : Nat) (t : Tensor) : Bool :=
  decide (t.format = fFp16 ∨ t.format = fFp32) || (decide (t.format = fInt32) && p.nodes.any fun n => indexInput n i) ||
    (decide (t.format = fInt8) && p.nodes.any fun n => decide (n.op = 0x030A ∧ i ∈ n.outs)) ||
    (decide (t.format = fInt8 ∨ t.format = fInt16) && decide (t.kind = 2) && t.safety)

/-- One play within the rules the container's bytes decide (R149 to R160, R165, R170). -/
def playOk (wlen : Nat → Option Nat) (streams : List (Option Stream)) (c : List Byte) (p : Play) : Bool :=
  copyHeaderOk c && p.tensors.all (tensorOk wlen) && p.tensors.all (batchOk p.kind streams) && nodesOk p.kind p.tensors p.written p.nodes [] &&
    writersOk p && hintsOk p.hints p.nodes && stringsOk c && namesOk c p &&
    (decide (p.kind ≠ 1) || (List.range p.tensors.length).all fun i => match p.tensors[i]? with
      | some t => underFormat p i t
      | none => true)

/-- The rules of "Links between plays" (R281). -/
def linksOk (parts : List Partition) (plays : List Play) (ls : List Link) : Bool :=
  let play := fun i => plays.find? fun p => p.index = i
  noDup (ls.map fun l => (l.consumer, l.ctensor)) &&
    ls.all (fun l => match play l.producer, play l.consumer with
      | some p, some c =>
        match p.tensors[l.ptensor]?, c.tensors[l.ctensor]? with
        | some a, some b =>
          decide (a.kind = 2 ∧ b.kind = 2 ∧ l.ctensor ∉ c.written ∧ a.format = b.format ∧ a.layout = b.layout ∧ a.dims = b.dims) &&
            (decide (2 ≤ c.kind) || decide (p.part = c.part))
        | _, _ => false
      | _, _ => false) &&
    plays.all (fun c => (List.range c.tensors.length).all fun i => match c.tensors[i]? with
      | some t => decide (t.kind ≠ 2 ∨ i ∈ c.written) || ls.any fun l => decide (l.consumer = c.index ∧ l.ctensor = i)
      | none => true) && decide (parts.length = 8)

/-! ### Safety rule checks (R330) -/

/-- What a rule operand's tensor is. -/
inductive OperandShape where
  | grid (fp16 : Bool) (gy gx : Nat)
  | lst (n : Nat)
  | flag
deriving DecidableEq, Repr

def shapeOf (t : Tensor) : Option OperandShape :=
  match t.dims with
  | [gy, gx] =>
    if (t.format = fFp16 ∨ t.format = fInt8) ∧ 1 ≤ gy ∧ gy ≤ 1024 ∧ 1 ≤ gx ∧ gx ≤ 1024 then some (.grid (decide (t.format = fFp16)) gy gx)
    else if t.format = fInt16 ∧ gx = 8 ∧ 1 ≤ gy ∧ gy ≤ 1024 then some (.lst gy)
    else none
  | [1] => if t.format = fInt8 then some .flag else none
  | _ => none

/-- The shape of an operand that keeps R327. -/
def operandShape (plays : List Play) (o : RuleOperand) : Option OperandShape :=
  match plays.find? fun p => p.index = o.play with
  | none => none
  | some p =>
    if p.kind ≠ o.chan ∨ 1 < o.chan then none
    else
      match p.tensors[o.tensor]? with
      | none => none
      | some t => if t.kind = 2 ∧ t.safety then shapeOf t else none

/-- Fields, shapes and map factor of one rule (R329, reason 3). -/
def ruleOk (plays : List Play) (r : Rules) (zc : Nat) (e : List Byte) : Bool :=
  let u := readRule e
  let opd := fun i (c : Nat) => (r.operands[i]?).bind fun o => if o.chan = c then operandShape plays o else none
  let fOk := decide (u.f = 1 ∨ u.f = 2 ∨ u.f = 4)
  zeros e 5 6 && zeros e 12 16 && decide (u.zone = 0xFF ∨ u.zone < zc) && fOk &&
    (if u.op = 1 ∨ u.op = 2 then
       match opd u.main 0, opd u.under 1 with
       | some (.grid _ gy gx), some (.grid _ vy vx) => decide (vy * u.f = gy ∧ vx * u.f = gx)
       | _, _ => false
     else if u.op = 3 then
       match opd u.main 0, opd u.under 1 with
       | some (.lst _), some (.lst _) => decide (r.gy % u.f = 0 ∧ r.gx % u.f = 0)
       | _, _ => false
     else if u.op = 4 then
       match opd u.main 0, opd u.under 1 with
       | some (.grid _ gy gx), some (.lst _) => decide (gy % u.f = 0 ∧ gx % u.f = 0)
       | _, _ => false
     else if u.op = 5 ∨ u.op = 6 then
       decide (u.main = 0xFF ∨ u.under = 0xFF) &&
         (match if u.main = 0xFF then opd u.under 1 else opd u.main 0 with
          | some (.grid _ _ _) => decide (u.op = 5)
          | some .flag => decide (u.op = 6)
          | _ => false)
     else false)

/-- Zone dims equal the main grid's (reason 4). -/
def zoneOk (plays : List Play) (r : Rules) (u : Rule) : Bool :=
  if u.zone = 0xFF then true
  else
    match (r.operands[u.main]?).bind (operandShape plays) with
    | some (.grid _ gy gx) => decide (gy = r.gy ∧ gx = r.gx)
    | _ => true

def shapeBytes : OperandShape → Nat
  | .grid fp gy gx => gy * gx * (if fp then 2 else 1)
  | .lst n => 16 * n
  | .flag => 1

def shapeCells : Option OperandShape → Nat
  | some (.grid _ gy gx) => gy * gx
  | some (.lst n) => n
  | _ => 0

/-- C of R331, in comparator cycles. -/
def compCycles (plays : List Play) (r : Rules) : Nat :=
  let side := fun c => ((r.operands.filter fun o => o.chan = c).map fun o =>
    ((operandShape plays o).map fun s => padTo 64 (shapeBytes s)).getD 0).sum
  let sh := fun i => (r.operands[i]?).bind (operandShape plays)
  let cd := fun a b => (a + b - 1) / b
  let work := fun (u : Rule) =>
    if u.op = 1 ∨ u.op = 2 then cd (shapeCells (sh u.main)) 256
    else if u.op = 3 then cd (shapeCells (sh u.main)) 16 + cd (shapeCells (sh u.under)) 16
    else if u.op = 4 then cd (shapeCells (sh u.under)) 16
    else if u.op = 5 then cd (shapeCells (sh (if u.main = 0xFF then u.under else u.main))) 256
    else 1
  200 + max (cd (side 0) 256) (cd (side 1) 256) + (r.rules.map fun u => 16 + work u).sum

/-- The bits of every zone mask beyond its grid are zero (R326, R328). -/
def zonePadOk (r : Rules) : Bool :=
  r.zones.all fun z => (List.range (8 * z.length)).all fun k => decide (k < r.gy * r.gx) || !(z.getD (k / 8) 0).getLsbD (k % 8)

/-- The first reason of R330 for which the rules section is refused. -/
def rulesReason (plays : List Play) (b : List Byte) (compLen : Nat) : Option Nat :=
  let r := readRules b
  let zc := u8 b 4
  if !rulesHeaderOk b || !zonePadOk r then some 1
  else if !((List.range (u8 b 2)).all fun i => zeros (entry (b.drop 16) 8 i) 2 4) ||
      !(r.operands.all fun o => (operandShape plays o).isSome) then some 2
  else if !((List.range (u8 b 3)).all fun i => ruleOk plays r zc (entry (b.drop (16 + 8 * u8 b 2)) 16 i)) then some 3
  else if !(r.rules.all (zoneOk plays r)) then some 4
  else if compLen < (105 * compCycles plays r + 9499) / 9500 then some 5
  else none

end Sys2Proof.Machine
end

