-- ==== Sys2Proof/Machine/Kill.lean ====
section
/-! DEFINITION. Charges, kills, abandonment and strikes: what ends a run or takes a unit out of service
(R287 to R291, R302, R303, R359 to R362). -/

namespace Sys2Proof.Machine

/-! ### Charges and accounts -/

/-- IDENT_GRADE.F_ARITH in MHz (R15). -/
def Ident.mhz (i : Ident) : Nat :=
  match i.grade with
  | .s => 200
  | .l => 170

def Acct.zero (client : Nat) : Acct := { client := client, cyc := 0, bytes := 0, pj := 0, ovfC := false, ovfB := false, ovfE := false }

def State.acct (s : State) (client : Nat) : Acct := (s.accts.find? fun a => a.client = client).getD (Acct.zero client)

def State.putAcct (a : Acct) (s : State) : State := { s with accts := a :: s.accts.filter fun b => b.client != a.client }

/-- Charge one client; an account that saturates sets its overflow bit and logs 0x0505 once (R291). -/
def charge (client cyc bytes pj : Nat) (s : State) : State :=
  let a := s.acct client
  let c := sat64 a.cyc cyc
  let b := sat64 a.bytes bytes
  let oE := decide (2 ^ 64 * 1000 ≤ a.pj + pj)
  let a' := { a with
    cyc := c.1, bytes := b.1, pj := min (a.pj + pj) (2 ^ 64 * 1000 - 1)
    ovfC := a.ovfC || c.2, ovfB := a.ovfB || b.2, ovfE := a.ovfE || oE }
  let s := s.putAcct a'
  let s := if c.2 && !a.ovfC then logEvent 0x0505 idImposer 0 s else s
  let s := if b.2 && !a.ovfB then logEvent 0x0505 idImposer 1 s else s
  if oE && !a.ovfE then logEvent 0x0505 idImposer 2 s else s

/-- Tokens of a step's surviving rows and of all its rows (R212, R289). -/
def Step.total (st : Step) : Nat := (st.rows.map Row.count).sum

/-- Divide a charge among a step's rows: ⌊c × count / T⌋ each, dropped rows and the rest to the play's client (R289). -/
def chargeRows (play total cyc bytes pj : Nat) : List Row → Nat × Nat × Nat → State → State
  | [], (rc, rb, re), s => charge (1024 + play) (cyc - rc) (bytes - rb) (pj - re) s
  | r :: rs, (rc, rb, re), s =>
    if r.dropped ∨ total = 0 then chargeRows play total cyc bytes pj rs (rc, rb, re) s
    else
      let c := cyc * r.count / total
      let b := bytes * r.count / total
      let e := pj * r.count / total
      chargeRows play total cyc bytes pj rs (rc + c, rb + b, re + e) (charge r.slot c b e s)

/-- The energy model of R288, in pJ. -/
def Tally.pj (t : Tally) (cyc : Nat) : Nat :=
  110 * t.slices + 350 * t.vecOps + 40 * t.comp + 160 * t.galley + 470 * t.stack + 2500 * cyc

/-- Presses of a run. -/
def Inst.presses (i : Inst) : List (Fin 16) := i.units.filterMap fun u =>
  match u with
  | .press p => some p
  | _ => none

/-- Arithmetic cycles from a run's start to now (R287). -/
def runCycles (s : State) (i : Inst) : Nat := (s.now - i.at_) * s.ident.mhz / 400

/-- Enter a run's charges at its commit or kill (R289, R297): accounts, PART_CYCLES' sum, press caps (R265) and the
governor's use (R462). A classification repeat and a rehearsal charge no client beyond the play's own. -/
def chargeRun (i : Inst) (s : State) : State :=
  let ps := i.presses
  let cyc := runCycles s i
  let tot := cyc * ps.length
  let bytes := 64 * ((ps.map fun p => (s.press.get p).tally.fabric).sum + i.coreBlocks)
  let pj := (ps.map fun p => (s.press.get p).tally.pj cyc).sum + 160 * i.coreBlocks
  let s := s.modPart i.part fun r => { r with
    curCycles := r.curCycles + tot
    capUsed := ps.foldl (fun l p => (p, ((l.find? fun e => e.1 = p).map Prod.snd).getD 0 + cyc) :: l.filter fun e => e.1 != p) r.capUsed }
  let s := { s with gov := { s.gov with
    usedCycles := (i.part, ((s.gov.usedCycles.find? fun e => e.1 = i.part).map Prod.snd).getD 0 + tot) ::
      s.gov.usedCycles.filter fun e => e.1 != i.part } }
  match if i.kind = 2 then s.cog.steps.find? (fun st => st.play = i.key.play ∧ st.no = i.key.run) else none with
  | some st => chargeRows i.key.play st.total tot bytes pj st.rows (0, 0, 0) s
  | none => charge (1024 + i.key.play) tot bytes pj s

/-! ### Instances -/

/-- The kind number of the XFER scenes that move leaves (R250). -/
def kindMove : Nat := 4

def State.inst? (s : State) (k : InstKey) : Option Inst := s.sched.insts.find? fun i => i.key = k

def State.modInst (k : InstKey) (f : Inst → Inst) (s : State) : State :=
  { s with sched := { s.sched with insts := lmod (fun i => i.key = k) f s.sched.insts } }

/-- First press or core of a run, or the stage manager (R316). -/
def Inst.firstId (i : Inst) : Byte :=
  match i.units with
  | u :: _ => unitId u
  | [] => idStage

/-- Safety plays are kinds 0 and 1; a classification repeat is no safety scene (R340). -/
def Inst.safety (i : Inst) : Bool := (i.kind = 0 || i.kind = 1) && !i.key.rep

/-- Arithmetic cycles of a press up to now (R95). -/
def State.pressCycle (s : State) : Nat := s.now * s.ident.mhz / 400

/-- Rows of a PRESS (R105). -/
def rowsOf (w : W128) : Nat := (w.extractLsb' 50 8).toNat + 1

/-- The trace record of a PRESS whose rows ended at a cycle (R107). -/
def Feeding.trace (c : Feeding) (fed last out row : Nat) : TraceRec :=
  { w := c.x.w, entry := BitVec.ofNat 32 c.count, fed := BitVec.ofNat 16 fed
    bubbles := BitVec.ofNat 16 (last + 1 - c.first - fed), outcome := BitVec.ofNat 8 out, row := BitVec.ofNat 8 row }

/-- A record enters the ring of 256. -/
def pushTrace (r : Option TraceRec) (p : Press) : Press :=
  match r with
  | none => p
  | some r => { p with trace := (r :: p.trace).take 256, traced := p.traced + 1 }

/-- Rows of a repeat that have been fed again by a cycle: the first enters 65 cycles after the verdict (R114). -/
def Repeat.again (r : Repeat) (cyc : Nat) : Nat := min (rowsOf r.c.x.w - r.row) (cyc + 1 - (r.at_ + 70))

/-- A repeat under way is abandoned: its trace record shows outcome 3 and the rows fed by then (R107, R116). -/
def abandonRepeat (cyc : Nat) (p : Press) : Press :=
  match p.rep with
  | none => p
  | some r =>
    let n := r.again cyc
    let last := if n = 0 then r.at_ + (r.fed - (r.row + 1)) else r.at_ + 69 + n
    pushTrace (if r.tracing then some (r.c.trace (r.fed + n) last 3 r.row) else none) { p with rep := none }

/-- What a press holds for its run is discarded: platen pipeline and queue, groups, drain queues, tiles, compositor
micro-operations (R302). A PRESS that the kill ends at the feeder or in the queue has not retired and writes no trace record; one that ends it
in a repeat has R107's outcome 3 (DESIGN CHOICE, assumption 145). -/
def Press.flush (cyc : Nat) (p : Press) : Press :=
  { abandonRepeat cyc p with
      live := none, shadow := none, queue := [], groups := [], entries := [], drainQ := [], cur := none, ready := [], nextRow := 0
      nextSwap := 0, last := 0, comps := Vector.replicate 2 none, left := Vector.replicate 3 [], bands := [], tally := Tally.zero
      hands := Vector.replicate 8 { Stagehand.zero with since := cyc }, issuedAt := cyc, served := none }

def State.modPress (p : Fin 16) (f : Press → Press) (s : State) : State := { s with press := vmod s.press p f }

/-- A unit is left to be classified by its next proof pass, with the source of its suspected fault by R122; other suspicions count as
source 0 (DESIGN CHOICE, assumption 116). -/
def suspectUnit (src : Nat) (u : UnitId) (s : State) : State :=
  s.modUnit u fun r => { r with suspect := true, suspectSrc := BitVec.ofNat 2 src }

/-- A killed run's press is flushed; a repeat under way leaves it to be classified by its next proof pass (R116). -/
def flushPress (p : Fin 16) (s : State) : State :=
  let s := match (s.press.get p).rep with
    | some r => suspectUnit r.src (.press p) s
    | none => s
  s.modPress p (Press.flush s.pressCycle)

/-- A killed run's trackers free as their responses arrive, which are discarded (R243, R302), and at once where they still wait at the
regulator or for the stack controller; its prefetchers end (R245), and what it still waits for is abandoned (R260). -/
def dropRequests (ps : List (Fin 16)) (s : State) : State :=
  { s with
    mem := { s.mem with
      trackers := (s.mem.trackers.filter fun t => !((t.waits || t.noCtl) && t.press.any fun p => decide (p ∈ ps))).map fun t => match t.press with
        | some p => if p ∈ ps then { t with killed := true } else t
        | none => t
      prefetch := s.mem.prefetch.filter fun e => e.1 ∉ ps
      hops := s.mem.hops.map fun h => { h with resends := h.resends.filter fun e => (e.2.1.map fun p => decide (p ∉ ps)).getD true } }
    part := s.part.map fun r => { r with owed := r.owed.filter fun e => e.press ∉ ps } }

/-- The event of a kill: every safety kill, and at most four others per partition and cue (R316). -/
def logKill (i : Inst) (cause : Nat) (s : State) : State :=
  if i.safety then logEvent 0x0603 i.firstId cause s
  else
    match if h : i.part < 8 then some (s.part.get ⟨i.part, h⟩) else none with
    | some r =>
      if r.kills4 < 4 then logEvent 0x0603 i.firstId cause (s.modPart i.part fun r => { r with kills4 := r.kills4 + 1 })
      else s
    | none => s

/-- Abandon an instance that has not committed (R303): event 0x0604. -/
def abandonInst (cause : Nat) (i : Inst) (s : State) : State :=
  logEvent 0x0604 i.firstId cause (s.modInst i.key fun i => { i with st := .abandoned, units := [] })

/-! ### Scenes of a lowering (R267, R269) -/

/-- Fine scenes before coarse scene `i` (R269). -/
def fineBase (l : List SceneRep) (i : Nat) : Nat := ((l.take i).map fun r => r.fine.length).sum

/-- The coarse scene whose range a fine scene belongs to. -/
def coarseOf (l : List SceneRep) (k : Nat) : Nat :=
  ((List.range l.length).find? fun i => decide (k < fineBase l (i + 1))).getD 0

/-- The coarse scene of an instance. -/
def coarseIdx (p : Play) (k : InstKey) : Nat := if k.fine then coarseOf p.low.scenes k.scene else k.scene

/-- The fine scene that an instance runs, for one in fine form. -/
def Play.fineOf (p : Play) (k : InstKey) (r : SceneRep) : Option FineRep :=
  if k.fine then r.fine[k.scene - fineBase p.low.scenes (coarseIdx p k)]? else none

/-- The stretch of nodes of an instance's scene. -/
def Play.spanOf (p : Play) (k : InstKey) : Span :=
  match p.low.scenes[coarseIdx p k]? with
  | none => { first := 1, last := 0, lo := 0, hi := 0 }
  | some r => ((p.fineOf k r).map FineRep.span).getD r.span

/-- The nodes of a stretch. -/
def Play.nodesIn (p : Play) (sp : Span) : List Node := (p.nodes.take (sp.last + 1)).drop sp.first

/-- A stretch writes a tensor, or reads it. -/
def Play.spanWrites (p : Play) (sp : Span) (t : Nat) : Bool := (p.nodesIn sp).any fun n => decide (t ∈ n.outs)
def Play.spanReads (p : Play) (sp : Span) (t : Nat) : Bool := (p.nodesIn sp).any fun n => decide (t ∈ n.ins)

/-- An instance's scene writes a tensor. -/
def Play.sceneWrites (p : Play) (k : InstKey) (t : Nat) : Bool := p.spanWrites (p.spanOf k) t

/-- A tensor that a stretch writes and whose buffer outlives it: an output, a state tensor, or an intermediate that a node outside the stretch reads
(R277, R296). -/
def Play.leavesSpan (p : Play) (sp : Span) (t : Nat) : Bool :=
  p.spanWrites sp t && (match p.tensors[t]? with
    | none => false
    | some k => decide (k.kind = 2 ∨ k.kind = 5) || (decide (k.kind = 0) && (p.nodes.take sp.first ++ p.nodes.drop (sp.last + 1)).any fun n => decide (t ∈ n.ins)))

/-! ### Mappings of a run's buffers (R228, R231, R296) -/

/-- Device address of a page table entry's page (R228). -/
def pteDev (pte : W128) : Nat := (pte.extractLsb' 64 27).toNat * 2 ^ 21

def pteV (pte : W128) : Bool := pte.getLsbD 0
def pteRD (pte : W128) : Bool := pte.getLsbD 1
def pteWR (pte : W128) : Bool := pte.getLsbD 2
def ptePF (pte : W128) : Bool := pte.getLsbD 3
def pteCA (pte : W128) : Bool := pte.getLsbD 4
def pteFirst (pte : W128) : Nat := (pte.extractLsb' 16 15).toNat
def pteLast (pte : W128) : Nat := (pte.extractLsb' 31 15).toNat

/-- A page table entry of galley or stack page `dev` with its window. -/
def mkPte (rd wr : Bool) (part first last dev : Nat) : W128 :=
  BitVec.ofNat 128 (1 + (if rd then 2 else 0) + (if wr then 4 else 0) + part % 8 * 256 + first % 32768 * 65536 +
    last % 32768 * 2 ^ 31 + dev / 2 ^ 21 % 2 ^ 27 * 2 ^ 64)

def State.pte? (s : State) (play page : Nat) : Option W128 := (s.mem.l2.find? fun e => e.1 = (play, page)).map Prod.snd

def setPte (play page : Nat) (pte : W128) (s : State) : State :=
  { s with mem := { s.mem with l2 := ((play, page), pte) :: s.mem.l2.filter fun e => e.1 != (play, page) } }

/-- Presses that cache a translation of a page, or blocks of its device page. -/
def State.cachers (s : State) (play page dev : Nat) : List (Fin 16) :=
  allPresses.filter fun p => (s.mem.tcache.any fun e => decide (e.1 = p) && decide (e.2.play = play) && decide (e.2.page = page)) ||
    s.mem.blocks.any fun b => decide (b.1 = p) && decide (b.2 / 2 ^ 21 * 2 ^ 21 = dev)

/-- The presses are asked to drop their translation of a page and the blocks of its device page before either is used anew (R231). -/
def startDrop (play page dev : Nat) (s : State) : State :=
  match s.cachers play page dev with
  | [] => s
  | ps => { s with mem := { s.mem with drops := { play := play, page := page, dev := dev, presses := ps } :: s.mem.drops } }

def unmapPage (play page : Nat) (s : State) : State :=
  match s.pte? play page with
  | none => s
  | some e =>
    let s := startDrop play page (pteDev e) s
    { s with mem := { s.mem with l2 := s.mem.l2.filter fun x => x.1 != (play, page) } }

/-- Play-address pages a buffer touches. -/
def bufPages (b : BufReq) : List Nat :=
  (List.range ((b.play % 2 ^ 21 + b.len + 2 ^ 21 - 1) / 2 ^ 21)).map fun k => b.play / 2 ^ 21 + k

/-- A buffer that names a leaf pool is not mapped for the run (R250). -/
def State.isPool (s : State) (play tensor : Nat) : Bool :=
  match s.play? play with
  | some p => decide (((p.tensors[tensor]?).map Tensor.kind) = some 6)
  | none => false

/-- The kind of a tensor of a play; a number beyond the tensor table names the value in force of a state tensor, read at its number
above the table's length (R155). -/
def Play.kindOf (p : Play) (tensor : Nat) : Option Nat :=
  if tensor < p.tensors.length then (p.tensors[tensor]?).map Tensor.kind
  else ((p.tensors[tensor - p.tensors.length]?).map Tensor.kind).filter (· = 5)

/-- A buffer that names a tensor the run only reads: a session input, a batch view, a link's value or the value in force of a state tensor
(R154, R155, R210, R281). -/
def State.isInput (s : State) (play tensor : Nat) : Bool :=
  (s.forme.links.any fun l => decide (l.consumer = play ∧ l.ctensor = tensor)) ||
    (match s.play? play with
     | some p => decide (p.kindOf tensor = some 1 ∨ p.kindOf tensor = some 4 ∨ (p.kindOf tensor = some 5 ∧ p.tensors.length ≤ tensor))
     | none => false)

/-- A buffer of the run's own: fresh, and written by the run alone (R296). -/
def State.isFresh (s : State) (play : Nat) (b : BufReq) : Bool := !s.isPool play b.tensor && !s.isInput play b.tensor

/-- A run's buffers other than leaf pools and inputs. -/
def State.ownBufs (s : State) (i : Inst) : List BufReq := i.bufs.filter fun b => s.isFresh i.key.play b

/-- A page holds a retained value's buffer or a running scene's, other than the instance given. -/
def State.pageHeldBut (s : State) (k : Option InstKey) (play page : Nat) : Bool :=
  (s.sched.values.any fun v => decide (v.play = play) && v.bufs.any fun b => decide (page ∈ bufPages b)) ||
    s.sched.insts.any fun i => decide (i.st = .running) && decide (some i.key ≠ k) && decide (i.key.play = play) &&
      i.bufs.any fun b => !s.isPool play b.tensor && decide (page ∈ bufPages b)

def State.pageHeld (s : State) (play page : Nat) : Bool := s.pageHeldBut none play page

/-- The mappings of a run's inputs end with it where nothing else holds them. -/
def unmapInputs (i : Inst) (s : State) : State :=
  ((i.bufs.filter fun b => s.isInput i.key.play b.tensor).flatMap bufPages).foldl (fun s g =>
    if s.pageHeldBut (some i.key) i.key.play g then s else unmapPage i.key.play g s) s

/-- The buffers of a run are released (R302). -/
def unmapBufs (i : Inst) (s : State) : State :=
  unmapInputs i (((s.ownBufs i).flatMap bufPages).foldl (fun s g => unmapPage i.key.play g s) s)

/-- Values are retained no longer: their buffers' pages are unmapped where nothing else holds them (R305). -/
def forgetValues (f : Value → Bool) (s : State) : State :=
  let gone := s.sched.values.filter f
  let s := { s with sched := { s.sched with values := s.sched.values.filter fun v => !f v } }
  gone.foldl (fun s v => (v.bufs.flatMap bufPages).foldl (fun s g =>
    if s.pageHeld v.play g then s else unmapPage v.play g s) s) s

/-- Device pages that a buffer touches. -/
def devPages (b : BufReq) : List Nat :=
  (List.range ((b.dev % 2 ^ 21 + b.len + 2 ^ 21 - 1) / 2 ^ 21)).map fun k => (b.dev / 2 ^ 21 + k) * 2 ^ 21

/-- The requests of a killed run that are still to be answered keep its buffers out of use (R302). -/
def buryBufs (i : Inst) (s : State) : State :=
  match (s.mem.trackers.filter fun t => t.press.any fun p => decide (p ∈ i.presses)).map Tracker.id with
  | [] => s
  | ids => { s with sched := { s.sched with dying := { play := i.key.play, bufs := s.ownBufs i, ids := ids } :: s.sched.dying } }

/-- A killed run's buffers that a request of the run may still touch. -/
def State.dyingBufs (s : State) (f : Nat → Bool) : List BufReq :=
  (s.sched.dying.filter fun d => f d.play && d.ids.any fun n => s.mem.trackers.any fun t => decide (t.id = n)).flatMap Dying.bufs

/-- Kill the run of an instance (R294, R302, R303): charges enter, buffers are released, nothing of the run becomes visible, and
the instance is KILLED or, for cause 14, ABANDONED. A kill of an instance that is not running has no effect (R301). -/
def killInst (cause : Nat) (k : InstKey) (s : State) : State :=
  match s.inst? k with
  | none => s
  | some i =>
    if i.st ≠ .running then s
    else
      let s := chargeRun i s
      let s := logKill i cause s
      let s := s.modPart i.part (bump PartRt.kills (fun r v => { r with kills := v }) 2)
      let s := buryBufs i (dropRequests i.presses s)
      let s := unmapBufs i (i.presses.foldl (fun s p => flushPress p s) s)
      let s := s.modInst k fun i => { i with
        st := .killed, units := [], partsDone := [], spent := s.ownBufs i ++ i.spent, bufs := [], xfers := [], wrote := [], wasKilled := true
        dScene := 0, dPlay := 0 }
      if cause = 14 then abandonInst 14 i s else s

/-- A scene is killed to run again on other presses than these (R115, R243, R244, R253, R255, R356). -/
def killElsewhere (cause : Nat) (ps : List (Fin 16)) (k : InstKey) (s : State) : State :=
  (killInst cause k s).modInst k fun i => { i with avoid := ps }

/-- A run is stopped without commit and without a kill (R413): its presses, requests and buffers are freed. -/
def stopRun (i : Inst) (s : State) : State :=
  unmapBufs i (i.presses.foldl (fun s p => flushPress p s) (buryBufs i (dropRequests i.presses s)))

/-- Kill every running instance that satisfies `p`, in the order of the instance list. -/
def killWhere (cause : Nat) (p : Inst → Bool) (s : State) : State :=
  ((s.sched.insts.filter fun i => i.st = .running && p i).map Inst.key).foldl (fun s k => killInst cause k s) s

/-- Runs on a unit. -/
def Inst.on (u : UnitId) (i : Inst) : Bool := decide (u ∈ i.units)

/-- The run on a press, if any. -/
def State.runOn (s : State) (p : Fin 16) : Option Inst :=
  s.sched.insts.find? fun i => decide (i.st = .running) && i.on (.press p)

/-- Every safety scene of the cue is killed and every safety instance that has not committed is abandoned (R51, R83). -/
def endSafety (s : State) : State :=
  let s := killWhere 14 (fun i => i.safety) s
  (s.sched.insts.filter fun i => i.safety && decide (i.key.run = s.cue.count.toNat) &&
      decide (i.st = .waiting ∨ i.st = .ready ∨ i.st = .killed)).foldl (fun s i => abandonInst 14 i s) s

/-- A device page lies in a sector or stack out of service. -/
def State.pageLost (s : State) (d : Nat) : Bool :=
  match region d with
  | .galley n => !s.inServ (.sector n)
  | .stack n => !s.inServ (.stack n)
  | _ => false

/-! ### Spans that a play maps (R237, R240) -/

/-- A play maps a page of the given region (DEDUCED, assumption 67). -/
def State.playMaps (s : State) (play : Nat) (f : Region → Bool) : Bool :=
  s.mem.l2.any fun e => decide (e.1.1 = play) && pteV e.2 && f (region (pteDev e.2))

/-! ### Strikes -/

/-- Detail of event 0x0805 by the check during which an attempt failed (R376). -/
def rigDetail : RigCheck → Nat
  | .proof => 0
  | .rehearsal => 1
  | .third => 2

/-- A re-rig attempt fails (R362): event 0x0805, then STRUCK, or RETIRED after the fourth attempt. -/
def failAttempt (u : UnitId) (detail : Nat) (s : State) : State :=
  let s := { s with sched := { s.sched with slices := s.sched.slices.filter fun x => x.unit != .unit u } }
  let s := logEvent 0x0805 (unitId u) detail s
  let n := (s.unit u).attempts.toNat + 1
  let s := s.modUnit u fun r => { r with
    mode := .struck, attempts := BitVec.ofNat 3 n, placed := false, checks := [], waitFrom := s.cue.count.toNat
    wasReset := false }
  if n ≥ 4 then (logEvent 0x0806 (unitId u) 0 s).modUnit u fun r => { r with mode := .retired } else s

/-! ### Classification (R343, R349) -/

/-- CURTAIN_CAUSE.CLASS follows the classification of the mismatch that the register names (R349). -/
def setClass (cue code : Nat) (s : State) : State :=
  if s.cur.cause = 2 ∧ s.cur.cueLow = BitVec.ofNat 32 cue then
    { s with cur := { s.cur with cls := BitVec.ofNat 4 code } }
  else s

/-- A classification ends: its repeats are stopped and forgotten (DEDUCED, assumption 42). -/
def endClass (cue : Nat) (s : State) : State :=
  let s := (s.sched.insts.filter fun i => i.key.rep && decide (i.key.run = cue) && decide (i.st = .running)).foldl
    (fun s i => stopRun i s) s
  { s with
    cls := s.cls.filter fun c => c.cue != cue
    sched := { s.sched with insts := s.sched.insts.filter fun i => !(i.key.rep && decide (i.key.run = cue)) } }

/-- A strike of a unit that runs a repeat classifies the mismatch (R343): event 0x0707. -/
def classifyStruck (u : UnitId) (cues : List Nat) (s : State) : State :=
  cues.foldl (fun s n =>
    let side := match u with
      | .core _ => 1
      | _ => 0
    endClass n (setClass n 5 (logEvent 0x0707 (unitId u) side s))) s

/-- Cues whose repeats run on a unit. -/
def State.repeatsOn (s : State) (u : UnitId) : List Nat :=
  (s.cls.filter fun c => s.sched.insts.any fun i =>
    decide (i.st = .running) && i.key.rep && decide (i.key.run = c.cue) && i.on u).map Classif.cue

/-- The region a struck sector or stack covers. -/
def covers : UnitId → Region → Bool
  | .sector n, .galley m => n = m
  | .stack n, .stack m => n = m
  | _, _ => false

/-- A unit's rehearsal slice ends where it stands: it resumes from its last checkpoint (R49, R360). -/
def dropSlice (u : UnitId) (s : State) : State :=
  { s with sched := { s.sched with slices := s.sched.slices.filter fun x => x.unit != .unit u } }

/-- How far a unit's rehearsal has come, in cycles of its slices. -/
def setProgress (u : RehUnit) (n : Nat) (s : State) : State :=
  { s with sched := { s.sched with
      ctlProgress := (if n = 0 then [] else [(u, n)]) ++ s.sched.ctlProgress.filter fun e => e.1 != u } }

def State.progress (s : State) (u : RehUnit) : Nat := ((s.sched.ctlProgress.find? fun e => e.1 = u).map Prod.snd).getD 0

/-- A slice that was asked to suspend has passed its next checkpoint (R48). -/
def suspendSlice (x : Slice) (s : State) : State :=
  let s := if x.suspending then setProgress x.unit (s.progress x.unit + (s.now - x.at_)) s else s
  { s with sched := { s.sched with slices := s.sched.slices.filter fun y => y.unit != x.unit } }

/-- Strike a unit (R359, R360, R362). Only a unit in service is struck; a cause met while it re-rigs fails the attempt; a
struck or retired unit is left as it is. Event 0x0802, then the kills; the eighth strike since RESET retires it (DEDUCED, assumption 48). -/
def strike (cause : Nat) (u : UnitId) (s : State) : State :=
  let r := s.unit u
  match r.mode with
  | .struck => s
  | .retired => s
  | .reRigging => if r.placed then s else failAttempt u ((r.checks.head?.map rigDetail).getD 2) s
  | _ =>
    let s := s.modUnit u fun r => { r with
      mode := .struck, cause := BitVec.ofNat 8 cause, strikes := sat8 r.strikes, attempts := 0, placed := false
      overdue := false, checks := [], suspect := false, suspectSrc := 0, waitFrom := s.cue.count.toNat, struckAt := s.now, wasReset := false
      proofFail := [] }
    let s := dropSlice u (logEvent 0x0802 (unitId u) cause s)
    let s := if (s.unit u).strikes.toNat ≥ 8 then
        (logEvent 0x0806 (unitId u) 1 s).modUnit u fun r => { r with mode := .retired }
      else s
    match u with
    | .press _ => classifyStruck u (s.repeatsOn u) (killWhere 3 (fun i => i.on u) s)
    | .core _ => classifyStruck u (s.repeatsOn u) (killWhere 3 (fun i => i.on u) s)
    | .sector _ => killWhere 15 (fun i => s.playMaps i.key.play (covers u) || i.bufs.any fun b => covers u (region b.dev)) s
    | .stack _ => killWhere 15 (fun i => s.playMaps i.key.play (covers u) || i.bufs.any fun b => covers u (region b.dev)) s
    | _ => s

/-- One more happening of a strike count within a number of consecutive cues: the cues still counted, newest first. -/
def within (span cue : Nat) (l : List Nat) : List Nat := cue :: l.filter fun c => cue < c + span

/-- A transient classified on a press or core: the count, and a strike with cause 11 at the eighth within 1,000 cues (R354). -/
def countTransient (u : UnitId) (s : State) : State :=
  let c := s.cue.count.toNat
  let s := s.modUnit u fun r => { r with transients := sat16 r.transients, recent := within 1000 c r.recent }
  if (s.unit u).recent.length ≥ 8 then strike 11 u s else s

/-- The plan of a play for a unit count. -/
def planFor (r : PlayRep) (n : Nat) : Option PlanRep := r.plans.find? fun q => q.count = n

/-- The understudy is lost: its memory struck, or its window closes at no count up to the cores in service (R321). -/
def State.understudyLost (s : State) : Bool :=
  !s.inServ .umem ||
    !((s.forme.plays.filter fun p => p.kind = 1).any fun p =>
      p.low.plans.any fun q => decide (q.count ≤ s.cores.length ∧ (105 * q.makespan + 99) / 100 ≤ s.forme.sheet.undLen))

end Sys2Proof.Machine
end

