-- ==== Sys2Proof/Machine/Send.lean ====
section
/-! DEFINITION. The send queue: message headers, replies, messages the device originates, and the room a reply needs (R430 to
R434, R440 to R442). -/

namespace Sys2Proof.Machine

/-- The Zelrin header and payload of a message (R431). -/
def message (version typ : Nat) (seq : W16) (sess : W32) (payload : List Byte) : List Byte :=
  let h := natLe 1 version ++ natLe 2 typ ++ natLe 3 payload.length ++ natLe 2 seq.toNat ++ natLe 4 sess.toNat
  h ++ natLe 4 (crc32 (h ++ [0, 0, 0, 0] ++ payload)).toNat ++ payload

/-- The version of a device header: the active one, or 1 while none is active (R431, R435; DEDUCED, assumption 19). -/
def State.headVersion (s : State) : Nat := max s.dev.proto.toNat 1

/-- A message joins the send queue; HF_TX_AVAIL advances (R428, R429). -/
def enqueue (m : List Byte) (s : State) : State :=
  irq 0 { s with port := { s.port with
    tx := s.port.tx ++ [m], txAvail := s.port.txAvail + BitVec.ofNat 32 (msgBlocks m) } }

/-- A message the device originates carries the next device sequence (R431). -/
def originate (typ : Nat) (payload : List Byte) (s : State) : State :=
  enqueue (message s.headVersion typ s.port.devSeq 0 payload) { s with port := { s.port with devSeq := s.port.devSeq + 1 } }

/-- Largest payload of a message (R430). -/
def maxPayload : Nat := 262128

/-! ### Replies -/

def stOk : Nat := 0x0000
def stCommitted : Nat := 0x0001
def stInvalid : Nat := 0x0002
def stUnsupported : Nat := 0x0003
def stVersion : Nat := 0x0004
def stClosed : Nat := 0x0005
def stBusy : Nat := 0x0006
def stResource : Nat := 0x0007
def stLimit : Nat := 0x0008
def stState : Nat := 0x0009
def stAuth : Nat := 0x000A
def stRollback : Nat := 0x000B
def stDigest : Nat := 0x000C
def stAvail : Nat := 0x000D
def stFuse : Nat := 0x000E
def stCrc : Nat := 0x0010
def stTooLong : Nat := 0x0011
def stTimeout : Nat := 0x0012
def stCredit : Nat := 0x0013

/-- A request that has been placed: what its reply echoes (R434). -/
structure Request where
  typ : Nat
  seq : W16
  session : W32
  number : W32
  payload : List Byte
deriving DecidableEq, Repr

/-- The reply to a request: the common part, then the fields (R434). -/
def replyWith (version : Nat) (q : Request) (session : W32) (status : Nat) (fields : List Byte) (s : State) : State :=
  enqueue (message version (0x8000 + q.typ) q.seq session (natLe 2 status ++ [0, 0] ++ natLe 4 q.number.toNat ++ fields)) s

/-- An ordinary reply: fields only when OK. -/
def reply (q : Request) (status : Nat) (fields : List Byte) (s : State) : State :=
  replyWith s.headVersion q q.session status (if status = stOk then fields else []) s

/-! ### Safety publications (R441) -/

/-- Kind-2 safety outputs of the perception play with their index. -/
def pubTensors (p : Play) : List (Nat × Tensor) :=
  ((List.range p.tensors.length).zip p.tensors).filter fun e => decide (e.2.kind = 2) && e.2.safety

/-- The bytes of one chunk. -/
def chunk (tensor off : Nat) (data : List Byte) : List Byte :=
  natLe 4 tensor ++ natLe 4 off ++ natLe 4 data.length ++ [0, 0, 0, 0] ++ data ++
    List.replicate (padTo 8 data.length - data.length) 0

/-- Chunks of the images packed into parts of at most `cap` bytes, each image cut where its part is full (DESIGN CHOICE, assumption 20);
`fuel`
bounds the cuts. -/
def packChunks (cap : Nat) : Nat → List (Nat × Nat × List Byte) → List Byte → List (List Byte)
  | 0, _, cur => [cur]
  | _ + 1, [], cur => [cur]
  | fuel + 1, (i, off, data) :: rest, cur =>
    let room := cap - cur.length
    if room < 24 then cur :: packChunks cap fuel ((i, off, data) :: rest) []
    else
      let n := min data.length ((room - 16) / 8 * 8)
      let cur := cur ++ chunk i off (data.take n)
      if n < data.length then cur :: packChunks cap fuel ((i, off + n, data.drop n) :: rest) []
      else packChunks cap fuel rest cur

/-- Parts of a publication of the given images. -/
def pubParts (images : List (Nat × List Byte)) : List (List Byte) :=
  let total := (images.map fun e => e.2.length + 32).sum
  packChunks (maxPayload - 32) (total / 200000 + 2 * images.length + 4) (images.map fun e => (e.1, 0, e.2)) []

/-- Blocks of the largest publication of a play. -/
def pubBlocks (p : Play) : Nat :=
  ((pubParts ((pubTensors p).map fun e => (e.1, List.replicate e.2.size (0 : Byte)))).map fun c => blocksFor (32 + c.length)).sum

end Sys2Proof.Machine
end

