-- ==== Sys2Proof/Machine/Sessions.lean ====
section
/-! DEFINITION. Leaves and their counts, sessions and keeps, the forming of steps, the delivery of tokens and ABORT (R195 to R223,
R306, R439, R440). -/

namespace Sys2Proof.Machine

/-! ### Leaves (R198 to R201) -/

def State.leaf? (s : State) (play num : Nat) : Option Leaf := s.cog.leaves.find? fun l => l.play = play ∧ l.num = num

def dropLeaf (play num : Nat) (s : State) : State :=
  { s with cog := { s.cog with leaves := s.cog.leaves.filter fun l => !(decide (l.play = play) && decide (l.num = num)) } }

def setLeaf (l : Leaf) (s : State) : State :=
  let s := dropLeaf l.play l.num s
  { s with cog := { s.cog with leaves := l :: s.cog.leaves } }

def Leaf.new (play num : Nat) (st : LeafState) (count : W16) : Leaf :=
  { play := play, num := num, st := st, count := count, sweep := false, poisoned := false }

/-- A list or keep names a leaf once more; the count sticks at 65,535 (R199, R200). -/
def incLeaf (play num : Nat) (s : State) : State :=
  match s.leaf? play num with
  | none => setLeaf (Leaf.new play num .live 1) s
  | some l =>
    if l.st = .pinned then s
    else if 65535 ≤ l.count.toNat + 1 then
      logEvent 0x0C01 idStage 0 (setLeaf { l with st := .pinned, count := 0xFFFF#16 } s)
    else setLeaf { l with st := .live, count := l.count + 1 } s

/-- A list or keep stops naming a leaf; a pinned leaf is swept (R201). -/
def decLeaf (play num : Nat) (s : State) : State :=
  match s.leaf? play num with
  | none => s
  | some l =>
    if l.st = .pinned then setLeaf { l with sweep := true } s
    else if l.count.toNat ≤ 1 then dropLeaf play num s
    else setLeaf { l with count := l.count - 1 } s

def incLeaves (play : Nat) (l : List Nat) (s : State) : State := l.foldl (fun s n => incLeaf play n s) s
def decLeaves (play : Nat) (l : List Nat) (s : State) : State := l.foldl (fun s n => decLeaf play n s) s

/-- Leaves of a play: Lcap of its pools (R196). -/
def State.lcap (s : State) (play : Nat) : Nat :=
  match s.play? play with
  | none => 0
  | some p => ((p.tensors.find? fun t => t.kind = 6).bind fun t => t.dims.head?).getD 0

def State.usedLeaves (s : State) (play : Nat) : List Nat := (s.cog.leaves.filter fun l => l.play = play).map Leaf.num

/-- The lowest FREE leaf (R198). -/
def State.lowestLeaf (s : State) (play : Nat) : Nat :=
  let used := s.usedLeaves play
  ((List.range (used.length + 1)).find? fun n => n ∉ used).getD 0

/-- Reserve leaves, lowest first (R198, R214). -/
def reserveLeaves (play : Nat) : Nat → State → List Nat × State
  | 0, s => ([], s)
  | n + 1, s =>
    let k := s.lowestLeaf play
    let (ks, s) := reserveLeaves play n (setLeaf (Leaf.new play k .reserved 0) s)
    (k :: ks, s)

/-! ### Sessions and keeps -/

/-- A handle: generation over slot (R202). -/
def Session.handle (x : Session) : W32 := BitVec.ofNat 32 (x.gen.toNat * 1024 + x.slot)

/-- The open session a handle names. -/
def State.session? (s : State) (h : W32) : Option Session :=
  s.cog.sess.find? fun x => decide (x.handle = h) && decide (x.st ≠ .closed)

def setSession (x : Session) (s : State) : State :=
  { s with cog := { s.cog with sess := x :: s.cog.sess.filter fun y => y.slot != x.slot } }

def modSession (slot : Nat) (f : Session → Session) (s : State) : State :=
  { s with cog := { s.cog with sess := lmod (fun x => x.slot = slot) f s.cog.sess } }

def Keep.id (k : Keep) : W32 := BitVec.ofNat 32 (k.gen.toNat * 65536 + k.slot)

def State.keep? (s : State) (id : W32) : Option Keep := s.cog.keeps.find? fun k => decide (k.id = id) && k.live

def setKeep (k : Keep) (s : State) : State :=
  { s with cog := { s.cog with keeps := k :: s.cog.keeps.filter fun y => y.slot != k.slot } }

/-- Entries that rows which have yet to commit add to their sessions' lists (R207, R217; DESIGN CHOICE, assumption 151). -/
def State.rowsDue (s : State) (rows : List Row) : Nat :=
  (rows.map fun r => if r.dropped then 0 else r.map.length - ((s.session? r.handle).map fun x => x.leaves.length).getD r.map.length).sum

/-- Entries of the leaf-list store in use, with those that the admitted steps' rows will take (R207). -/
def State.storeUsed (s : State) : Nat :=
  ((s.cog.sess.filter fun x => x.st ≠ .closed).map fun x => x.leaves.length).sum +
    ((s.cog.keeps.filter fun k => k.live).map fun k => k.leaves.length).sum +
    ((s.cog.steps.filter fun st => !st.tokensDone).map fun st => s.rowsDue st.rows).sum

def storeSize : Nat := 4194304

/-- The lowest free session slot (R206). -/
def State.freeSlot (s : State) : Option Nat :=
  (List.range 1024).find? fun i => (s.cog.sess.find? fun x => x.slot = i).all fun x => x.st = .closed

/-- The lowest free keep slot. -/
def State.freeKeep (s : State) : Option Nat :=
  (List.range (min 65536 (s.cog.keeps.length + 1))).find? fun i => (s.cog.keeps.find? fun k => k.slot = i).all fun k => !k.live

/-- Generations wrap past 0 (R202). -/
def nextGen (g : BitVec 22) : BitVec 22 := if g = 0x3FFFFF#22 then 1 else g + 1
def nextKeepGen (g : W16) : W16 := if g = 0xFFFF#16 then 1 else g + 1

def State.limits (s : State) (play : Nat) : Limits := s.forme.limits.getD play { pmax := 0, c := 0, tmax := 0, bmax := 0 }

/-- Tokens a session has not yet put into a committed step: its prompt's, or the one it decodes. -/
def Session.pending (x : Session) : Nat :=
  match x.decoding with
  | some _ => 1
  | none => ((x.prompt.map fun i => i.tokens.length).getD 0)

/-- Tokens up to the end of the first input that draws. -/
def drawCount : List Input → Nat
  | [] => 0
  | i :: l => i.tokens.length + (if i.draw then 0 else drawCount l)

/-- Tokens ahead of the session's next draw: the one it decodes, or those of its prompt and held inputs up to one with DRAW = 1. -/
def Session.untilDraw (x : Session) : Nat :=
  match x.decoding with
  | some _ => 1
  | none => drawCount (x.prompt.toList ++ x.held)

/-- The next draw position q of R306. -/
def Session.nextDraw (x : Session) : Nat :=
  max (x.committed + x.untilDraw) ((x.lastDraw.map (· + 1)).getD 0)

/-- A session gains its place in the order of readiness (R209). -/
def ready (slot : Nat) (s : State) : State :=
  let s := modSession slot (fun x => { x with st := .queued, ord := s.cog.ord }) s
  { s with cog := { s.cog with ord := s.cog.ord + 1 } }

/-- A session returns to IDLE; a held input becomes its pending prompt (R439). -/
def toIdle (slot : Nat) (s : State) : State :=
  match s.cog.sess.find? fun x => x.slot = slot with
  | none => s
  | some x =>
    match x.held with
    | [] => modSession slot (fun x => { x with st := .idle, prompt := none, decoding := none }) s
    | h :: hs => ready slot (modSession slot (fun x => { x with prompt := some h, held := hs, decoding := none, drawn := 0 }) s)

/-! ### Rows and steps -/

def modStep (play no : Nat) (f : Step → Step) (s : State) : State :=
  { s with cog := { s.cog with steps := lmod (fun st => st.play = play ∧ st.no = no) f s.cog.steps } }

/-- A session's rows keep their place in the table and are dropped (R211). -/
def dropRows (h : W32) (s : State) : State :=
  { s with cog := { s.cog with steps := s.cog.steps.map fun st =>
      { st with rows := lmod (fun r => r.handle = h) (fun r => { r with dropped := true }) st.rows } } }

def State.stepInsts (s : State) (st : Step) : List Inst :=
  s.sched.insts.filter fun i => decide (i.key.play = st.play) && decide (i.key.run = st.no) && !i.key.rep && decide (i.kind = 2)

/-- The kind of a play's tensor; 0 where there is none. -/
def State.tensorKind (s : State) (play tensor : Nat) : Nat :=
  (((s.play? play).bind fun p => p.tensors[tensor]?).map Tensor.kind).getD 0

/-- A step ends: its instances, step inputs and intermediate buffers are forgotten (R305). -/
def forgetStep (st : Step) (s : State) : State :=
  let s := { s with
    cog := { s.cog with steps := s.cog.steps.filter fun x => !(decide (x.play = st.play) && decide (x.no = st.no)) }
    sched := { s.sched with
      insts := s.sched.insts.filter fun i => !(decide (i.key.play = st.play) && decide (i.key.run = st.no) && decide (i.kind = 2)) } }
  forgetValues (fun v => decide (v.play = st.play) && decide (v.run = st.no) && decide (s.tensorKind v.play v.tensor ≤ 1)) s

/-- Surviving rows' sessions are QUEUED again. -/
def requeueRows (st : Step) (s : State) : State :=
  st.rows.foldl (fun s r => if r.dropped then s
    else modSession r.slot (fun x => if x.handle = r.handle ∧ x.st = .running then { x with st := .queued } else x) s) s

/-- Reserved leaves return to FREE. -/
def freeReserved (play : Nat) (l : List Nat) (s : State) : State :=
  l.foldl (fun s n => match s.leaf? play n with
    | some x => if x.st = .reserved then dropLeaf play n s else s
    | none => s) s

/-- The digest of a play's run so far (R386). -/
def State.runDigest (s : State) (play run : Nat) : W64 :=
  ((s.sched.insts.filter fun i => decide (i.key.play = play) && decide (i.key.run = run) && !i.key.rep &&
    decide (i.st = .committed) && decide (i.kind ≠ kindMove)).map Inst.dPlay).sum

def setDigPlay (play : Nat) (d : DigPlay) (s : State) : State :=
  if h : play < 32 then { s with sched := { s.sched with digPlay := vmod s.sched.digPlay ⟨play, h⟩ fun _ => d } } else s

/-- A step is abandoned: its reserved leaves return to FREE, its surviving rows stay QUEUED, its scenes will not run again, and DIG_PLAY shows its
run as incomplete (R257, R294, R303, R388, R389). -/
def abandonStep (st : Step) (s : State) : State :=
  let s := setDigPlay st.play
    { digest := s.runDigest st.play st.no, run := BitVec.ofNat 32 st.no, complete := false, invalid := false } s
  let s := requeueRows st (freeReserved st.play (st.rows.flatMap Row.reserved) s)
  let mine := fun (i : Inst) => decide (i.key.play = st.play ∧ i.key.run = st.no ∧ i.kind = 2 ∧ i.st ≠ .committed)
  let s := { s with
    cog := { s.cog with steps := s.cog.steps.filter fun x => !(decide (x.play = st.play) && decide (x.no = st.no)) }
    sched := { s.sched with insts := lmod (fun i => mine i) (fun i => { i with st := .abandoned, units := [] }) s.sched.insts } }
  forgetValues (fun v => decide (v.play = st.play) && decide (v.run = st.no) && decide (s.tensorKind v.play v.tensor ≤ 1)) s

/-- A row's session is closed. -/
def State.rowClosed (s : State) (r : Row) : Bool := (s.session? r.handle).isNone

/-- A step whose sessions are all closed is abandoned once none of its scenes runs (R303; DESIGN CHOICE, assumption 21). -/
def settleStep (play no : Nat) (s : State) : State :=
  match s.cog.steps.find? fun st => st.play = play ∧ st.no = no with
  | none => s
  | some st =>
    if st.rows.all (fun r => s.rowClosed r) && !((s.stepInsts st).any fun i => decide (i.st = .running)) then abandonStep st s
    else s

/-- Steps that hold a row of a handle. -/
def settleSteps (h : W32) (s : State) : State :=
  (s.cog.steps.filter fun st => st.rows.any fun r => decide (r.handle = h)).foldl (fun s st => settleStep st.play st.no s) s

/-- Close a session (R208). -/
def closeSession (x : Session) (s : State) : State :=
  let s := dropRows x.handle s
  let s := decLeaves x.play x.leaves
    (modSession x.slot (fun y => { y with st := .closed, leaves := [], prompt := none, held := [], decoding := none }) s)
  settleSteps x.handle s

/-- Release a keep (R207). -/
def releaseKeep (k : Keep) (s : State) : State :=
  decLeaves k.play k.leaves (setKeep { k with live := false, leaves := [] } s)

/-! ### Opens, keeps and inputs -/

/-- The open record of R437. -/
structure OpenRec where
  play : Nat
  release : Bool
  fromKeep : Bool
  seed : W64
  parent : W32
  pre : Nat
  maxNew : Nat
  stops : List W32
deriving DecidableEq, Repr

def readOpen (p : List Byte) : OpenRec :=
  { play := u8 p 0, release := decide (u8 p 1 % 2 = 1), fromKeep := decide (u8 p 1 / 2 % 2 = 1)
    seed := BitVec.ofNat 64 (u64 p 4), parent := BitVec.ofNat 32 (u32 p 12), pre := u32 p 16, maxNew := u32 p 20
    stops := f32list p 28 (u16 p 24) }

/-- R470 on an open record. -/
def openOk (s : State) (p : List Byte) : Bool :=
  decide (60 ≤ p.length) && decide (u8 p 1 ≤ 3) && zeros p 2 4 && zeros p 26 28 && decide (u16 p 24 ≤ 8) &&
    zeros p (28 + 4 * u16 p 24) 60 && decide (u32 p 12 ≠ 0 ∨ u32 p 16 = 0) &&
    decide (((s.play? (u8 p 0)).map Play.kind) = some 2)

/-- What a parent or keep lends: its play, leaves and length (DEDUCED, assumption 89). -/
def State.parentOf (s : State) (o : OpenRec) : Option (Nat × List Nat × Nat) :=
  if o.fromKeep then (s.keep? o.parent).map fun k => (k.play, k.leaves, k.len)
  else (s.session? o.parent).map fun x => (x.play, x.leaves, x.committed)

/-- Leaves that hold a number of positions. -/
def leavesFor (n : Nat) : Nat := (n + 15) / 16

/-- Take a slot and its next generation (R202, R206, R290). -/
def openSlot (o : OpenRec) (leaves : List Nat) (slot : Nat) (s : State) : Session × State :=
  let gen := nextGen (((s.cog.sess.find? fun x => x.slot = slot).map Session.gen).getD 0)
  let x : Session :=
    { slot := slot, gen := gen, st := .idle, play := o.play, seed := o.seed, committed := o.pre, leaves := leaves
      prompt := none, held := [], release := o.release, maxNew := o.maxNew, stops := o.stops, drawn := 0, decoding := none
      lastDraw := none, ord := 0, full := false }
  (x, { incLeaves o.play leaves (setSession x s) with accts := s.accts.filter fun a => a.client != slot })

/-- SESSION_OPEN's outcome: a status, the new handle, the state (R205, R206). -/
def openSession (o : OpenRec) (s : State) : Nat × W32 × State :=
  let src := if o.parent = 0 then some (o.play, [], 0) else s.parentOf o
  let bad := match src with
    | none => true
    | some (pl, _, len) => decide (o.parent ≠ 0) && (decide (pl ≠ o.play) || decide (o.pre = 0) || decide (len < o.pre))
  if bad then (stInvalid, 0, logEvent 0x0C05 idStage 0 s)
  else
    let take := ((src.map fun e => e.2.1).getD []).take (leavesFor o.pre)
    match s.freeSlot with
    | none => (stResource, 0, logEvent 0x0C04 idStage 0 s)
    | some slot =>
      if storeSize < s.storeUsed + take.length then (stResource, 0, logEvent 0x0C04 idStage 0 s)
      else
        let (x, s) := openSlot o take slot s
        (stOk, x.handle, s)

/-- KEEP_CREATE's outcome (R207). -/
def createKeep (x : Session) (n : Nat) (s : State) : Nat × W32 × State :=
  if n = 0 ∨ x.committed < n then (stInvalid, 0, s)
  else
    let take := x.leaves.take (leavesFor n)
    match s.freeKeep with
    | none => (stResource, 0, logEvent 0x0C07 idStage 0 s)
    | some slot =>
      if storeSize < s.storeUsed + take.length then (stResource, 0, logEvent 0x0C07 idStage 0 s)
      else
        let gen := nextKeepGen (((s.cog.keeps.find? fun k => k.slot = slot).map Keep.gen).getD 0)
        let k : Keep := { slot := slot, gen := gen, live := true, play := x.play, leaves := take, len := n }
        (stOk, k.id, incLeaves x.play take (setKeep k s))

/-- Bytes per token of each kind-1 tensor after the sixth (R210, R437). -/
def State.extraRows (s : State) (play : Nat) : List Nat :=
  match s.play? play with
  | none => []
  | some p => ((p.tensors.filter fun t => t.kind = 1).drop 6).map fun t => t.size / max ((t.dims.head?).getD 1) 1

/-- Length of an input record with `n` tokens. -/
def inputLength (rows : List Nat) (n : Nat) : Nat := 8 + 4 * n + (rows.map fun r => padTo 4 (n * r)).sum

/-- The rows of each further tensor, in tensor order. -/
def readExtra (n : Nat) : List Nat → List Byte → List (List Byte)
  | [], _ => []
  | r :: rs, bs => bs.take (n * r) :: readExtra n rs (bs.drop (padTo 4 (n * r)))

def readInput (rows : List Nat) (p : List Byte) : Input :=
  let n := u32 p 0
  { tokens := f32list p 8 n, extra := readExtra n rows (p.drop (8 + 4 * n)), draw := decide (u32 p 4 % 2 = 1) }

/-- R470 on an input record. -/
def inputOk (rows : List Nat) (p : List Byte) : Bool :=
  decide (8 ≤ p.length) && decide (u32 p 0 ≠ 0) && decide (u32 p 4 ≤ 1) && decide (inputLength rows (u32 p 0) ≤ p.length)

/-- SESSION_INPUT's outcome (R213, R439). -/
def acceptInput (x : Session) (i : Input) (s : State) : Nat × State :=
  let total := x.committed + x.pending + (x.held.map fun h => h.tokens.length).sum + i.tokens.length
  if x.full ∨ (s.limits x.play).pmax < total then (stLimit, s)
  else if x.st = .idle then
    (stOk, ready x.slot (modSession x.slot (fun x => { x with prompt := some i, drawn := 0 }) s))
  else if 4 ≤ x.held.length then (stBusy, s)
  else (stOk, modSession x.slot (fun x => { x with held := x.held ++ [i] }) s)

/-- ABORT's outcome (R306): held inputs are dropped with the pending one (DEDUCED, assumption 22). -/
def abortSession (x : Session) (p : Nat) (s : State) : Nat × State :=
  let q := x.nextDraw
  if p < q then (stCommitted, logEvent 0x0611 idStage (x.slot % 256) s)
  else if q < p then (stInvalid, s)
  else
    let s := modSession x.slot (fun x => { x with st := .idle, prompt := none, held := [], decoding := none }) (dropRows x.handle s)
    (stOk, logEvent 0x0610 idStage (x.slot % 256) s)

/-! ### Forming a step (R209 to R215) -/

/-- A step being formed: its rows so far in order of readiness, their tokens, whether the pool ran short, the first row left out. -/
structure Forming where
  rows : List Row
  used : Nat
  short : Bool
  left : Option Nat
deriving DecidableEq, Repr

/-- The next tokens of a session and their further rows; a decoded token has no host data, which the spec leaves open, and a session's data does
not depend on what shares its steps (R221; DESIGN CHOICE, assumption 9). -/
def rowTokens (x : Session) (count : Nat) (rows : List Nat) : List W32 × List (List Byte) :=
  match x.decoding with
  | some t => ([t], rows.zipIdx.map fun r => (List.range r.1).map fun k => Config.tokenData x.seed x.committed ((rows.take r.2).sum + k))
  | none =>
    match x.prompt with
    | some i => (i.tokens.take count, ((i.extra.zip rows).map fun e => e.1.take (count * e.2)))
    | none => ([], [])

/-- The row draws: decoding, or at the end of a prompt with DRAW (R211, R439). -/
def rowDraws (x : Session) (count : Nat) : Bool :=
  match x.decoding with
  | some _ => true
  | none => match x.prompt with
    | some i => i.draw && decide (count = i.tokens.length)
    | none => false

/-- The leaf a row copies on write (R215). -/
def State.copySource (s : State) (x : Session) : Option Nat :=
  if x.committed % 16 = 0 then none
  else
    match x.leaves[x.committed / 16]? with
    | none => none
    | some n =>
      match s.leaf? x.play n with
      | some l => if l.st = .live ∧ l.count = 1#16 then none else some n
      | none => some n

/-- One session joins the step, never past Pmax positions (R213), or is left out: also where its list would take the leaf-list store past its
size (R207; DESIGN CHOICE, assumption 151). -/
def formRow (lim : Limits) (x : Session) (f : Forming) (s : State) : Forming × State :=
  let count := min x.pending (min lim.c (min (lim.tmax - f.used) (lim.pmax - x.committed)))
  if count = 0 ∨ lim.bmax ≤ f.rows.length then (f, s)
  else
    let copy := s.copySource x
    let fresh := leavesFor (x.committed + count) - x.leaves.length
    let need := fresh + (if copy.isSome then 1 else 0)
    if 0 < need ∧ (f.short = true ∨ s.lcap x.play < (s.usedLeaves x.play).length + need ∨ storeSize < s.storeUsed + s.rowsDue f.rows + fresh) then
      ({ f with short := true, left := some (f.left.getD x.slot) }, s)
    else
      let (rs, s) := reserveLeaves x.play need s
      let base := match copy, rs with
        | some _, c :: _ => x.leaves.set (x.committed / 16) c
        | _, _ => x.leaves
      let new := if copy.isSome then rs.drop 1 else rs
      let rows := s.extraRows x.play
      let (toks, extra) := rowTokens x count rows
      let r : Row :=
        { handle := x.handle, slot := x.slot, start := x.committed, count := count, tokens := toks, extra := extra
          map := base ++ new, copySrc := copy, reserved := rs, draws := rowDraws x count, dropped := false }
      ({ f with rows := r :: f.rows, used := f.used + count }, s)

def formRows (lim : Limits) : List Session → Forming → State → Forming × State
  | [], f, s => (f, s)
  | x :: xs, f, s =>
    let (f, s) := formRow lim x f s
    formRows lim xs f s

/-- QUEUED sessions of a play in order of readiness (R209). -/
def State.queued (s : State) (play : Nat) : List Session :=
  sortBy Session.ord (s.cog.sess.filter fun x => decide (x.play = play) && decide (x.st = .queued) && !x.full)

/-! #### Step inputs (R210, R211) -/

/-- A length-table row, given its map and token offsets (DEDUCED, assumption 40). -/
def Row.image (r : Row) (mapOff tokOff : Nat) : List Byte :=
  natLe 4 r.handle.toNat ++ natLe 4 r.start ++ natLe 4 r.count ++ natLe 4 mapOff ++ natLe 4 tokOff ++ natLe 4 r.map.length ++
    natLe 4 (match r.copySrc with
      | some c => c
      | none => 0xFFFFFFFF) ++ natLe 4 (r.start % 16 + (if r.draws then 256 else 0))

/-- A padding row: zero but for −1 in column 6. -/
def padRow : List Byte := List.replicate 24 0 ++ natLe 4 0xFFFFFFFF ++ [0, 0, 0, 0]

def tableRows : List Row → Nat → Nat → List Byte
  | [], _, _ => []
  | r :: rs, m, t => r.image m t ++ tableRows rs (m + r.map.length) (t + r.count)

/-- The images of a play's kind-1 tensors for a step; of the leaf map only the entries the length table names. -/
def stepImages (s : State) (lim : Limits) (rows : List Row) : List (List Byte) :=
  let seeds := rows.flatMap fun r => natLe 8 (((s.cog.sess.find? fun x => x.slot = r.slot).map fun x => x.seed.toNat).getD 0)
  let extra := (List.range ((rows.map fun r => r.extra.length).foldl max 0)).map fun k => rows.flatMap fun r => r.extra.getD k []
  [ padBytes (4 * lim.tmax) (rows.flatMap fun r => r.tokens.flatMap fun w => natLe 4 w.toNat),
    tableRows rows 0 0 ++ (List.replicate (lim.bmax - rows.length) padRow).flatten,
    rows.flatMap fun r => r.map.flatMap fun n => natLe 4 n,
    padBytes (4 * lim.tmax) (rows.flatMap fun r => (List.range r.count).flatMap fun k => natLe 4 (r.start + k)),
    padBytes (8 * lim.bmax) seeds,
    padBytes (4 * lim.bmax) (rows.flatMap fun r => natLe 4 (r.start + r.count)) ] ++ extra

end Sys2Proof.Machine
end

