-- ==== Sys2Proof/Machine/Fabric.lean ====
section
/-! DEFINITION. What every access to a case, the galley, the stacks and the understudy memory shares: stored bytes, translation checks,
SEC-DED findings and poisoned blocks (R224 to R231, R255 to R258, R261). -/

namespace Sys2Proof.Machine

/-! ### Stored bytes -/

/-- The 64 B block that holds a device address. -/
def blockOf (a : Nat) : Nat := a / 64 * 64

/-- Bytes of the protected word that holds a device address: 8, or one in a case's side plane (R255). -/
def wordSize (a : Nat) : Nat :=
  match region a with
  | .case p => if caseBase p.1 + caseSide ≤ a then 1 else 8
  | _ => 8

/-- Where the protected word that holds a device address begins. -/
def wordOf (a : Nat) : Nat := a / wordSize a * wordSize a

/-- Write bytes from a device address up: a wholly replaced block loses its poison, and a replaced word its write-back (R256, R257). -/
def devWrite (a : Nat) (bs : List Byte) (s : State) : State :=
  let n := bs.length
  { s with mem := { s.mem with
      cells := cellsWrite s.mem.cells a bs
      poison := s.mem.poison.filter fun b => !(decide (a ≤ b) && decide (b + 64 ≤ a + n))
      wbacks := s.mem.wbacks.filter fun e => !(decide (a < e.1 + wordSize e.1) && decide (e.1 < a + n)) } }

def State.devRead (s : State) (a n : Nat) : List Byte := cellsRead s.mem.cells a n

/-- Device addresses of a case (R226). -/
def caseAt (p : Fin 16) (line bank : Nat) : Nat := caseBase p.1 + line * 1024 + bank * 16
def sideAt (p : Fin 16) (line bank : Nat) : Nat := caseBase p.1 + caseSide + line * 64 + bank

/-- Write one bank's line and its side byte; lines beyond the case do not exist. -/
def caseWrite (p : Fin 16) (line bank : Nat) (bs : List Byte) (side : Byte) (s : State) : State :=
  if line < 8192 ∧ bank < 64 then devWrite (sideAt p line bank) [side] (devWrite (caseAt p line bank) (bs.take 16) s) else s

/-! ### Counters (R261) -/

/-- Count one in a vector of counters; `word` is the counter's place among the words of COUNTERS_READ. -/
def bumpAt {n : Nat} (v : Vector W32 n) (i : Fin n) (word : Nat) (ovf : List Nat) : Vector W32 n × List Nat :=
  let (c, o) := sat32 (v.get i) 1
  (vmod v i fun _ => c, if o = true ∧ word ∉ ovf then word :: ovf else ovf)

def countCorrected (i : Fin 33) (s : State) : State :=
  let (v, o) := bumpAt s.mem.corrected i i.1 s.mem.ovf
  { s with mem := { s.mem with corrected := v, ovf := o } }

def countDouble (i : Fin 33) (s : State) : State :=
  let (v, o) := bumpAt s.mem.doubles i (33 + i.1) s.mem.ovf
  { s with mem := { s.mem with doubles := v, ovf := o } }

def countResent (u : Byte) (s : State) : State :=
  let (v, o) := bumpAt s.mem.resent (Fin.ofNat 256 u.toNat) (66 + u.toNat) s.mem.ovf
  { s with mem := { s.mem with resent := v, ovf := o } }

def countExhausted (u : Byte) (s : State) : State :=
  let (v, o) := bumpAt s.mem.exhausted (Fin.ofNat 256 u.toNat) (322 + u.toNat) s.mem.ovf
  { s with mem := { s.mem with exhausted := v, ovf := o } }

/-- Severities of a stack: corrected at its number, uncorrectable two further on. -/
def countSeverity (i : Fin 4) (s : State) : State :=
  let (v, o) := bumpAt s.mem.sevs i (578 + i.1) s.mem.ovf
  { s with mem := { s.mem with sevs := v, ovf := o } }

/-- Prefetches issued at 0 to 15, dropped at 16 to 31, walks at 32 to 47. -/
def countPf (base : Nat) (p : Fin 16) (s : State) : State :=
  let (v, o) := bumpAt s.mem.pf (Fin.ofNat 48 (base + p.1)) (582 + base + p.1) s.mem.ovf
  { s with mem := { s.mem with pf := v, ovf := o } }

/-- Tracker timeouts of a press at 0 to 15, of a stack controller at 16 and 17. -/
def countTimeout (i : Fin 18) (s : State) : State :=
  let (v, o) := bumpAt s.mem.timeouts i (630 + i.1) s.mem.ovf
  { s with mem := { s.mem with timeouts := v, ovf := o } }

def countRestored (s : State) : State :=
  let (c, o) := sat32 s.mem.restored 1
  { s with mem := { s.mem with restored := c, ovf := if o = true ∧ 648 ∉ s.mem.ovf then 648 :: s.mem.ovf else s.mem.ovf } }

/-! ### Translation (R227 to R229) -/

/-- A level-1 entry is valid: bit 0, with bits [11:1] and [63:48] zero (R224, R227). -/
def l1Valid (e : W64) : Bool := e.getLsbD 0 && decide (e.extractLsb' 1 11 = 0) && decide (e.extractLsb' 48 16 = 0)

/-- The detail of event 0x0410 when a demand access to a play address fails: 0 unmapped, 1 permission, 2 window, 3 invalid device page. -/
def State.accessFault (s : State) (play addr : Nat) (write : Bool) : Option Nat :=
  if 2 ^ 48 ≤ addr then some 0
  else
    match s.mem.l1.find? fun e => e.1 = (play, addr / 2 ^ 34), s.pte? play (addr / 2 ^ 21) with
    | some l, some e =>
      let blk := addr % 2 ^ 21 / 64
      if !l1Valid l.2 || !pteV e then some 0
      else if !(if write then pteWR e else pteRD e) then some 1
      else if blk < pteFirst e ∨ pteLast e < blk then some 2
      else if !fabricPage (pteDev e) then some 3
      else none
    | _, _ => some 0

/-- The first failure among the blocks of a run's access. -/
def State.accessFaults (s : State) (play : Nat) (write : Bool) : List Nat → Option Nat
  | [] => none
  | a :: l => match s.accessFault play a write with
    | some d => some d
    | none => s.accessFaults play write l

/-- Device address of a play address as the tables stand. -/
def State.translate (s : State) (play addr : Nat) : Option Nat :=
  match s.pte? play (addr / 2 ^ 21) with
  | some e => if pteV e then some (pteDev e + addr % 2 ^ 21) else none
  | none => none

def State.playByte (s : State) (play addr : Nat) : Byte :=
  match s.translate play addr with
  | some d => cellRead s.mem.cells d
  | none => 0

def State.playBytes (s : State) (play addr n : Nat) : List Byte := (List.range n).map fun k => s.playByte play (addr + k)

/-! ### Cached translations (R230) -/

/-- A cached translation of a press. -/
def State.cached? (s : State) (p : Fin 16) (play page : Nat) : Option TEntry :=
  (s.mem.tcache.find? fun e => decide (e.1 = p) && decide (e.2.play = play) && decide (e.2.page = page)).map Prod.snd

/-- Cache a translation: a press holds 256, and locked ones stay (DESIGN CHOICE, assumption 72). -/
def cacheEntry (p : Fin 16) (e : TEntry) (s : State) : State :=
  let mine := (s.mem.tcache.filter fun x => x.1 = p).map Prod.snd
  let mine := mine.filter fun x => !(decide (x.play = e.play) && decide (x.page = e.page))
  let locked := mine.filter TEntry.locked
  let free := (mine.filter fun x => !x.locked).take (255 - locked.length)
  { s with mem := { s.mem with tcache := ((e :: locked ++ free).map fun x => (p, x)) ++ s.mem.tcache.filter fun x => x.1 != p } }

/-- In a safety window a press holds and locks every page that the safety play maps, so its scenes never walk. -/
def lockPages (play : Nat) (p : Fin 16) (s : State) : State :=
  (s.mem.l2.filter fun e => e.1.1 = play).foldl (fun s e =>
    cacheEntry p { play := play, page := e.1.2, pte := e.2, locked := true } s) s

/-- The locks end with the safety window. -/
def unlockPages (s : State) : State :=
  { s with mem := { s.mem with tcache := s.mem.tcache.map fun e => (e.1, { e.2 with locked := false }) } }

/-! ### Poisoned blocks (R257) -/

def State.poisoned (s : State) (a : Nat) : Bool := decide (blockOf a ∈ s.mem.poison)

def poison (a : Nat) (s : State) : State :=
  if s.poisoned a then s else { s with mem := { s.mem with poison := blockOf a :: s.mem.poison } }

def bufHolds (b : BufReq) (a : Nat) : Bool := decide (b.dev ≤ a ∧ a < b.dev + b.len)

/-- A constant page waits for its restoration (R259). -/
def queueRestore (play vpage : Nat) (s : State) : State :=
  match s.forme.consts.find? fun c => c.1 = (play, vpage) with
  | none => s
  | some c =>
    if s.mem.restore.any fun r => decide (r.play = play ∧ r.vpage = vpage) then s
    else { s with mem := { s.mem with restore := s.mem.restore ++
      [{ play := play, sect := c.2.1, page := c.2.2, vpage := vpage }] } }

/-- The plays' pages of constants that a device page holds. -/
def State.constPages (s : State) (a : Nat) : List (Nat × Nat) :=
  (s.mem.l2.filter fun e => pteV e.2 && decide (pteDev e.2 = a / 2 ^ 21 * 2 ^ 21) && s.forme.consts.any fun c => decide (c.1 = e.1)).map Prod.fst

/-- An instance's scene reads bytes of a page of a weight section. -/
def Play.readsPage (p : Play) (k : InstKey) (sect page : Nat) : Bool :=
  (List.range p.tensors.length).any fun t => p.spanReads (p.spanOf k) t && (p.tensors[t]?).any fun c =>
    decide (c.kind = 3 ∧ c.source = sect ∧ c.offset < (page + 1) * chunkSize ∧ page * chunkSize < c.offset + c.length)

/-- An instance's scene reads a page of the play's constants, a play page given. -/
def State.readsConst (s : State) (k : InstKey) (e : Nat × Nat) : Bool :=
  decide (k.play = e.1) && (s.play? k.play).any fun p => s.forme.consts.any fun c => decide (c.1 = e) && p.readsPage k c.2.1 c.2.2

/-- The pool's geometry: ordinal, heads, dimension and bytes per element (R196). -/
structure PoolGeom where
  ordinal : Nat
  heads : Nat
  d : Nat
  w : Nat
deriving DecidableEq, Repr

def poolGeom (t : Tensor) : PoolGeom :=
  { ordinal := t.source, heads := t.dims.getD 2 0, d := t.dims.getD 4 0, w := if t.format = fFp16 then 2 else 1 }

/-- Bytes of one leaf's page. -/
def PoolGeom.page (g : PoolGeom) : Nat := 2 * g.heads * 16 * g.d * g.w

/-- Bytes of a leaf of a play: a page of each of its pools (R196). -/
def leafBytes (p : Play) : Nat := ((p.tensors.filter fun t => t.kind = 6).map fun t => (poolGeom t).page).sum

/-- Galley frames of a partition: whole leaves of its largest kind in its leaf pages (R278). -/
def leafFrames (f : Forme) (p : Play) : Nat :=
  let bytes := ((f.plays.filter fun q => decide (q.part = p.part)).map leafBytes).foldl max 0
  if bytes = 0 then 0 else ((f.parts[p.part]?).map Partition.leaf).getD 0 * 0x200000 / bytes

/-- A leaf directory entry that names a galley frame: bit 31 with the frame in bits [23:0] (R250). -/
def galleyEntry (frame : Nat) : W32 := 0x80000000#32 ||| BitVec.ofNat 32 (frame % 2 ^ 24)

/-- The galley frame that an entry names. -/
def entryFrame (e : W32) : Nat := (e.extractLsb' 0 24).toNat

/-- Play address of a leaf's page in a pool, in the home or galley frame the run was admitted with (R250). -/
def leafAddr (i : Inst) (b : BufReq) (g : PoolGeom) (leaf : Nat) : Nat :=
  match i.frames.find? fun e => e.1 = leaf with
  | some e => b.dev + e.2 * g.page
  | none => b.play + leaf * g.page

/-- The leaf whose page a block belongs to, through the pools that a run names (R250). -/
def State.leafAt (s : State) (i : Inst) (a : Nat) : Option Nat :=
  (i.bufs.filter fun b => s.isPool i.key.play b.tensor).findSome? fun b =>
    match (s.play? i.key.play).bind fun p => p.tensors[b.tensor]? with
    | none => none
    | some t =>
      (s.mem.l2.filter fun e => decide (e.1.1 = i.key.play) && decide (pteDev e.2 = a / 2 ^ 21 * 2 ^ 21)).findSome? fun e =>
        let va := e.1.2 * 2 ^ 21 + a % 2 ^ 21
        let pg := (poolGeom t).page
        let frame := fun base => if pg ≠ 0 ∧ base ≤ va ∧ (va - base) / pg < t.dims.getD 0 0 then some ((va - base) / pg) else none
        match frame b.dev with
        | some g => match i.frames.find? fun x => x.2 = g with
          | some x => some x.1
          | none => frame b.play
        | none => frame b.play

/-- A step ends because a value of it is lost: it is formed again from its rows (R257). -/
def abandonPoisoned (st : Step) (s : State) : State :=
  let is := s.sched.insts.filter fun i => decide (i.key.play = st.play) && decide (i.key.run = st.no) && decide (i.kind = 2)
  let s := is.foldl (fun s i => killInst 12 i.key s) s
  let s := (is.filter fun i => decide (i.st ≠ .committed)).foldl (fun s i => abandonInst 12 i s) s
  abandonStep st s

/-- A committed tensor whose block is lost, by its play's kind (R257) (DEDUCED, assumption 68). -/
def loseValue (u : Byte) (v : Value) (s : State) : State :=
  match s.play? v.play with
  | none => s
  | some p =>
    if s.tensorKind v.play v.tensor = 5 then
      forgetValues (fun w => decide (w.play = v.play ∧ w.tensor = v.tensor ∧ w.cue ≤ v.cue) && (w.rep == v.rep)) s
    else if p.kind ≤ 1 then detect 0x0B u s
    else
      match s.cog.steps.find? fun st => st.play = v.play ∧ st.no = v.run with
      | some st => abandonPoisoned st s
      | none => forgetValues (fun w => decide (w = v)) s

/-- The unit that holds a device address, for a detection's record. -/
def holderId (a : Nat) : Byte :=
  match region a with
  | .stack n => unitId (.stack n)
  | .galley n => unitId (.sector n)
  | .case p => pressId p
  | .umem => unitId .umem
  | .unmapped => 0xFF

/-- The first poisoned block that bytes of a value lie in. -/
def State.lostPart (s : State) (v : Value) (off len : Nat) : Option Nat :=
  s.mem.poison.find? fun a => v.bufs.any fun b =>
    let lo := max off b.off
    let hi := min (off + len) (b.off + b.len)
    decide (lo < hi ∧ b.dev + (lo - b.off) < a + 64 ∧ a < b.dev + (hi - b.off))

/-- A scene reads a poisoned block: no data returns, and what the block holds decides the rest. -/
def poisonRead (u : Byte) (a : Nat) (k : InstKey) (s : State) : State :=
  match s.constPages a with
  | c :: cs =>
    (c :: cs).foldl (fun s e => queueRestore e.1 e.2 (killWhere 12 (fun i => s.readsConst i.key e) s)) (killInst 12 k s)
  | [] =>
    let leaf := (s.inst? k).bind fun i => s.leafAt i a
    let s := (s.sched.insts.filter fun i => decide (i.st = .running) && (s.ownBufs i).any fun b => bufHolds b a).foldl
      (fun s i => killInst 12 i.key s) s
    let s := (s.sched.values.filter fun v => v.bufs.any fun b => bufHolds b a).foldl (fun s v => loseValue u v s) s
    let s := match leaf with
      | some n => (match s.leaf? k.play n with
        | some l => setLeaf { l with poisoned := true } s
        | none => s)
      | none => s
    killInst 12 k s

/-! ### SEC-DED findings (R255, R256, R258) -/

/-- A protected store's counter, its unit and the detail of its events. -/
def storeOf (a : Nat) : Option (Fin 33 × Byte × Nat) :=
  match region a with
  | .case p => some (Fin.ofNat 33 p.1, pressId p, 0)
  | .galley n => some (Fin.ofNat 33 (16 + n.1), unitId (.sector n), 1)
  | .umem => some (32, unitId .umem, 2)
  | _ => none

/-- A single error is corrected in the read, counted and written back within 1 µs; event 0x0401 once per unit and cue. -/
def corrected (a : Nat) (s : State) : State :=
  match storeOf a with
  | none => s
  | some (i, u, d) =>
    let s := logOnce u.toNat 0x0401 u d (countCorrected i s)
    { s with mem := { s.mem with wbacks := (wordOf a, s.now) :: s.mem.wbacks.filter fun e => e.1 != wordOf a } }

/-- A double error: counted; the first six of a cue are logged, each with its block in the address ring. -/
def logDouble (a : Nat) (s : State) : State :=
  match storeOf a with
  | none => s
  | some (i, u, d) =>
    let s := countDouble i s
    let s := if s.mem.doublesCue < 6 then
        let s := logEvent 0x0402 u d s
        { s with mem := { s.mem with ring := ((s.log.head, blockOf a) :: s.mem.ring).take 64 } }
      else s
    { s with mem := { s.mem with doublesCue := s.mem.doublesCue + 1 } }

/-- What a double error does beside its event: the case's scene is killed and its press suspect, a galley block is poisoned and its reader
ends by R257, the understudy's output is invalid and its memory struck at the fourth within 1,000 cues (R255, R335, R359). -/
def doubleError (a : Nat) (reader : Option InstKey) (s : State) : State :=
  let s := logDouble a s
  match region a with
  | .case p =>
    let s := suspectUnit 0 (.press p) s
    match s.runOn p with
    | some i => killElsewhere 11 [p] i.key s
    | none => s
  | .galley n =>
    let s := poison a s
    match reader with
    | some k => poisonRead (unitId (.sector n)) (blockOf a) k s
    | none => s
  | .umem =>
    let s := detect 0x0C (unitId .umem) s
    let s := s.modUnit .umem fun r => { r with errors := within 1000 s.cue.count.toNat r.errors }
    if 4 ≤ (s.unit .umem).errors.length then strike 12 .umem s else s
  | _ => s

/-- What the reads of a micro-operation or part met. -/
def memErrs (es : List MemErr) (reader : Option InstKey) (s : State) : State :=
  es.foldl (fun s e => if e.double then doubleError e.addr reader s else corrected e.addr s) s

end Sys2Proof.Machine
end

