-- ==== Sys2Proof/Machine/Requests.lean ====
section
/-! DEFINITION. Requests to the fabric: the blocks that a case holds, the trackers of a press and of the stack controllers, the galley cache,
the regulators, demand misses and stream prefetchers (R230 to R233, R236, R239, R241 to R246, R280, R287, R288). -/

namespace Sys2Proof.Machine

/-! ### Translations and cached blocks of a press (R230, R231, R233) -/

/-- A press may use a play's page: its translation is cached, and no drop of an older one is pending (R230, R231). -/
def State.pageReady (s : State) (p : Fin 16) (play page : Nat) : Bool :=
  (s.cached? p play page).isSome && !(s.mem.drops.any fun d => decide (d.play = play) && decide (d.page = page))

/-- The stack that a device address lies in retrains, and its requests are held (R239). -/
def State.retraining (s : State) (dev : Nat) : Bool :=
  match region dev with
  | .stack n => decide (n ∈ s.mem.retrain)
  | _ => false

/-- Sets of eight blocks in the case lines from the split on. -/
def State.blockSets (s : State) (p : Fin 16) : Nat := 2 * (8192 - s.mem.split.get p)

/-- Blocks of a page that the case cache may hold. -/
def cacheable (e : W128) : Bool := pteRD e && !pteWR e && pteCA e

/-- A block enters the case cache or is used again; the set's least recently used block leaves for it (DESIGN CHOICE, assumption 127). -/
def useBlock (p : Fin 16) (d : Nat) (s : State) : State :=
  let sets := s.blockSets p
  if sets = 0 then s
  else
    let same := fun (b : Fin 16 × Nat) => decide (b.1 = p) && decide (b.2 / 64 % sets = d / 64 % sets)
    { s with mem := { s.mem with
        blocks := (p, d) :: ((s.mem.blocks.filter fun b => same b && decide (b.2 ≠ d)).take 7) ++ s.mem.blocks.filter fun b => !same b } }

/-- The split of a press changes, which drops every cached block (R232). -/
def setSplit (p : Fin 16) (n : Nat) (s : State) : State :=
  if s.mem.split.get p = n then s
  else { s with mem := { s.mem with split := vmod s.mem.split p fun _ => n, blocks := s.mem.blocks.filter fun b => b.1 != p } }

/-! ### Trackers of a press (R241) -/

/-- Trackers of a press that pools hold: 0 demand, 1 and 2 its compositors, 3 prefetch. -/
def State.trackersOf (s : State) (p : Fin 16) (f : Nat → Bool) : Nat :=
  (s.mem.trackers.filter fun t => decide (t.press = some p) && t.stack.isNone && f t.pool).length

/-- Trackers free to the compositors: 1,280 of theirs, with 256 left for demand misses. -/
def State.compRoom (s : State) (p : Fin 16) : Nat :=
  min (1280 - s.trackersOf p fun n => decide (n = 1 ∨ n = 2))
    (min (1280 - s.trackersOf p fun n => decide (n ≠ 0)) (1536 - s.trackersOf p fun _ => true))

/-- A prefetch tracker is free. -/
def State.prefetchRoom (s : State) (p : Fin 16) : Bool :=
  decide ((s.trackersOf p fun n => decide (n = 3)) < 512) && decide ((s.trackersOf p fun n => decide (n ≠ 0)) < 1280) &&
    decide ((s.trackersOf p fun _ => true) < 1536)

/-- A request for the block is outstanding on the press. -/
def State.requested (s : State) (p : Fin 16) (play addr : Nat) : Bool :=
  s.mem.trackers.any fun t => decide (t.press = some p) && decide (t.play = play) && decide (t.addr = addr) && !t.killed && !t.drop

/-! ### Regulators and controller trackers (R242, R280) -/

/-- A partition with a regulator: a cognition or other one. -/
def State.regulated (s : State) (part : Nat) : Bool := (s.partCfg part).any fun c => decide (2 ≤ c.kind)

def State.bucket (s : State) (part : Nat) : Int := if h : part < 8 then (s.part.get ⟨part, h⟩).bucket else 0
def State.owed (s : State) (part : Nat) : List Owed := if h : part < 8 then (s.part.get ⟨part, h⟩).owed else []

/-- The controller of a stack has a tracker left within the partition's cap. -/
def State.ctlRoom (s : State) (part dev : Nat) : Bool :=
  match region dev with
  | .stack n => decide ((s.mem.trackers.filter fun t => decide (t.stack = some n) && decide (t.part = part)).length <
      ((s.partCfg part).map Partition.trackers).getD 0)
  | _ => true

/-- A waiting request may pass: the bucket is above zero. -/
def State.mayPass (s : State) (part : Nat) : Bool := decide (0 < s.bucket part)

/-- A compositor (pools 1 and 2) completes a block (R244). -/
def compBlock (p : Fin 16) (pool : Nat) (s : State) : State :=
  if h : pool - 1 < 2 ∧ pool ≠ 0 then s.modPress p fun r => { r with compAt := vmod r.compAt ⟨pool - 1, h.1⟩ fun _ => s.now } else s

/-- A request that has passed its regulator takes a tracker of its stack's controller within the partition's cap, or waits on for one. -/
def takeCtl (s : State) (t : Tracker) : State :=
  match region t.dev with
  | .stack n =>
    if s.ctlRoom t.part t.dev then
      { s with mem := { s.mem with
          nextId := s.mem.nextId + 1
          trackers := lmod (fun x => x.id = t.id) (fun x => { x with noCtl := false }) s.mem.trackers ++
            [{ t with id := s.mem.nextId, stack := some n, noCtl := false }] } }
    else s
  | _ => s

/-- The requests of a partition that wait for a controller tracker take those that are free, in the order in which they passed. -/
def takeCtls (part : Nat) (s : State) : State :=
  (s.mem.trackers.filter fun t => t.noCtl && decide (t.part = part)).foldl takeCtl s

/-- A request passes: its token and the three further ones of a line it fills; the 20 µs of its tracker run from here (R243), and it needs a
tracker of the stack controller next. -/
def passOne (part : Nat) (o : Owed) (s : State) : State :=
  let s := s.modPart part fun r => { r with bucket := r.bucket - 1 - (if o.fill then 3 else 0) }
  takeCtls part { s with mem := { s.mem with
    trackers := lmod (fun t => t.id = o.id) (fun t => { t with waits := false, noCtl := true, at_ := s.now }) s.mem.trackers } }

/-- Waiting requests pass in arrival order; the first that may not holds those behind it. -/
def passOwed (part : Nat) : List Owed → State → State
  | [], s => s.modPart part fun r => { r with owed := [] }
  | o :: l, s => if s.mayPass part then passOwed part l (passOne part o s) else s.modPart part fun r => { r with owed := o :: l }

/-- The requests of a partition go on as far as they may. -/
def passPart (part : Nat) (s : State) : State := passOwed part (s.owed part) s

/-- A request reaches its partition's regulator. -/
def queueReq (part : Nat) (o : Owed) (s : State) : State := passOwed part (s.owed part ++ [o]) s

/-- A request takes a tracker; one to a stack page goes by its partition's regulator. -/
def request (pool : Nat) (p : Fin 16) (part play addr : Nat) (write fill : Bool) (s : State) : State :=
  let dev := (s.translate play addr).getD 0
  let stk := match region dev with
    | .stack _ => s.regulated part
    | _ => false
  let id := s.mem.nextId
  let s := { s with mem := { s.mem with
    nextId := id + 1
    trackers := s.mem.trackers ++ [{ id := id, press := some p, stack := none, pool := pool, part := part, play := play, addr := addr
                                     dev := dev, write := write, waits := stk, killed := false, reissued := false, drop := false, at_ := s.now }] } }
  if stk then queueReq part { press := p, id := id, dev := dev, fill := fill } s else s

/-! ### The galley cache (R236) -/

/-- Sets of sixteen 256 B lines in a partition's galley cache pages. -/
def State.lineSets (s : State) (part : Nat) : Nat := 512 * (s.mem.gpages.filter fun e => e.1 = part).length

def State.lineHeld (s : State) (part d : Nat) : Bool := s.mem.glines.any fun e => decide (e = (part, d / 256))

/-- A line enters a partition's cache or is used again; the set's least recently used line leaves for it (DESIGN CHOICE, assumption 64). -/
def useLine (part d : Nat) (s : State) : State :=
  let sets := s.lineSets part
  if sets = 0 then s
  else
    let same := fun (e : Nat × Nat) => decide (e.1 = part) && decide (e.2 % sets = d / 256 % sets)
    { s with mem := { s.mem with
        glines := (part, d / 256) :: ((s.mem.glines.filter fun e => same e && decide (e.2 ≠ d / 256)).take 15) ++ s.mem.glines.filter fun e => !same e } }

/-! ### Blocks on the fabric (R287, R288) -/

def tallyOn (p : Fin 16) (f : Tally → Tally) (s : State) : State := s.modPress p fun r => { r with tally := f r.tally }

/-- One 64 B block that a press moves for its run: its bytes and energy, its line in the galley cache, and its request to the galley or the
stacks. -/
def moveBlock (pool : Nat) (p : Fin 16) (part play : Nat) (write : Bool) (addr : Nat) (s : State) : State :=
  let dev := (s.translate play addr).getD 0
  let s := tallyOn p (fun t => { t with fabric := t.fabric + 1 }) s
  match region dev with
  | .galley _ => request pool p part play addr write false (tallyOn p (fun t => { t with galley := t.galley + 1 }) s)
  | .stack _ =>
    let hit := s.lineHeld part dev
    let fill := !hit && !write && (s.pte? play (addr / 2 ^ 21)).any pteCA && decide (s.lineSets part ≠ 0)
    let s := if hit || fill then useLine part dev s else s
    let s := tallyOn p (fun t =>
      if write then { t with stack := t.stack + 1, galley := t.galley + (if hit then 1 else 0) }
      else if hit then { t with galley := t.galley + 1 }
      else if fill then { t with stack := t.stack + 4, galley := t.galley + 4 }
      else { t with stack := t.stack + 1 }) s
    request pool p part play addr write fill s
  | _ => s

/-- The blocks that the vector unit (0) or a compositor (1, 2) has yet to ask for. -/
def setLeft (p : Fin 16) (u : Fin 3) (l : List (Nat × Bool)) (s : State) : State := s.modPress p fun r => { r with left := vmod r.left u fun _ => l }

/-- A tracker is free to the vector unit or a compositor. -/
def State.unitRoom (s : State) (p : Fin 16) (u : Fin 3) : Bool :=
  if u = 0 then decide ((s.trackersOf p fun _ => true) < 1536) else decide (0 < s.compRoom p)

/-- Blocks are asked for in order as long as a tracker is free; the rest wait for one (R241) (DESIGN CHOICE, assumption 66). -/
def askBlocks (p : Fin 16) (part play : Nat) (u : Fin 3) : List (Nat × Bool) → State → State
  | [], s => setLeft p u [] s
  | b :: l, s => if s.unitRoom p u then askBlocks p part play u l (moveBlock u.1 p part play b.2 b.1 s) else setLeft p u (b :: l) s

/-- The vector unit or a compositor of a press still has a block to ask for or to hear of. -/
def State.moving (s : State) (p : Fin 16) (u : Fin 3) : Bool :=
  decide ((s.press.get p).left.get u ≠ []) || s.mem.trackers.any fun t => decide (t.press = some p) && decide (t.pool = u.1) && !t.killed

/-! ### Streams (R245, R246) -/

/-- A demand access lies on a prefetcher's stream: a whole number of strides from its place, within the 16 that it may be ahead. -/
def Prefetcher.onStream (e : Prefetcher) (play addr : Nat) : Bool :=
  decide (e.play = play) && decide (e.stride ≠ 0) && decide (((addr : Int) - e.next) % e.stride = 0) &&
    decide (((addr : Int) - e.next).natAbs ≤ 17 * e.stride.natAbs)

/-- The stream after a demand access on it: how far it is ahead, and on again once the demand reaches the page at which it stopped. -/
def Prefetcher.demand (e : Prefetcher) (addr : Nat) : Prefetcher :=
  let k := (e.next - (addr : Int)) / e.stride
  if k ≤ 0 then { e with misses := 0, ahead := 0, stopped := false, next := ((addr : Int) + e.stride).toNat }
  else { e with misses := 0, ahead := (k - 1).toNat, stopped := e.stopped && decide (addr / 2 ^ 21 ≠ e.next / 2 ^ 21) }

/-- A stagehand's demand access moves its streams on, the most recently used first; four misses in a row off a stream end it. -/
def touchStreams (p : Fin 16) (h : Fin 8) (play addr : Nat) (miss : Bool) (s : State) : State :=
  let mine := fun (e : Fin 16 × Prefetcher) => decide (e.1 = p) && decide (e.2.hand = h)
  let on := fun (e : Fin 16 × Prefetcher) => mine e && e.2.onStream play addr
  let used := (s.mem.prefetch.filter on).map fun e => (e.1, e.2.demand addr)
  let rest := (s.mem.prefetch.filter fun e => !on e).filterMap fun e =>
    if !(mine e && miss) then some e
    else if 4 ≤ e.2.misses + 1 then none
    else some (e.1, { e.2 with misses := e.2.misses + 1 })
  { s with mem := { s.mem with prefetch := used ++ rest } }

/-- Two misses of a stagehand in one page at a distance of 64 to 4,096 bytes, a multiple of 64, allocate a prefetcher: a free number, or the
one least recently used. -/
def allocPrefetch (p : Fin 16) (h : Fin 8) (play addr : Nat) (s : State) : State :=
  match ((s.press.get p).hands.get h).miss with
  | none => s
  | some (q, a) =>
    let d : Int := (addr : Int) - a
    if q ≠ play ∨ a / 2 ^ 21 ≠ addr / 2 ^ 21 ∨ d.natAbs < 64 ∨ 4096 < d.natAbs ∨ d % 64 ≠ 0 then s
    else if s.mem.prefetch.any fun e => decide (e.1 = p) && decide (e.2.hand = h) && decide (e.2.stride = d) && e.2.onStream play addr then s
    else
      let mine := (s.mem.prefetch.filter fun e => e.1 = p).map Prod.snd
      let idx := ((List.finRange 32).find? fun k => !(mine.any fun e => e.idx = k)).getD ((mine.getLast?.map Prefetcher.idx).getD 0)
      let e : Prefetcher :=
        { idx := idx, hand := h, play := play, next := ((addr : Int) + d).toNat, stride := d, ahead := 0, misses := 0, stopped := false }
      { s with mem := { s.mem with prefetch := (p, e) :: s.mem.prefetch.filter fun x => !(decide (x.1 = p) && decide (x.2.idx = idx)) } }

/-! ### Parity of the lookup stores (R255) -/

/-- Entries whose parity fails are treated as misses, so what they held is fetched again (R255) (DEDUCED, assumption 138). -/
def tagErrs (p : Fin 16) (es : List TagErr) (s : State) : State :=
  { s with mem := { s.mem with
      tcache := s.mem.tcache.filter fun e => !(decide (e.1 = p) && decide (TagErr.page e.2.play e.2.page ∈ es))
      blocks := s.mem.blocks.filter fun b => !(decide (b.1 = p) && decide (TagErr.block b.2 ∈ es))
      glines := s.mem.glines.filter fun e => decide (TagErr.line e.1 e.2 ∉ es)
      trackers := lmod (fun t => decide (t.press = some p ∧ TagErr.request t.play t.addr ∈ es)) (fun t => { t with drop := true }) s.mem.trackers } }

/-! ### Demand accesses (R233, R241) -/

/-- A stagehand waits from now on, or waits no longer. -/
def waitHand (p : Fin 16) (h : Fin 8) (w : WaitReason) (s : State) : State :=
  s.modPress p fun r => { r with hands := vmod r.hands h fun x => { x with wait := w, since := s.pressCycle } }

/-- A stagehand may read a block: its case holds it, or it has been received for the waiting micro-operation. -/
def State.blockHere (s : State) (p : Fin 16) (h : Fin 8) (play addr : Nat) : Bool :=
  decide ((play, addr) ∈ ((s.press.get p).hands.get h).got) || s.mem.blocks.any fun b => decide (some b = (s.translate play addr).map fun d => (p, d))

/-- A demand access that finds its block. -/
def demandHit (p : Fin 16) (h : Fin 8) (play addr : Nat) (s : State) : State :=
  let s := touchStreams p h play addr false s
  match s.translate play addr with
  | some d => if s.mem.blocks.any (fun b => decide (b = (p, d))) then useBlock p d s else s
  | none => s

/-- A stagehand's demand miss: it joins an outstanding request or takes a tracker, or waits for one, and is then tried anew; its streams see one
miss (R245). -/
def demandMiss (p : Fin 16) (h : Fin 8) (i : Inst) (addr : Nat) (s : State) : State :=
  let play := i.key.play
  let a := blockOf addr
  let miss := fun (s : State) => (allocPrefetch p h play a (touchStreams p h play a true s)).modPress p fun r => { r with
    hands := vmod r.hands h fun x => { x with wait := .cacheMiss, miss := some (play, a) } }
  if s.requested p play a then miss s
  else if 1536 ≤ s.trackersOf p fun _ => true then waitHand p h .trackers s
  else moveBlock 0 p i.part play false a (miss s)

end Sys2Proof.Machine
end

