-- ==== Sys2Proof/Machine/Vector.lean ====
section
/-! DEFINITION. The vector unit's arrays and its elementwise, reducing, normalising and data-moving operators, conversions, RAW words and
attention (R117, R118, R140 to R143, R161 to R165, R220). -/

namespace Sys2Proof.Machine

/-! ### Arrays (R142, R161) -/

/-- An operand or result: a format and its elements' bits; a block-scaled element carries its scale byte above its bits. -/
structure VArr where
  fmt : Nat
  bits : List Nat
deriving DecidableEq, Repr

/-- The exact value of an element; the scale of a block-scaled one stands from bit 8 up. -/
def elemExact (f b : Nat) : Val :=
  if isMx f then (if b / 256 = 255 then .nan else (elemVal f (b % 256)).scale ((b / 256 : Nat) - 127)) else elemVal f b

/-- Elements as FP32 (R142). -/
def VArr.f (a : VArr) : List W32 := a.bits.map fun b => f32of (elemExact a.fmt b)

/-- Elements as integers. -/
def VArr.i (a : VArr) : List Int := a.bits.map fun b => signedOf (elemWidth a.fmt) b

def allInt (as : List VArr) : Bool := as.all fun a => isInt a.fmt

/-- Magnitude bits of the largest element of a block-scaled format: 6 and 7.5. -/
def mxLargest (f : Nat) : Nat := if f = fMx4 then 7 else 31
def mxFloat (f : Nat) : FloatFmt := if f = fMx4 then ffE2M1 else ffE2M3

/-- One block of FP32 values in a block-scaled format (R142). -/
def mxBlock (f : Nat) (vs : List W32) : List Nat :=
  let xs := vs.map f32val
  if xs.any fun v => match v with
    | .num .. => false
    | _ => true
  then vs.map fun _ => 255 * 256
  else
    let tops := xs.filterMap fun v => match v with
      | .num _ m e => if m = 0 then none else some ((bitLen m : Int) - 1 + e)
      | _ => none
    let x : Int := match tops with
      | [] => -127
      | t :: ts => max (-127) (min 127 (ts.foldl max t - 2))
    xs.map fun v => (mxFloat f).encodeSat (mxLargest f) 0 (v.scale (-x)) + (x + 127).toNat * 256

/-- FP32 results in an output format. -/
def ofF (f : Nat) (vs : List W32) : VArr :=
  { fmt := f, bits := if isMx f then (partsOf 32 vs).flatMap (mxBlock f) else vs.map fun v => encodeVal f (f32val v) }

/-- Integer results in an output format: R142 has no row from INT32 to a floating format but FP32, by way of which the others go (DEDUCED,
assumption 147). -/
def ofI (f : Nat) (xs : List Int) : VArr :=
  if isInt f then { fmt := f, bits := xs.map fun x => bitsOf (elemWidth f) (clampInt (elemWidth f) x) } else ofF f (xs.map f32int)

/-- Elements moved in an output format: integers as they are, others by way of FP32, which makes a NaN canonical (R142, R161). -/
def ofBits (f : Nat) (a : VArr) (bits : List Nat) : VArr :=
  if isInt a.fmt && decide (a.fmt = f) then { fmt := f, bits := bits }
  else if isInt a.fmt then ofI f (VArr.i { a with bits := bits })
  else ofF f (VArr.f { a with bits := bits })

def at0 {α : Type} (l : List α) (i : Nat) (d : α) : α := l.getD i d

/-! ### Elementwise operators (R162, R165) -/

/-- The index of an operand's element for an output index: sizes align at the last dimension, and a size of 1 repeats (R162). -/
def bcastIndex : List Nat → List Nat → Nat → Nat × Nat
  | o :: os, d :: ds, i =>
    let (k, stride) := bcastIndex os ds i
    let n := os.foldl (· * ·) 1
    (k + (if d = 1 then 0 else i / n % o * stride), stride * d)
  | _, _, _ => (0, 1)

def padShape (n : Nat) (d : List Nat) : List Nat := List.replicate (n - d.length) 1 ++ d

/-- The common shape of the operands. -/
def outShape (shapes : List (List Nat)) : List Nat :=
  let n := (shapes.map List.length).foldl max 0
  shapes.foldl (fun o d => (o.zip (padShape n d)).map fun x => max x.1 x.2) (List.replicate n 1)

/-- Spread each operand over the common shape; without shapes they stand as they are. -/
def bcast (shapes : List (List Nat)) (as : List VArr) : List VArr :=
  if shapes = [] then as
  else
    let o := outShape shapes
    let n := o.foldl (· * ·) 1
    (as.zip shapes).map fun x => { x.1 with
      bits := (List.range n).map fun i => at0 x.1.bits (bcastIndex o (padShape o.length x.2) i).1 0 }

def f32max (a b : W32) : W32 := if f32isNan a || f32isNan b then f32nan else if f32lt a b then b else a
def f32min (a b : W32) : W32 := if f32isNan a || f32isNan b then f32nan else if f32lt b a then b else a
def satI32 (x : Int) : Int := clampInt 32 x

def f32one : W32 := 0x3F800000#32
def f32two : W32 := 0x40000000#32
def f32negZero : W32 := 0x80000000#32
def f32inf : W32 := 0x7F800000#32
def f32ninf : W32 := 0xFF800000#32

def f32abs (x : W32) : W32 := if f32isNan x then f32nan else x &&& 0x7FFFFFFF#32
def f32minus (x : W32) : W32 := if f32isNan x then f32nan else f32neg x
/-- Ceiling and floor of a clamp's bounds as INT32. -/
def f32ceil (x : W32) : Int := match f32val x with
  | .inf n => if n then -2 ^ 31 else 2 ^ 31 - 1
  | v => satI32 (-(Val.floor (match v with
    | .num n m e => .num (!n) m e
    | w => w)))
def f32floor (x : W32) : Int := match f32val x with
  | .inf n => if n then -2 ^ 31 else 2 ^ 31 - 1
  | v => satI32 v.floor

def f32sigmoid (x : W32) : W32 := f32recip (f32add f32one (f32exp (f32minus x)))

/-- ADD, SUB, MUL. -/
def arithF (mode : Nat) (a b : W32) : W32 := if mode = 0 then f32add a b else if mode = 1 then f32sub a b else f32mul a b
def arithI (mode : Nat) (a b : Int) : Int := satI32 (if mode = 0 then a + b else if mode = 1 then a - b else a * b)

/-- ABS, NEG, RELU, CLAMP (DEDUCED, assumption 74). -/
def unaryF (mode : Nat) (lo hi x : W32) : W32 :=
  if mode = 0 then f32abs x
  else if mode = 1 then f32minus x
  else if mode = 2 then f32max x 0
  else f32min (f32max x lo) hi

def unaryI (mode : Nat) (lo hi : W32) (x : Int) : Int :=
  satI32 (if mode = 0 then x.natAbs else if mode = 1 then -x else if mode = 2 then max x 0 else min (max x (f32ceil lo)) (f32floor hi))

/-- RECIP, RSQRT, EXP, LOG. -/
def specialF (mode : Nat) (x : W32) : W32 :=
  if mode = 0 then f32recip x else if mode = 1 then f32rsqrt x else if mode = 2 then f32exp x else f32log x

def compareF (mode : Nat) (a b : W32) : Nat :=
  if (if mode = 0 then f32eq a b else if mode = 1 then f32lt a b else f32le a b) then 1 else 0
def compareI (mode : Nat) (a b : Int) : Nat :=
  if (if mode = 0 then decide (a = b) else if mode = 1 then decide (a < b) else decide (a ≤ b)) then 1 else 0

/-- One- and two-operand forms over arrays. -/
def map1 (out : Nat) (f : W32 → W32) (as : List VArr) : VArr := ofF out ((as.headD ⟨8, []⟩).f.map f)
def map2 (out : Nat) (f : W32 → W32 → W32) (a b : VArr) : VArr := ofF out (List.zipWith f a.f b.f)
def map2i (out : Nat) (f : Int → Int → Int) (a b : VArr) : VArr := ofI out (List.zipWith f a.i b.i)

/-! ### Reductions (R118, R163, R164) -/

def pairUp {α : Type} (op : α → α → α) : List α → List α
  | a :: b :: l => op a b :: pairUp op l
  | l => l

/-- The tree of R118 over a list padded with the identity to a power of two. -/
def treeReduce {α : Type} (op : α → α → α) (e : α) (xs : List α) : α :=
  let k := bitLen (xs.length - 1)
  ((List.range k).foldl (fun l _ => pairUp op l) (xs ++ List.replicate (2 ^ k - xs.length) e)).headD e

/-- The greater of two keys: a NaN never wins, equal keys keep the first (R164). -/
def keyMax (a b : W32) : W32 := if f32isNan a then (if f32isNan b then f32nan else b) else if f32lt a b then b else a
def keyMin (a b : W32) : W32 := if f32isNan a then (if f32isNan b then f32nan else b) else if f32lt b a then b else a

def sumF (xs : List W32) : W32 := treeReduce f32add f32negZero xs
def maxF (xs : List W32) : W32 := treeReduce keyMax f32ninf xs
def minF (xs : List W32) : W32 := treeReduce keyMin f32inf xs
def lenF (xs : List W32) : W32 := f32int xs.length

/-- REDUCE of one run. -/
def reduceF (mode : Nat) (xs : List W32) : W32 :=
  if mode = 0 then sumF xs else if mode = 1 then maxF xs else if mode = 2 then minF xs else f32mul (sumF xs) (f32recip (lenF xs))

def softmaxRow (xs : List W32) : List W32 :=
  if xs.all fun x => decide (x = f32ninf) then xs.map fun _ => 0
  else
    let m := maxF xs
    let es := xs.map fun x => f32exp (f32sub x m)
    let r := f32recip (sumF es)
    es.map fun e => f32mul e r

def layerNormRow (eps : W32) (g b xs : List W32) : List W32 :=
  let rn := f32recip (lenF xs)
  let mu := f32mul (sumF xs) rn
  let ds := xs.map fun x => f32sub x mu
  let v := f32mul (sumF (ds.map fun d => f32mul d d)) rn
  let r := f32rsqrt (f32add v eps)
  (List.range xs.length).map fun i => f32fma (f32mul (at0 ds i 0) r) (at0 g i 0) (at0 b i 0)

def rmsNormRow (eps : W32) (g xs : List W32) : List W32 :=
  let v := f32mul (sumF (xs.map fun x => f32mul x x)) (f32recip (lenF xs))
  let r := f32rsqrt (f32add v eps)
  (List.range xs.length).map fun i => f32mul (f32mul (at0 xs i 0) r) (at0 g i 0)

/-! ### Data movement (R163, R165) -/

def sizeOf' (d : List Nat) : Nat := d.foldl (· * ·) 1

/-- Coordinates of a flat index, outermost first. -/
def coords : List Nat → Nat → List Nat
  | [], _ => []
  | d :: ds, i => i / sizeOf' ds % d :: coords ds i

/-- Flat index of coordinates. -/
def flatIndex : List Nat → List Nat → Nat
  | d :: ds, c :: cs => c % d * sizeOf' ds + flatIndex ds cs
  | _, _ => 0

/-- TRANSPOSE: output axis k is input axis perm[k]. -/
def transposeBits (dims perm : List Nat) (xs : List Nat) : List Nat :=
  let od := perm.map fun a => at0 dims a 1
  (List.range (sizeOf' od)).map fun i =>
    let c := coords od i
    let src := (List.range dims.length).map fun a => at0 c (perm.idxOf a) 0
    at0 xs (flatIndex dims src) 0

/-- SLICE: start and end of each axis, whole where it is not listed. -/
def sliceBits (dims axes bounds : List Nat) (xs : List Nat) : List Nat :=
  let lim := (List.range dims.length).map fun a =>
    match axes.idxOf? a with
    | some k => (at0 bounds (2 * k) 0, at0 bounds (2 * k + 1) 0)
    | none => (0, at0 dims a 0)
  let od := lim.map fun x => x.2 - x.1
  (List.range (sizeOf' od)).map fun i =>
    at0 xs (flatIndex dims ((coords od i).zip lim |>.map fun x => x.1 + x.2.1)) 0

/-- CONCAT: each input is `outer` runs; the output joins the inputs' runs in order. -/
def concatBits (outer : Nat) (as : List (List Nat)) : List Nat :=
  (List.range outer).flatMap fun o => as.flatMap fun a => (a.drop (o * (a.length / outer))).take (a.length / outer)

/-- An index value that lies on an axis. -/
def onAxis (n : Nat) (i : Int) : Option Nat := if 0 ≤ i ∧ i < n then some i.toNat else none

/-- GATHER of rows along an axis; an index outside it reads zero. -/
def gatherBits (outer axis inner : Nat) (xs : List Nat) (idx : List Int) : List Nat :=
  (List.range outer).flatMap fun o => idx.flatMap fun i => (List.range inner).map fun k =>
    match onAxis axis i with
    | some j => at0 xs ((o * axis + j) * inner + k) 0
    | none => 0

/-- SCATTER: for one output element, the updates that fall on it in ascending flat index. -/
def scatterHits (axis inner : Nat) (idx : List Int) (o j k : Nat) : List Nat :=
  (List.range idx.length).filterMap fun u => if onAxis axis (at0 idx u (-1)) = some j then some ((o * idx.length + u) * inner + k) else none

/-! ### ROTARY, attention (R165, R220) -/

/-- One row of ROTARY at a position. -/
def rotaryRow (d : Nat) (table : List W32) (pos : Int) (xs : List W32) : List W32 :=
  (List.range (d / 2)).flatMap fun i =>
    let at_ := fun (k : Nat) => if 0 ≤ pos then at0 table ((pos.toNat * (d / 2) + i) * 2 + k) 0 else 0
    let a := at0 xs (2 * i) 0
    let b := at0 xs (2 * i + 1) 0
    [f32sub (f32mul a (at_ 0)) (f32mul b (at_ 1)), f32add (f32mul a (at_ 1)) (f32mul b (at_ 0))]

/-- The exact sum of products, rounded once by R139: a special operand gives NaN, a zero sum +0. -/
def exactDot (a b : List Val) : W32 :=
  let fin := fun (v : Val) => match v with
    | .num .. => true
    | _ => false
  if (a.zip b).any fun x => !fin x.1 || !fin x.2 then f32nan
  else
    match (a.zip b).foldl (fun (s : Val) x => s.add (x.1.mul x.2)) (Val.num false 0 0) with
    | .num n m e => f32of (.num (n && decide (m ≠ 0)) m e)
    | v => f32of v

/-- One query head over its positions (R220). -/
def attentionRow (d : Nat) (sigma : W32) (q : VArr) (ks vs : VArr) (len : Nat) : List W32 :=
  let qv := q.bits.map (elemExact q.fmt)
  let kv := ks.bits.map (elemExact ks.fmt)
  let s := (List.range len).map fun j => f32mul (exactDot qv ((kv.drop (j * d)).take d)) sigma
  let m := maxF s
  let e := s.map fun x => f32exp (f32sub x m)
  let r := f32recip (sumF e)
  let vf := vs.f
  (List.range d).map fun k => f32mul (sumF ((List.range len).map fun j => f32mul (at0 e j 0) (at0 vf (j * d + k) 0))) r

/-! ### RAW words (R140, R141) -/

def rawWin (w : Nat) : Int := signedOf 10 (w / 2 ^ 112 % 1024)
def rawAcc (w : Nat) : Acc := { val := signedOf 104 w, nan := decide (w / 2 ^ 104 % 2 = 1), ovf := decide (w / 2 ^ 105 % 2 = 1) }

/-- The exact sum of two RAW words of one window exponent. -/
def rawSum (a b : Nat) : Nat := drainCol fRaw (rawWin a) ((rawAcc a).add (rawAcc b))

/-- A RAW word rounded to a format, its bias taken once: INT32 for an integer group, FP32 otherwise. -/
def rawOut (out : Nat) (bias : Option (Bool × Nat)) (w : Nat) : Nat :=
  let x := rawAcc w
  let x := match bias with
    | some (int, b) => x.add (biasAcc (if int then .integer else .exact) (rawWin w) (BitVec.ofNat 32 b))
    | none => x
  drainCol out (rawWin w) x

/-! ### The halftone codec (R191 to R194) -/

/-- Bits per code, h and the magnitudes of a rate. -/
def halftone (rate : Nat) : Nat × Int × List Nat :=
  if rate = 1 then (8, 6, List.range 128)
  else if rate = 2 then (6, 4, List.range 32)
  else if rate = 3 then (4, 3, [0, 1, 2, 3, 5, 7, 10, 14])
  else (3, 2, [0, 1, 3, 6])

/-- Twice the distance of num/den from a magnitude. -/
def htDist (num den mag : Nat) : Nat := ((num : Int) - (mag * den : Nat)).natAbs

/-- Place of the magnitude nearest num/den; a tie takes the smaller. -/
def htNearest (mags : List Nat) (num den : Nat) : Nat :=
  ((List.range mags.length).foldl (fun best i =>
    if htDist num den (at0 mags i 0) < htDist num den (at0 mags best 0) then i else best) 0)

/-- A code from its sign and the place of its magnitude. -/
def htCode (rate : Nat) (neg : Bool) (i : Nat) : Nat :=
  let (b, _, mags) := halftone rate
  if rate ≤ 2 then bitsOf b (signed neg (at0 mags i 0)) else i + (if neg && decide (i ≠ 0) then 2 ^ (b - 1) else 0)

/-- The level of a code. -/
def htLevel (rate code : Nat) : Int :=
  let (b, _, mags) := halftone rate
  if rate ≤ 2 then signedOf b code
  else signed (decide (code / 2 ^ (b - 1) % 2 = 1)) (at0 mags (code % 2 ^ (b - 1)) 0)

/-- One block of 64 values: its codes as a little-endian bit string and its scale byte. -/
def htPackBlock (rate : Nat) (vs : List W32) : List Nat :=
  let (b, h, mags) := halftone rate
  let xs := vs.map f32val
  let special := xs.any fun v => match v with
    | .num .. => false
    | _ => true
  let tops := xs.filterMap fun v => match v with
    | .num _ m e => if m = 0 then none else some ((bitLen m : Int) - 1 + e)
    | _ => none
  let bytes := fun (cs : List Nat) (scale : Nat) =>
    (natLe (8 * b) ((cs.zipIdx.map fun x => x.1 * 2 ^ (b * x.2)).sum)).map BitVec.toNat ++ [scale]
  if special then bytes (vs.map fun _ => 0) 255
  else
    match tops with
    | [] => bytes (vs.map fun _ => 0) 0
    | t :: ts =>
      let x : Int := max (-127) (min 127 (ts.foldl max t - h))
      bytes (xs.map fun v => match v with
        | .num n m e =>
          let k := e - x
          htCode rate n (if 0 ≤ k then htNearest mags (m * 2 ^ k.toNat) 1 else htNearest mags m (2 ^ (-k).toNat))
        | _ => 0) (x + 127).toNat

/-- One packed block's 64 values. -/
def htUnpackBlock (rate : Nat) (bs : List Nat) : List W32 :=
  let (b, _, _) := halftone rate
  let v := leNat ((bs.take (8 * b)).map fun x => BitVec.ofNat 8 x)
  let scale := at0 bs (8 * b) 0
  (List.range 64).map fun i =>
    if scale = 255 then f32nan
    else
      let l := htLevel rate (v / 2 ^ (b * i) % 2 ^ b)
      f32of (.num (decide (l < 0)) l.natAbs ((scale : Int) - 127))

end Sys2Proof.Machine
end

