-- ==== Sys2Proof/Machine/Choose.lean ====
section
/-! DEFINITION. Operators that choose: sorting, TOPK, NMS, experts, sampling, and the window, image and point operators of the vector unit
(R164, R166 to R169, R177, R186 to R190). -/

namespace Sys2Proof.Machine

/-! ### Order (R164) -/

/-- Key `a` at index `i` comes before key `b` at index `j`: a NaN after every other, equal keys by index. -/
def keyBefore (desc : Bool) (a b : W32 × Nat) : Bool :=
  let tie := decide (a.2 < b.2)
  if f32isNan a.1 then f32isNan b.1 && tie
  else if f32isNan b.1 then true
  else if desc then f32lt b.1 a.1 || (f32eq a.1 b.1 && tie) else f32lt a.1 b.1 || (f32eq a.1 b.1 && tie)

def insertKey (desc : Bool) (x : W32 × Nat) : List (W32 × Nat) → List (W32 × Nat)
  | [] => [x]
  | y :: ys => if keyBefore desc x y then x :: y :: ys else y :: insertKey desc x ys

/-- The keys of a row with their indices, in order. -/
def sortKeys (desc : Bool) (xs : List W32) : List (W32 × Nat) := xs.zipIdx.foldr (insertKey desc) []

/-- TOPK of each row: the chosen flat places within the row. -/
def topRow (k : Nat) (desc : Bool) (xs : List W32) : List Nat := ((sortKeys desc xs).take k).map Prod.snd

/-! ### NMS (R166) -/

def boxArea (b : List W32) : W32 :=
  f32mul (f32max 0 (f32sub (at0 b 3 0) (at0 b 1 0))) (f32max 0 (f32sub (at0 b 2 0) (at0 b 0 0)))

/-- IoU of boxes (y0, x0, y1, x1), each operation rounded. -/
def iou (a b : List W32) : W32 :=
  let iw := f32max 0 (f32sub (f32min (at0 a 3 0) (at0 b 3 0)) (f32max (at0 a 1 0) (at0 b 1 0)))
  let ih := f32max 0 (f32sub (f32min (at0 a 2 0) (at0 b 2 0)) (f32max (at0 a 0 0) (at0 b 0 0)))
  let inter := f32mul iw ih
  let union := f32sub (f32add (boxArea a) (boxArea b)) inter
  if f32le union 0 then 0 else f32mul inter (f32recip union)

/-- Kept indices in visiting order. The spec gives the class labels no format; they compare by their bits (DESIGN CHOICE, assumption 150). -/
def nmsKeep (k : Nat) (thr : W32) (boxes scores : List W32) (cls : Option (List Int)) : List Nat :=
  let box := fun (i : Nat) => (boxes.drop (4 * i)).take 4
  let same := fun (i j : Nat) => match cls with
    | some c => decide (at0 c i 0 = at0 c j 0)
    | none => true
  ((sortKeys true scores).map Prod.snd).foldl (fun kept i =>
    if k ≤ kept.length ∨ kept.any (fun j => same i j && f32lt thr (iou (box i) (box j))) = true then kept else kept ++ [i]) []

/-! ### Experts (R167, R168) -/

/-- EXPERT_ROUTE of one token: ids in descending order and their softmax weights. -/
def routeRow (k : Nat) (xs : List W32) : List Nat × List W32 :=
  let ids := topRow k true xs
  (ids, softmaxRow (ids.map fun i => at0 xs i 0))

/-- Rows (t, j) in the order of EXPERT_DISPATCH: by expert, then token, then rank (DEDUCED, assumption 75). -/
def dispatchOrder (e k : Nat) (ids : List Int) : List Nat :=
  (List.range e).flatMap fun x => (List.range ids.length).filter fun r => decide (at0 ids r (-1) = x) && decide (0 < k)

/-- First row of each expert, and the total (R168). -/
def dispatchOffsets (e : Nat) (ids : List Int) : List Nat :=
  (List.range e).map (fun x => (ids.filter fun i => decide (0 ≤ i ∧ i < x)).length) ++ [ids.length]

/-- EXPERT_COMBINE of one token: a product, then one FMA per further rank; a permutation outside the rows reads zero (R163). -/
def combineRow (d k : Nat) (ys : List W32) (perm : List Int) (w : List W32) : List W32 :=
  (List.range d).map fun c =>
    let y := fun (j : Nat) => match onAxis (ys.length / d) (at0 perm j (-1)) with
      | some r => at0 ys (r * d + c) 0
      | none => 0
    (List.range (k - 1)).foldl (fun acc j => f32fma (at0 w (j + 1) 0) (y (j + 1)) acc) (f32mul (at0 w 0 0) (y 0))

/-! ### SAMPLE (R169) -/

/-- One round of Philox4x32 on the counter words. -/
def philoxRound (k0 k1 : W32) (c : W32 × W32 × W32 × W32) : W32 × W32 × W32 × W32 :=
  let p0 := 0xD2511F53 * c.1.toNat
  let p1 := 0xCD9E8D57 * c.2.2.1.toNat
  (BitVec.ofNat 32 (p1 / 2 ^ 32) ^^^ c.2.1 ^^^ k0, BitVec.ofNat 32 p1, BitVec.ofNat 32 (p0 / 2 ^ 32) ^^^ c.2.2.2 ^^^ k1,
    BitVec.ofNat 32 p0)

def philoxFrom : Nat → W32 → W32 → W32 × W32 × W32 × W32 → W32 × W32 × W32 × W32
  | 0, _, _, c => c
  | n + 1, k0, k1, c => philoxFrom n (k0 + 0x9E3779B9#32) (k1 + 0xBB67AE85#32) (philoxRound k0 k1 c)

/-- Word 0 of philox4x32_10. -/
def philoxWord (seed : W64) (i : Nat) (p : W32) : W32 :=
  (philoxFrom 10 (seed.setWidth 32) ((seed >>> 32).setWidth 32) (BitVec.ofNat 32 i, p, 0, 0)).1

/-- The Gumbel score of a candidate. -/
def sampleScore (inv : W32) (seed : W64) (p : W32) (i : Nat) (l : W32) : W32 :=
  let u := f32of (.num false (2 * ((philoxWord seed i p).toNat / 2 ^ 9) + 1) (-24))
  let g := f32minus (f32log (f32minus (f32log u)))
  f32add (f32mul l inv) g

/-- The drawn token and its status. -/
def sampleRow (k : Nat) (temp : W32) (ls : List W32) (seed : W64) (p : W32) : Nat × Nat :=
  if f32eq temp 0 then
    match sortKeys true ls with
    | (l, i) :: _ => if f32isNan l then (0, 1) else (i, 0)
    | [] => (0, 1)
  else
    let inv := f32recip temp
    let cand := if k = 0 then List.range ls.length else sortBy id (topRow k true ls)
    let best := (cand.filter fun i => !f32isNan (at0 ls i 0)).foldl (fun (best : Option (W32 × Nat)) i =>
      let sc := sampleScore inv seed p i (at0 ls i 0)
      if f32isNan sc then best
      else match best with
        | none => some (sc, i)
        | some b => if f32lt b.1 sc then some (sc, i) else best) none
    match best with
    | some b => (b.2, 0)
    | none => (0, 1)

/-! ### POOL, CONV_DEPTHWISE (R171, R177, R186) -/

/-- Output size of an axis. -/
def outSize (n pb pa span stride : Nat) : Nat := (n + pb + pa - span) / stride + 1

/-- The taps of output (oy, ox) that lie inside an image, with their place in the window. -/
def taps (h w kh kw sh sw dh dw pt pl oy ox : Nat) : List (Nat × Nat) :=
  (List.range kh).flatMap fun ky => (List.range kw).filterMap fun kx =>
    let iy : Int := (oy * sh + ky * dh : Nat) - (pt : Int)
    let ix : Int := (ox * sw + kx * dw : Nat) - (pl : Int)
    if 0 ≤ iy ∧ iy < h ∧ 0 ≤ ix ∧ ix < w then some (iy.toNat * w + ix.toNat, ky * kw + kx) else none

def poolF (mode : Nat) (xs : List W32) : W32 :=
  if xs = [] then 0
  else if mode = 0 then (if xs.all f32isNan then f32nan else maxF xs)
  else f32mul (sumF xs) (f32recip (lenF xs))

def poolI (xs : List Int) : Int :=
  match xs with
  | [] => 0
  | x :: l => l.foldl max x

/-- Planes of an array of images. -/
def planes (hw : Nat) {α : Type} (xs : List α) : List (List α) := partsOf hw xs

/-! ### RESIZE, CROP_RESIZE (R187, R188) -/

def nearestIndex (n q o : Nat) : Nat := min (n - 1) ((2 * o + 1) * n / (2 * q))

/-- Lower index and weight of bilinear sampling along an axis. -/
def bilinear (n q o : Nat) : Nat × W32 :=
  let f : Int := (((2 * o + 1) * n : Nat) - (q : Int)) * 65536 / (2 * q : Nat)
  if f < 0 then (0, 0)
  else
    let i := f.toNat / 65536
    if n - 1 ≤ i then (n - 1, 0) else (i, f32of (.num false (f.toNat % 65536) (-16)))

/-- fma(b − a, w, a) for an exact weight (R187, R188). -/
def lerpBy (a b : W32) (w : Val) : W32 := f32of (((f32val (f32sub b a)).mul w).add (f32val a))

def lerp (a b wf : W32) : W32 := lerpBy a b (f32val wf)

/-- One bilinear output of RESIZE. -/
def resizeAt (w : Nat) (xs : List W32) (n m : Nat) (y x : Nat × W32) : W32 :=
  let row := fun (r : Nat) => lerp (at0 xs (r * w + x.1) 0) (at0 xs (r * w + min (x.1 + 1) (m - 1)) 0) x.2
  lerp (row y.1) (row (min (y.1 + 1) (n - 1))) y.2

def f32half : W32 := 0x3F000000#32

/-- A sampling coordinate of CROP_RESIZE and its exact fraction, or none where it gives zero. -/
def cropCoord (n : Nat) (lo hi : W32) (i : Nat) : Option (Int × Val) :=
  let step := f32mul (f32sub hi lo) (f32recip (f32int n))
  let y := f32sub (f32fma (f32add (f32int i) f32half) step lo) f32half
  if f32isNan y || f32le 0x4B800000#32 (f32abs y) then none
  else
    let k := (f32val y).floor
    some (k, (f32val y).add (intVal (-k)))

/-- One value of a crop: the lerp of the four pixels around the point, a pixel outside the image zero. -/
def cropAt (h w : Nat) (xs : List W32) (y x : Int × Val) : W32 :=
  let px := fun (r c : Int) => if 0 ≤ r ∧ r < h ∧ 0 ≤ c ∧ c < w then at0 xs (r.toNat * w + c.toNat) 0 else 0
  let row := fun (r : Int) => lerpBy (px r x.1) (px r (x.1 + 1)) x.2
  lerpBy (row y.1) (row (y.1 + 1)) y.2

/-! ### POINT_SCATTER, GRID_PROJECT (R165, R189, R190) -/

/-- The cell of a point, or none where it is dropped. -/
def pointCell (gy gx : Nat) (sc : List W32) (x y z : W32) : Option Nat :=
  if f32isNan x || f32isNan y || f32isNan z then none
  else
    let cell := fun (v lo inv : W32) (n : Nat) =>
      let q := f32mul (f32sub v lo) inv
      match f32val q with
      | .num s m e => let i := Val.floor (.num s m e); if 0 ≤ i ∧ i < n then some i.toNat else none
      | _ => none
    match cell x (at0 sc 0 0) (at0 sc 2 0) gx, cell y (at0 sc 1 0) (at0 sc 3 0) gy with
    | some ix, some iy => if f32le (at0 sc 4 0) z && f32lt z (at0 sc 5 0) then some (iy * gx + ix) else none
    | _, _ => none

/-- A cell's value from the features of its points in index order. -/
def cellValue (mode : Nat) (fs : List W32) : W32 :=
  match fs with
  | [] => 0
  | f :: l =>
    if mode = 0 then l.foldl keyMax f
    else if mode = 3 then f
    else
      let s := l.foldl f32add f
      if mode = 1 then s else f32mul s (f32recip (lenF fs))

/-- A channel of GRID_PROJECT: the greatest, or the sum in raster order, of the pixels that a cell takes. -/
def projectCell (mode : Nat) (fs : List W32) : W32 :=
  match fs with
  | [] => 0
  | f :: l => if mode = 0 then l.foldl keyMax f else l.foldl f32add f

end Sys2Proof.Machine
end

