-- ==== Sys2Proof/Machine/Shapes.lean ====
section
/-! DEFINITION. The catalogue's formats, dims and limits, node by node, and those of a cognition play's inputs and pools: what the imposer
refuses of a play beyond its tables (R129, R133, R135, R137, R141, R163 to R172, R176, R186 to R194, R196, R210, R219). -/

namespace Sys2Proof.Machine

/-! ### Reading a node -/

/-- A node with its tensors: an absent input is none. -/
structure NodeView where
  n : Node
  ins : List (Option Tensor)
  outs : List Tensor
deriving DecidableEq, Repr

def Play.view (p : Play) (n : Node) : NodeView :=
  { n := n, ins := n.ins.map fun i => if i = 0xFFFFFFFF then none else p.tensors[i]?, outs := n.outs.filterMap fun o => p.tensors[o]? }

def Node.vals (n : Node) (key : Nat) : List Nat := ((n.attrs.find? fun a => a.key = key).map Attr.vals).getD []
/-- Value `k` of a key, or a default where the node lacks it. -/
def Node.val (n : Node) (key k d : Nat) : Nat := (n.vals key).getD k d
/-- MODE. Where the catalogue does not require a key, its absence means 0 for MODE, AXIS, PADS and DESCENDING, and 1 for STRIDES, DILATIONS and
GROUPS (DESIGN CHOICE, assumption 148). -/
def Node.mode (n : Node) : Nat := n.val 0x35 0 0

/-- Input `k`, which the catalogue's counts say is there. -/
def NodeView.t (v : NodeView) (k : Nat) : Option Tensor := (v.ins[k]?).join
def NodeView.dims (v : NodeView) (k : Nat) : List Nat := ((v.t k).map Tensor.dims).getD []
def NodeView.fmt (v : NodeView) (k : Nat) : Nat := ((v.t k).map Tensor.format).getD 0
def NodeView.outDims (v : NodeView) (k : Nat) : List Nat := ((v.outs[k]?).map Tensor.dims).getD []
def NodeView.outFmt (v : NodeView) (k : Nat) : Nat := ((v.outs[k]?).map Tensor.format).getD 0

/-- A key has a given count of values, or the node lacks it. -/
def NodeView.count (v : NodeView) (key n : Nat) : Bool := decide (v.n.vals key = [] ∨ (v.n.vals key).length = n)

/-- The first output's format: OUT_FMT, or a default, which for an operator whose formats the catalogue fixes is that format (DEDUCED, assumption
156). -/
def NodeView.outIs (v : NodeView) (d : Nat) : Bool := decide (v.outFmt 0 = v.n.val 1 0 d)

/-- Every input is of a vector-unit format and so is the output, by OUT_FMT or FP32 (R161). -/
def NodeView.vector (v : NodeView) : Bool :=
  v.ins.all (fun t => (t.map fun t => isVector t.format).getD true) && isVector (v.outFmt 0) && v.outIs fFp32

/-- Data movement keeps its input's format where no OUT_FMT is given (DEDUCED, assumption 101). -/
def NodeView.moves (v : NodeView) : Bool :=
  v.ins.all (fun t => (t.map fun t => isVector t.format).getD true) && isVector (v.outFmt 0) && (v.outIs fFp32 || v.outIs (v.fmt 0))

/-- AXIS and AXES lie within the rank of the first input, AXES in ascending order but where it is TRANSPOSE's permutation (R158). -/
def NodeView.axesIn (v : NodeView) : Bool :=
  (v.n.vals 0x10 ++ v.n.vals 0x11).all (fun a => decide (a < (v.dims 0).length)) && (decide (v.n.op = 0x0502) || decide ((v.n.vals 0x11).Pairwise (· < ·)))

/-! ### Broadcast (R162) -/

/-- The common shape of two shapes written innermost first. -/
def bcastRev : List Nat → List Nat → Option (List Nat)
  | [], b => some b
  | a, [] => some a
  | x :: a, y :: b => if x = y ∨ x = 1 ∨ y = 1 then (bcastRev a b).map fun r => max x y :: r else none

def bcastDims (a b : List Nat) : Option (List Nat) := (bcastRev a.reverse b.reverse).map List.reverse

/-- The common shape of all of a node's inputs. -/
def bcastAll (l : List (List Nat)) : Option (List Nat) := l.foldl (fun o d => o.bind fun o => bcastDims o d) (some [])

/-! ### Platen operators (R129, R133, R135, R137, R141) -/

/-- The largest scale exponent of a constant weight: its scale bytes, or the exponent fields of BF16; NaN scales give none (R137) (DEDUCED,
assumption 102). -/
def scaleMax (t : Tensor) (bs : List Byte) : Int :=
  let top := fun (l : List Nat) (bias : Int) (least : Nat) => ((l.foldl max least : Nat) : Int) - bias
  if t.format = fBf16 then
    top (((List.range (prod t.dims)).map fun i => u16 bs (2 * i) / 128 % 256).filter (· ≠ 255)) 141 1
  else if t.format = fT64 then
    top (((List.range (prod t.dims / 64)).map fun i => u8 bs (14 * i + 13)).filter (· ≠ 255)) 127 0
  else
    let n := prod t.dims
    let at_ := padTo 64 (n * elemWidth t.format / 8)
    top (((List.range (n / 32)).map fun i => u8 bs (at_ + i)).filter (· ≠ 255)) 127 0

/-- The canonical window exponent; none where a scaled operand lacks its ceiling. -/
def winExp (konst : Tensor → List Byte) (v : NodeView) : Option Int :=
  let a := v.fmt 0
  let w := v.fmt 1
  let ceil := fun key => (v.n.vals key).head?.map (signedOf 64)
  let ac := if isScaled a then ceil 2 else some 0
  let wc := if !isScaled w then some 0 else
    match v.t 1 with
    | some t => if t.kind = 3 then some (scaleMax t (konst t)) else ceil 3
    | none => none
  match ac, wc with
  | some x, some y => some (x + y + mPair a w - 87)
  | _, _ => none

/-- Formats, bias, reduction length and window of a platen operator; `red` is the reduction length. -/
def platenOk (konst : Tensor → List Byte) (v : NodeView) (red n : Nat) : Bool :=
  let a := v.fmt 0
  let w := v.fmt 1
  let k := groupKind a w
  let int := decide (k = .integer)
  let lim := if a = fInt16 ∧ w = fInt16 then 65536 else 65536 * ((laneClass a).map LaneClass.lanes).getD 0
  pairOk a w && outAllowed k (v.outFmt 0) && v.outIs (if int then fInt32 else fFp32) && decide (red ≤ lim) &&
    (decide ((v.t 2).isNone) || (decide (v.dims 2 = [n]) && decide (v.fmt 2 = if int then fInt32 else fFp32))) &&
    (decide (k ≠ .windowed) || (match winExp konst v with
      | some x => decide (-512 ≤ x ∧ x ≤ 511)
      | none => false)) &&
    (!(isMx w || decide (w = fT64)) || decide (v.n.val 4 0 0 = 1))

/-- MATMUL and BATCHED_MATMUL. -/
def matmulOk (konst : Tensor → List Byte) (v : NodeView) : Bool :=
  let a := v.dims 0
  let b := v.dims 1
  let lead := fun (d : List Nat) => d.take (d.length - 2)
  match a.drop (a.length - 2), b.drop (b.length - 2) with
  | [m, k], [x, y] =>
    let kb := if v.n.val 4 0 0 = 1 then y else x
    let n := if v.n.val 4 0 0 = 1 then x else y
    decide (k = kb) && decide (bcastDims (lead a) (lead b) = some (lead (v.outDims 0))) &&
      decide ((v.outDims 0).drop ((v.outDims 0).length - 2) = [m, n]) && decide ((lead a).length ≤ 4 ∧ (lead b).length ≤ 4) &&
      (decide (v.n.op = 0x0102) || decide (a.length = 2 ∧ b.length = 2)) && platenOk konst v k n
  | _, _ => false

/-- Output size of a window along an axis; none below 1 (R171). -/
def outSize? (n before after span stride : Nat) : Option Nat :=
  if span ≤ n + before + after then some ((n + before + after - span) / stride + 1) else none

/-- Strides, dilations and pads of a window operator: two, two and four values. -/
def NodeView.windowKeys (v : NodeView) : Bool := v.count 0x20 2 && v.count 0x21 2 && v.count 0x22 4

/-- H′ and W′ of a window of kh × kw. -/
def NodeView.outHW (v : NodeView) (h w kh kw : Nat) : Option (Nat × Nat) :=
  let g := fun k n d => v.n.val k n d
  match outSize? h (g 0x22 0 0) (g 0x22 1 0) ((kh - 1) * g 0x21 0 1 + 1) (g 0x20 0 1),
      outSize? w (g 0x22 2 0) (g 0x22 3 0) ((kw - 1) * g 0x21 1 1 + 1) (g 0x20 1 1) with
  | some y, some x => some (y, x)
  | _, _ => none

def kernelOk (kh kw : Nat) : Bool := decide (1 ≤ kh ∧ kh ≤ 15 ∧ 1 ≤ kw ∧ kw ≤ 15)

/-- X of a convolution: channel-blocked, of a format of R171, no block of 16 in the 4-bit class. -/
def NodeView.convX (v : NodeView) : Bool :=
  (match v.t 0 with
   | some t => decide (t.layout ≠ 0) && (decide (laneClass t.format ≠ some .c4) || decide (t.layout = 2))
   | none => false) &&
    decide (v.fmt 0 ∈ [fInt4, fInt8, fInt16, fE4M3, fE5M2, fFp16, fBf16])

/-- The channel block of a tensor. -/
def Tensor.cblock (t : Tensor) : Nat := if t.layout = 1 then 16 else 32

/-- The most taps of an axis that reach one output of CONV_TRANSPOSED: those of its phase (R176). -/
def phaseTaps (k s d before n : Nat) : Nat :=
  ((List.range (min s n)).map fun o => ((List.range k).filter fun i => i * d % s = (o + before) % s).length).foldl max 0

/-- CONV and CONV_TRANSPOSED: the weight's dims by B_LAYOUT, the groups, and the output (R171 to R173, R176). -/
def convOk (konst : Tensor → List Byte) (v : NodeView) : Bool :=
  match v.dims 0, v.dims 1, v.outDims 0 with
  | [c, h, w], [w0, w1, w2, w3], [o, oh, ow] =>
    let nk := decide (v.n.val 4 0 0 = 1)
    let kh := if nk then w1 else w2
    let kw := if nk then w2 else w3
    let per := if nk then w3 else w1
    let g := v.n.val 0x23 0 1
    let cb := ((v.t 0).map Tensor.cblock).getD 16
    let shape :=
      if v.n.op = 0x0110 then decide (w0 = o ∧ per * g = c ∧ v.outHW h w kh kw = some (oh, ow))
      else
        let lo := fun (n k s : Nat) => ((n : Int) - 1) * v.n.val 0x20 k 1 - v.n.val 0x22 (2 * k) 0 - v.n.val 0x22 (2 * k + 1) 0 +
          ((s : Int) - 1) * v.n.val 0x21 k 1 + 1
        decide (w0 = c ∧ per * g = o ∧ v.n.vals 0x24 = [oh, ow]) &&
          decide (lo h 0 kh ≤ oh ∧ (oh : Int) ≤ lo h 0 kh + v.n.val 0x20 0 1 - 1) &&
          decide (lo w 1 kw ≤ ow ∧ (ow : Int) ≤ lo w 1 kw + v.n.val 0x20 1 1 - 1)
    v.convX && v.windowKeys && kernelOk kh kw && shape && decide (c % g = 0 ∧ o % g = 0) && (decide (g = 1) || decide (c / g % cb = 0)) &&
      platenOk konst v ((if v.n.op = 0x0110 then kh * kw
        else phaseTaps kh (v.n.val 0x20 0 1) (v.n.val 0x21 0 1) (v.n.val 0x22 0 0) oh *
          phaseTaps kw (v.n.val 0x20 1 1) (v.n.val 0x21 1 1) (v.n.val 0x22 2 0) ow) * padTo cb (c / g)) o
  | _, _, _ => false

/-- CONV_DEPTHWISE (R177). -/
def depthwiseOk (v : NodeView) : Bool :=
  match v.dims 0, v.dims 1, v.outDims 0 with
  | [c, h, w], [w0, 1, kh, kw], [o, oh, ow] =>
    decide (w0 = c ∧ o = c ∧ v.outHW h w kh kw = some (oh, ow)) && v.windowKeys && kernelOk kh kw && v.vector &&
      [v.fmt 0, v.fmt 1].all (fun f => decide (f ∈ [fInt8, fFp16, fBf16, fFp32])) && (decide ((v.t 2).isNone) || decide (v.dims 2 = [c]))
  | _, _, _ => false

/-! ### Window, image and point operators (R186 to R194) -/

def poolOk (v : NodeView) : Bool :=
  match v.dims 0, v.outDims 0, v.n.vals 0x25 with
  | [c, h, w], [o, oh, ow], [kh, kw] => decide (o = c ∧ v.outHW h w kh kw = some (oh, ow)) && v.windowKeys && v.vector && decide (v.n.mode ≤ 1)
  | _, _, _ => false

def resizeOk (v : NodeView) : Bool :=
  match v.dims 0, v.outDims 0 with
  | [c, _, _], [o, oh, ow] => decide (o = c ∧ v.n.vals 0x24 = [oh, ow] ∧ oh ≤ 4096 ∧ ow ≤ 4096) && v.vector && decide (v.n.mode ≤ 1)
  | _, _ => false

def cropOk (v : NodeView) : Bool :=
  match v.dims 1, v.outDims 0 with
  | [b, 4], [ob, c, oh, ow] =>
    decide (b ≤ 1024 ∧ ob = b ∧ v.dims 2 = [b] ∧ v.fmt 1 = fFp32 ∧ v.fmt 2 = fInt32) &&
      decide (v.n.vals 0x24 = [oh, ow] ∧ oh ≤ 256 ∧ ow ≤ 256) && v.vector &&
      (match (v.dims 0).reverse with
       | [_, _, x] => decide (x = c)
       | [_, _, x, _] => decide (x = c)
       | _ => false)
  | _, _ => false

def scatterPointsOk (v : NodeView) : Bool :=
  match v.dims 0, v.dims 1, v.outDims 0 with
  | [p, 8], [q, c], [o, gy, gx] =>
    decide (q = p ∧ o = c ∧ v.n.vals 0x24 = [gy, gx] ∧ (v.n.vals 0x36).length = 6) && decide (v.fmt 0 = fFp16 ∨ v.fmt 0 = fFp32) && v.vector &&
      (decide ((v.t 2).isNone) || decide (v.dims 2 = [1] ∧ v.fmt 2 = fInt32))
  | _, _, _ => false

def projectOk (v : NodeView) : Bool :=
  match v.dims 0, v.dims 1, v.outDims 0 with
  | [c, h, w], [th, tw], [o, _] => decide (th = h ∧ tw = w ∧ o = c ∧ v.fmt 1 = fInt32) && v.vector && decide (v.n.mode ≤ 1)
  | _, _, _ => false

/-- b of a halftone rate (R191). -/
def halftoneBits (rate : Nat) : Nat := if rate = 1 then 8 else if rate = 2 then 6 else if rate = 3 then 4 else 3

def halftoneOk (v : NodeView) : Bool :=
  let bl := 8 * halftoneBits (v.n.val 0x40 0 1) + 1
  let i := v.dims 0
  let o := v.outDims 0
  let n := i.getLastD 0
  decide (i.dropLast = o.dropLast ∧ i.length = o.length ∧ i ≠ []) &&
    (if v.n.op = 0x0125 then decide (n % 64 = 0 ∧ o.getLastD 0 = n / 64 * bl) && isVector (v.fmt 0) && decide (v.outFmt 0 = fInt8) && v.outIs fInt8
     else decide (n % bl = 0 ∧ o.getLastD 0 = n / bl * 64) && decide (v.fmt 0 = fInt8) && v.vector)

/-! ### Elementwise operators, reductions and data movement (R161 to R165) -/

/-- Modes of an elementwise operator. -/
def elemModes (op : Nat) : Nat := if op = 0x0301 ∨ op = 0x030A then 3 else if op = 0x0302 then 2 else if op = 0x0304 ∨ op = 0x0305 then 4 else 1

/-- CLAMP's two bounds in order; a NaN bound is in no order. -/
def clampOk (v : NodeView) : Bool :=
  match v.n.vals 0x36 with
  | [lo, hi] => f32le (BitVec.ofNat 32 lo) (BitVec.ofNat 32 hi)
  | _ => false

def elemOk (v : NodeView) : Bool :=
  decide (v.n.mode < elemModes v.n.op) && decide (bcastAll (v.ins.filterMap fun t => t.map Tensor.dims) = some (v.outDims 0)) &&
    (if v.n.op = 0x030A then v.ins.all (fun t => (t.map fun t => isVector t.format).getD true) && decide (v.outFmt 0 = fInt8) && v.outIs fInt8
     else v.vector) && (decide (v.n.op ≠ 0x0304 ∨ v.n.mode ≠ 3) || clampOk v)

def reduceOk (v : NodeView) : Bool :=
  let d := v.dims 0
  let axes := v.n.vals 0x11
  let len := prod (axes.map fun a => d.getD a 1)
  let kept := (List.range d.length).filter fun a => a ∉ axes
  decide (len ≤ 2 ^ 24) && v.vector &&
    (if v.n.op = 0x0401 then
       decide (v.outDims 0 = kept.map (fun a => d.getD a 1) ∨ v.outDims 0 = (List.range d.length).map fun a => if a ∈ axes then 1 else d.getD a 1)
     else decide (v.outDims 0 = d) && (decide (v.n.op = 0x0402) || decide (prod (v.dims 1) = len)) &&
       (decide (v.n.op ≠ 0x0403) || decide (prod (v.dims 2) = len)))

def joinOk (v : NodeView) : Bool :=
  let d := v.dims 0
  if v.n.mode = 0 then
    let axis := v.n.val 0x10 0 0
    let all := v.ins.filterMap fun t => t.map Tensor.dims
    decide (2 ≤ v.ins.length ∧ axis < d.length ∧ all.length = v.ins.length) &&
      all.all (fun x => decide (x.length = d.length ∧ x.set axis 0 = d.set axis 0)) &&
      decide (v.outDims 0 = d.set axis (all.map fun x => x.getD axis 0).sum)
  else
    let axes := v.n.vals 0x11
    let b := v.n.vals 0x26
    let lim : Nat → Nat × Nat := fun a => match axes.idxOf? a with
      | some k => (b.getD (2 * k) 0, b.getD (2 * k + 1) 0)
      | none => (0, d.getD a 0)
    decide (v.n.mode = 1 ∧ v.ins.length = 1 ∧ axes ≠ [] ∧ b.length = 2 * axes.length) &&
      (List.range d.length).all (fun a => decide ((lim a).1 < (lim a).2 ∧ (lim a).2 ≤ d.getD a 0)) &&
      decide (v.outDims 0 = (List.range d.length).map fun a => (lim a).2 - (lim a).1)

def moveOk (v : NodeView) : Bool :=
  let d := v.dims 0
  let axis := v.n.val 0x10 0 0
  let sliced := prod (d.set axis 1)
  match v.n.op with
  | 0x0501 => decide (prod (v.outDims 0) = prod d) && v.moves
  | 0x0502 =>
    let p := v.n.vals 0x11
    decide (p.length = d.length ∧ p.Nodup ∧ v.outDims 0 = p.map fun a => d.getD a 0) && p.all (fun a => decide (a < d.length)) && v.moves
  | 0x0503 => joinOk v && v.moves
  | 0x0504 => decide (axis < d.length ∧ v.fmt 1 = fInt32 ∧ prod (v.outDims 0) = sliced * prod (v.dims 1)) && v.moves
  | 0x0505 =>
    decide (axis < d.length ∧ v.fmt 1 = fInt32 ∧ v.outDims 0 = d ∧ prod (v.dims 2) = sliced * prod (v.dims 1) ∧ v.n.mode ≤ 1) &&
      v.moves
  | 0x0506 =>
    decide (((v.t 0).map Tensor.kind) = some 3 ∧ v.fmt 1 = fInt32 ∧ d.length = 2 ∧ v.outDims 0 = v.dims 1 ++ [d.getD 1 0]) &&
      (isVector (v.fmt 0) || decide (v.fmt 0 = fMx4)) && isVector (v.outFmt 0) && (v.outIs fFp32 || v.outIs (v.fmt 0))
  | _ => decide (v.outDims 0 = d) && v.outIs fFp32 && decide (v.fmt 0 ≠ fT64 ∧ v.outFmt 0 ≠ fT64)

/-! ### Attention, selection, experts and tokens (R166 to R169, R219) -/

def rotaryOk (v : NodeView) : Bool :=
  match (v.dims 0).reverse with
  | d :: t :: _ =>
    decide (d % 2 = 0 ∧ d ≤ 1024 ∧ v.fmt 1 = fFp32 ∧ v.fmt 2 = fInt32 ∧ v.dims 2 = [t] ∧ v.outDims 0 = v.dims 0) && v.vector &&
      (match v.dims 1 with
       | [_, x, 2] => decide (x = d / 2)
       | _ => false)
  | _ => false

def attentionOk (v : NodeView) : Bool :=
  match v.dims 0, v.dims 1, v.dims 3 with
  | [t, hq, d], [tk, hkv, dk], [_, 2, hp, 16, dp] =>
    decide (v.fmt 0 ∈ [fFp16, fE4M3, fE5M2]) && isVector (v.fmt 1) && isVector (v.fmt 2) && decide (v.dims 2 = v.dims 1) &&
      decide (tk = t ∧ dk = d ∧ hp = hkv ∧ dp = d ∧ hkv ≠ 0 ∧ hq % hkv = 0 ∧ v.outDims 0 = [t, hq, d]) &&
      decide (((v.t 3).map Tensor.kind) = some 6 ∧ (v.n.vals 0x36).length = 1 ∧ v.n.mode = 0) && isVector (v.outFmt 0) && v.outIs fFp32
  | _, _, _ => false

/-- The inputs of tokens, experts and choices are all of vector-unit formats. -/
def NodeView.insVector (v : NodeView) : Bool := v.ins.all fun t => (t.map fun t => isVector t.format).getD true

def chooseOk (v : NodeView) : Bool :=
  let d := v.dims 0
  let n := d.getLastD 0
  let k := v.n.val 0x31 0 0
  let o := fun i f ds => decide (v.outFmt i = f ∧ v.outDims i = ds)
  v.insVector && isVector (v.outFmt 0) && decide (d ≠ []) &&
    match v.n.op with
    | 0x0701 => decide (n ≤ 262144 ∧ 1 ≤ k ∧ k ≤ 1024 ∧ k ≤ n) && v.outIs fFp32 && decide (v.outDims 0 = d.dropLast ++ [k]) && o 1 fInt32 (d.dropLast ++ [k])
    | 0x0702 => decide (n ≤ 262144) && v.outIs fFp32 && decide (v.outDims 0 = d) && o 1 fInt32 d
    | 0x0703 =>
      let b := d.headD 0
      decide (d = [b, 4] ∧ v.dims 1 = [b] ∧ b ≤ 65536 ∧ 1 ≤ k ∧ k ≤ 4096) && (decide ((v.t 2).isNone) || decide (v.dims 2 = [b])) &&
        v.outIs fInt32 && o 0 fInt32 [k] && decide (v.outFmt 1 = fInt32 ∧ prod (v.outDims 1) = 1)
    | 0x0704 => decide (d.length = 2 ∧ 1 ≤ k ∧ k ≤ 8 ∧ 2 ≤ n ∧ n ≤ 256 ∧ k ≤ n) && v.outIs fInt32 && o 0 fInt32 [d.headD 0, k] && o 1 fFp32 [d.headD 0, k]
    | 0x0705 =>
      match v.dims 1 with
      | [t, kk] => decide (d = [t, n] ∧ v.fmt 1 = fInt32 ∧ v.outDims 0 = [t * kk, n]) && v.outIs fFp32 &&
          decide (v.outFmt 1 = fInt32 ∧ v.outFmt 2 = fInt32 ∧ (v.outDims 1).length = 1 ∧ 3 ≤ prod (v.outDims 1) ∧ prod (v.outDims 1) ≤ 257 ∧
            prod (v.outDims 2) = t * kk)
      | _ => false
    | 0x0706 =>
      match v.dims 2 with
      | [t, kk] => decide (d = [t * kk, n] ∧ v.fmt 1 = fInt32 ∧ prod (v.dims 1) = t * kk ∧ v.outDims 0 = [t, n]) && v.outIs fFp32
      | _ => false
    | _ =>
      let r := d.headD 0
      decide (d = [r, n] ∧ n ≤ 262144 ∧ k ≤ 1024 ∧ (v.n.vals 0x32).length = 1) &&
        decide (v.fmt 1 = fInt32 ∧ prod (v.dims 1) = 2 * r ∧ v.fmt 2 = fInt32 ∧ v.dims 2 = [r]) && v.outIs fInt32 && o 0 fInt32 [r] && o 1 fInt8 [r]

/-! ### A play -/

/-- A node within the catalogue's formats, dims and limits. -/
def nodeShapeOk (konst : Tensor → List Byte) (v : NodeView) : Bool :=
  let c := v.n.op
  v.axesIn && (
  if c = 0x0101 ∨ c = 0x0102 then matmulOk konst v
  else if c = 0x0110 ∨ c = 0x0112 then convOk konst v
  else if c = 0x0111 then depthwiseOk v
  else if c = 0x0120 then poolOk v
  else if c = 0x0121 then resizeOk v
  else if c = 0x0122 then cropOk v
  else if c = 0x0123 then scatterPointsOk v
  else if c = 0x0124 then projectOk v
  else if c = 0x0125 ∨ c = 0x0126 then halftoneOk v
  else if c / 256 = 3 then elemOk v
  else if c / 256 = 4 then reduceOk v
  else if c / 256 = 5 ∨ c = 0x0801 then moveOk v
  else if c = 0x0601 then attentionOk v
  else if c = 0x0602 then rotaryOk v
  else chooseOk v)

/-- The pools of a play (R196). -/
def poolsOk (p : Play) : Bool :=
  let ps := p.tensors.filter fun t => t.kind = 6
  decide (p.kind ≠ 2 ∧ ps = []) ||
    (decide (p.kind = 2 ∧ 1 ≤ ps.length ∧ ps.length ≤ 256) && (List.range ps.length).all (fun k => (ps.filter fun t => t.source = k).length = 1) &&
      ps.all fun t => decide ((some t.dims = (ps.head?).map Tensor.dims) ∧ some t.format = (ps.head?).map Tensor.format ∧ t.layout = 0) &&
        decide (t.format = fE4M3 ∨ t.format = fE5M2 ∨ t.format = fFp16) &&
        (match t.dims with
         | [l, 2, h, 16, d] => decide (1 ≤ l ∧ l ≤ 16777215 ∧ 1 ≤ h ∧ h ≤ 64 ∧ d % 32 = 0 ∧ 32 ≤ d ∧ d ≤ 256)
         | _ => false))

/-- A pool is read by attention alone, which reads it as its fourth input (R151). -/
def poolReads (p : Play) : Bool :=
  p.nodes.all fun n => (List.range n.ins.length).all fun k =>
    decide (((n.ins[k]?).bind fun i => p.tensors[i]?).map Tensor.kind ≠ some 6) || (decide (n.op = 0x0601) && decide (k = 3))

/-- The step inputs and the token outputs of a cognition play (R210). -/
def rolesOk (p : Play) (l : Limits) : Bool :=
  let is := (p.tensors.filter fun t => t.kind = 1).map fun t => (t.format, t.dims)
  let os := (p.tensors.filter fun t => t.kind = 2).map fun t => (t.format, t.dims)
  decide (p.kind ≠ 2) ||
    (decide (is.take 6 = [(fInt32, [l.tmax]), (fInt32, [l.bmax, 8]), (fInt32, [l.bmax * l.pmax / 16]), (fInt32, [l.tmax]), (fInt32, [l.bmax, 2]),
        (fInt32, [l.bmax])]) && decide (os.take 2 = [(fInt32, [l.bmax]), (fInt8, [l.bmax])]))

/-- Attention's length table and leaf map are the play's step inputs, its tokens those of the step (R219). -/
def attentionInputs (p : Play) (l : Limits) : Bool :=
  let ins := (List.range p.tensors.length).filter fun k => decide (((p.tensors[k]?).map Tensor.kind) = some 1)
  p.nodes.all fun n => decide (n.op ≠ 0x0601) ||
    decide (n.ins[4]? = ins[1]? ∧ n.ins[5]? = ins[2]? ∧ 3 ≤ ins.length ∧
      ((n.ins[0]?).bind fun k => p.tensors[k]?).map (fun t => t.dims.headD 0) = some l.tmax)

/-- A play's nodes, pools and step inputs within the catalogue; `konst` gives a constant's bytes. -/
def playShapeOk (konst : Tensor → List Byte) (l : Limits) (p : Play) : Bool :=
  p.nodes.all (fun n => nodeShapeOk konst (p.view n)) && poolsOk p && poolReads p && rolesOk p l && attentionInputs p l

end Sys2Proof.Machine
end

