-- ==== Sys2Proof/Machine/VecOps.lean ====
section
/-! DEFINITION. What each operator of the vector unit gives, over arrays, and how results lie in memory (R117, R152, R161 to R169, R177,
R186 to R194). -/

namespace Sys2Proof.Machine

/-! ### Bytes of a result -/

/-- Bytes of `n` packed elements of a format, before any scale plane. -/
def packedLen (fmt n : Nat) : Nat :=
  if fmt = fRaw then 16 * n else if fmt = fInt4 ∨ fmt = fMx4 then (n + 1) / 2 else if fmt = fMx6 then n / 4 * 3 else n * elemBytes fmt

/-- Codes packed `w` bits each into bytes. -/
def packBits (w : Nat) (cs : List Nat) : List Byte := natLe ((w * cs.length + 7) / 8) ((cs.zipIdx.map fun x => x.1 % 2 ^ w * 2 ^ (w * x.2)).sum)

/-- A result's bytes as R152 lays them out. -/
def VArr.bytes (a : VArr) : List Byte :=
  if a.fmt = fRaw then a.bits.flatMap (natLe 16)
  else if isMx a.fmt then
    let es := packBits (elemWidth a.fmt) a.bits
    padBytes ((es.length + 63) / 64 * 64) es ++ (partsOf 32 a.bits).map fun b => BitVec.ofNat 8 (b.headD 0 / 256)
  else if a.fmt = fInt4 then packBits 4 a.bits
  else a.bits.flatMap (natLe (elemBytes a.fmt))

/-! ### What an operator gives -/

def arr (as : List VArr) (k : Nat) : VArr := as.getD k { fmt := 8, bits := [] }

/-- Elementwise operators. -/
def vecElem (op : VecOp) (out : Nat) (as : List VArr) : Option VArr :=
  let a := arr as 0
  let b := arr as 1
  let c := arr as 2
  let int := allInt as
  match op with
  | .arith mode => some (if int then map2i out (arithI mode) a b else map2 out (arithF mode) a b)
  | .maxMin mode => some (if int then map2i out (if mode = 0 then max else min) a b else map2 out (if mode = 0 then f32max else f32min) a b)
  | .fma => some (if int then ofI out (List.zipWith (fun x y => satI32 (x.1 * x.2 + y)) (a.i.zip b.i) c.i)
      else ofF out (List.zipWith (fun x y => f32fma x.1 x.2 y) (a.f.zip b.f) c.f))
  | .unary mode lo hi => some (if int then ofI out (a.i.map (unaryI mode lo hi)) else ofF out (a.f.map (unaryF mode lo hi)))
  | .special mode => some (ofF out (a.f.map (specialF mode)))
  | .sigmoid => some (ofF out (a.f.map f32sigmoid))
  | .silu => some (ofF out (a.f.map fun x => f32mul x (f32sigmoid x)))
  | .geluS => some (ofF out (a.f.map fun x => f32mul x (f32sigmoid (f32mul 0x3FD9DB23#32 x))))
  | .tanh => some (ofF out (a.f.map fun x => f32sub (f32mul f32two (f32sigmoid (f32mul f32two x))) f32one))
  | .compare mode => some { fmt := fInt8, bits := if int then List.zipWith (compareI mode) a.i b.i else List.zipWith (compareF mode) a.f b.f }
  | .select =>
    some (if int then ofI out (List.zipWith (fun x y => if f32eq x 0 then y.2 else y.1) a.f (b.i.zip c.i))
      else ofF out (List.zipWith (fun x y => if f32eq x 0 then y.2 else y.1) a.f (b.f.zip c.f)))
  | _ => none

/-- Reductions, normalisations, data movement and conversions. -/
def vecMove (op : VecOp) (out : Nat) (as : List VArr) : Option VArr :=
  let a := arr as 0
  let b := arr as 1
  let c := arr as 2
  match op with
  | .reduce mode len =>
    some (ofF out ((partsOf len a.f).map (reduceF mode)))
  | .softmax len => some (ofF out ((partsOf len a.f).flatMap softmaxRow))
  | .layerNorm len eps => some (ofF out ((partsOf len a.f).flatMap (layerNormRow eps b.f c.f)))
  | .rmsNorm len eps => some (ofF out ((partsOf len a.f).flatMap (rmsNormRow eps b.f)))
  | .transpose dims perm => some (ofBits out a (transposeBits dims perm a.bits))
  | .slice dims axes bounds => some (ofBits out a (sliceBits dims axes bounds a.bits))
  | .concat outer => some (match as with
      | [] => { fmt := out, bits := [] }
      | x :: xs => { fmt := out, bits := concatBits outer ((x :: xs).map fun y => (ofBits out y y.bits).bits) })
  | .gather outer axis inner => some (ofBits out a (gatherBits outer axis inner a.bits b.i))
  | .scatter mode _ axis inner =>
    let xs := a.f
    let us := c.f
    let hit := fun (i : Nat) => scatterHits axis inner b.i (i / inner / axis) (i / inner % axis) (i % inner)
    some (if mode = 0 then
        (if allInt [a, c] then ofI out ((List.range a.bits.length).map fun i => match (hit i).getLast? with
            | some u => at0 c.i u 0
            | none => at0 a.i i 0)
         else ofF out ((List.range xs.length).map fun i => match (hit i).getLast? with
            | some u => at0 us u 0
            | none => at0 xs i 0))
      else if allInt [a, c] then ofI out ((List.range a.bits.length).map fun i =>
        (hit i).foldl (fun v u => satI32 (v + at0 c.i u 0)) (at0 a.i i 0))
      else ofF out ((List.range xs.length).map fun i => (hit i).foldl (fun v u => f32add v (at0 us u 0)) (at0 xs i 0)))
  | .convert => some (ofBits out a a.bits)
  | .rotary d => some (ofF out ((partsOf d a.f).zipIdx.flatMap fun x => rotaryRow d b.f (at0 c.i (x.2 % c.bits.length) (-1)) x.1))
  | .rawRound fmt => let bias := fun (i : Nat) => if as.length < 2 then none else some (isInt b.fmt, at0 b.bits i 0)
    some { fmt := fmt, bits := a.bits.zipIdx.map fun x => rawOut fmt (bias x.2) x.1 }
  | .rawAdd =>
    if (a.bits.zip b.bits).any fun x => decide (rawWin x.1 ≠ rawWin x.2) then none
    else some { fmt := fRaw, bits := List.zipWith rawSum a.bits b.bits }
  | .halftonePack rate => some { fmt := fInt8, bits := (partsOf 64 a.f).flatMap (htPackBlock rate) }
  | .halftoneUnpack rate => some (ofF out ((partsOf (8 * (halftone rate).1 + 1) a.bits).flatMap (htUnpackBlock rate)))
  | _ => none

/-- Window, image and point operators. -/
def vecImage (op : VecOp) (out : Nat) (as : List VArr) : Option VArr :=
  let a := arr as 0
  let b := arr as 1
  let c := arr as 2
  match op with
  | .pool mode h w wh ww sh sw pt pb pl pr =>
    let at_ := fun (i : Nat) => (taps h w wh ww sh sw 1 1 pt pl (i / outSize w pl pr ww sw) (i % outSize w pl pr ww sw)).map Prod.fst
    let n := outSize h pt pb wh sh * outSize w pl pr ww sw
    some (if isInt a.fmt && decide (mode = 0) then ofI out ((partsOf (h * w) a.i).flatMap fun x => (List.range n).map fun i =>
        poolI ((at_ i).map fun j => at0 x j 0))
      else ofF out ((partsOf (h * w) a.f).flatMap fun x => (List.range n).map fun i => poolF mode ((at_ i).map fun j => at0 x j 0)))
  | .resize mode h w oh ow =>
    if mode = 0 then
      some (ofBits out a ((partsOf (h * w) a.bits).flatMap fun x => (List.range (oh * ow)).map fun i =>
        at0 x (nearestIndex h oh (i / ow) * w + nearestIndex w ow (i % ow)) 0))
    else some (ofF out ((partsOf (h * w) a.f).flatMap fun x => (List.range (oh * ow)).map fun i =>
        resizeAt w x h w (bilinear h oh (i / ow)) (bilinear w ow (i % ow))))
  | .cropResize images ch h w oh ow =>
    let xs := a.f
    let bx := b.f
    some (ofF out ((List.range c.bits.length).flatMap fun k => (List.range ch).flatMap fun cc => (List.range (oh * ow)).map fun i =>
      match onAxis (max images 1) (at0 c.i k (-1)) with
      | none => 0
      | some im =>
        let box := (bx.drop (4 * k)).take 4
        match cropCoord oh (at0 box 0 0) (at0 box 2 0) (i / ow), cropCoord ow (at0 box 1 0) (at0 box 3 0) (i % ow) with
        | some y, some x => cropAt h w ((xs.drop ((im * ch + cc) * h * w)).take (h * w)) y x
        | _, _ => 0))
  | .pointScatter mode ch gy gx scalars =>
    let ps := a.f
    let fs := b.f
    let n := min (ps.length / 8) (if as.length < 3 then ps.length else (at0 c.i 0 0).toNat)
    let cells := (List.range n).map fun p => pointCell gy gx scalars (at0 ps (8 * p) 0) (at0 ps (8 * p + 1) 0) (at0 ps (8 * p + 2) 0)
    some (ofF out ((List.range (ch * (gy * gx))).map fun i =>
      cellValue mode ((cells.zipIdx.filter fun x => x.1 = some (i % (gy * gx))).map fun x => at0 fs (x.2 * ch + i / (gy * gx)) 0)))
  | .gridProject mode hw cells =>
    let xs := a.f
    let ti := b.i
    some (ofF out ((List.range (xs.length / hw * cells)).map fun i =>
      projectCell mode (((List.range hw).filter fun j => onAxis cells (at0 ti j (-1)) = some (i % cells)).map fun j => at0 xs (i / cells * hw + j) 0)))
  | .depthwise h w kh kw sh sw dh dw pt pb pl pr bias =>
    let oh := outSize h pt pb ((kh - 1) * dh + 1) sh
    let ow := outSize w pl pr ((kw - 1) * dw + 1) sw
    let at_ := fun (i : Nat) => taps h w kh kw sh sw dh dw pt pl (i / ow) (i % ow)
    some (if allInt (a :: b :: (if bias then [c] else [])) then
        ofI out (((partsOf (h * w) a.i).zipIdx).flatMap fun x => (List.range (oh * ow)).map fun i =>
          (at_ i).foldl (fun acc t => satI32 (at0 x.1 t.1 0 * at0 b.i (x.2 * (kh * kw) + t.2) 0 + acc)) (if bias then at0 c.i x.2 0 else 0))
      else
        ofF out (((partsOf (h * w) a.f).zipIdx).flatMap fun x => (List.range (oh * ow)).map fun i =>
          (at_ i).foldl (fun acc t => f32fma (at0 x.1 t.1 0) (at0 b.f (x.2 * (kh * kw) + t.2) 0) acc)
            (if bias then at0 c.f x.2 0 else f32negZero)))
  | _ => none

/-- Operators that choose; INT32 indices beside or in place of values. A row of EXPERT_DISPATCH whose id names no expert stands nowhere in xs, and its
entry of perm is 0 (DESIGN CHOICE, assumption 149). -/
def vecChoose (op : VecOp) (out : Nat) (as : List VArr) : Option (List VArr) :=
  let a := arr as 0
  let b := arr as 1
  let c := arr as 2
  let nats := fun (l : List Nat) => ({ fmt := fInt32, bits := l } : VArr)
  match op with
  | .topk len k desc =>
    let pick := (partsOf len a.f).map (topRow k desc)
    some [ofBits out a ((pick.zipIdx).flatMap fun x => x.1.map fun i => at0 a.bits (x.2 * len + i) 0), nats pick.flatten]
  | .sort len desc =>
    let pick := (partsOf len a.f).map (topRow len desc)
    some [ofBits out a ((pick.zipIdx).flatMap fun x => x.1.map fun i => at0 a.bits (x.2 * len + i) 0), nats pick.flatten]
  | .nms k thr classes =>
    let kept := nmsKeep k thr a.f b.f (if classes then some c.i else none)
    some [nats (kept ++ List.replicate (k - kept.length) (2 ^ 32 - 1)), nats [kept.length]]
  | .expertRoute e k =>
    let rows := (partsOf e a.f).map (routeRow k)
    some [nats (rows.flatMap Prod.fst), ofF fFp32 (rows.flatMap Prod.snd)]
  | .expertDispatch d e k =>
    let order := dispatchOrder e k b.i
    some [ofBits out a (order.flatMap fun r => (List.range d).map fun i => at0 a.bits (r / k * d + i) 0), nats (dispatchOffsets e b.i),
      nats ((List.range b.bits.length).map fun r => (order.idxOf? r).getD 0)]
  | .expertCombine d k =>
    some [ofF out ((partsOf k b.i).zipIdx.flatMap fun x => combineRow d k a.f x.1 ((c.f.drop (x.2 * k)).take k))]
  | .sample v k temp =>
    let seed := fun (r : Nat) => BitVec.ofNat 64 (at0 b.bits (2 * r) 0 + at0 b.bits (2 * r + 1) 0 * 2 ^ 32)
    let draws := (partsOf v a.f).zipIdx.map fun x => sampleRow k temp x.1 (seed x.2) (BitVec.ofNat 32 (at0 c.bits x.2 0))
    some [nats (draws.map Prod.fst), { fmt := fInt8, bits := draws.map Prod.snd }]
  | _ => none

/-- The operands of an expert operator cut to the real tokens of a step (R212). -/
def realTokens (op : VecOp) (t : Nat) (as : List VArr) : List VArr :=
  let cut := fun (ns : List Nat) => as.zipIdx.map fun x => match ns[x.2]? with
    | some n => { x.1 with bits := x.1.bits.take (t * n) }
    | none => x.1
  match op with
  | .expertRoute e _ => cut [e]
  | .expertDispatch d _ k => cut [d, k]
  | .expertCombine d k => cut [k * d, k, k]
  | _ => as

/-- The results of a micro-operation; none where it is illegal (DEDUCED, assumption 76). -/
def vecEval (m : VecMicro) (as : List VArr) : Option (List VArr) :=
  match vecElem m.op m.fmt (bcast m.shapes as) with
  | some r => some [r]
  | none =>
    match vecMove m.op m.fmt as with
    | some r => some [r]
    | none =>
      match vecImage m.op m.fmt as with
      | some r => some [r]
      | none => vecChoose m.op m.fmt as

end Sys2Proof.Machine
end

