-- ==== Sys2Proof/Machine/Lower.lean ====
section
/-! DEFINITION. Lowering: the scenes of a play, their budgets, the stripes of a chain of window operators, the plans of the safety plays and
what each partition needs of the galley and the stacks (R160, R175 to R180, R266 to R273, R321, R473). -/

namespace Sys2Proof.Machine

/-! ### What a part costs (R102, R108, R111, R117, R270, R271) -/

/-- Rates in B/µs as fractions, and latencies in ns: one column of R271 for a part. -/
structure Rates where
  mhz : Nat
  galley : Nat × Nat
  stack : Nat × Nat
  galLat : Nat
  galFirst : Nat
  stkLat : Nat
  stkFirst : Nat
deriving DecidableEq, Repr

/-- A share of a rate, at most what one press takes. -/
def capRate (num den : Nat) : Nat × Nat := if num ≤ 102400 * den then (num, den) else (102400, 1)

/-- Cycles of a traffic at a rate; a rate of 0 carries nothing within any cap (DEDUCED, assumption 120). -/
def rateCycles (mhz : Nat) (rate : Nat × Nat) (bytes : Nat) : Nat :=
  if bytes = 0 then 0 else if rate.1 = 0 then 2 ^ 64 else (bytes * mhz * rate.2 + rate.1 - 1) / rate.1

/-- Nanoseconds in cycles, rounded up. -/
def nsCycles (mhz ns : Nat) : Nat := (ns * mhz + 999) / 1000

/-- The budget column for `n` presses. -/
def budgetRates (mhz : Nat) (c : Partition) (n : Nat) : Rates :=
  { mhz := mhz, galley := capRate (6400 * c.share) n, stack := capRate (64 * c.rateNom) n, galLat := 80
    galFirst := if c.kind = 0 then 80 else 240, stkLat := 500, stkFirst := 660 }

/-- The isolated column for a scene of `w` parts. -/
def isoRates (mhz w : Nat) : Rates :=
  { mhz := mhz, galley := capRate 1638400 w, stack := capRate 1638400 w, galLat := 60, galFirst := 60, stkLat := 250, stkFirst := 250 }

/-- The platen's time line through one micro-operation: the last instruction's entry and rows, and the cycle after the last drain. -/
def platStep (st : Option (Nat × Nat) × Nat) : CostOp → Option (Nat × Nat) × Nat
  | .press m swap closes =>
    let f := match st.1 with
      | none => 64
      | some e => e.1 + (if swap then max e.2 64 else e.2)
    (some (f, m), if closes then max (f + m + 6) st.2 + m else st.2)
  | _ => st

def platCycles (ops : List CostMicro) : Nat := ((ops.map CostMicro.op).foldl platStep (none, 0)).2

/-- A vector micro-operation. -/
def costVec : CostOp → Bool
  | .vec _ => true
  | _ => false

/-- Bytes that a micro-operation moves at the galley and at the stacks. -/
def costGalley : CostOp → Nat
  | .galley n _ => n
  | _ => 0
def costStack : CostOp → Nat
  | .stack n _ => n
  | _ => 0

/-- A micro-operation's latency in cycles; a PRESS takes its rows, the platen's stages and its drain. -/
def costLatency (r : Rates) : CostOp → Nat
  | .press m _ closes => m + 6 + if closes then m else 0
  | .vec special => if special then 8 else 4
  | .case => 4
  | .galley _ first => nsCycles r.mhz (if first then r.galFirst else r.galLat)
  | .stack _ first => nsCycles r.mhz (if first then r.stkFirst else r.stkLat)
  | .bleed => 0

/-- When each micro-operation ends at the earliest, in order; one that names a later place depends on nothing there. -/
def pathEnds (r : Rates) : List CostMicro → List Nat → List Nat
  | [], ends => ends
  | x :: xs, ends => pathEnds r xs (ends ++ [((x.after.map fun k => ends.getD k 0).foldl max 0) + costLatency r x.op])

def pathCycles (r : Rates) (ops : List CostMicro) : Nat := (pathEnds r ops []).foldl max 0

/-- The budget of a part on a press. -/
def partBudget (r : Rates) (bleed : Nat) (ops : List CostMicro) : Nat :=
  let sum := fun (f : CostOp → Nat) => (ops.map fun x => f x.op).sum
  300 + max (max (platCycles ops) ((ops.filter fun x => costVec x.op).length + 8))
    (max (rateCycles r.mhz r.galley (sum costGalley) + rateCycles r.mhz r.stack (sum costStack)) (pathCycles r ops + bleed))

/-! ### A play under lowering -/

/-- What the lowering of a play reads: F_ARITH, the play and its container, the device configuration, its partition, and the taps of each
node that R175 allows to leave out. -/
structure LowCtx where
  mhz : Nat
  copy : List Byte
  cfg : List Byte
  play : Play
  part : Partition
  dead : List (Nat × Nat × Nat)

/-- The nodes of a stretch with their places. -/
def LowCtx.nodesOf (x : LowCtx) (sp : Span) : List (Nat × Node) :=
  ((List.range x.play.nodes.length).filter fun i => decide (sp.first ≤ i ∧ i ≤ sp.last)).filterMap fun i => (x.play.nodes[i]?).map fun n => (i, n)

def LowCtx.dims (x : LowCtx) (t : Nat) : List Nat := ((x.play.tensors[t]?).map Tensor.dims).getD []

/-- Kernel height and width of a convolution's weight by its layout. -/
def convKernel (n : Node) (w : List Nat) : Nat × Nat :=
  if n.op = 0x0111 then (w.getD 2 1, w.getD 3 1)
  else if n.val 4 0 0 = 1 then (w.getD 1 1, w.getD 2 1) else (w.getD 2 1, w.getD 3 1)

/-- An axis of the phase of the outputs `rest` modulo the stride: a CONV of stride 1 with the taps that reach them (R176). -/
def phaseAxis (k stride dil before rest : Nat) : PhaseAxis :=
  let taps := ((List.range k).filter fun i => decide (i * dil % stride = (rest + before) % stride)).reverse
  { rest := rest, taps := taps, dil := dil / Nat.gcd stride dil
    pad := match taps with
      | [] => 0
      | i :: _ => ((i * dil : Nat) - (rest + before : Nat) : Int) / stride }

/-- The phase convolutions of a CONV_TRANSPOSED, one for each pair of output places modulo the strides (R176). -/
def LowCtx.phasesOf (x : LowCtx) (i : Nat) (n : Node) : List (Nat × PhaseAxis × PhaseAxis) :=
  if n.op ≠ 0x0112 then []
  else
    let k := convKernel n (x.dims (n.ins.getD 1 0))
    (List.range (n.val 0x20 0 1)).flatMap fun a => (List.range (n.val 0x20 1 1)).map fun b =>
      (i, phaseAxis k.1 (n.val 0x20 0 1) (n.val 0x21 0 1) (n.val 0x22 0 0) a, phaseAxis k.2 (n.val 0x20 1 1) (n.val 0x21 1 1) (n.val 0x22 2 0) b)

/-- What is asked of the choice of micro-operations. -/
def LowCtx.work (x : LowCtx) (sp : Span) (n parts part : Nat) : Work :=
  { mhz := x.mhz, copy := x.copy, cfg := x.cfg, first := sp.first, last := sp.last, lo := sp.lo, hi := sp.hi, presses := n
    parts := parts, part := part, dead := x.dead.filter fun d => decide (sp.first ≤ d.1 ∧ d.1 ≤ sp.last)
    phases := (x.nodesOf sp).flatMap fun e => x.phasesOf e.1 e.2 }

/-! ### Dead taps (R175) -/

/-- A tap along an axis reads no place of the input for any output. -/
def deadAxis (size out stride before dil k : Nat) : Bool :=
  (List.range out).all fun o => decide (o * stride + k * dil < before ∨ before + size ≤ o * stride + k * dil)

/-- Element `i` of a weight is no Inf and no NaN and lies in no block scaled 0xFF. -/
def plainWeight (t : Tensor) (bs : List Byte) (i : Nat) : Bool :=
  let scale : Nat := if isMx t.format then u8 bs (padTo 64 (packedLen t.format (prod t.dims)) + i / 32)
    else if t.format = fT64 then u8 bs (14 * (i / 64) + 13) else 0
  decide (scale ≠ 255) && (decide (t.format = fT64) || (match elemVal t.format (elemCode t.format i ((elemAddrs t.format 0 i).map fun k => bs.getD k 0)) with
    | .num _ _ _ => true
    | _ => false))

/-- The tap of element `i` of a weight whose kernel is kh × kw, by its layout. -/
def tapOf (n : Node) (w : List Nat) (i : Nat) : Nat × Nat :=
  let k := convKernel n w
  let c := if n.val 4 0 0 = 1 then w.getD 3 1 else 1
  (i / (c * k.2) % k.1, i / c % k.2)

/-- The dead taps of a CONV whose weight allows them to be left out. -/
def deadTaps (p : Play) (konst : Tensor → List Byte) (i : Nat) (n : Node) : List (Nat × Nat × Nat) :=
  let v := p.view n
  match v.t 0, v.t 1 with
  | some x, some w =>
    if n.op ≠ 0x0110 ∨ w.kind ≠ 3 then []
    else
      let k := convKernel n w.dims
      let o := v.outDims 0
      (List.range k.1).flatMap fun ky => (List.range k.2).filterMap fun kx =>
        if (deadAxis (x.dims.getD 1 1) (o.getD 1 1) (n.val 0x20 0 1) (n.val 0x22 0 0) (n.val 0x21 0 1) ky ||
              deadAxis (x.dims.getD 2 1) (o.getD 2 1) (n.val 0x20 1 1) (n.val 0x22 2 0) (n.val 0x21 1 1) kx) &&
            (List.range (prod w.dims)).all (fun j => decide (tapOf n w.dims j ≠ (ky, kx)) || plainWeight w (konst w) j) then some (i, ky, kx)
        else none
  | _, _ => []

def Play.deadTaps (p : Play) (konst : Tensor → List Byte) : List (Nat × Nat × Nat) :=
  (List.range p.nodes.length).flatMap fun i => ((p.nodes[i]?).map fun n => Machine.deadTaps p konst i n).getD []

/-! ### Stripes and bands (R178 to R181) -/

/-- Operators of a chain that may be striped. -/
def stripable (op : Nat) : Bool := decide (op ∈ [0x0110, 0x0111, 0x0120, 0x0121]) || decide (op / 256 = 3)

/-- A stretch is a chain: each node takes the output of the one before it, whole images of rank 3, an elementwise node of one shape. -/
def LowCtx.chain (x : LowCtx) (sp : Span) : Bool :=
  let ns := (x.nodesOf sp).map Prod.snd
  decide (sp.hi = 0) && ns.all (fun n => stripable n.op && n.outs.all (fun t => decide ((x.dims t).length = 3)) &&
      (decide (n.op / 256 ≠ 3) || n.ins.all fun t => decide (x.dims t = x.dims (n.outs.headD 0)))) &&
    (ns.zip (ns.drop 1)).all fun e => e.1.outs.all fun t => decide (t ∈ e.2.ins)

/-- The tensors of a chain: its first input and the outputs of its nodes. -/
def LowCtx.chainTensors (x : LowCtx) (sp : Span) : List Nat :=
  match (x.nodesOf sp).map Prod.snd with
  | [] => []
  | n :: ns => n.ins.headD 0 :: n.outs ++ ns.flatMap Node.outs

def LowCtx.height (x : LowCtx) (t : Nat) : Nat := (x.dims t).getD 1 1

/-- First row of part `k` of a tensor's `parts` stripes. -/
def LowCtx.row (x : LowCtx) (sp : Span) (n parts t k : Nat) : Nat :=
  if k = 0 then 0 else if parts ≤ k then x.height t else Config.stripeRow (x.work sp n parts k) t

/-- Rows of a node's window, with its height: those of POOL, or of a kernel. -/
def LowCtx.windowRows (x : LowCtx) (n : Node) : Nat × Nat :=
  if n.op = 0x0120 then (n.val 0x25 0 1, 1) else ((convKernel n (x.dims (n.ins.getD 1 0))).1, n.val 0x21 0 1)

/-- A row of a kernel has a tap that is not omitted (R175). -/
def LowCtx.liveRow (x : LowCtx) (i : Nat) (n : Node) (ky : Nat) : Bool :=
  decide (n.op = 0x0120) || (List.range (convKernel n (x.dims (n.ins.getD 1 0))).2).any fun kx => decide ((i, ky, kx) ∉ x.dead)

/-- A node needs input row `r` for output rows `a` to `b − 1` (R173, R179, R186, R187): a window operator the rows from the first window's top to
the last window's bottom, less those that only omitted taps would read. -/
def LowCtx.needsRow (x : LowCtx) (i : Nat) (n : Node) (a b r : Nat) : Bool :=
  let h := x.height (n.ins.headD 0)
  let q := x.height (n.outs.headD 0)
  let outs := (List.range q).filter fun oy => decide (a ≤ oy ∧ oy < b)
  if n.op = 0x0121 then outs.any fun oy =>
    if n.mode = 0 then decide (nearestIndex h q oy = r)
    else decide ((bilinear h q oy).1 = r ∨ min ((bilinear h q oy).1 + 1) (h - 1) = r)
  else if n.op / 256 = 3 then decide (a ≤ r ∧ r < b)
  else
    let sh := n.val 0x20 0 1
    let pt := n.val 0x22 0 0
    let k := x.windowRows n
    let taps := (List.range k.1).filter fun ky => outs.any fun oy => decide (oy * sh + ky * k.2 = r + pt)
    decide (a < b ∧ a * sh ≤ r + pt ∧ r + pt ≤ (b - 1) * sh + (k.1 - 1) * k.2) && (taps.isEmpty || taps.any (x.liveRow i n))

/-- Rows of a tensor in part `k` that another part of the chain reads. -/
def LowCtx.band (x : LowCtx) (sp : Span) (n parts t k reader : Nat) : List Nat :=
  ((List.range (x.height t)).filter fun r => decide (x.row sp n parts t k ≤ r ∧ r < x.row sp n parts t (k + 1))).filter fun r =>
    (x.nodesOf sp).any fun e => decide (t = e.2.ins.headD 0 ∨ (t ∈ e.2.ins ∧ e.2.op / 256 = 3)) &&
      (let o := e.2.outs.headD 0
       x.needsRow e.1 e.2 (x.row sp n parts o reader) (x.row sp n parts o (reader + 1)) r)

/-- A striping keeps R179 and R181: every stripe has rows, at most 65,535, and bleed comes from the adjacent parts alone. -/
def LowCtx.stripesOk (x : LowCtx) (sp : Span) (n parts : Nat) : Bool :=
  x.chain sp && decide (2 ≤ parts ∧ parts ≤ 16) && (x.chainTensors sp).all fun t => (List.range parts).all fun k =>
    decide (x.row sp n parts t k < x.row sp n parts t (k + 1) ∧ x.row sp n parts t (k + 1) ≤ x.row sp n parts t k + 65535) &&
      (List.range parts).all fun q => decide (q ≤ k + 1 ∧ k ≤ q + 1) || decide (x.band sp n parts t k q = [])

/-- The parts of a scene: its partition's width, or the stripes of a safety scene on at most `n` presses, one where the imposer's striping is
not a good one. -/
def LowCtx.parts (x : LowCtx) (n : Nat) (sp : Span) : Nat :=
  if x.part.kind = 0 then
    let s := Config.stripes (x.work sp n 0 0)
    if s ≤ n ∧ x.stripesOk sp n s = true then s else 1
  else max x.part.width 1

/-- A scene's parts are stripes of a chain. -/
def LowCtx.striped (x : LowCtx) (n : Nat) (sp : Span) : Bool :=
  decide (1 < x.parts n sp) && (decide (x.part.kind = 0) || decide (Config.stripes (x.work sp n 0 0) = x.part.width)) && x.stripesOk sp n (x.parts n sp)

/-- The bands that a scene's parts exchange: the tensor, the part, whether it is the bottom band, and its rows in ascending order; the chain's
own input is read where it lies. -/
def LowCtx.bands (x : LowCtx) (n : Nat) (sp : Span) : List Band :=
  if x.striped n sp = false then []
  else
    let parts := x.parts n sp
    ((x.chainTensors sp).drop 1).flatMap fun t => (List.range parts).flatMap fun k =>
      ((if k = 0 then [] else [(false, x.band sp n parts t k (k - 1))]) ++ (if k + 1 < parts then [(true, x.band sp n parts t k (k + 1))] else [])
        |>.filter fun e => e.2 ≠ []).map fun e => { tensor := t, part := k, bottom := e.1, rows := e.2.length }

/-! ### The understudy's cost model (R173, R321) -/

/-- Array cycles of matrix products of M × K × N. -/
def arrayCycles (m k n : Nat) : Nat := ((k + 31) / 32) * ((n + 31) / 32) * (m + 32) + 32

/-- Rows that a stretch leaves of an outermost dimension. -/
def Span.rows (sp : Span) (d : Nat) : Nat := if sp.hi = 0 then d else sp.hi - sp.lo

/-- Array cycles of a node, the outermost output dimension cut to the stretch's rows. -/
def LowCtx.nodeArray (x : LowCtx) (sp : Span) (n : Node) : Nat :=
  let a := x.dims (n.ins.headD 0)
  let b := x.dims (n.ins.getD 1 0)
  let o := x.dims (n.outs.headD 0)
  let d := o.length
  if n.op = 0x0101 ∨ n.op = 0x0102 then
    if d ≤ 2 then arrayCycles (sp.rows (o.headD 1)) (a.getLastD 1) (o.getLastD 1)
    else sp.rows (o.headD 1) * prod ((o.take (d - 2)).drop 1) * arrayCycles (o.getD (d - 2) 1) (a.getLastD 1) (o.getLastD 1)
  else if n.op = 0x0110 then
    let k := convKernel n b
    let g := n.val 0x23 0 1
    let per := o.headD 1 / g
    ((List.range g).map fun i =>
      let lo := if sp.hi = 0 then i * per else max (i * per) sp.lo
      let hi := if sp.hi = 0 then (i + 1) * per else min ((i + 1) * per) sp.hi
      if lo < hi then arrayCycles (o.getD 1 1 * o.getD 2 1) (k.1 * k.2 * padTo 16 (a.headD 1 / g)) (hi - lo) else 0).sum
  else 0

/-- The budget of an understudy scene in understudy cycles, at a galley rate. -/
def LowCtx.coreBudget (x : LowCtx) (rate : Nat × Nat) (sp : Span) : Nat :=
  let ops := Config.coreOps (x.work sp 0 1 0)
  let vec := (ops.map fun o => match o with
    | .vec n special => (if special then 2 else 1) * ((n + 63) / 64 + 8)
    | _ => 0).sum
  let umem := (ops.map fun o => match o with
    | .umem n => n
    | _ => 0).sum
  let gal := (ops.map fun o => match o with
    | .galley n => n
    | _ => 0).sum
  300 + max ((x.nodesOf sp).map fun e => x.nodeArray sp e.2).sum (max vec ((umem + 127) / 128 + rateCycles 300 rate gal))

/-! ### Budgets of a scene (R269 to R271, R283) -/

/-- Own budgets of a scene's parts, before bleed waits. -/
def LowCtx.ownBudgets (x : LowCtx) (r : Rates) (n : Nat) (sp : Span) : List Nat :=
  (List.range (x.parts n sp)).map fun k => partBudget r 0 (Config.microOps (x.work sp n (x.parts n sp) k))

/-- Bleed waits of a part: its neighbours' budgets bound them, taken without their own waits (DESIGN CHOICE, assumption 122). -/
def bleedOf (own : List Nat) (ops : List CostMicro) (k : Nat) : Nat :=
  if ops.any fun o => o.op = .bleed then max (if k = 0 then 0 else own.getD (k - 1) 0) (own.getD (k + 1) 0) else 0

/-- Budget of a scene in cycles of its units, for `n` presses: the largest of its parts. -/
def LowCtx.budget (x : LowCtx) (n : Nat) (sp : Span) : Nat :=
  if x.play.kind = 1 then x.coreBudget (capRate (6400 * x.part.share) 1) sp
  else
    let r := budgetRates x.mhz x.part n
    let own := x.ownBudgets r n sp
    ((List.range (x.parts n sp)).map fun k =>
      let ops := Config.microOps (x.work sp n (x.parts n sp) k)
      partBudget r (if x.striped n sp then bleedOf own ops k else 0) ops).foldl max 0

/-- Cycles per µs of the units that a play runs on. -/
def LowCtx.unitMhz (x : LowCtx) : Nat := if x.play.kind = 1 then 300 else x.mhz

/-- A budget in µs (R43). -/
def LowCtx.budgetUs (x : LowCtx) (n : Nat) (sp : Span) : Nat := (x.budget n sp + x.unitMhz - 1) / x.unitMhz

/-- The isolated estimates of a scene's parts, in arithmetic cycles, part by part; an understudy scene's are brought to them (DEDUCED,
assumption 123). -/
def LowCtx.iso (x : LowCtx) (n : Nat) (sp : Span) : List Nat :=
  if x.play.kind = 1 then [(x.coreBudget (capRate 1638400 1) sp * x.mhz + 299) / 300]
  else x.ownBudgets (isoRates x.mhz (x.parts n sp)) n sp

/-- The splits of the case of a scene's parts, each a multiple of 512 from 512 to 8,192 lines (R232). -/
def LowCtx.splits (x : LowCtx) (n : Nat) (sp : Span) : List Nat :=
  if x.play.kind = 1 then [] else (List.range (x.parts n sp)).map fun k => 512 * (1 + (Config.caseSplit (x.work sp n (x.parts n sp) k)).1)

/-- The programs of a scene's parts (R266); the cores run none. -/
def LowCtx.progs (x : LowCtx) (n : Nat) (sp : Span) : List (List (List Micro)) :=
  if x.play.kind = 1 then []
  else (List.range (x.parts n sp)).map fun k => (List.finRange 8).map fun h => Config.program (x.work sp n (x.parts n sp) k) h

/-- What a scene costs on `n` presses. -/
def LowCtx.cost (x : LowCtx) (n : Nat) (sp : Span) : Cost :=
  { budget := x.budgetUs n sp, iso := x.iso n sp, splits := x.splits n sp, progs := x.progs n sp }

/-! ### Forming scenes (R160, R267, R269) -/

/-- The presses that R271 counts for a play. -/
def LowCtx.full (x : LowCtx) : Nat := if x.play.kind = 1 then 4 else maskCount x.part.mask

def LowCtx.fits (x : LowCtx) (cap : Nat) (sp : Span) : Bool := decide (x.budgetUs x.full sp ≤ cap)

/-- The hint of a node, if it has one. -/
def LowCtx.hintOf (x : LowCtx) (i : Nat) : Option (Nat × Hint) :=
  (x.play.nodes[i]?).bind fun n => (x.play.hints[n.hint]?).map fun h => (n.hint, h)

def LowCtx.capOf (x : LowCtx) (cap i : Nat) : Nat := ((x.hintOf i).map fun h => min cap h.2.cap).getD cap
def LowCtx.whole (x : LowCtx) (i : Nat) : Bool := ((x.hintOf i).map fun h => h.2.noSplit).getD false
def LowCtx.group (x : LowCtx) (i : Nat) : Option Nat := (x.hintOf i).map Prod.fst

/-- The outermost output dimension of a node, 1 for an operator that is never divided. -/
def LowCtx.outer (x : LowCtx) (i : Nat) : Nat :=
  match x.play.nodes[i]? with
  | some n => if n.op = 0x0701 ∨ n.op = 0x0702 ∨ n.op = 0x0703 ∨ n.op = 0x0707 then 1 else (x.dims (n.outs.headD 0)).headD 1
  | none => 1

/-- Rows `lo` to `hi − 1` of a node in `k` equal parts, the last with the remainder (DEDUCED, assumption 124). -/
def splitRows (i lo hi k : Nat) : List Span :=
  let q := (hi - lo) / k
  (List.range k).map fun j => { first := i, last := i, lo := lo + j * q, hi := if j + 1 = k then hi else lo + (j + 1) * q }

/-- A node, or rows of one, in the fewest equal parts that fit; none where it cannot be divided. -/
def LowCtx.divide (x : LowCtx) (cap i lo hi : Nat) : Option (List Span) :=
  (((List.range (hi - lo + 1)).drop 2).find? fun k => (splitRows i lo hi k).all (x.fits cap)).map (splitRows i lo hi)

/-- One node of the walk: the scenes closed so far, the open one, and whether every one could be lowered. -/
def LowCtx.take (x : LowCtx) (cap : Nat) (st : Option (List Span × Option Span)) (i : Nat) : Option (List Span × Option Span) :=
  st.bind fun (done, cur) =>
    let one : Span := { first := i, last := i, lo := 0, hi := 0 }
    let c := x.capOf cap i
    let alone := fun (done : List Span) =>
      if x.whole i ∨ x.fits c one = true then some (done, some one)
      else (x.divide c i 0 (x.outer i)).map fun l => (done ++ l, none)
    match cur with
    | none => alone done
    | some sp =>
      let wider := { sp with last := i }
      if x.group sp.first = x.group i ∧ (x.whole i = true ∨ x.fits c wider = true) then some (done, some wider)
      else if x.whole sp.first && !x.fits (x.capOf cap sp.first) sp then none
      else alone (done ++ [sp])

/-- The walk over a stretch of nodes: the scenes it forms, or none where a node or a hint group cannot be lowered (R267, R160). -/
def LowCtx.walk (x : LowCtx) (cap first last : Nat) : Option (List Span) :=
  (((List.range x.play.nodes.length).filter fun i => decide (first ≤ i ∧ i ≤ last)).foldl (x.take cap) (some ([], none))).bind fun (done, cur) =>
    match cur with
    | none => some done
    | some sp => if x.whole sp.first && !x.fits (x.capOf cap sp.first) sp then none else some (done ++ [sp])

/-- The fine scenes of a scene: none for one within 250 µs, for a group that must not be split, or for a safety play (R269). -/
def LowCtx.fine (x : LowCtx) (sp : Span) : Option (List Span) :=
  if x.play.kind < 2 ∨ x.fits 250 sp = true ∨ x.whole sp.first = true then some []
  else if sp.hi = 0 ∧ sp.first < sp.last then x.walk 250 sp.first sp.last
  else if sp.hi = 0 then x.divide (x.capOf 250 sp.first) sp.first 0 (x.outer sp.first)
  else x.divide (x.capOf 250 sp.first) sp.first sp.lo sp.hi

/-- Tensors that the nodes of a stretch read and write. -/
def LowCtx.reads (x : LowCtx) (sp : Span) : List Nat := (x.nodesOf sp).flatMap fun e => e.2.ins
def LowCtx.writes (x : LowCtx) (sp : Span) : List Nat := (x.nodesOf sp).flatMap fun e => e.2.outs

/-- A tensor whose value of this run the run's scenes read: a state tensor's readers see the run before (R155). -/
def LowCtx.passes (x : LowCtx) (t : Nat) : Bool :=
  match x.play.tensors[t]? with
  | some k => decide (k.kind = 0 ∨ k.kind = 2)
  | none => false

/-- Scenes among `all` that write what a stretch reads. -/
def LowCtx.producers (x : LowCtx) (all : List Span) (k : Nat) (sp : Span) : List Nat :=
  (List.range all.length).filter fun j => decide (j ≠ k) && (match all[j]? with
    | some q => (x.writes q).any fun t => x.passes t && decide (t ∈ x.reads sp)
    | none => false)

/-- The token output of a play: its first kind-2 tensor that a node writes (R210). -/
def LowCtx.tokenOut (x : LowCtx) : Option Nat :=
  (List.range x.play.tensors.length).find? fun t => decide (((x.play.tensors[t]?).map Tensor.kind) = some 2)

/-- The scene of a stretch among all of a play's. -/
def LowCtx.scene (x : LowCtx) (all : List Span) (k : Nat) (sp : Span) : Option SceneRep :=
  (x.fine sp).map fun fine =>
    let tok := fun (q : Span) => (x.tokenOut.map fun t => decide (t ∈ x.writes q)).getD false
    { span := sp, cost := x.cost x.full sp, width := x.parts x.full sp, producers := x.producers all k sp
      tokens := decide (x.play.kind = 2) && tok sp && !((all.drop (k + 1)).any tok), bands := x.bands x.full sp
      fine := fine.map fun q => { span := q, cost := x.cost x.full q, bands := x.bands x.full q } }

/-- The scenes of a play, or none where it cannot be lowered. -/
def LowCtx.scenes (x : LowCtx) : Option (List SceneRep) :=
  (x.walk 2000 0 x.play.nodes.length).bind fun all =>
    (List.range all.length).foldr (fun k l => match all[k]? with
      | some sp => (x.scene all k sp).bind fun r => l.map fun l => r :: l
      | none => l) (some [])

/-! ### Plans (R272, R321) -/

/-- A plan under construction: when each rank is free, and each scene's ranks, start and end, in cycles. -/
structure Planning where
  free : List Nat
  ranks : List (List Nat)
  starts : List Nat
  ends : List Nat

/-- One scene takes the ranks that are free first, ties to the lower rank (DESIGN CHOICE, assumption 125), at the earliest time at which they
are free and its producers' budgets have ended. -/
def planScene (st : Planning) (w cost : Nat) (producers : List Nat) : Planning :=
  let order := (sortBy (fun r => st.free.getD r 0) (List.range st.free.length)).take w
  let rs := (List.range st.free.length).filter fun r => decide (r ∈ order)
  let start := ((rs.map fun r => st.free.getD r 0) ++ producers.map fun q => st.ends.getD q 0).foldl max 0
  { free := st.free.zipIdx.map fun e => if e.2 ∈ rs then start + cost else e.1
    ranks := st.ranks ++ [rs], starts := st.starts ++ [start], ends := st.ends ++ [start + cost] }

/-- Whole 2 MiB pages. -/
def pagesOf (bytes : Nat) : Nat := (bytes + chunkSize - 1) / chunkSize

/-- Bytes of a band's exchange buffer: those of its rows (R181, R183). -/
def Play.bandBytes (p : Play) (b : Band) : Nat :=
  match p.tensors[b.tensor]? with
  | none => 0
  | some t => b.rows * (t.size / max (t.dims.getD 1 1) 1)

/-- Pages that hold a play's constants: of each weight section, the pages its constants touch. -/
def constPagesOf (p : Play) : Nat :=
  ((p.tensors.filter fun t => decide (t.kind = 3)).flatMap fun t =>
    (List.range (pagesOf (t.offset + t.length))).filterMap fun g => if t.offset / chunkSize ≤ g then some (t.source, g) else none).dedup.length

/-- Pages of the buffers that outlive their scene, each in pages of its own (DESIGN CHOICE, assumption 126). -/
def keptPages (p : Play) (sps : List Span) : Nat :=
  ((List.range p.tensors.length).map fun t =>
    if sps.any (fun sp => p.leavesSpan sp t) then pagesOf (((p.tensors[t]?).map Tensor.size).getD 0) else 0).sum

/-- The stretches of a play with every range in fine form where it has one: they need the most buffers (R269, R273). -/
def finest (ss : List SceneRep) : List Span := ss.flatMap fun r => if r.fine = [] then [r.span] else r.fine.map FineRep.span

/-- Pages of the two buffers of each link that a play produces for (R282). -/
def linkPages (ls : List Link) (p : Play) : Nat :=
  ((ls.filter fun l => l.producer = p.index).map fun l => 2 * pagesOf (((p.tensors[l.ptensor]?).map Tensor.size).getD 0)).sum

/-- Bytes of a batch: the descriptor, the records and the slots (R82). -/
def batchSize (streams : List (Option Stream)) : Nat :=
  1088 + (streams.map fun x => match x with
    | some c => padTo 64 c.slotBytes
    | none => 0).sum

/-- The plan of a safety or understudy play for a unit count, with what it needs of the galley besides `base` pages (R272, R473). -/
def LowCtx.plan (x : LowCtx) (ss : List SceneRep) (base n : Nat) : PlanRep :=
  let st := ss.foldl (fun st r => planScene st (if x.play.kind = 1 then 1 else x.parts n r.span) (x.budget n r.span) r.producers)
    { free := List.replicate n 0, ranks := [], starts := [], ends := [] }
  let bands := ss.map fun r => if x.play.kind = 1 then [] else x.bands n r.span
  let running := fun (t : Nat) => ((bands.zip (st.starts.zip st.ends)).map fun e =>
    if e.2.1 ≤ t ∧ t < e.2.2 then (e.1.map fun b => pagesOf (x.play.bandBytes b)).sum else 0).sum
  { count := n, ranks := st.ranks, starts := st.starts.map fun c => (c + x.unitMhz - 1) / x.unitMhz
    makespan := (st.ends.foldl max 0 + x.unitMhz - 1) / x.unitMhz
    costs := ss.map fun r => x.cost n r.span, bands := bands
    galleyNeed := base + 3 * keptPages x.play (ss.map SceneRep.span) + 2 * (st.starts.map running).foldl max 0 }

/-- Pages of a cognition or other play's leaf pools with every leaf at its home frame. -/
def poolPages (p : Play) : Nat := pagesOf ((p.tensors.filter fun t => decide (t.kind = 6)).map Tensor.size).sum

/-- A play lowered: its scenes, its plans, and its needs (R266). -/
def lowerPlay (x : LowCtx) (links : List Link) (streams : List (Option Stream)) : PlayRep :=
  match x.scenes with
  | none => { scenes := [], plans := [], leafNeed := 0, stepNeed := 0, lowerable := false }
  | some ss =>
    let base := constPagesOf x.play + 4 * pagesOf (batchSize streams) + linkPages links x.play
    { scenes := ss
      plans := if x.play.kind = 0 then ((List.range (maskCount x.part.mask + 1)).drop (max x.part.min 1)).map (x.plan ss base)
        else if x.play.kind = 1 then [1, 2, 3, 4].map (x.plan ss 0) else []
      leafNeed := poolPages x.play, stepNeed := keptPages x.play (finest ss) + linkPages links x.play, lowerable := true }

end Sys2Proof.Machine
end

