-- ==== Sys2Proof/Machine/Pipeline.lean ====
section
/-! DEFINITION. The ingest pipeline: unpacking, time-of-flight depth, point records, demosaic, colour, normalisation, rescale, output,
and the proof inputs with their expected CRC (R59, R61 to R67, R71 to R76, R87 to R89). -/

namespace Sys2Proof.Machine

/-! ### Images -/

/-- An image of `w` by `h` pixels in row order, each with its components. -/
structure Img (α : Type) where
  w : Nat
  h : Nat
  px : Array (List α)

def Img.at_ {α : Type} (g : Img α) (x y : Nat) : List α := g.px.getD (y * g.w + x) []

def Img.make {α : Type} (w h : Nat) (f : Nat → Nat → List α) : Img α :=
  { w := w, h := h, px := ((List.range h).flatMap fun y => (List.range w).map fun x => f x y).toArray }

/-! ### Unpacking (R59; packings of CSI-2, assumption 25) -/

/-- Bits of a pixel on the link; a DPCM scheme's middle number (R59). -/
def Stream.bits (c : Stream) : Nat :=
  if c.dt = 0x1E ∨ c.dt = 0x22 ∨ c.dt = 0x2E then 16 else if c.dt = 0x24 then 24
  else if c.dt = 0x2B then 10 else if c.dt = 0x2C then 12 else if c.dt = 0x2D then 14
  else if 0x30 ≤ c.dt then 8 - c.dpcm % 3 else 8

/-- Bytes of a line payload. -/
def Stream.lineBytes (c : Stream) : Nat := (c.width * c.bits + 7) / 8

/-- Bits of a component after unpacking. -/
def Stream.depth (c : Stream) : Nat :=
  if c.kind = 3 then 8
  else if c.dt = 0x2B then 10 else if c.dt = 0x2C then 12 else if c.dt = 0x2D then 14 else if c.dt = 0x2E then 16
  else if 0x30 ≤ c.dt ∧ c.dt ≤ 0x37 then (if c.dpcm < 3 then 10 else 12)
  else 8

/-- A line in groups of `n` bytes; what is left beyond the last whole group is dropped, and its pixels read as zero (DESIGN CHOICE, assumption
143). -/
def groupsOf (n : Nat) (l : List Byte) : List (List Byte) := (List.range (l.length / n)).map fun i => sub l (n * i) n

/-! #### DPCM as CSI-2 v3.0 defines it (R59; PRESUMED, assumption 11) -/

/-- One code of a scheme: its leading bits and how many they are, the first difference it stands for, and its step. -/
structure DpcmCode where
  lead : Nat
  bits : Nat
  start : Nat
  step : Nat

/-- The difference codes of a scheme, by its number in R59's order. -/
def dpcmCodes : Nat → List DpcmCode
  | 0 => [⟨0, 2, 0, 1⟩, ⟨2, 3, 32, 2⟩, ⟨3, 3, 64, 4⟩]
  | 1 => [⟨0, 3, 0, 1⟩, ⟨2, 4, 8, 2⟩, ⟨3, 4, 16, 4⟩, ⟨1, 2, 32, 8⟩]
  | 2 => [⟨0, 5, 0, 1⟩, ⟨1, 5, 1, 2⟩, ⟨1, 4, 3, 4⟩, ⟨1, 3, 11, 8⟩, ⟨1, 2, 43, 16⟩]
  | 3 => [⟨0, 4, 0, 1⟩, ⟨3, 3, 8, 2⟩, ⟨2, 3, 40, 4⟩, ⟨1, 3, 104, 8⟩, ⟨1, 4, 232, 16⟩]
  | 4 => [⟨0, 4, 0, 1⟩, ⟨1, 4, 4, 2⟩, ⟨2, 4, 12, 4⟩, ⟨2, 3, 28, 8⟩, ⟨3, 3, 92, 16⟩, ⟨3, 4, 220, 32⟩]
  | _ => [⟨0, 4, 0, 1⟩, ⟨1, 4, 2, 4⟩, ⟨2, 3, 10, 8⟩, ⟨2, 4, 42, 16⟩, ⟨3, 3, 74, 32⟩, ⟨3, 4, 202, 64⟩]

/-- A coded pixel of `w` bits against its prediction, in `d` bits: a difference with its sign bit, or after a leading 1 the pixel itself
in coarse steps. -/
def dpcmPixel (scheme w d pred x : Nat) : Nat :=
  let unit := 2 ^ (d + 1 - w)
  if 2 ^ (w - 1) ≤ x then
    let v := x % 2 ^ (w - 1) * unit
    if pred < v then v + unit / 2 - 1 else v + unit / 2
  else
    match (dpcmCodes scheme).find? fun c => x / 2 ^ (w - c.bits) = c.lead with
    | none => pred
    | some c =>
      let n := w - c.bits - 1
      let v := c.step * (x % 2 ^ n) + c.start + (c.step / 2 - 1)
      if x / 2 ^ n % 2 = 1 then pred - v else min (pred + v) (2 ^ d - 1)

/-- The prediction from the pixels decoded so far, newest first: the pixel before of the same colour, or with predictor 2 one that the last
four choose. -/
def dpcmPredict (predictor : Nat) (l : List Nat) : Nat :=
  let x := fun (k : Nat) => l.getD (k - 1) 0
  let mono := fun (a b c : Nat) => (a ≤ b && b ≤ c) || (c ≤ b && b ≤ a)
  if predictor = 1 ∨ l.length < 3 then x 2
  else if mono (x 1) (x 2) (x 3) then x 1
  else if l.length < 4 then x 2
  else if (decide (x 1 ≤ x 3) && decide (x 2 ≤ x 4)) || (decide (x 3 ≤ x 1) && decide (x 4 ≤ x 2)) then x 2
  else (x 2 + x 4 + 1) / 2

/-- The pixels of a line from its codes, newest first; the first two stand without a prediction. -/
def dpcmLine (scheme predictor w d : Nat) : List Nat → List Nat → List Nat
  | acc, [] => acc
  | acc, x :: xs =>
    let v := if acc.length < 2 then x * 2 ^ (d - w) + 2 ^ (d - w - 1) else dpcmPixel scheme w d (dpcmPredict predictor acc) x
    dpcmLine scheme predictor w d (v :: acc) xs

/-- Decode a line payload; codes of 7 and 6 bits are packed from the least significant bit up, as RAW7 and RAW6 are. -/
def dpcmDecode (scheme predictor : Nat) (p : List Byte) : List Nat :=
  let w := 8 - scheme % 3
  let d := if scheme < 3 then 10 else 12
  let all := leNat p
  (dpcmLine scheme predictor w d [] ((List.range (p.length * 8 / w)).map fun k => all / 2 ^ (w * k) % 2 ^ w)).reverse

/-- The pixels of a line payload (PRESUMED, assumption 25). -/
def unpackLine (c : Stream) (p : List Byte) : List (List Int) :=
  let one := fun (x : Nat) => [(x : Int)]
  if c.dt = 0x1E then
    (groupsOf 4 p).flatMap fun g =>
      [[(u8 g 1 : Int), u8 g 0, u8 g 2], [(u8 g 3 : Int), u8 g 0, u8 g 2]]
  else if c.dt = 0x22 then
    (groupsOf 2 p).map fun g =>
      let v := u16 g 0
      [(v / 2048 * 8 : Nat), (v / 32 % 64 * 4 : Nat), (v % 32 * 8 : Nat)]
  else if c.dt = 0x24 then (groupsOf 3 p).map fun g => [(u8 g 2 : Int), u8 g 1, u8 g 0]
  else if c.dt = 0x2B then
    (groupsOf 5 p).flatMap fun g => (List.range 4).map fun k => one (u8 g k * 4 + u8 g 4 / 4 ^ k % 4)
  else if c.dt = 0x2C then
    (groupsOf 3 p).flatMap fun g => [one (u8 g 0 * 16 + u8 g 2 % 16), one (u8 g 1 * 16 + u8 g 2 / 16)]
  else if c.dt = 0x2D then
    (groupsOf 7 p).flatMap fun g => (List.range 4).map fun k => one (u8 g k * 64 + uN 3 g 4 / 64 ^ k % 64)
  else if c.dt = 0x2E then (groupsOf 2 p).map fun g => one (u8 g 0 * 256 + u8 g 1)
  else if 0x30 ≤ c.dt then (dpcmDecode c.dpcm c.predictor p).map one
  else p.map fun b => one b.toNat

/-- The crop window of a frame's lines, first line first. -/
def cropped (c : Stream) (lines : List (List Byte)) : Img Int :=
  let rows := (((lines.drop c.cropY).take c.cropH).map fun l => (unpackLine c l).toArray).toArray
  Img.make c.cropW c.cropH fun x y => (rows.getD y #[]).getD (c.cropX + x) []

/-! ### Time of flight (R62, R63) -/

def tofTab : List Int := [8192, 4836, 2555, 1297, 651, 326, 163, 81, 41, 20, 10, 5, 3, 1, 1, 0]

/-- The rotations of R62 from step `i` on. -/
def tofSteps : List Int → Nat → Int × Int × Int → Int × Int × Int
  | [], _, v => v
  | t :: r, i, (x, y, z) =>
    tofSteps r (i + 1) (if 0 < y then (x + y / 2 ^ i, y - x / 2 ^ i, z + t) else (x - y / 2 ^ i, y + x / 2 ^ i, z - t))

/-- Phase φ in units of 2^−16 turn and magnitude m (R62). -/
def tofPhase (i q : Int) : Nat × Nat :=
  let (m, _, z) := tofSteps tofTab 0 (if i < 0 then (-i, -q, 32768) else (i, q, 0))
  ((z % 65536).toNat, m.toNat)

/-- Depth in mm and magnitude of one frequency's four phases. -/
def tofDepth (u : Nat) (a0 a90 a180 a270 : Int) : Nat × Nat :=
  let (phi, m) := tofPhase (a0 - a180) (a270 - a90)
  ((phi * u + 32768) / 65536, m)

/-- The unwrapped pair of R63 with its distance: smallest distance, then smallest k1, then smallest k2. -/
def unwrapped (d1 d2 u1 u2 top : Nat) : Option (Nat × Nat × Nat) :=
  let pairs := (List.range 16).flatMap fun k1 => (List.range 16).filterMap fun k2 =>
    let a := d1 + k1 * u1
    let b := d2 + k2 * u2
    if a ≤ top ∧ b ≤ top then some (a, b, (a - b) + (b - a)) else none
  pairs.foldl (fun (best : Option (Nat × Nat × Nat)) p => match best with
    | none => some p
    | some q => if p.2.2 < q.2.2 then some p else some q) none

/-- Depth and magnitude of a pixel from its phases; 0 and 0 below the amplitude threshold or beyond the tolerance, and where no pair lies within
the maximum range (DESIGN CHOICE, assumption 110). -/
def tofPixel (c : Stream) (a : List Int) : List Int :=
  let g := fun (k : Nat) => a.getD k 0
  let (d1, m1) := tofDepth c.u1 (g 0) (g 1) (g 2) (g 3)
  if c.phases = 4 then (if m1 < c.ampl then [0, 0] else [(d1 : Int), (m1 : Int)])
  else
    let (d2, m2) := tofDepth c.u2 (g 4) (g 5) (g 6) (g 7)
    if m1 < c.ampl ∨ m2 < c.ampl then [0, 0]
    else
      match unwrapped d1 d2 c.u1 c.u2 c.maxRange with
      | none => [0, 0]
      | some (a, b, d) => if c.tol < d then [0, 0] else [((a + b + 1) / 2 : Nat), (Config.tofMagnitude m1 m2 : Nat)]

/-- The 2-channel image of a set of phase frames. -/
def tofImage (c : Stream) (phases : List (List (List Byte))) : Img Int :=
  let gs := phases.map (cropped c)
  Img.make c.cropW c.cropH fun x y => tofPixel c (gs.map fun g => (g.at_ x y).headD 0)

/-! ### Demosaic and colour (R72, R73) -/

/-- Colour of a Bayer place: 0 red, 1 green, 2 blue. -/
def bayerAt (pat x y : Nat) : Nat :=
  let p := (y % 2) * 2 + x % 2
  (match pat with
   | 0 => [0, 1, 1, 2]
   | 1 => [2, 1, 1, 0]
   | 2 => [1, 0, 2, 1]
   | _ => [1, 2, 0, 1]).getD p 1

/-- Offsets of the nearest samples of colour `k` around a place that is not of it: four, or the two beside or above and below it. -/
def bayerNear (pat k x y : Nat) : List (Int × Int) :=
  let beside := bayerAt pat (x + 1) y = k
  let above := bayerAt pat x (y + 1) = k
  if beside ∧ above then [(0, -1), (-1, 0), (1, 0), (0, 1)]
  else if beside then [(-1, 0), (1, 0)]
  else if above then [(0, -1), (0, 1)]
  else [(-1, -1), (1, -1), (-1, 1), (1, 1)]

def clampIdx (x : Int) (n : Nat) : Nat := (max 0 (min x ((n : Int) - 1))).toNat

/-- One colour of a demosaiced pixel (R72). -/
def bayerColour (pat : Nat) (g : Img Int) (x y k : Nat) : Int :=
  if bayerAt pat x y = k then (g.at_ x y).headD 0
  else
    let vs := (bayerNear pat k x y).map fun (dx, dy) => (g.at_ (clampIdx (x + dx) g.w) (clampIdx (y + dy) g.h)).headD 0
    (vs.sum + (vs.length / 2 : Nat)) / vs.length

def demosaic (pat : Nat) (g : Img Int) : Img Int :=
  Img.make g.w g.h fun x y => (List.range 3).map (bayerColour pat g x y)

/-- The matrix and the input offset of a colour mode (R73, R397). -/
def colourSet (c : Stream) : List Int × List Int × List Int :=
  match c.colour with
  | 1 => ([9539, 0, 13075, 9539, -3209, -6660, 9539, 16525, 0], [16, 128, 128], [0, 0, 0])
  | 2 => ([8192, 0, 11485, 8192, -2819, -5850, 8192, 14516, 0], [0, 128, 128], [0, 0, 0])
  | 3 => ([9539, 0, 14686, 9539, -1747, -4366, 9539, 17305, 0], [16, 128, 128], [0, 0, 0])
  | _ => (c.matrix, c.inOff, c.outOff)

/-- One converted pixel (R73). -/
def colourPixel (c : Stream) (v : List Int) : List Int :=
  let (m, a, b) := colourSet c
  (List.range 3).map fun r =>
    let acc := ((List.range 3).map fun j => m.getD (3 * r + j) 0 * (v.getD j 0 - a.getD j 0)).sum
    max 0 (min ((acc + 4096) / 8192 + b.getD r 0) (2 ^ c.depth - 1))

/-- Colour conversion of a 3-component image; every other image passes. A preset applies to every such input (DESIGN CHOICE, assumption 114). -/
def colourStage (c : Stream) (g : Img Int) : Img Int :=
  if c.colour = 0 ∨ c.channels ≠ 3 then g else Img.make g.w g.h fun x y => colourPixel c (g.at_ x y)

/-! ### Normalisation, rescale and output (R74 to R76) -/

def normPixel (c : Stream) (v : List Int) : List W32 :=
  (List.range v.length).map fun k => f32mul (f32sub (f32int (v.getD k 0)) (c.means.getD k 0)) (c.scales.getD k 0)

/-- 1 / n for a power of two. -/
def recipPow2 (n : Nat) : W32 := f32of (.num false 1 (-(Nat.log2 n : Int)))

/-- Box average of one channel: added in row-major order, then multiplied by the reciprocal of the box's size. -/
def boxMean (bx by_ : Nat) (g : Img W32) (x y k : Nat) : W32 :=
  let vs := (List.range by_).flatMap fun j => (List.range bx).map fun i => (g.at_ (x * bx + i) (y * by_ + j)).getD k 0
  f32mul ((vs.drop 1).foldl f32add (vs.headD 0)) (recipPow2 (bx * by_))

def rescale (c : Stream) (g : Img W32) : Img W32 :=
  let bx := max c.boxX 1
  let by_ := max c.boxY 1
  if bx * by_ = 1 then g
  else Img.make (g.w / bx) (g.h / by_) fun x y => (List.range c.channels).map fun k => boxMean bx by_ g x y k

/-- Space-to-depth (R76). -/
def spaceToDepth (f : Nat) (g : Img W32) : Img W32 :=
  if f = 0 then g
  else Img.make (g.w / f) (g.h / f) fun x y =>
    (List.range f).flatMap fun dy => (List.range f).flatMap fun dx => g.at_ (f * x + dx) (f * y + dy)

/-- Output elements in channel blocks, channel c at (y, x) at ((c div cb) × H × W + y × W + x) × cb + c mod cb (R75). -/
def outputBytes (c : Stream) (g : Img W32) : List Byte :=
  let cb := max c.cblock 1
  let ch := (g.at_ 0 0).length
  let width := if c.outFmt = fInt8 then 1 else 2
  (List.range ((ch + cb - 1) / cb)).flatMap fun b =>
    (List.range g.h).flatMap fun y => (List.range g.w).flatMap fun x => (List.range cb).flatMap fun k =>
      let j := b * cb + k
      if j < ch then natLe width (encodeVal c.outFmt (f32val ((g.at_ x y).getD j 0))) else natLe width 0

/-- Stages 5 to 7 of an image. -/
def finish (c : Stream) (g : Img Int) : List Byte :=
  outputBytes c (spaceToDepth c.s2d (rescale c (Img.make g.w g.h fun x y => normPixel c (g.at_ x y))))

/-- The output of a camera frame. -/
def cameraBytes (c : Stream) (lines : List (List Byte)) : List Byte :=
  let g := cropped c lines
  finish c (colourStage c (if c.demosaics then demosaic c.bayer g else g))

/-- The output of a set of ToF phase frames. -/
def tofBytes (c : Stream) (phases : List (List (List Byte))) : List Byte := finish c (tofImage c phases)

/-- The output of a decoded JPEG image: crop after decode; a place outside the image has free components. -/
def jpegBytes (c : Stream) (w h : Nat) (g : Nat → Nat → Nat → Int) (free : Nat) : List Byte :=
  let get := fun (k x y : Nat) => if x < w ∧ y < h then g k x y else ((Config.outsidePixel free k (y * 65536 + x)).toNat : Int)
  finish c (colourStage c (Img.make c.cropW c.cropH fun x y => (List.range 3).map fun k => get k (c.cropX + x) (c.cropY + y)))

/-! ### Lidar points (R65 to R67) -/

/-- Source fields of the descriptors (PRESUMED, assumption 17). -/
inductive PointField where
  | x | y | z | range | azimuth | elevation | ring | intensity | time | ret
deriving DecidableEq, Repr

def PointField.code : PointField → Nat
  | .x => 1
  | .y => 2
  | .z => 3
  | .range => 4
  | .azimuth => 5
  | .elevation => 6
  | .ring => 7
  | .intensity => 8
  | .time => 9
  | .ret => 10

def Stream.hdrLen (c : Stream) : Nat := u16 c.lidar 0
def Stream.perPacket (c : Stream) : Nat := u16 c.lidar 2
def Stream.stride (c : Stream) : Nat := u8 c.lidar 4
def Stream.coordMode (c : Stream) : Nat := u8 c.lidar 5
/-- Bytes a point packet must have. -/
def Stream.packetLen (c : Stream) : Nat := c.hdrLen + c.perPacket * c.stride

/-- The descriptor of a source field; bit 7 of its code says that the offset lies in the header (PRESUMED, assumption 17). -/
def Stream.descriptor (c : Stream) (f : PointField) : Option (List Byte) :=
  ((List.range 8).map fun k => entry (c.lidar.drop 29) 16 k).find? fun d => u8 d 0 % 128 = f.code

/-- The raw integer of a source field of point `k`, 0 where no descriptor gives it. -/
def pointRaw (c : Stream) (pkt : List Byte) (k : Nat) (f : PointField) : Int :=
  match c.descriptor f with
  | none => 0
  | some d =>
    let place := u16 d 1 + (if u8 d 0 < 128 then c.hdrLen + k * c.stride else 0)
    let n := u8 d 3 / 8
    let bs := sub pkt place n
    let v := if u8 d 5 = 1 then beNat bs else leNat bs
    if u8 d 4 = 1 then signedOf (8 * n) v else (v : Int)

/-- The scaled value of a source field. -/
def pointVal (c : Stream) (pkt : List Byte) (k : Nat) (f : PointField) : W32 :=
  match c.descriptor f with
  | none => 0
  | some d => f32mul (f32int (pointRaw c pkt k f)) (BitVec.ofNat 32 (u32 d 8))

/-- Azimuth index: raw azimuth mod L. -/
def azimuth (c : Stream) (pkt : List Byte) (k : Nat) : Nat :=
  (pointRaw c pkt k .azimuth % ((c.trig.length / 2 : Nat) : Int)).toNat

/-- Sine and cosine of entry `i` of a table; a place the table lacks gives free values. -/
def sinCos (tab : List W32) (i : Nat) : W32 × W32 :=
  if 2 * i + 1 < tab.length then (tab.getD (2 * i) 0, tab.getD (2 * i + 1) 0)
  else (Config.trigOutside (2 * i), Config.trigOutside (2 * i + 1))

/-- x, y and z of a point in metres, FP32, each operation rounded (R67). -/
def pointXyz (c : Stream) (pkt : List Byte) (k : Nat) : List W32 :=
  if c.coordMode = 0 then [pointVal c pkt k .x, pointVal c pkt k .y, pointVal c pkt k .z]
  else
    let r := pointVal c pkt k .range
    let (sa, ca) := sinCos c.trig (azimuth c pkt k)
    let (se, ce) :=
      if c.coordMode = 1 then sinCos c.trig (pointRaw c pkt k .elevation % ((c.trig.length / 2 : Nat) : Int)).toNat
      else sinCos c.elev (pointRaw c pkt k .ring).toNat
    let h := f32mul r ce
    [f32mul h ca, f32mul h sa, f32mul r se]

/-- The 16-byte record of a point (R67). -/
def pointRecord (c : Stream) (pkt : List Byte) (k : Nat) : List Byte :=
  let vs := pointXyz c pkt k ++ [pointVal c pkt k .intensity, pointVal c pkt k .time, pointVal c pkt k .ring, pointVal c pkt k .ret, 0]
  vs.flatMap fun v => natLe 2 (encodeVal fFp16 (f32val v))

/-- A zero-range point that the table has dropped. -/
def pointDropped (c : Stream) (pkt : List Byte) (k : Nat) : Bool :=
  decide (c.flags / 4 % 2 = 0) &&
    (if c.coordMode = 0 then decide (pointRaw c pkt k .x = 0 ∧ pointRaw c pkt k .y = 0 ∧ pointRaw c pkt k .z = 0)
     else decide (pointRaw c pkt k .range = 0))

/-! ### Proof inputs (R87 to R89) -/

def proofLineA (n : Nat) : List Byte := (List.range n).map fun j => BitVec.ofNat 8 (37 * j + 11)
def proofLineB (n slot : Nat) : List Byte := (List.range n).map fun j => BitVec.ofNat 8 (101 * j + 7 * slot)

/-- The stream as a proof input passes it: two whole lines, no crop, no vertical box rescale, no space-to-depth (R89). -/
def Stream.forProof (c : Stream) : Stream := { c with cropX := 0, cropY := 0, cropW := c.width, cropH := 2, boxY := 1, s2d := 0 }

/-- The side buffer of a camera, ToF or lidar stream's proof input. -/
def proofBytes (c : Stream) (slot : Nat) : List Byte :=
  let n := c.lineBytes
  let two := [proofLineA n, proofLineB n slot]
  if c.kind = 0 then cameraBytes c.forProof two
  else if c.kind = 1 then tofBytes c.forProof (List.replicate c.phases two)
  else
    let pkt := proofLineA c.packetLen
    (List.range c.perPacket).flatMap fun k => if pointDropped c pkt k then [] else pointRecord c pkt k

/-- The expected CRCs of the streams, slot by slot; the die's JPEG proof frame is not in the spec, so an RTP JPEG stream's value is
the one LOADING reports (DESIGN CHOICE, assumption 29). -/
def proofCrcs (streams : List (Option Stream)) (rep : List W32) : List W32 :=
  (List.range 32).map fun i => match streams.getD i .none with
    | some c => if c.kind = 3 then rep.getD i 0 else crc32 (proofBytes c i)
    | .none => 0

end Sys2Proof.Machine
end

