-- ==== Sys2Proof/Machine/Startup.lean ====
section
/-! DEFINITION. Power, RESET, start-up, LOADING and its checks, UFS commands, fuse burns and the test port (R391 to R412, R445,
R455 to R460, R466). -/

namespace Sys2Proof.Machine

/-! ### Power and RESET -/

/-- The device reset of R455: every domain at its reset values; the part's identity, fuses, forme unit and burns stay (DEDUCED, assumption
38). -/
def deviceReset (s : State) : State :=
  { State.reset with
    pending := s.pending, now := s.now, arb := s.arb, free := s.free, ident := s.ident, fuses := s.fuses, ufs := s.ufs, ufsCap := s.ufsCap
    chip := { s.chip with pllLost := [], ufsRst := true, tap := .idcode, tdo := [], scan := [] }
    tb := { TimeBase.atReset with anchor := s.now } }

/-- What a power loss leaves of one burn (R404): an ENROLL leaves the slot damaged, its digest bits open; of the others, an
open part is burnt (DESIGN CHOICE, assumption 9). -/
def burnCut (k : Nat) (b : Burn) (f : Fuses) : Fuses :=
  match b with
  | .enroll i _ => { f with slots := vmod f.slots i fun x => { x with
      digest := (Config.freeByte k ||| 1#8) :: (List.range 63).map fun j => Config.freeByte (k + 1 + j) } }
  | .revoke i => { f with slots := vmod f.slots i fun x => { x with revoked := x.revoked || (Config.freeByte k).getLsbD 0 } }
  | .advance v => { f with rollback := f.rollback + (Config.freeByte k).toNat % (v - f.rollback + 1) }
  | .lock => { f with debugLock := f.debugLock || (Config.freeByte k).getLsbD 0 }

/-- POWER_ON: the rails rise and the part is in RESET with RESET_N still asserted (R459). -/
def execPowerOn (t : Nat) (s : State) : Host.Outcome State Fault Refusal :=
  let s := s.at t
  .next (if s.chip.powered then s
    else
      let s := deviceReset s
      { s with chip := { s.chip with powered := true, resetN := true, railsOut := [] } })

/-- POWER_LOSS: every interface is silent; burns under way are cut (R404, R466). -/
def execPowerLoss (t : Nat) (s : State) : Host.Outcome State Fault Refusal :=
  let s := s.at t
  .next (if s.chip.powered then
      let f := s.fuses.burns.foldl (fun f b => burnCut s.free b f) s.fuses
      let s := deviceReset { s with fuses := { f with burns := [] }, free := s.free + 64 }
      { s with chip := { s.chip with powered := false, resetN := true, ufsRefclk := false } }
    else s)

/-- RESET_N_ASSERT (R455). -/
def execResetNAssert (t : Nat) (s : State) : Host.Outcome State Fault Refusal :=
  let s := s.at t
  .next (if s.chip.powered then
      let s := deviceReset s
      { s with chip := { s.chip with resetN := true } }
    else s)

/-- RESET_N_DEASSERT: the work of RESET begins; UFS_RST_N is released (R406). -/
def execResetNDeassert (t : Nat) (s : State) : Host.Outcome State Fault Refusal :=
  let s := s.at t
  .next (if s.chip.powered && s.chip.resetN then
      { s with chip := { s.chip with resetN := false, ufsRst := false } }
    else s)

/-- The fused setpoint between 0.50 V and 0.62 V (R461). -/
def setpointOf (s : State) : Nat := max 500 (min (Config.setpoint s.ident.vfused s.gov.tj).toNat 620)

/-- The image is complete (R406): a valid header, a length that fits the unit, and the colophon magic in place. -/
def imageCause (s : State) : Option Nat :=
  let h := cellsRead s.ufs 0 4096
  let len := u64 h 16
  if !headerValid h then some 1
  else if len > s.ufsCap ∨ len < 4096 then some 1
  else if cellsRead s.ufs (len - 4096) 8 ≠ colMagic then some 2
  else none

/-- RESET_COMPLETE: device time starts at 0; UFS_REFCLK, which runs from the end of the PLL start-up within RESET, shows from here until
power-off (R446; DESIGN CHOICE, assumption 140); a complete image leads to LOADING, anything else to BLANK (R406, R449). -/
def execResetComplete (t : Nat) (s : State) : Host.Outcome State Fault Refusal :=
  let s := s.at t
  if s.chip.powered && !s.chip.resetN && decide (s.dev.st = .reset) then
    let s := { s with
      tb := { s.tb with anchor := s.now, base := 0 }
      gov := { s.gov with vcore := BitVec.ofNat 16 (setpointOf s) }
      chip := { s.chip with ufsRst := false, ufsRefclk := true } }
    match imageCause s with
    | some c => .next (enterBlank c 0 0xFF s)
    | none =>
      let dir := cellsRead s.ufs 0 (dirLength (cellsRead s.ufs 0 4096))
      .next (setState .loading { s with dev := { s.dev with
        load := { Load.idle with phase := .directory, sections := readSections dir }, ufsAt := s.now } })
  else .next s

/-! ### LOADING -/

/-- LOADING ends in BLANK with event 0x0902 (R407). -/
def refuseForme (cause detail sect : Nat) (s : State) : State :=
  enterBlank cause detail sect (logEvent 0x0902 idSecurity cause s)

/-- The directory as it lies in the forme unit. -/
def State.directory (s : State) : List Byte := cellsRead s.ufs 0 (dirLength (cellsRead s.ufs 0 4096))
/-- The colophon at the end of an image of a length. -/
def State.colophonAt (s : State) (len : Nat) : List Byte := cellsRead s.ufs (len - 4096) 4096

/-- The directory and colophon have been read: checks 1 to 4. -/
def loadDirectory (s : State) : State :=
  let dir := s.directory
  match checks1to4 s.fuses s.ident.rootDigest dir (s.colophonAt (u64 dir 16)) with
  | some (c, d) => refuseForme c d 0xFF s
  | none => { s with dev := { s.dev with load :=
      { Load.idle with phase := .firmware, sections := readSections dir } } }

/-- Bytes one READ (16) command brings (R391). -/
def ufsBlock : Nat := 0x80000

/-- A READ command brings up to 512 KiB of the firmware (R391); once it has been read, check 5. -/
def loadFirmware (s : State) : State :=
  let len := ((findSection s.dev.load.sections 7 0).map Section.length).getD 0
  if s.dev.load.pos + ufsBlock < len then
    { s with dev := { s.dev with load := { s.dev.load with pos := s.dev.load.pos + ufsBlock } } }
  else if check5 s.ident.rootDigest (sectionBytes s.ufs s.dev.load.sections 7 0) then
    { s with dev := { s.dev with load := { s.dev.load with phase := .sections, next := 0, pos := 0 } } }
  else refuseForme 0x06 1 0xFF s

/-- Position of a section in the table. -/
def tablePos (l : List Section) (x : Section) : Nat := l.findIdx (fun y => y = x)

/-- A READ command of the streaming phase brings up to 512 KiB of the next section; at a section's end its digest is compared
(R394, check 6). -/
def loadChunk (s : State) : State :=
  let ld := s.dev.load
  match (loadOrder ld.sections)[ld.next]? with
  | none => { s with dev := { s.dev with load := { ld with phase := .judge } } }
  | some x =>
    let n := min ufsBlock (x.length - ld.pos)
    let prog := s.dev.progress + BitVec.ofNat 64 n
    if ld.pos + n < x.length then
      { s with dev := { s.dev with progress := prog, load := { ld with pos := ld.pos + n } } }
    else
      let p := tablePos ld.sections x
      let bad := if x.hash s.ufs = x.digest then ld.bad6 else some (min p (ld.bad6.getD p))
      let last := decide (ld.next + 1 = (loadOrder ld.sections).length)
      { s with dev := { s.dev with progress := prog, load :=
          { ld with next := ld.next + 1, pos := 0, bad6 := bad, phase := if last then .judge else .sections } } }

/-- UFS_COMMAND_COMPLETE (R391): the next part of LOADING; elsewhere the command's caller has its data at its own row. -/
def execUfsCommandComplete (t : Nat) (s : State) : Host.Outcome State Fault Refusal :=
  let s := s.at t
  let s := { s with dev := { s.dev with ufsRetry := 0, ufsAt := s.now } }
  if s.dev.st = .loading then
    match s.dev.load.phase with
    | .directory => .next (loadDirectory s)
    | .firmware => .next (loadFirmware s)
    | .sections => .next (loadChunk s)
    | _ => .next s
  else .next s

/-- An interrupted update (R418): event 0x0909, DEVICE_CAUSE 0x0D and BLANK; FORME_DIGEST stays (DESIGN CHOICE, assumption 106). -/
def interruptUpdate (detail : Nat) (s : State) : State :=
  enterBlank 0x0D detail 0xFF
    { logEvent 0x0909 idSecurity detail s with upd := { s.upd with active := false } }

/-- The restoration at the head of the queue fails (R259): event 0x0405; its play stays unmapped. -/
def failRestore (s : State) : State :=
  match s.mem.restore with
  | [] => s
  | r :: rest =>
    let s := logEvent 0x0405 idImposer 0 (unmapPage r.play r.vpage { s with mem := { s.mem with restore := rest } })
    { s with sched := { s.sched with unmapped := if r.play ∈ s.sched.unmapped then s.sched.unmapped else r.play :: s.sched.unmapped } }

/-- A UFS command is under way: in LOADING, in an update, or for a restoration. -/
def State.ufsBusy (s : State) : Bool :=
  (decide (s.dev.st = .loading) && decide (s.dev.load.phase ≠ .judge)) || s.upd.active || !s.mem.restore.isEmpty

/-- UFS_COMMAND_TIMEOUT: a command has not completed within 100 ms or has failed (R391); it is retried at most three times with event 0x0903,
then it has failed, with 0x0904, which ends its caller (R355) (DESIGN CHOICE, assumption 50). -/
def execUfsCommandTimeout (t : Nat) (s : State) : Host.Outcome State Fault Refusal :=
  let s := s.at t
  if !s.ufsBusy then .next s
  else if s.dev.ufsRetry < 3 then
    .next (logEvent 0x0903 idUfs (s.dev.ufsRetry + 1) { s with dev := { s.dev with ufsRetry := s.dev.ufsRetry + 1, ufsAt := s.now } })
  else
    let s := logEvent 0x0904 idUfs 0 { s with dev := { s.dev with ufsRetry := 0, ufsAt := s.now } }
    if s.dev.st = .loading then .next (refuseForme 0x03 0x50 0xFF s)
    else if s.upd.active then .next (interruptUpdate 3 s)
    else .next (failRestore s)

/-! ### Checks 6 to 11 -/

/-- A T64 constant's bytes are valid (R128). -/
def t64Ok (ufs : List Host.Cell) (ws : Section) (t : Tensor) : Bool :=
  (List.range t.length).all fun i => t64ByteOk (i % 14) (cellRead ufs (ws.offset + t.offset + i))

/-- Table position of the first weight section that holds an invalid T64 byte. -/
def t64Bad (s : State) (l : List Section) (plays : List Play) : Option Nat :=
  let bad := (loadOrder l).filter fun x => x.kind = 6 &&
    plays.any fun p => p.tensors.any fun t =>
      decide (t.kind = 3 ∧ t.format = fT64 ∧ t.source = x.index) && !t64Ok s.ufs x t
  (bad.map (tablePos l)).min?

/-- The plays of the image. -/
def loadPlays (s : State) (l : List Section) : List Play :=
  (l.filter fun x => x.kind = 5).map fun x => readPlay x.index (x.bytes s.ufs)

/-- A constant's bytes. -/
def constBytes (s : State) (l : List Section) (t : Tensor) : List Byte := sub (sectionBytes s.ufs l 6 t.source) t.offset t.length

/-- A play with its lowering, which the forme and F_ARITH alone decide (R266). -/
def lowered (s : State) (l : List Section) (p : Play) : Play :=
  let cfg := sectionBytes s.ufs l 1 0
  let part := readPartition (entry (cfg.drop 24) 64 p.part)
  let x : LowCtx :=
    { mhz := s.ident.mhz, copy := sectionBytes s.ufs l 5 p.index, cfg := cfg, play := p, part := part, dead := p.deadTaps (constBytes s l) }
  { p with low := lowerPlay x (readLinks cfg) (readStreams (sectionBytes s.ufs l 2 0)) }

/-- Largest valid publication, counted by R441. -/
def publicationSize (plays : List Play) : Nat :=
  32 + ((plays.filter fun p => p.kind = 0).flatMap fun p =>
    (p.tensors.filter fun t => t.kind = 2 && t.safety).map fun t => 16 + padTo 8 t.size).sum

/-- Limits of cognition plays, zero for the others (R203). -/
def limitsOk (plays : List Play) (ls : List Limits) : Bool :=
  (List.range 32).all fun i =>
    match plays.find? (fun p => p.index = i), ls[i]? with
    | some p, some l => if p.kind = 2 then l.ok p.perSession else l.zero
    | none, some l => l.zero
    | _, none => false

/-- Check 8 of R407. -/
def check8 (s : State) (l : List Section) (plays : List Play) : Bool :=
  let sec := fun k => sectionBytes s.ufs l k 0
  let cfg := sec 1
  let ss := readStreams (sec 2)
  configOk cfg (detClass s) && mapOk (sec 2) (lmin (u32 cfg 0) (u8 cfg 4)) && sheetOk (sec 3) && ingressOk (sec 8) ss &&
    limitsOk plays ((List.range 32).map fun i => readLimits (entry (cfg.drop 1560) 16 i)) &&
    (List.range 32).all (fun i => zeros (entry (cfg.drop 1560) 16 i) 14 16) &&
    plays.all (fun p => decide (p.kind ≠ 1) || p.tensors.all fun t =>
      decide (t.kind ≠ 4 ∨ t.source = 0xFFFF) || u8 (sec 8) (136 * t.source) = 1) &&
    decide (publicationSize plays ≤ 2 ^ 20)

/-- A window of `len` µs holds 1.05 times the makespan of a play's plan for `n` units, rounded up (R43). -/
def slack (len : Nat) (r : Option PlayRep) (n : Nat) : Bool :=
  match r.bind fun r => planFor r n with
  | some q => decide ((105 * q.makespan + 99) / 100 ≤ len)
  | none => false

/-- The perception window closes at every press count above the minimum, and at the count in service (R43, R275). -/
def slackAll (len least np : Nat) (r : Option PlayRep) : Bool :=
  slack len r np && ((r.map PlayRep.plans).getD []).all fun q => decide (q.count ≤ least) || slack len r q.count

/-- Rehearsal reserve in µs (R47). -/
def reserveOf (ru : Nat) : Nat := (ru + 2499) / 2500
def pressReserve (r : LoadReport) : Nat := reserveOf (max r.rehPress (max r.rehSector r.rehStack))
def coreReserve (r : LoadReport) : Nat := reserveOf (max r.rehCore r.rehUmem)

/-- Stack pages of the weight sections that cognition and other plays read (R264). -/
def constPages (l : List Section) (plays : List Play) : Nat :=
  ((l.filter fun x => x.kind = 6 && plays.any fun p => 2 ≤ p.kind && p.tensors.any fun t =>
    decide (t.kind = 3 ∧ t.source = x.index)).map fun x => (x.length + chunkSize - 1) / chunkSize).sum

/-- Galley pages that the sectors in service hold beside the system reserve (R235, R237). -/
def State.galleyLeft (s : State) : Nat := 12 * ((List.finRange 16).filter fun n => s.inServ (.sector n)).length - 4

/-- The first cause of R273 with the play at fault, if one is; `plays` are lowered. -/
def imposerCause (s : State) (l : List Section) (plays : List Play) (rep : LoadReport) : Option (Nat × Option Nat) :=
  let cfg := sectionBytes s.ufs l 1 0
  let parts := (List.range 8).map fun i => readPartition (entry (cfg.drop 24) 64 i)
  let sheet := readSheet (sectionBytes s.ufs l 3 0)
  let streams := readStreams (sectionBytes s.ufs l 2 0)
  let wlen := fun i => (findSection l 6 i).map Section.length
  let bad := plays.find? fun p => !(playOk wlen streams (sectionBytes s.ufs l 5 p.index) p &&
    playShapeOk (constBytes s l) (readLimits (entry (cfg.drop 1560) 16 p.index)) p)
  let kinds := fun k => (plays.filter fun p => p.kind = k).length
  let safety := parts.find? fun p => p.kind = 0
  let mask := (safety.map Partition.mask).getD 0
  let np := (allPresses.filter fun p => maskHas mask p && s.inServ (.press p)).length
  let least := (safety.map Partition.min).getD 0
  let per := (plays.find? fun p => p.kind = 0).map Play.low
  let und := (plays.find? fun p => p.kind = 1).map Play.low
  let lm := lmin (u32 cfg 0) (u8 cfg 4)
  let need := fun (i : Nat) =>
    let ps := plays.filter fun p => p.part = i
    (ps.map fun p => p.low.leafNeed).sum + ((ps.map fun p => p.low.stepNeed).max?).getD 0
  if !partTableOk parts (constPages l plays) then some (1, none)
  else if (plays.find? fun p => !playPart parts p).isSome then some (1, (plays.find? fun p => !playPart parts p).map Play.index)
  else if bad.isSome then some (2, bad.map Play.index)
  else if !linksOk parts plays (readLinks cfg) || !linkZeros cfg || decide (kinds 0 ≠ 1) || decide (kinds 1 ≠ 1) then some (2, none)
  else
    match plays.find? fun p => !p.low.lowerable with
    | some p => some (3, some p.index)
    | none =>
      if !sheet.order then some (4, none)
      else if !(slackAll sheet.perLen least np per && slack sheet.undLen und s.cores.length) then some (5, none)
      else if !slack sheet.perLen per least then some (6, none)
      else if sheet.publish + pressReserve rep > lm ∨ sheet.publish + coreReserve rep > lm then some (7, none)
      else if ((per.map PlayRep.plans).getD []).any (fun q => decide (q.galleyNeed > (safety.map Partition.galley).getD 0)) ||
          ((per.bind fun r => planFor r np).any fun q => decide (s.galleyLeft < q.galleyNeed)) then some (9, none)
      else if (List.range 8).any (fun i => match parts[i]? with
          | some p => decide ((p.kind = 2 ∨ p.kind = 3) ∧ p.stack < need i)
          | none => false) then some (10, none)
      else none

/-- The running forme of an image that passed its checks. -/
def buildForme (s : State) (l : List Section) (plays : List Play) (rep : LoadReport) : Forme :=
  let cfg := sectionBytes s.ufs l 1 0
  let map := sectionBytes s.ufs l 2 0
  let hdr := readHeader s.directory
  { loaded := true, period := u32 cfg 0, source := u8 cfg 4, startMode := u8 cfg 5, tracing := decide (u8 cfg 6 = 1)
    epoch := u64 cfg 8, rollback := hdr.rollback, advance := hdr.advance
    parts := (List.range 8).map fun i => readPartition (entry (cfg.drop 24) 64 i)
    links := readLinks cfg, limits := (List.range 32).map fun i => readLimits (entry (cfg.drop 1560) 16 i)
    sheet := readSheet (sectionBytes s.ufs l 3 0), cams := (List.range 16).map fun i => readCam (entry map 8 i)
    eths := (List.range 4).map fun i => readEth (entry (map.drop 128) 16 i), streams := readStreams map
    rules := readRules (sectionBytes s.ufs l 4 0)
    ingress := (List.range 32).map fun i => readIngress (entry (sectionBytes s.ufs l 8 0) 136 i)
    plays := plays, sections := l
    pageRecs := (l.filter fun x => x.kind = 6).map fun x => (x.index, (x.chunks s.ufs).map fun d => d.take 8)
    proofCrc := proofCrcs (readStreams map) rep.proofCrc, rehPress := pressReserve rep, rehCore := coreReserve rep, rehIdle := rep.rehIdle
    consts := rep.consts, ring := rep.ring, under := rep.under, pools := rep.pools, copies := rep.copies, proofs := rep.proofs
    copyRecs := (l.filter fun x => x.kind = 5).map fun x => (x.index, (x.chunks s.ufs).map fun d => d.take 8) }

/-- Ports with no declared stream read ABSENT from the end of LOADING (R371). -/
def markAbsent (f : Forme) (s : State) : State :=
  (List.finRange 20).foldl (fun s n =>
    if f.streams.any fun x => (x.map Stream.portIdx) = some n.1 then s
    else s.modUnit (.port n) fun r => if r.mode = .inService then { r with mode := .absent } else r) s

/-- A regulator's bucket starts full (R280). -/
def startParts (f : Forme) (s : State) : State :=
  { s with part := Vector.ofFn fun i =>
      { s.part.get i with bucket := ((f.parts[i.1]?).map Partition.depth).getD 0 } }

/-- A page's bytes of a weight section, as the forme unit holds them. -/
def weightPage (ufs : List Host.Cell) (l : List Section) (sect page : Nat) : List Byte :=
  match l.find? fun x => x.kind = 6 ∧ x.index = sect with
  | none => []
  | some x => cellsRead ufs (x.offset + page * chunkSize) (min chunkSize (x.length - page * chunkSize))

/-- The constants stand where the tables place their pages (R153, R227, R259). -/
def constCells (ufs : List Host.Cell) (l : List Section) (rep : LoadReport) (cells : List Host.Cell) : List Host.Cell :=
  rep.consts.foldl (fun m c => match rep.l2.find? fun e => e.1 = c.1 with
    | some e => cellsWrite m (pteDev e.2) (weightPage ufs l c.2.1 c.2.2)
    | none => m) cells

/-- The copy containers stand in the galley (R393). -/
def copyCells (ufs : List Host.Cell) (l : List Section) (rep : LoadReport) (cells : List Host.Cell) : List Host.Cell :=
  rep.copies.foldl (fun m c => cellsWrite m c.2 (sectionBytes ufs l 5 c.1)) cells

/-! ### Where LOADING may place things (R20, R84, R224 to R228, R235, R277, R320) -/

/-- Galley pages that hold the batch ring. -/
def ringPages (rep : LoadReport) (streams : List (Option Stream)) : List Nat :=
  rep.ring.flatMap fun a => devPages { tensor := 0, off := 0, play := 0, dev := a, len := batchSize streams }

/-- A galley page outside the system reserve, in a sector in service. -/
def State.loadGalley (s : State) (d : Nat) : Bool :=
  (match region d with
   | .galley n => s.inServ (.sector n)
   | _ => false) && decide (d % 2 ^ 21 = 0 ∧ galleyBase + 4 * 2 ^ 21 ≤ d)

/-- Level-1 entries: valid, their level-2 tables apart from each other in the system reserve. -/
def l1Ok (l1 : List ((Nat × Nat) × W64)) : Bool :=
  let at_ := fun (e : W64) => (e.extractLsb' 12 36).toNat * 4096
  l1.all (fun e => l1Valid e.2 && decide (galleyBase ≤ at_ e.2 ∧ at_ e.2 + 0x20000 ≤ galleyBase + 4 * 2 ^ 21 ∧ e.1.2 < 16384)) &&
    decide (l1.Pairwise fun e f => e.1 ≠ f.1 ∧ (at_ e.2 + 0x20000 ≤ at_ f.2 ∨ at_ f.2 + 0x20000 ≤ at_ e.2))

/-- A page table entry: mapped, its reserved bits zero, its window in order, in a table that exists; in the galley, or in the stacks for a play
with stack rights. -/
def pteOk (s : State) (rep : LoadReport) (plays : List Play) (taken : List Nat) (e : (Nat × Nat) × W128) : Bool :=
  let x := e.2
  let d := pteDev x
  pteV x && decide (x.extractLsb' 5 3 = 0 ∧ x.extractLsb' 11 5 = 0 ∧ x.extractLsb' 46 18 = 0 ∧ x.extractLsb' 91 37 = 0 ∧ pteFirst x ≤ pteLast x) &&
    (rep.l1.any fun f => decide (f.1 = (e.1.1, e.1.2 / 8192))) && decide (d ∉ taken) &&
    (plays.find? fun p => p.index = e.1.1).any fun p => decide ((x.extractLsb' 8 3).toNat = p.part) &&
      (s.loadGalley d || (decide (2 ≤ p.kind) && (match region d with
        | .stack n => s.inServ (.stack n)
        | _ => false)))

/-- Every page that holds constants of a play is mapped for reading. -/
def constsMapped (rep : LoadReport) (p : Play) : Bool :=
  (p.tensors.filter fun t => decide (t.kind = 3)).all fun t =>
    ((List.range (pagesOf (t.offset + t.length))).filter fun g => decide (t.offset / chunkSize ≤ g)).all fun g =>
      rep.consts.any fun c => decide (c.1.1 = p.index ∧ c.2 = (t.source, g)) && rep.l2.any fun e => decide (e.1 = c.1) && pteRD e.2 && !pteWR e.2

/-- Pages of a play from a play address on are mapped whole for reading and writing, in the galley or in the stacks. -/
def spanMapped (s : State) (rep : LoadReport) (play base len : Nat) (galley : Bool) : Bool :=
  ((List.range ((base + len + 2 ^ 21 - 1) / 2 ^ 21)).filter fun g => decide (base / 2 ^ 21 ≤ g)).all fun g =>
    rep.l2.any fun e => decide (e.1 = (play, g)) && pteRD e.2 && pteWR e.2 && decide (pteFirst e.2 = 0 ∧ pteLast e.2 = 32767) &&
      (s.loadGalley (pteDev e.2) == galley)

/-- Every leaf pool has its home frames in the stacks, and galley frames where its partition has leaf pages (R250). -/
def poolsMapped (s : State) (f : Forme) (rep : LoadReport) (p : Play) : Bool :=
  let frames := leafFrames f p
  (List.range p.tensors.length).all fun k => match p.tensors[k]? with
    | none => true
    | some t => decide (t.kind ≠ 6) || (rep.pools.any fun q => decide (q.play = p.index ∧ q.tensor = k ∧ q.home % 64 = 0 ∧ q.frames % 64 = 0) &&
        spanMapped s rep p.index q.home t.size false && spanMapped s rep p.index q.frames (frames * (poolGeom t).page) true)

/-- Every copy container has a place in the galley, apart from the level-2 tables, the taken pages, what the entries map and each other. -/
def copiesOk (s : State) (l : List Section) (rep : LoadReport) (taken : List Nat) : Bool :=
  let spans := rep.copies.map fun c => (c.2, (sectionBytes s.ufs l 5 c.1).length)
  let tables := rep.l1.map fun e => ((e.2.extractLsb' 12 36).toNat * 4096, 0x20000)
  let pages := (taken ++ (rep.l2.filter fun e => pteV e.2).map fun e => pteDev e.2).map fun d => (d, 2 ^ 21)
  let clear := fun (a b : Nat × Nat) => decide (a.1 + a.2 ≤ b.1 ∨ b.1 + b.2 ≤ a.1)
  (l.filter fun x => x.kind = 5).all (fun x => rep.copies.any fun c => c.1 = x.index) &&
    spans.all (fun c => decide (c.1 % 64 = 0 ∧ galleyBase ≤ c.1 ∧ c.1 + c.2 ≤ galleyBase + 16 * sectorSize) &&
      (List.finRange 16).all fun n => s.inServ (.sector n) || clear c (galleyBase + n.1 * sectorSize, sectorSize)) &&
    spans.all (fun c => (tables ++ pages).all (clear c)) && decide (spans.Pairwise fun a b => clear a b = true)

/-- The places that LOADING reports are ones that the imposer may choose. -/
def reportOk (s : State) (f : Forme) (rep : LoadReport) : Bool :=
  let ring := ringPages rep f.streams
  let cache := rep.cache.map Prod.snd
  let size := batchSize f.streams
  decide (rep.ring.length = 4) && ring.all (fun d => s.loadGalley d) && rep.ring.all (fun a => decide (a % 64 = 0)) &&
    decide (rep.ring.Pairwise fun a b => a + size ≤ b ∨ b + size ≤ a) &&
    cache.all (fun d => s.loadGalley d && decide (d ∉ ring)) && decide cache.Nodup &&
    (List.range 8).all (fun i => decide ((rep.cache.filter fun e => e.1 = i).length = ((f.parts[i]?).map Partition.cache).getD 0)) &&
    rep.under.all (fun u => decide (umemBase ≤ u.2 ∧ u.2 + 2 * ((f.streams.getD u.1 none).map Stream.slotBytes).getD 0 ≤ umemBase + 2 ^ 25)) &&
    (List.range 32).all (fun i => !((f.ingress[i]?).any Ingress.read) || rep.under.any fun u => decide (u.1 = i)) &&
    decide (rep.under.Pairwise fun u v => u.1 ≠ v.1 ∧ (u.2 + 2 * ((f.streams.getD u.1 none).map Stream.slotBytes).getD 0 ≤ v.2 ∨
      v.2 + 2 * ((f.streams.getD v.1 none).map Stream.slotBytes).getD 0 ≤ u.2)) &&
    l1Ok rep.l1 && copiesOk s f.sections rep (ring ++ cache) && rep.l2.all (pteOk s rep f.plays (ring ++ cache)) && f.plays.all (constsMapped rep) &&
    f.plays.all (poolsMapped s f rep) && decide (rep.pools.Pairwise fun a b => (a.play, a.tensor) ≠ (b.play, b.tensor))

/-- LOADING ends in STANDBY: event 0x0901, FORME_DIGEST, the tables that place the constants; cues start (R30, R38, R407). -/
def enterStandby (f : Forme) (rep : LoadReport) (s : State) : State :=
  let col := s.colophonAt (u64 s.directory 16)
  let s := logEvent 0x0901 idSecurity 0 { s with forme := f }
  let s := startParts f (markAbsent f s)
  setState .standby { s with
    dev := { s.dev with digest := sub col 16 64, load := Load.idle, startPlaced := false }
    mem := { s.mem with l1 := rep.l1, l2 := rep.l2, gpages := rep.cache, cells := copyCells s.ufs f.sections rep (constCells s.ufs f.sections rep s.mem.cells) }
    cue := { s.cue with standbyAt := s.now, standbyNs := s.ns } }

/-- Every unit in service that rehearses has completed a full rehearsal in LOADING (R407). -/
def State.rehearsedAll (s : State) : Bool :=
  (allUnits.all fun u => !s.inServ u || (s.unit u).rehearsed) && (List.finRange 13).all fun i => decide (i ∈ s.sched.ctlRehearsed)

/-- The first failing check among 6 to 11, with what it logs before 0x0902, or the running forme; event 0x0501 carries R273's causes alone (DEDUCED,
assumption 94), and LOADING goes on while a unit has not rehearsed (DEDUCED, assumption 159). -/
def judge (rep : LoadReport) (s : State) : State :=
  let l := s.dev.load.sections
  let plays := loadPlays s l
  let low := plays.map (lowered s l)
  match s.dev.load.bad6, t64Bad s l plays with
  | some p, _ => refuseForme 0x08 0 p s
  | none, some p => refuseForme 0x09 0 p s
  | none, none =>
    if !check8 s l plays then refuseForme 0x0A 0 0xFF s
    else
      match rulesReason plays (sectionBytes s.ufs l 4 0) (readSheet (sectionBytes s.ufs l 3 0)).compLen with
      | some r => refuseForme 0x0C r 0xFF (logEvent 0x070E idStage r s)
      | none =>
        match imposerCause s l low rep with
        | some (c, some p) => refuseForme 0x0B c 0xFF (logEvent 0x0501 idImposer c (logEvent 0x0502 idImposer p s))
        | some (c, none) => refuseForme 0x0B c 0xFF (logEvent 0x0501 idImposer c s)
        | none =>
          if !rep.weightsFit then refuseForme 0x0B 11 0xFF s
          else
            match (List.finRange 2).find? fun n => !s.inServ (.stack n) with
            | some n => refuseForme 0x03 (unitId (.stack n)).toNat 0xFF s
            | none => if reportOk s (buildForme s l low rep) rep && s.rehearsedAll then enterStandby (buildForme s l low rep) rep s else s

/-- LOADING_COMPLETE: every section has been streamed; checks 6 to 11 are judged (R407). -/
def execLoadingComplete (t : Nat) (rep : LoadReport) (s : State) : Host.Outcome State Fault Refusal :=
  let s := s.at t
  .next (if decide (s.dev.st = .loading) && decide (s.dev.load.phase = .judge) then judge rep s else s)

/-! ### Fuses (R404, R405, R410) -/

def applyBurn (b : Burn) (f : Fuses) : Fuses :=
  match b with
  | .enroll i d => { f with slots := vmod f.slots i fun x => { x with digest := d, enrolled := true } }
  | .revoke i => { f with slots := vmod f.slots i fun x => { x with revoked := true } }
  | .advance v => { f with rollback := max f.rollback v }
  | .lock => { f with debugLock := true }

/-- FUSE_BURN_COMPLETE: the oldest burn under way completes and FUSE_STATE changes; none does while RESET_N holds every domain (R455). -/
def execFuseBurnComplete (t : Nat) (s : State) : Host.Outcome State Fault Refusal :=
  let s := s.at t
  match if s.chip.resetN then [] else s.fuses.burns with
  | [] => .next s
  | b :: rest => .next { s with fuses := { applyBurn b s.fuses with burns := rest } }

/-! ### Clock and supply faults (R445, R460) -/

/-- PLL_LOCK_LOST: event 0x0B03 and a device-level fault, cause 6. -/
def execPllLockLost (t : Nat) (i : Fin 7) (s : State) : Host.Outcome State Fault Refusal :=
  let s := s.at t
  .next (if s.dev.st = .reset then s
    else deviceFault 6 idGovernor (logEvent 0x0B03 idGovernor i.1
      { s with chip := { s.chip with pllLost := if i ∈ s.chip.pllLost then s.chip.pllLost else i :: s.chip.pllLost } }))

/-- SUPPLY_OUT_OF_RANGE: event 0x0B07 and a device-level fault, cause 6. -/
def execSupplyOutOfRange (t : Nat) (rail : Fin 12) (s : State) : Host.Outcome State Fault Refusal :=
  let s := s.at t
  .next (if s.dev.st = .reset then s
    else deviceFault 6 idGovernor (logEvent 0x0B07 idGovernor rail.1
      { s with chip := { s.chip with railsOut := if rail ∈ s.chip.railsOut then s.chip.railsOut else rail :: s.chip.railsOut } }))

/-! ### The test port (R412) -/

/-- States in which instructions that drive pins act. -/
def State.pinsFree (s : State) : Bool := decide (s.dev.st = .reset ∨ s.dev.st = .blank ∨ s.dev.st = .maintenance)

/-- The TAP takes BYPASS: one bit, captured as 0. -/
def tapBypass (s : State) : State := { s with chip := { s.chip with tap := .bypass, tdo := [0] } }

/-- Boundary cells captured from the pins (PRESUMED, assumption 4). -/
def capture (n : Nat) (s : State) : List Byte := (List.range n).map fun i => Config.scanCell (s.free + i)

def execJtagBypass (t : Nat) (s : State) : Host.Outcome State Fault Refusal :=
  let s := s.at t
  .next (if s.chip.powered && !s.chip.resetN then tapBypass s else s)

def execJtagIdcode (t : Nat) (s : State) : Host.Outcome State Fault Refusal :=
  let s := s.at t
  .next (if s.chip.powered && !s.chip.resetN then
    { s with chip := { s.chip with tap := .idcode, tdo := natLe 4 (Config.idcode s.ident.minor.toNat).toNat } } else s)

/-- JTAG_SAMPLE_PRELOAD: the pins are captured and the given cells preloaded. -/
def execJtagSamplePreload (t : Nat) (cells : List Byte) (s : State) : Host.Outcome State Fault Refusal :=
  let s := s.at t
  .next (if s.chip.powered && !s.chip.resetN then
    { s with chip := { s.chip with tap := .sample, tdo := capture cells.length s, scan := cells }, free := s.free + cells.length }
    else s)

/-- JTAG_EXTEST: the preloaded cells drive the pins in RESET, BLANK and MAINTENANCE; elsewhere BYPASS. -/
def execJtagExtest (t : Nat) (s : State) : Host.Outcome State Fault Refusal :=
  let s := s.at t
  .next (if !s.chip.powered || s.chip.resetN then s
    else if s.pinsFree then
      { s with chip := { s.chip with tap := .extest, tdo := capture s.chip.scan.length s }, free := s.free + s.chip.scan.length }
    else tapBypass s)

/-- The cells drive the pins. -/
def State.extestDrives (s : State) : Bool := s.chip.powered && !s.chip.resetN && decide (s.chip.tap = .extest) && s.pinsFree

/-- JTAG_DEBUG_INSTRUCTION: BYPASS, but with the lock clear in BLANK or MAINTENANCE it acts, and the spec gives no effect (DESIGN CHOICE,
assumption 98). -/
def execJtagDebugInstruction (t : Nat) (_code : Nat) (s : State) : Host.Outcome State Fault Refusal :=
  let s := s.at t
  if !s.chip.powered || s.chip.resetN then .next s
  else if !s.fuses.debugLock && decide (s.dev.st = .blank ∨ s.dev.st = .maintenance) then .refused .debugEffectUnspecified
  else .next (tapBypass s)

/-- TRST_N_ASSERT: the test access port is reset. -/
def execTrstNAssert (t : Nat) (s : State) : Host.Outcome State Fault Refusal :=
  let s := s.at t
  .next (if s.chip.powered then { s with chip := { s.chip with tap := .idcode, tdo := [], scan := [] } } else s)

end Sys2Proof.Machine
end

