-- ==== Sys2Proof/Machine/Clock.lean ====
section
/-! DEFINITION. The time base and its sources, the governor and the regulators' tick (R239, R280, R449 to R451, R461 to R467). -/

namespace Sys2Proof.Machine

/-! ### Time base -/

/-- Device time goes on from its present value, from the last time-base cycle on, and no fraction of a nanosecond is lost (R449). -/
def TimeBase.rebase (tb : TimeBase) (now : Nat) : TimeBase :=
  let ticks := (now - tb.anchor) / 4
  { tb with base := tb.ns now, part := (tb.part + ticks * 10 * (10000000 + tb.rate).toNat) % 10000000, anchor := tb.anchor + 4 * ticks }

/-- LOADING has not ended: the one step of R451 is still open (DEDUCED, assumption 36). -/
def State.mayStep (s : State) : Bool :=
  !s.tb.stepped && (decide (s.dev.st = .loading) || (decide (s.dev.st = .blank) && decide (s.dev.cause.toNat ≤ 2)))

/-- A signed 32-bit value, saturated (TIME_OFFSET). -/
def sat32i (x : Int) : W32 := BitVec.ofInt 32 (max (-(2 ^ 31)) (min x (2 ^ 31 - 1)))

/-- Adjust the clock by a measured offset from the followed source: one step before LOADING ends, after that the servo's rate,
within 500 ppm (R451; the rate law is open, DESIGN CHOICE, assumption 10; DEDUCED, assumption 95). -/
def adjustClock (offset : Int) (s : State) : State :=
  let s := { s with tb := { s.tb with offset := sat32i offset } }
  if s.mayStep then
    { s with tb := { s.tb.rebase s.now with stepped := true, base := ((s.tb.ns s.now : Int) - offset).toNat } }
  else
    let r := (Config.servoRate s.free).toNat
    { s with free := s.free + 1, tb := { s.tb.rebase s.now with rate := max (-5000) (min ((r : Int) - 5000) 5000) } }

/-- The phase error of PTP alignment is below 1 µs and a source of priority 1 or 2 is locked (CUE_STATUS.PTP_ALIGNED). -/
def refreshAligned (s : State) : State :=
  if s.tb.source = .free then { s with cue := { s.cue with ptpAligned := false } } else s

/-- A source loses its lock: event 0x0B01 with its priority. -/
def losePtp (s : State) : State :=
  if s.tb.ptpLocked then
    refreshAligned (logEvent 0x0B01 idTime 1
      { s with tb := { s.tb with ptpLocked := false, ptpGood := 0, ptpBad := 0, ptpLost := true } })
  else s

def losePps (s : State) : State :=
  if s.tb.ppsLocked then
    refreshAligned (logEvent 0x0B01 idTime 2
      { s with tb := { s.tb with ppsLocked := false, ppsGood := 0, ppsLost := true } })
  else s

/-- One measured Sync of the followed master (R450): eight within 1 µs lock, eight beyond 100 µs lose; a default-profile master is answered with an
end-to-end delay request (DEDUCED, assumption 137); while PPS alone is locked, the time base takes no time from PTP. -/
def ptpMeasured (offset : Int) (s : State) : State :=
  let a := offset.natAbs
  let tb := { s.tb with
    lastSync := s.now
    ptpGood := if a ≤ 1000 then s.tb.ptpGood + 1 else 0
    ptpBad := if a > 100000 then s.tb.ptpBad + 1 else 0
    dreqs := if s.tb.profile then s.tb.dreqs else s.tb.dreqs + 1 }
  let s := { s with tb := tb }
  let s := if s.tb.ppsLocked && !s.tb.ptpLocked then s else adjustClock offset s
  if !s.tb.ptpLocked && decide (8 ≤ s.tb.ptpGood) then
    let back := s.tb.ptpLost
    let s := { s with tb := { s.tb with ptpLocked := true, ptpLost := false } }
    if back then logEvent 0x0B02 idTime 1 s else s
  else if s.tb.ptpLocked && decide (8 ≤ s.tb.ptpBad) then losePtp s
  else s

/-- PTP_SYNC_TIMEOUT: 3 s without a Sync (R450); a silent master leaves the choice to the next Announce (PRESUMED, assumption 13). -/
def execPtpSyncTimeout (t : Nat) (s : State) : Host.Outcome State Fault Refusal :=
  let s := s.at t
  .next (if s.tb.lastSync + us 3000000 ≤ s.now then
    let s := losePtp s
    { s with tb := { s.tb with master := none, ptpGood := 0, ptpBad := 0 } }
  else s)

/-- Signed distance of a device time from the nearest whole second. -/
def fromSecond (ns : Nat) : Int :=
  let r := ns % 1000000000
  if r < 500000000 then r else (r : Int) - 1000000000

/-- PPS_EDGE: an edge marks nanosecond 0; four in a row within 10 µs of a whole second lock (R450). -/
def execPpsEdge (t : Nat) (s : State) : Host.Outcome State Fault Refusal :=
  let s := s.at t
  if s.dev.st = .reset then .next s
  else
    let off := fromSecond s.ns
    let good := if off.natAbs ≤ 10000 then s.tb.ppsGood + 1 else 0
    let s := { s with tb := { s.tb with lastPps := s.now, ppsGood := good } }
    let s := if s.tb.ptpLocked then s else adjustClock off s
    if !s.tb.ppsLocked && decide (4 ≤ s.tb.ppsGood) then
      let back := s.tb.ppsLost
      let s := { s with tb := { s.tb with ppsLocked := true, ppsLost := false } }
      .next (if back then logEvent 0x0B02 idTime 2 s else s)
    else .next s

/-- PPS_TIMEOUT: 1.5 s without an edge (R450). -/
def execPpsTimeout (t : Nat) (s : State) : Host.Outcome State Fault Refusal :=
  let s := s.at t
  .next (if s.tb.lastPps + us 1500000 ≤ s.now then losePps s else s)

/-- PEER_DELAY_REQUEST: one is sent on the port that follows an IEEE 802.1AS master (R450). -/
def execPeerDelayRequest (t : Nat) (n : Fin 4) (s : State) : Host.Outcome State Fault Refusal :=
  let s := s.at t
  .next (if s.tb.profile && decide ((s.tb.master.map Prod.fst) = some n.1) then
    { s with tb := { s.tb with pdelays := s.tb.pdelays + 1 } } else s)

/-- The data by which the best master clock algorithm compares Announce messages: priority 1, clock class, accuracy, variance, priority 2 and
identity of the grandmaster, the steps removed and the sender (PRESUMED, assumption 13). -/
def announceKey (msg : List Byte) : List Byte := sub msg 47 14 ++ sub msg 61 2 ++ sub msg 20 10

/-- A list of bytes stands before another, as numbers. -/
def bytesBefore : List Byte → List Byte → Bool
  | [], [] => false
  | [], _ :: _ => true
  | _ :: _, [] => false
  | a :: as, b :: bs => decide (a.toNat < b.toNat) || (decide (a = b) && bytesBefore as bs)

/-- The profile of an 802.1AS master is Ethertype 0x88F7; a UDP master speaks the IEEE 1588 default profile. -/
def followMaster (n : Fin 4) (gptp : Bool) (msg : List Byte) (s : State) : State :=
  let take := match s.tb.master with
    | none => true
    | some (_, old) => decide (sub msg 20 10 = sub old 20 10) || bytesBefore (announceKey msg) (announceKey old)
  let same := (s.tb.master.map fun m => sub m.2 20 10) = some (sub msg 20 10)
  if decide (64 ≤ msg.length) && take then
    { s with tb := { s.tb with
        master := some (n.1, msg), profile := gptp, port := BitVec.ofNat 2 n.1
        ptpGood := if same then s.tb.ptpGood else 0, ptpBad := if same then s.tb.ptpBad else 0 } }
  else s

/-- A PTP message on an enabled port (R450): an Announce joins the choice of a master; a Sync (or the Follow_Up of a two-step
Sync) of the followed master is measured. Other messages and domains leave the slave clock as it is. -/
def ptpMessage (n : Fin 4) (gptp : Bool) (msg : List Byte) (offset : Int) (s : State) : State :=
  let typ := u8 msg 0 % 16
  let twoStep := (u8 msg 6) / 2 % 2 = 1
  if u8 msg 4 ≠ 0 ∨ msg.length < 34 then s
  else if typ = 0xB then followMaster n gptp msg s
  else
    match s.tb.master with
    | none => s
    | some (p, ann) =>
      if p ≠ n.1 ∨ sub msg 20 10 ≠ sub ann 20 10 then s
      else if typ = 0 then (if twoStep then { s with tb := { s.tb with lastSync := s.now } } else ptpMeasured offset s)
      else if typ = 8 then ptpMeasured offset s
      else s

/-! ### The governor -/

def envelopeMw (s : State) : Nat :=
  match s.ident.grade with
  | .s => 60000
  | .l => 45000

/-- Tj_max in units of 0.125 °C. -/
def tjMax8 (s : State) : Int :=
  match s.ident.temp with
  | .e => 840
  | .x => 1000

/-- GOV_POWER_SAMPLE (R462). -/
def execGovPowerSample (t : Nat) (mw : Nat) (s : State) : Host.Outcome State Fault Refusal :=
  let s := s.at t
  .next (if s.dev.st = .reset then s else { s with gov := { s.gov with sum := s.gov.sum + mw, num := s.gov.num + 1 } })

/-- CORE_CURRENT_LIMIT: cognition admission stops until the next boundary (R464). -/
def execCoreCurrentLimit (t : Nat) (s : State) : Host.Outcome State Fault Refusal :=
  let s := s.at t
  .next (if s.cue.running && !s.gov.stopped then
    logEvent 0x0B05 idGovernor 0x80 { s with gov := { s.gov with stopped := true } } else s)

/-- One step of 5 mV towards a target, and none where it lies nearer. -/
def stepTo (target v : Nat) : Nat := if v + 5 ≤ target then v + 5 else if target + 5 ≤ v then v - 5 else v

/-- AVS_CURRENT_READ: the current is read and the setpoint steps, at most once in 10 µs; a failed transaction is retried three times, then the setpoint
holds and the on-die monitor gives the current (R461). -/
def execAvsCurrentRead (t : Nat) (ok : Bool) (tenthAmp : W16) (s : State) : Host.Outcome State Fault Refusal :=
  let s := s.at t
  if s.dev.st = .reset then .next s
  else if ok then
    let due := decide (s.gov.stepAt + us 10 ≤ s.now)
    .next { s with gov := { s.gov with
      icore := tenthAmp, retries := 0, stepAt := if due then s.now else s.gov.stepAt
      vcore := if due then BitVec.ofNat 16 (stepTo (setpointOf s) s.gov.vcore.toNat) else s.gov.vcore } }
  else if s.gov.retries < 3 then .next { s with gov := { s.gov with retries := s.gov.retries + 1 } }
  else .next { s with gov := { s.gov with icore := tenthAmp, retries := 0 } }

/-- The greatest reading and the lowest sensor that gave it. -/
def hottest : List Int → Nat → Int × Nat
  | [], i => (0, i)
  | [x], i => (x, i)
  | x :: r, i =>
    let (y, j) := hottest r (i + 1)
    if y ≤ x then (x, i) else (y, j)

/-- A threshold crossed upwards: event 0x0B06, and for the first high mode is withdrawn (R465). -/
def crossUp (k : Nat) (s : State) : State :=
  let s := logEvent 0x0B06 idGovernor k s
  if k = 1 then
    (if s.gov.high then logEvent 0x0B04 idGovernor 1 { s with gov := { s.gov with withdrawn := true } } else s)
  else if k = 2 then { s with gov := { s.gov with k := 0 } }
  else deviceFault 6 idGovernor s

/-- THERMAL_SAMPLE (R465). -/
def execThermalSample (t : Nat) (readings : List Int) (s : State) : Host.Outcome State Fault Refusal :=
  let s := s.at t
  if s.dev.st = .reset ∨ readings = [] then .next s
  else
    let (tj, sensor) := hottest readings 0
    let m := tjMax8 s
    let lvl := if m + 80 ≤ tj then 3 else if m ≤ tj then 2 else if m - 40 ≤ tj then 1 else 0
    let was := s.gov.hot
    let s := { s with gov := { s.gov with
      tj := BitVec.ofInt 16 tj, sensor := BitVec.ofNat 5 sensor, hot := lvl, hotCue := s.gov.hotCue || decide (m - 80 ≤ tj) } }
    let s := if was < 1 ∧ 1 ≤ lvl then crossUp 1 s else s
    let s := if was < 2 ∧ 2 ≤ lvl then crossUp 2 s else s
    .next (if was < 3 ∧ 3 ≤ lvl then crossUp 3 s else s)

/-- The stack memory mode changes at a boundary: the stacks retrain and hold requests (R239). -/
def changeMode (high : Bool) (s : State) : State :=
  logEvent 0x0450 idGovernor (if high then 1 else 0)
    { s with gov := { s.gov with high := high }, mem := { s.mem with high := high, retrain := [0, 1] } }

def setK (k : Nat) (s : State) : State := { s with gov := { s.gov with k := BitVec.ofNat 5 k } }

/-- A cognition regulator waited in the cue that ends. -/
def State.regulatorWaited (s : State) : Bool :=
  (List.finRange 8).any fun i => (s.part.get i).waitedCue &&
    (match s.partCfg i.1 with
     | some c => decide (c.kind = 2)
     | none => false)

/-- The first row of R463 that holds: the mean power `above` 95% of the envelope, or `below` 85% of it; `full` cues at k = 16 have gone by. -/
def governorRow (above below : Bool) (full : Nat) (waited : Bool) (s : State) : State :=
  if above ∧ s.gov.high = true then changeMode false (logEvent 0x0B04 idGovernor 0 s)
  else if above then logEvent 0x0B05 idGovernor (s.gov.k.toNat - 2) (setK (s.gov.k.toNat - 2) s)
  else if below ∧ s.gov.k.toNat < 16 then
    (if 16 ≤ s.gov.cool ∧ s.gov.hot = 0 then logEvent 0x0B05 idGovernor (s.gov.k.toNat + 1) (setK (s.gov.k.toNat + 1) s) else s)
  else if below ∧ 64 ≤ full ∧ waited = true ∧ s.gov.high = false ∧ s.gov.hot = 0 then changeMode true s
  else s

/-- The cue's measurements taken at its end (R462, R467). -/
def governorClose (g : Gov) (s : State) : State :=
  { s with gov := { g with
    power := BitVec.ofNat 16 (satNat (g.sum / max g.num 1 / 10) 16), sum := 0, num := 0, stopped := false
    fullCues := if g.kReg = 16 then g.fullCues + 1 else 0
    cool := if g.hotCue then 0 else g.cool + 1, hotCue := decide (tjMax8 s - 80 ≤ g.tj.toInt) } }

/-- High mode withdrawn since the last boundary ends here, and a crossing of Tj_max - 10 lowers the allowance (R465). -/
def governorLower (s : State) : State :=
  let s := if s.gov.withdrawn && s.gov.high then changeMode false s else s
  let s := { s with gov := { s.gov with withdrawn := false } }
  if 1 ≤ s.gov.hot then setK (s.gov.k.toNat - 4) s else s

/-- The governor's action at a boundary: thermal lowering, then the first row of R463 that holds (DEDUCED, assumption 37). No cue has ended at the
first boundary; `waited` says whether a cognition regulator waited in the one that has. -/
def governorBoundary (first waited : Bool) (s : State) : State :=
  let g := if first then { s.gov with sum := 0, num := 0 } else s.gov
  let e := envelopeMw s
  let s := governorRow (g.num ≠ 0 ∧ 95 * e * g.num < 100 * g.sum) (g.num ≠ 0 ∧ 100 * g.sum < 85 * e * g.num)
    (if g.kReg = 16 then g.fullCues + 1 else 0) waited (governorLower (governorClose g s))
  { s with gov := { s.gov with kReg := s.gov.k } }

/-! ### Regulators (R280) -/

/-- One tick of one regulator. -/
def tickPart (high : Bool) (c : Partition) (r : PartRt) : PartRt :=
  if c.kind < 2 ∨ 3 < c.kind then r
  else
    let rate := if high then c.rateHigh else c.rateNom
    let r := if r.owed ≠ [] then bump PartRt.regWait (fun r v => { r with regWait := v }) 4 { r with waitedCue := true } else r
    { r with bucket := min (r.bucket + rate) (c.depth : Int) }

/-- REGULATOR_TICK: every regulator adds the rate of the cue's memory mode, up to its depth, and requests that waited pass. -/
def execRegulatorTick (t : Nat) (s : State) : Host.Outcome State Fault Refusal :=
  let s := s.at t
  .next (if s.forme.loaded then
    let s := { s with part := Vector.ofFn fun i =>
        match s.partCfg i.1 with
        | some c => tickPart s.mem.high c (s.part.get i)
        | none => s.part.get i }
    (List.range 8).foldl (fun s i => passPart i s) s
    else s)

/-- STACK_RETRAIN_DONE: the stack's held requests proceed, their 20 µs running anew, and stagehands that waited for them resume (R239, R260). -/
def execStackRetrainDone (t : Nat) (n : Fin 2) (s : State) : Host.Outcome State Fault Refusal :=
  let s := s.at t
  let ts := s.mem.trackers.map fun t => if t.waits = false ∧ covers (.stack n) (region t.dev) = true ∧ n ∈ s.mem.retrain then { t with at_ := s.now } else t
  .next { s with
    mem := { s.mem with retrain := s.mem.retrain.filter fun m => m != n, trackers := ts }
    press := s.press.map fun r => { r with hands := r.hands.map fun h => if h.wait = .trackers then { h with wait := .none, since := s.pressCycle } else h } }

/-! ### The PTP-aligned generator (R37) -/

/-- A device-time value of R449 in ns. -/
def stampNs (v : Nat) : Nat := v / 2 ^ 30 * 1000000000 + v % 2 ^ 30

/-- Signed phase error in ns of a device time against the epoch's grid of period P µs (R37). -/
def phaseError (s : State) (ns : Nat) : Int :=
  let p : Int := (s.forme.period * 1000 : Nat)
  let r := ((ns : Int) - (stampNs s.forme.epoch : Int)) % p
  if 2 * r ≤ p then r else r - p

/-- Where the PTP-aligned generator places the next boundary: a cue is changed by at most 0.05 % of P against the phase error that the last
boundary had when it was stamped (R37). -/
def alignedNext (s : State) : Nat :=
  let p : Int := (400 * s.forme.period : Nat)
  let lim := p / 2000
  let e := phaseError s (stampNs s.cue.stamp) * 2 / 5
  let d := if s.tb.source = .free then 0 else max (-lim) (min e lim)
  ((s.cue.b : Int) + p - d).toNat

end Sys2Proof.Machine
end

