-- ==== Sys2Proof/Machine/Placement.lean ====
section
/-! DEFINITION. Which units a scene or a rehearsal slice may take now: the cue sheet's windows, the plans, the admission test of R44,
the order of R45 and the placement of re-runs (R41 to R50, R265, R268, R272, R276, R340, R462). -/

namespace Sys2Proof.Machine

/-! ### The batch as a play reads it (R82, R154) -/

/-- A slot's record: status, kind, output size and channels, start stamp, points and number. -/
def slotImage (c : Option Stream) (r : SlotRec) : List Byte :=
  match c with
  | none => natLe 1 r.status ++ [0xFF] ++ List.replicate 30 0
  | some c =>
    let image := decide (c.kind ≠ 2)
    natLe 1 r.status ++ natLe 1 c.kind ++ natLe 2 (if image then c.outW else 0) ++ natLe 2 (if image then c.outH else 0) ++
      natLe 2 (if image then c.outC else 8) ++ natLe 8 r.stamp ++ natLe 4 r.points ++ natLe 4 r.num ++ List.replicate 8 0

/-- The 64 bytes of the batch descriptor and its 32 slot records. -/
def Forme.descriptor (f : Forme) (b : Batch) : List Byte :=
  let required := ((List.range 32).map fun i => bit ((f.streams.getD i .none).any Stream.required) i).sum
  natLe 8 b.cue ++ natLe 8 b.stamp ++ natLe 4 b.mask.toNat ++ natLe 4 required ++
    natLe 1 (f.streams.filter Option.isSome).length ++ (List.replicate 39 0 : List Byte) ++
    (List.range 32).flatMap fun i => ((b.slots[i]?).map (slotImage (f.streams.getD i .none))).getD (List.replicate 32 0)

/-- A batch tensor's bytes: the descriptor and the records for source 0xFFFF, else a slot. -/
def Forme.batchView (f : Forme) (b : Batch) (source : Nat) : List Byte :=
  if source = 0xFFFF then f.descriptor b else ((b.slots[source]?).map SlotRec.bytes).getD []

/-! ### The sheet in arbiter cycles -/

/-- Offset of now within the cue. -/
def State.off (s : State) : Nat := s.now - s.cue.b

/-- Lmin in µs (R32). -/
def State.lminUs (s : State) : Nat := lmin s.forme.period s.forme.source

/-- A press of the safety partition's mask. -/
def State.isSafetyPress (s : State) (p : Fin 16) : Bool :=
  match s.forme.safety with
  | some c => maskHas c.mask p
  | none => false

/-- Reserved windows of a press (R41): proof pass, perception window, rehearsal reserve. -/
def State.pressWindows (s : State) (p : Fin 16) : List (Nat × Nat) :=
  [(0, us 40)] ++
    (if s.isSafetyPress p then [(us s.forme.sheet.perStart, us s.forme.sheet.perEnd)] else []) ++
    [(us (s.lminUs - s.forme.rehPress), us s.lminUs)]

/-- Reserved windows of the understudy. -/
def State.coreWindows (s : State) : List (Nat × Nat) :=
  [(0, us 60), (us s.forme.sheet.undStart, us s.forme.sheet.undEnd), (us (s.lminUs - s.forme.rehCore), us s.lminUs)]

/-- W of R44: the start of the next reserved window, none inside a window or from Lmin on. -/
def nextWindow (ws : List (Nat × Nat)) (l off : Nat) : Option Nat :=
  if l ≤ off ∨ (ws.any fun w => decide (w.1 ≤ off ∧ off < w.2)) = true then none
  else some (((ws.map Prod.fst).filter fun a => off ≤ a).foldl min l)

/-- R44 in a unit's unreserved time. -/
def fitsGap (ws : List (Nat × Nat)) (l off budget : Nat) : Bool :=
  match nextWindow ws l off with
  | some w => decide (off + us budget ≤ w)
  | none => false

/-- R44 for a safety scene against the end of its own window (R276). -/
def fitsWindow (a b off budget : Nat) : Bool := decide (us a ≤ off ∧ off + us budget ≤ us b)

/-! ### Units that are free -/

/-- No run is on a unit; the press of a part that has finished idles until its scene ends (R185; DESIGN CHOICE, assumption 155). -/
def State.noRun (s : State) (u : UnitId) : Bool := !(s.sched.insts.any fun i => decide (i.st = .running) && i.on u)

/-- No rehearsal slice runs on a unit. -/
def State.noSlice (s : State) (u : UnitId) : Bool := !(s.sched.slices.any fun x => decide (x.unit = .unit u))

def State.freeUnit (s : State) (u : UnitId) : Bool := s.inServ u && s.noRun u && s.noSlice u

/-- The unit is behind with its rehearsal (R50). -/
def State.unitBehind (s : State) (u : UnitId) : Bool := decide (2500 ≤ (s.unit u).age.toNat)

/-! ### Costs and bands of a scene -/

/-- What an instance's scene costs, for a safety play by the plan for `n` units. -/
def sceneCost (p : Play) (n : Nat) (k : InstKey) : Cost :=
  match p.low.scenes[coarseIdx p k]? with
  | none => { budget := 0, iso := [], splits := [] }
  | some r =>
    if k.fine then ((p.fineOf k r).map FineRep.cost).getD r.cost
    else match (if p.kind ≤ 1 then planFor p.low n else none) with
      | some q => q.costs.getD k.scene r.cost
      | none => r.cost

/-- Presses and cores of a classification's plans: those of its first repeat, or of now (R340). -/
def Classif.presses (c : Classif) (s : State) : List (Fin 16) := c.perPlan.getD s.safetyPresses
def Classif.cores (c : Classif) (s : State) : List (Fin 4) := c.undPlan.getD s.cores

/-- Units of the plan that an instance of a safety play runs by: a repeat's are its classification's. -/
def State.planCount (s : State) (p : Play) (k : InstKey) : Nat :=
  match (if k.rep then s.cls.find? fun c => c.cue = k.run else none) with
  | some c => if p.kind = 0 then (c.presses s).length else (c.cores s).length
  | none => if p.kind = 0 then s.sched.planPresses.length else s.sched.planCores.length

/-- The cost of an instance's scene by the plan in force. -/
def State.cost (s : State) (p : Play) (k : InstKey) : Cost := sceneCost p (s.planCount p k) k

/-- The bands that the parts of an instance's scene exchange (R180). -/
def State.bandsOf (s : State) (p : Play) (k : InstKey) : List Band :=
  match p.low.scenes[coarseIdx p k]? with
  | none => []
  | some r =>
    if k.fine then ((p.fineOf k r).map FineRep.bands).getD []
    else match (if p.kind ≤ 1 then planFor p.low (s.planCount p k) else none) with
      | some q => q.bands.getD k.scene []
      | none => r.bands

/-- The instance writes its step's token output: the last fine scene of the range, or the scene itself. -/
def writesTokens (p : Play) (k : InstKey) : Bool :=
  match p.low.scenes[coarseIdx p k]? with
  | none => false
  | some r => r.tokens && (!k.fine || decide (k.scene + 1 = fineBase p.low.scenes (coarseIdx p k + 1)))

/-! ### Cognition and other scenes (R265, R268, R462) -/

/-- A press has used the partition's cap in the cue (R265). -/
def State.capped (s : State) (c : Partition) (r : PartRt) (p : Fin 16) : Bool :=
  decide (c.cap ≠ 0) && decide (c.cap * s.ident.mhz ≤ ((r.capUsed.find? fun e => e.1 = p).map Prod.snd).getD 0)

/-- Unreserved time of a press in a cue at Lmin, in arithmetic cycles. -/
def State.unreserved (s : State) (p : Fin 16) : Nat :=
  (s.lminUs - 40 - s.forme.rehPress - (if s.isSafetyPress p then s.forme.sheet.perLen else 0)) * s.ident.mhz

/-- Press-cycles of a partition in the cue: what it was charged and the budgets of its runs. -/
def State.partUse (s : State) (part : Nat) : Nat :=
  ((s.gov.usedCycles.find? fun e => e.1 = part).map Prod.snd).getD 0 +
    ((s.sched.insts.filter fun i => decide (i.part = part) && decide (i.st = .running)).map fun i =>
      i.budget * s.ident.mhz * i.presses.length).sum

/-- The cognition allowance k leaves room for a scene (R462). -/
def State.allowed (s : State) (part : Nat) (c : Partition) (budget : Nat) : Bool :=
  let whole := ((allPresses.filter fun p => maskHas c.mask p).map fun p => s.unreserved p).sum
  decide ((s.partUse part + budget * s.ident.mhz * c.width) * 16 ≤ s.gov.k.toNat * whole)

/-- Presses of the preference that are free, in service, uncapped and not behind with their rehearsal (R45). -/
def State.coolPresses (s : State) (part : Nat) (c : Partition) : List (Fin 16) :=
  if h : part < 8 then
    let r := s.part.get ⟨part, h⟩
    r.pref.filter fun p => maskHas c.mask p && s.freeUnit (.press p) && !s.capped c r p && !s.unitBehind (.press p)
  else []

/-- Presses at which a killed scene shall not run again, while others in service suffice (DEDUCED, assumption 23). -/
def State.avoided (s : State) (i : Inst) (c : Partition) : List (Fin 16) :=
  let others := allPresses.filter fun p => maskHas c.mask p && s.inServ (.press p) && decide (p ∉ i.avoid)
  if c.width ≤ others.length then i.avoid else []

/-- The presses of a cognition or other scene, and whether R44 alone refused it. -/
def pickCog (s : State) (i : Inst) : Option (List UnitId) × Bool :=
  match s.partCfg i.part with
  | none => (none, false)
  | some c =>
    let av := s.avoided i c
    let pool := (s.coolPresses i.part c).filter fun p => p ∉ av
    let fit := pool.filter fun p => fitsGap (s.pressWindows p) (us s.lminUs) s.off i.budget
    if c.width = 0 ∨ pool.length < c.width ∨ s.allowed i.part c i.budget = false then (none, false)
    else if fit.length < c.width then (none, true)
    else (some ((fit.take c.width).map .press), false)

/-! ### Safety scenes and repeats (R272, R276, R340) -/

/-- The units a plan assigns to a scene. -/
def planUnits (p : Play) (scene : Nat) (presses : List (Fin 16)) (cores : List (Fin 4)) : Option (List UnitId) :=
  let n := if p.kind = 0 then presses.length else cores.length
  match planFor p.low n with
  | none => none
  | some q =>
    let us := (q.ranks.getD scene []).filterMap fun r =>
      if p.kind = 0 then (presses[r]?).map UnitId.press else (cores[r]?).map UnitId.core
    if us.length = (q.ranks.getD scene []).length ∧ us ≠ [] then some us else none

/-- Instances of a safety play that run in this cue. -/
def State.cueInsts (s : State) (p : Play) : List Inst :=
  s.sched.insts.filter fun i => decide (i.key.play = p.index) && decide (i.key.run = s.cue.count.toNat) && !i.key.rep

/-- End of a unit's planned work in its window, in µs from the boundary, with the scenes placed onto it since (R276). -/
def plannedEnd (s : State) (p : Play) (u : UnitId) : Nat :=
  let n := if p.kind = 0 then s.sched.planPresses.length else s.sched.planCores.length
  let base := if p.kind = 0 then s.forme.sheet.perStart else s.forme.sheet.undStart
  let planned := match planFor p.low n with
    | none => []
    | some q => (List.range p.low.scenes.length).filterMap fun k =>
        match planUnits p k s.sched.planPresses s.sched.planCores with
        | some us => if u ∈ us then some (base + q.starts.getD k 0 + (sceneCost p n { play := p.index, scene := k, run := 0, rep := false, fine := false }).budget) else none
        | none => none
  let started := ((s.cueInsts p).filter fun i => i.on u).map fun i => (i.at_ - s.cue.b) / 400 + i.budget
  let waiting := ((s.cueInsts p).filter fun i => decide (i.st = .ready) && decide (u ∈ i.place)).map Inst.budget
  (planned ++ started).foldl max 0 + waiting.sum

/-- Planned scenes of a unit, and scenes placed onto it before, that have not started in this cue. -/
def State.plannedLeft (s : State) (p : Play) (u : UnitId) (k : InstKey) : Bool :=
  s.sched.insts.any fun i => decide (i.key ≠ k) && decide (i.key.play = p.index) && decide (i.key.run = k.run) && !i.key.rep &&
    ((!i.wasKilled && decide (i.st = .waiting ∨ i.st = .ready) &&
      (match planUnits p i.key.scene s.sched.planPresses s.sched.planCores with
       | some us => us.all (fun v => s.inServ v) && decide (u ∈ us)
       | none => false)) ||
     (decide (i.st = .ready) && decide (u ∈ i.place) && s.sched.insts.any fun j => decide (j.key = k) && decide (i.ord < j.ord)))

def safetyUnits (s : State) (p : Play) : List UnitId :=
  if p.kind = 0 then s.safetyPresses.map .press else s.cores.map .core

/-- Width of a safety scene: the ranks its plan gives it. -/
def safetyWidth (p : Play) (scene n : Nat) : Nat :=
  match planFor p.low n with
  | some q => (q.ranks.getD scene []).length
  | none => 1

/-- Where a re-run or a scene of a struck unit goes: the units whose planned work ends earliest, ties to the lower number (R276). -/
def replaced (s : State) (p : Play) (width : Nat) (avoid : List (Fin 16)) : List UnitId :=
  let us := sortBy (plannedEnd s p) (safetyUnits s p)
  let others := us.filter fun u => match u with
    | .press q => decide (q ∉ avoid)
    | _ => true
  (if width ≤ others.length then others else us).take width

/-- A safety scene that may not run where the plan has it: it was killed, or a unit it was given is out of service. -/
def State.displacedScene (s : State) (p : Play) (i : Inst) : Bool :=
  decide (i.st = .ready) && decide (i.key.run = s.cue.count.toNat) && !i.key.rep && !(decide (i.place ≠ []) && i.place.all fun u => s.inServ u) &&
    (i.wasKilled || decide (i.place ≠ []) || (match planUnits p i.key.scene s.sched.planPresses s.sched.planCores with
      | some us => !us.all fun u => s.inServ u
      | none => false))

/-- Displaced safety scenes are given their units, one at a time in the plan's order (R276). -/
def placeDisplaced (s : State) : State :=
  (s.sched.insts.filter fun i => decide (i.kind ≤ 1)).foldl (fun s i => match s.play? i.key.play with
    | none => s
    | some p =>
      if s.displacedScene p i then
        let n := if p.kind = 0 then s.sched.planPresses.length else s.sched.planCores.length
        let us := replaced s p (safetyWidth p i.key.scene n) i.avoid
        s.modInst i.key fun i => { i with place := us }
      else s) s

/-- KILLED instances become READY for their next run (R294). -/
def reRun (s : State) : State :=
  { s with sched := { s.sched with insts := lmod (fun i => i.st = .killed) (fun i => { i with st := .ready, place := [] }) s.sched.insts } }

def pickSafety (s : State) (p : Play) (i : Inst) : Option (List UnitId) :=
  let w := if p.kind = 0 then (s.forme.sheet.perStart, s.forme.sheet.perEnd) else (s.forme.sheet.undStart, s.forme.sheet.undEnd)
  if i.key.run ≠ s.cue.count.toNat ∨ fitsWindow w.1 w.2 s.off i.budget = false then none
  else
    match planUnits p i.key.scene s.sched.planPresses s.sched.planCores with
    | none => none
    | some us =>
      if i.place = [] then (if !i.wasKilled && us.all (fun u => s.freeUnit u) then some us else none)
      else if i.place.length = us.length ∧ i.place.all (fun u => s.freeUnit u && !s.plannedLeft p u i.key) = true then some i.place
      else none

/-- A repeat's units: the plan's, or free units of the channel for a re-run, in unreserved time, other than the press it was killed on
while others suffice (R115, R340, R343). -/
def pickRepeat (s : State) (p : Play) (i : Inst) : Option (List UnitId) :=
  match s.cls.find? fun c => c.cue = i.key.run with
  | none => none
  | some c =>
    let ok := fun (u : UnitId) => s.freeUnit u &&
      fitsGap (match u with
        | .press q => s.pressWindows q
        | _ => s.coreWindows) (us s.lminUs) s.off (s.cost p i.key).budget
    if s.safetyPresses.length < ((s.forme.safety.map Partition.min).getD 0) ∨ s.understudyLost = true then none
    else
      match planUnits p i.key.scene (c.presses s) (c.cores s) with
      | none => none
      | some us =>
        if !i.wasKilled && us.all (fun u => s.inServ u) then (if us.all ok then some us else none)
        else
          let free := (safetyUnits s p).filter ok
          let others := free.filter fun u => match u with
            | .press q => decide (q ∉ i.avoid)
            | _ => true
          let free := (if us.length ≤ ((safetyUnits s p).filter fun u => match u with
            | .press q => decide (q ∉ i.avoid)
            | _ => true).length then others else free).take us.length
          if free.length = us.length then some free else none

/-! ### Leaf-move scenes (R250, R278) -/

/-- Scene numbers of leaf moves begin beyond those of any lowering. -/
def moveBase : Nat := 65536

/-- The move that a leaf-move instance makes: play, leaf and the galley frame it moves into. -/
def State.move? (s : State) (i : Inst) : Option (Nat × Nat × Option Nat) :=
  (s.cog.moves.find? fun m => m.1 = i.key.scene - moveBase).map Prod.snd

/-- Positions a row's scene writes in a pool, copies included (R216). -/
def Row.writes (r : Row) : List Nat :=
  let a := if r.copySrc.isSome then r.start / 16 * 16 else r.start
  (List.range (r.start + r.count - a)).map fun k => a + k

/-- A step that has been admitted writes the leaf in place; a dropped row's scenes run on (R197, R211). -/
def State.writesLeaf (s : State) (play leaf : Nat) : Bool :=
  s.cog.steps.any fun st => decide (st.play = play) && st.rows.any fun r => r.writes.any fun p =>
    decide (r.map.getD (p / 16) leaf = leaf ∧ p / 16 < r.map.length)

/-- A leaf move runs whose leaf a row of a step writes in place: the step's scenes wait for its end, since no leaf moves that a running scene
writes (R197; DESIGN CHOICE, assumption 153). -/
def State.leafMoves (s : State) (play no : Nat) : Bool :=
  s.sched.insts.any fun j => decide (j.kind = kindMove) && decide (j.st = .running) && (s.move? j).any fun m =>
    decide (m.1 = play) && s.cog.steps.any fun st => decide (st.play = play ∧ st.no = no) && st.rows.any fun r => r.writes.any fun q =>
      decide (r.map[q / 16]? = some m.2.1)

/-- A leaf move may run: no admitted step writes the leaf, and the frame it moves into is free, which a frame that a leaf has left is once every
scene admitted before has ended (R197, R250). -/
def State.moveReady (s : State) (i : Inst) : Bool :=
  match s.move? i with
  | none => false
  | some (play, leaf, frame) => !s.writesLeaf play leaf && (match frame with
    | none => true
    | some f => !(s.cog.dir.any fun e => decide (entryFrame e.2.2 = f) && ((s.play? e.1).any fun p => decide (p.part = i.part))) &&
        !(s.sched.insts.any fun j => decide (j.st = .running ∧ j.part = i.part) && j.frames.any fun e => decide (e.2 = f)))

/-! ### Who may be admitted now -/

/-- A constant of the play lies in a stack or sector out of service. -/
def State.constsLost (s : State) (play : Nat) : Bool :=
  s.forme.consts.any fun c => decide (c.1.1 = play) && (s.pte? play c.1.2).any fun e => s.pageLost (pteDev e)

/-- A play whose constants lie in a struck stack or sector, that waits for a restoration, or that is blocked takes no scene (R240, R259, R358,
R360). -/
def State.playHeld (s : State) (play : Nat) : Bool :=
  decide (play ∈ s.sched.blocked) || decide (play ∈ s.sched.unmapped) || (s.mem.restore.any fun r => decide (r.play = play)) || s.constsLost play

/-- Room in the send queue for a step's RESULT besides two publications (R442). -/
def State.resultRoom (s : State) (st : Step) : Bool :=
  let n := (st.rows.filter fun r => r.draws && !r.dropped).length
  let pub := ((s.forme.plays.find? fun p => p.kind = 0).map pubBlocks).getD 0
  decide (n = 0) || decide (blocksFor (24 + 16 * n) + 2 * pub ≤ s.txRoom)

/-- An earlier step of the play has not delivered its tokens (R314). -/
def State.tokensWait (s : State) (play no : Nat) : Bool :=
  s.cog.steps.any fun st => decide (st.play = play) && decide (st.no < no) && !st.tokensDone

/-- A step's token scene waits for room and for its turn. -/
def State.tokenHeld (s : State) (p : Play) (k : InstKey) : Bool :=
  decide (p.kind = 2) && writesTokens p k &&
    (match s.cog.steps.find? fun st => st.play = k.play ∧ st.no = k.run with
     | some st => !s.resultRoom st || s.tokensWait k.play k.run
     | none => true)

/-- The device state admits scenes of a kind (R22, R345, R368, R464, R469). -/
def State.kindAdmits (s : State) (i : Inst) : Bool :=
  s.cue.running && !s.dev.faultN &&
    (if i.key.rep then decide (s.dev.st = .running ∨ s.dev.st = .degraded)
     else if i.kind ≤ 1 then decide (s.dev.st = .running ∨ s.dev.st = .degraded)
     else s.cogState && (decide (i.kind = 3) || !s.gov.stopped))

/-- The units an instance would take now, and whether R44 alone refused it. -/
def pick (s : State) (i : Inst) : Option (List UnitId) × Bool :=
  if i.st ≠ .ready ∨ i.relower = true ∨ s.kindAdmits i = false ∨ s.playHeld i.key.play = true then (none, false)
  else
    match s.play? i.key.play with
    | none => (none, false)
    | some p =>
      if i.key.rep then (pickRepeat s p i, false)
      else if i.kind = 0 ∨ i.kind = 1 then (pickSafety s p i, false)
      else if i.kind ≠ kindMove ∧ s.tokenHeld p i.key = true then (none, false)
      else if i.kind = kindMove ∧ s.moveReady i = false then (none, false)
      else if i.kind = 2 ∧ s.leafMoves i.key.play i.key.run = true then (none, false)
      else pickCog s i

/-- Rank of R45 in unreserved time; safety scenes stand in windows of their own. -/
def Inst.rank (i : Inst) : Nat := if i.key.rep then 0 else if i.kind ≤ 1 then 0 else 1

/-- Another READY instance goes first on one of the units (R45). -/
def State.outranked (s : State) (i : Inst) (us : List UnitId) : Bool :=
  s.sched.insts.any fun j => decide (j.key ≠ i.key) && decide (j.st = .ready) &&
    decide (j.rank < i.rank ∨ (j.rank = i.rank ∧ j.ord < i.ord)) &&
    (match (pick s j).1 with
     | some vs => vs.any fun v => decide (v ∈ us)
     | none => false)

end Sys2Proof.Machine
end

