-- ==== Sys2Proof/Machine/Understudy.lean ====
section
/-! DEFINITION. The understudy's arithmetic: what its cores compute for the operators marked U, node by node, and the values a run reads
(R154, R155, R165, R173, R210, R282, R319, R320). -/

namespace Sys2Proof.Machine

/-! ### What a run reads -/

/-- The newest committed value of a tensor that a predicate accepts. -/
def State.value? (s : State) (play tensor : Nat) (f : Value → Bool) : Option Value :=
  s.sched.values.find? fun v => decide (v.play = play) && decide (v.tensor = tensor) && !v.rep && f v

/-- Values of earlier cues stand before this count: a cue's run and its repeats read the same ones, and a step's scene that was killed reads what
it read before (R155, R282, R304, R340) (DEDUCED, assumption 100). -/
def State.readLimit (s : State) (i : Inst) : Nat :=
  if i.kind = 2 then (if i.wasKilled then i.cue else s.cue.count.toNat) else i.key.run

/-- A state tensor's value in force: nothing before its first whole commit (R155). -/
def State.stateValue (s : State) (i : Inst) (tensor : Nat) : Option Value :=
  s.value? i.key.play tensor fun v => v.whole && decide (v.cue < s.readLimit i)

/-- A link's value: nothing before the producer's first commit, and nothing of an output marked invalid (R282). -/
def State.linkValue (s : State) (i : Inst) (l : Link) : Option Value :=
  (s.value? l.producer l.ptensor fun v => v.whole && decide (v.cue < s.readLimit i)).filter Value.valid

/-- The batch that a run reads: its cue's, or for a step the newest closed one, which a re-run reads again (R154, R304) (DEDUCED, assumption
128). -/
def State.batchOf (s : State) (i : Inst) : Option Batch :=
  if i.kind = 2 then (if i.wasKilled then s.ing.batches.find? fun b => b.cue = i.batch else s.ing.batches.head?) else s.ing.batches.find? fun b => b.cue = i.key.run

/-- A batch tensor's bytes: of the batch, or for an understudy run what the ingress stage wrote (R154, R320). -/
def State.batchBytes (s : State) (i : Inst) (source : Nat) : List Byte :=
  match s.batchOf i with
  | some b => if i.kind = 1 then ((b.under.find? fun e => e.1 = source).map Prod.snd).getD [] else s.forme.batchView b source
  | none => []

/-- The source of a batch tensor that a run reads. -/
def State.batchSource (s : State) (i : Inst) (tensor : Nat) : Option Nat :=
  if s.forme.links.any fun l => decide (l.consumer = i.key.play ∧ l.ctensor = tensor) then none
  else (s.play? i.key.play).bind fun p => if p.kindOf tensor = some 4 then (p.tensors[tensor]?).map Tensor.source else none

/-- The committed value that stands for a tensor that a run only reads; a repeat's scenes read what the repeat's own have committed. -/
def State.inputValue (s : State) (i : Inst) (tensor : Nat) : Option Value :=
  match s.forme.links.find? fun l => l.consumer = i.key.play ∧ l.ctensor = tensor with
  | some l => s.linkValue i l
  | none => (s.play? i.key.play).bind fun p =>
    if p.kindOf tensor = some 5 then s.stateValue i (if tensor < p.tensors.length then tensor else tensor - p.tensors.length)
    else s.sched.values.find? fun v => decide (v.play = i.key.play) && decide (v.tensor = tensor) && (v.rep == i.key.rep) && decide (v.run = i.key.run)

/-- The bytes of a tensor that a run only reads; what they lack to the tensor's size reads as zero. -/
def State.inputBytes (s : State) (i : Inst) (tensor : Nat) : List Byte :=
  match s.batchSource i tensor with
  | some source => s.batchBytes i source
  | none => ((s.inputValue i tensor).map Value.bytes).getD []

/-- Where a slot lies in a batch's buffer: after the descriptor and records, each slot on a multiple of 64 bytes (DESIGN CHOICE, assumption
82). -/
def Forme.slotOffset (f : Forme) (source : Nat) : Nat :=
  if source = 0xFFFF then 0 else batchSize (f.streams.take source)

/-- The buffer of a batch in the ring (R84). -/
def Forme.ringAt (f : Forme) (cue : Nat) : Option Nat := f.ring[cue % 4]?

/-- The buffers in which the bytes of an input stand: the batch's, or the ones its value was committed in; none where the imposer has yet to
place them. -/
def State.inputHome (s : State) (i : Inst) (tensor : Nat) : List BufReq :=
  match s.batchSource i tensor with
  | some source =>
    (match s.batchOf i with
     | none => []
     | some b =>
       let at_ := if i.kind = 1 then (s.forme.under.find? fun e => e.1 = source).map Prod.snd
         else (s.forme.ringAt b.cue).map fun a => a + s.forme.slotOffset source
       (at_.map fun a => { tensor := tensor, off := 0, play := 0, dev := a, len := padTo 64 (s.batchBytes i source).length }).toList)
  | none => ((s.inputValue i tensor).map Value.bufs).getD []

/-! ### Tensors as arrays (R75, R152) -/

/-- The place of row-major element `i` in a tensor's image. -/
def Tensor.place (t : Tensor) (i : Nat) : Nat :=
  match t.dims with
  | [_, h, w] =>
    if t.layout = 0 then i
    else
      let c := i / (h * w)
      (c / t.cblock * (h * w) + i % (h * w)) * t.cblock + c % t.cblock
  | _ => i

/-- A tensor's image as an array in row-major order. -/
def Tensor.load (t : Tensor) (bs : List Byte) : VArr :=
  let rd := fun (a : Nat) => bs.getD a 0
  let scales := padTo 64 (packedLen t.format (prod t.dims))
  { fmt := t.format, bits := (List.range (prod t.dims)).map fun i =>
      elemCode t.format (t.place i) ((elemAddrs t.format 0 (t.place i)).map rd) + (if isMx t.format then (rd (scales + i / 32)).toNat * 256 else 0) }

/-- An array in row-major order as a tensor's image; the channels that pad the last block are zero. -/
def Tensor.store (t : Tensor) (a : VArr) : List Byte :=
  match t.dims with
  | [c, h, w] =>
    if t.layout = 0 then a.bytes
    else
      let cb := t.cblock
      VArr.bytes { a with bits := (List.range (padTo cb c * h * w)).map fun k =>
        let ch := k / (cb * h * w) * cb + k % cb
        if ch < c then at0 a.bits (ch * (h * w) + k / cb % (h * w)) 0 else 0 }
  | _ => a.bytes

/-! ### Dot products (R173, R319) -/

/-- The sum of products in ascending order, from the first product, each addition rounded, the bias last. -/
def coreDot (xs : List (W32 × W32)) (bias : Option W32) : W32 :=
  let sum := match xs.map fun x => f32mul x.1 x.2 with
    | [] => 0
    | p :: ps => ps.foldl f32add p
  match bias with
  | some b => f32add sum b
  | none => sum

/-- A bias element; an absent input has no elements. -/
def biasAt (b : List W32) (n : Nat) : Option W32 := if b = [] then none else some (at0 b n 0)

/-- MATMUL on each leading index of the output, whose dims are `od`; `nk` where B lies (N, K). -/
def coreMatmul (da db od : List Nat) (nk : Bool) (a b bias : List W32) : List W32 :=
  let la := da.take (da.length - 2)
  let lb := db.take (db.length - 2)
  let lo := od.take (od.length - 2)
  let m := at0 od (od.length - 2) 1
  let n := od.getLastD 1
  let k := da.getLastD 1
  (List.range (prod lo)).flatMap fun g =>
    let ga := (bcastIndex lo (padShape lo.length la) g).1 * (m * k)
    let gb := (bcastIndex lo (padShape lo.length lb) g).1 * (k * n)
    (List.range (m * n)).map fun x => coreDot
      ((List.range k).map fun j => (at0 a (ga + x / n * k + j) 0, at0 b (gb + if nk then x % n * k + j else j * n + x % n) 0)) (biasAt bias (x % n))

/-- A window's geometry: kernel, strides, dilations, pads and the image's size. -/
structure WindowGeom where
  kh : Nat
  kw : Nat
  sh : Nat
  sw : Nat
  dh : Nat
  dw : Nat
  pt : Nat
  pb : Nat
  pl : Nat
  pr : Nat
  h : Nat
  w : Nat
deriving DecidableEq, Repr

def WindowGeom.oh (g : WindowGeom) : Nat := outSize g.h g.pt g.pb ((g.kh - 1) * g.dh + 1) g.sh
def WindowGeom.ow (g : WindowGeom) : Nat := outSize g.w g.pl g.pr ((g.kw - 1) * g.dw + 1) g.sw

/-- Where a tap of an output pixel lies in the image, if inside. -/
def WindowGeom.at_ (g : WindowGeom) (oy ox ky kx : Nat) : Option Nat :=
  let iy : Int := (oy * g.sh + ky * g.dh : Nat) - (g.pt : Int)
  let ix : Int := (ox * g.sw + kx * g.dw : Nat) - (g.pl : Int)
  if 0 ≤ iy ∧ iy < g.h ∧ 0 ≤ ix ∧ ix < g.w then some (iy.toNat * g.w + ix.toNat) else none

/-- CONV as the matrix product of R173: `o` output channels in `gr` groups of `cg` input channels, `cp` terms per tap, zeros in padding;
`wt` gives the weight of an output channel, an input channel of its group and a tap. -/
def coreConv (g : WindowGeom) (o gr cg cp : Nat) (wt : Nat → Nat → Nat → W32) (x bias : List W32) : List W32 :=
  (List.range o).flatMap fun oc => (List.range (g.oh * g.ow)).map fun i =>
    let grp := oc / (o / gr)
    let terms := (List.range (g.kh * g.kw)).flatMap fun tap =>
      let src := g.at_ (i / g.ow) (i % g.ow) (tap / g.kw) (tap % g.kw)
      (List.range cp).map fun c =>
        if c < cg then ((src.map fun j => at0 x ((grp * cg + c) * (g.h * g.w) + j) 0).getD 0, wt oc c tap) else (0, 0)
    coreDot terms (biasAt bias oc)

/-- CONV_DEPTHWISE: the dot product over the taps inside the image (DEDUCED, assumption 99). -/
def coreDepthwise (g : WindowGeom) (c : Nat) (x wt bias : List W32) : List W32 :=
  (List.range c).flatMap fun ch => (List.range (g.oh * g.ow)).map fun i => coreDot
    ((taps g.h g.w g.kh g.kw g.sh g.sw g.dh g.dw g.pt g.pl (i / g.ow) (i % g.ow)).map fun e =>
      (at0 x (ch * (g.h * g.w) + e.1) 0, at0 wt (ch * (g.kh * g.kw) + e.2) 0)) (biasAt bias ch)

/-! ### Nodes (R158, R165) -/

/-- A tensor's last two sizes. -/
def lastTwo (d : List Nat) : Nat × Nat := (at0 d (d.length - 2) 1, d.getLastD 1)

/-- STRIDES, DILATIONS and PADS of a node over an image; PADS stand before, then after, axis by axis (DEDUCED, assumption 99). -/
def Node.window (n : Node) (h w kh kw : Nat) : WindowGeom :=
  { kh := kh, kw := kw, sh := n.val 0x20 0 1, sw := n.val 0x20 1 1, dh := n.val 0x21 0 1, dw := n.val 0x21 1 1
    pt := n.val 0x22 0 0, pb := n.val 0x22 1 0, pl := n.val 0x22 2 0, pr := n.val 0x22 3 0, h := h, w := w }

/-- An operator over axes that are brought last, one row after another; `back` where the result keeps the input's shape. -/
def overAxes (op : VecOp) (axes d : List Nat) (back : Bool) (out : Nat) (as : List VArr) : Option VArr :=
  let rest := (List.range d.length).filter fun a => a ∉ axes
  let perm := rest ++ axes
  let a := arr as 0
  let r := vecMove op out ({ a with bits := transposeBits d perm a.bits } :: as.drop 1)
  if back then r.map fun v => { v with bits := transposeBits (perm.map fun k => at0 d k 1) ((List.range d.length).map fun k => perm.idxOf k) v.bits }
  else r

/-- Elementwise operators of the catalogue. -/
def elemOp (n : Node) : Option VecOp :=
  let sc := fun k => BitVec.ofNat 32 (n.val 0x36 k 0)
  match n.op with
  | 0x0301 => some (.arith n.mode)
  | 0x0302 => some (.maxMin n.mode)
  | 0x0303 => some .fma
  | 0x0304 => some (.unary n.mode (sc 0) (sc 1))
  | 0x0305 => some (.special n.mode)
  | 0x0306 => some .sigmoid
  | 0x0307 => some .silu
  | 0x0308 => some .geluS
  | 0x0309 => some .tanh
  | 0x030A => some (.compare n.mode)
  | 0x030B => some .select
  | _ => none

/-- Reductions, normalisations and data movement. -/
def moveNode (n : Node) (d : List Nat) (dims : List (List Nat)) (out : Nat) (as : List VArr) : Option VArr :=
  let axes := n.vals 0x11
  let len := (axes.map fun k => at0 d k 1).foldl (· * ·) 1
  let eps := BitVec.ofNat 32 (n.val 0x30 0 0)
  let axis := n.val 0x10 0 0
  match n.op with
  | 0x0401 => overAxes (.reduce n.mode len) axes d false out as
  | 0x0402 => overAxes (.softmax len) axes d true out as
  | 0x0403 => overAxes (.layerNorm len eps) axes d true out as
  | 0x0404 => overAxes (.rmsNorm len eps) axes d true out as
  | 0x0501 => vecMove .convert out as
  | 0x0502 => vecMove (.transpose d axes) out as
  | 0x0503 => vecMove (if n.mode = 0 then .concat (prod (d.take axis)) else .slice d axes (n.vals 0x26)) out as
  | 0x0504 => vecMove (.gather (prod (d.take axis)) (at0 d axis 1) (prod (d.drop (axis + 1)))) out as
  | 0x0801 => vecMove .convert out as
  | 0x0120 =>
    let g := n.window (lastTwo d).1 (lastTwo d).2 (n.val 0x25 0 1) (n.val 0x25 1 1)
    vecImage (.pool n.mode g.h g.w g.kh g.kw g.sh g.sw g.pt g.pb g.pl g.pr) out as
  | 0x0121 => vecImage (.resize n.mode (lastTwo d).1 (lastTwo d).2 (n.val 0x24 0 1) (n.val 0x24 1 1)) out as
  | 0x0123 => vecImage (.pointScatter n.mode ((dims.getD 1 []).getLastD 1) (n.val 0x24 0 1) (n.val 0x24 1 1)
      ((n.vals 0x36).map fun v => BitVec.ofNat 32 v)) out as
  | _ => none

/-- What a core gives for a node whose inputs stand as arrays beside their tensors, in the output tensor's format. -/
def coreNode (n : Node) (ts : List Tensor) (o : Tensor) (as : List VArr) : VArr :=
  let dims := ts.map Tensor.dims
  let d := dims.getD 0 []
  let b := dims.getD 1 []
  let nk := decide (n.val 4 0 0 = 1)
  let f := fun k => (arr as k).f
  match n.op with
  | 0x0101 => ofF o.format (coreMatmul d b o.dims nk (f 0) (f 1) (f 2))
  | 0x0102 => ofF o.format (coreMatmul d b o.dims nk (f 0) (f 1) (f 2))
  | 0x0110 =>
    let kh := if nk then at0 b 1 1 else at0 b 2 1
    let kw := if nk then at0 b 2 1 else at0 b 3 1
    let cg := if nk then at0 b 3 1 else at0 b 1 1
    let ws := f 1
    let wt := fun oc c tap => at0 ws (if nk then (oc * (kh * kw) + tap) * cg + c else (oc * cg + c) * (kh * kw) + tap) 0
    ofF o.format (coreConv (n.window (lastTwo d).1 (lastTwo d).2 kh kw) (at0 b 0 1) (n.val 0x23 0 1) cg
      (padTo (((ts[0]?).map Tensor.cblock).getD 16) cg) wt (f 0) (f 2))
  | 0x0111 => ofF o.format (coreDepthwise (n.window (lastTwo d).1 (lastTwo d).2 (lastTwo b).1 (lastTwo b).2) (at0 d 0 1) (f 0) (f 1) (f 2))
  | 0x0124 => (vecImage (.gridProject n.mode (prod b) (o.dims.getLastD 1)) o.format as).getD { fmt := o.format, bits := [] }
  | _ =>
    (match elemOp n with
     | some op => (vecElem op o.format (bcast dims as)).map fun r => if n.op = 0x030A then ofBits o.format r r.bits else r
     | none => moveNode n d dims o.format as).getD { fmt := o.format, bits := [] }

/-! ### The understudy play (R155, R319) -/

/-- Where a node's output stands among the arrays: a state tensor's new value stands apart from the one its readers see. -/
def Play.outKey (p : Play) (k : Nat) : Nat :=
  if ((p.tensors[k]?).map Tensor.kind) = some 5 then k + p.tensors.length else k

/-- A tensor that no node of the run has written: a constant, or what the run reads. -/
def State.coreInput (s : State) (i : Inst) (k : Nat) (t : Tensor) : VArr :=
  t.load (if t.kind = 3 then sub (sectionBytes s.ufs s.forme.sections 6 t.source) t.offset t.length else s.inputBytes i k)

/-- The arrays of a run's nodes, newest first. -/
def State.coreRun (s : State) (i : Inst) (p : Play) : List (Nat × VArr) :=
  p.nodes.foldl (fun env n =>
    let ks := n.ins.filter fun k => k ≠ 0xFFFFFFFF
    let get := fun (k : Nat) (t : Tensor) => ((env.find? fun e => e.1 = k).map Prod.snd).getD (s.coreInput i k t)
    let none' : Tensor := { format := fFp32, kind := 0, rank := 1, layout := 0, safety := false, dims := [0], source := 0, offset := 0
                            length := 0, name := 0, zeros := true }
    let ts := ks.map fun k => p.tensors.getD k none'
    let o := n.outs.headD 0
    (p.outKey o, coreNode n ts (p.tensors.getD o none') ((ks.zip ts).map fun e => get e.1 e.2)) :: env) []

/-- The cores' results in a run's buffers: each buffer takes its part of its tensor's image (R319). -/
def coreWrite (i : Inst) (bufs : List BufReq) (s : State) : State :=
  match s.play? i.key.play with
  | none => s
  | some p =>
    let env := s.coreRun i p
    bufs.foldl (fun s b =>
      match p.tensors[b.tensor]?, env.find? fun e => e.1 = p.outKey b.tensor with
      | some t, some e => devWrite b.dev (((padBytes (b.off + b.len) (t.store e.2)).drop b.off).take b.len) s
      | _, _ => s) s

end Sys2Proof.Machine
end

