-- ==== Sys2Proof/Machine/Scenes.lean ====
section
/-! DEFINITION. Scene instances: forming, admission, part requests, commit with its values, digests and tokens, the watchdog, scene
faults and blocked plays (R268, R269, R277, R283, R294 to R305, R356 to R358, R384 to R390). -/

namespace Sys2Proof.Machine

/-! ### Forming instances -/

/-- A new instance of a scene (R294). -/
def newInst (s : State) (p : Play) (k : InstKey) (st : InstState) (ord : Nat) : Inst :=
  { key := k, kind := p.kind, part := p.part, st := st, ord := ord, budget := (s.cost p k).budget, iso := (s.cost p k).iso
    splits := (s.cost p k).splits, progs := (s.cost p k).progs, units := [], partsDone := [], at_ := 0, cue := 0, wd := 0, wasKilled := false
    faultIdx := none, relower := false, bufs := [], dScene := 0, dPlay := 0, serial := 0, refused := false, avoid := [], reads := []
    frames := [], spent := [], xfers := [], coreBlocks := 0, place := [] }

/-- The instances of one run of a play: READY where a scene has no producer, else WAITING. -/
def formRun (p : Play) (run : Nat) (rep : Bool) (s : State) : State :=
  let n := p.low.scenes.length
  let is := (List.range n).map fun i =>
    let st := match p.low.scenes[i]? with
      | some r => if r.producers = [] then InstState.ready else .waiting
      | none => .waiting
    newInst s p { play := p.index, scene := i, run := run, rep := rep, fine := false } st (s.sched.ord + i)
  { s with sched := { s.sched with insts := s.sched.insts ++ is, ord := s.sched.ord + n } }

/-! ### STEP_FORMATION (R209, R214, R277) -/

/-- Stack pages a partition has left for one more step of a play (R277). -/
def State.stackRoom (s : State) (p : Play) : Bool :=
  match s.partCfg p.part with
  | none => false
  | some c =>
    let ps := s.forme.plays.filter fun q => decide (q.part = p.part)
    let used := (ps.map fun q => q.low.leafNeed).sum +
      (s.cog.steps.map fun st => match s.play? st.play with
        | some q => if q.part = p.part then q.low.stepNeed else 0
        | none => 0).sum
    decide (used + p.low.stepNeed ≤ c.stack)

/-- Values of a step's kind-1 tensors. -/
def inputValues (p : Play) (no cue : Nat) (images : List (List Byte)) : List Value :=
  (((List.range p.tensors.length).filter fun i => decide (((p.tensors[i]?).map Tensor.kind) = some 1)).zip images).map fun e =>
    { play := p.index, tensor := e.1, run := no, serial := 0, cue := cue, valid := true, rep := false, whole := true, bufs := []
      bytes := e.2 }

/-- Form one step from the QUEUED sessions of a play (DEDUCED, assumption 92). -/
def formStep (p : Play) (s : State) : State :=
  let lim := s.limits p.index
  let (f, s') := formRows lim (s.queued p.index) { rows := [], used := 0, short := false, left := none } s
  let s := match f.left with
    | some slot => logOnce 0 0x0C03 idStage (slot % 256) s'
    | none => s'
  if f.rows = [] then s
  else
    let rows := sortBy (fun r => r.handle.toNat) f.rows
    let no := ((s.cog.stepNo.find? fun e => e.1 = p.index).map Prod.snd).getD 0 + 1
    let s := rows.foldl (fun s r => modSession r.slot (fun x => { x with st := .running }) s) s
    let s := { s with
      cog := { s.cog with
        stepNo := (p.index, no) :: s.cog.stepNo.filter fun e => e.1 != p.index
        steps := s.cog.steps ++ [{ play := p.index, no := no, rows := rows, tokensDone := false, abandoned := false }] }
      sched := { s.sched with values := inputValues p no s.cue.count.toNat (stepImages s lim rows) ++ s.sched.values } }
    formRun p no false s

/-- STEP_FORMATION. -/
def execStepFormation (t : Nat) (play : Nat) (s : State) : Host.Outcome State Fault Refusal :=
  let s := s.at t
  match s.play? play with
  | none => .next s
  | some p =>
    if decide (p.kind = 2) && s.cue.running && s.cogState && !s.gov.stopped && !s.playHeld play then
      if s.stackRoom p then .next (formStep p s)
      else .next (if s.queued play = [] then s else logOnce p.part 0x0509 idImposer p.part s)
    else .next s

/-! ### Stagehands and their programs (R120, R266) -/

/-- The program of a stagehand of a press's part, where the run has one. -/
def Inst.prog (i : Inst) (p : Fin 16) (h : Fin 8) : Option (List Micro) :=
  ((i.units.findIdx? fun u => u = .press p).bind fun k => i.progs[k]?).bind fun l => l[h.1]?

/-- What a stagehand comes to next from a place of its program on: its own work passes by itself. -/
def nextMicro (prog : List Micro) (k : Nat) : Option (Nat × Micro) :=
  (prog.zipIdx.drop k).findSome? fun x => if x.1 = .own then none else some (x.2, x.1)

/-- What the stagehand of a run comes to next; none where its program has ended or the run has none. -/
def State.handNext (s : State) (i : Inst) (p : Fin 16) (h : Fin 8) : Option (Nat × Micro) :=
  (i.prog p h).bind fun l => nextMicro l ((s.press.get p).hands.get h).counter

/-- The stagehand's program has ended. -/
def State.handEnded (s : State) (i : Inst) (p : Fin 16) (h : Fin 8) : Bool := (i.prog p h).isSome && (s.handNext i p h).isNone

/-- A stagehand is ready: it waits for nothing, and its program goes on. -/
def State.handReady (s : State) (i : Inst) (p : Fin 16) (h : Fin 8) : Bool :=
  decide (((s.press.get p).hands.get h).wait = .none) && (s.handNext i p h).isSome

/-- The stagehand's turn: the one served last goes on while it is ready, and after it the next ready one in round-robin order. -/
def State.handTurn (s : State) (i : Inst) (p : Fin 16) (h : Fin 8) : Bool :=
  match (s.press.get p).served with
  | none => true
  | some q => (List.range 8).all fun k => decide ((h - q).1 ≤ k) || !s.handReady i p (q + Fin.ofNat 8 k)

/-- The sequencer may issue a micro-operation of a stagehand: the run on the press has it at that place of the stagehand's program, before which
no other is left, the stagehand does not wait, it is its turn, and nothing has issued in this cycle (R120) (DEDUCED, assumption 117). -/
def State.mayIssue (s : State) (p : Fin 16) (h : Fin 8) (idx : Nat) (m : Micro) : Bool :=
  let x := (s.press.get p).hands.get h
  decide (x.wait = .none) && decide (x.counter ≤ idx) && ((s.press.get p).served.isNone || decide ((s.press.get p).issuedAt < s.pressCycle)) &&
    (s.runOn p).all fun i => s.handTurn i p h && (i.prog p h).all fun l => decide (nextMicro l x.counter = some (idx, m))

/-- A stagehand has issued the micro-operation at an index of its program in a cycle. -/
def issued (cyc : Nat) (h : Fin 8) (idx : Nat) (p : Press) : Press :=
  { p with
    issuedAt := cyc, served := some h
    hands := vmod p.hands h fun x => { x with counter := idx + 1, wait := .none, got := [], since := cyc } }

/-- The stagehands of a run, each with its press. -/
def Inst.hands (i : Inst) : List (Fin 16 × Fin 8) := i.presses.flatMap fun p => (List.finRange 8).map fun h => (p, h)

/-- A stagehand's program still holds a scene barrier. -/
def State.barrierAhead (s : State) (i : Inst) (x : Fin 16 × Fin 8) : Bool :=
  (i.prog x.1 x.2).any fun l => (l.drop ((s.press.get x.1).hands.get x.2).counter).any fun m => decide (m = .barrier)

/-- A stagehand stands before a scene barrier. -/
def State.atBarrier (s : State) (i : Inst) (x : Fin 16 × Fin 8) : Bool := (s.handNext i x.1 x.2).any fun e => decide (e.2 = .barrier)

/-- Stagehands that come to the scene barrier wait; once every stagehand of the scene has reached it, they all go on (R120). -/
def meetBarrier (i : Inst) (s : State) : State :=
  let s := (i.hands.filter fun x => s.atBarrier i x && decide (((s.press.get x.1).hands.get x.2).wait = .none)).foldl
    (fun s x => waitHand x.1 x.2 .barrier s) s
  let due := i.hands.filter (s.barrierAhead i)
  if due.all (fun x => s.atBarrier i x) then
    due.foldl (fun s x => s.modPress x.1 fun r => { r with hands := vmod r.hands x.2 fun y =>
      { y with counter := ((s.handNext i x.1 x.2).map fun e => e.1 + 1).getD y.counter, wait := .none, since := s.pressCycle } }) s
  else s

/-! ### SCENE_ADMISSION (R44, R295, R296) -/

/-- A page entry of a run's buffer: writable by the run alone, the window limited to the buffers it holds (R228, R296). -/
def mapPage (part play page dev first last : Nat) (s : State) : State :=
  let (first, last) := match s.pte? play page with
    | some e => if pteWR e && decide (pteDev e = dev) then (min first (pteFirst e), max last (pteLast e)) else (first, last)
    | none => (first, last)
  setPte play page (mkPte true true part first last dev) s

/-- The device page that a buffer's page lies in. -/
def bufDevPage (b : BufReq) (g : Nat) : Nat := (b.dev + (max b.play (g * 2 ^ 21) - b.play)) / 2 ^ 21 * 2 ^ 21

/-- Map one buffer of a run. -/
def mapBuf (part play : Nat) (b : BufReq) (s : State) : State :=
  (bufPages b).foldl (fun s g =>
    let lo := max b.play (g * 2 ^ 21)
    let hi := min (b.play + b.len) ((g + 1) * 2 ^ 21)
    mapPage part play g (bufDevPage b g) ((lo % 2 ^ 21) / 64) (((hi - 1) % 2 ^ 21) / 64) s) s

/-! #### Where buffers may lie (R20, R183, R225, R226, R231, R235, R277, R296) -/

/-- A buffer that only the parts of its scene exchange (R183). -/
def State.isExchange (s : State) (play : Nat) (b : BufReq) : Bool :=
  s.isFresh play b && !(s.play? play).any fun p => decide (b.tensor < p.tensors.length)

/-- Bytes of a play's copy container. -/
def State.copyLen (s : State) (play : Nat) : Nat := ((findSection s.forme.sections 5 play).map Section.length).getD 0

/-- A galley page in service outside the system reserve, the galley cache, the batch ring and the copy containers. -/
def State.galleyPage (s : State) (d : Nat) : Bool :=
  (match region d with
   | .galley n => s.inServ (.sector n)
   | _ => false) && decide (galleyBase + 4 * 2 ^ 21 ≤ d) && !(s.mem.gpages.any fun e => decide (e.2 = d)) &&
    !(s.forme.ring.any fun a => decide (a / 2 ^ 21 * 2 ^ 21 ≤ d ∧ d < a + batchSize s.forme.streams)) &&
    !(s.forme.copies.any fun c => decide (c.2 / 2 ^ 21 * 2 ^ 21 ≤ d ∧ d < c.2 + s.copyLen c.1))

/-- A stack page in service. -/
def State.stackPage (s : State) (d : Nat) : Bool :=
  match region d with
  | .stack n => s.inServ (.stack n)
  | _ => false

/-- The region that a run's own buffer lies in: understudy memory, the galley for a safety scene or an exchange buffer, else galley or stack. -/
def State.regionOk (s : State) (i : Inst) (b : BufReq) : Bool :=
  if i.kind = 1 then decide (umemBase ≤ b.dev ∧ b.dev + b.len ≤ umemBase + 2 ^ 25)
  else (devPages b).all fun d => s.galleyPage d || (decide (2 ≤ i.kind) && !s.isExchange i.key.play b && s.stackPage d)

/-- Buffers that values and runs hold, and those of killed runs whose trackers have yet to free (R302). -/
def State.heldBufs (s : State) (f : Nat → Bool) : List BufReq :=
  (s.sched.values.filter fun v => f v.play).flatMap Value.bufs ++
    ((s.sched.insts.filter fun i => decide (i.st = .running) && f i.key.play).flatMap fun i => i.bufs.filter fun b => !s.isPool i.key.play b.tensor) ++
    s.dyingBufs f

def bufOverlaps (b c : BufReq) : Bool := decide (b.dev < c.dev + c.len ∧ c.dev < b.dev + b.len)

/-- A device page that nothing maps, drops or still answers for. -/
def State.pageUnused (s : State) (d : Nat) : Bool :=
  !(s.mem.l2.any fun e => pteV e.2 && decide (pteDev e.2 = d)) && !(s.mem.drops.any fun x => decide (x.dev = d)) &&
    !(s.mem.trackers.any fun t => t.killed && decide (t.dev / 2 ^ 21 * 2 ^ 21 = d))

/-- A re-run takes no page of its killed runs (R296, R302). -/
def State.pageFree (s : State) (i : Inst) (d : Nat) : Bool := s.pageUnused d && !(i.spent.any fun b => decide (d ∈ devPages b))

/-- The lowest unused page of the galley, or of the stack that a page lies in. -/
def State.freshPage (s : State) (dev : Nat) : Option Nat :=
  match region dev with
  | .galley _ => ((List.range 192).map fun k => galleyBase + k * 2 ^ 21).find? fun d => s.galleyPage d && s.pageUnused d
  | .stack n => ((List.range 24576).map fun k => stackBase n.1 + k * 2 ^ 21).find? fun d => s.stackPage d && s.pageUnused d
  | _ => none

/-- A page of a play that may be mapped anew: its level-1 entry is valid, nothing is mapped and no drop is pending. -/
def State.playPageFree (s : State) (play g : Nat) : Bool :=
  (s.mem.l1.any fun e => decide (e.1 = (play, g / 8192)) && l1Valid e.2) && !(s.pte? play g).any pteV &&
    !(s.mem.drops.any fun x => decide (x.play = play) && decide (x.page = g))

/-- The blocks of a page that a buffer touches. -/
def bufFirst (b : BufReq) (g : Nat) : Nat := max b.play (g * 2 ^ 21) % 2 ^ 21 / 64
def bufLast (b : BufReq) (g : Nat) : Nat := (min (b.play + b.len) ((g + 1) * 2 ^ 21) - 1) % 2 ^ 21 / 64

/-- An entry maps a page for readers at the device page of a buffer. -/
def readsAt (e : W128) (b : BufReq) (g : Nat) : Bool := pteV e && pteRD e && !pteWR e && decide (pteDev e = bufDevPage b g)

/-- The window of an entry holds the blocks of a buffer. -/
def windowHolds (e : W128) (b : BufReq) (g : Nat) : Bool := decide (pteFirst e ≤ bufFirst b g ∧ bufLast b g ≤ pteLast e)

/-- A running scene of a play maps a page for a buffer that it names. -/
def State.pageMapped (s : State) (play g : Nat) : Bool :=
  s.sched.insts.any fun j => decide (j.st = .running ∧ j.key.play = play) && j.bufs.any fun c => !s.isPool play c.tensor && decide (g ∈ bufPages c)

/-- An input's page stands readable at its place, its window as wide as the input needs or mapped by no admitted scene (R231). -/
def State.standsAt (s : State) (play : Nat) (b : BufReq) (g : Nat) : Bool :=
  (s.pte? play g).any fun e => readsAt e b g && (windowHolds e b g || !s.pageMapped play g)

/-- A fresh buffer lies in free pages of its own, and never where a killed run of the instance had one (R296). -/
def State.freshOk (s : State) (i : Inst) (b : BufReq) : Bool :=
  s.regionOk i b && (decide (i.kind = 1) || ((bufPages b).all fun g => s.playPageFree i.key.play g) && (devPages b).all fun d => s.pageFree i d) &&
    !((s.heldBufs fun _ => true).any fun c => bufOverlaps b c) && !(i.spent.any fun c => bufOverlaps b c)

/-- An input stands where its value does, in units in service; one that has yet to be placed takes free pages, or those of another scene of the
run. -/
def State.inputOk (s : State) (i : Inst) (b : BufReq) : Bool :=
  match s.inputHome i b.tensor with
  | [] => s.regionOk i b && (decide (i.kind = 1) || (bufPages b).all fun g => s.standsAt i.key.play b g ||
      (s.playPageFree i.key.play g && s.pageFree i (bufDevPage b g))) &&
      !(s.sched.insts.any fun j => decide (j.st = .running) && !(decide (j.key.play = i.key.play) && decide (j.key.run = i.key.run)) &&
        j.bufs.any fun c => !s.isPool j.key.play c.tensor && bufOverlaps b c)
  | hs => (hs.any fun h => decide (h.off ≤ b.off ∧ b.off + b.len ≤ h.off + h.len ∧ b.dev = h.dev + (b.off - h.off))) &&
      (devPages b).all (fun d => !s.pageLost d) &&
      (decide (i.kind = 1) || (bufPages b).all fun g => s.standsAt i.key.play b g || s.playPageFree i.key.play g)

/-! #### Quotas (R235, R264, R277, R282, R473) -/

/-- A play of a partition. -/
def State.partPlay (s : State) (part play : Nat) : Bool := (s.play? play).any fun p => decide (p.part = part)

def inGalley (d : Nat) : Bool :=
  match region d with
  | .galley _ => true
  | _ => false

/-- Galley pages that a partition's constants hold, and the safety partition's batch ring. -/
def State.galleyFixed (s : State) (part : Nat) : List Nat :=
  ((s.mem.l2.filter fun e => pteV e.2 && s.partPlay part e.1.1 && s.forme.consts.any fun c => decide (c.1 = e.1)).map fun e => pteDev e.2).filter inGalley ++
    (if (s.partCfg part).any fun c => decide (c.kind = 0) then s.forme.ring.flatMap fun a =>
      devPages { tensor := 0, off := 0, play := 0, dev := a, len := batchSize s.forme.streams } else [])

/-- What a partition still owes its links: two buffers for each, less those in which a value of the output stands. -/
def State.linkOwed (s : State) (part : Nat) (own : List BufReq) (play : Nat) : Nat :=
  ((s.forme.links.filter fun l => s.partPlay part l.producer).map fun l =>
    let size := ((((s.play? l.producer).bind fun p => p.tensors[l.ptensor]?).map Tensor.size).getD 0)
    let bufs := ((s.sched.values.filter fun v => decide (v.play = l.producer ∧ v.tensor = l.ptensor)).flatMap Value.bufs) ++
      own.filter fun b => decide (l.producer = play ∧ b.tensor = l.ptensor)
    2 * pagesOf size - (bufs.flatMap devPages).dedup.length).sum

/-- The fresh buffers of a run fit their partition: in its galley pages outside cache and leaf pages while they last, then in its stack quota, with
what its plays' leaves, its constants, the batches and its links take of both. -/
def State.quotaOk (s : State) (i : Inst) (own : List BufReq) : Bool :=
  match s.partCfg i.part with
  | none => false
  | some c =>
    let pages := ((s.heldBufs (s.partPlay i.part) ++ own).flatMap devPages ++ s.galleyFixed i.part).dedup
    let galley := (pages.filter inGalley).length
    let stack := (pages.filter fun d => !inGalley d).length + ((s.forme.plays.filter fun q => q.part = i.part).map fun q => q.low.leafNeed).sum
    let quota := c.galley - c.cache - c.leaf
    decide (i.kind = 1 ∨ own = []) || (decide (galley ≤ quota ∧ stack ≤ c.stack ∧ galley + stack + s.linkOwed i.part own i.key.play ≤ quota + c.stack) &&
      own.all fun b => (devPages b).all inGalley || decide (quota < galley + (devPages b).length))

/-! #### What a run's buffers hold (R183, R277, R296, R385) -/

/-- The bytes of a tensor that a stretch writes: all, or those of the rows of a divided node, where rows are whole bytes. -/
def Play.bytesOf (p : Play) (sp : Span) (t : Nat) : Nat × Nat × Bool :=
  match p.tensors[t]? with
  | none => (0, 0, true)
  | some k =>
    let d := k.dims.headD 1
    if sp.hi = 0 then (0, k.size, true)
    else if k.size % d = 0 ∧ isMx k.format = false then (k.size / d * sp.lo, k.size / d * sp.hi, true) else (0, k.size, false)

/-- Buffers hold the bytes of a tensor that an instance writes, each byte once and none that another run of the step or cue has written. -/
def State.holdsTensor (s : State) (p : Play) (k : InstKey) (own : List BufReq) (t : Nat) : Bool :=
  let mine := own.filter fun b => b.tensor = t
  let (lo, hi, whole) := p.bytesOf (p.spanOf k) t
  let others := ((s.sched.values.filter fun v => decide (v.play = p.index ∧ v.tensor = t ∧ v.run = k.run) && (v.rep == k.rep)).flatMap Value.bufs)
  mine.all (fun b => decide (lo ≤ b.off ∧ b.off + b.len ≤ hi) && others.all fun c => decide (b.off + b.len ≤ c.off ∨ c.off + c.len ≤ b.off)) &&
    decide (mine.Pairwise fun b c => b.off + b.len ≤ c.off ∨ c.off + c.len ≤ b.off) && decide (mine ≠ []) &&
    (!whole || decide ((mine.map BufReq.len).sum = hi - lo))

/-- A run's own buffers are those of the tensors that it writes and that outlive it, and exchange buffers for its bands. -/
def State.ownOk (s : State) (i : Inst) (own : List BufReq) : Bool :=
  match s.play? i.key.play with
  | none => own.isEmpty
  | some p =>
    let sp := p.spanOf i.key
    let exch := own.filter fun b => decide (p.tensors.length ≤ b.tensor)
    own.all (fun b => decide (p.tensors.length ≤ b.tensor) || p.leavesSpan sp b.tensor) &&
      (List.range p.tensors.length).all (fun t => !p.leavesSpan sp t || s.holdsTensor p i.key own t) &&
      decide ((exch.map BufReq.len).sum = ((s.bandsOf p i.key).map p.bandBytes).sum)

/-- A pool's home pages and frames lie in units in service. -/
def State.poolOk (s : State) (i : Inst) (b : BufReq) : Bool :=
  (s.forme.pools.any fun q => decide (q = { play := i.key.play, tensor := b.tensor, home := b.play, frames := b.dev })) &&
    (s.play? i.key.play).any fun p =>
      let home := (((p.tensors[b.tensor]?).map Tensor.size).getD 0 + 2 ^ 21 - 1) / 2 ^ 21
      let frames := leafFrames s.forme p
      let page := ((p.tensors[b.tensor]?).map fun t => (poolGeom t).page).getD 0
      (s.mem.l2.filter fun e => decide (e.1.1 = i.key.play) && pteV e.2 && s.pageLost (pteDev e.2)).all fun e =>
        !(decide (b.play / 2 ^ 21 ≤ e.1.2 ∧ e.1.2 < b.play / 2 ^ 21 + home)) &&
          !(decide (b.dev / 2 ^ 21 ≤ e.1.2 ∧ e.1.2 * 2 ^ 21 < b.dev + frames * page))

/-- The buffers that an admission names are ones that the imposer may give the run. -/
def State.placesOk (s : State) (i : Inst) (bufs : List BufReq) : Bool :=
  let own := bufs.filter fun b => s.isFresh i.key.play b
  own.all (fun b => decide (0 < b.len) && s.freshOk i b) && (bufs.filter fun b => s.isInput i.key.play b.tensor).all (fun b => s.inputOk i b) &&
    (bufs.filter fun b => s.isPool i.key.play b.tensor).all (fun b => s.poolOk i b) &&
    decide (own.Pairwise fun b c => bufOverlaps b c = false) && s.ownOk i own && s.quotaOk i own

/-- Pages of a partition in the galley now. -/
def State.galleyPages (s : State) (part : Nat) : Nat :=
  ((s.mem.l2.filter fun e => pteV e.2 && decide ((e.2.extractLsb' 8 3).toNat = part % 8) &&
    inGalley (pteDev e.2)).map fun e => pteDev e.2).dedup.length

/-- Buffers placed in the stacks because the galley pages were used up count as spills, with event 0x0507 once per cue (R277). -/
def countSpills (part : Nat) (bufs : List BufReq) (s : State) : State :=
  let spills := bufs.filter fun b => match region b.dev with
    | .stack _ => true
    | _ => false
  if spills = [] then s
  else
    let s := spills.foldl (fun s _ => s.modPart part (bump PartRt.spills (fun r v => { r with spills := v }) 5)) s
    logOnce part 0x0507 idImposer part s

/-- What a run will read (R155, R282, R295): of each tensor of the play, the value in force. -/
def State.readsOf (s : State) (p : Play) (i : Inst) : List (Nat × Nat × Nat) :=
  (List.range p.tensors.length).filterMap fun k => (s.inputValue i k).map fun v => (v.play, v.tensor, v.serial.toNat)

/-- An input stands where its value does, or is put where the admission names it, and is readable by the run (R295). -/
def placeInput (i : Inst) (b : BufReq) (s : State) : State :=
  let s := if s.inputHome i b.tensor = [] then devWrite b.dev (((padBytes (b.off + b.len) (s.inputBytes i b.tensor)).drop b.off).take b.len) s
    else s
  if i.kind = 1 then s
  else (bufPages b).foldl (fun s g =>
    let new := mkPte true false i.part
    match (s.pte? i.key.play g).filter fun e => readsAt e b g with
    | none => setPte i.key.play g (new (bufFirst b g) (bufLast b g) (bufDevPage b g)) s
    | some e =>
      if windowHolds e b g then s
      else setPte i.key.play g (new (min (bufFirst b g) (pteFirst e)) (max (bufLast b g) (pteLast e)) (bufDevPage b g))
        (startDrop i.key.play g (pteDev e) s)) s

/-- Where the galley holds the constants that an understudy scene's nodes name: device address and length, page by page. -/
def State.coreConsts (s : State) (p : Play) (k : InstKey) : List (Nat × Nat) :=
  ((((p.nodesIn (p.spanOf k)).flatMap Node.ins).dedup.filterMap fun t => p.tensors[t]?).filter fun c => c.kind = 3).flatMap fun c =>
    (s.forme.consts.filter fun e => decide (e.1.1 = p.index ∧ e.2.1 = c.source)).filterMap fun e =>
      let lo := max c.offset (e.2.2 * 2 ^ 21)
      let hi := min (c.offset + c.length) ((e.2.2 + 1) * 2 ^ 21)
      match s.pte? p.index e.1.2 with
      | none => none
      | some x => if lo < hi ∧ inGalley (pteDev x) = true then some (pteDev x + lo % 2 ^ 21, hi - lo) else none

/-- Galley blocks that a core reads for an understudy scene: those of its constants (R287) (DEDUCED, assumption 129). -/
def State.coreReads (s : State) (p : Play) (k : InstKey) : Nat := ((s.coreConsts p k).map fun e => (e.2 + 63) / 64).sum

/-- The first poisoned block that an understudy scene's constants lie in. -/
def State.coreLost (s : State) (k : InstKey) : Option Nat :=
  (s.play? k.play).bind fun p => s.mem.poison.find? fun a => (s.coreConsts p k).any fun e => decide (e.1 < a + 64 ∧ a < e.1 + e.2)

/-- A run starts on its units: what it reads is recorded, a re-run of a step's scene keeping the cue of its first run, its inputs stand in place and its buffers are mapped; the cores' results stand in
a buffer from the start, unread before the run commits (R319), and a poisoned block of their constants ends it (R257). -/
def startRun (i : Inst) (us : List UnitId) (bufs : List BufReq) (s : State) : State :=
  let reads := match s.play? i.key.play with
    | some p => s.readsOf p i
    | none => []
  let frames := (s.cog.dir.filter fun e => decide (e.1 = i.key.play)).map fun e => (e.2.1, entryFrame e.2.2)
  let again := decide (i.kind = 2) && i.wasKilled
  let cost := match (if i.key.rep then s.play? i.key.play else none) with
    | some p => s.cost p i.key
    | none => { budget := i.budget, iso := i.iso, splits := i.splits, progs := i.progs }
  let blocks := match (if i.kind = 1 then s.play? i.key.play else none) with
    | some p => s.coreReads p i.key
    | none => 0
  let s := s.modInst i.key fun i => { i with
    budget := cost.budget, iso := cost.iso, splits := cost.splits, progs := cost.progs, st := .running, units := us, partsDone := [], at_ := s.now
    cue := if again then i.cue else s.cue.count.toNat, batch := ((s.batchOf i).map Batch.cue).getD 0, wrote := [], bufs := bufs, reads := reads, frames := frames, refused := false, xfers := [], coreBlocks := blocks }
  let s := us.zipIdx.foldl (fun s u => match u.1 with
    | .press p => setSplit p (cost.splits.getD u.2 8192) (s.modPress p (Press.flush s.pressCycle))
    | _ => s) s
  let s := match s.inst? i.key with
    | some i => meetBarrier i s
    | none => s
  let own := bufs.filter fun b => s.isFresh i.key.play b
  let s := (bufs.filter fun b => s.isInput i.key.play b.tensor).foldl (fun s b => placeInput i b s) s
  let s := if i.kind = 1 then coreWrite i own s else own.foldl (fun s b => mapBuf i.part i.key.play b s) s
  let s := countSpills i.part own s
  let s := if i.kind = 0 ∧ i.key.rep = false then us.foldl (fun s u => match u with
    | .press p => lockPages i.key.play p s
    | _ => s) s else s
  let s := s.modPart i.part fun r => { r with pages := max r.pages (s.galleyPages i.part) }
  match (if i.kind = 1 then s.coreLost i.key else none) with
  | some a => poisonRead (holderId a) a i.key s
  | none => s

/-- The fine scenes of a coarse instance (R269). -/
def fineInsts (s : State) (p : Play) (i : Inst) : List Inst :=
  match p.low.scenes[i.key.scene]? with
  | none => []
  | some r => (List.range r.fine.length).map fun j =>
      newInst s p { i.key with scene := fineBase p.low.scenes i.key.scene + j, fine := true } (if j = 0 then .ready else .waiting) i.ord

/-- R44 failed on every admissible set of presses: counted once per wait (PART_REFUSED, R291) (DEDUCED, assumption 41). -/
def countRefused (i : Inst) (s : State) : State :=
  if i.refused then s
  else (s.modInst i.key fun i => { i with refused := true }).modPart i.part (bump PartRt.refused (fun r v => { r with refused := v }) 3)

/-- A classification's plans are fixed when its first repeat of a channel is admitted (R340). -/
def fixPlans (i : Inst) (s : State) : State :=
  if !i.key.rep then s
  else { s with cls := lmod (fun c => c.cue = i.key.run) (fun c => { c with
      perPlan := if i.kind = 0 then some (c.perPlan.getD s.safetyPresses) else c.perPlan
      undPlan := if i.kind = 0 then some (c.undPlan.getD s.cores) else c.undPlan }) s.cls }

/-- Admission of one scene instance. -/
def admitScene (k : InstKey) (bufs : List BufReq) (s : State) : State :=
  match s.inst? k with
  | none => s
  | some i =>
    match pick s i with
    | (some us, _) =>
      if s.outranked i us || !s.placesOk i bufs then s else startRun i us bufs (fixPlans i s)
    | (none, false) => s
    | (none, true) =>
      let s := countRefused i s
      match s.play? k.play with
      | none => s
      | some p =>
        match (if k.fine ∨ k.rep = true ∨ i.kind = kindMove then [] else fineInsts s p i) with
        | [] => s
        | f :: fs =>
          let s' := { s with sched := { s.sched with insts := s.sched.insts.flatMap fun j => if j.key = k then f :: fs else [j] } }
          match (pick s' f).1 with
          | some us => if s'.outranked f us || !s'.placesOk f bufs then s else startRun f us bufs s'
          | none => s

/-- A READY instance that R45 puts ahead of a rehearsal slice fits on the unit: a repeat always, any other unless the unit is behind with
its rehearsal. -/
def State.sliceYields (s : State) (v : UnitId) : Bool :=
  s.sched.insts.any fun j => (j.key.rep || !s.unitBehind v) && (match (pick s j).1 with
    | some vs => decide (v ∈ vs)
    | none => false)

/-- A unit rehearses in LOADING, where no cue runs (R407). -/
def State.loadSlice (s : State) (u : RehUnit) : Bool :=
  decide (s.dev.st = .loading) && !(s.sched.slices.any fun x => decide (x.unit = u)) &&
    (match u with
     | .unit v => s.inServ v || decide ((s.unit v).checks.head? = some .rehearsal)
     | _ => true)

/-- A rehearsal slice may start (R45, R48, R345, R362, R368, R407, R471). -/
def State.sliceOk (s : State) (u : RehUnit) : Bool :=
  s.loadSlice u || s.cue.running && !s.dev.faultN && !(s.sched.slices.any fun x => decide (x.unit = u)) &&
    (match u with
     | .unit v =>
       let r := s.unit v
       let gap := fun (ws : List (Nat × Nat)) (res : Nat) =>
         (nextWindow ws (us s.lminUs) s.off).isSome || decide (us (s.lminUs - res) ≤ s.off)
       if r.mode = .reRigging then decide (r.checks.head? = some .rehearsal)
       else if !s.inServ v then false
       else match v with
         | .press p => s.noRun v && gap (s.pressWindows p) s.forme.rehPress && !s.sliceYields v
         | .core _ => s.noRun v && gap s.coreWindows s.forme.rehCore && !s.sliceYields v
         | .umem => decide (us (s.lminUs - s.forme.rehCore) ≤ s.off ∧ s.off < us s.lminUs)
         | .sector _ => decide (us (s.lminUs - s.forme.rehPress) ≤ s.off)
         | .stack _ => decide (us (s.lminUs - s.forme.rehPress) ≤ s.off)
         | .port _ => true
     | _ => true)

/-- A press's slice clears the storage that it tests: case, side bytes, tags, translation cache, accumulator file, and no trace record; which
slice tests which of it the spec does not say, and each clears it all (R364; DESIGN CHOICE, assumption 139). -/
def clearTested (u : RehUnit) (s : State) : State :=
  match u with
  | .unit (.press p) =>
    { s with
      press := vmod s.press p fun x => { Press.atReset with
        trace := x.trace, traced := x.traced, last := x.last, issuedAt := x.issuedAt, served := x.served, hands := x.hands }
      mem := { s.mem with
        cells := s.mem.cells.filter fun c => decide (region c.1 ≠ .case p)
        poison := s.mem.poison.filter fun a => decide (region a ≠ .case p)
        blocks := s.mem.blocks.filter fun e => e.1 != p
        tcache := s.mem.tcache.filter fun e => e.1 != p } }
  | _ => s

def admitSlice (u : RehUnit) (s : State) : State :=
  if s.sliceOk u then
    let s := clearTested u s
    { s with sched := { s.sched with slices := s.sched.slices ++ [{ unit := u, suspending := false, at_ := s.now }] } }
  else s

/-- The cores' fault shows in the results of a run that the admission has started (R318). -/
def coreFault (k : InstKey) (flips : List (Nat × Byte)) (s : State) : State :=
  match s.inst? k with
  | some i =>
    if i.kind = 1 ∧ i.st = .running then
      flips.foldl (fun s e => if (s.ownBufs i).any fun b => decide (b.dev ≤ e.1 ∧ e.1 < b.dev + b.len) then
        devWrite e.1 [cellRead s.mem.cells e.1 ^^^ e.2] s else s) s
    else s
  | none => s

/-- SCENE_ADMISSION: killed scenes are READY anew and displaced ones placed before the stage manager chooses. -/
def execSceneAdmission (t : Nat) (r : AdmitReq) (s : State) : Host.Outcome State Fault Refusal :=
  let s := placeDisplaced (reRun (s.at t))
  match r with
  | .scene k bufs => .next (admitScene k bufs s)
  | .faulty k bufs flips =>
    .next (if (s.inst? k).any fun i => decide (i.st ≠ .running) then coreFault k flips (admitScene k bufs s) else s)
  | .slice u => .next (admitSlice u s)

/-! ### PART_COMMIT_REQUEST (R298) -/

/-- Every micro-operation that a press's part has issued has retired: nothing is queued, fed, repeated, left in a group or waiting, and 4 cycles
have passed since the last row's verdict and the last other micro-operation. -/
def Press.retired (p : Press) (cyc : Nat) : Bool :=
  p.queue.isEmpty && p.cur.isNone && p.rep.isNone && p.comps.toList.all (fun c => c.isNone) && p.groups.isEmpty &&
    p.hands.toList.all (fun h => decide (h.wait = .none)) && (decide (p.nextRow = 0) || decide (p.nextRow + 9 ≤ cyc)) &&
    (decide (p.last = 0) || decide (p.last + 4 ≤ cyc))

/-- A part's unit has no work left: its stagehands' programs have ended, what they issued has retired, and every block that it wrote is
acknowledged. -/
def State.partRetired (s : State) (i : Inst) (part : Nat) : Bool :=
  match i.units[part]? with
  | some (.press p) => (s.press.get p).retired s.pressCycle && (List.finRange 8).all (fun h => (i.prog p h).isNone || s.handEnded i p h) &&
      (List.finRange 3).all fun u => !s.moving p u
  | some _ => true
  | none => false

def execPartCommitRequest (t : Nat) (k : InstKey) (part : Nat) (errs : List MemErr) (s : State) : Host.Outcome State Fault Refusal :=
  let s := s.at t
  match s.inst? k with
  | none => .next s
  | some i =>
    if decide (i.st = .running) && s.partRetired i part && decide (part ∉ i.partsDone) then
      let s := memErrs errs (some k) s
      .next (s.modInst k fun i => if i.st = .running then { i with partsDone := part :: i.partsDone } else i)
    else .next s

/-! ### SCENE_COMMIT (R299, R300) -/

/-- Bytes written over an image from an offset on. -/
def splice (old new : List Byte) (off : Nat) : List Byte :=
  padBytes off (old.take off) ++ new ++ old.drop (off + new.length)

/-- One buffer's bytes become part of the committed value of its tensor. -/
def commitBuf (i : Inst) (serial : W32) (b : BufReq) (s : State) : State :=
  let bytes := cellsRead s.mem.cells b.dev b.len
  let same := fun (v : Value) => decide (v.play = i.key.play) && decide (v.tensor = b.tensor) && decide (v.run = i.key.run) && (v.rep == i.key.rep)
  let old := s.sched.values.find? same
  let v : Value :=
    { play := i.key.play, tensor := b.tensor, run := i.key.run, serial := serial, cue := s.cue.count.toNat, valid := i.key.rep || !(s.cue.invalid && s.safetyOut i.key.play b.tensor)
      rep := i.key.rep, whole := false, bufs := b :: ((old.map Value.bufs).getD []), bytes := splice ((old.map Value.bytes).getD []) bytes b.off }
  { s with sched := { s.sched with values := v :: s.sched.values.filter fun v => !same v } }

/-- The values of a run that every scene writing them has committed are whole (R155, R282). -/
def markWhole (p : Play) (i : Inst) (s : State) : State :=
  let mine := s.sched.insts.filter fun j => decide (j.key.play = p.index) && decide (j.key.run = i.key.run) && (j.key.rep == i.key.rep) &&
    decide (j.kind ≠ kindMove)
  let due := fun (v : Value) => decide (v.play = p.index) && decide (v.run = i.key.run) && (v.rep == i.key.rep) &&
    mine.all fun j => decide (j.st = .committed) || !p.sceneWrites j.key v.tensor
  { s with sched := { s.sched with values := lmod (fun v => due v) (fun v => { v with whole := true }) s.sched.values } }

/-- A committed buffer's pages are readable and no longer writable (R231). -/
def remapBuf (play : Nat) (b : BufReq) (s : State) : State :=
  (bufPages b).foldl (fun s g => match s.pte? play g with
    | some e => setPte play g (mkPte true false (e.extractLsb' 8 3).toNat (pteFirst e) (pteLast e) (pteDev e)) (startDrop play g (pteDev e) s)
    | none => s) s

/-! #### Leaf pages (R196, R250, R384) -/

/-- A play address lies in a leaf's page. -/
def inPage (base page a : Nat) : Bool := decide (base ≤ a ∧ a < base + page)

/-- A row of a step writes a block of a pool: of a leaf that it reserved, or a slot at or beyond the committed length of the leaf that it appends
to in place (R214 to R216, R296). -/
def rowWrites (i : Inst) (b : BufReq) (g : PoolGeom) (r : Row) (a : Nat) : Bool :=
  (r.reserved.any fun n => inPage (leafAddr i b g n) g.page a) ||
    (r.copySrc.isNone && !r.dropped && decide (r.start % 16 ≠ 0) && (match r.map[r.start / 16]? with
      | some n => inPage (leafAddr i b g n) g.page a && decide (r.start % 16 ≤ (a + 63 - leafAddr i b g n) / (g.d * g.w) % 16)
      | none => false))

/-- What a run may write at a play address: its own buffers, the pages of its step's rows, or the frames of the leaf that it moves (R250, R296)
(DEDUCED, assumption 130). -/
def State.mayWrite (s : State) (i : Inst) (a : Nat) : Bool :=
  (s.ownBufs i).any (fun b => decide (b.play / 64 * 64 ≤ a ∧ a < b.play + b.len)) ||
    (i.bufs.filter fun b => s.isPool i.key.play b.tensor).any fun b =>
      match (s.play? i.key.play).bind fun p => p.tensors[b.tensor]? with
      | none => false
      | some t =>
        let g := poolGeom t
        if i.kind = kindMove then
          (match s.move? i with
           | some (_, leaf, f) => inPage (b.play + leaf * g.page) g.page a || f.any fun f => inPage (b.dev + f * g.page) g.page a
           | none => false)
        else (s.cog.steps.find? fun st => st.play = i.key.play ∧ st.no = i.key.run).any fun st => st.rows.any fun r => rowWrites i b g r a

/-- A block that a buffer of the play holds bytes of. -/
def bufHas (a : Nat) (b : BufReq) : Bool := decide (b.play / 64 * 64 ≤ a ∧ a < b.play + b.len)

/-- What a run may read at a play address: not the buffers of another run, nor a value of the play that its admission has not recorded (R295,
R296). -/
def State.mayRead (s : State) (i : Inst) (a : Nat) : Bool :=
  !(s.sched.insts.any fun j => decide (j.st = .running) && decide (j.key ≠ i.key) && decide (j.key.play = i.key.play) && (s.ownBufs j).any (bufHas a)) &&
    (s.sched.values.filter fun v => decide (v.play = i.key.play) && v.bufs.any (bufHas a)).all fun v =>
      decide ((v.play, v.tensor, v.serial.toNat) ∈ i.reads)

/-- The first failure among the blocks of a run's access; a read or write beyond what the run may touch fails as one without permission. -/
def State.runFaults (s : State) (i : Inst) (write : Bool) (bs : List Nat) : Option Nat :=
  match s.accessFaults i.key.play write bs with
  | some d => some d
  | none => if !bs.all (if write then s.mayWrite i else s.mayRead i) then some 1 else none

/-- Keys, then values, of one slot of a leaf's page. -/
def State.slotBytes (s : State) (i : Inst) (b : BufReq) (g : PoolGeom) (leaf slot : Nat) : List Byte :=
  (List.range 2).flatMap fun kv => (List.range g.heads).flatMap fun h =>
    s.playBytes i.key.play (leafAddr i b g leaf + ((kv * g.heads + h) * 16 + slot) * g.d * g.w) (g.d * g.w)

/-- The digest of the positions that a run wrote in one pool, each once (R384, R385). -/
def leafDigest (s : State) (i : Inst) (st : Step) (pmax : Nat) (b : BufReq) (g : PoolGeom) : W64 :=
  ((i.wrote.dedup.filter fun w => w.1 = b.tensor).map fun (_, r, p) =>
    match st.rows[r]? with
    | none => 0
    | some row =>
      let bytes := s.slotBytes i b g (row.map.getD (p / 16) 0) (p % 16)
      digestFrom (0x10000 + g.ordinal) ((r * pmax + p) * (g.heads * g.d * g.w / 4)) (words64 ((bytes.length + 7) / 8) bytes)).sum

/-- D_scene and D_play of a run (R385); a leaf move has no row of a length table (R384). -/
def runDigests (s : State) (p : Play) (i : Inst) : W64 × W64 :=
  let st := s.cog.steps.find? fun st => st.play = i.key.play ∧ st.no = i.key.run
  let parts := (if i.kind = kindMove then [] else i.bufs.filter fun b => !s.isInput p.index b.tensor).map fun b =>
    match p.tensors[b.tensor]?, st with
    | none, _ => (0, 0)
    | some t, some st =>
      if t.kind = 6 then
        let d := leafDigest s i st (s.limits p.index).pmax b (poolGeom t)
        (d, d)
      else
        let bytes := cellsRead s.mem.cells b.dev b.len
        let d := digestFrom b.tensor (b.off / 8) (words64 ((bytes.length + 7) / 8) bytes)
        (d, if t.kind = 2 ∨ t.kind = 5 then d else 0)
    | some t, none =>
      let bytes := cellsRead s.mem.cells b.dev b.len
      let d := digestFrom b.tensor (b.off / 8) (words64 ((bytes.length + 7) / 8) bytes)
      (d, if t.kind = 2 ∨ t.kind = 5 then d else 0)
  ((parts.map Prod.fst).sum, (parts.map Prod.snd).sum)

/-- The scene record of a commit (R390). -/
def digRecord (i : Inst) (serial : W32) (s : State) : State :=
  { s with sched := { s.sched with
      digHead := serial
      digRing := ({ serial := serial, run := BitVec.ofNat 32 i.key.run, dScene := i.dScene, dPlay := i.dPlay, play := i.key.play
                    flags := bit i.key.rep 0 + bit i.wasKilled 1, scene := i.key.scene, unit := i.firstId } :: s.sched.digRing).take 512 } }

/-! #### Producers -/

/-- A coarse range of a run has committed, in one form or the other. -/
def State.rangeDone (s : State) (p : Play) (run : Nat) (rep : Bool) (i : Nat) : Bool :=
  let mine := s.sched.insts.filter fun j => decide (j.key.play = p.index) && decide (j.key.run = run) && (j.key.rep == rep) &&
    decide (j.kind ≠ kindMove) && decide (coarseIdx p j.key = i)
  !mine.isEmpty && mine.all fun j => decide (j.st = .committed)

/-- Every producer of a waiting instance has committed. -/
def State.producersDone (s : State) (p : Play) (j : Inst) : Bool :=
  let c := coarseIdx p j.key
  if j.key.fine then
    s.sched.insts.any fun x => decide (x.key = { j.key with scene := j.key.scene - 1 }) && decide (x.st = .committed)
  else
    match p.low.scenes[c]? with
    | some r => r.producers.all fun q => s.rangeDone p j.key.run j.key.rep q
    | none => false

/-- WAITING instances of a run whose last producer committed become READY (R299). -/
def wake (p : Play) (run : Nat) (rep : Bool) (s : State) : State :=
  (s.sched.insts.filter fun j => decide (j.st = .waiting) && decide (j.key.play = p.index) && decide (j.key.run = run) && (j.key.rep == rep)).foldl
    (fun t j => if s.producersDone p j then
        let u := t.modInst j.key fun j => { j with st := .ready, ord := t.sched.ord }
        { u with sched := { u.sched with ord := u.sched.ord + 1 } }
      else t) s

/-! #### Tokens (R213, R217, R222, R440) -/

/-- One delivered entry of a RESULT message. -/
structure Entry16 where
  handle : W32
  pos : Nat
  token : W32
  status : Nat
  fin : Nat
deriving DecidableEq, Repr

def Entry16.bytes (e : Entry16) : List Byte :=
  natLe 4 e.handle.toNat ++ natLe 4 e.pos ++ natLe 4 e.token.toNat ++ natLe 1 e.status ++ natLe 1 e.fin ++ [0, 0]

/-- The RESULT payload (R440). -/
def resultPayload (serial pos : W32) (no : Nat) (es : List Entry16) : List Byte :=
  natLe 4 serial.toNat ++ natLe 4 pos.toNat ++ natLe 8 no ++ natLe 2 es.length ++ List.replicate 6 0 ++ es.flatMap Entry16.bytes

/-- How a delivered token ends the session's decoding: 3 context full, 1 stop token, 2 maximum new tokens (R439, R440; DESIGN CHOICE,
assumption 24). -/
def tokenEnd (x : Session) (pos pmax : Nat) (tok : W32) : Nat :=
  if pmax ≤ pos then 3 else if tok ∈ x.stops then 1 else if x.maxNew ≠ 0 ∧ x.maxNew ≤ x.drawn + 1 then 2 else 0

/-- A surviving row's token is delivered and the session goes on, ends decoding or is full (DEDUCED, assumption 43). -/
def deliver (r : Row) (x : Session) (tok : W32) (none? : Bool) (s : State) : Entry16 × State :=
  let pos := r.start + r.count
  let tok := if none? then 0 else tok
  let fin := tokenEnd x pos (s.limits x.play).pmax tok
  let s := if none? then logEvent 0x0C08 idStage (x.slot % 256) s else s
  let s := if fin = 3 then logEvent 0x0C06 idStage (x.slot % 256) s else s
  let s := modSession x.slot (fun x => { x with drawn := x.drawn + 1, lastDraw := some pos, full := x.full || decide (fin = 3) }) s
  let s :=
    if fin = 3 then modSession x.slot (fun x => { x with st := .idle, prompt := none, decoding := none, held := [] }) s
    else if fin ≠ 0 then toIdle x.slot s
    else ready x.slot (modSession x.slot (fun x => { x with decoding := some tok }) s)
  ({ handle := r.handle, pos := pos, token := tok, status := if fin = 3 then 2 else if none? then 1 else 0, fin := fin }, s)

/-- A surviving row's prompt is consumed (R217, R439). -/
def consume (r : Row) (x : Session) : Session :=
  match x.decoding, x.prompt with
  | some _, _ => { x with decoding := none }
  | none, some i =>
    let rest := { i with tokens := i.tokens.drop r.count
                         extra := (i.extra.zip r.extra).map fun e => e.1.drop e.2.length }
    { x with prompt := if rest.tokens = [] then none else some rest }
  | none, none => x

/-- The leaves a surviving row names become its session's list (R217). -/
def rowLeaves (play : Nat) (r : Row) (s : State) : State :=
  let s := r.reserved.foldl (fun s n => setLeaf (Leaf.new play n .live 1) s) s
  match r.copySrc with
  | some n => decLeaf play n s
  | none => s

/-- A session that has reached Pmax positions without a draw takes no further step, as one that drew there (R213; DESIGN CHOICE, assumption 134). -/
def fillSession (slot : Nat) (s : State) : State :=
  logEvent 0x0C06 idStage (slot % 256) (modSession slot (fun x => { x with
    st := .idle, prompt := none, decoding := none, held := [], full := true }) s)

/-- Commit one row under the token scene's serial; the entry it delivers. -/
def commitRow (play : Nat) (tok : W32) (none? : Bool) (r : Row) (s : State) : Option Entry16 × State :=
  match (if r.dropped then none else s.session? r.handle) with
  | none => (none, s)
  | some x =>
    let s := rowLeaves play r s
    let x' := consume r { x with leaves := r.map, committed := r.start + r.count }
    let s := setSession x' s
    if r.draws then
      let (e, s) := deliver r x' tok none? s
      (some e, s)
    else if (s.limits x.play).pmax ≤ x'.committed then (none, fillSession x.slot s)
    else if x'.prompt.isSome then (none, ready x.slot s)
    else (none, toIdle x.slot s)

def commitRows (play : Nat) (toks : List W32) (stats : List Byte) : Nat → List Row → State → List Entry16 × State
  | _, [], s => ([], s)
  | k, r :: rs, s =>
    let (e, s) := commitRow play (toks.getD k 0) (decide (stats.getD k 0 = 1)) r s
    let (es, s) := commitRows play toks stats (k + 1) rs s
    (e.toList ++ es, s)

/-- Indices of a play's kind-2 tensors. -/
def outTensors (p : Play) : List Nat :=
  (List.range p.tensors.length).filter fun i => decide (((p.tensors[i]?).map Tensor.kind) = some 2)

/-- TOKEN_DELIVERY: the token scene's commit applies R217 to every surviving row and queues the RESULT. -/
def deliverTokens (p : Play) (no : Nat) (serial pos : W32) (s : State) : State :=
  match s.cog.steps.find? fun st => st.play = p.index ∧ st.no = no with
  | none => s
  | some st =>
    let img := fun i => match (outTensors p)[i]? with
      | some t => ((s.value? p.index t fun v => decide (v.run = no)).map Value.bytes).getD []
      | none => []
    let toks := f32list (img 0) 0 st.rows.length
    let (es, s) := commitRows p.index toks (img 1) 0 st.rows s
    let s := modStep p.index no (fun st => { st with tokensDone := true }) s
    let s := if es = [] then s else originate 0x4001 (resultPayload serial pos no es) s
    st.rows.foldl (fun s r => match (if r.dropped then none else s.session? r.handle) with
      | some x => if x.full && x.release then closeSession x s else s
      | none => s) s

/-- A step's last commit: dropped rows' leaves return to FREE, heat counts, DIG_PLAY takes the run's digest (R198, R211, R278, R389). -/
def finishStep (p : Play) (no : Nat) (s : State) : State :=
  match s.cog.steps.find? fun st => st.play = p.index ∧ st.no = no with
  | none => s
  | some st =>
    if (s.stepInsts st).all fun i => decide (i.st = .committed) then
      let s := freeReserved p.index (st.rows.flatMap Row.reserved) s
      let heat := st.rows.flatMap fun r => r.map.map fun n => (p.index, n, s.cue.count.toNat)
      let s := { s with cog := { s.cog with heat := heat ++ s.cog.heat } }
      let s := setDigPlay p.index
        { digest := s.runDigest p.index no, run := BitVec.ofNat 32 no, complete := true, invalid := false } s
      forgetStep st s
    else settleStep p.index no s

/-! #### Statistics -/

/-- A committed scene's share of the slowdown (R283) and of the presses' own (R286). -/
def countCommit (i : Inst) (s : State) : State :=
  let cyc := runCycles s i
  let n := i.units.length
  let s := s.modPart i.part (bump PartRt.commits (fun r v => { r with commits := v }) 1)
  s.modPart i.part fun r => { r with
    measured := r.measured + cyc * n, estimate := r.estimate + i.iso.sum
    pressSlow := (i.presses.zip i.iso).foldl (fun l q =>
      let e := ((l.find? fun e => e.1 = q.1).map Prod.snd).getD (0, 0)
      (q.1, e.1 + cyc, e.2 + q.2) :: l.filter fun e => e.1 != q.1) r.pressSlow }

/-! #### Leaf moves (R250) -/

/-- XFERs of the run copied a page, block by block. -/
def copiedPage (xs : List (Nat × Nat × Nat)) (src dst page : Nat) : Bool :=
  (List.range ((page + 63) / 64)).all fun k => xs.any fun x =>
    decide (x.1 ≤ src + 64 * k ∧ src + 64 * k < x.1 + 64 * x.2.2 ∧ x.2.1 + (src + 64 * k - x.1) = dst + 64 * k)

/-- The XFERs of a leaf move are done: every pool's page is copied, or the leaf leaves the galley unwritten (R250). -/
def State.moveDone (s : State) (i : Inst) : Bool :=
  match s.move? i, s.play? i.key.play with
  | some (play, leaf, frame), some p =>
    (frame.isNone && decide ((play, leaf) ∉ s.cog.dirty)) ||
      (List.range p.tensors.length).all fun k => match p.tensors[k]? with
        | none => true
        | some t => decide (t.kind ≠ 6) || i.bufs.any fun b => decide (b.tensor = k) &&
          (let pg := (poolGeom t).page
           match frame, i.frames.find? fun e => e.1 = leaf with
           | some f, _ => copiedPage i.xfers (b.play + leaf * pg) (b.dev + f * pg) pg
           | none, some e => copiedPage i.xfers (b.dev + e.2 * pg) (b.play + leaf * pg) pg
           | none, none => false)
  | _, _ => false

/-- A committed leaf move sets or clears the directory entry (R250). -/
def commitMove (i : Inst) (s : State) : State :=
  match s.move? i with
  | none => s
  | some (play, leaf, frame) =>
    let dir := s.cog.dir.filter fun e => !(decide (e.1 = play) && decide (e.2.1 = leaf))
    let s := { s with cog := { s.cog with
      dirty := s.cog.dirty.filter fun e => e != (play, leaf)
      dir := match frame with
        | some f => (play, leaf, galleyEntry f) :: dir
        | none => dir } }
    s.modPart i.part (bump PartRt.leafMoves (fun r v => { r with leafMoves := v }) 6)

/-- The commit of a scene whose every part has asked for it. -/
def commitScene (i : Inst) (s : State) : State :=
  match s.play? i.key.play with
  | none => s
  | some p =>
    let serial := s.sched.serial + 1
    let pos := s.log.head
    let s := { s with arb := s.arb.commit, sched := { s.sched with serial := serial } }
    let (ds, dp) := runDigests s p i
    let i' := { i with dScene := ds, dPlay := dp, serial := serial }
    let s := countCommit i (chargeRun i s)
    let own := (s.ownBufs i).filter fun b => decide (b.tensor < p.tensors.length)
    let exch := (s.ownBufs i).filter fun b => decide (p.tensors.length ≤ b.tensor)
    let s := own.foldl (fun s b => remapBuf p.index b (commitBuf i serial b s)) s
    let s := unmapInputs i ((exch.flatMap bufPages).foldl (fun s g => unmapPage p.index g s) s)
    let s := dropRequests i.presses s
    let s := i.presses.foldl (fun s q => s.modPress q (Press.flush s.pressCycle)) s
    let s := s.modInst i.key fun j => { j with
      st := .committed, dScene := ds, dPlay := dp, serial := serial, bufs := [], cue := s.cue.count.toNat }
    let s := digRecord i' serial (markWhole p i s)
    if i.kind = kindMove then commitMove i s
    else
      let s := wake p i.key.run i.key.rep s
      if i.kind = 2 then
        let s := if writesTokens p i.key then deliverTokens p i.key.run serial pos s else s
        finishStep p i.key.run s
      else s

/-- Every part of a running scene has raised its commit request (R298). -/
def Inst.asked (i : Inst) : Bool :=
  decide (i.st = .running) && (List.range i.units.length).all fun k => decide (k ∈ i.partsDone)

/-- SCENE_COMMIT. -/
def execSceneCommit (t : Nat) (k : InstKey) (s : State) : Host.Outcome State Fault Refusal :=
  let s := s.at t
  match s.inst? k with
  | none => .next s
  | some i => .next (if i.asked && (decide (i.kind ≠ kindMove) || s.moveDone i) then commitScene i s else s)

/-! ### Blocked plays, scene faults, the watchdog (R356, R358) -/

/-- A play is blocked until RESET: event 0x0814, and no further scene of it is admitted; its sessions stay QUEUED with their leaves; a perception
or understudy play is a device-level fault. -/
def blockPlay (play : Nat) (s : State) : State :=
  if play ∈ s.sched.blocked then s
  else
    let s := logEvent 0x0814 idImposer play { s with sched := { s.sched with blocked := play :: s.sched.blocked } }
    let s := (s.cog.steps.filter fun st => decide (st.play = play)).foldl (fun s st => requeueRows st s) s
    if ((s.play? play).map Play.kind).getD 2 ≤ 1 then deviceFault 4 idImposer s else s

/-- An illegal micro-operation or translation fault ends a run on a press: the first goes elsewhere, the second at the same index
lowers the scene again, the third blocks the play (R106, R229, R358). -/
def sceneFault (cause : Nat) (p : Fin 16) (idx : Nat) (i : Inst) (s : State) : State :=
  let n := match i.faultIdx with
    | some (j, n) => if j = idx then n + 1 else 1
    | none => 1
  let s := killInst cause i.key s
  let s := s.modInst i.key fun i => { i with faultIdx := some (idx, n), avoid := [p], relower := decide (n = 2) }
  if n = 2 then logEvent 0x0813 idImposer i.key.play s
  else if 3 ≤ n then blockPlay i.key.play s
  else s

/-- A play's copy container as the galley holds it: its CRC fits and none of its blocks is poisoned (R149, R358). -/
def State.copySound (s : State) (play : Nat) : Bool :=
  match s.forme.copies.find? fun c => c.1 = play with
  | none => true
  | some c =>
    let n := s.copyLen play
    !(s.mem.poison.any fun a => decide (c.2 < a + 64 ∧ a < c.2 + n)) && copyHeaderOk (s.devRead c.2 n)

/-- The pages of a play's container are read again from the forme unit and checked against what LOADING recorded: each is written anew with event
0x0403, or event 0x0405 ends the restoration and its play is no longer admitted (R259, R358) (DEDUCED, assumption 135). -/
def restoreCopy (play : Nat) (s : State) : State :=
  match s.forme.copies.find? fun c => c.1 = play, findSection s.forme.sections 5 play with
  | some c, some x =>
    let recs := ((s.forme.copyRecs.find? fun e => e.1 = play).map Prod.snd).getD []
    if (x.chunks s.ufs).map (fun d => d.take 8) = recs then
      (List.range recs.length).foldl (fun s k =>
        let a := c.2 + k * chunkSize
        let sector := match region a with
          | .galley n => n.1
          | _ => 0
        logEvent 0x0403 idImposer sector (countRestored (devWrite a (((x.bytes s.ufs).drop (k * chunkSize)).take chunkSize) s))) s
    else
      let s := logEvent 0x0405 idImposer 0 s
      { s with sched := { s.sched with unmapped := if play ∈ s.sched.unmapped then s.sched.unmapped else play :: s.sched.unmapped } }
  | _, _ => s

/-- RELOWER_COMPLETE: the scene's micro-operations are lowered anew from the play's copy container, restored first where its CRC fails, and the
instance is READY again. -/
def execRelowerComplete (t : Nat) (k : InstKey) (s : State) : Host.Outcome State Fault Refusal :=
  let s := s.at t
  if (s.inst? k).any Inst.relower then
    let s := if s.copySound k.play then s else restoreCopy k.play s
    .next (s.modInst k fun i => { i with relower := false })
  else .next s

/-- SCENE_WATCHDOG_EXPIRY: event 0x0810 and a kill with cause 2; R356 (DEDUCED, assumption 73). -/
def execSceneWatchdogExpiry (t : Nat) (k : InstKey) (s : State) : Host.Outcome State Fault Refusal :=
  let s := s.at t
  match s.inst? k with
  | none => .next s
  | some i =>
    if i.st = .running ∧ i.at_ + us (2 * i.budget) ≤ s.now then
      let n := i.wd + 1
      let s := logEvent 0x0810 i.firstId n (s.modInst k fun i => { i with wd := n })
      let s := if i.safety then detect 0x0D i.firstId s else s
      let s := i.units.foldl (fun s u => suspectUnit 0 u s) (killElsewhere 2 i.presses k s)
      if i.kind = 2 then .next (if 3 ≤ n then blockPlay k.play s else s)
      else .next (if 2 ≤ n ∧ i.kind ≠ kindMove then abandonInst 2 i s else s)
    else .next s

/-- A stagehand whose program has not ended has been ready for 2,000 arithmetic cycles in which nothing issued (R357) (DEDUCED, assumption
136). -/
def State.seqStuck (s : State) (p : Fin 16) (stagehand : Fin 8) : Bool :=
  let x := (s.press.get p).hands.get stagehand
  (s.runOn p).any (fun i => !s.handEnded i p stagehand) && decide (x.wait = .none) && decide (max x.since (s.press.get p).issuedAt + 2000 ≤ s.pressCycle)

/-- SEQUENCER_TIMEOUT: event 0x0811 and a strike, which kills every run on the press (R357). -/
def execSequencerTimeout (t : Nat) (p : Fin 16) (stagehand : Fin 8) (s : State) : Host.Outcome State Fault Refusal :=
  let s := s.at t
  .next (if s.seqStuck p stagehand then strike 9 (.press p) (logEvent 0x0811 (pressId p) stagehand.1 s) else s)

end Sys2Proof.Machine
end

