-- ==== Sys2Proof/Machine/Press.lean ====
section
/-! DEFINITION. The platen: the PRESS micro-operation, tiles and swaps, exact rows with their checksum verdicts, accumulation groups, the
repeat, the drain and the sequencer's faults (R95 to R122, R129 to R141). -/

namespace Sys2Proof.Machine

/-! ### Fields and legality (R105, R106, R134) -/

/-- The fields of a PRESS. -/
structure PressOp where
  opc : Nat
  aFmt : Nat
  wFmt : Nat
  acc : Nat
  swap : Bool
  sth : Fin 8
  aLine : Nat
  aRow0 : Nat
  m : Nat
  wLine : Nat
  krows : Nat
  cols : Nat
  base : Nat
  win : Int
  out : Nat
  q : Fin 16
  reserved : Bool
deriving DecidableEq, Repr

def bitsAt (w : W128) (lo n : Nat) : Nat := (w.extractLsb' lo n).toNat

def pressOp (w : W128) : PressOp :=
  { opc := bitsAt w 0 8, aFmt := bitsAt w 8 4, wFmt := bitsAt w 12 4, acc := bitsAt w 16 2, swap := w.getLsbD 18
    sth := Fin.ofNat 8 (bitsAt w 19 3), aLine := bitsAt w 24 13, aRow0 := bitsAt w 37 13, m := bitsAt w 50 8 + 1
    wLine := bitsAt w 58 13, krows := bitsAt w 71 6 + 1, cols := bitsAt w 77 6 + 1, base := bitsAt w 83 9
    win := signedOf 10 (bitsAt w 92 10), out := bitsAt w 102 4, q := Fin.ofNat 16 (bitsAt w 106 4)
    reserved := decide (bitsAt w 22 2 ≠ 0 ∨ bitsAt w 126 2 ≠ 0) }

/-- Lanes of the operand class; 16 where the format has none. -/
def PressOp.lanes (f : PressOp) : Nat := ((laneClass f.aFmt).map LaneClass.lanes).getD 16

/-- e0 of R112: the exponent of the platen's least product. -/
def PressOp.e0 (f : PressOp) : Int := gmin f.aFmt + gmin f.wFmt

def PressOp.kind (f : PressOp) : GroupKind := groupKind f.aFmt f.wFmt

/-- CLEAR or SINGLE: the instruction opens its group. -/
def PressOp.opens (f : PressOp) : Bool := f.acc = 1 || f.acc = 3
/-- CLOSE or SINGLE: the instruction closes its group. -/
def PressOp.closes (f : PressOp) : Bool := f.acc = 2 || f.acc = 3

/-- The line of the tile that is live when a newly issued instruction runs. -/
def Press.issueTile (p : Press) : Option Nat :=
  match (p.queue.filter fun x => (pressOp x.w).swap).getLast? with
  | some x => some (pressOp x.w).wLine
  | none => p.live.map Tile.line

/-- The open group that an ACCUMULATE or CLOSE goes on with (DEDUCED, assumption 59). -/
def Press.openGroup (p : Press) (f : PressOp) : Option Group :=
  p.groups.find? fun g => g.opened && decide (g.base = f.base) && decide (g.m = f.m) && decide (g.cls = f.lanes) &&
    decide (g.win = f.win) && decide (g.out = f.out)

/-- PRESS instructions a group may hold (R134). -/
def PressOp.groupLimit (f : PressOp) : Nat := if f.aFmt = fInt16 ∧ f.wFmt = fInt16 then 256 else 1024

/-- A PRESS is illegal at issue; `split` is the first line of the case's cache region. The lines read are its activation rows and, where
it swaps, the tile's rows below KROWS (R99, R106). -/
def pressIllegal (f : PressOp) (split : Nat) (p : Press) : Bool :=
  decide (f.opc ≠ 0x21) || f.reserved ||
  !pairOk f.aFmt f.wFmt ||
  decide (f.aLine + f.aRow0 + f.m - 1 > 8191) || decide (f.wLine + 63 > 8191) ||
  decide (split ≤ f.aLine + f.aRow0 + f.m - 1) || (f.swap && decide (split < f.wLine + f.krows)) ||
  decide (512 < f.base + f.m) ||
  (!f.swap && decide (p.issueTile ≠ some f.wLine)) ||
  !outAllowed f.kind f.out ||
  (decide (f.kind = .integer) && decide (f.win ≠ 0)) ||
  (decide (f.kind = .exact) && decide (f.win ≠ f.e0)) ||
  (if f.opens then p.groups.any fun g => g.opened && decide (g.base < f.base + f.m) && decide (f.base < g.base + g.m)
   else match p.openGroup f with
     | none => true
     | some g => decide (f.groupLimit ≤ g.count))

/-- The groups as an issued instruction leaves them (R110, R133). -/
def issueGroup (f : PressOp) (gs : List Group) : List Group :=
  if f.opens then
    gs ++ [{ base := f.base, m := f.m, cls := f.lanes, aFmt := f.aFmt, wFmt := f.wFmt, win := f.win, out := f.out, cols := f.cols
             q := f.q, opened := !f.closes, done := false, count := 1, next := 0 }]
  else
    lmod (fun g => g.opened && decide (g.base = f.base)) (fun g => { g with
      count := g.count + 1, opened := !f.closes, aFmt := f.aFmt, wFmt := f.wFmt, cols := f.cols, q := f.q }) gs

/-! ### Operands in the platen (R112, R130 to R132) -/

/-- One operand in a lane: its integer q, where the value is q × 2^gmin, and its NaN flag. -/
structure Lane where
  q : Int
  nan : Bool
deriving DecidableEq, Repr

/-- Width of a format's lane in a case line. -/
def caseWidth (f : Nat) : Nat := if f = fT64 then 2 else if f = fInt4 ∨ f = fMx4 then 4 else if elemWidth f ≤ 8 then 8 else 16

/-- The lanes of a slice. -/
def sliceLanes (f lanes : Nat) (bs : List Byte) : List Nat :=
  let v := leNat (bs.take 16)
  (List.range lanes).map fun k => v / 2 ^ (caseWidth f * k) % 2 ^ caseWidth f

/-- The operand of one lane, other than a BF16 activation. -/
def laneOf (f side bits : Nat) : Lane :=
  if f = fT64 then
    if side = 255 then ⟨0, true⟩ else ⟨if bits = 1 then 2 ^ side else if bits = 3 then -2 ^ side else 0, false⟩
  else if f = fBf16 then
    if bits = 0x8000 then ⟨0, true⟩ else ⟨signedOf 16 bits * 2 ^ (max side 1 - 1), false⟩
  else if isMx f && decide (side = 255) then ⟨0, true⟩
  else
    match (elemVal f bits).scale ((if isMx f then (side : Int) - 127 else 0) - gmin f) with
    | .num n m e => ⟨signed n (m * 2 ^ e.toNat), false⟩
    | _ => ⟨0, true⟩

/-- Raw BF16 words go into block form by blocks of 16 positions (R131). -/
def bf16Lanes (ws : List Nat) : List Lane :=
  (partsOf 16 ws).flatMap fun b =>
    let e := bf16E b
    b.map fun x => ⟨(bf16M e x).1 * 2 ^ (e - 1), (bf16M e x).2⟩

/-- The operands of a row or column in reduction order, from its slices with their side bytes. -/
def lanesOf (act : Bool) (f lanes : Nat) (sl : List (List Byte × Byte)) : List Lane :=
  if act ∧ f = fBf16 then bf16Lanes (sl.flatMap fun x => sliceLanes f lanes x.1)
  else sl.flatMap fun x => (sliceLanes f lanes x.1).map fun b => laneOf f x.2.toNat b

/-- The slices of tensor row `m`, undone from the skew of R103. -/
def State.rowSlices (s : State) (p : Fin 16) (f : PressOp) (m : Nat) : List (List Byte × Byte) :=
  (List.range f.krows).map fun r =>
    let b := (r + m) % 64
    (s.devRead (caseAt p (f.aLine + m) b) 16, cellRead s.mem.cells (sideAt p (f.aLine + m) b))

/-- The loader's tile: bank c of line W_LINE + r in cell (r, c); rows from `valid` on are zero (R99, R100). -/
def State.loadTile (s : State) (p : Fin 16) (line valid : Nat) : Tile :=
  { line := line, valid := valid, rows := (List.range 64).map fun r => (List.range 64).map fun c =>
      if r < valid then (s.devRead (caseAt p (line + r) c) 16, cellRead s.mem.cells (sideAt p (line + r) c))
      else (List.replicate 16 0, 0) }

/-- The weights of column `c` in the valid rows. -/
def tileCol (t : Tile) (f : PressOp) (c : Nat) : List Lane :=
  lanesOf false f.wFmt f.lanes ((t.rows.take f.krows).map fun r => r.getD c ([], 0))

/-! ### One row of the platen (R98, R112, R113, R132, R138) -/

def dot (a w : List Lane) : Int := ((a.zip w).map fun x => x.1.q * x.2.q).sum

/-- x × 2^k rounded toward minus infinity. -/
def floorShift (x k : Int) : Int := if 0 ≤ k then x * 2 ^ k.toNat else x / 2 ^ (-k).toNat

/-- T(m, c) with its flags: exact for integer and exact-floating groups, by scale unit into the window for the others. -/
def treeOut (f : PressOp) (a w : List Lane) : Acc :=
  let nan := a.any Lane.nan || w.any Lane.nan
  match f.kind with
  | .windowed =>
    let u := unitLen f.aFmt f.wFmt
    let ts := ((partsOf u a).zip (partsOf u w)).map fun x => windowTerm (floorShift (dot x.1 x.2) (f.e0 - f.win))
    { val := (ts.map Prod.fst).sum, nan := nan, ovf := ts.any Prod.snd }
  | _ => { val := dot a w, nan := nan, ovf := false }

/-- The modulus U of R112. -/
def checkMod : Nat := 2 ^ 56

/-- wcs of R112, lane by lane: the columns' weights summed modulo U. -/
def checkWeights (cols : List (List Lane)) (n : Nat) : List Int :=
  (List.range n).map fun k => ((cols.map fun w => (w.getD k ⟨0, false⟩).q).sum) % checkMod

/-- lhs of R112: the columns' check views, with what a fault added to them. -/
def checkLhs (a : List Lane) (cols : List (List Lane)) (added : Int) : Int := ((cols.map (dot a)).sum + added) % checkMod

/-- rhs of R112: the checksum column. -/
def checkRhs (a : List Lane) (cols : List (List Lane)) : Int :=
  ((a.zip (checkWeights cols a.length)).map fun x => x.1.q * x.2).sum % checkMod

/-- What faults add to a column's tree output at a row. -/
def faultAt (fs : List PlatenFault) (row c : Nat) : Int :=
  (fs.map fun x => match x with
    | .column r k d => if r = row ∧ k.1 = c then d else 0
    | .activationParity _ => 0).sum

def parityAt (fs : List PlatenFault) (row : Nat) : Bool :=
  fs.any fun x => match x with
    | .activationParity r => decide (r = row)
    | .column .. => false

/-- One row: its 64 results, and the source of a failed verdict (R112, R113, R122); a row that fails both the checksum and the activation bus's
parity shows source 0 (DESIGN CHOICE, assumption 146). -/
def platenRow (f : PressOp) (cols : List (List Lane)) (a : List Lane) (fs : List PlatenFault) (row : Nat) : List Acc × Option Nat :=
  let res := cols.zipIdx.map fun x => let t := treeOut f a x.1; { t with val := t.val + faultAt fs row x.2 }
  let added := ((List.range 64).map fun c => faultAt fs row c).sum
  (res, if checkLhs a cols added ≠ checkRhs a cols then some 0 else if parityAt fs row then some 2 else none)

/-- Rows from `i` on until one must wait or a verdict fails: the rows that accumulate, and the failing row with its source. -/
def feedRows (may : Nat → Bool) (row : Nat → List Acc × Option Nat) : Nat → Nat → List (Nat × List Acc) × Option (Nat × Nat)
  | 0, _ => ([], none)
  | n + 1, i =>
    if !may i then ([], none)
    else
      match row i with
      | (_, some src) => ([], some (i, src))
      | (r, none) =>
        let (rs, x) := feedRows may row n (i + 1)
        ((i, r) :: rs, x)

/-! ### The accumulator file (R110, R134) -/

/-- Entry ACC_BASE + i takes a row's results. -/
def accumulate (f : PressOp) (es : List (Nat × List Acc)) (x : Nat × List Acc) : List (Nat × List Acc) :=
  let k := f.base + x.1
  let old := (es.find? fun e => e.1 = k).map Prod.snd
  let new : List Acc := match old with
    | some o => if f.opens then x.2 else (o.zip x.2).map fun y => y.1.add y.2
    | none => x.2
  (k, new.map (Acc.fit f.kind)) :: es.filter fun e => e.1 != k

/-! ### Feeding an instruction (R101, R102, R107, R109, R114) -/

/-- Stagehands that wait for a reason resume at a cycle. -/
def wakeHands (cyc : Nat) (f : WaitReason → Bool) (p : Press) : Press :=
  { p with hands := p.hands.map fun h => if f h.wait then { h with wait := .none, since := cyc } else h }

/-- The run has written a bank of a case line. -/
def Press.lineReady (p : Press) (line bank : Nat) : Bool :=
  (((p.ready.find? fun e => e.1 = line).map Prod.snd).getD 0).getLsbD bank

/-- A line of the case is written in a bank (R109). -/
def noteLine (line bank : Nat) (p : Press) : Press :=
  let old := ((p.ready.find? fun e => e.1 = line).map Prod.snd).getD 0
  { p with ready := (line, old ||| (1#64 <<< bank)) :: p.ready.filter fun e => e.1 != line }

/-- The instruction at the head of the queue may start: no repeat is under way and its tile is loaded (R101). -/
def Press.mayStart (p : Press) (f : PressOp) : Bool :=
  p.rep.isNone && (!f.swap || decide (p.shadow.map Tile.line = some f.wLine))

/-- Row `i` may be issued: its slices stand in the case and its entry is not held for a drain (R109) (DEDUCED, assumption 60). -/
def Press.rowMay (p : Press) (f : PressOp) (i : Nat) : Bool :=
  ((List.range f.krows).all fun r => p.lineReady (f.aLine + f.aRow0 + i) ((r + f.aRow0 + i) % 64)) &&
    (!f.opens || !(p.groups.any fun g => g.done && decide (g.base + g.next ≤ f.base + i) && decide (f.base + i < g.base + g.m)))

/-- The swap: the rows the instruction does not use are zero in its tile (R99). -/
def Press.swapped (p : Press) (f : PressOp) : Press :=
  if f.swap then
    { p with live := p.shadow.map fun t => { t with valid := f.krows, rows := t.rows.zipIdx.map fun x =>
               if x.2 < f.krows then x.1 else List.replicate 64 (List.replicate 16 0, 0) }
             shadow := none }
  else p

/-- The group of a closing instruction that has retired may drain. -/
def closeGroup (f : PressOp) (p : Press) : Press :=
  if !f.closes then p
  else
    match p.groups.findIdx? fun g => decide (g.base = f.base) && !g.opened && !g.done with
    | none => p
    | some i => { p with groups := p.groups.zipIdx.map fun x => if x.2 = i then { x.1 with done := true } else x.1 }

/-- The feeder takes the instruction at the head of the queue, which frees a place in it. -/
def startFeed (x : Waiting) (xs : List Waiting) (cyc : Nat) (p : Press) : Press :=
  let f := pressOp x.w
  let p := p.swapped f
  wakeHands cyc (fun w => w = .queueFull 0)
    { p with queue := xs, cur := some { x := x, next := 0, first := 0, count := 0 }
             nextRow := max p.nextRow (if f.swap then p.nextSwap else 0) |> max cyc, ran := true }

/-- Rows after a failing one that were already in flight: up to five more (R108, R114). -/
def inFlight (may : Nat → Bool) : Nat → Nat → Nat
  | 0, _ => 0
  | n + 1, i => if may i then inFlight may n (i + 1) + 1 else 0

/-- The instruction at the feeder goes on: its rows enter and accumulate up to one that must wait, or to a failed verdict, which begins a
repeat; after the last it retires. -/
def feed (p : Fin 16) (c : Feeding) (s : State) : State :=
  let f := pressOp c.x.w
  let pr := s.press.get p
  match pr.live with
  | none => s
  | some t =>
    let cols := (List.range 64).map (tileCol t f)
    let row := fun i => platenRow f cols (lanesOf true f.aFmt f.lanes (s.rowSlices p f (f.aRow0 + i))) c.x.faults i
    let (rs, bad) := feedRows (pr.rowMay f) row (f.m - c.next) c.next
    let e := max pr.nextRow s.pressCycle
    let c := if c.next = 0 ∧ pr.rowMay f 0 = true then { c with first := e, count := e - s.cue.b * s.ident.mhz / 400 } else c
    let next := c.next + rs.length
    let pr := { pr with entries := rs.foldl (accumulate f) pr.entries, cur := some { c with next := next }
                        nextRow := if rs = [] then pr.nextRow else e + rs.length
                        nextSwap := if rs = [] then pr.nextSwap else c.first + 64
                        tally := { pr.tally with slices := pr.tally.slices + f.krows * rs.length } }
    s.modPress p fun _ => match bad with
      | some (i, src) =>
        let more := inFlight (pr.rowMay f) (min 5 (f.m - 1 - i)) (i + 1)
        { pr with shadow := none, cur := none
                  tally := { pr.tally with slices := pr.tally.slices + f.krows * (1 + more) }
                  rep := some { c := { c with next := i }, row := i, src := src, at_ := e + rs.length, fed := i + 1 + more
                                tracing := s.forme.tracing } }
      | none =>
        if next = f.m then
          closeGroup f (pushTrace (if s.forme.tracing then some (c.trace f.m (pr.nextRow - 1) 0 0xFF) else none) { pr with cur := none })
        else pr

/-- The platen takes its queue in order as far as it can. -/
def pump (p : Fin 16) : Nat → State → State
  | 0, s => s
  | n + 1, s =>
    match (s.press.get p).cur, (s.press.get p).queue with
    | some c, _ =>
      let t := feed p c s
      if (t.press.get p).cur.isSome then t else pump p n t
    | none, [] => s
    | none, x :: xs =>
      if (s.press.get p).mayStart (pressOp x.w) then pump p n (s.modPress p (startFeed x xs s.pressCycle)) else s

/-- Steps in which the platen takes all of its queue: at most five instructions, each started and fed. -/
def pumpAll (p : Fin 16) (s : State) : State := pump p 11 s

/-- An illegal micro-operation: event 0x0310, and the scene is killed and runs elsewhere (R106). -/
def illegalOp (p : Fin 16) (idx opcode : Nat) (i : Inst) (s : State) : State :=
  sceneFault 6 p idx i (logEvent 0x0310 (pressId p) opcode s)

/-- A translation fault: event 0x0410, handled as an illegal micro-operation (R229). -/
def translationFault (p : Fin 16) (idx detail : Nat) (i : Inst) (s : State) : State :=
  sceneFault 7 p idx i (logEvent 0x0410 (pressId p) detail s)

/-- PRESS: checked at issue, queued, and fed when the platen may. -/
def execPress (t : Nat) (p : Fin 16) (w : W128) (idx : Nat) (faults : List PlatenFault) (errs : List MemErr) (s : State) :
    Host.Outcome State Fault Refusal :=
  let s := s.at t
  let f := pressOp w
  match (if s.mayIssue p f.sth idx (.press w) then s.runOn p else none) with
  | none => .next s
  | some i =>
    if 4 ≤ (s.press.get p).queue.length then .next (waitHand p f.sth (.queueFull 0) s)
    else if pressIllegal f (s.mem.split.get p) (s.press.get p) then .next (illegalOp p idx f.opc i s)
    else
      let s := memErrs errs (some i.key) s
      if (s.runOn p).map Inst.key ≠ some i.key then .next s
      else
        let s := s.modPress p fun r => issued s.pressCycle f.sth idx { r with
          groups := issueGroup f r.groups, queue := r.queue ++ [{ w := w, idx := idx, faults := faults }] }
        .next (meetBarrier i (pumpAll p s))

/-! ### PLATEN_REPEAT_VERDICT (R114) -/

/-- A platen check or bus parity failed once: event 0x0301, and the press counts a transient. -/
def transient (p : Fin 16) (src : Nat) (s : State) : State := countTransient (.press p) (logEvent 0x0301 (pressId p) src s)

/-- A platen check failed again: event 0x0302, the scene is killed and the press struck. -/
def permanent (p : Fin 16) (src : Nat) (s : State) : State :=
  let s := logEvent 0x0302 (pressId p) src s
  let s := match s.runOn p with
    | some i => killInst 4 i.key s
    | none => s
  strike 1 (.press p) s

/-- A tile load in which some row failed parity twice is a permanent fault (R113). -/
def loadFails (parity : List (Fin 64)) : Bool := parity.any fun r => decide (2 ≤ parity.count r)

/-- Each row that the loader loads a second time counts as a transient of the weight bus, while the run goes on. -/
def reloads (p : Fin 16) (parity : List (Fin 64)) (s : State) : State :=
  parity.foldl (fun s _ => if (s.runOn p).isSome then transient p 1 s else s) s

/-- The repeat fails after `n` rows fed again, the last of them in a cycle: its record shows outcome 2, and the fault is permanent. -/
def repeatFails (p : Fin 16) (src : Nat) (r : Repeat) (tile : Option Tile) (n last : Nat) (s : State) : State :=
  permanent p src (s.modPress p fun pr => pushTrace (if r.tracing then some (r.c.trace (r.fed + n) last 2 r.row) else none)
    { pr with rep := none, shadow := none, live := tile })

/-- The repeated rows' verdicts: the tile is loaded anew from W_LINE, longer by each row that failed parity, and rows i to M − 1 are fed
again (DEDUCED, assumption 57). -/
def execPlatenRepeatVerdict (t : Nat) (p : Fin 16) (obs : RepeatObs) (s : State) : Host.Outcome State Fault Refusal :=
  let s := s.at t
  let pr := s.press.get p
  match pr.rep, pr.live with
  | some r, some old =>
    if loadFails obs.parity then .next (repeatFails p 1 r (some old) 0 (r.at_ + (r.fed - (r.row + 1))) s)
    else
      let f := pressOp r.c.x.w
      let tile := s.loadTile p old.line old.valid
      let cols := (List.range 64).map (tileCol tile f)
      let row := fun i => platenRow f cols (lanesOf true f.aFmt f.lanes (s.rowSlices p f (f.aRow0 + i))) obs.faults i
      let n := f.m - r.row
      let (rs, bad) := feedRows (fun _ => true) row n r.row
      let e := r.at_ + 70 + obs.parity.length
      let s := s.modPress p fun pr => { pr with tally := { pr.tally with slices := pr.tally.slices + f.krows * n } }
      match bad with
      | none =>
        let s := s.modPress p fun pr => closeGroup f
          (pushTrace (if r.tracing then some (r.c.trace (r.fed + n) (e + n - 1) 1 r.row) else none)
            { pr with rep := none, shadow := none, live := some tile, entries := rs.foldl (accumulate f) pr.entries
                      nextRow := e + n, nextSwap := e + 64 })
        .next (pumpAll p (reloads p obs.parity (transient p r.src s)))
      | some (_, src) => .next (repeatFails p src r (some tile) n (e + n - 1) s)
  | _, _ => .next s

/-! ### SHADOW_LOAD_COMPLETE (R100, R101, R113) -/

/-- The loader completes a tile; a row that fails parity once is loaded again, twice is permanent (DEDUCED, assumption 56). -/
def execShadowLoadComplete (t : Nat) (p : Fin 16) (wLine : Nat) (parity : List (Fin 64)) (s : State) : Host.Outcome State Fault Refusal :=
  let s := s.at t
  let pr := s.press.get p
  if (s.runOn p).isNone || pr.rep.isSome || pr.shadow.isSome || decide (8191 < wLine + 63) then .next s
  else if loadFails parity then .next (permanent p 1 s)
  else
    let tile := s.loadTile p wLine 64
    let s := s.modPress p fun r => { r with shadow := some tile }
    .next (pumpAll p (reloads p parity s))

/-! ### GROUP_DRAIN (R111, R139 to R141) -/

/-- The row of results that the next entry of a group gives. -/
def drainRow (g : Group) (bias : List W32) (cells : List Acc) : List (Nat × Nat) :=
  (List.range g.cols).map fun c =>
    let x := cells.getD c { val := 0, nan := false, ovf := false }
    let x := match (if g.out = fRaw then none else bias[c]?) with
      | some b => x.add (biasAcc (groupKind g.aFmt g.wFmt) g.win b)
      | none => x
    (drainCol g.out g.win x, g.out)

/-- Entries in a drain queue. -/
def Press.drained (p : Press) (q : Fin 16) : Nat := (p.drainQ.filter fun e => e.1 = q).length

/-- The oldest group to drain gives its next entry to its queue unless the queue's 32 entries are full (DESIGN CHOICE, assumption 63). -/
def execGroupDrain (t : Nat) (p : Fin 16) (bias : List W32) (s : State) : Host.Outcome State Fault Refusal :=
  let s := s.at t
  let pr := s.press.get p
  match pr.groups.find? fun g => g.done with
  | none => .next s
  | some g =>
    if 32 ≤ pr.drained g.q then .next s
    else
      let k := g.base + g.next
      let cells := ((pr.entries.find? fun e => e.1 = k).map Prod.snd).getD []
      let gs := if g.next + 1 = g.m then pr.groups.erase g else pr.groups.map fun x => if x = g then { g with next := g.next + 1 } else x
      let s := s.modPress p fun r => wakeHands s.pressCycle (fun w => w = .drainEmpty) { r with
        groups := gs, entries := r.entries.filter fun e => e.1 != k, drainQ := r.drainQ ++ [(g.q, drainRow g bias cells)], last := s.pressCycle }
      .next (pumpAll p s)

/-! ### ACCUMULATOR_ERROR, SEQUENCER_LOCKSTEP_MISMATCH (R115, R116, R119) -/

/-- The copies of an add disagree, or an entry's parity fails: event 0x0303, and the press is classified by its next proof pass. -/
def execAccumulatorError (t : Nat) (p : Fin 16) (entry : Fin 512) (s : State) : Host.Outcome State Fault Refusal :=
  let s := s.at t
  match s.runOn p with
  | none => .next s
  | some i =>
    let s := killElsewhere 5 [p] i.key (logEvent 0x0303 (pressId p) (entry.1 / 2) s)
    .next (suspectUnit 3 (.press p) s)

/-- The sequencer's copies disagree: event 0x0311, a detection for a safety scene, and a strike, which kills the press's scenes (DEDUCED,
assumption 77). -/
def execSequencerLockstepMismatch (t : Nat) (p : Fin 16) (stagehand : Fin 8) (s : State) : Host.Outcome State Fault Refusal :=
  let s := s.at t
  let s := logEvent 0x0311 (pressId p) stagehand.1 s
  let s := match s.runOn p with
    | some i => if i.safety then detect 0x07 (pressId p) s else s
    | none => s
  .next (strike 2 (.press p) (s.modPress p (abandonRepeat s.pressCycle)))

/-! ### ROW_READY_UPDATE (R181, R182) -/

/-- The row-ready counter of a tensor's band. -/
def Press.band (p : Press) (tensor : Nat) (bottom : Bool) : W16 :=
  ((p.bands.find? fun b => b.1 = tensor ∧ b.2.1 = bottom).map fun b => b.2.2).getD 0

/-- The press that reads a part's band: the part above reads the top band, the part below the bottom band. -/
def Inst.neighbour (i : Inst) (p : Fin 16) (below : Bool) : Option (Fin 16) :=
  match i.units.findIdx? fun u => u = .press p with
  | none => none
  | some k =>
    match (if below then i.units[k + 1]? else if k = 0 then none else i.units[k - 1]?) with
    | some (.press q) => some q
    | _ => none

/-- A band that the part on a press computes (R180). -/
def State.ownBand (s : State) (i : Inst) (p : Fin 16) (tensor : Nat) (bottom : Bool) : Option Band :=
  match i.units.findIdx? fun u => u = .press p, s.play? i.key.play with
  | some k, some pl => (s.bandsOf pl i.key).find? fun b => decide (b.tensor = tensor) && decide (b.part = k) && (b.bottom == bottom)
  | _, _ => none

/-- The next row of a band stands in the exchange buffer: no repeat is under way and every block that the press wrote is acknowledged (R181, R185). -/
def State.rowDone (s : State) (i : Inst) (p : Fin 16) (tensor : Nat) (bottom : Bool) (row : Nat) : Bool :=
  (s.ownBand i p tensor bottom).any (fun b => decide (row < b.rows)) && decide (((s.press.get p).band tensor bottom).toNat = row) &&
    (s.press.get p).rep.isNone && !s.moving p 0 && !s.moving p 1 && !s.moving p 2

/-- A band's rows come in ascending order: its counter is set to row + 1, and the consumer's stagehands that waited for it resume. -/
def execRowReadyUpdate (t : Nat) (p : Fin 16) (tensor : Nat) (bottom : Bool) (row : Nat) (s : State) : Host.Outcome State Fault Refusal :=
  let s := s.at t
  match s.runOn p with
  | none => .next s
  | some i =>
    if !s.rowDone i p tensor bottom row then .next s
    else
    let v : W16 := BitVec.ofNat 16 (row + 1)
    let s := s.modPress p fun r => { r with
      bands := (tensor, bottom, v) :: r.bands.filter fun b => !(decide (b.1 = tensor) && (b.2.1 == bottom)) }
    match i.neighbour p bottom with
    | none => .next s
    | some q => .next (s.modPress q (wakeHands s.pressCycle fun w => match w with
        | .rowReady x want b => decide (x = tensor) && (b == bottom) && decide (want ≤ v.toNat)
        | _ => false))

end Sys2Proof.Machine
end

