-- ==== Sys2Proof/Machine/Compositor.lean ====
section
/-! DEFINITION. The compositors: fills of the case from play addresses in every operand form, stores back, and XFER (R103, R126 to R131,
R152, R173, R174, R182, R241, R244, R248, R249). -/

namespace Sys2Proof.Machine

/-! ### Elements of a tensor in memory (R126, R127, R152) -/

/-- Address of the scale byte of the block that holds element `i`. -/
def scaleAddr (fmt scales base i : Nat) : Option Nat :=
  if isMx fmt then some (scales + i / 32) else if fmt = fT64 then some (base + i / 64 * 14 + 13) else none

/-- The side byte of a slice whose first element is `i` (R128, R130). -/
def sideOf (rd : Nat → Byte) (fmt scales base i : Nat) : Byte :=
  if fmt = fT64 ∧ t64Digits ((elemAddrs fmt base i).map rd |>.take 13) = none then 0xFF
  else ((scaleAddr fmt scales base i).map rd).getD 0

/-- Lanes packed into the 16 bytes of a line. -/
def packLanes (w : Nat) (ls : List Nat) : List Byte := natLe 16 ((ls.zipIdx.map fun x => x.1 % 2 ^ w * 2 ^ (w * x.2)).sum)

/-- One bank's line to write, with the play addresses it was read from. -/
structure CaseLine where
  line : Nat
  bank : Nat
  bytes : List Byte
  side : Byte
  addrs : List Nat
deriving DecidableEq, Repr

/-- A line from the elements of a slice, none of them where the tensor ends or padding stands. -/
def elemLine (rd : Nat → Byte) (fmt base scales line bank : Nat) (is : List (Option Nat)) : CaseLine :=
  let code := fun (i : Nat) => elemCode fmt i ((elemAddrs fmt base i).map rd)
  let first := is.findSome? id
  { line := line, bank := bank
    bytes := packLanes (caseWidth fmt) (is.map fun x => (x.map code).getD 0)
    side := (first.map (sideOf rd fmt scales base)).getD 0
    addrs := is.flatMap fun x => match x with
      | some i => elemAddrs fmt base i ++ (scaleAddr fmt scales base i).toList
      | none => [] }

/-- Lanes of an operand class by number: 0, 1 and 2 for 4-bit, 8-bit and 16-bit. -/
def classLanes (c : Nat) : Nat := if c = 0 then 32 else if c = 1 then 16 else 4

def fmtLanes (f : Nat) : Nat := ((laneClass f).map LaneClass.lanes).getD 16

/-- A BF16 weight slice in block form: its 16-position block's E and its mantissas, a NaN marked 0x8000 (R131). -/
def bf16Line (rd : Nat → Byte) (base line bank : Nat) (block slice : List (Option Nat)) : CaseLine :=
  let word := fun (x : Option Nat) => (x.map fun i => leNat ((elemAddrs fBf16 base i).map rd)).getD 0
  let e := bf16E (block.map word)
  { line := line, bank := bank
    bytes := packLanes 16 (slice.map fun x => let m := bf16M e (word x); if m.2 then 0x8000 else bitsOf 16 m.1)
    side := BitVec.ofNat 8 e
    addrs := slice.flatMap fun x => (x.map (elemAddrs fBf16 base)).getD [] }

/-! ### Fills (R103, R130, R131, R173, R174) -/

/-- The lines a fill writes. -/
def fillLines (rd : Nat → Byte) : CompOp → List CaseLine
  | .skewRows src scales fmt sm sk k0 kdim rows slices aLine row0 =>
    let n := fmtLanes fmt
    (List.range rows).flatMap fun i => (List.range slices).map fun j =>
      let m := row0 + i
      elemLine rd fmt src scales (aLine + m) ((j + m) % 64) ((List.range n).map fun l =>
        let k := k0 + j * n + l
        if k < kdim then some (m * sm + k * sk) else none)
  | .weightTile src scales fmt cls sk sn k0 kdim n0 rows cols wLine =>
    let n := classLanes cls
    (List.range 64).flatMap fun r => (List.range 64).map fun c =>
      let at_ := fun (k : Nat) => if r < rows ∧ c < cols ∧ k < kdim then some (k * sk + (n0 + c) * sn) else none
      let k := k0 + r * n
      if fmt = fBf16 then
        bf16Line rd src (wLine + r) c ((List.range 16).map fun l => at_ (k / 16 * 16 + l)) ((List.range n).map fun l => at_ (k + l))
      else elemLine rd fmt src scales (wLine + r) c ((List.range n).map fun l => at_ (k + l))
  | .im2col src fmt c h w cb kh kw sh sw dh dw pt pl group cg ow m0 rows s0 aLine row0 =>
    let n := fmtLanes fmt
    let cp := (cg + cb - 1) / cb * cb
    (List.range rows).flatMap fun i => (List.range 64).map fun j =>
      let m := m0 + i
      elemLine rd fmt src 0 (aLine + row0 + i) ((j + row0 + i) % 64) ((List.range n).map fun l =>
        let k := (s0 + j) * n + l
        let ch := k % cp
        let iy : Int := (m / ow * sh : Nat) - pt + (k / cp / kw * dh : Nat)
        let ix : Int := (m % ow * sw : Nat) - pl + (k / cp % kw * dw : Nat)
        let x := group * cg + ch
        if k / cp < kh * kw ∧ ch < cg ∧ x < c ∧ 0 ≤ iy ∧ iy < h ∧ 0 ≤ ix ∧ ix < w then
          some ((x / cb * h * w + iy.toNat * w + ix.toNat) * cb + x % cb)
        else none)
  | .lines src n line =>
    (List.range (4 * n)).map fun j =>
      let as := (List.range 16).map fun k => src + 16 * j + k
      { line := line + j / 64, bank := j % 64, bytes := as.map rd, side := 0, addrs := as }
  | .store .. => []

/-- The play-address blocks of a list of byte addresses. -/
def blocksOf (as : List Nat) : List Nat := (as.map fun a => a / 64).dedup.map fun b => b * 64

/-- The blocks of play addresses an operation touches, and whether it writes them. -/
def compBlocks (ls : List CaseLine) : CompOp → List Nat × Bool
  | .store dst n _ => ((List.range n).map fun j => dst + 64 * j, true)
  | _ => (blocksOf (ls.flatMap CaseLine.addrs), false)

/-- Bytes of a case line's 64 B block. -/
def State.caseBlock (s : State) (p : Fin 16) (line j : Nat) : List Byte := s.devRead (caseBase p.1 + line * 1024 + j * 64) 64

/-- Write bytes to play addresses, as the tables stand. -/
def playWrite (play addr : Nat) (bs : List Byte) (s : State) : State :=
  match s.translate play addr with
  | some d => devWrite d bs s
  | none => s

/-- What an operation writes once its accesses are allowed (DESIGN CHOICE, assumption 66). -/
def compEffect (p : Fin 16) (play : Nat) (ls : List CaseLine) (op : CompOp) (s : State) : State :=
  match op with
  | .store dst n line => (List.range n).foldl (fun s j => playWrite play (dst + 64 * j) (s.caseBlock p (line + j / 16) (j % 16)) s) s
  | _ => (ls.foldl (fun s l => caseWrite p l.line l.bank l.bytes l.side s) s).modPress p fun r =>
      ls.foldl (fun r l => noteLine l.line l.bank r) r

/-- The first block that reads as poisoned. -/
def State.poisonedIn (s : State) (play : Nat) (bs : List Nat) : Option Nat :=
  (bs.filterMap (s.translate play)).find? fun d => s.poisoned d

/-- A band that a part's neighbour computes: the press, and how many rows the band has (R180, R182): BOT of the part above, TOP of the part
below. -/
def State.bandOf (s : State) (i : Inst) (p : Fin 16) (x : Nat × Bool × Nat) : Option (Fin 16 × Nat) :=
  (i.neighbour p (!x.2.1)).bind fun q => (s.ownBand i q x.1 x.2.1).map fun b => (q, b.rows)

/-- The row-ready counter of a neighbour's band covers the row. -/
def State.bandReady (s : State) (i : Inst) (p : Fin 16) (x : Nat × Bool × Nat) : Bool :=
  match s.bandOf i p x with
  | some (q, _) => decide (x.2.2 < ((s.press.get q).band x.1 x.2.1).toNat)
  | none => false

/-- A row that a neighbour's band holds. -/
def State.bandRow (s : State) (i : Inst) (p : Fin 16) (x : Nat × Bool × Nat) : Bool := (s.bandOf i p x).any fun e => decide (x.2.2 < e.2)

/-- Play pages of a list of blocks. -/
def pagesAt (bs : List Nat) : List Nat := (bs.map fun a => a / 2 ^ 21).dedup

/-- What keeps a compositor from its blocks: a walk for a page whose translation the press does not hold (R230), or a tracker while none is free
or the stack that holds a block retrains (R239, R241). -/
def State.compWait (s : State) (p : Fin 16) (play : Nat) (bs : List Nat) : Option WaitReason :=
  if (pagesAt bs).any fun g => !s.pageReady p play g then some .walk
  else if s.compRoom p = 0 ∧ bs ≠ [] then some .trackers
  else if bs.any fun a => (s.translate play a).any s.retraining then some .trackers
  else none

/-- A compositor's micro-operation stays in the case's scratch, as every one that the imposer emits (R226, R232). -/
def inScratch (split : Nat) (ls : List CaseLine) (op : CompOp) : Bool :=
  match op with
  | .store _ n line => decide (line + (n + 15) / 16 ≤ split)
  | _ => ls.all fun l => decide (l.line < split)

/-- A compositor's micro-operation other than XFER is done once every block has arrived or is acknowledged; it takes its next one. -/
def compNext (p : Fin 16) (comp : Fin 2) (s : State) : State :=
  if ((s.press.get p).comps.get comp).any (fun w => w = 0) && !s.moving p (Fin.ofNat 3 (1 + comp.1)) then
    s.modPress p fun r => wakeHands s.pressCycle (fun w => w = .queueFull (2 + comp.1)) { r with
      comps := vmod r.comps comp fun _ => none, last := s.pressCycle }
  else s

/-- COMPOSITOR_WRITE: a compositor's micro-operation other than XFER, once its bleed row is ready; the compositor is busy until its last block.
One outside the scratch is never emitted and has no effect (DESIGN CHOICE, assumption 152). -/
def execCompositorWrite (t : Nat) (p : Fin 16) (idx : Nat) (comp : Fin 2) (stagehand : Fin 8) (bleed : Option (Nat × Bool × Nat))
    (op : CompOp) (tags : List TagErr) (errs : List MemErr) (s : State) : Host.Outcome State Fault Refusal :=
  let s := s.at t
  match (if s.mayIssue p stagehand idx (.compositor comp bleed op) then s.runOn p else none) with
  | none => .next s
  | some i =>
    let s := tagErrs p tags s
    if bleed.any fun x => !s.bandRow i p x then .next s
    else if ((s.press.get p).comps.get comp).isSome then .next (waitHand p stagehand (.queueFull (2 + comp.1)) s)
    else
      match bleed.filter fun x => !s.bandReady i p x with
      | some x =>
        .next (waitHand p stagehand (.rowReady x.1 (x.2.2 + 1) x.2.1) s)
      | none =>
        let play := i.key.play
        let ls := fillLines (s.playByte play) op
        let (bs, wr) := compBlocks ls op
        if !inScratch (s.mem.split.get p) ls op then .next s
        else
        match s.compWait p play bs with
        | some w => .next (waitHand p stagehand w s)
        | none =>
          match s.runFaults i wr bs with
          | some d => .next (translationFault p idx d i s)
          | none =>
            match (if wr then none else s.poisonedIn play bs) with
            | some d => .next (poisonRead (holderId d) d i.key s)
            | none =>
              let s := memErrs errs (some i.key) s
              if (s.runOn p).map Inst.key ≠ some i.key then .next s
              else
                let n := if wr then bs.length else (ls.length + 3) / 4
                let s := askBlocks p i.part play (Fin.ofNat 3 (1 + comp.1)) (bs.map fun a => (a, wr)) (compEffect p play ls op s)
                let s := s.modPress p fun r => issued s.pressCycle stagehand idx { r with
                  comps := vmod r.comps comp fun _ => some 0#128, compAt := vmod r.compAt comp fun _ => s.now
                  tally := { r.tally with comp := r.tally.comp + n } }
                .next (meetBarrier i (pumpAll p (compNext p comp s)))

/-! ### XFER (R248, R249) -/

/-- The fields of an XFER. -/
structure XferOp where
  opc : Nat
  cmp : Fin 2
  sth : Fin 8
  src : Nat
  dst : Nat
  len : Nat
  reserved : Bool
deriving DecidableEq, Repr

def xferOp (w : W128) : XferOp :=
  { opc := bitsAt w 0 8, cmp := Fin.ofNat 2 (bitsAt w 8 1), sth := Fin.ofNat 8 (bitsAt w 9 3), src := bitsAt w 16 48
    dst := bitsAt w 64 48, len := bitsAt w 112 15 + 1, reserved := decide (bitsAt w 12 4 ≠ 0 ∨ bitsAt w 127 1 ≠ 0) }

/-- A range of blocks crosses a page boundary. -/
def crossesPage (a n : Nat) : Bool := decide (a / 2 ^ 21 ≠ (a + 64 * n - 1) / 2 ^ 21)

def xferIllegal (f : XferOp) : Bool :=
  decide (f.opc ≠ 0x32) || f.reserved || decide (f.src % 64 ≠ 0) || decide (f.dst % 64 ≠ 0) ||
    crossesPage f.src f.len || crossesPage f.dst f.len ||
    (decide (f.src < f.dst + 64 * f.len) && decide (f.dst < f.src + 64 * f.len))

/-- Blocks of a range. -/
def blockRange (a n : Nat) : List Nat := (List.range n).map fun k => a + 64 * k

/-- The trace record of an XFER as issued (R248) (DEDUCED, assumption 131). -/
def xferTrace (w : W128) (count : Nat) : TraceRec :=
  { w := w, entry := BitVec.ofNat 32 count, fed := 0, bubbles := 0, outcome := 0, row := 0xFF }

/-- XFER: checked, and its blocks copied; the compositor is busy until every block is acknowledged (DEDUCED, assumption 65). -/
def execXfer (t : Nat) (p : Fin 16) (idx : Nat) (w : W128) (tags : List TagErr) (errs : List MemErr) (s : State) :
    Host.Outcome State Fault Refusal :=
  let s := s.at t
  let f := xferOp w
  match (if s.mayIssue p f.sth idx (.xfer w) then s.runOn p else none) with
  | none => .next s
  | some i =>
    let s := tagErrs p tags s
    let play := i.key.play
    let src := blockRange f.src f.len
    let dst := blockRange f.dst f.len
    if ((s.press.get p).comps.get f.cmp).isSome then .next (waitHand p f.sth (.queueFull (2 + f.cmp.1)) s)
    else if xferIllegal f then .next (illegalOp p idx f.opc i s)
    else
      match s.compWait p play (src ++ dst) with
      | some w => .next (waitHand p f.sth w s)
      | none =>
        match s.runFaults i false src, s.runFaults i true dst with
        | some d, _ => .next (translationFault p idx d i s)
        | none, some d => .next (translationFault p idx d i s)
        | none, none =>
          match s.poisonedIn play src with
          | some d => .next (poisonRead (holderId d) d i.key s)
          | none =>
            let s := memErrs errs (some i.key) s
            if (s.runOn p).map Inst.key ≠ some i.key then .next s
            else
              let data := s.playBytes play f.src (64 * f.len)
              let s := askBlocks p i.part play (Fin.ofNat 3 (1 + f.cmp.1)) (src.map (fun a => (a, false)) ++ dst.map fun a => (a, true))
                (playWrite play f.dst data s)
              let s := s.modInst i.key fun i => { i with xfers := (f.src, f.dst, f.len) :: i.xfers }
              let tr := if s.forme.tracing then some (xferTrace w (s.pressCycle - s.cue.b * s.ident.mhz / 400)) else none
              .next (meetBarrier i (s.modPress p fun r => issued s.pressCycle f.sth idx (pushTrace tr { r with
                comps := vmod r.comps f.cmp fun _ => some w, compAt := vmod r.compAt f.cmp fun _ => s.now })))

/-- XFER_COMPLETE: every block has been written and acknowledged; the compositor is free. -/
def execXferComplete (t : Nat) (p : Fin 16) (comp : Fin 2) (s : State) : Host.Outcome State Fault Refusal :=
  let s := s.at t
  if (((s.press.get p).comps.get comp).filter fun w => w ≠ 0).isNone || s.moving p (Fin.ofNat 3 (1 + comp.1)) then .next s
  else
    let s := s.modPress p fun r => wakeHands s.pressCycle (fun w => w = .queueFull (2 + comp.1) ∨ w = .trackers) { r with
      comps := vmod r.comps comp fun _ => none, last := s.pressCycle }
    .next s

/-- A compositor's micro-operation has completed no block for 50 µs (R244). -/
def State.compStuck (s : State) (p : Fin 16) (comp : Fin 2) : Bool :=
  ((s.press.get p).comps.get comp).isSome && decide ((s.press.get p).compAt.get comp + us 50 ≤ s.now)

/-- COMPOSITOR_TIMEOUT: event 0x0460, the scene is killed and runs elsewhere, and the press is classified by its proof pass. -/
def execCompositorTimeout (t : Nat) (p : Fin 16) (comp : Fin 2) (s : State) : Host.Outcome State Fault Refusal :=
  let s := s.at t
  match (if s.compStuck p comp then s.runOn p else none) with
  | none => .next s
  | some i =>
    let s := killElsewhere 9 [p] i.key (logEvent 0x0460 (pressId p) comp.1 s)
    .next (suspectUnit 0 (.press p) s)

end Sys2Proof.Machine
end

