-- ==== Sys2Proof/Machine/Units.lean ====
section
/-! DEFINITION. Units that rehearse, fail, reset and are re-rigged (R48 to R50, R360 to R371, R456, R457, R471). -/

namespace Sys2Proof.Machine

/-! ### Units without a state register (R366, R367) -/

/-- Place of a unit without a state register among the rehearsal ages. -/
def rehIdx : RehUnit → Option (Fin 13)
  | .unit _ => none
  | .cluster k => some ⟨k.1, by omega⟩
  | .decoder => some 4
  | .ctl .stageManager => some 11
  | .ctl .comparator => some 12
  | .ctl .imposer => some 5
  | .ctl .security => some 6
  | .ctl .timeBase => some 7
  | .ctl .governor => some 8
  | .ctl .hostPort => some 9
  | .ctl .ufsHost => some 10

/-- The units without a state register that R363 and R471 list, by their identifiers. -/
def otherUnits : List RehUnit :=
  (List.finRange 4).map .cluster ++ [.decoder, .ctl .ufsHost, .ctl .hostPort, .ctl .stageManager, .ctl .comparator, .ctl .imposer, .ctl .security,
    .ctl .governor, .ctl .timeBase]

/-- A declared stream of a port. -/
def State.declares (s : State) (n : Fin 20) : Bool := s.forme.streams.any fun x => (x.map Stream.portIdx) = some n.1

/-- Ports that a cluster or the decoder serves, ascending (R366). -/
def State.served (s : State) (u : RehUnit) : List (Fin 20) :=
  match u with
  | .cluster k => (List.finRange 20).filter fun n => if n.1 < 16 then n.1 / 4 = k.1 else n.1 - 16 = k.1
  | .decoder => (List.finRange 20).filter fun n => s.forme.streams.any fun x =>
      match x with
      | some c => decide (2 ≤ c.kind ∧ c.portIdx = n.1)
      | none => false
  | _ => []

/-- A unit fails: a strike, the ports a cluster or the decoder serves struck with cause 6, or a device-level fault (R366, R367) (DEDUCED,
assumption 49). -/
def failUnit (cause : Nat) (u : RehUnit) (s : State) : State :=
  match u with
  | .unit v => strike cause v s
  | .cluster k => (s.served (.cluster k)).foldl (fun s n => strike 6 (.port n) s) s
  | .decoder => (s.served .decoder).foldl (fun s n => strike 6 (.port n) s) s
  | .ctl c => deviceFault 5 (ctlId c) s

/-! ### Group resets (R360, R456, R457) -/

/-- Trackers that a unit holds. -/
def State.holds (s : State) (u : UnitId) : Bool :=
  s.mem.trackers.any fun t => match u with
    | .press p => decide (t.press = some p)
    | .stack n => decide (t.stack = some n)
    | _ => false

/-- What a press loses in its reset group; the trace ring survives (R364). -/
def Press.cleared (p : Press) : Press := { Press.atReset with trace := p.trace, traced := p.traced }

/-- A stream's frame, packets and reassembly in progress are lost. -/
def StreamRt.cleared (r : StreamRt) : StreamRt :=
  { StreamRt.fresh with
    lossFrom := r.lossFrom, lost := r.lost, returnedAt := r.returnedAt, byRig := r.byRig, samples := r.samples
    rotNum := r.rotNum, lastId := r.lastId }

/-- Change every declared stream of a port. -/
def modPortStreams (n : Fin 20) (f : StreamRt → StreamRt) (s : State) : State :=
  { s with ing := { s.ing with streams := Vector.ofFn fun i =>
      if ((s.forme.streams.getD i.1 none).map Stream.portIdx) = some n.1 then f (s.ing.streams.get i) else s.ing.streams.get i } }

/-- Reset a unit's group alone: its requests, its caches, what it was doing, and the blocks on its crossings (R360, R457); a stack keeps its
contents. -/
def resetGroup (u : UnitId) (s : State) : State :=
  let s := s.modUnit u fun r => { r with wasReset := true }
  let s := { s with mem := { s.mem with hops := lmod (fun h => h.recv = unitId u ∨ h.send = unitId u) (fun h => { h with resends := [] }) s.mem.hops } }
  match u with
  | .press p =>
    let s := s.modPress p Press.cleared
    { s with mem := { s.mem with
        trackers := s.mem.trackers.filter fun t => t.press != some p
        prefetch := s.mem.prefetch.filter fun e => e.1 != p
        tcache := s.mem.tcache.filter fun e => e.1 != p
        blocks := s.mem.blocks.filter fun e => e.1 != p
        split := vmod s.mem.split p fun _ => 8192
        drops := (s.mem.drops.map fun d => { d with presses := d.presses.filter fun q => q != p }).filter fun d => d.presses ≠ [] } }
  | .stack n => { s with mem := { s.mem with trackers := s.mem.trackers.filter fun t => t.stack != some n } }
  | .port n => modPortStreams n StreamRt.cleared s
  | _ => s

/-- UNIT_GROUP_RESET: after a strike, when the unit's trackers have freed or 45 µs have passed. -/
def execUnitGroupReset (t : Nat) (u : UnitId) (s : State) : Host.Outcome State Fault Refusal :=
  let s := s.at t
  let r := s.unit u
  .next (if decide (r.mode = .struck ∨ r.mode = .retired) && !r.wasReset && decide (r.attempts = 0) &&
      (!s.holds u || decide (r.struckAt + us 45 ≤ s.now)) then resetGroup u s else s)

/-! ### Re-rig attempts (R362, R363) -/

/-- The checks of a unit's kind, in order. -/
def rigChecks : UnitId → List RigCheck
  | .press _ => [.proof, .rehearsal]
  | .core _ => [.proof, .rehearsal]
  | .umem => [.rehearsal]
  | .stack _ => [.rehearsal, .third]
  | .sector _ => [.rehearsal, .proof]
  | .port _ => [.rehearsal, .third]

/-- RE_RIG_ATTEMPT: event 0x0803 with the attempt's number; none starts after a device-level fault (R368). -/
def execReRigAttempt (t : Nat) (u : UnitId) (s : State) : Host.Outcome State Fault Refusal :=
  let s := s.at t
  let r := s.unit u
  .next (if decide (r.mode = .struck) && r.wasReset && !s.dev.faultN then
      logEvent 0x0803 (unitId u) (r.attempts.toNat + 1)
        ((s.modUnit u fun r => { r with mode := .reRigging, checks := rigChecks u, placed := false }))
    else s)

/-- A complete rehearsal restarts the 3,000-cue bound (R50, R363): the boundary that ends its cue still counts none (R365's example); a unit
that has reached the bound is struck at the next boundary all the same. -/
def rehearsed (u : UnitId) (s : State) : State := s.modUnit u fun r => { r with age := 0, rehearsed := true }

/-- The third check of a port begins: its streams wait for their samples (R363). -/
def beginThird (u : UnitId) (s : State) : State :=
  match u with
  | .port n => if (s.unit u).checks.head? = some .third then modPortStreams n (fun r => { r with rigProofs := 0, rigFrom := s.now }) s else s
  | _ => s

/-- The check at hand has passed: the next one follows, and after the last event 0x0804 places the re-rig. -/
def passCheck (u : UnitId) (s : State) : State :=
  let s := if (s.unit u).checks.head? = some .rehearsal then rehearsed u s else s
  let s := s.modUnit u fun r => { r with checks := r.checks.drop 1 }
  let s := match u with
    | .port n => if s.declares n then s else s.modUnit u fun r => { r with checks := [] }
    | _ => s
  let s := beginThird u s
  if (s.unit u).checks = [] then (logEvent 0x0804 (unitId u) 0 s).modUnit u fun r => { r with placed := true } else s

/-- RE_RIG_CHECK_RESULT; a sector's item 8 and a port's samples decide their checks themselves (R363). -/
def execReRigCheckResult (t : Nat) (u : UnitId) (check : RigCheck) (ok : Bool) (s : State) : Host.Outcome State Fault Refusal :=
  let s := s.at t
  let r := s.unit u
  let own := match u, check with
    | .sector _, .proof => true
    | .port _, .third => true
    | _, _ => false
  .next (if r.mode = .reRigging ∧ r.checks.head? = some check ∧ own = false then
      (if ok then passCheck u s else failAttempt u (rigDetail check) s)
    else s)

/-- A declared stream of a port has delivered no sample within 4 × its nominal period (R363). -/
def State.sampleLate (s : State) (n : Fin 20) : Bool :=
  (List.finRange 32).any fun i => match s.forme.streams.getD i.1 none with
    | some c => decide (c.portIdx = n.1) && decide ((s.ing.streams.get i).rigFrom + us (4 * c.period) ≤ s.now)
    | none => false

/-- PORT_RERIG_SAMPLE_TIMEOUT: the attempt fails with detail 2. -/
def execPortRerigSampleTimeout (t : Nat) (n : Fin 20) (s : State) : Host.Outcome State Fault Refusal :=
  let s := s.at t
  let r := s.unit (.port n)
  .next (if r.mode = .reRigging ∧ r.checks.head? = some .third ∧ s.sampleLate n = true then failAttempt (.port n) 2 s else s)

/-- RE_RIG_WAIT_EXPIRY: 1,000 cues after a failed attempt the group is reset again. -/
def execReRigWaitExpiry (t : Nat) (u : UnitId) (s : State) : Host.Outcome State Fault Refusal :=
  let s := s.at t
  let r := s.unit u
  .next (if r.mode = .struck ∧ r.attempts ≠ 0 ∧ r.waitFrom + 1000 ≤ s.cue.count.toNat then resetGroup u s else s)

/-! ### Rehearsal slices (R48, R49, R369, R370) -/

/-- The next boundary where it is known ahead: the internal generator's, and the fallback after an early edge (R34, R37). -/
def State.boundaryDue (s : State) : Option Nat :=
  let p := s.forme.period
  if s.forme.source = 1 then (if s.cue.ignore then some (400 * p) else none)
  else if s.forme.source = 2 then some (400 * p)
  else some (alignedNext s - s.cue.b)

/-- Starts of the reserved windows that a rehearsing unit yields to, the next proof pass among them where its instant is known (R41, R48); a
unit under re-rig yields to none (R362). -/
def State.windowsOf (s : State) (u : RehUnit) : List Nat :=
  match u with
  | .unit (.press p) =>
    if s.inServ (.press p) then ((s.pressWindows p).map Prod.fst).drop 1 ++ s.boundaryDue.toList else []
  | .unit (.core k) => if s.inServ (.core k) then (s.coreWindows.map Prod.fst).drop 1 ++ s.boundaryDue.toList else []
  | _ => []

/-- A reserved window begins on the unit within 10 µs (R48). -/
def State.windowDue (s : State) (u : RehUnit) : Bool :=
  s.cue.running && (s.windowsOf u).any fun a => decide (s.off ≤ a ∧ a ≤ s.off + us 10)

/-- REHEARSAL_SUSPEND_REQUEST: a running slice is asked to suspend at its next checkpoint. -/
def execRehearsalSuspendRequest (t : Nat) (u : RehUnit) (s : State) : Host.Outcome State Fault Refusal :=
  let s := s.at t
  .next (if s.windowDue u then
    { s with sched := { s.sched with slices := lmod (fun x => x.unit = u) (fun x => { x with suspending := true }) s.sched.slices } }
    else s)

/-- A unit that rehearses in slices of at most 3.5 µs (R471). -/
def briefSlices : RehUnit → Bool
  | .unit (.port _) => true
  | .cluster _ => true
  | .decoder => true
  | _ => false

/-- R_u of a unit that rehearses in idle cycles, in cycles: at most 2 ms for a port, a cluster and the decoder, 10 ms for a unit of R367
(R471). -/
def State.idleRu (s : State) (u : RehUnit) : Nat :=
  us (min (((s.forme.rehIdle.find? fun e => e.1 = u).map Prod.snd).getD 0) (if briefSlices u then 2000 else 10000))

/-- A slice passes its checkpoint or ends the rehearsal, which is complete once its slices have taken R_u of the unit's time (R471). -/
def sliceOkay (u : RehUnit) (complete : Bool) (worked : Nat) (s : State) : State :=
  if !complete || decide (s.progress u + worked < s.idleRu u) then setProgress u (s.progress u + worked) s
  else
    let s := setProgress u 0 s
    match u with
    | .unit v =>
      if (s.unit v).mode = .reRigging then
        (if (s.unit v).checks.head? = some .rehearsal then passCheck v s else s)
      else rehearsed v s
    | o =>
      match rehIdx o with
      | some i => { s with sched := { s.sched with ctlAge := vmod s.sched.ctlAge i fun _ => 0, ctlRehearsed := i :: s.sched.ctlRehearsed } }
      | none => s

/-- A slice failed: a unit in service is struck with cause 6 after event 0x0807; within an attempt only the attempt fails. -/
def sliceFailed (u : RehUnit) (slice : Nat) (s : State) : State :=
  let s := setProgress u 0 s
  match u with
  | .unit v =>
    if (s.unit v).mode = .reRigging then failAttempt v 1 s
    else strike 6 v (logEvent 0x0807 (unitId v) (slice % 256) s)
  | o => failUnit 6 o (logEvent 0x0807 (rehId o) (slice % 256) s)

/-- REHEARSAL_SLICE_END; a port, a cluster or the decoder has ended its slice within 3.5 µs, and a later end is none (R471). -/
def execRehearsalSliceEnd (t : Nat) (u : RehUnit) (ok complete : Bool) (slice : Nat) (s : State) : Host.Outcome State Fault Refusal :=
  let s := s.at t
  .next (match s.sched.slices.find? fun x => x.unit = u with
    | none => s
    | some x =>
      let s := { s with sched := { s.sched with slices := s.sched.slices.filter fun y => y.unit != u } }
      if briefSlices u && decide (x.at_ + 1400 < s.now) then s
      else if ok then sliceOkay u complete (s.now - x.at_) s
      else sliceFailed u slice s)

end Sys2Proof.Machine
end

