-- ==== Sys2Proof/Machine/Boundary.lean ====
section
/-! DEFINITION. What a cue boundary does: detections and strikes ahead of it, entry to SAFE_HOLD, kills, the record of the boundary,
statistics, state transitions, plans, leaf moves and the instances of the new cue (R34 to R39, R46, R49, R50, R83, R155, R200, R237,
R257, R274 to R286, R305, R323, R343 to R345, R350, R365, R389, R405, R409, R413). -/

namespace Sys2Proof.Machine

/-! ### What safety work rests on -/

/-- A sector that holds pages of the safety partition: what its play maps, its retained buffers, the batch ring, or the system reserve (R323,
condition 4). -/
def State.safetySector (s : State) (n : Fin 16) : Bool :=
  let ring := s.forme.ring.flatMap fun a => devPages { tensor := 0, off := 0, play := 0, dev := a, len := batchSize s.forme.streams }
  decide (n = 0) || (s.forme.plays.any fun p => decide (p.kind = 0) && (s.playMaps p.index (covers (.sector n)) ||
    (s.sched.values.any fun v => decide (v.play = p.index) && (v.bufs.flatMap devPages).any fun d => covers (.sector n) (region d)))) ||
    ring.any fun d => covers (.sector n) (region d)

/-- The cue-complete pair reads (0,1) once a condition among 2 to 6 has failed (R323). -/
def failPair (s : State) : State :=
  { s with cur := { s.cur with complete := if s.cur.complete = .idle then .bad else s.cur.complete } }

/-- The galley need of the safety plan in force. -/
def State.safetyNeed (s : State) : Nat :=
  (((s.forme.plays.find? fun p => p.kind = 0).bind fun p => planFor p.low s.safetyPresses.length).map PlanRep.galleyNeed).getD 0

/-- The first cause of R344 that holds (DESIGN CHOICE, assumption 46). -/
def State.holdCause (s : State) : Option Nat :=
  if s.safetyPresses.length < ((s.forme.safety.map Partition.min).getD 0) then some 1
  else if s.understudyLost then some 2
  else if s.galleyLeft < s.safetyNeed then some 3
  else if s.sched.unmapped.any (fun i => (s.play? i).any fun p => decide (p.kind ≤ 1)) then some 4
  else if s.dev.faultN then some 5
  else none

/-- Some unit state register reads STRUCK, RE_RIGGING or RETIRED (R361). -/
def State.anyStruck (s : State) : Bool := allUnits.any fun u => !s.inServ u

/-! ### Ahead of the boundary, at rank 1 -/

/-- A cue counts toward the comparator's fault limit; two within 16 cues are a device-level fault (R474). -/
def countFaultCue (cue : Nat) (s : State) : State :=
  let old := s.cur.faultCues.filter fun c => decide (cue < c + 16)
  if cue ∈ old then s
  else
    let s := { s with cur := { s.cur with faultCues := cue :: old } }
    if old = [] then s else deviceFault 3 (ctlId .comparator) s

/-- A non-complementary code or one out of place has been seen (CURTAIN_STATUS.RAIL_FAULT). -/
def railSeen (s : State) : State := { s with cur := { s.cur with railFault := true } }

/-- A pair that is not idle at the boundary (R332, R335 causes 0x03 and 0x14), the stage manager's first (R310). -/
def pairDetections (obs : BoundaryObs) (s : State) : State :=
  let s := if obs.completeBusy then curtainStop 0x14 idStage (logEvent 0x0704 idStage 2 (railSeen s)) else s
  if obs.verdictBusy then
    countFaultCue (s.cue.count.toNat + 1) (curtainStop 3 idCurtain (logEvent 0x0704 idCurtain 1 (railSeen s))) else s

/-- A unit without a state register that is overdue with its rehearsal fails. -/
def failOverdue (s : State) (u : RehUnit) : State :=
  match rehIdx u with
  | some i =>
    if i ∈ s.sched.ctlOverdue then
      failUnit 5 u { s with sched := { s.sched with ctlOverdue := s.sched.ctlOverdue.filter fun j => j != i } }
    else s
  | none => s

/-- Units overdue with their rehearsal are struck ahead of the boundary (R50, R366, R367): the detections of the control units first, then the
strikes, each by the identifier of its source (R310). -/
def strikeOverdue (s : State) : State :=
  let s := (otherUnits.drop 5).foldl failOverdue s
  let s := (sortBy (fun u => (unitId u).toNat) (allUnits.filter fun u => (s.unit u).overdue)).foldl (fun s u => strike 5 u s) s
  (otherUnits.take 5).foldl failOverdue s

/-- A re-rig that was placed counts: the unit is in service (R365); a port's streams re-enter (R93). -/
def returnUnit (stamp : Nat) (u : UnitId) (s : State) : State :=
  let absent := match u with
    | .port n => !s.declares n
    | _ => false
  let s := s.modUnit u fun r => { r with
    mode := if absent then .absent else .inService, placed := false, proof := none, proofPrev := none, proofFail := [] }
  match u with
  | .port n => modPortStreams n (fun r => { r with lost := false, returning := false, returnedAt := stamp, byRig := true, lossFrom := s.now }) s
  | _ => s

def returnUnits (stamp : Nat) (s : State) : State :=
  (allUnits.filter fun u => (s.unit u).placed && decide ((s.unit u).mode = .reRigging)).foldl (fun s u => returnUnit stamp u s) s

/-- A classification ends unresolved (R343). -/
def unresolved (detail : Nat) (c : Classif) (s : State) : State :=
  endClass c.cue (setClass c.cue 7 (logEvent 0x0709 idCurtain detail s))

/-- Entry to SAFE_HOLD with its cause (R344). -/
def enterHold (cause : Nat) (s : State) : State :=
  let s := curtainStop 0x11 idStage (setState .safeHold (logEvent 0x070A idStage cause s))
  s.cls.foldl (fun s c => unresolved 3 c s) s

/-- SAFE_HOLD from STANDBY, RUNNING or DEGRADED (R24, R344). -/
def holdAtBoundary (s : State) : State :=
  if s.dev.st = .safeHold then s
  else
    match s.holdCause with
    | some c => enterHold c s
    | none => s

/-! ### The boundary itself -/

/-- Every run and every rehearsal slice stops; runs are killed with cause 1 (R46, R49), but for the last boundary before MAINTENANCE, where
they end without a kill (R413). -/
def stopAtBoundary (s : State) : State :=
  let s := if s.dev.maint = [] ∨ s.dev.faultN = true then killWhere 1 (fun _ => true) s else s
  s.sched.slices.foldl (fun s x => suspendSlice x s) s

/-- The boundary takes its place: cue number, source, mark and record 0x0601 (R39, R40, R312). -/
def placeBoundary (b src : Nat) (s : State) : State :=
  let n := (sat64 s.cue.count 1).1
  logEvent 0x0601 idStage src { s with
    cue := { s.cue with
      count := n, source := BitVec.ofNat 2 src, mark := 0, running := true, b := b, stamp := stampOf (s.tb.ns b)
      stampPrev := s.cue.stamp, ignore := false, late := false, invalid := false, pubCause := 0, perEnded := false
      undEnded := false, compStarted := false, compDone := false, published := false, slotMask := 0 }
    log := { s.log with once := [] }
    cur := { s.cur with latch := false, verdict := .idle, complete := .idle, test := false, lastPulse := s.now }
    mem := { s.mem with doublesCue := 0 } }

/-! ### Statistics of the cue that ended (R265, R283 to R286, R291) -/

def PartRt.slowdown (r : PartRt) : Nat := if r.estimate = 0 then 0 else min 65535 (1000 * r.measured / r.estimate)

/-- Slowdown that a partition's parts measured on a press. -/
def PartRt.onPress (r : PartRt) (p : Fin 16) : Nat :=
  match r.pressSlow.find? fun e => e.1 = p with
  | some (_, m, e) => if e = 0 then 0 else 1000 * m / e
  | none => 0

/-- The figures of one partition take those of the cue that ended; a move is due after eight cues over the threshold. -/
def PartRt.close (r : PartRt) (c : Partition) (pages : Nat) : PartRt × Bool :=
  let slow := r.slowdown
  let above := decide (c.threshold ≠ 0 ∧ c.threshold < slow)
  let run := if above then r.overRun + 1 else 0
  let move := decide (8 ≤ run) && decide (c.kind = 2 ∨ c.kind = 3)
  ({ r with
      last := slow, hist := (slow :: r.hist).take 256, overThr := above, overRun := if move then 0 else run
      pref := if move then sortBy (fun p => r.onPress p) (sortBy (fun p => p.1) r.pref) else r.pref
      pressSlow := if move ∨ above = false then [] else r.pressSlow
      cycles := BitVec.ofNat 64 (satNat r.curCycles 64)
      ovf := if 2 ^ 64 ≤ r.curCycles then r.ovf ||| 1#7 else r.ovf
      peak := r.pages, pages := pages, curCycles := 0, measured := 0, estimate := 0, waitedCue := false, capUsed := [], kills4 := 0 },
    move)

/-- Close the statistics of partition `i`: events 0x0505 and 0x0506; the partitions whose work moves. -/
def closePart (s : State) (moved : List Nat) (i : Fin 8) : State × List Nat :=
  match s.partCfg i.1 with
  | none => (s, moved)
  | some c =>
    let r := s.part.get i
    let (r', move) := r.close c (s.galleyPages i.1)
    let s := { s with part := vmod s.part i fun _ => r' }
    let s := if 2 ^ 64 ≤ r.curCycles ∧ r.ovf.getLsbD 0 = false then logEvent 0x0505 idImposer 4 s else s
    let s := if r'.overThr then logEvent 0x0506 idImposer i.1 s else s
    (s, if move then i.1 :: moved else moved)

def closeParts (s : State) : State × List Nat :=
  let (s, moved) := (List.finRange 8).foldl (fun a i => closePart a.1 a.2 i) (s, [])
  ({ s with gov := { s.gov with usedCycles := [] } }, moved)

/-! ### Rehearsal ages (R50) -/

/-- Every unit whose full rehearsal did not end in the cue that ended is one cue older; event 0x0121 at 2,500 cues and 0x0122 at 3,000 for units
in service. -/
def ageUnit (s : State) (u : UnitId) : State :=
  let r := s.unit u
  let a := if r.rehearsed then r.age else sat12 r.age
  let s := s.modUnit u fun r => { r with age := a, rehearsed := false }
  if !s.inServ u || r.rehearsed then s
  else if a = 2500 then logEvent 0x0121 (unitId u) 0 s
  else if a = 3000 then (logEvent 0x0122 (unitId u) 0 s).modUnit u fun r => { r with overdue := true }
  else s

def ageOther (s : State) (u : RehUnit) : State :=
  match rehIdx u with
  | none => s
  | some i =>
    let done := decide (i ∈ s.sched.ctlRehearsed)
    let a := if done then s.sched.ctlAge.get i else sat12 (s.sched.ctlAge.get i)
    let s := { s with sched := { s.sched with
      ctlAge := vmod s.sched.ctlAge i fun _ => a, ctlRehearsed := s.sched.ctlRehearsed.filter fun j => j != i } }
    if done then s
    else if a = 2500 then logEvent 0x0121 (rehId u) 0 s
    else if a = 3000 then
      logEvent 0x0122 (rehId u) 0 { s with sched := { s.sched with ctlOverdue := i :: s.sched.ctlOverdue } }
    else s

def ageAll (s : State) : State := otherUnits.foldl ageOther (allUnits.foldl ageUnit s)

/-- The first boundary counts no cue: the rehearsals of LOADING lie behind it (R38, R407). -/
def startAges (s : State) : State :=
  { s with units := s.units.map fun r => { r with rehearsed := false }, sched := { s.sched with ctlRehearsed := [] } }

/-! ### State transitions (R23, R24, R361, R405, R409) -/

/-- Both last proof passes of every press and core in service passed. -/
def State.proofsPassed (s : State) : Bool :=
  (allPresses.map UnitId.press ++ allCores.map UnitId.core).all fun u =>
    !s.inServ u || (decide ((s.unit u).proof = some true) && decide ((s.unit u).proofPrev = some true))

/-- RUNNING, or DEGRADED while a unit is out of service. -/
def State.runState (s : State) : DevState := if s.anyStruck then .degraded else .running

/-- The counter advances when a forme with ADVANCE leaves STANDBY for RUNNING or DEGRADED (R405). -/
def advanceFuse (s : State) : State :=
  if s.forme.advance && decide (s.fuses.rollback < s.forme.rollback) then
    { s with fuses := { s.fuses with burns := s.fuses.burns ++ [.advance s.forme.rollback] } }
  else s

def transition (s : State) : State :=
  match s.dev.st with
  | .standby =>
    if s.proofsPassed && (decide (s.forme.startMode = 0) || s.dev.startPlaced) then advanceFuse (setState s.runState s) else s
  | .running => setState s.runState s
  | .degraded => setState s.runState s
  | .safeHold =>
    if s.holdCause.isNone then
      let s := setState s.runState s
      logEvent 0x070B idStage s.dev.st.code s
    else s
  | _ => s

/-- A new safety count shows in event 0x0503, and the plan for it applies from here (R274, R275). -/
def takePlan (first : Bool) (s : State) : State :=
  let ps := s.safetyPresses
  let s := if !first && decide (ps.length ≠ s.sched.planPresses.length) then logEvent 0x0503 idImposer ps.length s else s
  { s with sched := { s.sched with planPresses := ps, planCores := s.cores } }

/-- A curtain test applies to this cue (R350, R351). -/
def applyTest (s : State) : State :=
  if s.cur.testPending then
    let s := { s with cur := { s.cur with testPending := false, test := true } }
    logEvent 0x070C idCurtain 0 (detect 0x12 idCurtain s)
  else s

/-! ### Streams that return (R93) -/

/-- A lost stream of a port in service re-enters; event 0x0241 for it and for the streams of a port that was re-rigged. -/
def returnStream (stamp : Nat) (s : State) (i : Fin 32) : State :=
  match s.forme.streams.getD i.1 none with
  | none => s
  | some c =>
    let r := s.ing.streams.get i
    let port : UnitId := .port (Fin.ofNat 20 c.portIdx)
    if r.byRig && decide (r.returnedAt = stamp) then logEvent 0x0241 (unitId port) i.1 s
    else if r.lost && r.returning && decide ((s.unit port).mode = .inService ∨ (s.unit port).mode = .lost) then
      let s := { s with ing := { s.ing with streams := vmod s.ing.streams i fun r =>
        { r with lost := false, returning := false, returnedAt := stamp, byRig := false } } }
      let s := s.modUnit port fun x => if x.mode = .lost then { x with mode := .inService } else x
      logEvent 0x0241 (unitId port) i.1 s
    else s

def returnStreams (s : State) : State := (List.finRange 32).foldl (returnStream s.cue.stamp) s

/-- The loss clocks start at the first boundary (R92). -/
def startLossClocks (s : State) : State :=
  { s with ing := { s.ing with streams := s.ing.streams.map fun r => { r with lossFrom := s.now } } }

/-! ### Digests and retention (R84, R305, R389) -/

/-- DIG_PLAY of a play of kind 0, 1 or 3 at the boundary that ends its cue. -/
def closeDigest (invalid : Bool) (s : State) (p : Play) : State :=
  let run := s.cue.count.toNat
  let mine := s.sched.insts.filter fun i => decide (i.key.play = p.index) && decide (i.key.run = run) && !i.key.rep
  if p.kind = 2 ∨ mine = [] then s
  else
    setDigPlay p.index
      { digest := s.runDigest p.index run, run := BitVec.ofNat 32 run, complete := mine.all fun i => decide (i.st = .committed)
        invalid := invalid && decide (p.kind ≤ 1) } s

def closeDigests (s : State) : State := s.forme.plays.foldl (closeDigest s.cue.invalid) s

/-- An instance is kept at the boundary that begins cue `m`. -/
def State.keepsInst (s : State) (m : Nat) (i : Inst) : Bool :=
  if i.key.rep then s.cls.any fun c => decide (c.cue = i.key.run)
  else if i.kind = kindMove then decide (i.st ≠ .committed)
  else if i.kind = 2 then s.cog.steps.any fun st => decide (st.play = i.key.play) && decide (st.no = i.key.run)
  else decide (m ≤ i.key.run + 1)

/-- The earliest cue before whose boundary a run that may still read needs the state and link values: the runs of cue m − 1 and their repeats may
run in cue m, and a step's scene that was killed runs again on what it read (R304, R305). -/
def State.valueLimit (s : State) (m : Nat) : Nat :=
  ((s.sched.insts.filter fun i => decide (i.kind = 2) && (decide (i.st = .running) || (i.wasKilled && decide (i.st = .ready ∨ i.st = .killed)))).map
    Inst.cue).foldl min (m - 1)

/-- A run of a play that may still commit. -/
def State.runOpen (s : State) (m : Nat) (v : Value) : Bool :=
  s.sched.insts.any fun i => decide (i.key.play = v.play) && decide (i.key.run = v.run) && (i.key.rep == v.rep) && decide (i.kind ≠ kindMove) &&
    s.keepsInst m i && decide (i.st ≠ .committed ∧ i.st ≠ .abandoned)

/-- A value is freed: a repeat's whose classification has ended; an intermediate of an older run; an output whose newer whole value stands; and a
state or link value that a newer whole one has replaced for every run that may still read (R155, R282, R305) (DEDUCED, assumption 47). -/
def State.staleValue (s : State) (m : Nat) (v : Value) : Bool :=
  let kind := s.tensorKind v.play v.tensor
  let cog := ((s.play? v.play).map Play.kind).getD 2 = 2
  let kept := decide (kind = 5) || s.forme.links.any fun l => decide (l.producer = v.play ∧ l.ptensor = v.tensor)
  let newer := fun (w : Value) => decide (w.play = v.play) && decide (w.tensor = v.tensor) && !w.rep && w.whole && precedes v.serial w.serial
  if v.rep then !(s.cls.any fun c => decide (c.cue = v.run))
  else if kind = 0 ∨ kind = 1 then !cog && decide (v.run + 1 < m)
  else if kept && v.whole then s.sched.values.any fun w => newer w && decide (w.cue < s.valueLimit m)
  else if kept then !s.runOpen m v
  else decide (v.cue + 1 < m) && s.sched.values.any newer

/-- A batch is retained for the cue that follows its own (R84), and for a step's scene that may run again on it (R304). -/
def State.batchKept (s : State) (m : Nat) (b : Batch) : Bool :=
  decide (m ≤ b.cue + 1) || s.sched.insts.any fun i =>
    decide (i.kind = 2) && decide (i.st ≠ .committed ∧ i.st ≠ .abandoned) && decide (i.batch = b.cue)

/-- What no rule retains any longer is forgotten; an instance of kind 3 that has not committed by then is abandoned. -/
def retire (s : State) : State :=
  let m := s.cue.count.toNat
  let late := s.sched.insts.filter fun i => decide (i.kind = 3) && !i.key.rep && !s.keepsInst m i &&
    decide (i.st = .waiting ∨ i.st = .ready ∨ i.st = .killed)
  let s := late.foldl (fun s i => abandonInst 1 i s) s
  let s := forgetValues (s.staleValue m) s
  { s with
    sched := { s.sched with
      insts := s.sched.insts.filter fun i => s.keepsInst m i
      dying := s.sched.dying.filter fun d => d.ids.any fun n => s.mem.trackers.any fun t => decide (t.id = n) }
    cog := { s.cog with heat := s.cog.heat.filter fun e => decide (m ≤ e.2.2 + 16)
                        moves := s.cog.moves.filter fun e => s.sched.insts.any fun i => decide (i.kind = kindMove) && decide (i.key.scene = moveBase + e.1) &&
                          decide (i.st ≠ .committed) }
    ing := { s.ing with batches := s.ing.batches.filter fun b => s.batchKept m b } }

/-! ### Struck sectors and poisoned leaves (R237, R257, R259) -/

/-- A device address lies in a galley sector out of service. -/
def State.lostSector (s : State) (d : Nat) : Bool :=
  match region d with
  | .galley n => !s.inServ (.sector n)
  | _ => false

/-- A buffer's part that lies in a device page follows it, apart from the parts in other pages. -/
def movedBuf (b : BufReq) (old new : Nat) : List BufReq :=
  if old ∉ devPages b then [b]
  else (devPages b).map fun d =>
    let lo := max b.dev d
    { b with off := b.off + (lo - b.dev), play := b.play + (lo - b.dev), dev := if d = old then new + lo % 2 ^ 21 else lo
             len := min (b.dev + b.len) (d + 2 ^ 21) - lo }

/-- A device page's bytes and poison move to another page. -/
def movePage (old new : Nat) (s : State) : State :=
  { s with
    mem := { s.mem with
      cells := (s.mem.cells.filter fun c => decide (old ≤ c.1 ∧ c.1 < old + 2 ^ 21)).foldl (fun m c => cellWrite m (new + (c.1 - old)) c.2) s.mem.cells
      poison := s.mem.poison ++ (s.mem.poison.filter fun a => decide (old ≤ a ∧ a < old + 2 ^ 21)).map fun a => new + (a - old) }
    sched := { s.sched with values := s.sched.values.map fun v => { v with bufs := v.bufs.flatMap fun b => movedBuf b old new } } }

/-- A translation entry that names device page `n` in place of its own (R229). -/
def pteTo (e : W128) (n : Nat) : W128 := (e &&& ~~~(BitVec.ofNat 128 (2 ^ 91 - 2 ^ 64))) ||| BitVec.ofNat 128 (n / 2 ^ 21 * 2 ^ 64)

/-- A page of a struck sector: a constant's waits for its restoration; another is placed anew with its contents, and is lost where no page is
free (DEDUCED, assumption 133). -/
def rePlace (s : State) (e : (Nat × Nat) × W128) : State :=
  if s.forme.consts.any fun c => decide (c.1 = e.1) then queueRestore e.1.1 e.1.2 s
  else
    let d := pteDev e.2
    match s.freshPage d with
    | none => forgetValues (fun v => v.bufs.any fun b => decide (d ∈ devPages b)) (unmapPage e.1.1 e.1.2 s)
    | some n => setPte e.1.1 e.1.2 (pteTo e.2 n) (startDrop e.1.1 e.1.2 d (movePage d n s))

/-- The lowest run of `n` unused galley pages. -/
def State.freshRun (s : State) (n : Nat) : Option Nat :=
  ((List.range 192).map fun k => galleyBase + k * 2 ^ 21).find? fun d => (List.range n).all fun j =>
    s.galleyPage (d + j * 2 ^ 21) && s.pageUnused (d + j * 2 ^ 21)

/-- Pages moved, in order, to the pages from device address `d` on. -/
def movePages (old : List Nat) (d : Nat) (s : State) : State :=
  old.zipIdx.foldl (fun s e => movePage e.1 (d + e.2 * 2 ^ 21) s) s

/-- The free run of pages that stands in for pages of which a struck sector holds one (none: they stay). -/
def State.newHouse (old : List Nat) (s : State) : Option Nat :=
  if old.any s.lostSector then s.freshRun old.length else none

/-- The new address of what lies at `a` in the pages `old`, and the state with those pages moved. -/
def reHousePages (a : Nat) (old : List Nat) (s : State) : Nat × State :=
  match s.newHouse old with
  | none => (a, s)
  | some d => (d + a % 2 ^ 21, movePages old d s)

/-- Where `len` bytes of a struck sector's pages are placed anew, with their contents; they stay where no run of pages is free (DEDUCED, assumption
133). -/
def reHouse (a len : Nat) (s : State) : Nat × State :=
  reHousePages a (devPages { tensor := 0, off := 0, play := 0, dev := a, len := len }) s

/-- The buffers of the batch ring, and the copy containers, that touch a struck sector (R237). -/
def reHouseRing (s : State) : State :=
  (List.range s.forme.ring.length).foldl (fun s k =>
    let r := reHouse (s.forme.ring.getD k 0) (batchSize s.forme.streams) s
    { r.2 with forme := { r.2.forme with ring := r.2.forme.ring.set k r.1 } }) s

def reHouseCopies (s : State) : State :=
  s.forme.copies.foldl (fun s c =>
    let r := reHouse c.2 (s.copyLen c.1) s
    { r.2 with forme := { r.2.forme with copies := lmod (fun e => e.1 = c.1) (fun e => (e.1, r.1)) r.2.forme.copies } }) s

/-- The pages of struck sectors are placed anew, and their galley cache pages dropped with the partitions' lines (R237). -/
def restorePages (s : State) : State :=
  let gone := (s.mem.gpages.filter fun e => s.lostSector e.2).map Prod.fst
  let s := if gone = [] then s else { s with mem := { s.mem with
    gpages := s.mem.gpages.filter fun e => !s.lostSector e.2, glines := s.mem.glines.filter fun e => e.1 ∉ gone } }
  let s := reHouseCopies (reHouseRing s)
  (s.mem.l2.filter fun e => pteV e.2 && s.lostSector (pteDev e.2)).foldl rePlace s

/-- Sessions and keeps that name a poisoned leaf are closed and released; event 0x0404. -/
def closePoisoned (s : State) : State :=
  (s.cog.leaves.filter fun l => l.poisoned).foldl (fun s l =>
    let s := (s.cog.sess.filter fun x => decide (x.st ≠ .closed) && decide (x.play = l.play) && decide (l.num ∈ x.leaves)).foldl
      (fun s x => closeSession x s) s
    let s := (s.cog.keeps.filter fun k => k.live && decide (k.play = l.play) && decide (l.num ∈ k.leaves)).foldl (fun s k => releaseKeep k s) s
    let s := match s.leaf? l.play l.num with
      | some x => setLeaf { x with poisoned := false } s
      | none => s
    logEvent 0x0404 idStage 0 s) s

/-! ### Leaf moves (R250, R278) -/

def State.heatOf (s : State) (play leaf : Nat) : Nat := (s.cog.heat.filter fun e => decide (e.1 = play ∧ e.2.1 = leaf)).length

/-- The plays of a partition whose leaves move. -/
def State.movePlays (s : State) (part : Nat) : List Play :=
  s.forme.plays.filter fun p => decide (p.part = part) && p.tensors.any fun t => decide (t.kind = 6)

/-- The F leaves of highest heat of 2 or more among the plays of a partition, as play and leaf. -/
def State.targets (s : State) (ps : List Play) (f : Nat) : List (Nat × Nat) :=
  let live := (s.cog.leaves.filter fun l => ps.any (fun p => decide (p.index = l.play)) && decide (l.st ≠ .reserved) &&
    decide (2 ≤ s.heatOf l.play l.num)).map fun l => (l.play, l.num)
  (sortBy (fun l => s.cog.heat.length - s.heatOf l.1 l.2) (sortBy Prod.snd live)).take f

/-- Moves a partition makes in this cue, out first, and whether more were needed; a leaf may move into a frame that another leaves (DEDUCED,
assumption 44). -/
def State.choose (s : State) (ps : List Play) (f m : Nat) : List (Nat × Nat × Option Nat) × Bool :=
  let mine := (s.cog.dir.filter fun e => ps.any fun p => decide (p.index = e.1)).map fun e => (e.1, e.2.1, entryFrame e.2.2)
  let tgt := s.targets ps f
  let stays := fun (play leaf : Nat) => s.writesLeaf play leaf || s.cog.moves.any fun m => decide (m.2.1 = play ∧ m.2.2.1 = leaf)
  let leave := mine.filter fun e => decide ((e.1, e.2.1) ∉ tgt) && !stays e.1 e.2.1
  let free := ((List.range f).filter fun k => !(mine.any fun e => decide (e.2.2 = k)) && !s.cog.moves.any fun m => decide (m.2.2.2 = some k)) ++
    leave.map fun e => e.2.2
  let ins := (tgt.filter fun l => !(mine.any fun e => decide ((e.1, e.2.1) = l)) && !stays l.1 l.2).zip free
  let all := (leave.map fun e => (e.1, e.2.1, (none : Option Nat))) ++ ins.map fun e => (e.1.1, e.1.2, some e.2)
  (all.take m, decide (m < all.length))

/-- Budget of a part of a move's XFER scene at a column of R271, in cycles: every page from one level to the other (R270). -/
def moveCost (r : Rates) (w bytes : Nat) : Nat :=
  partBudget r 0 [{ op := .stack ((bytes + w - 1) / w) true, after := [] }, { op := .galley ((bytes + w - 1) / w) true, after := [0] }]

/-- The move scenes of one partition join the READY instances; a move of an earlier cue that has not committed counts among the M of this one
(R278). -/
def addMoves (four : Bool) (part : Nat) (s : State) : State :=
  match s.partCfg part, s.movePlays part with
  | some c, p :: ps =>
    let frames := leafFrames s.forme p
    let old := (s.cog.moves.filter fun m => (p :: ps).any fun q => decide (q.index = m.2.1)).length
    let (ms, more) := s.choose (p :: ps) frames ((if four then 4 * c.moves else c.moves) - old)
    let base := (s.cog.moves.map fun m => m.1 + 1).foldl max 0
    let w := max c.width 1
    let inst := fun (e : (Nat × Nat × Option Nat) × Nat) =>
      let q := ((p :: ps).find? fun x => x.index = e.1.1).getD p
      let cost := fun (r : Rates) => moveCost r w (leafBytes q)
      { newInst s q { play := q.index, scene := moveBase + base + e.2, run := s.cue.count.toNat, rep := false, fine := true } .ready (s.sched.ord + e.2) with
        kind := kindMove, part := part
        budget := (cost (budgetRates s.ident.mhz c (maskCount c.mask)) + s.ident.mhz - 1) / s.ident.mhz
        iso := List.replicate w (cost (isoRates s.ident.mhz w)), splits := List.replicate w 8192 }
    let s := { s with
      cog := { s.cog with moves := s.cog.moves ++ ms.zipIdx.map fun e => (base + e.2, e.1) }
      sched := { s.sched with insts := s.sched.insts ++ ms.zipIdx.map inst, ord := s.sched.ord + ms.length } }
    if more then logOnce part 0x0508 idImposer part s else s
  | _, _ => s

/-! ### The new cue's work -/

/-- The imposer's moves at a boundary: event 0x0504 for each partition whose work moves, then its leaf moves (R274, R286). -/
def moveWork (moved : List Nat) (s : State) : State :=
  let s := moved.reverse.foldl (fun s i => logEvent 0x0504 idImposer i s) s
  (List.range 8).foldl (fun s i => if (s.partCfg i).any (fun c => decide (c.kind = 2)) && s.cogState then addMoves (decide (i ∈ moved)) i s else s) s

/-- Perception, understudy and other runs of the new cue are formed (R294, R345). -/
def formRuns (s : State) : State :=
  s.forme.plays.foldl (fun s p =>
    let on := if p.kind ≤ 1 then decide (s.dev.st = .running ∨ s.dev.st = .degraded) else decide (p.kind = 3) && s.cogState
    if on && (decide (p.kind ≤ 1) || decide (p.index ∉ s.sched.blocked)) then formRun p s.cue.count.toNat false s else s) s

/-- Proof results of the cue that ended move back by one. -/
def shiftProofs (s : State) : State :=
  { s with units := s.units.map fun r => { r with proofPrev := r.proof, proof := none, proofFail := [] } }

/-- Classifications at a boundary: a repeat not finished by the end of the next cue is abandoned, a proof step takes the proof pass
that begins now (R342, R343). -/
def ageClasses (s : State) : State :=
  let m := s.cue.count.toNat
  let s := (s.cls.filter fun c => !c.proofStep && decide (c.cue + 2 ≤ m)).foldl (fun s c => unresolved 1 c s) s
  { s with cls := s.cls.map fun c =>
      if c.proofStep && !c.armed then { c with armed := true, pending := c.units.filter fun u => s.inServ u } else c }

/-- Outcome of a classification's proof step, once every unit has reported (R342, R343). -/
def settleClass (c : Classif) (s : State) : State :=
  if !c.armed ∨ (c.pending.filter fun u => s.inServ u) ≠ [] then s
  else if c.anyFail then endClass c.cue s
  else if c.skipped then unresolved 2 c s
  else endClass c.cue (setClass c.cue 6 (logEvent 0x0708 idCurtain c.rule2 s))

def settleClasses (s : State) : State := s.cls.foldl (fun s c => settleClass c s) s

/-! ### MAINTENANCE (R413) -/

/-- An instance that has not committed will not run again (R294, R413). -/
def Inst.ended (i : Inst) : Inst := if i.st = .committed then i else { i with st := .abandoned, units := [], bufs := [] }

/-- Enter MAINTENANCE: every scene stops without commit, sessions close, restorations are abandoned, the curtain stops. -/
def enterMaintenance (s : State) : State :=
  let code := s.dev.st.code
  let s := setState .maintenance (logEvent 0x0905 idSecurity code s)
  let s := (s.sched.insts.filter fun i => decide (i.st = .running)).foldl (fun s i => stopRun i s) s
  let insts := (s.sched.insts.filter fun i => !i.key.rep).map Inst.ended
  let s := { s with sched := { s.sched with insts := insts, slices := [] }, cls := [], cog := { s.cog with moves := [], dirty := [] } }
  let s := (s.cog.sess.filter fun x => decide (x.st ≠ .closed)).foldl (fun s x => closeSession x s) s
  let s := { s with mem := { s.mem with restore := [] }, cog := { s.cog with steps := [] }, cue := { s.cue with running := false } }
  curtainStop 0x01 idStage s

/-- Requests for MAINTENANCE that waited for the boundary: answered, or turned away after a device-level fault. -/
def answerMaint (status : Nat) (s : State) : State :=
  let s := s.dev.maint.foldl (fun s d =>
    reply { typ := d.typ, seq := d.seq, session := d.session, number := d.number, payload := [] } status [] s) s
  { s with dev := { s.dev with maint := [] } }

/-- A cue that begins in SAFE_HOLD is invalid from the start (R323, R345). -/
def markHeld (s : State) : State :=
  let s := { s with cue := { s.cue with stateAtB := s.dev.st } }
  if s.dev.st = .safeHold ∧ s.cue.invalid = false then invalidate (if s.dev.faultN then 0x13 else 0x11) s else s

/-- The regulators' rate follows the memory mode of the new cue (R280). -/
def noteMode (s : State) : State :=
  { s with part := Vector.ofFn fun i => { s.part.get i with highNow := s.mem.high && (s.partCfg i.1).any fun c => decide (2 ≤ c.kind) } }

/-- The cue that ended closes: its statistics, the governor's action on it and the rehearsal ages; the partitions whose work moves. -/
def closeCue (first : Bool) (s : State) : State × List Nat :=
  let waited := s.regulatorWaited
  let (s, moved) := closeParts s
  let s := governorBoundary first waited s
  (if first then startLossClocks (startAges s) else ageAll s, moved)

/-- What follows the boundary's record. -/
def afterBoundary (first : Bool) (s : State) : State :=
  let c := closeCue first s
  let s := applyTest (takePlan first (transition c.1))
  let s := returnStreams (noteMode (markHeld s))
  let s := restorePages (closePoisoned (retire (ageClasses (shiftProofs s))))
  settleClasses (formRuns (moveWork c.2 s))

/-- A stop that a boundary detects counts for the cue it begins. -/
def beginInvalid (stop : Option Nat) (s : State) : State :=
  match stop with
  | some c =>
    { s with
      cue := { s.cue with invalid := true, pubCause := BitVec.ofNat 8 c }
      cur := { s.cur with running := false, latch := true } }
  | none => s

/-- A cue boundary at cycle `b` with its source code: rank 1 first, then the kills, the record and what follows it; a waiting
request for MAINTENANCE makes it the last (DEDUCED, assumption 45; DEDUCED, assumption 96). -/
def boundary (b src : Nat) (obs : BoundaryObs) (s : State) : State :=
  let first := decide (s.cue.count = 0)
  let s := strikeOverdue (pairDetections obs s)
  let s := holdAtBoundary (returnUnits (stampOf (s.tb.ns b)) s)
  let s := closeDigests (stopAtBoundary s)
  let stop := if obs.completeBusy then some 0x14 else if obs.verdictBusy then some 3 else none
  let s := beginInvalid stop (placeBoundary b src s)
  match s.dev.maint with
  | [] => afterBoundary first s
  | _ =>
    if s.dev.faultN then afterBoundary first (answerMaint stState s)
    else answerMaint stOk (enterMaintenance (closeCue first s).1)

end Sys2Proof.Machine
end

