-- ==== Sys2Proof/Machine/Cue.lean ====
section
/-! DEFINITION. The cue: the sources of boundaries, the proof pass, the ingest cutoff, the safety windows, the comparison and the
publication (R32 to R54, R78 to R84, R323 to R332, R337 to R342, R441, R442, R472, R474). -/

namespace Sys2Proof.Machine

/-! ### Cue sources (R34 to R38) -/

/-- The cue generator runs: cues run and a forme is loaded. -/
def State.generating (s : State) : Bool :=
  s.dev.st.cues && !s.dev.bare && s.forme.loaded && s.chip.powered && !s.chip.resetN

/-- One cue fault (R34, R35): counted, and the eighth in a row loses the external cue. -/
def cueFault (code detail : Nat) (s : State) : State :=
  let (n, o) := sat32 s.cue.faultCount 1
  let s := noteSeen 0 <| logEvent code idTime detail { s with cue := { s.cue with
    faultSeen := true, faultCount := n, faultOvf := s.cue.faultOvf || o, faultRun := s.cue.faultRun + 1 } }
  if s.cue.faultRun = 8 then logEvent 0x0103 idTime 0 { s with cue := { s.cue with extLost := true } } else s

/-- Detail of event 0x0101: how early the edge came, in units of 0.1 % of P; counted from B + 0.98 × P and rounded down (DESIGN CHOICE,
assumption 105). -/
def earlyDetail (p off : Nat) : Nat := min 255 ((392 * p - off) * 10 / (4 * p))

/-- An edge accepted as the next boundary; the first one after a loss regains the external cue. -/
def acceptEdge (b : Nat) (obs : BoundaryObs) (s : State) : State :=
  let s := if s.cue.extLost then logEvent 0x0104 idTime 0 { s with cue := { s.cue with extLost := false } } else s
  boundary b 0 obs { s with cue := { s.cue with faultRun := 0 } }

/-- CUE_IN_EDGE: stamped to 10 ns (R33), then judged by R34 and R35. `low` and `high` are the lengths of the levels around it. The stamp is the
edge's cycle rounded down to a cycle of 10 ns (DESIGN CHOICE, assumption 104). -/
def execCueInEdge (t low high : Nat) (obs : BoundaryObs) (s : State) : Host.Outcome State Fault Refusal :=
  let s := s.at t
  let b := s.now / 4 * 4
  let p := s.forme.period
  .next (if !s.generating || decide (s.forme.source ≠ 1) || decide (low < us 1) || decide (high < us 1) then s
    else if s.cue.count = 0 then (if b < s.cue.standbyAt + 800 * p then boundary b 0 obs s else s)
    else if s.cue.ignore then s
    else
      let off := b - s.cue.b
      if off < 392 * p then cueFault 0x0101 (earlyDetail p off) { s with cue := { s.cue with ignore := true } }
      else if s.cue.extLost then (if off < 400 * p then acceptEdge b obs s else s)
      else if off ≤ 408 * p then acceptEdge b obs s
      else s)

/-- CUE_IN_MISSING: the internal generator places the boundary (R34, R35, R38); while EXT_LOST is set a cue without an edge is no cue fault and
logs nothing, and its SOURCE is 3 (DESIGN CHOICE, assumption 141). -/
def execCueInMissing (t : Nat) (obs : BoundaryObs) (s : State) : Host.Outcome State Fault Refusal :=
  let s := s.at t
  let p := s.forme.period
  .next (if !s.generating || decide (s.forme.source ≠ 1) || s.cue.ignore then s
    else if s.cue.count = 0 then
      (if s.cue.standbyAt + 800 * p ≤ s.now then boundary (s.cue.standbyAt + 800 * p) 3 obs (logEvent 0x0105 idTime 0 s) else s)
    else if s.cue.extLost then
      (if s.cue.b + 400 * p ≤ s.now then boundary (s.cue.b + 400 * p) 3 obs s else s)
    else if s.cue.b + 408 * p ≤ s.now then boundary (s.cue.b + 408 * p) 3 obs (cueFault 0x0102 0 s)
    else s)

/-- Cycle of the first boundary of the PTP-aligned generator: the first device time at or after STANDBY entry that lies on the epoch's grid
(R38). -/
def alignedFirst (s : State) : Nat :=
  let p : Int := (s.forme.period * 1000 : Nat)
  let wait := (((stampNs s.forme.epoch : Int) - (s.cue.standbyNs : Int)) % p).toNat
  max s.cue.standbyAt (s.tb.reaches (s.cue.standbyNs + wait))

/-- PTP_ALIGNED at a boundary of the PTP-aligned generator. -/
def markAligned (b : Nat) (s : State) : State :=
  { s with cue := { s.cue with ptpAligned := decide (s.tb.source ≠ .free) && decide ((phaseError s (s.tb.ns b)).natAbs < 1000) } }

/-- INTERNAL_CUE_BOUNDARY: the fallback after an early edge, the free period, or PTP-aligned time (R34, R37, R38). -/
def execInternalCueBoundary (t : Nat) (obs : BoundaryObs) (s : State) : Host.Outcome State Fault Refusal :=
  let s := s.at t
  let p := s.forme.period
  .next (if !s.generating then s
    else if s.forme.source = 1 then
      (if s.cue.ignore && decide (s.cue.b + 400 * p ≤ s.now) then boundary (s.cue.b + 400 * p) 2 obs s else s)
    else if s.forme.source = 2 then
      let b := if s.cue.count = 0 then s.cue.standbyAt else s.cue.b + 400 * p
      (if b ≤ s.now then boundary b 1 obs s else s)
    else if s.cue.count = 0 then
      (if alignedFirst s ≤ s.now then boundary (alignedFirst s) 1 obs (markAligned (alignedFirst s) s) else s)
    else if alignedNext s ≤ s.now then boundary (alignedNext s) 1 obs (markAligned (alignedNext s) s)
    else s)

/-! ### The proof pass (R323, R337, R338, R342) -/

def proofUnit : ProofUnit → UnitId
  | .press p => .press p
  | .core k => .core k

/-- Condition 4 of R323 names the unit. -/
def State.named (s : State) (u : UnitId) : Bool :=
  match u with
  | .press p => decide (p ∈ s.sched.planPresses)
  | .core k => decide (k ∈ s.sched.planCores)
  | .sector n => s.safetySector n
  | _ => false

/-- A classification waits for this unit's proof pass. -/
def State.classOf (s : State) (u : UnitId) : Option Classif := s.cls.find? fun c => c.armed && decide (u ∈ c.pending)

/-- A unit has reported to the proof step. -/
def reportClass (fail : Bool) (u : UnitId) (s : State) : State :=
  { s with cls := lmod (fun c => c.armed && decide (u ∈ c.pending))
                (fun c => { c with pending := c.pending.filter (fun v => v != u), anyFail := c.anyFail || fail }) s.cls }

/-- A unit's proof pass failed: event 0x0705, the curtain for a unit that condition 4 names, the classification and one strike. -/
def proofFailed (item : Nat) (u : UnitId) (s : State) : State :=
  let s := s.modUnit u fun r => { r with proof := some false, suspect := false, suspectSrc := 0 }
  let s := logEvent 0x0705 (unitId u) item s
  let s := if s.named u then failPair (detect 6 (unitId u) s) else s
  match s.classOf u with
  | some c =>
    let side := match u with
      | .core _ => 1
      | _ => 0
    let s := setClass c.cue 5 (logEvent 0x0707 (unitId u) side (reportClass true u s))
    strike 4 u s
  | none => strike 3 u s

/-- A unit's proof pass passed; a press under suspicion turns out to have met a transient of the source suspected (R115, R116, R122). -/
def proofPassed (u : UnitId) (s : State) : State :=
  let r := s.unit u
  let s := reportClass false u (s.modUnit u fun r => { r with proof := some true, suspect := false, suspectSrc := 0 })
  if r.suspect then countTransient u (logEvent 0x0301 (unitId u) (0x80 + r.suspectSrc.toNat) s) else s

/-- Every press in service has reported, with item 8 open on some. -/
def State.pressesReported (s : State) : Bool :=
  allPresses.all fun p => !s.inServ (.press p) || (s.unit (.press p)).proof.isSome || decide ((s.unit (.press p)).proofFail ≠ [])

/-- A sector under re-rig whose item 8 runs in this cue's proof pass: its rehearsal ended before the cue began (R363). -/
def State.sectorRig (s : State) (n : Fin 16) : Bool :=
  decide ((s.unit (.sector n)).mode = .reRigging) && !(s.unit (.sector n)).rehearsed && decide ((s.unit (.sector n)).checks.head? = some .proof)

/-- Item 8 is attributed once every press has reported: a sector that failed for two presses or more, else the press (R338). A sector under re-rig
fails its check where item 8 of a press failed on it, and passes it otherwise (R363). -/
def resolveSectors (s : State) : State :=
  let open8 := allPresses.filter fun p => s.inServ (.press p) && decide ((s.unit (.press p)).proofFail ≠ [])
  if s.pressesReported = false then s
  else
    let fails := open8.map fun p => (p, (s.unit (.press p)).proofFail)
    let rig := (List.finRange 16).filter fun n => s.sectorRig n && fails.any fun e => decide (n ∈ e.2)
    let bad := (List.finRange 16).filter fun n => !s.sectorRig n && decide (2 ≤ (fails.filter fun e => decide (n ∈ e.2)).length)
    let s := rig.foldl (fun s n => failAttempt (.sector n) 0 s) s
    let s := bad.foldl (fun s n =>
      let s := logEvent 0x0705 (unitId (.sector n)) 8 s
      let s := if s.safetySector n then failPair (detect 6 (unitId (.sector n)) s) else s
      strike 3 (.sector n) s) s
    let s := ((List.finRange 16).filter fun n => s.sectorRig n).foldl (fun s n => passCheck (.sector n) s) s
    fails.foldl (fun s e =>
      let s := s.modUnit (.press e.1) fun r => { r with proofFail := [] }
      if e.2.all fun n => decide (n ∈ rig ∨ n ∈ bad) then proofPassed (.press e.1) s else proofFailed 8 (.press e.1) s) s

/-- MARK becomes 0x1 once every unit in service has ended its proof pass. -/
def markProof (s : State) : State :=
  if decide (s.cue.mark = 0) && (allPresses.map UnitId.press ++ allCores.map UnitId.core).all (fun u => !s.inServ u || (s.unit u).proof.isSome) then
    { s with cue := { s.cue with mark := 1 } }
  else s

/-- The proof pass runs on a unit in this cue: cues run, the unit is in service, and no device-level fault stands (R42, R368). -/
def State.proving (s : State) (u : UnitId) : Bool :=
  s.cue.running && s.inServ u && !(s.dev.faultN && decide (s.dev.st = .safeHold)) && (s.unit u).proof.isNone &&
    decide ((s.unit u).proofFail = [])

/-- Item 8 of a press has failed on sectors: they have not passed this cue's proof pass (R323, R338). -/
def failSectors (ns : List (Fin 16)) (s : State) : State :=
  ns.foldl (fun s n =>
    let s := s.modUnit (.sector n) fun r => { r with proof := some false }
    if s.safetySector n then failPair (invalidate 6 s) else s) s

/-- The digest that the proof vector of the cue expects of a unit: that of cue number mod 16 for the unit's kind (R337). -/
def State.proofExpected (s : State) (u : UnitId) : W64 :=
  let v := s.cue.count.toNat % 16
  s.forme.proofs.getD (match u with
    | .core _ => 16 + v
    | _ => v) 0

/-- The item that fails a proof pass: a self-check's, or the one whose part of the result image has a wrong digest, under key 0x2_0000 (R337, R338,
R384, R387). -/
def State.proofVerdict (s : State) (u : UnitId) (failed : Option (Fin 11)) (result : List Byte) : Option (Fin 11) :=
  let d := imageDigest 0x20000 result
  match failed with
  | some i => some i
  | none => if d = s.proofExpected u then none else some (Config.proofItem d).succ

/-- PROOF_PASS_END. -/
def execProofPassEnd (t : Nat) (u : ProofUnit) (failed : Option (Fin 11)) (obs : ProofObs) (s : State) :
    Host.Outcome State Fault Refusal :=
  let s := s.at t
  let v := proofUnit u
  .next (if !s.proving v then s
    else
      let sectors := obs.sectors
      let s := match s.proofVerdict v failed obs.result, v with
        | none, _ => proofPassed v s
        | some i, .press p =>
          if i = 8 ∧ sectors ≠ [] then failSectors sectors (s.modUnit (.press p) fun r => { r with proofFail := sectors })
          else proofFailed i.1 v s
        | some i, _ => proofFailed i.1 v s
      markProof (settleClasses (resolveSectors s)))

/-- PROOF_RESERVATION_EXPIRY: event 0x0112, and the pass counts as failed with item 11 (R53, R338). -/
def execProofReservationExpiry (t : Nat) (u : ProofUnit) (s : State) : Host.Outcome State Fault Refusal :=
  let s := s.at t
  let v := proofUnit u
  .next (if s.proving v && decide ((match u with
        | .press _ => us 40
        | .core _ => us 60) ≤ s.off) then
      markProof (settleClasses (resolveSectors (proofFailed 11 v (logEvent 0x0112 (unitId v) 0 s))))
    else s)

/-! ### The ingest cutoff (R78 to R84) -/

/-- Status of a slot and the sample that fills it (R80, R81); the batch of cue 1 has no capture cue. A sample that a check has rejected shows
that check's code, its frame ended or not (DEDUCED, assumption 115). -/
def slotOf (s : State) (c : Stream) (r : StreamRt) : Nat × Option Sample :=
  let cut := stampOf s.ns
  let mine := r.samples.filter fun x => decide (2 ≤ s.cue.count.toNat) && decide (s.cue.stampPrev ≤ x.stamp ∧ x.stamp < s.cue.stamp)
  let struck := decide ((s.unit c.unit).mode = .struck ∨ (s.unit c.unit).mode = .reRigging ∨ (s.unit c.unit).mode = .retired)
  let back := decide (s.cue.stampPrev < r.returnedAt)
  let last := fun (l : List Sample) => l.foldl (fun a x => match a with
    | none => some x
    | some y => if y.stamp < x.stamp then some x else some y) (none : Option Sample)
  let good := last (mine.filter fun x => decide (x.status = 0) && (x.done.any fun d => decide (d < cut)))
  if struck ∨ (r.byRig = true ∧ back = true) then (9, none)
  else if r.lost = true ∨ back = true then (8, none)
  else
    match good, last mine with
    | some x, _ => (0, some x)
    | none, none => (1, none)
    | none, some x => (if x.status = 0 then 2 else x.status, none)

/-- A slot's record with its bytes: those of the sample, or zeros (R80). -/
def slotRec (s : State) (i : Fin 32) : SlotRec :=
  match s.forme.streams.getD i.1 none with
  | none => { status := 1, stamp := 0, points := 0, num := 0, bytes := [] }
  | some c =>
    match slotOf s c (s.ing.streams.get i) with
    | (k, some x) => { status := k, stamp := x.stamp, points := x.points, num := x.num, bytes := x.bytes }
    | (k, none) => { status := k, stamp := 0, points := 0, num := 0, bytes := List.replicate c.slotBytes 0 }

/-- Slots that hold a completed sample. -/
def slotMaskOf (l : List SlotRec) (streams : List (Option Stream)) : Nat :=
  ((List.range 32).map fun i => bit ((l[i]?).any (fun r => decide (r.status = 0)) && (streams.getD i none).isSome) i).sum

/-- Required slots of the forme. -/
def Forme.required (f : Forme) : List Nat := (List.range 32).filter fun i => (f.streams.getD i .none).any Stream.required

/-- A slot as the understudy's ingress stage writes it (R320): (x − m_c) × s_c per channel in FP32, then FP16. -/
def ingressBytes (c : Stream) (pairs : List (W32 × W32)) (bytes : List Byte) : List Byte :=
  let fmt := if c.kind = 2 then fFp16 else c.outFmt
  let size := if fmt = fInt8 then 1 else 2
  let cb := if c.kind = 2 then 8 else max c.cblock 1
  let plane := if c.kind = 2 then c.maxA * 8 else c.outH * c.outW * cb
  (List.range (bytes.length / size)).flatMap fun e =>
    let p := pairs.getD (e / max plane 1 * cb + e % cb) (0, 0)
    let x := f32of (elemVal fmt (uN size bytes (e * size)))
    natLe 2 (encodeVal fFp16 (f32val (f32mul (f32sub x p.1) p.2)))

/-- The understudy's copies of the batch slots that it reads (R320). -/
def ingressCopies (f : Forme) (recs : List SlotRec) : List (Nat × List Byte) :=
  (List.range 32).filterMap fun i =>
    match f.streams.getD i .none, f.ingress[i]?, recs[i]? with
    | some c, some g, some r => if g.read then some (i, ingressBytes c g.pairs r.bytes) else .none
    | _, _, _ => .none

/-- A batch stands in its buffer of the ring, and the understudy's copies in understudy memory (R84, R226, R320). -/
def placeBatch (b : Batch) (s : State) : State :=
  let s := match s.forme.ringAt b.cue with
    | none => s
    | some a => b.slots.zipIdx.foldl (fun s e => devWrite (a + s.forme.slotOffset e.2) e.1.bytes s) (devWrite a (s.forme.descriptor b) s)
  b.under.foldl (fun s e => match s.forme.under.find? fun u => u.1 = e.1 with
    | some u => devWrite u.2 e.2 s
    | none => s) s

/-- The batch that this cue processes. -/
def closeBatch (s : State) : State :=
  let recs := (List.finRange 32).map fun i => slotRec s i
  let mask := BitVec.ofNat 32 (slotMaskOf recs s.forme.streams)
  let under := ingressCopies s.forme recs
  let b : Batch := { cue := s.cue.count.toNat, stamp := s.cue.stampPrev, mask := mask, slots := recs, under := under }
  placeBatch b { s with
    cue := { s.cue with slotMask := mask, mark := 2 }
    ing := { s.ing with
      batches := (b :: s.ing.batches).take 4
      streams := s.ing.streams.map fun r => { r with samples := r.samples.filter fun x => decide (s.cue.stamp ≤ x.stamp) } } }

/-- Required slots whose mask bit is clear, ascending. -/
def State.missing (s : State) : List Nat := s.forme.required.filter fun i => !s.cue.slotMask.getLsbD i

/-- A required slot is invalid: event 0x0250 for each, the curtain, and the end of the cue's safety scenes (R83). -/
def requireSlots (s : State) : State :=
  match s.missing with
  | [] => s
  | i :: l =>
    let port := fun (k : Nat) => ((s.forme.streams.getD k none).map fun c => unitId c.unit).getD 0xFF#8
    let s := (i :: l).foldl (fun s k => logEvent 0x0250 (port k) k s) s
    endSafety (failPair (detect 5 (port i) s))

/-- The checks of R83 and the publications apply in this cue (R469). -/
def State.judged (s : State) : Bool :=
  s.cue.running && decide (s.cue.stateAtB = .running ∨ s.cue.stateAtB = .degraded ∨ s.cue.stateAtB = .safeHold)

/-- INGEST_CUTOFF. -/
def execIngestCutoff (t : Nat) (s : State) : Host.Outcome State Fault Refusal :=
  let s := s.at t
  .next (if s.cue.running && decide (us s.forme.sheet.cutoff ≤ s.off) && decide (s.cue.mark.toNat < 2) then
      let s := closeBatch s
      if s.judged then requireSlots s else s
    else s)

/-! ### Windows (R41, R46, R51, R472) -/

/-- A run that a window displaces from a unit: any but the window's own safety scenes. -/
def Inst.displaced (i : Inst) (kind : Nat) : Bool := !(decide (i.kind = kind) && !i.key.rep)

/-- A window's units in service suspend the rehearsal slices that were admitted before its start `b` and still run on them: the last checkpoint
lies before it (R48); a unit under re-rig rehearses on (R362). -/
def suspendSlices (b : Nat) (us : List UnitId) (s : State) : State :=
  (s.sched.slices.filter fun x => decide (x.at_ < b) && us.any fun u => decide (x.unit = .unit u) && s.inServ u).foldl
    (fun s x => suspendSlice x s) s

/-- While the perception window is open, the presses of its plan hold and lock every page that its play maps (R230). -/
def lockWindow (s : State) : State :=
  (s.forme.plays.filter fun p => p.kind = 0).foldl (fun s p => s.sched.planPresses.foldl (fun s q => lockPages p.index q s) s) s

/-- WINDOW_START: every other scene still running on the window's units is killed at the edge, and a slice there is suspended. -/
def execWindowStart (t : Nat) (w : Window) (s : State) : Host.Outcome State Fault Refusal :=
  let s := s.at t
  .next (if !s.cue.running then s
    else
      match w with
      | .perception =>
        if us s.forme.sheet.perStart ≤ s.off then
          lockWindow (suspendSlices (s.cue.b + us s.forme.sheet.perStart) ((allPresses.filter fun p => s.isSafetyPress p).map .press)
            (killWhere 0 (fun i => i.displaced 0 && i.presses.any fun p => s.isSafetyPress p) s))
        else s
      | .understudy =>
        if us s.forme.sheet.undStart ≤ s.off then
          suspendSlices (s.cue.b + us s.forme.sheet.undStart) (allCores.map .core) (killWhere 0 (fun i => i.displaced 1 && allCores.any fun k => i.on (.core k)) s)
        else s
      | .reserve =>
        let pb := us (s.lminUs - s.forme.rehPress)
        let cb := us (s.lminUs - s.forme.rehCore)
        let s := if pb ≤ s.off then suspendSlices (s.cue.b + pb) (allPresses.map .press) s else s
        let s := if cb ≤ s.off then suspendSlices (s.cue.b + cb) (allCores.map .core) s else s
        killWhere 0 (fun i => (decide (pb ≤ s.off) && decide (i.presses ≠ [])) ||
          (decide (cb ≤ s.off) && allCores.any fun k => i.on (.core k))) s)

/-- The cue becomes late: once, with its event, the curtain, and the end of its safety scenes. -/
def goLate (code detail : Nat) (unit : Byte) (s : State) : State :=
  let (n, o) := sat32 s.cue.lateCount 1
  let s := noteSeen 1 <| logEvent code unit detail { s with cue := { s.cue with
    late := true, lateSeen := true, lateCount := n, lateOvf := s.cue.lateOvf || o } }
  endSafety (failPair (detect 4 unit s))

/-- Safety scenes of a kind that have not committed in this cue. -/
def State.uncommitted (s : State) (kind : Nat) : Bool :=
  s.sched.insts.any fun i => decide (i.kind = kind) && decide (i.key.run = s.cue.count.toNat) && !i.key.rep && decide (i.st ≠ .committed)

/-- The cue was ended by the required-slot check (R83). -/
def State.slotsFailed (s : State) : Bool := s.judged && decide (2 ≤ s.cue.mark.toNat) && decide (s.missing ≠ [])

/-- Conditions 2 to 6 of R323. -/
def State.complete (s : State) : Bool :=
  decide (s.cue.stateAtB = .running ∨ s.cue.stateAtB = .degraded) && !s.cur.test && !s.uncommitted 0 && !s.uncommitted 1 && s.missing.isEmpty &&
    s.sched.planPresses.all (fun p => decide ((s.unit (.press p)).proof = some true)) &&
    s.sched.planCores.all (fun k => decide ((s.unit (.core k)).proof = some true)) &&
    (List.finRange 16).all fun n => !s.safetySector n || decide ((s.unit (.sector n)).proof ≠ some false)

/-- The cue-complete pair decides at the end of both windows. -/
def decidePair (s : State) : State :=
  if s.cur.complete = .idle then { s with cur := { s.cur with complete := if s.complete then .good else .bad } } else s

/-- WINDOW_END. -/
def execWindowEnd (t : Nat) (w : WindowEnds) (s : State) : Host.Outcome State Fault Refusal :=
  let s := s.at t
  let per := decide (w ≠ .understudy) && !s.cue.perEnded && decide (us s.forme.sheet.perEnd ≤ s.off)
  let und := decide (w ≠ .perception) && !s.cue.undEnded && decide (us s.forme.sheet.undEnd ≤ s.off)
  if !s.cue.running || !(per || und) then .next s
  else
    let s := { s with cue := { s.cue with perEnded := s.cue.perEnded || per, undEnded := s.cue.undEnded || und } }
    let s := if per then unlockPages s else s
    let badP := per && s.uncommitted 0
    let badU := und && s.uncommitted 1
    let s := if (badP || badU) && !s.cue.late && !s.slotsFailed then
        goLate 0x0110 (if badP && badU then 2 else if badU then 1 else 0) idStage s else s
    let s := if s.cue.perEnded && s.cue.undEnded then { s with cue := { s.cue with mark := 3 } } else s
    .next (if s.cue.perEnded && s.cue.undEnded && s.judged then decidePair s else s)

/-! ### The comparator (R326 to R332) -/

/-- Cell `i` of a grid image. -/
def gridCell (fp : Bool) (img : List Byte) (i : Nat) : Val := if fp then elemVal fFp16 (u16 img (2 * i)) else elemVal fInt8 (u8 img i)

/-- A rule's threshold in its operand's format. -/
def threshold (fp : Bool) (a : W16) : Val := if fp then elemVal fFp16 a.toNat else intVal a.toInt

def Val.le (a b : Val) : Bool := decide (a.cmp b = some .lt) || decide (a.cmp b = some .eq)

/-- Main cell (y, x) lies in a zone; zone 0xFF is every cell (R328). -/
def inZone (r : Rules) (z y x : Nat) : Bool :=
  if z = 0xFF then true
  else
    let k := y * r.gx + x
    decide (y < r.gy ∧ x < r.gx) && (((r.zones.getD z []).getD (k / 8) 0)).getLsbD (k % 8)

/-- The cells of an f × f block. -/
def block (f v u : Nat) : List (Nat × Nat) :=
  (List.range f).flatMap fun dy => (List.range f).map fun dx => (v * f + dy, u * f + dx)

/-- Understudy cell (v, u) lies in the derived zone. -/
def inDerived (r : Rules) (z f v u : Nat) : Bool := (block f v u).any fun c => inZone r z c.1 c.2

/-- An operand: its shape and image. -/
def operand (s : State) (plays : List Play) (run : Nat) (rep : Bool) (r : Rules) (i : Nat) : Option OperandShape × List Byte :=
  match r.operands[i]? with
  | none => (none, [])
  | some o =>
    (operandShape plays o,
      ((s.sched.values.find? fun v => decide (v.play = o.play) && decide (v.tensor = o.tensor) && decide (v.run = run) && (v.rep == rep)).map
        Value.bytes).getD [])

/-- A block that the comparator reads of the operands is poisoned (R255, R331). -/
def operandLost (s : State) (run : Nat) (rep : Bool) : Bool :=
  s.forme.rules.operands.any fun o => s.sched.values.any fun v => decide (v.play = o.play) && decide (v.tensor = o.tensor) &&
    decide (v.run = run) && (v.rep == rep) && (s.lostPart v 0 v.bytes.length).isSome

/-- Offending cells of operations 0x01 and 0x02. -/
def offending (r : Rules) (u : Rule) (fm fu : Bool) (gy gx : Nat) (main under : List Byte) : Nat :=
  let vx := gx / u.f
  (((List.range gy).flatMap fun y => (List.range gx).map fun x => (y, x)).filter fun c =>
    inZone r u.zone c.1 c.2 &&
      (let m := gridCell fm main (c.1 * gx + c.2)
       let v := gridCell fu under (c.1 / u.f * vx + c.2 / u.f)
       decide (m = .nan) || decide (v = .nan) ||
         (if u.op = 1 then m.le (threshold fm u.a) && (threshold fu u.b).le v
          else (threshold fm u.a).le m && v.le (threshold fu u.b)))).length

/-- Rows of a list: cell x, cell y, confidence. -/
def listRow (img : List Byte) (i : Nat) : Int × Int × Int :=
  (signedOf 16 (u16 img (16 * i)), signedOf 16 (u16 img (16 * i + 2)), signedOf 16 (u16 img (16 * i + 4)))

/-- Rows of a list in a zone with at least a confidence; `h` and `w` are the dims of the list's grid. -/
def rowsIn (zone : Nat → Nat → Bool) (h w n : Nat) (conf : W16) (img : List Byte) : List (Nat × Nat) :=
  (List.range n).filterMap fun i =>
    let (x, y, c) := listRow img i
    if 0 ≤ x ∧ 0 ≤ y ∧ x.toNat < w ∧ y.toNat < h ∧ conf.toInt ≤ c ∧ zone y.toNat x.toNat = true then some (y.toNat, x.toNat) else none

/-- A rule fails (R329). -/
def ruleFails (r : Rules) (opd : Nat → Option OperandShape × List Byte) (u : Rule) : Bool :=
  let m := opd u.main
  let v := opd u.under
  let one := if u.main = 0xFF then v else m
  if u.op = 1 ∨ u.op = 2 then
    match m.1, v.1 with
    | some (.grid fm gy gx), some (.grid fu _ _) => decide (u.n < offending r u fm fu gy gx m.2 v.2)
    | _, _ => false
  else if u.op = 3 then
    match m.1, v.1 with
    | some (.lst nm), some (.lst nu) =>
      let cm := (rowsIn (inZone r u.zone) r.gy r.gx nm u.a m.2).length
      let cu := (rowsIn (inDerived r u.zone u.f) (r.gy / u.f) (r.gx / u.f) nu u.b v.2).length
      decide (u.n < (cm - cu) + (cu - cm))
    | _, _ => false
  else if u.op = 4 then
    match m.1, v.1 with
    | some (.grid fm gy gx), some (.lst nu) =>
      let rows := rowsIn (inDerived r u.zone u.f) (gy / u.f) (gx / u.f) nu u.b v.2
      decide (u.n < (rows.filter fun c => !((block u.f c.1 c.2).any fun d =>
        (threshold fm u.a).le (gridCell fm m.2 (d.1 * gx + d.2)))).length)
    | _, _ => false
  else if u.op = 5 then
    match one.1 with
    | some (.grid fp gy gx) => (List.range (gy * gx)).any fun i => match gridCell fp one.2 i with
        | .num _ _ _ => false
        | _ => true
    | _ => false
  else decide (one.2.getD 0 0 ≠ 0)

/-- The first failing rule of the outputs of a cue, or of its repeats. -/
def firstFailing (s : State) (run : Nat) (rep : Bool) : Option Nat :=
  let r := s.forme.rules
  (List.range r.rules.length).find? fun k => match r.rules[k]? with
    | some u => ruleFails r (operand s s.forme.plays run rep r) u
    | none => false

/-- COMPARISON_START: a cue that is late, or invalid for a required slot, is not evaluated (R472). -/
def execComparisonStart (t : Nat) (s : State) : Host.Outcome State Fault Refusal :=
  let s := s.at t
  .next (if s.cue.running && decide (s.cue.stateAtB = .running ∨ s.cue.stateAtB = .degraded) && !s.cue.late && !s.slotsFailed &&
      !s.cue.compStarted && decide (us s.forme.sheet.compStart ≤ s.off) then
    { s with cue := { s.cue with compStarted := true } } else s)

/-- Units that ran the safety scenes of a cue. -/
def State.safetyRan (s : State) (run : Nat) : List UnitId :=
  ((s.sched.insts.filter fun i => i.safety && decide (i.key.run = run)).flatMap Inst.units).dedup

/-- A mismatch is classified: repeats of every perception and understudy scene, or the proof step alone while another
classification runs (R340, R343). -/
def startClass (rule : Nat) (s : State) : State :=
  let n := s.cue.count.toNat
  let c : Classif :=
    { cue := n, rule := rule, skipped := false, proofStep := false, armed := false, rule2 := rule, units := s.safetyRan n, pending := []
      anyFail := false, perPlan := none, undPlan := none }
  if s.cls ≠ [] then logEvent 0x0710 idCurtain 0 { s with cls := s.cls ++ [{ c with skipped := true, proofStep := true }] }
  else
    let s := { s with cls := [c] }
    (s.forme.plays.filter fun p => p.kind ≤ 1).foldl (fun s p => formRun p n true s) s

/-- A MISMATCH verdict: event 0x0703, the curtain, and the classification (R332, R340, R349). -/
def mismatch (rule : Nat) (s : State) : State :=
  let was := s.cur.running
  let s := detect 2 idCurtain (logEvent 0x0703 idCurtain rule { s with cur := { s.cur with verdict := .bad } })
  let s := if was then { s with cur := { s.cur with rule := BitVec.ofNat 8 rule } } else s
  startClass rule s

/-- The comparison of the cue has begun and has neither ended nor been given up (R472). -/
def State.comparing (s : State) : Bool := s.cue.compStarted && !s.cue.compDone && !s.cue.late

/-- The evaluation ends. -/
def endCompare (s : State) : State := if s.comparing then { s with cue := { s.cue with compDone := true, mark := 4 } } else s

/-- COMPARATOR_VERDICT: the evaluation ends with its result; a pair that reads (1,1) counts whenever the curtain logic sees it in the cue (R332,
R335, R474) (DEDUCED, assumption 54). -/
def execComparatorVerdict (t : Nat) (fault : Option VerdictFault) (s : State) : Host.Outcome State Fault Refusal :=
  let s := s.at t
  if !s.cue.running then .next s
  else
    match fault.or (if s.comparing && operandLost s s.cue.count.toNat false then some .input else none) with
    | some .pair =>
      let s := endCompare s
      let s := logEvent 0x0704 idCurtain 0 (railSeen { s with cur := { s.cur with verdict := .fault } })
      .next (countFaultCue s.cue.count.toNat (detect 3 idCurtain s))
    | some .complete =>
      .next (detect 0x14 idStage (logEvent 0x0704 idStage 2 (railSeen { s with cur := { s.cur with complete := .fault } })))
    | some .input => .next (if s.comparing then detect 0x10 idCurtain (endCompare s) else s)
    | none =>
      if !s.comparing then .next s
      else
        match firstFailing s s.cue.count.toNat false with
        | none => .next (let s := endCompare s
            { s with cur := { s.cur with verdict := .good } })
        | some k => .next (mismatch k (endCompare s))

/-- CLASSIFICATION_REPEAT_VERDICT: the repeated outputs are judged, and the digests place a transient (R341). A faulty pair or input
of the repeat leaves the mismatch unresolved; the pair counts by R474. -/
def execClassificationRepeatVerdict (t : Nat) (fault : Option VerdictFault) (s : State) : Host.Outcome State Fault Refusal :=
  let s := s.at t
  match s.cls.find? fun c => !c.proofStep with
  | none => .next s
  | some c =>
    let reps := s.sched.insts.filter fun i => i.key.rep && decide (i.key.run = c.cue)
    if reps = [] ∨ (reps.any fun i => decide (i.st ≠ .committed)) = true then .next s
    else
      match fault.or (if operandLost s c.cue true then some .input else none) with
      | some .pair =>
        .next (countFaultCue s.cue.count.toNat (logEvent 0x0704 idCurtain 0 (railSeen s)))
      | some _ => .next s
      | none =>
        match firstFailing s c.cue true with
        | some k => .next { s with cls := lmod (fun x => x.cue = c.cue) (fun x => { x with proofStep := true, rule2 := k }) s.cls }
        | none =>
          let orig := fun (i : Inst) => s.inst? { i.key with rep := false }
          let diff := fun (kind : Nat) => (sortBy (fun (i : Inst) => i.key.scene) (reps.filter fun i => decide (i.kind = kind))).find? fun i =>
            match orig i with
            | some o => o.dScene != i.dScene
            | none => false
          let unitOf := fun (i : Inst) => (orig i).bind fun o => o.units.head?
          let (detail, cls, u) := match diff 0, diff 1 with
            | some i, none => (1, 2, unitOf i)
            | none, some i => (2, 3, unitOf i)
            | _, _ => (0, 4, none)
          let s := endClass c.cue (setClass c.cue cls (logEvent 0x0706 ((u.map unitId).getD idCurtain) detail s))
          .next (match u with
            | some v => countTransient v s
            | none => s)

/-! ### Publication (R323, R324, R441, R442) -/

/-- Every condition of R323 holds. -/
def State.cueValid (s : State) : Bool :=
  !s.cue.invalid && !s.cur.latch && decide (s.cur.verdict = .good) && s.complete

/-- A publication's payload header (R441). -/
def pubHeader (s : State) (valid : Bool) (part : Nat) (last : Bool) : List Byte :=
  natLe 8 s.cue.count.toNat ++ natLe 8 s.cue.stamp ++ [if valid then 1 else 0, if valid then 0 else s.cue.pubCause, 0, 0] ++
    natLe 4 s.cue.slotMask.toNat ++ natLe 2 part ++ natLe 2 (bit last 0) ++ [0, 0, 0, 0]

/-- Images of the safety outputs of the perception play, in tensor order. -/
def State.pubImages (s : State) : List (Nat × List Byte) :=
  match s.forme.plays.find? fun p => p.kind = 0 with
  | none => []
  | some p => (pubTensors p).map fun e =>
      (e.1, padBytes e.2.size (((s.sched.values.find? fun v => decide (v.play = p.index) && decide (v.tensor = e.1) &&
        decide (v.run = s.cue.count.toNat) && !v.rep).map Value.bytes).getD []))

/-- Queue the publication, or skip it whole when the send queue has no room (R442) (DEDUCED, assumption 55). -/
def publish (valid : Bool) (s : State) : State :=
  let parts := if valid then pubParts s.pubImages else [[]]
  let n := parts.length
  let msgs := (List.range n).map fun k => pubHeader s valid k (decide (k + 1 = n)) ++ parts.getD k []
  if ((msgs.map fun m => blocksFor m.length).sum) ≤ s.txRoom then msgs.foldl (fun s m => originate 0x4002 m s) s
  else
    let (v, o) := sat32 s.port.skipped 1
    irq 6 { s with port := { s.port with skipped := v, skipOvf := s.port.skipOvf || o } }

/-- A valid cue lets the curtain run on, or restarts it while its oscillator is in range (R334, R336). -/
def runCurtain (s : State) : State :=
  if s.cur.running then { s with cur := { s.cur with runCues := sat16 s.cur.runCues } }
  else if s.cur.oscOut then s
  else irq 4 (logEvent 0x0702 idCurtain 0 { s with cur := { s.cur with running := true, runCues := 1, startedAt := s.now } })

/-- PUBLISH_DEADLINE (DEDUCED, assumption 87). -/
def execPublishDeadline (t : Nat) (s : State) : Host.Outcome State Fault Refusal :=
  let s := s.at t
  if !s.judged || s.cue.published || decide (s.off < us s.forme.sheet.publish) then .next s
  else
    let s := if decide (s.cue.stateAtB = .running ∨ s.cue.stateAtB = .degraded) && !s.cue.compDone && !s.cue.late && !s.slotsFailed then
        goLate 0x0111 0 idCurtain s else s
    let s := (s.sched.values.filter fun v => s.safetyOut v.play v.tensor && decide (v.run = s.cue.count.toNat) && !v.rep).foldl (fun s v =>
      match s.lostPart v 0 v.bytes.length with
      | some a => loseValue (holderId a) v s
      | none => s) s
    let valid := s.cueValid
    let s := if valid then s else failPair (invalidate (if s.missing ≠ [] then 5 else 6) s)
    let s := publish valid s
    let s := { s with cue := { s.cue with published := true, mark := 5 } }
    .next (if valid then runCurtain s else s)

/-- LMIN_MARK: the understudy's reserve ends, and with it the understudy memory's slice (R471). -/
def execLminMark (t : Nat) (s : State) : Host.Outcome State Fault Refusal :=
  let s := s.at t
  .next (if s.cue.running && decide (us s.lminUs ≤ s.off) then
      suspendSlices s.now [.umem] { s with cue := { s.cue with mark := 6 } } else s)

end Sys2Proof.Machine
end

