-- ==== Sys2Proof/Machine/Curtain.lean ====
section
/-! DEFINITION. The stage manager's lockstep and watchdog, and the curtain's own watchdogs (R322, R336, R355). -/

namespace Sys2Proof.Machine

/-- The part is powered and out of RESET. -/
def State.awake (s : State) : Bool := s.chip.powered && !s.chip.resetN && decide (s.dev.st ≠ .reset)

/-- STAGE_MANAGER_LOCKSTEP_MISMATCH: event 0x070D, stop cause 0x08, device-level fault 1 (R322). -/
def execStageManagerLockstepMismatch (t : Nat) (s : State) : Host.Outcome State Fault Refusal :=
  let s := s.at t
  .next (if s.awake then deviceFault 1 idStage (detect 8 idStage (logEvent 0x070D idStage 0 s)) else s)

/-- STAGE_MANAGER_WATCHDOG_EXPIRY: event 0x0812, stop cause 0x0E, device-level fault 2 (R355). -/
def execStageManagerWatchdogExpiry (t : Nat) (s : State) : Host.Outcome State Fault Refusal :=
  let s := s.at t
  .next (if s.awake then deviceFault 2 idStage (detect 0x0E idStage (logEvent 0x0812 idStage 0 s)) else s)

/-- CURTAIN_WATCHDOG_EXPIRY: no boundary pulse within 1.02 × P + 2 µs of the last one (R336). -/
def execCurtainWatchdogExpiry (t : Nat) (s : State) : Host.Outcome State Fault Refusal :=
  let s := s.at t
  .next (if s.cue.running && decide (s.cur.lastPulse + 408 * s.forme.period + us 2 ≤ s.now) then detect 0x0F idCurtain s else s)

/-- OSCILLATOR_MONITOR_COUNT: oscillator cycles in 10 µs, in range from 920 to 1,080; event 0x070F at each passing out of range
(R336). -/
def execOscillatorMonitorCount (t count : Nat) (s : State) : Host.Outcome State Fault Refusal :=
  let s := s.at t
  .next (if !s.awake then s
    else if 920 ≤ count ∧ count ≤ 1080 then { s with cur := { s.cur with oscOut := false } }
    else if s.cur.oscOut then detect 0x0F idCurtain s
    else detect 0x0F idCurtain (logEvent 0x070F idCurtain 0 { s with cur := { s.cur with oscOut := true } }))

end Sys2Proof.Machine
end

