-- ==== Sys2Proof/Machine/Jpeg.lean ====
section
/-! DEFINITION. The JPEG engines' decode: quantization tables, Huffman codes, blocks, restart intervals and the image (R68, R70). The standards
that R68 and R70 name give the tables and the bitstream (PRESUMED, assumption 33). -/

namespace Sys2Proof.Machine

/-! ### Quantization tables (RFC 2435) -/

/-- Places in a block, row by row, of the coefficients in their coded order. -/
def zigzag : List Nat :=
  [0, 1, 8, 16, 9, 2, 3, 10, 17, 24, 32, 25, 18, 11, 4, 5, 12, 19, 26, 33, 40, 48, 41, 34, 27, 20, 13, 6, 7, 14, 21, 28] ++
  [35, 42, 49, 56, 57, 50, 43, 36, 29, 22, 15, 23, 30, 37, 44, 51, 58, 59, 52, 45, 38, 31, 39, 46, 53, 60, 61, 54, 47, 55, 62, 63]

/-- The standard's tables of luminance and chrominance, row by row. -/
def quantBase (chroma : Bool) : List Nat :=
  if chroma then
    [17, 18, 24, 47, 99, 99, 99, 99, 18, 21, 26, 66, 99, 99, 99, 99, 24, 26, 56, 99, 99, 99, 99, 99, 47, 66, 99, 99, 99, 99, 99, 99] ++
    List.replicate 32 99
  else
    [16, 11, 10, 16, 24, 40, 51, 61, 12, 12, 14, 19, 26, 58, 60, 55, 14, 13, 16, 24, 40, 57, 69, 56, 14, 17, 22, 29, 51, 87, 80, 62] ++
    [18, 22, 37, 56, 68, 109, 103, 77, 24, 35, 55, 64, 81, 104, 113, 92, 49, 64, 78, 87, 103, 121, 120, 101, 72, 92, 95, 98, 112, 100, 103, 99]

/-- The tables scaled for a Q value of 1 to 99. -/
def quantScaled (q : Nat) (chroma : Bool) : List Nat :=
  let f := if q < 50 then 5000 / q else 200 - 2 * q
  (quantBase chroma).map fun v => min 255 (max 1 ((v * f + 50) / 100))

/-- The two tables of a quantization table header: each in coded order, of bytes, or of big-endian words where its precision bit is set. -/
def quantInBand (hdr : List Byte) : Option (List Nat × List Nat) :=
  let prec := u8 hdr 1
  let len := beNat (sub hdr 2 2)
  let size := fun (k : Nat) => if prec / 2 ^ k % 2 = 1 then 128 else 64
  let data := sub hdr 4 len
  let table := fun (k : Nat) (l : List Byte) => (List.range 64).map fun i =>
    let c := (zigzag.idxOf? i).getD 0
    if size k = 128 then beNat (sub l (2 * c) 2) else u8 l c
  if len < size 0 + size 1 ∨ data.length < len then none
  else some (table 0 data, table 1 (data.drop (size 0)))

/-- The quantization tables that a frame's first payload gives. -/
def quantTables (j : List Byte) : Option (List Nat × List Nat) :=
  let q := u8 j 5
  if 128 ≤ q then quantInBand (j.drop (if 64 ≤ u8 j 4 then 12 else 8))
  else if 1 ≤ q ∧ q ≤ 99 then some (quantScaled q false, quantScaled q true)
  else none

/-- MCUs between restart markers; 0 without them. -/
def restartInterval (j : List Byte) : Nat := if 64 ≤ u8 j 4 then beNat (sub j 8 2) else 0

/-! ### Huffman codes (ISO/IEC 10918-1, Annexes F and K) -/

/-- Symbols of a run with every size from one on. -/
def runSizes (l : List (Nat × Nat)) : List Nat := l.flatMap fun e => (List.range (11 - e.2)).map fun k => 16 * e.1 + e.2 + k

/-- The number of codes of each length, and the symbols in code order. -/
structure HuffTable where
  counts : List Nat
  symbols : List Nat
deriving DecidableEq, Repr

def huffDc (chroma : Bool) : HuffTable :=
  { counts := if chroma then [0, 3, 1, 1, 1, 1, 1, 1, 1, 1, 1, 0, 0, 0, 0, 0] else [0, 1, 5, 1, 1, 1, 1, 1, 1, 0, 0, 0, 0, 0, 0, 0]
    symbols := List.range 12 }

def huffAc (chroma : Bool) : HuffTable :=
  if chroma then
    { counts := [0, 2, 1, 2, 4, 4, 3, 4, 7, 5, 4, 4, 0, 1, 2, 0x77]
      symbols :=
        [0x00, 0x01, 0x02, 0x03, 0x11, 0x04, 0x05, 0x21, 0x31, 0x06, 0x12, 0x41, 0x51, 0x07, 0x61, 0x71, 0x13, 0x22, 0x32, 0x81, 0x08, 0x14] ++
        [0x42, 0x91, 0xA1, 0xB1, 0xC1, 0x09, 0x23, 0x33, 0x52, 0xF0, 0x15, 0x62, 0x72, 0xD1, 0x0A, 0x16, 0x24, 0x34, 0xE1, 0x25, 0xF1] ++
        runSizes [(1, 7), (2, 6), (3, 5), (4, 3), (5, 3), (6, 3), (7, 3), (8, 2), (9, 2), (10, 2), (11, 2), (12, 2), (13, 2), (14, 2), (15, 2)] }
  else
    { counts := [0, 2, 1, 3, 3, 2, 4, 3, 5, 5, 4, 4, 0, 0, 1, 0x7D]
      symbols :=
        [0x01, 0x02, 0x03, 0x00, 0x04, 0x11, 0x05, 0x12, 0x21, 0x31, 0x41, 0x06, 0x13, 0x51, 0x61, 0x07, 0x22, 0x71, 0x14] ++
        [0x32, 0x81, 0x91, 0xA1, 0x08, 0x23, 0x42, 0xB1, 0xC1, 0x15, 0x52, 0xD1, 0xF0, 0x24, 0x33, 0x62, 0x72, 0x82, 0x09, 0x0A] ++
        runSizes [(1, 6), (2, 5), (3, 4), (4, 3), (5, 3), (6, 3), (7, 3), (8, 3), (9, 2), (10, 2), (11, 2), (12, 2), (13, 2), (14, 1), (15, 1)] }

/-- The symbol of the code at the head of the bits, length by length; none where the bits end or no code matches. -/
def huffSymbol : List Nat → List Nat → Nat → Nat → List Bool → Option (Nat × List Bool)
  | n :: ns, syms, code, first, b :: bs =>
    let code := 2 * code + b.toNat
    if code < first + n then some (syms.getD (code - first) 0, bs) else huffSymbol ns (syms.drop n) code (2 * (first + n)) bs
  | _, _, _, _, _ => none

def HuffTable.next (h : HuffTable) (bits : List Bool) : Option (Nat × List Bool) := huffSymbol h.counts h.symbols 0 0 bits

/-- A number of a size: its bits, those that begin with 0 standing for the negative ones. -/
def takeNumber (size : Nat) (bits : List Bool) : Option (Int × List Bool) :=
  if bits.length < size then none
  else
    let v := (bits.take size).foldl (fun n b => 2 * n + b.toNat) 0
    some (if size = 0 then 0 else if v < 2 ^ (size - 1) then Int.ofNat v - Int.ofNat (2 ^ size - 1) else Int.ofNat v, bits.drop size)

/-! ### Blocks -/

/-- The AC coefficients from a place on: an end of block, sixteen zeros, or a run of zeros with a coefficient; none beyond the block. -/
def acCoeffs (h : HuffTable) : Nat → Nat → List Bool → Option (List (Nat × Int) × List Bool)
  | 0, _, bits => some ([], bits)
  | fuel + 1, k, bits =>
    if 64 ≤ k then some ([], bits)
    else
      match h.next bits with
      | none => none
      | some (0x00, bits) => some ([], bits)
      | some (0xF0, bits) => if 64 < k + 16 then none else acCoeffs h fuel (k + 16) bits
      | some (rs, bits) =>
        let k := k + rs / 16
        if 64 ≤ k then none
        else
          match takeNumber (rs % 16) bits with
          | none => none
          | some (v, bits) =>
            match acCoeffs h fuel (k + 1) bits with
            | none => none
            | some (l, bits) => some ((k, v) :: l, bits)

/-- One block of a component: its coefficients in coded order and the DC value, which stays within the range of 8-bit samples. -/
def jpegBlock (chroma : Bool) (pred : Int) (bits : List Bool) : Option (List (Nat × Int) × Int × List Bool) :=
  match (huffDc chroma).next bits with
  | none => none
  | some (size, bits) =>
    match takeNumber size bits with
    | none => none
    | some (d, bits) =>
      let dc := pred + d
      if dc < -1024 ∨ 1023 < dc then none
      else
        match acCoeffs (huffAc chroma) 63 1 bits with
        | none => none
        | some (l, bits) => some ((0, dc) :: l, dc, bits)

/-- A block's dequantized coefficients, row by row. -/
def dequantized (q : List Nat) (l : List (Nat × Int)) : List Int :=
  (List.range 64).map fun i =>
    let v := ((l.find? fun e => zigzag.getD e.1 64 = i).map Prod.snd).getD 0
    v * (q.getD i 0 : Nat)

/-- The blocks of one MCU, by component 0 to 2, with the DC predictions. -/
def mcuBlocks (qs : List Nat × List Nat) : List Nat → List Int → List Bool → Option (List (List Int) × List Int × List Bool)
  | [], preds, bits => some ([], preds, bits)
  | c :: cs, preds, bits =>
    match jpegBlock (decide (c ≠ 0)) (preds.getD c 0) bits with
    | none => none
    | some (l, dc, bits) =>
      match mcuBlocks qs cs (preds.set c dc) bits with
      | none => none
      | some (bs, preds, bits) => some (dequantized (if c = 0 then qs.1 else qs.2) l :: bs, preds, bits)

/-! ### The bitstream -/

def byteBits (b : Byte) : List Bool := (List.range 8).map fun k => b.getLsbD (7 - k)

/-- The bits up to a marker, without stuffed bytes, and the marker's code with what follows it. -/
def entropyBits : List Byte → List Bool × Option (Byte × List Byte)
  | [] => ([], none)
  | 0xFF :: b :: l =>
    if b = 0 then
      let r := entropyBits l
      (byteBits 0xFF ++ r.1, r.2)
    else if b = 0xFF then entropyBits (b :: l)
    else ([], some (b, l))
  | b :: l =>
    let r := entropyBits l
    (byteBits b ++ r.1, r.2)

/-- The MCUs of a frame from number `m` on; after each restart interval the next marker in turn must stand. -/
def mcus (qs : List Nat × List Nat) (comps : List Nat) (rst : Nat) :
    Nat → Nat → List Int → List Bool → Option (Byte × List Byte) → Option (List (List (List Int)))
  | 0, _, _, _, _ => some []
  | n + 1, m, preds, bits, tail =>
    let cur : Option (List Int × List Bool × Option (Byte × List Byte)) :=
      if rst = 0 ∨ m = 0 ∨ m % rst ≠ 0 then some (preds, bits, tail)
      else
        match tail with
        | none => none
        | some (k, l) =>
          if k ≠ BitVec.ofNat 8 (0xD0 + (m / rst - 1) % 8) then none
          else
            let r := entropyBits l
            some ([0, 0, 0], r.1, r.2)
    match cur with
    | none => none
    | some (preds, bits, tail) =>
      match mcuBlocks qs comps preds bits with
      | none => none
      | some (bs, preds, bits) =>
        match mcus qs comps rst n (m + 1) preds bits tail with
        | none => none
        | some l => some (bs :: l)

/-! ### The image -/

/-- Components of an MCU's blocks: luminance in rows of two, then Cb and Cr (types 0 and 64 are 4:2:2, types 1 and 65 are 4:2:0). -/
def mcuComps (typ : Nat) : List Nat := if typ % 64 = 0 then [0, 0, 1, 2] else [0, 0, 0, 0, 1, 2]

/-- A sample of a block: the IDCT of ISO/IEC 23002-2, shifted to 0 to 255 and held there. -/
def jpegSample (coeffs : List Int) (i : Nat) : Int := max 0 (min 255 (Config.idct coeffs i + 128))

/-- A pixel's component in the decoded MCUs, chroma replicated. -/
def jpegPixel (typ w : Nat) (ms : Array (List (List Int))) (k x y : Nat) : Int :=
  let mh := if typ % 64 = 0 then 8 else 16
  let m := ms.getD (y / mh * ((w + 15) / 16) + x / 16) []
  if k = 0 then jpegSample (m.getD (y % mh / 8 * 2 + x % 16 / 8) []) (y % 8 * 8 + x % 8)
  else jpegSample (m.getD ((mcuComps typ).length - 3 + k) []) (y % mh * 8 / mh * 8 + x % 16 / 2)

/-- The image of a frame, pixel by pixel; none where its bitstream ends early, holds an invalid code or a coefficient out of range. -/
def jpegDecode (j : JpegJob) : Option (Nat → Nat → Nat → Int) :=
  let mh := if j.typ % 64 = 0 then 8 else 16
  let r := entropyBits j.bytes
  (mcus j.tables (mcuComps j.typ) j.rst ((j.w + 15) / 16 * ((j.h + mh - 1) / mh)) 0 [0, 0, 0] r.1 r.2).map fun ms => jpegPixel j.typ j.w ms.toArray

end Sys2Proof.Machine
end

