-- ==== Sys2Proof/Machine/Ingest.lean ====
section
/-! DEFINITION. Sensor ingest: camera ports, Ethernet ports, decode engines, completion of samples and loss of streams
(R55 to R94). -/

namespace Sys2Proof.Machine

/-! ### Streams and samples -/

def State.stream (s : State) (i : Fin 32) : Option Stream := s.forme.streams.getD i.1 none

def State.modStream (i : Fin 32) (f : StreamRt → StreamRt) (s : State) : State :=
  { s with ing := { s.ing with streams := vmod s.ing.streams i f } }

/-- Slots whose stream satisfies `p`, ascending. -/
def State.slotsOf (s : State) (p : Stream → Bool) : List (Fin 32) := (List.finRange 32).filter fun i => (s.stream i).any p

/-- The port takes in frames and packets: it is neither struck nor retired (R90). -/
def State.portOpen (s : State) (n : Fin 20) : Bool :=
  decide ((s.unit (.port n)).mode ≠ .struck ∧ (s.unit (.port n)).mode ≠ .retired)

/-- State of the port of a slot's stream. -/
def State.streamMode (s : State) (i : Fin 32) : UnitMode :=
  ((s.stream i).map fun c => (s.unit (.port (Fin.ofNat 20 c.portIdx))).mode).getD .absent

/-- Identifier of the port of a slot's stream. -/
def State.portIdOf (s : State) (i : Fin 32) : Byte := ((s.stream i).map fun c => unitId c.unit).getD 0xFF#8

/-- A sample of the stream begins: it stands unfinished until it completes (R81). -/
def beginSample (i : Fin 32) (stamp num : Nat) (s : State) : State :=
  s.modStream i fun r => { r with
    lastId := r.lastId + 1
    samples := r.samples ++
      [{ id := r.lastId + 1, stamp := stamp, done := none, status := 0, points := 0, num := num, bytes := [], test := true }] }

/-- The number of the sample that began last. -/
def State.lastSample (s : State) (i : Fin 32) : Nat := (s.ing.streams.get i).lastId

/-- A check rejects a sample: the first check's code stays (R81). -/
def rejectSample (i : Fin 32) (id code : Nat) (s : State) : State :=
  s.modStream i fun r => { r with
    samples := lmod (fun x => decide (x.id = id ∧ x.status = 0)) (fun x => { x with status := code }) r.samples }

/-- A sample's output is written and it awaits its proof check, in sample order. -/
def addReady (x : Sample) : List Sample → List Sample
  | [] => [x]
  | y :: r => if x.id < y.id then x :: y :: r else y :: addReady x r

def makeReady (i : Fin 32) (x : Sample) (s : State) : State := s.modStream i fun r => { r with ready := addReady x r.ready }

/-- A Frame Start or matching packet restarts the stream's loss clock (R92). -/
def heard (i : Fin 32) (s : State) : State := s.modStream i fun r => { r with lossFrom := s.now }

/-! ### Camera ports (R58 to R61) -/

/-- Slots of a camera port's streams on a virtual channel. -/
def State.onChannel (s : State) (n : Fin 16) (vc : Nat) : List (Fin 32) :=
  s.slotsOf fun c => decide (c.kind ≤ 1) && decide (c.port = n.1) && decide (c.vc = vc)

/-- Set up the port for its traffic: declared lanes, port open, cues running (R469). -/
def State.camLive (s : State) (n : Fin 16) : Bool :=
  s.cue.running && decide (((s.forme.cams[n.1]?).map CamPort.lanes).getD 0 ≠ 0) && s.portOpen ⟨n.1, by omega⟩

/-- A check rejects the frame in progress of a stream, once: event, and the sample is a FORMAT one (R60) (DEDUCED, assumption 79). -/
def rejectFrame (code : Nat) (i : Fin 32) (s : State) : State :=
  let r := s.ing.streams.get i
  match r.frame with
  | none => s
  | some f =>
    if f.bad then s
    else
      let s := logEvent code (s.portIdOf i) i.1 (s.modStream i fun r => { r with
        frame := some { f with bad := true }, set := r.set.map fun t => { t with bad := true } })
      rejectSample i f.id 3 s

/-- What the header's ECC says of a packet: corrected (0x0201, once per port and cue), or beyond correction, which rejects every
frame in progress on the port. -/
def headerCheck (n : Fin 16) (vc vcx : Nat) (hdr : HeaderObs) (s : State) : State :=
  match hdr with
  | .clean => s
  | .corrected => logOnce n.1 0x0201 (unitId (.port ⟨n.1, by omega⟩)) (vc + 4 * vcx) s
  | .uncorrectable => (s.slotsOf fun c => decide (c.kind ≤ 1) && decide (c.port = n.1)).foldl (fun s i => rejectFrame 0x0202 i s) s

/-- A packet of which nothing is read: an uncorrectable header or virtual channel extension bits (R58, R60). -/
def unreadable (vcx : Nat) (hdr : HeaderObs) : Bool := decide (hdr = .uncorrectable) || decide (vcx ≠ 0)

/-- A phase set of a ToF stream is rejected with event 0x0226, once (R61); one that a frame check has rejected logs nothing more (DESIGN CHOICE,
assumption 109). -/
def rejectSet (i : Fin 32) (s : State) : State :=
  match (s.ing.streams.get i).set with
  | none => s
  | some t =>
    if t.bad then s
    else rejectSample i t.id 3 (logEvent 0x0226 (s.portIdOf i) i.1 (s.modStream i fun r => { r with set := some { t with bad := true } }))

/-- A set that missed phase 0: it has no sample of its own (DEDUCED, assumption 80). -/
def headlessSet (i : Fin 32) (s : State) : State :=
  logEvent 0x0226 (s.portIdOf i) i.1
    (s.modStream i fun r => { r with set := some { id := 0, stamp := 0, num := 0, images := [], next := 0, bad := true } })

/-- The phase frame with number `f` begins (R61): phase 0 begins a set, the next phase goes on with it, any other rejects it. -/
def phaseStart (c : Stream) (i : Fin 32) (f : Nat) (s : State) : State :=
  let stamp := stampOf s.ns
  let p := (f - 1) % c.phases
  if f ≠ 0 ∧ p = 0 then
    let s := rejectSet i s
    let s := beginSample i stamp f s
    s.modStream i fun r => { r with set := some { id := r.lastId, stamp := stamp, num := f, images := [], next := 0, bad := false } }
  else
    match (s.ing.streams.get i).set with
    | none => headlessSet i s
    | some t => if f ≠ 0 ∧ t.next = p then s else rejectSet i s

/-- A frame of a stream begins (R60, R77); one still in progress is rejected. -/
def frameStart (num : Nat) (s : State) (i : Fin 32) : State :=
  match s.stream i with
  | none => s
  | some c =>
    let s := heard i (rejectFrame 0x0204 i s)
    let stamp := stampOf s.ns
    let s := if c.kind = 1 then phaseStart c i num s else beginSample i stamp num s
    let id := if c.kind = 1 then (((s.ing.streams.get i).set).map PhaseSet.id).getD 0 else s.lastSample i
    s.modStream i fun r => { r with frame := some { id := id, stamp := stamp, num := num, lines := [], embedded := [], bad := false } }

/-- CSI2_FRAME_START. -/
def execCsi2FrameStart (t : Nat) (n : Fin 16) (vc vcx frame : Nat) (hdr : HeaderObs) (s : State) :
    Host.Outcome State Fault Refusal :=
  let s := s.at t
  .next (if !s.camLive n then s
    else
      let s := headerCheck n vc vcx hdr s
      if unreadable vcx hdr then s else (s.onChannel n vc).foldl (frameStart frame) s)

/-- A line of a stream's frame: its CRC, its length and its place are checked (R60); a line that comes while no frame of its stream is in
progress has no effect (DESIGN CHOICE, assumption 144). -/
def takeLine (crcOk : Bool) (payload : List Byte) (s : State) (i : Fin 32) : State :=
  match s.stream i, (s.ing.streams.get i).frame with
  | some c, some f =>
    if !crcOk then rejectFrame 0x0203 i s
    else if payload.length ≠ c.lineBytes ∨ c.height ≤ f.lines.length then rejectFrame 0x0204 i s
    else if f.bad then s
    else s.modStream i fun r => { r with frame := some { f with lines := payload :: f.lines } }
  | _, _ => s

/-- An embedded-data line; the first four of a frame are kept for the test row (R91). -/
def takeEmbedded (crcOk : Bool) (payload : List Byte) (s : State) (i : Fin 32) : State :=
  match (s.ing.streams.get i).frame with
  | none => s
  | some f =>
    if !crcOk then rejectFrame 0x0203 i s
    else if f.embedded.length < 4 then s.modStream i fun r => { r with frame := some { f with embedded := payload :: f.embedded } }
    else s

/-- CSI2_LONG_PACKET: a packet of no declared stream is dropped with event 0x0205, once per port and cue. -/
def execCsi2LongPacket (t : Nat) (n : Fin 16) (vc vcx dt : Nat) (hdr : HeaderObs) (crcOk : Bool) (payload : List Byte) (s : State) :
    Host.Outcome State Fault Refusal :=
  let s := s.at t
  .next (if !s.camLive n then s
    else
      let s := headerCheck n vc vcx hdr s
      if hdr = .uncorrectable then s
      else
        let own := if vcx = 0 then s.onChannel n vc else []
        let mine := own.filter fun i => (s.stream i).any fun c => decide (c.dt = dt)
        if own ≠ [] ∧ dt = 0x12 then own.foldl (takeEmbedded crcOk payload) s
        else if mine = [] then logOnce n.1 0x0205 (unitId (.port ⟨n.1, by omega⟩)) dt s
        else mine.foldl (takeLine crcOk payload) s)

/-- The frame's test row holds the declared bytes (R91); true where the stream declares none. -/
def testRowOk (c : Stream) (f : Frame) : Bool :=
  if c.kind = 0 ∧ c.flags / 2 % 2 = 1 then
    match f.embedded.reverse[c.testLine]? with
    | none => false
    | some l => decide ((sub l c.testOff c.testLen).length = c.testLen) && decide ((crc32 (sub l c.testOff c.testLen)).toNat = c.testCrc)
  else true

/-- A phase frame ends: it joins its set, and the last phase ends the set (R61, R87). -/
def phaseEnd (c : Stream) (i : Fin 32) (f : Frame) (s : State) : State :=
  match (s.ing.streams.get i).set with
  | none => s
  | some t =>
    let images := f.lines.reverse :: t.images
    if (f.num - 1) % c.phases + 1 = c.phases ∧ f.num ≠ 0 then
      let s := s.modStream i fun r => { r with set := none }
      if t.id = 0 then s
      else makeReady i { id := t.id, stamp := t.stamp, done := none, status := if t.bad then 3 else 0, points := 0, num := t.num
                         bytes := if t.bad then [] else tofBytes c images.reverse, test := true } s
    else s.modStream i fun r => { r with set := some { t with images := images, next := t.next + 1 } }

/-- A frame ends: short of its height it is rejected; its proof lines follow it (R60, R87). -/
def frameEnd (s : State) (i : Fin 32) : State :=
  match s.stream i, (s.ing.streams.get i).frame with
  | some c, some f =>
    let s := if f.lines.length < c.height then rejectFrame 0x0204 i s else s
    let bad := f.bad || decide (f.lines.length < c.height)
    let s := s.modStream i fun r => { r with frame := none }
    if c.kind = 1 then phaseEnd c i f s
    else makeReady i { id := f.id, stamp := f.stamp, done := none, status := if bad then 3 else 0, points := 0, num := f.num
                       bytes := if bad then [] else cameraBytes c f.lines.reverse, test := testRowOk c f } s
  | _, _ => s

/-- CSI2_FRAME_END. -/
def execCsi2FrameEnd (t : Nat) (n : Fin 16) (vc vcx _frame : Nat) (hdr : HeaderObs) (s : State) :
    Host.Outcome State Fault Refusal :=
  let s := s.at t
  .next (if !s.camLive n then s
    else
      let s := headerCheck n vc vcx hdr s
      if unreadable vcx hdr then s else (s.onChannel n vc).foldl frameEnd s)

/-- CSI2_LINE_OR_GENERIC_SHORT_PACKET: its header is checked and it is otherwise ignored. -/
def execCsi2LineOrGenericShortPacket (t : Nat) (n : Fin 16) (vc vcx _dt : Nat) (hdr : HeaderObs) (s : State) :
    Host.Outcome State Fault Refusal :=
  let s := s.at t
  .next (if !s.camLive n then s else headerCheck n vc vcx hdr s)

/-- DPHY_DESKEW_CALIBRATION: above 1.5 Gb/s the port's receiver aligns its lanes (R58) (DEDUCED, assumption 86). -/
def execDphyDeskewCalibration (t : Nat) (n : Fin 16) (s : State) : Host.Outcome State Fault Refusal :=
  let s := s.at t
  .next (if s.camLive n && decide (1500 < ((s.forme.cams[n.1]?).map CamPort.rate).getD 0) && decide (n ∉ s.ing.deskewed) then
      { s with ing := { s.ing with deskewed := n :: s.ing.deskewed } }
    else s)

/-! ### Lidar packets (R65 to R67) -/

/-- The rotation in progress ends and awaits its proof check; places of the slot beyond its points hold free values (DESIGN CHOICE,
assumption 9). -/
def endRotation (c : Stream) (i : Fin 32) (s : State) : State :=
  match (s.ing.streams.get i).rotation with
  | none => s
  | some o =>
    let rest := c.slotBytes - o.recs.length
    let bytes := if o.status = 0 then o.recs ++ (List.range rest).map fun k => Config.freeByte (s.free + k) else []
    let s := if o.status = 0 then { s with free := s.free + rest } else s
    makeReady i { id := o.id, stamp := o.stamp, done := none, status := o.status, points := o.points, num := o.num, bytes := bytes
                  test := true } (s.modStream i fun r => { r with rotation := none })

/-- A rotation begins with this packet (R77). -/
def beginRotation (i : Fin 32) (s : State) : State :=
  let stamp := stampOf s.ns
  let num := (s.ing.streams.get i).rotNum + 1
  let s := beginSample i stamp num.toNat s
  s.modStream i fun r => { r with
    rotNum := num
    rotation := some { id := r.lastId, stamp := stamp, num := num.toNat, begun := s.now, points := 0, recs := [], status := 0 } }

/-- A check rejects the rotation in progress. -/
def rejectRotation (i : Fin 32) (code : Nat) (s : State) : State :=
  match (s.ing.streams.get i).rotation with
  | none => s
  | some o =>
    if o.status = 0 then rejectSample i o.id code (s.modStream i fun r => { r with rotation := some { o with status := code } }) else s

/-- One point of a packet: it may begin a rotation, and it is written unless dropped, rejected or over the maximum (R65, R66); a rotation that
a check has rejected counts no further points (DESIGN CHOICE, assumption 142). -/
def takePoint (c : Stream) (i : Fin 32) (pkt : List Byte) (s : State) (k : Nat) : State :=
  let az := azimuth c pkt k
  let wraps := decide (u16 c.lidar 6 = 0xFFFF) && (c.descriptor .azimuth).isSome &&
    ((s.ing.streams.get i).lastAz.any fun a => decide (az < a))
  let s := if wraps then beginRotation i (endRotation c i s) else s
  let s := s.modStream i fun r => { r with lastAz := some az }
  match (s.ing.streams.get i).rotation with
  | none => s
  | some o =>
    if o.status ≠ 0 ∨ pointDropped c pkt k = true then s
    else if c.maxA ≤ o.points then rejectRotation i 4 (logEvent 0x0225 idDecoder i.1 s)
    else s.modStream i fun r => { r with rotation := some { o with points := o.points + 1, recs := o.recs ++ pointRecord c pkt k } }

/-- The packet's sequence field, and whether it leaves a gap after the last. -/
def seqGap (c : Stream) (r : StreamRt) (pkt : List Byte) : Option (Nat × Bool) :=
  let n := u8 c.lidar 11 / 8
  let place := u16 c.lidar 9
  if n = 0 ∨ pkt.length < place + n then none
  else
    let v := uN n pkt place
    some (v, r.lastSeq.any fun a => decide ((a + 1) % 256 ^ n ≠ v))

/-- A lidar packet (R65, R66) (DEDUCED, assumption 81); the packets before the first rotation boundary form a rotation (DESIGN CHOICE, assumption
111), and a gap in the sequence rejects the rotation in progress as the packet's first point is read (DESIGN CHOICE, assumption 142). -/
def lidarPacket (c : Stream) (i : Fin 32) (pkt : List Byte) (s : State) : State :=
  let flagged := decide (u16 c.lidar 6 ≠ 0xFFFF) && decide (u8 pkt (u16 c.lidar 6) / 2 ^ (u8 c.lidar 8) % 2 = 1)
  let short := decide (pkt.length < c.packetLen)
  let s := if flagged && !short then endRotation c i s else s
  let s := if (s.ing.streams.get i).rotation.isNone then beginRotation i s else s
  let s := match seqGap c (s.ing.streams.get i) pkt with
    | none => s
    | some (v, gap) =>
      let s := s.modStream i fun r => { r with lastSeq := some v }
      if gap then rejectRotation i 3 s else s
  if short then logEvent 0x0224 idDecoder i.1 s else (List.range c.perPacket).foldl (takePoint c i pkt) s

/-! ### RTP JPEG packets (R68, R69, R86) -/

/-- A check rejects the frame in reassembly; the event is the port's. -/
def rejectRtp (i : Fin 32) (code : Nat) (event : Option Nat) (s : State) : State :=
  match (s.ing.streams.get i).rtp with
  | none => s
  | some f =>
    if f.status ≠ 0 then s
    else
      let s := match event with
        | some e => logEvent e (s.portIdOf i) i.1 s
        | none => s
      rejectSample i f.id code (s.modStream i fun r => { r with rtp := some { f with status := code } })

/-- The payload of an RTP version 2 packet: marker, timestamp and what follows its header, without padding. -/
def rtpParse (p : List Byte) : Option (Bool × Nat × List Byte) :=
  let b0 := u8 p 0
  let csrc := 12 + 4 * (b0 % 16)
  let ext := if b0 / 16 % 2 = 1 then 4 + 4 * beNat (sub p (csrc + 2) 2) else 0
  let pad := if b0 / 32 % 2 = 1 then u8 p (p.length - 1) else 0
  if b0 / 64 ≠ 2 ∨ p.length < csrc + ext + pad + 8 then none
  else some (decide (u8 p 1 ≥ 128), beNat (sub p 4 4), (p.drop (csrc + ext)).take (p.length - csrc - ext - pad))

/-- Bytes of the restart marker and quantization table headers before the entropy-coded bytes of a payload. -/
def jpegHeaderLen (j : List Byte) : Nat :=
  let off := beNat (sub j 1 3)
  let rst := if u8 j 4 ≥ 64 then 4 else 0
  let q := if u8 j 5 ≥ 128 ∧ off = 0 then 4 + beNat (sub j (10 + rst) 2) else 0
  8 + rst + q

/-- Blocks that a frame of a type and size holds (R86). -/
def jpegBlocks (typ w h : Nat) : Nat :=
  if typ % 64 = 0 then 4 * ((w + 15) / 16) * ((h + 7) / 8) else 6 * ((w + 15) / 16) * ((h + 15) / 16)

/-- A frame of a stream begins with the packet of fragment offset 0; a claim over the slot maximum is rejected (R86). -/
def beginRtp (c : Stream) (i : Fin 32) (time : Nat) (j : List Byte) (s : State) : State :=
  let stamp := stampOf s.ns
  let w := 8 * u8 j 6
  let h := 8 * u8 j 7
  let s := beginSample i stamp time s
  let tables := (quantTables j).getD ([], [])
  let s := s.modStream i fun r => { r with
    rtp := some { id := r.lastId, time := time, stamp := stamp, next := 0, typ := u8 j 4, w := w, h := h, rst := restartInterval j, tables := tables
                  bytes := [], status := 0 } }
  if c.maxA < w ∨ c.maxB < h then rejectRtp i 4 (some 0x0220) s else s

/-- A frame whose packet of fragment offset 0 never came: event 0x0223 (R69). -/
def headlessRtp (i : Fin 32) (time : Nat) (s : State) : State :=
  logEvent 0x0223 (s.portIdOf i) i.1 (s.modStream i fun r => { r with
    rtp := some { id := 0, time := time, stamp := 0, next := 0, typ := 0, w := 0, h := 0, rst := 0, tables := ([], []), bytes := [], status := 3 } })

/-- Types and Q values that the device decodes; a Q value of 128 or more has its tables in the first packet (R68). -/
def rtpKnown (j : List Byte) : Bool :=
  decide (u8 j 4 ∈ [0, 1, 64, 65]) && (decide (1 ≤ u8 j 5 ∧ u8 j 5 ≤ 99) || decide (128 ≤ u8 j 5)) &&
    (decide (beNat (sub j 1 3) ≠ 0) || (quantTables j).isSome)

/-- The marker packet ends the frame: it is rejected if its bytes are too few for its claim, and else waits for an engine (R85, R86). -/
def endRtp (i : Fin 32) (s : State) : State :=
  match (s.ing.streams.get i).rtp with
  | none => s
  | some f =>
    let small := decide (8 * f.next < 2 * jpegBlocks f.typ f.w f.h)
    let s := if small then rejectRtp i 4 (some 0x0220) s else s
    let s := s.modStream i fun r => { r with rtp := none }
    let status := if f.status ≠ 0 then f.status else if small then 4 else 0
    if f.id = 0 then s
    else if status = 0 then
      let j : JpegJob :=
        { slot := i, id := f.id, stamp := f.stamp, num := f.time, begun := 0, typ := f.typ, w := f.w, h := f.h, rst := f.rst, tables := f.tables
          bytes := f.bytes }
      { s with ing := { s.ing with jpegQ := s.ing.jpegQ ++ [j] } }
    else makeReady i { id := f.id, stamp := f.stamp, done := none, status := status, points := 0, num := f.time, bytes := [], test := true } s

/-- A packet's fragment joins the frame in reassembly; a gap, an overlap or a run past the buffer rejects it (R69). -/
def takeFragment (c : Stream) (i : Fin 32) (j : List Byte) (s : State) : State :=
  match (s.ing.streams.get i).rtp with
  | none => s
  | some f =>
    let data := j.drop (jpegHeaderLen j)
    if f.status ≠ 0 then s
    else if j.length < jpegHeaderLen j ∨ beNat (sub j 1 3) ≠ f.next ∨ c.reasm < f.next + data.length then rejectRtp i 3 (some 0x0223) s
    else s.modStream i fun r => { r with rtp := some { f with next := f.next + data.length, bytes := f.bytes ++ data } }

/-- An RTP JPEG packet; one that is not RTP version 2 or shorter than its headers is ignored (DESIGN CHOICE, assumption 112). -/
def rtpPacket (c : Stream) (i : Fin 32) (p : List Byte) (s : State) : State :=
  match rtpParse p with
  | none => s
  | some (marker, time, j) =>
    let off := beNat (sub j 1 3)
    let s := match (s.ing.streams.get i).rtp with
      | some f => if f.time = time then s else (rejectRtp i 3 (some 0x0223) s).modStream i fun r => { r with rtp := none }
      | none => s
    let s := if (s.ing.streams.get i).rtp.isSome then s else if off = 0 then beginRtp c i time j s else headlessRtp i time s
    let s := if rtpKnown j then s else rejectRtp i 3 none s
    let s := takeFragment c i j s
    if marker then endRtp i s else s

/-! ### Ethernet ports (R64) -/

/-- The ones' complement sum of 16-bit words is all ones: a good Internet checksum. -/
def inetOk (l : List Byte) : Bool :=
  let v := ((List.range ((l.length + 1) / 2)).map fun k => 256 * u8 l (2 * k) + u8 l (2 * k + 1)).sum
  let fold := fun (x : Nat) => x % 65536 + x / 65536
  decide (fold (fold (fold v)) = 65535)

/-- What a good frame carries: a PTP message of Ethertype 0x88F7, or UDP from an address to a port. -/
inductive EthPayload where
  | gptp (msg : List Byte)
  | udp (src dst : Nat) (data : List Byte)
deriving DecidableEq, Repr

/-- The UDP datagram of an unfragmented IPv4 packet with good checksums. -/
def udpParse (p : List Byte) : Option EthPayload :=
  let ihl := 4 * (u8 p 0 % 16)
  let total := beNat (sub p 2 2)
  let seg := (p.take total).drop ihl
  let len := beNat (sub seg 4 2)
  let pseudo := sub p 12 8 ++ [0, 17] ++ sub seg 4 2
  if u8 p 0 / 16 ≠ 4 ∨ ihl < 20 ∨ p.length < total ∨ total < ihl + 8 ∨ inetOk (p.take ihl) = false then none
  else if beNat (sub p 6 2) % 16384 ≠ 0 ∨ u8 p 9 ≠ 17 ∨ len < 8 ∨ seg.length < len then none
  else if beNat (sub seg 6 2) ≠ 0 ∧ inetOk (pseudo ++ seg.take len) = false then none
  else some (.udp (leNat (sub p 12 4)) (beNat (sub seg 2 2)) ((seg.take len).drop 8))

/-- The checks of R64 on a frame from its destination address to its FCS. -/
def ethParse (fcsOk : Bool) (f : List Byte) : Option EthPayload :=
  let tagged := decide (beNat (sub f 12 2) = 0x8100)
  let typ := if tagged then beNat (sub f 16 2) else beNat (sub f 12 2)
  let body := (f.drop (if tagged then 18 else 14)).take (f.length - (if tagged then 22 else 18))
  if !fcsOk || decide (f.length < 64) || decide (9216 < f.length) then none
  else if typ = 0x88F7 then some (.gptp body)
  else if typ = 0x0800 then udpParse body
  else none

/-- Slots of an Ethernet port's streams with a key. -/
def State.onKey (s : State) (n : Fin 4) (src dst : Nat) : List (Fin 32) :=
  s.slotsOf fun c => decide (2 ≤ c.kind) && decide (c.port = n.1) && decide (c.ip = src) && decide (c.udp = dst)

/-- A datagram goes to its stream. -/
def takePacket (data : List Byte) (s : State) (i : Fin 32) : State :=
  match s.stream i with
  | none => s
  | some c => if c.kind = 2 then lidarPacket c i data (heard i s) else rtpPacket c i data (heard i s)

/-- An Ethernet port is enabled, by the running forme or, in LOADING, by the map once it has been streamed (R397, R451). -/
def State.ethOn (s : State) (n : Fin 4) : Bool :=
  (s.forme.eths[n.1]?).any EthPort.on ||
    (decide (s.dev.st = .loading) && (decide (s.dev.load.phase = .judge) ||
        ((loadOrder s.dev.load.sections).take s.dev.load.next).any fun x => decide (x.kind = 2)) &&
      (readEth (entry ((sectionBytes s.ufs s.dev.load.sections 2 0).drop 128) 16 n.1)).on)

/-- ETHERNET_FRAME: the frame passes to the time base, to its stream, or is dropped with event 0x0251, once per port and cue (DEDUCED,
assumption 85). -/
def execEthernetFrame (t : Nat) (n : Fin 4) (frame : List Byte) (fcsOk : Bool) (offset : Int) (s : State) :
    Host.Outcome State Fault Refusal :=
  let s := s.at t
  let port : UnitId := .port ⟨16 + n.1, by omega⟩
  let drop := if s.forme.loaded then logOnce (16 + n.1) 0x0251 (unitId port) 0 s else s
  .next (if !s.ethOn n || !s.portOpen ⟨16 + n.1, by omega⟩ then s
    else
      match ethParse fcsOk frame with
      | none => drop
      | some (.gptp msg) => ptpMessage n true msg offset s
      | some (.udp src dst data) =>
        if dst = 319 ∨ dst = 320 then ptpMessage n false data offset s
        else
          match s.onKey n src dst with
          | [] => drop
          | l => if !s.cue.running then s else l.foldl (takePacket data) s)

/-! ### Decode engines (R70, R85) -/

/-- JPEG_DECODE_START: a free engine takes the oldest reassembled frame, and its budget counts from this cycle (DEDUCED, assumption 84). -/
def execJpegDecodeStart (t : Nat) (engine : Fin 4) (s : State) : Host.Outcome State Fault Refusal :=
  let s := s.at t
  .next (match s.ing.engines.get engine, s.ing.jpegQ with
    | none, j :: q => { s with ing := { s.ing with
        jpegQ := q, engines := vmod s.ing.engines engine fun _ => some { j with begun := s.now } } }
    | _, _ => s)

/-- The engine that has worked longest on a frame of a slot, and the frame. -/
def State.engineOf (s : State) (i : Fin 32) : Option (Fin 4 × JpegJob) :=
  (List.finRange 4).foldl (fun a e => match s.ing.engines.get e with
    | none => a
    | some j => if j.slot ≠ i then a else
        match a with
        | some (_, k) => if j.begun < k.begun then some (e, j) else a
        | none => some (e, j)) (none : Option (Fin 4 × JpegJob))

/-- A slot's decode ends with a status and output bytes; its engine is free. A struck port's frame goes unnoticed (R90). -/
def endDecode (e : Fin 4) (j : JpegJob) (status : Nat) (event : Option Nat) (bytes : List Byte) (s : State) : State :=
  let s := { s with ing := { s.ing with engines := vmod s.ing.engines e fun _ => none } }
  if (s.stream j.slot).all fun c => !s.portOpen (Fin.ofNat 20 c.portIdx) then s
  else
    let s := match event with
      | some x => logEvent x idDecoder j.slot.1 s
      | none => s
    let s := if status = 0 then s else rejectSample j.slot j.id status s
    makeReady j.slot { id := j.id, stamp := j.stamp, done := none, status := status, points := 0, num := j.num, bytes := bytes, test := true } s

/-- The frame in an engine has had its budget (R85). -/
def State.budgetOver (s : State) (c : Stream) (begun : Nat) : Bool := decide (begun + us c.budget ≤ s.now)

/-- DECODE_DONE: the engine's image passes the pipeline; a bitstream error rejects the frame, event 0x0222. -/
def execDecodeDone (t : Nat) (slot : Fin 32) (engine : Fin 4) (s : State) : Host.Outcome State Fault Refusal :=
  let s := s.at t
  .next (match s.stream slot, s.ing.engines.get engine with
    | some c, some j =>
      if j.slot ≠ slot then s
      else if j.begun + us c.budget < s.now then endDecode engine j 5 (some 0x0221) [] s
      else
        (match jpegDecode j with
         | none => endDecode engine j 3 (some 0x0222) [] s
         | some g => endDecode engine j 0 none (jpegBytes c j.w j.h g s.free) { s with free := s.free + 1 })
    | _, _ => s)

/-- DECODE_BUDGET_EXPIRY: the sample is abandoned, event 0x0221; a lidar rotation's budget counts from its first packet. -/
def execDecodeBudgetExpiry (t : Nat) (slot : Fin 32) (s : State) : Host.Outcome State Fault Refusal :=
  let s := s.at t
  .next (match s.stream slot, s.engineOf slot, (s.ing.streams.get slot).rotation with
    | some c, some (e, j), _ => if s.budgetOver c j.begun then endDecode e j 5 (some 0x0221) [] s else s
    | some c, none, some o =>
      if s.budgetOver c o.begun && decide (o.status = 0) && s.portOpen (Fin.ofNat 20 c.portIdx) then
        rejectRotation slot 5 (logEvent 0x0221 idDecoder slot.1 s)
      else s
    | _, _, _ => s)

/-! ### Completion, proof checks and loss (R79, R89 to R93) -/

/-- Every declared stream of a port has passed the proof inputs of three consecutive samples (R363). -/
def State.rigProved (s : State) (n : Fin 20) : Bool :=
  (List.finRange 32).all fun i => (s.stream i).all fun c => decide (c.portIdx ≠ n.1) || decide (3 ≤ (s.ing.streams.get i).rigProofs)

/-- A proof check's outcome on the port: three failures in a row strike it (R90); under re-rig it decides the third check (R363). -/
def judgeProof (n : Fin 20) (i : Fin 32) (ok : Bool) (s : State) : State :=
  let r := s.unit (.port n)
  let third := decide (r.mode = .reRigging) && decide (r.checks.head? = some .third)
  let s := s.modStream i fun r => { r with
    proofRun := if ok then 0 else r.proofRun + 1, rigProofs := if third && ok then r.rigProofs + 1 else 0 }
  if third then
    (if !ok then failAttempt (.port n) 2 s else if s.rigProved n then passCheck (.port n) s else s)
  else if (s.ing.streams.get i).proofRun = 3 then
    strike 7 (.port n) (logEvent 0x0232 (unitId (.port n)) 0 s)
  else s

/-- An earlier sample of the slot has its proof check still ahead of it: in an engine, waiting for one, or decoded (R90). -/
def State.earlierOpen (s : State) (i : Fin 32) (id : Nat) : Bool :=
  (List.finRange 4).any (fun e => (s.ing.engines.get e).any fun j => decide (j.slot = i ∧ j.id < id)) ||
    s.ing.jpegQ.any (fun j => decide (j.slot = i ∧ j.id < id)) || (s.ing.streams.get i).ready.any fun x => decide (x.id < id)

/-- Outcomes of proof checks count in sample order (R90). -/
def addOutcome (x : Nat × Bool) : List (Nat × Bool) → List (Nat × Bool)
  | [] => [x]
  | y :: r => if x.1 < y.1 then x :: y :: r else y :: addOutcome x r

/-- An outcome counts once no earlier sample's is open. -/
def settleProof (n : Fin 20) (i : Fin 32) (s : State) (x : Nat × Bool) : State :=
  if s.earlierOpen i x.1 || decide (x ∉ (s.ing.streams.get i).outcomes) then s
  else judgeProof n i x.2 (s.modStream i fun r => { r with outcomes := r.outcomes.filter fun y => y != x })

/-- The outcomes that no earlier sample holds up any more count. -/
def settleProofs (n : Fin 20) (i : Fin 32) (s : State) : State := (s.ing.streams.get i).outcomes.foldl (settleProof n i) s

/-- A sample's checks are judged: the first failing one gives its status, and with none it is complete now (DEDUCED, assumption 83); a lost
stream of a port in service then returns at the next boundary (R93). -/
def judgeSample (i : Fin 32) (x : Sample) (ok : Bool) (s : State) : State :=
  let s := if ok then s else logEvent 0x0230 (s.portIdOf i) i.1 s
  let s := if x.test then s else logEvent 0x0231 (s.portIdOf i) i.1 s
  let status := if x.status ≠ 0 then x.status else if !ok then 6 else if !x.test then 7 else 0
  s.modStream i fun r => { r with
    samples := lmod (fun y => y.id = x.id) (fun y => { y with
      status := if y.status ≠ 0 then y.status else status
      done := if status = 0 then some (stampOf s.ns) else none
      points := x.points, bytes := x.bytes }) r.samples
    returning := r.returning || (r.lost && decide (status = 0) && decide ((s.streamMode i) ≠ .reRigging)) }

/-- SAMPLE_COMPLETE: the oldest sample of the slot that awaits it, with the CRC of its proof input's side buffer; its outcome counts in sample
order (R90), and it is a sample delivered under re-rig (R363). -/
def execSampleComplete (t : Nat) (slot : Fin 32) (proofCrc : W32) (s : State) : Host.Outcome State Fault Refusal :=
  let s := s.at t
  .next (match s.stream slot, (s.ing.streams.get slot).ready with
    | some c, x :: rest =>
      let n : Fin 20 := Fin.ofNat 20 c.portIdx
      let s := s.modStream slot fun r => { r with ready := rest, rigFrom := s.now }
      if !s.portOpen n then s
      else
        let ok := decide (proofCrc = s.forme.proofCrc.getD slot.1 0)
        let s := judgeSample slot x ok s
        settleProofs n slot (s.modStream slot fun r => { r with outcomes := addOutcome (x.id, ok) r.outcomes })
    | _, _ => s)

/-- STREAM_LOSS_TIMEOUT: 1.5 × the nominal period without a Frame Start or packet; the port reads LOST when all its streams are. -/
def execStreamLossTimeout (t : Nat) (slot : Fin 32) (s : State) : Host.Outcome State Fault Refusal :=
  let s := s.at t
  .next (match s.stream slot with
    | none => s
    | some c =>
      let n : Fin 20 := Fin.ofNat 20 c.portIdx
      let r := s.ing.streams.get slot
      if !s.inServ (.port n) || r.lost || decide (s.cue.count = 0) || decide (s.now < r.lossFrom + us c.period * 3 / 2) then s
      else
        let s := logEvent 0x0240 (unitId (.port n)) slot.1 (s.modStream slot fun r => { r with lost := true, returning := false })
        if (s.slotsOf fun d => decide (d.portIdx = n.1)).all fun i => (s.ing.streams.get i).lost then
          s.modUnit (.port n) fun r => if r.mode = .inService then { r with mode := .lost } else r
        else s)

end Sys2Proof.Machine
end

