-- ==== Sys2Proof/Machine/Memory.lean ====
section
/-! DEFINITION. What the memory system does by itself: walks, trackers, prefetchers, blocks on the fabric, stack accesses, write-backs,
restored pages, dropped mappings and the sweep of a pinned leaf (R201, R230, R231, R241 to R247, R251 to R260). -/

namespace Sys2Proof.Machine

/-! ### TRANSLATION_WALK_DONE (R229, R230) -/

/-- TRANSLATION_WALK_DONE: the entry is cached and the access goes on, or it is a translation fault; a stagehand whose compositor waited for
the walk resumes. A page whose older mapping is still being dropped is not walked (R231). -/
def execTranslationWalkDone (t : Nat) (p : Fin 16) (stagehand : Fin 8) (play addr : Nat) (write : Bool) (idx : Nat) (tags : List TagErr)
    (s : State) : Host.Outcome State Fault Refusal :=
  let s := s.at t
  match s.runOn p with
  | none => .next s
  | some i =>
    if i.key.play ≠ play ∨ (s.mem.drops.any fun d => decide (d.play = play) && decide (d.page = addr / 2 ^ 21)) = true then .next s
    else
      let s := tagErrs p tags s
      let s := countPf 32 p s
      match s.runFaults i write [blockOf addr], s.pte? play (addr / 2 ^ 21) with
      | some d, _ => .next (translationFault p idx d i s)
      | none, some e =>
        let s := cacheEntry p { play := play, page := addr / 2 ^ 21, pte := e, locked := decide (i.kind = 0) } s
        if write ∨ ((s.press.get p).hands.get stagehand).wait = .walk then .next (waitHand p stagehand .none s)
        else if s.blockHere p stagehand play (blockOf addr) then .next (waitHand p stagehand .none (demandHit p stagehand play (blockOf addr) s))
        else .next (demandMiss p stagehand i addr s)
      | none, none => .next s

/-! ### Trackers (R241, R243) -/

/-- The unit that a tracker belongs to. -/
def Tracker.unit (t : Tracker) : Byte :=
  match t.stack, t.press with
  | some n, _ => unitId (.stack n)
  | none, some p => pressId p
  | none, none => 0xFF

def Tracker.counter (t : Tracker) : Fin 18 :=
  match t.stack, t.press with
  | some n, _ => Fin.ofNat 18 (16 + n.1)
  | none, some p => Fin.ofNat 18 p.1
  | none, none => 17

def State.tracker? (s : State) (id : Nat) : Option Tracker := s.mem.trackers.find? fun t => t.id = id

/-- Nothing can answer a tracker that waits at its regulator or whose stack retrains, and its 20 µs do not run (R239, R280). -/
def State.held (s : State) (t : Tracker) : Bool := t.waits || s.retraining t.dev

/-- Stagehands that waited for the block receive it, and those that waited for a tracker resume. -/
def wakeMiss (p : Fin 16) (play addr : Nat) (s : State) : State :=
  s.modPress p fun r => { r with hands := r.hands.map fun h =>
    if h.wait = .cacheMiss ∧ h.miss = some (play, addr) then { h with wait := .none, got := (play, addr) :: h.got, since := s.pressCycle }
    else if h.wait = .trackers then { h with wait := .none, since := s.pressCycle } else h }

/-- A tracker frees, a press's with the stack controller's for the same request; the requests that waited for one go on. -/
def freeTracker (r : Tracker) (s : State) : State :=
  passPart r.part (takeCtls r.part { s with mem := { s.mem with trackers := s.mem.trackers.filter fun x => !(decide (x.id = r.id) ||
    (r.stack.isNone && x.stack.isSome && decide (x.press = r.press) && decide (x.pool = r.pool) && decide (x.play = r.play) && decide (x.addr = r.addr))) } })

/-- With a tracker free on a press, its vector unit and compositors ask for what they have left, and a compositor that has no more is done. -/
def goOn (p : Fin 16) (i : Inst) (s : State) : State :=
  let s := (List.finRange 3).foldl (fun s u => askBlocks p i.part i.key.play u ((s.press.get p).left.get u) s) s
  pumpAll p ((List.finRange 2).foldl (fun s c => compNext p c s) s)

/-- The run on a press, if any, goes on with a tracker that has freed. -/
def goOnRun (p : Fin 16) (s : State) : State :=
  match s.runOn p with
  | some i => goOn p i s
  | none => s

/-- TRACKER_RESPONSE: the block returns with what its read met; a killed run's or dropped mapping's block is discarded (DEDUCED, assumption
69). -/
def execTrackerResponse (t : Nat) (id : Nat) (ecc : EccObs) (s : State) : Host.Outcome State Fault Refusal :=
  let s := s.at t
  match s.tracker? id with
  | none => .next s
  | some r =>
    if s.held r || r.noCtl then .next s
    else
    let s := freeTracker r (match r.press with
      | some p => compBlock p r.pool s
      | none => s)
    if r.stack.isSome then .next s
    else
    let run := if r.killed then none else r.press.bind s.runOn
    let reader := if r.pool = 3 ∨ r.write = true then none else run.map Inst.key
    let s := match ecc with
      | .clean => s
      | .single => corrected r.dev s
      | .double => doubleError r.dev reader s
    match r.press with
    | none => .next s
    | some p =>
      if r.killed then .next (goOnRun p s)
      else
        match reader, s.poisoned r.dev with
        | some k, true => .next (poisonRead (holderId r.dev) (blockOf r.dev) k s)
        | _, bad =>
          let keep := !bad && !r.drop && !r.write && decide (r.pool = 0 ∨ r.pool = 3) &&
            ((s.pte? r.play (r.addr / 2 ^ 21)).any cacheable)
          let s := if keep then useBlock p r.dev s else s
          .next (goOnRun p (wakeMiss p r.play r.addr s))

/-- TRACKER_TIMEOUT: 20 µs without completion; the request is issued once more, with event 0x0440 (DEDUCED, assumption 71). -/
def execTrackerTimeout (t : Nat) (id : Nat) (s : State) : Host.Outcome State Fault Refusal :=
  let s := s.at t
  match s.tracker? id with
  | none => .next s
  | some r =>
    if r.killed || r.reissued || s.held r || decide (s.now < r.at_ + us 20) then .next s
    else
      let s := countTimeout r.counter s
      .next (logEvent 0x0440 r.unit 0 { s with mem := { s.mem with
        trackers := lmod (fun x => x.id = id) (fun x => { x with reissued := true, at_ := s.now }) s.mem.trackers } })

/-- TRACKER_TIMEOUT_REPEAT: event 0x0441; the requester's scene is killed and runs elsewhere, and a safety scene's is a detection. -/
def execTrackerTimeoutRepeat (t : Nat) (id : Nat) (s : State) : Host.Outcome State Fault Refusal :=
  let s := s.at t
  match s.tracker? id with
  | none => .next s
  | some r =>
    if r.killed || !r.reissued || s.held r || decide (s.now < r.at_ + us 20) then .next s
    else
      let s := logEvent 0x0441 r.unit 0 (countTimeout r.counter s)
      let s := { s with mem := { s.mem with trackers := lmod (fun x => x.id = id) (fun x => { x with killed := true }) s.mem.trackers } }
      match r.press.bind s.runOn with
      | none => .next s
      | some i =>
        let s := if i.safety then detect 0x09 r.unit s else s
        .next (killElsewhere 8 r.press.toList i.key s)

/-! ### PREFETCH_ISSUE (R245, R246) -/

/-- The prefetcher's next block lies in a span: its translation is cached and allows it. -/
def State.inSpan (s : State) (p : Fin 16) (e : Prefetcher) : Bool :=
  match s.cached? p e.play (e.next / 2 ^ 21) with
  | none => false
  | some x =>
    let blk := e.next % 2 ^ 21 / 64
    pteV x.pte && pteRD x.pte && ptePF x.pte && pteCA x.pte && decide (pteFirst x.pte ≤ blk ∧ blk ≤ pteLast x.pte)

def modPrefetch (p : Fin 16) (k : Fin 32) (f : Prefetcher → Prefetcher) (s : State) : State :=
  { s with mem := { s.mem with
      prefetch := lmod (fun x => decide (x.1 = p) && decide (x.2.idx = k)) (fun x => (x.1, f x.2)) s.mem.prefetch } }

/-- A stream prefetcher issues its next block or drops it and counts the drop; it stays at most 16 strides ahead, and after a drop at the edge
of a span it issues nothing until its stagehand's demand reaches the page. -/
def execPrefetchIssue (t : Nat) (p : Fin 16) (stream : Fin 32) (tags : List TagErr) (s : State) : Host.Outcome State Fault Refusal :=
  let s := s.at t
  match s.runOn p, s.mem.prefetch.find? fun e => decide (e.1 = p) && decide (e.2.idx = stream) with
  | some i, some (_, e) =>
    if 16 ≤ e.ahead then .next s
    else
      let s := tagErrs p tags s
      let adv := fun (x : Prefetcher) => { x with next := ((x.next : Int) + x.stride).toNat, ahead := x.ahead + 1 }
      if s.inSpan p e && !e.stopped && s.prefetchRoom p then
        let s := modPrefetch p stream adv s
        if s.requested p e.play (blockOf e.next) then .next s
        else .next (moveBlock 3 p i.part e.play false (blockOf e.next) (countPf 0 p s))
      else .next (modPrefetch p stream (fun x => { adv x with stopped := x.stopped || !s.inSpan p e }) (countPf 16 p s))
  | _, _ => .next s

/-! ### Blocks on the fabric (R251 to R253, R359 cause 8) -/

/-- The unit a unit identifier names (R375). -/
def unitOfId (b : Byte) : Option RehUnit :=
  let n := b.toNat
  if n < 0x10 then some (.unit (.press (Fin.ofNat 16 n)))
  else if n < 0x14 then some (.unit (.core (Fin.ofNat 4 (n - 0x10))))
  else if n = 0x18 ∨ n = 0x19 then some (.unit (.stack (Fin.ofNat 2 (n - 0x18))))
  else if 0x20 ≤ n ∧ n < 0x30 then some (.unit (.sector (Fin.ofNat 16 (n - 0x20))))
  else if 0x30 ≤ n ∧ n < 0x44 then some (.unit (.port (Fin.ofNat 20 (n - 0x30))))
  else if 0x44 ≤ n ∧ n < 0x48 then some (.cluster (Fin.ofNat 4 (n - 0x44)))
  else if n = 0x48 then some .decoder
  else if n = 0x50 then some (.ctl .ufsHost)
  else if n = 0x51 then some (.ctl .hostPort)
  else if n = 0x60 then some (.ctl .stageManager)
  else if n = 0x61 then some (.ctl .comparator)
  else if n = 0x62 then some (.ctl .imposer)
  else if n = 0x63 then some (.ctl .security)
  else if n = 0x64 then some (.ctl .governor)
  else if n = 0x70 then some (.ctl .timeBase)
  else none

/-- The CRC-16 of a block: its 64 data bytes and its device address (R251). -/
def blockCrc (data : List Byte) (addr : Nat) : W16 := crc16 (data.take 64 ++ natLe 6 addr)

def State.hop (s : State) (recv send : Byte) : Hop :=
  (s.mem.hops.find? fun h => h.recv = recv ∧ h.send = send).getD { recv := recv, send := send, resends := [], exhausted := [] }

def putHop (h : Hop) (s : State) : State :=
  { s with mem := { s.mem with hops := h :: s.mem.hops.filter fun x => !(decide (x.recv = h.recv) && decide (x.send = h.send)) } }

/-- Re-sends of a block on a hop so far. -/
def Hop.count (h : Hop) (addr : Nat) : Nat := ((h.resends.find? fun e => e.1 = addr).map fun e => e.2.2).getD 0
def Hop.clear (h : Hop) (addr : Nat) : Hop := { h with resends := h.resends.filter fun e => e.1 != addr }

/-- The block is sent again: event 0x0420 once per receiving unit and cue (R252). -/
def resend (h : Hop) (addr : Nat) (p : Option (Fin 16)) (s : State) : State :=
  let s := putHop { h.clear addr with resends := (addr, p, h.count addr + 1) :: (h.clear addr).resends } s
  logOnce h.recv.toNat 0x0420 h.recv h.send.toNat (countResent h.recv s)

/-- A press or core is classified by its next proof pass. -/
def markSuspect (b : Byte) (s : State) : State :=
  match unitOfId b with
  | some (.unit (.press p)) => suspectUnit 0 (.press p) s
  | some (.unit (.core k)) => suspectUnit 0 (.core k) s
  | _ => s

/-- The run on a receiving core. -/
def State.runAt (s : State) (b : Byte) : Option Inst :=
  match unitOfId b with
  | some (.unit (.core k)) => s.sched.insts.find? fun i => decide (i.st = .running) && i.on (.core k)
  | _ => none

/-- The scene that needed a block, on a press or on the core that receives it, is killed and runs elsewhere; a safety scene's is a detection
(R253, R335). -/
def loseBlock (h : Hop) (p : Option (Fin 16)) (s : State) : State :=
  let s := match (p.bind s.runOn).or (s.runAt h.recv) with
    | none => s
    | some i =>
      let s := if i.safety then detect 0x0A h.recv s else s
      killElsewhere 10 p.toList i.key s
  markSuspect h.send (markSuspect h.recv s)

/-- An exhausted hop that falls on a control unit is a device-level fault (R367). -/
def faultEnd (b : Byte) (s : State) : State :=
  match unitOfId b with
  | some (.ctl c) => deviceFault 5 (ctlId c) s
  | _ => s

/-- A strike cause of a hop's end. -/
def strikeEnd (b : Byte) (s : State) : State :=
  match unitOfId b with
  | some (.ctl _) => s
  | some u => failUnit 8 u s
  | none => s

/-- The third re-send failed: event 0x0421; the third exhaustion of a hop within 64 cues strikes both its ends (DEDUCED, assumption 70). -/
def exhaust (h : Hop) (addr : Nat) (p : Option (Fin 16)) (s : State) : State :=
  let h := { h.clear addr with exhausted := within 64 s.cue.count.toNat h.exhausted }
  let s := loseBlock h p (logEvent 0x0421 h.recv h.send.toNat (countExhausted h.recv (putHop h s)))
  let s := faultEnd h.send (faultEnd h.recv s)
  if 3 ≤ h.exhausted.length then strikeEnd h.send (strikeEnd h.recv (putHop { h with exhausted := [] } s)) else s

/-- FABRIC_BLOCK_RECEIVE: the receiver checks the CRC; a poisoned block that fails it is not sent again (R260). -/
def execFabricBlockReceive (t : Nat) (recv send : Byte) (data : List Byte) (addr : Nat) (crc : W16) (p : Option (Fin 16)) (s : State) :
    Host.Outcome State Fault Refusal :=
  let s := s.at t
  let h := s.hop recv send
  if blockCrc data addr = crc then .next (if h.count addr = 0 then s else putHop (h.clear addr) s)
  else if s.poisoned addr then
    .next (match p.bind s.runOn with
      | some i => poisonRead (holderId addr) (blockOf addr) i.key (putHop (h.clear addr) s)
      | none => putHop (h.clear addr) s)
  else if h.count addr < 3 then .next (resend h addr p s)
  else .next (exhaust h addr p s)

/-! ### STACK_ACCESS_COMPLETE (R238, R254) -/

/-- The pseudo-channel of a stack offset (R238). -/
def pseudoChannel (a : Nat) : Nat := ((a / 2 ^ 8) ^^^ (a / 2 ^ 13) ^^^ (a / 2 ^ 18)) % 32

/-- A stack block still uncorrectable after three re-reads: event 0x0431; its address is poisoned; 16 within 1,000 cues strike the stack. -/
def stackLost (n : Fin 2) (h : Hop) (addr : Nat) (p : Option (Fin 16)) (s : State) : State :=
  let s := logEvent 0x0431 (unitId (.stack n)) (pseudoChannel (addr % stackBase 1)) (putHop (h.clear addr) s)
  let s := poison addr (loseBlock h p s)
  let s := s.modUnit (.stack n) fun r => { r with errors := within 1000 s.cue.count.toNat r.errors }
  if 16 ≤ (s.unit (.stack n)).errors.length then strike 10 (.stack n) s else s

/-- A stack access returns with its parity and severity; none completes while the stack retrains (R239). -/
def execStackAccessComplete (t : Nat) (n : Fin 2) (addr : Nat) (obs : StackObs) (p : Option (Fin 16)) (s : State) :
    Host.Outcome State Fault Refusal :=
  let s := s.at t
  let u := unitId (.stack n)
  let h := s.hop u u
  if n ∈ s.mem.retrain then .next s
  else match obs with
  | .clean => .next (if h.count addr = 0 then s else putHop (h.clear addr) s)
  | .corrected =>
    let s := countSeverity (Fin.ofNat 4 n.1) (if h.count addr = 0 then s else putHop (h.clear addr) s)
    .next (logOnce u.toNat 0x0430 u (pseudoChannel (addr % stackBase 1)) s)
  | .parity => .next (if h.count addr < 3 then resend h addr p s else exhaust h addr p s)
  | .uncorrectable =>
    let s := countSeverity (Fin.ofNat 4 (2 + n.1)) s
    .next (if h.count addr < 3 then resend h addr p s else stackLost n h addr p s)

/-! ### ECC_WRITE_BACK (R256) -/

/-- The corrected word is written back unless a write has replaced it. -/
def execEccWriteBack (t : Nat) (addr : Nat) (s : State) : Host.Outcome State Fault Refusal :=
  let s := s.at t
  let a := wordOf addr
  if s.mem.wbacks.any fun e => e.1 = a then
    .next { s with mem := { s.mem with wbacks := s.mem.wbacks.filter fun e => e.1 != a } }
  else .next s

/-! ### CONSTANT_RESTORE_DONE (R259) -/

/-- A page's bytes as the forme unit holds them. -/
def State.pageBytes (s : State) (sect page : Nat) : List Byte :=
  weightPage s.ufs s.forme.sections sect page

/-- What LOADING recorded of a page. -/
def State.pageRec (s : State) (sect page : Nat) : Option (List Byte) :=
  (s.forme.pageRecs.find? fun e => e.1 = sect).bind fun e => e.2[page]?

/-- The restored page is written to its new device page and mapped there in place of the old one; event 0x0403. -/
def mapRestored (r : Restore) (rest : List Restore) (e : BitVec 128) (d : Nat) (bs : List Byte) (s : State) : State :=
  let s := devWrite d bs (startDrop r.play r.vpage (pteDev e) s)
  let pte := mkPte (pteRD e) (pteWR e) (e.extractLsb' 8 3).toNat (pteFirst e) (pteLast e) d ||| (e &&& BitVec.ofNat 128 0x18)
  let s := setPte r.play r.vpage pte { s with mem := { s.mem with restore := rest } }
  let sector := match region d with
    | .galley n => n.1
    | _ => 0
  logEvent 0x0403 idImposer sector (countRestored s)

/-- A restored page is mapped where a device page is free and its bytes hash to what LOADING recorded, and fails where they do not; it waits
while no page is free (DEDUCED, assumption 132). -/
def judgeRestored (r : Restore) (rest : List Restore) (e : BitVec 128) (bs : List Byte) (d : Option Nat) (h : Option (List Byte))
    (s : State) : State :=
  match d, h with
  | some d, some h => if (sha512 bs).take 8 = h then mapRestored r rest e d bs s else failRestore s
  | none, _ => s
  | _, none => failRestore s

/-- The page at the head of the queue is mapped in place of the old one, or its restoration fails. -/
def execConstantRestoreDone (t : Nat) (s : State) : Host.Outcome State Fault Refusal :=
  let s := s.at t
  match (if s.dev.bare then [] else s.mem.restore) with
  | [] => .next s
  | r :: rest =>
    match s.pte? r.play r.vpage with
    | none => .next (failRestore s)
    | some e =>
      .next (judgeRestored r rest e (s.pageBytes r.sect r.page) (s.freshPage (pteDev e)) (s.pageRec r.sect r.page) s)

/-! ### MAPPING_DROP_ACK (R231, R247) -/

/-- A locked entry of a safety page gives way to the page's new mapping at once, so that the window's scenes never walk (R230). -/
def State.relock (s : State) (e : TEntry) : List TEntry :=
  if e.locked then ((s.pte? e.play e.page).filter pteV).toList.map fun x => { e with pte := x } else []

/-- Stagehands of safety scenes that waited for pages that their presses have locked go on. -/
def wakeLocked (s : State) : State :=
  (allPresses.filter fun p => (s.runOn p).any fun i => decide (i.kind = 0)).foldl (fun s p =>
    (List.finRange 8).foldl (fun s h => if ((s.press.get p).hands.get h).wait = .walk then waitHand p h .none s else s) s) s

/-- A press has dropped its translation of a page and the old device page's blocks; its prefetches in flight to the page will be discarded
(DEDUCED, assumption 78). -/
def execMappingDropAck (t : Nat) (p : Fin 16) (play page : Nat) (s : State) : Host.Outcome State Fault Refusal :=
  let s := s.at t
  let mine := fun (d : Drop) => decide (d.play = play) && decide (d.page = page) && decide (p ∈ d.presses)
  let olds := (s.mem.drops.filter mine).map Drop.dev
  if olds = [] then .next s
  else
    .next (wakeLocked { s with mem := { s.mem with
      drops := (s.mem.drops.map fun d => if mine d then { d with presses := d.presses.filter fun q => q != p } else d).filter fun d =>
        d.presses ≠ []
      tcache := s.mem.tcache.flatMap fun e =>
        if e.1 = p ∧ e.2.play = play ∧ e.2.page = page ∧ pteDev e.2.pte ∈ olds then (s.relock e.2).map fun x => (p, x) else [e]
      blocks := s.mem.blocks.filter fun b => !(decide (b.1 = p) && decide (b.2 / 2 ^ 21 * 2 ^ 21 ∈ olds))
      trackers := lmod (fun x => decide (x.press = some p) && decide (x.pool = 3) && decide (x.dev / 2 ^ 21 * 2 ^ 21 ∈ olds))
        (fun x => { x with drop := true }) s.mem.trackers } })

/-! ### LEAF_SWEEP_DONE (R201) -/

/-- A session list or a keep names the leaf. -/
def State.leafHeld (s : State) (play num : Nat) : Bool :=
  (s.cog.sess.any fun x => decide (x.st ≠ .closed) && decide (x.play = play) && decide (num ∈ x.leaves)) ||
    s.cog.keeps.any fun k => k.live && decide (k.play = play) && decide (num ∈ k.leaves)

/-- The sweep of a pinned leaf ends: it is freed with event 0x0C02 when nothing names it. -/
def execLeafSweepDone (t : Nat) (play leaf : Nat) (s : State) : Host.Outcome State Fault Refusal :=
  let s := s.at t
  match s.leaf? play leaf with
  | none => .next s
  | some l =>
    if l.st = .pinned ∧ l.sweep = true then
      if s.leafHeld play leaf then .next (setLeaf { l with sweep := false } s)
      else .next (logEvent 0x0C02 idStage 0 (dropLeaf play leaf s))
    else .next s

end Sys2Proof.Machine
end

