-- ==== Sys2Proof/Machine/Messages.lean ====
section
/-! DEFINITION. The Zelrin protocol: blocks in and out, framing, the messages of sessions and keeps, START, ATTEST and the reads
(R401, R411, R427, R428, R430 to R440, R443, R470). -/

namespace Sys2Proof.Machine

/-! ### F2: blocks in (R427, R430, R432) -/

def modPort (f : Port → Port) (s : State) : State := { s with port := f s.port }

/-- HF_CREDIT advances by a number of blocks. -/
def giveCredit (n : Nat) (s : State) : State := irq 1 (modPort (fun p => { p with credit := p.credit + BitVec.ofNat 32 n }) s)

/-- A framing failure: the message's blocks are discarded and their credit returned, later blocks are discarded until RX_RESYNC, the
event is logged and RX_ERROR queued (R432). -/
def framingFailure (status code detail held : Nat) (s : State) : State :=
  let s := logEvent code idPort detail (modPort (fun p => { p with cur := [], rxDiscard := true }) s)
  let s := irq 2 (giveCredit held s)
  originate 0x4003 (natLe 2 status ++ [0, 0] ++ natLe 4 s.log.head.toNat ++ natLe 2 s.port.lastSeq.toNat ++ List.replicate 6 0) s

/-- A message's last block has arrived: its CRC decides (R431, R432). -/
def endMessage (bs : List Byte) (blocks : Nat) (s : State) : State :=
  let len := uN 3 bs 3
  let payload := sub bs 16 len
  if u32 bs 12 ≠ (crc32 (bs.take 12 ++ [0, 0, 0, 0] ++ payload)).toNat then framingFailure stCrc 0x0A02 0 blocks s
  else
    modPort (fun p => { p with
      cur := []
      ready := p.ready ++ [{ version := bs.getD 0 0, typ := u16 bs 1, seq := BitVec.ofNat 16 (u16 bs 6)
                             session := BitVec.ofNat 32 (u32 bs 8), payload := payload, blocks := blocks }] }) s

/-- One block the card accepted (DEDUCED, assumption 88). -/
def takeBlock (block : List Byte) (s : State) : State :=
  let within := precedes s.port.w s.port.credit
  let s := modPort (fun p => { p with w := p.w + 1, rxCount := p.rxCount + 1 }) s
  if s.port.rxDiscard then giveCredit 1 s
  else
    let held := s.port.cur.length / 512
    if !within then framingFailure stCredit 0x0A06 0 (held + 1) s
    else
      let bs := s.port.cur ++ block
      let len := uN 3 bs 3
      if held = 0 ∧ (bs.getD 0 0 = 0 ∨ maxPayload < len) then framingFailure stTooLong 0x0A02 1 1 s
      else
        let s := modPort (fun p => { p with cur := bs, curAt := if held = 0 then s.now else p.curAt }) s
        if 16 + len ≤ bs.length then endMessage bs (held + 1) s else s

/-- F2_BLOCK_WRITE: a block with a bad CRC on the bus is not accepted. -/
def execF2BlockWrite (t : Nat) (crcOk : Bool) (block : List Byte) (s : State) : Host.Outcome State Fault Refusal :=
  let s := s.at t
  .next (if s.selected && decide (s.port.card.fbr.get 2 = 512) && decide (block.length = 512) && crcOk then takeBlock block s else s)

/-- HOST_MESSAGE_TIMEOUT: 100 ms from a message's first block without its last. -/
def execHostMessageTimeout (t : Nat) (s : State) : Host.Outcome State Fault Refusal :=
  let s := s.at t
  .next (if s.port.cur ≠ [] ∧ s.port.curAt + us 100000 ≤ s.now then
      framingFailure stTimeout 0x0A04 0 (s.port.cur.length / 512) s else s)

/-! ### F3: blocks out (R428) -/

/-- The next block of the send queue; zeros beyond HF_TX_AVAIL. -/
def readBlock (s : State) : List Byte × State :=
  match s.port.tx with
  | [] => (List.replicate 512 0, s)
  | m :: rest =>
    let k := s.port.txDone
    let bs := padBytes 512 ((m.drop (512 * k)).take 512)
    let s := modPort (fun p => { p with txRead := p.txRead + 1 }) s
    (bs, if k + 1 < msgBlocks m then modPort (fun p => { p with txDone := k + 1 }) s
         else modPort (fun p => { p with tx := rest, txDone := 0 }) s)

def readBlocks : Nat → State → List Byte × State
  | 0, s => ([], s)
  | n + 1, s =>
    let (b, s) := readBlock s
    let (bs, s) := readBlocks n s
    (b ++ bs, s)

/-- F3_BLOCK_READ. -/
def execF3BlockRead (t n : Nat) (s : State) : Host.Outcome State Fault Refusal :=
  let s := s.at t
  if s.selected && decide (s.port.card.fbr.get 3 = 512) then
    let (bs, s) := readBlocks n s
    .next (respond bs false s)
  else .next s

/-! ### Handing a message on (R433 to R438) -/

/-- Types of the catalogue (R437). -/
def catalogueTypes : List Nat :=
  [0x0001, 0x0010, 0x0011, 0x0012, 0x0013, 0x0014, 0x0015, 0x0020, 0x0021, 0x0022, 0x0023, 0x0024, 0x0025, 0x0026, 0x0030, 0x0031,
   0x0032]

/-- The oldest received message, if the row's types take it and its largest reply has room (DESIGN CHOICE, assumption 91). -/
def State.head? (s : State) (f : Nat → Bool) : Option Msg :=
  match s.port.ready with
  | [] => none
  | m :: _ => if s.chip.powered && !s.chip.resetN && decide (s.dev.st ≠ .reset) && f m.typ && s.roomFor m.typ then some m else none

/-- The message is handed on: its credit returns, event 0x0602 gives it its number. -/
def handOn (m : Msg) (s : State) : Request × State :=
  let s := giveCredit m.blocks (logEvent 0x0602 idPort (m.typ % 256)
    (modPort (fun p => { p with ready := p.ready.drop 1, lastSeq := m.seq }) s))
  ({ typ := m.typ, seq := m.seq, session := m.session, number := s.log.head, payload := m.payload }, s)

/-- The version in a message's header is the active one (R435). -/
def State.versionOk (s : State) (m : Msg) : Bool := decide (s.dev.proto ≠ 0) && decide (m.version = s.dev.proto)

/-- A reply without fields (DEDUCED, assumption 90). -/
def refuse (q : Request) (status : Nat) (s : State) : State := reply q status [] s

/-- The common path of a message of one type: handed on, its version and the device state checked, then its own effect. -/
def onMessage (typ : Nat) (inState : State → Bool) (f : Request → State → State) (s : State) : State :=
  match s.head? fun x => x = typ with
  | none => s
  | some m =>
    let ok := s.versionOk m
    let (q, s) := handOn m s
    if !ok then refuse q stVersion s
    else if !inState s then refuse q stState s
    else f q s

/-- HELLO: the highest version both sides allow; 1 is the only one of this part (R29, R435). -/
def hello (q : Request) (s : State) : State :=
  let lo := u8 q.payload 0
  let hi := u8 q.payload 1
  if q.payload.length < 2 then replyWith s.headVersion q q.session stInvalid [0] s
  else if max lo 1 ≤ min hi 1 then
    let s := logEvent 0x0A01 idPort 1 { s with dev := { s.dev with proto := 1 } }
    replyWith 1 q q.session stOk [1] s
  else replyWith 1 q q.session stVersion [0] s

def execHello (t : Nat) (s : State) : Host.Outcome State Fault Refusal :=
  let s := s.at t
  match s.head? fun x => x = 0x0001 with
  | none => .next s
  | some m =>
    let (q, s) := handOn m s
    .next (hello q s)

/-- UNSUPPORTED_MESSAGE (R436) (DEDUCED, assumption 52). -/
def execUnsupportedMessage (t : Nat) (s : State) : Host.Outcome State Fault Refusal :=
  let s := s.at t
  match s.head? fun x => decide (x ∉ catalogueTypes) with
  | none => .next s
  | some m =>
    let (q, s) := handOn m s
    if s.dev.bare then .next (refuse q stState s)
    else .next (refuse q stUnsupported (logEvent 0x0A03 idPort (m.typ % 256) s))

/-! ### Sessions and keeps -/

def sessionOpen (q : Request) (s : State) : State :=
  if !openOk s q.payload then refuse q stInvalid s
  else
    let (st, h, s) := openSession (readOpen q.payload) s
    if st = stOk then replyWith s.headVersion q h stOk (natLe 4 h.toNat) s else refuse q st s

def execSessionOpen (t : Nat) (s : State) : Host.Outcome State Fault Refusal :=
  let s := s.at t
  .next (onMessage 0x0010 State.cogState sessionOpen s)

/-- A message about an open session; a stale handle is answered CLOSED_SESSION. -/
def withSession (f : Session → Request → State → State) (q : Request) (s : State) : State :=
  match s.session? q.session with
  | none => refuse q stClosed s
  | some x => f x q s

def sessionInput (x : Session) (q : Request) (s : State) : State :=
  let rows := s.extraRows x.play
  if !inputOk rows q.payload then refuse q stInvalid s
  else
    let (st, s) := acceptInput x (readInput rows q.payload) s
    refuse q st s

def execSessionInput (t : Nat) (s : State) : Host.Outcome State Fault Refusal :=
  let s := s.at t
  .next (onMessage 0x0011 State.cogState (withSession sessionInput) s)

def execSessionClose (t : Nat) (s : State) : Host.Outcome State Fault Refusal :=
  let s := s.at t
  .next (onMessage 0x0012 State.cogState (withSession fun x q s => refuse q stOk (closeSession x s)) s)

def abortMessage (x : Session) (q : Request) (s : State) : State :=
  if q.payload.length < 4 then refuse q stInvalid s
  else
    let (st, s) := abortSession x (u32 q.payload 0) s
    refuse q st s

def execAbort (t : Nat) (s : State) : Host.Outcome State Fault Refusal :=
  let s := s.at t
  .next (onMessage 0x0013 State.cogState (withSession abortMessage) s)

def keepCreate (x : Session) (q : Request) (s : State) : State :=
  if q.payload.length < 4 then refuse q stInvalid s
  else
    let (st, id, s) := createKeep x (u32 q.payload 0) s
    reply q st (natLe 4 id.toNat) s

def execKeepCreate (t : Nat) (s : State) : Host.Outcome State Fault Refusal :=
  let s := s.at t
  .next (onMessage 0x0014 State.cogState (withSession keepCreate) s)

def keepReleaseMsg (q : Request) (s : State) : State :=
  if q.payload.length < 4 then refuse q stInvalid s
  else
    match s.keep? (BitVec.ofNat 32 (u32 q.payload 0)) with
    | none => refuse q stClosed s
    | some k => refuse q stOk (releaseKeep k s)

def execKeepRelease (t : Nat) (s : State) : Host.Outcome State Fault Refusal :=
  let s := s.at t
  .next (onMessage 0x0015 State.cogState keepReleaseMsg s)

/-! ### START and MAINTENANCE_ENTER (R409, R413) -/

def execStart (t : Nat) (s : State) : Host.Outcome State Fault Refusal :=
  let s := s.at t
  .next (onMessage 0x0020 State.startWait (fun q s => refuse q stOk { s with dev := { s.dev with startPlaced := true } }) s)

/-- States from which MAINTENANCE may be entered. -/
def State.mayMaintain (s : State) : Bool :=
  !s.dev.faultN && (decide (s.dev.st = .blank) || s.dev.st.cues)

/-- From BLANK at its place; from a state in which cues run at the next boundary, where it is answered. -/
def maintain (q : Request) (s : State) : State :=
  if s.dev.st = .blank then refuse q stOk (enterMaintenance s)
  else { s with dev := { s.dev with maint := s.dev.maint ++ [{ typ := q.typ, seq := q.seq, session := q.session, number := q.number }] } }

def execMaintenanceEnter (t : Nat) (s : State) : Host.Outcome State Fault Refusal :=
  let s := s.at t
  .next (onMessage 0x0021 State.mayMaintain maintain s)

/-! ### ATTEST (R411) -/

/-- The attestation record. -/
def attestRecord (s : State) (nonce : List Byte) : List Byte :=
  let f := imgFuse s
  bytesOf [0x4B, 0x5A, 0x41, 0x54, 0x54, 0x45, 0x53, 0x54] ++ nonce ++ s.dev.digest ++ natLe 1 (f % 256) ++ natLe 1 (f / 256 % 32) ++
    natLe 1 s.fuses.rollback ++ natLe 1 s.dev.st.code ++ [0, 0, 0, 0] ++ natLe 8 s.cue.count.toNat ++
    sha512 (s.ident.rootDigest ++ s.fuses.slots.toList.flatMap KeySlot.digest) ++ edPublic s.ident.seed ++
    natLe 4 imgPart ++ natLe 2 (imgStepping s) ++ natLe 2 (imgGrade s)

def attest (q : Request) (s : State) : State :=
  if q.payload.length < 32 then refuse q stInvalid s
  else
    let r := attestRecord s (q.payload.take 32)
    let s := logEvent 0x090A idSecurity 0 s
    reply q stOk (r ++ edSign s.ident.seed r ++ s.ident.serial ++ s.ident.cert) s

def execAttest (t : Nat) (s : State) : Host.Outcome State Fault Refusal :=
  let s := s.at t
  .next (onMessage 0x0026 (fun _ => true) attest s)

/-! ### Reads of tensors, traces and counters -/

/-- STANDBY to SAFE_HOLD, with a running forme (R26, R437). -/
def State.running? (s : State) : Bool := s.dev.st.cues && !s.dev.bare

/-- The value that TENSOR_READ reads: of kind 0 the latest run's, of kinds 2 and 5 the latest whole commit (R439). -/
def State.tensorValue (s : State) (play tensor kind : Nat) : Option Value :=
  s.value? play tensor fun v => v.whole || decide (kind = 0)

/-- A poisoned block of a value that is read ends as its content says; a value still held then gives no data (R257) (DEDUCED, assumption 53). -/
def readLost (play tensor kind off len : Nat) (s : State) : State :=
  match s.tensorValue play tensor kind with
  | none => s
  | some v => match s.lostPart v off len with
    | some a => loseValue (holderId a) v s
    | none => s

/-- TENSOR_READ: the latest commit of kinds 2 and 5, or zeros before the first; the retained buffer of kind 0 (R439) (DEDUCED, assumption
53). -/
def tensorRead (q : Request) (s : State) : State :=
  let p := q.payload
  let off := u64 p 8
  let len := u32 p 16
  match (s.play? (u8 p 0)).bind fun pl => pl.tensors[u32 p 4]? with
  | none => refuse q stInvalid s
  | some t =>
    if p.length < 20 ∨ zeros p 1 4 = false ∨ 262096 < len ∨ t.size < off + len ∨ ¬(t.kind = 0 ∨ t.kind = 2 ∨ t.kind = 5) then refuse q stInvalid s
    else
      let s := readLost (u8 p 0) (u32 p 4) t.kind off len s
      match s.tensorValue (u8 p 0) (u32 p 4) t.kind with
      | some v => if (s.lostPart v off len).isSome then refuse q stAvail s else reply q stOk (natLe 8 v.run ++ natLe 4 v.serial.toNat ++ [0, 0, 0, 0] ++ ((padBytes t.size v.bytes).drop off).take len) s
      | none =>
        if t.kind = 0 then refuse q stAvail s
        else reply q stOk (List.replicate (16 + len) 0) s

def execTensorRead (t : Nat) (s : State) : Host.Outcome State Fault Refusal :=
  let s := s.at t
  .next (onMessage 0x0030 State.running? tensorRead s)

/-- The 32 bytes of a trace record (R107). -/
def TraceRec.bytes (r : TraceRec) : List Byte :=
  natLe 16 r.w.toNat ++ natLe 4 r.entry.toNat ++ natLe 2 r.fed.toNat ++ natLe 2 r.bubbles.toNat ++ [r.outcome, r.row] ++ List.replicate 6 0

def traceRead (q : Request) (s : State) : State :=
  if q.payload.length < 1 ∨ 16 ≤ u8 q.payload 0 then refuse q stInvalid s
  else
    let p := s.press.get (Fin.ofNat 16 (u8 q.payload 0))
    if !s.forme.tracing || !p.ran then refuse q stAvail s
    else
      let recs := p.trace.reverse.flatMap TraceRec.bytes
      let oldest := if p.traced ≤ 256 then 0 else p.traced % 256
      reply q stOk (natLe 2 oldest ++ List.replicate 6 0 ++ padBytes 8192 recs) s

def execTraceRead (t : Nat) (s : State) : Host.Outcome State Fault Refusal :=
  let s := s.at t
  .next (onMessage 0x0031 State.running? traceRead s)

/-- The 862 words of COUNTERS_READ. -/
def counterBytes (m : Mem) : List Byte :=
  let w := fun (l : List W32) => l.flatMap fun x => natLe 4 x.toNat
  let bitmap := (List.range 84).map fun k => BitVec.ofNat 8 ((List.range 8).map fun j => bit (decide (8 * k + j ∈ m.ovf)) j).sum
  let ring := m.ring.reverse.flatMap fun e => natLe 4 e.1.toNat ++ natLe 4 e.2 ++ natLe 4 (e.2 / 2 ^ 32 % 65536)
  w m.corrected.toList ++ w m.doubles.toList ++ w m.resent.toList ++ w m.exhausted.toList ++ w m.sevs.toList ++ w m.pf.toList ++
    w m.timeouts.toList ++ w [m.restored] ++ bitmap ++ padBytes 768 ring

def execCountersRead (t : Nat) (s : State) : Host.Outcome State Fault Refusal :=
  let s := s.at t
  .next (onMessage 0x0032 (fun _ => true) (fun q s => reply q stOk (counterBytes s.mem) s) s)

end Sys2Proof.Machine
end

