-- ==== Sys2Proof/Machine/Update.lean ====
section
/-! DEFINITION. MAINTENANCE: its end, updates of the forme unit and fuse commands (R403, R404, R413 to R419). -/

namespace Sys2Proof.Machine

def State.maintaining (s : State) : Bool := decide (s.dev.st = .maintenance)

/-- The device resets as RESET_N does, and leaves reset again (R417, R455). -/
def softReset (s : State) : State :=
  let s := deviceReset s
  { s with chip := { s.chip with resetN := false, ufsRst := false } }

/-- MAINTENANCE_END: an active update is interrupted with detail 1; otherwise the device resets (R418). -/
def execMaintenanceEnd (t : Nat) (s : State) : Host.Outcome State Fault Refusal :=
  let s := s.at t
  .next (onMessage 0x0022 State.maintaining (fun q s =>
    if s.upd.active then interruptUpdate 1 (refuse q stOk s) else softReset (refuse q stOk s)) s)

/-! ### Updates (R414 to R418) -/

/-- Fuses as they will stand when the burns under way have completed. -/
def Fuses.settled (f : Fuses) : Fuses := f.burns.foldl (fun f b => applyBurn b f) f

/-- The status of a failed check among 1 to 4 (R438). -/
def updateStatus (cause : Nat) : Nat := if cause = 0x04 then stInvalid else if cause = 0x07 then stRollback else stAuth

/-- The update completes: R417's last check, the colophon, event 0x0908 and the reset. -/
def completeUpdate (s : State) : State :=
  let f := s.fuses.settled
  let col := s.upd.colophon
  if keyAccepted f s.ident.rootDigest (u8 col 8) (sub col 80 32) = false ∨ (readHeader s.upd.dir).rollback < f.rollback then interruptUpdate 4 s
  else
    let s := logEvent 0x0908 idSecurity 0 { s with ufs := cellsWrite s.ufs (u64 s.upd.dir 16 - 4096) col }
    softReset { s with upd := Upd.none }

/-- An update whose sections are all kept or written completes. -/
def settleUpdate (s : State) : State :=
  if s.upd.active && s.upd.states.all fun x => decide (x = .kept ∨ x = .written) then completeUpdate s else s

/-- Begin an update: the old colophon is erased, ACTIVE is set, the new directory is written (R414, R415). -/
def beginUpdate (dir col : List Byte) (s : State) : State :=
  let h := cellsRead s.ufs 0 4096
  let old := if headerValid h then readSections s.directory else []
  let s := if headerValid h then { s with ufs := cellsWrite s.ufs (u64 h 16 - 4096) (List.replicate 4096 0) } else s
  let secs := readSections dir
  { s with
    ufs := cellsWrite s.ufs 0 dir
    dev := { s.dev with progress := 0 }
    upd := { active := true, dir := dir, colophon := col, sections := secs
             states := secs.map fun x => if x ∈ old then SecState.candidate else SecState.needed
             received := secs.map fun _ => 0, last := s.now } }

/-- UPDATE_DIRECTORY: checks 1 to 4 of R407 come first, and nothing is written before they pass. -/
def updateDirectory (q : Request) (s : State) : State :=
  let n := dirLength q.payload
  if s.upd.active then refuse q stState { s with upd := { s.upd with last := s.now } }
  else if q.payload.length < 4096 ∨ q.payload.length < n + 4096 then refuse q stInvalid s
  else
    let dir := q.payload.take n
    let col := sub q.payload n 4096
    match checks1to4 s.fuses.settled s.ident.rootDigest dir col with
    | some (c, _) => refuse q (updateStatus c) s
    | none =>
      let s := beginUpdate dir col s
      reply q stOk (natLe 1 s.upd.needed ++ natLe 1 s.upd.kept) s

def execUpdateDirectory (t : Nat) (s : State) : Host.Outcome State Fault Refusal :=
  let s := s.at t
  .next (onMessage 0x0023 State.maintaining updateDirectory s)

/-- Section bytes that the update has hashed (LOAD_PROGRESS). -/
def hashed (n : Nat) (s : State) : State := { s with dev := { s.dev with progress := s.dev.progress + BitVec.ofNat 64 n } }

def setSec (i : Nat) (x : SecState) (s : State) : State := { s with upd := { s.upd with states := s.upd.states.set i x } }

/-- UPDATE_KEEP_VERIFIED: a candidate read back is kept with event 0x0907, or needed (R415). -/
def execUpdateKeepVerified (t : Nat) (pos : Fin 256) (s : State) : Host.Outcome State Fault Refusal :=
  let s := s.at t
  match (if s.upd.active then s.upd.states[pos.1]? else none), s.upd.sections[pos.1]? with
  | some .candidate, some x =>
    let s := hashed x.length s
    if x.hash s.ufs = x.digest then .next (settleUpdate (logEvent 0x0907 idSecurity pos.1 (setSec pos.1 .kept s)))
    else .next (setSec pos.1 .needed s)
  | _, _ => .next s

/-- UPDATE_DATA: the next bytes of a needed section, in order of offset (R416) (DEDUCED, assumption 51). -/
def updateData (q : Request) (s : State) : State :=
  let s := { s with upd := { s.upd with last := s.now } }
  let i := u8 q.payload 0
  let off := u64 q.payload 8
  let data := q.payload.drop 16
  match s.upd.sections[i]?, (s.upd.states[i]? : Option SecState) with
  | some x, some SecState.needed =>
    let got := s.upd.received.getD i 0
    if q.payload.length < 16 ∨ s.upd.active = false ∨ zeros q.payload 1 8 = false ∨ off ≠ got ∨ x.length < got + data.length ∨
        (data.length % 4096 ≠ 0 ∧ got + data.length ≠ x.length) then refuse q stInvalid s
    else
      let now := got + data.length
      let s := hashed data.length { s with ufs := cellsWrite s.ufs (x.offset + off) data, upd := { s.upd with received := s.upd.received.set i now } }
      if now < x.length then reply q stOk (natLe 8 now) s
      else if x.hash s.ufs = x.digest then
        settleUpdate (reply q stOk (natLe 8 now) (logEvent 0x0906 idSecurity i (setSec i .written s)))
      else refuse q stDigest { s with upd := { s.upd with received := s.upd.received.set i 0 } }
  | _, _ => refuse q stInvalid s

def execUpdateData (t : Nat) (s : State) : Host.Outcome State Fault Refusal :=
  let s := s.at t
  .next (onMessage 0x0024 State.maintaining updateData s)

/-- UPDATE_IDLE_TIMEOUT: 60 s without an update message (R418). -/
def execUpdateIdleTimeout (t : Nat) (s : State) : Host.Outcome State Fault Refusal :=
  let s := s.at t
  .next (if s.upd.active && decide (s.upd.last + us 60000000 ≤ s.now) then interruptUpdate 2 s else s)

/-! ### Fuse commands (R403, R404) -/

def fuseMagic : List Byte := bytesOf [0x4B, 0x5A, 0x46, 0x55, 0x53, 0x45, 0x30, 0x31]

/-- R470 on a fuse command. -/
def fuseFields (p : List Byte) : Bool :=
  decide (224 ≤ p.length) && decide (p.take 8 = fuseMagic) && decide (1 ≤ u8 p 8 ∧ u8 p 8 ≤ 4) && decide (u8 p 9 ≤ 4) && zeros p 10 12 &&
    decide (u8 p 112 ≤ 4) && zeros p 113 128 && (decide (u8 p 8 = 1) || zeros p 48 112)

/-- The command's own condition, and the burn that carries it out. -/
def fuseBurn (f : Fuses) (p : List Byte) : Option Burn :=
  let cmd := u8 p 8
  let slot := u8 p 9
  if cmd = 4 then some .lock
  else if cmd = 3 then (if 1 ≤ u32 p 12 ∧ u32 p 12 ≤ 64 ∧ f.rollback < u32 p 12 then some (.advance (u32 p 12)) else none)
  else if h : 1 ≤ slot ∧ slot ≤ 4 then
    let i : Fin 4 := ⟨slot - 1, by omega⟩
    let k := f.slots.get i
    if cmd = 1 then (if !k.enrolled && k.digest.all (· == 0) then some (.enroll i (sub p 48 64)) else none)
    else if k.enrolled && (List.finRange 4).any (fun j => decide (j ≠ i) && (f.slots.get j).valid) then some (.revoke i)
    else none
  else none

/-- The reason a command is refused, or its burn. -/
def judgeFuse (s : State) (p : List Byte) : Nat × Option Burn :=
  let f := s.fuses.settled
  if sub p 16 32 ≠ edPublic s.ident.seed then (1, none)
  else if keyAccepted f s.ident.rootDigest (u8 p 112) (sub p 128 32) = false then (2, none)
  else if edVerify (sub p 128 32) (sha512 (p.take 160)) (sub p 160 64) = false then (3, none)
  else
    match fuseBurn f p with
    | some b => (0, some b)
    | none => (4, none)

/-- FUSE_COMMAND: the reply always carries its reason byte. -/
def fuseCommand (q : Request) (s : State) : State :=
  let ans := fun (st reason : Nat) (s : State) => replyWith s.headVersion q q.session st (natLe 1 reason) s
  if !s.maintaining then ans stState 0 s
  else if !fuseFields q.payload then ans stInvalid 0 s
  else
    match judgeFuse s q.payload with
    | (_, some b) => ans stOk 0 { s with fuses := { s.fuses with burns := s.fuses.burns ++ [b] } }
    | (r, none) => ans stFuse r s

def execFuseCommand (t : Nat) (s : State) : Host.Outcome State Fault Refusal :=
  let s := s.at t
  match s.head? fun x => x = 0x0025 with
  | none => .next s
  | some m =>
    let ok := s.versionOk m
    let (q, s) := handOn m s
    .next (if ok then fuseCommand q s else replyWith s.headVersion q q.session stVersion [0] s)

end Sys2Proof.Machine
end

