-- ==== Sys2Proof/Machine/VecUnit.lean ====
section
/-! DEFINITION. The vector unit's micro-operation: its operands from the case and the drain queues, what each operator gives, and where
the results go (R117, R161 to R169, R177, R186 to R194). -/

namespace Sys2Proof.Machine

/-! ### Operands and results in the case -/

/-- Elements of a format from an address up; a block-scaled tensor's scale plane follows, on a multiple of 64 bytes (R152). -/
def elemsAt (rd : Nat → Byte) (base fmt n : Nat) : VArr :=
  let scales := base + (packedLen fmt n + 63) / 64 * 64
  { fmt := fmt, bits := (List.range n).map fun i =>
      if fmt = fRaw then leNat ((List.range 16).map fun k => rd (base + 16 * i + k))
      else elemCode fmt i ((elemAddrs fmt base i).map rd) + (if isMx fmt then (rd (scales + i / 32)).toNat * 256 else 0) }

/-- The first rows of a drain queue. -/
def Press.front (p : Press) (q : Fin 16) (n : Nat) : List (Nat × Nat) := ((p.drainQ.filter fun e => e.1 = q).take n).flatMap Prod.snd

/-- The queue without its first rows. -/
def dropFront (q : Fin 16) : Nat → List (Fin 16 × List (Nat × Nat)) → List (Fin 16 × List (Nat × Nat))
  | 0, l => l
  | _, [] => []
  | n + 1, e :: l => if e.1 = q then dropFront q n l else e :: dropFront q (n + 1) l

/-- Play-address blocks of an operand in memory, the block-scaled formats' scale plane with them. -/
def memBlocks : VecSrc → List Nat
  | .mem addr fmt n =>
    let data := packedLen fmt n
    let scales := if isMx fmt then (List.range ((n + 31) / 32)).map fun k => addr + (data + 63) / 64 * 64 + k else []
    blocksOf ((List.range data).map (fun k => addr + k) ++ scales)
  | _ => []

/-- An operand's elements. -/
def State.vecSrc (s : State) (p : Fin 16) (play : Nat) : VecSrc → VArr
  | .case line fmt n => elemsAt (fun a => cellRead s.mem.cells a) (caseBase p.1 + line * 1024) fmt n
  | .mem addr fmt n => elemsAt (s.playByte play) addr fmt n
  | .drain q n =>
    let r := (s.press.get p).front q n
    { fmt := (r.head?.map Prod.snd).getD fFp32, bits := r.map Prod.fst }
  | .lit vs => { fmt := fFp32, bits := vs.map BitVec.toNat }

/-- Rows an operand list takes from each drain queue. -/
def drainNeed (srcs : List VecSrc) (q : Fin 16) : Nat :=
  (srcs.map fun x => match x with
    | .drain r n => if r = q then n else 0
    | _ => 0).sum

def popDrains (srcs : List VecSrc) (p : Press) : Press :=
  { p with drainQ := srcs.foldl (fun l x => match x with
      | .drain q n => dropFront q n l
      | _ => l) p.drainQ }

/-- Results stand one after another in the case's scratch, each from a line's start; nothing is written beyond it. -/
def writeResults (p : Fin 16) : Nat → List VArr → State → State
  | _, [], s => s
  | line, r :: rs, s =>
    let bs := r.bytes.take (s.mem.split.get p * 1024 - line * 1024)
    let s := (devWrite (caseBase p.1 + line * 1024) bs s).modPress p fun pr =>
      (List.range ((bs.length + 15) / 16)).foldl (fun pr k => noteLine (line + k / 64) (k % 64) pr) pr
    writeResults p (line + (bs.length + 1023) / 1024) rs s

/-- What a micro-operation with operands in memory does in place of running: it waits for a walk or for its first missing block, faults on a page
it may not read, or reads poison (R230, R233, R241, R257). -/
def memOperands (p : Fin 16) (idx : Nat) (h : Fin 8) (i : Inst) (bs : List Nat) (s : State) : Option State :=
  let play := i.key.play
  if (pagesAt bs).any fun g => !s.pageReady p play g then some (waitHand p h .walk s)
  else
    match s.runFaults i false bs, bs.find? fun a => !s.blockHere p h play a, s.poisonedIn play bs with
    | some d, _, _ => some (translationFault p idx d i s)
    | none, some a, _ => some (demandMiss p h i a s)
    | none, none, some d => some (poisonRead (holderId d) d i.key s)
    | none, none, none => none

/-! ### Paged attention (R216, R219, R220) -/

/-- A row of a step with a pool that the run holds: the run, the row's place in the length table, the pool's buffer, geometry and format, and
the row. -/
structure Paged where
  i : Inst
  row : Nat
  b : BufReq
  g : PoolGeom
  fmt : Nat
  r : Row

def State.paged (s : State) (i : Inst) (pool row : Nat) : Option Paged :=
  match i.bufs.find? (fun b => b.tensor = pool), (s.play? i.key.play).bind fun p => p.tensors[pool]?,
      (s.cog.steps.find? fun st => st.play = i.key.play ∧ st.no = i.key.run).bind fun st => st.rows[row]? with
  | some b, some t, some r => if t.kind = 6 then some { i := i, row := row, b := b, g := poolGeom t, fmt := t.format, r := r } else none
  | _, _, _ => none

/-- Play address of a slot of a leaf's page: keys (0) or values (1) of one head (R196). -/
def Paged.slot (x : Paged) (leaf kv head slot : Nat) : Nat :=
  leafAddr x.i x.b x.g leaf + ((kv * x.g.heads + head) * 16 + slot) * (x.g.d * x.g.w)

/-- Play address of a position of the row. -/
def Paged.at_ (x : Paged) (pos kv head : Nat) : Nat := x.slot (x.r.map.getD (pos / 16) 0) kv head (pos % 16)

/-- Keys (0) and values (1), heads, and `n` numbers. -/
def Paged.each (x : Paged) (n : Nat) : List (Nat × Nat × Nat) :=
  [0, 1].flatMap fun kv => (List.range x.g.heads).flatMap fun h => (List.range n).map fun k => (kv, h, k)

/-- The slots that a row copies on write, from the leaf it copies into its own. -/
def Paged.copies (x : Paged) : List (Nat × Nat) :=
  match x.r.copySrc with
  | none => []
  | some src => (x.each (x.r.start % 16)).map fun (kv, h, j) => (x.slot src kv h j, x.at_ (x.r.start / 16 * 16 + j) kv h)

/-- A position of the row may be written: a dropped row's only in a leaf that the step reserved, since nothing of it becomes visible and the leaf
that it would append to may be another's by now (R211; DESIGN CHOICE, assumption 154). -/
def Paged.stores (x : Paged) (pos : Nat) : Bool := !x.r.dropped || (x.r.map[pos / 16]?).any fun n => decide (n ∈ x.r.reserved)

/-- The slots that take the row's new keys and values. -/
def Paged.news (x : Paged) : List Nat :=
  ((x.each x.r.count).filter fun e => x.stores (x.r.start + e.2.2)).map fun (kv, h, n) => x.at_ (x.r.start + n) kv h

/-- The slots that the row reads: every position of its session up to its last new one. -/
def Paged.reads (x : Paged) : List Nat := (x.each (x.r.start + x.r.count)).map fun (kv, h, p) => x.at_ p kv h

def Paged.slotBlocks (x : Paged) (l : List Nat) : List Nat :=
  (l.flatMap fun a => (List.range ((a % 64 + x.g.d * x.g.w + 63) / 64)).map fun k => a / 64 * 64 + 64 * k).dedup

/-- What a row has written is noted: its positions for the digest (R384), and its leaves in galley frames as written since they entered (R250). -/
def Paged.note (x : Paged) (s : State) : State :=
  let ps := x.r.writes.filter x.stores
  let s := s.modInst x.i.key fun i => { i with wrote := ps.map (fun p => (x.b.tensor, x.row, p)) ++ i.wrote }
  let leaves := (ps.filterMap fun p => x.r.map[p / 16]?).dedup.filter fun n => x.i.frames.any fun e => decide (e.1 = n)
  { s with cog := { s.cog with dirty := (leaves.map fun n => (x.i.key.play, n)) ++ s.cog.dirty } }

/-- The copy, then the new keys and values in pool format (R142). -/
def Paged.write (x : Paged) (k v : VArr) (s : State) : State :=
  let play := x.i.key.play
  let s := x.copies.foldl (fun s c => playWrite play c.2 (s.playBytes play c.1 (x.g.d * x.g.w)) s) s
  x.note (((x.each x.r.count).filter fun e => x.stores (x.r.start + e.2.2)).foldl (fun s (kv, h, n) =>
    let a := if kv = 0 then k else v
    playWrite play (x.at_ (x.r.start + n) kv h) (ofBits x.fmt a ((a.bits.drop ((n * x.g.heads + h) * x.g.d)).take x.g.d)).bytes s) s)

/-- Keys or values of a head at the positions up to `p`, in pool format. -/
def Paged.column (x : Paged) (s : State) (kv head p : Nat) : VArr :=
  { fmt := x.fmt, bits := (List.range (p + 1)).flatMap fun j =>
      (elemsAt (s.playByte x.i.key.play) (x.at_ j kv head) x.fmt x.g.d).bits }

/-- The row's results: of each new token at its position, each query head h over key-value head h div (Hq / Hkv). -/
def Paged.outs (x : Paged) (s : State) (hq : Nat) (sigma : W32) (q : VArr) : List W32 :=
  (List.range x.r.count).flatMap fun n => (List.range hq).flatMap fun h =>
    let p := x.r.start + n
    let kvh := h / (hq / x.g.heads)
    attentionRow x.g.d sigma { q with bits := (q.bits.drop ((n * hq + h) * x.g.d)).take x.g.d } (x.column s 0 kvh p) (x.column s 1 kvh p) (p + 1)

/-- The operands have the row's tokens and heads. -/
def Paged.fits (x : Paged) (hq : Nat) (q k v : VArr) : Bool :=
  decide (x.g.heads ≠ 0 ∧ hq ≠ 0 ∧ hq % x.g.heads = 0 ∧ q.bits.length = x.r.count * hq * x.g.d ∧ k.bits.length = x.r.count * x.g.heads * x.g.d ∧
    v.bits.length = x.r.count * x.g.heads * x.g.d)

/-- The row of a PAGED_ATTENTION is a padding row of the run's step: no work is generated for it (R212). -/
def State.padding (s : State) (i : Inst) (row : Nat) : Bool :=
  (s.cog.steps.find? fun st => st.play = i.key.play ∧ st.no = i.key.run).any fun st => decide (st.rows.length ≤ row)

/-- The results of a micro-operation and the state they stand in: PAGED_ATTENTION writes its pool before it reads it; none where it is illegal. -/
def vecRun (i : Inst) (m : VecMicro) (as : List VArr) (s : State) : Option (List VArr × State) :=
  match m.op with
  | .attention pool row hq sigma =>
    (match s.paged i pool row with
     | none => if s.padding i row then some ([], s) else none
     | some x =>
       if !x.fits hq (arr as 0) (arr as 1) (arr as 2) then none
       else
         let s := x.write (arr as 1) (arr as 2) s
         some ([ofF m.fmt (x.outs s hq sigma (arr as 0))], s))
  | op =>
    let t := ((s.cog.steps.find? fun st => st.play = i.key.play ∧ st.no = i.key.run).filter fun _ => i.kind = 2).map Step.total
    (vecEval m (match t with
      | some t => realTokens op t as
      | none => as)).map fun rs => (rs, s)

/-- Blocks of a pool that a micro-operation reads and writes: those that PAGED_ATTENTION copies and reads, and those that it writes. -/
def poolBlocks (i : Inst) (m : VecMicro) (s : State) : List Nat × List Nat :=
  match m.op with
  | .attention pool row _ _ =>
    (match s.paged i pool row with
     | none => ([], [])
     | some x => (x.slotBlocks (x.copies.map Prod.fst ++ x.reads), x.slotBlocks (x.copies.map Prod.snd ++ x.news)))
  | _ => ([], [])

/-- What keeps PAGED_ATTENTION from its pages: a walk, a page that it may not use, a block that it has yet to receive, poison in what it reads
before it is written, or a stack that retrains (R230, R239, R241, R257). -/
def poolWait (p : Fin 16) (idx : Nat) (h : Fin 8) (i : Inst) (rs ws : List Nat) (s : State) : Option State :=
  let play := i.key.play
  if (pagesAt (rs ++ ws)).any fun g => !s.pageReady p play g then some (waitHand p h .walk s)
  else
    match s.runFaults i false rs, s.runFaults i true ws, s.poisonedIn play (rs.filter fun a => a ∉ ws) with
    | some d, _, _ => some (translationFault p idx d i s)
    | none, some d, _ => some (translationFault p idx d i s)
    | none, none, bad => match (rs.filter fun a => a ∉ ws).find? fun a => !s.blockHere p h play a with
      | some a => some (demandMiss p h i a s)
      | none => match bad with
        | some d => some (poisonRead (holderId d) d i.key s)
        | none => if ws.any fun a => (s.translate play a).any s.retraining then some (waitHand p h .trackers s) else none

/-- Cycles from a vector micro-operation's issue to its result (R117): 8 where it takes exp, log, a reciprocal or a reciprocal square root. -/
def VecOp.latency : VecOp → Nat
  | .special _ | .sigmoid | .silu | .geluS | .tanh | .softmax _ | .layerNorm .. | .rmsNorm .. | .expertRoute .. | .sample .. | .attention .. => 8
  | _ => 4

/-- What a micro-operation of a run writes: its pool blocks take their trackers, its results go through the array side, and one operation is
charged. -/
def writeMicro (p : Fin 16) (idx : Nat) (m : VecMicro) (i : Inst) (ws : List Nat) (outs : List VArr) (s : State) : State :=
  let s := askBlocks p i.part i.key.play 0 (ws.map fun a => (a, true)) s
  let s := writeResults p m.dst outs (s.modPress p (popDrains m.srcs))
  meetBarrier i (pumpAll p (s.modPress p fun r => issued s.pressCycle m.stagehand idx { r with
    last := s.pressCycle + VecOp.latency m.op, tally := { r.tally with vecOps := r.tally.vecOps + 1 } }))

/-- A micro-operation that waits for nothing takes its operands and runs; one that its operands do not suit is illegal (R104). -/
def runMicro (p : Fin 16) (idx : Nat) (m : VecMicro) (i : Inst) (ws : List Nat) (s : State) : State :=
  if (s.runOn p).map Inst.key ≠ some i.key then s
  else
    match vecRun i m (m.srcs.map (s.vecSrc p i.key.play)) s with
    | none => illegalOp p idx (Config.freeByte s.free).toNat i { s with free := s.free + 1 }
    | some (outs, s) => writeMicro p idx m i ws outs s

/-- What a micro-operation reads and writes in the case is scratch (R226, R232). -/
def microInScratch (m : VecMicro) (split : Nat) : Bool :=
  decide (m.dst ≤ split) && m.srcs.all fun x => match x with
    | .case line fmt n =>
      decide (line * 1024 + (if isMx fmt then (packedLen fmt n + 63) / 64 * 64 + (n + 31) / 32 else packedLen fmt n) ≤ split * 1024)
    | _ => true

/-- VECTOR_MICRO_OPERATION: its operands are taken, its results written through the array side, and one operation charged. One that reads
outside the scratch is never emitted and has no effect (DESIGN CHOICE, assumption 152). -/
def execVectorMicroOperation (t : Nat) (p : Fin 16) (idx : Nat) (m : VecMicro) (errs : List ReadErr) (s : State) :
    Host.Outcome State Fault Refusal :=
  let s := s.at t
  match (if s.mayIssue p m.stagehand idx (.vector m) && microInScratch m (s.mem.split.get p) then s.runOn p else none) with
  | none => .next s
  | some i =>
    let s := tagErrs p (errs.filterMap ReadErr.tag) s
    let pr := s.press.get p
    if (List.finRange 16).any fun q => decide (pr.drained q < drainNeed m.srcs q) then .next (waitHand p m.stagehand .drainEmpty s)
    else
      let bs := (m.srcs.flatMap memBlocks).dedup
      let (rs, ws) := poolBlocks i m s
      match (memOperands p idx m.stagehand i bs s).or (poolWait p idx m.stagehand i rs ws s) with
      | some s => .next s
      | none =>
        .next (runMicro p idx m i ws (memErrs (errs.filterMap ReadErr.mem) (some i.key) (bs.foldl (fun s a => demandHit p m.stagehand i.key.play a s) s)))

end Sys2Proof.Machine
end

