-- ==== Sys2Proof/Machine/Dispatch.lean ====
section
/-! DEFINITION. The meaning of each command, one arm per row of the table. -/

namespace Sys2Proof.Machine

def exec (i : Instr) (s : State) : Host.Outcome State Fault Refusal :=
  match i with
  | .powerOn t => Sys2Proof.Machine.execPowerOn t s
  | .powerLoss t => Sys2Proof.Machine.execPowerLoss t s
  | .resetNAssert t => Sys2Proof.Machine.execResetNAssert t s
  | .resetNDeassert t => Sys2Proof.Machine.execResetNDeassert t s
  | .resetComplete t => Sys2Proof.Machine.execResetComplete t s
  | .ufsCommandComplete t => Sys2Proof.Machine.execUfsCommandComplete t s
  | .ufsCommandTimeout t => Sys2Proof.Machine.execUfsCommandTimeout t s
  | .loadingComplete t rep => Sys2Proof.Machine.execLoadingComplete t rep s
  | .fuseBurnComplete t => Sys2Proof.Machine.execFuseBurnComplete t s
  | .cueInEdge t low high obs => Sys2Proof.Machine.execCueInEdge t low high obs s
  | .cueInMissing t obs => Sys2Proof.Machine.execCueInMissing t obs s
  | .internalCueBoundary t obs => Sys2Proof.Machine.execInternalCueBoundary t obs s
  | .stackRetrainDone t n => Sys2Proof.Machine.execStackRetrainDone t n s
  | .proofPassEnd t u failed obs => Sys2Proof.Machine.execProofPassEnd t u failed obs s
  | .proofReservationExpiry t u => Sys2Proof.Machine.execProofReservationExpiry t u s
  | .ingestCutoff t => Sys2Proof.Machine.execIngestCutoff t s
  | .windowStart t w => Sys2Proof.Machine.execWindowStart t w s
  | .windowEnd t w => Sys2Proof.Machine.execWindowEnd t w s
  | .comparisonStart t => Sys2Proof.Machine.execComparisonStart t s
  | .comparatorVerdict t fault => Sys2Proof.Machine.execComparatorVerdict t fault s
  | .publishDeadline t => Sys2Proof.Machine.execPublishDeadline t s
  | .lminMark t => Sys2Proof.Machine.execLminMark t s
  | .rehearsalSuspendRequest t u => Sys2Proof.Machine.execRehearsalSuspendRequest t u s
  | .rehearsalSliceEnd t u ok complete slice => Sys2Proof.Machine.execRehearsalSliceEnd t u ok complete slice s
  | .sceneAdmission t r => Sys2Proof.Machine.execSceneAdmission t r s
  | .stepFormation t play => Sys2Proof.Machine.execStepFormation t play s
  | .partCommitRequest t k part errs => Sys2Proof.Machine.execPartCommitRequest t k part errs s
  | .sceneCommit t k => Sys2Proof.Machine.execSceneCommit t k s
  | .sceneWatchdogExpiry t k => Sys2Proof.Machine.execSceneWatchdogExpiry t k s
  | .sequencerTimeout t p stagehand => Sys2Proof.Machine.execSequencerTimeout t p stagehand s
  | .relowerComplete t k => Sys2Proof.Machine.execRelowerComplete t k s
  | .press t p w idx faults errs => Sys2Proof.Machine.execPress t p w idx faults errs s
  | .platenRepeatVerdict t p obs => Sys2Proof.Machine.execPlatenRepeatVerdict t p obs s
  | .shadowLoadComplete t p wLine parity => Sys2Proof.Machine.execShadowLoadComplete t p wLine parity s
  | .groupDrain t p bias => Sys2Proof.Machine.execGroupDrain t p bias s
  | .accumulatorError t p entry => Sys2Proof.Machine.execAccumulatorError t p entry s
  | .sequencerLockstepMismatch t p stagehand => Sys2Proof.Machine.execSequencerLockstepMismatch t p stagehand s
  | .vectorMicroOperation t p idx m errs => Sys2Proof.Machine.execVectorMicroOperation t p idx m errs s
  | .compositorWrite t p idx comp stagehand bleed op tags errs => Sys2Proof.Machine.execCompositorWrite t p idx comp stagehand bleed op tags errs s
  | .xfer t p idx w tags errs => Sys2Proof.Machine.execXfer t p idx w tags errs s
  | .xferComplete t p comp => Sys2Proof.Machine.execXferComplete t p comp s
  | .compositorTimeout t p comp => Sys2Proof.Machine.execCompositorTimeout t p comp s
  | .translationWalkDone t p stagehand play addr write idx tags => Sys2Proof.Machine.execTranslationWalkDone t p stagehand play addr write idx tags s
  | .trackerResponse t id ecc => Sys2Proof.Machine.execTrackerResponse t id ecc s
  | .trackerTimeout t id => Sys2Proof.Machine.execTrackerTimeout t id s
  | .trackerTimeoutRepeat t id => Sys2Proof.Machine.execTrackerTimeoutRepeat t id s
  | .prefetchIssue t p stream tags => Sys2Proof.Machine.execPrefetchIssue t p stream tags s
  | .fabricBlockReceive t recv send data addr crc p => Sys2Proof.Machine.execFabricBlockReceive t recv send data addr crc p s
  | .stackAccessComplete t n addr obs p => Sys2Proof.Machine.execStackAccessComplete t n addr obs p s
  | .eccWriteBack t addr => Sys2Proof.Machine.execEccWriteBack t addr s
  | .constantRestoreDone t => Sys2Proof.Machine.execConstantRestoreDone t s
  | .mappingDropAck t p play page => Sys2Proof.Machine.execMappingDropAck t p play page s
  | .rowReadyUpdate t p tensor bottom row => Sys2Proof.Machine.execRowReadyUpdate t p tensor bottom row s
  | .regulatorTick t => Sys2Proof.Machine.execRegulatorTick t s
  | .leafSweepDone t play leaf => Sys2Proof.Machine.execLeafSweepDone t play leaf s
  | .classificationRepeatVerdict t fault => Sys2Proof.Machine.execClassificationRepeatVerdict t fault s
  | .stageManagerLockstepMismatch t => Sys2Proof.Machine.execStageManagerLockstepMismatch t s
  | .stageManagerWatchdogExpiry t => Sys2Proof.Machine.execStageManagerWatchdogExpiry t s
  | .curtainWatchdogExpiry t => Sys2Proof.Machine.execCurtainWatchdogExpiry t s
  | .oscillatorMonitorCount t count => Sys2Proof.Machine.execOscillatorMonitorCount t count s
  | .unitGroupReset t u => Sys2Proof.Machine.execUnitGroupReset t u s
  | .reRigAttempt t u => Sys2Proof.Machine.execReRigAttempt t u s
  | .reRigCheckResult t u check ok => Sys2Proof.Machine.execReRigCheckResult t u check ok s
  | .portRerigSampleTimeout t n => Sys2Proof.Machine.execPortRerigSampleTimeout t n s
  | .reRigWaitExpiry t u => Sys2Proof.Machine.execReRigWaitExpiry t u s
  | .csi2FrameStart t n vc vcx frame hdr => Sys2Proof.Machine.execCsi2FrameStart t n vc vcx frame hdr s
  | .csi2LongPacket t n vc vcx dt hdr crcOk payload => Sys2Proof.Machine.execCsi2LongPacket t n vc vcx dt hdr crcOk payload s
  | .csi2FrameEnd t n vc vcx frame hdr => Sys2Proof.Machine.execCsi2FrameEnd t n vc vcx frame hdr s
  | .ethernetFrame t n frame fcsOk offset => Sys2Proof.Machine.execEthernetFrame t n frame fcsOk offset s
  | .ptpSyncTimeout t => Sys2Proof.Machine.execPtpSyncTimeout t s
  | .ppsEdge t => Sys2Proof.Machine.execPpsEdge t s
  | .ppsTimeout t => Sys2Proof.Machine.execPpsTimeout t s
  | .jpegDecodeStart t engine => Sys2Proof.Machine.execJpegDecodeStart t engine s
  | .decodeDone t slot engine => Sys2Proof.Machine.execDecodeDone t slot engine s
  | .decodeBudgetExpiry t slot => Sys2Proof.Machine.execDecodeBudgetExpiry t slot s
  | .sampleComplete t slot proofCrc => Sys2Proof.Machine.execSampleComplete t slot proofCrc s
  | .streamLossTimeout t slot => Sys2Proof.Machine.execStreamLossTimeout t slot s
  | .govPowerSample t mw => Sys2Proof.Machine.execGovPowerSample t mw s
  | .coreCurrentLimit t => Sys2Proof.Machine.execCoreCurrentLimit t s
  | .avsCurrentRead t ok tenthAmp => Sys2Proof.Machine.execAvsCurrentRead t ok tenthAmp s
  | .thermalSample t readings => Sys2Proof.Machine.execThermalSample t readings s
  | .pllLockLost t pll => Sys2Proof.Machine.execPllLockLost t pll s
  | .supplyOutOfRange t rail => Sys2Proof.Machine.execSupplyOutOfRange t rail s
  | .cmd0 t => Sys2Proof.Machine.execCmd0 t s
  | .cmd3 t => Sys2Proof.Machine.execCmd3 t s
  | .cmd5 t ocr => Sys2Proof.Machine.execCmd5 t ocr s
  | .cmd7 t rca => Sys2Proof.Machine.execCmd7 t rca s
  | .cmd11 t => Sys2Proof.Machine.execCmd11 t s
  | .cmd15 t rca => Sys2Proof.Machine.execCmd15 t rca s
  | .cmd19 t => Sys2Proof.Machine.execCmd19 t s
  | .cmd52 t fn addr write => Sys2Proof.Machine.execCmd52 t fn addr write s
  | .cccrResWrite t => Sys2Proof.Machine.execCccrResWrite t s
  | .sdPadSupplyLoss t => Sys2Proof.Machine.execSdPadSupplyLoss t s
  | .cmd53F1 t addr count write => Sys2Proof.Machine.execCmd53F1 t addr count write s
  | .f1SnapshotRead t addr => Sys2Proof.Machine.execF1SnapshotRead t addr s
  | .f1RegisterWrite t addr b => Sys2Proof.Machine.execF1RegisterWrite t addr b s
  | .acctSelectWrite t bytes => Sys2Proof.Machine.execAcctSelectWrite t bytes s
  | .curtainTestWrite t bytes => Sys2Proof.Machine.execCurtainTestWrite t bytes s
  | .rxResync t bytes => Sys2Proof.Machine.execRxResync t bytes s
  | .hfIrqClear t bytes => Sys2Proof.Machine.execHfIrqClear t bytes s
  | .cueStatusClear t bytes => Sys2Proof.Machine.execCueStatusClear t bytes s
  | .f2BlockWrite t crcOk block => Sys2Proof.Machine.execF2BlockWrite t crcOk block s
  | .hostMessageTimeout t => Sys2Proof.Machine.execHostMessageTimeout t s
  | .f3BlockRead t n => Sys2Proof.Machine.execF3BlockRead t n s
  | .hello t => Sys2Proof.Machine.execHello t s
  | .sessionOpen t => Sys2Proof.Machine.execSessionOpen t s
  | .sessionInput t => Sys2Proof.Machine.execSessionInput t s
  | .sessionClose t => Sys2Proof.Machine.execSessionClose t s
  | .abort t => Sys2Proof.Machine.execAbort t s
  | .keepCreate t => Sys2Proof.Machine.execKeepCreate t s
  | .keepRelease t => Sys2Proof.Machine.execKeepRelease t s
  | .start t => Sys2Proof.Machine.execStart t s
  | .maintenanceEnter t => Sys2Proof.Machine.execMaintenanceEnter t s
  | .maintenanceEnd t => Sys2Proof.Machine.execMaintenanceEnd t s
  | .updateDirectory t => Sys2Proof.Machine.execUpdateDirectory t s
  | .updateKeepVerified t pos => Sys2Proof.Machine.execUpdateKeepVerified t pos s
  | .updateData t => Sys2Proof.Machine.execUpdateData t s
  | .updateIdleTimeout t => Sys2Proof.Machine.execUpdateIdleTimeout t s
  | .fuseCommand t => Sys2Proof.Machine.execFuseCommand t s
  | .attest t => Sys2Proof.Machine.execAttest t s
  | .tensorRead t => Sys2Proof.Machine.execTensorRead t s
  | .traceRead t => Sys2Proof.Machine.execTraceRead t s
  | .countersRead t => Sys2Proof.Machine.execCountersRead t s
  | .unsupportedMessage t => Sys2Proof.Machine.execUnsupportedMessage t s
  | .jtagBypass t => Sys2Proof.Machine.execJtagBypass t s
  | .jtagIdcode t => Sys2Proof.Machine.execJtagIdcode t s
  | .jtagSamplePreload t cells => Sys2Proof.Machine.execJtagSamplePreload t cells s
  | .jtagExtest t => Sys2Proof.Machine.execJtagExtest t s
  | .jtagDebugInstruction t code => Sys2Proof.Machine.execJtagDebugInstruction t code s
  | .cmd53F0 t fn write blockMode addr count data => Sys2Proof.Machine.execCmd53F0 t fn write blockMode addr count data s
  | .functionReadyInIorx t fn => Sys2Proof.Machine.execFunctionReadyInIorx t fn s
  | .csi2LineOrGenericShortPacket t n vc vcx dt hdr => Sys2Proof.Machine.execCsi2LineOrGenericShortPacket t n vc vcx dt hdr s
  | .dphyDeskewCalibration t n => Sys2Proof.Machine.execDphyDeskewCalibration t n s
  | .peerDelayRequest t n => Sys2Proof.Machine.execPeerDelayRequest t n s
  | .trstNAssert t => Sys2Proof.Machine.execTrstNAssert t s

end Sys2Proof.Machine
end

