-- ==== Sys2Proof/Safety.lean ====
section
/-! DEFINITION. What counts as a safe run, and the terms the statements use: completion of a command, frames over the fields of the
state, and what holds within a cue. -/

namespace Sys2Proof.Machine

/-! ### Completion -/

/-- The command completes with a property of the next state. -/
def Completes (c : Instr) (s : State) (P : State → Prop) : Prop := ∃ t, exec c s = .next t ∧ P t

/-- The newest record of the event log is that of an event (R373). -/
def Newest (t : State) (code : Nat) (unit : Byte) (detail : Nat) : Prop :=
  ∃ r, t.log.recs.head? = some r ∧ r.number = t.log.head ∧ r.code = BitVec.ofNat 16 code ∧ r.unit = unit ∧
    r.detail = BitVec.ofNat 8 detail

/-- The event log took new records, newest first, one house sequence number each. -/
def LogGrows (s t : State) (new : List LogRec) : Prop :=
  t.log.recs.take 4096 = (new ++ s.log.recs).take 4096 ∧ t.log.head = s.log.head + BitVec.ofNat 32 new.length

/-- The event log took new records, and an event is among them. -/
def Logs (s t : State) (code : Nat) (unit : Byte) (detail : Nat) : Prop :=
  ∃ new, LogGrows s t new ∧ ∃ r ∈ new, r.code = BitVec.ofNat 16 code ∧ r.unit = unit ∧ r.detail = BitVec.ofNat 8 detail

/-! ### Frames -/

/-- The fields of the state beside the queue and the clock; the house arbiter's count of what stands in the present cycle goes with the clock. -/
inductive Field where
  | free | ident | fuses | chip | dev | upd | ufs | ufsCap | forme | tb | cue | log | units | cur | cls | sched | cog | part | accts | acctWin | mem | press | ing | port | gov | overruns
deriving DecidableEq

/-- Two states agree on a field. -/
def Same (s t : State) : Field → Prop
  | .free => t.free = s.free
  | .ident => t.ident = s.ident
  | .fuses => t.fuses = s.fuses
  | .chip => t.chip = s.chip
  | .dev => t.dev = s.dev
  | .upd => t.upd = s.upd
  | .ufs => t.ufs = s.ufs
  | .ufsCap => t.ufsCap = s.ufsCap
  | .forme => t.forme = s.forme
  | .tb => t.tb = s.tb
  | .cue => t.cue = s.cue
  | .log => t.log = s.log
  | .units => t.units = s.units
  | .cur => t.cur = s.cur
  | .cls => t.cls = s.cls
  | .sched => t.sched = s.sched
  | .cog => t.cog = s.cog
  | .part => t.part = s.part
  | .accts => t.accts = s.accts
  | .acctWin => t.acctWin = s.acctWin
  | .mem => t.mem = s.mem
  | .press => t.press = s.press
  | .ing => t.ing = s.ing
  | .port => t.port = s.port
  | .gov => t.gov = s.gov
  | .overruns => t.overruns = s.overruns

/-- The fields of the state that a command can change, beside the clock: what spec/95_what_each_step_holds.md and the rules it cites let it
act on. -/
def fieldsOf : Instr → List Field
  | .powerOn .. => [.chip, .dev, .upd, .forme, .tb, .cue, .log, .units, .cur, .cls, .sched, .cog, .part, .accts, .acctWin,
    .mem, .press, .ing, .port, .gov, .overruns]
  | .powerLoss .. => [.free, .fuses, .chip, .dev, .upd, .forme, .tb, .cue, .log, .units, .cur, .cls, .sched, .cog, .part,
    .accts, .acctWin, .mem, .press, .ing, .port, .gov, .overruns]
  | .resetNAssert .. => [.chip, .dev, .upd, .forme, .tb, .cue, .log, .units, .cur, .cls, .sched, .cog, .part, .accts,
    .acctWin, .mem, .press, .ing, .port, .gov, .overruns]
  | .resetNDeassert .. => [.chip]
  | .resetComplete .. => [.chip, .dev, .tb, .port, .gov]
  | .ufsCommandComplete .. => [.dev, .log, .port]
  | .ufsCommandTimeout .. => [.dev, .upd, .log, .sched, .mem, .port]
  | .loadingComplete .. => [.dev, .forme, .cue, .log, .units, .part, .mem, .port]
  | .fuseBurnComplete .. => [.fuses]
  | .cueInEdge .. => [.fuses, .dev, .upd, .forme, .cue, .log, .units, .cur, .cls, .sched, .cog, .part, .accts, .mem, .press,
    .ing, .port, .gov]
  | .cueInMissing .. => [.fuses, .dev, .upd, .forme, .cue, .log, .units, .cur, .cls, .sched, .cog, .part, .accts, .mem,
    .press, .ing, .port, .gov]
  | .internalCueBoundary .. => [.fuses, .dev, .upd, .forme, .cue, .log, .units, .cur, .cls, .sched, .cog, .part, .accts, .mem,
    .press, .ing, .port, .gov]
  | .stackRetrainDone .. => [.mem, .press]
  | .proofPassEnd .. => [.cue, .log, .units, .cur, .cls, .sched, .part, .accts, .mem, .press, .ing, .port, .gov]
  | .proofReservationExpiry .. => [.cue, .log, .units, .cur, .cls, .sched, .part, .accts, .mem, .press, .ing, .port, .gov]
  | .ingestCutoff .. => [.cue, .log, .units, .cur, .sched, .part, .accts, .mem, .press, .ing, .port, .gov]
  | .windowStart .. => [.log, .units, .sched, .part, .accts, .mem, .press, .gov]
  | .windowEnd .. => [.cue, .log, .units, .cur, .sched, .part, .accts, .mem, .press, .port, .gov]
  | .comparisonStart .. => [.cue]
  | .comparatorVerdict .. => [.dev, .upd, .cue, .log, .cur, .cls, .sched, .port]
  | .publishDeadline .. => [.cue, .log, .units, .cur, .sched, .cog, .part, .accts, .mem, .press, .port, .gov]
  | .lminMark .. => [.cue, .sched]
  | .rehearsalSuspendRequest .. => [.sched]
  | .rehearsalSliceEnd .. => [.dev, .upd, .cue, .log, .units, .cur, .cls, .sched, .part, .accts, .mem, .press, .ing, .port, .gov]
  | .sceneAdmission .. => [.cue, .log, .units, .cur, .cls, .sched, .cog, .part, .accts, .mem, .press, .port, .gov]
  | .stepFormation .. => [.log, .sched, .cog]
  | .partCommitRequest .. => [.cue, .log, .units, .cur, .cls, .sched, .cog, .part, .accts, .mem, .press, .port, .gov]
  | .sceneCommit .. => [.log, .sched, .cog, .part, .accts, .mem, .press, .port, .gov]
  | .sceneWatchdogExpiry .. => [.dev, .upd, .cue, .log, .units, .cur, .sched, .cog, .part, .accts, .mem, .press, .port, .gov]
  | .sequencerTimeout .. => [.log, .units, .cur, .cls, .sched, .part, .accts, .mem, .press, .gov]
  | .relowerComplete .. => [.log, .sched, .mem]
  | .press .. => [.dev, .upd, .cue, .log, .units, .cur, .cls, .sched, .cog, .part, .accts, .mem, .press, .port, .gov]
  | .platenRepeatVerdict .. => [.log, .units, .cur, .cls, .sched, .part, .accts, .mem, .press, .gov]
  | .shadowLoadComplete .. => [.log, .units, .cur, .cls, .sched, .part, .accts, .mem, .press, .gov]
  | .groupDrain .. => [.press]
  | .accumulatorError .. => [.log, .units, .sched, .part, .accts, .mem, .press, .gov]
  | .sequencerLockstepMismatch .. => [.cue, .log, .units, .cur, .cls, .sched, .part, .accts, .mem, .press, .port, .gov]
  | .vectorMicroOperation .. => [.free, .dev, .upd, .cue, .log, .units, .cur, .cls, .sched, .cog, .part, .accts, .mem, .press,
    .port, .gov]
  | .compositorWrite .. => [.dev, .upd, .cue, .log, .units, .cur, .cls, .sched, .cog, .part, .accts, .mem, .press, .port, .gov]
  | .xfer .. => [.dev, .upd, .cue, .log, .units, .cur, .cls, .sched, .cog, .part, .accts, .mem, .press, .port, .gov]
  | .xferComplete .. => [.press]
  | .compositorTimeout .. => [.log, .units, .sched, .part, .accts, .mem, .press, .gov]
  | .translationWalkDone .. => [.dev, .upd, .cue, .log, .units, .cur, .sched, .cog, .part, .accts, .mem, .press, .port, .gov]
  | .trackerResponse .. => [.cue, .log, .units, .cur, .cls, .sched, .cog, .part, .accts, .mem, .press, .port, .gov]
  | .trackerTimeout .. => [.log, .mem]
  | .trackerTimeoutRepeat .. => [.cue, .log, .units, .cur, .sched, .part, .accts, .mem, .press, .port, .gov]
  | .prefetchIssue .. => [.part, .mem, .press]
  | .fabricBlockReceive .. => [.dev, .upd, .cue, .log, .units, .cur, .cls, .sched, .cog, .part, .accts, .mem, .press, .port, .gov]
  | .stackAccessComplete .. => [.dev, .upd, .cue, .log, .units, .cur, .cls, .sched, .part, .accts, .mem, .press, .port, .gov]
  | .eccWriteBack .. => [.mem]
  | .constantRestoreDone .. => [.log, .sched, .mem]
  | .mappingDropAck .. => [.mem, .press]
  | .rowReadyUpdate .. => [.press]
  | .regulatorTick .. => [.part, .mem]
  | .leafSweepDone .. => [.log, .cog]
  | .classificationRepeatVerdict .. => [.dev, .upd, .cue, .log, .units, .cur, .cls, .sched, .part, .accts, .mem, .press,
    .port, .gov]
  | .stageManagerLockstepMismatch .. => [.dev, .upd, .cue, .log, .cur, .sched, .port]
  | .stageManagerWatchdogExpiry .. => [.dev, .upd, .cue, .log, .cur, .sched, .port]
  | .curtainWatchdogExpiry .. => [.cue, .log, .cur, .sched, .port]
  | .oscillatorMonitorCount .. => [.cue, .log, .cur, .sched, .port]
  | .unitGroupReset .. => [.units, .mem, .press, .ing]
  | .reRigAttempt .. => [.log, .units]
  | .reRigCheckResult .. => [.log, .units, .sched, .ing]
  | .portRerigSampleTimeout .. => [.log, .units, .sched]
  | .reRigWaitExpiry .. => [.units, .mem, .press, .ing]
  | .csi2FrameStart .. => [.log, .ing]
  | .csi2LongPacket .. => [.log, .ing]
  | .csi2FrameEnd .. => [.log, .ing]
  | .ethernetFrame .. => [.free, .tb, .cue, .log, .ing]
  | .ptpSyncTimeout .. => [.tb, .cue, .log]
  | .ppsEdge .. => [.free, .tb, .log]
  | .ppsTimeout .. => [.tb, .cue, .log]
  | .jpegDecodeStart .. => [.ing]
  | .decodeDone .. => [.free, .log, .ing]
  | .decodeBudgetExpiry .. => [.log, .ing]
  | .sampleComplete .. => [.log, .units, .cur, .cls, .sched, .part, .accts, .mem, .press, .ing, .gov]
  | .streamLossTimeout .. => [.log, .units, .ing]
  | .govPowerSample .. => [.gov]
  | .coreCurrentLimit .. => [.log, .gov]
  | .avsCurrentRead .. => [.gov]
  | .thermalSample .. => [.dev, .upd, .cue, .log, .cur, .sched, .port, .gov]
  | .pllLockLost .. => [.chip, .dev, .upd, .cue, .log, .cur, .sched, .port]
  | .supplyOutOfRange .. => [.chip, .dev, .upd, .cue, .log, .cur, .sched, .port]
  | .cmd0 .. => [.port]
  | .cmd3 .. => [.free, .port]
  | .cmd5 .. => [.log, .port]
  | .cmd7 .. => [.port]
  | .cmd11 .. => [.port]
  | .cmd15 .. => [.port]
  | .cmd19 .. => [.port]
  | .cmd52 .. => [.dev, .cue, .log, .cur, .acctWin, .port]
  | .cccrResWrite .. => [.dev, .port]
  | .sdPadSupplyLoss .. => [.dev, .port]
  | .cmd53F1 .. => [.cue, .log, .cur, .acctWin, .port]
  | .f1SnapshotRead .. => [.port]
  | .f1RegisterWrite .. => [.cue, .log, .cur, .acctWin, .port]
  | .acctSelectWrite .. => [.cue, .log, .cur, .acctWin, .port]
  | .curtainTestWrite .. => [.cue, .log, .cur, .acctWin, .port]
  | .rxResync .. => [.cue, .log, .cur, .acctWin, .port]
  | .hfIrqClear .. => [.cue, .log, .cur, .acctWin, .port]
  | .cueStatusClear .. => [.cue, .log, .cur, .acctWin, .port]
  | .f2BlockWrite .. => [.log, .port]
  | .hostMessageTimeout .. => [.log, .port]
  | .f3BlockRead .. => [.port]
  | .hello .. => [.dev, .log, .port]
  | .sessionOpen .. => [.log, .cog, .accts, .port]
  | .sessionInput .. => [.log, .cog, .port]
  | .sessionClose .. => [.log, .sched, .cog, .mem, .port]
  | .abort .. => [.log, .cog, .port]
  | .keepCreate .. => [.log, .cog, .port]
  | .keepRelease .. => [.log, .cog, .port]
  | .start .. => [.dev, .log, .port]
  | .maintenanceEnter .. => [.dev, .cue, .log, .units, .cur, .cls, .sched, .cog, .part, .mem, .press, .port]
  | .maintenanceEnd .. => [.chip, .dev, .upd, .forme, .tb, .cue, .log, .units, .cur, .cls, .sched, .cog, .part, .accts,
    .acctWin, .mem, .press, .ing, .port, .gov, .overruns]
  | .updateDirectory .. => [.dev, .upd, .ufs, .log, .port]
  | .updateKeepVerified .. => [.chip, .dev, .upd, .ufs, .forme, .tb, .cue, .log, .units, .cur, .cls, .sched, .cog, .part,
    .accts, .acctWin, .mem, .press, .ing, .port, .gov, .overruns]
  | .updateData .. => [.chip, .dev, .upd, .ufs, .forme, .tb, .cue, .log, .units, .cur, .cls, .sched, .cog, .part, .accts,
    .acctWin, .mem, .press, .ing, .port, .gov, .overruns]
  | .updateIdleTimeout .. => [.dev, .upd, .log, .port]
  | .fuseCommand .. => [.fuses, .log, .port]
  | .attest .. => [.log, .port]
  | .tensorRead .. => [.cue, .log, .units, .cur, .sched, .cog, .part, .accts, .mem, .press, .port, .gov]
  | .traceRead .. => [.log, .port]
  | .countersRead .. => [.log, .port]
  | .unsupportedMessage .. => [.log, .port]
  | .jtagBypass .. => [.chip]
  | .jtagIdcode .. => [.chip]
  | .jtagSamplePreload .. => [.free, .chip]
  | .jtagExtest .. => [.free, .chip]
  | .jtagDebugInstruction .. => [.chip]
  | .cmd53F0 .. => [.dev, .port]
  | .functionReadyInIorx .. => [.port]
  | .csi2LineOrGenericShortPacket .. => [.log, .ing]
  | .dphyDeskewCalibration .. => [.ing]
  | .peerDelayRequest .. => [.tb]
  | .trstNAssert .. => [.chip]

/-- The commands that may begin a cue or reset the part. -/
def beginsOrResets : Instr → Bool
  | .powerOn .. => true
  | .powerLoss .. => true
  | .resetNAssert .. => true
  | .cueInEdge .. => true
  | .cueInMissing .. => true
  | .internalCueBoundary .. => true
  | .maintenanceEnd .. => true
  | .updateKeepVerified .. => true
  | .updateData .. => true
  | _ => false

/-- The commands that may reset the part. -/
def mayReset : Instr → Bool
  | .powerOn .. => true
  | .powerLoss .. => true
  | .resetNAssert .. => true
  | .maintenanceEnd .. => true
  | .updateKeepVerified .. => true
  | .updateData .. => true
  | _ => false

/-- The part after a device reset: every field at its reset value but the queue, the clock, the free counter, the pins, and what is fixed
or fused or lies in the forme unit; device time stands still at the reset (R455, R456, R466). -/
def ResetTo (s t : State) : Prop :=
  (∀ f : Field, f ∉ [Field.free, Field.ident, Field.fuses, Field.chip, Field.tb, Field.ufs, Field.ufsCap] → Same State.reset t f) ∧
    (∀ f : Field, f ∈ [Field.ident, Field.ufs, Field.ufsCap] → Same s t f) ∧ t.tb = { TimeBase.atReset with anchor := t.now }

/-- Cue `s.cue.count + 1` begins at cycle `b` with a source code: its number, place, source and stamp, and record 0x0601 (R39, R40). -/
def BeginsCue (s t : State) (b src : Nat) : Prop :=
  t.cue.count = (sat64 s.cue.count 1).1 ∧ t.cue.b = b ∧ t.cue.source = BitVec.ofNat 2 src ∧ t.cue.stamp = stampOf (s.tb.ns b) ∧
    Logs s t 0x0601 idStage src

/-- A cue fault (R34, R35): counted, marked, and the eighth in a row loses the external cue. -/
def FaultsCue (s t : State) (code detail : Nat) : Prop :=
  t.cue.faultCount = (sat32 s.cue.faultCount 1).1 ∧ t.cue.faultSeen = true ∧ Logs s t code idTime detail ∧
    (s.cue.faultRun + 1 = 8 → t.cue.extLost = true ∧ Logs s t 0x0103 idTime 0)

/-- The curtain's stop line was used: its latch is set and it does not run (R334). -/
def Stopped (t : State) : Prop := t.cur.latch = true ∧ t.cur.running = false

/-- A killed run: its instance is KILLED, on no unit, and avoids presses; it is READY again from the next admission on (R294, R302, R303). -/
def Requeued (t : State) (k : InstKey) (ps : List (Fin 16)) : Prop :=
  ∃ j, t.inst? k = some j ∧ j.st = .killed ∧ j.units = [] ∧ j.partsDone = [] ∧ j.wasKilled = true ∧ j.avoid = ps

/-- A detection of R335: the curtain stops, and a cue not yet published is invalid. -/
def Detected (s t : State) : Prop := Stopped t ∧ (s.cue.published = false → t.cue.invalid = true)

/-- A message is answered: it is handed on with event 0x0602, and its reply with a status and fields joins the send queue, under its type, sequence and
house number (R433, R434). -/
def Replies (s t : State) (m : Msg) (sess : W32) (status : Nat) (fields : List Byte) : Prop :=
  (∃ v, t.port.tx = s.port.tx ++ [message v (0x8000 + m.typ) m.seq sess
    (natLe 2 status ++ [0, 0] ++ natLe 4 (s.log.head + 1#32).toNat ++ fields)]) ∧
    t.port.ready = s.port.ready.drop 1 ∧ t.port.lastSeq = m.seq ∧ Logs s t 0x0602 idPort (m.typ % 256)

/-- The first failing check among 6 to 11 of LOADING (R407): its cause, detail and section, and what is logged before event 0x0902, oldest
first. -/
def State.loadFailure (s : State) (rep : LoadReport) : Option (Nat × Nat × Nat × List (Nat × Byte × Nat)) :=
  let l := s.dev.load.sections
  let plays := loadPlays s l
  match s.dev.load.bad6, t64Bad s l plays with
  | some p, _ => some (0x08, 0, p, [])
  | none, some p => some (0x09, 0, p, [])
  | none, none =>
    if check8 s l plays = false then some (0x0A, 0, 0xFF, [])
    else
      match rulesReason plays (sectionBytes s.ufs l 4 0) (readSheet (sectionBytes s.ufs l 3 0)).compLen,
          imposerCause s l (plays.map (lowered s l)) rep with
      | some r, _ => some (0x0C, r, 0xFF, [(0x070E, idStage, r)])
      | none, some (c, p) =>
        some (0x0B, c, 0xFF, (p.map fun i => (0x0502, idImposer, i)).toList ++ [(0x0501, idImposer, c)])
      | none, none =>
        if rep.weightsFit = false then some (0x0B, 11, 0xFF, [])
        else ((List.finRange 2).find? fun n => !s.inServ (.stack n)).map fun n => (0x03, (unitId (.stack n)).toNat, 0xFF, [])

/-- The blocks of the send queue that have not been read, each of 512 bytes (R428). -/
def State.unread (s : State) : List (List Byte) :=
  (s.port.tx.flatMap fun m => (List.range (msgBlocks m)).map fun k => padBytes 512 ((m.drop (512 * k)).take 512)).drop s.port.txDone

/-! ### Safety -/

/-- Whatever the cue's place, FAULT_N asserted goes with the stop latch or with a cue that may not restart the curtain (R334, R368). -/
def State.alarmHolds (s : State) : Bool :=
  !s.dev.faultN || s.cur.latch || !decide (s.cue.stateAtB = .running ∨ s.cue.stateAtB = .degraded)

/-- The curtain runs only with its stop latch clear and FAULT_N deasserted (R333, R334, R368). -/
def State.curtainSafe (s : State) : Bool := !s.cur.running || (!s.cur.latch && !s.dev.faultN)

/-- Every byte store has its canonical form. -/
def State.memoryWf (s : State) : Bool := Memory.wf s.mem.cells && Memory.wf s.ufs

/-- The invariant of every step. -/
def State.inv (s : State) : Bool := s.memoryWf && s.alarmHolds && s.curtainSafe

end Sys2Proof.Machine
end

