-- ==== Sys2Proof/Certificates/Slice0/Obligations.lean ====
section
/-! DEFINITION. The statements for the provers. -/

open Sys2Proof Sys2Proof.Machine

/-! ### Whole-machine statements -/

/-- A step takes the command at the front of the queue and runs it on the state with the queue's rest; on an empty queue the block idles, which is
the model's choice (assumption 15). -/
def Obligations.StepRunsFront : Prop :=
  (∀ (c : Instr) (rest : List Instr) (s : State), s.pending = c :: rest → step s = exec c { s with pending := rest }) ∧
  ∀ s : State, s.pending = [] → step s = .next s

/-- Every step keeps the invariant: both byte stores in their canonical form, and the curtain running only with its stop latch clear and
FAULT_N deasserted (R333, R334, R368). -/
def Obligations.StepKeepsInvariant : Prop :=
  ∀ s t : State, s.inv = true → step s = .next t → t.inv = true

/-- The invariant holds at reset. -/
def Obligations.ResetMeetsInvariant : Prop :=
 State.reset.inv = true

/-- The curtain starts only at PUBLISH_DEADLINE of a cue that meets every condition of R323, with its stop latch clear and its oscillator
in range (R334, R336). -/
def Obligations.CurtainStartsOnlyAtValidPublication : Prop :=
  ∀ (c : Instr) (s t : State), exec c s = .next t → s.cur.running = false → t.cur.running = true →
    ∃ n, c = .publishDeadline n ∧ (s.at n).cueValid = true ∧ s.cur.latch = false ∧ s.cur.oscOut = false ∧ s.cur.test = false ∧
      s.cue.invalid = false ∧ s.cur.verdict = .good ∧ (s.cue.stateAtB = .running ∨ s.cue.stateAtB = .degraded)

/-- Within a cue, outside a reset: the cue's number, place, source, stamp and state at its beginning stay; a lateness, an invalid mark, a
publication, the stop latch and FAULT_N once set stay set; FAULT_N is not asserted without the latch (R39, R324, R325, R333, R368). -/
def Obligations.WithinCue : Prop :=
  ∀ (c : Instr) (s t : State), beginsOrResets c = false → exec c s = .next t →
    t.cue.count = s.cue.count ∧ t.cue.b = s.cue.b ∧ t.cue.source = s.cue.source ∧ t.cue.stamp = s.cue.stamp ∧
    t.cue.stateAtB = s.cue.stateAtB ∧ (s.cue.late = true → t.cue.late = true) ∧ (s.cue.invalid = true → t.cue.invalid = true) ∧
    (s.cue.published = true → t.cue.published = true) ∧ (s.cur.latch = true → t.cur.latch = true) ∧
    (s.dev.faultN = true → t.dev.faultN = true) ∧ (t.dev.faultN = true → s.dev.faultN = true ∨ t.cur.latch = true)

/-- No command moves the queue, runs time backwards or changes the part's identity; and fuses only blow: no command lowers the rollback counter,
clears the debug lock, or takes back an enrolled or a revoked key slot (R27, R401, R404). -/
def Obligations.TimeIdentityAndFusesLast : Prop :=
  (∀ (c : Instr) (s t : State), exec c s = .next t → t.pending = s.pending ∧ s.now ≤ t.now ∧ t.ident = s.ident) ∧
  ∀ (c : Instr) (s t : State), exec c s = .next t →
    s.fuses.rollback ≤ t.fuses.rollback ∧ (s.fuses.debugLock = true → t.fuses.debugLock = true) ∧
    ∀ k : Fin 4, ((s.fuses.slots.get k).enrolled = true → (t.fuses.slots.get k).enrolled = true) ∧
      ((s.fuses.slots.get k).revoked = true → (t.fuses.slots.get k).revoked = true)

/-- The frame of every command: it changes no field of the state beside the clock and those `fieldsOf` lists for it. -/
def Obligations.CommandsChangeOnlyTheirFields : Prop :=
  ∀ (c : Instr) (s t : State) (f : Field), exec c s = .next t → f ∉ fieldsOf c → Same s t f

/-! ### Power, RESET, start-up, LOADING -/

/-- POWER_ON, POWER_LOSS and RESET_N_ASSERT reset the device: every field takes its reset value, the fuses keep what is blown, and burns
under way go on over a reset but end with the power, and so does UFS_REFCLK; RESET_N_DEASSERT releases UFS_RST_N and changes nothing else; where they
cannot happen they change nothing but the clock (R404, R406, R446, R455, R459, R466). -/
def Obligations.PowerAndResetPins : Prop :=
  (∀ (n : Nat) (s : State),
     (s.chip.powered = false → Completes (.powerOn n) s fun t => ResetTo s t ∧ t.fuses = s.fuses ∧ t.chip.powered = true ∧
       t.chip.resetN = true ∧ t.chip.railsOut = [] ∧ t.chip.pllLost = []) ∧
     (s.chip.powered = true → Completes (.powerLoss n) s fun t => ResetTo s t ∧ t.fuses.burns = [] ∧ t.chip.powered = false ∧
       t.chip.resetN = true ∧ t.chip.ufsRefclk = false ∧ (s.fuses.burns = [] → t.fuses = s.fuses) ∧ s.fuses.rollback ≤ t.fuses.rollback ∧
       (s.fuses.debugLock = true → t.fuses.debugLock = true) ∧ ∀ k : Fin 4,
         ((s.fuses.slots.get k).enrolled = true → (t.fuses.slots.get k).enrolled = true) ∧
         ((s.fuses.slots.get k).revoked = true → (t.fuses.slots.get k).revoked = true)) ∧
     (s.chip.powered = true → Completes (.resetNAssert n) s fun t => ResetTo s t ∧ t.fuses = s.fuses ∧ t.chip.powered = true ∧
       t.chip.resetN = true ∧ t.chip.ufsRst = true ∧ t.chip.ufsRefclk = s.chip.ufsRefclk ∧ t.chip.railsOut = s.chip.railsOut ∧ t.chip.pllLost = [] ∧ t.chip.tap = .idcode) ∧
     (s.chip.powered = true → exec (.powerOn n) s = .next (s.at n)) ∧
     (s.chip.powered = false → exec (.powerLoss n) s = .next (s.at n) ∧ exec (.resetNAssert n) s = .next (s.at n))) ∧
  ∀ (n : Nat) (s : State),
    (s.chip.powered = true → s.chip.resetN = true → exec (.resetNDeassert n) s =
      .next { s.at n with chip := { s.chip with resetN := false, ufsRst := false } }) ∧
    ((s.chip.powered = false ∨ s.chip.resetN = false) → exec (.resetNDeassert n) s = .next (s.at n))

/-- RESET_COMPLETE: device time starts at 0 and VDD_CORE takes its fused setpoint; a complete image leads to LOADING, an incomplete one to
BLANK with its cause (R406, R449, R461). -/
def Obligations.ResetEndsInLoadingOrBlank : Prop :=
  ∀ (n : Nat) (s : State), s.chip.powered = true → s.chip.resetN = false → s.dev.st = .reset →
    Completes (.resetComplete n) s fun t =>
      t.tb = { s.tb with anchor := (s.at n).now, base := 0 } ∧ t.gov.vcore = BitVec.ofNat 16 (setpointOf s) ∧ t.dev.prev = .reset ∧
      t.port.irq.getLsbD 3 = true ∧
      match imageCause s with
      | some c => t.dev.st = .blank ∧ t.dev.cause = BitVec.ofNat 8 c ∧ t.dev.detail = 0 ∧ t.dev.sect = 0xFF#8
      | none => t.dev.st = .loading ∧ t.dev.load.phase = .directory ∧ t.dev.cause = s.dev.cause

/-- UFS_COMMAND_COMPLETE in LOADING: the directory is judged by checks 1 to 4; each READ of the firmware brings up to 512 KiB and its end is judged by
check 5; each READ of a section adds up to 512 KiB to LOAD_PROGRESS; at a section's end its digest is compared, and after the last section the checks of LOADING_COMPLETE are due
(R391, R394, R407); elsewhere it ends the command's wait and nothing else.
UFS_COMMAND_TIMEOUT of a command under way, whether it had no completion or failed: three retries with event 0x0903, then the command fails with event 0x0904 and ends LOADING in
BLANK, interrupts the update, or leaves the play of a restoration unmapped with event 0x0405 (R259, R355, R418). -/
def Obligations.LoadingReadsAndTimeouts : Prop :=
  (∀ (n : Nat) (s : State),
     (s.dev.st = .loading → s.dev.load.phase = .directory → Completes (.ufsCommandComplete n) s fun t =>
       t.dev.ufsRetry = 0 ∧ t.dev.ufsAt = (s.at n).now ∧
       match checks1to4 s.fuses s.ident.rootDigest s.directory (s.colophonAt (u64 s.directory 16)) with
       | some (c, d) => t.dev.st = .blank ∧ t.dev.cause = BitVec.ofNat 8 c ∧ t.dev.detail = BitVec.ofNat 8 d ∧ t.dev.sect = 0xFF#8 ∧
           Newest t 0x0902 idSecurity c
       | none => t.dev.st = .loading ∧ t.dev.load.phase = .firmware ∧ t.dev.load.sections = readSections s.directory ∧ t.log = s.log) ∧
     (s.dev.st = .loading → s.dev.load.phase = .firmware → Completes (.ufsCommandComplete n) s fun t =>
       t.dev.ufsRetry = 0 ∧ t.dev.ufsAt = (s.at n).now ∧
       if s.dev.load.pos + 0x80000 < ((findSection s.dev.load.sections 7 0).map Section.length).getD 0 then
         t.dev.st = .loading ∧ t.dev.load = { s.dev.load with pos := s.dev.load.pos + 0x80000 } ∧ t.log = s.log
       else if check5 s.ident.rootDigest (sectionBytes s.ufs s.dev.load.sections 7 0) = true then
         t.dev.st = .loading ∧ t.dev.load.phase = .sections ∧ t.dev.load.next = 0 ∧ t.dev.load.pos = 0 ∧ t.log = s.log
       else t.dev.st = .blank ∧ t.dev.cause = 0x06#8 ∧ Newest t 0x0902 idSecurity 6) ∧
     (∀ x, s.dev.st = .loading → s.dev.load.phase = .sections → (loadOrder s.dev.load.sections)[s.dev.load.next]? = some x →
       Completes (.ufsCommandComplete n) s fun t => t.dev.st = .loading ∧ t.log = s.log ∧ t.dev.ufsRetry = 0 ∧ t.dev.ufsAt = (s.at n).now ∧
         t.dev.progress = s.dev.progress + BitVec.ofNat 64 (min 0x80000 (x.length - s.dev.load.pos)) ∧
         if s.dev.load.pos + min 0x80000 (x.length - s.dev.load.pos) < x.length then
           t.dev.load = { s.dev.load with pos := s.dev.load.pos + min 0x80000 (x.length - s.dev.load.pos) }
         else t.dev.load.next = s.dev.load.next + 1 ∧ t.dev.load.pos = 0 ∧
           (t.dev.load.phase = .judge ↔ s.dev.load.next + 1 = (loadOrder s.dev.load.sections).length) ∧
           (x.hash s.ufs = x.digest → t.dev.load.bad6 = s.dev.load.bad6) ∧ (x.hash s.ufs ≠ x.digest → t.dev.load.bad6.isSome = true)) ∧
     (s.dev.st = .loading → s.dev.load.phase = .sections → (loadOrder s.dev.load.sections)[s.dev.load.next]? = none →
       Completes (.ufsCommandComplete n) s fun t => t.dev.load = { s.dev.load with phase := .judge } ∧ t.dev.st = .loading ∧ t.log = s.log) ∧
     ((s.dev.st ≠ .loading ∨ s.dev.load.phase = .judge) → exec (.ufsCommandComplete n) s =
       .next { s.at n with dev := { s.dev with ufsRetry := 0, ufsAt := (s.at n).now } })) ∧
  ∀ (n : Nat) (s : State),
    (s.ufsBusy = true →
      (s.dev.ufsRetry < 3 → Completes (.ufsCommandTimeout n) s fun t =>
        t.dev = { s.dev with ufsRetry := s.dev.ufsRetry + 1, ufsAt := (s.at n).now } ∧ Newest t 0x0903 idUfs (s.dev.ufsRetry + 1) ∧
        t.upd = s.upd ∧ t.mem = s.mem) ∧
      (3 ≤ s.dev.ufsRetry → Completes (.ufsCommandTimeout n) s fun t => t.dev.ufsRetry = 0 ∧ Logs s t 0x0904 idUfs 0 ∧
        (s.dev.st = .loading → t.dev.st = .blank ∧ t.dev.cause = 0x03#8 ∧ t.dev.detail = 0x50#8 ∧ Newest t 0x0902 idSecurity 3) ∧
        (s.dev.st ≠ .loading → s.upd.active = true → t.dev.st = .blank ∧ t.dev.cause = 0x0D#8 ∧ t.dev.detail = 3 ∧ t.upd.active = false ∧
          Newest t 0x0909 idSecurity 3) ∧
        (s.dev.st ≠ .loading → s.upd.active = false → ∀ r rest, s.mem.restore = r :: rest → t.mem.restore = rest ∧
          Newest t 0x0405 idImposer 0 ∧ r.play ∈ t.sched.unmapped ∧ t.pte? r.play r.vpage = none ∧ t.dev.st = s.dev.st))) ∧
    (s.ufsBusy = false → exec (.ufsCommandTimeout n) s = .next (s.at n))

/-- LOADING_COMPLETE, once every section has been read: the first failing check among 6 to 11 ends LOADING in BLANK with its cause, detail,
section and event 0x0902 after the check's own events, and leaves FORME_DIGEST and the running forme; with none, and places for the constants that
the imposer may choose and every unit rehearsed, it ends in STANDBY with the forme, its digest and event 0x0901 (R30, R407). That places it may not
choose, or a unit not yet rehearsed, leave LOADING as it is is the model's choice (assumptions 103 and 159). -/
def Obligations.LoadingJudged : Prop :=
  ∀ (n : Nat) (rep : LoadReport) (low : List Play) (f : Forme) (s : State),
    low = (loadPlays s s.dev.load.sections).map (lowered s s.dev.load.sections) → f = buildForme s s.dev.load.sections low rep →
    (s.dev.st = .loading → s.dev.load.phase = .judge →
      (∀ cause detail sect evs, s.loadFailure rep = some (cause, detail, sect, evs) → Completes (.loadingComplete n rep) s fun t =>
        t.dev.st = .blank ∧ t.dev.cause = BitVec.ofNat 8 cause ∧ t.dev.detail = BitVec.ofNat 8 detail ∧ t.dev.sect = BitVec.ofNat 8 sect ∧
        t.forme = s.forme ∧ t.dev.digest = s.dev.digest ∧ t.mem = s.mem ∧ Newest t 0x0902 idSecurity cause ∧
        ∀ e ∈ evs, Logs s t e.1 e.2.1 e.2.2) ∧
      (s.loadFailure rep = none → reportOk s f rep = true → s.rehearsedAll = true → Completes (.loadingComplete n rep) s fun t =>
        t.dev.st = .standby ∧ t.forme = f ∧ t.forme.plays = low ∧ t.dev.digest = sub (s.colophonAt (u64 s.directory 16)) 16 64 ∧
        t.mem.l1 = rep.l1 ∧ t.mem.l2 = rep.l2 ∧ t.cue.standbyAt = (s.at n).now ∧ Newest t 0x0901 idSecurity 0) ∧
      (s.loadFailure rep = none → (reportOk s f rep = false ∨ s.rehearsedAll = false) → exec (.loadingComplete n rep) s = .next (s.at n))) ∧
    ((s.dev.st ≠ .loading ∨ s.dev.load.phase ≠ .judge) → exec (.loadingComplete n rep) s = .next (s.at n))

/-- FUSE_BURN_COMPLETE: the oldest burn under way completes and the fuses change as its command says (R401, R404, R410).
A part held in reset burns nothing.
FUSE_COMMAND: out of MAINTENANCE, with a bad record or turned away by a check it changes no fuse and its reply carries the reason; otherwise its burn is
queued and the fuses change when it completes (R403, R404, R410, R470). -/
def Obligations.FusesBurn : Prop :=
  (∀ (n : Nat) (s : State), s.chip.resetN = true → exec (.fuseBurnComplete n) s = .next (s.at n)) ∧
  (∀ (n : Nat) (s : State) (rest : List Burn), s.chip.resetN = false →
     (s.fuses.burns = .lock :: rest → exec (.fuseBurnComplete n) s =
       .next { s.at n with fuses := { s.fuses with debugLock := true, burns := rest } }) ∧
     (∀ v, s.fuses.burns = .advance v :: rest → exec (.fuseBurnComplete n) s =
       .next { s.at n with fuses := { s.fuses with rollback := max s.fuses.rollback v, burns := rest } }) ∧
     (∀ k, s.fuses.burns = .revoke k :: rest → Completes (.fuseBurnComplete n) s fun t =>
       t.fuses.slots.get k = { s.fuses.slots.get k with revoked := true } ∧ (∀ j, j ≠ k → t.fuses.slots.get j = s.fuses.slots.get j) ∧
       t.fuses.burns = rest ∧ t.fuses.rollback = s.fuses.rollback ∧ t.fuses.debugLock = s.fuses.debugLock) ∧
     (∀ k d, s.fuses.burns = .enroll k d :: rest → Completes (.fuseBurnComplete n) s fun t =>
       t.fuses.slots.get k = { s.fuses.slots.get k with digest := d, enrolled := true } ∧
       (∀ j, j ≠ k → t.fuses.slots.get j = s.fuses.slots.get j) ∧
       t.fuses.burns = rest ∧ t.fuses.rollback = s.fuses.rollback ∧ t.fuses.debugLock = s.fuses.debugLock) ∧
     (s.fuses.burns = [] → exec (.fuseBurnComplete n) s = .next (s.at n))) ∧
  ∀ (n : Nat) (m : Msg) (s : State),
    (s.head? (fun x => x = 0x0025) = none → exec (.fuseCommand n) s = .next (s.at n)) ∧
    (s.head? (fun x => x = 0x0025) = some m →
      (s.versionOk m = false → Completes (.fuseCommand n) s fun t => Replies s t m m.session stVersion [0] ∧ t.fuses = s.fuses) ∧
      (s.versionOk m = true → s.dev.st ≠ .maintenance → Completes (.fuseCommand n) s fun t =>
        Replies s t m m.session stState [0] ∧ t.fuses = s.fuses) ∧
      (s.versionOk m = true → s.dev.st = .maintenance → fuseFields m.payload = false → Completes (.fuseCommand n) s fun t =>
        Replies s t m m.session stInvalid [0] ∧ t.fuses = s.fuses) ∧
      (s.versionOk m = true → s.dev.st = .maintenance → fuseFields m.payload = true →
        (∀ r, judgeFuse s m.payload = (r, none) → Completes (.fuseCommand n) s fun t =>
          Replies s t m m.session stFuse (natLe 1 r) ∧ t.fuses = s.fuses) ∧
        (∀ r b, judgeFuse s m.payload = (r, some b) → Completes (.fuseCommand n) s fun t =>
          Replies s t m m.session stOk [0] ∧ t.fuses = { s.fuses with burns := s.fuses.burns ++ [b] })))

/-- The JTAG commands on a powered part: BYPASS, IDCODE and SAMPLE/PRELOAD in every state, EXTEST in RESET, BLANK and MAINTENANCE and as
BYPASS elsewhere; a debug instruction acts as BYPASS with the debug lock set or outside BLANK and MAINTENANCE, and is refused where the
manual has it act without saying how; TRST_N resets the port; an unpowered part does nothing, and one held in reset runs no instruction (R412, R455). -/
def Obligations.TestPort : Prop :=
  ∀ (n code : Nat) (cells : List Byte) (s : State),
    (s.chip.powered = true → s.chip.resetN = false →
      exec (.jtagBypass n) s = .next { s.at n with chip := { s.chip with tap := .bypass, tdo := [0] } } ∧
      exec (.jtagIdcode n) s = .next { s.at n with chip := { s.chip with
        tap := .idcode, tdo := natLe 4 (Config.idcode s.ident.minor.toNat).toNat } } ∧
      Completes (.jtagSamplePreload n cells) s (fun t => t.chip.tap = .sample ∧ t.chip.scan = cells ∧ t.chip.tdo.length = cells.length) ∧
      ((s.dev.st = .reset ∨ s.dev.st = .blank ∨ s.dev.st = .maintenance) → Completes (.jtagExtest n) s fun t =>
        t.chip.tap = .extest ∧ t.chip.scan = s.chip.scan ∧ t.chip.tdo.length = s.chip.scan.length ∧ t.extestDrives = true) ∧
      (¬ (s.dev.st = .reset ∨ s.dev.st = .blank ∨ s.dev.st = .maintenance) →
        exec (.jtagExtest n) s = .next { s.at n with chip := { s.chip with tap := .bypass, tdo := [0] } }) ∧
      ((s.fuses.debugLock = true ∨ (s.dev.st ≠ .blank ∧ s.dev.st ≠ .maintenance)) → exec (.jtagDebugInstruction n code) s =
        .next { s.at n with chip := { s.chip with tap := .bypass, tdo := [0] } }) ∧
      (s.fuses.debugLock = false → (s.dev.st = .blank ∨ s.dev.st = .maintenance) →
        exec (.jtagDebugInstruction n code) s = .refused .debugEffectUnspecified)) ∧
    (s.chip.powered = true →
      exec (.trstNAssert n) s = .next { s.at n with chip := { s.chip with tap := .idcode, tdo := [], scan := [] } }) ∧
    ((s.chip.powered = false ∨ s.chip.resetN = true) → ∀ c, c ∈ [Instr.jtagBypass n, .jtagIdcode n, .jtagSamplePreload n cells,
      .jtagExtest n, .jtagDebugInstruction n code] → exec c s = .next (s.at n)) ∧
    (s.chip.powered = false → exec (.trstNAssert n) s = .next (s.at n))

/-- A lost PLL and a rail out of range, out of RESET, are device-level faults with cause 6: the event, FAULT_N, HF_IRQ.DEVFAULT, the curtain stopped (R368,
R445, R460); BLANK, LOADING and MAINTENANCE enter SAFE_HOLD at once (R26); in RESET they change nothing (R23). -/
def Obligations.ClockAndSupplyFaults : Prop :=
  ∀ (n : Nat) (pll : Fin 7) (rail : Fin 12) (s : State),
    (s.dev.st ≠ .reset → Completes (.pllLockLost n pll) s fun t => pll ∈ t.chip.pllLost ∧ t.chip.railsOut = s.chip.railsOut ∧
      Logs s t 0x0B03 idGovernor pll.1 ∧ Logs s t 0x0801 idGovernor 6 ∧ t.dev.faultN = true ∧ t.cur.running = false ∧ t.cur.latch = true ∧
      (s.dev.faultN = false → t.dev.faultCause = 6 ∧ t.dev.faultUnit = idGovernor ∧ t.port.irq.getLsbD 5 = true) ∧
      ((s.dev.st = .blank ∨ s.dev.st = .loading ∨ s.dev.st = .maintenance) → t.dev.st = .safeHold ∧ t.dev.bare = true ∧ t.cur.cause = 0x13)) ∧
    (s.dev.st ≠ .reset → Completes (.supplyOutOfRange n rail) s fun t => rail ∈ t.chip.railsOut ∧ t.chip.pllLost = s.chip.pllLost ∧
      Logs s t 0x0B07 idGovernor rail.1 ∧ Logs s t 0x0801 idGovernor 6 ∧ t.dev.faultN = true ∧ t.cur.running = false ∧ t.cur.latch = true ∧
      (s.dev.faultN = false → t.dev.faultCause = 6 ∧ t.dev.faultUnit = idGovernor ∧ t.port.irq.getLsbD 5 = true) ∧
      ((s.dev.st = .blank ∨ s.dev.st = .loading ∨ s.dev.st = .maintenance) → t.dev.st = .safeHold ∧ t.dev.bare = true ∧ t.cur.cause = 0x13)) ∧
    (s.dev.st = .reset → exec (.pllLockLost n pll) s = .next (s.at n) ∧ exec (.supplyOutOfRange n rail) s = .next (s.at n))

/-! ### The cue -/

/-- Outside a reset the event log only grows: each new record stands in front, and takes the next house sequence number (R311, R373). -/
def Obligations.EventLogOnlyGrows : Prop :=
  ∀ (c : Instr) (s t : State), mayReset c = false → exec c s = .next t → ∃ new, LogGrows s t new

/-- CUE_IN_EDGE of a running cue generator with an external cue, levels of at least 1 µs around it, `b` the edge's stamp to 10 ns: an edge
from B + 0.98 P to B + 1.02 P is the next boundary with source 0, and the first edge of all within 2 P of STANDBY is; while the external cue is lost one before B + P is; an
earlier edge is a cue fault with event 0x0101, and CUE_IN is ignored; every other edge changes nothing (R33 to R36, R38). -/
def Obligations.CueInEdges : Prop :=
  ∀ (n low high b : Nat) (obs : BoundaryObs) (s : State), b = (s.at n).now / 4 * 4 →
    (s.generating = true → s.forme.source = 1 → us 1 ≤ low → us 1 ≤ high →
      (s.cue.count = 0 → b < s.cue.standbyAt + 800 * s.forme.period →
        Completes (.cueInEdge n low high obs) s fun t => BeginsCue s t b 0) ∧
      (s.cue.count = 0 → s.cue.standbyAt + 800 * s.forme.period ≤ b → exec (.cueInEdge n low high obs) s = .next (s.at n)) ∧
      (s.cue.count ≠ 0 → s.cue.ignore = false → s.cue.extLost = false → 392 * s.forme.period ≤ b - s.cue.b →
        b - s.cue.b ≤ 408 * s.forme.period → Completes (.cueInEdge n low high obs) s fun t => BeginsCue s t b 0) ∧
      (s.cue.count ≠ 0 → s.cue.ignore = false → s.cue.extLost = true → 392 * s.forme.period ≤ b - s.cue.b →
        b - s.cue.b < 400 * s.forme.period → Completes (.cueInEdge n low high obs) s fun t =>
          BeginsCue s t b 0 ∧ Logs s t 0x0104 idTime 0) ∧
      (s.cue.count ≠ 0 → s.cue.ignore = false → b - s.cue.b < 392 * s.forme.period →
        Completes (.cueInEdge n low high obs) s fun t => t.cue.ignore = true ∧ t.cue.count = s.cue.count ∧
          FaultsCue s t 0x0101 (min 255 ((392 * s.forme.period - (b - s.cue.b)) * 10 / (4 * s.forme.period)))) ∧
      (s.cue.count ≠ 0 → (s.cue.ignore = true ∨ (s.cue.extLost = false ∧ 408 * s.forme.period < b - s.cue.b) ∨
          (s.cue.extLost = true ∧ 400 * s.forme.period ≤ b - s.cue.b ∧ 392 * s.forme.period ≤ b - s.cue.b)) →
        exec (.cueInEdge n low high obs) s = .next (s.at n))) ∧
    ((s.generating = false ∨ s.forme.source ≠ 1 ∨ low < us 1 ∨ high < us 1) →
      exec (.cueInEdge n low high obs) s = .next (s.at n))

/-- CUE_IN_MISSING with an external cue: after 1.02 P without an edge the boundary is placed there with source 3 and event 0x0102 logs
the cue fault; while the external cue is lost it is placed at B + P; without a first edge within 2 P of STANDBY it is placed there with event 0x0105
(R34, R35, R38).
INTERNAL_CUE_BOUNDARY: the fallback at B + P after an early edge with source 2, the free period P from its last boundary or from STANDBY with
source 1, and PTP-aligned time with source 1, which starts at the first grid point from STANDBY on and changes a cue by at most 0.05 % of P (R34, R37, R38); neither acts for the other's cue source. -/
def Obligations.BoundariesWithoutEdges : Prop :=
  (∀ (n : Nat) (obs : BoundaryObs) (s : State), s.generating = true → s.forme.source = 1 → s.cue.ignore = false →
     (s.cue.count = 0 → s.cue.standbyAt + 800 * s.forme.period ≤ (s.at n).now → Completes (.cueInMissing n obs) s fun t =>
       BeginsCue s t (s.cue.standbyAt + 800 * s.forme.period) 3 ∧ Logs s t 0x0105 idTime 0) ∧
     (s.cue.count ≠ 0 → s.cue.extLost = true → s.cue.b + 400 * s.forme.period ≤ (s.at n).now →
       Completes (.cueInMissing n obs) s fun t => BeginsCue s t (s.cue.b + 400 * s.forme.period) 3) ∧
     (s.cue.count ≠ 0 → s.cue.extLost = false → s.cue.b + 408 * s.forme.period ≤ (s.at n).now →
       Completes (.cueInMissing n obs) s fun t => BeginsCue s t (s.cue.b + 408 * s.forme.period) 3 ∧
         Logs s t 0x0102 idTime 0)) ∧
  (∀ (n : Nat) (obs : BoundaryObs) (s : State), (s.generating = false ∨ s.forme.source ≠ 1 ∨ s.cue.ignore = true) →
    exec (.cueInMissing n obs) s = .next (s.at n)) ∧
  (∀ (n : Nat) (obs : BoundaryObs) (s : State), (s.generating = false ∨ (s.forme.source = 1 ∧ s.cue.ignore = false)) →
    exec (.internalCueBoundary n obs) s = .next (s.at n)) ∧
  ∀ (n : Nat) (obs : BoundaryObs) (s : State), s.generating = true →
    (s.forme.source = 1 → s.cue.ignore = true → s.cue.b + 400 * s.forme.period ≤ (s.at n).now →
      Completes (.internalCueBoundary n obs) s fun t => BeginsCue s t (s.cue.b + 400 * s.forme.period) 2) ∧
    (s.forme.source = 2 → s.cue.count = 0 → s.cue.standbyAt ≤ (s.at n).now →
      Completes (.internalCueBoundary n obs) s fun t => BeginsCue s t s.cue.standbyAt 1) ∧
    (s.forme.source = 2 → s.cue.count ≠ 0 → s.cue.b + 400 * s.forme.period ≤ (s.at n).now →
      Completes (.internalCueBoundary n obs) s fun t => BeginsCue s t (s.cue.b + 400 * s.forme.period) 1) ∧
    (s.forme.source = 3 → s.cue.count ≠ 0 → alignedNext s ≤ (s.at n).now →
      Completes (.internalCueBoundary n obs) s fun t => BeginsCue s t (alignedNext s) 1 ∧
        (((t.cue.b : Int) - (s.cue.b + 400 * s.forme.period : Nat)).natAbs ≤ 400 * s.forme.period / 2000)) ∧
    (s.forme.source = 3 → s.cue.count = 0 → alignedFirst s ≤ (s.at n).now →
      Completes (.internalCueBoundary n obs) s fun t => BeginsCue s t (alignedFirst s) 1)

/-- INGEST_CUTOFF, once in a running cue from its offset on: the batch of the cue closes with its 32 slot records and becomes the newest of
four, and MARK becomes 2; in a cue that is judged every required slot without a sample logs event 0x0250, and the first stops the curtain (R78, R80, R83, R84). -/
def Obligations.IngestCutoffs : Prop :=
  ∀ (n : Nat) (s : State), s.cue.running = true → us s.forme.sheet.cutoff ≤ (s.at n).off → s.cue.mark.toNat < 2 →
    Completes (.ingestCutoff n) s fun t => t.cue.mark = 2 ∧
      (∃ b, t.ing.batches = (b :: s.ing.batches).take 4 ∧ b.cue = s.cue.count.toNat ∧ b.stamp = s.cue.stampPrev ∧
        b.mask = t.cue.slotMask ∧ b.slots = (List.finRange 32).map fun k => slotRec (s.at n) k) ∧
      (s.judged = true → (∀ k ∈ t.missing, Logs s t 0x0250 (((s.forme.streams.getD k none).map fun c => unitId c.unit).getD 0xFF#8) k) ∧
        (t.missing ≠ [] → Stopped t ∧ (s.cue.published = false → t.cue.invalid = true))) ∧
      ((s.judged = false ∨ t.missing = []) → t.cur = s.cur ∧ t.log = s.log)

/-- COMPARISON_START marks the comparison's start and changes nothing else; LMIN_MARK sets the last mark of the cue and suspends the understudy memory's
slice; out of their conditions they change nothing but the clock (R40, R41, R48, R472).
WINDOW_START of a running cue: every run on the window's units but the window's own safety scenes is killed, and the cue, the curtain, the sessions
and the committed values stay; no rehearsal slice that began before the window stays on a unit in service that the window takes: its safety presses, the cores, or
in the reserve the presses and cores whose part of it has begun (R41, R46, R48, R303, R362). -/
def Obligations.MarksAndWindowStarts : Prop :=
  (∀ (n : Nat) (s : State),
     (s.cue.running = true → (s.cue.stateAtB = .running ∨ s.cue.stateAtB = .degraded) → s.cue.late = false → s.slotsFailed = false →
       s.cue.compStarted = false → us s.forme.sheet.compStart ≤ (s.at n).off →
       exec (.comparisonStart n) s = .next { s.at n with cue := { s.cue with compStarted := true } }) ∧
     ((s.cue.running = false ∨ ¬(s.cue.stateAtB = .running ∨ s.cue.stateAtB = .degraded) ∨ s.cue.late = true ∨ s.slotsFailed = true ∨
         s.cue.compStarted = true ∨ (s.at n).off < us s.forme.sheet.compStart) → exec (.comparisonStart n) s = .next (s.at n)) ∧
     (s.cue.running = true → us s.lminUs ≤ (s.at n).off →
       Completes (.lminMark n) s fun t => t.cue = { s.cue with mark := 6 } ∧ t.sched.insts = s.sched.insts ∧
         (s.inServ .umem = true → ∀ x ∈ t.sched.slices, x.unit = .unit .umem → (s.at n).now ≤ x.at_) ∧
         ∀ x ∈ s.sched.slices, x.unit ≠ .unit .umem → x ∈ t.sched.slices) ∧
     ((s.cue.running = false ∨ (s.at n).off < us s.lminUs) → exec (.lminMark n) s = .next (s.at n)) ∧
     (s.cue.running = false → ∀ w, exec (.windowStart n w) s = .next (s.at n)) ∧
     ((s.at n).off < us s.forme.sheet.perStart → exec (.windowStart n .perception) s = .next (s.at n)) ∧
     ((s.at n).off < us s.forme.sheet.undStart → exec (.windowStart n .understudy) s = .next (s.at n))) ∧
  ∀ (n : Nat) (w : Window) (s : State), s.cue.running = true →
    (w = .perception → us s.forme.sheet.perStart ≤ (s.at n).off) → (w = .understudy → us s.forme.sheet.undStart ≤ (s.at n).off) →
    Completes (.windowStart n w) s fun t => t.cue = s.cue ∧ t.cur = s.cur ∧ t.cog = s.cog ∧
      t.sched.values = s.sched.values ∧
      (∀ x ∈ t.sched.slices, (∀ p : Fin 16, x.unit = .unit (.press p) → t.inServ (.press p) = true →
          (w = .perception → s.isSafetyPress p = true → s.cue.b + us s.forme.sheet.perStart ≤ x.at_) ∧
          (w = .reserve → us (s.lminUs - s.forme.rehPress) ≤ (s.at n).off → s.cue.b + us (s.lminUs - s.forme.rehPress) ≤ x.at_)) ∧
        ∀ k : Fin 4, x.unit = .unit (.core k) → t.inServ (.core k) = true →
          (w = .understudy → s.cue.b + us s.forme.sheet.undStart ≤ x.at_) ∧
          (w = .reserve → us (s.lminUs - s.forme.rehCore) ≤ (s.at n).off → s.cue.b + us (s.lminUs - s.forme.rehCore) ≤ x.at_)) ∧
      (∀ x ∈ s.sched.insts, x.st = .running → s.inst? x.key = some x →
        (match w with
          | .perception => x.displaced 0 && x.presses.any fun p => s.isSafetyPress p
          | .understudy => x.displaced 1 && allCores.any fun k => x.on (.core k)
          | .reserve => (decide (us (s.lminUs - s.forme.rehPress) ≤ (s.at n).off) && decide (x.presses ≠ [])) ||
              (decide (us (s.lminUs - s.forme.rehCore) ≤ (s.at n).off) && allCores.any fun k => x.on (.core k))) = true →
        ∀ y ∈ t.sched.insts, y.key = x.key → y.st = .killed ∧ y.units = [] ∧ y.bufs = [] ∧ y.wasKilled = true)

/-- WINDOW_END in a running cue: the windows that end are marked, the first one that finds its safety scenes uncommitted makes the cue late,
once, with event 0x0110 and the curtain stopped, and MARK becomes 3 when both have ended (R40, R51, R472); where no window ends nothing changes. -/
def Obligations.WindowEndsJudgeLateness : Prop :=
  (∀ (n : Nat) (w : WindowEnds) (s : State) (per und late : Bool),
    per = (decide (w ≠ .understudy) && !s.cue.perEnded && decide (us s.forme.sheet.perEnd ≤ (s.at n).off)) →
    und = (decide (w ≠ .perception) && !s.cue.undEnded && decide (us s.forme.sheet.undEnd ≤ (s.at n).off)) →
    s.cue.running = true → (per || und) = true →
    late = (((per && s.uncommitted 0) || (und && s.uncommitted 1)) && !s.cue.late && !s.slotsFailed) →
    Completes (.windowEnd n w) s fun t => t.cue.perEnded = (s.cue.perEnded || per) ∧ t.cue.undEnded = (s.cue.undEnded || und) ∧
      (t.cue.perEnded = true → t.cue.undEnded = true → t.cue.mark = 3) ∧ t.cue.late = (s.cue.late || late) ∧
      (late = true → t.cue.lateCount = (sat32 s.cue.lateCount 1).1 ∧ t.cue.lateSeen = true ∧ Stopped t ∧
        Logs s t 0x0110 idStage (if (per && s.uncommitted 0) && (und && s.uncommitted 1) then 2 else if und && s.uncommitted 1 then 1 else 0) ∧
        (s.cue.published = false → t.cue.invalid = true)) ∧
      (late = false → t.cue.lateCount = s.cue.lateCount ∧ t.log = s.log ∧ t.cur.running = s.cur.running ∧ t.cur.latch = s.cur.latch)) ∧
  ∀ (n : Nat) (w : WindowEnds) (s : State), (s.cue.running = false ∨
      ((w = .understudy ∨ s.cue.perEnded = true ∨ (s.at n).off < us s.forme.sheet.perEnd) ∧
        (w = .perception ∨ s.cue.undEnded = true ∨ (s.at n).off < us s.forme.sheet.undEnd))) → exec (.windowEnd n w) s = .next (s.at n)

/-- COMPARATOR_VERDICT of a comparison under way: OK drives the pair and nothing else; a failing rule logs event 0x0703 with it, stops the
curtain and is classified; an operand that failed to arrive, or whose block is poisoned, stops the curtain. A pair that reads (1,1) at any time of a running cue logs
event 0x0704, sets RAIL_FAULT and stops the curtain; what else it reports without a comparison, or without a running cue, changes nothing (R329, R331, R332, R335, R340,
R474).
CLASSIFICATION_REPEAT_VERDICT once every repeat of the mismatch's cue has committed: no failing rule ends the classification with event 0x0706, a
failing one goes on to the next proof pass with its rule, a faulty pair sets RAIL_FAULT with event 0x0704, and until then nothing changes (R341, R342). -/
def Obligations.VerdictsOfComparator : Prop :=
  (∀ (n : Nat) (s : State), s.cue.running = true → s.cue.compStarted = true → s.cue.compDone = false → s.cue.late = false →
     (operandLost s s.cue.count.toNat false = false → firstFailing s s.cue.count.toNat false = none → exec (.comparatorVerdict n none) s =
       .next { s.at n with cue := { s.cue with compDone := true, mark := 4 }, cur := { s.cur with verdict := .good } }) ∧
     (∀ k, operandLost s s.cue.count.toNat false = false → firstFailing s s.cue.count.toNat false = some k → Completes (.comparatorVerdict n none) s fun t =>
       t.cue.compDone = true ∧ t.cue.mark = 4 ∧ t.cur.verdict = .bad ∧ Stopped t ∧ Logs s t 0x0703 idCurtain k ∧
       (s.cur.running = true → t.cur.cause = 2 ∧ t.cur.cls = 1 ∧ t.cur.rule = BitVec.ofNat 8 k ∧ Logs s t 0x0701 idCurtain 2) ∧
       (s.cur.running = false → t.cur.cause = s.cur.cause ∧ t.cur.rule = s.cur.rule) ∧ t.cls.length = s.cls.length + 1) ∧
     (∀ f, f = some .input ∨ (f = none ∧ operandLost s s.cue.count.toNat false = true) → Completes (.comparatorVerdict n f) s fun t =>
       t.cue.compDone = true ∧ Stopped t ∧ t.cls = s.cls ∧ (s.cue.published = false → t.cue.invalid = true))) ∧
  (∀ (n : Nat) (s : State),
     (s.cue.running = true →
       (Completes (.comparatorVerdict n (some .pair)) s fun t => t.cue.compDone = (s.cue.compDone || s.comparing) ∧ t.cur.verdict = .fault ∧
         t.cur.railFault = true ∧ Detected s t ∧ Logs s t 0x0704 idCurtain 0) ∧
       (Completes (.comparatorVerdict n (some .complete)) s fun t => t.cur.complete = .fault ∧ t.cur.railFault = true ∧ Detected s t ∧
         Logs s t 0x0704 idStage 2) ∧
       (s.comparing = false → ∀ f, f = none ∨ f = some .input → exec (.comparatorVerdict n f) s = .next (s.at n))) ∧
     (s.cue.running = false → ∀ f, exec (.comparatorVerdict n f) s = .next (s.at n))) ∧
  ∀ (n : Nat) (c : Classif) (reps : List Inst) (s : State), s.cls.find? (fun c => !c.proofStep) = some c →
    reps = (s.sched.insts.filter fun i => i.key.rep && decide (i.key.run = c.cue)) →
    (reps ≠ [] → (∀ i ∈ reps, i.st = .committed) →
      (operandLost s c.cue true = false → firstFailing (s.at n) c.cue true = none → Completes (.classificationRepeatVerdict n none) s fun t =>
        (∀ x ∈ t.cls, x.cue ≠ c.cue) ∧ (∀ i ∈ t.sched.insts, ¬(i.key.rep = true ∧ i.key.run = c.cue)) ∧
        ∃ u d, Logs s t 0x0706 u d ∧ d ≤ 2) ∧
      (∀ k, operandLost s c.cue true = false → firstFailing (s.at n) c.cue true = some k → exec (.classificationRepeatVerdict n none) s =
        .next { s.at n with cls := lmod (fun x => x.cue = c.cue) (fun x => { x with proofStep := true, rule2 := k }) s.cls }) ∧
      (Completes (.classificationRepeatVerdict n (some .pair)) s fun t => t.cur.railFault = true ∧ Logs s t 0x0704 idCurtain 0 ∧ t.cls = s.cls) ∧
      ∀ f, f = some .input ∨ f = some .complete ∨ (f = none ∧ operandLost s c.cue true = true) → exec (.classificationRepeatVerdict n f) s = .next (s.at n)) ∧
    ((reps = [] ∨ ∃ i ∈ reps, i.st ≠ .committed) → ∀ f, exec (.classificationRepeatVerdict n f) s = .next (s.at n))

/-- PUBLISH_DEADLINE of a judged cue, once: the cue is published and MARK becomes 5; a cue that meets every condition keeps the curtain running or
restarts it with event 0x0702 unless its oscillator is out of range; any other cue is invalid and starts nothing, and a poisoned safety output
of the cue stops the curtain (R257); the publication is queued whole or skipped
whole with HF_SKIPPED and HF_IRQ.SKIPPED (R323, R324, R334, R336, R441, R442). -/
def Obligations.PublishDeadlines : Prop :=
  ∀ (n : Nat) (s : State), s.judged = true → s.cue.published = false → us s.forme.sheet.publish ≤ (s.at n).off →
    Completes (.publishDeadline n) s fun t => t.cue.published = true ∧ t.cue.mark = 5 ∧ t.cue.count = s.cue.count ∧
      ((t.port.skipped = s.port.skipped ∧ s.port.tx.length < t.port.tx.length) ∨
        (t.port.skipped = (sat32 s.port.skipped 1).1 ∧ t.port.irq.getLsbD 6 = true ∧ t.port.tx = s.port.tx)) ∧
      ((∃ v ∈ s.sched.values, s.safetyOut v.play v.tensor = true ∧ v.run = s.cue.count.toNat ∧ v.rep = false ∧
          (s.lostPart v 0 v.bytes.length).isSome = true) → Stopped t ∧ t.cue.invalid = true) ∧
      ((s.at n).cueValid = true → s.cue.compDone = true → (∀ v ∈ s.sched.values, s.safetyOut v.play v.tensor = true →
          v.run = s.cue.count.toNat → v.rep = false → s.lostPart v 0 v.bytes.length = none) →
        t.cue.invalid = false ∧ t.cur.running = (s.cur.running || !s.cur.oscOut) ∧
        (s.cur.running = false → s.cur.oscOut = false → t.cur.runCues = 1 ∧ t.cur.startedAt = (s.at n).now ∧ Logs s t 0x0702 idCurtain 0) ∧
        (s.cur.running = true → t.cur.runCues = sat16 s.cur.runCues)) ∧
      ((s.at n).cueValid = false → t.cue.invalid = true ∧ (s.cur.running = false → t.cur.running = false)) ∧
      ((s.cue.stateAtB = .running ∨ s.cue.stateAtB = .degraded) → s.cue.compDone = false → s.cue.late = false → s.slotsFailed = false →
        t.cue.late = true ∧ Logs s t 0x0111 idCurtain 0 ∧ Stopped t)

/-! ### Units, rehearsals, re-rigs, the proof pass -/

/-- UNIT_GROUP_RESET of a struck or retired unit, once its trackers are free or 45 µs have passed, and RE_RIG_WAIT_EXPIRY 1,000 cues after a
failed attempt: the unit's group is reset alone, which for a press clears its requests, caches and work; contents of memories and every other unit and press
stay; a unit that is neither is left alone (R360, R362, R456). -/
def Obligations.GroupResets : Prop :=
  (∀ (n : Nat) (u : UnitId) (s : State) (c : Instr),
    (c = .unitGroupReset n u ∧ ((s.unit u).mode = .struck ∨ (s.unit u).mode = .retired) ∧ (s.unit u).wasReset = false ∧
        (s.unit u).attempts = 0 ∧ (s.holds u = false ∨ (s.unit u).struckAt + us 45 ≤ (s.at n).now)) ∨
      (c = .reRigWaitExpiry n u ∧ (s.unit u).mode = .struck ∧ (s.unit u).attempts ≠ 0 ∧
        (s.unit u).waitFrom + 1000 ≤ s.cue.count.toNat) →
    Completes c s fun t => t.unit u = { s.unit u with wasReset := true } ∧ (∀ v, v ≠ u → t.unit v = s.unit v) ∧
      t.mem.cells = s.mem.cells ∧ t.holds u = (match u with
        | .press _ => false
        | .stack _ => false
        | _ => s.holds u) ∧
      (∀ p, u = .press p → t.press.get p = { Press.atReset with trace := (s.press.get p).trace, traced := (s.press.get p).traced } ∧
        t.mem.split.get p = 8192 ∧ ∀ e ∈ t.mem.tcache, e.1 ≠ p) ∧
      ∀ q, u ≠ .press q → t.press.get q = s.press.get q) ∧
  ∀ (n : Nat) (u : UnitId) (s : State),
    (((s.unit u).mode ≠ .struck ∧ (s.unit u).mode ≠ .retired) ∨ (s.unit u).wasReset = true ∨ (s.unit u).attempts ≠ 0 ∨
      (s.holds u = true ∧ (s.at n).now < (s.unit u).struckAt + us 45) → exec (.unitGroupReset n u) s = .next (s.at n)) ∧
    ((s.unit u).mode ≠ .struck ∨ (s.unit u).attempts = 0 ∨ s.cue.count.toNat < (s.unit u).waitFrom + 1000 →
      exec (.reRigWaitExpiry n u) s = .next (s.at n))

/-- RE_RIG_ATTEMPT begins the checks of a struck unit whose group was reset, with event 0x0803 and the attempt's number; while FAULT_N is asserted none
starts (R362, R363, R368).
RE_RIG_CHECK_RESULT of the check at hand, and PORT_RERIG_SAMPLE_TIMEOUT once a stream's 4 nominal periods have passed: a passed check makes way for the next one and the
last places the re-rig with event 0x0804, the unit still out of service; a failed one ends the attempt with event 0x0805, and the fourth retires the unit with event
0x0806; a check that is not at hand, a sector's proof check and a port's samples, which other commands settle, change nothing (R362, R363, R365, R376). -/
def Obligations.ReRigAttemptsAndChecks : Prop :=
  (∀ (n : Nat) (u : UnitId) (s : State),
     ((s.unit u).mode = .struck → (s.unit u).wasReset = true → s.dev.faultN = false → Completes (.reRigAttempt n u) s fun t =>
       t.unit u = { s.unit u with mode := .reRigging, checks := rigChecks u, placed := false } ∧ (∀ v, v ≠ u → t.unit v = s.unit v) ∧
       Newest t 0x0803 (unitId u) ((s.unit u).attempts.toNat + 1)) ∧
     ((s.unit u).mode ≠ .struck ∨ (s.unit u).wasReset = false ∨ s.dev.faultN = true → exec (.reRigAttempt n u) s = .next (s.at n))) ∧
  (∀ (n : Nat) (u : UnitId) (check : RigCheck) (rest : List RigCheck) (s : State),
    (s.unit u).mode = .reRigging → (s.unit u).checks = check :: rest →
    ((∀ p, u = .port p → s.declares p = true ∧ check ≠ .third) → (∀ m, u = .sector m → check ≠ .proof) → Completes (.reRigCheckResult n u check true) s fun t =>
      (t.unit u).mode = .reRigging ∧ (t.unit u).checks = rest ∧ (check = .rehearsal → (t.unit u).age = 0) ∧
      (rest = [] → (t.unit u).placed = true ∧ Newest t 0x0804 (unitId u) 0) ∧ (rest ≠ [] → t.log = s.log)) ∧
    (∀ p, u = .port p → s.declares p = false → check ≠ .third → Completes (.reRigCheckResult n u check true) s fun t =>
      (t.unit u).mode = .reRigging ∧ (t.unit u).checks = [] ∧ (t.unit u).placed = true ∧ Newest t 0x0804 (unitId u) 0) ∧
    (∀ c detail, (c = .reRigCheckResult n u check false ∧ detail = rigDetail check ∧ (∀ p, u = .port p → check ≠ .third) ∧
          ∀ m, u = .sector m → check ≠ .proof) ∨
        (∃ p, u = .port p ∧ check = .third ∧ (s.at n).sampleLate p = true ∧ c = .portRerigSampleTimeout n p ∧ detail = 2) →
      Completes c s fun t => Logs s t 0x0805 (unitId u) detail ∧ (t.unit u).attempts = BitVec.ofNat 3 ((s.unit u).attempts.toNat + 1) ∧
        (t.unit u).mode = (if 4 ≤ (s.unit u).attempts.toNat + 1 then .retired else .struck) ∧ (t.unit u).waitFrom = s.cue.count.toNat ∧
        (4 ≤ (s.unit u).attempts.toNat + 1 → Newest t 0x0806 (unitId u) 0) ∧ ∀ v, v ≠ u → t.unit v = s.unit v)) ∧
  (∀ (n : Nat) (u : UnitId) (check : RigCheck) (ok : Bool) (s : State),
    ((∃ p, u = .port p ∧ check = .third) ∨ ∃ m, u = .sector m ∧ check = .proof) → exec (.reRigCheckResult n u check ok) s = .next (s.at n)) ∧
  (∀ (n : Nat) (p : Fin 20) (s : State), (s.at n).sampleLate p = false → exec (.portRerigSampleTimeout n p) s = .next (s.at n)) ∧
  ∀ (n : Nat) (u : UnitId) (check : RigCheck) (ok : Bool) (s : State),
    ((s.unit u).mode ≠ .reRigging ∨ (s.unit u).checks.head? ≠ some check) → exec (.reRigCheckResult n u check ok) s = .next (s.at n) ∧
      ∀ p, u = .port p → check = .third → exec (.portRerigSampleTimeout n p) s = .next (s.at n)

/-- REHEARSAL_SUSPEND_REQUEST, when a reserved window of the unit begins within 10 µs, asks its slice to suspend and changes nothing else;
REHEARSAL_SLICE_END ends the slice: a checkpoint counts the slice's time, a complete rehearsal restarts the unit's age or passes the check of its re-rig, a failed one
strikes a unit in service with cause 6 after event 0x0807, fails the attempt of a re-rigging one, strikes the ports that a cluster or the decoder serves, and
is a device-level fault for a control unit; a slice of a port, a cluster or the decoder past 3.5 µs counts nothing (R48, R50, R362, R366, R367, R369, R471). -/
def Obligations.RehearsalSlices : Prop :=
  ∀ (n : Nat) (s : State),
    (∀ u, (s.at n).windowDue u = true → exec (.rehearsalSuspendRequest n u) s = .next { s.at n with sched := { s.sched with
      slices := s.sched.slices.map fun x => if x.unit = u then { x with suspending := true } else x } }) ∧
    (∀ u, (s.at n).windowDue u = false → exec (.rehearsalSuspendRequest n u) s = .next (s.at n)) ∧
    (∀ u k x, s.sched.slices.find? (fun y => y.unit = u) = some x → briefSlices u = true → x.at_ + 1400 < (s.at n).now → ∀ ok complete,
      Completes (.rehearsalSliceEnd n u ok complete k) s fun t => (∀ x ∈ t.sched.slices, x.unit ≠ u) ∧ t.progress u = s.progress u ∧
        t.units = s.units ∧ t.log = s.log) ∧
    (∀ u k x w, s.sched.slices.find? (fun y => y.unit = u) = some x → (briefSlices u = false ∨ (s.at n).now ≤ x.at_ + 1400) →
      w = s.progress u + ((s.at n).now - x.at_) →
      (∀ complete, (complete = false ∨ w < s.idleRu u) → Completes (.rehearsalSliceEnd n u true complete k) s fun t =>
        (∀ x ∈ t.sched.slices, x.unit ≠ u) ∧ t.progress u = w ∧ t.units = s.units ∧ t.log = s.log) ∧
      (∀ v, u = .unit v → (s.unit v).mode ≠ .reRigging → s.idleRu u ≤ w → Completes (.rehearsalSliceEnd n u true true k) s fun t =>
        (∀ x ∈ t.sched.slices, x.unit ≠ u) ∧ t.progress u = 0 ∧ t.unit v = { s.unit v with age := 0, rehearsed := true }) ∧
      (∀ v, u = .unit v → (s.unit v).mode = .reRigging → (s.unit v).checks.head? = some .rehearsal → s.idleRu u ≤ w →
        Completes (.rehearsalSliceEnd n u true true k) s fun t => t.progress u = 0 ∧ (t.unit v).age = 0 ∧
          (t.unit v).mode = .reRigging ∧ (t.unit v).checks.length < (s.unit v).checks.length) ∧
      (∀ v, u = .unit v → (s.unit v).mode = .reRigging → Completes (.rehearsalSliceEnd n u false false k) s fun t =>
        Logs s t 0x0805 (unitId v) 1 ∧ (t.unit v).mode = (if 4 ≤ (s.unit v).attempts.toNat + 1 then .retired else .struck)) ∧
      (∀ v, u = .unit v → (s.unit v).mode ≠ .reRigging → s.inServ v = true → Completes (.rehearsalSliceEnd n u false false k) s fun t =>
        t.inServ v = false ∧ Logs s t 0x0807 (unitId v) (k % 256) ∧ Logs s t 0x0802 (unitId v) 6) ∧
      ((u = .decoder ∨ ∃ q, u = .cluster q) → Completes (.rehearsalSliceEnd n u false false k) s fun t =>
        Logs s t 0x0807 (rehId u) (k % 256) ∧ ∀ m ∈ s.served u, s.inServ (.port m) = true →
          t.inServ (.port m) = false ∧ Logs s t 0x0802 (unitId (.port m)) 6) ∧
      (∀ c, u = .ctl c → s.dev.st ≠ .reset → Completes (.rehearsalSliceEnd n u false false k) s fun t =>
        t.dev.faultN = true ∧ Stopped t ∧ Logs s t 0x0807 (rehId u) (k % 256) ∧ Logs s t 0x0801 (ctlId c) 5)) ∧
    (∀ u ok complete k, (∀ x ∈ s.sched.slices, x.unit ≠ u) → exec (.rehearsalSliceEnd n u ok complete k) s = .next (s.at n))

/-- PROOF_PASS_END and PROOF_RESERVATION_EXPIRY of a unit that runs its proof pass: without a failed self-check, and with a result image whose digest is the one that
the cue's vector expects, a pass is noted; a failed item, or a wrong digest, logs event 0x0705, strikes the unit, and stops the curtain when condition 4 names the unit;
a press's failed item 8 with sectors named waits until every press has reported, invalidates the cue for a safety sector, and a sector that failed for two is struck;
an expired reservation counts as item 11 after event 0x0112 (R53, R323, R337, R338, R387). Which item's part of the image is wrong the digest does not say: the model's
free value (entry 158). -/
def Obligations.ProofPasses : Prop :=
  (∀ (n : Nat) (u : ProofUnit) (obs : ProofObs) (failed : Option (Fin 11)) (s : State), s.proving (proofUnit u) = true →
    (failed = none → imageDigest 0x20000 obs.result = s.proofExpected (proofUnit u) → Completes (.proofPassEnd n u failed obs) s fun t =>
      (t.unit (proofUnit u)).proof = some true ∧ t.dev = s.dev) ∧
    (∀ item : Fin 11, (failed = some item ∨ (failed = none ∧ imageDigest 0x20000 obs.result ≠ s.proofExpected (proofUnit u) ∧
          item = (Config.proofItem (imageDigest 0x20000 obs.result)).succ)) →
        (item = 8 → obs.sectors = [] ∨ ∃ k, u = .core k) → Completes (.proofPassEnd n u failed obs) s fun t =>
      (t.unit (proofUnit u)).proof = some false ∧ t.inServ (proofUnit u) = false ∧ Logs s t 0x0705 (unitId (proofUnit u)) item.1 ∧
      (s.named (proofUnit u) = true → Stopped t ∧ (s.cue.published = false → t.cue.invalid = true))) ∧
    (∀ p w, (failed = some 8 ∨ (failed = none ∧ imageDigest 0x20000 obs.result ≠ s.proofExpected (proofUnit u) ∧
          (Config.proofItem (imageDigest 0x20000 obs.result)).succ = 8)) → u = .press p → obs.sectors ≠ [] →
        w = failSectors obs.sectors ((s.at n).modUnit (.press p) fun r => { r with proofFail := obs.sectors }) →
      (Completes (.proofPassEnd n u failed obs) s fun t => (∃ m ∈ obs.sectors, s.safetySector m = true) → s.cue.published = false →
        t.cue.invalid = true) ∧
      (w.pressesReported = false → Completes (.proofPassEnd n u failed obs) s fun t => (t.unit (.press p)).proof = none ∧
        (s.cls = [] → t.units = w.units) ∧ t.dev = s.dev) ∧
      (w.pressesReported = true → Completes (.proofPassEnd n u failed obs) s fun t => (t.unit (.press p)).proofFail = [] ∧
        ∀ m, w.sectorRig m = false → 2 ≤ (allPresses.filter fun q => w.inServ (.press q) && decide (m ∈ (w.unit (.press q)).proofFail)).length →
          Logs s t 0x0705 (unitId (.sector m)) 8 ∧ t.inServ (.sector m) = false)) ∧
    ((match u with
        | .press _ => us 40
        | .core _ => us 60) ≤ (s.at n).off → Completes (.proofReservationExpiry n u) s fun t =>
      (t.unit (proofUnit u)).proof = some false ∧ t.inServ (proofUnit u) = false ∧ Logs s t 0x0112 (unitId (proofUnit u)) 0 ∧
      Logs s t 0x0705 (unitId (proofUnit u)) 11 ∧
      (s.named (proofUnit u) = true → Stopped t ∧ (s.cue.published = false → t.cue.invalid = true))) ∧
    ((s.at n).off < (match u with
        | .press _ => us 40
        | .core _ => us 60) → exec (.proofReservationExpiry n u) s = .next (s.at n))) ∧
  ∀ (n : Nat) (u : ProofUnit) (s : State), s.proving (proofUnit u) = false →
    exec (.proofReservationExpiry n u) s = .next (s.at n) ∧ ∀ f obs, exec (.proofPassEnd n u f obs) s = .next (s.at n)

/-! ### Time sources, the governor, the regulators -/

/-- PTP_SYNC_TIMEOUT after 3 s without a Sync, which also ends the master's choice, and PPS_TIMEOUT after 1.5 s without an edge end a locked source with event 0x0B01
and its priority; otherwise they change nothing (R450).
PPS_EDGE out of RESET: the fourth edge in a row within 10 µs of a whole second locks the source; while PTP is locked the edge leaves the clock alone,
otherwise it measures TIME_OFFSET; PEER_DELAY_REQUEST is sent on the port of an IEEE 802.1AS master alone (R450, R451). -/
def Obligations.TimeSources : Prop :=
  (∀ (n : Nat) (s : State),
     (s.tb.ptpLocked = true → s.tb.lastSync + us 3000000 ≤ (s.at n).now → Completes (.ptpSyncTimeout n) s fun t =>
       t.tb = { s.tb with ptpLocked := false, ptpGood := 0, ptpBad := 0, ptpLost := true, master := none } ∧ Newest t 0x0B01 idTime 1 ∧
       (s.tb.ppsLocked = false → t.cue.ptpAligned = false)) ∧
     (s.tb.ppsLocked = true → s.tb.lastPps + us 1500000 ≤ (s.at n).now → Completes (.ppsTimeout n) s fun t =>
       t.tb = { s.tb with ppsLocked := false, ppsGood := 0, ppsLost := true } ∧ Newest t 0x0B01 idTime 2 ∧
       (s.tb.ptpLocked = false → t.cue.ptpAligned = false)) ∧
     (s.tb.ptpLocked = false → s.tb.lastSync + us 3000000 ≤ (s.at n).now → exec (.ptpSyncTimeout n) s =
       .next { s.at n with tb := { s.tb with master := none, ptpGood := 0, ptpBad := 0 } }) ∧
     ((s.at n).now < s.tb.lastSync + us 3000000 → exec (.ptpSyncTimeout n) s = .next (s.at n)) ∧
     ((s.tb.ppsLocked = false ∨ (s.at n).now < s.tb.lastPps + us 1500000) → exec (.ppsTimeout n) s = .next (s.at n))) ∧
  ∀ (n : Nat) (s : State),
    (s.dev.st ≠ .reset → Completes (.ppsEdge n) s fun t => t.tb.lastPps = (s.at n).now ∧
      t.tb.ppsGood = (if (fromSecond (s.at n).ns).natAbs ≤ 10000 then s.tb.ppsGood + 1 else 0) ∧
      t.tb.ppsLocked = (s.tb.ppsLocked || decide (4 ≤ t.tb.ppsGood)) ∧
      (s.tb.ptpLocked = true → t.tb.base = s.tb.base ∧ t.tb.anchor = s.tb.anchor ∧ t.tb.rate = s.tb.rate ∧ t.tb.offset = s.tb.offset) ∧
      (s.tb.ptpLocked = false → t.tb.offset = sat32i (fromSecond (s.at n).ns)) ∧
      (s.tb.ppsLocked = false → s.tb.ppsLost = true → 4 ≤ t.tb.ppsGood → Newest t 0x0B02 idTime 2)) ∧
    (∀ p : Fin 4, s.tb.profile = true → s.tb.master.map Prod.fst = some p.1 →
      exec (.peerDelayRequest n p) s = .next { s.at n with tb := { s.tb with pdelays := s.tb.pdelays + 1 } }) ∧
    (∀ p : Fin 4, (s.tb.profile = false ∨ s.tb.master.map Prod.fst ≠ some p.1) → exec (.peerDelayRequest n p) s = .next (s.at n))

/-- GOV_POWER_SAMPLE, CORE_CURRENT_LIMIT and AVS_CURRENT_READ: a sample adds to the cue's mean; the limit stops cognition admission once until the next
boundary with event 0x0B05; a read current steps VDD_CORE by at most 5 mV towards its setpoint, once in 10 µs, and three failed reads are retried (R461, R462, R464).
REGULATOR_TICK with a running forme: each cognition or kind-3 regulator adds the rate of the cue's memory mode up to its depth; its waiting requests stay while
the bucket is at 0 or below and the first passes from above it, and every other regulator stays; STACK_RETRAIN_DONE lets that stack's held requests proceed with their
20 µs anew (R239, R260, R280). -/
def Obligations.GovernorAndRegulators : Prop :=
  (∀ (n mw : Nat) (amp : W16) (s : State),
     (s.dev.st ≠ .reset →
       exec (.govPowerSample n mw) s = .next { s.at n with gov := { s.gov with sum := s.gov.sum + mw, num := s.gov.num + 1 } } ∧
       (s.gov.stepAt + us 10 ≤ (s.at n).now → Completes (.avsCurrentRead n true amp) s fun t => t.gov.icore = amp ∧ t.gov.retries = 0 ∧
         t.gov.stepAt = (s.at n).now ∧ t.gov.vcore = BitVec.ofNat 16 (stepTo (setpointOf s) s.gov.vcore.toNat) ∧
         stepTo (setpointOf s) s.gov.vcore.toNat ≤ s.gov.vcore.toNat + 5 ∧ s.gov.vcore.toNat ≤ stepTo (setpointOf s) s.gov.vcore.toNat + 5) ∧
       ((s.at n).now < s.gov.stepAt + us 10 → exec (.avsCurrentRead n true amp) s = .next { s.at n with gov := { s.gov with icore := amp, retries := 0 } }) ∧
       (s.gov.retries < 3 → exec (.avsCurrentRead n false amp) s = .next { s.at n with gov := { s.gov with retries := s.gov.retries + 1 } }) ∧
       (3 ≤ s.gov.retries → exec (.avsCurrentRead n false amp) s = .next { s.at n with gov := { s.gov with icore := amp, retries := 0 } })) ∧
     (s.cue.running = true → s.gov.stopped = false → Completes (.coreCurrentLimit n) s fun t =>
       t.gov = { s.gov with stopped := true } ∧ Newest t 0x0B05 idGovernor 0x80) ∧
     ((s.cue.running = false ∨ s.gov.stopped = true) → exec (.coreCurrentLimit n) s = .next (s.at n))) ∧
  ∀ (n : Nat) (s : State),
    (s.forme.loaded = true → Completes (.regulatorTick n) s fun t => ∀ k : Fin 8,
      match s.forme.parts[k.1]? with
      | some c =>
        (2 ≤ c.kind → c.kind ≤ 3 → ∀ b : Int, b = min ((s.part.get k).bucket +
              ((if s.mem.high then c.rateHigh else c.rateNom : Nat) : Int)) (c.depth : Int) →
          ((s.part.get k).owed = [] → t.part.get k = { s.part.get k with bucket := b, owed := [] }) ∧
          ((s.part.get k).owed ≠ [] → (t.part.get k).waitedCue = true) ∧
          ((s.part.get k).owed ≠ [] → b ≤ 0 → (t.part.get k).owed = (s.part.get k).owed ∧ (t.part.get k).bucket = b) ∧
          (∀ o rest, (s.part.get k).owed = o :: rest → 0 < b →
            (t.part.get k).owed.length ≤ rest.length ∧ (t.part.get k).bucket < b)) ∧
        ((c.kind < 2 ∨ 3 < c.kind) → (s.part.get k).owed = [] → t.part.get k = s.part.get k)
      | none => (s.part.get k).owed = [] → t.part.get k = s.part.get k) ∧
    (s.forme.loaded = false → exec (.regulatorTick n) s = .next (s.at n)) ∧
    ∀ m : Fin 2, Completes (.stackRetrainDone n m) s fun t => m ∉ t.mem.retrain ∧
      (∀ k, k ≠ m → (k ∈ t.mem.retrain ↔ k ∈ s.mem.retrain)) ∧
      t.mem = { s.mem with retrain := t.mem.retrain, trackers := s.mem.trackers.map fun x =>
        if x.waits = false ∧ covers (.stack m) (region x.dev) = true ∧ m ∈ s.mem.retrain then { x with at_ := (s.at n).now } else x } ∧
      (∀ p : Fin 16, ∀ h ∈ (t.press.get p).hands, h.wait ≠ .trackers) ∧ t.part = s.part ∧ t.log = s.log

/-- THERMAL_SAMPLE out of RESET: TJ takes the greatest reading and SENSOR the lowest sensor that gave it; each threshold crossed upwards logs event 0x0B06,
the second one stops cognition (K 0), the third is a device-level fault; no crossing logs nothing (R465). -/
def Obligations.ThermalThresholds : Prop :=
  ∀ (n was lvl : Nat) (tj : Int) (readings : List Int) (s : State), s.dev.st ≠ .reset → readings ≠ [] → tj = (hottest readings 0).1 →
    was = s.gov.hot →
    lvl = (if tjMax8 s + 80 ≤ tj then 3 else if tjMax8 s ≤ tj then 2 else if tjMax8 s - 40 ≤ tj then 1 else 0) →
    (∃ k, readings[k]? = some tj ∧ ∀ (j : Nat) (x : Int), readings[j]? = some x → x ≤ tj ∧ (x = tj → k ≤ j)) ∧
    Completes (.thermalSample n readings) s fun t => t.gov.tj = BitVec.ofInt 16 tj ∧ t.gov.hot = lvl ∧
      readings[(hottest readings 0).2]? = some tj ∧ t.gov.sensor = BitVec.ofNat 5 (hottest readings 0).2 ∧
      (was < 1 → 1 ≤ lvl → Logs s t 0x0B06 idGovernor 1 ∧ (s.gov.high = true → t.gov.withdrawn = true)) ∧
      (was < 2 → 2 ≤ lvl → Logs s t 0x0B06 idGovernor 2 ∧ t.gov.k = 0) ∧
      (was < 3 → 3 ≤ lvl → Logs s t 0x0B06 idGovernor 3 ∧ t.dev.faultN = true ∧ Stopped t) ∧
      (lvl ≤ was → t.log = s.log ∧ t.gov.k = s.gov.k ∧ t.dev = s.dev)

/-! ### Scenes -/

/-- SCENE_ADMISSION, on the state `u` in which killed instances are READY anew and displaced scenes have their units: a scene that the rules of
placement give units, which no other scene outranks and whose buffers lie where the imposer may place them, runs on them from now on with empty presses, unless an
understudy scene's constants hold a poisoned block; a scene that R44 alone refused is counted so, or runs in its fine form; a faulty core changes nothing but bytes of
the run's buffers; a slice the rules allow runs, and a press's clears that press alone; where they do not, nothing else changes (R44, R45, R231, R257, R276, R277, R294,
R296, R318, R364). -/
def Obligations.SceneAdmissions : Prop :=
  ∀ (n : Nat) (s u : State), u = placeDisplaced (reRun (s.at n)) →
    (∀ k bufs i us, u.inst? k = some i → (pick u i).1 = some us → u.outranked i us = false → u.placesOk i bufs = true →
      (i.kind = 1 → u.coreLost k = none) → Completes (.sceneAdmission n (.scene k bufs)) s fun t => t.cue = s.cue ∧ t.cog = s.cog ∧ t.cur = s.cur ∧
        (∃ j, t.inst? k = some j ∧ j.st = .running ∧ j.units = us ∧ j.at_ = (s.at n).now ∧ j.bufs = bufs ∧ j.partsDone = [] ∧
          j.cue = if i.kind = 2 ∧ i.wasKilled = true then i.cue else s.cue.count.toNat) ∧
        ∀ p : Fin 16, UnitId.press p ∈ us → (t.press.get p).queue = [] ∧ (t.press.get p).groups = [] ∧ (t.press.get p).live = none ∧
          (t.press.get p).rep = none) ∧
    (∀ k bufs i us, u.inst? k = some i → (pick u i).1 = some us → (u.outranked i us = true ∨ u.placesOk i bufs = false) →
      exec (.sceneAdmission n (.scene k bufs)) s = .next u) ∧
    (∀ k bufs i, u.inst? k = some i → pick u i = (none, false) → exec (.sceneAdmission n (.scene k bufs)) s = .next u) ∧
    (∀ k bufs, u.inst? k = none → exec (.sceneAdmission n (.scene k bufs)) s = .next u) ∧
    (∀ k bufs i, u.inst? k = some i → pick u i = (none, true) → Completes (.sceneAdmission n (.scene k bufs)) s fun t =>
      t.cue = s.cue ∧ t.cog = s.cog ∧ t.cur = s.cur ∧ ∀ j, t.inst? k = some j → j.st = i.st ∧ j.refused = true) ∧
    (∀ k bufs flips w, exec (.sceneAdmission n (.scene k bufs)) s = .next w → Completes (.sceneAdmission n (.faulty k bufs flips)) s fun t =>
      t.sched = w.sched ∧ t.cue = w.cue ∧ t.units = w.units ∧ t.log = w.log ∧
      ∀ a, (∀ b ∈ bufs, ¬(b.dev ≤ a ∧ a < b.dev + b.len)) → cellRead t.mem.cells a = cellRead w.mem.cells a) ∧
    (∀ v, u.sliceOk v = true → (∀ p, v ≠ .unit (.press p)) → exec (.sceneAdmission n (.slice v)) s = .next { u with sched := { u.sched with
      slices := u.sched.slices ++ [{ unit := v, suspending := false, at_ := (s.at n).now }] } }) ∧
    (∀ p, u.sliceOk (.unit (.press p)) = true → Completes (.sceneAdmission n (.slice (.unit (.press p)))) s fun t =>
      t.sched = { u.sched with slices := u.sched.slices ++ [{ unit := .unit (.press p), suspending := false, at_ := (s.at n).now }] } ∧
      (t.press.get p).trace = (u.press.get p).trace ∧ (t.press.get p).entries = [] ∧ (∀ q, q ≠ p → t.press.get q = u.press.get q) ∧
      (∀ e ∈ t.mem.tcache, e.1 ≠ p) ∧ (∀ e ∈ t.mem.blocks, e.1 ≠ p) ∧
      ∀ a, region a ≠ .case p → cellRead t.mem.cells a = cellRead u.mem.cells a) ∧
    (∀ v, u.sliceOk v = false → exec (.sceneAdmission n (.slice v)) s = .next u)

/-- STEP_FORMATION of a cognition play that may form and for which queued sessions have rows: a step with the play's next number holds the
rows in order of their handles, its instances join, and its sessions run (R209, R210, R294); without rows no step forms; a play whose partition has no
stack room logs event 0x0509 once in a cue (R277); a play that may not form changes nothing. -/
def Obligations.StepsForm : Prop :=
  ∀ (n play : Nat) (p : Play) (f : Forming) (u s : State), s.play? play = some p →
    (f, u) = formRows (s.limits p.index) (s.queued p.index) { rows := [], used := 0, short := false, left := none } (s.at n) →
    (p.kind = 2 → s.cue.running = true → s.cogState = true → s.gov.stopped = false → s.playHeld play = false →
      s.stackRoom p = true → f.rows ≠ [] → Completes (.stepFormation n play) s fun t =>
        t.sched.insts.length = s.sched.insts.length + p.low.scenes.length ∧
        (∃ st ∈ t.cog.steps, st.play = p.index ∧ st.no = ((s.cog.stepNo.find? fun e => e.1 = p.index).map Prod.snd).getD 0 + 1 ∧
          st.rows = sortBy (fun r => r.handle.toNat) f.rows ∧ st.tokensDone = false ∧ st.abandoned = false ∧
          ∀ r ∈ st.rows, ∀ x ∈ t.cog.sess, x.slot = r.slot → x.st = .running) ∧
        (∀ slot, f.left = some slot → (0x0C03, 0) ∉ u.log.once → Logs s t 0x0C03 idStage (slot % 256))) ∧
    (p.kind = 2 → s.cue.running = true → s.cogState = true → s.gov.stopped = false → s.playHeld play = false → s.stackRoom p = true → f.rows = [] →
      Completes (.stepFormation n play) s fun t => t.sched = s.sched ∧ t.cog.steps = s.cog.steps) ∧
    (p.kind = 2 → s.cue.running = true → s.cogState = true → s.gov.stopped = false → s.playHeld play = false → s.stackRoom p = false →
      Completes (.stepFormation n play) s fun t => t.sched = s.sched ∧ t.cog = s.cog ∧
        (s.queued play ≠ [] → (0x0509, p.part) ∉ s.log.once → Newest t 0x0509 idImposer p.part)) ∧
    ((p.kind ≠ 2 ∨ s.cue.running = false ∨ s.cogState = false ∨ s.gov.stopped = true ∨ s.playHeld play = true) →
      exec (.stepFormation n play) s = .next (s.at n))

/-- PART_COMMIT_REQUEST of a running scene's part without work left: the part is marked as asking, unless an error of its last reads ends the run; SCENE_COMMIT
once every part has asked and a leaf move's pages are copied: the scene takes the next commit serial, its record enters the digest ring, and outside cognition it stays COMMITTED (R298, R299,
R300, R385, R390). -/
def Obligations.ScenesCommit : Prop :=
  ∀ (n part : Nat) (k : InstKey) (i : Inst) (s : State), s.inst? k = some i →
    (∀ errs, i.st = .running → (s.at n).partRetired i part = true → part ∉ i.partsDone → Completes (.partCommitRequest n k part errs) s fun t =>
      (∀ j, t.inst? k = some j → j.st = .running → part ∈ j.partsDone) ∧
      (errs = [] → t.inst? k = some { i with partsDone := part :: i.partsDone } ∧ t.mem = s.mem ∧ t.log = s.log)) ∧
    ((i.st ≠ .running ∨ part ∈ i.partsDone ∨ (s.at n).partRetired i part = false) → ∀ errs, exec (.partCommitRequest n k part errs) s = .next (s.at n)) ∧
    (∀ p, i.asked = true → (i.kind ≠ kindMove ∨ s.moveDone i = true) → s.play? k.play = some p → Completes (.sceneCommit n k) s fun t =>
      t.sched.serial = s.sched.serial + 1 ∧ t.sched.digHead = s.sched.serial + 1 ∧
      (∃ r, t.sched.digRing.head? = some r ∧ r.serial = s.sched.serial + 1 ∧ r.dScene = (runDigests s p i).1 ∧
        r.dPlay = (runDigests s p i).2 ∧ r.play = k.play ∧ r.scene = k.scene ∧ r.run = BitVec.ofNat 32 k.run) ∧
      (i.kind ≠ 2 → ∃ j, t.inst? k = some j ∧ j.st = .committed ∧ j.serial = s.sched.serial + 1 ∧ j.dScene = (runDigests s p i).1 ∧
        j.dPlay = (runDigests s p i).2 ∧ j.bufs = [])) ∧
    ((i.asked = false ∨ (i.kind = kindMove ∧ s.moveDone i = false)) → exec (.sceneCommit n k) s = .next (s.at n))

/-- SCENE_WATCHDOG_EXPIRY of a run at twice its budget: event 0x0810 with the count, the run killed, to run elsewhere, and its units left to their next proof pass;
a safety scene stops the curtain; the second expiry outside cognition abandons the scene, and the third in cognition blocks the play (R356).
SEQUENCER_TIMEOUT on a press in service whose stagehand has not finished and has been ready for 2,000 cycles in which nothing issued strikes it with cause 9 after
event 0x0811; otherwise, and without a run, nothing changes.
RELOWER_COMPLETE ends the instance's wait for its new lowering; a copy container that is not sound is restored first, with event 0x0403 a page, or its play is no
longer admitted, with event 0x0405 (R259, R357, R358). -/
def Obligations.SceneTimeouts : Prop :=
  (∀ (n : Nat) (k : InstKey) (i : Inst) (s : State), s.inst? k = some i → i.st = .running →
     (i.at_ + us (2 * i.budget) ≤ (s.at n).now → Completes (.sceneWatchdogExpiry n k) s fun t =>
       Logs s t 0x0810 i.firstId (i.wd + 1) ∧ (∀ u ∈ i.units, (t.unit u).suspect = true) ∧
       (i.safety = true → Stopped t ∧ (s.cue.published = false → t.cue.invalid = true)) ∧
       (i.kind = 2 → 3 ≤ i.wd + 1 → k.play ∈ t.sched.blocked) ∧
       (i.kind ≠ 2 → i.kind ≠ kindMove → 2 ≤ i.wd + 1 → Logs s t 0x0604 i.firstId 2 ∧ ∃ j, t.inst? k = some j ∧ j.st = .abandoned) ∧
       ((i.kind = 2 ∧ i.wd + 1 < 3) ∨ (i.kind ≠ 2 ∧ (i.kind = kindMove ∨ i.wd + 1 < 2)) →
         ∃ j, t.inst? k = some j ∧ j.st = .killed ∧ j.wd = i.wd + 1 ∧ j.avoid = i.presses ∧ j.wasKilled = true ∧ j.units = [])) ∧
     ((s.at n).now < i.at_ + us (2 * i.budget) → exec (.sceneWatchdogExpiry n k) s = .next (s.at n))) ∧
  ∀ (n : Nat) (p : Fin 16) (h : Fin 8) (k : InstKey) (s : State),
    ((s.at n).seqStuck p h = true → s.inServ (.press p) = true → Completes (.sequencerTimeout n p h) s fun t =>
      t.inServ (.press p) = false ∧ Logs s t 0x0811 (pressId p) h.1 ∧ Logs s t 0x0802 (pressId p) 9) ∧
    ((s.at n).seqStuck p h = false → exec (.sequencerTimeout n p h) s = .next (s.at n)) ∧
    (s.runOn p = none → (s.at n).seqStuck p h = false) ∧
    ((s.inst? k).any Inst.relower = true → s.copySound k.play = true → exec (.relowerComplete n k) s = .next { s.at n with sched := { s.sched with
      insts := s.sched.insts.map fun i => if i.key = k then { i with relower := false } else i } }) ∧
    ((s.inst? k).any Inst.relower = true → s.copySound k.play = false → ∀ c x, s.forme.copies.find? (fun c => c.1 = k.play) = some c →
      findSection s.forme.sections 5 k.play = some x → Completes (.relowerComplete n k) s fun t =>
        (∀ j, t.inst? k = some j → j.relower = false) ∧
        ∀ recs, recs = ((s.forme.copyRecs.find? fun e => e.1 = k.play).map Prod.snd).getD [] →
          (((x.chunks s.ufs).map fun d => d.take 8) = recs → recs ≠ [] → (∃ d, Newest t 0x0403 idImposer d) ∧ t.sched.unmapped = s.sched.unmapped) ∧
          (((x.chunks s.ufs).map fun d => d.take 8) ≠ recs → Newest t 0x0405 idImposer 0 ∧ k.play ∈ t.sched.unmapped ∧ t.mem = s.mem)) ∧
    ((s.inst? k).any Inst.relower = false → exec (.relowerComplete n k) s = .next (s.at n))

/-! ### Detections and classification -/

/-- Out of RESET a lockstep mismatch or watchdog expiry of the stage manager logs its event, stops the curtain and is device-level fault 1 or 2; an
oscillator count out of 920 to 1,080 stops the curtain, with event 0x070F at each passing out of range; the curtain's watchdog stops it 1.02 P + 2 µs after
its last boundary pulse while cues run (R322, R335, R336, R355). -/
def Obligations.DetectionsStopCurtain : Prop :=
  ∀ (n count : Nat) (s : State),
    (s.awake = true → ∀ c code cause, (c = .stageManagerLockstepMismatch n ∧ code = 0x070D ∧ cause = 1) ∨
        (c = .stageManagerWatchdogExpiry n ∧ code = 0x0812 ∧ cause = 2) →
      Completes c s fun t => Detected s t ∧ Logs s t code idStage 0 ∧ Logs s t 0x0801 idStage cause ∧ t.dev.faultN = true ∧
        (s.dev.faultN = false → t.dev.faultCause = BitVec.ofNat 4 cause ∧ t.dev.faultUnit = idStage)) ∧
    (s.awake = true → ¬(920 ≤ count ∧ count ≤ 1080) → Completes (.oscillatorMonitorCount n count) s fun t =>
      Detected s t ∧ t.cur.oscOut = true ∧ (s.cur.oscOut = false → Logs s t 0x070F idCurtain 0)) ∧
    (s.awake = true → 920 ≤ count → count ≤ 1080 → exec (.oscillatorMonitorCount n count) s =
      .next { s.at n with cur := { s.cur with oscOut := false } }) ∧
    (s.cue.running = true → s.cur.lastPulse + 408 * s.forme.period + us 2 ≤ (s.at n).now →
      Completes (.curtainWatchdogExpiry n) s fun t => Detected s t) ∧
    ((s.cue.running = false ∨ (s.at n).now < s.cur.lastPulse + 408 * s.forme.period + us 2) →
      exec (.curtainWatchdogExpiry n) s = .next (s.at n)) ∧
    (s.awake = false → ∀ c, c = .stageManagerLockstepMismatch n ∨ c = .stageManagerWatchdogExpiry n ∨ c = .oscillatorMonitorCount n count →
      exec c s = .next (s.at n))

/-! ### Presses -/

/-- PRESS by a stagehand that may issue, on a press that runs a scene. A full queue makes the stagehand wait and changes nothing else; an illegal
word logs event 0x0310 with its opcode and the scene is killed to run on other presses, with event 0x0813 and a new lowering at the second time in a row at the same
index, and the play blocked at the third; a legal one issues: its stagehand passes on, to a scene barrier that stands next or over one that every stagehand has
reached, and its group opens, grows or closes as ACC says. Without a run, or by a stagehand that waits, has issued the operation or is not next, nothing changes
(R105, R106, R110, R120, R134, R358). -/
def Obligations.PressesIssue : Prop :=
  ∀ (n : Nat) (p : Fin 16) (w : W128) (idx : Nat) (faults : List PlatenFault) (f : PressOp) (s : State), f = pressOp w →
    ((s.runOn p = none ∨ (s.at n).mayIssue p f.sth idx (.press w) = false) → ∀ errs, exec (.press n p w idx faults errs) s = .next (s.at n)) ∧
    ∀ i, s.runOn p = some i → (s.at n).mayIssue p f.sth idx (.press w) = true →
      (4 ≤ (s.press.get p).queue.length → ∀ errs, exec (.press n p w idx faults errs) s = .next ((s.at n).modPress p fun r =>
        { r with hands := vmod r.hands f.sth fun x => { x with wait := .queueFull 0, since := (s.at n).pressCycle } })) ∧
      ((s.press.get p).queue.length < 4 → pressIllegal f (s.mem.split.get p) (s.press.get p) = true → s.inst? i.key = some i → ∀ errs,
        Completes (.press n p w idx faults errs) s fun t => Logs s t 0x0310 (pressId p) f.opc ∧
          ((∀ j k, i.faultIdx = some (j, k) → j = idx → k < 2) → Requeued t i.key [p]) ∧
          (i.faultIdx = some (idx, 1) → Newest t 0x0813 idImposer i.key.play ∧ ∃ j, t.inst? i.key = some j ∧ j.relower = true) ∧
          (∀ k, i.faultIdx = some (idx, k) → 2 ≤ k → i.key.play ∈ t.sched.blocked)) ∧
      ((s.press.get p).queue.length < 4 → pressIllegal f (s.mem.split.get p) (s.press.get p) = false →
        Completes (.press n p w idx faults []) s fun t =>
          idx < ((t.press.get p).hands.get f.sth).counter ∧ t.pressCycle = (t.press.get p).issuedAt ∧
          (((t.press.get p).hands.get f.sth).wait = .none ∨ ((t.press.get p).hands.get f.sth).wait = .barrier) ∧
          ((∀ x ∈ i.hands, (s.at n).barrierAhead i x = false) → ((t.press.get p).hands.get f.sth).counter = idx + 1 ∧
            ((t.press.get p).hands.get f.sth).wait = .none ∧ ∀ q, q ≠ p → t.press.get q = s.press.get q) ∧
          (t.press.get p).groups.length = (s.press.get p).groups.length + (if f.opens then 1 else 0) ∧
          (f.opens = true → ∃ g ∈ (t.press.get p).groups, g.base = f.base ∧ g.m = f.m ∧ g.win = f.win ∧ g.out = f.out ∧ g.cols = f.cols ∧
            g.q = f.q ∧ g.opened = !f.closes ∧ g.count = 1) ∧
          t.sched = s.sched ∧ t.mem = s.mem ∧ t.log = s.log ∧
          ∀ q, q ≠ p → { t.press.get q with hands := (s.press.get q).hands } = s.press.get q)

/-- The check of a platen row compares congruent sums: whatever the activations and the columns' weights, the columns' check views agree with the checksum
column exactly when what a fault added to them is 0 mod 2^56; so a fault-free row always passes, and no added amount below 2^56 passes (R112). -/
def Obligations.ChecksumVerdicts : Prop :=
  ∀ (f : PressOp) (a : List Lane) (cols : List (List Lane)) (fs : List PlatenFault) (row : Nat),
    (∀ added : Int, checkLhs a cols added = checkRhs a cols ↔ (2 ^ 56 : Int) ∣ added) ∧
    ((platenRow f cols a fs row).2 = none ↔
      (2 ^ 56 : Int) ∣ ((List.range 64).map fun c => faultAt fs row c).sum ∧ parityAt fs row = false) ∧
    (platenRow f cols a [] row).2 = none ∧
    (∀ (c : Fin 64) (d : Int), d ≠ 0 → d.natAbs < 2 ^ 56 → (platenRow f cols a [.column row c d] row).2 = some 0)

/-- PLATEN_REPEAT_VERDICT, SHADOW_LOAD_COMPLETE and GROUP_DRAIN. Repeated rows that pass end the repeat with event 0x0301 and a transient, and each row of the tile that failed
parity once counts one of the weight bus; rows that fail again, and a tile row that fails parity twice, log event 0x0302, kill the run and strike the press. A
loaded tile is the case's. A group's next entry leaves the file for its drain queue, unless that holds 32 (R100, R101, R111, R113, R114). -/
def Obligations.RepeatsTilesDrains : Prop :=
  ∀ (n : Nat) (p : Fin 16) (s : State),
    (∀ r old, (s.press.get p).rep = some r → (s.press.get p).live = some old → (s.unit (.press p)).recent.length < 7 →
      Completes (.platenRepeatVerdict n p { parity := [], faults := [] }) s fun t => Logs s t 0x0301 (pressId p) r.src ∧
        (t.unit (.press p)).transients = sat16 (s.unit (.press p)).transients ∧ t.sched = s.sched) ∧
    (∀ r old (x : Fin 64), (s.press.get p).rep = some r → (s.press.get p).live = some old → (s.runOn p).isSome = true →
      (s.unit (.press p)).recent.length < 7 → Completes (.platenRepeatVerdict n p { parity := [x], faults := [] }) s fun t =>
        Logs s t 0x0301 (pressId p) r.src ∧ Logs s t 0x0301 (pressId p) 1) ∧
    (∀ r old (c : Fin 64) (d : Int), (s.press.get p).rep = some r → (s.press.get p).live = some old → r.row < (pressOp r.c.x.w).m → d ≠ 0 →
      d.natAbs < 2 ^ 56 → s.inServ (.press p) = true → Completes (.platenRepeatVerdict n p { parity := [], faults := [.column r.row c d] }) s fun t =>
        Logs s t 0x0302 (pressId p) 0 ∧ t.inServ (.press p) = false ∧ Logs s t 0x0802 (pressId p) 1) ∧
    (∀ r old (o : RepeatObs), (s.press.get p).rep = some r → (s.press.get p).live = some old → loadFails o.parity = true →
      s.inServ (.press p) = true → Completes (.platenRepeatVerdict n p o) s fun t =>
        Logs s t 0x0302 (pressId p) 1 ∧ t.inServ (.press p) = false ∧ Logs s t 0x0802 (pressId p) 1) ∧
    (((s.press.get p).rep = none ∨ (s.press.get p).live = none) → ∀ o, exec (.platenRepeatVerdict n p o) s = .next (s.at n)) ∧
    (∀ line, (s.runOn p).isSome = true → (s.press.get p).rep = none → (s.press.get p).shadow = none → (s.press.get p).cur = none →
      (s.press.get p).queue = [] → line + 63 ≤ 8191 → exec (.shadowLoadComplete n p line []) s =
        .next ((s.at n).modPress p fun r => { r with shadow := some (s.loadTile p line 64) })) ∧
    (∀ line x, (s.runOn p).isSome = true → (s.press.get p).rep = none → (s.press.get p).shadow = none → line + 63 ≤ 8191 →
      (s.unit (.press p)).recent.length < 7 → Completes (.shadowLoadComplete n p line [x]) s fun t => Logs s t 0x0301 (pressId p) 1 ∧
        (t.unit (.press p)).transients = sat16 (s.unit (.press p)).transients) ∧
    (∀ line parity, (s.runOn p).isSome = true → (s.press.get p).rep = none → (s.press.get p).shadow = none → line + 63 ≤ 8191 →
      loadFails parity = true → s.inServ (.press p) = true → Completes (.shadowLoadComplete n p line parity) s fun t =>
        Logs s t 0x0302 (pressId p) 1 ∧ t.inServ (.press p) = false) ∧
    (∀ line parity, ((s.runOn p).isSome = false ∨ (s.press.get p).rep.isSome = true ∨ (s.press.get p).shadow.isSome = true ∨ 8191 < line + 63) →
      exec (.shadowLoadComplete n p line parity) s = .next (s.at n)) ∧
    (∀ bias g, (s.press.get p).groups.find? (fun g => g.done) = some g → (s.press.get p).drained g.q < 32 →
      Completes (.groupDrain n p bias) s fun t => (t.press.get p).drainQ = (s.press.get p).drainQ ++ [(g.q, drainRow g bias
        ((((s.press.get p).entries.find? fun e => e.1 = g.base + g.next).map Prod.snd).getD []))] ∧
        ((s.press.get p).cur = none → (s.press.get p).queue = [] →
          (t.press.get p).entries = (s.press.get p).entries.filter fun e => e.1 != g.base + g.next)) ∧
    (∀ bias, (((s.press.get p).groups.find? fun g => g.done) = none ∨ ∃ g, (s.press.get p).groups.find? (fun g => g.done) = some g ∧
      32 ≤ (s.press.get p).drained g.q) → exec (.groupDrain n p bias) s = .next (s.at n))

/-- Faults of a press and row-ready updates. ACCUMULATOR_ERROR (event 0x0303) and, 50 µs after a compositor's last block, COMPOSITOR_TIMEOUT (event 0x0460) kill the
press's run to run elsewhere and leave the press to its next proof pass; SEQUENCER_LOCKSTEP_MISMATCH logs event 0x0311, strikes the press with cause 2, if it is not
struck or retired already, and stops the curtain when its scene is a safety scene; ROW_READY_UPDATE of the band's next row sets its counter to row + 1, and the neighbour's stagehands that waited for it
resume; any other row changes nothing (R115, R119, R181, R182, R244). -/
def Obligations.PressFaultsAndBands : Prop :=
  ∀ (n : Nat) (p : Fin 16) (s : State),
    (∀ i c code d, s.runOn p = some i → s.inst? i.key = some i →
      (∃ e : Fin 512, c = .accumulatorError n p e ∧ code = 0x0303 ∧ d = e.1 / 2) ∨
        (∃ m : Fin 2, c = .compositorTimeout n p m ∧ (s.at n).compStuck p m = true ∧ code = 0x0460 ∧ d = m.1) →
      Completes c s fun t => Logs s t code (pressId p) d ∧ Requeued t i.key [p] ∧ (t.unit (.press p)).suspect = true ∧
        (t.unit (.press p)).mode = (s.unit (.press p)).mode) ∧
    (s.runOn p = none → ∀ c, ((∃ e, c = .accumulatorError n p e) ∨ ∃ m, c = .compositorTimeout n p m) → exec c s = .next (s.at n)) ∧
    (∀ m : Fin 2, (s.at n).compStuck p m = false → exec (.compositorTimeout n p m) s = .next (s.at n)) ∧
    (∀ h : Fin 8, s.inServ (.press p) = true → Completes (.sequencerLockstepMismatch n p h) s fun t =>
      Logs s t 0x0311 (pressId p) h.1 ∧ t.inServ (.press p) = false ∧ Logs s t 0x0802 (pressId p) 2 ∧ (t.press.get p).rep = none) ∧
    (∀ (h : Fin 8) i, s.inServ (.press p) = true → s.runOn p = some i → i.safety = true →
      Completes (.sequencerLockstepMismatch n p h) s fun t => Detected s t) ∧
    (∀ h : Fin 8, ((s.unit (.press p)).mode = .struck ∨ (s.unit (.press p)).mode = .retired) →
      Completes (.sequencerLockstepMismatch n p h) s fun t => Logs s t 0x0311 (pressId p) h.1 ∧ (t.press.get p).rep = none ∧ t.units = s.units) ∧
    (∀ tensor bottom row i, s.runOn p = some i →
      ((s.at n).rowDone i p tensor bottom row = true → row < 65535 → Completes (.rowReadyUpdate n p tensor bottom row) s fun t =>
        ((t.press.get p).band tensor bottom).toNat = row + 1 ∧
        (∀ x b, (x, b) ≠ (tensor, bottom) → (t.press.get p).band x b = (s.press.get p).band x b) ∧
        (∀ q x b, q ≠ p → (t.press.get q).band x b = (s.press.get q).band x b) ∧
        ∀ q, i.neighbour p bottom = some q → ∀ h ∈ (t.press.get q).hands, ∀ want, h.wait = .rowReady tensor want bottom → row + 1 < want) ∧
      ((s.at n).rowDone i p tensor bottom row = false → exec (.rowReadyUpdate n p tensor bottom row) s = .next (s.at n))) ∧
    ∀ tensor bottom row, s.runOn p = none → exec (.rowReadyUpdate n p tensor bottom row) s = .next (s.at n)

/-! ### The vector unit and the compositors -/

/-- VECTOR_MICRO_OPERATION by a stagehand that may issue, on a press that runs a scene: with too few rows in a drain queue, or an operand's page not yet walked, its
stagehand waits; what its operands in memory or its pool's pages meet comes before its run; an operator without a result is illegal, with event 0x0310; otherwise
the rows it takes leave their queues, its results stand where it writes them, one operation is charged, its stagehand passes on, and no scene, register of a unit or
event changes. Without a run, by a stagehand that waits, has issued it or is not next, or outside the case's scratch, nothing changes (R106, R117, R120, R230, R232).
Entries whose parity fails are misses of what else it does, the model's reading of R255 (entry 138).
What a vector result writes: bytes outside the scratch of the press's case keep their values, whatever the results and their first line (R117, R226, R232, R296). -/
def Obligations.VectorOperations : Prop :=
  (∀ (n : Nat) (p : Fin 16) (idx : Nat) (m : VecMicro) (bs : List Nat) (s : State), bs = (m.srcs.flatMap memBlocks).dedup →
     ((s.runOn p = none ∨ (s.at n).mayIssue p m.stagehand idx (.vector m) = false ∨ microInScratch m (s.mem.split.get p) = false) →
       ∀ errs, exec (.vectorMicroOperation n p idx m errs) s = .next (s.at n)) ∧
     ∀ i rs ws, s.runOn p = some i → (s.at n).mayIssue p m.stagehand idx (.vector m) = true → microInScratch m (s.mem.split.get p) = true →
       poolBlocks i m (s.at n) = (rs, ws) →
       (∀ errs, exec (.vectorMicroOperation n p idx m errs) s =
         exec (.vectorMicroOperation n p idx m ((errs.filterMap ReadErr.mem).map .word)) (tagErrs p (errs.filterMap ReadErr.tag) s)) ∧
       ((∃ q, (s.press.get p).drained q < drainNeed m.srcs q) → ∀ errs : List MemErr, exec (.vectorMicroOperation n p idx m (errs.map .word)) s =
         .next (waitHand p m.stagehand .drainEmpty (s.at n))) ∧
       ((∀ q, drainNeed m.srcs q ≤ (s.press.get p).drained q) →
         ((∃ g ∈ pagesAt bs, s.pageReady p i.key.play g = false) → ∀ errs : List MemErr,
           exec (.vectorMicroOperation n p idx m (errs.map .word)) s = .next (waitHand p m.stagehand .walk (s.at n))) ∧
         (∀ t, (memOperands p idx m.stagehand i bs (s.at n)).or (poolWait p idx m.stagehand i rs ws (s.at n)) = some t → ∀ errs : List MemErr,
           exec (.vectorMicroOperation n p idx m (errs.map .word)) s = .next t) ∧
         (memOperands p idx m.stagehand i bs (s.at n) = none → poolWait p idx m.stagehand i rs ws (s.at n) = none →
           ∀ u, u = bs.foldl (fun s a => demandHit p m.stagehand i.key.play a s) (s.at n) →
             (∀ outs v, vecRun i m (m.srcs.map (u.vecSrc p i.key.play)) u = some (outs, v) →
               Completes (.vectorMicroOperation n p idx m []) s fun t =>
                 (t.press.get p).drainQ = (popDrains m.srcs (s.press.get p)).drainQ ∧
                 (t.press.get p).tally.vecOps = (s.press.get p).tally.vecOps + 1 ∧
                 idx < ((t.press.get p).hands.get m.stagehand).counter ∧
                 ((∀ x ∈ i.hands, s.barrierAhead i x = false) → ((t.press.get p).hands.get m.stagehand).counter = idx + 1) ∧
                 t.mem.cells = (writeResults p m.dst outs v).mem.cells ∧
                 t.sched = v.sched ∧ t.units = s.units ∧ t.log = s.log) ∧
             (vecRun i m (m.srcs.map (u.vecSrc p i.key.play)) u = none → s.inst? i.key = some i → i.faultIdx = none →
               Completes (.vectorMicroOperation n p idx m []) s fun t => (∃ d, Logs s t 0x0310 (pressId p) d) ∧ Requeued t i.key [p])))) ∧
  ∀ (p : Fin 16) (line : Nat) (rs : List VArr) (s : State) (a : Nat), (a < caseBase p.1 ∨ caseBase p.1 + s.mem.split.get p * 1024 ≤ a) →
    cellRead (writeResults p line rs s).mem.cells a = cellRead s.mem.cells a

/-- COMPOSITOR_WRITE by a stagehand that may issue, in the order of its causes to wait or fail: a bleed row beyond the neighbour's band changes nothing; a busy
compositor, a bleed row not yet ready, a page not walked or no free tracker makes the stagehand wait; a failing access is translation fault 0x0410 and kills the run;
a poisoned source ends it; otherwise a store copies the case's blocks to the play's bytes and a fill writes only case lines (R103, R182, R226, R229, R230, R257, R358); one
outside the case's scratch changes nothing, the model's choice (R232; entry 152).
XFER of a scene's press on a free compositor: a legal one with allowed spans and clean sources copies its LEN blocks, is noted in its run, and leaves the
compositor busy until XFER_COMPLETE, which waits for its last block; an illegal word is event 0x0310, a failing span event 0x0410, each killing the run (R106, R229, R248, R249). Entries whose parity
fails are misses of what else the command does, the model's reading of R255 (entry 138). -/
def Obligations.CompositorsMoveBlocks : Prop :=
  (∀ (n : Nat) (p : Fin 16) (idx : Nat) (comp : Fin 2) (h : Fin 8) (bleed : Option (Nat × Bool × Nat)) (op : CompOp)
     (ls : List CaseLine) (bs : List Nat) (wr : Bool) (s : State) (i : Inst), s.runOn p = some i →
     (s.at n).mayIssue p h idx (.compositor comp bleed op) = true → ls = fillLines (s.playByte i.key.play) op → (bs, wr) = compBlocks ls op →
     (∀ tags errs, exec (.compositorWrite n p idx comp h bleed op tags errs) s =
       exec (.compositorWrite n p idx comp h bleed op [] errs) (tagErrs p tags s)) ∧
     (∀ x, bleed = some x → s.bandRow i p x = false → ∀ errs, exec (.compositorWrite n p idx comp h bleed op [] errs) s = .next (s.at n)) ∧
     ((∀ x, bleed = some x → s.bandRow i p x = true) →
       (((s.press.get p).comps.get comp).isSome = true → ∀ errs, exec (.compositorWrite n p idx comp h bleed op [] errs) s =
         .next (waitHand p h (.queueFull (2 + comp.1)) (s.at n))) ∧
       ((s.press.get p).comps.get comp = none →
         (∀ x b r, bleed = some (x, b, r) → s.bandReady i p (x, b, r) = false → ∀ errs,
           exec (.compositorWrite n p idx comp h bleed op [] errs) s = .next (waitHand p h (.rowReady x (r + 1) b) (s.at n))) ∧
         ((∀ x, bleed = some x → s.bandReady i p x = true) → inScratch (s.mem.split.get p) ls op = false →
           ∀ errs, exec (.compositorWrite n p idx comp h bleed op [] errs) s = .next (s.at n)) ∧
         ((∀ x, bleed = some x → s.bandReady i p x = true) → inScratch (s.mem.split.get p) ls op = true →
           (∀ w, s.compWait p i.key.play bs = some w → ∀ errs, exec (.compositorWrite n p idx comp h bleed op [] errs) s =
             .next (waitHand p h w (s.at n))) ∧
           (s.compWait p i.key.play bs = none →
             (∀ d, s.runFaults i wr bs = some d → s.inst? i.key = some i → i.faultIdx = none →
               ∀ errs, Completes (.compositorWrite n p idx comp h bleed op [] errs) s fun t =>
                 Logs s t 0x0410 (pressId p) d ∧ Requeued t i.key [p] ∧ t.mem.cells = s.mem.cells) ∧
             (∀ d, s.runFaults i wr bs = none → wr = false → s.poisonedIn i.key.play bs = some d → ∀ errs,
               exec (.compositorWrite n p idx comp h bleed op [] errs) s = .next (poisonRead (holderId d) d i.key (s.at n))) ∧
             (s.runFaults i wr bs = none → (wr = true ∨ s.poisonedIn i.key.play bs = none) →
               Completes (.compositorWrite n p idx comp h bleed op [] []) s fun t =>
                 t.mem.cells = (compEffect p i.key.play ls op s).mem.cells ∧ idx < ((t.press.get p).hands.get h).counter ∧
                 ((∀ x ∈ i.hands, s.barrierAhead i x = false) → ((t.press.get p).hands.get h).counter = idx + 1) ∧
                 t.sched = s.sched ∧ t.log = s.log ∧ t.units = s.units)))))) ∧
  ∀ (n : Nat) (p : Fin 16) (idx : Nat) (w : W128) (f : XferOp) (src dst : List Nat) (s : State), f = xferOp w →
    src = blockRange f.src f.len → dst = blockRange f.dst f.len →
    (∀ i, s.runOn p = some i → (s.at n).mayIssue p f.sth idx (.xfer w) = true →
      (∀ tags errs, exec (.xfer n p idx w tags errs) s = exec (.xfer n p idx w [] errs) (tagErrs p tags s)) ∧
      (((s.press.get p).comps.get f.cmp).isSome = true → ∀ errs, exec (.xfer n p idx w [] errs) s =
        .next (waitHand p f.sth (.queueFull (2 + f.cmp.1)) (s.at n))) ∧
      ((s.press.get p).comps.get f.cmp = none →
        (xferIllegal f = true → s.inst? i.key = some i → i.faultIdx = none → ∀ errs, Completes (.xfer n p idx w [] errs) s fun t =>
          Logs s t 0x0310 (pressId p) f.opc ∧ Requeued t i.key [p] ∧ t.mem.cells = s.mem.cells) ∧
        (∀ v, xferIllegal f = false → s.compWait p i.key.play (src ++ dst) = some v → ∀ errs, exec (.xfer n p idx w [] errs) s =
          .next (waitHand p f.sth v (s.at n))) ∧
        (xferIllegal f = false → s.compWait p i.key.play (src ++ dst) = none →
          (∀ d, (s.runFaults i false src = some d ∨ (s.runFaults i false src = none ∧ s.runFaults i true dst = some d)) →
            s.inst? i.key = some i → i.faultIdx = none → ∀ errs, Completes (.xfer n p idx w [] errs) s fun t =>
              Logs s t 0x0410 (pressId p) d ∧ Requeued t i.key [p] ∧ t.mem.cells = s.mem.cells) ∧
          (s.runFaults i false src = none → s.runFaults i true dst = none →
            (∀ d, s.poisonedIn i.key.play src = some d → ∀ errs, exec (.xfer n p idx w [] errs) s =
              .next (poisonRead (holderId d) d i.key (s.at n))) ∧
            (s.poisonedIn i.key.play src = none → Completes (.xfer n p idx w [] []) s fun t =>
              t.mem.cells = (playWrite i.key.play f.dst (s.playBytes i.key.play f.src (64 * f.len)) s).mem.cells ∧
              (t.press.get p).comps.get f.cmp = some w ∧ (∀ c, c ≠ f.cmp → (t.press.get p).comps.get c = (s.press.get p).comps.get c) ∧
              idx < ((t.press.get p).hands.get f.sth).counter ∧
              ((∀ x ∈ i.hands, s.barrierAhead i x = false) → ((t.press.get p).hands.get f.sth).counter = idx + 1) ∧
              t.sched = (s.modInst i.key fun x => { x with xfers := (f.src, f.dst, f.len) :: x.xfers }).sched ∧ t.log = s.log))))) ∧
    (∀ (c : Fin 2) v, (s.press.get p).comps.get c = some v → v ≠ 0 → s.moving p (Fin.ofNat 3 (1 + c.1)) = false →
      Completes (.xferComplete n p c) s fun t => (t.press.get p).comps.get c = none ∧ t.mem = s.mem ∧ t.sched = s.sched) ∧
    (∀ c : Fin 2, ((s.press.get p).comps.get c = none ∨ (s.press.get p).comps.get c = some 0 ∨ s.moving p (Fin.ofNat 3 (1 + c.1)) = true) →
      exec (.xferComplete n p c) s = .next (s.at n)) ∧
    ((s.runOn p = none ∨ (s.at n).mayIssue p f.sth idx (.xfer w) = false) → ∀ tags errs, exec (.xfer n p idx w tags errs) s = .next (s.at n)) ∧
    ∀ (comp : Fin 2) (h : Fin 8) bleed op, (s.runOn p = none ∨ (s.at n).mayIssue p h idx (.compositor comp bleed op) = false) → ∀ tags errs,
      exec (.compositorWrite n p idx comp h bleed op tags errs) s = .next (s.at n)

/-! ### The memory system -/

/-- TRANSLATION_WALK_DONE and PREFETCH_ISSUE of a press's run. An allowed walk of a page whose older mapping is not being dropped caches the page's entry, and a write or
a compositor's wait for it goes on at once; a failing one is event 0x0410 and kills the run. A prefetch in its span with a tracker free takes one of its pool for
its block, unless the block is on its way already, and moves one stride on; any other is dropped, and at a span's edge stops its stream until demand reaches
the page (R229, R230, R241, R245, R246). Entries whose parity fails are misses of what else the command does, the model's reading of R255 (entry 138). -/
def Obligations.WalksAndPrefetches : Prop :=
  ∀ (n : Nat) (p : Fin 16) (s : State),
    (∀ i, s.runOn p = some i → ∀ (h : Fin 8) (addr : Nat) (wr : Bool) (idx : Nat),
      (∀ d ∈ s.mem.drops, ¬(d.play = i.key.play ∧ d.page = addr / 2 ^ 21)) →
      (∀ tags, exec (.translationWalkDone n p h i.key.play addr wr idx tags) s =
        exec (.translationWalkDone n p h i.key.play addr wr idx []) (tagErrs p tags s)) ∧
      (s.runFaults i wr [blockOf addr] = none → Completes (.translationWalkDone n p h i.key.play addr wr idx []) s fun t =>
        (∃ e, s.pte? i.key.play (addr / 2 ^ 21) = some e ∧ t.cached? p i.key.play (addr / 2 ^ 21) =
          some { play := i.key.play, page := addr / 2 ^ 21, pte := e, locked := decide (i.kind = 0) }) ∧
        ((wr = true ∨ ((s.press.get p).hands.get h).wait = .walk) → ((t.press.get p).hands.get h).wait = .none) ∧
        t.mem.cells = s.mem.cells ∧ t.sched = s.sched ∧ t.log = s.log) ∧
      (∀ d, s.runFaults i wr [blockOf addr] = some d → s.inst? i.key = some i → i.faultIdx = none →
        Completes (.translationWalkDone n p h i.key.play addr wr idx []) s fun t => Logs s t 0x0410 (pressId p) d ∧ Requeued t i.key [p])) ∧
    (∀ i, s.runOn p = some i → ∀ (h : Fin 8) (play addr : Nat) (wr : Bool) (idx : Nat),
      (play ≠ i.key.play ∨ ∃ d ∈ s.mem.drops, d.play = play ∧ d.page = addr / 2 ^ 21) →
      ∀ tags, exec (.translationWalkDone n p h play addr wr idx tags) s = .next (s.at n)) ∧
    (s.runOn p = none → (∀ h play addr wr idx tags, exec (.translationWalkDone n p h play addr wr idx tags) s = .next (s.at n)) ∧
      ∀ k tags, exec (.prefetchIssue n p k tags) s = .next (s.at n)) ∧
    ∀ (k : Fin 32), (s.runOn p).isSome = true →
      (s.mem.prefetch.find? (fun e => decide (e.1 = p) && decide (e.2.idx = k)) = none →
        ∀ tags, exec (.prefetchIssue n p k tags) s = .next (s.at n)) ∧
      ∀ e, s.mem.prefetch.find? (fun e => decide (e.1 = p) && decide (e.2.idx = k)) = some (p, e) →
        (e.ahead < 16 → s.inSpan p e = true → e.stopped = false → s.prefetchRoom p = true → Completes (.prefetchIssue n p k []) s fun t =>
          t.mem.prefetch.find? (fun e => decide (e.1 = p) && decide (e.2.idx = k)) =
            some (p, { e with next := ((e.next : Int) + e.stride).toNat, ahead := e.ahead + 1 }) ∧
          (s.requested p e.play (blockOf e.next) = true → t.mem.trackers = s.mem.trackers) ∧
          (s.requested p e.play (blockOf e.next) = false → (∃ r, region ((s.translate e.play (blockOf e.next)).getD 0) = r ∧
              ((∃ m, r = .galley m) ∨ ∃ m, r = .stack m)) →
            s.mem.nextId < t.mem.nextId ∧
            ∃ x ∈ t.mem.trackers, x.id = s.mem.nextId ∧ x.pool = 3 ∧ x.press = some p ∧ x.play = e.play ∧ x.addr = blockOf e.next)) ∧
        (e.ahead < 16 → (s.inSpan p e = false ∨ e.stopped = true ∨ s.prefetchRoom p = false) → Completes (.prefetchIssue n p k []) s fun t =>
          t.mem.trackers = s.mem.trackers ∧ t.mem.prefetch.find? (fun e => decide (e.1 = p) && decide (e.2.idx = k)) =
            some (p, { e with next := ((e.next : Int) + e.stride).toNat, ahead := e.ahead + 1, stopped := e.stopped || !s.inSpan p e })) ∧
        (16 ≤ e.ahead → ∀ tags, exec (.prefetchIssue n p k tags) s = .next (s.at n)) ∧
        (e.ahead < 16 → ∀ tags, exec (.prefetchIssue n p k tags) s = exec (.prefetchIssue n p k []) (tagErrs p tags s))

/-- Trackers. TRACKER_RESPONSE of a clean block frees its tracker, wakes the stagehands that waited for the block, keeps it in the case cache where its page allows, and
discards a killed run's block; TRACKER_TIMEOUT after 20 µs issues the request once more with event 0x0440; TRACKER_TIMEOUT_REPEAT 20 µs later logs event 0x0441,
kills the requester's run to run elsewhere and stops the curtain for a safety scene; before those times, for a request that waits at its regulator or at a stack
that retrains, and for an unknown number, nothing changes, and no response comes to a request that waits for a controller's tracker (R233, R239, R241 to R243, R335). -/
def Obligations.TrackersCompleteOrTimeOut : Prop :=
  ∀ (n id : Nat) (s : State),
    (s.tracker? id = none → ∀ c, (c = .trackerTimeout n id ∨ c = .trackerTimeoutRepeat n id ∨ ∃ e, c = .trackerResponse n id e) →
      exec c s = .next (s.at n)) ∧
    ∀ r, s.tracker? id = some r →
      (s.held r = true → ∀ c, (c = .trackerTimeout n id ∨ c = .trackerTimeoutRepeat n id ∨ ∃ e, c = .trackerResponse n id e) →
        exec c s = .next (s.at n)) ∧
      (r.noCtl = true → ∀ e, exec (.trackerResponse n id e) s = .next (s.at n)) ∧
      (s.held r = false →
        (s.poisoned r.dev = false → r.noCtl = false → id < s.mem.nextId → Completes (.trackerResponse n id .clean) s fun t =>
          (∀ x ∈ t.mem.trackers, x.id ≠ id) ∧ t.mem.cells = s.mem.cells ∧ t.sched = s.sched ∧ t.log = s.log ∧
          (r.killed = true → t.mem.blocks = s.mem.blocks) ∧
          ∀ p, r.press = some p → r.stack = none → r.killed = false →
            (∀ h ∈ (t.press.get p).hands, ¬(h.wait = .cacheMiss ∧ h.miss = some (r.play, r.addr)) ∧ h.wait ≠ .trackers) ∧
            (∀ e, s.pte? r.play (r.addr / 2 ^ 21) = some e → cacheable e = true → r.write = false → (r.pool = 0 ∨ r.pool = 3) →
              r.drop = false → s.blockSets p ≠ 0 → (p, r.dev) ∈ t.mem.blocks)) ∧
        (r.killed = false → r.reissued = false → r.at_ + us 20 ≤ (s.at n).now → Completes (.trackerTimeout n id) s fun t =>
          Newest t 0x0440 r.unit 0 ∧ t.tracker? id = some { r with reissued := true, at_ := (s.at n).now } ∧ t.sched = s.sched) ∧
        ((r.killed = true ∨ r.reissued = true ∨ (s.at n).now < r.at_ + us 20) → exec (.trackerTimeout n id) s = .next (s.at n)) ∧
        (r.killed = false → r.reissued = true → r.at_ + us 20 ≤ (s.at n).now → Completes (.trackerTimeoutRepeat n id) s fun t =>
          Logs s t 0x0441 r.unit 0 ∧ (∀ x ∈ t.mem.trackers, x.id = id → x.killed = true) ∧
          ∀ p i, r.press = some p → s.runOn p = some i → s.inst? i.key = some i → Requeued t i.key [p] ∧ (i.safety = true → Detected s t)) ∧
        ((r.killed = true ∨ r.reissued = false ∨ (s.at n).now < r.at_ + us 20) → exec (.trackerTimeoutRepeat n id) s = .next (s.at n)))

/-- A prefetch in flight when a press drops its page's entry is marked for discard, and its response frees its tracker without its block entering the case
cache, whatever its read met (R247). -/
def Obligations.DroppedPrefetchesDiscarded : Prop :=
  (∀ (n : Nat) (p : Fin 16) (play page : Nat) (s : State) (d : Drop), d ∈ s.mem.drops → d.play = play → d.page = page → p ∈ d.presses →
    Completes (.mappingDropAck n p play page) s fun t =>
      ∀ x ∈ s.mem.trackers, x.press = some p → x.pool = 3 → x.dev / 2 ^ 21 * 2 ^ 21 = d.dev → { x with drop := true } ∈ t.mem.trackers) ∧
  ∀ (n id : Nat) (ecc : EccObs) (r : Tracker) (s : State), s.tracker? id = some r → r.pool = 3 → r.drop = true → s.held r = false →
    r.noCtl = false → id < s.mem.nextId →
    Completes (.trackerResponse n id ecc) s fun t => (∀ x ∈ t.mem.trackers, x.id ≠ id) ∧ ∀ b ∈ t.mem.blocks, b ∈ s.mem.blocks

/-- FABRIC_BLOCK_RECEIVE and STACK_ACCESS_COMPLETE. A good block ends its re-sends and logs nothing; a failing one is sent again three times and then lost with
event 0x0421, its run to run elsewhere, unless it is poisoned, which is not sent again; a stack block still uncorrectable is lost with event 0x0431 and poisoned, and
the sixteenth in 1,000 cues strikes the stack; no access completes while the stack retrains (R239, R251 to R254, R260, R359). -/
def Obligations.BlocksResentOrLost : Prop :=
  ∀ (n : Nat) (recv send : Byte) (data : List Byte) (addr : Nat) (crc : W16) (p : Option (Fin 16)) (s : State),
    (blockCrc data addr = crc → Completes (.fabricBlockReceive n recv send data addr crc p) s fun t =>
      (t.hop recv send).count addr = 0 ∧ t.log = s.log ∧ t.sched = s.sched ∧ t.units = s.units) ∧
    (blockCrc data addr ≠ crc → s.poisoned addr = true → p.bind s.runOn = none →
      Completes (.fabricBlockReceive n recv send data addr crc p) s fun t =>
        (t.hop recv send).count addr = 0 ∧ t.log = s.log ∧ t.sched = s.sched ∧ t.units = s.units) ∧
    (blockCrc data addr ≠ crc → s.poisoned addr = true → ∀ i, p.bind s.runOn = some i → exec (.fabricBlockReceive n recv send data addr crc p) s =
      .next (poisonRead (holderId addr) (blockOf addr) i.key (putHop ((s.hop recv send).clear addr) (s.at n)))) ∧
    (blockCrc data addr ≠ crc → s.poisoned addr = false → (s.hop recv send).count addr < 3 →
      Completes (.fabricBlockReceive n recv send data addr crc p) s fun t =>
        (t.hop recv send).count addr = (s.hop recv send).count addr + 1 ∧ t.sched = s.sched ∧ t.units = s.units ∧
        ((0x0420, recv.toNat) ∉ s.log.once → Newest t 0x0420 recv send.toNat) ∧ ((0x0420, recv.toNat) ∈ s.log.once → t.log = s.log)) ∧
    (blockCrc data addr ≠ crc → s.poisoned addr = false → 3 ≤ (s.hop recv send).count addr → (s.hop recv send).exhausted = [] →
      Completes (.fabricBlockReceive n recv send data addr crc p) s fun t => (t.hop recv send).count addr = 0 ∧
        Logs s t 0x0421 recv send.toNat ∧ ∀ q i, p = some q → s.runOn q = some i → s.inst? i.key = some i → Requeued t i.key [q]) ∧
    ∀ (m : Fin 2),
      (m ∈ s.mem.retrain → ∀ o, exec (.stackAccessComplete n m addr o p) s = .next (s.at n)) ∧
      (m ∉ s.mem.retrain →
        (Completes (.stackAccessComplete n m addr .clean p) s fun t =>
          (t.hop (unitId (.stack m)) (unitId (.stack m))).count addr = 0 ∧ t.log = s.log ∧ t.sched = s.sched ∧ t.units = s.units) ∧
        (Completes (.stackAccessComplete n m addr .corrected p) s fun t =>
          (t.hop (unitId (.stack m)) (unitId (.stack m))).count addr = 0 ∧ t.sched = s.sched ∧ t.units = s.units) ∧
        ((s.hop (unitId (.stack m)) (unitId (.stack m))).count addr < 3 → ∀ o, o = .parity ∨ o = .uncorrectable →
          Completes (.stackAccessComplete n m addr o p) s fun t => t.sched = s.sched ∧ t.units = s.units ∧
            (t.hop (unitId (.stack m)) (unitId (.stack m))).count addr = (s.hop (unitId (.stack m)) (unitId (.stack m))).count addr + 1) ∧
        (3 ≤ (s.hop (unitId (.stack m)) (unitId (.stack m))).count addr → (s.hop (unitId (.stack m)) (unitId (.stack m))).exhausted = [] →
          Completes (.stackAccessComplete n m addr .parity p) s fun t =>
            Logs s t 0x0421 (unitId (.stack m)) (unitId (.stack m)).toNat ∧
            ∀ q i, p = some q → s.runOn q = some i → s.inst? i.key = some i → Requeued t i.key [q]) ∧
        (3 ≤ (s.hop (unitId (.stack m)) (unitId (.stack m))).count addr → Completes (.stackAccessComplete n m addr .uncorrectable p) s fun t =>
          Logs s t 0x0431 (unitId (.stack m)) (pseudoChannel (addr % stackBase 1)) ∧ t.poisoned addr = true ∧
          (s.inServ (.stack m) = true → 16 ≤ (within 1000 s.cue.count.toNat (s.unit (.stack m)).errors).length → t.inServ (.stack m) = false)))

/-- ECC_WRITE_BACK, CONSTANT_RESTORE_DONE, MAPPING_DROP_ACK, LEAF_SWEEP_DONE. A word's write-back ends, and a write over it drops it; a restored page that hashes
to what LOADING recorded is mapped at a fresh page with event 0x0403, and any other is event 0x0405 and leaves its play unmapped; it waits while no page is free,
and in the SAFE_HOLD of R26 nothing is restored; an acknowledged drop leaves nothing of the page on its press but a locked entry, which then holds the new mapping; a pinned leaf that nothing names is freed with event
0x0C02 (R26, R201, R230, R231, R256, R259). -/
def Obligations.MemoryUpkeep : Prop :=
  ∀ (n : Nat) (s : State),
    (∀ addr, exec (.eccWriteBack n addr) s =
      .next { s.at n with mem := { s.mem with wbacks := s.mem.wbacks.filter fun e => e.1 != wordOf addr } }) ∧
    (∀ a bs, ∀ e ∈ (devWrite a bs s).mem.wbacks, e ∈ s.mem.wbacks ∧ ¬(a < e.1 + wordSize e.1 ∧ e.1 < a + bs.length)) ∧
    ((s.mem.restore = [] ∨ s.dev.bare = true) → exec (.constantRestoreDone n) s = .next (s.at n)) ∧
    (∀ r rest e, s.mem.restore = r :: rest → s.dev.bare = false → s.pte? r.play r.vpage = some e →
      (s.freshPage (pteDev e) = none → exec (.constantRestoreDone n) s = .next (s.at n)) ∧
      ∀ d, s.freshPage (pteDev e) = some d → s.pageRec r.sect r.page = some ((sha512 (s.pageBytes r.sect r.page)).take 8) →
        Completes (.constantRestoreDone n) s fun t =>
          t.mem.restore = rest ∧ Logs s t 0x0403 idImposer (match region d with
            | .galley k => k.1
            | _ => 0) ∧ t.sched = s.sched ∧
          (∃ q, t.pte? r.play r.vpage = some q ∧ pteDev q = d ∧ pteRD q = pteRD e ∧ pteWR q = pteWR e) ∧
          t.mem.cells = cellsWrite s.mem.cells d (s.pageBytes r.sect r.page)) ∧
    (∀ r rest, s.mem.restore = r :: rest → s.dev.bare = false → (s.pte? r.play r.vpage = none ∨ ∃ e d, s.pte? r.play r.vpage = some e ∧
        s.freshPage (pteDev e) = some d ∧ s.pageRec r.sect r.page ≠ some ((sha512 (s.pageBytes r.sect r.page)).take 8)) →
      Completes (.constantRestoreDone n) s fun t => t.mem.restore = rest ∧ Newest t 0x0405 idImposer 0 ∧ r.play ∈ t.sched.unmapped ∧
        t.pte? r.play r.vpage = none ∧ t.mem.cells = s.mem.cells) ∧
    (∀ (p : Fin 16) play page, Completes (.mappingDropAck n p play page) s fun t =>
      (∀ d ∈ t.mem.drops, ¬(d.play = play ∧ d.page = page ∧ p ∈ d.presses)) ∧ t.mem.cells = s.mem.cells ∧ t.mem.l2 = s.mem.l2 ∧
      ∀ d ∈ s.mem.drops, d.play = play → d.page = page → p ∈ d.presses →
        (∀ e ∈ t.mem.tcache, e.1 = p → e.2.play = play → e.2.page = page → pteDev e.2.pte = d.dev →
          e.2.locked = true ∧ s.pte? play page = some e.2.pte) ∧
        ∀ b ∈ t.mem.blocks, ¬(b.1 = p ∧ b.2 / 2 ^ 21 * 2 ^ 21 = d.dev)) ∧
    (∀ play leaf l, s.leaf? play leaf = some l → l.st = .pinned → l.sweep = true →
      (s.leafHeld play leaf = true → Completes (.leafSweepDone n play leaf) s fun t =>
        t.leaf? play leaf = some { l with sweep := false } ∧ t.log = s.log) ∧
      (s.leafHeld play leaf = false → Completes (.leafSweepDone n play leaf) s fun t =>
        t.leaf? play leaf = none ∧ Newest t 0x0C02 idStage 0)) ∧
    (∀ play leaf, (∀ l, s.leaf? play leaf = some l → l.st ≠ .pinned ∨ l.sweep = false) →
      exec (.leafSweepDone n play leaf) s = .next (s.at n))

/-! ### Ingest -/

/-- Packets of an open camera port on a virtual channel, by every stream there: CSI2_FRAME_START begins a frame and a sample with its stamp, and an unended frame
is rejected with event 0x0204; a good line of the stream's type joins its frame and a bad CRC rejects it with event 0x0203; a header beyond correction rejects every
frame in progress on the port with event 0x0202; an undeclared packet is event 0x0205,
and a corrected header 0x0201, once per port and cue; CSI2_FRAME_END leaves the frame's sample to its proof check. A struck or undeclared port takes nothing
(R58 to R60, R77, R90, R92). -/
def Obligations.CameraPackets : Prop :=
  ∀ (n vc : Nat) (k : Fin 16) (s : State),
    (s.camLive k = false → ∀ (vcx num dt : Nat) (hdr : HeaderObs) (ok : Bool) (bs : List Byte) (c : Instr),
      c = .csi2FrameStart n k vc vcx num hdr ∨ c = .csi2LongPacket n k vc vcx dt hdr ok bs ∨ c = .csi2FrameEnd n k vc vcx num hdr ∨
        c = .csi2LineOrGenericShortPacket n k vc vcx dt hdr ∨ c = .dphyDeskewCalibration n k → exec c s = .next (s.at n)) ∧
    (s.camLive k = true →
      (∀ num, Completes (.csi2FrameStart n k vc 0 num .clean) s fun t =>
        (∀ i c, i ∈ s.onChannel k vc → s.stream i = some c →
          (∃ id, (t.ing.streams.get i).frame = some { id := id, stamp := stampOf (s.at n).ns, num := num, lines := [], embedded := []
                                                      bad := false } ∧ (c.kind = 0 → id = (s.ing.streams.get i).lastId + 1)) ∧
          (t.ing.streams.get i).lossFrom = (s.at n).now ∧
          (∀ f, (s.ing.streams.get i).frame = some f → f.bad = false → Logs s t 0x0204 (s.portIdOf i) i.1)) ∧
        ∀ i, i ∉ s.onChannel k vc → t.ing.streams.get i = s.ing.streams.get i) ∧
      (∀ dt bs, dt ≠ 0x12 → (∃ i ∈ s.onChannel k vc, ∃ c, s.stream i = some c ∧ c.dt = dt) →
        (Completes (.csi2LongPacket n k vc 0 dt .clean true bs) s fun t =>
          ∀ i c f, i ∈ s.onChannel k vc → s.stream i = some c → c.dt = dt → (s.ing.streams.get i).frame = some f → f.bad = false →
            bs.length = c.lineBytes → f.lines.length < c.height →
            (t.ing.streams.get i).frame = some { f with lines := bs :: f.lines }) ∧
        (Completes (.csi2LongPacket n k vc 0 dt .clean false bs) s fun t =>
          ∀ i c f, i ∈ s.onChannel k vc → s.stream i = some c → c.dt = dt → (s.ing.streams.get i).frame = some f → f.bad = false →
            (t.ing.streams.get i).frame = some { f with bad := true } ∧ Logs s t 0x0203 (s.portIdOf i) i.1)) ∧
      (∀ dt ok bs, (∀ i ∈ s.onChannel k vc, ∀ c, s.stream i = some c → c.dt ≠ dt) → dt ≠ 0x12 → (0x0205, k.1) ∉ s.log.once →
        Completes (.csi2LongPacket n k vc 0 dt .clean ok bs) s fun t => Newest t 0x0205 (unitId (.port ⟨k.1, by omega⟩)) dt ∧ t.ing = s.ing) ∧
      (∀ dt ok bs, (∀ i ∈ s.onChannel k vc, ∀ c, s.stream i = some c → c.dt ≠ dt) → dt ≠ 0x12 → (0x0205, k.1) ∈ s.log.once →
        exec (.csi2LongPacket n k vc 0 dt .clean ok bs) s = .next (s.at n)) ∧
      (∀ num, Completes (.csi2FrameEnd n k vc 0 num .clean) s fun t =>
        (∀ i ∈ s.onChannel k vc, (t.ing.streams.get i).frame = none) ∧ ∀ i c f, i ∈ s.onChannel k vc → s.stream i = some c → c.kind = 0 → (s.ing.streams.get i).frame = some f →
          ∃ x ∈ (t.ing.streams.get i).ready, x.id = f.id ∧ x.stamp = f.stamp ∧ x.num = f.num ∧
            (f.bad = false → c.height ≤ f.lines.length → x.status = 0 ∧ x.bytes = cameraBytes c f.lines.reverse) ∧
            (f.bad = true ∨ f.lines.length < c.height → x.status = 3 ∧ x.bytes = [])) ∧
      (∀ (vcx num dt : Nat) (ok : Bool) (bs : List Byte) (c : Instr),
        c = .csi2FrameStart n k vc vcx num .uncorrectable ∨ c = .csi2LongPacket n k vc vcx dt .uncorrectable ok bs ∨
          c = .csi2FrameEnd n k vc vcx num .uncorrectable ∨ c = .csi2LineOrGenericShortPacket n k vc vcx dt .uncorrectable →
        Completes c s fun t => ∀ i d f, s.stream i = some d → d.kind ≤ 1 → d.port = k.1 → (s.ing.streams.get i).frame = some f →
          f.bad = false → (t.ing.streams.get i).frame = some { f with bad := true } ∧ Logs s t 0x0202 (s.portIdOf i) i.1) ∧
      (∀ vcx dt, exec (.csi2LineOrGenericShortPacket n k vc vcx dt .clean) s = .next (s.at n)) ∧
      (∀ vcx dt, (0x0201, k.1) ∉ s.log.once → Completes (.csi2LineOrGenericShortPacket n k vc vcx dt .corrected) s fun t =>
        Newest t 0x0201 (unitId (.port ⟨k.1, by omega⟩)) (vc + 4 * vcx) ∧ t.ing = s.ing) ∧
      (∀ vcx dt, (0x0201, k.1) ∈ s.log.once → exec (.csi2LineOrGenericShortPacket n k vc vcx dt .corrected) s = .next (s.at n)) ∧
      (((s.forme.cams[k.1]?).map CamPort.rate).getD 0 ≤ 1500 → exec (.dphyDeskewCalibration n k) s = .next (s.at n)) ∧
      (1500 < ((s.forme.cams[k.1]?).map CamPort.rate).getD 0 → Completes (.dphyDeskewCalibration n k) s fun t =>
        k ∈ t.ing.deskewed ∧ ∀ j, j ≠ k → (j ∈ t.ing.deskewed ↔ j ∈ s.ing.deskewed)))

/-- ETHERNET_FRAME and the decode engines. A frame of an open port that fails its checks or names no stream is dropped with event 0x0251, once per port and
cue; PTP messages leave the streams alone; a datagram is heard by its key's streams alone. A free engine takes the oldest reassembled frame; its image ends the frame in
a sample, a bitstream error is event 0x0222 and status 3, and the budget's end is event 0x0221 and status 5 (R64, R70, R81, R85, R92).
SAMPLE_COMPLETE of the oldest sample that awaits its proof check: with its expected CRC it is complete now with its points and bytes; a wrong CRC is event
0x0230 and status 6; outcomes count in sample order, and the third failure in a row strikes the port with cause 7 after event 0x0232. STREAM_LOSS_TIMEOUT after 1.5 nominal periods is event 0x0240,
and the port reads LOST when all its streams are (R79, R81, R89, R90, R92, R93). -/
def Obligations.EthernetDecodesSamples : Prop :=
  (∀ (n : Nat) (k : Fin 4) (frame : List Byte) (ok : Bool) (offset : Int) (s : State),
     ((s.ethOn k = false ∨ s.portOpen ⟨16 + k.1, by omega⟩ = false) →
       exec (.ethernetFrame n k frame ok offset) s = .next (s.at n)) ∧
     (s.ethOn k = true → s.portOpen ⟨16 + k.1, by omega⟩ = true →
       ((ethParse ok frame = none ∨ ∃ src dst data, ethParse ok frame = some (.udp src dst data) ∧ dst ≠ 319 ∧ dst ≠ 320 ∧
           s.onKey k src dst = []) →
         (s.forme.loaded = true → (0x0251, 16 + k.1) ∉ s.log.once → Completes (.ethernetFrame n k frame ok offset) s fun t =>
           Newest t 0x0251 (unitId (.port ⟨16 + k.1, by omega⟩)) 0 ∧ t.ing = s.ing ∧ t.tb = s.tb) ∧
         ((s.forme.loaded = false ∨ (0x0251, 16 + k.1) ∈ s.log.once) → exec (.ethernetFrame n k frame ok offset) s = .next (s.at n))) ∧
       (((∃ m, ethParse ok frame = some (.gptp m)) ∨ ∃ src dst data, ethParse ok frame = some (.udp src dst data) ∧ (dst = 319 ∨ dst = 320)) →
         Completes (.ethernetFrame n k frame ok offset) s fun t => t.ing = s.ing) ∧
       (∀ src dst data, ethParse ok frame = some (.udp src dst data) → dst ≠ 319 → dst ≠ 320 → s.onKey k src dst ≠ [] → s.cue.running = false →
         exec (.ethernetFrame n k frame ok offset) s = .next (s.at n)) ∧
       (∀ src dst data, ethParse ok frame = some (.udp src dst data) → dst ≠ 319 → dst ≠ 320 → s.onKey k src dst ≠ [] → s.cue.running = true →
         Completes (.ethernetFrame n k frame ok offset) s fun t => t.tb = s.tb ∧
           (∀ i ∈ s.onKey k src dst, (t.ing.streams.get i).lossFrom = (s.at n).now) ∧
           ∀ i, i ∉ s.onKey k src dst → t.ing.streams.get i = s.ing.streams.get i)) ∧
     (∀ j q, s.ing.engines.get k = none → s.ing.jpegQ = j :: q → exec (.jpegDecodeStart n k) s = .next { s.at n with ing := { s.ing with
       jpegQ := q, engines := vmod s.ing.engines k fun _ => some { j with begun := (s.at n).now } } }) ∧
     ((s.ing.engines.get k ≠ none ∨ s.ing.jpegQ = []) → exec (.jpegDecodeStart n k) s = .next (s.at n)) ∧
     ∀ (i : Fin 32) c e j, s.stream i = some c → s.ing.engines.get e = some j → j.slot = i → s.portOpen (Fin.ofNat 20 c.portIdx) = true →
       (∀ g, (s.at n).now ≤ j.begun + us c.budget → jpegDecode j = some g → Completes (.decodeDone n i e) s fun t =>
         t.ing.engines.get e = none ∧ t.log = s.log ∧ ∃ x ∈ (t.ing.streams.get i).ready, x.id = j.id ∧ x.stamp = j.stamp ∧ x.status = 0 ∧
           x.bytes = jpegBytes c j.w j.h g s.free) ∧
       ((s.at n).now ≤ j.begun + us c.budget → jpegDecode j = none → Completes (.decodeDone n i e) s fun t => t.ing.engines.get e = none ∧
         Newest t 0x0222 idDecoder i.1 ∧ ∃ x ∈ (t.ing.streams.get i).ready, x.id = j.id ∧ x.status = 3) ∧
       (j.begun + us c.budget < (s.at n).now → Completes (.decodeDone n i e) s fun t => t.ing.engines.get e = none ∧
         Newest t 0x0221 idDecoder i.1 ∧ ∃ x ∈ (t.ing.streams.get i).ready, x.id = j.id ∧ x.status = 5) ∧
       (s.engineOf i = some (e, j) → j.begun + us c.budget ≤ (s.at n).now → Completes (.decodeBudgetExpiry n i) s fun t => t.ing.engines.get e = none ∧
         Newest t 0x0221 idDecoder i.1 ∧ ∃ x ∈ (t.ing.streams.get i).ready, x.id = j.id ∧ x.status = 5) ∧
       (s.engineOf i = some (e, j) → (s.at n).now < j.begun + us c.budget → exec (.decodeBudgetExpiry n i) s = .next (s.at n))) ∧
  ∀ (n : Nat) (i : Fin 32) (c : Stream) (k : Fin 20) (s : State), s.stream i = some c → k = Fin.ofNat 20 c.portIdx →
    (∀ x rest, (s.ing.streams.get i).ready = x :: rest → s.portOpen k = true → (s.unit (.port k)).mode ≠ .reRigging →
        (s.ing.streams.get i).outcomes = [] →
      ∀ w : State, w = { s with ing := { s.ing with streams := vmod s.ing.streams i fun r => { r with ready := rest } } } →
      (∀ crc, w.earlierOpen i x.id = true → Completes (.sampleComplete n i crc) s fun t => (t.ing.streams.get i).proofRun = (s.ing.streams.get i).proofRun ∧ t.units = s.units ∧
        (t.ing.streams.get i).outcomes = [(x.id, decide (crc = s.forme.proofCrc.getD i.1 0))]) ∧
      (w.earlierOpen i x.id = false →
      (x.status = 0 → x.test = true → Completes (.sampleComplete n i (s.forme.proofCrc.getD i.1 0)) s fun t =>
        (t.ing.streams.get i).ready = rest ∧ (t.ing.streams.get i).proofRun = 0 ∧ t.log = s.log ∧ t.units = s.units ∧
        ∀ y ∈ (s.ing.streams.get i).samples, y.id = x.id → y.status = 0 →
          { y with done := some (stampOf (s.at n).ns), points := x.points, bytes := x.bytes } ∈ (t.ing.streams.get i).samples) ∧
      (∀ crc, crc ≠ s.forme.proofCrc.getD i.1 0 → Completes (.sampleComplete n i crc) s fun t =>
        (t.ing.streams.get i).ready = rest ∧ (t.ing.streams.get i).proofRun = (s.ing.streams.get i).proofRun + 1 ∧
        Logs s t 0x0230 (s.portIdOf i) i.1 ∧
        (∀ y ∈ (t.ing.streams.get i).samples, y.id = x.id → y.status ≠ 0 ∧ y.done = none) ∧
        ((s.ing.streams.get i).proofRun = 2 → Logs s t 0x0232 (unitId (.port k)) 0 ∧ t.inServ (.port k) = false ∧
          Logs s t 0x0802 (unitId (.port k)) 7) ∧
        ((s.ing.streams.get i).proofRun ≠ 2 → t.units = s.units)))) ∧
    ((s.ing.streams.get i).ready = [] → ∀ crc, exec (.sampleComplete n i crc) s = .next (s.at n)) ∧
    (s.inServ (.port k) = true → (s.ing.streams.get i).lost = false → s.cue.count ≠ 0 →
      (s.ing.streams.get i).lossFrom + us c.period * 3 / 2 ≤ (s.at n).now → Completes (.streamLossTimeout n i) s fun t =>
        (t.ing.streams.get i).lost = true ∧ Newest t 0x0240 (unitId (.port k)) i.1 ∧ (∀ j, j ≠ i → t.ing.streams.get j = s.ing.streams.get j) ∧
        ((∀ j d, s.stream j = some d → d.portIdx = k.1 → j ≠ i → (s.ing.streams.get j).lost = true) →
          (s.unit (.port k)).mode ≠ .absent → (t.unit (.port k)).mode = .lost) ∧
        ((∃ j d, s.stream j = some d ∧ d.portIdx = k.1 ∧ j ≠ i ∧ (s.ing.streams.get j).lost = false) → t.units = s.units)) ∧
    ((s.inServ (.port k) = false ∨ (s.ing.streams.get i).lost = true ∨ s.cue.count = 0 ∨
      (s.at n).now < (s.ing.streams.get i).lossFrom + us c.period * 3 / 2) → exec (.streamLossTimeout n i) s = .next (s.at n))

/-! ### The SD card and its registers -/

/-- CMD0, CMD3, CMD5, CMD7, CMD11, CMD15, CMD19 and FUNCTION_READY_IN_IORX move a live card through its initialisation and selection; the completion of
CMD5 after a loss is event 0x0A05; a card without power, in RESET or inactive answers none of them (R421 to R424, R455). -/
def Obligations.CardCommands : Prop :=
  ∀ (n : Nat) (rca : W16) (ocr : BitVec 24) (s : State),
    (s.cardAlive = false → ∀ c, c = .cmd0 n ∨ c = .cmd3 n ∨ c = .cmd5 n ocr ∨ c = .cmd7 n rca ∨ c = .cmd11 n ∨ c = .cmd15 n rca ∨ c = .cmd19 n →
      exec c s = .next (s.at n)) ∧
    (s.cardAlive = true →
      (Completes (.cmd0 n) s fun t => t.port.card = { s.port.card with st := .idle, rca := 0, wide := false, tuned := false, resp := [],
                                                                       outOfRange := false }) ∧
      (s.port.card.st = .idle → ocr &&& ocrWindow = 0 → Completes (.cmd5 n ocr) s fun t => t.port.card.st = .idle ∧ t.port.card.resp = r4 false) ∧
      (s.port.card.st = .idle → ocr &&& ocrWindow ≠ 0 → Completes (.cmd5 n ocr) s fun t => t.port.card.st = .ready ∧ t.port.card.resp = r4 true ∧
        t.port.card.lost = false ∧ (s.port.card.lost = true → Newest t 0x0A05 idPort 0) ∧ (s.port.card.lost = false → t.log = s.log)) ∧
      (s.port.card.st = .ready ∨ s.port.card.st = .standby → Completes (.cmd3 n) s fun t => t.port.card.st = .standby ∧
        t.port.card.resp = (natLe 2 t.port.card.rca.toNat).reverse ++ [0, 0]) ∧
      (s.port.card.st = .standby → rca = s.port.card.rca → Completes (.cmd7 n rca) s fun t => t.port.card.st = .selected ∧ t.port.card.rca = rca) ∧
      (s.port.card.st = .selected → rca ≠ s.port.card.rca → Completes (.cmd7 n rca) s fun t => t.port.card = { s.port.card with st := .standby }) ∧
      (s.port.card.st = .ready → Completes (.cmd11 n) s fun t => t.port.card.v18 = true ∧ t.port.card.st = .ready) ∧
      ((s.port.card.st = .standby ∨ s.port.card.st = .selected) → rca = s.port.card.rca → Completes (.cmd15 n rca) s fun t =>
        t.port.card = { s.port.card with st := .inactive } ∧ t.cardAlive = false) ∧
      (s.port.card.st = .selected → s.port.card.v18 = true → Completes (.cmd19 n) s fun t => t.port.card.tuned = true ∧
        t.port.card.resp.length = 64) ∧
      (s.port.card.st ≠ .idle → exec (.cmd5 n ocr) s = .next (respond (r4 true) false (s.at n))) ∧
      (s.port.card.st ≠ .ready → s.port.card.st ≠ .standby → exec (.cmd3 n) s = .next (s.at n)) ∧
      ((s.port.card.st = .idle ∨ s.port.card.st = .ready ∨ (s.port.card.st = .standby ∧ rca ≠ s.port.card.rca) ∨
        (s.port.card.st = .selected ∧ rca = s.port.card.rca)) → exec (.cmd7 n rca) s = .next (s.at n)) ∧
      (s.port.card.st ≠ .ready → exec (.cmd11 n) s = .next (s.at n)) ∧
      ((s.port.card.st = .idle ∨ s.port.card.st = .ready ∨ rca ≠ s.port.card.rca) → exec (.cmd15 n rca) s = .next (s.at n)) ∧
      ((s.port.card.st ≠ .selected ∨ s.port.card.v18 = false) → exec (.cmd19 n) s = .next (s.at n))) ∧
    (∀ fn : Fin 4, (s.dev.st = .reset ∨ fn = 0 ∨ s.port.card.ioe.getLsbD fn.1 = false) → exec (.functionReadyInIorx n fn) s = .next (s.at n)) ∧
    (∀ fn : Fin 4, s.dev.st ≠ .reset → fn ≠ 0 → s.port.card.ioe.getLsbD fn.1 = true → Completes (.functionReadyInIorx n fn) s fun t =>
      t.port.card.ior.getLsbD fn.1 = true ∧ ∀ k, k ≠ fn.1 → t.port.card.ior.getLsbD k = s.port.card.ior.getLsbD k)

/-- PROTO_VERSIONS.ACTIVE returns to 0x00 at RESET and when the host port loses the card's initialisation, by RES in the CCCR or its pad supply, and takes the
chosen version 1 in the step that issues its reply to HELLO (R29). -/
def Obligations.ActiveVersion : Prop :=
  (∀ (c : Instr) (s t : State), mayReset c = true → exec c s = .next t → s.dev.st ≠ .reset → t.dev.st = .reset → t.dev.proto = 0) ∧
  ∀ (n : Nat) (s : State),
    (s.selected = true → Completes (.cccrResWrite n) s fun t => t.dev.proto = 0 ∧ t.port.card.lost = true) ∧
    (s.selected = true → ∀ v : Byte, v.getLsbD 3 = true → Completes (.cmd52 n 0 6 (some v)) s fun t =>
      t.dev.proto = 0 ∧ t.port.card.lost = true) ∧
    (s.chip.powered = true → s.chip.resetN = false → s.dev.st ≠ .reset → Completes (.sdPadSupplyLoss n) s fun t =>
      t.dev.proto = 0 ∧ t.port.card.lost = true) ∧
    (∀ m, s.head? (fun x => x = 0x0001) = some m → 2 ≤ m.payload.length → u8 m.payload 0 ≤ 1 → 1 ≤ u8 m.payload 1 →
      Completes (.hello n) s fun t => t.dev.proto = 1 ∧ Replies s t m m.session stOk [1] ∧ Logs s t 0x0A01 idPort 1) ∧
    (∀ m, s.head? (fun x => x = 0x0001) = some m → (m.payload.length < 2 ∨ 1 < u8 m.payload 0 ∨ u8 m.payload 1 < 1) →
      Completes (.hello n) s fun t => t.dev.proto = s.dev.proto ∧
        Replies s t m m.session (if m.payload.length < 2 then stInvalid else stVersion) [0]) ∧
    (s.head? (fun x => x = 0x0001) = none → exec (.hello n) s = .next (s.at n))

/-- A selected card's registers: what R423 lists as out of range is answered OUT_OF_RANGE and moves nothing; a register's snapshot is taken at its lowest byte and
its other bytes read from it; HF_IRQ and CUE_STATUS bits clear where a 1 is written, but for one set in that cycle; a completed HF_CONTROL ends the discarding of blocks; the key of CURTAIN_TEST is
taken or event 0x070C; CMD53 acts byte by byte. A card not selected moves nothing (R5, R9, R10, R350, R423, R426, R429, R432). -/
def Obligations.RegisterWindow : Prop :=
  ∀ (n : Nat) (b x y z : Byte) (a : BitVec 17) (s : State),
    (s.selected = false → ∀ c, c = .cmd52 n 0 a none ∨ c = .cmd52 n 1 a (some b) ∨ c = .cmd53F0 n 0 true false a.toNat 1 [b] ∨
        c = .cmd53F1 n a 1 none ∨ c = .f1SnapshotRead n a ∨ c = .f1RegisterWrite n a b ∨ c = .hfIrqClear n [(0, b)] ∨
        c = .cueStatusClear n [(1, b)] ∨ c = .curtainTestWrite n [(0, b)] ∨ c = .rxResync n [(0, b)] → exec c s = .next (s.at n)) ∧
    (s.selected = true →
      (∀ (fn : Fin 8) v, 2 ≤ fn.1 → exec (.cmd52 n fn a v) s = .next (respond (r5 true 0) true (s.at n))) ∧
      (∀ (fn : Fin 4) w bm ad cnt data, cmd53Oor s fn w bm ad = true → exec (.cmd53F0 n fn w bm ad cnt data) s =
        .next (respond (r5 true 0) true (s.at n))) ∧
      (∀ cnt, a.toNat + cnt ≤ 0x20000 → Completes (.cmd53F0 n 0 false false a.toNat cnt []) s fun t => t.port.card.resp.length = cnt ∧
        t.dev = s.dev) ∧
      (∀ base len k s', regOf a.toNat = some (base, len) → a.toNat = base → 1 < len → k < len → s'.selected = true →
        Completes (.f1SnapshotRead n a) s fun t => t.port.card.resp = [(regBytes (s.at n) base len).getD 0 0] ∧
          (s'.port.snap = t.port.snap → regOf (base + k) = some (base, len) → base + k < 2 ^ 17 → 0 < k →
            Completes (.f1SnapshotRead n (BitVec.ofNat 17 (base + k))) s' fun t' =>
              t'.port.card.resp = [(regBytes (s.at n) base len).getD k 0] ∧ t'.port.snap = t.port.snap)) ∧
      (∀ v, Completes (.cmd53F1 n a 1 none) s fun t => t.port.card.resp.length = 1 ∧
        (Completes (.cmd52 n 1 a none) s fun t' => t'.port.card.resp = r5 false (t.port.card.resp.getD 0 0)) ∧
        Completes (.cmd53F1 n a 1 (some [v])) s fun t' => Completes (.f1RegisterWrite n a v) s fun u =>
          t'.cue = u.cue ∧ t'.cur = u.cur ∧ t'.acctWin = u.acctWin ∧ t'.port.irq = u.port.irq ∧ t'.port.hold = u.port.hold ∧ t'.log = u.log) ∧
      (Completes (.hfIrqClear n [(0, b), (1, x), (2, y), (3, z)]) s fun t => t.port.irq = s.port.irq &&& (~~~(b.setWidth 7) ||| (s.at n).irqFresh) ∧
        t.port.hold = none ∧ t.cue = s.cue) ∧
      (Completes (.cueStatusClear n [(0, x), (1, b), (2, y), (3, z)]) s fun t =>
        t.cue = { s.cue with faultSeen := s.cue.faultSeen && (!b.getLsbD 0 || (s.at n).seenFresh.getLsbD 0)
                             lateSeen := s.cue.lateSeen && (!b.getLsbD 1 || (s.at n).seenFresh.getLsbD 1) }) ∧
      (Completes (.rxResync n [(0, b), (1, x), (2, y), (3, z)]) s fun t => t.port.irqPin = b.getLsbD 0 ∧
        t.port.rxDiscard = (s.port.rxDiscard && !b.getLsbD 1)) ∧
      ((s.dev.st = .running ∨ s.dev.st = .degraded) → s.forme.rules.test = true → s.cur.testPending = false →
        Completes (.curtainTestWrite n [(0, 0xC5), (1, x), (2, y), (3, z)]) s fun t => t.cur = { s.cur with testPending := true } ∧ t.log = s.log) ∧
      (¬((s.dev.st = .running ∨ s.dev.st = .degraded) ∧ s.forme.rules.test = true ∧ s.cur.testPending = false) →
        Completes (.curtainTestWrite n [(0, 0xC5), (1, x), (2, y), (3, z)]) s fun t => t.cur = s.cur ∧ Newest t 0x070C idCurtain 1))

/-- ACCT_SELECT: in the step that completes its write, the window takes the chosen client's three accounts and ACCT_INFO, all of one state; an unlisted client
leaves it, and no other byte written to the window, and no command that neither writes the window nor resets the part, changes it (R292, R7). -/
def Obligations.AccountCapture : Prop :=
  (∀ (n : Nat) (lo hi : Byte) (client : Nat) (s : State), s.selected = true → client = hi.toNat % 8 * 256 + lo.toNat →
    (client < 1056 → Completes (.acctSelectWrite n [(0, lo), (1, hi)]) s fun t => t.acctWin.sel = BitVec.ofNat 16 client ∧
      t.acctWin.cyc = (s.acctOf client).cyc ∧ t.acctWin.bytes = (s.acctOf client).bytes ∧
      t.acctWin.energy = BitVec.ofNat 64 ((s.acctOf client).pj / 1000) ∧ t.acctWin.info = BitVec.ofNat 32 (acctInfo s client) ∧
      t.accts = s.accts) ∧
    (1056 ≤ client → Completes (.acctSelectWrite n [(0, lo), (1, hi)]) s fun t => t.acctWin = s.acctWin ∧ t.port.hold = none)) ∧
  (∀ (c : Instr) (s t : State), exec c s = .next t → Field.acctWin ∉ fieldsOf c → t.acctWin = s.acctWin) ∧
  ∀ (a : Nat) (v : Byte) (s : State), a ≠ 0x4001 → (f1WriteByte a v s).acctWin = s.acctWin

/-- F3_BLOCK_READ of a selected card: the next blocks of the send queue in order, a read may end inside a message; blocks beyond the queue,
which HF_TX_AVAIL bounds, read as zero bytes and do not advance HF_TX_READ; a message leaves the queue when its last block has been read (R428). -/
def Obligations.SendQueueReads : Prop :=
  ∀ (n k : Nat) (s : State), s.selected = true → s.port.card.fbr.get 3 = 512 → (∀ m ∈ s.port.tx, 0 < msgBlocks m) →
    (∀ m rest, s.port.tx = m :: rest → s.port.txDone < msgBlocks m) → (s.port.tx = [] → s.port.txDone = 0) →
    Completes (.f3BlockRead n k) s fun t =>
      t.port.card.resp = (s.unread.take k).flatten ++ List.replicate (512 * (k - s.unread.length)) 0 ∧
      t.port.txRead = s.port.txRead + BitVec.ofNat 32 (min k s.unread.length) ∧ t.unread = s.unread.drop k ∧ t.port.tx <:+ s.port.tx ∧
      (∀ m rest, t.port.tx = m :: rest → t.port.txDone < msgBlocks m) ∧ (t.port.tx = [] → t.port.txDone = 0) ∧
      (s.port.txAvail = s.port.txRead + BitVec.ofNat 32 s.unread.length →
        t.port.txAvail = s.port.txAvail ∧ t.port.txAvail = t.port.txRead + BitVec.ofNat 32 t.unread.length)

/-- F2_BLOCK_WRITE of an accepted block counts it; discarded blocks return their credit; a block beyond the credit, a bad length or version, or a bad CRC
at a message's end is a framing failure, which drops the message, discards from then on and queues RX_ERROR; a good last block completes a message, and any other joins it.
HOST_MESSAGE_TIMEOUT drops a message 100 ms old (R427, R430 to R432). -/
def Obligations.BlocksIn : Prop :=
  ∀ (n : Nat) (block bs : List Byte) (held len : Nat) (s : State), bs = s.port.cur ++ block → held = s.port.cur.length / 512 → len = uN 3 bs 3 →
    ((s.selected = false ∨ s.port.card.fbr.get 2 ≠ 512 ∨ block.length ≠ 512) → ∀ ok, exec (.f2BlockWrite n ok block) s = .next (s.at n)) ∧
    exec (.f2BlockWrite n false block) s = .next (s.at n) ∧
    (s.selected = true → s.port.card.fbr.get 2 = 512 → block.length = 512 →
      (Completes (.f2BlockWrite n true block) s fun t => t.port.rxCount = s.port.rxCount + 1 ∧ t.port.w = s.port.w + 1 ∧
        (s.port.rxDiscard = true → t.port.credit = s.port.credit + 1 ∧ t.port.ready = s.port.ready ∧ t.port.cur = s.port.cur ∧ t.log = s.log)) ∧
      (s.port.rxDiscard = false → ∀ code detail, (precedes s.port.w s.port.credit = false ∧ code = 0x0A06 ∧ detail = 0) ∨
          (precedes s.port.w s.port.credit = true ∧ held = 0 ∧ (bs.getD 0 0 = 0 ∨ maxPayload < len) ∧ code = 0x0A02 ∧ detail = 1) ∨
          (precedes s.port.w s.port.credit = true ∧ ¬(held = 0 ∧ (bs.getD 0 0 = 0 ∨ maxPayload < len)) ∧ 16 + len ≤ bs.length ∧
            u32 bs 12 ≠ (crc32 (bs.take 12 ++ [0, 0, 0, 0] ++ sub bs 16 len)).toNat ∧ code = 0x0A02 ∧ detail = 0) →
        Completes (.f2BlockWrite n true block) s fun t => Newest t code idPort detail ∧ t.port.cur = [] ∧ t.port.rxDiscard = true ∧
          t.port.ready = s.port.ready ∧ t.port.credit = s.port.credit + BitVec.ofNat 32 (held + 1) ∧
          t.port.tx.length = s.port.tx.length + 1) ∧
      (s.port.rxDiscard = false → precedes s.port.w s.port.credit = true → ¬(held = 0 ∧ (bs.getD 0 0 = 0 ∨ maxPayload < len)) →
        (16 + len ≤ bs.length → u32 bs 12 = (crc32 (bs.take 12 ++ [0, 0, 0, 0] ++ sub bs 16 len)).toNat →
          Completes (.f2BlockWrite n true block) s fun t => t.port.cur = [] ∧ t.log = s.log ∧ t.port.credit = s.port.credit ∧
            t.port.ready = s.port.ready ++ [{ version := bs.getD 0 0, typ := u16 bs 1, seq := BitVec.ofNat 16 (u16 bs 6)
                                              session := BitVec.ofNat 32 (u32 bs 8), payload := sub bs 16 len, blocks := held + 1 }]) ∧
        (bs.length < 16 + len → Completes (.f2BlockWrite n true block) s fun t => t.port.cur = bs ∧ t.port.ready = s.port.ready ∧
          t.log = s.log ∧ t.port.curAt = (if held = 0 then (s.at n).now else s.port.curAt)))) ∧
    (s.port.cur ≠ [] → s.port.curAt + us 100000 ≤ (s.at n).now → Completes (.hostMessageTimeout n) s fun t => Newest t 0x0A04 idPort 0 ∧
      t.port.cur = [] ∧ t.port.rxDiscard = true ∧ t.port.ready = s.port.ready ∧ t.port.credit = s.port.credit + BitVec.ofNat 32 held) ∧
    ((s.port.cur = [] ∨ (s.at n).now < s.port.curAt + us 100000) → exec (.hostMessageTimeout n) s = .next (s.at n))

/-! ### Messages -/

/-- A message a row takes, its version and its states: without one at the head nothing happens; another version than the active one is answered
VERSION_MISMATCH, and a message outside its states WRONG_STATE, with no other effect than handing it on (R434, R435, R437). -/
def Obligations.MessagesTurnedAway : Prop :=
  ∀ (n typ : Nat) (c : Instr) (ok : State → Bool) (s : State),
    (c, typ) ∈ [(Instr.sessionOpen n, 0x0010), (.sessionInput n, 0x0011), (.sessionClose n, 0x0012), (.abort n, 0x0013), (.keepCreate n, 0x0014),
      (.keepRelease n, 0x0015), (.start n, 0x0020), (.maintenanceEnter n, 0x0021), (.maintenanceEnd n, 0x0022), (.updateDirectory n, 0x0023),
      (.updateData n, 0x0024), (.attest n, 0x0026), (.tensorRead n, 0x0030), (.traceRead n, 0x0031), (.countersRead n, 0x0032)] →
    ok = (if typ < 0x0020 then State.cogState else if typ = 0x0020 then State.startWait else if typ = 0x0021 then State.mayMaintain
      else if typ < 0x0026 then State.maintaining else if typ = 0x0030 ∨ typ = 0x0031 then State.running? else fun _ => true) →
    (s.head? (fun x => x = typ) = none → exec c s = .next (s.at n)) ∧
    ∀ m, s.head? (fun x => x = typ) = some m →
      (s.versionOk m = false → Completes c s fun t => Replies s t m m.session stVersion [] ∧ t.cog = s.cog ∧ t.dev = s.dev ∧ t.upd = s.upd ∧
        t.ufs = s.ufs ∧ t.sched = s.sched) ∧
      (s.versionOk m = true → ok s = false → Completes c s fun t => Replies s t m m.session stState [] ∧ t.cog = s.cog ∧ t.dev = s.dev ∧
        t.upd = s.upd ∧ t.ufs = s.ufs ∧ t.sched = s.sched)

/-- A type that the catalogue does not list is answered NOT_SUPPORTED with no other effect, and event 0x0A03 carries its low byte; in a SAFE_HOLD without a
running forme every message is turned away with WRONG_STATE (R436, R26). -/
def Obligations.UnsupportedMessages : Prop :=
  ∀ (n : Nat) (s : State),
    (s.head? (fun x => decide (x ∉ catalogueTypes)) = none → exec (.unsupportedMessage n) s = .next (s.at n)) ∧
    (∀ m, s.head? (fun x => decide (x ∉ catalogueTypes)) = some m → s.dev.bare = false → Completes (.unsupportedMessage n) s fun t =>
      Replies s t m m.session stUnsupported [] ∧ Newest t 0x0A03 idPort (m.typ % 256) ∧
      ∀ f : Field, f ≠ .log → f ≠ .port → Same s t f) ∧
    ∀ m, s.head? (fun x => decide (x ∉ catalogueTypes)) = some m → s.dev.bare = true → Completes (.unsupportedMessage n) s fun t =>
      Replies s t m m.session stState []

/-- SESSION_OPEN of a fresh session, or of one that begins with the first positions of a parent or keep, takes the lowest free slot under its next generation and clears its
accounts; a bad parent is event 0x0C05 and a lack of slots or leaves event 0x0C04; SESSION_INPUT queues an idle session with its prompt, or holds up to four, within
Pmax; SESSION_CLOSE closes it; ABORT at the next draw position returns it to IDLE with event 0x0610, and below it is answered ALREADY_COMMITTED with event 0x0611;
KEEP_CREATE and KEEP_RELEASE make and drop a keep; a malformed record is answered INVALID, a stale handle CLOSED_SESSION (R202, R204 to R208, R213, R306, R439). -/
def Obligations.SessionMessages : Prop :=
  ∀ (n : Nat) (m : Msg) (s : State), s.versionOk m = true → s.cogState = true →
    (s.head? (fun x => x = 0x0010) = some m →
      (openOk s m.payload = false → Completes (.sessionOpen n) s fun t => Replies s t m m.session stInvalid [] ∧ t.cog = s.cog) ∧
      ∀ o src, openOk s m.payload = true → o = readOpen m.payload → src = (if o.parent = 0 then some (o.play, [], 0) else s.parentOf o) →
        ((src = none ∨ ∃ pl leaves len, src = some (pl, leaves, len) ∧ o.parent ≠ 0 ∧ (pl ≠ o.play ∨ o.pre = 0 ∨ len < o.pre)) →
          Completes (.sessionOpen n) s fun t => Replies s t m m.session stInvalid [] ∧ Logs s t 0x0C05 idStage 0 ∧ t.cog = s.cog) ∧
        ∀ leaves len take, src = some (o.play, leaves, len) → (o.parent ≠ 0 → 0 < o.pre ∧ o.pre ≤ len) →
          take = leaves.take (leavesFor o.pre) →
          ((s.freeSlot = none ∨ storeSize < s.storeUsed + take.length) → Completes (.sessionOpen n) s fun t =>
            Replies s t m m.session stResource [] ∧ Logs s t 0x0C04 idStage 0 ∧ t.cog = s.cog) ∧
          ∀ slot, s.freeSlot = some slot → s.storeUsed + take.length ≤ storeSize → Completes (.sessionOpen n) s fun t =>
            ∃ x ∈ t.cog.sess, x.slot = slot ∧ x.st = .idle ∧ x.play = o.play ∧ x.seed = o.seed ∧ x.committed = o.pre ∧ x.leaves = take ∧
              x.gen = nextGen (((s.cog.sess.find? fun x => x.slot = slot).map Session.gen).getD 0) ∧
              Replies s t m x.handle stOk (natLe 4 x.handle.toNat) ∧ (∀ y ∈ t.cog.sess, y.slot = slot → y = x) ∧
              ∀ a ∈ t.accts, a.client ≠ slot) ∧
    (∀ x, s.head? (fun x => x = 0x0011) = some m → s.session? m.session = some x →
      (inputOk (s.extraRows x.play) m.payload = false → Completes (.sessionInput n) s fun t =>
        Replies s t m m.session stInvalid [] ∧ t.cog = s.cog) ∧
      ∀ i total, inputOk (s.extraRows x.play) m.payload = true → i = readInput (s.extraRows x.play) m.payload →
        total = x.committed + x.pending + (x.held.map fun h => h.tokens.length).sum + i.tokens.length →
        ((x.full = true ∨ (s.limits x.play).pmax < total) → Completes (.sessionInput n) s fun t =>
          Replies s t m m.session stLimit [] ∧ t.cog = s.cog) ∧
        (x.full = false → total ≤ (s.limits x.play).pmax →
          (x.st = .idle → Completes (.sessionInput n) s fun t => Replies s t m m.session stOk [] ∧
            ∀ y ∈ t.cog.sess, y.slot = x.slot → y.st = .queued ∧ y.prompt = some i) ∧
          (x.st ≠ .idle → x.held.length < 4 → Completes (.sessionInput n) s fun t => Replies s t m m.session stOk [] ∧
            t.cog.sess = lmod (fun y => y.slot = x.slot) (fun y => { y with held := y.held ++ [i] }) s.cog.sess) ∧
          (x.st ≠ .idle → 4 ≤ x.held.length → Completes (.sessionInput n) s fun t => Replies s t m m.session stBusy [] ∧ t.cog = s.cog))) ∧
    (∀ x, s.head? (fun x => x = 0x0012) = some m → s.session? m.session = some x → Completes (.sessionClose n) s fun t =>
      Replies s t m m.session stOk [] ∧ ∀ y ∈ t.cog.sess, y.slot = x.slot → y.st = .closed ∧ y.leaves = []) ∧
    (∀ x, s.head? (fun x => x = 0x0013) = some m → s.session? m.session = some x →
      ((m.payload.length < 4 ∨ x.nextDraw < u32 m.payload 0) → Completes (.abort n) s fun t =>
        Replies s t m m.session stInvalid [] ∧ t.cog = s.cog) ∧
      (4 ≤ m.payload.length → u32 m.payload 0 = x.nextDraw → Completes (.abort n) s fun t => Replies s t m m.session stOk [] ∧ Logs s t 0x0610 idStage (x.slot % 256) ∧
        ∀ y ∈ t.cog.sess, y.slot = x.slot → y.st = .idle ∧ y.prompt = none ∧ y.held = []) ∧
      (4 ≤ m.payload.length → u32 m.payload 0 < x.nextDraw → Completes (.abort n) s fun t => Replies s t m m.session stCommitted [] ∧
        Logs s t 0x0611 idStage (x.slot % 256) ∧ t.cog = s.cog)) ∧
    (∀ x, s.head? (fun x => x = 0x0014) = some m → s.session? m.session = some x →
      (m.payload.length < 4 → Completes (.keepCreate n) s fun t => Replies s t m m.session stInvalid [] ∧ t.cog = s.cog) ∧
      (4 ≤ m.payload.length → (u32 m.payload 0 = 0 ∨ x.committed < u32 m.payload 0) → Completes (.keepCreate n) s fun t =>
        Replies s t m m.session stInvalid [] ∧ t.cog = s.cog) ∧
      (4 ≤ m.payload.length → 0 < u32 m.payload 0 → u32 m.payload 0 ≤ x.committed → ∀ take, take = x.leaves.take (leavesFor (u32 m.payload 0)) →
        ((s.freeKeep = none ∨ storeSize < s.storeUsed + take.length) → Completes (.keepCreate n) s fun t =>
          Replies s t m m.session stResource [] ∧ Logs s t 0x0C07 idStage 0 ∧ t.cog = s.cog) ∧
        ∀ slot, s.freeKeep = some slot → s.storeUsed + take.length ≤ storeSize → Completes (.keepCreate n) s fun t =>
          ∃ k ∈ t.cog.keeps, k.slot = slot ∧ k.live = true ∧ k.play = x.play ∧ k.len = u32 m.payload 0 ∧ k.leaves = take ∧
            Replies s t m m.session stOk (natLe 4 k.id.toNat))) ∧
    (s.head? (fun x => x = 0x0015) = some m →
      (m.payload.length < 4 → Completes (.keepRelease n) s fun t => Replies s t m m.session stInvalid [] ∧ t.cog = s.cog) ∧
      (4 ≤ m.payload.length → s.keep? (BitVec.ofNat 32 (u32 m.payload 0)) = none → Completes (.keepRelease n) s fun t =>
        Replies s t m m.session stClosed [] ∧ t.cog = s.cog) ∧
      ∀ k, 4 ≤ m.payload.length → s.keep? (BitVec.ofNat 32 (u32 m.payload 0)) = some k → Completes (.keepRelease n) s fun t =>
        Replies s t m m.session stOk [] ∧ ∀ y ∈ t.cog.keeps, y.slot = k.slot → y.live = false) ∧
    (∀ c typ, (c, typ) ∈ [(Instr.sessionInput n, 0x0011), (.sessionClose n, 0x0012), (.abort n, 0x0013), (.keepCreate n, 0x0014)] →
      s.head? (fun x => x = typ) = some m → s.session? m.session = none → Completes c s fun t =>
        Replies s t m m.session stClosed [] ∧ t.cog = s.cog)

/-- START places the start while START_WAIT; MAINTENANCE_ENTER acts at its place in BLANK and waits for the boundary elsewhere; ATTEST replies with the
signed record and event 0x090A; TENSOR_READ with the latest commit, TRACE_READ with the press's ring and COUNTERS_READ with the 862 words change nothing else; a
malformed record is answered INVALID and what is not there NOT_AVAILABLE, a poisoned value of a safety play being a detection (R107, R257, R261, R409, R411, R413,
R437, R439). -/
def Obligations.DeviceMessages : Prop :=
  ∀ (n : Nat) (m : Msg) (s : State), s.versionOk m = true →
    (s.head? (fun x => x = 0x0020) = some m → s.startWait = true → Completes (.start n) s fun t =>
      t.dev = { s.dev with startPlaced := true } ∧ Replies s t m m.session stOk []) ∧
    (s.head? (fun x => x = 0x0021) = some m → s.dev.st = .blank → s.dev.faultN = false → Completes (.maintenanceEnter n) s fun t =>
      t.dev.st = .maintenance ∧ Stopped t ∧ (∀ i ∈ t.sched.insts, i.st = .committed ∨ i.st = .abandoned) ∧ (∀ x ∈ t.cog.sess, x.st = .closed) ∧ t.cue.running = false ∧
      Logs s t 0x0905 idSecurity DevState.blank.code ∧ Replies s t m m.session stOk []) ∧
    (s.head? (fun x => x = 0x0021) = some m → s.dev.st.cues = true → s.dev.faultN = false → Completes (.maintenanceEnter n) s fun t =>
      t.dev.st = s.dev.st ∧ t.dev.maint.length = s.dev.maint.length + 1 ∧ t.port.tx = s.port.tx ∧ t.sched = s.sched) ∧
    (s.head? (fun x => x = 0x0026) = some m → 32 ≤ m.payload.length → Completes (.attest n) s fun t =>
      Replies s t m m.session stOk (attestRecord (s.at n) (m.payload.take 32) ++ edSign s.ident.seed (attestRecord (s.at n) (m.payload.take 32)) ++
        s.ident.serial ++ s.ident.cert) ∧ Newest t 0x090A idSecurity 0 ∧ t.fuses = s.fuses) ∧
    (∀ pl x v, s.head? (fun x => x = 0x0030) = some m → s.running? = true → 20 ≤ m.payload.length → zeros m.payload 1 4 = true →
      s.play? (u8 m.payload 0) = some pl → pl.tensors[u32 m.payload 4]? = some x → (x.kind = 0 ∨ x.kind = 2 ∨ x.kind = 5) →
      u32 m.payload 16 ≤ 262096 → u64 m.payload 8 + u32 m.payload 16 ≤ x.size →
      s.tensorValue (u8 m.payload 0) (u32 m.payload 4) x.kind = some v → s.lostPart v (u64 m.payload 8) (u32 m.payload 16) = none →
      Completes (.tensorRead n) s fun t =>
        Replies s t m m.session stOk (natLe 8 v.run ++ natLe 4 v.serial.toNat ++ [0, 0, 0, 0] ++
          ((padBytes x.size v.bytes).drop (u64 m.payload 8)).take (u32 m.payload 16)) ∧ t.sched = s.sched) ∧
    (∀ pl x, s.head? (fun x => x = 0x0030) = some m → s.running? = true → 20 ≤ m.payload.length → zeros m.payload 1 4 = true →
      s.play? (u8 m.payload 0) = some pl → pl.tensors[u32 m.payload 4]? = some x → u32 m.payload 16 ≤ 262096 →
      u64 m.payload 8 + u32 m.payload 16 ≤ x.size → s.tensorValue (u8 m.payload 0) (u32 m.payload 4) x.kind = none →
      (x.kind = 0 → Completes (.tensorRead n) s fun t => Replies s t m m.session stAvail [] ∧ t.sched = s.sched) ∧
      ((x.kind = 2 ∨ x.kind = 5) → Completes (.tensorRead n) s fun t =>
        Replies s t m m.session stOk (List.replicate (16 + u32 m.payload 16) 0) ∧ t.sched = s.sched)) ∧
    (∀ pl x v a, s.head? (fun x => x = 0x0030) = some m → s.running? = true → 20 ≤ m.payload.length → zeros m.payload 1 4 = true →
      s.play? (u8 m.payload 0) = some pl → pl.kind ≤ 1 → pl.tensors[u32 m.payload 4]? = some x → (x.kind = 0 ∨ x.kind = 2) →
      u32 m.payload 16 ≤ 262096 → u64 m.payload 8 + u32 m.payload 16 ≤ x.size →
      s.tensorValue (u8 m.payload 0) (u32 m.payload 4) x.kind = some v → s.lostPart v (u64 m.payload 8) (u32 m.payload 16) = some a →
      Completes (.tensorRead n) s fun t => Replies s t m m.session stAvail [] ∧ Detected s t) ∧
    (s.head? (fun x => x = 0x0030) = some m → s.running? = true → (m.payload.length < 20 ∨ zeros m.payload 1 4 = false ∨
        262096 < u32 m.payload 16 ∨ s.play? (u8 m.payload 0) = none ∨ ∃ pl, s.play? (u8 m.payload 0) = some pl ∧
          (pl.tensors[u32 m.payload 4]? = none ∨ ∃ x, pl.tensors[u32 m.payload 4]? = some x ∧
            (x.size < u64 m.payload 8 + u32 m.payload 16 ∨ ¬(x.kind = 0 ∨ x.kind = 2 ∨ x.kind = 5)))) →
      Completes (.tensorRead n) s fun t => Replies s t m m.session stInvalid [] ∧ t.sched = s.sched) ∧
    (s.head? (fun x => x = 0x0026) = some m → m.payload.length < 32 → Completes (.attest n) s fun t =>
      Replies s t m m.session stInvalid [] ∧ t.fuses = s.fuses) ∧
    (s.head? (fun x => x = 0x0031) = some m → s.running? = true → (m.payload.length < 1 ∨ 16 ≤ u8 m.payload 0) →
      Completes (.traceRead n) s fun t => Replies s t m m.session stInvalid [] ∧ t.press = s.press) ∧
    (∀ k : Fin 16, s.head? (fun x => x = 0x0031) = some m → s.running? = true → 1 ≤ m.payload.length → u8 m.payload 0 = k.1 →
      (s.forme.tracing = false ∨ (s.press.get k).ran = false) → Completes (.traceRead n) s fun t =>
        Replies s t m m.session stAvail [] ∧ t.press = s.press) ∧
    (∀ k : Fin 16, s.head? (fun x => x = 0x0031) = some m → s.running? = true → 1 ≤ m.payload.length → u8 m.payload 0 = k.1 →
      s.forme.tracing = true → (s.press.get k).ran = true → Completes (.traceRead n) s fun t =>
        Replies s t m m.session stOk (natLe 2 (if (s.press.get k).traced ≤ 256 then 0 else (s.press.get k).traced % 256) ++
          List.replicate 6 0 ++ padBytes 8192 ((s.press.get k).trace.reverse.flatMap TraceRec.bytes)) ∧ t.press = s.press) ∧
    (s.head? (fun x => x = 0x0032) = some m → Completes (.countersRead n) s fun t =>
      Replies s t m m.session stOk (counterBytes s.mem) ∧ t.mem = s.mem)

/-- Updates. UPDATE_DIRECTORY that passes checks 1 to 4 writes its directory and erases the old colophon, and one that fails, or comes while an update is active,
writes nothing; UPDATE_DATA writes the next bytes of a needed section, whose digest is compared at its end, and any other is answered INVALID; UPDATE_KEEP_VERIFIED
judges a candidate by its digest; the last section kept or written completes the update, with its colophon and a reset, unless its key or rollback no longer holds;
MAINTENANCE_END resets the part, or interrupts an active update with event 0x0909, as UPDATE_IDLE_TIMEOUT after 60 s does (R414 to R418). -/
def Obligations.UpdatesWriteAfterChecks : Prop :=
  (∀ (n : Nat) (m : Msg) (s : State), s.versionOk m = true → s.dev.st = .maintenance →
    (s.head? (fun x => x = 0x0023) = some m →
      (s.upd.active = true → Completes (.updateDirectory n) s fun t => Replies s t m m.session stState [] ∧ t.ufs = s.ufs ∧
        t.upd = { s.upd with last := (s.at n).now }) ∧
      (s.upd.active = false → (m.payload.length < 4096 ∨ m.payload.length < dirLength m.payload + 4096) → Completes (.updateDirectory n) s fun t =>
        Replies s t m m.session stInvalid [] ∧ t.ufs = s.ufs ∧ t.upd = s.upd) ∧
      ∀ dir, s.upd.active = false → 4096 ≤ m.payload.length → dirLength m.payload + 4096 ≤ m.payload.length →
        dir = m.payload.take (dirLength m.payload) →
        (checks1to4 s.fuses.settled s.ident.rootDigest dir (sub m.payload (dirLength m.payload) 4096) = none →
          Completes (.updateDirectory n) s fun t => t.upd.active = true ∧ t.upd.dir = dir ∧ t.upd.sections = readSections dir ∧
            t.upd.colophon = sub m.payload (dirLength m.payload) 4096 ∧ (∀ x ∈ t.upd.states, x = .candidate ∨ x = .needed) ∧
            t.ufs = cellsWrite (if headerValid (cellsRead s.ufs 0 4096) then
              cellsWrite s.ufs (u64 (cellsRead s.ufs 0 4096) 16 - 4096) (List.replicate 4096 0) else s.ufs) 0 dir) ∧
        (∀ c d, checks1to4 s.fuses.settled s.ident.rootDigest dir (sub m.payload (dirLength m.payload) 4096) = some (c, d) →
          Completes (.updateDirectory n) s fun t => Replies s t m m.session (updateStatus c) [] ∧ t.ufs = s.ufs ∧ t.upd = s.upd)) ∧
    (s.head? (fun x => x = 0x0024) = some m → ∀ i data, i = u8 m.payload 0 → data = m.payload.drop 16 →
      (∀ x got ufs, s.upd.active = true → s.upd.sections[i]? = some x → s.upd.states[i]? = some .needed → got = s.upd.received.getD i 0 →
        16 ≤ m.payload.length → zeros m.payload 1 8 = true → u64 m.payload 8 = got → ufs = cellsWrite s.ufs (x.offset + got) data →
        (got + data.length < x.length → data.length % 4096 = 0 → Completes (.updateData n) s fun t =>
          Replies s t m m.session stOk (natLe 8 (got + data.length)) ∧ t.ufs = ufs ∧ t.upd.last = (s.at n).now ∧
          t.upd.received = s.upd.received.set i (got + data.length) ∧ t.upd.states = s.upd.states) ∧
        (got + data.length = x.length → x.hash ufs ≠ x.digest → Completes (.updateData n) s fun t =>
          Replies s t m m.session stDigest [] ∧ t.ufs = ufs ∧ t.upd.states = s.upd.states ∧ t.upd.active = true) ∧
        (got + data.length = x.length → x.hash ufs = x.digest → (∃ j y, j ≠ i ∧ s.upd.states[j]? = some y ∧ y ≠ .kept ∧ y ≠ .written) →
          Completes (.updateData n) s fun t => Replies s t m m.session stOk (natLe 8 x.length) ∧ Logs s t 0x0906 idSecurity i ∧
            t.ufs = ufs ∧ t.upd.states = s.upd.states.set i .written)) ∧
      ((s.upd.sections[i]? = none ∨ s.upd.states[i]? ≠ some .needed ∨ m.payload.length < 16 ∨ s.upd.active = false ∨ zeros m.payload 1 8 = false ∨
          u64 m.payload 8 ≠ s.upd.received.getD i 0 ∨ ∃ x, s.upd.sections[i]? = some x ∧ (x.length < s.upd.received.getD i 0 + data.length ∨
            (data.length % 4096 ≠ 0 ∧ s.upd.received.getD i 0 + data.length ≠ x.length))) →
        Completes (.updateData n) s fun t => Replies s t m m.session stInvalid [] ∧ t.ufs = s.ufs ∧ t.upd.states = s.upd.states)) ∧
    (s.head? (fun x => x = 0x0022) = some m →
      (s.upd.active = false → Completes (.maintenanceEnd n) s fun t => ResetTo s t ∧ t.dev.st = .reset ∧ t.chip.resetN = false) ∧
      (s.upd.active = true → Completes (.maintenanceEnd n) s fun t => Replies s t m m.session stOk [] ∧ t.dev.st = .blank ∧
        t.dev.cause = 0x0D#8 ∧ t.dev.detail = 1 ∧ t.upd.active = false ∧ Newest t 0x0909 idSecurity 1))) ∧
  ∀ (n : Nat) (pos : Fin 256) (s : State),
    ((s.upd.active = false ∨ s.upd.states[pos.1]? ≠ some .candidate ∨ s.upd.sections[pos.1]? = none) →
      exec (.updateKeepVerified n pos) s = .next (s.at n)) ∧
    (∀ x, s.upd.active = true → s.upd.states[pos.1]? = some .candidate → s.upd.sections[pos.1]? = some x →
      (x.hash s.ufs ≠ x.digest → Completes (.updateKeepVerified n pos) s fun t => t.upd.states = s.upd.states.set pos.1 .needed ∧
        t.ufs = s.ufs ∧ t.log = s.log) ∧
      (x.hash s.ufs = x.digest → (∃ j y, j ≠ pos.1 ∧ s.upd.states[j]? = some y ∧ y ≠ .kept ∧ y ≠ .written) →
        Completes (.updateKeepVerified n pos) s fun t => t.upd.states = s.upd.states.set pos.1 .kept ∧ Newest t 0x0907 idSecurity pos.1 ∧
          t.ufs = s.ufs) ∧
      (x.hash s.ufs = x.digest → (∀ j y, j ≠ pos.1 → s.upd.states[j]? = some y → y = .kept ∨ y = .written) → ∀ ok : Bool,
        ok = (keyAccepted s.fuses.settled s.ident.rootDigest (u8 s.upd.colophon 8) (sub s.upd.colophon 80 32) &&
          decide (s.fuses.settled.rollback ≤ (readHeader s.upd.dir).rollback)) →
        (ok = true → Completes (.updateKeepVerified n pos) s fun t => t.dev.st = .reset ∧
          t.ufs = cellsWrite s.ufs (u64 s.upd.dir 16 - 4096) s.upd.colophon ∧ t.upd.active = false) ∧
        (ok = false → Completes (.updateKeepVerified n pos) s fun t => t.dev.st = .blank ∧ t.dev.cause = 0x0D#8 ∧ t.dev.detail = 4 ∧
          t.upd.active = false ∧ t.ufs = s.ufs ∧ Newest t 0x0909 idSecurity 4))) ∧
    (s.upd.active = true → s.upd.last + us 60000000 ≤ (s.at n).now → Completes (.updateIdleTimeout n) s fun t => t.dev.st = .blank ∧
      t.dev.cause = 0x0D#8 ∧ t.dev.detail = 2 ∧ t.upd.active = false ∧ Newest t 0x0909 idSecurity 2) ∧
    ((s.upd.active = false ∨ (s.at n).now < s.upd.last + us 60000000) → exec (.updateIdleTimeout n) s = .next (s.at n))

/-! ### Pins and registers at reset -/

/-- While the curtain runs its pins carry a waveform of 50 oscillator cycles: CURTAIN_A high in cycles 1 to 24, CURTAIN_B in 26 to 49, one cycle with both low at
each transition, and never both high; it begins at cycle 0 when the curtain starts, and a stopped curtain holds both low (R333). -/
def Obligations.CurtainWaveform : Prop :=
  (∀ c : Nat, curtainWave (c + 50) = curtainWave c ∧ curtainWave c ≠ (true, true) ∧
    ((curtainWave c).1 = true ↔ 1 ≤ c % 50 ∧ c % 50 ≤ 24) ∧ ((curtainWave c).2 = true ↔ 26 ≤ c % 50 ∧ c % 50 ≤ 49) ∧
    (curtainWave c ≠ (false, false) → curtainWave (c + 1) = curtainWave c ∨
      (curtainWave (c + 1) = (false, false) ∧ curtainWave (c + 2) = ((curtainWave c).2, (curtainWave c).1)))) ∧
  (∀ s : State, s.chip.powered = true → s.chip.resetN = false → s.cur.running = true →
    s.curtainPins = curtainWave ((s.now - s.cur.startedAt) / 4)) ∧
  (∀ s : State, s.cur.running = false → s.curtainPins = (false, false)) ∧
  ∀ (c : Instr) (s t : State), exec c s = .next t → s.cur.running = false → t.cur.running = true → t.cur.startedAt = t.now

/-- What reset leaves: RESET with no cause but the section 0xFF, no cue, the curtain stopped with cause 0x01, empty queues with 1,024 blocks of credit, every unit in
service, no fuse blown in it, an empty log and accounts, zero counters and memories with nothing listed (R22, R254, R291, R311, R333, R349, R371, R410, R427). -/
def Obligations.ResetValues : Prop :=
  State.reset.dev.st = .reset ∧ State.reset.dev.prev = .reset ∧ State.reset.dev.cause = 0 ∧ State.reset.dev.sect = 0xFF ∧
    State.reset.dev.proto = 0 ∧ State.reset.dev.faultN = false ∧ State.reset.cue.count = 0 ∧ State.reset.cue.running = false ∧
    State.reset.cur.running = false ∧ State.reset.cur.cause = 1 ∧ State.reset.cur.drops = 0 ∧ State.reset.port.credit = 0x400 ∧
    State.reset.port.rxCount = 0 ∧ State.reset.port.txAvail = 0 ∧ State.reset.port.irq = 0 ∧ State.reset.log.head = 0 ∧
    State.reset.log.recs = [] ∧ State.reset.accts = [] ∧ State.reset.mem.cells = [] ∧ State.reset.pending = [] ∧
    (∀ u : UnitId, (State.reset.unit u).mode = .inService ∧ (State.reset.unit u).strikes = 0) ∧
    (∀ p : Fin 16, (State.reset.press.get p).queue = [] ∧ (State.reset.press.get p).live = none) ∧ State.reset.curtainPins = (false, false)
end

