-- ==== Sys2Proof/Laws/Keeps.lean ====
section
/-! SUPPORT. What every command keeps: the relation between the states before and after, its composition, and the canonical form of a
memory under writes. -/

namespace Sys2Proof.Machine

/-! ### The canonical form of a memory -/

/-- Every listed address lies above `a`. -/
theorem wf_cons {a : Nat} {b : Byte} {l : List Host.Cell} :
    Memory.wf ((a, b) :: l) = true ↔ b ≠ 0 ∧ (∀ c ∈ l.head?, a < c.1) ∧ Memory.wf l = true := by
  cases l with
  | nil => simp [Memory.wf]
  | cons c r => simp [Memory.wf, and_assoc]

/-- The first address of a written memory is the old first one or the address written. -/
theorem cellWrite_head {l : List Host.Cell} {a : Nat} {b : Byte} {c : Host.Cell} (h : c ∈ (cellWrite l a b).head?) {k : Nat}
    (ha : k < a) (hl : ∀ d ∈ l.head?, k < d.1) (hw : Memory.wf l = true) : k < c.1 := by
  cases l with
  | nil => unfold cellWrite at h; split at h <;> simp at h; subst h; exact ha
  | cons d r =>
    obtain ⟨x, v⟩ := d
    have hx : k < x := hl (x, v) (by simp)
    have hr : ∀ e ∈ r.head?, k < e.1 := fun e he => Nat.lt_trans hx ((wf_cons.1 hw).2.1 e he)
    unfold cellWrite at h
    split at h
    · split at h <;> simp at h <;> subst h <;> assumption
    · split at h
      · split at h
        · exact hr c h
        · simp at h; subst h; exact ha
      · simp at h; subst h; exact hx

/-- A byte written keeps the canonical form. -/
theorem cellWrite_wf (l : List Host.Cell) (a : Nat) (b : Byte) (h : Memory.wf l = true) : Memory.wf (cellWrite l a b) = true := by
  induction l with
  | nil => unfold cellWrite; split <;> simp_all [Memory.wf]
  | cons d r ih =>
    obtain ⟨x, v⟩ := d
    obtain ⟨hv, hd, hr⟩ := wf_cons.1 h
    unfold cellWrite
    split
    · next hlt => split
                  · exact h
                  · next hb => exact wf_cons.2 ⟨hb, by simpa using hlt, h⟩
    · next hge =>
      split
      · next he =>
        subst he
        split
        · exact hr
        · next hb => exact wf_cons.2 ⟨hb, hd, hr⟩
      · next hne => exact wf_cons.2 ⟨hv, fun c hc => cellWrite_head hc (by omega) hd hr, ih hr⟩

/-- Cells after the first of a canonical list lie above it. -/
theorem wf_above {a : Nat} {b : Byte} {l : List Host.Cell} (h : Memory.wf ((a, b) :: l) = true) : ∀ c ∈ l, a < c.1 := by
  induction l generalizing a b with
  | nil => simp
  | cons d r ih =>
    obtain ⟨x, y⟩ := d
    obtain ⟨_, hd, hr⟩ := wf_cons.1 h
    have hx : a < x := hd (x, y) rfl
    intro c hc
    rcases List.mem_cons.1 hc with rfl | hc
    · exact hx
    · exact Nat.lt_trans hx (ih hr c hc)

/-- Cells taken out leave the canonical form. -/
theorem filter_wf (f : Host.Cell → Bool) (l : List Host.Cell) (h : Memory.wf l = true) : Memory.wf (l.filter f) = true := by
  induction l with
  | nil => rfl
  | cons d r ih =>
    obtain ⟨x, y⟩ := d
    have hr := (wf_cons.1 h).2.2
    rw [List.filter_cons]
    split
    · exact wf_cons.2 ⟨(wf_cons.1 h).1, fun c hc => wf_above h c (List.mem_of_mem_filter (List.mem_of_mem_head? hc)), ih hr⟩
    · exact ih hr

/-- Bytes written keep the canonical form. -/
theorem cellsWrite_wf (bs : List Byte) (l : List Host.Cell) (a : Nat) (h : Memory.wf l = true) :
    Memory.wf (cellsWrite l a bs) = true := by
  induction bs generalizing l a with
  | nil => exact h
  | cons b bs ih => exact ih _ _ (cellWrite_wf _ _ _ h)

/-- Reading a table after one entry is replaced. -/
theorem vmod_get {α : Type} {n : Nat} (v : Vector α n) (i j : Fin n) (f : α → α) :
    (vmod v i f).get j = if i = j then f (v.get i) else v.get j := by
  simp only [vmod, Vector.get_eq_getElem, Vector.getElem_set, Fin.ext_iff]

/-! ### The relation -/

/-- Fuses only ever blow: the rollback counter, the debug lock and the enrolled and revoke bits of the slots (R401, R404). -/
structure FusesRise (f g : Fuses) : Prop where
  rollback : f.rollback ≤ g.rollback
  lock : f.debugLock = true → g.debugLock = true
  enrolled : ∀ k : Fin 4, (f.slots.get k).enrolled = true → (g.slots.get k).enrolled = true
  revoked : ∀ k : Fin 4, (f.slots.get k).revoked = true → (g.slots.get k).revoked = true

theorem FusesRise.refl (f : Fuses) : FusesRise f f := ⟨Nat.le_refl _, id, fun _ => id, fun _ => id⟩

theorem FusesRise.trans {f g h : Fuses} (a : FusesRise f g) (b : FusesRise g h) : FusesRise f h :=
  ⟨Nat.le_trans a.1 b.1, b.2 ∘ a.2, fun k => b.3 k ∘ a.3 k, fun k => b.4 k ∘ a.4 k⟩

/-- What a command keeps: the queue, the part's identity, the canonical form of both byte stores and the stop latch over a running
curtain; time never runs back, fuses only blow, and the curtain does not start. -/
structure Keeps (s t : State) : Prop where
  queue : t.pending = s.pending
  time : s.now ≤ t.now
  ident : t.ident = s.ident
  fuses : FusesRise s.fuses t.fuses
  cells : Memory.wf s.mem.cells = true → Memory.wf t.mem.cells = true
  ufs : Memory.wf s.ufs = true → Memory.wf t.ufs = true
  start : t.cur.running = true → s.cur.running = true
  latch : (s.cur.running = true → s.cur.latch = false) → t.cur.running = true → t.cur.latch = false

/-- What every command keeps: all of it but that the curtain does not start. -/
structure Holds (s t : State) : Prop where
  queue : t.pending = s.pending
  time : s.now ≤ t.now
  ident : t.ident = s.ident
  fuses : FusesRise s.fuses t.fuses
  cells : Memory.wf s.mem.cells = true → Memory.wf t.mem.cells = true
  ufs : Memory.wf s.ufs = true → Memory.wf t.ufs = true
  latch : (s.cur.running = true → s.cur.latch = false) → t.cur.running = true → t.cur.latch = false

theorem Keeps.holds {s t : State} (h : Keeps s t) : Holds s t := ⟨h.1, h.2, h.3, h.4, h.5, h.6, h.8⟩

theorem Keeps.refl (s : State) : Keeps s s := ⟨rfl, Nat.le_refl _, rfl, .refl _, id, id, id, id⟩

theorem Keeps.trans {s t u : State} (a : Keeps s t) (b : Keeps t u) : Keeps s u :=
  ⟨b.1.trans a.1, Nat.le_trans a.2 b.2, b.3.trans a.3, a.4.trans b.4, b.5 ∘ a.5, b.6 ∘ a.6, a.7 ∘ b.7, b.8 ∘ a.8⟩

/-- A state that differs elsewhere only. -/
theorem Keeps.same {s t u : State} (h : Keeps s t) (e1 : u.pending = t.pending) (e2 : u.now = t.now) (e3 : u.ident = t.ident)
    (e4 : u.fuses = t.fuses) (e5 : u.mem.cells = t.mem.cells) (e6 : u.ufs = t.ufs) (e7 : u.cur.running = t.cur.running)
    (e8 : u.cur.latch = t.cur.latch) : Keeps s u :=
  ⟨e1.trans h.1, e2 ▸ h.2, e3.trans h.3, e4 ▸ h.4, e5 ▸ h.5, e6 ▸ h.6, e7 ▸ h.7, e7 ▸ e8 ▸ h.8⟩

/-- A record update that leaves the queue and the identity, and of the rest what the relation asks. -/
theorem Keeps.upd {s t : State} {x_now : Nat} {x_arb : Arbiter} {x_free : Nat} {x_fuses : Fuses} {x_chip : Chip} {x_dev : Dev}
    {x_upd : Upd}
    {x_ufs : List Host.Cell} {x_ufsCap : Nat} {x_forme : Forme} {x_tb : TimeBase} {x_cue : Cue} {x_log : Log}
    {x_units : Vector UnitRec 59} {x_cur : Curtain} {x_cls : List Classif} {x_sched : Sched} {x_cog : Cog}
    {x_part : Vector PartRt 8} {x_accts : List Acct} {x_acctWin : AcctWin} {x_mem : Mem} {x_press : Vector Press 16}
    {x_ing : Ingest} {x_port : Port} {x_gov : Gov} {x_overruns : List (Fin 100)}
    (h : Keeps s t) (e2 : t.now ≤ x_now) (e4 : FusesRise t.fuses x_fuses)
    (e5 : Memory.wf t.mem.cells = true → Memory.wf x_mem.cells = true) (e6 : Memory.wf t.ufs = true → Memory.wf x_ufs = true)
    (e7 : x_cur.running = true → t.cur.running = true)
    (e8 : (t.cur.running = true → t.cur.latch = false) → x_cur.running = true → x_cur.latch = false) :
    Keeps s (State.mk t.pending x_now x_arb x_free t.ident x_fuses x_chip x_dev x_upd x_ufs x_ufsCap x_forme x_tb x_cue x_log x_units
      x_cur x_cls x_sched x_cog x_part x_accts x_acctWin x_mem x_press x_ing x_port x_gov x_overruns) :=
  h.trans ⟨rfl, e2, rfl, e4, e5, e6, e7, e8⟩

/-- A record update that leaves the queue, time, identity, fuses, both byte stores and the curtain. -/
theorem Keeps.rest {s t : State} {x_arb : Arbiter} {x_free : Nat} {x_chip : Chip} {x_dev : Dev} {x_upd : Upd} {x_ufsCap : Nat}
    {x_forme : Forme}
    {x_tb : TimeBase} {x_cue : Cue} {x_log : Log} {x_units : Vector UnitRec 59} {x_cls : List Classif} {x_sched : Sched}
    {x_cog : Cog} {x_part : Vector PartRt 8} {x_accts : List Acct} {x_acctWin : AcctWin} {x_press : Vector Press 16}
    {x_ing : Ingest} {x_port : Port} {x_gov : Gov} {x_overruns : List (Fin 100)} (h : Keeps s t) :
    Keeps s (State.mk t.pending t.now x_arb x_free t.ident t.fuses x_chip x_dev x_upd t.ufs x_ufsCap x_forme x_tb x_cue x_log x_units
      t.cur x_cls x_sched x_cog x_part x_accts x_acctWin t.mem x_press x_ing x_port x_gov x_overruns) :=
  h.trans ⟨rfl, Nat.le_refl _, rfl, .refl _, id, id, id, id⟩

/-- The state of a pair whose pair is known. -/
theorem Keeps.snd {α : Type} {s t : State} {p : α × State} {a : α} (h : Keeps s p.2) (e : p = (a, t)) : Keeps s t := by
  subst e; exact h

theorem Keeps.fst {α : Type} {s t : State} {p : State × α} {a : α} (h : Keeps s p.1) (e : p = (t, a)) : Keeps s t := by
  subst e; exact h

theorem Keeps.trd {α β : Type} {s t : State} {p : α × β × State} {a : α} {b : β} (h : Keeps s p.2.2) (e : p = (a, b, t)) :
    Keeps s t := by
  subst e; exact h

theorem Keeps.foldl {α : Type} {s t : State} (l : List α) (f : State → α → State) (h : Keeps s t)
    (hf : ∀ u a, Keeps s u → Keeps s (f u a)) : Keeps s (l.foldl f t) := by
  induction l generalizing t with
  | nil => exact h
  | cons a l ih => exact ih (hf _ _ h)

/-- Both branches of a choice. -/
theorem Keeps.ite {s t u : State} {c : Prop} [Decidable c] (a : Keeps s t) (b : Keeps s u) : Keeps s (if c then t else u) := by
  split <;> assumption

/-- A command's outcome keeps them, if it is a next state. -/
def OutKeeps (s : State) : Host.Outcome State Fault Refusal → Prop
  | .next t => Keeps s t
  | .fault _ => True
  | .refused _ => True

/-- The same of the weaker relation. -/
def OutHolds (s : State) : Host.Outcome State Fault Refusal → Prop
  | .next t => Holds s t
  | .fault _ => True
  | .refused _ => True

theorem OutKeeps.holds {s : State} {o : Host.Outcome State Fault Refusal} (h : OutKeeps s o) : OutHolds s o := by
  cases o with
  | next t => exact Keeps.holds h
  | fault f => trivial
  | refused r => trivial

theorem OutKeeps.next {s t : State} (h : Keeps s t) : OutKeeps s (.next t) := h

theorem OutKeeps.refused {s : State} {r : Refusal} : OutKeeps s (.refused r) := trivial

theorem OutKeeps.ite {s : State} {o p : Host.Outcome State Fault Refusal} {c : Prop} [Decidable c] (a : OutKeeps s o)
    (b : OutKeeps s p) : OutKeeps s (if c then o else p) := by
  split <;> assumption

end Sys2Proof.Machine
end

