-- ==== Sys2Proof/Laws/Apart.lean ====
section
/-! SUPPORT. Frames: which fields of the state an operation can change, and how such frames compose. -/

namespace Sys2Proof.Machine

/-- Two states agree on every field outside a set. -/
structure Apart (m : Field → Bool) (s t : State) : Prop where
  same : ∀ f, m f = false → Same s t f

variable {m : Field → Bool} {s t u : State}

theorem Apart.refl (m : Field → Bool) (s : State) : Apart m s s := by
  refine ⟨fun f _ => ?_⟩
  cases f <;> rfl

theorem Apart.trans (a : Apart m s t) (b : Apart m t u) : Apart m s u := by
  refine ⟨fun f hf => ?_⟩
  have ha := a.same f hf
  have hb := b.same f hf
  cases f <;> exact Eq.trans hb ha

/-- A larger set of fields. -/
theorem Apart.mono {n : Field → Bool} (a : Apart m s t) (h : ∀ f, m f = true → n f = true) : Apart n s t := by
  refine ⟨fun f hf => a.same f ?_⟩
  cases e : m f with
  | false => rfl
  | true => rw [h f e] at hf; cases hf

/-- A record update: each field is in the set or as before. -/
theorem Apart.record {x_now : Nat} {x_arb : Arbiter} {x_free : Nat} {x_ident : Ident} {x_fuses : Fuses} {x_chip : Chip} {x_dev :
    Dev} {x_upd : Upd}
    {x_ufs : List Host.Cell} {x_ufsCap : Nat} {x_forme : Forme} {x_tb : TimeBase} {x_cue : Cue} {x_log : Log} {x_units : Vector
    UnitRec 59} {x_cur : Curtain} {x_cls : List Classif} {x_sched : Sched} {x_cog : Cog} {x_part : Vector PartRt 8} {x_accts :
    List Acct} {x_acctWin : AcctWin} {x_mem : Mem} {x_press : Vector Press 16} {x_ing : Ingest} {x_port : Port} {x_gov : Gov}
    {x_overruns : List (Fin 100)} (h : Apart m s t) (e_free : m .free = true ∨ x_free = t.free) (e_ident : m .ident = true ∨
    x_ident = t.ident) (e_fuses : m .fuses = true ∨ x_fuses = t.fuses) (e_chip : m .chip = true ∨ x_chip = t.chip) (e_dev : m
    .dev = true ∨ x_dev = t.dev) (e_upd : m .upd = true ∨ x_upd = t.upd) (e_ufs : m .ufs = true ∨ x_ufs = t.ufs) (e_ufsCap : m
    .ufsCap = true ∨ x_ufsCap = t.ufsCap) (e_forme : m .forme = true ∨ x_forme = t.forme) (e_tb : m .tb = true ∨ x_tb = t.tb)
    (e_cue : m .cue = true ∨ x_cue = t.cue) (e_log : m .log = true ∨ x_log = t.log) (e_units : m .units = true ∨ x_units =
    t.units) (e_cur : m .cur = true ∨ x_cur = t.cur) (e_cls : m .cls = true ∨ x_cls = t.cls) (e_sched : m .sched = true ∨
    x_sched = t.sched) (e_cog : m .cog = true ∨ x_cog = t.cog) (e_part : m .part = true ∨ x_part = t.part) (e_accts : m .accts =
    true ∨ x_accts = t.accts) (e_acctWin : m .acctWin = true ∨ x_acctWin = t.acctWin) (e_mem : m .mem = true ∨ x_mem = t.mem)
    (e_press : m .press = true ∨ x_press = t.press) (e_ing : m .ing = true ∨ x_ing = t.ing) (e_port : m .port = true ∨ x_port =
    t.port) (e_gov : m .gov = true ∨ x_gov = t.gov) (e_overruns : m .overruns = true ∨ x_overruns = t.overruns) : Apart m s
    (State.mk t.pending x_now x_arb x_free x_ident x_fuses x_chip x_dev x_upd x_ufs x_ufsCap x_forme x_tb x_cue x_log x_units x_cur
    x_cls x_sched x_cog x_part x_accts x_acctWin x_mem x_press x_ing x_port x_gov x_overruns) := by
  refine h.trans ⟨fun f hf => ?_⟩
  cases f
  · exact e_free.resolve_left (by rw [hf]; exact Bool.false_ne_true)
  · exact e_ident.resolve_left (by rw [hf]; exact Bool.false_ne_true)
  · exact e_fuses.resolve_left (by rw [hf]; exact Bool.false_ne_true)
  · exact e_chip.resolve_left (by rw [hf]; exact Bool.false_ne_true)
  · exact e_dev.resolve_left (by rw [hf]; exact Bool.false_ne_true)
  · exact e_upd.resolve_left (by rw [hf]; exact Bool.false_ne_true)
  · exact e_ufs.resolve_left (by rw [hf]; exact Bool.false_ne_true)
  · exact e_ufsCap.resolve_left (by rw [hf]; exact Bool.false_ne_true)
  · exact e_forme.resolve_left (by rw [hf]; exact Bool.false_ne_true)
  · exact e_tb.resolve_left (by rw [hf]; exact Bool.false_ne_true)
  · exact e_cue.resolve_left (by rw [hf]; exact Bool.false_ne_true)
  · exact e_log.resolve_left (by rw [hf]; exact Bool.false_ne_true)
  · exact e_units.resolve_left (by rw [hf]; exact Bool.false_ne_true)
  · exact e_cur.resolve_left (by rw [hf]; exact Bool.false_ne_true)
  · exact e_cls.resolve_left (by rw [hf]; exact Bool.false_ne_true)
  · exact e_sched.resolve_left (by rw [hf]; exact Bool.false_ne_true)
  · exact e_cog.resolve_left (by rw [hf]; exact Bool.false_ne_true)
  · exact e_part.resolve_left (by rw [hf]; exact Bool.false_ne_true)
  · exact e_accts.resolve_left (by rw [hf]; exact Bool.false_ne_true)
  · exact e_acctWin.resolve_left (by rw [hf]; exact Bool.false_ne_true)
  · exact e_mem.resolve_left (by rw [hf]; exact Bool.false_ne_true)
  · exact e_press.resolve_left (by rw [hf]; exact Bool.false_ne_true)
  · exact e_ing.resolve_left (by rw [hf]; exact Bool.false_ne_true)
  · exact e_port.resolve_left (by rw [hf]; exact Bool.false_ne_true)
  · exact e_gov.resolve_left (by rw [hf]; exact Bool.false_ne_true)
  · exact e_overruns.resolve_left (by rw [hf]; exact Bool.false_ne_true)

theorem Apart.now {x : Nat} (h : Apart m s t) : Apart m s { t with now := x } := by
  refine h.trans ⟨fun f _ => ?_⟩
  cases f <;> rfl

theorem Apart.arb {x : Arbiter} (h : Apart m s t) : Apart m s { t with arb := x } := by
  refine h.trans ⟨fun f _ => ?_⟩
  cases f <;> rfl

theorem Apart.free {x : Nat} (k : m .free = true) (h : Apart m s t) : Apart m s { t with free := x } := by
  refine h.trans ⟨fun f hf => ?_⟩
  cases f <;> first | rfl | (rw [k] at hf; cases hf)

theorem Apart.ident {x : Ident} (k : m .ident = true) (h : Apart m s t) : Apart m s { t with ident := x } := by
  refine h.trans ⟨fun f hf => ?_⟩
  cases f <;> first | rfl | (rw [k] at hf; cases hf)

theorem Apart.fuses {x : Fuses} (k : m .fuses = true) (h : Apart m s t) : Apart m s { t with fuses := x } := by
  refine h.trans ⟨fun f hf => ?_⟩
  cases f <;> first | rfl | (rw [k] at hf; cases hf)

theorem Apart.chip {x : Chip} (k : m .chip = true) (h : Apart m s t) : Apart m s { t with chip := x } := by
  refine h.trans ⟨fun f hf => ?_⟩
  cases f <;> first | rfl | (rw [k] at hf; cases hf)

theorem Apart.dev {x : Dev} (k : m .dev = true) (h : Apart m s t) : Apart m s { t with dev := x } := by
  refine h.trans ⟨fun f hf => ?_⟩
  cases f <;> first | rfl | (rw [k] at hf; cases hf)

theorem Apart.upd {x : Upd} (k : m .upd = true) (h : Apart m s t) : Apart m s { t with upd := x } := by
  refine h.trans ⟨fun f hf => ?_⟩
  cases f <;> first | rfl | (rw [k] at hf; cases hf)

theorem Apart.ufs {x : List Host.Cell} (k : m .ufs = true) (h : Apart m s t) : Apart m s { t with ufs := x } := by
  refine h.trans ⟨fun f hf => ?_⟩
  cases f <;> first | rfl | (rw [k] at hf; cases hf)

theorem Apart.ufsCap {x : Nat} (k : m .ufsCap = true) (h : Apart m s t) : Apart m s { t with ufsCap := x } := by
  refine h.trans ⟨fun f hf => ?_⟩
  cases f <;> first | rfl | (rw [k] at hf; cases hf)

theorem Apart.forme {x : Forme} (k : m .forme = true) (h : Apart m s t) : Apart m s { t with forme := x } := by
  refine h.trans ⟨fun f hf => ?_⟩
  cases f <;> first | rfl | (rw [k] at hf; cases hf)

theorem Apart.tb {x : TimeBase} (k : m .tb = true) (h : Apart m s t) : Apart m s { t with tb := x } := by
  refine h.trans ⟨fun f hf => ?_⟩
  cases f <;> first | rfl | (rw [k] at hf; cases hf)

theorem Apart.cue {x : Cue} (k : m .cue = true) (h : Apart m s t) : Apart m s { t with cue := x } := by
  refine h.trans ⟨fun f hf => ?_⟩
  cases f <;> first | rfl | (rw [k] at hf; cases hf)

theorem Apart.log {x : Log} (k : m .log = true) (h : Apart m s t) : Apart m s { t with log := x } := by
  refine h.trans ⟨fun f hf => ?_⟩
  cases f <;> first | rfl | (rw [k] at hf; cases hf)

theorem Apart.units {x : Vector UnitRec 59} (k : m .units = true) (h : Apart m s t) : Apart m s { t with units := x } := by
  refine h.trans ⟨fun f hf => ?_⟩
  cases f <;> first | rfl | (rw [k] at hf; cases hf)

theorem Apart.cur {x : Curtain} (k : m .cur = true) (h : Apart m s t) : Apart m s { t with cur := x } := by
  refine h.trans ⟨fun f hf => ?_⟩
  cases f <;> first | rfl | (rw [k] at hf; cases hf)

theorem Apart.cls {x : List Classif} (k : m .cls = true) (h : Apart m s t) : Apart m s { t with cls := x } := by
  refine h.trans ⟨fun f hf => ?_⟩
  cases f <;> first | rfl | (rw [k] at hf; cases hf)

theorem Apart.sched {x : Sched} (k : m .sched = true) (h : Apart m s t) : Apart m s { t with sched := x } := by
  refine h.trans ⟨fun f hf => ?_⟩
  cases f <;> first | rfl | (rw [k] at hf; cases hf)

theorem Apart.cog {x : Cog} (k : m .cog = true) (h : Apart m s t) : Apart m s { t with cog := x } := by
  refine h.trans ⟨fun f hf => ?_⟩
  cases f <;> first | rfl | (rw [k] at hf; cases hf)

theorem Apart.part {x : Vector PartRt 8} (k : m .part = true) (h : Apart m s t) : Apart m s { t with part := x } := by
  refine h.trans ⟨fun f hf => ?_⟩
  cases f <;> first | rfl | (rw [k] at hf; cases hf)

theorem Apart.accts {x : List Acct} (k : m .accts = true) (h : Apart m s t) : Apart m s { t with accts := x } := by
  refine h.trans ⟨fun f hf => ?_⟩
  cases f <;> first | rfl | (rw [k] at hf; cases hf)

theorem Apart.acctWin {x : AcctWin} (k : m .acctWin = true) (h : Apart m s t) : Apart m s { t with acctWin := x } := by
  refine h.trans ⟨fun f hf => ?_⟩
  cases f <;> first | rfl | (rw [k] at hf; cases hf)

theorem Apart.mem {x : Mem} (k : m .mem = true) (h : Apart m s t) : Apart m s { t with mem := x } := by
  refine h.trans ⟨fun f hf => ?_⟩
  cases f <;> first | rfl | (rw [k] at hf; cases hf)

theorem Apart.press {x : Vector Press 16} (k : m .press = true) (h : Apart m s t) : Apart m s { t with press := x } := by
  refine h.trans ⟨fun f hf => ?_⟩
  cases f <;> first | rfl | (rw [k] at hf; cases hf)

theorem Apart.ing {x : Ingest} (k : m .ing = true) (h : Apart m s t) : Apart m s { t with ing := x } := by
  refine h.trans ⟨fun f hf => ?_⟩
  cases f <;> first | rfl | (rw [k] at hf; cases hf)

theorem Apart.port {x : Port} (k : m .port = true) (h : Apart m s t) : Apart m s { t with port := x } := by
  refine h.trans ⟨fun f hf => ?_⟩
  cases f <;> first | rfl | (rw [k] at hf; cases hf)

theorem Apart.gov {x : Gov} (k : m .gov = true) (h : Apart m s t) : Apart m s { t with gov := x } := by
  refine h.trans ⟨fun f hf => ?_⟩
  cases f <;> first | rfl | (rw [k] at hf; cases hf)

theorem Apart.overruns {x : List (Fin 100)} (k : m .overruns = true) (h : Apart m s t) : Apart m s { t with overruns := x } := by
  refine h.trans ⟨fun f hf => ?_⟩
  cases f <;> first | rfl | (rw [k] at hf; cases hf)

/-- The state of a pair whose pair is known. -/
theorem Apart.snd {α : Type} {p : α × State} {a : α} (h : Apart m s p.2) (e : p = (a, t)) : Apart m s t := by
  subst e; exact h

theorem Apart.fst {α : Type} {p : State × α} {a : α} (h : Apart m s p.1) (e : p = (t, a)) : Apart m s t := by
  subst e; exact h

theorem Apart.trd {α β : Type} {p : α × β × State} {a : α} {b : β} (h : Apart m s p.2.2) (e : p = (a, b, t)) : Apart m s t := by
  subst e; exact h

theorem Apart.foldl {α : Type} (l : List α) (f : State → α → State) (h : Apart m s t) (hf : ∀ u a, Apart m s u → Apart m s (f u
    a)) :
    Apart m s (l.foldl f t) := by
  induction l generalizing t with
  | nil => exact h
  | cons a l ih => exact ih (hf _ _ h)

/-- Both branches of a choice. -/
theorem Apart.ite {c : Prop} [Decidable c] (a : Apart m s t) (b : Apart m s u) : Apart m s (if c then t else u) := by
  split <;> assumption

/-- A command's outcome leaves the fields outside a set, if it is a next state. -/
def OutApart (m : Field → Bool) (s : State) : Host.Outcome State Fault Refusal → Prop
  | .next t => Apart m s t
  | .fault _ => True
  | .refused _ => True

theorem OutApart.next (h : Apart m s t) : OutApart m s (.next t) := h

theorem OutApart.refused {r : Refusal} : OutApart m s (.refused r) := trivial

theorem OutApart.ite {o p : Host.Outcome State Fault Refusal} {c : Prop} [Decidable c] (a : OutApart m s o) (b : OutApart m s p) :
    OutApart m s (if c then o else p) := by
  split <;> assumption

end Sys2Proof.Machine
end

