-- ==== Sys2Proof/Laws/ApartOps.lean ====
section
/-! SUPPORT. Frames of the operations of Machine/Ops.lean. -/

namespace Sys2Proof.Machine

theorem State.at_apart {m : Field → Bool} {s0 s : State} {a1} (h : Apart m s0 s) : Apart m s0 (State.at s a1) := by
  unfold State.at
  try dsimp only
  repeat' first
    | with_reducible assumption
    | with_reducible refine OutApart.next ?_
    | with_reducible exact OutApart.refused
    | with_reducible refine Apart.foldl _ _ ?_ ?_
    | with_reducible refine Apart.ite ?_ ?_
    | with_reducible refine OutApart.ite ?_ ?_
    | (intro _)
    | split
    | with_reducible refine Apart.now ?_
    | with_reducible refine Apart.arb ?_
    | with_reducible apply Apart.record
    | with_reducible exact Or.inr rfl
    | with_reducible (refine Or.inl ?_)

theorem State.modPart_apart {m : Field → Bool} {s0 s : State} {a1 a2} (k_part : m .part = true) (h : Apart m s0 s) : Apart m s0
    (State.modPart a1 a2 s) := by
  unfold State.modPart
  try dsimp only
  repeat' first
    | with_reducible assumption
    | with_reducible refine OutApart.next ?_
    | with_reducible exact OutApart.refused
    | with_reducible refine Apart.foldl _ _ ?_ ?_
    | with_reducible refine Apart.ite ?_ ?_
    | with_reducible refine OutApart.ite ?_ ?_
    | (intro _)
    | split
    | with_reducible refine Apart.part ?_ ?_

theorem State.modUnit_apart {m : Field → Bool} {s0 s : State} {a1 a2} (k_units : m .units = true) (h : Apart m s0 s) : Apart m
    s0 (State.modUnit a1 a2 s) := by
  unfold State.modUnit
  try dsimp only
  repeat' first
    | with_reducible assumption
    | with_reducible refine OutApart.next ?_
    | with_reducible exact OutApart.refused
    | with_reducible refine Apart.foldl _ _ ?_ ?_
    | with_reducible refine Apart.ite ?_ ?_
    | with_reducible refine OutApart.ite ?_ ?_
    | (intro _)
    | split
    | with_reducible refine Apart.units ?_ ?_

theorem logEvent_apart {m : Field → Bool} {s0 s : State} {a1 a2 a3} (k_log : m .log = true) (h : Apart m s0 s) : Apart m s0
    (logEvent a1 a2 a3 s) := by
  unfold logEvent
  try dsimp only
  repeat' first
    | with_reducible assumption
    | with_reducible refine OutApart.next ?_
    | with_reducible exact OutApart.refused
    | with_reducible refine Apart.foldl _ _ ?_ ?_
    | with_reducible refine Apart.ite ?_ ?_
    | with_reducible refine OutApart.ite ?_ ?_
    | (intro _)
    | split
    | with_reducible refine Apart.arb ?_
    | with_reducible refine Apart.log ?_ ?_
    | with_reducible apply Apart.record
    | with_reducible exact Or.inr rfl
    | with_reducible (refine Or.inl ?_)

theorem irq_apart {m : Field → Bool} {s0 s : State} {a1} (k_port : m .port = true) (h : Apart m s0 s) : Apart m s0 (irq a1 s) :=
    by
  unfold irq
  try dsimp only
  repeat' first
    | with_reducible assumption
    | with_reducible refine OutApart.next ?_
    | with_reducible exact OutApart.refused
    | with_reducible refine Apart.foldl _ _ ?_ ?_
    | with_reducible refine Apart.ite ?_ ?_
    | with_reducible refine OutApart.ite ?_ ?_
    | (intro _)
    | split
    | with_reducible refine Apart.port ?_ ?_

theorem curtainStop_apart {m : Field → Bool} {s0 s : State} {a1 a2} (k_log : m .log = true) (k_cur : m .cur = true) (k_port : m
    .port = true) (h : Apart m s0 s) : Apart m s0 (curtainStop a1 a2 s) := by
  unfold curtainStop
  try dsimp only
  repeat' first
    | with_reducible assumption
    | with_reducible apply irq_apart
    | with_reducible apply logEvent_apart
    | with_reducible refine OutApart.next ?_
    | with_reducible exact OutApart.refused
    | with_reducible refine Apart.foldl _ _ ?_ ?_
    | with_reducible refine Apart.ite ?_ ?_
    | with_reducible refine OutApart.ite ?_ ?_
    | (intro _)
    | split
    | with_reducible refine Apart.cur ?_ ?_

theorem invalidate_apart {m : Field → Bool} {s0 s : State} {a1} (k_cue : m .cue = true) (k_sched : m .sched = true) (h : Apart m
    s0 s) : Apart m s0 (invalidate a1 s) := by
  unfold invalidate
  try dsimp only
  repeat' first
    | with_reducible assumption
    | with_reducible refine OutApart.next ?_
    | with_reducible exact OutApart.refused
    | with_reducible refine Apart.foldl _ _ ?_ ?_
    | with_reducible refine Apart.ite ?_ ?_
    | with_reducible refine OutApart.ite ?_ ?_
    | (intro _)
    | split
    | with_reducible refine Apart.cue ?_ ?_
    | with_reducible refine Apart.sched ?_ ?_
    | with_reducible apply Apart.record
    | with_reducible exact Or.inr rfl
    | with_reducible (refine Or.inl ?_)

theorem detect_apart {m : Field → Bool} {s0 s : State} {a1 a2} (k_cue : m .cue = true) (k_log : m .log = true) (k_cur : m .cur =
    true) (k_sched : m .sched = true) (k_port : m .port = true) (h : Apart m s0 s) : Apart m s0 (detect a1 a2 s) := by
  unfold detect
  try dsimp only
  repeat' first
    | with_reducible assumption
    | with_reducible apply curtainStop_apart
    | with_reducible apply invalidate_apart
    | with_reducible refine OutApart.next ?_
    | with_reducible exact OutApart.refused
    | with_reducible refine Apart.foldl _ _ ?_ ?_
    | with_reducible refine Apart.ite ?_ ?_
    | with_reducible refine OutApart.ite ?_ ?_
    | (intro _)
    | split

theorem setState_apart {m : Field → Bool} {s0 s : State} {a1} (k_dev : m .dev = true) (k_port : m .port = true) (h : Apart m s0
    s) : Apart m s0 (setState a1 s) := by
  unfold setState
  try dsimp only
  repeat' first
    | with_reducible assumption
    | with_reducible apply irq_apart
    | with_reducible refine OutApart.next ?_
    | with_reducible exact OutApart.refused
    | with_reducible refine Apart.foldl _ _ ?_ ?_
    | with_reducible refine Apart.ite ?_ ?_
    | with_reducible refine OutApart.ite ?_ ?_
    | (intro _)
    | split
    | with_reducible refine Apart.dev ?_ ?_

theorem enterBare_apart {m : Field → Bool} {s0 s : State} (k_dev : m .dev = true) (k_upd : m .upd = true) (k_log : m .log =
    true) (k_cur : m .cur = true) (k_sched : m .sched = true) (k_port : m .port = true) (h : Apart m s0 s) : Apart m s0
    (enterBare s) := by
  unfold enterBare
  try dsimp only
  repeat' first
    | with_reducible assumption
    | with_reducible apply logEvent_apart
    | with_reducible apply setState_apart
    | with_reducible refine OutApart.next ?_
    | with_reducible exact OutApart.refused
    | with_reducible refine Apart.foldl _ _ ?_ ?_
    | with_reducible refine Apart.ite ?_ ?_
    | with_reducible refine OutApart.ite ?_ ?_
    | (intro _)
    | split
    | with_reducible refine Apart.dev ?_ ?_
    | with_reducible refine Apart.upd ?_ ?_
    | with_reducible refine Apart.cur ?_ ?_
    | with_reducible refine Apart.sched ?_ ?_
    | with_reducible apply Apart.record
    | with_reducible exact Or.inr rfl
    | with_reducible (refine Or.inl ?_)

theorem deviceFault_apart {m : Field → Bool} {s0 s : State} {a1 a2} (k_dev : m .dev = true) (k_upd : m .upd = true) (k_cue : m
    .cue = true) (k_log : m .log = true) (k_cur : m .cur = true) (k_sched : m .sched = true) (k_port : m .port = true) (h :
    Apart m s0 s) : Apart m s0 (deviceFault a1 a2 s) := by
  unfold deviceFault
  try dsimp only
  repeat' first
    | with_reducible assumption
    | with_reducible apply logEvent_apart
    | with_reducible apply irq_apart
    | with_reducible apply detect_apart
    | with_reducible apply enterBare_apart
    | with_reducible refine OutApart.next ?_
    | with_reducible exact OutApart.refused
    | with_reducible refine Apart.foldl _ _ ?_ ?_
    | with_reducible refine Apart.ite ?_ ?_
    | with_reducible refine OutApart.ite ?_ ?_
    | (intro _)
    | split
    | with_reducible refine Apart.dev ?_ ?_

theorem logOnce_apart {m : Field → Bool} {s0 s : State} {a1 a2 a3 a4} (k_log : m .log = true) (h : Apart m s0 s) : Apart m s0
    (logOnce a1 a2 a3 a4 s) := by
  unfold logOnce
  try dsimp only
  repeat' first
    | with_reducible assumption
    | with_reducible apply logEvent_apart
    | with_reducible refine OutApart.next ?_
    | with_reducible exact OutApart.refused
    | with_reducible refine Apart.foldl _ _ ?_ ?_
    | with_reducible refine Apart.ite ?_ ?_
    | with_reducible refine OutApart.ite ?_ ?_
    | (intro _)
    | split
    | with_reducible refine Apart.log ?_ ?_

theorem enterBlank_apart {m : Field → Bool} {s0 s : State} {a1 a2 a3} (k_dev : m .dev = true) (k_port : m .port = true) (h :
    Apart m s0 s) : Apart m s0 (enterBlank a1 a2 a3 s) := by
  unfold enterBlank
  try dsimp only
  repeat' first
    | with_reducible assumption
    | with_reducible apply setState_apart
    | with_reducible refine OutApart.next ?_
    | with_reducible exact OutApart.refused
    | with_reducible refine Apart.foldl _ _ ?_ ?_
    | with_reducible refine Apart.ite ?_ ?_
    | with_reducible refine OutApart.ite ?_ ?_
    | (intro _)
    | split
    | with_reducible refine Apart.dev ?_ ?_

theorem noteSeen_apart {m : Field → Bool} {s0 s : State} {a1} (k_cue : m .cue = true) (h : Apart m s0 s) : Apart m s0 (noteSeen
    a1 s) := by
  unfold noteSeen
  try dsimp only
  repeat' first
    | with_reducible assumption
    | with_reducible refine OutApart.next ?_
    | with_reducible exact OutApart.refused
    | with_reducible refine Apart.foldl _ _ ?_ ?_
    | with_reducible refine Apart.ite ?_ ?_
    | with_reducible refine OutApart.ite ?_ ?_
    | (intro _)
    | split
    | with_reducible refine Apart.cue ?_ ?_

end Sys2Proof.Machine
end

