-- ==== Sys2Proof/Laws/ApartKill.lean ====
section
/-! SUPPORT. Frames of the operations of Machine/Kill.lean. -/

namespace Sys2Proof.Machine

theorem State.modInst_apart {m : Field → Bool} {s0 s : State} {a1 a2} (k_sched : m .sched = true) (h : Apart m s0 s) : Apart m
    s0 (State.modInst a1 a2 s) := by
  unfold State.modInst
  try dsimp only
  repeat' first
    | with_reducible assumption
    | with_reducible refine OutApart.next ?_
    | with_reducible exact OutApart.refused
    | with_reducible refine Apart.foldl _ _ ?_ ?_
    | with_reducible refine Apart.ite ?_ ?_
    | with_reducible refine OutApart.ite ?_ ?_
    | (intro _)
    | split
    | with_reducible refine Apart.sched ?_ ?_

theorem State.modPress_apart {m : Field → Bool} {s0 s : State} {a1 a2} (k_press : m .press = true) (h : Apart m s0 s) : Apart m
    s0 (State.modPress a1 a2 s) := by
  unfold State.modPress
  try dsimp only
  repeat' first
    | with_reducible assumption
    | with_reducible refine OutApart.next ?_
    | with_reducible exact OutApart.refused
    | with_reducible refine Apart.foldl _ _ ?_ ?_
    | with_reducible refine Apart.ite ?_ ?_
    | with_reducible refine OutApart.ite ?_ ?_
    | (intro _)
    | split
    | with_reducible refine Apart.press ?_ ?_

theorem State.putAcct_apart {m : Field → Bool} {s0 s : State} {a1} (k_accts : m .accts = true) (h : Apart m s0 s) : Apart m s0
    (State.putAcct a1 s) := by
  unfold State.putAcct
  try dsimp only
  repeat' first
    | with_reducible assumption
    | with_reducible refine OutApart.next ?_
    | with_reducible exact OutApart.refused
    | with_reducible refine Apart.foldl _ _ ?_ ?_
    | with_reducible refine Apart.ite ?_ ?_
    | with_reducible refine OutApart.ite ?_ ?_
    | (intro _)
    | split
    | with_reducible refine Apart.accts ?_ ?_

theorem abandonInst_apart {m : Field → Bool} {s0 s : State} {a1 a2} (k_log : m .log = true) (k_sched : m .sched = true) (h :
    Apart m s0 s) : Apart m s0 (abandonInst a1 a2 s) := by
  unfold abandonInst
  try dsimp only
  repeat' first
    | with_reducible assumption
    | with_reducible apply logEvent_apart
    | with_reducible apply State.modInst_apart
    | with_reducible refine OutApart.next ?_
    | with_reducible exact OutApart.refused
    | with_reducible refine Apart.foldl _ _ ?_ ?_
    | with_reducible refine Apart.ite ?_ ?_
    | with_reducible refine OutApart.ite ?_ ?_
    | (intro _)
    | split

theorem charge_apart {m : Field → Bool} {s0 s : State} {a1 a2 a3 a4} (k_log : m .log = true) (k_accts : m .accts = true) (h :
    Apart m s0 s) : Apart m s0 (charge a1 a2 a3 a4 s) := by
  unfold charge
  try dsimp only
  repeat' first
    | with_reducible assumption
    | with_reducible apply State.putAcct_apart
    | with_reducible apply logEvent_apart
    | with_reducible refine OutApart.next ?_
    | with_reducible exact OutApart.refused
    | with_reducible refine Apart.foldl _ _ ?_ ?_
    | with_reducible refine Apart.ite ?_ ?_
    | with_reducible refine OutApart.ite ?_ ?_
    | (intro _)
    | split

theorem chargeRows_apart {m : Field → Bool} {s0 s : State} {a1 a2 a3 a4 a5 : Nat} {a6 : List Row} {a7 : Nat × Nat × Nat} (k_log : m .log = true) (k_accts : m .accts = true)
    (h : Apart m s0 s) : Apart m s0 (chargeRows a1 a2 a3 a4 a5 a6 a7 s) := by
  induction a6 generalizing a7 s with
  | nil => exact (charge_apart k_log k_accts h)
  | cons r rs ih =>
    obtain ⟨rc, rb, re⟩ := a7
    unfold chargeRows
    split
    · exact ih h
    · exact ih (charge_apart k_log k_accts h)

theorem chargeRun_apart {m : Field → Bool} {s0 s : State} {a1} (k_log : m .log = true) (k_part : m .part = true) (k_accts : m
    .accts = true) (k_gov : m .gov = true) (h : Apart m s0 s) : Apart m s0 (chargeRun a1 s) := by
  unfold chargeRun
  try dsimp only
  repeat' first
    | with_reducible assumption
    | with_reducible apply State.modPart_apart
    | with_reducible apply chargeRows_apart
    | with_reducible apply charge_apart
    | with_reducible refine OutApart.next ?_
    | with_reducible exact OutApart.refused
    | with_reducible refine Apart.foldl _ _ ?_ ?_
    | with_reducible refine Apart.ite ?_ ?_
    | with_reducible refine OutApart.ite ?_ ?_
    | (intro _)
    | split
    | with_reducible refine Apart.gov ?_ ?_

theorem logKill_apart {m : Field → Bool} {s0 s : State} {a1 a2} (k_log : m .log = true) (k_part : m .part = true) (h : Apart m
    s0 s) : Apart m s0 (logKill a1 a2 s) := by
  unfold logKill
  try dsimp only
  repeat' first
    | with_reducible assumption
    | with_reducible apply logEvent_apart
    | with_reducible apply State.modPart_apart
    | with_reducible refine OutApart.next ?_
    | with_reducible exact OutApart.refused
    | with_reducible refine Apart.foldl _ _ ?_ ?_
    | with_reducible refine Apart.ite ?_ ?_
    | with_reducible refine OutApart.ite ?_ ?_
    | (intro _)
    | split

theorem buryBufs_apart {m : Field → Bool} {s0 s : State} {a1} (k_sched : m .sched = true) (h : Apart m s0 s) : Apart m s0
    (buryBufs a1 s) := by
  unfold buryBufs
  try dsimp only
  repeat' first
    | with_reducible assumption
    | with_reducible refine OutApart.next ?_
    | with_reducible exact OutApart.refused
    | with_reducible refine Apart.foldl _ _ ?_ ?_
    | with_reducible refine Apart.ite ?_ ?_
    | with_reducible refine OutApart.ite ?_ ?_
    | (intro _)
    | split
    | with_reducible refine Apart.sched ?_ ?_

theorem dropRequests_apart {m : Field → Bool} {s0 s : State} {a1} (k_part : m .part = true) (k_mem : m .mem = true) (h : Apart m
    s0 s) : Apart m s0 (dropRequests a1 s) := by
  unfold dropRequests
  try dsimp only
  repeat' first
    | with_reducible assumption
    | with_reducible refine OutApart.next ?_
    | with_reducible exact OutApart.refused
    | with_reducible refine Apart.foldl _ _ ?_ ?_
    | with_reducible refine Apart.ite ?_ ?_
    | with_reducible refine OutApart.ite ?_ ?_
    | (intro _)
    | split
    | with_reducible refine Apart.part ?_ ?_
    | with_reducible refine Apart.mem ?_ ?_
    | with_reducible apply Apart.record
    | with_reducible exact Or.inr rfl
    | with_reducible (refine Or.inl ?_)

theorem startDrop_apart {m : Field → Bool} {s0 s : State} {a1 a2 a3} (k_mem : m .mem = true) (h : Apart m s0 s) : Apart m s0
    (startDrop a1 a2 a3 s) := by
  unfold startDrop
  try dsimp only
  repeat' first
    | with_reducible assumption
    | with_reducible refine OutApart.next ?_
    | with_reducible exact OutApart.refused
    | with_reducible refine Apart.foldl _ _ ?_ ?_
    | with_reducible refine Apart.ite ?_ ?_
    | with_reducible refine OutApart.ite ?_ ?_
    | (intro _)
    | split
    | with_reducible refine Apart.mem ?_ ?_

theorem unmapPage_apart {m : Field → Bool} {s0 s : State} {a1 a2} (k_mem : m .mem = true) (h : Apart m s0 s) : Apart m s0
    (unmapPage a1 a2 s) := by
  unfold unmapPage
  try dsimp only
  repeat' first
    | with_reducible assumption
    | with_reducible apply startDrop_apart
    | with_reducible refine OutApart.next ?_
    | with_reducible exact OutApart.refused
    | with_reducible refine Apart.foldl _ _ ?_ ?_
    | with_reducible refine Apart.ite ?_ ?_
    | with_reducible refine OutApart.ite ?_ ?_
    | (intro _)
    | split
    | with_reducible refine Apart.mem ?_ ?_

theorem unmapInputs_apart {m : Field → Bool} {s0 s : State} {a1} (k_mem : m .mem = true) (h : Apart m s0 s) : Apart m s0
    (unmapInputs a1 s) := by
  unfold unmapInputs
  try dsimp only
  repeat' first
    | with_reducible assumption
    | with_reducible apply unmapPage_apart
    | with_reducible refine OutApart.next ?_
    | with_reducible exact OutApart.refused
    | with_reducible refine Apart.foldl _ _ ?_ ?_
    | with_reducible refine Apart.ite ?_ ?_
    | with_reducible refine OutApart.ite ?_ ?_
    | (intro _)
    | split

theorem unmapBufs_apart {m : Field → Bool} {s0 s : State} {a1} (k_mem : m .mem = true) (h : Apart m s0 s) : Apart m s0
    (unmapBufs a1 s) := by
  unfold unmapBufs
  try dsimp only
  repeat' first
    | with_reducible assumption
    | with_reducible apply unmapInputs_apart
    | with_reducible apply unmapPage_apart
    | with_reducible refine OutApart.next ?_
    | with_reducible exact OutApart.refused
    | with_reducible refine Apart.foldl _ _ ?_ ?_
    | with_reducible refine Apart.ite ?_ ?_
    | with_reducible refine OutApart.ite ?_ ?_
    | (intro _)
    | split

theorem suspectUnit_apart {m : Field → Bool} {s0 s : State} {a1 a2} (k_units : m .units = true) (h : Apart m s0 s) : Apart m s0
    (suspectUnit a1 a2 s) := by
  unfold suspectUnit
  try dsimp only
  repeat' first
    | with_reducible assumption
    | with_reducible apply State.modUnit_apart
    | with_reducible refine OutApart.next ?_
    | with_reducible exact OutApart.refused
    | with_reducible refine Apart.foldl _ _ ?_ ?_
    | with_reducible refine Apart.ite ?_ ?_
    | with_reducible refine OutApart.ite ?_ ?_
    | (intro _)
    | split

theorem flushPress_apart {m : Field → Bool} {s0 s : State} {a1} (k_units : m .units = true) (k_press : m .press = true) (h :
    Apart m s0 s) : Apart m s0 (flushPress a1 s) := by
  unfold flushPress
  try dsimp only
  repeat' first
    | with_reducible assumption
    | with_reducible apply suspectUnit_apart
    | with_reducible apply State.modPress_apart
    | with_reducible refine OutApart.next ?_
    | with_reducible exact OutApart.refused
    | with_reducible refine Apart.foldl _ _ ?_ ?_
    | with_reducible refine Apart.ite ?_ ?_
    | with_reducible refine OutApart.ite ?_ ?_
    | (intro _)
    | split

theorem killInst_apart {m : Field → Bool} {s0 s : State} {a1 a2} (k_log : m .log = true) (k_units : m .units = true) (k_sched :
    m .sched = true) (k_part : m .part = true) (k_accts : m .accts = true) (k_mem : m .mem = true) (k_press : m .press = true)
    (k_gov : m .gov = true) (h : Apart m s0 s) : Apart m s0 (killInst a1 a2 s) := by
  unfold killInst
  try dsimp only
  repeat' first
    | with_reducible assumption
    | with_reducible apply chargeRun_apart
    | with_reducible apply logKill_apart
    | with_reducible apply State.modPart_apart
    | with_reducible apply buryBufs_apart
    | with_reducible apply dropRequests_apart
    | with_reducible apply unmapBufs_apart
    | with_reducible apply flushPress_apart
    | with_reducible apply State.modInst_apart
    | with_reducible apply abandonInst_apart
    | with_reducible refine OutApart.next ?_
    | with_reducible exact OutApart.refused
    | with_reducible refine Apart.foldl _ _ ?_ ?_
    | with_reducible refine Apart.ite ?_ ?_
    | with_reducible refine OutApart.ite ?_ ?_
    | (intro _)
    | split

theorem forgetValues_apart {m : Field → Bool} {s0 s : State} {a1} (k_sched : m .sched = true) (k_mem : m .mem = true) (h : Apart
    m s0 s) : Apart m s0 (forgetValues a1 s) := by
  unfold forgetValues
  try dsimp only
  repeat' first
    | with_reducible assumption
    | with_reducible apply unmapPage_apart
    | with_reducible refine OutApart.next ?_
    | with_reducible exact OutApart.refused
    | with_reducible refine Apart.foldl _ _ ?_ ?_
    | with_reducible refine Apart.ite ?_ ?_
    | with_reducible refine OutApart.ite ?_ ?_
    | (intro _)
    | split
    | with_reducible refine Apart.sched ?_ ?_

theorem failAttempt_apart {m : Field → Bool} {s0 s : State} {a1 a2} (k_log : m .log = true) (k_units : m .units = true) (k_sched
    : m .sched = true) (h : Apart m s0 s) : Apart m s0 (failAttempt a1 a2 s) := by
  unfold failAttempt
  try dsimp only
  repeat' first
    | with_reducible assumption
    | with_reducible apply logEvent_apart
    | with_reducible apply State.modUnit_apart
    | with_reducible refine OutApart.next ?_
    | with_reducible exact OutApart.refused
    | with_reducible refine Apart.foldl _ _ ?_ ?_
    | with_reducible refine Apart.ite ?_ ?_
    | with_reducible refine OutApart.ite ?_ ?_
    | (intro _)
    | split
    | with_reducible refine Apart.sched ?_ ?_

theorem dropSlice_apart {m : Field → Bool} {s0 s : State} {a1} (k_sched : m .sched = true) (h : Apart m s0 s) : Apart m s0
    (dropSlice a1 s) := by
  unfold dropSlice
  try dsimp only
  repeat' first
    | with_reducible assumption
    | with_reducible refine OutApart.next ?_
    | with_reducible exact OutApart.refused
    | with_reducible refine Apart.foldl _ _ ?_ ?_
    | with_reducible refine Apart.ite ?_ ?_
    | with_reducible refine OutApart.ite ?_ ?_
    | (intro _)
    | split
    | with_reducible refine Apart.sched ?_ ?_

theorem stopRun_apart {m : Field → Bool} {s0 s : State} {a1} (k_units : m .units = true) (k_sched : m .sched = true) (k_part : m
    .part = true) (k_mem : m .mem = true) (k_press : m .press = true) (h : Apart m s0 s) : Apart m s0 (stopRun a1 s) := by
  unfold stopRun
  try dsimp only
  repeat' first
    | with_reducible assumption
    | with_reducible apply unmapBufs_apart
    | with_reducible apply flushPress_apart
    | with_reducible apply buryBufs_apart
    | with_reducible apply dropRequests_apart
    | with_reducible refine OutApart.next ?_
    | with_reducible exact OutApart.refused
    | with_reducible refine Apart.foldl _ _ ?_ ?_
    | with_reducible refine Apart.ite ?_ ?_
    | with_reducible refine OutApart.ite ?_ ?_
    | (intro _)
    | split

theorem endClass_apart {m : Field → Bool} {s0 s : State} {a1} (k_units : m .units = true) (k_cls : m .cls = true) (k_sched : m
    .sched = true) (k_part : m .part = true) (k_mem : m .mem = true) (k_press : m .press = true) (h : Apart m s0 s) : Apart m s0
    (endClass a1 s) := by
  unfold endClass
  try dsimp only
  repeat' first
    | with_reducible assumption
    | with_reducible apply stopRun_apart
    | with_reducible refine OutApart.next ?_
    | with_reducible exact OutApart.refused
    | with_reducible refine Apart.foldl _ _ ?_ ?_
    | with_reducible refine Apart.ite ?_ ?_
    | with_reducible refine OutApart.ite ?_ ?_
    | (intro _)
    | split
    | with_reducible refine Apart.cls ?_ ?_
    | with_reducible refine Apart.sched ?_ ?_
    | with_reducible apply Apart.record
    | with_reducible exact Or.inr rfl
    | with_reducible (refine Or.inl ?_)

theorem setClass_apart {m : Field → Bool} {s0 s : State} {a1 a2} (k_cur : m .cur = true) (h : Apart m s0 s) : Apart m s0
    (setClass a1 a2 s) := by
  unfold setClass
  try dsimp only
  repeat' first
    | with_reducible assumption
    | with_reducible refine OutApart.next ?_
    | with_reducible exact OutApart.refused
    | with_reducible refine Apart.foldl _ _ ?_ ?_
    | with_reducible refine Apart.ite ?_ ?_
    | with_reducible refine OutApart.ite ?_ ?_
    | (intro _)
    | split
    | with_reducible refine Apart.cur ?_ ?_

theorem classifyStruck_apart {m : Field → Bool} {s0 s : State} {a1 a2} (k_log : m .log = true) (k_units : m .units = true)
    (k_cur : m .cur = true) (k_cls : m .cls = true) (k_sched : m .sched = true) (k_part : m .part = true) (k_mem : m .mem =
    true) (k_press : m .press = true) (h : Apart m s0 s) : Apart m s0 (classifyStruck a1 a2 s) := by
  unfold classifyStruck
  try dsimp only
  repeat' first
    | with_reducible assumption
    | with_reducible apply endClass_apart
    | with_reducible apply setClass_apart
    | with_reducible apply logEvent_apart
    | with_reducible refine OutApart.next ?_
    | with_reducible exact OutApart.refused
    | with_reducible refine Apart.foldl _ _ ?_ ?_
    | with_reducible refine Apart.ite ?_ ?_
    | with_reducible refine OutApart.ite ?_ ?_
    | (intro _)
    | split

theorem killWhere_apart {m : Field → Bool} {s0 s : State} {a1 a2} (k_log : m .log = true) (k_units : m .units = true) (k_sched :
    m .sched = true) (k_part : m .part = true) (k_accts : m .accts = true) (k_mem : m .mem = true) (k_press : m .press = true)
    (k_gov : m .gov = true) (h : Apart m s0 s) : Apart m s0 (killWhere a1 a2 s) := by
  unfold killWhere
  try dsimp only
  repeat' first
    | with_reducible assumption
    | with_reducible apply killInst_apart
    | with_reducible refine OutApart.next ?_
    | with_reducible exact OutApart.refused
    | with_reducible refine Apart.foldl _ _ ?_ ?_
    | with_reducible refine Apart.ite ?_ ?_
    | with_reducible refine OutApart.ite ?_ ?_
    | (intro _)
    | split

theorem strike_apart {m : Field → Bool} {s0 s : State} {a1 a2} (k_log : m .log = true) (k_units : m .units = true) (k_cur : m
    .cur = true) (k_cls : m .cls = true) (k_sched : m .sched = true) (k_part : m .part = true) (k_accts : m .accts = true)
    (k_mem : m .mem = true) (k_press : m .press = true) (k_gov : m .gov = true) (h : Apart m s0 s) : Apart m s0 (strike a1 a2 s)
    := by
  unfold strike
  try dsimp only
  repeat' first
    | with_reducible assumption
    | with_reducible apply failAttempt_apart
    | with_reducible apply State.modUnit_apart
    | with_reducible apply dropSlice_apart
    | with_reducible apply logEvent_apart
    | with_reducible apply classifyStruck_apart
    | with_reducible apply killWhere_apart
    | with_reducible refine OutApart.next ?_
    | with_reducible exact OutApart.refused
    | with_reducible refine Apart.foldl _ _ ?_ ?_
    | with_reducible refine Apart.ite ?_ ?_
    | with_reducible refine OutApart.ite ?_ ?_
    | (intro _)
    | split

theorem setProgress_apart {m : Field → Bool} {s0 s : State} {a1 a2} (k_sched : m .sched = true) (h : Apart m s0 s) : Apart m s0
    (setProgress a1 a2 s) := by
  unfold setProgress
  try dsimp only
  repeat' first
    | with_reducible assumption
    | with_reducible refine OutApart.next ?_
    | with_reducible exact OutApart.refused
    | with_reducible refine Apart.foldl _ _ ?_ ?_
    | with_reducible refine Apart.ite ?_ ?_
    | with_reducible refine OutApart.ite ?_ ?_
    | (intro _)
    | split
    | with_reducible refine Apart.sched ?_ ?_

theorem suspendSlice_apart {m : Field → Bool} {s0 s : State} {a1} (k_sched : m .sched = true) (h : Apart m s0 s) : Apart m s0
    (suspendSlice a1 s) := by
  unfold suspendSlice
  try dsimp only
  repeat' first
    | with_reducible assumption
    | with_reducible apply setProgress_apart
    | with_reducible refine OutApart.next ?_
    | with_reducible exact OutApart.refused
    | with_reducible refine Apart.foldl _ _ ?_ ?_
    | with_reducible refine Apart.ite ?_ ?_
    | with_reducible refine OutApart.ite ?_ ?_
    | (intro _)
    | split
    | with_reducible refine Apart.sched ?_ ?_

theorem setPte_apart {m : Field → Bool} {s0 s : State} {a1 a2 a3} (k_mem : m .mem = true) (h : Apart m s0 s) : Apart m s0
    (setPte a1 a2 a3 s) := by
  unfold setPte
  try dsimp only
  repeat' first
    | with_reducible assumption
    | with_reducible refine OutApart.next ?_
    | with_reducible exact OutApart.refused
    | with_reducible refine Apart.foldl _ _ ?_ ?_
    | with_reducible refine Apart.ite ?_ ?_
    | with_reducible refine OutApart.ite ?_ ?_
    | (intro _)
    | split
    | with_reducible refine Apart.mem ?_ ?_

theorem countTransient_apart {m : Field → Bool} {s0 s : State} {a1} (k_log : m .log = true) (k_units : m .units = true) (k_cur :
    m .cur = true) (k_cls : m .cls = true) (k_sched : m .sched = true) (k_part : m .part = true) (k_accts : m .accts = true)
    (k_mem : m .mem = true) (k_press : m .press = true) (k_gov : m .gov = true) (h : Apart m s0 s) : Apart m s0 (countTransient
    a1 s) := by
  unfold countTransient
  try dsimp only
  repeat' first
    | with_reducible assumption
    | with_reducible apply State.modUnit_apart
    | with_reducible apply strike_apart
    | with_reducible refine OutApart.next ?_
    | with_reducible exact OutApart.refused
    | with_reducible refine Apart.foldl _ _ ?_ ?_
    | with_reducible refine Apart.ite ?_ ?_
    | with_reducible refine OutApart.ite ?_ ?_
    | (intro _)
    | split

theorem killElsewhere_apart {m : Field → Bool} {s0 s : State} {a1 a2 a3} (k_log : m .log = true) (k_units : m .units = true)
    (k_sched : m .sched = true) (k_part : m .part = true) (k_accts : m .accts = true) (k_mem : m .mem = true) (k_press : m
    .press = true) (k_gov : m .gov = true) (h : Apart m s0 s) : Apart m s0 (killElsewhere a1 a2 a3 s) := by
  unfold killElsewhere
  try dsimp only
  repeat' first
    | with_reducible assumption
    | with_reducible apply State.modInst_apart
    | with_reducible apply killInst_apart
    | with_reducible refine OutApart.next ?_
    | with_reducible exact OutApart.refused
    | with_reducible refine Apart.foldl _ _ ?_ ?_
    | with_reducible refine Apart.ite ?_ ?_
    | with_reducible refine OutApart.ite ?_ ?_
    | (intro _)
    | split

theorem endSafety_apart {m : Field → Bool} {s0 s : State} (k_log : m .log = true) (k_units : m .units = true) (k_sched : m
    .sched = true) (k_part : m .part = true) (k_accts : m .accts = true) (k_mem : m .mem = true) (k_press : m .press = true)
    (k_gov : m .gov = true) (h : Apart m s0 s) : Apart m s0 (endSafety s) := by
  unfold endSafety
  try dsimp only
  repeat' first
    | with_reducible assumption
    | with_reducible apply killWhere_apart
    | with_reducible apply abandonInst_apart
    | with_reducible refine OutApart.next ?_
    | with_reducible exact OutApart.refused
    | with_reducible refine Apart.foldl _ _ ?_ ?_
    | with_reducible refine Apart.ite ?_ ?_
    | with_reducible refine OutApart.ite ?_ ?_
    | (intro _)
    | split

end Sys2Proof.Machine
end

