-- ==== Sys2Proof/Laws/ApartFlags.lean ====
section
/-! SUPPORT. Frames of the operations of Machine/Flags.lean. -/

namespace Sys2Proof.Machine

theorem setSnap_apart {m : Field → Bool} {s0 s : State} {a1} (k_port : m .port = true) (h : Apart m s0 s) : Apart m s0 (setSnap
    a1 s) := by
  unfold setSnap
  try dsimp only
  repeat' first
    | with_reducible assumption
    | with_reducible refine OutApart.next ?_
    | with_reducible exact OutApart.refused
    | with_reducible refine Apart.foldl _ _ ?_ ?_
    | with_reducible refine Apart.ite ?_ ?_
    | with_reducible refine OutApart.ite ?_ ?_
    | (intro _)
    | split
    | with_reducible refine Apart.port ?_ ?_

theorem f1ReadByte_apart {m : Field → Bool} {s0 s : State} {a1} (k_port : m .port = true) (h : Apart m s0 s) : Apart m s0
    (f1ReadByte a1 s).2 := by
  unfold f1ReadByte
  try dsimp only
  repeat' first
    | with_reducible assumption
    | with_reducible apply setSnap_apart
    | with_reducible refine OutApart.next ?_
    | with_reducible exact OutApart.refused
    | with_reducible refine Apart.foldl _ _ ?_ ?_
    | with_reducible refine Apart.ite ?_ ?_
    | with_reducible refine OutApart.ite ?_ ?_
    | (intro _)
    | split

theorem f1Read_apart {m : Field → Bool} {s0 s : State} {a1 a2 : Nat} (k_port : m .port = true)
    (h : Apart m s0 s) : Apart m s0 (f1Read a1 a2 s).2 := by
  induction a2 generalizing a1 s with
  | zero => exact h
  | succ n ih => exact ih (f1ReadByte_apart k_port h)

end Sys2Proof.Machine
end

