-- ==== Sys2Proof/Laws/ApartWindow.lean ====
section
/-! SUPPORT. Frames of the operations of Machine/Window.lean. -/

namespace Sys2Proof.Machine

theorem captureAccount_apart {m : Field → Bool} {s0 s : State} {a1} (k_acctWin : m .acctWin = true) (h : Apart m s0 s) : Apart m
    s0 (captureAccount a1 s) := by
  unfold captureAccount
  try dsimp only
  repeat' first
    | with_reducible assumption
    | with_reducible refine OutApart.next ?_
    | with_reducible exact OutApart.refused
    | with_reducible refine Apart.foldl _ _ ?_ ?_
    | with_reducible refine Apart.ite ?_ ?_
    | with_reducible refine OutApart.ite ?_ ?_
    | (intro _)
    | split
    | with_reducible refine Apart.acctWin ?_ ?_

theorem writeHfControl_apart {m : Field → Bool} {s0 s : State} {a1} (k_port : m .port = true) (h : Apart m s0 s) : Apart m s0
    (writeHfControl a1 s) := by
  unfold writeHfControl
  try dsimp only
  repeat' first
    | with_reducible assumption
    | with_reducible refine OutApart.next ?_
    | with_reducible exact OutApart.refused
    | with_reducible refine Apart.foldl _ _ ?_ ?_
    | with_reducible refine Apart.ite ?_ ?_
    | with_reducible refine OutApart.ite ?_ ?_
    | (intro _)
    | split
    | with_reducible refine Apart.port ?_ ?_

theorem writeHfIrq_apart {m : Field → Bool} {s0 s : State} {a1} (k_port : m .port = true) (h : Apart m s0 s) : Apart m s0
    (writeHfIrq a1 s) := by
  unfold writeHfIrq
  try dsimp only
  repeat' first
    | with_reducible assumption
    | with_reducible refine OutApart.next ?_
    | with_reducible exact OutApart.refused
    | with_reducible refine Apart.foldl _ _ ?_ ?_
    | with_reducible refine Apart.ite ?_ ?_
    | with_reducible refine OutApart.ite ?_ ?_
    | (intro _)
    | split
    | with_reducible refine Apart.port ?_ ?_

theorem writeHfIrqEnable_apart {m : Field → Bool} {s0 s : State} {a1} (k_port : m .port = true) (h : Apart m s0 s) : Apart m s0
    (writeHfIrqEnable a1 s) := by
  unfold writeHfIrqEnable
  try dsimp only
  repeat' first
    | with_reducible assumption
    | with_reducible refine OutApart.next ?_
    | with_reducible exact OutApart.refused
    | with_reducible refine Apart.foldl _ _ ?_ ?_
    | with_reducible refine Apart.ite ?_ ?_
    | with_reducible refine OutApart.ite ?_ ?_
    | (intro _)
    | split
    | with_reducible refine Apart.port ?_ ?_

theorem writeCueStatus_apart {m : Field → Bool} {s0 s : State} {a1} (k_cue : m .cue = true) (h : Apart m s0 s) : Apart m s0
    (writeCueStatus a1 s) := by
  unfold writeCueStatus
  try dsimp only
  repeat' first
    | with_reducible assumption
    | with_reducible refine OutApart.next ?_
    | with_reducible exact OutApart.refused
    | with_reducible refine Apart.foldl _ _ ?_ ?_
    | with_reducible refine Apart.ite ?_ ?_
    | with_reducible refine OutApart.ite ?_ ?_
    | (intro _)
    | split
    | with_reducible refine Apart.cue ?_ ?_

theorem requestCurtainTest_apart {m : Field → Bool} {s0 s : State} (k_log : m .log = true) (k_cur : m .cur = true) (h : Apart m
    s0 s) : Apart m s0 (requestCurtainTest s) := by
  unfold requestCurtainTest
  try dsimp only
  repeat' first
    | with_reducible assumption
    | with_reducible apply logEvent_apart
    | with_reducible refine OutApart.next ?_
    | with_reducible exact OutApart.refused
    | with_reducible refine Apart.foldl _ _ ?_ ?_
    | with_reducible refine Apart.ite ?_ ?_
    | with_reducible refine OutApart.ite ?_ ?_
    | (intro _)
    | split
    | with_reducible refine Apart.cur ?_ ?_

theorem writeCurtainTest_apart {m : Field → Bool} {s0 s : State} {a1} (k_log : m .log = true) (k_cur : m .cur = true) (h : Apart
    m s0 s) : Apart m s0 (writeCurtainTest a1 s) := by
  unfold writeCurtainTest
  try dsimp only
  repeat' first
    | with_reducible assumption
    | with_reducible apply requestCurtainTest_apart
    | with_reducible refine OutApart.next ?_
    | with_reducible exact OutApart.refused
    | with_reducible refine Apart.foldl _ _ ?_ ?_
    | with_reducible refine Apart.ite ?_ ?_
    | with_reducible refine OutApart.ite ?_ ?_
    | (intro _)
    | split

theorem writeAcctSelect_apart {m : Field → Bool} {s0 s : State} {a1} (k_acctWin : m .acctWin = true) (h : Apart m s0 s) : Apart
    m s0 (writeAcctSelect a1 s) := by
  unfold writeAcctSelect
  try dsimp only
  repeat' first
    | with_reducible assumption
    | with_reducible apply captureAccount_apart
    | with_reducible refine OutApart.next ?_
    | with_reducible exact OutApart.refused
    | with_reducible refine Apart.foldl _ _ ?_ ?_
    | with_reducible refine Apart.ite ?_ ?_
    | with_reducible refine OutApart.ite ?_ ?_
    | (intro _)
    | split

theorem regWrite_apart {m : Field → Bool} {s0 s : State} {a1 a2} (k_cue : m .cue = true) (k_log : m .log = true) (k_cur : m .cur
    = true) (k_acctWin : m .acctWin = true) (k_port : m .port = true) (h : Apart m s0 s) : Apart m s0 (regWrite a1 a2 s) := by
  unfold regWrite
  try dsimp only
  repeat' first
    | with_reducible assumption
    | with_reducible apply writeHfControl_apart
    | with_reducible apply writeHfIrq_apart
    | with_reducible apply writeHfIrqEnable_apart
    | with_reducible apply writeCueStatus_apart
    | with_reducible apply writeCurtainTest_apart
    | with_reducible apply writeAcctSelect_apart
    | with_reducible refine OutApart.next ?_
    | with_reducible exact OutApart.refused
    | with_reducible refine Apart.foldl _ _ ?_ ?_
    | with_reducible refine Apart.ite ?_ ?_
    | with_reducible refine OutApart.ite ?_ ?_
    | (intro _)
    | split

theorem setHold_apart {m : Field → Bool} {s0 s : State} {a1} (k_port : m .port = true) (h : Apart m s0 s) : Apart m s0 (setHold
    a1 s) := by
  unfold setHold
  try dsimp only
  repeat' first
    | with_reducible assumption
    | with_reducible refine OutApart.next ?_
    | with_reducible exact OutApart.refused
    | with_reducible refine Apart.foldl _ _ ?_ ?_
    | with_reducible refine Apart.ite ?_ ?_
    | with_reducible refine OutApart.ite ?_ ?_
    | (intro _)
    | split
    | with_reducible refine Apart.port ?_ ?_

theorem f1WriteByte_apart {m : Field → Bool} {s0 s : State} {a1 a2} (k_cue : m .cue = true) (k_log : m .log = true) (k_cur : m
    .cur = true) (k_acctWin : m .acctWin = true) (k_port : m .port = true) (h : Apart m s0 s) : Apart m s0 (f1WriteByte a1 a2 s)
    := by
  unfold f1WriteByte
  try dsimp only
  repeat' first
    | with_reducible assumption
    | with_reducible apply regWrite_apart
    | with_reducible apply setHold_apart
    | with_reducible refine OutApart.next ?_
    | with_reducible exact OutApart.refused
    | with_reducible refine Apart.foldl _ _ ?_ ?_
    | with_reducible refine Apart.ite ?_ ?_
    | with_reducible refine OutApart.ite ?_ ?_
    | (intro _)
    | split

theorem f1WriteAt_apart {m : Field → Bool} {s0 s : State} {n a1 : Nat} {a2 : List (Fin n × Byte)} (k_cue : m .cue = true) (k_log : m .log = true) (k_cur : m .cur = true) (k_acctWin : m .acctWin = true) (k_port : m .port = true)
    (h : Apart m s0 s) : Apart m s0 (f1WriteAt a1 a2 s) := by
  unfold f1WriteAt
  exact h.foldl _ _ fun _ _ hu => (f1WriteByte_apart k_cue k_log k_cur k_acctWin k_port hu)

theorem execAcctSelectWrite_apart {m : Field → Bool} {s0 s : State} {a1 a2} (k_cue : m .cue = true) (k_log : m .log = true)
    (k_cur : m .cur = true) (k_acctWin : m .acctWin = true) (k_port : m .port = true) (h : Apart m s0 s) : OutApart m s0
    (execAcctSelectWrite a1 a2 s) := by
  unfold execAcctSelectWrite
  try dsimp only
  repeat' first
    | with_reducible assumption
    | with_reducible apply State.at_apart
    | with_reducible apply f1WriteAt_apart
    | with_reducible refine OutApart.next ?_
    | with_reducible exact OutApart.refused
    | with_reducible refine Apart.foldl _ _ ?_ ?_
    | with_reducible refine Apart.ite ?_ ?_
    | with_reducible refine OutApart.ite ?_ ?_
    | (intro _)
    | split

theorem respond_apart {m : Field → Bool} {s0 s : State} {a1 a2} (k_port : m .port = true) (h : Apart m s0 s) : Apart m s0
    (respond a1 a2 s) := by
  unfold respond
  try dsimp only
  repeat' first
    | with_reducible assumption
    | with_reducible refine OutApart.next ?_
    | with_reducible exact OutApart.refused
    | with_reducible refine Apart.foldl _ _ ?_ ?_
    | with_reducible refine Apart.ite ?_ ?_
    | with_reducible refine OutApart.ite ?_ ?_
    | (intro _)
    | split
    | with_reducible refine Apart.port ?_ ?_

theorem f1Write_apart {m : Field → Bool} {s0 s : State} {a1 : Nat} {a2 : List Byte} (k_cue : m .cue = true) (k_log : m .log = true) (k_cur : m .cur = true) (k_acctWin : m .acctWin = true) (k_port : m .port = true)
    (h : Apart m s0 s) : Apart m s0 (f1Write a1 a2 s) := by
  induction a2 generalizing a1 s with
  | nil => exact h
  | cons v vs ih => exact ih (f1WriteByte_apart k_cue k_log k_cur k_acctWin k_port h)

theorem execCmd53F1_apart {m : Field → Bool} {s0 s : State} {a1 a2 a3 a4} (k_cue : m .cue = true) (k_log : m .log = true) (k_cur
    : m .cur = true) (k_acctWin : m .acctWin = true) (k_port : m .port = true) (h : Apart m s0 s) : OutApart m s0 (execCmd53F1
    a1 a2 a3 a4 s) := by
  unfold execCmd53F1
  try dsimp only
  repeat' first
    | with_reducible assumption
    | with_reducible apply State.at_apart
    | with_reducible apply respond_apart
    | with_reducible apply f1Write_apart
    | with_reducible apply f1Read_apart
    | with_reducible refine Apart.snd ?_ (by assumption)
    | with_reducible refine OutApart.next ?_
    | with_reducible exact OutApart.refused
    | with_reducible refine Apart.foldl _ _ ?_ ?_
    | with_reducible refine Apart.ite ?_ ?_
    | with_reducible refine OutApart.ite ?_ ?_
    | (intro _)
    | split

theorem execCueStatusClear_apart {m : Field → Bool} {s0 s : State} {a1 a2} (k_cue : m .cue = true) (k_log : m .log = true)
    (k_cur : m .cur = true) (k_acctWin : m .acctWin = true) (k_port : m .port = true) (h : Apart m s0 s) : OutApart m s0
    (execCueStatusClear a1 a2 s) := by
  unfold execCueStatusClear
  try dsimp only
  repeat' first
    | with_reducible assumption
    | with_reducible apply State.at_apart
    | with_reducible apply f1WriteAt_apart
    | with_reducible refine OutApart.next ?_
    | with_reducible exact OutApart.refused
    | with_reducible refine Apart.foldl _ _ ?_ ?_
    | with_reducible refine Apart.ite ?_ ?_
    | with_reducible refine OutApart.ite ?_ ?_
    | (intro _)
    | split

theorem execCurtainTestWrite_apart {m : Field → Bool} {s0 s : State} {a1 a2} (k_cue : m .cue = true) (k_log : m .log = true)
    (k_cur : m .cur = true) (k_acctWin : m .acctWin = true) (k_port : m .port = true) (h : Apart m s0 s) : OutApart m s0
    (execCurtainTestWrite a1 a2 s) := by
  unfold execCurtainTestWrite
  try dsimp only
  repeat' first
    | with_reducible assumption
    | with_reducible apply State.at_apart
    | with_reducible apply f1WriteAt_apart
    | with_reducible refine OutApart.next ?_
    | with_reducible exact OutApart.refused
    | with_reducible refine Apart.foldl _ _ ?_ ?_
    | with_reducible refine Apart.ite ?_ ?_
    | with_reducible refine OutApart.ite ?_ ?_
    | (intro _)
    | split

theorem execF1RegisterWrite_apart {m : Field → Bool} {s0 s : State} {a1 a2 a3} (k_cue : m .cue = true) (k_log : m .log = true)
    (k_cur : m .cur = true) (k_acctWin : m .acctWin = true) (k_port : m .port = true) (h : Apart m s0 s) : OutApart m s0
    (execF1RegisterWrite a1 a2 a3 s) := by
  unfold execF1RegisterWrite
  try dsimp only
  repeat' first
    | with_reducible assumption
    | with_reducible apply State.at_apart
    | with_reducible apply f1WriteByte_apart
    | with_reducible refine OutApart.next ?_
    | with_reducible exact OutApart.refused
    | with_reducible refine Apart.foldl _ _ ?_ ?_
    | with_reducible refine Apart.ite ?_ ?_
    | with_reducible refine OutApart.ite ?_ ?_
    | (intro _)
    | split

theorem execF1SnapshotRead_apart {m : Field → Bool} {s0 s : State} {a1 a2} (k_port : m .port = true) (h : Apart m s0 s) :
    OutApart m s0 (execF1SnapshotRead a1 a2 s) := by
  unfold execF1SnapshotRead
  try dsimp only
  repeat' first
    | with_reducible assumption
    | with_reducible apply State.at_apart
    | with_reducible apply f1ReadByte_apart
    | with_reducible apply respond_apart
    | with_reducible refine Apart.snd ?_ (by assumption)
    | with_reducible refine OutApart.next ?_
    | with_reducible exact OutApart.refused
    | with_reducible refine Apart.foldl _ _ ?_ ?_
    | with_reducible refine Apart.ite ?_ ?_
    | with_reducible refine OutApart.ite ?_ ?_
    | (intro _)
    | split

theorem execHfIrqClear_apart {m : Field → Bool} {s0 s : State} {a1 a2} (k_cue : m .cue = true) (k_log : m .log = true) (k_cur :
    m .cur = true) (k_acctWin : m .acctWin = true) (k_port : m .port = true) (h : Apart m s0 s) : OutApart m s0 (execHfIrqClear
    a1 a2 s) := by
  unfold execHfIrqClear
  try dsimp only
  repeat' first
    | with_reducible assumption
    | with_reducible apply State.at_apart
    | with_reducible apply f1WriteAt_apart
    | with_reducible refine OutApart.next ?_
    | with_reducible exact OutApart.refused
    | with_reducible refine Apart.foldl _ _ ?_ ?_
    | with_reducible refine Apart.ite ?_ ?_
    | with_reducible refine OutApart.ite ?_ ?_
    | (intro _)
    | split

theorem execRxResync_apart {m : Field → Bool} {s0 s : State} {a1 a2} (k_cue : m .cue = true) (k_log : m .log = true) (k_cur : m
    .cur = true) (k_acctWin : m .acctWin = true) (k_port : m .port = true) (h : Apart m s0 s) : OutApart m s0 (execRxResync a1
    a2 s) := by
  unfold execRxResync
  try dsimp only
  repeat' first
    | with_reducible assumption
    | with_reducible apply State.at_apart
    | with_reducible apply f1WriteAt_apart
    | with_reducible refine OutApart.next ?_
    | with_reducible exact OutApart.refused
    | with_reducible refine Apart.foldl _ _ ?_ ?_
    | with_reducible refine Apart.ite ?_ ?_
    | with_reducible refine OutApart.ite ?_ ?_
    | (intro _)
    | split

end Sys2Proof.Machine
end

