-- ==== Sys2Proof/Laws/ApartCard.lean ====
section
/-! SUPPORT. Frames of the operations of Machine/Card.lean. -/

namespace Sys2Proof.Machine

theorem cardLoss_apart {m : Field → Bool} {s0 s : State} (k_dev : m .dev = true) (k_port : m .port = true) (h : Apart m s0 s) :
    Apart m s0 (cardLoss s) := by
  unfold cardLoss
  try dsimp only
  repeat' first
    | with_reducible assumption
    | with_reducible refine OutApart.next ?_
    | with_reducible exact OutApart.refused
    | with_reducible refine Apart.foldl _ _ ?_ ?_
    | with_reducible refine Apart.ite ?_ ?_
    | with_reducible refine OutApart.ite ?_ ?_
    | (intro _)
    | split
    | with_reducible refine Apart.dev ?_ ?_
    | with_reducible refine Apart.port ?_ ?_
    | with_reducible apply Apart.record
    | with_reducible exact Or.inr rfl
    | with_reducible (refine Or.inl ?_)

theorem execCccrResWrite_apart {m : Field → Bool} {s0 s : State} {a1} (k_dev : m .dev = true) (k_port : m .port = true) (h :
    Apart m s0 s) : OutApart m s0 (execCccrResWrite a1 s) := by
  unfold execCccrResWrite
  try dsimp only
  repeat' first
    | with_reducible assumption
    | with_reducible apply State.at_apart
    | with_reducible apply cardLoss_apart
    | with_reducible refine OutApart.next ?_
    | with_reducible exact OutApart.refused
    | with_reducible refine Apart.foldl _ _ ?_ ?_
    | with_reducible refine Apart.ite ?_ ?_
    | with_reducible refine OutApart.ite ?_ ?_
    | (intro _)
    | split

theorem modCard_apart {m : Field → Bool} {s0 s : State} {a1} (k_port : m .port = true) (h : Apart m s0 s) : Apart m s0 (modCard
    a1 s) := by
  unfold modCard
  try dsimp only
  repeat' first
    | with_reducible assumption
    | with_reducible refine OutApart.next ?_
    | with_reducible exact OutApart.refused
    | with_reducible refine Apart.foldl _ _ ?_ ?_
    | with_reducible refine Apart.ite ?_ ?_
    | with_reducible refine OutApart.ite ?_ ?_
    | (intro _)
    | split
    | with_reducible refine Apart.port ?_ ?_

theorem execCmd0_apart {m : Field → Bool} {s0 s : State} {a1} (k_port : m .port = true) (h : Apart m s0 s) : OutApart m s0
    (execCmd0 a1 s) := by
  unfold execCmd0
  try dsimp only
  repeat' first
    | with_reducible assumption
    | with_reducible apply State.at_apart
    | with_reducible apply respond_apart
    | with_reducible apply modCard_apart
    | with_reducible refine OutApart.next ?_
    | with_reducible exact OutApart.refused
    | with_reducible refine Apart.foldl _ _ ?_ ?_
    | with_reducible refine Apart.ite ?_ ?_
    | with_reducible refine OutApart.ite ?_ ?_
    | (intro _)
    | split

theorem execCmd11_apart {m : Field → Bool} {s0 s : State} {a1} (k_port : m .port = true) (h : Apart m s0 s) : OutApart m s0
    (execCmd11 a1 s) := by
  unfold execCmd11
  try dsimp only
  repeat' first
    | with_reducible assumption
    | with_reducible apply State.at_apart
    | with_reducible apply respond_apart
    | with_reducible apply modCard_apart
    | with_reducible refine OutApart.next ?_
    | with_reducible exact OutApart.refused
    | with_reducible refine Apart.foldl _ _ ?_ ?_
    | with_reducible refine Apart.ite ?_ ?_
    | with_reducible refine OutApart.ite ?_ ?_
    | (intro _)
    | split

theorem execCmd15_apart {m : Field → Bool} {s0 s : State} {a1 a2} (k_port : m .port = true) (h : Apart m s0 s) : OutApart m s0
    (execCmd15 a1 a2 s) := by
  unfold execCmd15
  try dsimp only
  repeat' first
    | with_reducible assumption
    | with_reducible apply State.at_apart
    | with_reducible apply modCard_apart
    | with_reducible refine OutApart.next ?_
    | with_reducible exact OutApart.refused
    | with_reducible refine Apart.foldl _ _ ?_ ?_
    | with_reducible refine Apart.ite ?_ ?_
    | with_reducible refine OutApart.ite ?_ ?_
    | (intro _)
    | split

theorem execCmd19_apart {m : Field → Bool} {s0 s : State} {a1} (k_port : m .port = true) (h : Apart m s0 s) : OutApart m s0
    (execCmd19 a1 s) := by
  unfold execCmd19
  try dsimp only
  repeat' first
    | with_reducible assumption
    | with_reducible apply State.at_apart
    | with_reducible apply respond_apart
    | with_reducible apply modCard_apart
    | with_reducible refine OutApart.next ?_
    | with_reducible exact OutApart.refused
    | with_reducible refine Apart.foldl _ _ ?_ ?_
    | with_reducible refine Apart.ite ?_ ?_
    | with_reducible refine OutApart.ite ?_ ?_
    | (intro _)
    | split

theorem execCmd3_apart {m : Field → Bool} {s0 s : State} {a1} (k_free : m .free = true) (k_port : m .port = true) (h : Apart m
    s0 s) : OutApart m s0 (execCmd3 a1 s) := by
  unfold execCmd3
  try dsimp only
  repeat' first
    | with_reducible assumption
    | with_reducible apply State.at_apart
    | with_reducible apply modCard_apart
    | with_reducible apply respond_apart
    | with_reducible refine OutApart.next ?_
    | with_reducible exact OutApart.refused
    | with_reducible refine Apart.foldl _ _ ?_ ?_
    | with_reducible refine Apart.ite ?_ ?_
    | with_reducible refine OutApart.ite ?_ ?_
    | (intro _)
    | split
    | with_reducible refine Apart.free ?_ ?_

theorem execCmd5_apart {m : Field → Bool} {s0 s : State} {a1 a2} (k_log : m .log = true) (k_port : m .port = true) (h : Apart m
    s0 s) : OutApart m s0 (execCmd5 a1 a2 s) := by
  unfold execCmd5
  try dsimp only
  repeat' first
    | with_reducible assumption
    | with_reducible apply State.at_apart
    | with_reducible apply respond_apart
    | with_reducible apply modCard_apart
    | with_reducible apply logEvent_apart
    | with_reducible refine OutApart.next ?_
    | with_reducible exact OutApart.refused
    | with_reducible refine Apart.foldl _ _ ?_ ?_
    | with_reducible refine Apart.ite ?_ ?_
    | with_reducible refine OutApart.ite ?_ ?_
    | (intro _)
    | split

theorem f0Write_apart {m : Field → Bool} {s0 s : State} {a1 a2} (k_dev : m .dev = true) (k_port : m .port = true) (h : Apart m
    s0 s) : Apart m s0 (f0Write a1 a2 s) := by
  unfold f0Write
  try dsimp only
  repeat' first
    | with_reducible assumption
    | with_reducible apply modCard_apart
    | with_reducible apply cardLoss_apart
    | with_reducible refine OutApart.next ?_
    | with_reducible exact OutApart.refused
    | with_reducible refine Apart.foldl _ _ ?_ ?_
    | with_reducible refine Apart.ite ?_ ?_
    | with_reducible refine OutApart.ite ?_ ?_
    | (intro _)
    | split

theorem execCmd52_apart {m : Field → Bool} {s0 s : State} {a1 a2 a3 a4} (k_dev : m .dev = true) (k_cue : m .cue = true) (k_log :
    m .log = true) (k_cur : m .cur = true) (k_acctWin : m .acctWin = true) (k_port : m .port = true) (h : Apart m s0 s) :
    OutApart m s0 (execCmd52 a1 a2 a3 a4 s) := by
  unfold execCmd52
  try dsimp only
  repeat' first
    | with_reducible assumption
    | with_reducible apply State.at_apart
    | with_reducible apply f0Write_apart
    | with_reducible apply respond_apart
    | with_reducible apply f1WriteByte_apart
    | with_reducible apply f1ReadByte_apart
    | with_reducible refine Apart.snd ?_ (by assumption)
    | with_reducible refine OutApart.next ?_
    | with_reducible exact OutApart.refused
    | with_reducible refine Apart.foldl _ _ ?_ ?_
    | with_reducible refine Apart.ite ?_ ?_
    | with_reducible refine OutApart.ite ?_ ?_
    | (intro _)
    | split

theorem f0Writes_apart {m : Field → Bool} {s0 s : State} {a1 : Nat} {a2 : List Byte} (k_dev : m .dev = true) (k_port : m .port = true)
    (h : Apart m s0 s) : Apart m s0 (f0Writes a1 a2 s) := by
  induction a2 generalizing a1 s with
  | nil => exact h
  | cons v vs ih => exact ih (f0Write_apart k_dev k_port h)

theorem execCmd53F0_apart {m : Field → Bool} {s0 s : State} {a1 a2 a3 a4 a5 a6 a7} (k_dev : m .dev = true) (k_port : m .port =
    true) (h : Apart m s0 s) : OutApart m s0 (execCmd53F0 a1 a2 a3 a4 a5 a6 a7 s) := by
  unfold execCmd53F0
  try dsimp only
  repeat' first
    | with_reducible assumption
    | with_reducible apply State.at_apart
    | with_reducible apply respond_apart
    | with_reducible apply f0Writes_apart
    | with_reducible refine OutApart.next ?_
    | with_reducible exact OutApart.refused
    | with_reducible refine Apart.foldl _ _ ?_ ?_
    | with_reducible refine Apart.ite ?_ ?_
    | with_reducible refine OutApart.ite ?_ ?_
    | (intro _)
    | split

theorem execCmd7_apart {m : Field → Bool} {s0 s : State} {a1 a2} (k_port : m .port = true) (h : Apart m s0 s) : OutApart m s0
    (execCmd7 a1 a2 s) := by
  unfold execCmd7
  try dsimp only
  repeat' first
    | with_reducible assumption
    | with_reducible apply State.at_apart
    | with_reducible apply respond_apart
    | with_reducible apply modCard_apart
    | with_reducible refine OutApart.next ?_
    | with_reducible exact OutApart.refused
    | with_reducible refine Apart.foldl _ _ ?_ ?_
    | with_reducible refine Apart.ite ?_ ?_
    | with_reducible refine OutApart.ite ?_ ?_
    | (intro _)
    | split

theorem execFunctionReadyInIorx_apart {m : Field → Bool} {s0 s : State} {a1 a2} (k_port : m .port = true) (h : Apart m s0 s) :
    OutApart m s0 (execFunctionReadyInIorx a1 a2 s) := by
  unfold execFunctionReadyInIorx
  try dsimp only
  repeat' first
    | with_reducible assumption
    | with_reducible apply State.at_apart
    | with_reducible apply modCard_apart
    | with_reducible refine OutApart.next ?_
    | with_reducible exact OutApart.refused
    | with_reducible refine Apart.foldl _ _ ?_ ?_
    | with_reducible refine Apart.ite ?_ ?_
    | with_reducible refine OutApart.ite ?_ ?_
    | (intro _)
    | split

theorem execSdPadSupplyLoss_apart {m : Field → Bool} {s0 s : State} {a1} (k_dev : m .dev = true) (k_port : m .port = true) (h :
    Apart m s0 s) : OutApart m s0 (execSdPadSupplyLoss a1 s) := by
  unfold execSdPadSupplyLoss
  try dsimp only
  repeat' first
    | with_reducible assumption
    | with_reducible apply State.at_apart
    | with_reducible apply cardLoss_apart
    | with_reducible refine OutApart.next ?_
    | with_reducible exact OutApart.refused
    | with_reducible refine Apart.foldl _ _ ?_ ?_
    | with_reducible refine Apart.ite ?_ ?_
    | with_reducible refine OutApart.ite ?_ ?_
    | (intro _)
    | split

end Sys2Proof.Machine
end

