-- ==== Sys2Proof/Laws/ApartSend.lean ====
section
/-! SUPPORT. Frames of the operations of Machine/Send.lean. -/

namespace Sys2Proof.Machine

theorem enqueue_apart {m : Field → Bool} {s0 s : State} {a1} (k_port : m .port = true) (h : Apart m s0 s) : Apart m s0 (enqueue
    a1 s) := by
  unfold enqueue
  try dsimp only
  repeat' first
    | with_reducible assumption
    | with_reducible apply irq_apart
    | with_reducible refine OutApart.next ?_
    | with_reducible exact OutApart.refused
    | with_reducible refine Apart.foldl _ _ ?_ ?_
    | with_reducible refine Apart.ite ?_ ?_
    | with_reducible refine OutApart.ite ?_ ?_
    | (intro _)
    | split
    | with_reducible refine Apart.port ?_ ?_

theorem replyWith_apart {m : Field → Bool} {s0 s : State} {a1 a2 a3 a4 a5} (k_port : m .port = true) (h : Apart m s0 s) : Apart
    m s0 (replyWith a1 a2 a3 a4 a5 s) := by
  unfold replyWith
  try dsimp only
  repeat' first
    | with_reducible assumption
    | with_reducible apply enqueue_apart
    | with_reducible refine OutApart.next ?_
    | with_reducible exact OutApart.refused
    | with_reducible refine Apart.foldl _ _ ?_ ?_
    | with_reducible refine Apart.ite ?_ ?_
    | with_reducible refine OutApart.ite ?_ ?_
    | (intro _)
    | split

theorem reply_apart {m : Field → Bool} {s0 s : State} {a1 a2 a3} (k_port : m .port = true) (h : Apart m s0 s) : Apart m s0
    (reply a1 a2 a3 s) := by
  unfold reply
  try dsimp only
  repeat' first
    | with_reducible assumption
    | with_reducible apply replyWith_apart
    | with_reducible refine OutApart.next ?_
    | with_reducible exact OutApart.refused
    | with_reducible refine Apart.foldl _ _ ?_ ?_
    | with_reducible refine Apart.ite ?_ ?_
    | with_reducible refine OutApart.ite ?_ ?_
    | (intro _)
    | split

theorem originate_apart {m : Field → Bool} {s0 s : State} {a1 a2} (k_port : m .port = true) (h : Apart m s0 s) : Apart m s0
    (originate a1 a2 s) := by
  unfold originate
  try dsimp only
  repeat' first
    | with_reducible assumption
    | with_reducible apply enqueue_apart
    | with_reducible refine OutApart.next ?_
    | with_reducible exact OutApart.refused
    | with_reducible refine Apart.foldl _ _ ?_ ?_
    | with_reducible refine Apart.ite ?_ ?_
    | with_reducible refine OutApart.ite ?_ ?_
    | (intro _)
    | split
    | with_reducible refine Apart.port ?_ ?_

end Sys2Proof.Machine
end

