-- ==== Sys2Proof/Laws/ApartSessions.lean ====
section
/-! SUPPORT. Frames of the operations of Machine/Sessions.lean. -/

namespace Sys2Proof.Machine

theorem setDigPlay_apart {m : Field → Bool} {s0 s : State} {a1 a2} (k_sched : m .sched = true) (h : Apart m s0 s) : Apart m s0
    (setDigPlay a1 a2 s) := by
  unfold setDigPlay
  try dsimp only
  repeat' first
    | with_reducible assumption
    | with_reducible refine OutApart.next ?_
    | with_reducible exact OutApart.refused
    | with_reducible refine Apart.foldl _ _ ?_ ?_
    | with_reducible refine Apart.ite ?_ ?_
    | with_reducible refine OutApart.ite ?_ ?_
    | (intro _)
    | split
    | with_reducible refine Apart.sched ?_ ?_

theorem modSession_apart {m : Field → Bool} {s0 s : State} {a1 a2} (k_cog : m .cog = true) (h : Apart m s0 s) : Apart m s0
    (modSession a1 a2 s) := by
  unfold modSession
  try dsimp only
  repeat' first
    | with_reducible assumption
    | with_reducible refine OutApart.next ?_
    | with_reducible exact OutApart.refused
    | with_reducible refine Apart.foldl _ _ ?_ ?_
    | with_reducible refine Apart.ite ?_ ?_
    | with_reducible refine OutApart.ite ?_ ?_
    | (intro _)
    | split
    | with_reducible refine Apart.cog ?_ ?_

theorem requeueRows_apart {m : Field → Bool} {s0 s : State} {a1} (k_cog : m .cog = true) (h : Apart m s0 s) : Apart m s0
    (requeueRows a1 s) := by
  unfold requeueRows
  try dsimp only
  repeat' first
    | with_reducible assumption
    | with_reducible apply modSession_apart
    | with_reducible refine OutApart.next ?_
    | with_reducible exact OutApart.refused
    | with_reducible refine Apart.foldl _ _ ?_ ?_
    | with_reducible refine Apart.ite ?_ ?_
    | with_reducible refine OutApart.ite ?_ ?_
    | (intro _)
    | split

theorem dropLeaf_apart {m : Field → Bool} {s0 s : State} {a1 a2} (k_cog : m .cog = true) (h : Apart m s0 s) : Apart m s0
    (dropLeaf a1 a2 s) := by
  unfold dropLeaf
  try dsimp only
  repeat' first
    | with_reducible assumption
    | with_reducible refine OutApart.next ?_
    | with_reducible exact OutApart.refused
    | with_reducible refine Apart.foldl _ _ ?_ ?_
    | with_reducible refine Apart.ite ?_ ?_
    | with_reducible refine OutApart.ite ?_ ?_
    | (intro _)
    | split
    | with_reducible refine Apart.cog ?_ ?_

theorem freeReserved_apart {m : Field → Bool} {s0 s : State} {a1 a2} (k_cog : m .cog = true) (h : Apart m s0 s) : Apart m s0
    (freeReserved a1 a2 s) := by
  unfold freeReserved
  try dsimp only
  repeat' first
    | with_reducible assumption
    | with_reducible apply dropLeaf_apart
    | with_reducible refine OutApart.next ?_
    | with_reducible exact OutApart.refused
    | with_reducible refine Apart.foldl _ _ ?_ ?_
    | with_reducible refine Apart.ite ?_ ?_
    | with_reducible refine OutApart.ite ?_ ?_
    | (intro _)
    | split

theorem abandonStep_apart {m : Field → Bool} {s0 s : State} {a1} (k_sched : m .sched = true) (k_cog : m .cog = true) (k_mem : m
    .mem = true) (h : Apart m s0 s) : Apart m s0 (abandonStep a1 s) := by
  unfold abandonStep
  try dsimp only
  repeat' first
    | with_reducible assumption
    | with_reducible apply setDigPlay_apart
    | with_reducible apply requeueRows_apart
    | with_reducible apply freeReserved_apart
    | with_reducible apply forgetValues_apart
    | with_reducible refine OutApart.next ?_
    | with_reducible exact OutApart.refused
    | with_reducible refine Apart.foldl _ _ ?_ ?_
    | with_reducible refine Apart.ite ?_ ?_
    | with_reducible refine OutApart.ite ?_ ?_
    | (intro _)
    | split
    | with_reducible refine Apart.sched ?_ ?_
    | with_reducible refine Apart.cog ?_ ?_
    | with_reducible apply Apart.record
    | with_reducible exact Or.inr rfl
    | with_reducible (refine Or.inl ?_)

theorem dropRows_apart {m : Field → Bool} {s0 s : State} {a1} (k_cog : m .cog = true) (h : Apart m s0 s) : Apart m s0 (dropRows
    a1 s) := by
  unfold dropRows
  try dsimp only
  repeat' first
    | with_reducible assumption
    | with_reducible refine OutApart.next ?_
    | with_reducible exact OutApart.refused
    | with_reducible refine Apart.foldl _ _ ?_ ?_
    | with_reducible refine Apart.ite ?_ ?_
    | with_reducible refine OutApart.ite ?_ ?_
    | (intro _)
    | split
    | with_reducible refine Apart.cog ?_ ?_

theorem abortSession_apart {m : Field → Bool} {s0 s : State} {a1 a2} (k_log : m .log = true) (k_cog : m .cog = true) (h : Apart
    m s0 s) : Apart m s0 (abortSession a1 a2 s).2 := by
  unfold abortSession
  try dsimp only
  repeat' first
    | with_reducible assumption
    | with_reducible apply logEvent_apart
    | with_reducible apply modSession_apart
    | with_reducible apply dropRows_apart
    | with_reducible refine OutApart.next ?_
    | with_reducible exact OutApart.refused
    | with_reducible refine Apart.foldl _ _ ?_ ?_
    | with_reducible refine Apart.ite ?_ ?_
    | with_reducible refine OutApart.ite ?_ ?_
    | (intro _)
    | split

theorem setLeaf_apart {m : Field → Bool} {s0 s : State} {a1} (k_cog : m .cog = true) (h : Apart m s0 s) : Apart m s0 (setLeaf a1
    s) := by
  unfold setLeaf
  try dsimp only
  repeat' first
    | with_reducible assumption
    | with_reducible apply dropLeaf_apart
    | with_reducible refine OutApart.next ?_
    | with_reducible exact OutApart.refused
    | with_reducible refine Apart.foldl _ _ ?_ ?_
    | with_reducible refine Apart.ite ?_ ?_
    | with_reducible refine OutApart.ite ?_ ?_
    | (intro _)
    | split
    | with_reducible refine Apart.cog ?_ ?_

theorem decLeaf_apart {m : Field → Bool} {s0 s : State} {a1 a2} (k_cog : m .cog = true) (h : Apart m s0 s) : Apart m s0 (decLeaf
    a1 a2 s) := by
  unfold decLeaf
  try dsimp only
  repeat' first
    | with_reducible assumption
    | with_reducible apply setLeaf_apart
    | with_reducible apply dropLeaf_apart
    | with_reducible refine OutApart.next ?_
    | with_reducible exact OutApart.refused
    | with_reducible refine Apart.foldl _ _ ?_ ?_
    | with_reducible refine Apart.ite ?_ ?_
    | with_reducible refine OutApart.ite ?_ ?_
    | (intro _)
    | split

theorem decLeaves_apart {m : Field → Bool} {s0 s : State} {a1 a2} (k_cog : m .cog = true) (h : Apart m s0 s) : Apart m s0
    (decLeaves a1 a2 s) := by
  unfold decLeaves
  try dsimp only
  repeat' first
    | with_reducible assumption
    | with_reducible apply decLeaf_apart
    | with_reducible refine OutApart.next ?_
    | with_reducible exact OutApart.refused
    | with_reducible refine Apart.foldl _ _ ?_ ?_
    | with_reducible refine Apart.ite ?_ ?_
    | with_reducible refine OutApart.ite ?_ ?_
    | (intro _)
    | split

theorem settleStep_apart {m : Field → Bool} {s0 s : State} {a1 a2} (k_sched : m .sched = true) (k_cog : m .cog = true) (k_mem :
    m .mem = true) (h : Apart m s0 s) : Apart m s0 (settleStep a1 a2 s) := by
  unfold settleStep
  try dsimp only
  repeat' first
    | with_reducible assumption
    | with_reducible apply abandonStep_apart
    | with_reducible refine OutApart.next ?_
    | with_reducible exact OutApart.refused
    | with_reducible refine Apart.foldl _ _ ?_ ?_
    | with_reducible refine Apart.ite ?_ ?_
    | with_reducible refine OutApart.ite ?_ ?_
    | (intro _)
    | split

theorem settleSteps_apart {m : Field → Bool} {s0 s : State} {a1} (k_sched : m .sched = true) (k_cog : m .cog = true) (k_mem : m
    .mem = true) (h : Apart m s0 s) : Apart m s0 (settleSteps a1 s) := by
  unfold settleSteps
  try dsimp only
  repeat' first
    | with_reducible assumption
    | with_reducible apply settleStep_apart
    | with_reducible refine OutApart.next ?_
    | with_reducible exact OutApart.refused
    | with_reducible refine Apart.foldl _ _ ?_ ?_
    | with_reducible refine Apart.ite ?_ ?_
    | with_reducible refine OutApart.ite ?_ ?_
    | (intro _)
    | split

theorem closeSession_apart {m : Field → Bool} {s0 s : State} {a1} (k_sched : m .sched = true) (k_cog : m .cog = true) (k_mem : m
    .mem = true) (h : Apart m s0 s) : Apart m s0 (closeSession a1 s) := by
  unfold closeSession
  try dsimp only
  repeat' first
    | with_reducible assumption
    | with_reducible apply dropRows_apart
    | with_reducible apply decLeaves_apart
    | with_reducible apply modSession_apart
    | with_reducible apply settleSteps_apart
    | with_reducible refine OutApart.next ?_
    | with_reducible exact OutApart.refused
    | with_reducible refine Apart.foldl _ _ ?_ ?_
    | with_reducible refine Apart.ite ?_ ?_
    | with_reducible refine OutApart.ite ?_ ?_
    | (intro _)
    | split

theorem setKeep_apart {m : Field → Bool} {s0 s : State} {a1} (k_cog : m .cog = true) (h : Apart m s0 s) : Apart m s0 (setKeep a1
    s) := by
  unfold setKeep
  try dsimp only
  repeat' first
    | with_reducible assumption
    | with_reducible refine OutApart.next ?_
    | with_reducible exact OutApart.refused
    | with_reducible refine Apart.foldl _ _ ?_ ?_
    | with_reducible refine Apart.ite ?_ ?_
    | with_reducible refine OutApart.ite ?_ ?_
    | (intro _)
    | split
    | with_reducible refine Apart.cog ?_ ?_

theorem releaseKeep_apart {m : Field → Bool} {s0 s : State} {a1} (k_cog : m .cog = true) (h : Apart m s0 s) : Apart m s0
    (releaseKeep a1 s) := by
  unfold releaseKeep
  try dsimp only
  repeat' first
    | with_reducible assumption
    | with_reducible apply decLeaves_apart
    | with_reducible apply setKeep_apart
    | with_reducible refine OutApart.next ?_
    | with_reducible exact OutApart.refused
    | with_reducible refine Apart.foldl _ _ ?_ ?_
    | with_reducible refine Apart.ite ?_ ?_
    | with_reducible refine OutApart.ite ?_ ?_
    | (intro _)
    | split

theorem ready_apart {m : Field → Bool} {s0 s : State} {a1} (k_cog : m .cog = true) (h : Apart m s0 s) : Apart m s0 (ready a1 s)
    := by
  unfold ready
  try dsimp only
  repeat' first
    | with_reducible assumption
    | with_reducible apply modSession_apart
    | with_reducible refine OutApart.next ?_
    | with_reducible exact OutApart.refused
    | with_reducible refine Apart.foldl _ _ ?_ ?_
    | with_reducible refine Apart.ite ?_ ?_
    | with_reducible refine OutApart.ite ?_ ?_
    | (intro _)
    | split
    | with_reducible refine Apart.cog ?_ ?_

theorem acceptInput_apart {m : Field → Bool} {s0 s : State} {a1 a2} (k_cog : m .cog = true) (h : Apart m s0 s) : Apart m s0
    (acceptInput a1 a2 s).2 := by
  unfold acceptInput
  try dsimp only
  repeat' first
    | with_reducible assumption
    | with_reducible apply ready_apart
    | with_reducible apply modSession_apart
    | with_reducible refine OutApart.next ?_
    | with_reducible exact OutApart.refused
    | with_reducible refine Apart.foldl _ _ ?_ ?_
    | with_reducible refine Apart.ite ?_ ?_
    | with_reducible refine OutApart.ite ?_ ?_
    | (intro _)
    | split

theorem setSession_apart {m : Field → Bool} {s0 s : State} {a1} (k_cog : m .cog = true) (h : Apart m s0 s) : Apart m s0
    (setSession a1 s) := by
  unfold setSession
  try dsimp only
  repeat' first
    | with_reducible assumption
    | with_reducible refine OutApart.next ?_
    | with_reducible exact OutApart.refused
    | with_reducible refine Apart.foldl _ _ ?_ ?_
    | with_reducible refine Apart.ite ?_ ?_
    | with_reducible refine OutApart.ite ?_ ?_
    | (intro _)
    | split
    | with_reducible refine Apart.cog ?_ ?_

theorem toIdle_apart {m : Field → Bool} {s0 s : State} {a1} (k_cog : m .cog = true) (h : Apart m s0 s) : Apart m s0 (toIdle a1
    s) := by
  unfold toIdle
  try dsimp only
  repeat' first
    | with_reducible assumption
    | with_reducible apply modSession_apart
    | with_reducible apply ready_apart
    | with_reducible refine OutApart.next ?_
    | with_reducible exact OutApart.refused
    | with_reducible refine Apart.foldl _ _ ?_ ?_
    | with_reducible refine Apart.ite ?_ ?_
    | with_reducible refine OutApart.ite ?_ ?_
    | (intro _)
    | split

theorem modStep_apart {m : Field → Bool} {s0 s : State} {a1 a2 a3} (k_cog : m .cog = true) (h : Apart m s0 s) : Apart m s0
    (modStep a1 a2 a3 s) := by
  unfold modStep
  try dsimp only
  repeat' first
    | with_reducible assumption
    | with_reducible refine OutApart.next ?_
    | with_reducible exact OutApart.refused
    | with_reducible refine Apart.foldl _ _ ?_ ?_
    | with_reducible refine Apart.ite ?_ ?_
    | with_reducible refine OutApart.ite ?_ ?_
    | (intro _)
    | split
    | with_reducible refine Apart.cog ?_ ?_

theorem forgetStep_apart {m : Field → Bool} {s0 s : State} {a1} (k_sched : m .sched = true) (k_cog : m .cog = true) (k_mem : m
    .mem = true) (h : Apart m s0 s) : Apart m s0 (forgetStep a1 s) := by
  unfold forgetStep
  try dsimp only
  repeat' first
    | with_reducible assumption
    | with_reducible apply forgetValues_apart
    | with_reducible refine OutApart.next ?_
    | with_reducible exact OutApart.refused
    | with_reducible refine Apart.foldl _ _ ?_ ?_
    | with_reducible refine Apart.ite ?_ ?_
    | with_reducible refine OutApart.ite ?_ ?_
    | (intro _)
    | split
    | with_reducible refine Apart.sched ?_ ?_
    | with_reducible refine Apart.cog ?_ ?_
    | with_reducible apply Apart.record
    | with_reducible exact Or.inr rfl
    | with_reducible (refine Or.inl ?_)

theorem incLeaf_apart {m : Field → Bool} {s0 s : State} {a1 a2} (k_log : m .log = true) (k_cog : m .cog = true) (h : Apart m s0
    s) : Apart m s0 (incLeaf a1 a2 s) := by
  unfold incLeaf
  try dsimp only
  repeat' first
    | with_reducible assumption
    | with_reducible apply setLeaf_apart
    | with_reducible apply logEvent_apart
    | with_reducible refine OutApart.next ?_
    | with_reducible exact OutApart.refused
    | with_reducible refine Apart.foldl _ _ ?_ ?_
    | with_reducible refine Apart.ite ?_ ?_
    | with_reducible refine OutApart.ite ?_ ?_
    | (intro _)
    | split

theorem incLeaves_apart {m : Field → Bool} {s0 s : State} {a1 a2} (k_log : m .log = true) (k_cog : m .cog = true) (h : Apart m
    s0 s) : Apart m s0 (incLeaves a1 a2 s) := by
  unfold incLeaves
  try dsimp only
  repeat' first
    | with_reducible assumption
    | with_reducible apply incLeaf_apart
    | with_reducible refine OutApart.next ?_
    | with_reducible exact OutApart.refused
    | with_reducible refine Apart.foldl _ _ ?_ ?_
    | with_reducible refine Apart.ite ?_ ?_
    | with_reducible refine OutApart.ite ?_ ?_
    | (intro _)
    | split

theorem createKeep_apart {m : Field → Bool} {s0 s : State} {a1 a2} (k_log : m .log = true) (k_cog : m .cog = true) (h : Apart m
    s0 s) : Apart m s0 (createKeep a1 a2 s).2.2 := by
  unfold createKeep
  try dsimp only
  repeat' first
    | with_reducible assumption
    | with_reducible apply logEvent_apart
    | with_reducible apply incLeaves_apart
    | with_reducible apply setKeep_apart
    | with_reducible refine OutApart.next ?_
    | with_reducible exact OutApart.refused
    | with_reducible refine Apart.foldl _ _ ?_ ?_
    | with_reducible refine Apart.ite ?_ ?_
    | with_reducible refine OutApart.ite ?_ ?_
    | (intro _)
    | split

theorem openSlot_apart {m : Field → Bool} {s0 s : State} {a1 a2 a3} (k_log : m .log = true) (k_cog : m .cog = true) (k_accts : m
    .accts = true) (h : Apart m s0 s) : Apart m s0 (openSlot a1 a2 a3 s).2 := by
  unfold openSlot
  try dsimp only
  repeat' first
    | with_reducible assumption
    | with_reducible apply incLeaves_apart
    | with_reducible apply setSession_apart
    | with_reducible refine OutApart.next ?_
    | with_reducible exact OutApart.refused
    | with_reducible refine Apart.foldl _ _ ?_ ?_
    | with_reducible refine Apart.ite ?_ ?_
    | with_reducible refine OutApart.ite ?_ ?_
    | (intro _)
    | split
    | with_reducible refine Apart.accts ?_ ?_

theorem openSession_apart {m : Field → Bool} {s0 s : State} {a1} (k_log : m .log = true) (k_cog : m .cog = true) (k_accts : m
    .accts = true) (h : Apart m s0 s) : Apart m s0 (openSession a1 s).2.2 := by
  unfold openSession
  try dsimp only
  repeat' first
    | with_reducible assumption
    | with_reducible apply logEvent_apart
    | with_reducible apply openSlot_apart
    | with_reducible refine Apart.snd ?_ (by assumption)
    | with_reducible refine OutApart.next ?_
    | with_reducible exact OutApart.refused
    | with_reducible refine Apart.foldl _ _ ?_ ?_
    | with_reducible refine Apart.ite ?_ ?_
    | with_reducible refine OutApart.ite ?_ ?_
    | (intro _)
    | split

theorem reserveLeaves_apart {m : Field → Bool} {s0 s : State} {a1 a2 : Nat} (k_cog : m .cog = true)
    (h : Apart m s0 s) : Apart m s0 (reserveLeaves a1 a2 s).2 := by
  induction a2 generalizing s with
  | zero => exact h
  | succ n ih => exact ih (setLeaf_apart k_cog h)

theorem formRow_apart {m : Field → Bool} {s0 s : State} {a1 a2 a3} (k_cog : m .cog = true) (h : Apart m s0 s) : Apart m s0
    (formRow a1 a2 a3 s).2 := by
  unfold formRow
  try dsimp only
  repeat' first
    | with_reducible assumption
    | with_reducible apply reserveLeaves_apart
    | with_reducible refine Apart.snd ?_ (by assumption)
    | with_reducible refine OutApart.next ?_
    | with_reducible exact OutApart.refused
    | with_reducible refine Apart.foldl _ _ ?_ ?_
    | with_reducible refine Apart.ite ?_ ?_
    | with_reducible refine OutApart.ite ?_ ?_
    | (intro _)
    | split

theorem formRows_apart {m : Field → Bool} {s0 s : State} {a1 : Limits} {a2 : List Session} {a3 : Forming} (k_cog : m .cog = true)
    (h : Apart m s0 s) : Apart m s0 (formRows a1 a2 a3 s).2 := by
  induction a2 generalizing a3 s with
  | nil => exact h
  | cons x xs ih => exact ih (formRow_apart k_cog h)

end Sys2Proof.Machine
end

