-- ==== Sys2Proof/Laws/ApartFabric.lean ====
section
/-! SUPPORT. Frames of the operations of Machine/Fabric.lean. -/

namespace Sys2Proof.Machine

theorem devWrite_apart {m : Field → Bool} {s0 s : State} {a1 a2} (k_mem : m .mem = true) (h : Apart m s0 s) : Apart m s0
    (devWrite a1 a2 s) := by
  unfold devWrite
  try dsimp only
  repeat' first
    | with_reducible assumption
    | with_reducible refine OutApart.next ?_
    | with_reducible exact OutApart.refused
    | with_reducible refine Apart.foldl _ _ ?_ ?_
    | with_reducible refine Apart.ite ?_ ?_
    | with_reducible refine OutApart.ite ?_ ?_
    | (intro _)
    | split
    | with_reducible refine Apart.mem ?_ ?_

theorem abandonPoisoned_apart {m : Field → Bool} {s0 s : State} {a1} (k_log : m .log = true) (k_units : m .units = true)
    (k_sched : m .sched = true) (k_cog : m .cog = true) (k_part : m .part = true) (k_accts : m .accts = true) (k_mem : m .mem =
    true) (k_press : m .press = true) (k_gov : m .gov = true) (h : Apart m s0 s) : Apart m s0 (abandonPoisoned a1 s) := by
  unfold abandonPoisoned
  try dsimp only
  repeat' first
    | with_reducible assumption
    | with_reducible apply killInst_apart
    | with_reducible apply abandonInst_apart
    | with_reducible apply abandonStep_apart
    | with_reducible refine OutApart.next ?_
    | with_reducible exact OutApart.refused
    | with_reducible refine Apart.foldl _ _ ?_ ?_
    | with_reducible refine Apart.ite ?_ ?_
    | with_reducible refine OutApart.ite ?_ ?_
    | (intro _)
    | split

theorem queueRestore_apart {m : Field → Bool} {s0 s : State} {a1 a2} (k_mem : m .mem = true) (h : Apart m s0 s) : Apart m s0
    (queueRestore a1 a2 s) := by
  unfold queueRestore
  try dsimp only
  repeat' first
    | with_reducible assumption
    | with_reducible refine OutApart.next ?_
    | with_reducible exact OutApart.refused
    | with_reducible refine Apart.foldl _ _ ?_ ?_
    | with_reducible refine Apart.ite ?_ ?_
    | with_reducible refine OutApart.ite ?_ ?_
    | (intro _)
    | split
    | with_reducible refine Apart.mem ?_ ?_

theorem cacheEntry_apart {m : Field → Bool} {s0 s : State} {a1 a2} (k_mem : m .mem = true) (h : Apart m s0 s) : Apart m s0
    (cacheEntry a1 a2 s) := by
  unfold cacheEntry
  try dsimp only
  repeat' first
    | with_reducible assumption
    | with_reducible refine OutApart.next ?_
    | with_reducible exact OutApart.refused
    | with_reducible refine Apart.foldl _ _ ?_ ?_
    | with_reducible refine Apart.ite ?_ ?_
    | with_reducible refine OutApart.ite ?_ ?_
    | (intro _)
    | split
    | with_reducible refine Apart.mem ?_ ?_

theorem lockPages_apart {m : Field → Bool} {s0 s : State} {a1 a2} (k_mem : m .mem = true) (h : Apart m s0 s) : Apart m s0
    (lockPages a1 a2 s) := by
  unfold lockPages
  try dsimp only
  repeat' first
    | with_reducible assumption
    | with_reducible apply cacheEntry_apart
    | with_reducible refine OutApart.next ?_
    | with_reducible exact OutApart.refused
    | with_reducible refine Apart.foldl _ _ ?_ ?_
    | with_reducible refine Apart.ite ?_ ?_
    | with_reducible refine OutApart.ite ?_ ?_
    | (intro _)
    | split

theorem loseValue_apart {m : Field → Bool} {s0 s : State} {a1 a2} (k_cue : m .cue = true) (k_log : m .log = true) (k_units : m
    .units = true) (k_cur : m .cur = true) (k_sched : m .sched = true) (k_cog : m .cog = true) (k_part : m .part = true)
    (k_accts : m .accts = true) (k_mem : m .mem = true) (k_press : m .press = true) (k_port : m .port = true) (k_gov : m .gov =
    true) (h : Apart m s0 s) : Apart m s0 (loseValue a1 a2 s) := by
  unfold loseValue
  try dsimp only
  repeat' first
    | with_reducible assumption
    | with_reducible apply forgetValues_apart
    | with_reducible apply detect_apart
    | with_reducible apply abandonPoisoned_apart
    | with_reducible refine OutApart.next ?_
    | with_reducible exact OutApart.refused
    | with_reducible refine Apart.foldl _ _ ?_ ?_
    | with_reducible refine Apart.ite ?_ ?_
    | with_reducible refine OutApart.ite ?_ ?_
    | (intro _)
    | split

theorem poisonRead_apart {m : Field → Bool} {s0 s : State} {a1 a2 a3} (k_cue : m .cue = true) (k_log : m .log = true) (k_units :
    m .units = true) (k_cur : m .cur = true) (k_sched : m .sched = true) (k_cog : m .cog = true) (k_part : m .part = true)
    (k_accts : m .accts = true) (k_mem : m .mem = true) (k_press : m .press = true) (k_port : m .port = true) (k_gov : m .gov =
    true) (h : Apart m s0 s) : Apart m s0 (poisonRead a1 a2 a3 s) := by
  unfold poisonRead
  try dsimp only
  repeat' first
    | with_reducible assumption
    | with_reducible apply queueRestore_apart
    | with_reducible apply killWhere_apart
    | with_reducible apply killInst_apart
    | with_reducible apply loseValue_apart
    | with_reducible apply setLeaf_apart
    | with_reducible refine OutApart.next ?_
    | with_reducible exact OutApart.refused
    | with_reducible refine Apart.foldl _ _ ?_ ?_
    | with_reducible refine Apart.ite ?_ ?_
    | with_reducible refine OutApart.ite ?_ ?_
    | (intro _)
    | split

theorem caseWrite_apart {m : Field → Bool} {s0 s : State} {a1 a2 a3 a4 a5} (k_mem : m .mem = true) (h : Apart m s0 s) : Apart m
    s0 (caseWrite a1 a2 a3 a4 a5 s) := by
  unfold caseWrite
  try dsimp only
  repeat' first
    | with_reducible assumption
    | with_reducible apply devWrite_apart
    | with_reducible refine OutApart.next ?_
    | with_reducible exact OutApart.refused
    | with_reducible refine Apart.foldl _ _ ?_ ?_
    | with_reducible refine Apart.ite ?_ ?_
    | with_reducible refine OutApart.ite ?_ ?_
    | (intro _)
    | split

theorem countCorrected_apart {m : Field → Bool} {s0 s : State} {a1} (k_mem : m .mem = true) (h : Apart m s0 s) : Apart m s0
    (countCorrected a1 s) := by
  unfold countCorrected
  try dsimp only
  repeat' first
    | with_reducible assumption
    | with_reducible refine OutApart.next ?_
    | with_reducible exact OutApart.refused
    | with_reducible refine Apart.foldl _ _ ?_ ?_
    | with_reducible refine Apart.ite ?_ ?_
    | with_reducible refine OutApart.ite ?_ ?_
    | (intro _)
    | split
    | with_reducible refine Apart.mem ?_ ?_

theorem corrected_apart {m : Field → Bool} {s0 s : State} {a1} (k_log : m .log = true) (k_mem : m .mem = true) (h : Apart m s0
    s) : Apart m s0 (corrected a1 s) := by
  unfold corrected
  try dsimp only
  repeat' first
    | with_reducible assumption
    | with_reducible apply logOnce_apart
    | with_reducible apply countCorrected_apart
    | with_reducible refine OutApart.next ?_
    | with_reducible exact OutApart.refused
    | with_reducible refine Apart.foldl _ _ ?_ ?_
    | with_reducible refine Apart.ite ?_ ?_
    | with_reducible refine OutApart.ite ?_ ?_
    | (intro _)
    | split
    | with_reducible refine Apart.mem ?_ ?_

theorem countDouble_apart {m : Field → Bool} {s0 s : State} {a1} (k_mem : m .mem = true) (h : Apart m s0 s) : Apart m s0
    (countDouble a1 s) := by
  unfold countDouble
  try dsimp only
  repeat' first
    | with_reducible assumption
    | with_reducible refine OutApart.next ?_
    | with_reducible exact OutApart.refused
    | with_reducible refine Apart.foldl _ _ ?_ ?_
    | with_reducible refine Apart.ite ?_ ?_
    | with_reducible refine OutApart.ite ?_ ?_
    | (intro _)
    | split
    | with_reducible refine Apart.mem ?_ ?_

theorem countExhausted_apart {m : Field → Bool} {s0 s : State} {a1} (k_mem : m .mem = true) (h : Apart m s0 s) : Apart m s0
    (countExhausted a1 s) := by
  unfold countExhausted
  try dsimp only
  repeat' first
    | with_reducible assumption
    | with_reducible refine OutApart.next ?_
    | with_reducible exact OutApart.refused
    | with_reducible refine Apart.foldl _ _ ?_ ?_
    | with_reducible refine Apart.ite ?_ ?_
    | with_reducible refine OutApart.ite ?_ ?_
    | (intro _)
    | split
    | with_reducible refine Apart.mem ?_ ?_

theorem countPf_apart {m : Field → Bool} {s0 s : State} {a1 a2} (k_mem : m .mem = true) (h : Apart m s0 s) : Apart m s0 (countPf
    a1 a2 s) := by
  unfold countPf
  try dsimp only
  repeat' first
    | with_reducible assumption
    | with_reducible refine OutApart.next ?_
    | with_reducible exact OutApart.refused
    | with_reducible refine Apart.foldl _ _ ?_ ?_
    | with_reducible refine Apart.ite ?_ ?_
    | with_reducible refine OutApart.ite ?_ ?_
    | (intro _)
    | split
    | with_reducible refine Apart.mem ?_ ?_

theorem countResent_apart {m : Field → Bool} {s0 s : State} {a1} (k_mem : m .mem = true) (h : Apart m s0 s) : Apart m s0
    (countResent a1 s) := by
  unfold countResent
  try dsimp only
  repeat' first
    | with_reducible assumption
    | with_reducible refine OutApart.next ?_
    | with_reducible exact OutApart.refused
    | with_reducible refine Apart.foldl _ _ ?_ ?_
    | with_reducible refine Apart.ite ?_ ?_
    | with_reducible refine OutApart.ite ?_ ?_
    | (intro _)
    | split
    | with_reducible refine Apart.mem ?_ ?_

theorem countRestored_apart {m : Field → Bool} {s0 s : State} (k_mem : m .mem = true) (h : Apart m s0 s) : Apart m s0
    (countRestored s) := by
  unfold countRestored
  try dsimp only
  repeat' first
    | with_reducible assumption
    | with_reducible refine OutApart.next ?_
    | with_reducible exact OutApart.refused
    | with_reducible refine Apart.foldl _ _ ?_ ?_
    | with_reducible refine Apart.ite ?_ ?_
    | with_reducible refine OutApart.ite ?_ ?_
    | (intro _)
    | split
    | with_reducible refine Apart.mem ?_ ?_

theorem countSeverity_apart {m : Field → Bool} {s0 s : State} {a1} (k_mem : m .mem = true) (h : Apart m s0 s) : Apart m s0
    (countSeverity a1 s) := by
  unfold countSeverity
  try dsimp only
  repeat' first
    | with_reducible assumption
    | with_reducible refine OutApart.next ?_
    | with_reducible exact OutApart.refused
    | with_reducible refine Apart.foldl _ _ ?_ ?_
    | with_reducible refine Apart.ite ?_ ?_
    | with_reducible refine OutApart.ite ?_ ?_
    | (intro _)
    | split
    | with_reducible refine Apart.mem ?_ ?_

theorem countTimeout_apart {m : Field → Bool} {s0 s : State} {a1} (k_mem : m .mem = true) (h : Apart m s0 s) : Apart m s0
    (countTimeout a1 s) := by
  unfold countTimeout
  try dsimp only
  repeat' first
    | with_reducible assumption
    | with_reducible refine OutApart.next ?_
    | with_reducible exact OutApart.refused
    | with_reducible refine Apart.foldl _ _ ?_ ?_
    | with_reducible refine Apart.ite ?_ ?_
    | with_reducible refine OutApart.ite ?_ ?_
    | (intro _)
    | split
    | with_reducible refine Apart.mem ?_ ?_

theorem logDouble_apart {m : Field → Bool} {s0 s : State} {a1} (k_log : m .log = true) (k_mem : m .mem = true) (h : Apart m s0
    s) : Apart m s0 (logDouble a1 s) := by
  unfold logDouble
  try dsimp only
  repeat' first
    | with_reducible assumption
    | with_reducible apply countDouble_apart
    | with_reducible apply logEvent_apart
    | with_reducible refine OutApart.next ?_
    | with_reducible exact OutApart.refused
    | with_reducible refine Apart.foldl _ _ ?_ ?_
    | with_reducible refine Apart.ite ?_ ?_
    | with_reducible refine OutApart.ite ?_ ?_
    | (intro _)
    | split
    | with_reducible refine Apart.mem ?_ ?_

theorem poison_apart {m : Field → Bool} {s0 s : State} {a1} (k_mem : m .mem = true) (h : Apart m s0 s) : Apart m s0 (poison a1
    s) := by
  unfold poison
  try dsimp only
  repeat' first
    | with_reducible assumption
    | with_reducible refine OutApart.next ?_
    | with_reducible exact OutApart.refused
    | with_reducible refine Apart.foldl _ _ ?_ ?_
    | with_reducible refine Apart.ite ?_ ?_
    | with_reducible refine OutApart.ite ?_ ?_
    | (intro _)
    | split
    | with_reducible refine Apart.mem ?_ ?_

theorem doubleError_apart {m : Field → Bool} {s0 s : State} {a1 a2} (k_cue : m .cue = true) (k_log : m .log = true) (k_units : m
    .units = true) (k_cur : m .cur = true) (k_cls : m .cls = true) (k_sched : m .sched = true) (k_cog : m .cog = true) (k_part :
    m .part = true) (k_accts : m .accts = true) (k_mem : m .mem = true) (k_press : m .press = true) (k_port : m .port = true)
    (k_gov : m .gov = true) (h : Apart m s0 s) : Apart m s0 (doubleError a1 a2 s) := by
  unfold doubleError
  try dsimp only
  repeat' first
    | with_reducible assumption
    | with_reducible apply logDouble_apart
    | with_reducible apply suspectUnit_apart
    | with_reducible apply killElsewhere_apart
    | with_reducible apply poison_apart
    | with_reducible apply poisonRead_apart
    | with_reducible apply detect_apart
    | with_reducible apply State.modUnit_apart
    | with_reducible apply strike_apart
    | with_reducible refine OutApart.next ?_
    | with_reducible exact OutApart.refused
    | with_reducible refine Apart.foldl _ _ ?_ ?_
    | with_reducible refine Apart.ite ?_ ?_
    | with_reducible refine OutApart.ite ?_ ?_
    | (intro _)
    | split

theorem memErrs_apart {m : Field → Bool} {s0 s : State} {a1 a2} (k_cue : m .cue = true) (k_log : m .log = true) (k_units : m
    .units = true) (k_cur : m .cur = true) (k_cls : m .cls = true) (k_sched : m .sched = true) (k_cog : m .cog = true) (k_part :
    m .part = true) (k_accts : m .accts = true) (k_mem : m .mem = true) (k_press : m .press = true) (k_port : m .port = true)
    (k_gov : m .gov = true) (h : Apart m s0 s) : Apart m s0 (memErrs a1 a2 s) := by
  unfold memErrs
  try dsimp only
  repeat' first
    | with_reducible assumption
    | with_reducible apply doubleError_apart
    | with_reducible apply corrected_apart
    | with_reducible refine OutApart.next ?_
    | with_reducible exact OutApart.refused
    | with_reducible refine Apart.foldl _ _ ?_ ?_
    | with_reducible refine Apart.ite ?_ ?_
    | with_reducible refine OutApart.ite ?_ ?_
    | (intro _)
    | split

theorem unlockPages_apart {m : Field → Bool} {s0 s : State} (k_mem : m .mem = true) (h : Apart m s0 s) : Apart m s0 (unlockPages
    s) := by
  unfold unlockPages
  try dsimp only
  repeat' first
    | with_reducible assumption
    | with_reducible refine OutApart.next ?_
    | with_reducible exact OutApart.refused
    | with_reducible refine Apart.foldl _ _ ?_ ?_
    | with_reducible refine Apart.ite ?_ ?_
    | with_reducible refine OutApart.ite ?_ ?_
    | (intro _)
    | split
    | with_reducible refine Apart.mem ?_ ?_

end Sys2Proof.Machine
end

