-- ==== Sys2Proof/Laws/ApartRequests.lean ====
section
/-! SUPPORT. Frames of the operations of Machine/Requests.lean. -/

namespace Sys2Proof.Machine

theorem setSplit_apart {m : Field → Bool} {s0 s : State} {a1 a2} (k_mem : m .mem = true) (h : Apart m s0 s) : Apart m s0
    (setSplit a1 a2 s) := by
  unfold setSplit
  try dsimp only
  repeat' first
    | with_reducible assumption
    | with_reducible refine OutApart.next ?_
    | with_reducible exact OutApart.refused
    | with_reducible refine Apart.foldl _ _ ?_ ?_
    | with_reducible refine Apart.ite ?_ ?_
    | with_reducible refine OutApart.ite ?_ ?_
    | (intro _)
    | split
    | with_reducible refine Apart.mem ?_ ?_

theorem waitHand_apart {m : Field → Bool} {s0 s : State} {a1 a2 a3} (k_press : m .press = true) (h : Apart m s0 s) : Apart m s0
    (waitHand a1 a2 a3 s) := by
  unfold waitHand
  try dsimp only
  repeat' first
    | with_reducible assumption
    | with_reducible apply State.modPress_apart
    | with_reducible refine OutApart.next ?_
    | with_reducible exact OutApart.refused
    | with_reducible refine Apart.foldl _ _ ?_ ?_
    | with_reducible refine Apart.ite ?_ ?_
    | with_reducible refine OutApart.ite ?_ ?_
    | (intro _)
    | split

theorem allocPrefetch_apart {m : Field → Bool} {s0 s : State} {a1 a2 a3 a4} (k_mem : m .mem = true) (h : Apart m s0 s) : Apart m
    s0 (allocPrefetch a1 a2 a3 a4 s) := by
  unfold allocPrefetch
  try dsimp only
  repeat' first
    | with_reducible assumption
    | with_reducible refine OutApart.next ?_
    | with_reducible exact OutApart.refused
    | with_reducible refine Apart.foldl _ _ ?_ ?_
    | with_reducible refine Apart.ite ?_ ?_
    | with_reducible refine OutApart.ite ?_ ?_
    | (intro _)
    | split
    | with_reducible refine Apart.mem ?_ ?_

theorem compBlock_apart {m : Field → Bool} {s0 s : State} {a1 a2} (k_press : m .press = true) (h : Apart m s0 s) : Apart m s0
    (compBlock a1 a2 s) := by
  unfold compBlock
  try dsimp only
  repeat' first
    | with_reducible assumption
    | with_reducible apply State.modPress_apart
    | with_reducible refine OutApart.next ?_
    | with_reducible exact OutApart.refused
    | with_reducible refine Apart.foldl _ _ ?_ ?_
    | with_reducible refine Apart.ite ?_ ?_
    | with_reducible refine OutApart.ite ?_ ?_
    | (intro _)
    | split

theorem touchStreams_apart {m : Field → Bool} {s0 s : State} {a1 a2 a3 a4 a5} (k_mem : m .mem = true) (h : Apart m s0 s) : Apart
    m s0 (touchStreams a1 a2 a3 a4 a5 s) := by
  unfold touchStreams
  try dsimp only
  repeat' first
    | with_reducible assumption
    | with_reducible refine OutApart.next ?_
    | with_reducible exact OutApart.refused
    | with_reducible refine Apart.foldl _ _ ?_ ?_
    | with_reducible refine Apart.ite ?_ ?_
    | with_reducible refine OutApart.ite ?_ ?_
    | (intro _)
    | split
    | with_reducible refine Apart.mem ?_ ?_

theorem useBlock_apart {m : Field → Bool} {s0 s : State} {a1 a2} (k_mem : m .mem = true) (h : Apart m s0 s) : Apart m s0
    (useBlock a1 a2 s) := by
  unfold useBlock
  try dsimp only
  repeat' first
    | with_reducible assumption
    | with_reducible refine OutApart.next ?_
    | with_reducible exact OutApart.refused
    | with_reducible refine Apart.foldl _ _ ?_ ?_
    | with_reducible refine Apart.ite ?_ ?_
    | with_reducible refine OutApart.ite ?_ ?_
    | (intro _)
    | split
    | with_reducible refine Apart.mem ?_ ?_

theorem demandHit_apart {m : Field → Bool} {s0 s : State} {a1 a2 a3 a4} (k_mem : m .mem = true) (h : Apart m s0 s) : Apart m s0
    (demandHit a1 a2 a3 a4 s) := by
  unfold demandHit
  try dsimp only
  repeat' first
    | with_reducible assumption
    | with_reducible apply touchStreams_apart
    | with_reducible apply useBlock_apart
    | with_reducible refine OutApart.next ?_
    | with_reducible exact OutApart.refused
    | with_reducible refine Apart.foldl _ _ ?_ ?_
    | with_reducible refine Apart.ite ?_ ?_
    | with_reducible refine OutApart.ite ?_ ?_
    | (intro _)
    | split

theorem tallyOn_apart {m : Field → Bool} {s0 s : State} {a1 a2} (k_press : m .press = true) (h : Apart m s0 s) : Apart m s0
    (tallyOn a1 a2 s) := by
  unfold tallyOn
  try dsimp only
  repeat' first
    | with_reducible assumption
    | with_reducible apply State.modPress_apart
    | with_reducible refine OutApart.next ?_
    | with_reducible exact OutApart.refused
    | with_reducible refine Apart.foldl _ _ ?_ ?_
    | with_reducible refine Apart.ite ?_ ?_
    | with_reducible refine OutApart.ite ?_ ?_
    | (intro _)
    | split

theorem takeCtl_apart {m : Field → Bool} {s0 s : State} {a1} (k_mem : m .mem = true) (h : Apart m s0 s) : Apart m s0 (takeCtl s
    a1) := by
  unfold takeCtl
  try dsimp only
  repeat' first
    | with_reducible assumption
    | with_reducible refine OutApart.next ?_
    | with_reducible exact OutApart.refused
    | with_reducible refine Apart.foldl _ _ ?_ ?_
    | with_reducible refine Apart.ite ?_ ?_
    | with_reducible refine OutApart.ite ?_ ?_
    | (intro _)
    | split
    | with_reducible refine Apart.mem ?_ ?_

theorem takeCtls_apart {m : Field → Bool} {s0 s : State} {a1} (k_mem : m .mem = true) (h : Apart m s0 s) : Apart m s0 (takeCtls
    a1 s) := by
  unfold takeCtls
  try dsimp only
  repeat' first
    | with_reducible assumption
    | with_reducible apply takeCtl_apart
    | with_reducible refine OutApart.next ?_
    | with_reducible exact OutApart.refused
    | with_reducible refine Apart.foldl _ _ ?_ ?_
    | with_reducible refine Apart.ite ?_ ?_
    | with_reducible refine OutApart.ite ?_ ?_
    | (intro _)
    | split

theorem passOne_apart {m : Field → Bool} {s0 s : State} {a1 a2} (k_part : m .part = true) (k_mem : m .mem = true) (h : Apart m
    s0 s) : Apart m s0 (passOne a1 a2 s) := by
  unfold passOne
  try dsimp only
  repeat' first
    | with_reducible assumption
    | with_reducible apply State.modPart_apart
    | with_reducible apply takeCtls_apart
    | with_reducible refine OutApart.next ?_
    | with_reducible exact OutApart.refused
    | with_reducible refine Apart.foldl _ _ ?_ ?_
    | with_reducible refine Apart.ite ?_ ?_
    | with_reducible refine OutApart.ite ?_ ?_
    | (intro _)
    | split
    | with_reducible refine Apart.mem ?_ ?_

theorem passOwed_apart {m : Field → Bool} {s0 s : State} {a1 : Nat} {a2 : List Owed} (k_part : m .part = true) (k_mem : m .mem = true)
    (h : Apart m s0 s) : Apart m s0 (passOwed a1 a2 s) := by
  induction a2 generalizing s with
  | nil => exact (State.modPart_apart k_part h)
  | cons o l ih =>
    unfold passOwed
    split
    · exact ih (passOne_apart k_part k_mem h)
    · exact (State.modPart_apart k_part h)

theorem queueReq_apart {m : Field → Bool} {s0 s : State} {a1 a2} (k_part : m .part = true) (k_mem : m .mem = true) (h : Apart m
    s0 s) : Apart m s0 (queueReq a1 a2 s) := by
  unfold queueReq
  try dsimp only
  repeat' first
    | with_reducible assumption
    | with_reducible apply passOwed_apart
    | with_reducible refine OutApart.next ?_
    | with_reducible exact OutApart.refused
    | with_reducible refine Apart.foldl _ _ ?_ ?_
    | with_reducible refine Apart.ite ?_ ?_
    | with_reducible refine OutApart.ite ?_ ?_
    | (intro _)
    | split

theorem request_apart {m : Field → Bool} {s0 s : State} {a1 a2 a3 a4 a5 a6 a7} (k_part : m .part = true) (k_mem : m .mem = true)
    (h : Apart m s0 s) : Apart m s0 (request a1 a2 a3 a4 a5 a6 a7 s) := by
  unfold request
  try dsimp only
  repeat' first
    | with_reducible assumption
    | with_reducible apply queueReq_apart
    | with_reducible refine OutApart.next ?_
    | with_reducible exact OutApart.refused
    | with_reducible refine Apart.foldl _ _ ?_ ?_
    | with_reducible refine Apart.ite ?_ ?_
    | with_reducible refine OutApart.ite ?_ ?_
    | (intro _)
    | split
    | with_reducible refine Apart.mem ?_ ?_

theorem useLine_apart {m : Field → Bool} {s0 s : State} {a1 a2} (k_mem : m .mem = true) (h : Apart m s0 s) : Apart m s0 (useLine
    a1 a2 s) := by
  unfold useLine
  try dsimp only
  repeat' first
    | with_reducible assumption
    | with_reducible refine OutApart.next ?_
    | with_reducible exact OutApart.refused
    | with_reducible refine Apart.foldl _ _ ?_ ?_
    | with_reducible refine Apart.ite ?_ ?_
    | with_reducible refine OutApart.ite ?_ ?_
    | (intro _)
    | split
    | with_reducible refine Apart.mem ?_ ?_

theorem moveBlock_apart {m : Field → Bool} {s0 s : State} {a1 a2 a3 a4 a5 a6} (k_part : m .part = true) (k_mem : m .mem = true)
    (k_press : m .press = true) (h : Apart m s0 s) : Apart m s0 (moveBlock a1 a2 a3 a4 a5 a6 s) := by
  unfold moveBlock
  try dsimp only
  repeat' first
    | with_reducible assumption
    | with_reducible apply tallyOn_apart
    | with_reducible apply request_apart
    | with_reducible apply useLine_apart
    | with_reducible refine OutApart.next ?_
    | with_reducible exact OutApart.refused
    | with_reducible refine Apart.foldl _ _ ?_ ?_
    | with_reducible refine Apart.ite ?_ ?_
    | with_reducible refine OutApart.ite ?_ ?_
    | (intro _)
    | split

theorem demandMiss_apart {m : Field → Bool} {s0 s : State} {a1 a2 a3 a4} (k_part : m .part = true) (k_mem : m .mem = true)
    (k_press : m .press = true) (h : Apart m s0 s) : Apart m s0 (demandMiss a1 a2 a3 a4 s) := by
  unfold demandMiss
  try dsimp only
  repeat' first
    | with_reducible assumption
    | with_reducible apply State.modPress_apart
    | with_reducible apply allocPrefetch_apart
    | with_reducible apply touchStreams_apart
    | with_reducible apply waitHand_apart
    | with_reducible apply moveBlock_apart
    | with_reducible refine OutApart.next ?_
    | with_reducible exact OutApart.refused
    | with_reducible refine Apart.foldl _ _ ?_ ?_
    | with_reducible refine Apart.ite ?_ ?_
    | with_reducible refine OutApart.ite ?_ ?_
    | (intro _)
    | split

theorem tagErrs_apart {m : Field → Bool} {s0 s : State} {a1 a2} (k_mem : m .mem = true) (h : Apart m s0 s) : Apart m s0 (tagErrs
    a1 a2 s) := by
  unfold tagErrs
  try dsimp only
  repeat' first
    | with_reducible assumption
    | with_reducible refine OutApart.next ?_
    | with_reducible exact OutApart.refused
    | with_reducible refine Apart.foldl _ _ ?_ ?_
    | with_reducible refine Apart.ite ?_ ?_
    | with_reducible refine OutApart.ite ?_ ?_
    | (intro _)
    | split
    | with_reducible refine Apart.mem ?_ ?_

theorem setLeft_apart {m : Field → Bool} {s0 s : State} {a1 a2 a3} (k_press : m .press = true) (h : Apart m s0 s) : Apart m s0
    (setLeft a1 a2 a3 s) := by
  unfold setLeft
  try dsimp only
  repeat' first
    | with_reducible assumption
    | with_reducible apply State.modPress_apart
    | with_reducible refine OutApart.next ?_
    | with_reducible exact OutApart.refused
    | with_reducible refine Apart.foldl _ _ ?_ ?_
    | with_reducible refine Apart.ite ?_ ?_
    | with_reducible refine OutApart.ite ?_ ?_
    | (intro _)
    | split

theorem askBlocks_apart {m : Field → Bool} {s0 s : State} {a1 : Fin 16} {a2 a3 : Nat} {a4 : Fin 3} {a5 : List (Nat × Bool)} (k_part : m .part = true) (k_mem : m .mem = true) (k_press : m .press = true)
    (h : Apart m s0 s) : Apart m s0 (askBlocks a1 a2 a3 a4 a5 s) := by
  induction a5 generalizing s with
  | nil => exact (setLeft_apart k_press h)
  | cons b l ih =>
    unfold askBlocks
    split
    · exact ih (moveBlock_apart k_part k_mem k_press h)
    · exact (setLeft_apart k_press h)

theorem passPart_apart {m : Field → Bool} {s0 s : State} {a1} (k_part : m .part = true) (k_mem : m .mem = true) (h : Apart m s0
    s) : Apart m s0 (passPart a1 s) := by
  unfold passPart
  try dsimp only
  repeat' first
    | with_reducible assumption
    | with_reducible apply passOwed_apart
    | with_reducible refine OutApart.next ?_
    | with_reducible exact OutApart.refused
    | with_reducible refine Apart.foldl _ _ ?_ ?_
    | with_reducible refine Apart.ite ?_ ?_
    | with_reducible refine OutApart.ite ?_ ?_
    | (intro _)
    | split

end Sys2Proof.Machine
end

