-- ==== Sys2Proof/Laws/ApartPlacement.lean ====
section
/-! SUPPORT. Frames of the operations of Machine/Placement.lean. -/

namespace Sys2Proof.Machine

theorem placeDisplaced_apart {m : Field → Bool} {s0 s : State} (k_sched : m .sched = true) (h : Apart m s0 s) : Apart m s0
    (placeDisplaced s) := by
  unfold placeDisplaced
  try dsimp only
  repeat' first
    | with_reducible assumption
    | with_reducible apply State.modInst_apart
    | with_reducible refine OutApart.next ?_
    | with_reducible exact OutApart.refused
    | with_reducible refine Apart.foldl _ _ ?_ ?_
    | with_reducible refine Apart.ite ?_ ?_
    | with_reducible refine OutApart.ite ?_ ?_
    | (intro _)
    | split

theorem reRun_apart {m : Field → Bool} {s0 s : State} (k_sched : m .sched = true) (h : Apart m s0 s) : Apart m s0 (reRun s) := by
  unfold reRun
  try dsimp only
  repeat' first
    | with_reducible assumption
    | with_reducible refine OutApart.next ?_
    | with_reducible exact OutApart.refused
    | with_reducible refine Apart.foldl _ _ ?_ ?_
    | with_reducible refine Apart.ite ?_ ?_
    | with_reducible refine OutApart.ite ?_ ?_
    | (intro _)
    | split
    | with_reducible refine Apart.sched ?_ ?_

end Sys2Proof.Machine
end

