-- ==== Sys2Proof/Laws/ApartUnderstudy.lean ====
section
/-! SUPPORT. Frames of the operations of Machine/Understudy.lean. -/

namespace Sys2Proof.Machine

theorem coreWrite_apart {m : Field → Bool} {s0 s : State} {a1 a2} (k_mem : m .mem = true) (h : Apart m s0 s) : Apart m s0
    (coreWrite a1 a2 s) := by
  unfold coreWrite
  try dsimp only
  repeat' first
    | with_reducible assumption
    | with_reducible apply devWrite_apart
    | with_reducible refine OutApart.next ?_
    | with_reducible exact OutApart.refused
    | with_reducible refine Apart.foldl _ _ ?_ ?_
    | with_reducible refine Apart.ite ?_ ?_
    | with_reducible refine OutApart.ite ?_ ?_
    | (intro _)
    | split

end Sys2Proof.Machine
end

