-- ==== Sys2Proof/Laws/ApartScenes.lean ====
section
/-! SUPPORT. Frames of the operations of Machine/Scenes.lean. -/

namespace Sys2Proof.Machine

theorem formRun_apart {m : Field → Bool} {s0 s : State} {a1 a2 a3} (k_sched : m .sched = true) (h : Apart m s0 s) : Apart m s0
    (formRun a1 a2 a3 s) := by
  unfold formRun
  try dsimp only
  repeat' first
    | with_reducible assumption
    | with_reducible refine OutApart.next ?_
    | with_reducible exact OutApart.refused
    | with_reducible refine Apart.foldl _ _ ?_ ?_
    | with_reducible refine Apart.ite ?_ ?_
    | with_reducible refine OutApart.ite ?_ ?_
    | (intro _)
    | split
    | with_reducible refine Apart.sched ?_ ?_

theorem meetBarrier_apart {m : Field → Bool} {s0 s : State} {a1} (k_press : m .press = true) (h : Apart m s0 s) : Apart m s0
    (meetBarrier a1 s) := by
  unfold meetBarrier
  try dsimp only
  repeat' first
    | with_reducible assumption
    | with_reducible apply waitHand_apart
    | with_reducible apply State.modPress_apart
    | with_reducible refine OutApart.next ?_
    | with_reducible exact OutApart.refused
    | with_reducible refine Apart.foldl _ _ ?_ ?_
    | with_reducible refine Apart.ite ?_ ?_
    | with_reducible refine OutApart.ite ?_ ?_
    | (intro _)
    | split

theorem placeInput_apart {m : Field → Bool} {s0 s : State} {a1 a2} (k_mem : m .mem = true) (h : Apart m s0 s) : Apart m s0
    (placeInput a1 a2 s) := by
  unfold placeInput
  try dsimp only
  repeat' first
    | with_reducible assumption
    | with_reducible apply devWrite_apart
    | with_reducible apply setPte_apart
    | with_reducible apply startDrop_apart
    | with_reducible refine OutApart.next ?_
    | with_reducible exact OutApart.refused
    | with_reducible refine Apart.foldl _ _ ?_ ?_
    | with_reducible refine Apart.ite ?_ ?_
    | with_reducible refine OutApart.ite ?_ ?_
    | (intro _)
    | split

theorem mapPage_apart {m : Field → Bool} {s0 s : State} {a1 a2 a3 a4 a5 a6} (k_mem : m .mem = true) (h : Apart m s0 s) : Apart m
    s0 (mapPage a1 a2 a3 a4 a5 a6 s) := by
  unfold mapPage
  try dsimp only
  repeat' first
    | with_reducible assumption
    | with_reducible apply setPte_apart
    | with_reducible refine OutApart.next ?_
    | with_reducible exact OutApart.refused
    | with_reducible refine Apart.foldl _ _ ?_ ?_
    | with_reducible refine Apart.ite ?_ ?_
    | with_reducible refine OutApart.ite ?_ ?_
    | (intro _)
    | split

theorem mapBuf_apart {m : Field → Bool} {s0 s : State} {a1 a2 a3} (k_mem : m .mem = true) (h : Apart m s0 s) : Apart m s0
    (mapBuf a1 a2 a3 s) := by
  unfold mapBuf
  try dsimp only
  repeat' first
    | with_reducible assumption
    | with_reducible apply mapPage_apart
    | with_reducible refine OutApart.next ?_
    | with_reducible exact OutApart.refused
    | with_reducible refine Apart.foldl _ _ ?_ ?_
    | with_reducible refine Apart.ite ?_ ?_
    | with_reducible refine OutApart.ite ?_ ?_
    | (intro _)
    | split

theorem countSpills_apart {m : Field → Bool} {s0 s : State} {a1 a2} (k_log : m .log = true) (k_part : m .part = true) (h : Apart
    m s0 s) : Apart m s0 (countSpills a1 a2 s) := by
  unfold countSpills
  try dsimp only
  repeat' first
    | with_reducible assumption
    | with_reducible apply State.modPart_apart
    | with_reducible apply logOnce_apart
    | with_reducible refine OutApart.next ?_
    | with_reducible exact OutApart.refused
    | with_reducible refine Apart.foldl _ _ ?_ ?_
    | with_reducible refine Apart.ite ?_ ?_
    | with_reducible refine OutApart.ite ?_ ?_
    | (intro _)
    | split

theorem startRun_apart {m : Field → Bool} {s0 s : State} {a1 a2 a3} (k_cue : m .cue = true) (k_log : m .log = true) (k_units : m
    .units = true) (k_cur : m .cur = true) (k_sched : m .sched = true) (k_cog : m .cog = true) (k_part : m .part = true)
    (k_accts : m .accts = true) (k_mem : m .mem = true) (k_press : m .press = true) (k_port : m .port = true) (k_gov : m .gov =
    true) (h : Apart m s0 s) : Apart m s0 (startRun a1 a2 a3 s) := by
  unfold startRun
  try dsimp only
  repeat' first
    | with_reducible assumption
    | with_reducible apply State.modInst_apart
    | with_reducible apply setSplit_apart
    | with_reducible apply State.modPress_apart
    | with_reducible apply meetBarrier_apart
    | with_reducible apply placeInput_apart
    | with_reducible apply coreWrite_apart
    | with_reducible apply mapBuf_apart
    | with_reducible apply countSpills_apart
    | with_reducible apply lockPages_apart
    | with_reducible apply State.modPart_apart
    | with_reducible apply poisonRead_apart
    | with_reducible refine OutApart.next ?_
    | with_reducible exact OutApart.refused
    | with_reducible refine Apart.foldl _ _ ?_ ?_
    | with_reducible refine Apart.ite ?_ ?_
    | with_reducible refine OutApart.ite ?_ ?_
    | (intro _)
    | split

theorem fixPlans_apart {m : Field → Bool} {s0 s : State} {a1} (k_cls : m .cls = true) (h : Apart m s0 s) : Apart m s0 (fixPlans
    a1 s) := by
  unfold fixPlans
  try dsimp only
  repeat' first
    | with_reducible assumption
    | with_reducible refine OutApart.next ?_
    | with_reducible exact OutApart.refused
    | with_reducible refine Apart.foldl _ _ ?_ ?_
    | with_reducible refine Apart.ite ?_ ?_
    | with_reducible refine OutApart.ite ?_ ?_
    | (intro _)
    | split
    | with_reducible refine Apart.cls ?_ ?_

theorem countRefused_apart {m : Field → Bool} {s0 s : State} {a1} (k_sched : m .sched = true) (k_part : m .part = true) (h :
    Apart m s0 s) : Apart m s0 (countRefused a1 s) := by
  unfold countRefused
  try dsimp only
  repeat' first
    | with_reducible assumption
    | with_reducible apply State.modPart_apart
    | with_reducible apply State.modInst_apart
    | with_reducible refine OutApart.next ?_
    | with_reducible exact OutApart.refused
    | with_reducible refine Apart.foldl _ _ ?_ ?_
    | with_reducible refine Apart.ite ?_ ?_
    | with_reducible refine OutApart.ite ?_ ?_
    | (intro _)
    | split

theorem admitScene_apart {m : Field → Bool} {s0 s : State} {a1 a2} (k_cue : m .cue = true) (k_log : m .log = true) (k_units : m
    .units = true) (k_cur : m .cur = true) (k_cls : m .cls = true) (k_sched : m .sched = true) (k_cog : m .cog = true) (k_part :
    m .part = true) (k_accts : m .accts = true) (k_mem : m .mem = true) (k_press : m .press = true) (k_port : m .port = true)
    (k_gov : m .gov = true) (h : Apart m s0 s) : Apart m s0 (admitScene a1 a2 s) := by
  unfold admitScene
  try dsimp only
  repeat' first
    | with_reducible assumption
    | with_reducible apply startRun_apart
    | with_reducible apply fixPlans_apart
    | with_reducible apply countRefused_apart
    | with_reducible refine OutApart.next ?_
    | with_reducible exact OutApart.refused
    | with_reducible refine Apart.foldl _ _ ?_ ?_
    | with_reducible refine Apart.ite ?_ ?_
    | with_reducible refine OutApart.ite ?_ ?_
    | (intro _)
    | split
    | with_reducible refine Apart.sched ?_ ?_

theorem clearTested_apart {m : Field → Bool} {s0 s : State} {a1} (k_mem : m .mem = true) (k_press : m .press = true) (h : Apart
    m s0 s) : Apart m s0 (clearTested a1 s) := by
  unfold clearTested
  try dsimp only
  repeat' first
    | with_reducible assumption
    | with_reducible refine OutApart.next ?_
    | with_reducible exact OutApart.refused
    | with_reducible refine Apart.foldl _ _ ?_ ?_
    | with_reducible refine Apart.ite ?_ ?_
    | with_reducible refine OutApart.ite ?_ ?_
    | (intro _)
    | split
    | with_reducible refine Apart.mem ?_ ?_
    | with_reducible refine Apart.press ?_ ?_
    | with_reducible apply Apart.record
    | with_reducible exact Or.inr rfl
    | with_reducible (refine Or.inl ?_)

theorem admitSlice_apart {m : Field → Bool} {s0 s : State} {a1} (k_sched : m .sched = true) (k_mem : m .mem = true) (k_press : m
    .press = true) (h : Apart m s0 s) : Apart m s0 (admitSlice a1 s) := by
  unfold admitSlice
  try dsimp only
  repeat' first
    | with_reducible assumption
    | with_reducible apply clearTested_apart
    | with_reducible refine OutApart.next ?_
    | with_reducible exact OutApart.refused
    | with_reducible refine Apart.foldl _ _ ?_ ?_
    | with_reducible refine Apart.ite ?_ ?_
    | with_reducible refine OutApart.ite ?_ ?_
    | (intro _)
    | split
    | with_reducible refine Apart.sched ?_ ?_

theorem blockPlay_apart {m : Field → Bool} {s0 s : State} {a1} (k_dev : m .dev = true) (k_upd : m .upd = true) (k_cue : m .cue =
    true) (k_log : m .log = true) (k_cur : m .cur = true) (k_sched : m .sched = true) (k_cog : m .cog = true) (k_port : m .port
    = true) (h : Apart m s0 s) : Apart m s0 (blockPlay a1 s) := by
  unfold blockPlay
  try dsimp only
  repeat' first
    | with_reducible assumption
    | with_reducible apply logEvent_apart
    | with_reducible apply requeueRows_apart
    | with_reducible apply deviceFault_apart
    | with_reducible refine OutApart.next ?_
    | with_reducible exact OutApart.refused
    | with_reducible refine Apart.foldl _ _ ?_ ?_
    | with_reducible refine Apart.ite ?_ ?_
    | with_reducible refine OutApart.ite ?_ ?_
    | (intro _)
    | split
    | with_reducible refine Apart.sched ?_ ?_

theorem commitBuf_apart {m : Field → Bool} {s0 s : State} {a1 a2 a3} (k_sched : m .sched = true) (h : Apart m s0 s) : Apart m s0
    (commitBuf a1 a2 a3 s) := by
  unfold commitBuf
  try dsimp only
  repeat' first
    | with_reducible assumption
    | with_reducible refine OutApart.next ?_
    | with_reducible exact OutApart.refused
    | with_reducible refine Apart.foldl _ _ ?_ ?_
    | with_reducible refine Apart.ite ?_ ?_
    | with_reducible refine OutApart.ite ?_ ?_
    | (intro _)
    | split
    | with_reducible refine Apart.sched ?_ ?_

theorem commitMove_apart {m : Field → Bool} {s0 s : State} {a1} (k_cog : m .cog = true) (k_part : m .part = true) (h : Apart m
    s0 s) : Apart m s0 (commitMove a1 s) := by
  unfold commitMove
  try dsimp only
  repeat' first
    | with_reducible assumption
    | with_reducible apply State.modPart_apart
    | with_reducible refine OutApart.next ?_
    | with_reducible exact OutApart.refused
    | with_reducible refine Apart.foldl _ _ ?_ ?_
    | with_reducible refine Apart.ite ?_ ?_
    | with_reducible refine OutApart.ite ?_ ?_
    | (intro _)
    | split
    | with_reducible refine Apart.cog ?_ ?_

theorem rowLeaves_apart {m : Field → Bool} {s0 s : State} {a1 a2} (k_cog : m .cog = true) (h : Apart m s0 s) : Apart m s0
    (rowLeaves a1 a2 s) := by
  unfold rowLeaves
  try dsimp only
  repeat' first
    | with_reducible assumption
    | with_reducible apply setLeaf_apart
    | with_reducible apply decLeaf_apart
    | with_reducible refine OutApart.next ?_
    | with_reducible exact OutApart.refused
    | with_reducible refine Apart.foldl _ _ ?_ ?_
    | with_reducible refine Apart.ite ?_ ?_
    | with_reducible refine OutApart.ite ?_ ?_
    | (intro _)
    | split

theorem deliver_apart {m : Field → Bool} {s0 s : State} {a1 a2 a3 a4} (k_log : m .log = true) (k_cog : m .cog = true) (h : Apart
    m s0 s) : Apart m s0 (deliver a1 a2 a3 a4 s).2 := by
  unfold deliver
  try dsimp only
  repeat' first
    | with_reducible assumption
    | with_reducible apply logEvent_apart
    | with_reducible apply modSession_apart
    | with_reducible apply toIdle_apart
    | with_reducible apply ready_apart
    | with_reducible refine OutApart.next ?_
    | with_reducible exact OutApart.refused
    | with_reducible refine Apart.foldl _ _ ?_ ?_
    | with_reducible refine Apart.ite ?_ ?_
    | with_reducible refine OutApart.ite ?_ ?_
    | (intro _)
    | split

theorem fillSession_apart {m : Field → Bool} {s0 s : State} {a1} (k_log : m .log = true) (k_cog : m .cog = true) (h : Apart m s0
    s) : Apart m s0 (fillSession a1 s) := by
  unfold fillSession
  try dsimp only
  repeat' first
    | with_reducible assumption
    | with_reducible apply logEvent_apart
    | with_reducible apply modSession_apart
    | with_reducible refine OutApart.next ?_
    | with_reducible exact OutApart.refused
    | with_reducible refine Apart.foldl _ _ ?_ ?_
    | with_reducible refine Apart.ite ?_ ?_
    | with_reducible refine OutApart.ite ?_ ?_
    | (intro _)
    | split

theorem commitRow_apart {m : Field → Bool} {s0 s : State} {a1 a2 a3 a4} (k_log : m .log = true) (k_cog : m .cog = true) (h :
    Apart m s0 s) : Apart m s0 (commitRow a1 a2 a3 a4 s).2 := by
  unfold commitRow
  try dsimp only
  repeat' first
    | with_reducible assumption
    | with_reducible apply rowLeaves_apart
    | with_reducible apply setSession_apart
    | with_reducible apply deliver_apart
    | with_reducible apply fillSession_apart
    | with_reducible apply ready_apart
    | with_reducible apply toIdle_apart
    | with_reducible refine Apart.snd ?_ (by assumption)
    | with_reducible refine OutApart.next ?_
    | with_reducible exact OutApart.refused
    | with_reducible refine Apart.foldl _ _ ?_ ?_
    | with_reducible refine Apart.ite ?_ ?_
    | with_reducible refine OutApart.ite ?_ ?_
    | (intro _)
    | split

theorem countCommit_apart {m : Field → Bool} {s0 s : State} {a1} (k_part : m .part = true) (h : Apart m s0 s) : Apart m s0
    (countCommit a1 s) := by
  unfold countCommit
  try dsimp only
  repeat' first
    | with_reducible assumption
    | with_reducible apply State.modPart_apart
    | with_reducible refine OutApart.next ?_
    | with_reducible exact OutApart.refused
    | with_reducible refine Apart.foldl _ _ ?_ ?_
    | with_reducible refine Apart.ite ?_ ?_
    | with_reducible refine OutApart.ite ?_ ?_
    | (intro _)
    | split

theorem remapBuf_apart {m : Field → Bool} {s0 s : State} {a1 a2} (k_mem : m .mem = true) (h : Apart m s0 s) : Apart m s0
    (remapBuf a1 a2 s) := by
  unfold remapBuf
  try dsimp only
  repeat' first
    | with_reducible assumption
    | with_reducible apply setPte_apart
    | with_reducible apply startDrop_apart
    | with_reducible refine OutApart.next ?_
    | with_reducible exact OutApart.refused
    | with_reducible refine Apart.foldl _ _ ?_ ?_
    | with_reducible refine Apart.ite ?_ ?_
    | with_reducible refine OutApart.ite ?_ ?_
    | (intro _)
    | split

theorem digRecord_apart {m : Field → Bool} {s0 s : State} {a1 a2} (k_sched : m .sched = true) (h : Apart m s0 s) : Apart m s0
    (digRecord a1 a2 s) := by
  unfold digRecord
  try dsimp only
  repeat' first
    | with_reducible assumption
    | with_reducible refine OutApart.next ?_
    | with_reducible exact OutApart.refused
    | with_reducible refine Apart.foldl _ _ ?_ ?_
    | with_reducible refine Apart.ite ?_ ?_
    | with_reducible refine OutApart.ite ?_ ?_
    | (intro _)
    | split
    | with_reducible refine Apart.sched ?_ ?_

theorem markWhole_apart {m : Field → Bool} {s0 s : State} {a1 a2} (k_sched : m .sched = true) (h : Apart m s0 s) : Apart m s0
    (markWhole a1 a2 s) := by
  unfold markWhole
  try dsimp only
  repeat' first
    | with_reducible assumption
    | with_reducible refine OutApart.next ?_
    | with_reducible exact OutApart.refused
    | with_reducible refine Apart.foldl _ _ ?_ ?_
    | with_reducible refine Apart.ite ?_ ?_
    | with_reducible refine OutApart.ite ?_ ?_
    | (intro _)
    | split
    | with_reducible refine Apart.sched ?_ ?_

theorem wake_apart {m : Field → Bool} {s0 s : State} {a1 a2 a3} (k_sched : m .sched = true) (h : Apart m s0 s) : Apart m s0
    (wake a1 a2 a3 s) := by
  unfold wake
  try dsimp only
  repeat' first
    | with_reducible assumption
    | with_reducible apply State.modInst_apart
    | with_reducible refine OutApart.next ?_
    | with_reducible exact OutApart.refused
    | with_reducible refine Apart.foldl _ _ ?_ ?_
    | with_reducible refine Apart.ite ?_ ?_
    | with_reducible refine OutApart.ite ?_ ?_
    | (intro _)
    | split
    | with_reducible refine Apart.sched ?_ ?_

theorem commitRows_apart {m : Field → Bool} {s0 s : State} {a1 : Nat} {a2 : List W32} {a3 : List Byte} {a4 : Nat} {a5 : List Row} (k_log : m .log = true) (k_cog : m .cog = true)
    (h : Apart m s0 s) : Apart m s0 (commitRows a1 a2 a3 a4 a5 s).2 := by
  induction a5 generalizing a4 s with
  | nil => exact h
  | cons r rs ih => exact ih (commitRow_apart k_log k_cog h)

theorem deliverTokens_apart {m : Field → Bool} {s0 s : State} {a1 a2 a3 a4} (k_log : m .log = true) (k_sched : m .sched = true)
    (k_cog : m .cog = true) (k_mem : m .mem = true) (k_port : m .port = true) (h : Apart m s0 s) : Apart m s0 (deliverTokens a1
    a2 a3 a4 s) := by
  unfold deliverTokens
  try dsimp only
  repeat' first
    | with_reducible assumption
    | with_reducible apply commitRows_apart
    | with_reducible apply modStep_apart
    | with_reducible apply originate_apart
    | with_reducible apply closeSession_apart
    | with_reducible refine Apart.snd ?_ (by assumption)
    | with_reducible refine OutApart.next ?_
    | with_reducible exact OutApart.refused
    | with_reducible refine Apart.foldl _ _ ?_ ?_
    | with_reducible refine Apart.ite ?_ ?_
    | with_reducible refine OutApart.ite ?_ ?_
    | (intro _)
    | split

theorem finishStep_apart {m : Field → Bool} {s0 s : State} {a1 a2} (k_sched : m .sched = true) (k_cog : m .cog = true) (k_mem :
    m .mem = true) (h : Apart m s0 s) : Apart m s0 (finishStep a1 a2 s) := by
  unfold finishStep
  try dsimp only
  repeat' first
    | with_reducible assumption
    | with_reducible apply freeReserved_apart
    | with_reducible apply setDigPlay_apart
    | with_reducible apply forgetStep_apart
    | with_reducible apply settleStep_apart
    | with_reducible refine OutApart.next ?_
    | with_reducible exact OutApart.refused
    | with_reducible refine Apart.foldl _ _ ?_ ?_
    | with_reducible refine Apart.ite ?_ ?_
    | with_reducible refine OutApart.ite ?_ ?_
    | (intro _)
    | split
    | with_reducible refine Apart.cog ?_ ?_

theorem commitScene_apart {m : Field → Bool} {s0 s : State} {a1} (k_log : m .log = true) (k_sched : m .sched = true) (k_cog : m
    .cog = true) (k_part : m .part = true) (k_accts : m .accts = true) (k_mem : m .mem = true) (k_press : m .press = true)
    (k_port : m .port = true) (k_gov : m .gov = true) (h : Apart m s0 s) : Apart m s0 (commitScene a1 s) := by
  unfold commitScene
  try dsimp only
  repeat' first
    | with_reducible assumption
    | with_reducible apply countCommit_apart
    | with_reducible apply chargeRun_apart
    | with_reducible apply remapBuf_apart
    | with_reducible apply commitBuf_apart
    | with_reducible apply unmapInputs_apart
    | with_reducible apply unmapPage_apart
    | with_reducible apply dropRequests_apart
    | with_reducible apply State.modPress_apart
    | with_reducible apply State.modInst_apart
    | with_reducible apply digRecord_apart
    | with_reducible apply markWhole_apart
    | with_reducible apply commitMove_apart
    | with_reducible apply wake_apart
    | with_reducible apply deliverTokens_apart
    | with_reducible apply finishStep_apart
    | with_reducible refine OutApart.next ?_
    | with_reducible exact OutApart.refused
    | with_reducible refine Apart.foldl _ _ ?_ ?_
    | with_reducible refine Apart.ite ?_ ?_
    | with_reducible refine OutApart.ite ?_ ?_
    | (intro _)
    | split
    | with_reducible refine Apart.arb ?_
    | with_reducible refine Apart.sched ?_ ?_
    | with_reducible apply Apart.record
    | with_reducible exact Or.inr rfl
    | with_reducible (refine Or.inl ?_)

theorem coreFault_apart {m : Field → Bool} {s0 s : State} {a1 a2} (k_mem : m .mem = true) (h : Apart m s0 s) : Apart m s0
    (coreFault a1 a2 s) := by
  unfold coreFault
  try dsimp only
  repeat' first
    | with_reducible assumption
    | with_reducible apply devWrite_apart
    | with_reducible refine OutApart.next ?_
    | with_reducible exact OutApart.refused
    | with_reducible refine Apart.foldl _ _ ?_ ?_
    | with_reducible refine Apart.ite ?_ ?_
    | with_reducible refine OutApart.ite ?_ ?_
    | (intro _)
    | split

theorem sceneFault_apart {m : Field → Bool} {s0 s : State} {a1 a2 a3 a4} (k_dev : m .dev = true) (k_upd : m .upd = true) (k_cue
    : m .cue = true) (k_log : m .log = true) (k_units : m .units = true) (k_cur : m .cur = true) (k_sched : m .sched = true)
    (k_cog : m .cog = true) (k_part : m .part = true) (k_accts : m .accts = true) (k_mem : m .mem = true) (k_press : m .press =
    true) (k_port : m .port = true) (k_gov : m .gov = true) (h : Apart m s0 s) : Apart m s0 (sceneFault a1 a2 a3 a4 s) := by
  unfold sceneFault
  try dsimp only
  repeat' first
    | with_reducible assumption
    | with_reducible apply killInst_apart
    | with_reducible apply State.modInst_apart
    | with_reducible apply logEvent_apart
    | with_reducible apply blockPlay_apart
    | with_reducible refine OutApart.next ?_
    | with_reducible exact OutApart.refused
    | with_reducible refine Apart.foldl _ _ ?_ ?_
    | with_reducible refine Apart.ite ?_ ?_
    | with_reducible refine OutApart.ite ?_ ?_
    | (intro _)
    | split

theorem execPartCommitRequest_apart {m : Field → Bool} {s0 s : State} {a1 a2 a3 a4} (k_cue : m .cue = true) (k_log : m .log =
    true) (k_units : m .units = true) (k_cur : m .cur = true) (k_cls : m .cls = true) (k_sched : m .sched = true) (k_cog : m
    .cog = true) (k_part : m .part = true) (k_accts : m .accts = true) (k_mem : m .mem = true) (k_press : m .press = true)
    (k_port : m .port = true) (k_gov : m .gov = true) (h : Apart m s0 s) : OutApart m s0 (execPartCommitRequest a1 a2 a3 a4 s)
    := by
  unfold execPartCommitRequest
  try dsimp only
  repeat' first
    | with_reducible assumption
    | with_reducible apply State.at_apart
    | with_reducible apply memErrs_apart
    | with_reducible apply State.modInst_apart
    | with_reducible refine OutApart.next ?_
    | with_reducible exact OutApart.refused
    | with_reducible refine Apart.foldl _ _ ?_ ?_
    | with_reducible refine Apart.ite ?_ ?_
    | with_reducible refine OutApart.ite ?_ ?_
    | (intro _)
    | split

theorem restoreCopy_apart {m : Field → Bool} {s0 s : State} {a1} (k_log : m .log = true) (k_sched : m .sched = true) (k_mem : m
    .mem = true) (h : Apart m s0 s) : Apart m s0 (restoreCopy a1 s) := by
  unfold restoreCopy
  try dsimp only
  repeat' first
    | with_reducible assumption
    | with_reducible apply logEvent_apart
    | with_reducible apply countRestored_apart
    | with_reducible apply devWrite_apart
    | with_reducible refine OutApart.next ?_
    | with_reducible exact OutApart.refused
    | with_reducible refine Apart.foldl _ _ ?_ ?_
    | with_reducible refine Apart.ite ?_ ?_
    | with_reducible refine OutApart.ite ?_ ?_
    | (intro _)
    | split
    | with_reducible refine Apart.sched ?_ ?_

theorem execRelowerComplete_apart {m : Field → Bool} {s0 s : State} {a1 a2} (k_log : m .log = true) (k_sched : m .sched = true)
    (k_mem : m .mem = true) (h : Apart m s0 s) : OutApart m s0 (execRelowerComplete a1 a2 s) := by
  unfold execRelowerComplete
  try dsimp only
  repeat' first
    | with_reducible assumption
    | with_reducible apply State.at_apart
    | with_reducible apply restoreCopy_apart
    | with_reducible apply State.modInst_apart
    | with_reducible refine OutApart.next ?_
    | with_reducible exact OutApart.refused
    | with_reducible refine Apart.foldl _ _ ?_ ?_
    | with_reducible refine Apart.ite ?_ ?_
    | with_reducible refine OutApart.ite ?_ ?_
    | (intro _)
    | split

theorem execSceneAdmission_apart {m : Field → Bool} {s0 s : State} {a1 a2} (k_cue : m .cue = true) (k_log : m .log = true)
    (k_units : m .units = true) (k_cur : m .cur = true) (k_cls : m .cls = true) (k_sched : m .sched = true) (k_cog : m .cog =
    true) (k_part : m .part = true) (k_accts : m .accts = true) (k_mem : m .mem = true) (k_press : m .press = true) (k_port : m
    .port = true) (k_gov : m .gov = true) (h : Apart m s0 s) : OutApart m s0 (execSceneAdmission a1 a2 s) := by
  unfold execSceneAdmission
  try dsimp only
  repeat' first
    | with_reducible assumption
    | with_reducible apply placeDisplaced_apart
    | with_reducible apply reRun_apart
    | with_reducible apply State.at_apart
    | with_reducible apply admitScene_apart
    | with_reducible apply coreFault_apart
    | with_reducible apply admitSlice_apart
    | with_reducible refine OutApart.next ?_
    | with_reducible exact OutApart.refused
    | with_reducible refine Apart.foldl _ _ ?_ ?_
    | with_reducible refine Apart.ite ?_ ?_
    | with_reducible refine OutApart.ite ?_ ?_
    | (intro _)
    | split

theorem execSceneCommit_apart {m : Field → Bool} {s0 s : State} {a1 a2} (k_log : m .log = true) (k_sched : m .sched = true)
    (k_cog : m .cog = true) (k_part : m .part = true) (k_accts : m .accts = true) (k_mem : m .mem = true) (k_press : m .press =
    true) (k_port : m .port = true) (k_gov : m .gov = true) (h : Apart m s0 s) : OutApart m s0 (execSceneCommit a1 a2 s) := by
  unfold execSceneCommit
  try dsimp only
  repeat' first
    | with_reducible assumption
    | with_reducible apply State.at_apart
    | with_reducible apply commitScene_apart
    | with_reducible refine OutApart.next ?_
    | with_reducible exact OutApart.refused
    | with_reducible refine Apart.foldl _ _ ?_ ?_
    | with_reducible refine Apart.ite ?_ ?_
    | with_reducible refine OutApart.ite ?_ ?_
    | (intro _)
    | split

theorem execSceneWatchdogExpiry_apart {m : Field → Bool} {s0 s : State} {a1 a2} (k_dev : m .dev = true) (k_upd : m .upd = true)
    (k_cue : m .cue = true) (k_log : m .log = true) (k_units : m .units = true) (k_cur : m .cur = true) (k_sched : m .sched =
    true) (k_cog : m .cog = true) (k_part : m .part = true) (k_accts : m .accts = true) (k_mem : m .mem = true) (k_press : m
    .press = true) (k_port : m .port = true) (k_gov : m .gov = true) (h : Apart m s0 s) : OutApart m s0 (execSceneWatchdogExpiry
    a1 a2 s) := by
  unfold execSceneWatchdogExpiry
  try dsimp only
  repeat' first
    | with_reducible assumption
    | with_reducible apply State.at_apart
    | with_reducible apply logEvent_apart
    | with_reducible apply State.modInst_apart
    | with_reducible apply detect_apart
    | with_reducible apply suspectUnit_apart
    | with_reducible apply killElsewhere_apart
    | with_reducible apply blockPlay_apart
    | with_reducible apply abandonInst_apart
    | with_reducible refine OutApart.next ?_
    | with_reducible exact OutApart.refused
    | with_reducible refine Apart.foldl _ _ ?_ ?_
    | with_reducible refine Apart.ite ?_ ?_
    | with_reducible refine OutApart.ite ?_ ?_
    | (intro _)
    | split

theorem execSequencerTimeout_apart {m : Field → Bool} {s0 s : State} {a1 a2 a3} (k_log : m .log = true) (k_units : m .units =
    true) (k_cur : m .cur = true) (k_cls : m .cls = true) (k_sched : m .sched = true) (k_part : m .part = true) (k_accts : m
    .accts = true) (k_mem : m .mem = true) (k_press : m .press = true) (k_gov : m .gov = true) (h : Apart m s0 s) : OutApart m
    s0 (execSequencerTimeout a1 a2 a3 s) := by
  unfold execSequencerTimeout
  try dsimp only
  repeat' first
    | with_reducible assumption
    | with_reducible apply State.at_apart
    | with_reducible apply strike_apart
    | with_reducible apply logEvent_apart
    | with_reducible refine OutApart.next ?_
    | with_reducible exact OutApart.refused
    | with_reducible refine Apart.foldl _ _ ?_ ?_
    | with_reducible refine Apart.ite ?_ ?_
    | with_reducible refine OutApart.ite ?_ ?_
    | (intro _)
    | split

theorem formStep_apart {m : Field → Bool} {s0 s : State} {a1} (k_log : m .log = true) (k_sched : m .sched = true) (k_cog : m
    .cog = true) (h : Apart m s0 s) : Apart m s0 (formStep a1 s) := by
  unfold formStep
  try dsimp only
  repeat' first
    | with_reducible assumption
    | with_reducible apply formRows_apart
    | with_reducible apply logOnce_apart
    | with_reducible apply modSession_apart
    | with_reducible apply formRun_apart
    | with_reducible refine Apart.snd ?_ (by assumption)
    | with_reducible refine OutApart.next ?_
    | with_reducible exact OutApart.refused
    | with_reducible refine Apart.foldl _ _ ?_ ?_
    | with_reducible refine Apart.ite ?_ ?_
    | with_reducible refine OutApart.ite ?_ ?_
    | (intro _)
    | split
    | with_reducible refine Apart.sched ?_ ?_
    | with_reducible refine Apart.cog ?_ ?_
    | with_reducible apply Apart.record
    | with_reducible exact Or.inr rfl
    | with_reducible (refine Or.inl ?_)

theorem execStepFormation_apart {m : Field → Bool} {s0 s : State} {a1 a2} (k_log : m .log = true) (k_sched : m .sched = true)
    (k_cog : m .cog = true) (h : Apart m s0 s) : OutApart m s0 (execStepFormation a1 a2 s) := by
  unfold execStepFormation
  try dsimp only
  repeat' first
    | with_reducible assumption
    | with_reducible apply State.at_apart
    | with_reducible apply formStep_apart
    | with_reducible apply logOnce_apart
    | with_reducible refine OutApart.next ?_
    | with_reducible exact OutApart.refused
    | with_reducible refine Apart.foldl _ _ ?_ ?_
    | with_reducible refine Apart.ite ?_ ?_
    | with_reducible refine OutApart.ite ?_ ?_
    | (intro _)
    | split

end Sys2Proof.Machine
end

