-- ==== Sys2Proof/Laws/ApartPress.lean ====
section
/-! SUPPORT. Frames of the operations of Machine/Press.lean. -/

namespace Sys2Proof.Machine

theorem execAccumulatorError_apart {m : Field → Bool} {s0 s : State} {a1 a2 a3} (k_log : m .log = true) (k_units : m .units =
    true) (k_sched : m .sched = true) (k_part : m .part = true) (k_accts : m .accts = true) (k_mem : m .mem = true) (k_press : m
    .press = true) (k_gov : m .gov = true) (h : Apart m s0 s) : OutApart m s0 (execAccumulatorError a1 a2 a3 s) := by
  unfold execAccumulatorError
  try dsimp only
  repeat' first
    | with_reducible assumption
    | with_reducible apply State.at_apart
    | with_reducible apply killElsewhere_apart
    | with_reducible apply logEvent_apart
    | with_reducible apply suspectUnit_apart
    | with_reducible refine OutApart.next ?_
    | with_reducible exact OutApart.refused
    | with_reducible refine Apart.foldl _ _ ?_ ?_
    | with_reducible refine Apart.ite ?_ ?_
    | with_reducible refine OutApart.ite ?_ ?_
    | (intro _)
    | split

theorem translationFault_apart {m : Field → Bool} {s0 s : State} {a1 a2 a3 a4} (k_dev : m .dev = true) (k_upd : m .upd = true)
    (k_cue : m .cue = true) (k_log : m .log = true) (k_units : m .units = true) (k_cur : m .cur = true) (k_sched : m .sched =
    true) (k_cog : m .cog = true) (k_part : m .part = true) (k_accts : m .accts = true) (k_mem : m .mem = true) (k_press : m
    .press = true) (k_port : m .port = true) (k_gov : m .gov = true) (h : Apart m s0 s) : Apart m s0 (translationFault a1 a2 a3
    a4 s) := by
  unfold translationFault
  try dsimp only
  repeat' first
    | with_reducible assumption
    | with_reducible apply sceneFault_apart
    | with_reducible apply logEvent_apart
    | with_reducible refine OutApart.next ?_
    | with_reducible exact OutApart.refused
    | with_reducible refine Apart.foldl _ _ ?_ ?_
    | with_reducible refine Apart.ite ?_ ?_
    | with_reducible refine OutApart.ite ?_ ?_
    | (intro _)
    | split

theorem feed_apart {m : Field → Bool} {s0 s : State} {a1 a2} (k_press : m .press = true) (h : Apart m s0 s) : Apart m s0 (feed
    a1 a2 s) := by
  unfold feed
  try dsimp only
  repeat' first
    | with_reducible assumption
    | with_reducible apply State.modPress_apart
    | with_reducible refine OutApart.next ?_
    | with_reducible exact OutApart.refused
    | with_reducible refine Apart.foldl _ _ ?_ ?_
    | with_reducible refine Apart.ite ?_ ?_
    | with_reducible refine OutApart.ite ?_ ?_
    | (intro _)
    | split

theorem pump_apart {m : Field → Bool} {s0 s : State} {a1 : Fin 16} {a2 : Nat} (k_press : m .press = true) (h : Apart m s0 s) :
    Apart m s0 (pump a1 a2 s) := by
  induction a2 generalizing s with
  | zero => exact h
  | succ n ih =>
    unfold pump
    dsimp only
    split
    · split
      · exact (feed_apart k_press h)
      · exact ih (feed_apart k_press h)
    · exact h
    · split
      · exact ih (State.modPress_apart k_press h)
      · exact h

theorem pumpAll_apart {m : Field → Bool} {s0 s : State} {a1} (k_press : m .press = true) (h : Apart m s0 s) : Apart m s0
    (pumpAll a1 s) := by
  unfold pumpAll
  try dsimp only
  repeat' first
    | with_reducible assumption
    | with_reducible apply pump_apart
    | with_reducible refine OutApart.next ?_
    | with_reducible exact OutApart.refused
    | with_reducible refine Apart.foldl _ _ ?_ ?_
    | with_reducible refine Apart.ite ?_ ?_
    | with_reducible refine OutApart.ite ?_ ?_
    | (intro _)
    | split

theorem execGroupDrain_apart {m : Field → Bool} {s0 s : State} {a1 a2 a3} (k_press : m .press = true) (h : Apart m s0 s) :
    OutApart m s0 (execGroupDrain a1 a2 a3 s) := by
  unfold execGroupDrain
  try dsimp only
  repeat' first
    | with_reducible assumption
    | with_reducible apply State.at_apart
    | with_reducible apply State.modPress_apart
    | with_reducible apply pumpAll_apart
    | with_reducible refine OutApart.next ?_
    | with_reducible exact OutApart.refused
    | with_reducible refine Apart.foldl _ _ ?_ ?_
    | with_reducible refine Apart.ite ?_ ?_
    | with_reducible refine OutApart.ite ?_ ?_
    | (intro _)
    | split

theorem permanent_apart {m : Field → Bool} {s0 s : State} {a1 a2} (k_log : m .log = true) (k_units : m .units = true) (k_cur : m
    .cur = true) (k_cls : m .cls = true) (k_sched : m .sched = true) (k_part : m .part = true) (k_accts : m .accts = true)
    (k_mem : m .mem = true) (k_press : m .press = true) (k_gov : m .gov = true) (h : Apart m s0 s) : Apart m s0 (permanent a1 a2
    s) := by
  unfold permanent
  try dsimp only
  repeat' first
    | with_reducible assumption
    | with_reducible apply logEvent_apart
    | with_reducible apply killInst_apart
    | with_reducible apply strike_apart
    | with_reducible refine OutApart.next ?_
    | with_reducible exact OutApart.refused
    | with_reducible refine Apart.foldl _ _ ?_ ?_
    | with_reducible refine Apart.ite ?_ ?_
    | with_reducible refine OutApart.ite ?_ ?_
    | (intro _)
    | split

theorem repeatFails_apart {m : Field → Bool} {s0 s : State} {a1 a2 a3 a4 a5 a6} (k_log : m .log = true) (k_units : m .units =
    true) (k_cur : m .cur = true) (k_cls : m .cls = true) (k_sched : m .sched = true) (k_part : m .part = true) (k_accts : m
    .accts = true) (k_mem : m .mem = true) (k_press : m .press = true) (k_gov : m .gov = true) (h : Apart m s0 s) : Apart m s0
    (repeatFails a1 a2 a3 a4 a5 a6 s) := by
  unfold repeatFails
  try dsimp only
  repeat' first
    | with_reducible assumption
    | with_reducible apply permanent_apart
    | with_reducible apply State.modPress_apart
    | with_reducible refine OutApart.next ?_
    | with_reducible exact OutApart.refused
    | with_reducible refine Apart.foldl _ _ ?_ ?_
    | with_reducible refine Apart.ite ?_ ?_
    | with_reducible refine OutApart.ite ?_ ?_
    | (intro _)
    | split

theorem transient_apart {m : Field → Bool} {s0 s : State} {a1 a2} (k_log : m .log = true) (k_units : m .units = true) (k_cur : m
    .cur = true) (k_cls : m .cls = true) (k_sched : m .sched = true) (k_part : m .part = true) (k_accts : m .accts = true)
    (k_mem : m .mem = true) (k_press : m .press = true) (k_gov : m .gov = true) (h : Apart m s0 s) : Apart m s0 (transient a1 a2
    s) := by
  unfold transient
  try dsimp only
  repeat' first
    | with_reducible assumption
    | with_reducible apply countTransient_apart
    | with_reducible apply logEvent_apart
    | with_reducible refine OutApart.next ?_
    | with_reducible exact OutApart.refused
    | with_reducible refine Apart.foldl _ _ ?_ ?_
    | with_reducible refine Apart.ite ?_ ?_
    | with_reducible refine OutApart.ite ?_ ?_
    | (intro _)
    | split

theorem reloads_apart {m : Field → Bool} {s0 s : State} {a1 a2} (k_log : m .log = true) (k_units : m .units = true) (k_cur : m
    .cur = true) (k_cls : m .cls = true) (k_sched : m .sched = true) (k_part : m .part = true) (k_accts : m .accts = true)
    (k_mem : m .mem = true) (k_press : m .press = true) (k_gov : m .gov = true) (h : Apart m s0 s) : Apart m s0 (reloads a1 a2
    s) := by
  unfold reloads
  try dsimp only
  repeat' first
    | with_reducible assumption
    | with_reducible apply transient_apart
    | with_reducible refine OutApart.next ?_
    | with_reducible exact OutApart.refused
    | with_reducible refine Apart.foldl _ _ ?_ ?_
    | with_reducible refine Apart.ite ?_ ?_
    | with_reducible refine OutApart.ite ?_ ?_
    | (intro _)
    | split

theorem execPlatenRepeatVerdict_apart {m : Field → Bool} {s0 s : State} {a1 a2 a3} (k_log : m .log = true) (k_units : m .units =
    true) (k_cur : m .cur = true) (k_cls : m .cls = true) (k_sched : m .sched = true) (k_part : m .part = true) (k_accts : m
    .accts = true) (k_mem : m .mem = true) (k_press : m .press = true) (k_gov : m .gov = true) (h : Apart m s0 s) : OutApart m
    s0 (execPlatenRepeatVerdict a1 a2 a3 s) := by
  unfold execPlatenRepeatVerdict
  try dsimp only
  repeat' first
    | with_reducible assumption
    | with_reducible apply State.at_apart
    | with_reducible apply repeatFails_apart
    | with_reducible apply State.modPress_apart
    | with_reducible apply pumpAll_apart
    | with_reducible apply reloads_apart
    | with_reducible apply transient_apart
    | with_reducible refine OutApart.next ?_
    | with_reducible exact OutApart.refused
    | with_reducible refine Apart.foldl _ _ ?_ ?_
    | with_reducible refine Apart.ite ?_ ?_
    | with_reducible refine OutApart.ite ?_ ?_
    | (intro _)
    | split

theorem illegalOp_apart {m : Field → Bool} {s0 s : State} {a1 a2 a3 a4} (k_dev : m .dev = true) (k_upd : m .upd = true) (k_cue :
    m .cue = true) (k_log : m .log = true) (k_units : m .units = true) (k_cur : m .cur = true) (k_sched : m .sched = true)
    (k_cog : m .cog = true) (k_part : m .part = true) (k_accts : m .accts = true) (k_mem : m .mem = true) (k_press : m .press =
    true) (k_port : m .port = true) (k_gov : m .gov = true) (h : Apart m s0 s) : Apart m s0 (illegalOp a1 a2 a3 a4 s) := by
  unfold illegalOp
  try dsimp only
  repeat' first
    | with_reducible assumption
    | with_reducible apply sceneFault_apart
    | with_reducible apply logEvent_apart
    | with_reducible refine OutApart.next ?_
    | with_reducible exact OutApart.refused
    | with_reducible refine Apart.foldl _ _ ?_ ?_
    | with_reducible refine Apart.ite ?_ ?_
    | with_reducible refine OutApart.ite ?_ ?_
    | (intro _)
    | split

theorem execPress_apart {m : Field → Bool} {s0 s : State} {a1 a2 a3 a4 a5 a6} (k_dev : m .dev = true) (k_upd : m .upd = true)
    (k_cue : m .cue = true) (k_log : m .log = true) (k_units : m .units = true) (k_cur : m .cur = true) (k_cls : m .cls = true)
    (k_sched : m .sched = true) (k_cog : m .cog = true) (k_part : m .part = true) (k_accts : m .accts = true) (k_mem : m .mem =
    true) (k_press : m .press = true) (k_port : m .port = true) (k_gov : m .gov = true) (h : Apart m s0 s) : OutApart m s0
    (execPress a1 a2 a3 a4 a5 a6 s) := by
  unfold execPress
  try dsimp only
  repeat' first
    | with_reducible assumption
    | with_reducible apply State.at_apart
    | with_reducible apply waitHand_apart
    | with_reducible apply illegalOp_apart
    | with_reducible apply memErrs_apart
    | with_reducible apply State.modPress_apart
    | with_reducible apply meetBarrier_apart
    | with_reducible apply pumpAll_apart
    | with_reducible refine OutApart.next ?_
    | with_reducible exact OutApart.refused
    | with_reducible refine Apart.foldl _ _ ?_ ?_
    | with_reducible refine Apart.ite ?_ ?_
    | with_reducible refine OutApart.ite ?_ ?_
    | (intro _)
    | split

theorem execRowReadyUpdate_apart {m : Field → Bool} {s0 s : State} {a1 a2 a3 a4 a5} (k_press : m .press = true) (h : Apart m s0
    s) : OutApart m s0 (execRowReadyUpdate a1 a2 a3 a4 a5 s) := by
  unfold execRowReadyUpdate
  try dsimp only
  repeat' first
    | with_reducible assumption
    | with_reducible apply State.at_apart
    | with_reducible apply State.modPress_apart
    | with_reducible refine OutApart.next ?_
    | with_reducible exact OutApart.refused
    | with_reducible refine Apart.foldl _ _ ?_ ?_
    | with_reducible refine Apart.ite ?_ ?_
    | with_reducible refine OutApart.ite ?_ ?_
    | (intro _)
    | split

theorem execSequencerLockstepMismatch_apart {m : Field → Bool} {s0 s : State} {a1 a2 a3} (k_cue : m .cue = true) (k_log : m .log
    = true) (k_units : m .units = true) (k_cur : m .cur = true) (k_cls : m .cls = true) (k_sched : m .sched = true) (k_part : m
    .part = true) (k_accts : m .accts = true) (k_mem : m .mem = true) (k_press : m .press = true) (k_port : m .port = true)
    (k_gov : m .gov = true) (h : Apart m s0 s) : OutApart m s0 (execSequencerLockstepMismatch a1 a2 a3 s) := by
  unfold execSequencerLockstepMismatch
  try dsimp only
  repeat' first
    | with_reducible assumption
    | with_reducible apply State.at_apart
    | with_reducible apply logEvent_apart
    | with_reducible apply detect_apart
    | with_reducible apply strike_apart
    | with_reducible apply State.modPress_apart
    | with_reducible refine OutApart.next ?_
    | with_reducible exact OutApart.refused
    | with_reducible refine Apart.foldl _ _ ?_ ?_
    | with_reducible refine Apart.ite ?_ ?_
    | with_reducible refine OutApart.ite ?_ ?_
    | (intro _)
    | split

theorem execShadowLoadComplete_apart {m : Field → Bool} {s0 s : State} {a1 a2 a3 a4} (k_log : m .log = true) (k_units : m .units
    = true) (k_cur : m .cur = true) (k_cls : m .cls = true) (k_sched : m .sched = true) (k_part : m .part = true) (k_accts : m
    .accts = true) (k_mem : m .mem = true) (k_press : m .press = true) (k_gov : m .gov = true) (h : Apart m s0 s) : OutApart m
    s0 (execShadowLoadComplete a1 a2 a3 a4 s) := by
  unfold execShadowLoadComplete
  try dsimp only
  repeat' first
    | with_reducible assumption
    | with_reducible apply State.at_apart
    | with_reducible apply permanent_apart
    | with_reducible apply State.modPress_apart
    | with_reducible apply pumpAll_apart
    | with_reducible apply reloads_apart
    | with_reducible refine OutApart.next ?_
    | with_reducible exact OutApart.refused
    | with_reducible refine Apart.foldl _ _ ?_ ?_
    | with_reducible refine Apart.ite ?_ ?_
    | with_reducible refine OutApart.ite ?_ ?_
    | (intro _)
    | split

end Sys2Proof.Machine
end

