-- ==== Sys2Proof/Laws/ApartCompositor.lean ====
section
/-! SUPPORT. Frames of the operations of Machine/Compositor.lean. -/

namespace Sys2Proof.Machine

theorem playWrite_apart {m : Field → Bool} {s0 s : State} {a1 a2 a3} (k_mem : m .mem = true) (h : Apart m s0 s) : Apart m s0
    (playWrite a1 a2 a3 s) := by
  unfold playWrite
  try dsimp only
  repeat' first
    | with_reducible assumption
    | with_reducible apply devWrite_apart
    | with_reducible refine OutApart.next ?_
    | with_reducible exact OutApart.refused
    | with_reducible refine Apart.foldl _ _ ?_ ?_
    | with_reducible refine Apart.ite ?_ ?_
    | with_reducible refine OutApart.ite ?_ ?_
    | (intro _)
    | split

theorem compEffect_apart {m : Field → Bool} {s0 s : State} {a1 a2 a3 a4} (k_mem : m .mem = true) (k_press : m .press = true) (h
    : Apart m s0 s) : Apart m s0 (compEffect a1 a2 a3 a4 s) := by
  unfold compEffect
  try dsimp only
  repeat' first
    | with_reducible assumption
    | with_reducible apply playWrite_apart
    | with_reducible apply State.modPress_apart
    | with_reducible apply caseWrite_apart
    | with_reducible refine OutApart.next ?_
    | with_reducible exact OutApart.refused
    | with_reducible refine Apart.foldl _ _ ?_ ?_
    | with_reducible refine Apart.ite ?_ ?_
    | with_reducible refine OutApart.ite ?_ ?_
    | (intro _)
    | split

theorem compNext_apart {m : Field → Bool} {s0 s : State} {a1 a2} (k_press : m .press = true) (h : Apart m s0 s) : Apart m s0
    (compNext a1 a2 s) := by
  unfold compNext
  try dsimp only
  repeat' first
    | with_reducible assumption
    | with_reducible apply State.modPress_apart
    | with_reducible refine OutApart.next ?_
    | with_reducible exact OutApart.refused
    | with_reducible refine Apart.foldl _ _ ?_ ?_
    | with_reducible refine Apart.ite ?_ ?_
    | with_reducible refine OutApart.ite ?_ ?_
    | (intro _)
    | split

theorem execCompositorTimeout_apart {m : Field → Bool} {s0 s : State} {a1 a2 a3} (k_log : m .log = true) (k_units : m .units =
    true) (k_sched : m .sched = true) (k_part : m .part = true) (k_accts : m .accts = true) (k_mem : m .mem = true) (k_press : m
    .press = true) (k_gov : m .gov = true) (h : Apart m s0 s) : OutApart m s0 (execCompositorTimeout a1 a2 a3 s) := by
  unfold execCompositorTimeout
  try dsimp only
  repeat' first
    | with_reducible assumption
    | with_reducible apply State.at_apart
    | with_reducible apply killElsewhere_apart
    | with_reducible apply logEvent_apart
    | with_reducible apply suspectUnit_apart
    | with_reducible refine OutApart.next ?_
    | with_reducible exact OutApart.refused
    | with_reducible refine Apart.foldl _ _ ?_ ?_
    | with_reducible refine Apart.ite ?_ ?_
    | with_reducible refine OutApart.ite ?_ ?_
    | (intro _)
    | split

theorem execCompositorWrite_apart {m : Field → Bool} {s0 s : State} {a1 a2 a3 a4 a5 a6 a7 a8 a9} (k_dev : m .dev = true) (k_upd
    : m .upd = true) (k_cue : m .cue = true) (k_log : m .log = true) (k_units : m .units = true) (k_cur : m .cur = true) (k_cls
    : m .cls = true) (k_sched : m .sched = true) (k_cog : m .cog = true) (k_part : m .part = true) (k_accts : m .accts = true)
    (k_mem : m .mem = true) (k_press : m .press = true) (k_port : m .port = true) (k_gov : m .gov = true) (h : Apart m s0 s) :
    OutApart m s0 (execCompositorWrite a1 a2 a3 a4 a5 a6 a7 a8 a9 s) := by
  unfold execCompositorWrite
  try dsimp only
  repeat' first
    | with_reducible assumption
    | with_reducible apply State.at_apart
    | with_reducible apply tagErrs_apart
    | with_reducible apply waitHand_apart
    | with_reducible apply translationFault_apart
    | with_reducible apply poisonRead_apart
    | with_reducible apply memErrs_apart
    | with_reducible apply askBlocks_apart
    | with_reducible apply compEffect_apart
    | with_reducible apply State.modPress_apart
    | with_reducible apply meetBarrier_apart
    | with_reducible apply pumpAll_apart
    | with_reducible apply compNext_apart
    | with_reducible refine OutApart.next ?_
    | with_reducible exact OutApart.refused
    | with_reducible refine Apart.foldl _ _ ?_ ?_
    | with_reducible refine Apart.ite ?_ ?_
    | with_reducible refine OutApart.ite ?_ ?_
    | (intro _)
    | split

theorem execXfer_apart {m : Field → Bool} {s0 s : State} {a1 a2 a3 a4 a5 a6} (k_dev : m .dev = true) (k_upd : m .upd = true)
    (k_cue : m .cue = true) (k_log : m .log = true) (k_units : m .units = true) (k_cur : m .cur = true) (k_cls : m .cls = true)
    (k_sched : m .sched = true) (k_cog : m .cog = true) (k_part : m .part = true) (k_accts : m .accts = true) (k_mem : m .mem =
    true) (k_press : m .press = true) (k_port : m .port = true) (k_gov : m .gov = true) (h : Apart m s0 s) : OutApart m s0
    (execXfer a1 a2 a3 a4 a5 a6 s) := by
  unfold execXfer
  try dsimp only
  repeat' first
    | with_reducible assumption
    | with_reducible apply State.at_apart
    | with_reducible apply tagErrs_apart
    | with_reducible apply waitHand_apart
    | with_reducible apply illegalOp_apart
    | with_reducible apply translationFault_apart
    | with_reducible apply poisonRead_apart
    | with_reducible apply memErrs_apart
    | with_reducible apply askBlocks_apart
    | with_reducible apply playWrite_apart
    | with_reducible apply State.modInst_apart
    | with_reducible apply meetBarrier_apart
    | with_reducible apply State.modPress_apart
    | with_reducible refine OutApart.next ?_
    | with_reducible exact OutApart.refused
    | with_reducible refine Apart.foldl _ _ ?_ ?_
    | with_reducible refine Apart.ite ?_ ?_
    | with_reducible refine OutApart.ite ?_ ?_
    | (intro _)
    | split

theorem execXferComplete_apart {m : Field → Bool} {s0 s : State} {a1 a2 a3} (k_press : m .press = true) (h : Apart m s0 s) :
    OutApart m s0 (execXferComplete a1 a2 a3 s) := by
  unfold execXferComplete
  try dsimp only
  repeat' first
    | with_reducible assumption
    | with_reducible apply State.at_apart
    | with_reducible apply State.modPress_apart
    | with_reducible refine OutApart.next ?_
    | with_reducible exact OutApart.refused
    | with_reducible refine Apart.foldl _ _ ?_ ?_
    | with_reducible refine Apart.ite ?_ ?_
    | with_reducible refine OutApart.ite ?_ ?_
    | (intro _)
    | split

end Sys2Proof.Machine
end

