-- ==== Sys2Proof/Laws/ApartStartup.lean ====
section
/-! SUPPORT. Frames of the operations of Machine/Startup.lean. -/

namespace Sys2Proof.Machine

theorem interruptUpdate_apart {m : Field → Bool} {s0 s : State} {a1} (k_dev : m .dev = true) (k_upd : m .upd = true) (k_log : m
    .log = true) (k_port : m .port = true) (h : Apart m s0 s) : Apart m s0 (interruptUpdate a1 s) := by
  unfold interruptUpdate
  try dsimp only
  repeat' first
    | with_reducible assumption
    | with_reducible apply enterBlank_apart
    | with_reducible apply logEvent_apart
    | with_reducible refine OutApart.next ?_
    | with_reducible exact OutApart.refused
    | with_reducible refine Apart.foldl _ _ ?_ ?_
    | with_reducible refine Apart.ite ?_ ?_
    | with_reducible refine OutApart.ite ?_ ?_
    | (intro _)
    | split
    | with_reducible refine Apart.upd ?_ ?_

theorem deviceReset_apart {m : Field → Bool} {s0 s : State} (k_chip : m .chip = true) (k_dev : m .dev = true) (k_upd : m .upd = true) (k_forme : m .forme = true) (k_tb : m .tb = true) (k_cue : m .cue = true) (k_log : m .log = true) (k_units : m .units = true) (k_cur : m .cur = true) (k_cls : m .cls = true) (k_sched : m .sched = true) (k_cog : m .cog = true) (k_part : m .part = true) (k_accts : m .accts = true) (k_acctWin : m .acctWin = true) (k_mem : m .mem = true) (k_press : m .press = true) (k_ing : m .ing = true) (k_port : m .port = true) (k_gov : m .gov = true) (k_overruns : m .overruns = true)
    (h : Apart m s0 s) : Apart m s0 (deviceReset s) := by
  unfold deviceReset
  refine h.record (.inr rfl) (.inr rfl) (.inr rfl) (.inl k_chip) (.inl k_dev) (.inl k_upd) (.inr rfl) (.inr rfl) (.inl k_forme) (.inl k_tb) (.inl k_cue) (.inl k_log) (.inl k_units) (.inl k_cur) (.inl k_cls) (.inl k_sched) (.inl k_cog) (.inl k_part) (.inl k_accts) (.inl k_acctWin) (.inl k_mem) (.inl k_press) (.inl k_ing) (.inl k_port) (.inl k_gov) (.inl k_overruns)

theorem startParts_apart {m : Field → Bool} {s0 s : State} {a1} (k_part : m .part = true) (h : Apart m s0 s) : Apart m s0
    (startParts a1 s) := by
  unfold startParts
  try dsimp only
  repeat' first
    | with_reducible assumption
    | with_reducible refine OutApart.next ?_
    | with_reducible exact OutApart.refused
    | with_reducible refine Apart.foldl _ _ ?_ ?_
    | with_reducible refine Apart.ite ?_ ?_
    | with_reducible refine OutApart.ite ?_ ?_
    | (intro _)
    | split
    | with_reducible refine Apart.part ?_ ?_

theorem markAbsent_apart {m : Field → Bool} {s0 s : State} {a1} (k_units : m .units = true) (h : Apart m s0 s) : Apart m s0
    (markAbsent a1 s) := by
  unfold markAbsent
  try dsimp only
  repeat' first
    | with_reducible assumption
    | with_reducible apply State.modUnit_apart
    | with_reducible refine OutApart.next ?_
    | with_reducible exact OutApart.refused
    | with_reducible refine Apart.foldl _ _ ?_ ?_
    | with_reducible refine Apart.ite ?_ ?_
    | with_reducible refine OutApart.ite ?_ ?_
    | (intro _)
    | split

theorem enterStandby_apart {m : Field → Bool} {s0 s : State} {a1 a2} (k_dev : m .dev = true) (k_forme : m .forme = true) (k_cue
    : m .cue = true) (k_log : m .log = true) (k_units : m .units = true) (k_part : m .part = true) (k_mem : m .mem = true)
    (k_port : m .port = true) (h : Apart m s0 s) : Apart m s0 (enterStandby a1 a2 s) := by
  unfold enterStandby
  try dsimp only
  repeat' first
    | with_reducible assumption
    | with_reducible apply logEvent_apart
    | with_reducible apply startParts_apart
    | with_reducible apply markAbsent_apart
    | with_reducible apply setState_apart
    | with_reducible refine OutApart.next ?_
    | with_reducible exact OutApart.refused
    | with_reducible refine Apart.foldl _ _ ?_ ?_
    | with_reducible refine Apart.ite ?_ ?_
    | with_reducible refine OutApart.ite ?_ ?_
    | (intro _)
    | split
    | with_reducible refine Apart.dev ?_ ?_
    | with_reducible refine Apart.forme ?_ ?_
    | with_reducible refine Apart.cue ?_ ?_
    | with_reducible refine Apart.mem ?_ ?_
    | with_reducible apply Apart.record
    | with_reducible exact Or.inr rfl
    | with_reducible (refine Or.inl ?_)

theorem failRestore_apart {m : Field → Bool} {s0 s : State} (k_log : m .log = true) (k_sched : m .sched = true) (k_mem : m .mem
    = true) (h : Apart m s0 s) : Apart m s0 (failRestore s) := by
  unfold failRestore
  try dsimp only
  repeat' first
    | with_reducible assumption
    | with_reducible apply logEvent_apart
    | with_reducible apply unmapPage_apart
    | with_reducible refine OutApart.next ?_
    | with_reducible exact OutApart.refused
    | with_reducible refine Apart.foldl _ _ ?_ ?_
    | with_reducible refine Apart.ite ?_ ?_
    | with_reducible refine OutApart.ite ?_ ?_
    | (intro _)
    | split
    | with_reducible refine Apart.sched ?_ ?_
    | with_reducible refine Apart.mem ?_ ?_
    | with_reducible apply Apart.record
    | with_reducible exact Or.inr rfl
    | with_reducible (refine Or.inl ?_)

theorem execFuseBurnComplete_apart {m : Field → Bool} {s0 s : State} {a1} (k_fuses : m .fuses = true) (h : Apart m s0 s) :
    OutApart m s0 (execFuseBurnComplete a1 s) := by
  unfold execFuseBurnComplete
  try dsimp only
  repeat' first
    | with_reducible assumption
    | with_reducible apply State.at_apart
    | with_reducible refine OutApart.next ?_
    | with_reducible exact OutApart.refused
    | with_reducible refine Apart.foldl _ _ ?_ ?_
    | with_reducible refine Apart.ite ?_ ?_
    | with_reducible refine OutApart.ite ?_ ?_
    | (intro _)
    | split
    | with_reducible refine Apart.fuses ?_ ?_

theorem tapBypass_apart {m : Field → Bool} {s0 s : State} (k_chip : m .chip = true) (h : Apart m s0 s) : Apart m s0 (tapBypass
    s) := by
  unfold tapBypass
  try dsimp only
  repeat' first
    | with_reducible assumption
    | with_reducible refine OutApart.next ?_
    | with_reducible exact OutApart.refused
    | with_reducible refine Apart.foldl _ _ ?_ ?_
    | with_reducible refine Apart.ite ?_ ?_
    | with_reducible refine OutApart.ite ?_ ?_
    | (intro _)
    | split
    | with_reducible refine Apart.chip ?_ ?_

theorem execJtagBypass_apart {m : Field → Bool} {s0 s : State} {a1} (k_chip : m .chip = true) (h : Apart m s0 s) : OutApart m s0
    (execJtagBypass a1 s) := by
  unfold execJtagBypass
  try dsimp only
  repeat' first
    | with_reducible assumption
    | with_reducible apply State.at_apart
    | with_reducible apply tapBypass_apart
    | with_reducible refine OutApart.next ?_
    | with_reducible exact OutApart.refused
    | with_reducible refine Apart.foldl _ _ ?_ ?_
    | with_reducible refine Apart.ite ?_ ?_
    | with_reducible refine OutApart.ite ?_ ?_
    | (intro _)
    | split

theorem execJtagDebugInstruction_apart {m : Field → Bool} {s0 s : State} {a1 a2} (k_chip : m .chip = true) (h : Apart m s0 s) :
    OutApart m s0 (execJtagDebugInstruction a1 a2 s) := by
  unfold execJtagDebugInstruction
  try dsimp only
  repeat' first
    | with_reducible assumption
    | with_reducible apply State.at_apart
    | with_reducible apply tapBypass_apart
    | with_reducible refine OutApart.next ?_
    | with_reducible exact OutApart.refused
    | with_reducible refine Apart.foldl _ _ ?_ ?_
    | with_reducible refine Apart.ite ?_ ?_
    | with_reducible refine OutApart.ite ?_ ?_
    | (intro _)
    | split

theorem execJtagExtest_apart {m : Field → Bool} {s0 s : State} {a1} (k_free : m .free = true) (k_chip : m .chip = true) (h :
    Apart m s0 s) : OutApart m s0 (execJtagExtest a1 s) := by
  unfold execJtagExtest
  try dsimp only
  repeat' first
    | with_reducible assumption
    | with_reducible apply State.at_apart
    | with_reducible apply tapBypass_apart
    | with_reducible refine OutApart.next ?_
    | with_reducible exact OutApart.refused
    | with_reducible refine Apart.foldl _ _ ?_ ?_
    | with_reducible refine Apart.ite ?_ ?_
    | with_reducible refine OutApart.ite ?_ ?_
    | (intro _)
    | split
    | with_reducible refine Apart.free ?_ ?_
    | with_reducible refine Apart.chip ?_ ?_
    | with_reducible apply Apart.record
    | with_reducible exact Or.inr rfl
    | with_reducible (refine Or.inl ?_)

theorem execJtagIdcode_apart {m : Field → Bool} {s0 s : State} {a1} (k_chip : m .chip = true) (h : Apart m s0 s) : OutApart m s0
    (execJtagIdcode a1 s) := by
  unfold execJtagIdcode
  try dsimp only
  repeat' first
    | with_reducible assumption
    | with_reducible apply State.at_apart
    | with_reducible refine OutApart.next ?_
    | with_reducible exact OutApart.refused
    | with_reducible refine Apart.foldl _ _ ?_ ?_
    | with_reducible refine Apart.ite ?_ ?_
    | with_reducible refine OutApart.ite ?_ ?_
    | (intro _)
    | split
    | with_reducible refine Apart.chip ?_ ?_

theorem execJtagSamplePreload_apart {m : Field → Bool} {s0 s : State} {a1 a2} (k_free : m .free = true) (k_chip : m .chip =
    true) (h : Apart m s0 s) : OutApart m s0 (execJtagSamplePreload a1 a2 s) := by
  unfold execJtagSamplePreload
  try dsimp only
  repeat' first
    | with_reducible assumption
    | with_reducible apply State.at_apart
    | with_reducible refine OutApart.next ?_
    | with_reducible exact OutApart.refused
    | with_reducible refine Apart.foldl _ _ ?_ ?_
    | with_reducible refine Apart.ite ?_ ?_
    | with_reducible refine OutApart.ite ?_ ?_
    | (intro _)
    | split
    | with_reducible refine Apart.free ?_ ?_
    | with_reducible refine Apart.chip ?_ ?_
    | with_reducible apply Apart.record
    | with_reducible exact Or.inr rfl
    | with_reducible (refine Or.inl ?_)

theorem refuseForme_apart {m : Field → Bool} {s0 s : State} {a1 a2 a3} (k_dev : m .dev = true) (k_log : m .log = true) (k_port :
    m .port = true) (h : Apart m s0 s) : Apart m s0 (refuseForme a1 a2 a3 s) := by
  unfold refuseForme
  try dsimp only
  repeat' first
    | with_reducible assumption
    | with_reducible apply enterBlank_apart
    | with_reducible apply logEvent_apart
    | with_reducible refine OutApart.next ?_
    | with_reducible exact OutApart.refused
    | with_reducible refine Apart.foldl _ _ ?_ ?_
    | with_reducible refine Apart.ite ?_ ?_
    | with_reducible refine OutApart.ite ?_ ?_
    | (intro _)
    | split

theorem judge_apart {m : Field → Bool} {s0 s : State} {a1} (k_dev : m .dev = true) (k_forme : m .forme = true) (k_cue : m .cue =
    true) (k_log : m .log = true) (k_units : m .units = true) (k_part : m .part = true) (k_mem : m .mem = true) (k_port : m
    .port = true) (h : Apart m s0 s) : Apart m s0 (judge a1 s) := by
  unfold judge
  try dsimp only
  repeat' first
    | with_reducible assumption
    | with_reducible apply refuseForme_apart
    | with_reducible apply logEvent_apart
    | with_reducible apply enterStandby_apart
    | with_reducible refine OutApart.next ?_
    | with_reducible exact OutApart.refused
    | with_reducible refine Apart.foldl _ _ ?_ ?_
    | with_reducible refine Apart.ite ?_ ?_
    | with_reducible refine OutApart.ite ?_ ?_
    | (intro _)
    | split

theorem execLoadingComplete_apart {m : Field → Bool} {s0 s : State} {a1 a2} (k_dev : m .dev = true) (k_forme : m .forme = true)
    (k_cue : m .cue = true) (k_log : m .log = true) (k_units : m .units = true) (k_part : m .part = true) (k_mem : m .mem =
    true) (k_port : m .port = true) (h : Apart m s0 s) : OutApart m s0 (execLoadingComplete a1 a2 s) := by
  unfold execLoadingComplete
  try dsimp only
  repeat' first
    | with_reducible assumption
    | with_reducible apply State.at_apart
    | with_reducible apply judge_apart
    | with_reducible refine OutApart.next ?_
    | with_reducible exact OutApart.refused
    | with_reducible refine Apart.foldl _ _ ?_ ?_
    | with_reducible refine Apart.ite ?_ ?_
    | with_reducible refine OutApart.ite ?_ ?_
    | (intro _)
    | split

theorem execPllLockLost_apart {m : Field → Bool} {s0 s : State} {a1 a2} (k_chip : m .chip = true) (k_dev : m .dev = true) (k_upd
    : m .upd = true) (k_cue : m .cue = true) (k_log : m .log = true) (k_cur : m .cur = true) (k_sched : m .sched = true) (k_port
    : m .port = true) (h : Apart m s0 s) : OutApart m s0 (execPllLockLost a1 a2 s) := by
  unfold execPllLockLost
  try dsimp only
  repeat' first
    | with_reducible assumption
    | with_reducible apply State.at_apart
    | with_reducible apply deviceFault_apart
    | with_reducible apply logEvent_apart
    | with_reducible refine OutApart.next ?_
    | with_reducible exact OutApart.refused
    | with_reducible refine Apart.foldl _ _ ?_ ?_
    | with_reducible refine Apart.ite ?_ ?_
    | with_reducible refine OutApart.ite ?_ ?_
    | (intro _)
    | split
    | with_reducible refine Apart.chip ?_ ?_

theorem execPowerLoss_apart {m : Field → Bool} {s0 s : State} {a1} (k_free : m .free = true) (k_fuses : m .fuses = true) (k_chip
    : m .chip = true) (k_dev : m .dev = true) (k_upd : m .upd = true) (k_forme : m .forme = true) (k_tb : m .tb = true) (k_cue :
    m .cue = true) (k_log : m .log = true) (k_units : m .units = true) (k_cur : m .cur = true) (k_cls : m .cls = true) (k_sched
    : m .sched = true) (k_cog : m .cog = true) (k_part : m .part = true) (k_accts : m .accts = true) (k_acctWin : m .acctWin =
    true) (k_mem : m .mem = true) (k_press : m .press = true) (k_ing : m .ing = true) (k_port : m .port = true) (k_gov : m .gov
    = true) (k_overruns : m .overruns = true) (h : Apart m s0 s) : OutApart m s0 (execPowerLoss a1 s) := by
  unfold execPowerLoss
  try dsimp only
  repeat' first
    | with_reducible assumption
    | with_reducible apply State.at_apart
    | with_reducible apply deviceReset_apart
    | with_reducible refine OutApart.next ?_
    | with_reducible exact OutApart.refused
    | with_reducible refine Apart.foldl _ _ ?_ ?_
    | with_reducible refine Apart.ite ?_ ?_
    | with_reducible refine OutApart.ite ?_ ?_
    | (intro _)
    | split
    | with_reducible refine Apart.free ?_ ?_
    | with_reducible refine Apart.fuses ?_ ?_
    | with_reducible refine Apart.chip ?_ ?_
    | with_reducible apply Apart.record
    | with_reducible exact Or.inr rfl
    | with_reducible (refine Or.inl ?_)

theorem execPowerOn_apart {m : Field → Bool} {s0 s : State} {a1} (k_chip : m .chip = true) (k_dev : m .dev = true) (k_upd : m
    .upd = true) (k_forme : m .forme = true) (k_tb : m .tb = true) (k_cue : m .cue = true) (k_log : m .log = true) (k_units : m
    .units = true) (k_cur : m .cur = true) (k_cls : m .cls = true) (k_sched : m .sched = true) (k_cog : m .cog = true) (k_part :
    m .part = true) (k_accts : m .accts = true) (k_acctWin : m .acctWin = true) (k_mem : m .mem = true) (k_press : m .press =
    true) (k_ing : m .ing = true) (k_port : m .port = true) (k_gov : m .gov = true) (k_overruns : m .overruns = true) (h : Apart
    m s0 s) : OutApart m s0 (execPowerOn a1 s) := by
  unfold execPowerOn
  try dsimp only
  repeat' first
    | with_reducible assumption
    | with_reducible apply State.at_apart
    | with_reducible apply deviceReset_apart
    | with_reducible refine OutApart.next ?_
    | with_reducible exact OutApart.refused
    | with_reducible refine Apart.foldl _ _ ?_ ?_
    | with_reducible refine Apart.ite ?_ ?_
    | with_reducible refine OutApart.ite ?_ ?_
    | (intro _)
    | split
    | with_reducible refine Apart.chip ?_ ?_

theorem execResetComplete_apart {m : Field → Bool} {s0 s : State} {a1} (k_chip : m .chip = true) (k_dev : m .dev = true) (k_tb :
    m .tb = true) (k_port : m .port = true) (k_gov : m .gov = true) (h : Apart m s0 s) : OutApart m s0 (execResetComplete a1 s)
    := by
  unfold execResetComplete
  try dsimp only
  repeat' first
    | with_reducible assumption
    | with_reducible apply State.at_apart
    | with_reducible apply enterBlank_apart
    | with_reducible apply setState_apart
    | with_reducible refine OutApart.next ?_
    | with_reducible exact OutApart.refused
    | with_reducible refine Apart.foldl _ _ ?_ ?_
    | with_reducible refine Apart.ite ?_ ?_
    | with_reducible refine OutApart.ite ?_ ?_
    | (intro _)
    | split
    | with_reducible refine Apart.chip ?_ ?_
    | with_reducible refine Apart.dev ?_ ?_
    | with_reducible refine Apart.tb ?_ ?_
    | with_reducible refine Apart.gov ?_ ?_
    | with_reducible apply Apart.record
    | with_reducible exact Or.inr rfl
    | with_reducible (refine Or.inl ?_)

theorem execResetNAssert_apart {m : Field → Bool} {s0 s : State} {a1} (k_chip : m .chip = true) (k_dev : m .dev = true) (k_upd :
    m .upd = true) (k_forme : m .forme = true) (k_tb : m .tb = true) (k_cue : m .cue = true) (k_log : m .log = true) (k_units :
    m .units = true) (k_cur : m .cur = true) (k_cls : m .cls = true) (k_sched : m .sched = true) (k_cog : m .cog = true) (k_part
    : m .part = true) (k_accts : m .accts = true) (k_acctWin : m .acctWin = true) (k_mem : m .mem = true) (k_press : m .press =
    true) (k_ing : m .ing = true) (k_port : m .port = true) (k_gov : m .gov = true) (k_overruns : m .overruns = true) (h : Apart
    m s0 s) : OutApart m s0 (execResetNAssert a1 s) := by
  unfold execResetNAssert
  try dsimp only
  repeat' first
    | with_reducible assumption
    | with_reducible apply State.at_apart
    | with_reducible apply deviceReset_apart
    | with_reducible refine OutApart.next ?_
    | with_reducible exact OutApart.refused
    | with_reducible refine Apart.foldl _ _ ?_ ?_
    | with_reducible refine Apart.ite ?_ ?_
    | with_reducible refine OutApart.ite ?_ ?_
    | (intro _)
    | split
    | with_reducible refine Apart.chip ?_ ?_

theorem execResetNDeassert_apart {m : Field → Bool} {s0 s : State} {a1} (k_chip : m .chip = true) (h : Apart m s0 s) : OutApart
    m s0 (execResetNDeassert a1 s) := by
  unfold execResetNDeassert
  try dsimp only
  repeat' first
    | with_reducible assumption
    | with_reducible apply State.at_apart
    | with_reducible refine OutApart.next ?_
    | with_reducible exact OutApart.refused
    | with_reducible refine Apart.foldl _ _ ?_ ?_
    | with_reducible refine Apart.ite ?_ ?_
    | with_reducible refine OutApart.ite ?_ ?_
    | (intro _)
    | split
    | with_reducible refine Apart.chip ?_ ?_

theorem execSupplyOutOfRange_apart {m : Field → Bool} {s0 s : State} {a1 a2} (k_chip : m .chip = true) (k_dev : m .dev = true)
    (k_upd : m .upd = true) (k_cue : m .cue = true) (k_log : m .log = true) (k_cur : m .cur = true) (k_sched : m .sched = true)
    (k_port : m .port = true) (h : Apart m s0 s) : OutApart m s0 (execSupplyOutOfRange a1 a2 s) := by
  unfold execSupplyOutOfRange
  try dsimp only
  repeat' first
    | with_reducible assumption
    | with_reducible apply State.at_apart
    | with_reducible apply deviceFault_apart
    | with_reducible apply logEvent_apart
    | with_reducible refine OutApart.next ?_
    | with_reducible exact OutApart.refused
    | with_reducible refine Apart.foldl _ _ ?_ ?_
    | with_reducible refine Apart.ite ?_ ?_
    | with_reducible refine OutApart.ite ?_ ?_
    | (intro _)
    | split
    | with_reducible refine Apart.chip ?_ ?_

theorem execTrstNAssert_apart {m : Field → Bool} {s0 s : State} {a1} (k_chip : m .chip = true) (h : Apart m s0 s) : OutApart m
    s0 (execTrstNAssert a1 s) := by
  unfold execTrstNAssert
  try dsimp only
  repeat' first
    | with_reducible assumption
    | with_reducible apply State.at_apart
    | with_reducible refine OutApart.next ?_
    | with_reducible exact OutApart.refused
    | with_reducible refine Apart.foldl _ _ ?_ ?_
    | with_reducible refine Apart.ite ?_ ?_
    | with_reducible refine OutApart.ite ?_ ?_
    | (intro _)
    | split
    | with_reducible refine Apart.chip ?_ ?_

theorem loadDirectory_apart {m : Field → Bool} {s0 s : State} (k_dev : m .dev = true) (k_log : m .log = true) (k_port : m .port
    = true) (h : Apart m s0 s) : Apart m s0 (loadDirectory s) := by
  unfold loadDirectory
  try dsimp only
  repeat' first
    | with_reducible assumption
    | with_reducible apply refuseForme_apart
    | with_reducible refine OutApart.next ?_
    | with_reducible exact OutApart.refused
    | with_reducible refine Apart.foldl _ _ ?_ ?_
    | with_reducible refine Apart.ite ?_ ?_
    | with_reducible refine OutApart.ite ?_ ?_
    | (intro _)
    | split
    | with_reducible refine Apart.dev ?_ ?_

theorem loadFirmware_apart {m : Field → Bool} {s0 s : State} (k_dev : m .dev = true) (k_log : m .log = true) (k_port : m .port =
    true) (h : Apart m s0 s) : Apart m s0 (loadFirmware s) := by
  unfold loadFirmware
  try dsimp only
  repeat' first
    | with_reducible assumption
    | with_reducible apply refuseForme_apart
    | with_reducible refine OutApart.next ?_
    | with_reducible exact OutApart.refused
    | with_reducible refine Apart.foldl _ _ ?_ ?_
    | with_reducible refine Apart.ite ?_ ?_
    | with_reducible refine OutApart.ite ?_ ?_
    | (intro _)
    | split
    | with_reducible refine Apart.dev ?_ ?_

theorem loadChunk_apart {m : Field → Bool} {s0 s : State} (k_dev : m .dev = true) (h : Apart m s0 s) : Apart m s0 (loadChunk s)
    := by
  unfold loadChunk
  try dsimp only
  repeat' first
    | with_reducible assumption
    | with_reducible refine OutApart.next ?_
    | with_reducible exact OutApart.refused
    | with_reducible refine Apart.foldl _ _ ?_ ?_
    | with_reducible refine Apart.ite ?_ ?_
    | with_reducible refine OutApart.ite ?_ ?_
    | (intro _)
    | split
    | with_reducible refine Apart.dev ?_ ?_

theorem execUfsCommandComplete_apart {m : Field → Bool} {s0 s : State} {a1} (k_dev : m .dev = true) (k_log : m .log = true)
    (k_port : m .port = true) (h : Apart m s0 s) : OutApart m s0 (execUfsCommandComplete a1 s) := by
  unfold execUfsCommandComplete
  try dsimp only
  repeat' first
    | with_reducible assumption
    | with_reducible apply State.at_apart
    | with_reducible apply loadDirectory_apart
    | with_reducible apply loadFirmware_apart
    | with_reducible apply loadChunk_apart
    | with_reducible refine OutApart.next ?_
    | with_reducible exact OutApart.refused
    | with_reducible refine Apart.foldl _ _ ?_ ?_
    | with_reducible refine Apart.ite ?_ ?_
    | with_reducible refine OutApart.ite ?_ ?_
    | (intro _)
    | split
    | with_reducible refine Apart.dev ?_ ?_

theorem execUfsCommandTimeout_apart {m : Field → Bool} {s0 s : State} {a1} (k_dev : m .dev = true) (k_upd : m .upd = true)
    (k_log : m .log = true) (k_sched : m .sched = true) (k_mem : m .mem = true) (k_port : m .port = true) (h : Apart m s0 s) :
    OutApart m s0 (execUfsCommandTimeout a1 s) := by
  unfold execUfsCommandTimeout
  try dsimp only
  repeat' first
    | with_reducible assumption
    | with_reducible apply State.at_apart
    | with_reducible apply logEvent_apart
    | with_reducible apply refuseForme_apart
    | with_reducible apply interruptUpdate_apart
    | with_reducible apply failRestore_apart
    | with_reducible refine OutApart.next ?_
    | with_reducible exact OutApart.refused
    | with_reducible refine Apart.foldl _ _ ?_ ?_
    | with_reducible refine Apart.ite ?_ ?_
    | with_reducible refine OutApart.ite ?_ ?_
    | (intro _)
    | split
    | with_reducible refine Apart.dev ?_ ?_

end Sys2Proof.Machine
end

