-- ==== Sys2Proof/Laws/ApartClock.lean ====
section
/-! SUPPORT. Frames of the operations of Machine/Clock.lean. -/

namespace Sys2Proof.Machine

theorem changeMode_apart {m : Field → Bool} {s0 s : State} {a1} (k_log : m .log = true) (k_mem : m .mem = true) (k_gov : m .gov
    = true) (h : Apart m s0 s) : Apart m s0 (changeMode a1 s) := by
  unfold changeMode
  try dsimp only
  repeat' first
    | with_reducible assumption
    | with_reducible apply logEvent_apart
    | with_reducible refine OutApart.next ?_
    | with_reducible exact OutApart.refused
    | with_reducible refine Apart.foldl _ _ ?_ ?_
    | with_reducible refine Apart.ite ?_ ?_
    | with_reducible refine OutApart.ite ?_ ?_
    | (intro _)
    | split
    | with_reducible refine Apart.mem ?_ ?_
    | with_reducible refine Apart.gov ?_ ?_
    | with_reducible apply Apart.record
    | with_reducible exact Or.inr rfl
    | with_reducible (refine Or.inl ?_)

theorem setK_apart {m : Field → Bool} {s0 s : State} {a1} (k_gov : m .gov = true) (h : Apart m s0 s) : Apart m s0 (setK a1 s) :=
    by
  unfold setK
  try dsimp only
  repeat' first
    | with_reducible assumption
    | with_reducible refine OutApart.next ?_
    | with_reducible exact OutApart.refused
    | with_reducible refine Apart.foldl _ _ ?_ ?_
    | with_reducible refine Apart.ite ?_ ?_
    | with_reducible refine OutApart.ite ?_ ?_
    | (intro _)
    | split
    | with_reducible refine Apart.gov ?_ ?_

theorem governorRow_apart {m : Field → Bool} {s0 s : State} {a1 a2 a3 a4} (k_log : m .log = true) (k_mem : m .mem = true) (k_gov
    : m .gov = true) (h : Apart m s0 s) : Apart m s0 (governorRow a1 a2 a3 a4 s) := by
  unfold governorRow
  try dsimp only
  repeat' first
    | with_reducible assumption
    | with_reducible apply changeMode_apart
    | with_reducible apply logEvent_apart
    | with_reducible apply setK_apart
    | with_reducible refine OutApart.next ?_
    | with_reducible exact OutApart.refused
    | with_reducible refine Apart.foldl _ _ ?_ ?_
    | with_reducible refine Apart.ite ?_ ?_
    | with_reducible refine OutApart.ite ?_ ?_
    | (intro _)
    | split

theorem governorLower_apart {m : Field → Bool} {s0 s : State} (k_log : m .log = true) (k_mem : m .mem = true) (k_gov : m .gov =
    true) (h : Apart m s0 s) : Apart m s0 (governorLower s) := by
  unfold governorLower
  try dsimp only
  repeat' first
    | with_reducible assumption
    | with_reducible apply changeMode_apart
    | with_reducible apply setK_apart
    | with_reducible refine OutApart.next ?_
    | with_reducible exact OutApart.refused
    | with_reducible refine Apart.foldl _ _ ?_ ?_
    | with_reducible refine Apart.ite ?_ ?_
    | with_reducible refine OutApart.ite ?_ ?_
    | (intro _)
    | split
    | with_reducible refine Apart.gov ?_ ?_

theorem governorClose_apart {m : Field → Bool} {s0 s : State} {a1} (k_gov : m .gov = true) (h : Apart m s0 s) : Apart m s0
    (governorClose a1 s) := by
  unfold governorClose
  try dsimp only
  repeat' first
    | with_reducible assumption
    | with_reducible refine OutApart.next ?_
    | with_reducible exact OutApart.refused
    | with_reducible refine Apart.foldl _ _ ?_ ?_
    | with_reducible refine Apart.ite ?_ ?_
    | with_reducible refine OutApart.ite ?_ ?_
    | (intro _)
    | split
    | with_reducible refine Apart.gov ?_ ?_

theorem governorBoundary_apart {m : Field → Bool} {s0 s : State} {a1 a2} (k_log : m .log = true) (k_mem : m .mem = true) (k_gov
    : m .gov = true) (h : Apart m s0 s) : Apart m s0 (governorBoundary a1 a2 s) := by
  unfold governorBoundary
  try dsimp only
  repeat' first
    | with_reducible assumption
    | with_reducible apply governorRow_apart
    | with_reducible apply governorLower_apart
    | with_reducible apply governorClose_apart
    | with_reducible refine OutApart.next ?_
    | with_reducible exact OutApart.refused
    | with_reducible refine Apart.foldl _ _ ?_ ?_
    | with_reducible refine Apart.ite ?_ ?_
    | with_reducible refine OutApart.ite ?_ ?_
    | (intro _)
    | split
    | with_reducible refine Apart.gov ?_ ?_

theorem adjustClock_apart {m : Field → Bool} {s0 s : State} {a1} (k_free : m .free = true) (k_tb : m .tb = true) (h : Apart m s0
    s) : Apart m s0 (adjustClock a1 s) := by
  unfold adjustClock
  try dsimp only
  repeat' first
    | with_reducible assumption
    | with_reducible refine OutApart.next ?_
    | with_reducible exact OutApart.refused
    | with_reducible refine Apart.foldl _ _ ?_ ?_
    | with_reducible refine Apart.ite ?_ ?_
    | with_reducible refine OutApart.ite ?_ ?_
    | (intro _)
    | split
    | with_reducible refine Apart.free ?_ ?_
    | with_reducible refine Apart.tb ?_ ?_
    | with_reducible apply Apart.record
    | with_reducible exact Or.inr rfl
    | with_reducible (refine Or.inl ?_)

theorem crossUp_apart {m : Field → Bool} {s0 s : State} {a1} (k_dev : m .dev = true) (k_upd : m .upd = true) (k_cue : m .cue =
    true) (k_log : m .log = true) (k_cur : m .cur = true) (k_sched : m .sched = true) (k_port : m .port = true) (k_gov : m .gov
    = true) (h : Apart m s0 s) : Apart m s0 (crossUp a1 s) := by
  unfold crossUp
  try dsimp only
  repeat' first
    | with_reducible assumption
    | with_reducible apply logEvent_apart
    | with_reducible apply deviceFault_apart
    | with_reducible refine OutApart.next ?_
    | with_reducible exact OutApart.refused
    | with_reducible refine Apart.foldl _ _ ?_ ?_
    | with_reducible refine Apart.ite ?_ ?_
    | with_reducible refine OutApart.ite ?_ ?_
    | (intro _)
    | split
    | with_reducible refine Apart.gov ?_ ?_

theorem execAvsCurrentRead_apart {m : Field → Bool} {s0 s : State} {a1 a2 a3} (k_gov : m .gov = true) (h : Apart m s0 s) :
    OutApart m s0 (execAvsCurrentRead a1 a2 a3 s) := by
  unfold execAvsCurrentRead
  try dsimp only
  repeat' first
    | with_reducible assumption
    | with_reducible apply State.at_apart
    | with_reducible refine OutApart.next ?_
    | with_reducible exact OutApart.refused
    | with_reducible refine Apart.foldl _ _ ?_ ?_
    | with_reducible refine Apart.ite ?_ ?_
    | with_reducible refine OutApart.ite ?_ ?_
    | (intro _)
    | split
    | with_reducible refine Apart.gov ?_ ?_

theorem execCoreCurrentLimit_apart {m : Field → Bool} {s0 s : State} {a1} (k_log : m .log = true) (k_gov : m .gov = true) (h :
    Apart m s0 s) : OutApart m s0 (execCoreCurrentLimit a1 s) := by
  unfold execCoreCurrentLimit
  try dsimp only
  repeat' first
    | with_reducible assumption
    | with_reducible apply State.at_apart
    | with_reducible apply logEvent_apart
    | with_reducible refine OutApart.next ?_
    | with_reducible exact OutApart.refused
    | with_reducible refine Apart.foldl _ _ ?_ ?_
    | with_reducible refine Apart.ite ?_ ?_
    | with_reducible refine OutApart.ite ?_ ?_
    | (intro _)
    | split
    | with_reducible refine Apart.gov ?_ ?_

theorem followMaster_apart {m : Field → Bool} {s0 s : State} {a1 a2 a3} (k_tb : m .tb = true) (h : Apart m s0 s) : Apart m s0
    (followMaster a1 a2 a3 s) := by
  unfold followMaster
  try dsimp only
  repeat' first
    | with_reducible assumption
    | with_reducible refine OutApart.next ?_
    | with_reducible exact OutApart.refused
    | with_reducible refine Apart.foldl _ _ ?_ ?_
    | with_reducible refine Apart.ite ?_ ?_
    | with_reducible refine OutApart.ite ?_ ?_
    | (intro _)
    | split
    | with_reducible refine Apart.tb ?_ ?_

theorem refreshAligned_apart {m : Field → Bool} {s0 s : State} (k_cue : m .cue = true) (h : Apart m s0 s) : Apart m s0
    (refreshAligned s) := by
  unfold refreshAligned
  try dsimp only
  repeat' first
    | with_reducible assumption
    | with_reducible refine OutApart.next ?_
    | with_reducible exact OutApart.refused
    | with_reducible refine Apart.foldl _ _ ?_ ?_
    | with_reducible refine Apart.ite ?_ ?_
    | with_reducible refine OutApart.ite ?_ ?_
    | (intro _)
    | split
    | with_reducible refine Apart.cue ?_ ?_

theorem losePtp_apart {m : Field → Bool} {s0 s : State} (k_tb : m .tb = true) (k_cue : m .cue = true) (k_log : m .log = true) (h
    : Apart m s0 s) : Apart m s0 (losePtp s) := by
  unfold losePtp
  try dsimp only
  repeat' first
    | with_reducible assumption
    | with_reducible apply refreshAligned_apart
    | with_reducible apply logEvent_apart
    | with_reducible refine OutApart.next ?_
    | with_reducible exact OutApart.refused
    | with_reducible refine Apart.foldl _ _ ?_ ?_
    | with_reducible refine Apart.ite ?_ ?_
    | with_reducible refine OutApart.ite ?_ ?_
    | (intro _)
    | split
    | with_reducible refine Apart.tb ?_ ?_

theorem ptpMeasured_apart {m : Field → Bool} {s0 s : State} {a1} (k_free : m .free = true) (k_tb : m .tb = true) (k_cue : m .cue
    = true) (k_log : m .log = true) (h : Apart m s0 s) : Apart m s0 (ptpMeasured a1 s) := by
  unfold ptpMeasured
  try dsimp only
  repeat' first
    | with_reducible assumption
    | with_reducible apply adjustClock_apart
    | with_reducible apply logEvent_apart
    | with_reducible apply losePtp_apart
    | with_reducible refine OutApart.next ?_
    | with_reducible exact OutApart.refused
    | with_reducible refine Apart.foldl _ _ ?_ ?_
    | with_reducible refine Apart.ite ?_ ?_
    | with_reducible refine OutApart.ite ?_ ?_
    | (intro _)
    | split
    | with_reducible refine Apart.tb ?_ ?_

theorem ptpMessage_apart {m : Field → Bool} {s0 s : State} {a1 a2 a3 a4} (k_free : m .free = true) (k_tb : m .tb = true) (k_cue
    : m .cue = true) (k_log : m .log = true) (h : Apart m s0 s) : Apart m s0 (ptpMessage a1 a2 a3 a4 s) := by
  unfold ptpMessage
  try dsimp only
  repeat' first
    | with_reducible assumption
    | with_reducible apply followMaster_apart
    | with_reducible apply ptpMeasured_apart
    | with_reducible refine OutApart.next ?_
    | with_reducible exact OutApart.refused
    | with_reducible refine Apart.foldl _ _ ?_ ?_
    | with_reducible refine Apart.ite ?_ ?_
    | with_reducible refine OutApart.ite ?_ ?_
    | (intro _)
    | split
    | with_reducible refine Apart.tb ?_ ?_

theorem execGovPowerSample_apart {m : Field → Bool} {s0 s : State} {a1 a2} (k_gov : m .gov = true) (h : Apart m s0 s) : OutApart
    m s0 (execGovPowerSample a1 a2 s) := by
  unfold execGovPowerSample
  try dsimp only
  repeat' first
    | with_reducible assumption
    | with_reducible apply State.at_apart
    | with_reducible refine OutApart.next ?_
    | with_reducible exact OutApart.refused
    | with_reducible refine Apart.foldl _ _ ?_ ?_
    | with_reducible refine Apart.ite ?_ ?_
    | with_reducible refine OutApart.ite ?_ ?_
    | (intro _)
    | split
    | with_reducible refine Apart.gov ?_ ?_

theorem execPeerDelayRequest_apart {m : Field → Bool} {s0 s : State} {a1 a2} (k_tb : m .tb = true) (h : Apart m s0 s) : OutApart
    m s0 (execPeerDelayRequest a1 a2 s) := by
  unfold execPeerDelayRequest
  try dsimp only
  repeat' first
    | with_reducible assumption
    | with_reducible apply State.at_apart
    | with_reducible refine OutApart.next ?_
    | with_reducible exact OutApart.refused
    | with_reducible refine Apart.foldl _ _ ?_ ?_
    | with_reducible refine Apart.ite ?_ ?_
    | with_reducible refine OutApart.ite ?_ ?_
    | (intro _)
    | split
    | with_reducible refine Apart.tb ?_ ?_

theorem execPpsEdge_apart {m : Field → Bool} {s0 s : State} {a1} (k_free : m .free = true) (k_tb : m .tb = true) (k_log : m .log
    = true) (h : Apart m s0 s) : OutApart m s0 (execPpsEdge a1 s) := by
  unfold execPpsEdge
  try dsimp only
  repeat' first
    | with_reducible assumption
    | with_reducible apply State.at_apart
    | with_reducible apply adjustClock_apart
    | with_reducible apply logEvent_apart
    | with_reducible refine OutApart.next ?_
    | with_reducible exact OutApart.refused
    | with_reducible refine Apart.foldl _ _ ?_ ?_
    | with_reducible refine Apart.ite ?_ ?_
    | with_reducible refine OutApart.ite ?_ ?_
    | (intro _)
    | split
    | with_reducible refine Apart.tb ?_ ?_

theorem losePps_apart {m : Field → Bool} {s0 s : State} (k_tb : m .tb = true) (k_cue : m .cue = true) (k_log : m .log = true) (h
    : Apart m s0 s) : Apart m s0 (losePps s) := by
  unfold losePps
  try dsimp only
  repeat' first
    | with_reducible assumption
    | with_reducible apply refreshAligned_apart
    | with_reducible apply logEvent_apart
    | with_reducible refine OutApart.next ?_
    | with_reducible exact OutApart.refused
    | with_reducible refine Apart.foldl _ _ ?_ ?_
    | with_reducible refine Apart.ite ?_ ?_
    | with_reducible refine OutApart.ite ?_ ?_
    | (intro _)
    | split
    | with_reducible refine Apart.tb ?_ ?_

theorem execPpsTimeout_apart {m : Field → Bool} {s0 s : State} {a1} (k_tb : m .tb = true) (k_cue : m .cue = true) (k_log : m
    .log = true) (h : Apart m s0 s) : OutApart m s0 (execPpsTimeout a1 s) := by
  unfold execPpsTimeout
  try dsimp only
  repeat' first
    | with_reducible assumption
    | with_reducible apply State.at_apart
    | with_reducible apply losePps_apart
    | with_reducible refine OutApart.next ?_
    | with_reducible exact OutApart.refused
    | with_reducible refine Apart.foldl _ _ ?_ ?_
    | with_reducible refine Apart.ite ?_ ?_
    | with_reducible refine OutApart.ite ?_ ?_
    | (intro _)
    | split

theorem execPtpSyncTimeout_apart {m : Field → Bool} {s0 s : State} {a1} (k_tb : m .tb = true) (k_cue : m .cue = true) (k_log : m
    .log = true) (h : Apart m s0 s) : OutApart m s0 (execPtpSyncTimeout a1 s) := by
  unfold execPtpSyncTimeout
  try dsimp only
  repeat' first
    | with_reducible assumption
    | with_reducible apply State.at_apart
    | with_reducible apply losePtp_apart
    | with_reducible refine OutApart.next ?_
    | with_reducible exact OutApart.refused
    | with_reducible refine Apart.foldl _ _ ?_ ?_
    | with_reducible refine Apart.ite ?_ ?_
    | with_reducible refine OutApart.ite ?_ ?_
    | (intro _)
    | split
    | with_reducible refine Apart.tb ?_ ?_

theorem execRegulatorTick_apart {m : Field → Bool} {s0 s : State} {a1} (k_part : m .part = true) (k_mem : m .mem = true) (h :
    Apart m s0 s) : OutApart m s0 (execRegulatorTick a1 s) := by
  unfold execRegulatorTick
  try dsimp only
  repeat' first
    | with_reducible assumption
    | with_reducible apply State.at_apart
    | with_reducible apply passPart_apart
    | with_reducible refine OutApart.next ?_
    | with_reducible exact OutApart.refused
    | with_reducible refine Apart.foldl _ _ ?_ ?_
    | with_reducible refine Apart.ite ?_ ?_
    | with_reducible refine OutApart.ite ?_ ?_
    | (intro _)
    | split
    | with_reducible refine Apart.part ?_ ?_

theorem execStackRetrainDone_apart {m : Field → Bool} {s0 s : State} {a1 a2} (k_mem : m .mem = true) (k_press : m .press = true)
    (h : Apart m s0 s) : OutApart m s0 (execStackRetrainDone a1 a2 s) := by
  unfold execStackRetrainDone
  try dsimp only
  repeat' first
    | with_reducible assumption
    | with_reducible apply State.at_apart
    | with_reducible refine OutApart.next ?_
    | with_reducible exact OutApart.refused
    | with_reducible refine Apart.foldl _ _ ?_ ?_
    | with_reducible refine Apart.ite ?_ ?_
    | with_reducible refine OutApart.ite ?_ ?_
    | (intro _)
    | split
    | with_reducible refine Apart.mem ?_ ?_
    | with_reducible refine Apart.press ?_ ?_
    | with_reducible apply Apart.record
    | with_reducible exact Or.inr rfl
    | with_reducible (refine Or.inl ?_)

theorem execThermalSample_apart {m : Field → Bool} {s0 s : State} {a1 a2} (k_dev : m .dev = true) (k_upd : m .upd = true) (k_cue
    : m .cue = true) (k_log : m .log = true) (k_cur : m .cur = true) (k_sched : m .sched = true) (k_port : m .port = true)
    (k_gov : m .gov = true) (h : Apart m s0 s) : OutApart m s0 (execThermalSample a1 a2 s) := by
  unfold execThermalSample
  try dsimp only
  repeat' first
    | with_reducible assumption
    | with_reducible apply State.at_apart
    | with_reducible apply crossUp_apart
    | with_reducible refine OutApart.next ?_
    | with_reducible exact OutApart.refused
    | with_reducible refine Apart.foldl _ _ ?_ ?_
    | with_reducible refine Apart.ite ?_ ?_
    | with_reducible refine OutApart.ite ?_ ?_
    | (intro _)
    | split
    | with_reducible refine Apart.gov ?_ ?_

end Sys2Proof.Machine
end

