-- ==== Sys2Proof/Laws/ApartVecUnit.lean ====
section
/-! SUPPORT. Frames of the operations of Machine/VecUnit.lean. -/

namespace Sys2Proof.Machine

theorem Paged.note_apart {m : Field → Bool} {s0 s : State} {a1} (k_sched : m .sched = true) (k_cog : m .cog = true) (h : Apart m
    s0 s) : Apart m s0 (Paged.note a1 s) := by
  unfold Paged.note
  try dsimp only
  repeat' first
    | with_reducible assumption
    | with_reducible apply State.modInst_apart
    | with_reducible refine OutApart.next ?_
    | with_reducible exact OutApart.refused
    | with_reducible refine Apart.foldl _ _ ?_ ?_
    | with_reducible refine Apart.ite ?_ ?_
    | with_reducible refine OutApart.ite ?_ ?_
    | (intro _)
    | split
    | with_reducible refine Apart.cog ?_ ?_

theorem Paged.write_apart {m : Field → Bool} {s0 s : State} {a1 a2 a3} (k_sched : m .sched = true) (k_cog : m .cog = true)
    (k_mem : m .mem = true) (h : Apart m s0 s) : Apart m s0 (Paged.write a1 a2 a3 s) := by
  unfold Paged.write
  try dsimp only
  repeat' first
    | with_reducible assumption
    | with_reducible apply playWrite_apart
    | with_reducible apply Paged.note_apart
    | with_reducible refine OutApart.next ?_
    | with_reducible exact OutApart.refused
    | with_reducible refine Apart.foldl _ _ ?_ ?_
    | with_reducible refine Apart.ite ?_ ?_
    | with_reducible refine OutApart.ite ?_ ?_
    | (intro _)
    | split

theorem writeResults_apart {m : Field → Bool} {s0 s : State} {a1 : Fin 16} {a2 : Nat} {a3 : List VArr} (k_mem : m .mem = true) (k_press : m .press = true)
    (h : Apart m s0 s) : Apart m s0 (writeResults a1 a2 a3 s) := by
  induction a3 generalizing a2 s with
  | nil => exact h
  | cons r rs ih => exact ih (State.modPress_apart k_press (devWrite_apart k_mem h))

theorem writeMicro_apart {m : Field → Bool} {s0 s : State} {a1 a2 a3 a4 a5 a6} (k_part : m .part = true) (k_mem : m .mem = true)
    (k_press : m .press = true) (h : Apart m s0 s) : Apart m s0 (writeMicro a1 a2 a3 a4 a5 a6 s) := by
  unfold writeMicro
  try dsimp only
  repeat' first
    | with_reducible assumption
    | with_reducible apply askBlocks_apart
    | with_reducible apply writeResults_apart
    | with_reducible apply State.modPress_apart
    | with_reducible apply meetBarrier_apart
    | with_reducible apply pumpAll_apart
    | with_reducible refine OutApart.next ?_
    | with_reducible exact OutApart.refused
    | with_reducible refine Apart.foldl _ _ ?_ ?_
    | with_reducible refine Apart.ite ?_ ?_
    | with_reducible refine OutApart.ite ?_ ?_
    | (intro _)
    | split

theorem memOperands_apart {m : Field → Bool} {s0 s : State} {a1 a2 a3 a4 a5} (k_dev : m .dev = true) (k_upd : m .upd = true) (k_cue : m .cue = true) (k_log : m .log = true) (k_units : m .units = true) (k_cur : m .cur = true) (k_sched : m .sched = true) (k_cog : m .cog = true) (k_part : m .part = true) (k_accts : m .accts = true) (k_mem : m .mem = true) (k_press : m .press = true) (k_port : m .port = true) (k_gov : m .gov = true) (h : Apart m s0 s) :
    ∀ t, memOperands a1 a2 a3 a4 a5 s = some t → Apart m s0 t := by
  intro t e
  unfold memOperands at e
  dsimp only at e
  split at e
  · cases e; exact (waitHand_apart k_press h)
  · split at e <;> cases e
    · exact (translationFault_apart k_dev k_upd k_cue k_log k_units k_cur k_sched k_cog k_part k_accts k_mem k_press k_port k_gov h)
    · exact (demandMiss_apart k_part k_mem k_press h)
    · exact (poisonRead_apart k_cue k_log k_units k_cur k_sched k_cog k_part k_accts k_mem k_press k_port k_gov h)

theorem poolWait_apart {m : Field → Bool} {s0 s : State} {a1 a2 a3 a4 a5 a6} (k_dev : m .dev = true) (k_upd : m .upd = true) (k_cue : m .cue = true) (k_log : m .log = true) (k_units : m .units = true) (k_cur : m .cur = true) (k_sched : m .sched = true) (k_cog : m .cog = true) (k_part : m .part = true) (k_accts : m .accts = true) (k_mem : m .mem = true) (k_press : m .press = true) (k_port : m .port = true) (k_gov : m .gov = true) (h : Apart m s0 s) :
    ∀ t, poolWait a1 a2 a3 a4 a5 a6 s = some t → Apart m s0 t := by
  intro t e
  unfold poolWait at e
  dsimp only at e
  split at e
  · cases e; exact (waitHand_apart k_press h)
  · split at e
    · cases e; exact (translationFault_apart k_dev k_upd k_cue k_log k_units k_cur k_sched k_cog k_part k_accts k_mem k_press k_port k_gov h)
    · cases e; exact (translationFault_apart k_dev k_upd k_cue k_log k_units k_cur k_sched k_cog k_part k_accts k_mem k_press k_port k_gov h)
    · split at e
      · cases e; exact (demandMiss_apart k_part k_mem k_press h)
      · split at e
        · cases e; exact (poisonRead_apart k_cue k_log k_units k_cur k_sched k_cog k_part k_accts k_mem k_press k_port k_gov h)
        · split at e <;> cases e
          exact (waitHand_apart k_press h)

/-- The state a micro-operation's results stand in. -/
theorem vecRun_apart {m : Field → Bool} {s0 s : State} {a1 a2 a3} (k_sched : m .sched = true) (k_cog : m .cog = true) (k_mem : m .mem = true) (h : Apart m s0 s) :
    ∀ r, vecRun a1 a2 a3 s = some r → Apart m s0 r.2 := by
  intro r e
  unfold vecRun at e
  split at e
  · split at e
    · split at e <;> cases e
      exact h
    · split at e
      · cases e
      · cases e; exact (Paged.write_apart k_sched k_cog k_mem h)
  · obtain ⟨_, _, rfl⟩ := Option.map_eq_some_iff.1 e; exact h

theorem runMicro_apart {m : Field → Bool} {s0 s : State} {a1 a2 a3 a4 a5} (k_free : m .free = true) (k_dev : m .dev = true) (k_upd : m .upd = true) (k_cue : m .cue = true) (k_log : m .log = true) (k_units : m .units = true) (k_cur : m .cur = true) (k_sched : m .sched = true) (k_cog : m .cog = true) (k_part : m .part = true) (k_accts : m .accts = true) (k_mem : m .mem = true) (k_press : m .press = true) (k_port : m .port = true) (k_gov : m .gov = true) (h : Apart m s0 s) :
    Apart m s0 (runMicro a1 a2 a3 a4 a5 s) := by
  unfold runMicro
  split
  · exact h
  · generalize e : vecRun a4 a3 (a3.srcs.map (s.vecSrc a1 a4.key.play)) s = r
    match r, e with
    | none, _ => exact (illegalOp_apart k_dev k_upd k_cue k_log k_units k_cur k_sched k_cog k_part k_accts k_mem k_press k_port k_gov (Apart.free k_free h))
    | some _, e => exact (writeMicro_apart k_part k_mem k_press (vecRun_apart k_sched k_cog k_mem h _ e))

theorem execVectorMicroOperation_apart {m : Field → Bool} {s0 s : State} {a1 a2 a3 a4 a5} (k_free : m .free = true) (k_dev : m .dev = true) (k_upd : m .upd = true) (k_cue : m .cue = true) (k_log : m .log = true) (k_units : m .units = true) (k_cur : m .cur = true) (k_cls : m .cls = true) (k_sched : m .sched = true) (k_cog : m .cog = true) (k_part : m .part = true) (k_accts : m .accts = true) (k_mem : m .mem = true) (k_press : m .press = true) (k_port : m .port = true) (k_gov : m .gov = true) (h : Apart m s0 s) :
    OutApart m s0 (execVectorMicroOperation a1 a2 a3 a4 a5 s) := by
  unfold execVectorMicroOperation
  extract_lets u
  have hu : Apart m s0 u := (State.at_apart  h)
  split
  · exact hu
  · next i _ =>
    have hu : Apart m s0 (tagErrs a2 (a5.filterMap ReadErr.tag) u) := (tagErrs_apart k_mem hu)
    dsimp only
    split
    · exact (waitHand_apart k_press hu)
    · generalize e : Option.or _ _ = r
      match r, e with
      | some t, e =>
        rcases Option.or_eq_some_iff.1 e with e | ⟨_, e⟩
        · exact (memOperands_apart k_dev k_upd k_cue k_log k_units k_cur k_sched k_cog k_part k_accts k_mem k_press k_port k_gov hu _ e)
        · exact (poolWait_apart k_dev k_upd k_cue k_log k_units k_cur k_sched k_cog k_part k_accts k_mem k_press k_port k_gov hu _ e)
      | none, _ => exact (runMicro_apart k_free k_dev k_upd k_cue k_log k_units k_cur k_sched k_cog k_part k_accts k_mem k_press k_port k_gov (memErrs_apart k_cue k_log k_units k_cur k_cls k_sched k_cog k_part k_accts k_mem k_press k_port k_gov (Apart.foldl _ _ hu fun _ _ k => (demandHit_apart k_mem k))))

end Sys2Proof.Machine
end

