-- ==== Sys2Proof/Laws/ApartUnits.lean ====
section
/-! SUPPORT. Frames of the operations of Machine/Units.lean. -/

namespace Sys2Proof.Machine

theorem failUnit_apart {m : Field → Bool} {s0 s : State} {a1 a2} (k_dev : m .dev = true) (k_upd : m .upd = true) (k_cue : m .cue
    = true) (k_log : m .log = true) (k_units : m .units = true) (k_cur : m .cur = true) (k_cls : m .cls = true) (k_sched : m
    .sched = true) (k_part : m .part = true) (k_accts : m .accts = true) (k_mem : m .mem = true) (k_press : m .press = true)
    (k_port : m .port = true) (k_gov : m .gov = true) (h : Apart m s0 s) : Apart m s0 (failUnit a1 a2 s) := by
  unfold failUnit
  try dsimp only
  repeat' first
    | with_reducible assumption
    | with_reducible apply strike_apart
    | with_reducible apply deviceFault_apart
    | with_reducible refine OutApart.next ?_
    | with_reducible exact OutApart.refused
    | with_reducible refine Apart.foldl _ _ ?_ ?_
    | with_reducible refine Apart.ite ?_ ?_
    | with_reducible refine OutApart.ite ?_ ?_
    | (intro _)
    | split

theorem modPortStreams_apart {m : Field → Bool} {s0 s : State} {a1 a2} (k_ing : m .ing = true) (h : Apart m s0 s) : Apart m s0
    (modPortStreams a1 a2 s) := by
  unfold modPortStreams
  try dsimp only
  repeat' first
    | with_reducible assumption
    | with_reducible refine OutApart.next ?_
    | with_reducible exact OutApart.refused
    | with_reducible refine Apart.foldl _ _ ?_ ?_
    | with_reducible refine Apart.ite ?_ ?_
    | with_reducible refine OutApart.ite ?_ ?_
    | (intro _)
    | split
    | with_reducible refine Apart.ing ?_ ?_

theorem beginThird_apart {m : Field → Bool} {s0 s : State} {a1} (k_ing : m .ing = true) (h : Apart m s0 s) : Apart m s0
    (beginThird a1 s) := by
  unfold beginThird
  try dsimp only
  repeat' first
    | with_reducible assumption
    | with_reducible apply modPortStreams_apart
    | with_reducible refine OutApart.next ?_
    | with_reducible exact OutApart.refused
    | with_reducible refine Apart.foldl _ _ ?_ ?_
    | with_reducible refine Apart.ite ?_ ?_
    | with_reducible refine OutApart.ite ?_ ?_
    | (intro _)
    | split

theorem execPortRerigSampleTimeout_apart {m : Field → Bool} {s0 s : State} {a1 a2} (k_log : m .log = true) (k_units : m .units =
    true) (k_sched : m .sched = true) (h : Apart m s0 s) : OutApart m s0 (execPortRerigSampleTimeout a1 a2 s) := by
  unfold execPortRerigSampleTimeout
  try dsimp only
  repeat' first
    | with_reducible assumption
    | with_reducible apply State.at_apart
    | with_reducible apply failAttempt_apart
    | with_reducible refine OutApart.next ?_
    | with_reducible exact OutApart.refused
    | with_reducible refine Apart.foldl _ _ ?_ ?_
    | with_reducible refine Apart.ite ?_ ?_
    | with_reducible refine OutApart.ite ?_ ?_
    | (intro _)
    | split

theorem rehearsed_apart {m : Field → Bool} {s0 s : State} {a1} (k_units : m .units = true) (h : Apart m s0 s) : Apart m s0
    (rehearsed a1 s) := by
  unfold rehearsed
  try dsimp only
  repeat' first
    | with_reducible assumption
    | with_reducible apply State.modUnit_apart
    | with_reducible refine OutApart.next ?_
    | with_reducible exact OutApart.refused
    | with_reducible refine Apart.foldl _ _ ?_ ?_
    | with_reducible refine Apart.ite ?_ ?_
    | with_reducible refine OutApart.ite ?_ ?_
    | (intro _)
    | split

theorem passCheck_apart {m : Field → Bool} {s0 s : State} {a1} (k_log : m .log = true) (k_units : m .units = true) (k_ing : m
    .ing = true) (h : Apart m s0 s) : Apart m s0 (passCheck a1 s) := by
  unfold passCheck
  try dsimp only
  repeat' first
    | with_reducible assumption
    | with_reducible apply rehearsed_apart
    | with_reducible apply State.modUnit_apart
    | with_reducible apply beginThird_apart
    | with_reducible apply logEvent_apart
    | with_reducible refine OutApart.next ?_
    | with_reducible exact OutApart.refused
    | with_reducible refine Apart.foldl _ _ ?_ ?_
    | with_reducible refine Apart.ite ?_ ?_
    | with_reducible refine OutApart.ite ?_ ?_
    | (intro _)
    | split

theorem execReRigAttempt_apart {m : Field → Bool} {s0 s : State} {a1 a2} (k_log : m .log = true) (k_units : m .units = true) (h
    : Apart m s0 s) : OutApart m s0 (execReRigAttempt a1 a2 s) := by
  unfold execReRigAttempt
  try dsimp only
  repeat' first
    | with_reducible assumption
    | with_reducible apply State.at_apart
    | with_reducible apply logEvent_apart
    | with_reducible apply State.modUnit_apart
    | with_reducible refine OutApart.next ?_
    | with_reducible exact OutApart.refused
    | with_reducible refine Apart.foldl _ _ ?_ ?_
    | with_reducible refine Apart.ite ?_ ?_
    | with_reducible refine OutApart.ite ?_ ?_
    | (intro _)
    | split

theorem execReRigCheckResult_apart {m : Field → Bool} {s0 s : State} {a1 a2 a3 a4} (k_log : m .log = true) (k_units : m .units =
    true) (k_sched : m .sched = true) (k_ing : m .ing = true) (h : Apart m s0 s) : OutApart m s0 (execReRigCheckResult a1 a2 a3
    a4 s) := by
  unfold execReRigCheckResult
  try dsimp only
  repeat' first
    | with_reducible assumption
    | with_reducible apply State.at_apart
    | with_reducible apply passCheck_apart
    | with_reducible apply failAttempt_apart
    | with_reducible refine OutApart.next ?_
    | with_reducible exact OutApart.refused
    | with_reducible refine Apart.foldl _ _ ?_ ?_
    | with_reducible refine Apart.ite ?_ ?_
    | with_reducible refine OutApart.ite ?_ ?_
    | (intro _)
    | split

theorem resetGroup_apart {m : Field → Bool} {s0 s : State} {a1} (k_units : m .units = true) (k_mem : m .mem = true) (k_press : m
    .press = true) (k_ing : m .ing = true) (h : Apart m s0 s) : Apart m s0 (resetGroup a1 s) := by
  unfold resetGroup
  try dsimp only
  repeat' first
    | with_reducible assumption
    | with_reducible apply State.modUnit_apart
    | with_reducible apply State.modPress_apart
    | with_reducible apply modPortStreams_apart
    | with_reducible refine OutApart.next ?_
    | with_reducible exact OutApart.refused
    | with_reducible refine Apart.foldl _ _ ?_ ?_
    | with_reducible refine Apart.ite ?_ ?_
    | with_reducible refine OutApart.ite ?_ ?_
    | (intro _)
    | split
    | with_reducible refine Apart.mem ?_ ?_

theorem execReRigWaitExpiry_apart {m : Field → Bool} {s0 s : State} {a1 a2} (k_units : m .units = true) (k_mem : m .mem = true)
    (k_press : m .press = true) (k_ing : m .ing = true) (h : Apart m s0 s) : OutApart m s0 (execReRigWaitExpiry a1 a2 s) := by
  unfold execReRigWaitExpiry
  try dsimp only
  repeat' first
    | with_reducible assumption
    | with_reducible apply State.at_apart
    | with_reducible apply resetGroup_apart
    | with_reducible refine OutApart.next ?_
    | with_reducible exact OutApart.refused
    | with_reducible refine Apart.foldl _ _ ?_ ?_
    | with_reducible refine Apart.ite ?_ ?_
    | with_reducible refine OutApart.ite ?_ ?_
    | (intro _)
    | split

theorem sliceOkay_apart {m : Field → Bool} {s0 s : State} {a1 a2 a3} (k_log : m .log = true) (k_units : m .units = true)
    (k_sched : m .sched = true) (k_ing : m .ing = true) (h : Apart m s0 s) : Apart m s0 (sliceOkay a1 a2 a3 s) := by
  unfold sliceOkay
  try dsimp only
  repeat' first
    | with_reducible assumption
    | with_reducible apply setProgress_apart
    | with_reducible apply passCheck_apart
    | with_reducible apply rehearsed_apart
    | with_reducible refine OutApart.next ?_
    | with_reducible exact OutApart.refused
    | with_reducible refine Apart.foldl _ _ ?_ ?_
    | with_reducible refine Apart.ite ?_ ?_
    | with_reducible refine OutApart.ite ?_ ?_
    | (intro _)
    | split
    | with_reducible refine Apart.sched ?_ ?_

theorem sliceFailed_apart {m : Field → Bool} {s0 s : State} {a1 a2} (k_dev : m .dev = true) (k_upd : m .upd = true) (k_cue : m
    .cue = true) (k_log : m .log = true) (k_units : m .units = true) (k_cur : m .cur = true) (k_cls : m .cls = true) (k_sched :
    m .sched = true) (k_part : m .part = true) (k_accts : m .accts = true) (k_mem : m .mem = true) (k_press : m .press = true)
    (k_port : m .port = true) (k_gov : m .gov = true) (h : Apart m s0 s) : Apart m s0 (sliceFailed a1 a2 s) := by
  unfold sliceFailed
  try dsimp only
  repeat' first
    | with_reducible assumption
    | with_reducible apply setProgress_apart
    | with_reducible apply failAttempt_apart
    | with_reducible apply strike_apart
    | with_reducible apply logEvent_apart
    | with_reducible apply failUnit_apart
    | with_reducible refine OutApart.next ?_
    | with_reducible exact OutApart.refused
    | with_reducible refine Apart.foldl _ _ ?_ ?_
    | with_reducible refine Apart.ite ?_ ?_
    | with_reducible refine OutApart.ite ?_ ?_
    | (intro _)
    | split

theorem execRehearsalSliceEnd_apart {m : Field → Bool} {s0 s : State} {a1 a2 a3 a4 a5} (k_dev : m .dev = true) (k_upd : m .upd =
    true) (k_cue : m .cue = true) (k_log : m .log = true) (k_units : m .units = true) (k_cur : m .cur = true) (k_cls : m .cls =
    true) (k_sched : m .sched = true) (k_part : m .part = true) (k_accts : m .accts = true) (k_mem : m .mem = true) (k_press : m
    .press = true) (k_ing : m .ing = true) (k_port : m .port = true) (k_gov : m .gov = true) (h : Apart m s0 s) : OutApart m s0
    (execRehearsalSliceEnd a1 a2 a3 a4 a5 s) := by
  unfold execRehearsalSliceEnd
  try dsimp only
  repeat' first
    | with_reducible assumption
    | with_reducible apply State.at_apart
    | with_reducible apply sliceOkay_apart
    | with_reducible apply sliceFailed_apart
    | with_reducible refine OutApart.next ?_
    | with_reducible exact OutApart.refused
    | with_reducible refine Apart.foldl _ _ ?_ ?_
    | with_reducible refine Apart.ite ?_ ?_
    | with_reducible refine OutApart.ite ?_ ?_
    | (intro _)
    | split
    | with_reducible refine Apart.sched ?_ ?_

theorem execRehearsalSuspendRequest_apart {m : Field → Bool} {s0 s : State} {a1 a2} (k_sched : m .sched = true) (h : Apart m s0
    s) : OutApart m s0 (execRehearsalSuspendRequest a1 a2 s) := by
  unfold execRehearsalSuspendRequest
  try dsimp only
  repeat' first
    | with_reducible assumption
    | with_reducible apply State.at_apart
    | with_reducible refine OutApart.next ?_
    | with_reducible exact OutApart.refused
    | with_reducible refine Apart.foldl _ _ ?_ ?_
    | with_reducible refine Apart.ite ?_ ?_
    | with_reducible refine OutApart.ite ?_ ?_
    | (intro _)
    | split
    | with_reducible refine Apart.sched ?_ ?_

theorem execUnitGroupReset_apart {m : Field → Bool} {s0 s : State} {a1 a2} (k_units : m .units = true) (k_mem : m .mem = true)
    (k_press : m .press = true) (k_ing : m .ing = true) (h : Apart m s0 s) : OutApart m s0 (execUnitGroupReset a1 a2 s) := by
  unfold execUnitGroupReset
  try dsimp only
  repeat' first
    | with_reducible assumption
    | with_reducible apply State.at_apart
    | with_reducible apply resetGroup_apart
    | with_reducible refine OutApart.next ?_
    | with_reducible exact OutApart.refused
    | with_reducible refine Apart.foldl _ _ ?_ ?_
    | with_reducible refine Apart.ite ?_ ?_
    | with_reducible refine OutApart.ite ?_ ?_
    | (intro _)
    | split

end Sys2Proof.Machine
end

