-- ==== Sys2Proof/Laws/ApartMemory.lean ====
section
/-! SUPPORT. Frames of the operations of Machine/Memory.lean. -/

namespace Sys2Proof.Machine

theorem mapRestored_apart {m : Field → Bool} {s0 s : State} {a1 a2 a3 a4 a5} (k_log : m .log = true) (k_mem : m .mem = true) (h
    : Apart m s0 s) : Apart m s0 (mapRestored a1 a2 a3 a4 a5 s) := by
  unfold mapRestored
  try dsimp only
  repeat' first
    | with_reducible assumption
    | with_reducible apply devWrite_apart
    | with_reducible apply startDrop_apart
    | with_reducible apply setPte_apart
    | with_reducible apply logEvent_apart
    | with_reducible apply countRestored_apart
    | with_reducible refine OutApart.next ?_
    | with_reducible exact OutApart.refused
    | with_reducible refine Apart.foldl _ _ ?_ ?_
    | with_reducible refine Apart.ite ?_ ?_
    | with_reducible refine OutApart.ite ?_ ?_
    | (intro _)
    | split
    | with_reducible refine Apart.mem ?_ ?_

theorem judgeRestored_apart {m : Field → Bool} {s0 s : State} {a1 a2 a3 a4 a5 a6} (k_log : m .log = true) (k_sched : m .sched =
    true) (k_mem : m .mem = true) (h : Apart m s0 s) : Apart m s0 (judgeRestored a1 a2 a3 a4 a5 a6 s) := by
  unfold judgeRestored
  try dsimp only
  repeat' first
    | with_reducible assumption
    | with_reducible apply mapRestored_apart
    | with_reducible apply failRestore_apart
    | with_reducible refine OutApart.next ?_
    | with_reducible exact OutApart.refused
    | with_reducible refine Apart.foldl _ _ ?_ ?_
    | with_reducible refine Apart.ite ?_ ?_
    | with_reducible refine OutApart.ite ?_ ?_
    | (intro _)
    | split

theorem execConstantRestoreDone_apart {m : Field → Bool} {s0 s : State} {a1} (k_log : m .log = true) (k_sched : m .sched = true)
    (k_mem : m .mem = true) (h : Apart m s0 s) : OutApart m s0 (execConstantRestoreDone a1 s) := by
  unfold execConstantRestoreDone
  try dsimp only
  repeat' first
    | with_reducible assumption
    | with_reducible apply State.at_apart
    | with_reducible apply failRestore_apart
    | with_reducible apply judgeRestored_apart
    | with_reducible refine OutApart.next ?_
    | with_reducible exact OutApart.refused
    | with_reducible refine Apart.foldl _ _ ?_ ?_
    | with_reducible refine Apart.ite ?_ ?_
    | with_reducible refine OutApart.ite ?_ ?_
    | (intro _)
    | split

theorem execEccWriteBack_apart {m : Field → Bool} {s0 s : State} {a1 a2} (k_mem : m .mem = true) (h : Apart m s0 s) : OutApart m
    s0 (execEccWriteBack a1 a2 s) := by
  unfold execEccWriteBack
  try dsimp only
  repeat' first
    | with_reducible assumption
    | with_reducible apply State.at_apart
    | with_reducible refine OutApart.next ?_
    | with_reducible exact OutApart.refused
    | with_reducible refine Apart.foldl _ _ ?_ ?_
    | with_reducible refine Apart.ite ?_ ?_
    | with_reducible refine OutApart.ite ?_ ?_
    | (intro _)
    | split
    | with_reducible refine Apart.mem ?_ ?_

theorem putHop_apart {m : Field → Bool} {s0 s : State} {a1} (k_mem : m .mem = true) (h : Apart m s0 s) : Apart m s0 (putHop a1
    s) := by
  unfold putHop
  try dsimp only
  repeat' first
    | with_reducible assumption
    | with_reducible refine OutApart.next ?_
    | with_reducible exact OutApart.refused
    | with_reducible refine Apart.foldl _ _ ?_ ?_
    | with_reducible refine Apart.ite ?_ ?_
    | with_reducible refine OutApart.ite ?_ ?_
    | (intro _)
    | split
    | with_reducible refine Apart.mem ?_ ?_

theorem resend_apart {m : Field → Bool} {s0 s : State} {a1 a2 a3} (k_log : m .log = true) (k_mem : m .mem = true) (h : Apart m
    s0 s) : Apart m s0 (resend a1 a2 a3 s) := by
  unfold resend
  try dsimp only
  repeat' first
    | with_reducible assumption
    | with_reducible apply putHop_apart
    | with_reducible apply logOnce_apart
    | with_reducible apply countResent_apart
    | with_reducible refine OutApart.next ?_
    | with_reducible exact OutApart.refused
    | with_reducible refine Apart.foldl _ _ ?_ ?_
    | with_reducible refine Apart.ite ?_ ?_
    | with_reducible refine OutApart.ite ?_ ?_
    | (intro _)
    | split

theorem markSuspect_apart {m : Field → Bool} {s0 s : State} {a1} (k_units : m .units = true) (h : Apart m s0 s) : Apart m s0
    (markSuspect a1 s) := by
  unfold markSuspect
  try dsimp only
  repeat' first
    | with_reducible assumption
    | with_reducible apply suspectUnit_apart
    | with_reducible refine OutApart.next ?_
    | with_reducible exact OutApart.refused
    | with_reducible refine Apart.foldl _ _ ?_ ?_
    | with_reducible refine Apart.ite ?_ ?_
    | with_reducible refine OutApart.ite ?_ ?_
    | (intro _)
    | split

theorem loseBlock_apart {m : Field → Bool} {s0 s : State} {a1 a2} (k_cue : m .cue = true) (k_log : m .log = true) (k_units : m
    .units = true) (k_cur : m .cur = true) (k_sched : m .sched = true) (k_part : m .part = true) (k_accts : m .accts = true)
    (k_mem : m .mem = true) (k_press : m .press = true) (k_port : m .port = true) (k_gov : m .gov = true) (h : Apart m s0 s) :
    Apart m s0 (loseBlock a1 a2 s) := by
  unfold loseBlock
  try dsimp only
  repeat' first
    | with_reducible assumption
    | with_reducible apply detect_apart
    | with_reducible apply killElsewhere_apart
    | with_reducible apply markSuspect_apart
    | with_reducible refine OutApart.next ?_
    | with_reducible exact OutApart.refused
    | with_reducible refine Apart.foldl _ _ ?_ ?_
    | with_reducible refine Apart.ite ?_ ?_
    | with_reducible refine OutApart.ite ?_ ?_
    | (intro _)
    | split

theorem faultEnd_apart {m : Field → Bool} {s0 s : State} {a1} (k_dev : m .dev = true) (k_upd : m .upd = true) (k_cue : m .cue =
    true) (k_log : m .log = true) (k_cur : m .cur = true) (k_sched : m .sched = true) (k_port : m .port = true) (h : Apart m s0
    s) : Apart m s0 (faultEnd a1 s) := by
  unfold faultEnd
  try dsimp only
  repeat' first
    | with_reducible assumption
    | with_reducible apply deviceFault_apart
    | with_reducible refine OutApart.next ?_
    | with_reducible exact OutApart.refused
    | with_reducible refine Apart.foldl _ _ ?_ ?_
    | with_reducible refine Apart.ite ?_ ?_
    | with_reducible refine OutApart.ite ?_ ?_
    | (intro _)
    | split

theorem strikeEnd_apart {m : Field → Bool} {s0 s : State} {a1} (k_dev : m .dev = true) (k_upd : m .upd = true) (k_cue : m .cue =
    true) (k_log : m .log = true) (k_units : m .units = true) (k_cur : m .cur = true) (k_cls : m .cls = true) (k_sched : m
    .sched = true) (k_part : m .part = true) (k_accts : m .accts = true) (k_mem : m .mem = true) (k_press : m .press = true)
    (k_port : m .port = true) (k_gov : m .gov = true) (h : Apart m s0 s) : Apart m s0 (strikeEnd a1 s) := by
  unfold strikeEnd
  try dsimp only
  repeat' first
    | with_reducible assumption
    | with_reducible apply failUnit_apart
    | with_reducible refine OutApart.next ?_
    | with_reducible exact OutApart.refused
    | with_reducible refine Apart.foldl _ _ ?_ ?_
    | with_reducible refine Apart.ite ?_ ?_
    | with_reducible refine OutApart.ite ?_ ?_
    | (intro _)
    | split

theorem exhaust_apart {m : Field → Bool} {s0 s : State} {a1 a2 a3} (k_dev : m .dev = true) (k_upd : m .upd = true) (k_cue : m
    .cue = true) (k_log : m .log = true) (k_units : m .units = true) (k_cur : m .cur = true) (k_cls : m .cls = true) (k_sched :
    m .sched = true) (k_part : m .part = true) (k_accts : m .accts = true) (k_mem : m .mem = true) (k_press : m .press = true)
    (k_port : m .port = true) (k_gov : m .gov = true) (h : Apart m s0 s) : Apart m s0 (exhaust a1 a2 a3 s) := by
  unfold exhaust
  try dsimp only
  repeat' first
    | with_reducible assumption
    | with_reducible apply loseBlock_apart
    | with_reducible apply logEvent_apart
    | with_reducible apply countExhausted_apart
    | with_reducible apply putHop_apart
    | with_reducible apply faultEnd_apart
    | with_reducible apply strikeEnd_apart
    | with_reducible refine OutApart.next ?_
    | with_reducible exact OutApart.refused
    | with_reducible refine Apart.foldl _ _ ?_ ?_
    | with_reducible refine Apart.ite ?_ ?_
    | with_reducible refine OutApart.ite ?_ ?_
    | (intro _)
    | split

theorem execFabricBlockReceive_apart {m : Field → Bool} {s0 s : State} {a1 a2 a3 a4 a5 a6 a7} (k_dev : m .dev = true) (k_upd : m
    .upd = true) (k_cue : m .cue = true) (k_log : m .log = true) (k_units : m .units = true) (k_cur : m .cur = true) (k_cls : m
    .cls = true) (k_sched : m .sched = true) (k_cog : m .cog = true) (k_part : m .part = true) (k_accts : m .accts = true)
    (k_mem : m .mem = true) (k_press : m .press = true) (k_port : m .port = true) (k_gov : m .gov = true) (h : Apart m s0 s) :
    OutApart m s0 (execFabricBlockReceive a1 a2 a3 a4 a5 a6 a7 s) := by
  unfold execFabricBlockReceive
  try dsimp only
  repeat' first
    | with_reducible assumption
    | with_reducible apply State.at_apart
    | with_reducible apply putHop_apart
    | with_reducible apply poisonRead_apart
    | with_reducible apply resend_apart
    | with_reducible apply exhaust_apart
    | with_reducible refine OutApart.next ?_
    | with_reducible exact OutApart.refused
    | with_reducible refine Apart.foldl _ _ ?_ ?_
    | with_reducible refine Apart.ite ?_ ?_
    | with_reducible refine OutApart.ite ?_ ?_
    | (intro _)
    | split

theorem execLeafSweepDone_apart {m : Field → Bool} {s0 s : State} {a1 a2 a3} (k_log : m .log = true) (k_cog : m .cog = true) (h
    : Apart m s0 s) : OutApart m s0 (execLeafSweepDone a1 a2 a3 s) := by
  unfold execLeafSweepDone
  try dsimp only
  repeat' first
    | with_reducible assumption
    | with_reducible apply State.at_apart
    | with_reducible apply setLeaf_apart
    | with_reducible apply logEvent_apart
    | with_reducible apply dropLeaf_apart
    | with_reducible refine OutApart.next ?_
    | with_reducible exact OutApart.refused
    | with_reducible refine Apart.foldl _ _ ?_ ?_
    | with_reducible refine Apart.ite ?_ ?_
    | with_reducible refine OutApart.ite ?_ ?_
    | (intro _)
    | split

theorem wakeLocked_apart {m : Field → Bool} {s0 s : State} (k_press : m .press = true) (h : Apart m s0 s) : Apart m s0
    (wakeLocked s) := by
  unfold wakeLocked
  try dsimp only
  repeat' first
    | with_reducible assumption
    | with_reducible apply waitHand_apart
    | with_reducible refine OutApart.next ?_
    | with_reducible exact OutApart.refused
    | with_reducible refine Apart.foldl _ _ ?_ ?_
    | with_reducible refine Apart.ite ?_ ?_
    | with_reducible refine OutApart.ite ?_ ?_
    | (intro _)
    | split

theorem execMappingDropAck_apart {m : Field → Bool} {s0 s : State} {a1 a2 a3 a4} (k_mem : m .mem = true) (k_press : m .press =
    true) (h : Apart m s0 s) : OutApart m s0 (execMappingDropAck a1 a2 a3 a4 s) := by
  unfold execMappingDropAck
  try dsimp only
  repeat' first
    | with_reducible assumption
    | with_reducible apply State.at_apart
    | with_reducible apply wakeLocked_apart
    | with_reducible refine OutApart.next ?_
    | with_reducible exact OutApart.refused
    | with_reducible refine Apart.foldl _ _ ?_ ?_
    | with_reducible refine Apart.ite ?_ ?_
    | with_reducible refine OutApart.ite ?_ ?_
    | (intro _)
    | split
    | with_reducible refine Apart.mem ?_ ?_

theorem modPrefetch_apart {m : Field → Bool} {s0 s : State} {a1 a2 a3} (k_mem : m .mem = true) (h : Apart m s0 s) : Apart m s0
    (modPrefetch a1 a2 a3 s) := by
  unfold modPrefetch
  try dsimp only
  repeat' first
    | with_reducible assumption
    | with_reducible refine OutApart.next ?_
    | with_reducible exact OutApart.refused
    | with_reducible refine Apart.foldl _ _ ?_ ?_
    | with_reducible refine Apart.ite ?_ ?_
    | with_reducible refine OutApart.ite ?_ ?_
    | (intro _)
    | split
    | with_reducible refine Apart.mem ?_ ?_

theorem execPrefetchIssue_apart {m : Field → Bool} {s0 s : State} {a1 a2 a3 a4} (k_part : m .part = true) (k_mem : m .mem =
    true) (k_press : m .press = true) (h : Apart m s0 s) : OutApart m s0 (execPrefetchIssue a1 a2 a3 a4 s) := by
  unfold execPrefetchIssue
  try dsimp only
  repeat' first
    | with_reducible assumption
    | with_reducible apply State.at_apart
    | with_reducible apply tagErrs_apart
    | with_reducible apply modPrefetch_apart
    | with_reducible apply moveBlock_apart
    | with_reducible apply countPf_apart
    | with_reducible refine OutApart.next ?_
    | with_reducible exact OutApart.refused
    | with_reducible refine Apart.foldl _ _ ?_ ?_
    | with_reducible refine Apart.ite ?_ ?_
    | with_reducible refine OutApart.ite ?_ ?_
    | (intro _)
    | split

theorem stackLost_apart {m : Field → Bool} {s0 s : State} {a1 a2 a3 a4} (k_cue : m .cue = true) (k_log : m .log = true) (k_units
    : m .units = true) (k_cur : m .cur = true) (k_cls : m .cls = true) (k_sched : m .sched = true) (k_part : m .part = true)
    (k_accts : m .accts = true) (k_mem : m .mem = true) (k_press : m .press = true) (k_port : m .port = true) (k_gov : m .gov =
    true) (h : Apart m s0 s) : Apart m s0 (stackLost a1 a2 a3 a4 s) := by
  unfold stackLost
  try dsimp only
  repeat' first
    | with_reducible assumption
    | with_reducible apply logEvent_apart
    | with_reducible apply putHop_apart
    | with_reducible apply poison_apart
    | with_reducible apply loseBlock_apart
    | with_reducible apply State.modUnit_apart
    | with_reducible apply strike_apart
    | with_reducible refine OutApart.next ?_
    | with_reducible exact OutApart.refused
    | with_reducible refine Apart.foldl _ _ ?_ ?_
    | with_reducible refine Apart.ite ?_ ?_
    | with_reducible refine OutApart.ite ?_ ?_
    | (intro _)
    | split

theorem execStackAccessComplete_apart {m : Field → Bool} {s0 s : State} {a1 a2 a3 a4 a5} (k_dev : m .dev = true) (k_upd : m .upd
    = true) (k_cue : m .cue = true) (k_log : m .log = true) (k_units : m .units = true) (k_cur : m .cur = true) (k_cls : m .cls
    = true) (k_sched : m .sched = true) (k_part : m .part = true) (k_accts : m .accts = true) (k_mem : m .mem = true) (k_press :
    m .press = true) (k_port : m .port = true) (k_gov : m .gov = true) (h : Apart m s0 s) : OutApart m s0
    (execStackAccessComplete a1 a2 a3 a4 a5 s) := by
  unfold execStackAccessComplete
  try dsimp only
  repeat' first
    | with_reducible assumption
    | with_reducible apply State.at_apart
    | with_reducible apply putHop_apart
    | with_reducible apply countSeverity_apart
    | with_reducible apply logOnce_apart
    | with_reducible apply resend_apart
    | with_reducible apply exhaust_apart
    | with_reducible apply stackLost_apart
    | with_reducible refine OutApart.next ?_
    | with_reducible exact OutApart.refused
    | with_reducible refine Apart.foldl _ _ ?_ ?_
    | with_reducible refine Apart.ite ?_ ?_
    | with_reducible refine OutApart.ite ?_ ?_
    | (intro _)
    | split

theorem freeTracker_apart {m : Field → Bool} {s0 s : State} {a1} (k_part : m .part = true) (k_mem : m .mem = true) (h : Apart m
    s0 s) : Apart m s0 (freeTracker a1 s) := by
  unfold freeTracker
  try dsimp only
  repeat' first
    | with_reducible assumption
    | with_reducible apply passPart_apart
    | with_reducible apply takeCtls_apart
    | with_reducible refine OutApart.next ?_
    | with_reducible exact OutApart.refused
    | with_reducible refine Apart.foldl _ _ ?_ ?_
    | with_reducible refine Apart.ite ?_ ?_
    | with_reducible refine OutApart.ite ?_ ?_
    | (intro _)
    | split
    | with_reducible refine Apart.mem ?_ ?_

theorem goOn_apart {m : Field → Bool} {s0 s : State} {a1 a2} (k_part : m .part = true) (k_mem : m .mem = true) (k_press : m
    .press = true) (h : Apart m s0 s) : Apart m s0 (goOn a1 a2 s) := by
  unfold goOn
  try dsimp only
  repeat' first
    | with_reducible assumption
    | with_reducible apply askBlocks_apart
    | with_reducible apply pumpAll_apart
    | with_reducible apply compNext_apart
    | with_reducible refine OutApart.next ?_
    | with_reducible exact OutApart.refused
    | with_reducible refine Apart.foldl _ _ ?_ ?_
    | with_reducible refine Apart.ite ?_ ?_
    | with_reducible refine OutApart.ite ?_ ?_
    | (intro _)
    | split

theorem goOnRun_apart {m : Field → Bool} {s0 s : State} {a1} (k_part : m .part = true) (k_mem : m .mem = true) (k_press : m
    .press = true) (h : Apart m s0 s) : Apart m s0 (goOnRun a1 s) := by
  unfold goOnRun
  try dsimp only
  repeat' first
    | with_reducible assumption
    | with_reducible apply goOn_apart
    | with_reducible refine OutApart.next ?_
    | with_reducible exact OutApart.refused
    | with_reducible refine Apart.foldl _ _ ?_ ?_
    | with_reducible refine Apart.ite ?_ ?_
    | with_reducible refine OutApart.ite ?_ ?_
    | (intro _)
    | split

theorem wakeMiss_apart {m : Field → Bool} {s0 s : State} {a1 a2 a3} (k_press : m .press = true) (h : Apart m s0 s) : Apart m s0
    (wakeMiss a1 a2 a3 s) := by
  unfold wakeMiss
  try dsimp only
  repeat' first
    | with_reducible assumption
    | with_reducible apply State.modPress_apart
    | with_reducible refine OutApart.next ?_
    | with_reducible exact OutApart.refused
    | with_reducible refine Apart.foldl _ _ ?_ ?_
    | with_reducible refine Apart.ite ?_ ?_
    | with_reducible refine OutApart.ite ?_ ?_
    | (intro _)
    | split

theorem execTrackerResponse_apart {m : Field → Bool} {s0 s : State} {a1 a2 a3} (k_cue : m .cue = true) (k_log : m .log = true)
    (k_units : m .units = true) (k_cur : m .cur = true) (k_cls : m .cls = true) (k_sched : m .sched = true) (k_cog : m .cog =
    true) (k_part : m .part = true) (k_accts : m .accts = true) (k_mem : m .mem = true) (k_press : m .press = true) (k_port : m
    .port = true) (k_gov : m .gov = true) (h : Apart m s0 s) : OutApart m s0 (execTrackerResponse a1 a2 a3 s) := by
  unfold execTrackerResponse
  try dsimp only
  repeat' first
    | with_reducible assumption
    | with_reducible apply State.at_apart
    | with_reducible apply freeTracker_apart
    | with_reducible apply compBlock_apart
    | with_reducible apply corrected_apart
    | with_reducible apply doubleError_apart
    | with_reducible apply goOnRun_apart
    | with_reducible apply poisonRead_apart
    | with_reducible apply useBlock_apart
    | with_reducible apply wakeMiss_apart
    | with_reducible refine OutApart.next ?_
    | with_reducible exact OutApart.refused
    | with_reducible refine Apart.foldl _ _ ?_ ?_
    | with_reducible refine Apart.ite ?_ ?_
    | with_reducible refine OutApart.ite ?_ ?_
    | (intro _)
    | split

theorem execTrackerTimeout_apart {m : Field → Bool} {s0 s : State} {a1 a2} (k_log : m .log = true) (k_mem : m .mem = true) (h :
    Apart m s0 s) : OutApart m s0 (execTrackerTimeout a1 a2 s) := by
  unfold execTrackerTimeout
  try dsimp only
  repeat' first
    | with_reducible assumption
    | with_reducible apply State.at_apart
    | with_reducible apply countTimeout_apart
    | with_reducible apply logEvent_apart
    | with_reducible refine OutApart.next ?_
    | with_reducible exact OutApart.refused
    | with_reducible refine Apart.foldl _ _ ?_ ?_
    | with_reducible refine Apart.ite ?_ ?_
    | with_reducible refine OutApart.ite ?_ ?_
    | (intro _)
    | split
    | with_reducible refine Apart.mem ?_ ?_

theorem execTrackerTimeoutRepeat_apart {m : Field → Bool} {s0 s : State} {a1 a2} (k_cue : m .cue = true) (k_log : m .log = true)
    (k_units : m .units = true) (k_cur : m .cur = true) (k_sched : m .sched = true) (k_part : m .part = true) (k_accts : m
    .accts = true) (k_mem : m .mem = true) (k_press : m .press = true) (k_port : m .port = true) (k_gov : m .gov = true) (h :
    Apart m s0 s) : OutApart m s0 (execTrackerTimeoutRepeat a1 a2 s) := by
  unfold execTrackerTimeoutRepeat
  try dsimp only
  repeat' first
    | with_reducible assumption
    | with_reducible apply State.at_apart
    | with_reducible apply logEvent_apart
    | with_reducible apply countTimeout_apart
    | with_reducible apply detect_apart
    | with_reducible apply killElsewhere_apart
    | with_reducible refine OutApart.next ?_
    | with_reducible exact OutApart.refused
    | with_reducible refine Apart.foldl _ _ ?_ ?_
    | with_reducible refine Apart.ite ?_ ?_
    | with_reducible refine OutApart.ite ?_ ?_
    | (intro _)
    | split
    | with_reducible refine Apart.mem ?_ ?_

theorem execTranslationWalkDone_apart {m : Field → Bool} {s0 s : State} {a1 a2 a3 a4 a5 a6 a7 a8} (k_dev : m .dev = true) (k_upd
    : m .upd = true) (k_cue : m .cue = true) (k_log : m .log = true) (k_units : m .units = true) (k_cur : m .cur = true)
    (k_sched : m .sched = true) (k_cog : m .cog = true) (k_part : m .part = true) (k_accts : m .accts = true) (k_mem : m .mem =
    true) (k_press : m .press = true) (k_port : m .port = true) (k_gov : m .gov = true) (h : Apart m s0 s) : OutApart m s0
    (execTranslationWalkDone a1 a2 a3 a4 a5 a6 a7 a8 s) := by
  unfold execTranslationWalkDone
  try dsimp only
  repeat' first
    | with_reducible assumption
    | with_reducible apply State.at_apart
    | with_reducible apply tagErrs_apart
    | with_reducible apply countPf_apart
    | with_reducible apply translationFault_apart
    | with_reducible apply cacheEntry_apart
    | with_reducible apply waitHand_apart
    | with_reducible apply demandHit_apart
    | with_reducible apply demandMiss_apart
    | with_reducible refine OutApart.next ?_
    | with_reducible exact OutApart.refused
    | with_reducible refine Apart.foldl _ _ ?_ ?_
    | with_reducible refine Apart.ite ?_ ?_
    | with_reducible refine OutApart.ite ?_ ?_
    | (intro _)
    | split

end Sys2Proof.Machine
end

