-- ==== Sys2Proof/Laws/ApartBoundary.lean ====
section
/-! SUPPORT. Frames of the operations of Machine/Boundary.lean. -/

namespace Sys2Proof.Machine

theorem failOverdue_apart {m : Field → Bool} {s0 s : State} {a1} (k_dev : m .dev = true) (k_upd : m .upd = true) (k_cue : m .cue
    = true) (k_log : m .log = true) (k_units : m .units = true) (k_cur : m .cur = true) (k_cls : m .cls = true) (k_sched : m
    .sched = true) (k_part : m .part = true) (k_accts : m .accts = true) (k_mem : m .mem = true) (k_press : m .press = true)
    (k_port : m .port = true) (k_gov : m .gov = true) (h : Apart m s0 s) : Apart m s0 (failOverdue s a1) := by
  unfold failOverdue
  try dsimp only
  repeat' first
    | with_reducible assumption
    | with_reducible apply failUnit_apart
    | with_reducible refine OutApart.next ?_
    | with_reducible exact OutApart.refused
    | with_reducible refine Apart.foldl _ _ ?_ ?_
    | with_reducible refine Apart.ite ?_ ?_
    | with_reducible refine OutApart.ite ?_ ?_
    | (intro _)
    | split
    | with_reducible refine Apart.sched ?_ ?_

theorem strikeOverdue_apart {m : Field → Bool} {s0 s : State} (k_dev : m .dev = true) (k_upd : m .upd = true) (k_cue : m .cue =
    true) (k_log : m .log = true) (k_units : m .units = true) (k_cur : m .cur = true) (k_cls : m .cls = true) (k_sched : m
    .sched = true) (k_part : m .part = true) (k_accts : m .accts = true) (k_mem : m .mem = true) (k_press : m .press = true)
    (k_port : m .port = true) (k_gov : m .gov = true) (h : Apart m s0 s) : Apart m s0 (strikeOverdue s) := by
  unfold strikeOverdue
  try dsimp only
  repeat' first
    | with_reducible assumption
    | with_reducible apply failOverdue_apart
    | with_reducible apply strike_apart
    | with_reducible refine OutApart.next ?_
    | with_reducible exact OutApart.refused
    | with_reducible refine Apart.foldl _ _ ?_ ?_
    | with_reducible refine Apart.ite ?_ ?_
    | with_reducible refine OutApart.ite ?_ ?_
    | (intro _)
    | split

theorem railSeen_apart {m : Field → Bool} {s0 s : State} (k_cur : m .cur = true) (h : Apart m s0 s) : Apart m s0 (railSeen s) :=
    by
  unfold railSeen
  try dsimp only
  repeat' first
    | with_reducible assumption
    | with_reducible refine OutApart.next ?_
    | with_reducible exact OutApart.refused
    | with_reducible refine Apart.foldl _ _ ?_ ?_
    | with_reducible refine Apart.ite ?_ ?_
    | with_reducible refine OutApart.ite ?_ ?_
    | (intro _)
    | split
    | with_reducible refine Apart.cur ?_ ?_

theorem countFaultCue_apart {m : Field → Bool} {s0 s : State} {a1} (k_dev : m .dev = true) (k_upd : m .upd = true) (k_cue : m
    .cue = true) (k_log : m .log = true) (k_cur : m .cur = true) (k_sched : m .sched = true) (k_port : m .port = true) (h :
    Apart m s0 s) : Apart m s0 (countFaultCue a1 s) := by
  unfold countFaultCue
  try dsimp only
  repeat' first
    | with_reducible assumption
    | with_reducible apply deviceFault_apart
    | with_reducible refine OutApart.next ?_
    | with_reducible exact OutApart.refused
    | with_reducible refine Apart.foldl _ _ ?_ ?_
    | with_reducible refine Apart.ite ?_ ?_
    | with_reducible refine OutApart.ite ?_ ?_
    | (intro _)
    | split
    | with_reducible refine Apart.cur ?_ ?_

theorem pairDetections_apart {m : Field → Bool} {s0 s : State} {a1} (k_dev : m .dev = true) (k_upd : m .upd = true) (k_cue : m
    .cue = true) (k_log : m .log = true) (k_cur : m .cur = true) (k_sched : m .sched = true) (k_port : m .port = true) (h :
    Apart m s0 s) : Apart m s0 (pairDetections a1 s) := by
  unfold pairDetections
  try dsimp only
  repeat' first
    | with_reducible assumption
    | with_reducible apply curtainStop_apart
    | with_reducible apply logEvent_apart
    | with_reducible apply railSeen_apart
    | with_reducible apply countFaultCue_apart
    | with_reducible refine OutApart.next ?_
    | with_reducible exact OutApart.refused
    | with_reducible refine Apart.foldl _ _ ?_ ?_
    | with_reducible refine Apart.ite ?_ ?_
    | with_reducible refine OutApart.ite ?_ ?_
    | (intro _)
    | split

theorem unresolved_apart {m : Field → Bool} {s0 s : State} {a1 a2} (k_log : m .log = true) (k_units : m .units = true) (k_cur :
    m .cur = true) (k_cls : m .cls = true) (k_sched : m .sched = true) (k_part : m .part = true) (k_mem : m .mem = true)
    (k_press : m .press = true) (h : Apart m s0 s) : Apart m s0 (unresolved a1 a2 s) := by
  unfold unresolved
  try dsimp only
  repeat' first
    | with_reducible assumption
    | with_reducible apply endClass_apart
    | with_reducible apply setClass_apart
    | with_reducible apply logEvent_apart
    | with_reducible refine OutApart.next ?_
    | with_reducible exact OutApart.refused
    | with_reducible refine Apart.foldl _ _ ?_ ?_
    | with_reducible refine Apart.ite ?_ ?_
    | with_reducible refine OutApart.ite ?_ ?_
    | (intro _)
    | split

theorem enterHold_apart {m : Field → Bool} {s0 s : State} {a1} (k_dev : m .dev = true) (k_log : m .log = true) (k_units : m
    .units = true) (k_cur : m .cur = true) (k_cls : m .cls = true) (k_sched : m .sched = true) (k_part : m .part = true) (k_mem
    : m .mem = true) (k_press : m .press = true) (k_port : m .port = true) (h : Apart m s0 s) : Apart m s0 (enterHold a1 s) :=
    by
  unfold enterHold
  try dsimp only
  repeat' first
    | with_reducible assumption
    | with_reducible apply curtainStop_apart
    | with_reducible apply setState_apart
    | with_reducible apply logEvent_apart
    | with_reducible apply unresolved_apart
    | with_reducible refine OutApart.next ?_
    | with_reducible exact OutApart.refused
    | with_reducible refine Apart.foldl _ _ ?_ ?_
    | with_reducible refine Apart.ite ?_ ?_
    | with_reducible refine OutApart.ite ?_ ?_
    | (intro _)
    | split

theorem holdAtBoundary_apart {m : Field → Bool} {s0 s : State} (k_dev : m .dev = true) (k_log : m .log = true) (k_units : m
    .units = true) (k_cur : m .cur = true) (k_cls : m .cls = true) (k_sched : m .sched = true) (k_part : m .part = true) (k_mem
    : m .mem = true) (k_press : m .press = true) (k_port : m .port = true) (h : Apart m s0 s) : Apart m s0 (holdAtBoundary s) :=
    by
  unfold holdAtBoundary
  try dsimp only
  repeat' first
    | with_reducible assumption
    | with_reducible apply enterHold_apart
    | with_reducible refine OutApart.next ?_
    | with_reducible exact OutApart.refused
    | with_reducible refine Apart.foldl _ _ ?_ ?_
    | with_reducible refine Apart.ite ?_ ?_
    | with_reducible refine OutApart.ite ?_ ?_
    | (intro _)
    | split

theorem returnUnit_apart {m : Field → Bool} {s0 s : State} {a1 a2} (k_units : m .units = true) (k_ing : m .ing = true) (h :
    Apart m s0 s) : Apart m s0 (returnUnit a1 a2 s) := by
  unfold returnUnit
  try dsimp only
  repeat' first
    | with_reducible assumption
    | with_reducible apply State.modUnit_apart
    | with_reducible apply modPortStreams_apart
    | with_reducible refine OutApart.next ?_
    | with_reducible exact OutApart.refused
    | with_reducible refine Apart.foldl _ _ ?_ ?_
    | with_reducible refine Apart.ite ?_ ?_
    | with_reducible refine OutApart.ite ?_ ?_
    | (intro _)
    | split

theorem returnUnits_apart {m : Field → Bool} {s0 s : State} {a1} (k_units : m .units = true) (k_ing : m .ing = true) (h : Apart
    m s0 s) : Apart m s0 (returnUnits a1 s) := by
  unfold returnUnits
  try dsimp only
  repeat' first
    | with_reducible assumption
    | with_reducible apply returnUnit_apart
    | with_reducible refine OutApart.next ?_
    | with_reducible exact OutApart.refused
    | with_reducible refine Apart.foldl _ _ ?_ ?_
    | with_reducible refine Apart.ite ?_ ?_
    | with_reducible refine OutApart.ite ?_ ?_
    | (intro _)
    | split

theorem closeDigest_apart {m : Field → Bool} {s0 s : State} {a1 a2} (k_sched : m .sched = true) (h : Apart m s0 s) : Apart m s0
    (closeDigest a1 s a2) := by
  unfold closeDigest
  try dsimp only
  repeat' first
    | with_reducible assumption
    | with_reducible apply setDigPlay_apart
    | with_reducible refine OutApart.next ?_
    | with_reducible exact OutApart.refused
    | with_reducible refine Apart.foldl _ _ ?_ ?_
    | with_reducible refine Apart.ite ?_ ?_
    | with_reducible refine OutApart.ite ?_ ?_
    | (intro _)
    | split

theorem closeDigests_apart {m : Field → Bool} {s0 s : State} (k_sched : m .sched = true) (h : Apart m s0 s) : Apart m s0
    (closeDigests s) := by
  unfold closeDigests
  try dsimp only
  repeat' first
    | with_reducible assumption
    | with_reducible apply closeDigest_apart
    | with_reducible refine OutApart.next ?_
    | with_reducible exact OutApart.refused
    | with_reducible refine Apart.foldl _ _ ?_ ?_
    | with_reducible refine Apart.ite ?_ ?_
    | with_reducible refine OutApart.ite ?_ ?_
    | (intro _)
    | split

theorem stopAtBoundary_apart {m : Field → Bool} {s0 s : State} (k_log : m .log = true) (k_units : m .units = true) (k_sched : m
    .sched = true) (k_part : m .part = true) (k_accts : m .accts = true) (k_mem : m .mem = true) (k_press : m .press = true)
    (k_gov : m .gov = true) (h : Apart m s0 s) : Apart m s0 (stopAtBoundary s) := by
  unfold stopAtBoundary
  try dsimp only
  repeat' first
    | with_reducible assumption
    | with_reducible apply killWhere_apart
    | with_reducible apply suspendSlice_apart
    | with_reducible refine OutApart.next ?_
    | with_reducible exact OutApart.refused
    | with_reducible refine Apart.foldl _ _ ?_ ?_
    | with_reducible refine Apart.ite ?_ ?_
    | with_reducible refine OutApart.ite ?_ ?_
    | (intro _)
    | split

theorem beginInvalid_apart {m : Field → Bool} {s0 s : State} {a1} (k_cue : m .cue = true) (k_cur : m .cur = true) (h : Apart m
    s0 s) : Apart m s0 (beginInvalid a1 s) := by
  unfold beginInvalid
  try dsimp only
  repeat' first
    | with_reducible assumption
    | with_reducible refine OutApart.next ?_
    | with_reducible exact OutApart.refused
    | with_reducible refine Apart.foldl _ _ ?_ ?_
    | with_reducible refine Apart.ite ?_ ?_
    | with_reducible refine OutApart.ite ?_ ?_
    | (intro _)
    | split
    | with_reducible refine Apart.cue ?_ ?_
    | with_reducible refine Apart.cur ?_ ?_
    | with_reducible apply Apart.record
    | with_reducible exact Or.inr rfl
    | with_reducible (refine Or.inl ?_)

theorem placeBoundary_apart {m : Field → Bool} {s0 s : State} {a1 a2} (k_cue : m .cue = true) (k_log : m .log = true) (k_cur : m
    .cur = true) (k_mem : m .mem = true) (h : Apart m s0 s) : Apart m s0 (placeBoundary a1 a2 s) := by
  unfold placeBoundary
  try dsimp only
  repeat' first
    | with_reducible assumption
    | with_reducible apply logEvent_apart
    | with_reducible refine OutApart.next ?_
    | with_reducible exact OutApart.refused
    | with_reducible refine Apart.foldl _ _ ?_ ?_
    | with_reducible refine Apart.ite ?_ ?_
    | with_reducible refine OutApart.ite ?_ ?_
    | (intro _)
    | split
    | with_reducible refine Apart.cue ?_ ?_
    | with_reducible refine Apart.log ?_ ?_
    | with_reducible refine Apart.cur ?_ ?_
    | with_reducible refine Apart.mem ?_ ?_
    | with_reducible apply Apart.record
    | with_reducible exact Or.inr rfl
    | with_reducible (refine Or.inl ?_)

theorem closePart_apart {m : Field → Bool} {s0 s : State} {a1 a2} (k_log : m .log = true) (k_part : m .part = true) (h : Apart m
    s0 s) : Apart m s0 (closePart s a1 a2).1 := by
  unfold closePart
  try dsimp only
  repeat' first
    | with_reducible assumption
    | with_reducible apply logEvent_apart
    | with_reducible refine OutApart.next ?_
    | with_reducible exact OutApart.refused
    | with_reducible refine Apart.foldl _ _ ?_ ?_
    | with_reducible refine Apart.ite ?_ ?_
    | with_reducible refine OutApart.ite ?_ ?_
    | (intro _)
    | split
    | with_reducible refine Apart.part ?_ ?_

theorem closeParts_apart {m : Field → Bool} {s0 s : State} (k_log : m .log = true) (k_part : m .part = true) (k_gov : m .gov = true)
    (h : Apart m s0 s) : Apart m s0 (closeParts s).1 := by
  unfold closeParts
  dsimp only
  refine Apart.gov k_gov ?_
  have key : ∀ (l : List (Fin 8)) (a : State × List Nat), Apart m s0 a.1 →
      Apart m s0 (l.foldl (fun a i => closePart a.1 a.2 i) a).1 := by
    intro l
    induction l with
    | nil => exact fun _ ha => ha
    | cons i l ih => exact fun a ha => ih _ (closePart_apart k_log k_part ha)
  exact key _ _ h

theorem startLossClocks_apart {m : Field → Bool} {s0 s : State} (k_ing : m .ing = true) (h : Apart m s0 s) : Apart m s0
    (startLossClocks s) := by
  unfold startLossClocks
  try dsimp only
  repeat' first
    | with_reducible assumption
    | with_reducible refine OutApart.next ?_
    | with_reducible exact OutApart.refused
    | with_reducible refine Apart.foldl _ _ ?_ ?_
    | with_reducible refine Apart.ite ?_ ?_
    | with_reducible refine OutApart.ite ?_ ?_
    | (intro _)
    | split
    | with_reducible refine Apart.ing ?_ ?_

theorem startAges_apart {m : Field → Bool} {s0 s : State} (k_units : m .units = true) (k_sched : m .sched = true) (h : Apart m
    s0 s) : Apart m s0 (startAges s) := by
  unfold startAges
  try dsimp only
  repeat' first
    | with_reducible assumption
    | with_reducible refine OutApart.next ?_
    | with_reducible exact OutApart.refused
    | with_reducible refine Apart.foldl _ _ ?_ ?_
    | with_reducible refine Apart.ite ?_ ?_
    | with_reducible refine OutApart.ite ?_ ?_
    | (intro _)
    | split
    | with_reducible refine Apart.units ?_ ?_
    | with_reducible refine Apart.sched ?_ ?_
    | with_reducible apply Apart.record
    | with_reducible exact Or.inr rfl
    | with_reducible (refine Or.inl ?_)

theorem ageOther_apart {m : Field → Bool} {s0 s : State} {a1} (k_log : m .log = true) (k_sched : m .sched = true) (h : Apart m
    s0 s) : Apart m s0 (ageOther s a1) := by
  unfold ageOther
  try dsimp only
  repeat' first
    | with_reducible assumption
    | with_reducible apply logEvent_apart
    | with_reducible refine OutApart.next ?_
    | with_reducible exact OutApart.refused
    | with_reducible refine Apart.foldl _ _ ?_ ?_
    | with_reducible refine Apart.ite ?_ ?_
    | with_reducible refine OutApart.ite ?_ ?_
    | (intro _)
    | split
    | with_reducible refine Apart.sched ?_ ?_

theorem ageUnit_apart {m : Field → Bool} {s0 s : State} {a1} (k_log : m .log = true) (k_units : m .units = true) (h : Apart m s0
    s) : Apart m s0 (ageUnit s a1) := by
  unfold ageUnit
  try dsimp only
  repeat' first
    | with_reducible assumption
    | with_reducible apply State.modUnit_apart
    | with_reducible apply logEvent_apart
    | with_reducible refine OutApart.next ?_
    | with_reducible exact OutApart.refused
    | with_reducible refine Apart.foldl _ _ ?_ ?_
    | with_reducible refine Apart.ite ?_ ?_
    | with_reducible refine OutApart.ite ?_ ?_
    | (intro _)
    | split

theorem ageAll_apart {m : Field → Bool} {s0 s : State} (k_log : m .log = true) (k_units : m .units = true) (k_sched : m .sched =
    true) (h : Apart m s0 s) : Apart m s0 (ageAll s) := by
  unfold ageAll
  try dsimp only
  repeat' first
    | with_reducible assumption
    | with_reducible apply ageOther_apart
    | with_reducible apply ageUnit_apart
    | with_reducible refine OutApart.next ?_
    | with_reducible exact OutApart.refused
    | with_reducible refine Apart.foldl _ _ ?_ ?_
    | with_reducible refine Apart.ite ?_ ?_
    | with_reducible refine OutApart.ite ?_ ?_
    | (intro _)
    | split

theorem closeCue_apart {m : Field → Bool} {s0 s : State} {a1} (k_log : m .log = true) (k_units : m .units = true) (k_sched : m
    .sched = true) (k_part : m .part = true) (k_mem : m .mem = true) (k_ing : m .ing = true) (k_gov : m .gov = true) (h : Apart
    m s0 s) : Apart m s0 (closeCue a1 s).1 := by
  unfold closeCue
  try dsimp only
  repeat' first
    | with_reducible assumption
    | with_reducible apply closeParts_apart
    | with_reducible apply governorBoundary_apart
    | with_reducible apply startLossClocks_apart
    | with_reducible apply startAges_apart
    | with_reducible apply ageAll_apart
    | with_reducible refine Apart.fst ?_ (by assumption)
    | with_reducible refine OutApart.next ?_
    | with_reducible exact OutApart.refused
    | with_reducible refine Apart.foldl _ _ ?_ ?_
    | with_reducible refine Apart.ite ?_ ?_
    | with_reducible refine OutApart.ite ?_ ?_
    | (intro _)
    | split

theorem applyTest_apart {m : Field → Bool} {s0 s : State} (k_cue : m .cue = true) (k_log : m .log = true) (k_cur : m .cur =
    true) (k_sched : m .sched = true) (k_port : m .port = true) (h : Apart m s0 s) : Apart m s0 (applyTest s) := by
  unfold applyTest
  try dsimp only
  repeat' first
    | with_reducible assumption
    | with_reducible apply logEvent_apart
    | with_reducible apply detect_apart
    | with_reducible refine OutApart.next ?_
    | with_reducible exact OutApart.refused
    | with_reducible refine Apart.foldl _ _ ?_ ?_
    | with_reducible refine Apart.ite ?_ ?_
    | with_reducible refine OutApart.ite ?_ ?_
    | (intro _)
    | split
    | with_reducible refine Apart.cur ?_ ?_

theorem takePlan_apart {m : Field → Bool} {s0 s : State} {a1} (k_log : m .log = true) (k_sched : m .sched = true) (h : Apart m
    s0 s) : Apart m s0 (takePlan a1 s) := by
  unfold takePlan
  try dsimp only
  repeat' first
    | with_reducible assumption
    | with_reducible apply logEvent_apart
    | with_reducible refine OutApart.next ?_
    | with_reducible exact OutApart.refused
    | with_reducible refine Apart.foldl _ _ ?_ ?_
    | with_reducible refine Apart.ite ?_ ?_
    | with_reducible refine OutApart.ite ?_ ?_
    | (intro _)
    | split
    | with_reducible refine Apart.sched ?_ ?_

theorem advanceFuse_apart {m : Field → Bool} {s0 s : State} (k_fuses : m .fuses = true) (h : Apart m s0 s) : Apart m s0
    (advanceFuse s) := by
  unfold advanceFuse
  try dsimp only
  repeat' first
    | with_reducible assumption
    | with_reducible refine OutApart.next ?_
    | with_reducible exact OutApart.refused
    | with_reducible refine Apart.foldl _ _ ?_ ?_
    | with_reducible refine Apart.ite ?_ ?_
    | with_reducible refine OutApart.ite ?_ ?_
    | (intro _)
    | split
    | with_reducible refine Apart.fuses ?_ ?_

theorem transition_apart {m : Field → Bool} {s0 s : State} (k_fuses : m .fuses = true) (k_dev : m .dev = true) (k_log : m .log =
    true) (k_port : m .port = true) (h : Apart m s0 s) : Apart m s0 (transition s) := by
  unfold transition
  try dsimp only
  repeat' first
    | with_reducible assumption
    | with_reducible apply advanceFuse_apart
    | with_reducible apply setState_apart
    | with_reducible apply logEvent_apart
    | with_reducible refine OutApart.next ?_
    | with_reducible exact OutApart.refused
    | with_reducible refine Apart.foldl _ _ ?_ ?_
    | with_reducible refine Apart.ite ?_ ?_
    | with_reducible refine OutApart.ite ?_ ?_
    | (intro _)
    | split

theorem returnStream_apart {m : Field → Bool} {s0 s : State} {a1 a2} (k_log : m .log = true) (k_units : m .units = true) (k_ing
    : m .ing = true) (h : Apart m s0 s) : Apart m s0 (returnStream a1 s a2) := by
  unfold returnStream
  try dsimp only
  repeat' first
    | with_reducible assumption
    | with_reducible apply logEvent_apart
    | with_reducible apply State.modUnit_apart
    | with_reducible refine OutApart.next ?_
    | with_reducible exact OutApart.refused
    | with_reducible refine Apart.foldl _ _ ?_ ?_
    | with_reducible refine Apart.ite ?_ ?_
    | with_reducible refine OutApart.ite ?_ ?_
    | (intro _)
    | split
    | with_reducible refine Apart.ing ?_ ?_

theorem returnStreams_apart {m : Field → Bool} {s0 s : State} (k_log : m .log = true) (k_units : m .units = true) (k_ing : m
    .ing = true) (h : Apart m s0 s) : Apart m s0 (returnStreams s) := by
  unfold returnStreams
  try dsimp only
  repeat' first
    | with_reducible assumption
    | with_reducible apply returnStream_apart
    | with_reducible refine OutApart.next ?_
    | with_reducible exact OutApart.refused
    | with_reducible refine Apart.foldl _ _ ?_ ?_
    | with_reducible refine Apart.ite ?_ ?_
    | with_reducible refine OutApart.ite ?_ ?_
    | (intro _)
    | split

theorem noteMode_apart {m : Field → Bool} {s0 s : State} (k_part : m .part = true) (h : Apart m s0 s) : Apart m s0 (noteMode s)
    := by
  unfold noteMode
  try dsimp only
  repeat' first
    | with_reducible assumption
    | with_reducible refine OutApart.next ?_
    | with_reducible exact OutApart.refused
    | with_reducible refine Apart.foldl _ _ ?_ ?_
    | with_reducible refine Apart.ite ?_ ?_
    | with_reducible refine OutApart.ite ?_ ?_
    | (intro _)
    | split
    | with_reducible refine Apart.part ?_ ?_

theorem markHeld_apart {m : Field → Bool} {s0 s : State} (k_cue : m .cue = true) (k_sched : m .sched = true) (h : Apart m s0 s)
    : Apart m s0 (markHeld s) := by
  unfold markHeld
  try dsimp only
  repeat' first
    | with_reducible assumption
    | with_reducible apply invalidate_apart
    | with_reducible refine OutApart.next ?_
    | with_reducible exact OutApart.refused
    | with_reducible refine Apart.foldl _ _ ?_ ?_
    | with_reducible refine Apart.ite ?_ ?_
    | with_reducible refine OutApart.ite ?_ ?_
    | (intro _)
    | split
    | with_reducible refine Apart.cue ?_ ?_

theorem movePage_apart {m : Field → Bool} {s0 s : State} {a1 a2} (k_sched : m .sched = true) (k_mem : m .mem = true) (h : Apart
    m s0 s) : Apart m s0 (movePage a1 a2 s) := by
  unfold movePage
  try dsimp only
  repeat' first
    | with_reducible assumption
    | with_reducible refine OutApart.next ?_
    | with_reducible exact OutApart.refused
    | with_reducible refine Apart.foldl _ _ ?_ ?_
    | with_reducible refine Apart.ite ?_ ?_
    | with_reducible refine OutApart.ite ?_ ?_
    | (intro _)
    | split
    | with_reducible refine Apart.sched ?_ ?_
    | with_reducible refine Apart.mem ?_ ?_
    | with_reducible apply Apart.record
    | with_reducible exact Or.inr rfl
    | with_reducible (refine Or.inl ?_)

theorem movePages_apart {m : Field → Bool} {s0 s : State} {a1 a2} (k_sched : m .sched = true) (k_mem : m .mem = true) (h : Apart
    m s0 s) : Apart m s0 (movePages a1 a2 s) := by
  unfold movePages
  try dsimp only
  repeat' first
    | with_reducible assumption
    | with_reducible apply movePage_apart
    | with_reducible refine OutApart.next ?_
    | with_reducible exact OutApart.refused
    | with_reducible refine Apart.foldl _ _ ?_ ?_
    | with_reducible refine Apart.ite ?_ ?_
    | with_reducible refine OutApart.ite ?_ ?_
    | (intro _)
    | split

theorem reHousePages_apart {m : Field → Bool} {s0 s : State} {a1 a2} (k_sched : m .sched = true) (k_mem : m .mem = true) (h : Apart m s0 s) : Apart m s0 (reHousePages a1 a2 s).2 := by
  unfold reHousePages
  cases s.newHouse a2 with
  | none => exact h
  | some d => exact (movePages_apart k_sched k_mem h)

theorem reHouse_apart {m : Field → Bool} {s0 s : State} {a1 a2} (k_sched : m .sched = true) (k_mem : m .mem = true) (h : Apart m s0 s) : Apart m s0 (reHouse a1 a2 s).2 :=
  (reHousePages_apart k_sched k_mem h)

theorem reHouseCopies_apart {m : Field → Bool} {s0 s : State} (k_forme : m .forme = true) (k_sched : m .sched = true) (k_mem : m .mem = true) (h : Apart m s0 s) : Apart m s0 (reHouseCopies s) := by
  unfold reHouseCopies
  exact Apart.foldl _ _ h fun _ _ k => Apart.forme k_forme (reHouse_apart k_sched k_mem k)

theorem reHouseRing_apart {m : Field → Bool} {s0 s : State} (k_forme : m .forme = true) (k_sched : m .sched = true) (k_mem : m .mem = true) (h : Apart m s0 s) : Apart m s0 (reHouseRing s) := by
  unfold reHouseRing
  exact Apart.foldl _ _ h fun _ _ k => Apart.forme k_forme (reHouse_apart k_sched k_mem k)

theorem rePlace_apart {m : Field → Bool} {s0 s : State} {a1} (k_sched : m .sched = true) (k_mem : m .mem = true) (h : Apart m s0
    s) : Apart m s0 (rePlace s a1) := by
  unfold rePlace
  try dsimp only
  repeat' first
    | with_reducible assumption
    | with_reducible apply queueRestore_apart
    | with_reducible apply forgetValues_apart
    | with_reducible apply unmapPage_apart
    | with_reducible apply setPte_apart
    | with_reducible apply startDrop_apart
    | with_reducible apply movePage_apart
    | with_reducible refine OutApart.next ?_
    | with_reducible exact OutApart.refused
    | with_reducible refine Apart.foldl _ _ ?_ ?_
    | with_reducible refine Apart.ite ?_ ?_
    | with_reducible refine OutApart.ite ?_ ?_
    | (intro _)
    | split

theorem restorePages_apart {m : Field → Bool} {s0 s : State} (k_forme : m .forme = true) (k_sched : m .sched = true) (k_mem : m
    .mem = true) (h : Apart m s0 s) : Apart m s0 (restorePages s) := by
  unfold restorePages
  try dsimp only
  repeat' first
    | with_reducible assumption
    | with_reducible apply reHouseCopies_apart
    | with_reducible apply reHouseRing_apart
    | with_reducible apply rePlace_apart
    | with_reducible refine OutApart.next ?_
    | with_reducible exact OutApart.refused
    | with_reducible refine Apart.foldl _ _ ?_ ?_
    | with_reducible refine Apart.ite ?_ ?_
    | with_reducible refine OutApart.ite ?_ ?_
    | (intro _)
    | split
    | with_reducible refine Apart.mem ?_ ?_

theorem closePoisoned_apart {m : Field → Bool} {s0 s : State} (k_log : m .log = true) (k_sched : m .sched = true) (k_cog : m
    .cog = true) (k_mem : m .mem = true) (h : Apart m s0 s) : Apart m s0 (closePoisoned s) := by
  unfold closePoisoned
  try dsimp only
  repeat' first
    | with_reducible assumption
    | with_reducible apply closeSession_apart
    | with_reducible apply releaseKeep_apart
    | with_reducible apply setLeaf_apart
    | with_reducible apply logEvent_apart
    | with_reducible refine OutApart.next ?_
    | with_reducible exact OutApart.refused
    | with_reducible refine Apart.foldl _ _ ?_ ?_
    | with_reducible refine Apart.ite ?_ ?_
    | with_reducible refine OutApart.ite ?_ ?_
    | (intro _)
    | split

theorem retire_apart {m : Field → Bool} {s0 s : State} (k_log : m .log = true) (k_sched : m .sched = true) (k_cog : m .cog =
    true) (k_mem : m .mem = true) (k_ing : m .ing = true) (h : Apart m s0 s) : Apart m s0 (retire s) := by
  unfold retire
  try dsimp only
  repeat' first
    | with_reducible assumption
    | with_reducible apply abandonInst_apart
    | with_reducible apply forgetValues_apart
    | with_reducible refine OutApart.next ?_
    | with_reducible exact OutApart.refused
    | with_reducible refine Apart.foldl _ _ ?_ ?_
    | with_reducible refine Apart.ite ?_ ?_
    | with_reducible refine OutApart.ite ?_ ?_
    | (intro _)
    | split
    | with_reducible refine Apart.sched ?_ ?_
    | with_reducible refine Apart.cog ?_ ?_
    | with_reducible refine Apart.ing ?_ ?_
    | with_reducible apply Apart.record
    | with_reducible exact Or.inr rfl
    | with_reducible (refine Or.inl ?_)

theorem ageClasses_apart {m : Field → Bool} {s0 s : State} (k_log : m .log = true) (k_units : m .units = true) (k_cur : m .cur =
    true) (k_cls : m .cls = true) (k_sched : m .sched = true) (k_part : m .part = true) (k_mem : m .mem = true) (k_press : m
    .press = true) (h : Apart m s0 s) : Apart m s0 (ageClasses s) := by
  unfold ageClasses
  try dsimp only
  repeat' first
    | with_reducible assumption
    | with_reducible apply unresolved_apart
    | with_reducible refine OutApart.next ?_
    | with_reducible exact OutApart.refused
    | with_reducible refine Apart.foldl _ _ ?_ ?_
    | with_reducible refine Apart.ite ?_ ?_
    | with_reducible refine OutApart.ite ?_ ?_
    | (intro _)
    | split
    | with_reducible refine Apart.cls ?_ ?_

theorem shiftProofs_apart {m : Field → Bool} {s0 s : State} (k_units : m .units = true) (h : Apart m s0 s) : Apart m s0
    (shiftProofs s) := by
  unfold shiftProofs
  try dsimp only
  repeat' first
    | with_reducible assumption
    | with_reducible refine OutApart.next ?_
    | with_reducible exact OutApart.refused
    | with_reducible refine Apart.foldl _ _ ?_ ?_
    | with_reducible refine Apart.ite ?_ ?_
    | with_reducible refine OutApart.ite ?_ ?_
    | (intro _)
    | split
    | with_reducible refine Apart.units ?_ ?_

theorem settleClass_apart {m : Field → Bool} {s0 s : State} {a1} (k_log : m .log = true) (k_units : m .units = true) (k_cur : m
    .cur = true) (k_cls : m .cls = true) (k_sched : m .sched = true) (k_part : m .part = true) (k_mem : m .mem = true) (k_press
    : m .press = true) (h : Apart m s0 s) : Apart m s0 (settleClass a1 s) := by
  unfold settleClass
  try dsimp only
  repeat' first
    | with_reducible assumption
    | with_reducible apply endClass_apart
    | with_reducible apply unresolved_apart
    | with_reducible apply setClass_apart
    | with_reducible apply logEvent_apart
    | with_reducible refine OutApart.next ?_
    | with_reducible exact OutApart.refused
    | with_reducible refine Apart.foldl _ _ ?_ ?_
    | with_reducible refine Apart.ite ?_ ?_
    | with_reducible refine OutApart.ite ?_ ?_
    | (intro _)
    | split

theorem settleClasses_apart {m : Field → Bool} {s0 s : State} (k_log : m .log = true) (k_units : m .units = true) (k_cur : m
    .cur = true) (k_cls : m .cls = true) (k_sched : m .sched = true) (k_part : m .part = true) (k_mem : m .mem = true) (k_press
    : m .press = true) (h : Apart m s0 s) : Apart m s0 (settleClasses s) := by
  unfold settleClasses
  try dsimp only
  repeat' first
    | with_reducible assumption
    | with_reducible apply settleClass_apart
    | with_reducible refine OutApart.next ?_
    | with_reducible exact OutApart.refused
    | with_reducible refine Apart.foldl _ _ ?_ ?_
    | with_reducible refine Apart.ite ?_ ?_
    | with_reducible refine OutApart.ite ?_ ?_
    | (intro _)
    | split

theorem formRuns_apart {m : Field → Bool} {s0 s : State} (k_sched : m .sched = true) (h : Apart m s0 s) : Apart m s0 (formRuns
    s) := by
  unfold formRuns
  try dsimp only
  repeat' first
    | with_reducible assumption
    | with_reducible apply formRun_apart
    | with_reducible refine OutApart.next ?_
    | with_reducible exact OutApart.refused
    | with_reducible refine Apart.foldl _ _ ?_ ?_
    | with_reducible refine Apart.ite ?_ ?_
    | with_reducible refine OutApart.ite ?_ ?_
    | (intro _)
    | split

theorem addMoves_apart {m : Field → Bool} {s0 s : State} {a1 a2} (k_log : m .log = true) (k_sched : m .sched = true) (k_cog : m
    .cog = true) (h : Apart m s0 s) : Apart m s0 (addMoves a1 a2 s) := by
  unfold addMoves
  try dsimp only
  repeat' first
    | with_reducible assumption
    | with_reducible apply logOnce_apart
    | with_reducible refine OutApart.next ?_
    | with_reducible exact OutApart.refused
    | with_reducible refine Apart.foldl _ _ ?_ ?_
    | with_reducible refine Apart.ite ?_ ?_
    | with_reducible refine OutApart.ite ?_ ?_
    | (intro _)
    | split
    | with_reducible refine Apart.sched ?_ ?_
    | with_reducible refine Apart.cog ?_ ?_
    | with_reducible apply Apart.record
    | with_reducible exact Or.inr rfl
    | with_reducible (refine Or.inl ?_)

theorem moveWork_apart {m : Field → Bool} {s0 s : State} {a1} (k_log : m .log = true) (k_sched : m .sched = true) (k_cog : m
    .cog = true) (h : Apart m s0 s) : Apart m s0 (moveWork a1 s) := by
  unfold moveWork
  try dsimp only
  repeat' first
    | with_reducible assumption
    | with_reducible apply logEvent_apart
    | with_reducible apply addMoves_apart
    | with_reducible refine OutApart.next ?_
    | with_reducible exact OutApart.refused
    | with_reducible refine Apart.foldl _ _ ?_ ?_
    | with_reducible refine Apart.ite ?_ ?_
    | with_reducible refine OutApart.ite ?_ ?_
    | (intro _)
    | split

theorem afterBoundary_apart {m : Field → Bool} {s0 s : State} {a1} (k_fuses : m .fuses = true) (k_dev : m .dev = true) (k_forme
    : m .forme = true) (k_cue : m .cue = true) (k_log : m .log = true) (k_units : m .units = true) (k_cur : m .cur = true)
    (k_cls : m .cls = true) (k_sched : m .sched = true) (k_cog : m .cog = true) (k_part : m .part = true) (k_mem : m .mem =
    true) (k_press : m .press = true) (k_ing : m .ing = true) (k_port : m .port = true) (k_gov : m .gov = true) (h : Apart m s0
    s) : Apart m s0 (afterBoundary a1 s) := by
  unfold afterBoundary
  try dsimp only
  repeat' first
    | with_reducible assumption
    | with_reducible apply closeCue_apart
    | with_reducible apply applyTest_apart
    | with_reducible apply takePlan_apart
    | with_reducible apply transition_apart
    | with_reducible apply returnStreams_apart
    | with_reducible apply noteMode_apart
    | with_reducible apply markHeld_apart
    | with_reducible apply restorePages_apart
    | with_reducible apply closePoisoned_apart
    | with_reducible apply retire_apart
    | with_reducible apply ageClasses_apart
    | with_reducible apply shiftProofs_apart
    | with_reducible apply settleClasses_apart
    | with_reducible apply formRuns_apart
    | with_reducible apply moveWork_apart
    | with_reducible refine Apart.fst ?_ (by assumption)
    | with_reducible refine OutApart.next ?_
    | with_reducible exact OutApart.refused
    | with_reducible refine Apart.foldl _ _ ?_ ?_
    | with_reducible refine Apart.ite ?_ ?_
    | with_reducible refine OutApart.ite ?_ ?_
    | (intro _)
    | split

theorem answerMaint_apart {m : Field → Bool} {s0 s : State} {a1} (k_dev : m .dev = true) (k_port : m .port = true) (h : Apart m
    s0 s) : Apart m s0 (answerMaint a1 s) := by
  unfold answerMaint
  try dsimp only
  repeat' first
    | with_reducible assumption
    | with_reducible apply reply_apart
    | with_reducible refine OutApart.next ?_
    | with_reducible exact OutApart.refused
    | with_reducible refine Apart.foldl _ _ ?_ ?_
    | with_reducible refine Apart.ite ?_ ?_
    | with_reducible refine OutApart.ite ?_ ?_
    | (intro _)
    | split
    | with_reducible refine Apart.dev ?_ ?_

theorem enterMaintenance_apart {m : Field → Bool} {s0 s : State} (k_dev : m .dev = true) (k_cue : m .cue = true) (k_log : m .log
    = true) (k_units : m .units = true) (k_cur : m .cur = true) (k_cls : m .cls = true) (k_sched : m .sched = true) (k_cog : m
    .cog = true) (k_part : m .part = true) (k_mem : m .mem = true) (k_press : m .press = true) (k_port : m .port = true) (h :
    Apart m s0 s) : Apart m s0 (enterMaintenance s) := by
  unfold enterMaintenance
  try dsimp only
  repeat' first
    | with_reducible assumption
    | with_reducible apply setState_apart
    | with_reducible apply logEvent_apart
    | with_reducible apply stopRun_apart
    | with_reducible apply closeSession_apart
    | with_reducible apply curtainStop_apart
    | with_reducible refine OutApart.next ?_
    | with_reducible exact OutApart.refused
    | with_reducible refine Apart.foldl _ _ ?_ ?_
    | with_reducible refine Apart.ite ?_ ?_
    | with_reducible refine OutApart.ite ?_ ?_
    | (intro _)
    | split
    | with_reducible refine Apart.cue ?_ ?_
    | with_reducible refine Apart.cls ?_ ?_
    | with_reducible refine Apart.sched ?_ ?_
    | with_reducible refine Apart.cog ?_ ?_
    | with_reducible refine Apart.mem ?_ ?_
    | with_reducible apply Apart.record
    | with_reducible exact Or.inr rfl
    | with_reducible (refine Or.inl ?_)

theorem boundary_apart {m : Field → Bool} {s0 s : State} {a1 a2 a3} (k_fuses : m .fuses = true) (k_dev : m .dev = true) (k_upd :
    m .upd = true) (k_forme : m .forme = true) (k_cue : m .cue = true) (k_log : m .log = true) (k_units : m .units = true)
    (k_cur : m .cur = true) (k_cls : m .cls = true) (k_sched : m .sched = true) (k_cog : m .cog = true) (k_part : m .part =
    true) (k_accts : m .accts = true) (k_mem : m .mem = true) (k_press : m .press = true) (k_ing : m .ing = true) (k_port : m
    .port = true) (k_gov : m .gov = true) (h : Apart m s0 s) : Apart m s0 (boundary a1 a2 a3 s) := by
  unfold boundary
  try dsimp only
  repeat' first
    | with_reducible assumption
    | with_reducible apply strikeOverdue_apart
    | with_reducible apply pairDetections_apart
    | with_reducible apply holdAtBoundary_apart
    | with_reducible apply returnUnits_apart
    | with_reducible apply closeDigests_apart
    | with_reducible apply stopAtBoundary_apart
    | with_reducible apply beginInvalid_apart
    | with_reducible apply placeBoundary_apart
    | with_reducible apply afterBoundary_apart
    | with_reducible apply answerMaint_apart
    | with_reducible apply enterMaintenance_apart
    | with_reducible apply closeCue_apart
    | with_reducible refine Apart.fst ?_ (by assumption)
    | with_reducible refine OutApart.next ?_
    | with_reducible exact OutApart.refused
    | with_reducible refine Apart.foldl _ _ ?_ ?_
    | with_reducible refine Apart.ite ?_ ?_
    | with_reducible refine OutApart.ite ?_ ?_
    | (intro _)
    | split

theorem failPair_apart {m : Field → Bool} {s0 s : State} (k_cur : m .cur = true) (h : Apart m s0 s) : Apart m s0 (failPair s) :=
    by
  unfold failPair
  try dsimp only
  repeat' first
    | with_reducible assumption
    | with_reducible refine OutApart.next ?_
    | with_reducible exact OutApart.refused
    | with_reducible refine Apart.foldl _ _ ?_ ?_
    | with_reducible refine Apart.ite ?_ ?_
    | with_reducible refine OutApart.ite ?_ ?_
    | (intro _)
    | split
    | with_reducible refine Apart.cur ?_ ?_

end Sys2Proof.Machine
end

