-- ==== Sys2Proof/Laws/ApartCue.lean ====
section
/-! SUPPORT. Frames of the operations of Machine/Cue.lean. -/

namespace Sys2Proof.Machine

theorem acceptEdge_apart {m : Field → Bool} {s0 s : State} {a1 a2} (k_fuses : m .fuses = true) (k_dev : m .dev = true) (k_upd :
    m .upd = true) (k_forme : m .forme = true) (k_cue : m .cue = true) (k_log : m .log = true) (k_units : m .units = true)
    (k_cur : m .cur = true) (k_cls : m .cls = true) (k_sched : m .sched = true) (k_cog : m .cog = true) (k_part : m .part =
    true) (k_accts : m .accts = true) (k_mem : m .mem = true) (k_press : m .press = true) (k_ing : m .ing = true) (k_port : m
    .port = true) (k_gov : m .gov = true) (h : Apart m s0 s) : Apart m s0 (acceptEdge a1 a2 s) := by
  unfold acceptEdge
  try dsimp only
  repeat' first
    | with_reducible assumption
    | with_reducible apply logEvent_apart
    | with_reducible apply boundary_apart
    | with_reducible refine OutApart.next ?_
    | with_reducible exact OutApart.refused
    | with_reducible refine Apart.foldl _ _ ?_ ?_
    | with_reducible refine Apart.ite ?_ ?_
    | with_reducible refine OutApart.ite ?_ ?_
    | (intro _)
    | split
    | with_reducible refine Apart.cue ?_ ?_

theorem placeBatch_apart {m : Field → Bool} {s0 s : State} {a1} (k_mem : m .mem = true) (h : Apart m s0 s) : Apart m s0
    (placeBatch a1 s) := by
  unfold placeBatch
  try dsimp only
  repeat' first
    | with_reducible assumption
    | with_reducible apply devWrite_apart
    | with_reducible refine OutApart.next ?_
    | with_reducible exact OutApart.refused
    | with_reducible refine Apart.foldl _ _ ?_ ?_
    | with_reducible refine Apart.ite ?_ ?_
    | with_reducible refine OutApart.ite ?_ ?_
    | (intro _)
    | split

theorem closeBatch_apart {m : Field → Bool} {s0 s : State} (k_cue : m .cue = true) (k_mem : m .mem = true) (k_ing : m .ing =
    true) (h : Apart m s0 s) : Apart m s0 (closeBatch s) := by
  unfold closeBatch
  try dsimp only
  repeat' first
    | with_reducible assumption
    | with_reducible apply placeBatch_apart
    | with_reducible refine OutApart.next ?_
    | with_reducible exact OutApart.refused
    | with_reducible refine Apart.foldl _ _ ?_ ?_
    | with_reducible refine Apart.ite ?_ ?_
    | with_reducible refine OutApart.ite ?_ ?_
    | (intro _)
    | split
    | with_reducible refine Apart.cue ?_ ?_
    | with_reducible refine Apart.ing ?_ ?_
    | with_reducible apply Apart.record
    | with_reducible exact Or.inr rfl
    | with_reducible (refine Or.inl ?_)

theorem cueFault_apart {m : Field → Bool} {s0 s : State} {a1 a2} (k_cue : m .cue = true) (k_log : m .log = true) (h : Apart m s0
    s) : Apart m s0 (cueFault a1 a2 s) := by
  unfold cueFault
  try dsimp only
  repeat' first
    | with_reducible assumption
    | with_reducible apply noteSeen_apart
    | with_reducible apply logEvent_apart
    | with_reducible refine OutApart.next ?_
    | with_reducible exact OutApart.refused
    | with_reducible refine Apart.foldl _ _ ?_ ?_
    | with_reducible refine Apart.ite ?_ ?_
    | with_reducible refine OutApart.ite ?_ ?_
    | (intro _)
    | split
    | with_reducible refine Apart.cue ?_ ?_

theorem decidePair_apart {m : Field → Bool} {s0 s : State} (k_cur : m .cur = true) (h : Apart m s0 s) : Apart m s0 (decidePair
    s) := by
  unfold decidePair
  try dsimp only
  repeat' first
    | with_reducible assumption
    | with_reducible refine OutApart.next ?_
    | with_reducible exact OutApart.refused
    | with_reducible refine Apart.foldl _ _ ?_ ?_
    | with_reducible refine Apart.ite ?_ ?_
    | with_reducible refine OutApart.ite ?_ ?_
    | (intro _)
    | split
    | with_reducible refine Apart.cur ?_ ?_

theorem endCompare_apart {m : Field → Bool} {s0 s : State} (k_cue : m .cue = true) (h : Apart m s0 s) : Apart m s0 (endCompare
    s) := by
  unfold endCompare
  try dsimp only
  repeat' first
    | with_reducible assumption
    | with_reducible refine OutApart.next ?_
    | with_reducible exact OutApart.refused
    | with_reducible refine Apart.foldl _ _ ?_ ?_
    | with_reducible refine Apart.ite ?_ ?_
    | with_reducible refine OutApart.ite ?_ ?_
    | (intro _)
    | split
    | with_reducible refine Apart.cue ?_ ?_

theorem execClassificationRepeatVerdict_apart {m : Field → Bool} {s0 s : State} {a1 a2} (k_dev : m .dev = true) (k_upd : m .upd
    = true) (k_cue : m .cue = true) (k_log : m .log = true) (k_units : m .units = true) (k_cur : m .cur = true) (k_cls : m .cls
    = true) (k_sched : m .sched = true) (k_part : m .part = true) (k_accts : m .accts = true) (k_mem : m .mem = true) (k_press :
    m .press = true) (k_port : m .port = true) (k_gov : m .gov = true) (h : Apart m s0 s) : OutApart m s0
    (execClassificationRepeatVerdict a1 a2 s) := by
  unfold execClassificationRepeatVerdict
  try dsimp only
  repeat' first
    | with_reducible assumption
    | with_reducible apply State.at_apart
    | with_reducible apply countFaultCue_apart
    | with_reducible apply logEvent_apart
    | with_reducible apply railSeen_apart
    | with_reducible apply endClass_apart
    | with_reducible apply setClass_apart
    | with_reducible apply countTransient_apart
    | with_reducible refine OutApart.next ?_
    | with_reducible exact OutApart.refused
    | with_reducible refine Apart.foldl _ _ ?_ ?_
    | with_reducible refine Apart.ite ?_ ?_
    | with_reducible refine OutApart.ite ?_ ?_
    | (intro _)
    | split
    | with_reducible refine Apart.cls ?_ ?_

theorem startClass_apart {m : Field → Bool} {s0 s : State} {a1} (k_log : m .log = true) (k_cls : m .cls = true) (k_sched : m
    .sched = true) (h : Apart m s0 s) : Apart m s0 (startClass a1 s) := by
  unfold startClass
  try dsimp only
  repeat' first
    | with_reducible assumption
    | with_reducible apply logEvent_apart
    | with_reducible apply formRun_apart
    | with_reducible refine OutApart.next ?_
    | with_reducible exact OutApart.refused
    | with_reducible refine Apart.foldl _ _ ?_ ?_
    | with_reducible refine Apart.ite ?_ ?_
    | with_reducible refine OutApart.ite ?_ ?_
    | (intro _)
    | split
    | with_reducible refine Apart.cls ?_ ?_

theorem mismatch_apart {m : Field → Bool} {s0 s : State} {a1} (k_cue : m .cue = true) (k_log : m .log = true) (k_cur : m .cur =
    true) (k_cls : m .cls = true) (k_sched : m .sched = true) (k_port : m .port = true) (h : Apart m s0 s) : Apart m s0
    (mismatch a1 s) := by
  unfold mismatch
  try dsimp only
  repeat' first
    | with_reducible assumption
    | with_reducible apply detect_apart
    | with_reducible apply logEvent_apart
    | with_reducible apply startClass_apart
    | with_reducible refine OutApart.next ?_
    | with_reducible exact OutApart.refused
    | with_reducible refine Apart.foldl _ _ ?_ ?_
    | with_reducible refine Apart.ite ?_ ?_
    | with_reducible refine OutApart.ite ?_ ?_
    | (intro _)
    | split
    | with_reducible refine Apart.cur ?_ ?_

theorem execComparatorVerdict_apart {m : Field → Bool} {s0 s : State} {a1 a2} (k_dev : m .dev = true) (k_upd : m .upd = true)
    (k_cue : m .cue = true) (k_log : m .log = true) (k_cur : m .cur = true) (k_cls : m .cls = true) (k_sched : m .sched = true)
    (k_port : m .port = true) (h : Apart m s0 s) : OutApart m s0 (execComparatorVerdict a1 a2 s) := by
  unfold execComparatorVerdict
  try dsimp only
  repeat' first
    | with_reducible assumption
    | with_reducible apply State.at_apart
    | with_reducible apply endCompare_apart
    | with_reducible apply logEvent_apart
    | with_reducible apply railSeen_apart
    | with_reducible apply countFaultCue_apart
    | with_reducible apply detect_apart
    | with_reducible apply mismatch_apart
    | with_reducible refine OutApart.next ?_
    | with_reducible exact OutApart.refused
    | with_reducible refine Apart.foldl _ _ ?_ ?_
    | with_reducible refine Apart.ite ?_ ?_
    | with_reducible refine OutApart.ite ?_ ?_
    | (intro _)
    | split
    | with_reducible refine Apart.cur ?_ ?_

theorem execComparisonStart_apart {m : Field → Bool} {s0 s : State} {a1} (k_cue : m .cue = true) (h : Apart m s0 s) : OutApart m
    s0 (execComparisonStart a1 s) := by
  unfold execComparisonStart
  try dsimp only
  repeat' first
    | with_reducible assumption
    | with_reducible apply State.at_apart
    | with_reducible refine OutApart.next ?_
    | with_reducible exact OutApart.refused
    | with_reducible refine Apart.foldl _ _ ?_ ?_
    | with_reducible refine Apart.ite ?_ ?_
    | with_reducible refine OutApart.ite ?_ ?_
    | (intro _)
    | split
    | with_reducible refine Apart.cue ?_ ?_

theorem execCueInEdge_apart {m : Field → Bool} {s0 s : State} {a1 a2 a3 a4} (k_fuses : m .fuses = true) (k_dev : m .dev = true)
    (k_upd : m .upd = true) (k_forme : m .forme = true) (k_cue : m .cue = true) (k_log : m .log = true) (k_units : m .units =
    true) (k_cur : m .cur = true) (k_cls : m .cls = true) (k_sched : m .sched = true) (k_cog : m .cog = true) (k_part : m .part
    = true) (k_accts : m .accts = true) (k_mem : m .mem = true) (k_press : m .press = true) (k_ing : m .ing = true) (k_port : m
    .port = true) (k_gov : m .gov = true) (h : Apart m s0 s) : OutApart m s0 (execCueInEdge a1 a2 a3 a4 s) := by
  unfold execCueInEdge
  try dsimp only
  repeat' first
    | with_reducible assumption
    | with_reducible apply State.at_apart
    | with_reducible apply boundary_apart
    | with_reducible apply cueFault_apart
    | with_reducible apply acceptEdge_apart
    | with_reducible refine OutApart.next ?_
    | with_reducible exact OutApart.refused
    | with_reducible refine Apart.foldl _ _ ?_ ?_
    | with_reducible refine Apart.ite ?_ ?_
    | with_reducible refine OutApart.ite ?_ ?_
    | (intro _)
    | split
    | with_reducible refine Apart.cue ?_ ?_

theorem execCueInMissing_apart {m : Field → Bool} {s0 s : State} {a1 a2} (k_fuses : m .fuses = true) (k_dev : m .dev = true)
    (k_upd : m .upd = true) (k_forme : m .forme = true) (k_cue : m .cue = true) (k_log : m .log = true) (k_units : m .units =
    true) (k_cur : m .cur = true) (k_cls : m .cls = true) (k_sched : m .sched = true) (k_cog : m .cog = true) (k_part : m .part
    = true) (k_accts : m .accts = true) (k_mem : m .mem = true) (k_press : m .press = true) (k_ing : m .ing = true) (k_port : m
    .port = true) (k_gov : m .gov = true) (h : Apart m s0 s) : OutApart m s0 (execCueInMissing a1 a2 s) := by
  unfold execCueInMissing
  try dsimp only
  repeat' first
    | with_reducible assumption
    | with_reducible apply State.at_apart
    | with_reducible apply boundary_apart
    | with_reducible apply logEvent_apart
    | with_reducible apply cueFault_apart
    | with_reducible refine OutApart.next ?_
    | with_reducible exact OutApart.refused
    | with_reducible refine Apart.foldl _ _ ?_ ?_
    | with_reducible refine Apart.ite ?_ ?_
    | with_reducible refine OutApart.ite ?_ ?_
    | (intro _)
    | split

theorem requireSlots_apart {m : Field → Bool} {s0 s : State} (k_cue : m .cue = true) (k_log : m .log = true) (k_units : m .units
    = true) (k_cur : m .cur = true) (k_sched : m .sched = true) (k_part : m .part = true) (k_accts : m .accts = true) (k_mem : m
    .mem = true) (k_press : m .press = true) (k_port : m .port = true) (k_gov : m .gov = true) (h : Apart m s0 s) : Apart m s0
    (requireSlots s) := by
  unfold requireSlots
  try dsimp only
  repeat' first
    | with_reducible assumption
    | with_reducible apply logEvent_apart
    | with_reducible apply endSafety_apart
    | with_reducible apply failPair_apart
    | with_reducible apply detect_apart
    | with_reducible refine OutApart.next ?_
    | with_reducible exact OutApart.refused
    | with_reducible refine Apart.foldl _ _ ?_ ?_
    | with_reducible refine Apart.ite ?_ ?_
    | with_reducible refine OutApart.ite ?_ ?_
    | (intro _)
    | split

theorem execIngestCutoff_apart {m : Field → Bool} {s0 s : State} {a1} (k_cue : m .cue = true) (k_log : m .log = true) (k_units :
    m .units = true) (k_cur : m .cur = true) (k_sched : m .sched = true) (k_part : m .part = true) (k_accts : m .accts = true)
    (k_mem : m .mem = true) (k_press : m .press = true) (k_ing : m .ing = true) (k_port : m .port = true) (k_gov : m .gov =
    true) (h : Apart m s0 s) : OutApart m s0 (execIngestCutoff a1 s) := by
  unfold execIngestCutoff
  try dsimp only
  repeat' first
    | with_reducible assumption
    | with_reducible apply State.at_apart
    | with_reducible apply closeBatch_apart
    | with_reducible apply requireSlots_apart
    | with_reducible refine OutApart.next ?_
    | with_reducible exact OutApart.refused
    | with_reducible refine Apart.foldl _ _ ?_ ?_
    | with_reducible refine Apart.ite ?_ ?_
    | with_reducible refine OutApart.ite ?_ ?_
    | (intro _)
    | split

theorem markAligned_apart {m : Field → Bool} {s0 s : State} {a1} (k_cue : m .cue = true) (h : Apart m s0 s) : Apart m s0
    (markAligned a1 s) := by
  unfold markAligned
  try dsimp only
  repeat' first
    | with_reducible assumption
    | with_reducible refine OutApart.next ?_
    | with_reducible exact OutApart.refused
    | with_reducible refine Apart.foldl _ _ ?_ ?_
    | with_reducible refine Apart.ite ?_ ?_
    | with_reducible refine OutApart.ite ?_ ?_
    | (intro _)
    | split
    | with_reducible refine Apart.cue ?_ ?_

theorem execInternalCueBoundary_apart {m : Field → Bool} {s0 s : State} {a1 a2} (k_fuses : m .fuses = true) (k_dev : m .dev =
    true) (k_upd : m .upd = true) (k_forme : m .forme = true) (k_cue : m .cue = true) (k_log : m .log = true) (k_units : m
    .units = true) (k_cur : m .cur = true) (k_cls : m .cls = true) (k_sched : m .sched = true) (k_cog : m .cog = true) (k_part :
    m .part = true) (k_accts : m .accts = true) (k_mem : m .mem = true) (k_press : m .press = true) (k_ing : m .ing = true)
    (k_port : m .port = true) (k_gov : m .gov = true) (h : Apart m s0 s) : OutApart m s0 (execInternalCueBoundary a1 a2 s) := by
  unfold execInternalCueBoundary
  try dsimp only
  repeat' first
    | with_reducible assumption
    | with_reducible apply State.at_apart
    | with_reducible apply boundary_apart
    | with_reducible apply markAligned_apart
    | with_reducible refine OutApart.next ?_
    | with_reducible exact OutApart.refused
    | with_reducible refine Apart.foldl _ _ ?_ ?_
    | with_reducible refine Apart.ite ?_ ?_
    | with_reducible refine OutApart.ite ?_ ?_
    | (intro _)
    | split

theorem suspendSlices_apart {m : Field → Bool} {s0 s : State} {a1 a2} (k_sched : m .sched = true) (h : Apart m s0 s) : Apart m
    s0 (suspendSlices a1 a2 s) := by
  unfold suspendSlices
  try dsimp only
  repeat' first
    | with_reducible assumption
    | with_reducible apply suspendSlice_apart
    | with_reducible refine OutApart.next ?_
    | with_reducible exact OutApart.refused
    | with_reducible refine Apart.foldl _ _ ?_ ?_
    | with_reducible refine Apart.ite ?_ ?_
    | with_reducible refine OutApart.ite ?_ ?_
    | (intro _)
    | split

theorem execLminMark_apart {m : Field → Bool} {s0 s : State} {a1} (k_cue : m .cue = true) (k_sched : m .sched = true) (h : Apart
    m s0 s) : OutApart m s0 (execLminMark a1 s) := by
  unfold execLminMark
  try dsimp only
  repeat' first
    | with_reducible assumption
    | with_reducible apply State.at_apart
    | with_reducible apply suspendSlices_apart
    | with_reducible refine OutApart.next ?_
    | with_reducible exact OutApart.refused
    | with_reducible refine Apart.foldl _ _ ?_ ?_
    | with_reducible refine Apart.ite ?_ ?_
    | with_reducible refine OutApart.ite ?_ ?_
    | (intro _)
    | split
    | with_reducible refine Apart.cue ?_ ?_

theorem reportClass_apart {m : Field → Bool} {s0 s : State} {a1 a2} (k_cls : m .cls = true) (h : Apart m s0 s) : Apart m s0
    (reportClass a1 a2 s) := by
  unfold reportClass
  try dsimp only
  repeat' first
    | with_reducible assumption
    | with_reducible refine OutApart.next ?_
    | with_reducible exact OutApart.refused
    | with_reducible refine Apart.foldl _ _ ?_ ?_
    | with_reducible refine Apart.ite ?_ ?_
    | with_reducible refine OutApart.ite ?_ ?_
    | (intro _)
    | split
    | with_reducible refine Apart.cls ?_ ?_

theorem proofPassed_apart {m : Field → Bool} {s0 s : State} {a1} (k_log : m .log = true) (k_units : m .units = true) (k_cur : m
    .cur = true) (k_cls : m .cls = true) (k_sched : m .sched = true) (k_part : m .part = true) (k_accts : m .accts = true)
    (k_mem : m .mem = true) (k_press : m .press = true) (k_gov : m .gov = true) (h : Apart m s0 s) : Apart m s0 (proofPassed a1
    s) := by
  unfold proofPassed
  try dsimp only
  repeat' first
    | with_reducible assumption
    | with_reducible apply reportClass_apart
    | with_reducible apply State.modUnit_apart
    | with_reducible apply countTransient_apart
    | with_reducible apply logEvent_apart
    | with_reducible refine OutApart.next ?_
    | with_reducible exact OutApart.refused
    | with_reducible refine Apart.foldl _ _ ?_ ?_
    | with_reducible refine Apart.ite ?_ ?_
    | with_reducible refine OutApart.ite ?_ ?_
    | (intro _)
    | split

theorem failSectors_apart {m : Field → Bool} {s0 s : State} {a1} (k_cue : m .cue = true) (k_units : m .units = true) (k_cur : m
    .cur = true) (k_sched : m .sched = true) (h : Apart m s0 s) : Apart m s0 (failSectors a1 s) := by
  unfold failSectors
  try dsimp only
  repeat' first
    | with_reducible assumption
    | with_reducible apply State.modUnit_apart
    | with_reducible apply failPair_apart
    | with_reducible apply invalidate_apart
    | with_reducible refine OutApart.next ?_
    | with_reducible exact OutApart.refused
    | with_reducible refine Apart.foldl _ _ ?_ ?_
    | with_reducible refine Apart.ite ?_ ?_
    | with_reducible refine OutApart.ite ?_ ?_
    | (intro _)
    | split

theorem proofFailed_apart {m : Field → Bool} {s0 s : State} {a1 a2} (k_cue : m .cue = true) (k_log : m .log = true) (k_units : m
    .units = true) (k_cur : m .cur = true) (k_cls : m .cls = true) (k_sched : m .sched = true) (k_part : m .part = true)
    (k_accts : m .accts = true) (k_mem : m .mem = true) (k_press : m .press = true) (k_port : m .port = true) (k_gov : m .gov =
    true) (h : Apart m s0 s) : Apart m s0 (proofFailed a1 a2 s) := by
  unfold proofFailed
  try dsimp only
  repeat' first
    | with_reducible assumption
    | with_reducible apply State.modUnit_apart
    | with_reducible apply logEvent_apart
    | with_reducible apply failPair_apart
    | with_reducible apply detect_apart
    | with_reducible apply setClass_apart
    | with_reducible apply reportClass_apart
    | with_reducible apply strike_apart
    | with_reducible refine OutApart.next ?_
    | with_reducible exact OutApart.refused
    | with_reducible refine Apart.foldl _ _ ?_ ?_
    | with_reducible refine Apart.ite ?_ ?_
    | with_reducible refine OutApart.ite ?_ ?_
    | (intro _)
    | split

theorem markProof_apart {m : Field → Bool} {s0 s : State} (k_cue : m .cue = true) (h : Apart m s0 s) : Apart m s0 (markProof s)
    := by
  unfold markProof
  try dsimp only
  repeat' first
    | with_reducible assumption
    | with_reducible refine OutApart.next ?_
    | with_reducible exact OutApart.refused
    | with_reducible refine Apart.foldl _ _ ?_ ?_
    | with_reducible refine Apart.ite ?_ ?_
    | with_reducible refine OutApart.ite ?_ ?_
    | (intro _)
    | split
    | with_reducible refine Apart.cue ?_ ?_

theorem resolveSectors_apart {m : Field → Bool} {s0 s : State} (k_cue : m .cue = true) (k_log : m .log = true) (k_units : m
    .units = true) (k_cur : m .cur = true) (k_cls : m .cls = true) (k_sched : m .sched = true) (k_part : m .part = true)
    (k_accts : m .accts = true) (k_mem : m .mem = true) (k_press : m .press = true) (k_ing : m .ing = true) (k_port : m .port =
    true) (k_gov : m .gov = true) (h : Apart m s0 s) : Apart m s0 (resolveSectors s) := by
  unfold resolveSectors
  try dsimp only
  repeat' first
    | with_reducible assumption
    | with_reducible apply failAttempt_apart
    | with_reducible apply logEvent_apart
    | with_reducible apply failPair_apart
    | with_reducible apply detect_apart
    | with_reducible apply strike_apart
    | with_reducible apply passCheck_apart
    | with_reducible apply State.modUnit_apart
    | with_reducible apply proofPassed_apart
    | with_reducible apply proofFailed_apart
    | with_reducible refine OutApart.next ?_
    | with_reducible exact OutApart.refused
    | with_reducible refine Apart.foldl _ _ ?_ ?_
    | with_reducible refine Apart.ite ?_ ?_
    | with_reducible refine OutApart.ite ?_ ?_
    | (intro _)
    | split

theorem execProofPassEnd_apart {m : Field → Bool} {s0 s : State} {a1 a2 a3 a4} (k_cue : m .cue = true) (k_log : m .log = true)
    (k_units : m .units = true) (k_cur : m .cur = true) (k_cls : m .cls = true) (k_sched : m .sched = true) (k_part : m .part =
    true) (k_accts : m .accts = true) (k_mem : m .mem = true) (k_press : m .press = true) (k_ing : m .ing = true) (k_port : m
    .port = true) (k_gov : m .gov = true) (h : Apart m s0 s) : OutApart m s0 (execProofPassEnd a1 a2 a3 a4 s) := by
  unfold execProofPassEnd
  try dsimp only
  repeat' first
    | with_reducible assumption
    | with_reducible apply State.at_apart
    | with_reducible apply proofPassed_apart
    | with_reducible apply failSectors_apart
    | with_reducible apply State.modUnit_apart
    | with_reducible apply proofFailed_apart
    | with_reducible apply markProof_apart
    | with_reducible apply settleClasses_apart
    | with_reducible apply resolveSectors_apart
    | with_reducible refine OutApart.next ?_
    | with_reducible exact OutApart.refused
    | with_reducible refine Apart.foldl _ _ ?_ ?_
    | with_reducible refine Apart.ite ?_ ?_
    | with_reducible refine OutApart.ite ?_ ?_
    | (intro _)
    | split

theorem execProofReservationExpiry_apart {m : Field → Bool} {s0 s : State} {a1 a2} (k_cue : m .cue = true) (k_log : m .log =
    true) (k_units : m .units = true) (k_cur : m .cur = true) (k_cls : m .cls = true) (k_sched : m .sched = true) (k_part : m
    .part = true) (k_accts : m .accts = true) (k_mem : m .mem = true) (k_press : m .press = true) (k_ing : m .ing = true)
    (k_port : m .port = true) (k_gov : m .gov = true) (h : Apart m s0 s) : OutApart m s0 (execProofReservationExpiry a1 a2 s) :=
    by
  unfold execProofReservationExpiry
  try dsimp only
  repeat' first
    | with_reducible assumption
    | with_reducible apply State.at_apart
    | with_reducible apply markProof_apart
    | with_reducible apply settleClasses_apart
    | with_reducible apply resolveSectors_apart
    | with_reducible apply proofFailed_apart
    | with_reducible apply logEvent_apart
    | with_reducible refine OutApart.next ?_
    | with_reducible exact OutApart.refused
    | with_reducible refine Apart.foldl _ _ ?_ ?_
    | with_reducible refine Apart.ite ?_ ?_
    | with_reducible refine OutApart.ite ?_ ?_
    | (intro _)
    | split

theorem goLate_apart {m : Field → Bool} {s0 s : State} {a1 a2 a3} (k_cue : m .cue = true) (k_log : m .log = true) (k_units : m
    .units = true) (k_cur : m .cur = true) (k_sched : m .sched = true) (k_part : m .part = true) (k_accts : m .accts = true)
    (k_mem : m .mem = true) (k_press : m .press = true) (k_port : m .port = true) (k_gov : m .gov = true) (h : Apart m s0 s) :
    Apart m s0 (goLate a1 a2 a3 s) := by
  unfold goLate
  try dsimp only
  repeat' first
    | with_reducible assumption
    | with_reducible apply noteSeen_apart
    | with_reducible apply logEvent_apart
    | with_reducible apply endSafety_apart
    | with_reducible apply failPair_apart
    | with_reducible apply detect_apart
    | with_reducible refine OutApart.next ?_
    | with_reducible exact OutApart.refused
    | with_reducible refine Apart.foldl _ _ ?_ ?_
    | with_reducible refine Apart.ite ?_ ?_
    | with_reducible refine OutApart.ite ?_ ?_
    | (intro _)
    | split
    | with_reducible refine Apart.cue ?_ ?_

theorem publish_apart {m : Field → Bool} {s0 s : State} {a1} (k_port : m .port = true) (h : Apart m s0 s) : Apart m s0 (publish
    a1 s) := by
  unfold publish
  try dsimp only
  repeat' first
    | with_reducible assumption
    | with_reducible apply originate_apart
    | with_reducible apply irq_apart
    | with_reducible refine OutApart.next ?_
    | with_reducible exact OutApart.refused
    | with_reducible refine Apart.foldl _ _ ?_ ?_
    | with_reducible refine Apart.ite ?_ ?_
    | with_reducible refine OutApart.ite ?_ ?_
    | (intro _)
    | split
    | with_reducible refine Apart.port ?_ ?_

theorem runCurtain_apart {m : Field → Bool} {s0 s : State} (k_log : m .log = true) (k_cur : m .cur = true) (k_port : m .port =
    true) (h : Apart m s0 s) : Apart m s0 (runCurtain s) := by
  unfold runCurtain
  try dsimp only
  repeat' first
    | with_reducible assumption
    | with_reducible apply irq_apart
    | with_reducible apply logEvent_apart
    | with_reducible refine OutApart.next ?_
    | with_reducible exact OutApart.refused
    | with_reducible refine Apart.foldl _ _ ?_ ?_
    | with_reducible refine Apart.ite ?_ ?_
    | with_reducible refine OutApart.ite ?_ ?_
    | (intro _)
    | split
    | with_reducible refine Apart.cur ?_ ?_

theorem execPublishDeadline_apart {m : Field → Bool} {s0 s : State} {a1} (k_cue : m .cue = true) (k_log : m .log = true)
    (k_units : m .units = true) (k_cur : m .cur = true) (k_sched : m .sched = true) (k_cog : m .cog = true) (k_part : m .part =
    true) (k_accts : m .accts = true) (k_mem : m .mem = true) (k_press : m .press = true) (k_port : m .port = true) (k_gov : m
    .gov = true) (h : Apart m s0 s) : OutApart m s0 (execPublishDeadline a1 s) := by
  unfold execPublishDeadline
  try dsimp only
  repeat' first
    | with_reducible assumption
    | with_reducible apply State.at_apart
    | with_reducible apply goLate_apart
    | with_reducible apply loseValue_apart
    | with_reducible apply failPair_apart
    | with_reducible apply invalidate_apart
    | with_reducible apply publish_apart
    | with_reducible apply runCurtain_apart
    | with_reducible refine OutApart.next ?_
    | with_reducible exact OutApart.refused
    | with_reducible refine Apart.foldl _ _ ?_ ?_
    | with_reducible refine Apart.ite ?_ ?_
    | with_reducible refine OutApart.ite ?_ ?_
    | (intro _)
    | split
    | with_reducible refine Apart.cue ?_ ?_

theorem execWindowEnd_apart {m : Field → Bool} {s0 s : State} {a1 a2} (k_cue : m .cue = true) (k_log : m .log = true) (k_units :
    m .units = true) (k_cur : m .cur = true) (k_sched : m .sched = true) (k_part : m .part = true) (k_accts : m .accts = true)
    (k_mem : m .mem = true) (k_press : m .press = true) (k_port : m .port = true) (k_gov : m .gov = true) (h : Apart m s0 s) :
    OutApart m s0 (execWindowEnd a1 a2 s) := by
  unfold execWindowEnd
  try dsimp only
  repeat' first
    | with_reducible assumption
    | with_reducible apply State.at_apart
    | with_reducible apply unlockPages_apart
    | with_reducible apply goLate_apart
    | with_reducible apply decidePair_apart
    | with_reducible refine OutApart.next ?_
    | with_reducible exact OutApart.refused
    | with_reducible refine Apart.foldl _ _ ?_ ?_
    | with_reducible refine Apart.ite ?_ ?_
    | with_reducible refine OutApart.ite ?_ ?_
    | (intro _)
    | split
    | with_reducible refine Apart.cue ?_ ?_

theorem lockWindow_apart {m : Field → Bool} {s0 s : State} (k_mem : m .mem = true) (h : Apart m s0 s) : Apart m s0 (lockWindow
    s) := by
  unfold lockWindow
  try dsimp only
  repeat' first
    | with_reducible assumption
    | with_reducible apply lockPages_apart
    | with_reducible refine OutApart.next ?_
    | with_reducible exact OutApart.refused
    | with_reducible refine Apart.foldl _ _ ?_ ?_
    | with_reducible refine Apart.ite ?_ ?_
    | with_reducible refine OutApart.ite ?_ ?_
    | (intro _)
    | split

theorem execWindowStart_apart {m : Field → Bool} {s0 s : State} {a1 a2} (k_log : m .log = true) (k_units : m .units = true)
    (k_sched : m .sched = true) (k_part : m .part = true) (k_accts : m .accts = true) (k_mem : m .mem = true) (k_press : m
    .press = true) (k_gov : m .gov = true) (h : Apart m s0 s) : OutApart m s0 (execWindowStart a1 a2 s) := by
  unfold execWindowStart
  try dsimp only
  repeat' first
    | with_reducible assumption
    | with_reducible apply State.at_apart
    | with_reducible apply lockWindow_apart
    | with_reducible apply suspendSlices_apart
    | with_reducible apply killWhere_apart
    | with_reducible refine OutApart.next ?_
    | with_reducible exact OutApart.refused
    | with_reducible refine Apart.foldl _ _ ?_ ?_
    | with_reducible refine Apart.ite ?_ ?_
    | with_reducible refine OutApart.ite ?_ ?_
    | (intro _)
    | split

end Sys2Proof.Machine
end

