-- ==== Sys2Proof/Laws/ApartCurtain.lean ====
section
/-! SUPPORT. Frames of the operations of Machine/Curtain.lean. -/

namespace Sys2Proof.Machine

theorem execCurtainWatchdogExpiry_apart {m : Field → Bool} {s0 s : State} {a1} (k_cue : m .cue = true) (k_log : m .log = true)
    (k_cur : m .cur = true) (k_sched : m .sched = true) (k_port : m .port = true) (h : Apart m s0 s) : OutApart m s0
    (execCurtainWatchdogExpiry a1 s) := by
  unfold execCurtainWatchdogExpiry
  try dsimp only
  repeat' first
    | with_reducible assumption
    | with_reducible apply State.at_apart
    | with_reducible apply detect_apart
    | with_reducible refine OutApart.next ?_
    | with_reducible exact OutApart.refused
    | with_reducible refine Apart.foldl _ _ ?_ ?_
    | with_reducible refine Apart.ite ?_ ?_
    | with_reducible refine OutApart.ite ?_ ?_
    | (intro _)
    | split

theorem execOscillatorMonitorCount_apart {m : Field → Bool} {s0 s : State} {a1 a2} (k_cue : m .cue = true) (k_log : m .log =
    true) (k_cur : m .cur = true) (k_sched : m .sched = true) (k_port : m .port = true) (h : Apart m s0 s) : OutApart m s0
    (execOscillatorMonitorCount a1 a2 s) := by
  unfold execOscillatorMonitorCount
  try dsimp only
  repeat' first
    | with_reducible assumption
    | with_reducible apply State.at_apart
    | with_reducible apply detect_apart
    | with_reducible apply logEvent_apart
    | with_reducible refine OutApart.next ?_
    | with_reducible exact OutApart.refused
    | with_reducible refine Apart.foldl _ _ ?_ ?_
    | with_reducible refine Apart.ite ?_ ?_
    | with_reducible refine OutApart.ite ?_ ?_
    | (intro _)
    | split
    | with_reducible refine Apart.cur ?_ ?_

theorem execStageManagerLockstepMismatch_apart {m : Field → Bool} {s0 s : State} {a1} (k_dev : m .dev = true) (k_upd : m .upd =
    true) (k_cue : m .cue = true) (k_log : m .log = true) (k_cur : m .cur = true) (k_sched : m .sched = true) (k_port : m .port
    = true) (h : Apart m s0 s) : OutApart m s0 (execStageManagerLockstepMismatch a1 s) := by
  unfold execStageManagerLockstepMismatch
  try dsimp only
  repeat' first
    | with_reducible assumption
    | with_reducible apply State.at_apart
    | with_reducible apply deviceFault_apart
    | with_reducible apply detect_apart
    | with_reducible apply logEvent_apart
    | with_reducible refine OutApart.next ?_
    | with_reducible exact OutApart.refused
    | with_reducible refine Apart.foldl _ _ ?_ ?_
    | with_reducible refine Apart.ite ?_ ?_
    | with_reducible refine OutApart.ite ?_ ?_
    | (intro _)
    | split

theorem execStageManagerWatchdogExpiry_apart {m : Field → Bool} {s0 s : State} {a1} (k_dev : m .dev = true) (k_upd : m .upd =
    true) (k_cue : m .cue = true) (k_log : m .log = true) (k_cur : m .cur = true) (k_sched : m .sched = true) (k_port : m .port
    = true) (h : Apart m s0 s) : OutApart m s0 (execStageManagerWatchdogExpiry a1 s) := by
  unfold execStageManagerWatchdogExpiry
  try dsimp only
  repeat' first
    | with_reducible assumption
    | with_reducible apply State.at_apart
    | with_reducible apply deviceFault_apart
    | with_reducible apply detect_apart
    | with_reducible apply logEvent_apart
    | with_reducible refine OutApart.next ?_
    | with_reducible exact OutApart.refused
    | with_reducible refine Apart.foldl _ _ ?_ ?_
    | with_reducible refine Apart.ite ?_ ?_
    | with_reducible refine OutApart.ite ?_ ?_
    | (intro _)
    | split

end Sys2Proof.Machine
end

