-- ==== Sys2Proof/Laws/ApartMessages.lean ====
section
/-! SUPPORT. Frames of the operations of Machine/Messages.lean. -/

namespace Sys2Proof.Machine

theorem refuse_apart {m : Field → Bool} {s0 s : State} {a1 a2} (k_port : m .port = true) (h : Apart m s0 s) : Apart m s0 (refuse
    a1 a2 s) := by
  unfold refuse
  try dsimp only
  repeat' first
    | with_reducible assumption
    | with_reducible apply reply_apart
    | with_reducible refine OutApart.next ?_
    | with_reducible exact OutApart.refused
    | with_reducible refine Apart.foldl _ _ ?_ ?_
    | with_reducible refine Apart.ite ?_ ?_
    | with_reducible refine OutApart.ite ?_ ?_
    | (intro _)
    | split

theorem abortMessage_apart {m : Field → Bool} {s0 s : State} {a1 a2} (k_log : m .log = true) (k_cog : m .cog = true) (k_port : m
    .port = true) (h : Apart m s0 s) : Apart m s0 (abortMessage a1 a2 s) := by
  unfold abortMessage
  try dsimp only
  repeat' first
    | with_reducible assumption
    | with_reducible apply refuse_apart
    | with_reducible apply abortSession_apart
    | with_reducible refine Apart.snd ?_ (by assumption)
    | with_reducible refine OutApart.next ?_
    | with_reducible exact OutApart.refused
    | with_reducible refine Apart.foldl _ _ ?_ ?_
    | with_reducible refine Apart.ite ?_ ?_
    | with_reducible refine OutApart.ite ?_ ?_
    | (intro _)
    | split

theorem attest_apart {m : Field → Bool} {s0 s : State} {a1} (k_log : m .log = true) (k_port : m .port = true) (h : Apart m s0 s)
    : Apart m s0 (attest a1 s) := by
  unfold attest
  try dsimp only
  repeat' first
    | with_reducible assumption
    | with_reducible apply refuse_apart
    | with_reducible apply logEvent_apart
    | with_reducible apply reply_apart
    | with_reducible refine OutApart.next ?_
    | with_reducible exact OutApart.refused
    | with_reducible refine Apart.foldl _ _ ?_ ?_
    | with_reducible refine Apart.ite ?_ ?_
    | with_reducible refine OutApart.ite ?_ ?_
    | (intro _)
    | split

theorem modPort_apart {m : Field → Bool} {s0 s : State} {a1} (k_port : m .port = true) (h : Apart m s0 s) : Apart m s0 (modPort
    a1 s) := by
  unfold modPort
  try dsimp only
  repeat' first
    | with_reducible assumption
    | with_reducible refine OutApart.next ?_
    | with_reducible exact OutApart.refused
    | with_reducible refine Apart.foldl _ _ ?_ ?_
    | with_reducible refine Apart.ite ?_ ?_
    | with_reducible refine OutApart.ite ?_ ?_
    | (intro _)
    | split
    | with_reducible refine Apart.port ?_ ?_

theorem giveCredit_apart {m : Field → Bool} {s0 s : State} {a1} (k_port : m .port = true) (h : Apart m s0 s) : Apart m s0
    (giveCredit a1 s) := by
  unfold giveCredit
  try dsimp only
  repeat' first
    | with_reducible assumption
    | with_reducible apply irq_apart
    | with_reducible apply modPort_apart
    | with_reducible refine OutApart.next ?_
    | with_reducible exact OutApart.refused
    | with_reducible refine Apart.foldl _ _ ?_ ?_
    | with_reducible refine Apart.ite ?_ ?_
    | with_reducible refine OutApart.ite ?_ ?_
    | (intro _)
    | split

theorem framingFailure_apart {m : Field → Bool} {s0 s : State} {a1 a2 a3 a4} (k_log : m .log = true) (k_port : m .port = true)
    (h : Apart m s0 s) : Apart m s0 (framingFailure a1 a2 a3 a4 s) := by
  unfold framingFailure
  try dsimp only
  repeat' first
    | with_reducible assumption
    | with_reducible apply logEvent_apart
    | with_reducible apply modPort_apart
    | with_reducible apply irq_apart
    | with_reducible apply giveCredit_apart
    | with_reducible apply originate_apart
    | with_reducible refine OutApart.next ?_
    | with_reducible exact OutApart.refused
    | with_reducible refine Apart.foldl _ _ ?_ ?_
    | with_reducible refine Apart.ite ?_ ?_
    | with_reducible refine OutApart.ite ?_ ?_
    | (intro _)
    | split

theorem endMessage_apart {m : Field → Bool} {s0 s : State} {a1 a2} (k_log : m .log = true) (k_port : m .port = true) (h : Apart
    m s0 s) : Apart m s0 (endMessage a1 a2 s) := by
  unfold endMessage
  try dsimp only
  repeat' first
    | with_reducible assumption
    | with_reducible apply framingFailure_apart
    | with_reducible apply modPort_apart
    | with_reducible refine OutApart.next ?_
    | with_reducible exact OutApart.refused
    | with_reducible refine Apart.foldl _ _ ?_ ?_
    | with_reducible refine Apart.ite ?_ ?_
    | with_reducible refine OutApart.ite ?_ ?_
    | (intro _)
    | split

theorem handOn_apart {m : Field → Bool} {s0 s : State} {a1} (k_log : m .log = true) (k_port : m .port = true) (h : Apart m s0 s)
    : Apart m s0 (handOn a1 s).2 := by
  unfold handOn
  try dsimp only
  repeat' first
    | with_reducible assumption
    | with_reducible apply giveCredit_apart
    | with_reducible apply logEvent_apart
    | with_reducible apply modPort_apart
    | with_reducible refine OutApart.next ?_
    | with_reducible exact OutApart.refused
    | with_reducible refine Apart.foldl _ _ ?_ ?_
    | with_reducible refine Apart.ite ?_ ?_
    | with_reducible refine OutApart.ite ?_ ?_
    | (intro _)
    | split

theorem onMessage_apart {m : Field → Bool} {s0 s : State} {a1 : Nat} {a2 : State → Bool} {f : Request → State → State}
    (k_log : m .log = true) (k_port : m .port = true) (h : Apart m s0 s) (hf : ∀ u q, Apart m s0 u → Apart m s0 (f q u)) :
    Apart m s0 (onMessage a1 a2 f s) := by
  unfold onMessage
  split
  · exact h
  · next x _ =>
    have hh := handOn_apart (a1 := x) k_log k_port h
    dsimp only
    repeat' split
    · exact (refuse_apart k_port hh)
    · exact (refuse_apart k_port hh)
    · exact hf _ _ hh

theorem withSession_apart {m : Field → Bool} {s0 s : State} {f : Session → Request → State → State} {q : Request}
    (k_port : m .port = true) (h : Apart m s0 s) (hf : ∀ u x r, Apart m s0 u → Apart m s0 (f x r u)) : Apart m s0 (withSession f q s) := by
  unfold withSession
  split
  · exact (refuse_apart k_port h)
  · exact hf _ _ _ h

theorem execAbort_apart {m : Field → Bool} {s0 s : State} {a1} (k_log : m .log = true) (k_cog : m .cog = true) (k_port : m .port
    = true) (h : Apart m s0 s) : OutApart m s0 (execAbort a1 s) := by
  unfold execAbort
  try dsimp only
  repeat' first
    | with_reducible assumption
    | with_reducible apply State.at_apart
    | with_reducible apply onMessage_apart
    | with_reducible apply withSession_apart
    | with_reducible apply abortMessage_apart
    | with_reducible refine OutApart.next ?_
    | with_reducible exact OutApart.refused
    | with_reducible refine Apart.foldl _ _ ?_ ?_
    | with_reducible refine Apart.ite ?_ ?_
    | with_reducible refine OutApart.ite ?_ ?_
    | (intro _)
    | split

theorem execAttest_apart {m : Field → Bool} {s0 s : State} {a1} (k_log : m .log = true) (k_port : m .port = true) (h : Apart m
    s0 s) : OutApart m s0 (execAttest a1 s) := by
  unfold execAttest
  try dsimp only
  repeat' first
    | with_reducible assumption
    | with_reducible apply State.at_apart
    | with_reducible apply onMessage_apart
    | with_reducible apply attest_apart
    | with_reducible refine OutApart.next ?_
    | with_reducible exact OutApart.refused
    | with_reducible refine Apart.foldl _ _ ?_ ?_
    | with_reducible refine Apart.ite ?_ ?_
    | with_reducible refine OutApart.ite ?_ ?_
    | (intro _)
    | split

theorem execCountersRead_apart {m : Field → Bool} {s0 s : State} {a1} (k_log : m .log = true) (k_port : m .port = true) (h :
    Apart m s0 s) : OutApart m s0 (execCountersRead a1 s) := by
  unfold execCountersRead
  try dsimp only
  repeat' first
    | with_reducible assumption
    | with_reducible apply State.at_apart
    | with_reducible apply onMessage_apart
    | with_reducible apply reply_apart
    | with_reducible refine OutApart.next ?_
    | with_reducible exact OutApart.refused
    | with_reducible refine Apart.foldl _ _ ?_ ?_
    | with_reducible refine Apart.ite ?_ ?_
    | with_reducible refine OutApart.ite ?_ ?_
    | (intro _)
    | split

theorem takeBlock_apart {m : Field → Bool} {s0 s : State} {a1} (k_log : m .log = true) (k_port : m .port = true) (h : Apart m s0
    s) : Apart m s0 (takeBlock a1 s) := by
  unfold takeBlock
  try dsimp only
  repeat' first
    | with_reducible assumption
    | with_reducible apply modPort_apart
    | with_reducible apply giveCredit_apart
    | with_reducible apply framingFailure_apart
    | with_reducible apply endMessage_apart
    | with_reducible refine OutApart.next ?_
    | with_reducible exact OutApart.refused
    | with_reducible refine Apart.foldl _ _ ?_ ?_
    | with_reducible refine Apart.ite ?_ ?_
    | with_reducible refine OutApart.ite ?_ ?_
    | (intro _)
    | split

theorem execF2BlockWrite_apart {m : Field → Bool} {s0 s : State} {a1 a2 a3} (k_log : m .log = true) (k_port : m .port = true) (h
    : Apart m s0 s) : OutApart m s0 (execF2BlockWrite a1 a2 a3 s) := by
  unfold execF2BlockWrite
  try dsimp only
  repeat' first
    | with_reducible assumption
    | with_reducible apply State.at_apart
    | with_reducible apply takeBlock_apart
    | with_reducible refine OutApart.next ?_
    | with_reducible exact OutApart.refused
    | with_reducible refine Apart.foldl _ _ ?_ ?_
    | with_reducible refine Apart.ite ?_ ?_
    | with_reducible refine OutApart.ite ?_ ?_
    | (intro _)
    | split

theorem readBlock_apart {m : Field → Bool} {s0 s : State} (k_port : m .port = true) (h : Apart m s0 s) : Apart m s0 (readBlock
    s).2 := by
  unfold readBlock
  try dsimp only
  repeat' first
    | with_reducible assumption
    | with_reducible apply modPort_apart
    | with_reducible refine OutApart.next ?_
    | with_reducible exact OutApart.refused
    | with_reducible refine Apart.foldl _ _ ?_ ?_
    | with_reducible refine Apart.ite ?_ ?_
    | with_reducible refine OutApart.ite ?_ ?_
    | (intro _)
    | split

theorem readBlocks_apart {m : Field → Bool} {s0 s : State} {a1 : Nat} (k_port : m .port = true)
    (h : Apart m s0 s) : Apart m s0 (readBlocks a1 s).2 := by
  induction a1 generalizing s with
  | zero => exact h
  | succ n ih => exact ih (readBlock_apart k_port h)

theorem execF3BlockRead_apart {m : Field → Bool} {s0 s : State} {a1 a2} (k_port : m .port = true) (h : Apart m s0 s) : OutApart
    m s0 (execF3BlockRead a1 a2 s) := by
  unfold execF3BlockRead
  try dsimp only
  repeat' first
    | with_reducible assumption
    | with_reducible apply State.at_apart
    | with_reducible apply readBlocks_apart
    | with_reducible apply respond_apart
    | with_reducible refine Apart.snd ?_ (by assumption)
    | with_reducible refine OutApart.next ?_
    | with_reducible exact OutApart.refused
    | with_reducible refine Apart.foldl _ _ ?_ ?_
    | with_reducible refine Apart.ite ?_ ?_
    | with_reducible refine OutApart.ite ?_ ?_
    | (intro _)
    | split

theorem hello_apart {m : Field → Bool} {s0 s : State} {a1} (k_dev : m .dev = true) (k_log : m .log = true) (k_port : m .port =
    true) (h : Apart m s0 s) : Apart m s0 (hello a1 s) := by
  unfold hello
  try dsimp only
  repeat' first
    | with_reducible assumption
    | with_reducible apply replyWith_apart
    | with_reducible apply logEvent_apart
    | with_reducible refine OutApart.next ?_
    | with_reducible exact OutApart.refused
    | with_reducible refine Apart.foldl _ _ ?_ ?_
    | with_reducible refine Apart.ite ?_ ?_
    | with_reducible refine OutApart.ite ?_ ?_
    | (intro _)
    | split
    | with_reducible refine Apart.dev ?_ ?_

theorem execHello_apart {m : Field → Bool} {s0 s : State} {a1} (k_dev : m .dev = true) (k_log : m .log = true) (k_port : m .port
    = true) (h : Apart m s0 s) : OutApart m s0 (execHello a1 s) := by
  unfold execHello
  try dsimp only
  repeat' first
    | with_reducible assumption
    | with_reducible apply State.at_apart
    | with_reducible apply handOn_apart
    | with_reducible apply hello_apart
    | with_reducible refine Apart.snd ?_ (by assumption)
    | with_reducible refine OutApart.next ?_
    | with_reducible exact OutApart.refused
    | with_reducible refine Apart.foldl _ _ ?_ ?_
    | with_reducible refine Apart.ite ?_ ?_
    | with_reducible refine OutApart.ite ?_ ?_
    | (intro _)
    | split

theorem execHostMessageTimeout_apart {m : Field → Bool} {s0 s : State} {a1} (k_log : m .log = true) (k_port : m .port = true) (h
    : Apart m s0 s) : OutApart m s0 (execHostMessageTimeout a1 s) := by
  unfold execHostMessageTimeout
  try dsimp only
  repeat' first
    | with_reducible assumption
    | with_reducible apply State.at_apart
    | with_reducible apply framingFailure_apart
    | with_reducible refine OutApart.next ?_
    | with_reducible exact OutApart.refused
    | with_reducible refine Apart.foldl _ _ ?_ ?_
    | with_reducible refine Apart.ite ?_ ?_
    | with_reducible refine OutApart.ite ?_ ?_
    | (intro _)
    | split

theorem keepCreate_apart {m : Field → Bool} {s0 s : State} {a1 a2} (k_log : m .log = true) (k_cog : m .cog = true) (k_port : m
    .port = true) (h : Apart m s0 s) : Apart m s0 (keepCreate a1 a2 s) := by
  unfold keepCreate
  try dsimp only
  repeat' first
    | with_reducible assumption
    | with_reducible apply refuse_apart
    | with_reducible apply createKeep_apart
    | with_reducible apply reply_apart
    | with_reducible refine Apart.trd ?_ (by assumption)
    | with_reducible refine OutApart.next ?_
    | with_reducible exact OutApart.refused
    | with_reducible refine Apart.foldl _ _ ?_ ?_
    | with_reducible refine Apart.ite ?_ ?_
    | with_reducible refine OutApart.ite ?_ ?_
    | (intro _)
    | split

theorem execKeepCreate_apart {m : Field → Bool} {s0 s : State} {a1} (k_log : m .log = true) (k_cog : m .cog = true) (k_port : m
    .port = true) (h : Apart m s0 s) : OutApart m s0 (execKeepCreate a1 s) := by
  unfold execKeepCreate
  try dsimp only
  repeat' first
    | with_reducible assumption
    | with_reducible apply State.at_apart
    | with_reducible apply onMessage_apart
    | with_reducible apply withSession_apart
    | with_reducible apply keepCreate_apart
    | with_reducible refine OutApart.next ?_
    | with_reducible exact OutApart.refused
    | with_reducible refine Apart.foldl _ _ ?_ ?_
    | with_reducible refine Apart.ite ?_ ?_
    | with_reducible refine OutApart.ite ?_ ?_
    | (intro _)
    | split

theorem keepReleaseMsg_apart {m : Field → Bool} {s0 s : State} {a1} (k_cog : m .cog = true) (k_port : m .port = true) (h : Apart
    m s0 s) : Apart m s0 (keepReleaseMsg a1 s) := by
  unfold keepReleaseMsg
  try dsimp only
  repeat' first
    | with_reducible assumption
    | with_reducible apply refuse_apart
    | with_reducible apply releaseKeep_apart
    | with_reducible refine OutApart.next ?_
    | with_reducible exact OutApart.refused
    | with_reducible refine Apart.foldl _ _ ?_ ?_
    | with_reducible refine Apart.ite ?_ ?_
    | with_reducible refine OutApart.ite ?_ ?_
    | (intro _)
    | split

theorem execKeepRelease_apart {m : Field → Bool} {s0 s : State} {a1} (k_log : m .log = true) (k_cog : m .cog = true) (k_port : m
    .port = true) (h : Apart m s0 s) : OutApart m s0 (execKeepRelease a1 s) := by
  unfold execKeepRelease
  try dsimp only
  repeat' first
    | with_reducible assumption
    | with_reducible apply State.at_apart
    | with_reducible apply onMessage_apart
    | with_reducible apply keepReleaseMsg_apart
    | with_reducible refine OutApart.next ?_
    | with_reducible exact OutApart.refused
    | with_reducible refine Apart.foldl _ _ ?_ ?_
    | with_reducible refine Apart.ite ?_ ?_
    | with_reducible refine OutApart.ite ?_ ?_
    | (intro _)
    | split

theorem maintain_apart {m : Field → Bool} {s0 s : State} {a1} (k_dev : m .dev = true) (k_cue : m .cue = true) (k_log : m .log =
    true) (k_units : m .units = true) (k_cur : m .cur = true) (k_cls : m .cls = true) (k_sched : m .sched = true) (k_cog : m
    .cog = true) (k_part : m .part = true) (k_mem : m .mem = true) (k_press : m .press = true) (k_port : m .port = true) (h :
    Apart m s0 s) : Apart m s0 (maintain a1 s) := by
  unfold maintain
  try dsimp only
  repeat' first
    | with_reducible assumption
    | with_reducible apply refuse_apart
    | with_reducible apply enterMaintenance_apart
    | with_reducible refine OutApart.next ?_
    | with_reducible exact OutApart.refused
    | with_reducible refine Apart.foldl _ _ ?_ ?_
    | with_reducible refine Apart.ite ?_ ?_
    | with_reducible refine OutApart.ite ?_ ?_
    | (intro _)
    | split
    | with_reducible refine Apart.dev ?_ ?_

theorem execMaintenanceEnter_apart {m : Field → Bool} {s0 s : State} {a1} (k_dev : m .dev = true) (k_cue : m .cue = true) (k_log
    : m .log = true) (k_units : m .units = true) (k_cur : m .cur = true) (k_cls : m .cls = true) (k_sched : m .sched = true)
    (k_cog : m .cog = true) (k_part : m .part = true) (k_mem : m .mem = true) (k_press : m .press = true) (k_port : m .port =
    true) (h : Apart m s0 s) : OutApart m s0 (execMaintenanceEnter a1 s) := by
  unfold execMaintenanceEnter
  try dsimp only
  repeat' first
    | with_reducible assumption
    | with_reducible apply State.at_apart
    | with_reducible apply onMessage_apart
    | with_reducible apply maintain_apart
    | with_reducible refine OutApart.next ?_
    | with_reducible exact OutApart.refused
    | with_reducible refine Apart.foldl _ _ ?_ ?_
    | with_reducible refine Apart.ite ?_ ?_
    | with_reducible refine OutApart.ite ?_ ?_
    | (intro _)
    | split

theorem execSessionClose_apart {m : Field → Bool} {s0 s : State} {a1} (k_log : m .log = true) (k_sched : m .sched = true) (k_cog
    : m .cog = true) (k_mem : m .mem = true) (k_port : m .port = true) (h : Apart m s0 s) : OutApart m s0 (execSessionClose a1
    s) := by
  unfold execSessionClose
  try dsimp only
  repeat' first
    | with_reducible assumption
    | with_reducible apply State.at_apart
    | with_reducible apply onMessage_apart
    | with_reducible apply withSession_apart
    | with_reducible apply refuse_apart
    | with_reducible apply closeSession_apart
    | with_reducible refine OutApart.next ?_
    | with_reducible exact OutApart.refused
    | with_reducible refine Apart.foldl _ _ ?_ ?_
    | with_reducible refine Apart.ite ?_ ?_
    | with_reducible refine OutApart.ite ?_ ?_
    | (intro _)
    | split

theorem sessionInput_apart {m : Field → Bool} {s0 s : State} {a1 a2} (k_cog : m .cog = true) (k_port : m .port = true) (h :
    Apart m s0 s) : Apart m s0 (sessionInput a1 a2 s) := by
  unfold sessionInput
  try dsimp only
  repeat' first
    | with_reducible assumption
    | with_reducible apply refuse_apart
    | with_reducible apply acceptInput_apart
    | with_reducible refine Apart.snd ?_ (by assumption)
    | with_reducible refine OutApart.next ?_
    | with_reducible exact OutApart.refused
    | with_reducible refine Apart.foldl _ _ ?_ ?_
    | with_reducible refine Apart.ite ?_ ?_
    | with_reducible refine OutApart.ite ?_ ?_
    | (intro _)
    | split

theorem execSessionInput_apart {m : Field → Bool} {s0 s : State} {a1} (k_log : m .log = true) (k_cog : m .cog = true) (k_port :
    m .port = true) (h : Apart m s0 s) : OutApart m s0 (execSessionInput a1 s) := by
  unfold execSessionInput
  try dsimp only
  repeat' first
    | with_reducible assumption
    | with_reducible apply State.at_apart
    | with_reducible apply onMessage_apart
    | with_reducible apply withSession_apart
    | with_reducible apply sessionInput_apart
    | with_reducible refine OutApart.next ?_
    | with_reducible exact OutApart.refused
    | with_reducible refine Apart.foldl _ _ ?_ ?_
    | with_reducible refine Apart.ite ?_ ?_
    | with_reducible refine OutApart.ite ?_ ?_
    | (intro _)
    | split

theorem sessionOpen_apart {m : Field → Bool} {s0 s : State} {a1} (k_log : m .log = true) (k_cog : m .cog = true) (k_accts : m
    .accts = true) (k_port : m .port = true) (h : Apart m s0 s) : Apart m s0 (sessionOpen a1 s) := by
  unfold sessionOpen
  try dsimp only
  repeat' first
    | with_reducible assumption
    | with_reducible apply refuse_apart
    | with_reducible apply openSession_apart
    | with_reducible apply replyWith_apart
    | with_reducible refine Apart.trd ?_ (by assumption)
    | with_reducible refine OutApart.next ?_
    | with_reducible exact OutApart.refused
    | with_reducible refine Apart.foldl _ _ ?_ ?_
    | with_reducible refine Apart.ite ?_ ?_
    | with_reducible refine OutApart.ite ?_ ?_
    | (intro _)
    | split

theorem execSessionOpen_apart {m : Field → Bool} {s0 s : State} {a1} (k_log : m .log = true) (k_cog : m .cog = true) (k_accts :
    m .accts = true) (k_port : m .port = true) (h : Apart m s0 s) : OutApart m s0 (execSessionOpen a1 s) := by
  unfold execSessionOpen
  try dsimp only
  repeat' first
    | with_reducible assumption
    | with_reducible apply State.at_apart
    | with_reducible apply onMessage_apart
    | with_reducible apply sessionOpen_apart
    | with_reducible refine OutApart.next ?_
    | with_reducible exact OutApart.refused
    | with_reducible refine Apart.foldl _ _ ?_ ?_
    | with_reducible refine Apart.ite ?_ ?_
    | with_reducible refine OutApart.ite ?_ ?_
    | (intro _)
    | split

theorem execStart_apart {m : Field → Bool} {s0 s : State} {a1} (k_dev : m .dev = true) (k_log : m .log = true) (k_port : m .port
    = true) (h : Apart m s0 s) : OutApart m s0 (execStart a1 s) := by
  unfold execStart
  try dsimp only
  repeat' first
    | with_reducible assumption
    | with_reducible apply State.at_apart
    | with_reducible apply onMessage_apart
    | with_reducible apply refuse_apart
    | with_reducible refine OutApart.next ?_
    | with_reducible exact OutApart.refused
    | with_reducible refine Apart.foldl _ _ ?_ ?_
    | with_reducible refine Apart.ite ?_ ?_
    | with_reducible refine OutApart.ite ?_ ?_
    | (intro _)
    | split
    | with_reducible refine Apart.dev ?_ ?_

theorem readLost_apart {m : Field → Bool} {s0 s : State} {a1 a2 a3 a4 a5} (k_cue : m .cue = true) (k_log : m .log = true)
    (k_units : m .units = true) (k_cur : m .cur = true) (k_sched : m .sched = true) (k_cog : m .cog = true) (k_part : m .part =
    true) (k_accts : m .accts = true) (k_mem : m .mem = true) (k_press : m .press = true) (k_port : m .port = true) (k_gov : m
    .gov = true) (h : Apart m s0 s) : Apart m s0 (readLost a1 a2 a3 a4 a5 s) := by
  unfold readLost
  try dsimp only
  repeat' first
    | with_reducible assumption
    | with_reducible apply loseValue_apart
    | with_reducible refine OutApart.next ?_
    | with_reducible exact OutApart.refused
    | with_reducible refine Apart.foldl _ _ ?_ ?_
    | with_reducible refine Apart.ite ?_ ?_
    | with_reducible refine OutApart.ite ?_ ?_
    | (intro _)
    | split

theorem tensorRead_apart {m : Field → Bool} {s0 s : State} {a1} (k_cue : m .cue = true) (k_log : m .log = true) (k_units : m
    .units = true) (k_cur : m .cur = true) (k_sched : m .sched = true) (k_cog : m .cog = true) (k_part : m .part = true)
    (k_accts : m .accts = true) (k_mem : m .mem = true) (k_press : m .press = true) (k_port : m .port = true) (k_gov : m .gov =
    true) (h : Apart m s0 s) : Apart m s0 (tensorRead a1 s) := by
  unfold tensorRead
  try dsimp only
  repeat' first
    | with_reducible assumption
    | with_reducible apply refuse_apart
    | with_reducible apply readLost_apart
    | with_reducible apply reply_apart
    | with_reducible refine OutApart.next ?_
    | with_reducible exact OutApart.refused
    | with_reducible refine Apart.foldl _ _ ?_ ?_
    | with_reducible refine Apart.ite ?_ ?_
    | with_reducible refine OutApart.ite ?_ ?_
    | (intro _)
    | split

theorem execTensorRead_apart {m : Field → Bool} {s0 s : State} {a1} (k_cue : m .cue = true) (k_log : m .log = true) (k_units : m
    .units = true) (k_cur : m .cur = true) (k_sched : m .sched = true) (k_cog : m .cog = true) (k_part : m .part = true)
    (k_accts : m .accts = true) (k_mem : m .mem = true) (k_press : m .press = true) (k_port : m .port = true) (k_gov : m .gov =
    true) (h : Apart m s0 s) : OutApart m s0 (execTensorRead a1 s) := by
  unfold execTensorRead
  try dsimp only
  repeat' first
    | with_reducible assumption
    | with_reducible apply State.at_apart
    | with_reducible apply onMessage_apart
    | with_reducible apply tensorRead_apart
    | with_reducible refine OutApart.next ?_
    | with_reducible exact OutApart.refused
    | with_reducible refine Apart.foldl _ _ ?_ ?_
    | with_reducible refine Apart.ite ?_ ?_
    | with_reducible refine OutApart.ite ?_ ?_
    | (intro _)
    | split

theorem traceRead_apart {m : Field → Bool} {s0 s : State} {a1} (k_port : m .port = true) (h : Apart m s0 s) : Apart m s0
    (traceRead a1 s) := by
  unfold traceRead
  try dsimp only
  repeat' first
    | with_reducible assumption
    | with_reducible apply refuse_apart
    | with_reducible apply reply_apart
    | with_reducible refine OutApart.next ?_
    | with_reducible exact OutApart.refused
    | with_reducible refine Apart.foldl _ _ ?_ ?_
    | with_reducible refine Apart.ite ?_ ?_
    | with_reducible refine OutApart.ite ?_ ?_
    | (intro _)
    | split

theorem execTraceRead_apart {m : Field → Bool} {s0 s : State} {a1} (k_log : m .log = true) (k_port : m .port = true) (h : Apart
    m s0 s) : OutApart m s0 (execTraceRead a1 s) := by
  unfold execTraceRead
  try dsimp only
  repeat' first
    | with_reducible assumption
    | with_reducible apply State.at_apart
    | with_reducible apply onMessage_apart
    | with_reducible apply traceRead_apart
    | with_reducible refine OutApart.next ?_
    | with_reducible exact OutApart.refused
    | with_reducible refine Apart.foldl _ _ ?_ ?_
    | with_reducible refine Apart.ite ?_ ?_
    | with_reducible refine OutApart.ite ?_ ?_
    | (intro _)
    | split

theorem execUnsupportedMessage_apart {m : Field → Bool} {s0 s : State} {a1} (k_log : m .log = true) (k_port : m .port = true) (h
    : Apart m s0 s) : OutApart m s0 (execUnsupportedMessage a1 s) := by
  unfold execUnsupportedMessage
  try dsimp only
  repeat' first
    | with_reducible assumption
    | with_reducible apply State.at_apart
    | with_reducible apply handOn_apart
    | with_reducible apply refuse_apart
    | with_reducible apply logEvent_apart
    | with_reducible refine Apart.snd ?_ (by assumption)
    | with_reducible refine OutApart.next ?_
    | with_reducible exact OutApart.refused
    | with_reducible refine Apart.foldl _ _ ?_ ?_
    | with_reducible refine Apart.ite ?_ ?_
    | with_reducible refine OutApart.ite ?_ ?_
    | (intro _)
    | split

end Sys2Proof.Machine
end

