-- ==== Sys2Proof/Laws/ApartUpdate.lean ====
section
/-! SUPPORT. Frames of the operations of Machine/Update.lean. -/

namespace Sys2Proof.Machine

theorem beginUpdate_apart {m : Field → Bool} {s0 s : State} {a1 a2 : List Byte} (k_dev : m .dev = true) (k_upd : m .upd = true) (k_ufs : m .ufs = true)
    (h : Apart m s0 s) : Apart m s0 (beginUpdate a1 a2 s) := by
  unfold beginUpdate
  extract_lets d o x secs
  have hx : Apart m s0 x := by
    show Apart m s0 (if _ then _ else _)
    split
    · exact Apart.ufs k_ufs h
    · exact h
  refine hx.trans ⟨fun f hf => ?_⟩
  cases f <;> first
    | (rw [k_ufs] at hf; exact absurd hf Bool.noConfusion)
    | (rw [k_upd] at hf; exact absurd hf Bool.noConfusion)
    | (rw [k_dev] at hf; exact absurd hf Bool.noConfusion)
    | rfl

theorem softReset_apart {m : Field → Bool} {s0 s : State} (k_chip : m .chip = true) (k_dev : m .dev = true) (k_upd : m .upd =
    true) (k_forme : m .forme = true) (k_tb : m .tb = true) (k_cue : m .cue = true) (k_log : m .log = true) (k_units : m .units
    = true) (k_cur : m .cur = true) (k_cls : m .cls = true) (k_sched : m .sched = true) (k_cog : m .cog = true) (k_part : m
    .part = true) (k_accts : m .accts = true) (k_acctWin : m .acctWin = true) (k_mem : m .mem = true) (k_press : m .press =
    true) (k_ing : m .ing = true) (k_port : m .port = true) (k_gov : m .gov = true) (k_overruns : m .overruns = true) (h : Apart
    m s0 s) : Apart m s0 (softReset s) := by
  unfold softReset
  try dsimp only
  repeat' first
    | with_reducible assumption
    | with_reducible apply deviceReset_apart
    | with_reducible refine OutApart.next ?_
    | with_reducible exact OutApart.refused
    | with_reducible refine Apart.foldl _ _ ?_ ?_
    | with_reducible refine Apart.ite ?_ ?_
    | with_reducible refine OutApart.ite ?_ ?_
    | (intro _)
    | split
    | with_reducible refine Apart.chip ?_ ?_

theorem completeUpdate_apart {m : Field → Bool} {s0 s : State} (k_chip : m .chip = true) (k_dev : m .dev = true) (k_upd : m .upd
    = true) (k_ufs : m .ufs = true) (k_forme : m .forme = true) (k_tb : m .tb = true) (k_cue : m .cue = true) (k_log : m .log =
    true) (k_units : m .units = true) (k_cur : m .cur = true) (k_cls : m .cls = true) (k_sched : m .sched = true) (k_cog : m
    .cog = true) (k_part : m .part = true) (k_accts : m .accts = true) (k_acctWin : m .acctWin = true) (k_mem : m .mem = true)
    (k_press : m .press = true) (k_ing : m .ing = true) (k_port : m .port = true) (k_gov : m .gov = true) (k_overruns : m
    .overruns = true) (h : Apart m s0 s) : Apart m s0 (completeUpdate s) := by
  unfold completeUpdate
  try dsimp only
  repeat' first
    | with_reducible assumption
    | with_reducible apply interruptUpdate_apart
    | with_reducible apply logEvent_apart
    | with_reducible apply softReset_apart
    | with_reducible refine OutApart.next ?_
    | with_reducible exact OutApart.refused
    | with_reducible refine Apart.foldl _ _ ?_ ?_
    | with_reducible refine Apart.ite ?_ ?_
    | with_reducible refine OutApart.ite ?_ ?_
    | (intro _)
    | split
    | with_reducible refine Apart.upd ?_ ?_
    | with_reducible refine Apart.ufs ?_ ?_
    | with_reducible apply Apart.record
    | with_reducible exact Or.inr rfl
    | with_reducible (refine Or.inl ?_)

theorem fuseCommand_apart {m : Field → Bool} {s0 s : State} {a1} (k_fuses : m .fuses = true) (k_port : m .port = true) (h :
    Apart m s0 s) : Apart m s0 (fuseCommand a1 s) := by
  unfold fuseCommand
  try dsimp only
  repeat' first
    | with_reducible assumption
    | with_reducible apply replyWith_apart
    | with_reducible refine OutApart.next ?_
    | with_reducible exact OutApart.refused
    | with_reducible refine Apart.foldl _ _ ?_ ?_
    | with_reducible refine Apart.ite ?_ ?_
    | with_reducible refine OutApart.ite ?_ ?_
    | (intro _)
    | split
    | with_reducible refine Apart.fuses ?_ ?_

theorem execFuseCommand_apart {m : Field → Bool} {s0 s : State} {a1} (k_fuses : m .fuses = true) (k_log : m .log = true) (k_port
    : m .port = true) (h : Apart m s0 s) : OutApart m s0 (execFuseCommand a1 s) := by
  unfold execFuseCommand
  try dsimp only
  repeat' first
    | with_reducible assumption
    | with_reducible apply State.at_apart
    | with_reducible apply handOn_apart
    | with_reducible apply fuseCommand_apart
    | with_reducible apply replyWith_apart
    | with_reducible refine Apart.snd ?_ (by assumption)
    | with_reducible refine OutApart.next ?_
    | with_reducible exact OutApart.refused
    | with_reducible refine Apart.foldl _ _ ?_ ?_
    | with_reducible refine Apart.ite ?_ ?_
    | with_reducible refine OutApart.ite ?_ ?_
    | (intro _)
    | split

theorem execMaintenanceEnd_apart {m : Field → Bool} {s0 s : State} {a1} (k_chip : m .chip = true) (k_dev : m .dev = true) (k_upd
    : m .upd = true) (k_forme : m .forme = true) (k_tb : m .tb = true) (k_cue : m .cue = true) (k_log : m .log = true) (k_units
    : m .units = true) (k_cur : m .cur = true) (k_cls : m .cls = true) (k_sched : m .sched = true) (k_cog : m .cog = true)
    (k_part : m .part = true) (k_accts : m .accts = true) (k_acctWin : m .acctWin = true) (k_mem : m .mem = true) (k_press : m
    .press = true) (k_ing : m .ing = true) (k_port : m .port = true) (k_gov : m .gov = true) (k_overruns : m .overruns = true)
    (h : Apart m s0 s) : OutApart m s0 (execMaintenanceEnd a1 s) := by
  unfold execMaintenanceEnd
  try dsimp only
  repeat' first
    | with_reducible assumption
    | with_reducible apply State.at_apart
    | with_reducible apply onMessage_apart
    | with_reducible apply interruptUpdate_apart
    | with_reducible apply refuse_apart
    | with_reducible apply softReset_apart
    | with_reducible refine OutApart.next ?_
    | with_reducible exact OutApart.refused
    | with_reducible refine Apart.foldl _ _ ?_ ?_
    | with_reducible refine Apart.ite ?_ ?_
    | with_reducible refine OutApart.ite ?_ ?_
    | (intro _)
    | split

theorem hashed_apart {m : Field → Bool} {s0 s : State} {a1} (k_dev : m .dev = true) (h : Apart m s0 s) : Apart m s0 (hashed a1
    s) := by
  unfold hashed
  try dsimp only
  repeat' first
    | with_reducible assumption
    | with_reducible refine OutApart.next ?_
    | with_reducible exact OutApart.refused
    | with_reducible refine Apart.foldl _ _ ?_ ?_
    | with_reducible refine Apart.ite ?_ ?_
    | with_reducible refine OutApart.ite ?_ ?_
    | (intro _)
    | split
    | with_reducible refine Apart.dev ?_ ?_

theorem settleUpdate_apart {m : Field → Bool} {s0 s : State} (k_chip : m .chip = true) (k_dev : m .dev = true) (k_upd : m .upd =
    true) (k_ufs : m .ufs = true) (k_forme : m .forme = true) (k_tb : m .tb = true) (k_cue : m .cue = true) (k_log : m .log =
    true) (k_units : m .units = true) (k_cur : m .cur = true) (k_cls : m .cls = true) (k_sched : m .sched = true) (k_cog : m
    .cog = true) (k_part : m .part = true) (k_accts : m .accts = true) (k_acctWin : m .acctWin = true) (k_mem : m .mem = true)
    (k_press : m .press = true) (k_ing : m .ing = true) (k_port : m .port = true) (k_gov : m .gov = true) (k_overruns : m
    .overruns = true) (h : Apart m s0 s) : Apart m s0 (settleUpdate s) := by
  unfold settleUpdate
  try dsimp only
  repeat' first
    | with_reducible assumption
    | with_reducible apply completeUpdate_apart
    | with_reducible refine OutApart.next ?_
    | with_reducible exact OutApart.refused
    | with_reducible refine Apart.foldl _ _ ?_ ?_
    | with_reducible refine Apart.ite ?_ ?_
    | with_reducible refine OutApart.ite ?_ ?_
    | (intro _)
    | split

theorem setSec_apart {m : Field → Bool} {s0 s : State} {a1 a2} (k_upd : m .upd = true) (h : Apart m s0 s) : Apart m s0 (setSec
    a1 a2 s) := by
  unfold setSec
  try dsimp only
  repeat' first
    | with_reducible assumption
    | with_reducible refine OutApart.next ?_
    | with_reducible exact OutApart.refused
    | with_reducible refine Apart.foldl _ _ ?_ ?_
    | with_reducible refine Apart.ite ?_ ?_
    | with_reducible refine OutApart.ite ?_ ?_
    | (intro _)
    | split
    | with_reducible refine Apart.upd ?_ ?_

theorem updateData_apart {m : Field → Bool} {s0 s : State} {a1} (k_chip : m .chip = true) (k_dev : m .dev = true) (k_upd : m
    .upd = true) (k_ufs : m .ufs = true) (k_forme : m .forme = true) (k_tb : m .tb = true) (k_cue : m .cue = true) (k_log : m
    .log = true) (k_units : m .units = true) (k_cur : m .cur = true) (k_cls : m .cls = true) (k_sched : m .sched = true) (k_cog
    : m .cog = true) (k_part : m .part = true) (k_accts : m .accts = true) (k_acctWin : m .acctWin = true) (k_mem : m .mem =
    true) (k_press : m .press = true) (k_ing : m .ing = true) (k_port : m .port = true) (k_gov : m .gov = true) (k_overruns : m
    .overruns = true) (h : Apart m s0 s) : Apart m s0 (updateData a1 s) := by
  unfold updateData
  try dsimp only
  repeat' first
    | with_reducible assumption
    | with_reducible apply refuse_apart
    | with_reducible apply hashed_apart
    | with_reducible apply reply_apart
    | with_reducible apply settleUpdate_apart
    | with_reducible apply logEvent_apart
    | with_reducible apply setSec_apart
    | with_reducible refine OutApart.next ?_
    | with_reducible exact OutApart.refused
    | with_reducible refine Apart.foldl _ _ ?_ ?_
    | with_reducible refine Apart.ite ?_ ?_
    | with_reducible refine OutApart.ite ?_ ?_
    | (intro _)
    | split
    | with_reducible refine Apart.upd ?_ ?_
    | with_reducible refine Apart.ufs ?_ ?_
    | with_reducible apply Apart.record
    | with_reducible exact Or.inr rfl
    | with_reducible (refine Or.inl ?_)

theorem execUpdateData_apart {m : Field → Bool} {s0 s : State} {a1} (k_chip : m .chip = true) (k_dev : m .dev = true) (k_upd : m
    .upd = true) (k_ufs : m .ufs = true) (k_forme : m .forme = true) (k_tb : m .tb = true) (k_cue : m .cue = true) (k_log : m
    .log = true) (k_units : m .units = true) (k_cur : m .cur = true) (k_cls : m .cls = true) (k_sched : m .sched = true) (k_cog
    : m .cog = true) (k_part : m .part = true) (k_accts : m .accts = true) (k_acctWin : m .acctWin = true) (k_mem : m .mem =
    true) (k_press : m .press = true) (k_ing : m .ing = true) (k_port : m .port = true) (k_gov : m .gov = true) (k_overruns : m
    .overruns = true) (h : Apart m s0 s) : OutApart m s0 (execUpdateData a1 s) := by
  unfold execUpdateData
  try dsimp only
  repeat' first
    | with_reducible assumption
    | with_reducible apply State.at_apart
    | with_reducible apply onMessage_apart
    | with_reducible apply updateData_apart
    | with_reducible refine OutApart.next ?_
    | with_reducible exact OutApart.refused
    | with_reducible refine Apart.foldl _ _ ?_ ?_
    | with_reducible refine Apart.ite ?_ ?_
    | with_reducible refine OutApart.ite ?_ ?_
    | (intro _)
    | split

theorem updateDirectory_apart {m : Field → Bool} {s0 s : State} {a1} (k_dev : m .dev = true) (k_upd : m .upd = true) (k_ufs : m
    .ufs = true) (k_port : m .port = true) (h : Apart m s0 s) : Apart m s0 (updateDirectory a1 s) := by
  unfold updateDirectory
  try dsimp only
  repeat' first
    | with_reducible assumption
    | with_reducible apply refuse_apart
    | with_reducible apply beginUpdate_apart
    | with_reducible apply reply_apart
    | with_reducible refine OutApart.next ?_
    | with_reducible exact OutApart.refused
    | with_reducible refine Apart.foldl _ _ ?_ ?_
    | with_reducible refine Apart.ite ?_ ?_
    | with_reducible refine OutApart.ite ?_ ?_
    | (intro _)
    | split
    | with_reducible refine Apart.upd ?_ ?_

theorem execUpdateDirectory_apart {m : Field → Bool} {s0 s : State} {a1} (k_dev : m .dev = true) (k_upd : m .upd = true) (k_ufs
    : m .ufs = true) (k_log : m .log = true) (k_port : m .port = true) (h : Apart m s0 s) : OutApart m s0 (execUpdateDirectory
    a1 s) := by
  unfold execUpdateDirectory
  try dsimp only
  repeat' first
    | with_reducible assumption
    | with_reducible apply State.at_apart
    | with_reducible apply onMessage_apart
    | with_reducible apply updateDirectory_apart
    | with_reducible refine OutApart.next ?_
    | with_reducible exact OutApart.refused
    | with_reducible refine Apart.foldl _ _ ?_ ?_
    | with_reducible refine Apart.ite ?_ ?_
    | with_reducible refine OutApart.ite ?_ ?_
    | (intro _)
    | split

theorem execUpdateIdleTimeout_apart {m : Field → Bool} {s0 s : State} {a1} (k_dev : m .dev = true) (k_upd : m .upd = true)
    (k_log : m .log = true) (k_port : m .port = true) (h : Apart m s0 s) : OutApart m s0 (execUpdateIdleTimeout a1 s) := by
  unfold execUpdateIdleTimeout
  try dsimp only
  repeat' first
    | with_reducible assumption
    | with_reducible apply State.at_apart
    | with_reducible apply interruptUpdate_apart
    | with_reducible refine OutApart.next ?_
    | with_reducible exact OutApart.refused
    | with_reducible refine Apart.foldl _ _ ?_ ?_
    | with_reducible refine Apart.ite ?_ ?_
    | with_reducible refine OutApart.ite ?_ ?_
    | (intro _)
    | split

theorem execUpdateKeepVerified_apart {m : Field → Bool} {s0 s : State} {a1 a2} (k_chip : m .chip = true) (k_dev : m .dev = true)
    (k_upd : m .upd = true) (k_ufs : m .ufs = true) (k_forme : m .forme = true) (k_tb : m .tb = true) (k_cue : m .cue = true)
    (k_log : m .log = true) (k_units : m .units = true) (k_cur : m .cur = true) (k_cls : m .cls = true) (k_sched : m .sched =
    true) (k_cog : m .cog = true) (k_part : m .part = true) (k_accts : m .accts = true) (k_acctWin : m .acctWin = true) (k_mem :
    m .mem = true) (k_press : m .press = true) (k_ing : m .ing = true) (k_port : m .port = true) (k_gov : m .gov = true)
    (k_overruns : m .overruns = true) (h : Apart m s0 s) : OutApart m s0 (execUpdateKeepVerified a1 a2 s) := by
  unfold execUpdateKeepVerified
  try dsimp only
  repeat' first
    | with_reducible assumption
    | with_reducible apply State.at_apart
    | with_reducible apply hashed_apart
    | with_reducible apply settleUpdate_apart
    | with_reducible apply logEvent_apart
    | with_reducible apply setSec_apart
    | with_reducible refine OutApart.next ?_
    | with_reducible exact OutApart.refused
    | with_reducible refine Apart.foldl _ _ ?_ ?_
    | with_reducible refine Apart.ite ?_ ?_
    | with_reducible refine OutApart.ite ?_ ?_
    | (intro _)
    | split

end Sys2Proof.Machine
end

