-- ==== Sys2Proof/Laws/ApartIngest.lean ====
section
/-! SUPPORT. Frames of the operations of Machine/Ingest.lean. -/

namespace Sys2Proof.Machine

theorem State.modStream_apart {m : Field → Bool} {s0 s : State} {a1 a2} (k_ing : m .ing = true) (h : Apart m s0 s) : Apart m s0
    (State.modStream a1 a2 s) := by
  unfold State.modStream
  try dsimp only
  repeat' first
    | with_reducible assumption
    | with_reducible refine OutApart.next ?_
    | with_reducible exact OutApart.refused
    | with_reducible refine Apart.foldl _ _ ?_ ?_
    | with_reducible refine Apart.ite ?_ ?_
    | with_reducible refine OutApart.ite ?_ ?_
    | (intro _)
    | split
    | with_reducible refine Apart.ing ?_ ?_

theorem beginSample_apart {m : Field → Bool} {s0 s : State} {a1 a2 a3} (k_ing : m .ing = true) (h : Apart m s0 s) : Apart m s0
    (beginSample a1 a2 a3 s) := by
  unfold beginSample
  try dsimp only
  repeat' first
    | with_reducible assumption
    | with_reducible apply State.modStream_apart
    | with_reducible refine OutApart.next ?_
    | with_reducible exact OutApart.refused
    | with_reducible refine Apart.foldl _ _ ?_ ?_
    | with_reducible refine Apart.ite ?_ ?_
    | with_reducible refine OutApart.ite ?_ ?_
    | (intro _)
    | split

theorem beginRotation_apart {m : Field → Bool} {s0 s : State} {a1} (k_ing : m .ing = true) (h : Apart m s0 s) : Apart m s0
    (beginRotation a1 s) := by
  unfold beginRotation
  try dsimp only
  repeat' first
    | with_reducible assumption
    | with_reducible apply beginSample_apart
    | with_reducible apply State.modStream_apart
    | with_reducible refine OutApart.next ?_
    | with_reducible exact OutApart.refused
    | with_reducible refine Apart.foldl _ _ ?_ ?_
    | with_reducible refine Apart.ite ?_ ?_
    | with_reducible refine OutApart.ite ?_ ?_
    | (intro _)
    | split

theorem rejectSample_apart {m : Field → Bool} {s0 s : State} {a1 a2 a3} (k_ing : m .ing = true) (h : Apart m s0 s) : Apart m s0
    (rejectSample a1 a2 a3 s) := by
  unfold rejectSample
  try dsimp only
  repeat' first
    | with_reducible assumption
    | with_reducible apply State.modStream_apart
    | with_reducible refine OutApart.next ?_
    | with_reducible exact OutApart.refused
    | with_reducible refine Apart.foldl _ _ ?_ ?_
    | with_reducible refine Apart.ite ?_ ?_
    | with_reducible refine OutApart.ite ?_ ?_
    | (intro _)
    | split

theorem rejectRtp_apart {m : Field → Bool} {s0 s : State} {a1 a2 a3} (k_log : m .log = true) (k_ing : m .ing = true) (h : Apart
    m s0 s) : Apart m s0 (rejectRtp a1 a2 a3 s) := by
  unfold rejectRtp
  try dsimp only
  repeat' first
    | with_reducible assumption
    | with_reducible apply logEvent_apart
    | with_reducible apply rejectSample_apart
    | with_reducible apply State.modStream_apart
    | with_reducible refine OutApart.next ?_
    | with_reducible exact OutApart.refused
    | with_reducible refine Apart.foldl _ _ ?_ ?_
    | with_reducible refine Apart.ite ?_ ?_
    | with_reducible refine OutApart.ite ?_ ?_
    | (intro _)
    | split

theorem beginRtp_apart {m : Field → Bool} {s0 s : State} {a1 a2 a3 a4} (k_log : m .log = true) (k_ing : m .ing = true) (h :
    Apart m s0 s) : Apart m s0 (beginRtp a1 a2 a3 a4 s) := by
  unfold beginRtp
  try dsimp only
  repeat' first
    | with_reducible assumption
    | with_reducible apply beginSample_apart
    | with_reducible apply State.modStream_apart
    | with_reducible apply rejectRtp_apart
    | with_reducible refine OutApart.next ?_
    | with_reducible exact OutApart.refused
    | with_reducible refine Apart.foldl _ _ ?_ ?_
    | with_reducible refine Apart.ite ?_ ?_
    | with_reducible refine OutApart.ite ?_ ?_
    | (intro _)
    | split

theorem makeReady_apart {m : Field → Bool} {s0 s : State} {a1 a2} (k_ing : m .ing = true) (h : Apart m s0 s) : Apart m s0
    (makeReady a1 a2 s) := by
  unfold makeReady
  try dsimp only
  repeat' first
    | with_reducible assumption
    | with_reducible apply State.modStream_apart
    | with_reducible refine OutApart.next ?_
    | with_reducible exact OutApart.refused
    | with_reducible refine Apart.foldl _ _ ?_ ?_
    | with_reducible refine Apart.ite ?_ ?_
    | with_reducible refine OutApart.ite ?_ ?_
    | (intro _)
    | split

theorem endDecode_apart {m : Field → Bool} {s0 s : State} {a1 a2 a3 a4 a5} (k_log : m .log = true) (k_ing : m .ing = true) (h :
    Apart m s0 s) : Apart m s0 (endDecode a1 a2 a3 a4 a5 s) := by
  unfold endDecode
  try dsimp only
  repeat' first
    | with_reducible assumption
    | with_reducible apply logEvent_apart
    | with_reducible apply rejectSample_apart
    | with_reducible apply makeReady_apart
    | with_reducible refine OutApart.next ?_
    | with_reducible exact OutApart.refused
    | with_reducible refine Apart.foldl _ _ ?_ ?_
    | with_reducible refine Apart.ite ?_ ?_
    | with_reducible refine OutApart.ite ?_ ?_
    | (intro _)
    | split
    | with_reducible refine Apart.ing ?_ ?_

theorem endRotation_apart {m : Field → Bool} {s0 s : State} {a1 a2} (k_free : m .free = true) (k_ing : m .ing = true) (h : Apart
    m s0 s) : Apart m s0 (endRotation a1 a2 s) := by
  unfold endRotation
  try dsimp only
  repeat' first
    | with_reducible assumption
    | with_reducible apply makeReady_apart
    | with_reducible apply State.modStream_apart
    | with_reducible refine OutApart.next ?_
    | with_reducible exact OutApart.refused
    | with_reducible refine Apart.foldl _ _ ?_ ?_
    | with_reducible refine Apart.ite ?_ ?_
    | with_reducible refine OutApart.ite ?_ ?_
    | (intro _)
    | split
    | with_reducible refine Apart.free ?_ ?_

theorem endRtp_apart {m : Field → Bool} {s0 s : State} {a1} (k_log : m .log = true) (k_ing : m .ing = true) (h : Apart m s0 s) :
    Apart m s0 (endRtp a1 s) := by
  unfold endRtp
  try dsimp only
  repeat' first
    | with_reducible assumption
    | with_reducible apply rejectRtp_apart
    | with_reducible apply State.modStream_apart
    | with_reducible apply makeReady_apart
    | with_reducible refine OutApart.next ?_
    | with_reducible exact OutApart.refused
    | with_reducible refine Apart.foldl _ _ ?_ ?_
    | with_reducible refine Apart.ite ?_ ?_
    | with_reducible refine OutApart.ite ?_ ?_
    | (intro _)
    | split
    | with_reducible refine Apart.ing ?_ ?_

theorem rejectFrame_apart {m : Field → Bool} {s0 s : State} {a1 a2} (k_log : m .log = true) (k_ing : m .ing = true) (h : Apart m
    s0 s) : Apart m s0 (rejectFrame a1 a2 s) := by
  unfold rejectFrame
  try dsimp only
  repeat' first
    | with_reducible assumption
    | with_reducible apply logEvent_apart
    | with_reducible apply State.modStream_apart
    | with_reducible apply rejectSample_apart
    | with_reducible refine OutApart.next ?_
    | with_reducible exact OutApart.refused
    | with_reducible refine Apart.foldl _ _ ?_ ?_
    | with_reducible refine Apart.ite ?_ ?_
    | with_reducible refine OutApart.ite ?_ ?_
    | (intro _)
    | split

theorem headerCheck_apart {m : Field → Bool} {s0 s : State} {a1 a2 a3 a4} (k_log : m .log = true) (k_ing : m .ing = true) (h :
    Apart m s0 s) : Apart m s0 (headerCheck a1 a2 a3 a4 s) := by
  unfold headerCheck
  try dsimp only
  repeat' first
    | with_reducible assumption
    | with_reducible apply logOnce_apart
    | with_reducible apply rejectFrame_apart
    | with_reducible refine OutApart.next ?_
    | with_reducible exact OutApart.refused
    | with_reducible refine Apart.foldl _ _ ?_ ?_
    | with_reducible refine Apart.ite ?_ ?_
    | with_reducible refine OutApart.ite ?_ ?_
    | (intro _)
    | split

theorem phaseEnd_apart {m : Field → Bool} {s0 s : State} {a1 a2 a3} (k_ing : m .ing = true) (h : Apart m s0 s) : Apart m s0
    (phaseEnd a1 a2 a3 s) := by
  unfold phaseEnd
  try dsimp only
  repeat' first
    | with_reducible assumption
    | with_reducible apply State.modStream_apart
    | with_reducible apply makeReady_apart
    | with_reducible refine OutApart.next ?_
    | with_reducible exact OutApart.refused
    | with_reducible refine Apart.foldl _ _ ?_ ?_
    | with_reducible refine Apart.ite ?_ ?_
    | with_reducible refine OutApart.ite ?_ ?_
    | (intro _)
    | split

theorem frameEnd_apart {m : Field → Bool} {s0 s : State} {a1} (k_log : m .log = true) (k_ing : m .ing = true) (h : Apart m s0 s)
    : Apart m s0 (frameEnd s a1) := by
  unfold frameEnd
  try dsimp only
  repeat' first
    | with_reducible assumption
    | with_reducible apply rejectFrame_apart
    | with_reducible apply State.modStream_apart
    | with_reducible apply phaseEnd_apart
    | with_reducible apply makeReady_apart
    | with_reducible refine OutApart.next ?_
    | with_reducible exact OutApart.refused
    | with_reducible refine Apart.foldl _ _ ?_ ?_
    | with_reducible refine Apart.ite ?_ ?_
    | with_reducible refine OutApart.ite ?_ ?_
    | (intro _)
    | split

theorem execCsi2FrameEnd_apart {m : Field → Bool} {s0 s : State} {a1 a2 a3 a4 a5 a6} (k_log : m .log = true) (k_ing : m .ing =
    true) (h : Apart m s0 s) : OutApart m s0 (execCsi2FrameEnd a1 a2 a3 a4 a5 a6 s) := by
  unfold execCsi2FrameEnd
  try dsimp only
  repeat' first
    | with_reducible assumption
    | with_reducible apply State.at_apart
    | with_reducible apply headerCheck_apart
    | with_reducible apply frameEnd_apart
    | with_reducible refine OutApart.next ?_
    | with_reducible exact OutApart.refused
    | with_reducible refine Apart.foldl _ _ ?_ ?_
    | with_reducible refine Apart.ite ?_ ?_
    | with_reducible refine OutApart.ite ?_ ?_
    | (intro _)
    | split

theorem heard_apart {m : Field → Bool} {s0 s : State} {a1} (k_ing : m .ing = true) (h : Apart m s0 s) : Apart m s0 (heard a1 s)
    := by
  unfold heard
  try dsimp only
  repeat' first
    | with_reducible assumption
    | with_reducible apply State.modStream_apart
    | with_reducible refine OutApart.next ?_
    | with_reducible exact OutApart.refused
    | with_reducible refine Apart.foldl _ _ ?_ ?_
    | with_reducible refine Apart.ite ?_ ?_
    | with_reducible refine OutApart.ite ?_ ?_
    | (intro _)
    | split

theorem rejectSet_apart {m : Field → Bool} {s0 s : State} {a1} (k_log : m .log = true) (k_ing : m .ing = true) (h : Apart m s0
    s) : Apart m s0 (rejectSet a1 s) := by
  unfold rejectSet
  try dsimp only
  repeat' first
    | with_reducible assumption
    | with_reducible apply rejectSample_apart
    | with_reducible apply logEvent_apart
    | with_reducible apply State.modStream_apart
    | with_reducible refine OutApart.next ?_
    | with_reducible exact OutApart.refused
    | with_reducible refine Apart.foldl _ _ ?_ ?_
    | with_reducible refine Apart.ite ?_ ?_
    | with_reducible refine OutApart.ite ?_ ?_
    | (intro _)
    | split

theorem headlessSet_apart {m : Field → Bool} {s0 s : State} {a1} (k_log : m .log = true) (k_ing : m .ing = true) (h : Apart m s0
    s) : Apart m s0 (headlessSet a1 s) := by
  unfold headlessSet
  try dsimp only
  repeat' first
    | with_reducible assumption
    | with_reducible apply logEvent_apart
    | with_reducible apply State.modStream_apart
    | with_reducible refine OutApart.next ?_
    | with_reducible exact OutApart.refused
    | with_reducible refine Apart.foldl _ _ ?_ ?_
    | with_reducible refine Apart.ite ?_ ?_
    | with_reducible refine OutApart.ite ?_ ?_
    | (intro _)
    | split

theorem phaseStart_apart {m : Field → Bool} {s0 s : State} {a1 a2 a3} (k_log : m .log = true) (k_ing : m .ing = true) (h : Apart
    m s0 s) : Apart m s0 (phaseStart a1 a2 a3 s) := by
  unfold phaseStart
  try dsimp only
  repeat' first
    | with_reducible assumption
    | with_reducible apply rejectSet_apart
    | with_reducible apply beginSample_apart
    | with_reducible apply State.modStream_apart
    | with_reducible apply headlessSet_apart
    | with_reducible refine OutApart.next ?_
    | with_reducible exact OutApart.refused
    | with_reducible refine Apart.foldl _ _ ?_ ?_
    | with_reducible refine Apart.ite ?_ ?_
    | with_reducible refine OutApart.ite ?_ ?_
    | (intro _)
    | split

theorem frameStart_apart {m : Field → Bool} {s0 s : State} {a1 a2} (k_log : m .log = true) (k_ing : m .ing = true) (h : Apart m
    s0 s) : Apart m s0 (frameStart a1 s a2) := by
  unfold frameStart
  try dsimp only
  repeat' first
    | with_reducible assumption
    | with_reducible apply heard_apart
    | with_reducible apply rejectFrame_apart
    | with_reducible apply phaseStart_apart
    | with_reducible apply beginSample_apart
    | with_reducible apply State.modStream_apart
    | with_reducible refine OutApart.next ?_
    | with_reducible exact OutApart.refused
    | with_reducible refine Apart.foldl _ _ ?_ ?_
    | with_reducible refine Apart.ite ?_ ?_
    | with_reducible refine OutApart.ite ?_ ?_
    | (intro _)
    | split

theorem execCsi2FrameStart_apart {m : Field → Bool} {s0 s : State} {a1 a2 a3 a4 a5 a6} (k_log : m .log = true) (k_ing : m .ing =
    true) (h : Apart m s0 s) : OutApart m s0 (execCsi2FrameStart a1 a2 a3 a4 a5 a6 s) := by
  unfold execCsi2FrameStart
  try dsimp only
  repeat' first
    | with_reducible assumption
    | with_reducible apply State.at_apart
    | with_reducible apply headerCheck_apart
    | with_reducible apply frameStart_apart
    | with_reducible refine OutApart.next ?_
    | with_reducible exact OutApart.refused
    | with_reducible refine Apart.foldl _ _ ?_ ?_
    | with_reducible refine Apart.ite ?_ ?_
    | with_reducible refine OutApart.ite ?_ ?_
    | (intro _)
    | split

theorem execCsi2LineOrGenericShortPacket_apart {m : Field → Bool} {s0 s : State} {a1 a2 a3 a4 a5 a6} (k_log : m .log = true)
    (k_ing : m .ing = true) (h : Apart m s0 s) : OutApart m s0 (execCsi2LineOrGenericShortPacket a1 a2 a3 a4 a5 a6 s) := by
  unfold execCsi2LineOrGenericShortPacket
  try dsimp only
  repeat' first
    | with_reducible assumption
    | with_reducible apply State.at_apart
    | with_reducible apply headerCheck_apart
    | with_reducible refine OutApart.next ?_
    | with_reducible exact OutApart.refused
    | with_reducible refine Apart.foldl _ _ ?_ ?_
    | with_reducible refine Apart.ite ?_ ?_
    | with_reducible refine OutApart.ite ?_ ?_
    | (intro _)
    | split

theorem takeEmbedded_apart {m : Field → Bool} {s0 s : State} {a1 a2 a3} (k_log : m .log = true) (k_ing : m .ing = true) (h :
    Apart m s0 s) : Apart m s0 (takeEmbedded a1 a2 s a3) := by
  unfold takeEmbedded
  try dsimp only
  repeat' first
    | with_reducible assumption
    | with_reducible apply rejectFrame_apart
    | with_reducible apply State.modStream_apart
    | with_reducible refine OutApart.next ?_
    | with_reducible exact OutApart.refused
    | with_reducible refine Apart.foldl _ _ ?_ ?_
    | with_reducible refine Apart.ite ?_ ?_
    | with_reducible refine OutApart.ite ?_ ?_
    | (intro _)
    | split

theorem takeLine_apart {m : Field → Bool} {s0 s : State} {a1 a2 a3} (k_log : m .log = true) (k_ing : m .ing = true) (h : Apart m
    s0 s) : Apart m s0 (takeLine a1 a2 s a3) := by
  unfold takeLine
  try dsimp only
  repeat' first
    | with_reducible assumption
    | with_reducible apply rejectFrame_apart
    | with_reducible apply State.modStream_apart
    | with_reducible refine OutApart.next ?_
    | with_reducible exact OutApart.refused
    | with_reducible refine Apart.foldl _ _ ?_ ?_
    | with_reducible refine Apart.ite ?_ ?_
    | with_reducible refine OutApart.ite ?_ ?_
    | (intro _)
    | split

theorem execCsi2LongPacket_apart {m : Field → Bool} {s0 s : State} {a1 a2 a3 a4 a5 a6 a7 a8} (k_log : m .log = true) (k_ing : m
    .ing = true) (h : Apart m s0 s) : OutApart m s0 (execCsi2LongPacket a1 a2 a3 a4 a5 a6 a7 a8 s) := by
  unfold execCsi2LongPacket
  try dsimp only
  repeat' first
    | with_reducible assumption
    | with_reducible apply State.at_apart
    | with_reducible apply headerCheck_apart
    | with_reducible apply takeEmbedded_apart
    | with_reducible apply logOnce_apart
    | with_reducible apply takeLine_apart
    | with_reducible refine OutApart.next ?_
    | with_reducible exact OutApart.refused
    | with_reducible refine Apart.foldl _ _ ?_ ?_
    | with_reducible refine Apart.ite ?_ ?_
    | with_reducible refine OutApart.ite ?_ ?_
    | (intro _)
    | split

theorem rejectRotation_apart {m : Field → Bool} {s0 s : State} {a1 a2} (k_ing : m .ing = true) (h : Apart m s0 s) : Apart m s0
    (rejectRotation a1 a2 s) := by
  unfold rejectRotation
  try dsimp only
  repeat' first
    | with_reducible assumption
    | with_reducible apply rejectSample_apart
    | with_reducible apply State.modStream_apart
    | with_reducible refine OutApart.next ?_
    | with_reducible exact OutApart.refused
    | with_reducible refine Apart.foldl _ _ ?_ ?_
    | with_reducible refine Apart.ite ?_ ?_
    | with_reducible refine OutApart.ite ?_ ?_
    | (intro _)
    | split

theorem execDecodeBudgetExpiry_apart {m : Field → Bool} {s0 s : State} {a1 a2} (k_log : m .log = true) (k_ing : m .ing = true)
    (h : Apart m s0 s) : OutApart m s0 (execDecodeBudgetExpiry a1 a2 s) := by
  unfold execDecodeBudgetExpiry
  try dsimp only
  repeat' first
    | with_reducible assumption
    | with_reducible apply State.at_apart
    | with_reducible apply endDecode_apart
    | with_reducible apply rejectRotation_apart
    | with_reducible apply logEvent_apart
    | with_reducible refine OutApart.next ?_
    | with_reducible exact OutApart.refused
    | with_reducible refine Apart.foldl _ _ ?_ ?_
    | with_reducible refine Apart.ite ?_ ?_
    | with_reducible refine OutApart.ite ?_ ?_
    | (intro _)
    | split

theorem execDecodeDone_apart {m : Field → Bool} {s0 s : State} {a1 a2 a3} (k_free : m .free = true) (k_log : m .log = true)
    (k_ing : m .ing = true) (h : Apart m s0 s) : OutApart m s0 (execDecodeDone a1 a2 a3 s) := by
  unfold execDecodeDone
  try dsimp only
  repeat' first
    | with_reducible assumption
    | with_reducible apply State.at_apart
    | with_reducible apply endDecode_apart
    | with_reducible refine OutApart.next ?_
    | with_reducible exact OutApart.refused
    | with_reducible refine Apart.foldl _ _ ?_ ?_
    | with_reducible refine Apart.ite ?_ ?_
    | with_reducible refine OutApart.ite ?_ ?_
    | (intro _)
    | split
    | with_reducible refine Apart.free ?_ ?_

theorem execDphyDeskewCalibration_apart {m : Field → Bool} {s0 s : State} {a1 a2} (k_ing : m .ing = true) (h : Apart m s0 s) :
    OutApart m s0 (execDphyDeskewCalibration a1 a2 s) := by
  unfold execDphyDeskewCalibration
  try dsimp only
  repeat' first
    | with_reducible assumption
    | with_reducible apply State.at_apart
    | with_reducible refine OutApart.next ?_
    | with_reducible exact OutApart.refused
    | with_reducible refine Apart.foldl _ _ ?_ ?_
    | with_reducible refine Apart.ite ?_ ?_
    | with_reducible refine OutApart.ite ?_ ?_
    | (intro _)
    | split
    | with_reducible refine Apart.ing ?_ ?_

theorem takePoint_apart {m : Field → Bool} {s0 s : State} {a1 a2 a3 a4} (k_free : m .free = true) (k_log : m .log = true) (k_ing
    : m .ing = true) (h : Apart m s0 s) : Apart m s0 (takePoint a1 a2 a3 s a4) := by
  unfold takePoint
  try dsimp only
  repeat' first
    | with_reducible assumption
    | with_reducible apply beginRotation_apart
    | with_reducible apply endRotation_apart
    | with_reducible apply State.modStream_apart
    | with_reducible apply rejectRotation_apart
    | with_reducible apply logEvent_apart
    | with_reducible refine OutApart.next ?_
    | with_reducible exact OutApart.refused
    | with_reducible refine Apart.foldl _ _ ?_ ?_
    | with_reducible refine Apart.ite ?_ ?_
    | with_reducible refine OutApart.ite ?_ ?_
    | (intro _)
    | split

theorem lidarPacket_apart {m : Field → Bool} {s0 s : State} {a1 a2 a3} (k_free : m .free = true) (k_log : m .log = true) (k_ing
    : m .ing = true) (h : Apart m s0 s) : Apart m s0 (lidarPacket a1 a2 a3 s) := by
  unfold lidarPacket
  try dsimp only
  repeat' first
    | with_reducible assumption
    | with_reducible apply endRotation_apart
    | with_reducible apply beginRotation_apart
    | with_reducible apply State.modStream_apart
    | with_reducible apply rejectRotation_apart
    | with_reducible apply logEvent_apart
    | with_reducible apply takePoint_apart
    | with_reducible refine OutApart.next ?_
    | with_reducible exact OutApart.refused
    | with_reducible refine Apart.foldl _ _ ?_ ?_
    | with_reducible refine Apart.ite ?_ ?_
    | with_reducible refine OutApart.ite ?_ ?_
    | (intro _)
    | split

theorem headlessRtp_apart {m : Field → Bool} {s0 s : State} {a1 a2} (k_log : m .log = true) (k_ing : m .ing = true) (h : Apart m
    s0 s) : Apart m s0 (headlessRtp a1 a2 s) := by
  unfold headlessRtp
  try dsimp only
  repeat' first
    | with_reducible assumption
    | with_reducible apply logEvent_apart
    | with_reducible apply State.modStream_apart
    | with_reducible refine OutApart.next ?_
    | with_reducible exact OutApart.refused
    | with_reducible refine Apart.foldl _ _ ?_ ?_
    | with_reducible refine Apart.ite ?_ ?_
    | with_reducible refine OutApart.ite ?_ ?_
    | (intro _)
    | split

theorem takeFragment_apart {m : Field → Bool} {s0 s : State} {a1 a2 a3} (k_log : m .log = true) (k_ing : m .ing = true) (h :
    Apart m s0 s) : Apart m s0 (takeFragment a1 a2 a3 s) := by
  unfold takeFragment
  try dsimp only
  repeat' first
    | with_reducible assumption
    | with_reducible apply rejectRtp_apart
    | with_reducible apply State.modStream_apart
    | with_reducible refine OutApart.next ?_
    | with_reducible exact OutApart.refused
    | with_reducible refine Apart.foldl _ _ ?_ ?_
    | with_reducible refine Apart.ite ?_ ?_
    | with_reducible refine OutApart.ite ?_ ?_
    | (intro _)
    | split

theorem rtpPacket_apart {m : Field → Bool} {s0 s : State} {a1 a2 a3} (k_log : m .log = true) (k_ing : m .ing = true) (h : Apart
    m s0 s) : Apart m s0 (rtpPacket a1 a2 a3 s) := by
  unfold rtpPacket
  try dsimp only
  repeat' first
    | with_reducible assumption
    | with_reducible apply State.modStream_apart
    | with_reducible apply rejectRtp_apart
    | with_reducible apply beginRtp_apart
    | with_reducible apply headlessRtp_apart
    | with_reducible apply takeFragment_apart
    | with_reducible apply endRtp_apart
    | with_reducible refine OutApart.next ?_
    | with_reducible exact OutApart.refused
    | with_reducible refine Apart.foldl _ _ ?_ ?_
    | with_reducible refine Apart.ite ?_ ?_
    | with_reducible refine OutApart.ite ?_ ?_
    | (intro _)
    | split

theorem takePacket_apart {m : Field → Bool} {s0 s : State} {a1 a2} (k_free : m .free = true) (k_log : m .log = true) (k_ing : m
    .ing = true) (h : Apart m s0 s) : Apart m s0 (takePacket a1 s a2) := by
  unfold takePacket
  try dsimp only
  repeat' first
    | with_reducible assumption
    | with_reducible apply lidarPacket_apart
    | with_reducible apply heard_apart
    | with_reducible apply rtpPacket_apart
    | with_reducible refine OutApart.next ?_
    | with_reducible exact OutApart.refused
    | with_reducible refine Apart.foldl _ _ ?_ ?_
    | with_reducible refine Apart.ite ?_ ?_
    | with_reducible refine OutApart.ite ?_ ?_
    | (intro _)
    | split

theorem execEthernetFrame_apart {m : Field → Bool} {s0 s : State} {a1 a2 a3 a4 a5} (k_free : m .free = true) (k_tb : m .tb =
    true) (k_cue : m .cue = true) (k_log : m .log = true) (k_ing : m .ing = true) (h : Apart m s0 s) : OutApart m s0
    (execEthernetFrame a1 a2 a3 a4 a5 s) := by
  unfold execEthernetFrame
  try dsimp only
  repeat' first
    | with_reducible assumption
    | with_reducible apply State.at_apart
    | with_reducible apply logOnce_apart
    | with_reducible apply ptpMessage_apart
    | with_reducible apply takePacket_apart
    | with_reducible refine OutApart.next ?_
    | with_reducible exact OutApart.refused
    | with_reducible refine Apart.foldl _ _ ?_ ?_
    | with_reducible refine Apart.ite ?_ ?_
    | with_reducible refine OutApart.ite ?_ ?_
    | (intro _)
    | split

theorem execJpegDecodeStart_apart {m : Field → Bool} {s0 s : State} {a1 a2} (k_ing : m .ing = true) (h : Apart m s0 s) :
    OutApart m s0 (execJpegDecodeStart a1 a2 s) := by
  unfold execJpegDecodeStart
  try dsimp only
  repeat' first
    | with_reducible assumption
    | with_reducible apply State.at_apart
    | with_reducible refine OutApart.next ?_
    | with_reducible exact OutApart.refused
    | with_reducible refine Apart.foldl _ _ ?_ ?_
    | with_reducible refine Apart.ite ?_ ?_
    | with_reducible refine OutApart.ite ?_ ?_
    | (intro _)
    | split
    | with_reducible refine Apart.ing ?_ ?_

theorem judgeSample_apart {m : Field → Bool} {s0 s : State} {a1 a2 a3} (k_log : m .log = true) (k_ing : m .ing = true) (h :
    Apart m s0 s) : Apart m s0 (judgeSample a1 a2 a3 s) := by
  unfold judgeSample
  try dsimp only
  repeat' first
    | with_reducible assumption
    | with_reducible apply logEvent_apart
    | with_reducible apply State.modStream_apart
    | with_reducible refine OutApart.next ?_
    | with_reducible exact OutApart.refused
    | with_reducible refine Apart.foldl _ _ ?_ ?_
    | with_reducible refine Apart.ite ?_ ?_
    | with_reducible refine OutApart.ite ?_ ?_
    | (intro _)
    | split

theorem judgeProof_apart {m : Field → Bool} {s0 s : State} {a1 a2 a3} (k_log : m .log = true) (k_units : m .units = true) (k_cur
    : m .cur = true) (k_cls : m .cls = true) (k_sched : m .sched = true) (k_part : m .part = true) (k_accts : m .accts = true)
    (k_mem : m .mem = true) (k_press : m .press = true) (k_ing : m .ing = true) (k_gov : m .gov = true) (h : Apart m s0 s) :
    Apart m s0 (judgeProof a1 a2 a3 s) := by
  unfold judgeProof
  try dsimp only
  repeat' first
    | with_reducible assumption
    | with_reducible apply State.modStream_apart
    | with_reducible apply failAttempt_apart
    | with_reducible apply passCheck_apart
    | with_reducible apply strike_apart
    | with_reducible apply logEvent_apart
    | with_reducible refine OutApart.next ?_
    | with_reducible exact OutApart.refused
    | with_reducible refine Apart.foldl _ _ ?_ ?_
    | with_reducible refine Apart.ite ?_ ?_
    | with_reducible refine OutApart.ite ?_ ?_
    | (intro _)
    | split

theorem settleProof_apart {m : Field → Bool} {s0 s : State} {a1 a2 a3} (k_log : m .log = true) (k_units : m .units = true)
    (k_cur : m .cur = true) (k_cls : m .cls = true) (k_sched : m .sched = true) (k_part : m .part = true) (k_accts : m .accts =
    true) (k_mem : m .mem = true) (k_press : m .press = true) (k_ing : m .ing = true) (k_gov : m .gov = true) (h : Apart m s0 s)
    : Apart m s0 (settleProof a1 a2 s a3) := by
  unfold settleProof
  try dsimp only
  repeat' first
    | with_reducible assumption
    | with_reducible apply judgeProof_apart
    | with_reducible apply State.modStream_apart
    | with_reducible refine OutApart.next ?_
    | with_reducible exact OutApart.refused
    | with_reducible refine Apart.foldl _ _ ?_ ?_
    | with_reducible refine Apart.ite ?_ ?_
    | with_reducible refine OutApart.ite ?_ ?_
    | (intro _)
    | split

theorem settleProofs_apart {m : Field → Bool} {s0 s : State} {a1 a2} (k_log : m .log = true) (k_units : m .units = true) (k_cur
    : m .cur = true) (k_cls : m .cls = true) (k_sched : m .sched = true) (k_part : m .part = true) (k_accts : m .accts = true)
    (k_mem : m .mem = true) (k_press : m .press = true) (k_ing : m .ing = true) (k_gov : m .gov = true) (h : Apart m s0 s) :
    Apart m s0 (settleProofs a1 a2 s) := by
  unfold settleProofs
  try dsimp only
  repeat' first
    | with_reducible assumption
    | with_reducible apply settleProof_apart
    | with_reducible refine OutApart.next ?_
    | with_reducible exact OutApart.refused
    | with_reducible refine Apart.foldl _ _ ?_ ?_
    | with_reducible refine Apart.ite ?_ ?_
    | with_reducible refine OutApart.ite ?_ ?_
    | (intro _)
    | split

theorem execSampleComplete_apart {m : Field → Bool} {s0 s : State} {a1 a2 a3} (k_log : m .log = true) (k_units : m .units =
    true) (k_cur : m .cur = true) (k_cls : m .cls = true) (k_sched : m .sched = true) (k_part : m .part = true) (k_accts : m
    .accts = true) (k_mem : m .mem = true) (k_press : m .press = true) (k_ing : m .ing = true) (k_gov : m .gov = true) (h :
    Apart m s0 s) : OutApart m s0 (execSampleComplete a1 a2 a3 s) := by
  unfold execSampleComplete
  try dsimp only
  repeat' first
    | with_reducible assumption
    | with_reducible apply State.at_apart
    | with_reducible apply State.modStream_apart
    | with_reducible apply judgeSample_apart
    | with_reducible apply settleProofs_apart
    | with_reducible refine OutApart.next ?_
    | with_reducible exact OutApart.refused
    | with_reducible refine Apart.foldl _ _ ?_ ?_
    | with_reducible refine Apart.ite ?_ ?_
    | with_reducible refine OutApart.ite ?_ ?_
    | (intro _)
    | split

theorem execStreamLossTimeout_apart {m : Field → Bool} {s0 s : State} {a1 a2} (k_log : m .log = true) (k_units : m .units =
    true) (k_ing : m .ing = true) (h : Apart m s0 s) : OutApart m s0 (execStreamLossTimeout a1 a2 s) := by
  unfold execStreamLossTimeout
  try dsimp only
  repeat' first
    | with_reducible assumption
    | with_reducible apply State.at_apart
    | with_reducible apply logEvent_apart
    | with_reducible apply State.modStream_apart
    | with_reducible apply State.modUnit_apart
    | with_reducible refine OutApart.next ?_
    | with_reducible exact OutApart.refused
    | with_reducible refine Apart.foldl _ _ ?_ ?_
    | with_reducible refine Apart.ite ?_ ?_
    | with_reducible refine OutApart.ite ?_ ?_
    | (intro _)
    | split

end Sys2Proof.Machine
end

