-- ==== Sys2Proof/Laws/Log.lean ====
section
/-! SUPPORT. How the event log grows. -/

namespace Sys2Proof.Machine

variable {s t u : State} {a b : List LogRec}

theorem take_append_take (n : Nat) (b x : List LogRec) : (b ++ x.take n).take n = (b ++ x).take n := by
  rw [List.take_append, List.take_append, List.take_take]
  congr 2
  omega

theorem LogGrows.same (h : t.log = s.log) : LogGrows s t [] := by
  refine ⟨by rw [h, List.nil_append], by rw [h]; simp⟩

theorem LogGrows.trans (x : LogGrows s t a) (y : LogGrows t u b) : LogGrows s u (b ++ a) := by
  refine ⟨?_, ?_⟩
  · rw [y.1, ← take_append_take 4096 b t.log.recs, x.1, take_append_take, List.append_assoc]
  · rw [y.2, x.2, List.length_append, BitVec.ofNat_add, BitVec.add_assoc,
      BitVec.add_comm (BitVec.ofNat 32 a.length)]

/-- One event is one record. -/
theorem logEvent_grows (code : Nat) (unit : Byte) (detail : Nat) (s : State) :
    ∃ r, LogGrows s (logEvent code unit detail s) [r] ∧ r.code = BitVec.ofNat 16 code ∧ r.unit = unit ∧
      r.detail = BitVec.ofNat 8 detail :=
  ⟨{ number := s.log.head + 1, cue := BitVec.ofNat 32 s.cue.count.toNat, offset := State.logOffset { s with arb := s.arb.number }, unit := unit
     code := BitVec.ofNat 16 code, detail := BitVec.ofNat 8 detail },
    ⟨by simp [logEvent, List.take_take], by simp [logEvent]⟩, rfl, rfl, rfl⟩

theorem logEvent_logs (code : Nat) (unit : Byte) (detail : Nat) (s : State) : Logs s (logEvent code unit detail s) code unit
    detail := by
  obtain ⟨r, h, e⟩ := logEvent_grows code unit detail s
  exact ⟨[r], h, r, List.mem_singleton.2 rfl, e⟩

theorem logEvent_newest (code : Nat) (unit : Byte) (detail : Nat) (s : State) : Newest (logEvent code unit detail s) code unit
    detail :=
  ⟨_, rfl, rfl, rfl, rfl, rfl⟩

theorem Logs.later {code : Nat} {unit : Byte} {detail : Nat} (h : Logs s t code unit detail) (g : LogGrows t u b) :
    Logs s u code unit detail := by
  obtain ⟨new, k, r, hr, e⟩ := h
  exact ⟨b ++ new, k.trans g, r, List.mem_append_right _ hr, e⟩

theorem Logs.earlier {code : Nat} {unit : Byte} {detail : Nat} (g : LogGrows s t b) (h : Logs t u code unit detail) :
    Logs s u code unit detail := by
  obtain ⟨new, k, r, hr, e⟩ := h
  exact ⟨new ++ b, g.trans k, r, List.mem_append_left _ hr, e⟩

end Sys2Proof.Machine
end

