-- ==== Sys2Proof/Laws/InCue.lean ====
section
/-! SUPPORT. What holds within one cue, outside a reset: the cue's place stays, a latch, a verdict on the cue and FAULT_N once set stay
set, FAULT_N is not asserted without the curtain's latch, and the event log grows by one record per house sequence number. -/

namespace Sys2Proof.Machine

/-- What every operation but a boundary and a reset keeps. -/
structure InCue (s t : State) : Prop where
  count : t.cue.count = s.cue.count
  b : t.cue.b = s.cue.b
  source : t.cue.source = s.cue.source
  stamp : t.cue.stamp = s.cue.stamp
  invalid : s.cue.invalid = true → t.cue.invalid = true
  published : s.cue.published = true → t.cue.published = true
  late : s.cue.late = true → t.cue.late = true
  latch : s.cur.latch = true → t.cur.latch = true
  fault : s.dev.faultN = true → t.dev.faultN = true
  atB : t.cue.stateAtB = s.cue.stateAtB
  raise : t.dev.faultN = true → s.dev.faultN = true ∨ t.cur.latch = true
  log : ∃ new, LogGrows s t new

variable {s t u : State}

theorem InCue.refl (s : State) : InCue s s := ⟨rfl, rfl, rfl, rfl, id, id, id, id, id, rfl, .inl, [], .same rfl⟩

theorem InCue.trans (a : InCue s t) (b : InCue t u) : InCue s u :=
  ⟨b.1.trans a.1, b.2.trans a.2, b.3.trans a.3, b.4.trans a.4, b.5 ∘ a.5, b.6 ∘ a.6, b.7 ∘ a.7, b.8 ∘ a.8, b.9 ∘ a.9, b.10.trans a.10,
    fun h => (b.11 h).elim (fun g => (a.11 g).imp id b.8) .inr,
    let ⟨_, x⟩ := a.12; let ⟨_, y⟩ := b.12; ⟨_, x.trans y⟩⟩

/-- A record update that leaves the cue, the curtain and the device. -/
theorem InCue.rest {x_pending : List Instr} {x_now : Nat} {x_arb : Arbiter} {x_free : Nat} {x_ident : Ident} {x_fuses : Fuses}
    {x_chip : Chip}
    {x_upd : Upd} {x_ufs : List Host.Cell} {x_ufsCap : Nat} {x_forme : Forme} {x_tb : TimeBase} {x_log : Log} {x_units : Vector
    UnitRec 59} {x_cls : List Classif} {x_sched : Sched} {x_cog : Cog} {x_part : Vector PartRt 8} {x_accts : List Acct}
    {x_acctWin : AcctWin} {x_mem : Mem} {x_press : Vector Press 16} {x_ing : Ingest} {x_port : Port} {x_gov : Gov} {x_overruns :
    List (Fin 100)} (h : InCue s t) (e0 : x_log = t.log) : InCue s (State.mk x_pending x_now x_arb x_free x_ident x_fuses x_chip t.dev x_upd x_ufs x_ufsCap
    x_forme x_tb t.cue x_log x_units t.cur x_cls x_sched x_cog x_part x_accts x_acctWin x_mem x_press x_ing x_port x_gov
    x_overruns) :=
  h.trans ⟨rfl, rfl, rfl, rfl, id, id, id, id, id, rfl, .inl, [], .same e0⟩

/-- Any record update, with what it must keep. -/
theorem InCue.upd {x_now : Nat} {x_arb : Arbiter} {x_free : Nat} {x_ident : Ident} {x_fuses : Fuses} {x_chip : Chip}
    {x_dev : Dev} {x_upd : Upd} {x_ufs : List Host.Cell} {x_ufsCap : Nat} {x_forme : Forme} {x_tb : TimeBase} {x_cue : Cue}
    {x_log : Log} {x_units : Vector UnitRec 59} {x_cur : Curtain} {x_cls : List Classif} {x_sched : Sched} {x_cog : Cog} {x_part
    : Vector PartRt 8} {x_accts : List Acct} {x_acctWin : AcctWin} {x_mem : Mem} {x_press : Vector Press 16} {x_ing : Ingest}
    {x_port : Port} {x_gov : Gov} {x_overruns : List (Fin 100)} (h : InCue s t) (e1 : x_cue.count = t.cue.count) (e2 : x_cue.b =
    t.cue.b) (e3 : x_cue.source = t.cue.source) (e4 : x_cue.stamp = t.cue.stamp) (e5 : t.cue.invalid = true → x_cue.invalid =
    true) (e6 : t.cue.published = true → x_cue.published = true) (e7 : t.cue.late = true → x_cue.late = true) (e8 : t.cur.latch
    = true → x_cur.latch = true) (e9 : t.dev.faultN = true → x_dev.faultN = true) (e10 : x_cue.stateAtB = t.cue.stateAtB)
    (e11 : x_dev.faultN = true → t.dev.faultN = true ∨ x_cur.latch = true) (e12 : x_log = t.log) : InCue s (State.mk t.pending x_now x_arb x_free
    x_ident x_fuses x_chip x_dev x_upd x_ufs x_ufsCap x_forme x_tb x_cue x_log x_units x_cur x_cls x_sched x_cog x_part x_accts
    x_acctWin x_mem x_press x_ing x_port x_gov x_overruns) :=
  h.trans ⟨e1, e2, e3, e4, e5, e6, e7, e8, e9, e10, e11, [], .same e12⟩

/-- The state of a pair whose pair is known. -/
theorem InCue.snd {α : Type} {p : α × State} {a : α} (h : InCue s p.2) (e : p = (a, t)) : InCue s t := by
  subst e; exact h

theorem InCue.fst {α : Type} {p : State × α} {a : α} (h : InCue s p.1) (e : p = (t, a)) : InCue s t := by
  subst e; exact h

theorem InCue.trd {α β : Type} {p : α × β × State} {a : α} {b : β} (h : InCue s p.2.2) (e : p = (a, b, t)) : InCue s t := by
  subst e; exact h

theorem InCue.foldl {α : Type} (l : List α) (f : State → α → State) (h : InCue s t) (hf : ∀ u a, InCue s u → InCue s (f u a)) :
    InCue s (l.foldl f t) := by
  induction l generalizing t with
  | nil => exact h
  | cons a l ih => exact ih (hf _ _ h)

/-- Both branches of a choice. -/
theorem InCue.ite {c : Prop} [Decidable c] (a : InCue s t) (b : InCue s u) : InCue s (if c then t else u) := by
  split <;> assumption

/-- A command's outcome keeps them, if it is a next state. -/
def OutInCue (s : State) : Host.Outcome State Fault Refusal → Prop
  | .next t => InCue s t
  | .fault _ => True
  | .refused _ => True

theorem OutInCue.next (h : InCue s t) : OutInCue s (.next t) := h

theorem OutInCue.refused {r : Refusal} : OutInCue s (.refused r) := trivial

theorem OutInCue.ite {o p : Host.Outcome State Fault Refusal} {c : Prop} [Decidable c] (a : OutInCue s o) (b : OutInCue s p) :
    OutInCue s (if c then o else p) := by
  split <;> assumption

end Sys2Proof.Machine
end

