-- ==== Sys2Proof/Laws/InCueOps.lean ====
section
/-! SUPPORT. What the operations of Machine/Ops.lean keep within a cue. -/

namespace Sys2Proof.Machine

theorem State.at_inCue {s0 s : State} {a1 : Nat} (h : InCue s0 s) : InCue s0 (s.at a1) := by
  unfold State.at
  exact h.rest rfl

theorem State.modPart_inCue {s0 s : State} {a1 a2} (h : InCue s0 s) : InCue s0 (State.modPart a1 a2 s) := by
  unfold State.modPart
  try dsimp only
  repeat' first
    | with_reducible assumption
    | with_reducible exact Or.inl
    | with_reducible exact id
    | with_reducible exact fun _ => rfl
    | with_reducible refine OutInCue.next ?_
    | with_reducible exact OutInCue.refused
    | with_reducible refine InCue.foldl _ _ ?_ ?_
    | with_reducible refine InCue.ite ?_ ?_
    | with_reducible refine OutInCue.ite ?_ ?_
    | (intro _)
    | split
    | with_reducible rfl
    | with_reducible apply InCue.rest
    | with_reducible apply InCue.upd

theorem State.modUnit_inCue {s0 s : State} {a1 a2} (h : InCue s0 s) : InCue s0 (State.modUnit a1 a2 s) := by
  unfold State.modUnit
  try dsimp only
  repeat' first
    | with_reducible assumption
    | with_reducible exact Or.inl
    | with_reducible exact id
    | with_reducible exact fun _ => rfl
    | with_reducible refine OutInCue.next ?_
    | with_reducible exact OutInCue.refused
    | with_reducible refine InCue.foldl _ _ ?_ ?_
    | with_reducible refine InCue.ite ?_ ?_
    | with_reducible refine OutInCue.ite ?_ ?_
    | (intro _)
    | split
    | with_reducible rfl
    | with_reducible apply InCue.rest
    | with_reducible apply InCue.upd

theorem logEvent_inCue {s0 s : State} {a1 a2 a3} (h : InCue s0 s) : InCue s0 (logEvent a1 a2 a3 s) :=
  h.trans ⟨rfl, rfl, rfl, rfl, id, id, id, id, id, rfl, .inl, let ⟨r, g, _⟩ := logEvent_grows a1 a2 a3 s; ⟨[r], g⟩⟩

theorem irq_inCue {s0 s : State} {a1} (h : InCue s0 s) : InCue s0 (irq a1 s) := by
  unfold irq
  try dsimp only
  repeat' first
    | with_reducible assumption
    | with_reducible exact Or.inl
    | with_reducible exact id
    | with_reducible exact fun _ => rfl
    | with_reducible refine OutInCue.next ?_
    | with_reducible exact OutInCue.refused
    | with_reducible refine InCue.foldl _ _ ?_ ?_
    | with_reducible refine InCue.ite ?_ ?_
    | with_reducible refine OutInCue.ite ?_ ?_
    | (intro _)
    | split
    | with_reducible rfl
    | with_reducible apply InCue.rest
    | with_reducible apply InCue.upd

theorem curtainStop_inCue {s0 s : State} {a1 a2} (h : InCue s0 s) : InCue s0 (curtainStop a1 a2 s) := by
  unfold curtainStop
  try dsimp only
  repeat' first
    | with_reducible assumption
    | with_reducible exact Or.inl
    | with_reducible exact id
    | with_reducible exact fun _ => rfl
    | with_reducible apply irq_inCue
    | with_reducible apply logEvent_inCue
    | with_reducible refine OutInCue.next ?_
    | with_reducible exact OutInCue.refused
    | with_reducible refine InCue.foldl _ _ ?_ ?_
    | with_reducible refine InCue.ite ?_ ?_
    | with_reducible refine OutInCue.ite ?_ ?_
    | (intro _)
    | split
    | with_reducible rfl
    | with_reducible apply InCue.rest
    | with_reducible apply InCue.upd

theorem invalidate_inCue {s0 s : State} {a1} (h : InCue s0 s) : InCue s0 (invalidate a1 s) := by
  unfold invalidate
  try dsimp only
  repeat' first
    | with_reducible assumption
    | with_reducible exact Or.inl
    | with_reducible exact id
    | with_reducible exact fun _ => rfl
    | with_reducible refine OutInCue.next ?_
    | with_reducible exact OutInCue.refused
    | with_reducible refine InCue.foldl _ _ ?_ ?_
    | with_reducible refine InCue.ite ?_ ?_
    | with_reducible refine OutInCue.ite ?_ ?_
    | (intro _)
    | split
    | with_reducible rfl
    | with_reducible apply InCue.rest
    | with_reducible apply InCue.upd

theorem detect_inCue {s0 s : State} {a1 a2} (h : InCue s0 s) : InCue s0 (detect a1 a2 s) := by
  unfold detect
  try dsimp only
  repeat' first
    | with_reducible assumption
    | with_reducible exact Or.inl
    | with_reducible exact id
    | with_reducible exact fun _ => rfl
    | with_reducible apply curtainStop_inCue
    | with_reducible apply invalidate_inCue
    | with_reducible refine OutInCue.next ?_
    | with_reducible exact OutInCue.refused
    | with_reducible refine InCue.foldl _ _ ?_ ?_
    | with_reducible refine InCue.ite ?_ ?_
    | with_reducible refine OutInCue.ite ?_ ?_
    | (intro _)
    | split
    | with_reducible rfl
    | with_reducible apply InCue.rest
    | with_reducible apply InCue.upd

theorem setState_inCue {s0 s : State} {a1} (h : InCue s0 s) : InCue s0 (setState a1 s) := by
  unfold setState
  try dsimp only
  repeat' first
    | with_reducible assumption
    | with_reducible exact Or.inl
    | with_reducible exact id
    | with_reducible exact fun _ => rfl
    | with_reducible apply irq_inCue
    | with_reducible refine OutInCue.next ?_
    | with_reducible exact OutInCue.refused
    | with_reducible refine InCue.foldl _ _ ?_ ?_
    | with_reducible refine InCue.ite ?_ ?_
    | with_reducible refine OutInCue.ite ?_ ?_
    | (intro _)
    | split
    | with_reducible rfl
    | with_reducible apply InCue.rest
    | with_reducible apply InCue.upd

theorem enterBare_inCue {s0 s : State} (h : InCue s0 s) : InCue s0 (enterBare s) := by
  unfold enterBare
  try dsimp only
  repeat' first
    | with_reducible assumption
    | with_reducible exact Or.inl
    | with_reducible exact id
    | with_reducible exact fun _ => rfl
    | with_reducible apply logEvent_inCue
    | with_reducible apply setState_inCue
    | with_reducible refine OutInCue.next ?_
    | with_reducible exact OutInCue.refused
    | with_reducible refine InCue.foldl _ _ ?_ ?_
    | with_reducible refine InCue.ite ?_ ?_
    | with_reducible refine OutInCue.ite ?_ ?_
    | (intro _)
    | split
    | with_reducible rfl
    | with_reducible apply InCue.rest
    | with_reducible apply InCue.upd

theorem detect_latch (c : Nat) (u : Byte) (s : State) : (detect c u s).cur.latch = true := by
  unfold detect curtainStop
  split <;> rfl

/-- A device-level fault asserts FAULT_N and stops the curtain in one go. -/
theorem deviceFault_inCue {s0 s : State} {a1 a2} (h : InCue s0 s) : InCue s0 (deviceFault a1 a2 s) := by
  unfold deviceFault
  split
  · exact h
  · extract_lets old s1 dv s2 s3
    have h1 : InCue s0 s1 := logEvent_inCue h
    have key : InCue s0 s3 := by
      by_cases hf : old = true
      · have e : s2 = s1 := if_pos hf
        exact detect_inCue (e ▸ h1)
      · have e : s2 = irq 5 { s1 with dev := { s1.dev with
            faultN := true, faultCause := BitVec.ofNat 4 a1, faultUnit := a2 } } := if_neg hf
        have hc : s2.cue = s1.cue := by rw [e]; rfl
        have hl : s2.cur = s1.cur := by rw [e]; rfl
        have ht : s2.dev.faultN = true := by rw [e]; rfl
        have g : InCue s2 s3 := detect_inCue (.refl _)
        exact ⟨g.1.trans (hc ▸ h1.1), g.2.trans (hc ▸ h1.2), g.3.trans (hc ▸ h1.3), g.4.trans (hc ▸ h1.4), fun x => g.5 (hc ▸ h1.5 x),
          fun x => g.6 (hc ▸ h1.6 x), fun x => g.7 (hc ▸ h1.7 x), fun x => g.8 (hl ▸ h1.8 x), fun _ => g.9 ht,
          g.10.trans (hc ▸ h1.10), fun _ => .inr (detect_latch _ _ _),
          let ⟨_, x⟩ := h1.12; let ⟨_, y⟩ := g.12; have hg : LogGrows s1 s2 [] := .same (by rw [e]; rfl); ⟨_, (x.trans hg).trans y⟩⟩
    split <;> first | exact enterBare_inCue key | exact key

theorem logOnce_inCue {s0 s : State} {a1 a2 a3 a4} (h : InCue s0 s) : InCue s0 (logOnce a1 a2 a3 a4 s) :=
  .ite h (logEvent_inCue (h.trans ⟨rfl, rfl, rfl, rfl, id, id, id, id, id, rfl, .inl, [], rfl, by simp⟩))

theorem enterBlank_inCue {s0 s : State} {a1 a2 a3} (h : InCue s0 s) : InCue s0 (enterBlank a1 a2 a3 s) := by
  unfold enterBlank
  try dsimp only
  repeat' first
    | with_reducible assumption
    | with_reducible exact Or.inl
    | with_reducible exact id
    | with_reducible exact fun _ => rfl
    | with_reducible apply setState_inCue
    | with_reducible refine OutInCue.next ?_
    | with_reducible exact OutInCue.refused
    | with_reducible refine InCue.foldl _ _ ?_ ?_
    | with_reducible refine InCue.ite ?_ ?_
    | with_reducible refine OutInCue.ite ?_ ?_
    | (intro _)
    | split
    | with_reducible rfl
    | with_reducible apply InCue.rest
    | with_reducible apply InCue.upd

theorem noteSeen_inCue {s0 s : State} {a1} (h : InCue s0 s) : InCue s0 (noteSeen a1 s) := by
  unfold noteSeen
  try dsimp only
  repeat' first
    | with_reducible assumption
    | with_reducible exact Or.inl
    | with_reducible exact id
    | with_reducible exact fun _ => rfl
    | with_reducible refine OutInCue.next ?_
    | with_reducible exact OutInCue.refused
    | with_reducible refine InCue.foldl _ _ ?_ ?_
    | with_reducible refine InCue.ite ?_ ?_
    | with_reducible refine OutInCue.ite ?_ ?_
    | (intro _)
    | split
    | with_reducible rfl
    | with_reducible apply InCue.rest
    | with_reducible apply InCue.upd

end Sys2Proof.Machine
end

