-- ==== Sys2Proof/Laws/InCueKill.lean ====
section
/-! SUPPORT. What the operations of Machine/Kill.lean keep within a cue. -/

namespace Sys2Proof.Machine

theorem State.modInst_inCue {s0 s : State} {a1 a2} (h : InCue s0 s) : InCue s0 (State.modInst a1 a2 s) := by
  unfold State.modInst
  try dsimp only
  repeat' first
    | with_reducible assumption
    | with_reducible exact Or.inl
    | with_reducible exact id
    | with_reducible exact fun _ => rfl
    | with_reducible refine OutInCue.next ?_
    | with_reducible exact OutInCue.refused
    | with_reducible refine InCue.foldl _ _ ?_ ?_
    | with_reducible refine InCue.ite ?_ ?_
    | with_reducible refine OutInCue.ite ?_ ?_
    | (intro _)
    | split
    | with_reducible rfl
    | with_reducible apply InCue.rest
    | with_reducible apply InCue.upd

theorem State.modPress_inCue {s0 s : State} {a1 a2} (h : InCue s0 s) : InCue s0 (State.modPress a1 a2 s) := by
  unfold State.modPress
  try dsimp only
  repeat' first
    | with_reducible assumption
    | with_reducible exact Or.inl
    | with_reducible exact id
    | with_reducible exact fun _ => rfl
    | with_reducible refine OutInCue.next ?_
    | with_reducible exact OutInCue.refused
    | with_reducible refine InCue.foldl _ _ ?_ ?_
    | with_reducible refine InCue.ite ?_ ?_
    | with_reducible refine OutInCue.ite ?_ ?_
    | (intro _)
    | split
    | with_reducible rfl
    | with_reducible apply InCue.rest
    | with_reducible apply InCue.upd

theorem State.putAcct_inCue {s0 s : State} {a1} (h : InCue s0 s) : InCue s0 (State.putAcct a1 s) := by
  unfold State.putAcct
  try dsimp only
  repeat' first
    | with_reducible assumption
    | with_reducible exact Or.inl
    | with_reducible exact id
    | with_reducible exact fun _ => rfl
    | with_reducible refine OutInCue.next ?_
    | with_reducible exact OutInCue.refused
    | with_reducible refine InCue.foldl _ _ ?_ ?_
    | with_reducible refine InCue.ite ?_ ?_
    | with_reducible refine OutInCue.ite ?_ ?_
    | (intro _)
    | split
    | with_reducible rfl
    | with_reducible apply InCue.rest
    | with_reducible apply InCue.upd

theorem abandonInst_inCue {s0 s : State} {a1 a2} (h : InCue s0 s) : InCue s0 (abandonInst a1 a2 s) := by
  unfold abandonInst
  try dsimp only
  repeat' first
    | with_reducible assumption
    | with_reducible exact Or.inl
    | with_reducible exact id
    | with_reducible exact fun _ => rfl
    | with_reducible apply logEvent_inCue
    | with_reducible apply State.modInst_inCue
    | with_reducible refine OutInCue.next ?_
    | with_reducible exact OutInCue.refused
    | with_reducible refine InCue.foldl _ _ ?_ ?_
    | with_reducible refine InCue.ite ?_ ?_
    | with_reducible refine OutInCue.ite ?_ ?_
    | (intro _)
    | split
    | with_reducible rfl
    | with_reducible apply InCue.rest
    | with_reducible apply InCue.upd

theorem charge_inCue {s0 s : State} {a1 a2 a3 a4} (h : InCue s0 s) : InCue s0 (charge a1 a2 a3 a4 s) := by
  unfold charge
  try dsimp only
  repeat' first
    | with_reducible assumption
    | with_reducible exact Or.inl
    | with_reducible exact id
    | with_reducible exact fun _ => rfl
    | with_reducible apply State.putAcct_inCue
    | with_reducible apply logEvent_inCue
    | with_reducible refine OutInCue.next ?_
    | with_reducible exact OutInCue.refused
    | with_reducible refine InCue.foldl _ _ ?_ ?_
    | with_reducible refine InCue.ite ?_ ?_
    | with_reducible refine OutInCue.ite ?_ ?_
    | (intro _)
    | split
    | with_reducible rfl
    | with_reducible apply InCue.rest
    | with_reducible apply InCue.upd

theorem chargeRows_inCue {s0 s : State} {a1 a2 a3 a4 a5 : Nat} {a6 : List Row} {a7 : Nat × Nat × Nat} (h : InCue s0 s) :
    InCue s0 (chargeRows a1 a2 a3 a4 a5 a6 a7 s) := by
  induction a6 generalizing a7 s with
  | nil => exact charge_inCue h
  | cons r rs ih =>
    obtain ⟨rc, rb, re⟩ := a7
    unfold chargeRows
    split
    · exact ih h
    · exact ih (charge_inCue h)

theorem chargeRun_inCue {s0 s : State} {a1} (h : InCue s0 s) : InCue s0 (chargeRun a1 s) := by
  unfold chargeRun
  try dsimp only
  repeat' first
    | with_reducible assumption
    | with_reducible exact Or.inl
    | with_reducible exact id
    | with_reducible exact fun _ => rfl
    | with_reducible apply State.modPart_inCue
    | with_reducible apply chargeRows_inCue
    | with_reducible apply charge_inCue
    | with_reducible refine OutInCue.next ?_
    | with_reducible exact OutInCue.refused
    | with_reducible refine InCue.foldl _ _ ?_ ?_
    | with_reducible refine InCue.ite ?_ ?_
    | with_reducible refine OutInCue.ite ?_ ?_
    | (intro _)
    | split
    | with_reducible rfl
    | with_reducible apply InCue.rest
    | with_reducible apply InCue.upd

theorem logKill_inCue {s0 s : State} {a1 a2} (h : InCue s0 s) : InCue s0 (logKill a1 a2 s) := by
  unfold logKill
  try dsimp only
  repeat' first
    | with_reducible assumption
    | with_reducible exact Or.inl
    | with_reducible exact id
    | with_reducible exact fun _ => rfl
    | with_reducible apply logEvent_inCue
    | with_reducible apply State.modPart_inCue
    | with_reducible refine OutInCue.next ?_
    | with_reducible exact OutInCue.refused
    | with_reducible refine InCue.foldl _ _ ?_ ?_
    | with_reducible refine InCue.ite ?_ ?_
    | with_reducible refine OutInCue.ite ?_ ?_
    | (intro _)
    | split
    | with_reducible rfl
    | with_reducible apply InCue.rest
    | with_reducible apply InCue.upd

theorem buryBufs_inCue {s0 s : State} {a1} (h : InCue s0 s) : InCue s0 (buryBufs a1 s) := by
  unfold buryBufs
  try dsimp only
  repeat' first
    | with_reducible assumption
    | with_reducible exact Or.inl
    | with_reducible exact id
    | with_reducible exact fun _ => rfl
    | with_reducible refine OutInCue.next ?_
    | with_reducible exact OutInCue.refused
    | with_reducible refine InCue.foldl _ _ ?_ ?_
    | with_reducible refine InCue.ite ?_ ?_
    | with_reducible refine OutInCue.ite ?_ ?_
    | (intro _)
    | split
    | with_reducible rfl
    | with_reducible apply InCue.rest
    | with_reducible apply InCue.upd

theorem dropRequests_inCue {s0 s : State} {a1} (h : InCue s0 s) : InCue s0 (dropRequests a1 s) := by
  unfold dropRequests
  try dsimp only
  repeat' first
    | with_reducible assumption
    | with_reducible exact Or.inl
    | with_reducible exact id
    | with_reducible exact fun _ => rfl
    | with_reducible refine OutInCue.next ?_
    | with_reducible exact OutInCue.refused
    | with_reducible refine InCue.foldl _ _ ?_ ?_
    | with_reducible refine InCue.ite ?_ ?_
    | with_reducible refine OutInCue.ite ?_ ?_
    | (intro _)
    | split
    | with_reducible rfl
    | with_reducible apply InCue.rest
    | with_reducible apply InCue.upd

theorem startDrop_inCue {s0 s : State} {a1 a2 a3} (h : InCue s0 s) : InCue s0 (startDrop a1 a2 a3 s) := by
  unfold startDrop
  try dsimp only
  repeat' first
    | with_reducible assumption
    | with_reducible exact Or.inl
    | with_reducible exact id
    | with_reducible exact fun _ => rfl
    | with_reducible refine OutInCue.next ?_
    | with_reducible exact OutInCue.refused
    | with_reducible refine InCue.foldl _ _ ?_ ?_
    | with_reducible refine InCue.ite ?_ ?_
    | with_reducible refine OutInCue.ite ?_ ?_
    | (intro _)
    | split
    | with_reducible rfl
    | with_reducible apply InCue.rest
    | with_reducible apply InCue.upd

theorem unmapPage_inCue {s0 s : State} {a1 a2} (h : InCue s0 s) : InCue s0 (unmapPage a1 a2 s) := by
  unfold unmapPage
  try dsimp only
  repeat' first
    | with_reducible assumption
    | with_reducible exact Or.inl
    | with_reducible exact id
    | with_reducible exact fun _ => rfl
    | with_reducible apply startDrop_inCue
    | with_reducible refine OutInCue.next ?_
    | with_reducible exact OutInCue.refused
    | with_reducible refine InCue.foldl _ _ ?_ ?_
    | with_reducible refine InCue.ite ?_ ?_
    | with_reducible refine OutInCue.ite ?_ ?_
    | (intro _)
    | split
    | with_reducible rfl
    | with_reducible apply InCue.rest
    | with_reducible apply InCue.upd

theorem unmapInputs_inCue {s0 s : State} {a1} (h : InCue s0 s) : InCue s0 (unmapInputs a1 s) := by
  unfold unmapInputs
  try dsimp only
  repeat' first
    | with_reducible assumption
    | with_reducible exact Or.inl
    | with_reducible exact id
    | with_reducible exact fun _ => rfl
    | with_reducible apply unmapPage_inCue
    | with_reducible refine OutInCue.next ?_
    | with_reducible exact OutInCue.refused
    | with_reducible refine InCue.foldl _ _ ?_ ?_
    | with_reducible refine InCue.ite ?_ ?_
    | with_reducible refine OutInCue.ite ?_ ?_
    | (intro _)
    | split
    | with_reducible rfl
    | with_reducible apply InCue.rest
    | with_reducible apply InCue.upd

theorem unmapBufs_inCue {s0 s : State} {a1} (h : InCue s0 s) : InCue s0 (unmapBufs a1 s) := by
  unfold unmapBufs
  try dsimp only
  repeat' first
    | with_reducible assumption
    | with_reducible exact Or.inl
    | with_reducible exact id
    | with_reducible exact fun _ => rfl
    | with_reducible apply unmapInputs_inCue
    | with_reducible apply unmapPage_inCue
    | with_reducible refine OutInCue.next ?_
    | with_reducible exact OutInCue.refused
    | with_reducible refine InCue.foldl _ _ ?_ ?_
    | with_reducible refine InCue.ite ?_ ?_
    | with_reducible refine OutInCue.ite ?_ ?_
    | (intro _)
    | split
    | with_reducible rfl
    | with_reducible apply InCue.rest
    | with_reducible apply InCue.upd

theorem suspectUnit_inCue {s0 s : State} {a1 a2} (h : InCue s0 s) : InCue s0 (suspectUnit a1 a2 s) := by
  unfold suspectUnit
  try dsimp only
  repeat' first
    | with_reducible assumption
    | with_reducible exact Or.inl
    | with_reducible exact id
    | with_reducible exact fun _ => rfl
    | with_reducible apply State.modUnit_inCue
    | with_reducible refine OutInCue.next ?_
    | with_reducible exact OutInCue.refused
    | with_reducible refine InCue.foldl _ _ ?_ ?_
    | with_reducible refine InCue.ite ?_ ?_
    | with_reducible refine OutInCue.ite ?_ ?_
    | (intro _)
    | split
    | with_reducible rfl
    | with_reducible apply InCue.rest
    | with_reducible apply InCue.upd

theorem flushPress_inCue {s0 s : State} {a1} (h : InCue s0 s) : InCue s0 (flushPress a1 s) := by
  unfold flushPress
  try dsimp only
  repeat' first
    | with_reducible assumption
    | with_reducible exact Or.inl
    | with_reducible exact id
    | with_reducible exact fun _ => rfl
    | with_reducible apply suspectUnit_inCue
    | with_reducible apply State.modPress_inCue
    | with_reducible refine OutInCue.next ?_
    | with_reducible exact OutInCue.refused
    | with_reducible refine InCue.foldl _ _ ?_ ?_
    | with_reducible refine InCue.ite ?_ ?_
    | with_reducible refine OutInCue.ite ?_ ?_
    | (intro _)
    | split
    | with_reducible rfl
    | with_reducible apply InCue.rest
    | with_reducible apply InCue.upd

theorem killInst_inCue {s0 s : State} {a1 a2} (h : InCue s0 s) : InCue s0 (killInst a1 a2 s) := by
  unfold killInst
  try dsimp only
  repeat' first
    | with_reducible assumption
    | with_reducible exact Or.inl
    | with_reducible exact id
    | with_reducible exact fun _ => rfl
    | with_reducible apply chargeRun_inCue
    | with_reducible apply logKill_inCue
    | with_reducible apply State.modPart_inCue
    | with_reducible apply buryBufs_inCue
    | with_reducible apply dropRequests_inCue
    | with_reducible apply unmapBufs_inCue
    | with_reducible apply flushPress_inCue
    | with_reducible apply State.modInst_inCue
    | with_reducible apply abandonInst_inCue
    | with_reducible refine OutInCue.next ?_
    | with_reducible exact OutInCue.refused
    | with_reducible refine InCue.foldl _ _ ?_ ?_
    | with_reducible refine InCue.ite ?_ ?_
    | with_reducible refine OutInCue.ite ?_ ?_
    | (intro _)
    | split
    | with_reducible rfl
    | with_reducible apply InCue.rest
    | with_reducible apply InCue.upd

theorem forgetValues_inCue {s0 s : State} {a1} (h : InCue s0 s) : InCue s0 (forgetValues a1 s) := by
  unfold forgetValues
  try dsimp only
  repeat' first
    | with_reducible assumption
    | with_reducible exact Or.inl
    | with_reducible exact id
    | with_reducible exact fun _ => rfl
    | with_reducible apply unmapPage_inCue
    | with_reducible refine OutInCue.next ?_
    | with_reducible exact OutInCue.refused
    | with_reducible refine InCue.foldl _ _ ?_ ?_
    | with_reducible refine InCue.ite ?_ ?_
    | with_reducible refine OutInCue.ite ?_ ?_
    | (intro _)
    | split
    | with_reducible rfl
    | with_reducible apply InCue.rest
    | with_reducible apply InCue.upd

theorem failAttempt_inCue {s0 s : State} {a1 a2} (h : InCue s0 s) : InCue s0 (failAttempt a1 a2 s) := by
  unfold failAttempt
  try dsimp only
  repeat' first
    | with_reducible assumption
    | with_reducible exact Or.inl
    | with_reducible exact id
    | with_reducible exact fun _ => rfl
    | with_reducible apply logEvent_inCue
    | with_reducible apply State.modUnit_inCue
    | with_reducible refine OutInCue.next ?_
    | with_reducible exact OutInCue.refused
    | with_reducible refine InCue.foldl _ _ ?_ ?_
    | with_reducible refine InCue.ite ?_ ?_
    | with_reducible refine OutInCue.ite ?_ ?_
    | (intro _)
    | split
    | with_reducible rfl
    | with_reducible apply InCue.rest
    | with_reducible apply InCue.upd

theorem dropSlice_inCue {s0 s : State} {a1} (h : InCue s0 s) : InCue s0 (dropSlice a1 s) := by
  unfold dropSlice
  try dsimp only
  repeat' first
    | with_reducible assumption
    | with_reducible exact Or.inl
    | with_reducible exact id
    | with_reducible exact fun _ => rfl
    | with_reducible refine OutInCue.next ?_
    | with_reducible exact OutInCue.refused
    | with_reducible refine InCue.foldl _ _ ?_ ?_
    | with_reducible refine InCue.ite ?_ ?_
    | with_reducible refine OutInCue.ite ?_ ?_
    | (intro _)
    | split
    | with_reducible rfl
    | with_reducible apply InCue.rest
    | with_reducible apply InCue.upd

theorem stopRun_inCue {s0 s : State} {a1} (h : InCue s0 s) : InCue s0 (stopRun a1 s) := by
  unfold stopRun
  try dsimp only
  repeat' first
    | with_reducible assumption
    | with_reducible exact Or.inl
    | with_reducible exact id
    | with_reducible exact fun _ => rfl
    | with_reducible apply unmapBufs_inCue
    | with_reducible apply flushPress_inCue
    | with_reducible apply buryBufs_inCue
    | with_reducible apply dropRequests_inCue
    | with_reducible refine OutInCue.next ?_
    | with_reducible exact OutInCue.refused
    | with_reducible refine InCue.foldl _ _ ?_ ?_
    | with_reducible refine InCue.ite ?_ ?_
    | with_reducible refine OutInCue.ite ?_ ?_
    | (intro _)
    | split
    | with_reducible rfl
    | with_reducible apply InCue.rest
    | with_reducible apply InCue.upd

theorem endClass_inCue {s0 s : State} {a1} (h : InCue s0 s) : InCue s0 (endClass a1 s) := by
  unfold endClass
  try dsimp only
  repeat' first
    | with_reducible assumption
    | with_reducible exact Or.inl
    | with_reducible exact id
    | with_reducible exact fun _ => rfl
    | with_reducible apply stopRun_inCue
    | with_reducible refine OutInCue.next ?_
    | with_reducible exact OutInCue.refused
    | with_reducible refine InCue.foldl _ _ ?_ ?_
    | with_reducible refine InCue.ite ?_ ?_
    | with_reducible refine OutInCue.ite ?_ ?_
    | (intro _)
    | split
    | with_reducible rfl
    | with_reducible apply InCue.rest
    | with_reducible apply InCue.upd

theorem setClass_inCue {s0 s : State} {a1 a2} (h : InCue s0 s) : InCue s0 (setClass a1 a2 s) := by
  unfold setClass
  try dsimp only
  repeat' first
    | with_reducible assumption
    | with_reducible exact Or.inl
    | with_reducible exact id
    | with_reducible exact fun _ => rfl
    | with_reducible refine OutInCue.next ?_
    | with_reducible exact OutInCue.refused
    | with_reducible refine InCue.foldl _ _ ?_ ?_
    | with_reducible refine InCue.ite ?_ ?_
    | with_reducible refine OutInCue.ite ?_ ?_
    | (intro _)
    | split
    | with_reducible rfl
    | with_reducible apply InCue.rest
    | with_reducible apply InCue.upd

theorem classifyStruck_inCue {s0 s : State} {a1 a2} (h : InCue s0 s) : InCue s0 (classifyStruck a1 a2 s) := by
  unfold classifyStruck
  try dsimp only
  repeat' first
    | with_reducible assumption
    | with_reducible exact Or.inl
    | with_reducible exact id
    | with_reducible exact fun _ => rfl
    | with_reducible apply endClass_inCue
    | with_reducible apply setClass_inCue
    | with_reducible apply logEvent_inCue
    | with_reducible refine OutInCue.next ?_
    | with_reducible exact OutInCue.refused
    | with_reducible refine InCue.foldl _ _ ?_ ?_
    | with_reducible refine InCue.ite ?_ ?_
    | with_reducible refine OutInCue.ite ?_ ?_
    | (intro _)
    | split
    | with_reducible rfl
    | with_reducible apply InCue.rest
    | with_reducible apply InCue.upd

theorem killWhere_inCue {s0 s : State} {a1 a2} (h : InCue s0 s) : InCue s0 (killWhere a1 a2 s) := by
  unfold killWhere
  try dsimp only
  repeat' first
    | with_reducible assumption
    | with_reducible exact Or.inl
    | with_reducible exact id
    | with_reducible exact fun _ => rfl
    | with_reducible apply killInst_inCue
    | with_reducible refine OutInCue.next ?_
    | with_reducible exact OutInCue.refused
    | with_reducible refine InCue.foldl _ _ ?_ ?_
    | with_reducible refine InCue.ite ?_ ?_
    | with_reducible refine OutInCue.ite ?_ ?_
    | (intro _)
    | split
    | with_reducible rfl
    | with_reducible apply InCue.rest
    | with_reducible apply InCue.upd

theorem strike_inCue {s0 s : State} {a1 a2} (h : InCue s0 s) : InCue s0 (strike a1 a2 s) := by
  unfold strike
  try dsimp only
  repeat' first
    | with_reducible assumption
    | with_reducible exact Or.inl
    | with_reducible exact id
    | with_reducible exact fun _ => rfl
    | with_reducible apply failAttempt_inCue
    | with_reducible apply State.modUnit_inCue
    | with_reducible apply dropSlice_inCue
    | with_reducible apply logEvent_inCue
    | with_reducible apply classifyStruck_inCue
    | with_reducible apply killWhere_inCue
    | with_reducible refine OutInCue.next ?_
    | with_reducible exact OutInCue.refused
    | with_reducible refine InCue.foldl _ _ ?_ ?_
    | with_reducible refine InCue.ite ?_ ?_
    | with_reducible refine OutInCue.ite ?_ ?_
    | (intro _)
    | split
    | with_reducible rfl
    | with_reducible apply InCue.rest
    | with_reducible apply InCue.upd

theorem setProgress_inCue {s0 s : State} {a1 a2} (h : InCue s0 s) : InCue s0 (setProgress a1 a2 s) := by
  unfold setProgress
  try dsimp only
  repeat' first
    | with_reducible assumption
    | with_reducible exact Or.inl
    | with_reducible exact id
    | with_reducible exact fun _ => rfl
    | with_reducible refine OutInCue.next ?_
    | with_reducible exact OutInCue.refused
    | with_reducible refine InCue.foldl _ _ ?_ ?_
    | with_reducible refine InCue.ite ?_ ?_
    | with_reducible refine OutInCue.ite ?_ ?_
    | (intro _)
    | split
    | with_reducible rfl
    | with_reducible apply InCue.rest
    | with_reducible apply InCue.upd

theorem suspendSlice_inCue {s0 s : State} {a1} (h : InCue s0 s) : InCue s0 (suspendSlice a1 s) := by
  unfold suspendSlice
  try dsimp only
  repeat' first
    | with_reducible assumption
    | with_reducible exact Or.inl
    | with_reducible exact id
    | with_reducible exact fun _ => rfl
    | with_reducible apply setProgress_inCue
    | with_reducible refine OutInCue.next ?_
    | with_reducible exact OutInCue.refused
    | with_reducible refine InCue.foldl _ _ ?_ ?_
    | with_reducible refine InCue.ite ?_ ?_
    | with_reducible refine OutInCue.ite ?_ ?_
    | (intro _)
    | split
    | with_reducible rfl
    | with_reducible apply InCue.rest
    | with_reducible apply InCue.upd

theorem setPte_inCue {s0 s : State} {a1 a2 a3} (h : InCue s0 s) : InCue s0 (setPte a1 a2 a3 s) := by
  unfold setPte
  try dsimp only
  repeat' first
    | with_reducible assumption
    | with_reducible exact Or.inl
    | with_reducible exact id
    | with_reducible exact fun _ => rfl
    | with_reducible refine OutInCue.next ?_
    | with_reducible exact OutInCue.refused
    | with_reducible refine InCue.foldl _ _ ?_ ?_
    | with_reducible refine InCue.ite ?_ ?_
    | with_reducible refine OutInCue.ite ?_ ?_
    | (intro _)
    | split
    | with_reducible rfl
    | with_reducible apply InCue.rest
    | with_reducible apply InCue.upd

theorem countTransient_inCue {s0 s : State} {a1} (h : InCue s0 s) : InCue s0 (countTransient a1 s) := by
  unfold countTransient
  try dsimp only
  repeat' first
    | with_reducible assumption
    | with_reducible exact Or.inl
    | with_reducible exact id
    | with_reducible exact fun _ => rfl
    | with_reducible apply State.modUnit_inCue
    | with_reducible apply strike_inCue
    | with_reducible refine OutInCue.next ?_
    | with_reducible exact OutInCue.refused
    | with_reducible refine InCue.foldl _ _ ?_ ?_
    | with_reducible refine InCue.ite ?_ ?_
    | with_reducible refine OutInCue.ite ?_ ?_
    | (intro _)
    | split
    | with_reducible rfl
    | with_reducible apply InCue.rest
    | with_reducible apply InCue.upd

theorem killElsewhere_inCue {s0 s : State} {a1 a2 a3} (h : InCue s0 s) : InCue s0 (killElsewhere a1 a2 a3 s) := by
  unfold killElsewhere
  try dsimp only
  repeat' first
    | with_reducible assumption
    | with_reducible exact Or.inl
    | with_reducible exact id
    | with_reducible exact fun _ => rfl
    | with_reducible apply State.modInst_inCue
    | with_reducible apply killInst_inCue
    | with_reducible refine OutInCue.next ?_
    | with_reducible exact OutInCue.refused
    | with_reducible refine InCue.foldl _ _ ?_ ?_
    | with_reducible refine InCue.ite ?_ ?_
    | with_reducible refine OutInCue.ite ?_ ?_
    | (intro _)
    | split
    | with_reducible rfl
    | with_reducible apply InCue.rest
    | with_reducible apply InCue.upd

theorem endSafety_inCue {s0 s : State} (h : InCue s0 s) : InCue s0 (endSafety s) := by
  unfold endSafety
  try dsimp only
  repeat' first
    | with_reducible assumption
    | with_reducible exact Or.inl
    | with_reducible exact id
    | with_reducible exact fun _ => rfl
    | with_reducible apply killWhere_inCue
    | with_reducible apply abandonInst_inCue
    | with_reducible refine OutInCue.next ?_
    | with_reducible exact OutInCue.refused
    | with_reducible refine InCue.foldl _ _ ?_ ?_
    | with_reducible refine InCue.ite ?_ ?_
    | with_reducible refine OutInCue.ite ?_ ?_
    | (intro _)
    | split
    | with_reducible rfl
    | with_reducible apply InCue.rest
    | with_reducible apply InCue.upd

end Sys2Proof.Machine
end

