-- ==== Sys2Proof/Laws/InCueFlags.lean ====
section
/-! SUPPORT. What the operations of Machine/Flags.lean keep within a cue. -/

namespace Sys2Proof.Machine

theorem setSnap_inCue {s0 s : State} {a1} (h : InCue s0 s) : InCue s0 (setSnap a1 s) := by
  unfold setSnap
  try dsimp only
  repeat' first
    | with_reducible assumption
    | with_reducible exact Or.inl
    | with_reducible exact id
    | with_reducible exact fun _ => rfl
    | with_reducible refine OutInCue.next ?_
    | with_reducible exact OutInCue.refused
    | with_reducible refine InCue.foldl _ _ ?_ ?_
    | with_reducible refine InCue.ite ?_ ?_
    | with_reducible refine OutInCue.ite ?_ ?_
    | (intro _)
    | split
    | with_reducible rfl
    | with_reducible apply InCue.rest
    | with_reducible apply InCue.upd

theorem f1ReadByte_inCue {s0 s : State} {a1} (h : InCue s0 s) : InCue s0 (f1ReadByte a1 s).2 := by
  unfold f1ReadByte
  try dsimp only
  repeat' first
    | with_reducible assumption
    | with_reducible exact Or.inl
    | with_reducible exact id
    | with_reducible exact fun _ => rfl
    | with_reducible apply setSnap_inCue
    | with_reducible refine OutInCue.next ?_
    | with_reducible exact OutInCue.refused
    | with_reducible refine InCue.foldl _ _ ?_ ?_
    | with_reducible refine InCue.ite ?_ ?_
    | with_reducible refine OutInCue.ite ?_ ?_
    | (intro _)
    | split
    | with_reducible rfl
    | with_reducible apply InCue.rest
    | with_reducible apply InCue.upd

theorem f1Read_inCue {s0 s : State} {a1 a2 : Nat} (h : InCue s0 s) : InCue s0 (f1Read a1 a2 s).2 := by
  induction a2 generalizing a1 s with
  | zero => exact h
  | succ n ih => exact ih (f1ReadByte_inCue h)

end Sys2Proof.Machine
end

