-- ==== Sys2Proof/Laws/InCueWindow.lean ====
section
/-! SUPPORT. What the operations of Machine/Window.lean keep within a cue. -/

namespace Sys2Proof.Machine

theorem captureAccount_inCue {s0 s : State} {a1} (h : InCue s0 s) : InCue s0 (captureAccount a1 s) := by
  unfold captureAccount
  try dsimp only
  repeat' first
    | with_reducible assumption
    | with_reducible exact Or.inl
    | with_reducible exact id
    | with_reducible exact fun _ => rfl
    | with_reducible refine OutInCue.next ?_
    | with_reducible exact OutInCue.refused
    | with_reducible refine InCue.foldl _ _ ?_ ?_
    | with_reducible refine InCue.ite ?_ ?_
    | with_reducible refine OutInCue.ite ?_ ?_
    | (intro _)
    | split
    | with_reducible rfl
    | with_reducible apply InCue.rest
    | with_reducible apply InCue.upd

theorem writeHfControl_inCue {s0 s : State} {a1} (h : InCue s0 s) : InCue s0 (writeHfControl a1 s) := by
  unfold writeHfControl
  try dsimp only
  repeat' first
    | with_reducible assumption
    | with_reducible exact Or.inl
    | with_reducible exact id
    | with_reducible exact fun _ => rfl
    | with_reducible refine OutInCue.next ?_
    | with_reducible exact OutInCue.refused
    | with_reducible refine InCue.foldl _ _ ?_ ?_
    | with_reducible refine InCue.ite ?_ ?_
    | with_reducible refine OutInCue.ite ?_ ?_
    | (intro _)
    | split
    | with_reducible rfl
    | with_reducible apply InCue.rest
    | with_reducible apply InCue.upd

theorem writeHfIrq_inCue {s0 s : State} {a1} (h : InCue s0 s) : InCue s0 (writeHfIrq a1 s) := by
  unfold writeHfIrq
  try dsimp only
  repeat' first
    | with_reducible assumption
    | with_reducible exact Or.inl
    | with_reducible exact id
    | with_reducible exact fun _ => rfl
    | with_reducible refine OutInCue.next ?_
    | with_reducible exact OutInCue.refused
    | with_reducible refine InCue.foldl _ _ ?_ ?_
    | with_reducible refine InCue.ite ?_ ?_
    | with_reducible refine OutInCue.ite ?_ ?_
    | (intro _)
    | split
    | with_reducible rfl
    | with_reducible apply InCue.rest
    | with_reducible apply InCue.upd

theorem writeHfIrqEnable_inCue {s0 s : State} {a1} (h : InCue s0 s) : InCue s0 (writeHfIrqEnable a1 s) := by
  unfold writeHfIrqEnable
  try dsimp only
  repeat' first
    | with_reducible assumption
    | with_reducible exact Or.inl
    | with_reducible exact id
    | with_reducible exact fun _ => rfl
    | with_reducible refine OutInCue.next ?_
    | with_reducible exact OutInCue.refused
    | with_reducible refine InCue.foldl _ _ ?_ ?_
    | with_reducible refine InCue.ite ?_ ?_
    | with_reducible refine OutInCue.ite ?_ ?_
    | (intro _)
    | split
    | with_reducible rfl
    | with_reducible apply InCue.rest
    | with_reducible apply InCue.upd

theorem writeCueStatus_inCue {s0 s : State} {a1} (h : InCue s0 s) : InCue s0 (writeCueStatus a1 s) := by
  unfold writeCueStatus
  try dsimp only
  repeat' first
    | with_reducible assumption
    | with_reducible exact Or.inl
    | with_reducible exact id
    | with_reducible exact fun _ => rfl
    | with_reducible refine OutInCue.next ?_
    | with_reducible exact OutInCue.refused
    | with_reducible refine InCue.foldl _ _ ?_ ?_
    | with_reducible refine InCue.ite ?_ ?_
    | with_reducible refine OutInCue.ite ?_ ?_
    | (intro _)
    | split
    | with_reducible rfl
    | with_reducible apply InCue.rest
    | with_reducible apply InCue.upd

theorem requestCurtainTest_inCue {s0 s : State} (h : InCue s0 s) : InCue s0 (requestCurtainTest s) := by
  unfold requestCurtainTest
  try dsimp only
  repeat' first
    | with_reducible assumption
    | with_reducible exact Or.inl
    | with_reducible exact id
    | with_reducible exact fun _ => rfl
    | with_reducible apply logEvent_inCue
    | with_reducible refine OutInCue.next ?_
    | with_reducible exact OutInCue.refused
    | with_reducible refine InCue.foldl _ _ ?_ ?_
    | with_reducible refine InCue.ite ?_ ?_
    | with_reducible refine OutInCue.ite ?_ ?_
    | (intro _)
    | split
    | with_reducible rfl
    | with_reducible apply InCue.rest
    | with_reducible apply InCue.upd

theorem writeCurtainTest_inCue {s0 s : State} {a1} (h : InCue s0 s) : InCue s0 (writeCurtainTest a1 s) := by
  unfold writeCurtainTest
  try dsimp only
  repeat' first
    | with_reducible assumption
    | with_reducible exact Or.inl
    | with_reducible exact id
    | with_reducible exact fun _ => rfl
    | with_reducible apply requestCurtainTest_inCue
    | with_reducible refine OutInCue.next ?_
    | with_reducible exact OutInCue.refused
    | with_reducible refine InCue.foldl _ _ ?_ ?_
    | with_reducible refine InCue.ite ?_ ?_
    | with_reducible refine OutInCue.ite ?_ ?_
    | (intro _)
    | split
    | with_reducible rfl
    | with_reducible apply InCue.rest
    | with_reducible apply InCue.upd

theorem writeAcctSelect_inCue {s0 s : State} {a1} (h : InCue s0 s) : InCue s0 (writeAcctSelect a1 s) := by
  unfold writeAcctSelect
  try dsimp only
  repeat' first
    | with_reducible assumption
    | with_reducible exact Or.inl
    | with_reducible exact id
    | with_reducible exact fun _ => rfl
    | with_reducible apply captureAccount_inCue
    | with_reducible refine OutInCue.next ?_
    | with_reducible exact OutInCue.refused
    | with_reducible refine InCue.foldl _ _ ?_ ?_
    | with_reducible refine InCue.ite ?_ ?_
    | with_reducible refine OutInCue.ite ?_ ?_
    | (intro _)
    | split
    | with_reducible rfl
    | with_reducible apply InCue.rest
    | with_reducible apply InCue.upd

theorem regWrite_inCue {s0 s : State} {a1 a2} (h : InCue s0 s) : InCue s0 (regWrite a1 a2 s) := by
  unfold regWrite
  try dsimp only
  repeat' first
    | with_reducible assumption
    | with_reducible exact Or.inl
    | with_reducible exact id
    | with_reducible exact fun _ => rfl
    | with_reducible apply writeHfControl_inCue
    | with_reducible apply writeHfIrq_inCue
    | with_reducible apply writeHfIrqEnable_inCue
    | with_reducible apply writeCueStatus_inCue
    | with_reducible apply writeCurtainTest_inCue
    | with_reducible apply writeAcctSelect_inCue
    | with_reducible refine OutInCue.next ?_
    | with_reducible exact OutInCue.refused
    | with_reducible refine InCue.foldl _ _ ?_ ?_
    | with_reducible refine InCue.ite ?_ ?_
    | with_reducible refine OutInCue.ite ?_ ?_
    | (intro _)
    | split
    | with_reducible rfl
    | with_reducible apply InCue.rest
    | with_reducible apply InCue.upd

theorem setHold_inCue {s0 s : State} {a1} (h : InCue s0 s) : InCue s0 (setHold a1 s) := by
  unfold setHold
  try dsimp only
  repeat' first
    | with_reducible assumption
    | with_reducible exact Or.inl
    | with_reducible exact id
    | with_reducible exact fun _ => rfl
    | with_reducible refine OutInCue.next ?_
    | with_reducible exact OutInCue.refused
    | with_reducible refine InCue.foldl _ _ ?_ ?_
    | with_reducible refine InCue.ite ?_ ?_
    | with_reducible refine OutInCue.ite ?_ ?_
    | (intro _)
    | split
    | with_reducible rfl
    | with_reducible apply InCue.rest
    | with_reducible apply InCue.upd

theorem f1WriteByte_inCue {s0 s : State} {a1 a2} (h : InCue s0 s) : InCue s0 (f1WriteByte a1 a2 s) := by
  unfold f1WriteByte
  try dsimp only
  repeat' first
    | with_reducible assumption
    | with_reducible exact Or.inl
    | with_reducible exact id
    | with_reducible exact fun _ => rfl
    | with_reducible apply regWrite_inCue
    | with_reducible apply setHold_inCue
    | with_reducible refine OutInCue.next ?_
    | with_reducible exact OutInCue.refused
    | with_reducible refine InCue.foldl _ _ ?_ ?_
    | with_reducible refine InCue.ite ?_ ?_
    | with_reducible refine OutInCue.ite ?_ ?_
    | (intro _)
    | split
    | with_reducible rfl
    | with_reducible apply InCue.rest
    | with_reducible apply InCue.upd

theorem f1WriteAt_inCue {s0 s : State} {n a1 : Nat} {a2 : List (Fin n × Byte)} (h : InCue s0 s) : InCue s0 (f1WriteAt a1 a2 s) := by
  unfold f1WriteAt
  exact h.foldl _ _ fun _ _ hu => f1WriteByte_inCue hu

theorem execAcctSelectWrite_inCue {s0 s : State} {a1 a2} (h : InCue s0 s) : OutInCue s0 (execAcctSelectWrite a1 a2 s) := by
  unfold execAcctSelectWrite
  try dsimp only
  repeat' first
    | with_reducible assumption
    | with_reducible exact Or.inl
    | with_reducible exact id
    | with_reducible exact fun _ => rfl
    | with_reducible apply State.at_inCue
    | with_reducible apply f1WriteAt_inCue
    | with_reducible refine OutInCue.next ?_
    | with_reducible exact OutInCue.refused
    | with_reducible refine InCue.foldl _ _ ?_ ?_
    | with_reducible refine InCue.ite ?_ ?_
    | with_reducible refine OutInCue.ite ?_ ?_
    | (intro _)
    | split
    | with_reducible rfl
    | with_reducible apply InCue.rest
    | with_reducible apply InCue.upd

theorem respond_inCue {s0 s : State} {a1 a2} (h : InCue s0 s) : InCue s0 (respond a1 a2 s) := by
  unfold respond
  try dsimp only
  repeat' first
    | with_reducible assumption
    | with_reducible exact Or.inl
    | with_reducible exact id
    | with_reducible exact fun _ => rfl
    | with_reducible refine OutInCue.next ?_
    | with_reducible exact OutInCue.refused
    | with_reducible refine InCue.foldl _ _ ?_ ?_
    | with_reducible refine InCue.ite ?_ ?_
    | with_reducible refine OutInCue.ite ?_ ?_
    | (intro _)
    | split
    | with_reducible rfl
    | with_reducible apply InCue.rest
    | with_reducible apply InCue.upd

theorem f1Write_inCue {s0 s : State} {a1 : Nat} {a2 : List Byte} (h : InCue s0 s) : InCue s0 (f1Write a1 a2 s) := by
  induction a2 generalizing a1 s with
  | nil => exact h
  | cons v vs ih => exact ih (f1WriteByte_inCue h)

theorem execCmd53F1_inCue {s0 s : State} {a1 a2 a3 a4} (h : InCue s0 s) : OutInCue s0 (execCmd53F1 a1 a2 a3 a4 s) := by
  unfold execCmd53F1
  try dsimp only
  repeat' first
    | with_reducible assumption
    | with_reducible exact Or.inl
    | with_reducible exact id
    | with_reducible exact fun _ => rfl
    | with_reducible apply State.at_inCue
    | with_reducible apply respond_inCue
    | with_reducible apply f1Write_inCue
    | with_reducible apply f1Read_inCue
    | with_reducible refine InCue.snd ?_ (by assumption)
    | with_reducible refine OutInCue.next ?_
    | with_reducible exact OutInCue.refused
    | with_reducible refine InCue.foldl _ _ ?_ ?_
    | with_reducible refine InCue.ite ?_ ?_
    | with_reducible refine OutInCue.ite ?_ ?_
    | (intro _)
    | split
    | with_reducible rfl
    | with_reducible apply InCue.rest
    | with_reducible apply InCue.upd

theorem execCueStatusClear_inCue {s0 s : State} {a1 a2} (h : InCue s0 s) : OutInCue s0 (execCueStatusClear a1 a2 s) := by
  unfold execCueStatusClear
  try dsimp only
  repeat' first
    | with_reducible assumption
    | with_reducible exact Or.inl
    | with_reducible exact id
    | with_reducible exact fun _ => rfl
    | with_reducible apply State.at_inCue
    | with_reducible apply f1WriteAt_inCue
    | with_reducible refine OutInCue.next ?_
    | with_reducible exact OutInCue.refused
    | with_reducible refine InCue.foldl _ _ ?_ ?_
    | with_reducible refine InCue.ite ?_ ?_
    | with_reducible refine OutInCue.ite ?_ ?_
    | (intro _)
    | split
    | with_reducible rfl
    | with_reducible apply InCue.rest
    | with_reducible apply InCue.upd

theorem execCurtainTestWrite_inCue {s0 s : State} {a1 a2} (h : InCue s0 s) : OutInCue s0 (execCurtainTestWrite a1 a2 s) := by
  unfold execCurtainTestWrite
  try dsimp only
  repeat' first
    | with_reducible assumption
    | with_reducible exact Or.inl
    | with_reducible exact id
    | with_reducible exact fun _ => rfl
    | with_reducible apply State.at_inCue
    | with_reducible apply f1WriteAt_inCue
    | with_reducible refine OutInCue.next ?_
    | with_reducible exact OutInCue.refused
    | with_reducible refine InCue.foldl _ _ ?_ ?_
    | with_reducible refine InCue.ite ?_ ?_
    | with_reducible refine OutInCue.ite ?_ ?_
    | (intro _)
    | split
    | with_reducible rfl
    | with_reducible apply InCue.rest
    | with_reducible apply InCue.upd

theorem execF1RegisterWrite_inCue {s0 s : State} {a1 a2 a3} (h : InCue s0 s) : OutInCue s0 (execF1RegisterWrite a1 a2 a3 s) := by
  unfold execF1RegisterWrite
  try dsimp only
  repeat' first
    | with_reducible assumption
    | with_reducible exact Or.inl
    | with_reducible exact id
    | with_reducible exact fun _ => rfl
    | with_reducible apply State.at_inCue
    | with_reducible apply f1WriteByte_inCue
    | with_reducible refine OutInCue.next ?_
    | with_reducible exact OutInCue.refused
    | with_reducible refine InCue.foldl _ _ ?_ ?_
    | with_reducible refine InCue.ite ?_ ?_
    | with_reducible refine OutInCue.ite ?_ ?_
    | (intro _)
    | split
    | with_reducible rfl
    | with_reducible apply InCue.rest
    | with_reducible apply InCue.upd

theorem execF1SnapshotRead_inCue {s0 s : State} {a1 a2} (h : InCue s0 s) : OutInCue s0 (execF1SnapshotRead a1 a2 s) := by
  unfold execF1SnapshotRead
  try dsimp only
  repeat' first
    | with_reducible assumption
    | with_reducible exact Or.inl
    | with_reducible exact id
    | with_reducible exact fun _ => rfl
    | with_reducible apply State.at_inCue
    | with_reducible apply f1ReadByte_inCue
    | with_reducible apply respond_inCue
    | with_reducible refine InCue.snd ?_ (by assumption)
    | with_reducible refine OutInCue.next ?_
    | with_reducible exact OutInCue.refused
    | with_reducible refine InCue.foldl _ _ ?_ ?_
    | with_reducible refine InCue.ite ?_ ?_
    | with_reducible refine OutInCue.ite ?_ ?_
    | (intro _)
    | split
    | with_reducible rfl
    | with_reducible apply InCue.rest
    | with_reducible apply InCue.upd

theorem execHfIrqClear_inCue {s0 s : State} {a1 a2} (h : InCue s0 s) : OutInCue s0 (execHfIrqClear a1 a2 s) := by
  unfold execHfIrqClear
  try dsimp only
  repeat' first
    | with_reducible assumption
    | with_reducible exact Or.inl
    | with_reducible exact id
    | with_reducible exact fun _ => rfl
    | with_reducible apply State.at_inCue
    | with_reducible apply f1WriteAt_inCue
    | with_reducible refine OutInCue.next ?_
    | with_reducible exact OutInCue.refused
    | with_reducible refine InCue.foldl _ _ ?_ ?_
    | with_reducible refine InCue.ite ?_ ?_
    | with_reducible refine OutInCue.ite ?_ ?_
    | (intro _)
    | split
    | with_reducible rfl
    | with_reducible apply InCue.rest
    | with_reducible apply InCue.upd

theorem execRxResync_inCue {s0 s : State} {a1 a2} (h : InCue s0 s) : OutInCue s0 (execRxResync a1 a2 s) := by
  unfold execRxResync
  try dsimp only
  repeat' first
    | with_reducible assumption
    | with_reducible exact Or.inl
    | with_reducible exact id
    | with_reducible exact fun _ => rfl
    | with_reducible apply State.at_inCue
    | with_reducible apply f1WriteAt_inCue
    | with_reducible refine OutInCue.next ?_
    | with_reducible exact OutInCue.refused
    | with_reducible refine InCue.foldl _ _ ?_ ?_
    | with_reducible refine InCue.ite ?_ ?_
    | with_reducible refine OutInCue.ite ?_ ?_
    | (intro _)
    | split
    | with_reducible rfl
    | with_reducible apply InCue.rest
    | with_reducible apply InCue.upd

end Sys2Proof.Machine
end

