-- ==== Sys2Proof/Laws/InCueCard.lean ====
section
/-! SUPPORT. What the operations of Machine/Card.lean keep within a cue. -/

namespace Sys2Proof.Machine

theorem cardLoss_inCue {s0 s : State} (h : InCue s0 s) : InCue s0 (cardLoss s) := by
  unfold cardLoss
  try dsimp only
  repeat' first
    | with_reducible assumption
    | with_reducible exact Or.inl
    | with_reducible exact id
    | with_reducible exact fun _ => rfl
    | with_reducible refine OutInCue.next ?_
    | with_reducible exact OutInCue.refused
    | with_reducible refine InCue.foldl _ _ ?_ ?_
    | with_reducible refine InCue.ite ?_ ?_
    | with_reducible refine OutInCue.ite ?_ ?_
    | (intro _)
    | split
    | with_reducible rfl
    | with_reducible apply InCue.rest
    | with_reducible apply InCue.upd

theorem execCccrResWrite_inCue {s0 s : State} {a1} (h : InCue s0 s) : OutInCue s0 (execCccrResWrite a1 s) := by
  unfold execCccrResWrite
  try dsimp only
  repeat' first
    | with_reducible assumption
    | with_reducible exact Or.inl
    | with_reducible exact id
    | with_reducible exact fun _ => rfl
    | with_reducible apply State.at_inCue
    | with_reducible apply cardLoss_inCue
    | with_reducible refine OutInCue.next ?_
    | with_reducible exact OutInCue.refused
    | with_reducible refine InCue.foldl _ _ ?_ ?_
    | with_reducible refine InCue.ite ?_ ?_
    | with_reducible refine OutInCue.ite ?_ ?_
    | (intro _)
    | split
    | with_reducible rfl
    | with_reducible apply InCue.rest
    | with_reducible apply InCue.upd

theorem modCard_inCue {s0 s : State} {a1} (h : InCue s0 s) : InCue s0 (modCard a1 s) := by
  unfold modCard
  try dsimp only
  repeat' first
    | with_reducible assumption
    | with_reducible exact Or.inl
    | with_reducible exact id
    | with_reducible exact fun _ => rfl
    | with_reducible refine OutInCue.next ?_
    | with_reducible exact OutInCue.refused
    | with_reducible refine InCue.foldl _ _ ?_ ?_
    | with_reducible refine InCue.ite ?_ ?_
    | with_reducible refine OutInCue.ite ?_ ?_
    | (intro _)
    | split
    | with_reducible rfl
    | with_reducible apply InCue.rest
    | with_reducible apply InCue.upd

theorem execCmd0_inCue {s0 s : State} {a1} (h : InCue s0 s) : OutInCue s0 (execCmd0 a1 s) := by
  unfold execCmd0
  try dsimp only
  repeat' first
    | with_reducible assumption
    | with_reducible exact Or.inl
    | with_reducible exact id
    | with_reducible exact fun _ => rfl
    | with_reducible apply State.at_inCue
    | with_reducible apply respond_inCue
    | with_reducible apply modCard_inCue
    | with_reducible refine OutInCue.next ?_
    | with_reducible exact OutInCue.refused
    | with_reducible refine InCue.foldl _ _ ?_ ?_
    | with_reducible refine InCue.ite ?_ ?_
    | with_reducible refine OutInCue.ite ?_ ?_
    | (intro _)
    | split
    | with_reducible rfl
    | with_reducible apply InCue.rest
    | with_reducible apply InCue.upd

theorem execCmd11_inCue {s0 s : State} {a1} (h : InCue s0 s) : OutInCue s0 (execCmd11 a1 s) := by
  unfold execCmd11
  try dsimp only
  repeat' first
    | with_reducible assumption
    | with_reducible exact Or.inl
    | with_reducible exact id
    | with_reducible exact fun _ => rfl
    | with_reducible apply State.at_inCue
    | with_reducible apply respond_inCue
    | with_reducible apply modCard_inCue
    | with_reducible refine OutInCue.next ?_
    | with_reducible exact OutInCue.refused
    | with_reducible refine InCue.foldl _ _ ?_ ?_
    | with_reducible refine InCue.ite ?_ ?_
    | with_reducible refine OutInCue.ite ?_ ?_
    | (intro _)
    | split
    | with_reducible rfl
    | with_reducible apply InCue.rest
    | with_reducible apply InCue.upd

theorem execCmd15_inCue {s0 s : State} {a1 a2} (h : InCue s0 s) : OutInCue s0 (execCmd15 a1 a2 s) := by
  unfold execCmd15
  try dsimp only
  repeat' first
    | with_reducible assumption
    | with_reducible exact Or.inl
    | with_reducible exact id
    | with_reducible exact fun _ => rfl
    | with_reducible apply State.at_inCue
    | with_reducible apply modCard_inCue
    | with_reducible refine OutInCue.next ?_
    | with_reducible exact OutInCue.refused
    | with_reducible refine InCue.foldl _ _ ?_ ?_
    | with_reducible refine InCue.ite ?_ ?_
    | with_reducible refine OutInCue.ite ?_ ?_
    | (intro _)
    | split
    | with_reducible rfl
    | with_reducible apply InCue.rest
    | with_reducible apply InCue.upd

theorem execCmd19_inCue {s0 s : State} {a1} (h : InCue s0 s) : OutInCue s0 (execCmd19 a1 s) := by
  unfold execCmd19
  try dsimp only
  repeat' first
    | with_reducible assumption
    | with_reducible exact Or.inl
    | with_reducible exact id
    | with_reducible exact fun _ => rfl
    | with_reducible apply State.at_inCue
    | with_reducible apply respond_inCue
    | with_reducible apply modCard_inCue
    | with_reducible refine OutInCue.next ?_
    | with_reducible exact OutInCue.refused
    | with_reducible refine InCue.foldl _ _ ?_ ?_
    | with_reducible refine InCue.ite ?_ ?_
    | with_reducible refine OutInCue.ite ?_ ?_
    | (intro _)
    | split
    | with_reducible rfl
    | with_reducible apply InCue.rest
    | with_reducible apply InCue.upd

theorem execCmd3_inCue {s0 s : State} {a1} (h : InCue s0 s) : OutInCue s0 (execCmd3 a1 s) := by
  unfold execCmd3
  try dsimp only
  repeat' first
    | with_reducible assumption
    | with_reducible exact Or.inl
    | with_reducible exact id
    | with_reducible exact fun _ => rfl
    | with_reducible apply State.at_inCue
    | with_reducible apply modCard_inCue
    | with_reducible apply respond_inCue
    | with_reducible refine OutInCue.next ?_
    | with_reducible exact OutInCue.refused
    | with_reducible refine InCue.foldl _ _ ?_ ?_
    | with_reducible refine InCue.ite ?_ ?_
    | with_reducible refine OutInCue.ite ?_ ?_
    | (intro _)
    | split
    | with_reducible rfl
    | with_reducible apply InCue.rest
    | with_reducible apply InCue.upd

theorem execCmd5_inCue {s0 s : State} {a1 a2} (h : InCue s0 s) : OutInCue s0 (execCmd5 a1 a2 s) := by
  unfold execCmd5
  try dsimp only
  repeat' first
    | with_reducible assumption
    | with_reducible exact Or.inl
    | with_reducible exact id
    | with_reducible exact fun _ => rfl
    | with_reducible apply State.at_inCue
    | with_reducible apply respond_inCue
    | with_reducible apply modCard_inCue
    | with_reducible apply logEvent_inCue
    | with_reducible refine OutInCue.next ?_
    | with_reducible exact OutInCue.refused
    | with_reducible refine InCue.foldl _ _ ?_ ?_
    | with_reducible refine InCue.ite ?_ ?_
    | with_reducible refine OutInCue.ite ?_ ?_
    | (intro _)
    | split
    | with_reducible rfl
    | with_reducible apply InCue.rest
    | with_reducible apply InCue.upd

theorem f0Write_inCue {s0 s : State} {a1 a2} (h : InCue s0 s) : InCue s0 (f0Write a1 a2 s) := by
  unfold f0Write
  try dsimp only
  repeat' first
    | with_reducible assumption
    | with_reducible exact Or.inl
    | with_reducible exact id
    | with_reducible exact fun _ => rfl
    | with_reducible apply modCard_inCue
    | with_reducible apply cardLoss_inCue
    | with_reducible refine OutInCue.next ?_
    | with_reducible exact OutInCue.refused
    | with_reducible refine InCue.foldl _ _ ?_ ?_
    | with_reducible refine InCue.ite ?_ ?_
    | with_reducible refine OutInCue.ite ?_ ?_
    | (intro _)
    | split
    | with_reducible rfl
    | with_reducible apply InCue.rest
    | with_reducible apply InCue.upd

theorem execCmd52_inCue {s0 s : State} {a1 a2 a3 a4} (h : InCue s0 s) : OutInCue s0 (execCmd52 a1 a2 a3 a4 s) := by
  unfold execCmd52
  try dsimp only
  repeat' first
    | with_reducible assumption
    | with_reducible exact Or.inl
    | with_reducible exact id
    | with_reducible exact fun _ => rfl
    | with_reducible apply State.at_inCue
    | with_reducible apply f0Write_inCue
    | with_reducible apply respond_inCue
    | with_reducible apply f1WriteByte_inCue
    | with_reducible apply f1ReadByte_inCue
    | with_reducible refine InCue.snd ?_ (by assumption)
    | with_reducible refine OutInCue.next ?_
    | with_reducible exact OutInCue.refused
    | with_reducible refine InCue.foldl _ _ ?_ ?_
    | with_reducible refine InCue.ite ?_ ?_
    | with_reducible refine OutInCue.ite ?_ ?_
    | (intro _)
    | split
    | with_reducible rfl
    | with_reducible apply InCue.rest
    | with_reducible apply InCue.upd

theorem f0Writes_inCue {s0 s : State} {a1 : Nat} {a2 : List Byte} (h : InCue s0 s) : InCue s0 (f0Writes a1 a2 s) := by
  induction a2 generalizing a1 s with
  | nil => exact h
  | cons v vs ih => exact ih (f0Write_inCue h)

theorem execCmd53F0_inCue {s0 s : State} {a1 a2 a3 a4 a5 a6 a7} (h : InCue s0 s) : OutInCue s0 (execCmd53F0 a1 a2 a3 a4 a5 a6 a7
    s) := by
  unfold execCmd53F0
  try dsimp only
  repeat' first
    | with_reducible assumption
    | with_reducible exact Or.inl
    | with_reducible exact id
    | with_reducible exact fun _ => rfl
    | with_reducible apply State.at_inCue
    | with_reducible apply respond_inCue
    | with_reducible apply f0Writes_inCue
    | with_reducible refine OutInCue.next ?_
    | with_reducible exact OutInCue.refused
    | with_reducible refine InCue.foldl _ _ ?_ ?_
    | with_reducible refine InCue.ite ?_ ?_
    | with_reducible refine OutInCue.ite ?_ ?_
    | (intro _)
    | split
    | with_reducible rfl
    | with_reducible apply InCue.rest
    | with_reducible apply InCue.upd

theorem execCmd7_inCue {s0 s : State} {a1 a2} (h : InCue s0 s) : OutInCue s0 (execCmd7 a1 a2 s) := by
  unfold execCmd7
  try dsimp only
  repeat' first
    | with_reducible assumption
    | with_reducible exact Or.inl
    | with_reducible exact id
    | with_reducible exact fun _ => rfl
    | with_reducible apply State.at_inCue
    | with_reducible apply respond_inCue
    | with_reducible apply modCard_inCue
    | with_reducible refine OutInCue.next ?_
    | with_reducible exact OutInCue.refused
    | with_reducible refine InCue.foldl _ _ ?_ ?_
    | with_reducible refine InCue.ite ?_ ?_
    | with_reducible refine OutInCue.ite ?_ ?_
    | (intro _)
    | split
    | with_reducible rfl
    | with_reducible apply InCue.rest
    | with_reducible apply InCue.upd

theorem execFunctionReadyInIorx_inCue {s0 s : State} {a1 a2} (h : InCue s0 s) : OutInCue s0 (execFunctionReadyInIorx a1 a2 s) :=
    by
  unfold execFunctionReadyInIorx
  try dsimp only
  repeat' first
    | with_reducible assumption
    | with_reducible exact Or.inl
    | with_reducible exact id
    | with_reducible exact fun _ => rfl
    | with_reducible apply State.at_inCue
    | with_reducible apply modCard_inCue
    | with_reducible refine OutInCue.next ?_
    | with_reducible exact OutInCue.refused
    | with_reducible refine InCue.foldl _ _ ?_ ?_
    | with_reducible refine InCue.ite ?_ ?_
    | with_reducible refine OutInCue.ite ?_ ?_
    | (intro _)
    | split
    | with_reducible rfl
    | with_reducible apply InCue.rest
    | with_reducible apply InCue.upd

theorem execSdPadSupplyLoss_inCue {s0 s : State} {a1} (h : InCue s0 s) : OutInCue s0 (execSdPadSupplyLoss a1 s) := by
  unfold execSdPadSupplyLoss
  try dsimp only
  repeat' first
    | with_reducible assumption
    | with_reducible exact Or.inl
    | with_reducible exact id
    | with_reducible exact fun _ => rfl
    | with_reducible apply State.at_inCue
    | with_reducible apply cardLoss_inCue
    | with_reducible refine OutInCue.next ?_
    | with_reducible exact OutInCue.refused
    | with_reducible refine InCue.foldl _ _ ?_ ?_
    | with_reducible refine InCue.ite ?_ ?_
    | with_reducible refine OutInCue.ite ?_ ?_
    | (intro _)
    | split
    | with_reducible rfl
    | with_reducible apply InCue.rest
    | with_reducible apply InCue.upd

end Sys2Proof.Machine
end

