-- ==== Sys2Proof/Laws/InCueUnderstudy.lean ====
section
/-! SUPPORT. What the operations of Machine/Understudy.lean keep within a cue. -/

namespace Sys2Proof.Machine

theorem coreWrite_inCue {s0 s : State} {a1 a2} (h : InCue s0 s) : InCue s0 (coreWrite a1 a2 s) := by
  unfold coreWrite
  try dsimp only
  repeat' first
    | with_reducible assumption
    | with_reducible exact Or.inl
    | with_reducible exact id
    | with_reducible exact fun _ => rfl
    | with_reducible apply devWrite_inCue
    | with_reducible refine OutInCue.next ?_
    | with_reducible exact OutInCue.refused
    | with_reducible refine InCue.foldl _ _ ?_ ?_
    | with_reducible refine InCue.ite ?_ ?_
    | with_reducible refine OutInCue.ite ?_ ?_
    | (intro _)
    | split
    | with_reducible rfl
    | with_reducible apply InCue.rest
    | with_reducible apply InCue.upd

end Sys2Proof.Machine
end

