-- ==== Sys2Proof/Laws/InCueScenes.lean ====
section
/-! SUPPORT. What the operations of Machine/Scenes.lean keep within a cue. -/

namespace Sys2Proof.Machine

theorem formRun_inCue {s0 s : State} {a1 a2 a3} (h : InCue s0 s) : InCue s0 (formRun a1 a2 a3 s) := by
  unfold formRun
  try dsimp only
  repeat' first
    | with_reducible assumption
    | with_reducible exact Or.inl
    | with_reducible exact id
    | with_reducible exact fun _ => rfl
    | with_reducible refine OutInCue.next ?_
    | with_reducible exact OutInCue.refused
    | with_reducible refine InCue.foldl _ _ ?_ ?_
    | with_reducible refine InCue.ite ?_ ?_
    | with_reducible refine OutInCue.ite ?_ ?_
    | (intro _)
    | split
    | with_reducible rfl
    | with_reducible apply InCue.rest
    | with_reducible apply InCue.upd

theorem meetBarrier_inCue {s0 s : State} {a1} (h : InCue s0 s) : InCue s0 (meetBarrier a1 s) := by
  unfold meetBarrier
  try dsimp only
  repeat' first
    | with_reducible assumption
    | with_reducible exact Or.inl
    | with_reducible exact id
    | with_reducible exact fun _ => rfl
    | with_reducible apply waitHand_inCue
    | with_reducible apply State.modPress_inCue
    | with_reducible refine OutInCue.next ?_
    | with_reducible exact OutInCue.refused
    | with_reducible refine InCue.foldl _ _ ?_ ?_
    | with_reducible refine InCue.ite ?_ ?_
    | with_reducible refine OutInCue.ite ?_ ?_
    | (intro _)
    | split
    | with_reducible rfl
    | with_reducible apply InCue.rest
    | with_reducible apply InCue.upd

theorem placeInput_inCue {s0 s : State} {a1 a2} (h : InCue s0 s) : InCue s0 (placeInput a1 a2 s) := by
  unfold placeInput
  try dsimp only
  repeat' first
    | with_reducible assumption
    | with_reducible exact Or.inl
    | with_reducible exact id
    | with_reducible exact fun _ => rfl
    | with_reducible apply devWrite_inCue
    | with_reducible apply setPte_inCue
    | with_reducible apply startDrop_inCue
    | with_reducible refine OutInCue.next ?_
    | with_reducible exact OutInCue.refused
    | with_reducible refine InCue.foldl _ _ ?_ ?_
    | with_reducible refine InCue.ite ?_ ?_
    | with_reducible refine OutInCue.ite ?_ ?_
    | (intro _)
    | split
    | with_reducible rfl
    | with_reducible apply InCue.rest
    | with_reducible apply InCue.upd

theorem mapPage_inCue {s0 s : State} {a1 a2 a3 a4 a5 a6} (h : InCue s0 s) : InCue s0 (mapPage a1 a2 a3 a4 a5 a6 s) := by
  unfold mapPage
  try dsimp only
  repeat' first
    | with_reducible assumption
    | with_reducible exact Or.inl
    | with_reducible exact id
    | with_reducible exact fun _ => rfl
    | with_reducible apply setPte_inCue
    | with_reducible refine OutInCue.next ?_
    | with_reducible exact OutInCue.refused
    | with_reducible refine InCue.foldl _ _ ?_ ?_
    | with_reducible refine InCue.ite ?_ ?_
    | with_reducible refine OutInCue.ite ?_ ?_
    | (intro _)
    | split
    | with_reducible rfl
    | with_reducible apply InCue.rest
    | with_reducible apply InCue.upd

theorem mapBuf_inCue {s0 s : State} {a1 a2 a3} (h : InCue s0 s) : InCue s0 (mapBuf a1 a2 a3 s) := by
  unfold mapBuf
  try dsimp only
  repeat' first
    | with_reducible assumption
    | with_reducible exact Or.inl
    | with_reducible exact id
    | with_reducible exact fun _ => rfl
    | with_reducible apply mapPage_inCue
    | with_reducible refine OutInCue.next ?_
    | with_reducible exact OutInCue.refused
    | with_reducible refine InCue.foldl _ _ ?_ ?_
    | with_reducible refine InCue.ite ?_ ?_
    | with_reducible refine OutInCue.ite ?_ ?_
    | (intro _)
    | split
    | with_reducible rfl
    | with_reducible apply InCue.rest
    | with_reducible apply InCue.upd

theorem countSpills_inCue {s0 s : State} {a1 a2} (h : InCue s0 s) : InCue s0 (countSpills a1 a2 s) := by
  unfold countSpills
  try dsimp only
  repeat' first
    | with_reducible assumption
    | with_reducible exact Or.inl
    | with_reducible exact id
    | with_reducible exact fun _ => rfl
    | with_reducible apply State.modPart_inCue
    | with_reducible apply logOnce_inCue
    | with_reducible refine OutInCue.next ?_
    | with_reducible exact OutInCue.refused
    | with_reducible refine InCue.foldl _ _ ?_ ?_
    | with_reducible refine InCue.ite ?_ ?_
    | with_reducible refine OutInCue.ite ?_ ?_
    | (intro _)
    | split
    | with_reducible rfl
    | with_reducible apply InCue.rest
    | with_reducible apply InCue.upd

theorem startRun_inCue {s0 s : State} {a1 a2 a3} (h : InCue s0 s) : InCue s0 (startRun a1 a2 a3 s) := by
  unfold startRun
  try dsimp only
  repeat' first
    | with_reducible assumption
    | with_reducible exact Or.inl
    | with_reducible exact id
    | with_reducible exact fun _ => rfl
    | with_reducible apply State.modInst_inCue
    | with_reducible apply setSplit_inCue
    | with_reducible apply State.modPress_inCue
    | with_reducible apply meetBarrier_inCue
    | with_reducible apply placeInput_inCue
    | with_reducible apply coreWrite_inCue
    | with_reducible apply mapBuf_inCue
    | with_reducible apply countSpills_inCue
    | with_reducible apply lockPages_inCue
    | with_reducible apply State.modPart_inCue
    | with_reducible apply poisonRead_inCue
    | with_reducible refine OutInCue.next ?_
    | with_reducible exact OutInCue.refused
    | with_reducible refine InCue.foldl _ _ ?_ ?_
    | with_reducible refine InCue.ite ?_ ?_
    | with_reducible refine OutInCue.ite ?_ ?_
    | (intro _)
    | split
    | with_reducible rfl
    | with_reducible apply InCue.rest
    | with_reducible apply InCue.upd

theorem fixPlans_inCue {s0 s : State} {a1} (h : InCue s0 s) : InCue s0 (fixPlans a1 s) := by
  unfold fixPlans
  try dsimp only
  repeat' first
    | with_reducible assumption
    | with_reducible exact Or.inl
    | with_reducible exact id
    | with_reducible exact fun _ => rfl
    | with_reducible refine OutInCue.next ?_
    | with_reducible exact OutInCue.refused
    | with_reducible refine InCue.foldl _ _ ?_ ?_
    | with_reducible refine InCue.ite ?_ ?_
    | with_reducible refine OutInCue.ite ?_ ?_
    | (intro _)
    | split
    | with_reducible rfl
    | with_reducible apply InCue.rest
    | with_reducible apply InCue.upd

theorem countRefused_inCue {s0 s : State} {a1} (h : InCue s0 s) : InCue s0 (countRefused a1 s) := by
  unfold countRefused
  try dsimp only
  repeat' first
    | with_reducible assumption
    | with_reducible exact Or.inl
    | with_reducible exact id
    | with_reducible exact fun _ => rfl
    | with_reducible apply State.modPart_inCue
    | with_reducible apply State.modInst_inCue
    | with_reducible refine OutInCue.next ?_
    | with_reducible exact OutInCue.refused
    | with_reducible refine InCue.foldl _ _ ?_ ?_
    | with_reducible refine InCue.ite ?_ ?_
    | with_reducible refine OutInCue.ite ?_ ?_
    | (intro _)
    | split
    | with_reducible rfl
    | with_reducible apply InCue.rest
    | with_reducible apply InCue.upd

theorem admitScene_inCue {s0 s : State} {a1 a2} (h : InCue s0 s) : InCue s0 (admitScene a1 a2 s) := by
  unfold admitScene
  try dsimp only
  repeat' first
    | with_reducible assumption
    | with_reducible exact Or.inl
    | with_reducible exact id
    | with_reducible exact fun _ => rfl
    | with_reducible apply startRun_inCue
    | with_reducible apply fixPlans_inCue
    | with_reducible apply countRefused_inCue
    | with_reducible refine OutInCue.next ?_
    | with_reducible exact OutInCue.refused
    | with_reducible refine InCue.foldl _ _ ?_ ?_
    | with_reducible refine InCue.ite ?_ ?_
    | with_reducible refine OutInCue.ite ?_ ?_
    | (intro _)
    | split
    | with_reducible rfl
    | with_reducible apply InCue.rest
    | with_reducible apply InCue.upd

theorem clearTested_inCue {s0 s : State} {a1} (h : InCue s0 s) : InCue s0 (clearTested a1 s) := by
  unfold clearTested
  try dsimp only
  repeat' first
    | with_reducible assumption
    | with_reducible exact Or.inl
    | with_reducible exact id
    | with_reducible exact fun _ => rfl
    | with_reducible refine OutInCue.next ?_
    | with_reducible exact OutInCue.refused
    | with_reducible refine InCue.foldl _ _ ?_ ?_
    | with_reducible refine InCue.ite ?_ ?_
    | with_reducible refine OutInCue.ite ?_ ?_
    | (intro _)
    | split
    | with_reducible rfl
    | with_reducible apply InCue.rest
    | with_reducible apply InCue.upd

theorem admitSlice_inCue {s0 s : State} {a1} (h : InCue s0 s) : InCue s0 (admitSlice a1 s) := by
  unfold admitSlice
  try dsimp only
  repeat' first
    | with_reducible assumption
    | with_reducible exact Or.inl
    | with_reducible exact id
    | with_reducible exact fun _ => rfl
    | with_reducible apply clearTested_inCue
    | with_reducible refine OutInCue.next ?_
    | with_reducible exact OutInCue.refused
    | with_reducible refine InCue.foldl _ _ ?_ ?_
    | with_reducible refine InCue.ite ?_ ?_
    | with_reducible refine OutInCue.ite ?_ ?_
    | (intro _)
    | split
    | with_reducible rfl
    | with_reducible apply InCue.rest
    | with_reducible apply InCue.upd

theorem blockPlay_inCue {s0 s : State} {a1} (h : InCue s0 s) : InCue s0 (blockPlay a1 s) := by
  unfold blockPlay
  try dsimp only
  repeat' first
    | with_reducible assumption
    | with_reducible exact Or.inl
    | with_reducible exact id
    | with_reducible exact fun _ => rfl
    | with_reducible apply logEvent_inCue
    | with_reducible apply requeueRows_inCue
    | with_reducible apply deviceFault_inCue
    | with_reducible refine OutInCue.next ?_
    | with_reducible exact OutInCue.refused
    | with_reducible refine InCue.foldl _ _ ?_ ?_
    | with_reducible refine InCue.ite ?_ ?_
    | with_reducible refine OutInCue.ite ?_ ?_
    | (intro _)
    | split
    | with_reducible rfl
    | with_reducible apply InCue.rest
    | with_reducible apply InCue.upd

theorem commitBuf_inCue {s0 s : State} {a1 a2 a3} (h : InCue s0 s) : InCue s0 (commitBuf a1 a2 a3 s) := by
  unfold commitBuf
  try dsimp only
  repeat' first
    | with_reducible assumption
    | with_reducible exact Or.inl
    | with_reducible exact id
    | with_reducible exact fun _ => rfl
    | with_reducible refine OutInCue.next ?_
    | with_reducible exact OutInCue.refused
    | with_reducible refine InCue.foldl _ _ ?_ ?_
    | with_reducible refine InCue.ite ?_ ?_
    | with_reducible refine OutInCue.ite ?_ ?_
    | (intro _)
    | split
    | with_reducible rfl
    | with_reducible apply InCue.rest
    | with_reducible apply InCue.upd

theorem commitMove_inCue {s0 s : State} {a1} (h : InCue s0 s) : InCue s0 (commitMove a1 s) := by
  unfold commitMove
  try dsimp only
  repeat' first
    | with_reducible assumption
    | with_reducible exact Or.inl
    | with_reducible exact id
    | with_reducible exact fun _ => rfl
    | with_reducible apply State.modPart_inCue
    | with_reducible refine OutInCue.next ?_
    | with_reducible exact OutInCue.refused
    | with_reducible refine InCue.foldl _ _ ?_ ?_
    | with_reducible refine InCue.ite ?_ ?_
    | with_reducible refine OutInCue.ite ?_ ?_
    | (intro _)
    | split
    | with_reducible rfl
    | with_reducible apply InCue.rest
    | with_reducible apply InCue.upd

theorem rowLeaves_inCue {s0 s : State} {a1 a2} (h : InCue s0 s) : InCue s0 (rowLeaves a1 a2 s) := by
  unfold rowLeaves
  try dsimp only
  repeat' first
    | with_reducible assumption
    | with_reducible exact Or.inl
    | with_reducible exact id
    | with_reducible exact fun _ => rfl
    | with_reducible apply setLeaf_inCue
    | with_reducible apply decLeaf_inCue
    | with_reducible refine OutInCue.next ?_
    | with_reducible exact OutInCue.refused
    | with_reducible refine InCue.foldl _ _ ?_ ?_
    | with_reducible refine InCue.ite ?_ ?_
    | with_reducible refine OutInCue.ite ?_ ?_
    | (intro _)
    | split
    | with_reducible rfl
    | with_reducible apply InCue.rest
    | with_reducible apply InCue.upd

theorem deliver_inCue {s0 s : State} {a1 a2 a3 a4} (h : InCue s0 s) : InCue s0 (deliver a1 a2 a3 a4 s).2 := by
  unfold deliver
  try dsimp only
  repeat' first
    | with_reducible assumption
    | with_reducible exact Or.inl
    | with_reducible exact id
    | with_reducible exact fun _ => rfl
    | with_reducible apply logEvent_inCue
    | with_reducible apply modSession_inCue
    | with_reducible apply toIdle_inCue
    | with_reducible apply ready_inCue
    | with_reducible refine OutInCue.next ?_
    | with_reducible exact OutInCue.refused
    | with_reducible refine InCue.foldl _ _ ?_ ?_
    | with_reducible refine InCue.ite ?_ ?_
    | with_reducible refine OutInCue.ite ?_ ?_
    | (intro _)
    | split
    | with_reducible rfl
    | with_reducible apply InCue.rest
    | with_reducible apply InCue.upd

theorem fillSession_inCue {s0 s : State} {a1} (h : InCue s0 s) : InCue s0 (fillSession a1 s) := by
  unfold fillSession
  try dsimp only
  repeat' first
    | with_reducible assumption
    | with_reducible exact Or.inl
    | with_reducible exact id
    | with_reducible exact fun _ => rfl
    | with_reducible apply logEvent_inCue
    | with_reducible apply modSession_inCue
    | with_reducible refine OutInCue.next ?_
    | with_reducible exact OutInCue.refused
    | with_reducible refine InCue.foldl _ _ ?_ ?_
    | with_reducible refine InCue.ite ?_ ?_
    | with_reducible refine OutInCue.ite ?_ ?_
    | (intro _)
    | split
    | with_reducible rfl
    | with_reducible apply InCue.rest
    | with_reducible apply InCue.upd

theorem commitRow_inCue {s0 s : State} {a1 a2 a3 a4} (h : InCue s0 s) : InCue s0 (commitRow a1 a2 a3 a4 s).2 := by
  unfold commitRow
  try dsimp only
  repeat' first
    | with_reducible assumption
    | with_reducible exact Or.inl
    | with_reducible exact id
    | with_reducible exact fun _ => rfl
    | with_reducible apply rowLeaves_inCue
    | with_reducible apply setSession_inCue
    | with_reducible apply deliver_inCue
    | with_reducible apply fillSession_inCue
    | with_reducible apply ready_inCue
    | with_reducible apply toIdle_inCue
    | with_reducible refine InCue.snd ?_ (by assumption)
    | with_reducible refine OutInCue.next ?_
    | with_reducible exact OutInCue.refused
    | with_reducible refine InCue.foldl _ _ ?_ ?_
    | with_reducible refine InCue.ite ?_ ?_
    | with_reducible refine OutInCue.ite ?_ ?_
    | (intro _)
    | split
    | with_reducible rfl
    | with_reducible apply InCue.rest
    | with_reducible apply InCue.upd

theorem countCommit_inCue {s0 s : State} {a1} (h : InCue s0 s) : InCue s0 (countCommit a1 s) := by
  unfold countCommit
  try dsimp only
  repeat' first
    | with_reducible assumption
    | with_reducible exact Or.inl
    | with_reducible exact id
    | with_reducible exact fun _ => rfl
    | with_reducible apply State.modPart_inCue
    | with_reducible refine OutInCue.next ?_
    | with_reducible exact OutInCue.refused
    | with_reducible refine InCue.foldl _ _ ?_ ?_
    | with_reducible refine InCue.ite ?_ ?_
    | with_reducible refine OutInCue.ite ?_ ?_
    | (intro _)
    | split
    | with_reducible rfl
    | with_reducible apply InCue.rest
    | with_reducible apply InCue.upd

theorem remapBuf_inCue {s0 s : State} {a1 a2} (h : InCue s0 s) : InCue s0 (remapBuf a1 a2 s) := by
  unfold remapBuf
  try dsimp only
  repeat' first
    | with_reducible assumption
    | with_reducible exact Or.inl
    | with_reducible exact id
    | with_reducible exact fun _ => rfl
    | with_reducible apply setPte_inCue
    | with_reducible apply startDrop_inCue
    | with_reducible refine OutInCue.next ?_
    | with_reducible exact OutInCue.refused
    | with_reducible refine InCue.foldl _ _ ?_ ?_
    | with_reducible refine InCue.ite ?_ ?_
    | with_reducible refine OutInCue.ite ?_ ?_
    | (intro _)
    | split
    | with_reducible rfl
    | with_reducible apply InCue.rest
    | with_reducible apply InCue.upd

theorem digRecord_inCue {s0 s : State} {a1 a2} (h : InCue s0 s) : InCue s0 (digRecord a1 a2 s) := by
  unfold digRecord
  try dsimp only
  repeat' first
    | with_reducible assumption
    | with_reducible exact Or.inl
    | with_reducible exact id
    | with_reducible exact fun _ => rfl
    | with_reducible refine OutInCue.next ?_
    | with_reducible exact OutInCue.refused
    | with_reducible refine InCue.foldl _ _ ?_ ?_
    | with_reducible refine InCue.ite ?_ ?_
    | with_reducible refine OutInCue.ite ?_ ?_
    | (intro _)
    | split
    | with_reducible rfl
    | with_reducible apply InCue.rest
    | with_reducible apply InCue.upd

theorem markWhole_inCue {s0 s : State} {a1 a2} (h : InCue s0 s) : InCue s0 (markWhole a1 a2 s) := by
  unfold markWhole
  try dsimp only
  repeat' first
    | with_reducible assumption
    | with_reducible exact Or.inl
    | with_reducible exact id
    | with_reducible exact fun _ => rfl
    | with_reducible refine OutInCue.next ?_
    | with_reducible exact OutInCue.refused
    | with_reducible refine InCue.foldl _ _ ?_ ?_
    | with_reducible refine InCue.ite ?_ ?_
    | with_reducible refine OutInCue.ite ?_ ?_
    | (intro _)
    | split
    | with_reducible rfl
    | with_reducible apply InCue.rest
    | with_reducible apply InCue.upd

theorem wake_inCue {s0 s : State} {a1 a2 a3} (h : InCue s0 s) : InCue s0 (wake a1 a2 a3 s) := by
  unfold wake
  try dsimp only
  repeat' first
    | with_reducible assumption
    | with_reducible exact Or.inl
    | with_reducible exact id
    | with_reducible exact fun _ => rfl
    | with_reducible apply State.modInst_inCue
    | with_reducible refine OutInCue.next ?_
    | with_reducible exact OutInCue.refused
    | with_reducible refine InCue.foldl _ _ ?_ ?_
    | with_reducible refine InCue.ite ?_ ?_
    | with_reducible refine OutInCue.ite ?_ ?_
    | (intro _)
    | split
    | with_reducible rfl
    | with_reducible apply InCue.rest
    | with_reducible apply InCue.upd

theorem commitRows_inCue {s0 s : State} {a1 : Nat} {a2 : List W32} {a3 : List Byte} {a4 : Nat} {a5 : List Row}
    (h : InCue s0 s) : InCue s0 (commitRows a1 a2 a3 a4 a5 s).2 := by
  induction a5 generalizing a4 s with
  | nil => exact h
  | cons r rs ih => exact ih (commitRow_inCue h)

theorem deliverTokens_inCue {s0 s : State} {a1 a2 a3 a4} (h : InCue s0 s) : InCue s0 (deliverTokens a1 a2 a3 a4 s) := by
  unfold deliverTokens
  try dsimp only
  repeat' first
    | with_reducible assumption
    | with_reducible exact Or.inl
    | with_reducible exact id
    | with_reducible exact fun _ => rfl
    | with_reducible apply commitRows_inCue
    | with_reducible apply modStep_inCue
    | with_reducible apply originate_inCue
    | with_reducible apply closeSession_inCue
    | with_reducible refine InCue.snd ?_ (by assumption)
    | with_reducible refine OutInCue.next ?_
    | with_reducible exact OutInCue.refused
    | with_reducible refine InCue.foldl _ _ ?_ ?_
    | with_reducible refine InCue.ite ?_ ?_
    | with_reducible refine OutInCue.ite ?_ ?_
    | (intro _)
    | split
    | with_reducible rfl
    | with_reducible apply InCue.rest
    | with_reducible apply InCue.upd

theorem finishStep_inCue {s0 s : State} {a1 a2} (h : InCue s0 s) : InCue s0 (finishStep a1 a2 s) := by
  unfold finishStep
  try dsimp only
  repeat' first
    | with_reducible assumption
    | with_reducible exact Or.inl
    | with_reducible exact id
    | with_reducible exact fun _ => rfl
    | with_reducible apply freeReserved_inCue
    | with_reducible apply setDigPlay_inCue
    | with_reducible apply forgetStep_inCue
    | with_reducible apply settleStep_inCue
    | with_reducible refine OutInCue.next ?_
    | with_reducible exact OutInCue.refused
    | with_reducible refine InCue.foldl _ _ ?_ ?_
    | with_reducible refine InCue.ite ?_ ?_
    | with_reducible refine OutInCue.ite ?_ ?_
    | (intro _)
    | split
    | with_reducible rfl
    | with_reducible apply InCue.rest
    | with_reducible apply InCue.upd

theorem commitScene_inCue {s0 s : State} {a1} (h : InCue s0 s) : InCue s0 (commitScene a1 s) := by
  unfold commitScene
  try dsimp only
  repeat' first
    | with_reducible assumption
    | with_reducible exact Or.inl
    | with_reducible exact id
    | with_reducible exact fun _ => rfl
    | with_reducible apply countCommit_inCue
    | with_reducible apply chargeRun_inCue
    | with_reducible apply remapBuf_inCue
    | with_reducible apply commitBuf_inCue
    | with_reducible apply unmapInputs_inCue
    | with_reducible apply unmapPage_inCue
    | with_reducible apply dropRequests_inCue
    | with_reducible apply State.modPress_inCue
    | with_reducible apply State.modInst_inCue
    | with_reducible apply digRecord_inCue
    | with_reducible apply markWhole_inCue
    | with_reducible apply commitMove_inCue
    | with_reducible apply wake_inCue
    | with_reducible apply deliverTokens_inCue
    | with_reducible apply finishStep_inCue
    | with_reducible refine OutInCue.next ?_
    | with_reducible exact OutInCue.refused
    | with_reducible refine InCue.foldl _ _ ?_ ?_
    | with_reducible refine InCue.ite ?_ ?_
    | with_reducible refine OutInCue.ite ?_ ?_
    | (intro _)
    | split
    | with_reducible rfl
    | with_reducible apply InCue.rest
    | with_reducible apply InCue.upd

theorem coreFault_inCue {s0 s : State} {a1 a2} (h : InCue s0 s) : InCue s0 (coreFault a1 a2 s) := by
  unfold coreFault
  try dsimp only
  repeat' first
    | with_reducible assumption
    | with_reducible exact Or.inl
    | with_reducible exact id
    | with_reducible exact fun _ => rfl
    | with_reducible apply devWrite_inCue
    | with_reducible refine OutInCue.next ?_
    | with_reducible exact OutInCue.refused
    | with_reducible refine InCue.foldl _ _ ?_ ?_
    | with_reducible refine InCue.ite ?_ ?_
    | with_reducible refine OutInCue.ite ?_ ?_
    | (intro _)
    | split
    | with_reducible rfl
    | with_reducible apply InCue.rest
    | with_reducible apply InCue.upd

theorem sceneFault_inCue {s0 s : State} {a1 a2 a3 a4} (h : InCue s0 s) : InCue s0 (sceneFault a1 a2 a3 a4 s) := by
  unfold sceneFault
  try dsimp only
  repeat' first
    | with_reducible assumption
    | with_reducible exact Or.inl
    | with_reducible exact id
    | with_reducible exact fun _ => rfl
    | with_reducible apply killInst_inCue
    | with_reducible apply State.modInst_inCue
    | with_reducible apply logEvent_inCue
    | with_reducible apply blockPlay_inCue
    | with_reducible refine OutInCue.next ?_
    | with_reducible exact OutInCue.refused
    | with_reducible refine InCue.foldl _ _ ?_ ?_
    | with_reducible refine InCue.ite ?_ ?_
    | with_reducible refine OutInCue.ite ?_ ?_
    | (intro _)
    | split
    | with_reducible rfl
    | with_reducible apply InCue.rest
    | with_reducible apply InCue.upd

theorem execPartCommitRequest_inCue {s0 s : State} {a1 a2 a3 a4} (h : InCue s0 s) : OutInCue s0 (execPartCommitRequest a1 a2 a3
    a4 s) := by
  unfold execPartCommitRequest
  try dsimp only
  repeat' first
    | with_reducible assumption
    | with_reducible exact Or.inl
    | with_reducible exact id
    | with_reducible exact fun _ => rfl
    | with_reducible apply State.at_inCue
    | with_reducible apply memErrs_inCue
    | with_reducible apply State.modInst_inCue
    | with_reducible refine OutInCue.next ?_
    | with_reducible exact OutInCue.refused
    | with_reducible refine InCue.foldl _ _ ?_ ?_
    | with_reducible refine InCue.ite ?_ ?_
    | with_reducible refine OutInCue.ite ?_ ?_
    | (intro _)
    | split
    | with_reducible rfl
    | with_reducible apply InCue.rest
    | with_reducible apply InCue.upd

theorem restoreCopy_inCue {s0 s : State} {a1} (h : InCue s0 s) : InCue s0 (restoreCopy a1 s) := by
  unfold restoreCopy
  try dsimp only
  repeat' first
    | with_reducible assumption
    | with_reducible exact Or.inl
    | with_reducible exact id
    | with_reducible exact fun _ => rfl
    | with_reducible apply logEvent_inCue
    | with_reducible apply countRestored_inCue
    | with_reducible apply devWrite_inCue
    | with_reducible refine OutInCue.next ?_
    | with_reducible exact OutInCue.refused
    | with_reducible refine InCue.foldl _ _ ?_ ?_
    | with_reducible refine InCue.ite ?_ ?_
    | with_reducible refine OutInCue.ite ?_ ?_
    | (intro _)
    | split
    | with_reducible rfl
    | with_reducible apply InCue.rest
    | with_reducible apply InCue.upd

theorem execRelowerComplete_inCue {s0 s : State} {a1 a2} (h : InCue s0 s) : OutInCue s0 (execRelowerComplete a1 a2 s) := by
  unfold execRelowerComplete
  try dsimp only
  repeat' first
    | with_reducible assumption
    | with_reducible exact Or.inl
    | with_reducible exact id
    | with_reducible exact fun _ => rfl
    | with_reducible apply State.at_inCue
    | with_reducible apply restoreCopy_inCue
    | with_reducible apply State.modInst_inCue
    | with_reducible refine OutInCue.next ?_
    | with_reducible exact OutInCue.refused
    | with_reducible refine InCue.foldl _ _ ?_ ?_
    | with_reducible refine InCue.ite ?_ ?_
    | with_reducible refine OutInCue.ite ?_ ?_
    | (intro _)
    | split
    | with_reducible rfl
    | with_reducible apply InCue.rest
    | with_reducible apply InCue.upd

theorem execSceneAdmission_inCue {s0 s : State} {a1 a2} (h : InCue s0 s) : OutInCue s0 (execSceneAdmission a1 a2 s) := by
  unfold execSceneAdmission
  try dsimp only
  repeat' first
    | with_reducible assumption
    | with_reducible exact Or.inl
    | with_reducible exact id
    | with_reducible exact fun _ => rfl
    | with_reducible apply placeDisplaced_inCue
    | with_reducible apply reRun_inCue
    | with_reducible apply State.at_inCue
    | with_reducible apply admitScene_inCue
    | with_reducible apply coreFault_inCue
    | with_reducible apply admitSlice_inCue
    | with_reducible refine OutInCue.next ?_
    | with_reducible exact OutInCue.refused
    | with_reducible refine InCue.foldl _ _ ?_ ?_
    | with_reducible refine InCue.ite ?_ ?_
    | with_reducible refine OutInCue.ite ?_ ?_
    | (intro _)
    | split
    | with_reducible rfl
    | with_reducible apply InCue.rest
    | with_reducible apply InCue.upd

theorem execSceneCommit_inCue {s0 s : State} {a1 a2} (h : InCue s0 s) : OutInCue s0 (execSceneCommit a1 a2 s) := by
  unfold execSceneCommit
  try dsimp only
  repeat' first
    | with_reducible assumption
    | with_reducible exact Or.inl
    | with_reducible exact id
    | with_reducible exact fun _ => rfl
    | with_reducible apply State.at_inCue
    | with_reducible apply commitScene_inCue
    | with_reducible refine OutInCue.next ?_
    | with_reducible exact OutInCue.refused
    | with_reducible refine InCue.foldl _ _ ?_ ?_
    | with_reducible refine InCue.ite ?_ ?_
    | with_reducible refine OutInCue.ite ?_ ?_
    | (intro _)
    | split
    | with_reducible rfl
    | with_reducible apply InCue.rest
    | with_reducible apply InCue.upd

theorem execSceneWatchdogExpiry_inCue {s0 s : State} {a1 a2} (h : InCue s0 s) : OutInCue s0 (execSceneWatchdogExpiry a1 a2 s) :=
    by
  unfold execSceneWatchdogExpiry
  try dsimp only
  repeat' first
    | with_reducible assumption
    | with_reducible exact Or.inl
    | with_reducible exact id
    | with_reducible exact fun _ => rfl
    | with_reducible apply State.at_inCue
    | with_reducible apply logEvent_inCue
    | with_reducible apply State.modInst_inCue
    | with_reducible apply detect_inCue
    | with_reducible apply suspectUnit_inCue
    | with_reducible apply killElsewhere_inCue
    | with_reducible apply blockPlay_inCue
    | with_reducible apply abandonInst_inCue
    | with_reducible refine OutInCue.next ?_
    | with_reducible exact OutInCue.refused
    | with_reducible refine InCue.foldl _ _ ?_ ?_
    | with_reducible refine InCue.ite ?_ ?_
    | with_reducible refine OutInCue.ite ?_ ?_
    | (intro _)
    | split
    | with_reducible rfl
    | with_reducible apply InCue.rest
    | with_reducible apply InCue.upd

theorem execSequencerTimeout_inCue {s0 s : State} {a1 a2 a3} (h : InCue s0 s) : OutInCue s0 (execSequencerTimeout a1 a2 a3 s) :=
    by
  unfold execSequencerTimeout
  try dsimp only
  repeat' first
    | with_reducible assumption
    | with_reducible exact Or.inl
    | with_reducible exact id
    | with_reducible exact fun _ => rfl
    | with_reducible apply State.at_inCue
    | with_reducible apply strike_inCue
    | with_reducible apply logEvent_inCue
    | with_reducible refine OutInCue.next ?_
    | with_reducible exact OutInCue.refused
    | with_reducible refine InCue.foldl _ _ ?_ ?_
    | with_reducible refine InCue.ite ?_ ?_
    | with_reducible refine OutInCue.ite ?_ ?_
    | (intro _)
    | split
    | with_reducible rfl
    | with_reducible apply InCue.rest
    | with_reducible apply InCue.upd

theorem formStep_inCue {s0 s : State} {a1} (h : InCue s0 s) : InCue s0 (formStep a1 s) := by
  unfold formStep
  try dsimp only
  repeat' first
    | with_reducible assumption
    | with_reducible exact Or.inl
    | with_reducible exact id
    | with_reducible exact fun _ => rfl
    | with_reducible apply formRows_inCue
    | with_reducible apply logOnce_inCue
    | with_reducible apply modSession_inCue
    | with_reducible apply formRun_inCue
    | with_reducible refine InCue.snd ?_ (by assumption)
    | with_reducible refine OutInCue.next ?_
    | with_reducible exact OutInCue.refused
    | with_reducible refine InCue.foldl _ _ ?_ ?_
    | with_reducible refine InCue.ite ?_ ?_
    | with_reducible refine OutInCue.ite ?_ ?_
    | (intro _)
    | split
    | with_reducible rfl
    | with_reducible apply InCue.rest
    | with_reducible apply InCue.upd

theorem execStepFormation_inCue {s0 s : State} {a1 a2} (h : InCue s0 s) : OutInCue s0 (execStepFormation a1 a2 s) := by
  unfold execStepFormation
  try dsimp only
  repeat' first
    | with_reducible assumption
    | with_reducible exact Or.inl
    | with_reducible exact id
    | with_reducible exact fun _ => rfl
    | with_reducible apply State.at_inCue
    | with_reducible apply formStep_inCue
    | with_reducible apply logOnce_inCue
    | with_reducible refine OutInCue.next ?_
    | with_reducible exact OutInCue.refused
    | with_reducible refine InCue.foldl _ _ ?_ ?_
    | with_reducible refine InCue.ite ?_ ?_
    | with_reducible refine OutInCue.ite ?_ ?_
    | (intro _)
    | split
    | with_reducible rfl
    | with_reducible apply InCue.rest
    | with_reducible apply InCue.upd

end Sys2Proof.Machine
end

