-- ==== Sys2Proof/Laws/InCuePress.lean ====
section
/-! SUPPORT. What the operations of Machine/Press.lean keep within a cue. -/

namespace Sys2Proof.Machine

theorem execAccumulatorError_inCue {s0 s : State} {a1 a2 a3} (h : InCue s0 s) : OutInCue s0 (execAccumulatorError a1 a2 a3 s) :=
    by
  unfold execAccumulatorError
  try dsimp only
  repeat' first
    | with_reducible assumption
    | with_reducible exact Or.inl
    | with_reducible exact id
    | with_reducible exact fun _ => rfl
    | with_reducible apply State.at_inCue
    | with_reducible apply killElsewhere_inCue
    | with_reducible apply logEvent_inCue
    | with_reducible apply suspectUnit_inCue
    | with_reducible refine OutInCue.next ?_
    | with_reducible exact OutInCue.refused
    | with_reducible refine InCue.foldl _ _ ?_ ?_
    | with_reducible refine InCue.ite ?_ ?_
    | with_reducible refine OutInCue.ite ?_ ?_
    | (intro _)
    | split
    | with_reducible rfl
    | with_reducible apply InCue.rest
    | with_reducible apply InCue.upd

theorem translationFault_inCue {s0 s : State} {a1 a2 a3 a4} (h : InCue s0 s) : InCue s0 (translationFault a1 a2 a3 a4 s) := by
  unfold translationFault
  try dsimp only
  repeat' first
    | with_reducible assumption
    | with_reducible exact Or.inl
    | with_reducible exact id
    | with_reducible exact fun _ => rfl
    | with_reducible apply sceneFault_inCue
    | with_reducible apply logEvent_inCue
    | with_reducible refine OutInCue.next ?_
    | with_reducible exact OutInCue.refused
    | with_reducible refine InCue.foldl _ _ ?_ ?_
    | with_reducible refine InCue.ite ?_ ?_
    | with_reducible refine OutInCue.ite ?_ ?_
    | (intro _)
    | split
    | with_reducible rfl
    | with_reducible apply InCue.rest
    | with_reducible apply InCue.upd

theorem feed_inCue {s0 s : State} {a1 a2} (h : InCue s0 s) : InCue s0 (feed a1 a2 s) := by
  unfold feed
  try dsimp only
  repeat' first
    | with_reducible assumption
    | with_reducible exact Or.inl
    | with_reducible exact id
    | with_reducible exact fun _ => rfl
    | with_reducible apply State.modPress_inCue
    | with_reducible refine OutInCue.next ?_
    | with_reducible exact OutInCue.refused
    | with_reducible refine InCue.foldl _ _ ?_ ?_
    | with_reducible refine InCue.ite ?_ ?_
    | with_reducible refine OutInCue.ite ?_ ?_
    | (intro _)
    | split
    | with_reducible rfl
    | with_reducible apply InCue.rest
    | with_reducible apply InCue.upd

theorem pump_inCue {s0 s : State} {a1 : Fin 16} {a2 : Nat} (h : InCue s0 s) : InCue s0 (pump a1 a2 s) := by
  induction a2 generalizing s with
  | zero => exact h
  | succ n ih =>
    unfold pump
    dsimp only
    split
    · split
      · exact feed_inCue h
      · exact ih (feed_inCue h)
    · exact h
    · split
      · exact ih (State.modPress_inCue h)
      · exact h

theorem pumpAll_inCue {s0 s : State} {a1} (h : InCue s0 s) : InCue s0 (pumpAll a1 s) := by
  unfold pumpAll
  try dsimp only
  repeat' first
    | with_reducible assumption
    | with_reducible exact Or.inl
    | with_reducible exact id
    | with_reducible exact fun _ => rfl
    | with_reducible apply pump_inCue
    | with_reducible refine OutInCue.next ?_
    | with_reducible exact OutInCue.refused
    | with_reducible refine InCue.foldl _ _ ?_ ?_
    | with_reducible refine InCue.ite ?_ ?_
    | with_reducible refine OutInCue.ite ?_ ?_
    | (intro _)
    | split
    | with_reducible rfl
    | with_reducible apply InCue.rest
    | with_reducible apply InCue.upd

theorem execGroupDrain_inCue {s0 s : State} {a1 a2 a3} (h : InCue s0 s) : OutInCue s0 (execGroupDrain a1 a2 a3 s) := by
  unfold execGroupDrain
  try dsimp only
  repeat' first
    | with_reducible assumption
    | with_reducible exact Or.inl
    | with_reducible exact id
    | with_reducible exact fun _ => rfl
    | with_reducible apply State.at_inCue
    | with_reducible apply State.modPress_inCue
    | with_reducible apply pumpAll_inCue
    | with_reducible refine OutInCue.next ?_
    | with_reducible exact OutInCue.refused
    | with_reducible refine InCue.foldl _ _ ?_ ?_
    | with_reducible refine InCue.ite ?_ ?_
    | with_reducible refine OutInCue.ite ?_ ?_
    | (intro _)
    | split
    | with_reducible rfl
    | with_reducible apply InCue.rest
    | with_reducible apply InCue.upd

theorem permanent_inCue {s0 s : State} {a1 a2} (h : InCue s0 s) : InCue s0 (permanent a1 a2 s) := by
  unfold permanent
  try dsimp only
  repeat' first
    | with_reducible assumption
    | with_reducible exact Or.inl
    | with_reducible exact id
    | with_reducible exact fun _ => rfl
    | with_reducible apply logEvent_inCue
    | with_reducible apply killInst_inCue
    | with_reducible apply strike_inCue
    | with_reducible refine OutInCue.next ?_
    | with_reducible exact OutInCue.refused
    | with_reducible refine InCue.foldl _ _ ?_ ?_
    | with_reducible refine InCue.ite ?_ ?_
    | with_reducible refine OutInCue.ite ?_ ?_
    | (intro _)
    | split
    | with_reducible rfl
    | with_reducible apply InCue.rest
    | with_reducible apply InCue.upd

theorem repeatFails_inCue {s0 s : State} {a1 a2 a3 a4 a5 a6} (h : InCue s0 s) : InCue s0 (repeatFails a1 a2 a3 a4 a5 a6 s) := by
  unfold repeatFails
  try dsimp only
  repeat' first
    | with_reducible assumption
    | with_reducible exact Or.inl
    | with_reducible exact id
    | with_reducible exact fun _ => rfl
    | with_reducible apply permanent_inCue
    | with_reducible apply State.modPress_inCue
    | with_reducible refine OutInCue.next ?_
    | with_reducible exact OutInCue.refused
    | with_reducible refine InCue.foldl _ _ ?_ ?_
    | with_reducible refine InCue.ite ?_ ?_
    | with_reducible refine OutInCue.ite ?_ ?_
    | (intro _)
    | split
    | with_reducible rfl
    | with_reducible apply InCue.rest
    | with_reducible apply InCue.upd

theorem transient_inCue {s0 s : State} {a1 a2} (h : InCue s0 s) : InCue s0 (transient a1 a2 s) := by
  unfold transient
  try dsimp only
  repeat' first
    | with_reducible assumption
    | with_reducible exact Or.inl
    | with_reducible exact id
    | with_reducible exact fun _ => rfl
    | with_reducible apply countTransient_inCue
    | with_reducible apply logEvent_inCue
    | with_reducible refine OutInCue.next ?_
    | with_reducible exact OutInCue.refused
    | with_reducible refine InCue.foldl _ _ ?_ ?_
    | with_reducible refine InCue.ite ?_ ?_
    | with_reducible refine OutInCue.ite ?_ ?_
    | (intro _)
    | split
    | with_reducible rfl
    | with_reducible apply InCue.rest
    | with_reducible apply InCue.upd

theorem reloads_inCue {s0 s : State} {a1 a2} (h : InCue s0 s) : InCue s0 (reloads a1 a2 s) := by
  unfold reloads
  try dsimp only
  repeat' first
    | with_reducible assumption
    | with_reducible exact Or.inl
    | with_reducible exact id
    | with_reducible exact fun _ => rfl
    | with_reducible apply transient_inCue
    | with_reducible refine OutInCue.next ?_
    | with_reducible exact OutInCue.refused
    | with_reducible refine InCue.foldl _ _ ?_ ?_
    | with_reducible refine InCue.ite ?_ ?_
    | with_reducible refine OutInCue.ite ?_ ?_
    | (intro _)
    | split
    | with_reducible rfl
    | with_reducible apply InCue.rest
    | with_reducible apply InCue.upd

theorem execPlatenRepeatVerdict_inCue {s0 s : State} {a1 a2 a3} (h : InCue s0 s) : OutInCue s0 (execPlatenRepeatVerdict a1 a2 a3
    s) := by
  unfold execPlatenRepeatVerdict
  try dsimp only
  repeat' first
    | with_reducible assumption
    | with_reducible exact Or.inl
    | with_reducible exact id
    | with_reducible exact fun _ => rfl
    | with_reducible apply State.at_inCue
    | with_reducible apply repeatFails_inCue
    | with_reducible apply State.modPress_inCue
    | with_reducible apply pumpAll_inCue
    | with_reducible apply reloads_inCue
    | with_reducible apply transient_inCue
    | with_reducible refine OutInCue.next ?_
    | with_reducible exact OutInCue.refused
    | with_reducible refine InCue.foldl _ _ ?_ ?_
    | with_reducible refine InCue.ite ?_ ?_
    | with_reducible refine OutInCue.ite ?_ ?_
    | (intro _)
    | split
    | with_reducible rfl
    | with_reducible apply InCue.rest
    | with_reducible apply InCue.upd

theorem illegalOp_inCue {s0 s : State} {a1 a2 a3 a4} (h : InCue s0 s) : InCue s0 (illegalOp a1 a2 a3 a4 s) := by
  unfold illegalOp
  try dsimp only
  repeat' first
    | with_reducible assumption
    | with_reducible exact Or.inl
    | with_reducible exact id
    | with_reducible exact fun _ => rfl
    | with_reducible apply sceneFault_inCue
    | with_reducible apply logEvent_inCue
    | with_reducible refine OutInCue.next ?_
    | with_reducible exact OutInCue.refused
    | with_reducible refine InCue.foldl _ _ ?_ ?_
    | with_reducible refine InCue.ite ?_ ?_
    | with_reducible refine OutInCue.ite ?_ ?_
    | (intro _)
    | split
    | with_reducible rfl
    | with_reducible apply InCue.rest
    | with_reducible apply InCue.upd

theorem execPress_inCue {s0 s : State} {a1 a2 a3 a4 a5 a6} (h : InCue s0 s) : OutInCue s0 (execPress a1 a2 a3 a4 a5 a6 s) := by
  unfold execPress
  try dsimp only
  repeat' first
    | with_reducible assumption
    | with_reducible exact Or.inl
    | with_reducible exact id
    | with_reducible exact fun _ => rfl
    | with_reducible apply State.at_inCue
    | with_reducible apply waitHand_inCue
    | with_reducible apply illegalOp_inCue
    | with_reducible apply memErrs_inCue
    | with_reducible apply State.modPress_inCue
    | with_reducible apply meetBarrier_inCue
    | with_reducible apply pumpAll_inCue
    | with_reducible refine OutInCue.next ?_
    | with_reducible exact OutInCue.refused
    | with_reducible refine InCue.foldl _ _ ?_ ?_
    | with_reducible refine InCue.ite ?_ ?_
    | with_reducible refine OutInCue.ite ?_ ?_
    | (intro _)
    | split
    | with_reducible rfl
    | with_reducible apply InCue.rest
    | with_reducible apply InCue.upd

theorem execRowReadyUpdate_inCue {s0 s : State} {a1 a2 a3 a4 a5} (h : InCue s0 s) : OutInCue s0 (execRowReadyUpdate a1 a2 a3 a4
    a5 s) := by
  unfold execRowReadyUpdate
  try dsimp only
  repeat' first
    | with_reducible assumption
    | with_reducible exact Or.inl
    | with_reducible exact id
    | with_reducible exact fun _ => rfl
    | with_reducible apply State.at_inCue
    | with_reducible apply State.modPress_inCue
    | with_reducible refine OutInCue.next ?_
    | with_reducible exact OutInCue.refused
    | with_reducible refine InCue.foldl _ _ ?_ ?_
    | with_reducible refine InCue.ite ?_ ?_
    | with_reducible refine OutInCue.ite ?_ ?_
    | (intro _)
    | split
    | with_reducible rfl
    | with_reducible apply InCue.rest
    | with_reducible apply InCue.upd

theorem execSequencerLockstepMismatch_inCue {s0 s : State} {a1 a2 a3} (h : InCue s0 s) : OutInCue s0
    (execSequencerLockstepMismatch a1 a2 a3 s) := by
  unfold execSequencerLockstepMismatch
  try dsimp only
  repeat' first
    | with_reducible assumption
    | with_reducible exact Or.inl
    | with_reducible exact id
    | with_reducible exact fun _ => rfl
    | with_reducible apply State.at_inCue
    | with_reducible apply logEvent_inCue
    | with_reducible apply detect_inCue
    | with_reducible apply strike_inCue
    | with_reducible apply State.modPress_inCue
    | with_reducible refine OutInCue.next ?_
    | with_reducible exact OutInCue.refused
    | with_reducible refine InCue.foldl _ _ ?_ ?_
    | with_reducible refine InCue.ite ?_ ?_
    | with_reducible refine OutInCue.ite ?_ ?_
    | (intro _)
    | split
    | with_reducible rfl
    | with_reducible apply InCue.rest
    | with_reducible apply InCue.upd

theorem execShadowLoadComplete_inCue {s0 s : State} {a1 a2 a3 a4} (h : InCue s0 s) : OutInCue s0 (execShadowLoadComplete a1 a2
    a3 a4 s) := by
  unfold execShadowLoadComplete
  try dsimp only
  repeat' first
    | with_reducible assumption
    | with_reducible exact Or.inl
    | with_reducible exact id
    | with_reducible exact fun _ => rfl
    | with_reducible apply State.at_inCue
    | with_reducible apply permanent_inCue
    | with_reducible apply State.modPress_inCue
    | with_reducible apply pumpAll_inCue
    | with_reducible apply reloads_inCue
    | with_reducible refine OutInCue.next ?_
    | with_reducible exact OutInCue.refused
    | with_reducible refine InCue.foldl _ _ ?_ ?_
    | with_reducible refine InCue.ite ?_ ?_
    | with_reducible refine OutInCue.ite ?_ ?_
    | (intro _)
    | split
    | with_reducible rfl
    | with_reducible apply InCue.rest
    | with_reducible apply InCue.upd

end Sys2Proof.Machine
end

