-- ==== Sys2Proof/Laws/InCueCompositor.lean ====
section
/-! SUPPORT. What the operations of Machine/Compositor.lean keep within a cue. -/

namespace Sys2Proof.Machine

theorem playWrite_inCue {s0 s : State} {a1 a2 a3} (h : InCue s0 s) : InCue s0 (playWrite a1 a2 a3 s) := by
  unfold playWrite
  try dsimp only
  repeat' first
    | with_reducible assumption
    | with_reducible exact Or.inl
    | with_reducible exact id
    | with_reducible exact fun _ => rfl
    | with_reducible apply devWrite_inCue
    | with_reducible refine OutInCue.next ?_
    | with_reducible exact OutInCue.refused
    | with_reducible refine InCue.foldl _ _ ?_ ?_
    | with_reducible refine InCue.ite ?_ ?_
    | with_reducible refine OutInCue.ite ?_ ?_
    | (intro _)
    | split
    | with_reducible rfl
    | with_reducible apply InCue.rest
    | with_reducible apply InCue.upd

theorem compEffect_inCue {s0 s : State} {a1 a2 a3 a4} (h : InCue s0 s) : InCue s0 (compEffect a1 a2 a3 a4 s) := by
  unfold compEffect
  try dsimp only
  repeat' first
    | with_reducible assumption
    | with_reducible exact Or.inl
    | with_reducible exact id
    | with_reducible exact fun _ => rfl
    | with_reducible apply playWrite_inCue
    | with_reducible apply State.modPress_inCue
    | with_reducible apply caseWrite_inCue
    | with_reducible refine OutInCue.next ?_
    | with_reducible exact OutInCue.refused
    | with_reducible refine InCue.foldl _ _ ?_ ?_
    | with_reducible refine InCue.ite ?_ ?_
    | with_reducible refine OutInCue.ite ?_ ?_
    | (intro _)
    | split
    | with_reducible rfl
    | with_reducible apply InCue.rest
    | with_reducible apply InCue.upd

theorem compNext_inCue {s0 s : State} {a1 a2} (h : InCue s0 s) : InCue s0 (compNext a1 a2 s) := by
  unfold compNext
  try dsimp only
  repeat' first
    | with_reducible assumption
    | with_reducible exact Or.inl
    | with_reducible exact id
    | with_reducible exact fun _ => rfl
    | with_reducible apply State.modPress_inCue
    | with_reducible refine OutInCue.next ?_
    | with_reducible exact OutInCue.refused
    | with_reducible refine InCue.foldl _ _ ?_ ?_
    | with_reducible refine InCue.ite ?_ ?_
    | with_reducible refine OutInCue.ite ?_ ?_
    | (intro _)
    | split
    | with_reducible rfl
    | with_reducible apply InCue.rest
    | with_reducible apply InCue.upd

theorem execCompositorTimeout_inCue {s0 s : State} {a1 a2 a3} (h : InCue s0 s) : OutInCue s0 (execCompositorTimeout a1 a2 a3 s)
    := by
  unfold execCompositorTimeout
  try dsimp only
  repeat' first
    | with_reducible assumption
    | with_reducible exact Or.inl
    | with_reducible exact id
    | with_reducible exact fun _ => rfl
    | with_reducible apply State.at_inCue
    | with_reducible apply killElsewhere_inCue
    | with_reducible apply logEvent_inCue
    | with_reducible apply suspectUnit_inCue
    | with_reducible refine OutInCue.next ?_
    | with_reducible exact OutInCue.refused
    | with_reducible refine InCue.foldl _ _ ?_ ?_
    | with_reducible refine InCue.ite ?_ ?_
    | with_reducible refine OutInCue.ite ?_ ?_
    | (intro _)
    | split
    | with_reducible rfl
    | with_reducible apply InCue.rest
    | with_reducible apply InCue.upd

theorem execCompositorWrite_inCue {s0 s : State} {a1 a2 a3 a4 a5 a6 a7 a8 a9} (h : InCue s0 s) : OutInCue s0
    (execCompositorWrite a1 a2 a3 a4 a5 a6 a7 a8 a9 s) := by
  unfold execCompositorWrite
  try dsimp only
  repeat' first
    | with_reducible assumption
    | with_reducible exact Or.inl
    | with_reducible exact id
    | with_reducible exact fun _ => rfl
    | with_reducible apply State.at_inCue
    | with_reducible apply tagErrs_inCue
    | with_reducible apply waitHand_inCue
    | with_reducible apply translationFault_inCue
    | with_reducible apply poisonRead_inCue
    | with_reducible apply memErrs_inCue
    | with_reducible apply askBlocks_inCue
    | with_reducible apply compEffect_inCue
    | with_reducible apply State.modPress_inCue
    | with_reducible apply meetBarrier_inCue
    | with_reducible apply pumpAll_inCue
    | with_reducible apply compNext_inCue
    | with_reducible refine OutInCue.next ?_
    | with_reducible exact OutInCue.refused
    | with_reducible refine InCue.foldl _ _ ?_ ?_
    | with_reducible refine InCue.ite ?_ ?_
    | with_reducible refine OutInCue.ite ?_ ?_
    | (intro _)
    | split
    | with_reducible rfl
    | with_reducible apply InCue.rest
    | with_reducible apply InCue.upd

theorem execXfer_inCue {s0 s : State} {a1 a2 a3 a4 a5 a6} (h : InCue s0 s) : OutInCue s0 (execXfer a1 a2 a3 a4 a5 a6 s) := by
  unfold execXfer
  try dsimp only
  repeat' first
    | with_reducible assumption
    | with_reducible exact Or.inl
    | with_reducible exact id
    | with_reducible exact fun _ => rfl
    | with_reducible apply State.at_inCue
    | with_reducible apply tagErrs_inCue
    | with_reducible apply waitHand_inCue
    | with_reducible apply illegalOp_inCue
    | with_reducible apply translationFault_inCue
    | with_reducible apply poisonRead_inCue
    | with_reducible apply memErrs_inCue
    | with_reducible apply askBlocks_inCue
    | with_reducible apply playWrite_inCue
    | with_reducible apply State.modInst_inCue
    | with_reducible apply meetBarrier_inCue
    | with_reducible apply State.modPress_inCue
    | with_reducible refine OutInCue.next ?_
    | with_reducible exact OutInCue.refused
    | with_reducible refine InCue.foldl _ _ ?_ ?_
    | with_reducible refine InCue.ite ?_ ?_
    | with_reducible refine OutInCue.ite ?_ ?_
    | (intro _)
    | split
    | with_reducible rfl
    | with_reducible apply InCue.rest
    | with_reducible apply InCue.upd

theorem execXferComplete_inCue {s0 s : State} {a1 a2 a3} (h : InCue s0 s) : OutInCue s0 (execXferComplete a1 a2 a3 s) := by
  unfold execXferComplete
  try dsimp only
  repeat' first
    | with_reducible assumption
    | with_reducible exact Or.inl
    | with_reducible exact id
    | with_reducible exact fun _ => rfl
    | with_reducible apply State.at_inCue
    | with_reducible apply State.modPress_inCue
    | with_reducible refine OutInCue.next ?_
    | with_reducible exact OutInCue.refused
    | with_reducible refine InCue.foldl _ _ ?_ ?_
    | with_reducible refine InCue.ite ?_ ?_
    | with_reducible refine OutInCue.ite ?_ ?_
    | (intro _)
    | split
    | with_reducible rfl
    | with_reducible apply InCue.rest
    | with_reducible apply InCue.upd

end Sys2Proof.Machine
end

