-- ==== Sys2Proof/Laws/InCueVecUnit.lean ====
section
/-! SUPPORT. What the operations of Machine/VecUnit.lean keep within a cue. -/

namespace Sys2Proof.Machine

theorem Paged.note_inCue {s0 s : State} {a1} (h : InCue s0 s) : InCue s0 (Paged.note a1 s) := by
  unfold Paged.note
  try dsimp only
  repeat' first
    | with_reducible assumption
    | with_reducible exact Or.inl
    | with_reducible exact id
    | with_reducible exact fun _ => rfl
    | with_reducible apply State.modInst_inCue
    | with_reducible refine OutInCue.next ?_
    | with_reducible exact OutInCue.refused
    | with_reducible refine InCue.foldl _ _ ?_ ?_
    | with_reducible refine InCue.ite ?_ ?_
    | with_reducible refine OutInCue.ite ?_ ?_
    | (intro _)
    | split
    | with_reducible rfl
    | with_reducible apply InCue.rest
    | with_reducible apply InCue.upd

theorem Paged.write_inCue {s0 s : State} {a1 a2 a3} (h : InCue s0 s) : InCue s0 (Paged.write a1 a2 a3 s) := by
  unfold Paged.write
  try dsimp only
  repeat' first
    | with_reducible assumption
    | with_reducible exact Or.inl
    | with_reducible exact id
    | with_reducible exact fun _ => rfl
    | with_reducible apply playWrite_inCue
    | with_reducible apply Paged.note_inCue
    | with_reducible refine OutInCue.next ?_
    | with_reducible exact OutInCue.refused
    | with_reducible refine InCue.foldl _ _ ?_ ?_
    | with_reducible refine InCue.ite ?_ ?_
    | with_reducible refine OutInCue.ite ?_ ?_
    | (intro _)
    | split
    | with_reducible rfl
    | with_reducible apply InCue.rest
    | with_reducible apply InCue.upd

theorem writeResults_inCue {s0 s : State} {a1 : Fin 16} {a2 : Nat} {a3 : List VArr} (h : InCue s0 s) :
    InCue s0 (writeResults a1 a2 a3 s) := by
  induction a3 generalizing a2 s with
  | nil => exact h
  | cons r rs ih => exact ih (State.modPress_inCue (devWrite_inCue h))

theorem writeMicro_inCue {s0 s : State} {a1 a2 a3 a4 a5 a6} (h : InCue s0 s) : InCue s0 (writeMicro a1 a2 a3 a4 a5 a6 s) := by
  unfold writeMicro
  try dsimp only
  repeat' first
    | with_reducible assumption
    | with_reducible exact Or.inl
    | with_reducible exact id
    | with_reducible exact fun _ => rfl
    | with_reducible apply askBlocks_inCue
    | with_reducible apply writeResults_inCue
    | with_reducible apply State.modPress_inCue
    | with_reducible apply meetBarrier_inCue
    | with_reducible apply pumpAll_inCue
    | with_reducible refine OutInCue.next ?_
    | with_reducible exact OutInCue.refused
    | with_reducible refine InCue.foldl _ _ ?_ ?_
    | with_reducible refine InCue.ite ?_ ?_
    | with_reducible refine OutInCue.ite ?_ ?_
    | (intro _)
    | split
    | with_reducible rfl
    | with_reducible apply InCue.rest
    | with_reducible apply InCue.upd

theorem memOperands_inCue {s0 s : State} {a1 a2 a3 a4 a5} (h : InCue s0 s) :
    ∀ t, memOperands a1 a2 a3 a4 a5 s = some t → InCue s0 t := by
  intro t e
  unfold memOperands at e
  dsimp only at e
  split at e
  · cases e; exact (waitHand_inCue h)
  · split at e <;> cases e
    · exact (translationFault_inCue h)
    · exact (demandMiss_inCue h)
    · exact (poisonRead_inCue h)

theorem poolWait_inCue {s0 s : State} {a1 a2 a3 a4 a5 a6} (h : InCue s0 s) :
    ∀ t, poolWait a1 a2 a3 a4 a5 a6 s = some t → InCue s0 t := by
  intro t e
  unfold poolWait at e
  dsimp only at e
  split at e
  · cases e; exact (waitHand_inCue h)
  · split at e
    · cases e; exact (translationFault_inCue h)
    · cases e; exact (translationFault_inCue h)
    · split at e
      · cases e; exact (demandMiss_inCue h)
      · split at e
        · cases e; exact (poisonRead_inCue h)
        · split at e <;> cases e
          exact (waitHand_inCue h)

/-- The state a micro-operation's results stand in. -/
theorem vecRun_inCue {s0 s : State} {a1 a2 a3} (h : InCue s0 s) :
    ∀ r, vecRun a1 a2 a3 s = some r → InCue s0 r.2 := by
  intro r e
  unfold vecRun at e
  split at e
  · split at e
    · split at e <;> cases e
      exact h
    · split at e
      · cases e
      · cases e; exact (Paged.write_inCue h)
  · obtain ⟨_, _, rfl⟩ := Option.map_eq_some_iff.1 e; exact h

theorem runMicro_inCue {s0 s : State} {a1 a2 a3 a4 a5} (h : InCue s0 s) :
    InCue s0 (runMicro a1 a2 a3 a4 a5 s) := by
  unfold runMicro
  split
  · exact h
  · generalize e : vecRun a4 a3 (a3.srcs.map (s.vecSrc a1 a4.key.play)) s = r
    match r, e with
    | none, _ => exact (illegalOp_inCue (InCue.rest h rfl))
    | some _, e => exact (writeMicro_inCue (vecRun_inCue h _ e))

theorem execVectorMicroOperation_inCue {s0 s : State} {a1 a2 a3 a4 a5} (h : InCue s0 s) :
    OutInCue s0 (execVectorMicroOperation a1 a2 a3 a4 a5 s) := by
  unfold execVectorMicroOperation
  extract_lets u
  have hu : InCue s0 u := (State.at_inCue h)
  split
  · exact hu
  · next i _ =>
    have hu : InCue s0 (tagErrs a2 (a5.filterMap ReadErr.tag) u) := (tagErrs_inCue hu)
    dsimp only
    split
    · exact (waitHand_inCue hu)
    · generalize e : Option.or _ _ = r
      match r, e with
      | some t, e =>
        rcases Option.or_eq_some_iff.1 e with e | ⟨_, e⟩
        · exact (memOperands_inCue hu _ e)
        · exact (poolWait_inCue hu _ e)
      | none, _ => exact (runMicro_inCue (memErrs_inCue (InCue.foldl _ _ hu fun _ _ k => (demandHit_inCue k))))

end Sys2Proof.Machine
end

