-- ==== Sys2Proof/Laws/InCueMemory.lean ====
section
/-! SUPPORT. What the operations of Machine/Memory.lean keep within a cue. -/

namespace Sys2Proof.Machine

theorem mapRestored_inCue {s0 s : State} {a1 a2 a3 a4 a5} (h : InCue s0 s) : InCue s0 (mapRestored a1 a2 a3 a4 a5 s) := by
  unfold mapRestored
  try dsimp only
  repeat' first
    | with_reducible assumption
    | with_reducible exact Or.inl
    | with_reducible exact id
    | with_reducible exact fun _ => rfl
    | with_reducible apply devWrite_inCue
    | with_reducible apply startDrop_inCue
    | with_reducible apply setPte_inCue
    | with_reducible apply logEvent_inCue
    | with_reducible apply countRestored_inCue
    | with_reducible refine OutInCue.next ?_
    | with_reducible exact OutInCue.refused
    | with_reducible refine InCue.foldl _ _ ?_ ?_
    | with_reducible refine InCue.ite ?_ ?_
    | with_reducible refine OutInCue.ite ?_ ?_
    | (intro _)
    | split
    | with_reducible rfl
    | with_reducible apply InCue.rest
    | with_reducible apply InCue.upd

theorem judgeRestored_inCue {s0 s : State} {a1 a2 a3 a4 a5 a6} (h : InCue s0 s) : InCue s0 (judgeRestored a1 a2 a3 a4 a5 a6 s)
    := by
  unfold judgeRestored
  try dsimp only
  repeat' first
    | with_reducible assumption
    | with_reducible exact Or.inl
    | with_reducible exact id
    | with_reducible exact fun _ => rfl
    | with_reducible apply mapRestored_inCue
    | with_reducible apply failRestore_inCue
    | with_reducible refine OutInCue.next ?_
    | with_reducible exact OutInCue.refused
    | with_reducible refine InCue.foldl _ _ ?_ ?_
    | with_reducible refine InCue.ite ?_ ?_
    | with_reducible refine OutInCue.ite ?_ ?_
    | (intro _)
    | split
    | with_reducible rfl
    | with_reducible apply InCue.rest
    | with_reducible apply InCue.upd

theorem execConstantRestoreDone_inCue {s0 s : State} {a1} (h : InCue s0 s) : OutInCue s0 (execConstantRestoreDone a1 s) := by
  unfold execConstantRestoreDone
  try dsimp only
  repeat' first
    | with_reducible assumption
    | with_reducible exact Or.inl
    | with_reducible exact id
    | with_reducible exact fun _ => rfl
    | with_reducible apply State.at_inCue
    | with_reducible apply failRestore_inCue
    | with_reducible apply judgeRestored_inCue
    | with_reducible refine OutInCue.next ?_
    | with_reducible exact OutInCue.refused
    | with_reducible refine InCue.foldl _ _ ?_ ?_
    | with_reducible refine InCue.ite ?_ ?_
    | with_reducible refine OutInCue.ite ?_ ?_
    | (intro _)
    | split
    | with_reducible rfl
    | with_reducible apply InCue.rest
    | with_reducible apply InCue.upd

theorem execEccWriteBack_inCue {s0 s : State} {a1 a2} (h : InCue s0 s) : OutInCue s0 (execEccWriteBack a1 a2 s) := by
  unfold execEccWriteBack
  try dsimp only
  repeat' first
    | with_reducible assumption
    | with_reducible exact Or.inl
    | with_reducible exact id
    | with_reducible exact fun _ => rfl
    | with_reducible apply State.at_inCue
    | with_reducible refine OutInCue.next ?_
    | with_reducible exact OutInCue.refused
    | with_reducible refine InCue.foldl _ _ ?_ ?_
    | with_reducible refine InCue.ite ?_ ?_
    | with_reducible refine OutInCue.ite ?_ ?_
    | (intro _)
    | split
    | with_reducible rfl
    | with_reducible apply InCue.rest
    | with_reducible apply InCue.upd

theorem putHop_inCue {s0 s : State} {a1} (h : InCue s0 s) : InCue s0 (putHop a1 s) := by
  unfold putHop
  try dsimp only
  repeat' first
    | with_reducible assumption
    | with_reducible exact Or.inl
    | with_reducible exact id
    | with_reducible exact fun _ => rfl
    | with_reducible refine OutInCue.next ?_
    | with_reducible exact OutInCue.refused
    | with_reducible refine InCue.foldl _ _ ?_ ?_
    | with_reducible refine InCue.ite ?_ ?_
    | with_reducible refine OutInCue.ite ?_ ?_
    | (intro _)
    | split
    | with_reducible rfl
    | with_reducible apply InCue.rest
    | with_reducible apply InCue.upd

theorem resend_inCue {s0 s : State} {a1 a2 a3} (h : InCue s0 s) : InCue s0 (resend a1 a2 a3 s) := by
  unfold resend
  try dsimp only
  repeat' first
    | with_reducible assumption
    | with_reducible exact Or.inl
    | with_reducible exact id
    | with_reducible exact fun _ => rfl
    | with_reducible apply putHop_inCue
    | with_reducible apply logOnce_inCue
    | with_reducible apply countResent_inCue
    | with_reducible refine OutInCue.next ?_
    | with_reducible exact OutInCue.refused
    | with_reducible refine InCue.foldl _ _ ?_ ?_
    | with_reducible refine InCue.ite ?_ ?_
    | with_reducible refine OutInCue.ite ?_ ?_
    | (intro _)
    | split
    | with_reducible rfl
    | with_reducible apply InCue.rest
    | with_reducible apply InCue.upd

theorem markSuspect_inCue {s0 s : State} {a1} (h : InCue s0 s) : InCue s0 (markSuspect a1 s) := by
  unfold markSuspect
  try dsimp only
  repeat' first
    | with_reducible assumption
    | with_reducible exact Or.inl
    | with_reducible exact id
    | with_reducible exact fun _ => rfl
    | with_reducible apply suspectUnit_inCue
    | with_reducible refine OutInCue.next ?_
    | with_reducible exact OutInCue.refused
    | with_reducible refine InCue.foldl _ _ ?_ ?_
    | with_reducible refine InCue.ite ?_ ?_
    | with_reducible refine OutInCue.ite ?_ ?_
    | (intro _)
    | split
    | with_reducible rfl
    | with_reducible apply InCue.rest
    | with_reducible apply InCue.upd

theorem loseBlock_inCue {s0 s : State} {a1 a2} (h : InCue s0 s) : InCue s0 (loseBlock a1 a2 s) := by
  unfold loseBlock
  try dsimp only
  repeat' first
    | with_reducible assumption
    | with_reducible exact Or.inl
    | with_reducible exact id
    | with_reducible exact fun _ => rfl
    | with_reducible apply detect_inCue
    | with_reducible apply killElsewhere_inCue
    | with_reducible apply markSuspect_inCue
    | with_reducible refine OutInCue.next ?_
    | with_reducible exact OutInCue.refused
    | with_reducible refine InCue.foldl _ _ ?_ ?_
    | with_reducible refine InCue.ite ?_ ?_
    | with_reducible refine OutInCue.ite ?_ ?_
    | (intro _)
    | split
    | with_reducible rfl
    | with_reducible apply InCue.rest
    | with_reducible apply InCue.upd

theorem faultEnd_inCue {s0 s : State} {a1} (h : InCue s0 s) : InCue s0 (faultEnd a1 s) := by
  unfold faultEnd
  try dsimp only
  repeat' first
    | with_reducible assumption
    | with_reducible exact Or.inl
    | with_reducible exact id
    | with_reducible exact fun _ => rfl
    | with_reducible apply deviceFault_inCue
    | with_reducible refine OutInCue.next ?_
    | with_reducible exact OutInCue.refused
    | with_reducible refine InCue.foldl _ _ ?_ ?_
    | with_reducible refine InCue.ite ?_ ?_
    | with_reducible refine OutInCue.ite ?_ ?_
    | (intro _)
    | split
    | with_reducible rfl
    | with_reducible apply InCue.rest
    | with_reducible apply InCue.upd

theorem strikeEnd_inCue {s0 s : State} {a1} (h : InCue s0 s) : InCue s0 (strikeEnd a1 s) := by
  unfold strikeEnd
  try dsimp only
  repeat' first
    | with_reducible assumption
    | with_reducible exact Or.inl
    | with_reducible exact id
    | with_reducible exact fun _ => rfl
    | with_reducible apply failUnit_inCue
    | with_reducible refine OutInCue.next ?_
    | with_reducible exact OutInCue.refused
    | with_reducible refine InCue.foldl _ _ ?_ ?_
    | with_reducible refine InCue.ite ?_ ?_
    | with_reducible refine OutInCue.ite ?_ ?_
    | (intro _)
    | split
    | with_reducible rfl
    | with_reducible apply InCue.rest
    | with_reducible apply InCue.upd

theorem exhaust_inCue {s0 s : State} {a1 a2 a3} (h : InCue s0 s) : InCue s0 (exhaust a1 a2 a3 s) := by
  unfold exhaust
  try dsimp only
  repeat' first
    | with_reducible assumption
    | with_reducible exact Or.inl
    | with_reducible exact id
    | with_reducible exact fun _ => rfl
    | with_reducible apply loseBlock_inCue
    | with_reducible apply logEvent_inCue
    | with_reducible apply countExhausted_inCue
    | with_reducible apply putHop_inCue
    | with_reducible apply faultEnd_inCue
    | with_reducible apply strikeEnd_inCue
    | with_reducible refine OutInCue.next ?_
    | with_reducible exact OutInCue.refused
    | with_reducible refine InCue.foldl _ _ ?_ ?_
    | with_reducible refine InCue.ite ?_ ?_
    | with_reducible refine OutInCue.ite ?_ ?_
    | (intro _)
    | split
    | with_reducible rfl
    | with_reducible apply InCue.rest
    | with_reducible apply InCue.upd

theorem execFabricBlockReceive_inCue {s0 s : State} {a1 a2 a3 a4 a5 a6 a7} (h : InCue s0 s) : OutInCue s0
    (execFabricBlockReceive a1 a2 a3 a4 a5 a6 a7 s) := by
  unfold execFabricBlockReceive
  try dsimp only
  repeat' first
    | with_reducible assumption
    | with_reducible exact Or.inl
    | with_reducible exact id
    | with_reducible exact fun _ => rfl
    | with_reducible apply State.at_inCue
    | with_reducible apply putHop_inCue
    | with_reducible apply poisonRead_inCue
    | with_reducible apply resend_inCue
    | with_reducible apply exhaust_inCue
    | with_reducible refine OutInCue.next ?_
    | with_reducible exact OutInCue.refused
    | with_reducible refine InCue.foldl _ _ ?_ ?_
    | with_reducible refine InCue.ite ?_ ?_
    | with_reducible refine OutInCue.ite ?_ ?_
    | (intro _)
    | split
    | with_reducible rfl
    | with_reducible apply InCue.rest
    | with_reducible apply InCue.upd

theorem execLeafSweepDone_inCue {s0 s : State} {a1 a2 a3} (h : InCue s0 s) : OutInCue s0 (execLeafSweepDone a1 a2 a3 s) := by
  unfold execLeafSweepDone
  try dsimp only
  repeat' first
    | with_reducible assumption
    | with_reducible exact Or.inl
    | with_reducible exact id
    | with_reducible exact fun _ => rfl
    | with_reducible apply State.at_inCue
    | with_reducible apply setLeaf_inCue
    | with_reducible apply logEvent_inCue
    | with_reducible apply dropLeaf_inCue
    | with_reducible refine OutInCue.next ?_
    | with_reducible exact OutInCue.refused
    | with_reducible refine InCue.foldl _ _ ?_ ?_
    | with_reducible refine InCue.ite ?_ ?_
    | with_reducible refine OutInCue.ite ?_ ?_
    | (intro _)
    | split
    | with_reducible rfl
    | with_reducible apply InCue.rest
    | with_reducible apply InCue.upd

theorem wakeLocked_inCue {s0 s : State} (h : InCue s0 s) : InCue s0 (wakeLocked s) := by
  unfold wakeLocked
  try dsimp only
  repeat' first
    | with_reducible assumption
    | with_reducible exact Or.inl
    | with_reducible exact id
    | with_reducible exact fun _ => rfl
    | with_reducible apply waitHand_inCue
    | with_reducible refine OutInCue.next ?_
    | with_reducible exact OutInCue.refused
    | with_reducible refine InCue.foldl _ _ ?_ ?_
    | with_reducible refine InCue.ite ?_ ?_
    | with_reducible refine OutInCue.ite ?_ ?_
    | (intro _)
    | split
    | with_reducible rfl
    | with_reducible apply InCue.rest
    | with_reducible apply InCue.upd

theorem execMappingDropAck_inCue {s0 s : State} {a1 a2 a3 a4} (h : InCue s0 s) : OutInCue s0 (execMappingDropAck a1 a2 a3 a4 s)
    := by
  unfold execMappingDropAck
  try dsimp only
  repeat' first
    | with_reducible assumption
    | with_reducible exact Or.inl
    | with_reducible exact id
    | with_reducible exact fun _ => rfl
    | with_reducible apply State.at_inCue
    | with_reducible apply wakeLocked_inCue
    | with_reducible refine OutInCue.next ?_
    | with_reducible exact OutInCue.refused
    | with_reducible refine InCue.foldl _ _ ?_ ?_
    | with_reducible refine InCue.ite ?_ ?_
    | with_reducible refine OutInCue.ite ?_ ?_
    | (intro _)
    | split
    | with_reducible rfl
    | with_reducible apply InCue.rest
    | with_reducible apply InCue.upd

theorem modPrefetch_inCue {s0 s : State} {a1 a2 a3} (h : InCue s0 s) : InCue s0 (modPrefetch a1 a2 a3 s) := by
  unfold modPrefetch
  try dsimp only
  repeat' first
    | with_reducible assumption
    | with_reducible exact Or.inl
    | with_reducible exact id
    | with_reducible exact fun _ => rfl
    | with_reducible refine OutInCue.next ?_
    | with_reducible exact OutInCue.refused
    | with_reducible refine InCue.foldl _ _ ?_ ?_
    | with_reducible refine InCue.ite ?_ ?_
    | with_reducible refine OutInCue.ite ?_ ?_
    | (intro _)
    | split
    | with_reducible rfl
    | with_reducible apply InCue.rest
    | with_reducible apply InCue.upd

theorem execPrefetchIssue_inCue {s0 s : State} {a1 a2 a3 a4} (h : InCue s0 s) : OutInCue s0 (execPrefetchIssue a1 a2 a3 a4 s) :=
    by
  unfold execPrefetchIssue
  try dsimp only
  repeat' first
    | with_reducible assumption
    | with_reducible exact Or.inl
    | with_reducible exact id
    | with_reducible exact fun _ => rfl
    | with_reducible apply State.at_inCue
    | with_reducible apply tagErrs_inCue
    | with_reducible apply modPrefetch_inCue
    | with_reducible apply moveBlock_inCue
    | with_reducible apply countPf_inCue
    | with_reducible refine OutInCue.next ?_
    | with_reducible exact OutInCue.refused
    | with_reducible refine InCue.foldl _ _ ?_ ?_
    | with_reducible refine InCue.ite ?_ ?_
    | with_reducible refine OutInCue.ite ?_ ?_
    | (intro _)
    | split
    | with_reducible rfl
    | with_reducible apply InCue.rest
    | with_reducible apply InCue.upd

theorem stackLost_inCue {s0 s : State} {a1 a2 a3 a4} (h : InCue s0 s) : InCue s0 (stackLost a1 a2 a3 a4 s) := by
  unfold stackLost
  try dsimp only
  repeat' first
    | with_reducible assumption
    | with_reducible exact Or.inl
    | with_reducible exact id
    | with_reducible exact fun _ => rfl
    | with_reducible apply logEvent_inCue
    | with_reducible apply putHop_inCue
    | with_reducible apply poison_inCue
    | with_reducible apply loseBlock_inCue
    | with_reducible apply State.modUnit_inCue
    | with_reducible apply strike_inCue
    | with_reducible refine OutInCue.next ?_
    | with_reducible exact OutInCue.refused
    | with_reducible refine InCue.foldl _ _ ?_ ?_
    | with_reducible refine InCue.ite ?_ ?_
    | with_reducible refine OutInCue.ite ?_ ?_
    | (intro _)
    | split
    | with_reducible rfl
    | with_reducible apply InCue.rest
    | with_reducible apply InCue.upd

theorem execStackAccessComplete_inCue {s0 s : State} {a1 a2 a3 a4 a5} (h : InCue s0 s) : OutInCue s0 (execStackAccessComplete a1
    a2 a3 a4 a5 s) := by
  unfold execStackAccessComplete
  try dsimp only
  repeat' first
    | with_reducible assumption
    | with_reducible exact Or.inl
    | with_reducible exact id
    | with_reducible exact fun _ => rfl
    | with_reducible apply State.at_inCue
    | with_reducible apply putHop_inCue
    | with_reducible apply countSeverity_inCue
    | with_reducible apply logOnce_inCue
    | with_reducible apply resend_inCue
    | with_reducible apply exhaust_inCue
    | with_reducible apply stackLost_inCue
    | with_reducible refine OutInCue.next ?_
    | with_reducible exact OutInCue.refused
    | with_reducible refine InCue.foldl _ _ ?_ ?_
    | with_reducible refine InCue.ite ?_ ?_
    | with_reducible refine OutInCue.ite ?_ ?_
    | (intro _)
    | split
    | with_reducible rfl
    | with_reducible apply InCue.rest
    | with_reducible apply InCue.upd

theorem freeTracker_inCue {s0 s : State} {a1} (h : InCue s0 s) : InCue s0 (freeTracker a1 s) := by
  unfold freeTracker
  try dsimp only
  repeat' first
    | with_reducible assumption
    | with_reducible exact Or.inl
    | with_reducible exact id
    | with_reducible exact fun _ => rfl
    | with_reducible apply passPart_inCue
    | with_reducible apply takeCtls_inCue
    | with_reducible refine OutInCue.next ?_
    | with_reducible exact OutInCue.refused
    | with_reducible refine InCue.foldl _ _ ?_ ?_
    | with_reducible refine InCue.ite ?_ ?_
    | with_reducible refine OutInCue.ite ?_ ?_
    | (intro _)
    | split
    | with_reducible rfl
    | with_reducible apply InCue.rest
    | with_reducible apply InCue.upd

theorem goOn_inCue {s0 s : State} {a1 a2} (h : InCue s0 s) : InCue s0 (goOn a1 a2 s) := by
  unfold goOn
  try dsimp only
  repeat' first
    | with_reducible assumption
    | with_reducible exact Or.inl
    | with_reducible exact id
    | with_reducible exact fun _ => rfl
    | with_reducible apply askBlocks_inCue
    | with_reducible apply pumpAll_inCue
    | with_reducible apply compNext_inCue
    | with_reducible refine OutInCue.next ?_
    | with_reducible exact OutInCue.refused
    | with_reducible refine InCue.foldl _ _ ?_ ?_
    | with_reducible refine InCue.ite ?_ ?_
    | with_reducible refine OutInCue.ite ?_ ?_
    | (intro _)
    | split
    | with_reducible rfl
    | with_reducible apply InCue.rest
    | with_reducible apply InCue.upd

theorem goOnRun_inCue {s0 s : State} {a1} (h : InCue s0 s) : InCue s0 (goOnRun a1 s) := by
  unfold goOnRun
  try dsimp only
  repeat' first
    | with_reducible assumption
    | with_reducible exact Or.inl
    | with_reducible exact id
    | with_reducible exact fun _ => rfl
    | with_reducible apply goOn_inCue
    | with_reducible refine OutInCue.next ?_
    | with_reducible exact OutInCue.refused
    | with_reducible refine InCue.foldl _ _ ?_ ?_
    | with_reducible refine InCue.ite ?_ ?_
    | with_reducible refine OutInCue.ite ?_ ?_
    | (intro _)
    | split
    | with_reducible rfl
    | with_reducible apply InCue.rest
    | with_reducible apply InCue.upd

theorem wakeMiss_inCue {s0 s : State} {a1 a2 a3} (h : InCue s0 s) : InCue s0 (wakeMiss a1 a2 a3 s) := by
  unfold wakeMiss
  try dsimp only
  repeat' first
    | with_reducible assumption
    | with_reducible exact Or.inl
    | with_reducible exact id
    | with_reducible exact fun _ => rfl
    | with_reducible apply State.modPress_inCue
    | with_reducible refine OutInCue.next ?_
    | with_reducible exact OutInCue.refused
    | with_reducible refine InCue.foldl _ _ ?_ ?_
    | with_reducible refine InCue.ite ?_ ?_
    | with_reducible refine OutInCue.ite ?_ ?_
    | (intro _)
    | split
    | with_reducible rfl
    | with_reducible apply InCue.rest
    | with_reducible apply InCue.upd

theorem execTrackerResponse_inCue {s0 s : State} {a1 a2 a3} (h : InCue s0 s) : OutInCue s0 (execTrackerResponse a1 a2 a3 s) := by
  unfold execTrackerResponse
  try dsimp only
  repeat' first
    | with_reducible assumption
    | with_reducible exact Or.inl
    | with_reducible exact id
    | with_reducible exact fun _ => rfl
    | with_reducible apply State.at_inCue
    | with_reducible apply freeTracker_inCue
    | with_reducible apply compBlock_inCue
    | with_reducible apply corrected_inCue
    | with_reducible apply doubleError_inCue
    | with_reducible apply goOnRun_inCue
    | with_reducible apply poisonRead_inCue
    | with_reducible apply useBlock_inCue
    | with_reducible apply wakeMiss_inCue
    | with_reducible refine OutInCue.next ?_
    | with_reducible exact OutInCue.refused
    | with_reducible refine InCue.foldl _ _ ?_ ?_
    | with_reducible refine InCue.ite ?_ ?_
    | with_reducible refine OutInCue.ite ?_ ?_
    | (intro _)
    | split
    | with_reducible rfl
    | with_reducible apply InCue.rest
    | with_reducible apply InCue.upd

theorem execTrackerTimeout_inCue {s0 s : State} {a1 a2} (h : InCue s0 s) : OutInCue s0 (execTrackerTimeout a1 a2 s) := by
  unfold execTrackerTimeout
  try dsimp only
  repeat' first
    | with_reducible assumption
    | with_reducible exact Or.inl
    | with_reducible exact id
    | with_reducible exact fun _ => rfl
    | with_reducible apply State.at_inCue
    | with_reducible apply countTimeout_inCue
    | with_reducible apply logEvent_inCue
    | with_reducible refine OutInCue.next ?_
    | with_reducible exact OutInCue.refused
    | with_reducible refine InCue.foldl _ _ ?_ ?_
    | with_reducible refine InCue.ite ?_ ?_
    | with_reducible refine OutInCue.ite ?_ ?_
    | (intro _)
    | split
    | with_reducible rfl
    | with_reducible apply InCue.rest
    | with_reducible apply InCue.upd

theorem execTrackerTimeoutRepeat_inCue {s0 s : State} {a1 a2} (h : InCue s0 s) : OutInCue s0 (execTrackerTimeoutRepeat a1 a2 s)
    := by
  unfold execTrackerTimeoutRepeat
  try dsimp only
  repeat' first
    | with_reducible assumption
    | with_reducible exact Or.inl
    | with_reducible exact id
    | with_reducible exact fun _ => rfl
    | with_reducible apply State.at_inCue
    | with_reducible apply logEvent_inCue
    | with_reducible apply countTimeout_inCue
    | with_reducible apply detect_inCue
    | with_reducible apply killElsewhere_inCue
    | with_reducible refine OutInCue.next ?_
    | with_reducible exact OutInCue.refused
    | with_reducible refine InCue.foldl _ _ ?_ ?_
    | with_reducible refine InCue.ite ?_ ?_
    | with_reducible refine OutInCue.ite ?_ ?_
    | (intro _)
    | split
    | with_reducible rfl
    | with_reducible apply InCue.rest
    | with_reducible apply InCue.upd

theorem execTranslationWalkDone_inCue {s0 s : State} {a1 a2 a3 a4 a5 a6 a7 a8} (h : InCue s0 s) : OutInCue s0
    (execTranslationWalkDone a1 a2 a3 a4 a5 a6 a7 a8 s) := by
  unfold execTranslationWalkDone
  try dsimp only
  repeat' first
    | with_reducible assumption
    | with_reducible exact Or.inl
    | with_reducible exact id
    | with_reducible exact fun _ => rfl
    | with_reducible apply State.at_inCue
    | with_reducible apply tagErrs_inCue
    | with_reducible apply countPf_inCue
    | with_reducible apply translationFault_inCue
    | with_reducible apply cacheEntry_inCue
    | with_reducible apply waitHand_inCue
    | with_reducible apply demandHit_inCue
    | with_reducible apply demandMiss_inCue
    | with_reducible refine OutInCue.next ?_
    | with_reducible exact OutInCue.refused
    | with_reducible refine InCue.foldl _ _ ?_ ?_
    | with_reducible refine InCue.ite ?_ ?_
    | with_reducible refine OutInCue.ite ?_ ?_
    | (intro _)
    | split
    | with_reducible rfl
    | with_reducible apply InCue.rest
    | with_reducible apply InCue.upd

end Sys2Proof.Machine
end

