-- ==== Sys2Proof/Laws/InCueBoundary.lean ====
section
/-! SUPPORT. What the operations of Machine/Boundary.lean keep within a cue. -/

namespace Sys2Proof.Machine

theorem failOverdue_inCue {s0 s : State} {a1} (h : InCue s0 s) : InCue s0 (failOverdue s a1) := by
  unfold failOverdue
  try dsimp only
  repeat' first
    | with_reducible assumption
    | with_reducible exact Or.inl
    | with_reducible exact id
    | with_reducible exact fun _ => rfl
    | with_reducible apply failUnit_inCue
    | with_reducible refine OutInCue.next ?_
    | with_reducible exact OutInCue.refused
    | with_reducible refine InCue.foldl _ _ ?_ ?_
    | with_reducible refine InCue.ite ?_ ?_
    | with_reducible refine OutInCue.ite ?_ ?_
    | (intro _)
    | split
    | with_reducible rfl
    | with_reducible apply InCue.rest
    | with_reducible apply InCue.upd

theorem strikeOverdue_inCue {s0 s : State} (h : InCue s0 s) : InCue s0 (strikeOverdue s) := by
  unfold strikeOverdue
  try dsimp only
  repeat' first
    | with_reducible assumption
    | with_reducible exact Or.inl
    | with_reducible exact id
    | with_reducible exact fun _ => rfl
    | with_reducible apply failOverdue_inCue
    | with_reducible apply strike_inCue
    | with_reducible refine OutInCue.next ?_
    | with_reducible exact OutInCue.refused
    | with_reducible refine InCue.foldl _ _ ?_ ?_
    | with_reducible refine InCue.ite ?_ ?_
    | with_reducible refine OutInCue.ite ?_ ?_
    | (intro _)
    | split
    | with_reducible rfl
    | with_reducible apply InCue.rest
    | with_reducible apply InCue.upd

theorem railSeen_inCue {s0 s : State} (h : InCue s0 s) : InCue s0 (railSeen s) := by
  unfold railSeen
  try dsimp only
  repeat' first
    | with_reducible assumption
    | with_reducible exact Or.inl
    | with_reducible exact id
    | with_reducible exact fun _ => rfl
    | with_reducible refine OutInCue.next ?_
    | with_reducible exact OutInCue.refused
    | with_reducible refine InCue.foldl _ _ ?_ ?_
    | with_reducible refine InCue.ite ?_ ?_
    | with_reducible refine OutInCue.ite ?_ ?_
    | (intro _)
    | split
    | with_reducible rfl
    | with_reducible apply InCue.rest
    | with_reducible apply InCue.upd

theorem countFaultCue_inCue {s0 s : State} {a1} (h : InCue s0 s) : InCue s0 (countFaultCue a1 s) := by
  unfold countFaultCue
  try dsimp only
  repeat' first
    | with_reducible assumption
    | with_reducible exact Or.inl
    | with_reducible exact id
    | with_reducible exact fun _ => rfl
    | with_reducible apply deviceFault_inCue
    | with_reducible refine OutInCue.next ?_
    | with_reducible exact OutInCue.refused
    | with_reducible refine InCue.foldl _ _ ?_ ?_
    | with_reducible refine InCue.ite ?_ ?_
    | with_reducible refine OutInCue.ite ?_ ?_
    | (intro _)
    | split
    | with_reducible rfl
    | with_reducible apply InCue.rest
    | with_reducible apply InCue.upd

theorem pairDetections_inCue {s0 s : State} {a1} (h : InCue s0 s) : InCue s0 (pairDetections a1 s) := by
  unfold pairDetections
  try dsimp only
  repeat' first
    | with_reducible assumption
    | with_reducible exact Or.inl
    | with_reducible exact id
    | with_reducible exact fun _ => rfl
    | with_reducible apply curtainStop_inCue
    | with_reducible apply logEvent_inCue
    | with_reducible apply railSeen_inCue
    | with_reducible apply countFaultCue_inCue
    | with_reducible refine OutInCue.next ?_
    | with_reducible exact OutInCue.refused
    | with_reducible refine InCue.foldl _ _ ?_ ?_
    | with_reducible refine InCue.ite ?_ ?_
    | with_reducible refine OutInCue.ite ?_ ?_
    | (intro _)
    | split
    | with_reducible rfl
    | with_reducible apply InCue.rest
    | with_reducible apply InCue.upd

theorem unresolved_inCue {s0 s : State} {a1 a2} (h : InCue s0 s) : InCue s0 (unresolved a1 a2 s) := by
  unfold unresolved
  try dsimp only
  repeat' first
    | with_reducible assumption
    | with_reducible exact Or.inl
    | with_reducible exact id
    | with_reducible exact fun _ => rfl
    | with_reducible apply endClass_inCue
    | with_reducible apply setClass_inCue
    | with_reducible apply logEvent_inCue
    | with_reducible refine OutInCue.next ?_
    | with_reducible exact OutInCue.refused
    | with_reducible refine InCue.foldl _ _ ?_ ?_
    | with_reducible refine InCue.ite ?_ ?_
    | with_reducible refine OutInCue.ite ?_ ?_
    | (intro _)
    | split
    | with_reducible rfl
    | with_reducible apply InCue.rest
    | with_reducible apply InCue.upd

theorem enterHold_inCue {s0 s : State} {a1} (h : InCue s0 s) : InCue s0 (enterHold a1 s) := by
  unfold enterHold
  try dsimp only
  repeat' first
    | with_reducible assumption
    | with_reducible exact Or.inl
    | with_reducible exact id
    | with_reducible exact fun _ => rfl
    | with_reducible apply curtainStop_inCue
    | with_reducible apply setState_inCue
    | with_reducible apply logEvent_inCue
    | with_reducible apply unresolved_inCue
    | with_reducible refine OutInCue.next ?_
    | with_reducible exact OutInCue.refused
    | with_reducible refine InCue.foldl _ _ ?_ ?_
    | with_reducible refine InCue.ite ?_ ?_
    | with_reducible refine OutInCue.ite ?_ ?_
    | (intro _)
    | split
    | with_reducible rfl
    | with_reducible apply InCue.rest
    | with_reducible apply InCue.upd

theorem holdAtBoundary_inCue {s0 s : State} (h : InCue s0 s) : InCue s0 (holdAtBoundary s) := by
  unfold holdAtBoundary
  try dsimp only
  repeat' first
    | with_reducible assumption
    | with_reducible exact Or.inl
    | with_reducible exact id
    | with_reducible exact fun _ => rfl
    | with_reducible apply enterHold_inCue
    | with_reducible refine OutInCue.next ?_
    | with_reducible exact OutInCue.refused
    | with_reducible refine InCue.foldl _ _ ?_ ?_
    | with_reducible refine InCue.ite ?_ ?_
    | with_reducible refine OutInCue.ite ?_ ?_
    | (intro _)
    | split
    | with_reducible rfl
    | with_reducible apply InCue.rest
    | with_reducible apply InCue.upd

theorem returnUnit_inCue {s0 s : State} {a1 a2} (h : InCue s0 s) : InCue s0 (returnUnit a1 a2 s) := by
  unfold returnUnit
  try dsimp only
  repeat' first
    | with_reducible assumption
    | with_reducible exact Or.inl
    | with_reducible exact id
    | with_reducible exact fun _ => rfl
    | with_reducible apply State.modUnit_inCue
    | with_reducible apply modPortStreams_inCue
    | with_reducible refine OutInCue.next ?_
    | with_reducible exact OutInCue.refused
    | with_reducible refine InCue.foldl _ _ ?_ ?_
    | with_reducible refine InCue.ite ?_ ?_
    | with_reducible refine OutInCue.ite ?_ ?_
    | (intro _)
    | split
    | with_reducible rfl
    | with_reducible apply InCue.rest
    | with_reducible apply InCue.upd

theorem returnUnits_inCue {s0 s : State} {a1} (h : InCue s0 s) : InCue s0 (returnUnits a1 s) := by
  unfold returnUnits
  try dsimp only
  repeat' first
    | with_reducible assumption
    | with_reducible exact Or.inl
    | with_reducible exact id
    | with_reducible exact fun _ => rfl
    | with_reducible apply returnUnit_inCue
    | with_reducible refine OutInCue.next ?_
    | with_reducible exact OutInCue.refused
    | with_reducible refine InCue.foldl _ _ ?_ ?_
    | with_reducible refine InCue.ite ?_ ?_
    | with_reducible refine OutInCue.ite ?_ ?_
    | (intro _)
    | split
    | with_reducible rfl
    | with_reducible apply InCue.rest
    | with_reducible apply InCue.upd

theorem closeDigest_inCue {s0 s : State} {a1 a2} (h : InCue s0 s) : InCue s0 (closeDigest a1 s a2) := by
  unfold closeDigest
  try dsimp only
  repeat' first
    | with_reducible assumption
    | with_reducible exact Or.inl
    | with_reducible exact id
    | with_reducible exact fun _ => rfl
    | with_reducible apply setDigPlay_inCue
    | with_reducible refine OutInCue.next ?_
    | with_reducible exact OutInCue.refused
    | with_reducible refine InCue.foldl _ _ ?_ ?_
    | with_reducible refine InCue.ite ?_ ?_
    | with_reducible refine OutInCue.ite ?_ ?_
    | (intro _)
    | split
    | with_reducible rfl
    | with_reducible apply InCue.rest
    | with_reducible apply InCue.upd

theorem closeDigests_inCue {s0 s : State} (h : InCue s0 s) : InCue s0 (closeDigests s) := by
  unfold closeDigests
  try dsimp only
  repeat' first
    | with_reducible assumption
    | with_reducible exact Or.inl
    | with_reducible exact id
    | with_reducible exact fun _ => rfl
    | with_reducible apply closeDigest_inCue
    | with_reducible refine OutInCue.next ?_
    | with_reducible exact OutInCue.refused
    | with_reducible refine InCue.foldl _ _ ?_ ?_
    | with_reducible refine InCue.ite ?_ ?_
    | with_reducible refine OutInCue.ite ?_ ?_
    | (intro _)
    | split
    | with_reducible rfl
    | with_reducible apply InCue.rest
    | with_reducible apply InCue.upd

theorem stopAtBoundary_inCue {s0 s : State} (h : InCue s0 s) : InCue s0 (stopAtBoundary s) := by
  unfold stopAtBoundary
  try dsimp only
  repeat' first
    | with_reducible assumption
    | with_reducible exact Or.inl
    | with_reducible exact id
    | with_reducible exact fun _ => rfl
    | with_reducible apply killWhere_inCue
    | with_reducible apply suspendSlice_inCue
    | with_reducible refine OutInCue.next ?_
    | with_reducible exact OutInCue.refused
    | with_reducible refine InCue.foldl _ _ ?_ ?_
    | with_reducible refine InCue.ite ?_ ?_
    | with_reducible refine OutInCue.ite ?_ ?_
    | (intro _)
    | split
    | with_reducible rfl
    | with_reducible apply InCue.rest
    | with_reducible apply InCue.upd

theorem beginInvalid_inCue {s0 s : State} {a1} (h : InCue s0 s) : InCue s0 (beginInvalid a1 s) := by
  unfold beginInvalid
  try dsimp only
  repeat' first
    | with_reducible assumption
    | with_reducible exact Or.inl
    | with_reducible exact id
    | with_reducible exact fun _ => rfl
    | with_reducible refine OutInCue.next ?_
    | with_reducible exact OutInCue.refused
    | with_reducible refine InCue.foldl _ _ ?_ ?_
    | with_reducible refine InCue.ite ?_ ?_
    | with_reducible refine OutInCue.ite ?_ ?_
    | (intro _)
    | split
    | with_reducible rfl
    | with_reducible apply InCue.rest
    | with_reducible apply InCue.upd

theorem closePart_inCue {s0 s : State} {a1 a2} (h : InCue s0 s) : InCue s0 (closePart s a1 a2).1 := by
  unfold closePart
  try dsimp only
  repeat' first
    | with_reducible assumption
    | with_reducible exact Or.inl
    | with_reducible exact id
    | with_reducible exact fun _ => rfl
    | with_reducible apply logEvent_inCue
    | with_reducible refine OutInCue.next ?_
    | with_reducible exact OutInCue.refused
    | with_reducible refine InCue.foldl _ _ ?_ ?_
    | with_reducible refine InCue.ite ?_ ?_
    | with_reducible refine OutInCue.ite ?_ ?_
    | (intro _)
    | split
    | with_reducible rfl
    | with_reducible apply InCue.rest
    | with_reducible apply InCue.upd

theorem closeParts_inCue {s0 s : State} (h : InCue s0 s) : InCue s0 (closeParts s).1 := by
  unfold closeParts
  dsimp only
  refine InCue.rest ?_ rfl
  have key : ∀ (l : List (Fin 8)) (a : State × List Nat), InCue s0 a.1 →
      InCue s0 (l.foldl (fun a i => closePart a.1 a.2 i) a).1 := by
    intro l
    induction l with
    | nil => exact fun _ ha => ha
    | cons i l ih => exact fun a ha => ih _ (closePart_inCue ha)
  exact key _ _ h

theorem startLossClocks_inCue {s0 s : State} (h : InCue s0 s) : InCue s0 (startLossClocks s) := by
  unfold startLossClocks
  try dsimp only
  repeat' first
    | with_reducible assumption
    | with_reducible exact Or.inl
    | with_reducible exact id
    | with_reducible exact fun _ => rfl
    | with_reducible refine OutInCue.next ?_
    | with_reducible exact OutInCue.refused
    | with_reducible refine InCue.foldl _ _ ?_ ?_
    | with_reducible refine InCue.ite ?_ ?_
    | with_reducible refine OutInCue.ite ?_ ?_
    | (intro _)
    | split
    | with_reducible rfl
    | with_reducible apply InCue.rest
    | with_reducible apply InCue.upd

theorem startAges_inCue {s0 s : State} (h : InCue s0 s) : InCue s0 (startAges s) := by
  unfold startAges
  try dsimp only
  repeat' first
    | with_reducible assumption
    | with_reducible exact Or.inl
    | with_reducible exact id
    | with_reducible exact fun _ => rfl
    | with_reducible refine OutInCue.next ?_
    | with_reducible exact OutInCue.refused
    | with_reducible refine InCue.foldl _ _ ?_ ?_
    | with_reducible refine InCue.ite ?_ ?_
    | with_reducible refine OutInCue.ite ?_ ?_
    | (intro _)
    | split
    | with_reducible rfl
    | with_reducible apply InCue.rest
    | with_reducible apply InCue.upd

theorem ageOther_inCue {s0 s : State} {a1} (h : InCue s0 s) : InCue s0 (ageOther s a1) := by
  unfold ageOther
  try dsimp only
  repeat' first
    | with_reducible assumption
    | with_reducible exact Or.inl
    | with_reducible exact id
    | with_reducible exact fun _ => rfl
    | with_reducible apply logEvent_inCue
    | with_reducible refine OutInCue.next ?_
    | with_reducible exact OutInCue.refused
    | with_reducible refine InCue.foldl _ _ ?_ ?_
    | with_reducible refine InCue.ite ?_ ?_
    | with_reducible refine OutInCue.ite ?_ ?_
    | (intro _)
    | split
    | with_reducible rfl
    | with_reducible apply InCue.rest
    | with_reducible apply InCue.upd

theorem ageUnit_inCue {s0 s : State} {a1} (h : InCue s0 s) : InCue s0 (ageUnit s a1) := by
  unfold ageUnit
  try dsimp only
  repeat' first
    | with_reducible assumption
    | with_reducible exact Or.inl
    | with_reducible exact id
    | with_reducible exact fun _ => rfl
    | with_reducible apply State.modUnit_inCue
    | with_reducible apply logEvent_inCue
    | with_reducible refine OutInCue.next ?_
    | with_reducible exact OutInCue.refused
    | with_reducible refine InCue.foldl _ _ ?_ ?_
    | with_reducible refine InCue.ite ?_ ?_
    | with_reducible refine OutInCue.ite ?_ ?_
    | (intro _)
    | split
    | with_reducible rfl
    | with_reducible apply InCue.rest
    | with_reducible apply InCue.upd

theorem ageAll_inCue {s0 s : State} (h : InCue s0 s) : InCue s0 (ageAll s) := by
  unfold ageAll
  try dsimp only
  repeat' first
    | with_reducible assumption
    | with_reducible exact Or.inl
    | with_reducible exact id
    | with_reducible exact fun _ => rfl
    | with_reducible apply ageOther_inCue
    | with_reducible apply ageUnit_inCue
    | with_reducible refine OutInCue.next ?_
    | with_reducible exact OutInCue.refused
    | with_reducible refine InCue.foldl _ _ ?_ ?_
    | with_reducible refine InCue.ite ?_ ?_
    | with_reducible refine OutInCue.ite ?_ ?_
    | (intro _)
    | split
    | with_reducible rfl
    | with_reducible apply InCue.rest
    | with_reducible apply InCue.upd

theorem closeCue_inCue {s0 s : State} {a1} (h : InCue s0 s) : InCue s0 (closeCue a1 s).1 := by
  unfold closeCue
  try dsimp only
  repeat' first
    | with_reducible assumption
    | with_reducible exact Or.inl
    | with_reducible exact id
    | with_reducible exact fun _ => rfl
    | with_reducible apply closeParts_inCue
    | with_reducible apply governorBoundary_inCue
    | with_reducible apply startLossClocks_inCue
    | with_reducible apply startAges_inCue
    | with_reducible apply ageAll_inCue
    | with_reducible refine InCue.fst ?_ (by assumption)
    | with_reducible refine OutInCue.next ?_
    | with_reducible exact OutInCue.refused
    | with_reducible refine InCue.foldl _ _ ?_ ?_
    | with_reducible refine InCue.ite ?_ ?_
    | with_reducible refine OutInCue.ite ?_ ?_
    | (intro _)
    | split
    | with_reducible rfl
    | with_reducible apply InCue.rest
    | with_reducible apply InCue.upd

theorem applyTest_inCue {s0 s : State} (h : InCue s0 s) : InCue s0 (applyTest s) := by
  unfold applyTest
  try dsimp only
  repeat' first
    | with_reducible assumption
    | with_reducible exact Or.inl
    | with_reducible exact id
    | with_reducible exact fun _ => rfl
    | with_reducible apply logEvent_inCue
    | with_reducible apply detect_inCue
    | with_reducible refine OutInCue.next ?_
    | with_reducible exact OutInCue.refused
    | with_reducible refine InCue.foldl _ _ ?_ ?_
    | with_reducible refine InCue.ite ?_ ?_
    | with_reducible refine OutInCue.ite ?_ ?_
    | (intro _)
    | split
    | with_reducible rfl
    | with_reducible apply InCue.rest
    | with_reducible apply InCue.upd

theorem takePlan_inCue {s0 s : State} {a1} (h : InCue s0 s) : InCue s0 (takePlan a1 s) := by
  unfold takePlan
  try dsimp only
  repeat' first
    | with_reducible assumption
    | with_reducible exact Or.inl
    | with_reducible exact id
    | with_reducible exact fun _ => rfl
    | with_reducible apply logEvent_inCue
    | with_reducible refine OutInCue.next ?_
    | with_reducible exact OutInCue.refused
    | with_reducible refine InCue.foldl _ _ ?_ ?_
    | with_reducible refine InCue.ite ?_ ?_
    | with_reducible refine OutInCue.ite ?_ ?_
    | (intro _)
    | split
    | with_reducible rfl
    | with_reducible apply InCue.rest
    | with_reducible apply InCue.upd

theorem advanceFuse_inCue {s0 s : State} (h : InCue s0 s) : InCue s0 (advanceFuse s) := by
  unfold advanceFuse
  try dsimp only
  repeat' first
    | with_reducible assumption
    | with_reducible exact Or.inl
    | with_reducible exact id
    | with_reducible exact fun _ => rfl
    | with_reducible refine OutInCue.next ?_
    | with_reducible exact OutInCue.refused
    | with_reducible refine InCue.foldl _ _ ?_ ?_
    | with_reducible refine InCue.ite ?_ ?_
    | with_reducible refine OutInCue.ite ?_ ?_
    | (intro _)
    | split
    | with_reducible rfl
    | with_reducible apply InCue.rest
    | with_reducible apply InCue.upd

theorem transition_inCue {s0 s : State} (h : InCue s0 s) : InCue s0 (transition s) := by
  unfold transition
  try dsimp only
  repeat' first
    | with_reducible assumption
    | with_reducible exact Or.inl
    | with_reducible exact id
    | with_reducible exact fun _ => rfl
    | with_reducible apply advanceFuse_inCue
    | with_reducible apply setState_inCue
    | with_reducible apply logEvent_inCue
    | with_reducible refine OutInCue.next ?_
    | with_reducible exact OutInCue.refused
    | with_reducible refine InCue.foldl _ _ ?_ ?_
    | with_reducible refine InCue.ite ?_ ?_
    | with_reducible refine OutInCue.ite ?_ ?_
    | (intro _)
    | split
    | with_reducible rfl
    | with_reducible apply InCue.rest
    | with_reducible apply InCue.upd

theorem returnStream_inCue {s0 s : State} {a1 a2} (h : InCue s0 s) : InCue s0 (returnStream a1 s a2) := by
  unfold returnStream
  try dsimp only
  repeat' first
    | with_reducible assumption
    | with_reducible exact Or.inl
    | with_reducible exact id
    | with_reducible exact fun _ => rfl
    | with_reducible apply logEvent_inCue
    | with_reducible apply State.modUnit_inCue
    | with_reducible refine OutInCue.next ?_
    | with_reducible exact OutInCue.refused
    | with_reducible refine InCue.foldl _ _ ?_ ?_
    | with_reducible refine InCue.ite ?_ ?_
    | with_reducible refine OutInCue.ite ?_ ?_
    | (intro _)
    | split
    | with_reducible rfl
    | with_reducible apply InCue.rest
    | with_reducible apply InCue.upd

theorem returnStreams_inCue {s0 s : State} (h : InCue s0 s) : InCue s0 (returnStreams s) := by
  unfold returnStreams
  try dsimp only
  repeat' first
    | with_reducible assumption
    | with_reducible exact Or.inl
    | with_reducible exact id
    | with_reducible exact fun _ => rfl
    | with_reducible apply returnStream_inCue
    | with_reducible refine OutInCue.next ?_
    | with_reducible exact OutInCue.refused
    | with_reducible refine InCue.foldl _ _ ?_ ?_
    | with_reducible refine InCue.ite ?_ ?_
    | with_reducible refine OutInCue.ite ?_ ?_
    | (intro _)
    | split
    | with_reducible rfl
    | with_reducible apply InCue.rest
    | with_reducible apply InCue.upd

theorem noteMode_inCue {s0 s : State} (h : InCue s0 s) : InCue s0 (noteMode s) := by
  unfold noteMode
  try dsimp only
  repeat' first
    | with_reducible assumption
    | with_reducible exact Or.inl
    | with_reducible exact id
    | with_reducible exact fun _ => rfl
    | with_reducible refine OutInCue.next ?_
    | with_reducible exact OutInCue.refused
    | with_reducible refine InCue.foldl _ _ ?_ ?_
    | with_reducible refine InCue.ite ?_ ?_
    | with_reducible refine OutInCue.ite ?_ ?_
    | (intro _)
    | split
    | with_reducible rfl
    | with_reducible apply InCue.rest
    | with_reducible apply InCue.upd

/-- The state at the cue's beginning noted. -/
def held (s : State) : State := { s with cue := { s.cue with stateAtB := s.dev.st } }

theorem markHeld_inCue (s : State) : InCue (held s) (markHeld s) := by
  unfold markHeld
  exact .ite (invalidate_inCue (.refl _)) (.refl _)

theorem movePage_inCue {s0 s : State} {a1 a2} (h : InCue s0 s) : InCue s0 (movePage a1 a2 s) := by
  unfold movePage
  try dsimp only
  repeat' first
    | with_reducible assumption
    | with_reducible exact Or.inl
    | with_reducible exact id
    | with_reducible exact fun _ => rfl
    | with_reducible refine OutInCue.next ?_
    | with_reducible exact OutInCue.refused
    | with_reducible refine InCue.foldl _ _ ?_ ?_
    | with_reducible refine InCue.ite ?_ ?_
    | with_reducible refine OutInCue.ite ?_ ?_
    | (intro _)
    | split
    | with_reducible rfl
    | with_reducible apply InCue.rest
    | with_reducible apply InCue.upd

theorem movePages_inCue {s0 s : State} {a1 a2} (h : InCue s0 s) : InCue s0 (movePages a1 a2 s) := by
  unfold movePages
  try dsimp only
  repeat' first
    | with_reducible assumption
    | with_reducible exact Or.inl
    | with_reducible exact id
    | with_reducible exact fun _ => rfl
    | with_reducible apply movePage_inCue
    | with_reducible refine OutInCue.next ?_
    | with_reducible exact OutInCue.refused
    | with_reducible refine InCue.foldl _ _ ?_ ?_
    | with_reducible refine InCue.ite ?_ ?_
    | with_reducible refine OutInCue.ite ?_ ?_
    | (intro _)
    | split
    | with_reducible rfl
    | with_reducible apply InCue.rest
    | with_reducible apply InCue.upd

theorem reHousePages_inCue {s0 s : State} {a1 a2} (h : InCue s0 s) : InCue s0 (reHousePages a1 a2 s).2 := by
  unfold reHousePages
  cases s.newHouse a2 with
  | none => exact h
  | some d => exact (movePages_inCue h)

theorem reHouse_inCue {s0 s : State} {a1 a2} (h : InCue s0 s) : InCue s0 (reHouse a1 a2 s).2 :=
  (reHousePages_inCue h)

theorem reHouseCopies_inCue {s0 s : State} (h : InCue s0 s) : InCue s0 (reHouseCopies s) := by
  unfold reHouseCopies
  exact InCue.foldl _ _ h fun _ _ k => InCue.rest (reHouse_inCue k) rfl

theorem reHouseRing_inCue {s0 s : State} (h : InCue s0 s) : InCue s0 (reHouseRing s) := by
  unfold reHouseRing
  exact InCue.foldl _ _ h fun _ _ k => InCue.rest (reHouse_inCue k) rfl

theorem rePlace_inCue {s0 s : State} {a1} (h : InCue s0 s) : InCue s0 (rePlace s a1) := by
  unfold rePlace
  try dsimp only
  repeat' first
    | with_reducible assumption
    | with_reducible exact Or.inl
    | with_reducible exact id
    | with_reducible exact fun _ => rfl
    | with_reducible apply queueRestore_inCue
    | with_reducible apply forgetValues_inCue
    | with_reducible apply unmapPage_inCue
    | with_reducible apply setPte_inCue
    | with_reducible apply startDrop_inCue
    | with_reducible apply movePage_inCue
    | with_reducible refine OutInCue.next ?_
    | with_reducible exact OutInCue.refused
    | with_reducible refine InCue.foldl _ _ ?_ ?_
    | with_reducible refine InCue.ite ?_ ?_
    | with_reducible refine OutInCue.ite ?_ ?_
    | (intro _)
    | split
    | with_reducible rfl
    | with_reducible apply InCue.rest
    | with_reducible apply InCue.upd

theorem restorePages_inCue {s0 s : State} (h : InCue s0 s) : InCue s0 (restorePages s) := by
  unfold restorePages
  try dsimp only
  repeat' first
    | with_reducible assumption
    | with_reducible exact Or.inl
    | with_reducible exact id
    | with_reducible exact fun _ => rfl
    | with_reducible apply reHouseCopies_inCue
    | with_reducible apply reHouseRing_inCue
    | with_reducible apply rePlace_inCue
    | with_reducible refine OutInCue.next ?_
    | with_reducible exact OutInCue.refused
    | with_reducible refine InCue.foldl _ _ ?_ ?_
    | with_reducible refine InCue.ite ?_ ?_
    | with_reducible refine OutInCue.ite ?_ ?_
    | (intro _)
    | split
    | with_reducible rfl
    | with_reducible apply InCue.rest
    | with_reducible apply InCue.upd

theorem closePoisoned_inCue {s0 s : State} (h : InCue s0 s) : InCue s0 (closePoisoned s) := by
  unfold closePoisoned
  try dsimp only
  repeat' first
    | with_reducible assumption
    | with_reducible exact Or.inl
    | with_reducible exact id
    | with_reducible exact fun _ => rfl
    | with_reducible apply closeSession_inCue
    | with_reducible apply releaseKeep_inCue
    | with_reducible apply setLeaf_inCue
    | with_reducible apply logEvent_inCue
    | with_reducible refine OutInCue.next ?_
    | with_reducible exact OutInCue.refused
    | with_reducible refine InCue.foldl _ _ ?_ ?_
    | with_reducible refine InCue.ite ?_ ?_
    | with_reducible refine OutInCue.ite ?_ ?_
    | (intro _)
    | split
    | with_reducible rfl
    | with_reducible apply InCue.rest
    | with_reducible apply InCue.upd

theorem retire_inCue {s0 s : State} (h : InCue s0 s) : InCue s0 (retire s) := by
  unfold retire
  try dsimp only
  repeat' first
    | with_reducible assumption
    | with_reducible exact Or.inl
    | with_reducible exact id
    | with_reducible exact fun _ => rfl
    | with_reducible apply abandonInst_inCue
    | with_reducible apply forgetValues_inCue
    | with_reducible refine OutInCue.next ?_
    | with_reducible exact OutInCue.refused
    | with_reducible refine InCue.foldl _ _ ?_ ?_
    | with_reducible refine InCue.ite ?_ ?_
    | with_reducible refine OutInCue.ite ?_ ?_
    | (intro _)
    | split
    | with_reducible rfl
    | with_reducible apply InCue.rest
    | with_reducible apply InCue.upd

theorem ageClasses_inCue {s0 s : State} (h : InCue s0 s) : InCue s0 (ageClasses s) := by
  unfold ageClasses
  try dsimp only
  repeat' first
    | with_reducible assumption
    | with_reducible exact Or.inl
    | with_reducible exact id
    | with_reducible exact fun _ => rfl
    | with_reducible apply unresolved_inCue
    | with_reducible refine OutInCue.next ?_
    | with_reducible exact OutInCue.refused
    | with_reducible refine InCue.foldl _ _ ?_ ?_
    | with_reducible refine InCue.ite ?_ ?_
    | with_reducible refine OutInCue.ite ?_ ?_
    | (intro _)
    | split
    | with_reducible rfl
    | with_reducible apply InCue.rest
    | with_reducible apply InCue.upd

theorem shiftProofs_inCue {s0 s : State} (h : InCue s0 s) : InCue s0 (shiftProofs s) := by
  unfold shiftProofs
  try dsimp only
  repeat' first
    | with_reducible assumption
    | with_reducible exact Or.inl
    | with_reducible exact id
    | with_reducible exact fun _ => rfl
    | with_reducible refine OutInCue.next ?_
    | with_reducible exact OutInCue.refused
    | with_reducible refine InCue.foldl _ _ ?_ ?_
    | with_reducible refine InCue.ite ?_ ?_
    | with_reducible refine OutInCue.ite ?_ ?_
    | (intro _)
    | split
    | with_reducible rfl
    | with_reducible apply InCue.rest
    | with_reducible apply InCue.upd

theorem settleClass_inCue {s0 s : State} {a1} (h : InCue s0 s) : InCue s0 (settleClass a1 s) := by
  unfold settleClass
  try dsimp only
  repeat' first
    | with_reducible assumption
    | with_reducible exact Or.inl
    | with_reducible exact id
    | with_reducible exact fun _ => rfl
    | with_reducible apply endClass_inCue
    | with_reducible apply unresolved_inCue
    | with_reducible apply setClass_inCue
    | with_reducible apply logEvent_inCue
    | with_reducible refine OutInCue.next ?_
    | with_reducible exact OutInCue.refused
    | with_reducible refine InCue.foldl _ _ ?_ ?_
    | with_reducible refine InCue.ite ?_ ?_
    | with_reducible refine OutInCue.ite ?_ ?_
    | (intro _)
    | split
    | with_reducible rfl
    | with_reducible apply InCue.rest
    | with_reducible apply InCue.upd

theorem settleClasses_inCue {s0 s : State} (h : InCue s0 s) : InCue s0 (settleClasses s) := by
  unfold settleClasses
  try dsimp only
  repeat' first
    | with_reducible assumption
    | with_reducible exact Or.inl
    | with_reducible exact id
    | with_reducible exact fun _ => rfl
    | with_reducible apply settleClass_inCue
    | with_reducible refine OutInCue.next ?_
    | with_reducible exact OutInCue.refused
    | with_reducible refine InCue.foldl _ _ ?_ ?_
    | with_reducible refine InCue.ite ?_ ?_
    | with_reducible refine OutInCue.ite ?_ ?_
    | (intro _)
    | split
    | with_reducible rfl
    | with_reducible apply InCue.rest
    | with_reducible apply InCue.upd

theorem formRuns_inCue {s0 s : State} (h : InCue s0 s) : InCue s0 (formRuns s) := by
  unfold formRuns
  try dsimp only
  repeat' first
    | with_reducible assumption
    | with_reducible exact Or.inl
    | with_reducible exact id
    | with_reducible exact fun _ => rfl
    | with_reducible apply formRun_inCue
    | with_reducible refine OutInCue.next ?_
    | with_reducible exact OutInCue.refused
    | with_reducible refine InCue.foldl _ _ ?_ ?_
    | with_reducible refine InCue.ite ?_ ?_
    | with_reducible refine OutInCue.ite ?_ ?_
    | (intro _)
    | split
    | with_reducible rfl
    | with_reducible apply InCue.rest
    | with_reducible apply InCue.upd

theorem addMoves_inCue {s0 s : State} {a1 a2} (h : InCue s0 s) : InCue s0 (addMoves a1 a2 s) := by
  unfold addMoves
  try dsimp only
  repeat' first
    | with_reducible assumption
    | with_reducible exact Or.inl
    | with_reducible exact id
    | with_reducible exact fun _ => rfl
    | with_reducible apply logOnce_inCue
    | with_reducible refine OutInCue.next ?_
    | with_reducible exact OutInCue.refused
    | with_reducible refine InCue.foldl _ _ ?_ ?_
    | with_reducible refine InCue.ite ?_ ?_
    | with_reducible refine OutInCue.ite ?_ ?_
    | (intro _)
    | split
    | with_reducible rfl
    | with_reducible apply InCue.rest
    | with_reducible apply InCue.upd

theorem moveWork_inCue {s0 s : State} {a1} (h : InCue s0 s) : InCue s0 (moveWork a1 s) := by
  unfold moveWork
  try dsimp only
  repeat' first
    | with_reducible assumption
    | with_reducible exact Or.inl
    | with_reducible exact id
    | with_reducible exact fun _ => rfl
    | with_reducible apply logEvent_inCue
    | with_reducible apply addMoves_inCue
    | with_reducible refine OutInCue.next ?_
    | with_reducible exact OutInCue.refused
    | with_reducible refine InCue.foldl _ _ ?_ ?_
    | with_reducible refine InCue.ite ?_ ?_
    | with_reducible refine OutInCue.ite ?_ ?_
    | (intro _)
    | split
    | with_reducible rfl
    | with_reducible apply InCue.rest
    | with_reducible apply InCue.upd

/-- What follows the boundary's record up to the note of the state. -/
def toHeld (first : Bool) (s : State) : State := applyTest (takePlan first (transition (closeCue first s).1))

/-- What follows the note of the state. -/
def fromHeld (moved : List Nat) (s : State) : State :=
  settleClasses (formRuns (moveWork moved (restorePages (closePoisoned (retire (ageClasses (shiftProofs (returnStreams (noteMode s)))))))))

theorem afterBoundary_split (first : Bool) (s : State) :
    afterBoundary first s = fromHeld (closeCue first s).2 (markHeld (toHeld first s)) := rfl

theorem toHeld_inCue {s0 s : State} {first : Bool} (h : InCue s0 s) : InCue s0 (toHeld first s) :=
  applyTest_inCue (takePlan_inCue (transition_inCue (closeCue_inCue h)))

theorem fromHeld_inCue {s0 s : State} {moved : List Nat} (h : InCue s0 s) : InCue s0 (fromHeld moved s) :=
  settleClasses_inCue (formRuns_inCue (moveWork_inCue (restorePages_inCue (closePoisoned_inCue (retire_inCue (ageClasses_inCue
    (shiftProofs_inCue (returnStreams_inCue (noteMode_inCue h)))))))))

theorem afterBoundary_inCue (first : Bool) (s : State) : InCue (held (toHeld first s)) (afterBoundary first s) :=
  afterBoundary_split first s ▸ fromHeld_inCue (markHeld_inCue _)

theorem answerMaint_inCue {s0 s : State} {a1} (h : InCue s0 s) : InCue s0 (answerMaint a1 s) := by
  unfold answerMaint
  try dsimp only
  repeat' first
    | with_reducible assumption
    | with_reducible exact Or.inl
    | with_reducible exact id
    | with_reducible exact fun _ => rfl
    | with_reducible apply reply_inCue
    | with_reducible refine OutInCue.next ?_
    | with_reducible exact OutInCue.refused
    | with_reducible refine InCue.foldl _ _ ?_ ?_
    | with_reducible refine InCue.ite ?_ ?_
    | with_reducible refine OutInCue.ite ?_ ?_
    | (intro _)
    | split
    | with_reducible rfl
    | with_reducible apply InCue.rest
    | with_reducible apply InCue.upd

theorem enterMaintenance_inCue {s0 s : State} (h : InCue s0 s) : InCue s0 (enterMaintenance s) := by
  unfold enterMaintenance
  try dsimp only
  repeat' first
    | with_reducible assumption
    | with_reducible exact Or.inl
    | with_reducible exact id
    | with_reducible exact fun _ => rfl
    | with_reducible apply setState_inCue
    | with_reducible apply logEvent_inCue
    | with_reducible apply stopRun_inCue
    | with_reducible apply closeSession_inCue
    | with_reducible apply curtainStop_inCue
    | with_reducible refine OutInCue.next ?_
    | with_reducible exact OutInCue.refused
    | with_reducible refine InCue.foldl _ _ ?_ ?_
    | with_reducible refine InCue.ite ?_ ?_
    | with_reducible refine OutInCue.ite ?_ ?_
    | (intro _)
    | split
    | with_reducible rfl
    | with_reducible apply InCue.rest
    | with_reducible apply InCue.upd

/-- The state that a boundary's record is placed on. -/
def beforePlace (b : Nat) (obs : BoundaryObs) (s : State) : State :=
  let s := strikeOverdue (pairDetections obs s)
  closeDigests (stopAtBoundary (holdAtBoundary (returnUnits (stampOf (s.tb.ns b)) s)))

theorem beforePlace_inCue {s0 s : State} {b : Nat} {obs : BoundaryObs} (h : InCue s0 s) : InCue s0 (beforePlace b obs s) :=
  closeDigests_inCue (stopAtBoundary_inCue (holdAtBoundary_inCue (returnUnits_inCue (strikeOverdue_inCue (pairDetections_inCue h)))))

/-- After its record, a boundary goes on from the note of the state, or enters MAINTENANCE. -/
theorem boundary_split (b src : Nat) (obs : BoundaryObs) (s : State) : ∃ first stop,
    boundary b src obs s = afterBoundary first (beginInvalid stop (placeBoundary b src (beforePlace b obs s))) ∨
    boundary b src obs s = afterBoundary first (answerMaint stState (beginInvalid stop (placeBoundary b src (beforePlace b obs s)))) ∨
    boundary b src obs s = answerMaint stOk (enterMaintenance (closeCue first (beginInvalid stop (placeBoundary b src (beforePlace b obs s)))).1) := by
  unfold boundary beforePlace
  extract_lets first u v w stop x
  refine ⟨first, stop, ?_⟩
  split
  · exact .inl rfl
  · split
    · exact .inr (.inl rfl)
    · exact .inr (.inr rfl)

theorem placeBoundary_count (b src : Nat) (s : State) : (placeBoundary b src s).cue.count = (sat64 s.cue.count 1).1 := rfl

theorem placeBoundary_b (b src : Nat) (s : State) : (placeBoundary b src s).cue.b = b := rfl

theorem placeBoundary_source (b src : Nat) (s : State) : (placeBoundary b src s).cue.source = BitVec.ofNat 2 src := rfl

theorem placeBoundary_logs (b src : Nat) (s : State) : Logs s (placeBoundary b src s) 0x0601 idStage src := by
  unfold placeBoundary
  exact .earlier (b := []) ⟨rfl, by simp⟩ (logEvent_logs _ _ _ _)

/-- Where a boundary places the cue. -/
theorem boundary_place (b src : Nat) (obs : BoundaryObs) (s : State) :
    (boundary b src obs s).cue.count = (sat64 s.cue.count 1).1 ∧ (boundary b src obs s).cue.b = b ∧
      (boundary b src obs s).cue.source = BitVec.ofNat 2 src := by
  have hc : (placeBoundary b src (beforePlace b obs s)).cue.count = (sat64 s.cue.count 1).1 := by
    rw [placeBoundary_count, (beforePlace_inCue (.refl s)).count]
  have fin : ∀ (first : Bool) (y : State), InCue (placeBoundary b src (beforePlace b obs s)) y →
      (afterBoundary first y).cue.count = (sat64 s.cue.count 1).1 ∧ (afterBoundary first y).cue.b = b ∧
        (afterBoundary first y).cue.source = BitVec.ofNat 2 src := by
    intro first y hy
    have h := (toHeld_inCue (first := first) hy)
    have g := afterBoundary_inCue first y
    exact ⟨g.count.trans (h.count.trans hc), g.b.trans h.b, g.source.trans h.source⟩
  obtain ⟨first, stop, e | e | e⟩ := boundary_split b src obs s <;> rw [e]
  · exact fin _ _ (beginInvalid_inCue (.refl _))
  · exact fin _ _ (answerMaint_inCue (beginInvalid_inCue (.refl _)))
  · have h := answerMaint_inCue (a1 := stOk) (enterMaintenance_inCue (closeCue_inCue (a1 := first) (beginInvalid_inCue (a1 := stop)
      (.refl (placeBoundary b src (beforePlace b obs s))))))
    exact ⟨h.count.trans hc, h.b, h.source⟩

/-- The log over a boundary: it grows, and the boundary's record 0x0601 is among the new ones. -/
theorem boundary_logs (b src : Nat) (obs : BoundaryObs) (s : State) : Logs s (boundary b src obs s) 0x0601 idStage src := by
  obtain ⟨x, hx⟩ := (beforePlace_inCue (b := b) (obs := obs) (.refl s)).log
  have hw : Logs s (placeBoundary b src (beforePlace b obs s)) 0x0601 idStage src :=
    .earlier hx (placeBoundary_logs b src _)
  have fin : ∀ (first : Bool) (y : State), InCue (placeBoundary b src (beforePlace b obs s)) y →
      Logs s (afterBoundary first y) 0x0601 idStage src := by
    intro first y hy
    obtain ⟨u, hu⟩ := hy.log
    obtain ⟨v, hv⟩ := (toHeld_inCue (first := first) (.refl y)).log
    obtain ⟨w, hw'⟩ := (afterBoundary_inCue first y).log
    exact ((hw.later hu).later hv).later hw'
  obtain ⟨first, stop, e | e | e⟩ := boundary_split b src obs s <;> rw [e]
  · exact fin _ _ (beginInvalid_inCue (.refl _))
  · exact fin _ _ (answerMaint_inCue (beginInvalid_inCue (.refl _)))
  · obtain ⟨u, hu⟩ := (answerMaint_inCue (a1 := stOk) (enterMaintenance_inCue (closeCue_inCue (a1 := first) (beginInvalid_inCue (a1 := stop)
      (.refl (placeBoundary b src (beforePlace b obs s))))))).log
    exact hw.later hu

theorem failPair_inCue {s0 s : State} (h : InCue s0 s) : InCue s0 (failPair s) := by
  unfold failPair
  try dsimp only
  repeat' first
    | with_reducible assumption
    | with_reducible exact Or.inl
    | with_reducible exact id
    | with_reducible exact fun _ => rfl
    | with_reducible refine OutInCue.next ?_
    | with_reducible exact OutInCue.refused
    | with_reducible refine InCue.foldl _ _ ?_ ?_
    | with_reducible refine InCue.ite ?_ ?_
    | with_reducible refine OutInCue.ite ?_ ?_
    | (intro _)
    | split
    | with_reducible rfl
    | with_reducible apply InCue.rest
    | with_reducible apply InCue.upd

end Sys2Proof.Machine
end

