-- ==== Sys2Proof/Laws/InCueCurtain.lean ====
section
/-! SUPPORT. What the operations of Machine/Curtain.lean keep within a cue. -/

namespace Sys2Proof.Machine

theorem execCurtainWatchdogExpiry_inCue {s0 s : State} {a1} (h : InCue s0 s) : OutInCue s0 (execCurtainWatchdogExpiry a1 s) := by
  unfold execCurtainWatchdogExpiry
  try dsimp only
  repeat' first
    | with_reducible assumption
    | with_reducible exact Or.inl
    | with_reducible exact id
    | with_reducible exact fun _ => rfl
    | with_reducible apply State.at_inCue
    | with_reducible apply detect_inCue
    | with_reducible refine OutInCue.next ?_
    | with_reducible exact OutInCue.refused
    | with_reducible refine InCue.foldl _ _ ?_ ?_
    | with_reducible refine InCue.ite ?_ ?_
    | with_reducible refine OutInCue.ite ?_ ?_
    | (intro _)
    | split
    | with_reducible rfl
    | with_reducible apply InCue.rest
    | with_reducible apply InCue.upd

theorem execOscillatorMonitorCount_inCue {s0 s : State} {a1 a2} (h : InCue s0 s) : OutInCue s0 (execOscillatorMonitorCount a1 a2
    s) := by
  unfold execOscillatorMonitorCount
  try dsimp only
  repeat' first
    | with_reducible assumption
    | with_reducible exact Or.inl
    | with_reducible exact id
    | with_reducible exact fun _ => rfl
    | with_reducible apply State.at_inCue
    | with_reducible apply detect_inCue
    | with_reducible apply logEvent_inCue
    | with_reducible refine OutInCue.next ?_
    | with_reducible exact OutInCue.refused
    | with_reducible refine InCue.foldl _ _ ?_ ?_
    | with_reducible refine InCue.ite ?_ ?_
    | with_reducible refine OutInCue.ite ?_ ?_
    | (intro _)
    | split
    | with_reducible rfl
    | with_reducible apply InCue.rest
    | with_reducible apply InCue.upd

theorem execStageManagerLockstepMismatch_inCue {s0 s : State} {a1} (h : InCue s0 s) : OutInCue s0
    (execStageManagerLockstepMismatch a1 s) := by
  unfold execStageManagerLockstepMismatch
  try dsimp only
  repeat' first
    | with_reducible assumption
    | with_reducible exact Or.inl
    | with_reducible exact id
    | with_reducible exact fun _ => rfl
    | with_reducible apply State.at_inCue
    | with_reducible apply deviceFault_inCue
    | with_reducible apply detect_inCue
    | with_reducible apply logEvent_inCue
    | with_reducible refine OutInCue.next ?_
    | with_reducible exact OutInCue.refused
    | with_reducible refine InCue.foldl _ _ ?_ ?_
    | with_reducible refine InCue.ite ?_ ?_
    | with_reducible refine OutInCue.ite ?_ ?_
    | (intro _)
    | split
    | with_reducible rfl
    | with_reducible apply InCue.rest
    | with_reducible apply InCue.upd

theorem execStageManagerWatchdogExpiry_inCue {s0 s : State} {a1} (h : InCue s0 s) : OutInCue s0 (execStageManagerWatchdogExpiry
    a1 s) := by
  unfold execStageManagerWatchdogExpiry
  try dsimp only
  repeat' first
    | with_reducible assumption
    | with_reducible exact Or.inl
    | with_reducible exact id
    | with_reducible exact fun _ => rfl
    | with_reducible apply State.at_inCue
    | with_reducible apply deviceFault_inCue
    | with_reducible apply detect_inCue
    | with_reducible apply logEvent_inCue
    | with_reducible refine OutInCue.next ?_
    | with_reducible exact OutInCue.refused
    | with_reducible refine InCue.foldl _ _ ?_ ?_
    | with_reducible refine InCue.ite ?_ ?_
    | with_reducible refine OutInCue.ite ?_ ?_
    | (intro _)
    | split
    | with_reducible rfl
    | with_reducible apply InCue.rest
    | with_reducible apply InCue.upd

end Sys2Proof.Machine
end

