-- ==== Sys2Proof/Laws/KeepsOps.lean ====
section
/-! SUPPORT. What the operations of Machine/Ops.lean keep. -/

namespace Sys2Proof.Machine

theorem State.at_keeps {s0 s : State} {a1 : Nat} (h : Keeps s0 s) : Keeps s0 (s.at a1) := by
  unfold State.at
  exact h.upd (Nat.le_trans (Nat.le_add_right _ _) (Nat.le_max_left _ _)) (.refl _) id id id id

theorem State.modPart_keeps {s0 s : State} {a1 a2} (h : Keeps s0 s) : Keeps s0 (State.modPart a1 a2 s) := by
  unfold State.modPart
  try dsimp only
  repeat' first
    | with_reducible assumption
    | with_reducible refine OutKeeps.next ?_
    | with_reducible exact OutKeeps.refused
    | with_reducible refine Keeps.foldl _ _ ?_ ?_
    | with_reducible exact FusesRise.refl _
    | with_reducible exact Nat.le_refl _
    | with_reducible exact id
    | with_reducible exact cellsWrite_wf _ _ _
    | exact ⟨Nat.le_refl _, id, fun _ => id, fun _ => id⟩
    | with_reducible refine Keeps.ite ?_ ?_
    | with_reducible refine OutKeeps.ite ?_ ?_
    | (intro _)
    | split
    | with_reducible apply Keeps.rest
    | with_reducible apply Keeps.upd

theorem State.modUnit_keeps {s0 s : State} {a1 a2} (h : Keeps s0 s) : Keeps s0 (State.modUnit a1 a2 s) := by
  unfold State.modUnit
  try dsimp only
  repeat' first
    | with_reducible assumption
    | with_reducible refine OutKeeps.next ?_
    | with_reducible exact OutKeeps.refused
    | with_reducible refine Keeps.foldl _ _ ?_ ?_
    | with_reducible exact FusesRise.refl _
    | with_reducible exact Nat.le_refl _
    | with_reducible exact id
    | with_reducible exact cellsWrite_wf _ _ _
    | exact ⟨Nat.le_refl _, id, fun _ => id, fun _ => id⟩
    | with_reducible refine Keeps.ite ?_ ?_
    | with_reducible refine OutKeeps.ite ?_ ?_
    | (intro _)
    | split
    | with_reducible apply Keeps.rest
    | with_reducible apply Keeps.upd

theorem logEvent_keeps {s0 s : State} {a1 a2 a3} (h : Keeps s0 s) : Keeps s0 (logEvent a1 a2 a3 s) := by
  unfold logEvent
  try dsimp only
  repeat' first
    | with_reducible assumption
    | with_reducible refine OutKeeps.next ?_
    | with_reducible exact OutKeeps.refused
    | with_reducible refine Keeps.foldl _ _ ?_ ?_
    | with_reducible exact FusesRise.refl _
    | with_reducible exact Nat.le_refl _
    | with_reducible exact id
    | with_reducible exact cellsWrite_wf _ _ _
    | exact ⟨Nat.le_refl _, id, fun _ => id, fun _ => id⟩
    | with_reducible refine Keeps.ite ?_ ?_
    | with_reducible refine OutKeeps.ite ?_ ?_
    | (intro _)
    | split
    | with_reducible apply Keeps.rest
    | with_reducible apply Keeps.upd

theorem irq_keeps {s0 s : State} {a1} (h : Keeps s0 s) : Keeps s0 (irq a1 s) := by
  unfold irq
  try dsimp only
  repeat' first
    | with_reducible assumption
    | with_reducible refine OutKeeps.next ?_
    | with_reducible exact OutKeeps.refused
    | with_reducible refine Keeps.foldl _ _ ?_ ?_
    | with_reducible exact FusesRise.refl _
    | with_reducible exact Nat.le_refl _
    | with_reducible exact id
    | with_reducible exact cellsWrite_wf _ _ _
    | exact ⟨Nat.le_refl _, id, fun _ => id, fun _ => id⟩
    | with_reducible refine Keeps.ite ?_ ?_
    | with_reducible refine OutKeeps.ite ?_ ?_
    | (intro _)
    | split
    | with_reducible apply Keeps.rest
    | with_reducible apply Keeps.upd

theorem curtainStop_keeps {s0 s : State} {a1 : Nat} {a2 : Byte} (h : Keeps s0 s) : Keeps s0 (curtainStop a1 a2 s) := by
  unfold curtainStop
  split
  · exact irq_keeps (logEvent_keeps (h.upd (Nat.le_refl _) (.refl _) id id (fun e => Bool.noConfusion e) fun _ e =>
      Bool.noConfusion e))
  · next hr => exact h.upd (Nat.le_refl _) (.refl _) id id id fun _ e => absurd e hr

theorem invalidate_keeps {s0 s : State} {a1} (h : Keeps s0 s) : Keeps s0 (invalidate a1 s) := by
  unfold invalidate
  try dsimp only
  repeat' first
    | with_reducible assumption
    | with_reducible refine OutKeeps.next ?_
    | with_reducible exact OutKeeps.refused
    | with_reducible refine Keeps.foldl _ _ ?_ ?_
    | with_reducible exact FusesRise.refl _
    | with_reducible exact Nat.le_refl _
    | with_reducible exact id
    | with_reducible exact cellsWrite_wf _ _ _
    | exact ⟨Nat.le_refl _, id, fun _ => id, fun _ => id⟩
    | with_reducible refine Keeps.ite ?_ ?_
    | with_reducible refine OutKeeps.ite ?_ ?_
    | (intro _)
    | split
    | with_reducible apply Keeps.rest
    | with_reducible apply Keeps.upd

theorem detect_keeps {s0 s : State} {a1 a2} (h : Keeps s0 s) : Keeps s0 (detect a1 a2 s) := by
  unfold detect
  try dsimp only
  repeat' first
    | with_reducible assumption
    | with_reducible apply curtainStop_keeps
    | with_reducible apply invalidate_keeps
    | with_reducible refine OutKeeps.next ?_
    | with_reducible exact OutKeeps.refused
    | with_reducible refine Keeps.foldl _ _ ?_ ?_
    | with_reducible exact FusesRise.refl _
    | with_reducible exact Nat.le_refl _
    | with_reducible exact id
    | with_reducible exact cellsWrite_wf _ _ _
    | exact ⟨Nat.le_refl _, id, fun _ => id, fun _ => id⟩
    | with_reducible refine Keeps.ite ?_ ?_
    | with_reducible refine OutKeeps.ite ?_ ?_
    | (intro _)
    | split
    | with_reducible apply Keeps.rest
    | with_reducible apply Keeps.upd

theorem setState_keeps {s0 s : State} {a1} (h : Keeps s0 s) : Keeps s0 (setState a1 s) := by
  unfold setState
  try dsimp only
  repeat' first
    | with_reducible assumption
    | with_reducible apply irq_keeps
    | with_reducible refine OutKeeps.next ?_
    | with_reducible exact OutKeeps.refused
    | with_reducible refine Keeps.foldl _ _ ?_ ?_
    | with_reducible exact FusesRise.refl _
    | with_reducible exact Nat.le_refl _
    | with_reducible exact id
    | with_reducible exact cellsWrite_wf _ _ _
    | exact ⟨Nat.le_refl _, id, fun _ => id, fun _ => id⟩
    | with_reducible refine Keeps.ite ?_ ?_
    | with_reducible refine OutKeeps.ite ?_ ?_
    | (intro _)
    | split
    | with_reducible apply Keeps.rest
    | with_reducible apply Keeps.upd

theorem enterBare_keeps {s0 s : State} (h : Keeps s0 s) : Keeps s0 (enterBare s) := by
  unfold enterBare
  try dsimp only
  repeat' first
    | with_reducible assumption
    | with_reducible apply logEvent_keeps
    | with_reducible apply setState_keeps
    | with_reducible refine OutKeeps.next ?_
    | with_reducible exact OutKeeps.refused
    | with_reducible refine Keeps.foldl _ _ ?_ ?_
    | with_reducible exact FusesRise.refl _
    | with_reducible exact Nat.le_refl _
    | with_reducible exact id
    | with_reducible exact cellsWrite_wf _ _ _
    | exact ⟨Nat.le_refl _, id, fun _ => id, fun _ => id⟩
    | with_reducible refine Keeps.ite ?_ ?_
    | with_reducible refine OutKeeps.ite ?_ ?_
    | (intro _)
    | split
    | with_reducible apply Keeps.rest
    | with_reducible apply Keeps.upd

theorem deviceFault_keeps {s0 s : State} {a1 a2} (h : Keeps s0 s) : Keeps s0 (deviceFault a1 a2 s) := by
  unfold deviceFault
  try dsimp only
  repeat' first
    | with_reducible assumption
    | with_reducible apply logEvent_keeps
    | with_reducible apply irq_keeps
    | with_reducible apply detect_keeps
    | with_reducible apply enterBare_keeps
    | with_reducible refine OutKeeps.next ?_
    | with_reducible exact OutKeeps.refused
    | with_reducible refine Keeps.foldl _ _ ?_ ?_
    | with_reducible exact FusesRise.refl _
    | with_reducible exact Nat.le_refl _
    | with_reducible exact id
    | with_reducible exact cellsWrite_wf _ _ _
    | exact ⟨Nat.le_refl _, id, fun _ => id, fun _ => id⟩
    | with_reducible refine Keeps.ite ?_ ?_
    | with_reducible refine OutKeeps.ite ?_ ?_
    | (intro _)
    | split
    | with_reducible apply Keeps.rest
    | with_reducible apply Keeps.upd

theorem logOnce_keeps {s0 s : State} {a1 a2 a3 a4} (h : Keeps s0 s) : Keeps s0 (logOnce a1 a2 a3 a4 s) := by
  unfold logOnce
  try dsimp only
  repeat' first
    | with_reducible assumption
    | with_reducible apply logEvent_keeps
    | with_reducible refine OutKeeps.next ?_
    | with_reducible exact OutKeeps.refused
    | with_reducible refine Keeps.foldl _ _ ?_ ?_
    | with_reducible exact FusesRise.refl _
    | with_reducible exact Nat.le_refl _
    | with_reducible exact id
    | with_reducible exact cellsWrite_wf _ _ _
    | exact ⟨Nat.le_refl _, id, fun _ => id, fun _ => id⟩
    | with_reducible refine Keeps.ite ?_ ?_
    | with_reducible refine OutKeeps.ite ?_ ?_
    | (intro _)
    | split
    | with_reducible apply Keeps.rest
    | with_reducible apply Keeps.upd

theorem enterBlank_keeps {s0 s : State} {a1 a2 a3} (h : Keeps s0 s) : Keeps s0 (enterBlank a1 a2 a3 s) := by
  unfold enterBlank
  try dsimp only
  repeat' first
    | with_reducible assumption
    | with_reducible apply setState_keeps
    | with_reducible refine OutKeeps.next ?_
    | with_reducible exact OutKeeps.refused
    | with_reducible refine Keeps.foldl _ _ ?_ ?_
    | with_reducible exact FusesRise.refl _
    | with_reducible exact Nat.le_refl _
    | with_reducible exact id
    | with_reducible exact cellsWrite_wf _ _ _
    | exact ⟨Nat.le_refl _, id, fun _ => id, fun _ => id⟩
    | with_reducible refine Keeps.ite ?_ ?_
    | with_reducible refine OutKeeps.ite ?_ ?_
    | (intro _)
    | split
    | with_reducible apply Keeps.rest
    | with_reducible apply Keeps.upd

theorem noteSeen_keeps {s0 s : State} {a1} (h : Keeps s0 s) : Keeps s0 (noteSeen a1 s) := by
  unfold noteSeen
  try dsimp only
  repeat' first
    | with_reducible assumption
    | with_reducible refine OutKeeps.next ?_
    | with_reducible exact OutKeeps.refused
    | with_reducible refine Keeps.foldl _ _ ?_ ?_
    | with_reducible exact FusesRise.refl _
    | with_reducible exact Nat.le_refl _
    | with_reducible exact id
    | with_reducible exact cellsWrite_wf _ _ _
    | exact ⟨Nat.le_refl _, id, fun _ => id, fun _ => id⟩
    | with_reducible refine Keeps.ite ?_ ?_
    | with_reducible refine OutKeeps.ite ?_ ?_
    | (intro _)
    | split
    | with_reducible apply Keeps.rest
    | with_reducible apply Keeps.upd

end Sys2Proof.Machine
end

