-- ==== Sys2Proof/Laws/KeepsKill.lean ====
section
/-! SUPPORT. What the operations of Machine/Kill.lean keep. -/

namespace Sys2Proof.Machine

theorem State.modInst_keeps {s0 s : State} {a1 a2} (h : Keeps s0 s) : Keeps s0 (State.modInst a1 a2 s) := by
  unfold State.modInst
  try dsimp only
  repeat' first
    | with_reducible assumption
    | with_reducible refine OutKeeps.next ?_
    | with_reducible exact OutKeeps.refused
    | with_reducible refine Keeps.foldl _ _ ?_ ?_
    | with_reducible exact FusesRise.refl _
    | with_reducible exact Nat.le_refl _
    | with_reducible exact id
    | with_reducible exact cellsWrite_wf _ _ _
    | exact ⟨Nat.le_refl _, id, fun _ => id, fun _ => id⟩
    | with_reducible refine Keeps.ite ?_ ?_
    | with_reducible refine OutKeeps.ite ?_ ?_
    | (intro _)
    | split
    | with_reducible apply Keeps.rest
    | with_reducible apply Keeps.upd

theorem State.modPress_keeps {s0 s : State} {a1 a2} (h : Keeps s0 s) : Keeps s0 (State.modPress a1 a2 s) := by
  unfold State.modPress
  try dsimp only
  repeat' first
    | with_reducible assumption
    | with_reducible refine OutKeeps.next ?_
    | with_reducible exact OutKeeps.refused
    | with_reducible refine Keeps.foldl _ _ ?_ ?_
    | with_reducible exact FusesRise.refl _
    | with_reducible exact Nat.le_refl _
    | with_reducible exact id
    | with_reducible exact cellsWrite_wf _ _ _
    | exact ⟨Nat.le_refl _, id, fun _ => id, fun _ => id⟩
    | with_reducible refine Keeps.ite ?_ ?_
    | with_reducible refine OutKeeps.ite ?_ ?_
    | (intro _)
    | split
    | with_reducible apply Keeps.rest
    | with_reducible apply Keeps.upd

theorem State.putAcct_keeps {s0 s : State} {a1} (h : Keeps s0 s) : Keeps s0 (State.putAcct a1 s) := by
  unfold State.putAcct
  try dsimp only
  repeat' first
    | with_reducible assumption
    | with_reducible refine OutKeeps.next ?_
    | with_reducible exact OutKeeps.refused
    | with_reducible refine Keeps.foldl _ _ ?_ ?_
    | with_reducible exact FusesRise.refl _
    | with_reducible exact Nat.le_refl _
    | with_reducible exact id
    | with_reducible exact cellsWrite_wf _ _ _
    | exact ⟨Nat.le_refl _, id, fun _ => id, fun _ => id⟩
    | with_reducible refine Keeps.ite ?_ ?_
    | with_reducible refine OutKeeps.ite ?_ ?_
    | (intro _)
    | split
    | with_reducible apply Keeps.rest
    | with_reducible apply Keeps.upd

theorem abandonInst_keeps {s0 s : State} {a1 a2} (h : Keeps s0 s) : Keeps s0 (abandonInst a1 a2 s) := by
  unfold abandonInst
  try dsimp only
  repeat' first
    | with_reducible assumption
    | with_reducible apply logEvent_keeps
    | with_reducible apply State.modInst_keeps
    | with_reducible refine OutKeeps.next ?_
    | with_reducible exact OutKeeps.refused
    | with_reducible refine Keeps.foldl _ _ ?_ ?_
    | with_reducible exact FusesRise.refl _
    | with_reducible exact Nat.le_refl _
    | with_reducible exact id
    | with_reducible exact cellsWrite_wf _ _ _
    | exact ⟨Nat.le_refl _, id, fun _ => id, fun _ => id⟩
    | with_reducible refine Keeps.ite ?_ ?_
    | with_reducible refine OutKeeps.ite ?_ ?_
    | (intro _)
    | split
    | with_reducible apply Keeps.rest
    | with_reducible apply Keeps.upd

theorem charge_keeps {s0 s : State} {a1 a2 a3 a4} (h : Keeps s0 s) : Keeps s0 (charge a1 a2 a3 a4 s) := by
  unfold charge
  try dsimp only
  repeat' first
    | with_reducible assumption
    | with_reducible apply State.putAcct_keeps
    | with_reducible apply logEvent_keeps
    | with_reducible refine OutKeeps.next ?_
    | with_reducible exact OutKeeps.refused
    | with_reducible refine Keeps.foldl _ _ ?_ ?_
    | with_reducible exact FusesRise.refl _
    | with_reducible exact Nat.le_refl _
    | with_reducible exact id
    | with_reducible exact cellsWrite_wf _ _ _
    | exact ⟨Nat.le_refl _, id, fun _ => id, fun _ => id⟩
    | with_reducible refine Keeps.ite ?_ ?_
    | with_reducible refine OutKeeps.ite ?_ ?_
    | (intro _)
    | split
    | with_reducible apply Keeps.rest
    | with_reducible apply Keeps.upd

theorem chargeRows_keeps {s0 s : State} {a1 a2 a3 a4 a5 : Nat} {a6 : List Row} {a7 : Nat × Nat × Nat} (h : Keeps s0 s) :
    Keeps s0 (chargeRows a1 a2 a3 a4 a5 a6 a7 s) := by
  induction a6 generalizing a7 s with
  | nil => exact charge_keeps h
  | cons r rs ih =>
    obtain ⟨rc, rb, re⟩ := a7
    unfold chargeRows
    split
    · exact ih h
    · exact ih (charge_keeps h)

theorem chargeRun_keeps {s0 s : State} {a1} (h : Keeps s0 s) : Keeps s0 (chargeRun a1 s) := by
  unfold chargeRun
  try dsimp only
  repeat' first
    | with_reducible assumption
    | with_reducible apply State.modPart_keeps
    | with_reducible apply chargeRows_keeps
    | with_reducible apply charge_keeps
    | with_reducible refine OutKeeps.next ?_
    | with_reducible exact OutKeeps.refused
    | with_reducible refine Keeps.foldl _ _ ?_ ?_
    | with_reducible exact FusesRise.refl _
    | with_reducible exact Nat.le_refl _
    | with_reducible exact id
    | with_reducible exact cellsWrite_wf _ _ _
    | exact ⟨Nat.le_refl _, id, fun _ => id, fun _ => id⟩
    | with_reducible refine Keeps.ite ?_ ?_
    | with_reducible refine OutKeeps.ite ?_ ?_
    | (intro _)
    | split
    | with_reducible apply Keeps.rest
    | with_reducible apply Keeps.upd

theorem logKill_keeps {s0 s : State} {a1 a2} (h : Keeps s0 s) : Keeps s0 (logKill a1 a2 s) := by
  unfold logKill
  try dsimp only
  repeat' first
    | with_reducible assumption
    | with_reducible apply logEvent_keeps
    | with_reducible apply State.modPart_keeps
    | with_reducible refine OutKeeps.next ?_
    | with_reducible exact OutKeeps.refused
    | with_reducible refine Keeps.foldl _ _ ?_ ?_
    | with_reducible exact FusesRise.refl _
    | with_reducible exact Nat.le_refl _
    | with_reducible exact id
    | with_reducible exact cellsWrite_wf _ _ _
    | exact ⟨Nat.le_refl _, id, fun _ => id, fun _ => id⟩
    | with_reducible refine Keeps.ite ?_ ?_
    | with_reducible refine OutKeeps.ite ?_ ?_
    | (intro _)
    | split
    | with_reducible apply Keeps.rest
    | with_reducible apply Keeps.upd

theorem buryBufs_keeps {s0 s : State} {a1} (h : Keeps s0 s) : Keeps s0 (buryBufs a1 s) := by
  unfold buryBufs
  try dsimp only
  repeat' first
    | with_reducible assumption
    | with_reducible refine OutKeeps.next ?_
    | with_reducible exact OutKeeps.refused
    | with_reducible refine Keeps.foldl _ _ ?_ ?_
    | with_reducible exact FusesRise.refl _
    | with_reducible exact Nat.le_refl _
    | with_reducible exact id
    | with_reducible exact cellsWrite_wf _ _ _
    | exact ⟨Nat.le_refl _, id, fun _ => id, fun _ => id⟩
    | with_reducible refine Keeps.ite ?_ ?_
    | with_reducible refine OutKeeps.ite ?_ ?_
    | (intro _)
    | split
    | with_reducible apply Keeps.rest
    | with_reducible apply Keeps.upd

theorem dropRequests_keeps {s0 s : State} {a1} (h : Keeps s0 s) : Keeps s0 (dropRequests a1 s) := by
  unfold dropRequests
  try dsimp only
  repeat' first
    | with_reducible assumption
    | with_reducible refine OutKeeps.next ?_
    | with_reducible exact OutKeeps.refused
    | with_reducible refine Keeps.foldl _ _ ?_ ?_
    | with_reducible exact FusesRise.refl _
    | with_reducible exact Nat.le_refl _
    | with_reducible exact id
    | with_reducible exact cellsWrite_wf _ _ _
    | exact ⟨Nat.le_refl _, id, fun _ => id, fun _ => id⟩
    | with_reducible refine Keeps.ite ?_ ?_
    | with_reducible refine OutKeeps.ite ?_ ?_
    | (intro _)
    | split
    | with_reducible apply Keeps.rest
    | with_reducible apply Keeps.upd

theorem startDrop_keeps {s0 s : State} {a1 a2 a3} (h : Keeps s0 s) : Keeps s0 (startDrop a1 a2 a3 s) := by
  unfold startDrop
  try dsimp only
  repeat' first
    | with_reducible assumption
    | with_reducible refine OutKeeps.next ?_
    | with_reducible exact OutKeeps.refused
    | with_reducible refine Keeps.foldl _ _ ?_ ?_
    | with_reducible exact FusesRise.refl _
    | with_reducible exact Nat.le_refl _
    | with_reducible exact id
    | with_reducible exact cellsWrite_wf _ _ _
    | exact ⟨Nat.le_refl _, id, fun _ => id, fun _ => id⟩
    | with_reducible refine Keeps.ite ?_ ?_
    | with_reducible refine OutKeeps.ite ?_ ?_
    | (intro _)
    | split
    | with_reducible apply Keeps.rest
    | with_reducible apply Keeps.upd

theorem unmapPage_keeps {s0 s : State} {a1 a2} (h : Keeps s0 s) : Keeps s0 (unmapPage a1 a2 s) := by
  unfold unmapPage
  try dsimp only
  repeat' first
    | with_reducible assumption
    | with_reducible apply startDrop_keeps
    | with_reducible refine OutKeeps.next ?_
    | with_reducible exact OutKeeps.refused
    | with_reducible refine Keeps.foldl _ _ ?_ ?_
    | with_reducible exact FusesRise.refl _
    | with_reducible exact Nat.le_refl _
    | with_reducible exact id
    | with_reducible exact cellsWrite_wf _ _ _
    | exact ⟨Nat.le_refl _, id, fun _ => id, fun _ => id⟩
    | with_reducible refine Keeps.ite ?_ ?_
    | with_reducible refine OutKeeps.ite ?_ ?_
    | (intro _)
    | split
    | with_reducible apply Keeps.rest
    | with_reducible apply Keeps.upd

theorem unmapInputs_keeps {s0 s : State} {a1} (h : Keeps s0 s) : Keeps s0 (unmapInputs a1 s) := by
  unfold unmapInputs
  try dsimp only
  repeat' first
    | with_reducible assumption
    | with_reducible apply unmapPage_keeps
    | with_reducible refine OutKeeps.next ?_
    | with_reducible exact OutKeeps.refused
    | with_reducible refine Keeps.foldl _ _ ?_ ?_
    | with_reducible exact FusesRise.refl _
    | with_reducible exact Nat.le_refl _
    | with_reducible exact id
    | with_reducible exact cellsWrite_wf _ _ _
    | exact ⟨Nat.le_refl _, id, fun _ => id, fun _ => id⟩
    | with_reducible refine Keeps.ite ?_ ?_
    | with_reducible refine OutKeeps.ite ?_ ?_
    | (intro _)
    | split
    | with_reducible apply Keeps.rest
    | with_reducible apply Keeps.upd

theorem unmapBufs_keeps {s0 s : State} {a1} (h : Keeps s0 s) : Keeps s0 (unmapBufs a1 s) := by
  unfold unmapBufs
  try dsimp only
  repeat' first
    | with_reducible assumption
    | with_reducible apply unmapInputs_keeps
    | with_reducible apply unmapPage_keeps
    | with_reducible refine OutKeeps.next ?_
    | with_reducible exact OutKeeps.refused
    | with_reducible refine Keeps.foldl _ _ ?_ ?_
    | with_reducible exact FusesRise.refl _
    | with_reducible exact Nat.le_refl _
    | with_reducible exact id
    | with_reducible exact cellsWrite_wf _ _ _
    | exact ⟨Nat.le_refl _, id, fun _ => id, fun _ => id⟩
    | with_reducible refine Keeps.ite ?_ ?_
    | with_reducible refine OutKeeps.ite ?_ ?_
    | (intro _)
    | split
    | with_reducible apply Keeps.rest
    | with_reducible apply Keeps.upd

theorem suspectUnit_keeps {s0 s : State} {a1 a2} (h : Keeps s0 s) : Keeps s0 (suspectUnit a1 a2 s) := by
  unfold suspectUnit
  try dsimp only
  repeat' first
    | with_reducible assumption
    | with_reducible apply State.modUnit_keeps
    | with_reducible refine OutKeeps.next ?_
    | with_reducible exact OutKeeps.refused
    | with_reducible refine Keeps.foldl _ _ ?_ ?_
    | with_reducible exact FusesRise.refl _
    | with_reducible exact Nat.le_refl _
    | with_reducible exact id
    | with_reducible exact cellsWrite_wf _ _ _
    | exact ⟨Nat.le_refl _, id, fun _ => id, fun _ => id⟩
    | with_reducible refine Keeps.ite ?_ ?_
    | with_reducible refine OutKeeps.ite ?_ ?_
    | (intro _)
    | split
    | with_reducible apply Keeps.rest
    | with_reducible apply Keeps.upd

theorem flushPress_keeps {s0 s : State} {a1} (h : Keeps s0 s) : Keeps s0 (flushPress a1 s) := by
  unfold flushPress
  try dsimp only
  repeat' first
    | with_reducible assumption
    | with_reducible apply suspectUnit_keeps
    | with_reducible apply State.modPress_keeps
    | with_reducible refine OutKeeps.next ?_
    | with_reducible exact OutKeeps.refused
    | with_reducible refine Keeps.foldl _ _ ?_ ?_
    | with_reducible exact FusesRise.refl _
    | with_reducible exact Nat.le_refl _
    | with_reducible exact id
    | with_reducible exact cellsWrite_wf _ _ _
    | exact ⟨Nat.le_refl _, id, fun _ => id, fun _ => id⟩
    | with_reducible refine Keeps.ite ?_ ?_
    | with_reducible refine OutKeeps.ite ?_ ?_
    | (intro _)
    | split
    | with_reducible apply Keeps.rest
    | with_reducible apply Keeps.upd

theorem killInst_keeps {s0 s : State} {a1 a2} (h : Keeps s0 s) : Keeps s0 (killInst a1 a2 s) := by
  unfold killInst
  try dsimp only
  repeat' first
    | with_reducible assumption
    | with_reducible apply chargeRun_keeps
    | with_reducible apply logKill_keeps
    | with_reducible apply State.modPart_keeps
    | with_reducible apply buryBufs_keeps
    | with_reducible apply dropRequests_keeps
    | with_reducible apply unmapBufs_keeps
    | with_reducible apply flushPress_keeps
    | with_reducible apply State.modInst_keeps
    | with_reducible apply abandonInst_keeps
    | with_reducible refine OutKeeps.next ?_
    | with_reducible exact OutKeeps.refused
    | with_reducible refine Keeps.foldl _ _ ?_ ?_
    | with_reducible exact FusesRise.refl _
    | with_reducible exact Nat.le_refl _
    | with_reducible exact id
    | with_reducible exact cellsWrite_wf _ _ _
    | exact ⟨Nat.le_refl _, id, fun _ => id, fun _ => id⟩
    | with_reducible refine Keeps.ite ?_ ?_
    | with_reducible refine OutKeeps.ite ?_ ?_
    | (intro _)
    | split
    | with_reducible apply Keeps.rest
    | with_reducible apply Keeps.upd

theorem forgetValues_keeps {s0 s : State} {a1} (h : Keeps s0 s) : Keeps s0 (forgetValues a1 s) := by
  unfold forgetValues
  try dsimp only
  repeat' first
    | with_reducible assumption
    | with_reducible apply unmapPage_keeps
    | with_reducible refine OutKeeps.next ?_
    | with_reducible exact OutKeeps.refused
    | with_reducible refine Keeps.foldl _ _ ?_ ?_
    | with_reducible exact FusesRise.refl _
    | with_reducible exact Nat.le_refl _
    | with_reducible exact id
    | with_reducible exact cellsWrite_wf _ _ _
    | exact ⟨Nat.le_refl _, id, fun _ => id, fun _ => id⟩
    | with_reducible refine Keeps.ite ?_ ?_
    | with_reducible refine OutKeeps.ite ?_ ?_
    | (intro _)
    | split
    | with_reducible apply Keeps.rest
    | with_reducible apply Keeps.upd

theorem failAttempt_keeps {s0 s : State} {a1 a2} (h : Keeps s0 s) : Keeps s0 (failAttempt a1 a2 s) := by
  unfold failAttempt
  try dsimp only
  repeat' first
    | with_reducible assumption
    | with_reducible apply logEvent_keeps
    | with_reducible apply State.modUnit_keeps
    | with_reducible refine OutKeeps.next ?_
    | with_reducible exact OutKeeps.refused
    | with_reducible refine Keeps.foldl _ _ ?_ ?_
    | with_reducible exact FusesRise.refl _
    | with_reducible exact Nat.le_refl _
    | with_reducible exact id
    | with_reducible exact cellsWrite_wf _ _ _
    | exact ⟨Nat.le_refl _, id, fun _ => id, fun _ => id⟩
    | with_reducible refine Keeps.ite ?_ ?_
    | with_reducible refine OutKeeps.ite ?_ ?_
    | (intro _)
    | split
    | with_reducible apply Keeps.rest
    | with_reducible apply Keeps.upd

theorem dropSlice_keeps {s0 s : State} {a1} (h : Keeps s0 s) : Keeps s0 (dropSlice a1 s) := by
  unfold dropSlice
  try dsimp only
  repeat' first
    | with_reducible assumption
    | with_reducible refine OutKeeps.next ?_
    | with_reducible exact OutKeeps.refused
    | with_reducible refine Keeps.foldl _ _ ?_ ?_
    | with_reducible exact FusesRise.refl _
    | with_reducible exact Nat.le_refl _
    | with_reducible exact id
    | with_reducible exact cellsWrite_wf _ _ _
    | exact ⟨Nat.le_refl _, id, fun _ => id, fun _ => id⟩
    | with_reducible refine Keeps.ite ?_ ?_
    | with_reducible refine OutKeeps.ite ?_ ?_
    | (intro _)
    | split
    | with_reducible apply Keeps.rest
    | with_reducible apply Keeps.upd

theorem stopRun_keeps {s0 s : State} {a1} (h : Keeps s0 s) : Keeps s0 (stopRun a1 s) := by
  unfold stopRun
  try dsimp only
  repeat' first
    | with_reducible assumption
    | with_reducible apply unmapBufs_keeps
    | with_reducible apply flushPress_keeps
    | with_reducible apply buryBufs_keeps
    | with_reducible apply dropRequests_keeps
    | with_reducible refine OutKeeps.next ?_
    | with_reducible exact OutKeeps.refused
    | with_reducible refine Keeps.foldl _ _ ?_ ?_
    | with_reducible exact FusesRise.refl _
    | with_reducible exact Nat.le_refl _
    | with_reducible exact id
    | with_reducible exact cellsWrite_wf _ _ _
    | exact ⟨Nat.le_refl _, id, fun _ => id, fun _ => id⟩
    | with_reducible refine Keeps.ite ?_ ?_
    | with_reducible refine OutKeeps.ite ?_ ?_
    | (intro _)
    | split
    | with_reducible apply Keeps.rest
    | with_reducible apply Keeps.upd

theorem endClass_keeps {s0 s : State} {a1} (h : Keeps s0 s) : Keeps s0 (endClass a1 s) := by
  unfold endClass
  try dsimp only
  repeat' first
    | with_reducible assumption
    | with_reducible apply stopRun_keeps
    | with_reducible refine OutKeeps.next ?_
    | with_reducible exact OutKeeps.refused
    | with_reducible refine Keeps.foldl _ _ ?_ ?_
    | with_reducible exact FusesRise.refl _
    | with_reducible exact Nat.le_refl _
    | with_reducible exact id
    | with_reducible exact cellsWrite_wf _ _ _
    | exact ⟨Nat.le_refl _, id, fun _ => id, fun _ => id⟩
    | with_reducible refine Keeps.ite ?_ ?_
    | with_reducible refine OutKeeps.ite ?_ ?_
    | (intro _)
    | split
    | with_reducible apply Keeps.rest
    | with_reducible apply Keeps.upd

theorem setClass_keeps {s0 s : State} {a1 a2} (h : Keeps s0 s) : Keeps s0 (setClass a1 a2 s) := by
  unfold setClass
  try dsimp only
  repeat' first
    | with_reducible assumption
    | with_reducible refine OutKeeps.next ?_
    | with_reducible exact OutKeeps.refused
    | with_reducible refine Keeps.foldl _ _ ?_ ?_
    | with_reducible exact FusesRise.refl _
    | with_reducible exact Nat.le_refl _
    | with_reducible exact id
    | with_reducible exact cellsWrite_wf _ _ _
    | exact ⟨Nat.le_refl _, id, fun _ => id, fun _ => id⟩
    | with_reducible refine Keeps.ite ?_ ?_
    | with_reducible refine OutKeeps.ite ?_ ?_
    | (intro _)
    | split
    | with_reducible apply Keeps.rest
    | with_reducible apply Keeps.upd

theorem classifyStruck_keeps {s0 s : State} {a1 a2} (h : Keeps s0 s) : Keeps s0 (classifyStruck a1 a2 s) := by
  unfold classifyStruck
  try dsimp only
  repeat' first
    | with_reducible assumption
    | with_reducible apply endClass_keeps
    | with_reducible apply setClass_keeps
    | with_reducible apply logEvent_keeps
    | with_reducible refine OutKeeps.next ?_
    | with_reducible exact OutKeeps.refused
    | with_reducible refine Keeps.foldl _ _ ?_ ?_
    | with_reducible exact FusesRise.refl _
    | with_reducible exact Nat.le_refl _
    | with_reducible exact id
    | with_reducible exact cellsWrite_wf _ _ _
    | exact ⟨Nat.le_refl _, id, fun _ => id, fun _ => id⟩
    | with_reducible refine Keeps.ite ?_ ?_
    | with_reducible refine OutKeeps.ite ?_ ?_
    | (intro _)
    | split
    | with_reducible apply Keeps.rest
    | with_reducible apply Keeps.upd

theorem killWhere_keeps {s0 s : State} {a1 a2} (h : Keeps s0 s) : Keeps s0 (killWhere a1 a2 s) := by
  unfold killWhere
  try dsimp only
  repeat' first
    | with_reducible assumption
    | with_reducible apply killInst_keeps
    | with_reducible refine OutKeeps.next ?_
    | with_reducible exact OutKeeps.refused
    | with_reducible refine Keeps.foldl _ _ ?_ ?_
    | with_reducible exact FusesRise.refl _
    | with_reducible exact Nat.le_refl _
    | with_reducible exact id
    | with_reducible exact cellsWrite_wf _ _ _
    | exact ⟨Nat.le_refl _, id, fun _ => id, fun _ => id⟩
    | with_reducible refine Keeps.ite ?_ ?_
    | with_reducible refine OutKeeps.ite ?_ ?_
    | (intro _)
    | split
    | with_reducible apply Keeps.rest
    | with_reducible apply Keeps.upd

theorem strike_keeps {s0 s : State} {a1 a2} (h : Keeps s0 s) : Keeps s0 (strike a1 a2 s) := by
  unfold strike
  try dsimp only
  repeat' first
    | with_reducible assumption
    | with_reducible apply failAttempt_keeps
    | with_reducible apply State.modUnit_keeps
    | with_reducible apply dropSlice_keeps
    | with_reducible apply logEvent_keeps
    | with_reducible apply classifyStruck_keeps
    | with_reducible apply killWhere_keeps
    | with_reducible refine OutKeeps.next ?_
    | with_reducible exact OutKeeps.refused
    | with_reducible refine Keeps.foldl _ _ ?_ ?_
    | with_reducible exact FusesRise.refl _
    | with_reducible exact Nat.le_refl _
    | with_reducible exact id
    | with_reducible exact cellsWrite_wf _ _ _
    | exact ⟨Nat.le_refl _, id, fun _ => id, fun _ => id⟩
    | with_reducible refine Keeps.ite ?_ ?_
    | with_reducible refine OutKeeps.ite ?_ ?_
    | (intro _)
    | split
    | with_reducible apply Keeps.rest
    | with_reducible apply Keeps.upd

theorem setProgress_keeps {s0 s : State} {a1 a2} (h : Keeps s0 s) : Keeps s0 (setProgress a1 a2 s) := by
  unfold setProgress
  try dsimp only
  repeat' first
    | with_reducible assumption
    | with_reducible refine OutKeeps.next ?_
    | with_reducible exact OutKeeps.refused
    | with_reducible refine Keeps.foldl _ _ ?_ ?_
    | with_reducible exact FusesRise.refl _
    | with_reducible exact Nat.le_refl _
    | with_reducible exact id
    | with_reducible exact cellsWrite_wf _ _ _
    | exact ⟨Nat.le_refl _, id, fun _ => id, fun _ => id⟩
    | with_reducible refine Keeps.ite ?_ ?_
    | with_reducible refine OutKeeps.ite ?_ ?_
    | (intro _)
    | split
    | with_reducible apply Keeps.rest
    | with_reducible apply Keeps.upd

theorem suspendSlice_keeps {s0 s : State} {a1} (h : Keeps s0 s) : Keeps s0 (suspendSlice a1 s) := by
  unfold suspendSlice
  try dsimp only
  repeat' first
    | with_reducible assumption
    | with_reducible apply setProgress_keeps
    | with_reducible refine OutKeeps.next ?_
    | with_reducible exact OutKeeps.refused
    | with_reducible refine Keeps.foldl _ _ ?_ ?_
    | with_reducible exact FusesRise.refl _
    | with_reducible exact Nat.le_refl _
    | with_reducible exact id
    | with_reducible exact cellsWrite_wf _ _ _
    | exact ⟨Nat.le_refl _, id, fun _ => id, fun _ => id⟩
    | with_reducible refine Keeps.ite ?_ ?_
    | with_reducible refine OutKeeps.ite ?_ ?_
    | (intro _)
    | split
    | with_reducible apply Keeps.rest
    | with_reducible apply Keeps.upd

theorem setPte_keeps {s0 s : State} {a1 a2 a3} (h : Keeps s0 s) : Keeps s0 (setPte a1 a2 a3 s) := by
  unfold setPte
  try dsimp only
  repeat' first
    | with_reducible assumption
    | with_reducible refine OutKeeps.next ?_
    | with_reducible exact OutKeeps.refused
    | with_reducible refine Keeps.foldl _ _ ?_ ?_
    | with_reducible exact FusesRise.refl _
    | with_reducible exact Nat.le_refl _
    | with_reducible exact id
    | with_reducible exact cellsWrite_wf _ _ _
    | exact ⟨Nat.le_refl _, id, fun _ => id, fun _ => id⟩
    | with_reducible refine Keeps.ite ?_ ?_
    | with_reducible refine OutKeeps.ite ?_ ?_
    | (intro _)
    | split
    | with_reducible apply Keeps.rest
    | with_reducible apply Keeps.upd

theorem countTransient_keeps {s0 s : State} {a1} (h : Keeps s0 s) : Keeps s0 (countTransient a1 s) := by
  unfold countTransient
  try dsimp only
  repeat' first
    | with_reducible assumption
    | with_reducible apply State.modUnit_keeps
    | with_reducible apply strike_keeps
    | with_reducible refine OutKeeps.next ?_
    | with_reducible exact OutKeeps.refused
    | with_reducible refine Keeps.foldl _ _ ?_ ?_
    | with_reducible exact FusesRise.refl _
    | with_reducible exact Nat.le_refl _
    | with_reducible exact id
    | with_reducible exact cellsWrite_wf _ _ _
    | exact ⟨Nat.le_refl _, id, fun _ => id, fun _ => id⟩
    | with_reducible refine Keeps.ite ?_ ?_
    | with_reducible refine OutKeeps.ite ?_ ?_
    | (intro _)
    | split
    | with_reducible apply Keeps.rest
    | with_reducible apply Keeps.upd

theorem killElsewhere_keeps {s0 s : State} {a1 a2 a3} (h : Keeps s0 s) : Keeps s0 (killElsewhere a1 a2 a3 s) := by
  unfold killElsewhere
  try dsimp only
  repeat' first
    | with_reducible assumption
    | with_reducible apply State.modInst_keeps
    | with_reducible apply killInst_keeps
    | with_reducible refine OutKeeps.next ?_
    | with_reducible exact OutKeeps.refused
    | with_reducible refine Keeps.foldl _ _ ?_ ?_
    | with_reducible exact FusesRise.refl _
    | with_reducible exact Nat.le_refl _
    | with_reducible exact id
    | with_reducible exact cellsWrite_wf _ _ _
    | exact ⟨Nat.le_refl _, id, fun _ => id, fun _ => id⟩
    | with_reducible refine Keeps.ite ?_ ?_
    | with_reducible refine OutKeeps.ite ?_ ?_
    | (intro _)
    | split
    | with_reducible apply Keeps.rest
    | with_reducible apply Keeps.upd

theorem endSafety_keeps {s0 s : State} (h : Keeps s0 s) : Keeps s0 (endSafety s) := by
  unfold endSafety
  try dsimp only
  repeat' first
    | with_reducible assumption
    | with_reducible apply killWhere_keeps
    | with_reducible apply abandonInst_keeps
    | with_reducible refine OutKeeps.next ?_
    | with_reducible exact OutKeeps.refused
    | with_reducible refine Keeps.foldl _ _ ?_ ?_
    | with_reducible exact FusesRise.refl _
    | with_reducible exact Nat.le_refl _
    | with_reducible exact id
    | with_reducible exact cellsWrite_wf _ _ _
    | exact ⟨Nat.le_refl _, id, fun _ => id, fun _ => id⟩
    | with_reducible refine Keeps.ite ?_ ?_
    | with_reducible refine OutKeeps.ite ?_ ?_
    | (intro _)
    | split
    | with_reducible apply Keeps.rest
    | with_reducible apply Keeps.upd

end Sys2Proof.Machine
end

