-- ==== Sys2Proof/Laws/KeepsFlags.lean ====
section
/-! SUPPORT. What the operations of Machine/Flags.lean keep. -/

namespace Sys2Proof.Machine

theorem setSnap_keeps {s0 s : State} {a1} (h : Keeps s0 s) : Keeps s0 (setSnap a1 s) := by
  unfold setSnap
  try dsimp only
  repeat' first
    | with_reducible assumption
    | with_reducible refine OutKeeps.next ?_
    | with_reducible exact OutKeeps.refused
    | with_reducible refine Keeps.foldl _ _ ?_ ?_
    | with_reducible exact FusesRise.refl _
    | with_reducible exact Nat.le_refl _
    | with_reducible exact id
    | with_reducible exact cellsWrite_wf _ _ _
    | exact ⟨Nat.le_refl _, id, fun _ => id, fun _ => id⟩
    | with_reducible refine Keeps.ite ?_ ?_
    | with_reducible refine OutKeeps.ite ?_ ?_
    | (intro _)
    | split
    | with_reducible apply Keeps.rest
    | with_reducible apply Keeps.upd

theorem f1ReadByte_keeps {s0 s : State} {a1} (h : Keeps s0 s) : Keeps s0 (f1ReadByte a1 s).2 := by
  unfold f1ReadByte
  try dsimp only
  repeat' first
    | with_reducible assumption
    | with_reducible apply setSnap_keeps
    | with_reducible refine OutKeeps.next ?_
    | with_reducible exact OutKeeps.refused
    | with_reducible refine Keeps.foldl _ _ ?_ ?_
    | with_reducible exact FusesRise.refl _
    | with_reducible exact Nat.le_refl _
    | with_reducible exact id
    | with_reducible exact cellsWrite_wf _ _ _
    | exact ⟨Nat.le_refl _, id, fun _ => id, fun _ => id⟩
    | with_reducible refine Keeps.ite ?_ ?_
    | with_reducible refine OutKeeps.ite ?_ ?_
    | (intro _)
    | split
    | with_reducible apply Keeps.rest
    | with_reducible apply Keeps.upd

theorem f1Read_keeps {s0 s : State} {a1 a2 : Nat} (h : Keeps s0 s) : Keeps s0 (f1Read a1 a2 s).2 := by
  induction a2 generalizing a1 s with
  | zero => exact h
  | succ n ih => exact ih (f1ReadByte_keeps h)

end Sys2Proof.Machine
end

