-- ==== Sys2Proof/Laws/KeepsWindow.lean ====
section
/-! SUPPORT. What the operations of Machine/Window.lean keep. -/

namespace Sys2Proof.Machine

theorem captureAccount_keeps {s0 s : State} {a1} (h : Keeps s0 s) : Keeps s0 (captureAccount a1 s) := by
  unfold captureAccount
  try dsimp only
  repeat' first
    | with_reducible assumption
    | with_reducible refine OutKeeps.next ?_
    | with_reducible exact OutKeeps.refused
    | with_reducible refine Keeps.foldl _ _ ?_ ?_
    | with_reducible exact FusesRise.refl _
    | with_reducible exact Nat.le_refl _
    | with_reducible exact id
    | with_reducible exact cellsWrite_wf _ _ _
    | exact ⟨Nat.le_refl _, id, fun _ => id, fun _ => id⟩
    | with_reducible refine Keeps.ite ?_ ?_
    | with_reducible refine OutKeeps.ite ?_ ?_
    | (intro _)
    | split
    | with_reducible apply Keeps.rest
    | with_reducible apply Keeps.upd

theorem writeHfControl_keeps {s0 s : State} {a1} (h : Keeps s0 s) : Keeps s0 (writeHfControl a1 s) := by
  unfold writeHfControl
  try dsimp only
  repeat' first
    | with_reducible assumption
    | with_reducible refine OutKeeps.next ?_
    | with_reducible exact OutKeeps.refused
    | with_reducible refine Keeps.foldl _ _ ?_ ?_
    | with_reducible exact FusesRise.refl _
    | with_reducible exact Nat.le_refl _
    | with_reducible exact id
    | with_reducible exact cellsWrite_wf _ _ _
    | exact ⟨Nat.le_refl _, id, fun _ => id, fun _ => id⟩
    | with_reducible refine Keeps.ite ?_ ?_
    | with_reducible refine OutKeeps.ite ?_ ?_
    | (intro _)
    | split
    | with_reducible apply Keeps.rest
    | with_reducible apply Keeps.upd

theorem writeHfIrq_keeps {s0 s : State} {a1} (h : Keeps s0 s) : Keeps s0 (writeHfIrq a1 s) := by
  unfold writeHfIrq
  try dsimp only
  repeat' first
    | with_reducible assumption
    | with_reducible refine OutKeeps.next ?_
    | with_reducible exact OutKeeps.refused
    | with_reducible refine Keeps.foldl _ _ ?_ ?_
    | with_reducible exact FusesRise.refl _
    | with_reducible exact Nat.le_refl _
    | with_reducible exact id
    | with_reducible exact cellsWrite_wf _ _ _
    | exact ⟨Nat.le_refl _, id, fun _ => id, fun _ => id⟩
    | with_reducible refine Keeps.ite ?_ ?_
    | with_reducible refine OutKeeps.ite ?_ ?_
    | (intro _)
    | split
    | with_reducible apply Keeps.rest
    | with_reducible apply Keeps.upd

theorem writeHfIrqEnable_keeps {s0 s : State} {a1} (h : Keeps s0 s) : Keeps s0 (writeHfIrqEnable a1 s) := by
  unfold writeHfIrqEnable
  try dsimp only
  repeat' first
    | with_reducible assumption
    | with_reducible refine OutKeeps.next ?_
    | with_reducible exact OutKeeps.refused
    | with_reducible refine Keeps.foldl _ _ ?_ ?_
    | with_reducible exact FusesRise.refl _
    | with_reducible exact Nat.le_refl _
    | with_reducible exact id
    | with_reducible exact cellsWrite_wf _ _ _
    | exact ⟨Nat.le_refl _, id, fun _ => id, fun _ => id⟩
    | with_reducible refine Keeps.ite ?_ ?_
    | with_reducible refine OutKeeps.ite ?_ ?_
    | (intro _)
    | split
    | with_reducible apply Keeps.rest
    | with_reducible apply Keeps.upd

theorem writeCueStatus_keeps {s0 s : State} {a1} (h : Keeps s0 s) : Keeps s0 (writeCueStatus a1 s) := by
  unfold writeCueStatus
  try dsimp only
  repeat' first
    | with_reducible assumption
    | with_reducible refine OutKeeps.next ?_
    | with_reducible exact OutKeeps.refused
    | with_reducible refine Keeps.foldl _ _ ?_ ?_
    | with_reducible exact FusesRise.refl _
    | with_reducible exact Nat.le_refl _
    | with_reducible exact id
    | with_reducible exact cellsWrite_wf _ _ _
    | exact ⟨Nat.le_refl _, id, fun _ => id, fun _ => id⟩
    | with_reducible refine Keeps.ite ?_ ?_
    | with_reducible refine OutKeeps.ite ?_ ?_
    | (intro _)
    | split
    | with_reducible apply Keeps.rest
    | with_reducible apply Keeps.upd

theorem requestCurtainTest_keeps {s0 s : State} (h : Keeps s0 s) : Keeps s0 (requestCurtainTest s) := by
  unfold requestCurtainTest
  try dsimp only
  repeat' first
    | with_reducible assumption
    | with_reducible apply logEvent_keeps
    | with_reducible refine OutKeeps.next ?_
    | with_reducible exact OutKeeps.refused
    | with_reducible refine Keeps.foldl _ _ ?_ ?_
    | with_reducible exact FusesRise.refl _
    | with_reducible exact Nat.le_refl _
    | with_reducible exact id
    | with_reducible exact cellsWrite_wf _ _ _
    | exact ⟨Nat.le_refl _, id, fun _ => id, fun _ => id⟩
    | with_reducible refine Keeps.ite ?_ ?_
    | with_reducible refine OutKeeps.ite ?_ ?_
    | (intro _)
    | split
    | with_reducible apply Keeps.rest
    | with_reducible apply Keeps.upd

theorem writeCurtainTest_keeps {s0 s : State} {a1} (h : Keeps s0 s) : Keeps s0 (writeCurtainTest a1 s) := by
  unfold writeCurtainTest
  try dsimp only
  repeat' first
    | with_reducible assumption
    | with_reducible apply requestCurtainTest_keeps
    | with_reducible refine OutKeeps.next ?_
    | with_reducible exact OutKeeps.refused
    | with_reducible refine Keeps.foldl _ _ ?_ ?_
    | with_reducible exact FusesRise.refl _
    | with_reducible exact Nat.le_refl _
    | with_reducible exact id
    | with_reducible exact cellsWrite_wf _ _ _
    | exact ⟨Nat.le_refl _, id, fun _ => id, fun _ => id⟩
    | with_reducible refine Keeps.ite ?_ ?_
    | with_reducible refine OutKeeps.ite ?_ ?_
    | (intro _)
    | split
    | with_reducible apply Keeps.rest
    | with_reducible apply Keeps.upd

theorem writeAcctSelect_keeps {s0 s : State} {a1} (h : Keeps s0 s) : Keeps s0 (writeAcctSelect a1 s) := by
  unfold writeAcctSelect
  try dsimp only
  repeat' first
    | with_reducible assumption
    | with_reducible apply captureAccount_keeps
    | with_reducible refine OutKeeps.next ?_
    | with_reducible exact OutKeeps.refused
    | with_reducible refine Keeps.foldl _ _ ?_ ?_
    | with_reducible exact FusesRise.refl _
    | with_reducible exact Nat.le_refl _
    | with_reducible exact id
    | with_reducible exact cellsWrite_wf _ _ _
    | exact ⟨Nat.le_refl _, id, fun _ => id, fun _ => id⟩
    | with_reducible refine Keeps.ite ?_ ?_
    | with_reducible refine OutKeeps.ite ?_ ?_
    | (intro _)
    | split
    | with_reducible apply Keeps.rest
    | with_reducible apply Keeps.upd

theorem regWrite_keeps {s0 s : State} {a1 a2} (h : Keeps s0 s) : Keeps s0 (regWrite a1 a2 s) := by
  unfold regWrite
  try dsimp only
  repeat' first
    | with_reducible assumption
    | with_reducible apply writeHfControl_keeps
    | with_reducible apply writeHfIrq_keeps
    | with_reducible apply writeHfIrqEnable_keeps
    | with_reducible apply writeCueStatus_keeps
    | with_reducible apply writeCurtainTest_keeps
    | with_reducible apply writeAcctSelect_keeps
    | with_reducible refine OutKeeps.next ?_
    | with_reducible exact OutKeeps.refused
    | with_reducible refine Keeps.foldl _ _ ?_ ?_
    | with_reducible exact FusesRise.refl _
    | with_reducible exact Nat.le_refl _
    | with_reducible exact id
    | with_reducible exact cellsWrite_wf _ _ _
    | exact ⟨Nat.le_refl _, id, fun _ => id, fun _ => id⟩
    | with_reducible refine Keeps.ite ?_ ?_
    | with_reducible refine OutKeeps.ite ?_ ?_
    | (intro _)
    | split
    | with_reducible apply Keeps.rest
    | with_reducible apply Keeps.upd

theorem setHold_keeps {s0 s : State} {a1} (h : Keeps s0 s) : Keeps s0 (setHold a1 s) := by
  unfold setHold
  try dsimp only
  repeat' first
    | with_reducible assumption
    | with_reducible refine OutKeeps.next ?_
    | with_reducible exact OutKeeps.refused
    | with_reducible refine Keeps.foldl _ _ ?_ ?_
    | with_reducible exact FusesRise.refl _
    | with_reducible exact Nat.le_refl _
    | with_reducible exact id
    | with_reducible exact cellsWrite_wf _ _ _
    | exact ⟨Nat.le_refl _, id, fun _ => id, fun _ => id⟩
    | with_reducible refine Keeps.ite ?_ ?_
    | with_reducible refine OutKeeps.ite ?_ ?_
    | (intro _)
    | split
    | with_reducible apply Keeps.rest
    | with_reducible apply Keeps.upd

theorem f1WriteByte_keeps {s0 s : State} {a1 a2} (h : Keeps s0 s) : Keeps s0 (f1WriteByte a1 a2 s) := by
  unfold f1WriteByte
  try dsimp only
  repeat' first
    | with_reducible assumption
    | with_reducible apply regWrite_keeps
    | with_reducible apply setHold_keeps
    | with_reducible refine OutKeeps.next ?_
    | with_reducible exact OutKeeps.refused
    | with_reducible refine Keeps.foldl _ _ ?_ ?_
    | with_reducible exact FusesRise.refl _
    | with_reducible exact Nat.le_refl _
    | with_reducible exact id
    | with_reducible exact cellsWrite_wf _ _ _
    | exact ⟨Nat.le_refl _, id, fun _ => id, fun _ => id⟩
    | with_reducible refine Keeps.ite ?_ ?_
    | with_reducible refine OutKeeps.ite ?_ ?_
    | (intro _)
    | split
    | with_reducible apply Keeps.rest
    | with_reducible apply Keeps.upd

theorem f1WriteAt_keeps {s0 s : State} {n a1 : Nat} {a2 : List (Fin n × Byte)} (h : Keeps s0 s) : Keeps s0 (f1WriteAt a1 a2 s) := by
  unfold f1WriteAt
  exact h.foldl _ _ fun _ _ hu => f1WriteByte_keeps hu

theorem execAcctSelectWrite_keeps {s0 s : State} {a1 a2} (h : Keeps s0 s) : OutKeeps s0 (execAcctSelectWrite a1 a2 s) := by
  unfold execAcctSelectWrite
  try dsimp only
  repeat' first
    | with_reducible assumption
    | with_reducible apply State.at_keeps
    | with_reducible apply f1WriteAt_keeps
    | with_reducible refine OutKeeps.next ?_
    | with_reducible exact OutKeeps.refused
    | with_reducible refine Keeps.foldl _ _ ?_ ?_
    | with_reducible exact FusesRise.refl _
    | with_reducible exact Nat.le_refl _
    | with_reducible exact id
    | with_reducible exact cellsWrite_wf _ _ _
    | exact ⟨Nat.le_refl _, id, fun _ => id, fun _ => id⟩
    | with_reducible refine Keeps.ite ?_ ?_
    | with_reducible refine OutKeeps.ite ?_ ?_
    | (intro _)
    | split
    | with_reducible apply Keeps.rest
    | with_reducible apply Keeps.upd

theorem respond_keeps {s0 s : State} {a1 a2} (h : Keeps s0 s) : Keeps s0 (respond a1 a2 s) := by
  unfold respond
  try dsimp only
  repeat' first
    | with_reducible assumption
    | with_reducible refine OutKeeps.next ?_
    | with_reducible exact OutKeeps.refused
    | with_reducible refine Keeps.foldl _ _ ?_ ?_
    | with_reducible exact FusesRise.refl _
    | with_reducible exact Nat.le_refl _
    | with_reducible exact id
    | with_reducible exact cellsWrite_wf _ _ _
    | exact ⟨Nat.le_refl _, id, fun _ => id, fun _ => id⟩
    | with_reducible refine Keeps.ite ?_ ?_
    | with_reducible refine OutKeeps.ite ?_ ?_
    | (intro _)
    | split
    | with_reducible apply Keeps.rest
    | with_reducible apply Keeps.upd

theorem f1Write_keeps {s0 s : State} {a1 : Nat} {a2 : List Byte} (h : Keeps s0 s) : Keeps s0 (f1Write a1 a2 s) := by
  induction a2 generalizing a1 s with
  | nil => exact h
  | cons v vs ih => exact ih (f1WriteByte_keeps h)

theorem execCmd53F1_keeps {s0 s : State} {a1 a2 a3 a4} (h : Keeps s0 s) : OutKeeps s0 (execCmd53F1 a1 a2 a3 a4 s) := by
  unfold execCmd53F1
  try dsimp only
  repeat' first
    | with_reducible assumption
    | with_reducible apply State.at_keeps
    | with_reducible apply respond_keeps
    | with_reducible apply f1Write_keeps
    | with_reducible apply f1Read_keeps
    | with_reducible refine Keeps.snd ?_ (by assumption)
    | with_reducible refine OutKeeps.next ?_
    | with_reducible exact OutKeeps.refused
    | with_reducible refine Keeps.foldl _ _ ?_ ?_
    | with_reducible exact FusesRise.refl _
    | with_reducible exact Nat.le_refl _
    | with_reducible exact id
    | with_reducible exact cellsWrite_wf _ _ _
    | exact ⟨Nat.le_refl _, id, fun _ => id, fun _ => id⟩
    | with_reducible refine Keeps.ite ?_ ?_
    | with_reducible refine OutKeeps.ite ?_ ?_
    | (intro _)
    | split
    | with_reducible apply Keeps.rest
    | with_reducible apply Keeps.upd

theorem execCueStatusClear_keeps {s0 s : State} {a1 a2} (h : Keeps s0 s) : OutKeeps s0 (execCueStatusClear a1 a2 s) := by
  unfold execCueStatusClear
  try dsimp only
  repeat' first
    | with_reducible assumption
    | with_reducible apply State.at_keeps
    | with_reducible apply f1WriteAt_keeps
    | with_reducible refine OutKeeps.next ?_
    | with_reducible exact OutKeeps.refused
    | with_reducible refine Keeps.foldl _ _ ?_ ?_
    | with_reducible exact FusesRise.refl _
    | with_reducible exact Nat.le_refl _
    | with_reducible exact id
    | with_reducible exact cellsWrite_wf _ _ _
    | exact ⟨Nat.le_refl _, id, fun _ => id, fun _ => id⟩
    | with_reducible refine Keeps.ite ?_ ?_
    | with_reducible refine OutKeeps.ite ?_ ?_
    | (intro _)
    | split
    | with_reducible apply Keeps.rest
    | with_reducible apply Keeps.upd

theorem execCurtainTestWrite_keeps {s0 s : State} {a1 a2} (h : Keeps s0 s) : OutKeeps s0 (execCurtainTestWrite a1 a2 s) := by
  unfold execCurtainTestWrite
  try dsimp only
  repeat' first
    | with_reducible assumption
    | with_reducible apply State.at_keeps
    | with_reducible apply f1WriteAt_keeps
    | with_reducible refine OutKeeps.next ?_
    | with_reducible exact OutKeeps.refused
    | with_reducible refine Keeps.foldl _ _ ?_ ?_
    | with_reducible exact FusesRise.refl _
    | with_reducible exact Nat.le_refl _
    | with_reducible exact id
    | with_reducible exact cellsWrite_wf _ _ _
    | exact ⟨Nat.le_refl _, id, fun _ => id, fun _ => id⟩
    | with_reducible refine Keeps.ite ?_ ?_
    | with_reducible refine OutKeeps.ite ?_ ?_
    | (intro _)
    | split
    | with_reducible apply Keeps.rest
    | with_reducible apply Keeps.upd

theorem execF1RegisterWrite_keeps {s0 s : State} {a1 a2 a3} (h : Keeps s0 s) : OutKeeps s0 (execF1RegisterWrite a1 a2 a3 s) := by
  unfold execF1RegisterWrite
  try dsimp only
  repeat' first
    | with_reducible assumption
    | with_reducible apply State.at_keeps
    | with_reducible apply f1WriteByte_keeps
    | with_reducible refine OutKeeps.next ?_
    | with_reducible exact OutKeeps.refused
    | with_reducible refine Keeps.foldl _ _ ?_ ?_
    | with_reducible exact FusesRise.refl _
    | with_reducible exact Nat.le_refl _
    | with_reducible exact id
    | with_reducible exact cellsWrite_wf _ _ _
    | exact ⟨Nat.le_refl _, id, fun _ => id, fun _ => id⟩
    | with_reducible refine Keeps.ite ?_ ?_
    | with_reducible refine OutKeeps.ite ?_ ?_
    | (intro _)
    | split
    | with_reducible apply Keeps.rest
    | with_reducible apply Keeps.upd

theorem execF1SnapshotRead_keeps {s0 s : State} {a1 a2} (h : Keeps s0 s) : OutKeeps s0 (execF1SnapshotRead a1 a2 s) := by
  unfold execF1SnapshotRead
  try dsimp only
  repeat' first
    | with_reducible assumption
    | with_reducible apply State.at_keeps
    | with_reducible apply f1ReadByte_keeps
    | with_reducible apply respond_keeps
    | with_reducible refine Keeps.snd ?_ (by assumption)
    | with_reducible refine OutKeeps.next ?_
    | with_reducible exact OutKeeps.refused
    | with_reducible refine Keeps.foldl _ _ ?_ ?_
    | with_reducible exact FusesRise.refl _
    | with_reducible exact Nat.le_refl _
    | with_reducible exact id
    | with_reducible exact cellsWrite_wf _ _ _
    | exact ⟨Nat.le_refl _, id, fun _ => id, fun _ => id⟩
    | with_reducible refine Keeps.ite ?_ ?_
    | with_reducible refine OutKeeps.ite ?_ ?_
    | (intro _)
    | split
    | with_reducible apply Keeps.rest
    | with_reducible apply Keeps.upd

theorem execHfIrqClear_keeps {s0 s : State} {a1 a2} (h : Keeps s0 s) : OutKeeps s0 (execHfIrqClear a1 a2 s) := by
  unfold execHfIrqClear
  try dsimp only
  repeat' first
    | with_reducible assumption
    | with_reducible apply State.at_keeps
    | with_reducible apply f1WriteAt_keeps
    | with_reducible refine OutKeeps.next ?_
    | with_reducible exact OutKeeps.refused
    | with_reducible refine Keeps.foldl _ _ ?_ ?_
    | with_reducible exact FusesRise.refl _
    | with_reducible exact Nat.le_refl _
    | with_reducible exact id
    | with_reducible exact cellsWrite_wf _ _ _
    | exact ⟨Nat.le_refl _, id, fun _ => id, fun _ => id⟩
    | with_reducible refine Keeps.ite ?_ ?_
    | with_reducible refine OutKeeps.ite ?_ ?_
    | (intro _)
    | split
    | with_reducible apply Keeps.rest
    | with_reducible apply Keeps.upd

theorem execRxResync_keeps {s0 s : State} {a1 a2} (h : Keeps s0 s) : OutKeeps s0 (execRxResync a1 a2 s) := by
  unfold execRxResync
  try dsimp only
  repeat' first
    | with_reducible assumption
    | with_reducible apply State.at_keeps
    | with_reducible apply f1WriteAt_keeps
    | with_reducible refine OutKeeps.next ?_
    | with_reducible exact OutKeeps.refused
    | with_reducible refine Keeps.foldl _ _ ?_ ?_
    | with_reducible exact FusesRise.refl _
    | with_reducible exact Nat.le_refl _
    | with_reducible exact id
    | with_reducible exact cellsWrite_wf _ _ _
    | exact ⟨Nat.le_refl _, id, fun _ => id, fun _ => id⟩
    | with_reducible refine Keeps.ite ?_ ?_
    | with_reducible refine OutKeeps.ite ?_ ?_
    | (intro _)
    | split
    | with_reducible apply Keeps.rest
    | with_reducible apply Keeps.upd

end Sys2Proof.Machine
end

