-- ==== Sys2Proof/Laws/KeepsCard.lean ====
section
/-! SUPPORT. What the operations of Machine/Card.lean keep. -/

namespace Sys2Proof.Machine

theorem cardLoss_keeps {s0 s : State} (h : Keeps s0 s) : Keeps s0 (cardLoss s) := by
  unfold cardLoss
  try dsimp only
  repeat' first
    | with_reducible assumption
    | with_reducible refine OutKeeps.next ?_
    | with_reducible exact OutKeeps.refused
    | with_reducible refine Keeps.foldl _ _ ?_ ?_
    | with_reducible exact FusesRise.refl _
    | with_reducible exact Nat.le_refl _
    | with_reducible exact id
    | with_reducible exact cellsWrite_wf _ _ _
    | exact ⟨Nat.le_refl _, id, fun _ => id, fun _ => id⟩
    | with_reducible refine Keeps.ite ?_ ?_
    | with_reducible refine OutKeeps.ite ?_ ?_
    | (intro _)
    | split
    | with_reducible apply Keeps.rest
    | with_reducible apply Keeps.upd

theorem execCccrResWrite_keeps {s0 s : State} {a1} (h : Keeps s0 s) : OutKeeps s0 (execCccrResWrite a1 s) := by
  unfold execCccrResWrite
  try dsimp only
  repeat' first
    | with_reducible assumption
    | with_reducible apply State.at_keeps
    | with_reducible apply cardLoss_keeps
    | with_reducible refine OutKeeps.next ?_
    | with_reducible exact OutKeeps.refused
    | with_reducible refine Keeps.foldl _ _ ?_ ?_
    | with_reducible exact FusesRise.refl _
    | with_reducible exact Nat.le_refl _
    | with_reducible exact id
    | with_reducible exact cellsWrite_wf _ _ _
    | exact ⟨Nat.le_refl _, id, fun _ => id, fun _ => id⟩
    | with_reducible refine Keeps.ite ?_ ?_
    | with_reducible refine OutKeeps.ite ?_ ?_
    | (intro _)
    | split
    | with_reducible apply Keeps.rest
    | with_reducible apply Keeps.upd

theorem modCard_keeps {s0 s : State} {a1} (h : Keeps s0 s) : Keeps s0 (modCard a1 s) := by
  unfold modCard
  try dsimp only
  repeat' first
    | with_reducible assumption
    | with_reducible refine OutKeeps.next ?_
    | with_reducible exact OutKeeps.refused
    | with_reducible refine Keeps.foldl _ _ ?_ ?_
    | with_reducible exact FusesRise.refl _
    | with_reducible exact Nat.le_refl _
    | with_reducible exact id
    | with_reducible exact cellsWrite_wf _ _ _
    | exact ⟨Nat.le_refl _, id, fun _ => id, fun _ => id⟩
    | with_reducible refine Keeps.ite ?_ ?_
    | with_reducible refine OutKeeps.ite ?_ ?_
    | (intro _)
    | split
    | with_reducible apply Keeps.rest
    | with_reducible apply Keeps.upd

theorem execCmd0_keeps {s0 s : State} {a1} (h : Keeps s0 s) : OutKeeps s0 (execCmd0 a1 s) := by
  unfold execCmd0
  try dsimp only
  repeat' first
    | with_reducible assumption
    | with_reducible apply State.at_keeps
    | with_reducible apply respond_keeps
    | with_reducible apply modCard_keeps
    | with_reducible refine OutKeeps.next ?_
    | with_reducible exact OutKeeps.refused
    | with_reducible refine Keeps.foldl _ _ ?_ ?_
    | with_reducible exact FusesRise.refl _
    | with_reducible exact Nat.le_refl _
    | with_reducible exact id
    | with_reducible exact cellsWrite_wf _ _ _
    | exact ⟨Nat.le_refl _, id, fun _ => id, fun _ => id⟩
    | with_reducible refine Keeps.ite ?_ ?_
    | with_reducible refine OutKeeps.ite ?_ ?_
    | (intro _)
    | split
    | with_reducible apply Keeps.rest
    | with_reducible apply Keeps.upd

theorem execCmd11_keeps {s0 s : State} {a1} (h : Keeps s0 s) : OutKeeps s0 (execCmd11 a1 s) := by
  unfold execCmd11
  try dsimp only
  repeat' first
    | with_reducible assumption
    | with_reducible apply State.at_keeps
    | with_reducible apply respond_keeps
    | with_reducible apply modCard_keeps
    | with_reducible refine OutKeeps.next ?_
    | with_reducible exact OutKeeps.refused
    | with_reducible refine Keeps.foldl _ _ ?_ ?_
    | with_reducible exact FusesRise.refl _
    | with_reducible exact Nat.le_refl _
    | with_reducible exact id
    | with_reducible exact cellsWrite_wf _ _ _
    | exact ⟨Nat.le_refl _, id, fun _ => id, fun _ => id⟩
    | with_reducible refine Keeps.ite ?_ ?_
    | with_reducible refine OutKeeps.ite ?_ ?_
    | (intro _)
    | split
    | with_reducible apply Keeps.rest
    | with_reducible apply Keeps.upd

theorem execCmd15_keeps {s0 s : State} {a1 a2} (h : Keeps s0 s) : OutKeeps s0 (execCmd15 a1 a2 s) := by
  unfold execCmd15
  try dsimp only
  repeat' first
    | with_reducible assumption
    | with_reducible apply State.at_keeps
    | with_reducible apply modCard_keeps
    | with_reducible refine OutKeeps.next ?_
    | with_reducible exact OutKeeps.refused
    | with_reducible refine Keeps.foldl _ _ ?_ ?_
    | with_reducible exact FusesRise.refl _
    | with_reducible exact Nat.le_refl _
    | with_reducible exact id
    | with_reducible exact cellsWrite_wf _ _ _
    | exact ⟨Nat.le_refl _, id, fun _ => id, fun _ => id⟩
    | with_reducible refine Keeps.ite ?_ ?_
    | with_reducible refine OutKeeps.ite ?_ ?_
    | (intro _)
    | split
    | with_reducible apply Keeps.rest
    | with_reducible apply Keeps.upd

theorem execCmd19_keeps {s0 s : State} {a1} (h : Keeps s0 s) : OutKeeps s0 (execCmd19 a1 s) := by
  unfold execCmd19
  try dsimp only
  repeat' first
    | with_reducible assumption
    | with_reducible apply State.at_keeps
    | with_reducible apply respond_keeps
    | with_reducible apply modCard_keeps
    | with_reducible refine OutKeeps.next ?_
    | with_reducible exact OutKeeps.refused
    | with_reducible refine Keeps.foldl _ _ ?_ ?_
    | with_reducible exact FusesRise.refl _
    | with_reducible exact Nat.le_refl _
    | with_reducible exact id
    | with_reducible exact cellsWrite_wf _ _ _
    | exact ⟨Nat.le_refl _, id, fun _ => id, fun _ => id⟩
    | with_reducible refine Keeps.ite ?_ ?_
    | with_reducible refine OutKeeps.ite ?_ ?_
    | (intro _)
    | split
    | with_reducible apply Keeps.rest
    | with_reducible apply Keeps.upd

theorem execCmd3_keeps {s0 s : State} {a1} (h : Keeps s0 s) : OutKeeps s0 (execCmd3 a1 s) := by
  unfold execCmd3
  try dsimp only
  repeat' first
    | with_reducible assumption
    | with_reducible apply State.at_keeps
    | with_reducible apply modCard_keeps
    | with_reducible apply respond_keeps
    | with_reducible refine OutKeeps.next ?_
    | with_reducible exact OutKeeps.refused
    | with_reducible refine Keeps.foldl _ _ ?_ ?_
    | with_reducible exact FusesRise.refl _
    | with_reducible exact Nat.le_refl _
    | with_reducible exact id
    | with_reducible exact cellsWrite_wf _ _ _
    | exact ⟨Nat.le_refl _, id, fun _ => id, fun _ => id⟩
    | with_reducible refine Keeps.ite ?_ ?_
    | with_reducible refine OutKeeps.ite ?_ ?_
    | (intro _)
    | split
    | with_reducible apply Keeps.rest
    | with_reducible apply Keeps.upd

theorem execCmd5_keeps {s0 s : State} {a1 a2} (h : Keeps s0 s) : OutKeeps s0 (execCmd5 a1 a2 s) := by
  unfold execCmd5
  try dsimp only
  repeat' first
    | with_reducible assumption
    | with_reducible apply State.at_keeps
    | with_reducible apply respond_keeps
    | with_reducible apply modCard_keeps
    | with_reducible apply logEvent_keeps
    | with_reducible refine OutKeeps.next ?_
    | with_reducible exact OutKeeps.refused
    | with_reducible refine Keeps.foldl _ _ ?_ ?_
    | with_reducible exact FusesRise.refl _
    | with_reducible exact Nat.le_refl _
    | with_reducible exact id
    | with_reducible exact cellsWrite_wf _ _ _
    | exact ⟨Nat.le_refl _, id, fun _ => id, fun _ => id⟩
    | with_reducible refine Keeps.ite ?_ ?_
    | with_reducible refine OutKeeps.ite ?_ ?_
    | (intro _)
    | split
    | with_reducible apply Keeps.rest
    | with_reducible apply Keeps.upd

theorem f0Write_keeps {s0 s : State} {a1 a2} (h : Keeps s0 s) : Keeps s0 (f0Write a1 a2 s) := by
  unfold f0Write
  try dsimp only
  repeat' first
    | with_reducible assumption
    | with_reducible apply modCard_keeps
    | with_reducible apply cardLoss_keeps
    | with_reducible refine OutKeeps.next ?_
    | with_reducible exact OutKeeps.refused
    | with_reducible refine Keeps.foldl _ _ ?_ ?_
    | with_reducible exact FusesRise.refl _
    | with_reducible exact Nat.le_refl _
    | with_reducible exact id
    | with_reducible exact cellsWrite_wf _ _ _
    | exact ⟨Nat.le_refl _, id, fun _ => id, fun _ => id⟩
    | with_reducible refine Keeps.ite ?_ ?_
    | with_reducible refine OutKeeps.ite ?_ ?_
    | (intro _)
    | split
    | with_reducible apply Keeps.rest
    | with_reducible apply Keeps.upd

theorem execCmd52_keeps {s0 s : State} {a1 a2 a3 a4} (h : Keeps s0 s) : OutKeeps s0 (execCmd52 a1 a2 a3 a4 s) := by
  unfold execCmd52
  try dsimp only
  repeat' first
    | with_reducible assumption
    | with_reducible apply State.at_keeps
    | with_reducible apply f0Write_keeps
    | with_reducible apply respond_keeps
    | with_reducible apply f1WriteByte_keeps
    | with_reducible apply f1ReadByte_keeps
    | with_reducible refine Keeps.snd ?_ (by assumption)
    | with_reducible refine OutKeeps.next ?_
    | with_reducible exact OutKeeps.refused
    | with_reducible refine Keeps.foldl _ _ ?_ ?_
    | with_reducible exact FusesRise.refl _
    | with_reducible exact Nat.le_refl _
    | with_reducible exact id
    | with_reducible exact cellsWrite_wf _ _ _
    | exact ⟨Nat.le_refl _, id, fun _ => id, fun _ => id⟩
    | with_reducible refine Keeps.ite ?_ ?_
    | with_reducible refine OutKeeps.ite ?_ ?_
    | (intro _)
    | split
    | with_reducible apply Keeps.rest
    | with_reducible apply Keeps.upd

theorem f0Writes_keeps {s0 s : State} {a1 : Nat} {a2 : List Byte} (h : Keeps s0 s) : Keeps s0 (f0Writes a1 a2 s) := by
  induction a2 generalizing a1 s with
  | nil => exact h
  | cons v vs ih => exact ih (f0Write_keeps h)

theorem execCmd53F0_keeps {s0 s : State} {a1 a2 a3 a4 a5 a6 a7} (h : Keeps s0 s) : OutKeeps s0 (execCmd53F0 a1 a2 a3 a4 a5 a6 a7
    s) := by
  unfold execCmd53F0
  try dsimp only
  repeat' first
    | with_reducible assumption
    | with_reducible apply State.at_keeps
    | with_reducible apply respond_keeps
    | with_reducible apply f0Writes_keeps
    | with_reducible refine OutKeeps.next ?_
    | with_reducible exact OutKeeps.refused
    | with_reducible refine Keeps.foldl _ _ ?_ ?_
    | with_reducible exact FusesRise.refl _
    | with_reducible exact Nat.le_refl _
    | with_reducible exact id
    | with_reducible exact cellsWrite_wf _ _ _
    | exact ⟨Nat.le_refl _, id, fun _ => id, fun _ => id⟩
    | with_reducible refine Keeps.ite ?_ ?_
    | with_reducible refine OutKeeps.ite ?_ ?_
    | (intro _)
    | split
    | with_reducible apply Keeps.rest
    | with_reducible apply Keeps.upd

theorem execCmd7_keeps {s0 s : State} {a1 a2} (h : Keeps s0 s) : OutKeeps s0 (execCmd7 a1 a2 s) := by
  unfold execCmd7
  try dsimp only
  repeat' first
    | with_reducible assumption
    | with_reducible apply State.at_keeps
    | with_reducible apply respond_keeps
    | with_reducible apply modCard_keeps
    | with_reducible refine OutKeeps.next ?_
    | with_reducible exact OutKeeps.refused
    | with_reducible refine Keeps.foldl _ _ ?_ ?_
    | with_reducible exact FusesRise.refl _
    | with_reducible exact Nat.le_refl _
    | with_reducible exact id
    | with_reducible exact cellsWrite_wf _ _ _
    | exact ⟨Nat.le_refl _, id, fun _ => id, fun _ => id⟩
    | with_reducible refine Keeps.ite ?_ ?_
    | with_reducible refine OutKeeps.ite ?_ ?_
    | (intro _)
    | split
    | with_reducible apply Keeps.rest
    | with_reducible apply Keeps.upd

theorem execFunctionReadyInIorx_keeps {s0 s : State} {a1 a2} (h : Keeps s0 s) : OutKeeps s0 (execFunctionReadyInIorx a1 a2 s) :=
    by
  unfold execFunctionReadyInIorx
  try dsimp only
  repeat' first
    | with_reducible assumption
    | with_reducible apply State.at_keeps
    | with_reducible apply modCard_keeps
    | with_reducible refine OutKeeps.next ?_
    | with_reducible exact OutKeeps.refused
    | with_reducible refine Keeps.foldl _ _ ?_ ?_
    | with_reducible exact FusesRise.refl _
    | with_reducible exact Nat.le_refl _
    | with_reducible exact id
    | with_reducible exact cellsWrite_wf _ _ _
    | exact ⟨Nat.le_refl _, id, fun _ => id, fun _ => id⟩
    | with_reducible refine Keeps.ite ?_ ?_
    | with_reducible refine OutKeeps.ite ?_ ?_
    | (intro _)
    | split
    | with_reducible apply Keeps.rest
    | with_reducible apply Keeps.upd

theorem execSdPadSupplyLoss_keeps {s0 s : State} {a1} (h : Keeps s0 s) : OutKeeps s0 (execSdPadSupplyLoss a1 s) := by
  unfold execSdPadSupplyLoss
  try dsimp only
  repeat' first
    | with_reducible assumption
    | with_reducible apply State.at_keeps
    | with_reducible apply cardLoss_keeps
    | with_reducible refine OutKeeps.next ?_
    | with_reducible exact OutKeeps.refused
    | with_reducible refine Keeps.foldl _ _ ?_ ?_
    | with_reducible exact FusesRise.refl _
    | with_reducible exact Nat.le_refl _
    | with_reducible exact id
    | with_reducible exact cellsWrite_wf _ _ _
    | exact ⟨Nat.le_refl _, id, fun _ => id, fun _ => id⟩
    | with_reducible refine Keeps.ite ?_ ?_
    | with_reducible refine OutKeeps.ite ?_ ?_
    | (intro _)
    | split
    | with_reducible apply Keeps.rest
    | with_reducible apply Keeps.upd

end Sys2Proof.Machine
end

