-- ==== Sys2Proof/Laws/KeepsUnderstudy.lean ====
section
/-! SUPPORT. What the operations of Machine/Understudy.lean keep. -/

namespace Sys2Proof.Machine

theorem coreWrite_keeps {s0 s : State} {a1 a2} (h : Keeps s0 s) : Keeps s0 (coreWrite a1 a2 s) := by
  unfold coreWrite
  try dsimp only
  repeat' first
    | with_reducible assumption
    | with_reducible apply devWrite_keeps
    | with_reducible refine OutKeeps.next ?_
    | with_reducible exact OutKeeps.refused
    | with_reducible refine Keeps.foldl _ _ ?_ ?_
    | with_reducible exact FusesRise.refl _
    | with_reducible exact Nat.le_refl _
    | with_reducible exact id
    | with_reducible exact cellsWrite_wf _ _ _
    | exact ⟨Nat.le_refl _, id, fun _ => id, fun _ => id⟩
    | with_reducible refine Keeps.ite ?_ ?_
    | with_reducible refine OutKeeps.ite ?_ ?_
    | (intro _)
    | split
    | with_reducible apply Keeps.rest
    | with_reducible apply Keeps.upd

end Sys2Proof.Machine
end

