-- ==== Sys2Proof/Laws/KeepsScenes.lean ====
section
/-! SUPPORT. What the operations of Machine/Scenes.lean keep. -/

namespace Sys2Proof.Machine

theorem formRun_keeps {s0 s : State} {a1 a2 a3} (h : Keeps s0 s) : Keeps s0 (formRun a1 a2 a3 s) := by
  unfold formRun
  try dsimp only
  repeat' first
    | with_reducible assumption
    | with_reducible refine OutKeeps.next ?_
    | with_reducible exact OutKeeps.refused
    | with_reducible refine Keeps.foldl _ _ ?_ ?_
    | with_reducible exact FusesRise.refl _
    | with_reducible exact Nat.le_refl _
    | with_reducible exact id
    | with_reducible exact cellsWrite_wf _ _ _
    | exact ⟨Nat.le_refl _, id, fun _ => id, fun _ => id⟩
    | with_reducible refine Keeps.ite ?_ ?_
    | with_reducible refine OutKeeps.ite ?_ ?_
    | (intro _)
    | split
    | with_reducible apply Keeps.rest
    | with_reducible apply Keeps.upd

theorem meetBarrier_keeps {s0 s : State} {a1} (h : Keeps s0 s) : Keeps s0 (meetBarrier a1 s) := by
  unfold meetBarrier
  try dsimp only
  repeat' first
    | with_reducible assumption
    | with_reducible apply waitHand_keeps
    | with_reducible apply State.modPress_keeps
    | with_reducible refine OutKeeps.next ?_
    | with_reducible exact OutKeeps.refused
    | with_reducible refine Keeps.foldl _ _ ?_ ?_
    | with_reducible exact FusesRise.refl _
    | with_reducible exact Nat.le_refl _
    | with_reducible exact id
    | with_reducible exact cellsWrite_wf _ _ _
    | exact ⟨Nat.le_refl _, id, fun _ => id, fun _ => id⟩
    | with_reducible refine Keeps.ite ?_ ?_
    | with_reducible refine OutKeeps.ite ?_ ?_
    | (intro _)
    | split
    | with_reducible apply Keeps.rest
    | with_reducible apply Keeps.upd

theorem placeInput_keeps {s0 s : State} {a1 a2} (h : Keeps s0 s) : Keeps s0 (placeInput a1 a2 s) := by
  unfold placeInput
  try dsimp only
  repeat' first
    | with_reducible assumption
    | with_reducible apply devWrite_keeps
    | with_reducible apply setPte_keeps
    | with_reducible apply startDrop_keeps
    | with_reducible refine OutKeeps.next ?_
    | with_reducible exact OutKeeps.refused
    | with_reducible refine Keeps.foldl _ _ ?_ ?_
    | with_reducible exact FusesRise.refl _
    | with_reducible exact Nat.le_refl _
    | with_reducible exact id
    | with_reducible exact cellsWrite_wf _ _ _
    | exact ⟨Nat.le_refl _, id, fun _ => id, fun _ => id⟩
    | with_reducible refine Keeps.ite ?_ ?_
    | with_reducible refine OutKeeps.ite ?_ ?_
    | (intro _)
    | split
    | with_reducible apply Keeps.rest
    | with_reducible apply Keeps.upd

theorem mapPage_keeps {s0 s : State} {a1 a2 a3 a4 a5 a6} (h : Keeps s0 s) : Keeps s0 (mapPage a1 a2 a3 a4 a5 a6 s) := by
  unfold mapPage
  try dsimp only
  repeat' first
    | with_reducible assumption
    | with_reducible apply setPte_keeps
    | with_reducible refine OutKeeps.next ?_
    | with_reducible exact OutKeeps.refused
    | with_reducible refine Keeps.foldl _ _ ?_ ?_
    | with_reducible exact FusesRise.refl _
    | with_reducible exact Nat.le_refl _
    | with_reducible exact id
    | with_reducible exact cellsWrite_wf _ _ _
    | exact ⟨Nat.le_refl _, id, fun _ => id, fun _ => id⟩
    | with_reducible refine Keeps.ite ?_ ?_
    | with_reducible refine OutKeeps.ite ?_ ?_
    | (intro _)
    | split
    | with_reducible apply Keeps.rest
    | with_reducible apply Keeps.upd

theorem mapBuf_keeps {s0 s : State} {a1 a2 a3} (h : Keeps s0 s) : Keeps s0 (mapBuf a1 a2 a3 s) := by
  unfold mapBuf
  try dsimp only
  repeat' first
    | with_reducible assumption
    | with_reducible apply mapPage_keeps
    | with_reducible refine OutKeeps.next ?_
    | with_reducible exact OutKeeps.refused
    | with_reducible refine Keeps.foldl _ _ ?_ ?_
    | with_reducible exact FusesRise.refl _
    | with_reducible exact Nat.le_refl _
    | with_reducible exact id
    | with_reducible exact cellsWrite_wf _ _ _
    | exact ⟨Nat.le_refl _, id, fun _ => id, fun _ => id⟩
    | with_reducible refine Keeps.ite ?_ ?_
    | with_reducible refine OutKeeps.ite ?_ ?_
    | (intro _)
    | split
    | with_reducible apply Keeps.rest
    | with_reducible apply Keeps.upd

theorem countSpills_keeps {s0 s : State} {a1 a2} (h : Keeps s0 s) : Keeps s0 (countSpills a1 a2 s) := by
  unfold countSpills
  try dsimp only
  repeat' first
    | with_reducible assumption
    | with_reducible apply State.modPart_keeps
    | with_reducible apply logOnce_keeps
    | with_reducible refine OutKeeps.next ?_
    | with_reducible exact OutKeeps.refused
    | with_reducible refine Keeps.foldl _ _ ?_ ?_
    | with_reducible exact FusesRise.refl _
    | with_reducible exact Nat.le_refl _
    | with_reducible exact id
    | with_reducible exact cellsWrite_wf _ _ _
    | exact ⟨Nat.le_refl _, id, fun _ => id, fun _ => id⟩
    | with_reducible refine Keeps.ite ?_ ?_
    | with_reducible refine OutKeeps.ite ?_ ?_
    | (intro _)
    | split
    | with_reducible apply Keeps.rest
    | with_reducible apply Keeps.upd

theorem startRun_keeps {s0 s : State} {a1 a2 a3} (h : Keeps s0 s) : Keeps s0 (startRun a1 a2 a3 s) := by
  unfold startRun
  try dsimp only
  repeat' first
    | with_reducible assumption
    | with_reducible apply State.modInst_keeps
    | with_reducible apply setSplit_keeps
    | with_reducible apply State.modPress_keeps
    | with_reducible apply meetBarrier_keeps
    | with_reducible apply placeInput_keeps
    | with_reducible apply coreWrite_keeps
    | with_reducible apply mapBuf_keeps
    | with_reducible apply countSpills_keeps
    | with_reducible apply lockPages_keeps
    | with_reducible apply State.modPart_keeps
    | with_reducible apply poisonRead_keeps
    | with_reducible refine OutKeeps.next ?_
    | with_reducible exact OutKeeps.refused
    | with_reducible refine Keeps.foldl _ _ ?_ ?_
    | with_reducible exact FusesRise.refl _
    | with_reducible exact Nat.le_refl _
    | with_reducible exact id
    | with_reducible exact cellsWrite_wf _ _ _
    | exact ⟨Nat.le_refl _, id, fun _ => id, fun _ => id⟩
    | with_reducible refine Keeps.ite ?_ ?_
    | with_reducible refine OutKeeps.ite ?_ ?_
    | (intro _)
    | split
    | with_reducible apply Keeps.rest
    | with_reducible apply Keeps.upd

theorem fixPlans_keeps {s0 s : State} {a1} (h : Keeps s0 s) : Keeps s0 (fixPlans a1 s) := by
  unfold fixPlans
  try dsimp only
  repeat' first
    | with_reducible assumption
    | with_reducible refine OutKeeps.next ?_
    | with_reducible exact OutKeeps.refused
    | with_reducible refine Keeps.foldl _ _ ?_ ?_
    | with_reducible exact FusesRise.refl _
    | with_reducible exact Nat.le_refl _
    | with_reducible exact id
    | with_reducible exact cellsWrite_wf _ _ _
    | exact ⟨Nat.le_refl _, id, fun _ => id, fun _ => id⟩
    | with_reducible refine Keeps.ite ?_ ?_
    | with_reducible refine OutKeeps.ite ?_ ?_
    | (intro _)
    | split
    | with_reducible apply Keeps.rest
    | with_reducible apply Keeps.upd

theorem countRefused_keeps {s0 s : State} {a1} (h : Keeps s0 s) : Keeps s0 (countRefused a1 s) := by
  unfold countRefused
  try dsimp only
  repeat' first
    | with_reducible assumption
    | with_reducible apply State.modPart_keeps
    | with_reducible apply State.modInst_keeps
    | with_reducible refine OutKeeps.next ?_
    | with_reducible exact OutKeeps.refused
    | with_reducible refine Keeps.foldl _ _ ?_ ?_
    | with_reducible exact FusesRise.refl _
    | with_reducible exact Nat.le_refl _
    | with_reducible exact id
    | with_reducible exact cellsWrite_wf _ _ _
    | exact ⟨Nat.le_refl _, id, fun _ => id, fun _ => id⟩
    | with_reducible refine Keeps.ite ?_ ?_
    | with_reducible refine OutKeeps.ite ?_ ?_
    | (intro _)
    | split
    | with_reducible apply Keeps.rest
    | with_reducible apply Keeps.upd

theorem admitScene_keeps {s0 s : State} {a1 a2} (h : Keeps s0 s) : Keeps s0 (admitScene a1 a2 s) := by
  unfold admitScene
  try dsimp only
  repeat' first
    | with_reducible assumption
    | with_reducible apply startRun_keeps
    | with_reducible apply fixPlans_keeps
    | with_reducible apply countRefused_keeps
    | with_reducible refine OutKeeps.next ?_
    | with_reducible exact OutKeeps.refused
    | with_reducible refine Keeps.foldl _ _ ?_ ?_
    | with_reducible exact FusesRise.refl _
    | with_reducible exact Nat.le_refl _
    | with_reducible exact id
    | with_reducible exact cellsWrite_wf _ _ _
    | exact ⟨Nat.le_refl _, id, fun _ => id, fun _ => id⟩
    | with_reducible refine Keeps.ite ?_ ?_
    | with_reducible refine OutKeeps.ite ?_ ?_
    | (intro _)
    | split
    | with_reducible apply Keeps.rest
    | with_reducible apply Keeps.upd

theorem clearTested_keeps {s0 s : State} {a1} (h : Keeps s0 s) : Keeps s0 (clearTested a1 s) := by
  unfold clearTested
  try dsimp only
  repeat' first
    | with_reducible assumption
    | with_reducible exact filter_wf _ _
    | with_reducible refine OutKeeps.next ?_
    | with_reducible exact OutKeeps.refused
    | with_reducible refine Keeps.foldl _ _ ?_ ?_
    | with_reducible exact FusesRise.refl _
    | with_reducible exact Nat.le_refl _
    | with_reducible exact id
    | with_reducible exact cellsWrite_wf _ _ _
    | exact ⟨Nat.le_refl _, id, fun _ => id, fun _ => id⟩
    | with_reducible refine Keeps.ite ?_ ?_
    | with_reducible refine OutKeeps.ite ?_ ?_
    | (intro _)
    | split
    | with_reducible apply Keeps.rest
    | with_reducible apply Keeps.upd

theorem admitSlice_keeps {s0 s : State} {a1} (h : Keeps s0 s) : Keeps s0 (admitSlice a1 s) := by
  unfold admitSlice
  try dsimp only
  repeat' first
    | with_reducible assumption
    | with_reducible apply clearTested_keeps
    | with_reducible refine OutKeeps.next ?_
    | with_reducible exact OutKeeps.refused
    | with_reducible refine Keeps.foldl _ _ ?_ ?_
    | with_reducible exact FusesRise.refl _
    | with_reducible exact Nat.le_refl _
    | with_reducible exact id
    | with_reducible exact cellsWrite_wf _ _ _
    | exact ⟨Nat.le_refl _, id, fun _ => id, fun _ => id⟩
    | with_reducible refine Keeps.ite ?_ ?_
    | with_reducible refine OutKeeps.ite ?_ ?_
    | (intro _)
    | split
    | with_reducible apply Keeps.rest
    | with_reducible apply Keeps.upd

theorem blockPlay_keeps {s0 s : State} {a1} (h : Keeps s0 s) : Keeps s0 (blockPlay a1 s) := by
  unfold blockPlay
  try dsimp only
  repeat' first
    | with_reducible assumption
    | with_reducible apply logEvent_keeps
    | with_reducible apply requeueRows_keeps
    | with_reducible apply deviceFault_keeps
    | with_reducible refine OutKeeps.next ?_
    | with_reducible exact OutKeeps.refused
    | with_reducible refine Keeps.foldl _ _ ?_ ?_
    | with_reducible exact FusesRise.refl _
    | with_reducible exact Nat.le_refl _
    | with_reducible exact id
    | with_reducible exact cellsWrite_wf _ _ _
    | exact ⟨Nat.le_refl _, id, fun _ => id, fun _ => id⟩
    | with_reducible refine Keeps.ite ?_ ?_
    | with_reducible refine OutKeeps.ite ?_ ?_
    | (intro _)
    | split
    | with_reducible apply Keeps.rest
    | with_reducible apply Keeps.upd

theorem commitBuf_keeps {s0 s : State} {a1 a2 a3} (h : Keeps s0 s) : Keeps s0 (commitBuf a1 a2 a3 s) := by
  unfold commitBuf
  try dsimp only
  repeat' first
    | with_reducible assumption
    | with_reducible refine OutKeeps.next ?_
    | with_reducible exact OutKeeps.refused
    | with_reducible refine Keeps.foldl _ _ ?_ ?_
    | with_reducible exact FusesRise.refl _
    | with_reducible exact Nat.le_refl _
    | with_reducible exact id
    | with_reducible exact cellsWrite_wf _ _ _
    | exact ⟨Nat.le_refl _, id, fun _ => id, fun _ => id⟩
    | with_reducible refine Keeps.ite ?_ ?_
    | with_reducible refine OutKeeps.ite ?_ ?_
    | (intro _)
    | split
    | with_reducible apply Keeps.rest
    | with_reducible apply Keeps.upd

theorem commitMove_keeps {s0 s : State} {a1} (h : Keeps s0 s) : Keeps s0 (commitMove a1 s) := by
  unfold commitMove
  try dsimp only
  repeat' first
    | with_reducible assumption
    | with_reducible apply State.modPart_keeps
    | with_reducible refine OutKeeps.next ?_
    | with_reducible exact OutKeeps.refused
    | with_reducible refine Keeps.foldl _ _ ?_ ?_
    | with_reducible exact FusesRise.refl _
    | with_reducible exact Nat.le_refl _
    | with_reducible exact id
    | with_reducible exact cellsWrite_wf _ _ _
    | exact ⟨Nat.le_refl _, id, fun _ => id, fun _ => id⟩
    | with_reducible refine Keeps.ite ?_ ?_
    | with_reducible refine OutKeeps.ite ?_ ?_
    | (intro _)
    | split
    | with_reducible apply Keeps.rest
    | with_reducible apply Keeps.upd

theorem rowLeaves_keeps {s0 s : State} {a1 a2} (h : Keeps s0 s) : Keeps s0 (rowLeaves a1 a2 s) := by
  unfold rowLeaves
  try dsimp only
  repeat' first
    | with_reducible assumption
    | with_reducible apply setLeaf_keeps
    | with_reducible apply decLeaf_keeps
    | with_reducible refine OutKeeps.next ?_
    | with_reducible exact OutKeeps.refused
    | with_reducible refine Keeps.foldl _ _ ?_ ?_
    | with_reducible exact FusesRise.refl _
    | with_reducible exact Nat.le_refl _
    | with_reducible exact id
    | with_reducible exact cellsWrite_wf _ _ _
    | exact ⟨Nat.le_refl _, id, fun _ => id, fun _ => id⟩
    | with_reducible refine Keeps.ite ?_ ?_
    | with_reducible refine OutKeeps.ite ?_ ?_
    | (intro _)
    | split
    | with_reducible apply Keeps.rest
    | with_reducible apply Keeps.upd

theorem deliver_keeps {s0 s : State} {a1 a2 a3 a4} (h : Keeps s0 s) : Keeps s0 (deliver a1 a2 a3 a4 s).2 := by
  unfold deliver
  try dsimp only
  repeat' first
    | with_reducible assumption
    | with_reducible apply logEvent_keeps
    | with_reducible apply modSession_keeps
    | with_reducible apply toIdle_keeps
    | with_reducible apply ready_keeps
    | with_reducible refine OutKeeps.next ?_
    | with_reducible exact OutKeeps.refused
    | with_reducible refine Keeps.foldl _ _ ?_ ?_
    | with_reducible exact FusesRise.refl _
    | with_reducible exact Nat.le_refl _
    | with_reducible exact id
    | with_reducible exact cellsWrite_wf _ _ _
    | exact ⟨Nat.le_refl _, id, fun _ => id, fun _ => id⟩
    | with_reducible refine Keeps.ite ?_ ?_
    | with_reducible refine OutKeeps.ite ?_ ?_
    | (intro _)
    | split
    | with_reducible apply Keeps.rest
    | with_reducible apply Keeps.upd

theorem fillSession_keeps {s0 s : State} {a1} (h : Keeps s0 s) : Keeps s0 (fillSession a1 s) := by
  unfold fillSession
  try dsimp only
  repeat' first
    | with_reducible assumption
    | with_reducible apply logEvent_keeps
    | with_reducible apply modSession_keeps
    | with_reducible refine OutKeeps.next ?_
    | with_reducible exact OutKeeps.refused
    | with_reducible refine Keeps.foldl _ _ ?_ ?_
    | with_reducible exact FusesRise.refl _
    | with_reducible exact Nat.le_refl _
    | with_reducible exact id
    | with_reducible exact cellsWrite_wf _ _ _
    | exact ⟨Nat.le_refl _, id, fun _ => id, fun _ => id⟩
    | with_reducible refine Keeps.ite ?_ ?_
    | with_reducible refine OutKeeps.ite ?_ ?_
    | (intro _)
    | split
    | with_reducible apply Keeps.rest
    | with_reducible apply Keeps.upd

theorem commitRow_keeps {s0 s : State} {a1 a2 a3 a4} (h : Keeps s0 s) : Keeps s0 (commitRow a1 a2 a3 a4 s).2 := by
  unfold commitRow
  try dsimp only
  repeat' first
    | with_reducible assumption
    | with_reducible apply rowLeaves_keeps
    | with_reducible apply setSession_keeps
    | with_reducible apply deliver_keeps
    | with_reducible apply fillSession_keeps
    | with_reducible apply ready_keeps
    | with_reducible apply toIdle_keeps
    | with_reducible refine Keeps.snd ?_ (by assumption)
    | with_reducible refine OutKeeps.next ?_
    | with_reducible exact OutKeeps.refused
    | with_reducible refine Keeps.foldl _ _ ?_ ?_
    | with_reducible exact FusesRise.refl _
    | with_reducible exact Nat.le_refl _
    | with_reducible exact id
    | with_reducible exact cellsWrite_wf _ _ _
    | exact ⟨Nat.le_refl _, id, fun _ => id, fun _ => id⟩
    | with_reducible refine Keeps.ite ?_ ?_
    | with_reducible refine OutKeeps.ite ?_ ?_
    | (intro _)
    | split
    | with_reducible apply Keeps.rest
    | with_reducible apply Keeps.upd

theorem countCommit_keeps {s0 s : State} {a1} (h : Keeps s0 s) : Keeps s0 (countCommit a1 s) := by
  unfold countCommit
  try dsimp only
  repeat' first
    | with_reducible assumption
    | with_reducible apply State.modPart_keeps
    | with_reducible refine OutKeeps.next ?_
    | with_reducible exact OutKeeps.refused
    | with_reducible refine Keeps.foldl _ _ ?_ ?_
    | with_reducible exact FusesRise.refl _
    | with_reducible exact Nat.le_refl _
    | with_reducible exact id
    | with_reducible exact cellsWrite_wf _ _ _
    | exact ⟨Nat.le_refl _, id, fun _ => id, fun _ => id⟩
    | with_reducible refine Keeps.ite ?_ ?_
    | with_reducible refine OutKeeps.ite ?_ ?_
    | (intro _)
    | split
    | with_reducible apply Keeps.rest
    | with_reducible apply Keeps.upd

theorem remapBuf_keeps {s0 s : State} {a1 a2} (h : Keeps s0 s) : Keeps s0 (remapBuf a1 a2 s) := by
  unfold remapBuf
  try dsimp only
  repeat' first
    | with_reducible assumption
    | with_reducible apply setPte_keeps
    | with_reducible apply startDrop_keeps
    | with_reducible refine OutKeeps.next ?_
    | with_reducible exact OutKeeps.refused
    | with_reducible refine Keeps.foldl _ _ ?_ ?_
    | with_reducible exact FusesRise.refl _
    | with_reducible exact Nat.le_refl _
    | with_reducible exact id
    | with_reducible exact cellsWrite_wf _ _ _
    | exact ⟨Nat.le_refl _, id, fun _ => id, fun _ => id⟩
    | with_reducible refine Keeps.ite ?_ ?_
    | with_reducible refine OutKeeps.ite ?_ ?_
    | (intro _)
    | split
    | with_reducible apply Keeps.rest
    | with_reducible apply Keeps.upd

theorem digRecord_keeps {s0 s : State} {a1 a2} (h : Keeps s0 s) : Keeps s0 (digRecord a1 a2 s) := by
  unfold digRecord
  try dsimp only
  repeat' first
    | with_reducible assumption
    | with_reducible refine OutKeeps.next ?_
    | with_reducible exact OutKeeps.refused
    | with_reducible refine Keeps.foldl _ _ ?_ ?_
    | with_reducible exact FusesRise.refl _
    | with_reducible exact Nat.le_refl _
    | with_reducible exact id
    | with_reducible exact cellsWrite_wf _ _ _
    | exact ⟨Nat.le_refl _, id, fun _ => id, fun _ => id⟩
    | with_reducible refine Keeps.ite ?_ ?_
    | with_reducible refine OutKeeps.ite ?_ ?_
    | (intro _)
    | split
    | with_reducible apply Keeps.rest
    | with_reducible apply Keeps.upd

theorem markWhole_keeps {s0 s : State} {a1 a2} (h : Keeps s0 s) : Keeps s0 (markWhole a1 a2 s) := by
  unfold markWhole
  try dsimp only
  repeat' first
    | with_reducible assumption
    | with_reducible refine OutKeeps.next ?_
    | with_reducible exact OutKeeps.refused
    | with_reducible refine Keeps.foldl _ _ ?_ ?_
    | with_reducible exact FusesRise.refl _
    | with_reducible exact Nat.le_refl _
    | with_reducible exact id
    | with_reducible exact cellsWrite_wf _ _ _
    | exact ⟨Nat.le_refl _, id, fun _ => id, fun _ => id⟩
    | with_reducible refine Keeps.ite ?_ ?_
    | with_reducible refine OutKeeps.ite ?_ ?_
    | (intro _)
    | split
    | with_reducible apply Keeps.rest
    | with_reducible apply Keeps.upd

theorem wake_keeps {s0 s : State} {a1 a2 a3} (h : Keeps s0 s) : Keeps s0 (wake a1 a2 a3 s) := by
  unfold wake
  try dsimp only
  repeat' first
    | with_reducible assumption
    | with_reducible apply State.modInst_keeps
    | with_reducible refine OutKeeps.next ?_
    | with_reducible exact OutKeeps.refused
    | with_reducible refine Keeps.foldl _ _ ?_ ?_
    | with_reducible exact FusesRise.refl _
    | with_reducible exact Nat.le_refl _
    | with_reducible exact id
    | with_reducible exact cellsWrite_wf _ _ _
    | exact ⟨Nat.le_refl _, id, fun _ => id, fun _ => id⟩
    | with_reducible refine Keeps.ite ?_ ?_
    | with_reducible refine OutKeeps.ite ?_ ?_
    | (intro _)
    | split
    | with_reducible apply Keeps.rest
    | with_reducible apply Keeps.upd

theorem commitRows_keeps {s0 s : State} {a1 : Nat} {a2 : List W32} {a3 : List Byte} {a4 : Nat} {a5 : List Row}
    (h : Keeps s0 s) : Keeps s0 (commitRows a1 a2 a3 a4 a5 s).2 := by
  induction a5 generalizing a4 s with
  | nil => exact h
  | cons r rs ih => exact ih (commitRow_keeps h)

theorem deliverTokens_keeps {s0 s : State} {a1 a2 a3 a4} (h : Keeps s0 s) : Keeps s0 (deliverTokens a1 a2 a3 a4 s) := by
  unfold deliverTokens
  try dsimp only
  repeat' first
    | with_reducible assumption
    | with_reducible apply commitRows_keeps
    | with_reducible apply modStep_keeps
    | with_reducible apply originate_keeps
    | with_reducible apply closeSession_keeps
    | with_reducible refine Keeps.snd ?_ (by assumption)
    | with_reducible refine OutKeeps.next ?_
    | with_reducible exact OutKeeps.refused
    | with_reducible refine Keeps.foldl _ _ ?_ ?_
    | with_reducible exact FusesRise.refl _
    | with_reducible exact Nat.le_refl _
    | with_reducible exact id
    | with_reducible exact cellsWrite_wf _ _ _
    | exact ⟨Nat.le_refl _, id, fun _ => id, fun _ => id⟩
    | with_reducible refine Keeps.ite ?_ ?_
    | with_reducible refine OutKeeps.ite ?_ ?_
    | (intro _)
    | split
    | with_reducible apply Keeps.rest
    | with_reducible apply Keeps.upd

theorem finishStep_keeps {s0 s : State} {a1 a2} (h : Keeps s0 s) : Keeps s0 (finishStep a1 a2 s) := by
  unfold finishStep
  try dsimp only
  repeat' first
    | with_reducible assumption
    | with_reducible apply freeReserved_keeps
    | with_reducible apply setDigPlay_keeps
    | with_reducible apply forgetStep_keeps
    | with_reducible apply settleStep_keeps
    | with_reducible refine OutKeeps.next ?_
    | with_reducible exact OutKeeps.refused
    | with_reducible refine Keeps.foldl _ _ ?_ ?_
    | with_reducible exact FusesRise.refl _
    | with_reducible exact Nat.le_refl _
    | with_reducible exact id
    | with_reducible exact cellsWrite_wf _ _ _
    | exact ⟨Nat.le_refl _, id, fun _ => id, fun _ => id⟩
    | with_reducible refine Keeps.ite ?_ ?_
    | with_reducible refine OutKeeps.ite ?_ ?_
    | (intro _)
    | split
    | with_reducible apply Keeps.rest
    | with_reducible apply Keeps.upd

theorem commitScene_keeps {s0 s : State} {a1} (h : Keeps s0 s) : Keeps s0 (commitScene a1 s) := by
  unfold commitScene
  try dsimp only
  repeat' first
    | with_reducible assumption
    | with_reducible apply countCommit_keeps
    | with_reducible apply chargeRun_keeps
    | with_reducible apply remapBuf_keeps
    | with_reducible apply commitBuf_keeps
    | with_reducible apply unmapInputs_keeps
    | with_reducible apply unmapPage_keeps
    | with_reducible apply dropRequests_keeps
    | with_reducible apply State.modPress_keeps
    | with_reducible apply State.modInst_keeps
    | with_reducible apply digRecord_keeps
    | with_reducible apply markWhole_keeps
    | with_reducible apply commitMove_keeps
    | with_reducible apply wake_keeps
    | with_reducible apply deliverTokens_keeps
    | with_reducible apply finishStep_keeps
    | with_reducible refine OutKeeps.next ?_
    | with_reducible exact OutKeeps.refused
    | with_reducible refine Keeps.foldl _ _ ?_ ?_
    | with_reducible exact FusesRise.refl _
    | with_reducible exact Nat.le_refl _
    | with_reducible exact id
    | with_reducible exact cellsWrite_wf _ _ _
    | exact ⟨Nat.le_refl _, id, fun _ => id, fun _ => id⟩
    | with_reducible refine Keeps.ite ?_ ?_
    | with_reducible refine OutKeeps.ite ?_ ?_
    | (intro _)
    | split
    | with_reducible apply Keeps.rest
    | with_reducible apply Keeps.upd

theorem coreFault_keeps {s0 s : State} {a1 a2} (h : Keeps s0 s) : Keeps s0 (coreFault a1 a2 s) := by
  unfold coreFault
  try dsimp only
  repeat' first
    | with_reducible assumption
    | with_reducible apply devWrite_keeps
    | with_reducible refine OutKeeps.next ?_
    | with_reducible exact OutKeeps.refused
    | with_reducible refine Keeps.foldl _ _ ?_ ?_
    | with_reducible exact FusesRise.refl _
    | with_reducible exact Nat.le_refl _
    | with_reducible exact id
    | with_reducible exact cellsWrite_wf _ _ _
    | exact ⟨Nat.le_refl _, id, fun _ => id, fun _ => id⟩
    | with_reducible refine Keeps.ite ?_ ?_
    | with_reducible refine OutKeeps.ite ?_ ?_
    | (intro _)
    | split
    | with_reducible apply Keeps.rest
    | with_reducible apply Keeps.upd

theorem sceneFault_keeps {s0 s : State} {a1 a2 a3 a4} (h : Keeps s0 s) : Keeps s0 (sceneFault a1 a2 a3 a4 s) := by
  unfold sceneFault
  try dsimp only
  repeat' first
    | with_reducible assumption
    | with_reducible apply killInst_keeps
    | with_reducible apply State.modInst_keeps
    | with_reducible apply logEvent_keeps
    | with_reducible apply blockPlay_keeps
    | with_reducible refine OutKeeps.next ?_
    | with_reducible exact OutKeeps.refused
    | with_reducible refine Keeps.foldl _ _ ?_ ?_
    | with_reducible exact FusesRise.refl _
    | with_reducible exact Nat.le_refl _
    | with_reducible exact id
    | with_reducible exact cellsWrite_wf _ _ _
    | exact ⟨Nat.le_refl _, id, fun _ => id, fun _ => id⟩
    | with_reducible refine Keeps.ite ?_ ?_
    | with_reducible refine OutKeeps.ite ?_ ?_
    | (intro _)
    | split
    | with_reducible apply Keeps.rest
    | with_reducible apply Keeps.upd

theorem execPartCommitRequest_keeps {s0 s : State} {a1 a2 a3 a4} (h : Keeps s0 s) : OutKeeps s0 (execPartCommitRequest a1 a2 a3
    a4 s) := by
  unfold execPartCommitRequest
  try dsimp only
  repeat' first
    | with_reducible assumption
    | with_reducible apply State.at_keeps
    | with_reducible apply memErrs_keeps
    | with_reducible apply State.modInst_keeps
    | with_reducible refine OutKeeps.next ?_
    | with_reducible exact OutKeeps.refused
    | with_reducible refine Keeps.foldl _ _ ?_ ?_
    | with_reducible exact FusesRise.refl _
    | with_reducible exact Nat.le_refl _
    | with_reducible exact id
    | with_reducible exact cellsWrite_wf _ _ _
    | exact ⟨Nat.le_refl _, id, fun _ => id, fun _ => id⟩
    | with_reducible refine Keeps.ite ?_ ?_
    | with_reducible refine OutKeeps.ite ?_ ?_
    | (intro _)
    | split
    | with_reducible apply Keeps.rest
    | with_reducible apply Keeps.upd

theorem restoreCopy_keeps {s0 s : State} {a1} (h : Keeps s0 s) : Keeps s0 (restoreCopy a1 s) := by
  unfold restoreCopy
  try dsimp only
  repeat' first
    | with_reducible assumption
    | with_reducible apply logEvent_keeps
    | with_reducible apply countRestored_keeps
    | with_reducible apply devWrite_keeps
    | with_reducible refine OutKeeps.next ?_
    | with_reducible exact OutKeeps.refused
    | with_reducible refine Keeps.foldl _ _ ?_ ?_
    | with_reducible exact FusesRise.refl _
    | with_reducible exact Nat.le_refl _
    | with_reducible exact id
    | with_reducible exact cellsWrite_wf _ _ _
    | exact ⟨Nat.le_refl _, id, fun _ => id, fun _ => id⟩
    | with_reducible refine Keeps.ite ?_ ?_
    | with_reducible refine OutKeeps.ite ?_ ?_
    | (intro _)
    | split
    | with_reducible apply Keeps.rest
    | with_reducible apply Keeps.upd

theorem execRelowerComplete_keeps {s0 s : State} {a1 a2} (h : Keeps s0 s) : OutKeeps s0 (execRelowerComplete a1 a2 s) := by
  unfold execRelowerComplete
  try dsimp only
  repeat' first
    | with_reducible assumption
    | with_reducible apply State.at_keeps
    | with_reducible apply restoreCopy_keeps
    | with_reducible apply State.modInst_keeps
    | with_reducible refine OutKeeps.next ?_
    | with_reducible exact OutKeeps.refused
    | with_reducible refine Keeps.foldl _ _ ?_ ?_
    | with_reducible exact FusesRise.refl _
    | with_reducible exact Nat.le_refl _
    | with_reducible exact id
    | with_reducible exact cellsWrite_wf _ _ _
    | exact ⟨Nat.le_refl _, id, fun _ => id, fun _ => id⟩
    | with_reducible refine Keeps.ite ?_ ?_
    | with_reducible refine OutKeeps.ite ?_ ?_
    | (intro _)
    | split
    | with_reducible apply Keeps.rest
    | with_reducible apply Keeps.upd

theorem execSceneAdmission_keeps {s0 s : State} {a1 a2} (h : Keeps s0 s) : OutKeeps s0 (execSceneAdmission a1 a2 s) := by
  unfold execSceneAdmission
  try dsimp only
  repeat' first
    | with_reducible assumption
    | with_reducible apply placeDisplaced_keeps
    | with_reducible apply reRun_keeps
    | with_reducible apply State.at_keeps
    | with_reducible apply admitScene_keeps
    | with_reducible apply coreFault_keeps
    | with_reducible apply admitSlice_keeps
    | with_reducible refine OutKeeps.next ?_
    | with_reducible exact OutKeeps.refused
    | with_reducible refine Keeps.foldl _ _ ?_ ?_
    | with_reducible exact FusesRise.refl _
    | with_reducible exact Nat.le_refl _
    | with_reducible exact id
    | with_reducible exact cellsWrite_wf _ _ _
    | exact ⟨Nat.le_refl _, id, fun _ => id, fun _ => id⟩
    | with_reducible refine Keeps.ite ?_ ?_
    | with_reducible refine OutKeeps.ite ?_ ?_
    | (intro _)
    | split
    | with_reducible apply Keeps.rest
    | with_reducible apply Keeps.upd

theorem execSceneCommit_keeps {s0 s : State} {a1 a2} (h : Keeps s0 s) : OutKeeps s0 (execSceneCommit a1 a2 s) := by
  unfold execSceneCommit
  try dsimp only
  repeat' first
    | with_reducible assumption
    | with_reducible apply State.at_keeps
    | with_reducible apply commitScene_keeps
    | with_reducible refine OutKeeps.next ?_
    | with_reducible exact OutKeeps.refused
    | with_reducible refine Keeps.foldl _ _ ?_ ?_
    | with_reducible exact FusesRise.refl _
    | with_reducible exact Nat.le_refl _
    | with_reducible exact id
    | with_reducible exact cellsWrite_wf _ _ _
    | exact ⟨Nat.le_refl _, id, fun _ => id, fun _ => id⟩
    | with_reducible refine Keeps.ite ?_ ?_
    | with_reducible refine OutKeeps.ite ?_ ?_
    | (intro _)
    | split
    | with_reducible apply Keeps.rest
    | with_reducible apply Keeps.upd

theorem execSceneWatchdogExpiry_keeps {s0 s : State} {a1 a2} (h : Keeps s0 s) : OutKeeps s0 (execSceneWatchdogExpiry a1 a2 s) :=
    by
  unfold execSceneWatchdogExpiry
  try dsimp only
  repeat' first
    | with_reducible assumption
    | with_reducible apply State.at_keeps
    | with_reducible apply logEvent_keeps
    | with_reducible apply State.modInst_keeps
    | with_reducible apply detect_keeps
    | with_reducible apply suspectUnit_keeps
    | with_reducible apply killElsewhere_keeps
    | with_reducible apply blockPlay_keeps
    | with_reducible apply abandonInst_keeps
    | with_reducible refine OutKeeps.next ?_
    | with_reducible exact OutKeeps.refused
    | with_reducible refine Keeps.foldl _ _ ?_ ?_
    | with_reducible exact FusesRise.refl _
    | with_reducible exact Nat.le_refl _
    | with_reducible exact id
    | with_reducible exact cellsWrite_wf _ _ _
    | exact ⟨Nat.le_refl _, id, fun _ => id, fun _ => id⟩
    | with_reducible refine Keeps.ite ?_ ?_
    | with_reducible refine OutKeeps.ite ?_ ?_
    | (intro _)
    | split
    | with_reducible apply Keeps.rest
    | with_reducible apply Keeps.upd

theorem execSequencerTimeout_keeps {s0 s : State} {a1 a2 a3} (h : Keeps s0 s) : OutKeeps s0 (execSequencerTimeout a1 a2 a3 s) :=
    by
  unfold execSequencerTimeout
  try dsimp only
  repeat' first
    | with_reducible assumption
    | with_reducible apply State.at_keeps
    | with_reducible apply strike_keeps
    | with_reducible apply logEvent_keeps
    | with_reducible refine OutKeeps.next ?_
    | with_reducible exact OutKeeps.refused
    | with_reducible refine Keeps.foldl _ _ ?_ ?_
    | with_reducible exact FusesRise.refl _
    | with_reducible exact Nat.le_refl _
    | with_reducible exact id
    | with_reducible exact cellsWrite_wf _ _ _
    | exact ⟨Nat.le_refl _, id, fun _ => id, fun _ => id⟩
    | with_reducible refine Keeps.ite ?_ ?_
    | with_reducible refine OutKeeps.ite ?_ ?_
    | (intro _)
    | split
    | with_reducible apply Keeps.rest
    | with_reducible apply Keeps.upd

theorem formStep_keeps {s0 s : State} {a1} (h : Keeps s0 s) : Keeps s0 (formStep a1 s) := by
  unfold formStep
  try dsimp only
  repeat' first
    | with_reducible assumption
    | with_reducible apply formRows_keeps
    | with_reducible apply logOnce_keeps
    | with_reducible apply modSession_keeps
    | with_reducible apply formRun_keeps
    | with_reducible refine Keeps.snd ?_ (by assumption)
    | with_reducible refine OutKeeps.next ?_
    | with_reducible exact OutKeeps.refused
    | with_reducible refine Keeps.foldl _ _ ?_ ?_
    | with_reducible exact FusesRise.refl _
    | with_reducible exact Nat.le_refl _
    | with_reducible exact id
    | with_reducible exact cellsWrite_wf _ _ _
    | exact ⟨Nat.le_refl _, id, fun _ => id, fun _ => id⟩
    | with_reducible refine Keeps.ite ?_ ?_
    | with_reducible refine OutKeeps.ite ?_ ?_
    | (intro _)
    | split
    | with_reducible apply Keeps.rest
    | with_reducible apply Keeps.upd

theorem execStepFormation_keeps {s0 s : State} {a1 a2} (h : Keeps s0 s) : OutKeeps s0 (execStepFormation a1 a2 s) := by
  unfold execStepFormation
  try dsimp only
  repeat' first
    | with_reducible assumption
    | with_reducible apply State.at_keeps
    | with_reducible apply formStep_keeps
    | with_reducible apply logOnce_keeps
    | with_reducible refine OutKeeps.next ?_
    | with_reducible exact OutKeeps.refused
    | with_reducible refine Keeps.foldl _ _ ?_ ?_
    | with_reducible exact FusesRise.refl _
    | with_reducible exact Nat.le_refl _
    | with_reducible exact id
    | with_reducible exact cellsWrite_wf _ _ _
    | exact ⟨Nat.le_refl _, id, fun _ => id, fun _ => id⟩
    | with_reducible refine Keeps.ite ?_ ?_
    | with_reducible refine OutKeeps.ite ?_ ?_
    | (intro _)
    | split
    | with_reducible apply Keeps.rest
    | with_reducible apply Keeps.upd

end Sys2Proof.Machine
end

