-- ==== Sys2Proof/Laws/KeepsPress.lean ====
section
/-! SUPPORT. What the operations of Machine/Press.lean keep. -/

namespace Sys2Proof.Machine

theorem execAccumulatorError_keeps {s0 s : State} {a1 a2 a3} (h : Keeps s0 s) : OutKeeps s0 (execAccumulatorError a1 a2 a3 s) :=
    by
  unfold execAccumulatorError
  try dsimp only
  repeat' first
    | with_reducible assumption
    | with_reducible apply State.at_keeps
    | with_reducible apply killElsewhere_keeps
    | with_reducible apply logEvent_keeps
    | with_reducible apply suspectUnit_keeps
    | with_reducible refine OutKeeps.next ?_
    | with_reducible exact OutKeeps.refused
    | with_reducible refine Keeps.foldl _ _ ?_ ?_
    | with_reducible exact FusesRise.refl _
    | with_reducible exact Nat.le_refl _
    | with_reducible exact id
    | with_reducible exact cellsWrite_wf _ _ _
    | exact ⟨Nat.le_refl _, id, fun _ => id, fun _ => id⟩
    | with_reducible refine Keeps.ite ?_ ?_
    | with_reducible refine OutKeeps.ite ?_ ?_
    | (intro _)
    | split
    | with_reducible apply Keeps.rest
    | with_reducible apply Keeps.upd

theorem translationFault_keeps {s0 s : State} {a1 a2 a3 a4} (h : Keeps s0 s) : Keeps s0 (translationFault a1 a2 a3 a4 s) := by
  unfold translationFault
  try dsimp only
  repeat' first
    | with_reducible assumption
    | with_reducible apply sceneFault_keeps
    | with_reducible apply logEvent_keeps
    | with_reducible refine OutKeeps.next ?_
    | with_reducible exact OutKeeps.refused
    | with_reducible refine Keeps.foldl _ _ ?_ ?_
    | with_reducible exact FusesRise.refl _
    | with_reducible exact Nat.le_refl _
    | with_reducible exact id
    | with_reducible exact cellsWrite_wf _ _ _
    | exact ⟨Nat.le_refl _, id, fun _ => id, fun _ => id⟩
    | with_reducible refine Keeps.ite ?_ ?_
    | with_reducible refine OutKeeps.ite ?_ ?_
    | (intro _)
    | split
    | with_reducible apply Keeps.rest
    | with_reducible apply Keeps.upd

theorem feed_keeps {s0 s : State} {a1 a2} (h : Keeps s0 s) : Keeps s0 (feed a1 a2 s) := by
  unfold feed
  try dsimp only
  repeat' first
    | with_reducible assumption
    | with_reducible apply State.modPress_keeps
    | with_reducible refine OutKeeps.next ?_
    | with_reducible exact OutKeeps.refused
    | with_reducible refine Keeps.foldl _ _ ?_ ?_
    | with_reducible exact FusesRise.refl _
    | with_reducible exact Nat.le_refl _
    | with_reducible exact id
    | with_reducible exact cellsWrite_wf _ _ _
    | exact ⟨Nat.le_refl _, id, fun _ => id, fun _ => id⟩
    | with_reducible refine Keeps.ite ?_ ?_
    | with_reducible refine OutKeeps.ite ?_ ?_
    | (intro _)
    | split
    | with_reducible apply Keeps.rest
    | with_reducible apply Keeps.upd

theorem pump_keeps {s0 s : State} {a1 : Fin 16} {a2 : Nat} (h : Keeps s0 s) : Keeps s0 (pump a1 a2 s) := by
  induction a2 generalizing s with
  | zero => exact h
  | succ n ih =>
    unfold pump
    dsimp only
    split
    · split
      · exact feed_keeps h
      · exact ih (feed_keeps h)
    · exact h
    · split
      · exact ih (State.modPress_keeps h)
      · exact h

theorem pumpAll_keeps {s0 s : State} {a1} (h : Keeps s0 s) : Keeps s0 (pumpAll a1 s) := by
  unfold pumpAll
  try dsimp only
  repeat' first
    | with_reducible assumption
    | with_reducible apply pump_keeps
    | with_reducible refine OutKeeps.next ?_
    | with_reducible exact OutKeeps.refused
    | with_reducible refine Keeps.foldl _ _ ?_ ?_
    | with_reducible exact FusesRise.refl _
    | with_reducible exact Nat.le_refl _
    | with_reducible exact id
    | with_reducible exact cellsWrite_wf _ _ _
    | exact ⟨Nat.le_refl _, id, fun _ => id, fun _ => id⟩
    | with_reducible refine Keeps.ite ?_ ?_
    | with_reducible refine OutKeeps.ite ?_ ?_
    | (intro _)
    | split
    | with_reducible apply Keeps.rest
    | with_reducible apply Keeps.upd

theorem execGroupDrain_keeps {s0 s : State} {a1 a2 a3} (h : Keeps s0 s) : OutKeeps s0 (execGroupDrain a1 a2 a3 s) := by
  unfold execGroupDrain
  try dsimp only
  repeat' first
    | with_reducible assumption
    | with_reducible apply State.at_keeps
    | with_reducible apply State.modPress_keeps
    | with_reducible apply pumpAll_keeps
    | with_reducible refine OutKeeps.next ?_
    | with_reducible exact OutKeeps.refused
    | with_reducible refine Keeps.foldl _ _ ?_ ?_
    | with_reducible exact FusesRise.refl _
    | with_reducible exact Nat.le_refl _
    | with_reducible exact id
    | with_reducible exact cellsWrite_wf _ _ _
    | exact ⟨Nat.le_refl _, id, fun _ => id, fun _ => id⟩
    | with_reducible refine Keeps.ite ?_ ?_
    | with_reducible refine OutKeeps.ite ?_ ?_
    | (intro _)
    | split
    | with_reducible apply Keeps.rest
    | with_reducible apply Keeps.upd

theorem permanent_keeps {s0 s : State} {a1 a2} (h : Keeps s0 s) : Keeps s0 (permanent a1 a2 s) := by
  unfold permanent
  try dsimp only
  repeat' first
    | with_reducible assumption
    | with_reducible apply logEvent_keeps
    | with_reducible apply killInst_keeps
    | with_reducible apply strike_keeps
    | with_reducible refine OutKeeps.next ?_
    | with_reducible exact OutKeeps.refused
    | with_reducible refine Keeps.foldl _ _ ?_ ?_
    | with_reducible exact FusesRise.refl _
    | with_reducible exact Nat.le_refl _
    | with_reducible exact id
    | with_reducible exact cellsWrite_wf _ _ _
    | exact ⟨Nat.le_refl _, id, fun _ => id, fun _ => id⟩
    | with_reducible refine Keeps.ite ?_ ?_
    | with_reducible refine OutKeeps.ite ?_ ?_
    | (intro _)
    | split
    | with_reducible apply Keeps.rest
    | with_reducible apply Keeps.upd

theorem repeatFails_keeps {s0 s : State} {a1 a2 a3 a4 a5 a6} (h : Keeps s0 s) : Keeps s0 (repeatFails a1 a2 a3 a4 a5 a6 s) := by
  unfold repeatFails
  try dsimp only
  repeat' first
    | with_reducible assumption
    | with_reducible apply permanent_keeps
    | with_reducible apply State.modPress_keeps
    | with_reducible refine OutKeeps.next ?_
    | with_reducible exact OutKeeps.refused
    | with_reducible refine Keeps.foldl _ _ ?_ ?_
    | with_reducible exact FusesRise.refl _
    | with_reducible exact Nat.le_refl _
    | with_reducible exact id
    | with_reducible exact cellsWrite_wf _ _ _
    | exact ⟨Nat.le_refl _, id, fun _ => id, fun _ => id⟩
    | with_reducible refine Keeps.ite ?_ ?_
    | with_reducible refine OutKeeps.ite ?_ ?_
    | (intro _)
    | split
    | with_reducible apply Keeps.rest
    | with_reducible apply Keeps.upd

theorem transient_keeps {s0 s : State} {a1 a2} (h : Keeps s0 s) : Keeps s0 (transient a1 a2 s) := by
  unfold transient
  try dsimp only
  repeat' first
    | with_reducible assumption
    | with_reducible apply countTransient_keeps
    | with_reducible apply logEvent_keeps
    | with_reducible refine OutKeeps.next ?_
    | with_reducible exact OutKeeps.refused
    | with_reducible refine Keeps.foldl _ _ ?_ ?_
    | with_reducible exact FusesRise.refl _
    | with_reducible exact Nat.le_refl _
    | with_reducible exact id
    | with_reducible exact cellsWrite_wf _ _ _
    | exact ⟨Nat.le_refl _, id, fun _ => id, fun _ => id⟩
    | with_reducible refine Keeps.ite ?_ ?_
    | with_reducible refine OutKeeps.ite ?_ ?_
    | (intro _)
    | split
    | with_reducible apply Keeps.rest
    | with_reducible apply Keeps.upd

theorem reloads_keeps {s0 s : State} {a1 a2} (h : Keeps s0 s) : Keeps s0 (reloads a1 a2 s) := by
  unfold reloads
  try dsimp only
  repeat' first
    | with_reducible assumption
    | with_reducible apply transient_keeps
    | with_reducible refine OutKeeps.next ?_
    | with_reducible exact OutKeeps.refused
    | with_reducible refine Keeps.foldl _ _ ?_ ?_
    | with_reducible exact FusesRise.refl _
    | with_reducible exact Nat.le_refl _
    | with_reducible exact id
    | with_reducible exact cellsWrite_wf _ _ _
    | exact ⟨Nat.le_refl _, id, fun _ => id, fun _ => id⟩
    | with_reducible refine Keeps.ite ?_ ?_
    | with_reducible refine OutKeeps.ite ?_ ?_
    | (intro _)
    | split
    | with_reducible apply Keeps.rest
    | with_reducible apply Keeps.upd

theorem execPlatenRepeatVerdict_keeps {s0 s : State} {a1 a2 a3} (h : Keeps s0 s) : OutKeeps s0 (execPlatenRepeatVerdict a1 a2 a3
    s) := by
  unfold execPlatenRepeatVerdict
  try dsimp only
  repeat' first
    | with_reducible assumption
    | with_reducible apply State.at_keeps
    | with_reducible apply repeatFails_keeps
    | with_reducible apply State.modPress_keeps
    | with_reducible apply pumpAll_keeps
    | with_reducible apply reloads_keeps
    | with_reducible apply transient_keeps
    | with_reducible refine OutKeeps.next ?_
    | with_reducible exact OutKeeps.refused
    | with_reducible refine Keeps.foldl _ _ ?_ ?_
    | with_reducible exact FusesRise.refl _
    | with_reducible exact Nat.le_refl _
    | with_reducible exact id
    | with_reducible exact cellsWrite_wf _ _ _
    | exact ⟨Nat.le_refl _, id, fun _ => id, fun _ => id⟩
    | with_reducible refine Keeps.ite ?_ ?_
    | with_reducible refine OutKeeps.ite ?_ ?_
    | (intro _)
    | split
    | with_reducible apply Keeps.rest
    | with_reducible apply Keeps.upd

theorem illegalOp_keeps {s0 s : State} {a1 a2 a3 a4} (h : Keeps s0 s) : Keeps s0 (illegalOp a1 a2 a3 a4 s) := by
  unfold illegalOp
  try dsimp only
  repeat' first
    | with_reducible assumption
    | with_reducible apply sceneFault_keeps
    | with_reducible apply logEvent_keeps
    | with_reducible refine OutKeeps.next ?_
    | with_reducible exact OutKeeps.refused
    | with_reducible refine Keeps.foldl _ _ ?_ ?_
    | with_reducible exact FusesRise.refl _
    | with_reducible exact Nat.le_refl _
    | with_reducible exact id
    | with_reducible exact cellsWrite_wf _ _ _
    | exact ⟨Nat.le_refl _, id, fun _ => id, fun _ => id⟩
    | with_reducible refine Keeps.ite ?_ ?_
    | with_reducible refine OutKeeps.ite ?_ ?_
    | (intro _)
    | split
    | with_reducible apply Keeps.rest
    | with_reducible apply Keeps.upd

theorem execPress_keeps {s0 s : State} {a1 a2 a3 a4 a5 a6} (h : Keeps s0 s) : OutKeeps s0 (execPress a1 a2 a3 a4 a5 a6 s) := by
  unfold execPress
  try dsimp only
  repeat' first
    | with_reducible assumption
    | with_reducible apply State.at_keeps
    | with_reducible apply waitHand_keeps
    | with_reducible apply illegalOp_keeps
    | with_reducible apply memErrs_keeps
    | with_reducible apply State.modPress_keeps
    | with_reducible apply meetBarrier_keeps
    | with_reducible apply pumpAll_keeps
    | with_reducible refine OutKeeps.next ?_
    | with_reducible exact OutKeeps.refused
    | with_reducible refine Keeps.foldl _ _ ?_ ?_
    | with_reducible exact FusesRise.refl _
    | with_reducible exact Nat.le_refl _
    | with_reducible exact id
    | with_reducible exact cellsWrite_wf _ _ _
    | exact ⟨Nat.le_refl _, id, fun _ => id, fun _ => id⟩
    | with_reducible refine Keeps.ite ?_ ?_
    | with_reducible refine OutKeeps.ite ?_ ?_
    | (intro _)
    | split
    | with_reducible apply Keeps.rest
    | with_reducible apply Keeps.upd

theorem execRowReadyUpdate_keeps {s0 s : State} {a1 a2 a3 a4 a5} (h : Keeps s0 s) : OutKeeps s0 (execRowReadyUpdate a1 a2 a3 a4
    a5 s) := by
  unfold execRowReadyUpdate
  try dsimp only
  repeat' first
    | with_reducible assumption
    | with_reducible apply State.at_keeps
    | with_reducible apply State.modPress_keeps
    | with_reducible refine OutKeeps.next ?_
    | with_reducible exact OutKeeps.refused
    | with_reducible refine Keeps.foldl _ _ ?_ ?_
    | with_reducible exact FusesRise.refl _
    | with_reducible exact Nat.le_refl _
    | with_reducible exact id
    | with_reducible exact cellsWrite_wf _ _ _
    | exact ⟨Nat.le_refl _, id, fun _ => id, fun _ => id⟩
    | with_reducible refine Keeps.ite ?_ ?_
    | with_reducible refine OutKeeps.ite ?_ ?_
    | (intro _)
    | split
    | with_reducible apply Keeps.rest
    | with_reducible apply Keeps.upd

theorem execSequencerLockstepMismatch_keeps {s0 s : State} {a1 a2 a3} (h : Keeps s0 s) : OutKeeps s0
    (execSequencerLockstepMismatch a1 a2 a3 s) := by
  unfold execSequencerLockstepMismatch
  try dsimp only
  repeat' first
    | with_reducible assumption
    | with_reducible apply State.at_keeps
    | with_reducible apply logEvent_keeps
    | with_reducible apply detect_keeps
    | with_reducible apply strike_keeps
    | with_reducible apply State.modPress_keeps
    | with_reducible refine OutKeeps.next ?_
    | with_reducible exact OutKeeps.refused
    | with_reducible refine Keeps.foldl _ _ ?_ ?_
    | with_reducible exact FusesRise.refl _
    | with_reducible exact Nat.le_refl _
    | with_reducible exact id
    | with_reducible exact cellsWrite_wf _ _ _
    | exact ⟨Nat.le_refl _, id, fun _ => id, fun _ => id⟩
    | with_reducible refine Keeps.ite ?_ ?_
    | with_reducible refine OutKeeps.ite ?_ ?_
    | (intro _)
    | split
    | with_reducible apply Keeps.rest
    | with_reducible apply Keeps.upd

theorem execShadowLoadComplete_keeps {s0 s : State} {a1 a2 a3 a4} (h : Keeps s0 s) : OutKeeps s0 (execShadowLoadComplete a1 a2
    a3 a4 s) := by
  unfold execShadowLoadComplete
  try dsimp only
  repeat' first
    | with_reducible assumption
    | with_reducible apply State.at_keeps
    | with_reducible apply permanent_keeps
    | with_reducible apply State.modPress_keeps
    | with_reducible apply pumpAll_keeps
    | with_reducible apply reloads_keeps
    | with_reducible refine OutKeeps.next ?_
    | with_reducible exact OutKeeps.refused
    | with_reducible refine Keeps.foldl _ _ ?_ ?_
    | with_reducible exact FusesRise.refl _
    | with_reducible exact Nat.le_refl _
    | with_reducible exact id
    | with_reducible exact cellsWrite_wf _ _ _
    | exact ⟨Nat.le_refl _, id, fun _ => id, fun _ => id⟩
    | with_reducible refine Keeps.ite ?_ ?_
    | with_reducible refine OutKeeps.ite ?_ ?_
    | (intro _)
    | split
    | with_reducible apply Keeps.rest
    | with_reducible apply Keeps.upd

end Sys2Proof.Machine
end

