-- ==== Sys2Proof/Laws/KeepsCompositor.lean ====
section
/-! SUPPORT. What the operations of Machine/Compositor.lean keep. -/

namespace Sys2Proof.Machine

theorem playWrite_keeps {s0 s : State} {a1 a2 a3} (h : Keeps s0 s) : Keeps s0 (playWrite a1 a2 a3 s) := by
  unfold playWrite
  try dsimp only
  repeat' first
    | with_reducible assumption
    | with_reducible apply devWrite_keeps
    | with_reducible refine OutKeeps.next ?_
    | with_reducible exact OutKeeps.refused
    | with_reducible refine Keeps.foldl _ _ ?_ ?_
    | with_reducible exact FusesRise.refl _
    | with_reducible exact Nat.le_refl _
    | with_reducible exact id
    | with_reducible exact cellsWrite_wf _ _ _
    | exact ⟨Nat.le_refl _, id, fun _ => id, fun _ => id⟩
    | with_reducible refine Keeps.ite ?_ ?_
    | with_reducible refine OutKeeps.ite ?_ ?_
    | (intro _)
    | split
    | with_reducible apply Keeps.rest
    | with_reducible apply Keeps.upd

theorem compEffect_keeps {s0 s : State} {a1 a2 a3 a4} (h : Keeps s0 s) : Keeps s0 (compEffect a1 a2 a3 a4 s) := by
  unfold compEffect
  try dsimp only
  repeat' first
    | with_reducible assumption
    | with_reducible apply playWrite_keeps
    | with_reducible apply State.modPress_keeps
    | with_reducible apply caseWrite_keeps
    | with_reducible refine OutKeeps.next ?_
    | with_reducible exact OutKeeps.refused
    | with_reducible refine Keeps.foldl _ _ ?_ ?_
    | with_reducible exact FusesRise.refl _
    | with_reducible exact Nat.le_refl _
    | with_reducible exact id
    | with_reducible exact cellsWrite_wf _ _ _
    | exact ⟨Nat.le_refl _, id, fun _ => id, fun _ => id⟩
    | with_reducible refine Keeps.ite ?_ ?_
    | with_reducible refine OutKeeps.ite ?_ ?_
    | (intro _)
    | split
    | with_reducible apply Keeps.rest
    | with_reducible apply Keeps.upd

theorem compNext_keeps {s0 s : State} {a1 a2} (h : Keeps s0 s) : Keeps s0 (compNext a1 a2 s) := by
  unfold compNext
  try dsimp only
  repeat' first
    | with_reducible assumption
    | with_reducible apply State.modPress_keeps
    | with_reducible refine OutKeeps.next ?_
    | with_reducible exact OutKeeps.refused
    | with_reducible refine Keeps.foldl _ _ ?_ ?_
    | with_reducible exact FusesRise.refl _
    | with_reducible exact Nat.le_refl _
    | with_reducible exact id
    | with_reducible exact cellsWrite_wf _ _ _
    | exact ⟨Nat.le_refl _, id, fun _ => id, fun _ => id⟩
    | with_reducible refine Keeps.ite ?_ ?_
    | with_reducible refine OutKeeps.ite ?_ ?_
    | (intro _)
    | split
    | with_reducible apply Keeps.rest
    | with_reducible apply Keeps.upd

theorem execCompositorTimeout_keeps {s0 s : State} {a1 a2 a3} (h : Keeps s0 s) : OutKeeps s0 (execCompositorTimeout a1 a2 a3 s)
    := by
  unfold execCompositorTimeout
  try dsimp only
  repeat' first
    | with_reducible assumption
    | with_reducible apply State.at_keeps
    | with_reducible apply killElsewhere_keeps
    | with_reducible apply logEvent_keeps
    | with_reducible apply suspectUnit_keeps
    | with_reducible refine OutKeeps.next ?_
    | with_reducible exact OutKeeps.refused
    | with_reducible refine Keeps.foldl _ _ ?_ ?_
    | with_reducible exact FusesRise.refl _
    | with_reducible exact Nat.le_refl _
    | with_reducible exact id
    | with_reducible exact cellsWrite_wf _ _ _
    | exact ⟨Nat.le_refl _, id, fun _ => id, fun _ => id⟩
    | with_reducible refine Keeps.ite ?_ ?_
    | with_reducible refine OutKeeps.ite ?_ ?_
    | (intro _)
    | split
    | with_reducible apply Keeps.rest
    | with_reducible apply Keeps.upd

theorem execCompositorWrite_keeps {s0 s : State} {a1 a2 a3 a4 a5 a6 a7 a8 a9} (h : Keeps s0 s) : OutKeeps s0
    (execCompositorWrite a1 a2 a3 a4 a5 a6 a7 a8 a9 s) := by
  unfold execCompositorWrite
  try dsimp only
  repeat' first
    | with_reducible assumption
    | with_reducible apply State.at_keeps
    | with_reducible apply tagErrs_keeps
    | with_reducible apply waitHand_keeps
    | with_reducible apply translationFault_keeps
    | with_reducible apply poisonRead_keeps
    | with_reducible apply memErrs_keeps
    | with_reducible apply askBlocks_keeps
    | with_reducible apply compEffect_keeps
    | with_reducible apply State.modPress_keeps
    | with_reducible apply meetBarrier_keeps
    | with_reducible apply pumpAll_keeps
    | with_reducible apply compNext_keeps
    | with_reducible refine OutKeeps.next ?_
    | with_reducible exact OutKeeps.refused
    | with_reducible refine Keeps.foldl _ _ ?_ ?_
    | with_reducible exact FusesRise.refl _
    | with_reducible exact Nat.le_refl _
    | with_reducible exact id
    | with_reducible exact cellsWrite_wf _ _ _
    | exact ⟨Nat.le_refl _, id, fun _ => id, fun _ => id⟩
    | with_reducible refine Keeps.ite ?_ ?_
    | with_reducible refine OutKeeps.ite ?_ ?_
    | (intro _)
    | split
    | with_reducible apply Keeps.rest
    | with_reducible apply Keeps.upd

theorem execXfer_keeps {s0 s : State} {a1 a2 a3 a4 a5 a6} (h : Keeps s0 s) : OutKeeps s0 (execXfer a1 a2 a3 a4 a5 a6 s) := by
  unfold execXfer
  try dsimp only
  repeat' first
    | with_reducible assumption
    | with_reducible apply State.at_keeps
    | with_reducible apply tagErrs_keeps
    | with_reducible apply waitHand_keeps
    | with_reducible apply illegalOp_keeps
    | with_reducible apply translationFault_keeps
    | with_reducible apply poisonRead_keeps
    | with_reducible apply memErrs_keeps
    | with_reducible apply askBlocks_keeps
    | with_reducible apply playWrite_keeps
    | with_reducible apply State.modInst_keeps
    | with_reducible apply meetBarrier_keeps
    | with_reducible apply State.modPress_keeps
    | with_reducible refine OutKeeps.next ?_
    | with_reducible exact OutKeeps.refused
    | with_reducible refine Keeps.foldl _ _ ?_ ?_
    | with_reducible exact FusesRise.refl _
    | with_reducible exact Nat.le_refl _
    | with_reducible exact id
    | with_reducible exact cellsWrite_wf _ _ _
    | exact ⟨Nat.le_refl _, id, fun _ => id, fun _ => id⟩
    | with_reducible refine Keeps.ite ?_ ?_
    | with_reducible refine OutKeeps.ite ?_ ?_
    | (intro _)
    | split
    | with_reducible apply Keeps.rest
    | with_reducible apply Keeps.upd

theorem execXferComplete_keeps {s0 s : State} {a1 a2 a3} (h : Keeps s0 s) : OutKeeps s0 (execXferComplete a1 a2 a3 s) := by
  unfold execXferComplete
  try dsimp only
  repeat' first
    | with_reducible assumption
    | with_reducible apply State.at_keeps
    | with_reducible apply State.modPress_keeps
    | with_reducible refine OutKeeps.next ?_
    | with_reducible exact OutKeeps.refused
    | with_reducible refine Keeps.foldl _ _ ?_ ?_
    | with_reducible exact FusesRise.refl _
    | with_reducible exact Nat.le_refl _
    | with_reducible exact id
    | with_reducible exact cellsWrite_wf _ _ _
    | exact ⟨Nat.le_refl _, id, fun _ => id, fun _ => id⟩
    | with_reducible refine Keeps.ite ?_ ?_
    | with_reducible refine OutKeeps.ite ?_ ?_
    | (intro _)
    | split
    | with_reducible apply Keeps.rest
    | with_reducible apply Keeps.upd

end Sys2Proof.Machine
end

