-- ==== Sys2Proof/Laws/KeepsStartup.lean ====
section
/-! SUPPORT. What the operations of Machine/Startup.lean keep. -/

namespace Sys2Proof.Machine

theorem interruptUpdate_keeps {s0 s : State} {a1} (h : Keeps s0 s) : Keeps s0 (interruptUpdate a1 s) := by
  unfold interruptUpdate
  try dsimp only
  repeat' first
    | with_reducible assumption
    | with_reducible apply enterBlank_keeps
    | with_reducible apply logEvent_keeps
    | with_reducible refine OutKeeps.next ?_
    | with_reducible exact OutKeeps.refused
    | with_reducible refine Keeps.foldl _ _ ?_ ?_
    | with_reducible exact FusesRise.refl _
    | with_reducible exact Nat.le_refl _
    | with_reducible exact id
    | with_reducible exact cellsWrite_wf _ _ _
    | exact ⟨Nat.le_refl _, id, fun _ => id, fun _ => id⟩
    | with_reducible refine Keeps.ite ?_ ?_
    | with_reducible refine OutKeeps.ite ?_ ?_
    | (intro _)
    | split
    | with_reducible apply Keeps.rest
    | with_reducible apply Keeps.upd

theorem deviceReset_keeps {s0 s : State} (h : Keeps s0 s) : Keeps s0 (deviceReset s) := by
  unfold deviceReset
  exact h.upd (Nat.le_refl _) (.refl _) (fun _ => rfl) id (fun e => Bool.noConfusion e) fun _ e => Bool.noConfusion e

theorem startParts_keeps {s0 s : State} {a1} (h : Keeps s0 s) : Keeps s0 (startParts a1 s) := by
  unfold startParts
  try dsimp only
  repeat' first
    | with_reducible assumption
    | with_reducible refine OutKeeps.next ?_
    | with_reducible exact OutKeeps.refused
    | with_reducible refine Keeps.foldl _ _ ?_ ?_
    | with_reducible exact FusesRise.refl _
    | with_reducible exact Nat.le_refl _
    | with_reducible exact id
    | with_reducible exact cellsWrite_wf _ _ _
    | exact ⟨Nat.le_refl _, id, fun _ => id, fun _ => id⟩
    | with_reducible refine Keeps.ite ?_ ?_
    | with_reducible refine OutKeeps.ite ?_ ?_
    | (intro _)
    | split
    | with_reducible apply Keeps.rest
    | with_reducible apply Keeps.upd

theorem markAbsent_keeps {s0 s : State} {a1} (h : Keeps s0 s) : Keeps s0 (markAbsent a1 s) := by
  unfold markAbsent
  try dsimp only
  repeat' first
    | with_reducible assumption
    | with_reducible apply State.modUnit_keeps
    | with_reducible refine OutKeeps.next ?_
    | with_reducible exact OutKeeps.refused
    | with_reducible refine Keeps.foldl _ _ ?_ ?_
    | with_reducible exact FusesRise.refl _
    | with_reducible exact Nat.le_refl _
    | with_reducible exact id
    | with_reducible exact cellsWrite_wf _ _ _
    | exact ⟨Nat.le_refl _, id, fun _ => id, fun _ => id⟩
    | with_reducible refine Keeps.ite ?_ ?_
    | with_reducible refine OutKeeps.ite ?_ ?_
    | (intro _)
    | split
    | with_reducible apply Keeps.rest
    | with_reducible apply Keeps.upd

/-- The constants written keep the canonical form. -/
theorem constCells_wf (ufs : List Host.Cell) (l : List Section) (rep : LoadReport) (cells : List Host.Cell)
    (h : Memory.wf cells = true) : Memory.wf (constCells ufs l rep cells) = true := by
  unfold constCells
  generalize rep.consts = cs
  induction cs generalizing cells with
  | nil => exact h
  | cons c cs ih =>
    refine ih _ ?_
    dsimp only
    split
    · exact cellsWrite_wf _ _ _ h
    · exact h

/-- So do the copy containers. -/
theorem copyCells_wf (ufs : List Host.Cell) (l : List Section) (rep : LoadReport) (cells : List Host.Cell)
    (h : Memory.wf cells = true) : Memory.wf (copyCells ufs l rep cells) = true := by
  unfold copyCells
  generalize rep.copies = cs
  induction cs generalizing cells with
  | nil => exact h
  | cons c cs ih => exact ih _ (cellsWrite_wf _ _ _ h)

theorem enterStandby_keeps {s0 s : State} {a1 a2} (h : Keeps s0 s) : Keeps s0 (enterStandby a1 a2 s) := by
  unfold enterStandby
  try dsimp only
  repeat' first
    | with_reducible assumption
    | with_reducible exact fun g => copyCells_wf _ _ _ _ (constCells_wf _ _ _ _ g)
    | with_reducible apply logEvent_keeps
    | with_reducible apply startParts_keeps
    | with_reducible apply markAbsent_keeps
    | with_reducible apply setState_keeps
    | with_reducible refine OutKeeps.next ?_
    | with_reducible exact OutKeeps.refused
    | with_reducible refine Keeps.foldl _ _ ?_ ?_
    | with_reducible exact FusesRise.refl _
    | with_reducible exact Nat.le_refl _
    | with_reducible exact id
    | with_reducible exact cellsWrite_wf _ _ _
    | exact ⟨Nat.le_refl _, id, fun _ => id, fun _ => id⟩
    | with_reducible refine Keeps.ite ?_ ?_
    | with_reducible refine OutKeeps.ite ?_ ?_
    | (intro _)
    | split
    | with_reducible apply Keeps.rest
    | with_reducible apply Keeps.upd

theorem failRestore_keeps {s0 s : State} (h : Keeps s0 s) : Keeps s0 (failRestore s) := by
  unfold failRestore
  try dsimp only
  repeat' first
    | with_reducible assumption
    | with_reducible apply logEvent_keeps
    | with_reducible apply unmapPage_keeps
    | with_reducible refine OutKeeps.next ?_
    | with_reducible exact OutKeeps.refused
    | with_reducible refine Keeps.foldl _ _ ?_ ?_
    | with_reducible exact FusesRise.refl _
    | with_reducible exact Nat.le_refl _
    | with_reducible exact id
    | with_reducible exact cellsWrite_wf _ _ _
    | exact ⟨Nat.le_refl _, id, fun _ => id, fun _ => id⟩
    | with_reducible refine Keeps.ite ?_ ?_
    | with_reducible refine OutKeeps.ite ?_ ?_
    | (intro _)
    | split
    | with_reducible apply Keeps.rest
    | with_reducible apply Keeps.upd

/-- A burn completed only blows fuses. -/
theorem applyBurn_rise (b : Burn) (f : Fuses) : FusesRise f (applyBurn b f) := by
  cases b with
  | enroll i d => exact ⟨Nat.le_refl _, id, fun j => by simp only [applyBurn, vmod_get]; split <;> simp_all,
      fun j => by simp only [applyBurn, vmod_get]; split <;> simp_all⟩
  | revoke i => exact ⟨Nat.le_refl _, id, fun j => by simp only [applyBurn, vmod_get]; split <;> simp_all,
      fun j => by simp only [applyBurn, vmod_get]; split <;> simp_all⟩
  | advance v => exact ⟨Nat.le_max_left _ _, id, fun _ => id, fun _ => id⟩
  | lock => exact ⟨Nat.le_refl _, fun _ => rfl, fun _ => id, fun _ => id⟩

theorem execFuseBurnComplete_keeps {s0 s : State} {a1 : Nat} (h : Keeps s0 s) : OutKeeps s0 (execFuseBurnComplete a1 s) := by
  unfold execFuseBurnComplete
  dsimp only
  split
  · exact OutKeeps.next (State.at_keeps h)
  · refine OutKeeps.next ((State.at_keeps h).upd (Nat.le_refl _) ?_ id id id id)
    exact (applyBurn_rise _ _).trans ⟨Nat.le_refl _, id, fun _ => id, fun _ => id⟩

theorem tapBypass_keeps {s0 s : State} (h : Keeps s0 s) : Keeps s0 (tapBypass s) := by
  unfold tapBypass
  try dsimp only
  repeat' first
    | with_reducible assumption
    | with_reducible refine OutKeeps.next ?_
    | with_reducible exact OutKeeps.refused
    | with_reducible refine Keeps.foldl _ _ ?_ ?_
    | with_reducible exact FusesRise.refl _
    | with_reducible exact Nat.le_refl _
    | with_reducible exact id
    | with_reducible exact cellsWrite_wf _ _ _
    | exact ⟨Nat.le_refl _, id, fun _ => id, fun _ => id⟩
    | with_reducible refine Keeps.ite ?_ ?_
    | with_reducible refine OutKeeps.ite ?_ ?_
    | (intro _)
    | split
    | with_reducible apply Keeps.rest
    | with_reducible apply Keeps.upd

theorem execJtagBypass_keeps {s0 s : State} {a1} (h : Keeps s0 s) : OutKeeps s0 (execJtagBypass a1 s) := by
  unfold execJtagBypass
  try dsimp only
  repeat' first
    | with_reducible assumption
    | with_reducible apply State.at_keeps
    | with_reducible apply tapBypass_keeps
    | with_reducible refine OutKeeps.next ?_
    | with_reducible exact OutKeeps.refused
    | with_reducible refine Keeps.foldl _ _ ?_ ?_
    | with_reducible exact FusesRise.refl _
    | with_reducible exact Nat.le_refl _
    | with_reducible exact id
    | with_reducible exact cellsWrite_wf _ _ _
    | exact ⟨Nat.le_refl _, id, fun _ => id, fun _ => id⟩
    | with_reducible refine Keeps.ite ?_ ?_
    | with_reducible refine OutKeeps.ite ?_ ?_
    | (intro _)
    | split
    | with_reducible apply Keeps.rest
    | with_reducible apply Keeps.upd

theorem execJtagDebugInstruction_keeps {s0 s : State} {a1 a2} (h : Keeps s0 s) : OutKeeps s0 (execJtagDebugInstruction a1 a2 s)
    := by
  unfold execJtagDebugInstruction
  try dsimp only
  repeat' first
    | with_reducible assumption
    | with_reducible apply State.at_keeps
    | with_reducible apply tapBypass_keeps
    | with_reducible refine OutKeeps.next ?_
    | with_reducible exact OutKeeps.refused
    | with_reducible refine Keeps.foldl _ _ ?_ ?_
    | with_reducible exact FusesRise.refl _
    | with_reducible exact Nat.le_refl _
    | with_reducible exact id
    | with_reducible exact cellsWrite_wf _ _ _
    | exact ⟨Nat.le_refl _, id, fun _ => id, fun _ => id⟩
    | with_reducible refine Keeps.ite ?_ ?_
    | with_reducible refine OutKeeps.ite ?_ ?_
    | (intro _)
    | split
    | with_reducible apply Keeps.rest
    | with_reducible apply Keeps.upd

theorem execJtagExtest_keeps {s0 s : State} {a1} (h : Keeps s0 s) : OutKeeps s0 (execJtagExtest a1 s) := by
  unfold execJtagExtest
  try dsimp only
  repeat' first
    | with_reducible assumption
    | with_reducible apply State.at_keeps
    | with_reducible apply tapBypass_keeps
    | with_reducible refine OutKeeps.next ?_
    | with_reducible exact OutKeeps.refused
    | with_reducible refine Keeps.foldl _ _ ?_ ?_
    | with_reducible exact FusesRise.refl _
    | with_reducible exact Nat.le_refl _
    | with_reducible exact id
    | with_reducible exact cellsWrite_wf _ _ _
    | exact ⟨Nat.le_refl _, id, fun _ => id, fun _ => id⟩
    | with_reducible refine Keeps.ite ?_ ?_
    | with_reducible refine OutKeeps.ite ?_ ?_
    | (intro _)
    | split
    | with_reducible apply Keeps.rest
    | with_reducible apply Keeps.upd

theorem execJtagIdcode_keeps {s0 s : State} {a1} (h : Keeps s0 s) : OutKeeps s0 (execJtagIdcode a1 s) := by
  unfold execJtagIdcode
  try dsimp only
  repeat' first
    | with_reducible assumption
    | with_reducible apply State.at_keeps
    | with_reducible refine OutKeeps.next ?_
    | with_reducible exact OutKeeps.refused
    | with_reducible refine Keeps.foldl _ _ ?_ ?_
    | with_reducible exact FusesRise.refl _
    | with_reducible exact Nat.le_refl _
    | with_reducible exact id
    | with_reducible exact cellsWrite_wf _ _ _
    | exact ⟨Nat.le_refl _, id, fun _ => id, fun _ => id⟩
    | with_reducible refine Keeps.ite ?_ ?_
    | with_reducible refine OutKeeps.ite ?_ ?_
    | (intro _)
    | split
    | with_reducible apply Keeps.rest
    | with_reducible apply Keeps.upd

theorem execJtagSamplePreload_keeps {s0 s : State} {a1 a2} (h : Keeps s0 s) : OutKeeps s0 (execJtagSamplePreload a1 a2 s) := by
  unfold execJtagSamplePreload
  try dsimp only
  repeat' first
    | with_reducible assumption
    | with_reducible apply State.at_keeps
    | with_reducible refine OutKeeps.next ?_
    | with_reducible exact OutKeeps.refused
    | with_reducible refine Keeps.foldl _ _ ?_ ?_
    | with_reducible exact FusesRise.refl _
    | with_reducible exact Nat.le_refl _
    | with_reducible exact id
    | with_reducible exact cellsWrite_wf _ _ _
    | exact ⟨Nat.le_refl _, id, fun _ => id, fun _ => id⟩
    | with_reducible refine Keeps.ite ?_ ?_
    | with_reducible refine OutKeeps.ite ?_ ?_
    | (intro _)
    | split
    | with_reducible apply Keeps.rest
    | with_reducible apply Keeps.upd

theorem refuseForme_keeps {s0 s : State} {a1 a2 a3} (h : Keeps s0 s) : Keeps s0 (refuseForme a1 a2 a3 s) := by
  unfold refuseForme
  try dsimp only
  repeat' first
    | with_reducible assumption
    | with_reducible apply enterBlank_keeps
    | with_reducible apply logEvent_keeps
    | with_reducible refine OutKeeps.next ?_
    | with_reducible exact OutKeeps.refused
    | with_reducible refine Keeps.foldl _ _ ?_ ?_
    | with_reducible exact FusesRise.refl _
    | with_reducible exact Nat.le_refl _
    | with_reducible exact id
    | with_reducible exact cellsWrite_wf _ _ _
    | exact ⟨Nat.le_refl _, id, fun _ => id, fun _ => id⟩
    | with_reducible refine Keeps.ite ?_ ?_
    | with_reducible refine OutKeeps.ite ?_ ?_
    | (intro _)
    | split
    | with_reducible apply Keeps.rest
    | with_reducible apply Keeps.upd

theorem judge_keeps {s0 s : State} {a1} (h : Keeps s0 s) : Keeps s0 (judge a1 s) := by
  unfold judge
  try dsimp only
  repeat' first
    | with_reducible assumption
    | with_reducible apply refuseForme_keeps
    | with_reducible apply logEvent_keeps
    | with_reducible apply enterStandby_keeps
    | with_reducible refine OutKeeps.next ?_
    | with_reducible exact OutKeeps.refused
    | with_reducible refine Keeps.foldl _ _ ?_ ?_
    | with_reducible exact FusesRise.refl _
    | with_reducible exact Nat.le_refl _
    | with_reducible exact id
    | with_reducible exact cellsWrite_wf _ _ _
    | exact ⟨Nat.le_refl _, id, fun _ => id, fun _ => id⟩
    | with_reducible refine Keeps.ite ?_ ?_
    | with_reducible refine OutKeeps.ite ?_ ?_
    | (intro _)
    | split
    | with_reducible apply Keeps.rest
    | with_reducible apply Keeps.upd

theorem execLoadingComplete_keeps {s0 s : State} {a1 a2} (h : Keeps s0 s) : OutKeeps s0 (execLoadingComplete a1 a2 s) := by
  unfold execLoadingComplete
  try dsimp only
  repeat' first
    | with_reducible assumption
    | with_reducible apply State.at_keeps
    | with_reducible apply judge_keeps
    | with_reducible refine OutKeeps.next ?_
    | with_reducible exact OutKeeps.refused
    | with_reducible refine Keeps.foldl _ _ ?_ ?_
    | with_reducible exact FusesRise.refl _
    | with_reducible exact Nat.le_refl _
    | with_reducible exact id
    | with_reducible exact cellsWrite_wf _ _ _
    | exact ⟨Nat.le_refl _, id, fun _ => id, fun _ => id⟩
    | with_reducible refine Keeps.ite ?_ ?_
    | with_reducible refine OutKeeps.ite ?_ ?_
    | (intro _)
    | split
    | with_reducible apply Keeps.rest
    | with_reducible apply Keeps.upd

theorem execPllLockLost_keeps {s0 s : State} {a1 a2} (h : Keeps s0 s) : OutKeeps s0 (execPllLockLost a1 a2 s) := by
  unfold execPllLockLost
  try dsimp only
  repeat' first
    | with_reducible assumption
    | with_reducible apply State.at_keeps
    | with_reducible apply deviceFault_keeps
    | with_reducible apply logEvent_keeps
    | with_reducible refine OutKeeps.next ?_
    | with_reducible exact OutKeeps.refused
    | with_reducible refine Keeps.foldl _ _ ?_ ?_
    | with_reducible exact FusesRise.refl _
    | with_reducible exact Nat.le_refl _
    | with_reducible exact id
    | with_reducible exact cellsWrite_wf _ _ _
    | exact ⟨Nat.le_refl _, id, fun _ => id, fun _ => id⟩
    | with_reducible refine Keeps.ite ?_ ?_
    | with_reducible refine OutKeeps.ite ?_ ?_
    | (intro _)
    | split
    | with_reducible apply Keeps.rest
    | with_reducible apply Keeps.upd

/-- A burn cut short only blows fuses. -/
theorem burnCut_rise (k : Nat) (b : Burn) (f : Fuses) : FusesRise f (burnCut k b f) := by
  cases b with
  | enroll i d => exact ⟨Nat.le_refl _, id, fun j => by simp only [burnCut, vmod_get]; split <;> simp_all,
      fun j => by simp only [burnCut, vmod_get]; split <;> simp_all⟩
  | revoke i => exact ⟨Nat.le_refl _, id, fun j => by simp only [burnCut, vmod_get]; split <;> simp_all,
      fun j => by simp only [burnCut, vmod_get]; split <;> simp_all⟩
  | advance v => exact ⟨Nat.le_add_right _ _, id, fun _ => id, fun _ => id⟩
  | lock => exact ⟨Nat.le_refl _, fun e => by simp [burnCut, e], fun _ => id, fun _ => id⟩

theorem burnsCut_rise (k : Nat) (l : List Burn) (f : Fuses) : FusesRise f (l.foldl (fun f b => burnCut k b f) f) := by
  induction l generalizing f with
  | nil => exact .refl _
  | cons b l ih => exact (burnCut_rise k b f).trans (ih _)

theorem execPowerLoss_keeps {s0 s : State} {a1 : Nat} (h : Keeps s0 s) : OutKeeps s0 (execPowerLoss a1 s) := by
  unfold execPowerLoss
  refine OutKeeps.next ?_
  dsimp only
  split
  · refine (deviceReset_keeps ?_).upd (Nat.le_refl _) (.refl _) id id id id
    refine (State.at_keeps h).upd (Nat.le_refl _) ?_ id id id id
    exact (burnsCut_rise _ _ _).trans ⟨Nat.le_refl _, id, fun _ => id, fun _ => id⟩
  · exact State.at_keeps h

theorem execPowerOn_keeps {s0 s : State} {a1} (h : Keeps s0 s) : OutKeeps s0 (execPowerOn a1 s) := by
  unfold execPowerOn
  try dsimp only
  repeat' first
    | with_reducible assumption
    | with_reducible apply State.at_keeps
    | with_reducible apply deviceReset_keeps
    | with_reducible refine OutKeeps.next ?_
    | with_reducible exact OutKeeps.refused
    | with_reducible refine Keeps.foldl _ _ ?_ ?_
    | with_reducible exact FusesRise.refl _
    | with_reducible exact Nat.le_refl _
    | with_reducible exact id
    | with_reducible exact cellsWrite_wf _ _ _
    | exact ⟨Nat.le_refl _, id, fun _ => id, fun _ => id⟩
    | with_reducible refine Keeps.ite ?_ ?_
    | with_reducible refine OutKeeps.ite ?_ ?_
    | (intro _)
    | split
    | with_reducible apply Keeps.rest
    | with_reducible apply Keeps.upd

theorem execResetComplete_keeps {s0 s : State} {a1} (h : Keeps s0 s) : OutKeeps s0 (execResetComplete a1 s) := by
  unfold execResetComplete
  try dsimp only
  repeat' first
    | with_reducible assumption
    | with_reducible apply State.at_keeps
    | with_reducible apply enterBlank_keeps
    | with_reducible apply setState_keeps
    | with_reducible refine OutKeeps.next ?_
    | with_reducible exact OutKeeps.refused
    | with_reducible refine Keeps.foldl _ _ ?_ ?_
    | with_reducible exact FusesRise.refl _
    | with_reducible exact Nat.le_refl _
    | with_reducible exact id
    | with_reducible exact cellsWrite_wf _ _ _
    | exact ⟨Nat.le_refl _, id, fun _ => id, fun _ => id⟩
    | with_reducible refine Keeps.ite ?_ ?_
    | with_reducible refine OutKeeps.ite ?_ ?_
    | (intro _)
    | split
    | with_reducible apply Keeps.rest
    | with_reducible apply Keeps.upd

theorem execResetNAssert_keeps {s0 s : State} {a1} (h : Keeps s0 s) : OutKeeps s0 (execResetNAssert a1 s) := by
  unfold execResetNAssert
  try dsimp only
  repeat' first
    | with_reducible assumption
    | with_reducible apply State.at_keeps
    | with_reducible apply deviceReset_keeps
    | with_reducible refine OutKeeps.next ?_
    | with_reducible exact OutKeeps.refused
    | with_reducible refine Keeps.foldl _ _ ?_ ?_
    | with_reducible exact FusesRise.refl _
    | with_reducible exact Nat.le_refl _
    | with_reducible exact id
    | with_reducible exact cellsWrite_wf _ _ _
    | exact ⟨Nat.le_refl _, id, fun _ => id, fun _ => id⟩
    | with_reducible refine Keeps.ite ?_ ?_
    | with_reducible refine OutKeeps.ite ?_ ?_
    | (intro _)
    | split
    | with_reducible apply Keeps.rest
    | with_reducible apply Keeps.upd

theorem execResetNDeassert_keeps {s0 s : State} {a1} (h : Keeps s0 s) : OutKeeps s0 (execResetNDeassert a1 s) := by
  unfold execResetNDeassert
  try dsimp only
  repeat' first
    | with_reducible assumption
    | with_reducible apply State.at_keeps
    | with_reducible refine OutKeeps.next ?_
    | with_reducible exact OutKeeps.refused
    | with_reducible refine Keeps.foldl _ _ ?_ ?_
    | with_reducible exact FusesRise.refl _
    | with_reducible exact Nat.le_refl _
    | with_reducible exact id
    | with_reducible exact cellsWrite_wf _ _ _
    | exact ⟨Nat.le_refl _, id, fun _ => id, fun _ => id⟩
    | with_reducible refine Keeps.ite ?_ ?_
    | with_reducible refine OutKeeps.ite ?_ ?_
    | (intro _)
    | split
    | with_reducible apply Keeps.rest
    | with_reducible apply Keeps.upd

theorem execSupplyOutOfRange_keeps {s0 s : State} {a1 a2} (h : Keeps s0 s) : OutKeeps s0 (execSupplyOutOfRange a1 a2 s) := by
  unfold execSupplyOutOfRange
  try dsimp only
  repeat' first
    | with_reducible assumption
    | with_reducible apply State.at_keeps
    | with_reducible apply deviceFault_keeps
    | with_reducible apply logEvent_keeps
    | with_reducible refine OutKeeps.next ?_
    | with_reducible exact OutKeeps.refused
    | with_reducible refine Keeps.foldl _ _ ?_ ?_
    | with_reducible exact FusesRise.refl _
    | with_reducible exact Nat.le_refl _
    | with_reducible exact id
    | with_reducible exact cellsWrite_wf _ _ _
    | exact ⟨Nat.le_refl _, id, fun _ => id, fun _ => id⟩
    | with_reducible refine Keeps.ite ?_ ?_
    | with_reducible refine OutKeeps.ite ?_ ?_
    | (intro _)
    | split
    | with_reducible apply Keeps.rest
    | with_reducible apply Keeps.upd

theorem execTrstNAssert_keeps {s0 s : State} {a1} (h : Keeps s0 s) : OutKeeps s0 (execTrstNAssert a1 s) := by
  unfold execTrstNAssert
  try dsimp only
  repeat' first
    | with_reducible assumption
    | with_reducible apply State.at_keeps
    | with_reducible refine OutKeeps.next ?_
    | with_reducible exact OutKeeps.refused
    | with_reducible refine Keeps.foldl _ _ ?_ ?_
    | with_reducible exact FusesRise.refl _
    | with_reducible exact Nat.le_refl _
    | with_reducible exact id
    | with_reducible exact cellsWrite_wf _ _ _
    | exact ⟨Nat.le_refl _, id, fun _ => id, fun _ => id⟩
    | with_reducible refine Keeps.ite ?_ ?_
    | with_reducible refine OutKeeps.ite ?_ ?_
    | (intro _)
    | split
    | with_reducible apply Keeps.rest
    | with_reducible apply Keeps.upd

theorem loadDirectory_keeps {s0 s : State} (h : Keeps s0 s) : Keeps s0 (loadDirectory s) := by
  unfold loadDirectory
  try dsimp only
  repeat' first
    | with_reducible assumption
    | with_reducible apply refuseForme_keeps
    | with_reducible refine OutKeeps.next ?_
    | with_reducible exact OutKeeps.refused
    | with_reducible refine Keeps.foldl _ _ ?_ ?_
    | with_reducible exact FusesRise.refl _
    | with_reducible exact Nat.le_refl _
    | with_reducible exact id
    | with_reducible exact cellsWrite_wf _ _ _
    | exact ⟨Nat.le_refl _, id, fun _ => id, fun _ => id⟩
    | with_reducible refine Keeps.ite ?_ ?_
    | with_reducible refine OutKeeps.ite ?_ ?_
    | (intro _)
    | split
    | with_reducible apply Keeps.rest
    | with_reducible apply Keeps.upd

theorem loadFirmware_keeps {s0 s : State} (h : Keeps s0 s) : Keeps s0 (loadFirmware s) := by
  unfold loadFirmware
  try dsimp only
  repeat' first
    | with_reducible assumption
    | with_reducible apply refuseForme_keeps
    | with_reducible refine OutKeeps.next ?_
    | with_reducible exact OutKeeps.refused
    | with_reducible refine Keeps.foldl _ _ ?_ ?_
    | with_reducible exact FusesRise.refl _
    | with_reducible exact Nat.le_refl _
    | with_reducible exact id
    | with_reducible exact cellsWrite_wf _ _ _
    | exact ⟨Nat.le_refl _, id, fun _ => id, fun _ => id⟩
    | with_reducible refine Keeps.ite ?_ ?_
    | with_reducible refine OutKeeps.ite ?_ ?_
    | (intro _)
    | split
    | with_reducible apply Keeps.rest
    | with_reducible apply Keeps.upd

theorem loadChunk_keeps {s0 s : State} (h : Keeps s0 s) : Keeps s0 (loadChunk s) := by
  unfold loadChunk
  try dsimp only
  repeat' first
    | with_reducible assumption
    | with_reducible refine OutKeeps.next ?_
    | with_reducible exact OutKeeps.refused
    | with_reducible refine Keeps.foldl _ _ ?_ ?_
    | with_reducible exact FusesRise.refl _
    | with_reducible exact Nat.le_refl _
    | with_reducible exact id
    | with_reducible exact cellsWrite_wf _ _ _
    | exact ⟨Nat.le_refl _, id, fun _ => id, fun _ => id⟩
    | with_reducible refine Keeps.ite ?_ ?_
    | with_reducible refine OutKeeps.ite ?_ ?_
    | (intro _)
    | split
    | with_reducible apply Keeps.rest
    | with_reducible apply Keeps.upd

theorem execUfsCommandComplete_keeps {s0 s : State} {a1} (h : Keeps s0 s) : OutKeeps s0 (execUfsCommandComplete a1 s) := by
  unfold execUfsCommandComplete
  try dsimp only
  repeat' first
    | with_reducible assumption
    | with_reducible apply State.at_keeps
    | with_reducible apply loadDirectory_keeps
    | with_reducible apply loadFirmware_keeps
    | with_reducible apply loadChunk_keeps
    | with_reducible refine OutKeeps.next ?_
    | with_reducible exact OutKeeps.refused
    | with_reducible refine Keeps.foldl _ _ ?_ ?_
    | with_reducible exact FusesRise.refl _
    | with_reducible exact Nat.le_refl _
    | with_reducible exact id
    | with_reducible exact cellsWrite_wf _ _ _
    | exact ⟨Nat.le_refl _, id, fun _ => id, fun _ => id⟩
    | with_reducible refine Keeps.ite ?_ ?_
    | with_reducible refine OutKeeps.ite ?_ ?_
    | (intro _)
    | split
    | with_reducible apply Keeps.rest
    | with_reducible apply Keeps.upd

theorem execUfsCommandTimeout_keeps {s0 s : State} {a1} (h : Keeps s0 s) : OutKeeps s0 (execUfsCommandTimeout a1 s) := by
  unfold execUfsCommandTimeout
  try dsimp only
  repeat' first
    | with_reducible assumption
    | with_reducible apply State.at_keeps
    | with_reducible apply logEvent_keeps
    | with_reducible apply refuseForme_keeps
    | with_reducible apply interruptUpdate_keeps
    | with_reducible apply failRestore_keeps
    | with_reducible refine OutKeeps.next ?_
    | with_reducible exact OutKeeps.refused
    | with_reducible refine Keeps.foldl _ _ ?_ ?_
    | with_reducible exact FusesRise.refl _
    | with_reducible exact Nat.le_refl _
    | with_reducible exact id
    | with_reducible exact cellsWrite_wf _ _ _
    | exact ⟨Nat.le_refl _, id, fun _ => id, fun _ => id⟩
    | with_reducible refine Keeps.ite ?_ ?_
    | with_reducible refine OutKeeps.ite ?_ ?_
    | (intro _)
    | split
    | with_reducible apply Keeps.rest
    | with_reducible apply Keeps.upd

end Sys2Proof.Machine
end

