-- ==== Sys2Proof/Laws/KeepsVecUnit.lean ====
section
/-! SUPPORT. What the operations of Machine/VecUnit.lean keep. -/

namespace Sys2Proof.Machine

theorem Paged.note_keeps {s0 s : State} {a1} (h : Keeps s0 s) : Keeps s0 (Paged.note a1 s) := by
  unfold Paged.note
  try dsimp only
  repeat' first
    | with_reducible assumption
    | with_reducible apply State.modInst_keeps
    | with_reducible refine OutKeeps.next ?_
    | with_reducible exact OutKeeps.refused
    | with_reducible refine Keeps.foldl _ _ ?_ ?_
    | with_reducible exact FusesRise.refl _
    | with_reducible exact Nat.le_refl _
    | with_reducible exact id
    | with_reducible exact cellsWrite_wf _ _ _
    | exact ⟨Nat.le_refl _, id, fun _ => id, fun _ => id⟩
    | with_reducible refine Keeps.ite ?_ ?_
    | with_reducible refine OutKeeps.ite ?_ ?_
    | (intro _)
    | split
    | with_reducible apply Keeps.rest
    | with_reducible apply Keeps.upd

theorem Paged.write_keeps {s0 s : State} {a1 a2 a3} (h : Keeps s0 s) : Keeps s0 (Paged.write a1 a2 a3 s) := by
  unfold Paged.write
  try dsimp only
  repeat' first
    | with_reducible assumption
    | with_reducible apply playWrite_keeps
    | with_reducible apply Paged.note_keeps
    | with_reducible refine OutKeeps.next ?_
    | with_reducible exact OutKeeps.refused
    | with_reducible refine Keeps.foldl _ _ ?_ ?_
    | with_reducible exact FusesRise.refl _
    | with_reducible exact Nat.le_refl _
    | with_reducible exact id
    | with_reducible exact cellsWrite_wf _ _ _
    | exact ⟨Nat.le_refl _, id, fun _ => id, fun _ => id⟩
    | with_reducible refine Keeps.ite ?_ ?_
    | with_reducible refine OutKeeps.ite ?_ ?_
    | (intro _)
    | split
    | with_reducible apply Keeps.rest
    | with_reducible apply Keeps.upd

theorem writeResults_keeps {s0 s : State} {a1 : Fin 16} {a2 : Nat} {a3 : List VArr} (h : Keeps s0 s) :
    Keeps s0 (writeResults a1 a2 a3 s) := by
  induction a3 generalizing a2 s with
  | nil => exact h
  | cons r rs ih => exact ih (State.modPress_keeps (devWrite_keeps h))

theorem writeMicro_keeps {s0 s : State} {a1 a2 a3 a4 a5 a6} (h : Keeps s0 s) : Keeps s0 (writeMicro a1 a2 a3 a4 a5 a6 s) := by
  unfold writeMicro
  try dsimp only
  repeat' first
    | with_reducible assumption
    | with_reducible apply askBlocks_keeps
    | with_reducible apply writeResults_keeps
    | with_reducible apply State.modPress_keeps
    | with_reducible apply meetBarrier_keeps
    | with_reducible apply pumpAll_keeps
    | with_reducible refine OutKeeps.next ?_
    | with_reducible exact OutKeeps.refused
    | with_reducible refine Keeps.foldl _ _ ?_ ?_
    | with_reducible exact FusesRise.refl _
    | with_reducible exact Nat.le_refl _
    | with_reducible exact id
    | with_reducible exact cellsWrite_wf _ _ _
    | exact ⟨Nat.le_refl _, id, fun _ => id, fun _ => id⟩
    | with_reducible refine Keeps.ite ?_ ?_
    | with_reducible refine OutKeeps.ite ?_ ?_
    | (intro _)
    | split
    | with_reducible apply Keeps.rest
    | with_reducible apply Keeps.upd

theorem memOperands_keeps {s0 s : State} {a1 a2 a3 a4 a5} (h : Keeps s0 s) :
    ∀ t, memOperands a1 a2 a3 a4 a5 s = some t → Keeps s0 t := by
  intro t e
  unfold memOperands at e
  dsimp only at e
  split at e
  · cases e; exact (waitHand_keeps h)
  · split at e <;> cases e
    · exact (translationFault_keeps h)
    · exact (demandMiss_keeps h)
    · exact (poisonRead_keeps h)

theorem poolWait_keeps {s0 s : State} {a1 a2 a3 a4 a5 a6} (h : Keeps s0 s) :
    ∀ t, poolWait a1 a2 a3 a4 a5 a6 s = some t → Keeps s0 t := by
  intro t e
  unfold poolWait at e
  dsimp only at e
  split at e
  · cases e; exact (waitHand_keeps h)
  · split at e
    · cases e; exact (translationFault_keeps h)
    · cases e; exact (translationFault_keeps h)
    · split at e
      · cases e; exact (demandMiss_keeps h)
      · split at e
        · cases e; exact (poisonRead_keeps h)
        · split at e <;> cases e
          exact (waitHand_keeps h)

/-- The state a micro-operation's results stand in. -/
theorem vecRun_keeps {s0 s : State} {a1 a2 a3} (h : Keeps s0 s) :
    ∀ r, vecRun a1 a2 a3 s = some r → Keeps s0 r.2 := by
  intro r e
  unfold vecRun at e
  split at e
  · split at e
    · split at e <;> cases e
      exact h
    · split at e
      · cases e
      · cases e; exact (Paged.write_keeps h)
  · obtain ⟨_, _, rfl⟩ := Option.map_eq_some_iff.1 e; exact h

theorem runMicro_keeps {s0 s : State} {a1 a2 a3 a4 a5} (h : Keeps s0 s) :
    Keeps s0 (runMicro a1 a2 a3 a4 a5 s) := by
  unfold runMicro
  split
  · exact h
  · generalize e : vecRun a4 a3 (a3.srcs.map (s.vecSrc a1 a4.key.play)) s = r
    match r, e with
    | none, _ => exact (illegalOp_keeps (Keeps.rest h))
    | some _, e => exact (writeMicro_keeps (vecRun_keeps h _ e))

theorem execVectorMicroOperation_keeps {s0 s : State} {a1 a2 a3 a4 a5} (h : Keeps s0 s) :
    OutKeeps s0 (execVectorMicroOperation a1 a2 a3 a4 a5 s) := by
  unfold execVectorMicroOperation
  extract_lets u
  have hu : Keeps s0 u := (State.at_keeps h)
  split
  · exact hu
  · next i _ =>
    have hu : Keeps s0 (tagErrs a2 (a5.filterMap ReadErr.tag) u) := (tagErrs_keeps hu)
    dsimp only
    split
    · exact (waitHand_keeps hu)
    · generalize e : Option.or _ _ = r
      match r, e with
      | some t, e =>
        rcases Option.or_eq_some_iff.1 e with e | ⟨_, e⟩
        · exact (memOperands_keeps hu _ e)
        · exact (poolWait_keeps hu _ e)
      | none, _ => exact (runMicro_keeps (memErrs_keeps (Keeps.foldl _ _ hu fun _ _ k => (demandHit_keeps k))))

end Sys2Proof.Machine
end

