-- ==== Sys2Proof/Laws/KeepsBoundary.lean ====
section
/-! SUPPORT. What the operations of Machine/Boundary.lean keep. -/

namespace Sys2Proof.Machine

theorem failOverdue_keeps {s0 s : State} {a1} (h : Keeps s0 s) : Keeps s0 (failOverdue s a1) := by
  unfold failOverdue
  try dsimp only
  repeat' first
    | with_reducible assumption
    | with_reducible apply failUnit_keeps
    | with_reducible refine OutKeeps.next ?_
    | with_reducible exact OutKeeps.refused
    | with_reducible refine Keeps.foldl _ _ ?_ ?_
    | with_reducible exact FusesRise.refl _
    | with_reducible exact Nat.le_refl _
    | with_reducible exact id
    | with_reducible exact cellsWrite_wf _ _ _
    | exact ⟨Nat.le_refl _, id, fun _ => id, fun _ => id⟩
    | with_reducible refine Keeps.ite ?_ ?_
    | with_reducible refine OutKeeps.ite ?_ ?_
    | (intro _)
    | split
    | with_reducible apply Keeps.rest
    | with_reducible apply Keeps.upd

theorem strikeOverdue_keeps {s0 s : State} (h : Keeps s0 s) : Keeps s0 (strikeOverdue s) := by
  unfold strikeOverdue
  try dsimp only
  repeat' first
    | with_reducible assumption
    | with_reducible apply failOverdue_keeps
    | with_reducible apply strike_keeps
    | with_reducible refine OutKeeps.next ?_
    | with_reducible exact OutKeeps.refused
    | with_reducible refine Keeps.foldl _ _ ?_ ?_
    | with_reducible exact FusesRise.refl _
    | with_reducible exact Nat.le_refl _
    | with_reducible exact id
    | with_reducible exact cellsWrite_wf _ _ _
    | exact ⟨Nat.le_refl _, id, fun _ => id, fun _ => id⟩
    | with_reducible refine Keeps.ite ?_ ?_
    | with_reducible refine OutKeeps.ite ?_ ?_
    | (intro _)
    | split
    | with_reducible apply Keeps.rest
    | with_reducible apply Keeps.upd

theorem railSeen_keeps {s0 s : State} (h : Keeps s0 s) : Keeps s0 (railSeen s) := by
  unfold railSeen
  try dsimp only
  repeat' first
    | with_reducible assumption
    | with_reducible refine OutKeeps.next ?_
    | with_reducible exact OutKeeps.refused
    | with_reducible refine Keeps.foldl _ _ ?_ ?_
    | with_reducible exact FusesRise.refl _
    | with_reducible exact Nat.le_refl _
    | with_reducible exact id
    | with_reducible exact cellsWrite_wf _ _ _
    | exact ⟨Nat.le_refl _, id, fun _ => id, fun _ => id⟩
    | with_reducible refine Keeps.ite ?_ ?_
    | with_reducible refine OutKeeps.ite ?_ ?_
    | (intro _)
    | split
    | with_reducible apply Keeps.rest
    | with_reducible apply Keeps.upd

theorem countFaultCue_keeps {s0 s : State} {a1} (h : Keeps s0 s) : Keeps s0 (countFaultCue a1 s) := by
  unfold countFaultCue
  try dsimp only
  repeat' first
    | with_reducible assumption
    | with_reducible apply deviceFault_keeps
    | with_reducible refine OutKeeps.next ?_
    | with_reducible exact OutKeeps.refused
    | with_reducible refine Keeps.foldl _ _ ?_ ?_
    | with_reducible exact FusesRise.refl _
    | with_reducible exact Nat.le_refl _
    | with_reducible exact id
    | with_reducible exact cellsWrite_wf _ _ _
    | exact ⟨Nat.le_refl _, id, fun _ => id, fun _ => id⟩
    | with_reducible refine Keeps.ite ?_ ?_
    | with_reducible refine OutKeeps.ite ?_ ?_
    | (intro _)
    | split
    | with_reducible apply Keeps.rest
    | with_reducible apply Keeps.upd

theorem pairDetections_keeps {s0 s : State} {a1} (h : Keeps s0 s) : Keeps s0 (pairDetections a1 s) := by
  unfold pairDetections
  try dsimp only
  repeat' first
    | with_reducible assumption
    | with_reducible apply curtainStop_keeps
    | with_reducible apply logEvent_keeps
    | with_reducible apply railSeen_keeps
    | with_reducible apply countFaultCue_keeps
    | with_reducible refine OutKeeps.next ?_
    | with_reducible exact OutKeeps.refused
    | with_reducible refine Keeps.foldl _ _ ?_ ?_
    | with_reducible exact FusesRise.refl _
    | with_reducible exact Nat.le_refl _
    | with_reducible exact id
    | with_reducible exact cellsWrite_wf _ _ _
    | exact ⟨Nat.le_refl _, id, fun _ => id, fun _ => id⟩
    | with_reducible refine Keeps.ite ?_ ?_
    | with_reducible refine OutKeeps.ite ?_ ?_
    | (intro _)
    | split
    | with_reducible apply Keeps.rest
    | with_reducible apply Keeps.upd

theorem unresolved_keeps {s0 s : State} {a1 a2} (h : Keeps s0 s) : Keeps s0 (unresolved a1 a2 s) := by
  unfold unresolved
  try dsimp only
  repeat' first
    | with_reducible assumption
    | with_reducible apply endClass_keeps
    | with_reducible apply setClass_keeps
    | with_reducible apply logEvent_keeps
    | with_reducible refine OutKeeps.next ?_
    | with_reducible exact OutKeeps.refused
    | with_reducible refine Keeps.foldl _ _ ?_ ?_
    | with_reducible exact FusesRise.refl _
    | with_reducible exact Nat.le_refl _
    | with_reducible exact id
    | with_reducible exact cellsWrite_wf _ _ _
    | exact ⟨Nat.le_refl _, id, fun _ => id, fun _ => id⟩
    | with_reducible refine Keeps.ite ?_ ?_
    | with_reducible refine OutKeeps.ite ?_ ?_
    | (intro _)
    | split
    | with_reducible apply Keeps.rest
    | with_reducible apply Keeps.upd

theorem enterHold_keeps {s0 s : State} {a1} (h : Keeps s0 s) : Keeps s0 (enterHold a1 s) := by
  unfold enterHold
  try dsimp only
  repeat' first
    | with_reducible assumption
    | with_reducible apply curtainStop_keeps
    | with_reducible apply setState_keeps
    | with_reducible apply logEvent_keeps
    | with_reducible apply unresolved_keeps
    | with_reducible refine OutKeeps.next ?_
    | with_reducible exact OutKeeps.refused
    | with_reducible refine Keeps.foldl _ _ ?_ ?_
    | with_reducible exact FusesRise.refl _
    | with_reducible exact Nat.le_refl _
    | with_reducible exact id
    | with_reducible exact cellsWrite_wf _ _ _
    | exact ⟨Nat.le_refl _, id, fun _ => id, fun _ => id⟩
    | with_reducible refine Keeps.ite ?_ ?_
    | with_reducible refine OutKeeps.ite ?_ ?_
    | (intro _)
    | split
    | with_reducible apply Keeps.rest
    | with_reducible apply Keeps.upd

theorem holdAtBoundary_keeps {s0 s : State} (h : Keeps s0 s) : Keeps s0 (holdAtBoundary s) := by
  unfold holdAtBoundary
  try dsimp only
  repeat' first
    | with_reducible assumption
    | with_reducible apply enterHold_keeps
    | with_reducible refine OutKeeps.next ?_
    | with_reducible exact OutKeeps.refused
    | with_reducible refine Keeps.foldl _ _ ?_ ?_
    | with_reducible exact FusesRise.refl _
    | with_reducible exact Nat.le_refl _
    | with_reducible exact id
    | with_reducible exact cellsWrite_wf _ _ _
    | exact ⟨Nat.le_refl _, id, fun _ => id, fun _ => id⟩
    | with_reducible refine Keeps.ite ?_ ?_
    | with_reducible refine OutKeeps.ite ?_ ?_
    | (intro _)
    | split
    | with_reducible apply Keeps.rest
    | with_reducible apply Keeps.upd

theorem returnUnit_keeps {s0 s : State} {a1 a2} (h : Keeps s0 s) : Keeps s0 (returnUnit a1 a2 s) := by
  unfold returnUnit
  try dsimp only
  repeat' first
    | with_reducible assumption
    | with_reducible apply State.modUnit_keeps
    | with_reducible apply modPortStreams_keeps
    | with_reducible refine OutKeeps.next ?_
    | with_reducible exact OutKeeps.refused
    | with_reducible refine Keeps.foldl _ _ ?_ ?_
    | with_reducible exact FusesRise.refl _
    | with_reducible exact Nat.le_refl _
    | with_reducible exact id
    | with_reducible exact cellsWrite_wf _ _ _
    | exact ⟨Nat.le_refl _, id, fun _ => id, fun _ => id⟩
    | with_reducible refine Keeps.ite ?_ ?_
    | with_reducible refine OutKeeps.ite ?_ ?_
    | (intro _)
    | split
    | with_reducible apply Keeps.rest
    | with_reducible apply Keeps.upd

theorem returnUnits_keeps {s0 s : State} {a1} (h : Keeps s0 s) : Keeps s0 (returnUnits a1 s) := by
  unfold returnUnits
  try dsimp only
  repeat' first
    | with_reducible assumption
    | with_reducible apply returnUnit_keeps
    | with_reducible refine OutKeeps.next ?_
    | with_reducible exact OutKeeps.refused
    | with_reducible refine Keeps.foldl _ _ ?_ ?_
    | with_reducible exact FusesRise.refl _
    | with_reducible exact Nat.le_refl _
    | with_reducible exact id
    | with_reducible exact cellsWrite_wf _ _ _
    | exact ⟨Nat.le_refl _, id, fun _ => id, fun _ => id⟩
    | with_reducible refine Keeps.ite ?_ ?_
    | with_reducible refine OutKeeps.ite ?_ ?_
    | (intro _)
    | split
    | with_reducible apply Keeps.rest
    | with_reducible apply Keeps.upd

theorem closeDigest_keeps {s0 s : State} {a1 a2} (h : Keeps s0 s) : Keeps s0 (closeDigest a1 s a2) := by
  unfold closeDigest
  try dsimp only
  repeat' first
    | with_reducible assumption
    | with_reducible apply setDigPlay_keeps
    | with_reducible refine OutKeeps.next ?_
    | with_reducible exact OutKeeps.refused
    | with_reducible refine Keeps.foldl _ _ ?_ ?_
    | with_reducible exact FusesRise.refl _
    | with_reducible exact Nat.le_refl _
    | with_reducible exact id
    | with_reducible exact cellsWrite_wf _ _ _
    | exact ⟨Nat.le_refl _, id, fun _ => id, fun _ => id⟩
    | with_reducible refine Keeps.ite ?_ ?_
    | with_reducible refine OutKeeps.ite ?_ ?_
    | (intro _)
    | split
    | with_reducible apply Keeps.rest
    | with_reducible apply Keeps.upd

theorem closeDigests_keeps {s0 s : State} (h : Keeps s0 s) : Keeps s0 (closeDigests s) := by
  unfold closeDigests
  try dsimp only
  repeat' first
    | with_reducible assumption
    | with_reducible apply closeDigest_keeps
    | with_reducible refine OutKeeps.next ?_
    | with_reducible exact OutKeeps.refused
    | with_reducible refine Keeps.foldl _ _ ?_ ?_
    | with_reducible exact FusesRise.refl _
    | with_reducible exact Nat.le_refl _
    | with_reducible exact id
    | with_reducible exact cellsWrite_wf _ _ _
    | exact ⟨Nat.le_refl _, id, fun _ => id, fun _ => id⟩
    | with_reducible refine Keeps.ite ?_ ?_
    | with_reducible refine OutKeeps.ite ?_ ?_
    | (intro _)
    | split
    | with_reducible apply Keeps.rest
    | with_reducible apply Keeps.upd

theorem stopAtBoundary_keeps {s0 s : State} (h : Keeps s0 s) : Keeps s0 (stopAtBoundary s) := by
  unfold stopAtBoundary
  try dsimp only
  repeat' first
    | with_reducible assumption
    | with_reducible apply killWhere_keeps
    | with_reducible apply suspendSlice_keeps
    | with_reducible refine OutKeeps.next ?_
    | with_reducible exact OutKeeps.refused
    | with_reducible refine Keeps.foldl _ _ ?_ ?_
    | with_reducible exact FusesRise.refl _
    | with_reducible exact Nat.le_refl _
    | with_reducible exact id
    | with_reducible exact cellsWrite_wf _ _ _
    | exact ⟨Nat.le_refl _, id, fun _ => id, fun _ => id⟩
    | with_reducible refine Keeps.ite ?_ ?_
    | with_reducible refine OutKeeps.ite ?_ ?_
    | (intro _)
    | split
    | with_reducible apply Keeps.rest
    | with_reducible apply Keeps.upd

theorem beginInvalid_keeps {s0 s : State} {a1 : Option Nat} (h : Keeps s0 s) : Keeps s0 (beginInvalid a1 s) := by
  unfold beginInvalid
  split
  · exact h.upd (Nat.le_refl _) (.refl _) id id (fun e => Bool.noConfusion e) fun _ e => Bool.noConfusion e
  · exact h

theorem placeBoundary_keeps {s0 s : State} {a1 a2 : Nat} (h : Keeps s0 s) : Keeps s0 (placeBoundary a1 a2 s) := by
  unfold placeBoundary
  exact logEvent_keeps (h.upd (Nat.le_refl _) (.refl _) id id id fun _ _ => rfl)

theorem closePart_keeps {s0 s : State} {a1 a2} (h : Keeps s0 s) : Keeps s0 (closePart s a1 a2).1 := by
  unfold closePart
  try dsimp only
  repeat' first
    | with_reducible assumption
    | with_reducible apply logEvent_keeps
    | with_reducible refine OutKeeps.next ?_
    | with_reducible exact OutKeeps.refused
    | with_reducible refine Keeps.foldl _ _ ?_ ?_
    | with_reducible exact FusesRise.refl _
    | with_reducible exact Nat.le_refl _
    | with_reducible exact id
    | with_reducible exact cellsWrite_wf _ _ _
    | exact ⟨Nat.le_refl _, id, fun _ => id, fun _ => id⟩
    | with_reducible refine Keeps.ite ?_ ?_
    | with_reducible refine OutKeeps.ite ?_ ?_
    | (intro _)
    | split
    | with_reducible apply Keeps.rest
    | with_reducible apply Keeps.upd

theorem closeParts_keeps {s0 s : State} (h : Keeps s0 s) : Keeps s0 (closeParts s).1 := by
  unfold closeParts
  dsimp only
  refine Keeps.upd ?_ (Nat.le_refl _) (.refl _) id id id id
  have key : ∀ (l : List (Fin 8)) (a : State × List Nat), Keeps s0 a.1 →
      Keeps s0 (l.foldl (fun a i => closePart a.1 a.2 i) a).1 := by
    intro l
    induction l with
    | nil => exact fun _ ha => ha
    | cons i l ih => exact fun a ha => ih _ (closePart_keeps ha)
  exact key _ _ h

theorem startLossClocks_keeps {s0 s : State} (h : Keeps s0 s) : Keeps s0 (startLossClocks s) := by
  unfold startLossClocks
  try dsimp only
  repeat' first
    | with_reducible assumption
    | with_reducible refine OutKeeps.next ?_
    | with_reducible exact OutKeeps.refused
    | with_reducible refine Keeps.foldl _ _ ?_ ?_
    | with_reducible exact FusesRise.refl _
    | with_reducible exact Nat.le_refl _
    | with_reducible exact id
    | with_reducible exact cellsWrite_wf _ _ _
    | exact ⟨Nat.le_refl _, id, fun _ => id, fun _ => id⟩
    | with_reducible refine Keeps.ite ?_ ?_
    | with_reducible refine OutKeeps.ite ?_ ?_
    | (intro _)
    | split
    | with_reducible apply Keeps.rest
    | with_reducible apply Keeps.upd

theorem startAges_keeps {s0 s : State} (h : Keeps s0 s) : Keeps s0 (startAges s) := by
  unfold startAges
  try dsimp only
  repeat' first
    | with_reducible assumption
    | with_reducible refine OutKeeps.next ?_
    | with_reducible exact OutKeeps.refused
    | with_reducible refine Keeps.foldl _ _ ?_ ?_
    | with_reducible exact FusesRise.refl _
    | with_reducible exact Nat.le_refl _
    | with_reducible exact id
    | with_reducible exact cellsWrite_wf _ _ _
    | exact ⟨Nat.le_refl _, id, fun _ => id, fun _ => id⟩
    | with_reducible refine Keeps.ite ?_ ?_
    | with_reducible refine OutKeeps.ite ?_ ?_
    | (intro _)
    | split
    | with_reducible apply Keeps.rest
    | with_reducible apply Keeps.upd

theorem ageOther_keeps {s0 s : State} {a1} (h : Keeps s0 s) : Keeps s0 (ageOther s a1) := by
  unfold ageOther
  try dsimp only
  repeat' first
    | with_reducible assumption
    | with_reducible apply logEvent_keeps
    | with_reducible refine OutKeeps.next ?_
    | with_reducible exact OutKeeps.refused
    | with_reducible refine Keeps.foldl _ _ ?_ ?_
    | with_reducible exact FusesRise.refl _
    | with_reducible exact Nat.le_refl _
    | with_reducible exact id
    | with_reducible exact cellsWrite_wf _ _ _
    | exact ⟨Nat.le_refl _, id, fun _ => id, fun _ => id⟩
    | with_reducible refine Keeps.ite ?_ ?_
    | with_reducible refine OutKeeps.ite ?_ ?_
    | (intro _)
    | split
    | with_reducible apply Keeps.rest
    | with_reducible apply Keeps.upd

theorem ageUnit_keeps {s0 s : State} {a1} (h : Keeps s0 s) : Keeps s0 (ageUnit s a1) := by
  unfold ageUnit
  try dsimp only
  repeat' first
    | with_reducible assumption
    | with_reducible apply State.modUnit_keeps
    | with_reducible apply logEvent_keeps
    | with_reducible refine OutKeeps.next ?_
    | with_reducible exact OutKeeps.refused
    | with_reducible refine Keeps.foldl _ _ ?_ ?_
    | with_reducible exact FusesRise.refl _
    | with_reducible exact Nat.le_refl _
    | with_reducible exact id
    | with_reducible exact cellsWrite_wf _ _ _
    | exact ⟨Nat.le_refl _, id, fun _ => id, fun _ => id⟩
    | with_reducible refine Keeps.ite ?_ ?_
    | with_reducible refine OutKeeps.ite ?_ ?_
    | (intro _)
    | split
    | with_reducible apply Keeps.rest
    | with_reducible apply Keeps.upd

theorem ageAll_keeps {s0 s : State} (h : Keeps s0 s) : Keeps s0 (ageAll s) := by
  unfold ageAll
  try dsimp only
  repeat' first
    | with_reducible assumption
    | with_reducible apply ageOther_keeps
    | with_reducible apply ageUnit_keeps
    | with_reducible refine OutKeeps.next ?_
    | with_reducible exact OutKeeps.refused
    | with_reducible refine Keeps.foldl _ _ ?_ ?_
    | with_reducible exact FusesRise.refl _
    | with_reducible exact Nat.le_refl _
    | with_reducible exact id
    | with_reducible exact cellsWrite_wf _ _ _
    | exact ⟨Nat.le_refl _, id, fun _ => id, fun _ => id⟩
    | with_reducible refine Keeps.ite ?_ ?_
    | with_reducible refine OutKeeps.ite ?_ ?_
    | (intro _)
    | split
    | with_reducible apply Keeps.rest
    | with_reducible apply Keeps.upd

theorem closeCue_keeps {s0 s : State} {a1} (h : Keeps s0 s) : Keeps s0 (closeCue a1 s).1 := by
  unfold closeCue
  try dsimp only
  repeat' first
    | with_reducible assumption
    | with_reducible apply closeParts_keeps
    | with_reducible apply governorBoundary_keeps
    | with_reducible apply startLossClocks_keeps
    | with_reducible apply startAges_keeps
    | with_reducible apply ageAll_keeps
    | with_reducible refine Keeps.fst ?_ (by assumption)
    | with_reducible refine OutKeeps.next ?_
    | with_reducible exact OutKeeps.refused
    | with_reducible refine Keeps.foldl _ _ ?_ ?_
    | with_reducible exact FusesRise.refl _
    | with_reducible exact Nat.le_refl _
    | with_reducible exact id
    | with_reducible exact cellsWrite_wf _ _ _
    | exact ⟨Nat.le_refl _, id, fun _ => id, fun _ => id⟩
    | with_reducible refine Keeps.ite ?_ ?_
    | with_reducible refine OutKeeps.ite ?_ ?_
    | (intro _)
    | split
    | with_reducible apply Keeps.rest
    | with_reducible apply Keeps.upd

theorem applyTest_keeps {s0 s : State} (h : Keeps s0 s) : Keeps s0 (applyTest s) := by
  unfold applyTest
  try dsimp only
  repeat' first
    | with_reducible assumption
    | with_reducible apply logEvent_keeps
    | with_reducible apply detect_keeps
    | with_reducible refine OutKeeps.next ?_
    | with_reducible exact OutKeeps.refused
    | with_reducible refine Keeps.foldl _ _ ?_ ?_
    | with_reducible exact FusesRise.refl _
    | with_reducible exact Nat.le_refl _
    | with_reducible exact id
    | with_reducible exact cellsWrite_wf _ _ _
    | exact ⟨Nat.le_refl _, id, fun _ => id, fun _ => id⟩
    | with_reducible refine Keeps.ite ?_ ?_
    | with_reducible refine OutKeeps.ite ?_ ?_
    | (intro _)
    | split
    | with_reducible apply Keeps.rest
    | with_reducible apply Keeps.upd

theorem takePlan_keeps {s0 s : State} {a1} (h : Keeps s0 s) : Keeps s0 (takePlan a1 s) := by
  unfold takePlan
  try dsimp only
  repeat' first
    | with_reducible assumption
    | with_reducible apply logEvent_keeps
    | with_reducible refine OutKeeps.next ?_
    | with_reducible exact OutKeeps.refused
    | with_reducible refine Keeps.foldl _ _ ?_ ?_
    | with_reducible exact FusesRise.refl _
    | with_reducible exact Nat.le_refl _
    | with_reducible exact id
    | with_reducible exact cellsWrite_wf _ _ _
    | exact ⟨Nat.le_refl _, id, fun _ => id, fun _ => id⟩
    | with_reducible refine Keeps.ite ?_ ?_
    | with_reducible refine OutKeeps.ite ?_ ?_
    | (intro _)
    | split
    | with_reducible apply Keeps.rest
    | with_reducible apply Keeps.upd

theorem advanceFuse_keeps {s0 s : State} (h : Keeps s0 s) : Keeps s0 (advanceFuse s) := by
  unfold advanceFuse
  try dsimp only
  repeat' first
    | with_reducible assumption
    | with_reducible refine OutKeeps.next ?_
    | with_reducible exact OutKeeps.refused
    | with_reducible refine Keeps.foldl _ _ ?_ ?_
    | with_reducible exact FusesRise.refl _
    | with_reducible exact Nat.le_refl _
    | with_reducible exact id
    | with_reducible exact cellsWrite_wf _ _ _
    | exact ⟨Nat.le_refl _, id, fun _ => id, fun _ => id⟩
    | with_reducible refine Keeps.ite ?_ ?_
    | with_reducible refine OutKeeps.ite ?_ ?_
    | (intro _)
    | split
    | with_reducible apply Keeps.rest
    | with_reducible apply Keeps.upd

theorem transition_keeps {s0 s : State} (h : Keeps s0 s) : Keeps s0 (transition s) := by
  unfold transition
  try dsimp only
  repeat' first
    | with_reducible assumption
    | with_reducible apply advanceFuse_keeps
    | with_reducible apply setState_keeps
    | with_reducible apply logEvent_keeps
    | with_reducible refine OutKeeps.next ?_
    | with_reducible exact OutKeeps.refused
    | with_reducible refine Keeps.foldl _ _ ?_ ?_
    | with_reducible exact FusesRise.refl _
    | with_reducible exact Nat.le_refl _
    | with_reducible exact id
    | with_reducible exact cellsWrite_wf _ _ _
    | exact ⟨Nat.le_refl _, id, fun _ => id, fun _ => id⟩
    | with_reducible refine Keeps.ite ?_ ?_
    | with_reducible refine OutKeeps.ite ?_ ?_
    | (intro _)
    | split
    | with_reducible apply Keeps.rest
    | with_reducible apply Keeps.upd

theorem returnStream_keeps {s0 s : State} {a1 a2} (h : Keeps s0 s) : Keeps s0 (returnStream a1 s a2) := by
  unfold returnStream
  try dsimp only
  repeat' first
    | with_reducible assumption
    | with_reducible apply logEvent_keeps
    | with_reducible apply State.modUnit_keeps
    | with_reducible refine OutKeeps.next ?_
    | with_reducible exact OutKeeps.refused
    | with_reducible refine Keeps.foldl _ _ ?_ ?_
    | with_reducible exact FusesRise.refl _
    | with_reducible exact Nat.le_refl _
    | with_reducible exact id
    | with_reducible exact cellsWrite_wf _ _ _
    | exact ⟨Nat.le_refl _, id, fun _ => id, fun _ => id⟩
    | with_reducible refine Keeps.ite ?_ ?_
    | with_reducible refine OutKeeps.ite ?_ ?_
    | (intro _)
    | split
    | with_reducible apply Keeps.rest
    | with_reducible apply Keeps.upd

theorem returnStreams_keeps {s0 s : State} (h : Keeps s0 s) : Keeps s0 (returnStreams s) := by
  unfold returnStreams
  try dsimp only
  repeat' first
    | with_reducible assumption
    | with_reducible apply returnStream_keeps
    | with_reducible refine OutKeeps.next ?_
    | with_reducible exact OutKeeps.refused
    | with_reducible refine Keeps.foldl _ _ ?_ ?_
    | with_reducible exact FusesRise.refl _
    | with_reducible exact Nat.le_refl _
    | with_reducible exact id
    | with_reducible exact cellsWrite_wf _ _ _
    | exact ⟨Nat.le_refl _, id, fun _ => id, fun _ => id⟩
    | with_reducible refine Keeps.ite ?_ ?_
    | with_reducible refine OutKeeps.ite ?_ ?_
    | (intro _)
    | split
    | with_reducible apply Keeps.rest
    | with_reducible apply Keeps.upd

theorem noteMode_keeps {s0 s : State} (h : Keeps s0 s) : Keeps s0 (noteMode s) := by
  unfold noteMode
  try dsimp only
  repeat' first
    | with_reducible assumption
    | with_reducible refine OutKeeps.next ?_
    | with_reducible exact OutKeeps.refused
    | with_reducible refine Keeps.foldl _ _ ?_ ?_
    | with_reducible exact FusesRise.refl _
    | with_reducible exact Nat.le_refl _
    | with_reducible exact id
    | with_reducible exact cellsWrite_wf _ _ _
    | exact ⟨Nat.le_refl _, id, fun _ => id, fun _ => id⟩
    | with_reducible refine Keeps.ite ?_ ?_
    | with_reducible refine OutKeeps.ite ?_ ?_
    | (intro _)
    | split
    | with_reducible apply Keeps.rest
    | with_reducible apply Keeps.upd

theorem markHeld_keeps {s0 s : State} (h : Keeps s0 s) : Keeps s0 (markHeld s) := by
  unfold markHeld
  try dsimp only
  repeat' first
    | with_reducible assumption
    | with_reducible apply invalidate_keeps
    | with_reducible refine OutKeeps.next ?_
    | with_reducible exact OutKeeps.refused
    | with_reducible refine Keeps.foldl _ _ ?_ ?_
    | with_reducible exact FusesRise.refl _
    | with_reducible exact Nat.le_refl _
    | with_reducible exact id
    | with_reducible exact cellsWrite_wf _ _ _
    | exact ⟨Nat.le_refl _, id, fun _ => id, fun _ => id⟩
    | with_reducible refine Keeps.ite ?_ ?_
    | with_reducible refine OutKeeps.ite ?_ ?_
    | (intro _)
    | split
    | with_reducible apply Keeps.rest
    | with_reducible apply Keeps.upd

/-- Bytes written one by one keep the canonical form. -/
theorem cellWrites_wf (f : Host.Cell → Nat) (l : List Host.Cell) (m : List Host.Cell) (h : Memory.wf m = true) :
    Memory.wf (l.foldl (fun m c => cellWrite m (f c) c.2) m) = true := by
  induction l generalizing m with
  | nil => exact h
  | cons c l ih => exact ih _ (cellWrite_wf _ _ _ h)

theorem movePage_keeps {s0 s : State} {a1 a2} (h : Keeps s0 s) : Keeps s0 (movePage a1 a2 s) := by
  unfold movePage
  try dsimp only
  repeat' first
    | with_reducible assumption
    | with_reducible exact cellWrites_wf _ _ _
    | with_reducible refine OutKeeps.next ?_
    | with_reducible exact OutKeeps.refused
    | with_reducible refine Keeps.foldl _ _ ?_ ?_
    | with_reducible exact FusesRise.refl _
    | with_reducible exact Nat.le_refl _
    | with_reducible exact id
    | with_reducible exact cellsWrite_wf _ _ _
    | exact ⟨Nat.le_refl _, id, fun _ => id, fun _ => id⟩
    | with_reducible refine Keeps.ite ?_ ?_
    | with_reducible refine OutKeeps.ite ?_ ?_
    | (intro _)
    | split
    | with_reducible apply Keeps.rest
    | with_reducible apply Keeps.upd

theorem movePages_keeps {s0 s : State} {a1 a2} (h : Keeps s0 s) : Keeps s0 (movePages a1 a2 s) := by
  unfold movePages
  try dsimp only
  repeat' first
    | with_reducible assumption
    | with_reducible apply movePage_keeps
    | with_reducible refine OutKeeps.next ?_
    | with_reducible exact OutKeeps.refused
    | with_reducible refine Keeps.foldl _ _ ?_ ?_
    | with_reducible exact FusesRise.refl _
    | with_reducible exact Nat.le_refl _
    | with_reducible exact id
    | with_reducible exact cellsWrite_wf _ _ _
    | exact ⟨Nat.le_refl _, id, fun _ => id, fun _ => id⟩
    | with_reducible refine Keeps.ite ?_ ?_
    | with_reducible refine OutKeeps.ite ?_ ?_
    | (intro _)
    | split
    | with_reducible apply Keeps.rest
    | with_reducible apply Keeps.upd

theorem reHousePages_keeps {s0 s : State} {a1 a2} (h : Keeps s0 s) : Keeps s0 (reHousePages a1 a2 s).2 := by
  unfold reHousePages
  cases s.newHouse a2 with
  | none => exact h
  | some d => exact (movePages_keeps h)

theorem reHouse_keeps {s0 s : State} {a1 a2} (h : Keeps s0 s) : Keeps s0 (reHouse a1 a2 s).2 :=
  (reHousePages_keeps h)

theorem reHouseCopies_keeps {s0 s : State} (h : Keeps s0 s) : Keeps s0 (reHouseCopies s) := by
  unfold reHouseCopies
  exact Keeps.foldl _ _ h fun _ _ k => Keeps.rest (reHouse_keeps k)

theorem reHouseRing_keeps {s0 s : State} (h : Keeps s0 s) : Keeps s0 (reHouseRing s) := by
  unfold reHouseRing
  exact Keeps.foldl _ _ h fun _ _ k => Keeps.rest (reHouse_keeps k)

theorem rePlace_keeps {s0 s : State} {a1} (h : Keeps s0 s) : Keeps s0 (rePlace s a1) := by
  unfold rePlace
  try dsimp only
  repeat' first
    | with_reducible assumption
    | with_reducible apply queueRestore_keeps
    | with_reducible apply forgetValues_keeps
    | with_reducible apply unmapPage_keeps
    | with_reducible apply setPte_keeps
    | with_reducible apply startDrop_keeps
    | with_reducible apply movePage_keeps
    | with_reducible refine OutKeeps.next ?_
    | with_reducible exact OutKeeps.refused
    | with_reducible refine Keeps.foldl _ _ ?_ ?_
    | with_reducible exact FusesRise.refl _
    | with_reducible exact Nat.le_refl _
    | with_reducible exact id
    | with_reducible exact cellsWrite_wf _ _ _
    | exact ⟨Nat.le_refl _, id, fun _ => id, fun _ => id⟩
    | with_reducible refine Keeps.ite ?_ ?_
    | with_reducible refine OutKeeps.ite ?_ ?_
    | (intro _)
    | split
    | with_reducible apply Keeps.rest
    | with_reducible apply Keeps.upd

theorem restorePages_keeps {s0 s : State} (h : Keeps s0 s) : Keeps s0 (restorePages s) := by
  unfold restorePages
  try dsimp only
  repeat' first
    | with_reducible assumption
    | with_reducible apply reHouseCopies_keeps
    | with_reducible apply reHouseRing_keeps
    | with_reducible apply rePlace_keeps
    | with_reducible refine OutKeeps.next ?_
    | with_reducible exact OutKeeps.refused
    | with_reducible refine Keeps.foldl _ _ ?_ ?_
    | with_reducible exact FusesRise.refl _
    | with_reducible exact Nat.le_refl _
    | with_reducible exact id
    | with_reducible exact cellsWrite_wf _ _ _
    | exact ⟨Nat.le_refl _, id, fun _ => id, fun _ => id⟩
    | with_reducible refine Keeps.ite ?_ ?_
    | with_reducible refine OutKeeps.ite ?_ ?_
    | (intro _)
    | split
    | with_reducible apply Keeps.rest
    | with_reducible apply Keeps.upd

theorem closePoisoned_keeps {s0 s : State} (h : Keeps s0 s) : Keeps s0 (closePoisoned s) := by
  unfold closePoisoned
  try dsimp only
  repeat' first
    | with_reducible assumption
    | with_reducible apply closeSession_keeps
    | with_reducible apply releaseKeep_keeps
    | with_reducible apply setLeaf_keeps
    | with_reducible apply logEvent_keeps
    | with_reducible refine OutKeeps.next ?_
    | with_reducible exact OutKeeps.refused
    | with_reducible refine Keeps.foldl _ _ ?_ ?_
    | with_reducible exact FusesRise.refl _
    | with_reducible exact Nat.le_refl _
    | with_reducible exact id
    | with_reducible exact cellsWrite_wf _ _ _
    | exact ⟨Nat.le_refl _, id, fun _ => id, fun _ => id⟩
    | with_reducible refine Keeps.ite ?_ ?_
    | with_reducible refine OutKeeps.ite ?_ ?_
    | (intro _)
    | split
    | with_reducible apply Keeps.rest
    | with_reducible apply Keeps.upd

theorem retire_keeps {s0 s : State} (h : Keeps s0 s) : Keeps s0 (retire s) := by
  unfold retire
  try dsimp only
  repeat' first
    | with_reducible assumption
    | with_reducible apply abandonInst_keeps
    | with_reducible apply forgetValues_keeps
    | with_reducible refine OutKeeps.next ?_
    | with_reducible exact OutKeeps.refused
    | with_reducible refine Keeps.foldl _ _ ?_ ?_
    | with_reducible exact FusesRise.refl _
    | with_reducible exact Nat.le_refl _
    | with_reducible exact id
    | with_reducible exact cellsWrite_wf _ _ _
    | exact ⟨Nat.le_refl _, id, fun _ => id, fun _ => id⟩
    | with_reducible refine Keeps.ite ?_ ?_
    | with_reducible refine OutKeeps.ite ?_ ?_
    | (intro _)
    | split
    | with_reducible apply Keeps.rest
    | with_reducible apply Keeps.upd

theorem ageClasses_keeps {s0 s : State} (h : Keeps s0 s) : Keeps s0 (ageClasses s) := by
  unfold ageClasses
  try dsimp only
  repeat' first
    | with_reducible assumption
    | with_reducible apply unresolved_keeps
    | with_reducible refine OutKeeps.next ?_
    | with_reducible exact OutKeeps.refused
    | with_reducible refine Keeps.foldl _ _ ?_ ?_
    | with_reducible exact FusesRise.refl _
    | with_reducible exact Nat.le_refl _
    | with_reducible exact id
    | with_reducible exact cellsWrite_wf _ _ _
    | exact ⟨Nat.le_refl _, id, fun _ => id, fun _ => id⟩
    | with_reducible refine Keeps.ite ?_ ?_
    | with_reducible refine OutKeeps.ite ?_ ?_
    | (intro _)
    | split
    | with_reducible apply Keeps.rest
    | with_reducible apply Keeps.upd

theorem shiftProofs_keeps {s0 s : State} (h : Keeps s0 s) : Keeps s0 (shiftProofs s) := by
  unfold shiftProofs
  try dsimp only
  repeat' first
    | with_reducible assumption
    | with_reducible refine OutKeeps.next ?_
    | with_reducible exact OutKeeps.refused
    | with_reducible refine Keeps.foldl _ _ ?_ ?_
    | with_reducible exact FusesRise.refl _
    | with_reducible exact Nat.le_refl _
    | with_reducible exact id
    | with_reducible exact cellsWrite_wf _ _ _
    | exact ⟨Nat.le_refl _, id, fun _ => id, fun _ => id⟩
    | with_reducible refine Keeps.ite ?_ ?_
    | with_reducible refine OutKeeps.ite ?_ ?_
    | (intro _)
    | split
    | with_reducible apply Keeps.rest
    | with_reducible apply Keeps.upd

theorem settleClass_keeps {s0 s : State} {a1} (h : Keeps s0 s) : Keeps s0 (settleClass a1 s) := by
  unfold settleClass
  try dsimp only
  repeat' first
    | with_reducible assumption
    | with_reducible apply endClass_keeps
    | with_reducible apply unresolved_keeps
    | with_reducible apply setClass_keeps
    | with_reducible apply logEvent_keeps
    | with_reducible refine OutKeeps.next ?_
    | with_reducible exact OutKeeps.refused
    | with_reducible refine Keeps.foldl _ _ ?_ ?_
    | with_reducible exact FusesRise.refl _
    | with_reducible exact Nat.le_refl _
    | with_reducible exact id
    | with_reducible exact cellsWrite_wf _ _ _
    | exact ⟨Nat.le_refl _, id, fun _ => id, fun _ => id⟩
    | with_reducible refine Keeps.ite ?_ ?_
    | with_reducible refine OutKeeps.ite ?_ ?_
    | (intro _)
    | split
    | with_reducible apply Keeps.rest
    | with_reducible apply Keeps.upd

theorem settleClasses_keeps {s0 s : State} (h : Keeps s0 s) : Keeps s0 (settleClasses s) := by
  unfold settleClasses
  try dsimp only
  repeat' first
    | with_reducible assumption
    | with_reducible apply settleClass_keeps
    | with_reducible refine OutKeeps.next ?_
    | with_reducible exact OutKeeps.refused
    | with_reducible refine Keeps.foldl _ _ ?_ ?_
    | with_reducible exact FusesRise.refl _
    | with_reducible exact Nat.le_refl _
    | with_reducible exact id
    | with_reducible exact cellsWrite_wf _ _ _
    | exact ⟨Nat.le_refl _, id, fun _ => id, fun _ => id⟩
    | with_reducible refine Keeps.ite ?_ ?_
    | with_reducible refine OutKeeps.ite ?_ ?_
    | (intro _)
    | split
    | with_reducible apply Keeps.rest
    | with_reducible apply Keeps.upd

theorem formRuns_keeps {s0 s : State} (h : Keeps s0 s) : Keeps s0 (formRuns s) := by
  unfold formRuns
  try dsimp only
  repeat' first
    | with_reducible assumption
    | with_reducible apply formRun_keeps
    | with_reducible refine OutKeeps.next ?_
    | with_reducible exact OutKeeps.refused
    | with_reducible refine Keeps.foldl _ _ ?_ ?_
    | with_reducible exact FusesRise.refl _
    | with_reducible exact Nat.le_refl _
    | with_reducible exact id
    | with_reducible exact cellsWrite_wf _ _ _
    | exact ⟨Nat.le_refl _, id, fun _ => id, fun _ => id⟩
    | with_reducible refine Keeps.ite ?_ ?_
    | with_reducible refine OutKeeps.ite ?_ ?_
    | (intro _)
    | split
    | with_reducible apply Keeps.rest
    | with_reducible apply Keeps.upd

theorem addMoves_keeps {s0 s : State} {a1 a2} (h : Keeps s0 s) : Keeps s0 (addMoves a1 a2 s) := by
  unfold addMoves
  try dsimp only
  repeat' first
    | with_reducible assumption
    | with_reducible apply logOnce_keeps
    | with_reducible refine OutKeeps.next ?_
    | with_reducible exact OutKeeps.refused
    | with_reducible refine Keeps.foldl _ _ ?_ ?_
    | with_reducible exact FusesRise.refl _
    | with_reducible exact Nat.le_refl _
    | with_reducible exact id
    | with_reducible exact cellsWrite_wf _ _ _
    | exact ⟨Nat.le_refl _, id, fun _ => id, fun _ => id⟩
    | with_reducible refine Keeps.ite ?_ ?_
    | with_reducible refine OutKeeps.ite ?_ ?_
    | (intro _)
    | split
    | with_reducible apply Keeps.rest
    | with_reducible apply Keeps.upd

theorem moveWork_keeps {s0 s : State} {a1} (h : Keeps s0 s) : Keeps s0 (moveWork a1 s) := by
  unfold moveWork
  try dsimp only
  repeat' first
    | with_reducible assumption
    | with_reducible apply logEvent_keeps
    | with_reducible apply addMoves_keeps
    | with_reducible refine OutKeeps.next ?_
    | with_reducible exact OutKeeps.refused
    | with_reducible refine Keeps.foldl _ _ ?_ ?_
    | with_reducible exact FusesRise.refl _
    | with_reducible exact Nat.le_refl _
    | with_reducible exact id
    | with_reducible exact cellsWrite_wf _ _ _
    | exact ⟨Nat.le_refl _, id, fun _ => id, fun _ => id⟩
    | with_reducible refine Keeps.ite ?_ ?_
    | with_reducible refine OutKeeps.ite ?_ ?_
    | (intro _)
    | split
    | with_reducible apply Keeps.rest
    | with_reducible apply Keeps.upd

theorem afterBoundary_keeps {s0 s : State} {a1} (h : Keeps s0 s) : Keeps s0 (afterBoundary a1 s) := by
  unfold afterBoundary
  try dsimp only
  repeat' first
    | with_reducible assumption
    | with_reducible apply closeCue_keeps
    | with_reducible apply applyTest_keeps
    | with_reducible apply takePlan_keeps
    | with_reducible apply transition_keeps
    | with_reducible apply returnStreams_keeps
    | with_reducible apply noteMode_keeps
    | with_reducible apply markHeld_keeps
    | with_reducible apply restorePages_keeps
    | with_reducible apply closePoisoned_keeps
    | with_reducible apply retire_keeps
    | with_reducible apply ageClasses_keeps
    | with_reducible apply shiftProofs_keeps
    | with_reducible apply settleClasses_keeps
    | with_reducible apply formRuns_keeps
    | with_reducible apply moveWork_keeps
    | with_reducible refine Keeps.fst ?_ (by assumption)
    | with_reducible refine OutKeeps.next ?_
    | with_reducible exact OutKeeps.refused
    | with_reducible refine Keeps.foldl _ _ ?_ ?_
    | with_reducible exact FusesRise.refl _
    | with_reducible exact Nat.le_refl _
    | with_reducible exact id
    | with_reducible exact cellsWrite_wf _ _ _
    | exact ⟨Nat.le_refl _, id, fun _ => id, fun _ => id⟩
    | with_reducible refine Keeps.ite ?_ ?_
    | with_reducible refine OutKeeps.ite ?_ ?_
    | (intro _)
    | split
    | with_reducible apply Keeps.rest
    | with_reducible apply Keeps.upd

theorem answerMaint_keeps {s0 s : State} {a1} (h : Keeps s0 s) : Keeps s0 (answerMaint a1 s) := by
  unfold answerMaint
  try dsimp only
  repeat' first
    | with_reducible assumption
    | with_reducible apply reply_keeps
    | with_reducible refine OutKeeps.next ?_
    | with_reducible exact OutKeeps.refused
    | with_reducible refine Keeps.foldl _ _ ?_ ?_
    | with_reducible exact FusesRise.refl _
    | with_reducible exact Nat.le_refl _
    | with_reducible exact id
    | with_reducible exact cellsWrite_wf _ _ _
    | exact ⟨Nat.le_refl _, id, fun _ => id, fun _ => id⟩
    | with_reducible refine Keeps.ite ?_ ?_
    | with_reducible refine OutKeeps.ite ?_ ?_
    | (intro _)
    | split
    | with_reducible apply Keeps.rest
    | with_reducible apply Keeps.upd

theorem enterMaintenance_keeps {s0 s : State} (h : Keeps s0 s) : Keeps s0 (enterMaintenance s) := by
  unfold enterMaintenance
  try dsimp only
  repeat' first
    | with_reducible assumption
    | with_reducible apply setState_keeps
    | with_reducible apply logEvent_keeps
    | with_reducible apply stopRun_keeps
    | with_reducible apply closeSession_keeps
    | with_reducible apply curtainStop_keeps
    | with_reducible refine OutKeeps.next ?_
    | with_reducible exact OutKeeps.refused
    | with_reducible refine Keeps.foldl _ _ ?_ ?_
    | with_reducible exact FusesRise.refl _
    | with_reducible exact Nat.le_refl _
    | with_reducible exact id
    | with_reducible exact cellsWrite_wf _ _ _
    | exact ⟨Nat.le_refl _, id, fun _ => id, fun _ => id⟩
    | with_reducible refine Keeps.ite ?_ ?_
    | with_reducible refine OutKeeps.ite ?_ ?_
    | (intro _)
    | split
    | with_reducible apply Keeps.rest
    | with_reducible apply Keeps.upd

theorem boundary_keeps {s0 s : State} {a1 a2 a3} (h : Keeps s0 s) : Keeps s0 (boundary a1 a2 a3 s) := by
  unfold boundary
  try dsimp only
  repeat' first
    | with_reducible assumption
    | with_reducible apply strikeOverdue_keeps
    | with_reducible apply pairDetections_keeps
    | with_reducible apply holdAtBoundary_keeps
    | with_reducible apply returnUnits_keeps
    | with_reducible apply closeDigests_keeps
    | with_reducible apply stopAtBoundary_keeps
    | with_reducible apply beginInvalid_keeps
    | with_reducible apply placeBoundary_keeps
    | with_reducible apply afterBoundary_keeps
    | with_reducible apply answerMaint_keeps
    | with_reducible apply enterMaintenance_keeps
    | with_reducible apply closeCue_keeps
    | with_reducible refine Keeps.fst ?_ (by assumption)
    | with_reducible refine OutKeeps.next ?_
    | with_reducible exact OutKeeps.refused
    | with_reducible refine Keeps.foldl _ _ ?_ ?_
    | with_reducible exact FusesRise.refl _
    | with_reducible exact Nat.le_refl _
    | with_reducible exact id
    | with_reducible exact cellsWrite_wf _ _ _
    | exact ⟨Nat.le_refl _, id, fun _ => id, fun _ => id⟩
    | with_reducible refine Keeps.ite ?_ ?_
    | with_reducible refine OutKeeps.ite ?_ ?_
    | (intro _)
    | split
    | with_reducible apply Keeps.rest
    | with_reducible apply Keeps.upd

theorem failPair_keeps {s0 s : State} (h : Keeps s0 s) : Keeps s0 (failPair s) := by
  unfold failPair
  try dsimp only
  repeat' first
    | with_reducible assumption
    | with_reducible refine OutKeeps.next ?_
    | with_reducible exact OutKeeps.refused
    | with_reducible refine Keeps.foldl _ _ ?_ ?_
    | with_reducible exact FusesRise.refl _
    | with_reducible exact Nat.le_refl _
    | with_reducible exact id
    | with_reducible exact cellsWrite_wf _ _ _
    | exact ⟨Nat.le_refl _, id, fun _ => id, fun _ => id⟩
    | with_reducible refine Keeps.ite ?_ ?_
    | with_reducible refine OutKeeps.ite ?_ ?_
    | (intro _)
    | split
    | with_reducible apply Keeps.rest
    | with_reducible apply Keeps.upd

end Sys2Proof.Machine
end

