-- ==== Sys2Proof/Laws/KeepsCue.lean ====
section
/-! SUPPORT. What the operations of Machine/Cue.lean keep. -/

namespace Sys2Proof.Machine

theorem acceptEdge_keeps {s0 s : State} {a1 a2} (h : Keeps s0 s) : Keeps s0 (acceptEdge a1 a2 s) := by
  unfold acceptEdge
  try dsimp only
  repeat' first
    | with_reducible assumption
    | with_reducible apply logEvent_keeps
    | with_reducible apply boundary_keeps
    | with_reducible refine OutKeeps.next ?_
    | with_reducible exact OutKeeps.refused
    | with_reducible refine Keeps.foldl _ _ ?_ ?_
    | with_reducible exact FusesRise.refl _
    | with_reducible exact Nat.le_refl _
    | with_reducible exact id
    | with_reducible exact cellsWrite_wf _ _ _
    | exact ⟨Nat.le_refl _, id, fun _ => id, fun _ => id⟩
    | with_reducible refine Keeps.ite ?_ ?_
    | with_reducible refine OutKeeps.ite ?_ ?_
    | (intro _)
    | split
    | with_reducible apply Keeps.rest
    | with_reducible apply Keeps.upd

theorem placeBatch_keeps {s0 s : State} {a1} (h : Keeps s0 s) : Keeps s0 (placeBatch a1 s) := by
  unfold placeBatch
  try dsimp only
  repeat' first
    | with_reducible assumption
    | with_reducible apply devWrite_keeps
    | with_reducible refine OutKeeps.next ?_
    | with_reducible exact OutKeeps.refused
    | with_reducible refine Keeps.foldl _ _ ?_ ?_
    | with_reducible exact FusesRise.refl _
    | with_reducible exact Nat.le_refl _
    | with_reducible exact id
    | with_reducible exact cellsWrite_wf _ _ _
    | exact ⟨Nat.le_refl _, id, fun _ => id, fun _ => id⟩
    | with_reducible refine Keeps.ite ?_ ?_
    | with_reducible refine OutKeeps.ite ?_ ?_
    | (intro _)
    | split
    | with_reducible apply Keeps.rest
    | with_reducible apply Keeps.upd

theorem closeBatch_keeps {s0 s : State} (h : Keeps s0 s) : Keeps s0 (closeBatch s) := by
  unfold closeBatch
  try dsimp only
  repeat' first
    | with_reducible assumption
    | with_reducible apply placeBatch_keeps
    | with_reducible refine OutKeeps.next ?_
    | with_reducible exact OutKeeps.refused
    | with_reducible refine Keeps.foldl _ _ ?_ ?_
    | with_reducible exact FusesRise.refl _
    | with_reducible exact Nat.le_refl _
    | with_reducible exact id
    | with_reducible exact cellsWrite_wf _ _ _
    | exact ⟨Nat.le_refl _, id, fun _ => id, fun _ => id⟩
    | with_reducible refine Keeps.ite ?_ ?_
    | with_reducible refine OutKeeps.ite ?_ ?_
    | (intro _)
    | split
    | with_reducible apply Keeps.rest
    | with_reducible apply Keeps.upd

theorem cueFault_keeps {s0 s : State} {a1 a2} (h : Keeps s0 s) : Keeps s0 (cueFault a1 a2 s) := by
  unfold cueFault
  try dsimp only
  repeat' first
    | with_reducible assumption
    | with_reducible apply noteSeen_keeps
    | with_reducible apply logEvent_keeps
    | with_reducible refine OutKeeps.next ?_
    | with_reducible exact OutKeeps.refused
    | with_reducible refine Keeps.foldl _ _ ?_ ?_
    | with_reducible exact FusesRise.refl _
    | with_reducible exact Nat.le_refl _
    | with_reducible exact id
    | with_reducible exact cellsWrite_wf _ _ _
    | exact ⟨Nat.le_refl _, id, fun _ => id, fun _ => id⟩
    | with_reducible refine Keeps.ite ?_ ?_
    | with_reducible refine OutKeeps.ite ?_ ?_
    | (intro _)
    | split
    | with_reducible apply Keeps.rest
    | with_reducible apply Keeps.upd

theorem decidePair_keeps {s0 s : State} (h : Keeps s0 s) : Keeps s0 (decidePair s) := by
  unfold decidePair
  try dsimp only
  repeat' first
    | with_reducible assumption
    | with_reducible refine OutKeeps.next ?_
    | with_reducible exact OutKeeps.refused
    | with_reducible refine Keeps.foldl _ _ ?_ ?_
    | with_reducible exact FusesRise.refl _
    | with_reducible exact Nat.le_refl _
    | with_reducible exact id
    | with_reducible exact cellsWrite_wf _ _ _
    | exact ⟨Nat.le_refl _, id, fun _ => id, fun _ => id⟩
    | with_reducible refine Keeps.ite ?_ ?_
    | with_reducible refine OutKeeps.ite ?_ ?_
    | (intro _)
    | split
    | with_reducible apply Keeps.rest
    | with_reducible apply Keeps.upd

theorem endCompare_keeps {s0 s : State} (h : Keeps s0 s) : Keeps s0 (endCompare s) := by
  unfold endCompare
  try dsimp only
  repeat' first
    | with_reducible assumption
    | with_reducible refine OutKeeps.next ?_
    | with_reducible exact OutKeeps.refused
    | with_reducible refine Keeps.foldl _ _ ?_ ?_
    | with_reducible exact FusesRise.refl _
    | with_reducible exact Nat.le_refl _
    | with_reducible exact id
    | with_reducible exact cellsWrite_wf _ _ _
    | exact ⟨Nat.le_refl _, id, fun _ => id, fun _ => id⟩
    | with_reducible refine Keeps.ite ?_ ?_
    | with_reducible refine OutKeeps.ite ?_ ?_
    | (intro _)
    | split
    | with_reducible apply Keeps.rest
    | with_reducible apply Keeps.upd

theorem execClassificationRepeatVerdict_keeps {s0 s : State} {a1 a2} (h : Keeps s0 s) : OutKeeps s0
    (execClassificationRepeatVerdict a1 a2 s) := by
  unfold execClassificationRepeatVerdict
  try dsimp only
  repeat' first
    | with_reducible assumption
    | with_reducible apply State.at_keeps
    | with_reducible apply countFaultCue_keeps
    | with_reducible apply logEvent_keeps
    | with_reducible apply railSeen_keeps
    | with_reducible apply endClass_keeps
    | with_reducible apply setClass_keeps
    | with_reducible apply countTransient_keeps
    | with_reducible refine OutKeeps.next ?_
    | with_reducible exact OutKeeps.refused
    | with_reducible refine Keeps.foldl _ _ ?_ ?_
    | with_reducible exact FusesRise.refl _
    | with_reducible exact Nat.le_refl _
    | with_reducible exact id
    | with_reducible exact cellsWrite_wf _ _ _
    | exact ⟨Nat.le_refl _, id, fun _ => id, fun _ => id⟩
    | with_reducible refine Keeps.ite ?_ ?_
    | with_reducible refine OutKeeps.ite ?_ ?_
    | (intro _)
    | split
    | with_reducible apply Keeps.rest
    | with_reducible apply Keeps.upd

theorem startClass_keeps {s0 s : State} {a1} (h : Keeps s0 s) : Keeps s0 (startClass a1 s) := by
  unfold startClass
  try dsimp only
  repeat' first
    | with_reducible assumption
    | with_reducible apply logEvent_keeps
    | with_reducible apply formRun_keeps
    | with_reducible refine OutKeeps.next ?_
    | with_reducible exact OutKeeps.refused
    | with_reducible refine Keeps.foldl _ _ ?_ ?_
    | with_reducible exact FusesRise.refl _
    | with_reducible exact Nat.le_refl _
    | with_reducible exact id
    | with_reducible exact cellsWrite_wf _ _ _
    | exact ⟨Nat.le_refl _, id, fun _ => id, fun _ => id⟩
    | with_reducible refine Keeps.ite ?_ ?_
    | with_reducible refine OutKeeps.ite ?_ ?_
    | (intro _)
    | split
    | with_reducible apply Keeps.rest
    | with_reducible apply Keeps.upd

theorem mismatch_keeps {s0 s : State} {a1} (h : Keeps s0 s) : Keeps s0 (mismatch a1 s) := by
  unfold mismatch
  try dsimp only
  repeat' first
    | with_reducible assumption
    | with_reducible apply detect_keeps
    | with_reducible apply logEvent_keeps
    | with_reducible apply startClass_keeps
    | with_reducible refine OutKeeps.next ?_
    | with_reducible exact OutKeeps.refused
    | with_reducible refine Keeps.foldl _ _ ?_ ?_
    | with_reducible exact FusesRise.refl _
    | with_reducible exact Nat.le_refl _
    | with_reducible exact id
    | with_reducible exact cellsWrite_wf _ _ _
    | exact ⟨Nat.le_refl _, id, fun _ => id, fun _ => id⟩
    | with_reducible refine Keeps.ite ?_ ?_
    | with_reducible refine OutKeeps.ite ?_ ?_
    | (intro _)
    | split
    | with_reducible apply Keeps.rest
    | with_reducible apply Keeps.upd

theorem execComparatorVerdict_keeps {s0 s : State} {a1 a2} (h : Keeps s0 s) : OutKeeps s0 (execComparatorVerdict a1 a2 s) := by
  unfold execComparatorVerdict
  try dsimp only
  repeat' first
    | with_reducible assumption
    | with_reducible apply State.at_keeps
    | with_reducible apply endCompare_keeps
    | with_reducible apply logEvent_keeps
    | with_reducible apply railSeen_keeps
    | with_reducible apply countFaultCue_keeps
    | with_reducible apply detect_keeps
    | with_reducible apply mismatch_keeps
    | with_reducible refine OutKeeps.next ?_
    | with_reducible exact OutKeeps.refused
    | with_reducible refine Keeps.foldl _ _ ?_ ?_
    | with_reducible exact FusesRise.refl _
    | with_reducible exact Nat.le_refl _
    | with_reducible exact id
    | with_reducible exact cellsWrite_wf _ _ _
    | exact ⟨Nat.le_refl _, id, fun _ => id, fun _ => id⟩
    | with_reducible refine Keeps.ite ?_ ?_
    | with_reducible refine OutKeeps.ite ?_ ?_
    | (intro _)
    | split
    | with_reducible apply Keeps.rest
    | with_reducible apply Keeps.upd

theorem execComparisonStart_keeps {s0 s : State} {a1} (h : Keeps s0 s) : OutKeeps s0 (execComparisonStart a1 s) := by
  unfold execComparisonStart
  try dsimp only
  repeat' first
    | with_reducible assumption
    | with_reducible apply State.at_keeps
    | with_reducible refine OutKeeps.next ?_
    | with_reducible exact OutKeeps.refused
    | with_reducible refine Keeps.foldl _ _ ?_ ?_
    | with_reducible exact FusesRise.refl _
    | with_reducible exact Nat.le_refl _
    | with_reducible exact id
    | with_reducible exact cellsWrite_wf _ _ _
    | exact ⟨Nat.le_refl _, id, fun _ => id, fun _ => id⟩
    | with_reducible refine Keeps.ite ?_ ?_
    | with_reducible refine OutKeeps.ite ?_ ?_
    | (intro _)
    | split
    | with_reducible apply Keeps.rest
    | with_reducible apply Keeps.upd

theorem execCueInEdge_keeps {s0 s : State} {a1 a2 a3 a4} (h : Keeps s0 s) : OutKeeps s0 (execCueInEdge a1 a2 a3 a4 s) := by
  unfold execCueInEdge
  try dsimp only
  repeat' first
    | with_reducible assumption
    | with_reducible apply State.at_keeps
    | with_reducible apply boundary_keeps
    | with_reducible apply cueFault_keeps
    | with_reducible apply acceptEdge_keeps
    | with_reducible refine OutKeeps.next ?_
    | with_reducible exact OutKeeps.refused
    | with_reducible refine Keeps.foldl _ _ ?_ ?_
    | with_reducible exact FusesRise.refl _
    | with_reducible exact Nat.le_refl _
    | with_reducible exact id
    | with_reducible exact cellsWrite_wf _ _ _
    | exact ⟨Nat.le_refl _, id, fun _ => id, fun _ => id⟩
    | with_reducible refine Keeps.ite ?_ ?_
    | with_reducible refine OutKeeps.ite ?_ ?_
    | (intro _)
    | split
    | with_reducible apply Keeps.rest
    | with_reducible apply Keeps.upd

theorem execCueInMissing_keeps {s0 s : State} {a1 a2} (h : Keeps s0 s) : OutKeeps s0 (execCueInMissing a1 a2 s) := by
  unfold execCueInMissing
  try dsimp only
  repeat' first
    | with_reducible assumption
    | with_reducible apply State.at_keeps
    | with_reducible apply boundary_keeps
    | with_reducible apply logEvent_keeps
    | with_reducible apply cueFault_keeps
    | with_reducible refine OutKeeps.next ?_
    | with_reducible exact OutKeeps.refused
    | with_reducible refine Keeps.foldl _ _ ?_ ?_
    | with_reducible exact FusesRise.refl _
    | with_reducible exact Nat.le_refl _
    | with_reducible exact id
    | with_reducible exact cellsWrite_wf _ _ _
    | exact ⟨Nat.le_refl _, id, fun _ => id, fun _ => id⟩
    | with_reducible refine Keeps.ite ?_ ?_
    | with_reducible refine OutKeeps.ite ?_ ?_
    | (intro _)
    | split
    | with_reducible apply Keeps.rest
    | with_reducible apply Keeps.upd

theorem requireSlots_keeps {s0 s : State} (h : Keeps s0 s) : Keeps s0 (requireSlots s) := by
  unfold requireSlots
  try dsimp only
  repeat' first
    | with_reducible assumption
    | with_reducible apply logEvent_keeps
    | with_reducible apply endSafety_keeps
    | with_reducible apply failPair_keeps
    | with_reducible apply detect_keeps
    | with_reducible refine OutKeeps.next ?_
    | with_reducible exact OutKeeps.refused
    | with_reducible refine Keeps.foldl _ _ ?_ ?_
    | with_reducible exact FusesRise.refl _
    | with_reducible exact Nat.le_refl _
    | with_reducible exact id
    | with_reducible exact cellsWrite_wf _ _ _
    | exact ⟨Nat.le_refl _, id, fun _ => id, fun _ => id⟩
    | with_reducible refine Keeps.ite ?_ ?_
    | with_reducible refine OutKeeps.ite ?_ ?_
    | (intro _)
    | split
    | with_reducible apply Keeps.rest
    | with_reducible apply Keeps.upd

theorem execIngestCutoff_keeps {s0 s : State} {a1} (h : Keeps s0 s) : OutKeeps s0 (execIngestCutoff a1 s) := by
  unfold execIngestCutoff
  try dsimp only
  repeat' first
    | with_reducible assumption
    | with_reducible apply State.at_keeps
    | with_reducible apply closeBatch_keeps
    | with_reducible apply requireSlots_keeps
    | with_reducible refine OutKeeps.next ?_
    | with_reducible exact OutKeeps.refused
    | with_reducible refine Keeps.foldl _ _ ?_ ?_
    | with_reducible exact FusesRise.refl _
    | with_reducible exact Nat.le_refl _
    | with_reducible exact id
    | with_reducible exact cellsWrite_wf _ _ _
    | exact ⟨Nat.le_refl _, id, fun _ => id, fun _ => id⟩
    | with_reducible refine Keeps.ite ?_ ?_
    | with_reducible refine OutKeeps.ite ?_ ?_
    | (intro _)
    | split
    | with_reducible apply Keeps.rest
    | with_reducible apply Keeps.upd

theorem markAligned_keeps {s0 s : State} {a1} (h : Keeps s0 s) : Keeps s0 (markAligned a1 s) := by
  unfold markAligned
  try dsimp only
  repeat' first
    | with_reducible assumption
    | with_reducible refine OutKeeps.next ?_
    | with_reducible exact OutKeeps.refused
    | with_reducible refine Keeps.foldl _ _ ?_ ?_
    | with_reducible exact FusesRise.refl _
    | with_reducible exact Nat.le_refl _
    | with_reducible exact id
    | with_reducible exact cellsWrite_wf _ _ _
    | exact ⟨Nat.le_refl _, id, fun _ => id, fun _ => id⟩
    | with_reducible refine Keeps.ite ?_ ?_
    | with_reducible refine OutKeeps.ite ?_ ?_
    | (intro _)
    | split
    | with_reducible apply Keeps.rest
    | with_reducible apply Keeps.upd

theorem execInternalCueBoundary_keeps {s0 s : State} {a1 a2} (h : Keeps s0 s) : OutKeeps s0 (execInternalCueBoundary a1 a2 s) :=
    by
  unfold execInternalCueBoundary
  try dsimp only
  repeat' first
    | with_reducible assumption
    | with_reducible apply State.at_keeps
    | with_reducible apply boundary_keeps
    | with_reducible apply markAligned_keeps
    | with_reducible refine OutKeeps.next ?_
    | with_reducible exact OutKeeps.refused
    | with_reducible refine Keeps.foldl _ _ ?_ ?_
    | with_reducible exact FusesRise.refl _
    | with_reducible exact Nat.le_refl _
    | with_reducible exact id
    | with_reducible exact cellsWrite_wf _ _ _
    | exact ⟨Nat.le_refl _, id, fun _ => id, fun _ => id⟩
    | with_reducible refine Keeps.ite ?_ ?_
    | with_reducible refine OutKeeps.ite ?_ ?_
    | (intro _)
    | split
    | with_reducible apply Keeps.rest
    | with_reducible apply Keeps.upd

theorem suspendSlices_keeps {s0 s : State} {a1 a2} (h : Keeps s0 s) : Keeps s0 (suspendSlices a1 a2 s) := by
  unfold suspendSlices
  try dsimp only
  repeat' first
    | with_reducible assumption
    | with_reducible apply suspendSlice_keeps
    | with_reducible refine OutKeeps.next ?_
    | with_reducible exact OutKeeps.refused
    | with_reducible refine Keeps.foldl _ _ ?_ ?_
    | with_reducible exact FusesRise.refl _
    | with_reducible exact Nat.le_refl _
    | with_reducible exact id
    | with_reducible exact cellsWrite_wf _ _ _
    | exact ⟨Nat.le_refl _, id, fun _ => id, fun _ => id⟩
    | with_reducible refine Keeps.ite ?_ ?_
    | with_reducible refine OutKeeps.ite ?_ ?_
    | (intro _)
    | split
    | with_reducible apply Keeps.rest
    | with_reducible apply Keeps.upd

theorem execLminMark_keeps {s0 s : State} {a1} (h : Keeps s0 s) : OutKeeps s0 (execLminMark a1 s) := by
  unfold execLminMark
  try dsimp only
  repeat' first
    | with_reducible assumption
    | with_reducible apply State.at_keeps
    | with_reducible apply suspendSlices_keeps
    | with_reducible refine OutKeeps.next ?_
    | with_reducible exact OutKeeps.refused
    | with_reducible refine Keeps.foldl _ _ ?_ ?_
    | with_reducible exact FusesRise.refl _
    | with_reducible exact Nat.le_refl _
    | with_reducible exact id
    | with_reducible exact cellsWrite_wf _ _ _
    | exact ⟨Nat.le_refl _, id, fun _ => id, fun _ => id⟩
    | with_reducible refine Keeps.ite ?_ ?_
    | with_reducible refine OutKeeps.ite ?_ ?_
    | (intro _)
    | split
    | with_reducible apply Keeps.rest
    | with_reducible apply Keeps.upd

theorem reportClass_keeps {s0 s : State} {a1 a2} (h : Keeps s0 s) : Keeps s0 (reportClass a1 a2 s) := by
  unfold reportClass
  try dsimp only
  repeat' first
    | with_reducible assumption
    | with_reducible refine OutKeeps.next ?_
    | with_reducible exact OutKeeps.refused
    | with_reducible refine Keeps.foldl _ _ ?_ ?_
    | with_reducible exact FusesRise.refl _
    | with_reducible exact Nat.le_refl _
    | with_reducible exact id
    | with_reducible exact cellsWrite_wf _ _ _
    | exact ⟨Nat.le_refl _, id, fun _ => id, fun _ => id⟩
    | with_reducible refine Keeps.ite ?_ ?_
    | with_reducible refine OutKeeps.ite ?_ ?_
    | (intro _)
    | split
    | with_reducible apply Keeps.rest
    | with_reducible apply Keeps.upd

theorem proofPassed_keeps {s0 s : State} {a1} (h : Keeps s0 s) : Keeps s0 (proofPassed a1 s) := by
  unfold proofPassed
  try dsimp only
  repeat' first
    | with_reducible assumption
    | with_reducible apply reportClass_keeps
    | with_reducible apply State.modUnit_keeps
    | with_reducible apply countTransient_keeps
    | with_reducible apply logEvent_keeps
    | with_reducible refine OutKeeps.next ?_
    | with_reducible exact OutKeeps.refused
    | with_reducible refine Keeps.foldl _ _ ?_ ?_
    | with_reducible exact FusesRise.refl _
    | with_reducible exact Nat.le_refl _
    | with_reducible exact id
    | with_reducible exact cellsWrite_wf _ _ _
    | exact ⟨Nat.le_refl _, id, fun _ => id, fun _ => id⟩
    | with_reducible refine Keeps.ite ?_ ?_
    | with_reducible refine OutKeeps.ite ?_ ?_
    | (intro _)
    | split
    | with_reducible apply Keeps.rest
    | with_reducible apply Keeps.upd

theorem failSectors_keeps {s0 s : State} {a1} (h : Keeps s0 s) : Keeps s0 (failSectors a1 s) := by
  unfold failSectors
  try dsimp only
  repeat' first
    | with_reducible assumption
    | with_reducible apply State.modUnit_keeps
    | with_reducible apply failPair_keeps
    | with_reducible apply invalidate_keeps
    | with_reducible refine OutKeeps.next ?_
    | with_reducible exact OutKeeps.refused
    | with_reducible refine Keeps.foldl _ _ ?_ ?_
    | with_reducible exact FusesRise.refl _
    | with_reducible exact Nat.le_refl _
    | with_reducible exact id
    | with_reducible exact cellsWrite_wf _ _ _
    | exact ⟨Nat.le_refl _, id, fun _ => id, fun _ => id⟩
    | with_reducible refine Keeps.ite ?_ ?_
    | with_reducible refine OutKeeps.ite ?_ ?_
    | (intro _)
    | split
    | with_reducible apply Keeps.rest
    | with_reducible apply Keeps.upd

theorem proofFailed_keeps {s0 s : State} {a1 a2} (h : Keeps s0 s) : Keeps s0 (proofFailed a1 a2 s) := by
  unfold proofFailed
  try dsimp only
  repeat' first
    | with_reducible assumption
    | with_reducible apply State.modUnit_keeps
    | with_reducible apply logEvent_keeps
    | with_reducible apply failPair_keeps
    | with_reducible apply detect_keeps
    | with_reducible apply setClass_keeps
    | with_reducible apply reportClass_keeps
    | with_reducible apply strike_keeps
    | with_reducible refine OutKeeps.next ?_
    | with_reducible exact OutKeeps.refused
    | with_reducible refine Keeps.foldl _ _ ?_ ?_
    | with_reducible exact FusesRise.refl _
    | with_reducible exact Nat.le_refl _
    | with_reducible exact id
    | with_reducible exact cellsWrite_wf _ _ _
    | exact ⟨Nat.le_refl _, id, fun _ => id, fun _ => id⟩
    | with_reducible refine Keeps.ite ?_ ?_
    | with_reducible refine OutKeeps.ite ?_ ?_
    | (intro _)
    | split
    | with_reducible apply Keeps.rest
    | with_reducible apply Keeps.upd

theorem markProof_keeps {s0 s : State} (h : Keeps s0 s) : Keeps s0 (markProof s) := by
  unfold markProof
  try dsimp only
  repeat' first
    | with_reducible assumption
    | with_reducible refine OutKeeps.next ?_
    | with_reducible exact OutKeeps.refused
    | with_reducible refine Keeps.foldl _ _ ?_ ?_
    | with_reducible exact FusesRise.refl _
    | with_reducible exact Nat.le_refl _
    | with_reducible exact id
    | with_reducible exact cellsWrite_wf _ _ _
    | exact ⟨Nat.le_refl _, id, fun _ => id, fun _ => id⟩
    | with_reducible refine Keeps.ite ?_ ?_
    | with_reducible refine OutKeeps.ite ?_ ?_
    | (intro _)
    | split
    | with_reducible apply Keeps.rest
    | with_reducible apply Keeps.upd

theorem resolveSectors_keeps {s0 s : State} (h : Keeps s0 s) : Keeps s0 (resolveSectors s) := by
  unfold resolveSectors
  try dsimp only
  repeat' first
    | with_reducible assumption
    | with_reducible apply failAttempt_keeps
    | with_reducible apply logEvent_keeps
    | with_reducible apply failPair_keeps
    | with_reducible apply detect_keeps
    | with_reducible apply strike_keeps
    | with_reducible apply passCheck_keeps
    | with_reducible apply State.modUnit_keeps
    | with_reducible apply proofPassed_keeps
    | with_reducible apply proofFailed_keeps
    | with_reducible refine OutKeeps.next ?_
    | with_reducible exact OutKeeps.refused
    | with_reducible refine Keeps.foldl _ _ ?_ ?_
    | with_reducible exact FusesRise.refl _
    | with_reducible exact Nat.le_refl _
    | with_reducible exact id
    | with_reducible exact cellsWrite_wf _ _ _
    | exact ⟨Nat.le_refl _, id, fun _ => id, fun _ => id⟩
    | with_reducible refine Keeps.ite ?_ ?_
    | with_reducible refine OutKeeps.ite ?_ ?_
    | (intro _)
    | split
    | with_reducible apply Keeps.rest
    | with_reducible apply Keeps.upd

theorem execProofPassEnd_keeps {s0 s : State} {a1 a2 a3 a4} (h : Keeps s0 s) : OutKeeps s0 (execProofPassEnd a1 a2 a3 a4 s) := by
  unfold execProofPassEnd
  try dsimp only
  repeat' first
    | with_reducible assumption
    | with_reducible apply State.at_keeps
    | with_reducible apply proofPassed_keeps
    | with_reducible apply failSectors_keeps
    | with_reducible apply State.modUnit_keeps
    | with_reducible apply proofFailed_keeps
    | with_reducible apply markProof_keeps
    | with_reducible apply settleClasses_keeps
    | with_reducible apply resolveSectors_keeps
    | with_reducible refine OutKeeps.next ?_
    | with_reducible exact OutKeeps.refused
    | with_reducible refine Keeps.foldl _ _ ?_ ?_
    | with_reducible exact FusesRise.refl _
    | with_reducible exact Nat.le_refl _
    | with_reducible exact id
    | with_reducible exact cellsWrite_wf _ _ _
    | exact ⟨Nat.le_refl _, id, fun _ => id, fun _ => id⟩
    | with_reducible refine Keeps.ite ?_ ?_
    | with_reducible refine OutKeeps.ite ?_ ?_
    | (intro _)
    | split
    | with_reducible apply Keeps.rest
    | with_reducible apply Keeps.upd

theorem execProofReservationExpiry_keeps {s0 s : State} {a1 a2} (h : Keeps s0 s) : OutKeeps s0 (execProofReservationExpiry a1 a2
    s) := by
  unfold execProofReservationExpiry
  try dsimp only
  repeat' first
    | with_reducible assumption
    | with_reducible apply State.at_keeps
    | with_reducible apply markProof_keeps
    | with_reducible apply settleClasses_keeps
    | with_reducible apply resolveSectors_keeps
    | with_reducible apply proofFailed_keeps
    | with_reducible apply logEvent_keeps
    | with_reducible refine OutKeeps.next ?_
    | with_reducible exact OutKeeps.refused
    | with_reducible refine Keeps.foldl _ _ ?_ ?_
    | with_reducible exact FusesRise.refl _
    | with_reducible exact Nat.le_refl _
    | with_reducible exact id
    | with_reducible exact cellsWrite_wf _ _ _
    | exact ⟨Nat.le_refl _, id, fun _ => id, fun _ => id⟩
    | with_reducible refine Keeps.ite ?_ ?_
    | with_reducible refine OutKeeps.ite ?_ ?_
    | (intro _)
    | split
    | with_reducible apply Keeps.rest
    | with_reducible apply Keeps.upd

theorem goLate_keeps {s0 s : State} {a1 a2 a3} (h : Keeps s0 s) : Keeps s0 (goLate a1 a2 a3 s) := by
  unfold goLate
  try dsimp only
  repeat' first
    | with_reducible assumption
    | with_reducible apply noteSeen_keeps
    | with_reducible apply logEvent_keeps
    | with_reducible apply endSafety_keeps
    | with_reducible apply failPair_keeps
    | with_reducible apply detect_keeps
    | with_reducible refine OutKeeps.next ?_
    | with_reducible exact OutKeeps.refused
    | with_reducible refine Keeps.foldl _ _ ?_ ?_
    | with_reducible exact FusesRise.refl _
    | with_reducible exact Nat.le_refl _
    | with_reducible exact id
    | with_reducible exact cellsWrite_wf _ _ _
    | exact ⟨Nat.le_refl _, id, fun _ => id, fun _ => id⟩
    | with_reducible refine Keeps.ite ?_ ?_
    | with_reducible refine OutKeeps.ite ?_ ?_
    | (intro _)
    | split
    | with_reducible apply Keeps.rest
    | with_reducible apply Keeps.upd

theorem publish_keeps {s0 s : State} {a1} (h : Keeps s0 s) : Keeps s0 (publish a1 s) := by
  unfold publish
  try dsimp only
  repeat' first
    | with_reducible assumption
    | with_reducible apply originate_keeps
    | with_reducible apply irq_keeps
    | with_reducible refine OutKeeps.next ?_
    | with_reducible exact OutKeeps.refused
    | with_reducible refine Keeps.foldl _ _ ?_ ?_
    | with_reducible exact FusesRise.refl _
    | with_reducible exact Nat.le_refl _
    | with_reducible exact id
    | with_reducible exact cellsWrite_wf _ _ _
    | exact ⟨Nat.le_refl _, id, fun _ => id, fun _ => id⟩
    | with_reducible refine Keeps.ite ?_ ?_
    | with_reducible refine OutKeeps.ite ?_ ?_
    | (intro _)
    | split
    | with_reducible apply Keeps.rest
    | with_reducible apply Keeps.upd

/-- Messages sent leave the curtain. -/
theorem originate_cur (a : Nat) (b : List Byte) (s : State) : (originate a b s).cur = s.cur := rfl

theorem publish_cur (v : Bool) (s : State) : (publish v s).cur = s.cur := by
  have key : ∀ (l : List (List Byte)) (u : State), (l.foldl (fun s m => originate 0x4002 m s) u).cur = u.cur := by
    intro l
    induction l with
    | nil => exact fun _ => rfl
    | cons m l ih => exact fun u => (ih _).trans (originate_cur _ _ _)
  unfold publish
  extract_lets parts n msgs
  split
  · exact key _ _
  · rfl

/-- A curtain whose latch is clear may run or start. -/
theorem runCurtain_holds {s0 s : State} (h : Keeps s0 s) (hl : s.cur.latch = false) : Holds s0 (runCurtain s) := by
  unfold runCurtain
  split
  · exact ⟨h.1, h.2, h.3, h.4, h.5, h.6, h.8⟩
  · split
    · exact h.holds
    · exact ⟨h.1, h.2, h.3, h.4, h.5, h.6, fun _ _ => hl⟩

theorem cueValid_latch {s : State} (h : s.cueValid = true) : s.cur.latch = false := by
  unfold State.cueValid at h
  simp only [Bool.and_eq_true, Bool.not_eq_true'] at h
  exact h.1.1.2

theorem execPublishDeadline_holds {s0 s : State} {a1 : Nat} (h : Keeps s0 s) : OutHolds s0 (execPublishDeadline a1 s) := by
  unfold execPublishDeadline
  extract_lets u v w valid x y c z
  have hu : Keeps s0 u := State.at_keeps h
  have hv : Keeps s0 v := by
    show Keeps s0 (if _ then _ else _)
    exact .ite (goLate_keeps hu) hu
  have hw : Keeps s0 w := by
    refine hv.foldl _ _ fun a b ha => ?_
    split
    · exact loseValue_keeps ha
    · exact ha
  split
  · exact hu.holds
  · have hx : Keeps s0 x := by
      show Keeps s0 (if _ then _ else _)
      exact .ite hw (failPair_keeps (invalidate_keeps hw))
    have hy : Keeps s0 y := publish_keeps hx
    have hz : Keeps s0 z := hy.upd (Nat.le_refl _) (.refl _) id id id id
    by_cases hval : valid = true
    · have e : x = w := if_pos hval
      rw [if_pos hval]
      refine runCurtain_holds hz ?_
      show y.cur.latch = false
      rw [show y.cur = x.cur from publish_cur _ _, e]
      exact cueValid_latch hval
    · rw [if_neg hval]
      exact hz.holds

theorem execWindowEnd_keeps {s0 s : State} {a1 a2} (h : Keeps s0 s) : OutKeeps s0 (execWindowEnd a1 a2 s) := by
  unfold execWindowEnd
  try dsimp only
  repeat' first
    | with_reducible assumption
    | with_reducible apply State.at_keeps
    | with_reducible apply unlockPages_keeps
    | with_reducible apply goLate_keeps
    | with_reducible apply decidePair_keeps
    | with_reducible refine OutKeeps.next ?_
    | with_reducible exact OutKeeps.refused
    | with_reducible refine Keeps.foldl _ _ ?_ ?_
    | with_reducible exact FusesRise.refl _
    | with_reducible exact Nat.le_refl _
    | with_reducible exact id
    | with_reducible exact cellsWrite_wf _ _ _
    | exact ⟨Nat.le_refl _, id, fun _ => id, fun _ => id⟩
    | with_reducible refine Keeps.ite ?_ ?_
    | with_reducible refine OutKeeps.ite ?_ ?_
    | (intro _)
    | split
    | with_reducible apply Keeps.rest
    | with_reducible apply Keeps.upd

theorem lockWindow_keeps {s0 s : State} (h : Keeps s0 s) : Keeps s0 (lockWindow s) := by
  unfold lockWindow
  try dsimp only
  repeat' first
    | with_reducible assumption
    | with_reducible apply lockPages_keeps
    | with_reducible refine OutKeeps.next ?_
    | with_reducible exact OutKeeps.refused
    | with_reducible refine Keeps.foldl _ _ ?_ ?_
    | with_reducible exact FusesRise.refl _
    | with_reducible exact Nat.le_refl _
    | with_reducible exact id
    | with_reducible exact cellsWrite_wf _ _ _
    | exact ⟨Nat.le_refl _, id, fun _ => id, fun _ => id⟩
    | with_reducible refine Keeps.ite ?_ ?_
    | with_reducible refine OutKeeps.ite ?_ ?_
    | (intro _)
    | split
    | with_reducible apply Keeps.rest
    | with_reducible apply Keeps.upd

theorem execWindowStart_keeps {s0 s : State} {a1 a2} (h : Keeps s0 s) : OutKeeps s0 (execWindowStart a1 a2 s) := by
  unfold execWindowStart
  try dsimp only
  repeat' first
    | with_reducible assumption
    | with_reducible apply State.at_keeps
    | with_reducible apply lockWindow_keeps
    | with_reducible apply suspendSlices_keeps
    | with_reducible apply killWhere_keeps
    | with_reducible refine OutKeeps.next ?_
    | with_reducible exact OutKeeps.refused
    | with_reducible refine Keeps.foldl _ _ ?_ ?_
    | with_reducible exact FusesRise.refl _
    | with_reducible exact Nat.le_refl _
    | with_reducible exact id
    | with_reducible exact cellsWrite_wf _ _ _
    | exact ⟨Nat.le_refl _, id, fun _ => id, fun _ => id⟩
    | with_reducible refine Keeps.ite ?_ ?_
    | with_reducible refine OutKeeps.ite ?_ ?_
    | (intro _)
    | split
    | with_reducible apply Keeps.rest
    | with_reducible apply Keeps.upd

end Sys2Proof.Machine
end

