-- ==== Sys2Proof/Laws/Commands.lean ====
section
/-! SUPPORT. What every command keeps, and which fields of the state each command can change. -/

namespace Sys2Proof.Machine

/-- Every command but PUBLISH_DEADLINE keeps all of it, the curtain at rest among it. -/
theorem exec_keeps (c : Instr) (s : State) (h : ∀ t, c ≠ .publishDeadline t) : OutKeeps s (exec c s) := by
  have r := Keeps.refl s
  cases c
  case powerOn => exact execPowerOn_keeps r
  case powerLoss => exact execPowerLoss_keeps r
  case resetNAssert => exact execResetNAssert_keeps r
  case resetNDeassert => exact execResetNDeassert_keeps r
  case resetComplete => exact execResetComplete_keeps r
  case ufsCommandComplete => exact execUfsCommandComplete_keeps r
  case ufsCommandTimeout => exact execUfsCommandTimeout_keeps r
  case loadingComplete => exact execLoadingComplete_keeps r
  case fuseBurnComplete => exact execFuseBurnComplete_keeps r
  case cueInEdge => exact execCueInEdge_keeps r
  case cueInMissing => exact execCueInMissing_keeps r
  case internalCueBoundary => exact execInternalCueBoundary_keeps r
  case stackRetrainDone => exact execStackRetrainDone_keeps r
  case proofPassEnd => exact execProofPassEnd_keeps r
  case proofReservationExpiry => exact execProofReservationExpiry_keeps r
  case ingestCutoff => exact execIngestCutoff_keeps r
  case windowStart => exact execWindowStart_keeps r
  case windowEnd => exact execWindowEnd_keeps r
  case comparisonStart => exact execComparisonStart_keeps r
  case comparatorVerdict => exact execComparatorVerdict_keeps r
  case publishDeadline t => exact absurd rfl (h t)
  case lminMark => exact execLminMark_keeps r
  case rehearsalSuspendRequest => exact execRehearsalSuspendRequest_keeps r
  case rehearsalSliceEnd => exact execRehearsalSliceEnd_keeps r
  case sceneAdmission => exact execSceneAdmission_keeps r
  case stepFormation => exact execStepFormation_keeps r
  case partCommitRequest => exact execPartCommitRequest_keeps r
  case sceneCommit => exact execSceneCommit_keeps r
  case sceneWatchdogExpiry => exact execSceneWatchdogExpiry_keeps r
  case sequencerTimeout => exact execSequencerTimeout_keeps r
  case relowerComplete => exact execRelowerComplete_keeps r
  case press => exact execPress_keeps r
  case platenRepeatVerdict => exact execPlatenRepeatVerdict_keeps r
  case shadowLoadComplete => exact execShadowLoadComplete_keeps r
  case groupDrain => exact execGroupDrain_keeps r
  case accumulatorError => exact execAccumulatorError_keeps r
  case sequencerLockstepMismatch => exact execSequencerLockstepMismatch_keeps r
  case vectorMicroOperation => exact execVectorMicroOperation_keeps r
  case compositorWrite => exact execCompositorWrite_keeps r
  case xfer => exact execXfer_keeps r
  case xferComplete => exact execXferComplete_keeps r
  case compositorTimeout => exact execCompositorTimeout_keeps r
  case translationWalkDone => exact execTranslationWalkDone_keeps r
  case trackerResponse => exact execTrackerResponse_keeps r
  case trackerTimeout => exact execTrackerTimeout_keeps r
  case trackerTimeoutRepeat => exact execTrackerTimeoutRepeat_keeps r
  case prefetchIssue => exact execPrefetchIssue_keeps r
  case fabricBlockReceive => exact execFabricBlockReceive_keeps r
  case stackAccessComplete => exact execStackAccessComplete_keeps r
  case eccWriteBack => exact execEccWriteBack_keeps r
  case constantRestoreDone => exact execConstantRestoreDone_keeps r
  case mappingDropAck => exact execMappingDropAck_keeps r
  case rowReadyUpdate => exact execRowReadyUpdate_keeps r
  case regulatorTick => exact execRegulatorTick_keeps r
  case leafSweepDone => exact execLeafSweepDone_keeps r
  case classificationRepeatVerdict => exact execClassificationRepeatVerdict_keeps r
  case stageManagerLockstepMismatch => exact execStageManagerLockstepMismatch_keeps r
  case stageManagerWatchdogExpiry => exact execStageManagerWatchdogExpiry_keeps r
  case curtainWatchdogExpiry => exact execCurtainWatchdogExpiry_keeps r
  case oscillatorMonitorCount => exact execOscillatorMonitorCount_keeps r
  case unitGroupReset => exact execUnitGroupReset_keeps r
  case reRigAttempt => exact execReRigAttempt_keeps r
  case reRigCheckResult => exact execReRigCheckResult_keeps r
  case portRerigSampleTimeout => exact execPortRerigSampleTimeout_keeps r
  case reRigWaitExpiry => exact execReRigWaitExpiry_keeps r
  case csi2FrameStart => exact execCsi2FrameStart_keeps r
  case csi2LongPacket => exact execCsi2LongPacket_keeps r
  case csi2FrameEnd t n vc vcx frame hdr =>
    exact execCsi2FrameEnd_keeps (a5 := frame) r
  case ethernetFrame => exact execEthernetFrame_keeps r
  case ptpSyncTimeout => exact execPtpSyncTimeout_keeps r
  case ppsEdge => exact execPpsEdge_keeps r
  case ppsTimeout => exact execPpsTimeout_keeps r
  case jpegDecodeStart => exact execJpegDecodeStart_keeps r
  case decodeDone => exact execDecodeDone_keeps r
  case decodeBudgetExpiry => exact execDecodeBudgetExpiry_keeps r
  case sampleComplete => exact execSampleComplete_keeps r
  case streamLossTimeout => exact execStreamLossTimeout_keeps r
  case govPowerSample => exact execGovPowerSample_keeps r
  case coreCurrentLimit => exact execCoreCurrentLimit_keeps r
  case avsCurrentRead => exact execAvsCurrentRead_keeps r
  case thermalSample => exact execThermalSample_keeps r
  case pllLockLost => exact execPllLockLost_keeps r
  case supplyOutOfRange => exact execSupplyOutOfRange_keeps r
  case cmd0 => exact execCmd0_keeps r
  case cmd3 => exact execCmd3_keeps r
  case cmd5 => exact execCmd5_keeps r
  case cmd7 => exact execCmd7_keeps r
  case cmd11 => exact execCmd11_keeps r
  case cmd15 => exact execCmd15_keeps r
  case cmd19 => exact execCmd19_keeps r
  case cmd52 => exact execCmd52_keeps r
  case cccrResWrite => exact execCccrResWrite_keeps r
  case sdPadSupplyLoss => exact execSdPadSupplyLoss_keeps r
  case cmd53F1 => exact execCmd53F1_keeps r
  case f1SnapshotRead => exact execF1SnapshotRead_keeps r
  case f1RegisterWrite => exact execF1RegisterWrite_keeps r
  case acctSelectWrite => exact execAcctSelectWrite_keeps r
  case curtainTestWrite => exact execCurtainTestWrite_keeps r
  case rxResync => exact execRxResync_keeps r
  case hfIrqClear => exact execHfIrqClear_keeps r
  case cueStatusClear => exact execCueStatusClear_keeps r
  case f2BlockWrite => exact execF2BlockWrite_keeps r
  case hostMessageTimeout => exact execHostMessageTimeout_keeps r
  case f3BlockRead => exact execF3BlockRead_keeps r
  case hello => exact execHello_keeps r
  case sessionOpen => exact execSessionOpen_keeps r
  case sessionInput => exact execSessionInput_keeps r
  case sessionClose => exact execSessionClose_keeps r
  case abort => exact execAbort_keeps r
  case keepCreate => exact execKeepCreate_keeps r
  case keepRelease => exact execKeepRelease_keeps r
  case start => exact execStart_keeps r
  case maintenanceEnter => exact execMaintenanceEnter_keeps r
  case maintenanceEnd => exact execMaintenanceEnd_keeps r
  case updateDirectory => exact execUpdateDirectory_keeps r
  case updateKeepVerified => exact execUpdateKeepVerified_keeps r
  case updateData => exact execUpdateData_keeps r
  case updateIdleTimeout => exact execUpdateIdleTimeout_keeps r
  case fuseCommand => exact execFuseCommand_keeps r
  case attest => exact execAttest_keeps r
  case tensorRead => exact execTensorRead_keeps r
  case traceRead => exact execTraceRead_keeps r
  case countersRead => exact execCountersRead_keeps r
  case unsupportedMessage => exact execUnsupportedMessage_keeps r
  case jtagBypass => exact execJtagBypass_keeps r
  case jtagIdcode => exact execJtagIdcode_keeps r
  case jtagSamplePreload => exact execJtagSamplePreload_keeps r
  case jtagExtest => exact execJtagExtest_keeps r
  case jtagDebugInstruction t code =>
    exact execJtagDebugInstruction_keeps (a2 := code) r
  case cmd53F0 => exact execCmd53F0_keeps r
  case functionReadyInIorx => exact execFunctionReadyInIorx_keeps r
  case csi2LineOrGenericShortPacket t n vc vcx dt hdr =>
    exact execCsi2LineOrGenericShortPacket_keeps (a5 := dt) r
  case dphyDeskewCalibration => exact execDphyDeskewCalibration_keeps r
  case peerDelayRequest => exact execPeerDelayRequest_keeps r
  case trstNAssert => exact execTrstNAssert_keeps r

/-- Every command keeps the rest. -/
theorem exec_holds (c : Instr) (s : State) : OutHolds s (exec c s) := by
  by_cases h : ∃ t, c = .publishDeadline t
  · obtain ⟨t, rfl⟩ := h
    exact execPublishDeadline_holds (.refl s)
  · exact (exec_keeps c s fun t e => h ⟨t, e⟩).holds

theorem exec_next_holds {c : Instr} {s t : State} (h : exec c s = .next t) : Holds s t := by
  have r := exec_holds c s
  rw [h] at r
  exact r

theorem exec_next_keeps {c : Instr} {s t : State} (h : exec c s = .next t) (hc : ∀ x, c ≠ .publishDeadline x) : Keeps s t := by
  have r := exec_keeps c s hc
  rw [h] at r
  exact r

/-- A command changes no other field. -/
theorem exec_apart (c : Instr) (s : State) : OutApart (fun f => decide (f ∈ fieldsOf c)) s (exec c s) := by
  cases c
  case powerOn => exact execPowerOn_apart rfl rfl rfl rfl rfl rfl rfl rfl rfl rfl rfl rfl rfl rfl rfl rfl rfl rfl rfl rfl rfl (.refl _ s)
  case powerLoss => exact execPowerLoss_apart rfl rfl rfl rfl rfl rfl rfl rfl rfl rfl rfl rfl rfl rfl rfl rfl rfl rfl rfl rfl rfl rfl rfl (.refl _ s)
  case resetNAssert => exact execResetNAssert_apart rfl rfl rfl rfl rfl rfl rfl rfl rfl rfl rfl rfl rfl rfl rfl rfl rfl rfl rfl rfl rfl (.refl _ s)
  case resetNDeassert => exact execResetNDeassert_apart rfl (.refl _ s)
  case resetComplete => exact execResetComplete_apart rfl rfl rfl rfl rfl (.refl _ s)
  case ufsCommandComplete => exact execUfsCommandComplete_apart rfl rfl rfl (.refl _ s)
  case ufsCommandTimeout => exact execUfsCommandTimeout_apart rfl rfl rfl rfl rfl rfl (.refl _ s)
  case loadingComplete => exact execLoadingComplete_apart rfl rfl rfl rfl rfl rfl rfl rfl (.refl _ s)
  case fuseBurnComplete => exact execFuseBurnComplete_apart rfl (.refl _ s)
  case cueInEdge => exact execCueInEdge_apart rfl rfl rfl rfl rfl rfl rfl rfl rfl rfl rfl rfl rfl rfl rfl rfl rfl rfl (.refl _ s)
  case cueInMissing => exact execCueInMissing_apart rfl rfl rfl rfl rfl rfl rfl rfl rfl rfl rfl rfl rfl rfl rfl rfl rfl rfl (.refl _ s)
  case internalCueBoundary => exact execInternalCueBoundary_apart rfl rfl rfl rfl rfl rfl rfl rfl rfl rfl rfl rfl rfl rfl rfl rfl rfl rfl (.refl _ s)
  case stackRetrainDone => exact execStackRetrainDone_apart rfl rfl (.refl _ s)
  case proofPassEnd => exact execProofPassEnd_apart rfl rfl rfl rfl rfl rfl rfl rfl rfl rfl rfl rfl rfl (.refl _ s)
  case proofReservationExpiry => exact execProofReservationExpiry_apart rfl rfl rfl rfl rfl rfl rfl rfl rfl rfl rfl rfl rfl (.refl _ s)
  case ingestCutoff => exact execIngestCutoff_apart rfl rfl rfl rfl rfl rfl rfl rfl rfl rfl rfl rfl (.refl _ s)
  case windowStart => exact execWindowStart_apart rfl rfl rfl rfl rfl rfl rfl rfl (.refl _ s)
  case windowEnd => exact execWindowEnd_apart rfl rfl rfl rfl rfl rfl rfl rfl rfl rfl rfl (.refl _ s)
  case comparisonStart => exact execComparisonStart_apart rfl (.refl _ s)
  case comparatorVerdict => exact execComparatorVerdict_apart rfl rfl rfl rfl rfl rfl rfl rfl (.refl _ s)
  case publishDeadline => exact execPublishDeadline_apart rfl rfl rfl rfl rfl rfl rfl rfl rfl rfl rfl rfl (.refl _ s)
  case lminMark => exact execLminMark_apart rfl rfl (.refl _ s)
  case rehearsalSuspendRequest => exact execRehearsalSuspendRequest_apart rfl (.refl _ s)
  case rehearsalSliceEnd => exact execRehearsalSliceEnd_apart rfl rfl rfl rfl rfl rfl rfl rfl rfl rfl rfl rfl rfl rfl rfl (.refl _ s)
  case sceneAdmission => exact execSceneAdmission_apart rfl rfl rfl rfl rfl rfl rfl rfl rfl rfl rfl rfl rfl (.refl _ s)
  case stepFormation => exact execStepFormation_apart rfl rfl rfl (.refl _ s)
  case partCommitRequest => exact execPartCommitRequest_apart rfl rfl rfl rfl rfl rfl rfl rfl rfl rfl rfl rfl rfl (.refl _ s)
  case sceneCommit => exact execSceneCommit_apart rfl rfl rfl rfl rfl rfl rfl rfl rfl (.refl _ s)
  case sceneWatchdogExpiry => exact execSceneWatchdogExpiry_apart rfl rfl rfl rfl rfl rfl rfl rfl rfl rfl rfl rfl rfl rfl (.refl _ s)
  case sequencerTimeout => exact execSequencerTimeout_apart rfl rfl rfl rfl rfl rfl rfl rfl rfl rfl (.refl _ s)
  case relowerComplete => exact execRelowerComplete_apart rfl rfl rfl (.refl _ s)
  case press => exact execPress_apart rfl rfl rfl rfl rfl rfl rfl rfl rfl rfl rfl rfl rfl rfl rfl (.refl _ s)
  case platenRepeatVerdict => exact execPlatenRepeatVerdict_apart rfl rfl rfl rfl rfl rfl rfl rfl rfl rfl (.refl _ s)
  case shadowLoadComplete => exact execShadowLoadComplete_apart rfl rfl rfl rfl rfl rfl rfl rfl rfl rfl (.refl _ s)
  case groupDrain => exact execGroupDrain_apart rfl (.refl _ s)
  case accumulatorError => exact execAccumulatorError_apart rfl rfl rfl rfl rfl rfl rfl rfl (.refl _ s)
  case sequencerLockstepMismatch => exact execSequencerLockstepMismatch_apart rfl rfl rfl rfl rfl rfl rfl rfl rfl rfl rfl rfl (.refl _ s)
  case vectorMicroOperation => exact execVectorMicroOperation_apart rfl rfl rfl rfl rfl rfl rfl rfl rfl rfl rfl rfl rfl rfl rfl rfl (.refl _ s)
  case compositorWrite => exact execCompositorWrite_apart rfl rfl rfl rfl rfl rfl rfl rfl rfl rfl rfl rfl rfl rfl rfl (.refl _ s)
  case xfer => exact execXfer_apart rfl rfl rfl rfl rfl rfl rfl rfl rfl rfl rfl rfl rfl rfl rfl (.refl _ s)
  case xferComplete => exact execXferComplete_apart rfl (.refl _ s)
  case compositorTimeout => exact execCompositorTimeout_apart rfl rfl rfl rfl rfl rfl rfl rfl (.refl _ s)
  case translationWalkDone => exact execTranslationWalkDone_apart rfl rfl rfl rfl rfl rfl rfl rfl rfl rfl rfl rfl rfl rfl (.refl _ s)
  case trackerResponse => exact execTrackerResponse_apart rfl rfl rfl rfl rfl rfl rfl rfl rfl rfl rfl rfl rfl (.refl _ s)
  case trackerTimeout => exact execTrackerTimeout_apart rfl rfl (.refl _ s)
  case trackerTimeoutRepeat => exact execTrackerTimeoutRepeat_apart rfl rfl rfl rfl rfl rfl rfl rfl rfl rfl rfl (.refl _ s)
  case prefetchIssue => exact execPrefetchIssue_apart rfl rfl rfl (.refl _ s)
  case fabricBlockReceive => exact execFabricBlockReceive_apart rfl rfl rfl rfl rfl rfl rfl rfl rfl rfl rfl rfl rfl rfl rfl (.refl _ s)
  case stackAccessComplete => exact execStackAccessComplete_apart rfl rfl rfl rfl rfl rfl rfl rfl rfl rfl rfl rfl rfl rfl (.refl _ s)
  case eccWriteBack => exact execEccWriteBack_apart rfl (.refl _ s)
  case constantRestoreDone => exact execConstantRestoreDone_apart rfl rfl rfl (.refl _ s)
  case mappingDropAck => exact execMappingDropAck_apart rfl rfl (.refl _ s)
  case rowReadyUpdate => exact execRowReadyUpdate_apart rfl (.refl _ s)
  case regulatorTick => exact execRegulatorTick_apart rfl rfl (.refl _ s)
  case leafSweepDone => exact execLeafSweepDone_apart rfl rfl (.refl _ s)
  case classificationRepeatVerdict => exact execClassificationRepeatVerdict_apart rfl rfl rfl rfl rfl rfl rfl rfl rfl rfl rfl rfl rfl rfl (.refl _ s)
  case stageManagerLockstepMismatch => exact execStageManagerLockstepMismatch_apart rfl rfl rfl rfl rfl rfl rfl (.refl _ s)
  case stageManagerWatchdogExpiry => exact execStageManagerWatchdogExpiry_apart rfl rfl rfl rfl rfl rfl rfl (.refl _ s)
  case curtainWatchdogExpiry => exact execCurtainWatchdogExpiry_apart rfl rfl rfl rfl rfl (.refl _ s)
  case oscillatorMonitorCount => exact execOscillatorMonitorCount_apart rfl rfl rfl rfl rfl (.refl _ s)
  case unitGroupReset => exact execUnitGroupReset_apart rfl rfl rfl rfl (.refl _ s)
  case reRigAttempt => exact execReRigAttempt_apart rfl rfl (.refl _ s)
  case reRigCheckResult => exact execReRigCheckResult_apart rfl rfl rfl rfl (.refl _ s)
  case portRerigSampleTimeout => exact execPortRerigSampleTimeout_apart rfl rfl rfl (.refl _ s)
  case reRigWaitExpiry => exact execReRigWaitExpiry_apart rfl rfl rfl rfl (.refl _ s)
  case csi2FrameStart => exact execCsi2FrameStart_apart rfl rfl (.refl _ s)
  case csi2LongPacket => exact execCsi2LongPacket_apart rfl rfl (.refl _ s)
  case csi2FrameEnd t n vc vcx frame hdr =>
    exact execCsi2FrameEnd_apart (a5 := frame) rfl rfl (.refl _ s)
  case ethernetFrame => exact execEthernetFrame_apart rfl rfl rfl rfl rfl (.refl _ s)
  case ptpSyncTimeout => exact execPtpSyncTimeout_apart rfl rfl rfl (.refl _ s)
  case ppsEdge => exact execPpsEdge_apart rfl rfl rfl (.refl _ s)
  case ppsTimeout => exact execPpsTimeout_apart rfl rfl rfl (.refl _ s)
  case jpegDecodeStart => exact execJpegDecodeStart_apart rfl (.refl _ s)
  case decodeDone => exact execDecodeDone_apart rfl rfl rfl (.refl _ s)
  case decodeBudgetExpiry => exact execDecodeBudgetExpiry_apart rfl rfl (.refl _ s)
  case sampleComplete => exact execSampleComplete_apart rfl rfl rfl rfl rfl rfl rfl rfl rfl rfl rfl (.refl _ s)
  case streamLossTimeout => exact execStreamLossTimeout_apart rfl rfl rfl (.refl _ s)
  case govPowerSample => exact execGovPowerSample_apart rfl (.refl _ s)
  case coreCurrentLimit => exact execCoreCurrentLimit_apart rfl rfl (.refl _ s)
  case avsCurrentRead => exact execAvsCurrentRead_apart rfl (.refl _ s)
  case thermalSample => exact execThermalSample_apart rfl rfl rfl rfl rfl rfl rfl rfl (.refl _ s)
  case pllLockLost => exact execPllLockLost_apart rfl rfl rfl rfl rfl rfl rfl rfl (.refl _ s)
  case supplyOutOfRange => exact execSupplyOutOfRange_apart rfl rfl rfl rfl rfl rfl rfl rfl (.refl _ s)
  case cmd0 => exact execCmd0_apart rfl (.refl _ s)
  case cmd3 => exact execCmd3_apart rfl rfl (.refl _ s)
  case cmd5 => exact execCmd5_apart rfl rfl (.refl _ s)
  case cmd7 => exact execCmd7_apart rfl (.refl _ s)
  case cmd11 => exact execCmd11_apart rfl (.refl _ s)
  case cmd15 => exact execCmd15_apart rfl (.refl _ s)
  case cmd19 => exact execCmd19_apart rfl (.refl _ s)
  case cmd52 => exact execCmd52_apart rfl rfl rfl rfl rfl rfl (.refl _ s)
  case cccrResWrite => exact execCccrResWrite_apart rfl rfl (.refl _ s)
  case sdPadSupplyLoss => exact execSdPadSupplyLoss_apart rfl rfl (.refl _ s)
  case cmd53F1 => exact execCmd53F1_apart rfl rfl rfl rfl rfl (.refl _ s)
  case f1SnapshotRead => exact execF1SnapshotRead_apart rfl (.refl _ s)
  case f1RegisterWrite => exact execF1RegisterWrite_apart rfl rfl rfl rfl rfl (.refl _ s)
  case acctSelectWrite => exact execAcctSelectWrite_apart rfl rfl rfl rfl rfl (.refl _ s)
  case curtainTestWrite => exact execCurtainTestWrite_apart rfl rfl rfl rfl rfl (.refl _ s)
  case rxResync => exact execRxResync_apart rfl rfl rfl rfl rfl (.refl _ s)
  case hfIrqClear => exact execHfIrqClear_apart rfl rfl rfl rfl rfl (.refl _ s)
  case cueStatusClear => exact execCueStatusClear_apart rfl rfl rfl rfl rfl (.refl _ s)
  case f2BlockWrite => exact execF2BlockWrite_apart rfl rfl (.refl _ s)
  case hostMessageTimeout => exact execHostMessageTimeout_apart rfl rfl (.refl _ s)
  case f3BlockRead => exact execF3BlockRead_apart rfl (.refl _ s)
  case hello => exact execHello_apart rfl rfl rfl (.refl _ s)
  case sessionOpen => exact execSessionOpen_apart rfl rfl rfl rfl (.refl _ s)
  case sessionInput => exact execSessionInput_apart rfl rfl rfl (.refl _ s)
  case sessionClose => exact execSessionClose_apart rfl rfl rfl rfl rfl (.refl _ s)
  case abort => exact execAbort_apart rfl rfl rfl (.refl _ s)
  case keepCreate => exact execKeepCreate_apart rfl rfl rfl (.refl _ s)
  case keepRelease => exact execKeepRelease_apart rfl rfl rfl (.refl _ s)
  case start => exact execStart_apart rfl rfl rfl (.refl _ s)
  case maintenanceEnter => exact execMaintenanceEnter_apart rfl rfl rfl rfl rfl rfl rfl rfl rfl rfl rfl rfl (.refl _ s)
  case maintenanceEnd => exact execMaintenanceEnd_apart rfl rfl rfl rfl rfl rfl rfl rfl rfl rfl rfl rfl rfl rfl rfl rfl rfl rfl rfl rfl rfl (.refl _ s)
  case updateDirectory => exact execUpdateDirectory_apart rfl rfl rfl rfl rfl (.refl _ s)
  case updateKeepVerified => exact execUpdateKeepVerified_apart rfl rfl rfl rfl rfl rfl rfl rfl rfl rfl rfl rfl rfl rfl rfl rfl rfl rfl rfl rfl rfl rfl (.refl _ s)
  case updateData => exact execUpdateData_apart rfl rfl rfl rfl rfl rfl rfl rfl rfl rfl rfl rfl rfl rfl rfl rfl rfl rfl rfl rfl rfl rfl (.refl _ s)
  case updateIdleTimeout => exact execUpdateIdleTimeout_apart rfl rfl rfl rfl (.refl _ s)
  case fuseCommand => exact execFuseCommand_apart rfl rfl rfl (.refl _ s)
  case attest => exact execAttest_apart rfl rfl (.refl _ s)
  case tensorRead => exact execTensorRead_apart rfl rfl rfl rfl rfl rfl rfl rfl rfl rfl rfl rfl (.refl _ s)
  case traceRead => exact execTraceRead_apart rfl rfl (.refl _ s)
  case countersRead => exact execCountersRead_apart rfl rfl (.refl _ s)
  case unsupportedMessage => exact execUnsupportedMessage_apart rfl rfl (.refl _ s)
  case jtagBypass => exact execJtagBypass_apart rfl (.refl _ s)
  case jtagIdcode => exact execJtagIdcode_apart rfl (.refl _ s)
  case jtagSamplePreload => exact execJtagSamplePreload_apart rfl rfl (.refl _ s)
  case jtagExtest => exact execJtagExtest_apart rfl rfl (.refl _ s)
  case jtagDebugInstruction t code =>
    exact execJtagDebugInstruction_apart (a2 := code) rfl (.refl _ s)
  case cmd53F0 => exact execCmd53F0_apart rfl rfl (.refl _ s)
  case functionReadyInIorx => exact execFunctionReadyInIorx_apart rfl (.refl _ s)
  case csi2LineOrGenericShortPacket t n vc vcx dt hdr =>
    exact execCsi2LineOrGenericShortPacket_apart (a5 := dt) rfl rfl (.refl _ s)
  case dphyDeskewCalibration => exact execDphyDeskewCalibration_apart rfl (.refl _ s)
  case peerDelayRequest => exact execPeerDelayRequest_apart rfl (.refl _ s)
  case trstNAssert => exact execTrstNAssert_apart rfl (.refl _ s)

theorem exec_next_apart {c : Instr} {s t : State} (h : exec c s = .next t) {f : Field} (hf : f ∉ fieldsOf c) : Same s t f := by
  have r := exec_apart c s
  rw [h] at r
  exact r.same f (by simpa using hf)

/-- Every other command stays within its cue. -/
theorem exec_inCue (c : Instr) (s : State) (h : beginsOrResets c = false) : OutInCue s (exec c s) := by
  cases c
  case powerOn => cases h
  case powerLoss => cases h
  case resetNAssert => cases h
  case resetNDeassert => exact execResetNDeassert_inCue (.refl _)
  case resetComplete => exact execResetComplete_inCue (.refl _)
  case ufsCommandComplete => exact execUfsCommandComplete_inCue (.refl _)
  case ufsCommandTimeout => exact execUfsCommandTimeout_inCue (.refl _)
  case loadingComplete => exact execLoadingComplete_inCue (.refl _)
  case fuseBurnComplete => exact execFuseBurnComplete_inCue (.refl _)
  case cueInEdge => cases h
  case cueInMissing => cases h
  case internalCueBoundary => cases h
  case stackRetrainDone => exact execStackRetrainDone_inCue (.refl _)
  case proofPassEnd => exact execProofPassEnd_inCue (.refl _)
  case proofReservationExpiry => exact execProofReservationExpiry_inCue (.refl _)
  case ingestCutoff => exact execIngestCutoff_inCue (.refl _)
  case windowStart => exact execWindowStart_inCue (.refl _)
  case windowEnd => exact execWindowEnd_inCue (.refl _)
  case comparisonStart => exact execComparisonStart_inCue (.refl _)
  case comparatorVerdict => exact execComparatorVerdict_inCue (.refl _)
  case publishDeadline => exact execPublishDeadline_inCue (.refl _)
  case lminMark => exact execLminMark_inCue (.refl _)
  case rehearsalSuspendRequest => exact execRehearsalSuspendRequest_inCue (.refl _)
  case rehearsalSliceEnd => exact execRehearsalSliceEnd_inCue (.refl _)
  case sceneAdmission => exact execSceneAdmission_inCue (.refl _)
  case stepFormation => exact execStepFormation_inCue (.refl _)
  case partCommitRequest => exact execPartCommitRequest_inCue (.refl _)
  case sceneCommit => exact execSceneCommit_inCue (.refl _)
  case sceneWatchdogExpiry => exact execSceneWatchdogExpiry_inCue (.refl _)
  case sequencerTimeout => exact execSequencerTimeout_inCue (.refl _)
  case relowerComplete => exact execRelowerComplete_inCue (.refl _)
  case press => exact execPress_inCue (.refl _)
  case platenRepeatVerdict => exact execPlatenRepeatVerdict_inCue (.refl _)
  case shadowLoadComplete => exact execShadowLoadComplete_inCue (.refl _)
  case groupDrain => exact execGroupDrain_inCue (.refl _)
  case accumulatorError => exact execAccumulatorError_inCue (.refl _)
  case sequencerLockstepMismatch => exact execSequencerLockstepMismatch_inCue (.refl _)
  case vectorMicroOperation => exact execVectorMicroOperation_inCue (.refl _)
  case compositorWrite => exact execCompositorWrite_inCue (.refl _)
  case xfer => exact execXfer_inCue (.refl _)
  case xferComplete => exact execXferComplete_inCue (.refl _)
  case compositorTimeout => exact execCompositorTimeout_inCue (.refl _)
  case translationWalkDone => exact execTranslationWalkDone_inCue (.refl _)
  case trackerResponse => exact execTrackerResponse_inCue (.refl _)
  case trackerTimeout => exact execTrackerTimeout_inCue (.refl _)
  case trackerTimeoutRepeat => exact execTrackerTimeoutRepeat_inCue (.refl _)
  case prefetchIssue => exact execPrefetchIssue_inCue (.refl _)
  case fabricBlockReceive => exact execFabricBlockReceive_inCue (.refl _)
  case stackAccessComplete => exact execStackAccessComplete_inCue (.refl _)
  case eccWriteBack => exact execEccWriteBack_inCue (.refl _)
  case constantRestoreDone => exact execConstantRestoreDone_inCue (.refl _)
  case mappingDropAck => exact execMappingDropAck_inCue (.refl _)
  case rowReadyUpdate => exact execRowReadyUpdate_inCue (.refl _)
  case regulatorTick => exact execRegulatorTick_inCue (.refl _)
  case leafSweepDone => exact execLeafSweepDone_inCue (.refl _)
  case classificationRepeatVerdict => exact execClassificationRepeatVerdict_inCue (.refl _)
  case stageManagerLockstepMismatch => exact execStageManagerLockstepMismatch_inCue (.refl _)
  case stageManagerWatchdogExpiry => exact execStageManagerWatchdogExpiry_inCue (.refl _)
  case curtainWatchdogExpiry => exact execCurtainWatchdogExpiry_inCue (.refl _)
  case oscillatorMonitorCount => exact execOscillatorMonitorCount_inCue (.refl _)
  case unitGroupReset => exact execUnitGroupReset_inCue (.refl _)
  case reRigAttempt => exact execReRigAttempt_inCue (.refl _)
  case reRigCheckResult => exact execReRigCheckResult_inCue (.refl _)
  case portRerigSampleTimeout => exact execPortRerigSampleTimeout_inCue (.refl _)
  case reRigWaitExpiry => exact execReRigWaitExpiry_inCue (.refl _)
  case csi2FrameStart => exact execCsi2FrameStart_inCue (.refl _)
  case csi2LongPacket => exact execCsi2LongPacket_inCue (.refl _)
  case csi2FrameEnd t n vc vcx frame hdr =>
    exact execCsi2FrameEnd_inCue (a5 := frame) (.refl _)
  case ethernetFrame => exact execEthernetFrame_inCue (.refl _)
  case ptpSyncTimeout => exact execPtpSyncTimeout_inCue (.refl _)
  case ppsEdge => exact execPpsEdge_inCue (.refl _)
  case ppsTimeout => exact execPpsTimeout_inCue (.refl _)
  case jpegDecodeStart => exact execJpegDecodeStart_inCue (.refl _)
  case decodeDone => exact execDecodeDone_inCue (.refl _)
  case decodeBudgetExpiry => exact execDecodeBudgetExpiry_inCue (.refl _)
  case sampleComplete => exact execSampleComplete_inCue (.refl _)
  case streamLossTimeout => exact execStreamLossTimeout_inCue (.refl _)
  case govPowerSample => exact execGovPowerSample_inCue (.refl _)
  case coreCurrentLimit => exact execCoreCurrentLimit_inCue (.refl _)
  case avsCurrentRead => exact execAvsCurrentRead_inCue (.refl _)
  case thermalSample => exact execThermalSample_inCue (.refl _)
  case pllLockLost => exact execPllLockLost_inCue (.refl _)
  case supplyOutOfRange => exact execSupplyOutOfRange_inCue (.refl _)
  case cmd0 => exact execCmd0_inCue (.refl _)
  case cmd3 => exact execCmd3_inCue (.refl _)
  case cmd5 => exact execCmd5_inCue (.refl _)
  case cmd7 => exact execCmd7_inCue (.refl _)
  case cmd11 => exact execCmd11_inCue (.refl _)
  case cmd15 => exact execCmd15_inCue (.refl _)
  case cmd19 => exact execCmd19_inCue (.refl _)
  case cmd52 => exact execCmd52_inCue (.refl _)
  case cccrResWrite => exact execCccrResWrite_inCue (.refl _)
  case sdPadSupplyLoss => exact execSdPadSupplyLoss_inCue (.refl _)
  case cmd53F1 => exact execCmd53F1_inCue (.refl _)
  case f1SnapshotRead => exact execF1SnapshotRead_inCue (.refl _)
  case f1RegisterWrite => exact execF1RegisterWrite_inCue (.refl _)
  case acctSelectWrite => exact execAcctSelectWrite_inCue (.refl _)
  case curtainTestWrite => exact execCurtainTestWrite_inCue (.refl _)
  case rxResync => exact execRxResync_inCue (.refl _)
  case hfIrqClear => exact execHfIrqClear_inCue (.refl _)
  case cueStatusClear => exact execCueStatusClear_inCue (.refl _)
  case f2BlockWrite => exact execF2BlockWrite_inCue (.refl _)
  case hostMessageTimeout => exact execHostMessageTimeout_inCue (.refl _)
  case f3BlockRead => exact execF3BlockRead_inCue (.refl _)
  case hello => exact execHello_inCue (.refl _)
  case sessionOpen => exact execSessionOpen_inCue (.refl _)
  case sessionInput => exact execSessionInput_inCue (.refl _)
  case sessionClose => exact execSessionClose_inCue (.refl _)
  case abort => exact execAbort_inCue (.refl _)
  case keepCreate => exact execKeepCreate_inCue (.refl _)
  case keepRelease => exact execKeepRelease_inCue (.refl _)
  case start => exact execStart_inCue (.refl _)
  case maintenanceEnter => exact execMaintenanceEnter_inCue (.refl _)
  case maintenanceEnd => cases h
  case updateDirectory => exact execUpdateDirectory_inCue (.refl _)
  case updateKeepVerified => cases h
  case updateData => cases h
  case updateIdleTimeout => exact execUpdateIdleTimeout_inCue (.refl _)
  case fuseCommand => exact execFuseCommand_inCue (.refl _)
  case attest => exact execAttest_inCue (.refl _)
  case tensorRead => exact execTensorRead_inCue (.refl _)
  case traceRead => exact execTraceRead_inCue (.refl _)
  case countersRead => exact execCountersRead_inCue (.refl _)
  case unsupportedMessage => exact execUnsupportedMessage_inCue (.refl _)
  case jtagBypass => exact execJtagBypass_inCue (.refl _)
  case jtagIdcode => exact execJtagIdcode_inCue (.refl _)
  case jtagSamplePreload => exact execJtagSamplePreload_inCue (.refl _)
  case jtagExtest => exact execJtagExtest_inCue (.refl _)
  case jtagDebugInstruction t code =>
    exact execJtagDebugInstruction_inCue (a2 := code) (.refl _)
  case cmd53F0 => exact execCmd53F0_inCue (.refl _)
  case functionReadyInIorx => exact execFunctionReadyInIorx_inCue (.refl _)
  case csi2LineOrGenericShortPacket t n vc vcx dt hdr =>
    exact execCsi2LineOrGenericShortPacket_inCue (a5 := dt) (.refl _)
  case dphyDeskewCalibration => exact execDphyDeskewCalibration_inCue (.refl _)
  case peerDelayRequest => exact execPeerDelayRequest_inCue (.refl _)
  case trstNAssert => exact execTrstNAssert_inCue (.refl _)

theorem exec_next_inCue {c : Instr} {s t : State} (h : exec c s = .next t) (hc : beginsOrResets c = false) : InCue s t := by
  have r := exec_inCue c s hc
  rw [h] at r
  exact r

end Sys2Proof.Machine
end

