-- ==== Sys2Proof/Laws/Alarm.lean ====
section
/-! SUPPORT. FAULT_N over a cue boundary: it goes with SAFE_HOLD at the note of the state, or with the stop latch. -/

namespace Sys2Proof.Machine

/-- FAULT_N asserted goes with SAFE_HOLD. -/
def HoldsFault (s : State) : Prop := s.dev.faultN = true → s.dev.st = .safeHold

/-- Every field but the device's. -/
def butDev : Field → Bool := fun f => decide (f ≠ .dev)

theorem HoldsFault.apart {s t : State} (h : HoldsFault s) (a : Apart butDev s t) : HoldsFault t := by
  have e : t.dev = s.dev := a.same .dev rfl
  intro ht
  rw [e] at ht ⊢
  exact h ht

theorem setState_dev (st : DevState) (s : State) :
    (setState st s).dev.st = st ∧ (setState st s).dev.faultN = s.dev.faultN := by
  unfold setState
  split
  · next h => exact ⟨h, rfl⟩
  · exact ⟨rfl, rfl⟩

theorem enterHold_holds (c : Nat) (s : State) : HoldsFault (enterHold c s) := by
  have hs : HoldsFault (setState .safeHold (logEvent 0x070A idStage c s)) := fun _ => (setState_dev _ _).1
  refine hs.apart ?_
  unfold enterHold
  exact .foldl _ _ (curtainStop_apart rfl rfl rfl (.refl _ _))
    fun _ _ h => unresolved_apart rfl rfl rfl rfl rfl rfl rfl rfl h

/-- The first cause that holds is found whenever FAULT_N is asserted. -/
theorem holdCause_some {s : State} (h : s.dev.faultN = true) : s.holdCause.isSome = true := by
  unfold State.holdCause
  repeat' split
  all_goals rfl

theorem holdAtBoundary_holds (s : State) : HoldsFault (holdAtBoundary s) := by
  unfold holdAtBoundary
  split
  · next h => exact fun _ => h
  · split
    · exact enterHold_holds _ _
    · next hn => intro h; have := holdCause_some h; rw [hn] at this; cases this

theorem advanceFuse_dev (s : State) : (advanceFuse s).dev = s.dev := (advanceFuse_apart (m := butDev) rfl (.refl _ _)).same .dev rfl

theorem setState_holds {st : DevState} {s : State} (h : s.dev.faultN = true → st = .safeHold) : HoldsFault (setState st s) := by
  intro hf
  rw [(setState_dev st s).2] at hf
  rw [(setState_dev st s).1]
  exact h hf

theorem transition_holds {s : State} (h : HoldsFault s) : HoldsFault (transition s) := by
  have off : s.dev.st ≠ .safeHold → s.dev.faultN = true → False := fun hn hf => hn (h hf)
  unfold transition
  split
  · next e =>
    split
    · intro hf
      rw [advanceFuse_dev, (setState_dev _ _).2] at hf
      exact (off (by rw [e]; decide) hf).elim
    · exact h
  · next e => exact setState_holds fun hf => (off (by rw [e]; decide) hf).elim
  · next e => exact setState_holds fun hf => (off (by rw [e]; decide) hf).elim
  · split
    · next g =>
      refine HoldsFault.apart (setState_holds (st := s.runState) (s := s) fun hf => ?_) (logEvent_apart rfl (.refl _ _))
      have := holdCause_some hf
      rw [Option.isNone_iff_eq_none] at g
      rw [g] at this
      cases this
    · exact h
  · exact h

theorem beforePlace_holds (b : Nat) (obs : BoundaryObs) (s : State) : HoldsFault (beforePlace b obs s) := by
  unfold beforePlace
  exact (holdAtBoundary_holds _).apart (closeDigests_apart rfl (stopAtBoundary_apart rfl rfl rfl rfl rfl rfl rfl rfl (.refl _ _)))

theorem toHeld_holds {first : Bool} {s : State} (h : HoldsFault s) : HoldsFault (toHeld first s) := by
  unfold toHeld
  have hx : HoldsFault (closeCue first s).1 := by
    refine h.apart (closeCue_apart ?_ ?_ ?_ ?_ ?_ ?_ ?_ (.refl _ _)) <;> rfl
  exact (transition_holds hx).apart (applyTest_apart rfl rfl rfl rfl rfl (takePlan_apart rfl rfl (.refl _ _)))

/-- FAULT_N asserted goes with the stop latch, or with a cue that may not restart the curtain. -/
def Alarm (s : State) : Prop :=
  s.dev.faultN = true → s.cur.latch = true ∨ ¬ (s.cue.stateAtB = .running ∨ s.cue.stateAtB = .degraded)

theorem Alarm.inCue {s t : State} (h : Alarm s) (k : InCue s t) : Alarm t := by
  intro ht
  rcases k.raise ht with g | g
  · exact (h g).imp k.latch fun e => k.atB ▸ e
  · exact .inl g

theorem Alarm.held {s : State} (h : HoldsFault s) : Alarm (held s) := by
  intro hf
  right
  have e : (Machine.held s).cue.stateAtB = .safeHold := h hf
  rw [e]
  decide

theorem curtainStop_latch (c : Nat) (u : Byte) (s : State) : (curtainStop c u s).cur.latch = true := by
  unfold curtainStop
  split <;> rfl

theorem placeBoundary_holds {b src : Nat} {s : State} (h : HoldsFault s) : HoldsFault (placeBoundary b src s) := h

theorem answerMaint_holds {a : Nat} {s : State} (h : HoldsFault s) : HoldsFault (answerMaint a s) := by
  have e : (answerMaint a s).dev.faultN = s.dev.faultN ∧ (answerMaint a s).dev.st = s.dev.st := by
    unfold answerMaint
    extract_lets u
    have e : u.dev = s.dev := (Apart.foldl (m := butDev) s.dev.maint _ (.refl _ _) fun _ _ h => reply_apart rfl h).same .dev rfl
    exact ⟨show u.dev.faultN = _ from congrArg Dev.faultN e, show u.dev.st = _ from congrArg Dev.st e⟩
  intro hf
  rw [e.1] at hf
  rw [e.2]
  exact h hf

/-- A boundary ends with the alarm in place. -/
theorem boundary_alarm (b src : Nat) (obs : BoundaryObs) (s : State) : Alarm (boundary b src obs s) := by
  have hw : HoldsFault (placeBoundary b src (beforePlace b obs s)) :=
    placeBoundary_holds (beforePlace_holds b obs s)
  have hx : ∀ stop, HoldsFault (beginInvalid stop (placeBoundary b src (beforePlace b obs s))) := fun stop =>
    hw.apart (beginInvalid_apart rfl rfl (.refl _ _))
  have fin : ∀ (first : Bool) (y : State), HoldsFault y → Alarm (afterBoundary first y) := fun first y hy =>
    (Alarm.held (toHeld_holds hy)).inCue (afterBoundary_inCue first y)
  obtain ⟨first, stop, e | e | e⟩ := boundary_split b src obs s <;> rw [e]
  · exact fin _ _ (hx _)
  · exact fin _ _ (answerMaint_holds (hx _))
  · intro _
    left
    refine (answerMaint_inCue (.refl _)).latch ?_
    unfold enterMaintenance
    extract_lets
    exact curtainStop_latch _ _ _

/-- The curtain runs only with its stop latch clear and FAULT_N deasserted. -/
def Safe (s : State) : Prop := s.cur.running = true → s.cur.latch = false ∧ s.dev.faultN = false

theorem Safe.next {s t : State} (h : Safe s) (k : Keeps s t) (c : t.dev.faultN = true → s.dev.faultN = true ∨ t.cur.latch = true) :
    Safe t := by
  intro ht
  have hl : t.cur.latch = false := k.latch (fun hs => (h hs).1) ht
  refine ⟨hl, ?_⟩
  cases e : t.dev.faultN with
  | false => rfl
  | true =>
    rcases c e with g | g
    · rw [(h (k.start ht)).2] at g
      cases g
    · rw [hl] at g
      cases g

theorem afterBoundary_safe {first : Bool} {y : State} (h : Safe y) : Safe (afterBoundary first y) := by
  refine h.next (afterBoundary_keeps (.refl _)) fun hf => ?_
  have g := afterBoundary_inCue first y
  rcases g.raise hf with e | e
  · exact ((toHeld_inCue (first := first) (.refl y)).raise e).imp id g.latch
  · exact .inr e

theorem placeBoundary_safe {b src : Nat} {s : State} (h : Safe s) : Safe (placeBoundary b src s) := fun hr => ⟨rfl, (h hr).2⟩

/-- A boundary does not start the curtain, and FAULT_N is not asserted over a running one. -/
theorem boundary_safe {s : State} (b src : Nat) (obs : BoundaryObs) (h : Safe s) : Safe (boundary b src obs s) := by
  have hu : Safe (beforePlace b obs s) := by
    refine h.next ?_ (beforePlace_inCue (.refl s)).raise
    unfold beforePlace
    exact closeDigests_keeps (stopAtBoundary_keeps (holdAtBoundary_keeps (returnUnits_keeps (strikeOverdue_keeps
      (pairDetections_keeps (.refl _))))))
  have hw : Safe (placeBoundary b src (beforePlace b obs s)) := placeBoundary_safe hu
  have hx : ∀ stop, Safe (beginInvalid stop (placeBoundary b src (beforePlace b obs s))) := fun stop =>
    hw.next (beginInvalid_keeps (.refl _)) (beginInvalid_inCue (.refl _)).raise
  obtain ⟨first, stop, e | e | e⟩ := boundary_split b src obs s <;> rw [e]
  · exact afterBoundary_safe (hx _)
  · exact afterBoundary_safe ((hx _).next (answerMaint_keeps (.refl _)) (answerMaint_inCue (.refl _)).raise)
  · exact (hx _).next (answerMaint_keeps (enterMaintenance_keeps (closeCue_keeps (.refl _))))
      (answerMaint_inCue (enterMaintenance_inCue (closeCue_inCue (.refl _)))).raise

/-- Every field but the time base. -/
def butTb : Field → Bool := fun f => decide (f ≠ .tb)

theorem beforePlace_tb (b : Nat) (obs : BoundaryObs) (s : State) : (beforePlace b obs s).tb = s.tb := by
  refine Apart.same (m := butTb) ?_ .tb rfl
  unfold beforePlace
  refine closeDigests_apart rfl (stopAtBoundary_apart rfl rfl rfl rfl rfl rfl rfl rfl (holdAtBoundary_apart rfl rfl rfl rfl rfl rfl rfl
    rfl rfl rfl (returnUnits_apart ?_ ?_ (strikeOverdue_apart ?_ ?_ ?_ ?_ ?_ ?_ ?_ ?_ ?_ ?_ ?_ ?_ ?_ ?_ (pairDetections_apart ?_ ?_ ?_ ?_ ?_ ?_
      ?_ (.refl _ _)))))) <;> rfl

/-- A boundary begins the next cue. -/
theorem boundary_begins {s u : State} (b src : Nat) (obs : BoundaryObs) (hc : u.cue.count = s.cue.count) (ht : u.tb = s.tb)
    (hl : ∃ new, LogGrows s u new) : BeginsCue s (boundary b src obs u) b src := by
  have hs : (placeBoundary b src (beforePlace b obs u)).cue.stamp = stampOf (s.tb.ns b) := by
    rw [← ht, ← beforePlace_tb b obs u]
    rfl
  have fin : ∀ (first : Bool) (y : State), InCue (placeBoundary b src (beforePlace b obs u)) y →
      (afterBoundary first y).cue.stamp = stampOf (s.tb.ns b) := by
    intro first y hy
    exact (afterBoundary_inCue first y).stamp.trans ((toHeld_inCue (first := first) hy).stamp.trans hs)
  have hp := boundary_place b src obs u
  obtain ⟨new, hn⟩ := hl
  refine ⟨by rw [hp.1, hc], hp.2.1, hp.2.2, ?_, .earlier hn (boundary_logs b src obs u)⟩
  obtain ⟨first, stop, e | e | e⟩ := boundary_split b src obs u <;> rw [e]
  · exact fin _ _ (beginInvalid_inCue (.refl _))
  · exact fin _ _ (answerMaint_inCue (beginInvalid_inCue (.refl _)))
  · exact (answerMaint_inCue (enterMaintenance_inCue (closeCue_inCue (beginInvalid_inCue (.refl _))))).stamp.trans hs

/-- The curtain and FAULT_N guard each other. -/
def Guarded (s : State) : Prop := Alarm s ∧ Safe s

theorem Guarded.off (s : State) (h1 : s.dev.faultN = false) (h2 : s.cur.running = false) : Alarm s ∧ Safe s :=
  ⟨fun h => by rw [h1] at h; (cases h), fun h => by rw [h2] at h; (cases h)⟩

theorem Guarded.next {s t : State} (h : Guarded s) (c : InCue s t) (k : Keeps s t) : Guarded t := ⟨h.1.inCue c, h.2.next k c.raise⟩

theorem boundary_guarded {s : State} (b src obs) (h : Guarded s) : Guarded (boundary b src obs s) := ⟨boundary_alarm _ _ _ _,
    boundary_safe _ _ _ h.2⟩

theorem Guarded.at {s : State} (t) (h : Guarded s) : Guarded (s.at t) := h

theorem deviceReset_guarded (s : State) : Guarded (deviceReset s) := Guarded.off _ rfl rfl

/-- The next state, if there is one, is guarded. -/
def OutGuarded : Host.Outcome State Fault Refusal → Prop
  | .next t => Guarded t
  | _ => True

theorem execCueInEdge_guarded {s : State} (h : Guarded s) (a b c obs) : OutGuarded (execCueInEdge a b c obs s) := by
  unfold execCueInEdge
  extract_lets u p q
  have hu : Guarded u := Guarded.at _ h
  show Guarded _
  split
  · exact hu
  · split
    · split
      · exact boundary_guarded _ _ _ hu
      · exact hu
    · split
      · exact hu
      · split
        · exact Guarded.next hu (cueFault_inCue (InCue.upd (.refl _) rfl rfl rfl rfl id id id id id rfl .inl rfl)) (cueFault_keeps (Keeps.refl u).rest)
        · have acc : Guarded (acceptEdge p obs u) := by
            unfold acceptEdge
            refine boundary_guarded _ _ _ ?_
            split
            · exact Guarded.next hu (InCue.upd (logEvent_inCue (InCue.upd (.refl _) rfl rfl rfl rfl id id id id id rfl .inl rfl)) rfl rfl rfl rfl id id id id id rfl .inl rfl) (logEvent_keeps (Keeps.refl u).rest).rest
            · exact Guarded.next hu (InCue.upd (.refl _) rfl rfl rfl rfl id id id id id rfl .inl rfl) (Keeps.refl u).rest
          split
          · split
            · exact acc
            · exact hu
          · split
            · exact acc
            · exact hu

theorem execCueInMissing_guarded {s : State} (h : Guarded s) (a obs) : OutGuarded (execCueInMissing a obs s) := by
  unfold execCueInMissing
  extract_lets u p
  have hu : Guarded u := Guarded.at _ h
  show Guarded _
  repeat' split
  all_goals first
    | exact hu
    | (refine boundary_guarded _ _ _ ?_
       first
       | exact hu
       | exact Guarded.next hu (logEvent_inCue (.refl _)) (logEvent_keeps (.refl _))
       | exact Guarded.next hu (cueFault_inCue (.refl _)) (cueFault_keeps (.refl _)))

theorem execInternalCueBoundary_guarded {s : State} (h : Guarded s) (a obs) : OutGuarded (execInternalCueBoundary a obs s) := by
  unfold execInternalCueBoundary
  extract_lets u p q
  have hu : Guarded u := Guarded.at _ h
  show Guarded _
  repeat' split
  all_goals first
    | exact hu
    | exact boundary_guarded _ _ _ hu

theorem cueValid_parts {s : State} (h : s.cueValid = true) : s.cue.invalid = false ∧ s.cur.latch = false ∧
    (s.cue.stateAtB = .running ∨ s.cue.stateAtB = .degraded) ∧ s.cur.test = false ∧ s.cur.verdict = .good := by
  unfold State.cueValid State.complete at h
  simp only [Bool.and_eq_true, Bool.not_eq_true', decide_eq_true_eq] at h
  obtain ⟨⟨⟨hi, hl⟩, hv⟩, hc⟩ := h
  exact ⟨hi, hl, hc.1.1.1.1.1.1.1, hc.1.1.1.1.1.1.2, hv⟩

theorem runCurtain_dev (s : State) : (runCurtain s).dev = s.dev := (runCurtain_apart (m := butDev) rfl rfl rfl (.refl _ _)).same
    .dev rfl

theorem publish_dev (v) (s : State) : (publish v s).dev = s.dev := (publish_apart (m := butDev) rfl (.refl _ _)).same .dev rfl

theorem runCurtain_guarded {s : State} (hl : s.cur.latch = false) (hf : s.dev.faultN = false) : Guarded (runCurtain s) := by
  refine ⟨fun h => ?_, fun h => ⟨?_, ?_⟩⟩
  · rw [runCurtain_dev, hf] at h; cases h
  · have : (runCurtain s).cur.latch = s.cur.latch := by unfold runCurtain; split; rfl; split <;> rfl
    rw [this, hl]
  · rw [runCurtain_dev, hf]

theorem execPublishDeadline_guarded {s : State} (h : Guarded s) (a) : OutGuarded (execPublishDeadline a s) := by
  unfold execPublishDeadline
  extract_lets u r v valid w x c y
  have hu : Guarded u := Guarded.at _ h
  split
  · exact hu
  · have hr : Guarded r := by
      show Guarded (if _ then _ else _)
      split
      · exact Guarded.next hu (goLate_inCue (.refl _)) (goLate_keeps (.refl _))
      · exact hu
    have hv : Guarded v := Guarded.next hr
      (InCue.foldl _ _ (.refl _) fun _ _ ha => by split; exact loseValue_inCue ha; exact ha)
      (Keeps.foldl _ _ (.refl _) fun _ _ ha => by split; exact loseValue_keeps ha; exact ha)
    have hw : Guarded w := by
      show Guarded (if _ then _ else _)
      split
      · exact hv
      · exact Guarded.next hv (failPair_inCue (invalidate_inCue (.refl _))) (failPair_keeps (invalidate_keeps (.refl _)))
    have hx : Guarded x := Guarded.next hw (publish_inCue (.refl _)) (publish_keeps (.refl _))
    have hy : Guarded y := Guarded.next hx (InCue.upd (.refl _) rfl rfl rfl rfl id (fun _ => rfl) id id id rfl .inl rfl) (Keeps.refl _).rest
    show Guarded (if _ then _ else _)
    split
    · next hval =>
      obtain ⟨-, hl, hst, -, -⟩ := cueValid_parts hval
      have e : w = v := if_pos hval
      have hf : v.dev.faultN = false := by
        cases e : v.dev.faultN with
        | false => rfl
        | true =>
          rcases hv.1 e with g | g
          · rw [hl] at g; cases g
          · exact absurd hst g
      have hd : y.dev = v.dev := by show x.dev = _; rw [← e]; exact publish_dev _ _
      have hc : y.cur = v.cur := by show x.cur = _; rw [← e]; exact publish_cur _ _
      exact runCurtain_guarded (by rw [hc]; exact hl) (by rw [hd]; exact hf)
    · exact hy

theorem resets_guarded {s : State} (h : Guarded s) (c : Instr) (hc : c matches .powerOn .. | .powerLoss .. | .resetNAssert ..) :
    OutGuarded (exec c s) := by
  cases c <;> simp at hc
  · show Guarded (if _ then _ else _); split; exact h; exact Guarded.off _ rfl rfl
  · show Guarded (if _ then _ else _); split; exact Guarded.off _ rfl rfl; exact h
  · show Guarded (if _ then _ else _); split; exact Guarded.off _ rfl rfl; exact h

theorem softReset_guarded (s : State) : Guarded (softReset s) := deviceReset_guarded s

theorem onMessage_guarded {s : State} {typ inS} {f : Request → State → State} (h : Guarded s) (hf : ∀ q u, Guarded u → Guarded
    (f q u)) : Guarded (onMessage typ inS f s) := by
  unfold onMessage
  split
  · exact h
  · next m _ =>
    have hm : Guarded (handOn m s).2 := Guarded.next h (handOn_inCue (.refl _)) (handOn_keeps (.refl _))
    rcases e : handOn m s with ⟨q, u⟩
    rw [e] at hm
    extract_lets ok
    show Guarded (if _ then _ else _)
    split
    · exact Guarded.next hm (refuse_inCue (.refl _)) (refuse_keeps (.refl _))
    · split
      · exact Guarded.next hm (refuse_inCue (.refl _)) (refuse_keeps (.refl _))
      · exact hf _ _ hm

theorem completeUpdate_guarded {s : State} (h : Guarded s) : Guarded (completeUpdate s) := by
  unfold completeUpdate
  extract_lets f col u
  split
  · exact Guarded.next h (interruptUpdate_inCue (.refl _)) (interruptUpdate_keeps (.refl _))
  · exact softReset_guarded _

theorem settleUpdate_guarded {s : State} (h : Guarded s) : Guarded (settleUpdate s) := by
  unfold settleUpdate; split; exact completeUpdate_guarded h; exact h

theorem execMaintenanceEnd_guarded {s : State} (h : Guarded s) (a) : OutGuarded (execMaintenanceEnd a s) := by
  refine onMessage_guarded (Guarded.at a h) fun q u hu => ?_
  split
  · exact Guarded.next hu (interruptUpdate_inCue (refuse_inCue (.refl _))) (interruptUpdate_keeps (refuse_keeps (.refl _)))
  · exact softReset_guarded _

theorem Guarded.rest {s t : State} (h : Guarded s) (e1 : t.cur = s.cur) (e2 : t.dev = s.dev) (e3 : t.cue = s.cue) : Guarded t := by
  unfold Guarded Alarm Safe at *
  rw [e1, e2, e3]; exact h

theorem reply_guarded {s : State} (h : Guarded s) {q a b} : Guarded (reply q a b s) := Guarded.next h (reply_inCue (.refl _))
    (reply_keeps (.refl _))

theorem refuse_guarded {s : State} (h : Guarded s) {q a} : Guarded (refuse q a s) := Guarded.next h (refuse_inCue (.refl _))
    (refuse_keeps (.refl _))

theorem logEvent_guarded {s : State} (h : Guarded s) {q a b} : Guarded (logEvent q a b s) := Guarded.next h (logEvent_inCue
    (.refl _)) (logEvent_keeps (.refl _))

theorem hashed_guarded {s : State} (h : Guarded s) {n} : Guarded (hashed n s) := h

theorem setSec_guarded {s : State} (h : Guarded s) {i x} : Guarded (setSec i x s) := h

theorem upd_guarded {s : State} (h : Guarded s) {x} : Guarded { s with upd := x } := h

theorem ufs_guarded {s : State} (h : Guarded s) {x c} : Guarded { s with upd := x, ufs := c } := h

theorem updateData_guarded {s : State} (h : Guarded s) (q) : Guarded (updateData q s) := by
  unfold updateData
  extract_lets x u i off data got now y
  have hu : Guarded u := h
  split
  · split
    · exact refuse_guarded hu
    · extract_lets v
      have hv : Guarded v := hashed_guarded (ufs_guarded hu)
      split
      · exact reply_guarded hv
      · split
        · exact settleUpdate_guarded (reply_guarded (logEvent_guarded (setSec_guarded hv)))
        · exact refuse_guarded (upd_guarded hv)
  · exact refuse_guarded hu

theorem execUpdateKeepVerified_guarded {s : State} (h : Guarded s) (a p) : OutGuarded (execUpdateKeepVerified a p s) := by
  unfold execUpdateKeepVerified
  extract_lets u
  have hu : Guarded u := h
  split
  · dsimp only
    split
    · exact settleUpdate_guarded (logEvent_guarded (setSec_guarded (hashed_guarded hu)))
    · exact setSec_guarded (hashed_guarded hu)
  · exact hu

/-- Every command keeps the guard. -/
theorem exec_guarded {s t : State} {c : Instr} (h : Guarded s) (e : exec c s = .next t) : Guarded t := by
  have fin : ∀ c : Instr, exec c s = .next t → OutGuarded (exec c s) → Guarded t := fun c e hj => by rw [e] at hj; exact hj
  by_cases hb : beginsOrResets c = false
  · by_cases hp : ∃ x, c = .publishDeadline x
    · obtain ⟨x, rfl⟩ := hp
      exact fin _ e (execPublishDeadline_guarded h x)
    · exact Guarded.next h (exec_next_inCue e hb) (exec_next_keeps e fun x hx => hp ⟨x, hx⟩)
  · refine fin c e ?_
    cases c <;> first | exact absurd rfl hb | skip
    · exact resets_guarded h (.powerOn _) rfl
    · exact resets_guarded h (.powerLoss _) rfl
    · exact resets_guarded h (.resetNAssert _) rfl
    · exact execCueInEdge_guarded h _ _ _ _
    · exact execCueInMissing_guarded h _ _
    · exact execInternalCueBoundary_guarded h _ _
    · exact execMaintenanceEnd_guarded h _
    · exact execUpdateKeepVerified_guarded h _ _
    · exact onMessage_guarded (Guarded.at _ h) fun q u hu => updateData_guarded hu q

end Sys2Proof.Machine
end

