-- ==== Sys2Proof/Laws/Identity.lean ====
section
/-! SUPPORT. A signature that every message verifies under the key of the curve's identity point: what the witnesses of commands behind a
signature use, so that no test evaluates a scalar multiplication. -/

namespace Sys2Proof.Machine

/-- A modular power is the power modulo. -/
theorem powModFrom_eq (m b e : Nat) : ∀ n r, powModFrom m b e n r ≡ r ^ 2 ^ n * b ^ (e % 2 ^ n) [MOD m]
  | 0, r => by simp [powModFrom, Nat.mod_one, Nat.ModEq]
  | n + 1, r => by
    have hb : e % 2 ^ (n + 1) = (if e.testBit n then 2 ^ n else 0) + e % 2 ^ n := by
      rw [Nat.pow_succ, Nat.mod_mul, Nat.testBit_eq_decide_div_mod_eq]
      rcases Nat.mod_two_eq_zero_or_one (e / 2 ^ n) with h | h <;> simp [h, Nat.add_comm]
    have h2 : r ^ 2 ^ (n + 1) = (r * r) ^ 2 ^ n := by rw [← pow_two, ← pow_mul, ← pow_succ']
    have hr : r * r % m ≡ r * r [MOD m] := Nat.mod_modEq _ _
    simp only [powModFrom]
    refine (powModFrom_eq m b e n _).trans ?_
    rw [hb, h2]
    split
    · rw [pow_add, ← mul_assoc, ← mul_pow]
      exact (((Nat.mod_modEq _ _).trans (hr.mul_right _)).pow _).mul_right _
    · rw [Nat.zero_add]
      exact (hr.pow _).mul_right _

theorem powModFrom_one (m b e n : Nat) (he : e < 2 ^ n) : powModFrom m b e n 1 ≡ b ^ e [MOD m] := by
  simpa only [one_pow, one_mul, Nat.mod_eq_of_lt he] using powModFrom_eq m b e n 1

theorem powMod_eq (m b e : Nat) (he : e < 2 ^ 256) : powMod m b e ≡ b ^ e [MOD m] :=
  (powModFrom_one m (b % m) e 256 he).trans ((Nat.mod_modEq _ _).pow _)

/-- 2 has an order that divides p − 1. -/
theorem two_pow_edP : 2 ^ (edP - 1) ≡ 1 [MOD edP] :=
  (powMod_eq edP 2 (edP - 1) (by decide +kernel)).symm.trans (by decide +kernel)

/-- A form of the identity point whose Y and Z are a power of 2. -/
def EdPoint.Flat (p : EdPoint) : Prop := p.x = 0 ∧ p.t = 0 ∧ p.y = p.z ∧ p.y < edP ∧ ∃ e, p.y ≡ 2 ^ e [MOD edP]

theorem edSub_self {a b : Nat} (h : a = b) : edSub a b = 0 := by subst h; simp [edSub]

theorem EdPoint.zero_flat : EdPoint.zero.Flat := ⟨rfl, rfl, rfl, by decide +kernel, 0, rfl⟩

theorem EdPoint.Flat.add {p q : EdPoint} (hp : p.Flat) (hq : q.Flat) : (p.add q).Flat := by
  obtain ⟨px, pt, pz, pl, i, hi⟩ := hp
  obtain ⟨qx, qt, qz, ql, j, hj⟩ := hq
  have hP : 0 < edP := by decide +kernel
  have hs : ∀ v, v < edP → edSub v 0 = v := fun v hv => by simp [edSub, Nat.mod_eq_of_lt hv]
  have hd : 2 * p.z * q.z % edP < edP := Nat.mod_lt _ hP
  have hpow : 2 * p.z * q.z % edP ≡ 2 ^ (1 + i + j) [MOD edP] := by
    refine (Nat.mod_modEq _ _).trans ?_
    rw [← pz, ← qz, pow_add, pow_add, pow_one]
    exact (hi.mul_left 2).mul hj
  have e1 : edSub ((p.y + p.x) * (q.y + q.x) % edP) (edSub p.y p.x * edSub q.y q.x % edP) = 0 :=
    edSub_self (by rw [px, qx, hs _ pl, hs _ ql, Nat.add_zero, Nat.add_zero])
  have e2 : 2 * p.t * q.t * edD % edP = 0 := by simp [pt]
  have e3 : ((p.y + p.x) * (q.y + q.x) % edP + edSub p.y p.x * edSub q.y q.x % edP) % edP = 2 * p.z * q.z % edP := by
    rw [px, qx, hs _ pl, hs _ ql, Nat.add_zero, Nat.add_zero, pz, qz, ← two_mul, Nat.mul_mod_mod, mul_assoc]
  simp only [EdPoint.Flat, EdPoint.add, e1, e2, e3, hs _ hd, Nat.add_zero, Nat.zero_mul, Nat.zero_mod, Nat.mod_mod, true_and]
  refine ⟨Nat.mod_lt _ hP, (1 + i + j) + (1 + i + j), (Nat.mod_modEq _ _).trans ?_⟩
  rw [pow_add _ (1 + i + j)]
  exact hpow.mul hpow

theorem edMulFrom_flat {p : EdPoint} (hp : p.Flat) (k : Nat) : ∀ n r, r.Flat → (edMulFrom k p n r).Flat
  | 0, _, hr => hr
  | n + 1, r, hr => by
    simp only [edMulFrom]
    split
    · exact edMulFrom_flat hp k n _ ((hr.add hr).add hp)
    · exact edMulFrom_flat hp k n _ (hr.add hr)

theorem edMulFrom_zero_flat (p : EdPoint) : ∀ n r, r.Flat → (edMulFrom 0 p n r).Flat
  | 0, _, hr => hr
  | n + 1, r, hr => by
    simp only [edMulFrom, Nat.zero_testBit, Bool.false_eq_true, if_false]
    exact edMulFrom_zero_flat p n _ (hr.add hr)

/-- Every form of the identity encodes alike. -/
theorem EdPoint.Flat.encode {p : EdPoint} (hp : p.Flat) : edEncode p = natLe 32 1 := by
  obtain ⟨px, -, pz, -, e, he⟩ := hp
  have hc : ∀ q, q < 2 ^ 256 → q + 1 = edP - 1 → p.y * powMod edP p.z q % edP = 1 := fun q hq h => by
    have h1 : p.y * powMod edP p.z q ≡ 2 ^ (e * (q + 1)) [MOD edP] := by
      refine ((powMod_eq edP p.z q hq).mul_left _).trans ?_
      rw [← pz, ← pow_succ', pow_mul]
      exact he.pow _
    rw [h, mul_comm e, pow_mul] at h1
    have h2 := h1.trans (two_pow_edP.pow e)
    rw [one_pow] at h2
    exact Eq.trans h2 (Nat.mod_eq_of_lt (by decide +kernel : 1 < edP))
  have h2 : p.y * edInv p.z % edP = 1 := hc (edP - 2) (by decide +kernel) (by decide +kernel)
  simp [edEncode, px, h2]

/-- The encoding of the identity point. -/
def idKey : List Byte := 1 :: List.replicate 31 0

def idSig : List Byte := idKey ++ List.replicate 32 0

theorem edVerify_identity (msg : List Byte) : edVerify idKey msg idSig = true := by
  have hk : edDecode idKey = some EdPoint.zero := by decide +kernel
  have hr : idSig.take 32 = idKey := by decide +kernel
  have hs : leNat ((idSig.drop 32).take 32) = 0 := by decide +kernel
  simp only [edVerify, hr, hs, hk, edMul]
  rw [if_neg (by decide +kernel)]
  have hz := EdPoint.zero_flat
  rw [Nat.mul_zero, (edMulFrom_zero_flat edBase 256 _ hz).encode,
    ((edMulFrom_flat hz 8 256 _ hz).add (edMulFrom_flat hz _ 256 _ hz)).encode]
  simp

end Sys2Proof.Machine
end

