-- ==== Sys2Proof/Laws/State.lean ====
section
/-! SUPPORT. Each field of the state after each of the small updates of the state. -/

namespace Sys2Proof.Machine

variable {s : State}

@[simp] theorem State.at_pending {a1} : (State.at s a1).pending = s.pending := rfl
@[simp] theorem State.at_now {a1} : (State.at s a1).now = max (s.now + s.arb.slip) a1 := rfl
@[simp] theorem State.at_arb {a1} : (State.at s a1).arb = (if s.now + s.arb.slip < a1 then { items := 0, commits := 0, begun := false, slip := 0 }
    else { s.arb with begun := false, slip := 0 }) := rfl
@[simp] theorem State.at_free {a1} : (State.at s a1).free = s.free := rfl
@[simp] theorem State.at_ident {a1} : (State.at s a1).ident = s.ident := rfl
@[simp] theorem State.at_fuses {a1} : (State.at s a1).fuses = s.fuses := rfl
@[simp] theorem State.at_chip {a1} : (State.at s a1).chip = s.chip := rfl
@[simp] theorem State.at_dev {a1} : (State.at s a1).dev = s.dev := rfl
@[simp] theorem State.at_upd {a1} : (State.at s a1).upd = s.upd := rfl
@[simp] theorem State.at_ufs {a1} : (State.at s a1).ufs = s.ufs := rfl
@[simp] theorem State.at_ufsCap {a1} : (State.at s a1).ufsCap = s.ufsCap := rfl
@[simp] theorem State.at_forme {a1} : (State.at s a1).forme = s.forme := rfl
@[simp] theorem State.at_tb {a1} : (State.at s a1).tb = s.tb := rfl
@[simp] theorem State.at_cue {a1} : (State.at s a1).cue = s.cue := rfl
@[simp] theorem State.at_log {a1} : (State.at s a1).log = s.log := rfl
@[simp] theorem State.at_units {a1} : (State.at s a1).units = s.units := rfl
@[simp] theorem State.at_cur {a1} : (State.at s a1).cur = s.cur := rfl
@[simp] theorem State.at_cls {a1} : (State.at s a1).cls = s.cls := rfl
@[simp] theorem State.at_sched {a1} : (State.at s a1).sched = s.sched := rfl
@[simp] theorem State.at_cog {a1} : (State.at s a1).cog = s.cog := rfl
@[simp] theorem State.at_part {a1} : (State.at s a1).part = s.part := rfl
@[simp] theorem State.at_accts {a1} : (State.at s a1).accts = s.accts := rfl
@[simp] theorem State.at_acctWin {a1} : (State.at s a1).acctWin = s.acctWin := rfl
@[simp] theorem State.at_mem {a1} : (State.at s a1).mem = s.mem := rfl
@[simp] theorem State.at_press {a1} : (State.at s a1).press = s.press := rfl
@[simp] theorem State.at_ing {a1} : (State.at s a1).ing = s.ing := rfl
@[simp] theorem State.at_port {a1} : (State.at s a1).port = s.port := rfl
@[simp] theorem State.at_gov {a1} : (State.at s a1).gov = s.gov := rfl
@[simp] theorem State.at_overruns {a1} : (State.at s a1).overruns = s.overruns := rfl

@[simp] theorem irq_pending {a1} : (irq a1 s).pending = s.pending := rfl
@[simp] theorem irq_now {a1} : (irq a1 s).now = s.now := rfl
@[simp] theorem irq_arb {a1} : (irq a1 s).arb = s.arb := rfl
@[simp] theorem irq_free {a1} : (irq a1 s).free = s.free := rfl
@[simp] theorem irq_ident {a1} : (irq a1 s).ident = s.ident := rfl
@[simp] theorem irq_fuses {a1} : (irq a1 s).fuses = s.fuses := rfl
@[simp] theorem irq_chip {a1} : (irq a1 s).chip = s.chip := rfl
@[simp] theorem irq_dev {a1} : (irq a1 s).dev = s.dev := rfl
@[simp] theorem irq_upd {a1} : (irq a1 s).upd = s.upd := rfl
@[simp] theorem irq_ufs {a1} : (irq a1 s).ufs = s.ufs := rfl
@[simp] theorem irq_ufsCap {a1} : (irq a1 s).ufsCap = s.ufsCap := rfl
@[simp] theorem irq_forme {a1} : (irq a1 s).forme = s.forme := rfl
@[simp] theorem irq_tb {a1} : (irq a1 s).tb = s.tb := rfl
@[simp] theorem irq_cue {a1} : (irq a1 s).cue = s.cue := rfl
@[simp] theorem irq_log {a1} : (irq a1 s).log = s.log := rfl
@[simp] theorem irq_units {a1} : (irq a1 s).units = s.units := rfl
@[simp] theorem irq_cur {a1} : (irq a1 s).cur = s.cur := rfl
@[simp] theorem irq_cls {a1} : (irq a1 s).cls = s.cls := rfl
@[simp] theorem irq_sched {a1} : (irq a1 s).sched = s.sched := rfl
@[simp] theorem irq_cog {a1} : (irq a1 s).cog = s.cog := rfl
@[simp] theorem irq_part {a1} : (irq a1 s).part = s.part := rfl
@[simp] theorem irq_accts {a1} : (irq a1 s).accts = s.accts := rfl
@[simp] theorem irq_acctWin {a1} : (irq a1 s).acctWin = s.acctWin := rfl
@[simp] theorem irq_mem {a1} : (irq a1 s).mem = s.mem := rfl
@[simp] theorem irq_press {a1} : (irq a1 s).press = s.press := rfl
@[simp] theorem irq_ing {a1} : (irq a1 s).ing = s.ing := rfl
@[simp] theorem irq_port {a1} : (irq a1 s).port = { s.port with
    irq := s.port.irq ||| (1#7 <<< a1), irqNew := s.irqFresh ||| (1#7 <<< a1), irqNewAt := s.cycle } := rfl
@[simp] theorem irq_gov {a1} : (irq a1 s).gov = s.gov := rfl
@[simp] theorem irq_overruns {a1} : (irq a1 s).overruns = s.overruns := rfl

@[simp] theorem logEvent_pending {a1 a2 a3} : (logEvent a1 a2 a3 s).pending = s.pending := rfl
@[simp] theorem logEvent_now {a1 a2 a3} : (logEvent a1 a2 a3 s).now = s.now := rfl
@[simp] theorem logEvent_arb {a1 a2 a3} : (logEvent a1 a2 a3 s).arb = s.arb.number := rfl
@[simp] theorem logEvent_free {a1 a2 a3} : (logEvent a1 a2 a3 s).free = s.free := rfl
@[simp] theorem logEvent_ident {a1 a2 a3} : (logEvent a1 a2 a3 s).ident = s.ident := rfl
@[simp] theorem logEvent_fuses {a1 a2 a3} : (logEvent a1 a2 a3 s).fuses = s.fuses := rfl
@[simp] theorem logEvent_chip {a1 a2 a3} : (logEvent a1 a2 a3 s).chip = s.chip := rfl
@[simp] theorem logEvent_dev {a1 a2 a3} : (logEvent a1 a2 a3 s).dev = s.dev := rfl
@[simp] theorem logEvent_upd {a1 a2 a3} : (logEvent a1 a2 a3 s).upd = s.upd := rfl
@[simp] theorem logEvent_ufs {a1 a2 a3} : (logEvent a1 a2 a3 s).ufs = s.ufs := rfl
@[simp] theorem logEvent_ufsCap {a1 a2 a3} : (logEvent a1 a2 a3 s).ufsCap = s.ufsCap := rfl
@[simp] theorem logEvent_forme {a1 a2 a3} : (logEvent a1 a2 a3 s).forme = s.forme := rfl
@[simp] theorem logEvent_tb {a1 a2 a3} : (logEvent a1 a2 a3 s).tb = s.tb := rfl
@[simp] theorem logEvent_cue {a1 a2 a3} : (logEvent a1 a2 a3 s).cue = s.cue := rfl
@[simp] theorem logEvent_units {a1 a2 a3} : (logEvent a1 a2 a3 s).units = s.units := rfl
@[simp] theorem logEvent_cur {a1 a2 a3} : (logEvent a1 a2 a3 s).cur = s.cur := rfl
@[simp] theorem logEvent_cls {a1 a2 a3} : (logEvent a1 a2 a3 s).cls = s.cls := rfl
@[simp] theorem logEvent_sched {a1 a2 a3} : (logEvent a1 a2 a3 s).sched = s.sched := rfl
@[simp] theorem logEvent_cog {a1 a2 a3} : (logEvent a1 a2 a3 s).cog = s.cog := rfl
@[simp] theorem logEvent_part {a1 a2 a3} : (logEvent a1 a2 a3 s).part = s.part := rfl
@[simp] theorem logEvent_accts {a1 a2 a3} : (logEvent a1 a2 a3 s).accts = s.accts := rfl
@[simp] theorem logEvent_acctWin {a1 a2 a3} : (logEvent a1 a2 a3 s).acctWin = s.acctWin := rfl
@[simp] theorem logEvent_mem {a1 a2 a3} : (logEvent a1 a2 a3 s).mem = s.mem := rfl
@[simp] theorem logEvent_press {a1 a2 a3} : (logEvent a1 a2 a3 s).press = s.press := rfl
@[simp] theorem logEvent_ing {a1 a2 a3} : (logEvent a1 a2 a3 s).ing = s.ing := rfl
@[simp] theorem logEvent_port {a1 a2 a3} : (logEvent a1 a2 a3 s).port = s.port := rfl
@[simp] theorem logEvent_gov {a1 a2 a3} : (logEvent a1 a2 a3 s).gov = s.gov := rfl
@[simp] theorem logEvent_overruns {a1 a2 a3} : (logEvent a1 a2 a3 s).overruns = s.overruns := rfl

@[simp] theorem State.modUnit_pending {a1 a2} : (State.modUnit a1 a2 s).pending = s.pending := rfl
@[simp] theorem State.modUnit_now {a1 a2} : (State.modUnit a1 a2 s).now = s.now := rfl
@[simp] theorem State.modUnit_arb {a1 a2} : (State.modUnit a1 a2 s).arb = s.arb := rfl
@[simp] theorem State.modUnit_free {a1 a2} : (State.modUnit a1 a2 s).free = s.free := rfl
@[simp] theorem State.modUnit_ident {a1 a2} : (State.modUnit a1 a2 s).ident = s.ident := rfl
@[simp] theorem State.modUnit_fuses {a1 a2} : (State.modUnit a1 a2 s).fuses = s.fuses := rfl
@[simp] theorem State.modUnit_chip {a1 a2} : (State.modUnit a1 a2 s).chip = s.chip := rfl
@[simp] theorem State.modUnit_dev {a1 a2} : (State.modUnit a1 a2 s).dev = s.dev := rfl
@[simp] theorem State.modUnit_upd {a1 a2} : (State.modUnit a1 a2 s).upd = s.upd := rfl
@[simp] theorem State.modUnit_ufs {a1 a2} : (State.modUnit a1 a2 s).ufs = s.ufs := rfl
@[simp] theorem State.modUnit_ufsCap {a1 a2} : (State.modUnit a1 a2 s).ufsCap = s.ufsCap := rfl
@[simp] theorem State.modUnit_forme {a1 a2} : (State.modUnit a1 a2 s).forme = s.forme := rfl
@[simp] theorem State.modUnit_tb {a1 a2} : (State.modUnit a1 a2 s).tb = s.tb := rfl
@[simp] theorem State.modUnit_cue {a1 a2} : (State.modUnit a1 a2 s).cue = s.cue := rfl
@[simp] theorem State.modUnit_log {a1 a2} : (State.modUnit a1 a2 s).log = s.log := rfl
@[simp] theorem State.modUnit_units {a1 a2} : (State.modUnit a1 a2 s).units = vmod s.units (unitIdx a1) a2 := rfl
@[simp] theorem State.modUnit_cur {a1 a2} : (State.modUnit a1 a2 s).cur = s.cur := rfl
@[simp] theorem State.modUnit_cls {a1 a2} : (State.modUnit a1 a2 s).cls = s.cls := rfl
@[simp] theorem State.modUnit_sched {a1 a2} : (State.modUnit a1 a2 s).sched = s.sched := rfl
@[simp] theorem State.modUnit_cog {a1 a2} : (State.modUnit a1 a2 s).cog = s.cog := rfl
@[simp] theorem State.modUnit_part {a1 a2} : (State.modUnit a1 a2 s).part = s.part := rfl
@[simp] theorem State.modUnit_accts {a1 a2} : (State.modUnit a1 a2 s).accts = s.accts := rfl
@[simp] theorem State.modUnit_acctWin {a1 a2} : (State.modUnit a1 a2 s).acctWin = s.acctWin := rfl
@[simp] theorem State.modUnit_mem {a1 a2} : (State.modUnit a1 a2 s).mem = s.mem := rfl
@[simp] theorem State.modUnit_press {a1 a2} : (State.modUnit a1 a2 s).press = s.press := rfl
@[simp] theorem State.modUnit_ing {a1 a2} : (State.modUnit a1 a2 s).ing = s.ing := rfl
@[simp] theorem State.modUnit_port {a1 a2} : (State.modUnit a1 a2 s).port = s.port := rfl
@[simp] theorem State.modUnit_gov {a1 a2} : (State.modUnit a1 a2 s).gov = s.gov := rfl
@[simp] theorem State.modUnit_overruns {a1 a2} : (State.modUnit a1 a2 s).overruns = s.overruns := rfl

@[simp] theorem State.modPress_pending {a1 a2} : (State.modPress a1 a2 s).pending = s.pending := rfl
@[simp] theorem State.modPress_now {a1 a2} : (State.modPress a1 a2 s).now = s.now := rfl
@[simp] theorem State.modPress_arb {a1 a2} : (State.modPress a1 a2 s).arb = s.arb := rfl
@[simp] theorem State.modPress_free {a1 a2} : (State.modPress a1 a2 s).free = s.free := rfl
@[simp] theorem State.modPress_ident {a1 a2} : (State.modPress a1 a2 s).ident = s.ident := rfl
@[simp] theorem State.modPress_fuses {a1 a2} : (State.modPress a1 a2 s).fuses = s.fuses := rfl
@[simp] theorem State.modPress_chip {a1 a2} : (State.modPress a1 a2 s).chip = s.chip := rfl
@[simp] theorem State.modPress_dev {a1 a2} : (State.modPress a1 a2 s).dev = s.dev := rfl
@[simp] theorem State.modPress_upd {a1 a2} : (State.modPress a1 a2 s).upd = s.upd := rfl
@[simp] theorem State.modPress_ufs {a1 a2} : (State.modPress a1 a2 s).ufs = s.ufs := rfl
@[simp] theorem State.modPress_ufsCap {a1 a2} : (State.modPress a1 a2 s).ufsCap = s.ufsCap := rfl
@[simp] theorem State.modPress_forme {a1 a2} : (State.modPress a1 a2 s).forme = s.forme := rfl
@[simp] theorem State.modPress_tb {a1 a2} : (State.modPress a1 a2 s).tb = s.tb := rfl
@[simp] theorem State.modPress_cue {a1 a2} : (State.modPress a1 a2 s).cue = s.cue := rfl
@[simp] theorem State.modPress_log {a1 a2} : (State.modPress a1 a2 s).log = s.log := rfl
@[simp] theorem State.modPress_units {a1 a2} : (State.modPress a1 a2 s).units = s.units := rfl
@[simp] theorem State.modPress_cur {a1 a2} : (State.modPress a1 a2 s).cur = s.cur := rfl
@[simp] theorem State.modPress_cls {a1 a2} : (State.modPress a1 a2 s).cls = s.cls := rfl
@[simp] theorem State.modPress_sched {a1 a2} : (State.modPress a1 a2 s).sched = s.sched := rfl
@[simp] theorem State.modPress_cog {a1 a2} : (State.modPress a1 a2 s).cog = s.cog := rfl
@[simp] theorem State.modPress_part {a1 a2} : (State.modPress a1 a2 s).part = s.part := rfl
@[simp] theorem State.modPress_accts {a1 a2} : (State.modPress a1 a2 s).accts = s.accts := rfl
@[simp] theorem State.modPress_acctWin {a1 a2} : (State.modPress a1 a2 s).acctWin = s.acctWin := rfl
@[simp] theorem State.modPress_mem {a1 a2} : (State.modPress a1 a2 s).mem = s.mem := rfl
@[simp] theorem State.modPress_press {a1 a2} : (State.modPress a1 a2 s).press = vmod s.press a1 a2 := rfl
@[simp] theorem State.modPress_ing {a1 a2} : (State.modPress a1 a2 s).ing = s.ing := rfl
@[simp] theorem State.modPress_port {a1 a2} : (State.modPress a1 a2 s).port = s.port := rfl
@[simp] theorem State.modPress_gov {a1 a2} : (State.modPress a1 a2 s).gov = s.gov := rfl
@[simp] theorem State.modPress_overruns {a1 a2} : (State.modPress a1 a2 s).overruns = s.overruns := rfl

@[simp] theorem State.modInst_pending {a1 a2} : (State.modInst a1 a2 s).pending = s.pending := rfl
@[simp] theorem State.modInst_now {a1 a2} : (State.modInst a1 a2 s).now = s.now := rfl
@[simp] theorem State.modInst_arb {a1 a2} : (State.modInst a1 a2 s).arb = s.arb := rfl
@[simp] theorem State.modInst_free {a1 a2} : (State.modInst a1 a2 s).free = s.free := rfl
@[simp] theorem State.modInst_ident {a1 a2} : (State.modInst a1 a2 s).ident = s.ident := rfl
@[simp] theorem State.modInst_fuses {a1 a2} : (State.modInst a1 a2 s).fuses = s.fuses := rfl
@[simp] theorem State.modInst_chip {a1 a2} : (State.modInst a1 a2 s).chip = s.chip := rfl
@[simp] theorem State.modInst_dev {a1 a2} : (State.modInst a1 a2 s).dev = s.dev := rfl
@[simp] theorem State.modInst_upd {a1 a2} : (State.modInst a1 a2 s).upd = s.upd := rfl
@[simp] theorem State.modInst_ufs {a1 a2} : (State.modInst a1 a2 s).ufs = s.ufs := rfl
@[simp] theorem State.modInst_ufsCap {a1 a2} : (State.modInst a1 a2 s).ufsCap = s.ufsCap := rfl
@[simp] theorem State.modInst_forme {a1 a2} : (State.modInst a1 a2 s).forme = s.forme := rfl
@[simp] theorem State.modInst_tb {a1 a2} : (State.modInst a1 a2 s).tb = s.tb := rfl
@[simp] theorem State.modInst_cue {a1 a2} : (State.modInst a1 a2 s).cue = s.cue := rfl
@[simp] theorem State.modInst_log {a1 a2} : (State.modInst a1 a2 s).log = s.log := rfl
@[simp] theorem State.modInst_units {a1 a2} : (State.modInst a1 a2 s).units = s.units := rfl
@[simp] theorem State.modInst_cur {a1 a2} : (State.modInst a1 a2 s).cur = s.cur := rfl
@[simp] theorem State.modInst_cls {a1 a2} : (State.modInst a1 a2 s).cls = s.cls := rfl
@[simp] theorem State.modInst_cog {a1 a2} : (State.modInst a1 a2 s).cog = s.cog := rfl
@[simp] theorem State.modInst_part {a1 a2} : (State.modInst a1 a2 s).part = s.part := rfl
@[simp] theorem State.modInst_accts {a1 a2} : (State.modInst a1 a2 s).accts = s.accts := rfl
@[simp] theorem State.modInst_acctWin {a1 a2} : (State.modInst a1 a2 s).acctWin = s.acctWin := rfl
@[simp] theorem State.modInst_mem {a1 a2} : (State.modInst a1 a2 s).mem = s.mem := rfl
@[simp] theorem State.modInst_press {a1 a2} : (State.modInst a1 a2 s).press = s.press := rfl
@[simp] theorem State.modInst_ing {a1 a2} : (State.modInst a1 a2 s).ing = s.ing := rfl
@[simp] theorem State.modInst_port {a1 a2} : (State.modInst a1 a2 s).port = s.port := rfl
@[simp] theorem State.modInst_gov {a1 a2} : (State.modInst a1 a2 s).gov = s.gov := rfl
@[simp] theorem State.modInst_overruns {a1 a2} : (State.modInst a1 a2 s).overruns = s.overruns := rfl

@[simp] theorem devWrite_pending {a1 a2} : (devWrite a1 a2 s).pending = s.pending := rfl
@[simp] theorem devWrite_now {a1 a2} : (devWrite a1 a2 s).now = s.now := rfl
@[simp] theorem devWrite_arb {a1 a2} : (devWrite a1 a2 s).arb = s.arb := rfl
@[simp] theorem devWrite_free {a1 a2} : (devWrite a1 a2 s).free = s.free := rfl
@[simp] theorem devWrite_ident {a1 a2} : (devWrite a1 a2 s).ident = s.ident := rfl
@[simp] theorem devWrite_fuses {a1 a2} : (devWrite a1 a2 s).fuses = s.fuses := rfl
@[simp] theorem devWrite_chip {a1 a2} : (devWrite a1 a2 s).chip = s.chip := rfl
@[simp] theorem devWrite_dev {a1 a2} : (devWrite a1 a2 s).dev = s.dev := rfl
@[simp] theorem devWrite_upd {a1 a2} : (devWrite a1 a2 s).upd = s.upd := rfl
@[simp] theorem devWrite_ufs {a1 a2} : (devWrite a1 a2 s).ufs = s.ufs := rfl
@[simp] theorem devWrite_ufsCap {a1 a2} : (devWrite a1 a2 s).ufsCap = s.ufsCap := rfl
@[simp] theorem devWrite_forme {a1 a2} : (devWrite a1 a2 s).forme = s.forme := rfl
@[simp] theorem devWrite_tb {a1 a2} : (devWrite a1 a2 s).tb = s.tb := rfl
@[simp] theorem devWrite_cue {a1 a2} : (devWrite a1 a2 s).cue = s.cue := rfl
@[simp] theorem devWrite_log {a1 a2} : (devWrite a1 a2 s).log = s.log := rfl
@[simp] theorem devWrite_units {a1 a2} : (devWrite a1 a2 s).units = s.units := rfl
@[simp] theorem devWrite_cur {a1 a2} : (devWrite a1 a2 s).cur = s.cur := rfl
@[simp] theorem devWrite_cls {a1 a2} : (devWrite a1 a2 s).cls = s.cls := rfl
@[simp] theorem devWrite_sched {a1 a2} : (devWrite a1 a2 s).sched = s.sched := rfl
@[simp] theorem devWrite_cog {a1 a2} : (devWrite a1 a2 s).cog = s.cog := rfl
@[simp] theorem devWrite_part {a1 a2} : (devWrite a1 a2 s).part = s.part := rfl
@[simp] theorem devWrite_accts {a1 a2} : (devWrite a1 a2 s).accts = s.accts := rfl
@[simp] theorem devWrite_acctWin {a1 a2} : (devWrite a1 a2 s).acctWin = s.acctWin := rfl
@[simp] theorem devWrite_press {a1 a2} : (devWrite a1 a2 s).press = s.press := rfl
@[simp] theorem devWrite_ing {a1 a2} : (devWrite a1 a2 s).ing = s.ing := rfl
@[simp] theorem devWrite_port {a1 a2} : (devWrite a1 a2 s).port = s.port := rfl
@[simp] theorem devWrite_gov {a1 a2} : (devWrite a1 a2 s).gov = s.gov := rfl
@[simp] theorem devWrite_overruns {a1 a2} : (devWrite a1 a2 s).overruns = s.overruns := rfl

@[simp] theorem modSession_pending {a1 a2} : (modSession a1 a2 s).pending = s.pending := rfl
@[simp] theorem modSession_now {a1 a2} : (modSession a1 a2 s).now = s.now := rfl
@[simp] theorem modSession_arb {a1 a2} : (modSession a1 a2 s).arb = s.arb := rfl
@[simp] theorem modSession_free {a1 a2} : (modSession a1 a2 s).free = s.free := rfl
@[simp] theorem modSession_ident {a1 a2} : (modSession a1 a2 s).ident = s.ident := rfl
@[simp] theorem modSession_fuses {a1 a2} : (modSession a1 a2 s).fuses = s.fuses := rfl
@[simp] theorem modSession_chip {a1 a2} : (modSession a1 a2 s).chip = s.chip := rfl
@[simp] theorem modSession_dev {a1 a2} : (modSession a1 a2 s).dev = s.dev := rfl
@[simp] theorem modSession_upd {a1 a2} : (modSession a1 a2 s).upd = s.upd := rfl
@[simp] theorem modSession_ufs {a1 a2} : (modSession a1 a2 s).ufs = s.ufs := rfl
@[simp] theorem modSession_ufsCap {a1 a2} : (modSession a1 a2 s).ufsCap = s.ufsCap := rfl
@[simp] theorem modSession_forme {a1 a2} : (modSession a1 a2 s).forme = s.forme := rfl
@[simp] theorem modSession_tb {a1 a2} : (modSession a1 a2 s).tb = s.tb := rfl
@[simp] theorem modSession_cue {a1 a2} : (modSession a1 a2 s).cue = s.cue := rfl
@[simp] theorem modSession_log {a1 a2} : (modSession a1 a2 s).log = s.log := rfl
@[simp] theorem modSession_units {a1 a2} : (modSession a1 a2 s).units = s.units := rfl
@[simp] theorem modSession_cur {a1 a2} : (modSession a1 a2 s).cur = s.cur := rfl
@[simp] theorem modSession_cls {a1 a2} : (modSession a1 a2 s).cls = s.cls := rfl
@[simp] theorem modSession_sched {a1 a2} : (modSession a1 a2 s).sched = s.sched := rfl
@[simp] theorem modSession_part {a1 a2} : (modSession a1 a2 s).part = s.part := rfl
@[simp] theorem modSession_accts {a1 a2} : (modSession a1 a2 s).accts = s.accts := rfl
@[simp] theorem modSession_acctWin {a1 a2} : (modSession a1 a2 s).acctWin = s.acctWin := rfl
@[simp] theorem modSession_mem {a1 a2} : (modSession a1 a2 s).mem = s.mem := rfl
@[simp] theorem modSession_press {a1 a2} : (modSession a1 a2 s).press = s.press := rfl
@[simp] theorem modSession_ing {a1 a2} : (modSession a1 a2 s).ing = s.ing := rfl
@[simp] theorem modSession_port {a1 a2} : (modSession a1 a2 s).port = s.port := rfl
@[simp] theorem modSession_gov {a1 a2} : (modSession a1 a2 s).gov = s.gov := rfl
@[simp] theorem modSession_overruns {a1 a2} : (modSession a1 a2 s).overruns = s.overruns := rfl

@[simp] theorem setKeep_pending {a1} : (setKeep a1 s).pending = s.pending := rfl
@[simp] theorem setKeep_now {a1} : (setKeep a1 s).now = s.now := rfl
@[simp] theorem setKeep_arb {a1} : (setKeep a1 s).arb = s.arb := rfl
@[simp] theorem setKeep_free {a1} : (setKeep a1 s).free = s.free := rfl
@[simp] theorem setKeep_ident {a1} : (setKeep a1 s).ident = s.ident := rfl
@[simp] theorem setKeep_fuses {a1} : (setKeep a1 s).fuses = s.fuses := rfl
@[simp] theorem setKeep_chip {a1} : (setKeep a1 s).chip = s.chip := rfl
@[simp] theorem setKeep_dev {a1} : (setKeep a1 s).dev = s.dev := rfl
@[simp] theorem setKeep_upd {a1} : (setKeep a1 s).upd = s.upd := rfl
@[simp] theorem setKeep_ufs {a1} : (setKeep a1 s).ufs = s.ufs := rfl
@[simp] theorem setKeep_ufsCap {a1} : (setKeep a1 s).ufsCap = s.ufsCap := rfl
@[simp] theorem setKeep_forme {a1} : (setKeep a1 s).forme = s.forme := rfl
@[simp] theorem setKeep_tb {a1} : (setKeep a1 s).tb = s.tb := rfl
@[simp] theorem setKeep_cue {a1} : (setKeep a1 s).cue = s.cue := rfl
@[simp] theorem setKeep_log {a1} : (setKeep a1 s).log = s.log := rfl
@[simp] theorem setKeep_units {a1} : (setKeep a1 s).units = s.units := rfl
@[simp] theorem setKeep_cur {a1} : (setKeep a1 s).cur = s.cur := rfl
@[simp] theorem setKeep_cls {a1} : (setKeep a1 s).cls = s.cls := rfl
@[simp] theorem setKeep_sched {a1} : (setKeep a1 s).sched = s.sched := rfl
@[simp] theorem setKeep_part {a1} : (setKeep a1 s).part = s.part := rfl
@[simp] theorem setKeep_accts {a1} : (setKeep a1 s).accts = s.accts := rfl
@[simp] theorem setKeep_acctWin {a1} : (setKeep a1 s).acctWin = s.acctWin := rfl
@[simp] theorem setKeep_mem {a1} : (setKeep a1 s).mem = s.mem := rfl
@[simp] theorem setKeep_press {a1} : (setKeep a1 s).press = s.press := rfl
@[simp] theorem setKeep_ing {a1} : (setKeep a1 s).ing = s.ing := rfl
@[simp] theorem setKeep_port {a1} : (setKeep a1 s).port = s.port := rfl
@[simp] theorem setKeep_gov {a1} : (setKeep a1 s).gov = s.gov := rfl
@[simp] theorem setKeep_overruns {a1} : (setKeep a1 s).overruns = s.overruns := rfl

@[simp] theorem setSession_pending {a1} : (setSession a1 s).pending = s.pending := rfl
@[simp] theorem setSession_now {a1} : (setSession a1 s).now = s.now := rfl
@[simp] theorem setSession_arb {a1} : (setSession a1 s).arb = s.arb := rfl
@[simp] theorem setSession_free {a1} : (setSession a1 s).free = s.free := rfl
@[simp] theorem setSession_ident {a1} : (setSession a1 s).ident = s.ident := rfl
@[simp] theorem setSession_fuses {a1} : (setSession a1 s).fuses = s.fuses := rfl
@[simp] theorem setSession_chip {a1} : (setSession a1 s).chip = s.chip := rfl
@[simp] theorem setSession_dev {a1} : (setSession a1 s).dev = s.dev := rfl
@[simp] theorem setSession_upd {a1} : (setSession a1 s).upd = s.upd := rfl
@[simp] theorem setSession_ufs {a1} : (setSession a1 s).ufs = s.ufs := rfl
@[simp] theorem setSession_ufsCap {a1} : (setSession a1 s).ufsCap = s.ufsCap := rfl
@[simp] theorem setSession_forme {a1} : (setSession a1 s).forme = s.forme := rfl
@[simp] theorem setSession_tb {a1} : (setSession a1 s).tb = s.tb := rfl
@[simp] theorem setSession_cue {a1} : (setSession a1 s).cue = s.cue := rfl
@[simp] theorem setSession_log {a1} : (setSession a1 s).log = s.log := rfl
@[simp] theorem setSession_units {a1} : (setSession a1 s).units = s.units := rfl
@[simp] theorem setSession_cur {a1} : (setSession a1 s).cur = s.cur := rfl
@[simp] theorem setSession_cls {a1} : (setSession a1 s).cls = s.cls := rfl
@[simp] theorem setSession_sched {a1} : (setSession a1 s).sched = s.sched := rfl
@[simp] theorem setSession_part {a1} : (setSession a1 s).part = s.part := rfl
@[simp] theorem setSession_accts {a1} : (setSession a1 s).accts = s.accts := rfl
@[simp] theorem setSession_acctWin {a1} : (setSession a1 s).acctWin = s.acctWin := rfl
@[simp] theorem setSession_mem {a1} : (setSession a1 s).mem = s.mem := rfl
@[simp] theorem setSession_press {a1} : (setSession a1 s).press = s.press := rfl
@[simp] theorem setSession_ing {a1} : (setSession a1 s).ing = s.ing := rfl
@[simp] theorem setSession_port {a1} : (setSession a1 s).port = s.port := rfl
@[simp] theorem setSession_gov {a1} : (setSession a1 s).gov = s.gov := rfl
@[simp] theorem setSession_overruns {a1} : (setSession a1 s).overruns = s.overruns := rfl

@[simp] theorem State.modStream_pending {a1 a2} : (State.modStream a1 a2 s).pending = s.pending := rfl
@[simp] theorem State.modStream_now {a1 a2} : (State.modStream a1 a2 s).now = s.now := rfl
@[simp] theorem State.modStream_arb {a1 a2} : (State.modStream a1 a2 s).arb = s.arb := rfl
@[simp] theorem State.modStream_free {a1 a2} : (State.modStream a1 a2 s).free = s.free := rfl
@[simp] theorem State.modStream_ident {a1 a2} : (State.modStream a1 a2 s).ident = s.ident := rfl
@[simp] theorem State.modStream_fuses {a1 a2} : (State.modStream a1 a2 s).fuses = s.fuses := rfl
@[simp] theorem State.modStream_chip {a1 a2} : (State.modStream a1 a2 s).chip = s.chip := rfl
@[simp] theorem State.modStream_dev {a1 a2} : (State.modStream a1 a2 s).dev = s.dev := rfl
@[simp] theorem State.modStream_upd {a1 a2} : (State.modStream a1 a2 s).upd = s.upd := rfl
@[simp] theorem State.modStream_ufs {a1 a2} : (State.modStream a1 a2 s).ufs = s.ufs := rfl
@[simp] theorem State.modStream_ufsCap {a1 a2} : (State.modStream a1 a2 s).ufsCap = s.ufsCap := rfl
@[simp] theorem State.modStream_forme {a1 a2} : (State.modStream a1 a2 s).forme = s.forme := rfl
@[simp] theorem State.modStream_tb {a1 a2} : (State.modStream a1 a2 s).tb = s.tb := rfl
@[simp] theorem State.modStream_cue {a1 a2} : (State.modStream a1 a2 s).cue = s.cue := rfl
@[simp] theorem State.modStream_log {a1 a2} : (State.modStream a1 a2 s).log = s.log := rfl
@[simp] theorem State.modStream_units {a1 a2} : (State.modStream a1 a2 s).units = s.units := rfl
@[simp] theorem State.modStream_cur {a1 a2} : (State.modStream a1 a2 s).cur = s.cur := rfl
@[simp] theorem State.modStream_cls {a1 a2} : (State.modStream a1 a2 s).cls = s.cls := rfl
@[simp] theorem State.modStream_sched {a1 a2} : (State.modStream a1 a2 s).sched = s.sched := rfl
@[simp] theorem State.modStream_cog {a1 a2} : (State.modStream a1 a2 s).cog = s.cog := rfl
@[simp] theorem State.modStream_part {a1 a2} : (State.modStream a1 a2 s).part = s.part := rfl
@[simp] theorem State.modStream_accts {a1 a2} : (State.modStream a1 a2 s).accts = s.accts := rfl
@[simp] theorem State.modStream_acctWin {a1 a2} : (State.modStream a1 a2 s).acctWin = s.acctWin := rfl
@[simp] theorem State.modStream_mem {a1 a2} : (State.modStream a1 a2 s).mem = s.mem := rfl
@[simp] theorem State.modStream_press {a1 a2} : (State.modStream a1 a2 s).press = s.press := rfl
@[simp] theorem State.modStream_port {a1 a2} : (State.modStream a1 a2 s).port = s.port := rfl
@[simp] theorem State.modStream_gov {a1 a2} : (State.modStream a1 a2 s).gov = s.gov := rfl
@[simp] theorem State.modStream_overruns {a1 a2} : (State.modStream a1 a2 s).overruns = s.overruns := rfl

@[simp] theorem modPort_pending {a1} : (modPort a1 s).pending = s.pending := rfl
@[simp] theorem modPort_now {a1} : (modPort a1 s).now = s.now := rfl
@[simp] theorem modPort_arb {a1} : (modPort a1 s).arb = s.arb := rfl
@[simp] theorem modPort_free {a1} : (modPort a1 s).free = s.free := rfl
@[simp] theorem modPort_ident {a1} : (modPort a1 s).ident = s.ident := rfl
@[simp] theorem modPort_fuses {a1} : (modPort a1 s).fuses = s.fuses := rfl
@[simp] theorem modPort_chip {a1} : (modPort a1 s).chip = s.chip := rfl
@[simp] theorem modPort_dev {a1} : (modPort a1 s).dev = s.dev := rfl
@[simp] theorem modPort_upd {a1} : (modPort a1 s).upd = s.upd := rfl
@[simp] theorem modPort_ufs {a1} : (modPort a1 s).ufs = s.ufs := rfl
@[simp] theorem modPort_ufsCap {a1} : (modPort a1 s).ufsCap = s.ufsCap := rfl
@[simp] theorem modPort_forme {a1} : (modPort a1 s).forme = s.forme := rfl
@[simp] theorem modPort_tb {a1} : (modPort a1 s).tb = s.tb := rfl
@[simp] theorem modPort_cue {a1} : (modPort a1 s).cue = s.cue := rfl
@[simp] theorem modPort_log {a1} : (modPort a1 s).log = s.log := rfl
@[simp] theorem modPort_units {a1} : (modPort a1 s).units = s.units := rfl
@[simp] theorem modPort_cur {a1} : (modPort a1 s).cur = s.cur := rfl
@[simp] theorem modPort_cls {a1} : (modPort a1 s).cls = s.cls := rfl
@[simp] theorem modPort_sched {a1} : (modPort a1 s).sched = s.sched := rfl
@[simp] theorem modPort_cog {a1} : (modPort a1 s).cog = s.cog := rfl
@[simp] theorem modPort_part {a1} : (modPort a1 s).part = s.part := rfl
@[simp] theorem modPort_accts {a1} : (modPort a1 s).accts = s.accts := rfl
@[simp] theorem modPort_acctWin {a1} : (modPort a1 s).acctWin = s.acctWin := rfl
@[simp] theorem modPort_mem {a1} : (modPort a1 s).mem = s.mem := rfl
@[simp] theorem modPort_press {a1} : (modPort a1 s).press = s.press := rfl
@[simp] theorem modPort_ing {a1} : (modPort a1 s).ing = s.ing := rfl
@[simp] theorem modPort_port {a1} : (modPort a1 s).port = a1 s.port := rfl
@[simp] theorem modPort_gov {a1} : (modPort a1 s).gov = s.gov := rfl
@[simp] theorem modPort_overruns {a1} : (modPort a1 s).overruns = s.overruns := rfl

@[simp] theorem modCard_pending {a1} : (modCard a1 s).pending = s.pending := rfl
@[simp] theorem modCard_now {a1} : (modCard a1 s).now = s.now := rfl
@[simp] theorem modCard_arb {a1} : (modCard a1 s).arb = s.arb := rfl
@[simp] theorem modCard_free {a1} : (modCard a1 s).free = s.free := rfl
@[simp] theorem modCard_ident {a1} : (modCard a1 s).ident = s.ident := rfl
@[simp] theorem modCard_fuses {a1} : (modCard a1 s).fuses = s.fuses := rfl
@[simp] theorem modCard_chip {a1} : (modCard a1 s).chip = s.chip := rfl
@[simp] theorem modCard_dev {a1} : (modCard a1 s).dev = s.dev := rfl
@[simp] theorem modCard_upd {a1} : (modCard a1 s).upd = s.upd := rfl
@[simp] theorem modCard_ufs {a1} : (modCard a1 s).ufs = s.ufs := rfl
@[simp] theorem modCard_ufsCap {a1} : (modCard a1 s).ufsCap = s.ufsCap := rfl
@[simp] theorem modCard_forme {a1} : (modCard a1 s).forme = s.forme := rfl
@[simp] theorem modCard_tb {a1} : (modCard a1 s).tb = s.tb := rfl
@[simp] theorem modCard_cue {a1} : (modCard a1 s).cue = s.cue := rfl
@[simp] theorem modCard_log {a1} : (modCard a1 s).log = s.log := rfl
@[simp] theorem modCard_units {a1} : (modCard a1 s).units = s.units := rfl
@[simp] theorem modCard_cur {a1} : (modCard a1 s).cur = s.cur := rfl
@[simp] theorem modCard_cls {a1} : (modCard a1 s).cls = s.cls := rfl
@[simp] theorem modCard_sched {a1} : (modCard a1 s).sched = s.sched := rfl
@[simp] theorem modCard_cog {a1} : (modCard a1 s).cog = s.cog := rfl
@[simp] theorem modCard_part {a1} : (modCard a1 s).part = s.part := rfl
@[simp] theorem modCard_accts {a1} : (modCard a1 s).accts = s.accts := rfl
@[simp] theorem modCard_acctWin {a1} : (modCard a1 s).acctWin = s.acctWin := rfl
@[simp] theorem modCard_mem {a1} : (modCard a1 s).mem = s.mem := rfl
@[simp] theorem modCard_press {a1} : (modCard a1 s).press = s.press := rfl
@[simp] theorem modCard_ing {a1} : (modCard a1 s).ing = s.ing := rfl
@[simp] theorem modCard_port {a1} : (modCard a1 s).port = { s.port with card := a1 s.port.card } := rfl
@[simp] theorem modCard_gov {a1} : (modCard a1 s).gov = s.gov := rfl
@[simp] theorem modCard_overruns {a1} : (modCard a1 s).overruns = s.overruns := rfl

@[simp] theorem respond_pending {a1 a2} : (respond a1 a2 s).pending = s.pending := rfl
@[simp] theorem respond_now {a1 a2} : (respond a1 a2 s).now = s.now := rfl
@[simp] theorem respond_arb {a1 a2} : (respond a1 a2 s).arb = s.arb := rfl
@[simp] theorem respond_free {a1 a2} : (respond a1 a2 s).free = s.free := rfl
@[simp] theorem respond_ident {a1 a2} : (respond a1 a2 s).ident = s.ident := rfl
@[simp] theorem respond_fuses {a1 a2} : (respond a1 a2 s).fuses = s.fuses := rfl
@[simp] theorem respond_chip {a1 a2} : (respond a1 a2 s).chip = s.chip := rfl
@[simp] theorem respond_dev {a1 a2} : (respond a1 a2 s).dev = s.dev := rfl
@[simp] theorem respond_upd {a1 a2} : (respond a1 a2 s).upd = s.upd := rfl
@[simp] theorem respond_ufs {a1 a2} : (respond a1 a2 s).ufs = s.ufs := rfl
@[simp] theorem respond_ufsCap {a1 a2} : (respond a1 a2 s).ufsCap = s.ufsCap := rfl
@[simp] theorem respond_forme {a1 a2} : (respond a1 a2 s).forme = s.forme := rfl
@[simp] theorem respond_tb {a1 a2} : (respond a1 a2 s).tb = s.tb := rfl
@[simp] theorem respond_cue {a1 a2} : (respond a1 a2 s).cue = s.cue := rfl
@[simp] theorem respond_log {a1 a2} : (respond a1 a2 s).log = s.log := rfl
@[simp] theorem respond_units {a1 a2} : (respond a1 a2 s).units = s.units := rfl
@[simp] theorem respond_cur {a1 a2} : (respond a1 a2 s).cur = s.cur := rfl
@[simp] theorem respond_cls {a1 a2} : (respond a1 a2 s).cls = s.cls := rfl
@[simp] theorem respond_sched {a1 a2} : (respond a1 a2 s).sched = s.sched := rfl
@[simp] theorem respond_cog {a1 a2} : (respond a1 a2 s).cog = s.cog := rfl
@[simp] theorem respond_part {a1 a2} : (respond a1 a2 s).part = s.part := rfl
@[simp] theorem respond_accts {a1 a2} : (respond a1 a2 s).accts = s.accts := rfl
@[simp] theorem respond_acctWin {a1 a2} : (respond a1 a2 s).acctWin = s.acctWin := rfl
@[simp] theorem respond_mem {a1 a2} : (respond a1 a2 s).mem = s.mem := rfl
@[simp] theorem respond_press {a1 a2} : (respond a1 a2 s).press = s.press := rfl
@[simp] theorem respond_ing {a1 a2} : (respond a1 a2 s).ing = s.ing := rfl
@[simp] theorem respond_gov {a1 a2} : (respond a1 a2 s).gov = s.gov := rfl
@[simp] theorem respond_overruns {a1 a2} : (respond a1 a2 s).overruns = s.overruns := rfl

@[simp] theorem setHold_pending {a1} : (setHold a1 s).pending = s.pending := rfl
@[simp] theorem setHold_now {a1} : (setHold a1 s).now = s.now := rfl
@[simp] theorem setHold_arb {a1} : (setHold a1 s).arb = s.arb := rfl
@[simp] theorem setHold_free {a1} : (setHold a1 s).free = s.free := rfl
@[simp] theorem setHold_ident {a1} : (setHold a1 s).ident = s.ident := rfl
@[simp] theorem setHold_fuses {a1} : (setHold a1 s).fuses = s.fuses := rfl
@[simp] theorem setHold_chip {a1} : (setHold a1 s).chip = s.chip := rfl
@[simp] theorem setHold_dev {a1} : (setHold a1 s).dev = s.dev := rfl
@[simp] theorem setHold_upd {a1} : (setHold a1 s).upd = s.upd := rfl
@[simp] theorem setHold_ufs {a1} : (setHold a1 s).ufs = s.ufs := rfl
@[simp] theorem setHold_ufsCap {a1} : (setHold a1 s).ufsCap = s.ufsCap := rfl
@[simp] theorem setHold_forme {a1} : (setHold a1 s).forme = s.forme := rfl
@[simp] theorem setHold_tb {a1} : (setHold a1 s).tb = s.tb := rfl
@[simp] theorem setHold_cue {a1} : (setHold a1 s).cue = s.cue := rfl
@[simp] theorem setHold_log {a1} : (setHold a1 s).log = s.log := rfl
@[simp] theorem setHold_units {a1} : (setHold a1 s).units = s.units := rfl
@[simp] theorem setHold_cur {a1} : (setHold a1 s).cur = s.cur := rfl
@[simp] theorem setHold_cls {a1} : (setHold a1 s).cls = s.cls := rfl
@[simp] theorem setHold_sched {a1} : (setHold a1 s).sched = s.sched := rfl
@[simp] theorem setHold_cog {a1} : (setHold a1 s).cog = s.cog := rfl
@[simp] theorem setHold_part {a1} : (setHold a1 s).part = s.part := rfl
@[simp] theorem setHold_accts {a1} : (setHold a1 s).accts = s.accts := rfl
@[simp] theorem setHold_acctWin {a1} : (setHold a1 s).acctWin = s.acctWin := rfl
@[simp] theorem setHold_mem {a1} : (setHold a1 s).mem = s.mem := rfl
@[simp] theorem setHold_press {a1} : (setHold a1 s).press = s.press := rfl
@[simp] theorem setHold_ing {a1} : (setHold a1 s).ing = s.ing := rfl
@[simp] theorem setHold_port {a1} : (setHold a1 s).port = { s.port with hold := a1 } := rfl
@[simp] theorem setHold_gov {a1} : (setHold a1 s).gov = s.gov := rfl
@[simp] theorem setHold_overruns {a1} : (setHold a1 s).overruns = s.overruns := rfl

@[simp] theorem State.putAcct_pending {a1} : (State.putAcct a1 s).pending = s.pending := rfl
@[simp] theorem State.putAcct_now {a1} : (State.putAcct a1 s).now = s.now := rfl
@[simp] theorem State.putAcct_arb {a1} : (State.putAcct a1 s).arb = s.arb := rfl
@[simp] theorem State.putAcct_free {a1} : (State.putAcct a1 s).free = s.free := rfl
@[simp] theorem State.putAcct_ident {a1} : (State.putAcct a1 s).ident = s.ident := rfl
@[simp] theorem State.putAcct_fuses {a1} : (State.putAcct a1 s).fuses = s.fuses := rfl
@[simp] theorem State.putAcct_chip {a1} : (State.putAcct a1 s).chip = s.chip := rfl
@[simp] theorem State.putAcct_dev {a1} : (State.putAcct a1 s).dev = s.dev := rfl
@[simp] theorem State.putAcct_upd {a1} : (State.putAcct a1 s).upd = s.upd := rfl
@[simp] theorem State.putAcct_ufs {a1} : (State.putAcct a1 s).ufs = s.ufs := rfl
@[simp] theorem State.putAcct_ufsCap {a1} : (State.putAcct a1 s).ufsCap = s.ufsCap := rfl
@[simp] theorem State.putAcct_forme {a1} : (State.putAcct a1 s).forme = s.forme := rfl
@[simp] theorem State.putAcct_tb {a1} : (State.putAcct a1 s).tb = s.tb := rfl
@[simp] theorem State.putAcct_cue {a1} : (State.putAcct a1 s).cue = s.cue := rfl
@[simp] theorem State.putAcct_log {a1} : (State.putAcct a1 s).log = s.log := rfl
@[simp] theorem State.putAcct_units {a1} : (State.putAcct a1 s).units = s.units := rfl
@[simp] theorem State.putAcct_cur {a1} : (State.putAcct a1 s).cur = s.cur := rfl
@[simp] theorem State.putAcct_cls {a1} : (State.putAcct a1 s).cls = s.cls := rfl
@[simp] theorem State.putAcct_sched {a1} : (State.putAcct a1 s).sched = s.sched := rfl
@[simp] theorem State.putAcct_cog {a1} : (State.putAcct a1 s).cog = s.cog := rfl
@[simp] theorem State.putAcct_part {a1} : (State.putAcct a1 s).part = s.part := rfl
@[simp] theorem State.putAcct_acctWin {a1} : (State.putAcct a1 s).acctWin = s.acctWin := rfl
@[simp] theorem State.putAcct_mem {a1} : (State.putAcct a1 s).mem = s.mem := rfl
@[simp] theorem State.putAcct_press {a1} : (State.putAcct a1 s).press = s.press := rfl
@[simp] theorem State.putAcct_ing {a1} : (State.putAcct a1 s).ing = s.ing := rfl
@[simp] theorem State.putAcct_port {a1} : (State.putAcct a1 s).port = s.port := rfl
@[simp] theorem State.putAcct_gov {a1} : (State.putAcct a1 s).gov = s.gov := rfl
@[simp] theorem State.putAcct_overruns {a1} : (State.putAcct a1 s).overruns = s.overruns := rfl

@[simp] theorem failPair_pending : (failPair s).pending = s.pending := rfl
@[simp] theorem failPair_now : (failPair s).now = s.now := rfl
@[simp] theorem failPair_arb : (failPair s).arb = s.arb := rfl
@[simp] theorem failPair_free : (failPair s).free = s.free := rfl
@[simp] theorem failPair_ident : (failPair s).ident = s.ident := rfl
@[simp] theorem failPair_fuses : (failPair s).fuses = s.fuses := rfl
@[simp] theorem failPair_chip : (failPair s).chip = s.chip := rfl
@[simp] theorem failPair_dev : (failPair s).dev = s.dev := rfl
@[simp] theorem failPair_upd : (failPair s).upd = s.upd := rfl
@[simp] theorem failPair_ufs : (failPair s).ufs = s.ufs := rfl
@[simp] theorem failPair_ufsCap : (failPair s).ufsCap = s.ufsCap := rfl
@[simp] theorem failPair_forme : (failPair s).forme = s.forme := rfl
@[simp] theorem failPair_tb : (failPair s).tb = s.tb := rfl
@[simp] theorem failPair_cue : (failPair s).cue = s.cue := rfl
@[simp] theorem failPair_log : (failPair s).log = s.log := rfl
@[simp] theorem failPair_units : (failPair s).units = s.units := rfl
@[simp] theorem failPair_cls : (failPair s).cls = s.cls := rfl
@[simp] theorem failPair_sched : (failPair s).sched = s.sched := rfl
@[simp] theorem failPair_cog : (failPair s).cog = s.cog := rfl
@[simp] theorem failPair_part : (failPair s).part = s.part := rfl
@[simp] theorem failPair_accts : (failPair s).accts = s.accts := rfl
@[simp] theorem failPair_acctWin : (failPair s).acctWin = s.acctWin := rfl
@[simp] theorem failPair_mem : (failPair s).mem = s.mem := rfl
@[simp] theorem failPair_press : (failPair s).press = s.press := rfl
@[simp] theorem failPair_ing : (failPair s).ing = s.ing := rfl
@[simp] theorem failPair_port : (failPair s).port = s.port := rfl
@[simp] theorem failPair_gov : (failPair s).gov = s.gov := rfl
@[simp] theorem failPair_overruns : (failPair s).overruns = s.overruns := rfl

@[simp] theorem enqueue_pending {a1} : (enqueue a1 s).pending = s.pending := rfl
@[simp] theorem enqueue_now {a1} : (enqueue a1 s).now = s.now := rfl
@[simp] theorem enqueue_arb {a1} : (enqueue a1 s).arb = s.arb := rfl
@[simp] theorem enqueue_free {a1} : (enqueue a1 s).free = s.free := rfl
@[simp] theorem enqueue_ident {a1} : (enqueue a1 s).ident = s.ident := rfl
@[simp] theorem enqueue_fuses {a1} : (enqueue a1 s).fuses = s.fuses := rfl
@[simp] theorem enqueue_chip {a1} : (enqueue a1 s).chip = s.chip := rfl
@[simp] theorem enqueue_dev {a1} : (enqueue a1 s).dev = s.dev := rfl
@[simp] theorem enqueue_upd {a1} : (enqueue a1 s).upd = s.upd := rfl
@[simp] theorem enqueue_ufs {a1} : (enqueue a1 s).ufs = s.ufs := rfl
@[simp] theorem enqueue_ufsCap {a1} : (enqueue a1 s).ufsCap = s.ufsCap := rfl
@[simp] theorem enqueue_forme {a1} : (enqueue a1 s).forme = s.forme := rfl
@[simp] theorem enqueue_tb {a1} : (enqueue a1 s).tb = s.tb := rfl
@[simp] theorem enqueue_cue {a1} : (enqueue a1 s).cue = s.cue := rfl
@[simp] theorem enqueue_log {a1} : (enqueue a1 s).log = s.log := rfl
@[simp] theorem enqueue_units {a1} : (enqueue a1 s).units = s.units := rfl
@[simp] theorem enqueue_cur {a1} : (enqueue a1 s).cur = s.cur := rfl
@[simp] theorem enqueue_cls {a1} : (enqueue a1 s).cls = s.cls := rfl
@[simp] theorem enqueue_sched {a1} : (enqueue a1 s).sched = s.sched := rfl
@[simp] theorem enqueue_cog {a1} : (enqueue a1 s).cog = s.cog := rfl
@[simp] theorem enqueue_part {a1} : (enqueue a1 s).part = s.part := rfl
@[simp] theorem enqueue_accts {a1} : (enqueue a1 s).accts = s.accts := rfl
@[simp] theorem enqueue_acctWin {a1} : (enqueue a1 s).acctWin = s.acctWin := rfl
@[simp] theorem enqueue_mem {a1} : (enqueue a1 s).mem = s.mem := rfl
@[simp] theorem enqueue_press {a1} : (enqueue a1 s).press = s.press := rfl
@[simp] theorem enqueue_ing {a1} : (enqueue a1 s).ing = s.ing := rfl
@[simp] theorem enqueue_gov {a1} : (enqueue a1 s).gov = s.gov := rfl
@[simp] theorem enqueue_overruns {a1} : (enqueue a1 s).overruns = s.overruns := rfl

end Sys2Proof.Machine
end

