-- ==== Sys2Proof/WellFormed.lean ====
section
/-! DEFINITION. Which commands the buses, pins and units of the part can carry: operand ranges the constructors' types leave
open. -/

namespace Sys2Proof

/-- A MIPI CSI-2 virtual channel, its extension and data type lie in their header fields (R59, R60). -/
def csiHeaderOk (vc vcx dt : Nat) : Bool := decide (vc < 4) && decide (vcx < 4) && decide (dt < 64)

/-- A CMD53 in byte mode carries 1 to 512 bytes, in block mode 1 to 511 blocks; a write brings its bytes (R423). -/
def cmd53Ok (addr count : Nat) (data : List Byte) (write blockMode : Bool) (blk : Nat) : Bool :=
  decide (addr < 2 ^ 17) && decide (1 ≤ count) && decide (count ≤ 512) &&
    (!write || decide (data.length = if blockMode then count * blk else count))

/-- Operand ranges of a command. -/
def Instr.wf : Instr → Bool
  | .cmd53F1 _ addr count w =>
    decide (1 ≤ count) && decide (count ≤ 512) && decide (addr.toNat < 2 ^ 17) &&
      (match w with
       | some bs => decide (bs.length = count)
       | none => true)
  | .cmd53F0 _ _ write blockMode addr count data => cmd53Ok addr count data (write && !blockMode) blockMode 512
  | .f2BlockWrite _ _ block => decide (block.length = 512)
  | .f3BlockRead _ n => decide (1 ≤ n) && decide (n ≤ 511)
  | .csi2FrameStart _ _ vc vcx frame _ => csiHeaderOk vc vcx 0 && decide (frame < 65536)
  | .csi2FrameEnd _ _ vc vcx frame _ => csiHeaderOk vc vcx 1 && decide (frame < 65536)
  | .csi2LongPacket _ _ vc vcx dt _ _ payload =>
    csiHeaderOk vc vcx dt && decide (0x10 ≤ dt) && decide (payload.length < 65536)
  | .csi2LineOrGenericShortPacket _ _ vc vcx dt _ => csiHeaderOk vc vcx dt && decide (2 ≤ dt) && decide (dt < 0x10)
  | .ethernetFrame _ _ frame _ _ => decide (14 ≤ frame.length)
  | .fabricBlockReceive _ _ _ data _ _ _ => decide (data.length = 64)
  | .sceneAdmission _ (.scene k bufs) => decide (k.play < 32) && bufs.all fun b => decide (b.play < 2 ^ 48)
  | .thermalSample _ readings => decide (readings.length = 24)
  | .jtagDebugInstruction _ code => decide (4 ≤ code)
  | _ => true

end Sys2Proof
end

