-- ==== Sys2Proof/Tests/Slice0.lean ====
section
/-! SUPPORT. The model's own tests: a state and operands that meet the hypotheses of each obligation, ill-formed commands that
well-formedness refuses, and the manual's worked examples. -/

set_option Elab.async false

open Sys2Proof.Machine

namespace Sys2Proof.Tests

/-! ### States the tests start from -/

/-- The state a command leads to; the state itself where it leads to none. -/
def after (c : Instr) (s : State) : State :=
  match exec c s with
  | .next t => t
  | _ => s

/-- The command completes. -/
def goes (c : Instr) (s : State) : Bool :=
  match exec c s with
  | .next _ => true
  | _ => false

def noObs : BoundaryObs := { verdictBusy := false, completeBusy := false }

def tPart (kind : Nat) (mask : W16) (width : Nat) : Partition :=
  { kind := kind, width := width, mask := mask, min := if kind = 0 then 1 else 0, share := 1, cap := 0, galley := 4, cache := 0, leaf := 0
    moves := 0, stack := 8, rateNom := 10, rateHigh := 20, depth := 100, trackers := 4, threshold := 0, zeros := true }

def tCost (budget : Nat) : Cost := { budget := budget, iso := [1000], splits := [8192] }

def tSpan : Span := { first := 0, last := 0, lo := 0, hi := 0 }

def tScene : SceneRep := { span := tSpan, cost := tCost 100, width := 1, producers := [], tokens := false, bands := [], fine := [] }

def tPlan (n : Nat) : PlanRep := { count := n, ranks := [[0]], starts := [0], costs := [tCost 100], bands := [[]], makespan := 100, galleyNeed := 0 }

def tLow : PlayRep :=
  { scenes := [tScene], plans := [tPlan 1, tPlan 2, tPlan 4], leafNeed := 0, stepNeed := 0, lowerable := true }

def tTensor (kind size : Nat) : Tensor :=
  { format := fInt8, kind := kind, rank := 1, layout := 0, safety := false, dims := [size], source := 0, offset := 0, length := 0, name := 0
    zeros := true }

def tPlay (index kind part : Nat) : Play :=
  { index := index, kind := kind, part := part, perSession := false, tensors := [tTensor 0 4, tTensor 2 4], nodes := [], hints := []
    low := tLow }

def tStream (kind port dt : Nat) (required : Bool) : Stream :=
  { kind := kind, port := port, vc := 0, dt := dt, ip := 0x0100000A, udp := 2368, required := required, flags := 0, period := 10000, width := 16
    height := 2, cropX := 0, cropY := 0, cropW := 16, cropH := 2, bayer := 4, dpcm := 0, predictor := 1, colour := 0, matrix := [], inOff := []
    outOff := [], means := [], scales := [], boxX := 1, boxY := 1, outFmt := fInt8, cblock := 16, s2d := 0, budget := 100, reasm := 65536
    maxA := 16, maxB := 8, u1 := 0, u2 := 0, ampl := 0, tol := 0, maxRange := 0, testLine := 0, testOff := 0, testLen := 1, testCrc := 0
    lidar := [], trig := [], elev := [] }

/-- Slot 0: a camera on port 0; slot 1: a JPEG stream on Ethernet port 0. -/
def tForme : Forme :=
  { Forme.none with
    loaded := true, period := 20000, source := 1, tracing := true
    parts := [tPart 0 0x0003 0, tPart 1 0 0, tPart 2 0x000C 1, tPart 3 0x0010 1]
    limits := List.replicate 3 { pmax := 64, c := 16, tmax := 16, bmax := 4 }
    sheet := { cutoff := 1000, perStart := 2000, perLen := 4000, undStart := 2000, undLen := 5000, compLen := 10, publish := 9000 }
    cams := [{ lanes := 4, clock := 0, rate := 1501 }], eths := [{ on := true, mac := [], ip := 0 }]
    streams := [some (tStream 0 0 0x2A false), some (tStream 3 0 0 false)]
    rules := { Rules.none with test := true }
    plays := [tPlay 0 0 0, tPlay 1 1 1, tPlay 2 2 2, tPlay 3 3 3], proofCrc := [5, 6], rehPress := 100, rehCore := 100 }

/-- A device in a state, with the active version 1. -/
def inState (st : DevState) : State := { State.reset with dev := { Dev.atReset with st := st, proto := 1 } }

/-- Cue 5 runs from cycle 0 of a RUNNING device, at `us` µs of it. -/
def inCue (off : Nat) : State :=
  { inState .running with
    now := us off, forme := tForme
    cue := { Cue.atReset with count := 5, running := true, stateAtB := .running, stamp := 7, stampPrev := 6 } }

def tKey (play scene run : Nat) : InstKey := { play := play, scene := scene, run := run, rep := false, fine := false }

def tInst (play kind run : Nat) (st : InstState) (units : List UnitId) : Inst :=
  { key := tKey play 0 run, kind := kind, part := kind, st := st, ord := 0, budget := 100, iso := [1000], splits := [8192], units := units, partsDone := [], at_ := 0, cue := 5
    wd := 0, wasKilled := false, faultIdx := none, relower := false, bufs := [], dScene := 0, dPlay := 0, serial := 0, refused := false
    avoid := [], reads := [], frames := [], spent := [], xfers := [], coreBlocks := 0, place := [] }

def withInsts (is : List Inst) (s : State) : State := { s with sched := { s.sched with insts := is } }

/-- A press-2 run of the cognition play. -/
def cogRun : State := withInsts [tInst 2 2 1 .running [.press 2]] (inCue 10000)

def tMsg (typ : Nat) (session : W32) (payload : List Byte) : Msg :=
  { version := 1, typ := typ, seq := 9, session := session, payload := payload, blocks := 1 }

/-- A state with one received message at the head. -/
def gets (m : Msg) (s : State) : State := { s with port := { s.port with ready := [m] } }

/-- A selected card. -/
def card (s : State) : State :=
  { s with port := { s.port with card := { s.port.card with st := .selected, rca := 1, v18 := true, fbr := Vector.replicate 4 512 } } }

/-! ### Whole-machine statements -/

theorem witness_StepRunsFront :
    ({ State.reset with pending := [.lminMark 3] } : State).pending = [Instr.lminMark 3] ∧ State.reset.pending = [] := by
  decide +kernel

theorem witness_StepKeepsInvariant : ∃ s t : State, s.inv = true ∧ step s = .next t ∧ s.cur.running = true :=
  ⟨{ inCue 0 with cur := { Curtain.atReset with running := true }, pending := [.lminMark 3] }, _, by decide +kernel, rfl, rfl⟩

/-- A cue that meets every condition of R323, at its publish deadline. -/
def goodCue : State :=
  let s := inCue 9000
  { s with cue := { s.cue with compStarted := true, compDone := true }, cur := { Curtain.atReset with verdict := .good } }

theorem witness_CurtainStartsOnlyAtValidPublication :
    goes (.publishDeadline (us 9000)) goodCue = true ∧ goodCue.cur.running = false ∧
      (after (.publishDeadline (us 9000)) goodCue).cur.running = true := by
  decide +kernel

theorem witness_WithinCue :
    let s := { goodCue with cur := { goodCue.cur with latch := true }, dev := { goodCue.dev with faultN := true }
                            cue := { goodCue.cue with late := true, invalid := true } }
    beginsOrResets (.publishDeadline (us 9000)) = false ∧ goes (.publishDeadline (us 9000)) s = true ∧ s.cue.late = true ∧
      s.cue.invalid = true ∧ s.cur.latch = true ∧ s.dev.faultN = true ∧
      (after (.publishDeadline (us 9000)) s).cue.published = true ∧
      beginsOrResets (.pllLockLost 0 0) = false ∧ (inCue 0).dev.faultN = false ∧ (after (.pllLockLost 0 0) (inCue 0)).dev.faultN = true := by
  decide +kernel

theorem witness_TimeIdentityAndFusesLast :
    let k : KeySlot := { digest := [], enrolled := true, revoked := true }
    let s := { State.reset with fuses := { Fuses.blank with rollback := 63, debugLock := true, burns := [.advance 64]
                                                            slots := Vector.replicate 4 k } }
    goes (.fuseBurnComplete 3) s = true ∧ (s.fuses.slots.get 3).enrolled = true ∧ (s.fuses.slots.get 0).revoked = true ∧
      s.fuses.debugLock = true ∧ (after (.fuseBurnComplete 3) s).fuses.rollback = 64 := by
  decide +kernel

theorem witness_CommandsChangeOnlyTheirFields :
    goes (.lminMark (us 19600)) (inCue 0) = true ∧ Field.log ∉ fieldsOf (.lminMark (us 19600)) ∧
      (after (.lminMark (us 19600)) (inCue 0)).cue.mark = 6 := by
  decide +kernel

theorem witness_EventLogOnlyGrows :
    mayReset (.pllLockLost 0 6) = false ∧ goes (.pllLockLost 0 6) (inCue 0) = true ∧ (after (.pllLockLost 0 6) (inCue 0)).log.head = 2 := by
  decide +kernel

/-! ### Power, RESET, start-up, LOADING -/

def unpowered : State := { State.reset with chip := { Chip.atReset with powered := false } }
def heldInReset : State := { State.reset with chip := { Chip.atReset with resetN := true } }

theorem witness_PowerAndResetPins :
    unpowered.chip.powered = false ∧ (inCue 5).chip.powered = true ∧ heldInReset.chip.powered = true ∧ heldInReset.chip.resetN = true ∧
      (inCue 5).chip.resetN = false := by
  decide +kernel

theorem witness_ResetEndsInLoadingOrBlank :
    State.reset.chip.powered = true ∧ State.reset.chip.resetN = false ∧ State.reset.dev.st = .reset := by
  decide +kernel

/-- LOADING in a phase, the first section of its order to be read next. -/
def loads (ph : LoadPhase) : State :=
  let x : Section := { kind := 4, index := 0, offset := 0x200000, length := 0x80001, digest := [] }
  let s := inState .loading
  { s with dev := { s.dev with load := { phase := ph, sections := [x], next := 0, pos := 0, bad6 := none } } }

theorem witness_LoadingReadsAndTimeouts :
    (loads .directory).dev.st = .loading ∧ (loads .directory).dev.load.phase = .directory ∧
      (loads .firmware).dev.load.phase = .firmware ∧
      (loads .sections).dev.load.phase = .sections ∧
      (loadOrder (loads .sections).dev.load.sections)[(loads .sections).dev.load.next]? = (loads .sections).dev.load.sections.head? ∧
      (loads .sections).dev.load.sections ≠ [] ∧
      (inCue 0).dev.st ≠ .loading ∧
      (loads .sections).ufsBusy = true ∧ (loads .sections).dev.ufsRetry < 3 ∧
      (let s := loads .sections
       let r := { s with dev := { s.dev with ufsRetry := 2 } }
       let f := { s with dev := { s.dev with ufsRetry := 3 } }
       r.ufsBusy = true ∧ r.dev.ufsRetry < 3 ∧ f.ufsBusy = true ∧ 3 ≤ f.dev.ufsRetry ∧ f.dev.st = .loading) ∧
      (let s := inState .maintenance
       let u := { s with upd := { s.upd with active := true }, dev := { s.dev with ufsRetry := 3 } }
       u.ufsBusy = true ∧ 3 ≤ u.dev.ufsRetry ∧ u.dev.st ≠ .loading ∧ u.upd.active = true) ∧
      State.reset.ufsBusy = false := by
  decide +kernel

theorem witness_LoadingJudged :
    (loads .judge).dev.st = .loading ∧ (loads .judge).dev.load.phase = .judge ∧ (loads .judge).dev.load.bad6 = none ∧
      (let s := loads .judge
       let b := { s with dev := { s.dev with load := { s.dev.load with bad6 := some 0 } } }
       b.dev.st = .loading ∧ b.dev.load.phase = .judge ∧ b.dev.load.bad6 = some 0) ∧
      (loads .sections).dev.load.phase ≠ .judge := by
  decide +kernel

def burning (l : List Burn) : State := { State.reset with fuses := { Fuses.blank with burns := l } }

/-- A fuse command record: magic, command and slot. -/
def fuseRec (cmd slot : Nat) : List Byte := fuseMagic ++ [BitVec.ofNat 8 cmd, BitVec.ofNat 8 slot] ++ List.replicate 214 0

theorem witness_FusesBurn_burns :
    (burning [.lock]).fuses.burns = .lock :: [] ∧ (burning [.advance 64]).fuses.burns = .advance 64 :: [] ∧
      (burning [.revoke 3]).fuses.burns = .revoke 3 :: [] ∧ (burning [.enroll 0 []]).fuses.burns = .enroll 0 [] :: [] ∧
      (burning []).fuses.burns = [] := by
  decide +kernel

theorem witness_FusesBurn_turnedAway :
    let m := tMsg 0x0025 0 (fuseRec 4 0)
    let s := gets m (inState .maintenance)
    (inState .maintenance).head? (fun x => x = 0x0025) = none ∧ s.head? (fun x => x = 0x0025) = some m ∧ s.versionOk m = true ∧
      s.dev.st = .maintenance ∧ fuseFields m.payload = true ∧
      (let v := { m with version := 2 }
       (gets v s).head? (fun x => x = 0x0025) = some v ∧ (gets v s).versionOk v = false) ∧
      ((gets m (inState .blank)).head? (fun x => x = 0x0025) = some m ∧ (gets m (inState .blank)).versionOk m = true ∧
        (gets m (inState .blank)).dev.st ≠ .maintenance) ∧
      (let b := tMsg 0x0025 0 (fuseRec 5 0)
       (gets b s).head? (fun x => x = 0x0025) = some b ∧ fuseFields b.payload = false) := by
  decide +kernel

theorem witness_TestPort :
    let s := inState .blank
    let l := { s with fuses := { s.fuses with debugLock := true } }
    (inCue 0).chip.powered = true ∧ ((inCue 0).dev.st ≠ .blank ∧ (inCue 0).dev.st ≠ .maintenance) ∧
      ¬((inCue 0).dev.st = .reset ∨ (inCue 0).dev.st = .blank ∨ (inCue 0).dev.st = .maintenance) ∧
      s.chip.powered = true ∧ s.dev.st = .blank ∧ s.fuses.debugLock = false ∧ l.chip.powered = true ∧ l.fuses.debugLock = true ∧
      State.reset.dev.st = .reset ∧ (inState .maintenance).dev.st = .maintenance ∧ unpowered.chip.powered = false := by
  decide +kernel

theorem witness_ClockAndSupplyFaults :
    (inCue 0).dev.st ≠ .reset ∧ (inCue 0).dev.faultN = false ∧ (inState .blank).dev.st ≠ .reset ∧ (inState .blank).dev.st = .blank ∧
      State.reset.dev.st = .reset := by
  decide +kernel

/-! ### The cue -/

def pUs : Nat := 400 * 20000

/-- Cue 5 began at cycle 0; now is a cycle, and the external cue is lost or ignored. -/
def atCycle (n : Nat) (lost ignore : Bool) (count : W64) : State :=
  let s := inCue 0
  { s with now := n, cue := { s.cue with extLost := lost, ignore := ignore, count := count } }

theorem witness_CueInEdges :
    let p := tForme.period
    let edge := fun (n : Nat) (lost ignore : Bool) (count : W64) => (max (atCycle 0 lost ignore count).now n / 4 * 4, atCycle 0 lost ignore count)
    (inCue 0).generating = true ∧ (inCue 0).forme.source = 1 ∧ us 1 ≤ 400 ∧ (edge 0 false false 0).2.cue.count = 0 ∧
      (edge (392 * p) false false 5).2.cue.count ≠ 0 ∧ 392 * p ≤ (edge (392 * p) false false 5).1 ∧
      (edge (408 * p) false false 5).1 ≤ 408 * p ∧ 392 * p ≤ (edge (408 * p) false false 5).1 ∧
      (edge (400 * p - 4) true false 5).1 < 400 * p ∧ 392 * p ≤ (edge (400 * p - 4) true false 5).1 ∧
      (edge (392 * p - 4) false false 5).1 < 392 * p ∧ 408 * p < (edge (408 * p + 4) false false 5).1 ∧
      (edge 0 false true 5).2.cue.ignore = true ∧ (edge (400 * p) true false 5).2.cue.extLost = true ∧
      400 * p ≤ (edge (400 * p) true false 5).1 ∧
      State.reset.generating = false ∧ 399 < us 1 := by
  decide +kernel

/-- The same state under another cue source. -/
def sourced (k : Nat) (s : State) : State := { s with forme := { s.forme with source := k } }

theorem witness_BoundariesWithoutEdges :
    let p := tForme.period
    (atCycle 0 false false 0).generating = true ∧ (atCycle 0 false false 0).forme.source = 1 ∧ (atCycle 0 false false 0).cue.ignore = false ∧
      (atCycle 0 false false 0).cue.count = 0 ∧ (atCycle 0 false false 0).cue.standbyAt + 800 * p ≤ max (atCycle 0 false false 0).now (800 * p) ∧
      (atCycle (400 * p) true false 5).cue.extLost = true ∧ (atCycle (400 * p) true false 5).cue.b + 400 * p ≤ max (400 * p) 0 ∧
      (atCycle (408 * p) false false 5).cue.extLost = false ∧ (atCycle (408 * p) false false 5).cue.b + 408 * p ≤ max (408 * p) 0 ∧
      (atCycle (400 * p) false true 5).cue.ignore = true ∧ (atCycle (400 * p) false true 5).cue.b + 400 * p ≤ max (400 * p) 0 ∧
      (sourced 2 (atCycle 0 false false 0)).generating = true ∧ (sourced 2 (atCycle 0 false false 0)).forme.source = 2 ∧
      (sourced 2 (atCycle 0 false false 0)).cue.standbyAt ≤ max 0 0 ∧
      (sourced 2 (atCycle (400 * p) false false 5)).cue.b + 400 * p ≤ max (400 * p) 0 ∧
      (sourced 3 (atCycle (400 * p) false false 5)).generating = true ∧
      alignedNext (sourced 3 (atCycle (400 * p) false false 5)) ≤ max (400 * p) 0 ∧
      (sourced 3 (atCycle 0 false false 0)).cue.count = 0 ∧
      alignedFirst (sourced 3 (atCycle (400 * p) false false 0)) ≤ max (400 * p) 0 := by
  decide +kernel

/-- The forme with its camera stream required. -/
def needy (s : State) : State :=
  { s with forme := { s.forme with streams := [some (tStream 0 0 0x2A true), some (tStream 3 0 0 false)] } }

theorem witness_IngestCutoffs :
    (inCue 1000).cue.running = true ∧ us (inCue 1000).forme.sheet.cutoff ≤ ((inCue 1000).at 0).off ∧ (inCue 1000).cue.mark.toNat < 2 ∧
      (inCue 1000).judged = true ∧ (after (.ingestCutoff 0) (inCue 1000)).missing = [] ∧
      (needy (inCue 1000)).judged = true ∧ (after (.ingestCutoff 0) (needy (inCue 1000))).missing = [0] ∧
      (let s := inCue 1000
       let w := { s with cue := { s.cue with stateAtB := .standby } }
       w.cue.running = true ∧ w.judged = false) := by
  decide +kernel

theorem witness_MarksAndWindowStarts :
    let s := inCue 7000
    s.cue.running = true ∧ s.cue.stateAtB = .running ∧ s.cue.late = false ∧ s.slotsFailed = false ∧ s.cue.compStarted = false ∧
      us s.forme.sheet.compStart ≤ (s.at 0).off ∧ (inState .blank).cue.running = false ∧
      us (inCue 19600).lminUs ≤ ((inCue 19600).at 0).off ∧
      us (inCue 2000).forme.sheet.perStart ≤ ((inCue 2000).at 0).off ∧ us (inCue 2000).forme.sheet.undStart ≤ ((inCue 2000).at 0).off ∧
      (let x := tInst 2 2 1 .running [.press 1]
       let t := withInsts [x] (inCue 2000)
       x ∈ t.sched.insts ∧ x.st = .running ∧ t.inst? x.key = some x ∧
         (x.displaced 0 && x.presses.any fun p => t.isSafetyPress p) = true) ∧
      (let x := tInst 0 0 5 .running [.core 3]
       let t := withInsts [x] (inCue 2000)
       t.inst? x.key = some x ∧ (x.displaced 1 && allCores.any fun k => x.on (.core k)) = true) ∧
      (let x := tInst 2 2 1 .running [.press 15]
       let t := withInsts [x] (inCue 19500)
       t.inst? x.key = some x ∧ us (t.lminUs - t.forme.rehPress) ≤ (t.at 0).off ∧ x.presses ≠ []) := by
  decide +kernel

theorem witness_WindowEndsJudgeLateness :
    let s := withInsts [tInst 0 0 5 .ready []] (inCue 7000)
    s.cue.running = true ∧ (decide (WindowEnds.both ≠ .understudy) && !s.cue.perEnded && decide (us s.forme.sheet.perEnd ≤ (s.at 0).off)) = true ∧
      (decide (WindowEnds.both ≠ .perception) && !s.cue.undEnded && decide (us s.forme.sheet.undEnd ≤ (s.at 0).off)) = true ∧
      s.uncommitted 0 = true ∧ s.uncommitted 1 = false ∧ s.cue.late = false ∧ s.slotsFailed = false ∧
      us (inCue 6000).forme.sheet.perEnd ≤ ((inCue 6000).at 0).off ∧ (inCue 6000).uncommitted 0 = false := by
  decide +kernel

def tRule : Rule := { op := 6, zone := 0xFF, main := 0, under := 0xFF, f := 1, n := 0, a := 0, b := 0 }

def tValue (b : Byte) (rep : Bool) : Value :=
  { play := 0, tensor := 1, run := 5, serial := 1, cue := 5, valid := true, rep := rep, whole := true, bufs := [], bytes := [b] }

/-- A comparison under way whose one rule judges a byte of the perception play's output, or of its repeat's. -/
def judging (b : Byte) (rep : Bool) (s : State) : State :=
  { s with
    forme := { s.forme with rules := { s.forme.rules with rules := [tRule], operands := [{ chan := 0, play := 0, tensor := 1 }] } }
    cue := { s.cue with compStarted := true }, sched := { s.sched with values := [tValue b rep] } }

theorem witness_VerdictsOfComparator_first :
    (let s := judging 0 false (inCue 7000)
     s.cue.compStarted = true ∧ s.cue.compDone = false ∧ s.cue.late = false ∧ firstFailing s s.cue.count.toNat false = none ∧
       s.cue.published = false) ∧
      (let s := judging 1 false (inCue 7000)
       let r := { s with cur := { s.cur with running := true } }
       s.cue.compStarted = true ∧ s.cue.compDone = false ∧ s.cue.late = false ∧ firstFailing s s.cue.count.toNat false = some 0 ∧
         s.cur.running = false ∧ r.cur.running = true ∧ firstFailing r r.cue.count.toNat false = some 0) := by
  decide +kernel

def tClassif : Classif :=
  { cue := 5, rule := 0, skipped := false, proofStep := false, armed := false, rule2 := 0, units := [.press 0], pending := [], anyFail := false
    perPlan := none, undPlan := none }

def tRepeat (st : InstState) : Inst := { tInst 0 0 5 st [.press 0] with key := { tKey 0 0 5 with rep := true } }

/-- Cue 6 with the classification of cue 5's mismatch and its repeat. -/
def classifying (b : Byte) (st : InstState) : State :=
  let s := withInsts [tRepeat st] (judging b true (inCue 7000))
  { s with cls := [tClassif], cue := { s.cue with count := 6 } }

theorem witness_VerdictsOfComparator_repeat :
    (classifying 0 .committed).cls.find? (fun c => !c.proofStep) = some tClassif ∧
      ((classifying 0 .committed).sched.insts.filter fun i => i.key.rep && decide (i.key.run = tClassif.cue)) = [tRepeat .committed] ∧
      (tRepeat .committed).st = .committed ∧ firstFailing ((classifying 0 .committed).at 0) tClassif.cue true = none ∧
      firstFailing ((classifying 1 .committed).at 0) tClassif.cue true = some 0 ∧
      (classifying 1 .committed).cls.find? (fun c => !c.proofStep) = some tClassif ∧
      ((classifying 1 .committed).sched.insts.filter fun i => i.key.rep && decide (i.key.run = tClassif.cue)) = [tRepeat .committed] ∧
      (classifying 0 .ready).cls.find? (fun c => !c.proofStep) = some tClassif ∧
      ((classifying 0 .ready).sched.insts.filter fun i => i.key.rep && decide (i.key.run = tClassif.cue)) = [tRepeat .ready] ∧
      (tRepeat .ready).st ≠ .committed := by
  decide +kernel

theorem witness_PublishDeadlines :
    let r := { goodCue with cur := { goodCue.cur with running := true } }
    let l := { goodCue with cue := { goodCue.cue with compDone := false, late := false } }
    goodCue.judged = true ∧ goodCue.cue.published = false ∧ us goodCue.forme.sheet.publish ≤ (goodCue.at 0).off ∧
      (goodCue.at 0).cueValid = true ∧ goodCue.cue.compDone = true ∧ goodCue.cur.running = false ∧ goodCue.cur.oscOut = false ∧
      r.judged = true ∧ (r.at 0).cueValid = true ∧ r.cur.running = true ∧
      (inCue 9000).judged = true ∧ ((inCue 9000).at 0).cueValid = false ∧ (inCue 9000).cur.running = false ∧
      l.judged = true ∧ l.cue.compDone = false ∧ l.cue.late = false ∧ l.slotsFailed = false := by
  decide +kernel

/-! ### Units, rehearsals, re-rigs, the proof pass -/

def setUnit (u : UnitId) (f : UnitRec → UnitRec) (s : State) : State := s.modUnit u f

def tTracker (id : Nat) (p : Option (Fin 16)) : Tracker :=
  { id := id, press := p, stack := none, pool := 0, part := 2, play := 2, addr := 64, dev := 64, write := false, waits := false, killed := false
    reissued := false, drop := false, at_ := 0 }

def withTrackers (l : List Tracker) (s : State) : State := { s with mem := { s.mem with trackers := l } }

theorem witness_GroupResets :
    let struck := setUnit (.press 0) (fun r => { r with mode := .struck }) (inCue 0)
    let held := withTrackers [tTracker 1 (some 0)] struck
    let gone := setUnit (.stack 1) (fun r => { r with mode := .retired }) (inCue 0)
    let wait := setUnit (.port 19) (fun r => { r with mode := .struck, attempts := 3, waitFrom := 4 })
      { inCue 0 with cue := { (inCue 0).cue with count := 1004 } }
    (struck.unit (.press 0)).mode = .struck ∧ (struck.unit (.press 0)).wasReset = false ∧ (struck.unit (.press 0)).attempts = 0 ∧
      struck.holds (.press 0) = false ∧ held.holds (.press 0) = true ∧ (held.unit (.press 0)).struckAt + us 45 ≤ max held.now (us 45) ∧
      (gone.unit (.stack 1)).mode = .retired ∧ gone.holds (.stack 1) = false ∧
      (wait.unit (.port 19)).mode = .struck ∧ (wait.unit (.port 19)).attempts ≠ 0 ∧
      (wait.unit (.port 19)).waitFrom + 1000 ≤ wait.cue.count.toNat := by
  decide +kernel

theorem witness_ReRigAttemptsAndChecks :
    let a := setUnit (.press 0) (fun r => { r with mode := .struck, wasReset := true }) (inCue 0)
    let b := setUnit (.port 0) (fun r => { r with mode := .reRigging, checks := [.third], attempts := 3 }) (inCue 0)
    let c := setUnit .umem (fun r => { r with mode := .reRigging, checks := [.rehearsal] }) (inCue 0)
    let d := setUnit (.core 3) (fun r => { r with mode := .reRigging, checks := [.proof, .rehearsal] }) (inCue 0)
    (a.unit (.press 0)).mode = .struck ∧ (a.unit (.press 0)).wasReset = true ∧ a.dev.faultN = false ∧
      ((inCue 0).unit (.press 0)).mode ≠ .struck ∧
      (b.unit (.port 0)).mode = .reRigging ∧ (b.unit (.port 0)).checks = .third :: [] ∧ b.declares 0 = true ∧
      4 ≤ (b.unit (.port 0)).attempts.toNat + 1 ∧
      (c.unit .umem).mode = .reRigging ∧ (c.unit .umem).checks = .rehearsal :: [] ∧
      (d.unit (.core 3)).mode = .reRigging ∧ (d.unit (.core 3)).checks = .proof :: [.rehearsal] := by
  decide +kernel

def slicing (u : RehUnit) (s : State) : State :=
  { s with sched := { s.sched with slices := [{ unit := u, suspending := false, at_ := 0 }] } }

theorem witness_RehearsalSlices :
    let s := slicing (.unit (.press 15)) (inCue 0)
    let c := slicing (.ctl .ufsHost) (inCue 0)
    (∃ x ∈ s.sched.slices, x.unit = .unit (.press 15)) ∧ (s.unit (.press 15)).mode ≠ .reRigging ∧ s.inServ (.press 15) = true ∧
      (∃ x ∈ c.sched.slices, x.unit = .ctl .ufsHost) ∧ c.dev.st ≠ .reset ∧
      (∀ x ∈ (inCue 0).sched.slices, x.unit ≠ .decoder) := by
  decide +kernel

theorem witness_ProofPasses :
    let s := { inCue 60 with sched := { (inCue 60).sched with planPresses := [0], planCores := [3] } }
    s.proving (proofUnit (.press 0)) = true ∧ s.named (proofUnit (.press 0)) = true ∧ s.cue.published = false ∧
      s.proving (proofUnit (.core 3)) = true ∧ s.named (proofUnit (.core 3)) = true ∧ us 60 ≤ (s.at 0).off ∧
      us 40 ≤ ((inCue 40).at 0).off ∧ (inCue 40).proving (proofUnit (.press 15)) = true := by
  decide +kernel

/-! ### Time sources, the governor, the regulators -/

def withTb (f : TimeBase → TimeBase) (s : State) : State := { s with tb := f s.tb }

theorem witness_TimeSources :
    let p := withTb (fun t => { t with ptpLocked := true }) (inCue 0)
    let q := withTb (fun t => { t with ppsLocked := true }) (inCue 0)
    let m := withTb (fun t => { t with profile := true, master := some (3, []) }) (inCue 0)
    let g := withTb (fun t => { t with ppsGood := 3, ppsLost := true }) (inCue 0)
    p.tb.ptpLocked = true ∧ p.tb.lastSync + us 3000000 ≤ max p.now (us 3000000) ∧ p.tb.ppsLocked = false ∧
      q.tb.ppsLocked = true ∧ q.tb.lastPps + us 1500000 ≤ max q.now (us 1500000) ∧ q.tb.ptpLocked = false ∧
      max p.now 0 < p.tb.lastSync + us 3000000 ∧ (inCue 0).dev.st ≠ .reset ∧ p.dev.st ≠ .reset ∧
      m.tb.profile = true ∧ m.tb.master.map Prod.fst = some (3 : Fin 4).1 ∧ (inCue 0).tb.profile = false ∧
      g.tb.ppsLocked = false ∧ g.tb.ppsLost = true ∧ 4 ≤ (after (.ppsEdge 0) g).tb.ppsGood := by
  decide +kernel

theorem witness_GovernorAndRegulators :
    let f := { inCue 0 with gov := { (inCue 0).gov with retries := 3 } }
    let w := { inCue 0 with part := vmod (inCue 0).part 2 fun r => { r with owed := [{ press := 0, id := 0, dev := stackBase 0, fill := false }], bucket := -64 } }
    (inCue 0).dev.st ≠ .reset ∧ (inCue 0).gov.retries < 3 ∧ 3 ≤ f.gov.retries ∧ (inCue 0).cue.running = true ∧ (inCue 0).gov.stopped = false ∧
      (inState .blank).cue.running = false ∧ (inCue 0).forme.loaded = true ∧ (inState .blank).forme.loaded = false ∧
      ((inCue 0).forme.parts[2]?).map Partition.kind = some 2 ∧ ((inCue 0).part.get 2).owed = [] ∧ (w.part.get 2).owed ≠ [] ∧
      ((inCue 0).forme.parts[0]?).map Partition.kind = some 0 ∧ (inCue 0).forme.parts[7]? = none := by
  decide +kernel

theorem witness_ThermalThresholds :
    let s := inCue 0
    let m := tjMax8 s
    s.dev.st ≠ .reset ∧ (hottest [0, m + 80, m + 80] 0).1 = m + 80 ∧ m + 80 ≤ (hottest [0, m + 80] 0).1 ∧ s.gov.hot = 0 ∧
      (hottest [m, 0] 0).1 = m ∧ (hottest [m - 40] 0).1 = m - 40 ∧ ¬(m - 40 ≤ (hottest [m - 41] 0).1) := by
  decide +kernel

/-! ### Scenes -/

/-- Killed instances are READY anew and displaced scenes have their units. -/
def formed (s : State) : State := placeDisplaced (reRun (s.at 0))

/-- The cognition play's one node writes its output. -/
def writing (s : State) : State :=
  let n : Node := { op := 0x0301, ins := [0], outs := [1], attrs := [], hint := 0xFFFF, name := 0xFFFF, ok := true }
  { s with forme := { s.forme with plays := [tPlay 0 0 0, tPlay 1 1 1, { tPlay 2 2 2 with nodes := [n] }, tPlay 3 3 3] } }

theorem witness_SceneAdmissions :
    let x := tInst 2 2 1 .ready []
    let y := { tInst 3 3 1 .ready [] with budget := 19000 }
    let b : BufReq := { tensor := 1, off := 0, play := 0x200000, dev := galleyBase + 4 * 2 ^ 21, len := 4 }
    let w := writing (withInsts [x] (inCue 7000))
    let s := { w with mem := { w.mem with l1 := [((2, 0), 1)] } }
    let d := { s with mem := { s.mem with l2 := [((0, 0), mkPte true true 2 0 32767 (galleyBase + 4 * 2 ^ 21))] } }
    let n := withInsts [{ x with st := .waiting }] (inCue 7000)
    (formed s).inst? x.key = some x ∧ (pick (formed s) x).1 = some [.press 2] ∧ (formed s).outranked x [.press 2] = false ∧
      (formed s).placesOk x [b] = true ∧ (formed s).placesOk x [{ b with len := 0 }] = false ∧
      (formed d).inst? x.key = some x ∧ (pick (formed d) x).1 = some [.press 2] ∧ (formed d).placesOk x [b] = false ∧
      (formed n).inst? x.key = some { x with st := .waiting } ∧ pick (formed n) { x with st := .waiting } = (none, false) ∧
      (let o := withInsts [{ x with ord := 1 }, { x with key := tKey 2 0 2 }] (inCue 7000)
       (formed o).inst? x.key = some { x with ord := 1 } ∧ (pick (formed o) { x with ord := 1 }).1 = some [.press 2] ∧
         (formed o).outranked { x with ord := 1 } [.press 2] = true) ∧
      (formed (withInsts [y] (inCue 7000))).inst? y.key = some y ∧ pick (formed (withInsts [y] (inCue 7000))) y = (none, true) ∧
      (formed (inCue 7000)).inst? x.key = none ∧
      (formed (inCue 7000)).sliceOk (.unit (.press 15)) = true ∧ (formed (inCue 7000)).sliceOk (.unit .umem) = false := by
  decide +kernel

def tInput : Input := { tokens := [1, 2], extra := [], draw := true }

def tSess (st : SessState) : Session :=
  { slot := 0, gen := 1, st := st, play := 2, seed := 0, committed := 0, leaves := [], prompt := if st = .idle then none else some tInput, held := []
    release := false, maxNew := 0, stops := [], drawn := 0, decoding := none, lastDraw := none, ord := 0, full := false }

def withSess (x : Session) (s : State) : State := { s with cog := { s.cog with sess := [x] } }

/-- The cognition play has a pool of 64 leaves. -/
def pooled (s : State) : State :=
  let p := tPlay 2 2 2
  { s with forme := { s.forme with plays := [tPlay 0 0 0, tPlay 1 1 1, { p with tensors := p.tensors ++ [{ tTensor 6 4 with dims := [64, 4] }] }] } }

theorem witness_StepsForm :
    let s := pooled (withSess (tSess .queued) (inCue 7000))
    let f := (formRows (s.limits 2) (s.queued 2) { rows := [], used := 0, short := false, left := none } (s.at 0)).1
    (s.play? 2).map Play.kind = some 2 ∧ s.cue.running = true ∧ s.cogState = true ∧ s.gov.stopped = false ∧ s.playHeld 2 = false ∧
      ((s.play? 2).map fun p => s.stackRoom p) = some true ∧ f.rows ≠ [] ∧
      ((inCue 7000).play? 0).map Play.kind = some 0 := by
  decide +kernel

theorem witness_ScenesCommit :
    let k := tKey 2 0 1
    let i := tInst 2 2 1 .running [.press 2]
    let a := { i with partsDone := [0] }
    let b := withInsts [a] (inCue 10000)
    let c := { tInst 0 0 5 .running [.press 0] with partsDone := [0] }
    cogRun.inst? k = some i ∧ i.st = .running ∧ cogRun.partRetired i 0 = true ∧ 0 ∉ i.partsDone ∧ i.asked = false ∧
      b.inst? k = some a ∧ 0 ∈ a.partsDone ∧ a.asked = true ∧ (b.play? k.play).isSome = true ∧
      (withInsts [c] (inCue 3000)).inst? c.key = some c ∧ c.asked = true ∧ c.kind ≠ 2 := by
  decide +kernel

theorem witness_SceneTimeouts :
    let i := tInst 2 2 1 .running [.press 2]
    let t := { i with wd := 2 }
    let o := { tInst 3 3 1 .running [.press 4] with wd := 1 }
    let y := tInst 0 0 5 .running [.press 0]
    cogRun.inst? i.key = some i ∧ i.st = .running ∧ i.at_ + us (2 * i.budget) ≤ max cogRun.now (us 200) ∧ i.kind = 2 ∧ i.wd + 1 < 3 ∧
      (withInsts [t] (inCue 200)).inst? t.key = some t ∧ t.at_ + us (2 * t.budget) ≤ max (inCue 200).now 0 ∧ 3 ≤ t.wd + 1 ∧
      (withInsts [o] (inCue 200)).inst? o.key = some o ∧ o.kind ≠ 2 ∧ o.kind ≠ kindMove ∧ 2 ≤ o.wd + 1 ∧
      (withInsts [y] (inCue 200)).inst? y.key = some y ∧ y.safety = true ∧ (inCue 200).cue.published = false ∧
      (withInsts [i] (inCue 199)).inst? i.key = some i ∧ max (inCue 199).now 0 < i.at_ + us (2 * i.budget) ∧
      (cogRun.runOn 2).isSome = true ∧ cogRun.inServ (.press 2) = true ∧ cogRun.runOn 3 = none := by
  decide +kernel

/-! ### Detections -/

theorem witness_DetectionsStopCurtain :
    (inCue 0).awake = true ∧ (inCue 0).dev.faultN = false ∧ ¬(920 ≤ 919 ∧ 919 ≤ 1080) ∧ ¬(920 ≤ 1081 ∧ 1081 ≤ 1080) ∧ (inCue 0).cur.oscOut = false ∧
      (inCue 0).cue.running = true ∧
      (inCue 0).cur.lastPulse + 408 * (inCue 0).forme.period + us 2 ≤ max (inCue 0).now (408 * 20000 + us 2) ∧
      max (inCue 0).now (408 * 20000 + us 2 - 1) < (inCue 0).cur.lastPulse + 408 * (inCue 0).forme.period + us 2 ∧
      (inState .blank).cue.running = false ∧ State.reset.awake = false := by
  decide +kernel

/-! ### Presses -/

/-- A SINGLE INT8 PRESS with SWAP on 1 row, tile at line 64, base `b`. -/
def pressWord (b : Nat) : W128 := BitVec.ofNat 128 (0x21 + 0x100 + 0x1000 + 3 * 2 ^ 16 + 2 ^ 18 + 64 * 2 ^ 58 + b * 2 ^ 83 + 3 * 2 ^ 102)

def tWaiting : Waiting := { w := pressWord 0, idx := 0, faults := [] }

theorem witness_PressesIssue :
    let q := cogRun.modPress 2 fun r => { r with queue := List.replicate 4 tWaiting }
    let i := tInst 2 2 1 .running [.press 2]
    (pressOp (pressWord 511)).opens = true ∧ (pressOp (pressWord 511)).m = 1 ∧ (pressOp (pressWord 511)).aFmt = fInt8 ∧
      cogRun.runOn 3 = none ∧ cogRun.runOn 2 = some i ∧ q.runOn 2 = some i ∧ 4 ≤ (q.press.get 2).queue.length ∧
      (cogRun.press.get 2).queue.length < 4 ∧ pressIllegal (pressOp 0) (cogRun.mem.split.get 2) (cogRun.press.get 2) = true ∧
      cogRun.inst? i.key = some i ∧ i.faultIdx = none ∧
      pressIllegal (pressOp (pressWord 511)) (cogRun.mem.split.get 2) (cogRun.press.get 2) = false := by
  decide +kernel

theorem witness_ChecksumVerdicts : (-1 : Int) ≠ 0 ∧ (-1 : Int).natAbs < 2 ^ 56 ∧ ((2 ^ 56 - 1 : Int)).natAbs < 2 ^ 56 := by
  decide +kernel

def tTile : Tile := { line := 64, valid := 64, rows := [] }

def tRep : Repeat := { c := { x := tWaiting, next := 1, first := 0, count := 0 }, row := 0, src := 0, at_ := 0, fed := 1, tracing := false }

def onPress2 (f : Press → Press) : State := cogRun.modPress 2 f

def tGroup : Group :=
  { base := 0, m := 1, cls := 16, aFmt := 1, wFmt := 1, win := 0, out := 3, cols := 1, q := 15, opened := false, done := true, count := 1, next := 0 }

theorem witness_RepeatsTilesDrains :
    let r := onPress2 fun p => { p with rep := some tRep, live := some tTile }
    let g := onPress2 fun p => { p with groups := [tGroup], drainQ := List.replicate 31 (15, []) }
    let f := onPress2 fun p => { p with groups := [tGroup], drainQ := List.replicate 32 (15, []) }
    (r.press.get 2).rep = some tRep ∧ (r.press.get 2).live = some tTile ∧ (r.unit (.press 2)).recent.length < 7 ∧
      tRep.row < (pressOp tRep.c.x.w).m ∧ r.inServ (.press 2) = true ∧ (cogRun.press.get 2).rep = none ∧
      (cogRun.runOn 2).isSome = true ∧ (cogRun.press.get 2).shadow = none ∧ (cogRun.press.get 2).queue = [] ∧ 8128 + 63 ≤ 8191 ∧
      (g.press.get 2).groups.find? (fun g => g.done) = some tGroup ∧ (g.press.get 2).drained tGroup.q < 32 ∧ (g.press.get 2).queue = [] ∧
      (f.press.get 2).groups.find? (fun g => g.done) = some tGroup ∧ 32 ≤ (f.press.get 2).drained tGroup.q ∧
      ((cogRun.press.get 2).groups.find? fun g => g.done) = none := by
  decide +kernel

theorem witness_PressFaultsAndBands :
    let i := tInst 2 2 1 .running [.press 2]
    let y := tInst 0 0 5 .running [.press 0]
    let s := withInsts [y] (inCue 3000)
    cogRun.runOn 2 = some i ∧ cogRun.inst? i.key = some i ∧ cogRun.runOn 3 = none ∧ cogRun.inServ (.press 2) = true ∧
      s.inServ (.press 0) = true ∧ s.runOn 0 = some y ∧ y.safety = true := by
  decide +kernel

/-! ### The vector unit, the compositors and the memory system -/

def tMicro (srcs : List VecSrc) : VecMicro := { op := .silu, srcs := srcs, shapes := [], dst := 0, fmt := fFp32, stagehand := 7 }

theorem witness_VectorOperations :
    let i := tInst 2 2 1 .running [.press 2]
    let m := tMicro [.lit [0]]
    let b := { tMicro [.drain 15 1, .drain 14 1] with op := .rawAdd }
    let r := onPress2 fun p => { p with drainQ := [(15, [(2 ^ 112, fRaw)]), (14, [(0, fRaw)])] }
    cogRun.runOn 2 = some i ∧ cogRun.runOn 3 = none ∧ cogRun.inst? i.key = some i ∧ i.faultIdx = none ∧
      (cogRun.press.get 2).drained 15 < drainNeed (tMicro [.drain 15 1]).srcs 15 ∧
      (∀ q, drainNeed m.srcs q ≤ (cogRun.press.get 2).drained q) ∧ (vecEval m (m.srcs.map (cogRun.vecSrc 2 2))).isSome = true ∧
      r.runOn 2 = some i ∧ r.inst? i.key = some i ∧ (∀ q, drainNeed b.srcs q ≤ (r.press.get 2).drained q) ∧
      vecEval b (b.srcs.map (r.vecSrc 2 2)) = none ∧
      (caseBase 0 - 1 < caseBase 0 ∧ caseBase 15 + 0x800000 ≤ caseBase 15 + 0x800000) := by
  decide +kernel

/-- The cognition play maps its page 0 to galley page 0, readable and writable. -/
def mapped (rd wr : Bool) (s : State) : State :=
  { s with mem := { s.mem with l1 := [((2, 0), 1)], l2 := [((2, 0), mkPte rd wr 2 0 32767 galleyBase)] } }

/-- XFER of one block from 0 to `dst` on compositor 1. -/
def xferWord (dst : Nat) : W128 := BitVec.ofNat 128 (0x32 + 0x100 + dst * 2 ^ 64)

def tCompOp : CompOp := .store 0 1 0

theorem witness_CompositorsMoveBlocks_wait :
    let i := tInst 2 2 1 .running [.press 2]
    let s := mapped true true cogRun
    let b := s.modPress 2 fun r => { r with comps := Vector.replicate 2 (some 0) }
    s.runOn 2 = some i ∧ s.inst? i.key = some i ∧ i.faultIdx = none ∧ (s.press.get 2).comps.get 1 = none ∧ cogRun.runOn 3 = none ∧
      b.runOn 2 = some i ∧ ((b.press.get 2).comps.get 1).isSome = true ∧ (b.press.get 2).comps.get 1 = some 0 ∧
      (compBlocks (fillLines (s.playByte 2) tCompOp) tCompOp).2 = true ∧ xferIllegal (xferOp (xferWord 32)) = true := by
  decide +kernel

def tPrefetcher (ahead : Nat) : Prefetcher := { idx := 31, hand := 0, play := 2, next := 128, stride := 64, ahead := ahead, misses := 0, stopped := false }

def withPrefetch (e : Prefetcher) (s : State) : State := { s with mem := { s.mem with prefetch := [(2, e)] } }

/-- The mapped page allows prefetching. -/
def prefetchable (s : State) : State :=
  { s with mem := { s.mem with
      tcache := [(2, { play := 2, page := 0, pte := mkPte true true 2 0 32767 galleyBase ||| 0x18#128, locked := false })] } }

theorem witness_WalksAndPrefetches :
    let i := tInst 2 2 1 .running [.press 2]
    let s := mapped true true cogRun
    let d := { s with mem := { s.mem with drops := [{ play := 2, page := 0, dev := galleyBase, presses := [2] }] } }
    let e := tPrefetcher 15
    let p := prefetchable (withPrefetch e cogRun)
    let g := prefetchable (withPrefetch e s)
    let a := withTrackers [{ tTracker 7 (some 2) with addr := 128 }] p
    let f := withPrefetch (tPrefetcher 16) cogRun
    s.runOn 2 = some i ∧ s.mem.drops = [] ∧ s.runFaults i false [blockOf 0] = none ∧ s.runFaults i false [blockOf (2 ^ 48)] = some 0 ∧
      s.inst? i.key = some i ∧ i.faultIdx = none ∧ 3 ≠ i.key.play ∧ (∃ x ∈ d.mem.drops, x.play = 2 ∧ x.page = 0 / 2 ^ 21) ∧
      cogRun.runOn 3 = none ∧ p.mem.prefetch.find? (fun e => decide (e.1 = 2) && decide (e.2.idx = 31)) = some (2, e) ∧
      e.ahead < 16 ∧ p.inSpan 2 e = true ∧ e.stopped = false ∧ p.prefetchRoom 2 = true ∧ p.requested 2 2 (blockOf 128) = false ∧
      a.requested 2 2 (blockOf 128) = true ∧ region ((g.translate 2 (blockOf 128)).getD 0) = .galley 0 ∧
      (withPrefetch e cogRun).inSpan 2 e = false ∧
      f.mem.prefetch.find? (fun e => decide (e.1 = 2) && decide (e.2.idx = 31)) = some (2, tPrefetcher 16) ∧
      cogRun.mem.prefetch.find? (fun e => decide (e.1 = 2) && decide (e.2.idx = 31)) = none := by
  decide +kernel

theorem witness_TrackersCompleteOrTimeOut :
    let r := tTracker 7 (some 2)
    let s := withTrackers [r] cogRun
    let d := { r with reissued := true }
    let e := withTrackers [d] cogRun
    let y := tInst 0 0 5 .running [.press 2]
    s.tracker? 8 = none ∧ s.tracker? 7 = some r ∧ s.held r = false ∧ s.held { r with waits := true } = true ∧ s.poisoned r.dev = false ∧
      (let n := { s with mem := { s.mem with nextId := 8 } }
       n.tracker? 7 = some r ∧ n.held r = false ∧ n.poisoned r.dev = false ∧ 7 < n.mem.nextId) ∧ r.killed = false ∧ r.reissued = false ∧
      r.at_ + us 20 ≤ max s.now 0 ∧ e.tracker? 7 = some d ∧ d.killed = false ∧ d.reissued = true ∧
      e.runOn 2 = some (tInst 2 2 1 .running [.press 2]) ∧ e.inst? (tKey 2 0 1) = some (tInst 2 2 1 .running [.press 2]) ∧
      (withInsts [y] e).runOn 2 = some y ∧ y.safety = true ∧
      (let l := { s with now := us 20 - 1 }
       l.tracker? 7 = some r ∧ max l.now 0 < r.at_ + us 20) ∧
      (let k := { r with killed := true }
       (withTrackers [k] cogRun).tracker? 7 = some k) := by
  decide +kernel

theorem witness_DroppedPrefetchesDiscarded :
    let r := { tTracker 7 (some 2) with pool := 3, dev := galleyBase + 64 }
    let d : Drop := { play := 2, page := 0, dev := galleyBase, presses := [2] }
    let s := { withTrackers [r] cogRun with mem := { (withTrackers [r] cogRun).mem with drops := [d] } }
    d ∈ s.mem.drops ∧ 2 ∈ d.presses ∧ goes (.mappingDropAck 0 2 2 0) s = true ∧ r ∈ s.mem.trackers ∧ r.press = some 2 ∧ r.pool = 3 ∧
      r.dev / 2 ^ 21 * 2 ^ 21 = d.dev ∧
      (let x := { r with drop := true }
       let t := { withTrackers [x] cogRun with mem := { (withTrackers [x] cogRun).mem with nextId := 8 } }
       t.tracker? 7 = some x ∧ x.pool = 3 ∧ t.held x = false ∧ 7 < t.mem.nextId) := by
  decide +kernel

def tHop (recv send : Byte) (n : Nat) : Hop := { recv := recv, send := send, resends := [(64, none, n)], exhausted := [] }

def withHops (l : List Hop) (s : State) : State := { s with mem := { s.mem with hops := l } }

theorem witness_BlocksResentOrLost :
    let crc := blockCrc (List.replicate 64 0) 64
    let s := withHops [tHop 2 0x18 3, tHop 0x18 0x18 3] cogRun
    let o := { s with log := { s.log with once := [(0x0420, 2)] } }
    let e := setUnit (.stack 0) (fun r => { r with errors := List.replicate 15 4 }) s
    blockCrc (List.replicate 64 0) 64 ≠ crc + 1 ∧ (cogRun.hop 2 0x18).count 64 < 3 ∧ (0x0420, (2 : Byte).toNat) ∉ cogRun.log.once ∧
      (0x0420, (2 : Byte).toNat) ∈ o.log.once ∧ 3 ≤ (s.hop 2 0x18).count 64 ∧ (s.hop 2 0x18).exhausted = [] ∧
      s.runOn 2 = some (tInst 2 2 1 .running [.press 2]) ∧ s.inst? (tKey 2 0 1) = some (tInst 2 2 1 .running [.press 2]) ∧
      (cogRun.hop (unitId (.stack 0)) (unitId (.stack 0))).count 64 < 3 ∧
      3 ≤ (e.hop (unitId (.stack 0)) (unitId (.stack 0))).count 64 ∧ e.inServ (.stack 0) = true ∧
      16 ≤ (within 1000 e.cue.count.toNat (e.unit (.stack 0)).errors).length := by
  decide +kernel

/-- The cognition play's constant page of 8 zero bytes, which a galley error took, and what LOADING recorded of it. -/
def restoring (record : List Byte) (s : State) : State :=
  { s with
    forme := { s.forme with
      sections := [{ kind := 6, index := 0, offset := 0x200000, length := 8, digest := [] }], pageRecs := [(0, [record])] }
    mem := { s.mem with
      l2 := [((2, 0), mkPte true false 2 0 32767 galleyBase)], restore := [{ play := 2, sect := 0, page := 0, vpage := 0 }] } }

theorem witness_MemoryUpkeep :
    let r : Restore := { play := 2, sect := 0, page := 0, vpage := 0 }
    let s := restoring ((sha512 (List.replicate 8 0)).take 8) (inCue 0)
    let u := { s with mem := { s.mem with l2 := [] } }
    (inCue 0).mem.restore = [] ∧ s.mem.restore = r :: [] ∧ s.pte? 2 0 = some (mkPte true false 2 0 32767 galleyBase) ∧
      s.freshPage (pteDev (mkPte true false 2 0 32767 galleyBase)) = some (galleyBase + 4 * 2 ^ 21) ∧
      s.pageRec 0 0 = some ((sha512 (s.pageBytes 0 0)).take 8) ∧ u.mem.restore = r :: [] ∧ u.pte? 2 0 = none ∧
      (let d : Drop := { play := 2, page := 0, dev := galleyBase, presses := [2] }
       let t := { s with mem := { s.mem with drops := [d] } }
       d ∈ t.mem.drops ∧ 2 ∈ d.presses) ∧
      (let l : Leaf := { play := 2, num := 3, st := .pinned, count := 0xFFFF, sweep := true, poisoned := false }
       let t := { inCue 0 with cog := { (inCue 0).cog with leaves := [l] } }
       let h := withSess { tSess .idle with leaves := [3] } t
       t.leaf? 2 3 = some l ∧ t.leafHeld 2 3 = false ∧ h.leaf? 2 3 = some l ∧ h.leafHeld 2 3 = true ∧ t.leaf? 2 4 = none) := by
  decide +kernel

/-! ### Ingest -/

def tFrame (bad : Bool) (lines : List (List Byte)) : Frame := { id := 1, stamp := 7, num := 1, lines := lines, embedded := [], bad := bad }

def withStream (i : Fin 32) (f : StreamRt → StreamRt) (s : State) : State := s.modStream i f

theorem witness_CameraPackets :
    let line := List.replicate 16 (0 : Byte)
    let o := withStream 0 (fun r => { r with frame := some (tFrame false [line]) }) (inCue 0)
    let full := withStream 0 (fun r => { r with frame := some (tFrame false [line, line]) }) (inCue 0)
    let bad := withStream 0 (fun r => { r with frame := some (tFrame true []) }) (inCue 0)
    let shut := setUnit (.port 0) (fun r => { r with mode := .struck }) (inCue 0)
    shut.camLive 0 = false ∧ (inCue 0).camLive 1 = false ∧ (inCue 0).camLive 0 = true ∧ 0 ∈ (inCue 0).onChannel 0 0 ∧
      ((inCue 0).stream 0).map Stream.kind = some 0 ∧ ((inCue 0).stream 0).map Stream.dt = some 0x2A ∧
      1 ∉ (inCue 0).onChannel 0 0 ∧ (o.ing.streams.get 0).frame = some (tFrame false [line]) ∧ o.camLive 0 = true ∧
      (∃ i ∈ o.onChannel 0 0, i = 0) ∧ ((o.stream 0).map Stream.lineBytes) = some line.length ∧
      (tFrame false [line]).lines.length < 2 ∧ ((o.stream 0).map Stream.height) = some 2 ∧
      (inCue 0).onChannel 0 3 = [] ∧ (0x0205, 0) ∉ (inCue 0).log.once ∧ (0x0201, 0) ∉ (inCue 0).log.once ∧
      (full.ing.streams.get 0).frame = some (tFrame false [line, line]) ∧ 2 ≤ (tFrame false [line, line]).lines.length ∧
      (bad.ing.streams.get 0).frame = some (tFrame true []) ∧
      1500 < (((inCue 0).forme.cams[0]?).map CamPort.rate).getD 0 := by
  decide +kernel

/-- An untagged frame of an ethertype: addresses, type, body, FCS. -/
def ethFrame (typ : List Byte) (body : List Byte) : List Byte := List.replicate 12 0 ++ typ ++ body ++ List.replicate (50 - body.length) 0

/-- A datagram of 8 bytes from 10.0.0.1 to a UDP port. -/
def datagram (port : List Byte) : List Byte :=
  [0x45, 0, 0, 36, 0, 0, 0, 0, 64, 17, 0x70, 0xC9, 10, 0, 0, 1, 0, 0, 0, 0] ++ [0, 1] ++ port ++ [0, 16, 0, 0] ++ List.replicate 8 0

theorem witness_EthernetDecodesSamples_frames :
    let s := inCue 0
    let shut := setUnit (.port 16) (fun r => { r with mode := .retired }) s
    let once := { s with log := { s.log with once := [(0x0251, 16)] } }
    s.ethOn 1 = false ∧ shut.portOpen 16 = false ∧ s.ethOn 0 = true ∧ s.portOpen 16 = true ∧
      ethParse false (ethFrame [0x08, 0x00] []) = none ∧ (0x0251, 16) ∉ s.log.once ∧ (0x0251, 16) ∈ once.log.once ∧
      ethParse true (ethFrame [0x88, 0xF7] []) = some (.gptp (List.replicate 46 0)) ∧
      ethParse true (ethFrame [0x08, 0x00] (datagram [0x09, 0x40])) = some (.udp 0x0100000A 2368 (List.replicate 8 0)) ∧
      s.onKey 0 0x0100000A 2368 = [1] ∧
      ethParse true (ethFrame [0x08, 0x00] (datagram [0x01, 0x3F])) = some (.udp 0x0100000A 319 (List.replicate 8 0)) ∧
      ethParse true (ethFrame [0x08, 0x00] (datagram [0x01, 0x41])) = some (.udp 0x0100000A 321 (List.replicate 8 0)) ∧
      s.onKey 0 0x0100000A 321 = [] := by
  decide +kernel

def tJob : JpegJob := { slot := 1, id := 1, stamp := 7, num := 1, begun := 0, typ := 0, w := 16, h := 8, rst := 0, tables := ([], []), bytes := [] }

def decoding (s : State) : State := { s with ing := { s.ing with engines := vmod s.ing.engines 3 fun _ => some tJob } }

def tSample (id : Nat) (test : Bool) : Sample :=
  { id := id, stamp := 7, done := none, status := 0, points := 0, num := 1, bytes := [], test := test }

theorem witness_EthernetDecodesSamples_samples :
    let q := { inCue 0 with ing := { (inCue 0).ing with jpegQ := [tJob] } }
    let d := decoding (inCue 0)
    let r := withStream 0 (fun r => { r with ready := [tSample 1 true], samples := [tSample 1 true], proofRun := 2 }) (inCue 0)
    let l := { inCue 0 with now := us 15000 }
    let m := withStream 0 (fun r => { r with lost := true }) l
    q.ing.engines.get 0 = none ∧ q.ing.jpegQ = tJob :: [] ∧ (inCue 0).ing.jpegQ = [] ∧ d.engineOf 1 = some (3, tJob) ∧
      d.portOpen (Fin.ofNat 20 (tStream 3 0 0 false).portIdx) = true ∧ d.stream 1 = some (tStream 3 0 0 false) ∧
      max d.now (us 100) ≤ tJob.begun + us (tStream 3 0 0 false).budget ∧ tJob.begun + us (tStream 3 0 0 false).budget ≤ max d.now (us 100) ∧
      max d.now (us 100 - 1) < tJob.begun + us (tStream 3 0 0 false).budget ∧
      r.stream 0 = some (tStream 0 0 0x2A false) ∧ (r.ing.streams.get 0).ready = tSample 1 true :: [] ∧ r.portOpen 0 = true ∧
      (r.unit (.port 0)).mode ≠ .reRigging ∧ (tSample 1 true).status = 0 ∧ (tSample 1 true).test = true ∧ tSample 1 true ∈ (r.ing.streams.get 0).samples ∧
      (4 : W32) ≠ r.forme.proofCrc.getD 0 0 ∧ (r.ing.streams.get 0).proofRun = 2 ∧ ((inCue 0).ing.streams.get 0).ready = [] ∧
      l.inServ (.port 0) = true ∧ (l.ing.streams.get 0).lost = false ∧ l.cue.count ≠ 0 ∧
      (l.ing.streams.get 0).lossFrom + us (tStream 0 0 0x2A false).period * 3 / 2 ≤ max l.now 0 ∧
      (l.unit (.port 0)).mode ≠ .absent ∧ (m.ing.streams.get 0).lost = true ∧
      max (inCue 14999).now 0 < ((inCue 14999).ing.streams.get 0).lossFrom + us (tStream 0 0 0x2A false).period * 3 / 2 := by
  decide +kernel

/-! ### The SD card and its registers -/

def withCard (f : Card → Card) (s : State) : State := { s with port := { s.port with card := f s.port.card } }

theorem witness_CardCommands :
    let off := withCard (fun c => { c with st := .inactive }) (inCue 0)
    let rdy := withCard (fun c => { c with st := .ready, lost := true }) (inCue 0)
    let sby := withCard (fun c => { c with st := .standby, rca := 1 }) (inCue 0)
    let fn := withCard (fun c => { c with ioe := 0x0E }) (inCue 0)
    State.reset.cardAlive = false ∧ off.cardAlive = false ∧ (inCue 0).cardAlive = true ∧ (inCue 0).port.card.st = .idle ∧
      (0x03FFFF : BitVec 24) &&& ocrWindow = 0 ∧ (0x040000 : BitVec 24) &&& ocrWindow ≠ 0 ∧ rdy.cardAlive = true ∧ rdy.port.card.st = .ready ∧
      sby.cardAlive = true ∧ sby.port.card.st = .standby ∧ (card (inCue 0)).cardAlive = true ∧ (card (inCue 0)).port.card.st = .selected ∧
      (0 : W16) ≠ (card (inCue 0)).port.card.rca ∧ (card (inCue 0)).port.card.v18 = true ∧
      fn.dev.st ≠ .reset ∧ (3 : Fin 4) ≠ 0 ∧ fn.port.card.ioe.getLsbD (3 : Fin 4).1 = true := by
  decide +kernel

theorem witness_ActiveVersion :
    let m := tMsg 0x0001 0 [1, 1]
    let v := tMsg 0x0001 0 [2, 2]
    let b := tMsg 0x0001 0 [1]
    mayReset (.resetNAssert 0) = true ∧ goes (.resetNAssert 0) (inCue 0) = true ∧ (inCue 0).dev.st ≠ .reset ∧
      (after (.resetNAssert 0) (inCue 0)).dev.st = .reset ∧ (card (inCue 0)).selected = true ∧ (0x08 : Byte).getLsbD 3 = true ∧
      (inCue 0).chip.powered = true ∧ (inCue 0).chip.resetN = false ∧
      (gets m (inCue 0)).head? (fun x => x = 0x0001) = some m ∧ 2 ≤ m.payload.length ∧ u8 m.payload 0 ≤ 1 ∧ 1 ≤ u8 m.payload 1 ∧
      (gets v (inCue 0)).head? (fun x => x = 0x0001) = some v ∧ 1 < u8 v.payload 0 ∧
      (gets b (inCue 0)).head? (fun x => x = 0x0001) = some b ∧ b.payload.length < 2 ∧ (inCue 0).head? (fun x => x = 0x0001) = none := by
  decide +kernel

theorem witness_RegisterWindow :
    let s := card (inCue 0)
    (inCue 0).selected = false ∧ s.selected = true ∧ 2 ≤ (2 : Fin 8).1 ∧ cmd53Oor s 2 false true 1 = true ∧ (0x1FFFF : BitVec 17).toNat + 1 ≤ 0x20000 ∧
      regOf (0x208 : BitVec 17).toNat = some (0x208, 8) ∧ (0x208 : BitVec 17).toNat = 0x208 ∧ 1 < 8 ∧ 7 < 8 ∧
      (after (.f1SnapshotRead 0 0x208) s).selected = true ∧ regOf (0x208 + 7) = some (0x208, 8) ∧ 0x208 + 7 < 2 ^ 17 ∧
      s.dev.st = .running ∧ s.forme.rules.test = true ∧ s.cur.testPending = false ∧
      ¬((card (inState .blank)).dev.st = .running ∨ (card (inState .blank)).dev.st = .degraded) ∧ (card (inState .blank)).selected = true := by
  decide +kernel

theorem witness_AccountCapture :
    (card (inCue 0)).selected = true ∧ (1055 : Nat) = (4 : Byte).toNat % 8 * 256 + (31 : Byte).toNat ∧ 1055 < 1056 ∧
      (1056 : Nat) = (4 : Byte).toNat % 8 * 256 + (32 : Byte).toNat ∧ 1056 ≤ 1056 ∧
      goes (.lminMark 0) (inCue 0) = true ∧ Field.acctWin ∉ fieldsOf (.lminMark 0) ∧ 0x4000 ≠ 0x4001 := by
  decide +kernel

/-- Two messages wait, of 513 and 512 bytes; the first block of the first has been read. -/
def sending : State :=
  let s := card (inCue 0)
  { s with port := { s.port with tx := [List.replicate 513 1, List.replicate 512 2], txDone := 1, txRead := 1, txAvail := 3 } }

theorem witness_SendQueueReads :
    sending.selected = true ∧ sending.port.card.fbr.get 3 = 512 ∧ (∀ m ∈ sending.port.tx, 0 < msgBlocks m) ∧
      sending.port.tx = List.replicate 513 1 :: [List.replicate 512 2] ∧ sending.port.txDone < msgBlocks (List.replicate 513 1) ∧
      sending.port.tx ≠ [] ∧ sending.port.txAvail = sending.port.txRead + BitVec.ofNat 32 sending.unread.length := by
  decide +kernel

/-- The only block of a good message: version 1, type 0x0032, sequence 9, no payload, its CRC. -/
def goodBlock : List Byte :=
  let h : List Byte := [1, 0x32, 0, 0, 0, 0, 9, 0, 0, 0, 0, 0]
  h ++ natLe 4 (crc32 (h ++ [0, 0, 0, 0])).toNat ++ List.replicate 496 0

/-- The first block of a message of 497 bytes of payload. -/
def firstBlock : List Byte := [1, 0x32, 0, 0xF1, 1, 0] ++ List.replicate 506 0

theorem witness_BlocksIn :
    let s := card (inCue 0)
    let part := { s with port := { s.port with cur := firstBlock, w := 1 } }
    let spent := { s with port := { s.port with w := 0x400 } }
    let drop := { s with port := { s.port with rxDiscard := true } }
    (inCue 0).selected = false ∧ s.selected = true ∧ s.port.card.fbr.get 2 = 512 ∧ goodBlock.length = 512 ∧ drop.port.rxDiscard = true ∧
      s.port.rxDiscard = false ∧ precedes spent.port.w spent.port.credit = false ∧ precedes s.port.w s.port.credit = true ∧
      (List.replicate 512 (0 : Byte)).getD 0 0 = 0 ∧ s.port.cur.length / 512 = 0 ∧ uN 3 (s.port.cur ++ goodBlock) 3 = 0 ∧
      16 + 0 ≤ (s.port.cur ++ goodBlock).length ∧ goodBlock.getD 0 0 = 1 ∧
      u32 goodBlock 12 = (crc32 (goodBlock.take 12 ++ [0, 0, 0, 0] ++ sub goodBlock 16 0)).toNat ∧
      (let b := goodBlock.set 12 (goodBlock.getD 12 0 + 1)
       u32 b 12 ≠ (crc32 (b.take 12 ++ [0, 0, 0, 0] ++ sub b 16 0)).toNat) ∧
      uN 3 firstBlock 3 = 497 ∧ (s.port.cur ++ firstBlock).length < 16 + 497 ∧
      part.port.cur ≠ [] ∧ part.port.curAt + us 100000 ≤ max part.now (us 100000) ∧ max part.now (us 100000 - 1) < part.port.curAt + us 100000 ∧
      s.port.cur = [] := by
  decide +kernel

/-! ### Commands behind a signature -/

theorem natLe_length (n : Nat) : ∀ v, (natLe n v).length = n := by
  induction n with
  | zero => intro v; rfl
  | succ n ih => intro v; simp [natLe, ih]

theorem sha512_length (bs : List Byte) : (sha512 bs).length = 64 := by
  simp only [sha512, List.flatMap_cons, List.flatMap_nil, List.length_append, natBe, List.length_reverse, natLe_length, List.length_nil]

theorem sub_append (a b : List Byte) (i n : Nat) (h : i + n ≤ a.length) : sub (a ++ b) i n = sub a i n := by
  simp only [sub]
  rw [List.drop_append_of_le_length (by omega), List.take_append_of_le_length (by simp; omega)]

theorem sub_skip (a b : List Byte) (i n : Nat) (h : a.length ≤ i) : sub (a ++ b) i n = sub b (i - a.length) n := by
  simp only [sub, List.drop_append, List.drop_of_length_le h, List.nil_append]

theorem sub_whole (a b : List Byte) (n : Nat) (h : a.length = n) : sub (a ++ b) 0 n = a := by
  subst h; simp [sub]

/-- A directory of seven sections of one byte each, 2 MiB apart. -/
def tDir : List Byte :=
  (hdrMagic ++ natLe 2 1 ++ natLe 2 4096 ++ natLe 2 7 ++ natLe 2 0 ++ natLe 8 0x1000000 ++ List.replicate 4072 0) ++
    (List.zip [1, 2, 3, 4, 5, 7, 8] [1, 2, 3, 4, 5, 6, 7]).flatMap fun e =>
      natLe 8 e.1 ++ natLe 8 (0x200000 * e.2) ++ natLe 8 1 ++ List.replicate 104 0

/-- Its colophon, signed under the identity key. -/
def tCol (digest : List Byte) : List Byte := (colMagic ++ List.replicate 8 0) ++ (digest ++ (idKey ++ (idSig ++ List.replicate 3920 0)))

theorem tCol_checks (root dir : List Byte) (h1 : check1 dir = true) (hr : (readHeader dir).rollback = 0) (hroot : root = sha512 idKey) :
    checks1to4 Fuses.blank root dir (tCol (sha512 dir)) = none := by
  have hl := sha512_length dir
  have d1 : (colMagic ++ List.replicate 8 (0 : Byte)).length = 16 := by decide
  have hd : ∀ n k, 80 ≤ k → sub (tCol (sha512 dir)) k n = sub (idKey ++ (idSig ++ List.replicate 3920 0)) (k - 80) n := fun n k hk => by
    rw [tCol, sub_skip _ _ _ _ (by omega), sub_skip _ _ _ _ (by omega), d1, hl, Nat.sub_sub]
  have h16 : sub (tCol (sha512 dir)) 16 64 = sha512 dir := by rw [tCol, sub_skip _ _ _ _ (by omega), d1, sub_whole _ _ _ hl]
  have h80 : sub (tCol (sha512 dir)) 80 32 = idKey := by rw [hd _ _ (by omega)]; decide +kernel
  have h112 : sub (tCol (sha512 dir)) 112 64 = idSig := by rw [hd _ _ (by omega)]; decide +kernel
  have hz : zeros (tCol (sha512 dir)) 176 4096 = true := by rw [zeros, hd _ _ (by omega)]; decide +kernel
  have hm : (tCol (sha512 dir)).take 8 = colMagic := by
    rw [tCol, List.take_append_of_le_length (by omega)]; decide +kernel
  have h9 : zeros (tCol (sha512 dir)) 9 16 = true := by rw [zeros, tCol, sub_append _ _ _ _ (by omega)]; decide +kernel
  have h8 : u8 (tCol (sha512 dir)) 8 = 0 := by
    rw [u8, tCol, List.getD_append _ _ _ _ (by omega)]; decide +kernel
  have hk : keyAccepted Fuses.blank root 0 idKey = true := by
    rw [hroot]; simp only [keyAccepted, if_true, decide_true, Bool.true_and]; decide +kernel
  simp [checks1to4, check3, h1, hm, h9, hz, h8, h80, hk, h16, h112, edVerify_identity, hr, show Fuses.blank.rollback = 0 from rfl]

theorem gets_head (m : Msg) (s : State) (f : Nat → Bool)
    (h : (s.chip.powered && !s.chip.resetN && decide (s.dev.st ≠ .reset) && f m.typ && s.roomFor m.typ) = true) :
    (gets m s).head? f = some m := if_pos h

/-- A device in MAINTENANCE whose root key is the identity key. -/
def signed : State := { inState .maintenance with ident := { Ident.default with rootDigest := sha512 idKey } }

theorem witness_UpdatesWriteAfterChecks_directory :
    ∃ (m : Msg) (s : State) (dir : List Byte), s.versionOk m = true ∧ s.dev.st = .maintenance ∧ s.head? (fun x => x = 0x0023) = some m ∧ s.upd.active = false ∧
      4096 ≤ m.payload.length ∧ dirLength m.payload + 4096 ≤ m.payload.length ∧ dir = m.payload.take (dirLength m.payload) ∧
      checks1to4 s.fuses.settled s.ident.rootDigest dir (sub m.payload (dirLength m.payload) 4096) = none ∧ Memory.wf s.ufs = true := by
  have hlen : tDir.length = 4992 := by decide +kernel
  have hcol : (tCol (sha512 tDir)).length = 4096 := by
    have h1 : colMagic.length = 8 := by decide
    have h2 : idKey.length = 32 := by decide
    have h3 : idSig.length = 64 := by decide
    simp only [tCol, List.length_append, sha512_length, List.length_replicate, h1, h2, h3]
  have hdl : dirLength (tDir ++ tCol (sha512 tDir)) = 4992 := by
    have : u16 (tDir ++ tCol (sha512 tDir)) 12 = u16 tDir 12 := by
      simp only [u16, uN]
      exact congrArg leNat (sub_append _ _ 12 2 (by omega))
    rw [dirLength, this]; decide +kernel
  let m := tMsg 0x0023 0 (tDir ++ tCol (sha512 tDir))
  refine ⟨m, gets m signed, tDir, rfl, rfl, gets_head _ _ _ (by decide +kernel), rfl, ?_, ?_, ?_, ?_, rfl⟩
  · show 4096 ≤ (tDir ++ tCol (sha512 tDir)).length
    simp [hlen, hcol]
  · show dirLength (tDir ++ tCol (sha512 tDir)) + 4096 ≤ (tDir ++ tCol (sha512 tDir)).length
    simp [hdl, hlen, hcol]
  · show tDir = (tDir ++ tCol (sha512 tDir)).take (dirLength (tDir ++ tCol (sha512 tDir)))
    rw [hdl, ← hlen, List.take_left']; rfl
  · show checks1to4 Fuses.blank (sha512 idKey) tDir (sub (tDir ++ tCol (sha512 tDir)) (dirLength (tDir ++ tCol (sha512 tDir))) 4096) = none
    rw [hdl, sub_skip _ _ _ _ (by omega), hlen, Nat.sub_self, ← List.append_nil (tCol _), sub_whole _ _ _ hcol]
    exact tCol_checks _ _ (by decide +kernel) (by decide +kernel) rfl

/-- A LOCK command for a device key, signed under the identity key. -/
def lockRec (key : List Byte) : List Byte :=
  (fuseMagic ++ [4, 0, 0, 0, 0, 0, 0, 0]) ++ (key ++ (List.replicate 80 0 ++ (idKey ++ idSig)))

theorem witness_FusesBurn_judged :
    ∃ (m : Msg) (s : State), s.versionOk m = true ∧ s.dev.st = .maintenance ∧ s.head? (fun x => x = 0x0025) = some m ∧ fuseFields m.payload = true ∧
      judgeFuse s m.payload = (0, some .lock) := by
  let key := edPublic signed.ident.seed
  have hl : key.length = 32 := by simp [key, edPublic, edEncode, natLe_length]
  have d1 : (fuseMagic ++ [4, 0, 0, 0, 0, 0, 0, (0 : Byte)]).length = 16 := by decide
  have hd : ∀ n k, 48 ≤ k → sub (lockRec key) k n = sub (List.replicate 80 0 ++ (idKey ++ idSig)) (k - 48) n := fun n k hk => by
    rw [lockRec, sub_skip _ _ _ _ (by omega), sub_skip _ _ _ _ (by omega), d1, hl, Nat.sub_sub]
  have ha : ∀ n k, k + n ≤ 16 → sub (lockRec key) k n = sub (fuseMagic ++ [4, 0, 0, 0, 0, 0, 0, 0]) k n := fun n k hk => by
    rw [lockRec, sub_append _ _ _ _ (by omega)]
  have hu : ∀ k, u8 (lockRec key) k = ((sub (lockRec key) k 1).getD 0 0).toNat := fun k => by
    simp [u8, sub, List.getD_eq_getElem?_getD, List.getElem?_drop]
  have hlen : (lockRec key).length = 224 := by
    have h2 : idKey.length = 32 := by decide
    have h3 : idSig.length = 64 := by decide
    simp only [lockRec, List.length_append (bs := key ++ _), List.length_append (as := key), d1, hl, List.length_append, List.length_replicate, h2, h3]
  have hmag : (lockRec key).take 8 = fuseMagic := by
    have := ha 8 0 (by omega)
    rw [sub, List.drop_zero] at this
    rw [this]; decide +kernel
  have u8a : u8 (lockRec key) 8 = 4 := by rw [hu, ha _ _ (by omega)]; decide +kernel
  have u9 : u8 (lockRec key) 9 = 0 := by rw [hu, ha _ _ (by omega)]; decide +kernel
  have u112 : u8 (lockRec key) 112 = 0 := by rw [hu, hd _ _ (by omega)]; decide +kernel
  have z10 : zeros (lockRec key) 10 12 = true := by rw [zeros, ha _ _ (by omega)]; decide +kernel
  have z113 : zeros (lockRec key) 113 128 = true := by rw [zeros, hd _ _ (by omega)]; decide +kernel
  have z48 : zeros (lockRec key) 48 112 = true := by rw [zeros, hd _ _ (by omega)]; decide +kernel
  have h16 : sub (lockRec key) 16 32 = key := by rw [lockRec, sub_skip _ _ _ _ (by omega), d1, sub_whole _ _ _ hl]
  have h128 : sub (lockRec key) 128 32 = idKey := by rw [hd _ _ (by omega)]; decide +kernel
  have h160 : sub (lockRec key) 160 64 = idSig := by rw [hd _ _ (by omega)]; decide +kernel
  have hf : fuseFields (lockRec key) = true := by
    simp [fuseFields, hlen, hmag, u8a, u9, u112, z10, z113, z48]
  have hk : keyAccepted Fuses.blank (sha512 idKey) 0 idKey = true := by
    simp only [keyAccepted, if_true, decide_true, Bool.true_and]; decide +kernel
  let m := tMsg 0x0025 0 (lockRec key)
  refine ⟨m, gets m signed, rfl, rfl, gets_head _ _ _ (by decide +kernel), hf, ?_⟩
  show judgeFuse (gets m signed) (lockRec key) = _
  have hs : (gets m signed).fuses.settled = Fuses.blank := rfl
  have hi : (gets m signed).ident.rootDigest = sha512 idKey := rfl
  have hp : (gets m signed).ident.seed = signed.ident.seed := rfl
  simp only [judgeFuse, hs, hi, hp, h16, u112, h128, hk, h160, edVerify_identity, fuseBurn, u8a]
  simp [key]

/-! ### Messages -/

theorem witness_MessagesTurnedAway :
    let m := tMsg 0x0010 0 []
    let r := tMsg 0x0031 0 []
    let v := { m with version := 2 }
    (Instr.sessionOpen 0, 0x0010) ∈ [(Instr.sessionOpen 0, 0x0010), (.sessionInput 0, 0x0011)] ∧
      (inCue 0).head? (fun x => x = 0x0010) = none ∧ (gets v (inCue 0)).head? (fun x => x = 0x0010) = some v ∧
      (gets v (inCue 0)).versionOk v = false ∧
      (gets m (inState .blank)).head? (fun x => x = 0x0010) = some m ∧ (gets m (inState .blank)).versionOk m = true ∧
      State.cogState (gets m (inState .blank)) = false ∧ State.startWait (inState .blank) = false ∧
      State.mayMaintain (inState .maintenance) = false ∧ State.maintaining (inState .blank) = false ∧
      (gets r (inState .blank)).head? (fun x => x = 0x0031) = some r ∧ State.running? (inState .blank) = false := by
  decide +kernel

theorem witness_UnsupportedMessages :
    let m := tMsg 0x8010 0 []
    let s := gets m (inCue 0)
    let b := { s with dev := { s.dev with st := .safeHold, bare := true } }
    (inCue 0).head? (fun x => decide (x ∉ catalogueTypes)) = none ∧ s.head? (fun x => decide (x ∉ catalogueTypes)) = some m ∧
      s.dev.bare = false ∧ b.head? (fun x => decide (x ∉ catalogueTypes)) = some m ∧ b.dev.bare = true := by
  decide +kernel

def openRec : List Byte := [2] ++ List.replicate 59 0

def inputRec : List Byte := natLe 4 1 ++ natLe 4 1 ++ natLe 4 7

theorem witness_SessionMessages_open :
    let m := tMsg 0x0010 0 openRec
    let s := gets m (pooled (inCue 0))
    s.versionOk m = true ∧ s.cogState = true ∧ s.head? (fun x => x = 0x0010) = some m ∧ openOk s m.payload = true ∧
      (readOpen m.payload).parent = 0 ∧ s.freeSlot = some 0 ∧ s.storeUsed ≤ storeSize := by
  decide +kernel

theorem witness_SessionMessages_input :
    let i := tMsg 0x0011 0x400 inputRec
    let s := gets i (withSess (tSess .idle) (pooled (inCue 0)))
    let x := { tSess .queued with held := List.replicate 3 tInput }
    let y := { tSess .queued with held := List.replicate 4 tInput }
    let t := gets i (withSess x (pooled (inCue 0)))
    let u := gets i (withSess y (pooled (inCue 0)))
    (tSess .idle).handle = 0x400 ∧ s.head? (fun x => x = 0x0011) = some i ∧ s.session? i.session = some (tSess .idle) ∧
      inputOk (s.extraRows (tSess .idle).play) i.payload = true ∧ (tSess .idle).full = false ∧ s.versionOk i = true ∧ s.cogState = true ∧
      0 + (tSess .idle).pending + 0 + 1 ≤ (s.limits 2).pmax ∧ (tSess .idle).st = .idle ∧
      t.session? i.session = some x ∧ x.held.length < 4 ∧ x.committed + x.pending + (x.held.map fun h => h.tokens.length).sum + 1 ≤ (t.limits 2).pmax ∧
      u.session? i.session = some y ∧ 4 ≤ y.held.length ∧ y.committed + y.pending + (y.held.map fun h => h.tokens.length).sum + 1 ≤ (u.limits 2).pmax := by
  decide +kernel

theorem witness_SessionMessages_rest :
    let p := fun (typ : Nat) (w : W32) (l : List Byte) => gets (tMsg typ w l) (withSess { tSess .queued with committed := 17, leaves := [0, 1] } (pooled (inCue 0)))
    let x := { tSess .queued with committed := 17, leaves := [0, 1] }
    let k : Keep := { slot := 0, gen := 1, live := true, play := 2, leaves := [0], len := 16 }
    let r := tMsg 0x0015 0 (natLe 4 0x10000)
    let s := gets r (inCue 0)
    let t := { s with cog := { s.cog with keeps := [k] } }
    (p 0x0012 0x400 []).session? 0x400 = some x ∧ x.nextDraw = 19 ∧
      (p 0x0013 0x400 (natLe 4 19)).head? (fun x => x = 0x0013) = some (tMsg 0x0013 0x400 (natLe 4 19)) ∧ 4 ≤ (natLe 4 19).length ∧
      u32 (natLe 4 19) 0 = x.nextDraw ∧ u32 (natLe 4 18) 0 < x.nextDraw ∧
      (p 0x0014 0x400 (natLe 4 17)).head? (fun x => x = 0x0014) = some (tMsg 0x0014 0x400 (natLe 4 17)) ∧ u32 (natLe 4 17) 0 ≤ x.committed ∧
      0 < u32 (natLe 4 17) 0 ∧ (p 0x0014 0x400 (natLe 4 17)).freeKeep = some 0 ∧
      (p 0x0014 0x400 (natLe 4 17)).storeUsed + (x.leaves.take (leavesFor 17)).length ≤ storeSize ∧
      t.head? (fun x => x = 0x0015) = some r ∧ 4 ≤ r.payload.length ∧ t.keep? (BitVec.ofNat 32 (u32 r.payload 0)) = some k ∧
      (p 0x0012 0x800 []).session? 0x800 = none := by
  decide +kernel

theorem witness_DeviceMessages :
    let st := inState .standby
    let w := { st with forme := { tForme with startMode := 1 } }
    let a := tMsg 0x0026 0 (List.replicate 32 0)
    let r := tMsg 0x0030 0 ([0, 0, 0, 0] ++ natLe 4 1 ++ natLe 8 3 ++ natLe 4 1)
    let v := gets r (judging 1 false (inCue 0))
    let k := tMsg 0x0031 0 [15]
    let t := gets k ((inCue 0).modPress 15 fun p => { p with ran := true, traced := 256 })
    (gets (tMsg 0x0020 0 []) w).head? (fun x => x = 0x0020) = some (tMsg 0x0020 0 []) ∧ (gets (tMsg 0x0020 0 []) w).startWait = true ∧
      (gets (tMsg 0x0021 0 []) (inState .blank)).head? (fun x => x = 0x0021) = some (tMsg 0x0021 0 []) ∧ (inState .blank).dev.faultN = false ∧
      (gets (tMsg 0x0021 0 []) (inCue 0)).head? (fun x => x = 0x0021) = some (tMsg 0x0021 0 []) ∧ (inCue 0).dev.st.cues = true ∧
      (gets a (inCue 0)).head? (fun x => x = 0x0026) = some a ∧ 32 ≤ a.payload.length ∧
      v.head? (fun x => x = 0x0030) = some r ∧ v.running? = true ∧ 20 ≤ r.payload.length ∧ zeros r.payload 1 4 = true ∧
      (v.play? (u8 r.payload 0)).map Play.kind = some 0 ∧ u32 r.payload 4 = 1 ∧ (tTensor 2 4).kind = 2 ∧
      u64 r.payload 8 + u32 r.payload 16 ≤ (tTensor 2 4).size ∧ v.value? 0 1 (fun _ => true) = some (tValue 1 false) ∧
      t.head? (fun x => x = 0x0031) = some k ∧ u8 k.payload 0 = (15 : Fin 16).1 ∧ t.forme.tracing = true ∧ (t.press.get 15).ran = true ∧
      (gets (tMsg 0x0032 0 []) (inCue 0)).head? (fun x => x = 0x0032) = some (tMsg 0x0032 0 []) ∧
      (gets (tMsg 0x0032 0 []) (inCue 0)).versionOk (tMsg 0x0032 0 []) = true := by
  decide +kernel

/-- A pending update of two sections, the second in a state. -/
def updating (st : SecState) : State :=
  let s := inState .maintenance
  let x : Section := { kind := 6, index := 0, offset := 0x200000, length := 4097, digest := sha512 [] }
  { s with upd := { s.upd with active := true, sections := [x, x], states := [.needed, st], received := [0, 0] } }

theorem witness_UpdatesWriteAfterChecks_refused :
    let d := tMsg 0x0023 0 (List.replicate 8320 0)
    let e := gets d (inState .maintenance)
    e.head? (fun x => x = 0x0023) = some d ∧ e.versionOk d = true ∧ e.dev.st = .maintenance ∧ e.upd.active = false ∧ 4096 ≤ d.payload.length ∧
      dirLength d.payload + 4096 ≤ d.payload.length ∧
      checks1to4 e.fuses.settled e.ident.rootDigest (d.payload.take (dirLength d.payload)) (sub d.payload (dirLength d.payload) 4096) = some (4, 0) := by
  have hl : (List.replicate 8320 (0 : Byte)).length = 8320 := List.length_replicate ..
  have hd : dirLength (List.replicate 8320 (0 : Byte)) = 4096 := by decide +kernel
  refine ⟨gets_head _ _ _ (by decide +kernel), rfl, rfl, rfl, ?_, ?_, ?_⟩
  · show 4096 ≤ (List.replicate 8320 (0 : Byte)).length
    rw [hl]; omega
  · show dirLength (List.replicate 8320 (0 : Byte)) + 4096 ≤ (List.replicate 8320 (0 : Byte)).length
    rw [hl, hd]; omega
  · show checks1to4 _ _ ((List.replicate 8320 (0 : Byte)).take (dirLength (List.replicate 8320 (0 : Byte)))) _ = _
    have h : check1 ((List.replicate 8320 (0 : Byte)).take 4096) = false := by decide +kernel
    rw [hd]
    simp only [checks1to4, h, Bool.not_false, Bool.true_or, if_true]

theorem witness_UpdatesWriteAfterChecks_data :
    let u := tMsg 0x0024 0 ([1, 0, 0, 0, 0, 0, 0, 0] ++ natLe 8 0 ++ List.replicate 4096 1)
    let s := gets u (updating .needed)
    s.head? (fun x => x = 0x0024) = some u ∧ s.upd.active = true ∧ s.upd.states[u8 u.payload 0]? = some .needed ∧
      (s.upd.sections[u8 u.payload 0]?).map Section.length = some 4097 ∧ 16 ≤ u.payload.length ∧ zeros u.payload 1 8 = true ∧
      u64 u.payload 8 = s.upd.received.getD 1 0 ∧ 0 + (u.payload.length - 16) < 4097 ∧ (u.payload.length - 16) % 4096 = 0 := by
  have hl : ([1, 0, 0, 0, 0, 0, 0, 0] ++ natLe 8 0 ++ List.replicate 4096 (1 : Byte)).length = 4112 := by decide +kernel
  have h0 : u8 ([1, 0, 0, 0, 0, 0, 0, 0] ++ natLe 8 0 ++ List.replicate 4096 (1 : Byte)) 0 = 1 := by decide +kernel
  have h8 : u64 ([1, 0, 0, 0, 0, 0, 0, 0] ++ natLe 8 0 ++ List.replicate 4096 (1 : Byte)) 8 = 0 := by decide +kernel
  have hz : zeros ([1, 0, 0, 0, 0, 0, 0, 0] ++ natLe 8 0 ++ List.replicate 4096 (1 : Byte)) 1 8 = true := by decide +kernel
  refine ⟨gets_head _ _ _ (by decide +kernel), rfl, ?_, ?_, ?_, hz, h8, ?_, ?_⟩
  · show (updating .needed).upd.states[u8 ([1, 0, 0, 0, 0, 0, 0, 0] ++ natLe 8 0 ++ List.replicate 4096 (1 : Byte)) 0]? = _
    rw [h0]; rfl
  · show ((updating .needed).upd.sections[u8 ([1, 0, 0, 0, 0, 0, 0, 0] ++ natLe 8 0 ++ List.replicate 4096 (1 : Byte)) 0]?).map Section.length = _
    rw [h0]; rfl
  all_goals simp only [tMsg, hl]
  all_goals decide

theorem witness_UpdatesWriteAfterChecks_rest :
    let c := updating .candidate
    c.upd.active = true ∧ c.upd.states[(1 : Fin 256).1]? = some .candidate ∧ (c.upd.sections[(1 : Fin 256).1]?).isSome = true ∧
      (gets (tMsg 0x0022 0 []) (inState .maintenance)).head? (fun x => x = 0x0022) = some (tMsg 0x0022 0 []) ∧
      (gets (tMsg 0x0022 0 []) c).head? (fun x => x = 0x0022) = some (tMsg 0x0022 0 []) ∧
      c.upd.last + us 60000000 ≤ max c.now (us 60000000) ∧ max c.now (us 60000000 - 1) < c.upd.last + us 60000000 ∧
      (inState .maintenance).upd.active = false := by
  decide +kernel

/-- A section of one zero byte with a given digest. -/
def tSection (d : List Byte) : Section := { kind := 6, index := 0, offset := 0x200000, length := 1, digest := d }

theorem tSection_hash (d e : List Byte) (u : List Host.Cell) : (tSection d).hash u = (tSection e).hash u := by
  simp only [Section.hash, Section.chunks, tSection]

theorem witness_UpdatesWriteAfterChecks_kept : ∃ (s : State) (x y : Section) (u : List Host.Cell),
    s.upd.states[(1 : Fin 256).1]? = some .candidate ∧ s.upd.sections[(1 : Fin 256).1]? = some x ∧ s.upd.active = true ∧
      s.ufs = u ∧ x.hash u = x.digest ∧ y.hash u ≠ y.digest ∧
      (∃ j y, j ≠ (1 : Fin 256).1 ∧ s.upd.states[j]? = some y ∧ y ≠ .kept ∧ y ≠ .written) := by
  obtain ⟨x, hx⟩ : ∃ x, x = tSection ((tSection []).hash (updating .candidate).ufs) := ⟨_, rfl⟩
  refine ⟨{ updating .candidate with upd := { (updating .candidate).upd with sections := [x, x] } }, x, tSection [],
    (updating .candidate).ufs, rfl, rfl, rfl, rfl, ?_, fun h => ?_, ⟨0, .needed, by decide, rfl, by decide, by decide⟩⟩
  · rw [hx, tSection_hash _ []]
    generalize (tSection []).hash (updating .candidate).ufs = d
    rfl
  · have := congrArg List.length h
    rw [Section.hash, sha512_length] at this
    exact absurd this (by decide)

theorem witness_CurtainWaveform :
    let s := { goodCue with cur := { goodCue.cur with running := true } }
    s.chip.powered = true ∧ s.chip.resetN = false ∧ s.cur.running = true ∧ goodCue.cur.running = false ∧
      goes (.publishDeadline (us 9000)) goodCue = true ∧ (after (.publishDeadline (us 9000)) goodCue).cur.running = true ∧
      curtainWave 24 ≠ (false, false) ∧ curtainWave 49 ≠ (false, false) := by
  decide +kernel

/-! ### Ill-formed commands are refused -/

theorem test_wf_cmd53_register_count : (Instr.cmd53F1 0 0 0 none).wf = false ∧ (Instr.cmd53F1 0 0 513 none).wf = false ∧
    (Instr.cmd53F1 0 0 512 none).wf = true := by decide

theorem test_wf_cmd53_register_bytes : (Instr.cmd53F1 0 0 4 (some [0])).wf = false ∧ (Instr.cmd53F1 0 0 1 (some [0])).wf = true := by decide

theorem test_wf_cmd53_other : (Instr.cmd53F0 0 0 true false 0 2 [0]).wf = false ∧ (Instr.cmd53F0 0 0 true false 0 0 []).wf = false ∧
    (Instr.cmd53F0 0 0 false true (2 ^ 17) 1 []).wf = false ∧ (Instr.cmd53F0 0 0 true false 0 1 [0]).wf = true := by decide

theorem test_wf_block_sizes : (Instr.f2BlockWrite 0 true [0]).wf = false ∧ (Instr.f3BlockRead 0 0).wf = false ∧
    (Instr.f3BlockRead 0 512).wf = false ∧ (Instr.f3BlockRead 0 511).wf = true ∧
    (Instr.fabricBlockReceive 0 0 0 [0] 0 0 none).wf = false := by decide

theorem test_wf_camera_packets : (Instr.csi2FrameStart 0 0 4 0 0 .clean).wf = false ∧ (Instr.csi2FrameStart 0 0 3 4 0 .clean).wf = false ∧
    (Instr.csi2FrameEnd 0 0 0 0 65536 .clean).wf = false ∧ (Instr.csi2LongPacket 0 0 0 0 0x0F .clean true []).wf = false ∧
    (Instr.csi2LongPacket 0 0 0 0 0x40 .clean true []).wf = false ∧ (Instr.csi2LongPacket 0 0 0 0 0x2A .clean true []).wf = true ∧
    (Instr.csi2LineOrGenericShortPacket 0 0 0 0 0x10 .clean).wf = false ∧ (Instr.csi2LineOrGenericShortPacket 0 0 0 0 1 .clean).wf = false := by
  decide

theorem test_wf_other : (Instr.ethernetFrame 0 0 [] true 0).wf = false ∧ (Instr.thermalSample 0 []).wf = false ∧
    (Instr.jtagDebugInstruction 0 3).wf = false ∧ (Instr.sceneAdmission 0 (.scene { tKey 0 0 1 with play := 32 } [])).wf = false ∧
    (Instr.sceneAdmission 0 (.scene (tKey 0 0 1) [{ tensor := 0, off := 0, play := 2 ^ 48, dev := 0, len := 1 }])).wf = false := by decide

/-- No row of the table gives bits, so no word spells a command. -/
theorem test_no_table_words : decodeTableWord 0 0 = none ∧ decodeTableWord 16 7 = none ∧ State.reset.withFetchWord 0 0 = State.reset := by
  exact ⟨rfl, rfl, rfl⟩

/-! ### The manual's worked examples -/

/-- R147's example: exp(0.5) is 0x3FD3094C. -/
theorem test_exp_half : f32exp 0x3F000000 = 0x3FD3094C := by decide +kernel

/-- R127's example: byte 0xA7 holds the digits 2, 1, 0, 0, 2. -/
theorem test_t64_byte : (t64Digits (0xA7 :: List.replicate 12 0)).map (fun l => (l.take 5).map t64Code) = some [3, 1, 0, 0, 3] := by
  decide +kernel

/-- R193's example at rate 3: 5.5, −0.75 and 0.1 code as 6, 9 and 0 under scale byte 0x7E; 5.0, −0.5 and 0 come back. -/
theorem test_halftone_rate3 :
    let b := htPackBlock 3 ([0x40B00000, 0xBF400000, 0x3DCCCCCD] ++ List.replicate 61 0)
    b.length = 33 ∧ b.take 2 = [0x96, 0x00] ∧ b.getD 32 0 = 0x7E ∧ (htUnpackBlock 3 b).take 3 = [0x40A00000, 0xBF000000, 0] := by
  decide +kernel

/-- R86's example: type 1 at 1,920 × 1,088 holds 48,960 blocks. -/
theorem test_jpeg_blocks : jpegBlocks 1 1920 1088 = 48960 := by decide

/-- The host port's example: header bytes 0 to 11 of SESSION_OPEN, sequence 0x0213, with 60 bytes of payload. -/
theorem test_message_header : (message 1 0x0010 0x0213 0 (List.replicate 60 0)).take 12 =
    [0x01, 0x10, 0x00, 0x3C, 0x00, 0x00, 0x13, 0x02, 0x00, 0x00, 0x00, 0x00] := by decide +kernel

/-- The same example: a queued SESSION_INPUT of 168 payload bytes takes one block, a RESULT of 56 payload bytes too. -/
theorem test_message_blocks : msgBlocks (message 1 0x0011 0x0214 0x409 (List.replicate 168 0)) = 1 ∧
    msgBlocks (message 1 0x8101 0 0 (List.replicate 56 0)) = 1 := by decide +kernel

/-- FIPS 180-4's example: SHA-512 of "abc" begins ddaf35a193617aba (R394). -/
theorem test_sha512_abc : (sha512 [0x61, 0x62, 0x63]).take 8 = [0xDD, 0xAF, 0x35, 0xA1, 0x93, 0x61, 0x7A, 0xBA] := by decide +kernel

/-- The check value of the CRC-32 of R89 over "123456789". -/
theorem test_crc32_check : crc32 [0x31, 0x32, 0x33, 0x34, 0x35, 0x36, 0x37, 0x38, 0x39] = 0xCBF43926 := by decide +kernel

/-- R319 by hand: 2^24 + 1 + 1 added one at a time in FP32 stays 2^24, and a bias of −2^24 added last gives 0. -/
theorem test_core_dot : coreDot [(0x45800000, 0x45800000), (0x3F800000, 0x3F800000), (0x3F800000, 0x3F800000)] none = 0x4B800000 ∧
    coreDot [(0x45800000, 0x45800000), (0x3F800000, 0x3F800000)] (some 0xCB800000) = 0 := by decide +kernel

/-- The weight of R170's example, smaller: MXFP4 with scale byte 0x7C, B_LAYOUT 1, ACT_SCALE_CEIL 3. -/
def tMxWeight : Tensor := { tTensor 3 64 with format := fMx4, rank := 2, dims := [2, 32] }
def tMatmulView (w : Tensor) : NodeView :=
  { n := { op := 0x0101, ins := [0, 1], outs := [2], attrs := [⟨4, 1, [1]⟩, ⟨2, 1, [3]⟩], hint := 0xFFFF, name := 0xFFFF, ok := true }
    ins := [some { tTensor 2 64 with format := fMx4, rank := 2, dims := [3, 32] }, some w]
    outs := [{ tTensor 2 64 with format := fFp32, rank := 2, dims := [3, 2] }] }

/-- R170's example: WIN_EXP is 3 − 3 + 11 − 87 = −76, and the play is accepted; a weight of another K is refused. -/
theorem test_window_exponent : winExp (fun _ => List.replicate 64 0 ++ [0x7C, 0x70]) (tMatmulView tMxWeight) = some (-76) ∧
    nodeShapeOk (fun _ => List.replicate 64 0 ++ [0x7C, 0x70]) (tMatmulView tMxWeight) = true ∧
    nodeShapeOk (fun _ => []) (tMatmulView { tMxWeight with dims := [2, 64] }) = false := by decide +kernel

/-- R175's example: dilations of 1,000 and pads of 1,000 on every side keep a 64 × 64 map at 64 × 64. -/
theorem test_dilated_size : NodeView.outHW { tMatmulView tMxWeight with n := { (tMatmulView tMxWeight).n with
    attrs := [⟨0x21, 1, [1000, 1000]⟩, ⟨0x22, 1, [1000, 1000, 1000, 1000]⟩] } } 64 64 3 3 = some (64, 64) := by decide +kernel

/-! ### States that meet the remaining clauses -/

/-- A restoration whose UFS command has failed three times. -/
def restoreFails : State :=
  let s := inCue 0
  { s with dev := { s.dev with ufsRetry := 3 }, mem := { s.mem with restore := [{ play := 2, sect := 0, page := 0, vpage := 0 }] } }

theorem witness_LoadingReadsAndTimeouts_rest :
    restoreFails.ufsBusy = true ∧ restoreFails.dev.ufsAt + us 100000 ≤ (restoreFails.at (us 100000)).now ∧ 3 ≤ restoreFails.dev.ufsRetry ∧
      restoreFails.dev.st ≠ .loading ∧ restoreFails.upd.active = false ∧ restoreFails.mem.restore ≠ [] ∧
      (restoreFails.at (us 100000 - 1)).now < restoreFails.dev.ufsAt + us 100000 ∧
      (let s := loads .sections
       let e := { s with dev := { s.dev with load := { s.dev.load with next := 1 } } }
       (loadOrder e.dev.load.sections)[e.dev.load.next]? = none) := by
  decide +kernel

/-- A failing digest of check 6 is the first failure; that no check fails hangs on the free lowering of assumption 32. -/
theorem witness_LoadingJudged_failure (rep : LoadReport) :
    let s := loads .judge
    let b := { s with dev := { s.dev with load := { s.dev.load with bad6 := some 0 } } }
    b.loadFailure rep = some (0x08, 0, 0, []) := rfl

/-- A comparison whose operand's block is poisoned. -/
def poisonedOperand (rep : Bool) (s : State) : State :=
  let b : BufReq := { tensor := 1, off := 0, play := 0x200000, dev := galleyBase, len := 1 }
  let j := judging 1 rep s
  { j with sched := { j.sched with values := [{ tValue 1 rep with bufs := [b] }] }, mem := { j.mem with poison := [galleyBase] } }

theorem witness_VerdictsOfComparator_poison :
    (let s := poisonedOperand false (inCue 7000)
     s.cue.compStarted = true ∧ s.cue.compDone = false ∧ s.cue.late = false ∧ operandLost s s.cue.count.toNat false = true) ∧
      operandLost (judging 1 false (inCue 7000)) 5 false = false ∧
      (let s := withInsts [tRepeat .committed] (poisonedOperand true (inCue 7000))
       let t := { s with cls := [tClassif], cue := { s.cue with count := 6 } }
       operandLost t tClassif.cue true = true) ∧
      operandLost (classifying 1 .committed) tClassif.cue true = false := by
  decide +kernel

theorem witness_PublishDeadlines_poison :
    let p := tPlay 0 0 0
    let s := poisonedOperand false goodCue
    let t := { s with forme := { s.forme with plays := [{ p with tensors := [tTensor 0 4, { tTensor 2 4 with safety := true }] }] } }
    t.judged = true ∧ t.cue.published = false ∧ us t.forme.sheet.publish ≤ (t.at 0).off ∧
      (∃ v ∈ t.sched.values, t.safetyOut v.play v.tensor = true ∧ v.run = t.cue.count.toNat ∧ v.rep = false ∧
        (t.lostPart v 0 v.bytes.length).isSome = true) ∧
      ∀ v ∈ goodCue.sched.values, goodCue.safetyOut v.play v.tensor = true → goodCue.lostPart v 0 v.bytes.length = none := by
  decide +kernel

theorem witness_ReRigAttemptsAndChecks_port :
    let b := setUnit (.port 5) (fun r => { r with mode := .reRigging, checks := [.third] }) (inCue 0)
    (b.unit (.port 5)).mode = .reRigging ∧ (b.unit (.port 5)).checks = .third :: [] ∧ b.declares 5 = false ∧
      ((inCue 0).unit (.port 5)).checks.head? ≠ some .third := by
  decide +kernel

theorem witness_RehearsalSlices_rest :
    let s := slicing (.unit (.press 0)) (inCue 1995)
    let r := setUnit (.press 15) (fun r => { r with mode := .reRigging, checks := [.rehearsal] }) (slicing (.unit (.press 15)) (inCue 0))
    let d := slicing .decoder (inCue 0)
    (s.at 0).windowDue (.unit (.press 0)) = true ∧ ((inCue 7000).at 0).windowDue (.unit (.press 0)) = false ∧
      (∃ x ∈ r.sched.slices, x.unit = .unit (.press 15)) ∧ (r.unit (.press 15)).mode = .reRigging ∧
      (r.unit (.press 15)).checks.head? = some .rehearsal ∧ (∃ x ∈ d.sched.slices, x.unit = .decoder) ∧
      (∃ m ∈ d.served .decoder, d.inServ (.port m) = true) := by
  decide +kernel

/-- Presses 1 to 15 have passed their proof pass, or failed item 8 on sector 3. -/
def passing (n : Nat) (s : State) : State :=
  (allPresses.drop 1).foldl (fun s p => setUnit (.press p)
    (fun r => if p.1 ≤ n then { r with proofFail := [3] } else { r with proof := some true }) s) s

theorem witness_ProofPasses_sectors :
    let mark := fun (s : State) => (s.at 0).modUnit (.press 0) fun r => { r with proofFail := [3] }
    (inCue 10).cls = [] ∧ (inCue 10).proving (proofUnit (.press 0)) = true ∧ (mark (inCue 10)).pressesReported = false ∧
      (passing 1 (inCue 10)).proving (proofUnit (.press 0)) = true ∧ (mark (passing 1 (inCue 10))).pressesReported = true ∧
      (mark (passing 1 (inCue 10))).sectorRig 3 = false ∧
      2 ≤ (allPresses.filter fun q => (mark (passing 1 (inCue 10))).inServ (.press q) &&
        decide ((3 : Fin 16) ∈ ((mark (passing 1 (inCue 10))).unit (.press q)).proofFail)).length ∧
      ((inCue 10).at 0).off < us 40 ∧ (setUnit (.press 0) (fun r => { r with mode := .struck }) (inCue 10)).proving (proofUnit (.press 0)) = false := by
  decide +kernel

theorem witness_GovernorAndRegulators_rest :
    let o : Owed := { press := 0, id := 0, dev := stackBase 0, fill := false }
    let w := { inCue 0 with part := vmod (inCue 0).part 2 fun r => { r with owed := [o], bucket := 64 } }
    let r := { tTracker 7 (some 2) with dev := stackBase 1 }
    let s := { withTrackers [r] cogRun with mem := { (withTrackers [r] cogRun).mem with retrain := [1] } }
    (w.part.get 2).owed = o :: [] ∧ o.id = 0 ∧ (0 : Int) < min ((w.part.get 2).bucket + ((10 : Nat) : Int)) ((100 : Nat) : Int) ∧
      (1 : Fin 2) ∈ s.mem.retrain ∧ covers (.stack 1) (region r.dev) = true ∧ r.waits = false := by
  decide +kernel

theorem witness_StepsForm_rest :
    let s := withSess (tSess .queued) (inCue 7000)
    let full := fun (p : Play) => { p with low := { p.low with stepNeed := 9 } }
    let n := { s with forme := { s.forme with plays := s.forme.plays.map full } }
    let f := (formRows (n.limits 2) ((inCue 7000).queued 2) { rows := [], used := 0, short := false, left := none } ((inCue 7000).at 0)).1
    f.rows = [] ∧ ((n.play? 2).map fun p => n.stackRoom p) = some false ∧ n.queued 2 ≠ [] ∧ (0x0509, 2) ∉ n.log.once ∧
      (inCue 7000).gov.stopped = false := by
  decide +kernel

/-- A leaf move of the cognition play, its one part retired. -/
def tMove : Inst := { tInst 2 kindMove 1 .running [.press 2] with partsDone := [0], key := tKey 2 moveBase 1 }

theorem witness_ScenesCommit_rest :
    let m := withInsts [tMove] (inCue 10000)
    let f := { m with cog := { m.cog with moves := [(0, 2, 3, none)] } }
    m.inst? tMove.key = some tMove ∧ tMove.asked = true ∧ tMove.kind = kindMove ∧ m.moveDone tMove = false ∧ f.moveDone tMove = true ∧
      (f.play? tMove.key.play).isSome = true := by
  decide +kernel

/-- Play 2 with a copy container of 64 zero bytes, whose instance waits for its lowering. -/
def relowering (copies : List (Nat × Nat)) : State :=
  let i := { tInst 2 2 1 .ready [] with relower := true }
  let s := withInsts [i] (inCue 10000)
  { s with forme := { s.forme with copies := copies, copyRecs := [(2, [[1]])], sections := [⟨5, 2, 0x200000, 64, []⟩] } }

theorem witness_SceneTimeouts_rest :
    let h := cogRun.at (us 10100)
    let e := relowering [(2, galleyBase)]
    let recs := ((e.forme.copyRecs.find? fun e => e.1 = 2).map Prod.snd).getD []
    h.seqStuck 2 7 = true ∧ cogRun.inServ (.press 2) = true ∧ (cogRun.at 0).seqStuck 3 7 = false ∧
      ((relowering []).inst? (tKey 2 0 1)).any Inst.relower = true ∧ (relowering []).copySound 2 = true ∧
      (e.inst? (tKey 2 0 1)).any Inst.relower = true ∧ e.copySound 2 = false ∧ e.forme.copies.find? (fun c => c.1 = 2) = some (2, galleyBase) ∧
      findSection e.forme.sections 5 2 = some ⟨5, 2, 0x200000, 64, []⟩ ∧ recs = [[1]] ∧
      (cogRun.inst? (tKey 2 0 1)).any Inst.relower = false := by
  decide +kernel

theorem witness_PressesIssue_rest :
    let i := tInst 2 2 1 .running [.press 2]
    let a := { i with faultIdx := some (7, 1) }
    let b := { i with faultIdx := some (7, 2) }
    let w := waitHand 2 (pressOp 0).sth .drainEmpty cogRun
    (cogRun.at 0).mayIssue 2 (pressOp 0).sth 7 (.press 0) = true ∧ (w.at 0).mayIssue 2 (pressOp 0).sth 7 (.press 0) = false ∧
      (withInsts [a] cogRun).runOn 2 = some a ∧ (withInsts [b] cogRun).runOn 2 = some b ∧ a.faultIdx = some (7, 1) ∧ b.faultIdx = some (7, 2) := by
  decide +kernel

theorem witness_RepeatsTilesDrains_rest :
    let r := onPress2 fun p => { p with rep := some tRep, live := some tTile }
    (r.runOn 2).isSome = true ∧ loadFails [3, 3] = true ∧ loadFails [3] = false ∧ (cogRun.press.get 2).rep = none ∧
      (cogRun.press.get 2).shadow = none ∧ (cogRun.press.get 2).cur = none ∧ (cogRun.unit (.press 2)).recent.length < 7 ∧ ¬(8128 + 63 < 8191) := by
  decide +kernel

/-- A striped scene on presses 2 and 3: part 0 computes the bottom band of tensor 1, two rows of it. -/
def striped : State :=
  let i := tInst 2 2 1 .running [.press 2, .press 3]
  let p := tPlay 2 2 2
  let s := withInsts [i] (inCue 10000)
  { s with forme := { s.forme with plays := [{ p with low := { p.low with
      scenes := [{ tScene with width := 2, bands := [{ tensor := 1, part := 0, bottom := true, rows := 2 }] }] } }] } }

theorem witness_PressFaultsAndBands_rest :
    let i := tInst 2 2 1 .running [.press 2, .press 3]
    let c := onPress2 fun r => { r with comps := Vector.replicate 2 (some 0), compAt := Vector.replicate 2 (us 10000) }
    (c.at (us 10050)).compStuck 2 1 = true ∧ (c.at (us 10049)).compStuck 2 1 = false ∧ c.runOn 2 = some (tInst 2 2 1 .running [.press 2]) ∧
      striped.runOn 2 = some i ∧ (striped.at 0).rowDone i 2 1 true 0 = true ∧ (striped.at 0).rowDone i 2 1 true 1 = false ∧
      i.neighbour 2 true = some 3 := by
  decide +kernel

/-- The cognition play's page 0 is mapped and cached on press 2. -/
def cached (rd wr : Bool) (s : State) : State :=
  let m := mapped rd wr s
  { m with mem := { m.mem with tcache := [(2, { play := 2, page := 0, pte := mkPte rd wr 2 0 32767 galleyBase, locked := false })] } }

theorem witness_VectorOperations_rest :
    let i := tInst 2 2 1 .running [.press 2]
    let m := tMicro [.lit [0]]
    let x := tMicro [.mem 64 fFp32 1]
    let b := { tMicro [.drain 15 1, .drain 14 1] with op := .rawAdd }
    let r := onPress2 fun p => { p with drainQ := [(15, [(2 ^ 112, fRaw)]), (14, [(0, fRaw)])] }
    let bs := (x.srcs.flatMap memBlocks).dedup
    (cogRun.at 0).mayIssue 2 7 0 (.vector m) = true ∧ poolBlocks i m (cogRun.at 0) = ([], []) ∧ (m.srcs.flatMap memBlocks).dedup = [] ∧
      memOperands 2 0 7 i [] (cogRun.at 0) = none ∧ poolWait 2 0 7 i [] [] (cogRun.at 0) = none ∧
      (vecRun i m (m.srcs.map (cogRun.vecSrc 2 2)) cogRun).isSome = true ∧
      (vecRun i b (b.srcs.map (r.vecSrc 2 2)) r).isSome = false ∧ ((waitHand 2 7 .drainEmpty cogRun).at 0).mayIssue 2 7 0 (.vector m) = false ∧
      (∃ g ∈ pagesAt bs, cogRun.pageReady 2 2 g = false) ∧ (∀ g ∈ pagesAt bs, (cached true true cogRun).pageReady 2 2 g = true) ∧
      (memOperands 2 0 7 i bs ((cached true true cogRun).at 0)).isSome = true ∧ microInScratch m 8192 = true ∧
      microInScratch { m with dst := 513 } 512 = false ∧ microInScratch (tMicro [.case 511 fFp32 257]) 512 = false := by
  decide +kernel

theorem witness_CompositorsMoveBlocks_rest :
    let i := tInst 2 2 1 .running [.press 2]
    let j := tInst 2 2 1 .running [.press 2, .press 3]
    let s := cached true true cogRun
    let own := { i with bufs := [{ tensor := 1, off := 0, play := 0, dev := galleyBase, len := 128 }] }
    let o := withInsts [own] s
    let f := CompOp.lines 0 1 0
    let bs := (compBlocks (fillLines (s.playByte 2) f) f).1
    let x := xferOp (xferWord 64)
    let p := { s with mem := { s.mem with poison := [galleyBase] } }
    (cogRun.at 0).mayIssue 2 7 0 (.compositor 1 none f) = true ∧ (cogRun.at 0).mayIssue 2 x.sth 0 (.xfer (xferWord 64)) = true ∧ cogRun.compWait 2 2 bs = some .walk ∧ s.compWait 2 2 bs = none ∧ s.runFaults i false bs = none ∧
      s.poisonedIn 2 bs = none ∧ (p.poisonedIn 2 bs).isSome = true ∧ s.runFaults i true bs = some 1 ∧ o.runFaults own true bs = none ∧
      striped.bandRow j 3 (1, true, 1) = true ∧ striped.bandRow j 3 (1, true, 2) = false ∧ striped.bandReady j 3 (1, true, 1) = false ∧
      xferIllegal x = false ∧ o.compWait 2 2 (blockRange x.src x.len ++ blockRange x.dst x.len) = none ∧
      cogRun.compWait 2 2 (blockRange x.src x.len ++ blockRange x.dst x.len) = some .walk ∧
      o.runFaults own false (blockRange x.src x.len) = none ∧ o.runFaults own true (blockRange x.dst x.len) = none ∧
      o.poisonedIn 2 (blockRange x.src x.len) = none ∧ (p.poisonedIn 2 (blockRange x.src x.len)).isSome = true ∧
      s.runFaults i true (blockRange x.dst x.len) = some 1 ∧ cogRun.runFaults i false (blockRange x.src x.len) = some 0 ∧
      inScratch 8192 (fillLines (s.playByte 2) f) f = true ∧ inScratch 512 (fillLines (s.playByte 2) (.lines 0 1 512)) (.lines 0 1 512) = false ∧
      inScratch 512 [] (.store 0 17 511) = false ∧
      (let c := onPress2 fun r => { r with comps := Vector.replicate 2 (some (xferWord 64)) }
       (c.press.get 2).comps.get 1 = some (xferWord 64) ∧ xferWord 64 ≠ 0 ∧ c.moving 2 (Fin.ofNat 3 (1 + (1 : Fin 2).1)) = false ∧
         (withTrackers [{ tTracker 7 (some 2) with pool := 2 }] c).moving 2 (Fin.ofNat 3 (1 + (1 : Fin 2).1)) = true) := by
  decide +kernel

theorem witness_BlocksResentOrLost_rest :
    let s := { cogRun with mem := { cogRun.mem with poison := [64], retrain := [1] } }
    blockCrc (List.replicate 64 0) 64 ≠ blockCrc (List.replicate 64 0) 64 + 1 ∧ s.poisoned 64 = true ∧ (none : Option (Fin 16)).bind s.runOn = none ∧
      (some (2 : Fin 16)).bind s.runOn = some (tInst 2 2 1 .running [.press 2]) ∧ (1 : Fin 2) ∈ s.mem.retrain ∧ (0 : Fin 2) ∉ s.mem.retrain ∧
      cogRun.poisoned 64 = false := by
  decide +kernel

theorem witness_MemoryUpkeep_rest :
    let s := restoring [] (inCue 0)
    let b := { s with dev := { s.dev with bare := true } }
    let e := mkPte true false 2 0 32767 galleyBase
    let n := { s with mem := { s.mem with l2 := [((2, 0), mkPte true false 2 0 32767 (caseBase 0))] } }
    b.dev.bare = true ∧ s.mem.restore ≠ [] ∧ s.dev.bare = false ∧ s.pte? 2 0 = some e ∧ (s.freshPage (pteDev e)).isSome = true ∧
      s.pageRec 0 0 = some [] ∧ (s.pageRec 0 0 ≠ some ((sha512 (s.pageBytes 0 0)).take 8)) ∧
      n.pte? 2 0 = some (mkPte true false 2 0 32767 (caseBase 0)) ∧ n.freshPage (pteDev (mkPte true false 2 0 32767 (caseBase 0))) = none := by
  decide +kernel

theorem witness_CameraPackets_header :
    let o := withStream 0 (fun r => { r with frame := some (tFrame false []) }) (inCue 0)
    o.camLive 0 = true ∧ o.stream 0 = some (tStream 0 0 0x2A false) ∧ (tStream 0 0 0x2A false).kind ≤ 1 ∧
      (tStream 0 0 0x2A false).port = (0 : Fin 16).1 ∧ (o.ing.streams.get 0).frame = some (tFrame false []) ∧ (tFrame false []).bad = false := by
  decide +kernel

/-- One MCU of 4:2:2: four blocks of DC difference 0 and an end of block, padded with ones (R68, R70). -/
def tMcu : List Byte := [0x28, 0xA0, 0x0F]

theorem witness_EthernetDecodesSamples_images :
    let s := { inCue 0 with cue := { (inCue 0).cue with running := false } }
    s.onKey 0 0x0100000A 2368 ≠ [] ∧ s.cue.running = false ∧ (inCue 0).cue.running = true ∧
      (jpegDecode { tJob with bytes := tMcu }).isSome = true ∧ (jpegDecode { tJob with bytes := [0x28] }).isSome = false := by
  decide +kernel

/-- SESSION_OPEN of play 2 from `pre` positions of a parent. -/
def openFrom (parent : Nat) (pre : Nat) : List Byte := [2] ++ List.replicate 11 0 ++ natLe 4 parent ++ natLe 4 pre ++ List.replicate 40 0

/-- A queued session of 17 positions on the given leaves. -/
def longSess (leaves : List Nat) : Session := { tSess .queued with committed := 17, leaves := leaves }

theorem witness_SessionMessages_parent :
    let s := fun (p : List Byte) => gets (tMsg 0x0010 0 p) (withSess (longSess [0, 1]) (pooled (inCue 0)))
    openOk (s [2]) [2] = false ∧ openOk (s (openFrom 0x800 16)) (openFrom 0x800 16) = true ∧
      (s (openFrom 0x800 16)).parentOf (readOpen (openFrom 0x800 16)) = none ∧
      (s (openFrom 0x400 16)).parentOf (readOpen (openFrom 0x400 16)) = some (2, [0, 1], 17) ∧
      (readOpen (openFrom 0x400 16)).parent ≠ 0 ∧ (readOpen (openFrom 0x400 16)).play = 2 ∧ 0 < (readOpen (openFrom 0x400 16)).pre ∧
      (readOpen (openFrom 0x400 16)).pre ≤ 17 ∧ 17 < (readOpen (openFrom 0x400 18)).pre ∧ (s (openFrom 0x400 16)).freeSlot = some 1 ∧
      (s (openFrom 0x400 16)).storeUsed + ([0, 1].take (leavesFor 16)).length ≤ storeSize := by
  decide +kernel

theorem witness_SessionMessages_store (l : List Nat) (h : l.length = storeSize) :
    let x := longSess l
    let s := withSess x (pooled (inCue 0))
    s.cog.sess = [x] ∧ storeSize < s.storeUsed + (x.leaves.take (leavesFor 16)).length ∧ 0 < 16 ∧ 16 ≤ x.committed := by
  refine ⟨rfl, ?_, by decide, (by decide : 16 ≤ 17)⟩
  change storeSize < l.length + 0 + 0 + (l.take 1).length
  rw [List.length_take, h]
  decide

theorem witness_SessionMessages_store_leaves : (List.replicate storeSize 0 : List Nat).length = storeSize := List.length_replicate

theorem witness_SessionMessages_limits :
    let s := withSess (longSess [0, 1]) (pooled (inCue 0))
    let f := { longSess [0, 1] with full := true }
    inputOk (s.extraRows 2) inputRec = true ∧ inputOk (s.extraRows 2) [] = false ∧ f.full = true ∧ (longSess [0, 1]).full = false ∧
      (s.limits 2).pmax < 63 + (longSess [0, 1]).pending + 0 + (readInput (s.extraRows 2) inputRec).tokens.length ∧
      ([] : List Byte).length < 4 ∧ (longSess [0, 1]).nextDraw < u32 (natLe 4 20) 0 ∧ (longSess [0, 1]).committed < u32 (natLe 4 18) 0 ∧
      s.keep? (BitVec.ofNat 32 (u32 (natLe 4 7) 0)) = none := by
  decide +kernel

/-- TENSOR_READ of 1 byte of tensor 1 of a play. -/
def readRec (play off len : Nat) : List Byte := natLe 1 play ++ [0, 0, 0] ++ natLe 4 1 ++ natLe 8 off ++ natLe 4 len

theorem witness_DeviceMessages_reads :
    let s := judging 1 false (inCue 0)
    let p := poisonedOperand false (inCue 0)
    s.running? = true ∧ 20 ≤ (readRec 0 0 1).length ∧ zeros (readRec 0 0 1) 1 4 = true ∧
      (s.play? (u8 (readRec 0 0 1) 0)).map Play.kind = some 0 ∧
      (s.play? (u8 (readRec 0 0 1) 0)).map (fun q => (q.tensors[u32 (readRec 0 0 1) 4]?).map Tensor.kind) = some (some 2) ∧
      s.tensorValue 0 1 2 = some (tValue 1 false) ∧ s.lostPart (tValue 1 false) 0 1 = none ∧ (inCue 0).tensorValue 0 1 2 = none ∧
      (p.tensorValue 0 1 2).isSome = true ∧ ((p.tensorValue 0 1 2).bind fun v => p.lostPart v 0 1).isSome = true ∧
      (readRec 0 0 262097).length = 20 ∧ 262096 < u32 (readRec 0 0 262097) 16 ∧ s.play? (u8 (readRec 9 0 1) 0) = none ∧
      4 < u64 (readRec 0 5 1) 8 + u32 (readRec 0 5 1) 16 := by
  decide +kernel

theorem witness_DeviceMessages_trace :
    let u := { inCue 0 with forme := { tForme with tracing := false } }
    u.running? = true ∧ u.forme.tracing = false ∧ ((inCue 0).press.get 15).ran = false ∧ 16 ≤ u8 [16] 0 ∧ ([] : List Byte).length < 32 := by
  decide +kernel

/-- The candidate is the last section of the update, under a colophon of a slot. -/
def lastCandidate (colophon : List Byte) : State :=
  let s := updating .candidate
  { s with upd := { s.upd with states := [.kept, .candidate], colophon := colophon }, ident := { s.ident with rootDigest := sha512 idKey } }

theorem witness_UpdatesWriteAfterChecks_completion :
    let s := lastCandidate (List.replicate 80 0 ++ idKey)
    let f := lastCandidate [0, 0, 0, 0, 0, 0, 0, 0, 9]
    (∀ j y, j ≠ (1 : Fin 256).1 → s.upd.states[j]? = some y → y = .kept ∨ y = .written) ∧ s.upd.active = true ∧
      (keyAccepted s.fuses.settled s.ident.rootDigest (u8 s.upd.colophon 8) (sub s.upd.colophon 80 32) &&
        decide (s.fuses.settled.rollback ≤ (readHeader s.upd.dir).rollback)) = true ∧
      (keyAccepted f.fuses.settled f.ident.rootDigest (u8 f.upd.colophon 8) (sub f.upd.colophon 80 32) &&
        decide (f.fuses.settled.rollback ≤ (readHeader f.upd.dir).rollback)) = false := by
  refine ⟨fun j y hj hy => ?_, rfl, ?_, ?_⟩
  · match j, hj, hy with
    | 0, _, hy => exact .inl (Option.some.inj hy).symm
    | 1, hj, _ => exact absurd rfl hj
    | j + 2, _, hy => exact absurd hy (by simp [lastCandidate])
  · have : sub (List.replicate 80 (0 : Byte) ++ idKey) 80 32 = idKey := by decide +kernel
    have h8 : u8 (List.replicate 80 (0 : Byte) ++ idKey) 8 = 0 := by decide +kernel
    simp only [lastCandidate, this, h8, keyAccepted, if_true, decide_true, Bool.true_and]
    decide +kernel
  · decide +kernel

theorem witness_UpdatesWriteAfterChecks_turnedAway :
    (updating .needed).upd.active = true ∧ (updating .needed).upd.sections[7]? = none ∧ (updating .candidate).upd.states[1]? ≠ some .needed ∧
      ([] : List Byte).length < 16 ∧ (inState .maintenance).upd.active = false := by
  decide +kernel

/-! ### States that meet the clauses on units, time and requests -/

theorem witness_LoadingReadsAndTimeouts_firmware :
    let x : Section := { kind := 7, index := 0, offset := 0x200000, length := 0x80001, digest := [] }
    let s := loads .firmware
    let l := { s with dev := { s.dev with load := { s.dev.load with sections := [x] } } }
    l.dev.st = .loading ∧ l.dev.load.phase = .firmware ∧
      l.dev.load.pos + 0x80000 < ((findSection l.dev.load.sections 7 0).map Section.length).getD 0 ∧
      ¬(s.dev.load.pos + 0x80000 < ((findSection s.dev.load.sections 7 0).map Section.length).getD 0) := by
  decide +kernel

theorem witness_LoadingJudged_rehearsed :
    let s := loads .judge
    let r := { s with units := s.units.map fun (u : UnitRec) => { u with rehearsed := true }, sched := { s.sched with ctlRehearsed := List.finRange 13 } }
    s.rehearsedAll = false ∧ r.rehearsedAll = true ∧ r.dev.st = .loading ∧ r.dev.load.phase = .judge := by
  decide +kernel

theorem witness_HeldInReset :
    heldInReset.chip.resetN = true ∧ heldInReset.chip.powered = true ∧ (burning [.lock]).chip.resetN = false ∧
      (inState .blank).chip.resetN = false ∧ (inCue 0).chip.resetN = false := by
  decide +kernel

theorem witness_MarksAndWindowStarts_slices :
    let s := slicing (.unit .umem) (inCue 19600)
    let p := slicing (.unit (.press 0)) (inCue 19600)
    s.inServ .umem = true ∧ (∃ x ∈ s.sched.slices, x.unit = .unit .umem) ∧ (∃ x ∈ p.sched.slices, x.unit ≠ .unit .umem) ∧
      p.inServ (.press 0) = true ∧ p.isSafetyPress 0 = true ∧ p.inServ (.core 3) = true ∧
      us (p.lminUs - p.forme.rehPress) ≤ (p.at 0).off ∧ us (p.lminUs - p.forme.rehCore) ≤ (p.at 0).off := by
  decide +kernel

theorem witness_VerdictsOfComparator_other :
    (inCue 7000).comparing = false ∧ (inCue 7000).cue.running = true ∧ (judging 0 false (inCue 7000)).comparing = true ∧
      (inState .blank).cue.running = false := by
  decide +kernel

theorem witness_ReRigAttemptsAndChecks_late :
    let b := setUnit (.port 0) (fun r => { r with mode := .reRigging, checks := [.third] }) (inCue 40000)
    let c := setUnit (.port 0) (fun r => { r with mode := .reRigging, checks := [.third] }) (inCue 39999)
    let m := setUnit (.sector 3) (fun r => { r with mode := .reRigging, checks := [.rehearsal, .proof] }) (inCue 0)
    (b.at 0).sampleLate 0 = true ∧ (b.unit (.port 0)).checks = .third :: [] ∧ (c.at 0).sampleLate 0 = false ∧
      (m.unit (.sector 3)).mode = .reRigging ∧ (m.unit (.sector 3)).checks = .rehearsal :: [.proof] ∧ RigCheck.rehearsal ≠ .proof := by
  decide +kernel

theorem witness_RehearsalSlices_work :
    let x : Slice := { unit := .unit (.press 15), suspending := false, at_ := 0 }
    let r := fun (s : State) => { s with forme := { s.forme with rehIdle := [(.ctl .ufsHost, 100), (.unit (.port 0), 3)] } }
    let s := slicing (.unit (.press 15)) (inCue 100)
    let c := r (slicing (.ctl .ufsHost) (inCue 99))
    let d := slicing .decoder (inCue 4)
    let k := setUnit (.press 15) (fun r => { r with mode := .reRigging, checks := [.rehearsal] }) s
    s.sched.slices.find? (fun y => y.unit = .unit (.press 15)) = some x ∧ briefSlices (.unit (.press 15)) = false ∧
      s.idleRu (.unit (.press 15)) ≤ s.progress (.unit (.press 15)) + ((s.at 0).now - x.at_) ∧
      c.progress (.ctl .ufsHost) + ((c.at 0).now - x.at_) < c.idleRu (.ctl .ufsHost) ∧ briefSlices (.ctl .ufsHost) = false ∧
      c.idleRu (.ctl .ufsHost) = us 100 ∧ c.sched.slices.find? (fun y => y.unit = .ctl .ufsHost) = some { x with unit := .ctl .ufsHost } ∧
      (k.unit (.press 15)).checks.head? = some .rehearsal ∧ (k.unit (.press 15)).mode = .reRigging ∧ (s.unit (.press 15)).mode ≠ .reRigging ∧
      d.sched.slices.find? (fun y => y.unit = .decoder) = some { x with unit := .decoder } ∧ briefSlices .decoder = true ∧ 0 + 1400 < (d.at 0).now ∧
      ((slicing .decoder (inCue 3)).at 0).now ≤ 0 + 1400 := by
  decide +kernel

theorem witness_ProofPasses_digests :
    let r : List Byte := [1, 2]
    let s := inCue 10
    let g := { s with forme := { s.forme with proofs := List.replicate 32 (imageDigest 0x20000 r) } }
    g.proving (proofUnit (.press 0)) = true ∧ imageDigest 0x20000 r = g.proofExpected (proofUnit (.press 0)) ∧
      imageDigest 0x20000 r = g.proofExpected (proofUnit (.core 3)) ∧ g.proving (proofUnit (.core 3)) = true ∧
      imageDigest 0x20000 r ≠ s.proofExpected (proofUnit (.press 0)) ∧ s.proving (proofUnit (.press 0)) = true := by
  decide +kernel

theorem witness_TimeSources_unlocked :
    let s := { inCue 0 with now := us 3000000 }
    s.tb.ptpLocked = false ∧ s.tb.lastSync + us 3000000 ≤ (s.at 0).now := by
  decide +kernel

theorem witness_GovernorAndRegulators_steps :
    (inCue 10).gov.stepAt + us 10 ≤ ((inCue 10).at 0).now ∧ ((inCue 9).at 0).now < (inCue 9).gov.stepAt + us 10 ∧ (inCue 10).dev.st ≠ .reset := by
  decide +kernel

theorem witness_SceneAdmissions_core :
    let x := tInst 1 1 5 .ready []
    let v := withInsts [x] (inCue 2000)
    let w := { v with sched := { v.sched with planPresses := [0], planCores := [3] } }
    (formed w).inst? x.key = some x ∧ (pick (formed w) x).1 = some [.core 3] ∧
      (formed w).outranked x [.core 3] = false ∧ (formed w).placesOk x [] = true ∧ (formed w).coreLost x.key = none ∧
      goes (.sceneAdmission 0 (.scene x.key [])) w = true ∧ goes (.sceneAdmission 0 (.faulty x.key [] [0])) w = true := by
  decide +kernel

theorem witness_PressFaultsAndBands_struck :
    ((setUnit (.press 2) (fun r => { r with mode := .struck }) (inCue 0)).unit (.press 2)).mode = .struck := by
  decide +kernel

theorem witness_TrackersCompleteOrTimeOut_noCtl :
    let r := { tTracker 7 (some 2) with noCtl := true }
    (withTrackers [r] cogRun).tracker? 7 = some r ∧ r.noCtl = true ∧ (tTracker 7 (some 2)).noCtl = false := by
  decide +kernel

theorem witness_EthernetDecodesSamples_order :
    let r := withStream 0 (fun r => { r with ready := [tSample 2 true], samples := [tSample 2 true] }) (inCue 0)
    let j := withStream 1 (fun r => { r with ready := [tSample 2 true] }) (decoding (inCue 0))
    (r.ing.streams.get 0).outcomes = [] ∧ (withStream 0 (fun r => { r with ready := [] }) r).earlierOpen 0 2 = false ∧
      (j.ing.streams.get 1).outcomes = [] ∧ (withStream 1 (fun r => { r with ready := [] }) j).earlierOpen 1 2 = true := by
  decide +kernel

theorem witness_MemoryUpkeep_locked :
    let d : Drop := { play := 2, page := 0, dev := galleyBase, presses := [2] }
    let e : TEntry := { play := 2, page := 0, pte := mkPte true true 2 0 32767 galleyBase, locked := true }
    let s := mapped true true cogRun
    let t := { s with mem := { s.mem with drops := [d], tcache := [(2, e)] } }
    d ∈ t.mem.drops ∧ 2 ∈ d.presses ∧ goes (.mappingDropAck 0 2 2 0) t = true ∧ (after (.mappingDropAck 0 2 2 0) t).mem.drops = [] ∧
      (2, e) ∈ (after (.mappingDropAck 0 2 2 0) t).mem.tcache := by
  decide +kernel

theorem witness_MaintenanceEnds :
    let i := tInst 2 2 1 .running [.press 2]
    let m := tMsg 0x0021 0 []
    let s := gets m (withInsts [i] (inState .blank))
    s.head? (fun x => x = 0x0021) = some m ∧ s.dev.st = .blank ∧ s.dev.faultN = false ∧ s.sched.insts = [i] ∧
      (after (.maintenanceEnter 0) s).dev.st = .maintenance := by
  decide +kernel

end Sys2Proof.Tests
end

namespace Sys2Proof.Machine

/-! ### What the register rows do -/

section Rows

variable {s : State} {n : Nat}

@[simp] theorem State.at_selected : (s.at n).selected = s.selected := rfl

theorem exec_f1RegisterWrite (a : BitVec 17) (v : Byte) : exec (.f1RegisterWrite n a v) s =
    .next (if s.selected then f1WriteByte a.toNat v (s.at n) else s.at n) := rfl

theorem exec_hfIrqClear (bs : List (Fin 4 × Byte)) : exec (.hfIrqClear n bs) s =
    .next (if s.selected then f1WriteAt 0x1008 bs (s.at n) else s.at n) := rfl

theorem exec_cueStatusClear (bs : List (Fin 4 × Byte)) : exec (.cueStatusClear n bs) s =
    .next (if s.selected then f1WriteAt 0x0210 bs (s.at n) else s.at n) := rfl

theorem exec_curtainTestWrite (bs : List (Fin 4 × Byte)) : exec (.curtainTestWrite n bs) s =
    .next (if s.selected then f1WriteAt 0x0314 bs (s.at n) else s.at n) := rfl

theorem exec_rxResync (bs : List (Fin 4 × Byte)) : exec (.rxResync n bs) s =
    .next (if s.selected then f1WriteAt 0x1000 bs (s.at n) else s.at n) := rfl

theorem exec_f1SnapshotRead (a : BitVec 17) (h : s.selected = true) : exec (.f1SnapshotRead n a) s =
    .next (respond [(f1ReadByte a.toNat (s.at n)).1] false (f1ReadByte a.toNat (s.at n)).2) :=
  if_pos h

theorem exec_f1SnapshotRead_unselected (a : BitVec 17) (h : s.selected = false) : exec (.f1SnapshotRead n a) s = .next (s.at n) :=
  if_neg (by simpa using h)

theorem exec_cmd52_unselected (fn : Fin 8) (a : BitVec 17) (w : Option Byte) (h : s.selected = false) :
    exec (.cmd52 n fn a w) s = .next (s.at n) :=
  if_pos (by simpa using h)

theorem exec_cmd52_noFunction (fn : Fin 8) (a : BitVec 17) (w : Option Byte) (h : s.selected = true) (hf : 2 ≤ fn.1) :
    exec (.cmd52 n fn a w) s = .next (respond (r5 true 0) true (s.at n)) := by
  have h0 : fn ≠ 0 := by rintro rfl; simp at hf
  have h1 : fn ≠ 1 := by rintro rfl; simp at hf
  change execCmd52 n fn a w s = _
  simp only [execCmd52, State.at_selected, h, h0, h1, Bool.not_true, Bool.false_eq_true, if_false]

theorem exec_cmd52_read (a : BitVec 17) (h : s.selected = true) : exec (.cmd52 n 1 a none) s =
    .next (respond (r5 false (f1ReadByte a.toNat (s.at n)).1) false (f1ReadByte a.toNat (s.at n)).2) :=
  if_neg (by simpa using h)

theorem exec_cmd53F0_unselected (fn : Fin 4) (w bm : Bool) (ad cnt : Nat) (bs : List Byte) (h : s.selected = false) :
    exec (.cmd53F0 n fn w bm ad cnt bs) s = .next (s.at n) :=
  if_pos (by simpa using h)

theorem exec_cmd53F0_outOfRange (fn : Fin 4) (w bm : Bool) (ad cnt : Nat) (bs : List Byte) (h : s.selected = true)
    (ho : cmd53Oor s fn w bm ad = true) :
    exec (.cmd53F0 n fn w bm ad cnt bs) s = .next (respond (r5 true 0) true (s.at n)) := by
  have ho' : cmd53Oor (s.at n) fn w bm ad = true := ho
  change execCmd53F0 n fn w bm ad cnt bs s = _
  simp only [execCmd53F0, State.at_selected, h, ho', Bool.not_true, Bool.false_eq_true, if_false, Bool.true_or, if_true]

@[simp] theorem length_f0Reads (a cnt : Nat) : (f0Reads s a cnt).length = cnt := by
  simp [f0Reads]

theorem exec_cmd53F0_read (ad cnt : Nat) (bs : List Byte) (h : s.selected = true) (hc : ad + cnt ≤ 0x20000) :
    exec (.cmd53F0 n 0 false false ad cnt bs) s = .next (respond (f0Reads (s.at n) ad cnt) false (s.at n)) := by
  have hr : ¬ ad + cnt > 0x20000 := by omega
  change execCmd53F0 n 0 false false ad cnt bs s = _
  simp [execCmd53F0, cmd53Oor, h, hr]

theorem exec_cmd53F1_unselected (a : BitVec 17) (cnt : Nat) (w : Option (List Byte)) (h : s.selected = false) :
    exec (.cmd53F1 n a cnt w) s = .next (s.at n) :=
  if_pos (by simpa using h)

/-- A byte at an address of 17 bits lies within the window, so that a CMD53 of one byte acts (R426). -/
theorem one_byte_in_window (a : BitVec 17) : ¬ a.toNat + 1 > 0x20000 := by
  have := a.isLt
  omega

theorem exec_cmd53F1_read_one (a : BitVec 17) (h : s.selected = true) : exec (.cmd53F1 n a 1 none) s =
    .next (respond (f1Read a.toNat 1 (s.at n)).1 false (f1Read a.toNat 1 (s.at n)).2) := by
  change execCmd53F1 n a 1 none s = _
  simp only [execCmd53F1, State.at_selected, h, one_byte_in_window, Bool.not_true, Bool.false_eq_true, if_false]

theorem exec_cmd53F1_write_one (a : BitVec 17) (v : Byte) (h : s.selected = true) : exec (.cmd53F1 n a 1 (some [v])) s =
    .next (respond [] false (f1WriteByte a.toNat v (s.at n))) := by
  change execCmd53F1 n a 1 (some [v]) s = _
  simp only [execCmd53F1, State.at_selected, h, one_byte_in_window, Bool.not_true, Bool.false_eq_true, if_false,
    List.take_one, List.head?_cons, Option.toList_some, f1Write]

end Rows

/-! ### Reads of a register's bytes (R9) -/

/-- The lowest byte of a longer register: the snapshot is taken and its first byte read. -/
theorem f1ReadByte_lowest {a len : Nat} (s : State) (hreg : regOf a = some (a, len)) (hlen : 1 < len) :
    f1ReadByte a s = ((regBytes s a len).getD 0 0, setSnap (some (a, regBytes s a len)) s) := by
  have h1 : len ≠ 1 := by omega
  simp only [f1ReadByte, hreg, if_true, if_neg h1]

/-- A higher byte of the register whose snapshot stands comes from the snapshot. -/
theorem f1ReadByte_ofSnap {base len k : Nat} {img : List Byte} {s : State} (hreg : regOf (base + k) = some (base, len))
    (hk : 0 < k) (hs : s.port.snap = some (base, img)) : f1ReadByte (base + k) s = (img.getD k 0, s) := by
  have ha : base + k ≠ base := by omega
  simp only [f1ReadByte, hreg, if_neg ha, hs, if_true, Nat.add_sub_cancel_left]

/-! ### Writes of a register's bytes (R10) -/

theorem heldFor_setHold (b : Nat) (w : List (Nat × Byte)) (s : State) : (setHold (some (b, w)) s).heldFor b = w :=
  if_pos rfl

/-- The holding buffer keeps only what it took last. -/
theorem setHold_setHold (u v : Option (Nat × List (Nat × Byte))) (s : State) : setHold u (setHold v s) = setHold u s := rfl

/-- A byte below a register's last joins the holding buffer. -/
theorem f1WriteByte_holds {base i len : Nat} (v : Byte) (s : State) (hreg : regOf (base + i) = some (base, len)) (hi : i + 1 ≠ len) :
    f1WriteByte (base + i) v s = setHold (some (base, (i, v) :: (s.heldFor base).filter fun e => e.1 != i)) s := by
  simp only [f1WriteByte, hreg, Nat.add_sub_cancel_left, if_neg hi]

/-- A register's last byte completes the write. -/
theorem f1WriteByte_completes {base i len : Nat} (v : Byte) (s : State) (hreg : regOf (base + i) = some (base, len))
    (hi : i + 1 = len) :
    f1WriteByte (base + i) v s = regWrite base ((i, v) :: (s.heldFor base).filter fun e => e.1 != i) (setHold none s) := by
  simp only [f1WriteByte, hreg, Nat.add_sub_cancel_left, if_pos hi]

/-- The four bytes of a register, written in address order, complete one write of the register with those bytes, whatever the
holding buffer held before. -/
theorem f1WriteAt_word {base : Nat} (b0 b1 b2 b3 : Byte) (s : State) (hreg : ∀ i : Fin 4, regOf (base + i.1) = some (base, 4)) :
    ∃ w, heldByte w 0 = some b0 ∧ heldByte w 1 = some b1 ∧
      f1WriteAt (n := 4) base [(0, b0), (1, b1), (2, b2), (3, b3)] s = regWrite base w (setHold none s) := by
  simp only [f1WriteAt, List.foldl_cons, List.foldl_nil]
  simp only [f1WriteByte_holds _ _ (hreg 0) (by decide), f1WriteByte_holds _ _ (hreg 1) (by decide),
    f1WriteByte_holds _ _ (hreg 2) (by decide), f1WriteByte_completes _ _ (hreg 3) (by decide), heldFor_setHold, setHold_setHold]
  refine ⟨_, ?_, ?_, rfl⟩ <;> simp [heldByte]

/-! ### What a completed write of a register does -/

theorem regWrite_hfControl {w : List (Nat × Byte)} {b : Byte} (s : State) (h : heldByte w 0 = some b) : regWrite 0x1000 w s =
    { s with port := { s.port with irqPin := b.getLsbD 0, rxDiscard := s.port.rxDiscard && !b.getLsbD 1 } } := by
  change writeHfControl w s = _
  simp only [writeHfControl, h]

theorem regWrite_hfIrq {w : List (Nat × Byte)} {b : Byte} (s : State) (h : heldByte w 0 = some b) : regWrite 0x1008 w s =
    { s with port := { s.port with irq := s.port.irq &&& (~~~(b.setWidth 7) ||| s.irqFresh) } } := by
  change writeHfIrq w s = _
  simp only [writeHfIrq, h]

theorem regWrite_cueStatus {w : List (Nat × Byte)} {b : Byte} (s : State) (h : heldByte w 1 = some b) : regWrite 0x0210 w s =
    { s with cue := { s.cue with
        faultSeen := s.cue.faultSeen && (!b.getLsbD 0 || s.seenFresh.getLsbD 0)
        lateSeen := s.cue.lateSeen && (!b.getLsbD 1 || s.seenFresh.getLsbD 1) } } := by
  change writeCueStatus w s = _
  simp only [writeCueStatus, h]

/-- The key, written to byte 0 of CURTAIN_TEST, requests the test. -/
theorem regWrite_curtainTest_key {w : List (Nat × Byte)} (s : State) (h : heldByte w 0 = some 0xC5) :
    regWrite 0x0314 w s = requestCurtainTest s := by
  change writeCurtainTest w s = _
  simp only [writeCurtainTest, h]
  exact if_pos rfl

theorem requestCurtainTest_taken {s : State} (hd : s.dev.st = .running ∨ s.dev.st = .degraded) (ht : s.forme.rules.test = true)
    (hp : s.cur.testPending = false) : requestCurtainTest s = { s with cur := { s.cur with testPending := true } } := by
  simp only [requestCurtainTest, hd, ht, hp, decide_true, Bool.not_false, Bool.and_self, if_true]

theorem requestCurtainTest_turnedAway {s : State}
    (h : ¬((s.dev.st = .running ∨ s.dev.st = .degraded) ∧ s.forme.rules.test = true ∧ s.cur.testPending = false)) :
    requestCurtainTest s = logEvent 0x070C idCurtain 1 s :=
  if_neg (by simpa only [Bool.and_eq_true, decide_eq_true_eq, Bool.not_eq_true', and_assoc] using h)

/-! ### The register window of a selected card -/

section Selected

variable {s : State} (n : Nat) (h : s.selected = true)
include h

theorem completes_hfIrqClear (b x y z : Byte) : Completes (.hfIrqClear n [(0, b), (1, x), (2, y), (3, z)]) s fun t =>
    t.port.irq = s.port.irq &&& (~~~(b.setWidth 7) ||| (s.at n).irqFresh) ∧ t.port.hold = none ∧ t.cue = s.cue := by
  obtain ⟨w, h0, -, hw⟩ := f1WriteAt_word (base := 0x1008) b x y z (s.at n) (by decide)
  refine ⟨_, exec_hfIrqClear _, ?_⟩
  rw [if_pos h, hw, regWrite_hfIrq _ h0]
  exact ⟨rfl, rfl, rfl⟩

theorem completes_cueStatusClear (x b y z : Byte) : Completes (.cueStatusClear n [(0, x), (1, b), (2, y), (3, z)]) s fun t =>
    t.cue = { s.cue with
      faultSeen := s.cue.faultSeen && (!b.getLsbD 0 || (s.at n).seenFresh.getLsbD 0)
      lateSeen := s.cue.lateSeen && (!b.getLsbD 1 || (s.at n).seenFresh.getLsbD 1) } := by
  obtain ⟨w, -, h1, hw⟩ := f1WriteAt_word (base := 0x0210) x b y z (s.at n) (by decide)
  refine ⟨_, exec_cueStatusClear _, ?_⟩
  rw [if_pos h, hw, regWrite_cueStatus _ h1]
  rfl

theorem completes_rxResync (b x y z : Byte) : Completes (.rxResync n [(0, b), (1, x), (2, y), (3, z)]) s fun t =>
    t.port.irqPin = b.getLsbD 0 ∧ t.port.rxDiscard = (s.port.rxDiscard && !b.getLsbD 1) := by
  obtain ⟨w, h0, -, hw⟩ := f1WriteAt_word (base := 0x1000) b x y z (s.at n) (by decide)
  refine ⟨_, exec_rxResync _, ?_⟩
  rw [if_pos h, hw, regWrite_hfControl _ h0]
  exact ⟨rfl, rfl⟩

/-- The key of CURTAIN_TEST with its three other bytes requests the test in the step that writes them (R350). -/
theorem exec_curtainTestWrite_key (x y z : Byte) : exec (.curtainTestWrite n [(0, 0xC5), (1, x), (2, y), (3, z)]) s =
    .next (requestCurtainTest (setHold none (s.at n))) := by
  obtain ⟨w, h0, -, hw⟩ := f1WriteAt_word (base := 0x0314) 0xC5 x y z (s.at n) (by decide)
  rw [exec_curtainTestWrite, if_pos h, hw, regWrite_curtainTest_key _ h0]

theorem completes_curtainTestWrite_taken (x y z : Byte) (hd : s.dev.st = .running ∨ s.dev.st = .degraded)
    (ht : s.forme.rules.test = true) (hp : s.cur.testPending = false) :
    Completes (.curtainTestWrite n [(0, 0xC5), (1, x), (2, y), (3, z)]) s fun t =>
      t.cur = { s.cur with testPending := true } ∧ t.log = s.log := by
  refine ⟨_, exec_curtainTestWrite_key n h x y z, ?_⟩
  rw [requestCurtainTest_taken (s := setHold none (s.at n)) hd ht hp]
  exact ⟨rfl, rfl⟩

theorem completes_curtainTestWrite_turnedAway (x y z : Byte)
    (hn : ¬((s.dev.st = .running ∨ s.dev.st = .degraded) ∧ s.forme.rules.test = true ∧ s.cur.testPending = false)) :
    Completes (.curtainTestWrite n [(0, 0xC5), (1, x), (2, y), (3, z)]) s fun t => t.cur = s.cur ∧ Newest t 0x070C idCurtain 1 := by
  refine ⟨_, exec_curtainTestWrite_key n h x y z, ?_⟩
  rw [requestCurtainTest_turnedAway (s := setHold none (s.at n)) hn]
  exact ⟨rfl, logEvent_newest _ _ _ _⟩

theorem completes_f1SnapshotRead_lowest {base len : Nat} (a : BitVec 17) (hreg : regOf a.toNat = some (base, len))
    (ha : a.toNat = base) (hlen : 1 < len) : Completes (.f1SnapshotRead n a) s fun t =>
      t.port.card.resp = [(regBytes (s.at n) base len).getD 0 0] ∧ t.port.snap = some (base, regBytes (s.at n) base len) := by
  subst ha
  refine ⟨_, exec_f1SnapshotRead _ h, ?_⟩
  rw [f1ReadByte_lowest _ hreg hlen]
  exact ⟨rfl, rfl⟩

theorem completes_f1SnapshotRead_ofSnap {base len k : Nat} {img : List Byte} (hs : s.port.snap = some (base, img))
    (hreg : regOf (base + k) = some (base, len)) (hlt : base + k < 2 ^ 17) (hk : 0 < k) :
    Completes (.f1SnapshotRead n (BitVec.ofNat 17 (base + k))) s fun t =>
      t.port.card.resp = [img.getD k 0] ∧ t.port.snap = s.port.snap := by
  refine ⟨_, exec_f1SnapshotRead _ h, ?_⟩
  rw [BitVec.toNat_ofNat, Nat.mod_eq_of_lt hlt, f1ReadByte_ofSnap (s := s.at n) hreg hk hs]
  exact ⟨rfl, rfl⟩

/-- A CMD53 read of one byte gives the byte a CMD52 gives (R426). -/
theorem completes_cmd53F1_read_one (a : BitVec 17) : Completes (.cmd53F1 n a 1 none) s fun t => t.port.card.resp.length = 1 ∧
    Completes (.cmd52 n 1 a none) s fun t' => t'.port.card.resp = r5 false (t.port.card.resp.getD 0 0) :=
  ⟨_, exec_cmd53F1_read_one a h, rfl, _, exec_cmd52_read a h, rfl⟩

/-- A CMD53 write of one byte does what F1_REGISTER_WRITE does, and answers the card's command besides (R426). -/
theorem exec_cmd53F1_eq_f1RegisterWrite (a : BitVec 17) (v : Byte) : ∃ u, exec (.f1RegisterWrite n a v) s = .next u ∧
    exec (.cmd53F1 n a 1 (some [v])) s = .next (respond [] false u) :=
  ⟨f1WriteByte a.toNat v (s.at n), (exec_f1RegisterWrite a v).trans (by rw [if_pos h]), exec_cmd53F1_write_one a v h⟩

end Selected

/-- The register commands and CMD52 and CMD53 to functions 0 and 1 move nothing while the card is not selected (R423). -/
theorem exec_registerCommand_unselected {n : Nat} {b : Byte} {a : BitVec 17} {s : State} (h : s.selected = false) {c : Instr}
    (hc : c = .cmd52 n 0 a none ∨ c = .cmd52 n 1 a (some b) ∨ c = .cmd53F0 n 0 true false a.toNat 1 [b] ∨
      c = .cmd53F1 n a 1 none ∨ c = .f1SnapshotRead n a ∨ c = .f1RegisterWrite n a b ∨ c = .hfIrqClear n [(0, b)] ∨
      c = .cueStatusClear n [(1, b)] ∨ c = .curtainTestWrite n [(0, b)] ∨ c = .rxResync n [(0, b)]) :
    exec c s = .next (s.at n) := by
  have hn : ¬ s.selected = true := by simp [h]
  rcases hc with rfl | rfl | rfl | rfl | rfl | rfl | rfl | rfl | rfl | rfl
  · exact exec_cmd52_unselected _ _ _ h
  · exact exec_cmd52_unselected _ _ _ h
  · exact exec_cmd53F0_unselected _ _ _ _ _ _ h
  · exact exec_cmd53F1_unselected _ _ _ h
  · exact exec_f1SnapshotRead_unselected _ h
  · rw [exec_f1RegisterWrite, if_neg hn]
  · rw [exec_hfIrqClear, if_neg hn]
  · rw [exec_cueStatusClear, if_neg hn]
  · rw [exec_curtainTestWrite, if_neg hn]
  · rw [exec_rxResync, if_neg hn]

/-- Settles O50, row by row: reads go through the snapshot of R9, and a whole register's bytes complete one write, which R10's
holding buffer hands on. -/
theorem registerWindow : Obligations.RegisterWindow := by
  intro n b x y z a s
  refine ⟨fun h c hc => exec_registerCommand_unselected h hc, fun h => ⟨?_, ?_, ?_, ?_, ?_, ?_, ?_, ?_, ?_, ?_⟩⟩
  · exact fun fn v hf => exec_cmd52_noFunction fn a v h hf
  · exact fun fn w bm ad cnt data ho => exec_cmd53F0_outOfRange fn w bm ad cnt data h ho
  · exact fun cnt hc => ⟨_, exec_cmd53F0_read _ _ _ h hc, length_f0Reads _ _, rfl⟩
  · intro base len k s' hreg ha hlen _ h'
    obtain ⟨t, ht, hresp, hsnap⟩ := completes_f1SnapshotRead_lowest n h a hreg ha hlen
    exact ⟨t, ht, hresp, fun hs hreg' hlt hk => hs ▸ completes_f1SnapshotRead_ofSnap n h' (hs.trans hsnap) hreg' hlt hk⟩
  · intro v
    obtain ⟨t, ht, hlen, hread⟩ := completes_cmd53F1_read_one n h a
    obtain ⟨u, hu, hw⟩ := exec_cmd53F1_eq_f1RegisterWrite n h a v
    exact ⟨t, ht, hlen, hread, _, hw, u, hu, rfl, rfl, rfl, rfl, rfl, rfl⟩
  · exact completes_hfIrqClear n h b x y z
  · exact completes_cueStatusClear n h x b y z
  · exact completes_rxResync n h b x y z
  · exact fun hd ht hp => completes_curtainTestWrite_taken n h x y z hd ht hp
  · exact fun hn => completes_curtainTestWrite_turnedAway n h x y z hn

end Sys2Proof.Machine

namespace Sys2Proof.Machine

/-! ### What every command keeps, and the reset state -/

/-- Settles O6: what every command keeps is in `exec_next_holds`, whose parts are the queue, the clock, the identity and the rise of the
fuses. -/
theorem timeIdentityAndFusesLast : Obligations.TimeIdentityAndFusesLast := by
  refine ⟨fun c s t h => ?_, fun c s t h => ?_⟩
  · have k := exec_next_holds h
    exact ⟨k.queue, k.time, k.ident⟩
  · have f := (exec_next_holds h).fuses
    exact ⟨f.rollback, f.lock, fun k => ⟨f.enrolled k, f.revoked k⟩⟩

/-- Settles O3: at reset both byte stores are empty, FAULT_N is deasserted and the curtain does not run. -/
theorem resetMeetsInvariant : Obligations.ResetMeetsInvariant := by
  have hm : State.reset.memoryWf = true := rfl
  have ha : State.reset.alarmHolds = true := rfl
  have hc : State.reset.curtainSafe = true := rfl
  show State.reset.inv = true
  simp only [State.inv, hm, ha, hc, Bool.and_self]

end Sys2Proof.Machine

namespace Sys2Proof.Machine

/-! ### Messages handed on and answered (R433, R434) -/

section Replies

variable {s u u' : State} {m : Msg} {n : Nat}

@[simp] theorem State.at_head? (f : Nat → Bool) : (s.at n).head? f = s.head? f := rfl

/-- Between its handing on and its reply a message is off the list of received ones, event 0x0602 has its number, and the send queue stands. -/
structure HandedOn (s u : State) (m : Msg) : Prop where
  tx : u.port.tx = s.port.tx
  ready : u.port.ready = s.port.ready.drop 1
  seq : u.port.lastSeq = m.seq
  log : Logs s u 0x0602 idPort (m.typ % 256)

theorem handOn_handedOn (m : Msg) (s : State) : HandedOn s (handOn m s).2 m :=
  ⟨rfl, rfl, rfl, logEvent_logs 0x0602 idPort (m.typ % 256) (modPort (fun p => { p with ready := p.ready.drop 1, lastSeq := m.seq }) s)⟩

/-- An event of the message's own effect comes after it. -/
theorem HandedOn.logEvent (h : HandedOn s u m) (code : Nat) (unit : Byte) (detail : Nat) (hp : u'.port = u.port) (hl : u'.log = u.log) :
    HandedOn s (logEvent code unit detail u') m := by
  obtain ⟨r, hr, -⟩ := logEvent_grows code unit detail u'
  refine ⟨?_, ?_, ?_, (h.log.later (.same hl)).later hr⟩
  · rw [logEvent_port, hp, h.tx]
  · rw [logEvent_port, hp, h.ready]
  · rw [logEvent_port, hp, h.seq]

/-- The reply answers the message under its house number (R434). -/
theorem HandedOn.replies (h : HandedOn s u m) (v status : Nat) (sess : W32) (fields : List Byte) :
    Replies s (replyWith v (handOn m s).1 sess status fields u) m sess status fields :=
  ⟨⟨v, congrArg (· ++ [message v (0x8000 + m.typ) m.seq sess
    (natLe 2 status ++ [0, 0] ++ natLe 4 (s.log.head + 1#32).toNat ++ fields)]) h.tx⟩, h.ready, h.seq, h.log⟩

theorem HandedOn.refused (h : HandedOn s u m) (status : Nat) :
    Replies s (refuse (handOn m s).1 status u) m m.session status [] := by
  have := h.replies u.headVersion status m.session []
  rwa [refuse, reply, ite_self]

/-- A reply logs nothing. -/
theorem refuse_newest {q : Request} {status code detail : Nat} {unit : Byte} (h : Newest u code unit detail) :
    Newest (refuse q status u) code unit detail := h

theorem exec_unsupportedMessage_none (h : s.head? (fun x => decide (x ∉ catalogueTypes)) = none) :
    exec (.unsupportedMessage n) s = .next (s.at n) := by
  change execUnsupportedMessage n s = _
  simp only [execUnsupportedMessage, State.at_head?, h]

theorem exec_unsupportedMessage (h : s.head? (fun x => decide (x ∉ catalogueTypes)) = some m) :
    exec (.unsupportedMessage n) s = .next (if s.dev.bare then refuse (handOn m (s.at n)).1 stState (handOn m (s.at n)).2
      else refuse (handOn m (s.at n)).1 stUnsupported (logEvent 0x0A03 idPort (m.typ % 256) (handOn m (s.at n)).2)) := by
  have hb : (handOn m (s.at n)).2.dev.bare = s.dev.bare := rfl
  change execUnsupportedMessage n s = _
  simp only [execUnsupportedMessage, State.at_head?, h, hb]
  split <;> rfl

end Replies

/-- Settles O55: without such a message nothing happens; else the two answers, and what is left alone is what the row's frame says. -/
theorem unsupportedMessages : Obligations.UnsupportedMessages := by
  intro n s
  refine ⟨exec_unsupportedMessage_none, fun m h hb => ?_, fun m h hb => ?_⟩
  · have e := exec_unsupportedMessage (n := n) h
    rw [hb, if_neg Bool.false_ne_true] at e
    refine ⟨_, e, ?_, ?_, fun f hlog hport => exec_next_apart e ?_⟩
    · exact ((handOn_handedOn m (s.at n)).logEvent _ _ _ rfl rfl).refused stUnsupported
    · exact refuse_newest (logEvent_newest _ _ _ _)
    · simp [fieldsOf, hlog, hport]
  · have e := exec_unsupportedMessage (n := n) h
    rw [hb, if_pos rfl] at e
    exact ⟨_, e, (handOn_handedOn m (s.at n)).refused stState⟩

/-! ### PROTO_VERSIONS.ACTIVE (R29) -/

section ActiveVersion

variable {s t : State} {n : Nat}

/-- A part in RESET has no active version. -/
def VersionCleared (s : State) : Prop := s.dev.st = .reset → s.dev.proto = 0

theorem VersionCleared.of_ne (h : s.dev.st ≠ .reset) : VersionCleared s := fun e => absurd e h

theorem VersionCleared.of_dev (h : VersionCleared s) (e : t.dev = s.dev) : VersionCleared t := by
  rw [VersionCleared, e]
  exact h

theorem softReset_versionCleared (s : State) : VersionCleared (softReset s) := fun _ => rfl

theorem interruptUpdate_versionCleared (detail : Nat) (s : State) : VersionCleared (interruptUpdate detail s) :=
  .of_ne (by rw [interruptUpdate, enterBlank, (setState_dev _ _).1]; decide)

/-- A message of the common path clears the version in RESET if its own effect does. -/
theorem onMessage_versionCleared {typ : Nat} {ok : State → Bool} {f : Request → State → State} (h : VersionCleared s)
    (hf : ∀ q u, VersionCleared u → VersionCleared (f q u)) : VersionCleared (onMessage typ ok f s) := by
  unfold onMessage
  split
  · exact h
  · next m _ =>
    have hu : VersionCleared (handOn m s).2 := h.of_dev rfl
    dsimp only
    split
    · exact hu.of_dev rfl
    · split
      · exact hu.of_dev rfl
      · exact hf _ _ hu

theorem completeUpdate_versionCleared (s : State) : VersionCleared (completeUpdate s) := by
  unfold completeUpdate
  dsimp only
  split
  · exact interruptUpdate_versionCleared _ _
  · exact softReset_versionCleared _

theorem settleUpdate_versionCleared (h : VersionCleared s) : VersionCleared (settleUpdate s) := by
  unfold settleUpdate
  split
  · exact completeUpdate_versionCleared _
  · exact h

theorem updateData_versionCleared (q : Request) (h : VersionCleared s) : VersionCleared (updateData q s) := by
  unfold updateData
  dsimp only
  repeat' split
  · exact h.of_dev rfl
  · exact h
  · exact settleUpdate_versionCleared h
  · exact h
  · exact h

/-- A command that may reset the part ends with no version active, if it ends in RESET. -/
theorem exec_versionCleared {c : Instr} (hc : mayReset c = true) (h : exec c s = .next t) (hs : VersionCleared s) : VersionCleared t := by
  have hat : ∀ k, VersionCleared (s.at k) := fun _ => hs
  cases c with
  | powerOn k =>
    cases h
    split
    · exact hs
    · exact fun _ => rfl
  | powerLoss k =>
    cases h
    split
    · exact fun _ => rfl
    · exact hs
  | resetNAssert k =>
    cases h
    split
    · exact fun _ => rfl
    · exact hs
  | maintenanceEnd k =>
    cases h
    refine onMessage_versionCleared (hat k) fun q u _ => ?_
    split
    · exact interruptUpdate_versionCleared _ _
    · exact softReset_versionCleared _
  | updateKeepVerified k pos =>
    change execUpdateKeepVerified k pos s = _ at h
    unfold execUpdateKeepVerified at h
    dsimp only at h
    repeat' split at h
    · cases h
      exact settleUpdate_versionCleared hs
    · cases h
      exact hs
    · cases h
      exact hs
  | updateData k =>
    cases h
    exact onMessage_versionCleared (hat k) fun q u hu => updateData_versionCleared q hu
  | _ => cases hc

@[simp] theorem cardLoss_proto (s : State) : (cardLoss s).dev.proto = 0 := rfl

@[simp] theorem cardLoss_lost (s : State) : (cardLoss s).port.card.lost = true := rfl

theorem exec_cccrResWrite (h : s.selected = true) : exec (.cccrResWrite n) s = .next (cardLoss (s.at n)) :=
  congrArg Host.Outcome.next (if_pos h)

/-- RES is bit 3 of byte 6 of the CCCR (R424). -/
theorem exec_cmd52_res (h : s.selected = true) {v : Byte} (hv : v.getLsbD 3 = true) :
    exec (.cmd52 n 0 6 (some v)) s = .next (cardLoss (respond (r5 false v) false (s.at n))) := by
  change execCmd52 n 0 6 (some v) s = _
  simp [execCmd52, f0Write, h, hv]

theorem exec_sdPadSupplyLoss (hp : s.chip.powered = true) (hr : s.chip.resetN = false) (hs : s.dev.st ≠ .reset) :
    exec (.sdPadSupplyLoss n) s = .next (cardLoss (s.at n)) :=
  congrArg Host.Outcome.next (if_pos (by simp [hp, hr, hs]))

theorem exec_hello_none (h : s.head? (fun x => x = 0x0001) = none) : exec (.hello n) s = .next (s.at n) := by
  change execHello n s = _
  simp only [execHello, State.at_head?, h]

theorem exec_hello {m : Msg} (h : s.head? (fun x => x = 0x0001) = some m) :
    exec (.hello n) s = .next (hello (handOn m (s.at n)).1 (handOn m (s.at n)).2) := by
  change execHello n s = _
  simp only [execHello, State.at_head?, h]

/-- HELLO with a range that holds version 1: the version is active before the reply is queued (R29, R435). -/
theorem hello_accepts {q : Request} (hlen : 2 ≤ q.payload.length) (hlo : u8 q.payload 0 ≤ 1) (hhi : 1 ≤ u8 q.payload 1) (s : State) :
    hello q s = replyWith 1 q q.session stOk [1] (logEvent 0x0A01 idPort 1 { s with dev := { s.dev with proto := 1 } }) := by
  rw [hello, if_neg (by omega), if_pos (by omega)]

theorem hello_malformed {q : Request} (hlen : q.payload.length < 2) (s : State) :
    hello q s = replyWith s.headVersion q q.session stInvalid [0] s := by
  rw [hello, if_pos hlen]

theorem hello_mismatch {q : Request} (hlen : ¬ q.payload.length < 2) (h : 1 < u8 q.payload 0 ∨ u8 q.payload 1 < 1) (s : State) :
    hello q s = replyWith 1 q q.session stVersion [0] s := by
  rw [hello, if_neg hlen, if_neg (by omega)]

theorem completes_hello_accepts {m : Msg} (h : s.head? (fun x => x = 0x0001) = some m) (hlen : 2 ≤ m.payload.length)
    (hlo : u8 m.payload 0 ≤ 1) (hhi : 1 ≤ u8 m.payload 1) :
    Completes (.hello n) s fun t => t.dev.proto = 1 ∧ Replies s t m m.session stOk [1] ∧ Logs s t 0x0A01 idPort 1 := by
  have ho := handOn_handedOn m (s.at n)
  obtain ⟨_, hgrow, -⟩ := ho.log
  refine ⟨_, (exec_hello h).trans (congrArg _ (hello_accepts hlen hlo hhi _)), rfl, ?_, ?_⟩
  · exact (ho.logEvent 0x0A01 idPort 1 rfl rfl).replies 1 stOk m.session [1]
  · exact (logEvent_logs 0x0A01 idPort 1 { (handOn m (s.at n)).2 with dev := _ }).earlier hgrow

theorem completes_hello_refuses {m : Msg} (h : s.head? (fun x => x = 0x0001) = some m)
    (hb : m.payload.length < 2 ∨ 1 < u8 m.payload 0 ∨ u8 m.payload 1 < 1) :
    Completes (.hello n) s fun t => t.dev.proto = s.dev.proto ∧
      Replies s t m m.session (if m.payload.length < 2 then stInvalid else stVersion) [0] := by
  have ho := handOn_handedOn m (s.at n)
  by_cases hlen : m.payload.length < 2
  · rw [if_pos hlen]
    exact ⟨_, (exec_hello h).trans (congrArg _ (hello_malformed hlen _)), rfl, ho.replies _ stInvalid m.session [0]⟩
  · rw [if_neg hlen]
    exact ⟨_, (exec_hello h).trans (congrArg _ (hello_mismatch hlen (hb.resolve_left hlen) _)), rfl, ho.replies 1 stVersion m.session [0]⟩

end ActiveVersion

/-- Settles O49: the resets clear the version with the device, the card's losses with its initialisation, and HELLO sets it. -/
theorem activeVersion : Obligations.ActiveVersion := by
  refine ⟨fun c s t hc h hs ht => exec_versionCleared hc h (.of_ne hs) ht, fun n s => ⟨fun h => ?_, fun h v hv => ?_, fun hp hr hs => ?_,
    fun m h hlen hlo hhi => ?_, fun m h hb => ?_, exec_hello_none⟩⟩
  · exact ⟨_, exec_cccrResWrite h, cardLoss_proto _, cardLoss_lost _⟩
  · exact ⟨_, exec_cmd52_res h hv, cardLoss_proto _, cardLoss_lost _⟩
  · exact ⟨_, exec_sdPadSupplyLoss hp hr hs, cardLoss_proto _, cardLoss_lost _⟩
  · exact completes_hello_accepts h hlen hlo hhi
  · exact completes_hello_refuses h hb

end Sys2Proof.Machine

namespace Sys2Proof.Machine

/-! ### Device-level faults (R26, R368) -/

section DeviceFault

variable {s t u : State} {cause : Nat} {unit : Byte} {n : Nat}

/-- The first device-level fault asserts FAULT_N and keeps FAULT_CAUSE; a later one finds it asserted. -/
def assertFault (cause : Nat) (unit : Byte) (s : State) : State :=
  if s.dev.faultN then s
  else irq 5 { s with dev := { s.dev with faultN := true, faultCause := BitVec.ofNat 4 cause, faultUnit := unit } }

/-- The part of a device-level fault that every state but RESET shares: event 0x0801, FAULT_N, and the curtain's stop with cause 0x13. -/
def raiseFault (cause : Nat) (unit : Byte) (s : State) : State := detect 0x13 unit (assertFault cause unit (logEvent 0x0801 unit cause s))

/-- R26: BLANK, LOADING and MAINTENANCE go to SAFE_HOLD at once. -/
def bareNow (s : State) : State :=
  match s.dev.st with
  | .blank => enterBare s
  | .loading => enterBare s
  | .maintenance => enterBare s
  | _ => s

theorem deviceFault_eq (h : s.dev.st ≠ .reset) : deviceFault cause unit s = bareNow (raiseFault cause unit s) := if_neg h

theorem bareNow_cases (s : State) : bareNow s = enterBare s ∨
    bareNow s = s ∧ ¬(s.dev.st = .blank ∨ s.dev.st = .loading ∨ s.dev.st = .maintenance) := by
  unfold bareNow
  cases s.dev.st <;> simp

theorem irq_sets {k : Nat} (h : k < 7) (s : State) : (irq k s).port.irq.getLsbD k = true := by
  simp [h]

theorem irq_keepsBit {k j : Nat} (h : s.port.irq.getLsbD j = true) : (irq k s).port.irq.getLsbD j = true := by
  simp [h]

/-- The fault's cause, its unit and HF_IRQ.DEVFAULT stay over the rest of the command. -/
structure CauseHeld (s t : State) : Prop where
  cause : t.dev.faultCause = s.dev.faultCause
  unit : t.dev.faultUnit = s.dev.faultUnit
  irq : s.port.irq.getLsbD 5 = true → t.port.irq.getLsbD 5 = true

theorem CauseHeld.trans (a : CauseHeld s t) (b : CauseHeld t u) : CauseHeld s u :=
  ⟨b.cause.trans a.cause, b.unit.trans a.unit, b.irq ∘ a.irq⟩

theorem curtainStop_off (c : Nat) (u : Byte) (s : State) : (curtainStop c u s).cur.running = false := by
  unfold curtainStop
  split
  · rfl
  · next h => exact Bool.eq_false_iff.2 h

theorem curtainStop_causeHeld (c : Nat) (u : Byte) (s : State) : CauseHeld s (curtainStop c u s) := by
  unfold curtainStop
  split
  · exact ⟨rfl, rfl, fun h => irq_keepsBit h⟩
  · exact ⟨rfl, rfl, id⟩

/-- Every field but the device's and the host port's. -/
def butDevPort : Field → Bool := fun f => decide (f ≠ .dev ∧ f ≠ .port)

theorem CauseHeld.apart (h : Apart butDevPort s t) : CauseHeld s t := by
  have hd : t.dev = s.dev := h.same .dev rfl
  have hp : t.port = s.port := h.same .port rfl
  exact ⟨by rw [hd], by rw [hd], fun hi => by rw [hp, hi]⟩

theorem detect_causeHeld (c : Nat) (u : Byte) (s : State) : CauseHeld s (detect c u s) :=
  (CauseHeld.apart (invalidate_apart rfl rfl (.refl _ _))).trans (curtainStop_causeHeld c u _)

theorem detect_st (c : Nat) (u : Byte) (s : State) : (detect c u s).dev.st = s.dev.st := by
  have h : Apart butDev s (detect c u s) := detect_apart rfl rfl rfl rfl rfl (.refl _ _)
  exact congrArg Dev.st (h.same .dev rfl)

theorem assertFault_asserts (s : State) : (assertFault cause unit s).dev.faultN = true := by
  unfold assertFault
  split
  · assumption
  · rfl

theorem assertFault_first (h : s.dev.faultN = false) : (assertFault cause unit s).dev.faultCause = BitVec.ofNat 4 cause ∧
    (assertFault cause unit s).dev.faultUnit = unit ∧ (assertFault cause unit s).port.irq.getLsbD 5 = true := by
  rw [assertFault, if_neg (by rw [h]; decide)]
  exact ⟨rfl, rfl, irq_sets (by decide) _⟩

theorem assertFault_frame (s : State) : (assertFault cause unit s).dev.st = s.dev.st ∧ (assertFault cause unit s).log = s.log := by
  unfold assertFault
  split <;> exact ⟨rfl, rfl⟩

theorem raiseFault_st (s : State) : (raiseFault cause unit s).dev.st = s.dev.st :=
  (detect_st _ _ _).trans (assertFault_frame _).1

theorem raiseFault_logs (s : State) : Logs s (raiseFault cause unit s) 0x0801 unit cause := by
  obtain ⟨_, h⟩ := (detect_inCue (a1 := 0x13) (a2 := unit) (.refl (assertFault cause unit (logEvent 0x0801 unit cause s)))).log
  exact ((logEvent_logs _ _ _ s).later (.same (assertFault_frame _).2)).later h

theorem setState_spec (st : DevState) (s : State) : CauseHeld s (setState st s) ∧ (setState st s).dev.bare = s.dev.bare ∧
    (setState st s).cur = s.cur := by
  unfold setState
  split
  · exact ⟨⟨rfl, rfl, id⟩, rfl, rfl⟩
  · exact ⟨⟨rfl, rfl, fun h => irq_keepsBit h⟩, rfl, rfl⟩

/-- R418: an active update is interrupted by the fault, with detail 5. -/
def endUpdate (s : State) : State :=
  if s.upd.active then
    logEvent 0x0909 idSecurity 5
      { s with upd := { s.upd with active := false }
               dev := { s.dev with cause := 0x0D#8, detail := 5, sect := 0xFF#8 } }
  else s

/-- R26: LOADING and the rehearsals stop where they stand, and the curtain shows cause 0x13. -/
def stopWork (s : State) : State :=
  let s := { s with cur := { s.cur with
    cause := 0x13#8, unit := s.dev.faultUnit, cls := 0, rule := 0xFF#8, cueLow := BitVec.ofNat 32 s.cue.count.toNat } }
  logEvent 0x070A idStage 5
    { s with dev := { s.dev with bare := true, load := Load.idle }, sched := { s.sched with slices := [] } }

theorem enterBare_eq (s : State) : enterBare s = setState .safeHold (stopWork (endUpdate s)) := rfl

theorem endUpdate_causeHeld (s : State) : CauseHeld s (endUpdate s) := by
  unfold endUpdate
  split <;> exact ⟨rfl, rfl, id⟩

/-- The SAFE_HOLD of R26 keeps the fault that led to it, and shows the curtain's cause 0x13. -/
theorem enterBare_spec (s : State) : CauseHeld s (enterBare s) ∧ (enterBare s).dev.st = .safeHold ∧ (enterBare s).dev.bare = true ∧
    (enterBare s).cur.cause = 0x13#8 := by
  obtain ⟨held, hbare, hcur⟩ := setState_spec .safeHold (stopWork (endUpdate s))
  have hw : CauseHeld (endUpdate s) (stopWork (endUpdate s)) := ⟨rfl, rfl, id⟩
  rw [enterBare_eq]
  exact ⟨((endUpdate_causeHeld s).trans hw).trans held, (setState_dev _ _).1, hbare, by rw [hcur]; rfl⟩

/-- A device-level fault out of RESET (R26, R368). -/
structure FaultRaised (cause : Nat) (unit : Byte) (s t : State) : Prop where
  log : Logs s t 0x0801 unit cause
  faultN : t.dev.faultN = true
  off : t.cur.running = false
  latch : t.cur.latch = true
  first : s.dev.faultN = false → t.dev.faultCause = BitVec.ofNat 4 cause ∧ t.dev.faultUnit = unit ∧ t.port.irq.getLsbD 5 = true

theorem raiseFault_raised (s : State) : FaultRaised cause unit s (raiseFault cause unit s) where
  log := raiseFault_logs s
  faultN := (detect_inCue (.refl _)).fault (assertFault_asserts _)
  off := curtainStop_off _ _ _
  latch := curtainStop_latch _ _ _
  first h := by
    have held := detect_causeHeld 0x13 unit (assertFault cause unit (logEvent 0x0801 unit cause s))
    obtain ⟨hc, hu, hi⟩ := assertFault_first (cause := cause) (unit := unit) (s := logEvent 0x0801 unit cause s) h
    exact ⟨held.cause.trans hc, held.unit.trans hu, held.irq hi⟩

theorem FaultRaised.enterBare (h : FaultRaised cause unit s t) : FaultRaised cause unit s (enterBare t) := by
  have hin := enterBare_inCue (.refl t)
  have held := (enterBare_spec t).1
  obtain ⟨_, hlog⟩ := hin.log
  refine ⟨h.log.later hlog, hin.fault h.faultN, ?_, hin.latch h.latch, fun hf => ?_⟩
  · exact Bool.eq_false_iff.2 fun hr => Bool.eq_false_iff.1 h.off ((enterBare_keeps (.refl t)).start hr)
  · obtain ⟨hc, hu, hi⟩ := h.first hf
    exact ⟨held.cause.trans hc, held.unit.trans hu, held.irq hi⟩

theorem deviceFault_raised (h : s.dev.st ≠ .reset) : FaultRaised cause unit s (deviceFault cause unit s) := by
  rw [deviceFault_eq h]
  rcases bareNow_cases (raiseFault cause unit s) with e | ⟨e, -⟩ <;> rw [e]
  · exact (raiseFault_raised s).enterBare
  · exact raiseFault_raised s

theorem deviceFault_bare (h : s.dev.st = .blank ∨ s.dev.st = .loading ∨ s.dev.st = .maintenance) :
    (deviceFault cause unit s).dev.st = .safeHold ∧ (deviceFault cause unit s).dev.bare = true ∧
      (deviceFault cause unit s).cur.cause = 0x13#8 := by
  have hr : s.dev.st ≠ .reset := by rcases h with h | h | h <;> rw [h] <;> decide
  rw [deviceFault_eq hr]
  rcases bareNow_cases (raiseFault cause unit s) with e | ⟨-, hn⟩
  · rw [e]
    exact (enterBare_spec _).2
  · exact absurd ((raiseFault_st s).symm ▸ h) hn

theorem deviceFault_chip (s : State) : (deviceFault cause unit s).chip = s.chip := by
  have h : Apart (fun f => decide (f ≠ .chip)) s (deviceFault cause unit s) := deviceFault_apart rfl rfl rfl rfl rfl rfl rfl (.refl _ _)
  exact h.same .chip rfl

/-! ### Clock and supply faults (R445, R460) -/

/-- The chip notes a PLL that has lost its lock. -/
def lostPll (pll : Fin 7) (c : Chip) : Chip := { c with pllLost := if pll ∈ c.pllLost then c.pllLost else pll :: c.pllLost }

/-- The chip notes a rail out of its range. -/
def lostRail (rail : Fin 12) (c : Chip) : Chip := { c with railsOut := if rail ∈ c.railsOut then c.railsOut else rail :: c.railsOut }

/-- What a clock or a rail that fails does: the chip notes it, its own event, then a device-level fault with cause 6. -/
def chipFault (code detail : Nat) (c : Chip) (s : State) : State :=
  deviceFault 6 idGovernor (logEvent code idGovernor detail { s with chip := c })

theorem exec_pllLockLost (pll : Fin 7) (h : s.dev.st ≠ .reset) :
    exec (.pllLockLost n pll) s = .next (chipFault 0x0B03 pll.1 (lostPll pll s.chip) (s.at n)) :=
  congrArg Host.Outcome.next (if_neg h)

theorem exec_supplyOutOfRange (rail : Fin 12) (h : s.dev.st ≠ .reset) :
    exec (.supplyOutOfRange n rail) s = .next (chipFault 0x0B07 rail.1 (lostRail rail s.chip) (s.at n)) :=
  congrArg Host.Outcome.next (if_neg h)

theorem mem_lostPll (pll : Fin 7) (c : Chip) : pll ∈ (lostPll pll c).pllLost := by
  unfold lostPll
  dsimp only
  split
  · assumption
  · exact List.mem_cons_self

theorem mem_lostRail (rail : Fin 12) (c : Chip) : rail ∈ (lostRail rail c).railsOut := by
  unfold lostRail
  dsimp only
  split
  · assumption
  · exact List.mem_cons_self

variable {code detail : Nat} {c : Chip}

theorem chipFault_chip (code detail : Nat) (c : Chip) (s : State) : (chipFault code detail c s).chip = c := deviceFault_chip _

/-- The failure's own event is logged before that of the fault, which is raised as any device-level fault is. -/
theorem chipFault_raises (h : s.dev.st ≠ .reset) : Logs s (chipFault code detail c s) code idGovernor detail ∧
    FaultRaised 6 idGovernor s (chipFault code detail c s) := by
  have hs : LogGrows s { s with chip := c } [] := .same rfl
  obtain ⟨_, hev, -⟩ := logEvent_grows code idGovernor detail { s with chip := c }
  have hf := deviceFault_raised (cause := 6) (unit := idGovernor) (s := logEvent code idGovernor detail { s with chip := c }) h
  obtain ⟨_, hgrow, -⟩ := id hf.log
  exact ⟨((logEvent_logs code idGovernor detail { s with chip := c }).earlier hs).later hgrow,
    hf.log.earlier (hs.trans hev), hf.faultN, hf.off, hf.latch, hf.first⟩

theorem chipFault_bare (h : s.dev.st = .blank ∨ s.dev.st = .loading ∨ s.dev.st = .maintenance) :
    (chipFault code detail c s).dev.st = .safeHold ∧ (chipFault code detail c s).dev.bare = true ∧
      (chipFault code detail c s).cur.cause = 0x13#8 :=
  deviceFault_bare (s := logEvent code idGovernor detail { s with chip := c }) h

end DeviceFault

/-- Settles O14: both commands note what was lost, log their event and raise a device-level fault, and in RESET do nothing. -/
theorem clockAndSupplyFaults : Obligations.ClockAndSupplyFaults := by
  intro n pll rail s
  refine ⟨fun h => ?_, fun h => ?_, fun h => ⟨congrArg Host.Outcome.next (if_pos h), congrArg Host.Outcome.next (if_pos h)⟩⟩
  · obtain ⟨hev, f⟩ := chipFault_raises (s := s.at n) (code := 0x0B03) (detail := pll.1) (c := lostPll pll s.chip) h
    refine ⟨_, exec_pllLockLost pll h, ?_, ?_, hev, f.log, f.faultN, f.off, f.latch, f.first, chipFault_bare (s := s.at n)⟩
    · rw [chipFault_chip]
      exact mem_lostPll _ _
    · rw [chipFault_chip]
      rfl
  · obtain ⟨hev, f⟩ := chipFault_raises (s := s.at n) (code := 0x0B07) (detail := rail.1) (c := lostRail rail s.chip) h
    refine ⟨_, exec_supplyOutOfRange rail h, ?_, ?_, hev, f.log, f.faultN, f.off, f.latch, f.first, chipFault_bare (s := s.at n)⟩
    · rw [chipFault_chip]
      exact mem_lostRail _ _
    · rw [chipFault_chip]
      rfl

end Sys2Proof.Machine

namespace Sys2Proof.Machine

/-! ### LOADING_COMPLETE (R407) -/

section Loading

variable {s t : State} {n : Nat} {rep : LoadReport}

/-- Events logged one after the other. -/
def logAll (evs : List (Nat × Byte × Nat)) (s : State) : State := evs.foldl (fun s e => logEvent e.1 e.2.1 e.2.2 s) s

theorem logAll_grows (evs : List (Nat × Byte × Nat)) (s : State) : ∃ new, LogGrows s (logAll evs s) new := by
  induction evs generalizing s with
  | nil => exact ⟨[], .same rfl⟩
  | cons e evs ih =>
    obtain ⟨_, h, -⟩ := logEvent_grows e.1 e.2.1 e.2.2 s
    obtain ⟨_, g⟩ := ih (logEvent e.1 e.2.1 e.2.2 s)
    exact ⟨_, h.trans g⟩

theorem logAll_logs {evs : List (Nat × Byte × Nat)} {e : Nat × Byte × Nat} (h : e ∈ evs) (s : State) :
    Logs s (logAll evs s) e.1 e.2.1 e.2.2 := by
  induction evs generalizing s with
  | nil => cases h
  | cons d evs ih =>
    obtain ⟨_, hd, -⟩ := logEvent_grows d.1 d.2.1 d.2.2 s
    rcases List.mem_cons.1 h with rfl | h
    · obtain ⟨_, g⟩ := logAll_grows evs (logEvent e.1 e.2.1 e.2.2 s)
      exact (logEvent_logs e.1 e.2.1 e.2.2 s).later g
    · exact (ih h (logEvent d.1 d.2.1 d.2.2 s)).earlier hd

/-- Every field but the log. -/
theorem logAll_apart (evs : List (Nat × Byte × Nat)) (s : State) : Apart (fun f => decide (f = .log)) s (logAll evs s) :=
  .foldl evs _ (.refl _ _) fun _ _ h => logEvent_apart rfl h

/-- The forme that a loading part's image and report make. -/
def loadedForme (s : State) (rep : LoadReport) : Forme :=
  buildForme s s.dev.load.sections ((loadPlays s s.dev.load.sections).map (lowered s s.dev.load.sections)) rep

/-- How LOADING_COMPLETE ends when no check fails. -/
def acceptForme (rep : LoadReport) (s : State) : State :=
  if reportOk s (loadedForme s rep) rep && s.rehearsedAll then enterStandby (loadedForme s rep) rep s else s

/-- The judgement is the first failing check's refusal, after its own events, or the forme's acceptance. -/
theorem judge_eq (rep : LoadReport) (s : State) : judge rep s = match s.loadFailure rep with
    | some (cause, detail, sect, evs) => refuseForme cause detail sect (logAll evs s)
    | none => acceptForme rep s := by
  unfold judge State.loadFailure acceptForme loadedForme
  dsimp only
  generalize s.dev.load.sections = l
  cases s.dev.load.bad6 with
  | some p => rfl
  | none =>
  cases t64Bad s l (loadPlays s l) with
  | some p => rfl
  | none =>
  cases check8 s l (loadPlays s l) with
  | false => rfl
  | true =>
  cases rulesReason (loadPlays s l) (sectionBytes s.ufs l 4 0) (readSheet (sectionBytes s.ufs l 3 0)).compLen with
  | some r => rfl
  | none =>
  cases imposerCause s l ((loadPlays s l).map (lowered s l)) rep with
  | some c =>
    obtain ⟨c, _ | p⟩ := c <;> rfl
  | none =>
  cases rep.weightsFit with
  | false => rfl
  | true =>
  cases (List.finRange 2).find? fun n => !s.inServ (.stack n) with
  | some k => rfl
  | none => rfl

/-- LOADING's refusal leaves the forme, its digest and the memory, and shows its cause, detail and section (R407, R410). -/
theorem refuseForme_spec (cause detail sect : Nat) (s : State) :
    (refuseForme cause detail sect s).dev.st = .blank ∧ (refuseForme cause detail sect s).dev.cause = BitVec.ofNat 8 cause ∧
      (refuseForme cause detail sect s).dev.detail = BitVec.ofNat 8 detail ∧ (refuseForme cause detail sect s).dev.sect = BitVec.ofNat 8 sect ∧
      (refuseForme cause detail sect s).forme = s.forme ∧ (refuseForme cause detail sect s).dev.digest = s.dev.digest ∧
      (refuseForme cause detail sect s).mem = s.mem := by
  unfold refuseForme enterBlank setState
  split
  · next h => exact ⟨h, rfl, rfl, rfl, rfl, rfl, rfl⟩
  · exact ⟨rfl, rfl, rfl, rfl, rfl, rfl, rfl⟩

theorem refuseForme_log (cause detail sect : Nat) (s : State) :
    (refuseForme cause detail sect s).log = (logEvent 0x0902 idSecurity cause s).log :=
  have h : Apart (fun f => decide (f ≠ .log)) (logEvent 0x0902 idSecurity cause s) (refuseForme cause detail sect s) :=
    enterBlank_apart rfl rfl (.refl _ _)
  h.same .log rfl

theorem Newest.same_log {code detail : Nat} {unit : Byte} (h : Newest s code unit detail) (e : t.log = s.log) : Newest t code unit detail := by
  rw [Newest, e]
  exact h

theorem refuseForme_newest (cause detail sect : Nat) (s : State) : Newest (refuseForme cause detail sect s) 0x0902 idSecurity cause :=
  (logEvent_newest _ _ _ s).same_log (refuseForme_log _ _ _ s)

theorem exec_loadingComplete (hst : s.dev.st = .loading) (hph : s.dev.load.phase = .judge) :
    exec (.loadingComplete n rep) s = .next (judge rep (s.at n)) :=
  congrArg Host.Outcome.next (if_pos (by simp [hst, hph]))

theorem exec_loadingComplete_early (h : s.dev.st ≠ .loading ∨ s.dev.load.phase ≠ .judge) :
    exec (.loadingComplete n rep) s = .next (s.at n) :=
  congrArg Host.Outcome.next (if_neg (by rcases h with h | h <;> simp [h]))

theorem State.at_loadFailure : (s.at n).loadFailure rep = s.loadFailure rep := rfl

theorem exec_loadingComplete_refused {cause detail sect : Nat} {evs : List (Nat × Byte × Nat)} (hst : s.dev.st = .loading)
    (hph : s.dev.load.phase = .judge) (h : s.loadFailure rep = some (cause, detail, sect, evs)) :
    exec (.loadingComplete n rep) s = .next (refuseForme cause detail sect (logAll evs (s.at n))) := by
  rw [exec_loadingComplete hst hph, judge_eq, State.at_loadFailure, h]

theorem exec_loadingComplete_accepted (hst : s.dev.st = .loading) (hph : s.dev.load.phase = .judge) (h : s.loadFailure rep = none) :
    exec (.loadingComplete n rep) s = .next (acceptForme rep (s.at n)) := by
  rw [exec_loadingComplete hst hph, judge_eq, State.at_loadFailure, h]

theorem completes_loadingComplete_refused {cause detail sect : Nat} {evs : List (Nat × Byte × Nat)} (hst : s.dev.st = .loading)
    (hph : s.dev.load.phase = .judge) (h : s.loadFailure rep = some (cause, detail, sect, evs)) :
    Completes (.loadingComplete n rep) s fun t =>
      t.dev.st = .blank ∧ t.dev.cause = BitVec.ofNat 8 cause ∧ t.dev.detail = BitVec.ofNat 8 detail ∧ t.dev.sect = BitVec.ofNat 8 sect ∧
      t.forme = s.forme ∧ t.dev.digest = s.dev.digest ∧ t.mem = s.mem ∧ Newest t 0x0902 idSecurity cause ∧
      ∀ e ∈ evs, Logs s t e.1 e.2.1 e.2.2 := by
  have ha := logAll_apart evs (s.at n)
  obtain ⟨hb, hc, hd, hs, hf, hg, hm⟩ := refuseForme_spec cause detail sect (logAll evs (s.at n))
  obtain ⟨_, hev, -⟩ := logEvent_grows 0x0902 idSecurity cause (logAll evs (s.at n))
  refine ⟨_, exec_loadingComplete_refused hst hph h, hb, hc, hd, hs, hf.trans (ha.same .forme rfl), hg.trans ?_,
    hm.trans (ha.same .mem rfl), refuseForme_newest _ _ _ _, fun e he => ?_⟩
  · exact congrArg Dev.digest (ha.same .dev rfl)
  · exact ((logAll_logs he (s.at n)).later hev).later (.same (refuseForme_log _ _ _ _))

@[simp] theorem State.at_loadedForme : loadedForme (s.at n) rep = loadedForme s rep := rfl

theorem State.at_inServ (u : UnitId) : (s.at n).inServ u = s.inServ u := by
  rw [State.inServ, State.inServ, State.unit, State.unit, State.at_units]

theorem State.at_loadGalley (d : Nat) : (s.at n).loadGalley d = s.loadGalley d := by
  simp only [State.loadGalley, State.at_inServ]

theorem State.at_poolsMapped (f : Forme) : poolsMapped (s.at n) f rep = poolsMapped s f rep := by
  funext p
  simp only [poolsMapped, spanMapped, State.at_loadGalley]

theorem State.at_copiesOk (l : List Section) (taken : List Nat) : copiesOk (s.at n) l rep taken = copiesOk s l rep taken := by
  unfold copiesOk
  rfl

theorem State.at_pteOk (ps : List Play) (taken : List Nat) : pteOk (s.at n) rep ps taken = pteOk s rep ps taken := by
  funext e
  simp only [pteOk, State.at_loadGalley, State.at_inServ]

theorem State.at_reportOk (f : Forme) : reportOk (s.at n) f rep = reportOk s f rep := by
  simp only [reportOk, State.at_loadGalley, State.at_copiesOk, State.at_pteOk, State.at_poolsMapped]

theorem State.at_rehearsedAll : (s.at n).rehearsedAll = s.rehearsedAll := rfl

/-- The acceptance is judged on the state before the command. -/
theorem State.at_acceptForme : acceptForme rep (s.at n) =
    if reportOk s (loadedForme s rep) rep && s.rehearsedAll then enterStandby (loadedForme s rep) rep (s.at n) else s.at n := by
  rw [acceptForme, State.at_loadedForme, State.at_reportOk, State.at_rehearsedAll]

/-- The state in which LOADING's tables are laid: the forme runs, event 0x0901 is logged, and only units and partitions differ else. -/
def formeStarted (f : Forme) (s : State) : State := startParts f (markAbsent f (logEvent 0x0901 idSecurity 0 { s with forme := f }))

theorem formeStarted_apart (f : Forme) (s : State) :
    Apart (fun x => decide (x = .units ∨ x = .part)) (logEvent 0x0901 idSecurity 0 { s with forme := f }) (formeStarted f s) :=
  startParts_apart rfl (markAbsent_apart rfl (.refl _ _))

theorem markAbsent_now (f : Forme) (s : State) : (markAbsent f s).now = s.now := by
  unfold markAbsent
  refine List.foldlRecOn (motive := fun u : State => u.now = s.now) _ _ rfl fun u hu p _ => ?_
  split
  · exact hu
  · exact hu

theorem formeStarted_now (f : Forme) (s : State) : (formeStarted f s).now = s.now := markAbsent_now f _

/-- LOADING's end: STANDBY, with the forme, its digest and its tables (R30, R38, R407). -/
theorem enterStandby_spec (f : Forme) (rep : LoadReport) (s : State) :
    (enterStandby f rep s).dev.st = .standby ∧ (enterStandby f rep s).forme = f ∧
      (enterStandby f rep s).dev.digest = sub (s.colophonAt (u64 s.directory 16)) 16 64 ∧ (enterStandby f rep s).mem.l1 = rep.l1 ∧
      (enterStandby f rep s).mem.l2 = rep.l2 ∧ (enterStandby f rep s).cue.standbyAt = s.now ∧
      (enterStandby f rep s).log = (logEvent 0x0901 idSecurity 0 { s with forme := f }).log := by
  have ha := formeStarted_apart f s
  have hn := formeStarted_now f s
  have hl : (formeStarted f s).log = _ := ha.same .log rfl
  have hf : (formeStarted f s).forme = f := ha.same .forme rfl
  unfold enterStandby setState
  dsimp only
  split
  · next h => exact ⟨h, hf, rfl, rfl, rfl, hn, hl⟩
  · exact ⟨rfl, hf, rfl, rfl, rfl, hn, hl⟩

theorem completes_loadingComplete_accepted (hst : s.dev.st = .loading) (hph : s.dev.load.phase = .judge)
    (h : s.loadFailure rep = none) (hok : reportOk s (loadedForme s rep) rep = true) (hreh : s.rehearsedAll = true) :
    Completes (.loadingComplete n rep) s fun t =>
      t.dev.st = .standby ∧ t.forme = loadedForme s rep ∧ t.dev.digest = sub (s.colophonAt (u64 s.directory 16)) 16 64 ∧
      t.mem.l1 = rep.l1 ∧ t.mem.l2 = rep.l2 ∧ t.cue.standbyAt = (s.at n).now ∧ Newest t 0x0901 idSecurity 0 := by
  have e := exec_loadingComplete_accepted (n := n) hst hph h
  rw [State.at_acceptForme, hok, hreh, Bool.and_self, if_pos rfl] at e
  obtain ⟨hs, hfo, hd, h1, h2, hb, hl⟩ := enterStandby_spec (loadedForme s rep) rep (s.at n)
  exact ⟨_, e, hs, hfo, hd, h1, h2, hb, (logEvent_newest _ _ _ _).same_log hl⟩

/-- Places that the imposer may not choose, or a unit that has not rehearsed, leave LOADING as it is. -/
theorem exec_loadingComplete_waits (hst : s.dev.st = .loading) (hph : s.dev.load.phase = .judge) (h : s.loadFailure rep = none)
    (hno : reportOk s (loadedForme s rep) rep = false ∨ s.rehearsedAll = false) :
    exec (.loadingComplete n rep) s = .next (s.at n) := by
  have hno' : (reportOk s (loadedForme s rep) rep && s.rehearsedAll) = false := Bool.and_eq_false_iff.2 hno
  rw [exec_loadingComplete_accepted hst hph h, State.at_acceptForme, hno', if_neg Bool.false_ne_true]

end Loading

/-- Settles O11: the judgement is one of a refusal, an acceptance and a wait, and out of its phase there is none. -/
theorem loadingJudged : Obligations.LoadingJudged := by
  intro n rep low f s hlow hf
  subst hlow
  have hf' : f = loadedForme s rep := hf
  subst hf'
  refine ⟨fun hst hph => ⟨fun cause detail sect evs h => completes_loadingComplete_refused hst hph h, fun h hok hreh => ?_,
    fun h hno => exec_loadingComplete_waits hst hph h hno⟩, exec_loadingComplete_early⟩
  obtain ⟨t, ht, hs, hfo, rest⟩ := completes_loadingComplete_accepted (n := n) hst hph h hok hreh
  exact ⟨t, ht, hs, hfo, by rw [hfo]; rfl, rest⟩

end Sys2Proof.Machine

namespace Sys2Proof.Machine

/-! ### Page table entries (R228) -/

section PageTable

variable {s : State} {play page : Nat} {x e : W128}

/-- Bits of an entry that only its low byte holds do not reach the fields above. -/
theorem pteDev_or_low (x e : W128) : pteDev (x ||| (e &&& BitVec.ofNat 128 0x18)) = pteDev x := by
  have h : (BitVec.ofNat 128 0x18).extractLsb' 64 27 = 0#27 := by decide
  rw [pteDev, BitVec.extractLsb'_or, BitVec.extractLsb'_and, h, BitVec.and_zero, BitVec.or_zero, pteDev]

theorem getLsbD_or_flags {i : Nat} (hi : i < 3) (x e : W128) : (x ||| (e &&& BitVec.ofNat 128 0x18)).getLsbD i = x.getLsbD i := by
  have h : (BitVec.ofNat 128 0x18).getLsbD i = false := by
    match i, hi with
    | 0, _ => decide
    | 1, _ => decide
    | 2, _ => decide
  rw [BitVec.getLsbD_or, BitVec.getLsbD_and, h, Bool.and_false, Bool.or_false]

/-- An entry made for a device page names it. -/
theorem pteDev_mkPte (rd wr : Bool) (part first last : Nat) {dev : Nat} (h : dev % 2 ^ 21 = 0) (hd : dev < 2 ^ 48) :
    pteDev (mkPte rd wr part first last dev) = dev := by
  have hrd : (if rd then 2 else 0) ≤ 2 := by split <;> omega
  have hwr : (if wr then 4 else 0) ≤ 4 := by split <;> omega
  rw [pteDev, mkPte, BitVec.extractLsb'_toNat, BitVec.toNat_ofNat, Nat.shiftRight_eq_div_pow]
  generalize (if rd then 2 else 0) = a at *
  generalize (if wr then 4 else 0) = b at *
  omega

theorem pteRD_mkPte (rd wr : Bool) (part first last dev : Nat) : pteRD (mkPte rd wr part first last dev) = rd := by
  rw [pteRD, mkPte, BitVec.getLsbD_ofNat, Nat.testBit_eq_decide_div_mod_eq]
  cases rd <;> cases wr <;> simp <;> omega

theorem pteWR_mkPte (rd wr : Bool) (part first last dev : Nat) : pteWR (mkPte rd wr part first last dev) = wr := by
  rw [pteWR, mkPte, BitVec.getLsbD_ofNat, Nat.testBit_eq_decide_div_mod_eq]
  cases rd <;> cases wr <;> simp <;> omega

/-- The entry of a restored page: the old one's rights, the new place. -/
theorem restoredPte_fields (e : W128) (part first last : Nat) {dev : Nat} (h : dev % 2 ^ 21 = 0) (hd : dev < 2 ^ 48) :
    let q := mkPte (pteRD e) (pteWR e) part first last dev ||| (e &&& BitVec.ofNat 128 0x18)
    pteDev q = dev ∧ pteRD q = pteRD e ∧ pteWR q = pteWR e :=
  ⟨(pteDev_or_low _ _).trans (pteDev_mkPte _ _ _ _ _ h hd), (getLsbD_or_flags (by decide) _ _).trans (pteRD_mkPte _ _ _ _ _ _),
    (getLsbD_or_flags (by decide) _ _).trans (pteWR_mkPte _ _ _ _ _ _)⟩

theorem setPte_pte? (play page : Nat) (x : W128) (s : State) : (setPte play page x s).pte? play page = some x := by
  simp [State.pte?, setPte]

/-- A page whose entries are taken out of the table is not mapped. -/
theorem pte?_eq_none {l : List ((Nat × Nat) × W128)} (h : s.mem.l2 = l.filter fun x => x.1 != (play, page)) :
    s.pte? play page = none := by
  simp [State.pte?, h]

/-- Pages that restoration may take are whole pages of the galley or a stack. -/
theorem freshPage_aligned {dev d : Nat} (h : s.freshPage dev = some d) : d % 2 ^ 21 = 0 ∧ d < 2 ^ 48 := by
  unfold State.freshPage at h
  split at h
  · obtain ⟨k, hk, rfl⟩ := List.mem_map.1 (List.mem_of_find?_eq_some h)
    have := List.mem_range.1 hk
    unfold galleyBase
    omega
  · next m _ =>
    obtain ⟨k, hk, rfl⟩ := List.mem_map.1 (List.mem_of_find?_eq_some h)
    have := List.mem_range.1 hk
    have := m.isLt
    unfold stackBase
    omega
  · cases h

/-- Asking the presses to drop a translation adds to the list of drops at most. -/
theorem startDrop_eq (play page dev : Nat) (s : State) : ∃ ds, startDrop play page dev s = { s with mem := { s.mem with drops := ds } } := by
  unfold startDrop
  split
  · exact ⟨s.mem.drops, rfl⟩
  · exact ⟨_, rfl⟩

/-- Unmapping a page takes its entries out of the table, and adds to the list of drops at most. -/
theorem unmapPage_eq (play page : Nat) (s : State) : ∃ ds, unmapPage play page s =
    { s with mem := { s.mem with drops := ds, l2 := s.mem.l2.filter fun x => x.1 != (play, page) } } := by
  unfold unmapPage
  split
  · next h =>
    have hl : s.mem.l2.filter (fun x => x.1 != (play, page)) = s.mem.l2 := by
      rw [State.pte?, Option.map_eq_none_iff, List.find?_eq_none] at h
      exact List.filter_eq_self.2 fun a ha => by simpa using h a ha
    exact ⟨s.mem.drops, by rw [hl]⟩
  · next e _ =>
    obtain ⟨ds, h⟩ := startDrop_eq play page (pteDev e) s
    exact ⟨ds, by rw [h]⟩

end PageTable

/-! ### ECC_WRITE_BACK, CONSTANT_RESTORE_DONE, MAPPING_DROP_ACK, LEAF_SWEEP_DONE (R201, R230, R231, R256, R259) -/

section Upkeep

variable {s t : State} {n : Nat}

/-- Without a write-back of the word under way there is none to take out. -/
theorem exec_eccWriteBack (n addr : Nat) (s : State) : exec (.eccWriteBack n addr) s =
    .next { s.at n with mem := { s.mem with wbacks := s.mem.wbacks.filter fun e => e.1 != wordOf addr } } := by
  change execEccWriteBack n addr s = _
  unfold execEccWriteBack
  dsimp only
  split
  · rfl
  · next h =>
    have hw : s.mem.wbacks.filter (fun e => e.1 != wordOf addr) = s.mem.wbacks :=
      List.filter_eq_self.2 fun e he => by
        have := List.any_eq_false.1 (Bool.eq_false_iff.2 h) e he
        simpa using this
    rw [hw]
    rfl

/-- A write drops the write-backs of the words it touches. -/
theorem devWrite_wbacks (a : Nat) (bs : List Byte) (s : State) : ∀ e ∈ (devWrite a bs s).mem.wbacks,
    e ∈ s.mem.wbacks ∧ ¬(a < e.1 + wordSize e.1 ∧ e.1 < a + bs.length) := by
  intro e he
  obtain ⟨hm, hn⟩ := List.mem_filter.1 he
  exact ⟨hm, fun ⟨ha, hb⟩ => by simp [ha, hb] at hn⟩

/-! #### Restored pages (R259) -/

theorem exec_constantRestoreDone_idle (h : s.mem.restore = [] ∨ s.dev.bare = true) : exec (.constantRestoreDone n) s = .next (s.at n) := by
  have e : (if (s.at n).dev.bare then [] else (s.at n).mem.restore) = [] := by
    rcases h with h | h <;> simp [h]
  change execConstantRestoreDone n s = _
  simp only [execConstantRestoreDone, e]

variable {r : Restore} {rest : List Restore} {e : W128} {d : Nat}

theorem exec_constantRestoreDone_unmapped (hr : s.mem.restore = r :: rest) (hb : s.dev.bare = false) (hp : s.pte? r.play r.vpage = none) :
    exec (.constantRestoreDone n) s = .next (failRestore (s.at n)) := by
  have hq : (s.at n).pte? r.play r.vpage = none := hp
  change execConstantRestoreDone n s = _
  simp [execConstantRestoreDone, hr, hb, hq]

theorem State.at_galleyPage (d : Nat) : (s.at n).galleyPage d = s.galleyPage d := by
  unfold State.galleyPage
  rfl

theorem State.at_stackPage (d : Nat) : (s.at n).stackPage d = s.stackPage d := by
  unfold State.stackPage
  rfl

theorem State.at_pageUnused (d : Nat) : (s.at n).pageUnused d = s.pageUnused d := by
  unfold State.pageUnused
  rfl

theorem State.at_freshPage (dev : Nat) : (s.at n).freshPage dev = s.freshPage dev := by
  simp only [State.freshPage, State.at_galleyPage, State.at_stackPage, State.at_pageUnused]

theorem State.at_pageBytes (sect page : Nat) : (s.at n).pageBytes sect page = s.pageBytes sect page := by
  rw [State.pageBytes, State.pageBytes, State.at_ufs, State.at_forme]

theorem State.at_pageRec (sect page : Nat) : (s.at n).pageRec sect page = s.pageRec sect page := by
  rw [State.pageRec, State.pageRec, State.at_forme]

theorem exec_constantRestoreDone_judged (hr : s.mem.restore = r :: rest) (hb : s.dev.bare = false) (hp : s.pte? r.play r.vpage = some e) :
    exec (.constantRestoreDone n) s = .next (judgeRestored r rest e (s.pageBytes r.sect r.page) (s.freshPage (pteDev e))
      (s.pageRec r.sect r.page) (s.at n)) := by
  have hq : (s.at n).pte? r.play r.vpage = some e := hp
  change execConstantRestoreDone n s = _
  simp only [execConstantRestoreDone, State.at_dev, State.at_mem, hr, hb, hq, Bool.false_eq_true, if_false, State.at_freshPage,
    State.at_pageBytes, State.at_pageRec]

theorem judgeRestored_waits (bs : List Byte) (h : Option (List Byte)) : judgeRestored r rest e bs none h s = s := rfl

theorem judgeRestored_maps (bs : List Byte) : judgeRestored r rest e bs (some d) (some ((sha512 bs).take 8)) s = mapRestored r rest e d bs s :=
  if_pos rfl

theorem judgeRestored_fails {bs : List Byte} {h : Option (List Byte)} (hn : h ≠ some ((sha512 bs).take 8)) :
    judgeRestored r rest e bs (some d) h s = failRestore s := by
  cases h with
  | none => rfl
  | some h => exact if_neg fun hh => hn (congrArg some hh.symm)

/-- The sector that event 0x0403 names. -/
def restoredSector (d : Nat) : Nat :=
  match region d with
  | .galley k => k.1
  | _ => 0

/-- The entry of the restored page. -/
def restoredPte (e : W128) (d : Nat) : W128 :=
  mkPte (pteRD e) (pteWR e) (e.extractLsb' 8 3).toNat (pteFirst e) (pteLast e) d ||| (e &&& BitVec.ofNat 128 0x18)

theorem countRestored_eq (s : State) : ∃ c o, countRestored s = { s with mem := { s.mem with restored := c, ovf := o } } := ⟨_, _, rfl⟩

/-- A restored page's bytes, its entry, its count and its event. -/
theorem mapRestored_eq (bs : List Byte) (s : State) : ∃ ds c o, mapRestored r rest e d bs s =
    logEvent 0x0403 idImposer (restoredSector d) { setPte r.play r.vpage (restoredPte e d) (devWrite d bs s) with
      mem := { (setPte r.play r.vpage (restoredPte e d) (devWrite d bs s)).mem with drops := ds, restore := rest, restored := c, ovf := o } } := by
  obtain ⟨ds, hs⟩ := startDrop_eq r.play r.vpage (pteDev e) s
  unfold mapRestored
  rw [hs]
  obtain ⟨c, o, hc⟩ := countRestored_eq (setPte r.play r.vpage (restoredPte e d)
    { devWrite d bs { s with mem := { s.mem with drops := ds } } with
      mem := { (devWrite d bs { s with mem := { s.mem with drops := ds } }).mem with restore := rest } })
  exact ⟨ds, c, o, congrArg (logEvent 0x0403 idImposer (restoredSector d)) hc⟩

/-- A restored page stands at its new place, and the table names it with the old page's rights. -/
theorem mapRestored_spec (bs : List Byte) (hd : d % 2 ^ 21 = 0 ∧ d < 2 ^ 48) (s : State) :
    (mapRestored r rest e d bs s).mem.restore = rest ∧ Logs s (mapRestored r rest e d bs s) 0x0403 idImposer (restoredSector d) ∧
      (mapRestored r rest e d bs s).sched = s.sched ∧
      (∃ q, (mapRestored r rest e d bs s).pte? r.play r.vpage = some q ∧ pteDev q = d ∧ pteRD q = pteRD e ∧ pteWR q = pteWR e) ∧
      (mapRestored r rest e d bs s).mem.cells = cellsWrite s.mem.cells d bs := by
  obtain ⟨ds, c, o, h⟩ := mapRestored_eq (r := r) (rest := rest) (e := e) (d := d) bs s
  rw [h]
  refine ⟨rfl, ?_, rfl, ⟨_, setPte_pte? r.play r.vpage (restoredPte e d) (devWrite d bs s), ?_⟩, rfl⟩
  · exact (logEvent_logs 0x0403 idImposer (restoredSector d) _).earlier (.same rfl)
  · exact restoredPte_fields e _ _ _ hd.1 hd.2

/-- A restoration that fails leaves its page and its play unmapped. -/
theorem failRestore_spec (h : s.mem.restore = r :: rest) :
    (failRestore s).mem.restore = rest ∧ Newest (failRestore s) 0x0405 idImposer 0 ∧ r.play ∈ (failRestore s).sched.unmapped ∧
      (failRestore s).pte? r.play r.vpage = none ∧ (failRestore s).mem.cells = s.mem.cells := by
  obtain ⟨ds, hu⟩ := unmapPage_eq r.play r.vpage { s with mem := { s.mem with restore := rest } }
  unfold failRestore
  rw [h]
  dsimp only
  rw [hu]
  refine ⟨rfl, logEvent_newest 0x0405 idImposer 0 _, ?_, pte?_eq_none rfl, rfl⟩
  dsimp only
  split
  · assumption
  · exact List.mem_cons_self

theorem completes_constantRestoreDone_mapped (hr : s.mem.restore = r :: rest) (hb : s.dev.bare = false)
    (hp : s.pte? r.play r.vpage = some e) (hd : s.freshPage (pteDev e) = some d)
    (hh : s.pageRec r.sect r.page = some ((sha512 (s.pageBytes r.sect r.page)).take 8)) :
    Completes (.constantRestoreDone n) s fun t =>
      t.mem.restore = rest ∧ Logs s t 0x0403 idImposer (restoredSector d) ∧ t.sched = s.sched ∧
      (∃ q, t.pte? r.play r.vpage = some q ∧ pteDev q = d ∧ pteRD q = pteRD e ∧ pteWR q = pteWR e) ∧
      t.mem.cells = cellsWrite s.mem.cells d (s.pageBytes r.sect r.page) := by
  have he := exec_constantRestoreDone_judged (n := n) hr hb hp
  rw [hd, hh, judgeRestored_maps] at he
  exact ⟨_, he, mapRestored_spec _ (freshPage_aligned hd) (s.at n)⟩

theorem completes_constantRestoreDone_failed (hr : s.mem.restore = r :: rest) (hb : s.dev.bare = false)
    (h : s.pte? r.play r.vpage = none ∨ ∃ e d, s.pte? r.play r.vpage = some e ∧ s.freshPage (pteDev e) = some d ∧
      s.pageRec r.sect r.page ≠ some ((sha512 (s.pageBytes r.sect r.page)).take 8)) :
    Completes (.constantRestoreDone n) s fun t => t.mem.restore = rest ∧ Newest t 0x0405 idImposer 0 ∧ r.play ∈ t.sched.unmapped ∧
      t.pte? r.play r.vpage = none ∧ t.mem.cells = s.mem.cells := by
  have he : exec (.constantRestoreDone n) s = .next (failRestore (s.at n)) := by
    rcases h with h | ⟨e, d, hp, hd, hh⟩
    · exact exec_constantRestoreDone_unmapped hr hb h
    · rw [exec_constantRestoreDone_judged hr hb hp, hd, judgeRestored_fails hh]
  exact ⟨_, he, failRestore_spec (s := s.at n) hr⟩

/-! #### Dropped mappings (R230, R231) -/

variable {p : Fin 16} {play page : Nat}

/-- A drop that waits for the press. -/
def Drop.awaits (p : Fin 16) (play page : Nat) (d : Drop) : Bool := decide (d.play = play) && decide (d.page = page) && decide (p ∈ d.presses)

theorem Drop.awaits_iff {d : Drop} : d.awaits p play page = true ↔ (d.play = play ∧ d.page = page) ∧ p ∈ d.presses := by
  simp [Drop.awaits]

/-- The device pages that the press still holds under the page's older mappings. -/
def State.oldPages (s : State) (p : Fin 16) (play page : Nat) : List Nat := (s.mem.drops.filter (Drop.awaits p play page)).map Drop.dev

/-- The memory system after a press has let go of the old device pages: an entry of one of them goes, but a locked one takes the new
mapping. -/
def ackMem (p : Fin 16) (play page : Nat) (s : State) : Mem :=
  { s.mem with
    drops := (s.mem.drops.map fun d => if d.awaits p play page then { d with presses := d.presses.filter fun q => q != p } else d).filter
      fun d => d.presses ≠ []
    tcache := s.mem.tcache.flatMap fun e =>
      if e.1 = p ∧ e.2.play = play ∧ e.2.page = page ∧ pteDev e.2.pte ∈ s.oldPages p play page then (s.relock e.2).map fun x => (p, x) else [e]
    blocks := s.mem.blocks.filter fun b => !(decide (b.1 = p) && decide (b.2 / 2 ^ 21 * 2 ^ 21 ∈ s.oldPages p play page))
    trackers := lmod (fun x => decide (x.press = some p) && decide (x.pool = 3) &&
      decide (x.dev / 2 ^ 21 * 2 ^ 21 ∈ s.oldPages p play page)) (fun x => { x with drop := true }) s.mem.trackers }

theorem exec_mappingDropAck (n : Nat) (p : Fin 16) (play page : Nat) (s : State) : exec (.mappingDropAck n p play page) s =
    .next (if s.oldPages p play page = [] then s.at n else wakeLocked { s.at n with mem := ackMem p play page s }) := by
  change execMappingDropAck n p play page s = _
  unfold execMappingDropAck
  dsimp only
  split
  · next h => exact congrArg Host.Outcome.next (if_pos h).symm
  · next h => exact congrArg Host.Outcome.next (if_neg h).symm

theorem wakeLocked_mem (s : State) : (wakeLocked s).mem = s.mem :=
  have h : Apart (fun f => decide (f = .press)) s (wakeLocked s) := wakeLocked_apart rfl (.refl _ _)
  h.same .mem rfl

theorem mem_oldPages {d : Drop} (hd : d ∈ s.mem.drops) (ha : d.awaits p play page = true) : d.dev ∈ s.oldPages p play page :=
  List.mem_map_of_mem (List.mem_filter.2 ⟨hd, ha⟩)

/-- No drop waits for the press any longer. -/
theorem ackMem_drops (s : State) : ∀ d ∈ (ackMem p play page s).drops, d.awaits p play page = false := by
  intro d hd
  obtain ⟨c, -, rfl⟩ := List.mem_map.1 (List.mem_filter.1 hd).1
  split
  · simp [Drop.awaits]
  · next h => exact Bool.eq_false_iff.2 h

/-- An entry that still translates the page to an old device page is locked, and holds the present mapping. -/
theorem ackMem_tcache (s : State) {e : Fin 16 × TEntry} (he : e ∈ (ackMem p play page s).tcache) (h1 : e.1 = p) (h2 : e.2.play = play)
    (h3 : e.2.page = page) (h4 : pteDev e.2.pte ∈ s.oldPages p play page) : e.2.locked = true ∧ s.pte? play page = some e.2.pte := by
  obtain ⟨c, -, hc⟩ := List.mem_flatMap.1 he
  split at hc
  · next hcond =>
    obtain ⟨-, hplay, hpage, -⟩ := hcond
    obtain ⟨x, hx, rfl⟩ := List.mem_map.1 hc
    unfold State.relock at hx
    split at hx
    · next hl =>
      obtain ⟨y, hy, rfl⟩ := List.mem_map.1 hx
      have hf := Option.mem_toList.1 hy
      rw [hplay, hpage] at hf
      exact ⟨hl, (Option.filter_eq_some_iff.1 hf).1⟩
    · cases hx
  · next hcond =>
    rw [List.mem_singleton] at hc
    subst hc
    exact absurd ⟨h1, h2, h3, h4⟩ hcond

theorem ackMem_blocks (s : State) : ∀ b ∈ (ackMem p play page s).blocks, ¬(b.1 = p ∧ b.2 / 2 ^ 21 * 2 ^ 21 ∈ s.oldPages p play page) := by
  intro b hb ⟨h1, h2⟩
  have hn : b.2 / 2 ^ 21 * 2 ^ 21 ∉ s.oldPages p play page := by simpa [h1] using (List.mem_filter.1 hb).2
  exact hn h2

theorem completes_mappingDropAck (n : Nat) (p : Fin 16) (play page : Nat) (s : State) : Completes (.mappingDropAck n p play page) s fun t =>
      (∀ d ∈ t.mem.drops, ¬(d.play = play ∧ d.page = page ∧ p ∈ d.presses)) ∧ t.mem.cells = s.mem.cells ∧ t.mem.l2 = s.mem.l2 ∧
      ∀ d ∈ s.mem.drops, d.play = play → d.page = page → p ∈ d.presses →
        (∀ e ∈ t.mem.tcache, e.1 = p → e.2.play = play → e.2.page = page → pteDev e.2.pte = d.dev →
          e.2.locked = true ∧ s.pte? play page = some e.2.pte) ∧
        ∀ b ∈ t.mem.blocks, ¬(b.1 = p ∧ b.2 / 2 ^ 21 * 2 ^ 21 = d.dev) := by
  have hx := exec_mappingDropAck n p play page s
  by_cases h : s.oldPages p play page = []
  · rw [if_pos h] at hx
    have none : ∀ d ∈ s.mem.drops, ¬(d.play = play ∧ d.page = page ∧ p ∈ d.presses) := fun d hd ⟨h1, h2, h3⟩ => by
      have := mem_oldPages hd (Drop.awaits_iff.2 ⟨⟨h1, h2⟩, h3⟩)
      rw [h] at this
      cases this
    exact ⟨_, hx, none, rfl, rfl, fun d hd h1 h2 h3 => absurd ⟨h1, h2, h3⟩ (none d hd)⟩
  · rw [if_neg h] at hx
    refine ⟨_, hx, ?_⟩
    beta_reduce
    rw [wakeLocked_mem]
    refine ⟨fun d hd ⟨h1, h2, h3⟩ => ?_, rfl, rfl, fun d hd h1 h2 h3 => ?_⟩
    · exact Bool.eq_false_iff.1 (ackMem_drops s d hd) (Drop.awaits_iff.2 ⟨⟨h1, h2⟩, h3⟩)
    · have hold := mem_oldPages hd (Drop.awaits_iff.2 ⟨⟨h1, h2⟩, h3⟩)
      exact ⟨fun e he e1 e2 e3 e4 => ackMem_tcache s he e1 e2 e3 (e4 ▸ hold),
        fun b hb ⟨b1, b2⟩ => ackMem_blocks s b hb ⟨b1, b2 ▸ hold⟩⟩

/-! #### The sweep of a pinned leaf (R201) -/

variable {leaf : Nat} {l : Leaf}

theorem leaf?_names (h : s.leaf? play leaf = some l) : l.play = play ∧ l.num = leaf := by
  simpa using List.find?_some h

theorem dropLeaf_leaf? (play leaf : Nat) (s : State) : (dropLeaf play leaf s).leaf? play leaf = none := by
  rw [State.leaf?, List.find?_eq_none]
  intro x hx hc
  have hn := (List.mem_filter.1 hx).2
  have hc' : x.play = play ∧ x.num = leaf := by simpa using hc
  simp [hc'] at hn

theorem setLeaf_leaf? (l : Leaf) (s : State) : (setLeaf l s).leaf? l.play l.num = some l := by
  simp [State.leaf?, setLeaf]

theorem exec_leafSweepDone (h : s.leaf? play leaf = some l) (hp : l.st = .pinned) (hs : l.sweep = true) :
    exec (.leafSweepDone n play leaf) s = .next (if s.leafHeld play leaf then setLeaf { l with sweep := false } (s.at n)
      else logEvent 0x0C02 idStage 0 (dropLeaf play leaf (s.at n))) := by
  have h' : (s.at n).leaf? play leaf = some l := h
  change execLeafSweepDone n play leaf s = _
  simp only [execLeafSweepDone, h', hp, hs, and_self, if_true]
  exact (apply_ite Host.Outcome.next _ _ _).symm

theorem exec_leafSweepDone_none (h : ∀ l, s.leaf? play leaf = some l → l.st ≠ .pinned ∨ l.sweep = false) :
    exec (.leafSweepDone n play leaf) s = .next (s.at n) := by
  change execLeafSweepDone n play leaf s = _
  unfold execLeafSweepDone
  dsimp only
  split
  · rfl
  · next l hl =>
    refine if_neg fun ⟨hp, hs⟩ => ?_
    rcases h l hl with g | g
    · exact g hp
    · exact Bool.eq_false_iff.1 g hs

end Upkeep

/-- Settles O45, row by row: the word's write-back ends, the restored page is mapped, waits or fails, the acknowledged drop leaves nothing
but a locked entry, and the swept leaf stays or is freed. -/
theorem memoryUpkeep : Obligations.MemoryUpkeep := by
  intro n s
  refine ⟨fun addr => exec_eccWriteBack n addr s, fun a bs => devWrite_wbacks a bs s, exec_constantRestoreDone_idle,
    fun r rest e hr hb hp => ⟨fun hf => ?_, fun d hd hh => completes_constantRestoreDone_mapped hr hb hp hd hh⟩,
    fun r rest hr hb h => completes_constantRestoreDone_failed hr hb h, fun p play page => completes_mappingDropAck n p play page s,
    fun play leaf l h hp hs => ⟨fun hh => ?_, fun hh => ?_⟩, fun play leaf h => exec_leafSweepDone_none h⟩
  · rw [exec_constantRestoreDone_judged hr hb hp, hf, judgeRestored_waits]
  · have e := exec_leafSweepDone (n := n) h hp hs
    rw [hh, if_pos rfl] at e
    obtain ⟨rfl, rfl⟩ := leaf?_names h
    exact ⟨_, e, setLeaf_leaf? _ _, rfl⟩
  · have e := exec_leafSweepDone (n := n) h hp hs
    rw [hh, if_neg Bool.false_ne_true] at e
    exact ⟨_, e, dropLeaf_leaf? _ _ _, logEvent_newest _ _ _ _⟩

end Sys2Proof.Machine

namespace Sys2Proof.Machine

/-! ### Within a cue -/

/-- Settles O5: what a command outside a boundary and a reset keeps of the cue is `InCue`. -/
theorem withinCue : Obligations.WithinCue := by
  intro c s t hc h
  have k := exec_next_inCue h hc
  exact ⟨k.count, k.b, k.source, k.stamp, k.atB, k.late, k.invalid, k.published, k.latch, k.fault, k.raise⟩

/-! ### Where boundaries come from (R33 to R38) -/

theorem Logs.grows {s t : State} {code detail : Nat} {unit : Byte} (h : Logs s t code unit detail) : ∃ new, LogGrows s t new := by
  obtain ⟨new, hg, -⟩ := h
  exact ⟨new, hg⟩

section Boundaries

variable {s u : State} {n : Nat} {obs : BoundaryObs}

/-- A boundary begins the next cue after what was done within the cue before it. -/
theorem InCue.boundary_begins (h : InCue s u) (ht : u.tb = s.tb) (b src : Nat) (obs : BoundaryObs) :
    BeginsCue s (boundary b src obs u) b src :=
  Machine.boundary_begins b src obs h.count ht h.log

/-- An event logged ahead of a boundary stays logged. -/
theorem Logs.boundary {code detail : Nat} {unit : Byte} (h : Logs s u code unit detail) (b src : Nat) (obs : BoundaryObs) :
    Logs s (boundary b src obs u) code unit detail := by
  obtain ⟨_, hg⟩ := (boundary_logs b src obs u).grows
  exact h.later hg

/-! #### Edges of CUE_IN -/

/-- What an accepted edge does ahead of its boundary: the external cue is regained, and the run of cue faults ends. -/
def regainCue (s : State) : State :=
  let s := if s.cue.extLost then logEvent 0x0104 idTime 0 { s with cue := { s.cue with extLost := false } } else s
  { s with cue := { s.cue with faultRun := 0 } }

theorem acceptEdge_eq (b : Nat) (obs : BoundaryObs) (s : State) : acceptEdge b obs s = boundary b 0 obs (regainCue s) := rfl

theorem regainCue_inCue (s : State) : InCue s (regainCue s) := by
  unfold regainCue
  split
  · exact InCue.upd (logEvent_inCue (InCue.upd (.refl s) rfl rfl rfl rfl id id id id id rfl .inl rfl)) rfl rfl rfl rfl id id id id id
      rfl .inl rfl
  · exact InCue.upd (.refl s) rfl rfl rfl rfl id id id id id rfl .inl rfl

theorem regainCue_tb (s : State) : (regainCue s).tb = s.tb := by
  unfold regainCue
  split <;> rfl

theorem regainCue_logs (h : s.cue.extLost = true) : Logs s (regainCue s) 0x0104 idTime 0 := by
  unfold regainCue
  rw [if_pos h]
  exact logEvent_logs 0x0104 idTime 0 { s with cue := { s.cue with extLost := false } }

theorem acceptEdge_begins (b : Nat) (obs : BoundaryObs) (s : State) : BeginsCue s (acceptEdge b obs s) b 0 :=
  (regainCue_inCue s).boundary_begins (regainCue_tb s) b 0 obs

theorem acceptEdge_regains (h : s.cue.extLost = true) (b : Nat) (obs : BoundaryObs) :
    Logs s (acceptEdge b obs s) 0x0104 idTime 0 :=
  (regainCue_logs h).boundary b 0 obs

/-- What every cue fault counts and logs, before the loss of the external cue is judged. -/
def countFault (code detail : Nat) (s : State) : State :=
  noteSeen 0 <| logEvent code idTime detail { s with cue := { s.cue with
    faultSeen := true, faultCount := (sat32 s.cue.faultCount 1).1, faultOvf := s.cue.faultOvf || (sat32 s.cue.faultCount 1).2,
    faultRun := s.cue.faultRun + 1 } }

theorem cueFault_eq (code detail : Nat) (s : State) : cueFault code detail s = if s.cue.faultRun + 1 = 8 then
    logEvent 0x0103 idTime 0 { countFault code detail s with cue := { (countFault code detail s).cue with extLost := true } }
    else countFault code detail s := rfl

theorem countFault_logs (code detail : Nat) (s : State) : Logs s (countFault code detail s) code idTime detail :=
  logEvent_logs code idTime detail { s with cue := { s.cue with
    faultSeen := true, faultCount := (sat32 s.cue.faultCount 1).1, faultOvf := s.cue.faultOvf || (sat32 s.cue.faultCount 1).2,
    faultRun := s.cue.faultRun + 1 } }

/-- A cue fault is counted and logged, and the eighth in a row loses the external cue (R34, R35). -/
theorem cueFault_faults (code detail : Nat) (s : State) : FaultsCue s (cueFault code detail s) code detail := by
  have hev := countFault_logs code detail s
  rw [cueFault_eq]
  split
  · have hlost := logEvent_logs 0x0103 idTime 0
      { countFault code detail s with cue := { (countFault code detail s).cue with extLost := true } }
    obtain ⟨_, hev'⟩ := hev.grows
    obtain ⟨_, hlost'⟩ := hlost.grows
    exact ⟨rfl, rfl, hev.later hlost', fun _ => ⟨rfl, hlost.earlier hev'⟩⟩
  · next h => exact ⟨rfl, rfl, hev, fun h8 => absurd h8 h⟩

theorem cueFault_frame (code detail : Nat) (s : State) : (cueFault code detail s).cue.ignore = s.cue.ignore ∧
    (cueFault code detail s).tb = s.tb := by
  rw [cueFault_eq]
  split <;> exact ⟨rfl, rfl⟩

section Edges

variable {low high : Nat} (hg : s.generating = true) (hs : s.forme.source = 1) (hl : us 1 ≤ low) (hh : us 1 ≤ high)
include hg hs hl hh

/-- The generator judges the edge. -/
theorem edge_counts : ¬(!(s.at n).generating || decide ((s.at n).forme.source ≠ 1) || decide (low < us 1) || decide (high < us 1)) = true := by
  have hg' : (s.at n).generating = true := hg
  simp [hg', hs, hl, hh]

/-- The first edge of all is a boundary within 2 P of STANDBY (R38). -/
theorem exec_cueInEdge_first (hc : s.cue.count = 0) : exec (.cueInEdge n low high obs) s = .next
    (if (s.at n).now / 4 * 4 < s.cue.standbyAt + 800 * s.forme.period then boundary ((s.at n).now / 4 * 4) 0 obs (s.at n) else s.at n) :=
  congrArg Host.Outcome.next ((if_neg (edge_counts hg hs hl hh)).trans (if_pos hc))

/-- Edges are ignored after a cue fault until the fallback has placed its boundary (R34). -/
theorem exec_cueInEdge_ignored (hc : s.cue.count ≠ 0) (hi : s.cue.ignore = true) : exec (.cueInEdge n low high obs) s = .next (s.at n) :=
  congrArg Host.Outcome.next ((if_neg (edge_counts hg hs hl hh)).trans ((if_neg hc).trans (if_pos hi)))

/-- An edge of a later cue is judged by its offset from the last boundary (R34, R35). -/
theorem exec_cueInEdge_judged (hc : s.cue.count ≠ 0) (hi : s.cue.ignore = false) {b : Nat} (hb : b = (s.at n).now / 4 * 4) :
    exec (.cueInEdge n low high obs) s = .next
      (if b - s.cue.b < 392 * s.forme.period then
          cueFault 0x0101 (earlyDetail s.forme.period (b - s.cue.b)) { s.at n with cue := { s.cue with ignore := true } }
       else if s.cue.extLost then (if b - s.cue.b < 400 * s.forme.period then acceptEdge b obs (s.at n) else s.at n)
       else if b - s.cue.b ≤ 408 * s.forme.period then acceptEdge b obs (s.at n) else s.at n) := by
  subst hb
  exact congrArg Host.Outcome.next ((if_neg (edge_counts hg hs hl hh)).trans ((if_neg hc).trans (if_neg (Bool.eq_false_iff.1 hi))))

end Edges

theorem exec_cueInEdge_none {low high : Nat} (h : s.generating = false ∨ s.forme.source ≠ 1 ∨ low < us 1 ∨ high < us 1) :
    exec (.cueInEdge n low high obs) s = .next (s.at n) := by
  have hg : (s.at n).generating = s.generating := rfl
  refine congrArg Host.Outcome.next (if_pos ?_)
  rcases h with h | h | h | h <;> simp [hg, h]

/-! #### Boundaries without an edge -/

theorem generates_not (hg : s.generating = true) : ¬(!(s.at n).generating) = true := by
  have hg' : (s.at n).generating = true := hg
  simp [hg']

/-- Where CUE_IN is missing, the generator places the boundary when it is due (R34, R35, R38). -/
theorem exec_cueInMissing (hg : s.generating = true) (hs : s.forme.source = 1) (hi : s.cue.ignore = false) :
    exec (.cueInMissing n obs) s = .next
      (if s.cue.count = 0 then
        (if s.cue.standbyAt + 800 * s.forme.period ≤ (s.at n).now then
          boundary (s.cue.standbyAt + 800 * s.forme.period) 3 obs (logEvent 0x0105 idTime 0 (s.at n)) else s.at n)
       else if s.cue.extLost then
        (if s.cue.b + 400 * s.forme.period ≤ (s.at n).now then boundary (s.cue.b + 400 * s.forme.period) 3 obs (s.at n) else s.at n)
       else if s.cue.b + 408 * s.forme.period ≤ (s.at n).now then
        boundary (s.cue.b + 408 * s.forme.period) 3 obs (cueFault 0x0102 0 (s.at n)) else s.at n) := by
  have hg' : (s.at n).generating = true := hg
  exact congrArg Host.Outcome.next (if_neg (by simp [hg', hs, hi]))

theorem exec_cueInMissing_none (h : s.generating = false ∨ s.forme.source ≠ 1 ∨ s.cue.ignore = true) :
    exec (.cueInMissing n obs) s = .next (s.at n) := by
  have hg : (s.at n).generating = s.generating := rfl
  refine congrArg Host.Outcome.next (if_pos ?_)
  rcases h with h | h | h <;> simp [hg, h]

/-- With an external cue the internal generator places a boundary only as the fallback (R34). -/
theorem exec_internalCueBoundary_fallback (hg : s.generating = true) (hs : s.forme.source = 1) :
    exec (.internalCueBoundary n obs) s = .next (if s.cue.ignore && decide (s.cue.b + 400 * s.forme.period ≤ (s.at n).now) then
      boundary (s.cue.b + 400 * s.forme.period) 2 obs (s.at n) else s.at n) :=
  congrArg Host.Outcome.next ((if_neg (generates_not hg)).trans (if_pos hs))

/-- The boundary of the free generator: STANDBY's entry, then every period (R37, R38). -/
theorem exec_internalCueBoundary_free (hg : s.generating = true) (hs : s.forme.source = 2) {b : Nat}
    (hb : b = if s.cue.count = 0 then s.cue.standbyAt else s.cue.b + 400 * s.forme.period) (hn : b ≤ (s.at n).now) :
    exec (.internalCueBoundary n obs) s = .next (boundary b 1 obs (s.at n)) := by
  have h1 : (s.at n).forme.source ≠ 1 := by simp [hs]
  subst hb
  exact congrArg Host.Outcome.next ((if_neg (generates_not hg)).trans ((if_neg h1).trans ((if_pos hs).trans (if_pos hn))))

/-- The first boundary of the PTP-aligned generator (R38). -/
theorem exec_internalCueBoundary_alignedFirst (hg : s.generating = true) (hs : s.forme.source = 3) (hc : s.cue.count = 0)
    (hn : alignedFirst s ≤ (s.at n).now) : exec (.internalCueBoundary n obs) s = .next
      (boundary (alignedFirst s) 1 obs (markAligned (alignedFirst s) (s.at n))) := by
  have h1 : (s.at n).forme.source ≠ 1 := by simp [hs]
  have h2 : (s.at n).forme.source ≠ 2 := by simp [hs]
  exact congrArg Host.Outcome.next ((if_neg (generates_not hg)).trans ((if_neg h1).trans ((if_neg h2).trans ((if_pos hc).trans
    (if_pos hn)))))

/-- A later boundary of the PTP-aligned generator (R37). -/
theorem exec_internalCueBoundary_alignedNext (hg : s.generating = true) (hs : s.forme.source = 3) (hc : s.cue.count ≠ 0)
    (hn : alignedNext s ≤ (s.at n).now) : exec (.internalCueBoundary n obs) s = .next
      (boundary (alignedNext s) 1 obs (markAligned (alignedNext s) (s.at n))) := by
  have h1 : (s.at n).forme.source ≠ 1 := by simp [hs]
  have h2 : (s.at n).forme.source ≠ 2 := by simp [hs]
  exact congrArg Host.Outcome.next ((if_neg (generates_not hg)).trans ((if_neg h1).trans ((if_neg h2).trans ((if_neg hc).trans
    (if_pos hn)))))

theorem exec_internalCueBoundary_none (h : s.generating = false ∨ (s.forme.source = 1 ∧ s.cue.ignore = false)) :
    exec (.internalCueBoundary n obs) s = .next (s.at n) := by
  by_cases hg : s.generating = true
  · obtain ⟨hs, hi⟩ := h.resolve_left (by simp [hg])
    rw [exec_internalCueBoundary_fallback hg hs, hi, Bool.false_and, if_neg Bool.false_ne_true]
  · have hg' : (s.at n).generating = false := Bool.eq_false_iff.2 hg
    exact congrArg Host.Outcome.next (if_pos (by rw [hg']; rfl))

/-- The PTP-aligned generator changes a cue by at most 0.05 % of P (R37). -/
theorem alignedNext_near (s : State) :
    ((alignedNext s : Int) - (s.cue.b + 400 * s.forme.period : Nat)).natAbs ≤ 400 * s.forme.period / 2000 := by
  unfold alignedNext
  extract_lets p lim e d
  have hp : p = (400 * s.forme.period : Nat) := rfl
  have hlim : lim = p / 2000 := rfl
  have hpos : -lim ≤ 0 ∧ 0 ≤ lim := by omega
  have hd : -lim ≤ d ∧ d ≤ lim := by
    show -lim ≤ (if _ then _ else _) ∧ (if _ then _ else _) ≤ lim
    split
    · exact hpos
    · exact ⟨le_max_left _ _, max_le (hpos.1.trans hpos.2) (min_le_right _ _)⟩
  omega

end Boundaries

/-- Settles O16: an edge is the first of all, is ignored, or is judged by its offset from the last boundary. -/
theorem cueInEdges : Obligations.CueInEdges := by
  intro n low high b obs s hb
  refine ⟨fun hg hs hl hh => ⟨fun hc hlt => ?_, fun hc hge => ?_, fun hc hi he hlo hhi => ?_, fun hc hi he hlo hhi => ?_,
    fun hc hi hlo => ?_, fun hc h => ?_⟩, exec_cueInEdge_none⟩
  · refine ⟨_, exec_cueInEdge_first hg hs hl hh hc, ?_⟩
    rw [← hb, if_pos hlt]
    exact (InCue.refl (s.at n)).boundary_begins rfl b 0 obs
  · rw [exec_cueInEdge_first hg hs hl hh hc, ← hb, if_neg (Nat.not_lt.2 hge)]
  · refine ⟨_, exec_cueInEdge_judged hg hs hl hh hc hi hb, ?_⟩
    rw [if_neg (Nat.not_lt.2 hlo), he, if_neg Bool.false_ne_true, if_pos hhi]
    exact acceptEdge_begins b obs (s.at n)
  · refine ⟨_, exec_cueInEdge_judged hg hs hl hh hc hi hb, ?_⟩
    rw [if_neg (Nat.not_lt.2 hlo), if_pos he, if_pos hhi]
    exact ⟨acceptEdge_begins b obs (s.at n), acceptEdge_regains (s := s.at n) he b obs⟩
  · refine ⟨_, exec_cueInEdge_judged hg hs hl hh hc hi hb, ?_⟩
    rw [if_pos hlo]
    have hf := cueFault_faults 0x0101 (earlyDetail s.forme.period (b - s.cue.b)) { s.at n with cue := { s.cue with ignore := true } }
    exact ⟨(cueFault_frame _ _ _).1, (cueFault_inCue (.refl _)).count, hf⟩
  · by_cases hi : s.cue.ignore = true
    · exact exec_cueInEdge_ignored hg hs hl hh hc hi
    · have h' := h.resolve_left hi
      rw [exec_cueInEdge_judged hg hs hl hh hc (Bool.eq_false_iff.2 hi) hb]
      rcases h' with ⟨he, hgt⟩ | ⟨he, hge, hlo⟩
      · rw [if_neg (by omega), he, if_neg Bool.false_ne_true, if_neg (Nat.not_le.2 hgt)]
      · rw [if_neg (Nat.not_lt.2 hlo), if_pos he, if_neg (Nat.not_lt.2 hge)]

/-- Settles O17: each of the two commands places the boundary that its cue source has due, and changes nothing for another's. -/
theorem boundariesWithoutEdges : Obligations.BoundariesWithoutEdges := by
  refine ⟨fun n obs s hg hs hi => ⟨fun hc hn => ?_, fun hc he hn => ?_, fun hc he hn => ?_⟩, fun n obs s => exec_cueInMissing_none,
    fun n obs s => exec_internalCueBoundary_none, fun n obs s hg => ⟨fun hs hi hn => ?_, fun hs hc hn => ?_, fun hs hc hn => ?_,
      fun hs hc hn => ?_, fun hs hc hn => ?_⟩⟩
  · refine ⟨_, exec_cueInMissing hg hs hi, ?_⟩
    rw [if_pos hc, if_pos hn]
    exact ⟨(logEvent_inCue (.refl (s.at n))).boundary_begins rfl _ 3 obs, (logEvent_logs 0x0105 idTime 0 (s.at n)).boundary _ 3 obs⟩
  · refine ⟨_, exec_cueInMissing hg hs hi, ?_⟩
    rw [if_neg hc, if_pos he, if_pos hn]
    exact (InCue.refl (s.at n)).boundary_begins rfl _ 3 obs
  · refine ⟨_, exec_cueInMissing hg hs hi, ?_⟩
    rw [if_neg hc, he, if_neg Bool.false_ne_true, if_pos hn]
    obtain ⟨-, -, hlog, -⟩ := cueFault_faults 0x0102 0 (s.at n)
    exact ⟨(cueFault_inCue (.refl (s.at n))).boundary_begins (cueFault_frame _ _ _).2 _ 3 obs, hlog.boundary _ 3 obs⟩
  · refine ⟨_, exec_internalCueBoundary_fallback hg hs, ?_⟩
    rw [hi, decide_eq_true hn, if_pos (by rfl)]
    exact (InCue.refl (s.at n)).boundary_begins rfl _ 2 obs
  · exact ⟨_, exec_internalCueBoundary_free hg hs (if_pos hc).symm hn, (InCue.refl (s.at n)).boundary_begins rfl _ 1 obs⟩
  · exact ⟨_, exec_internalCueBoundary_free hg hs (if_neg hc).symm hn, (InCue.refl (s.at n)).boundary_begins rfl _ 1 obs⟩
  · have hb : BeginsCue s (boundary (alignedNext s) 1 obs (markAligned (alignedNext s) (s.at n))) (alignedNext s) 1 :=
      (markAligned_inCue (.refl (s.at n))).boundary_begins rfl _ 1 obs
    obtain ⟨-, hplace, -⟩ := id hb
    refine ⟨_, exec_internalCueBoundary_alignedNext hg hs hc hn, hb, ?_⟩
    rw [hplace]
    exact alignedNext_near s
  · exact ⟨_, exec_internalCueBoundary_alignedFirst hg hs hc hn, (markAligned_inCue (.refl (s.at n))).boundary_begins rfl _ 1 obs⟩

end Sys2Proof.Machine

namespace Sys2Proof.Machine

/-! ### Unit records (R360, R361) -/

theorem unitIdx_injective : Function.Injective unitIdx := by
  intro u v h
  cases u <;> cases v <;> simp only [unitIdx, Fin.ext_iff] at h ⊢ <;> simp [Fin.ext_iff] at h ⊢ <;> omega

section UnitRecords

variable {s t w : State} {u v : UnitId}

@[simp] theorem State.unit_modUnit_self (u : UnitId) (f : UnitRec → UnitRec) (s : State) : (s.modUnit u f).unit u = f (s.unit u) := by
  rw [State.unit, State.modUnit_units, vmod_get, if_pos rfl]
  rfl

theorem State.unit_modUnit_ne (h : v ≠ u) (f : UnitRec → UnitRec) (s : State) : (s.modUnit u f).unit v = s.unit v := by
  rw [State.unit, State.modUnit_units, vmod_get, if_neg fun e => h (unitIdx_injective e.symm)]
  rfl

theorem State.unit_congr (h : t.units = s.units) (u : UnitId) : t.unit u = s.unit u := by
  rw [State.unit, State.unit, h]

/-- A unit's record without what it is suspected of. -/
def UnitRec.unsuspected (r : UnitRec) : UnitRec := { r with suspect := false, suspectSrc := 0 }

/-- A unit's record stands, a suspicion aside. -/
def Stands (u : UnitId) (s t : State) : Prop := (t.unit u).unsuspected = (s.unit u).unsuspected

theorem Stands.refl (u : UnitId) (s : State) : Stands u s s := rfl

theorem Stands.trans (a : Stands u s t) (b : Stands u t w) : Stands u s w := Eq.trans b a

theorem Stands.of_unit (h : t.unit u = s.unit u) : Stands u s t := congrArg UnitRec.unsuspected h

theorem Stands.mode (h : Stands u s t) : (t.unit u).mode = (s.unit u).mode :=
  show (t.unit u).unsuspected.mode = (s.unit u).unsuspected.mode from congrArg UnitRec.mode h

theorem Stands.proof (h : Stands u s t) : (t.unit u).proof = (s.unit u).proof :=
  show (t.unit u).unsuspected.proof = (s.unit u).unsuspected.proof from congrArg UnitRec.proof h

theorem Stands.proofFail (h : Stands u s t) : (t.unit u).proofFail = (s.unit u).proofFail :=
  show (t.unit u).unsuspected.proofFail = (s.unit u).unsuspected.proofFail from congrArg UnitRec.proofFail h

theorem Stands.inServ (h : Stands u s t) : t.inServ u = s.inServ u := by
  rw [State.inServ, State.inServ, UnitRec.inServ, UnitRec.inServ, h.mode]

/-- Every field but the unit records. -/
def butUnits : Field → Bool := fun f => decide (f ≠ .units)

theorem Stands.apart (h : Apart butUnits s t) : Stands u s t := .of_unit (State.unit_congr (h.same .units rfl) u)

theorem Stands.foldl {α : Type} (l : List α) (f : State → α → State) (h : Stands u s t) (hf : ∀ w a, Stands u w (f w a)) :
    Stands u s (l.foldl f t) :=
  List.foldlRecOn l f (motive := fun w => Stands u s w) h fun w hw a _ => hw.trans (hf w a)

theorem flushPress_stands (u : UnitId) (p : Fin 16) (s : State) : Stands u s (flushPress p s) := by
  unfold flushPress
  split
  · refine Stands.of_unit (u := u) rfl |>.trans ?_
    by_cases h : u = .press p
    · subst h
      show UnitRec.unsuspected (State.unit (State.modUnit _ _ _) _) = _
      rw [State.unit_modUnit_self]
      rfl
    · exact .of_unit (State.unit_modUnit_ne h _ _)
  · exact .of_unit rfl

end UnitRecords

/-! ### Kills (R294, R302) -/

section Kills

variable {s t : State} {u : UnitId} {cause : Nat} {k : InstKey} {i : Inst}

/-- What a kill does beside its run's entry: charges, the event and the count, and the run's requests, presses and buffers. -/
def releaseRun (cause : Nat) (i : Inst) (s : State) : State :=
  unmapBufs i (i.presses.foldl (fun s p => flushPress p s) (buryBufs i (dropRequests i.presses
    ((logKill i cause (chargeRun i s)).modPart i.part (bump PartRt.kills (fun r v => { r with kills := v }) 2)))))

/-- A killed run's entry; its buffers are spent, but for those that the state names as others'. -/
def Inst.killed (s : State) (i : Inst) : Inst :=
  { i with
    st := .killed, units := [], partsDone := [], spent := s.ownBufs i ++ i.spent, bufs := [], xfers := [], wrote := [], wasKilled := true
    dScene := 0, dPlay := 0 }

/-- The run's entry is killed, in the state without its run. -/
def endRun (cause : Nat) (i : Inst) (s : State) : State :=
  (releaseRun cause i s).modInst i.key (Inst.killed (releaseRun cause i s))

theorem inst?_key (h : s.inst? k = some i) : i.key = k := by
  simpa using List.find?_some h

theorem killInst_running (h : s.inst? k = some i) (hr : i.st = .running) :
    killInst cause k s = if cause = 14 then abandonInst 14 i (endRun cause i s) else endRun cause i s := by
  obtain rfl := inst?_key h
  rw [killInst, h]
  dsimp only
  rw [if_neg (not_not.2 hr)]
  rfl

theorem killInst_idle (h : ∀ i, s.inst? k = some i → i.st ≠ .running) : killInst cause k s = s := by
  unfold killInst
  split
  · rfl
  · next i hi => exact if_pos (h i hi)

/-- A kill acts on an entry that runs, or not at all. -/
theorem killInst_cases (cause : Nat) (k : InstKey) (s : State) : killInst cause k s = s ∨ ∃ i, s.inst? k = some i ∧ i.st = .running ∧
    killInst cause k s = if cause = 14 then abandonInst 14 i (endRun cause i s) else endRun cause i s := by
  by_cases h : ∃ i, s.inst? k = some i ∧ i.st = .running
  · obtain ⟨i, hi, hr⟩ := h
    exact .inr ⟨i, hi, hr, killInst_running hi hr⟩
  · exact .inl (killInst_idle fun i hi hr => h ⟨i, hi, hr⟩)

theorem releaseRun_stands (u : UnitId) (cause : Nat) (i : Inst) (s : State) : Stands u s (releaseRun cause i s) := by
  have before : Apart butUnits s (buryBufs i (dropRequests i.presses ((logKill i cause (chargeRun i s)).modPart i.part
      (bump PartRt.kills (fun r v => { r with kills := v }) 2)))) :=
    buryBufs_apart rfl (dropRequests_apart rfl rfl (State.modPart_apart rfl (logKill_apart rfl rfl (chargeRun_apart rfl rfl rfl rfl
      (.refl _ _)))))
  exact (Stands.foldl _ _ (.apart before) fun w p => flushPress_stands u p w).trans (.apart (unmapBufs_apart rfl (.refl _ _)))

theorem killInst_stands (u : UnitId) (cause : Nat) (k : InstKey) (s : State) : Stands u s (killInst cause k s) := by
  rcases killInst_cases cause k s with e | ⟨i, -, -, e⟩
  · rw [e]
    exact .refl u s
  · have he : Stands u s (endRun cause i s) := (releaseRun_stands u cause i s).trans (.of_unit rfl)
    rw [e]
    split
    · exact he.trans (.of_unit rfl)
    · exact he

theorem killWhere_stands (u : UnitId) (cause : Nat) (p : Inst → Bool) (s : State) : Stands u s (killWhere cause p s) :=
  .foldl _ _ (.refl u s) fun w k => killInst_stands u cause k w

/-- Of the schedule only instances change, and the buffers that stay out of use. -/
def OnlyRuns (s t : State) : Prop := ∃ l d, t.sched = { s.sched with insts := l, dying := d }

theorem OnlyRuns.refl (s : State) : OnlyRuns s s := ⟨_, _, rfl⟩

theorem OnlyRuns.trans {w : State} (a : OnlyRuns s t) (b : OnlyRuns t w) : OnlyRuns s w := by
  obtain ⟨_, _, ha⟩ := a
  obtain ⟨l, d, hb⟩ := b
  exact ⟨l, d, by rw [hb, ha]⟩

theorem OnlyRuns.slices (h : OnlyRuns s t) : t.sched.slices = s.sched.slices := by
  obtain ⟨_, _, e⟩ := h
  rw [e]

theorem OnlyRuns.values (h : OnlyRuns s t) : t.sched.values = s.sched.values := by
  obtain ⟨_, _, e⟩ := h
  rw [e]

/-- Every field but the schedule. -/
def butSched : Field → Bool := fun f => decide (f ≠ .sched)

theorem buryBufs_sched (i : Inst) (s : State) : ∃ d, (buryBufs i s).sched = { s.sched with dying := d } := by
  unfold buryBufs
  split <;> exact ⟨_, rfl⟩

theorem releaseRun_sched (cause : Nat) (i : Inst) (s : State) : ∃ d, (releaseRun cause i s).sched = { s.sched with dying := d } := by
  unfold releaseRun
  extract_lets
  generalize hw : dropRequests i.presses ((logKill i cause (chargeRun i s)).modPart i.part
    (bump PartRt.kills (fun r v => { r with kills := v }) 2)) = w
  have before : Apart butSched s w := hw ▸ dropRequests_apart rfl rfl (State.modPart_apart rfl (logKill_apart rfl rfl
    (chargeRun_apart rfl rfl rfl rfl (.refl _ _))))
  have after : Apart butSched (buryBufs i w) (unmapBufs i (i.presses.foldl (fun s p => flushPress p s) (buryBufs i w))) :=
    unmapBufs_apart rfl (.foldl _ _ (.refl _ _) fun _ _ h => flushPress_apart rfl rfl h)
  obtain ⟨d, hd⟩ := buryBufs_sched i w
  exact ⟨d, (after.same .sched rfl).trans (hd.trans (by rw [show w.sched = s.sched from before.same .sched rfl]))⟩

theorem endRun_insts (cause : Nat) (i : Inst) (s : State) : ∃ w, (endRun cause i s).sched.insts =
    lmod (fun x => x.key = i.key) (Inst.killed w) s.sched.insts := by
  obtain ⟨d, hd⟩ := releaseRun_sched cause i s
  have hi : (releaseRun cause i s).sched.insts = s.sched.insts := by rw [hd]
  exact ⟨releaseRun cause i s, congrArg (lmod _ _) hi⟩

theorem endRun_onlyRuns (cause : Nat) (i : Inst) (s : State) : OnlyRuns s (endRun cause i s) := by
  obtain ⟨d, hd⟩ := releaseRun_sched cause i s
  have he : (endRun cause i s).sched = { (releaseRun cause i s).sched with insts := (endRun cause i s).sched.insts } := rfl
  exact ⟨(endRun cause i s).sched.insts, d, by rw [he, hd]⟩

theorem killInst_onlyRuns (cause : Nat) (k : InstKey) (s : State) : OnlyRuns s (killInst cause k s) := by
  rcases killInst_cases cause k s with e | ⟨i, -, -, e⟩ <;> rw [e]
  · exact .refl s
  · split
    · exact (endRun_onlyRuns cause i s).trans ⟨_, _, rfl⟩
    · exact endRun_onlyRuns cause i s

theorem killWhere_onlyRuns (cause : Nat) (p : Inst → Bool) (s : State) : OnlyRuns s (killWhere cause p s) :=
  List.foldlRecOn _ _ (motive := OnlyRuns s) (.refl s) fun w hw k _ => hw.trans (killInst_onlyRuns cause k w)

/-- An entry that a kill has ended. -/
def Inst.Gone (y : Inst) : Prop := y.st = .killed ∧ y.units = [] ∧ y.bufs = [] ∧ y.wasKilled = true

theorem Inst.killed_gone (w : State) (i : Inst) : (Inst.killed w i).Gone := ⟨rfl, rfl, rfl, rfl⟩

/-- Every entry under a key has been killed and not admitted again. -/
def KilledAt (k : InstKey) (s : State) : Prop := ∀ y ∈ s.sched.insts, y.key = k → y.Gone

/-- After a kill an entry is gone, or another's than the killed run's and as before. -/
theorem mem_endRun_insts {y : Inst} (h : y ∈ (endRun cause i s).sched.insts) : y.Gone ∨ (y ∈ s.sched.insts ∧ y.key ≠ i.key) := by
  obtain ⟨w, e⟩ := endRun_insts cause i s
  rw [e] at h
  obtain ⟨x, hx, rfl⟩ := List.mem_map.1 h
  by_cases hk : x.key = i.key
  · exact .inl (by simpa [hk] using Inst.killed_gone w x)
  · exact .inr (by simpa [hk] using hx)

theorem endRun_killedAt (cause : Nat) (i : Inst) (s : State) : KilledAt i.key (endRun cause i s) := fun _ hy hk =>
  (mem_endRun_insts hy).resolve_right fun h => h.2 hk

theorem KilledAt.endRun (h : KilledAt k s) (cause : Nat) (i : Inst) : KilledAt k (endRun cause i s) := fun y hy hk =>
  (mem_endRun_insts hy).elim id fun g => h y g.1 hk

theorem KilledAt.killInst (h : KilledAt k s) (hc : cause ≠ 14) (k' : InstKey) : KilledAt k (killInst cause k' s) := by
  rcases killInst_cases cause k' s with e | ⟨i, -, -, e⟩ <;> rw [e]
  · exact h
  · rw [if_neg hc]
    exact h.endRun cause i

/-- The kill of one entry leaves the others as they are. -/
theorem killInst_inst?_ne (hc : cause ≠ 14) {k' : InstKey} (hk : k ≠ k') : (killInst cause k' s).inst? k = s.inst? k := by
  rcases killInst_cases cause k' s with e | ⟨i, hi, -, e⟩ <;> rw [e]
  rw [if_neg hc]
  obtain ⟨w, h⟩ := endRun_insts cause i s
  obtain rfl := inst?_key hi
  have hkey : (fun x : Inst => decide (x.key = k)) ∘ (fun x => if decide (x.key = i.key) = true then Inst.killed w x else x) =
      fun x => decide (x.key = k) := by
    funext x
    dsimp only [Function.comp]
    split <;> rfl
  rw [State.inst?, State.inst?, h, lmod, List.find?_map, hkey]
  cases hf : s.sched.insts.find? fun x => x.key = k with
  | none => rfl
  | some x =>
    have hx : x.key ≠ i.key := (show x.key = k from inst?_key hf) ▸ hk
    simp [hx]

/-- Kills in a row kill what runs under one of their keys. -/
theorem killedAt_foldl_killInst (hc : cause ≠ 14) {l : List InstKey} (hk : k ∈ l) (h : s.inst? k = some i) (hr : i.st = .running) :
    KilledAt k (l.foldl (fun s k => killInst cause k s) s) := by
  induction l generalizing s with
  | nil => cases hk
  | cons k' l ih =>
    rw [List.foldl_cons]
    by_cases he : k = k'
    · subst he
      refine List.foldlRecOn l _ (motive := KilledAt k) ?_ fun w hw x _ => hw.killInst hc x
      rw [killInst_running h hr, if_neg hc]
      exact inst?_key h ▸ endRun_killedAt cause i s
    · exact ih ((List.mem_cons.1 hk).resolve_left he) ((killInst_inst?_ne hc he).trans h)

theorem killWhere_kills (hc : cause ≠ 14) {p : Inst → Bool} (hm : i ∈ s.sched.insts) (hr : i.st = .running) (hi : s.inst? i.key = some i)
    (hp : p i = true) : KilledAt i.key (killWhere cause p s) :=
  killedAt_foldl_killInst hc (List.mem_map_of_mem (List.mem_filter.2 ⟨hm, by simp [hr, hp]⟩)) hi hr

end Kills

end Sys2Proof.Machine

namespace Sys2Proof.Machine

/-! ### Rehearsal slices that yield (R48, R362) -/

section Slices

variable {s t w : State} {b : Nat} {us : List UnitId} {u : UnitId} {x y : Slice}

/-- Only rehearsal slices have ended, with the progress that they count. -/
def OnlySlices (s t : State) : Prop := ∃ l c, t = { s with sched := { s.sched with slices := l, ctlProgress := c } }

theorem OnlySlices.refl (s : State) : OnlySlices s s := ⟨_, _, rfl⟩

theorem OnlySlices.trans (a : OnlySlices s t) (b : OnlySlices t w) : OnlySlices s w := by
  obtain ⟨_, _, rfl⟩ := a
  obtain ⟨l, c, rfl⟩ := b
  exact ⟨l, c, rfl⟩

theorem OnlySlices.insts (h : OnlySlices s t) : t.sched.insts = s.sched.insts := by
  obtain ⟨_, _, rfl⟩ := h
  rfl

theorem OnlySlices.values (h : OnlySlices s t) : t.sched.values = s.sched.values := by
  obtain ⟨_, _, rfl⟩ := h
  rfl

theorem OnlySlices.cue (h : OnlySlices s t) : t.cue = s.cue := by
  obtain ⟨_, _, rfl⟩ := h
  rfl

theorem OnlySlices.off (h : OnlySlices s t) : t.off = s.off := by
  obtain ⟨_, _, rfl⟩ := h
  rfl

theorem OnlySlices.inServ (h : OnlySlices s t) (u : UnitId) : t.inServ u = s.inServ u := by
  obtain ⟨_, _, rfl⟩ := h
  rfl

theorem suspendSlice_slices (x : Slice) (s : State) :
    (suspendSlice x s).sched.slices = s.sched.slices.filter fun y => y.unit != x.unit := by
  unfold suspendSlice
  dsimp only
  split <;> rfl

theorem suspendSlice_onlySlices (x : Slice) (s : State) : OnlySlices s (suspendSlice x s) := by
  unfold suspendSlice
  dsimp only
  split <;> exact ⟨_, _, rfl⟩

theorem suspendSlices_onlySlices (b : Nat) (us : List UnitId) (s : State) : OnlySlices s (suspendSlices b us s) :=
  List.foldlRecOn _ _ (motive := OnlySlices s) (.refl s) fun _ hw x _ => hw.trans (suspendSlice_onlySlices x _)

theorem mem_foldl_suspendSlice (l : List Slice) (s : State) : y ∈ (l.foldl (fun s x => suspendSlice x s) s).sched.slices ↔
    y ∈ s.sched.slices ∧ ∀ x ∈ l, y.unit ≠ x.unit := by
  induction l generalizing s with
  | nil => simp
  | cons x l ih => simp [ih, suspendSlice_slices, and_assoc]

/-- A slice that is suspended: one admitted before the instant, on one of the units, which is in service. -/
def State.yields (s : State) (b : Nat) (us : List UnitId) (x : Slice) : Prop := x.at_ < b ∧ ∃ u ∈ us, x.unit = .unit u ∧ s.inServ u = true

theorem mem_suspendSlices : y ∈ (suspendSlices b us s).sched.slices ↔
    y ∈ s.sched.slices ∧ ∀ x ∈ s.sched.slices, s.yields b us x → y.unit ≠ x.unit := by
  rw [suspendSlices, mem_foldl_suspendSlice]
  simp [State.yields]

/-- What still runs on one of the units in service was admitted from the instant on. -/
theorem suspendSlices_admitted (h : y ∈ (suspendSlices b us s).sched.slices) (hy : y.unit = .unit u) (hu : u ∈ us)
    (hs : s.inServ u = true) : b ≤ y.at_ := by
  obtain ⟨hm, hn⟩ := mem_suspendSlices.1 h
  exact Nat.le_of_not_lt fun hlt => hn y hm ⟨hlt, u, hu, hy, hs⟩ rfl

theorem suspendSlices_spares (h : y ∈ s.sched.slices) (hy : ∀ u ∈ us, y.unit ≠ .unit u) : y ∈ (suspendSlices b us s).sched.slices :=
  mem_suspendSlices.2 ⟨h, fun _ _ ⟨_, u, hu, hx, _⟩ => hx ▸ hy u hu⟩

theorem mem_of_mem_suspendSlices (h : y ∈ (suspendSlices b us s).sched.slices) : y ∈ s.sched.slices := (mem_suspendSlices.1 h).1

end Slices

/-! ### COMPARISON_START, LMIN_MARK and WINDOW_START (R40, R41, R46, R472) -/

section Starts

variable {s t : State} {n : Nat}

/-- What COMPARISON_START asks for (R472). -/
def State.comparisonDue (s : State) : Bool :=
  s.cue.running && decide (s.cue.stateAtB = .running ∨ s.cue.stateAtB = .degraded) && !s.cue.late && !s.slotsFailed &&
    !s.cue.compStarted && decide (us s.forme.sheet.compStart ≤ s.off)

theorem exec_comparisonStart (n : Nat) (s : State) : exec (.comparisonStart n) s = .next
    (if (s.at n).comparisonDue then { s.at n with cue := { s.cue with compStarted := true } } else s.at n) := rfl

theorem State.comparisonDue_iff : s.comparisonDue = true ↔ s.cue.running = true ∧
    (s.cue.stateAtB = .running ∨ s.cue.stateAtB = .degraded) ∧ s.cue.late = false ∧ s.slotsFailed = false ∧
    s.cue.compStarted = false ∧ us s.forme.sheet.compStart ≤ s.off := by
  simp [State.comparisonDue, and_assoc]

theorem exec_lminMark (h : s.cue.running = true) (ho : us s.lminUs ≤ (s.at n).off) : exec (.lminMark n) s =
    .next (suspendSlices (s.at n).now [.umem] { s.at n with cue := { s.cue with mark := 6 } }) :=
  congrArg Host.Outcome.next (if_pos (by rw [Bool.and_eq_true]; exact ⟨h, decide_eq_true ho⟩))

theorem exec_lminMark_none (h : s.cue.running = false ∨ (s.at n).off < us s.lminUs) : exec (.lminMark n) s = .next (s.at n) := by
  refine congrArg Host.Outcome.next (if_neg fun hc => ?_)
  obtain ⟨hr, ho⟩ := Bool.and_eq_true_iff.1 hc
  rcases h with h | h
  · exact Bool.eq_false_iff.1 h hr
  · exact absurd (of_decide_eq_true ho) (Nat.not_le.2 h)

theorem exec_windowStart_idle (h : s.cue.running = false) (w : Window) : exec (.windowStart n w) s = .next (s.at n) :=
  congrArg Host.Outcome.next (if_pos (by simp [h]))

/-- The runs that the perception window displaces. -/
def State.perceptionTakes (s : State) (i : Inst) : Bool := i.displaced 0 && i.presses.any fun p => s.isSafetyPress p

/-- The runs that the understudy window displaces. -/
def understudyTakes (i : Inst) : Bool := i.displaced 1 && allCores.any fun k => i.on (.core k)

/-- The runs on the units whose part of the reserve has begun: `pb` and `cb` are the offsets of the parts. -/
def reserveTakes (pb cb off : Nat) (i : Inst) : Bool :=
  (decide (pb ≤ off) && decide (i.presses ≠ [])) || (decide (cb ≤ off) && allCores.any fun k => i.on (.core k))

/-- A part of the reserve, once begun, suspends the slices on its units. -/
def suspendPart (a : Nat) (us : List UnitId) (s : State) : State := if a ≤ s.off then suspendSlices (s.cue.b + a) us s else s

theorem suspendPart_onlySlices (a : Nat) (us : List UnitId) (s : State) : OnlySlices s (suspendPart a us s) := by
  unfold suspendPart
  split
  · exact suspendSlices_onlySlices _ _ _
  · exact .refl s

theorem mem_of_mem_suspendPart {a : Nat} {us : List UnitId} {y : Slice} (h : y ∈ (suspendPart a us s).sched.slices) :
    y ∈ s.sched.slices := by
  unfold suspendPart at h
  split at h
  · exact mem_of_mem_suspendSlices h
  · exact h

theorem suspendPart_admitted {a : Nat} {us : List UnitId} {u : UnitId} {y : Slice} (h : y ∈ (suspendPart a us s).sched.slices)
    (hy : y.unit = .unit u) (hu : u ∈ us) (hs : s.inServ u = true) (ha : a ≤ s.off) : s.cue.b + a ≤ y.at_ := by
  rw [suspendPart, if_pos ha] at h
  exact suspendSlices_admitted h hy hu hs

/-- The slices that yield to the reserve: on presses, then on cores. -/
def suspendReserve (s : State) : State :=
  suspendPart (us (s.lminUs - s.forme.rehCore)) (allCores.map .core)
    (suspendPart (us (s.lminUs - s.forme.rehPress)) (allPresses.map .press) s)

theorem suspendReserve_onlySlices (s : State) : OnlySlices s (suspendReserve s) :=
  (suspendPart_onlySlices _ _ _).trans (suspendPart_onlySlices _ _ _)

/-- The perception window's start: its kills, then the slices that yield, then its pages (R230). -/
def perceptionStart (s : State) : State :=
  lockWindow (suspendSlices (s.cue.b + us s.forme.sheet.perStart) ((allPresses.filter fun p => s.isSafetyPress p).map .press)
    (killWhere 0 s.perceptionTakes s))

/-- The understudy window's start. -/
def understudyStart (s : State) : State :=
  suspendSlices (s.cue.b + us s.forme.sheet.undStart) (allCores.map .core) (killWhere 0 understudyTakes s)

/-- The start of the reserve, or of a part of it. -/
def reserveStart (s : State) : State :=
  killWhere 0 (reserveTakes (us (s.lminUs - s.forme.rehPress)) (us (s.lminUs - s.forme.rehCore)) s.off) (suspendReserve s)

theorem exec_windowStart_perception (h : s.cue.running = true) (ho : us s.forme.sheet.perStart ≤ (s.at n).off) :
    exec (.windowStart n .perception) s = .next (perceptionStart (s.at n)) :=
  congrArg Host.Outcome.next ((if_neg (by simp [h])).trans (if_pos ho))

theorem exec_windowStart_perception_early (ho : (s.at n).off < us s.forme.sheet.perStart) :
    exec (.windowStart n .perception) s = .next (s.at n) :=
  congrArg Host.Outcome.next (ite_eq_left_iff.2 fun _ => if_neg (Nat.not_le.2 ho))

theorem exec_windowStart_understudy (h : s.cue.running = true) (ho : us s.forme.sheet.undStart ≤ (s.at n).off) :
    exec (.windowStart n .understudy) s = .next (understudyStart (s.at n)) :=
  congrArg Host.Outcome.next ((if_neg (by simp [h])).trans (if_pos ho))

theorem exec_windowStart_understudy_early (ho : (s.at n).off < us s.forme.sheet.undStart) :
    exec (.windowStart n .understudy) s = .next (s.at n) :=
  congrArg Host.Outcome.next (ite_eq_left_iff.2 fun _ => if_neg (Nat.not_le.2 ho))

theorem exec_windowStart_reserve (h : s.cue.running = true) : exec (.windowStart n .reserve) s = .next (reserveStart (s.at n)) := by
  rw [reserveStart, ← (suspendReserve_onlySlices (s.at n)).off]
  exact congrArg Host.Outcome.next (if_neg (by simp [h]))

theorem windowStart_values {w : Window} (h : exec (.windowStart n w) s = .next t) (hv : t.sched.values = s.sched.values) :
    t.cue = s.cue ∧ t.cur = s.cur ∧ t.cog = s.cog ∧ t.sched.values = s.sched.values :=
  have frame {f : Field} (hf : f ∉ fieldsOf (.windowStart n w)) : Same s t f := exec_next_apart h hf
  ⟨frame (f := .cue) (by simp [fieldsOf]), frame (f := .cur) (by simp [fieldsOf]), frame (f := .cog) (by simp [fieldsOf]), hv⟩

/-! #### The schedule and the units after each start -/

/-- Every field but the memory. -/
def onlyMem : Field → Bool := fun f => decide (f = .mem)

theorem lockWindow_sched (s : State) : (lockWindow s).sched = s.sched :=
  (lockWindow_apart (m := onlyMem) rfl (.refl _ s)).same .sched rfl

theorem lockWindow_inServ (u : UnitId) (s : State) : (lockWindow s).inServ u = s.inServ u := by
  have h : (lockWindow s).units = s.units := (lockWindow_apart (m := onlyMem) rfl (.refl _ s)).same .units rfl
  rw [State.inServ, State.inServ, State.unit_congr h]

theorem perceptionStart_insts (s : State) : (perceptionStart s).sched.insts = (killWhere 0 s.perceptionTakes s).sched.insts := by
  rw [perceptionStart, lockWindow_sched, (suspendSlices_onlySlices _ _ _).insts]

theorem perceptionStart_values (s : State) : (perceptionStart s).sched.values = s.sched.values := by
  rw [perceptionStart, lockWindow_sched, (suspendSlices_onlySlices _ _ _).values, (killWhere_onlyRuns _ _ _).values]

variable {x : Slice} {p : Fin 16} {k : Fin 4}

theorem perceptionStart_admitted (hx : x ∈ (perceptionStart s).sched.slices) (hp : x.unit = .unit (.press p))
    (ht : (perceptionStart s).inServ (.press p) = true) (hs : s.isSafetyPress p = true) :
    s.cue.b + us s.forme.sheet.perStart ≤ x.at_ := by
  rw [perceptionStart, lockWindow_sched] at hx
  rw [perceptionStart, lockWindow_inServ, (suspendSlices_onlySlices _ _ _).inServ] at ht
  exact suspendSlices_admitted hx hp (by simp [allPresses, hs]) ht

theorem understudyStart_insts (s : State) : (understudyStart s).sched.insts = (killWhere 0 understudyTakes s).sched.insts :=
  (suspendSlices_onlySlices _ _ _).insts

theorem understudyStart_values (s : State) : (understudyStart s).sched.values = s.sched.values :=
  (suspendSlices_onlySlices _ _ _).values.trans (killWhere_onlyRuns _ _ _).values

theorem understudyStart_admitted (hx : x ∈ (understudyStart s).sched.slices) (hk : x.unit = .unit (.core k))
    (ht : (understudyStart s).inServ (.core k) = true) : s.cue.b + us s.forme.sheet.undStart ≤ x.at_ := by
  rw [understudyStart, (suspendSlices_onlySlices _ _ _).inServ] at ht
  exact suspendSlices_admitted hx hk (by simp [allCores]) ht

theorem reserveStart_values (s : State) : (reserveStart s).sched.values = s.sched.values :=
  (killWhere_onlyRuns _ _ _).values.trans (suspendReserve_onlySlices s).values

theorem reserveStart_inServ (u : UnitId) (s : State) : (reserveStart s).inServ u = s.inServ u :=
  (killWhere_stands u _ _ _).inServ.trans ((suspendReserve_onlySlices s).inServ u)

theorem reserveStart_slices (s : State) : (reserveStart s).sched.slices = (suspendReserve s).sched.slices :=
  (killWhere_onlyRuns _ _ _).slices

theorem reserveStart_admitted_press (hx : x ∈ (reserveStart s).sched.slices) (hp : x.unit = .unit (.press p))
    (ht : (reserveStart s).inServ (.press p) = true) (ho : us (s.lminUs - s.forme.rehPress) ≤ s.off) :
    s.cue.b + us (s.lminUs - s.forme.rehPress) ≤ x.at_ := by
  rw [reserveStart_slices] at hx
  rw [reserveStart_inServ] at ht
  exact suspendPart_admitted (mem_of_mem_suspendPart hx) hp (by simp [allPresses]) ht ho

theorem reserveStart_admitted_core (hx : x ∈ (reserveStart s).sched.slices) (hk : x.unit = .unit (.core k))
    (ht : (reserveStart s).inServ (.core k) = true) (ho : us (s.lminUs - s.forme.rehCore) ≤ s.off) :
    s.cue.b + us (s.lminUs - s.forme.rehCore) ≤ x.at_ := by
  have hs := suspendPart_onlySlices (us (s.lminUs - s.forme.rehPress)) (allPresses.map .press) s
  rw [reserveStart_slices] at hx
  rw [reserveStart_inServ, ← hs.inServ] at ht
  rw [← hs.off] at ho
  rw [← hs.cue]
  exact suspendPart_admitted hx hk (by simp [allCores]) ht ho

/-- A window's start kills what runs on its units. -/
theorem killWhere_kills_running {u : State} {q : Inst → Bool} {i : Inst} (hu : u.sched.insts = s.sched.insts)
    (ht : t.sched.insts = (killWhere 0 q u).sched.insts) (hm : i ∈ s.sched.insts) (hr : i.st = .running) (hi : s.inst? i.key = some i)
    (hq : q i = true) : KilledAt i.key t := by
  have hi' : u.inst? i.key = some i := by rw [State.inst?, hu]; exact hi
  intro y hy
  rw [ht] at hy
  exact killWhere_kills (by decide) (hu ▸ hm) hr hi' hq y hy

end Starts

/-- Settles O19: the two marks, then each window's start: what it leaves, the slices on its units, and its kills. -/
theorem marksAndWindowStarts : Obligations.MarksAndWindowStarts := by
  refine ⟨fun n s => ⟨fun h1 h2 h3 h4 h5 h6 => ?_, fun h => ?_, fun hr ho => ?_, exec_lminMark_none, exec_windowStart_idle,
    exec_windowStart_perception_early, exec_windowStart_understudy_early⟩, fun n w s hr hp hu => ?_⟩
  · rw [exec_comparisonStart, if_pos (State.comparisonDue_iff (s := s.at n) |>.2 ⟨h1, h2, h3, h4, h5, h6⟩)]
  · rw [exec_comparisonStart, if_neg]
    intro hd
    obtain ⟨h1, h2, h3, h4, h5, h6⟩ := State.comparisonDue_iff.1 hd
    rcases h with h | h | h | h | h | h
    · exact Bool.eq_false_iff.1 h h1
    · exact h h2
    · exact Bool.eq_false_iff.1 h3 h
    · exact Bool.eq_false_iff.1 h4 h
    · exact Bool.eq_false_iff.1 h5 h
    · exact Nat.not_le.2 h h6
  · have hs := suspendSlices_onlySlices (s.at n).now [.umem] { s.at n with cue := { s.cue with mark := 6 } }
    refine ⟨_, exec_lminMark hr ho, hs.cue, hs.insts, fun hu x hx hx' => ?_, fun x hx hx' => ?_⟩
    · exact suspendSlices_admitted hx hx' (List.mem_singleton.2 rfl) hu
    · exact suspendSlices_spares hx fun u hu => List.mem_singleton.1 hu ▸ hx'
  · cases w with
    | perception =>
      have e := exec_windowStart_perception hr (hp rfl)
      obtain ⟨hcue, hcur, hcog, hval⟩ := windowStart_values e (perceptionStart_values (s.at n))
      refine ⟨_, e, hcue, hcur, hcog, hval, fun x hx => ⟨fun p hp ht => ⟨fun _ hs => ?_, nofun⟩, fun k _ _ => ⟨nofun, nofun⟩⟩,
        fun x hx hr hi ht => ?_⟩
      · exact perceptionStart_admitted (s := s.at n) hx hp ht hs
      · exact killWhere_kills_running rfl (perceptionStart_insts (s.at n)) hx hr hi ht
    | understudy =>
      have e := exec_windowStart_understudy hr (hu rfl)
      obtain ⟨hcue, hcur, hcog, hval⟩ := windowStart_values e (understudyStart_values (s.at n))
      refine ⟨_, e, hcue, hcur, hcog, hval, fun x hx => ⟨fun p _ _ => ⟨nofun, nofun⟩, fun k hk ht => ⟨fun _ => ?_, nofun⟩⟩,
        fun x hx hr hi ht => ?_⟩
      · exact understudyStart_admitted (s := s.at n) hx hk ht
      · exact killWhere_kills_running rfl (understudyStart_insts (s.at n)) hx hr hi ht
    | reserve =>
      have e := exec_windowStart_reserve (n := n) hr
      obtain ⟨hcue, hcur, hcog, hval⟩ := windowStart_values e (reserveStart_values (s.at n))
      refine ⟨_, e, hcue, hcur, hcog, hval, fun x hx => ⟨fun p hp ht => ⟨nofun, fun _ ho => ?_⟩, fun k hk ht => ⟨nofun, fun _ ho => ?_⟩⟩,
        fun x hx hr hi ht => ?_⟩
      · exact reserveStart_admitted_press (s := s.at n) hx hp ht ho
      · exact reserveStart_admitted_core (s := s.at n) hx hk ht ho
      · exact killWhere_kills_running (suspendReserve_onlySlices (s.at n)).insts rfl hx hr hi ht

end Sys2Proof.Machine

namespace Sys2Proof.Machine

/-! ### Detections (R324, R334, R335) -/

section Detections

variable {s t w : State} {cause : Nat} {unit : Byte}

theorem invalidate_invalid (cause : Nat) (s : State) (h : s.cue.published = false) : (invalidate cause s).cue.invalid = true := by
  unfold invalidate
  split
  · next hc => exact hc.resolve_left (Bool.eq_false_iff.1 h)
  · rfl

/-- Of the cue an invalidation changes only that mark and its cause. -/
theorem invalidate_cue (cause : Nat) (s : State) : ∃ i p, (invalidate cause s).cue = { s.cue with invalid := i, pubCause := p } := by
  unfold invalidate
  split <;> exact ⟨_, _, rfl⟩

theorem curtainStop_cue (cause : Nat) (unit : Byte) (s : State) : (curtainStop cause unit s).cue = s.cue := by
  unfold curtainStop
  split <;> rfl

theorem detect_detected (cause : Nat) (unit : Byte) (s : State) : Detected s (detect cause unit s) := by
  refine ⟨⟨curtainStop_latch _ _ _, curtainStop_off _ _ _⟩, fun h => ?_⟩
  rw [detect, curtainStop_cue]
  exact invalidate_invalid cause s h

/-- What a detection brings stays for the rest of the command. -/
theorem Detected.later (h : Detected s t) (hc : InCue t w) (hk : Keeps t w) : Detected s w := by
  obtain ⟨⟨hl, hr⟩, hi⟩ := h
  refine ⟨⟨hc.latch hl, Bool.eq_false_iff.2 fun hw => ?_⟩, fun hp => hc.invalid (hi hp)⟩
  exact Bool.eq_false_iff.1 hr (hk.start hw)

theorem Detected.of_published (h : Detected t w) (hp : t.cue.published = s.cue.published) : Detected s w :=
  ⟨h.1, fun hs => h.2 (hp.trans hs)⟩

end Detections

/-! ### WINDOW_END (R51, R472) -/

section WindowEnd

variable {s : State} {n : Nat} {per und : Bool}

/-- Every field that the end of a cue's safety scenes leaves. -/
def butKills : Field → Bool := fun f => decide (f ≠ .cue ∧ f ≠ .cur)

theorem endSafety_butKills (s : State) : Apart butKills s (endSafety s) := endSafety_apart rfl rfl rfl rfl rfl rfl rfl rfl (.refl _ s)

/-- A cue that becomes late shows it, counts and logs it, before it is detected. -/
def noteLate (code detail : Nat) (unit : Byte) (s : State) : State :=
  noteSeen 1 <| logEvent code unit detail { s with cue := { s.cue with
    late := true, lateSeen := true, lateCount := (sat32 s.cue.lateCount 1).1, lateOvf := s.cue.lateOvf || (sat32 s.cue.lateCount 1).2 } }

theorem goLate_eq (code detail : Nat) (unit : Byte) (s : State) :
    goLate code detail unit s = endSafety (failPair (detect 4 unit (noteLate code detail unit s))) := rfl

/-- What follows the note of the lateness changes only the cue's validity. -/
theorem goLate_cue (code detail : Nat) (unit : Byte) (s : State) : ∃ i p, (goLate code detail unit s).cue =
    { (noteLate code detail unit s).cue with invalid := i, pubCause := p } := by
  obtain ⟨i, p, h⟩ := invalidate_cue 4 (noteLate code detail unit s)
  have e : (goLate code detail unit s).cue = (failPair (detect 4 unit (noteLate code detail unit s))).cue :=
    (endSafety_butKills _).same .cue rfl
  refine ⟨i, p, e.trans ?_⟩
  rw [failPair_cue, detect, curtainStop_cue, h]

theorem goLate_detected (code detail : Nat) (unit : Byte) (s : State) : Detected s (goLate code detail unit s) :=
  ((detect_detected 4 unit (noteLate code detail unit s)).later (endSafety_inCue (failPair_inCue (.refl _)))
    (endSafety_keeps (failPair_keeps (.refl _)))).of_published rfl

theorem goLate_logs (code detail : Nat) (unit : Byte) (s : State) : Logs s (goLate code detail unit s) code unit detail := by
  obtain ⟨_, hg⟩ := (endSafety_inCue (failPair_inCue (detect_inCue (a1 := 4) (a2 := unit) (.refl (noteLate code detail unit s))))).log
  exact (show Logs s (noteLate code detail unit s) code unit detail from logEvent_logs code unit detail { s with cue := _ }).later hg

/-- The windows that end are marked, and the presses' locks end with the perception window (R230). -/
def markEnds (per und : Bool) (s : State) : State :=
  let s := { s with cue := { s.cue with perEnded := s.cue.perEnded || per, undEnded := s.cue.undEnded || und } }
  if per then unlockPages s else s

/-- A window that ends before its safety scenes have committed makes the cue late. -/
def judgeLate (badP badU : Bool) (s : State) : State :=
  if (badP || badU) && !s.cue.late && !s.slotsFailed then
    goLate 0x0110 (if badP && badU then 2 else if badU then 1 else 0) idStage s else s

/-- MARK once both windows have ended (R40). -/
def markBoth (s : State) : State := if s.cue.perEnded && s.cue.undEnded then { s with cue := { s.cue with mark := 3 } } else s

/-- MARK, and the pair of a cue that is judged, once both windows have ended. -/
def closeWindows (s : State) : State :=
  if (markBoth s).cue.perEnded && (markBoth s).cue.undEnded && (markBoth s).judged then decidePair (markBoth s) else markBoth s

/-- The windows that a WINDOW_END ends. -/
def State.perEnds (w : WindowEnds) (s : State) : Bool :=
  decide (w ≠ .understudy) && !s.cue.perEnded && decide (us s.forme.sheet.perEnd ≤ s.off)

def State.undEnds (w : WindowEnds) (s : State) : Bool :=
  decide (w ≠ .perception) && !s.cue.undEnded && decide (us s.forme.sheet.undEnd ≤ s.off)

theorem exec_windowEnd (n : Nat) (w : WindowEnds) (s : State) : exec (.windowEnd n w) s =
    if !s.cue.running || !((s.at n).perEnds w || (s.at n).undEnds w) then .next (s.at n)
    else .next (closeWindows (judgeLate
      ((s.at n).perEnds w && (markEnds ((s.at n).perEnds w) ((s.at n).undEnds w) (s.at n)).uncommitted 0)
      ((s.at n).undEnds w && (markEnds ((s.at n).perEnds w) ((s.at n).undEnds w) (s.at n)).uncommitted 1)
      (markEnds ((s.at n).perEnds w) ((s.at n).undEnds w) (s.at n)))) := rfl

/-- Marking the ends leaves the scenes, the batch and the lateness on which the cue is judged. -/
theorem markEnds_frame (per und : Bool) (s : State) : (∀ k, (markEnds per und s).uncommitted k = s.uncommitted k) ∧
    (markEnds per und s).slotsFailed = s.slotsFailed ∧ (markEnds per und s).log = s.log ∧ (markEnds per und s).cur = s.cur ∧
    (markEnds per und s).cue = { s.cue with perEnded := s.cue.perEnded || per, undEnded := s.cue.undEnded || und } := by
  unfold markEnds
  cases per <;> exact ⟨fun _ => rfl, rfl, rfl, rfl, rfl⟩

theorem decidePair_frame (s : State) : (decidePair s).cue = s.cue ∧ (decidePair s).log = s.log ∧
    (decidePair s).cur.running = s.cur.running ∧ (decidePair s).cur.latch = s.cur.latch := by
  unfold decidePair
  split <;> exact ⟨rfl, rfl, rfl, rfl⟩

theorem markBoth_frame (s : State) : (markBoth s).cue = { s.cue with mark := if s.cue.perEnded && s.cue.undEnded then 3 else s.cue.mark } ∧
    (markBoth s).log = s.log ∧ (markBoth s).cur = s.cur := by
  unfold markBoth
  split
  all_goals exact ⟨rfl, rfl, rfl⟩

/-- Closing the windows moves MARK alone in the cue, and of the curtain at most the pair. -/
theorem closeWindows_frame (s : State) :
    (closeWindows s).cue = { s.cue with mark := if s.cue.perEnded && s.cue.undEnded then 3 else s.cue.mark } ∧
    (closeWindows s).log = s.log ∧ (closeWindows s).cur.running = s.cur.running ∧ (closeWindows s).cur.latch = s.cur.latch := by
  obtain ⟨hcue, hlog, hcur⟩ := markBoth_frame s
  unfold closeWindows
  split
  · obtain ⟨h1, h2, h3, h4⟩ := decidePair_frame (markBoth s)
    exact ⟨h1.trans hcue, h2.trans hlog, h3.trans (congrArg _ hcur), h4.trans (congrArg _ hcur)⟩
  · exact ⟨hcue, hlog, congrArg _ hcur, congrArg _ hcur⟩

end WindowEnd

/-- The cue becomes late at this end: scenes are uncommitted, and it is neither late nor ended by the slot check (R51, R83). -/
def State.lateNow (s : State) (badP badU : Bool) : Bool := (badP || badU) && !s.cue.late && !s.slotsFailed

section Judged

variable {s : State} {badP badU late : Bool}

theorem judgeLate_late (h : s.lateNow badP badU = true) : judgeLate badP badU s =
    goLate 0x0110 (if badP && badU then 2 else if badU then 1 else 0) idStage s := if_pos h

theorem judgeLate_inTime (h : s.lateNow badP badU = false) : judgeLate badP badU s = s := if_neg (Bool.eq_false_iff.1 h)

/-- The judgement leaves the windows' ends, and the lateness is the old one or the new. -/
theorem judgeLate_cue (badP badU : Bool) (s : State) : (judgeLate badP badU s).cue.perEnded = s.cue.perEnded ∧
    (judgeLate badP badU s).cue.undEnded = s.cue.undEnded ∧ (judgeLate badP badU s).cue.late = (s.cue.late || s.lateNow badP badU) := by
  cases h : s.lateNow badP badU with
  | true =>
    rw [judgeLate_late h]
    obtain ⟨i, p, hc⟩ := goLate_cue 0x0110 (if badP && badU then 2 else if badU then 1 else 0) idStage s
    rw [hc, Bool.or_true]
    exact ⟨rfl, rfl, rfl⟩
  | false =>
    rw [judgeLate_inTime h, Bool.or_false]
    exact ⟨rfl, rfl, rfl⟩

theorem State.perEnds_false {w : WindowEnds} (h : w = .understudy ∨ s.cue.perEnded = true ∨ s.off < us s.forme.sheet.perEnd) :
    s.perEnds w = false := by
  rcases h with h | h | h <;> simp [State.perEnds, h]

theorem State.undEnds_false {w : WindowEnds} (h : w = .perception ∨ s.cue.undEnded = true ∨ s.off < us s.forme.sheet.undEnd) :
    s.undEnds w = false := by
  rcases h with h | h | h <;> simp [State.undEnds, h]

theorem exec_windowEnd_none {n : Nat} {w : WindowEnds} {s : State} (h : s.cue.running = false ∨
    ((w = .understudy ∨ s.cue.perEnded = true ∨ (s.at n).off < us s.forme.sheet.perEnd) ∧
      (w = .perception ∨ s.cue.undEnded = true ∨ (s.at n).off < us s.forme.sheet.undEnd))) :
    exec (.windowEnd n w) s = .next (s.at n) := by
  rw [exec_windowEnd, if_pos]
  rcases h with h | ⟨hp, hu⟩
  · rw [h]
    rfl
  · have h1 : (s.at n).perEnds w = false := State.perEnds_false hp
    have h2 : (s.at n).undEnds w = false := State.undEnds_false hu
    rw [h1, h2]
    exact Bool.or_true _

/-- What a judged end of windows brings, from the state in which the ends are marked. -/
theorem closeWindows_judgeLate (badP badU : Bool) (s : State) (hl : s.lateNow badP badU = late) :
    let t := closeWindows (judgeLate badP badU s)
    t.cue.perEnded = s.cue.perEnded ∧ t.cue.undEnded = s.cue.undEnded ∧
      (t.cue.perEnded = true → t.cue.undEnded = true → t.cue.mark = 3) ∧ t.cue.late = (s.cue.late || late) ∧
      (late = true → t.cue.lateCount = (sat32 s.cue.lateCount 1).1 ∧ t.cue.lateSeen = true ∧ Stopped t ∧
        Logs s t 0x0110 idStage (if badP && badU then 2 else if badU then 1 else 0) ∧ (s.cue.published = false → t.cue.invalid = true)) ∧
      (late = false → t.cue.lateCount = s.cue.lateCount ∧ t.log = s.log ∧ t.cur.running = s.cur.running ∧ t.cur.latch = s.cur.latch) := by
  intro t
  obtain ⟨jper, jund, jlate⟩ := judgeLate_cue badP badU s
  obtain ⟨kcue, klog, krun, klatch⟩ := closeWindows_frame (judgeLate badP badU s)
  refine ⟨(congrArg Cue.perEnded kcue).trans jper, (congrArg Cue.undEnded kcue).trans jund, fun hp hu => ?_,
    (congrArg Cue.late kcue).trans (jlate.trans (by rw [hl])), fun h => ?_, fun h => ?_⟩
  · exact (congrArg Cue.mark kcue).trans (if_pos (Bool.and_eq_true_iff.2
      ⟨(congrArg Cue.perEnded kcue).symm.trans hp, (congrArg Cue.undEnded kcue).symm.trans hu⟩))
  · have hj := judgeLate_late (hl.trans h)
    rw [hj] at kcue klog krun klatch
    obtain ⟨⟨hlatch, hrun⟩, hinv⟩ := goLate_detected 0x0110 (if badP && badU then 2 else if badU then 1 else 0) idStage s
    obtain ⟨i, p, hc⟩ := goLate_cue 0x0110 (if badP && badU then 2 else if badU then 1 else 0) idStage s
    rw [show t = closeWindows _ from congrArg closeWindows hj]
    refine ⟨(congrArg Cue.lateCount kcue).trans (congrArg Cue.lateCount hc), (congrArg Cue.lateSeen kcue).trans (congrArg Cue.lateSeen hc),
      ⟨klatch.trans hlatch, krun.trans hrun⟩, (goLate_logs _ _ _ s).later (.same klog), fun hp => (congrArg Cue.invalid kcue).trans (hinv hp)⟩
  · have hj := judgeLate_inTime (hl.trans h)
    rw [hj] at kcue klog krun klatch
    rw [show t = closeWindows s from congrArg closeWindows hj]
    exact ⟨(congrArg Cue.lateCount kcue :), klog, krun, klatch⟩

end Judged

/-- Settles O20: the windows' ends are marked, the cue is judged once, and MARK closes. -/
theorem windowEndsJudgeLateness : Obligations.WindowEndsJudgeLateness := by
  refine ⟨fun n w s per und late hper hund hr hor hlate => ?_, fun n w s => exec_windowEnd_none⟩
  obtain ⟨hun, hsf, hlog, hcur, hcue⟩ := markEnds_frame per und (s.at n)
  have e : exec (.windowEnd n w) s = .next (closeWindows (judgeLate (per && s.uncommitted 0) (und && s.uncommitted 1)
      (markEnds per und (s.at n)))) := by
    rw [exec_windowEnd, show (s.at n).perEnds w = per from hper.symm, show (s.at n).undEnds w = und from hund.symm, hr, hor, hun, hun]
    rfl
  have hl : (markEnds per und (s.at n)).lateNow (per && s.uncommitted 0) (und && s.uncommitted 1) = late := by
    rw [State.lateNow, hsf, hcue, hlate]
    rfl
  obtain ⟨tper, tund, tmark, tlate, isLate, inTime⟩ := closeWindows_judgeLate _ _ _ hl
  refine ⟨_, e, tper.trans (congrArg Cue.perEnded hcue), tund.trans (congrArg Cue.undEnded hcue), tmark,
    tlate.trans (congrArg (fun c : Cue => c.late || late) hcue :), fun h => ?_, fun h => ?_⟩
  · obtain ⟨hcount, hseen, hstop, hlogs, hinv⟩ := isLate h
    exact ⟨hcount.trans (congrArg (fun c : Cue => (sat32 c.lateCount 1).1) hcue :), hseen, hstop, hlogs.earlier (.same hlog),
      fun hp => hinv ((congrArg Cue.published hcue).trans hp)⟩
  · obtain ⟨hcount, tlog, trun, tlatch⟩ := inTime h
    exact ⟨hcount.trans (congrArg Cue.lateCount hcue :), tlog.trans hlog, trun.trans (congrArg Curtain.running hcur),
      tlatch.trans (congrArg Curtain.latch hcur)⟩

end Sys2Proof.Machine

namespace Sys2Proof.Machine

/-! ### Strikes and failed attempts, unit by unit (R359, R362) -/

section Strikes

variable {s t w : State} {u v : UnitId} {cause detail : Nat}

theorem stopRun_stands (u : UnitId) (i : Inst) (s : State) : Stands u s (stopRun i s) :=
  (Stands.foldl _ _ (.apart (buryBufs_apart rfl (dropRequests_apart rfl rfl (.refl _ _)))) fun w p => flushPress_stands u p w).trans
    (.apart (unmapBufs_apart rfl (.refl _ _)))

theorem endClass_stands (u : UnitId) (n : Nat) (s : State) : Stands u s (endClass n s) :=
  (Stands.foldl _ _ (.refl u s) fun w i => stopRun_stands u i w).trans (.of_unit rfl)

theorem setClass_stands (u : UnitId) (n code : Nat) (s : State) : Stands u s (setClass n code s) := .apart (setClass_apart rfl (.refl _ _))

theorem logEvent_stands (u : UnitId) (code : Nat) (unit : Byte) (detail : Nat) (s : State) : Stands u s (logEvent code unit detail s) :=
  .of_unit rfl

theorem classifyStruck_stands (u v : UnitId) (cues : List Nat) (s : State) : Stands u s (classifyStruck v cues s) :=
  .foldl _ _ (.refl u s) fun w n => ((logEvent_stands u _ _ _ w).trans (setClass_stands u n 5 _)).trans (endClass_stands u n _)

/-- What a strike writes into the record of a unit in service. -/
def UnitRec.takenOut (cause : Nat) (s : State) (r : UnitRec) : UnitRec :=
  { r with
    mode := .struck, cause := BitVec.ofNat 8 cause, strikes := sat8 r.strikes, attempts := 0, placed := false
    overdue := false, checks := [], suspect := false, suspectSrc := 0, waitFrom := s.cue.count.toNat, struckAt := s.now, wasReset := false
    proofFail := [] }

/-- A unit in service is taken out of it, with event 0x0802. -/
def takeOut (cause : Nat) (u : UnitId) (s : State) : State :=
  dropSlice u (logEvent 0x0802 (unitId u) cause (s.modUnit u (UnitRec.takenOut cause s)))

/-- The eighth strike retires the unit. -/
def retireAtEight (u : UnitId) (s : State) : State :=
  if (s.unit u).strikes.toNat ≥ 8 then (logEvent 0x0806 (unitId u) 1 s).modUnit u fun r => { r with mode := .retired } else s

/-- The kills of what a struck unit held, and the classifications that its repeats end. -/
def strikeKills (u : UnitId) (s : State) : State :=
  match u with
  | .press _ => classifyStruck u (s.repeatsOn u) (killWhere 3 (fun i => i.on u) s)
  | .core _ => classifyStruck u (s.repeatsOn u) (killWhere 3 (fun i => i.on u) s)
  | .sector _ => killWhere 15 (fun i => s.playMaps i.key.play (covers u) || i.bufs.any fun b => covers u (region b.dev)) s
  | .stack _ => killWhere 15 (fun i => s.playMaps i.key.play (covers u) || i.bufs.any fun b => covers u (region b.dev)) s
  | _ => s

theorem State.inServ_iff : s.inServ u = true ↔ (s.unit u).mode = .inService ∨ (s.unit u).mode = .lost ∨ (s.unit u).mode = .absent := by
  unfold State.inServ UnitRec.inServ
  cases (s.unit u).mode <;> simp

theorem strike_of_inServ (h : s.inServ u = true) : strike cause u s = strikeKills u (retireAtEight u (takeOut cause u s)) := by
  unfold strike
  rcases State.inServ_iff.1 h with h | h | h <;> simp only [h] <;> rfl

/-- A strike of a unit out of service changes nothing, or fails its attempt. -/
theorem strike_of_out (h : s.inServ u = false) : strike cause u s = s ∨
    (s.unit u).mode = .reRigging ∧ ∃ d, strike cause u s = failAttempt u d s := by
  cases hm : (s.unit u).mode with
  | struck | retired => exact .inl (by simp only [strike, hm])
  | reRigging =>
    simp only [strike, hm]
    split
    · exact .inl rfl
    · exact .inr ⟨trivial, _, rfl⟩
  | inService | lost | absent => exact absurd (State.inServ_iff.2 (by simp [hm])) (Bool.eq_false_iff.1 h)

theorem strikeKills_stands (u v : UnitId) (s : State) : Stands u s (strikeKills v s) := by
  unfold strikeKills
  split
  · exact (killWhere_stands u 3 _ s).trans (classifyStruck_stands u _ _ _)
  · exact (killWhere_stands u 3 _ s).trans (classifyStruck_stands u _ _ _)
  · exact killWhere_stands u 15 _ s
  · exact killWhere_stands u 15 _ s
  · exact .refl u s

theorem strikeKills_inCue (u : UnitId) (s : State) : InCue s (strikeKills u s) := by
  unfold strikeKills
  split
  · exact classifyStruck_inCue (killWhere_inCue (.refl s))
  · exact classifyStruck_inCue (killWhere_inCue (.refl s))
  · exact killWhere_inCue (.refl s)
  · exact killWhere_inCue (.refl s)
  · exact .refl s

theorem retireAtEight_inCue (u : UnitId) (s : State) : InCue s (retireAtEight u s) := by
  unfold retireAtEight
  split
  · exact State.modUnit_inCue (logEvent_inCue (.refl s))
  · exact .refl s

theorem takeOut_unit (cause : Nat) (u : UnitId) (s : State) : (takeOut cause u s).unit u = UnitRec.takenOut cause s (s.unit u) :=
  State.unit_modUnit_self u _ s

theorem retireAtEight_unit (u : UnitId) (s : State) : ∃ m, (retireAtEight u s).unit u = { s.unit u with mode := m } ∧
    (m = (s.unit u).mode ∨ m = .retired) := by
  unfold retireAtEight
  split
  · exact ⟨_, State.unit_modUnit_self u _ _, .inr rfl⟩
  · exact ⟨_, rfl, .inl rfl⟩

theorem retireAtEight_unit_ne (h : u ≠ v) (s : State) : (retireAtEight v s).unit u = s.unit u := by
  unfold retireAtEight
  split
  · exact State.unit_modUnit_ne h _ _
  · rfl

/-- The record of a unit whose attempt failed. -/
def UnitRec.attemptFailed (u : UnitId) (s : State) (r : UnitRec) : UnitRec :=
  { r with
    mode := .struck, attempts := BitVec.ofNat 3 ((s.unit u).attempts.toNat + 1), placed := false, checks := []
    waitFrom := s.cue.count.toNat, wasReset := false }

/-- A failed attempt leaves its unit struck, with event 0x0805. -/
def missAttempt (u : UnitId) (detail : Nat) (s : State) : State :=
  (logEvent 0x0805 (unitId u) detail (dropSlice u s)).modUnit u (UnitRec.attemptFailed u s)

/-- The fourth failed attempt retires the unit. -/
theorem failAttempt_eq (u : UnitId) (detail : Nat) (s : State) : failAttempt u detail s =
    if 4 ≤ (s.unit u).attempts.toNat + 1 then
      (logEvent 0x0806 (unitId u) 0 (missAttempt u detail s)).modUnit u fun r => { r with mode := .retired }
    else missAttempt u detail s := rfl

theorem missAttempt_unit (u : UnitId) (detail : Nat) (s : State) :
    (missAttempt u detail s).unit u = UnitRec.attemptFailed u s (s.unit u) := State.unit_modUnit_self u _ _

theorem failAttempt_unit (u : UnitId) (detail : Nat) (s : State) : (failAttempt u detail s).unit u =
    { UnitRec.attemptFailed u s (s.unit u) with mode := if 4 ≤ (s.unit u).attempts.toNat + 1 then .retired else .struck } := by
  rw [failAttempt_eq]
  split
  · exact (State.unit_modUnit_self u _ _).trans (congrArg (fun r : UnitRec => { r with mode := .retired })
      (missAttempt_unit u detail s))
  · exact missAttempt_unit u detail s

theorem failAttempt_unit_ne (h : u ≠ v) (detail : Nat) (s : State) : (failAttempt v detail s).unit u = s.unit u := by
  have hm : (missAttempt v detail s).unit u = s.unit u := State.unit_modUnit_ne h _ _
  rw [failAttempt_eq]
  split
  · exact (State.unit_modUnit_ne h _ _).trans hm
  · exact hm

theorem failAttempt_logs (u : UnitId) (detail : Nat) (s : State) : Logs s (failAttempt u detail s) 0x0805 (unitId u) detail := by
  have h : Logs s (missAttempt u detail s) 0x0805 (unitId u) detail := logEvent_logs 0x0805 (unitId u) detail (dropSlice u s)
  rw [failAttempt_eq]
  split
  · obtain ⟨_, hg, -⟩ := logEvent_grows 0x0806 (unitId u) 0 (missAttempt u detail s)
    exact h.later hg
  · exact h

/-- A strike leaves the records of the other units. -/
theorem strike_stands (h : u ≠ v) (cause : Nat) (s : State) : Stands u s (strike cause v s) := by
  cases hv : s.inServ v with
  | true =>
    rw [strike_of_inServ hv]
    refine .trans (.of_unit ?_) (strikeKills_stands u v _)
    rw [retireAtEight_unit_ne h]
    exact State.unit_modUnit_ne h _ s
  | false =>
    rcases strike_of_out (cause := cause) hv with e | ⟨-, d, e⟩ <;> rw [e]
    · exact .refl u s
    · exact .of_unit (failAttempt_unit_ne h d s)

/-- A strike of a unit in service leaves its record taken out, or retired. -/
theorem strike_unit (h : s.inServ u = true) (cause : Nat) : ∃ m, ((strike cause u s).unit u).unsuspected =
    { UnitRec.takenOut cause s (s.unit u) with mode := m } ∧ (m = .struck ∨ m = .retired) := by
  obtain ⟨m, hm, hmode⟩ := retireAtEight_unit u (takeOut cause u s)
  rw [takeOut_unit] at hm hmode
  have hs := strikeKills_stands u u (retireAtEight u (takeOut cause u s))
  rw [strike_of_inServ h]
  exact ⟨m, Eq.trans hs (congrArg UnitRec.unsuspected hm), hmode⟩

theorem State.inServ_of_struck (h : (s.unit u).mode = .struck ∨ (s.unit u).mode = .retired) : s.inServ u = false := by
  unfold State.inServ UnitRec.inServ
  rcases h with h | h <;> rw [h]

theorem failAttempt_out (u : UnitId) (detail : Nat) (s : State) : (failAttempt u detail s).inServ u = false := by
  refine State.inServ_of_struck ?_
  rw [failAttempt_unit]
  dsimp only
  split
  · exact .inr rfl
  · exact .inl rfl

/-- No strike leaves its unit in service. -/
theorem strike_out (cause : Nat) (u : UnitId) (s : State) : (strike cause u s).inServ u = false := by
  cases h : s.inServ u with
  | true =>
    obtain ⟨m, he, hm⟩ := strike_unit h cause
    refine State.inServ_of_struck ?_
    rwa [show ((strike cause u s).unit u).mode = m from (congrArg UnitRec.mode he :)]
  | false =>
    rcases strike_of_out (cause := cause) h with e | ⟨-, d, e⟩ <;> rw [e]
    · exact h
    · exact failAttempt_out u d s

theorem strike_logs (h : s.inServ u = true) (cause : Nat) : Logs s (strike cause u s) 0x0802 (unitId u) cause := by
  obtain ⟨_, hg⟩ := ((retireAtEight_inCue u (takeOut cause u s)).trans (strikeKills_inCue u _)).log
  rw [strike_of_inServ h]
  exact (show Logs s (takeOut cause u s) 0x0802 (unitId u) cause from logEvent_logs 0x0802 (unitId u) cause (s.modUnit u _)).later hg

/-- Out of service stays out, and an item 8 that is not open stays closed. -/
structure Shut (u : UnitId) (s t : State) : Prop where
  out : s.inServ u = false → t.inServ u = false
  closed : (s.unit u).proofFail = [] → (t.unit u).proofFail = []

/-- With these, what the unit's proof pass has reported stays. -/
structure Settled (u : UnitId) (s t : State) : Prop extends Shut u s t where
  proof : (t.unit u).proof = (s.unit u).proof

theorem Shut.trans (a : Shut u s t) (b : Shut u t w) : Shut u s w := ⟨b.out ∘ a.out, b.closed ∘ a.closed⟩

theorem Settled.trans (a : Settled u s t) (b : Settled u t w) : Settled u s w :=
  ⟨a.toShut.trans b.toShut, b.proof.trans a.proof⟩

theorem Stands.settled (h : Stands u s t) : Settled u s t :=
  ⟨⟨h.inServ.trans, h.proofFail.trans⟩, h.proof⟩

theorem Settled.refl (u : UnitId) (s : State) : Settled u s s := (Stands.refl u s).settled

theorem Settled.foldl {α : Type} (l : List α) (f : State → α → State) (h : Settled u s t) (hf : ∀ w a, Settled u w (f w a)) :
    Settled u s (l.foldl f t) :=
  List.foldlRecOn l f (motive := fun w => Settled u s w) h fun w hw a _ => hw.trans (hf w a)

theorem Shut.foldl {α : Type} (l : List α) (f : State → α → State) (h : Shut u s t) (hf : ∀ w a, Shut u w (f w a)) :
    Shut u s (l.foldl f t) :=
  List.foldlRecOn l f (motive := fun w => Shut u s w) h fun w hw a _ => hw.trans (hf w a)

theorem failAttempt_settled (u v : UnitId) (detail : Nat) (s : State) : Settled u s (failAttempt v detail s) := by
  by_cases h : u = v
  · subst h
    have e := failAttempt_unit u detail s
    exact ⟨⟨fun _ => failAttempt_out u detail s, (congrArg UnitRec.proofFail e).trans⟩, (congrArg UnitRec.proof e :)⟩
  · exact (Stands.of_unit (failAttempt_unit_ne h detail s)).settled

theorem strike_settled (u : UnitId) (cause : Nat) (v : UnitId) (s : State) : Settled u s (strike cause v s) := by
  by_cases h : u = v
  · subst h
    cases hv : s.inServ u with
    | true =>
      obtain ⟨m, he, -⟩ := strike_unit hv cause
      exact ⟨⟨fun _ => strike_out cause u s, fun _ => (congrArg UnitRec.proofFail he :)⟩, (congrArg UnitRec.proof he :)⟩
    | false =>
      rcases strike_of_out (cause := cause) hv with e | ⟨-, d, e⟩ <;> rw [e]
      · exact .refl u s
      · exact failAttempt_settled u u d s
  · exact (strike_stands h cause s).settled

end Strikes

/-! ### A check that has passed (R363) -/

section Checks

variable {s : State} {u v : UnitId}

/-- The rehearsal's check restarts the age, and the check at hand is done. -/
def checkDone (u : UnitId) (s : State) : State :=
  (if (s.unit u).checks.head? = some .rehearsal then rehearsed u s else s).modUnit u fun r => { r with checks := r.checks.drop 1 }

/-- A port without a declared stream has no third check. -/
def spareThird (u : UnitId) (s : State) : State :=
  match u with
  | .port n => if s.declares n then s else s.modUnit u fun r => { r with checks := [] }
  | _ => s

/-- The last check places the re-rig, with event 0x0804. -/
def placeRig (u : UnitId) (s : State) : State :=
  if (s.unit u).checks = [] then (logEvent 0x0804 (unitId u) 0 s).modUnit u fun r => { r with placed := true } else s

theorem passCheck_eq (u : UnitId) (s : State) : passCheck u s = placeRig u (beginThird u (spareThird u (checkDone u s))) := rfl

theorem checkDone_unit (u : UnitId) (s : State) : (checkDone u s).unit u =
    if (s.unit u).checks.head? = some .rehearsal then { s.unit u with age := 0, rehearsed := true, checks := (s.unit u).checks.drop 1 }
    else { s.unit u with checks := (s.unit u).checks.drop 1 } := by
  unfold checkDone
  rw [State.unit_modUnit_self]
  split
  · rw [rehearsed, State.unit_modUnit_self]
  · rfl

theorem checkDone_unit_ne (h : v ≠ u) (s : State) : (checkDone u s).unit v = s.unit v := by
  unfold checkDone
  rw [State.unit_modUnit_ne h]
  split
  · exact State.unit_modUnit_ne h _ s
  · rfl

theorem spareThird_unit (u : UnitId) (s : State) : ∃ c, (spareThird u s).unit u = { s.unit u with checks := c } ∧
    c.length ≤ (s.unit u).checks.length := by
  unfold spareThird
  split
  · split
    · exact ⟨_, rfl, le_rfl⟩
    · exact ⟨[], State.unit_modUnit_self _ _ s, Nat.zero_le _⟩
  · exact ⟨_, rfl, le_rfl⟩

theorem spareThird_unit_ne (h : v ≠ u) (s : State) : (spareThird u s).unit v = s.unit v := by
  unfold spareThird
  split
  · split
    · rfl
    · exact State.unit_modUnit_ne h _ s
  · rfl

theorem beginThird_unit (u v : UnitId) (s : State) : (beginThird u s).unit v = s.unit v :=
  State.unit_congr ((beginThird_apart (m := butUnits) rfl (.refl _ s)).same .units rfl) v

theorem placeRig_unit (u : UnitId) (s : State) : ∃ b, (placeRig u s).unit u = { s.unit u with placed := b } := by
  unfold placeRig
  split
  · exact ⟨true, State.unit_modUnit_self _ _ _⟩
  · exact ⟨_, rfl⟩

theorem placeRig_unit_ne (h : v ≠ u) (s : State) : (placeRig u s).unit v = s.unit v := by
  unfold placeRig
  split
  · exact State.unit_modUnit_ne h _ _
  · rfl

/-- A passed check moves a unit's checks, age and placement alone. -/
theorem passCheck_unit (u : UnitId) (s : State) : ∃ c b, (passCheck u s).unit u = { (checkDone u s).unit u with checks := c, placed := b } ∧
    c.length ≤ ((checkDone u s).unit u).checks.length := by
  obtain ⟨c, hc, hl⟩ := spareThird_unit u (checkDone u s)
  obtain ⟨b, hb⟩ := placeRig_unit u (beginThird u (spareThird u (checkDone u s)))
  rw [beginThird_unit, hc] at hb
  exact ⟨c, b, hb, hl⟩

theorem passCheck_unit_ne (h : v ≠ u) (s : State) : (passCheck u s).unit v = s.unit v := by
  rw [passCheck_eq, placeRig_unit_ne h, beginThird_unit, spareThird_unit_ne h, checkDone_unit_ne h]

theorem passCheck_settled (u v : UnitId) (s : State) : Settled u s (passCheck v s) := by
  by_cases h : u = v
  · subst h
    obtain ⟨c, b, e, -⟩ := passCheck_unit u s
    rw [checkDone_unit] at e
    have hm : ((passCheck u s).unit u).mode = (s.unit u).mode := by rw [e]; split <;> rfl
    have hf : ((passCheck u s).unit u).proofFail = (s.unit u).proofFail := by rw [e]; split <;> rfl
    refine ⟨⟨?_, hf.trans⟩, by rw [e]; split <;> rfl⟩
    unfold State.inServ UnitRec.inServ
    rw [hm]
    exact id
  · exact (Stands.of_unit (passCheck_unit_ne h s)).settled

end Checks

end Sys2Proof.Machine

namespace Sys2Proof.Machine

/-! ### Rehearsal slices (R48, R362, R366, R367, R471) -/

section Slices

variable {s : State} {n k w : Nat} {u : RehUnit} {v : UnitId} {ok complete : Bool} {x : Slice}

/-- A unit's slice has ended, however it came out. -/
def endSlice (u : RehUnit) (s : State) : State :=
  { s with sched := { s.sched with slices := s.sched.slices.filter fun y => y.unit != u } }

theorem endSlice_slices (u : RehUnit) (s : State) : ∀ x ∈ (endSlice u s).sched.slices, x.unit ≠ u := fun _ hx =>
  bne_iff_ne.1 (List.mem_filter.1 hx).2

/-- What a slice's end does, in time or too late (R471). -/
def sliceOutcome (u : RehUnit) (ok complete : Bool) (k : Nat) (x : Slice) (s : State) : State :=
  if briefSlices u && decide (x.at_ + 1400 < s.now) then endSlice u s
  else if ok then sliceOkay u complete (s.now - x.at_) (endSlice u s) else sliceFailed u k (endSlice u s)

theorem exec_rehearsalSliceEnd (h : s.sched.slices.find? (fun y => y.unit = u) = some x) :
    exec (.rehearsalSliceEnd n u ok complete k) s = .next (sliceOutcome u ok complete k x (s.at n)) := by
  show execRehearsalSliceEnd n u ok complete k s = _
  unfold execRehearsalSliceEnd
  dsimp only
  split
  · next h' => cases h'.symm.trans h
  · next y h' =>
    cases h'.symm.trans h
    rfl

theorem exec_rehearsalSliceEnd_none (h : ∀ x ∈ s.sched.slices, x.unit ≠ u) :
    exec (.rehearsalSliceEnd n u ok complete k) s = .next (s.at n) := by
  show execRehearsalSliceEnd n u ok complete k s = _
  unfold execRehearsalSliceEnd
  dsimp only
  split
  · rfl
  · next y hy => exact absurd (by simpa using List.find?_some hy) (h y (List.mem_of_find?_eq_some hy))

theorem sliceOutcome_late (hb : briefSlices u = true) (hx : x.at_ + 1400 < s.now) : sliceOutcome u ok complete k x s = endSlice u s :=
  if_pos (by simp [hb, hx])

theorem sliceOutcome_inTime (h : briefSlices u = false ∨ s.now ≤ x.at_ + 1400) : sliceOutcome u ok complete k x s =
    if ok then sliceOkay u complete (s.now - x.at_) (endSlice u s) else sliceFailed u k (endSlice u s) := by
  refine if_neg fun hc => ?_
  obtain ⟨hb, hx⟩ := Bool.and_eq_true_iff.1 hc
  rcases h with h | h
  · exact Bool.eq_false_iff.1 h hb
  · exact Nat.not_lt.2 h (of_decide_eq_true hx)

theorem setProgress_progress (u : RehUnit) (w : Nat) (s : State) : (setProgress u w s).progress u = w := by
  unfold setProgress State.progress
  split
  · next h =>
    have : (s.sched.ctlProgress.filter fun e => e.1 != u).find? (fun e => e.1 = u) = none := by simp
    rw [List.nil_append, this, h]
    rfl
  · simp

theorem sliceOkay_checkpoint (h : complete = false ∨ s.progress u + w < s.idleRu u) :
    sliceOkay u complete w s = setProgress u (s.progress u + w) s :=
  if_pos (by rcases h with h | h <;> simp [h])

theorem sliceOkay_rehearsed (h : s.idleRu (.unit v) ≤ s.progress (.unit v) + w) (hm : (s.unit v).mode ≠ .reRigging) :
    sliceOkay (.unit v) true w s = rehearsed v (setProgress (.unit v) 0 s) :=
  (if_neg (by simpa using h)).trans (if_neg hm)

theorem sliceOkay_checked (h : s.idleRu (.unit v) ≤ s.progress (.unit v) + w) (hm : (s.unit v).mode = .reRigging)
    (hc : (s.unit v).checks.head? = some .rehearsal) : sliceOkay (.unit v) true w s = passCheck v (setProgress (.unit v) 0 s) :=
  (if_neg (by simpa using h)).trans ((if_pos hm).trans (if_pos hc))

theorem sliceFailed_rig (hm : (s.unit v).mode = .reRigging) :
    sliceFailed (.unit v) k s = failAttempt v 1 (setProgress (.unit v) 0 s) := if_pos hm

theorem sliceFailed_strike (hm : (s.unit v).mode ≠ .reRigging) :
    sliceFailed (.unit v) k s = strike 6 v (logEvent 0x0807 (unitId v) (k % 256) (setProgress (.unit v) 0 s)) := if_neg hm

/-- A passed rehearsal check restarts the age; its unit goes on re-rigging with a check less. -/
theorem passCheck_rehearsal (hc : (s.unit v).checks.head? = some .rehearsal) : ((passCheck v s).unit v).age = 0 ∧
    ((passCheck v s).unit v).mode = (s.unit v).mode ∧ ((passCheck v s).unit v).checks.length < (s.unit v).checks.length := by
  obtain ⟨c, b, e, hl⟩ := passCheck_unit v s
  rw [checkDone_unit, if_pos hc] at e hl
  rw [e]
  refine ⟨rfl, rfl, hl.trans_lt ?_⟩
  cases h : (s.unit v).checks with
  | nil =>
    rw [h] at hc
    cases hc
  | cons a l => simp

theorem strikePorts_inCue (cause : Nat) (l : List (Fin 20)) (s : State) : InCue s (l.foldl (fun s n => strike cause (.port n) s) s) :=
  List.foldlRecOn l _ (motive := InCue s) (.refl s) fun _ hw _ _ => strike_inCue hw

/-- Strikes of a row of ports take out each that is in service, with event 0x0802. -/
theorem strikePorts_out (cause : Nat) {l : List (Fin 20)} {m : Fin 20} (hm : m ∈ l) (h : s.inServ (.port m) = true) :
    (l.foldl (fun s n => strike cause (.port n) s) s).inServ (.port m) = false ∧
      Logs s (l.foldl (fun s n => strike cause (.port n) s) s) 0x0802 (unitId (.port m)) cause := by
  induction l generalizing s with
  | nil => cases hm
  | cons a l ih =>
    rw [List.foldl_cons]
    by_cases he : m = a
    · subst he
      have hrest := Settled.foldl (u := .port m) l (fun s n => strike cause (.port n) s) (.refl _ (strike cause (.port m) s))
        fun w n => strike_settled _ cause (.port n) w
      obtain ⟨_, hg⟩ := (strikePorts_inCue cause l (strike cause (.port m) s)).log
      exact ⟨hrest.out (strike_out cause _ s), (strike_logs h cause).later hg⟩
    · have hne : UnitId.port m ≠ .port a := fun e => he (UnitId.port.inj e)
      obtain ⟨_, hg⟩ := (strike_inCue (a1 := cause) (a2 := .port a) (.refl s)).log
      obtain ⟨hout, hlogs⟩ := ih (s := strike cause (.port a) s) ((List.mem_cons.1 hm).resolve_left he)
        ((strike_stands hne cause s).inServ.trans h)
      exact ⟨hout, hlogs.earlier hg⟩

/-- The failure of a unit that serves ports strikes them after event 0x0807. -/
theorem sliceFailed_serves (hu : u = .decoder ∨ ∃ q, u = .cluster q) : Logs s (sliceFailed u k s) 0x0807 (rehId u) (k % 256) ∧
    ∀ m ∈ s.served u, s.inServ (.port m) = true →
      (sliceFailed u k s).inServ (.port m) = false ∧ Logs s (sliceFailed u k s) 0x0802 (unitId (.port m)) 6 := by
  have key : sliceFailed u k s =
      (s.served u).foldl (fun s n => strike 6 (.port n) s) (logEvent 0x0807 (rehId u) (k % 256) (setProgress u 0 s)) := by
    rcases hu with rfl | ⟨q, rfl⟩ <;> rfl
  have hlog : Logs s (logEvent 0x0807 (rehId u) (k % 256) (setProgress u 0 s)) 0x0807 (rehId u) (k % 256) :=
    logEvent_logs 0x0807 (rehId u) (k % 256) (setProgress u 0 s)
  obtain ⟨_, hev⟩ := id hlog
  obtain ⟨_, hg⟩ := (strikePorts_inCue 6 (s.served u) (logEvent 0x0807 (rehId u) (k % 256) (setProgress u 0 s))).log
  rw [key]
  refine ⟨hlog.later hg, fun m hm h => ?_⟩
  obtain ⟨hout, hs⟩ := strikePorts_out (s := logEvent 0x0807 (rehId u) (k % 256) (setProgress u 0 s)) 6 hm h
  exact ⟨hout, hs.earlier hev.1⟩

end Slices

/-- Settles O25: the request by what is due, the end by how the slice came out. -/
theorem rehearsalSlices : Obligations.RehearsalSlices := by
  intro n s
  refine ⟨fun u h => ?_, fun u h => ?_, fun u k x hx hb hlate ok complete => ?_, fun u k x w hx ht hw => ?_,
    fun u ok complete k h => exec_rehearsalSliceEnd_none h⟩
  · exact congrArg Host.Outcome.next ((if_pos h).trans (by simp only [lmod, decide_eq_true_eq]; rfl))
  · exact congrArg Host.Outcome.next (if_neg (Bool.eq_false_iff.1 h))
  · refine ⟨_, (exec_rehearsalSliceEnd hx).trans (congrArg _ (sliceOutcome_late hb hlate)), endSlice_slices u _, rfl, rfl, rfl⟩
  · subst hw
    have e : ∀ ok complete, exec (.rehearsalSliceEnd n u ok complete k) s = .next (if ok then
        sliceOkay u complete ((s.at n).now - x.at_) (endSlice u (s.at n)) else sliceFailed u k (endSlice u (s.at n))) :=
      fun ok complete => (exec_rehearsalSliceEnd hx).trans (congrArg _ (sliceOutcome_inTime ht))
    refine ⟨fun complete h => ?_, fun v hu hm h => ?_, fun v hu hm hc h => ?_, fun v hu hm => ?_, fun v hu hm hv => ?_, fun hu => ?_,
      fun c hu hd => ?_⟩
    · refine ⟨_, (e true complete).trans (congrArg _ (sliceOkay_checkpoint (s := endSlice u (s.at n)) h)), endSlice_slices u _,
        setProgress_progress u _ _, rfl, rfl⟩
    · subst hu
      refine ⟨_, (e true true).trans (congrArg _ (sliceOkay_rehearsed (s := endSlice _ (s.at n)) h hm)), endSlice_slices _ _,
        setProgress_progress _ 0 _, State.unit_modUnit_self v _ _⟩
    · subst hu
      obtain ⟨hage, hmode, hlen⟩ := passCheck_rehearsal (s := setProgress (.unit v) 0 (endSlice (.unit v) (s.at n))) hc
      have hs := (passCheck_apart (m := butSched) (a1 := v) rfl rfl rfl (.refl _ (setProgress (.unit v) 0 (endSlice (.unit v) (s.at n)))))
      refine ⟨_, (e true true).trans (congrArg _ (sliceOkay_checked (s := endSlice _ (s.at n)) h hm hc)), ?_, hage, hmode.trans hm, hlen⟩
      have hsched := hs.same .sched rfl
      rw [State.progress, hsched]
      exact setProgress_progress _ 0 _
    · subst hu
      refine ⟨_, (e false false).trans (congrArg _ (sliceFailed_rig (s := endSlice _ (s.at n)) hm)), failAttempt_logs v 1 _, ?_⟩
      rw [failAttempt_unit]
      rfl
    · subst hu
      have hlog := logEvent_logs 0x0807 (unitId v) (k % 256) (setProgress (.unit v) 0 (endSlice (.unit v) (s.at n)))
      obtain ⟨_, hg⟩ := (strike_inCue (a1 := 6) (a2 := v) (.refl (logEvent 0x0807 (unitId v) (k % 256)
        (setProgress (.unit v) 0 (endSlice (.unit v) (s.at n)))))).log
      obtain ⟨_, hev⟩ := id hlog
      refine ⟨_, (e false false).trans (congrArg _ (sliceFailed_strike (s := endSlice _ (s.at n)) hm)), strike_out 6 v _,
        hlog.later hg, (strike_logs (s := logEvent _ _ _ (setProgress _ 0 (endSlice _ (s.at n)))) hv 6).earlier hev.1⟩
    · exact ⟨_, e false false, sliceFailed_serves (s := endSlice u (s.at n)) hu⟩
    · subst hu
      have hlog := logEvent_logs 0x0807 (ctlId c) (k % 256) (setProgress (.ctl c) 0 (endSlice (.ctl c) (s.at n)))
      obtain ⟨_, hev⟩ := id hlog
      have hf := deviceFault_raised (cause := 5) (unit := ctlId c)
        (s := logEvent 0x0807 (ctlId c) (k % 256) (setProgress (.ctl c) 0 (endSlice (.ctl c) (s.at n)))) hd
      obtain ⟨_, hg⟩ := hf.log.grows
      exact ⟨_, e false false, hf.faultN, ⟨hf.latch, hf.off⟩, hlog.later hg, hf.log.earlier hev.1⟩

end Sys2Proof.Machine

namespace Sys2Proof.Machine

/-! ### The proof pass, unit by unit (R323, R337, R338) -/

section ProofRecords

variable {s : State} {u v : UnitId}

/-- A unit has reported its proof pass. -/
def reported (pass : Bool) (v : UnitId) (s : State) : State :=
  s.modUnit v fun r => { r with proof := some pass, suspect := false, suspectSrc := 0 }

theorem reported_unit (pass : Bool) (v : UnitId) (s : State) :
    (reported pass v s).unit v = { s.unit v with proof := some pass, suspect := false, suspectSrc := 0 } := State.unit_modUnit_self v _ s

theorem reported_shut (u : UnitId) (pass : Bool) (v : UnitId) (s : State) : Shut u s (reported pass v s) := by
  by_cases h : u = v
  · subst h
    have e := reported_unit pass u s
    refine ⟨fun ho => ?_, (congrArg UnitRec.proofFail e).trans⟩
    rw [State.inServ, e]
    exact ho
  · exact (Stands.of_unit (State.unit_modUnit_ne h _ s)).settled.toShut

theorem reported_settled (h : u ≠ v) (pass : Bool) (s : State) : Settled u s (reported pass v s) :=
  (Stands.of_unit (State.unit_modUnit_ne h _ s)).settled

theorem countTransient_settled (u v : UnitId) (s : State) : Settled u s (countTransient v s) := by
  have hm : Settled u s (s.modUnit v fun r =>
      { r with transients := sat16 r.transients, recent := within 1000 s.cue.count.toNat r.recent }) := by
    by_cases h : u = v
    · subst h
      have e := State.unit_modUnit_self u (fun r =>
        { r with transients := sat16 r.transients, recent := within 1000 s.cue.count.toNat r.recent }) s
      refine ⟨⟨fun ho => ?_, (congrArg UnitRec.proofFail e).trans⟩, (congrArg UnitRec.proof e :)⟩
      rw [State.inServ, e]
      exact ho
    · exact (Stands.of_unit (State.unit_modUnit_ne h _ s)).settled
  unfold countTransient
  extract_lets c s1
  split
  · exact hm.trans (strike_settled u 11 v s1)
  · exact hm

/-- Beyond the report a passed proof pass settles no unit's. -/
theorem proofPassed_settled (u v : UnitId) (s : State) : Settled u (reported true v s) (proofPassed v s) := by
  have hr : Settled u (reported true v s) (reportClass false v (reported true v s)) :=
    (Stands.apart (reportClass_apart rfl (.refl _ _))).settled
  unfold proofPassed
  extract_lets r s1
  split
  · exact hr.trans ((logEvent_stands u _ _ _ s1).settled.trans (countTransient_settled u v _))
  · exact hr

/-- A failed proof pass is noted: event 0x0705, and the curtain for a unit that condition 4 names. -/
def noteFailed (item : Nat) (v : UnitId) (s : State) : State :=
  if s.named v then failPair (detect 6 (unitId v) (logEvent 0x0705 (unitId v) item (reported false v s)))
  else logEvent 0x0705 (unitId v) item (reported false v s)

/-- The classification that waits for the unit, or none, and the strike. -/
def strikeReported (v : UnitId) (s : State) : State :=
  match s.classOf v with
  | some c => strike 4 v (setClass c.cue 5 (logEvent 0x0707 (unitId v) (match v with
      | .core _ => 1
      | _ => 0) (reportClass true v s)))
  | none => strike 3 v s

theorem proofFailed_eq (item : Nat) (v : UnitId) (s : State) : proofFailed item v s = strikeReported v (noteFailed item v s) := rfl

theorem noteFailed_logs (item : Nat) (v : UnitId) (s : State) : Logs s (noteFailed item v s) 0x0705 (unitId v) item := by
  have h : Logs s (logEvent 0x0705 (unitId v) item (reported false v s)) 0x0705 (unitId v) item :=
    logEvent_logs 0x0705 (unitId v) item (reported false v s)
  unfold noteFailed
  split
  · obtain ⟨_, hg⟩ := (failPair_inCue (detect_inCue (a1 := 6) (a2 := unitId v) (.refl
      (logEvent 0x0705 (unitId v) item (reported false v s))))).log
    exact h.later hg
  · exact h

theorem noteFailed_detected (h : s.named v = true) (item : Nat) : Detected s (noteFailed item v s) := by
  rw [noteFailed, if_pos h]
  exact ((detect_detected 6 (unitId v) (logEvent 0x0705 (unitId v) item (reported false v s))).later (failPair_inCue (.refl _))
    (failPair_keeps (.refl _))).of_published rfl

theorem noteFailed_stands (u : UnitId) (item : Nat) (v : UnitId) (s : State) : Stands u (reported false v s) (noteFailed item v s) := by
  unfold noteFailed
  split
  · exact .trans (logEvent_stands u _ _ _ _) (.apart (failPair_apart rfl (detect_apart rfl rfl rfl rfl rfl (.refl _ _))))
  · exact .of_unit rfl

theorem strikeReported_settled (u v : UnitId) (s : State) : Settled u s (strikeReported v s) := by
  unfold strikeReported
  split
  · next c _ =>
    exact ((Stands.apart (logEvent_apart rfl (reportClass_apart rfl (.refl _ _)))).trans (setClass_stands u c.cue 5 _)).settled.trans
      (strike_settled u 4 v _)
  · exact strike_settled u 3 v s

theorem strikeReported_out (v : UnitId) (s : State) : (strikeReported v s).inServ v = false := by
  unfold strikeReported
  split <;> exact strike_out _ v _

theorem strikeReported_inCue (v : UnitId) (s : State) : InCue s (strikeReported v s) := by
  unfold strikeReported
  split
  · exact strike_inCue (setClass_inCue (logEvent_inCue (reportClass_inCue (.refl s))))
  · exact strike_inCue (.refl s)

theorem strikeReported_keeps (v : UnitId) (s : State) : Keeps s (strikeReported v s) := by
  unfold strikeReported
  split
  · exact strike_keeps (setClass_keeps (logEvent_keeps (reportClass_keeps (.refl s))))
  · exact strike_keeps (.refl s)

/-- Beyond the report a failed proof pass settles no unit's. -/
theorem proofFailed_settled (u : UnitId) (item : Nat) (v : UnitId) (s : State) : Settled u (reported false v s) (proofFailed item v s) :=
  (noteFailed_stands u item v s).settled.trans (strikeReported_settled u v _)

theorem proofFailed_logs (item : Nat) (v : UnitId) (s : State) : Logs s (proofFailed item v s) 0x0705 (unitId v) item := by
  obtain ⟨_, hg⟩ := (strikeReported_inCue v (noteFailed item v s)).log
  exact (noteFailed_logs item v s).later hg

theorem proofFailed_detected (h : s.named v = true) (item : Nat) : Detected s (proofFailed item v s) :=
  (noteFailed_detected h item).later (strikeReported_inCue v _) (strikeReported_keeps v _)

theorem proofPassed_shut (u v : UnitId) (s : State) : Shut u s (proofPassed v s) :=
  (reported_shut u true v s).trans (proofPassed_settled u v s).toShut

theorem proofFailed_shut (u : UnitId) (item : Nat) (v : UnitId) (s : State) : Shut u s (proofFailed item v s) :=
  (reported_shut u false v s).trans (proofFailed_settled u item v s).toShut

theorem proofPassed_proof (v : UnitId) (s : State) : ((proofPassed v s).unit v).proof = some true :=
  (proofPassed_settled v v s).proof.trans (congrArg UnitRec.proof (reported_unit true v s))

theorem proofFailed_proof (item : Nat) (v : UnitId) (s : State) : ((proofFailed item v s).unit v).proof = some false :=
  (proofFailed_settled v item v s).proof.trans (congrArg UnitRec.proof (reported_unit false v s))

end ProofRecords

/-! ### Item 8 and its sectors (R338, R363) -/

section Sectors

variable {s : State} {u : UnitId}

/-- The presses in service with an open item 8, with their sectors. -/
def State.open8 (s : State) : List (Fin 16 × List (Fin 16)) :=
  (allPresses.filter fun p => s.inServ (.press p) && decide ((s.unit (.press p)).proofFail ≠ [])).map fun p =>
    (p, (s.unit (.press p)).proofFail)

/-- The sectors under re-rig on which some press's item 8 failed. -/
def State.rig8 (s : State) : List (Fin 16) :=
  (List.finRange 16).filter fun n => s.sectorRig n && s.open8.any fun e => decide (n ∈ e.2)

/-- The other sectors that failed for two presses or more. -/
def State.bad8 (s : State) : List (Fin 16) :=
  (List.finRange 16).filter fun n => !s.sectorRig n && decide (2 ≤ (s.open8.filter fun e => decide (n ∈ e.2)).length)

/-- A sector that failed for two presses is struck, after event 0x0705. -/
def strikeSector (s : State) (n : Fin 16) : State :=
  let s := logEvent 0x0705 (unitId (.sector n)) 8 s
  let s := if s.safetySector n then failPair (detect 6 (unitId (.sector n)) s) else s
  strike 3 (.sector n) s

/-- A press's open item 8 closes: the press has passed where its sectors are to blame. -/
def close8 (blamed : Fin 16 → Bool) (s : State) (e : Fin 16 × List (Fin 16)) : State :=
  let s := s.modUnit (.press e.1) fun r => { r with proofFail := [] }
  if e.2.all blamed then proofPassed (.press e.1) s else proofFailed 8 (.press e.1) s

/-- The sectors under re-rig that are still at their item 8 pass it. -/
def passRigs (s : State) : State := ((List.finRange 16).filter fun n => s.sectorRig n).foldl (fun s n => passCheck (.sector n) s) s

/-- Failed attempts, then strikes, then the checks passed. -/
def judgeSectors (s : State) : State :=
  passRigs (s.bad8.foldl strikeSector (s.rig8.foldl (fun s n => failAttempt (.sector n) 0 s) s))

theorem resolveSectors_open (h : s.pressesReported = false) : resolveSectors s = s := if_pos h

theorem resolveSectors_closed (h : s.pressesReported = true) :
    resolveSectors s = s.open8.foldl (close8 fun n => decide (n ∈ s.rig8 ∨ n ∈ s.bad8)) (judgeSectors s) :=
  if_neg (by rw [h]; decide)

theorem strikeSector_settled (u : UnitId) (s : State) (n : Fin 16) : Settled u s (strikeSector s n) := by
  refine .trans (Stands.settled ?_) (strike_settled u 3 (.sector n) _)
  split
  · exact .trans (logEvent_stands u _ _ _ _) (.apart (failPair_apart rfl (detect_apart rfl rfl rfl rfl rfl (.refl _ _))))
  · exact .of_unit rfl

theorem strikeSector_inCue (s : State) (n : Fin 16) : InCue s (strikeSector s n) := by
  refine strike_inCue ?_
  split
  · exact failPair_inCue (detect_inCue (logEvent_inCue (.refl s)))
  · exact logEvent_inCue (.refl s)

theorem strikeSector_logs (s : State) (n : Fin 16) : Logs s (strikeSector s n) 0x0705 (unitId (.sector n)) 8 := by
  have h : InCue (logEvent 0x0705 (unitId (.sector n)) 8 s) (strikeSector s n) := by
    refine strike_inCue ?_
    split
    · exact failPair_inCue (detect_inCue (.refl _))
    · exact .refl _
  obtain ⟨_, hg⟩ := h.log
  exact (logEvent_logs 0x0705 (unitId (.sector n)) 8 s).later hg

theorem passRigs_settled (u : UnitId) (s : State) : Settled u s (passRigs s) :=
  .foldl _ _ (.refl u s) fun w n => passCheck_settled u (.sector n) w

theorem judgeSectors_settled (u : UnitId) (s : State) : Settled u s (judgeSectors s) :=
  ((Settled.foldl _ _ (.refl u s) fun w n => failAttempt_settled u (.sector n) 0 w).foldl _ _ fun w n => strikeSector_settled u w n).trans
    (passRigs_settled u _)

theorem close8_shut (u : UnitId) (b : Fin 16 → Bool) (s : State) (e : Fin 16 × List (Fin 16)) : Shut u s (close8 b s e) := by
  have hm : Shut u s (s.modUnit (.press e.1) fun r => { r with proofFail := [] }) := by
    by_cases h : u = .press e.1
    · subst h
      have eq := State.unit_modUnit_self (.press e.1) (fun r : UnitRec => { r with proofFail := [] }) s
      refine ⟨fun ho => ?_, fun _ => (congrArg UnitRec.proofFail eq :)⟩
      rw [State.inServ, eq]
      exact ho
    · exact (Stands.of_unit (State.unit_modUnit_ne h _ s)).settled.toShut
  unfold close8
  extract_lets s1
  split
  · exact hm.trans (proofPassed_shut u _ s1)
  · exact hm.trans (proofFailed_shut u 8 _ s1)

theorem close8_settled {e : Fin 16 × List (Fin 16)} (h : u ≠ .press e.1) (b : Fin 16 → Bool) (s : State) : Settled u s (close8 b s e) := by
  have hm : Settled u s (s.modUnit (.press e.1) fun r => { r with proofFail := [] }) :=
    (Stands.of_unit (State.unit_modUnit_ne h _ s)).settled
  unfold close8
  extract_lets s1
  split
  · exact hm.trans ((reported_settled h true s1).trans (proofPassed_settled u _ s1))
  · exact hm.trans ((reported_settled h false s1).trans (proofFailed_settled u 8 _ s1))

theorem close8_closes (b : Fin 16 → Bool) (s : State) (e : Fin 16 × List (Fin 16)) :
    ((close8 b s e).unit (.press e.1)).proofFail = [] := by
  have hm : ((s.modUnit (.press e.1) fun r => { r with proofFail := [] }).unit (.press e.1)).proofFail = [] := by
    rw [State.unit_modUnit_self]
  unfold close8
  extract_lets s1
  split
  · exact (proofPassed_shut _ _ s1).closed hm
  · exact (proofFailed_shut _ 8 _ s1).closed hm

theorem close8_inCue (b : Fin 16 → Bool) (s : State) (e : Fin 16 × List (Fin 16)) : InCue s (close8 b s e) := by
  unfold close8
  extract_lets s1
  split
  · exact proofPassed_inCue (State.modUnit_inCue (.refl s))
  · exact proofFailed_inCue (State.modUnit_inCue (.refl s))

theorem State.mem_open8 {e : Fin 16 × List (Fin 16)} : e ∈ s.open8 ↔ s.inServ (.press e.1) = true ∧
    (s.unit (.press e.1)).proofFail ≠ [] ∧ (s.unit (.press e.1)).proofFail = e.2 := by
  obtain ⟨p, l⟩ := e
  simp only [State.open8, List.mem_map, List.mem_filter, allPresses, List.mem_finRange, Prod.mk.injEq, true_and, Bool.and_eq_true,
    decide_eq_true_eq]
  constructor
  · rintro ⟨_, h, rfl, hl⟩
    exact ⟨h.1, h.2, hl⟩
  · rintro ⟨h1, h2, hl⟩
    exact ⟨p, ⟨h1, h2⟩, rfl, hl⟩

/-- A unit without an open item 8 keeps its report where the sectors are resolved. -/
theorem resolveSectors_settled (h : (s.unit u).proofFail = []) : Settled u s (resolveSectors s) := by
  cases hr : s.pressesReported with
  | false =>
    rw [resolveSectors_open hr]
    exact .refl u s
  | true =>
    rw [resolveSectors_closed hr]
    refine List.foldlRecOn _ _ (motive := Settled u s) (judgeSectors_settled u s) fun w hw e he => hw.trans (close8_settled ?_ _ w)
    rintro rfl
    exact (State.mem_open8.1 he).2.1 h

/-- Once every press has reported, no press in service has an open item 8. -/
theorem resolveSectors_closes {p : Fin 16} (h : s.pressesReported = true) (hp : s.inServ (.press p) = true)
    (ho : (s.unit (.press p)).proofFail ≠ []) : ((resolveSectors s).unit (.press p)).proofFail = [] := by
  obtain ⟨a, b, hab⟩ := List.append_of_mem (State.mem_open8 (e := (p, (s.unit (.press p)).proofFail)) |>.2 ⟨hp, ho, rfl⟩)
  rw [resolveSectors_closed h, hab, List.foldl_append, List.foldl_cons]
  exact (Shut.foldl b _ ⟨id, id⟩ fun w e => close8_shut _ _ w e).closed (close8_closes _ _ _)

theorem State.mem_bad8 {m : Fin 16} (hr : s.sectorRig m = false)
    (h2 : 2 ≤ (allPresses.filter fun q => s.inServ (.press q) && decide (m ∈ (s.unit (.press q)).proofFail)).length) : m ∈ s.bad8 := by
  have hf : (fun q : Fin 16 => s.inServ (.press q) && decide (m ∈ (s.unit (.press q)).proofFail)) =
      fun q => decide (m ∈ (s.unit (.press q)).proofFail) &&
        (s.inServ (.press q) && decide ((s.unit (.press q)).proofFail ≠ [])) := by
    funext q
    cases hl : (s.unit (.press q)).proofFail <;> simp [Bool.and_comm]
  rw [hf] at h2
  simp only [State.bad8, State.open8, List.mem_filter, List.mem_finRange, hr, List.filter_map, List.length_map, List.filter_filter,
    Bool.not_false, Bool.true_and, true_and, decide_eq_true_eq]
  exact h2

/-- A sector that failed for two presses is struck once every press has reported. -/
theorem resolveSectors_strikes {m : Fin 16} (h : s.pressesReported = true) (hm : m ∈ s.bad8) :
    Logs s (resolveSectors s) 0x0705 (unitId (.sector m)) 8 ∧ (resolveSectors s).inServ (.sector m) = false := by
  obtain ⟨a, b, hab⟩ := List.append_of_mem hm
  rw [resolveSectors_closed h, judgeSectors, hab, List.foldl_append, List.foldl_cons]
  generalize hx : a.foldl strikeSector (s.rig8.foldl (fun s n => failAttempt (.sector n) 0 s) s) = x
  have hin : InCue s x := hx ▸ List.foldlRecOn a _ (motive := InCue s)
    (List.foldlRecOn s.rig8 _ (motive := InCue s) (.refl s) fun w hw n _ => failAttempt_inCue hw) fun w hw n _ =>
      hw.trans (strikeSector_inCue w n)
  have hshut : Shut (.sector m) (strikeSector x m) (s.open8.foldl (close8 fun n => decide (n ∈ s.rig8 ∨ n ∈ a ++ m :: b))
      (passRigs (b.foldl strikeSector (strikeSector x m)))) :=
    .foldl _ _ ((Settled.foldl b _ (.refl _ _) fun w n => strikeSector_settled _ w n).trans (passRigs_settled _ _)).toShut
      fun w e => close8_shut _ _ w e
  have hlate : InCue (strikeSector x m) (s.open8.foldl (close8 fun n => decide (n ∈ s.rig8 ∨ n ∈ a ++ m :: b))
      (passRigs (b.foldl strikeSector (strikeSector x m)))) := by
    refine List.foldlRecOn _ _ (motive := InCue (strikeSector x m)) ?_ fun w hw e _ => hw.trans (close8_inCue _ w e)
    refine List.foldlRecOn _ _ (motive := InCue (strikeSector x m)) ?_ fun w hw n _ => passCheck_inCue hw
    exact List.foldlRecOn b _ (motive := InCue (strikeSector x m)) (.refl _) fun w hw n _ => hw.trans (strikeSector_inCue w n)
  obtain ⟨_, hg⟩ := hin.log
  obtain ⟨_, hg'⟩ := hlate.log
  exact ⟨((strikeSector_logs x m).later hg').earlier hg, hshut.out (strike_out 3 _ _)⟩

/-! #### The sectors of an open item 8 -/

/-- One sector has not passed this cue's proof pass; a safety sector makes the cue invalid. -/
def failSector (s : State) (n : Fin 16) : State :=
  let s := s.modUnit (.sector n) fun r => { r with proof := some false }
  if s.safetySector n then failPair (invalidate 6 s) else s

theorem failSectors_eq (ns : List (Fin 16)) (s : State) : failSectors ns s = ns.foldl failSector s := rfl

/-- Whose buffers the committed values keep. -/
def State.kept (s : State) : List (Nat × List BufReq) := s.sched.values.map fun v => (v.play, v.bufs)

/-- Of the committed values a sector's safety rests on their buffers alone. -/
theorem State.safetySector_eq (s : State) (n : Fin 16) : s.safetySector n =
    (decide (n = 0) || (s.forme.plays.any fun p => decide (p.kind = 0) && (s.playMaps p.index (covers (.sector n)) ||
      (s.kept.any fun e => decide (e.1 = p.index) && (e.2.flatMap devPages).any fun d => covers (.sector n) (region d)))) ||
    (s.forme.ring.flatMap fun a => devPages { tensor := 0, off := 0, play := 0, dev := a, len := batchSize s.forme.streams }).any
      fun d => covers (.sector n) (region d)) := by
  simp only [State.safetySector, State.kept, List.any_map]
  rfl

theorem invalidate_kept (cause : Nat) (s : State) : (invalidate cause s).kept = s.kept := by
  unfold invalidate
  split
  · rfl
  · refine List.map_map.trans (List.map_congr_left fun v _ => ?_)
    dsimp only [Function.comp]
    split <;> rfl

theorem invalidate_safetySector (cause : Nat) (n : Fin 16) (s : State) : (invalidate cause s).safetySector n = s.safetySector n := by
  have h := invalidate_apart (m := fun f => decide (f = .cue ∨ f = .sched)) (a1 := cause) rfl rfl (.refl _ s)
  have hforme : (invalidate cause s).forme = s.forme := h.same .forme rfl
  have hmem : (invalidate cause s).mem = s.mem := h.same .mem rfl
  have hmaps : (invalidate cause s).playMaps = s.playMaps := by
    funext play f
    rw [State.playMaps, State.playMaps, hmem]
  rw [State.safetySector_eq, State.safetySector_eq, invalidate_kept, hforme, hmaps]

theorem failSector_safetySector (m n : Fin 16) (s : State) : (failSector s n).safetySector m = s.safetySector m := by
  unfold failSector
  extract_lets s1
  split
  · exact invalidate_safetySector 6 m s1
  · rfl

theorem failSector_published (n : Fin 16) (s : State) : (failSector s n).cue.published = s.cue.published := by
  unfold failSector
  extract_lets s1
  split
  · obtain ⟨i, p, e⟩ := invalidate_cue 6 s1
    exact (congrArg Cue.published e :)
  · rfl

theorem failSector_invalid {n : Fin 16} (hn : s.safetySector n = true) (hp : s.cue.published = false) :
    (failSector s n).cue.invalid = true := by
  unfold failSector
  extract_lets s1
  rw [if_pos (show s1.safetySector n = true from hn)]
  exact invalidate_invalid 6 s1 hp

theorem failSector_unit_press (p n : Fin 16) (s : State) : (failSector s n).unit (.press p) = s.unit (.press p) := by
  have hm : (s.modUnit (.sector n) fun r => { r with proof := some false }).unit (.press p) = s.unit (.press p) :=
    State.unit_modUnit_ne (by simp) _ s
  unfold failSector
  extract_lets s1
  split
  · exact (State.unit_congr ((failPair_apart (m := butUnits) rfl (invalidate_apart rfl rfl (.refl _ s1))).same .units rfl) _).trans hm
  · exact hm

theorem failSectors_unit_press (p : Fin 16) (ns : List (Fin 16)) (s : State) :
    (failSectors ns s).unit (.press p) = s.unit (.press p) :=
  List.foldlRecOn ns _ (motive := fun w => w.unit (.press p) = s.unit (.press p)) rfl fun w hw n _ =>
    (failSector_unit_press p n w).trans hw

/-- A safety sector among the failed ones makes an unpublished cue invalid. -/
theorem failSectors_invalid {ns : List (Fin 16)} {m : Fin 16} (hm : m ∈ ns) (hs : s.safetySector m = true)
    (hp : s.cue.published = false) : (failSectors ns s).cue.invalid = true := by
  obtain ⟨a, b, rfl⟩ := List.append_of_mem hm
  rw [failSectors_eq, List.foldl_append, List.foldl_cons]
  obtain ⟨hs', hp'⟩ := List.foldlRecOn a failSector (motive := fun w => w.safetySector m = true ∧ w.cue.published = false) ⟨hs, hp⟩
    fun w hw n _ => ⟨(failSector_safetySector m n w).trans hw.1, (failSector_published n w).trans hw.2⟩
  exact (failSectors_inCue (a1 := b) (.refl (failSector _ m))).invalid (failSector_invalid hs' hp')

end Sectors

/-! ### The end of a proof pass -/

section ProofEnd

variable {s : State} {u : UnitId}

/-- What follows each report: item 8, the classifications, and MARK. -/
def closePass (s : State) : State := markProof (settleClasses (resolveSectors s))

theorem settleClass_stands (u : UnitId) (c : Classif) (s : State) : Stands u s (settleClass c s) := by
  unfold settleClass
  split
  · exact .refl u s
  · split
    · exact endClass_stands u _ s
    · split
      · exact (logEvent_stands u _ _ _ s).trans ((setClass_stands u c.cue 7 _).trans (endClass_stands u _ _))
      · exact (logEvent_stands u _ _ _ s).trans ((setClass_stands u c.cue 6 _).trans (endClass_stands u _ _))

theorem settleClasses_stands (u : UnitId) (s : State) : Stands u s (settleClasses s) :=
  .foldl _ _ (.refl u s) fun w c => settleClass_stands u c w

theorem afterSectors_stands (u : UnitId) (s : State) : Stands u (resolveSectors s) (closePass s) :=
  (settleClasses_stands u _).trans (.apart (markProof_apart rfl (.refl _ _)))

theorem afterSectors_inCue (s : State) : InCue (resolveSectors s) (closePass s) := markProof_inCue (settleClasses_inCue (.refl _))

theorem closePass_settled (h : (s.unit u).proofFail = []) : Settled u s (closePass s) :=
  (resolveSectors_settled h).trans (afterSectors_stands u s).settled

theorem closePass_inCue (s : State) : InCue s (closePass s) := (resolveSectors_inCue (.refl s)).trans (afterSectors_inCue s)

theorem closePass_keeps (s : State) : Keeps s (closePass s) := markProof_keeps (settleClasses_keeps (resolveSectors_keeps (.refl s)))

/-- A failed proof pass, to its end. -/
theorem closePass_proofFailed (h : (s.unit u).proofFail = []) (item : Nat) :
    ((closePass (proofFailed item u s)).unit u).proof = some false ∧ (closePass (proofFailed item u s)).inServ u = false ∧
      Logs s (closePass (proofFailed item u s)) 0x0705 (unitId u) item ∧
      (s.named u = true → Detected s (closePass (proofFailed item u s))) := by
  have hs : Settled u (proofFailed item u s) (closePass (proofFailed item u s)) :=
    closePass_settled ((proofFailed_shut u item u s).closed h)
  obtain ⟨_, hg⟩ := (closePass_inCue (proofFailed item u s)).log
  exact ⟨hs.proof.trans (proofFailed_proof item u s), hs.out (strikeReported_out u _), (proofFailed_logs item u s).later hg,
    fun hn => (proofFailed_detected hn item).later (closePass_inCue _) (closePass_keeps _)⟩

theorem State.proving_iff : s.proving u = true ↔ s.cue.running = true ∧ s.inServ u = true ∧
    (s.dev.faultN && decide (s.dev.st = .safeHold)) = false ∧ (s.unit u).proof = none ∧ (s.unit u).proofFail = [] := by
  simp only [State.proving, Bool.and_eq_true, Bool.not_eq_true', Option.isNone_iff_eq_none, decide_eq_true_eq, and_assoc]

/-- What a proof pass's end reports. -/
def reportPass (u : ProofUnit) (sectors : List (Fin 16)) (verdict : Option (Fin 11)) (s : State) : State :=
  match verdict, proofUnit u with
  | none, _ => proofPassed (proofUnit u) s
  | some i, .press p =>
    if i = 8 ∧ sectors ≠ [] then failSectors sectors (s.modUnit (.press p) fun r => { r with proofFail := sectors })
    else proofFailed i.1 (proofUnit u) s
  | some i, _ => proofFailed i.1 (proofUnit u) s

variable {n : Nat} {p : ProofUnit} {failed : Option (Fin 11)} {obs : ProofObs}

theorem exec_proofPassEnd (h : s.proving (proofUnit p) = true) : exec (.proofPassEnd n p failed obs) s =
    .next (closePass (reportPass p obs.sectors (s.proofVerdict (proofUnit p) failed obs.result) (s.at n))) :=
  congrArg Host.Outcome.next (if_neg (by rw [show (s.at n).proving (proofUnit p) = true from h]; decide))

theorem reportPass_passed (p : ProofUnit) (sectors : List (Fin 16)) (s : State) :
    reportPass p sectors none s = proofPassed (proofUnit p) s := by cases p <;> rfl

theorem reportPass_failed {sectors : List (Fin 16)} {item : Fin 11} (h : item = 8 → sectors = [] ∨ ∃ k, p = .core k) (s : State) :
    reportPass p sectors (some item) s = proofFailed item.1 (proofUnit p) s := by
  cases p with
  | press q => exact if_neg fun ⟨h8, hne⟩ => (h h8).elim hne fun ⟨_, hk⟩ => nomatch hk
  | core k => rfl

theorem reportPass_sectors {sectors : List (Fin 16)} (h : sectors ≠ []) (q : Fin 16) (s : State) :
    reportPass (.press q) sectors (some 8) s = failSectors sectors (s.modUnit (.press q) fun r => { r with proofFail := sectors }) :=
  if_pos ⟨rfl, h⟩

/-- The item that a proof pass fails with: a self-check's, or one that the digest leaves open. -/
theorem State.proofVerdict_failed {item : Fin 11} {result : List Byte} (h : failed = some item ∨ (failed = none ∧
    imageDigest 0x20000 result ≠ s.proofExpected u ∧ item = (Config.proofItem (imageDigest 0x20000 result)).succ)) :
    s.proofVerdict u failed result = some item := by
  rcases h with rfl | ⟨rfl, hd, rfl⟩
  · rfl
  · exact if_neg hd

theorem exec_proofPassEnd_idle (h : s.proving (proofUnit p) = false) : exec (.proofPassEnd n p failed obs) s = .next (s.at n) :=
  congrArg Host.Outcome.next (if_pos (by rw [show (s.at n).proving (proofUnit p) = false from h]; decide))

/-- The reservation of a unit's proof pass in the cue (R53). -/
def reservation : ProofUnit → Nat
  | .press _ => us 40
  | .core _ => us 60

theorem exec_proofReservationExpiry (h : s.proving (proofUnit p) = true) (ho : reservation p ≤ (s.at n).off) :
    exec (.proofReservationExpiry n p) s =
      .next (closePass (proofFailed 11 (proofUnit p) (logEvent 0x0112 (unitId (proofUnit p)) 0 (s.at n)))) := by
  refine congrArg Host.Outcome.next (if_pos ?_)
  rw [show (s.at n).proving (proofUnit p) = true from h]
  exact decide_eq_true ho

theorem exec_proofReservationExpiry_none (h : s.proving (proofUnit p) = false ∨ (s.at n).off < reservation p) :
    exec (.proofReservationExpiry n p) s = .next (s.at n) := by
  refine congrArg Host.Outcome.next (if_neg fun hc => ?_)
  obtain ⟨hp, ho⟩ := Bool.and_eq_true_iff.1 hc
  rcases h with h | h
  · exact Bool.eq_false_iff.1 h hp
  · exact Nat.not_le.2 h (of_decide_eq_true ho)

end ProofEnd

/-! ### Item 8 with sectors named -/

section NamedSectors

variable {s : State} {sectors : List (Fin 16)} {p : Fin 16}

/-- A press's item 8 is open on its sectors. -/
def openItem (p : Fin 16) (sectors : List (Fin 16)) (s : State) : State :=
  failSectors sectors (s.modUnit (.press p) fun r => { r with proofFail := sectors })

theorem openItem_unit (p : Fin 16) (sectors : List (Fin 16)) (s : State) :
    (openItem p sectors s).unit (.press p) = { s.unit (.press p) with proofFail := sectors } :=
  (failSectors_unit_press p sectors _).trans (State.unit_modUnit_self _ _ s)

/-- Until every press has reported, the press has no result and only the named sectors' records move. -/
theorem closePass_open (h : (openItem p sectors s).pressesReported = false) (hp : (s.unit (.press p)).proof = none) :
    ((closePass (openItem p sectors s)).unit (.press p)).proof = none ∧
      (s.cls = [] → (closePass (openItem p sectors s)).units = (openItem p sectors s).units) := by
  have hstand := afterSectors_stands (.press p) (openItem p sectors s)
  rw [resolveSectors_open h] at hstand
  refine ⟨hstand.proof.trans ((congrArg UnitRec.proof (openItem_unit p sectors s)).trans hp), fun hcls => ?_⟩
  have hc : (openItem p sectors s).cls = [] :=
    ((failSectors_apart (m := fun f => decide (f ≠ .cls)) rfl rfl rfl rfl (.refl _ _)).same .cls rfl).trans hcls
  rw [closePass, resolveSectors_open h, settleClasses, hc]
  exact (markProof_apart (m := butUnits) rfl (.refl _ _)).same .units rfl

/-- Once every press has reported, the item is closed, and the sectors that failed for two are struck. -/
theorem closePass_closed (h : (openItem p sectors s).pressesReported = true) (hp : s.inServ (.press p) = true) (hne : sectors ≠ []) :
    ((closePass (openItem p sectors s)).unit (.press p)).proofFail = [] ∧ ∀ m ∈ (openItem p sectors s).bad8,
      Logs (openItem p sectors s) (closePass (openItem p sectors s)) 0x0705 (unitId (.sector m)) 8 ∧
        (closePass (openItem p sectors s)).inServ (.sector m) = false := by
  have hu := openItem_unit p sectors s
  have hin : (openItem p sectors s).inServ (.press p) = true := by
    rw [State.inServ, hu]
    exact hp
  have ho : ((openItem p sectors s).unit (.press p)).proofFail ≠ [] := by
    rw [hu]
    exact hne
  refine ⟨(afterSectors_stands _ _).proofFail.trans (resolveSectors_closes h hin ho), fun m hm => ?_⟩
  obtain ⟨hlog, hout⟩ := resolveSectors_strikes h hm
  obtain ⟨_, hg⟩ := (afterSectors_inCue (openItem p sectors s)).log
  exact ⟨hlog.later hg, (afterSectors_stands _ _).inServ.trans hout⟩

end NamedSectors

/-- Settles O26: a report as the verdict says, then what every report is followed by. -/
theorem proofPasses : Obligations.ProofPasses := by
  refine ⟨fun n u obs failed s h => ?_, fun n u s h => ⟨exec_proofReservationExpiry_none (.inl h), fun f obs => exec_proofPassEnd_idle h⟩⟩
  obtain ⟨-, hin, -, hnone, hclosed⟩ := State.proving_iff.1 h
  refine ⟨fun hf hd => ?_, fun item hv h8 => ?_, fun p w hv hp hne hw => ?_, fun ho => ?_, fun ho => ?_⟩
  · have e := exec_proofPassEnd (n := n) (failed := failed) (obs := obs) h
    rw [show s.proofVerdict (proofUnit u) failed obs.result = none by subst hf; exact if_pos hd, reportPass_passed] at e
    refine ⟨_, e, ?_, exec_next_apart e (f := .dev) (by simp [fieldsOf])⟩
    exact (closePass_settled ((proofPassed_shut _ _ (s.at n)).closed hclosed)).proof.trans (proofPassed_proof _ _)
  · have e := exec_proofPassEnd (n := n) (failed := failed) (obs := obs) h
    rw [State.proofVerdict_failed hv, reportPass_failed h8] at e
    exact ⟨_, e, closePass_proofFailed (s := s.at n) hclosed item.1⟩
  · subst hp hw
    have e := exec_proofPassEnd (n := n) (failed := failed) (obs := obs) h
    rw [State.proofVerdict_failed (hv.imp_right fun ⟨a, b, c⟩ => ⟨a, b, c.symm⟩), reportPass_sectors hne] at e
    refine ⟨⟨_, e, fun ⟨m, hm, hs⟩ hpub => ?_⟩, fun hr => ?_, fun hr => ?_⟩
    · exact (closePass_inCue _).invalid (failSectors_invalid (s := State.modUnit _ _ (s.at n)) hm hs hpub)
    · obtain ⟨hproof, hunits⟩ := closePass_open (s := s.at n) hr hnone
      exact ⟨_, e, hproof, hunits, exec_next_apart e (f := .dev) (by simp [fieldsOf])⟩
    · obtain ⟨hclose, hstrike⟩ := closePass_closed (s := s.at n) hr hin hne
      obtain ⟨_, hg⟩ := (failSectors_inCue (a1 := obs.sectors) (State.modUnit_inCue (a1 := .press p)
        (a2 := fun r => { r with proofFail := obs.sectors }) (.refl (s.at n)))).log
      refine ⟨_, e, hclose, fun m hm h2 => ?_⟩
      obtain ⟨hlog, hout⟩ := hstrike m (State.mem_bad8 hm h2)
      exact ⟨hlog.earlier hg, hout⟩
  · have e := exec_proofReservationExpiry (n := n) (p := u) h (by cases u <;> exact ho)
    have hlog := logEvent_logs 0x0112 (unitId (proofUnit u)) 0 (s.at n)
    obtain ⟨_, hev⟩ := id hlog
    obtain ⟨hproof, hout, hfail, hnamed⟩ := closePass_proofFailed (u := proofUnit u)
      (s := logEvent 0x0112 (unitId (proofUnit u)) 0 (s.at n)) hclosed 11
    obtain ⟨_, hg⟩ := ((proofFailed_inCue (a1 := 11) (a2 := proofUnit u) (.refl (logEvent 0x0112 (unitId (proofUnit u)) 0 (s.at n)))).trans
      (closePass_inCue _)).log
    exact ⟨_, e, hproof, hout, hlog.later hg, hfail.earlier hev.1, hnamed⟩
  · exact exec_proofReservationExpiry_none (.inr (by cases u <;> exact ho))

end Sys2Proof.Machine

namespace Sys2Proof.Machine

/-! ### INGEST_CUTOFF (R78, R80, R83, R84) -/

section IngestCutoff

variable {s t : State} {n : Nat}

/-- The batch that the cutoff closes. -/
def closedBatch (s : State) : Batch :=
  let recs := (List.finRange 32).map fun k => slotRec s k
  { cue := s.cue.count.toNat, stamp := s.cue.stampPrev, mask := BitVec.ofNat 32 (slotMaskOf recs s.forme.streams), slots := recs
    under := ingressCopies s.forme recs }

/-- Closing the batch marks it in the cue and puts it before the newest three; the running forme, the log and the curtain stay. -/
theorem closeBatch_frame (s : State) : (closeBatch s).cue = { s.cue with slotMask := (closedBatch s).mask, mark := 2 } ∧
    (closeBatch s).ing.batches = (closedBatch s :: s.ing.batches).take 4 ∧ (closeBatch s).forme = s.forme ∧
    (closeBatch s).log = s.log ∧ (closeBatch s).cur = s.cur := by
  have h := fun u : State => placeBatch_apart (m := onlyMem) (a1 := closedBatch s) rfl (.refl _ u)
  exact ⟨(h _).same .cue rfl, congrArg Ingest.batches ((h _).same .ing rfl), (h _).same .forme rfl, (h _).same .log rfl,
    (h _).same .cur rfl⟩

/-- Which required slots are missing is said by the running forme and the slot mask. -/
theorem State.missing_congr (hf : t.forme = s.forme) (hm : t.cue.slotMask = s.cue.slotMask) : t.missing = s.missing := by
  rw [State.missing, State.missing, hf, hm]

/-- The port that event 0x0250 names for a slot. -/
def State.slotPort (s : State) (k : Nat) : Byte := ((s.forme.streams.getD k none).map fun c => unitId c.unit).getD 0xFF#8

/-- The events of a cue's missing slots. -/
def State.missingEvents (s : State) : List (Nat × Byte × Nat) := s.missing.map fun k => (0x0250, s.slotPort k, k)

theorem requireSlots_none (h : s.missing = []) : requireSlots s = s := by
  rw [requireSlots, h]

/-- The missing slots are logged one by one, and the first is detected. -/
theorem requireSlots_some (h : s.missing ≠ []) : ∃ unit, requireSlots s =
    endSafety (failPair (detect 5 unit (logAll s.missingEvents s))) := by
  obtain ⟨i, l, hl⟩ := List.exists_cons_of_ne_nil h
  refine ⟨s.slotPort i, ?_⟩
  rw [logAll, State.missingEvents, List.foldl_map, requireSlots, hl]
  rfl

/-- The check of R83 leaves MARK and the slot mask of the cue. -/
theorem requireSlots_marks (s : State) : (requireSlots s).cue.mark = s.cue.mark ∧ (requireSlots s).cue.slotMask = s.cue.slotMask := by
  by_cases h : s.missing = []
  · rw [requireSlots_none h]
    exact ⟨rfl, rfl⟩
  · obtain ⟨unit, e⟩ := requireSlots_some h
    obtain ⟨i, p, hi⟩ := invalidate_cue 5 (logAll s.missingEvents s)
    have hcue : (requireSlots s).cue = (detect 5 unit (logAll s.missingEvents s)).cue :=
      (congrArg State.cue e).trans ((endSafety_butKills _).same .cue rfl)
    rw [hcue, detect, curtainStop_cue, hi, show (logAll s.missingEvents s).cue = s.cue from (logAll_apart _ s).same .cue rfl]
    exact ⟨rfl, rfl⟩

/-- A required slot that is missing is logged and stops the curtain (R83). -/
theorem requireSlots_detects (h : s.missing ≠ []) : Detected s (requireSlots s) ∧
    ∀ k ∈ s.missing, Logs s (requireSlots s) 0x0250 (s.slotPort k) k := by
  obtain ⟨unit, e⟩ := requireSlots_some h
  have hc : InCue (detect 5 unit (logAll s.missingEvents s)) (requireSlots s) := e ▸ endSafety_inCue (failPair_inCue (.refl _))
  have hk : Keeps (detect 5 unit (logAll s.missingEvents s)) (requireSlots s) := e ▸ endSafety_keeps (failPair_keeps (.refl _))
  have hl : (logAll s.missingEvents s).cue = s.cue := (logAll_apart _ s).same .cue rfl
  refine ⟨((detect_detected 5 unit _).later hc hk).of_published (congrArg Cue.published hl), fun k hm => ?_⟩
  obtain ⟨_, hg⟩ := ((detect_inCue (a1 := 5) (a2 := unit) (.refl (logAll s.missingEvents s))).trans hc).log
  exact (logAll_logs (List.mem_map_of_mem hm) s).later hg

/-- The check of R83 leaves the batches and the running forme. -/
theorem requireSlots_frame (s : State) : (requireSlots s).ing = s.ing ∧ (requireSlots s).forme = s.forme := by
  have h := requireSlots_apart (m := fun f => decide (f ≠ .ing ∧ f ≠ .forme)) rfl rfl rfl rfl rfl rfl rfl rfl rfl rfl rfl (.refl _ s)
  exact ⟨h.same .ing rfl, h.same .forme rfl⟩

theorem requireSlots_missing (s : State) : (requireSlots s).missing = s.missing :=
  State.missing_congr (requireSlots_frame s).2 (requireSlots_marks s).2

/-- The cutoff closes the batch, and the cue is checked where it is judged. -/
theorem exec_ingestCutoff (hr : s.cue.running = true) (ho : us s.forme.sheet.cutoff ≤ (s.at n).off) (hm : s.cue.mark.toNat < 2) :
    exec (.ingestCutoff n) s = .next (if s.judged then requireSlots (closeBatch (s.at n)) else closeBatch (s.at n)) := by
  have hj : (closeBatch (s.at n)).judged = s.judged := by
    rw [State.judged, (closeBatch_frame _).1]
    rfl
  rw [← hj]
  refine congrArg Host.Outcome.next (if_pos ?_)
  simp only [State.at_cue, State.at_forme, hr, ho, hm, decide_true, Bool.and_self]

end IngestCutoff

/-- Settles O18: the batch closes first, and the check of R83 that follows in a judged cue leaves it. -/
theorem ingestCutoffs : Obligations.IngestCutoffs := by
  intro n s hr ho hm
  obtain ⟨hcue, hbat, hforme, hlog, hcur⟩ := closeBatch_frame (s.at n)
  have hmark : (closeBatch (s.at n)).cue.mark = 2 := by rw [hcue]
  have hmask : (closeBatch (s.at n)).cue.slotMask = (closedBatch (s.at n)).mask := by rw [hcue]
  have hpub : (closeBatch (s.at n)).cue.published = s.cue.published := by rw [hcue, State.at_cue]
  refine ⟨_, exec_ingestCutoff hr ho hm, ?_⟩
  cases hj : s.judged with
  | false => exact ⟨hmark, ⟨_, hbat, rfl, rfl, hmask.symm, rfl⟩, nofun, fun _ => ⟨hcur, hlog⟩⟩
  | true =>
    rw [if_pos rfl]
    obtain ⟨hing, -⟩ := requireSlots_frame (closeBatch (s.at n))
    obtain ⟨kmark, kmask⟩ := requireSlots_marks (closeBatch (s.at n))
    have hmiss := requireSlots_missing (closeBatch (s.at n))
    refine ⟨kmark.trans hmark, ⟨_, (congrArg Ingest.batches hing).trans hbat, rfl, rfl, (kmask.trans hmask).symm, rfl⟩,
      fun _ => ⟨fun k hk => ?_, fun hne => ?_⟩, fun h => ?_⟩
    · rw [hmiss] at hk
      have hl := (requireSlots_detects (List.ne_nil_of_mem hk)).2 k hk
      rw [State.slotPort, hforme] at hl
      exact hl.earlier (.same hlog)
    · rw [hmiss] at hne
      exact (requireSlots_detects hne).1.of_published hpub
    · have hnone := requireSlots_none (hmiss.symm.trans (h.resolve_left Bool.noConfusion))
      exact ⟨(congrArg State.cur hnone).trans hcur, (congrArg State.log hnone).trans hlog⟩

end Sys2Proof.Machine

namespace Sys2Proof.Machine

/-! ### Records of the streams (R60 to R93) -/

section Streams

variable {p q : Fin 32 → Prop} {s t u : State} {i j : Fin 32}

@[simp] theorem State.modStream_self (i : Fin 32) (f : StreamRt → StreamRt) (s : State) :
    (s.modStream i f).ing.streams.get i = f (s.ing.streams.get i) :=
  (vmod_get _ _ _ _).trans (if_pos rfl)

theorem State.modStream_ne (h : j ≠ i) (f : StreamRt → StreamRt) (s : State) :
    (s.modStream i f).ing.streams.get j = s.ing.streams.get j :=
  (vmod_get _ _ _ _).trans (if_neg h.symm)

/-- The fields that the ingest of a frame or packet can change. -/
def ingestFields : Field → Bool := fun f => decide (f = .free ∨ f = .log ∨ f = .ing)

/-- Ingest went on in the streams of `p` alone, within one arbiter cycle. -/
structure OnStreams (p : Fin 32 → Prop) (s t : State) : Prop where
  others : ∀ j, ¬p j → t.ing.streams.get j = s.ing.streams.get j
  now : t.now = s.now
  apart : Apart ingestFields s t
  log : ∃ new, LogGrows s t new

theorem OnStreams.refl (p : Fin 32 → Prop) (s : State) : OnStreams p s s := ⟨fun _ _ => rfl, rfl, .refl _ s, [], .same rfl⟩

theorem OnStreams.trans (a : OnStreams p s t) (b : OnStreams p t u) : OnStreams p s u :=
  ⟨fun j h => (b.others j h).trans (a.others j h), b.now.trans a.now, a.apart.trans b.apart,
    let ⟨_, x⟩ := a.log; let ⟨_, y⟩ := b.log; ⟨_, x.trans y⟩⟩

theorem OnStreams.mono (a : OnStreams p s t) (h : ∀ j, p j → q j) : OnStreams q s t := ⟨fun j hj => a.others j (hj ∘ h j), a.2, a.3, a.4⟩

theorem OnStreams.stream (a : OnStreams p s t) (i : Fin 32) : t.stream i = s.stream i := by
  rw [State.stream, State.stream, show t.forme = s.forme from a.apart.same .forme rfl]

theorem OnStreams.portIdOf (a : OnStreams p s t) (i : Fin 32) : t.portIdOf i = s.portIdOf i := by
  rw [State.portIdOf, State.portIdOf, a.stream]

theorem OnStreams.ns (a : OnStreams p s t) : t.ns = s.ns := by
  rw [State.ns, State.ns, a.now, show t.tb = s.tb from a.apart.same .tb rfl]

/-- What happens to each stream of a list happens to those streams alone. -/
theorem OnStreams.foldl {f : State → Fin 32 → State} (hf : ∀ w j, OnStreams (· = j) w (f w j)) (l : List (Fin 32)) (s : State) :
    OnStreams (· ∈ l) s (l.foldl f s) := by
  induction l generalizing s with
  | nil => exact .refl _ s
  | cons i l ih =>
    exact ((hf s i).mono fun _ hj => List.mem_cons.2 (.inl hj)).trans ((ih (f s i)).mono fun _ hj => List.mem_cons_of_mem i hj)

/-- What goes on in the other streams leaves a stream as it is. -/
theorem OnStreams.elsewhere (a : OnStreams (· ≠ i) s t) : t.ing.streams.get i = s.ing.streams.get i := a.others i (not_not.2 rfl)

/-- Of what happens to each stream of a list, a stream sees its own part alone, from a state that only the other streams have moved. -/
theorem OnStreams.foldl_split {f : State → Fin 32 → State} (hf : ∀ w j, OnStreams (· = j) w (f w j)) {l : List (Fin 32)} (hl : l.Nodup)
    (hi : i ∈ l) (s : State) : ∃ u, OnStreams (· ≠ i) s u ∧ (l.foldl f s).ing.streams.get i = (f u i).ing.streams.get i ∧
      ∀ {code unit detail}, Logs u (f u i) code unit detail → Logs s (l.foldl f s) code unit detail := by
  obtain ⟨a, b, rfl⟩ := List.append_of_mem hi
  have hab := (List.nodup_cons.1 (List.nodup_middle.1 hl)).1
  have before : OnStreams (· ≠ i) s (a.foldl f s) :=
    (OnStreams.foldl hf a s).mono fun j hj => ne_of_mem_of_not_mem (List.mem_append_left b hj) hab
  have after : OnStreams (· ≠ i) (f (a.foldl f s) i) (b.foldl f (f (a.foldl f s) i)) :=
    (OnStreams.foldl hf b _).mono fun j hj => ne_of_mem_of_not_mem (List.mem_append_right a hj) hab
  obtain ⟨_, g⟩ := before.log
  obtain ⟨_, g'⟩ := after.log
  rw [List.foldl_append, List.foldl_cons]
  exact ⟨_, before, after.elsewhere, fun h => (h.earlier g).later g'⟩

theorem State.slotsOf_nodup (s : State) (p : Stream → Bool) : (s.slotsOf p).Nodup := (List.nodup_finRange 32).filter _

theorem State.mem_slotsOf {p : Stream → Bool} : i ∈ s.slotsOf p ↔ ∃ c, s.stream i = some c ∧ p c = true := by
  simp [State.slotsOf, Option.any_eq_true]

/-! #### Ingest of one stream -/

/-- Ingest went on in one stream, whose loss clock runs on (R92). -/
structure Unheard (i : Fin 32) (s t : State) : Prop extends OnStreams (· = i) s t where
  loss : (t.ing.streams.get i).lossFrom = (s.ing.streams.get i).lossFrom

theorem Unheard.refl (i : Fin 32) (s : State) : Unheard i s s := ⟨.refl _ s, rfl⟩

theorem Unheard.trans (a : Unheard i s t) (b : Unheard i t u) : Unheard i s u := ⟨a.1.trans b.1, b.2.trans a.2⟩

theorem Unheard.foldl {α : Type} (l : List α) (f : State → α → State) (h : Unheard i s t) (hf : ∀ u a, Unheard i s u → Unheard i s (f u a)) :
    Unheard i s (l.foldl f t) := by
  induction l generalizing t with
  | nil => exact h
  | cons a l ih => exact ih (hf _ _ h)

theorem OnStreams.modStream (i : Fin 32) (f : StreamRt → StreamRt) (s : State) : OnStreams (· = i) s (s.modStream i f) :=
  ⟨fun _ h => State.modStream_ne h f s, rfl, State.modStream_apart rfl (.refl _ s), [], .same rfl⟩

theorem Unheard.modStream {f : StreamRt → StreamRt} (h : Unheard i s t) (hf : ∀ r, (f r).lossFrom = r.lossFrom) :
    Unheard i s (t.modStream i f) :=
  h.trans ⟨.modStream i f t, (congrArg StreamRt.lossFrom (State.modStream_self i f t)).trans (hf _)⟩

theorem Unheard.logEvent {code detail : Nat} {unit : Byte} (h : Unheard i s t) : Unheard i s (logEvent code unit detail t) :=
  let ⟨_, g, _⟩ := logEvent_grows code unit detail t
  h.trans ⟨⟨fun _ _ => rfl, rfl, logEvent_apart rfl (.refl _ t), _, g⟩, rfl⟩

theorem Unheard.beginSample {stamp num : Nat} (h : Unheard i s t) : Unheard i s (beginSample i stamp num t) := h.modStream fun _ => rfl

theorem Unheard.rejectSample {id code : Nat} (h : Unheard i s t) : Unheard i s (rejectSample i id code t) := h.modStream fun _ => rfl

theorem Unheard.makeReady {x : Sample} (h : Unheard i s t) : Unheard i s (makeReady i x t) := h.modStream fun _ => rfl

end Streams

/-! ### Frames of camera streams (R58 to R61, R77, R87) -/

section Frames

variable {s t : State} {i : Fin 32} {c : Stream} {f : Frame} {code num : Nat} {bs : List Byte}

theorem rejectFrame_none (h : (s.ing.streams.get i).frame = none) : rejectFrame code i s = s := by
  rw [rejectFrame, h]

theorem rejectFrame_bad (h : (s.ing.streams.get i).frame = some f) (hb : f.bad = true) : rejectFrame code i s = s := by
  simp only [rejectFrame, h, hb, if_true]

/-- The records of a stream whose frame a check rejects. -/
def StreamRt.frameRejected (f : Frame) (r : StreamRt) : StreamRt :=
  { r with frame := some { f with bad := true }, set := r.set.map fun t => { t with bad := true } }

theorem rejectFrame_good (h : (s.ing.streams.get i).frame = some f) (hb : f.bad = false) : rejectFrame code i s =
    rejectSample i f.id 3 (logEvent code (s.portIdOf i) i.1 (s.modStream i (StreamRt.frameRejected f))) := by
  simp only [rejectFrame, h, hb, Bool.false_eq_true, if_false]
  rfl

theorem rejectFrame_cases (code : Nat) (i : Fin 32) (s : State) : rejectFrame code i s = s ∨ ∃ f, (s.ing.streams.get i).frame = some f ∧
    rejectFrame code i s = rejectSample i f.id 3 (logEvent code (s.portIdOf i) i.1 (s.modStream i (StreamRt.frameRejected f))) := by
  cases h : (s.ing.streams.get i).frame with
  | none => exact .inl (rejectFrame_none h)
  | some f =>
    cases hb : f.bad with
    | true => exact .inl (rejectFrame_bad h hb)
    | false => exact .inr ⟨f, rfl, rejectFrame_good h hb⟩

theorem Unheard.rejectFrame (h : Unheard i s t) : Unheard i s (rejectFrame code i t) := by
  rcases rejectFrame_cases code i t with e | ⟨f, -, e⟩ <;> rw [e]
  · exact h
  · exact (h.modStream (f := StreamRt.frameRejected f) fun _ => rfl).logEvent.rejectSample

/-- A good frame that a check rejects is a FORMAT one, with the check's event (R60). -/
theorem rejectFrame_rejects (h : (s.ing.streams.get i).frame = some f) (hb : f.bad = false) :
    ((rejectFrame code i s).ing.streams.get i).frame = some { f with bad := true } ∧
      Logs s (rejectFrame code i s) code (s.portIdOf i) i.1 := by
  rw [rejectFrame_good h hb]
  refine ⟨?_, logEvent_logs code (s.portIdOf i) i.1 (s.modStream i (StreamRt.frameRejected f))⟩
  rw [rejectSample, State.modStream_self, logEvent_ing, State.modStream_self]
  rfl

theorem rejectFrame_lastId (code : Nat) (i : Fin 32) (s : State) :
    ((rejectFrame code i s).ing.streams.get i).lastId = (s.ing.streams.get i).lastId := by
  rcases rejectFrame_cases code i s with e | ⟨f, -, e⟩ <;> rw [e]
  rw [rejectSample, State.modStream_self, logEvent_ing, State.modStream_self]
  rfl

/-! #### Frame Start -/

theorem OnStreams.heard (i : Fin 32) (s : State) : OnStreams (· = i) s (heard i s) := .modStream i _ s

theorem heard_lossFrom (i : Fin 32) (s : State) : ((heard i s).ing.streams.get i).lossFrom = s.now :=
  congrArg StreamRt.lossFrom (State.modStream_self i _ s)

theorem Unheard.rejectSet (h : Unheard i s t) : Unheard i s (rejectSet i t) := by
  unfold Machine.rejectSet
  split
  · exact h
  · split
    · exact h
    · exact .rejectSample (.logEvent (.modStream h fun _ => rfl))

theorem Unheard.headlessSet (h : Unheard i s t) : Unheard i s (headlessSet i t) :=
  .logEvent (.modStream h fun _ => rfl)

theorem Unheard.phaseStart (h : Unheard i s t) : Unheard i s (phaseStart c i num t) := by
  unfold Machine.phaseStart
  dsimp only
  split
  · exact h.rejectSet.beginSample.modStream fun _ => rfl
  · split
    · exact h.headlessSet
    · split
      · exact h
      · exact h.rejectSet

/-- What a Frame Start does to the stream's sample or phase set. -/
def startSample (c : Stream) (i : Fin 32) (num : Nat) (s : State) : State :=
  if c.kind = 1 then phaseStart c i num s else beginSample i (stampOf s.ns) num s

/-- The number of the sample whose frame starts. -/
def startedId (c : Stream) (i : Fin 32) (s : State) : Nat :=
  if c.kind = 1 then (((s.ing.streams.get i).set).map PhaseSet.id).getD 0 else s.lastSample i

/-- The stream before its frame begins: a frame in progress is rejected, and the stream is heard (R60, R92). -/
def beforeFrame (i : Fin 32) (s : State) : State := heard i (rejectFrame 0x0204 i s)

/-- A frame that begins. -/
def newFrame (id stamp num : Nat) : Frame := { id := id, stamp := stamp, num := num, lines := [], embedded := [], bad := false }

theorem frameStart_eq (h : s.stream i = some c) (num : Nat) : frameStart num s i =
    (startSample c i num (beforeFrame i s)).modStream i fun r => { r with
      frame := some (newFrame (startedId c i (startSample c i num (beforeFrame i s))) (stampOf (beforeFrame i s).ns) num) } := by
  simp only [frameStart, h]
  rfl

theorem OnStreams.beforeFrame (i : Fin 32) (s : State) : OnStreams (· = i) s (beforeFrame i s) :=
  (Unheard.refl i s).rejectFrame.toOnStreams.trans (.heard i _)

theorem beforeFrame_lossFrom (i : Fin 32) (s : State) : ((beforeFrame i s).ing.streams.get i).lossFrom = s.now :=
  (heard_lossFrom i _).trans (Unheard.refl i s).rejectFrame.now

theorem beforeFrame_lastId (i : Fin 32) (s : State) : ((beforeFrame i s).ing.streams.get i).lastId = (s.ing.streams.get i).lastId :=
  (congrArg StreamRt.lastId (State.modStream_self i _ _)).trans (rejectFrame_lastId 0x0204 i s)

theorem Unheard.startSample (h : Unheard i s t) : Unheard i s (startSample c i num t) := by
  unfold Machine.startSample
  split
  · exact h.phaseStart
  · exact h.beginSample

theorem startedId_startSample (h : c.kind = 0) : startedId c i (startSample c i num s) = (s.ing.streams.get i).lastId + 1 := by
  have h1 : c.kind ≠ 1 := by omega
  rw [startedId, if_neg h1, startSample, if_neg h1, State.lastSample, beginSample, State.modStream_self]

/-- From the beginning of its frame on, only the stream itself moves. -/
theorem Unheard.frameStart (h : s.stream i = some c) : Unheard i (beforeFrame i s) (frameStart num s i) := by
  rw [frameStart_eq h]
  exact (Unheard.refl i _).startSample.modStream fun _ => rfl

theorem OnStreams.frameStart (num : Nat) (s : State) (i : Fin 32) : OnStreams (· = i) s (frameStart num s i) := by
  cases h : s.stream i with
  | none =>
    have e : Machine.frameStart num s i = s := by simp only [Machine.frameStart, h]
    rw [e]
    exact .refl _ s
  | some c => exact (OnStreams.beforeFrame i s).trans (Unheard.frameStart h).toOnStreams

theorem frameStart_begins (h : s.stream i = some c) (num : Nat) :
    (∃ id, ((frameStart num s i).ing.streams.get i).frame = some (newFrame id (stampOf s.ns) num) ∧
        (c.kind = 0 → id = (s.ing.streams.get i).lastId + 1)) ∧
      ((frameStart num s i).ing.streams.get i).lossFrom = s.now ∧
      ∀ f, (s.ing.streams.get i).frame = some f → f.bad = false → Logs s (frameStart num s i) 0x0204 (s.portIdOf i) i.1 := by
  refine ⟨⟨startedId c i (startSample c i num (beforeFrame i s)), ?_, fun hk => ?_⟩, ?_, fun f hf hb => ?_⟩
  · rw [frameStart_eq h, State.modStream_self, (OnStreams.beforeFrame i s).ns]
  · rw [startedId_startSample hk, beforeFrame_lastId]
  · exact (Unheard.frameStart h).loss.trans (beforeFrame_lossFrom i s)
  · obtain ⟨_, g⟩ := ((OnStreams.heard i _).trans (Unheard.frameStart (num := num) h).toOnStreams).log
    exact (rejectFrame_rejects hf hb).2.later g

/-! #### Lines -/

theorem takeLine_badCrc (hc : s.stream i = some c) (hf : (s.ing.streams.get i).frame = some f) :
    takeLine false bs s i = rejectFrame 0x0203 i s := by
  simp only [takeLine, hc, hf, Bool.not_false, if_true]

/-- A good line joins its frame (R60). -/
theorem takeLine_good (hc : s.stream i = some c) (hf : (s.ing.streams.get i).frame = some f) (hb : f.bad = false)
    (hlen : bs.length = c.lineBytes) (hh : f.lines.length < c.height) :
    takeLine true bs s i = s.modStream i fun r => { r with frame := some { f with lines := bs :: f.lines } } := by
  have hn : ¬(bs.length ≠ c.lineBytes ∨ c.height ≤ f.lines.length) := by omega
  simp only [takeLine, hc, hf, hb, hn, Bool.not_true, Bool.false_eq_true, if_false]

theorem OnStreams.takeLine (ok : Bool) (bs : List Byte) (s : State) (i : Fin 32) : OnStreams (· = i) s (takeLine ok bs s i) := by
  unfold Machine.takeLine
  split
  · split
    · exact (Unheard.refl i s).rejectFrame.toOnStreams
    · split
      · exact (Unheard.refl i s).rejectFrame.toOnStreams
      · split
        · exact .refl _ s
        · exact .modStream i _ s
  · exact .refl _ s

/-! #### Frame End -/

theorem mem_addReady (x : Sample) (l : List Sample) : x ∈ addReady x l := by
  induction l with
  | nil => exact List.mem_singleton.2 rfl
  | cons y l ih =>
    unfold addReady
    split
    · exact List.mem_cons_self
    · exact List.mem_cons_of_mem y ih

theorem makeReady_ready (i : Fin 32) (x : Sample) (s : State) : x ∈ ((makeReady i x s).ing.streams.get i).ready := by
  rw [makeReady, State.modStream_self]
  exact mem_addReady x _

/-- A frame short of its height is rejected, and no frame is in progress any more (R60). -/
def closeFrame (c : Stream) (f : Frame) (i : Fin 32) (s : State) : State :=
  (if f.lines.length < c.height then rejectFrame 0x0204 i s else s).modStream i fun r => { r with frame := none }

/-- The sample of a camera frame that ends (R87, R91). -/
def frameSample (c : Stream) (f : Frame) : Sample :=
  let bad := f.bad || decide (f.lines.length < c.height)
  { id := f.id, stamp := f.stamp, done := none, status := if bad then 3 else 0, points := 0, num := f.num
    bytes := if bad then [] else cameraBytes c f.lines.reverse, test := testRowOk c f }

theorem frameEnd_some (hc : s.stream i = some c) (hf : (s.ing.streams.get i).frame = some f) : frameEnd s i =
    if c.kind = 1 then phaseEnd c i f (closeFrame c f i s) else makeReady i (frameSample c f) (closeFrame c f i s) := by
  simp only [frameEnd, hc, hf]
  rfl

theorem frameEnd_none (h : s.stream i = none ∨ (s.ing.streams.get i).frame = none) : frameEnd s i = s := by
  unfold frameEnd
  split
  · next hc hf => simp [hc, hf] at h
  · rfl

theorem closeFrame_frame (c : Stream) (f : Frame) (i : Fin 32) (s : State) : ((closeFrame c f i s).ing.streams.get i).frame = none :=
  congrArg StreamRt.frame (State.modStream_self i _ _)

theorem phaseEnd_frame (c : Stream) (i : Fin 32) (f : Frame) (s : State) :
    ((phaseEnd c i f s).ing.streams.get i).frame = (s.ing.streams.get i).frame := by
  unfold phaseEnd
  split
  · rfl
  · dsimp only
    split
    · split
      · rw [State.modStream_self]
      · rw [makeReady, State.modStream_self, State.modStream_self]
    · rw [State.modStream_self]

theorem Unheard.phaseEnd (h : Unheard i s t) : Unheard i s (phaseEnd c i f t) := by
  unfold Machine.phaseEnd
  split
  · exact h
  · dsimp only
    split
    · split
      · exact h.modStream fun _ => rfl
      · exact .makeReady (.modStream h fun _ => rfl)
    · exact h.modStream fun _ => rfl

theorem OnStreams.frameEnd (s : State) (i : Fin 32) : OnStreams (· = i) s (frameEnd s i) := by
  cases hc : s.stream i with
  | none => rw [frameEnd_none (.inl hc)]; exact .refl _ s
  | some c =>
    cases hf : (s.ing.streams.get i).frame with
    | none => rw [frameEnd_none (.inr hf)]; exact .refl _ s
    | some f =>
      have h : Unheard i s (closeFrame c f i s) := by
        unfold closeFrame
        split
        · exact (Unheard.refl i s).rejectFrame.modStream fun _ => rfl
        · exact (Unheard.refl i s).modStream fun _ => rfl
      rw [frameEnd_some hc hf]
      split
      · exact h.phaseEnd.toOnStreams
      · exact h.makeReady.toOnStreams

/-- No frame of the stream is in progress after Frame End. -/
theorem frameEnd_frame (hc : s.stream i = some c) : ((frameEnd s i).ing.streams.get i).frame = none := by
  cases hf : (s.ing.streams.get i).frame with
  | none => rw [frameEnd_none (.inr hf), hf]
  | some f =>
    rw [frameEnd_some hc hf]
    split
    · rw [phaseEnd_frame, closeFrame_frame]
    · rw [makeReady, State.modStream_self]
      exact closeFrame_frame c f i s

/-- The sample of a camera stream's frame awaits its proof check after Frame End. -/
theorem frameEnd_ready (hc : s.stream i = some c) (hk : c.kind = 0) (hf : (s.ing.streams.get i).frame = some f) :
    frameSample c f ∈ ((frameEnd s i).ing.streams.get i).ready := by
  have h1 : c.kind ≠ 1 := by omega
  rw [frameEnd_some hc hf, if_neg h1]
  exact makeReady_ready i _ _

theorem frameSample_good (hb : f.bad = false) (hh : c.height ≤ f.lines.length) : (frameSample c f).status = 0 ∧
    (frameSample c f).bytes = cameraBytes c f.lines.reverse := by
  have hn : ¬f.lines.length < c.height := by omega
  simp [frameSample, hb, hn]

theorem frameSample_bad (h : f.bad = true ∨ f.lines.length < c.height) : (frameSample c f).status = 3 ∧ (frameSample c f).bytes = [] := by
  simp [frameSample, h]

end Frames

end Sys2Proof.Machine

namespace Sys2Proof.Machine

/-! ### Events logged once per key and cue (R311) -/

section LogOnce

variable {s : State} {key code detail : Nat} {unit : Byte}

theorem logOnce_again (h : (code, key) ∈ s.log.once) : logOnce key code unit detail s = s := if_pos h

theorem logOnce_newest (h : (code, key) ∉ s.log.once) : Newest (logOnce key code unit detail s) code unit detail := by
  rw [logOnce, if_neg h]
  exact logEvent_newest code unit detail _

theorem logOnce_ing (key code : Nat) (unit : Byte) (detail : Nat) (s : State) : (logOnce key code unit detail s).ing = s.ing :=
  (logOnce_apart (m := fun f => decide (f = .log)) rfl (.refl _ s)).same .ing rfl

end LogOnce

/-! ### The packets of a camera port (R58 to R60, R90) -/

section Packets

variable {s : State} {n vc vcx num dt : Nat} {k : Fin 16} {hdr : HeaderObs} {ok : Bool} {bs : List Byte}

/-- A closed port: struck, retired, without declared lanes, or while no cue runs (R90, R469). -/
theorem closed_port (h : s.camLive k = false) : (!(s.at n).camLive k) = true := by
  rw [show (s.at n).camLive k = false from h]
  rfl

theorem open_port (h : s.camLive k = true) : ¬(!(s.at n).camLive k) = true := by
  rw [show (s.at n).camLive k = true from h]
  exact Bool.false_ne_true

theorem exec_csi2FrameStart (h : s.camLive k = true) : exec (.csi2FrameStart n k vc vcx num hdr) s = .next
    (if unreadable vcx hdr then headerCheck k vc vcx hdr (s.at n)
     else ((headerCheck k vc vcx hdr (s.at n)).onChannel k vc).foldl (frameStart num) (headerCheck k vc vcx hdr (s.at n))) :=
  congrArg Host.Outcome.next (if_neg (open_port h))

theorem exec_csi2FrameEnd (h : s.camLive k = true) : exec (.csi2FrameEnd n k vc vcx num hdr) s = .next
    (if unreadable vcx hdr then headerCheck k vc vcx hdr (s.at n)
     else ((headerCheck k vc vcx hdr (s.at n)).onChannel k vc).foldl frameEnd (headerCheck k vc vcx hdr (s.at n))) :=
  congrArg Host.Outcome.next (if_neg (open_port h))

theorem exec_csi2LineOrGenericShortPacket (h : s.camLive k = true) : exec (.csi2LineOrGenericShortPacket n k vc vcx dt hdr) s =
    .next (headerCheck k vc vcx hdr (s.at n)) :=
  congrArg Host.Outcome.next (if_neg (open_port h))

theorem exec_csi2LongPacket_uncorrectable (h : s.camLive k = true) : exec (.csi2LongPacket n k vc vcx dt .uncorrectable ok bs) s =
    .next (headerCheck k vc vcx .uncorrectable (s.at n)) :=
  congrArg Host.Outcome.next (if_neg (open_port h))

/-- The streams of a channel that take lines of a data type. -/
def State.takers (s : State) (k : Fin 16) (vc dt : Nat) : List (Fin 32) :=
  (s.onChannel k vc).filter fun i => (s.stream i).any fun c => decide (c.dt = dt)

theorem State.mem_takers {i : Fin 32} : i ∈ s.takers k vc dt ↔ i ∈ s.onChannel k vc ∧ ∃ c, s.stream i = some c ∧ c.dt = dt := by
  simp [State.takers, Option.any_eq_true]

theorem State.takers_eq_nil (h : ∀ i ∈ s.onChannel k vc, ∀ c, s.stream i = some c → c.dt ≠ dt) : s.takers k vc dt = [] :=
  List.eq_nil_iff_forall_not_mem.2 fun i hi =>
    let ⟨hi, c, hc, hd⟩ := State.mem_takers.1 hi
    h i hi c hc hd

theorem State.onChannel_nodup (s : State) (k : Fin 16) (vc : Nat) : (s.onChannel k vc).Nodup := s.slotsOf_nodup _

theorem State.takers_nodup (s : State) (k : Fin 16) (vc dt : Nat) : (s.takers k vc dt).Nodup := (s.onChannel_nodup k vc).filter _

theorem exec_csi2LongPacket_undeclared (h : s.camLive k = true) (ht : s.takers k vc dt = []) (hd : dt ≠ 0x12) :
    exec (.csi2LongPacket n k vc 0 dt .clean ok bs) s =
      .next (logOnce k.1 0x0205 (unitId (.port ⟨k.1, by omega⟩)) dt (s.at n)) := by
  have hl : (s.at n).camLive k = true := h
  have ht' : ((s.at n).onChannel k vc).filter (fun i => ((s.at n).stream i).any fun c => decide (c.dt = dt)) = [] := ht
  change execCsi2LongPacket n k vc 0 dt .clean ok bs s = _
  simp [execCsi2LongPacket, headerCheck, hl, ht', hd]

theorem exec_csi2LongPacket_line (h : s.camLive k = true) (ht : s.takers k vc dt ≠ []) (hd : dt ≠ 0x12) :
    exec (.csi2LongPacket n k vc 0 dt .clean ok bs) s = .next ((s.takers k vc dt).foldl (takeLine ok bs) (s.at n)) := by
  have hl : (s.at n).camLive k = true := h
  have ht' : ((s.at n).onChannel k vc).filter (fun i => ((s.at n).stream i).any fun c => decide (c.dt = dt)) ≠ [] := ht
  change execCsi2LongPacket n k vc 0 dt .clean ok bs s = _
  simp only [execCsi2LongPacket, headerCheck, hl, ht', hd, Bool.not_true, Bool.false_eq_true, reduceCtorEq, and_false, if_false, if_true]
  rfl

/-- Only above 1.5 Gb/s does a port align its lanes (R58). -/
theorem exec_dphyDeskewCalibration (n : Nat) (k : Fin 16) (s : State) : exec (.dphyDeskewCalibration n k) s = .next
    (if s.camLive k && decide (1500 < ((s.forme.cams[k.1]?).map CamPort.rate).getD 0) && decide (k ∉ s.ing.deskewed) then
      { s.at n with ing := { s.ing with deskewed := k :: s.ing.deskewed } } else s.at n) := rfl

theorem exec_packet_closed (h : s.camLive k = false) {c : Instr} (hc : c = .csi2FrameStart n k vc vcx num hdr ∨
    c = .csi2LongPacket n k vc vcx dt hdr ok bs ∨ c = .csi2FrameEnd n k vc vcx num hdr ∨
    c = .csi2LineOrGenericShortPacket n k vc vcx dt hdr ∨ c = .dphyDeskewCalibration n k) : exec c s = .next (s.at n) := by
  rcases hc with rfl | rfl | rfl | rfl | rfl
  · exact congrArg Host.Outcome.next (if_pos (closed_port h))
  · exact congrArg Host.Outcome.next (if_pos (closed_port h))
  · exact congrArg Host.Outcome.next (if_pos (closed_port h))
  · exact congrArg Host.Outcome.next (if_pos (closed_port h))
  · rw [exec_dphyDeskewCalibration, h, Bool.false_and, Bool.false_and, if_neg Bool.false_ne_true]

/-- With an uncorrectable header a packet is no more than its header check (R60). -/
theorem exec_packet_uncorrectable (h : s.camLive k = true) {c : Instr} (hc : c = .csi2FrameStart n k vc vcx num .uncorrectable ∨
    c = .csi2LongPacket n k vc vcx dt .uncorrectable ok bs ∨ c = .csi2FrameEnd n k vc vcx num .uncorrectable ∨
    c = .csi2LineOrGenericShortPacket n k vc vcx dt .uncorrectable) :
    exec c s = .next (headerCheck k vc vcx .uncorrectable (s.at n)) := by
  rcases hc with rfl | rfl | rfl | rfl
  · rw [exec_csi2FrameStart h]
    rfl
  · exact exec_csi2LongPacket_uncorrectable h
  · rw [exec_csi2FrameEnd h]
    rfl
  · exact exec_csi2LineOrGenericShortPacket h

/-! #### What a packet does to each stream that it reaches -/

variable {i : Fin 32} {c : Stream} {f : Frame}

section Folds

variable {l : List (Fin 32)} (hl : l.Nodup) (hi : i ∈ l)
include hl hi

/-- Every stream of the channel begins its frame (R60, R77). -/
theorem frameStarts_begin (hc : s.stream i = some c) (num : Nat) :
    (∃ id, ((l.foldl (frameStart num) s).ing.streams.get i).frame = some (newFrame id (stampOf s.ns) num) ∧
        (c.kind = 0 → id = (s.ing.streams.get i).lastId + 1)) ∧
      ((l.foldl (frameStart num) s).ing.streams.get i).lossFrom = s.now ∧
      ∀ f, (s.ing.streams.get i).frame = some f → f.bad = false →
        Logs s (l.foldl (frameStart num) s) 0x0204 (s.portIdOf i) i.1 := by
  obtain ⟨u, hu, ht, hlogs⟩ := OnStreams.foldl_split (OnStreams.frameStart num) hl hi s
  have h := frameStart_begins ((hu.stream i).trans hc) num
  rw [hu.elsewhere, hu.ns, hu.now, hu.portIdOf] at h
  obtain ⟨hframe, hloss, hlog⟩ := h
  rw [ht]
  exact ⟨hframe, hloss, fun f hf hb => hlogs (hlog f hf hb)⟩

/-- A good line joins the frame of each stream that takes it (R60). -/
theorem takeLines_good (hc : s.stream i = some c) (hf : (s.ing.streams.get i).frame = some f) (hb : f.bad = false)
    (hlen : bs.length = c.lineBytes) (hh : f.lines.length < c.height) :
    ((l.foldl (takeLine true bs) s).ing.streams.get i).frame = some { f with lines := bs :: f.lines } := by
  obtain ⟨u, hu, ht, -⟩ := OnStreams.foldl_split (OnStreams.takeLine true bs) hl hi s
  rw [ht, takeLine_good ((hu.stream i).trans hc) (hu.elsewhere ▸ hf) hb hlen hh, State.modStream_self]

/-- A line with a bad CRC rejects the frame of each stream that takes it (R60). -/
theorem takeLines_badCrc (hc : s.stream i = some c) (hf : (s.ing.streams.get i).frame = some f) (hb : f.bad = false) :
    ((l.foldl (takeLine false bs) s).ing.streams.get i).frame = some { f with bad := true } ∧
      Logs s (l.foldl (takeLine false bs) s) 0x0203 (s.portIdOf i) i.1 := by
  obtain ⟨u, hu, ht, hlogs⟩ := OnStreams.foldl_split (OnStreams.takeLine false bs) hl hi s
  have hf' := (congrArg StreamRt.frame hu.elsewhere).trans hf
  obtain ⟨hframe, hlog⟩ := rejectFrame_rejects (code := 0x0203) hf' hb
  rw [hu.portIdOf, ← takeLine_badCrc (bs := bs) ((hu.stream i).trans hc) hf'] at hlog
  rw [ht, takeLine_badCrc ((hu.stream i).trans hc) hf']
  exact ⟨hframe, hlogs hlog⟩

/-- Every good frame in progress on the streams is rejected (R60). -/
theorem rejectFrames_reject (hf : (s.ing.streams.get i).frame = some f) (hb : f.bad = false) (code : Nat) :
    ((l.foldl (fun s i => rejectFrame code i s) s).ing.streams.get i).frame = some { f with bad := true } ∧
      Logs s (l.foldl (fun s i => rejectFrame code i s) s) code (s.portIdOf i) i.1 := by
  obtain ⟨u, hu, ht, hlogs⟩ := OnStreams.foldl_split (f := fun s i => rejectFrame code i s)
    (fun w j => (Unheard.refl j w).rejectFrame.toOnStreams) hl hi s
  obtain ⟨hframe, hlog⟩ := rejectFrame_rejects (code := code) ((congrArg StreamRt.frame hu.elsewhere).trans hf) hb
  rw [hu.portIdOf] at hlog
  rw [ht]
  exact ⟨hframe, hlogs hlog⟩

/-- No stream of the channel has a frame in progress after Frame End. -/
theorem frameEnds_frame (hc : s.stream i = some c) : ((l.foldl frameEnd s).ing.streams.get i).frame = none := by
  obtain ⟨u, hu, ht, -⟩ := OnStreams.foldl_split OnStreams.frameEnd hl hi s
  rw [ht]
  exact frameEnd_frame ((hu.stream i).trans hc)

/-- The camera frames of the channel that end leave their samples to the proof check (R87). -/
theorem frameEnds_ready (hc : s.stream i = some c) (hk : c.kind = 0) (hf : (s.ing.streams.get i).frame = some f) :
    frameSample c f ∈ ((l.foldl frameEnd s).ing.streams.get i).ready := by
  obtain ⟨u, hu, ht, -⟩ := OnStreams.foldl_split OnStreams.frameEnd hl hi s
  rw [ht]
  exact frameEnd_ready ((hu.stream i).trans hc) hk ((congrArg StreamRt.frame hu.elsewhere).trans hf)

end Folds

theorem State.stream_of_onChannel (h : i ∈ s.onChannel k vc) : ∃ c, s.stream i = some c :=
  let ⟨c, hc, _⟩ := State.mem_slotsOf.1 h
  ⟨c, hc⟩

/-- Every stream of the port is among those whose frames an uncorrectable header rejects. -/
theorem State.mem_portStreams (hc : s.stream i = some c) (hk : c.kind ≤ 1) (hp : c.port = k.1) :
    i ∈ s.slotsOf fun c => decide (c.kind ≤ 1) && decide (c.port = k.1) :=
  State.mem_slotsOf.2 ⟨c, hc, by simp [hk, hp]⟩

end Packets

/-- Settles O46: a closed port takes nothing; on an open one each packet goes to its streams one by one, and each sees its own part alone. -/
theorem cameraPackets : Obligations.CameraPackets := by
  refine fun n vc k s => ⟨fun h vcx num dt hdr ok bs c hc => exec_packet_closed h hc, fun h => ⟨fun num => ?_, fun dt bs hd hex => ⟨?_, ?_⟩,
    fun dt ok bs hall hd hnew => ?_, fun dt ok bs hall hd hold => ?_, fun num => ?_, fun vcx num dt ok bs c hc => ?_, fun vcx dt => ?_,
    fun vcx dt hnew => ?_, fun vcx dt hold => ?_, fun hrate => ?_, fun hrate => ?_⟩⟩
  · refine ⟨_, exec_csi2FrameStart h, fun i c hi hc => ?_, fun i hi => ?_⟩
    · exact frameStarts_begin (s := s.at n) (s.onChannel_nodup k vc) hi hc num
    · exact (OnStreams.foldl (OnStreams.frameStart num) (s.onChannel k vc) (s.at n)).others i hi
  · obtain ⟨j, hj, hjd⟩ := hex
    refine ⟨_, exec_csi2LongPacket_line h (List.ne_nil_of_mem (State.mem_takers.2 ⟨hj, hjd⟩)) hd, fun i c f hi hc hcd hf hb hlen hh => ?_⟩
    exact takeLines_good (s := s.at n) (s.takers_nodup k vc dt) (State.mem_takers.2 ⟨hi, c, hc, hcd⟩) hc hf hb hlen hh
  · obtain ⟨j, hj, hjd⟩ := hex
    refine ⟨_, exec_csi2LongPacket_line h (List.ne_nil_of_mem (State.mem_takers.2 ⟨hj, hjd⟩)) hd, fun i c f hi hc hcd hf hb => ?_⟩
    exact takeLines_badCrc (s := s.at n) (s.takers_nodup k vc dt) (State.mem_takers.2 ⟨hi, c, hc, hcd⟩) hc hf hb
  · exact ⟨_, exec_csi2LongPacket_undeclared h (State.takers_eq_nil hall) hd, logOnce_newest hnew, logOnce_ing _ _ _ _ _⟩
  · rw [exec_csi2LongPacket_undeclared h (State.takers_eq_nil hall) hd, logOnce_again (s := s.at n) hold]
  · refine ⟨_, exec_csi2FrameEnd h, fun i hi => ?_, fun i c f hi hc hk hf => ⟨frameSample c f, ?_, rfl, rfl, rfl, ?_, ?_⟩⟩
    · obtain ⟨c, hc⟩ := State.stream_of_onChannel hi
      exact frameEnds_frame (s := s.at n) (s.onChannel_nodup k vc) hi hc
    · exact frameEnds_ready (s := s.at n) (s.onChannel_nodup k vc) hi hc hk hf
    · exact frameSample_good
    · exact frameSample_bad
  · refine ⟨_, exec_packet_uncorrectable h hc, fun i d f hd hk hp hf hb => ?_⟩
    exact rejectFrames_reject (s := s.at n) (s.slotsOf_nodup _) (State.mem_portStreams hd hk hp) hf hb 0x0202
  · exact exec_csi2LineOrGenericShortPacket h
  · exact ⟨_, exec_csi2LineOrGenericShortPacket h, logOnce_newest hnew, logOnce_ing _ _ _ _ _⟩
  · rw [exec_csi2LineOrGenericShortPacket h, headerCheck, logOnce_again (s := s.at n) hold]
  · rw [exec_dphyDeskewCalibration, decide_eq_false (Nat.not_lt.2 hrate), Bool.and_false, Bool.false_and, if_neg Bool.false_ne_true]
  · refine ⟨_, exec_dphyDeskewCalibration n k s, ?_⟩
    rw [h, decide_eq_true hrate, Bool.true_and, Bool.true_and]
    by_cases hk : k ∈ s.ing.deskewed
    · rw [decide_eq_false (not_not.2 hk), if_neg Bool.false_ne_true]
      exact ⟨hk, fun _ _ => Iff.rfl⟩
    · rw [decide_eq_true hk, if_pos rfl]
      exact ⟨List.mem_cons_self, fun j hj => List.mem_cons.trans (or_iff_right hj)⟩

end Sys2Proof.Machine

namespace Sys2Proof.Machine

/-! ### Lidar and RTP packets move their stream alone (R65 to R69) -/

section Packets

variable {s t : State} {i : Fin 32} {c : Stream} {pkt : List Byte}

theorem Unheard.free {x : Nat} (h : Unheard i s t) : Unheard i s { t with free := x } :=
  h.trans ⟨⟨fun _ _ => rfl, rfl, .free rfl (.refl _ t), [], .same rfl⟩, rfl⟩

theorem Unheard.jpegQ {q : List JpegJob} (h : Unheard i s t) : Unheard i s { t with ing := { t.ing with jpegQ := q } } :=
  h.trans ⟨⟨fun _ _ => rfl, rfl, .ing rfl (.refl _ t), [], .same rfl⟩, rfl⟩

theorem Unheard.endRotation (h : Unheard i s t) : Unheard i s (endRotation c i t) := by
  unfold Machine.endRotation
  split
  · exact h
  · dsimp only
    split
    · exact .makeReady (.modStream h.free fun _ => rfl)
    · exact .makeReady (.modStream h fun _ => rfl)

theorem Unheard.beginRotation (h : Unheard i s t) : Unheard i s (beginRotation i t) := .modStream h.beginSample fun _ => rfl

theorem Unheard.rejectRotation {code : Nat} (h : Unheard i s t) : Unheard i s (rejectRotation i code t) := by
  unfold Machine.rejectRotation
  split
  · exact h
  · split
    · exact .rejectSample (.modStream h fun _ => rfl)
    · exact h

theorem Unheard.ite {u : State} {b : Prop} [Decidable b] (h : Unheard i s t) (h' : Unheard i s u) : Unheard i s (if b then t else u) := by
  split <;> assumption

theorem Unheard.takePoint (h : Unheard i s t) (k : Nat) : Unheard i s (takePoint c i pkt t k) := by
  unfold Machine.takePoint
  extract_lets az wraps s1 s2
  have h2 : Unheard i s s2 := .modStream (.ite h.endRotation.beginRotation h) fun _ => rfl
  split
  · exact h2
  · split
    · exact h2
    · split
      · exact h2.logEvent.rejectRotation
      · exact .modStream h2 fun _ => rfl

theorem Unheard.lidarPacket (h : Unheard i s t) : Unheard i s (lidarPacket c i pkt t) := by
  unfold Machine.lidarPacket
  extract_lets flagged short s1 s2 s3
  have h1 : Unheard i s s1 := .ite h.endRotation h
  have h2 : Unheard i s s2 := .ite h1.beginRotation h1
  have h3 : Unheard i s s3 := by
    unfold s3
    split
    · exact h2
    · exact .ite (.rejectRotation (.modStream h2 fun _ => rfl)) (.modStream h2 fun _ => rfl)
  exact .ite h3.logEvent (.foldl _ _ h3 fun u k hu => hu.takePoint k)

theorem Unheard.rejectRtp {code : Nat} {event : Option Nat} (h : Unheard i s t) : Unheard i s (rejectRtp i code event t) := by
  unfold Machine.rejectRtp
  split
  · exact h
  · split
    · exact h
    · cases event with
      | none => exact .rejectSample (.modStream h fun _ => rfl)
      | some e => exact .rejectSample (.modStream h.logEvent fun _ => rfl)

theorem Unheard.beginRtp {time : Nat} {j : List Byte} (h : Unheard i s t) : Unheard i s (beginRtp c i time j t) := by
  unfold Machine.beginRtp
  extract_lets stamp w h' s1 tables s2
  have h2 : Unheard i s s2 := .modStream h.beginSample fun _ => rfl
  exact .ite h2.rejectRtp h2

theorem Unheard.headlessRtp {time : Nat} (h : Unheard i s t) : Unheard i s (headlessRtp i time t) := .logEvent (.modStream h fun _ => rfl)

theorem Unheard.endRtp (h : Unheard i s t) : Unheard i s (endRtp i t) := by
  unfold Machine.endRtp
  split
  · exact h
  · extract_lets small s1 s2 status
    have h2 : Unheard i s s2 := .modStream (.ite h.rejectRtp h) fun _ => rfl
    split
    · exact h2
    · split
      · exact h2.jpegQ
      · exact h2.makeReady

theorem Unheard.takeFragment {j : List Byte} (h : Unheard i s t) : Unheard i s (takeFragment c i j t) := by
  unfold Machine.takeFragment
  split
  · exact h
  · dsimp only
    split
    · exact h
    · split
      · exact h.rejectRtp
      · exact .modStream h fun _ => rfl

theorem Unheard.rtpPacket (h : Unheard i s t) : Unheard i s (rtpPacket c i pkt t) := by
  unfold Machine.rtpPacket
  split
  · exact h
  · extract_lets off s1 s2 s3 s4
    have h1 : Unheard i s s1 := by
      unfold s1
      split
      · exact .ite h (.modStream h.rejectRtp fun _ => rfl)
      · exact h
    have h2 : Unheard i s s2 := .ite h1 (.ite h1.beginRtp h1.headlessRtp)
    have h4 : Unheard i s s4 := Unheard.takeFragment (.ite h2 h2.rejectRtp)
    exact .ite h4.endRtp h4

/-- A datagram is heard first, and then moves its stream's packets. -/
theorem Unheard.takePacket (h : s.stream i = some c) : Unheard i (heard i s) (takePacket pkt s i) := by
  simp only [Machine.takePacket, h]
  exact .ite (Unheard.refl i _).lidarPacket (Unheard.refl i _).rtpPacket

theorem OnStreams.takePacket (pkt : List Byte) (s : State) (i : Fin 32) : OnStreams (· = i) s (takePacket pkt s i) := by
  cases h : s.stream i with
  | none =>
    have e : Machine.takePacket pkt s i = s := by simp only [Machine.takePacket, h]
    rw [e]
    exact .refl _ s
  | some c => exact (OnStreams.heard i s).trans (Unheard.takePacket h).toOnStreams

/-- The streams of a datagram are heard in its cycle (R92). -/
theorem takePackets_heard {l : List (Fin 32)} (hl : l.Nodup) (hi : i ∈ l) (hc : s.stream i = some c) :
    ((l.foldl (takePacket pkt) s).ing.streams.get i).lossFrom = s.now := by
  obtain ⟨u, hu, ht, -⟩ := OnStreams.foldl_split (OnStreams.takePacket pkt) hl hi s
  rw [ht, (Unheard.takePacket ((hu.stream i).trans hc)).loss, heard_lossFrom, hu.now]

end Packets

/-! ### ETHERNET_FRAME (R64, R92) -/

section Ethernet

variable {s : State} {n src dst : Nat} {k : Fin 4} {frame data : List Byte} {ok : Bool} {offset : Int}

/-- A frame is dropped (R64). -/
def dropFrame (k : Fin 4) (s : State) : State :=
  if s.forme.loaded then logOnce (16 + k.1) 0x0251 (unitId (.port ⟨16 + k.1, by omega⟩)) 0 s else s

/-- The frame carries a PTP message. -/
def carriesPtp (p : Option EthPayload) : Prop :=
  (∃ m, p = some (.gptp m)) ∨ ∃ src dst data, p = some (.udp src dst data) ∧ (dst = 319 ∨ dst = 320)

/-- The frame failed its checks, or carries a datagram of no stream's key. -/
def State.strays (s : State) (k : Fin 4) (p : Option EthPayload) : Prop :=
  p = none ∨ ∃ src dst data, p = some (.udp src dst data) ∧ dst ≠ 319 ∧ dst ≠ 320 ∧ s.onKey k src dst = []

theorem exec_ethernetFrame_closed (h : s.ethOn k = false ∨ s.portOpen ⟨16 + k.1, by omega⟩ = false) :
    exec (.ethernetFrame n k frame ok offset) s = .next (s.at n) := by
  refine congrArg Host.Outcome.next (if_pos ?_)
  rcases h with h | h
  · rw [show (s.at n).ethOn k = false from h]
    rfl
  · rw [show (s.at n).portOpen ⟨16 + k.1, by omega⟩ = false from h]
    exact Bool.or_true _

section Open

variable (he : s.ethOn k = true) (hp : s.portOpen ⟨16 + k.1, by omega⟩ = true)
include he hp

theorem ethernet_open : ¬(!(s.at n).ethOn k || !(s.at n).portOpen ⟨16 + k.1, by omega⟩) = true := by
  rw [show (s.at n).ethOn k = true from he, show (s.at n).portOpen ⟨16 + k.1, by omega⟩ = true from hp]
  exact Bool.false_ne_true

theorem exec_ethernetFrame_strays (h : s.strays k (ethParse ok frame)) :
    exec (.ethernetFrame n k frame ok offset) s = .next (dropFrame k (s.at n)) := by
  refine congrArg Host.Outcome.next ((if_neg (ethernet_open he hp)).trans ?_)
  rcases h with h | ⟨src, dst, data, h, h1, h2, hk⟩
  · simp only [h]
    rfl
  · simp only [h, h1, h2, or_self, if_false, show (s.at n).onKey k src dst = [] from hk]
    rfl

/-- PTP messages go to the time base (R451). -/
theorem exec_ethernetFrame_ptp (h : carriesPtp (ethParse ok frame)) :
    ∃ g m, exec (.ethernetFrame n k frame ok offset) s = .next (ptpMessage k g m offset (s.at n)) := by
  rcases h with ⟨m, h⟩ | ⟨src, dst, data, h, hd⟩
  · refine ⟨true, m, congrArg Host.Outcome.next ((if_neg (ethernet_open he hp)).trans ?_)⟩
    simp only [h]
  · refine ⟨false, data, congrArg Host.Outcome.next ((if_neg (ethernet_open he hp)).trans ?_)⟩
    simp only [h, hd, if_true]

theorem exec_ethernetFrame_datagram (h : ethParse ok frame = some (.udp src dst data)) (h1 : dst ≠ 319) (h2 : dst ≠ 320)
    (hk : s.onKey k src dst ≠ []) : exec (.ethernetFrame n k frame ok offset) s =
      .next (if !s.cue.running then s.at n else (s.onKey k src dst).foldl (takePacket data) (s.at n)) := by
  obtain ⟨i, l, hl⟩ := List.exists_cons_of_ne_nil hk
  refine congrArg Host.Outcome.next ((if_neg (ethernet_open he hp)).trans ?_)
  simp only [h, h1, h2, or_self, if_false, show (s.at n).onKey k src dst = i :: l from hl, hl]
  rfl

end Open

theorem dropFrame_logs (hl : s.forme.loaded = true) (h : (0x0251, 16 + k.1) ∉ s.log.once) :
    Newest (dropFrame k s) 0x0251 (unitId (.port ⟨16 + k.1, by omega⟩)) 0 := by
  rw [dropFrame, if_pos hl]
  exact logOnce_newest h

theorem dropFrame_frame (k : Fin 4) (s : State) : (dropFrame k s).ing = s.ing ∧ (dropFrame k s).tb = s.tb := by
  have h : Apart (fun f => decide (f = .log)) s (dropFrame k s) := .ite (logOnce_apart rfl (.refl _ s)) (.refl _ s)
  exact ⟨h.same .ing rfl, h.same .tb rfl⟩

theorem dropFrame_silent (h : s.forme.loaded = false ∨ (0x0251, 16 + k.1) ∈ s.log.once) : dropFrame k s = s := by
  unfold dropFrame
  split
  · next hl => exact logOnce_again (h.resolve_left (by simp [hl]))
  · rfl

theorem completes_ethernetFrame_datagram (he : s.ethOn k = true) (hp : s.portOpen ⟨16 + k.1, by omega⟩ = true)
    (h : ethParse ok frame = some (.udp src dst data)) (h1 : dst ≠ 319) (h2 : dst ≠ 320) (hk : s.onKey k src dst ≠ [])
    (hr : s.cue.running = true) : Completes (.ethernetFrame n k frame ok offset) s fun t => t.tb = s.tb ∧
      (∀ i ∈ s.onKey k src dst, (t.ing.streams.get i).lossFrom = (s.at n).now) ∧
      ∀ i, i ∉ s.onKey k src dst → t.ing.streams.get i = s.ing.streams.get i := by
  refine ⟨_, exec_ethernetFrame_datagram he hp h h1 h2 hk, ?_⟩
  rw [hr, Bool.not_true, if_neg Bool.false_ne_true]
  have hon := OnStreams.foldl (OnStreams.takePacket data) (s.onKey k src dst) (s.at n)
  refine ⟨hon.apart.same .tb rfl, fun i hi => ?_, hon.others⟩
  obtain ⟨c, hc, -⟩ := State.mem_slotsOf.1 hi
  exact takePackets_heard (s := s.at n) (s.slotsOf_nodup _) hi hc

end Ethernet

/-! ### Decode engines (R70, R85) -/

section Engines

variable {s : State} {n code status : Nat} {i : Fin 32} {e : Fin 4} {c : Stream} {j : JpegJob} {bs : List Byte}

theorem exec_jpegDecodeStart {q : List JpegJob} (he : s.ing.engines.get e = none) (hq : s.ing.jpegQ = j :: q) :
    exec (.jpegDecodeStart n e) s = .next { s.at n with ing := { s.ing with
      jpegQ := q, engines := vmod s.ing.engines e fun _ => some { j with begun := (s.at n).now } } } := by
  change execJpegDecodeStart n e s = _
  simp only [execJpegDecodeStart, State.at_ing, he, hq]

theorem exec_jpegDecodeStart_none (h : s.ing.engines.get e ≠ none ∨ s.ing.jpegQ = []) :
    exec (.jpegDecodeStart n e) s = .next (s.at n) := by
  change execJpegDecodeStart n e s = _
  simp only [execJpegDecodeStart, State.at_ing]
  split
  · next he hq => simp [he, hq] at h
  · rfl

/-- An engine is free again. -/
def freeEngine (e : Fin 4) (s : State) : State := { s with ing := { s.ing with engines := vmod s.ing.engines e fun _ => none } }

/-- The sample of a decoded frame. -/
def decodedSample (j : JpegJob) (status : Nat) (bs : List Byte) : Sample :=
  { id := j.id, stamp := j.stamp, done := none, status := status, points := 0, num := j.num, bytes := bs, test := true }

theorem freeEngine_engine (e : Fin 4) (s : State) : (freeEngine e s).ing.engines.get e = none :=
  (vmod_get _ _ _ _).trans (if_pos rfl)

/-- The frame of a stream whose port is open is noticed when its decode ends. -/
theorem decode_noticed (hc : s.stream j.slot = some c) (hp : s.portOpen (Fin.ofNat 20 c.portIdx) = true) :
    ¬((freeEngine e s).stream j.slot).all (fun c => !(freeEngine e s).portOpen (Fin.ofNat 20 c.portIdx)) = true := by
  rw [show (freeEngine e s).stream j.slot = some c from hc, Option.all_some,
    show (freeEngine e s).portOpen (Fin.ofNat 20 c.portIdx) = true from hp]
  exact Bool.false_ne_true

theorem endDecode_done (hc : s.stream j.slot = some c) (hp : s.portOpen (Fin.ofNat 20 c.portIdx) = true) (bs : List Byte) :
    endDecode e j 0 none bs s = makeReady j.slot (decodedSample j 0 bs) (freeEngine e s) := if_neg (decode_noticed hc hp)

theorem endDecode_failed (hc : s.stream j.slot = some c) (hp : s.portOpen (Fin.ofNat 20 c.portIdx) = true) (hs : status ≠ 0)
    (code : Nat) : endDecode e j status (some code) [] s = makeReady j.slot (decodedSample j status [])
      (rejectSample j.slot j.id status (logEvent code idDecoder j.slot.1 (freeEngine e s))) := by
  refine (if_neg (decode_noticed hc hp)).trans ?_
  simp only [hs, if_false]
  rfl

/-- A failed decode frees its engine, logs its event, and its sample awaits the proof check with the status (R85). -/
theorem endDecode_fails (hc : s.stream i = some c) (hi : j.slot = i) (hp : s.portOpen (Fin.ofNat 20 c.portIdx) = true)
    (hs : status ≠ 0) (code : Nat) :
    (endDecode e j status (some code) [] s).ing.engines.get e = none ∧ Newest (endDecode e j status (some code) [] s) code idDecoder i.1 ∧
      ∃ x ∈ ((endDecode e j status (some code) [] s).ing.streams.get i).ready, x.id = j.id ∧ x.status = status := by
  subst hi
  rw [endDecode_failed hc hp hs]
  exact ⟨freeEngine_engine e s, logEvent_newest code idDecoder _ (freeEngine e s), _, makeReady_ready _ _ _, rfl, rfl⟩

section Decoding

variable (hc : s.stream i = some c) (he : s.ing.engines.get e = some j) (hi : j.slot = i)
include hc he hi

theorem exec_decodeDone_late (ht : j.begun + us c.budget < (s.at n).now) :
    exec (.decodeDone n i e) s = .next (endDecode e j 5 (some 0x0221) [] (s.at n)) := by
  change execDecodeDone n i e s = _
  simp only [execDecodeDone, show (s.at n).stream i = some c from hc, State.at_ing, he, hi, ne_eq, not_true_eq_false, if_false, ht, if_true]

theorem exec_decodeDone_error (ht : (s.at n).now ≤ j.begun + us c.budget) (hg : jpegDecode j = none) :
    exec (.decodeDone n i e) s = .next (endDecode e j 3 (some 0x0222) [] (s.at n)) := by
  change execDecodeDone n i e s = _
  simp only [execDecodeDone, show (s.at n).stream i = some c from hc, State.at_ing, he, hi, ne_eq, not_true_eq_false, if_false,
    Nat.not_lt.2 ht, hg]

theorem exec_decodeDone_image (ht : (s.at n).now ≤ j.begun + us c.budget) {g : Nat → Nat → Nat → Int} (hg : jpegDecode j = some g) :
    exec (.decodeDone n i e) s = .next (endDecode e j 0 none (jpegBytes c j.w j.h g s.free) { s.at n with free := s.free + 1 }) := by
  change execDecodeDone n i e s = _
  simp only [execDecodeDone, show (s.at n).stream i = some c from hc, State.at_ing, he, hi, ne_eq, not_true_eq_false, if_false,
    Nat.not_lt.2 ht, hg, State.at_free]

end Decoding

/-- The frame that has its engine longest is abandoned once its budget is over (R85). -/
theorem exec_decodeBudgetExpiry (hc : s.stream i = some c) (he : s.engineOf i = some (e, j)) : exec (.decodeBudgetExpiry n i) s =
    .next (if (s.at n).budgetOver c j.begun then endDecode e j 5 (some 0x0221) [] (s.at n) else s.at n) := by
  change execDecodeBudgetExpiry n i s = _
  simp only [execDecodeBudgetExpiry, show (s.at n).stream i = some c from hc, show (s.at n).engineOf i = some (e, j) from he]

end Engines

end Sys2Proof.Machine

namespace Sys2Proof.Machine

/-! ### SAMPLE_COMPLETE (R79, R81, R89 to R91) -/

section Samples

variable {s t : State} {n : Nat} {i : Fin 32} {k : Fin 20} {c : Stream} {x : Sample} {rest : List Sample} {ok : Bool} {crc : W32}

/-- The oldest sample that awaits its proof check is taken up. -/
def takeSample (i : Fin 32) (rest : List Sample) (s : State) : State := s.modStream i fun r => { r with ready := rest, rigFrom := s.now }

/-- The events of a sample whose proof check or test row failed (R89, R91). -/
def logChecks (i : Fin 32) (x : Sample) (ok : Bool) (s : State) : State :=
  let s := if ok then s else logEvent 0x0230 (s.portIdOf i) i.1 s
  if x.test then s else logEvent 0x0231 (s.portIdOf i) i.1 s

/-- The status that a sample's checks give it: the first failing one's, 0 with none (R81). -/
def Sample.verdict (x : Sample) (ok : Bool) : Nat := if x.status ≠ 0 then x.status else if !ok then 6 else if !x.test then 7 else 0

/-- The sample of a stream after its checks. -/
def Sample.judged (x : Sample) (status now : Nat) (y : Sample) : Sample :=
  { y with
    status := if y.status ≠ 0 then y.status else status
    done := if status = 0 then some now else none
    points := x.points, bytes := x.bytes }

/-- The stream's records after the checks of a sample. -/
def StreamRt.judged (i : Fin 32) (x : Sample) (ok : Bool) (s : State) (r : StreamRt) : StreamRt :=
  { r with
    samples := lmod (fun y => y.id = x.id) (Sample.judged x (x.verdict ok) (stampOf s.ns)) r.samples
    returning := r.returning || (r.lost && decide (x.verdict ok = 0) && decide (s.streamMode i ≠ .reRigging)) }

theorem judgeSample_eq (i : Fin 32) (x : Sample) (ok : Bool) (s : State) :
    judgeSample i x ok s = (logChecks i x ok s).modStream i (StreamRt.judged i x ok (logChecks i x ok s)) := rfl

/-- A sample is taken up and judged, and its outcome waits until the earlier ones have counted (R90). -/
def proofTaken (i : Fin 32) (x : Sample) (rest : List Sample) (ok : Bool) (s : State) : State :=
  (judgeSample i x ok (takeSample i rest s)).modStream i fun r => { r with outcomes := addOutcome (x.id, ok) r.outcomes }

theorem exec_sampleComplete (hc : s.stream i = some c) (hr : (s.ing.streams.get i).ready = x :: rest)
    (hp : s.portOpen (Fin.ofNat 20 c.portIdx) = true) (crc : W32) : exec (.sampleComplete n i crc) s = .next
      (settleProofs (Fin.ofNat 20 c.portIdx) i (proofTaken i x rest (decide (crc = s.forme.proofCrc.getD i.1 0)) (s.at n))) := by
  have hopen : ¬(!(takeSample i rest (s.at n)).portOpen (Fin.ofNat 20 c.portIdx)) = true := by
    rw [show (takeSample i rest (s.at n)).portOpen _ = true from hp]
    exact Bool.false_ne_true
  change execSampleComplete n i crc s = _
  simp only [execSampleComplete, show (s.at n).stream i = some c from hc, State.at_ing, hr]
  exact congrArg Host.Outcome.next (if_neg hopen)

theorem exec_sampleComplete_none (hr : (s.ing.streams.get i).ready = []) : exec (.sampleComplete n i crc) s = .next (s.at n) := by
  change execSampleComplete n i crc s = _
  simp only [execSampleComplete, State.at_ing, hr]
  cases (s.at n).stream i <;> rfl

/-! #### What taking and judging a sample leaves and changes -/

theorem Unheard.logChecks (h : Unheard i s t) : Unheard i s (logChecks i x ok t) := by
  have h1 : Unheard i s (if ok then t else Machine.logEvent 0x0230 (t.portIdOf i) i.1 t) := .ite h h.logEvent
  exact .ite h1 h1.logEvent

theorem logChecks_ing (i : Fin 32) (x : Sample) (ok : Bool) (s : State) : (logChecks i x ok s).ing = s.ing := by
  unfold logChecks
  dsimp only
  split <;> split <;> rfl

theorem logChecks_silent (hok : ok = true) (ht : x.test = true) (s : State) : logChecks i x ok s = s := by
  rw [logChecks, if_pos ht, if_pos hok]

theorem logChecks_logs (h : ok = false) (i : Fin 32) (x : Sample) (s : State) :
    Logs s (logChecks i x ok s) 0x0230 (s.portIdOf i) i.1 := by
  have hl := logEvent_logs 0x0230 (s.portIdOf i) i.1 s
  subst h
  unfold logChecks
  dsimp only
  split
  · exact hl
  · obtain ⟨_, g, -⟩ := logEvent_grows 0x0231 ((logEvent 0x0230 (s.portIdOf i) i.1 s).portIdOf i) i.1 (logEvent 0x0230 (s.portIdOf i) i.1 s)
    exact hl.later g

theorem Unheard.takeSample (i : Fin 32) (rest : List Sample) (s : State) : Unheard i s (takeSample i rest s) :=
  .modStream (.refl i s) fun _ => rfl

theorem Unheard.proofTaken (i : Fin 32) (x : Sample) (rest : List Sample) (ok : Bool) (s : State) : Unheard i s (proofTaken i x rest ok s) :=
  .modStream (.modStream (Unheard.takeSample i rest s).logChecks fun _ => rfl) fun _ => rfl

/-- The stream's records after a sample was taken up and judged. -/
theorem proofTaken_rt (i : Fin 32) (x : Sample) (rest : List Sample) (ok : Bool) (s : State) : ∃ b, (proofTaken i x rest ok s).ing.streams.get i =
    { s.ing.streams.get i with
      ready := rest, rigFrom := s.now, returning := b, outcomes := addOutcome (x.id, ok) (s.ing.streams.get i).outcomes
      samples := lmod (fun y => y.id = x.id) (Sample.judged x (x.verdict ok) (stampOf s.ns)) (s.ing.streams.get i).samples } := by
  have hns : (logChecks i x ok (takeSample i rest s)).ns = s.ns := (Unheard.takeSample i rest s).logChecks.ns
  refine ⟨(StreamRt.judged i x ok (logChecks i x ok (takeSample i rest s)) (s.ing.streams.get i)).returning, ?_⟩
  rw [proofTaken, State.modStream_self, judgeSample_eq, State.modStream_self, logChecks_ing, takeSample, State.modStream_self,
    StreamRt.judged, ← takeSample, hns]
  rfl

/-- Whether an earlier sample is open is said by the engines, their queue and the samples that await their proof check. -/
theorem State.earlierOpen_congr (he : t.ing.engines = s.ing.engines) (hq : t.ing.jpegQ = s.ing.jpegQ)
    (hr : (t.ing.streams.get i).ready = (s.ing.streams.get i).ready) (id : Nat) : t.earlierOpen i id = s.earlierOpen i id := by
  rw [State.earlierOpen, State.earlierOpen, he, hq, hr]

theorem proofTaken_earlierOpen (i : Fin 32) (x : Sample) (rest : List Sample) (ok : Bool) (s : State) (id : Nat) :
    (proofTaken i x rest ok s).earlierOpen i id = (takeSample i rest s).earlierOpen i id := by
  have hing := logChecks_ing i x ok (takeSample i rest s)
  have hready : ((proofTaken i x rest ok s).ing.streams.get i).ready = ((takeSample i rest s).ing.streams.get i).ready := by
    obtain ⟨b, h⟩ := proofTaken_rt i x rest ok s
    rw [h, takeSample, State.modStream_self]
  have heng : (proofTaken i x rest ok s).ing.engines = (takeSample i rest s).ing.engines := (congrArg Ingest.engines hing :)
  have hq : (proofTaken i x rest ok s).ing.jpegQ = (takeSample i rest s).ing.jpegQ := (congrArg Ingest.jpegQ hing :)
  exact State.earlierOpen_congr heng hq hready id

/-- A sample whose checks all passed is complete now, with its points and bytes (R81). -/
theorem mem_judged_passed {now : Nat} {l : List Sample} {y : Sample} (hx : x.status = 0) (ht : x.test = true) (hy : y ∈ l)
    (hid : y.id = x.id) (hs : y.status = 0) : { y with done := some now, points := x.points, bytes := x.bytes } ∈
      lmod (fun y => y.id = x.id) (Sample.judged x (x.verdict true) now) l := by
  have hv : x.verdict true = 0 := by simp [Sample.verdict, hx, ht]
  refine List.mem_map.2 ⟨y, hy, ?_⟩
  rw [if_pos (decide_eq_true hid), hv, Sample.judged, hs]
  rfl

/-- A sample whose proof check failed is never complete (R81, R89). -/
theorem judged_failed {now : Nat} {l : List Sample} {y : Sample}
    (hy : y ∈ lmod (fun y => y.id = x.id) (Sample.judged x (x.verdict false) now) l) (hid : y.id = x.id) : y.status ≠ 0 ∧ y.done = none := by
  have hv : x.verdict false ≠ 0 := by
    unfold Sample.verdict
    split
    · assumption
    · exact Nat.succ_ne_zero 5
  obtain ⟨z, -, rfl⟩ := List.mem_map.1 hy
  by_cases hz : z.id = x.id
  · rw [if_pos (decide_eq_true hz)]
    refine ⟨?_, if_neg hv⟩
    show (if z.status ≠ 0 then z.status else x.verdict false) ≠ 0
    split <;> assumption
  · rw [if_neg (by simpa using hz)] at hid
    exact absurd hid hz

/-! #### The outcome counts (R90) -/

/-- An outcome counts in the run of failures of its stream. -/
def countProof (i : Fin 32) (ok : Bool) (s : State) : State :=
  s.modStream i fun r => { r with proofRun := if ok then 0 else r.proofRun + 1, rigProofs := 0 }

/-- Outside a re-rig an outcome counts, and the third failure in a row strikes the port (R90). -/
theorem judgeProof_eq (h : (s.unit (.port k)).mode ≠ .reRigging) : judgeProof k i ok s =
    if ((countProof i ok s).ing.streams.get i).proofRun = 3 then
      strike 7 (.port k) (logEvent 0x0232 (unitId (.port k)) 0 (countProof i ok s))
    else countProof i ok s := by
  simp only [judgeProof, h, decide_false, Bool.false_and, Bool.false_eq_true, if_false]
  rfl

/-- The only outcome of a stream waits while an earlier sample is open. -/
theorem settleProofs_waits {o : Nat × Bool} (h : (s.ing.streams.get i).outcomes = [o]) (he : s.earlierOpen i o.1 = true) :
    settleProofs k i s = s := by
  rw [settleProofs, h, List.foldl_cons, List.foldl_nil, settleProof, he, Bool.true_or, if_pos rfl]

/-- The only outcome of a stream counts once no earlier sample is open. -/
theorem settleProofs_counts {o : Nat × Bool} (h : (s.ing.streams.get i).outcomes = [o]) (he : s.earlierOpen i o.1 = false) :
    settleProofs k i s = judgeProof k i o.2 (s.modStream i fun r => { r with outcomes := r.outcomes.filter fun y => y != o }) := by
  have hm : ¬o ∉ (s.ing.streams.get i).outcomes := not_not.2 (h ▸ List.mem_singleton.2 rfl)
  rw [settleProofs, h, List.foldl_cons, List.foldl_nil, settleProof, he, Bool.false_or, if_neg (by simpa using hm)]

/-- Every field but the ingest's. -/
def butIngest : Field → Bool := fun f => decide (f ≠ .ing)

theorem strike_ing (cause : Nat) (u : UnitId) (s : State) : (strike cause u s).ing = s.ing :=
  (strike_apart (m := butIngest) rfl rfl rfl rfl rfl rfl rfl rfl rfl rfl (.refl _ s)).same .ing rfl

/-- What an outcome counts, and that it leaves the samples. -/
theorem judgeProof_rt (h : (s.unit (.port k)).mode ≠ .reRigging) : (judgeProof k i ok s).ing.streams.get i =
    { s.ing.streams.get i with proofRun := if ok then 0 else (s.ing.streams.get i).proofRun + 1, rigProofs := 0 } := by
  have hc : (countProof i ok s).ing.streams.get i = _ := State.modStream_self i _ s
  rw [judgeProof_eq h]
  split
  · rw [strike_ing, logEvent_ing, hc]
  · exact hc

/-- An outcome that is not the third failure in a row touches neither log nor units. -/
theorem judgeProof_counts (h : (s.unit (.port k)).mode ≠ .reRigging) (h3 : ok = true ∨ (s.ing.streams.get i).proofRun ≠ 2) :
    (judgeProof k i ok s).log = s.log ∧ (judgeProof k i ok s).units = s.units := by
  have hne : ((countProof i ok s).ing.streams.get i).proofRun ≠ 3 := by
    rw [countProof, State.modStream_self]
    rcases h3 with rfl | h3
    · exact Nat.zero_ne_add_one 2
    · dsimp only
      split <;> omega
  rw [judgeProof_eq h, if_neg hne]
  exact ⟨rfl, rfl⟩

/-- The third failure in a row strikes the port with cause 7 after event 0x0232 (R90). -/
theorem judgeProof_strikes (h : s.inServ (.port k) = true) (h3 : (s.ing.streams.get i).proofRun = 2) :
    Logs s (judgeProof k i false s) 0x0232 (unitId (.port k)) 0 ∧ (judgeProof k i false s).inServ (.port k) = false ∧
      Logs s (judgeProof k i false s) 0x0802 (unitId (.port k)) 7 := by
  have hm : (s.unit (.port k)).mode ≠ .reRigging := by
    intro hm
    rcases State.inServ_iff.1 h with h | h | h <;> rw [hm] at h <;> cases h
  have h3' : ((countProof i false s).ing.streams.get i).proofRun = 3 := by
    rw [countProof, State.modStream_self]
    exact congrArg (· + 1) h3
  rw [judgeProof_eq hm, if_pos h3']
  have hl : Logs s (logEvent 0x0232 (unitId (.port k)) 0 (countProof i false s)) 0x0232 (unitId (.port k)) 0 :=
    (logEvent_logs _ _ _ _).earlier (.same rfl)
  have hs := strike_logs (u := .port k) (s := logEvent 0x0232 (unitId (.port k)) 0 (countProof i false s)) h 7
  obtain ⟨_, g⟩ := hl.grows
  obtain ⟨_, g'⟩ := hs.grows
  exact ⟨hl.later g', strike_out 7 _ _, hs.earlier g⟩

/-- An open port that is not under re-rig is in service (R361). -/
theorem State.inServ_of_portOpen (h : s.portOpen k = true) (hm : (s.unit (.port k)).mode ≠ .reRigging) : s.inServ (.port k) = true := by
  obtain ⟨h1, h2⟩ := of_decide_eq_true h
  rw [State.inServ_iff]
  revert h1 h2 hm
  cases (s.unit (.port k)).mode <;> decide

end Samples

/-! ### STREAM_LOSS_TIMEOUT (R92, R93) -/

section Loss

variable {s : State} {n : Nat} {i : Fin 32} {k : Fin 20} {c : Stream}

/-- A stream is lost, with event 0x0240. -/
def loseStream (k : Fin 20) (i : Fin 32) (s : State) : State :=
  logEvent 0x0240 (unitId (.port k)) i.1 (s.modStream i fun r => { r with lost := true, returning := false })

/-- Every stream of a port is lost. -/
def State.allLost (s : State) (k : Fin 20) : Bool := (s.slotsOf fun d => decide (d.portIdx = k.1)).all fun i => (s.ing.streams.get i).lost

/-- A port reads LOST when all its streams are (R93). -/
def markPortLost (k : Fin 20) (s : State) : State :=
  if s.allLost k then s.modUnit (.port k) fun r => if r.mode = .inService then { r with mode := .lost } else r else s

/-- The stream's loss is due: its port is in service, and 1.5 nominal periods went by in the cues without a packet (R92). -/
def State.lossDue (s : State) (k : Fin 20) (i : Fin 32) (c : Stream) : Prop :=
  s.inServ (.port k) = true ∧ (s.ing.streams.get i).lost = false ∧ s.cue.count ≠ 0 ∧
    (s.ing.streams.get i).lossFrom + us c.period * 3 / 2 ≤ s.now

theorem exec_streamLossTimeout (hc : s.stream i = some c) (hk : k = Fin.ofNat 20 c.portIdx) (hd : (s.at n).lossDue k i c) :
    exec (.streamLossTimeout n i) s = .next (markPortLost k (loseStream k i (s.at n))) := by
  subst hk
  obtain ⟨h1, h2, h3, h4⟩ := hd
  change execStreamLossTimeout n i s = _
  simp only [execStreamLossTimeout, show (s.at n).stream i = some c from hc]
  refine congrArg Host.Outcome.next (if_neg ?_)
  rw [h1, h2, decide_eq_false h3, decide_eq_false (Nat.not_lt.2 h4)]
  exact Bool.false_ne_true

theorem exec_streamLossTimeout_none (hc : s.stream i = some c) (hk : k = Fin.ofNat 20 c.portIdx) (hd : s.inServ (.port k) = false ∨
    (s.ing.streams.get i).lost = true ∨ s.cue.count = 0 ∨ (s.at n).now < (s.ing.streams.get i).lossFrom + us c.period * 3 / 2) :
    exec (.streamLossTimeout n i) s = .next (s.at n) := by
  have hi : (s.at n).inServ (.port k) = s.inServ (.port k) := rfl
  change execStreamLossTimeout n i s = _
  simp only [execStreamLossTimeout, show (s.at n).stream i = some c from hc, ← hk, hi, State.at_ing, State.at_cue]
  refine congrArg Host.Outcome.next (if_pos ?_)
  rcases hd with h | h | h | h <;> simp only [h, decide_true, Bool.not_false, Bool.true_or, Bool.or_true]

theorem loseStream_self (k : Fin 20) (i : Fin 32) (s : State) : ((loseStream k i s).ing.streams.get i).lost = true :=
  congrArg StreamRt.lost (State.modStream_self i _ s)

theorem loseStream_ne {j : Fin 32} (h : j ≠ i) (k : Fin 20) (s : State) :
    (loseStream k i s).ing.streams.get j = s.ing.streams.get j := State.modStream_ne h _ s

theorem markPortLost_frame (k : Fin 20) (s : State) : (markPortLost k s).ing = s.ing ∧ (markPortLost k s).log = s.log := by
  unfold markPortLost
  split <;> exact ⟨rfl, rfl⟩

theorem markPortLost_all (h : s.allLost k = true) (hs : s.inServ (.port k) = true) (ha : (s.unit (.port k)).mode ≠ .absent) :
    ((markPortLost k s).unit (.port k)).mode = .lost := by
  rw [markPortLost, if_pos h, State.unit_modUnit_self]
  split
  · rfl
  · next hm => exact ((State.inServ_iff.1 hs).resolve_left hm).resolve_right ha

theorem markPortLost_some (h : s.allLost k = false) : markPortLost k s = s := if_neg (Bool.eq_false_iff.1 h)

theorem State.allLost_iff : s.allLost k = true ↔ ∀ j d, s.stream j = some d → d.portIdx = k.1 → (s.ing.streams.get j).lost = true := by
  simp only [State.allLost, List.all_eq_true, State.mem_slotsOf, decide_eq_true_eq]
  exact ⟨fun h j d hd hp => h j ⟨d, hd, hp⟩, fun h j ⟨d, hd, hp⟩ => h j d hd hp⟩

/-- After a stream's loss all streams of a port are lost just when all its others were. -/
theorem loseStream_allLost : (loseStream k i s).allLost k = true ↔
    ∀ j d, s.stream j = some d → d.portIdx = k.1 → j ≠ i → (s.ing.streams.get j).lost = true := by
  refine State.allLost_iff.trans ⟨fun h j d hd hp hj => ?_, fun h j d hd hp => ?_⟩
  · exact loseStream_ne hj k s ▸ h j d hd hp
  · by_cases hj : j = i
    · exact hj ▸ loseStream_self k i s
    · exact (congrArg StreamRt.lost (loseStream_ne hj k s)).trans (h j d hd hp hj)

/-- The loss of a stream, and the port's when it was the last one (R92, R93). -/
theorem completes_streamLossTimeout (hc : s.stream i = some c) (hk : k = Fin.ofNat 20 c.portIdx) (hd : (s.at n).lossDue k i c) :
    Completes (.streamLossTimeout n i) s fun t =>
      (t.ing.streams.get i).lost = true ∧ Newest t 0x0240 (unitId (.port k)) i.1 ∧ (∀ j, j ≠ i → t.ing.streams.get j = s.ing.streams.get j) ∧
      ((∀ j d, s.stream j = some d → d.portIdx = k.1 → j ≠ i → (s.ing.streams.get j).lost = true) →
        (s.unit (.port k)).mode ≠ .absent → (t.unit (.port k)).mode = .lost) ∧
      ((∃ j d, s.stream j = some d ∧ d.portIdx = k.1 ∧ j ≠ i ∧ (s.ing.streams.get j).lost = false) → t.units = s.units) := by
  obtain ⟨hing, hlog⟩ := markPortLost_frame k (loseStream k i (s.at n))
  refine ⟨_, exec_streamLossTimeout hc hk hd, ?_, (logEvent_newest 0x0240 (unitId (.port k)) i.1 _).same_log hlog, fun j hj => ?_,
    fun hall ha => ?_, fun ⟨j, d, hj, hp, hne, hn⟩ => ?_⟩
  · rw [hing]
    exact loseStream_self k i (s.at n)
  · rw [hing]
    exact loseStream_ne hj k (s.at n)
  · exact markPortLost_all (loseStream_allLost.2 hall) hd.1 ha
  · have hsome : (loseStream k i (s.at n)).allLost k = false :=
      Bool.eq_false_iff.2 fun h => Bool.eq_false_iff.1 hn (loseStream_allLost.1 h j d hj hp hne)
    rw [markPortLost_some hsome]
    rfl

end Loss

end Sys2Proof.Machine

namespace Sys2Proof.Machine

/-! ### A proof check of the oldest waiting sample (R79, R81, R89, R90) -/

section ProofCheck

variable {s t : State} {n : Nat} {i : Fin 32} {k : Fin 20} {c : Stream} {x : Sample} {rest : List Sample}

/-- The sample's outcome no longer waits. -/
def proofCounted (i : Fin 32) (x : Sample) (rest : List Sample) (ok : Bool) (s : State) : State :=
  (proofTaken i x rest ok s).modStream i fun r => { r with outcomes := r.outcomes.filter fun y => y != (x.id, ok) }

theorem Unheard.proofCounted (i : Fin 32) (x : Sample) (rest : List Sample) (ok : Bool) (s : State) :
    Unheard i s (proofCounted i x rest ok s) :=
  .modStream (Unheard.proofTaken i x rest ok s) fun _ => rfl

/-- What the count of an outcome finds in the stream's records. -/
theorem proofCounted_rt (i : Fin 32) (x : Sample) (rest : List Sample) (ok : Bool) (s : State) :
    ((proofCounted i x rest ok s).ing.streams.get i).ready = rest ∧
      ((proofCounted i x rest ok s).ing.streams.get i).proofRun = (s.ing.streams.get i).proofRun ∧
      ((proofCounted i x rest ok s).ing.streams.get i).samples =
        lmod (fun y => y.id = x.id) (Sample.judged x (x.verdict ok) (stampOf s.ns)) (s.ing.streams.get i).samples := by
  obtain ⟨b, h⟩ := proofTaken_rt i x rest ok s
  rw [proofCounted, State.modStream_self, h]
  exact ⟨rfl, rfl, rfl⟩

theorem proofCounted_logs (i : Fin 32) (x : Sample) (rest : List Sample) (s : State) :
    Logs s (proofCounted i x rest false s) 0x0230 (s.portIdOf i) i.1 := by
  obtain ⟨_, g⟩ := (Unheard.takeSample i rest s).log
  exact (logChecks_logs rfl i x (takeSample i rest s)).earlier g

theorem proofCounted_log (ht : x.test = true) (i : Fin 32) (rest : List Sample) (s : State) :
    (proofCounted i x rest true s).log = s.log :=
  (congrArg State.log (logChecks_silent (i := i) rfl ht (takeSample i rest s)) :)

/-- What is asked of the port and of the stream: the port is open and not under re-rig, and no outcome waits. -/
structure ProofDue (s : State) (i : Fin 32) (k : Fin 20) (c : Stream) (x : Sample) (rest : List Sample) : Prop where
  stream : s.stream i = some c
  port : k = Fin.ofNat 20 c.portIdx
  ready : (s.ing.streams.get i).ready = x :: rest
  isOpen : s.portOpen k = true
  mode : (s.unit (.port k)).mode ≠ .reRigging
  outcomes : (s.ing.streams.get i).outcomes = []

theorem ProofDue.outcome (h : ProofDue s i k c x rest) (ok : Bool) :
    ((proofTaken i x rest ok (s.at n)).ing.streams.get i).outcomes = [(x.id, ok)] := by
  obtain ⟨b, hrt⟩ := proofTaken_rt i x rest ok (s.at n)
  rw [hrt, State.at_ing, h.outcomes]
  rfl

/-- The outcome waits while an earlier sample is open. -/
theorem ProofDue.exec_waits (h : ProofDue s i k c x rest) (he : (takeSample i rest (s.at n)).earlierOpen i x.id = true) (crc : W32) :
    exec (.sampleComplete n i crc) s = .next (proofTaken i x rest (decide (crc = s.forme.proofCrc.getD i.1 0)) (s.at n)) := by
  obtain ⟨hc, rfl, hr, hp, -, -⟩ := id h
  rw [exec_sampleComplete hc hr hp, settleProofs_waits (h.outcome _) ((proofTaken_earlierOpen ..).trans he)]

/-- The outcome counts once no earlier sample is open. -/
theorem ProofDue.exec_counts (h : ProofDue s i k c x rest) (he : (takeSample i rest (s.at n)).earlierOpen i x.id = false) (crc : W32) :
    exec (.sampleComplete n i crc) s = .next (judgeProof k i (decide (crc = s.forme.proofCrc.getD i.1 0))
      (proofCounted i x rest (decide (crc = s.forme.proofCrc.getD i.1 0)) (s.at n))) := by
  obtain ⟨hc, rfl, hr, hp, -, -⟩ := id h
  rw [exec_sampleComplete hc hr hp, settleProofs_counts (h.outcome _) ((proofTaken_earlierOpen ..).trans he)]
  rfl

theorem proofCounted_unit (ok : Bool) (u : UnitId) : (proofCounted i x rest ok (s.at n)).unit u = s.unit u :=
  State.unit_congr ((Unheard.proofCounted i x rest ok (s.at n)).apart.same .units rfl) u

theorem ProofDue.completes_waits (h : ProofDue s i k c x rest) (he : (takeSample i rest (s.at n)).earlierOpen i x.id = true) (crc : W32) :
    Completes (.sampleComplete n i crc) s fun t =>
      (t.ing.streams.get i).proofRun = (s.ing.streams.get i).proofRun ∧ t.units = s.units ∧
        (t.ing.streams.get i).outcomes = [(x.id, decide (crc = s.forme.proofCrc.getD i.1 0))] := by
  refine ⟨_, h.exec_waits he crc, ?_, (Unheard.proofTaken ..).apart.same .units rfl, h.outcome _⟩
  obtain ⟨b, hrt⟩ := proofTaken_rt i x rest (decide (crc = s.forme.proofCrc.getD i.1 0)) (s.at n)
  rw [hrt]
  rfl

theorem ProofDue.completes_passed (h : ProofDue s i k c x rest) (he : (takeSample i rest (s.at n)).earlierOpen i x.id = false)
    (hx : x.status = 0) (ht : x.test = true) :
    Completes (.sampleComplete n i (s.forme.proofCrc.getD i.1 0)) s fun t =>
      (t.ing.streams.get i).ready = rest ∧ (t.ing.streams.get i).proofRun = 0 ∧ t.log = s.log ∧ t.units = s.units ∧
      ∀ y ∈ (s.ing.streams.get i).samples, y.id = x.id → y.status = 0 →
        { y with done := some (stampOf (s.at n).ns), points := x.points, bytes := x.bytes } ∈ (t.ing.streams.get i).samples := by
  have e := h.exec_counts he (s.forme.proofCrc.getD i.1 0)
  rw [decide_eq_true rfl] at e
  have hm : ((proofCounted i x rest true (s.at n)).unit (.port k)).mode ≠ .reRigging := by
    rw [proofCounted_unit]
    exact h.mode
  obtain ⟨hready, -, hsamples⟩ := proofCounted_rt i x rest true (s.at n)
  obtain ⟨hlog, hunits⟩ := judgeProof_counts (i := i) (k := k) hm (.inl rfl)
  refine ⟨_, e, ?_, ?_, hlog.trans (proofCounted_log ht i rest (s.at n)),
    hunits.trans ((Unheard.proofCounted ..).apart.same .units rfl), fun y hy hid hs => ?_⟩
  all_goals rw [judgeProof_rt hm]
  · exact hready
  · rfl
  · show _ ∈ ((proofCounted i x rest true (s.at n)).ing.streams.get i).samples
    rw [hsamples]
    exact mem_judged_passed hx ht hy hid hs

theorem ProofDue.completes_failed (h : ProofDue s i k c x rest) (he : (takeSample i rest (s.at n)).earlierOpen i x.id = false)
    {crc : W32} (hcrc : crc ≠ s.forme.proofCrc.getD i.1 0) : Completes (.sampleComplete n i crc) s fun t =>
      (t.ing.streams.get i).ready = rest ∧ (t.ing.streams.get i).proofRun = (s.ing.streams.get i).proofRun + 1 ∧
      Logs s t 0x0230 (s.portIdOf i) i.1 ∧
      (∀ y ∈ (t.ing.streams.get i).samples, y.id = x.id → y.status ≠ 0 ∧ y.done = none) ∧
      ((s.ing.streams.get i).proofRun = 2 → Logs s t 0x0232 (unitId (.port k)) 0 ∧ t.inServ (.port k) = false ∧
        Logs s t 0x0802 (unitId (.port k)) 7) ∧
      ((s.ing.streams.get i).proofRun ≠ 2 → t.units = s.units) := by
  have e := h.exec_counts he crc
  rw [decide_eq_false hcrc] at e
  have hunit := proofCounted_unit (s := s) (n := n) (i := i) (x := x) (rest := rest) false (.port k)
  have hm : ((proofCounted i x rest false (s.at n)).unit (.port k)).mode ≠ .reRigging := by
    rw [hunit]
    exact h.mode
  obtain ⟨hready, hrun, hsamples⟩ := proofCounted_rt i x rest false (s.at n)
  have hlogs := proofCounted_logs i x rest (s.at n)
  obtain ⟨_, g⟩ := hlogs.grows
  obtain ⟨_, g'⟩ := (judgeProof_inCue (a1 := k) (a2 := i) (a3 := false) (.refl (proofCounted i x rest false (s.at n)))).log
  refine ⟨_, e, ?_, ?_, hlogs.later g', fun y hy hid => ?_, fun h2 => ?_, fun h2 => ?_⟩
  · rw [judgeProof_rt hm]
    exact hready
  · rw [judgeProof_rt hm]
    exact congrArg (· + 1) hrun
  · rw [judgeProof_rt hm] at hy
    exact judged_failed (hsamples ▸ hy) hid
  · have hs : (proofCounted i x rest false (s.at n)).inServ (.port k) = true := by
      rw [State.inServ, hunit]
      exact State.inServ_of_portOpen h.isOpen h.mode
    obtain ⟨h3, hout, hstrike⟩ := judgeProof_strikes hs (hrun.trans h2)
    exact ⟨h3.earlier g, hout, hstrike.earlier g⟩
  · obtain ⟨-, hunits⟩ := judgeProof_counts (i := i) (k := k) (ok := false) hm (.inr (hrun ▸ h2))
    exact hunits.trans ((Unheard.proofCounted ..).apart.same .units rfl)

end ProofCheck

/-- Settles O47: a frame is dropped, goes to the time base or to its streams; a decode ends in a sample; a sample's outcome waits or counts. -/
theorem ethernetDecodesSamples : Obligations.EthernetDecodesSamples := by
  refine ⟨fun n k frame ok offset s => ⟨exec_ethernetFrame_closed, fun he hp => ⟨fun h => ⟨fun hl ho => ?_, fun h0 => ?_⟩, fun h => ?_,
    fun src dst data h h1 h2 hk hr => ?_, fun src dst data h h1 h2 hk hr => completes_ethernetFrame_datagram he hp h h1 h2 hk hr⟩,
    fun j q => exec_jpegDecodeStart, exec_jpegDecodeStart_none, fun i c e j hc hj hi hp => ⟨fun g ht hg => ?_, fun ht hg => ?_, fun ht => ?_,
      fun he ht => ?_, fun he ht => ?_⟩⟩,
    fun n i c k s hc hk => ⟨fun x rest hr hp hm ho w hw => ?_, fun hr crc => exec_sampleComplete_none hr,
      fun h1 h2 h3 h4 => completes_streamLossTimeout hc hk ⟨h1, h2, h3, h4⟩, exec_streamLossTimeout_none hc hk⟩⟩
  · exact ⟨_, exec_ethernetFrame_strays he hp h, dropFrame_logs (s := s.at n) hl ho, dropFrame_frame k (s.at n)⟩
  · rw [exec_ethernetFrame_strays he hp h, dropFrame_silent (s := s.at n) h0]
  · obtain ⟨g, m, hx⟩ := exec_ethernetFrame_ptp (n := n) (offset := offset) he hp h
    exact ⟨_, hx, (ptpMessage_apart (m := butIngest) rfl rfl rfl rfl (.refl _ (s.at n))).same .ing rfl⟩
  · rw [exec_ethernetFrame_datagram he hp h h1 h2 hk, hr, Bool.not_false, if_pos rfl]
  · refine ⟨_, exec_decodeDone_image hc hj hi ht hg, ?_⟩
    subst hi
    rw [endDecode_done (s := { s.at n with free := s.free + 1 }) hc hp]
    exact ⟨freeEngine_engine e _, rfl, _, makeReady_ready _ _ _, rfl, rfl, rfl, rfl⟩
  · exact ⟨_, exec_decodeDone_error hc hj hi ht hg, endDecode_fails (s := s.at n) hc hi hp (by decide) 0x0222⟩
  · exact ⟨_, exec_decodeDone_late hc hj hi ht, endDecode_fails (s := s.at n) hc hi hp (by decide) 0x0221⟩
  · refine ⟨_, exec_decodeBudgetExpiry hc he, ?_⟩
    rw [State.budgetOver, decide_eq_true ht, if_pos rfl]
    exact endDecode_fails (s := s.at n) hc hi hp (by decide) 0x0221
  · rw [exec_decodeBudgetExpiry hc he, State.budgetOver, decide_eq_false (Nat.not_le.2 ht), if_neg Bool.false_ne_true]
  · have due : ProofDue s i k c x rest := ⟨hc, hk, hr, hp, hm, ho⟩
    have hopen : (takeSample i rest (s.at n)).earlierOpen i x.id = w.earlierOpen i x.id := by
      have hready : ((takeSample i rest (s.at n)).ing.streams.get i).ready = (w.ing.streams.get i).ready := by
        rw [takeSample, State.modStream_self, hw, vmod_get, if_pos rfl]
      exact State.earlierOpen_congr (by rw [hw]; rfl) (by rw [hw]; rfl) hready x.id
    exact ⟨fun crc h => due.completes_waits (hopen.trans h) crc, fun h => ⟨due.completes_passed (hopen.trans h),
      fun crc => due.completes_failed (hopen.trans h)⟩⟩

end Sys2Proof.Machine

namespace Sys2Proof.Machine

/-! ### The platen's checksum (R112, R113, R122) -/

section Checksum

variable {a w : List Lane} {cols : List (List Lane)}

/-- A weight of a column, 0 beyond its end. -/
def weightAt (w : List Lane) (k : Nat) : Int := (w.getD k ⟨0, false⟩).q

/-- A sum over the activations with their positions. -/
def weigh (a : List Lane) (g : Nat → Int) : Int := ((a.zip (List.range a.length)).map fun x => x.1.q * g x.2).sum

theorem dot_eq_weigh (a w : List Lane) : dot a w = weigh a (weightAt w) := by
  induction a generalizing w with
  | nil => rfl
  | cons x a ih =>
    cases w with
    | nil => simp [dot, weigh, weightAt]
    | cons y w =>
      have hd : dot (x :: a) (y :: w) = x.q * y.q + dot a w := by simp [dot]
      have hw : weigh (x :: a) (weightAt (y :: w)) = x.q * y.q + weigh a (weightAt w) := by
        simp [weigh, weightAt, List.range_succ_eq_map, List.zip_map_right, Function.comp_def]
      rw [hd, hw, ih]

theorem weigh_add (a : List Lane) (g h : Nat → Int) : weigh a (fun k => g k + h k) = weigh a g + weigh a h := by
  simp [weigh, mul_add, List.sum_map_add]

/-- The check views of all columns weigh the activations by the columns' summed weights. -/
theorem sum_dot (a : List Lane) (cols : List (List Lane)) :
    (cols.map (dot a)).sum = weigh a fun k => (cols.map fun w => weightAt w k).sum := by
  induction cols with
  | nil => simp [weigh]
  | cons w cols ih =>
    simp only [List.map_cons, List.sum_cons, ih, dot_eq_weigh a w]
    exact (weigh_add a _ _).symm

theorem weigh_emod (a : List Lane) (g : Nat → Int) (n : Int) : weigh a (fun k => g k % n) % n = weigh a g % n := by
  have h : (fun x : Lane × Nat => x.1.q * (g x.2 % n) % n) = fun x => x.1.q * g x.2 % n :=
    funext fun x => (Int.mod_modEq (g x.2) n).mul_left x.1.q
  rw [weigh, weigh, List.sum_int_mod, List.sum_int_mod (List.map (fun x : Lane × Nat => x.1.q * g x.2) _)]
  simp only [List.map_map, Function.comp_def, h]

theorem checkRhs_eq (a : List Lane) (cols : List (List Lane)) : checkRhs a cols = (cols.map (dot a)).sum % checkMod := by
  rw [sum_dot, ← weigh_emod]
  simp [checkRhs, checkWeights, weigh, weightAt, List.zip_map_right, Function.comp_def]

/-- The sums agree exactly when what was added to the columns' side is 0 mod U (R112). -/
theorem checkLhs_eq_checkRhs_iff (a : List Lane) (cols : List (List Lane)) (added : Int) :
    checkLhs a cols added = checkRhs a cols ↔ (2 ^ 56 : Int) ∣ added := by
  rw [checkRhs_eq, checkLhs, Int.emod_eq_emod_iff_emod_sub_eq_zero, add_sub_cancel_left, ← Int.dvd_iff_emod_eq_zero]
  rfl

theorem platenRow_passes_iff (f : PressOp) (cols : List (List Lane)) (a : List Lane) (fs : List PlatenFault) (row : Nat) :
    (platenRow f cols a fs row).2 = none ↔ (2 ^ 56 : Int) ∣ ((List.range 64).map fun c => faultAt fs row c).sum ∧ parityAt fs row = false := by
  rw [← checkLhs_eq_checkRhs_iff a cols, platenRow]
  dsimp only
  split <;> simp_all

theorem platenRow_checksum (f : PressOp) {fs : List PlatenFault} {row : Nat}
    (h : ¬ (2 ^ 56 : Int) ∣ ((List.range 64).map fun c => faultAt fs row c).sum) : (platenRow f cols a fs row).2 = some 0 :=
  if_pos fun e => h ((checkLhs_eq_checkRhs_iff a cols _).1 e)

theorem faultAt_nil (row c : Nat) : faultAt [] row c = 0 := rfl

/-- A single fault's amount is all that its row adds. -/
theorem sum_faultAt_column (row : Nat) (c : Fin 64) (d : Int) :
    ((List.range 64).map fun k => faultAt [.column row c d] row k).sum = d := by
  have h : (fun k => faultAt [.column row c d] row k) = fun k => if c.1 = k then d else 0 := by
    funext k
    simp [faultAt]
  rw [h]
  show ∑ k ∈ Finset.range 64, (if c.1 = k then d else 0) = d
  rw [Finset.sum_ite_eq, if_pos (Finset.mem_range.2 c.2)]

end Checksum

/-- Settles O36: the checksum column weighs the activations by the columns' summed weights, so the two sides differ by what was added. -/
theorem checksumVerdicts : Obligations.ChecksumVerdicts := by
  refine fun f a cols fs row => ⟨checkLhs_eq_checkRhs_iff a cols, platenRow_passes_iff f cols a fs row, ?_, fun c d hd hlt => ?_⟩
  · exact (platenRow_passes_iff f cols a [] row).2 ⟨by simp [faultAt_nil], rfl⟩
  · refine platenRow_checksum f fun h => hd ?_
    rw [sum_faultAt_column] at h
    exact Int.eq_zero_of_dvd_of_natAbs_lt_natAbs h hlt

end Sys2Proof.Machine

namespace Sys2Proof.Machine

/-! ### Runs killed to run again (R294, R302) -/

section Requeue

variable {s t u : State} {i : Inst} {k : InstKey} {p : Fin 16} {cause : Nat} {ps : List (Fin 16)}

theorem State.runOn_running (h : s.runOn p = some i) : i.st = .running := by
  have h' := List.find?_some h
  simp only [Bool.and_eq_true, decide_eq_true_eq] at h'
  exact h'.1

theorem State.inst?_congr (h : t.sched = s.sched) (k : InstKey) : t.inst? k = s.inst? k := by
  rw [State.inst?, State.inst?, h]

/-- An entry found by its key after a change that leaves the keys. -/
theorem find?_lmod_key {f : Inst → Inst} (hf : ∀ x, (f x).key = x.key) (k : InstKey) (l : List Inst) :
    (lmod (fun x => x.key = k) f l).find? (fun x => x.key = k) = (l.find? fun x => x.key = k).map f := by
  have hkey : (fun x : Inst => decide (x.key = k)) ∘ (fun x => if decide (x.key = k) = true then f x else x) =
      fun x => decide (x.key = k) := by
    funext x
    dsimp only [Function.comp]
    split
    · rw [hf]
    · rfl
  rw [lmod, List.find?_map, hkey]
  cases h : l.find? fun x => x.key = k with
  | none => rfl
  | some x => exact congrArg some (if_pos (List.find?_some h))

theorem State.inst?_modInst {f : Inst → Inst} (hf : ∀ x, (f x).key = x.key) (k : InstKey) (s : State) :
    (s.modInst k f).inst? k = (s.inst? k).map f := find?_lmod_key hf k s.sched.insts

theorem killInst_inst? (hc : cause ≠ 14) (h : s.inst? k = some i) (hr : i.st = .running) :
    ∃ w, (killInst cause k s).inst? k = some (Inst.killed w i) := by
  obtain rfl := inst?_key h
  obtain ⟨w, hw⟩ := endRun_insts cause i s
  refine ⟨w, ?_⟩
  rw [killInst_running h hr, if_neg hc, State.inst?, hw]
  exact (find?_lmod_key (f := Inst.killed w) (fun _ => rfl) _ _).trans (congrArg (Option.map _) h)

/-- A kill with a change of its entry that leaves it killed, and names the presses that it avoids. -/
theorem killInst_modInst_requeued (hc : cause ≠ 14) (h : s.inst? k = some i) (hr : i.st = .running) {f : Inst → Inst}
    (hk : ∀ x, (f x).key = x.key) (hf : ∀ x, (f x).st = x.st ∧ (f x).units = x.units ∧ (f x).partsDone = x.partsDone ∧
      (f x).wasKilled = x.wasKilled ∧ (f x).avoid = ps) : Requeued ((killInst cause k s).modInst k f) k ps := by
  obtain ⟨w, hw⟩ := killInst_inst? hc h hr
  obtain ⟨hst, hunits, hparts, hwas, havoid⟩ := hf (Inst.killed w i)
  exact ⟨f (Inst.killed w i), (State.inst?_modInst hk k _).trans (congrArg (Option.map f) hw), hst, hunits, hparts, hwas, havoid⟩

theorem killElsewhere_requeued (hc : cause ≠ 14) (h : s.inst? k = some i) (hr : i.st = .running) :
    Requeued (killElsewhere cause ps k s) k ps :=
  killInst_modInst_requeued hc h hr (fun _ => rfl) fun _ => ⟨rfl, rfl, rfl, rfl, rfl⟩

theorem Requeued.of_sched (h : Requeued t k ps) (hu : u.sched = t.sched) : Requeued u k ps := by
  obtain ⟨j, hj, e⟩ := h
  exact ⟨j, (State.inst?_congr hu k).trans hj, e⟩

/-- A run's first fault at a place kills it; it runs elsewhere. -/
theorem sceneFault_first (idx : Nat) (h : i.faultIdx = none) : sceneFault cause p idx i s = (killInst cause i.key s).modInst i.key
    fun x => { x with faultIdx := some (idx, 1), avoid := [p], relower := false } := by
  rw [sceneFault, h]
  rfl

theorem sceneFault_requeued (idx : Nat) (hc : cause ≠ 14) (h : s.inst? i.key = some i) (hr : i.st = .running) (hf : i.faultIdx = none) :
    Requeued (sceneFault cause p idx i s) i.key [p] := by
  rw [sceneFault_first idx hf]
  exact killInst_modInst_requeued hc h hr (fun _ => rfl) fun _ => ⟨rfl, rfl, rfl, rfl, rfl⟩

end Requeue

/-! ### Repeats that end (R114, R116) -/

section Repeats

variable {s t w : State}

theorem pushTrace_rep (r : Option TraceRec) (x : Press) : (pushTrace r x).rep = x.rep := by
  cases r <;> rfl

theorem abandonRepeat_rep (cyc : Nat) (x : Press) : (abandonRepeat cyc x).rep = none := by
  unfold abandonRepeat
  split
  · assumption
  · exact pushTrace_rep _ _

/-- No press begins a repeat. -/
def NoNewRepeat (s t : State) : Prop := ∀ p, (s.press.get p).rep = none → (t.press.get p).rep = none

theorem NoNewRepeat.refl (s : State) : NoNewRepeat s s := fun _ => id

theorem NoNewRepeat.trans (a : NoNewRepeat s t) (b : NoNewRepeat t w) : NoNewRepeat s w := fun p => b p ∘ a p

theorem NoNewRepeat.of_press (h : t.press = s.press) : NoNewRepeat s t := fun p => by rw [h]; exact id

theorem NoNewRepeat.foldl {α : Type} (l : List α) (f : State → α → State) (h : NoNewRepeat s t) (hf : ∀ w a, NoNewRepeat w (f w a)) :
    NoNewRepeat s (l.foldl f t) :=
  List.foldlRecOn l f (motive := fun w => NoNewRepeat s w) h fun w hw a _ => hw.trans (hf w a)

theorem State.modPress_get (p q : Fin 16) (f : Press → Press) (s : State) :
    (s.modPress p f).press.get q = if p = q then f (s.press.get p) else s.press.get q := vmod_get _ _ _ _

theorem State.modPress_self (p : Fin 16) (f : Press → Press) (s : State) : (s.modPress p f).press.get p = f (s.press.get p) := by
  rw [State.modPress_get, if_pos rfl]

theorem State.modPress_ne {p q : Fin 16} (h : q ≠ p) (f : Press → Press) (s : State) :
    (s.modPress p f).press.get q = s.press.get q := by
  rw [State.modPress_get, if_neg h.symm]

/-- Every field but the presses. -/
def butPress : Field → Bool := fun f => decide (f ≠ .press)

theorem NoNewRepeat.apart (h : Apart butPress s t) : NoNewRepeat s t := .of_press (h.same .press rfl)

theorem flushPress_noNewRepeat (p : Fin 16) (s : State) : NoNewRepeat s (flushPress p s) := by
  intro q h
  unfold flushPress
  dsimp only
  rw [State.modPress_get]
  split
  · exact abandonRepeat_rep _ _
  · split <;> exact h

theorem stopRun_noNewRepeat (i : Inst) (s : State) : NoNewRepeat s (stopRun i s) :=
  (NoNewRepeat.foldl _ _ (.apart (buryBufs_apart rfl (dropRequests_apart rfl rfl (.refl _ s)))) fun w p => flushPress_noNewRepeat p w).trans
    (.apart (unmapBufs_apart rfl (.refl _ _)))

theorem releaseRun_noNewRepeat (cause : Nat) (i : Inst) (s : State) : NoNewRepeat s (releaseRun cause i s) := by
  have before : Apart butPress s (buryBufs i (dropRequests i.presses ((logKill i cause (chargeRun i s)).modPart i.part
      (bump PartRt.kills (fun r v => { r with kills := v }) 2)))) :=
    buryBufs_apart rfl (dropRequests_apart rfl rfl (State.modPart_apart rfl (logKill_apart rfl rfl (chargeRun_apart rfl rfl rfl rfl
      (.refl _ _)))))
  exact (NoNewRepeat.foldl _ _ (.apart before) fun w p => flushPress_noNewRepeat p w).trans (.apart (unmapBufs_apart rfl (.refl _ _)))

theorem killInst_noNewRepeat (cause : Nat) (k : InstKey) (s : State) : NoNewRepeat s (killInst cause k s) := by
  rcases killInst_cases cause k s with e | ⟨i, -, -, e⟩ <;> rw [e]
  · exact .refl s
  · have he : NoNewRepeat s (endRun cause i s) := (releaseRun_noNewRepeat cause i s).trans (.of_press rfl)
    split
    · exact he.trans (.of_press rfl)
    · exact he

theorem killWhere_noNewRepeat (cause : Nat) (f : Inst → Bool) (s : State) : NoNewRepeat s (killWhere cause f s) :=
  .foldl _ _ (.refl s) fun w k => killInst_noNewRepeat cause k w

theorem classifyStruck_noNewRepeat (u : UnitId) (cues : List Nat) (s : State) : NoNewRepeat s (classifyStruck u cues s) := by
  refine .foldl _ _ (.refl s) fun w n => ?_
  have h : Apart butPress w (setClass n 5 (logEvent 0x0707 (unitId u) (match u with | .core _ => 1 | _ => 0) w)) :=
    setClass_apart rfl (logEvent_apart rfl (.refl _ w))
  exact (NoNewRepeat.apart h).trans (.trans (.foldl _ _ (.refl _) fun v i => stopRun_noNewRepeat i v) (.of_press rfl))

theorem strikeKills_noNewRepeat (u : UnitId) (s : State) : NoNewRepeat s (strikeKills u s) := by
  unfold strikeKills
  split
  · exact (killWhere_noNewRepeat 3 _ s).trans (classifyStruck_noNewRepeat _ _ _)
  · exact (killWhere_noNewRepeat 3 _ s).trans (classifyStruck_noNewRepeat _ _ _)
  · exact killWhere_noNewRepeat 15 _ s
  · exact killWhere_noNewRepeat 15 _ s
  · exact .refl s

theorem strike_noNewRepeat {u : UnitId} (h : s.inServ u = true) (cause : Nat) : NoNewRepeat s (strike cause u s) := by
  rw [strike_of_inServ h]
  refine NoNewRepeat.trans (t := retireAtEight u (takeOut cause u s)) (.of_press ?_) (strikeKills_noNewRepeat u _)
  unfold retireAtEight
  split <;> rfl

end Repeats

end Sys2Proof.Machine

namespace Sys2Proof.Machine

/-! ### ACCUMULATOR_ERROR and COMPOSITOR_TIMEOUT (R115, R244) -/

section PressFaults

variable {s : State} {n : Nat} {p : Fin 16} {i : Inst} {cause code detail src : Nat}

@[simp] theorem State.at_runOn (p : Fin 16) : (s.at n).runOn p = s.runOn p := rfl

/-- A press's fault that its next proof pass classifies: its event, then its run is killed to run elsewhere. -/
def killSuspect (cause src code detail : Nat) (p : Fin 16) (i : Inst) (s : State) : State :=
  suspectUnit src (.press p) (killElsewhere cause [p] i.key (logEvent code (pressId p) detail s))

theorem exec_accumulatorError (e : Fin 512) (h : s.runOn p = some i) : exec (.accumulatorError n p e) s =
    .next (killSuspect 5 3 0x0303 (e.1 / 2) p i (s.at n)) := by
  change execAccumulatorError n p e s = _
  simp only [execAccumulatorError, State.at_runOn, h]
  rfl

theorem exec_accumulatorError_none (e : Fin 512) (h : s.runOn p = none) : exec (.accumulatorError n p e) s = .next (s.at n) := by
  change execAccumulatorError n p e s = _
  simp only [execAccumulatorError, State.at_runOn, h]

theorem exec_compositorTimeout (m : Fin 2) (h : s.runOn p = some i) (hs : (s.at n).compStuck p m = true) :
    exec (.compositorTimeout n p m) s = .next (killSuspect 9 0 0x0460 m.1 p i (s.at n)) := by
  change execCompositorTimeout n p m s = _
  simp only [execCompositorTimeout, State.at_runOn, h, hs, if_true]
  rfl

theorem exec_compositorTimeout_none (m : Fin 2) (h : s.runOn p = none ∨ (s.at n).compStuck p m = false) :
    exec (.compositorTimeout n p m) s = .next (s.at n) := by
  have hn : (if (s.at n).compStuck p m = true then s.runOn p else none) = none := by
    rcases h with h | h <;> simp [h]
  change execCompositorTimeout n p m s = _
  simp only [execCompositorTimeout, State.at_runOn, hn]

theorem killElsewhere_logGrows (cause : Nat) (ps : List (Fin 16)) (k : InstKey) (s : State) :
    ∃ new, LogGrows s (killElsewhere cause ps k s) new := (killElsewhere_inCue (.refl s)).log

theorem killSuspect_logs (cause src code detail : Nat) (p : Fin 16) (i : Inst) (s : State) :
    Logs s (killSuspect cause src code detail p i s) code (pressId p) detail := by
  obtain ⟨_, h⟩ := killElsewhere_logGrows cause [p] i.key (logEvent code (pressId p) detail s)
  exact (logEvent_logs code (pressId p) detail s).later h

theorem killSuspect_requeued (hc : cause ≠ 14) (h : s.inst? i.key = some i) (hr : i.st = .running) :
    Requeued (killSuspect cause src code detail p i s) i.key [p] :=
  (killElsewhere_requeued (s := logEvent code (pressId p) detail s) hc h hr).of_sched rfl

/-- The press is suspect, and otherwise its record stands. -/
theorem killSuspect_unit (cause src code detail : Nat) (p : Fin 16) (i : Inst) (s : State) :
    ((killSuspect cause src code detail p i s).unit (.press p)).suspect = true ∧
      ((killSuspect cause src code detail p i s).unit (.press p)).mode = (s.unit (.press p)).mode := by
  have hs : Stands (.press p) s (killElsewhere cause [p] i.key (logEvent code (pressId p) detail s)) :=
    (logEvent_stands _ _ _ _ s).trans ((killInst_stands _ cause i.key _).trans (.of_unit rfl))
  rw [killSuspect, suspectUnit, State.unit_modUnit_self]
  exact ⟨rfl, hs.mode⟩

theorem completes_killSuspect {c : Instr} (e : exec c s = .next (killSuspect cause src code detail p i (s.at n))) (hc : cause ≠ 14)
    (hp : s.runOn p = some i) (hi : s.inst? i.key = some i) : Completes c s fun t =>
      Logs s t code (pressId p) detail ∧ Requeued t i.key [p] ∧ (t.unit (.press p)).suspect = true ∧
        (t.unit (.press p)).mode = (s.unit (.press p)).mode :=
  ⟨_, e, killSuspect_logs _ _ _ _ _ _ (s.at n), killSuspect_requeued (s := s.at n) hc hi (State.runOn_running hp),
    killSuspect_unit _ _ _ _ _ _ (s.at n)⟩

end PressFaults

/-! ### SEQUENCER_LOCKSTEP_MISMATCH (R119) -/

section Lockstep

variable {s : State} {n : Nat} {p : Fin 16} {i : Inst}

/-- A safety scene on a press whose sequencer disagrees is a detection. -/
def detectSafety (p : Fin 16) (s : State) : State :=
  match s.runOn p with
  | some i => if i.safety then detect 0x07 (pressId p) s else s
  | none => s

/-- What a lockstep mismatch does before the strike: its event, the detection, and the end of a repeat. -/
def noteMismatch (p : Fin 16) (h : Fin 8) (s : State) : State :=
  let s := detectSafety p (logEvent 0x0311 (pressId p) h.1 s)
  s.modPress p (abandonRepeat s.pressCycle)

theorem exec_sequencerLockstepMismatch (n : Nat) (p : Fin 16) (h : Fin 8) (s : State) : exec (.sequencerLockstepMismatch n p h) s =
    .next (strike 2 (.press p) (noteMismatch p h (s.at n))) := rfl

theorem detectSafety_cases (p : Fin 16) (s : State) : detectSafety p s = s ∨ detectSafety p s = detect 0x07 (pressId p) s := by
  unfold detectSafety
  split
  · split
    · exact .inr rfl
    · exact .inl rfl
  · exact .inl rfl

theorem detectSafety_safety (h : s.runOn p = some i) (hs : i.safety = true) : detectSafety p s = detect 0x07 (pressId p) s := by
  simp only [detectSafety, h, hs, if_true]

theorem detectSafety_logGrows (p : Fin 16) (s : State) : ∃ new, LogGrows s (detectSafety p s) new := by
  rcases detectSafety_cases p s with e | e <;> rw [e]
  · exact ⟨[], .same rfl⟩
  · exact (detect_inCue (.refl s)).log

theorem detect_units (cause : Nat) (unit : Byte) (s : State) : (detect cause unit s).units = s.units :=
  (detect_apart (m := fun f => decide (f ≠ .units)) rfl rfl rfl rfl rfl (.refl _ s)).same .units rfl

theorem noteMismatch_units (p : Fin 16) (h : Fin 8) (s : State) : (noteMismatch p h s).units = s.units := by
  show (detectSafety p _).units = _
  rcases detectSafety_cases p (logEvent 0x0311 (pressId p) h.1 s) with e | e <;> rw [e]
  · rfl
  · exact detect_units _ _ _

theorem noteMismatch_inServ (p : Fin 16) (h : Fin 8) (s : State) (u : UnitId) : (noteMismatch p h s).inServ u = s.inServ u := by
  rw [State.inServ, State.inServ, State.unit_congr (noteMismatch_units p h s)]

theorem noteMismatch_logs (p : Fin 16) (h : Fin 8) (s : State) : Logs s (noteMismatch p h s) 0x0311 (pressId p) h.1 := by
  obtain ⟨_, hg⟩ := detectSafety_logGrows p (logEvent 0x0311 (pressId p) h.1 s)
  exact (show Logs s (detectSafety p _) _ _ _ from (logEvent_logs 0x0311 (pressId p) h.1 s).later hg)

theorem noteMismatch_rep (p : Fin 16) (h : Fin 8) (s : State) : ((noteMismatch p h s).press.get p).rep = none := by
  rw [noteMismatch, State.modPress_self]
  exact abandonRepeat_rep _ _

theorem noteMismatch_detected (h : Fin 8) (hi : s.runOn p = some i) (hs : i.safety = true) : Detected s (noteMismatch p h s) := by
  have hd : Detected s (detect 0x07 (pressId p) (logEvent 0x0311 (pressId p) h.1 s)) := (detect_detected 0x07 (pressId p) _).of_published rfl
  rw [noteMismatch, detectSafety_safety (s := logEvent 0x0311 (pressId p) h.1 s) hi hs]
  exact hd

theorem strike_detected (cause : Nat) (u : UnitId) {t : State} (h : Detected s t) : Detected s (strike cause u t) :=
  h.later (strike_inCue (.refl t)) (strike_keeps (.refl t))

theorem strike_of_struck {u : UnitId} (h : (s.unit u).mode = .struck ∨ (s.unit u).mode = .retired) (cause : Nat) : strike cause u s = s := by
  rcases h with h | h <;> simp only [strike, h]

theorem completes_sequencerLockstepMismatch (h : Fin 8) (hs : s.inServ (.press p) = true) :
    Completes (.sequencerLockstepMismatch n p h) s fun t => Logs s t 0x0311 (pressId p) h.1 ∧ t.inServ (.press p) = false ∧
      Logs s t 0x0802 (pressId p) 2 ∧ (t.press.get p).rep = none := by
  have hu : (noteMismatch p h (s.at n)).inServ (.press p) = true := (noteMismatch_inServ p h (s.at n) (.press p)).trans hs
  have hlog := noteMismatch_logs p h (s.at n)
  obtain ⟨_, before, -⟩ := id hlog
  obtain ⟨_, after⟩ := (strike_inCue (a1 := 2) (a2 := .press p) (.refl (noteMismatch p h (s.at n)))).log
  exact ⟨_, exec_sequencerLockstepMismatch n p h s, hlog.later after, strike_out _ _ _, (strike_logs hu 2).earlier before,
    strike_noNewRepeat hu 2 p (noteMismatch_rep p h (s.at n))⟩

end Lockstep

/-! ### ROW_READY_UPDATE (R181, R182) -/

section Bands

variable {s : State} {n tensor row : Nat} {bottom : Bool} {p q : Fin 16} {i : Inst}

/-- A band's counter is set. -/
def Press.setBand (tensor : Nat) (bottom : Bool) (v : W16) (r : Press) : Press :=
  { r with bands := (tensor, bottom, v) :: r.bands.filter fun b => !(decide (b.1 = tensor) && (b.2.1 == bottom)) }

theorem Press.band_setBand_self (tensor : Nat) (bottom : Bool) (v : W16) (r : Press) :
    (r.setBand tensor bottom v).band tensor bottom = v := by
  simp [Press.band, Press.setBand]

theorem Press.band_setBand_ne {x : Nat} {b : Bool} (h : (x, b) ≠ (tensor, bottom)) (v : W16) (r : Press) :
    (r.setBand tensor bottom v).band x b = r.band x b := by
  have hne : ¬ (tensor = x ∧ bottom = b) := fun e => h (by rw [e.1, e.2])
  have hf (e : Nat × Bool × W16) : ((!(decide (e.1 = tensor) && (e.2.1 == bottom))) = true ∧ decide (e.1 = x ∧ e.2.1 = b) = true) ↔
      (e.1 = x ∧ e.2.1 = b) := by
    refine ⟨fun he => of_decide_eq_true he.2, fun he => ⟨?_, decide_eq_true he⟩⟩
    obtain ⟨rfl, rfl⟩ := he
    rw [Bool.not_eq_true', Bool.eq_false_iff, Ne, Bool.and_eq_true, decide_eq_true_eq, beq_iff_eq]
    exact fun h => hne ⟨h.1.symm, h.2.symm⟩
  simp only [Press.band, Press.setBand, List.find?_cons, decide_eq_false hne, List.find?_filter, hf]

/-- A stagehand's wait that a band's counter ends. -/
def bandServes (tensor : Nat) (bottom : Bool) (v : W16) (w : WaitReason) : Bool :=
  match w with
  | .rowReady x want b => decide (x = tensor) && (b == bottom) && decide (want ≤ v.toNat)
  | _ => false

/-- The neighbour's stagehands that waited for a band's row go on. -/
def wakeReaders (i : Inst) (p : Fin 16) (tensor : Nat) (bottom : Bool) (v : W16) (s : State) : State :=
  match i.neighbour p bottom with
  | none => s
  | some q => s.modPress q (wakeHands s.pressCycle (bandServes tensor bottom v))

theorem exec_rowReadyUpdate (hi : s.runOn p = some i) (hd : (s.at n).rowDone i p tensor bottom row = true) :
    exec (.rowReadyUpdate n p tensor bottom row) s = .next (wakeReaders i p tensor bottom (BitVec.ofNat 16 (row + 1))
      ((s.at n).modPress p (Press.setBand tensor bottom (BitVec.ofNat 16 (row + 1))))) := by
  change execRowReadyUpdate n p tensor bottom row s = _
  simp only [execRowReadyUpdate, State.at_runOn, hi, hd, Bool.not_true, Bool.false_eq_true, if_false, wakeReaders]
  cases i.neighbour p bottom <;> rfl

theorem exec_rowReadyUpdate_none (h : s.runOn p = none ∨ ∃ i, s.runOn p = some i ∧ (s.at n).rowDone i p tensor bottom row = false) :
    exec (.rowReadyUpdate n p tensor bottom row) s = .next (s.at n) := by
  change execRowReadyUpdate n p tensor bottom row s = _
  rcases h with h | ⟨i, hi, hd⟩
  · simp only [execRowReadyUpdate, State.at_runOn, h]
  · simp only [execRowReadyUpdate, State.at_runOn, hi, hd, Bool.not_false, if_true]

theorem wakeReaders_band (i : Inst) (p q : Fin 16) (tensor x : Nat) (bottom b : Bool) (v : W16) (s : State) :
    ((wakeReaders i p tensor bottom v s).press.get q).band x b = (s.press.get q).band x b := by
  unfold wakeReaders
  split
  · rfl
  · rw [State.modPress_get]
    split
    · next h => rw [h]; rfl
    · rfl

theorem mem_wakeHands {cyc : Nat} {f : WaitReason → Bool} {r : Press} {h : Stagehand} (hf : f .none = false)
    (hm : h ∈ (wakeHands cyc f r).hands) : f h.wait = false := by
  obtain ⟨x, -, rfl⟩ := Vector.mem_map.1 hm
  split
  · exact hf
  · next hx => exact Bool.eq_false_iff.2 hx

/-- The stagehands that still wait for the band want a later row. -/
theorem wakeReaders_waits {v : W16} {want : Nat} {h : Stagehand} (hq : i.neighbour p bottom = some q)
    (hm : h ∈ ((wakeReaders i p tensor bottom v s).press.get q).hands) (hw : h.wait = .rowReady tensor want bottom) : v.toNat < want := by
  simp only [wakeReaders, hq, State.modPress_self] at hm
  have hf := mem_wakeHands rfl hm
  rw [hw] at hf
  simpa [bandServes] using hf

end Bands

/-- Settles O38: the two faults that leave the press to its proof pass, the lockstep's strike, and the row-ready counter. -/
theorem pressFaultsAndBands : Obligations.PressFaultsAndBands := by
  refine fun n p s => ⟨?_, ?_, fun m hm => exec_compositorTimeout_none m (.inr hm), fun h hs => completes_sequencerLockstepMismatch h hs,
    fun h i hs hi hsafe => ?_, fun h hm => ?_, fun tensor bottom row i hi => ⟨fun hd hrow => ?_, fun hd => ?_⟩,
    fun tensor bottom row h => exec_rowReadyUpdate_none (.inl h)⟩
  · rintro i c code d hp hi (⟨e, rfl, rfl, rfl⟩ | ⟨m, rfl, hm, rfl, rfl⟩)
    · exact completes_killSuspect (exec_accumulatorError e hp) (by decide) hp hi
    · exact completes_killSuspect (exec_compositorTimeout m hp hm) (by decide) hp hi
  · rintro hp c (⟨e, rfl⟩ | ⟨m, rfl⟩)
    · exact exec_accumulatorError_none e hp
    · exact exec_compositorTimeout_none m (.inl hp)
  · exact ⟨_, exec_sequencerLockstepMismatch n p h s, strike_detected 2 (.press p) (noteMismatch_detected (s := s.at n) h hi hsafe)⟩
  · have hu : ((noteMismatch p h (s.at n)).unit (.press p)).mode = .struck ∨ ((noteMismatch p h (s.at n)).unit (.press p)).mode = .retired := by
      rwa [State.unit_congr (noteMismatch_units p h (s.at n))]
    refine ⟨_, exec_sequencerLockstepMismatch n p h s, ?_⟩
    rw [strike_of_struck hu]
    exact ⟨noteMismatch_logs p h (s.at n), noteMismatch_rep p h (s.at n), noteMismatch_units p h (s.at n)⟩
  · have hv : (BitVec.ofNat 16 (row + 1)).toNat = row + 1 := by
      rw [BitVec.toNat_ofNat]
      omega
    refine ⟨_, exec_rowReadyUpdate hi hd, ?_, fun x b hne => ?_, fun q x b hq => ?_, fun q hq h hm want hw => ?_⟩
    · rw [wakeReaders_band, State.modPress_self, Press.band_setBand_self, hv]
    · rw [wakeReaders_band, State.modPress_self, Press.band_setBand_ne hne]
      rfl
    · rw [wakeReaders_band, State.modPress_ne hq]
      rfl
    · have := wakeReaders_waits hq hm hw
      omega
  · exact exec_rowReadyUpdate_none (.inr ⟨i, hi, hd⟩)

end Sys2Proof.Machine

namespace Sys2Proof.Machine

/-! ### Messages that pass the common checks (R433 to R435) -/

section Accepted

variable {s u u' : State} {m : Msg} {n : Nat}

/-- The request and the state in which an accepted message acts. -/
theorem onMessage_accepted {typ : Nat} {inState : State → Bool} (f : Request → State → State) (h : s.head? (fun x => x = typ) = some m)
    (hv : s.versionOk m = true) (hs : inState (handOn m s).2 = true) :
    onMessage typ inState f s = f (handOn m s).1 (handOn m s).2 := by
  simp only [onMessage, h, hv, hs, Bool.not_true, Bool.false_eq_true, if_false]

/-- Nothing joins or leaves the host port's queues. -/
structure Unsent (s t : State) : Prop where
  tx : t.port.tx = s.port.tx
  ready : t.port.ready = s.port.ready
  seq : t.port.lastSeq = s.port.lastSeq

theorem Unsent.trans (a : Unsent s u) (b : Unsent u u') : Unsent s u' := ⟨b.tx.trans a.tx, b.ready.trans a.ready, b.seq.trans a.seq⟩

theorem Unsent.of_port (h : u.port = s.port) : Unsent s u := by
  constructor <;> rw [h]

theorem setState_unsent (st : DevState) (s : State) : Unsent s (setState st s) := by
  unfold setState
  split
  · exact .of_port rfl
  · exact ⟨rfl, rfl, rfl⟩

theorem curtainStop_unsent (c : Nat) (b : Byte) (s : State) : Unsent s (curtainStop c b s) := by
  unfold curtainStop
  split <;> exact ⟨rfl, rfl, rfl⟩

theorem detect_unsent (c : Nat) (b : Byte) (s : State) : Unsent s (detect c b s) :=
  (Unsent.of_port ((invalidate_apart (m := fun f => decide (f ≠ .port)) rfl rfl (.refl _ s)).same .port rfl)).trans (curtainStop_unsent c b _)

/-- The message's own effect leaves the queues, and may log. -/
theorem HandedOn.after {new : List LogRec} (h : HandedOn s u m) (hp : Unsent u u') (hl : LogGrows u u' new) : HandedOn s u' m :=
  ⟨hp.tx.trans h.tx, hp.ready.trans h.ready, hp.seq.trans h.seq, h.log.later hl⟩

/-- A reply with status OK carries its fields. -/
theorem HandedOn.answered (h : HandedOn s u m) (fields : List Byte) :
    Replies s (reply (handOn m s).1 stOk fields u) m m.session stOk fields :=
  h.replies u.headVersion stOk m.session fields

end Accepted

/-! ### START (R409) -/

section Starting

variable {s : State} {m : Msg} {n : Nat}

theorem completes_start (hv : s.versionOk m = true) (h : s.head? (fun x => x = 0x0020) = some m) (hs : s.startWait = true) :
    Completes (.start n) s fun t => t.dev = { s.dev with startPlaced := true } ∧ Replies s t m m.session stOk [] := by
  have ho : HandedOn (s.at n) { (handOn m (s.at n)).2 with dev := { s.dev with startPlaced := true } } m :=
    (handOn_handedOn m (s.at n)).after (.of_port rfl) (.same rfl)
  exact ⟨_, congrArg Host.Outcome.next (onMessage_accepted (s := s.at n) _ h hv hs), rfl, ho.refused stOk⟩

end Starting

/-! ### Sessions that close and runs that end (R208, R294, R303) -/

section Closing

variable {s t w : State}

/-- Of the entries some are abandoned, and no closed session opens again. -/
structure Closing (s t : State) : Prop where
  insts : ∀ i ∈ t.sched.insts, i.st = .abandoned ∨ i ∈ s.sched.insts
  sess : ∀ y ∈ t.cog.sess, ∃ x ∈ s.cog.sess, y.slot = x.slot ∧ (x.st = .closed → y.st = .closed)

theorem Closing.of_eq (hi : t.sched.insts = s.sched.insts) (hs : t.cog.sess = s.cog.sess) : Closing s t :=
  ⟨fun _ h => .inr (hi ▸ h), fun y h => ⟨y, hs ▸ h, rfl, id⟩⟩

theorem Closing.refl (s : State) : Closing s s := .of_eq rfl rfl

theorem Closing.trans (a : Closing s t) (b : Closing t w) : Closing s w := by
  refine ⟨fun i h => (b.insts i h).elim .inl (a.insts i), fun z h => ?_⟩
  obtain ⟨y, hy, hz, hzc⟩ := b.sess z h
  obtain ⟨x, hx, hyx, hyc⟩ := a.sess y hy
  exact ⟨x, hx, hz.trans hyx, hzc ∘ hyc⟩

theorem Closing.foldl {α : Type} (l : List α) (f : State → α → State) (h : Closing s t) (hf : ∀ w a, Closing w (f w a)) :
    Closing s (l.foldl f t) :=
  List.foldlRecOn l f (motive := fun w => Closing s w) h fun w hw a _ => hw.trans (hf w a)

theorem modSession_closing {f : Session → Session} (hf : ∀ x, (f x).slot = x.slot ∧ (x.st = .closed → (f x).st = .closed)) (slot : Nat)
    (s : State) : Closing s (modSession slot f s) := by
  refine ⟨fun _ h => .inr h, fun y hy => ?_⟩
  obtain ⟨x, hx, rfl⟩ := List.mem_map.1 hy
  refine ⟨x, hx, ?_⟩
  split
  · exact hf x
  · exact ⟨rfl, id⟩

theorem requeueRows_closing (st : Step) (s : State) : Closing s (requeueRows st s) := by
  refine .foldl _ _ (.refl s) fun w r => ?_
  split
  · exact .refl w
  · refine modSession_closing (fun x => ?_) _ w
    split
    · next h => exact ⟨rfl, fun hc => absurd (hc.symm.trans h.2) (by decide)⟩
    · exact ⟨rfl, id⟩

theorem freeReserved_closing (play : Nat) (l : List Nat) (s : State) : Closing s (freeReserved play l s) := by
  refine .foldl _ _ (.refl s) fun w a => ?_
  split
  · split <;> exact .of_eq rfl rfl
  · exact .refl w

theorem decLeaves_closing (play : Nat) (l : List Nat) (s : State) : Closing s (decLeaves play l s) := by
  refine .foldl _ _ (.refl s) fun w a => ?_
  unfold decLeaf
  split
  · exact .refl w
  · split
    · exact .of_eq rfl rfl
    · split <;> exact .of_eq rfl rfl

theorem forgetValues_closing (f : Value → Bool) (s : State) : Closing s (forgetValues f s) := by
  have h : Apart onlyMem { s with sched := { s.sched with values := s.sched.values.filter fun v => !f v } } (forgetValues f s) := by
    refine Apart.foldl _ _ (.refl _ _) fun _ _ h => Apart.foldl _ _ h fun _ _ h => ?_
    split
    · exact h
    · exact unmapPage_apart rfl h
  have hs : (forgetValues f s).sched = { s.sched with values := s.sched.values.filter fun v => !f v } := h.same .sched rfl
  have hc : (forgetValues f s).cog = s.cog := h.same .cog rfl
  exact .of_eq (by rw [hs]) (by rw [hc])

theorem setDigPlay_closing (play : Nat) (d : DigPlay) (s : State) : Closing s (setDigPlay play d s) := by
  unfold setDigPlay
  split <;> exact .of_eq rfl rfl

/-- An entry of a step that has not committed. -/
def Step.uncommitted (st : Step) (i : Inst) : Bool := decide (i.key.play = st.play ∧ i.key.run = st.no ∧ i.kind = 2 ∧ i.st ≠ .committed)

/-- An abandoned step's entries end, and it is forgotten. -/
def endStep (st : Step) (s : State) : State :=
  { s with
    cog := { s.cog with steps := s.cog.steps.filter fun x => !(decide (x.play = st.play) && decide (x.no = st.no)) }
    sched := { s.sched with insts := lmod st.uncommitted (fun i => { i with st := .abandoned, units := [] }) s.sched.insts } }

theorem endStep_closing (st : Step) (s : State) : Closing s (endStep st s) := by
  refine ⟨fun i h => ?_, fun y h => ⟨y, h, rfl, id⟩⟩
  obtain ⟨j, hj, rfl⟩ := List.mem_map.1 h
  split
  · exact .inl rfl
  · exact .inr hj

theorem abandonStep_closing (st : Step) (s : State) : Closing s (abandonStep st s) :=
  ((((setDigPlay_closing _ _ s).trans (freeReserved_closing _ _ _)).trans (requeueRows_closing st _)).trans (endStep_closing st _)).trans
    (forgetValues_closing _ _)

theorem settleStep_closing (play no : Nat) (s : State) : Closing s (settleStep play no s) := by
  unfold settleStep
  split
  · exact .refl s
  · split
    · exact abandonStep_closing _ s
    · exact .refl s

theorem settleSteps_closing (h : W32) (s : State) : Closing s (settleSteps h s) :=
  .foldl _ _ (.refl s) fun w st => settleStep_closing st.play st.no w

/-- A session's record once closed. -/
def Session.shut (y : Session) : Session := { y with st := .closed, leaves := [], prompt := none, held := [], decoding := none }

theorem closeSession_eq (x : Session) (s : State) : closeSession x s =
    settleSteps x.handle (decLeaves x.play x.leaves (modSession x.slot Session.shut (dropRows x.handle s))) := rfl

theorem settled_closing (x : Session) (s : State) :
    Closing s (settleSteps x.handle (decLeaves x.play x.leaves s)) := (decLeaves_closing _ _ s).trans (settleSteps_closing _ _)

theorem closeSession_closing (x : Session) (s : State) : Closing s (closeSession x s) := by
  rw [closeSession_eq]
  have dropped : Closing s (dropRows x.handle s) := .of_eq rfl rfl
  exact (dropped.trans (modSession_closing (f := Session.shut) (fun _ => ⟨rfl, fun _ => rfl⟩) x.slot _)).trans (settled_closing x _)

/-- Every session but those of some slots is closed. -/
def OpenAt (slots : List Nat) (s : State) : Prop := ∀ y ∈ s.cog.sess, y.st = .closed ∨ y.slot ∈ slots

theorem OpenAt.closing {slots : List Nat} (h : OpenAt slots s) (hc : Closing s t) : OpenAt slots t := fun y hy => by
  obtain ⟨x, hx, hslot, hst⟩ := hc.sess y hy
  exact (h x hx).imp hst (hslot ▸ ·)

theorem closeSession_openAt {slots : List Nat} {x : Session} (h : OpenAt (x.slot :: slots) s) : OpenAt slots (closeSession x s) := by
  rw [closeSession_eq]
  refine OpenAt.closing (s := modSession x.slot Session.shut (dropRows x.handle s)) (fun y hy => ?_) (settled_closing x _)
  obtain ⟨z, hz, rfl⟩ := List.mem_map.1 hy
  split
  · exact .inl rfl
  · next hne => exact (h z hz).imp id fun hm => (List.mem_cons.1 hm).resolve_left (by simpa using hne)

/-- Every session that is not closed is closed. -/
def closeAll (s : State) : State := (s.cog.sess.filter fun x => decide (x.st ≠ .closed)).foldl (fun s x => closeSession x s) s

theorem closeSessions_openAt {l : List Session} (h : OpenAt (l.map Session.slot) s) : OpenAt [] (l.foldl (fun s x => closeSession x s) s) := by
  induction l generalizing s with
  | nil => exact h
  | cons x l ih => exact ih (closeSession_openAt h)

theorem closeAll_closed (s : State) : ∀ y ∈ (closeAll s).cog.sess, y.st = .closed := by
  have h : OpenAt ((s.cog.sess.filter fun x => decide (x.st ≠ .closed)).map Session.slot) s := fun y hy => by
    by_cases hc : y.st = .closed
    · exact .inl hc
    · exact .inr (List.mem_map_of_mem (List.mem_filter.2 ⟨hy, decide_eq_true hc⟩))
  exact fun y hy => (closeSessions_openAt h y hy).resolve_right List.not_mem_nil

theorem closeAll_closing (s : State) : Closing s (closeAll s) := .foldl _ _ (.refl s) fun w x => closeSession_closing x w

end Closing

/-! ### MAINTENANCE_ENTER (R413) -/

section Maintenance

variable {s : State} {m : Msg} {n : Nat}

/-- Every run stops where it stands, and no entry will run again. -/
def endScenes (s : State) : State :=
  let s := (s.sched.insts.filter fun i => decide (i.st = .running)).foldl (fun s i => stopRun i s) s
  { s with sched := { s.sched with insts := (s.sched.insts.filter fun i => !i.key.rep).map Inst.ended, slices := [] }, cls := []
           cog := { s.cog with moves := [], dirty := [] } }

/-- The cue and what waits for it end. -/
def endCue (s : State) : State :=
  { s with mem := { s.mem with restore := [] }, cog := { s.cog with steps := [] }, cue := { s.cue with running := false } }

/-- MAINTENANCE is entered, with its event. -/
def noteMaintenance (s : State) : State := setState .maintenance (logEvent 0x0905 idSecurity s.dev.st.code s)

/-- What of the part stops on the way into MAINTENANCE, the curtain aside. -/
def endWork (s : State) : State := endCue (closeAll (endScenes s))

theorem enterMaintenance_eq (s : State) : enterMaintenance s = curtainStop 0x01 idStage (endWork (noteMaintenance s)) := by
  simp only [enterMaintenance, endWork, closeAll, endScenes, endCue, noteMaintenance]

/-- The fields that the end of the part's work touches. -/
def workFields : Field → Bool := fun f => decide (f ∈ [Field.units, .sched, .part, .mem, .press, .cls, .cog, .cue])

theorem endScenes_apart (s : State) : Apart workFields s (endScenes s) := by
  have h : Apart workFields s ((s.sched.insts.filter fun i => decide (i.st = .running)).foldl (fun s i => stopRun i s) s) :=
    .foldl _ _ (.refl _ s) fun _ _ h => stopRun_apart rfl rfl rfl rfl rfl h
  refine h.trans ⟨fun f hf => ?_⟩
  cases f with
  | sched | cls | cog => cases hf
  | _ => rfl

theorem endCue_apart (s : State) : Apart workFields s (endCue s) := by
  refine ⟨fun f hf => ?_⟩
  cases f with
  | mem | cog | cue => cases hf
  | _ => rfl

theorem endWork_apart (s : State) : Apart workFields s (endWork s) := by
  have h : Apart workFields s (closeAll (endScenes s)) := .foldl _ _ (endScenes_apart s) fun _ _ h => closeSession_apart rfl rfl rfl h
  exact h.trans (endCue_apart _)

theorem endScenes_ended (s : State) : ∀ i ∈ (endScenes s).sched.insts, i.st = .committed ∨ i.st = .abandoned := by
  intro i h
  obtain ⟨j, -, rfl⟩ := List.mem_map.1 h
  unfold Inst.ended
  split
  · exact .inl ‹_›
  · exact .inr rfl

theorem endWork_ended (s : State) : ∀ i ∈ (endWork s).sched.insts, i.st = .committed ∨ i.st = .abandoned := fun i h =>
  ((closeAll_closing (endScenes s)).insts i h).elim .inr (endScenes_ended s i)

theorem noteMaintenance_st (s : State) : (noteMaintenance s).dev.st = .maintenance := (setState_dev _ _).1

theorem endWork_st (s : State) : (endWork s).dev.st = s.dev.st := congrArg Dev.st ((endWork_apart s).same .dev rfl)

theorem curtainStop_st (c : Nat) (b : Byte) (s : State) : (curtainStop c b s).dev.st = s.dev.st :=
  congrArg Dev.st ((curtainStop_apart (m := fun f => decide (f ≠ .dev)) rfl rfl rfl (.refl _ s)).same .dev rfl)

theorem enterMaintenance_st (s : State) : (enterMaintenance s).dev.st = .maintenance := by
  rw [enterMaintenance_eq, curtainStop_st, endWork_st, noteMaintenance_st]

theorem endWork_stops (s : State) : (∀ i ∈ (endWork s).sched.insts, i.st = .committed ∨ i.st = .abandoned) ∧
    (∀ x ∈ (endWork s).cog.sess, x.st = .closed) ∧ (endWork s).cue.running = false :=
  ⟨endWork_ended s, closeAll_closed (endScenes s), rfl⟩

theorem enterMaintenance_stops (s : State) : Stopped (enterMaintenance s) ∧
    (∀ i ∈ (enterMaintenance s).sched.insts, i.st = .committed ∨ i.st = .abandoned) ∧
    (∀ x ∈ (enterMaintenance s).cog.sess, x.st = .closed) ∧ (enterMaintenance s).cue.running = false := by
  rw [enterMaintenance_eq]
  have hw := endWork_stops (noteMaintenance s)
  generalize endWork (noteMaintenance s) = w at hw
  have h : Apart (fun f => decide (f ∈ [Field.log, .cur, .port])) w (curtainStop 0x01 idStage w) :=
    curtainStop_apart rfl rfl rfl (.refl _ w)
  rw [h.same .sched rfl, h.same .cog rfl, h.same .cue rfl]
  exact ⟨⟨curtainStop_latch _ _ w, curtainStop_off _ _ w⟩, hw⟩

theorem noteMaintenance_log (s : State) : (noteMaintenance s).log = (logEvent 0x0905 idSecurity s.dev.st.code s).log := by
  unfold noteMaintenance setState
  split <;> rfl

theorem endWork_log (s : State) : (endWork s).log = s.log := (endWork_apart s).same .log rfl

theorem enterMaintenance_logGrows (s : State) : ∃ new, LogGrows (noteMaintenance s) (enterMaintenance s) new := by
  rw [enterMaintenance_eq]
  have hw := endWork_log (noteMaintenance s)
  generalize endWork (noteMaintenance s) = w at hw
  obtain ⟨new, h⟩ := (curtainStop_inCue (a1 := 0x01) (a2 := idStage) (.refl w)).log
  exact ⟨_, (LogGrows.same hw).trans h⟩

theorem enterMaintenance_logs (s : State) : Logs s (enterMaintenance s) 0x0905 idSecurity s.dev.st.code := by
  obtain ⟨_, h⟩ := enterMaintenance_logGrows s
  exact ((logEvent_logs 0x0905 idSecurity s.dev.st.code s).later (.same (noteMaintenance_log s))).later h

theorem noteMaintenance_unsent (s : State) : Unsent s (noteMaintenance s) :=
  have h : Unsent s (logEvent 0x0905 idSecurity s.dev.st.code s) := .of_port rfl
  h.trans (setState_unsent .maintenance _)

theorem endWork_unsent (s : State) : Unsent s (endWork s) := .of_port ((endWork_apart s).same .port rfl)

theorem enterMaintenance_unsent (s : State) : Unsent s (enterMaintenance s) := by
  rw [enterMaintenance_eq]
  exact ((noteMaintenance_unsent s).trans (endWork_unsent _)).trans (curtainStop_unsent 0x01 idStage _)

theorem maintain_blank (q : Request) (h : s.dev.st = .blank) : maintain q s = refuse q stOk (enterMaintenance s) := if_pos h

/-- A request for MAINTENANCE waits for the boundary. -/
def placeMaint (q : Request) (s : State) : State :=
  { s with dev := { s.dev with maint := s.dev.maint ++ [{ typ := q.typ, seq := q.seq, session := q.session, number := q.number }] } }

theorem maintain_cues (q : Request) (h : s.dev.st ≠ .blank) : maintain q s = placeMaint q s := if_neg h

theorem State.mayMaintain_iff : s.mayMaintain = true ↔ s.dev.faultN = false ∧ (s.dev.st = .blank ∨ s.dev.st.cues = true) := by
  simp [State.mayMaintain]

theorem completes_maintenanceEnter_blank (hv : s.versionOk m = true) (h : s.head? (fun x => x = 0x0021) = some m) (hb : s.dev.st = .blank)
    (hf : s.dev.faultN = false) : Completes (.maintenanceEnter n) s fun t => t.dev.st = .maintenance ∧ Stopped t ∧
      (∀ i ∈ t.sched.insts, i.st = .committed ∨ i.st = .abandoned) ∧ (∀ x ∈ t.cog.sess, x.st = .closed) ∧ t.cue.running = false ∧
      Logs s t 0x0905 idSecurity DevState.blank.code ∧ Replies s t m m.session stOk [] := by
  have ho := handOn_handedOn m (s.at n)
  have hm : State.mayMaintain (handOn m (s.at n)).2 = true := State.mayMaintain_iff.2 ⟨hf, .inl hb⟩
  have hu : (handOn m (s.at n)).2.dev.st = .blank := hb
  have e := onMessage_accepted (s := s.at n) maintain h hv hm
  generalize (handOn m (s.at n)).2 = u at *
  rw [maintain_blank _ hu] at e
  obtain ⟨_, before, -⟩ := id ho.log
  have hst := enterMaintenance_st u
  obtain ⟨hstop, hinsts, hsess, hcue⟩ := enterMaintenance_stops u
  have hsent := enterMaintenance_unsent u
  have hlog := enterMaintenance_logs u
  obtain ⟨_, grows, -⟩ := id hlog
  rw [hu] at hlog
  generalize enterMaintenance u = w at *
  exact ⟨_, congrArg Host.Outcome.next e, hst, hstop, hinsts, hsess, hcue, hlog.earlier before, (ho.after hsent grows).refused stOk⟩

theorem completes_maintenanceEnter_cues (hv : s.versionOk m = true) (h : s.head? (fun x => x = 0x0021) = some m) (hc : s.dev.st.cues = true)
    (hf : s.dev.faultN = false) : Completes (.maintenanceEnter n) s fun t => t.dev.st = s.dev.st ∧
      t.dev.maint.length = s.dev.maint.length + 1 ∧ t.port.tx = s.port.tx ∧ t.sched = s.sched := by
  have hb : s.dev.st ≠ .blank := fun e => by rw [e] at hc; cases hc
  have hm : State.mayMaintain (handOn m (s.at n)).2 = true := State.mayMaintain_iff.2 ⟨hf, .inr hc⟩
  have e := onMessage_accepted (s := s.at n) maintain h hv hm
  rw [maintain_cues _ (show (handOn m (s.at n)).2.dev.st ≠ .blank from hb)] at e
  exact ⟨_, congrArg Host.Outcome.next e, rfl, List.length_append, rfl, rfl⟩

end Maintenance

end Sys2Proof.Machine

namespace Sys2Proof.Machine

/-! ### ATTEST, TRACE_READ and COUNTERS_READ (R107, R261, R411) -/

section Reads

variable {s : State} {m : Msg} {n : Nat}

variable {q : Request}

theorem exec_attest (hv : s.versionOk m = true) (h : s.head? (fun x => x = 0x0026) = some m) :
    exec (.attest n) s = .next (attest (handOn m (s.at n)).1 (handOn m (s.at n)).2) :=
  congrArg Host.Outcome.next (onMessage_accepted (s := s.at n) attest h hv (inState := fun _ => true) rfl)

theorem attest_long (h : 32 ≤ q.payload.length) (s : State) : attest q s = reply q stOk (attestRecord s (q.payload.take 32) ++
    edSign s.ident.seed (attestRecord s (q.payload.take 32)) ++ s.ident.serial ++ s.ident.cert) (logEvent 0x090A idSecurity 0 s) :=
  if_neg (Nat.not_lt.2 h)

theorem attest_short (h : q.payload.length < 32) (s : State) : attest q s = refuse q stInvalid s := if_pos h

theorem completes_attest (hv : s.versionOk m = true) (h : s.head? (fun x => x = 0x0026) = some m) (hl : 32 ≤ m.payload.length) :
    Completes (.attest n) s fun t => Replies s t m m.session stOk (attestRecord (s.at n) (m.payload.take 32) ++
      edSign s.ident.seed (attestRecord (s.at n) (m.payload.take 32)) ++ s.ident.serial ++ s.ident.cert) ∧ Newest t 0x090A idSecurity 0 ∧
        t.fuses = s.fuses :=
  ⟨_, (exec_attest hv h).trans (congrArg Host.Outcome.next (attest_long (q := (handOn m (s.at n)).1) hl _)),
    ((handOn_handedOn m (s.at n)).logEvent 0x090A idSecurity 0 rfl rfl).answered _,
    logEvent_newest 0x090A idSecurity 0 (handOn m (s.at n)).2, rfl⟩

theorem completes_attest_short (hv : s.versionOk m = true) (h : s.head? (fun x => x = 0x0026) = some m) (hl : m.payload.length < 32) :
    Completes (.attest n) s fun t => Replies s t m m.session stInvalid [] ∧ t.fuses = s.fuses :=
  ⟨_, (exec_attest hv h).trans (congrArg Host.Outcome.next (attest_short (q := (handOn m (s.at n)).1) hl _)),
    (handOn_handedOn m (s.at n)).refused stInvalid, rfl⟩

theorem completes_countersRead (hv : s.versionOk m = true) (h : s.head? (fun x => x = 0x0032) = some m) :
    Completes (.countersRead n) s fun t => Replies s t m m.session stOk (counterBytes s.mem) ∧ t.mem = s.mem :=
  ⟨_, congrArg Host.Outcome.next (onMessage_accepted (s := s.at n) _ h hv (inState := fun _ => true) rfl),
    (handOn_handedOn m (s.at n)).answered _, rfl⟩

theorem exec_traceRead (hv : s.versionOk m = true) (h : s.head? (fun x => x = 0x0031) = some m) (hr : s.running? = true) :
    exec (.traceRead n) s = .next (traceRead (handOn m (s.at n)).1 (handOn m (s.at n)).2) :=
  congrArg Host.Outcome.next (onMessage_accepted (s := s.at n) traceRead h hv hr)

theorem traceRead_invalid (h : q.payload.length < 1 ∨ 16 ≤ u8 q.payload 0) (s : State) : traceRead q s = refuse q stInvalid s := if_pos h

variable {k : Fin 16}

/-- A press's ring as TRACE_READ's reply carries it. -/
def Press.ring (p : Press) : List Byte :=
  natLe 2 (if p.traced ≤ 256 then 0 else p.traced % 256) ++ List.replicate 6 0 ++ padBytes 8192 (p.trace.reverse.flatMap TraceRec.bytes)

theorem traceRead_press (hl : 1 ≤ q.payload.length) (hk : u8 q.payload 0 = k.1) (s : State) : traceRead q s =
    if !s.forme.tracing || !(s.press.get k).ran then refuse q stAvail s else reply q stOk (s.press.get k).ring s := by
  have hn : ¬(q.payload.length < 1 ∨ 16 ≤ u8 q.payload 0) := by
    have := k.2
    omega
  rw [traceRead, if_neg hn, hk, Fin.ofNat_val_eq_self]
  rfl

theorem traceRead_untraced (hl : 1 ≤ q.payload.length) (hk : u8 q.payload 0 = k.1) (h : s.forme.tracing = false ∨ (s.press.get k).ran = false) :
    traceRead q s = refuse q stAvail s :=
  (traceRead_press hl hk s).trans (if_pos (by rcases h with h | h <;> simp [h]))

theorem traceRead_traced (hl : 1 ≤ q.payload.length) (hk : u8 q.payload 0 = k.1) (ht : s.forme.tracing = true) (hr : (s.press.get k).ran = true) :
    traceRead q s = reply q stOk (s.press.get k).ring s :=
  (traceRead_press hl hk s).trans (if_neg (by simp [ht, hr]))

theorem completes_traceRead_invalid (hv : s.versionOk m = true) (h : s.head? (fun x => x = 0x0031) = some m) (hr : s.running? = true)
    (hb : m.payload.length < 1 ∨ 16 ≤ u8 m.payload 0) : Completes (.traceRead n) s fun t =>
      Replies s t m m.session stInvalid [] ∧ t.press = s.press :=
  ⟨_, (exec_traceRead hv h hr).trans (congrArg Host.Outcome.next (traceRead_invalid (q := (handOn m (s.at n)).1) hb _)),
    (handOn_handedOn m (s.at n)).refused stInvalid, rfl⟩

theorem completes_traceRead_none (hv : s.versionOk m = true) (h : s.head? (fun x => x = 0x0031) = some m) (hr : s.running? = true)
    (hl : 1 ≤ m.payload.length) (hk : u8 m.payload 0 = k.1) (hb : s.forme.tracing = false ∨ (s.press.get k).ran = false) :
    Completes (.traceRead n) s fun t => Replies s t m m.session stAvail [] ∧ t.press = s.press :=
  ⟨_, (exec_traceRead hv h hr).trans (congrArg Host.Outcome.next
      (traceRead_untraced (q := (handOn m (s.at n)).1) (s := (handOn m (s.at n)).2) hl hk hb)),
    (handOn_handedOn m (s.at n)).refused stAvail, rfl⟩

theorem completes_traceRead (hv : s.versionOk m = true) (h : s.head? (fun x => x = 0x0031) = some m) (hr : s.running? = true)
    (hl : 1 ≤ m.payload.length) (hk : u8 m.payload 0 = k.1) (ht : s.forme.tracing = true) (hran : (s.press.get k).ran = true) :
    Completes (.traceRead n) s fun t => Replies s t m m.session stOk (s.press.get k).ring ∧ t.press = s.press :=
  ⟨_, (exec_traceRead hv h hr).trans (congrArg Host.Outcome.next
      (traceRead_traced (q := (handOn m (s.at n)).1) (s := (handOn m (s.at n)).2) hl hk ht hran)),
    (handOn_handedOn m (s.at n)).answered _, rfl⟩

end Reads

/-! ### TENSOR_READ (R257, R439) -/

section TensorRead

variable {s t : State} {m : Msg} {n : Nat} {q : Request} {pl : Play} {x : Tensor} {v w : Value} {a : Nat}

/-- A record of TENSOR_READ that asks for bytes of a tensor that may be read. -/
structure Asks (p : List Byte) (x : Tensor) : Prop where
  long : 20 ≤ p.length
  zero : zeros p 1 4 = true
  len : u32 p 16 ≤ 262096
  fits : u64 p 8 + u32 p 16 ≤ x.size
  kind : x.kind = 0 ∨ x.kind = 2 ∨ x.kind = 5

/-- The answer to a TENSOR_READ once a lost value has been dealt with. -/
def answerTensor (q : Request) (x : Tensor) (s : State) : State :=
  match s.tensorValue (u8 q.payload 0) (u32 q.payload 4) x.kind with
  | some v => if (s.lostPart v (u64 q.payload 8) (u32 q.payload 16)).isSome then refuse q stAvail s
    else reply q stOk (natLe 8 v.run ++ natLe 4 v.serial.toNat ++ [0, 0, 0, 0] ++
      ((padBytes x.size v.bytes).drop (u64 q.payload 8)).take (u32 q.payload 16)) s
  | none => if x.kind = 0 then refuse q stAvail s else reply q stOk (List.replicate (16 + u32 q.payload 16) 0) s

theorem tensorRead_asks (hp : s.play? (u8 q.payload 0) = some pl) (hx : pl.tensors[u32 q.payload 4]? = some x) (h : Asks q.payload x) :
    tensorRead q s = answerTensor q x (readLost (u8 q.payload 0) (u32 q.payload 4) x.kind (u64 q.payload 8) (u32 q.payload 16) s) := by
  have hn : ¬(q.payload.length < 20 ∨ zeros q.payload 1 4 = false ∨ 262096 < u32 q.payload 16 ∨
      x.size < u64 q.payload 8 + u32 q.payload 16 ∨ ¬(x.kind = 0 ∨ x.kind = 2 ∨ x.kind = 5)) := by
    obtain ⟨h1, h2, h3, h4, h5⟩ := h
    rintro (g | g | g | g | g)
    · omega
    · rw [h2] at g; cases g
    · omega
    · omega
    · exact g h5
  simp only [tensorRead, hp, Option.bind_some, hx]
  exact if_neg hn

/-- A malformed record, or one for what is no tensor to read. -/
theorem tensorRead_invalid (h : q.payload.length < 20 ∨ zeros q.payload 1 4 = false ∨ 262096 < u32 q.payload 16 ∨
    s.play? (u8 q.payload 0) = none ∨ ∃ pl, s.play? (u8 q.payload 0) = some pl ∧ (pl.tensors[u32 q.payload 4]? = none ∨
      ∃ x, pl.tensors[u32 q.payload 4]? = some x ∧ (x.size < u64 q.payload 8 + u32 q.payload 16 ∨ ¬(x.kind = 0 ∨ x.kind = 2 ∨ x.kind = 5)))) :
    tensorRead q s = refuse q stInvalid s := by
  unfold tensorRead
  dsimp only
  split
  · rfl
  · next x hx =>
    refine if_pos ?_
    obtain ⟨pl, hp, hx⟩ := Option.bind_eq_some_iff.1 hx
    rcases h with h | h | h | h | ⟨pl', hp', h⟩
    · exact .inl h
    · exact .inr (.inl h)
    · exact .inr (.inr (.inl h))
    · rw [hp] at h; cases h
    · obtain rfl := Option.some.inj (hp.symm.trans hp')
      rcases h with h | ⟨y, hy, h⟩
      · rw [hx] at h; cases h
      · obtain rfl := Option.some.inj (hx.symm.trans hy)
        exact .inr (.inr (.inr h))

theorem readLost_none {play tensor kind off len : Nat} (h : ∀ v, s.tensorValue play tensor kind = some v → s.lostPart v off len = none) :
    readLost play tensor kind off len s = s := by
  unfold readLost
  split
  · rfl
  · next v hv => rw [h v hv]

theorem readLost_some {play tensor kind off len : Nat} (hv : s.tensorValue play tensor kind = some v) (hl : s.lostPart v off len = some a) :
    readLost play tensor kind off len s = loseValue (holderId a) v s := by
  simp only [readLost, hv, hl]

theorem loseValue_safety {u : Byte} (hp : s.play? v.play = some pl) (hk : s.tensorKind v.play v.tensor ≠ 5) (h : pl.kind ≤ 1) :
    loseValue u v s = detect 0x0B u s := by
  simp only [loseValue, hp, if_neg hk, if_pos h]

/-- An invalidation of a cue's outputs leaves what a value is, and where it lies. -/
theorem detect_values (c : Nat) (u : Byte) (s : State) : ∃ g : Value → Value, (detect c u s).sched.values = s.sched.values.map g ∧
    ∀ v, ∃ b, g v = { v with valid := b } := by
  have hs : (detect c u s).sched = (invalidate c s).sched := (curtainStop_apart (m := fun f => decide (f ≠ .sched)) rfl rfl rfl (.refl _ _)).same .sched rfl
  rw [hs]
  unfold invalidate
  split
  · exact ⟨id, (List.map_id _).symm, fun v => ⟨v.valid, rfl⟩⟩
  · refine ⟨_, rfl, fun v => ?_⟩
    split <;> exact ⟨_, rfl⟩

theorem detect_tensorValue {play tensor kind : Nat} (c : Nat) (u : Byte) (hv : s.tensorValue play tensor kind = some v) :
    ∃ b, (detect c u s).tensorValue play tensor kind = some { v with valid := b } := by
  obtain ⟨g, hg, hb⟩ := detect_values c u s
  obtain ⟨b, hgv⟩ := hb v
  have hf : ((fun w : Value => decide (w.play = play) && decide (w.tensor = tensor) && !w.rep && (w.whole || decide (kind = 0))) ∘ g) =
      fun w => decide (w.play = play) && decide (w.tensor = tensor) && !w.rep && (w.whole || decide (kind = 0)) := by
    funext w
    obtain ⟨b, hw⟩ := hb w
    simp only [Function.comp, hw]
  refine ⟨b, ?_⟩
  rw [State.tensorValue, State.value?, hg, List.find?_map, hf, ← hgv]
  exact congrArg (Option.map g) hv

theorem State.lostPart_congr (hm : t.mem = s.mem) (hb : w.bufs = v.bufs) (off len : Nat) : t.lostPart w off len = s.lostPart v off len := by
  rw [State.lostPart, State.lostPart, hm, hb]

theorem detect_mem (c : Nat) (u : Byte) (s : State) : (detect c u s).mem = s.mem :=
  (detect_apart (m := fun f => decide (f ≠ .mem)) rfl rfl rfl rfl rfl (.refl _ s)).same .mem rfl

theorem answerTensor_lost (hv : s.tensorValue (u8 q.payload 0) (u32 q.payload 4) x.kind = some v)
    (hl : s.lostPart v (u64 q.payload 8) (u32 q.payload 16) = some a) : answerTensor q x s = refuse q stAvail s := by
  simp only [answerTensor, hv, hl, Option.isSome_some, if_true]

/-- The fields of TENSOR_READ's reply with a value. -/
def tensorFields (p : List Byte) (x : Tensor) (v : Value) : List Byte :=
  natLe 8 v.run ++ natLe 4 v.serial.toNat ++ [0, 0, 0, 0] ++ ((padBytes x.size v.bytes).drop (u64 p 8)).take (u32 p 16)

theorem answerTensor_value (hv : s.tensorValue (u8 q.payload 0) (u32 q.payload 4) x.kind = some v)
    (hl : s.lostPart v (u64 q.payload 8) (u32 q.payload 16) = none) : answerTensor q x s = reply q stOk (tensorFields q.payload x v) s := by
  simp only [answerTensor, hv, hl, Option.isSome_none, Bool.false_eq_true, if_false, tensorFields]

theorem answerTensor_uncommitted (hv : s.tensorValue (u8 q.payload 0) (u32 q.payload 4) x.kind = none) (hk : x.kind = 0) :
    answerTensor q x s = refuse q stAvail s := by
  simp only [answerTensor, hv, if_pos hk]

theorem answerTensor_zeros (hv : s.tensorValue (u8 q.payload 0) (u32 q.payload 4) x.kind = none) (hk : x.kind ≠ 0) :
    answerTensor q x s = reply q stOk (List.replicate (16 + u32 q.payload 16) 0) s := by
  simp only [answerTensor, hv, if_neg hk]

theorem tensorValue_of {play tensor kind : Nat} (h : s.tensorValue play tensor kind = some v) : v.play = play ∧ v.tensor = tensor := by
  have hv := List.find?_some h
  simp only [Bool.and_eq_true, decide_eq_true_eq] at hv
  exact hv.1.1

/-- Of a safety play a lost value read is a detection, and is not there. -/
theorem tensorRead_lost (hp : s.play? (u8 q.payload 0) = some pl) (hs : pl.kind ≤ 1) (hx : pl.tensors[u32 q.payload 4]? = some x)
    (ha : Asks q.payload x) (hk : x.kind ≠ 5) (hv : s.tensorValue (u8 q.payload 0) (u32 q.payload 4) x.kind = some v)
    (hl : s.lostPart v (u64 q.payload 8) (u32 q.payload 16) = some a) :
    tensorRead q s = refuse q stAvail (detect 0x0B (holderId a) s) := by
  obtain ⟨hplay, htensor⟩ := tensorValue_of hv
  have hkind : s.tensorKind v.play v.tensor ≠ 5 := by
    rw [State.tensorKind, hplay, htensor, hp, Option.bind_some, hx]
    exact hk
  obtain ⟨b, hvb⟩ := detect_tensorValue 0x0B (holderId a) hv
  rw [tensorRead_asks hp hx ha, readLost_some hv hl, loseValue_safety (hplay ▸ hp) hkind hs]
  exact answerTensor_lost hvb ((State.lostPart_congr (detect_mem 0x0B (holderId a) s) rfl _ _).trans hl)

theorem tensorRead_value (hp : s.play? (u8 q.payload 0) = some pl) (hx : pl.tensors[u32 q.payload 4]? = some x) (ha : Asks q.payload x)
    (hv : s.tensorValue (u8 q.payload 0) (u32 q.payload 4) x.kind = some v) (hl : s.lostPart v (u64 q.payload 8) (u32 q.payload 16) = none) :
    tensorRead q s = reply q stOk (tensorFields q.payload x v) s := by
  have hn : ∀ w, s.tensorValue (u8 q.payload 0) (u32 q.payload 4) x.kind = some w → s.lostPart w (u64 q.payload 8) (u32 q.payload 16) = none :=
    fun w hw => Option.some.inj (hv.symm.trans hw) ▸ hl
  rw [tensorRead_asks hp hx ha, readLost_none hn, answerTensor_value hv hl]

theorem tensorRead_valueless (hp : s.play? (u8 q.payload 0) = some pl) (hx : pl.tensors[u32 q.payload 4]? = some x) (ha : Asks q.payload x)
    (hv : s.tensorValue (u8 q.payload 0) (u32 q.payload 4) x.kind = none) : tensorRead q s = answerTensor q x s := by
  rw [tensorRead_asks hp hx ha, readLost_none fun w hw => by rw [hv] at hw; cases hw]

/-- What the message does, once its answer in the state it is handed on to is known. -/
theorem completes_tensorRead {P : State → Prop} (hv : s.versionOk m = true) (h : s.head? (fun x => x = 0x0030) = some m)
    (hr : s.running? = true) (he : tensorRead (handOn m (s.at n)).1 (handOn m (s.at n)).2 = t) (ht : P t) : Completes (.tensorRead n) s P :=
  ⟨t, (congrArg Host.Outcome.next (onMessage_accepted (s := s.at n) tensorRead h hv hr)).trans (congrArg Host.Outcome.next he), ht⟩

theorem completes_tensorRead_refused {st : Nat} (hv : s.versionOk m = true) (h : s.head? (fun x => x = 0x0030) = some m)
    (hr : s.running? = true) (he : tensorRead (handOn m (s.at n)).1 (handOn m (s.at n)).2 = refuse (handOn m (s.at n)).1 st (handOn m (s.at n)).2) :
    Completes (.tensorRead n) s fun t => Replies s t m m.session st [] ∧ t.sched = s.sched :=
  completes_tensorRead hv h hr he ⟨(handOn_handedOn m (s.at n)).refused st, rfl⟩

theorem completes_tensorRead_answered {fields : List Byte} (hv : s.versionOk m = true) (h : s.head? (fun x => x = 0x0030) = some m)
    (hr : s.running? = true)
    (he : tensorRead (handOn m (s.at n)).1 (handOn m (s.at n)).2 = reply (handOn m (s.at n)).1 stOk fields (handOn m (s.at n)).2) :
    Completes (.tensorRead n) s fun t => Replies s t m m.session stOk fields ∧ t.sched = s.sched :=
  completes_tensorRead hv h hr he ⟨(handOn_handedOn m (s.at n)).answered fields, rfl⟩

theorem completes_tensorRead_lost (hv : s.versionOk m = true) (h : s.head? (fun x => x = 0x0030) = some m) (hr : s.running? = true)
    (hp : s.play? (u8 m.payload 0) = some pl) (hs : pl.kind ≤ 1) (hx : pl.tensors[u32 m.payload 4]? = some x) (ha : Asks m.payload x)
    (hk : x.kind ≠ 5) (hval : s.tensorValue (u8 m.payload 0) (u32 m.payload 4) x.kind = some v)
    (hl : s.lostPart v (u64 m.payload 8) (u32 m.payload 16) = some a) :
    Completes (.tensorRead n) s fun t => Replies s t m m.session stAvail [] ∧ Detected s t := by
  refine completes_tensorRead hv h hr
    (tensorRead_lost (q := (handOn m (s.at n)).1) (s := (handOn m (s.at n)).2) hp hs hx ha hk hval hl) ?_
  obtain ⟨_, grows⟩ := (detect_inCue (a1 := 0x0B) (a2 := holderId a) (.refl (handOn m (s.at n)).2)).log
  exact ⟨((handOn_handedOn m (s.at n)).after (detect_unsent _ _ _) grows).refused stAvail,
    (detect_detected 0x0B (holderId a) (handOn m (s.at n)).2).of_published rfl⟩

end TensorRead

section Settled

/-- Settles O57: each message acts on the state it is handed on in, and its reply is queued behind what it did there. -/
theorem deviceMessages : Obligations.DeviceMessages := by
  intro n m s hv
  refine ⟨completes_start hv, completes_maintenanceEnter_blank hv, completes_maintenanceEnter_cues hv, completes_attest hv, ?_, ?_, ?_, ?_,
    completes_attest_short hv, completes_traceRead_invalid hv, fun k => completes_traceRead_none hv, fun k => completes_traceRead hv,
    completes_countersRead hv⟩
  · intro pl x v h hr h20 hz hp hx hk hlen hfit hval hl
    exact completes_tensorRead_answered hv h hr
      (tensorRead_value (q := (handOn m (s.at n)).1) (s := (handOn m (s.at n)).2) hp hx ⟨h20, hz, hlen, hfit, hk⟩ hval hl)
  · intro pl x h hr h20 hz hp hx hlen hfit hval
    have he : (x.kind = 0 ∨ x.kind = 2 ∨ x.kind = 5) → tensorRead (handOn m (s.at n)).1 (handOn m (s.at n)).2 =
        answerTensor (handOn m (s.at n)).1 x (handOn m (s.at n)).2 := fun hk =>
      tensorRead_valueless (q := (handOn m (s.at n)).1) (s := (handOn m (s.at n)).2) hp hx ⟨h20, hz, hlen, hfit, hk⟩ hval
    refine ⟨fun hk => completes_tensorRead_refused hv h hr ((he (.inl hk)).trans ?_),
      fun hk => completes_tensorRead_answered hv h hr ((he (.inr hk)).trans ?_)⟩
    · exact answerTensor_uncommitted (q := (handOn m (s.at n)).1) (s := (handOn m (s.at n)).2) hval hk
    · exact answerTensor_zeros (q := (handOn m (s.at n)).1) (s := (handOn m (s.at n)).2) hval (by omega)
  · intro pl x v a h hr h20 hz hp hs hx hk hlen hfit hval hl
    exact completes_tensorRead_lost hv h hr hp hs hx ⟨h20, hz, hlen, hfit, by omega⟩ (by omega) hval hl
  · intro h hr hb
    exact completes_tensorRead_refused hv h hr (tensorRead_invalid (q := (handOn m (s.at n)).1) (s := (handOn m (s.at n)).2) hb)

end Settled

end Sys2Proof.Machine

namespace Sys2Proof.Machine

/-! ### What a platen that runs on leaves of its press (R108, R120) -/

section Steadiness

variable {a b c r : Press} {s t w : State} {p : Fin 16}

/-- The rows that wait to leave, the operations charged, the compositors and every stagehand's place are as they were. -/
structure Press.Steady (a b : Press) : Prop where
  drainQ : b.drainQ = a.drainQ
  vecOps : b.tally.vecOps = a.tally.vecOps
  comps : b.comps = a.comps
  counter : ∀ h, (b.hands.get h).counter = (a.hands.get h).counter

theorem Press.Steady.of_eq (hd : b.drainQ = a.drainQ) (hv : b.tally.vecOps = a.tally.vecOps) (hc : b.comps = a.comps) (hh : b.hands = a.hands) :
    Press.Steady a b :=
  ⟨hd, hv, hc, fun _ => by rw [hh]⟩

theorem Press.Steady.refl (a : Press) : Press.Steady a a := .of_eq rfl rfl rfl rfl

theorem Press.Steady.trans (h : Press.Steady a b) (g : Press.Steady b c) : Press.Steady a c :=
  ⟨g.drainQ.trans h.drainQ, g.vecOps.trans h.vecOps, g.comps.trans h.comps, fun x => (g.counter x).trans (h.counter x)⟩

theorem Press.Steady.ite {x y : Press} {q : Prop} [Decidable q] (hx : Press.Steady a x) (hy : Press.Steady a y) :
    Press.Steady a (if q then x else y) := by
  split
  · exact hx
  · exact hy

theorem Press.Steady.wakeHands (cyc : Nat) (f : WaitReason → Bool) (h : Press.Steady a b) : Press.Steady a (wakeHands cyc f b) := by
  refine ⟨h.drainQ, h.vecOps, h.comps, fun x => Eq.trans ?_ (h.counter x)⟩
  simp only [Machine.wakeHands, Vector.get_eq_getElem, Vector.getElem_map]
  split <;> rfl

theorem Press.Steady.pushTrace (x : Option TraceRec) (h : Press.Steady a b) : Press.Steady a (pushTrace x b) := by
  cases x <;> exact h.trans (.of_eq rfl rfl rfl rfl)

theorem Press.Steady.closeGroup (f : PressOp) (h : Press.Steady a b) : Press.Steady a (closeGroup f b) := by
  unfold Machine.closeGroup
  split
  · exact h
  · split <;> exact h.trans (.of_eq rfl rfl rfl rfl)

theorem Press.Steady.startFeed (x : Waiting) (xs : List Waiting) (cyc : Nat) (a : Press) : Press.Steady a (startFeed x xs cyc a) := by
  unfold Machine.startFeed
  refine .wakeHands _ _ ?_
  have h : Press.Steady a (a.swapped (pressOp x.w)) := by
    unfold Press.swapped
    split <;> exact .of_eq rfl rfl rfl rfl
  exact h.trans (.of_eq rfl rfl rfl rfl)

theorem noteLine_steady (line bank : Nat) (a : Press) : Press.Steady a (noteLine line bank a) := .of_eq rfl rfl rfl rfl

theorem foldl_steady {α : Type} (l : List α) (f : Press → α → Press) (hf : ∀ r x, Press.Steady r (f r x)) (a : Press) :
    Press.Steady a (l.foldl f a) :=
  List.foldlRecOn l f (motive := fun r => Press.Steady a r) (.refl a) fun r hr x _ => hr.trans (hf r x)

/-- Every press is steady from one state to another. -/
structure Steady (s t : State) : Prop where
  press : ∀ q, Press.Steady (s.press.get q) (t.press.get q)

theorem Steady.of_press (h : t.press = s.press) : Steady s t := ⟨fun q => by
  rw [h]
  exact .refl _⟩

theorem Steady.refl (s : State) : Steady s s := .of_press rfl

theorem Steady.trans (h : Steady s t) (g : Steady t w) : Steady s w := ⟨fun q => (h.press q).trans (g.press q)⟩

theorem Steady.foldl {α : Type} (l : List α) (f : State → α → State) (hf : ∀ w x, Steady w (f w x)) (s : State) : Steady s (l.foldl f s) :=
  List.foldlRecOn l f (motive := fun w => Steady s w) (.refl s) fun w hw x _ => hw.trans (hf w x)

theorem State.modPress_steady {f : Press → Press} (h : Press.Steady (s.press.get p) (f (s.press.get p))) : Steady s (s.modPress p f) := by
  refine ⟨fun q => ?_⟩
  rw [State.modPress_get]
  split
  · next e => exact e ▸ h
  · exact .refl _

theorem Steady.apart (h : Apart butPress s t) : Steady s t := .of_press (h.same .press rfl)

theorem Steady.ite {x y : State} {q : Prop} [Decidable q] (hx : Steady s x) (hy : Steady s y) : Steady s (if q then x else y) := by
  split
  · exact hx
  · exact hy

theorem Steady.tallyOn {f : Tally → Tally} (h : ∀ x, (f x).vecOps = x.vecOps) (hs : Steady s t) : Steady s (tallyOn p f t) :=
  hs.trans (State.modPress_steady (.of_eq rfl (h _) rfl rfl))

theorem setLeft_steady (u : Fin 3) (l : List (Nat × Bool)) (s : State) : Steady s (setLeft p u l s) :=
  State.modPress_steady (.of_eq rfl rfl rfl rfl)

theorem Steady.request (pool part play addr : Nat) (write fill : Bool) (h : Steady s t) :
    Steady s (request pool p part play addr write fill t) := h.trans (.apart (request_apart rfl rfl (.refl _ t)))

theorem Steady.useLine (part d : Nat) (h : Steady s t) : Steady s (useLine part d t) := h.trans (.apart (useLine_apart rfl (.refl _ t)))

theorem moveBlock_steady (pool part play : Nat) (write : Bool) (addr : Nat) (s : State) :
    Steady s (moveBlock pool p part play write addr s) := by
  unfold moveBlock
  dsimp only
  have h : Steady s (tallyOn p (fun t => { t with fabric := t.fabric + 1 }) s) := .tallyOn (fun _ => rfl) (.refl s)
  generalize tallyOn p (fun t => { t with fabric := t.fabric + 1 }) s = w at h
  split
  · exact .request _ _ _ _ _ _ (.tallyOn (fun _ => rfl) h)
  · refine .request _ _ _ _ _ _ (.tallyOn (fun x => ?_) (.ite (.useLine _ _ h) h))
    repeat' split
    all_goals rfl
  · exact h

theorem askBlocks_steady (part play : Nat) (u : Fin 3) (l : List (Nat × Bool)) (s : State) : Steady s (askBlocks p part play u l s) := by
  induction l generalizing s with
  | nil => exact setLeft_steady ..
  | cons x l ih =>
    rw [askBlocks]
    split
    · exact (moveBlock_steady ..).trans (ih _)
    · exact setLeft_steady ..

theorem feed_steady (c : Feeding) (s : State) : Steady s (feed p c s) := by
  unfold feed
  dsimp only
  split
  · exact .refl s
  · refine State.modPress_steady ?_
    split
    · exact .of_eq rfl rfl rfl rfl
    · exact .ite (.closeGroup _ (.pushTrace _ (.of_eq rfl rfl rfl rfl))) (.of_eq rfl rfl rfl rfl)

theorem pump_steady (n : Nat) (s : State) : Steady s (pump p n s) := by
  induction n generalizing s with
  | zero => exact .refl s
  | succ n ih =>
    unfold pump
    split
    · dsimp only
      split
      · exact feed_steady _ s
      · exact (feed_steady _ s).trans (ih _)
    · exact .refl s
    · split
      · exact (State.modPress_steady (.startFeed ..)).trans (ih _)
      · exact .refl s

theorem pumpAll_steady (s : State) : Steady s (pumpAll p s) := pump_steady 11 s

theorem playWrite_steady (play addr : Nat) (bs : List Byte) (s : State) : Steady s (playWrite play addr bs s) :=
  .apart (playWrite_apart rfl (.refl _ s))

theorem compEffect_steady (play : Nat) (ls : List CaseLine) (op : CompOp) (s : State) : Steady s (compEffect p play ls op s) := by
  have lines : Steady s ((ls.foldl (fun s l => caseWrite p l.line l.bank l.bytes l.side s) s).modPress p fun r =>
      ls.foldl (fun r l => noteLine l.line l.bank r) r) :=
    (Steady.foldl ls _ (fun w _ => .apart (caseWrite_apart rfl (.refl _ w))) s).trans
      (State.modPress_steady (foldl_steady ls _ (fun _ _ => noteLine_steady ..) _))
  cases op with
  | store dst n line => exact Steady.foldl (List.range n) _ (fun _ _ => playWrite_steady ..) s
  | skewRows | weightTile | im2col | lines => exact lines

/-- The bytes of a result that the scratch holds from a line on. -/
def resultBytes (split line : Nat) (r : VArr) : List Byte := r.bytes.take (split * 1024 - line * 1024)

/-- A result stands from a line's start on. -/
def writeResult (p : Fin 16) (line : Nat) (bs : List Byte) (s : State) : State :=
  (devWrite (caseBase p.1 + line * 1024) bs s).modPress p fun pr =>
    (List.range ((bs.length + 15) / 16)).foldl (fun pr k => noteLine (line + k / 64) (k % 64) pr) pr

theorem writeResults_cons (p : Fin 16) (line : Nat) (r : VArr) (rs : List VArr) (s : State) :
    writeResults p line (r :: rs) s = writeResults p (line + ((resultBytes (s.mem.split.get p) line r).length + 1023) / 1024) rs
      (writeResult p line (resultBytes (s.mem.split.get p) line r) s) := rfl

theorem writeResult_steady (line : Nat) (bs : List Byte) (s : State) : Steady s (writeResult p line bs s) := by
  have h : Steady s (devWrite (caseBase p.1 + line * 1024) bs s) := .of_press rfl
  exact h.trans (State.modPress_steady (foldl_steady _ _ (fun _ _ => noteLine_steady ..) _))

theorem writeResults_steady (line : Nat) (rs : List VArr) (s : State) : Steady s (writeResults p line rs s) := by
  induction rs generalizing line s with
  | nil => exact .refl s
  | cons r rs ih => exact (writeResult_steady ..).trans (ih _ _)

end Steadiness

/-! ### The places of stagehands (R120) -/

section Places

variable {s t w : State} {p : Fin 16} {h : Fin 8} {i : Inst}

/-- A stagehand's place in its program. -/
def State.counterAt (s : State) (p : Fin 16) (h : Fin 8) : Nat := ((s.press.get p).hands.get h).counter

theorem Steady.counterAt (a : Steady s t) (p : Fin 16) (h : Fin 8) : t.counterAt p h = s.counterAt p h := (a.press p).counter h

/-- No stagehand goes back in its program. -/
def Onward (s t : State) : Prop := ∀ p h, s.counterAt p h ≤ t.counterAt p h

theorem Onward.refl (s : State) : Onward s s := fun _ _ => le_rfl

theorem Onward.trans (a : Onward s t) (b : Onward t w) : Onward s w := fun p h => (a p h).trans (b p h)

theorem Steady.onward (a : Steady s t) : Onward s t := fun p h => (a.counterAt p h).ge

/-- A compositor that is done leaves every stagehand where it is. -/
theorem compNext_counterAt (comp : Fin 2) (s : State) (q : Fin 16) (g : Fin 8) : (compNext p comp s).counterAt q g = s.counterAt q g := by
  unfold compNext
  split
  · unfold State.counterAt
    rw [State.modPress_get]
    split
    · next e => exact e ▸ (Press.Steady.wakeHands s.pressCycle (fun w => w = .queueFull (2 + comp.1)) (.refl _)).counter g
    · rfl
  · rfl

theorem nextMicro_ge {l : List Micro} {k : Nat} {e : Nat × Micro} (h : nextMicro l k = some e) : k ≤ e.1 := by
  obtain ⟨x, hx, he⟩ := List.exists_of_findSome?_eq_some h
  split at he
  · cases he
  · cases he
    obtain ⟨j, hj, hget⟩ := List.mem_iff_getElem.1 hx
    rw [List.getElem_drop, List.getElem_zipIdx] at hget
    have : x.2 = 0 + (k + j) := by rw [← hget]
    omega

theorem nextMicro_mem {l : List Micro} {k : Nat} {e : Nat × Micro} (h : nextMicro l k = some e) : e.2 ∈ l.drop k := by
  obtain ⟨x, hx, he⟩ := List.exists_of_findSome?_eq_some h
  split at he
  · cases he
  · cases he
    have := List.mem_map_of_mem (f := Prod.fst) hx
    rwa [List.map_drop, List.zipIdx_map_fst] at this

theorem handNext_ge {e : Nat × Micro} (he : s.handNext i p h = some e) : s.counterAt p h ≤ e.1 := by
  obtain ⟨l, -, hn⟩ := Option.bind_eq_some_iff.1 he
  exact nextMicro_ge hn

/-- A stagehand before a barrier has it ahead. -/
theorem barrierAhead_of_at {x : Fin 16 × Fin 8} (hx : s.atBarrier i x = true) : s.barrierAhead i x = true := by
  obtain ⟨e, he, hb⟩ := Option.any_eq_true _ _ |>.1 hx
  obtain ⟨l, hl, hn⟩ := Option.bind_eq_some_iff.1 he
  rw [State.barrierAhead, hl]
  exact List.any_eq_true.2 ⟨e.2, nextMicro_mem hn, hb⟩

/-- A barrier behind every stagehand stays behind them. -/
theorem barrierAhead_onward {x : Fin 16 × Fin 8} (a : Onward s t) (hb : s.barrierAhead i x = false) : t.barrierAhead i x = false := by
  cases hl : i.prog x.1 x.2 with
  | none => rw [State.barrierAhead, hl]; rfl
  | some l =>
    rw [State.barrierAhead, hl] at hb ⊢
    refine List.any_eq_false.2 fun m hm => List.any_eq_false.1 hb m ?_
    exact (List.drop_subset_drop_left l (a x.1 x.2)) hm

/-- Only stagehands change, and none goes back. -/
structure HandsMove (s t : State) : Prop where
  drainQ : ∀ q, (t.press.get q).drainQ = (s.press.get q).drainQ
  tally : ∀ q, (t.press.get q).tally = (s.press.get q).tally
  comps : ∀ q, (t.press.get q).comps = (s.press.get q).comps
  onward : Onward s t

theorem HandsMove.refl (s : State) : HandsMove s s := ⟨fun _ => rfl, fun _ => rfl, fun _ => rfl, .refl s⟩

theorem HandsMove.trans (a : HandsMove s t) (b : HandsMove t w) : HandsMove s w :=
  ⟨fun q => (b.drainQ q).trans (a.drainQ q), fun q => (b.tally q).trans (a.tally q), fun q => (b.comps q).trans (a.comps q),
    a.onward.trans b.onward⟩

theorem HandsMove.foldl {α : Type} (l : List α) (f : State → α → State) (hf : ∀ w x, HandsMove w (f w x)) (s : State) :
    HandsMove s (l.foldl f s) :=
  List.foldlRecOn l f (motive := fun w => HandsMove s w) (.refl s) fun w hw x _ => hw.trans (hf w x)

/-- What a change of a press leaves of it, every press keeps. -/
theorem State.modPress_congr {α : Type} (g : Press → α) {f : Press → Press} (hf : ∀ r, g (f r) = g r) (q : Fin 16) :
    g ((s.modPress p f).press.get q) = g (s.press.get q) := by
  rw [State.modPress_get]
  split
  · next e => exact e ▸ hf _
  · rfl

/-- A stagehand's record changes, its place not backwards. -/
theorem modHand_handsMove {f : Stagehand → Stagehand} (hf : s.counterAt p h ≤ (f ((s.press.get p).hands.get h)).counter) :
    HandsMove s (s.modPress p fun r => { r with hands := vmod r.hands h f }) := by
  refine ⟨State.modPress_congr Press.drainQ fun _ => rfl, State.modPress_congr Press.tally fun _ => rfl,
    State.modPress_congr Press.comps fun _ => rfl, fun q g => ?_⟩
  unfold State.counterAt
  rw [State.modPress_get]
  split
  · next e =>
    subst e
    dsimp only
    rw [vmod_get]
    split
    · next e => exact e ▸ hf
    · exact le_rfl
  · exact le_rfl

theorem waitHand_handsMove (p : Fin 16) (h : Fin 8) (w : WaitReason) (s : State) : HandsMove s (waitHand p h w s) := modHand_handsMove le_rfl

/-- A stagehand goes on past its barrier. -/
def passBarrier (i : Inst) (s : State) (x : Fin 16 × Fin 8) : State :=
  s.modPress x.1 fun r => { r with hands := vmod r.hands x.2 fun y =>
    { y with counter := ((s.handNext i x.1 x.2).map fun e => e.1 + 1).getD y.counter, wait := .none, since := s.pressCycle } }

theorem passBarrier_handsMove (i : Inst) (s : State) (x : Fin 16 × Fin 8) : HandsMove s (passBarrier i s x) := by
  refine modHand_handsMove ?_
  cases he : s.handNext i x.1 x.2 with
  | none => exact le_rfl
  | some e => exact (handNext_ge he).trans (Nat.le_succ _)

theorem meetBarrier_handsMove (i : Inst) (s : State) : HandsMove s (meetBarrier i s) := by
  unfold meetBarrier
  dsimp only
  generalize hw : (i.hands.filter fun x => s.atBarrier i x && decide (((s.press.get x.1).hands.get x.2).wait = .none)).foldl
    (fun s x => waitHand x.1 x.2 .barrier s) s = w
  have h : HandsMove s w := hw ▸ HandsMove.foldl _ _ (fun _ _ => waitHand_handsMove ..) s
  split
  · exact h.trans (HandsMove.foldl _ (passBarrier i) (passBarrier_handsMove i) w)
  · exact h

/-- No stagehand meets a barrier where none is ahead. -/
theorem meetBarrier_behind (hb : ∀ x ∈ i.hands, s.barrierAhead i x = false) : meetBarrier i s = s := by
  have hat : (i.hands.filter fun x => s.atBarrier i x && decide (((s.press.get x.1).hands.get x.2).wait = .none)) = [] := by
    refine List.filter_eq_nil_iff.2 fun x hx h => ?_
    have := barrierAhead_of_at (Bool.and_eq_true _ _ ▸ h).1
    rw [hb x hx] at this
    cases this
  have hdue : i.hands.filter (s.barrierAhead i) = [] := List.filter_eq_nil_iff.2 fun x hx => by simp [hb x hx]
  simp only [meetBarrier, hat, List.foldl_nil, hdue, ite_self]

/-- A stagehand that may issue has not passed the place. -/
theorem mayIssue_counter {idx : Nat} {m : Micro} (hm : s.mayIssue p h idx m = true) : s.counterAt p h ≤ idx := by
  unfold State.mayIssue at hm
  simp only [Bool.and_eq_true, decide_eq_true_eq] at hm
  exact hm.1.1.2

/-- The press once a stagehand has issued. -/
theorem issued_counterAt (cyc idx : Nat) (f : Press → Press) (s : State) :
    (s.modPress p fun r => issued cyc h idx (f r)).counterAt p h = idx + 1 := by
  rw [State.counterAt, State.modPress_self, issued]
  dsimp only
  rw [vmod_get, if_pos rfl]

theorem issued_onward {idx : Nat} {f : Press → Press} (cyc : Nat) (hf : ∀ r, (f r).hands = r.hands) (hc : s.counterAt p h ≤ idx) :
    Onward s (s.modPress p fun r => issued cyc h idx (f r)) := by
  intro q g
  unfold State.counterAt
  rw [State.modPress_get]
  split
  · next e =>
    subst e
    rw [issued]
    dsimp only
    rw [vmod_get, hf]
    split
    · next e => exact e ▸ hc.trans (Nat.le_succ _)
    · exact le_rfl
  · exact le_rfl

/-- What the rest of an issue does once a stagehand has passed on: it stays past the place, and where no barrier is ahead, just there. -/
theorem meetBarrier_issued {idx : Nat} (ho : Onward s t) (hc : t.counterAt p h = idx + 1) :
    idx < (meetBarrier i t).counterAt p h ∧
      ((∀ x ∈ i.hands, s.barrierAhead i x = false) → (meetBarrier i t).counterAt p h = idx + 1) := by
  refine ⟨Nat.lt_of_lt_of_le (hc ▸ Nat.lt_succ_self idx) ((meetBarrier_handsMove i t).onward p h), fun hb => ?_⟩
  rw [meetBarrier_behind fun x hx => barrierAhead_onward ho (hb x hx), hc]

end Places

end Sys2Proof.Machine

namespace Sys2Proof.Machine

/-! ### What leaves the bytes of the device memory (R228, R241, R302) -/

section Cells

variable {s t w : State} {i : Inst} {p : Fin 16} {cause : Nat}

/-- The bytes of the device memory and the cases' splits are as they were. -/
structure SameCells (s t : State) : Prop where
  cells : t.mem.cells = s.mem.cells
  split : t.mem.split = s.mem.split

theorem SameCells.of_mem (h : t.mem = s.mem) : SameCells s t := by
  constructor <;> rw [h]

theorem SameCells.refl (s : State) : SameCells s s := .of_mem rfl

theorem SameCells.trans (a : SameCells s t) (b : SameCells t w) : SameCells s w := ⟨b.cells.trans a.cells, b.split.trans a.split⟩

theorem SameCells.ite {x y : State} {q : Prop} [Decidable q] (hx : SameCells s x) (hy : SameCells s y) :
    SameCells s (if q then x else y) := by
  split
  · exact hx
  · exact hy

theorem SameCells.foldl {α : Type} (l : List α) (f : State → α → State) (h : SameCells s t) (hf : ∀ w x, SameCells w (f w x)) :
    SameCells s (l.foldl f t) :=
  List.foldlRecOn l f (motive := fun w => SameCells s w) h fun w hw x _ => hw.trans (hf w x)

/-- Every field but the memory. -/
def butMem : Field → Bool := fun f => decide (f ≠ .mem)

theorem SameCells.apart (h : Apart butMem s t) : SameCells s t := .of_mem (h.same .mem rfl)

theorem State.modPart_sameCells (part : Nat) (f : PartRt → PartRt) (s : State) : SameCells s (s.modPart part f) :=
  .apart (State.modPart_apart rfl (.refl _ s))

theorem takeCtl_sameCells (s : State) (x : Tracker) : SameCells s (takeCtl s x) := by
  unfold takeCtl
  split
  · exact .ite ⟨rfl, rfl⟩ (.refl s)
  · exact .refl s

theorem passOne_sameCells (part : Nat) (o : Owed) (s : State) : SameCells s (passOne part o s) := by
  unfold passOne takeCtls
  have h := State.modPart_sameCells part (fun r => { r with bucket := r.bucket - 1 - (if o.fill then 3 else 0) }) s
  exact .foldl _ _ ⟨h.cells, h.split⟩ takeCtl_sameCells

theorem passOwed_sameCells (part : Nat) (l : List Owed) (s : State) : SameCells s (passOwed part l s) := by
  induction l generalizing s with
  | nil => exact State.modPart_sameCells ..
  | cons o l ih =>
    rw [passOwed]
    exact .ite ((passOne_sameCells part o s).trans (ih _)) (State.modPart_sameCells ..)

theorem SameCells.request (pool part play addr : Nat) (write fill : Bool) (h : SameCells s t) :
    SameCells s (request pool p part play addr write fill t) := by
  unfold Machine.request queueReq
  dsimp only
  refine .ite (SameCells.trans ?_ (passOwed_sameCells ..)) ?_
  · exact ⟨h.cells, h.split⟩
  · exact ⟨h.cells, h.split⟩

theorem SameCells.useLine (part d : Nat) (h : SameCells s t) : SameCells s (useLine part d t) := by
  unfold Machine.useLine
  exact .ite h ⟨h.cells, h.split⟩

theorem moveBlock_sameCells (pool part play : Nat) (write : Bool) (addr : Nat) (s : State) :
    SameCells s (moveBlock pool p part play write addr s) := by
  unfold moveBlock
  dsimp only
  have tallied : ∀ f (w : State), SameCells w (tallyOn p f w) := fun f w => .of_mem rfl
  have h := tallied (fun t => { t with fabric := t.fabric + 1 }) s
  generalize tallyOn p (fun t => { t with fabric := t.fabric + 1 }) s = w at h
  split
  · exact .request _ _ _ _ _ _ (h.trans (tallied _ _))
  · exact .request _ _ _ _ _ _ (SameCells.trans (.ite (.useLine _ _ h) h) (tallied _ _))
  · exact h

theorem askBlocks_sameCells (part play : Nat) (u : Fin 3) (l : List (Nat × Bool)) (s : State) :
    SameCells s (askBlocks p part play u l s) := by
  induction l generalizing s with
  | nil => exact .of_mem rfl
  | cons x l ih =>
    rw [askBlocks]
    exact .ite ((moveBlock_sameCells ..).trans (ih _)) (.of_mem rfl)

theorem unmapPage_sameCells (play page : Nat) (s : State) : SameCells s (unmapPage play page s) := by
  have dropped : ∀ dev, SameCells s (startDrop play page dev s) := fun dev => by
    unfold startDrop
    split
    · exact .refl s
    · exact ⟨rfl, rfl⟩
  unfold unmapPage
  split
  · exact .refl s
  · exact ⟨(dropped _).cells, (dropped _).split⟩

theorem unmapBufs_sameCells (i : Inst) (s : State) : SameCells s (unmapBufs i s) :=
  SameCells.foldl _ _ (.foldl _ _ (.refl s) fun _ _ => unmapPage_sameCells ..) fun w _ => .ite (.refl w) (unmapPage_sameCells ..)

theorem dropRequests_sameCells (ps : List (Fin 16)) (s : State) : SameCells s (dropRequests ps s) := ⟨rfl, rfl⟩

theorem releaseRun_sameCells (cause : Nat) (i : Inst) (s : State) : SameCells s (releaseRun cause i s) := by
  have noted : SameCells s ((logKill i cause (chargeRun i s)).modPart i.part (bump PartRt.kills (fun r v => { r with kills := v }) 2)) :=
    .apart (State.modPart_apart rfl (logKill_apart rfl rfl (chargeRun_apart rfl rfl rfl rfl (.refl _ _))))
  have buried := (noted.trans (dropRequests_sameCells i.presses _)).trans (.apart (buryBufs_apart (a1 := i) rfl (.refl _ _)))
  exact (SameCells.foldl i.presses _ buried fun w p => .apart (flushPress_apart rfl rfl (.refl _ w))).trans (unmapBufs_sameCells i _)

theorem killInst_sameCells (cause : Nat) (k : InstKey) (s : State) : SameCells s (killInst cause k s) := by
  rcases killInst_cases cause k s with e | ⟨i, -, -, e⟩
  · rw [e]
    exact .refl s
  · have he : SameCells s (endRun cause i s) := (releaseRun_sameCells cause i s).trans (.of_mem rfl)
    rw [e]
    exact .ite (he.trans (.of_mem rfl)) he

theorem sceneFault_sameCells (idx : Nat) (hf : i.faultIdx = none) (s : State) : SameCells s (sceneFault cause p idx i s) := by
  rw [sceneFault_first idx hf]
  exact (killInst_sameCells cause i.key s).trans (.of_mem rfl)

end Cells

/-! ### Scenes that fault at issue (R106, R229) -/

section Faults

variable {s : State} {i : Inst} {p : Fin 16} {n : Nat}

/-- An event, then the run's first fault. -/
theorem sceneFault_effect {cause : Nat} (code idx d : Nat) (hc : cause ≠ 14) (hi : s.inst? i.key = some i) (hr : i.st = .running)
    (hf : i.faultIdx = none) : Logs s (sceneFault cause p idx i (logEvent code (pressId p) d s)) code (pressId p) d ∧
      Requeued (sceneFault cause p idx i (logEvent code (pressId p) d s)) i.key [p] ∧
      (sceneFault cause p idx i (logEvent code (pressId p) d s)).mem.cells = s.mem.cells := by
  obtain ⟨_, grows⟩ := (sceneFault_inCue (a1 := cause) (a2 := p) (a3 := idx) (a4 := i) (.refl (logEvent code (pressId p) d s))).log
  exact ⟨(logEvent_logs code (pressId p) d s).later grows, sceneFault_requeued idx hc hi hr hf,
    (sceneFault_sameCells idx hf (logEvent code (pressId p) d s)).cells⟩

theorem translationFault_effect (idx d : Nat) (hi : s.inst? i.key = some i) (hr : i.st = .running) (hf : i.faultIdx = none) :
    Logs s (translationFault p idx d i s) 0x0410 (pressId p) d ∧ Requeued (translationFault p idx d i s) i.key [p] ∧
      (translationFault p idx d i s).mem.cells = s.mem.cells := sceneFault_effect 0x0410 idx d (by decide) hi hr hf

theorem illegalOp_effect (idx d : Nat) (hi : s.inst? i.key = some i) (hr : i.st = .running) (hf : i.faultIdx = none) :
    Logs s (illegalOp p idx d i s) 0x0310 (pressId p) d ∧ Requeued (illegalOp p idx d i s) i.key [p] ∧
      (illegalOp p idx d i s).mem.cells = s.mem.cells := sceneFault_effect 0x0310 idx d (by decide) hi hr hf

end Faults

end Sys2Proof.Machine

namespace Sys2Proof.Machine

/-! ### Entries whose parity fails at a lookup (R255) -/

section Lookups

variable {s : State} {n : Nat} {p q : Fin 16} {i : Inst} {tags : List TagErr}

theorem lmod_of_false {α : Type} {f : α → Bool} (g : α → α) {l : List α} (h : ∀ x ∈ l, f x = false) : lmod f g l = l :=
  (List.map_congr_left fun x hx => if_neg (by simp [h x hx])).trans (List.map_id l)

@[simp] theorem tagErrs_nil (p : Fin 16) (s : State) : tagErrs p [] s = s := by
  have h : lmod (fun t : Tracker => decide (t.press = some p ∧ TagErr.request t.play t.addr ∈ ([] : List TagErr)))
      (fun t => { t with drop := true }) s.mem.trackers = s.mem.trackers := lmod_of_false _ fun _ _ => by simp
  rw [tagErrs, h]
  simp

@[simp] theorem tagErrs_at : (tagErrs p tags s).at n = tagErrs p tags (s.at n) := rfl

@[simp] theorem tagErrs_runOn : (tagErrs p tags s).runOn q = s.runOn q := rfl

@[simp] theorem tagErrs_mayIssue {h : Fin 8} {idx : Nat} {m : Micro} : (tagErrs p tags s).mayIssue q h idx m = s.mayIssue q h idx m := rfl

@[simp] theorem State.at_playByte (play : Nat) : (s.at n).playByte play = s.playByte play := rfl

@[simp] theorem State.at_bandRow (x : Nat × Bool × Nat) : (s.at n).bandRow i p x = s.bandRow i p x := rfl

@[simp] theorem State.at_bandReady (x : Nat × Bool × Nat) : (s.at n).bandReady i p x = s.bandReady i p x := rfl

@[simp] theorem State.at_compWait (play : Nat) (bs : List Nat) : (s.at n).compWait p play bs = s.compWait p play bs := rfl

@[simp] theorem State.at_accessFaults (play : Nat) (w : Bool) (bs : List Nat) : (s.at n).accessFaults play w bs = s.accessFaults play w bs := by
  induction bs with
  | nil => rfl
  | cons a bs ih =>
    rw [State.accessFaults, State.accessFaults, ih]
    rfl

@[simp] theorem State.at_runFaults (w : Bool) (bs : List Nat) : (s.at n).runFaults i w bs = s.runFaults i w bs := by
  rw [State.runFaults, State.runFaults, State.at_accessFaults]
  rfl

@[simp] theorem State.at_poisonedIn (play : Nat) (bs : List Nat) : (s.at n).poisonedIn play bs = s.poisonedIn play bs := rfl

end Lookups

/-! ### COMPOSITOR_WRITE (R103, R182) -/

section CompositorWrite

variable {s : State} {n idx : Nat} {p : Fin 16} {comp : Fin 2} {h : Fin 8} {bleed : Option (Nat × Bool × Nat)} {op : CompOp}
  {tags : List TagErr} {errs : List MemErr} {i : Inst} {x : Nat × Bool × Nat} {v : WaitReason} {d : Nat} {ls : List CaseLine} {bs : List Nat}
  {wr : Bool}

theorem exec_compositorWrite_tags (hi : s.runOn p = some i) (hm : (s.at n).mayIssue p h idx (.compositor comp bleed op) = true) :
    exec (.compositorWrite n p idx comp h bleed op tags errs) s = exec (.compositorWrite n p idx comp h bleed op [] errs) (tagErrs p tags s) := by
  change execCompositorWrite .. = execCompositorWrite ..
  simp only [execCompositorWrite, tagErrs_at, tagErrs_mayIssue, tagErrs_runOn, State.at_runOn, hm, hi, if_true, tagErrs_nil]

theorem exec_compositorWrite_none (hn : s.runOn p = none ∨ (s.at n).mayIssue p h idx (.compositor comp bleed op) = false) :
    exec (.compositorWrite n p idx comp h bleed op tags errs) s = .next (s.at n) := by
  change execCompositorWrite .. = _
  rcases hn with hn | hn <;> simp only [execCompositorWrite, State.at_runOn, hn, ite_self, Bool.false_eq_true, if_false]

section Turn

/-- A run's stagehand may issue COMPOSITOR_WRITE: its bleed row, where it has one, is a row of the band, and its compositor is free. -/
structure CompositorTurn (n : Nat) (p : Fin 16) (idx : Nat) (comp : Fin 2) (h : Fin 8) (bleed : Option (Nat × Bool × Nat)) (op : CompOp) (i : Inst)
    (s : State) : Prop where
  run : s.runOn p = some i
  may : (s.at n).mayIssue p h idx (.compositor comp bleed op) = true
  rows : (bleed.any fun x => !s.bandRow i p x) = false
  free : (s.press.get p).comps.get comp = none

theorem exec_compositorWrite_beyond (hi : s.runOn p = some i) (hm : (s.at n).mayIssue p h idx (.compositor comp bleed op) = true)
    (hr : (bleed.any fun x => !s.bandRow i p x) = true) : exec (.compositorWrite n p idx comp h bleed op [] errs) s = .next (s.at n) := by
  change execCompositorWrite .. = _
  simp only [execCompositorWrite, State.at_runOn, hm, hi, if_true, tagErrs_nil, State.at_bandRow, hr]

theorem exec_compositorWrite_busy (hi : s.runOn p = some i) (hm : (s.at n).mayIssue p h idx (.compositor comp bleed op) = true)
    (hr : (bleed.any fun x => !s.bandRow i p x) = false) (hc : ((s.press.get p).comps.get comp).isSome = true) :
    exec (.compositorWrite n p idx comp h bleed op [] errs) s = .next (waitHand p h (.queueFull (2 + comp.1)) (s.at n)) := by
  change execCompositorWrite .. = _
  simp only [execCompositorWrite, State.at_runOn, hm, hi, if_true, tagErrs_nil, State.at_bandRow, hr, Bool.false_eq_true, if_false,
    State.at_press, hc]

theorem exec_compositorWrite_unready (c : CompositorTurn n p idx comp h bleed op i s) (hx : bleed = some x) (hr : s.bandReady i p x = false) :
    exec (.compositorWrite n p idx comp h bleed op [] errs) s = .next (waitHand p h (.rowReady x.1 (x.2.2 + 1) x.2.1) (s.at n)) := by
  obtain ⟨hi, hm, hrows, hc⟩ := c
  change execCompositorWrite .. = _
  subst hx
  simp only [execCompositorWrite, State.at_runOn, hm, hi, if_true, tagErrs_nil, State.at_bandRow, hrows, Bool.false_eq_true, if_false,
    State.at_press, hc, Option.isSome_none, State.at_bandReady, Option.filter_some, hr, Bool.not_false]

/-- Its bleed row is ready too, and the operation with its lines and blocks stays in the scratch. -/
structure CompositorClear (n : Nat) (p : Fin 16) (idx : Nat) (comp : Fin 2) (h : Fin 8) (bleed : Option (Nat × Bool × Nat)) (op : CompOp) (i : Inst)
    (ls : List CaseLine) (bs : List Nat) (wr : Bool) (s : State) : Prop extends CompositorTurn n p idx comp h bleed op i s where
  ready : (bleed.filter fun x => !s.bandReady i p x) = none
  scratch : inScratch (s.mem.split.get p) ls op = true
  lines : fillLines (s.playByte i.key.play) op = ls
  blocks : compBlocks ls op = (bs, wr)

theorem exec_compositorWrite_outside (c : CompositorTurn n p idx comp h bleed op i s) (hr : (bleed.filter fun x => !s.bandReady i p x) = none)
    (ho : inScratch (s.mem.split.get p) (fillLines (s.playByte i.key.play) op) op = false) :
    exec (.compositorWrite n p idx comp h bleed op [] errs) s = .next (s.at n) := by
  obtain ⟨hi, hm, hrows, hc⟩ := c
  change execCompositorWrite .. = _
  simp only [execCompositorWrite, State.at_runOn, hm, hi, if_true, tagErrs_nil, State.at_bandRow, hrows, Bool.false_eq_true, if_false,
    State.at_press, hc, Option.isSome_none, State.at_bandReady, hr, State.at_mem, State.at_playByte, ho, Bool.not_false]

/-- The compositor's part of an issue: it asks for its blocks, is busy, and its stagehand passes on. -/
def compositorIssue (p : Fin 16) (idx : Nat) (comp : Fin 2) (h : Fin 8) (op : CompOp) (i : Inst) (ls : List CaseLine) (bs : List Nat) (wr : Bool)
    (s : State) : State :=
  let s := askBlocks p i.part i.key.play (Fin.ofNat 3 (1 + comp.1)) (bs.map fun a => (a, wr)) (compEffect p i.key.play ls op s)
  s.modPress p fun r => issued s.pressCycle h idx { r with
    comps := vmod r.comps comp fun _ => some 0#128, compAt := vmod r.compAt comp fun _ => s.now
    tally := { r.tally with comp := r.tally.comp + if wr then bs.length else (ls.length + 3) / 4 } }

/-- What a compositor's micro-operation meets in place of its blocks, or its issue. -/
def compositorMoves (p : Fin 16) (idx : Nat) (comp : Fin 2) (h : Fin 8) (op : CompOp) (errs : List MemErr) (i : Inst) (ls : List CaseLine)
    (bs : List Nat) (wr : Bool) (s : State) : State :=
  match s.compWait p i.key.play bs, s.runFaults i wr bs, (if wr then none else s.poisonedIn i.key.play bs) with
  | some w, _, _ => waitHand p h w s
  | none, some d, _ => translationFault p idx d i s
  | none, none, some d => poisonRead (holderId d) d i.key s
  | none, none, none =>
    if ((memErrs errs (some i.key) s).runOn p).map Inst.key ≠ some i.key then memErrs errs (some i.key) s
    else meetBarrier i (pumpAll p (compNext p comp (compositorIssue p idx comp h op i ls bs wr (memErrs errs (some i.key) s))))

theorem exec_compositorWrite_clear (c : CompositorClear n p idx comp h bleed op i ls bs wr s) :
    exec (.compositorWrite n p idx comp h bleed op [] errs) s = .next (compositorMoves p idx comp h op errs i ls bs wr (s.at n)) := by
  obtain ⟨⟨hi, hm, hrows, hc⟩, hr, hs, rfl, hb⟩ := c
  change execCompositorWrite .. = _
  simp only [execCompositorWrite, State.at_runOn, hm, hi, if_true, tagErrs_nil, State.at_bandRow, hrows, Bool.false_eq_true, if_false,
    State.at_press, hc, Option.isSome_none, State.at_bandReady, hr, State.at_mem, State.at_playByte, hs, Bool.not_true, hb, compositorMoves]
  cases (s.at n).compWait p i.key.play bs with
  | some w => rfl
  | none =>
    cases (s.at n).runFaults i wr bs with
    | some d => rfl
    | none =>
      cases (if wr then none else (s.at n).poisonedIn i.key.play bs : Option Nat) with
      | some d => rfl
      | none => exact (apply_ite Host.Outcome.next _ _ _).symm

end Turn

/-! #### The issue -/

theorem playWrite_at (play a : Nat) (bytes : List Byte) (s : State) : playWrite play a bytes (s.at n) = (playWrite play a bytes s).at n := by
  unfold playWrite
  rw [show (s.at n).translate play a = s.translate play a from rfl]
  cases s.translate play a <;> rfl

theorem caseWrite_at (line bank : Nat) (bytes : List Byte) (side : Byte) (s : State) :
    caseWrite p line bank bytes side (s.at n) = (caseWrite p line bank bytes side s).at n := by
  unfold caseWrite
  split <;> rfl

/-- What an operation writes does not turn on the time. -/
theorem compEffect_at (play : Nat) (ls : List CaseLine) (op : CompOp) (s : State) :
    compEffect p play ls op (s.at n) = (compEffect p play ls op s).at n := by
  have lines : ls.foldl (fun s l => caseWrite p l.line l.bank l.bytes l.side s) (s.at n) =
      (ls.foldl (fun s l => caseWrite p l.line l.bank l.bytes l.side s) s).at n :=
    List.foldl_hom (f := (State.at · n)) fun w l => caseWrite_at l.line l.bank l.bytes l.side w
  cases op with
  | store dst k line =>
    exact List.foldl_hom (f := (State.at · n)) fun w j => playWrite_at play (dst + 64 * j) (w.caseBlock p (line + j / 16) (j % 16)) w
  | skewRows | weightTile | im2col | lines =>
    simp only [compEffect, lines]
    rfl

theorem compositorIssue_sameCells (s : State) :
    SameCells (compEffect p i.key.play ls op s) (compositorIssue p idx comp h op i ls bs wr s) :=
  (askBlocks_sameCells ..).trans (.of_mem rfl)

theorem compositorIssue_counterAt (s : State) : (compositorIssue p idx comp h op i ls bs wr s).counterAt p h = idx + 1 :=
  issued_counterAt _ _ _ _

theorem compositorIssue_onward (hc : s.counterAt p h ≤ idx) : Onward s (compositorIssue p idx comp h op i ls bs wr s) := by
  have asked := (compEffect_steady (p := p) i.key.play ls op s).trans
    (askBlocks_steady (p := p) i.part i.key.play (Fin.ofNat 3 (1 + comp.1)) (bs.map fun a => (a, wr)) _)
  exact asked.onward.trans (issued_onward _ (fun _ => rfl) ((asked.counterAt p h).trans_le hc))

/-- The fields that a micro-operation of a run changes. -/
def issueFields : Field → Bool := fun f => decide (f ∈ [Field.part, .mem, .press])

theorem compositorIssue_apart (s : State) : Apart issueFields s (compositorIssue p idx comp h op i ls bs wr s) :=
  State.modPress_apart rfl (askBlocks_apart rfl rfl rfl (compEffect_apart rfl rfl (.refl _ s)))

/-- The state in which a compositor's micro-operation has issued. -/
theorem compositorIssue_effect (hc : s.counterAt p h ≤ idx) {t : State}
    (ht : t = meetBarrier i (pumpAll p (compNext p comp (compositorIssue p idx comp h op i ls bs wr s)))) :
    t.mem.cells = (compEffect p i.key.play ls op s).mem.cells ∧ idx < t.counterAt p h ∧
      ((∀ x ∈ i.hands, s.barrierAhead i x = false) → t.counterAt p h = idx + 1) ∧ t.sched = s.sched ∧ t.log = s.log ∧ t.units = s.units := by
  subst ht
  have rest : ∀ q g, (pumpAll p (compNext p comp (compositorIssue p idx comp h op i ls bs wr s))).counterAt q g =
      (compositorIssue p idx comp h op i ls bs wr s).counterAt q g := fun q g =>
    ((pumpAll_steady _).counterAt q g).trans (compNext_counterAt comp _ q g)
  have after : Apart (fun f => decide (f = .press)) (compositorIssue p idx comp h op i ls bs wr s)
      (meetBarrier i (pumpAll p (compNext p comp (compositorIssue p idx comp h op i ls bs wr s)))) :=
    meetBarrier_apart rfl (pumpAll_apart rfl (compNext_apart rfl (.refl _ _)))
  have issue := compositorIssue_apart (p := p) (idx := idx) (comp := comp) (h := h) (op := op) (i := i) (ls := ls) (bs := bs) (wr := wr) s
  obtain ⟨past, there⟩ := meetBarrier_issued (i := i) ((compositorIssue_onward hc).trans fun q g => (rest q g).ge)
    ((rest p h).trans (compositorIssue_counterAt s))
  exact ⟨(congrArg Mem.cells (after.same .mem rfl)).trans (compositorIssue_sameCells s).cells, past, there,
    (after.same .sched rfl).trans (issue.same .sched rfl), (after.same .log rfl).trans (issue.same .log rfl),
    (after.same .units rfl).trans (issue.same .units rfl)⟩

end CompositorWrite
end Sys2Proof.Machine

namespace Sys2Proof.Machine

/-! ### XFER and XFER_COMPLETE (R248, R249) -/

section Transfer

variable {s : State} {n idx : Nat} {p : Fin 16} {w : W128} {tags : List TagErr} {errs : List MemErr} {i : Inst} {d : Nat} {v : WaitReason}

theorem exec_xfer_tags (hi : s.runOn p = some i) (hm : (s.at n).mayIssue p (xferOp w).sth idx (.xfer w) = true) :
    exec (.xfer n p idx w tags errs) s = exec (.xfer n p idx w [] errs) (tagErrs p tags s) := by
  change execXfer .. = execXfer ..
  simp only [execXfer, tagErrs_at, tagErrs_mayIssue, tagErrs_runOn, State.at_runOn, hm, hi, if_true, tagErrs_nil]

theorem exec_xfer_none (hn : s.runOn p = none ∨ (s.at n).mayIssue p (xferOp w).sth idx (.xfer w) = false) :
    exec (.xfer n p idx w tags errs) s = .next (s.at n) := by
  change execXfer .. = _
  rcases hn with hn | hn <;> simp only [execXfer, State.at_runOn, hn, ite_self, Bool.false_eq_true, if_false]

theorem exec_xfer_busy (hi : s.runOn p = some i) (hm : (s.at n).mayIssue p (xferOp w).sth idx (.xfer w) = true)
    (hc : ((s.press.get p).comps.get (xferOp w).cmp).isSome = true) :
    exec (.xfer n p idx w [] errs) s = .next (waitHand p (xferOp w).sth (.queueFull (2 + (xferOp w).cmp.1)) (s.at n)) := by
  change execXfer .. = _
  simp only [execXfer, State.at_runOn, hm, hi, if_true, tagErrs_nil, State.at_press, hc]

/-- The state in which the blocks of an XFER have been written and asked for. -/
def xferAsked (p : Fin 16) (w : W128) (i : Inst) (s : State) : State :=
  askBlocks p i.part i.key.play (Fin.ofNat 3 (1 + (xferOp w).cmp.1))
    ((blockRange (xferOp w).src (xferOp w).len).map (fun a => (a, false)) ++ (blockRange (xferOp w).dst (xferOp w).len).map fun a => (a, true))
    (playWrite i.key.play (xferOp w).dst (s.playBytes i.key.play (xferOp w).src (64 * (xferOp w).len)) s)

/-- The trace record of an XFER as issued, where tracing is on. -/
def State.xferRecord (s : State) (w : W128) : Option TraceRec :=
  if s.forme.tracing then some (xferTrace w (s.pressCycle - s.cue.b * s.ident.mhz / 400)) else none

/-- The issue of an XFER in its run: its blocks are copied and asked for, it is noted in its run, the compositor is busy, and its stagehand
passes on. -/
def xferIssue (p : Fin 16) (idx : Nat) (w : W128) (i : Inst) (s : State) : State :=
  let f := xferOp w
  let s := (xferAsked p w i s).modInst i.key fun i => { i with xfers := (f.src, f.dst, f.len) :: i.xfers }
  s.modPress p fun r => issued s.pressCycle f.sth idx (pushTrace (s.xferRecord w) { r with
    comps := vmod r.comps f.cmp fun _ => some w, compAt := vmod r.compAt f.cmp fun _ => s.now })

/-- What a legal XFER meets in place of its blocks, or its issue. -/
def xferMoves (p : Fin 16) (idx : Nat) (w : W128) (errs : List MemErr) (i : Inst) (s : State) : State :=
  let src := blockRange (xferOp w).src (xferOp w).len
  let dst := blockRange (xferOp w).dst (xferOp w).len
  match s.compWait p i.key.play (src ++ dst), (s.runFaults i false src).or (s.runFaults i true dst), s.poisonedIn i.key.play src with
  | some v, _, _ => waitHand p (xferOp w).sth v s
  | none, some d, _ => translationFault p idx d i s
  | none, none, some d => poisonRead (holderId d) d i.key s
  | none, none, none =>
    if ((memErrs errs (some i.key) s).runOn p).map Inst.key ≠ some i.key then memErrs errs (some i.key) s
    else meetBarrier i (xferIssue p idx w i (memErrs errs (some i.key) s))

theorem exec_xfer_free (hi : s.runOn p = some i) (hm : (s.at n).mayIssue p (xferOp w).sth idx (.xfer w) = true)
    (hc : (s.press.get p).comps.get (xferOp w).cmp = none) : exec (.xfer n p idx w [] errs) s =
      .next (if xferIllegal (xferOp w) then illegalOp p idx (xferOp w).opc i (s.at n) else xferMoves p idx w errs i (s.at n)) := by
  change execXfer .. = _
  simp only [execXfer, State.at_runOn, hm, hi, if_true, tagErrs_nil, State.at_press, hc, Option.isSome_none, Bool.false_eq_true, if_false, xferMoves]
  split
  · rfl
  · cases (s.at n).compWait p i.key.play (blockRange (xferOp w).src (xferOp w).len ++ blockRange (xferOp w).dst (xferOp w).len) with
    | some v => rfl
    | none =>
      cases (s.at n).runFaults i false (blockRange (xferOp w).src (xferOp w).len) with
      | some d => rfl
      | none =>
        cases (s.at n).runFaults i true (blockRange (xferOp w).dst (xferOp w).len) with
        | some d => rfl
        | none =>
          cases (s.at n).poisonedIn i.key.play (blockRange (xferOp w).src (xferOp w).len) with
          | some d => rfl
          | none => exact (apply_ite Host.Outcome.next _ _ _).symm

theorem xferIssue_mem (s : State) : SameCells (playWrite i.key.play (xferOp w).dst (s.playBytes i.key.play (xferOp w).src (64 * (xferOp w).len)) s)
    (xferIssue p idx w i s) := by
  have asked : SameCells (playWrite i.key.play (xferOp w).dst (s.playBytes i.key.play (xferOp w).src (64 * (xferOp w).len)) s)
      (xferAsked p w i s) := askBlocks_sameCells ..
  have noted : (xferIssue p idx w i s).mem = (xferAsked p w i s).mem := by
    simp only [xferIssue, State.modPress_mem, State.modInst_mem]
  exact asked.trans (.of_mem noted)

theorem xferIssue_counterAt (s : State) : (xferIssue p idx w i s).counterAt p (xferOp w).sth = idx + 1 := issued_counterAt _ _ _ _

theorem xferAsked_steady (s : State) : Steady s (xferAsked p w i s) := (playWrite_steady ..).trans (askBlocks_steady ..)

theorem xferAsked_apart (s : State) : Apart issueFields s (xferAsked p w i s) := askBlocks_apart rfl rfl rfl (playWrite_apart rfl (.refl _ s))

theorem pushTrace_hands (x : Option TraceRec) (r : Press) : (pushTrace x r).hands = r.hands := by
  cases x <;> rfl

theorem pushTrace_comps (x : Option TraceRec) (r : Press) : (pushTrace x r).comps = r.comps := by
  cases x <;> rfl

theorem xferIssue_onward (hc : s.counterAt p (xferOp w).sth ≤ idx) : Onward s (xferIssue p idx w i s) := by
  have asked := xferAsked_steady (p := p) (w := w) (i := i) s
  exact asked.onward.trans (issued_onward (s := (xferAsked p w i s).modInst i.key _) _ (fun _ => pushTrace_hands _ _)
    ((asked.counterAt p _).trans_le hc))

theorem xferIssue_comps (s : State) : ((xferIssue p idx w i s).press.get p).comps = vmod (s.press.get p).comps (xferOp w).cmp fun _ => some w := by
  rw [← ((xferAsked_steady (p := p) (w := w) (i := i) s).press p).comps]
  unfold xferIssue
  dsimp only
  rw [State.modPress_self]
  exact pushTrace_comps _ _

theorem State.modInst_sched {t : State} (h : t.sched = s.sched) (k : InstKey) (f : Inst → Inst) :
    (t.modInst k f).sched = (s.modInst k f).sched := by
  simp only [State.modInst, h]

theorem xferIssue_sched (s : State) : (xferIssue p idx w i s).sched =
    (s.modInst i.key fun x => { x with xfers := ((xferOp w).src, (xferOp w).dst, (xferOp w).len) :: x.xfers }).sched := by
  have asked : (xferAsked p w i s).sched = s.sched := (xferAsked_apart s).same .sched rfl
  rw [← State.modInst_sched asked]
  simp only [xferIssue, State.modPress_sched]

theorem xferIssue_log (s : State) : (xferIssue p idx w i s).log = s.log := by
  have asked : (xferAsked p w i s).log = s.log := (xferAsked_apart s).same .log rfl
  rw [← asked]
  simp only [xferIssue, State.modPress_log, State.modInst_log]

/-- The state in which an XFER has issued. -/
theorem xferIssue_effect (hc : s.counterAt p (xferOp w).sth ≤ idx) {t : State} (ht : t = meetBarrier i (xferIssue p idx w i s)) :
    t.mem.cells = (playWrite i.key.play (xferOp w).dst (s.playBytes i.key.play (xferOp w).src (64 * (xferOp w).len)) s).mem.cells ∧
      (t.press.get p).comps.get (xferOp w).cmp = some w ∧
      (∀ c, c ≠ (xferOp w).cmp → (t.press.get p).comps.get c = (s.press.get p).comps.get c) ∧ idx < t.counterAt p (xferOp w).sth ∧
      ((∀ x ∈ i.hands, s.barrierAhead i x = false) → t.counterAt p (xferOp w).sth = idx + 1) ∧
      t.sched = (s.modInst i.key fun x => { x with xfers := ((xferOp w).src, (xferOp w).dst, (xferOp w).len) :: x.xfers }).sched ∧
      t.log = s.log := by
  subst ht
  have after : Apart (fun f => decide (f = .press)) (xferIssue p idx w i s) (meetBarrier i (xferIssue p idx w i s)) :=
    meetBarrier_apart rfl (.refl _ _)
  have comps := ((meetBarrier_handsMove i (xferIssue p idx w i s)).comps p).trans (xferIssue_comps s)
  obtain ⟨past, there⟩ := meetBarrier_issued (i := i) (xferIssue_onward hc) (xferIssue_counterAt (w := w) (i := i) s)
  refine ⟨(congrArg Mem.cells (after.same .mem rfl)).trans (xferIssue_mem s).cells, ?_, fun c hne => ?_, past, there,
    (after.same .sched rfl).trans (xferIssue_sched s), (after.same .log rfl).trans (xferIssue_log s)⟩
  · rw [comps, vmod_get, if_pos rfl]
  · rw [comps, vmod_get, if_neg hne.symm]

/-- A compositor still has a block of its XFER to write or to hear of, or has none under way. -/
theorem exec_xferComplete_none {c : Fin 2} (h : (s.press.get p).comps.get c = none ∨ (s.press.get p).comps.get c = some 0 ∨
    s.moving p (Fin.ofNat 3 (1 + c.1)) = true) : exec (.xferComplete n p c) s = .next (s.at n) := by
  refine if_pos ?_
  rcases h with h | h | h
  · exact Bool.or_eq_true_iff.2 (.inl (by simp [h]))
  · exact Bool.or_eq_true_iff.2 (.inl (by simp [h]))
  · exact Bool.or_eq_true_iff.2 (.inr h)

/-- A compositor that is done is free, and what waits for it or for a tracker goes on. -/
def freeComp (p : Fin 16) (c : Fin 2) (s : State) : State :=
  s.modPress p fun r => wakeHands s.pressCycle (fun w => w = .queueFull (2 + c.1) ∨ w = .trackers)
    { r with comps := vmod r.comps c fun _ => none, last := s.pressCycle }

theorem exec_xferComplete {c : Fin 2} {v : W128} (hv : (s.press.get p).comps.get c = some v) (h0 : v ≠ 0)
    (hm : s.moving p (Fin.ofNat 3 (1 + c.1)) = false) : exec (.xferComplete n p c) s = .next (freeComp p c (s.at n)) := by
  refine if_neg (Bool.eq_false_iff.1 ?_)
  exact Bool.or_eq_false_iff.2 ⟨by simpa [hv] using h0, hm⟩

theorem freeComp_comps (c : Fin 2) (s : State) : ((freeComp p c s).press.get p).comps.get c = none := by
  unfold freeComp
  rw [State.modPress_self]
  exact (vmod_get _ _ _ _).trans (if_pos rfl)

end Transfer

section Settled

/-- What COMPOSITOR_WRITE does, in the order of its causes. -/
theorem compositorWrite_effects {n : Nat} {p : Fin 16} {idx : Nat} {comp : Fin 2} {h : Fin 8} {bleed : Option (Nat × Bool × Nat)} {op : CompOp} {i : Inst}
    {ls : List CaseLine} {bs : List Nat} {wr : Bool} {s : State} (c : CompositorClear n p idx comp h bleed op i ls bs wr s) :
    (∀ w, s.compWait p i.key.play bs = some w → ∀ errs, exec (.compositorWrite n p idx comp h bleed op [] errs) s =
      .next (waitHand p h w (s.at n))) ∧
    (s.compWait p i.key.play bs = none →
      (∀ d, s.runFaults i wr bs = some d → s.inst? i.key = some i → i.faultIdx = none →
        ∀ errs, Completes (.compositorWrite n p idx comp h bleed op [] errs) s fun t =>
          Logs s t 0x0410 (pressId p) d ∧ Requeued t i.key [p] ∧ t.mem.cells = s.mem.cells) ∧
      (∀ d, s.runFaults i wr bs = none → wr = false → s.poisonedIn i.key.play bs = some d → ∀ errs,
        exec (.compositorWrite n p idx comp h bleed op [] errs) s = .next (poisonRead (holderId d) d i.key (s.at n))) ∧
      (s.runFaults i wr bs = none → (wr = true ∨ s.poisonedIn i.key.play bs = none) →
        Completes (.compositorWrite n p idx comp h bleed op [] []) s fun t =>
          t.mem.cells = (compEffect p i.key.play ls op s).mem.cells ∧ idx < ((t.press.get p).hands.get h).counter ∧
          ((∀ x ∈ i.hands, s.barrierAhead i x = false) → ((t.press.get p).hands.get h).counter = idx + 1) ∧
          t.sched = s.sched ∧ t.log = s.log ∧ t.units = s.units)) := by
  have e := fun errs => exec_compositorWrite_clear (errs := errs) c
  refine ⟨fun w hw errs => ?_, fun hw => ⟨fun d hd hi hf errs => ?_, fun d hd hwr hp errs => ?_, fun hd hp => ?_⟩⟩
  · rw [e, compositorMoves, State.at_compWait, hw]
  · refine ⟨translationFault p idx d i (s.at n), ?_, translationFault_effect (s := s.at n) idx d hi (State.runOn_running c.run) hf⟩
    rw [e, compositorMoves, State.at_compWait, hw, State.at_runFaults, hd]
  · rw [e, compositorMoves, State.at_compWait, hw, State.at_runFaults, hd, hwr, State.at_poisonedIn]
    simp only [Bool.false_eq_true, if_false, hp]
  · have hp' : (if wr then none else s.poisonedIn i.key.play bs) = none := by
      rcases hp with hp | hp <;> simp [hp]
    have hrun : ((memErrs [] (some i.key) (s.at n)).runOn p).map Inst.key = some i.key := congrArg (Option.map Inst.key) c.run
    have eff := compositorIssue_effect (s := s.at n) (comp := comp) (op := op) (i := i) (ls := ls) (bs := bs) (wr := wr) (mayIssue_counter c.may) rfl
    rw [compEffect_at] at eff
    refine ⟨_, ?_, eff⟩
    rw [e, compositorMoves, State.at_compWait, hw, State.at_runFaults, hd, State.at_poisonedIn, hp']
    exact congrArg Host.Outcome.next (if_neg (not_not.2 hrun))

/-- What a legal XFER on a free compositor does, in the order of its causes. -/
theorem xfer_effects {n : Nat} {p : Fin 16} {idx : Nat} {w : W128} {i : Inst} {s : State} (hi : s.runOn p = some i)
    (e : ∀ errs, exec (.xfer n p idx w [] errs) s = .next (xferMoves p idx w errs i (s.at n)))
    (hw : s.compWait p i.key.play (blockRange (xferOp w).src (xferOp w).len ++ blockRange (xferOp w).dst (xferOp w).len) = none) :
    (∀ d, (s.runFaults i false (blockRange (xferOp w).src (xferOp w).len)).or (s.runFaults i true (blockRange (xferOp w).dst (xferOp w).len)) = some d →
      s.inst? i.key = some i → i.faultIdx = none → ∀ errs, Completes (.xfer n p idx w [] errs) s fun t =>
        Logs s t 0x0410 (pressId p) d ∧ Requeued t i.key [p] ∧ t.mem.cells = s.mem.cells) ∧
    (s.runFaults i false (blockRange (xferOp w).src (xferOp w).len) = none → s.runFaults i true (blockRange (xferOp w).dst (xferOp w).len) = none →
      (∀ d, s.poisonedIn i.key.play (blockRange (xferOp w).src (xferOp w).len) = some d → ∀ errs, exec (.xfer n p idx w [] errs) s =
        .next (poisonRead (holderId d) d i.key (s.at n))) ∧
      (s.poisonedIn i.key.play (blockRange (xferOp w).src (xferOp w).len) = none → exec (.xfer n p idx w [] []) s =
        .next (meetBarrier i (xferIssue p idx w i (s.at n))))) := by
  refine ⟨fun d hd hk hf errs => ?_, fun hs hd => ⟨fun d hp errs => ?_, fun hp => ?_⟩⟩
  · refine ⟨translationFault p idx d i (s.at n), ?_, translationFault_effect (s := s.at n) idx d hk (State.runOn_running hi) hf⟩
    simp only [e, xferMoves, State.at_compWait, hw, State.at_runFaults, hd]
  · simp only [e, xferMoves, State.at_compWait, hw, State.at_runFaults, hs, hd, Option.or_none, State.at_poisonedIn, hp]
  · have hrun : ((memErrs [] (some i.key) (s.at n)).runOn p).map Inst.key = some i.key := congrArg (Option.map Inst.key) hi
    simp only [e, xferMoves, State.at_compWait, hw, State.at_runFaults, hs, hd, Option.or_none, State.at_poisonedIn, hp]
    exact congrArg Host.Outcome.next (if_neg (not_not.2 hrun))

/-- Settles O40: each cause to wait or fail in its order, then an issue, which asks for its blocks once they are written. -/
theorem compositorsMoveBlocks : Obligations.CompositorsMoveBlocks := by
  refine ⟨?_, ?_⟩
  · intro n p idx comp h bleed op ls bs wr s i hi hm hls hb
    refine ⟨fun tags errs => exec_compositorWrite_tags hi hm, fun x hx hr errs => ?_, fun hr => ?_⟩
    · exact exec_compositorWrite_beyond hi hm (by simp [hx, hr])
    have rows : (bleed.any fun x => !s.bandRow i p x) = false := by
      cases bleed with
      | none => rfl
      | some x => simp [hr x rfl]
    refine ⟨fun hc errs => exec_compositorWrite_busy hi hm rows hc, fun hc => ?_⟩
    have turn : CompositorTurn n p idx comp h bleed op i s := ⟨hi, hm, rows, hc⟩
    refine ⟨fun x b r hx hn errs => exec_compositorWrite_unready turn hx hn, fun hready hs errs => ?_, fun hready hs => ?_⟩
    all_goals
      have ready : (bleed.filter fun x => !s.bandReady i p x) = none := by
        cases bleed with
        | none => rfl
        | some x => simp [hready x rfl]
    · exact exec_compositorWrite_outside turn ready (hls ▸ hs)
    · exact compositorWrite_effects ⟨turn, ready, hs, hls.symm, hb.symm⟩
  · rintro n p idx w _ _ _ s rfl rfl rfl
    refine ⟨fun i hi hm => ⟨fun tags errs => exec_xfer_tags hi hm, fun hc errs => exec_xfer_busy hi hm hc, fun hc => ?_⟩,
      fun c v hv h0 hmv => ⟨_, exec_xferComplete hv h0 hmv, freeComp_comps c (s.at n), rfl, rfl⟩, fun c hn => exec_xferComplete_none hn,
      fun hn tags errs => exec_xfer_none hn, fun comp h bleed op hn tags errs => exec_compositorWrite_none hn⟩
    have e := fun errs => exec_xfer_free (errs := errs) hi hm hc
    refine ⟨fun hill hk hf errs => ?_, fun v hleg hw errs => ?_, fun hleg hw => ?_⟩
    · refine ⟨_, (e errs).trans (congrArg Host.Outcome.next (if_pos hill)), illegalOp_effect (s := s.at n) idx _ hk (State.runOn_running hi) hf⟩
    all_goals have e' := fun errs => (e errs).trans (congrArg Host.Outcome.next (if_neg (Bool.eq_false_iff.1 hleg)))
    · rw [e', xferMoves, State.at_compWait, hw]
    · obtain ⟨faults, moves⟩ := xfer_effects hi e' hw
      refine ⟨fun d hd => faults d ?_, fun hs hd => ⟨(moves hs hd).1, fun hp => ?_⟩⟩
      · rcases hd with hd | ⟨hs, hd⟩
        · exact Option.or_eq_some_iff.2 (.inl hd)
        · exact Option.or_eq_some_iff.2 (.inr ⟨hs, hd⟩)
      · have eff := xferIssue_effect (s := s.at n) (w := w) (i := i) (mayIssue_counter hm) rfl
        rw [show (s.at n).playBytes = s.playBytes from rfl, playWrite_at] at eff
        exact ⟨_, (moves hs hd).2 hp, eff⟩

end Settled

end Sys2Proof.Machine

namespace Sys2Proof.Machine

/-! ### Bytes outside what is written (R117, R226) -/

section Bytes

variable {s t : State} {p : Fin 16} {a b : Nat}

theorem cellRead_cellWrite_ne (h : b ≠ a) (l : List Host.Cell) (v : Byte) : cellRead (cellWrite l a v) b = cellRead l b := by
  induction l with
  | nil =>
    rw [cellWrite]
    split
    · rfl
    · exact if_neg h.symm
  | cons c l ih =>
    obtain ⟨k, x⟩ := c
    simp only [cellWrite]
    split
    · split
      · rfl
      · exact if_neg h.symm
    · split
      · next e =>
        subst e
        have skip : cellRead ((a, x) :: l) b = cellRead l b := if_neg h.symm
        rw [skip]
        split
        · rfl
        · exact if_neg h.symm
      · simp only [cellRead, ih]

theorem cellRead_cellsWrite_outside {bs : List Byte} (h : b < a ∨ a + bs.length ≤ b) (l : List Host.Cell) :
    cellRead (cellsWrite l a bs) b = cellRead l b := by
  induction bs generalizing l a with
  | nil => rfl
  | cons v bs ih =>
    rw [List.length_cons] at h
    rw [cellsWrite, ih (by omega), cellRead_cellWrite_ne (by omega)]

theorem resultBytes_length (split line : Nat) (r : VArr) : (resultBytes split line r).length ≤ split * 1024 - line * 1024 :=
  List.length_take_le _ _

/-- A result beyond the scratch is empty, and one within it ends with it. -/
theorem writeResult_outside {line : Nat} (r : VArr) (h : a < caseBase p.1 ∨ caseBase p.1 + s.mem.split.get p * 1024 ≤ a) :
    cellRead (writeResult p line (resultBytes (s.mem.split.get p) line r) s).mem.cells a = cellRead s.mem.cells a := by
  have hl := resultBytes_length (s.mem.split.get p) line r
  change cellRead (cellsWrite s.mem.cells (caseBase p.1 + line * 1024) (resultBytes (s.mem.split.get p) line r)) a = _
  by_cases hb : resultBytes (s.mem.split.get p) line r = []
  · rw [hb, cellsWrite]
  · have := List.length_pos_iff.2 hb
    exact cellRead_cellsWrite_outside (by omega) _

theorem writeResults_outside (line : Nat) (rs : List VArr) (s : State)
    (h : a < caseBase p.1 ∨ caseBase p.1 + s.mem.split.get p * 1024 ≤ a) :
    cellRead (writeResults p line rs s).mem.cells a = cellRead s.mem.cells a := by
  induction rs generalizing line s with
  | nil => rfl
  | cons r rs ih =>
    rw [writeResults_cons]
    exact (ih _ (writeResult p line (resultBytes (s.mem.split.get p) line r) s) h).trans (writeResult_outside r h)

/-- What results write turns on the bytes and the split that they find. -/
theorem writeResults_cells (line : Nat) (rs : List VArr) (h : SameCells s t) :
    (writeResults p line rs t).mem.cells = (writeResults p line rs s).mem.cells := by
  induction rs generalizing line s t with
  | nil => exact h.cells
  | cons r rs ih =>
    rw [writeResults_cons, writeResults_cons, h.split]
    exact ih _ ⟨congrArg (fun l => cellsWrite l _ _) h.cells, h.split⟩

end Bytes

/-! ### VECTOR_MICRO_OPERATION (R117) -/

section VectorUnit

variable {s : State} {n idx : Nat} {p : Fin 16} {m : VecMicro} {errs : List MemErr} {i : Inst}

theorem filterMap_tag_word (l : List MemErr) : (l.map ReadErr.word).filterMap ReadErr.tag = [] :=
  List.filterMap_eq_nil_iff.2 fun x hx => by
    obtain ⟨e, -, rfl⟩ := List.mem_map.1 hx
    rfl

theorem filterMap_mem_word (l : List MemErr) : (l.map ReadErr.word).filterMap ReadErr.mem = l :=
  (List.filterMap_map ..).trans (List.filterMap_some)

@[simp] theorem tagErrs_split {tags : List TagErr} : (tagErrs p tags s).mem.split = s.mem.split := rfl

theorem exec_vector_idle (h : s.runOn p = none ∨ (s.at n).mayIssue p m.stagehand idx (.vector m) = false ∨
    microInScratch m (s.mem.split.get p) = false) (es : List ReadErr) : exec (.vectorMicroOperation n p idx m es) s = .next (s.at n) := by
  change execVectorMicroOperation .. = _
  rcases h with h | h | h <;>
    simp only [execVectorMicroOperation, State.at_runOn, State.at_mem, h, ite_self, Bool.false_and, Bool.and_false, Bool.false_eq_true, if_false]

/-- A run's stagehand may issue the operation, which stays in the scratch. -/
structure VectorTurn (n : Nat) (p : Fin 16) (idx : Nat) (m : VecMicro) (i : Inst) (s : State) : Prop where
  run : s.runOn p = some i
  may : (s.at n).mayIssue p m.stagehand idx (.vector m) = true
  scratch : microInScratch m (s.mem.split.get p) = true

theorem exec_vector_tags (c : VectorTurn n p idx m i s) (es : List ReadErr) : exec (.vectorMicroOperation n p idx m es) s =
    exec (.vectorMicroOperation n p idx m ((es.filterMap ReadErr.mem).map .word)) (tagErrs p (es.filterMap ReadErr.tag) s) := by
  obtain ⟨hi, hm, hs⟩ := c
  change execVectorMicroOperation .. = execVectorMicroOperation ..
  simp only [execVectorMicroOperation, tagErrs_at, tagErrs_mayIssue, tagErrs_runOn, State.at_runOn, State.at_mem, hm, hi, hs, Bool.and_self, if_true,
    filterMap_tag_word, filterMap_mem_word, tagErrs_nil, tagErrs_split]

/-- The state in which a micro-operation's operands have been found. -/
def vecHit (p : Fin 16) (m : VecMicro) (i : Inst) (s : State) : State :=
  (m.srcs.flatMap memBlocks).dedup.foldl (fun s a => demandHit p m.stagehand i.key.play a s) s

/-- What a micro-operation meets in place of its operands, or what it does with them. -/
def vecMoves (p : Fin 16) (idx : Nat) (m : VecMicro) (errs : List MemErr) (i : Inst) (rs ws : List Nat) (s : State) : State :=
  if (List.finRange 16).any fun q => decide ((s.press.get p).drained q < drainNeed m.srcs q) then waitHand p m.stagehand .drainEmpty s
  else ((memOperands p idx m.stagehand i (m.srcs.flatMap memBlocks).dedup s).or (poolWait p idx m.stagehand i rs ws s)).getD
    (runMicro p idx m i ws (memErrs errs (some i.key) (vecHit p m i s)))

theorem exec_vector_words (c : VectorTurn n p idx m i s) {rs ws : List Nat} (hb : poolBlocks i m (s.at n) = (rs, ws)) :
    exec (.vectorMicroOperation n p idx m (errs.map .word)) s = .next (vecMoves p idx m errs i rs ws (s.at n)) := by
  obtain ⟨hi, hm, hs⟩ := c
  change execVectorMicroOperation .. = _
  simp only [execVectorMicroOperation, State.at_runOn, State.at_mem, hm, hi, hs, Bool.and_self, if_true, filterMap_tag_word, filterMap_mem_word,
    tagErrs_nil, hb, vecMoves]
  split
  · rfl
  · cases (memOperands p idx m.stagehand i (m.srcs.flatMap memBlocks).dedup (s.at n)).or (poolWait p idx m.stagehand i rs ws (s.at n)) <;> rfl

theorem vecHit_apart (s : State) : Apart (fun f => decide (f = .mem)) s (vecHit p m i s) :=
  Apart.foldl _ _ (.refl _ s) fun _ _ h => demandHit_apart rfl h

/-- The state in which the pool's blocks have been asked for and the rows have left their queues. -/
def vecTaken (p : Fin 16) (m : VecMicro) (i : Inst) (ws : List Nat) (s : State) : State :=
  (askBlocks p i.part i.key.play 0 (ws.map fun a => (a, true)) s).modPress p (popDrains m.srcs)

/-- The state in which the results stand where they are written. -/
def vecWritten (p : Fin 16) (m : VecMicro) (i : Inst) (ws : List Nat) (outs : List VArr) (s : State) : State :=
  writeResults p m.dst outs (vecTaken p m i ws s)

/-- The state in which one operation has been charged and the stagehand passes on. -/
def vecIssued (p : Fin 16) (idx : Nat) (m : VecMicro) (i : Inst) (ws : List Nat) (outs : List VArr) (s : State) : State :=
  (vecWritten p m i ws outs s).modPress p fun r => issued (vecWritten p m i ws outs s).pressCycle m.stagehand idx { r with
    last := (vecWritten p m i ws outs s).pressCycle + VecOp.latency m.op, tally := { r.tally with vecOps := r.tally.vecOps + 1 } }

theorem writeMicro_eq (ws : List Nat) (outs : List VArr) (s : State) :
    writeMicro p idx m i ws outs s = meetBarrier i (pumpAll p (vecIssued p idx m i ws outs s)) := rfl

variable {ws : List Nat} {outs : List VArr}

theorem vecAsked_steady (s : State) : Steady s (askBlocks p i.part i.key.play 0 (ws.map fun a => (a, true)) s) := askBlocks_steady ..

theorem popDrains_congr {a b : Press} (h : b.drainQ = a.drainQ) (srcs : List VecSrc) : (popDrains srcs b).drainQ = (popDrains srcs a).drainQ := by
  simp only [popDrains, h]

theorem vecTaken_drainQ (s : State) : ((vecTaken p m i ws s).press.get p).drainQ = (popDrains m.srcs (s.press.get p)).drainQ := by
  rw [vecTaken, State.modPress_self]
  exact popDrains_congr ((vecAsked_steady s).press p).drainQ _

theorem vecTaken_vecOps (s : State) : ((vecTaken p m i ws s).press.get p).tally.vecOps = (s.press.get p).tally.vecOps := by
  rw [vecTaken, State.modPress_self]
  exact ((vecAsked_steady s).press p).vecOps

theorem vecTaken_counterAt (s : State) (q : Fin 16) (g : Fin 8) : (vecTaken p m i ws s).counterAt q g = s.counterAt q g := by
  have h : ((vecTaken p m i ws s).press.get q).hands = ((askBlocks p i.part i.key.play 0 (ws.map fun a => (a, true)) s).press.get q).hands := by
    rw [vecTaken]
    exact State.modPress_congr Press.hands (f := popDrains m.srcs) (fun _ => rfl) q
  rw [State.counterAt, h]
  exact (vecAsked_steady s).counterAt q g

theorem vecTaken_sameCells (s : State) : SameCells s (vecTaken p m i ws s) := (askBlocks_sameCells ..).trans (.of_mem rfl)

theorem vecWritten_steady (s : State) : Steady (vecTaken p m i ws s) (vecWritten p m i ws outs s) := writeResults_steady ..

theorem vecIssued_counterAt (s : State) : (vecIssued p idx m i ws outs s).counterAt p m.stagehand = idx + 1 := issued_counterAt _ _ _ _

theorem vecIssued_onward (hc : s.counterAt p m.stagehand ≤ idx) : Onward s (vecIssued p idx m i ws outs s) := by
  have written : ∀ q g, (vecWritten p m i ws outs s).counterAt q g = s.counterAt q g := fun q g =>
    ((vecWritten_steady s).counterAt q g).trans (vecTaken_counterAt s q g)
  have before : Onward s (vecWritten p m i ws outs s) := fun q g => (written q g).ge
  exact before.trans (issued_onward _ (fun _ => rfl) ((written p m.stagehand).trans_le hc))

theorem vecIssued_drainQ (s : State) : ((vecIssued p idx m i ws outs s).press.get p).drainQ = (popDrains m.srcs (s.press.get p)).drainQ := by
  rw [vecIssued, State.modPress_self]
  exact ((vecWritten_steady s).press p).drainQ.trans (vecTaken_drainQ s)

theorem vecIssued_vecOps (s : State) : ((vecIssued p idx m i ws outs s).press.get p).tally.vecOps = (s.press.get p).tally.vecOps + 1 := by
  rw [vecIssued, State.modPress_self]
  exact congrArg (· + 1) (((vecWritten_steady s).press p).vecOps.trans (vecTaken_vecOps s))

theorem vecIssued_cells (s : State) : (vecIssued p idx m i ws outs s).mem.cells = (writeResults p m.dst outs s).mem.cells := by
  rw [vecIssued, State.modPress_mem]
  exact writeResults_cells m.dst outs (vecTaken_sameCells s)

/-- The state in which a micro-operation of the vector unit has issued. -/
theorem writeMicro_effect (hc : s.counterAt p m.stagehand ≤ idx) {t : State} (ht : t = writeMicro p idx m i ws outs s) :
    (t.press.get p).drainQ = (popDrains m.srcs (s.press.get p)).drainQ ∧
      (t.press.get p).tally.vecOps = (s.press.get p).tally.vecOps + 1 ∧ idx < t.counterAt p m.stagehand ∧
      ((∀ x ∈ i.hands, s.barrierAhead i x = false) → t.counterAt p m.stagehand = idx + 1) ∧
      t.mem.cells = (writeResults p m.dst outs s).mem.cells ∧ t.sched = s.sched ∧ t.units = s.units ∧ t.log = s.log := by
  have apart : Apart issueFields s t := ht ▸ writeMicro_apart rfl rfl rfl (.refl _ s)
  rw [writeMicro_eq] at ht
  have pumped : Steady (vecIssued p idx m i ws outs s) (pumpAll p (vecIssued p idx m i ws outs s)) := pumpAll_steady _
  have met := meetBarrier_handsMove i (pumpAll p (vecIssued p idx m i ws outs s))
  have after : Apart (fun f => decide (f = .press)) (vecIssued p idx m i ws outs s) t :=
    ht ▸ meetBarrier_apart rfl (pumpAll_apart rfl (.refl _ _))
  obtain ⟨past, there⟩ := meetBarrier_issued (i := i) ((vecIssued_onward (m := m) (i := i) (ws := ws) (outs := outs) hc).trans pumped.onward)
    ((pumped.counterAt p _).trans (vecIssued_counterAt s))
  rw [← ht] at met past there
  exact ⟨((met.drainQ p).trans (pumped.press p).drainQ).trans (vecIssued_drainQ s),
    ((congrArg Tally.vecOps (met.tally p)).trans (pumped.press p).vecOps).trans (vecIssued_vecOps s), past, there,
    (congrArg Mem.cells (after.same .mem rfl)).trans (vecIssued_cells s), apart.same .sched rfl, apart.same .units rfl, apart.same .log rfl⟩

theorem State.runOn_congr {t : State} (h : t.sched = s.sched) (q : Fin 16) : t.runOn q = s.runOn q := by
  rw [State.runOn, State.runOn, h]

/-- The operation once its operands have been found: its results, or an illegal operation of the run. -/
theorem runMicro_of_run (hi : s.runOn p = some i) (ws : List Nat) : runMicro p idx m i ws s =
    match vecRun i m (m.srcs.map (s.vecSrc p i.key.play)) s with
    | none => illegalOp p idx (Config.freeByte s.free).toNat i { s with free := s.free + 1 }
    | some (outs, v) => writeMicro p idx m i ws outs v :=
  if_neg (not_not.2 (congrArg (Option.map Inst.key) hi))

theorem vecHit_runOn (hi : s.runOn p = some i) : (vecHit p m i s).runOn p = some i :=
  (State.runOn_congr ((vecHit_apart s).same .sched rfl) p).trans hi

theorem runMicro_illegal (hi : s.runOn p = some i) (hv : vecRun i m (m.srcs.map ((vecHit p m i s).vecSrc p i.key.play)) (vecHit p m i s) = none)
    (hk : s.inst? i.key = some i) (hf : i.faultIdx = none) {t : State} (ht : t = runMicro p idx m i ws (vecHit p m i s)) :
    (∃ d, Logs s t 0x0310 (pressId p) d) ∧ Requeued t i.key [p] := by
  have hit := vecHit_apart (p := p) (m := m) (i := i) s
  rw [runMicro_of_run (vecHit_runOn hi), hv] at ht
  subst ht
  obtain ⟨logs, requeued, -⟩ := illegalOp_effect (p := p) (s := { vecHit p m i s with free := (vecHit p m i s).free + 1 }) idx
    (Config.freeByte (vecHit p m i s).free).toNat ((State.inst?_congr (hit.same .sched rfl) i.key).trans hk) (State.runOn_running hi) hf
  exact ⟨⟨_, logs.earlier (.same (hit.same .log rfl))⟩, requeued⟩

/-- What a micro-operation that waits for nothing does. -/
theorem runMicro_effect (hi : s.runOn p = some i) (hc : s.counterAt p m.stagehand ≤ idx) {v : State}
    (hv : vecRun i m (m.srcs.map ((vecHit p m i s).vecSrc p i.key.play)) (vecHit p m i s) = some (outs, v)) {t : State}
    (ht : t = runMicro p idx m i ws (vecHit p m i s)) :
    (t.press.get p).drainQ = (popDrains m.srcs (s.press.get p)).drainQ ∧
      (t.press.get p).tally.vecOps = (s.press.get p).tally.vecOps + 1 ∧ idx < t.counterAt p m.stagehand ∧
      ((∀ x ∈ i.hands, s.barrierAhead i x = false) → t.counterAt p m.stagehand = idx + 1) ∧
      t.mem.cells = (writeResults p m.dst outs v).mem.cells ∧ t.sched = v.sched ∧ t.units = s.units ∧ t.log = s.log := by
  have ran : Apart (fun f => decide (f ∈ [Field.sched, .cog, .mem])) s v :=
    vecRun_apart rfl rfl rfl ((vecHit_apart s).mono fun f hf => by
      have := of_decide_eq_true hf
      subst this
      rfl) _ hv
  have hpress : v.press = s.press := ran.same .press rfl
  rw [runMicro_of_run (vecHit_runOn hi), hv] at ht
  have steady : Steady s v := .of_press hpress
  obtain ⟨drainQ, vecOps, past, there, cells, sched, units, log⟩ := writeMicro_effect ((steady.counterAt p m.stagehand).trans_le hc) ht
  rw [hpress] at drainQ vecOps
  exact ⟨drainQ, vecOps, past, fun hb => there fun x hx => barrierAhead_onward steady.onward (hb x hx), cells, sched,
    units.trans (ran.same .units rfl), log.trans (ran.same .log rfl)⟩

/-! #### Its causes to wait -/

theorem drains_short_iff : ((List.finRange 16).any fun q => decide ((s.press.get p).drained q < drainNeed m.srcs q)) = true ↔
    ∃ q, (s.press.get p).drained q < drainNeed m.srcs q := by
  simp [List.any_eq_true]

theorem vecMoves_short {rs : List Nat} (h : ∃ q, (s.press.get p).drained q < drainNeed m.srcs q) :
    vecMoves p idx m errs i rs ws s = waitHand p m.stagehand .drainEmpty s := if_pos (drains_short_iff.2 h)

theorem vecMoves_full {rs : List Nat} (h : ∀ q, drainNeed m.srcs q ≤ (s.press.get p).drained q) : vecMoves p idx m errs i rs ws s =
    ((memOperands p idx m.stagehand i (m.srcs.flatMap memBlocks).dedup s).or (poolWait p idx m.stagehand i rs ws s)).getD
      (runMicro p idx m i ws (memErrs errs (some i.key) (vecHit p m i s))) :=
  if_neg fun hs => by
    obtain ⟨q, hq⟩ := drains_short_iff.1 hs
    exact absurd (h q) (Nat.not_le.2 hq)

theorem memOperands_walk {h : Fin 8} {bs : List Nat} (hw : ∃ g ∈ pagesAt bs, s.pageReady p i.key.play g = false) :
    memOperands p idx h i bs s = some (waitHand p h .walk s) := by
  obtain ⟨g, hg, hn⟩ := hw
  exact if_pos (List.any_eq_true.2 ⟨g, hg, by rw [hn]; rfl⟩)

end VectorUnit

section Settled

/-- Settles O39: each cause to wait in its order, then the run, whose results turn on the bytes that the operands left; a result is cut at the
split. -/
theorem vectorOperations : Obligations.VectorOperations := by
  refine ⟨?_, fun p line rs s a h => writeResults_outside line rs s h⟩
  rintro n p idx m _ s rfl
  refine ⟨exec_vector_idle, fun i rs ws hi hm hs hb => ?_⟩
  have turn : VectorTurn n p idx m i s := ⟨hi, hm, hs⟩
  have e := fun errs => exec_vector_words (errs := errs) turn hb
  refine ⟨exec_vector_tags turn, fun hq errs => ?_, fun hq => ⟨fun hw errs => ?_, fun t ht errs => ?_, ?_⟩⟩
  · rw [e, vecMoves_short (s := s.at n) hq]
  · rw [e, vecMoves_full (s := s.at n) hq, memOperands_walk (s := s.at n) hw]
    rfl
  · rw [e, vecMoves_full (s := s.at n) hq, ht]
    rfl
  · rintro hmem hpool u rfl
    have run : exec (.vectorMicroOperation n p idx m []) s = .next (runMicro p idx m i ws (vecHit p m i (s.at n))) := by
      refine (e []).trans (congrArg Host.Outcome.next ?_)
      rw [vecMoves_full (s := s.at n) hq, hmem, hpool]
      rfl
    exact ⟨fun outs v hv => ⟨_, run, runMicro_effect (s := s.at n) hi (mayIssue_counter hm) hv rfl⟩,
      fun hv hk hf => ⟨_, run, runMicro_illegal (s := s.at n) hi hv hk hf rfl⟩⟩

end Settled

end Sys2Proof.Machine

namespace Sys2Proof.Machine

/-! ### What changes the leaves alone (R198 to R201, R214) -/

section Leaves

variable {s t w : State}

/-- Of cognition nothing but the leaves' records differs. -/
structure LeavesOnly (s t : State) : Prop where
  cog : t.cog = { s.cog with leaves := t.cog.leaves }

theorem LeavesOnly.refl (s : State) : LeavesOnly s s := ⟨rfl⟩

theorem LeavesOnly.trans (a : LeavesOnly s t) (b : LeavesOnly t w) : LeavesOnly s w := ⟨b.cog.trans (by rw [a.cog])⟩

theorem LeavesOnly.sess (h : LeavesOnly s t) : t.cog.sess = s.cog.sess := by rw [h.cog]

theorem LeavesOnly.keeps (h : LeavesOnly s t) : t.cog.keeps = s.cog.keeps := by rw [h.cog]

theorem LeavesOnly.steps (h : LeavesOnly s t) : t.cog.steps = s.cog.steps := by rw [h.cog]

theorem LeavesOnly.stepNo (h : LeavesOnly s t) : t.cog.stepNo = s.cog.stepNo := by rw [h.cog]

theorem LeavesOnly.foldl {α : Type} (l : List α) (f : State → α → State) (hf : ∀ w a, LeavesOnly w (f w a)) : LeavesOnly s (l.foldl f s) :=
  List.foldlRecOn l f (motive := LeavesOnly s) (.refl s) fun w hw a _ => hw.trans (hf w a)

/-- Of two outcomes with a state each may be taken. -/
theorem LeavesOnly.snd_ite {α : Type} {c : Prop} [Decidable c] {a b : α × State} (ha : LeavesOnly s a.2) (hb : LeavesOnly s b.2) :
    LeavesOnly s (if c then a else b).2 :=
  iteInduction (motive := fun r : α × State => LeavesOnly s r.2) (fun _ => ha) fun _ => hb

theorem setLeaf_leavesOnly (l : Leaf) (s : State) : LeavesOnly s (setLeaf l s) := ⟨rfl⟩

theorem incLeaf_leavesOnly (play num : Nat) (s : State) : LeavesOnly s (incLeaf play num s) := by
  unfold incLeaf
  split
  · exact setLeaf_leavesOnly _ s
  · split
    · exact .refl s
    · split <;> exact ⟨rfl⟩

theorem decLeaf_leavesOnly (play num : Nat) (s : State) : LeavesOnly s (decLeaf play num s) := by
  unfold decLeaf
  split
  · exact .refl s
  · split
    · exact setLeaf_leavesOnly _ s
    · split
      · exact ⟨rfl⟩
      · exact setLeaf_leavesOnly _ s

theorem incLeaves_leavesOnly (play : Nat) (l : List Nat) (s : State) : LeavesOnly s (incLeaves play l s) :=
  .foldl l _ fun w num => incLeaf_leavesOnly play num w

theorem decLeaves_leavesOnly (play : Nat) (l : List Nat) (s : State) : LeavesOnly s (decLeaves play l s) :=
  .foldl l _ fun w num => decLeaf_leavesOnly play num w

theorem freeReserved_leavesOnly (play : Nat) (l : List Nat) (s : State) : LeavesOnly s (freeReserved play l s) := by
  refine .foldl l _ fun w num => ?_
  split
  · split <;> exact ⟨rfl⟩
  · exact .refl w

theorem reserveLeaves_leavesOnly (play n : Nat) (s : State) : LeavesOnly s (reserveLeaves play n s).2 := by
  induction n generalizing s with
  | zero => exact .refl s
  | succ n ih => exact (setLeaf_leavesOnly _ s).trans (ih _)

theorem formRow_leavesOnly (lim : Limits) (x : Session) (f : Forming) (s : State) : LeavesOnly s (formRow lim x f s).2 :=
  .snd_ite (.refl s) (.snd_ite (.refl s) (reserveLeaves_leavesOnly _ _ s))

theorem formRows_leavesOnly (lim : Limits) (l : List Session) (f : Forming) (s : State) : LeavesOnly s (formRows lim l f s).2 := by
  induction l generalizing f s with
  | nil => exact .refl s
  | cons x l ih => exact (formRow_leavesOnly lim x f s).trans (ih _ _)

end Leaves

/-! ### The session of a slot (R202) -/

section Slots

variable {s : State} {slot : Nat} {f : Session → Session} {P : Session → Prop}

/-- What a change makes of a slot's session holds of it afterwards. -/
theorem modSession_at (h : ∀ x ∈ s.cog.sess, x.slot = slot → P (f x)) : ∀ y ∈ (modSession slot f s).cog.sess, y.slot = slot → P y := by
  intro y hy hslot
  obtain ⟨x, hx, rfl⟩ := List.mem_map.1 hy
  split at hslot
  · next hm => rw [if_pos hm]; exact h x hx (of_decide_eq_true hm)
  · next hm => exact absurd (decide_eq_true hslot) hm

/-- A change of one session keeps what it keeps of each. -/
theorem modSession_all (h : ∀ x ∈ s.cog.sess, P x) (hf : ∀ x, P x → P (f x)) : ∀ y ∈ (modSession slot f s).cog.sess, P y := by
  intro y hy
  obtain ⟨x, hx, rfl⟩ := List.mem_map.1 hy
  split
  · exact hf x (h x hx)
  · exact h x hx

end Slots

end Sys2Proof.Machine

namespace Sys2Proof.Machine

/-! ### STEP_FORMATION (R209, R210, R277, R294) -/

section Forming

variable {s u : State} {p : Play} {f : Forming} {n play : Nat}

/-- Nothing of a step is formed yet. -/
def Forming.empty : Forming := { rows := [], used := 0, short := false, left := none }

/-- The first row left out is logged, once in a cue (R214). -/
def noteLeft (f : Forming) (s : State) : State :=
  match f.left with
  | some slot => logOnce 0 0x0C03 idStage (slot % 256) s
  | none => s

/-- The sessions of a step's rows run. -/
def runRows (rows : List Row) (s : State) : State :=
  rows.foldl (fun s r => modSession r.slot (fun x => { x with st := .running }) s) s

/-- A play's next step number (DEDUCED, assumption 92). -/
def State.nextStep (s : State) (p : Play) : Nat := ((s.cog.stepNo.find? fun e => e.1 = p.index).map Prod.snd).getD 0 + 1

/-- The step of some rows, in order of their handles. -/
def stepOf (p : Play) (no : Nat) (f : Forming) : Step :=
  { play := p.index, no := no, rows := sortBy (fun r => r.handle.toNat) f.rows, tokensDone := false, abandoned := false }

/-- A step is entered with its number and its inputs. -/
def enterStep (p : Play) (lim : Limits) (st : Step) (s : State) : State :=
  { s with
    cog := { s.cog with
      stepNo := (p.index, st.no) :: s.cog.stepNo.filter fun e => e.1 != p.index
      steps := s.cog.steps ++ [st] }
    sched := { s.sched with
      values := inputValues p st.no s.cue.count.toNat (stepImages s lim st.rows) ++ s.sched.values } }

/-- A step of some rows: its sessions run, it is entered, and its instances join (R294). -/
def startStep (p : Play) (lim : Limits) (f : Forming) (s : State) : State :=
  let st := stepOf p (s.nextStep p) f
  formRun p st.no false (enterStep p lim st (runRows st.rows s))

theorem runRows_apart (rows : List Row) (s : State) : Apart (fun g => decide (g = .cog)) s (runRows rows s) :=
  .foldl _ _ (.refl _ s) fun _ _ h => modSession_apart rfl h

/-- A session that runs goes on running. -/
theorem runRows_keep (rows : List Row) (slot : Nat) (h : ∀ x ∈ s.cog.sess, x.slot = slot → x.st = .running) :
    ∀ x ∈ (runRows rows s).cog.sess, x.slot = slot → x.st = .running :=
  List.foldlRecOn rows _ (motive := fun (w : State) => ∀ x ∈ w.cog.sess, x.slot = slot → x.st = .running) h
    fun _ hw _ _ => modSession_all hw fun _ _ _ => rfl

theorem runRows_running {rows : List Row} {r : Row} (h : r ∈ rows) (s : State) :
    ∀ x ∈ (runRows rows s).cog.sess, x.slot = r.slot → x.st = .running := by
  induction rows generalizing s with
  | nil => cases h
  | cons a rows ih =>
    rcases List.mem_cons.1 h with rfl | h
    · exact runRows_keep rows r.slot (modSession_at fun _ _ _ => rfl)
    · exact ih h _

theorem noteLeft_apart {m : Field → Bool} (k_log : m .log = true) (h : Apart m s u) : Apart m s (noteLeft f u) := by
  unfold noteLeft
  split
  · exact logOnce_apart k_log h
  · exact h

theorem logOnce_logs {key code detail : Nat} {unit : Byte} (h : (code, key) ∉ s.log.once) :
    Logs s (logOnce key code unit detail s) code unit detail := by
  rw [logOnce, if_neg h]
  exact (logEvent_logs code unit detail _).earlier (s := s) (b := []) ⟨rfl, by simp⟩

theorem noteLeft_logs {slot : Nat} (h : f.left = some slot) (ho : (0x0C03, 0) ∉ s.log.once) :
    Logs s (noteLeft f s) 0x0C03 idStage (slot % 256) := by
  rw [noteLeft, h]
  exact logOnce_logs ho

theorem startStep_insts (p : Play) (lim : Limits) (f : Forming) (s : State) :
    (startStep p lim f s).sched.insts.length = s.sched.insts.length + p.low.scenes.length := by
  have hs : (runRows (stepOf p (s.nextStep p) f).rows s).sched = s.sched := (runRows_apart _ s).same .sched rfl
  simp [startStep, formRun, enterStep, hs]

theorem startStep_step (p : Play) (lim : Limits) (f : Forming) (s : State) : stepOf p (s.nextStep p) f ∈ (startStep p lim f s).cog.steps :=
  List.mem_append_right _ (List.mem_singleton.2 rfl)

theorem startStep_running (p : Play) (lim : Limits) (f : Forming) (s : State) : ∀ r ∈ (stepOf p (s.nextStep p) f).rows,
    ∀ x ∈ (startStep p lim f s).cog.sess, x.slot = r.slot → x.st = .running :=
  fun _ hr => runRows_running hr s

theorem startStep_log (p : Play) (lim : Limits) (f : Forming) (s : State) : (startStep p lim f s).log = s.log :=
  (runRows_apart (stepOf p (s.nextStep p) f).rows s).same .log rfl

/-- A step forms of the rows found, if there are any. -/
theorem formStep_eq (h : (f, u) = formRows (s.limits p.index) (s.queued p.index) .empty s) :
    formStep p s = if f.rows = [] then noteLeft f u else startStep p (s.limits p.index) f (noteLeft f u) := by
  unfold Forming.empty at h
  simp only [formStep, ← h]
  rfl

/-- Finding the rows reserves leaves, and noting the one left out logs. -/
theorem noted_of_rows (h : (f, u) = formRows (s.limits p.index) (s.queued p.index) .empty s) :
    LeavesOnly s (noteLeft f u) ∧ (noteLeft f u).sched = s.sched ∧ u.log = s.log := by
  have hu : u = (formRows (s.limits p.index) (s.queued p.index) .empty s).2 := congrArg Prod.snd h
  have ha : Apart (fun g => decide (g = .cog)) s u := hu ▸ formRows_apart rfl (.refl _ s)
  have hl : LeavesOnly s u := hu ▸ formRows_leavesOnly _ _ _ s
  have hn : Apart (fun g => decide (g = .log)) u (noteLeft f u) := noteLeft_apart rfl (.refl _ u)
  have hc : (noteLeft f u).cog = u.cog := hn.same .cog rfl
  have hs : (noteLeft f u).sched = u.sched := hn.same .sched rfl
  exact ⟨hl.trans ⟨by rw [hc]⟩, hs.trans (ha.same .sched rfl), ha.same .log rfl⟩

theorem nextStep_of_leavesOnly (h : LeavesOnly s u) (p : Play) : u.nextStep p = s.nextStep p := by
  rw [State.nextStep, h.stepNo, State.nextStep]

/-- A cognition play may form a step: in a running cue, while nothing holds it (R209, R437, R462). -/
def State.mayForm (s : State) (p : Play) (play : Nat) : Bool :=
  decide (p.kind = 2) && s.cue.running && s.cogState && !s.gov.stopped && !s.playHeld play

@[simp] theorem State.at_pageLost (d : Nat) : (s.at n).pageLost d = s.pageLost d := by
  unfold State.pageLost
  split <;> rfl

@[simp] theorem State.at_playHeld : (s.at n).playHeld play = s.playHeld play := by
  have hp : (s.at n).pageLost = s.pageLost := funext fun _ => at_pageLost _
  rw [State.playHeld, State.constsLost, hp]
  rfl

theorem exec_stepFormation (hp : s.play? play = some p) : exec (.stepFormation n play) s =
    if s.mayForm p play then
      if s.stackRoom p then .next (formStep p (s.at n))
      else .next (if s.queued play = [] then s.at n else logOnce p.part 0x0509 idImposer p.part (s.at n))
    else .next (s.at n) := by
  have hp' : (s.at n).play? play = some p := hp
  have hc : (s.at n).cogState = s.cogState := rfl
  have hm : (decide (p.kind = 2) && (s.at n).cue.running && (s.at n).cogState && !(s.at n).gov.stopped && !(s.at n).playHeld play) =
      s.mayForm p play := by
    rw [State.at_cue, State.at_gov, hc, State.at_playHeld, State.mayForm]
  have hr : (s.at n).stackRoom p = s.stackRoom p := rfl
  have hq : (s.at n).queued play = s.queued play := rfl
  change execStepFormation n play s = _
  simp only [execStepFormation, hp', hm, hr, hq]

end Forming

section StepFormation

variable {s u : State} {p : Play} {f : Forming} {n play : Nat}

theorem completes_stepFormation (hp : s.play? play = some p) (hm : s.mayForm p play = true) (hr : s.stackRoom p = true) (hf : f.rows ≠ [])
    (h : (f, u) = formRows (s.limits p.index) (s.queued p.index) .empty (s.at n)) :
    Completes (.stepFormation n play) s fun t => t.sched.insts.length = s.sched.insts.length + p.low.scenes.length ∧
      (stepOf p (s.nextStep p) f ∈ t.cog.steps ∧
        ∀ r ∈ (stepOf p (s.nextStep p) f).rows, ∀ x ∈ t.cog.sess, x.slot = r.slot → x.st = .running) ∧
      ∀ slot, f.left = some slot → (0x0C03, 0) ∉ u.log.once → Logs s t 0x0C03 idStage (slot % 256) := by
  obtain ⟨hl, hs, hlog⟩ := noted_of_rows (s := s.at n) h
  have hno : (noteLeft f u).nextStep p = s.nextStep p := nextStep_of_leavesOnly hl p
  refine ⟨startStep p (s.limits p.index) f (noteLeft f u), ?_, ?_, ?_, fun slot hslot ho => ?_⟩
  · rw [exec_stepFormation hp, if_pos hm, if_pos hr, formStep_eq (s := s.at n) h, if_neg hf]
    rfl
  · rw [startStep_insts, hs]
    rfl
  · rw [← hno]
    exact ⟨startStep_step p _ f _, startStep_running p _ f _⟩
  · exact ((noteLeft_logs hslot ho).earlier (.same hlog)).later (.same (startStep_log p _ f _))

theorem completes_stepFormation_rowless (hp : s.play? play = some p) (hm : s.mayForm p play = true) (hr : s.stackRoom p = true)
    (hf : f.rows = []) (h : (f, u) = formRows (s.limits p.index) (s.queued p.index) .empty (s.at n)) :
    Completes (.stepFormation n play) s fun t => t.sched = s.sched ∧ t.cog.steps = s.cog.steps := by
  obtain ⟨hl, hs, -⟩ := noted_of_rows (s := s.at n) h
  refine ⟨noteLeft f u, ?_, hs, hl.steps⟩
  rw [exec_stepFormation hp, if_pos hm, if_pos hr, formStep_eq (s := s.at n) h, if_pos hf]

theorem completes_stepFormation_full (hp : s.play? play = some p) (hm : s.mayForm p play = true) (hr : s.stackRoom p = false) :
    Completes (.stepFormation n play) s fun t => t.sched = s.sched ∧ t.cog = s.cog ∧
      (s.queued play ≠ [] → (0x0509, p.part) ∉ s.log.once → Newest t 0x0509 idImposer p.part) := by
  rw [Completes, exec_stepFormation hp, if_pos hm, hr]
  refine ⟨_, rfl, ?_⟩
  by_cases hq : s.queued play = []
  · rw [if_pos hq]
    exact ⟨rfl, rfl, fun h => absurd hq h⟩
  · have ha : Apart (fun g => decide (g = .log)) (s.at n) (logOnce p.part 0x0509 idImposer p.part (s.at n)) := logOnce_apart rfl (.refl _ _)
    rw [if_neg hq]
    exact ⟨ha.same .sched rfl, ha.same .cog rfl, fun _ ho => logOnce_newest (s := s.at n) ho⟩

theorem exec_stepFormation_held (hp : s.play? play = some p) (hm : s.mayForm p play = false) : exec (.stepFormation n play) s = .next (s.at n) := by
  rw [exec_stepFormation hp, hm]
  rfl

theorem State.mayForm_true_iff : s.mayForm p play = true ↔
    p.kind = 2 ∧ s.cue.running = true ∧ s.cogState = true ∧ s.gov.stopped = false ∧ s.playHeld play = false := by
  simp [State.mayForm, and_assoc]

theorem State.mayForm_false_iff : s.mayForm p play = false ↔
    p.kind ≠ 2 ∨ s.cue.running = false ∨ s.cogState = false ∨ s.gov.stopped = true ∨ s.playHeld play = true := by
  rw [← Bool.not_eq_true, State.mayForm_true_iff]
  simp only [not_and_or, Bool.not_eq_true, Bool.not_eq_false, ne_eq]

end StepFormation

section Settled

/-- Settles O31: the rows are found in a state that differs in leaves and the log alone, so that the step started there is the play's next. -/
theorem stepsForm : Obligations.StepsForm := by
  intro n play p f u s hp h
  have may := fun hk hc hs hg hh => State.mayForm_true_iff (s := s) (p := p) (play := play).2 ⟨hk, hc, hs, hg, hh⟩
  refine ⟨fun hk hc hs hg hh hr hf => ?_, fun hk hc hs hg hh hr hf => completes_stepFormation_rowless hp (may hk hc hs hg hh) hr hf h,
    fun hk hc hs hg hh hr => completes_stepFormation_full hp (may hk hc hs hg hh) hr, fun hm => ?_⟩
  · obtain ⟨t, ht, hi, ⟨hst, hrun⟩, hleft⟩ := completes_stepFormation hp (may hk hc hs hg hh) hr hf h
    exact ⟨t, ht, hi, ⟨_, hst, rfl, rfl, rfl, rfl, rfl, hrun⟩, hleft⟩
  · exact exec_stepFormation_held hp (State.mayForm_false_iff.2 hm)

end Settled

end Sys2Proof.Machine

namespace Sys2Proof.Machine

/-! ### Cognition messages handed on (R202, R437, R439) -/

section Handling

variable {s w : State} {m : Msg} {n st typ : Nat} {q : Request} {c : Instr} {f : Request → State → State} {x : Session}
  {g : Session → Request → State → State} {P : State → Prop}

/-- A command hands a message on and acts on it. -/
def Handles (n : Nat) (c : Instr) (s : State) (m : Msg) (f : Request → State → State) : Prop :=
  exec c s = .next (f (handOn m (s.at n)).1 (handOn m (s.at n)).2)

theorem handles (hc : exec c s = .next (onMessage typ State.cogState f (s.at n))) (hv : s.versionOk m = true) (hs : s.cogState = true)
    (h : s.head? (fun x => x = typ) = some m) : Handles n c s m f :=
  hc.trans (congrArg Host.Outcome.next (onMessage_accepted (s := s.at n) f h hv hs))

theorem exec_sessionOpen (n : Nat) (s : State) : exec (.sessionOpen n) s = .next (onMessage 0x0010 State.cogState sessionOpen (s.at n)) := rfl

theorem exec_sessionInput (n : Nat) (s : State) :
    exec (.sessionInput n) s = .next (onMessage 0x0011 State.cogState (withSession sessionInput) (s.at n)) := rfl

theorem exec_sessionClose (n : Nat) (s : State) : exec (.sessionClose n) s =
    .next (onMessage 0x0012 State.cogState (withSession fun x q s => refuse q stOk (closeSession x s)) (s.at n)) := rfl

theorem exec_abort (n : Nat) (s : State) : exec (.abort n) s = .next (onMessage 0x0013 State.cogState (withSession abortMessage) (s.at n)) := rfl

theorem exec_keepCreate (n : Nat) (s : State) :
    exec (.keepCreate n) s = .next (onMessage 0x0014 State.cogState (withSession keepCreate) (s.at n)) := rfl

theorem exec_keepRelease (n : Nat) (s : State) : exec (.keepRelease n) s = .next (onMessage 0x0015 State.cogState keepReleaseMsg (s.at n)) := rfl

theorem withSession_open (h : s.session? q.session = some x) : withSession g q s = g x q s := by
  simp only [withSession, h]

theorem withSession_stale (h : s.session? q.session = none) : withSession g q s = refuse q stClosed s := by
  simp only [withSession, h]

/-- The handle of an open session leads to it. -/
theorem Handles.of_session (hd : Handles n c s m (withSession g)) (h : s.session? m.session = some x) : Handles n c s m (g x) :=
  hd.trans (congrArg Host.Outcome.next (withSession_open (q := (handOn m (s.at n)).1) (s := (handOn m (s.at n)).2) h))

/-- What a message does is answered without fields, behind its own effect. -/
theorem Handles.refuses (hd : Handles n c s m f) (he : f (handOn m (s.at n)).1 (handOn m (s.at n)).2 = refuse (handOn m (s.at n)).1 st w)
    (ho : HandedOn (s.at n) w m) (hP : P (refuse (handOn m (s.at n)).1 st w)) : Completes c s fun t => Replies s t m m.session st [] ∧ P t :=
  ⟨_, hd.trans (congrArg Host.Outcome.next he), ho.refused st, hP⟩

/-- A message turned away leaves cognition. -/
theorem Handles.refused (hd : Handles n c s m f)
    (he : f (handOn m (s.at n)).1 (handOn m (s.at n)).2 = refuse (handOn m (s.at n)).1 st (handOn m (s.at n)).2) :
    Completes c s fun t => Replies s t m m.session st [] ∧ t.cog = s.cog :=
  hd.refuses he (handOn_handedOn m (s.at n)) rfl

/-- An event of a state after the handing on is one of the whole command. -/
theorem handOn_logs {code detail : Nat} {unit : Byte} (h : Logs (handOn m (s.at n)).2 w code unit detail) : Logs s w code unit detail := by
  obtain ⟨_, hg⟩ := (handOn_handedOn m (s.at n)).log.grows
  exact h.earlier (s := s) hg

/-- A reply logs nothing. -/
theorem refuse_logs {code detail : Nat} {unit : Byte} (h : Logs s w code unit detail) (q : Request) (st : Nat) :
    Logs s (refuse q st w) code unit detail := h

/-- A message turned away with an event leaves cognition. -/
theorem Handles.refused_logs {code detail : Nat} {unit : Byte} (hd : Handles n c s m f)
    (he : f (handOn m (s.at n)).1 (handOn m (s.at n)).2 =
      refuse (handOn m (s.at n)).1 st (logEvent code unit detail (handOn m (s.at n)).2)) :
    Completes c s fun t => Replies s t m m.session st [] ∧ Logs s t code unit detail ∧ t.cog = s.cog :=
  hd.refuses he ((handOn_handedOn m (s.at n)).logEvent code unit detail rfl rfl)
    ⟨refuse_logs (handOn_logs (logEvent_logs code unit detail _)) _ _, rfl⟩

theorem Handles.stale (hd : Handles n c s m (withSession g)) (h : s.session? m.session = none) :
    Completes c s fun t => Replies s t m m.session stClosed [] ∧ t.cog = s.cog :=
  hd.refused (withSession_stale (q := (handOn m (s.at n)).1) (s := (handOn m (s.at n)).2) h)

/-- An effect that leaves the port and the log stands between the handing on and the reply. -/
theorem handedOn_of_apart {k : Field → Bool} (h : Apart k (handOn m (s.at n)).2 w) (hp : k .port = false) (hl : k .log = false) :
    HandedOn (s.at n) w m :=
  (handOn_handedOn m (s.at n)).after (.of_port (h.same .port hp)) (.same (h.same .log hl))

/-- An effect that leaves the port and logs at most stands between the handing on and the reply. -/
theorem handedOn_of_inCue {k : Field → Bool} (h : Apart k (handOn m (s.at n)).2 w) (hp : k .port = false) (hw : InCue (handOn m (s.at n)).2 w) :
    HandedOn (s.at n) w m := by
  obtain ⟨_, hg⟩ := hw.log
  exact (handOn_handedOn m (s.at n)).after (.of_port (h.same .port hp)) hg

end Handling

/-! ### SESSION_OPEN (R202, R205, R206, R290) -/

section SessionOpen

variable {s w : State} {m : Msg} {n st slot len : Nat} {q : Request} {o : OpenRec} {h : W32} {src : Option (Nat × List Nat × Nat)}
  {leaves take : List Nat}

theorem sessionOpen_malformed (hok : openOk s q.payload = false) : sessionOpen q s = refuse q stInvalid s := by
  simp only [sessionOpen, hok, Bool.not_false, if_true]

theorem sessionOpen_fails (hok : openOk s q.payload = true) (he : openSession (readOpen q.payload) s = (st, h, w)) (hst : st ≠ stOk) :
    sessionOpen q s = refuse q st w := by
  simp only [sessionOpen, hok, he, Bool.not_true, Bool.false_eq_true, if_false, hst]

theorem sessionOpen_opens (hok : openOk s q.payload = true) (he : openSession (readOpen q.payload) s = (stOk, h, w)) :
    sessionOpen q s = replyWith w.headVersion q h stOk (natLe 4 h.toNat) w := by
  simp only [sessionOpen, hok, he, Bool.not_true, Bool.false_eq_true, if_false, if_true]

/-- A missing parent, one of another play, or one that is too short is refused (R205). -/
theorem openSession_bad (hsrc : src = if o.parent = 0 then some (o.play, [], 0) else s.parentOf o)
    (hb : src = none ∨ ∃ pl leaves len, src = some (pl, leaves, len) ∧ o.parent ≠ 0 ∧ (pl ≠ o.play ∨ o.pre = 0 ∨ len < o.pre)) :
    openSession o s = (stInvalid, 0, logEvent 0x0C05 idStage 0 s) := by
  simp only [openSession, ← hsrc]
  rcases hb with rfl | ⟨pl, leaves, len, rfl, hp, hb⟩
  · rfl
  · refine if_pos ?_
    simpa using ⟨hp, or_assoc.2 hb⟩

/-- A session takes the lowest free slot, where the leaf-list store has room for its list (R206, R207). -/
def takeSlot (o : OpenRec) (take : List Nat) (s : State) : Nat × W32 × State :=
  match s.freeSlot with
  | none => (stResource, 0, logEvent 0x0C04 idStage 0 s)
  | some slot =>
    if storeSize < s.storeUsed + take.length then (stResource, 0, logEvent 0x0C04 idStage 0 s)
    else (stOk, (openSlot o take slot s).1.handle, (openSlot o take slot s).2)

theorem openSession_lent (hsrc : src = if o.parent = 0 then some (o.play, [], 0) else s.parentOf o) (hs : src = some (o.play, leaves, len))
    (hp : o.parent ≠ 0 → 0 < o.pre ∧ o.pre ≤ len) : openSession o s = takeSlot o (leaves.take (leavesFor o.pre)) s := by
  subst hs
  have hb : (decide (o.parent ≠ 0) && (decide (o.play ≠ o.play) || decide (o.pre = 0) || decide (len < o.pre))) = false := by
    by_cases h0 : o.parent = 0
    · simp [h0]
    · obtain ⟨hpre, hlen⟩ := hp h0
      simp [hpre.ne', hlen]
  simp only [openSession, ← hsrc, hb, Bool.false_eq_true, if_false]
  unfold takeSlot
  cases s.freeSlot with
  | none => rfl
  | some slot => rfl

theorem takeSlot_full (hf : s.freeSlot = none ∨ storeSize < s.storeUsed + take.length) :
    takeSlot o take s = (stResource, 0, logEvent 0x0C04 idStage 0 s) := by
  unfold takeSlot
  split
  · rfl
  · next slot hslot => exact if_pos (hf.resolve_left (by simp [hslot]))

theorem takeSlot_free (hf : s.freeSlot = some slot) (hr : s.storeUsed + take.length ≤ storeSize) :
    takeSlot o take s = (stOk, (openSlot o take slot s).1.handle, (openSlot o take slot s).2) := by
  unfold takeSlot
  rw [hf]
  exact if_neg (Nat.not_lt.2 hr)

theorem openSlot_sess (o : OpenRec) (take : List Nat) (slot : Nat) (s : State) : (openSlot o take slot s).2.cog.sess =
    (openSlot o take slot s).1 :: s.cog.sess.filter fun y => y.slot != slot :=
  (incLeaves_leavesOnly o.play take (setSession (openSlot o take slot s).1 s)).sess

/-- The slot holds the new session alone. -/
theorem openSlot_only (o : OpenRec) (take : List Nat) (slot : Nat) (s : State) :
    ∀ y ∈ (openSlot o take slot s).2.cog.sess, y.slot = slot → y = (openSlot o take slot s).1 := by
  intro y hy hslot
  rw [openSlot_sess] at hy
  refine (List.mem_cons.1 hy).resolve_right fun hf => ?_
  simpa [hslot] using (List.mem_filter.1 hf).2

/-- The slot's accounts are cleared (R290). -/
theorem openSlot_accts (o : OpenRec) (take : List Nat) (slot : Nat) (s : State) : ∀ a ∈ (openSlot o take slot s).2.accts, a.client ≠ slot :=
  fun _ ha => by simpa using (List.mem_filter.1 ha).2

theorem openSlot_handedOn (o : OpenRec) (take : List Nat) (slot : Nat) :
    HandedOn (s.at n) (openSlot o take slot (handOn m (s.at n)).2).2 m :=
  handedOn_of_inCue (openSlot_apart (m := fun g => decide (g ∈ [Field.log, .cog, .accts])) rfl rfl rfl (.refl _ _)) rfl (openSlot_inCue (.refl _))

theorem completes_sessionOpen_bad (hd : Handles n (.sessionOpen n) s m sessionOpen) (hok : openOk s m.payload = true)
    (hsrc : src = if (readOpen m.payload).parent = 0 then some ((readOpen m.payload).play, [], 0) else s.parentOf (readOpen m.payload))
    (hb : src = none ∨ ∃ pl leaves len, src = some (pl, leaves, len) ∧ (readOpen m.payload).parent ≠ 0 ∧
      (pl ≠ (readOpen m.payload).play ∨ (readOpen m.payload).pre = 0 ∨ len < (readOpen m.payload).pre)) :
    Completes (.sessionOpen n) s fun t => Replies s t m m.session stInvalid [] ∧ Logs s t 0x0C05 idStage 0 ∧ t.cog = s.cog := by
  refine hd.refused_logs ?_
  exact sessionOpen_fails hok (openSession_bad hsrc hb) (by decide)

theorem completes_sessionOpen_full (hd : Handles n (.sessionOpen n) s m sessionOpen) (hok : openOk s m.payload = true)
    (ho : openSession (readOpen m.payload) (handOn m (s.at n)).2 = takeSlot (readOpen m.payload) take (handOn m (s.at n)).2)
    (hf : s.freeSlot = none ∨ storeSize < s.storeUsed + take.length) :
    Completes (.sessionOpen n) s fun t => Replies s t m m.session stResource [] ∧ Logs s t 0x0C04 idStage 0 ∧ t.cog = s.cog := by
  refine hd.refused_logs ?_
  exact sessionOpen_fails hok (ho.trans (takeSlot_full (s := (handOn m (s.at n)).2) hf)) (by decide)

theorem completes_sessionOpen (hd : Handles n (.sessionOpen n) s m sessionOpen) (hok : openOk s m.payload = true)
    (ho : openSession (readOpen m.payload) (handOn m (s.at n)).2 = takeSlot (readOpen m.payload) take (handOn m (s.at n)).2)
    (hf : s.freeSlot = some slot) (hr : s.storeUsed + take.length ≤ storeSize) :
    Completes (.sessionOpen n) s fun t => ∃ x ∈ t.cog.sess, x = (openSlot (readOpen m.payload) take slot s).1 ∧
      Replies s t m x.handle stOk (natLe 4 x.handle.toNat) ∧ (∀ y ∈ t.cog.sess, y.slot = slot → y = x) ∧
        ∀ a ∈ t.accts, a.client ≠ slot := by
  have he := ho.trans (takeSlot_free (s := (handOn m (s.at n)).2) hf hr)
  refine ⟨_, hd.trans (congrArg Host.Outcome.next (sessionOpen_opens (q := (handOn m (s.at n)).1) (s := (handOn m (s.at n)).2) hok he)),
    (openSlot (readOpen m.payload) take slot (handOn m (s.at n)).2).1, ?_, rfl,
    (openSlot_handedOn (readOpen m.payload) take slot).replies _ _ _ _, openSlot_only _ _ _ (handOn m (s.at n)).2,
    openSlot_accts (readOpen m.payload) take slot (handOn m (s.at n)).2⟩
  exact (openSlot_sess (readOpen m.payload) take slot (handOn m (s.at n)).2).symm ▸ List.mem_cons_self

end SessionOpen

/-! ### SESSION_INPUT (R203, R213, R439) -/

section SessionInput

variable {s w : State} {m : Msg} {n st : Nat} {q : Request} {x : Session} {i : Input}

theorem sessionInput_malformed (hok : inputOk (s.extraRows x.play) q.payload = false) : sessionInput x q s = refuse q stInvalid s := by
  simp only [sessionInput, hok, Bool.not_false, if_true]

theorem sessionInput_accepts (hok : inputOk (s.extraRows x.play) q.payload = true)
    (he : acceptInput x (readInput (s.extraRows x.play) q.payload) s = (st, w)) : sessionInput x q s = refuse q st w := by
  simp only [sessionInput, hok, he, Bool.not_true, Bool.false_eq_true, if_false]

/-- The positions of a session once an input is through (R213). -/
def Session.positionsWith (x : Session) (i : Input) : Nat :=
  x.committed + x.pending + (x.held.map fun h => h.tokens.length).sum + i.tokens.length

/-- An idle session takes an input as its prompt and is ready. -/
def promptSession (x : Session) (i : Input) (s : State) : State :=
  ready x.slot (modSession x.slot (fun x => { x with prompt := some i, drawn := 0 }) s)

/-- A session that is busy holds an input. -/
def holdInput (x : Session) (i : Input) (s : State) : State := modSession x.slot (fun x => { x with held := x.held ++ [i] }) s

theorem acceptInput_over (h : x.full = true ∨ (s.limits x.play).pmax < x.positionsWith i) : acceptInput x i s = (stLimit, s) := if_pos h

theorem acceptInput_within (hf : x.full = false) (ht : x.positionsWith i ≤ (s.limits x.play).pmax) : acceptInput x i s =
    if x.st = .idle then (stOk, promptSession x i s) else if 4 ≤ x.held.length then (stBusy, s) else (stOk, holdInput x i s) :=
  if_neg (not_or.2 ⟨by simp [hf], Nat.not_lt.2 ht⟩)

theorem promptSession_queues (x : Session) (i : Input) (s : State) :
    ∀ y ∈ (promptSession x i s).cog.sess, y.slot = x.slot → y.st = .queued ∧ y.prompt = some i :=
  modSession_at (P := fun y => y.st = .queued ∧ y.prompt = some i) fun y hy hslot =>
    ⟨rfl, modSession_at (P := fun y => y.prompt = some i) (fun _ _ _ => rfl) y hy hslot⟩

theorem completes_sessionInput_idle (hd : Handles n (.sessionInput n) s m (sessionInput x))
    (hok : inputOk (s.extraRows x.play) m.payload = true) (hi : i = readInput (s.extraRows x.play) m.payload) (hf : x.full = false)
    (ht : x.positionsWith i ≤ (s.limits x.play).pmax) (hst : x.st = .idle) :
    Completes (.sessionInput n) s fun t => Replies s t m m.session stOk [] ∧
      ∀ y ∈ t.cog.sess, y.slot = x.slot → y.st = .queued ∧ y.prompt = some i := by
  subst hi
  have he := (acceptInput_within (s := (handOn m (s.at n)).2) hf ht).trans (if_pos hst)
  exact hd.refuses (sessionInput_accepts (q := (handOn m (s.at n)).1) hok he)
    (handedOn_of_apart (ready_apart (m := fun g => decide (g = .cog)) rfl (modSession_apart rfl (.refl _ _))) rfl rfl) (promptSession_queues _ _ _)

theorem completes_sessionInput_held (hd : Handles n (.sessionInput n) s m (sessionInput x))
    (hok : inputOk (s.extraRows x.play) m.payload = true) (hi : i = readInput (s.extraRows x.play) m.payload) (hf : x.full = false)
    (ht : x.positionsWith i ≤ (s.limits x.play).pmax) (hst : x.st ≠ .idle) (hl : x.held.length < 4) :
    Completes (.sessionInput n) s fun t => Replies s t m m.session stOk [] ∧
      t.cog.sess = lmod (fun y => y.slot = x.slot) (fun y => { y with held := y.held ++ [i] }) s.cog.sess := by
  subst hi
  have he := (acceptInput_within (s := (handOn m (s.at n)).2) hf ht).trans ((if_neg hst).trans (if_neg (Nat.not_le.2 hl)))
  exact hd.refuses (sessionInput_accepts (q := (handOn m (s.at n)).1) hok he)
    (handedOn_of_apart (modSession_apart (m := fun g => decide (g = .cog)) rfl (.refl _ _)) rfl rfl) rfl

theorem completes_sessionInput_busy (hd : Handles n (.sessionInput n) s m (sessionInput x))
    (hok : inputOk (s.extraRows x.play) m.payload = true) (hi : i = readInput (s.extraRows x.play) m.payload) (hf : x.full = false)
    (ht : x.positionsWith i ≤ (s.limits x.play).pmax) (hst : x.st ≠ .idle) (hl : 4 ≤ x.held.length) :
    Completes (.sessionInput n) s fun t => Replies s t m m.session stBusy [] ∧ t.cog = s.cog := by
  subst hi
  have he := (acceptInput_within (s := (handOn m (s.at n)).2) hf ht).trans ((if_neg hst).trans (if_pos hl))
  exact hd.refused (sessionInput_accepts (q := (handOn m (s.at n)).1) hok he)

theorem completes_sessionInput_over (hd : Handles n (.sessionInput n) s m (sessionInput x))
    (hok : inputOk (s.extraRows x.play) m.payload = true) (hi : i = readInput (s.extraRows x.play) m.payload)
    (h : x.full = true ∨ (s.limits x.play).pmax < x.positionsWith i) :
    Completes (.sessionInput n) s fun t => Replies s t m m.session stLimit [] ∧ t.cog = s.cog := by
  subst hi
  exact hd.refused (sessionInput_accepts (q := (handOn m (s.at n)).1) hok (acceptInput_over (s := (handOn m (s.at n)).2) h))

end SessionInput

/-! ### SESSION_CLOSE (R208) -/

section SessionClose

variable {s t w : State} {m : Msg} {n slot : Nat} {x : Session}

/-- A slot's session is closed, and its list is empty. -/
def ShutAt (slot : Nat) (s : State) : Prop := ∀ y ∈ s.cog.sess, y.slot = slot → y.st = .closed ∧ y.leaves = []

theorem ShutAt.of_sess (h : ShutAt slot s) (he : t.cog.sess = s.cog.sess) : ShutAt slot t := fun y hy => h y (he ▸ hy)

theorem requeueRows_shutAt (h : ShutAt slot s) (st : Step) : ShutAt slot (requeueRows st s) := by
  refine List.foldlRecOn st.rows _ (motive := ShutAt slot) h fun w hw r _ => ?_
  split
  · exact hw
  · refine modSession_all (P := fun y => y.slot = slot → y.st = .closed ∧ y.leaves = []) hw fun y hy => ?_
    split
    · next hr => exact fun hslot => absurd ((hy hslot).1.symm.trans hr.2) (by decide)
    · exact hy

theorem setDigPlay_cog (play : Nat) (d : DigPlay) (s : State) : (setDigPlay play d s).cog = s.cog := by
  unfold setDigPlay
  split <;> rfl

theorem abandonStep_shutAt (h : ShutAt slot s) (st : Step) : ShutAt slot (abandonStep st s) := by
  have freed : ShutAt slot (freeReserved st.play (st.rows.flatMap Row.reserved) (setDigPlay st.play
      { digest := s.runDigest st.play st.no, run := BitVec.ofNat 32 st.no, complete := false, invalid := false } s)) :=
    h.of_sess ((freeReserved_leavesOnly _ _ _).sess.trans (by rw [setDigPlay_cog]))
  have ended := (requeueRows_shutAt freed st).of_sess (t := endStep st _) rfl
  have hc : Apart (fun g => decide (g ∈ [Field.sched, .mem])) _ (abandonStep st s) := forgetValues_apart rfl rfl (.refl _ _)
  exact ended.of_sess (congrArg Cog.sess (hc.same .cog rfl))

theorem settleSteps_shutAt (h : ShutAt slot s) (hdl : W32) : ShutAt slot (settleSteps hdl s) := by
  refine List.foldlRecOn _ _ (motive := ShutAt slot) h fun w hw st _ => ?_
  unfold settleStep
  split
  · exact hw
  · split
    · exact abandonStep_shutAt hw _
    · exact hw

theorem closeSession_shutAt (x : Session) (s : State) : ShutAt x.slot (closeSession x s) := by
  rw [closeSession_eq]
  have shut : ShutAt x.slot (modSession x.slot Session.shut (dropRows x.handle s)) := modSession_at fun _ _ _ => ⟨rfl, rfl⟩
  exact settleSteps_shutAt (shut.of_sess (decLeaves_leavesOnly _ _ _).sess) _

theorem completes_sessionClose (hd : Handles n (.sessionClose n) s m fun q s => refuse q stOk (closeSession x s)) :
    Completes (.sessionClose n) s fun t => Replies s t m m.session stOk [] ∧
      ∀ y ∈ t.cog.sess, y.slot = x.slot → y.st = .closed ∧ y.leaves = [] :=
  hd.refuses rfl (handedOn_of_apart (closeSession_apart (m := fun g => decide (g ∈ [Field.sched, .cog, .mem])) rfl rfl rfl (.refl _ _)) rfl rfl)
    (closeSession_shutAt x (handOn m (s.at n)).2)

end SessionClose

/-! ### ABORT (R306) -/

section Abort

variable {s w : State} {m : Msg} {n st p : Nat} {q : Request} {x : Session}

theorem abortMessage_short (h : q.payload.length < 4) : abortMessage x q s = refuse q stInvalid s := if_pos h

theorem abortMessage_judges (h : 4 ≤ q.payload.length) (he : abortSession x (u32 q.payload 0) s = (st, w)) :
    abortMessage x q s = refuse q st w := by
  simp only [abortMessage, if_neg (Nat.not_lt.2 h), he]

theorem abortSession_committed (h : p < x.nextDraw) : abortSession x p s = (stCommitted, logEvent 0x0611 idStage (x.slot % 256) s) := if_pos h

theorem abortSession_ahead (h : x.nextDraw < p) : abortSession x p s = (stInvalid, s) :=
  (if_neg (Nat.lt_asymm h)).trans (if_pos h)

/-- An aborted session is IDLE again, with nothing to come, and its rows are dropped. -/
def idleSession (x : Session) (s : State) : State :=
  modSession x.slot (fun x => { x with st := .idle, prompt := none, held := [], decoding := none }) (dropRows x.handle s)

theorem abortSession_next (h : p = x.nextDraw) : abortSession x p s = (stOk, logEvent 0x0610 idStage (x.slot % 256) (idleSession x s)) := by
  subst h
  exact (if_neg (Nat.lt_irrefl _)).trans (if_neg (Nat.lt_irrefl _))

theorem idleSession_idle (x : Session) (s : State) :
    ∀ y ∈ (idleSession x s).cog.sess, y.slot = x.slot → y.st = .idle ∧ y.prompt = none ∧ y.held = [] :=
  modSession_at fun _ _ _ => ⟨rfl, rfl, rfl⟩

theorem completes_abort_invalid (hd : Handles n (.abort n) s m (abortMessage x)) (h : m.payload.length < 4 ∨ x.nextDraw < u32 m.payload 0) :
    Completes (.abort n) s fun t => Replies s t m m.session stInvalid [] ∧ t.cog = s.cog := by
  refine hd.refused ?_
  by_cases hl : m.payload.length < 4
  · exact abortMessage_short hl
  · exact abortMessage_judges (Nat.not_lt.1 hl) (abortSession_ahead (h.resolve_left hl))

theorem completes_abort_committed (hd : Handles n (.abort n) s m (abortMessage x)) (hl : 4 ≤ m.payload.length) (h : u32 m.payload 0 < x.nextDraw) :
    Completes (.abort n) s fun t => Replies s t m m.session stCommitted [] ∧ Logs s t 0x0611 idStage (x.slot % 256) ∧ t.cog = s.cog := by
  refine hd.refused_logs ?_
  exact abortMessage_judges hl (abortSession_committed h)

theorem completes_abort (hd : Handles n (.abort n) s m (abortMessage x)) (hl : 4 ≤ m.payload.length) (h : u32 m.payload 0 = x.nextDraw) :
    Completes (.abort n) s fun t => Replies s t m m.session stOk [] ∧ Logs s t 0x0610 idStage (x.slot % 256) ∧
      ∀ y ∈ t.cog.sess, y.slot = x.slot → y.st = .idle ∧ y.prompt = none ∧ y.held = [] :=
  hd.refuses (abortMessage_judges (q := (handOn m (s.at n)).1) hl (abortSession_next h))
    ((handOn_handedOn m (s.at n)).logEvent 0x0610 idStage (x.slot % 256) (u' := idleSession x (handOn m (s.at n)).2) rfl rfl)
    ⟨refuse_logs (handOn_logs ((logEvent_logs 0x0610 idStage (x.slot % 256) (idleSession x (handOn m (s.at n)).2)).earlier (.same rfl))) _ _,
      idleSession_idle x (handOn m (s.at n)).2⟩

end Abort

/-! ### KEEP_CREATE and KEEP_RELEASE (R207) -/

section Keeps

variable {s w : State} {m : Msg} {n st len slot : Nat} {q : Request} {x : Session} {k : Keep} {id : W32}

theorem reply_failed (h : st ≠ stOk) (fields : List Byte) : reply q st fields s = refuse q st s := by
  rw [refuse, reply, reply, if_neg h, ite_self]

theorem keepCreate_short (h : q.payload.length < 4) : keepCreate x q s = refuse q stInvalid s := if_pos h

theorem keepCreate_judges (h : 4 ≤ q.payload.length) (he : createKeep x (u32 q.payload 0) s = (st, id, w)) :
    keepCreate x q s = reply q st (natLe 4 id.toNat) w := by
  simp only [keepCreate, if_neg (Nat.not_lt.2 h), he]

theorem keepCreate_fails (h : 4 ≤ q.payload.length) (he : createKeep x (u32 q.payload 0) s = (st, id, w)) (hst : st ≠ stOk) :
    keepCreate x q s = refuse q st w :=
  (keepCreate_judges h he).trans (reply_failed hst _)

theorem createKeep_invalid (h : len = 0 ∨ x.committed < len) : createKeep x len s = (stInvalid, 0, s) := if_pos h

/-- The keep of a session's first positions, under its slot's next generation. -/
def keepOf (x : Session) (len slot : Nat) (s : State) : Keep :=
  { slot := slot, gen := nextKeepGen (((s.cog.keeps.find? fun k => k.slot = slot).map Keep.gen).getD 0), live := true, play := x.play
    leaves := x.leaves.take (leavesFor len), len := len }

/-- A keep names its leaves once more. -/
def enterKeep (k : Keep) (s : State) : State := incLeaves k.play k.leaves (setKeep k s)

theorem createKeep_full (hz : 0 < len) (hc : len ≤ x.committed)
    (hf : s.freeKeep = none ∨ storeSize < s.storeUsed + (x.leaves.take (leavesFor len)).length) :
    createKeep x len s = (stResource, 0, logEvent 0x0C07 idStage 0 s) := by
  rw [createKeep, if_neg (by omega)]
  dsimp only
  split
  · rfl
  · next slot hslot => exact if_pos (hf.resolve_left (by simp [hslot]))

theorem createKeep_makes (hz : 0 < len) (hc : len ≤ x.committed) (hf : s.freeKeep = some slot)
    (hr : s.storeUsed + (x.leaves.take (leavesFor len)).length ≤ storeSize) :
    createKeep x len s = (stOk, (keepOf x len slot s).id, enterKeep (keepOf x len slot s) s) := by
  rw [createKeep, if_neg (by omega)]
  simp only [hf, if_neg (Nat.not_lt.2 hr)]
  rfl

theorem enterKeep_mem (k : Keep) (s : State) : k ∈ (enterKeep k s).cog.keeps := by
  rw [enterKeep, (incLeaves_leavesOnly _ _ _).keeps]
  exact List.mem_cons_self

theorem enterKeep_handedOn (k : Keep) : HandedOn (s.at n) (enterKeep k (handOn m (s.at n)).2) m :=
  handedOn_of_inCue (incLeaves_apart (m := fun g => decide (g ∈ [Field.log, .cog])) rfl rfl (setKeep_apart rfl (.refl _ _))) rfl
    (incLeaves_inCue (setKeep_inCue (.refl _)))

theorem completes_keepCreate_short (hd : Handles n (.keepCreate n) s m (keepCreate x)) (h : m.payload.length < 4) :
    Completes (.keepCreate n) s fun t => Replies s t m m.session stInvalid [] ∧ t.cog = s.cog := by
  refine hd.refused ?_
  exact keepCreate_short h

theorem completes_keepCreate_invalid (hd : Handles n (.keepCreate n) s m (keepCreate x)) (h4 : 4 ≤ m.payload.length)
    (h : u32 m.payload 0 = 0 ∨ x.committed < u32 m.payload 0) :
    Completes (.keepCreate n) s fun t => Replies s t m m.session stInvalid [] ∧ t.cog = s.cog := by
  refine hd.refused ?_
  exact keepCreate_fails h4 (createKeep_invalid h) (by decide)

theorem completes_keepCreate_full (hd : Handles n (.keepCreate n) s m (keepCreate x)) (h4 : 4 ≤ m.payload.length) (hz : 0 < u32 m.payload 0)
    (hc : u32 m.payload 0 ≤ x.committed)
    (hf : s.freeKeep = none ∨ storeSize < s.storeUsed + (x.leaves.take (leavesFor (u32 m.payload 0))).length) :
    Completes (.keepCreate n) s fun t => Replies s t m m.session stResource [] ∧ Logs s t 0x0C07 idStage 0 ∧ t.cog = s.cog := by
  refine hd.refused_logs ?_
  exact keepCreate_fails h4 (createKeep_full (s := (handOn m (s.at n)).2) hz hc hf) (by decide)

theorem completes_keepCreate (hd : Handles n (.keepCreate n) s m (keepCreate x)) (h4 : 4 ≤ m.payload.length) (hz : 0 < u32 m.payload 0)
    (hc : u32 m.payload 0 ≤ x.committed) (hf : s.freeKeep = some slot)
    (hr : s.storeUsed + (x.leaves.take (leavesFor (u32 m.payload 0))).length ≤ storeSize) :
    Completes (.keepCreate n) s fun t => ∃ k ∈ t.cog.keeps, k = keepOf x (u32 m.payload 0) slot s ∧
      Replies s t m m.session stOk (natLe 4 k.id.toNat) :=
  ⟨_, hd.trans (congrArg Host.Outcome.next (keepCreate_judges (q := (handOn m (s.at n)).1) h4
      (createKeep_makes (s := (handOn m (s.at n)).2) hz hc hf hr))),
    keepOf x (u32 m.payload 0) slot s, enterKeep_mem (keepOf x (u32 m.payload 0) slot s) (handOn m (s.at n)).2, rfl,
    (enterKeep_handedOn (keepOf x (u32 m.payload 0) slot s)).answered _⟩

theorem keepReleaseMsg_short (h : q.payload.length < 4) : keepReleaseMsg q s = refuse q stInvalid s := if_pos h

theorem keepReleaseMsg_stale (h4 : 4 ≤ q.payload.length) (h : s.keep? (BitVec.ofNat 32 (u32 q.payload 0)) = none) :
    keepReleaseMsg q s = refuse q stClosed s := by
  simp only [keepReleaseMsg, if_neg (Nat.not_lt.2 h4), h]

theorem keepReleaseMsg_releases (h4 : 4 ≤ q.payload.length) (h : s.keep? (BitVec.ofNat 32 (u32 q.payload 0)) = some k) :
    keepReleaseMsg q s = refuse q stOk (releaseKeep k s) := by
  simp only [keepReleaseMsg, if_neg (Nat.not_lt.2 h4), h]

/-- Of a released keep's slot no keep lives. -/
theorem releaseKeep_dead (k : Keep) (s : State) : ∀ y ∈ (releaseKeep k s).cog.keeps, y.slot = k.slot → y.live = false := by
  intro y hy hslot
  rw [releaseKeep, (decLeaves_leavesOnly _ _ _).keeps] at hy
  rcases List.mem_cons.1 hy with rfl | hy
  · rfl
  · exact absurd (List.mem_filter.1 hy).2 (by simp [hslot])

theorem completes_keepRelease_short (hd : Handles n (.keepRelease n) s m keepReleaseMsg) (h : m.payload.length < 4) :
    Completes (.keepRelease n) s fun t => Replies s t m m.session stInvalid [] ∧ t.cog = s.cog := by
  refine hd.refused ?_
  exact keepReleaseMsg_short h

theorem completes_keepRelease_stale (hd : Handles n (.keepRelease n) s m keepReleaseMsg) (h4 : 4 ≤ m.payload.length)
    (h : s.keep? (BitVec.ofNat 32 (u32 m.payload 0)) = none) :
    Completes (.keepRelease n) s fun t => Replies s t m m.session stClosed [] ∧ t.cog = s.cog := by
  refine hd.refused ?_
  exact keepReleaseMsg_stale h4 h

theorem completes_keepRelease (hd : Handles n (.keepRelease n) s m keepReleaseMsg) (h4 : 4 ≤ m.payload.length)
    (h : s.keep? (BitVec.ofNat 32 (u32 m.payload 0)) = some k) :
    Completes (.keepRelease n) s fun t => Replies s t m m.session stOk [] ∧ ∀ y ∈ t.cog.keeps, y.slot = k.slot → y.live = false :=
  hd.refuses (keepReleaseMsg_releases (q := (handOn m (s.at n)).1) (s := (handOn m (s.at n)).2) h4 h)
    (handedOn_of_apart (releaseKeep_apart (m := fun g => decide (g = .cog)) rfl (.refl _ _)) rfl rfl) (releaseKeep_dead k _)

end Keeps

section Settled

/-- Settles O56: each message acts on the state it is handed on in, the four about a session on the one its handle names. -/
theorem sessionMessages : Obligations.SessionMessages := by
  intro n m s hv hs
  refine ⟨fun h => ?_, fun x h hx => ?_, fun x h hx => ?_, fun x h hx => ?_, fun x h hx => ?_, fun h => ?_, fun c typ hc h hx => ?_⟩
  · have hd := handles (exec_sessionOpen n s) hv hs h
    refine ⟨fun hok => ?_, ?_⟩
    · refine hd.refused ?_
      exact sessionOpen_malformed hok
    · rintro o src hok rfl hsrc
      refine ⟨completes_sessionOpen_bad hd hok hsrc, ?_⟩
      rintro leaves len take hlent hp rfl
      have ho := openSession_lent (s := (handOn m (s.at n)).2) hsrc hlent hp
      refine ⟨completes_sessionOpen_full hd hok ho, fun slot hf hr => ?_⟩
      obtain ⟨t, ht, x, hx, rfl, hrest⟩ := completes_sessionOpen hd hok ho hf hr
      exact ⟨t, ht, _, hx, rfl, rfl, rfl, rfl, rfl, rfl, rfl, hrest⟩
  · have hd := (handles (exec_sessionInput n s) hv hs h).of_session hx
    refine ⟨fun hok => ?_, ?_⟩
    · refine hd.refused ?_
      exact sessionInput_malformed hok
    · rintro i total hok hi rfl
      exact ⟨completes_sessionInput_over hd hok hi, fun hf ht => ⟨completes_sessionInput_idle hd hok hi hf ht,
        completes_sessionInput_held hd hok hi hf ht, completes_sessionInput_busy hd hok hi hf ht⟩⟩
  · exact completes_sessionClose ((handles (exec_sessionClose n s) hv hs h).of_session hx)
  · have hd := (handles (exec_abort n s) hv hs h).of_session hx
    exact ⟨completes_abort_invalid hd, completes_abort hd, completes_abort_committed hd⟩
  · have hd := (handles (exec_keepCreate n s) hv hs h).of_session hx
    refine ⟨completes_keepCreate_short hd, completes_keepCreate_invalid hd, ?_⟩
    rintro h4 hz hc take rfl
    refine ⟨completes_keepCreate_full hd h4 hz hc, fun slot hf hr => ?_⟩
    obtain ⟨t, ht, k, hk, rfl, hrep⟩ := completes_keepCreate hd h4 hz hc hf hr
    exact ⟨t, ht, _, hk, rfl, rfl, rfl, rfl, rfl, hrep⟩
  · have hd := handles (exec_keepRelease n s) hv hs h
    exact ⟨completes_keepRelease_short hd, completes_keepRelease_stale hd, fun k => completes_keepRelease hd⟩
  · simp only [List.mem_cons, Prod.mk.injEq, List.not_mem_nil, or_false] at hc
    rcases hc with ⟨rfl, rfl⟩ | ⟨rfl, rfl⟩ | ⟨rfl, rfl⟩ | ⟨rfl, rfl⟩
    · exact (handles (exec_sessionInput n s) hv hs h).stale hx
    · exact (handles (exec_sessionClose n s) hv hs h).stale hx
    · exact (handles (exec_abort n s) hv hs h).stale hx
    · exact (handles (exec_keepCreate n s) hv hs h).stale hx

end Settled

end Sys2Proof.Machine

namespace Sys2Proof.Machine

/-! ### UFS_COMMAND_COMPLETE (R391, R394, R407) -/

section UfsReads

variable {s : State} {n : Nat} {x : Section}

/-- The wait for a UFS command ends: its retries are forgotten, and the next command is under way from now on. -/
def endUfsWait (s : State) : State := { s with dev := { s.dev with ufsRetry := 0, ufsAt := s.now } }

/-- What the completion of a READ does in LOADING. -/
def takeRead (s : State) : State :=
  match s.dev.load.phase with
  | .directory => loadDirectory s
  | .firmware => loadFirmware s
  | .sections => loadChunk s
  | _ => s

theorem exec_ufsCommandComplete (n : Nat) (s : State) : exec (.ufsCommandComplete n) s =
    .next (if s.dev.st = .loading then takeRead (endUfsWait (s.at n)) else endUfsWait (s.at n)) := by
  change execUfsCommandComplete n s = _
  unfold execUfsCommandComplete
  extract_lets u d w
  change _ = Host.Outcome.next (if w.dev.st = .loading then takeRead w else w)
  split
  · unfold takeRead
    cases w.dev.load.phase <;> rfl
  · rfl

theorem exec_ufsCommandComplete_loading (hst : s.dev.st = .loading) :
    exec (.ufsCommandComplete n) s = .next (takeRead (endUfsWait (s.at n))) := by
  rw [exec_ufsCommandComplete, if_pos hst]

theorem takeRead_directory (hph : s.dev.load.phase = .directory) : takeRead s = loadDirectory s := by
  rw [takeRead, hph]

theorem takeRead_firmware (hph : s.dev.load.phase = .firmware) : takeRead s = loadFirmware s := by
  rw [takeRead, hph]

theorem takeRead_sections (hph : s.dev.load.phase = .sections) : takeRead s = loadChunk s := by
  rw [takeRead, hph]

theorem exec_ufsCommandComplete_elsewhere (h : s.dev.st ≠ .loading ∨ s.dev.load.phase = .judge) :
    exec (.ufsCommandComplete n) s = .next (endUfsWait (s.at n)) := by
  rcases h with h | h
  · rw [exec_ufsCommandComplete, if_neg h]
  · have ht : takeRead (endUfsWait (s.at n)) = endUfsWait (s.at n) := by
      rw [takeRead, show (endUfsWait (s.at n)).dev.load.phase = .judge from h]
    rw [exec_ufsCommandComplete, ht, ite_self]

/-- A refusal of the forme leaves the wait for the UFS command as it is. -/
theorem refuseForme_ufs (cause detail sect : Nat) (s : State) : (refuseForme cause detail sect s).dev.ufsRetry = s.dev.ufsRetry ∧
    (refuseForme cause detail sect s).dev.ufsAt = s.dev.ufsAt := by
  unfold refuseForme enterBlank setState
  split <;> exact ⟨rfl, rfl⟩

/-- Checks 1 to 4 as a state's image meets them. -/
def State.imageChecks (s : State) : Option (Nat × Nat) :=
  checks1to4 s.fuses s.ident.rootDigest s.directory (s.colophonAt (u64 s.directory 16))

theorem endUfsWait_imageChecks (s : State) : (endUfsWait (s.at n)).imageChecks = s.imageChecks := by
  unfold State.imageChecks
  rfl

theorem loadDirectory_eq (s : State) : loadDirectory s = match s.imageChecks with
    | some (c, d) => refuseForme c d 0xFF s
    | none => { s with dev := { s.dev with load := { Load.idle with phase := .firmware, sections := readSections s.directory } } } := by
  unfold loadDirectory State.imageChecks
  extract_lets dir
  generalize checks1to4 s.fuses s.ident.rootDigest s.directory (s.colophonAt (u64 s.directory 16)) = c
  cases c <;> rfl

theorem completes_ufsCommandComplete_directory (hst : s.dev.st = .loading) (hph : s.dev.load.phase = .directory) :
    Completes (.ufsCommandComplete n) s fun t => t.dev.ufsRetry = 0 ∧ t.dev.ufsAt = (s.at n).now ∧
      match checks1to4 s.fuses s.ident.rootDigest s.directory (s.colophonAt (u64 s.directory 16)) with
      | some (c, d) => t.dev.st = .blank ∧ t.dev.cause = BitVec.ofNat 8 c ∧ t.dev.detail = BitVec.ofNat 8 d ∧ t.dev.sect = 0xFF#8 ∧
          Newest t 0x0902 idSecurity c
      | none => t.dev.st = .loading ∧ t.dev.load.phase = .firmware ∧ t.dev.load.sections = readSections s.directory ∧ t.log = s.log := by
  refine ⟨_, (exec_ufsCommandComplete_loading hst).trans (congrArg _ (takeRead_directory (s := endUfsWait (s.at n)) hph)), ?_⟩
  cases h : checks1to4 s.fuses s.ident.rootDigest s.directory (s.colophonAt (u64 s.directory 16)) with
  | some cd =>
    obtain ⟨c, d⟩ := cd
    rw [loadDirectory_eq, endUfsWait_imageChecks, State.imageChecks, h]
    obtain ⟨hb, hcause, hdetail, hsect, -⟩ := refuseForme_spec c d 0xFF (endUfsWait (s.at n))
    obtain ⟨hr, ha⟩ := refuseForme_ufs c d 0xFF (endUfsWait (s.at n))
    exact ⟨hr, ha, hb, hcause, hdetail, hsect, refuseForme_newest _ _ _ _⟩
  | none =>
    rw [loadDirectory_eq, endUfsWait_imageChecks, State.imageChecks, h]
    exact ⟨rfl, rfl, hst, rfl, rfl, rfl⟩

theorem completes_ufsCommandComplete_firmware (hst : s.dev.st = .loading) (hph : s.dev.load.phase = .firmware) :
    Completes (.ufsCommandComplete n) s fun t => t.dev.ufsRetry = 0 ∧ t.dev.ufsAt = (s.at n).now ∧
      if s.dev.load.pos + 0x80000 < ((findSection s.dev.load.sections 7 0).map Section.length).getD 0 then
        t.dev.st = .loading ∧ t.dev.load = { s.dev.load with pos := s.dev.load.pos + 0x80000 } ∧ t.log = s.log
      else if check5 s.ident.rootDigest (sectionBytes s.ufs s.dev.load.sections 7 0) = true then
        t.dev.st = .loading ∧ t.dev.load.phase = .sections ∧ t.dev.load.next = 0 ∧ t.dev.load.pos = 0 ∧ t.log = s.log
      else t.dev.st = .blank ∧ t.dev.cause = 0x06#8 ∧ Newest t 0x0902 idSecurity 6 := by
  refine ⟨_, (exec_ufsCommandComplete_loading hst).trans (congrArg _ (takeRead_firmware (s := endUfsWait (s.at n)) hph)), ?_⟩
  have e : loadFirmware (endUfsWait (s.at n)) =
      if s.dev.load.pos + 0x80000 < ((findSection s.dev.load.sections 7 0).map Section.length).getD 0 then
        { endUfsWait (s.at n) with dev := { (endUfsWait (s.at n)).dev with load := { s.dev.load with pos := s.dev.load.pos + 0x80000 } } }
      else if check5 s.ident.rootDigest (sectionBytes s.ufs s.dev.load.sections 7 0) = true then
        { endUfsWait (s.at n) with dev := { (endUfsWait (s.at n)).dev with load := { s.dev.load with phase := .sections, next := 0, pos := 0 } } }
      else refuseForme 0x06 1 0xFF (endUfsWait (s.at n)) := rfl
  rw [e]
  split
  · exact ⟨rfl, rfl, hst, rfl, rfl⟩
  · split
    · exact ⟨rfl, rfl, hst, rfl, rfl, rfl, rfl⟩
    · obtain ⟨hb, hcause, -⟩ := refuseForme_spec 0x06 1 0xFF (endUfsWait (s.at n))
      obtain ⟨hr, ha⟩ := refuseForme_ufs 0x06 1 0xFF (endUfsWait (s.at n))
      exact ⟨hr, ha, hb, hcause, refuseForme_newest _ _ _ _⟩

/-- Check 6 of a section at its end: the first section in the table whose digest differs. -/
def bad6After (ufs : List Host.Cell) (ld : Load) (x : Section) : Option Nat :=
  if x.hash ufs = x.digest then ld.bad6 else some (min (tablePos ld.sections x) (ld.bad6.getD (tablePos ld.sections x)))

/-- The load after a READ of a section. -/
def Load.read (ufs : List Host.Cell) (ld : Load) (x : Section) : Load :=
  if ld.pos + min ufsBlock (x.length - ld.pos) < x.length then { ld with pos := ld.pos + min ufsBlock (x.length - ld.pos) }
  else { ld with
    next := ld.next + 1, pos := 0, bad6 := bad6After ufs ld x
    phase := if ld.next + 1 = (loadOrder ld.sections).length then .judge else .sections }

theorem loadChunk_read (hx : (loadOrder s.dev.load.sections)[s.dev.load.next]? = some x) : loadChunk s = { s with dev := { s.dev with
    progress := s.dev.progress + BitVec.ofNat 64 (min ufsBlock (x.length - s.dev.load.pos)), load := s.dev.load.read s.ufs x } } := by
  simp only [loadChunk, hx, Load.read, bad6After, decide_eq_true_eq]
  split <;> rfl

theorem Load.read_end {ld : Load} {ufs : List Host.Cell} (h : ¬ ld.pos + min ufsBlock (x.length - ld.pos) < x.length) :
    (ld.read ufs x).next = ld.next + 1 ∧ (ld.read ufs x).pos = 0 ∧
      ((ld.read ufs x).phase = .judge ↔ ld.next + 1 = (loadOrder ld.sections).length) ∧
      (x.hash ufs = x.digest → (ld.read ufs x).bad6 = ld.bad6) ∧ (x.hash ufs ≠ x.digest → (ld.read ufs x).bad6.isSome = true) := by
  rw [Load.read, if_neg h]
  refine ⟨rfl, rfl, ?_, fun hh => if_pos hh, fun hh => ?_⟩
  · dsimp only
    split <;> simp [*]
  · dsimp only
    rw [bad6After, if_neg hh]
    rfl

theorem completes_ufsCommandComplete_section (hst : s.dev.st = .loading) (hph : s.dev.load.phase = .sections)
    (hx : (loadOrder s.dev.load.sections)[s.dev.load.next]? = some x) :
    Completes (.ufsCommandComplete n) s fun t => t.dev.st = .loading ∧ t.log = s.log ∧ t.dev.ufsRetry = 0 ∧ t.dev.ufsAt = (s.at n).now ∧
      t.dev.progress = s.dev.progress + BitVec.ofNat 64 (min 0x80000 (x.length - s.dev.load.pos)) ∧
      if s.dev.load.pos + min 0x80000 (x.length - s.dev.load.pos) < x.length then
        t.dev.load = { s.dev.load with pos := s.dev.load.pos + min 0x80000 (x.length - s.dev.load.pos) }
      else t.dev.load.next = s.dev.load.next + 1 ∧ t.dev.load.pos = 0 ∧
        (t.dev.load.phase = .judge ↔ s.dev.load.next + 1 = (loadOrder s.dev.load.sections).length) ∧
        (x.hash s.ufs = x.digest → t.dev.load.bad6 = s.dev.load.bad6) ∧ (x.hash s.ufs ≠ x.digest → t.dev.load.bad6.isSome = true) := by
  refine ⟨_, (exec_ufsCommandComplete_loading hst).trans (congrArg _ ((takeRead_sections (s := endUfsWait (s.at n)) hph).trans
    (loadChunk_read (s := endUfsWait (s.at n)) hx))),
    hst, rfl, rfl, rfl, rfl, ?_⟩
  split
  · next h => exact if_pos h
  · next h => exact Load.read_end h

/-- Past the last section the checks of LOADING_COMPLETE are due. -/
theorem completes_ufsCommandComplete_last (hst : s.dev.st = .loading) (hph : s.dev.load.phase = .sections)
    (hx : (loadOrder s.dev.load.sections)[s.dev.load.next]? = none) :
    Completes (.ufsCommandComplete n) s fun t => t.dev.load = { s.dev.load with phase := .judge } ∧ t.dev.st = .loading ∧ t.log = s.log := by
  have e : loadChunk (endUfsWait (s.at n)) =
      { endUfsWait (s.at n) with dev := { (endUfsWait (s.at n)).dev with load := { s.dev.load with phase := .judge } } } := by
    have hx' : (loadOrder (endUfsWait (s.at n)).dev.load.sections)[(endUfsWait (s.at n)).dev.load.next]? = none := hx
    simp only [loadChunk, hx']
    rfl
  exact ⟨_, (exec_ufsCommandComplete_loading hst).trans (congrArg _ ((takeRead_sections (s := endUfsWait (s.at n)) hph).trans e)), rfl, hst, rfl⟩

end UfsReads

/-! ### UFS_COMMAND_TIMEOUT (R259, R355, R418) -/

section UfsTimeouts

variable {s : State} {n : Nat}

theorem exec_ufsCommandTimeout_idle (h : s.ufsBusy = false) : exec (.ufsCommandTimeout n) s = .next (s.at n) := by
  have hb : (s.at n).ufsBusy = false := h
  change execUfsCommandTimeout n s = _
  simp only [execUfsCommandTimeout, hb, Bool.not_false, if_true]

/-- A command that is retried: its count rises, and its 100 ms run anew. -/
def retryUfs (s : State) : State :=
  logEvent 0x0903 idUfs (s.dev.ufsRetry + 1) { s with dev := { s.dev with ufsRetry := s.dev.ufsRetry + 1, ufsAt := s.now } }

/-- What a failed command ends: LOADING, an update, or the restoration at the head of the queue. -/
def endUfsCaller (s : State) : State :=
  if s.dev.st = .loading then refuseForme 0x03 0x50 0xFF s else if s.upd.active then interruptUpdate 3 s else failRestore s

theorem exec_ufsCommandTimeout_busy (h : s.ufsBusy = true) : exec (.ufsCommandTimeout n) s = .next (if s.dev.ufsRetry < 3 then retryUfs (s.at n)
    else endUfsCaller (logEvent 0x0904 idUfs 0 (endUfsWait (s.at n)))) := by
  have hb : (s.at n).ufsBusy = true := h
  change execUfsCommandTimeout n s = _
  simp only [execUfsCommandTimeout, hb, Bool.not_true, Bool.false_eq_true, if_false, endUfsCaller, apply_ite Host.Outcome.next]
  rfl

theorem interruptUpdate_spec (detail : Nat) (s : State) : (interruptUpdate detail s).dev.st = .blank ∧
    (interruptUpdate detail s).dev.cause = 0x0D#8 ∧ (interruptUpdate detail s).dev.detail = BitVec.ofNat 8 detail ∧
    (interruptUpdate detail s).upd.active = false ∧ (interruptUpdate detail s).dev.ufsRetry = s.dev.ufsRetry ∧
    Newest (interruptUpdate detail s) 0x0909 idSecurity detail := by
  have h : Newest { logEvent 0x0909 idSecurity detail s with upd := { s.upd with active := false } } 0x0909 idSecurity detail :=
    logEvent_newest _ _ _ _
  unfold interruptUpdate enterBlank setState
  split
  · next hb => exact ⟨hb, rfl, rfl, rfl, rfl, h⟩
  · exact ⟨rfl, rfl, rfl, rfl, rfl, h⟩

theorem endUfsCaller_loading (h : s.dev.st = .loading) : endUfsCaller s = refuseForme 0x03 0x50 0xFF s := if_pos h

theorem endUfsCaller_update (h : s.dev.st ≠ .loading) (hu : s.upd.active = true) : endUfsCaller s = interruptUpdate 3 s :=
  (if_neg h).trans (if_pos hu)

theorem endUfsCaller_restore (h : s.dev.st ≠ .loading) (hu : s.upd.active = false) : endUfsCaller s = failRestore s :=
  (if_neg h).trans (if_neg (Bool.eq_false_iff.1 hu))

theorem endUfsCaller_cases (s : State) : endUfsCaller s = refuseForme 0x03 0x50 0xFF s ∨ endUfsCaller s = interruptUpdate 3 s ∨
    endUfsCaller s = failRestore s := by
  unfold endUfsCaller
  split
  · exact .inl rfl
  · split
    · exact .inr (.inl rfl)
    · exact .inr (.inr rfl)

theorem failRestore_dev (s : State) : (failRestore s).dev = s.dev :=
  (failRestore_apart (m := fun f => decide (f ≠ .dev)) rfl rfl rfl (.refl _ s)).same .dev rfl

theorem endUfsCaller_ufsRetry (s : State) : (endUfsCaller s).dev.ufsRetry = s.dev.ufsRetry := by
  rcases endUfsCaller_cases s with e | e | e <;> rw [e]
  · exact (refuseForme_ufs _ _ _ s).1
  · exact (interruptUpdate_spec 3 s).2.2.2.2.1
  · rw [failRestore_dev]

theorem endUfsCaller_logGrows (s : State) : ∃ new, LogGrows s (endUfsCaller s) new := by
  rcases endUfsCaller_cases s with e | e | e <;> rw [e]
  · exact (refuseForme_inCue (.refl s)).log
  · exact (interruptUpdate_inCue (.refl s)).log
  · exact (failRestore_inCue (.refl s)).log

theorem completes_ufsCommandTimeout_retry (hb : s.ufsBusy = true) (hr : s.dev.ufsRetry < 3) :
    Completes (.ufsCommandTimeout n) s fun t =>
      t.dev = { s.dev with ufsRetry := s.dev.ufsRetry + 1, ufsAt := (s.at n).now } ∧ Newest t 0x0903 idUfs (s.dev.ufsRetry + 1) ∧
      t.upd = s.upd ∧ t.mem = s.mem := by
  have e := exec_ufsCommandTimeout_busy (n := n) hb
  rw [if_pos hr] at e
  exact ⟨_, e, rfl, logEvent_newest _ _ _ _, rfl, rfl⟩

theorem completes_ufsCommandTimeout_failed (hb : s.ufsBusy = true) (hr : 3 ≤ s.dev.ufsRetry) :
    Completes (.ufsCommandTimeout n) s fun t => t.dev.ufsRetry = 0 ∧ Logs s t 0x0904 idUfs 0 ∧
      (s.dev.st = .loading → t.dev.st = .blank ∧ t.dev.cause = 0x03#8 ∧ t.dev.detail = 0x50#8 ∧ Newest t 0x0902 idSecurity 3) ∧
      (s.dev.st ≠ .loading → s.upd.active = true → t.dev.st = .blank ∧ t.dev.cause = 0x0D#8 ∧ t.dev.detail = 3 ∧ t.upd.active = false ∧
        Newest t 0x0909 idSecurity 3) ∧
      (s.dev.st ≠ .loading → s.upd.active = false → ∀ r rest, s.mem.restore = r :: rest → t.mem.restore = rest ∧
        Newest t 0x0405 idImposer 0 ∧ r.play ∈ t.sched.unmapped ∧ t.pte? r.play r.vpage = none ∧ t.dev.st = s.dev.st) := by
  have e := exec_ufsCommandTimeout_busy (n := n) hb
  rw [if_neg (Nat.not_lt.2 hr)] at e
  generalize hw : logEvent 0x0904 idUfs 0 (endUfsWait (s.at n)) = w at e
  have logged : Logs s w 0x0904 idUfs 0 := hw ▸ logEvent_logs 0x0904 idUfs 0 (endUfsWait (s.at n))
  have hst : w.dev.st = s.dev.st := hw ▸ rfl
  have hupd : w.upd = s.upd := hw ▸ rfl
  obtain ⟨_, grows⟩ := endUfsCaller_logGrows w
  refine ⟨_, e, (endUfsCaller_ufsRetry w).trans (hw ▸ rfl), logged.later grows, fun hl => ?_, fun hl hu => ?_, fun hl hu r rest hrest => ?_⟩
  · rw [endUfsCaller_loading (hst.trans hl)]
    obtain ⟨hblank, hcause, hdetail, -⟩ := refuseForme_spec 0x03 0x50 0xFF w
    exact ⟨hblank, hcause, hdetail, refuseForme_newest _ _ _ _⟩
  · rw [endUfsCaller_update (hst ▸ hl) (hupd ▸ hu)]
    obtain ⟨hblank, hcause, hdetail, hoff, -, hnew⟩ := interruptUpdate_spec 3 w
    exact ⟨hblank, hcause, hdetail, hoff, hnew⟩
  · rw [endUfsCaller_restore (hst ▸ hl) (hupd ▸ hu)]
    obtain ⟨hq, hnew, hun, hpte, -⟩ := failRestore_spec (s := w) (r := r) (rest := rest) (hw ▸ hrest)
    exact ⟨hq, hnew, hun, hpte, (congrArg Dev.st (failRestore_dev w)).trans hst⟩

end UfsTimeouts

/-- Settles O10: each phase of LOADING takes its READ, and a command that times out is retried, or ends its caller. -/
theorem loadingReadsAndTimeouts : Obligations.LoadingReadsAndTimeouts := by
  refine ⟨fun n s => ⟨fun hst hph => completes_ufsCommandComplete_directory hst hph, fun hst hph => completes_ufsCommandComplete_firmware hst hph,
    fun x hst hph hx => completes_ufsCommandComplete_section hst hph hx, fun hst hph hx => completes_ufsCommandComplete_last hst hph hx,
    exec_ufsCommandComplete_elsewhere⟩, fun n s => ⟨fun hb => ⟨completes_ufsCommandTimeout_retry hb, completes_ufsCommandTimeout_failed hb⟩,
    exec_ufsCommandTimeout_idle⟩⟩

end Sys2Proof.Machine

namespace Sys2Proof.Machine

/-! ### GOV_POWER_SAMPLE, CORE_CURRENT_LIMIT, AVS_CURRENT_READ (R461, R462, R464) -/

section Governor

variable {s : State} {n mw : Nat} {amp : W16}

theorem exec_govPowerSample (h : s.dev.st ≠ .reset) : exec (.govPowerSample n mw) s =
    .next { s.at n with gov := { s.gov with sum := s.gov.sum + mw, num := s.gov.num + 1 } } :=
  congrArg Host.Outcome.next (if_neg h)

theorem exec_coreCurrentLimit (hr : s.cue.running = true) (hs : s.gov.stopped = false) : exec (.coreCurrentLimit n) s =
    .next (logEvent 0x0B05 idGovernor 0x80 { s.at n with gov := { s.gov with stopped := true } }) :=
  congrArg Host.Outcome.next (if_pos (by simp [hr, hs]))

theorem exec_coreCurrentLimit_none (h : s.cue.running = false ∨ s.gov.stopped = true) : exec (.coreCurrentLimit n) s = .next (s.at n) :=
  congrArg Host.Outcome.next (if_neg (by rcases h with h | h <;> simp [h]))

/-- The supply's setpoint moves at most once in 10 µs. -/
def State.stepDue (s : State) : Bool := decide (s.gov.stepAt + us 10 ≤ s.now)

theorem exec_avsCurrentRead_read (h : s.dev.st ≠ .reset) : exec (.avsCurrentRead n true amp) s = .next { s.at n with gov := { s.gov with
    icore := amp, retries := 0, stepAt := if (s.at n).stepDue then (s.at n).now else s.gov.stepAt
    vcore := if (s.at n).stepDue then BitVec.ofNat 16 (stepTo (setpointOf s) s.gov.vcore.toNat) else s.gov.vcore } } := if_neg h

theorem exec_avsCurrentRead_failed (h : s.dev.st ≠ .reset) : exec (.avsCurrentRead n false amp) s =
    if s.gov.retries < 3 then .next { s.at n with gov := { s.gov with retries := s.gov.retries + 1 } }
    else .next { s.at n with gov := { s.gov with icore := amp, retries := 0 } } := if_neg h

/-- A step is of 5 mV at most, either way. -/
theorem stepTo_near (target v : Nat) : stepTo target v ≤ v + 5 ∧ v ≤ stepTo target v + 5 := by
  unfold stepTo
  repeat' split
  all_goals omega

theorem completes_avsCurrentRead (h : s.dev.st ≠ .reset) (hd : s.gov.stepAt + us 10 ≤ (s.at n).now) :
    Completes (.avsCurrentRead n true amp) s fun t => t.gov.icore = amp ∧ t.gov.retries = 0 ∧
      t.gov.stepAt = (s.at n).now ∧ t.gov.vcore = BitVec.ofNat 16 (stepTo (setpointOf s) s.gov.vcore.toNat) ∧
      stepTo (setpointOf s) s.gov.vcore.toNat ≤ s.gov.vcore.toNat + 5 ∧ s.gov.vcore.toNat ≤ stepTo (setpointOf s) s.gov.vcore.toNat + 5 := by
  have due : (s.at n).stepDue = true := decide_eq_true hd
  have e := exec_avsCurrentRead_read (n := n) (amp := amp) h
  rw [due, if_pos rfl, if_pos rfl] at e
  exact ⟨_, e, rfl, rfl, rfl, rfl, stepTo_near _ _⟩

theorem exec_avsCurrentRead_early (h : s.dev.st ≠ .reset) (hd : (s.at n).now < s.gov.stepAt + us 10) :
    exec (.avsCurrentRead n true amp) s = .next { s.at n with gov := { s.gov with icore := amp, retries := 0 } } := by
  have due : (s.at n).stepDue = false := decide_eq_false (Nat.not_le.2 hd)
  rw [exec_avsCurrentRead_read h, due, if_neg Bool.false_ne_true, if_neg Bool.false_ne_true]

end Governor

/-! ### REGULATOR_TICK (R280) -/

section Regulators

variable {s t : State} {part : Nat} {k : Fin 8} {c : Partition}

theorem State.modPart_get (k j : Fin 8) (f : PartRt → PartRt) (s : State) :
    (s.modPart k.1 f).part.get j = if k = j then f (s.part.get k) else s.part.get j := by
  rw [State.modPart, dif_pos k.2]
  exact vmod_get _ _ _ _

theorem State.modPart_self (k : Fin 8) (f : PartRt → PartRt) (s : State) : (s.modPart k.1 f).part.get k = f (s.part.get k) := by
  rw [State.modPart_get, if_pos rfl]

/-- Only one partition's record changes. -/
def OnlyPart (k : Fin 8) (s t : State) : Prop := ∀ j, j ≠ k → t.part.get j = s.part.get j

theorem OnlyPart.trans {w : State} (a : OnlyPart k s t) (b : OnlyPart k t w) : OnlyPart k s w := fun j hj => (b j hj).trans (a j hj)

theorem State.modPart_only (k : Fin 8) (f : PartRt → PartRt) (s : State) : OnlyPart k s (s.modPart k.1 f) := fun j hj => by
  rw [State.modPart_get, if_neg hj.symm]

theorem takeCtls_part (part : Nat) (s : State) : (takeCtls part s).part = s.part :=
  (takeCtls_apart (m := fun f => decide (f ≠ .part)) rfl (.refl _ s)).same .part rfl

theorem State.bucket_eq (k : Fin 8) (s : State) : s.bucket k.1 = (s.part.get k).bucket := dif_pos k.2

theorem State.owed_eq (k : Fin 8) (s : State) : s.owed k.1 = (s.part.get k).owed := dif_pos k.2

/-- What a request that passes takes of its bucket. -/
def Owed.tokens (o : Owed) : Int := 1 + if o.fill then 3 else 0

theorem Owed.tokens_pos (o : Owed) : 0 < o.tokens := by
  unfold Owed.tokens
  split <;> omega

theorem passOne_part (k : Fin 8) (o : Owed) (s : State) :
    (passOne k.1 o s).part = (s.modPart k.1 fun r => { r with bucket := r.bucket - o.tokens }).part := by
  have e : (fun r : PartRt => { r with bucket := r.bucket - 1 - (if o.fill then 3 else 0) }) = fun r => { r with bucket := r.bucket - o.tokens } := by
    funext r
    rw [Owed.tokens, Int.sub_sub]
  rw [passOne, takeCtls_part, e]

theorem passOne_only (k : Fin 8) (o : Owed) (s : State) : OnlyPart k s (passOne k.1 o s) := by
  intro j hj
  rw [passOne_part]
  exact State.modPart_only k _ s j hj

theorem passOne_self (k : Fin 8) (o : Owed) (s : State) :
    (passOne k.1 o s).part.get k = { s.part.get k with bucket := (s.part.get k).bucket - o.tokens } := by
  rw [passOne_part, State.modPart_self]

theorem passOwed_only (k : Fin 8) (l : List Owed) (s : State) : OnlyPart k s (passOwed k.1 l s) := by
  induction l generalizing s with
  | nil => exact State.modPart_only k _ s
  | cons o l ih =>
    rw [passOwed]
    split
    · exact (passOne_only k o s).trans (ih _)
    · exact State.modPart_only k _ s

/-- A regulator's requests pass from the first on, each for tokens of the bucket; nothing else of the partition changes. -/
theorem passOwed_self (k : Fin 8) (l : List Owed) (s : State) : ∃ b l', (passOwed k.1 l s).part.get k = { s.part.get k with bucket := b, owed := l' } ∧
    b ≤ (s.part.get k).bucket ∧ l'.length ≤ l.length := by
  induction l generalizing s with
  | nil => exact ⟨_, [], State.modPart_self k _ s, le_rfl, le_rfl⟩
  | cons o l ih =>
    rw [passOwed]
    split
    · obtain ⟨b, l', e, hb, hl⟩ := ih (passOne k.1 o s)
      rw [passOne_self] at e hb
      have := o.tokens_pos
      exact ⟨b, l', e, by dsimp only at hb; omega, hl.trans (Nat.le_succ _)⟩
    · exact ⟨_, o :: l, State.modPart_self k _ s, le_rfl, le_rfl⟩

theorem passPart_only (k : Fin 8) (s : State) : OnlyPart k s (passPart k.1 s) := passOwed_only k _ s

theorem passPart_none (h : (s.part.get k).owed = []) : (passPart k.1 s).part.get k = s.part.get k := by
  rw [passPart, State.owed_eq, h, passOwed, State.modPart_self, ← h]

/-- A bucket at 0 or below holds every request. -/
theorem passPart_held (h : (s.part.get k).bucket ≤ 0) : (passPart k.1 s).part.get k = s.part.get k := by
  cases hl : (s.part.get k).owed with
  | nil => exact passPart_none hl
  | cons o l =>
    have hm : s.mayPass k.1 = false := decide_eq_false (by rw [State.bucket_eq]; omega)
    rw [passPart, State.owed_eq, hl, passOwed, hm, if_neg Bool.false_ne_true, State.modPart_self, ← hl]

/-- From a bucket above 0 the first request passes. -/
theorem passPart_first {o : Owed} {rest : List Owed} (hl : (s.part.get k).owed = o :: rest) (h : 0 < (s.part.get k).bucket) :
    ((passPart k.1 s).part.get k).owed.length ≤ rest.length ∧ ((passPart k.1 s).part.get k).bucket < (s.part.get k).bucket := by
  have hm : s.mayPass k.1 = true := decide_eq_true (by rw [State.bucket_eq]; exact h)
  obtain ⟨b, l', e, hb, hlen⟩ := passOwed_self k rest (passOne k.1 o s)
  rw [passOne_self] at hb
  have := o.tokens_pos
  rw [passPart, State.owed_eq, hl, passOwed, hm, if_pos rfl, e]
  exact ⟨hlen, by dsimp only at hb ⊢; omega⟩

theorem passPart_waitedCue (k : Fin 8) (s : State) : ((passPart k.1 s).part.get k).waitedCue = (s.part.get k).waitedCue := by
  obtain ⟨b, l', e, -⟩ := passOwed_self k (s.owed k.1) s
  rw [passPart, e]

/-- Each partition's requests pass in its own turn, on its own record. -/
theorem foldl_passPart_get (l : List (Fin 8)) (hl : l.Nodup) (k : Fin 8) (s : State) :
    ∃ w, w.part.get k = s.part.get k ∧ (l.foldl (fun s i => passPart i.1 s) s).part.get k =
      if k ∈ l then (passPart k.1 w).part.get k else s.part.get k := by
  induction l generalizing s with
  | nil => exact ⟨s, rfl, rfl⟩
  | cons i l ih =>
    obtain ⟨hi, hl⟩ := List.nodup_cons.1 hl
    obtain ⟨w, hw, e⟩ := ih hl (passPart i.1 s)
    by_cases hk : k = i
    · subst hk
      exact ⟨s, rfl, by rw [List.foldl_cons, e, if_neg hi, if_pos List.mem_cons_self]⟩
    · have hs := passPart_only i s k hk
      exact ⟨w, hw.trans hs, by rw [List.foldl_cons, e, hs]; simp only [List.mem_cons, hk, false_or]⟩

/-- The partitions after a tick's tokens, before requests pass. -/
def tickParts (s : State) : State :=
  { s with part := Vector.ofFn fun i => match s.partCfg i.1 with
      | some c => tickPart s.mem.high c (s.part.get i)
      | none => s.part.get i }

theorem exec_regulatorTick (n : Nat) (h : s.forme.loaded = true) : exec (.regulatorTick n) s =
    .next ((List.finRange 8).foldl (fun s i => passPart i.1 s) (tickParts (s.at n))) := by
  have e : (List.range 8).foldl (fun s i => passPart i s) (tickParts (s.at n)) =
      (List.finRange 8).foldl (fun s i => passPart i.1 s) (tickParts (s.at n)) := by
    rw [← List.map_coe_finRange_eq_range, List.foldl_map]
  rw [← e]
  exact congrArg Host.Outcome.next (if_pos h)

theorem exec_regulatorTick_unloaded (n : Nat) (h : s.forme.loaded = false) : exec (.regulatorTick n) s = .next (s.at n) :=
  congrArg Host.Outcome.next (if_neg (Bool.eq_false_iff.1 h))

theorem tickParts_get (k : Fin 8) (s : State) : (tickParts s).part.get k = match s.partCfg k.1 with
    | some c => tickPart s.mem.high c (s.part.get k)
    | none => s.part.get k := by
  rw [tickParts, Vector.get_eq_getElem, Vector.getElem_ofFn]

/-- A regulator's bucket after a tick: the rate of the memory mode, up to the depth. -/
def filled (high : Bool) (c : Partition) (r : PartRt) : Int :=
  min (r.bucket + ((if high then c.rateHigh else c.rateNom : Nat) : Int)) (c.depth : Int)

theorem tickPart_idle (high : Bool) {r : PartRt} (h : c.kind < 2 ∨ 3 < c.kind) : tickPart high c r = r := if_pos h

theorem tickPart_eq (high : Bool) (c : Partition) (r : PartRt) (h2 : 2 ≤ c.kind) (h3 : c.kind ≤ 3) : tickPart high c r =
    { if r.owed ≠ [] then bump PartRt.regWait (fun r v => { r with regWait := v }) 4 { r with waitedCue := true } else r with
      bucket := filled high c r } := by
  unfold tickPart filled
  rw [if_neg (by omega)]
  dsimp only
  split
  · unfold bump
    dsimp only
    split <;> rfl
  · rfl

theorem tickPart_unowed {high : Bool} {r : PartRt} (h2 : 2 ≤ c.kind) (h3 : c.kind ≤ 3) (h : r.owed = []) :
    tickPart high c r = { r with bucket := filled high c r, owed := [] } := by
  rw [tickPart_eq high c r h2 h3, if_neg (not_not.2 h), ← h]

/-- A regulator with requests that wait counts a wait in its cue. -/
theorem tickPart_owed {high : Bool} {r : PartRt} (h2 : 2 ≤ c.kind) (h3 : c.kind ≤ 3) (h : r.owed ≠ []) :
    (tickPart high c r).waitedCue = true ∧ (tickPart high c r).owed = r.owed ∧ (tickPart high c r).bucket = filled high c r := by
  rw [tickPart_eq high c r h2 h3, if_pos h]
  unfold bump
  dsimp only
  split <;> exact ⟨rfl, rfl, rfl⟩

theorem State.partCfg_some (h : s.forme.parts[k.1]? = some c) (hk : c.kind ≠ 0xFF) : s.partCfg k.1 = some c := by
  simp [State.partCfg, h, hk]

theorem State.partCfg_cases (h : s.forme.parts[k.1]? = some c) : s.partCfg k.1 = some c ∨ s.partCfg k.1 = none := by
  by_cases hk : c.kind = 0xFF
  · exact .inr (by simp [State.partCfg, h, hk])
  · exact .inl (State.partCfg_some h hk)

/-- A partition's record after the tick's tokens has gone through its own turn alone. -/
theorem regulatorTick_get (k : Fin 8) (s : State) : ∃ w, w.part.get k = (tickParts s).part.get k ∧
    ((List.finRange 8).foldl (fun s i => passPart i.1 s) (tickParts s)).part.get k = (passPart k.1 w).part.get k := by
  obtain ⟨w, hw, e⟩ := foldl_passPart_get (List.finRange 8) (List.nodup_finRange 8) k (tickParts s)
  exact ⟨w, hw, e.trans (if_pos (List.mem_finRange k))⟩

/-- A regulator with no request waiting takes its tokens alone, one with requests lets them pass from above 0. -/
theorem regulatorTick_regulator {w : State} (h2 : 2 ≤ c.kind) (h3 : c.kind ≤ 3) (hw : w.part.get k = tickPart s.mem.high c (s.part.get k)) :
    ((s.part.get k).owed = [] → (passPart k.1 w).part.get k = { s.part.get k with bucket := filled s.mem.high c (s.part.get k), owed := [] }) ∧
    ((s.part.get k).owed ≠ [] → ((passPart k.1 w).part.get k).waitedCue = true) ∧
    ((s.part.get k).owed ≠ [] → filled s.mem.high c (s.part.get k) ≤ 0 → ((passPart k.1 w).part.get k).owed = (s.part.get k).owed ∧
      ((passPart k.1 w).part.get k).bucket = filled s.mem.high c (s.part.get k)) ∧
    (∀ o rest, (s.part.get k).owed = o :: rest → 0 < filled s.mem.high c (s.part.get k) →
      ((passPart k.1 w).part.get k).owed.length ≤ rest.length ∧
      ((passPart k.1 w).part.get k).bucket < filled s.mem.high c (s.part.get k)) := by
  refine ⟨fun h => ?_, fun h => ?_, fun h hb => ?_, fun o rest h hb => ?_⟩
  · have e := hw.trans (tickPart_unowed h2 h3 h)
    rw [passPart_none (by rw [e]), e]
  · rw [passPart_waitedCue, hw]
    exact (tickPart_owed h2 h3 h).1
  · obtain ⟨-, howed, hbucket⟩ := tickPart_owed (high := s.mem.high) h2 h3 h
    rw [passPart_held (by rw [hw, hbucket]; exact hb), hw]
    exact ⟨howed, hbucket⟩
  · obtain ⟨-, howed, hbucket⟩ := tickPart_owed (high := s.mem.high) h2 h3 (by rw [h]; exact List.cons_ne_nil _ _)
    have e := passPart_first (by rw [hw, howed, h]) (show 0 < (w.part.get k).bucket by rw [hw, hbucket]; exact hb)
    rwa [hw, hbucket] at e

theorem completes_regulatorTick (n : Nat) (h : s.forme.loaded = true) : Completes (.regulatorTick n) s fun t => ∀ k : Fin 8,
    match s.forme.parts[k.1]? with
    | some c =>
      (2 ≤ c.kind → c.kind ≤ 3 → ∀ b : Int, b = min ((s.part.get k).bucket +
            ((if s.mem.high then c.rateHigh else c.rateNom : Nat) : Int)) (c.depth : Int) →
        ((s.part.get k).owed = [] → t.part.get k = { s.part.get k with bucket := b, owed := [] }) ∧
        ((s.part.get k).owed ≠ [] → (t.part.get k).waitedCue = true) ∧
        ((s.part.get k).owed ≠ [] → b ≤ 0 → (t.part.get k).owed = (s.part.get k).owed ∧ (t.part.get k).bucket = b) ∧
        (∀ o rest, (s.part.get k).owed = o :: rest → 0 < b →
          (t.part.get k).owed.length ≤ rest.length ∧ (t.part.get k).bucket < b)) ∧
      ((c.kind < 2 ∨ 3 < c.kind) → (s.part.get k).owed = [] → t.part.get k = s.part.get k)
    | none => (s.part.get k).owed = [] → t.part.get k = s.part.get k := by
  refine ⟨_, exec_regulatorTick n h, fun k => ?_⟩
  obtain ⟨w, hw, e⟩ := regulatorTick_get k (s.at n)
  rw [tickParts_get] at hw
  have hcfg : (s.at n).partCfg k.1 = s.partCfg k.1 := rfl
  rw [hcfg] at hw
  have untouched : w.part.get k = s.part.get k → (s.part.get k).owed = [] → (passPart k.1 w).part.get k = s.part.get k := fun hs ho => by
    rw [passPart_none (by rw [hs, ho]), hs]
  cases hc : s.forme.parts[k.1]? with
  | none =>
    have hn : s.partCfg k.1 = none := by simp [State.partCfg, hc]
    rw [hn] at hw
    intro ho
    rw [e]
    exact untouched hw ho
  | some c =>
    refine ⟨fun h2 h3 b hb => ?_, fun hk ho => ?_⟩
    · rw [State.partCfg_some hc (by omega)] at hw
      subst hb
      rw [e]
      exact regulatorTick_regulator (s := s) h2 h3 hw
    · rw [e]
      refine untouched ?_ ho
      rcases State.partCfg_cases hc with hp | hp <;> rw [hp] at hw
      · exact hw.trans (tickPart_idle _ hk)
      · exact hw

end Regulators

/-! ### STACK_RETRAIN_DONE (R239, R260) -/

section Retrain

variable {s : State}

/-- The requests that a stack's retraining held, their 20 µs running anew. -/
def releaseHeld (m : Fin 2) (s : State) : List Tracker := s.mem.trackers.map fun x =>
  if x.waits = false ∧ covers (.stack m) (region x.dev) = true ∧ m ∈ s.mem.retrain then { x with at_ := s.now } else x

/-- A stagehand that waited for a tracker goes on. -/
def Stagehand.resume (cyc : Nat) (h : Stagehand) : Stagehand := if h.wait = .trackers then { h with wait := .none, since := cyc } else h

theorem Stagehand.resume_wait (cyc : Nat) (h : Stagehand) : (h.resume cyc).wait ≠ .trackers := by
  unfold Stagehand.resume
  split
  · exact WaitReason.noConfusion
  · assumption

theorem exec_stackRetrainDone (n : Nat) (m : Fin 2) (s : State) : exec (.stackRetrainDone n m) s = .next { s.at n with
    mem := { s.mem with retrain := s.mem.retrain.filter fun k => k != m, trackers := releaseHeld m (s.at n) }
    press := s.press.map fun r => { r with hands := r.hands.map (Stagehand.resume (s.at n).pressCycle) } } := rfl

theorem completes_stackRetrainDone (n : Nat) (m : Fin 2) (s : State) : Completes (.stackRetrainDone n m) s fun t => m ∉ t.mem.retrain ∧
    (∀ k, k ≠ m → (k ∈ t.mem.retrain ↔ k ∈ s.mem.retrain)) ∧
    t.mem = { s.mem with retrain := t.mem.retrain, trackers := s.mem.trackers.map fun x =>
      if x.waits = false ∧ covers (.stack m) (region x.dev) = true ∧ m ∈ s.mem.retrain then { x with at_ := (s.at n).now } else x } ∧
    (∀ p : Fin 16, ∀ h ∈ (t.press.get p).hands, h.wait ≠ .trackers) ∧ t.part = s.part ∧ t.log = s.log := by
  refine ⟨_, exec_stackRetrainDone n m s, by simp, fun k hk => by simp [hk], rfl, fun p h hh => ?_, rfl, rfl⟩
  simp only [Vector.get_eq_getElem, Vector.getElem_map] at hh
  obtain ⟨x, -, rfl⟩ := Vector.mem_map.1 hh
  exact Stagehand.resume_wait _ x

end Retrain

/-- Settles O28: each command of the governor, a regulator's tick in its own partition, and the end of a stack's retraining. -/
theorem governorAndRegulators : Obligations.GovernorAndRegulators := by
  refine ⟨fun n mw amp s => ⟨fun h => ⟨exec_govPowerSample h, completes_avsCurrentRead h, exec_avsCurrentRead_early h, fun hr => ?_, fun hr => ?_⟩,
    fun hr hs => ⟨_, exec_coreCurrentLimit hr hs, rfl, logEvent_newest _ _ _ _⟩, exec_coreCurrentLimit_none⟩,
    fun n s => ⟨completes_regulatorTick n, exec_regulatorTick_unloaded n, fun m => completes_stackRetrainDone n m s⟩⟩
  · rw [exec_avsCurrentRead_failed h, if_pos hr]
  · rw [exec_avsCurrentRead_failed h, if_neg (Nat.not_lt.2 hr)]

end Sys2Proof.Machine

namespace Sys2Proof.Machine

/-! ### What a detection leaves of the schedule -/

section Detections

variable {s t : State}

/-- The schedule stands, its values and slices aside. -/
def OnlyValues (s t : State) : Prop := ∃ v l, t.sched = { s.sched with values := v, slices := l }

theorem OnlyValues.of_sched (h : t.sched = s.sched) : OnlyValues s t := ⟨_, _, h⟩

theorem OnlyValues.trans {w : State} (a : OnlyValues s t) (b : OnlyValues t w) : OnlyValues s w := by
  obtain ⟨_, _, ha⟩ := a
  obtain ⟨v, l, hb⟩ := b
  exact ⟨v, l, by rw [hb, ha]⟩

theorem OnlyValues.insts (h : OnlyValues s t) : t.sched.insts = s.sched.insts := by
  obtain ⟨_, _, e⟩ := h
  rw [e]

theorem OnlyValues.blocked (h : OnlyValues s t) : t.sched.blocked = s.sched.blocked := by
  obtain ⟨_, _, e⟩ := h
  rw [e]

theorem OnlyValues.inst? (h : OnlyValues s t) (k : InstKey) : t.inst? k = s.inst? k := by
  rw [State.inst?, State.inst?, h.insts]

theorem OnlyValues.requeued {k : InstKey} {ps : List (Fin 16)} (h : OnlyValues s t) (hr : Requeued s k ps) : Requeued t k ps := by
  obtain ⟨j, hj, e⟩ := hr
  exact ⟨j, (h.inst? k).trans hj, e⟩

theorem detect_onlyValues (c : Nat) (u : Byte) (s : State) : OnlyValues s (detect c u s) := by
  have hs : (detect c u s).sched = (invalidate c s).sched :=
    (curtainStop_apart (m := fun f => decide (f ≠ .sched)) rfl rfl rfl (.refl _ _)).same .sched rfl
  refine OnlyValues.trans (t := invalidate c s) ?_ (.of_sched hs)
  unfold invalidate
  split
  · exact .of_sched rfl
  · exact ⟨_, _, rfl⟩

theorem setState_sched (st : DevState) (s : State) : (setState st s).sched = s.sched :=
  (setState_apart (m := fun f => decide (f ≠ .sched)) rfl rfl (.refl _ s)).same .sched rfl

theorem enterBare_onlyValues (s : State) : OnlyValues s (enterBare s) := by
  refine ⟨s.sched.values, [], ?_⟩
  unfold enterBare
  extract_lets _ _ w _ v
  have hw : w.sched = s.sched := by
    unfold w
    split <;> rfl
  rw [setState_sched]
  show { v.sched with slices := [] } = { s.sched with slices := [] }
  rw [show v.sched = s.sched from hw]

theorem deviceFault_onlyValues (c : Nat) (u : Byte) (s : State) : OnlyValues s (deviceFault c u s) := by
  unfold deviceFault
  split
  · exact .of_sched rfl
  · extract_lets old w _ v x
    have hv : OnlyValues s v := by
      unfold v
      split <;> exact .of_sched rfl
    have hx : OnlyValues s x := hv.trans (detect_onlyValues _ _ _)
    split
    case h_4 => exact hx
    all_goals exact hx.trans (enterBare_onlyValues x)

end Detections

/-! ### SCENE_WATCHDOG_EXPIRY (R356) -/

section Watchdog

variable {s : State} {n : Nat} {k : InstKey} {i : Inst}

/-- Units are left to their next proof pass. -/
def suspectAll (l : List UnitId) (s : State) : State := l.foldl (fun s u => suspectUnit 0 u s) s

theorem suspectUnit_suspect (src : Nat) (u v : UnitId) (s : State) :
    ((suspectUnit src u s).unit v).suspect = true ↔ v = u ∨ (s.unit v).suspect = true := by
  by_cases h : v = u
  · subst h
    rw [suspectUnit, State.unit_modUnit_self]
    simp
  · rw [suspectUnit, State.unit_modUnit_ne h]
    simp [h]

theorem suspectAll_keeps (l : List UnitId) {v : UnitId} {s : State} (h : (s.unit v).suspect = true) :
    ((suspectAll l s).unit v).suspect = true :=
  List.foldlRecOn l _ (motive := fun w => (w.unit v).suspect = true) h fun w hw u _ => (suspectUnit_suspect 0 u v w).2 (.inr hw)

theorem suspectAll_suspect {l : List UnitId} {v : UnitId} (h : v ∈ l) (s : State) : ((suspectAll l s).unit v).suspect = true := by
  induction l generalizing s with
  | nil => cases h
  | cons u l ih =>
    rcases List.mem_cons.1 h with rfl | h
    · exact suspectAll_keeps l ((suspectUnit_suspect 0 v v s).2 (.inl rfl))
    · exact ih h _

theorem suspectAll_sched (l : List UnitId) (s : State) : (suspectAll l s).sched = s.sched :=
  (Apart.foldl (m := fun f => decide (f = .units)) l (fun s u => suspectUnit 0 u s) (.refl _ s) fun _ _ h => suspectUnit_apart rfl h).same .sched rfl

theorem suspectAll_inCue (l : List UnitId) (s : State) : InCue s (suspectAll l s) :=
  .foldl l _ (.refl s) fun _ _ h => suspectUnit_inCue h

theorem suspectAll_keepsAll (l : List UnitId) (s : State) : Keeps s (suspectAll l s) :=
  .foldl l _ (.refl s) fun _ _ h => suspectUnit_keeps h

/-- The expiry is counted and logged. -/
def logExpiry (k : InstKey) (i : Inst) (s : State) : State :=
  logEvent 0x0810 i.firstId (i.wd + 1) (s.modInst k fun x => { x with wd := i.wd + 1 })

/-- A safety scene's expiry is a detection. -/
def detectExpiry (i : Inst) (s : State) : State := if i.safety then detect 0x0D i.firstId s else s

/-- The run is killed and its units are left to their next proof pass. -/
def expireRun (k : InstKey) (i : Inst) (s : State) : State := suspectAll i.units (killElsewhere 2 i.presses k (detectExpiry i (logExpiry k i s)))

/-- What the count of expiries brings on. -/
def endExpired (k : InstKey) (i : Inst) (s : State) : State :=
  if i.kind = 2 then (if 3 ≤ i.wd + 1 then blockPlay k.play s else s)
  else if 2 ≤ i.wd + 1 ∧ i.kind ≠ kindMove then abandonInst 2 i s else s

theorem exec_sceneWatchdogExpiry (h : s.inst? k = some i) (hr : i.st = .running) (hd : i.at_ + us (2 * i.budget) ≤ (s.at n).now) :
    exec (.sceneWatchdogExpiry n k) s = .next (endExpired k i (expireRun k i (s.at n))) := by
  have hi : (s.at n).inst? k = some i := h
  change execSceneWatchdogExpiry n k s = _
  unfold execSceneWatchdogExpiry
  extract_lets w
  rw [show w.inst? k = some i from hi]
  dsimp only
  rw [if_pos ⟨hr, hd⟩, endExpired]
  split <;> rfl

theorem exec_sceneWatchdogExpiry_early (h : s.inst? k = some i) (hd : (s.at n).now < i.at_ + us (2 * i.budget)) :
    exec (.sceneWatchdogExpiry n k) s = .next (s.at n) := by
  have hi : (s.at n).inst? k = some i := h
  change execSceneWatchdogExpiry n k s = _
  unfold execSceneWatchdogExpiry
  extract_lets w
  rw [show w.inst? k = some i from hi]
  exact if_neg fun e => Nat.not_le.2 hd e.2

theorem detectExpiry_onlyValues (i : Inst) (s : State) : OnlyValues s (detectExpiry i s) := by
  unfold detectExpiry
  split
  · exact detect_onlyValues _ _ s
  · exact .of_sched rfl

theorem detectExpiry_inCue (i : Inst) (s : State) : InCue s (detectExpiry i s) := by
  unfold detectExpiry
  split
  · exact detect_inCue (.refl s)
  · exact .refl s

theorem expireRun_inCue (k : InstKey) (i : Inst) (s : State) : InCue (logExpiry k i s) (expireRun k i s) :=
  (killElsewhere_inCue (detectExpiry_inCue i (logExpiry k i s))).trans (suspectAll_inCue _ _)

/-- The killed entry, with the expiry counted. -/
theorem expireRun_inst? (h : s.inst? k = some i) (hr : i.st = .running) : ∃ w, (expireRun k i s).inst? k =
    some { Inst.killed w { i with wd := i.wd + 1 } with avoid := i.presses } := by
  have hi : (detectExpiry i (logExpiry k i s)).inst? k = some { i with wd := i.wd + 1 } := by
    rw [(detectExpiry_onlyValues i (logExpiry k i s)).inst? k]
    exact (State.inst?_modInst (f := fun x : Inst => { x with wd := i.wd + 1 }) (fun _ => rfl) k s).trans (congrArg (Option.map _) h)
  obtain ⟨w, hw⟩ := killInst_inst? (cause := 2) (by decide) hi hr
  refine ⟨w, (State.inst?_congr (suspectAll_sched _ _) k).trans ?_⟩
  exact (State.inst?_modInst (f := fun x : Inst => { x with avoid := i.presses }) (fun _ => rfl) k _).trans (congrArg (Option.map _) hw)

theorem expireRun_detected (hs : i.safety = true) : Detected s (expireRun k i s) := by
  have hd : Detected s (detectExpiry i (logExpiry k i s)) := by
    rw [detectExpiry, if_pos hs]
    exact (detect_detected _ _ _).of_published rfl
  exact (hd.later (killElsewhere_inCue (.refl _)) (killElsewhere_keeps (.refl _))).later (suspectAll_inCue _ _) (suspectAll_keepsAll _ _)

theorem requeueSteps_sched (l : List Step) (s : State) : (l.foldl (fun s st => requeueRows st s) s).sched = s.sched :=
  (Apart.foldl (m := fun f => decide (f = .cog)) l (fun s st => requeueRows st s) (.refl _ s) fun _ _ h => requeueRows_apart rfl h).same .sched rfl

theorem blockPlay_blocked (play : Nat) (s : State) : play ∈ (blockPlay play s).sched.blocked := by
  unfold blockPlay
  split
  · assumption
  · extract_lets _ v w
    have hw : play ∈ w.sched.blocked := by
      rw [show w.sched = v.sched from requeueSteps_sched _ v]
      exact List.mem_cons_self
    split
    · rw [(deviceFault_onlyValues 4 idImposer w).blocked]
      exact hw
    · exact hw

theorem endExpired_cases (k : InstKey) (i : Inst) (s : State) :
    endExpired k i s = s ∨ endExpired k i s = blockPlay k.play s ∨ endExpired k i s = abandonInst 2 i s := by
  unfold endExpired
  split_ifs <;> simp

theorem endExpired_inCue (k : InstKey) (i : Inst) (s : State) : InCue s (endExpired k i s) := by
  rcases endExpired_cases k i s with e | e | e <;> rw [e]
  · exact .refl s
  · exact blockPlay_inCue (.refl s)
  · exact abandonInst_inCue (.refl s)

theorem endExpired_keeps (k : InstKey) (i : Inst) (s : State) : Keeps s (endExpired k i s) := by
  rcases endExpired_cases k i s with e | e | e <;> rw [e]
  · exact .refl s
  · exact blockPlay_keeps (.refl s)
  · exact abandonInst_keeps (.refl s)

theorem endExpired_units (k : InstKey) (i : Inst) (s : State) : (endExpired k i s).units = s.units := by
  rcases endExpired_cases k i s with e | e | e <;> rw [e]
  · exact (blockPlay_apart (m := butUnits) rfl rfl rfl rfl rfl rfl rfl rfl (.refl _ s)).same .units rfl
  · rfl

theorem abandonInst_inst? {j : Inst} (cause : Nat) (i : Inst) (h : s.inst? i.key = some j) :
    (abandonInst cause i s).inst? i.key = some { j with st := .abandoned, units := [] } :=
  (State.inst?_modInst (f := fun x : Inst => { x with st := .abandoned, units := [] }) (fun _ => rfl) i.key s).trans (congrArg (Option.map _) h)

theorem endExpired_blocks (hk : i.kind = 2) (h : 3 ≤ i.wd + 1) (s : State) : k.play ∈ (endExpired k i s).sched.blocked := by
  rw [endExpired, if_pos hk, if_pos h]
  exact blockPlay_blocked _ s

theorem endExpired_abandons (hk : i.kind ≠ 2) (hm : i.kind ≠ kindMove) (h : 2 ≤ i.wd + 1) (s : State) :
    endExpired k i s = abandonInst 2 i s := by
  rw [endExpired, if_neg hk, if_pos ⟨h, hm⟩]

theorem endExpired_retries (h : (i.kind = 2 ∧ i.wd + 1 < 3) ∨ (i.kind ≠ 2 ∧ (i.kind = kindMove ∨ i.wd + 1 < 2))) (s : State) :
    endExpired k i s = s := by
  rcases h with ⟨hk, hn⟩ | ⟨hk, hn⟩
  · rw [endExpired, if_pos hk, if_neg (Nat.not_le.2 hn)]
  · rw [endExpired, if_neg hk, if_neg]
    rintro ⟨h2, hm⟩
    rcases hn with hn | hn
    · exact hm hn
    · exact absurd h2 (Nat.not_le.2 hn)

theorem completes_sceneWatchdogExpiry (h : s.inst? k = some i) (hr : i.st = .running) (hd : i.at_ + us (2 * i.budget) ≤ (s.at n).now) :
    Completes (.sceneWatchdogExpiry n k) s fun t =>
       Logs s t 0x0810 i.firstId (i.wd + 1) ∧ (∀ u ∈ i.units, (t.unit u).suspect = true) ∧
       (i.safety = true → Stopped t ∧ (s.cue.published = false → t.cue.invalid = true)) ∧
       (i.kind = 2 → 3 ≤ i.wd + 1 → k.play ∈ t.sched.blocked) ∧
       (i.kind ≠ 2 → i.kind ≠ kindMove → 2 ≤ i.wd + 1 → Logs s t 0x0604 i.firstId 2 ∧ ∃ j, t.inst? k = some j ∧ j.st = .abandoned) ∧
       ((i.kind = 2 ∧ i.wd + 1 < 3) ∨ (i.kind ≠ 2 ∧ (i.kind = kindMove ∨ i.wd + 1 < 2)) →
         ∃ j, t.inst? k = some j ∧ j.st = .killed ∧ j.wd = i.wd + 1 ∧ j.avoid = i.presses ∧ j.wasKilled = true ∧ j.units = []) := by
  obtain ⟨w, hw⟩ := expireRun_inst? (s := s.at n) h hr
  obtain ⟨b, hb⟩ := (expireRun_inCue k i (s.at n)).log
  obtain ⟨c, hc⟩ := (endExpired_inCue k i (expireRun k i (s.at n))).log
  have hl : Logs s (expireRun k i (s.at n)) 0x0810 i.firstId (i.wd + 1) :=
    (logEvent_logs 0x0810 i.firstId (i.wd + 1) ((s.at n).modInst k fun x => { x with wd := i.wd + 1 })).later hb
  have hg : ∃ new, LogGrows s (expireRun k i (s.at n)) new := by
    obtain ⟨new, hg, -⟩ := hl
    exact ⟨new, hg⟩
  refine ⟨_, exec_sceneWatchdogExpiry h hr hd, hl.later hc, fun u hu => ?_, fun hs => ?_, fun hk h3 => endExpired_blocks hk h3 _,
    fun hk hm h2 => ?_, fun hf => ?_⟩
  · rw [State.unit_congr (endExpired_units k i _) u]
    exact suspectAll_suspect hu _
  · exact (expireRun_detected (s := s.at n) hs).later (endExpired_inCue k i _) (endExpired_keeps k i _)
  · obtain rfl := inst?_key h
    obtain ⟨new, hg⟩ := hg
    rw [endExpired_abandons hk hm h2]
    exact ⟨.earlier hg (logEvent_logs 0x0604 i.firstId 2 _), _, abandonInst_inst? 2 i hw, rfl⟩
  · rw [endExpired_retries hf]
    exact ⟨_, hw, rfl, rfl, rfl, rfl, rfl⟩

end Watchdog

/-! ### SEQUENCER_TIMEOUT (R357) -/

section Sequencer

variable {s : State} {n : Nat} {p : Fin 16} {h : Fin 8}

theorem exec_sequencerTimeout (hs : (s.at n).seqStuck p h = true) :
    exec (.sequencerTimeout n p h) s = .next (strike 9 (.press p) (logEvent 0x0811 (pressId p) h.1 (s.at n))) :=
  congrArg Host.Outcome.next (if_pos hs)

theorem exec_sequencerTimeout_none (hs : (s.at n).seqStuck p h = false) : exec (.sequencerTimeout n p h) s = .next (s.at n) :=
  congrArg Host.Outcome.next (if_neg (Bool.eq_false_iff.1 hs))

theorem completes_sequencerTimeout (hs : (s.at n).seqStuck p h = true) (hi : s.inServ (.press p) = true) :
    Completes (.sequencerTimeout n p h) s fun t =>
      t.inServ (.press p) = false ∧ Logs s t 0x0811 (pressId p) h.1 ∧ Logs s t 0x0802 (pressId p) 9 := by
  have hl := logEvent_logs 0x0811 (pressId p) h.1 (s.at n)
  have ht := strike_logs (s := logEvent 0x0811 (pressId p) h.1 (s.at n)) (u := .press p) hi 9
  obtain ⟨a, ha, -⟩ := id hl
  obtain ⟨b, hb, -⟩ := id ht
  exact ⟨_, exec_sequencerTimeout hs, strike_out _ _ _, hl.later hb, ht.earlier ha⟩

theorem seqStuck_none (hr : s.runOn p = none) : (s.at n).seqStuck p h = false := by
  rw [State.seqStuck, State.at_runOn, hr]
  rfl

end Sequencer

/-! ### RELOWER_COMPLETE (R259, R358) -/

section Relower

variable {s t : State} {n : Nat} {k : InstKey}

/-- A scene's entry waits for its new lowering no longer. -/
def endRelower (k : InstKey) (s : State) : State := s.modInst k fun i => { i with relower := false }

theorem exec_relowerComplete (h : (s.inst? k).any Inst.relower = true) : exec (.relowerComplete n k) s =
    .next (endRelower k (if (s.at n).copySound k.play = true then s.at n else restoreCopy k.play (s.at n))) :=
  if_pos h

theorem exec_relowerComplete_none (h : (s.inst? k).any Inst.relower = false) : exec (.relowerComplete n k) s = .next (s.at n) :=
  if_neg (Bool.eq_false_iff.1 h)

theorem State.at_copySound (play : Nat) : (s.at n).copySound play = s.copySound play := rfl

theorem exec_relowerComplete_sound (h : (s.inst? k).any Inst.relower = true) (hc : s.copySound k.play = true) :
    exec (.relowerComplete n k) s = .next { s.at n with sched := { s.sched with
      insts := s.sched.insts.map fun i => if i.key = k then { i with relower := false } else i } } := by
  rw [exec_relowerComplete h, State.at_copySound, hc, if_pos rfl, endRelower, State.modInst, lmod]
  simp only [decide_eq_true_eq]
  rfl

theorem endRelower_inst? : ∀ j, (endRelower k s).inst? k = some j → j.relower = false := by
  intro j hj
  have e := (State.inst?_modInst (f := fun i : Inst => { i with relower := false }) (fun _ => rfl) k s).symm.trans hj
  obtain ⟨x, -, rfl⟩ := Option.map_eq_some_iff.1 e
  rfl

/-- One page of a copy container is written anew, with event 0x0403. -/
def restorePage (dev sector : Nat) (bs : List Byte) (s : State) : State :=
  logEvent 0x0403 idImposer sector (countRestored (devWrite dev bs s))

/-- Pages restored in turn: the last one's event is the newest, and the schedule stands. -/
theorem foldl_restorePage {f : State → Nat → State} (hf : ∀ s k, ∃ d e bs, f s k = restorePage d e bs s) (m : Nat) (s : State) :
    ((List.range m).foldl f s).sched = s.sched ∧ (m ≠ 0 → ∃ d, Newest ((List.range m).foldl f s) 0x0403 idImposer d) := by
  induction m with
  | zero => exact ⟨rfl, fun h => absurd rfl h⟩
  | succ m ih =>
    obtain ⟨d, e, bs, h⟩ := hf ((List.range m).foldl f s) m
    rw [List.range_succ, List.foldl_append, List.foldl_cons, List.foldl_nil, h]
    exact ⟨ih.1, fun _ => ⟨e, logEvent_newest _ _ _ _⟩⟩

variable {c : Nat × Nat} {x : Section}

/-- What LOADING recorded of a play's copy container. -/
def State.copyRecs (s : State) (play : Nat) : List (List Byte) :=
  ((s.forme.copyRecs.find? fun e => e.1 = play).map Prod.snd).getD []

/-- A restoration that its record does not fit: the play is no longer admitted. -/
def endCopy (play : Nat) (s : State) : State :=
  let s := logEvent 0x0405 idImposer 0 s
  { s with sched := { s.sched with unmapped := if play ∈ s.sched.unmapped then s.sched.unmapped else play :: s.sched.unmapped } }

/-- A container that its record fits is written anew page by page. -/
theorem restoreCopy_match {play : Nat} (hc : s.forme.copies.find? (fun c => c.1 = play) = some c)
    (hx : findSection s.forme.sections 5 play = some x) (he : ((x.chunks s.ufs).map fun d => d.take 8) = s.copyRecs play)
    (hne : s.copyRecs play ≠ []) :
    (restoreCopy play s).sched = s.sched ∧ ∃ d, Newest (restoreCopy play s) 0x0403 idImposer d := by
  unfold State.copyRecs at he hne
  unfold restoreCopy
  rw [hc, hx]
  dsimp only
  rw [if_pos he]
  refine And.imp_right (fun h => h (mt List.length_eq_zero_iff.1 hne)) (foldl_restorePage ?_ _ s)
  exact fun _ _ => ⟨_, _, _, rfl⟩

theorem restoreCopy_differs {play : Nat} (hc : s.forme.copies.find? (fun c => c.1 = play) = some c)
    (hx : findSection s.forme.sections 5 play = some x) (he : ((x.chunks s.ufs).map fun d => d.take 8) ≠ s.copyRecs play) :
    restoreCopy play s = endCopy play s := by
  unfold State.copyRecs at he
  unfold restoreCopy
  rw [hc, hx]
  dsimp only
  rw [if_neg he]
  rfl

theorem endCopy_unmapped (play : Nat) (s : State) : play ∈ (endCopy play s).sched.unmapped := by
  show play ∈ (if play ∈ s.sched.unmapped then s.sched.unmapped else play :: s.sched.unmapped)
  split
  · assumption
  · exact List.mem_cons_self

theorem completes_relowerComplete_restored (h : (s.inst? k).any Inst.relower = true) (hs : s.copySound k.play = false)
    (hc : s.forme.copies.find? (fun c => c.1 = k.play) = some c) (hx : findSection s.forme.sections 5 k.play = some x) :
    Completes (.relowerComplete n k) s fun t => (∀ j, t.inst? k = some j → j.relower = false) ∧
      ∀ recs, recs = s.copyRecs k.play →
        (((x.chunks s.ufs).map fun d => d.take 8) = recs → recs ≠ [] → (∃ d, Newest t 0x0403 idImposer d) ∧ t.sched.unmapped = s.sched.unmapped) ∧
        (((x.chunks s.ufs).map fun d => d.take 8) ≠ recs → Newest t 0x0405 idImposer 0 ∧ k.play ∈ t.sched.unmapped ∧ t.mem = s.mem) := by
  have e := exec_relowerComplete (n := n) h
  rw [State.at_copySound, hs, if_neg Bool.false_ne_true] at e
  refine ⟨_, e, endRelower_inst?, fun recs hr => ?_⟩
  subst hr
  refine ⟨fun he hne => ?_, fun he => ?_⟩
  · obtain ⟨hsched, d, hd⟩ := restoreCopy_match (s := s.at n) hc hx he hne
    exact ⟨⟨d, hd.same_log rfl⟩, show (restoreCopy k.play (s.at n)).sched.unmapped = _ by rw [hsched]; rfl⟩
  · rw [restoreCopy_differs (s := s.at n) hc hx he]
    exact ⟨(logEvent_newest 0x0405 idImposer 0 (s.at n)).same_log rfl, endCopy_unmapped _ _, rfl⟩

end Relower

/-- Settles O33: an expiry in its stages (counted, detected, killed, and what its count brings on), the press's strike, and the copy container's pages
restored one after another. -/
theorem sceneTimeouts : Obligations.SceneTimeouts := by
  refine ⟨fun n k i s hi hr => ⟨completes_sceneWatchdogExpiry hi hr, exec_sceneWatchdogExpiry_early hi⟩, fun n p h k s =>
    ⟨completes_sequencerTimeout, exec_sequencerTimeout_none, seqStuck_none, exec_relowerComplete_sound, fun hr hs c x hc hx =>
      completes_relowerComplete_restored hr hs hc hx, exec_relowerComplete_none⟩⟩

end Sys2Proof.Machine

namespace Sys2Proof.Machine

/-! ### What requests do to the memory (R241, R242, R280) -/

section Requests

variable {s t w : State} {p : Fin 16}

/-- A tracker of the same request. -/
structure Tracker.Alike (x y : Tracker) : Prop where
  id : x.id = y.id
  pool : x.pool = y.pool
  press : x.press = y.press
  play : x.play = y.play
  addr : x.addr = y.addr

theorem Tracker.Alike.refl (x : Tracker) : x.Alike x := ⟨rfl, rfl, rfl, rfl, rfl⟩

theorem Tracker.Alike.trans {x y z : Tracker} (a : x.Alike y) (b : y.Alike z) : x.Alike z :=
  ⟨a.id.trans b.id, a.pool.trans b.pool, a.press.trans b.press, a.play.trans b.play, a.addr.trans b.addr⟩

/-- Requests are made or go on: trackers come, under new numbers, and none leaves; of the rest of the memory only the galley cache's lines
change. -/
structure Asked (s t : State) : Prop where
  mem : ∃ l n g, t.mem = { s.mem with trackers := l, nextId := n, glines := g }
  next : s.mem.nextId ≤ t.mem.nextId
  fresh : ∀ x ∈ t.mem.trackers, (∃ y ∈ s.mem.trackers, y.id = x.id) ∨ s.mem.nextId ≤ x.id
  kept : ∀ y ∈ s.mem.trackers, ∃ x ∈ t.mem.trackers, x.Alike y

theorem Asked.of_mem (h : t.mem = s.mem) : Asked s t := by
  refine ⟨⟨_, _, _, h⟩, by rw [h], fun x hx => .inl ⟨x, h ▸ hx, rfl⟩, fun y hy => ⟨y, ?_, .refl y⟩⟩
  rw [h]
  exact hy

theorem Asked.refl (s : State) : Asked s s := .of_mem rfl

theorem Asked.trans (a : Asked s t) (b : Asked t w) : Asked s w := by
  refine ⟨?_, a.next.trans b.next, fun x hx => ?_, fun y hy => ?_⟩
  · obtain ⟨_, _, _, ha⟩ := a.mem
    obtain ⟨l, n, g, hb⟩ := b.mem
    exact ⟨l, n, g, by rw [hb, ha]⟩
  · rcases b.fresh x hx with ⟨y, hy, e⟩ | h
    · exact e ▸ a.fresh y hy
    · exact .inr (a.next.trans h)
  · obtain ⟨x, hx, hxy⟩ := a.kept y hy
    obtain ⟨z, hz, hzx⟩ := b.kept x hx
    exact ⟨z, hz, hzx.trans hxy⟩

theorem Asked.ite {x y : State} {q : Prop} [Decidable q] (hx : Asked s x) (hy : Asked s y) : Asked s (if q then x else y) := by
  split
  · exact hx
  · exact hy

theorem Asked.foldl {α : Type} (l : List α) (f : State → α → State) (h : Asked s t) (hf : ∀ w x, Asked w (f w x)) : Asked s (l.foldl f t) :=
  List.foldlRecOn l f (motive := fun w => Asked s w) h fun w hw x _ => hw.trans (hf w x)

theorem Asked.apart (h : Apart butMem s t) : Asked s t := .of_mem (h.same .mem rfl)

/-- Trackers of the same requests, some of them changed, and new ones under new numbers. -/
theorem Asked.of_append {new : List Tracker} {f : Tracker → Bool} {g : Tracker → Tracker} (hg : ∀ x, (g x).Alike x)
    (hm : ∃ l n g, t.mem = { s.mem with trackers := l, nextId := n, glines := g }) (ht : t.mem.trackers = lmod f g s.mem.trackers ++ new)
    (hn : s.mem.nextId ≤ t.mem.nextId) (hnew : ∀ x ∈ new, s.mem.nextId ≤ x.id) : Asked s t := by
  have alike : ∀ y, (if f y then g y else y).Alike y := fun y => by
    split
    · exact hg y
    · exact .refl y
  refine ⟨hm, hn, fun x hx => ?_, fun y hy => ⟨_, ?_, alike y⟩⟩
  · rw [ht] at hx
    rcases List.mem_append.1 hx with hx | hx
    · obtain ⟨y, hy, rfl⟩ := List.mem_map.1 hx
      exact .inl ⟨y, hy, (alike y).id.symm⟩
    · exact .inr (hnew x hx)
  · rw [ht]
    exact List.mem_append_left _ (List.mem_map_of_mem hy)

theorem Asked.of_lmod {f : Tracker → Bool} {g : Tracker → Tracker}
    (hm : ∃ l n g, t.mem = { s.mem with trackers := l, nextId := n, glines := g }) (ht : t.mem.trackers = lmod f g s.mem.trackers)
    (hn : s.mem.nextId ≤ t.mem.nextId) (hg : ∀ x, (g x).Alike x) : Asked s t :=
  .of_append hg hm (new := []) (by rw [ht, List.append_nil]) hn fun _ h => nomatch h

theorem takeCtl_asked (s : State) (x : Tracker) : Asked s (takeCtl s x) := by
  unfold takeCtl
  split
  · refine .ite (.of_append (f := fun y => y.id = x.id) (g := fun y => { y with noCtl := false }) (fun _ => ⟨rfl, rfl, rfl, rfl, rfl⟩)
      ⟨_, _, _, rfl⟩ rfl (Nat.le_succ _) fun y hy => ?_) (.refl s)
    rw [List.mem_singleton.1 hy]
  · exact .refl s

theorem takeCtls_asked (part : Nat) (s : State) : Asked s (takeCtls part s) := .foldl _ _ (.refl s) takeCtl_asked

theorem passOne_asked (part : Nat) (o : Owed) (s : State) : Asked s (passOne part o s) := by
  have paid : Asked s (s.modPart part fun r => { r with bucket := r.bucket - 1 - (if o.fill then 3 else 0) }) :=
    .apart (State.modPart_apart rfl (.refl _ s))
  have passed : ∀ w : State, Asked w { w with mem := { w.mem with
      trackers := lmod (fun t => t.id = o.id) (fun t => { t with waits := false, noCtl := true, at_ := w.now }) w.mem.trackers } } :=
    fun w => .of_lmod ⟨_, _, _, rfl⟩ rfl le_rfl fun _ => ⟨rfl, rfl, rfl, rfl, rfl⟩
  exact (paid.trans (passed _)).trans (takeCtls_asked part _)

theorem passOwed_asked (part : Nat) (l : List Owed) (s : State) : Asked s (passOwed part l s) := by
  induction l generalizing s with
  | nil => exact .apart (State.modPart_apart rfl (.refl _ s))
  | cons o l ih =>
    rw [passOwed]
    exact .ite ((passOne_asked part o s).trans (ih _)) (.apart (State.modPart_apart rfl (.refl _ s)))

/-- The tracker that a request takes, before it passes its regulator. -/
def newTracker (pool : Nat) (p : Fin 16) (part play addr : Nat) (write waits : Bool) (s : State) : Tracker :=
  { id := s.mem.nextId, press := some p, stack := none, pool := pool, part := part, play := play, addr := addr
    dev := (s.translate play addr).getD 0, write := write, waits := waits, killed := false, reissued := false, drop := false, at_ := s.now }

/-- A request under a number of its own. -/
def takeTracker (x : Tracker) (s : State) : State :=
  { s with mem := { s.mem with nextId := s.mem.nextId + 1, trackers := s.mem.trackers ++ [x] } }

theorem takeTracker_asked {x : Tracker} (h : x.id = s.mem.nextId) : Asked s (takeTracker x s) := by
  refine .of_append (f := fun _ => false) (g := id) .refl ⟨_, _, _, rfl⟩ ?_ (Nat.le_succ _) (new := [x]) fun y hy => ?_
  · rw [lmod_of_false _ fun _ _ => rfl]
    rfl
  · rw [List.mem_singleton.1 hy, h]

/-- A request takes a tracker of its own, and goes on. -/
theorem request_asked (pool : Nat) (p : Fin 16) (part play addr : Nat) (write fill : Bool) (s : State) :
    ∃ b, Asked (takeTracker (newTracker pool p part play addr write b s) s) (request pool p part play addr write fill s) := by
  unfold request
  extract_lets dev stk id _ u
  exact ⟨stk, .ite (passOwed_asked ..) (.refl u)⟩

theorem Asked.request (pool part play addr : Nat) (write fill : Bool) (h : Asked s t) :
    Asked s (request pool p part play addr write fill t) := by
  obtain ⟨b, hb⟩ := request_asked pool p part play addr write fill t
  exact (h.trans (takeTracker_asked rfl)).trans hb

theorem useLine_asked (part d : Nat) (s : State) : Asked s (useLine part d s) := by
  unfold useLine
  exact .ite (.refl s) (.of_lmod (f := fun _ => false) (g := id) ⟨_, _, _, rfl⟩ (lmod_of_false _ fun _ _ => rfl).symm le_rfl .refl)

theorem useLine_nextId (part d : Nat) (s : State) : (useLine part d s).mem.nextId = s.mem.nextId := by
  unfold useLine
  dsimp only
  split <;> rfl

theorem tallyOn_asked (p : Fin 16) (f : Tally → Tally) (s : State) : Asked s (tallyOn p f s) := .of_mem rfl

/-- A block that lies in the galley or a stack is asked for, once the cache's lines and the charges are noted. -/
theorem moveBlock_asks (pool : Nat) (p : Fin 16) (part play : Nat) (write : Bool) (addr : Nat) (s : State)
    (h : ∃ r, region ((s.translate play addr).getD 0) = r ∧ ((∃ m, r = .galley m) ∨ ∃ m, r = .stack m)) :
    ∃ w fill, Asked s w ∧ w.mem.nextId = s.mem.nextId ∧ moveBlock pool p part play write addr s = request pool p part play addr write fill w := by
  unfold moveBlock
  extract_lets dev u hit fill v
  obtain ⟨_, hr, ⟨m, rfl⟩ | ⟨m, rfl⟩⟩ := h
  · rw [show region dev = .galley m from hr]
    refine ⟨_, _, ?_, ?_, rfl⟩
    · exact .of_mem rfl
    · rfl
  · rw [show region dev = .stack m from hr]
    have hv : Asked s v := by
      unfold v
      exact .ite ((tallyOn_asked p _ s).trans (useLine_asked ..)) (tallyOn_asked p _ s)
    have hn : v.mem.nextId = s.mem.nextId := by
      unfold v
      split
      · exact useLine_nextId ..
      · rfl
    refine ⟨_, _, ?_, ?_, rfl⟩
    · exact hv.trans (tallyOn_asked p _ v)
    · exact hn

theorem moveBlock_asked (pool : Nat) (p : Fin 16) (part play : Nat) (write : Bool) (addr : Nat) (s : State) :
    Asked s (moveBlock pool p part play write addr s) := by
  by_cases h : ∃ r, region ((s.translate play addr).getD 0) = r ∧ ((∃ m, r = .galley m) ∨ ∃ m, r = .stack m)
  · obtain ⟨w, fill, hw, -, e⟩ := moveBlock_asks pool p part play write addr s h
    rw [e]
    exact .request _ _ _ _ _ _ hw
  · unfold moveBlock
    dsimp only
    split
    · next m hm => exact absurd ⟨_, hm, .inl ⟨m, rfl⟩⟩ h
    · next m hm => exact absurd ⟨_, hm, .inr ⟨m, rfl⟩⟩ h
    · exact tallyOn_asked ..

theorem askBlocks_asked (p : Fin 16) (part play : Nat) (u : Fin 3) (l : List (Nat × Bool)) (s : State) :
    Asked s (askBlocks p part play u l s) := by
  induction l generalizing s with
  | nil => exact .of_mem rfl
  | cons x l ih =>
    rw [askBlocks]
    exact .ite ((moveBlock_asked ..).trans (ih _)) (.of_mem rfl)

theorem compNext_asked (p : Fin 16) (c : Fin 2) (s : State) : Asked s (compNext p c s) := .ite (.of_mem rfl) (.refl s)

theorem goOn_asked (p : Fin 16) (i : Inst) (s : State) : Asked s (goOn p i s) := by
  have asked := Asked.foldl (List.finRange 3) _ (.refl s) fun w u => askBlocks_asked p i.part i.key.play u ((w.press.get p).left.get u) w
  have done := asked.trans (.foldl (List.finRange 2) _ (.refl _) fun w c => compNext_asked p c w)
  exact done.trans (.apart (pumpAll_apart rfl (.refl _ _)))

theorem goOnRun_asked (p : Fin 16) (s : State) : Asked s (goOnRun p s) := by
  unfold goOnRun
  split
  · exact goOn_asked ..
  · exact .refl s

/-! ### Numbers that no request holds any longer -/

/-- A request's number has been given out, and no tracker holds it any longer. -/
structure Answered (id : Nat) (s : State) : Prop where
  given : id < s.mem.nextId
  gone : ∀ x ∈ s.mem.trackers, x.id ≠ id

theorem Answered.asked {id : Nat} (h : Answered id s) (a : Asked s t) : Answered id t := by
  refine ⟨h.given.trans_le a.next, fun x hx e => ?_⟩
  rcases a.fresh x hx with ⟨y, hy, e'⟩ | hge
  · exact h.gone y hy (e'.trans e)
  · exact absurd h.given (Nat.not_lt.2 (e ▸ hge))

/-- A tracker leaves, a press's with the stack controller's for the same request. -/
def dropTracker (r : Tracker) (s : State) : State :=
  { s with mem := { s.mem with trackers := s.mem.trackers.filter fun x => !(decide (x.id = r.id) ||
    (r.stack.isNone && x.stack.isSome && decide (x.press = r.press) && decide (x.pool = r.pool) && decide (x.play = r.play) && decide (x.addr = r.addr))) } }

theorem dropTracker_answered (r : Tracker) (h : r.id < s.mem.nextId) : Answered r.id (dropTracker r s) := by
  refine ⟨h, fun x hx e => ?_⟩
  simp [dropTracker, e] at hx

theorem freeTracker_asked (r : Tracker) (s : State) : Asked (dropTracker r s) (freeTracker r s) :=
  (takeCtls_asked _ _).trans (passOwed_asked ..)

theorem State.tracker?_id {id : Nat} {r : Tracker} (h : s.tracker? id = some r) : r.id = id := by
  simpa using List.find?_some h

end Requests

/-! ### What a kill does to the memory (R231, R243, R245, R260) -/

section Kills

variable {s t w : State}

/-- Runs end: of their requests some leave and some are marked, none is made; their streams, re-sends and mappings go. -/
structure Released (s t : State) : Prop where
  mem : ∃ l f h d e, t.mem = { s.mem with trackers := l, prefetch := f, hops := h, drops := d, l2 := e }
  trackers : ∀ x ∈ t.mem.trackers, ∃ y ∈ s.mem.trackers, x = y ∨ x = { y with killed := true }
  resends : ∀ a b, (t.hop a b).resends ⊆ (s.hop a b).resends

theorem Released.of_mem (h : t.mem = s.mem) : Released s t := by
  refine ⟨⟨_, _, _, _, _, h⟩, fun x hx => ⟨x, h ▸ hx, .inl rfl⟩, fun a b => ?_⟩
  rw [State.hop, State.hop, h]
  exact List.Subset.refl _

theorem Released.refl (s : State) : Released s s := .of_mem rfl

theorem Released.trans (a : Released s t) (b : Released t w) : Released s w := by
  refine ⟨?_, fun x hx => ?_, fun c d => List.Subset.trans (b.resends c d) (a.resends c d)⟩
  · obtain ⟨_, _, _, _, _, ha⟩ := a.mem
    obtain ⟨l, f, h, d, e, hb⟩ := b.mem
    exact ⟨l, f, h, d, e, by rw [hb, ha]⟩
  · obtain ⟨y, hy, hxy⟩ := b.trackers x hx
    obtain ⟨z, hz, hyz⟩ := a.trackers y hy
    refine ⟨z, hz, ?_⟩
    rcases hyz with rfl | rfl
    · exact hxy
    · rcases hxy with rfl | rfl <;> exact .inr rfl

theorem Released.ite {x y : State} {q : Prop} [Decidable q] (hx : Released s x) (hy : Released s y) : Released s (if q then x else y) := by
  split
  · exact hx
  · exact hy

theorem Released.foldl {α : Type} (l : List α) (f : State → α → State) (h : Released s t) (hf : ∀ w x, Released w (f w x)) :
    Released s (l.foldl f t) :=
  List.foldlRecOn l f (motive := fun w => Released s w) h fun w hw x _ => hw.trans (hf w x)

theorem Released.apart (h : Apart butMem s t) : Released s t := .of_mem (h.same .mem rfl)

/-- A hop's re-sends go as long as its ends stay. -/
theorem hop_map_resends {f : Hop → Hop} (ht : t.mem.hops = s.mem.hops.map f) (hr : ∀ h, (f h).recv = h.recv)
    (hs : ∀ h, (f h).send = h.send) (hsub : ∀ h, (f h).resends ⊆ h.resends) (a b : Byte) :
    (t.hop a b).resends ⊆ (s.hop a b).resends := by
  have e : ((fun h : Hop => decide (h.recv = a ∧ h.send = b)) ∘ f) = fun h => decide (h.recv = a ∧ h.send = b) := by
    funext h
    simp only [Function.comp, hr, hs]
  rw [State.hop, State.hop, ht, List.find?_map, e]
  cases s.mem.hops.find? fun h => decide (h.recv = a ∧ h.send = b) with
  | none => exact List.Subset.refl _
  | some h => exact hsub h

theorem dropRequests_released (ps : List (Fin 16)) (s : State) : Released s (dropRequests ps s) := by
  refine ⟨⟨_, _, _, _, _, rfl⟩, fun x hx => ?_, hop_map_resends rfl (fun _ => rfl) (fun _ => rfl) fun h => List.filter_subset_self _⟩
  obtain ⟨y, hy, rfl⟩ := List.mem_map.1 hx
  refine ⟨y, List.mem_of_mem_filter hy, ?_⟩
  split
  · split
    · exact .inr rfl
    · exact .inl rfl
  · exact .inl rfl

theorem unmapPage_released (play page : Nat) (s : State) : Released s (unmapPage play page s) := by
  have same : ∀ {w : State}, w.mem.trackers = s.mem.trackers → w.mem.hops = s.mem.hops →
      (∃ l f h d e, w.mem = { s.mem with trackers := l, prefetch := f, hops := h, drops := d, l2 := e }) → Released s w :=
    fun ht hh hm => ⟨hm, fun x hx => ⟨x, ht ▸ hx, .inl rfl⟩, fun a b => by
      rw [State.hop, State.hop, hh]
      exact List.Subset.refl _⟩
  unfold unmapPage
  split
  · exact .refl s
  · unfold startDrop
    split <;> exact same rfl rfl ⟨_, _, _, _, _, rfl⟩

theorem unmapBufs_released (i : Inst) (s : State) : Released s (unmapBufs i s) :=
  Released.foldl _ _ (.foldl _ _ (.refl s) fun _ _ => unmapPage_released ..) fun w _ => .ite (.refl w) (unmapPage_released ..)

theorem releaseRun_released (cause : Nat) (i : Inst) (s : State) : Released s (releaseRun cause i s) := by
  have noted : Released s ((logKill i cause (chargeRun i s)).modPart i.part (bump PartRt.kills (fun r v => { r with kills := v }) 2)) :=
    .apart (State.modPart_apart rfl (logKill_apart rfl rfl (chargeRun_apart rfl rfl rfl rfl (.refl _ _))))
  have buried := (noted.trans (dropRequests_released i.presses _)).trans (.apart (buryBufs_apart (a1 := i) rfl (.refl _ _)))
  exact (Released.foldl i.presses _ buried fun w p => .apart (flushPress_apart rfl rfl (.refl _ w))).trans (unmapBufs_released i _)

theorem killInst_released (cause : Nat) (k : InstKey) (s : State) : Released s (killInst cause k s) := by
  rcases killInst_cases cause k s with e | ⟨i, -, -, e⟩
  · rw [e]
    exact .refl s
  · have he : Released s (endRun cause i s) := (releaseRun_released cause i s).trans (.of_mem rfl)
    rw [e]
    exact .ite (he.trans (.of_mem rfl)) he

theorem killElsewhere_released (cause : Nat) (ps : List (Fin 16)) (k : InstKey) (s : State) : Released s (killElsewhere cause ps k s) :=
  (killInst_released cause k s).trans (.of_mem rfl)

theorem killWhere_released (cause : Nat) (f : Inst → Bool) (s : State) : Released s (killWhere cause f s) :=
  .foldl _ _ (.refl s) fun w k => killInst_released cause k w

theorem Answered.released {id : Nat} (h : Answered id s) (a : Released s t) : Answered id t := by
  obtain ⟨_, _, _, _, _, e⟩ := a.mem
  refine ⟨by rw [e]; exact h.given, fun x hx => ?_⟩
  obtain ⟨y, hy, e⟩ := a.trackers x hx
  rcases e with rfl | rfl
  · exact h.gone _ hy
  · exact h.gone y hy

theorem Released.poisoned (a : Released s t) (d : Nat) : t.poisoned d = s.poisoned d := by
  obtain ⟨_, _, _, _, _, e⟩ := a.mem
  rw [State.poisoned, State.poisoned, e]

end Kills

/-! ### Stagehands that are woken (R120, R241) -/

section Waking

variable {a b c : Press} {s t w : State} {p : Fin 16}

/-- A press's stagehands are as they were, or wait no longer. -/
structure Press.Wakes (a b : Press) : Prop where
  hand : ∀ h, b.hands.get h = a.hands.get h ∨ (b.hands.get h).wait = .none

theorem Press.Wakes.of_hands (h : b.hands = a.hands) : Press.Wakes a b := ⟨fun _ => .inl (by rw [h])⟩

theorem Press.Wakes.refl (a : Press) : Press.Wakes a a := .of_hands rfl

theorem Press.Wakes.trans (h : Press.Wakes a b) (g : Press.Wakes b c) : Press.Wakes a c := ⟨fun x => by
  rcases g.hand x with e | e
  · rw [e]
    exact h.hand x
  · exact .inr e⟩

theorem Press.Wakes.wakeHands (cyc : Nat) (f : WaitReason → Bool) (h : Press.Wakes a b) : Press.Wakes a (wakeHands cyc f b) := ⟨fun x => by
  simp only [Machine.wakeHands, Vector.get_eq_getElem, Vector.getElem_map]
  split
  · exact .inr rfl
  · exact h.hand x⟩

theorem closeGroup_hands (f : PressOp) (a : Press) : (closeGroup f a).hands = a.hands := by
  unfold closeGroup
  split
  · rfl
  · split <;> rfl

theorem startFeed_wakes (x : Waiting) (xs : List Waiting) (cyc : Nat) (a : Press) : Press.Wakes a (startFeed x xs cyc a) := by
  have h : (a.swapped (pressOp x.w)).hands = a.hands := by
    unfold Press.swapped
    split <;> rfl
  unfold startFeed
  exact .wakeHands _ _ (.trans (.of_hands h) (.of_hands rfl))

/-- Every press's stagehands are as they were, or wait no longer. -/
structure Wakes (s t : State) : Prop where
  press : ∀ q, Press.Wakes (s.press.get q) (t.press.get q)

theorem Wakes.of_press (h : t.press = s.press) : Wakes s t := ⟨fun q => by
  rw [h]
  exact .refl _⟩

theorem Wakes.refl (s : State) : Wakes s s := .of_press rfl

theorem Wakes.trans (h : Wakes s t) (g : Wakes t w) : Wakes s w := ⟨fun q => (h.press q).trans (g.press q)⟩

theorem Wakes.foldl {α : Type} (l : List α) (f : State → α → State) (h : Wakes s t) (hf : ∀ w x, Wakes w (f w x)) : Wakes s (l.foldl f t) :=
  List.foldlRecOn l f (motive := fun w => Wakes s w) h fun w hw x _ => hw.trans (hf w x)

theorem Wakes.apart (h : Apart butPress s t) : Wakes s t := .of_press (h.same .press rfl)

theorem State.modPress_wakes {f : Press → Press} (h : Press.Wakes (s.press.get p) (f (s.press.get p))) : Wakes s (s.modPress p f) := ⟨fun q => by
  rw [State.modPress_get]
  split
  · next e => exact e ▸ h
  · exact .refl _⟩

theorem tallyOn_wakes (p : Fin 16) (f : Tally → Tally) (s : State) : Wakes s (tallyOn p f s) := State.modPress_wakes (.of_hands rfl)

theorem Wakes.ite {x y : State} {q : Prop} [Decidable q] (hx : Wakes s x) (hy : Wakes s y) : Wakes s (if q then x else y) := by
  split
  · exact hx
  · exact hy

theorem Wakes.request (pool part play addr : Nat) (write fill : Bool) (h : Wakes s t) : Wakes s (request pool p part play addr write fill t) :=
  h.trans (.apart (request_apart rfl rfl (.refl _ t)))

theorem moveBlock_wakes (pool : Nat) (p : Fin 16) (part play : Nat) (write : Bool) (addr : Nat) (s : State) :
    Wakes s (moveBlock pool p part play write addr s) := by
  unfold moveBlock
  dsimp only
  have h := tallyOn_wakes p (fun t => { t with fabric := t.fabric + 1 }) s
  generalize tallyOn p (fun t => { t with fabric := t.fabric + 1 }) s = w at h
  split
  · exact .request _ _ _ _ _ _ (h.trans (tallyOn_wakes ..))
  · exact .request _ _ _ _ _ _ (Wakes.trans (.ite (h.trans (.apart (useLine_apart rfl (.refl _ w)))) h) (tallyOn_wakes ..))
  · exact h

theorem askBlocks_wakes (p : Fin 16) (part play : Nat) (u : Fin 3) (l : List (Nat × Bool)) (s : State) :
    Wakes s (askBlocks p part play u l s) := by
  have left : ∀ l, Wakes s (setLeft p u l s) := fun _ => State.modPress_wakes (.of_hands rfl)
  induction l generalizing s with
  | nil => exact left _
  | cons x l ih =>
    rw [askBlocks]
    exact .ite ((moveBlock_wakes ..).trans (ih _ fun _ => State.modPress_wakes (.of_hands rfl))) (left _)

theorem compNext_wakes (p : Fin 16) (c : Fin 2) (s : State) : Wakes s (compNext p c s) :=
  .ite (State.modPress_wakes (.wakeHands _ _ (.of_hands rfl))) (.refl s)

theorem feed_wakes (p : Fin 16) (c : Feeding) (s : State) : Wakes s (feed p c s) := by
  unfold feed
  dsimp only
  split
  · exact .refl s
  · refine State.modPress_wakes ?_
    split
    · exact .of_hands rfl
    · refine .of_hands ((apply_ite Press.hands _ _ _).trans ?_)
      rw [closeGroup_hands, pushTrace_hands]
      exact ite_self _

theorem pump_wakes (p : Fin 16) (n : Nat) (s : State) : Wakes s (pump p n s) := by
  induction n generalizing s with
  | zero => exact .refl s
  | succ n ih =>
    unfold pump
    split
    · exact .ite (feed_wakes ..) ((feed_wakes ..).trans (ih _))
    · exact .refl s
    · exact .ite ((State.modPress_wakes (startFeed_wakes ..)).trans (ih _)) (.refl s)

theorem goOn_wakes (p : Fin 16) (i : Inst) (s : State) : Wakes s (goOn p i s) := by
  have asked := Wakes.foldl (List.finRange 3) _ (.refl s) fun w u => askBlocks_wakes p i.part i.key.play u ((w.press.get p).left.get u) w
  have done := asked.trans (.foldl (List.finRange 2) _ (.refl _) fun w c => compNext_wakes p c w)
  exact done.trans (pump_wakes p 11 _)

theorem goOnRun_wakes (p : Fin 16) (s : State) : Wakes s (goOnRun p s) := by
  unfold goOnRun
  split
  · exact goOn_wakes ..
  · exact .refl s

end Waking

end Sys2Proof.Machine

namespace Sys2Proof.Machine

/-! ### TRACKER_RESPONSE (R241, R243) -/

section Responses

variable {s t : State} {n id : Nat} {r : Tracker} {p : Fin 16} {e : EccObs}

/-- A tracker frees: its compositor has heard of the block, and the requests that waited for a tracker go on. -/
def freed (r : Tracker) (s : State) : State :=
  freeTracker r (match r.press with
    | some p => compBlock p r.pool s
    | none => s)

/-- What the read of a block met. -/
def eccMet (ecc : EccObs) (d : Nat) (reader : Option InstKey) (s : State) : State :=
  match ecc with
  | .clean => s
  | .single => corrected d s
  | .double => doubleError d reader s

/-- The scene that reads a request's block, where one does. -/
def State.readerOf (s : State) (r : Tracker) : Option InstKey :=
  if r.pool = 3 ∨ r.write = true then none else (if r.killed then none else r.press.bind s.runOn).map Inst.key

/-- A block, poisoned or not, stays in the case cache. -/
def State.keepsBlock (s : State) (r : Tracker) (bad : Bool) : Bool :=
  !bad && !r.drop && !r.write && decide (r.pool = 0 ∨ r.pool = 3) && ((s.pte? r.play (r.addr / 2 ^ 21)).any cacheable)

/-- The case cache takes a block that stays in it. -/
def keepIt (r : Tracker) (p : Fin 16) (bad : Bool) (s : State) : State := if s.keepsBlock r bad then useBlock p r.dev s else s

/-- A block reaches its press. -/
def bringBlock (r : Tracker) (p : Fin 16) (bad : Bool) (s : State) : State := goOnRun p (wakeMiss p r.play r.addr (keepIt r p bad s))

/-- A request's press goes on, with the block where its run is not killed, or without it where the block is poisoned. -/
def hearBlock (r : Tracker) (reader : Option InstKey) (p : Fin 16) (s : State) : State :=
  if r.killed then goOnRun p s
  else match reader, s.poisoned r.dev with
    | some k, true => poisonRead (holderId r.dev) (blockOf r.dev) k s
    | _, bad => bringBlock r p bad s

/-- A response's effect. -/
def endRequest (r : Tracker) (ecc : EccObs) (s : State) : State :=
  let s := freed r s
  if r.stack.isSome then s
  else
    let reader := s.readerOf r
    let s := eccMet ecc r.dev reader s
    match r.press with
    | none => s
    | some p => hearBlock r reader p s

theorem exec_trackerResponse (h : s.tracker? id = some r) (hh : s.held r = false) (hc : r.noCtl = false) (ecc : EccObs) :
    exec (.trackerResponse n id ecc) s = .next (endRequest r ecc (s.at n)) := by
  change execTrackerResponse n id ecc s = _
  unfold execTrackerResponse
  extract_lets w
  rw [show w.tracker? id = some r from h]
  dsimp only
  rw [if_neg (by rw [show w.held r = false from hh, hc]; decide)]
  have shared : ∀ (k : Option InstKey) (q : Fin 16) (x : Tracker) (v : State), (match k, v.poisoned x.dev with
      | some k, true => Host.Outcome.next (poisonRead (holderId x.dev) (blockOf x.dev) k v)
      | _, bad => .next (bringBlock x q bad v)) = (.next (hearBlock { x with killed := false } k q v) : Host.Outcome State Fault Refusal) := by
    intro k q x v
    unfold hearBlock
    cases k <;> cases v.poisoned x.dev <;> rfl
  unfold endRequest freed
  generalize freeTracker r _ = v
  obtain ⟨i, press, stack, pool, part, play, addr, dev, write, waits, noCtl, killed, reissued, drop, at_⟩ := r
  cases stack with
  | some m => rfl
  | none =>
    cases press with
    | none => cases ecc <;> rfl
    | some p =>
      cases killed
      · cases ecc <;> exact shared _ p _ _
      · cases ecc <;> rfl

theorem exec_tracker_unknown (h : s.tracker? id = none) (c : Instr)
    (hc : c = .trackerTimeout n id ∨ c = .trackerTimeoutRepeat n id ∨ ∃ e, c = .trackerResponse n id e) : exec c s = .next (s.at n) := by
  have h' : (s.at n).tracker? id = none := h
  rcases hc with rfl | rfl | ⟨e, rfl⟩
  · change execTrackerTimeout n id s = _
    simp only [execTrackerTimeout, h']
  · change execTrackerTimeoutRepeat n id s = _
    simp only [execTrackerTimeoutRepeat, h']
  · change execTrackerResponse n id e s = _
    simp only [execTrackerResponse, h']

theorem exec_trackerResponse_idle (h : s.tracker? id = some r) (hc : s.held r = true ∨ r.noCtl = true) (ecc : EccObs) :
    exec (.trackerResponse n id ecc) s = .next (s.at n) := by
  change execTrackerResponse n id ecc s = _
  unfold execTrackerResponse
  extract_lets w
  rw [show w.tracker? id = some r from h]
  exact if_pos (by rcases hc with hc | hc <;> simp [show w.held r = s.held r from rfl, hc])

/-- Requests go on and blocks arrive: of the memory only trackers, streams, the galley cache's lines and the case caches' blocks change. -/
structure Fetched (s t : State) : Prop where
  mem : ∃ l n g b f, t.mem = { s.mem with trackers := l, nextId := n, glines := g, blocks := b, prefetch := f }

theorem Fetched.of_mem (h : t.mem = s.mem) : Fetched s t := ⟨_, _, _, _, _, h⟩

theorem Fetched.trans {w : State} (a : Fetched s t) (b : Fetched t w) : Fetched s w := by
  obtain ⟨_, _, _, _, _, ha⟩ := a.mem
  obtain ⟨l, n, g, c, f, hb⟩ := b.mem
  exact ⟨l, n, g, c, f, by rw [hb, ha]⟩

theorem Asked.fetched (a : Asked s t) : Fetched s t := by
  obtain ⟨l, n, g, h⟩ := a.mem
  exact ⟨l, n, g, _, _, h⟩

theorem Asked.blocks (a : Asked s t) : t.mem.blocks = s.mem.blocks := by
  obtain ⟨_, _, _, h⟩ := a.mem
  rw [h]

theorem Fetched.cells (a : Fetched s t) : t.mem.cells = s.mem.cells := by
  obtain ⟨_, _, _, _, _, h⟩ := a.mem
  rw [h]

theorem Fetched.poisoned (a : Fetched s t) (d : Nat) : t.poisoned d = s.poisoned d := by
  obtain ⟨_, _, _, _, _, h⟩ := a.mem
  rw [State.poisoned, State.poisoned, h]

theorem Fetched.pte? (a : Fetched s t) (play page : Nat) : t.pte? play page = s.pte? play page := by
  obtain ⟨_, _, _, _, _, h⟩ := a.mem
  rw [State.pte?, State.pte?, h]

theorem Fetched.blockSets (a : Fetched s t) (p : Fin 16) : t.blockSets p = s.blockSets p := by
  obtain ⟨_, _, _, _, _, h⟩ := a.mem
  rw [State.blockSets, State.blockSets, h]

theorem useBlock_fetched (p : Fin 16) (d : Nat) (s : State) : Fetched s (useBlock p d s) := by
  unfold useBlock
  dsimp only
  split
  · exact .of_mem rfl
  · exact ⟨_, _, _, _, _, rfl⟩

theorem useBlock_mem {d : Nat} (h : s.blockSets p ≠ 0) : (p, d) ∈ (useBlock p d s).mem.blocks := by
  unfold useBlock
  dsimp only
  rw [if_neg h]
  exact List.mem_cons_self

theorem useBlock_answered {d : Nat} (h : Answered id s) : Answered id (useBlock p d s) := by
  unfold useBlock
  dsimp only
  split
  · exact h
  · exact ⟨h.given, h.gone⟩

/-- The freed tracker's number is its own no longer; what the requests that go on do is theirs. -/
theorem freed_asked (r : Tracker) (s : State) : ∃ w, w.mem = s.mem ∧ Asked (dropTracker r w) (freed r s) := by
  unfold freed
  split
  · exact ⟨_, (compBlock_apart (m := fun f => decide (f ≠ .mem)) rfl (.refl _ s)).same .mem rfl, freeTracker_asked r _⟩
  · exact ⟨s, rfl, freeTracker_asked r s⟩

theorem freed_answered (h : r.id < s.mem.nextId) : Answered r.id (freed r s) := by
  obtain ⟨w, hw, a⟩ := freed_asked r s
  exact (dropTracker_answered r (by rw [hw]; exact h)).asked a

theorem freed_fetched (r : Tracker) (s : State) : Fetched s (freed r s) := by
  obtain ⟨w, hw, a⟩ := freed_asked r s
  exact (Fetched.of_mem hw).trans (.trans (t := dropTracker r w) ⟨_, _, _, _, _, rfl⟩ a.fetched)

theorem freed_blocks (r : Tracker) (s : State) : (freed r s).mem.blocks = s.mem.blocks := by
  obtain ⟨w, hw, a⟩ := freed_asked r s
  rw [a.blocks, ← hw]
  rfl

/-- The fields that responses act on. -/
def byResponse : Field → Bool := fun f => decide (f = .mem ∨ f = .press ∨ f = .part)

theorem freed_apart (r : Tracker) (s : State) : Apart byResponse s (freed r s) := by
  unfold freed
  split
  · exact freeTracker_apart rfl rfl (compBlock_apart rfl (.refl _ s))
  · exact freeTracker_apart rfl rfl (.refl _ s)

theorem goOnRun_stands (p : Fin 16) (s : State) : Apart byResponse s (goOnRun p s) := goOnRun_apart rfl rfl rfl (.refl _ s)

/-- A stagehand that waits neither for a block nor for a tracker. -/
def Stagehand.Served (play addr : Nat) (h : Stagehand) : Prop := ¬(h.wait = .cacheMiss ∧ h.miss = some (play, addr)) ∧ h.wait ≠ .trackers

theorem wakeMiss_served (p : Fin 16) (play addr : Nat) (s : State) (h : Fin 8) :
    (((wakeMiss p play addr s).press.get p).hands.get h).Served play addr := by
  rw [wakeMiss, State.modPress_self]
  simp only [Vector.get_eq_getElem, Vector.getElem_map]
  split
  · exact ⟨fun e => (nomatch e.1), fun e => (nomatch e)⟩
  · next hm =>
    split
    · exact ⟨fun e => (nomatch e.1), fun e => (nomatch e)⟩
    · next ht => exact ⟨hm, ht⟩

theorem Wakes.served {play addr : Nat} {h : Fin 8} (a : Wakes s t) (hs : ((s.press.get p).hands.get h).Served play addr) :
    ((t.press.get p).hands.get h).Served play addr := by
  rcases (a.press p).hand h with e | e
  · rw [e]
    exact hs
  · exact ⟨fun x => absurd (e.symm.trans x.1) (by decide), fun x => absurd (e.symm.trans x) (by decide)⟩

/-- A block that reaches its press: the stagehands that waited for it, or for a tracker, go on. -/
theorem bringBlock_served (r : Tracker) (p : Fin 16) (bad : Bool) (s : State) :
    ∀ h ∈ ((bringBlock r p bad s).press.get p).hands, h.Served r.play r.addr := by
  intro h hh
  obtain ⟨k, hk, rfl⟩ := Vector.mem_iff_getElem.1 hh
  exact (goOnRun_wakes p _).served (h := ⟨k, hk⟩) (wakeMiss_served p r.play r.addr _ ⟨k, hk⟩)

theorem bringBlock_asked (r : Tracker) (p : Fin 16) (bad : Bool) (s : State) : Asked (keepIt r p bad s) (bringBlock r p bad s) :=
  .trans (t := wakeMiss p r.play r.addr (keepIt r p bad s)) (.of_mem rfl) (goOnRun_asked p _)

theorem keepIt_fetched (r : Tracker) (p : Fin 16) (bad : Bool) (s : State) : Fetched s (keepIt r p bad s) := by
  unfold keepIt
  split
  · exact useBlock_fetched ..
  · exact .of_mem rfl

theorem keepIt_answered {bad : Bool} (h : Answered id s) : Answered id (keepIt r p bad s) := by
  unfold keepIt
  split
  · exact useBlock_answered h
  · exact h

theorem bringBlock_apart (r : Tracker) (p : Fin 16) (bad : Bool) (s : State) : Apart byResponse s (bringBlock r p bad s) := by
  have h : Apart byResponse s (keepIt r p bad s) := by
    unfold keepIt
    split
    · exact useBlock_apart rfl (.refl _ s)
    · exact .refl _ s
  exact (wakeMiss_apart rfl h).trans (goOnRun_stands p _)

theorem hearBlock_killed {k : Option InstKey} (h : r.killed = true) : hearBlock r k p s = goOnRun p s := if_pos h

theorem hearBlock_sound {k : Option InstKey} (h : r.killed = false) (hp : s.poisoned r.dev = false) :
    hearBlock r k p s = bringBlock r p false s := by
  unfold hearBlock
  rw [if_neg (Bool.eq_false_iff.1 h), hp]
  cases k <;> rfl

/-- A sound block's response: the press goes on without the block, or with it. -/
theorem endRequest_clean_cases (hp : s.poisoned r.dev = false) : endRequest r .clean s = freed r s ∨
    ∃ p, r.press = some p ∧ r.stack = none ∧ ((r.killed = true ∧ endRequest r .clean s = goOnRun p (freed r s)) ∨
      (r.killed = false ∧ endRequest r .clean s = bringBlock r p false (freed r s))) := by
  have hf : (freed r s).poisoned r.dev = false := by rw [(freed_fetched r s).poisoned, hp]
  unfold endRequest
  dsimp only
  split
  · exact .inl rfl
  · next hs =>
    split
    · exact .inl rfl
    · next p hpr =>
      refine .inr ⟨p, hpr, by simpa using hs, ?_⟩
      cases hk : r.killed
      · exact .inr ⟨rfl, hearBlock_sound hk hf⟩
      · exact .inl ⟨rfl, hearBlock_killed hk⟩

/-- What every response of a sound block leaves. -/
theorem endRequest_clean (hp : s.poisoned r.dev = false) (hn : r.id < s.mem.nextId) : Answered r.id (endRequest r .clean s) ∧
    Fetched s (endRequest r .clean s) ∧ Apart byResponse s (endRequest r .clean s) ∧
    (r.killed = true → (endRequest r .clean s).mem.blocks = s.mem.blocks) := by
  have ans := freed_answered hn
  have fet := freed_fetched r s
  have apt := freed_apart r s
  rcases endRequest_clean_cases hp with e | ⟨p, -, -, ⟨-, e⟩ | ⟨hk, e⟩⟩ <;> rw [e]
  · exact ⟨ans, fet, apt, fun _ => freed_blocks r s⟩
  · have go := goOnRun_asked p (freed r s)
    exact ⟨ans.asked go, fet.trans go.fetched, apt.trans (goOnRun_stands p _), fun _ => go.blocks.trans (freed_blocks r s)⟩
  · have go := bringBlock_asked r p false (freed r s)
    exact ⟨(keepIt_answered ans).asked go, fet.trans ((keepIt_fetched r p false _).trans go.fetched),
      apt.trans (bringBlock_apart r p false _), fun h => absurd (hk.symm.trans h) (by decide)⟩

theorem endRequest_brings (hp : s.poisoned r.dev = false) (hr : r.press = some p) (hs : r.stack = none) (hk : r.killed = false) :
    endRequest r .clean s = bringBlock r p false (freed r s) := by
  have hf : (freed r s).poisoned r.dev = false := by rw [(freed_fetched r s).poisoned, hp]
  unfold endRequest
  dsimp only
  rw [hs, hr]
  exact hearBlock_sound hk hf

/-- The block stays where its page and its request allow it. -/
theorem endRequest_keeps {x : W128} (hp : s.poisoned r.dev = false) (hr : r.press = some p) (hs : r.stack = none) (hk : r.killed = false)
    (he : s.pte? r.play (r.addr / 2 ^ 21) = some x) (hc : cacheable x = true) (hw : r.write = false) (hl : r.pool = 0 ∨ r.pool = 3)
    (hd : r.drop = false) (hb : s.blockSets p ≠ 0) : (p, r.dev) ∈ (endRequest r .clean s).mem.blocks := by
  have fet := freed_fetched r s
  have keep : (freed r s).keepsBlock r false = true := by
    rw [State.keepsBlock, fet.pte?, he, hd, hw, decide_eq_true hl]
    exact hc
  rw [endRequest_brings hp hr hs hk, (bringBlock_asked r p false _).blocks, keepIt, if_pos keep]
  exact useBlock_mem (by rw [fet.blockSets]; exact hb)

theorem completes_trackerResponse_clean (h : s.tracker? id = some r) (hh : s.held r = false) (hp : s.poisoned r.dev = false)
    (hc : r.noCtl = false) (hn : id < s.mem.nextId) : Completes (.trackerResponse n id .clean) s fun t =>
      (∀ x ∈ t.mem.trackers, x.id ≠ id) ∧ t.mem.cells = s.mem.cells ∧ t.sched = s.sched ∧ t.log = s.log ∧
      (r.killed = true → t.mem.blocks = s.mem.blocks) ∧
      ∀ p, r.press = some p → r.stack = none → r.killed = false →
        (∀ h ∈ (t.press.get p).hands, ¬(h.wait = .cacheMiss ∧ h.miss = some (r.play, r.addr)) ∧ h.wait ≠ .trackers) ∧
        (∀ e, s.pte? r.play (r.addr / 2 ^ 21) = some e → cacheable e = true → r.write = false → (r.pool = 0 ∨ r.pool = 3) →
          r.drop = false → s.blockSets p ≠ 0 → (p, r.dev) ∈ t.mem.blocks) := by
  obtain rfl := State.tracker?_id h
  obtain ⟨ans, fet, apt, kil⟩ := endRequest_clean (s := s.at n) hp hn
  refine ⟨_, exec_trackerResponse h hh hc .clean, ans.gone, fet.cells, apt.same .sched rfl, apt.same .log rfl, kil, fun p hr hs hk => ⟨?_, ?_⟩⟩
  · rw [endRequest_brings (s := s.at n) hp hr hs hk]
    exact bringBlock_served r p false _
  · intro x he hcx hw hl hd hb
    exact endRequest_keeps (s := s.at n) hp hr hs hk he hcx hw hl hd hb

end Responses

/-! ### TRACKER_TIMEOUT and TRACKER_TIMEOUT_REPEAT (R243) -/

section Timeouts

variable {s t : State} {n id : Nat} {r : Tracker}

/-- What is found in a list is found in its changed form where the change leaves what it is found by. -/
theorem find?_lmod {α : Type} {f : α → Bool} {g : α → α} (hg : ∀ x, f x = true → f (g x) = true) (l : List α) :
    (lmod f g l).find? f = (l.find? f).map g := by
  induction l with
  | nil => rfl
  | cons x l ih =>
    change ((if f x then g x else x) :: lmod f g l).find? f = _
    cases hx : f x
    · rw [if_neg Bool.false_ne_true, List.find?_cons_of_neg (by simp [hx]), List.find?_cons_of_neg (by simp [hx]), ih]
    · rw [if_pos rfl, List.find?_cons_of_pos (hg x hx), List.find?_cons_of_pos hx]
      rfl

/-- The trackers of a number are changed. -/
def modTracker (id : Nat) (f : Tracker → Tracker) (s : State) : State :=
  { s with mem := { s.mem with trackers := lmod (fun x => x.id = id) f s.mem.trackers } }

theorem modTracker_tracker? {f : Tracker → Tracker} (hf : ∀ x, (f x).id = x.id) (h : s.tracker? id = some r) :
    (modTracker id f s).tracker? id = some (f r) := by
  have e := find?_lmod (f := fun x : Tracker => decide (x.id = id)) (g := f) (fun x hx => by rw [hf]; exact hx) s.mem.trackers
  exact e.trans (congrArg (Option.map f) h)

/-- A timeout is counted. -/
theorem countTimeout_eq (i : Fin 18) (s : State) : ∃ v o, countTimeout i s = { s with mem := { s.mem with timeouts := v, ovf := o } } :=
  ⟨_, _, rfl⟩

theorem countTimeout_tracker? (i : Fin 18) (s : State) : (countTimeout i s).tracker? id = s.tracker? id := by
  obtain ⟨v, o, e⟩ := countTimeout_eq i s
  rw [e]
  rfl

/-- A request is issued once more. -/
def reissue (id : Nat) (r : Tracker) (s : State) : State :=
  logEvent 0x0440 r.unit 0 (modTracker id (fun x => { x with reissued := true, at_ := s.now }) (countTimeout r.counter s))

theorem exec_trackerTimeout (h : s.tracker? id = some r) (hc : (r.killed || r.reissued || s.held r || decide ((s.at n).now < r.at_ + us 20)) = false) :
    exec (.trackerTimeout n id) s = .next (reissue id r (s.at n)) := by
  change execTrackerTimeout n id s = _
  unfold execTrackerTimeout
  extract_lets w
  rw [show w.tracker? id = some r from h]
  exact if_neg (Bool.eq_false_iff.1 hc)

theorem exec_trackerTimeout_idle (h : s.tracker? id = some r)
    (hc : (r.killed || r.reissued || s.held r || decide ((s.at n).now < r.at_ + us 20)) = true) :
    exec (.trackerTimeout n id) s = .next (s.at n) := by
  change execTrackerTimeout n id s = _
  unfold execTrackerTimeout
  extract_lets w
  rw [show w.tracker? id = some r from h]
  exact if_pos hc

theorem completes_trackerTimeout (h : s.tracker? id = some r) (hh : s.held r = false) (hk : r.killed = false) (hr : r.reissued = false)
    (hd : r.at_ + us 20 ≤ (s.at n).now) : Completes (.trackerTimeout n id) s fun t =>
      Newest t 0x0440 r.unit 0 ∧ t.tracker? id = some { r with reissued := true, at_ := (s.at n).now } ∧ t.sched = s.sched := by
  refine ⟨_, exec_trackerTimeout h (by rw [hh, hk, hr, decide_eq_false (Nat.not_lt.2 hd)]; rfl), logEvent_newest _ _ _ _, ?_, rfl⟩
  have hc : (countTimeout r.counter (s.at n)).tracker? id = some r := (countTimeout_tracker? _ _).trans h
  exact modTracker_tracker? (f := fun x => { x with reissued := true, at_ := (s.at n).now }) (fun _ => rfl) hc

/-- A request's second timeout is counted and logged, and what comes back is discarded. -/
def dropRequest (id : Nat) (r : Tracker) (s : State) : State :=
  modTracker id (fun x => { x with killed := true }) (logEvent 0x0441 r.unit 0 (countTimeout r.counter s))

/-- A run is lost, to run elsewhere, a safety scene's with a detection. -/
def loseRun (cause code : Nat) (b : Byte) (ps : List (Fin 16)) (i : Inst) (s : State) : State :=
  killElsewhere cause ps i.key (if i.safety then detect code b s else s)

/-- A request that is not answered the second time. -/
def giveUp (id : Nat) (r : Tracker) (s : State) : State :=
  match r.press.bind s.runOn with
  | none => dropRequest id r s
  | some i => loseRun 8 0x09 r.unit r.press.toList i (dropRequest id r s)

theorem exec_trackerTimeoutRepeat (h : s.tracker? id = some r)
    (hc : (r.killed || !r.reissued || s.held r || decide ((s.at n).now < r.at_ + us 20)) = false) :
    exec (.trackerTimeoutRepeat n id) s = .next (giveUp id r (s.at n)) := by
  change execTrackerTimeoutRepeat n id s = _
  unfold execTrackerTimeoutRepeat
  extract_lets w
  rw [show w.tracker? id = some r from h]
  refine (if_neg (Bool.eq_false_iff.1 hc)).trans ?_
  extract_lets a _ b
  have e : r.press.bind b.runOn = r.press.bind (s.at n).runOn := rfl
  rw [e, giveUp]
  cases r.press.bind (s.at n).runOn <;> rfl

theorem exec_trackerTimeoutRepeat_idle (h : s.tracker? id = some r)
    (hc : (r.killed || !r.reissued || s.held r || decide ((s.at n).now < r.at_ + us 20)) = true) :
    exec (.trackerTimeoutRepeat n id) s = .next (s.at n) := by
  change execTrackerTimeoutRepeat n id s = _
  unfold execTrackerTimeoutRepeat
  extract_lets w
  rw [show w.tracker? id = some r from h]
  exact if_pos hc

theorem dropRequest_logs (id : Nat) (r : Tracker) (s : State) : Logs s (dropRequest id r s) 0x0441 r.unit 0 :=
  logEvent_logs 0x0441 r.unit 0 (countTimeout r.counter s)

theorem dropRequest_killed (id : Nat) (r : Tracker) (s : State) : ∀ x ∈ (dropRequest id r s).mem.trackers, x.id = id → x.killed = true := by
  intro x hx hid
  obtain ⟨y, -, rfl⟩ := List.mem_map.1 hx
  dsimp only at hid ⊢
  split at hid
  · next hy => rw [if_pos hy]
  · next hy => exact absurd (decide_eq_true hid) hy

theorem loseRun_inCue (cause code : Nat) (b : Byte) (ps : List (Fin 16)) (i : Inst) (s : State) : InCue s (loseRun cause code b ps i s) := by
  refine killElsewhere_inCue ?_
  split
  · exact detect_inCue (.refl s)
  · exact .refl s

theorem loseRun_released (cause code : Nat) (b : Byte) (ps : List (Fin 16)) (i : Inst) (s : State) :
    Released s (loseRun cause code b ps i s) := by
  refine .trans ?_ (killElsewhere_released _ _ _ _)
  split
  · exact .of_mem (detect_mem ..)
  · exact .refl s

theorem loseRun_requeued {cause : Nat} {i : Inst} (hc : cause ≠ 14) (code : Nat) (b : Byte) (ps : List (Fin 16)) (h : s.inst? i.key = some i)
    (hr : i.st = .running) : Requeued (loseRun cause code b ps i s) i.key ps := by
  refine killElsewhere_requeued (i := i) hc ?_ hr
  split
  · rw [(detect_onlyValues _ _ s).inst?]
    exact h
  · exact h

theorem loseRun_detected {i : Inst} (cause code : Nat) (b : Byte) (ps : List (Fin 16)) (hs : i.safety = true) :
    Detected s (loseRun cause code b ps i s) := by
  rw [loseRun, if_pos hs]
  exact (detect_detected _ _ s).later (killElsewhere_inCue (.refl _)) (killElsewhere_keeps (.refl _))

theorem killed_later {l : List Tracker} (hl : ∀ x ∈ l, x.id = id → x.killed = true)
    (ht : ∀ x ∈ t.mem.trackers, ∃ y ∈ l, x = y ∨ x = { y with killed := true }) : ∀ x ∈ t.mem.trackers, x.id = id → x.killed = true := by
  intro x hx hid
  obtain ⟨y, hy, rfl | rfl⟩ := ht x hx
  · exact hl _ hy hid
  · rfl

theorem giveUp_eq {p : Fin 16} {i : Inst} (hp : r.press = some p) (hi : s.runOn p = some i) :
    giveUp id r s = loseRun 8 0x09 r.unit r.press.toList i (dropRequest id r s) := by
  unfold giveUp
  rw [hp, Option.bind_some, hi]

theorem giveUp_cases (id : Nat) (r : Tracker) (s : State) :
    giveUp id r s = dropRequest id r s ∨ ∃ i, giveUp id r s = loseRun 8 0x09 r.unit r.press.toList i (dropRequest id r s) := by
  unfold giveUp
  split
  · exact .inl rfl
  · exact .inr ⟨_, rfl⟩

theorem giveUp_logs (id : Nat) (r : Tracker) (s : State) : Logs s (giveUp id r s) 0x0441 r.unit 0 := by
  rcases giveUp_cases id r s with e | ⟨i, e⟩ <;> rw [e]
  · exact dropRequest_logs id r s
  · obtain ⟨_, h⟩ := (loseRun_inCue 8 0x09 r.unit r.press.toList i (dropRequest id r s)).log
    exact (dropRequest_logs id r s).later h

theorem giveUp_killed (id : Nat) (r : Tracker) (s : State) : ∀ x ∈ (giveUp id r s).mem.trackers, x.id = id → x.killed = true := by
  rcases giveUp_cases id r s with e | ⟨i, e⟩ <;> rw [e]
  · exact dropRequest_killed id r s
  · exact killed_later (dropRequest_killed id r s) (loseRun_released 8 0x09 r.unit r.press.toList i _).trackers

theorem completes_trackerTimeoutRepeat (h : s.tracker? id = some r) (hh : s.held r = false) (hk : r.killed = false) (hr : r.reissued = true)
    (hd : r.at_ + us 20 ≤ (s.at n).now) : Completes (.trackerTimeoutRepeat n id) s fun t =>
      Logs s t 0x0441 r.unit 0 ∧ (∀ x ∈ t.mem.trackers, x.id = id → x.killed = true) ∧
      ∀ p i, r.press = some p → s.runOn p = some i → s.inst? i.key = some i → Requeued t i.key [p] ∧ (i.safety = true → Detected s t) := by
  refine ⟨_, exec_trackerTimeoutRepeat h (by rw [hh, hk, hr, decide_eq_false (Nat.not_lt.2 hd)]; rfl), giveUp_logs id r (s.at n), giveUp_killed id r (s.at n),
    fun p i hp hi hk => ?_⟩
  rw [giveUp_eq (s := s.at n) hp hi]
  have requeued := loseRun_requeued (s := dropRequest id r (s.at n)) (cause := 8) (by decide) 0x09 r.unit r.press.toList hk (State.runOn_running hi)
  rw [show r.press.toList = [p] by rw [hp]; rfl] at requeued ⊢
  exact ⟨requeued, fun hs => (loseRun_detected _ _ _ _ hs).of_published rfl⟩

end Timeouts

/-- Settles O42: a freed tracker's number leaves the list and does not come again, the block goes to its press, and an unanswered request is issued
once more and then given up. -/
theorem trackersCompleteOrTimeOut : Obligations.TrackersCompleteOrTimeOut := by
  refine fun n id s => ⟨fun h c hc => exec_tracker_unknown h c hc, fun r h => ⟨fun hh c hc => ?_, fun hc e => exec_trackerResponse_idle h (.inr hc) e,
    fun hh => ⟨completes_trackerResponse_clean h hh, completes_trackerTimeout h hh, fun hc => exec_trackerTimeout_idle h ?_,
      completes_trackerTimeoutRepeat h hh, fun hc => exec_trackerTimeoutRepeat_idle h ?_⟩⟩⟩
  · rcases hc with rfl | rfl | ⟨e, rfl⟩
    · exact exec_trackerTimeout_idle h (by simp [hh])
    · exact exec_trackerTimeoutRepeat_idle h (by simp [hh])
    · exact exec_trackerResponse_idle h (.inl hh) e
  · rcases hc with hc | hc | hc <;> simp only [hc, decide_true, Bool.or_true, Bool.true_or]
  · rcases hc with hc | hc | hc <;> simp only [hc, decide_true, Bool.or_true, Bool.true_or, Bool.not_false]

end Sys2Proof.Machine

namespace Sys2Proof.Machine

/-! ### What a strike does to the memory (R359, R360) -/

section Strikes

variable {s : State}

theorem stopRun_released (i : Inst) (s : State) : Released s (stopRun i s) := by
  have buried := (dropRequests_released i.presses s).trans (.apart (buryBufs_apart (a1 := i) rfl (.refl _ _)))
  exact (Released.foldl i.presses _ buried fun w p => .apart (flushPress_apart rfl rfl (.refl _ w))).trans (unmapBufs_released i _)

theorem endClass_released (cue : Nat) (s : State) : Released s (endClass cue s) :=
  (Released.foldl _ _ (.refl s) fun w i => stopRun_released i w).trans (.of_mem rfl)

theorem classifyStruck_released (u : UnitId) (cues : List Nat) (s : State) : Released s (classifyStruck u cues s) :=
  .foldl cues _ (.refl s) fun w n =>
    .trans (.apart (setClass_apart rfl (logEvent_apart rfl (.refl _ w)))) (endClass_released n _)

theorem strikeKills_released (u : UnitId) (s : State) : Released s (strikeKills u s) := by
  cases u with
  | press p => exact (killWhere_released ..).trans (classifyStruck_released ..)
  | core k => exact (killWhere_released ..).trans (classifyStruck_released ..)
  | sector n => exact killWhere_released ..
  | stack n => exact killWhere_released ..
  | _ => exact .refl s

theorem retireAtEight_apart (u : UnitId) (s : State) : Apart (fun f => decide (f = .log ∨ f = .units)) s (retireAtEight u s) := by
  unfold retireAtEight
  split
  · exact State.modUnit_apart rfl (logEvent_apart rfl (.refl _ s))
  · exact .refl _ s

theorem takeOut_apart (cause : Nat) (u : UnitId) (s : State) :
    Apart (fun f => decide (f = .log ∨ f = .units ∨ f = .sched)) s (takeOut cause u s) :=
  dropSlice_apart rfl (logEvent_apart rfl (State.modUnit_apart rfl (.refl _ s)))

theorem strike_released (cause : Nat) (u : UnitId) (s : State) : Released s (strike cause u s) := by
  cases h : s.inServ u
  · rcases strike_of_out (cause := cause) h with e | ⟨-, d, e⟩ <;> rw [e]
    · exact .refl s
    · exact .apart (failAttempt_apart rfl rfl rfl (.refl _ s))
  · have out : (retireAtEight u (takeOut cause u s)).mem = s.mem :=
      ((retireAtEight_apart u _).same .mem rfl).trans ((takeOut_apart cause u s).same .mem rfl)
    rw [strike_of_inServ h]
    exact (Released.of_mem out).trans (strikeKills_released u _)

end Strikes

/-! ### MAPPING_DROP_ACK of prefetches in flight (R247) -/

section Dropped

variable {s t w : State} {n id : Nat} {r : Tracker} {p : Fin 16} {d : Drop}

theorem completes_mappingDropAck_marks {play page : Nat} (hd : d ∈ s.mem.drops) (hplay : d.play = play) (hpage : d.page = page)
    (hp : p ∈ d.presses) : Completes (.mappingDropAck n p play page) s fun t =>
      ∀ x ∈ s.mem.trackers, x.press = some p → x.pool = 3 → x.dev / 2 ^ 21 * 2 ^ 21 = d.dev → { x with drop := true } ∈ t.mem.trackers := by
  have hold : d.dev ∈ s.oldPages p play page := mem_oldPages hd (Drop.awaits_iff.2 ⟨⟨hplay, hpage⟩, hp⟩)
  refine ⟨_, exec_mappingDropAck n p play page s, fun x hx hpress hpool hdev => ?_⟩
  rw [if_neg (List.ne_nil_of_mem hold), wakeLocked_mem]
  refine List.mem_map.2 ⟨x, hx, if_pos ?_⟩
  dsimp only
  rw [hpress, hpool, hdev, decide_eq_true hold, decide_eq_true rfl, decide_eq_true rfl]
  rfl

/-- From one state to another no request takes a number that none holds any longer, and the case caches stand. -/
structure Discards (id : Nat) (s t : State) : Prop where
  answered : Answered id s → Answered id t
  blocks : t.mem.blocks = s.mem.blocks

theorem Discards.of_eq (ht : t.mem.trackers = s.mem.trackers) (hn : t.mem.nextId = s.mem.nextId) (hb : t.mem.blocks = s.mem.blocks) :
    Discards id s t :=
  ⟨fun h => ⟨by rw [hn]; exact h.given, by rw [ht]; exact h.gone⟩, hb⟩

theorem Discards.of_mem (h : t.mem = s.mem) : Discards id s t := .of_eq (by rw [h]) (by rw [h]) (by rw [h])

theorem Discards.refl (id : Nat) (s : State) : Discards id s s := .of_mem rfl

theorem Discards.trans (a : Discards id s t) (b : Discards id t w) : Discards id s w :=
  ⟨fun h => b.answered (a.answered h), b.blocks.trans a.blocks⟩

theorem Asked.discards (a : Asked s t) : Discards id s t := ⟨fun h => h.asked a, a.blocks⟩

theorem Released.discards (a : Released s t) : Discards id s t := by
  refine ⟨fun h => h.released a, ?_⟩
  obtain ⟨_, _, _, _, _, e⟩ := a.mem
  rw [e]

theorem logOnce_mem (bit code : Nat) (unit : Byte) (detail : Nat) (s : State) : (logOnce bit code unit detail s).mem = s.mem :=
  (logOnce_apart (m := fun f => decide (f = .log)) rfl (.refl _ s)).same .mem rfl

theorem corrected_discards (a : Nat) (s : State) : Discards id s (corrected a s) := by
  unfold corrected
  split
  · exact .refl id s
  · refine .trans (.trans ?_ (.of_mem (logOnce_mem ..))) (.of_eq rfl rfl rfl)
    exact .of_eq rfl rfl rfl

theorem logDouble_discards (a : Nat) (s : State) : Discards id s (logDouble a s) := by
  unfold logDouble
  split
  · exact .refl id s
  · extract_lets v _ _ w
    have hv : Discards id s v := .of_eq rfl rfl rfl
    have hw : Discards id v w := by
      unfold w
      split <;> exact .of_eq rfl rfl rfl
    exact hv.trans (hw.trans (.of_eq rfl rfl rfl))

theorem poison_discards (a : Nat) (s : State) : Discards id s (poison a s) := by
  unfold poison
  split <;> exact .of_eq rfl rfl rfl

/-- A double error that no scene reads kills, poisons or strikes, but makes no request. -/
theorem doubleError_discards (a : Nat) (s : State) : Discards id s (doubleError a none s) := by
  have logged := logDouble_discards (id := id) a s
  have suspected : ∀ p, Discards id s (suspectUnit 0 (.press p) (logDouble a s)) := fun p => logged.trans (.of_mem rfl)
  have counted : ∀ f, Discards id s ((detect 0x0C (unitId .umem) (logDouble a s)).modUnit .umem f) :=
    fun f => logged.trans (.trans (.of_mem (detect_mem ..)) (.of_mem rfl))
  unfold doubleError
  dsimp only
  split
  · split
    · exact (suspected _).trans (killElsewhere_released ..).discards
    · exact suspected _
  · exact logged.trans (poison_discards a _)
  · split
    · exact (counted _).trans (strike_released ..).discards
    · exact counted _
  · exact logged

theorem eccMet_discards (ecc : EccObs) (a : Nat) (s : State) : Discards id s (eccMet ecc a none s) := by
  cases ecc with
  | clean => exact .refl id s
  | single => exact corrected_discards a s
  | double => exact doubleError_discards a s

/-- A prefetch marked for discard: its press goes on without its block. -/
theorem hearBlock_drops (hd : r.drop = true) (p : Fin 16) (s : State) : Discards id s (hearBlock r none p s) := by
  unfold hearBlock
  split
  · exact (goOnRun_asked p s).discards
  · show Discards id s (bringBlock r p (s.poisoned r.dev) s)
    have hk : keepIt r p (s.poisoned r.dev) s = s := if_neg (by simp [State.keepsBlock, hd])
    have asked := bringBlock_asked r p (s.poisoned r.dev) s
    rw [hk] at asked
    exact asked.discards

theorem endRequest_drops (hl : r.pool = 3) (hd : r.drop = true) (ecc : EccObs) (s : State) :
    Discards r.id (freed r s) (endRequest r ecc s) := by
  have hr : (freed r s).readerOf r = none := if_pos (.inl hl)
  unfold endRequest
  dsimp only
  rw [hr]
  have met := eccMet_discards (id := r.id) ecc r.dev (freed r s)
  split
  · exact .refl _ _
  · split
    · exact met
    · exact met.trans (hearBlock_drops hd _ _)

theorem completes_trackerResponse_dropped (h : s.tracker? id = some r) (hl : r.pool = 3) (hd : r.drop = true) (hh : s.held r = false)
    (hc : r.noCtl = false) (hn : id < s.mem.nextId) (ecc : EccObs) : Completes (.trackerResponse n id ecc) s fun t =>
      (∀ x ∈ t.mem.trackers, x.id ≠ id) ∧ ∀ b ∈ t.mem.blocks, b ∈ s.mem.blocks := by
  obtain rfl := State.tracker?_id h
  have dropped := endRequest_drops hl hd ecc (s.at n)
  refine ⟨_, exec_trackerResponse h hh hc ecc, (dropped.answered (freed_answered hn)).gone, fun b hb => ?_⟩
  rw [dropped.blocks, freed_blocks] at hb
  exact hb

end Dropped

/-- Settles O43: an acknowledged drop marks the prefetches in flight, and a marked one's response frees its tracker and keeps no block. -/
theorem droppedPrefetchesDiscarded : Obligations.DroppedPrefetchesDiscarded :=
  ⟨fun _ _ _ _ _ _ hd hplay hpage hp => completes_mappingDropAck_marks hd hplay hpage hp,
    fun _ _ ecc _ _ h hl hd hh hc hn => completes_trackerResponse_dropped h hl hd hh hc hn ecc⟩

end Sys2Proof.Machine

namespace Sys2Proof.Machine

/-! ### The hops of the fabric (R251, R252) -/

section Hops

variable {s t : State} {recv send : Byte} {addr : Nat} {h : Hop} {p : Option (Fin 16)}

theorem State.hop_ends (s : State) (recv send : Byte) : (s.hop recv send).recv = recv ∧ (s.hop recv send).send = send := by
  unfold State.hop
  cases hf : s.mem.hops.find? fun h => h.recv = recv ∧ h.send = send with
  | none => exact ⟨rfl, rfl⟩
  | some x => simpa using List.find?_some hf

theorem putHop_hop (hr : h.recv = recv) (hs : h.send = send) (s : State) : (putHop h s).hop recv send = h := by
  rw [State.hop, putHop, List.find?_cons_of_pos (by simp [hr, hs])]
  rfl

theorem State.hop_congr (e : t.mem.hops = s.mem.hops) (recv send : Byte) : t.hop recv send = s.hop recv send := by
  rw [State.hop, State.hop, e]

/-- A block without an entry on a hop has no re-sends there. -/
theorem Hop.count_eq_zero (hn : ∀ e ∈ h.resends, e.1 ≠ addr) : h.count addr = 0 := by
  rw [Hop.count, List.find?_eq_none.2 fun e he => by simpa using hn e he]
  rfl

theorem Hop.clear_resends (h : Hop) (addr : Nat) : ∀ e ∈ (h.clear addr).resends, e.1 ≠ addr := fun e he => by
  simpa using (List.mem_filter.1 he).2

theorem putHop_clear_count (recv send : Byte) (addr : Nat) (s w : State) :
    ((putHop ((s.hop recv send).clear addr) w).hop recv send).count addr = 0 := by
  obtain ⟨hr, hs⟩ := s.hop_ends recv send
  rw [putHop_hop (h := (s.hop recv send).clear addr) hr hs]
  exact Hop.count_eq_zero (Hop.clear_resends _ _)

/-- The re-sends of a block on a hop end. -/
def endResends (h : Hop) (addr : Nat) (s : State) : State := if h.count addr = 0 then s else putHop (h.clear addr) s

theorem endResends_count (recv send : Byte) (addr : Nat) (s : State) :
    ((endResends (s.hop recv send) addr s).hop recv send).count addr = 0 := by
  unfold endResends
  split
  · assumption
  · exact putHop_clear_count recv send addr s s

theorem endResends_apart (h : Hop) (addr : Nat) (s : State) : Apart (fun f => decide (f = .mem)) s (endResends h addr s) := by
  unfold endResends
  split
  · exact .refl _ s
  · exact putHop_apart rfl (.refl _ s)

/-- A hop with one more re-send of a block. -/
def Hop.again (h : Hop) (addr : Nat) (p : Option (Fin 16)) : Hop :=
  { h.clear addr with resends := (addr, p, h.count addr + 1) :: (h.clear addr).resends }

theorem Hop.again_count (h : Hop) (addr : Nat) (p : Option (Fin 16)) : (h.again addr p).count addr = h.count addr + 1 := by
  rw [Hop.count, Hop.again, List.find?_cons_of_pos (by simp)]
  rfl

theorem resend_eq (h : Hop) (addr : Nat) (p : Option (Fin 16)) (s : State) : resend h addr p s =
    logOnce h.recv.toNat 0x0420 h.recv h.send.toNat (countResent h.recv (putHop (h.again addr p) s)) := rfl

theorem countResent_eq (u : Byte) (s : State) : ∃ v o, countResent u s = { s with mem := { s.mem with resent := v, ovf := o } } := ⟨_, _, rfl⟩

/-- A failing block is sent again: its hop counts it, and the first on a receiver in a cue is logged. -/
theorem resend_effect (recv send : Byte) (addr : Nat) (p : Option (Fin 16)) (s w : State) :
    ((resend (s.hop recv send) addr p w).hop recv send).count addr = (s.hop recv send).count addr + 1 ∧
      (resend (s.hop recv send) addr p w).sched = w.sched ∧ (resend (s.hop recv send) addr p w).units = w.units ∧
      ((0x0420, recv.toNat) ∉ w.log.once → Newest (resend (s.hop recv send) addr p w) 0x0420 recv send.toNat) ∧
      ((0x0420, recv.toNat) ∈ w.log.once → (resend (s.hop recv send) addr p w).log = w.log) := by
  have ap : Apart (fun f => decide (f = .log ∨ f = .mem)) w (resend (s.hop recv send) addr p w) := resend_apart rfl rfl (.refl _ w)
  obtain ⟨hr, hs⟩ := s.hop_ends recv send
  refine ⟨?_, ap.same .sched rfl, ap.same .units rfl, fun hn => ?_, fun ho => ?_⟩
  · have e := putHop_hop (h := (s.hop recv send).again addr p) hr hs w
    obtain ⟨v, o, ev⟩ := countResent_eq (s.hop recv send).recv (putHop ((s.hop recv send).again addr p) w)
    rw [State.hop_congr (s := putHop ((s.hop recv send).again addr p) w) (by rw [resend_eq, logOnce_mem, ev]), e]
    exact Hop.again_count _ _ _
  · rw [resend_eq, hr, hs]
    exact logOnce_newest hn
  · rw [resend_eq, hr]
    exact (congrArg State.log (logOnce_again (s := countResent recv (putHop ((s.hop recv send).again addr p) w)) ho)).trans rfl

/-! ### Blocks that are lost (R253, R335) -/

theorem suspectUnit_stands (u : UnitId) (src : Nat) (v : UnitId) (s : State) : Stands u s (suspectUnit src v s) := by
  by_cases e : u = v
  · subst e
    show UnitRec.unsuspected (State.unit (State.modUnit _ _ _) _) = _
    rw [State.unit_modUnit_self]
    rfl
  · exact .of_unit (State.unit_modUnit_ne e _ _)

theorem markSuspect_stands (u : UnitId) (b : Byte) (s : State) : Stands u s (markSuspect b s) := by
  unfold markSuspect
  split
  · exact suspectUnit_stands ..
  · exact suspectUnit_stands ..
  · exact .refl u s

theorem markSuspect_sched (b : Byte) (s : State) : (markSuspect b s).sched = s.sched :=
  (markSuspect_apart (m := fun f => decide (f = .units)) rfl (.refl _ s)).same .sched rfl

theorem markSuspect_mem (b : Byte) (s : State) : (markSuspect b s).mem = s.mem :=
  (markSuspect_apart (m := fun f => decide (f = .units)) rfl (.refl _ s)).same .mem rfl

theorem loseRun_stands (u : UnitId) (cause code : Nat) (b : Byte) (ps : List (Fin 16)) (i : Inst) (s : State) :
    Stands u s (loseRun cause code b ps i s) := by
  refine .trans ?_ ((killInst_stands u _ _ _).trans (.of_unit rfl))
  split
  · exact .of_unit (State.unit_congr (detect_units ..) u)
  · exact .refl u s

theorem loseBlock_cases (h : Hop) (p : Option (Fin 16)) (s : State) :
    loseBlock h p s = markSuspect h.send (markSuspect h.recv s) ∨
      ∃ i, loseBlock h p s = markSuspect h.send (markSuspect h.recv (loseRun 10 0x0A h.recv p.toList i s)) := by
  unfold loseBlock
  cases (p.bind s.runOn).or (s.runAt h.recv) with
  | none => exact .inl rfl
  | some i => exact .inr ⟨i, rfl⟩

theorem loseBlock_released (h : Hop) (p : Option (Fin 16)) (s : State) : Released s (loseBlock h p s) := by
  have marked : ∀ w, Released w (markSuspect h.send (markSuspect h.recv w)) := fun w => .of_mem ((markSuspect_mem ..).trans (markSuspect_mem ..))
  rcases loseBlock_cases h p s with e | ⟨i, e⟩ <;> rw [e]
  · exact marked s
  · exact (loseRun_released ..).trans (marked _)

theorem loseBlock_stands (u : UnitId) (h : Hop) (p : Option (Fin 16)) (s : State) : Stands u s (loseBlock h p s) := by
  have marked : ∀ w, Stands u w (markSuspect h.send (markSuspect h.recv w)) := fun w => (markSuspect_stands ..).trans (markSuspect_stands ..)
  rcases loseBlock_cases h p s with e | ⟨i, e⟩ <;> rw [e]
  · exact marked s
  · exact (loseRun_stands ..).trans (marked _)

theorem loseBlock_requeued {q : Fin 16} {i : Inst} (h : Hop) (hq : s.runOn q = some i) (hi : s.inst? i.key = some i) :
    Requeued (loseBlock h (some q) s) i.key [q] := by
  have e : loseBlock h (some q) s = markSuspect h.send (markSuspect h.recv (loseRun 10 0x0A h.recv [q] i s)) := by
    unfold loseBlock
    rw [Option.bind_some, hq, Option.some_or]
    rfl
  rw [e]
  exact (loseRun_requeued (cause := 10) (by decide) 0x0A h.recv [q] hi (State.runOn_running hq)).of_sched ((markSuspect_sched ..).trans (markSuspect_sched ..))

theorem faultEnd_onlyValues (b : Byte) (s : State) : OnlyValues s (faultEnd b s) := by
  unfold faultEnd
  split
  · exact deviceFault_onlyValues ..
  · exact .of_sched rfl

theorem faultEnd_mem (b : Byte) (s : State) : (faultEnd b s).mem = s.mem :=
  (faultEnd_apart (m := butMem) rfl rfl rfl rfl rfl rfl rfl (.refl _ s)).same .mem rfl

/-- The hop of an exhausted block. -/
def Hop.spent (h : Hop) (addr cue : Nat) : Hop := { h.clear addr with exhausted := within 64 cue h.exhausted }

theorem countExhausted_eq (u : Byte) (s : State) : ∃ v o, countExhausted u s = { s with mem := { s.mem with exhausted := v, ovf := o } } :=
  ⟨_, _, rfl⟩

/-- A block whose third re-send failed is logged. -/
def logExhausted (h : Hop) (addr : Nat) (s : State) : State :=
  logEvent 0x0421 h.recv h.send.toNat (countExhausted h.recv (putHop (h.spent addr s.cue.count.toNat) s))

/-- A hop's first exhaustion in 64 cues: the block is lost, and a control unit's end of it is a device-level fault. -/
theorem exhaust_first (he : h.exhausted = []) (addr : Nat) (p : Option (Fin 16)) (s : State) : exhaust h addr p s =
    faultEnd h.send (faultEnd h.recv (loseBlock (h.spent addr s.cue.count.toNat) p (logExhausted h addr s))) := by
  have hlen : ¬ 3 ≤ (within 64 s.cue.count.toNat h.exhausted).length := by
    rw [he, within, List.filter_nil, List.length_singleton]
    decide
  unfold exhaust
  exact if_neg hlen

theorem logExhausted_resends (recv send : Byte) (addr : Nat) (s : State) :
    ∀ e ∈ ((logExhausted (s.hop recv send) addr s).hop recv send).resends, e.1 ≠ addr := by
  obtain ⟨hr, hs⟩ := s.hop_ends recv send
  have e := putHop_hop (h := (s.hop recv send).spent addr s.cue.count.toNat) hr hs s
  obtain ⟨v, o, ev⟩ := countExhausted_eq (s.hop recv send).recv (putHop ((s.hop recv send).spent addr s.cue.count.toNat) s)
  rw [State.hop_congr (s := putHop ((s.hop recv send).spent addr s.cue.count.toNat) s) (by rw [logExhausted, logEvent_mem, ev]), e]
  exact Hop.clear_resends _ _

theorem exhaust_effect (he : (s.hop recv send).exhausted = []) (p : Option (Fin 16)) :
    ((exhaust (s.hop recv send) addr p s).hop recv send).count addr = 0 ∧
      Logs s (exhaust (s.hop recv send) addr p s) 0x0421 recv send.toNat ∧
      ∀ q i, p = some q → s.runOn q = some i → s.inst? i.key = some i → Requeued (exhaust (s.hop recv send) addr p s) i.key [q] := by
  obtain ⟨hr, hs⟩ := s.hop_ends recv send
  rw [exhaust_first he]
  have logged : Logs s (logExhausted (s.hop recv send) addr s) 0x0421 recv send.toNat := by
    have := logEvent_logs 0x0421 (s.hop recv send).recv (s.hop recv send).send.toNat
      (countExhausted (s.hop recv send).recv (putHop ((s.hop recv send).spent addr s.cue.count.toNat) s))
    rw [hr, hs] at this
    rw [logExhausted, hr, hs]
    exact this
  have quiet := logExhausted_resends recv send addr s
  have hsched : (logExhausted (s.hop recv send) addr s).sched = s.sched := rfl
  generalize (s.hop recv send).spent addr s.cue.count.toNat = x
  generalize logExhausted (s.hop recv send) addr s = w at logged quiet hsched ⊢
  have faulted := (faultEnd_onlyValues (s.hop recv send).recv (loseBlock x p w)).trans (faultEnd_onlyValues (s.hop recv send).send _)
  refine ⟨?_, ?_, fun q i hp hq hi => ?_⟩
  · rw [State.hop_congr (s := loseBlock x p w) (by rw [faultEnd_mem, faultEnd_mem])]
    exact Hop.count_eq_zero fun e hm => quiet e ((loseBlock_released x p w).resends _ _ hm)
  · obtain ⟨_, grows⟩ := (faultEnd_inCue (a1 := (s.hop recv send).send)
      (faultEnd_inCue (a1 := (s.hop recv send).recv) (loseBlock_inCue (a1 := x) (a2 := p) (.refl w)))).log
    exact logged.later grows
  · subst hp
    refine faulted.requeued (loseBlock_requeued x ?_ ?_)
    · rw [State.runOn, hsched]
      exact hq
    · rw [State.inst?_congr hsched]
      exact hi

end Hops

/-! ### FABRIC_BLOCK_RECEIVE (R251 to R253, R260) -/

section Fabric

variable {s : State} {n addr : Nat} {recv send : Byte} {data : List Byte} {crc : W16} {p : Option (Fin 16)}

theorem exec_fabricBlockReceive_good (h : blockCrc data addr = crc) : exec (.fabricBlockReceive n recv send data addr crc p) s =
    .next (endResends (s.hop recv send) addr (s.at n)) := if_pos h

theorem exec_fabricBlockReceive_poisoned (h : blockCrc data addr ≠ crc) (hp : s.poisoned addr = true) :
    exec (.fabricBlockReceive n recv send data addr crc p) s = .next (match p.bind s.runOn with
      | some i => poisonRead (holderId addr) (blockOf addr) i.key (putHop ((s.hop recv send).clear addr) (s.at n))
      | none => putHop ((s.hop recv send).clear addr) (s.at n)) := by
  refine (if_neg h).trans ((if_pos (show (s.at n).poisoned addr = true from hp)).trans ?_)
  rw [show p.bind (s.at n).runOn = p.bind s.runOn from rfl]
  cases p.bind s.runOn <;> rfl

theorem exec_fabricBlockReceive_resent (h : blockCrc data addr ≠ crc) (hp : s.poisoned addr = false) (hc : (s.hop recv send).count addr < 3) :
    exec (.fabricBlockReceive n recv send data addr crc p) s = .next (resend (s.hop recv send) addr p (s.at n)) :=
  (if_neg h).trans ((if_neg (show ¬ (s.at n).poisoned addr = true from Bool.eq_false_iff.1 hp)).trans (if_pos hc))

theorem exec_fabricBlockReceive_lost (h : blockCrc data addr ≠ crc) (hp : s.poisoned addr = false) (hc : 3 ≤ (s.hop recv send).count addr) :
    exec (.fabricBlockReceive n recv send data addr crc p) s = .next (exhaust (s.hop recv send) addr p (s.at n)) :=
  (if_neg h).trans ((if_neg (show ¬ (s.at n).poisoned addr = true from Bool.eq_false_iff.1 hp)).trans (if_neg (Nat.not_lt.2 hc)))

theorem completes_fabricBlockReceive_good (h : blockCrc data addr = crc) :
    Completes (.fabricBlockReceive n recv send data addr crc p) s fun t =>
      (t.hop recv send).count addr = 0 ∧ t.log = s.log ∧ t.sched = s.sched ∧ t.units = s.units := by
  have ap := endResends_apart (s.hop recv send) addr (s.at n)
  exact ⟨_, exec_fabricBlockReceive_good h, endResends_count recv send addr (s.at n), ap.same .log rfl, ap.same .sched rfl, ap.same .units rfl⟩

theorem completes_fabricBlockReceive_poisoned (h : blockCrc data addr ≠ crc) (hp : s.poisoned addr = true) (hr : p.bind s.runOn = none) :
    Completes (.fabricBlockReceive n recv send data addr crc p) s fun t =>
      (t.hop recv send).count addr = 0 ∧ t.log = s.log ∧ t.sched = s.sched ∧ t.units = s.units := by
  have e := exec_fabricBlockReceive_poisoned (n := n) (recv := recv) (send := send) (p := p) h hp
  rw [hr] at e
  exact ⟨_, e, putHop_clear_count recv send addr s (s.at n), rfl, rfl, rfl⟩

end Fabric

/-! ### STACK_ACCESS_COMPLETE (R239, R254, R359) -/

section Stacks

variable {s t : State} {n addr : Nat} {m : Fin 2} {p : Option (Fin 16)} {o : StackObs}

/-- A stack's own hop: what it re-reads for itself. -/
def State.stackHop (s : State) (m : Fin 2) : Hop := s.hop (unitId (.stack m)) (unitId (.stack m))

theorem exec_stackAccessComplete_retraining (h : m ∈ s.mem.retrain) (o : StackObs) :
    exec (.stackAccessComplete n m addr o p) s = .next (s.at n) := if_pos h

theorem exec_stackAccessComplete_clean (h : m ∉ s.mem.retrain) : exec (.stackAccessComplete n m addr .clean p) s =
    .next (endResends (s.stackHop m) addr (s.at n)) := if_neg h

theorem exec_stackAccessComplete_corrected (h : m ∉ s.mem.retrain) : exec (.stackAccessComplete n m addr .corrected p) s =
    .next (logOnce (unitId (.stack m)).toNat 0x0430 (unitId (.stack m)) (pseudoChannel (addr % stackBase 1))
      (countSeverity (Fin.ofNat 4 m.1) (endResends (s.stackHop m) addr (s.at n)))) := if_neg h

theorem exec_stackAccessComplete_parity (h : m ∉ s.mem.retrain) : exec (.stackAccessComplete n m addr .parity p) s =
    .next (if (s.stackHop m).count addr < 3 then resend (s.stackHop m) addr p (s.at n) else exhaust (s.stackHop m) addr p (s.at n)) :=
  if_neg h

/-- The stack's uncorrectable words counted. -/
def countLost (m : Fin 2) (s : State) : State := countSeverity (Fin.ofNat 4 (2 + m.1)) s

theorem exec_stackAccessComplete_uncorrectable (h : m ∉ s.mem.retrain) : exec (.stackAccessComplete n m addr .uncorrectable p) s =
    .next (if (s.stackHop m).count addr < 3 then resend (s.stackHop m) addr p (countLost m (s.at n))
      else stackLost m (s.stackHop m) addr p (countLost m (s.at n))) :=
  if_neg h

theorem countSeverity_eq (i : Fin 4) (s : State) : ∃ v o, countSeverity i s = { s with mem := { s.mem with sevs := v, ovf := o } } := ⟨_, _, rfl⟩

theorem completes_stackAccessComplete_clean (h : m ∉ s.mem.retrain) : Completes (.stackAccessComplete n m addr .clean p) s fun t =>
    (t.stackHop m).count addr = 0 ∧ t.log = s.log ∧ t.sched = s.sched ∧ t.units = s.units := by
  have ap := endResends_apart (s.stackHop m) addr (s.at n)
  exact ⟨_, exec_stackAccessComplete_clean h, endResends_count _ _ addr (s.at n), ap.same .log rfl, ap.same .sched rfl, ap.same .units rfl⟩

theorem completes_stackAccessComplete_corrected (h : m ∉ s.mem.retrain) : Completes (.stackAccessComplete n m addr .corrected p) s fun t =>
    (t.stackHop m).count addr = 0 ∧ t.sched = s.sched ∧ t.units = s.units := by
  have ap : Apart (fun f => decide (f = .mem ∨ f = .log)) (s.at n) (logOnce (unitId (.stack m)).toNat 0x0430 (unitId (.stack m))
      (pseudoChannel (addr % stackBase 1)) (countSeverity (Fin.ofNat 4 m.1) (endResends (s.stackHop m) addr (s.at n)))) := by
    refine logOnce_apart rfl (countSeverity_apart rfl ?_)
    unfold endResends
    split
    · exact .refl _ _
    · exact putHop_apart rfl (.refl _ _)
  refine ⟨_, exec_stackAccessComplete_corrected h, ?_, ap.same .sched rfl, ap.same .units rfl⟩
  obtain ⟨v, o, e⟩ := countSeverity_eq (Fin.ofNat 4 m.1) (endResends (s.stackHop m) addr (s.at n))
  rw [State.stackHop, State.hop_congr (s := endResends (s.stackHop m) addr (s.at n)) (by rw [logOnce_mem, e])]
  exact endResends_count _ _ addr (s.at n)

theorem completes_stackAccessComplete_again (h : m ∉ s.mem.retrain) (hc : (s.stackHop m).count addr < 3)
    (ho : o = .parity ∨ o = .uncorrectable) : Completes (.stackAccessComplete n m addr o p) s fun t =>
      t.sched = s.sched ∧ t.units = s.units ∧ (t.stackHop m).count addr = (s.stackHop m).count addr + 1 := by
  rcases ho with rfl | rfl
  · obtain ⟨hcount, hsched, hunits, -⟩ := resend_effect (unitId (.stack m)) (unitId (.stack m)) addr p s (s.at n)
    exact ⟨_, (exec_stackAccessComplete_parity h).trans (congrArg _ (if_pos hc)), hsched, hunits, hcount⟩
  · obtain ⟨hcount, hsched, hunits, -⟩ := resend_effect (unitId (.stack m)) (unitId (.stack m)) addr p s (countLost m (s.at n))
    exact ⟨_, (exec_stackAccessComplete_uncorrectable h).trans (congrArg _ (if_pos hc)), hsched, hunits, hcount⟩

theorem completes_stackAccessComplete_exhausted (h : m ∉ s.mem.retrain) (hc : 3 ≤ (s.stackHop m).count addr) (he : (s.stackHop m).exhausted = []) :
    Completes (.stackAccessComplete n m addr .parity p) s fun t =>
      Logs s t 0x0421 (unitId (.stack m)) (unitId (.stack m)).toNat ∧
      ∀ q i, p = some q → s.runOn q = some i → s.inst? i.key = some i → Requeued t i.key [q] := by
  obtain ⟨-, hlog, hreq⟩ := exhaust_effect (s := s.at n) (addr := addr) (recv := unitId (.stack m)) (send := unitId (.stack m)) he p
  exact ⟨_, (exec_stackAccessComplete_parity h).trans (congrArg _ (if_neg (Nat.not_lt.2 hc))), hlog, hreq⟩

/-- A stack block that is lost, before the count of its errors. -/
def loseStackBlock (m : Fin 2) (h : Hop) (addr : Nat) (p : Option (Fin 16)) (s : State) : State :=
  poison addr (loseBlock h p (logEvent 0x0431 (unitId (.stack m)) (pseudoChannel (addr % stackBase 1)) (putHop (h.clear addr) s)))

/-- An uncorrectable error of a stack is counted. -/
def countError (m : Fin 2) (s : State) : State :=
  s.modUnit (.stack m) fun r => { r with errors := within 1000 s.cue.count.toNat r.errors }

/-- The sixteenth error within 1,000 cues strikes the stack. -/
def strikeErring (m : Fin 2) (s : State) : State := if 16 ≤ (s.unit (.stack m)).errors.length then strike 10 (.stack m) s else s

theorem stackLost_eq (m : Fin 2) (h : Hop) (addr : Nat) (p : Option (Fin 16)) (s : State) :
    stackLost m h addr p s = strikeErring m (countError m (loseStackBlock m h addr p s)) := rfl

theorem poison_poisoned (a : Nat) (s : State) : (poison a s).poisoned a = true := by
  unfold poison
  split
  · assumption
  · exact decide_eq_true List.mem_cons_self

theorem loseStackBlock_inCue (m : Fin 2) (h : Hop) (addr : Nat) (p : Option (Fin 16)) (s : State) : InCue s (loseStackBlock m h addr p s) :=
  poison_inCue (loseBlock_inCue (logEvent_inCue (putHop_inCue (.refl s))))

theorem loseStackBlock_stands (m : Fin 2) (h : Hop) (addr : Nat) (p : Option (Fin 16)) (s : State) (u : UnitId) :
    Stands u s (loseStackBlock m h addr p s) := by
  have logged : Stands u s (logEvent 0x0431 (unitId (.stack m)) (pseudoChannel (addr % stackBase 1)) (putHop (h.clear addr) s)) := .of_unit rfl
  exact (logged.trans (loseBlock_stands u h p _)).trans (.apart (poison_apart rfl (.refl _ _)))

theorem Stands.errors {u : UnitId} (h : Stands u s t) : (t.unit u).errors = (s.unit u).errors :=
  show (t.unit u).unsuspected.errors = (s.unit u).unsuspected.errors from congrArg UnitRec.errors h

theorem countError_errors (m : Fin 2) (s : State) :
    ((countError m s).unit (.stack m)).errors = within 1000 s.cue.count.toNat (s.unit (.stack m)).errors := by
  rw [countError, State.unit_modUnit_self]

theorem strikeErring_released (m : Fin 2) (s : State) : Released s (strikeErring m s) := by
  unfold strikeErring
  exact .ite (strike_released ..) (.refl s)

theorem strikeErring_inCue (m : Fin 2) (s : State) : InCue s (strikeErring m s) := by
  unfold strikeErring
  split
  · exact strike_inCue (.refl s)
  · exact .refl s

theorem loseStackBlock_logs (m : Fin 2) (h : Hop) (addr : Nat) (p : Option (Fin 16)) (s : State) :
    Logs s (loseStackBlock m h addr p s) 0x0431 (unitId (.stack m)) (pseudoChannel (addr % stackBase 1)) := by
  have logged := logEvent_logs 0x0431 (unitId (.stack m)) (pseudoChannel (addr % stackBase 1)) (putHop (h.clear addr) s)
  obtain ⟨_, grows⟩ := (poison_inCue (a1 := addr) (loseBlock_inCue (a1 := h) (a2 := p) (.refl (logEvent 0x0431 (unitId (.stack m))
    (pseudoChannel (addr % stackBase 1)) (putHop (h.clear addr) s))))).log
  exact Logs.later (s := s) logged grows

theorem stackLost_effect (m : Fin 2) (h : Hop) (addr : Nat) (p : Option (Fin 16)) (s : State) :
    Logs s (stackLost m h addr p s) 0x0431 (unitId (.stack m)) (pseudoChannel (addr % stackBase 1)) ∧
      (stackLost m h addr p s).poisoned addr = true ∧
      (16 ≤ (within 1000 s.cue.count.toNat (s.unit (.stack m)).errors).length → (stackLost m h addr p s).inServ (.stack m) = false) := by
  have counted : InCue (loseStackBlock m h addr p s) (countError m (loseStackBlock m h addr p s)) := State.modUnit_inCue (.refl _)
  rw [stackLost_eq]
  refine ⟨?_, ?_, fun h16 => ?_⟩
  · obtain ⟨_, grows⟩ := (counted.trans (strikeErring_inCue m _)).log
    exact (loseStackBlock_logs m h addr p s).later grows
  · rw [(strikeErring_released m _).poisoned]
    exact poison_poisoned addr _
  · have he : ((countError m (loseStackBlock m h addr p s)).unit (.stack m)).errors =
        within 1000 s.cue.count.toNat (s.unit (.stack m)).errors := by
      rw [countError_errors, (loseStackBlock_inCue m h addr p s).count, (loseStackBlock_stands m h addr p s _).errors]
    rw [strikeErring, if_pos (by rw [he]; exact h16)]
    exact strike_out ..

theorem completes_stackAccessComplete_lost (h : m ∉ s.mem.retrain) (hc : 3 ≤ (s.stackHop m).count addr) :
    Completes (.stackAccessComplete n m addr .uncorrectable p) s fun t =>
      Logs s t 0x0431 (unitId (.stack m)) (pseudoChannel (addr % stackBase 1)) ∧ t.poisoned addr = true ∧
      (s.inServ (.stack m) = true → 16 ≤ (within 1000 s.cue.count.toNat (s.unit (.stack m)).errors).length → t.inServ (.stack m) = false) := by
  obtain ⟨hlog, hpoison, hstrike⟩ := stackLost_effect m (s.stackHop m) addr p (countLost m (s.at n))
  exact ⟨_, (exec_stackAccessComplete_uncorrectable h).trans (congrArg _ (if_neg (Nat.not_lt.2 hc))), hlog, hpoison, fun _ => hstrike⟩

end Stacks

/-- Settles O44: what a hop's count of re-sends becomes, and what a lost block brings on. -/
theorem blocksResentOrLost : Obligations.BlocksResentOrLost := by
  intro n recv send data addr crc p s
  refine ⟨completes_fabricBlockReceive_good, completes_fabricBlockReceive_poisoned, fun h hp i hi => ?_, fun h hp hc => ?_,
    fun h hp hc he => ?_, fun m => ⟨exec_stackAccessComplete_retraining, fun h => ⟨completes_stackAccessComplete_clean h,
      completes_stackAccessComplete_corrected h, fun hc o ho => completes_stackAccessComplete_again h hc ho,
      completes_stackAccessComplete_exhausted h, completes_stackAccessComplete_lost h⟩⟩⟩
  · rw [exec_fabricBlockReceive_poisoned h hp, hi]
  · exact ⟨_, exec_fabricBlockReceive_resent h hp hc, resend_effect recv send addr p s (s.at n)⟩
  · exact ⟨_, exec_fabricBlockReceive_lost h hp hc, exhaust_effect (s := s.at n) he p⟩

end Sys2Proof.Machine

namespace Sys2Proof.Machine

/-! ### TRANSLATION_WALK_DONE (R229, R230) -/

section Walks

variable {s t : State} {n : Nat} {p : Fin 16} {i : Inst} {h : Fin 8} {play addr idx : Nat} {wr : Bool} {tags : List TagErr}

/-- An access goes on with its page's entry. -/
def walkOn (p : Fin 16) (h : Fin 8) (i : Inst) (addr : Nat) (wr : Bool) (s : State) : State :=
  if wr ∨ ((s.press.get p).hands.get h).wait = .walk then waitHand p h .none s
  else if s.blockHere p h i.key.play (blockOf addr) then waitHand p h .none (demandHit p h i.key.play (blockOf addr) s)
  else demandMiss p h i addr s

/-- The entry of a page that a run walks to. -/
def walkEntry (i : Inst) (addr : Nat) (e : W128) : TEntry :=
  { play := i.key.play, page := addr / 2 ^ 21, pte := e, locked := decide (i.kind = 0) }

/-- A walk ends: in a fault, or with the page's entry cached. -/
def endWalk (p : Fin 16) (h : Fin 8) (i : Inst) (addr : Nat) (wr : Bool) (idx : Nat) (s : State) : State :=
  match s.runFaults i wr [blockOf addr], s.pte? i.key.play (addr / 2 ^ 21) with
  | some d, _ => translationFault p idx d i s
  | none, some e => walkOn p h i addr wr (cacheEntry p (walkEntry i addr e) s)
  | none, none => s

theorem exec_translationWalkDone (hr : s.runOn p = some i) (hd : ∀ d ∈ s.mem.drops, ¬(d.play = i.key.play ∧ d.page = addr / 2 ^ 21)) :
    exec (.translationWalkDone n p h i.key.play addr wr idx tags) s =
      .next (endWalk p h i addr wr idx (countPf 32 p (tagErrs p tags (s.at n)))) := by
  have hk : ¬(i.key.play ≠ i.key.play ∨
      ((s.at n).mem.drops.any fun d => decide (d.play = i.key.play) && decide (d.page = addr / 2 ^ 21)) = true) := by
    rintro (hne | hany)
    · exact hne rfl
    · obtain ⟨d, hm, he⟩ := List.any_eq_true.1 hany
      exact hd d hm (by simpa using he)
  change execTranslationWalkDone n p h i.key.play addr wr idx tags s = _
  unfold execTranslationWalkDone
  extract_lets w x v
  rw [show w.runOn p = some i from hr]
  dsimp only
  rw [if_neg hk]
  show _ = Host.Outcome.next (endWalk p h i addr wr idx v)
  clear_value v
  unfold endWalk
  cases v.runFaults i wr [blockOf addr] with
  | some d => rfl
  | none =>
    cases v.pte? i.key.play (addr / 2 ^ 21) with
    | none => rfl
    | some e =>
      dsimp only
      unfold walkOn walkEntry
      split_ifs <;> rfl

theorem exec_translationWalkDone_waits (hr : s.runOn p = some i)
    (hd : play ≠ i.key.play ∨ ∃ d ∈ s.mem.drops, d.play = play ∧ d.page = addr / 2 ^ 21) (tags : List TagErr) :
    exec (.translationWalkDone n p h play addr wr idx tags) s = .next (s.at n) := by
  have hk : i.key.play ≠ play ∨ ((s.at n).mem.drops.any fun d => decide (d.play = play) && decide (d.page = addr / 2 ^ 21)) = true := by
    rcases hd with hne | ⟨d, hm, he⟩
    · exact .inl hne.symm
    · exact .inr (List.any_eq_true.2 ⟨d, hm, by simpa using he⟩)
  change execTranslationWalkDone n p h play addr wr idx tags s = _
  unfold execTranslationWalkDone
  extract_lets w
  rw [show w.runOn p = some i from hr]
  exact if_pos hk

theorem exec_translationWalkDone_idle (hr : s.runOn p = none) : exec (.translationWalkDone n p h play addr wr idx tags) s = .next (s.at n) := by
  have hr' : (s.at n).runOn p = none := hr
  change execTranslationWalkDone n p h play addr wr idx tags s = _
  simp only [execTranslationWalkDone, hr']

theorem exec_translationWalkDone_tags (hr : s.runOn p = some i) (hd : ∀ d ∈ s.mem.drops, ¬(d.play = i.key.play ∧ d.page = addr / 2 ^ 21)) :
    exec (.translationWalkDone n p h i.key.play addr wr idx tags) s =
      exec (.translationWalkDone n p h i.key.play addr wr idx []) (tagErrs p tags s) := by
  rw [exec_translationWalkDone hr hd, exec_translationWalkDone (s := tagErrs p tags s) hr hd, tagErrs_nil, tagErrs_at]

theorem countPf_eq (b : Nat) (p : Fin 16) (s : State) : ∃ v o, countPf b p s = { s with mem := { s.mem with pf := v, ovf := o } } := ⟨_, _, rfl⟩

theorem countPf_runFaults (b : Nat) (wr : Bool) (a : Nat) : (countPf b p s).runFaults i wr [a] = s.runFaults i wr [a] := by
  obtain ⟨v, o, e⟩ := countPf_eq b p s
  rw [e]
  rfl

theorem blockOf_page (a : Nat) : blockOf a / 2 ^ 21 = a / 2 ^ 21 := by
  unfold blockOf
  omega

/-- An access that does not fail has its page's entry. -/
theorem State.pte?_of_allowed (hf : s.runFaults i wr [blockOf addr] = none) : ∃ e, s.pte? i.key.play (addr / 2 ^ 21) = some e := by
  cases he : s.pte? i.key.play (addr / 2 ^ 21) with
  | some e => exact ⟨e, rfl⟩
  | none =>
    have fault : s.accessFault i.key.play (blockOf addr) wr = some 0 := by
      unfold State.accessFault
      rw [blockOf_page, he]
      split
      · rfl
      · split <;> simp_all
    rw [State.runFaults, State.accessFaults, fault] at hf
    cases hf

/-- The entry that a press caches is the one it finds. -/
theorem cacheEntry_cached? (p : Fin 16) (x : TEntry) (s : State) : (cacheEntry p x s).cached? p x.play x.page = some x := by
  unfold cacheEntry State.cached?
  dsimp only
  rw [List.cons_append, List.map_cons, List.cons_append, List.find?_cons_of_pos (by simp)]
  rfl

theorem Fetched.cached? (a : Fetched s t) (p : Fin 16) (play page : Nat) : t.cached? p play page = s.cached? p play page := by
  obtain ⟨_, _, _, _, _, e⟩ := a.mem
  rw [State.cached?, State.cached?, e]

theorem waitHand_fetched (p : Fin 16) (h : Fin 8) (w : WaitReason) (s : State) : Fetched s (waitHand p h w s) := .of_mem rfl

theorem touchStreams_fetched (p : Fin 16) (h : Fin 8) (play addr : Nat) (miss : Bool) (s : State) :
    Fetched s (touchStreams p h play addr miss s) := ⟨_, _, _, _, _, rfl⟩

theorem allocPrefetch_fetched (p : Fin 16) (h : Fin 8) (play addr : Nat) (s : State) : Fetched s (allocPrefetch p h play addr s) := by
  unfold allocPrefetch
  split
  · exact .of_mem rfl
  · dsimp only
    split
    · exact .of_mem rfl
    · split
      · exact .of_mem rfl
      · exact ⟨_, _, _, _, _, rfl⟩

theorem demandHit_fetched (p : Fin 16) (h : Fin 8) (play addr : Nat) (s : State) : Fetched s (demandHit p h play addr s) := by
  have touched := touchStreams_fetched p h play addr false s
  unfold demandHit
  dsimp only
  split
  · split
    · exact touched.trans (useBlock_fetched ..)
    · exact touched
  · exact touched

/-- A miss moves the stagehand's streams, and the stagehand waits for its block. -/
def missBlock (p : Fin 16) (h : Fin 8) (play a : Nat) (s : State) : State :=
  (allocPrefetch p h play a (touchStreams p h play a true s)).modPress p fun r => { r with
    hands := vmod r.hands h fun x => { x with wait := .cacheMiss, miss := some (play, a) } }

theorem missBlock_fetched (p : Fin 16) (h : Fin 8) (play a : Nat) (s : State) : Fetched s (missBlock p h play a s) :=
  ((touchStreams_fetched p h play a true s).trans (allocPrefetch_fetched ..)).trans (.of_mem rfl)

theorem demandMiss_eq (p : Fin 16) (h : Fin 8) (i : Inst) (addr : Nat) (s : State) : demandMiss p h i addr s =
    if s.requested p i.key.play (blockOf addr) then missBlock p h i.key.play (blockOf addr) s
    else if 1536 ≤ s.trackersOf p fun _ => true then waitHand p h .trackers s
    else moveBlock 0 p i.part i.key.play false (blockOf addr) (missBlock p h i.key.play (blockOf addr) s) := rfl

theorem demandMiss_fetched (p : Fin 16) (h : Fin 8) (i : Inst) (addr : Nat) (s : State) : Fetched s (demandMiss p h i addr s) := by
  have missed := missBlock_fetched p h i.key.play (blockOf addr) s
  rw [demandMiss_eq]
  split
  · exact missed
  · split
    · exact waitHand_fetched ..
    · exact missed.trans (moveBlock_asked ..).fetched

theorem walkOn_fetched (p : Fin 16) (h : Fin 8) (i : Inst) (addr : Nat) (wr : Bool) (s : State) : Fetched s (walkOn p h i addr wr s) := by
  unfold walkOn
  split
  · exact waitHand_fetched ..
  · split
    · exact (demandHit_fetched ..).trans (waitHand_fetched ..)
    · exact demandMiss_fetched ..

theorem walkOn_apart (p : Fin 16) (h : Fin 8) (i : Inst) (addr : Nat) (wr : Bool) (s : State) : Apart byResponse s (walkOn p h i addr wr s) := by
  unfold walkOn
  split
  · exact waitHand_apart rfl (.refl _ s)
  · split
    · exact waitHand_apart rfl (demandHit_apart rfl (.refl _ s))
    · exact demandMiss_apart rfl rfl rfl (.refl _ s)

theorem walkOn_goes (hw : wr = true ∨ ((s.press.get p).hands.get h).wait = .walk) :
    (((walkOn p h i addr wr s).press.get p).hands.get h).wait = .none := by
  rw [walkOn, if_pos hw, waitHand, State.modPress_self]
  exact congrArg Stagehand.wait (vmod_get _ _ _ _) |>.trans (by rw [if_pos rfl])

theorem endWalk_allowed {e : W128} (hf : s.runFaults i wr [blockOf addr] = none) (he : s.pte? i.key.play (addr / 2 ^ 21) = some e) :
    endWalk p h i addr wr idx s = walkOn p h i addr wr (cacheEntry p (walkEntry i addr e) s) := by
  unfold endWalk
  rw [hf, he]

theorem endWalk_faults {d : Nat} (hf : s.runFaults i wr [blockOf addr] = some d) :
    endWalk p h i addr wr idx s = translationFault p idx d i s := by
  unfold endWalk
  rw [hf]

theorem completes_translationWalkDone_allowed (hr : s.runOn p = some i)
    (hd : ∀ d ∈ s.mem.drops, ¬(d.play = i.key.play ∧ d.page = addr / 2 ^ 21)) (hf : s.runFaults i wr [blockOf addr] = none) :
    Completes (.translationWalkDone n p h i.key.play addr wr idx []) s fun t =>
      (∃ e, s.pte? i.key.play (addr / 2 ^ 21) = some e ∧ t.cached? p i.key.play (addr / 2 ^ 21) =
        some { play := i.key.play, page := addr / 2 ^ 21, pte := e, locked := decide (i.kind = 0) }) ∧
      ((wr = true ∨ ((s.press.get p).hands.get h).wait = .walk) → ((t.press.get p).hands.get h).wait = .none) ∧
      t.mem.cells = s.mem.cells ∧ t.sched = s.sched ∧ t.log = s.log := by
  obtain ⟨e, he⟩ := State.pte?_of_allowed hf
  have hx := exec_translationWalkDone (n := n) (h := h) (wr := wr) (idx := idx) (tags := []) hr hd
  rw [tagErrs_nil, endWalk_allowed (e := e) ((countPf_runFaults _ _ _).trans ((State.at_runFaults _ _).trans hf)) he] at hx
  have fet := walkOn_fetched p h i addr wr (cacheEntry p (walkEntry i addr e) (countPf 32 p (s.at n)))
  have apt := walkOn_apart p h i addr wr (cacheEntry p (walkEntry i addr e) (countPf 32 p (s.at n)))
  refine ⟨_, hx, ⟨e, he, ?_⟩, fun hw => walkOn_goes hw, fet.cells, apt.same .sched rfl, apt.same .log rfl⟩
  rw [fet.cached?]
  exact cacheEntry_cached? p (walkEntry i addr e) _

theorem completes_translationWalkDone_fault {d : Nat} (hr : s.runOn p = some i)
    (hd : ∀ d ∈ s.mem.drops, ¬(d.play = i.key.play ∧ d.page = addr / 2 ^ 21)) (hf : s.runFaults i wr [blockOf addr] = some d)
    (hi : s.inst? i.key = some i) (h0 : i.faultIdx = none) :
    Completes (.translationWalkDone n p h i.key.play addr wr idx []) s fun t => Logs s t 0x0410 (pressId p) d ∧ Requeued t i.key [p] := by
  have hx := exec_translationWalkDone (n := n) (h := h) (wr := wr) (idx := idx) (tags := []) hr hd
  rw [tagErrs_nil, endWalk_faults ((countPf_runFaults _ _ _).trans ((State.at_runFaults _ _).trans hf))] at hx
  obtain ⟨hlog, hreq, -⟩ := translationFault_effect (s := countPf 32 p (s.at n)) (p := p) idx d hi (State.runOn_running hr) h0
  exact ⟨_, hx, hlog, hreq⟩

end Walks

/-! ### PREFETCH_ISSUE (R245, R246) -/

section Prefetches

variable {s t : State} {n : Nat} {p : Fin 16} {i : Inst} {k : Fin 32} {e : Prefetcher} {tags : List TagErr}

/-- The stream prefetcher of a number on a press. -/
def State.stream? (s : State) (p : Fin 16) (k : Fin 32) : Option (Fin 16 × Prefetcher) :=
  s.mem.prefetch.find? fun e => decide (e.1 = p) && decide (e.2.idx = k)

/-- A stream one stride on. -/
def Prefetcher.onward (e : Prefetcher) : Prefetcher := { e with next := ((e.next : Int) + e.stride).toNat, ahead := e.ahead + 1 }

/-- A prefetch is issued. -/
def issuePrefetch (p : Fin 16) (k : Fin 32) (i : Inst) (e : Prefetcher) (s : State) : State :=
  let s := modPrefetch p k Prefetcher.onward s
  if s.requested p e.play (blockOf e.next) then s else moveBlock 3 p i.part e.play false (blockOf e.next) (countPf 0 p s)

/-- A prefetch is dropped, at a span's edge with its stream. -/
def dropPrefetch (p : Fin 16) (k : Fin 32) (e : Prefetcher) (s : State) : State :=
  modPrefetch p k (fun x => { x.onward with stopped := x.stopped || !s.inSpan p e }) (countPf 16 p s)

/-- A stream's turn. -/
def turnStream (p : Fin 16) (k : Fin 32) (i : Inst) (e : Prefetcher) (s : State) : State :=
  if s.inSpan p e && !e.stopped && s.prefetchRoom p then issuePrefetch p k i e s else dropPrefetch p k e s

theorem exec_prefetchIssue (hr : s.runOn p = some i) (hs : s.stream? p k = some (p, e)) (ha : e.ahead < 16) :
    exec (.prefetchIssue n p k tags) s = .next (turnStream p k i e (tagErrs p tags (s.at n))) := by
  have hs' : (s.at n).mem.prefetch.find? (fun e => decide (e.1 = p) && decide (e.2.idx = k)) = some (p, e) := hs
  change execPrefetchIssue n p k tags s = _
  unfold execPrefetchIssue
  extract_lets w
  rw [show w.runOn p = some i from hr, show w.mem.prefetch.find? _ = some (p, e) from hs']
  refine (if_neg (Nat.not_le.2 ha)).trans ?_
  unfold turnStream issuePrefetch
  dsimp only
  split
  · exact (apply_ite Host.Outcome.next _ _ _).symm
  · rfl

theorem exec_prefetchIssue_ahead (hs : s.stream? p k = some (p, e)) (ha : 16 ≤ e.ahead) (tags : List TagErr) :
    exec (.prefetchIssue n p k tags) s = .next (s.at n) := by
  have hs' : (s.at n).mem.prefetch.find? (fun e => decide (e.1 = p) && decide (e.2.idx = k)) = some (p, e) := hs
  change execPrefetchIssue n p k tags s = _
  unfold execPrefetchIssue
  extract_lets w
  rw [show w.mem.prefetch.find? _ = some (p, e) from hs']
  cases w.runOn p with
  | none => rfl
  | some i => exact if_pos ha

theorem exec_prefetchIssue_none (hn : s.runOn p = none ∨ s.stream? p k = none) (tags : List TagErr) :
    exec (.prefetchIssue n p k tags) s = .next (s.at n) := by
  change execPrefetchIssue n p k tags s = _
  unfold execPrefetchIssue
  extract_lets w
  rcases hn with hn | hn
  · rw [show w.runOn p = none from hn]
  · rw [show w.mem.prefetch.find? (fun e => decide (e.1 = p) && decide (e.2.idx = k)) = none from hn]
    cases w.runOn p <;> rfl

theorem exec_prefetchIssue_tags (hr : s.runOn p = some i) (hs : s.stream? p k = some (p, e)) (ha : e.ahead < 16) :
    exec (.prefetchIssue n p k tags) s = exec (.prefetchIssue n p k []) (tagErrs p tags s) := by
  rw [exec_prefetchIssue hr hs ha, exec_prefetchIssue (s := tagErrs p tags s) hr hs ha, tagErrs_nil, tagErrs_at]

theorem modPrefetch_stream? {f : Prefetcher → Prefetcher} (hf : ∀ x, (f x).idx = x.idx) (hs : s.stream? p k = some (p, e)) :
    (modPrefetch p k f s).stream? p k = some (p, f e) := by
  have found := find?_lmod (f := fun x : Fin 16 × Prefetcher => decide (x.1 = p) && decide (x.2.idx = k)) (g := fun x => (x.1, f x.2))
    (fun x hx => by rw [hf]; exact hx) s.mem.prefetch
  exact found.trans (congrArg (Option.map _) hs)

theorem Asked.stream? (a : Asked s t) (p : Fin 16) (k : Fin 32) : t.stream? p k = s.stream? p k := by
  obtain ⟨_, _, _, h⟩ := a.mem
  rw [State.stream?, State.stream?, h]

theorem issuePrefetch_stream? (hs : s.stream? p k = some (p, e)) : (issuePrefetch p k i e s).stream? p k = some (p, e.onward) := by
  have moved := modPrefetch_stream? (f := Prefetcher.onward) (fun _ => rfl) hs
  unfold issuePrefetch
  dsimp only
  split
  · exact moved
  · rw [(moveBlock_asked ..).stream?]
    exact moved

theorem issuePrefetch_requested (hq : s.requested p e.play (blockOf e.next) = true) :
    (issuePrefetch p k i e s).mem.trackers = s.mem.trackers := by
  unfold issuePrefetch
  dsimp only
  rw [if_pos (show (modPrefetch p k Prefetcher.onward s).requested p e.play (blockOf e.next) = true from hq)]
  rfl

/-- A block that lies in the galley or a stack takes a tracker of the pool, under a new number. -/
theorem moveBlock_tracker (pool : Nat) (p : Fin 16) (part play : Nat) (write : Bool) (addr : Nat) (s : State)
    (h : ∃ r, region ((s.translate play addr).getD 0) = r ∧ ((∃ m, r = .galley m) ∨ ∃ m, r = .stack m)) :
    s.mem.nextId < (moveBlock pool p part play write addr s).mem.nextId ∧ ∃ x ∈ (moveBlock pool p part play write addr s).mem.trackers,
      x.id = s.mem.nextId ∧ x.pool = pool ∧ x.press = some p ∧ x.play = play ∧ x.addr = addr := by
  obtain ⟨w, fill, -, hn, em⟩ := moveBlock_asks pool p part play write addr s h
  obtain ⟨b, asked⟩ := request_asked pool p part play addr write fill w
  obtain ⟨x, hx, alike⟩ := asked.kept (newTracker pool p part play addr write b w) (List.mem_append_right _ List.mem_cons_self)
  rw [em]
  exact ⟨hn ▸ asked.next, x, hx, alike.id.trans hn, alike.pool, alike.press, alike.play, alike.addr⟩

theorem issuePrefetch_tracker (hq : s.requested p e.play (blockOf e.next) = false)
    (h : ∃ r, region ((s.translate e.play (blockOf e.next)).getD 0) = r ∧ ((∃ m, r = .galley m) ∨ ∃ m, r = .stack m)) :
    s.mem.nextId < (issuePrefetch p k i e s).mem.nextId ∧ ∃ x ∈ (issuePrefetch p k i e s).mem.trackers,
      x.id = s.mem.nextId ∧ x.pool = 3 ∧ x.press = some p ∧ x.play = e.play ∧ x.addr = blockOf e.next := by
  unfold issuePrefetch
  dsimp only
  rw [if_neg (Bool.eq_false_iff.1 (show (modPrefetch p k Prefetcher.onward s).requested p e.play (blockOf e.next) = false from hq))]
  exact moveBlock_tracker 3 p i.part e.play false (blockOf e.next) (countPf 0 p (modPrefetch p k Prefetcher.onward s)) h

theorem completes_prefetchIssue_issued (hr : s.runOn p = some i) (hs : s.stream? p k = some (p, e)) (ha : e.ahead < 16)
    (hi : s.inSpan p e = true) (hst : e.stopped = false) (hrm : s.prefetchRoom p = true) :
    Completes (.prefetchIssue n p k []) s fun t => t.stream? p k = some (p, e.onward) ∧
      (s.requested p e.play (blockOf e.next) = true → t.mem.trackers = s.mem.trackers) ∧
      (s.requested p e.play (blockOf e.next) = false → (∃ r, region ((s.translate e.play (blockOf e.next)).getD 0) = r ∧
          ((∃ m, r = .galley m) ∨ ∃ m, r = .stack m)) → s.mem.nextId < t.mem.nextId ∧
        ∃ x ∈ t.mem.trackers, x.id = s.mem.nextId ∧ x.pool = 3 ∧ x.press = some p ∧ x.play = e.play ∧ x.addr = blockOf e.next) := by
  have hx := exec_prefetchIssue (n := n) (tags := []) hr hs ha
  have turn : turnStream p k i e (s.at n) = issuePrefetch p k i e (s.at n) := if_pos (by
    rw [show (s.at n).inSpan p e = true from hi, hst, show (s.at n).prefetchRoom p = true from hrm]
    rfl)
  rw [tagErrs_nil, turn] at hx
  exact ⟨_, hx, issuePrefetch_stream? (s := s.at n) hs, issuePrefetch_requested (s := s.at n), issuePrefetch_tracker (s := s.at n)⟩

theorem completes_prefetchIssue_dropped (hr : s.runOn p = some i) (hs : s.stream? p k = some (p, e)) (ha : e.ahead < 16)
    (hd : s.inSpan p e = false ∨ e.stopped = true ∨ s.prefetchRoom p = false) :
    Completes (.prefetchIssue n p k []) s fun t => t.mem.trackers = s.mem.trackers ∧
      t.stream? p k = some (p, { e.onward with stopped := e.stopped || !s.inSpan p e }) := by
  have hx := exec_prefetchIssue (n := n) (tags := []) hr hs ha
  have turn : turnStream p k i e (s.at n) = dropPrefetch p k e (s.at n) := if_neg (by
    rcases hd with hd | hd | hd
    · rw [show (s.at n).inSpan p e = false from hd]
      exact Bool.false_ne_true
    · simp [hd]
    · rw [show (s.at n).prefetchRoom p = false from hd]
      simp)
  rw [tagErrs_nil, turn] at hx
  exact ⟨_, hx, rfl, modPrefetch_stream? (s := countPf 16 p (s.at n)) (fun _ => rfl) hs⟩

end Prefetches

/-- Settles O41: a walk ends with its page's entry cached or in a fault, and a stream's turn issues a prefetch or drops it. -/
theorem walksAndPrefetches : Obligations.WalksAndPrefetches := by
  refine fun n p s => ⟨fun i hr h addr wr idx hd => ⟨fun tags => exec_translationWalkDone_tags hr hd, completes_translationWalkDone_allowed hr hd,
    fun d hf hi h0 => completes_translationWalkDone_fault hr hd hf hi h0⟩, fun i hr h play addr wr idx hd tags =>
    exec_translationWalkDone_waits hr hd tags, fun hr => ⟨fun _ _ _ _ _ _ => exec_translationWalkDone_idle hr, fun k tags =>
    exec_prefetchIssue_none (.inl hr) tags⟩, fun k hrun => ⟨fun hn tags => exec_prefetchIssue_none (.inr hn) tags, fun e hs => ?_⟩⟩
  obtain ⟨i, hr⟩ := Option.isSome_iff_exists.1 hrun
  exact ⟨completes_prefetchIssue_issued hr hs, completes_prefetchIssue_dropped hr hs, exec_prefetchIssue_ahead hs,
    fun ha tags => exec_prefetchIssue_tags hr hs ha⟩

end Sys2Proof.Machine

namespace Sys2Proof.Machine

/-! ### ACCT_SELECT and the account window (R292) -/

/-- The two bytes of a register of 16 bits, written in address order, complete one write of the register with those bytes,
whatever the holding buffer held before. -/
theorem f1WriteAt_half {base : Nat} (lo hi : Byte) (s : State) (hreg : ∀ i : Fin 2, regOf (base + i.1) = some (base, 2)) :
    ∃ w, heldByte w 0 = some lo ∧ heldByte w 1 = some hi ∧
      f1WriteAt (n := 2) base [(0, lo), (1, hi)] s = regWrite base w (setHold none s) := by
  simp only [f1WriteAt, List.foldl_cons, List.foldl_nil]
  simp only [f1WriteByte_holds _ _ (hreg 0) (by decide), f1WriteByte_completes _ _ (hreg 1) (by decide), heldFor_setHold,
    setHold_setHold]
  refine ⟨_, ?_, ?_, rfl⟩ <;> simp [heldByte]

theorem regWrite_acctSelect {w : List (Nat × Byte)} {lo hi : Byte} (s : State) (h0 : heldByte w 0 = some lo)
    (h1 : heldByte w 1 = some hi) : regWrite 0x4000 w s =
      if hi.toNat % 8 * 256 + lo.toNat < 1056 then captureAccount (hi.toNat % 8 * 256 + lo.toNat) s else s := by
  change writeAcctSelect w s = _
  simp only [writeAcctSelect, h0, h1, Option.map_some, Option.getD_some]

/-- Both bytes of ACCT_SELECT, written in one row, complete the write in that step: a listed client is captured (R292), an
unlisted one is not (R7), and nothing stays held (R10). -/
theorem exec_acctSelectWrite_whole {s : State} (n : Nat) (lo hi : Byte) (h : s.selected = true) :
    exec (.acctSelectWrite n [(0, lo), (1, hi)]) s = .next (if hi.toNat % 8 * 256 + lo.toNat < 1056 then
      captureAccount (hi.toNat % 8 * 256 + lo.toNat) (setHold none (s.at n)) else setHold none (s.at n)) := by
  obtain ⟨w, h0, h1, hw⟩ := f1WriteAt_half (base := 0x4000) lo hi (s.at n) (by decide)
  have e : exec (.acctSelectWrite n [(0, lo), (1, hi)]) s =
      .next (if s.selected then f1WriteAt 0x4000 [(0, lo), (1, hi)] (s.at n) else s.at n) := rfl
  rw [e, if_pos h, hw, regWrite_acctSelect _ h0 h1]

theorem findReg_eq_some {a : Nat} {l : List (Nat × Nat)} {r : Nat × Nat} (h : findReg a l = some r) :
    r ∈ l ∧ r.1 ≤ a ∧ a < r.1 + r.2 :=
  ⟨List.mem_of_find?_eq_some h, by simpa using List.find?_some h⟩

/-- The register at 0x4000 is ACCT_SELECT, of two bytes: none of the registers in rows starts there. -/
theorem regOf_acctSelect_length {a n : Nat} (h : regOf a = some (0x4000, n)) : n = 2 := by
  have start {b m : Nat} (h : some (b, m) = some (0x4000, n)) : b = 0x4000 := congrArg Prod.fst (Option.some.inj h)
  unfold regOf at h
  split_ifs at h with hlog hdig hplay hpart hunit
  · have := start h
    omega
  · have := start h
    omega
  · have := start h
    omega
  · obtain ⟨r, hr, e⟩ := Option.map_eq_some_iff.1 h
    obtain ⟨-, below, -⟩ := findReg_eq_some hr
    have := start (congrArg some e)
    omega
  · simp [unitAt, start h] at hunit
  · have only : ∀ r ∈ scalarRegs, r.1 = 0x4000 → r.2 = 2 := by decide
    exact only _ (findReg_eq_some h).1 rfl

/-- A completed write of another register than ACCT_SELECT leaves the account window. -/
theorem regWrite_acctWin {b : Nat} (w : List (Nat × Byte)) (s : State) (hb : b ≠ 0x4000) :
    (regWrite b w s).acctWin = s.acctWin := by
  have r := Apart.refl (fun f => decide (f ≠ .acctWin)) s
  have kept : Apart (fun f => decide (f ≠ .acctWin)) s (regWrite b w s) := by
    unfold regWrite
    rw [if_neg hb]
    exact (writeHfControl_apart rfl r).ite <| (writeHfIrq_apart rfl r).ite <| (writeHfIrqEnable_apart rfl r).ite <|
      (writeCueStatus_apart rfl r).ite <| (writeCurtainTest_apart rfl rfl r).ite r
  exact kept.same .acctWin rfl

/-- Only the last byte of ACCT_SELECT acts on the account window: every other byte is held or completes another register. -/
theorem f1WriteByte_acctWin {a : Nat} (v : Byte) (s : State) (ha : a ≠ 0x4001) : (f1WriteByte a v s).acctWin = s.acctWin := by
  unfold f1WriteByte
  split
  · rfl
  · next b n hreg =>
    dsimp only
    split_ifs with last
    · have hb : b ≠ 0x4000 := by
        rintro rfl
        have := regOf_acctSelect_length hreg
        omega
      exact regWrite_acctWin _ (setHold none s) hb
    · rfl

/-- Settles O51: the write of both bytes captures a listed client in its own step, and the frames of the commands and of the
window's other bytes keep what it took. -/
theorem accountCapture : Obligations.AccountCapture := by
  refine ⟨?_, fun c s t h hf => exec_next_apart (f := .acctWin) h hf, fun a v s ha => f1WriteByte_acctWin v s ha⟩
  rintro n lo hi client s hsel rfl
  have e := exec_acctSelectWrite_whole n lo hi hsel
  refine ⟨fun listed => ?_, fun unlisted => ?_⟩
  · rw [if_pos listed] at e
    exact ⟨_, e, rfl, rfl, rfl, rfl, rfl, rfl⟩
  · rw [if_neg (by omega)] at e
    exact ⟨_, e, rfl, rfl⟩

end Sys2Proof.Machine

namespace Sys2Proof.Machine

/-! ### One step of the queue (R308) -/

/-- Settles O1: the queue is empty or has a front, and a step is defined by that split. -/
theorem stepRunsFront : Obligations.StepRunsFront := by
  refine ⟨fun c rest s front => ?_, fun s idle => ?_⟩
  · rw [step, front]
  · rw [step, idle]

end Sys2Proof.Machine

namespace Sys2Proof.Machine

/-! ### PART_COMMIT_REQUEST (R298) -/

/-- The entries stand while time goes on. -/
@[simp] theorem State.at_inst? (s : State) (n : Nat) (k : InstKey) : (s.at n).inst? k = s.inst? k := rfl

section PartCommit

variable {s : State} {n part : Nat} {k : InstKey} {i : Inst}

/-- A running part has asked for its commit. -/
def Inst.raise (part : Nat) (i : Inst) : Inst := if i.st = .running then { i with partsDone := part :: i.partsDone } else i

theorem Inst.raise_key (i : Inst) : (i.raise part).key = i.key := by
  unfold Inst.raise
  split <;> rfl

theorem Inst.raise_running (h : i.st = .running) : i.raise part = { i with partsDone := part :: i.partsDone } := if_pos h

theorem Inst.mem_raise_partsDone (h : (i.raise part).st = .running) : part ∈ (i.raise part).partsDone := by
  by_cases hr : i.st = .running
  · rw [Inst.raise_running hr]
    exact List.mem_cons_self
  · rw [Inst.raise, if_neg hr] at h
    exact absurd h hr

theorem memErrs_nil (reader : Option InstKey) (s : State) : memErrs [] reader s = s := rfl

theorem exec_partCommitRequest (hi : s.inst? k = some i) (hr : i.st = .running) (hw : (s.at n).partRetired i part = true)
    (hp : part ∉ i.partsDone) (errs : List MemErr) : exec (.partCommitRequest n k part errs) s =
      .next ((memErrs errs (some k) (s.at n)).modInst k (Inst.raise part)) := by
  change execPartCommitRequest n k part errs s = _
  simp only [execPartCommitRequest, State.at_inst?, hi, hr, hw, hp, decide_true, not_false_eq_true, Bool.and_self, if_true]
  rfl

theorem exec_partCommitRequest_none (hi : s.inst? k = some i)
    (h : i.st ≠ .running ∨ part ∈ i.partsDone ∨ (s.at n).partRetired i part = false) (errs : List MemErr) :
    exec (.partCommitRequest n k part errs) s = .next (s.at n) := by
  change execPartCommitRequest n k part errs s = _
  rcases h with h | h | h <;> simp [execPartCommitRequest, hi, h]

theorem completes_partCommitRequest (hi : s.inst? k = some i) (hr : i.st = .running) (hw : (s.at n).partRetired i part = true)
    (hp : part ∉ i.partsDone) (errs : List MemErr) : Completes (.partCommitRequest n k part errs) s fun t =>
      (∀ j, t.inst? k = some j → j.st = .running → part ∈ j.partsDone) ∧
      (errs = [] → t.inst? k = some { i with partsDone := part :: i.partsDone } ∧ t.mem = s.mem ∧ t.log = s.log) := by
  have entry := State.inst?_modInst (fun _ => Inst.raise_key (part := part) _) k (memErrs errs (some k) (s.at n))
  refine ⟨_, exec_partCommitRequest hi hr hw hp errs, fun j hj hjr => ?_, fun he => ?_⟩
  · obtain ⟨x, -, rfl⟩ := Option.map_eq_some_iff.1 (entry.symm.trans hj)
    exact Inst.mem_raise_partsDone hjr
  · subst he
    rw [memErrs_nil] at entry ⊢
    refine ⟨?_, rfl, rfl⟩
    rw [entry, State.at_inst?, hi, Option.map_some, Inst.raise_running hr]

end PartCommit

/-! ### What a commit's consequences leave of its record (R299, R303, R305) -/

section SameCommits

variable {s t w : State}

/-- No scene has committed: the serial and the digest ring stand. -/
structure SameCommits (s t : State) : Prop where
  serial : t.sched.serial = s.sched.serial
  head : t.sched.digHead = s.sched.digHead
  ring : t.sched.digRing = s.sched.digRing

theorem SameCommits.of_sched (h : t.sched = s.sched) : SameCommits s t := ⟨by rw [h], by rw [h], by rw [h]⟩

theorem SameCommits.refl (s : State) : SameCommits s s := .of_sched rfl

theorem SameCommits.trans (a : SameCommits s t) (b : SameCommits t w) : SameCommits s w :=
  ⟨b.serial.trans a.serial, b.head.trans a.head, b.ring.trans a.ring⟩

theorem SameCommits.apart (h : Apart butSched s t) : SameCommits s t := .of_sched (h.same .sched rfl)

theorem SameCommits.foldl {α : Type} (l : List α) (f : State → α → State) (h : SameCommits s t) (hf : ∀ w a, SameCommits w (f w a)) :
    SameCommits s (l.foldl f t) :=
  List.foldlRecOn l f (motive := fun w => SameCommits s w) h fun w hw a _ => hw.trans (hf w a)

theorem SameCommits.values (h : OnlyValues s t) : SameCommits s t := by
  obtain ⟨_, _, e⟩ := h
  exact ⟨by rw [e], by rw [e], by rw [e]⟩

theorem OnlyValues.foldl {α : Type} (l : List α) (f : State → α → State) (h : OnlyValues s t) (hf : ∀ w a, OnlyValues w (f w a)) :
    OnlyValues s (l.foldl f t) :=
  List.foldlRecOn l f (motive := fun w => OnlyValues s w) h fun w hw a _ => hw.trans (hf w a)

theorem OnlyValues.apart (h : Apart butSched s t) : OnlyValues s t := .of_sched (h.same .sched rfl)

theorem forgetValues_onlyValues (f : Value → Bool) (s : State) : OnlyValues s (forgetValues f s) := by
  refine OnlyValues.trans (t := { s with sched := { s.sched with values := s.sched.values.filter fun v => !f v } }) ⟨_, _, rfl⟩
    (.apart (.foldl _ _ (.refl _ _) fun _ _ h => .foldl _ _ h fun _ _ h => ?_))
  exact .ite h (unmapPage_apart rfl h)

theorem setDigPlay_sameCommits (play : Nat) (d : DigPlay) (s : State) : SameCommits s (setDigPlay play d s) := by
  unfold setDigPlay
  split
  · exact ⟨rfl, rfl, rfl⟩
  · exact .refl s

theorem abandonStep_sameCommits (st : Step) (s : State) : SameCommits s (abandonStep st s) := by
  have freed := (setDigPlay_sameCommits st.play
    { digest := s.runDigest st.play st.no, run := BitVec.ofNat 32 st.no, complete := false, invalid := false } s).trans
    (.apart (requeueRows_apart (a1 := st) rfl (freeReserved_apart (a1 := st.play) (a2 := st.rows.flatMap Row.reserved) rfl (.refl _ _))))
  have ended : SameCommits s (endStep st _) := freed.trans ⟨rfl, rfl, rfl⟩
  exact ended.trans (.values (forgetValues_onlyValues _ _))

theorem settleStep_sameCommits (play no : Nat) (s : State) : SameCommits s (settleStep play no s) := by
  unfold settleStep
  split
  · exact .refl s
  · split
    · exact abandonStep_sameCommits _ s
    · exact .refl s

theorem closeSession_sameCommits (x : Session) (s : State) : SameCommits s (closeSession x s) := by
  rw [closeSession_eq]
  have shut : Apart butSched s (decLeaves x.play x.leaves (modSession x.slot Session.shut (dropRows x.handle s))) :=
    decLeaves_apart rfl (modSession_apart rfl (dropRows_apart rfl (.refl _ s)))
  exact .foldl _ _ (.apart shut) fun w st => settleStep_sameCommits st.play st.no w

theorem forgetStep_sameCommits (st : Step) (s : State) : SameCommits s (forgetStep st s) := by
  unfold forgetStep
  refine SameCommits.trans ?_ (.values (forgetValues_onlyValues _ _))
  exact ⟨rfl, rfl, rfl⟩

/-- A step ends with its last commit, or goes on, or is abandoned once its sessions have closed. -/
theorem finishStep_sameCommits (p : Play) (no : Nat) (s : State) : SameCommits s (finishStep p no s) := by
  unfold finishStep
  split
  · exact .refl s
  · next st _ =>
    split
    · refine (SameCommits.trans ?_ (setDigPlay_sameCommits ..)).trans (forgetStep_sameCommits ..)
      exact .apart (.cog rfl (freeReserved_apart rfl (.refl _ s)))
    · exact settleStep_sameCommits ..

/-- Tokens are delivered to sessions and to the port; a session that is full may close. -/
theorem deliverTokens_sameCommits (p : Play) (no : Nat) (serial pos : W32) (s : State) :
    SameCommits s (deliverTokens p no serial pos s) := by
  unfold deliverTokens
  split
  · exact .refl s
  · next st _ =>
    refine SameCommits.foldl _ _ (.apart ?_) fun w r => ?_
    · exact .ite (modStep_apart rfl (commitRows_apart rfl rfl (.refl _ s)))
        (originate_apart rfl (modStep_apart rfl (commitRows_apart rfl rfl (.refl _ s))))
    · split
      · split
        · exact closeSession_sameCommits _ w
        · exact .refl w
      · exact .refl w

theorem wake_sameCommits (p : Play) (run : Nat) (rep : Bool) (s : State) : SameCommits s (wake p run rep s) := by
  refine SameCommits.foldl _ _ (.refl s) fun w j => ?_
  dsimp only
  split
  · exact ⟨rfl, rfl, rfl⟩
  · exact .refl w

/-- A change of the entries under another key. -/
theorem State.inst?_modInst_ne {k k' : InstKey} (hk : k' ≠ k) {f : Inst → Inst} (hf : ∀ x, (f x).key = x.key) (s : State) :
    (s.modInst k' f).inst? k = s.inst? k := by
  have hkey : (fun x : Inst => decide (x.key = k)) ∘ (fun x => if decide (x.key = k') = true then f x else x) =
      fun x => decide (x.key = k) := by
    funext x
    dsimp only [Function.comp]
    split
    · rw [hf]
    · rfl
  rw [State.inst?, State.inst?, State.modInst, lmod, List.find?_map, hkey]
  cases hx : s.sched.insts.find? fun x => x.key = k with
  | none => rfl
  | some x => exact congrArg some (if_neg fun h => hk ((of_decide_eq_true h).symm.trans (inst?_key hx)))

/-- An entry of a key under which nothing waits stays as it is. -/
theorem wake_inst? {k : InstKey} (h : ∀ y ∈ s.sched.insts, y.key = k → y.st ≠ .waiting) (p : Play) (run : Nat) (rep : Bool) :
    (wake p run rep s).inst? k = s.inst? k := by
  refine List.foldlRecOn _ _ (motive := fun w : State => w.inst? k = s.inst? k) rfl fun w hw j hj => ?_
  obtain ⟨hmem, hwaits⟩ := List.mem_filter.1 hj
  simp only [Bool.and_eq_true, decide_eq_true_eq] at hwaits
  obtain ⟨⟨⟨waits, -⟩, -⟩, -⟩ := hwaits
  dsimp only
  split
  · exact (State.inst?_modInst_ne (f := fun x => { x with st := .ready, ord := w.sched.ord }) (fun e => h j hmem e waits) (fun _ => rfl)
      w).trans hw
  · exact hw

end SameCommits

/-! ### SCENE_COMMIT (R299, R300, R390) -/

section SceneCommit

variable {s : State} {n : Nat} {k : InstKey} {i : Inst} {p : Play}

/-- A commit takes its place at the house arbiter and the next serial. -/
def takeSerial (s : State) : State := { s with arb := s.arb.commit, sched := { s.sched with serial := s.sched.serial + 1 } }

/-- The run's charges are entered, its buffers become committed values, and its pages, requests and presses are let go. -/
def settleRun (p : Play) (i : Inst) (serial : W32) (s : State) : State :=
  let s := countCommit i (chargeRun i s)
  let own := (s.ownBufs i).filter fun b => decide (b.tensor < p.tensors.length)
  let exch := (s.ownBufs i).filter fun b => decide (p.tensors.length ≤ b.tensor)
  let s := own.foldl (fun s b => remapBuf p.index b (commitBuf i serial b s)) s
  let s := dropRequests i.presses (unmapInputs i ((exch.flatMap bufPages).foldl (fun s g => unmapPage p.index g s) s))
  i.presses.foldl (fun s q => s.modPress q (Press.flush s.pressCycle)) s

/-- An entry under a serial and the run's digests. -/
def Inst.sealed (serial : W32) (d : W64 × W64) (i : Inst) : Inst := { i with dScene := d.1, dPlay := d.2, serial := serial }

/-- A committed entry. -/
def Inst.committed (serial : W32) (d : W64 × W64) (cue : Nat) (i : Inst) : Inst :=
  { Inst.sealed serial d i with st := .committed, bufs := [], cue := cue }

/-- The entry is committed, the run's values may be whole, and the scene's record enters the ring. -/
def enterCommit (p : Play) (i : Inst) (serial : W32) (d : W64 × W64) (s : State) : State :=
  digRecord (i.sealed serial d) serial (markWhole p i (s.modInst i.key (Inst.committed serial d s.cue.count.toNat)))

/-- What follows on a commit: a moved leaf's entry, or the scenes that waited, and in cognition the tokens and the step's end. -/
def followCommit (p : Play) (i : Inst) (serial pos : W32) (s : State) : State :=
  if i.kind = kindMove then commitMove i s
  else
    let s := wake p i.key.run i.key.rep s
    if i.kind = 2 then
      finishStep p i.key.run (if writesTokens p i.key then deliverTokens p i.key.run serial pos s else s)
    else s

theorem commitScene_eq (h : s.play? i.key.play = some p) : commitScene i s =
    followCommit p i (s.sched.serial + 1) s.log.head (enterCommit p i (s.sched.serial + 1) (runDigests (takeSerial s) p i)
      (settleRun p i (s.sched.serial + 1) (takeSerial s))) := by
  unfold commitScene
  rw [h]
  rfl

/-- Neither the clock nor the serial enters a run's digests. -/
theorem takeSerial_at_runDigests (n : Nat) (p : Play) (i : Inst) (s : State) : runDigests (takeSerial (s.at n)) p i = runDigests s p i := rfl

theorem settleRun_onlyValues (p : Play) (i : Inst) (serial : W32) (s : State) : OnlyValues s (settleRun p i serial s) := by
  have charged : Apart butSched s (countCommit i (chargeRun i s)) := countCommit_apart rfl (chargeRun_apart rfl rfl rfl rfl (.refl _ s))
  have committed : ∀ w b, OnlyValues w (remapBuf p.index b (commitBuf i serial b w)) := fun w b =>
    OnlyValues.trans (t := commitBuf i serial b w) ⟨_, _, rfl⟩ (.apart (remapBuf_apart rfl (.refl _ _)))
  have released : ∀ (ps : List Nat) w, Apart butSched w (i.presses.foldl (fun s q => s.modPress q (Press.flush s.pressCycle))
      (dropRequests i.presses (unmapInputs i (ps.foldl (fun s g => unmapPage p.index g s) w)))) := fun ps w =>
    .foldl _ _ (dropRequests_apart rfl rfl (unmapInputs_apart rfl (.foldl _ _ (.refl _ w) fun _ _ hw => unmapPage_apart rfl hw)))
      fun _ _ hw => State.modPress_apart rfl hw
  exact ((OnlyValues.apart charged).foldl ((State.ownBufs _ i).filter _) _ committed).trans (.apart (released _ _))

theorem enterCommit_insts (p : Play) (i : Inst) (serial : W32) (d : W64 × W64) (s : State) : (enterCommit p i serial d s).sched.insts =
    lmod (fun x => x.key = i.key) (Inst.committed serial d s.cue.count.toNat) s.sched.insts := rfl

theorem enterCommit_inst? (p : Play) {j : Inst} (h : s.inst? i.key = some j) (serial : W32) (d : W64 × W64) :
    (enterCommit p i serial d s).inst? i.key = some (j.committed serial d s.cue.count.toNat) :=
  (State.inst?_modInst (f := Inst.committed serial d s.cue.count.toNat) (fun _ => rfl) i.key s).trans (congrArg (Option.map _) h)

/-- Every entry under the committed scene's key has committed. -/
theorem enterCommit_committed (p : Play) (i : Inst) (serial : W32) (d : W64 × W64) (s : State) :
    ∀ y ∈ (enterCommit p i serial d s).sched.insts, y.key = i.key → y.st = .committed := by
  intro y hy hk
  rw [enterCommit_insts] at hy
  obtain ⟨x, -, rfl⟩ := List.mem_map.1 hy
  by_cases hx : x.key = i.key
  · rw [if_pos (decide_eq_true hx)]
    rfl
  · rw [if_neg (mt of_decide_eq_true hx)] at hk
    exact absurd hk hx

theorem followCommit_sameCommits (p : Play) (i : Inst) (serial pos : W32) (s : State) : SameCommits s (followCommit p i serial pos s) := by
  unfold followCommit
  split
  · exact .apart (commitMove_apart rfl rfl (.refl _ s))
  · have woken := wake_sameCommits p i.key.run i.key.rep s
    dsimp only
    split
    · refine SameCommits.trans ?_ (finishStep_sameCommits p i.key.run _)
      split
      · exact woken.trans (deliverTokens_sameCommits ..)
      · exact woken
    · exact woken

/-- Outside cognition a committed entry stays. -/
theorem followCommit_inst? (h : ∀ y ∈ s.sched.insts, y.key = k → y.st = .committed) (hk : i.kind ≠ 2) (p : Play) (serial pos : W32) :
    (followCommit p i serial pos s).inst? k = s.inst? k := by
  unfold followCommit
  split
  · have moved : Apart butSched s (commitMove i s) := commitMove_apart rfl rfl (.refl _ s)
    exact State.inst?_congr (moved.same .sched rfl) k
  · exact wake_inst? (fun y hy e => by simp [h y hy e]) p _ _

/-- A leaf move's copies do not wait on the clock. -/
@[simp] theorem State.at_moveDone (s : State) (n : Nat) (i : Inst) : (s.at n).moveDone i = s.moveDone i := rfl

theorem exec_sceneCommit (hi : s.inst? k = some i) (ha : i.asked = true) (hm : i.kind ≠ kindMove ∨ s.moveDone i = true) :
    exec (.sceneCommit n k) s = .next (commitScene i (s.at n)) := by
  change execSceneCommit n k s = _
  simp [execSceneCommit, hi, ha, hm]

theorem exec_sceneCommit_none (hi : s.inst? k = some i) (h : i.asked = false ∨ (i.kind = kindMove ∧ s.moveDone i = false)) :
    exec (.sceneCommit n k) s = .next (s.at n) := by
  change execSceneCommit n k s = _
  rcases h with h | ⟨hk, hm⟩
  · simp [execSceneCommit, hi, h]
  · simp [execSceneCommit, hi, hk, hm]

theorem completes_sceneCommit (hi : s.inst? k = some i) (ha : i.asked = true) (hm : i.kind ≠ kindMove ∨ s.moveDone i = true)
    (hp : s.play? k.play = some p) : Completes (.sceneCommit n k) s fun t =>
      t.sched.serial = s.sched.serial + 1 ∧ t.sched.digHead = s.sched.serial + 1 ∧
      (∃ r, t.sched.digRing.head? = some r ∧ r.serial = s.sched.serial + 1 ∧ r.dScene = (runDigests s p i).1 ∧
        r.dPlay = (runDigests s p i).2 ∧ r.play = k.play ∧ r.scene = k.scene ∧ r.run = BitVec.ofNat 32 k.run) ∧
      (i.kind ≠ 2 → ∃ j, t.inst? k = some j ∧ j.st = .committed ∧ j.serial = s.sched.serial + 1 ∧ j.dScene = (runDigests s p i).1 ∧
        j.dPlay = (runDigests s p i).2 ∧ j.bufs = []) := by
  obtain rfl := inst?_key hi
  have run := exec_sceneCommit (n := n) hi ha hm
  rw [commitScene_eq (s := s.at n) hp, takeSerial_at_runDigests, State.at_sched, State.at_log] at run
  have settled := settleRun_onlyValues p i (s.sched.serial + 1) (takeSerial (s.at n))
  have serial := (SameCommits.values settled).serial
  have found := (settled.inst? i.key).trans hi
  generalize settleRun p i (s.sched.serial + 1) (takeSerial (s.at n)) = u at run serial found
  have after := followCommit_sameCommits p i (s.sched.serial + 1) s.log.head (enterCommit p i (s.sched.serial + 1) (runDigests s p i) u)
  refine ⟨_, run, after.serial.trans serial, after.head, ⟨_, congrArg List.head? after.ring, rfl, rfl, rfl, rfl, rfl, rfl⟩, fun hk => ?_⟩
  exact ⟨_, (followCommit_inst? (enterCommit_committed _ _ _ _ _) hk p _ _).trans (enterCommit_inst? p found _ _), rfl, rfl, rfl, rfl, rfl⟩

end SceneCommit

/-- Settles O32: a part that has no work left asks, and the scene whose parts have all asked commits; what follows on its commit leaves its
record in the ring and, outside cognition, its entry. -/
theorem scenesCommit : Obligations.ScenesCommit := by
  intro n part k i s hi
  exact ⟨fun errs hr hw hp => completes_partCommitRequest hi hr hw hp errs, fun h errs => exec_partCommitRequest_none hi h errs,
    fun p ha hm hp => completes_sceneCommit hi ha hm hp, exec_sceneCommit_none hi⟩

end Sys2Proof.Machine

namespace Sys2Proof.Machine

/-! ### The invariant (R333, R334, R368) -/

section Invariant

variable {s t : State}

theorem State.alarmHolds_iff : s.alarmHolds = true ↔ Alarm s := by
  unfold State.alarmHolds Alarm
  cases s.dev.faultN <;> simp

theorem State.curtainSafe_iff : s.curtainSafe = true ↔ Safe s := by
  unfold State.curtainSafe Safe
  cases s.cur.running <;> simp

/-- The invariant is the canonical form of both byte stores with the guard of the curtain and FAULT_N. -/
theorem State.inv_iff : s.inv = true ↔ (Memory.wf s.mem.cells = true ∧ Memory.wf s.ufs = true) ∧ Guarded s := by
  simp only [State.inv, State.memoryWf, Bool.and_eq_true, State.alarmHolds_iff, State.curtainSafe_iff, Guarded, and_assoc]

theorem exec_inv {c : Instr} (h : s.inv = true) (e : exec c s = .next t) : t.inv = true := by
  obtain ⟨⟨hcells, hufs⟩, hguard⟩ := State.inv_iff.1 h
  have held := exec_next_holds e
  exact State.inv_iff.2 ⟨⟨held.cells hcells, held.ufs hufs⟩, exec_guarded hguard e⟩

end Invariant

/-- Settles O2: an empty queue idles, and every command keeps the byte stores' form and the guard, on which the queue has no say. -/
theorem stepKeepsInvariant : Obligations.StepKeepsInvariant := by
  intro s t h e
  unfold step at e
  split at e
  · cases e
    exact h
  · next c rest _ => exact exec_inv (s := { s with pending := rest }) h e

end Sys2Proof.Machine

namespace Sys2Proof.Machine

/-! ### The curtain's start (R323, R333, R334, R336) -/

section CurtainStart

variable {s t : State} {v : Value}

theorem runCurtain_starts (off : s.cur.running = false) (on : (runCurtain s).cur.running = true) :
    s.cur.oscOut = false ∧ (runCurtain s).cur.startedAt = (runCurtain s).now := by
  unfold runCurtain at on ⊢
  rw [if_neg (Bool.eq_false_iff.1 off)] at on ⊢
  cases hosc : s.cur.oscOut with
  | true => rw [if_pos hosc, off] at on; cases on
  | false => exact ⟨rfl, rfl⟩

theorem Detected.latch (h : Detected s t) : t.cur.latch = true := by
  obtain ⟨⟨latched, -⟩, -⟩ := h
  exact latched

/-- A safety output whose block is lost is a detection. -/
theorem loseValue_safetyOut (u : Byte) (h : s.safetyOut v.play v.tensor = true) : loseValue u v s = detect 0x0B u s := by
  unfold State.safetyOut at h
  split at h
  · cases h
  next p hp =>
  split at h
  next x hx =>
    simp only [Bool.and_eq_true, decide_eq_true_eq] at h
    obtain ⟨hkind, htwo, -⟩ := h
    refine loseValue_safety hp ?_ hkind
    rw [State.tensorKind, hp, Option.bind_some, hx, Option.map_some, Option.getD_some, htwo]
    decide
  · rw [Bool.and_false] at h
    cases h

/-- A comparison that has not ended by PUBLISH_DEADLINE makes the cue late (R323). -/
def lateAtPublish (s : State) : State :=
  if decide (s.cue.stateAtB = .running ∨ s.cue.stateAtB = .degraded) && !s.cue.compDone && !s.cue.late && !s.slotsFailed then
    goLate 0x0111 0 idCurtain s else s

/-- The cue's safety outputs, which the publication reads. -/
def State.cueOutputs (s : State) : List Value :=
  s.sched.values.filter fun v => s.safetyOut v.play v.tensor && decide (v.run = s.cue.count.toNat) && !v.rep

/-- An output is read; a poisoned block of it is lost with it (R257). -/
def readOutput (s : State) (v : Value) : State :=
  match s.lostPart v 0 v.bytes.length with
  | some a => loseValue (holderId a) v s
  | none => s

/-- The state that the publication judges. -/
def atPublication (s : State) : State := (lateAtPublish s).cueOutputs.foldl readOutput (lateAtPublish s)

theorem lateAtPublish_inCue (s : State) : InCue s (lateAtPublish s) := by
  unfold lateAtPublish
  exact (goLate_inCue (.refl s)).ite (.refl s)

theorem lateAtPublish_keeps (s : State) : Keeps s (lateAtPublish s) := by
  unfold lateAtPublish
  exact (goLate_keeps (.refl s)).ite (.refl s)

theorem readOutput_inCue (s : State) (v : Value) : InCue s (readOutput s v) := by
  unfold readOutput
  split
  · exact loseValue_inCue (.refl s)
  · exact .refl s

theorem readOutput_keeps (s : State) (v : Value) : Keeps s (readOutput s v) := by
  unfold readOutput
  split
  · exact loseValue_keeps (.refl s)
  · exact .refl s

theorem atPublication_keeps (s : State) : Keeps s (atPublication s) :=
  .foldl _ _ (lateAtPublish_keeps s) fun u v h => h.trans (readOutput_keeps u v)

theorem foldl_readOutput_latch (l : List Value) (h : s.cur.latch = true) : (l.foldl readOutput s).cur.latch = true :=
  (InCue.foldl l readOutput (.refl s) fun u v h => h.trans (readOutput_inCue u v)).latch h

theorem lateAtPublish_idle (h : (lateAtPublish s).cur.latch = false) : lateAtPublish s = s := by
  unfold lateAtPublish at h ⊢
  split at h
  · rw [(goLate_detected 0x0111 0 idCurtain s).latch] at h
    cases h
  · next hl => exact if_neg hl

theorem readOutput_idle (hv : s.safetyOut v.play v.tensor = true) (h : (readOutput s v).cur.latch = false) : readOutput s v = s := by
  unfold readOutput at h ⊢
  split at h
  · rw [loseValue_safetyOut _ hv, (detect_detected _ _ s).latch] at h
    cases h
  · rfl

theorem foldl_readOutput_idle {l : List Value} (hl : ∀ v ∈ l, s.safetyOut v.play v.tensor = true)
    (h : (l.foldl readOutput s).cur.latch = false) : l.foldl readOutput s = s := by
  induction l with
  | nil => rfl
  | cons v l ih =>
    rw [List.foldl_cons] at h ⊢
    have first : readOutput s v = s := readOutput_idle (hl v List.mem_cons_self) (Bool.eq_false_iff.2 fun hr =>
      Bool.eq_false_iff.1 h (foldl_readOutput_latch l hr))
    rw [first] at h ⊢
    exact ih (fun x hx => hl x (List.mem_cons_of_mem v hx)) h

/-- Where the latch is clear at the judgement, neither a lateness nor a lost output came before it. -/
theorem atPublication_idle (h : (atPublication s).cur.latch = false) : atPublication s = s := by
  have late : lateAtPublish s = s := lateAtPublish_idle (Bool.eq_false_iff.2 fun hr =>
    Bool.eq_false_iff.1 h (foldl_readOutput_latch _ hr))
  rw [atPublication, late] at h ⊢
  refine foldl_readOutput_idle (fun v hv => ?_) h
  obtain ⟨-, hv'⟩ := List.mem_filter.1 hv
  simp only [Bool.and_eq_true] at hv'
  obtain ⟨⟨named, -⟩, -⟩ := hv'
  exact named

/-- A published cue, before the curtain. -/
def markPublished (valid : Bool) (s : State) : State :=
  { publish valid s with cue := { (publish valid s).cue with published := true, mark := 5 } }

/-- A cue that does not meet R323 is invalid. -/
def refuseInvalid (s : State) : State :=
  if s.cueValid then s else failPair (invalidate (if s.missing ≠ [] then 5 else 6) s)

theorem exec_publishDeadline (n : Nat) (s : State) : exec (.publishDeadline n) s =
    if !s.judged || s.cue.published || decide ((s.at n).off < us s.forme.sheet.publish) then .next (s.at n)
    else .next (if (atPublication (s.at n)).cueValid then
        runCurtain (markPublished (atPublication (s.at n)).cueValid (refuseInvalid (atPublication (s.at n))))
      else markPublished (atPublication (s.at n)).cueValid (refuseInvalid (atPublication (s.at n)))) := by
  show execPublishDeadline n s = _
  unfold execPublishDeadline
  extract_lets u r v
  have hv : atPublication u = v := rfl
  rw [show s.at n = u from rfl, hv]
  clear_value v
  rfl

theorem markPublished_keeps (valid : Bool) (s : State) : Keeps s (markPublished valid s) := (publish_keeps (.refl s)).rest

theorem markPublished_cur (valid : Bool) (s : State) : (markPublished valid s).cur = s.cur := publish_cur valid s

theorem refuseInvalid_keeps (s : State) : Keeps s (refuseInvalid s) := by
  unfold refuseInvalid
  exact .ite (.refl s) (failPair_keeps (invalidate_keeps (.refl s)))

/-- The curtain starts at a publication alone, of a cue that was valid before it and is valid at it. -/
theorem curtain_start {c : Instr} (e : exec c s = .next t) (off : s.cur.running = false) (on : t.cur.running = true) :
    ∃ n, c = .publishDeadline n ∧ (s.at n).cueValid = true ∧ t = runCurtain (markPublished true (s.at n)) := by
  by_cases hc : ∃ n, c = .publishDeadline n
  · obtain ⟨n, rfl⟩ := hc
    have rest {u : State} (h : Keeps (s.at n) u) : u.cur.running = false :=
      Bool.eq_false_iff.2 fun hu => Bool.eq_false_iff.1 off (h.start hu)
    rw [exec_publishDeadline] at e
    split at e
    · cases e
      exact absurd on (Bool.eq_false_iff.1 off)
    cases hv : (atPublication (s.at n)).cueValid with
    | false =>
      rw [hv, if_neg Bool.false_ne_true] at e
      cases e
      exact absurd on (Bool.eq_false_iff.1 (rest
        (((atPublication_keeps _).trans (refuseInvalid_keeps _)).trans (markPublished_keeps false _))))
    | true =>
      obtain ⟨-, clear, -⟩ := cueValid_parts hv
      have idle : atPublication (s.at n) = s.at n := atPublication_idle clear
      have whole : refuseInvalid (atPublication (s.at n)) = s.at n := (if_pos hv).trans idle
      rw [hv, if_pos rfl, whole] at e
      cases e
      exact ⟨n, rfl, idle ▸ hv, rfl⟩
  · exact absurd ((exec_next_keeps e fun n h => hc ⟨n, h⟩).start on) (Bool.eq_false_iff.1 off)

end CurtainStart

/-- Settles O4: a start is a publication's of a valid cue, and the latch, the test and the verdict are parts of that validity. -/
theorem curtainStartsOnlyAtValidPublication : Obligations.CurtainStartsOnlyAtValidPublication := by
  intro c s t e off on
  obtain ⟨n, rfl, hv, rfl⟩ := curtain_start e off on
  obtain ⟨hinvalid, hlatch, hstate, htest, hverdict⟩ := cueValid_parts hv
  have hcur : (markPublished true (s.at n)).cur = s.cur := markPublished_cur true (s.at n)
  obtain ⟨hosc, -⟩ := runCurtain_starts (hcur ▸ off) on
  rw [hcur] at hosc
  exact ⟨n, rfl, hv, hlatch, hosc, htest, hinvalid, hverdict, hstate⟩

/-! ### The curtain's waveform (R333) -/

theorem curtainWave_fst (c : Nat) : (curtainWave c).1 = true ↔ 1 ≤ c % 50 ∧ c % 50 ≤ 24 := decide_eq_true_iff

theorem curtainWave_snd (c : Nat) : (curtainWave c).2 = true ↔ 26 ≤ c % 50 ∧ c % 50 ≤ 49 := by
  rw [curtainWave, decide_eq_true_iff]
  omega

theorem curtainWave_period (c : Nat) : curtainWave (c + 50) = curtainWave c := by
  simp only [curtainWave, Nat.add_mod_right]

theorem curtainWave_not_both (c : Nat) : curtainWave c ≠ (true, true) := by
  intro h
  have ha := (curtainWave_fst c).1 (by rw [h])
  have hb := (curtainWave_snd c).1 (by rw [h])
  omega

/-- A high pin stays high, or both are low for one cycle and the other rises. -/
theorem curtainWave_step (c : Nat) (h : curtainWave c ≠ (false, false)) : curtainWave (c + 1) = curtainWave c ∨
    (curtainWave (c + 1) = (false, false) ∧ curtainWave (c + 2) = ((curtainWave c).2, (curtainWave c).1)) := by
  simp only [curtainWave, ne_eq, Prod.mk.injEq, decide_eq_false_iff_not, decide_eq_decide] at h ⊢
  omega

/-- Settles O59: the waveform by its place in the period, and the start that sets cycle 0 to the time of its publication. -/
theorem curtainWaveform : Obligations.CurtainWaveform := by
  refine ⟨fun c => ⟨curtainWave_period c, curtainWave_not_both c, curtainWave_fst c, curtainWave_snd c, curtainWave_step c⟩,
    fun s hp hr hrun => ?_, fun s hrun => ?_, fun c s t e off on => ?_⟩
  · simp [State.curtainPins, hp, hr, hrun]
  · simp [State.curtainPins, hrun]
  · obtain ⟨n, -, -, rfl⟩ := curtain_start e off on
    obtain ⟨-, cycle0⟩ := runCurtain_starts ((congrArg Curtain.running (markPublished_cur true (s.at n))).trans off) on
    exact cycle0

end Sys2Proof.Machine

namespace Sys2Proof.Machine

/-! ### The stop line and the verdict it leaves (R334, R349) -/

section StopLine

variable {s t w : State}

/-- What the stop line leaves in the curtain's registers, at a cue's number (R349). -/
def Curtain.stop (cause : Nat) (unit : Byte) (cue : Nat) (c : Curtain) : Curtain :=
  if c.running then { c with
    running := false, latch := true, runCues := 0, cause := BitVec.ofNat 8 cause, unit := unit, cls := if cause = 2 then 1 else 0
    rule := 0xFF#8, cueLow := BitVec.ofNat 32 cue, drops := (sat32 c.drops 1).1, dropOvf := c.dropOvf || (sat32 c.drops 1).2 }
  else { c with latch := true }

theorem curtainStop_cur (cause : Nat) (unit : Byte) (s : State) :
    (curtainStop cause unit s).cur = Curtain.stop cause unit s.cue.count.toNat s.cur := by
  unfold curtainStop Curtain.stop
  split <;> rfl

theorem detect_cur (cause : Nat) (unit : Byte) (s : State) :
    (detect cause unit s).cur = Curtain.stop cause unit s.cue.count.toNat s.cur := by
  obtain ⟨i, p, hcue⟩ := invalidate_cue cause s
  have kept : Apart (fun f => decide (f = .cue ∨ f = .sched)) s (invalidate cause s) := invalidate_apart rfl rfl (.refl _ s)
  rw [detect, curtainStop_cur, hcue, show (invalidate cause s).cur = s.cur from kept.same .cur rfl]

theorem Curtain.stop_verdict (cause : Nat) (unit : Byte) (cue : Nat) (c : Curtain) : (c.stop cause unit cue).verdict = c.verdict := by
  unfold Curtain.stop
  split <;> rfl

theorem Curtain.stop_complete (cause : Nat) (unit : Byte) (cue : Nat) (c : Curtain) : (c.stop cause unit cue).complete = c.complete := by
  unfold Curtain.stop
  split <;> rfl

theorem Curtain.stop_railFault (cause : Nat) (unit : Byte) (cue : Nat) (c : Curtain) :
    (c.stop cause unit cue).railFault = c.railFault := by
  unfold Curtain.stop
  split <;> rfl

theorem Curtain.stop_oscOut (cause : Nat) (unit : Byte) (cue : Nat) (c : Curtain) : (c.stop cause unit cue).oscOut = c.oscOut := by
  unfold Curtain.stop
  split <;> rfl

/-- What the comparator and the curtain logic have seen of the cue, and how far the comparison is, stand. -/
structure Observed (s t : State) : Prop where
  verdict : t.cur.verdict = s.cur.verdict
  complete : t.cur.complete = s.cur.complete
  rail : t.cur.railFault = s.cur.railFault
  compDone : t.cue.compDone = s.cue.compDone
  mark : t.cue.mark = s.cue.mark

theorem Observed.of_eq (hcur : t.cur = s.cur) (hcue : t.cue = s.cue) : Observed s t := by
  constructor <;> simp only [hcur, hcue]

theorem Observed.refl (s : State) : Observed s s := .of_eq rfl rfl

theorem Observed.trans (a : Observed s t) (b : Observed t w) : Observed s w :=
  ⟨b.verdict.trans a.verdict, b.complete.trans a.complete, b.rail.trans a.rail, b.compDone.trans a.compDone, b.mark.trans a.mark⟩

theorem detect_observed (cause : Nat) (unit : Byte) (s : State) : Observed s (detect cause unit s) := by
  obtain ⟨i, p, hcue⟩ := invalidate_cue cause s
  have hc : (detect cause unit s).cue = { s.cue with invalid := i, pubCause := p } := (curtainStop_cue _ _ _).trans hcue
  constructor
  · rw [detect_cur, Curtain.stop_verdict]
  · rw [detect_cur, Curtain.stop_complete]
  · rw [detect_cur, Curtain.stop_railFault]
  · rw [hc]
  · rw [hc]

theorem enterBare_observed (s : State) : Observed s (enterBare s) := by
  have hu : Observed s (endUpdate s) := by
    unfold endUpdate
    split <;> exact .of_eq rfl rfl
  have hw : Observed (endUpdate s) (stopWork (endUpdate s)) := ⟨rfl, rfl, rfl, rfl, rfl⟩
  have hst : Apart (fun f => decide (f = .dev ∨ f = .port)) (stopWork (endUpdate s)) (setState .safeHold (stopWork (endUpdate s))) :=
    setState_apart rfl rfl (.refl _ _)
  rw [enterBare_eq]
  exact (hu.trans hw).trans (.of_eq (hst.same .cur rfl) (hst.same .cue rfl))

theorem deviceFault_observed (cause : Nat) (unit : Byte) (s : State) : Observed s (deviceFault cause unit s) := by
  by_cases h : s.dev.st = .reset
  · rw [show deviceFault cause unit s = s from if_pos h]
    exact .refl s
  · have asserted : Observed s (assertFault cause unit (logEvent 0x0801 unit cause s)) := by
      unfold assertFault
      split <;> exact .of_eq rfl rfl
    have raised : Observed s (raiseFault cause unit s) := asserted.trans (detect_observed 0x13 unit _)
    rw [deviceFault_eq h]
    rcases bareNow_cases (raiseFault cause unit s) with e | ⟨e, -⟩ <;> rw [e]
    · exact raised.trans (enterBare_observed _)
    · exact raised

theorem countFaultCue_observed (cue : Nat) (s : State) : Observed s (countFaultCue cue s) := by
  unfold countFaultCue
  extract_lets old _ u
  have hu : Observed s u := ⟨rfl, rfl, rfl, rfl, rfl⟩
  split
  · exact .refl s
  · split
    · exact hu
    · exact hu.trans (deviceFault_observed _ _ u)

end StopLine
end Sys2Proof.Machine

namespace Sys2Proof.Machine

/-! ### Detections by the stage manager and the curtain logic (R322, R335, R336, R355) -/

section StageManager

variable {s : State} {n cause stop code count : Nat}

theorem State.awake_out (h : s.awake = true) : s.dev.st ≠ .reset := by
  simp only [State.awake, Bool.and_eq_true, decide_eq_true_eq] at h
  obtain ⟨-, out⟩ := h
  exact out

/-- What a fault of the stage manager does: its event, a detection, then a device-level fault. -/
def managerFault (code stop cause : Nat) (s : State) : State := deviceFault cause idStage (detect stop idStage (logEvent code idStage 0 s))

theorem managerFault_raises (h : s.dev.st ≠ .reset) : Detected s (managerFault code stop cause s) ∧
    Logs s (managerFault code stop cause s) code idStage 0 ∧ FaultRaised cause idStage s (managerFault code stop cause s) := by
  obtain ⟨_, first, -⟩ := logEvent_grows code idStage 0 s
  obtain ⟨_, second⟩ := (detect_inCue (a1 := stop) (a2 := idStage) (.refl (logEvent code idStage 0 s))).log
  have kept : (detect stop idStage (logEvent code idStage 0 s)).dev = s.dev :=
    (detect_apart (m := butDev) rfl rfl rfl rfl rfl (.refl _ (logEvent code idStage 0 s))).same .dev rfl
  have hf := deviceFault_raised (cause := cause) (unit := idStage) (s := detect stop idStage (logEvent code idStage 0 s)) (by rwa [kept])
  obtain ⟨_, third, -⟩ := id hf.log
  refine ⟨?_, ((logEvent_logs code idStage 0 s).later second).later third,
    hf.log.earlier (first.trans second), hf.faultN, hf.off, hf.latch, fun hs => hf.first (by rwa [kept])⟩
  exact ((detect_detected stop idStage (logEvent code idStage 0 s)).later (deviceFault_inCue (.refl _))
    (deviceFault_keeps (.refl _))).of_published rfl

theorem exec_stageManagerLockstepMismatch (n : Nat) (s : State) : exec (.stageManagerLockstepMismatch n) s =
    .next (if s.awake then managerFault 0x070D 8 1 (s.at n) else s.at n) := rfl

theorem exec_stageManagerWatchdogExpiry (n : Nat) (s : State) : exec (.stageManagerWatchdogExpiry n) s =
    .next (if s.awake then managerFault 0x0812 0x0E 2 (s.at n) else s.at n) := rfl

theorem exec_managerFault (h : s.awake = true) {c : Instr} (hc : (c = .stageManagerLockstepMismatch n ∧ code = 0x070D ∧ cause = 1) ∨
    (c = .stageManagerWatchdogExpiry n ∧ code = 0x0812 ∧ cause = 2)) :
    ∃ stop, exec c s = .next (managerFault code stop cause (s.at n)) := by
  rcases hc with ⟨rfl, rfl, rfl⟩ | ⟨rfl, rfl, rfl⟩
  · exact ⟨8, by rw [exec_stageManagerLockstepMismatch, if_pos h]⟩
  · exact ⟨0x0E, by rw [exec_stageManagerWatchdogExpiry, if_pos h]⟩

/-- The oscillator's count is out of range; the passing out of range is an event. -/
def oscillatorOut (s : State) : State :=
  if s.cur.oscOut then detect 0x0F idCurtain s
  else detect 0x0F idCurtain (logEvent 0x070F idCurtain 0 { s with cur := { s.cur with oscOut := true } })

theorem exec_oscillatorMonitorCount (n count : Nat) (s : State) : exec (.oscillatorMonitorCount n count) s =
    .next (if !s.awake then s.at n
      else if 920 ≤ count ∧ count ≤ 1080 then { s.at n with cur := { s.cur with oscOut := false } }
      else oscillatorOut (s.at n)) := rfl

theorem exec_oscillatorMonitorCount_out (h : s.awake = true) (hc : ¬(920 ≤ count ∧ count ≤ 1080)) :
    exec (.oscillatorMonitorCount n count) s = .next (oscillatorOut (s.at n)) := by
  rw [exec_oscillatorMonitorCount, h, if_neg (by decide), if_neg hc]

theorem exec_oscillatorMonitorCount_in (h : s.awake = true) (low : 920 ≤ count) (high : count ≤ 1080) :
    exec (.oscillatorMonitorCount n count) s = .next { s.at n with cur := { s.cur with oscOut := false } } := by
  rw [exec_oscillatorMonitorCount, h, if_neg (by decide), if_pos ⟨low, high⟩]

theorem detect_oscOut (c : Nat) (u : Byte) (s : State) : (detect c u s).cur.oscOut = s.cur.oscOut := by
  rw [detect_cur]
  exact Curtain.stop_oscOut ..

theorem oscillatorOut_detects (s : State) : Detected s (oscillatorOut s) ∧ (oscillatorOut s).cur.oscOut = true ∧
    (s.cur.oscOut = false → Logs s (oscillatorOut s) 0x070F idCurtain 0) := by
  unfold oscillatorOut
  split
  · next h => exact ⟨detect_detected _ _ s, (detect_oscOut _ _ s).trans h, fun hf => absurd h (Bool.eq_false_iff.1 hf)⟩
  · generalize hw : { s with cur := { s.cur with oscOut := true } } = w
    have hosc : (logEvent 0x070F idCurtain 0 w).cur.oscOut = true := by rw [← hw]; rfl
    have hlog : w.log = s.log := by rw [← hw]
    have hpub : w.cue.published = s.cue.published := by rw [← hw]
    obtain ⟨_, grows⟩ := (detect_inCue (a1 := 0x0F) (a2 := idCurtain) (.refl (logEvent 0x070F idCurtain 0 w))).log
    exact ⟨(detect_detected _ _ (logEvent 0x070F idCurtain 0 w)).of_published hpub, (detect_oscOut _ _ _).trans hosc,
      fun _ => ((logEvent_logs 0x070F idCurtain 0 w).earlier (.same hlog)).later grows⟩

theorem exec_curtainWatchdogExpiry (n : Nat) (s : State) : exec (.curtainWatchdogExpiry n) s =
    .next (if s.cue.running && decide (s.cur.lastPulse + 408 * s.forme.period + us 2 ≤ (s.at n).now) then
      detect 0x0F idCurtain (s.at n) else s.at n) := rfl

theorem exec_curtainWatchdogExpiry_due (hr : s.cue.running = true)
    (hd : s.cur.lastPulse + 408 * s.forme.period + us 2 ≤ (s.at n).now) :
    exec (.curtainWatchdogExpiry n) s = .next (detect 0x0F idCurtain (s.at n)) := by
  rw [exec_curtainWatchdogExpiry, hr, decide_eq_true hd, if_pos (by decide)]

theorem exec_curtainWatchdogExpiry_idle (h : s.cue.running = false ∨ (s.at n).now < s.cur.lastPulse + 408 * s.forme.period + us 2) :
    exec (.curtainWatchdogExpiry n) s = .next (s.at n) := by
  rw [exec_curtainWatchdogExpiry, if_neg]
  rcases h with h | h
  · simp [h]
  · simp only [Bool.and_eq_true, decide_eq_true_eq, not_and, not_le]
    exact fun _ => h

/-- Asleep, neither the stage manager's checks nor the oscillator's monitor acts. -/
theorem exec_asleep (h : s.awake = false) {c : Instr}
    (hc : c = .stageManagerLockstepMismatch n ∨ c = .stageManagerWatchdogExpiry n ∨ c = .oscillatorMonitorCount n count) :
    exec c s = .next (s.at n) := by
  rcases hc with rfl | rfl | rfl
  · rw [exec_stageManagerLockstepMismatch, h, if_neg Bool.false_ne_true]
  · rw [exec_stageManagerWatchdogExpiry, h, if_neg Bool.false_ne_true]
  · rw [exec_oscillatorMonitorCount, h, if_pos (by decide)]

end StageManager

/-- Settles O34: the stage manager's faults are detections that also raise a device-level fault, the other two are detections alone. -/
theorem detectionsStopCurtain : Obligations.DetectionsStopCurtain := by
  intro n count s
  refine ⟨fun h c code cause hc => ?_, fun h hc => ⟨_, exec_oscillatorMonitorCount_out h hc, oscillatorOut_detects (s.at n)⟩,
    exec_oscillatorMonitorCount_in, fun hr hd => ⟨_, exec_curtainWatchdogExpiry_due hr hd, detect_detected _ _ (s.at n)⟩,
    exec_curtainWatchdogExpiry_idle, fun h c => exec_asleep h⟩
  obtain ⟨stop, e⟩ := exec_managerFault h hc
  obtain ⟨detected, logged, raised⟩ := managerFault_raises (s := s.at n) (code := code) (stop := stop) (cause := cause) (State.awake_out h)
  refine ⟨_, e, detected, logged, raised.log, raised.faultN, fun hf => ?_⟩
  obtain ⟨hcause, hunit, -⟩ := raised.first hf
  exact ⟨hcause, hunit⟩

end Sys2Proof.Machine

namespace Sys2Proof.Machine

/-! ### COMPARATOR_VERDICT (R329, R331, R332, R340, R474) -/

/-- Every field but the classifications. -/
def butCls : Field → Bool := fun f => decide (f ≠ .cls)

section Verdict

variable {s : State} {n k : Nat} {f x : Option VerdictFault}

/-- The pair's (1,1) is seen, and ends a comparison under way. -/
def pairSeen (s : State) : State :=
  logEvent 0x0704 idCurtain 0 (railSeen { endCompare s with cur := { (endCompare s).cur with verdict := .fault } })

/-- The cue-complete pair's (1,1) is seen. -/
def completeSeen (s : State) : State := logEvent 0x0704 idStage 2 (railSeen { s with cur := { s.cur with complete := .fault } })

/-- A comparison under way ends without a failing rule. -/
def agree (s : State) : State := { endCompare s with cur := { (endCompare s).cur with verdict := .good } }

/-- What a verdict does, by its fault. -/
def takeVerdict (s : State) : Option VerdictFault → State
  | some .pair => countFaultCue s.cue.count.toNat (detect 3 idCurtain (pairSeen s))
  | some .complete => detect 0x14 idStage (completeSeen s)
  | some .input => if s.comparing then detect 0x10 idCurtain (endCompare s) else s
  | none =>
    if s.comparing then
      (firstFailing s s.cue.count.toNat false).elim (agree s) (mismatch · (endCompare s))
    else s

/-- The fault of a verdict: the one it reports, or the operand that it finds poisoned. -/
def State.verdictFault (s : State) (f : Option VerdictFault) : Option VerdictFault :=
  f.or (if s.comparing && operandLost s s.cue.count.toNat false then some .input else none)

theorem endCompare_count (s : State) : (endCompare s).cue.count = s.cue.count := by
  unfold endCompare
  split <;> rfl

theorem endCompare_cur (s : State) : (endCompare s).cur = s.cur := by
  unfold endCompare
  split <;> rfl

theorem exec_comparatorVerdict (n : Nat) (f : Option VerdictFault) (s : State) : exec (.comparatorVerdict n f) s =
    .next (if s.cue.running then takeVerdict (s.at n) ((s.at n).verdictFault f) else s.at n) := by
  show execComparatorVerdict n f s = _
  unfold execComparatorVerdict
  extract_lets u
  rw [show s.at n = u from rfl, show s.cue.running = u.cue.running from rfl]
  clear_value u
  cases u.cue.running
  · rfl
  simp only [Bool.not_true, Bool.false_eq_true, if_false, if_true]
  split
  case h_1 h =>
    rw [show u.verdictFault f = _ from h, takeVerdict, ← endCompare_count u]
    rfl
  case h_2 h => rw [show u.verdictFault f = _ from h]; rfl
  case h_3 h => rw [show u.verdictFault f = _ from h]; rfl
  case h_4 h =>
    rw [show u.verdictFault f = _ from h, takeVerdict]
    cases u.comparing
    · rfl
    · simp only [Bool.not_true, Bool.false_eq_true, if_false, if_true]
      split
      next hk => rw [hk]; rfl
      next k hk => rw [hk]; rfl

theorem State.verdictFault_some (s : State) (x : VerdictFault) : s.verdictFault (some x) = some x := rfl

theorem State.verdictFault_idle (h : s.comparing = false) (f : Option VerdictFault) : s.verdictFault f = f := by
  rw [State.verdictFault, h, Bool.false_and, if_neg Bool.false_ne_true, Option.or_none]

theorem State.verdictFault_found (h : operandLost s s.cue.count.toNat false = false) : s.verdictFault none = none := by
  rw [State.verdictFault, h, Bool.and_false]
  rfl

theorem State.verdictFault_lost (hc : s.comparing = true) (h : operandLost s s.cue.count.toNat false = true) :
    s.verdictFault none = some .input := by
  rw [State.verdictFault, hc, h]
  rfl

theorem exec_comparatorVerdict_running (hr : s.cue.running = true) (h : (s.at n).verdictFault f = x) :
    exec (.comparatorVerdict n f) s = .next (takeVerdict (s.at n) x) := by
  rw [exec_comparatorVerdict, if_pos hr, h]

theorem exec_comparatorVerdict_noCue (hr : s.cue.running = false) (f : Option VerdictFault) :
    exec (.comparatorVerdict n f) s = .next (s.at n) := by
  rw [exec_comparatorVerdict, if_neg (Bool.eq_false_iff.1 hr)]

/-- Without a comparison, neither an agreement nor an input's fault does anything. -/
theorem exec_comparatorVerdict_idle (hr : s.cue.running = true) (hc : s.comparing = false) (hf : f = none ∨ f = some .input) :
    exec (.comparatorVerdict n f) s = .next (s.at n) := by
  have hc' : (s.at n).comparing = false := hc
  rw [exec_comparatorVerdict_running hr (State.verdictFault_idle hc' f)]
  rcases hf with rfl | rfl <;> rw [takeVerdict, if_neg (Bool.eq_false_iff.1 hc')]

theorem endCompare_comparing (h : s.comparing = true) : endCompare s = { s with cue := { s.cue with compDone := true, mark := 4 } } :=
  if_pos h

theorem endCompare_compDone (s : State) : (endCompare s).cue.compDone = (s.cue.compDone || s.comparing) := by
  unfold endCompare
  split
  · next h => rw [h, Bool.or_true]
  · next h => rw [Bool.eq_false_iff.2 h, Bool.or_false]

theorem endCompare_published (s : State) : (endCompare s).cue.published = s.cue.published := by
  unfold endCompare
  split <;> rfl

/-! ### A failing rule -/

/-- The rule's failure is seen. -/
def ruleSeen (k : Nat) (s : State) : State := logEvent 0x0703 idCurtain k { s with cur := { s.cur with verdict := .bad } }

/-- The curtain that it stopped shows the rule (R349). -/
def showRule (was : Bool) (k : Nat) (s : State) : State := if was then { s with cur := { s.cur with rule := BitVec.ofNat 8 k } } else s

theorem mismatch_eq (k : Nat) (s : State) :
    mismatch k s = startClass k (showRule s.cur.running k (detect 2 idCurtain (ruleSeen k s))) := rfl

@[simp] theorem showRule_cue (was : Bool) (k : Nat) (s : State) : (showRule was k s).cue = s.cue := by
  cases was <;> rfl

@[simp] theorem showRule_cls (was : Bool) (k : Nat) (s : State) : (showRule was k s).cls = s.cls := by
  cases was <;> rfl

@[simp] theorem showRule_log (was : Bool) (k : Nat) (s : State) : (showRule was k s).log = s.log := by
  cases was <;> rfl

@[simp] theorem showRule_cur (was : Bool) (k : Nat) (s : State) :
    (showRule was k s).cur = { s.cur with rule := if was then BitVec.ofNat 8 k else s.cur.rule } := by
  cases was <;> rfl

theorem startClass_cls (k : Nat) (s : State) : (startClass k s).cls.length = s.cls.length + 1 := by
  unfold startClass
  extract_lets m c
  split
  · rw [logEvent_cls, List.length_append, List.length_singleton]
  · next h =>
    have kept : Apart butCls { s with cls := [c] } ((s.forme.plays.filter fun p => p.kind ≤ 1).foldl (fun s p => formRun p m true s)
        { s with cls := [c] }) := .foldl _ _ (.refl _ _) fun _ _ h => formRun_apart rfl h
    rw [show _ = [c] from kept.same .cls rfl, not_not.1 h]
    rfl

theorem startClass_frame (k : Nat) (s : State) : Apart (fun f => decide (f = .log ∨ f = .cls ∨ f = .sched)) s (startClass k s) :=
  startClass_apart rfl rfl rfl (.refl _ s)

theorem startClass_cue (k : Nat) (s : State) : (startClass k s).cue = s.cue := (startClass_frame k s).same .cue rfl

theorem startClass_cur (k : Nat) (s : State) : (startClass k s).cur = s.cur := (startClass_frame k s).same .cur rfl

theorem curtainStop_logs (cause : Nat) (unit : Byte) (h : s.cur.running = true) :
    Logs s (curtainStop cause unit s) 0x0701 idCurtain cause := by
  rw [curtainStop, if_pos h]
  exact logEvent_logs 0x0701 idCurtain cause { s with cur := _ }

theorem detect_logs (cause : Nat) (unit : Byte) (h : s.cur.running = true) : Logs s (detect cause unit s) 0x0701 idCurtain cause := by
  have kept : Apart (fun f => decide (f = .cue ∨ f = .sched)) s (invalidate cause s) := invalidate_apart rfl rfl (.refl _ s)
  have hcur : (invalidate cause s).cur = s.cur := kept.same .cur rfl
  exact (curtainStop_logs cause unit (by rwa [hcur])).earlier (.same (kept.same .log rfl))

/-- The curtain's registers once a rule has failed. -/
def Curtain.mismatched (k cue : Nat) (c : Curtain) : Curtain :=
  { Curtain.stop 2 idCurtain cue { c with verdict := .bad } with
    rule := if c.running then BitVec.ofNat 8 k else (Curtain.stop 2 idCurtain cue { c with verdict := .bad }).rule }

theorem mismatch_cur (k : Nat) (s : State) : (mismatch k s).cur = s.cur.mismatched k s.cue.count.toNat := by
  rw [mismatch_eq, startClass_cur, showRule_cur, detect_cur]
  rfl

theorem Curtain.mismatched_spec (k cue : Nat) (c : Curtain) : (c.mismatched k cue).verdict = .bad ∧
    (c.mismatched k cue).latch = true ∧ (c.mismatched k cue).running = false ∧
    (c.running = true → (c.mismatched k cue).cause = 2 ∧ (c.mismatched k cue).cls = 1 ∧ (c.mismatched k cue).rule = BitVec.ofNat 8 k) ∧
    (c.running = false → (c.mismatched k cue).cause = c.cause ∧ (c.mismatched k cue).rule = c.rule) := by
  cases h : c.running <;> simp [Curtain.mismatched, Curtain.stop, h]

theorem mismatch_cue (k : Nat) (s : State) : (mismatch k s).cue.compDone = s.cue.compDone ∧ (mismatch k s).cue.mark = s.cue.mark := by
  have seen := detect_observed 2 idCurtain (ruleSeen k s)
  rw [mismatch_eq, startClass_cue, showRule_cue]
  exact ⟨seen.compDone, seen.mark⟩

theorem detect_cls (cause : Nat) (unit : Byte) (s : State) : (detect cause unit s).cls = s.cls :=
  (detect_apart (m := butCls) rfl rfl rfl rfl rfl (.refl _ s)).same .cls rfl

theorem mismatch_cls (k : Nat) (s : State) : (mismatch k s).cls.length = s.cls.length + 1 := by
  rw [mismatch_eq, startClass_cls, showRule_cls, detect_cls]
  rfl

theorem mismatch_logs (k : Nat) (s : State) : Logs s (mismatch k s) 0x0703 idCurtain k ∧
    (s.cur.running = true → Logs s (mismatch k s) 0x0701 idCurtain 2) := by
  have seen : Logs s (ruleSeen k s) 0x0703 idCurtain k := logEvent_logs 0x0703 idCurtain k { s with cur := { s.cur with verdict := .bad } }
  obtain ⟨_, first, -⟩ := id seen
  have stop : InCue (ruleSeen k s) (detect 2 idCurtain (ruleSeen k s)) := detect_inCue (.refl _)
  obtain ⟨_, second⟩ := stop.log
  have shown := LogGrows.same (showRule_log s.cur.running k (detect 2 idCurtain (ruleSeen k s)))
  obtain ⟨_, third⟩ := (startClass_inCue (a1 := k) (.refl (showRule s.cur.running k (detect 2 idCurtain (ruleSeen k s))))).log
  have rest := shown.trans third
  rw [mismatch_eq]
  exact ⟨(seen.later second).later rest, fun hr => ((detect_logs 2 idCurtain (s := ruleSeen k s) hr).earlier first).later rest⟩

/-! ### The three outcomes of a comparison, and the two codes out of place -/

section Comparison

variable (hr : s.cue.running = true) (hc : s.comparing = true)
include hr hc

theorem exec_comparatorVerdict_agrees (ho : operandLost s s.cue.count.toNat false = false)
    (hk : firstFailing s s.cue.count.toNat false = none) : exec (.comparatorVerdict n none) s =
      .next { s.at n with cue := { s.cue with compDone := true, mark := 4 }, cur := { s.cur with verdict := .good } } := by
  have hk' : firstFailing (s.at n) (s.at n).cue.count.toNat false = none := hk
  rw [exec_comparatorVerdict_running hr (State.verdictFault_found ho), takeVerdict, if_pos (show (s.at n).comparing = true from hc), hk',
    Option.elim_none, agree, endCompare_comparing (s := s.at n) hc]
  rfl

theorem exec_comparatorVerdict_fails (ho : operandLost s s.cue.count.toNat false = false)
    (hk : firstFailing s s.cue.count.toNat false = some k) :
    exec (.comparatorVerdict n none) s = .next (mismatch k (endCompare (s.at n))) := by
  have hk' : firstFailing (s.at n) (s.at n).cue.count.toNat false = some k := hk
  rw [exec_comparatorVerdict_running hr (State.verdictFault_found ho), takeVerdict, if_pos (show (s.at n).comparing = true from hc), hk',
    Option.elim_some]

theorem exec_comparatorVerdict_input (hf : f = some .input ∨ (f = none ∧ operandLost s s.cue.count.toNat false = true)) :
    exec (.comparatorVerdict n f) s = .next (detect 0x10 idCurtain (endCompare (s.at n))) := by
  have hx : (s.at n).verdictFault f = some .input := by
    rcases hf with rfl | ⟨rfl, ho⟩
    · rfl
    · exact State.verdictFault_lost hc ho
  rw [exec_comparatorVerdict_running hr hx, takeVerdict, if_pos (show (s.at n).comparing = true from hc)]

theorem completes_comparatorVerdict_fails (ho : operandLost s s.cue.count.toNat false = false)
    (hk : firstFailing s s.cue.count.toNat false = some k) : Completes (.comparatorVerdict n none) s fun t =>
      t.cue.compDone = true ∧ t.cue.mark = 4 ∧ t.cur.verdict = .bad ∧ Stopped t ∧ Logs s t 0x0703 idCurtain k ∧
      (s.cur.running = true → t.cur.cause = 2 ∧ t.cur.cls = 1 ∧ t.cur.rule = BitVec.ofNat 8 k ∧ Logs s t 0x0701 idCurtain 2) ∧
      (s.cur.running = false → t.cur.cause = s.cur.cause ∧ t.cur.rule = s.cur.rule) ∧ t.cls.length = s.cls.length + 1 := by
  have ended := endCompare_comparing (s := s.at n) hc
  refine ⟨_, exec_comparatorVerdict_fails hr hc ho hk, ?_⟩
  rw [ended]
  generalize hu : { s.at n with cue := { (s.at n).cue with compDone := true, mark := 4 } } = u
  have hcur : u.cur = s.cur := by rw [← hu]; rfl
  have hcls : u.cls = s.cls := by rw [← hu]; rfl
  have hlog : LogGrows s u [] := .same (by rw [← hu]; rfl)
  have hcue : u.cue.compDone = true ∧ u.cue.mark = 4 := by rw [← hu]; exact ⟨rfl, rfl⟩
  obtain ⟨hdone, hmark⟩ := hcue
  obtain ⟨done, mark⟩ := mismatch_cue k u
  obtain ⟨ruled, stopped⟩ := mismatch_logs k u
  obtain ⟨verdict, latch, off, shown, kept⟩ := Curtain.mismatched_spec k u.cue.count.toNat u.cur
  rw [← mismatch_cur] at verdict latch off shown kept
  rw [hcur] at shown kept stopped
  refine ⟨done.trans hdone, mark.trans hmark, verdict, ⟨latch, off⟩, ruled.earlier hlog, fun h => ?_, kept, hcls ▸ mismatch_cls k u⟩
  obtain ⟨cause, cls, rule⟩ := shown h
  exact ⟨cause, cls, rule, (stopped h).earlier hlog⟩

theorem completes_comparatorVerdict_input (hf : f = some .input ∨ (f = none ∧ operandLost s s.cue.count.toNat false = true)) :
    Completes (.comparatorVerdict n f) s fun t =>
      t.cue.compDone = true ∧ Stopped t ∧ t.cls = s.cls ∧ (s.cue.published = false → t.cue.invalid = true) := by
  have ended := endCompare_comparing (s := s.at n) hc
  refine ⟨_, exec_comparatorVerdict_input hr hc hf, ?_⟩
  obtain ⟨stopped, invalid⟩ := detect_detected 0x10 idCurtain (endCompare (s.at n))
  refine ⟨(detect_observed _ _ _).compDone.trans (by rw [ended]), stopped, (detect_cls _ _ _).trans (by rw [ended]; rfl),
    fun h => invalid ((endCompare_published _).trans h)⟩

end Comparison

theorem pairSeen_spec (s : State) : (pairSeen s).cue = (endCompare s).cue ∧ (pairSeen s).cur.verdict = .fault ∧
    (pairSeen s).cur.railFault = true ∧ Logs s (pairSeen s) 0x0704 idCurtain 0 := by
  have hlog : (endCompare s).log = s.log := by
    unfold endCompare
    split <;> rfl
  refine ⟨rfl, rfl, rfl, ?_⟩
  exact (logEvent_logs 0x0704 idCurtain 0 (railSeen { endCompare s with cur := { (endCompare s).cur with verdict := .fault } })).earlier
    (.same hlog)

theorem completes_comparatorVerdict_pair (hr : s.cue.running = true) : Completes (.comparatorVerdict n (some .pair)) s fun t =>
    t.cue.compDone = (s.cue.compDone || s.comparing) ∧ t.cur.verdict = .fault ∧ t.cur.railFault = true ∧ Detected s t ∧
      Logs s t 0x0704 idCurtain 0 := by
  refine ⟨_, exec_comparatorVerdict_running hr (State.verdictFault_some _ _), ?_⟩
  obtain ⟨hcue, hverdict, hrail, hlogs⟩ := pairSeen_spec (s.at n)
  rw [takeVerdict]
  generalize pairSeen (s.at n) = u at hcue hverdict hrail hlogs
  have stop : InCue u (detect 3 idCurtain u) := detect_inCue (.refl _)
  have count : InCue (detect 3 idCurtain u) (countFaultCue (s.at n).cue.count.toNat (detect 3 idCurtain u)) := countFaultCue_inCue (.refl _)
  have kept := (detect_observed 3 idCurtain u).trans (countFaultCue_observed (s.at n).cue.count.toNat _)
  obtain ⟨_, grows⟩ := (stop.trans count).log
  have published : u.cue.published = s.cue.published := (congrArg Cue.published hcue).trans (endCompare_published (s.at n))
  exact ⟨kept.compDone.trans ((congrArg Cue.compDone hcue).trans (endCompare_compDone (s.at n))), kept.verdict.trans hverdict,
    kept.rail.trans hrail, ((detect_detected 3 idCurtain u).later count (countFaultCue_keeps (.refl _))).of_published published,
    hlogs.later grows⟩

theorem completes_comparatorVerdict_complete (hr : s.cue.running = true) : Completes (.comparatorVerdict n (some .complete)) s fun t =>
    t.cur.complete = .fault ∧ t.cur.railFault = true ∧ Detected s t ∧ Logs s t 0x0704 idStage 2 := by
  refine ⟨_, exec_comparatorVerdict_running hr (State.verdictFault_some _ _), ?_⟩
  have seen : (completeSeen (s.at n)).cur.complete = .fault ∧ (completeSeen (s.at n)).cur.railFault = true ∧
      (completeSeen (s.at n)).cue = s.cue := ⟨rfl, rfl, rfl⟩
  have logged : Logs s (completeSeen (s.at n)) 0x0704 idStage 2 :=
    logEvent_logs 0x0704 idStage 2 (railSeen { s.at n with cur := { s.cur with complete := .fault } })
  rw [takeVerdict]
  generalize completeSeen (s.at n) = u at seen logged
  obtain ⟨hcomplete, hrail, hcue⟩ := seen
  have kept := detect_observed 0x14 idStage u
  obtain ⟨_, grows⟩ := (detect_inCue (a1 := 0x14) (a2 := idStage) (.refl u)).log
  exact ⟨kept.complete.trans hcomplete, kept.rail.trans hrail, (detect_detected 0x14 idStage u).of_published (congrArg Cue.published hcue),
    logged.later grows⟩

end Verdict
end Sys2Proof.Machine

namespace Sys2Proof.Machine

/-! ### Classifications and runs that end (R294, R343, R359) -/

section NoneNew

variable {s t w : State} {cue : Nat}

/-- No mismatch is newly classified, and no run newly formed. -/
structure NoneNew (s t : State) : Prop where
  cls : t.cls ⊆ s.cls
  keys : t.sched.insts.map Inst.key ⊆ s.sched.insts.map Inst.key

theorem NoneNew.of_eq (hc : t.cls = s.cls) (hi : t.sched.insts = s.sched.insts) : NoneNew s t := by
  constructor
  · rw [hc]
    exact List.Subset.refl _
  · rw [hi]
    exact List.Subset.refl _

theorem NoneNew.refl (s : State) : NoneNew s s := .of_eq rfl rfl

theorem NoneNew.trans (a : NoneNew s t) (b : NoneNew t w) : NoneNew s w := ⟨List.Subset.trans b.cls a.cls, List.Subset.trans b.keys a.keys⟩

theorem NoneNew.foldl {α : Type} (l : List α) (f : State → α → State) (h : NoneNew s t) (hf : ∀ w a, NoneNew w (f w a)) :
    NoneNew s (l.foldl f t) :=
  List.foldlRecOn l f (motive := fun w => NoneNew s w) h fun w hw a _ => hw.trans (hf w a)

/-- Every field but the classifications and the schedule. -/
def butClsSched : Field → Bool := fun f => decide (f ≠ .cls ∧ f ≠ .sched)

theorem NoneNew.apart (h : Apart butClsSched s t) : NoneNew s t :=
  .of_eq (h.same .cls rfl) (congrArg Sched.insts (h.same .sched rfl))

theorem lmod_keys {f : Inst → Inst} (hf : ∀ x, (f x).key = x.key) (p : Inst → Bool) (l : List Inst) :
    (lmod p f l).map Inst.key = l.map Inst.key := by
  rw [lmod, List.map_map]
  refine List.map_congr_left fun x _ => ?_
  dsimp only [Function.comp]
  split
  · exact hf x
  · rfl

theorem abandonInst_keys (cause : Nat) (i : Inst) (s : State) :
    (abandonInst cause i s).sched.insts.map Inst.key = s.sched.insts.map Inst.key :=
  lmod_keys (f := fun i => { i with st := .abandoned, units := [] }) (fun _ => rfl) _ _

theorem killInst_noneNew (cause : Nat) (k : InstKey) (s : State) : NoneNew s (killInst cause k s) := by
  have hc : (killInst cause k s).cls = s.cls :=
    (killInst_apart (m := butCls) rfl rfl rfl rfl rfl rfl rfl rfl (.refl _ s)).same .cls rfl
  have keys : (killInst cause k s).sched.insts.map Inst.key = s.sched.insts.map Inst.key := by
    rcases killInst_cases cause k s with e | ⟨i, -, -, e⟩ <;> rw [e]
    obtain ⟨x, hx⟩ := endRun_insts cause i s
    have ended : (endRun cause i s).sched.insts.map Inst.key = s.sched.insts.map Inst.key := by
      rw [hx]
      exact lmod_keys (f := Inst.killed x) (fun _ => rfl) _ _
    split
    · exact (abandonInst_keys 14 i _).trans ended
    · exact ended
  exact ⟨hc ▸ List.Subset.refl _, keys ▸ List.Subset.refl _⟩

theorem killWhere_noneNew (cause : Nat) (p : Inst → Bool) (s : State) : NoneNew s (killWhere cause p s) :=
  .foldl _ _ (.refl s) fun w k => killInst_noneNew cause k w

theorem stopRun_noneNew (i : Inst) (s : State) : NoneNew s (stopRun i s) := by
  have buried : NoneNew (dropRequests i.presses s) (buryBufs i (dropRequests i.presses s)) := by
    obtain ⟨d, hd⟩ := buryBufs_sched i (dropRequests i.presses s)
    exact .of_eq ((buryBufs_apart (m := butCls) rfl (.refl _ _)).same .cls rfl) (by rw [hd])
  have flushed := unmapBufs_apart (m := butClsSched) (a1 := i) rfl (.foldl i.presses (fun s p => flushPress p s)
    (.refl _ (buryBufs i (dropRequests i.presses s))) fun _ _ h => flushPress_apart rfl rfl h)
  exact ((NoneNew.apart (dropRequests_apart rfl rfl (.refl _ s))).trans buried).trans (.apart flushed)

/-- The classification's entry and its repeats leave. -/
def dropClass (cue : Nat) (s : State) : State := { s with
  cls := s.cls.filter fun c => c.cue != cue
  sched := { s.sched with insts := s.sched.insts.filter fun i => !(i.key.rep && decide (i.key.run = cue)) } }

theorem endClass_eq (cue : Nat) (s : State) : endClass cue s = dropClass cue
    ((s.sched.insts.filter fun i => i.key.rep && decide (i.key.run = cue) && decide (i.st = .running)).foldl (fun s i => stopRun i s) s) := rfl

theorem endClass_noneNew (cue : Nat) (s : State) : NoneNew s (endClass cue s) := by
  rw [endClass_eq]
  refine NoneNew.trans (.foldl _ _ (.refl s) fun w i => stopRun_noneNew i w) ⟨List.filter_subset_self _, ?_⟩
  exact List.map_subset _ (List.filter_subset_self _)

theorem classifyStruck_noneNew (u : UnitId) (cues : List Nat) (s : State) : NoneNew s (classifyStruck u cues s) :=
  .foldl _ _ (.refl s) fun w n => (NoneNew.apart (setClass_apart rfl (logEvent_apart rfl (.refl _ w)))).trans (endClass_noneNew n _)

theorem strikeKills_noneNew (u : UnitId) (s : State) : NoneNew s (strikeKills u s) := by
  cases u with
  | press p => exact (killWhere_noneNew ..).trans (classifyStruck_noneNew ..)
  | core k => exact (killWhere_noneNew ..).trans (classifyStruck_noneNew ..)
  | sector n => exact killWhere_noneNew ..
  | stack n => exact killWhere_noneNew ..
  | _ => exact .refl s

theorem failAttempt_noneNew (u : UnitId) (detail : Nat) (s : State) : NoneNew s (failAttempt u detail s) := by
  rw [failAttempt_eq]
  split <;> exact .of_eq rfl rfl

theorem strike_noneNew (cause : Nat) (u : UnitId) (s : State) : NoneNew s (strike cause u s) := by
  cases h : s.inServ u
  · rcases strike_of_out (cause := cause) h with e | ⟨-, d, e⟩ <;> rw [e]
    · exact .refl s
    · exact failAttempt_noneNew u d s
  · rw [strike_of_inServ h]
    refine NoneNew.trans (t := retireAtEight u (takeOut cause u s)) ?_ (strikeKills_noneNew u _)
    unfold retireAtEight
    split <;> exact .of_eq rfl rfl

theorem countTransient_noneNew (u : UnitId) (s : State) : NoneNew s (countTransient u s) := by
  unfold countTransient
  extract_lets c w
  split
  · exact NoneNew.trans (t := w) (.of_eq rfl rfl) (strike_noneNew 11 u w)
  · exact .of_eq rfl rfl

/-- Nothing is left of a classification: neither its entry nor a repeat of its cue. -/
structure ClassGone (cue : Nat) (s : State) : Prop where
  cls : ∀ x ∈ s.cls, x.cue ≠ cue
  insts : ∀ i ∈ s.sched.insts, ¬(i.key.rep = true ∧ i.key.run = cue)

theorem ClassGone.later (h : ClassGone cue s) (a : NoneNew s t) : ClassGone cue t := by
  refine ⟨fun x hx => h.cls x (a.cls hx), fun i hi => ?_⟩
  obtain ⟨j, hj, hk⟩ := List.mem_map.1 (a.keys (List.mem_map_of_mem hi))
  exact hk ▸ h.insts j hj

theorem endClass_gone (cue : Nat) (s : State) : ClassGone cue (endClass cue s) := by
  rw [endClass_eq]
  constructor
  · intro x hx
    simpa using (List.mem_filter.1 hx).2
  · rintro i hi ⟨hr, hk⟩
    simpa [hr, hk] using (List.mem_filter.1 hi).2

end NoneNew

/-! ### CLASSIFICATION_REPEAT_VERDICT (R341, R342) -/

section RepeatVerdict

variable {s : State} {n k : Nat} {c : Classif} {f : Option VerdictFault}

/-- The repeats of a mismatch's cue. -/
def State.repeatsOf (s : State) (c : Classif) : List Inst := s.sched.insts.filter fun i => i.key.rep && decide (i.key.run = c.cue)

/-- The run that a repeat repeats. -/
def State.original (s : State) (i : Inst) : Option Inst := s.inst? { i.key with rep := false }

/-- The first repeat of a kind of play, in scene order, whose digest is not its original's. -/
def State.diverged (s : State) (c : Classif) (kind : Nat) : Option Inst :=
  (sortBy (fun (i : Inst) => i.key.scene) ((s.repeatsOf c).filter fun i => decide (i.kind = kind))).find? fun i =>
    match s.original i with
    | some o => o.dScene != i.dScene
    | none => false

/-- Where the digests place a transient: event 0x0706's detail, the class, and the unit. -/
def State.transientPlace (s : State) (c : Classif) : Nat × Nat × Option UnitId :=
  match s.diverged c 0, s.diverged c 1 with
  | some i, none => (1, 2, (s.original i).bind fun o => o.units.head?)
  | none, some i => (2, 3, (s.original i).bind fun o => o.units.head?)
  | _, _ => (0, 4, none)

theorem State.transientPlace_detail (s : State) (c : Classif) : (s.transientPlace c).1 ≤ 2 := by
  unfold State.transientPlace
  split <;> simp

/-- The transient is logged and shown, and the classification ends. -/
def closeAgreed (c : Classif) (place : Nat × Nat × Option UnitId) (s : State) : State :=
  endClass c.cue (setClass c.cue place.2.1 (logEvent 0x0706 ((place.2.2.map unitId).getD idCurtain) place.1 s))

/-- The repeats agree, so that the mismatch was a transient; of a unit it is counted. -/
def endAgreed (c : Classif) (s : State) : State :=
  match (s.transientPlace c).2.2 with
  | some v => countTransient v (closeAgreed c (s.transientPlace c) s)
  | none => closeAgreed c (s.transientPlace c) s

/-- The repeats fail as well: the next proof pass takes the classification with the rule. -/
def goToProof (c : Classif) (k : Nat) (s : State) : State :=
  { s with cls := lmod (fun x => x.cue = c.cue) (fun x => { x with proofStep := true, rule2 := k }) s.cls }

/-- A repeat's pair is faulty. -/
def repeatPairFault (s : State) : State := countFaultCue s.cue.count.toNat (logEvent 0x0704 idCurtain 0 (railSeen s))

/-- The fault of a repeat's verdict: the one it reports, or the operand that it finds poisoned. -/
def State.repeatFault (s : State) (c : Classif) (f : Option VerdictFault) : Option VerdictFault :=
  f.or (if operandLost s c.cue true then some .input else none)

theorem exec_classificationRepeatVerdict_waits (hc : s.cls.find? (fun c => !c.proofStep) = some c)
    (h : s.repeatsOf c = [] ∨ ∃ i ∈ s.repeatsOf c, i.st ≠ .committed) (f : Option VerdictFault) :
    exec (.classificationRepeatVerdict n f) s = .next (s.at n) := by
  show execClassificationRepeatVerdict n f s = _
  unfold execClassificationRepeatVerdict
  extract_lets u
  have hc' : u.cls.find? (fun c => !c.proofStep) = some c := hc
  rw [hc']
  refine if_pos (h.imp id fun ⟨i, hi, hst⟩ => ?_)
  exact List.any_eq_true.2 ⟨i, hi, decide_eq_true hst⟩

/-- What a verdict on committed repeats does, by its fault. -/
def takeRepeatVerdict (c : Classif) (s : State) : Option VerdictFault → State
  | some .pair => repeatPairFault s
  | some .input => s
  | some .complete => s
  | none => (firstFailing s c.cue true).elim (endAgreed c s) (goToProof c · s)

theorem exec_classificationRepeatVerdict (hc : s.cls.find? (fun c => !c.proofStep) = some c) (hne : s.repeatsOf c ≠ [])
    (hall : ∀ i ∈ s.repeatsOf c, i.st = .committed) (f : Option VerdictFault) :
    exec (.classificationRepeatVerdict n f) s = .next (takeRepeatVerdict c (s.at n) ((s.at n).repeatFault c f)) := by
  have done : ¬((s.at n).repeatsOf c = [] ∨ (((s.at n).repeatsOf c).any fun i => decide (i.st ≠ .committed)) = true) := by
    rintro (h | h)
    · exact hne h
    · obtain ⟨i, hi, hst⟩ := List.any_eq_true.1 h
      exact of_decide_eq_true hst (hall i hi)
  have hc' : (s.at n).cls.find? (fun c => !c.proofStep) = some c := hc
  show execClassificationRepeatVerdict n f s = _
  unfold execClassificationRepeatVerdict
  generalize s.at n = u at done hc'
  extract_lets v
  rw [show v = u from rfl, hc']
  refine (if_neg done).trans ?_
  split
  next h => rw [show u.repeatFault c f = _ from h]; rfl
  next y hy h =>
    rw [show u.repeatFault c f = _ from h]
    cases y with
    | pair => exact absurd rfl hy
    | input => rfl
    | complete => rfl
  next h =>
    rw [show u.repeatFault c f = _ from h, takeRepeatVerdict]
    split
    next k hk => rw [hk]; rfl
    next hk => rw [hk]; rfl

theorem State.repeatFault_found (h : operandLost s c.cue true = false) : s.repeatFault c none = none := by
  rw [State.repeatFault, h]
  rfl

theorem State.repeatFault_lost (h : operandLost s c.cue true = true) : s.repeatFault c none = some .input := by
  rw [State.repeatFault, h]
  rfl

theorem closeAgreed_inCue (c : Classif) (place : Nat × Nat × Option UnitId) (s : State) : InCue s (closeAgreed c place s) :=
  endClass_inCue (setClass_inCue (logEvent_inCue (.refl s)))

theorem closeAgreed_logs (c : Classif) (place : Nat × Nat × Option UnitId) (s : State) :
    Logs s (closeAgreed c place s) 0x0706 ((place.2.2.map unitId).getD idCurtain) place.1 := by
  have rest : InCue (logEvent 0x0706 ((place.2.2.map unitId).getD idCurtain) place.1 s) (closeAgreed c place s) :=
    endClass_inCue (setClass_inCue (.refl _))
  obtain ⟨_, grows⟩ := rest.log
  exact (logEvent_logs _ _ _ s).later grows

/-- Agreeing repeats end the classification with event 0x0706, and nothing of it comes back with the count. -/
theorem endAgreed_spec (c : Classif) (s : State) : ClassGone c.cue (endAgreed c s) ∧ ∃ u d, Logs s (endAgreed c s) 0x0706 u d ∧ d ≤ 2 := by
  have gone : ClassGone c.cue (closeAgreed c (s.transientPlace c) s) := endClass_gone _ _
  have logged := closeAgreed_logs c (s.transientPlace c) s
  unfold endAgreed
  split
  next v _ =>
    obtain ⟨_, grows⟩ := (countTransient_inCue (a1 := v) (.refl (closeAgreed c (s.transientPlace c) s))).log
    exact ⟨gone.later (countTransient_noneNew v _), _, _, logged.later grows, s.transientPlace_detail c⟩
  · exact ⟨gone, _, _, logged, s.transientPlace_detail c⟩

theorem repeatPairFault_spec (s : State) : (repeatPairFault s).cur.railFault = true ∧ Logs s (repeatPairFault s) 0x0704 idCurtain 0 ∧
    (repeatPairFault s).cls = s.cls := by
  have rail : (logEvent 0x0704 idCurtain 0 (railSeen s)).cur.railFault = true := rfl
  have logged : Logs s (logEvent 0x0704 idCurtain 0 (railSeen s)) 0x0704 idCurtain 0 := logEvent_logs 0x0704 idCurtain 0 (railSeen s)
  have cls : (logEvent 0x0704 idCurtain 0 (railSeen s)).cls = s.cls := rfl
  unfold repeatPairFault
  generalize logEvent 0x0704 idCurtain 0 (railSeen s) = u at rail logged cls
  obtain ⟨_, grows⟩ := (countFaultCue_inCue (a1 := s.cue.count.toNat) (.refl u)).log
  have kept : Apart butCls u (countFaultCue s.cue.count.toNat u) := countFaultCue_apart rfl rfl rfl rfl rfl rfl rfl (.refl _ u)
  exact ⟨(countFaultCue_observed _ u).rail.trans rail, logged.later grows, (kept.same .cls rfl).trans cls⟩

section Committed

variable (hc : s.cls.find? (fun c => !c.proofStep) = some c) (hne : s.repeatsOf c ≠ []) (hall : ∀ i ∈ s.repeatsOf c, i.st = .committed)
include hc hne hall

theorem completes_repeatVerdict_agrees (ho : operandLost s c.cue true = false) (hk : firstFailing (s.at n) c.cue true = none) :
    Completes (.classificationRepeatVerdict n none) s fun t => (∀ x ∈ t.cls, x.cue ≠ c.cue) ∧
      (∀ i ∈ t.sched.insts, ¬(i.key.rep = true ∧ i.key.run = c.cue)) ∧ ∃ u d, Logs s t 0x0706 u d ∧ d ≤ 2 := by
  obtain ⟨gone, logged⟩ := endAgreed_spec c (s.at n)
  refine ⟨endAgreed c (s.at n), ?_, gone.cls, gone.insts, logged⟩
  rw [exec_classificationRepeatVerdict hc hne hall, State.repeatFault_found (s := s.at n) ho, takeRepeatVerdict, hk, Option.elim_none]

theorem exec_repeatVerdict_fails (ho : operandLost s c.cue true = false) (hk : firstFailing (s.at n) c.cue true = some k) :
    exec (.classificationRepeatVerdict n none) s = .next (goToProof c k (s.at n)) := by
  rw [exec_classificationRepeatVerdict hc hne hall, State.repeatFault_found (s := s.at n) ho, takeRepeatVerdict, hk, Option.elim_some]

theorem completes_repeatVerdict_pair : Completes (.classificationRepeatVerdict n (some .pair)) s fun t =>
    t.cur.railFault = true ∧ Logs s t 0x0704 idCurtain 0 ∧ t.cls = s.cls :=
  ⟨_, exec_classificationRepeatVerdict hc hne hall _, repeatPairFault_spec (s.at n)⟩

/-- An input's fault, a code of the other pair or a lost operand leaves the mismatch unresolved. -/
theorem exec_repeatVerdict_unresolved (hf : f = some .input ∨ f = some .complete ∨ (f = none ∧ operandLost s c.cue true = true)) :
    exec (.classificationRepeatVerdict n f) s = .next (s.at n) := by
  rw [exec_classificationRepeatVerdict hc hne hall]
  rcases hf with rfl | rfl | ⟨rfl, ho⟩
  · rfl
  · rfl
  · rw [State.repeatFault_lost (s := s.at n) ho]
    rfl

end Committed

end RepeatVerdict

/-- Settles O21: a comparison ends in an agreement, a failing rule or a fault of its inputs, a code out of place counts in every running
cue, and the repeats, once all are committed, end the classification, hand it on or leave it. -/
theorem verdictsOfComparator : Obligations.VerdictsOfComparator := by
  refine ⟨fun n s hr hs hd hl => ?_, fun n s => ⟨fun hr => ?_, exec_comparatorVerdict_noCue⟩, fun n c reps s hc hreps => ?_⟩
  · have comparing : s.comparing = true := by simp [State.comparing, hs, hd, hl]
    exact ⟨exec_comparatorVerdict_agrees hr comparing, fun k => completes_comparatorVerdict_fails hr comparing,
      fun f => completes_comparatorVerdict_input hr comparing⟩
  · exact ⟨completes_comparatorVerdict_pair hr, completes_comparatorVerdict_complete hr,
      fun idle f hf => exec_comparatorVerdict_idle hr idle hf⟩
  · obtain rfl : reps = s.repeatsOf c := hreps
    exact ⟨fun hne hall => ⟨completes_repeatVerdict_agrees hc hne hall, fun k => exec_repeatVerdict_fails hc hne hall,
      completes_repeatVerdict_pair hc hne hall, fun f => exec_repeatVerdict_unresolved hc hne hall⟩,
      fun h f => exec_classificationRepeatVerdict_waits hc h f⟩

end Sys2Proof.Machine

namespace Sys2Proof.Machine

/-! ### Group resets: UNIT_GROUP_RESET and RE_RIG_WAIT_EXPIRY (R360, R362, R456) -/

section GroupResets

variable {s : State} {n : Nat} {u v : UnitId} {p q : Fin 16}

theorem resetGroup_units (u : UnitId) (s : State) :
    (resetGroup u s).units = (s.modUnit u fun r => { r with wasReset := true }).units := by
  cases u <;> rfl

theorem resetGroup_unit (u : UnitId) (s : State) : (resetGroup u s).unit u = { s.unit u with wasReset := true } :=
  (State.unit_congr (resetGroup_units u s) u).trans (State.unit_modUnit_self u _ s)

theorem resetGroup_unit_ne (h : v ≠ u) (s : State) : (resetGroup u s).unit v = s.unit v :=
  (State.unit_congr (resetGroup_units u s) v).trans (State.unit_modUnit_ne h _ s)

theorem resetGroup_cells (u : UnitId) (s : State) : (resetGroup u s).mem.cells = s.mem.cells := by
  cases u <;> rfl

/-- Presses and stacks alone hold trackers, and their reset frees them. -/
theorem resetGroup_holds (u : UnitId) (s : State) : (resetGroup u s).holds u = match u with
    | .press _ => false
    | .stack _ => false
    | _ => s.holds u := by
  cases u with
  | press p => simp [State.holds, resetGroup]
  | stack k => simp [State.holds, resetGroup]
  | _ => rfl

theorem resetGroup_press (p : Fin 16) (s : State) : (resetGroup (.press p) s).press.get p = (s.press.get p).cleared :=
  (vmod_get s.press p p Press.cleared).trans (if_pos rfl)

theorem resetGroup_press_ne (h : u ≠ .press q) (s : State) : (resetGroup u s).press.get q = s.press.get q := by
  cases u with
  | press p => exact (vmod_get s.press p q Press.cleared).trans (if_neg fun e => h (congrArg UnitId.press e))
  | _ => rfl

theorem resetGroup_split (p : Fin 16) (s : State) : (resetGroup (.press p) s).mem.split.get p = 8192 :=
  (vmod_get s.mem.split p p fun _ => 8192).trans (if_pos rfl)

theorem resetGroup_tcache (p : Fin 16) (s : State) : ∀ e ∈ (resetGroup (.press p) s).mem.tcache, e.1 ≠ p := fun _ he =>
  bne_iff_ne.1 (List.mem_filter.1 he).2

theorem exec_unitGroupReset (hm : (s.unit u).mode = .struck ∨ (s.unit u).mode = .retired) (hr : (s.unit u).wasReset = false)
    (ha : (s.unit u).attempts = 0) (hh : s.holds u = false ∨ (s.unit u).struckAt + us 45 ≤ (s.at n).now) :
    exec (.unitGroupReset n u) s = .next (resetGroup u (s.at n)) := by
  refine congrArg Host.Outcome.next (if_pos ?_)
  simp only [Bool.and_eq_true, Bool.or_eq_true, Bool.not_eq_true', decide_eq_true_eq]
  exact ⟨⟨⟨hm, hr⟩, ha⟩, hh⟩

theorem exec_unitGroupReset_none (h : ((s.unit u).mode ≠ .struck ∧ (s.unit u).mode ≠ .retired) ∨ (s.unit u).wasReset = true ∨
    (s.unit u).attempts ≠ 0 ∨ (s.holds u = true ∧ (s.at n).now < (s.unit u).struckAt + us 45)) :
    exec (.unitGroupReset n u) s = .next (s.at n) := by
  refine congrArg Host.Outcome.next (if_neg ?_)
  simp only [Bool.and_eq_true, Bool.or_eq_true, Bool.not_eq_true', decide_eq_true_eq]
  rintro ⟨⟨⟨hm, hr⟩, ha⟩, hh⟩
  rcases h with ⟨hs, hret⟩ | hr' | ha' | ⟨hh', hlt⟩
  · exact hm.elim hs hret
  · exact Bool.false_ne_true (hr.symm.trans hr')
  · exact ha' ha
  · exact hh.elim (fun e => Bool.false_ne_true (e.symm.trans hh')) (Nat.not_le.2 hlt)

theorem exec_reRigWaitExpiry (hm : (s.unit u).mode = .struck) (ha : (s.unit u).attempts ≠ 0)
    (hw : (s.unit u).waitFrom + 1000 ≤ s.cue.count.toNat) : exec (.reRigWaitExpiry n u) s = .next (resetGroup u (s.at n)) :=
  congrArg Host.Outcome.next (if_pos ⟨hm, ha, hw⟩)

theorem exec_reRigWaitExpiry_none (h : (s.unit u).mode ≠ .struck ∨ (s.unit u).attempts = 0 ∨
    s.cue.count.toNat < (s.unit u).waitFrom + 1000) : exec (.reRigWaitExpiry n u) s = .next (s.at n) := by
  refine congrArg Host.Outcome.next (if_neg ?_)
  rintro ⟨hm, ha, hw⟩
  rcases h with h | h | h
  · exact h hm
  · exact ha h
  · exact Nat.not_le.2 h hw

end GroupResets

/-- Settles O23: where its condition holds either command resets the unit's group, and otherwise it changes nothing. -/
theorem groupResets : Obligations.GroupResets := by
  refine ⟨fun n u s c h => ?_, fun n u s => ⟨exec_unitGroupReset_none, exec_reRigWaitExpiry_none⟩⟩
  have reset : exec c s = .next (resetGroup u (s.at n)) := by
    rcases h with ⟨rfl, hm, hr, ha, hh⟩ | ⟨rfl, hm, ha, hw⟩
    · exact exec_unitGroupReset hm hr ha hh
    · exact exec_reRigWaitExpiry hm ha hw
  refine ⟨_, reset, resetGroup_unit u _, fun v hv => resetGroup_unit_ne hv _, resetGroup_cells u _, resetGroup_holds u _, ?_,
    fun q hq => resetGroup_press_ne hq _⟩
  rintro p rfl
  exact ⟨resetGroup_press p _, resetGroup_split p _, resetGroup_tcache p _⟩

end Sys2Proof.Machine

namespace Sys2Proof.Machine

/-! ### Re-rig attempts and their checks (R362, R363, R365, R376) -/

section ReRigs

variable {s : State} {n detail : Nat} {u : UnitId} {check : RigCheck} {ok : Bool} {p : Fin 20}

/-- A re-rig attempt begins, with event 0x0803. -/
def beginRig (u : UnitId) (s : State) : State :=
  logEvent 0x0803 (unitId u) ((s.unit u).attempts.toNat + 1)
    (s.modUnit u fun r => { r with mode := .reRigging, checks := rigChecks u, placed := false })

theorem exec_reRigAttempt (hm : (s.unit u).mode = .struck) (hr : (s.unit u).wasReset = true) (hf : s.dev.faultN = false) :
    exec (.reRigAttempt n u) s = .next (beginRig u (s.at n)) := by
  refine congrArg Host.Outcome.next (if_pos ?_)
  simp only [Bool.and_eq_true, Bool.not_eq_true', decide_eq_true_eq]
  exact ⟨⟨hm, hr⟩, hf⟩

theorem exec_reRigAttempt_none (h : (s.unit u).mode ≠ .struck ∨ (s.unit u).wasReset = false ∨ s.dev.faultN = true) :
    exec (.reRigAttempt n u) s = .next (s.at n) := by
  refine congrArg Host.Outcome.next (if_neg ?_)
  simp only [Bool.and_eq_true, Bool.not_eq_true', decide_eq_true_eq]
  rintro ⟨⟨hm, hr⟩, hf⟩
  rcases h with h | h | h
  · exact h hm
  · exact Bool.false_ne_true (h.symm.trans hr)
  · exact Bool.false_ne_true (hf.symm.trans h)

/-- Checks that other commands settle: a sector's proof check and a port's samples (R363). -/
def settledElsewhere (u : UnitId) (check : RigCheck) : Bool :=
  match u, check with
  | .sector _, .proof => true
  | .port _, .third => true
  | _, _ => false

theorem settledElsewhere_iff : settledElsewhere u check = true ↔
    (∃ p, u = .port p ∧ check = .third) ∨ ∃ m, u = .sector m ∧ check = .proof := by
  cases u <;> cases check <;> simp [settledElsewhere]

theorem settledElsewhere_eq_false (hp : ∀ p, u = .port p → check ≠ .third) (hs : ∀ m, u = .sector m → check ≠ .proof) :
    settledElsewhere u check = false := by
  refine Bool.eq_false_iff.2 fun h => ?_
  rcases settledElsewhere_iff.1 h with ⟨p, hu, hc⟩ | ⟨m, hu, hc⟩
  · exact hp p hu hc
  · exact hs m hu hc

theorem exec_reRigCheckResult (hm : (s.unit u).mode = .reRigging) (hc : (s.unit u).checks.head? = some check)
    (he : settledElsewhere u check = false) : exec (.reRigCheckResult n u check ok) s =
      .next (if ok then passCheck u (s.at n) else failAttempt u (rigDetail check) (s.at n)) :=
  congrArg Host.Outcome.next (if_pos ⟨hm, hc, he⟩)

theorem exec_reRigCheckResult_elsewhere (he : settledElsewhere u check = true) :
    exec (.reRigCheckResult n u check ok) s = .next (s.at n) :=
  congrArg Host.Outcome.next (if_neg fun ⟨_, _, own⟩ => Bool.false_ne_true (Eq.trans own.symm he))

theorem exec_reRigCheckResult_notAtHand (h : (s.unit u).mode ≠ .reRigging ∨ (s.unit u).checks.head? ≠ some check) :
    exec (.reRigCheckResult n u check ok) s = .next (s.at n) :=
  congrArg Host.Outcome.next (if_neg fun ⟨hm, hc, _⟩ => h.elim (· hm) (· hc))

theorem exec_portRerigSampleTimeout (hm : (s.unit (.port p)).mode = .reRigging)
    (hc : (s.unit (.port p)).checks.head? = some .third) (hl : (s.at n).sampleLate p = true) :
    exec (.portRerigSampleTimeout n p) s = .next (failAttempt (.port p) 2 (s.at n)) :=
  congrArg Host.Outcome.next (if_pos ⟨hm, hc, hl⟩)

theorem exec_portRerigSampleTimeout_inTime (hl : (s.at n).sampleLate p = false) :
    exec (.portRerigSampleTimeout n p) s = .next (s.at n) :=
  congrArg Host.Outcome.next (if_neg fun ⟨_, _, late⟩ => Bool.false_ne_true (hl.symm.trans late))

theorem exec_portRerigSampleTimeout_notAtHand
    (h : (s.unit (.port p)).mode ≠ .reRigging ∨ (s.unit (.port p)).checks.head? ≠ some .third) :
    exec (.portRerigSampleTimeout n p) s = .next (s.at n) :=
  congrArg Host.Outcome.next (if_neg fun ⟨hm, hc, _⟩ => h.elim (· hm) (· hc))

theorem checkDone_frame (u : UnitId) (s : State) : (checkDone u s).forme = s.forme ∧ (checkDone u s).log = s.log := by
  unfold checkDone
  split <;> exact ⟨rfl, rfl⟩

theorem checkDone_declares (u : UnitId) (p : Fin 20) (s : State) : (checkDone u s).declares p = s.declares p := by
  rw [State.declares, (checkDone_frame u s).1, State.declares]

theorem checkDone_checks (u : UnitId) (s : State) : ((checkDone u s).unit u).checks = (s.unit u).checks.drop 1 := by
  rw [checkDone_unit]
  split <;> rfl

theorem checkDone_mode (u : UnitId) (s : State) : ((checkDone u s).unit u).mode = (s.unit u).mode := by
  rw [checkDone_unit]
  split <;> rfl

theorem spareThird_declared (hd : ∀ p, u = .port p → s.declares p = true) : spareThird u s = s := by
  cases u with
  | port p => exact if_pos (hd p rfl)
  | _ => rfl

theorem spareThird_undeclared (hd : s.declares p = false) : ((spareThird (.port p) s).unit (.port p)).checks = [] := by
  rw [show spareThird (.port p) s = s.modUnit (.port p) fun r => { r with checks := [] } from
    if_neg (Bool.eq_false_iff.1 hd), State.unit_modUnit_self]

theorem spareThird_log (u : UnitId) (s : State) : (spareThird u s).log = s.log := by
  unfold spareThird
  split
  · split <;> rfl
  · rfl

theorem modPortStreams_log (p : Fin 20) (f : StreamRt → StreamRt) (s : State) : (modPortStreams p f s).log = s.log := by
  rw [modPortStreams]

theorem beginThird_log (u : UnitId) (s : State) : (beginThird u s).log = s.log := by
  unfold beginThird
  split
  · split
    · exact modPortStreams_log ..
    · rfl
  · rfl

theorem placeRig_last (h : (s.unit u).checks = []) :
    ((placeRig u s).unit u).placed = true ∧ Newest (placeRig u s) 0x0804 (unitId u) 0 := by
  rw [placeRig, if_pos h]
  refine ⟨?_, (logEvent_newest 0x0804 (unitId u) 0 s).same_log rfl⟩
  rw [State.unit_modUnit_self]

theorem placeRig_more (h : (s.unit u).checks ≠ []) : placeRig u s = s := if_neg h

theorem passCheck_mode (u : UnitId) (s : State) : ((passCheck u s).unit u).mode = (s.unit u).mode := by
  obtain ⟨_, _, e, -⟩ := passCheck_unit u s
  rw [e]
  exact checkDone_mode u s

theorem passCheck_checks (u : UnitId) (s : State) :
    ((passCheck u s).unit u).checks = ((spareThird u (checkDone u s)).unit u).checks := by
  obtain ⟨_, e⟩ := placeRig_unit u (beginThird u (spareThird u (checkDone u s)))
  rw [passCheck_eq, e, beginThird_unit]

theorem passCheck_checks_declared (hd : ∀ p, u = .port p → s.declares p = true) :
    ((passCheck u s).unit u).checks = (s.unit u).checks.drop 1 := by
  rw [passCheck_checks, spareThird_declared fun p hp => (checkDone_declares u p s).trans (hd p hp), checkDone_checks]

theorem passCheck_checks_undeclared (hd : s.declares p = false) : ((passCheck (.port p) s).unit (.port p)).checks = [] := by
  rw [passCheck_checks, spareThird_undeclared ((checkDone_declares _ p s).trans hd)]

/-- The last passed check places the re-rig. -/
theorem passCheck_last (h : ((passCheck u s).unit u).checks = []) :
    ((passCheck u s).unit u).placed = true ∧ Newest (passCheck u s) 0x0804 (unitId u) 0 := by
  rw [passCheck_checks, ← beginThird_unit u] at h
  exact placeRig_last h

theorem passCheck_more (h : ((passCheck u s).unit u).checks ≠ []) : (passCheck u s).log = s.log := by
  rw [passCheck_checks, ← beginThird_unit u] at h
  rw [passCheck_eq, placeRig_more h, beginThird_log, spareThird_log, (checkDone_frame u s).2]

theorem failAttempt_newest (h : 4 ≤ (s.unit u).attempts.toNat + 1) : Newest (failAttempt u detail s) 0x0806 (unitId u) 0 := by
  rw [failAttempt_eq, if_pos h]
  exact logEvent_newest 0x0806 (unitId u) 0 _

/-- What a failed attempt leaves (R362, R376). -/
theorem failAttempt_spec (u : UnitId) (detail : Nat) (s : State) : Logs s (failAttempt u detail s) 0x0805 (unitId u) detail ∧
    ((failAttempt u detail s).unit u).attempts = BitVec.ofNat 3 ((s.unit u).attempts.toNat + 1) ∧
    ((failAttempt u detail s).unit u).mode = (if 4 ≤ (s.unit u).attempts.toNat + 1 then .retired else .struck) ∧
    ((failAttempt u detail s).unit u).waitFrom = s.cue.count.toNat ∧
    (4 ≤ (s.unit u).attempts.toNat + 1 → Newest (failAttempt u detail s) 0x0806 (unitId u) 0) ∧
    ∀ v, v ≠ u → (failAttempt u detail s).unit v = s.unit v := by
  rw [failAttempt_unit]
  exact ⟨failAttempt_logs u detail s, rfl, rfl, rfl, failAttempt_newest, fun v hv => failAttempt_unit_ne hv detail s⟩

end ReRigs

/-- Settles O24: an attempt begins, a check at hand passes or fails it, and any other report changes nothing. -/
theorem reRigAttemptsAndChecks : Obligations.ReRigAttemptsAndChecks := by
  refine ⟨fun n u s => ⟨fun hm hr hf => ?_, exec_reRigAttempt_none⟩, fun n u check rest s hm hc => ?_,
    fun n u check ok s h => exec_reRigCheckResult_elsewhere (settledElsewhere_iff.2 h),
    fun n p s => exec_portRerigSampleTimeout_inTime, fun n u check ok s h => ⟨exec_reRigCheckResult_notAtHand h, ?_⟩⟩
  · exact ⟨_, exec_reRigAttempt hm hr hf, State.unit_modUnit_self u _ _, fun v hv => State.unit_modUnit_ne hv _ _,
      logEvent_newest 0x0803 (unitId u) _ _⟩
  · have hhead : (s.unit u).checks.head? = some check := by rw [hc, List.head?_cons]
    refine ⟨fun hp hs => ?_, ?_, fun c detail h => ?_⟩
    · have hrest : ((passCheck u (s.at n)).unit u).checks = rest :=
        (passCheck_checks_declared (s := s.at n) fun p hu => (hp p hu).1).trans (congrArg (List.drop 1) hc)
      refine ⟨_, exec_reRigCheckResult (ok := true) hm hhead (settledElsewhere_eq_false (fun p hu => (hp p hu).2) hs),
        (passCheck_mode u _).trans hm, hrest, ?_, fun h => passCheck_last (hrest.trans h), fun h => passCheck_more (hrest.trans_ne h)⟩
      rintro rfl
      obtain ⟨age, -, -⟩ := passCheck_rehearsal (s := s.at n) hhead
      exact age
    · rintro p rfl hd hne
      have hnone : ((passCheck (.port p) (s.at n)).unit (.port p)).checks = [] := passCheck_checks_undeclared hd
      exact ⟨_, exec_reRigCheckResult (ok := true) hm hhead (settledElsewhere_eq_false (fun _ _ => hne) fun _ hu => nomatch hu),
        (passCheck_mode _ _).trans hm, hnone, passCheck_last hnone⟩
    · have fails : exec c s = .next (failAttempt u detail (s.at n)) := by
        rcases h with ⟨rfl, rfl, hp, hs⟩ | ⟨p, rfl, rfl, hl, rfl, rfl⟩
        · exact exec_reRigCheckResult (ok := false) hm hhead (settledElsewhere_eq_false hp hs)
        · exact exec_portRerigSampleTimeout hm hhead hl
      exact ⟨_, fails, failAttempt_spec u detail (s.at n)⟩
  · rintro p rfl rfl
    exact exec_portRerigSampleTimeout_notAtHand h

end Sys2Proof.Machine

namespace Sys2Proof.Machine

/-! ### The frame of every command -/

/-- Settles O7: `exec_next_apart` says it of every command. -/
theorem commandsChangeOnlyTheirFields : Obligations.CommandsChangeOnlyTheirFields :=
  fun _ _ _ _ h hf => exec_next_apart h hf

end Sys2Proof.Machine

namespace Sys2Proof.Machine

/-! ### The device reset (R455, R456, R466) -/

section DeviceReset

variable {s : State} {n : Nat}

/-- A device reset, with the pins and the test port as its cause leaves them. -/
def resetWith (c : Chip) (s : State) : State := { deviceReset s with chip := c }

/-- What a reset clears of the chip. -/
def Chip.cleared (c : Chip) : Chip := { c with pllLost := [], ufsRst := true, tap := .idcode, tdo := [], scan := [] }

theorem resetWith_resetTo {u : State} (hid : u.ident = s.ident) (hufs : u.ufs = s.ufs) (hcap : u.ufsCap = s.ufsCap) (c : Chip) :
    ResetTo s (resetWith c u) := by
  refine ⟨fun f hf => ?_, fun f hf => ?_, rfl⟩
  · cases f with
    | free | ident | fuses | chip | tb | ufs | ufsCap => simp at hf
    | _ => rfl
  · cases f with
    | ident => exact hid
    | ufs => exact hufs
    | ufsCap => exact hcap
    | _ => simp at hf

/-! ### POWER_ON, POWER_LOSS, RESET_N_ASSERT, RESET_N_DEASSERT (R404, R406, R446, R455, R459, R466) -/

theorem exec_powerOn (h : s.chip.powered = false) : exec (.powerOn n) s =
    .next (resetWith { s.chip.cleared with powered := true, resetN := true, railsOut := [] } (s.at n)) :=
  congrArg Host.Outcome.next (if_neg (Bool.eq_false_iff.1 h))

theorem exec_powerOn_powered (h : s.chip.powered = true) : exec (.powerOn n) s = .next (s.at n) :=
  congrArg Host.Outcome.next (if_pos h)

/-- A loss of power cuts each burn under way, and none goes on (R404). -/
def cutBurns (s : State) : State :=
  { s with fuses := { s.fuses.burns.foldl (fun f b => burnCut s.free b f) s.fuses with burns := [] }, free := s.free + 64 }

theorem cutBurns_none (h : s.fuses.burns = []) : (cutBurns s).fuses = s.fuses := by
  rw [cutBurns, h, List.foldl_nil, ← h]

theorem exec_powerLoss (h : s.chip.powered = true) : exec (.powerLoss n) s =
    .next (resetWith { s.chip.cleared with powered := false, resetN := true, ufsRefclk := false }
      (cutBurns (s.at n))) :=
  congrArg Host.Outcome.next (if_pos h)

theorem exec_powerLoss_unpowered (h : s.chip.powered = false) : exec (.powerLoss n) s = .next (s.at n) :=
  congrArg Host.Outcome.next (if_neg (Bool.eq_false_iff.1 h))

theorem exec_resetNAssert (h : s.chip.powered = true) : exec (.resetNAssert n) s =
    .next (resetWith { s.chip.cleared with resetN := true } (s.at n)) :=
  congrArg Host.Outcome.next (if_pos h)

theorem exec_resetNAssert_unpowered (h : s.chip.powered = false) : exec (.resetNAssert n) s = .next (s.at n) :=
  congrArg Host.Outcome.next (if_neg (Bool.eq_false_iff.1 h))

theorem exec_resetNDeassert (hp : s.chip.powered = true) (hr : s.chip.resetN = true) : exec (.resetNDeassert n) s =
    .next { s.at n with chip := { s.chip with resetN := false, ufsRst := false } } :=
  congrArg Host.Outcome.next (if_pos (by simp [hp, hr]))

theorem exec_resetNDeassert_none (h : s.chip.powered = false ∨ s.chip.resetN = false) :
    exec (.resetNDeassert n) s = .next (s.at n) :=
  congrArg Host.Outcome.next (if_neg (by rcases h with h | h <;> simp [h]))

end DeviceReset

/-- Settles O8: the three resets leave the part as `ResetTo` says, each with pins of its own, and the burns that a loss of power cuts only ever blow. -/
theorem powerAndResetPins : Obligations.PowerAndResetPins := by
  refine ⟨fun n s => ⟨fun h => ?_, fun h => ?_, fun h => ?_, exec_powerOn_powered, fun h => ⟨exec_powerLoss_unpowered h, exec_resetNAssert_unpowered h⟩⟩,
    fun n s => ⟨exec_resetNDeassert, exec_resetNDeassert_none⟩⟩
  · exact ⟨_, exec_powerOn h, resetWith_resetTo rfl rfl rfl _, rfl, rfl, rfl, rfl, rfl⟩
  · have e := exec_powerLoss (n := n) h
    have blown := (exec_next_holds e).fuses
    exact ⟨_, e, resetWith_resetTo (s := s) (u := cutBurns (s.at n)) rfl rfl rfl _, rfl, rfl, rfl, rfl, cutBurns_none (s := s.at n), blown.rollback,
      blown.lock, fun k => ⟨blown.enrolled k, blown.revoked k⟩⟩
  · exact ⟨_, exec_resetNAssert h, resetWith_resetTo rfl rfl rfl _, rfl, h, rfl, rfl, rfl, rfl, rfl, rfl⟩

end Sys2Proof.Machine

namespace Sys2Proof.Machine

/-! ### RESET_COMPLETE (R406, R449, R461) -/

section ResetEnds

variable {s : State} {n : Nat}

/-- The clocks and the core's supply at the end of RESET. -/
def endReset (s : State) : State :=
  { s with
    tb := { s.tb with anchor := s.now, base := 0 }
    gov := { s.gov with vcore := BitVec.ofNat 16 (setpointOf s) }
    chip := { s.chip with ufsRst := false, ufsRefclk := true } }

/-- LOADING is at its directory, whose table it reads from the forme unit. -/
def beginLoading (s : State) : State :=
  { s with dev := { s.dev with load := { Load.idle with phase := .directory, sections := readSections s.directory }, ufsAt := s.now } }

theorem endReset_imageCause (n : Nat) (s : State) : imageCause (endReset (s.at n)) = imageCause s := rfl

/-- Where an image leads: its cause to BLANK, none to LOADING. -/
def leaveReset (image : Option Nat) (s : State) : State :=
  match image with
  | some c => enterBlank c 0 0xFF s
  | none => setState .loading (beginLoading s)

theorem exec_resetComplete (hp : s.chip.powered = true) (hr : s.chip.resetN = false) (hs : s.dev.st = .reset) :
    exec (.resetComplete n) s = .next (leaveReset (imageCause s) (endReset (s.at n))) := by
  have hin : ((s.at n).chip.powered && !(s.at n).chip.resetN && decide ((s.at n).dev.st = .reset)) = true := by simp [hp, hr, hs]
  refine (if_pos hin).trans ?_
  rw [← endReset_imageCause n s]
  unfold leaveReset
  change (match imageCause (endReset (s.at n)) with | some c => _ | none => _) = _
  cases imageCause (endReset (s.at n)) <;> rfl

/-- A state that changes is kept as the one before, and HF_IRQ.STATE sets. -/
theorem setState_changes {st : DevState} (h : s.dev.st ≠ st) :
    setState st s = irq 3 { s with dev := { s.dev with st := st, prev := s.dev.st } } := if_neg h

end ResetEnds

/-- Settles O9: RESET ends with its clocks and supply set, in BLANK with the image's cause or in LOADING at the directory. -/
theorem resetEndsInLoadingOrBlank : Obligations.ResetEndsInLoadingOrBlank := by
  intro n s hp hr hs
  have e := exec_resetComplete (n := n) hp hr hs
  cases hc : imageCause s with
  | some c =>
    rw [hc, leaveReset, enterBlank, setState_changes] at e
    · exact ⟨_, e, rfl, rfl, hs, irq_sets (by decide) _, rfl, rfl, rfl, rfl⟩
    · exact fun h => nomatch hs.symm.trans h
  | none =>
    rw [hc, leaveReset, setState_changes] at e
    · exact ⟨_, e, rfl, rfl, hs, irq_sets (by decide) _, rfl, rfl, rfl⟩
    · exact fun h => nomatch hs.symm.trans h

end Sys2Proof.Machine

namespace Sys2Proof.Machine

/-! ### FUSE_BURN_COMPLETE (R401, R404, R410, R455) -/

section Burns

variable {s : State} {n : Nat}

theorem exec_fuseBurnComplete {b : Burn} {rest : List Burn} (hr : s.chip.resetN = false) (h : s.fuses.burns = b :: rest) :
    exec (.fuseBurnComplete n) s = .next { s.at n with fuses := { applyBurn b s.fuses with burns := rest } } := by
  change execFuseBurnComplete n s = _
  simp [execFuseBurnComplete, hr, h]

theorem exec_fuseBurnComplete_none (h : s.chip.resetN = true ∨ s.fuses.burns = []) : exec (.fuseBurnComplete n) s = .next (s.at n) := by
  change execFuseBurnComplete n s = _
  rcases h with h | h <;> simp [execFuseBurnComplete, h]

/-- A burn of one key slot changes that slot and no other. -/
theorem completes_fuseBurnComplete_slot {b : Burn} {k : Fin 4} {f : KeySlot → KeySlot} {rest : List Burn} (hr : s.chip.resetN = false)
    (h : s.fuses.burns = b :: rest) (hb : applyBurn b s.fuses = { s.fuses with slots := vmod s.fuses.slots k f }) :
    Completes (.fuseBurnComplete n) s fun t => t.fuses.slots.get k = f (s.fuses.slots.get k) ∧
      (∀ j, j ≠ k → t.fuses.slots.get j = s.fuses.slots.get j) ∧ t.fuses.burns = rest ∧ t.fuses.rollback = s.fuses.rollback ∧
      t.fuses.debugLock = s.fuses.debugLock := by
  refine ⟨_, exec_fuseBurnComplete hr h, ?_⟩
  rw [hb]
  exact ⟨(vmod_get _ _ _ _).trans (if_pos rfl), fun j hj => (vmod_get _ _ _ _).trans (if_neg hj.symm), rfl, rfl, rfl⟩

end Burns

/-! ### FUSE_COMMAND (R403, R404, R470) -/

section FuseCommands

variable {s u : State} {m : Msg} {n : Nat}

theorem exec_fuseCommand_none (h : s.head? (fun x => x = 0x0025) = none) : exec (.fuseCommand n) s = .next (s.at n) := by
  change execFuseCommand n s = _
  simp only [execFuseCommand, State.at_head?, h]

theorem exec_fuseCommand_version (h : s.head? (fun x => x = 0x0025) = some m) (hv : s.versionOk m = false) : exec (.fuseCommand n) s =
    .next (replyWith (handOn m (s.at n)).2.headVersion (handOn m (s.at n)).1 m.session stVersion [0] (handOn m (s.at n)).2) := by
  have hv' : (s.at n).versionOk m = false := hv
  change execFuseCommand n s = _
  simp only [execFuseCommand, State.at_head?, h, hv', Bool.false_eq_true, if_false]
  rfl

theorem exec_fuseCommand (h : s.head? (fun x => x = 0x0025) = some m) (hv : s.versionOk m = true) :
    exec (.fuseCommand n) s = .next (fuseCommand (handOn m (s.at n)).1 (handOn m (s.at n)).2) := by
  have hv' : (s.at n).versionOk m = true := hv
  change execFuseCommand n s = _
  simp only [execFuseCommand, State.at_head?, h, hv', if_true]

/-- A fuse command's reply carries a reason byte whatever its status. -/
def answerFuse (q : Request) (status reason : Nat) (s : State) : State := replyWith s.headVersion q q.session status (natLe 1 reason) s

theorem fuseCommand_elsewhere (q : Request) (h : u.dev.st ≠ .maintenance) : fuseCommand q u = answerFuse q stState 0 u :=
  if_pos (by simp [State.maintaining, h])

theorem fuseCommand_malformed {q : Request} (h : u.dev.st = .maintenance) (hf : fuseFields q.payload = false) :
    fuseCommand q u = answerFuse q stInvalid 0 u := by
  simp only [fuseCommand, State.maintaining, h, hf, decide_true, Bool.not_true, Bool.not_false, Bool.false_eq_true, if_false, if_true, answerFuse]

theorem fuseCommand_refused {q : Request} {r : Nat} (h : u.dev.st = .maintenance) (hf : fuseFields q.payload = true)
    (hj : judgeFuse u q.payload = (r, none)) : fuseCommand q u = answerFuse q stFuse r u := by
  simp only [fuseCommand, State.maintaining, h, hf, hj, decide_true, Bool.not_true, Bool.false_eq_true, if_false, answerFuse]

/-- An accepted command's burn waits behind those under way. -/
def queueBurn (b : Burn) (s : State) : State := { s with fuses := { s.fuses with burns := s.fuses.burns ++ [b] } }

theorem fuseCommand_accepted {q : Request} {r : Nat} {b : Burn} (h : u.dev.st = .maintenance) (hf : fuseFields q.payload = true)
    (hj : judgeFuse u q.payload = (r, some b)) : fuseCommand q u = answerFuse q stOk 0 (queueBurn b u) := by
  simp only [fuseCommand, State.maintaining, h, hf, hj, decide_true, Bool.not_true, Bool.false_eq_true, if_false, answerFuse, queueBurn]

/-- What a fuse command's answer is made in is what the command leaves of the fuses. -/
theorem completes_fuseCommand {status reason : Nat} {f : Fuses} (h : s.head? (fun x => x = 0x0025) = some m) (hv : s.versionOk m = true)
    (ho : HandedOn (s.at n) u m) (hf : u.fuses = f) (e : fuseCommand (handOn m (s.at n)).1 (handOn m (s.at n)).2 =
      answerFuse (handOn m (s.at n)).1 status reason u) :
    Completes (.fuseCommand n) s fun t => Replies s t m m.session status (natLe 1 reason) ∧ t.fuses = f :=
  ⟨_, (exec_fuseCommand h hv).trans (congrArg _ e), ho.replies _ status m.session _, hf⟩

end FuseCommands

/-- Settles O12: a burn changes what its command names, and a fuse command is answered with its reason, or queues its burn. -/
theorem fusesBurn : Obligations.FusesBurn := by
  refine ⟨fun n s h => exec_fuseBurnComplete_none (.inl h), fun n s rest hr => ⟨fun h => exec_fuseBurnComplete hr h,
    fun v h => exec_fuseBurnComplete hr h, fun k h => completes_fuseBurnComplete_slot hr h rfl,
    fun k d h => completes_fuseBurnComplete_slot hr h rfl, fun h => exec_fuseBurnComplete_none (.inr h)⟩,
    fun n m s => ⟨exec_fuseCommand_none, fun h => ?_⟩⟩
  have ho := handOn_handedOn m (s.at n)
  have zero : ([0] : List Byte) = natLe 1 0 := rfl
  refine ⟨fun hv => ⟨_, exec_fuseCommand_version h hv, ho.replies _ stVersion m.session [0], rfl⟩, fun hv hs => ?_, fun hv hs hf => ?_,
    fun hv hs hf => ⟨fun r hj => ?_, fun r b hj => ?_⟩⟩
  · rw [zero]
    exact completes_fuseCommand h hv ho rfl (fuseCommand_elsewhere _ hs)
  · rw [zero]
    exact completes_fuseCommand h hv ho rfl (fuseCommand_malformed hs hf)
  · exact completes_fuseCommand h hv ho rfl (fuseCommand_refused hs hf hj)
  · have queued : HandedOn (s.at n) (queueBurn b (handOn m (s.at n)).2) m := ho.after (.of_port rfl) (.same rfl)
    rw [zero]
    exact completes_fuseCommand h hv queued rfl (fuseCommand_accepted hs hf hj)

end Sys2Proof.Machine

namespace Sys2Proof.Machine

/-! ### The test port (R412, R455) -/

section TestAccess

variable {s : State} {n code : Nat} {cells : List Byte}

/-- R412: the test port of a powered part takes instructions unless reset holds it. -/
theorem exec_jtagBypass (hp : s.chip.powered = true) (hr : s.chip.resetN = false) : exec (.jtagBypass n) s = .next (tapBypass (s.at n)) :=
  congrArg Host.Outcome.next (if_pos (by simp [hp, hr]))

theorem exec_jtagIdcode (hp : s.chip.powered = true) (hr : s.chip.resetN = false) : exec (.jtagIdcode n) s = .next { s.at n with
    chip := { s.chip with tap := .idcode, tdo := natLe 4 (Config.idcode s.ident.minor.toNat).toNat } } :=
  congrArg Host.Outcome.next (if_pos (by simp [hp, hr]))

theorem exec_jtagSamplePreload (hp : s.chip.powered = true) (hr : s.chip.resetN = false) : exec (.jtagSamplePreload n cells) s =
    .next { s.at n with chip := { s.chip with tap := .sample, tdo := capture cells.length s, scan := cells }, free := s.free + cells.length } :=
  congrArg Host.Outcome.next (if_pos (by simp [hp, hr]))

theorem length_capture (k : Nat) (s : State) : (capture k s).length = k := by
  simp [capture]

theorem State.pinsFree_iff : s.pinsFree = true ↔ s.dev.st = .reset ∨ s.dev.st = .blank ∨ s.dev.st = .maintenance := decide_eq_true_iff

theorem exec_jtagExtest (hp : s.chip.powered = true) (hr : s.chip.resetN = false) : exec (.jtagExtest n) s = .next (if s.pinsFree then
      { s.at n with chip := { s.chip with tap := .extest, tdo := capture s.chip.scan.length s }, free := s.free + s.chip.scan.length }
    else tapBypass (s.at n)) :=
  congrArg Host.Outcome.next (if_neg (by simp [hp, hr]))

theorem exec_jtagDebugInstruction (hp : s.chip.powered = true) (hr : s.chip.resetN = false) : exec (.jtagDebugInstruction n code) s =
    if !s.fuses.debugLock && decide (s.dev.st = .blank ∨ s.dev.st = .maintenance) then .refused .debugEffectUnspecified
    else .next (tapBypass (s.at n)) :=
  if_neg (by simp [hp, hr])

theorem exec_trstNAssert (hp : s.chip.powered = true) : exec (.trstNAssert n) s =
    .next { s.at n with chip := { s.chip with tap := .idcode, tdo := [], scan := [] } } :=
  congrArg Host.Outcome.next (if_pos hp)

theorem exec_trstNAssert_unpowered (hp : s.chip.powered = false) : exec (.trstNAssert n) s = .next (s.at n) :=
  congrArg Host.Outcome.next (if_neg (Bool.eq_false_iff.1 hp))

/-- Without power, or held in reset, the port runs no instruction. -/
theorem exec_jtag_held (h : s.chip.powered = false ∨ s.chip.resetN = true) {c : Instr} (hc : c ∈ [Instr.jtagBypass n, .jtagIdcode n,
    .jtagSamplePreload n cells, .jtagExtest n, .jtagDebugInstruction n code]) : exec c s = .next (s.at n) := by
  have off : ¬(s.chip.powered && !s.chip.resetN) = true := by rcases h with h | h <;> simp [h]
  have held : (!s.chip.powered || s.chip.resetN) = true := by rcases h with h | h <;> simp [h]
  simp only [List.mem_cons, List.not_mem_nil, or_false] at hc
  obtain rfl | rfl | rfl | rfl | rfl := hc
  · exact congrArg Host.Outcome.next (if_neg off)
  · exact congrArg Host.Outcome.next (if_neg off)
  · exact congrArg Host.Outcome.next (if_neg off)
  · exact congrArg Host.Outcome.next (if_pos held)
  · exact if_pos held

end TestAccess

/-- Settles O13: each instruction on a live port, then the port's own reset and the ports that hear nothing. -/
theorem testPort : Obligations.TestPort := by
  intro n code cells s
  refine ⟨fun hp hr => ⟨exec_jtagBypass hp hr, exec_jtagIdcode hp hr, ⟨_, exec_jtagSamplePreload hp hr, rfl, rfl, length_capture _ _⟩,
    fun hs => ?_, fun hs => ?_, fun hd => ?_, fun hd hs => ?_⟩, exec_trstNAssert, fun h c hc => exec_jtag_held h hc, exec_trstNAssert_unpowered⟩
  · have free := State.pinsFree_iff.2 hs
    have e := exec_jtagExtest (n := n) hp hr
    rw [free, if_pos rfl] at e
    refine ⟨_, e, rfl, rfl, length_capture _ _, ?_⟩
    exact (Bool.and_eq_true_iff.2 ⟨by simp [hp, hr], free⟩)
  · rw [exec_jtagExtest hp hr, if_neg (mt State.pinsFree_iff.1 hs)]
    rfl
  · rw [exec_jtagDebugInstruction hp hr, if_neg]
    · rfl
    · rcases hd with hd | ⟨hb, hm⟩
      · simp [hd]
      · simp [hb, hm]
  · rw [exec_jtagDebugInstruction hp hr, if_pos (by simp [hd, hs])]

end Sys2Proof.Machine

namespace Sys2Proof.Machine

/-! ### The greatest reading (R465) -/

section Hottest

/-- The greatest reading, the place of the first sensor that gave it, and that no other reading is above it. -/
theorem hottest_spec {l : List Int} (h : l ≠ []) (i : Nat) : ∃ k, (hottest l i).2 = i + k ∧ l[k]? = some (hottest l i).1 ∧
    ∀ (j : Nat) (x : Int), l[j]? = some x → x ≤ (hottest l i).1 ∧ (x = (hottest l i).1 → k ≤ j) := by
  induction l generalizing i with
  | nil => exact absurd rfl h
  | cons x r ih =>
    cases r with
    | nil =>
      refine ⟨0, rfl, rfl, fun j y hy => ?_⟩
      obtain rfl : y = x := List.mem_singleton.1 (List.mem_of_getElem? hy)
      exact ⟨le_rfl, fun _ => Nat.zero_le _⟩
    | cons y r =>
      obtain ⟨k, hk, hget, hmax⟩ := ih (List.cons_ne_nil y r) (i + 1)
      have e : hottest (x :: y :: r) i = if (hottest (y :: r) (i + 1)).1 ≤ x then (x, i) else hottest (y :: r) (i + 1) := rfl
      by_cases hx : (hottest (y :: r) (i + 1)).1 ≤ x
      · rw [e, if_pos hx]
        refine ⟨0, rfl, rfl, fun j z hz => ⟨?_, fun _ => Nat.zero_le j⟩⟩
        cases j with
        | zero => exact (Option.some.inj hz).ge
        | succ j => exact (hmax j z hz).1.trans hx
      · rw [e, if_neg hx]
        refine ⟨k + 1, by omega, hget, fun j z hz => ?_⟩
        cases j with
        | zero =>
          obtain rfl : x = z := Option.some.inj hz
          exact ⟨by omega, fun he => absurd he.ge hx⟩
        | succ j =>
          obtain ⟨hle, hfirst⟩ := hmax j z hz
          exact ⟨hle, fun he => Nat.succ_le_succ (hfirst he)⟩

end Hottest

/-! ### THERMAL_SAMPLE (R465) -/

section Thermal

variable {s t u : State} {n : Nat} {readings : List Int}

/-- How many of the three thresholds a temperature reaches. -/
def thermalLevel (s : State) (tj : Int) : Nat :=
  if tjMax8 s + 80 ≤ tj then 3 else if tjMax8 s ≤ tj then 2 else if tjMax8 s - 40 ≤ tj then 1 else 0

/-- The governor's registers take a sample. -/
def takeReadings (readings : List Int) (s : State) : State :=
  { s with gov := { s.gov with
      tj := BitVec.ofInt 16 (hottest readings 0).1, sensor := BitVec.ofNat 5 (hottest readings 0).2
      hot := thermalLevel s (hottest readings 0).1, hotCue := s.gov.hotCue || decide (tjMax8 s - 80 ≤ (hottest readings 0).1) } }

/-- What a rise from one level to another does at threshold `k`. -/
def crossAt (was lvl k : Nat) (s : State) : State := if was < k ∧ k ≤ lvl then crossUp k s else s

theorem exec_thermalSample (hs : s.dev.st ≠ .reset) (hr : readings ≠ []) {was lvl : Nat} (hw : was = s.gov.hot)
    (hl : lvl = thermalLevel s (hottest readings 0).1) : exec (.thermalSample n readings) s =
    .next (crossAt was lvl 3 (crossAt was lvl 2 (crossAt was lvl 1 (takeReadings readings (s.at n))))) := by
  subst hw hl
  exact if_neg (not_or.2 ⟨hs, hr⟩)

/-- What crossing a threshold leaves of the registers: the sample stays, a withdrawal or a stop of cognition once made stays, and the log grows. -/
structure Rising (s t : State) : Prop where
  tj : t.gov.tj = s.gov.tj
  sensor : t.gov.sensor = s.gov.sensor
  hot : t.gov.hot = s.gov.hot
  high : t.gov.high = s.gov.high
  withdrawn : s.gov.withdrawn = true → t.gov.withdrawn = true
  k : s.gov.k = 0 → t.gov.k = 0
  log : ∃ new, LogGrows s t new

theorem Rising.of_eq (hg : t.gov = s.gov) (hl : ∃ new, LogGrows s t new) : Rising s t := by
  constructor <;> simp [hg, hl]

theorem Rising.trans (a : Rising s t) (b : Rising t u) : Rising s u := by
  obtain ⟨_, ha⟩ := a.log
  obtain ⟨_, hb⟩ := b.log
  exact ⟨b.tj.trans a.tj, b.sensor.trans a.sensor, b.hot.trans a.hot, b.high.trans a.high, b.withdrawn ∘ a.withdrawn, b.k ∘ a.k, _, ha.trans hb⟩

theorem deviceFault_gov (cause : Nat) (unit : Byte) (s : State) : (deviceFault cause unit s).gov = s.gov := by
  have h : Apart (fun f => decide (f ≠ .gov)) s (deviceFault cause unit s) := deviceFault_apart rfl rfl rfl rfl rfl rfl rfl (.refl _ _)
  exact h.same .gov rfl

/-- High mode, if on, is withdrawn at the next boundary (R465). -/
def withdrawHigh (s : State) : State :=
  if s.gov.high then logEvent 0x0B04 idGovernor 1 { s with gov := { s.gov with withdrawn := true } } else s

/-- What a threshold does beside its event. -/
def crossEffect (k : Nat) (s : State) : State :=
  if k = 1 then withdrawHigh s else if k = 2 then { s with gov := { s.gov with k := 0 } } else deviceFault 6 idGovernor s

theorem crossUp_eq (k : Nat) (s : State) : crossUp k s = crossEffect k (logEvent 0x0B06 idGovernor k s) := rfl

theorem withdrawHigh_rising (s : State) : Rising s (withdrawHigh s) := by
  unfold withdrawHigh
  split
  · obtain ⟨_, h, -⟩ := logEvent_grows 0x0B04 idGovernor 1 { s with gov := { s.gov with withdrawn := true } }
    exact ⟨rfl, rfl, rfl, rfl, fun _ => rfl, id, _, h⟩
  · exact .of_eq rfl ⟨[], .same rfl⟩

theorem crossEffect_rising (k : Nat) (s : State) : Rising s (crossEffect k s) := by
  unfold crossEffect
  split
  · exact withdrawHigh_rising s
  · split
    · exact ⟨rfl, rfl, rfl, rfl, id, fun _ => rfl, [], .same rfl⟩
    · exact .of_eq (deviceFault_gov _ _ s) (deviceFault_inCue (.refl s)).log

theorem crossUp_rising (k : Nat) (s : State) : Rising s (crossUp k s) := by
  obtain ⟨_, h, -⟩ := logEvent_grows 0x0B06 idGovernor k s
  exact (Rising.of_eq (s := s) (t := logEvent 0x0B06 idGovernor k s) rfl ⟨_, h⟩).trans (crossEffect_rising k _)

theorem crossUp_logs (k : Nat) (s : State) : Logs s (crossUp k s) 0x0B06 idGovernor k := by
  obtain ⟨_, h⟩ := (crossEffect_rising k (logEvent 0x0B06 idGovernor k s)).log
  exact (logEvent_logs 0x0B06 idGovernor k s).later h

theorem crossUp_one_withdraws (h : s.gov.high = true) : (crossUp 1 s).gov.withdrawn = true := by
  rw [crossUp_eq, crossEffect, if_pos rfl, withdrawHigh, if_pos (show (logEvent 0x0B06 idGovernor 1 s).gov.high = true from h)]
  rfl

theorem crossUp_two_stops (s : State) : (crossUp 2 s).gov.k = 0 := rfl

/-- The first two thresholds leave the device as it is. -/
theorem crossUp_dev {k : Nat} (h : k = 1 ∨ k = 2) (s : State) : (crossUp k s).dev = s.dev := by
  rcases h with rfl | rfl
  · rw [crossUp_eq, crossEffect, if_pos rfl, withdrawHigh]
    split <;> rfl
  · rfl

/-- The third is a device-level fault, with cause 6. -/
theorem crossUp_three (h : s.dev.st ≠ .reset) : (crossUp 3 s).dev.faultN = true ∧ Stopped (crossUp 3 s) := by
  have f := deviceFault_raised (cause := 6) (unit := idGovernor) (s := logEvent 0x0B06 idGovernor 3 s) h
  exact ⟨f.faultN, f.latch, f.off⟩

theorem crossAt_rising (was lvl k : Nat) (s : State) : Rising s (crossAt was lvl k s) := by
  unfold crossAt
  split
  · exact crossUp_rising k s
  · exact .of_eq rfl ⟨[], .same rfl⟩

theorem crossAt_crossed {was lvl k : Nat} (hw : was < k) (hl : k ≤ lvl) (s : State) : crossAt was lvl k s = crossUp k s := if_pos ⟨hw, hl⟩

theorem crossAt_none {was lvl : Nat} (h : lvl ≤ was) (k : Nat) (s : State) : crossAt was lvl k s = s := if_neg (by omega)

theorem crossAt_dev {was lvl k : Nat} (h : k = 1 ∨ k = 2) (s : State) : (crossAt was lvl k s).dev = s.dev := by
  unfold crossAt
  split
  · exact crossUp_dev h s
  · rfl

end Thermal

/-- Settles O29: the sample is taken first; the thresholds between the two levels are then crossed one by one, and what one does stays over the next. -/
theorem thermalThresholds : Obligations.ThermalThresholds := by
  intro n was lvl tj readings s hs hr htj hwas hlvl
  subst htj
  obtain ⟨k, hk, hget, hmax⟩ := hottest_spec hr 0
  rw [Nat.zero_add] at hk
  refine ⟨⟨k, hget, hmax⟩, _, exec_thermalSample hs hr hwas hlvl, ?_⟩
  have taken : (takeReadings readings (s.at n)).gov.hot = lvl := hlvl.symm
  generalize hw0 : takeReadings readings (s.at n) = w0 at taken
  generalize hw1 : crossAt was lvl 1 w0 = w1
  generalize hw2 : crossAt was lvl 2 w1 = w2
  generalize hw3 : crossAt was lvl 3 w2 = w3
  have r1 : Rising w0 w1 := hw1 ▸ crossAt_rising was lvl 1 w0
  have r2 : Rising w1 w2 := hw2 ▸ crossAt_rising was lvl 2 w1
  have r3 : Rising w2 w3 := hw3 ▸ crossAt_rising was lvl 3 w2
  have r := (r1.trans r2).trans r3
  have l0 : LogGrows s w0 [] := hw0 ▸ .same rfl
  obtain ⟨_, l1⟩ := r1.log
  obtain ⟨_, l2⟩ := r2.log
  obtain ⟨_, l3⟩ := r3.log
  refine ⟨r.tj.trans (hw0 ▸ rfl), r.hot.trans taken, hk ▸ hget, r.sensor.trans (hw0 ▸ rfl), fun hb hc => ?_, fun hb hc => ?_, fun hb hc => ?_, fun h => ?_⟩
  · have e : crossUp 1 w0 = w1 := (crossAt_crossed hb hc w0).symm.trans hw1
    have logged : Logs w0 w1 0x0B06 idGovernor 1 := e ▸ crossUp_logs 1 w0
    refine ⟨((logged.earlier l0).later l2).later l3, fun hh => r3.withdrawn (r2.withdrawn ?_)⟩
    exact e ▸ crossUp_one_withdraws (s := w0) (hw0 ▸ hh)
  · have e : crossUp 2 w1 = w2 := (crossAt_crossed hb hc w1).symm.trans hw2
    have logged : Logs w1 w2 0x0B06 idGovernor 2 := e ▸ crossUp_logs 2 w1
    exact ⟨(logged.earlier (l0.trans l1)).later l3, r3.k (e ▸ crossUp_two_stops w1)⟩
  · have e : crossUp 3 w2 = w3 := (crossAt_crossed hb hc w2).symm.trans hw3
    have logged : Logs w2 w3 0x0B06 idGovernor 3 := e ▸ crossUp_logs 3 w2
    have hd : w2.dev = s.dev := by rw [← hw2, crossAt_dev (.inr rfl), ← hw1, crossAt_dev (.inl rfl), ← hw0]; rfl
    exact ⟨logged.earlier ((l0.trans l1).trans l2), e ▸ crossUp_three (s := w2) (hd ▸ hs)⟩
  · rw [← hw3, crossAt_none h, ← hw2, crossAt_none h, ← hw1, crossAt_none h, ← hw0]
    exact ⟨rfl, rfl, rfl⟩

end Sys2Proof.Machine

namespace Sys2Proof.Machine

/-! ### PTP_SYNC_TIMEOUT and PPS_TIMEOUT (R450) -/

section SourceLosses

variable {s : State} {n : Nat}

theorem refreshAligned_frame (s : State) : (refreshAligned s).tb = s.tb ∧ (refreshAligned s).log = s.log := by
  unfold refreshAligned
  split <;> exact ⟨rfl, rfl⟩

theorem refreshAligned_free (h : s.tb.source = .free) : (refreshAligned s).cue.ptpAligned = false := by
  rw [refreshAligned, if_pos h]

theorem TimeBase.source_free {tb : TimeBase} (hp : tb.ptpLocked = false) (hs : tb.ppsLocked = false) : tb.source = .free := by
  rw [TimeBase.source, hp, hs, if_neg Bool.false_ne_true, if_neg Bool.false_ne_true]

/-- A source of a priority has lost its lock, and left this time base. -/
def loseSource (priority : Nat) (tb : TimeBase) (s : State) : State := refreshAligned (logEvent 0x0B01 idTime priority { s with tb := tb })

theorem loseSource_spec (priority : Nat) (tb : TimeBase) (s : State) : (loseSource priority tb s).tb = tb ∧
    Newest (loseSource priority tb s) 0x0B01 idTime priority ∧ (tb.source = .free → (loseSource priority tb s).cue.ptpAligned = false) := by
  obtain ⟨htb, hlog⟩ := refreshAligned_frame (logEvent 0x0B01 idTime priority { s with tb := tb })
  exact ⟨htb, (logEvent_newest _ _ _ _).same_log hlog, fun h => refreshAligned_free h⟩

/-- The time base without its PTP source. -/
def TimeBase.unlockPtp (tb : TimeBase) : TimeBase := { tb with ptpLocked := false, ptpGood := 0, ptpBad := 0, ptpLost := true }

/-- The time base without its PPS source. -/
def TimeBase.unlockPps (tb : TimeBase) : TimeBase := { tb with ppsLocked := false, ppsGood := 0, ppsLost := true }

/-- The choice of a master ends, and its count of Syncs. -/
def TimeBase.endMaster (tb : TimeBase) : TimeBase := { tb with master := none, ptpGood := 0, ptpBad := 0 }

theorem losePtp_locked (h : s.tb.ptpLocked = true) : losePtp s = loseSource 1 s.tb.unlockPtp s := if_pos h

theorem losePtp_unlocked (h : s.tb.ptpLocked = false) : losePtp s = s := if_neg (Bool.eq_false_iff.1 h)

theorem losePps_locked (h : s.tb.ppsLocked = true) : losePps s = loseSource 2 s.tb.unlockPps s := if_pos h

theorem losePps_unlocked (h : s.tb.ppsLocked = false) : losePps s = s := if_neg (Bool.eq_false_iff.1 h)

/-- A silent master leaves the choice to the next Announce. -/
def endMaster (s : State) : State := { s with tb := s.tb.endMaster }

theorem exec_ptpSyncTimeout (h : s.tb.lastSync + us 3000000 ≤ (s.at n).now) : exec (.ptpSyncTimeout n) s = .next (endMaster (losePtp (s.at n))) :=
  congrArg Host.Outcome.next (if_pos h)

theorem exec_ptpSyncTimeout_early (h : (s.at n).now < s.tb.lastSync + us 3000000) : exec (.ptpSyncTimeout n) s = .next (s.at n) :=
  congrArg Host.Outcome.next (if_neg (Nat.not_le.2 h))

theorem completes_ptpSyncTimeout_locked (hl : s.tb.ptpLocked = true) (h : s.tb.lastSync + us 3000000 ≤ (s.at n).now) :
    Completes (.ptpSyncTimeout n) s fun t =>
      t.tb = { s.tb with ptpLocked := false, ptpGood := 0, ptpBad := 0, ptpLost := true, master := none } ∧ Newest t 0x0B01 idTime 1 ∧
      (s.tb.ppsLocked = false → t.cue.ptpAligned = false) := by
  have e := exec_ptpSyncTimeout h
  rw [losePtp_locked (s := s.at n) hl] at e
  obtain ⟨htb, hlog, hfree⟩ := loseSource_spec 1 s.tb.unlockPtp (s.at n)
  exact ⟨_, e, congrArg TimeBase.endMaster htb, hlog, fun hs => hfree (TimeBase.source_free rfl hs)⟩

theorem exec_ptpSyncTimeout_unlocked (hl : s.tb.ptpLocked = false) (h : s.tb.lastSync + us 3000000 ≤ (s.at n).now) :
    exec (.ptpSyncTimeout n) s = .next (endMaster (s.at n)) := by
  rw [exec_ptpSyncTimeout h, losePtp_unlocked (s := s.at n) hl]

theorem exec_ppsTimeout (h : s.tb.lastPps + us 1500000 ≤ (s.at n).now) : exec (.ppsTimeout n) s = .next (losePps (s.at n)) :=
  congrArg Host.Outcome.next (if_pos h)

theorem completes_ppsTimeout_locked (hl : s.tb.ppsLocked = true) (h : s.tb.lastPps + us 1500000 ≤ (s.at n).now) :
    Completes (.ppsTimeout n) s fun t => t.tb = { s.tb with ppsLocked := false, ppsGood := 0, ppsLost := true } ∧ Newest t 0x0B01 idTime 2 ∧
      (s.tb.ptpLocked = false → t.cue.ptpAligned = false) := by
  have e := exec_ppsTimeout h
  rw [losePps_locked (s := s.at n) hl] at e
  obtain ⟨htb, hlog, hfree⟩ := loseSource_spec 2 s.tb.unlockPps (s.at n)
  exact ⟨_, e, htb, hlog, fun hs => hfree (TimeBase.source_free hs rfl)⟩

theorem exec_ppsTimeout_none (h : s.tb.ppsLocked = false ∨ (s.at n).now < s.tb.lastPps + us 1500000) : exec (.ppsTimeout n) s = .next (s.at n) := by
  rcases h with h | h
  · exact congrArg Host.Outcome.next (by rw [losePps_unlocked (s := s.at n) h, ite_self])
  · exact congrArg Host.Outcome.next (if_neg (Nat.not_le.2 h))

end SourceLosses

/-! ### PPS_EDGE and PEER_DELAY_REQUEST (R450, R451) -/

section Edges

variable {s : State} {n : Nat}

/-- A clock that is adjusted, by the one step or by its rate, shows the offset and keeps the states of its sources. -/
theorem adjustClock_spec (offset : Int) (s : State) : (adjustClock offset s).tb.offset = sat32i offset ∧
    (adjustClock offset s).tb.lastPps = s.tb.lastPps ∧ (adjustClock offset s).tb.ppsGood = s.tb.ppsGood ∧
    (adjustClock offset s).tb.ppsLocked = s.tb.ppsLocked ∧ (adjustClock offset s).tb.ppsLost = s.tb.ppsLost := by
  unfold adjustClock
  dsimp only
  split <;> exact ⟨rfl, rfl, rfl, rfl, rfl⟩

/-- An edge is placed, and counted while it lies within 10 µs of a whole second. -/
def noteEdge (s : State) : State := { s with tb := { s.tb with
  lastPps := s.now, ppsGood := if (fromSecond s.ns).natAbs ≤ 10000 then s.tb.ppsGood + 1 else 0 } }

/-- An edge measures the clock unless PTP leads it. -/
def followEdge (s : State) : State := if s.tb.ptpLocked then noteEdge s else adjustClock (fromSecond s.ns) (noteEdge s)

/-- The source locks at its fourth edge in a row, with event 0x0B02 after a loss. -/
def lockPps (s : State) : State :=
  if !s.tb.ppsLocked && decide (4 ≤ s.tb.ppsGood) then
    if s.tb.ppsLost then logEvent 0x0B02 idTime 2 { s with tb := { s.tb with ppsLocked := true, ppsLost := false } }
    else { s with tb := { s.tb with ppsLocked := true, ppsLost := false } }
  else s

theorem exec_ppsEdge (h : s.dev.st ≠ .reset) : exec (.ppsEdge n) s = .next (lockPps (followEdge (s.at n))) := by
  refine (if_neg h).trans ?_
  unfold lockPps
  exact (apply_ite Host.Outcome.next _ _ _).symm

/-- What an edge does to the time base before it may lock the source. -/
theorem followEdge_spec (s : State) : (followEdge s).tb.lastPps = s.now ∧
    (followEdge s).tb.ppsGood = (if (fromSecond s.ns).natAbs ≤ 10000 then s.tb.ppsGood + 1 else 0) ∧
    (followEdge s).tb.ppsLocked = s.tb.ppsLocked ∧ (followEdge s).tb.ppsLost = s.tb.ppsLost ∧
    (s.tb.ptpLocked = true → followEdge s = noteEdge s) ∧ (s.tb.ptpLocked = false → (followEdge s).tb.offset = sat32i (fromSecond s.ns)) := by
  obtain ⟨hoff, hlast, hgood, hlocked, hlost⟩ := adjustClock_spec (fromSecond s.ns) (noteEdge s)
  unfold followEdge
  split
  · next h => exact ⟨rfl, rfl, rfl, rfl, fun _ => rfl, fun hn => absurd (h.symm.trans hn) (by decide)⟩
  · next h => exact ⟨hlast, hgood, hlocked, hlost, fun hp => absurd hp h, fun _ => hoff⟩

/-- The lock is all that the source's fourth edge changes of the time base. -/
theorem lockPps_tb (s : State) : ∃ lost, (lockPps s).tb =
    { s.tb with ppsLocked := s.tb.ppsLocked || decide (4 ≤ s.tb.ppsGood), ppsLost := lost } := by
  unfold lockPps
  split
  · next h =>
    obtain ⟨-, hgood⟩ := Bool.and_eq_true_iff.1 h
    refine ⟨false, ?_⟩
    rw [hgood, Bool.or_true]
    split <;> rfl
  · next h =>
    refine ⟨s.tb.ppsLost, ?_⟩
    have hsame : (s.tb.ppsLocked || decide (4 ≤ s.tb.ppsGood)) = s.tb.ppsLocked := by
      cases hl : s.tb.ppsLocked with
      | true => rfl
      | false => simpa [hl] using h
    rw [hsame]

theorem lockPps_back (hu : s.tb.ppsLocked = false) (hl : s.tb.ppsLost = true) (hg : 4 ≤ s.tb.ppsGood) : Newest (lockPps s) 0x0B02 idTime 2 := by
  rw [lockPps, if_pos (by simp [hu, hg]), if_pos hl]
  exact logEvent_newest _ _ _ _

theorem completes_ppsEdge (h : s.dev.st ≠ .reset) : Completes (.ppsEdge n) s fun t => t.tb.lastPps = (s.at n).now ∧
    t.tb.ppsGood = (if (fromSecond (s.at n).ns).natAbs ≤ 10000 then s.tb.ppsGood + 1 else 0) ∧
    t.tb.ppsLocked = (s.tb.ppsLocked || decide (4 ≤ t.tb.ppsGood)) ∧
    (s.tb.ptpLocked = true → t.tb.base = s.tb.base ∧ t.tb.anchor = s.tb.anchor ∧ t.tb.rate = s.tb.rate ∧ t.tb.offset = s.tb.offset) ∧
    (s.tb.ptpLocked = false → t.tb.offset = sat32i (fromSecond (s.at n).ns)) ∧
    (s.tb.ppsLocked = false → s.tb.ppsLost = true → 4 ≤ t.tb.ppsGood → Newest t 0x0B02 idTime 2) := by
  obtain ⟨hlast, hgood, hlocked, hlost, hptp, hfree⟩ := followEdge_spec (s.at n)
  have back := lockPps_back (s := followEdge (s.at n))
  obtain ⟨_, htb⟩ := lockPps_tb (followEdge (s.at n))
  rw [hlocked, hlost] at back
  rw [hlocked] at htb
  refine ⟨_, exec_ppsEdge h, ?_⟩
  dsimp only
  rw [htb]
  refine ⟨hlast, hgood, rfl, fun hp => ?_, hfree, back⟩
  rw [hptp hp]
  exact ⟨rfl, rfl, rfl, rfl⟩

theorem exec_peerDelayRequest {p : Fin 4} (hp : s.tb.profile = true) (hm : s.tb.master.map Prod.fst = some p.1) : exec (.peerDelayRequest n p) s =
    .next { s.at n with tb := { s.tb with pdelays := s.tb.pdelays + 1 } } :=
  congrArg Host.Outcome.next (if_pos (by simp [hp, hm]))

theorem exec_peerDelayRequest_none {p : Fin 4} (h : s.tb.profile = false ∨ s.tb.master.map Prod.fst ≠ some p.1) :
    exec (.peerDelayRequest n p) s = .next (s.at n) :=
  congrArg Host.Outcome.next (if_neg fun hc => by
    obtain ⟨hp, hm⟩ := Bool.and_eq_true_iff.1 hc
    exact h.elim (fun h => absurd (hp.symm.trans h) (by decide)) (· (of_decide_eq_true hm)))

end Edges

/-- Settles O27: each source's timeout, then the edge that counts, measures and may lock, and the request to the master's port alone. -/
theorem timeSources : Obligations.TimeSources := by
  refine ⟨fun n s => ⟨completes_ptpSyncTimeout_locked, completes_ppsTimeout_locked, exec_ptpSyncTimeout_unlocked, exec_ptpSyncTimeout_early,
    exec_ppsTimeout_none⟩, fun n s => ⟨completes_ppsEdge, fun p => exec_peerDelayRequest, fun p => exec_peerDelayRequest_none⟩⟩

end Sys2Proof.Machine

namespace Sys2Proof.Machine

/-! ### The SD card's initialisation and selection (R421 to R424, R455) -/

section CardStates

variable {s : State} {n : Nat} {rca : W16} {ocr : BitVec 24}

@[simp] theorem State.at_cardAlive : (s.at n).cardAlive = s.cardAlive := rfl

/-- A card that answers a command has its response, and one change of its own. -/
def cardAnswers (bs : List Byte) (f : Card → Card) (s : State) : State := respond bs false (modCard f s)

theorem exec_cmd0 (h : s.cardAlive = true) : exec (.cmd0 n) s =
    .next (cardAnswers [] (fun c => { c with st := .idle, rca := 0, wide := false, tuned := false }) (s.at n)) :=
  congrArg Host.Outcome.next (if_pos h)

theorem exec_cmd5_inquiry (h : s.cardAlive = true) (hc : s.port.card.st = .idle) (ho : ocr &&& ocrWindow = 0) :
    exec (.cmd5 n ocr) s = .next (respond (r4 false) false (s.at n)) :=
  (if_neg (by simp [h])).trans ((if_pos hc).trans (if_pos ho))

/-- A card that has met the voltage window is ready, and logs event 0x0A05 after a loss (R424). -/
theorem exec_cmd5_ready (h : s.cardAlive = true) (hc : s.port.card.st = .idle) (ho : ocr &&& ocrWindow ≠ 0) :
    exec (.cmd5 n ocr) s = .next (if s.port.card.lost then
        logEvent 0x0A05 idPort 0 (cardAnswers (r4 true) (fun c => { c with st := .ready, lost := false }) (s.at n))
      else cardAnswers (r4 true) (fun c => { c with st := .ready, lost := false }) (s.at n)) :=
  (if_neg (by simp [h])).trans ((if_pos hc).trans (if_neg ho))

theorem exec_cmd5_initialised (h : s.cardAlive = true) (hc : s.port.card.st ≠ .idle) :
    exec (.cmd5 n ocr) s = .next (respond (r4 true) false (s.at n)) :=
  (if_neg (by simp [h])).trans (if_neg hc)

theorem exec_cmd3 (h : s.cardAlive = true) (hc : s.port.card.st = .ready ∨ s.port.card.st = .standby) : exec (.cmd3 n) s =
    .next (cardAnswers ((natLe 2 (Config.rca s.free).toNat).reverse ++ [0, 0]) (fun c => { c with st := .standby, rca := Config.rca s.free })
      { s.at n with free := s.free + 1 }) :=
  if_pos (by simp [h, hc])

theorem exec_cmd3_none (h : s.cardAlive = false ∨ (s.port.card.st ≠ .ready ∧ s.port.card.st ≠ .standby)) : exec (.cmd3 n) s = .next (s.at n) :=
  if_neg (by rcases h with h | ⟨hr, hb⟩ <;> simp [*])

theorem exec_cmd7_select (h : s.cardAlive = true) (hc : s.port.card.st = .standby) (ha : rca = s.port.card.rca) : exec (.cmd7 n rca) s =
    .next (cardAnswers [0, 0, 0, 0] (fun c => { c with st := .selected }) (s.at n)) := by
  change execCmd7 n rca s = _
  simp [execCmd7, h, hc, ha, cardAnswers]

theorem exec_cmd7_deselect (h : s.cardAlive = true) (hc : s.port.card.st = .selected) (ha : rca ≠ s.port.card.rca) : exec (.cmd7 n rca) s =
    .next (modCard (fun c => { c with st := .standby }) (s.at n)) := by
  change execCmd7 n rca s = _
  simp [execCmd7, h, hc, ha]

theorem exec_cmd7_none (h : s.port.card.st = .idle ∨ s.port.card.st = .ready ∨ (s.port.card.st = .standby ∧ rca ≠ s.port.card.rca) ∨
    (s.port.card.st = .selected ∧ rca = s.port.card.rca)) : exec (.cmd7 n rca) s = .next (s.at n) := by
  change execCmd7 n rca s = _
  rcases h with hc | hc | ⟨hc, ha⟩ | ⟨hc, ha⟩ <;> simp [execCmd7, *]

theorem exec_cmd11 (h : s.cardAlive = true) (hc : s.port.card.st = .ready) : exec (.cmd11 n) s =
    .next (cardAnswers [0, 0, 0, 0] (fun c => { c with v18 := true }) (s.at n)) :=
  congrArg Host.Outcome.next (if_pos (by simp [h, hc]))

theorem exec_cmd11_none (h : s.cardAlive = false ∨ s.port.card.st ≠ .ready) : exec (.cmd11 n) s = .next (s.at n) :=
  congrArg Host.Outcome.next (if_neg (by rcases h with h | h <;> simp [h]))

theorem exec_cmd15 (h : s.cardAlive = true) (hc : s.port.card.st = .standby ∨ s.port.card.st = .selected) (ha : rca = s.port.card.rca) :
    exec (.cmd15 n rca) s = .next (modCard (fun c => { c with st := .inactive }) (s.at n)) :=
  congrArg Host.Outcome.next (if_pos (by simp [h, hc, ha]))

theorem exec_cmd15_none (h : s.cardAlive = false ∨ s.port.card.st = .idle ∨ s.port.card.st = .ready ∨ rca ≠ s.port.card.rca) :
    exec (.cmd15 n rca) s = .next (s.at n) :=
  congrArg Host.Outcome.next (if_neg (by rcases h with h | h | h | h <;> simp [h]))

theorem exec_cmd19 (h : s.cardAlive = true) (hc : s.port.card.st = .selected) (hv : s.port.card.v18 = true) : exec (.cmd19 n) s =
    .next (cardAnswers ((List.range 64).map Config.tuningByte) (fun c => { c with tuned := true }) (s.at n)) :=
  congrArg Host.Outcome.next (if_pos (by simp [h, hc, hv]))

theorem exec_cmd19_none (h : s.cardAlive = false ∨ s.port.card.st ≠ .selected ∨ s.port.card.v18 = false) : exec (.cmd19 n) s = .next (s.at n) :=
  congrArg Host.Outcome.next (if_neg (by rcases h with h | h | h <;> simp [h]))

/-- A card that is not alive hears no command of the SD bus (R455). -/
theorem exec_cardCommand_dead (h : s.cardAlive = false) {c : Instr} (hc : c = .cmd0 n ∨ c = .cmd3 n ∨ c = .cmd5 n ocr ∨ c = .cmd7 n rca ∨
    c = .cmd11 n ∨ c = .cmd15 n rca ∨ c = .cmd19 n) : exec c s = .next (s.at n) := by
  have off : ¬(s.at n).cardAlive = true := Bool.eq_false_iff.1 h
  have dead : (!(s.at n).cardAlive) = true := by simp [h]
  obtain rfl | rfl | rfl | rfl | rfl | rfl | rfl := hc
  · exact congrArg Host.Outcome.next (if_neg off)
  · exact exec_cmd3_none (.inl h)
  · exact if_pos dead
  · exact if_pos dead
  · exact exec_cmd11_none (.inl h)
  · exact exec_cmd15_none (.inl h)
  · exact exec_cmd19_none (.inl h)

/-! ### FUNCTION_READY_IN_IORX (R423) -/

theorem exec_functionReadyInIorx {fn : Fin 4} (hs : s.dev.st ≠ .reset) (hf : fn ≠ 0) (he : s.port.card.ioe.getLsbD fn.1 = true) :
    exec (.functionReadyInIorx n fn) s = .next (modCard (fun c => { c with ior := c.ior ||| (1#8 <<< fn.1) }) (s.at n)) :=
  congrArg Host.Outcome.next (if_pos (by simp [hs, hf, he]))

theorem exec_functionReadyInIorx_none {fn : Fin 4} (h : s.dev.st = .reset ∨ fn = 0 ∨ s.port.card.ioe.getLsbD fn.1 = false) :
    exec (.functionReadyInIorx n fn) s = .next (s.at n) :=
  congrArg Host.Outcome.next (if_neg (by rcases h with h | h | h <;> simp [h]))

/-- One bit set in a byte, and no other changed. -/
theorem getLsbD_or_one_shiftLeft (x : Byte) {k : Nat} (hk : k < 8) (j : Nat) :
    (x ||| (1#8 <<< k)).getLsbD j = (x.getLsbD j || decide (j = k)) := by
  rw [BitVec.getLsbD_or, ← BitVec.twoPow_eq, BitVec.getLsbD_twoPow]
  by_cases hj : j = k
  · subst hj
    simp [hk]
  · simp [hj, Ne.symm hj]

end CardStates

/-- Settles O48: what a live card does of each command in each state, and what it leaves unanswered. -/
theorem cardCommands : Obligations.CardCommands := by
  intro n rca ocr s
  refine ⟨fun h c hc => exec_cardCommand_dead h hc, fun h => ⟨⟨_, exec_cmd0 h, rfl⟩, fun hc ho => ⟨_, exec_cmd5_inquiry h hc ho, hc, rfl⟩,
    fun hc ho => ?_, fun hc => ⟨_, exec_cmd3 h hc, rfl, rfl⟩, fun hc ha => ⟨_, exec_cmd7_select h hc ha, rfl, ha.symm⟩,
    fun hc ha => ⟨_, exec_cmd7_deselect h hc ha, rfl⟩, fun hc => ⟨_, exec_cmd11 h hc, rfl, hc⟩,
    fun hc ha => ⟨_, exec_cmd15 h hc ha, rfl, by simp [State.cardAlive]⟩,
    fun hc hv => ⟨_, exec_cmd19 h hc hv, rfl, by simp [cardAnswers, respond]⟩, exec_cmd5_initialised h,
    fun hr hb => exec_cmd3_none (.inr ⟨hr, hb⟩), exec_cmd7_none, fun hc => exec_cmd11_none (.inr hc), fun hc => exec_cmd15_none (.inr hc),
    fun hc => exec_cmd19_none (.inr hc)⟩, fun fn => exec_functionReadyInIorx_none, fun fn hs hf he => ?_⟩
  · have e := exec_cmd5_ready (n := n) h hc ho
    cases hl : s.port.card.lost with
    | true =>
      rw [hl, if_pos rfl] at e
      exact ⟨_, e, rfl, rfl, rfl, fun _ => logEvent_newest _ _ _ _, fun hn => (nomatch hn)⟩
    | false =>
      rw [hl, if_neg Bool.false_ne_true] at e
      exact ⟨_, e, rfl, rfl, rfl, fun hn => (nomatch hn), fun _ => rfl⟩
  · have hk : fn.1 < 8 := by omega
    refine ⟨_, exec_functionReadyInIorx hs hf he, ?_, fun k hne => ?_⟩
    · exact (getLsbD_or_one_shiftLeft _ hk _).trans (by simp)
    · exact (getLsbD_or_one_shiftLeft _ hk _).trans (by simp [hne])

end Sys2Proof.Machine

namespace Sys2Proof.Machine

/-! ### F3_BLOCK_READ (R428) -/

section SendQueue

variable {s t u : State} {m : List Byte} {rest : List (List Byte)} {n k i j : Nat}

/-- Block `k` of a message, filled up with zeros. -/
def sendBlock (m : List Byte) (k : Nat) : List Byte := padBytes 512 ((m.drop (512 * k)).take 512)

/-- The blocks of a message. -/
def sendBlocks (m : List Byte) : List (List Byte) := (List.range (msgBlocks m)).map (sendBlock m)

theorem length_sendBlocks (m : List Byte) : (sendBlocks m).length = msgBlocks m := by
  rw [sendBlocks, List.length_map, List.length_range]

theorem State.unread_cons (h : s.port.tx = m :: rest) : s.unread = (sendBlocks m ++ rest.flatMap sendBlocks).drop s.port.txDone := by
  rw [← List.flatMap_cons, ← h]
  rfl

theorem State.unread_nil (h : s.port.tx = []) : s.unread = [] := by
  change (s.port.tx.flatMap sendBlocks).drop s.port.txDone = []
  rw [h, List.flatMap_nil, List.drop_nil]

/-- A send queue whose messages all have blocks, and whose first one has not been read to its end. -/
structure SendOk (s : State) : Prop where
  blocks : ∀ m ∈ s.port.tx, 0 < msgBlocks m
  first : ∀ m rest, s.port.tx = m :: rest → s.port.txDone < msgBlocks m
  none : s.port.tx = [] → s.port.txDone = 0

/-- What reading `j` blocks does to the send queue. -/
structure Sends (j : Nat) (s t : State) : Prop where
  read : t.port.txRead = s.port.txRead + BitVec.ofNat 32 j
  unread : t.unread = s.unread.drop j
  suffix : t.port.tx <:+ s.port.tx
  avail : t.port.txAvail = s.port.txAvail
  ok : SendOk t

theorem Sends.refl (h : SendOk s) : Sends 0 s s := ⟨by simp, rfl, List.suffix_rfl, rfl, h⟩

theorem Sends.trans (a : Sends i s t) (b : Sends j t u) : Sends (i + j) s u where
  read := by rw [b.read, a.read, BitVec.ofNat_add, BitVec.add_assoc]
  unread := by rw [b.unread, a.unread, List.drop_drop]
  suffix := b.suffix.trans a.suffix
  avail := b.avail.trans a.avail
  ok := b.ok

/-- The first message after one more of its blocks has been read: it leaves the queue with its last one. -/
def advanceSend (m : List Byte) (rest : List (List Byte)) (s : State) : State :=
  if s.port.txDone + 1 < msgBlocks m then modPort (fun p => { p with txRead := p.txRead + 1, txDone := s.port.txDone + 1 }) s
  else modPort (fun p => { p with txRead := p.txRead + 1, tx := rest, txDone := 0 }) s

theorem readBlock_cons (h : s.port.tx = m :: rest) : readBlock s = (sendBlock m s.port.txDone, advanceSend m rest s) := by
  simp only [readBlock, h, advanceSend]
  rfl

theorem readBlock_nil (h : s.port.tx = []) : readBlock s = (List.replicate 512 0, s) := by
  simp only [readBlock, h]

/-- The next block of the queue is the one at the place of its first message. -/
theorem State.unread_next (h : s.port.tx = m :: rest) (hk : s.port.txDone < msgBlocks m) :
    s.unread = sendBlock m s.port.txDone :: (sendBlocks m ++ rest.flatMap sendBlocks).drop (s.port.txDone + 1) := by
  have hl : s.port.txDone < (sendBlocks m).length := by rwa [length_sendBlocks]
  rw [State.unread_cons h, List.drop_eq_getElem_cons (by rw [List.length_append]; omega), List.getElem_append_left hl]
  simp [sendBlocks]

theorem advanceSend_unread (h : s.port.tx = m :: rest) (hk : s.port.txDone < msgBlocks m) :
    (advanceSend m rest s).unread = (sendBlocks m ++ rest.flatMap sendBlocks).drop (s.port.txDone + 1) := by
  unfold advanceSend
  split
  · exact State.unread_cons h
  · next hlast =>
    have hlen : s.port.txDone + 1 = (sendBlocks m).length := by rw [length_sendBlocks]; omega
    rw [hlen, List.drop_left]
    rfl

theorem advanceSend_ok (ok : SendOk s) (h : s.port.tx = m :: rest) : SendOk (advanceSend m rest s) := by
  unfold advanceSend
  split
  · next hmore =>
    refine ⟨ok.blocks, fun x l hx => ?_, fun hn => ?_⟩
    · obtain ⟨rfl, -⟩ := List.cons.inj (h.symm.trans hx)
      exact hmore
    · cases h.symm.trans hn
  · refine ⟨fun x hx => ok.blocks x ?_, fun x l hx => ok.blocks x ?_, fun _ => rfl⟩
    · exact h ▸ List.mem_cons_of_mem m hx
    · exact h ▸ List.mem_cons_of_mem m ((show rest = x :: l from hx) ▸ List.mem_cons_self)

/-- One block read of a queue that has one. -/
theorem advanceSend_sends (ok : SendOk s) (h : s.port.tx = m :: rest) : Sends 1 s (advanceSend m rest s) := by
  have hk := ok.first m rest h
  refine ⟨?_, ?_, ?_, ?_, advanceSend_ok ok h⟩
  · unfold advanceSend
    split <;> rfl
  · rw [advanceSend_unread h hk, State.unread_next h hk, List.drop_one, List.tail_cons]
  · unfold advanceSend
    split
    · exact List.suffix_rfl
    · exact h ▸ List.suffix_cons m rest
  · unfold advanceSend
    split <;> rfl

/-- Blocks read in order: what the queue holds of them, then zeros (R428). -/
theorem readBlocks_spec (n : Nat) (ok : SendOk s) :
    (readBlocks n s).1 = (s.unread.take n).flatten ++ List.replicate (512 * (n - s.unread.length)) 0 ∧
    Sends (min n s.unread.length) s (readBlocks n s).2 := by
  induction n generalizing s with
  | zero => exact ⟨by simp [readBlocks], by simpa [readBlocks] using Sends.refl ok⟩
  | succ n ih =>
    cases h : s.port.tx with
    | nil =>
      obtain ⟨hbytes, hsends⟩ := ih ok
      have hrun : readBlocks (n + 1) s = (List.replicate 512 0 ++ (readBlocks n s).1, (readBlocks n s).2) := by
        rw [readBlocks, readBlock_nil h]
      rw [State.unread_nil h] at hbytes hsends ⊢
      rw [hrun, hbytes]
      refine ⟨?_, by simpa using hsends⟩
      simp only [List.take_nil, List.flatten_nil, List.nil_append, List.length_nil, Nat.sub_zero, List.replicate_append_replicate]
      congr 1
      omega
    | cons m rest =>
      have step := advanceSend_sends ok h
      obtain ⟨hbytes, hsends⟩ := ih step.ok
      have hrun : readBlocks (n + 1) s = (sendBlock m s.port.txDone ++ (readBlocks n (advanceSend m rest s)).1, (readBlocks n (advanceSend m rest s)).2) := by
        rw [readBlocks, readBlock_cons h]
      have hnext := State.unread_next h (ok.first m rest h)
      rw [← advanceSend_unread h (ok.first m rest h)] at hnext
      rw [hrun, hbytes, hnext]
      refine ⟨by simp, ?_⟩
      have both := step.trans hsends
      rw [Nat.add_comm] at both
      rw [List.length_cons, Nat.succ_min_succ]
      exact both

theorem exec_f3BlockRead (h : s.selected = true) (hb : s.port.card.fbr.get 3 = 512) : exec (.f3BlockRead n k) s =
    .next (respond (readBlocks k (s.at n)).1 false (readBlocks k (s.at n)).2) :=
  if_pos (by simp [h, hb])

/-- A read past the queue's end leaves it empty, as one to its end does. -/
theorem drop_min_length {α : Type} (k : Nat) (l : List α) : l.drop (min k l.length) = l.drop k := by
  rcases Nat.le_total k l.length with h | h
  · rw [Nat.min_eq_left h]
  · rw [Nat.min_eq_right h, List.drop_length, List.drop_eq_nil_of_le h]

/-- HF_TX_AVAIL bounds what is left. -/
theorem Sends.bounded (h : Sends j s t) (hj : j ≤ s.unread.length) (ha : s.port.txAvail = s.port.txRead + BitVec.ofNat 32 s.unread.length) :
    t.port.txAvail = t.port.txRead + BitVec.ofNat 32 t.unread.length := by
  have hlen : s.unread.length = j + (s.unread.length - j) := by omega
  rw [h.avail, h.read, h.unread, List.length_drop, ha, BitVec.add_assoc, ← BitVec.ofNat_add, ← hlen]

end SendQueue

/-- Settles O52: a read of several blocks is one of its first block and one of the others, and each block read leaves the queue in form. -/
theorem sendQueueReads : Obligations.SendQueueReads := by
  intro n k s hsel hfbr hblocks hfirst hnone
  have ok : SendOk (s.at n) := ⟨hblocks, hfirst, hnone⟩
  obtain ⟨hbytes, hsends⟩ := readBlocks_spec k ok
  refine ⟨_, exec_f3BlockRead hsel hfbr, hbytes, hsends.read, hsends.unread.trans (drop_min_length k s.unread), hsends.suffix,
    hsends.ok.first, hsends.ok.none, fun ha => ⟨hsends.avail, hsends.bounded (Nat.min_le_right _ _) ha⟩⟩

end Sys2Proof.Machine

namespace Sys2Proof.Machine

/-! ### The end of an update (R417, R418) -/

section UpdateEnds

variable {s t u : State} {m : Msg} {n detail : Nat}

theorem interruptUpdate_unsent (detail : Nat) (s : State) : Unsent s (interruptUpdate detail s) := by
  unfold interruptUpdate enterBlank setState
  split <;> exact ⟨rfl, rfl, rfl⟩

theorem interruptUpdate_ufs (detail : Nat) (s : State) : (interruptUpdate detail s).ufs = s.ufs :=
  (interruptUpdate_apart (m := fun f => decide (f ≠ .ufs)) rfl rfl rfl rfl (.refl _ s)).same .ufs rfl

/-- The causes that an interrupted update shows, its event and the unit that it leaves (R418). -/
theorem interruptUpdate_blank (detail : Nat) (s : State) : (interruptUpdate detail s).dev.st = .blank ∧
    (interruptUpdate detail s).dev.cause = 0x0D#8 ∧ (interruptUpdate detail s).dev.detail = BitVec.ofNat 8 detail ∧
    (interruptUpdate detail s).upd.active = false ∧ Newest (interruptUpdate detail s) 0x0909 idSecurity detail := by
  obtain ⟨hst, hcause, hdetail, hoff, -, hnew⟩ := interruptUpdate_spec detail s
  exact ⟨hst, hcause, hdetail, hoff, hnew⟩

/-- A section's state that ends its part of the update. -/
abbrev SecState.settled (y : SecState) : Prop := y = .kept ∨ y = .written

theorem settleUpdate_pending {y : SecState} (hy : y ∈ s.upd.states) (h : ¬y.settled) : settleUpdate s = s := by
  refine if_neg fun hc => h ?_
  have hall := List.all_eq_true.1 (Bool.and_eq_true_iff.1 hc).2 y hy
  exact of_decide_eq_true hall

theorem settleUpdate_done (ha : s.upd.active = true) (h : ∀ y ∈ s.upd.states, y.settled) : settleUpdate s = completeUpdate s :=
  if_pos (Bool.and_eq_true_iff.2 ⟨ha, List.all_eq_true.2 fun y hy => decide_eq_true (h y hy)⟩)

/-- The key and the rollback of the update, judged once more at its end (R417). -/
def State.updateHolds (s : State) : Bool :=
  keyAccepted s.fuses.settled s.ident.rootDigest (u8 s.upd.colophon 8) (sub s.upd.colophon 80 32) &&
    decide (s.fuses.settled.rollback ≤ (readHeader s.upd.dir).rollback)

theorem completeUpdate_refused (h : s.updateHolds = false) : completeUpdate s = interruptUpdate 4 s := by
  refine if_pos ?_
  rcases Bool.and_eq_false_iff.1 h with hk | hr
  · exact .inl hk
  · exact .inr (Nat.not_le.1 (of_decide_eq_false hr))

/-- The colophon goes to the image's end, and the part resets. -/
theorem completeUpdate_accepted (h : s.updateHolds = true) : (completeUpdate s).dev.st = .reset ∧
    (completeUpdate s).ufs = cellsWrite s.ufs (u64 s.upd.dir 16 - 4096) s.upd.colophon ∧ (completeUpdate s).upd.active = false := by
  obtain ⟨hk, hr⟩ := Bool.and_eq_true_iff.1 h
  have e : completeUpdate s = _ := if_neg fun hc => hc.elim (fun hn => absurd (hk.symm.trans hn) (by decide)) (Nat.not_lt.2 (of_decide_eq_true hr))
  rw [e]
  exact ⟨rfl, rfl, rfl⟩

theorem exec_updateIdleTimeout (ha : s.upd.active = true) (h : s.upd.last + us 60000000 ≤ (s.at n).now) :
    exec (.updateIdleTimeout n) s = .next (interruptUpdate 2 (s.at n)) :=
  congrArg Host.Outcome.next (if_pos (Bool.and_eq_true_iff.2 ⟨ha, decide_eq_true h⟩))

theorem exec_updateIdleTimeout_none (h : s.upd.active = false ∨ (s.at n).now < s.upd.last + us 60000000) :
    exec (.updateIdleTimeout n) s = .next (s.at n) := by
  refine congrArg Host.Outcome.next (if_neg fun hc => ?_)
  obtain ⟨ha, ht⟩ := Bool.and_eq_true_iff.1 hc
  exact h.elim (fun hn => absurd (ha.symm.trans hn) (by decide)) (Nat.not_lt.2 (of_decide_eq_true ht))

end UpdateEnds

/-! ### MAINTENANCE_END (R418) -/

section MaintenanceEnd

variable {s t u : State} {m : Msg} {n : Nat}

/-- What follows a reply leaves it, while nothing joins or leaves the queues. -/
theorem Replies.later {sess : W32} {status : Nat} {fields : List Byte} {new : List LogRec} (h : Replies s t m sess status fields)
    (hp : Unsent t u) (hl : LogGrows t u new) : Replies s u m sess status fields := by
  obtain ⟨htx, hready, hseq, hlog⟩ := h
  exact ⟨hp.tx ▸ htx, hp.ready.trans hready, hp.seq.trans hseq, hlog.later hl⟩

theorem handOn_maintaining (hs : s.dev.st = .maintenance) : State.maintaining (handOn m (s.at n)).2 = true := decide_eq_true hs

/-- MAINTENANCE ends in a reset, or interrupts its update. -/
def endMaintenance (q : Request) (s : State) : State :=
  if s.upd.active then interruptUpdate 1 (refuse q stOk s) else softReset (refuse q stOk s)

theorem endMaintenance_reset {q : Request} (h : s.upd.active = false) : endMaintenance q s = softReset (refuse q stOk s) :=
  if_neg (Bool.eq_false_iff.1 h)

theorem endMaintenance_interrupts {q : Request} (h : s.upd.active = true) : endMaintenance q s = interruptUpdate 1 (refuse q stOk s) :=
  if_pos h

theorem exec_maintenanceEnd (hv : s.versionOk m = true) (hs : s.dev.st = .maintenance) (h : s.head? (fun x => x = 0x0022) = some m) :
    exec (.maintenanceEnd n) s = .next (endMaintenance (handOn m (s.at n)).1 (handOn m (s.at n)).2) :=
  congrArg Host.Outcome.next (onMessage_accepted (s := s.at n) endMaintenance h hv (handOn_maintaining hs))

theorem softReset_resetTo {w : State} (hid : w.ident = s.ident) (hufs : w.ufs = s.ufs) (hcap : w.ufsCap = s.ufsCap) :
    ResetTo s (softReset w) := resetWith_resetTo hid hufs hcap { w.chip.cleared with resetN := false, ufsRst := false }

theorem completes_maintenanceEnd_reset (hv : s.versionOk m = true) (hs : s.dev.st = .maintenance) (h : s.head? (fun x => x = 0x0022) = some m)
    (ha : s.upd.active = false) :
    Completes (.maintenanceEnd n) s fun t => ResetTo s t ∧ t.dev.st = .reset ∧ t.chip.resetN = false := by
  have e := exec_maintenanceEnd (n := n) hv hs h
  rw [endMaintenance_reset (s := (handOn m (s.at n)).2) ha] at e
  exact ⟨_, e, softReset_resetTo rfl rfl rfl, rfl, rfl⟩

theorem completes_maintenanceEnd_interrupts (hv : s.versionOk m = true) (hs : s.dev.st = .maintenance)
    (h : s.head? (fun x => x = 0x0022) = some m) (ha : s.upd.active = true) :
    Completes (.maintenanceEnd n) s fun t => Replies s t m m.session stOk [] ∧ t.dev.st = .blank ∧ t.dev.cause = 0x0D#8 ∧ t.dev.detail = 1 ∧
      t.upd.active = false ∧ Newest t 0x0909 idSecurity 1 := by
  have e := exec_maintenanceEnd (n := n) hv hs h
  rw [endMaintenance_interrupts (s := (handOn m (s.at n)).2) ha] at e
  have replied := (handOn_handedOn m (s.at n)).refused stOk
  generalize refuse (handOn m (s.at n)).1 stOk (handOn m (s.at n)).2 = w at e replied
  obtain ⟨_, grows⟩ := (interruptUpdate_inCue (a1 := 1) (.refl w)).log
  exact ⟨_, e, replied.later (interruptUpdate_unsent 1 w) grows, interruptUpdate_blank 1 w⟩

end MaintenanceEnd

end Sys2Proof.Machine

namespace Sys2Proof.Machine

/-! ### UPDATE_DIRECTORY (R414, R415) -/

section UpdateDirectory

variable {s u : State} {q : Request} {m : Msg} {n : Nat} {dir : List Byte}

/-- The idle time of an update runs anew. -/
def touchUpdate (s : State) : State := { s with upd := { s.upd with last := s.now } }

theorem exec_updateDirectory (hv : s.versionOk m = true) (hs : s.dev.st = .maintenance) (h : s.head? (fun x => x = 0x0023) = some m) :
    exec (.updateDirectory n) s = .next (updateDirectory (handOn m (s.at n)).1 (handOn m (s.at n)).2) :=
  congrArg Host.Outcome.next (onMessage_accepted (s := s.at n) updateDirectory h hv (handOn_maintaining hs))

theorem updateDirectory_active (h : u.upd.active = true) : updateDirectory q u = refuse q stState (touchUpdate u) := if_pos h

theorem updateDirectory_short (h : u.upd.active = false) (hl : q.payload.length < 4096 ∨ q.payload.length < dirLength q.payload + 4096) :
    updateDirectory q u = refuse q stInvalid u :=
  (if_neg (Bool.eq_false_iff.1 h)).trans (if_pos hl)

/-- The directory of a message and the colophon behind it, judged by checks 1 to 4. -/
def directoryChecks (q : Request) (s : State) : Option (Nat × Nat) :=
  checks1to4 s.fuses.settled s.ident.rootDigest (q.payload.take (dirLength q.payload)) (sub q.payload (dirLength q.payload) 4096)

theorem updateDirectory_refused {c d : Nat} (h : u.upd.active = false) (h1 : 4096 ≤ q.payload.length)
    (h2 : dirLength q.payload + 4096 ≤ q.payload.length) (hc : directoryChecks q u = some (c, d)) :
    updateDirectory q u = refuse q (updateStatus c) u := by
  have hl : ¬(q.payload.length < 4096 ∨ q.payload.length < dirLength q.payload + 4096) := by omega
  unfold directoryChecks at hc
  simp only [updateDirectory, h, Bool.false_eq_true, if_false, hl, hc]

/-- The answer to a directory that begins an update: how many sections are needed, and how many kept. -/
def answerBegun (q : Request) (s : State) : State := reply q stOk (natLe 1 s.upd.needed ++ natLe 1 s.upd.kept) s

theorem updateDirectory_begins (h : u.upd.active = false) (h1 : 4096 ≤ q.payload.length) (h2 : dirLength q.payload + 4096 ≤ q.payload.length)
    (hc : directoryChecks q u = none) : updateDirectory q u =
      answerBegun q (beginUpdate (q.payload.take (dirLength q.payload)) (sub q.payload (dirLength q.payload) 4096) u) := by
  have hl : ¬(q.payload.length < 4096 ∨ q.payload.length < dirLength q.payload + 4096) := by omega
  unfold directoryChecks at hc
  simp only [updateDirectory, h, Bool.false_eq_true, if_false, hl, hc, answerBegun]

/-- An update that begins: its directory stands in the unit, the old colophon is erased, and no section has been kept or written yet. -/
theorem beginUpdate_spec (dir col : List Byte) (s : State) : (beginUpdate dir col s).upd.active = true ∧ (beginUpdate dir col s).upd.dir = dir ∧
    (beginUpdate dir col s).upd.sections = readSections dir ∧ (beginUpdate dir col s).upd.colophon = col ∧
    (∀ x ∈ (beginUpdate dir col s).upd.states, x = .candidate ∨ x = .needed) ∧
    (beginUpdate dir col s).ufs = cellsWrite (if headerValid (cellsRead s.ufs 0 4096) then
      cellsWrite s.ufs (u64 (cellsRead s.ufs 0 4096) 16 - 4096) (List.replicate 4096 0) else s.ufs) 0 dir := by
  refine ⟨rfl, rfl, rfl, rfl, fun x hx => ?_, ?_⟩
  · obtain ⟨y, -, rfl⟩ := List.mem_map.1 hx
    exact ite_eq_or_eq _ _ _
  · by_cases hv : headerValid (cellsRead s.ufs 0 4096) = true <;> simp only [beginUpdate, hv, if_true, if_false, Bool.false_eq_true]

theorem completes_updateDirectory_begins (hv : s.versionOk m = true) (hs : s.dev.st = .maintenance) (h : s.head? (fun x => x = 0x0023) = some m)
    (ha : s.upd.active = false) (h1 : 4096 ≤ m.payload.length) (h2 : dirLength m.payload + 4096 ≤ m.payload.length)
    (hdir : dir = m.payload.take (dirLength m.payload))
    (hc : checks1to4 s.fuses.settled s.ident.rootDigest dir (sub m.payload (dirLength m.payload) 4096) = none) :
    Completes (.updateDirectory n) s fun t => t.upd.active = true ∧ t.upd.dir = dir ∧ t.upd.sections = readSections dir ∧
      t.upd.colophon = sub m.payload (dirLength m.payload) 4096 ∧ (∀ x ∈ t.upd.states, x = .candidate ∨ x = .needed) ∧
      t.ufs = cellsWrite (if headerValid (cellsRead s.ufs 0 4096) then
        cellsWrite s.ufs (u64 (cellsRead s.ufs 0 4096) 16 - 4096) (List.replicate 4096 0) else s.ufs) 0 dir := by
  subst hdir
  have e := updateDirectory_begins (q := (handOn m (s.at n)).1) (u := (handOn m (s.at n)).2) ha h1 h2 hc
  exact ⟨_, (exec_updateDirectory hv hs h).trans (congrArg _ e), beginUpdate_spec _ _ _⟩

theorem completes_updateDirectory_refused {c d : Nat} (hv : s.versionOk m = true) (hs : s.dev.st = .maintenance)
    (h : s.head? (fun x => x = 0x0023) = some m) (ha : s.upd.active = false) (h1 : 4096 ≤ m.payload.length)
    (h2 : dirLength m.payload + 4096 ≤ m.payload.length) (hdir : dir = m.payload.take (dirLength m.payload))
    (hc : checks1to4 s.fuses.settled s.ident.rootDigest dir (sub m.payload (dirLength m.payload) 4096) = some (c, d)) :
    Completes (.updateDirectory n) s fun t => Replies s t m m.session (updateStatus c) [] ∧ t.ufs = s.ufs ∧ t.upd = s.upd := by
  subst hdir
  have e := updateDirectory_refused (q := (handOn m (s.at n)).1) (u := (handOn m (s.at n)).2) ha h1 h2 hc
  exact ⟨_, (exec_updateDirectory hv hs h).trans (congrArg _ e), (handOn_handedOn m (s.at n)).refused _, rfl, rfl⟩

theorem completes_updateDirectory_short (hv : s.versionOk m = true) (hs : s.dev.st = .maintenance) (h : s.head? (fun x => x = 0x0023) = some m)
    (ha : s.upd.active = false) (hl : m.payload.length < 4096 ∨ m.payload.length < dirLength m.payload + 4096) :
    Completes (.updateDirectory n) s fun t => Replies s t m m.session stInvalid [] ∧ t.ufs = s.ufs ∧ t.upd = s.upd := by
  have e := updateDirectory_short (q := (handOn m (s.at n)).1) (u := (handOn m (s.at n)).2) ha hl
  exact ⟨_, (exec_updateDirectory hv hs h).trans (congrArg _ e), (handOn_handedOn m (s.at n)).refused _, rfl, rfl⟩

theorem touchUpdate_handedOn (h : HandedOn s u m) : HandedOn s (touchUpdate u) m := h.after (.of_port rfl) (.same rfl)

theorem completes_updateDirectory_active (hv : s.versionOk m = true) (hs : s.dev.st = .maintenance) (h : s.head? (fun x => x = 0x0023) = some m)
    (ha : s.upd.active = true) : Completes (.updateDirectory n) s fun t => Replies s t m m.session stState [] ∧ t.ufs = s.ufs ∧
      t.upd = { s.upd with last := (s.at n).now } := by
  have e := updateDirectory_active (q := (handOn m (s.at n)).1) (u := (handOn m (s.at n)).2) ha
  exact ⟨_, (exec_updateDirectory hv hs h).trans (congrArg _ e), (touchUpdate_handedOn (handOn_handedOn m (s.at n))).refused _, rfl, rfl⟩

end UpdateDirectory

/-! ### UPDATE_DATA (R416) -/

section UpdateData

variable {s u : State} {q : Request} {m : Msg} {n : Nat} {x : Section}

theorem exec_updateData (hv : s.versionOk m = true) (hs : s.dev.st = .maintenance) (h : s.head? (fun x => x = 0x0024) = some m) :
    exec (.updateData n) s = .next (updateData (handOn m (s.at n)).1 (handOn m (s.at n)).2) :=
  congrArg Host.Outcome.next (onMessage_accepted (s := s.at n) updateData h hv (handOn_maintaining hs))

/-- The section that a message's bytes are for, the bytes, and how many of the section have come before. -/
def Request.place (q : Request) : Nat := u8 q.payload 0
def Request.chunk (q : Request) : List Byte := q.payload.drop 16
def State.got (s : State) (i : Nat) : Nat := s.upd.received.getD i 0

/-- What the fields of a message, its length among them, have wrong for a section. -/
def MisfitsSection (q : Request) (x : Section) (s : State) : Prop :=
  q.payload.length < 16 ∨ s.upd.active = false ∨ zeros q.payload 1 8 = false ∨ u64 q.payload 8 ≠ s.got q.place ∨
    x.length < s.got q.place + q.chunk.length ∨ (q.chunk.length % 4096 ≠ 0 ∧ s.got q.place + q.chunk.length ≠ x.length)

/-- A message's bytes are written behind those of its section that have come before, and counted. -/
def storeChunk (q : Request) (x : Section) (s : State) : State :=
  hashed q.chunk.length { s with
    ufs := cellsWrite s.ufs (x.offset + u64 q.payload 8) q.chunk
    upd := { s.upd with received := s.upd.received.set q.place (s.got q.place + q.chunk.length) } }

/-- A section whose bytes have all come and whose digest matches is written. -/
def sectionWritten (i : Nat) (s : State) : State := logEvent 0x0906 idSecurity i (setSec i .written s)

/-- A section is answered by what it has of its bytes, and at its end by its digest. -/
def answerChunk (q : Request) (x : Section) (got : Nat) (s : State) : State :=
  if got < x.length then reply q stOk (natLe 8 got) s
  else if x.hash s.ufs = x.digest then settleUpdate (reply q stOk (natLe 8 got) (sectionWritten q.place s))
  else refuse q stDigest { s with upd := { s.upd with received := s.upd.received.set q.place 0 } }

theorem updateData_needed (hx : u.upd.sections[q.place]? = some x) (hn : u.upd.states[q.place]? = some .needed) (h : ¬MisfitsSection q x u) :
    updateData q u = answerChunk q x (u.got q.place + q.chunk.length) (storeChunk q x (touchUpdate u)) := by
  unfold Request.place at hx hn
  simp only [updateData, hx, hn]
  exact if_neg h

theorem updateData_misfit (hx : u.upd.sections[q.place]? = some x) (hn : u.upd.states[q.place]? = some .needed) (h : MisfitsSection q x u) :
    updateData q u = refuse q stInvalid (touchUpdate u) := by
  unfold Request.place at hx hn
  simp only [updateData, hx, hn]
  exact if_pos h

/-- Bytes for no section, or for one that is not needed, are not taken. -/
theorem updateData_unneeded (h : u.upd.sections[q.place]? = none ∨ u.upd.states[q.place]? ≠ some .needed) :
    updateData q u = refuse q stInvalid (touchUpdate u) := by
  unfold updateData
  dsimp only
  split
  · next hx hn => exact (h.elim (fun h => nomatch h.symm.trans hx) (absurd hn ·))
  · rfl

/-- Whatever is wrong with a message's place, its fields or its length, its bytes are not taken. -/
theorem updateData_rejects (h : u.upd.sections[q.place]? = none ∨ u.upd.states[q.place]? ≠ some .needed ∨ q.payload.length < 16 ∨
    u.upd.active = false ∨ zeros q.payload 1 8 = false ∨ u64 q.payload 8 ≠ u.got q.place ∨ ∃ x, u.upd.sections[q.place]? = some x ∧
      (x.length < u.got q.place + q.chunk.length ∨ (q.chunk.length % 4096 ≠ 0 ∧ u.got q.place + q.chunk.length ≠ x.length))) :
    updateData q u = refuse q stInvalid (touchUpdate u) := by
  by_cases hn : u.upd.states[q.place]? = some .needed
  · cases hx : u.upd.sections[q.place]? with
    | none => exact updateData_unneeded (.inl hx)
    | some x =>
      refine updateData_misfit hx hn ?_
      rcases h with h | h | h | h | h | h | ⟨y, hy, h⟩
      · cases hx.symm.trans h
      · exact absurd hn h
      · exact .inl h
      · exact .inr (.inl h)
      · exact .inr (.inr (.inl h))
      · exact .inr (.inr (.inr (.inl h)))
      · obtain rfl : x = y := Option.some.inj (hx.symm.trans hy)
        exact .inr (.inr (.inr (.inr h)))
  · exact updateData_unneeded (.inr hn)

theorem not_misfitsSection (h16 : 16 ≤ q.payload.length) (ha : s.upd.active = true) (hz : zeros q.payload 1 8 = true)
    (ho : u64 q.payload 8 = s.got q.place) (hl : s.got q.place + q.chunk.length ≤ x.length)
    (hm : q.chunk.length % 4096 = 0 ∨ s.got q.place + q.chunk.length = x.length) : ¬MisfitsSection q x s := by
  rintro (h | h | h | h | h | ⟨h, h'⟩)
  · omega
  · cases ha.symm.trans h
  · cases hz.symm.trans h
  · exact h ho
  · omega
  · exact hm.elim h h'

/-- The next bytes of a needed section, as its place, length and position have them. -/
structure NextChunk (m : Msg) (s : State) (x : Section) : Prop where
  active : s.upd.active = true
  section_ : s.upd.sections[u8 m.payload 0]? = some x
  needed : s.upd.states[u8 m.payload 0]? = some .needed
  head : 16 ≤ m.payload.length
  zeros_ : zeros m.payload 1 8 = true
  next : u64 m.payload 8 = s.got (u8 m.payload 0)

variable {got : Nat} {data : List Byte}

/-- The state in which a chunk's answer is formed, from the one in which its message acts. -/
def chunkStored (m : Msg) (x : Section) (s : State) : State := storeChunk (handOn m s).1 x (touchUpdate (handOn m s).2)

theorem exec_updateData_next (hv : s.versionOk m = true) (hs : s.dev.st = .maintenance) (h : s.head? (fun x => x = 0x0024) = some m)
    (c : NextChunk m s x) (hg : got = s.got (u8 m.payload 0)) (hd : data = m.payload.drop 16) (hl : got + data.length ≤ x.length)
    (hm : data.length % 4096 = 0 ∨ got + data.length = x.length) :
    exec (.updateData n) s = .next (answerChunk (handOn m (s.at n)).1 x (got + data.length) (chunkStored m x (s.at n))) := by
  subst hg hd
  have fits : ¬MisfitsSection (handOn m (s.at n)).1 x (handOn m (s.at n)).2 :=
    not_misfitsSection c.head c.active c.zeros_ c.next hl hm
  exact (exec_updateData hv hs h).trans (congrArg _ (updateData_needed c.section_ c.needed fits))

theorem chunkStored_handedOn (m : Msg) (x : Section) (s : State) : HandedOn s (chunkStored m x s) m :=
  (touchUpdate_handedOn (handOn_handedOn m s)).after (.of_port rfl) (.same rfl)

theorem chunkStored_ufs (c : NextChunk m s x) (n : Nat) :
    (chunkStored m x (s.at n)).ufs = cellsWrite s.ufs (x.offset + s.got (u8 m.payload 0)) (m.payload.drop 16) := by
  rw [← c.next]
  rfl

theorem answerChunk_more (h : got < x.length) : answerChunk q x got s = reply q stOk (natLe 8 got) s := if_pos h

theorem answerChunk_wrong (h : ¬got < x.length) (hd : x.hash s.ufs ≠ x.digest) : answerChunk q x got s =
    refuse q stDigest { s with upd := { s.upd with received := s.upd.received.set q.place 0 } } := (if_neg h).trans (if_neg hd)

theorem answerChunk_written (h : ¬got < x.length) (hd : x.hash s.ufs = x.digest) : answerChunk q x got s =
    settleUpdate (reply q stOk (natLe 8 got) (sectionWritten q.place s)) := (if_neg h).trans (if_pos hd)

/-- A section that goes on. -/
theorem completes_updateData_more (hv : s.versionOk m = true) (hs : s.dev.st = .maintenance) (h : s.head? (fun x => x = 0x0024) = some m)
    (c : NextChunk m s x) (hg : got = s.got (u8 m.payload 0)) (hd : data = m.payload.drop 16) (hl : got + data.length < x.length)
    (hm : data.length % 4096 = 0) : Completes (.updateData n) s fun t => Replies s t m m.session stOk (natLe 8 (got + data.length)) ∧
      t.ufs = cellsWrite s.ufs (x.offset + got) data ∧ t.upd.last = (s.at n).now ∧
      t.upd.received = s.upd.received.set (u8 m.payload 0) (got + data.length) ∧ t.upd.states = s.upd.states := by
  have e := exec_updateData_next (n := n) hv hs h c hg hd hl.le (.inl hm)
  rw [answerChunk_more hl] at e
  subst hg hd
  exact ⟨_, e, (chunkStored_handedOn m x (s.at n)).answered _, chunkStored_ufs c n, rfl, rfl, rfl⟩

/-- A section at its end, whose digest does not match, is asked for again. -/
theorem completes_updateData_wrong (hv : s.versionOk m = true) (hs : s.dev.st = .maintenance) (h : s.head? (fun x => x = 0x0024) = some m)
    (c : NextChunk m s x) (hg : got = s.got (u8 m.payload 0)) (hd : data = m.payload.drop 16) (hl : got + data.length = x.length)
    (hw : x.hash (cellsWrite s.ufs (x.offset + got) data) ≠ x.digest) :
    Completes (.updateData n) s fun t => Replies s t m m.session stDigest [] ∧ t.ufs = cellsWrite s.ufs (x.offset + got) data ∧
      t.upd.states = s.upd.states ∧ t.upd.active = true := by
  have e := exec_updateData_next (n := n) hv hs h c hg hd hl.le (.inr hl)
  subst hg hd
  have hufs := chunkStored_ufs c n
  rw [answerChunk_wrong hl.not_lt (by rw [hufs]; exact hw)] at e
  have asked := (chunkStored_handedOn m x (s.at n)).after (u' := { chunkStored m x (s.at n) with upd := { (chunkStored m x (s.at n)).upd with
    received := (chunkStored m x (s.at n)).upd.received.set (handOn m (s.at n)).1.place 0 } }) (.of_port rfl) (.same rfl)
  exact ⟨_, e, asked.refused stDigest, hufs, rfl, c.active⟩

/-- Another section that is not settled yet stays so when one is. -/
theorem mem_states_set {l : List SecState} {i j : Nat} {y z : SecState} (hj : j ≠ i) (h : l[j]? = some y) : y ∈ l.set i z :=
  List.mem_of_getElem? ((List.getElem?_set_ne hj.symm).trans h)

/-- An answer leaves an update that goes on. -/
theorem settleUpdate_reply_pending {y : SecState} (q : Request) (status : Nat) (fields : List Byte) (hy : y ∈ s.upd.states) (h : ¬y.settled) :
    settleUpdate (reply q status fields s) = reply q status fields s := settleUpdate_pending (s := reply q status fields s) hy h

/-- A section at its end, whose digest matches, is written; the update goes on while another section is not settled. -/
theorem completes_updateData_written (hv : s.versionOk m = true) (hs : s.dev.st = .maintenance) (h : s.head? (fun x => x = 0x0024) = some m)
    (c : NextChunk m s x) (hg : got = s.got (u8 m.payload 0)) (hd : data = m.payload.drop 16) (hl : got + data.length = x.length)
    (hw : x.hash (cellsWrite s.ufs (x.offset + got) data) = x.digest)
    (hp : ∃ j y, j ≠ u8 m.payload 0 ∧ s.upd.states[j]? = some y ∧ y ≠ .kept ∧ y ≠ .written) :
    Completes (.updateData n) s fun t => Replies s t m m.session stOk (natLe 8 x.length) ∧ Logs s t 0x0906 idSecurity (u8 m.payload 0) ∧
      t.ufs = cellsWrite s.ufs (x.offset + got) data ∧ t.upd.states = s.upd.states.set (u8 m.payload 0) .written := by
  have e := exec_updateData_next (n := n) hv hs h c hg hd hl.le (.inr hl)
  subst hg hd
  have hufs := chunkStored_ufs c n
  rw [answerChunk_written hl.not_lt (by rw [hufs]; exact hw), hl] at e
  obtain ⟨j, y, hj, hy, hk, hwr⟩ := hp
  have others : y ∈ (sectionWritten (handOn m (s.at n)).1.place (chunkStored m x (s.at n))).upd.states := mem_states_set hj hy
  have ho := chunkStored_handedOn m x (s.at n)
  obtain ⟨_, grows, -⟩ := id ho.log
  have noted := ho.logEvent (u' := setSec (u8 m.payload 0) .written (chunkStored m x (s.at n))) 0x0906 idSecurity (u8 m.payload 0) rfl rfl
  rw [settleUpdate_reply_pending _ _ _ others (not_or.2 ⟨hk, hwr⟩)] at e
  refine ⟨_, e, noted.answered _, ?_, hufs, rfl⟩
  exact (logEvent_logs 0x0906 idSecurity (u8 m.payload 0) (setSec (u8 m.payload 0) .written (chunkStored m x (s.at n)))).earlier grows

theorem completes_updateData_invalid (hv : s.versionOk m = true) (hs : s.dev.st = .maintenance) (h : s.head? (fun x => x = 0x0024) = some m)
    (e : updateData (handOn m (s.at n)).1 (handOn m (s.at n)).2 = refuse (handOn m (s.at n)).1 stInvalid (touchUpdate (handOn m (s.at n)).2)) :
    Completes (.updateData n) s fun t => Replies s t m m.session stInvalid [] ∧ t.ufs = s.ufs ∧ t.upd.states = s.upd.states :=
  ⟨_, (exec_updateData hv hs h).trans (congrArg _ e), (touchUpdate_handedOn (handOn_handedOn m (s.at n))).refused _, rfl, rfl⟩

end UpdateData

/-! ### UPDATE_KEEP_VERIFIED (R415, R417) -/

section KeepVerified

variable {s : State} {n : Nat} {pos : Fin 256} {x : Section}

theorem exec_updateKeepVerified_none (h : s.upd.active = false ∨ s.upd.states[pos.1]? ≠ some .candidate ∨ s.upd.sections[pos.1]? = none) :
    exec (.updateKeepVerified n pos) s = .next (s.at n) := by
  change execUpdateKeepVerified n pos s = _
  unfold execUpdateKeepVerified
  dsimp only
  split
  · next hc hx =>
    split at hc
    · next ha => exact (h.elim (fun h => absurd (ha.symm.trans h) (by decide)) fun h => h.elim (absurd hc ·) fun h => nomatch h.symm.trans hx)
    · cases hc
  · rfl

/-- A candidate that has been read back is kept, or needed after all. -/
def candidateKept (pos : Fin 256) (x : Section) (s : State) : State := logEvent 0x0907 idSecurity pos.1 (setSec pos.1 .kept (hashed x.length s))
def candidateNeeded (pos : Fin 256) (x : Section) (s : State) : State := setSec pos.1 .needed (hashed x.length s)

theorem exec_updateKeepVerified (ha : s.upd.active = true) (hc : s.upd.states[pos.1]? = some .candidate)
    (hx : s.upd.sections[pos.1]? = some x) : exec (.updateKeepVerified n pos) s =
    if x.hash s.ufs = x.digest then .next (settleUpdate (candidateKept pos x (s.at n))) else .next (candidateNeeded pos x (s.at n)) := by
  change execUpdateKeepVerified n pos s = _
  simp only [execUpdateKeepVerified, State.at_upd, ha, hc, hx, if_true]
  rfl

theorem completes_updateKeepVerified_needed (ha : s.upd.active = true) (hc : s.upd.states[pos.1]? = some .candidate)
    (hx : s.upd.sections[pos.1]? = some x) (hd : x.hash s.ufs ≠ x.digest) : Completes (.updateKeepVerified n pos) s fun t =>
      t.upd.states = s.upd.states.set pos.1 .needed ∧ t.ufs = s.ufs ∧ t.log = s.log :=
  ⟨_, (exec_updateKeepVerified ha hc hx).trans (if_neg hd), rfl, rfl, rfl⟩

theorem completes_updateKeepVerified_kept (ha : s.upd.active = true) (hc : s.upd.states[pos.1]? = some .candidate)
    (hx : s.upd.sections[pos.1]? = some x) (hd : x.hash s.ufs = x.digest)
    (hp : ∃ j y, j ≠ pos.1 ∧ s.upd.states[j]? = some y ∧ y ≠ .kept ∧ y ≠ .written) : Completes (.updateKeepVerified n pos) s fun t =>
      t.upd.states = s.upd.states.set pos.1 .kept ∧ Newest t 0x0907 idSecurity pos.1 ∧ t.ufs = s.ufs := by
  obtain ⟨j, y, hj, hy, hk, hw⟩ := hp
  have others : y ∈ (candidateKept pos x (s.at n)).upd.states := mem_states_set hj hy
  have e := (exec_updateKeepVerified (n := n) ha hc hx).trans (if_pos hd)
  rw [settleUpdate_pending others (not_or.2 ⟨hk, hw⟩)] at e
  exact ⟨_, e, rfl, logEvent_newest _ _ _ _, rfl⟩

/-- Once the others are settled, the last section that is kept settles the update. -/
theorem settled_states_set {l : List SecState} {i : Nat} (h : ∀ j y, j ≠ i → l[j]? = some y → y.settled) :
    ∀ y ∈ l.set i .kept, y.settled := by
  intro y hy
  obtain ⟨j, hj⟩ := List.mem_iff_getElem?.1 hy
  by_cases hi : j = i
  · subst hi
    obtain ⟨z, -, rfl⟩ := Option.map_eq_some_iff.1 ((List.getElem?_set_self' ..).symm.trans hj)
    exact .inl rfl
  · exact h j y hi ((List.getElem?_set_ne (Ne.symm hi)).symm.trans hj)

theorem exec_updateKeepVerified_last (ha : s.upd.active = true) (hc : s.upd.states[pos.1]? = some .candidate)
    (hx : s.upd.sections[pos.1]? = some x) (hd : x.hash s.ufs = x.digest)
    (h : ∀ j y, j ≠ pos.1 → s.upd.states[j]? = some y → y = .kept ∨ y = .written) :
    exec (.updateKeepVerified n pos) s = .next (completeUpdate (candidateKept pos x (s.at n))) := by
  rw [exec_updateKeepVerified ha hc hx, if_pos hd, settleUpdate_done (s := candidateKept pos x (s.at n)) ha (settled_states_set h)]

end KeepVerified

/-- Settles O58: each update message acts on the state it is handed on in; the two ways to settle a section meet in the end of the update. -/
theorem updatesWriteAfterChecks : Obligations.UpdatesWriteAfterChecks := by
  refine ⟨fun n m s hv hs => ⟨fun h => ⟨completes_updateDirectory_active hv hs h, completes_updateDirectory_short hv hs h,
      fun dir ha h1 h2 hdir => ⟨completes_updateDirectory_begins hv hs h ha h1 h2 hdir,
        fun c d => completes_updateDirectory_refused hv hs h ha h1 h2 hdir⟩⟩,
      fun h i data hi hd => ⟨fun x got ufs ha hx hn hg h16 hz ho hufs => ?_, fun hbad => ?_⟩,
      fun h => ⟨completes_maintenanceEnd_reset hv hs h, completes_maintenanceEnd_interrupts hv hs h⟩⟩,
    fun n pos s => ⟨exec_updateKeepVerified_none, fun x ha hc hx => ⟨completes_updateKeepVerified_needed ha hc hx,
      completes_updateKeepVerified_kept ha hc hx, fun hd hall ok hok => ?_⟩,
      fun ha h => ⟨_, exec_updateIdleTimeout ha h, interruptUpdate_blank 2 _⟩, exec_updateIdleTimeout_none⟩⟩
  · subst hi hufs
    have c : NextChunk m s x := ⟨ha, hx, hn, h16, hz, ho.trans hg⟩
    exact ⟨completes_updateData_more hv hs h c hg hd, completes_updateData_wrong hv hs h c hg hd, completes_updateData_written hv hs h c hg hd⟩
  · subst hi hd
    exact completes_updateData_invalid hv hs h (updateData_rejects hbad)
  · have e := exec_updateKeepVerified_last (n := n) ha hc hx hd hall
    have hok' : ok = (candidateKept pos x (s.at n)).updateHolds := hok
    subst hok'
    refine ⟨fun hok => ⟨_, e, completeUpdate_accepted hok⟩, fun hok => ?_⟩
    rw [completeUpdate_refused hok] at e
    obtain ⟨hst, hcause, hdetail, hoff, hnew⟩ := interruptUpdate_blank 4 (candidateKept pos x (s.at n))
    exact ⟨_, e, hst, hcause, hdetail, hoff, interruptUpdate_ufs _ _, hnew⟩

end Sys2Proof.Machine
